-- ==== Sys2Proof/Word.lean ====
section
/-!
DEFINITION. Word.lean: the word types of the model and the keyed list that every indexed array of the block uses.
Multi-byte quantities are little-endian (R10): byte b of a row is bits [8b+7:8b] of its 1,024-bit word.
-/
namespace Sys2Proof

/-- One byte. -/
abbrev Byte := BitVec 8
/-- One register word of the service bus (R11). -/
abbrev Word := BitVec 32
/-- One row of a bank, or the data of one flit: 128 bytes (R30). -/
abbrev Row := BitVec 1024
/-- One bit for each 32-byte chunk of a row (R30): chunk enables, poison marks. -/
abbrev Mask4 := BitVec 4

/-- A keyed list: the sparse arrays of the block (counters, tallies, lanes, banks, ...).
Kept in one canonical form (keys strictly rising, no entry at the array's default), see `NMap.wf`. -/
abbrev NMap (α : Type) := List (Nat × α)

end Sys2Proof
end

