-- ==== Sys2Proof/Syntax.lean ====
section
/-!
DEFINITION. Syntax.lean: the commands of the block, one constructor for each row of the table of operations and events.
A command is one whole step. Its operands name the item the event is about (a lane, a bank port, a queue, a bucket, ...),
the attributes and data of a service-bus access, and what the physical world contributes (flipped cell bits, parity errors).
-/
namespace Sys2Proof

/-- The attributes of one service-bus access (R384, R487): INIT, PRIV, size code and the tile-DMA mark. -/
structure BusAcc where
  init : BitVec 2
  priv : BitVec 3
  size : BitVec 2
  dma : Bool
deriving DecidableEq, Repr

/-- The dual-clock queues of R111: read lane, write lane, read-lane request channel, write-lane request channel, and the
latest-value register that carries a request channel's queue ticket (R247). -/
inductive DcqKind where
  | rd | wr | rq | wq | rqTicket | wqTicket
deriving DecidableEq, Repr

/-- The message kinds of the power-controller exchange that the block offers (R492). -/
inductive PcMsg where
  | acknowledge | estimate | hint
deriving DecidableEq, Repr

/-- The kinds of unit that forwarding replaces (R462). -/
inductive FwdKind where
  | bank | plane | cluster | statRow
deriving DecidableEq, Repr

/-- One stored bit found flipped since the last access of the row: its chunk and its position among the chunk's 266 stored
bits, 0-255 data and 256-265 check bits (R46). -/
structure Upset where
  chunk : BitVec 2
  pos : Nat
deriving DecidableEq, Repr

/-- Parity errors a flit meets in the Sorting Frame (R91): the failing chunks at the middle-plane input, the egress input and
the lane output or bank-port register, and the physical plane the flit crossed. All masks 0: no error. -/
structure Parity where
  mid : Mask4
  egr : Mask4
  out : Mask4
  plane : BitVec 5
deriving DecidableEq, Repr

/-- The commands. -/
inductive Instr where
  /-- Assertion of lmy_por_n resets every domain, clears all state and returns banks and domains 100-131 to Off (R365). -/
  | powerOnResetAssert
  /-- Release of lmy_por_n powers up domains 132-134 and releases each domain reset after its synchroniser (R368). -/
  | powerOnResetRelease (part : BitVec 64) (tile : BitVec 5) (field : Bool)
  /-- Assertion of lmy_trst_n abandons in-flight work and clears tile state while keeping the applied level, the time counter and the debug state (R365). -/
  | tileResetAssert
  /-- Release of the tile reset samples part and tile identity and starts the Waybill load sequence (R368). -/
  | tileResetRelease (part : BitVec 64) (tile : BitVec 5)
  /-- A write of LMY_RST_CTL with SWRST 1 and KEY 0xA5 asserts an internal tile reset for 64 BCLK (R367). -/
  | softwareTileReset (a : BusAcc) (w : Word)
  /-- The 64-BCLK internal tile reset ends and acts as a tile-reset release (R367). -/
  | softwareResetEnd (part : BitVec 64) (tile : BitVec 5)
  /-- 16 WCLK after reset release the block raises lmy_cfg_req to ask the boot controller for the Waybill (R368). -/
  | cfgRequest
  /-- One image word is taken on the configuration bus and checked for header and structure, with the CRC accumulated (R377). -/
  | cfgWord (w : Word)
  /-- After the last word the block checks the CRC and the content of every section, present or defaulted, in ascending TYPE (R377). -/
  | waybillCheck
  /-- No first word within 2.75 ms, or no next word within 1 ms, fails the load with reason 14 and raises cause 2 (R379). -/
  | loadTimeout
  /-- A service-bus write to a register without behaviour of its own stores, ignores, clears or sets bits by its access type, or is refused for privilege or size (R14). -/
  | registerWrite (a : BusAcc) (off : BitVec 16) (w : Word)
  /-- A read of a counter's low word returns bits [31:0] and latches bits [55:32] into the reader's shadow (R15). -/
  | counterLowRead (a : BusAcc) (off : BitVec 16)
  /-- A read of LMY_TM_LO returns the low time bits and latches the high bits into the reader's shadow (R426). -/
  | timeLowRead (a : BusAcc)
  /-- A read of LMY_XC_LO returns the selected extended counter's low word and latches its high bits (R420). -/
  | xcLoRead (a : BusAcc)
  /-- A read of LMY_XC_HI returns the latched shadow and advances INDEX when AUTOINC is 1 (R420). -/
  | xcHiRead (a : BusAcc)
  /-- Writing LMY_XC_CTL.CLR sets every extended counter to 0 in one CCLK (R420). -/
  | xcClear (a : BusAcc) (w : Word)
  /-- A client's own read request is taken from the request DCQ into arbitration on its read lane (R106). -/
  | ownReadRequest (onWr : Bool) (lane : Nat) (rq : BitVec 64)
  /-- A client's own write request is taken into arbitration and paired with its data flits on the write lane (R106). -/
  | ownWriteRequest (onWr : Bool) (lane : Nat) (rq : BitVec 64)
  /-- A client's own atomic request is taken into arbitration with one operand flit on its write lane (R106). -/
  | ownAtomicRequest (onWr : Bool) (lane : Nat) (rq : BitVec 64)
  /-- The engine presents a write flit that the lane DCQ takes while it has a free entry (R483). -/
  | writeFlitTaken (lane : Nat) (data : Row) (sb : BitVec 81)
  /-- A DCQ entry becomes readable in the destination clock after the synchroniser delay (R111). -/
  | dcqCrossing (kind : DcqKind) (lane : Nat)
  /-- A flit moves from a write DCQ through any blend into staging when staging has room, returning its DCQ credit (R112). -/
  | writeFlitToStaging (lane : Nat) (par : Mask4)
  /-- The engine takes the head flit of a read DCQ, returning one read-lane credit (R482). -/
  | readFlitTake (lane : Nat)
  /-- A flit moves from the landing buffer into the read DCQ when the DCQ has room (R110). -/
  | landingToDcq (lane : Nat)
  /-- Lane issue arbiters append at most one transfer per lane to the issue order, multicasts to all their lanes together (R235). -/
  | laneIssue
  /-- A write transfer requests arbitration once staging holds every source flit of the rows it stores (R162). -/
  | writeTransferRequest (lane : Nat)
  /-- The bank arbiters rank candidates, reserve port cycles, pre-empt lower classes and move pointers in one decision per CCLK (R236). -/
  | decision (tclk : Nat)
  /-- A granted read beat reads its row in its array cycle and checks and corrects it over two cycles (R33). Its bank is a
  logical one, 128 + a physical one, or of a beat left behind by a switch (R468) 256 + 128 times the physical + the logical one. -/
  | arrayRead (bank : Nat) (port : Bool) (ups : List Upset)
  /-- A granted write beat stores its enabled chunks in its array cycle, with poison code and initialised bits (R37). -/
  | arrayWrite (bank : Nat) (port : Bool) (par : Parity)
  /-- An atomic reads its row in cycle t, applies ADD or a swap, and writes the result in cycle t+1 (R41). -/
  | atomicExecute (bank : Nat) (port : Bool) (ups : List Upset) (par : Parity)
  /-- A corrected chunk held in the write-back slot is written back in the first idle port cycle (R50). -/
  | writeBack (bank : Nat)
  /-- A read flit passes egress, shuffle, merge and lane output register, then conversion and blend into the landing buffer (R93). -/
  | readFlitOutput (lane : Nat) (par : Parity) (blpar : Mask4)
  /-- A requester's contended run reaching HOLDLIM cuts it off at the bank for 16 decisions, counted and raising cause 16 (R244). -/
  | holdLimitCutoff (bank : Nat) (port : Bool)
  /-- The 16-decision cut-off expires and the requester becomes a candidate at the bank again (R244). -/
  | cutoffEnd (bank : Nat) (req : Nat)
  /-- QREPEAT cut-offs within QWIN quarantine a requester and raise cause 17 (R245). -/
  | quarantine (req : Nat)
  /-- QTIME elapses, ending a quarantine with cause 18 (R245). -/
  | quarantineTimeout (req : Nat)
  /-- A C0 write of LMY_ARB_QREL ends the quarantine of one or all requesters with cause 18 (R245). -/
  | quarantineRelease (a : BusAcc) (w : Word)
  /-- Every 2^SHWINL2 CCLK in share mode every requester counter is reset to its weight (R248). -/
  | shareRefill
  /-- A write to window word 15 commits the staged slip to the queue tail, or is refused with cause 29 or 30 (R256). -/
  | slipCommit (a : BusAcc) (q : BitVec 6) (w : Word)
  /-- The sequencer issues a fetch order flit on RL61 when slips are available and the queue has room (R257). -/
  | fetchOrder (q : BitVec 6)
  /-- The oldest undecoded slip is decoded over 2 CCLK, taking its table values and running its checks (R265). -/
  | slipDecode (q : BitVec 6)
  /-- A NOP slip starts and ends in its start cycle (R267). -/
  | nop (q : BitVec 6)
  /-- A READ slip starts and delivers its geometry's rows to its destination lanes through shuffle, conversion and blend (R274). -/
  | read (q : BitVec 6)
  /-- A WRITE slip starts, claims its write lane and stores the engine's flits at its geometry (R277). -/
  | write (q : BitVec 6)
  /-- A MOVE slip starts, reads its source through the read path and turns flits into a write lane's staging to store them (R278). -/
  | move (q : BitVec 6)
  /-- A HELD slip starts and requests its whole holding reservation (R208). -/
  | held (q : BitVec 6)
  /-- An ATOMIC slip starts, claims its write lane and performs one atomic per geometry row (R277). -/
  | atomic (q : BitVec 6)
  /-- A WAIT slip starts evaluating its tallies against their targets each cycle (R269). -/
  | wait (q : BitVec 6)
  /-- All of a WAIT's tallies have reached their targets and the WAIT ends next cycle (R269). -/
  | waitReached (q : BitVec 6)
  /-- A SIGNAL slip adds 1 to each of its valid tallies in its start cycle (R270). -/
  | signal (q : BitVec 6)
  /-- A MARK slip asks for one range-marker postmark and may trigger the trace window (R279). -/
  | mark (q : BitVec 6)
  /-- A HINT slip passes LEVEL, LEADUS and DURUS to the preheat-hint path (R281). -/
  | hint (q : BitVec 6)
  /-- A FENCE slip starts holding its queue until earlier deliveries are delivered or consumed (R271). -/
  | fence (q : BitVec 6)
  /-- A FENCE's scope is met for every earlier flit and the FENCE ends (R271). -/
  | fenceMet (q : BitVec 6)
  /-- A STEP slip adds to or sets its context's step counter and records a step postmark (R280). -/
  | step (q : BitVec 6)
  /-- A slip ends after its last access, frees its entry, and its successor may start, or the queue stops on a fault (R267). -/
  | slipEnd (q : BitVec 6)
  /-- LMY_SQ_CMD RESUME continues a stopped or paused queue or re-decodes a malformed slip (R283). -/
  | queueResume (a : BusAcc) (q : BitVec 6)
  /-- LMY_SQ_CMD SKIP discards a malformed slip, or acts as RESUME after a fault (R283). -/
  | queueSkip (a : BusAcc) (q : BitVec 6)
  /-- LMY_SQ_CMD FLUSH discards every unstarted entry and clears any stop or pause (R283). -/
  | queueFlush (a : BusAcc) (q : BitVec 6)
  /-- LMY_SQ_CMD PAUSE sets STATE 5 once the executing slip ends (R283). -/
  | queuePause (a : BusAcc) (q : BitVec 6)
  /-- A queue's no-progress count reaches its limit, setting WDOG, logging and raising cause 26 (R284). -/
  | watchdogExpiry (q : BitVec 6)
  /-- A write of LMY_TLY_INC adds 1 to a tally of the writer's context (R270). -/
  | tallyInc (a : BusAcc) (t : BitVec 6)
  /-- A write of LMY_TLYt sets a tally, with same-cycle increments added after it (R270). -/
  | tallyWrite (a : BusAcc) (t : BitVec 6) (w : Word) (incs : Nat)
  /-- A waiting slip's slot request is served in order when the active clusters hold slots for all its lanes (R190). -/
  | blendSlotAlloc
  /-- The last vector row of a blend slot arrives and the slip requests its first transfer next cycle (R183). -/
  | vectorLoadDone (q : BitVec 6)
  /-- A HELD slip's request is granted the lowest free holding blocks and statistic rows within quota (R208). -/
  | holdReservation
  /-- A HELD tile is admitted once the arrival tally reaches ABASE + j + 1, or at once with AEN 0 (R212). -/
  | tileAdmit (q : BitVec 6)
  /-- A tile's last parking or redelivery read passes the bank read stage and RTALLY is signalled (R214). -/
  | tileRelease (q : BitVec 6)
  /-- A line's statistics become ready 4 CCLK after its last row reaches the statistics unit, and its record is written (R220). -/
  | statsReady (q : BitVec 6) (par : Bool)
  /-- Redelivery of a line issues its first read at the latest of its three start conditions (R220). -/
  | redeliveryStart (q : BitVec 6)
  /-- A HELD slip releases its reservation after its last redelivery read and last statistics record (R209). -/
  | holdRelease (q : BitVec 6)
  /-- A write of LMY_HD_CANCEL cancels the executing HELD slip of a queue, flushing or dropping its flits (R226). -/
  | heldCancel (a : BusAcc) (w : Word)
  /-- A cancellation completes, releasing slots and reservation and ending the slip with a fault and cause 28 (R226). -/
  | heldCancelEnd (q : BitVec 6)
  /-- A write of LMY_PT_DATA stores a permute descriptor unless its entry is valid or busy, and advances the address (R140). -/
  | ptDataWrite (a : BusAcc) (w : Word)
  /-- A read of LMY_PT_DATA returns a descriptor and advances the address when AUTOINC is 1 (R140). -/
  | ptDataRead (a : BusAcc)
  /-- A write of LMY_PT_VALIDw sets entries valid after checking their descriptors, or clears them (R133). -/
  | ptValidWrite (a : BusAcc) (n : BitVec 3) (w : Word)
  /-- A write of LMY_BT_DATA stores a parameter-set or table word unless ignored, and advances the address (R200). -/
  | btDataWrite (a : BusAcc) (w : Word)
  /-- A read of LMY_BT_DATA returns a word and advances the address when AUTOINC is 1 (R200). -/
  | btDataRead (a : BusAcc)
  /-- A write of LMY_BT_PSVALIDw sets parameter sets valid after their checks, or clears them (R201). -/
  | psvalidWrite (a : BusAcc) (n : Bool) (w : Word)
  /-- A write of LMY_BT_TBLVALID sets programmable tables valid after their checks and recomputes their CRC (R202). -/
  | tblvalidWrite (a : BusAcc) (w : Word)
  /-- A write of LMY_BANK_PREQn places power requests for eight banks, held during transitions or refused with cause 41 (R54). -/
  | bankPreqWrite (a : BusAcc) (n : BitVec 4) (w : Word)
  /-- A waiting bank power-up starts when fewer than MAXUP banks are powering up (R53). -/
  | bankPowerupStart (bank : Nat)
  /-- A bank power-down begins after the last beat reserved at the bank has been performed (R52). -/
  | bankPowerdownStart (bank : Nat)
  /-- A bank power transition completes, including any zero-fill, and any held request is applied (R51). -/
  | bankTransitionDone (bank : Nat)
  /-- A write of LMY_PWR_DREQ requests domains On or Off, refused with cause 43 where it would breach plane or spare limits (R336). -/
  | domainReqWrite (a : BusAcc) (w : Word)
  /-- A domain power-down starts in the first cycle its idle condition holds (R336). -/
  | domainPowerdownStart (dom : BitVec 5)
  /-- A waiting domain power-up starts when fewer than 2 domains are powering up (R335). -/
  | domainPowerupStart (dom : BitVec 5)
  /-- A domain transition completes and any held request is applied (R335). -/
  | domainTransitionDone (dom : BitVec 5)
  /-- At each 125 ns sub-window boundary the rail sums slide, a new gain or limit applies (R346). -/
  | subwindowBoundary
  /-- At each 1 µs boundary the block offers an estimate message with the rail means (R345). -/
  | estimateMessage
  /-- A 10 ms calibration interval ends, recording raw charge and setting CALSTALE after 3 missed intervals (R343). -/
  | calIntervalEnd
  /-- A calibration message sets a new clamped gain or is discarded with cause 45 (R343). -/
  | calibration (msg : BitVec 64)
  /-- A level command is received and applied, held, or rejected with ERR and cause 45 (R352). -/
  | levelCommand (msg : BitVec 16)
  /-- After lmy_ck_lock rises the block switches CCLK to the retuned input and offers the acknowledge (R480). -/
  | clockSwitch
  /-- No lock 1,920 TCLK after retune: the level is kept, the command acknowledged ERR and cause 45 raised (R481). -/
  | lockTimeout
  /-- A substep change takes effect at a boundary of 16 edges of step 0's clock (R352). -/
  | substepApply
  /-- At each 1 µs window end the hints started in it are merged into one hint message (R355). -/
  | hintWindowEnd
  /-- The power controller takes an acknowledge, estimate or hint message offered by the block (R492). -/
  | pcMessageTaken (kind : PcMsg)
  /-- A contribution flit moves from WL42 or WL43 into a VC intake slot or is dropped (R299). -/
  | intakeFlit (lane : Bool)
  /-- The combiner takes a contribution, combines it with parked partials up the tree, then parks it or stores the reduced flit (R313). -/
  | combine (vc : BitVec 4)
  /-- A freed intake slot's credit is returned to the fabric on lmy_rdx_vccred (R301). -/
  | vcCreditReturn (vc : BitVec 4)
  /-- The fabric returns egress credits, clamped to EGCRED with cause 35 on excess (R303). -/
  | egressCreditReturn (vc : BitVec 4) (count : BitVec 8)
  /-- A write of LMY_RDX_BDATA stores a bucket descriptor word unless ignored, and advances the address (R306). -/
  | bdataWrite (a : BusAcc) (w : Word)
  /-- A read of LMY_RDX_BDATA returns a descriptor word and advances the address when AUTOINC is 1 (R306). -/
  | bdataRead (a : BusAcc)
  /-- LMY_RDX_CMD ARM reads the descriptor and sets the bucket ARMED, or refuses with a reason (R307). -/
  | arm (a : BusAcc) (bucket : BitVec 6)
  /-- LMY_RDX_CMD ABORT frees the bucket's pigeonholes, drops its flits and sets it FREE with cause 37 (R309). -/
  | abort (a : BusAcc) (bucket : BitVec 6)
  /-- A bucket's norm pass ends with q_b computed, opening its update gate or skipping the update (R322). -/
  | normPassEnd (bucket : BitVec 6)
  /-- A write of LMY_RDX_NGCTLg configures a norm group and resets its count and partial (R323). -/
  | ngctlWrite (a : BusAcc) (g : BitVec 3) (w : Word)
  /-- The optimizer updates one flit's weights and moments once its gate is open (R324). -/
  | updateFlit (bucket : BitVec 6)
  /-- A result flit is sent on RL62 or RL63 when lane and egress credits allow; the last one takes the bucket to DONE (R328). -/
  | resultSend (bucket : BitVec 6)
  /-- LMY_PROT_CMD PROPOSE locks and checks the staging, computing D_B or refusing with a reason (R393). -/
  | propose (a : BusAcc)
  /-- LMY_PROT_CMD CANCEL returns the commit to IDLE, discarding digests and reloading the staging (R392). -/
  | cancel (a : BusAcc)
  /-- LMY_PROT_CMD REKEY generates a fresh sealing key for one context and resets its SEQ (R401). -/
  | rekey (a : BusAcc) (ctx : BitVec 3)
  /-- A party's write of its digest HI register completes a digest, opening the window or triggering the comparison (R394). -/
  | digestComplete (a : BusAcc) (off : BitVec 16) (w : Word)
  /-- The 1 ms window expires, discarding digests, returning to PROPOSED and raising cause 60 (R396). -/
  | commitWindowExpiry
  /-- When every affected context is quiescent the staged table is applied in one cycle with cause 61 (R398). -/
  | commitApply
  /-- Writing a seal session's ARM bit primes it with its context's key and SEQ (R402). -/
  | sealArm (a : BusAcc) (l : BitVec 2) (w : Word)
  /-- A priming seal session becomes ACTIVE once its keystream buffer is filled (R402). -/
  | sealActive (l : BitVec 2)
  /-- LMY_DBG_REQ UNLOCK starts a purge, or is refused with cause 58 on a locked field part (R406). -/
  | unlock (a : BusAcc) (w : Word)
  /-- LMY_DBG_REQ RELOCK returns the debug state to LOCKED with no grant (R411). -/
  | relock (a : BusAcc) (w : Word)
  /-- The purge finishes erasing every secret; STATE becomes UNLOCKED, grants are recorded and cause 63 raised (R409). -/
  | purgeComplete
  /-- A time beacon sets, holds or jumps the time counter, or is ignored as excess with cause 51 (R422). -/
  | beacon (tb : BitVec 64)
  /-- No beacon for 4 periods sets LOST, counts, records a LOSS postmark and raises cause 50 (R424). -/
  | beaconLoss
  /-- The time counter copy unchanged for 64 tile-clock cycles sets TSTALL and a TSTALL record (R425). -/
  | tclkStall
  /-- TCLK resumes after a stall, clearing TSTALL with a TRESUME record (R425). -/
  | tclkResume
  /-- A change of time bits [63:40] writes a TIME record of kind SYNC (R428). -/
  | timeSync
  /-- The collector takes the records of a CCLK into its input queue, losing whole records that do not fit (R430). -/
  | collect
  /-- A full trace row in the write buffer is written to the ring through IW10, advancing WPTR (R432). -/
  | traceRowWrite
  /-- After 256 CCLK without a new slot the partial trace row is written (R432). -/
  | traceRowTimeout
  /-- After P post-trigger slots the window ring freezes, setting FROZEN and raising cause 49 (R434). -/
  | traceFreeze
  /-- LMY_TR_CMD TRIG triggers the trace window, writing a TRIG record (R434). -/
  | traceTrig (a : BusAcc)
  /-- LMY_TR_CMD FLUSH writes the partial trace row now (R432). -/
  | traceFlush (a : BusAcc)
  /-- LMY_TR_CMD REARM clears TRIGD and FROZEN so the ring continues from WPTR (R434). -/
  | traceRearm (a : BusAcc)
  /-- LMY_TR_CMD SYNC generates a TIME record of kind SYNC (R428). -/
  | traceSync (a : BusAcc)
  /-- A C0 write of LMY_TR_RPTR frees ring slots under the stream policy, or is ignored with WIGN (R433). -/
  | traceRptrWrite (a : BusAcc) (w : Word)
  /-- Setting LMY_TR_CTL.EN resets the ring pointers and status and writes a SYNC record (R436). -/
  | traceEnable (a : BusAcc) (w : Word)
  /-- Clearing LMY_TR_CTL.EN stops generation and flushes the write buffer (R436). -/
  | traceDisable (a : BusAcc) (w : Word)
  /-- The die trace network takes one postmark slot from the egress DCQ (R489). -/
  | egressSlotTaken
  /-- lmy_stop sampled 1 starts the synchroniser sequence leading to a halt (R440). -/
  | stopAssert
  /-- The block halts in cycle S+1, freezing every CCLK stage, recording STOP and raising cause 52 (R441). -/
  | halt
  /-- Once stop and local halt are clear and 16 CCLK have passed the block resumes and writes RESUME (R443). -/
  | blockResume
  /-- A halt from lmy_stop lasting 2^STUCKL2 sets STUCK and raises cause 53 (R444). -/
  | stopStuck
  /-- LMY_STOP_CMD HALT sets the local halt of this block (R445). -/
  | localHalt (a : BusAcc)
  /-- LMY_STOP_CMD RUN clears the local halt (R445). -/
  | localRun (a : BusAcc)
  /-- LMY_SCAN_CMD CAPTURE copies control state into the scan buffer when halted and granted, or is refused (R446). -/
  | scanCapture (a : BusAcc)
  /-- The scan capture completes within 1,536 TCLK and the image becomes valid (R446). -/
  | scanCaptureDone
  /-- A read of LMY_SCAN_DATA returns an image word and advances WORD when AUTOINC is 1 (R447). -/
  | scanDataRead (a : BusAcc)
  /-- A write of LMY_BRD_ADDR starts a full bank readout through IR19, or is refused (R448). -/
  | bankReadout (a : BusAcc) (w : Word)
  /-- The readout row arrives in LMY_BRD_DATA0-31 and DONE is set (R448). -/
  | bankReadoutDone (ups : List Upset)
  /-- LMY_HS_CMD CAPTURE, a watchdog report or a halt copies the hang snapshot in one cycle (R449). -/
  | hangCapture (a : BusAcc)
  /-- LMY_HS_CMD RELEASE clears HELD (R449). -/
  | hangRelease (a : BusAcc)
  /-- A read of LMY_HS_DATA returns a snapshot word and advances WORD when AUTOINC is 1 (R449). -/
  | hsDataRead (a : BusAcc)
  /-- Writing LMY_WUu_CFG.ARM arms a watch unit, or is refused with REJ (R450). -/
  | watchArm (a : BusAcc) (u : BitVec 2) (w : Word)
  /-- Writing LMY_WUu_CFG.DISARM returns the watch unit to IDLE (R450). -/
  | watchDisarm (a : BusAcc) (u : BitVec 2) (w : Word)
  /-- A write of LMY_WU_RDADDR reads a dump-region row through IR18, or is refused (R454). -/
  | watchReadout (a : BusAcc) (w : Word)
  /-- The dump-region row arrives in LMY_WU_RDDATA0-31 and DONE is set (R454). -/
  | watchReadoutDone
  /-- A forwarding rate window ends and every unit's error count restarts at 0 (R462). -/
  | fwdWindowEnd
  /-- Uncorrectable errors in STORMN banks within 1 ms set STORM and suspend automatic forwarding (R463). -/
  | storm
  /-- A pending unit starts forwarding when its kind is idle, the entry queue has room and it is allowed (R464). -/
  | fwdStart (kind : FwdKind)
  /-- The woken spare bank is On and the migration enters COPY (R465). -/
  | migrationCopyStart
  /-- One source row is read at class 0 and written to the spare with its initialised enables (R466). -/
  | copyRow (ups : List Upset)
  /-- With all rows copied and dual writes drained the logical bank's map moves to the spare, the old bank retires and cause 10 is raised (R468). -/
  | migrationSwitch
  /-- Legs on the failing plane complete, the entry is queued and cause 10 raised (R471). -/
  | planeForwardDone
  /-- The failing cluster's last slot is released, retiring it, queuing the entry and raising cause 10 (R472). -/
  | clusterRetire
  /-- A statistic row is replaced by a spare row once no reservation holds it, with cause 10 (R473). -/
  | statrowSubstitute
  /-- LMY_FWD_CMD FORWARD sets a unit pending by command (R462). -/
  | forward (a : BusAcc) (kind : BitVec 3) (unit : BitVec 12)
  /-- LMY_FWD_CMD CANCEL ends a bank migration before its switch, returning the spare and raising cause 11 (R470). -/
  | fwdCancel (a : BusAcc)
  /-- LMY_FWD_CMD ACK removes the head forwarding entry (R475). -/
  | ack (a : BusAcc)
  /-- LMY_FWD_CMD RESUMEAUTO clears STORM so triggers start forwarding again (R463). -/
  | resumeauto (a : BusAcc)
  /-- The block's digest D_B of the locked staging becomes ready within 512 BCLK of PROPOSE and STATE moves from IDLE to PROPOSED (R392). -/
  | proposalDigestReady
  /-- After a beacon with -1,024 <= d < 0 the time counter has held for -d TCLK cycles and starts counting again (R422). -/
  | timeHoldEnd
  /-- lmy_stop is seen as 0 at the synchroniser output, clearing EXT and re-arming stop detection even while a local halt keeps the block halted (R444). -/
  | stopDeassert
  /-- The tile clock source lowers lmy_ck_lock after lmy_ck_rtn falls, allowing a held level command's handshake to begin (R480). -/
  | clockLockFall
  /-- A 1 ms storm-guard window of the time counter ends and the count of distinct banks with uncorrectable errors restarts (R463). -/
  | stormWindowEnd
  /-- A clock toggles after its LMY_CLK_SEEN bit was cleared, and the block sets that bit (R383). -/
  | clockSeen (clk : BitVec 4)
deriving DecidableEq, Repr

end Sys2Proof
end

