-- ==== Sys2Proof/Decode.lean ====
section
/-!
DEFINITION. Decode.lean: the block has no instruction decoder; commands arrive as events at its boundary, and no row of the
table of operations and events gives a command any bits (every row's field list is empty).
-/
namespace Sys2Proof

/-- The command a word spells by the table's bits: no row gives bits, so no word spells a command. -/
def decodeTableWord (nbits w : Nat) : Option Instr :=
  let _ := nbits
  let _ := w
  none

end Sys2Proof
end

