-- ==== Sys2Proof/Machine/Maps.lean ====
section
/-!
DEFINITION. Machine/Maps.lean: reading and writing the keyed lists of State, and bit-field helpers.
-/
namespace Sys2Proof

/-- The entry of `k`, or `d` where none is listed. -/
def NMap.get {α : Type} (d : α) : NMap α → Nat → α
  | [], _ => d
  | (j, v) :: m, k => if j = k then v else NMap.get d m k

/-- Remove the entries of `k`. -/
def NMap.erase {α : Type} : NMap α → Nat → NMap α
  | [], _ => []
  | (j, v) :: m, k => if j = k then NMap.erase m k else (j, v) :: NMap.erase m k

/-- Put an entry before the first larger key. -/
def NMap.ins {α : Type} (k : Nat) (v : α) : NMap α → NMap α
  | [] => [(k, v)]
  | (j, w) :: m => if k < j then (k, v) :: (j, w) :: m else (j, w) :: NMap.ins k v m

/-- Write `v` at `k`: the default removes the entry, so equal arrays are equal data. -/
def NMap.set {α : Type} [DecidableEq α] (d : α) (m : NMap α) (k : Nat) (v : α) : NMap α :=
  if v = d then NMap.erase m k else NMap.ins k v (NMap.erase m k)

/-- Change the entry of `k` by `f`. -/
def NMap.upd {α : Type} [DecidableEq α] (d : α) (m : NMap α) (k : Nat) (f : α → α) : NMap α :=
  NMap.set d m k (f (NMap.get d m k))

/-- Keys strictly rising above `lo`, no entry at the default. -/
def NMap.wfFrom {α : Type} [DecidableEq α] (d : α) : Nat → NMap α → Bool
  | _, [] => true
  | lo, (k, v) :: m => decide (lo ≤ k) && decide (v ≠ d) && NMap.wfFrom d (k + 1) m

/-- The canonical form of a keyed list. -/
def NMap.wf {α : Type} [DecidableEq α] (d : α) (m : NMap α) : Bool := NMap.wfFrom d 0 m

/-- Write the values of a list at consecutive keys. -/
def NMap.setList {α : Type} [DecidableEq α] (d : α) : NMap α → Nat → List α → NMap α
  | m, _, [] => m
  | m, k, v :: vs => NMap.setList d (NMap.set d m k v) (k + 1) vs

namespace Machine

/-- Bits [hi:lo] of a number. -/
def bits (n hi lo : Nat) : Nat := (n >>> lo) % 2 ^ (hi + 1 - lo)

/-- Bit `i` of a number. -/
def bit (n i : Nat) : Bool := n.testBit i

/-- A Bool as a number. -/
def b2n (b : Bool) : Nat := if b then 1 else 0

/-- A field value placed at bit `lo`. -/
def fld (v lo : Nat) : Nat := v <<< lo

/-- The field [hi:lo] of `old` replaced by `v`. -/
def setBits (old hi lo v : Nat) : Nat :=
  old - (bits old hi lo <<< lo) + ((v % 2 ^ (hi + 1 - lo)) <<< lo)

/-- Two's complement value of the low `w` bits. -/
def sext (w n : Nat) : Int :=
  let m := n % 2 ^ w
  if m.testBit (w - 1) then (m : Int) - (2 ^ w : Nat) else (m : Int)

/-- Sum of a list. -/
def nsum (l : List Nat) : Nat := l.foldl (· + ·) 0

/-- Number of elements of a list that hold. -/
def ncount (l : List Bool) : Nat := l.foldl (fun a b => if b then a + 1 else a) 0

/-- The parity of the low 64 bits of a number. -/
def parity64 (n : Nat) : Bool :=
  (List.range 64).foldl (fun a i => a != n.testBit i) false

/-- Ceiling division. -/
def cdiv (a b : Nat) : Nat := (a + b - 1) / b

/-- Remove repeats, keeping first occurrences. -/
def dedup : List Nat → List Nat
  | [] => []
  | x :: xs => x :: (dedup xs).filter (fun y => y != x)

/-- Replace element `i` of a list. -/
def listSet {α : Type} : List α → Nat → α → List α
  | [], _, _ => []
  | _ :: xs, 0, v => v :: xs
  | x :: xs, n + 1, v => x :: listSet xs n v

/-- Element `i` of a list, or a default. -/
def listGet {α : Type} (d : α) : List α → Nat → α
  | [], _ => d
  | x :: _, 0 => x
  | _ :: xs, n + 1 => listGet d xs n

/-- Cut a list into pieces of `n` (`fuel` bounds the number of pieces). -/
def chunksOf {α : Type} (n : Nat) : Nat → List α → List (List α)
  | 0, _ => []
  | _, [] => []
  | fuel + 1, l => l.take n :: chunksOf n fuel (l.drop n)

/-- Insertion into a list ordered by `lt`, after elements that are not greater. -/
def ordIns {α : Type} (lt : α → α → Bool) (x : α) : List α → List α
  | [] => [x]
  | y :: ys => if lt x y then x :: y :: ys else y :: ordIns lt x ys

/-- Stable insertion sort. -/
def ordSort {α : Type} (lt : α → α → Bool) (l : List α) : List α :=
  l.foldl (fun acc x => ordIns lt x acc) []

/-- The bytes `i*8` of a number as a list, lowest first. -/
def bytesOf (n count : Nat) : List Nat := (List.range count).map (fun i => bits n (8 * i + 7) (8 * i))

/-- A number from its bytes, lowest first. -/
def ofBytes : List Nat → Nat
  | [] => 0
  | b :: bs => b % 256 + 256 * ofBytes bs

/-- A number from its 32-bit words, lowest first. -/
def ofWords : List Nat → Nat
  | [] => 0
  | w :: ws => w % 2 ^ 32 + 2 ^ 32 * ofWords ws

/-- The 32-bit words of a number, lowest first. -/
def wordsOf (n count : Nat) : List Nat := (List.range count).map (fun i => bits n (32 * i + 31) (32 * i))

end Machine
end Sys2Proof
end

