-- ==== Sys2Proof/Config.lean ====
section
/-!
DEFINITION. Config.lean: what an implementation fixes and the values the manual leaves open.
Every constant here has no value that a proof can see, so a theorem holds whatever the value is.
-/
namespace Sys2Proof.Config

/-- R51: the contents of a byte of a bank after an Off to On transition without zero-fill are undefined.
First argument: how often the bank was powered up so (its epoch); second: the cell address. Log entry 5. -/
opaque freeByte : Nat → Nat → Byte

/-- R46: the class an implementation's decoder gives a chunk with three or more flipped bits, or a poison code with
further flips: 0 clean, 1 corrected, 2 uncorrectable, 3 poisoned. Argument: the free-value counter. Log entry 6. -/
opaque eccClass : Nat → BitVec 2

/-- R46: the data a miscorrection delivers for such a chunk. Argument: the free-value counter. Log entry 6. -/
opaque eccData : Nat → BitVec 256

/-- R48: the two fixed Hamming bits (check bits 0 to 8) whose inversion is the poison code: the first, and the other as its place among
the eight that remain. Log entry 7. -/
opaque poisonBits : Fin 9 × Fin 8

/-- R401: a 256-bit sealing key drawn from the block's random source. Argument: the free-value counter. Log entry 8. -/
opaque sealKey : Nat → BitVec 256

end Sys2Proof.Config
end

