-- ==== Sys2Proof/Machine/Real.lean ====
section
/-!
DEFINITION. Machine/Real.lean: exact values and the roundings of R151, R152 and R175.
A finite value is a sign and a rational magnitude num / den * 2^e; every conversion and every blend stage computes an
exact value and rounds it once.
-/
namespace Sys2Proof.Machine

/-- An exact value: a NaN, an infinity, or a signed rational num / den * 2^e (R150). -/
inductive Val where
  | nan
  | inf (neg : Bool)
  | fin (neg : Bool) (num den : Nat) (e : Int)
deriving DecidableEq, Repr

/-- A binary floating-point layout of R141. -/
structure FFmt where
  ebits : Nat
  mbits : Nat
  bias : Nat
deriving DecidableEq, Repr

def fmtF64 : FFmt := ⟨11, 52, 1023⟩
def fmtF32 : FFmt := ⟨8, 23, 127⟩
def fmtBF16 : FFmt := ⟨8, 7, 127⟩
def fmtF16 : FFmt := ⟨5, 10, 15⟩
def fmtE4M3 : FFmt := ⟨4, 3, 7⟩
def fmtE5M2 : FFmt := ⟨5, 2, 15⟩
def fmtE3M2 : FFmt := ⟨3, 2, 3⟩
def fmtE2M3 : FFmt := ⟨2, 3, 1⟩
def fmtE2M1 : FFmt := ⟨2, 1, 1⟩

/-- The layout of a format code of R146 (F32 for a code that has none). -/
def ffmt (code : Nat) : FFmt :=
  if code = 0 then fmtF64 else if code = 1 then fmtF32 else if code = 2 then fmtBF16 else if code = 3 then fmtF16
  else if code = 4 then fmtE4M3 else if code = 5 then fmtE5M2 else if code = 6 then fmtE3M2
  else if code = 7 then fmtE2M3 else if code = 8 then fmtE2M1 else fmtF32

/-- Shift a number left by an integer amount that is not negative. -/
def shl (n : Nat) (k : Int) : Nat := n <<< k.toNat

/-- num / den * 2^e at least 2^k. -/
def geP2 (num den : Nat) (e k : Int) : Bool :=
  if e ≥ k then decide (shl num (e - k) ≥ den) else decide (num ≥ shl den (k - e))

/-- Floor of the base-2 logarithm of a positive magnitude. -/
def flog2 (num den : Nat) (e : Int) : Int :=
  let k : Int := (Nat.log2 num : Int) - (Nat.log2 den : Int) + e
  if geP2 num den e (k + 1) then k + 1 else if geP2 num den e k then k else k - 1

/-- Whole steps of 2^g in a magnitude, with the remainder and its unit: (q, rem, unit), value = (q + rem / unit) * 2^g. -/
def gridDiv (num den : Nat) (e g : Int) : Nat × Nat × Nat :=
  let n := if e ≥ g then shl num (e - g) else num
  let d := if e ≥ g then den else shl den (g - e)
  (n / d, n % d, d)

/-- Round a magnitude to a whole number of steps 2^g (R151): `mode` is RND, `r` the 24-bit random value of R153. -/
def roundGrid (mode : Nat) (neg : Bool) (num den : Nat) (e g : Int) (r : Nat) : Nat :=
  let (q, rem, d) := gridDiv num den e g
  if rem = 0 then q
  else if mode = 0 then
    (if 2 * rem > d then q + 1 else if 2 * rem < d then q else if q % 2 = 0 then q else q + 1)
  else if mode = 1 then q
  else if mode = 2 then (if neg then q else q + 1)
  else if mode = 3 then (if neg then q + 1 else q)
  else (if r < (rem <<< 24) / d then q + 1 else q)

/-- The exponent of the grid step at a magnitude of binade `k`. -/
def stepExp (f : FFmt) (k : Int) : Int :=
  let emin : Int := 1 - (f.bias : Int)
  (if k < emin then emin else k) - (f.mbits : Int)

/-- Largest binade of a format whose all-ones exponent is reserved. -/
def emaxOf (f : FFmt) : Int := ((2 ^ f.ebits - 2 : Nat) : Int) - (f.bias : Int)

/-- The encoding, without sign, of `q` steps of exponent `g` (q below 2^(m+1)). -/
def encMag (f : FFmt) (q : Nat) (g : Int) : Nat :=
  if q < 2 ^ f.mbits then q
  else ((g + (f.mbits : Int) + (f.bias : Int)).toNat <<< f.mbits) + (q - 2 ^ f.mbits)

/-- Sign bit position. -/
def signBit (f : FFmt) : Nat := f.ebits + f.mbits

/-- Encode sign and magnitude. -/
def withSign (f : FFmt) (neg : Bool) (mag : Nat) : Nat := (b2n neg <<< signBit f) + mag

/-- The infinity of R141. -/
def encInf (f : FFmt) (neg : Bool) : Nat := withSign f neg ((2 ^ f.ebits - 1) <<< f.mbits)

/-- The canonical quiet NaN of R155. -/
def encNan (f : FFmt) : Nat := ((2 ^ f.ebits - 1) <<< f.mbits) + 2 ^ (f.mbits - 1)

/-- The largest finite value of a sign. -/
def encMax (f : FFmt) (neg : Bool) : Nat := withSign f neg (((2 ^ f.ebits - 1) <<< f.mbits) - 1)

/-- The result of rounding a finite value: encoding, overflow to infinity, overflow to the largest finite value,
non-zero rounded to zero, subnormal result. -/
structure Rounded where
  enc : Nat
  ovf : Bool
  sat : Bool
  unf : Bool
  sub : Bool
deriving DecidableEq, Repr

/-- R151, R152: round a finite value once to an F64, F32, BF16 or F16 destination. -/
def roundFloat (f : FFmt) (mode : Nat) (satinf neg : Bool) (num den : Nat) (e : Int) (r : Nat) : Rounded :=
  if num = 0 then ⟨withSign f neg 0, false, false, false, false⟩
  else
    let emax := emaxOf f
    let k := flog2 num den e
    let huge := decide (k > emax)
    let k' := if huge then emax else k
    let g := stepExp f k'
    let q := roundGrid mode neg num den e g r
    let top := 2 ^ (f.mbits + 1)
    let (fq, frem, _) := gridDiv num den e g
    -- beyond the largest finite value before rounding
    let beyond := huge || (decide (k = emax) && decide (fq = top - 1) && decide (frem ≠ 0))
    let roundsOut := huge || (decide (k' = emax) && decide (q ≥ top))
    let ovr := if mode = 0 then roundsOut else beyond
    if ovr then
      let toInf := if mode = 0 then true else if mode = 1 then false else if mode = 2 then !neg
        else if mode = 3 then neg else roundsOut
      if toInf && !satinf then ⟨encInf f neg, true, false, false, false⟩
      else ⟨encMax f neg, false, true, false, false⟩
    else
      let (q', g') := if q ≥ top then (q / 2, g + 1) else (q, g)
      ⟨withSign f neg (encMag f q' g'), false, false, decide (q = 0), decide (q ≠ 0) && decide (q < 2 ^ f.mbits)⟩

/-- R141: decode an encoding of F64, F32, BF16, F16 or F8E5M2 (infinities and NaNs in the all-ones exponent). -/
def decFloat (f : FFmt) (n : Nat) : Val :=
  let neg := n.testBit (signBit f)
  let ex := bits n (f.mbits + f.ebits - 1) f.mbits
  let fr := n % 2 ^ f.mbits
  if ex = 2 ^ f.ebits - 1 then (if fr = 0 then .inf neg else .nan)
  else if ex = 0 then .fin neg fr 1 (1 - (f.bias : Int) - (f.mbits : Int))
  else .fin neg (2 ^ f.mbits + fr) 1 ((ex : Int) - (f.bias : Int) - (f.mbits : Int))

/-- Subnormal encoding: zero exponent, non-zero fraction. -/
def isSubnormal (f : FFmt) (n : Nat) : Bool :=
  decide (bits n (f.mbits + f.ebits - 1) f.mbits = 0) && decide (n % 2 ^ f.mbits ≠ 0)

/-- Exact zero of a sign. -/
def vzero (neg : Bool) : Val := .fin neg 0 1 0
/-- Exact one. -/
def vone : Val := .fin false 1 1 0
/-- A natural number. -/
def vnat (n : Nat) : Val := .fin false n 1 0
/-- An integer. -/
def vint (i : Int) : Val := .fin (decide (i < 0)) i.natAbs 1 0

/-- A zero. -/
def Val.isZero : Val → Bool
  | .fin _ 0 _ _ => true
  | _ => false

/-- A NaN. -/
def Val.isNan : Val → Bool
  | .nan => true
  | _ => false

/-- An infinity. -/
def Val.isInf : Val → Bool
  | .inf _ => true
  | _ => false

/-- The sign bit. -/
def Val.sign : Val → Bool
  | .nan => false
  | .inf n => n
  | .fin n _ _ _ => n

/-- Negate. -/
def vneg : Val → Val
  | .nan => .nan
  | .inf n => .inf (!n)
  | .fin n a d e => .fin (!n) a d e

/-- Magnitude. -/
def vabs : Val → Val
  | .nan => .nan
  | .inf _ => .inf false
  | .fin _ a d e => .fin false a d e

/-- Exact product; a product of 0 and an infinity is a NaN (R175). -/
def vmul : Val → Val → Val
  | .nan, _ => .nan
  | _, .nan => .nan
  | .inf n, .inf m => .inf (n != m)
  | .inf n, .fin m a _ _ => if a = 0 then .nan else .inf (n != m)
  | .fin n a _ _, .inf m => if a = 0 then .nan else .inf (n != m)
  | .fin n a d e, .fin m b c g => .fin (n != m) (a * b) (d * c) (e + g)

/-- Exact sum with the zero signs of R175; opposite infinities give a NaN. -/
def vadd : Val → Val → Val
  | .nan, _ => .nan
  | _, .nan => .nan
  | .inf n, .inf m => if n = m then .inf n else .nan
  | .inf n, .fin _ _ _ _ => .inf n
  | .fin _ _ _ _, .inf m => .inf m
  | .fin n a d e, .fin m b c g =>
    if a = 0 ∧ b = 0 then .fin (n && m) 0 1 0
    else
      let lo := if e ≤ g then e else g
      let x : Int := (shl a (e - lo) * c : Nat)
      let y : Int := (shl b (g - lo) * d : Nat)
      let s := (if n then -x else x) + (if m then -y else y)
      .fin (decide (s < 0)) s.natAbs (d * c) lo

/-- Exact quotient. 0/0 and ∞/∞ give a NaN; a non-zero value over 0 gives an infinity. -/
def vdiv : Val → Val → Val
  | .nan, _ => .nan
  | _, .nan => .nan
  | .inf _, .inf _ => .nan
  | .inf n, .fin m _ _ _ => .inf (n != m)
  | .fin n _ _ _, .inf m => vzero (n != m)
  | .fin n a d e, .fin m b c g =>
    if b = 0 then (if a = 0 then .nan else .inf (n != m))
    else .fin (n != m) (a * c) (d * b) (e - g)

/-- Multiply by 2^k. -/
def vscale (k : Int) : Val → Val
  | .nan => .nan
  | .inf n => .inf n
  | .fin n a d e => .fin n a d (e + k)

/-- Strictly below, on values that are not NaN (−0 and +0 are equal). -/
def vlt : Val → Val → Bool
  | .nan, _ => false
  | _, .nan => false
  | .inf n, .inf m => n && !m
  | .inf n, .fin _ _ _ _ => n
  | .fin _ _ _ _, .inf m => !m
  | .fin n a d e, .fin m b c g =>
    let lo := if e ≤ g then e else g
    let x : Int := (shl a (e - lo) * c : Nat)
    let y : Int := (shl b (g - lo) * d : Nat)
    decide ((if n then -x else x) < (if m then -y else y))

/-- Equal in value, on values that are not NaN. -/
def veq (a b : Val) : Bool := !a.isNan && !b.isNan && !vlt a b && !vlt b a

/-- The larger; a NaN in either gives a NaN. -/
def vmax (a b : Val) : Val := if a.isNan || b.isNan then .nan else if vlt a b then b else a

/-- Round to nearest even in a format, mode-0 overflow (R175): encoding and overflow. -/
def rnEnc (f : FFmt) : Val → Nat × Bool
  | .nan => (encNan f, false)
  | .inf n => (encInf f n, false)
  | .fin n a d e => let r := roundFloat f 0 false n a d e 0; (r.enc, r.ovf)

/-- rn32 of R179 and R217: round an exact value to F32 and take its value back. -/
def rn32 (v : Val) : Val := decFloat fmtF32 (rnEnc fmtF32 v).1

/-- F32 encoding of an exact value. -/
def enc32 (v : Val) : Nat := (rnEnc fmtF32 v).1

/-- The value of an F32 word. -/
def dec32 (n : Nat) : Val := decFloat fmtF32 n

/-- Integer square root by bits: `i` is the next bit to try. -/
def isqrtGo (n : Nat) : Nat → Nat → Nat
  | 0, r => if (r + 1) * (r + 1) ≤ n then r + 1 else r
  | i + 1, r =>
    let t := r + 2 ^ (i + 1)
    isqrtGo n i (if t * t ≤ n then t else r)

/-- Floor of the square root. -/
def isqrt (n : Nat) : Nat := isqrtGo n (Nat.log2 n / 2 + 1) 0

/-- Square root with enough bits and a sticky bit that every rounding to F32 or F64 comes out as of the exact root. -/
def vsqrt : Val → Val
  | .nan => .nan
  | .inf n => if n then .nan else .inf false
  | .fin n a d e =>
    if a = 0 then .fin n 0 1 0
    else if n then .nan
    else
      -- a / d * 2^e with an even exponent
      let (a', e') := if e % 2 = 0 then (a, e) else (2 * a, e - 1)
      let t := 160 + Nat.log2 d
      let x := (a' <<< (2 * t)) / d
      let q := isqrt x
      let exact := decide (q * q * d = a' <<< (2 * t))
      .fin false (2 * q + b2n (!exact)) 1 (e' / 2 - (t : Int) - 1)

/-- 1 / sqrt with the same care: a radicand of zero gives +∞ (R218). -/
def vrsqrt : Val → Val
  | .nan => .nan
  | .inf n => if n then .nan else vzero false
  | .fin n a d e =>
    if a = 0 then .inf false
    else if n then .nan
    else
      let (a', e') := if e % 2 = 0 then (a, e) else (2 * a, e - 1)
      let t := 160 + Nat.log2 a'
      let x := (d <<< (2 * t)) / a'
      let q := isqrt x
      let exact := decide (q * q * a' = d <<< (2 * t))
      .fin false (2 * q + b2n (!exact)) 1 (-(e' / 2) - (t : Int) - 1)

end Sys2Proof.Machine
end

