-- ==== Sys2Proof/Machine/Formats.lean ====
section
/-!
DEFINITION. Machine/Formats.lean: the 13 number formats and conversion on delivery (R141 to R167).
-/
namespace Sys2Proof.Machine

/-- R145: elements per flit of a format code. -/
def nf (code : Nat) : Nat :=
  if code = 0 then 16 else if code = 1 then 32 else if code = 0xA then 32
  else if code = 2 then 64 else if code = 3 then 64
  else if code = 4 then 128 else if code = 5 then 128 else if code = 0xB then 128
  else if code = 6 then 160 else if code = 7 then 160
  else if code = 8 then 256 else if code = 0xC then 256
  else if code = 9 then 80 else 1

/-- Bits of one element. -/
def elBits (code : Nat) : Nat :=
  if code = 0 then 64 else if code = 1 then 32 else if code = 0xA then 32
  else if code = 2 then 16 else if code = 3 then 16
  else if code = 4 then 8 else if code = 5 then 8 else if code = 0xB then 8
  else if code = 6 then 6 else if code = 7 then 6
  else if code = 9 then 12 else 4

/-- The MX element formats (R141). -/
def isMX (code : Nat) : Bool := decide (4 ≤ code) && decide (code ≤ 8)

/-- The IEEE-like formats of R147's FTZ and SATINF. -/
def isIEEE (code : Nat) : Bool := decide (code ≤ 3)

/-- Integer formats. -/
def isInt (code : Nat) : Bool := decide (0xA ≤ code) && decide (code ≤ 0xC)

/-- R82: MX scale blocks per row. -/
def mxG (code : Nat) : Nat := if code = 8 then 8 else if code = 6 then 5 else if code = 7 then 5 else 4

/-- Bit offset of element `i` in a flit (R143, R144). -/
def elOff (code i : Nat) : Nat :=
  if code = 9 then 128 * (i / 10) + 8 + 12 * (i % 10) else elBits code * i

/-- One element on its way through a conversion: its bits, the E8M0 scale or BX12 exponent that goes with it, and its
poison mark (R166). -/
structure SrcEl where
  raw : Nat
  scale : Nat
  pois : Bool
deriving DecidableEq, Repr

/-- A poison mark of the chunks that the bits [off, off+w) of a flit touch. -/
def chunkPois (pois off w : Nat) : Bool := pois.testBit (off / 256) || pois.testBit ((off + w - 1) / 256)

/-- R159, R166: the elements of a source flit; `scales` gives each block's scale byte and its poison. -/
def elemsOf (code data pois : Nat) (scales : List (Nat × Bool)) : List SrcEl :=
  (List.range (nf code)).map fun i =>
    let off := elOff code i
    let w := elBits code
    let p := chunkPois pois off w
    if isMX code then
      let sc := listGet (0xFF, false) scales (i / 32)
      ⟨bits data (off + w - 1) off, sc.1, p || sc.2⟩
    else if code = 9 then ⟨bits data (off + w - 1) off, bits data (128 * (i / 10) + 7) (128 * (i / 10)), p⟩
    else ⟨bits data (off + w - 1) off, 0, p⟩

/-- Value of an MX element without its scale. -/
def mxElemVal (code n : Nat) : Val :=
  if code = 5 then decFloat fmtE5M2 n
  else
    let f := ffmt code
    if code = 4 && decide (n % 128 = 0x7F) then .nan
    else
      let neg := n.testBit (signBit f)
      let ex := bits n (f.mbits + f.ebits - 1) f.mbits
      let fr := n % 2 ^ f.mbits
      if ex = 0 then .fin neg fr 1 (1 - (f.bias : Int) - (f.mbits : Int))
      else .fin neg (2 ^ f.mbits + fr) 1 ((ex : Int) - (f.bias : Int) - (f.mbits : Int))

/-- R150: the exact value of a source element. -/
def elVal (code : Nat) (x : SrcEl) : Val :=
  if isIEEE code then decFloat (ffmt code) x.raw
  else if isMX code then
    (if x.scale = 0xFF then .nan else vscale ((x.scale : Int) - 127) (mxElemVal code x.raw))
  else if code = 9 then
    (if x.scale = 0xFF then .nan
     else
      let m := sext 12 x.raw
      .fin (decide (m < 0)) m.natAbs 1 ((x.scale : Int) - 137))
  else vint (sext (elBits code) x.raw)

/-- R147, R155: the value after FTZ on the source side, and whether FTZ replaced it. -/
def elValFtz (code : Nat) (ftz : Bool) (x : SrcEl) : Val × Bool :=
  if ftz && isIEEE code && isSubnormal (ffmt code) x.raw then
    (vzero (x.raw.testBit (signBit (ffmt code))), true)
  else (elVal code x, false)

/-- R153: the 24-bit random value of element `k`. -/
def srRand (seed salt tag k : Nat) : Nat :=
  let m : Nat := 2 ^ 64
  let x := (seed ^^^ (salt <<< 48) ^^^ (tag <<< 32) ^^^ k) % m
  let x := x ^^^ (x >>> 30)
  let x := (x * 0xBF58476D1CE4E5B9) % m
  let x := x ^^^ (x >>> 27)
  let x := (x * 0x94D049BB133111EB) % m
  let x := x ^^^ (x >>> 31)
  x >>> 40

/-- The parameters of one conversion: CVT with the seed and tag of the slip (R147, R153). -/
structure Cvt where
  sfmt : Nat
  dfmt : Nat
  rnd : Nat
  ftz : Bool
  satinf : Bool
  seed : Nat
  salt : Nat
  tag : Nat
deriving DecidableEq, Repr

/-- R167: conversion flags as one number, bits 0 to 7: NANIN INFIN OVF SAT UNF FLUSH INV BLKNAN. -/
def fNANIN : Nat := 1
def fINFIN : Nat := 2
def fOVF : Nat := 4
def fSAT : Nat := 8
def fUNF : Nat := 16
def fFLUSH : Nat := 32
def fINV : Nat := 64
def fBLKNAN : Nat := 128

/-- A flag when a condition holds. -/
def flagIf (c : Bool) (f : Nat) : Nat := if c then f else 0

/-- R151, R152, R155: one element to an F64, F32, BF16 or F16 destination: bits and flags. -/
def cvtToFloat (c : Cvt) (v : Val) (r : Nat) : Nat × Nat :=
  let f := ffmt c.dfmt
  match v with
  | .nan => (encNan f, fNANIN)
  | .inf n => (encInf f n, fINFIN)
  | .fin n a d e =>
    let x := roundFloat f c.rnd c.satinf n a d e r
    if c.ftz && x.sub then (withSign f n 0, fFLUSH)
    else (x.enc, flagIf x.ovf fOVF ||| flagIf x.sat fSAT ||| flagIf x.unf fUNF)

/-- R155: one element to I32, I8 or I4: bits and flags. -/
def cvtToInt (c : Cvt) (v : Val) (r : Nat) : Nat × Nat :=
  let w := elBits c.dfmt
  let hi : Nat := 2 ^ (w - 1) - 1
  let lo : Nat := 2 ^ (w - 1)
  match v with
  | .nan => (0, fNANIN ||| fINV)
  | .inf n => (if n then lo else hi, fINFIN ||| fSAT)
  | .fin n a d e =>
    let q := roundGrid c.rnd n a d e 0 r
    if n then (if q > lo then (lo, fSAT) else ((2 ^ w - q) % 2 ^ w, 0))
    else (if q > hi then (hi, fSAT) else (q, 0))

/-- The exponent of the largest normal element of an MX format (R156). -/
def mxEmax (code : Nat) : Int := if code = 4 then 8 else if code = 5 then 15 else if code = 6 then 4 else 2

/-- The largest element magnitude's encoding. -/
def mxMaxMag (code : Nat) : Nat :=
  if code = 4 then 0x7E else if code = 5 then 0x7B else if code = 6 then 0x1F else if code = 7 then 0x1F else 7

/-- R156 steps 7 and 8: one element, already divided by the scale: bits and flags. -/
def mxRound (code rnd : Nat) (neg : Bool) (num den : Nat) (e : Int) (r : Nat) : Nat × Nat :=
  let f := ffmt code
  if num = 0 then (withSign f neg 0, 0)
  else
    let emax := mxEmax code
    let k := flog2 num den e
    let k' := if k > emax then emax else k
    let g := stepExp f k'
    let q := roundGrid rnd neg num den e g r
    let mag := if q ≥ 2 ^ (f.mbits + 1) then encMag f (q / 2) (g + 1) else encMag f q g
    if k > emax || decide (mag > mxMaxMag code) then (withSign f neg (mxMaxMag code), fSAT)
    else (withSign f neg mag, flagIf (decide (q = 0)) fUNF)

/-- The magnitude of a finite value, as a fraction. -/
def magOf : Val → Nat × Nat × Int
  | .fin _ a d e => (a, d, e)
  | _ => (0, 1, 0)

/-- The largest magnitude of a list of finite values. -/
def vmaxAbs (l : List Val) : Val := l.foldl (fun m v => if vlt m (vabs v) then vabs v else m) (vzero false)

/-- A converted block: element bits, scale byte (MX) or exponent (BX12), flags. -/
structure Block where
  els : List Nat
  scale : Nat
  flags : Nat
deriving DecidableEq, Repr

/-- Flags of the NaNs and infinities of a block (R155). -/
def specialFlags (vs : List Val) : Nat :=
  flagIf (vs.any Val.isNan) fNANIN ||| flagIf (vs.any Val.isInf) fINFIN

/-- R156: quantise one block into an MX element format; `rs` gives each element's random value. -/
def mxBlock (code rnd : Nat) (vs : List Val) (rs : List Nat) : Block :=
  if vs.any (fun v => v.isNan || v.isInf) then
    ⟨vs.map (fun _ => 0), 0xFF, specialFlags vs ||| fBLKNAN⟩
  else
    let am := vmaxAbs vs
    if am.isZero then ⟨vs.map (fun v => withSign (ffmt code) v.sign 0), 0x7F, 0⟩
    else
      let (a, d, e) := magOf am
      let x0 := flog2 a d e - mxEmax code
      let x := if x0 < -127 then -127 else if x0 > 127 then 127 else x0
      let out := (vs.zip rs).map fun (v, r) =>
        let (b, dd, ee) := magOf v
        mxRound code rnd v.sign b dd (ee - x) r
      ⟨out.map (·.1), (x + 127).toNat, out.foldl (fun f o => f ||| o.2) 0⟩

/-- R157: the significands of a BX12 block for exponent `E`, with their signs, before any clamp. -/
def bxRound (rnd : Nat) (ex : Int) (vs : List Val) (rs : List Nat) : List (Bool × Nat) :=
  (vs.zip rs).map fun (v, r) =>
    let (a, d, e) := magOf v
    (v.sign, roundGrid rnd v.sign a d (e + 137 - ex) 0 r)

/-- R157: quantise one block into BX12. -/
def bxBlock (rnd : Nat) (vs : List Val) (rs : List Nat) : Block :=
  if vs.any (fun v => v.isNan || v.isInf) then
    ⟨vs.map (fun _ => 0), 0xFF, specialFlags vs ||| fBLKNAN⟩
  else
    let am := vmaxAbs vs
    if am.isZero then ⟨vs.map (fun _ => 0), 0, 0⟩
    else
      let (a, d, e) := magOf am
      let e0 := flog2 a d e + 127
      let e1 : Int := if e0 < 0 then 0 else if e0 > 254 then 254 else e0
      let ms := bxRound rnd e1 vs rs
      let again := ms.any (fun m => !m.1 && decide (m.2 > 2047)) && decide (e1 < 254)
      let e2 := if again then e1 + 1 else e1
      let ms := if again then bxRound rnd e2 vs rs else ms
      let out := (vs.zip ms).map fun (v, m) =>
        let lim := if m.1 then 2048 else 2047
        let big := decide (m.2 > lim)
        let q := if big then lim else m.2
        ((if m.1 then (4096 - q) % 4096 else q),
          flagIf big fSAT ||| flagIf (decide (m.2 = 0) && !v.isZero) fUNF)
      ⟨out.map (·.1), e2.toNat, out.foldl (fun f o => f ||| o.2) 0⟩

/-- Place element bits in a flit. -/
def packEls (code : Nat) (els : List Nat) : Nat :=
  (els.zip (List.range els.length)).foldl (fun acc (x, i) => acc ||| (x <<< elOff code i)) 0

/-- R166 step 4: the chunk marks of a flit whose elements have the given marks. -/
def packPois (code : Nat) (ps : List Bool) : Nat :=
  (ps.zip (List.range ps.length)).foldl (fun acc (p, i) =>
    if p then acc ||| (1 <<< (elOff code i / 256)) ||| (1 <<< ((elOff code i + elBits code - 1) / 256)) else acc) 0

/-- One converted flit: data, chunk marks, block scales with their marks, flags. -/
structure CvtFlit where
  data : Nat
  pois : Nat
  scales : List (Nat × Bool)
  flags : Nat
deriving DecidableEq, Repr

/-- R150 to R158, R166: convert the elements of one destination flit; `k` is the ordinal of the first. -/
def convFlit (c : Cvt) (k : Nat) (els : List SrcEl) : CvtFlit :=
  let vf := els.map (elValFtz c.sfmt c.ftz)
  let vs := vf.map (·.1)
  let fl := vf.foldl (fun f x => f ||| flagIf x.2 fFLUSH) 0
  let rs := (List.range els.length).map fun i => if c.rnd = 4 then srRand c.seed c.salt c.tag (k + i) else 0
  if isMX c.dfmt then
    let bv := chunksOf 32 256 vs
    let br := chunksOf 32 256 rs
    let bp := (chunksOf 32 256 els).map (fun b => b.any (·.pois))
    let bs := (bv.zip br).map fun (v, r) => mxBlock c.dfmt c.rnd v r
    let ps := (bs.zip bp).foldr (fun (b, p) acc => b.els.map (fun _ => p) ++ acc) []
    ⟨packEls c.dfmt (bs.foldr (fun b acc => b.els ++ acc) []), packPois c.dfmt ps,
      (bs.zip bp).map (fun (b, p) => (b.scale, p)), bs.foldl (fun f b => f ||| b.flags) fl⟩
  else if c.dfmt = 9 then
    let bv := chunksOf 10 256 vs
    let br := chunksOf 10 256 rs
    let bp := (chunksOf 10 256 els).map (fun b => b.any (·.pois))
    let bs := (bv.zip br).map fun (v, r) => bxBlock c.rnd v r
    let ps := (bs.zip bp).foldr (fun (b, p) acc => b.els.map (fun _ => p) ++ acc) []
    let exps := (bs.zip (List.range bs.length)).foldl (fun acc (b, i) => acc ||| (b.scale <<< (128 * i))) 0
    ⟨packEls 9 (bs.foldr (fun b acc => b.els ++ acc) []) ||| exps, packPois 9 ps, [],
      bs.foldl (fun f b => f ||| b.flags) fl⟩
  else
    let out := (vs.zip rs).map fun (v, r) => if isInt c.dfmt then cvtToInt c v r else cvtToFloat c v r
    ⟨packEls c.dfmt (out.map (·.1)), packPois c.dfmt (els.map (·.pois)), [],
      out.foldl (fun f o => f ||| o.2) fl⟩

/-- R163: the chunk enables of a stored row that holds `n` converted elements. -/
def streamEnables (code n : Nat) : Nat :=
  (List.range 4).foldl (fun acc ch =>
    if (List.range n).any (fun i =>
      decide (elOff code i / 256 = ch) || decide ((elOff code i + elBits code - 1) / 256 = ch))
    then acc ||| (1 <<< ch) else acc) 0

end Sys2Proof.Machine
end

