-- ==== Sys2Proof/Machine/Activ.lean ====
section
/-!
DEFINITION. Machine/Activ.lean: activation functions and their tables (R177 to R180), in fixed point.
The fixed tables' words are rounded from exact values (R178); the model computes those values to 320 fraction bits
(UNVERIFIED that this precision decides every rounding, log entry 11).
-/
namespace Sys2Proof.Machine

/-- Fraction bits of the fixed-point values. -/
def fxP : Nat := 320

/-- One in fixed point. -/
def fxOne : Nat := 2 ^ fxP

/-- Sum of the series of atanh(1/q) (`alt` false) or atan(1/q) (`alt` true): `t` is 1/q^(2j+1). -/
def atanGo (alt : Bool) (q : Nat) : Nat → Nat → Nat → Int → Int
  | 0, _, _, acc => acc
  | n + 1, j, t, acc =>
    let term : Int := ((t / (2 * j + 1) : Nat) : Int)
    atanGo alt q n (j + 1) (t / (q * q)) (if alt && j % 2 = 1 then acc - term else acc + term)

/-- ln 2. -/
def fxLn2 : Nat := (2 * atanGo false 3 120 0 (fxOne / 3) 0).toNat

/-- π by Machin's formula. -/
def fxPi : Nat := (16 * atanGo true 5 90 0 (fxOne / 5) 0 - 4 * atanGo true 239 40 0 (fxOne / 239) 0).toNat

/-- Fixed-point product of signed values. -/
def fxMul (a b : Int) : Int := (a * b).fdiv (fxOne : Int)

/-- Fixed-point quotient of signed values. -/
def fxDiv (a b : Int) : Int := (a * (fxOne : Int)).fdiv b

/-- Taylor sum of e^r: `t` is r^n / n!. -/
def expGo (r : Nat) : Nat → Nat → Nat → Nat → Nat
  | 0, _, _, acc => acc
  | f + 1, n, t, acc =>
    let t' := t * r / fxOne / (n + 1)
    expGo r f (n + 1) t' (acc + t')

/-- e^x. -/
def fxExp (x : Int) : Int :=
  let k := x.fdiv (fxLn2 : Int)
  let r := (x - k * (fxLn2 : Int)).toNat
  let y := expGo r 90 0 fxOne fxOne
  if k ≥ 0 then ((y <<< k.toNat : Nat) : Int) else ((y >>> (-k).toNat : Nat) : Int)

/-- Series of atanh z for a fixed-point z: `t` is z^(2j+1). -/
def atanhGo (z2 : Nat) : Nat → Nat → Nat → Nat → Nat
  | 0, _, _, acc => acc
  | f + 1, j, t, acc => atanhGo z2 f (j + 1) (t * z2 / fxOne) (acc + t / (2 * j + 1))

/-- ln y for a positive fixed-point y. -/
def fxLn (y : Nat) : Int :=
  let k : Int := (Nat.log2 y : Int) - (fxP : Int)
  let m := if k ≥ 0 then y >>> k.toNat else y <<< (-k).toNat
  let z := (m - fxOne) * fxOne / (m + fxOne)
  k * (fxLn2 : Int) + ((2 * atanhGo (z * z / fxOne) 110 0 z 0 : Nat) : Int)

/-- Series of the normal distribution function: `t` is the signed power term. -/
def phiGo (x2 : Int) : Nat → Nat → Int → Int → Int
  | 0, _, _, acc => acc
  | f + 1, n, t, acc =>
    phiGo x2 f (n + 1) ((fxMul t x2).fdiv (-(2 * (n + 1) : Nat) : Int)) (acc + t.fdiv ((2 * n + 1 : Nat) : Int))

/-- Φ(x). -/
def fxPhi (x : Int) : Int :=
  let s := phiGo (fxMul x x) 220 0 x 0
  let root := isqrt (2 * fxPi * fxOne)
  (fxOne : Int) / 2 + fxDiv s (root : Int)

/-- tanh x. -/
def fxTanh (x : Int) : Int :=
  let e := fxExp (2 * x)
  fxDiv (e - fxOne) (e + fxOne)

/-- 1 / (1 + e^-x). -/
def fxSigmoid (x : Int) : Int := fxDiv fxOne (fxOne + fxExp (-x))

/-- A decimal constant n / d. -/
def fxConst (n d : Nat) : Int := ((n * fxOne / d : Nat) : Int)

/-- R177: the exact function of a fixed table at a fixed-point argument. -/
def fxFun (n : Nat) (x : Int) : Int :=
  if n = 0 then fxMul x (fxPhi x)
  else if n = 1 then
    let c := fxMul (fxConst 797884561 1000000000) (x + fxMul (fxConst 44715 1000000) (fxMul x (fxMul x x)))
    (fxMul x (fxOne + fxTanh c)).fdiv 2
  else if n = 2 then fxDiv x (fxOne + fxExp (-x))
  else if n = 3 then fxSigmoid x
  else if n = 4 then fxTanh x
  else if n = 5 then fxLn (fxOne + fxExp x).toNat
  else if n = 6 then fxExp x
  else if n = 9 then fxMul x (fxTanh (fxLn (fxOne + fxExp x).toNat))
  else if n = 10 then (if x > 0 then x else fxExp x - fxOne)
  else fxDiv x (fxOne + fxExp (-(fxMul (fxConst 1702 1000) x)))

/-- A fixed-point value as an exact value. -/
def fxVal (x : Int) : Val := .fin (decide (x < 0)) x.natAbs 1 (-(fxP : Int))

/-- R177: the fixed tables are 0 to 6 and 9 to 11. -/
def isFixedTable (n : Nat) : Bool := decide (n ≤ 6) || (decide (9 ≤ n) && decide (n ≤ 11))

/-- R178: LOG2W of a fixed table. -/
def fixedLog2w (n : Nat) : Int := if n = 0 then -4 else if n = 1 then -4 else if n = 4 then -4 else if n = 6 then -2 else -3

/-- R178: XLO of a fixed table, an integer. -/
def fixedXlo (n : Nat) : Int := if n = 0 then -8 else if n = 1 then -8 else if n = 4 then -8 else if n = 6 then -32 else -16

/-- R178: words 0 to 7 of a fixed table. -/
def fixedHeader (n w : Nat) : Nat :=
  let one := 0x3F800000
  let m1 := 0xBF800000
  let pinf := 0x7F800000
  if w = 0 then enc32 (vint (fixedXlo n))
  else if w = 1 then (fixedLog2w n).toNat + (if fixedLog2w n < 0 then (256 + fixedLog2w n).toNat else 0)
  else if w = 2 then 0
  else if w = 3 then (if n = 4 ∨ n = 10 then m1 else 0)
  else if w = 4 then (if n = 3 ∨ n = 4 then 0 else if n = 6 then pinf else one)
  else if w = 5 then (if n = 3 ∨ n = 4 then one else 0)
  else if w = 6 then (if n = 3 ∨ n = 4 then one else pinf)
  else (if n = 4 ∨ n = 10 then m1 else 0)

/-- R178: the three coefficients of segment `i`. -/
def fixedSeg (n i : Nat) : Nat × Nat × Nat :=
  let lw := fixedLog2w n
  let wfx : Int := ((fxOne >>> (-lw).toNat : Nat) : Int)
  let a := fixedXlo n * (fxOne : Int) + (i : Int) * wfx
  let fa := fxFun n a
  let fm := fxFun n (a + wfx / 2)
  let fb := fxFun n (a + wfx)
  let c2 := (2 * (fa - 2 * fm + fb)) * (2 ^ (2 * (-lw).toNat) : Nat)
  let c1 := (fb - fa) * (2 ^ (-lw).toNat : Nat) - c2.fdiv (2 ^ (-lw).toNat : Nat)
  (enc32 (fxVal fa), enc32 (fxVal c1), enc32 (fxVal c2))

/-- R178, R199: word `w` of a table that is not programmable. -/
def fixedWord (n w : Nat) : Nat :=
  if !isFixedTable n then 0
  else if w < 8 then fixedHeader n w
  else if w < 776 then
    let s := fixedSeg n ((w - 8) / 3)
    if (w - 8) % 3 = 0 then s.1 else if (w - 8) % 3 = 1 then s.2.1 else s.2.2
  else 0

/-- Blend flags of R196: NANIN INV OVF CLIP TAIL. -/
def bNANIN : Nat := 1
def bINV : Nat := 2
def bOVF : Nat := 4
def bCLIP : Nat := 8
def bTAIL : Nat := 16

/-- R179: evaluate a table, given its words, at an exact F32 value. -/
def evalTable (word : Nat → Nat) (x : Val) : Val × Nat :=
  match x with
  | .nan => (.nan, bNANIN)
  | .inf n =>
    let y := dec32 (word (if n then 7 else 6))
    (y, flagIf y.isNan bINV)
  | .fin _ _ _ _ =>
    let xlo := dec32 (word 0)
    let lw := sext 8 (word 1)
    let hi := vadd xlo (vscale (lw + 8) vone)
    if vlt x xlo then
      let y := rn32 (vadd (rn32 (vmul (dec32 (word 2)) x)) (dec32 (word 3)))
      (y, bTAIL ||| flagIf y.isNan bINV)
    else if !vlt x hi then
      let y := rn32 (vadd (rn32 (vmul (dec32 (word 4)) x)) (dec32 (word 5)))
      (y, bTAIL ||| flagIf y.isNan bINV)
    else
      let (a, d, e) := magOf (vscale (-lw) (vadd x (vneg xlo)))
      let i := (gridDiv a d e 0).1
      let t := rn32 (vadd x (vneg (vadd xlo (vscale lw (vnat i)))))
      let p := rn32 (vmul (dec32 (word (10 + 3 * i))) t)
      let p := rn32 (vadd (dec32 (word (9 + 3 * i))) p)
      let p := rn32 (vmul p t)
      let y := rn32 (vadd (dec32 (word (8 + 3 * i))) p)
      (y, flagIf y.isNan bINV)

/-- Evaluate a fixed table, computing only the segment it needs. -/
def evalFixed (n : Nat) (x : Val) : Val × Nat := evalTable (fixedWord n) x

/-- R177: the activation `fn` of an exact value; `prog` gives the words of the programmable tables 12 to 15. -/
def actVal (prog : Nat → Nat → Nat) (fn : Nat) (x : Val) : Val × Nat :=
  if fn = 7 then (if x.isNan then (.nan, bNANIN) else if vlt (vzero false) x then (x, 0) else (vzero false, 0))
  else if fn = 8 then
    (if x.isNan then (.nan, bNANIN) else if vlt (vzero false) x then (vmul x x, 0) else (vzero false, 0))
  else if fn < 12 then evalFixed fn x
  else evalTable (prog fn) x

/-- exp32 of R217: fixed table 6. -/
def exp32 (x : Val) : Val := (evalFixed 6 x).1

/-- The natural logarithm of an exact value, to 320 fraction bits (exact at 1). -/
def vln : Val → Val
  | .nan => .nan
  | .inf n => if n then .nan else .inf false
  | .fin n a d e =>
    if a = 0 then .inf true
    else if n then .nan
    else
      let k := flog2 a d e
      -- a / d * 2^e = 2^k * m with m in [1, 2)
      let sh : Int := (fxP : Int) + e - k
      let m := if sh ≥ 0 then (a <<< sh.toNat) / d else (a >>> (-sh).toNat) / d
      fxVal (k * (fxLn2 : Int) + fxLn m)

/-- CRC-32 of IEEE 802.3, one bit step. -/
def crcBit (c : Nat) : Nat := if c % 2 = 1 then (c >>> 1) ^^^ 0xEDB88320 else c >>> 1

/-- CRC-32 of one more byte; the register starts at all ones. -/
def crcByte (c b : Nat) : Nat :=
  crcBit (crcBit (crcBit (crcBit (crcBit (crcBit (crcBit (crcBit (c ^^^ (b % 256)))))))))

/-- CRC-32 of one more little-endian word. -/
def crcWord (c w : Nat) : Nat :=
  crcByte (crcByte (crcByte (crcByte c (bits w 7 0)) (bits w 15 8)) (bits w 23 16)) (bits w 31 24)

/-- The start value of the CRC register. -/
def crcInit : Nat := 0xFFFFFFFF
/-- The CRC of the register. -/
def crcFin (c : Nat) : Nat := c ^^^ 0xFFFFFFFF

/-- R180: CRC-32 of the 776 words of a table. -/
def tableCrc (word : Nat → Nat) : Nat :=
  crcFin ((List.range 776).foldl (fun c w => crcWord c (word w)) crcInit)

/-- R178, R180: the CRC of a fixed table, one segment at a time. -/
def fixedCrc (n : Nat) : Nat :=
  if !isFixedTable n then 0
  else
    let h := (List.range 8).foldl (fun c w => crcWord c (fixedHeader n w)) crcInit
    crcFin ((List.range 256).foldl (fun c i =>
      let s := fixedSeg n i
      crcWord (crcWord (crcWord c s.1) s.2.1) s.2.2) h)

end Sys2Proof.Machine
end

