-- ==== Sys2Proof/Machine/Blend.lean ====
section
/-!
DEFINITION. Machine/Blend.lean: the arithmetic of the blend stages (R173 to R187), the row-statistic stages (R222) and
the statistics of held delivery (R215 to R218).
-/
namespace Sys2Proof.Machine

/-- The stages of R176 and R222. -/
inductive Stage where
  | scl1 | scl2 | scv | deq | bia | aff | act | exp | res | gat | agt | clp | cst
  | submax | divs | sublse | rmsn | lnrm | divmax
deriving DecidableEq, Repr

/-- R187: the stages of a blend. -/
def blendStages (id : Nat) : List Stage :=
  match id with
  | 0 => [.scl1]
  | 1 => [.bia]
  | 2 => [.aff]
  | 3 => [.act]
  | 4 => [.bia, .act]
  | 5 => [.aff, .act]
  | 6 => [.bia, .act, .cst]
  | 7 => [.scl1, .bia, .act, .cst]
  | 8 => [.res]
  | 9 => [.bia, .res]
  | 10 => [.bia, .act, .res]
  | 11 => [.scl1, .res]
  | 12 => [.gat]
  | 13 => [.agt]
  | 14 => [.bia, .agt]
  | 15 => [.act, .gat]
  | 16 => [.clp]
  | 17 => [.act, .clp]
  | 18 => [.deq]
  | 19 => [.deq, .scv]
  | 20 => [.deq, .bia, .act]
  | 21 => [.scv, .clp, .cst]
  | 22 => [.scl1, .clp]
  | 23 => [.scl1, .act, .scl2]
  | 24 => [.submax, .exp, .divs]
  | 25 => [.sublse]
  | 26 => [.rmsn, .scv]
  | 27 => [.lnrm, .aff]
  | 28 => [.divmax, .cst]
  | 29 => [.rmsn, .scv, .gat]
  | 30 => [.aff, .act, .gat]
  | _ => [.bia, .act, .res, .cst]

/-- Stages that read the side tensor. -/
def Stage.usesT : Stage → Bool
  | .res | .gat | .agt => true
  | _ => false

/-- The blend reads the side tensor t of SIDE0. -/
def blendUsesT (id : Nat) : Bool := (blendStages id).any Stage.usesT
/-- The blend reads the E8M0 scale plane of SIDE0. -/
def blendUsesDeq (id : Nat) : Bool := (blendStages id).any (· == .deq)
/-- The blend reads the vector s of SIDE1. -/
def blendUsesS (id : Nat) : Bool := (blendStages id).any (fun s => s == .scv || s == .aff)
/-- The blend reads the vector b of SIDE1. -/
def blendUsesB (id : Nat) : Bool := (blendStages id).any (fun s => s == .bia || s == .aff)
/-- The blend has an ACT or AGT stage, which names ACTFN. -/
def blendUsesAct (id : Nat) : Bool := (blendStages id).any (fun s => s == .act || s == .agt)
/-- R187: cluster slots per lane. -/
def blendSlots (id : Nat) : Nat := if blendUsesT id then 4 else 1
/-- R187: held blends. -/
def blendIsH (id : Nat) : Bool := decide (24 ≤ id) && decide (id ≤ 29)
/-- R187: blends that a write path may name. -/
def blendIsW (id : Nat) : Bool := !blendIsH id && !blendUsesDeq id

/-- The fields of a parameter set (R201), by word. -/
def psActfn (p : Nat → Nat) : Nat := bits (p 0) 3 0
def psS0fmt (p : Nat → Nat) : Nat := bits (p 0) 7 4
def psVfmt (p : Nat → Nat) : Nat := bits (p 0) 11 8
def psCastfmt (p : Nat → Nat) : Nat := bits (p 0) 15 12
def psC (p : Nat → Nat) : Nat := bits (p 0) 26 16 + 1
def psCdiv (p : Nat → Nat) : Nat := bits (p 1) 15 0 + 1
def psDeqshift (p : Nat → Nat) : Int := sext 8 (bits (p 1) 23 16)
def psSstr (p : Nat → Nat) : Nat := if bits (p 2) 15 0 = 0 then 1 else bits (p 2) 15 0

/-- The side values of one element: scale and bias vector entries, side tensor element, DEQ scale byte, statistics of
the line, each as F32 words or bytes, with the poison of those used. -/
structure Side where
  s : Nat
  sPois : Bool
  b : Nat
  bPois : Bool
  t : Val
  tPois : Bool
  deq : Nat
  deqPois : Bool
  stat : List Nat
  statPois : Bool
deriving DecidableEq, Repr

/-- No side value used. -/
def Side.none : Side := ⟨0, false, 0, false, vzero false, false, 0x7F, false, [], false⟩

/-- R175: round an exact result once to CF with the flags of NaN inputs, invalid operations and overflow. -/
def stageFin (cf : Nat) (nanIn : Bool) (v : Val) : Nat × Nat :=
  let f := ffmt cf
  if nanIn then (encNan f, bNANIN)
  else if v.isNan then (encNan f, bINV)
  else let r := rnEnc f v; (r.1, flagIf r.2 bOVF)

/-- The result of a table evaluation carried on: its own flags with those of the final rounding. -/
def stageAct (cf : Nat) (v : Val × Nat) (nanIn : Bool) : Nat × Nat :=
  if nanIn then (encNan (ffmt cf), bNANIN)
  else if v.1.isNan then (encNan (ffmt cf), v.2 ||| bINV)
  else let r := rnEnc (ffmt cf) v.1; (r.1, v.2 ||| flagIf r.2 bOVF)

/-- R176, R222: one stage on one element of CF: bits and flags. -/
def stageOp (cf : Nat) (p : Nat → Nat) (prog : Nat → Nat → Nat) (sd : Side) (st : Stage) (xb : Nat) : Nat × Nat :=
  let f := ffmt cf
  let x := decFloat f xb
  let un (y : Val) (v : Val) := stageFin cf (x.isNan || y.isNan) v
  match st with
  | .scl1 => let s := dec32 (p 4); un s (vmul x s)
  | .scl2 => let s := dec32 (p 5); un s (vmul x s)
  | .scv => let s := dec32 sd.s; un s (vmul x s)
  | .deq =>
    if sd.deq = 0xFF then (encNan f, bNANIN)
    else stageFin cf x.isNan (vscale ((sd.deq : Int) - 127 + psDeqshift p) x)
  | .bia => let b := dec32 sd.b; un b (vadd x b)
  | .aff =>
    let s := dec32 sd.s
    let b := dec32 sd.b
    stageFin cf (x.isNan || s.isNan || b.isNan) (vadd (vmul s x) b)
  | .act => stageAct cf (actVal prog (psActfn p) x) x.isNan
  | .exp => stageAct cf (evalFixed 6 x) x.isNan
  | .res => un sd.t (vadd x sd.t)
  | .gat => un sd.t (vmul x sd.t)
  | .agt =>
    let a := actVal prog (psActfn p) sd.t
    if x.isNan || sd.t.isNan then (encNan f, bNANIN ||| a.2)
    else
      let v := vmul (if a.1.isNan then a.1 else rn32 a.1) x
      let r := stageFin cf false v
      (r.1, a.2 ||| r.2 ||| flagIf (match a.1 with
        | .fin n u w e => (roundFloat fmtF32 0 false n u w e 0).ovf
        | _ => false) bOVF)
  | .clp =>
    let lo := dec32 (p 6)
    let hi := dec32 (p 7)
    if x.isNan then (encNan f, bNANIN)
    else if vlt x lo then
      let r := rnEnc f lo
      (r.1, flagIf r.2 bOVF ||| flagIf (decide (r.1 ≠ xb)) bCLIP)
    else if vlt hi x then
      let r := rnEnc f hi
      (r.1, flagIf r.2 bOVF ||| flagIf (decide (r.1 ≠ xb)) bCLIP)
    else (xb, 0)
  | .cst =>
    if x.isNan then (encNan f, bNANIN)
    else
      let g := ffmt (psCastfmt p)
      let r := rnEnc g x
      let q := rnEnc f (decFloat g r.1)
      (q.1, flagIf (r.2 || q.2) bOVF)
  | .submax => let m := dec32 (listGet 0 sd.stat 0); un m (vadd x (vneg m))
  | .divs => let s := dec32 (listGet 0 sd.stat 1); un s (vdiv x s)
  | .sublse => let m := dec32 (listGet 0 sd.stat 2); un m (vadd x (vneg m))
  | .rmsn => let r := dec32 (listGet 0 sd.stat 2); un r (vmul x r)
  | .lnrm =>
    let m := dec32 (listGet 0 sd.stat 0)
    let r := dec32 (listGet 0 sd.stat 2)
    stageFin cf (x.isNan || m.isNan || r.isNan) (vmul (vadd x (vneg m)) r)
  | .divmax =>
    let a := dec32 (listGet 0 sd.stat 0)
    if a.isZero then (if x.isNan then (encNan f, bNANIN) else (xb, 0)) else un a (vdiv x a)

/-- R174: the stages of a blend in order on one element: bits and flags. -/
def blendEl (cf : Nat) (p : Nat → Nat) (prog : Nat → Nat → Nat) (sd : Side) (id xb : Nat) : Nat × Nat :=
  (blendStages id).foldl (fun acc st => let r := stageOp cf p prog sd st acc.1; (r.1, acc.2 ||| r.2)) (xb, 0)

/-- R186: the side values a blend uses carry their poison to the element. -/
def sidePois (id : Nat) (sd : Side) : Bool :=
  (blendUsesS id && sd.sPois) || (blendUsesB id && sd.bPois) || (blendUsesT id && sd.tPois)
    || (blendUsesDeq id && sd.deqPois) || (blendIsH id && sd.statPois)

/-- R206: the statistic kinds. -/
inductive StatKind where
  | maxsum | sumsq | meanvar | amax
deriving DecidableEq, Repr

/-- R206: the statistic a held blend accumulates. -/
def statKind (id : Nat) : StatKind :=
  if id = 24 then .maxsum else if id = 25 then .maxsum else if id = 27 then .meanvar else if id = 28 then .amax
  else .sumsq

/-- A partial of R217: element count and up to two F32 words. -/
structure StatPart where
  n : Nat
  a : Nat
  b : Nat
deriving DecidableEq, Repr

/-- F32 word of −∞. -/
def f32NegInf : Nat := 0xFF800000
/-- F32 canonical quiet NaN. -/
def f32Nan : Nat := 0x7FC00000
/-- F32 word of one. -/
def f32One : Nat := 0x3F800000

/-- R217: identity leaf. -/
def statId (k : StatKind) : StatPart :=
  match k with
  | .maxsum => ⟨0, f32NegInf, 0⟩
  | _ => ⟨0, 0, 0⟩

/-- R217: the leaf of an element's F32 value. -/
def statLeaf (k : StatKind) (x : Val) : StatPart :=
  match k with
  | .maxsum => if x.isNan then ⟨1, f32Nan, f32Nan⟩ else if x = .inf true then ⟨1, f32NegInf, 0⟩ else ⟨1, enc32 x, f32One⟩
  | .sumsq => ⟨1, enc32 (vmul x x), 0⟩
  | .meanvar => if x.isNan then ⟨1, f32Nan, f32Nan⟩ else ⟨1, enc32 x, 0⟩
  | .amax => ⟨1, enc32 (vabs x), 0⟩

/-- R217: the combination of two partials. -/
def statComb (k : StatKind) (p q : StatPart) : StatPart :=
  let pa := dec32 p.a
  let qa := dec32 q.a
  let pb := dec32 p.b
  let qb := dec32 q.b
  match k with
  | .maxsum =>
    if pa.isNan || qa.isNan || pb.isNan || qb.isNan then ⟨p.n + q.n, f32Nan, f32Nan⟩
    else
      let m := vmax pa qa
      let fa := if veq pa m then vone else exp32 (rn32 (vadd pa (vneg m)))
      let fb := if veq qa m then vone else exp32 (rn32 (vadd qa (vneg m)))
      ⟨p.n + q.n, enc32 m, enc32 (vadd (rn32 (vmul pb fa)) (rn32 (vmul qb fb)))⟩
  | .sumsq => ⟨p.n + q.n, enc32 (vadd pa qa), 0⟩
  | .meanvar =>
    if p.n = 0 then q else if q.n = 0 then p
    else if pa.isNan || qa.isNan || pb.isNan || qb.isNan then ⟨p.n + q.n, f32Nan, f32Nan⟩
    else
      let n := p.n + q.n
      let dl := rn32 (vadd qa (vneg pa))
      let mu := rn32 (vadd pa (rn32 (vdiv (vmul dl (vnat q.n)) (vnat n))))
      let t := rn32 (vdiv (vmul (vmul dl dl) (vnat (p.n * q.n))) (vnat n))
      let m2 := rn32 (vadd (rn32 (vadd pb qb)) t)
      if mu.isNan || m2.isNan then ⟨n, f32Nan, f32Nan⟩ else ⟨n, enc32 mu, enc32 m2⟩
  | .amax => ⟨p.n + q.n, enc32 (vmax pa qa), 0⟩

/-- One level of the fixed tree: neighbours are combined in pairs. -/
def statPairs (k : StatKind) : List StatPart → List StatPart
  | a :: b :: r => statComb k a b :: statPairs k r
  | l => l

/-- R216: the root of the fixed binary tree over a list of 2^h leaves (`h` levels). -/
def statTreeGo (k : StatKind) : Nat → List StatPart → StatPart
  | 0, l => listGet (statId k) l 0
  | h + 1, l => statTreeGo k h (statPairs k l)

/-- Least h with n ≤ 2^h. -/
def clog2 (n : Nat) : Nat := if n ≤ 1 then 0 else Nat.log2 (n - 1) + 1

/-- R216: a list of leaves padded with identity leaves to the next power of two, and its root. -/
def statTree (k : StatKind) (l : List StatPart) : StatPart :=
  let h := clog2 l.length
  statTreeGo k h (l ++ List.replicate (2 ^ h - l.length) (statId k))

/-- R215: an element's F32 value: its exact value rounded once. -/
def statX32 (code : Nat) (x : SrcEl) : Val := rn32 (elVal code x)

/-- R216: the partial of one row, with its poison. -/
def rowPart (k : StatKind) (code : Nat) (els : List SrcEl) : StatPart × Bool :=
  (statTree k (els.map (fun x => statLeaf k (statX32 code x))), els.any (·.pois))

/-- R218, R223: the final statistics of a line as the record's words 0 to 3. -/
def statFinal (k : StatKind) (len eps : Nat) (p : StatPart) : List Nat :=
  let a := dec32 p.a
  let b := dec32 p.b
  match k with
  | .maxsum =>
    let lse := if b.isZero then .inf true else rn32 (vadd a (rn32 (vln b)))
    [p.a, p.b, enc32 lse, 0]
  | .sumsq =>
    let ms := rn32 (vdiv a (vnat len))
    [p.a, enc32 ms, enc32 (vrsqrt (rn32 (vadd ms (dec32 eps)))), 0]
  | .meanvar =>
    let var := rn32 (vdiv b (vnat len))
    [p.a, enc32 var, enc32 (vrsqrt (rn32 (vadd var (dec32 eps)))), p.b]
  | .amax => [p.a, 0, 0, 0]

end Sys2Proof.Machine
end

