-- ==== Sys2Proof/Machine/Permute.lean ====
section
/-!
DEFINITION. Machine/Permute.lean: the permute program and the shuffle and merge stages (R125 to R137).
-/
namespace Sys2Proof.Machine

/-- R125: fields of PERM. -/
def pMode (p : Nat) : Nat := bits p 3 0
def pEsize (p : Nat) : Nat := bits p 6 4
def pK (p : Nat) : Nat := bits p 10 8 + 1
def pM (p : Nat) : Nat := bits p 14 12 + 1
def pPA (p : Nat) : Nat := bits p 23 16
def pPB (p : Nat) : Nat := bits p 31 24

/-- R125: bytes moved as one unit. -/
def pE (p : Nat) : Nat := if pEsize p = 7 then 3 else 2 ^ pEsize p

/-- R126: units per flit. -/
def pN (p : Nat) : Nat := if pEsize p = 7 then 40 else 128 / pE p

/-- R131: the source element of output element `o` of output flit `j`, by group index. -/
def pSrc (p j o : Nat) : Nat :=
  let n := pN p
  let k := pK p
  let u := j * n + o
  let md := pMode p
  if md = 2 then
    let nr := k * 2 ^ pPA p
    let nc := n / 2 ^ pPA p
    (u % nr) * nc + u / nr
  else if md = 3 then (u % k) * n + u / k
  else if md = 4 then (u % n) * k + u / n
  else if md = 5 then
    let z := if pPA p = 0 then k * n else 2 ^ pPA p
    z * (u / z) + z - 1 - u % z
  else if md = 6 then (u + (pPA p + 256 * (pPB p % 4))) % (k * n)
  else if md = 7 then pPA p + j * 2 ^ pPB p + o % 2 ^ pPB p
  else u

/-- R131, R132: the source flit and byte of byte `b` of output flit `j`, none for a zero or pad byte; `desc` gives the
descriptors of the permute table by entry and position. -/
def pByte (p : Nat) (desc : Nat → Nat → Nat) (j b : Nat) : Option (Nat × Nat) :=
  if pMode p = 0 then some (j, b)
  else if pMode p = 1 then
    let d := desc (pPA p + j) (b / 2)
    let h := if b % 2 = 0 then bits d 10 0 else bits d 26 16
    if bit h 10 then none else some (bits h 9 7, 2 * bits h 5 0 + b2n (bit h 6))
  else
    let e := pE p
    let n := pN p
    if b / e ≥ n then none
    else
      let g := pSrc p j (b / e)
      some (g / n, (g % n) * e + b % e)

/-- One flit inside the read path: data, chunk marks and, for an MX source, the scale byte and mark of each block. -/
structure Flit where
  data : Row
  pois : Mask4
  scales : List (Nat × Bool)
deriving DecidableEq, Repr

/-- A flit of zero bytes with all four chunks poisoned (R519). -/
def Flit.dead : Flit := ⟨0, 0xF, []⟩

/-- Byte `b` of a row. -/
def rowByte (d : Row) (b : Nat) : Nat := bits d.toNat (8 * b + 7) (8 * b)

/-- The byte of an MX row where block `i` begins, and the block of a byte (R82). -/
def mxBlockOfByte (code b : Nat) : Nat := if code = 8 then b / 16 else if code = 6 ∨ code = 7 then b / 24 else b / 32

/-- The output flit as elements for the conversion stage, and as a flit for a copy: data, marks (R137). -/
structure MergeOut where
  flit : Flit
  els : List SrcEl
deriving DecidableEq, Repr

/-- A list whose items are all the same, and not empty. -/
def allEqual : List Nat → Bool
  | [] => false
  | a :: as => as.all (· == a)

/-- R126, R131, R132, R137: build output flit `j` of a group from its source flits. -/
def mergeFlit (p sfmt : Nat) (desc : Nat → Nat → Nat) (grp : List Flit) (j : Nat) : MergeOut :=
  let src := (List.range 128).map (pByte p desc j)
  let data := ofBytes (src.map fun s => match s with
    | none => 0
    | some (f, b) => rowByte (listGet Flit.dead grp f).data b)
  let pois := (List.range 128).foldl (fun acc b => match listGet none src b with
    | none => acc
    | some (f, sb) => if bit (listGet Flit.dead grp f).pois.toNat (sb / 32) then acc ||| (1 <<< (b / 32)) else acc) 0
  let scaleOf (f sb : Nat) : Nat × Bool := listGet (0xFF, false) (listGet Flit.dead grp f).scales (mxBlockOfByte sfmt sb)
  -- the source bytes of each output block that are not zero bytes
  let blockSrc (k : Nat) : List (Nat × Nat) := ((List.range 128).filter fun b => decide (mxBlockOfByte sfmt b = k)).filterMap (listGet none src)
  -- the scale of each output block for a copy: that of its first byte that is not zero, 0x7F where there is none
  let blockScale (k : Nat) : Nat × Bool := match blockSrc k with | [] => (0x7F, false) | (f, sb) :: _ => scaleOf f sb
  -- the block takes its bytes that are not zero from one source block, whose scale its zero bytes then take
  let oneSource (k : Nat) : Bool := allEqual ((blockSrc k).map fun p => 8 * p.1 + mxBlockOfByte sfmt p.2)
  -- the scale of each element of an MX source (R136)
  let elScale (i : Nat) : Nat × Bool :=
    match listGet none src (elOff sfmt i / 8) with
    | none => if oneSource (i / 32) then blockScale (i / 32) else (0x7F, false)
    | some (f, sb) => scaleOf f sb
  let els := (elemsOf sfmt data pois []).zip (List.range (nf sfmt)) |>.map fun (x, i) =>
    if isMX sfmt then
      let sc := elScale i
      ⟨x.raw, sc.1, chunkPois pois (elOff sfmt i) (elBits sfmt) || sc.2⟩
    else x
  let scales := if isMX sfmt then (List.range (mxG sfmt)).map blockScale else []
  -- R49, R166: the elements of a block whose scale is poisoned leave poisoned in a copy too
  let marks := if isMX sfmt then packPois sfmt ((List.range (nf sfmt)).map fun i => (listGet (0, false) scales (i / 32)).2) else 0
  ⟨⟨BitVec.ofNat 1024 data, BitVec.ofNat 4 (pois ||| marks), scales⟩, els⟩

/-- R136: every output block takes its elements that are not zero bytes from one block of one source flit. -/
def blockPreserving (p sfmt : Nat) (desc : Nat → Nat → Nat) : Bool :=
  (List.range (pM p)).all fun j =>
    (List.range (mxG sfmt)).all fun k =>
      let bs := (List.range 128).filter (fun b => decide (mxBlockOfByte sfmt b = k))
      let ss := bs.filterMap (fun b => (pByte p desc j b).map (fun (f, sb) => 8 * f + mxBlockOfByte sfmt sb))
      match ss with
      | [] => true
      | x :: xs => xs.all (· == x)

/-- R135: element sizes a generated pattern may use for a source format. -/
def esizeOk (sfmt es : Nat) : Bool :=
  if sfmt = 0 then decide (3 ≤ es) && decide (es ≤ 6)
  else if sfmt = 1 ∨ sfmt = 0xA then decide (2 ≤ es) && decide (es ≤ 6)
  else if sfmt = 2 ∨ sfmt = 3 then decide (1 ≤ es) && decide (es ≤ 6)
  else if sfmt = 6 ∨ sfmt = 7 then decide (es = 7)
  else if sfmt = 9 then decide (4 ≤ es) && decide (es ≤ 6)
  else decide (es ≤ 6)

/-- R131, R132: K, M, PA and PB lie in the row of their mode. -/
def permRange (p : Nat) : Bool :=
  let n := pN p
  let k := pK p
  let m := pM p
  let a := pPA p
  let b := pPB p
  let md := pMode p
  if md = 0 then decide (k = 1) && decide (m = 1) && decide (a = 0) && decide (b = 0)
  else if md = 1 then decide (b = 0) && decide (a + m - 1 ≤ 255)
  else if md = 2 then
    decide (m = k) && decide (a ≤ 7) && decide (b = 0) && decide (n % 2 ^ a = 0) && decide (k * 2 ^ a ≥ 2)
      && decide (n / 2 ^ a ≥ 2)
  else if md = 3 ∨ md = 4 then decide (2 ≤ k) && decide (m = k) && decide (a = 0) && decide (b = 0)
  else if md = 5 then decide (m = k) && decide (b = 0) && (decide (a = 0) || (decide (a ≤ 7) && decide (n % 2 ^ a = 0)))
  else if md = 6 then decide (m = k) && decide (b < 4) && decide (a + 256 * (b % 4) < k * n)
  else if md = 7 then decide (k = 1) && decide (b ≤ 7) && decide (a + m * 2 ^ b ≤ n)
  else false

/-- R138: the permute program is valid for a source format and a number of rows per lane; `valid` gives the VALID bits. -/
def permOk (p sfmt rows : Nat) (valid : Nat → Bool) (desc : Nat → Nat → Nat) : Bool :=
  decide (pMode p ≤ 7) && !bit p 7 && !bit p 11 && !bit p 15
  && permRange p
  && (decide (pMode p ≤ 1) || esizeOk sfmt (pEsize p))
  && (decide (pMode p ≠ 1) ||
      (decide (sfmt ≠ 6) && decide (sfmt ≠ 7) && decide (sfmt ≠ 9)
       && (List.range (pM p)).all (fun j => valid (pPA p + j) &&
          (List.range 64).all (fun w =>
            let d := desc (pPA p + j) w
            (bit d 10 || decide (bits d 9 7 < pK p)) && (bit d 26 || decide (bits d 25 23 < pK p))))))
  && decide (rows % pK p = 0)

end Sys2Proof.Machine
end

