-- ==== Sys2Proof/Machine/State.lean ====
section
/-!
DEFINITION. Machine/State.lean: the state of the block as plain data, and the state right after power-on reset.
Service-bus registers that hold a value are held in `regs` under their own offsets (chapter 20 of the spec lists them);
registers whose value follows from other state are computed by the register read and hold nothing here.
-/
namespace Sys2Proof.Machine

/-- Reasons a step can stop. No command of the block stops it: the manual gives every one an effect or says that it is
ignored, so nothing raises this reason and no claim can rest on it (safe). -/
inductive Fault where
  /-- Raised by nothing: the block keeps running through every error it can detect (safe). -/
  | never
deriving DecidableEq, Repr

/-- Reasons a command has no meaning. -/
inductive Refusal where
  /-- A command whose meaning is not written yet, by its mnemonic (safe: the machine stops). -/
  | notModelled (mnemonic : String)
deriving DecidableEq, Repr

/-- A power request of R51 and R60: the target state (0 Off, 1 Retention, 2 On) and zero-fill. -/
structure PowReq where
  target : Nat
  zfill : Bool
deriving DecidableEq, Repr

/-- Power of one physical bank (R51 to R57): state (0 Off, 1 Retention, 2 On), transition under way, power-up waiting
for MAXUP or power-down waiting for granted beats, request held. -/
structure BankPow where
  st : Nat
  trans : Option PowReq
  wait : Option PowReq
  held : Option PowReq
deriving DecidableEq, Repr

def BankPow.off : BankPow := ⟨0, none, none, none⟩

/-- The correction write-back slot of a logical bank (R50): row, chunk, data, array cycle of the read. -/
structure WbSlot where
  row : Nat
  chunk : Nat
  data : BitVec 256
  cyc : Nat
deriving DecidableEq, Repr

/-- One stored chunk: data, poison code, initialised bit, flipped bits. -/
structure Chunk where
  data : BitVec 256
  pois : Bool
  init : Bool
  flips : List Nat
deriving DecidableEq, Repr

/-- What a row held before a store of this or the last array cycle, kept so that a read of the same cycle returns it
(R35): physical bank, row, the first array cycle that sees the store, the four chunks before it, and the port and
enables of the store. -/
structure Undo where
  pbank : Nat
  row : Nat
  seen : Nat
  old : List Chunk
  port : Bool
  en : Nat
  cyc : Nat
deriving DecidableEq, Repr

/-- Bank storage beside the cells: poison codes, initialised map, zero-filled banks, flipped bits, contents epochs, power,
write-back slots, stores of this and the last array cycle, and the owning client of each logical bank (R23; 0xFF unowned). -/
structure BankSt where
  pois : NMap Bool
  init : NMap Bool
  zf : NMap Bool
  flips : NMap (List Nat)
  epoch : NMap Nat
  pow : NMap BankPow
  wb : NMap (Option WbSlot)
  undo : List Undo
  own : List Nat
deriving DecidableEq, Repr

/-- Paths of a transfer (R86, R236). -/
inductive TrKind where
  | rd        -- read network, towards read lanes
  | wr        -- write network, from a write lane
  | at        -- atomic from a write lane
  | park      -- held delivery parking read through IR9 or IR10
  | parkWr    -- parking write through IW0 or IW1
  | ird       -- another read through the internal exchange, one row
  | iwr       -- another write through the internal exchange, one row
  | drop      -- the data flits of a refused own write or atomic, discarded in lane order (R108)
deriving DecidableEq, Repr

/-- What the row of an internal transfer is for (R92). -/
inductive Job where
  | none
  | side (lane : Nat)        -- a side row of a lane's stream (R182)
  | vec (lane : Nat)         -- a vector row of a lane's slots (R183)
  | scale (lane : Nat) (off : Int)   -- the scale row at `off` of a lane's stream (R83); lane 200: of the parked rows
  | chunkRd                  -- the scale chunk that a slip fills in part (R164)
  | chunkWr                  -- a scale chunk (R164)
  | stat                     -- a statistics record (R223)
  | rrow (op i : Nat)        -- row `i` that an operation of the reduction port reads
  | wrow (op i : Nat)        -- row `i` that it writes
  | trace (n : Nat)          -- a trace row, of which `n` ring slots then stand written (R432)
  | stopSlot                 -- the stop slot (R435)
  | dump (unit : Nat)        -- a row of a watch unit's dump region (R452)
  | dumpRd                   -- the dump readout (R454)
  | bankRd                   -- the bank readout (R448)
  | copyRd                   -- a row of the forwarding copy (R466)
  | copyWr
  | dual                     -- a dual write (R467)
deriving DecidableEq, Repr

/-- One beat of a transfer: the row it addresses, or why it reaches none. `bank`: the logical bank, or 128 + the physical one
where the access names that (R448, R466, R467). `bad`: 0 none; 1 address error; 2, 3, 4
partition faults of kind 1, 2, 3; 5 bank not On (R55); 6 generated without any access (R108, R226). -/
structure Beat where
  bank : Nat
  row : Nat
  byte : Nat
  off : Nat
  bad : Nat
  done : Bool
  have_ : Bool
  once : Bool
  data : Row
  pois : Mask4
  en : Mask4
deriving DecidableEq, Repr

/-- A transfer: a run of up to 8 beats of one requester (R231 to R243). -/
structure Tr where
  id : Nat
  req : Nat
  kind : TrKind
  slip : Nat             -- slip id + 1, 0 for an own request
  ctx : Nat
  client : Nat
  rlanes : List Nat      -- destination read lanes
  wlane : Nat            -- write lane + 1, 0 none
  beats : List Beat
  offs : Nat             -- path offset o of R236
  ready : Bool           -- requests arbitration
  rcyc : Nat             -- CCLK in which it reached arbitration
  granted : Bool
  gcyc : Nat             -- decision that granted it
  gseq : Nat             -- admission order
  ports : List (Nat × Bool)
  cred : Nat             -- credits per destination lane
  took : Bool            -- credits taken at the first grant
  preempt : Bool
  passed : NMap Nat      -- beats passed at each read lane's output register
  atop : Nat
  view : Nat             -- view address word
  g0 : Nat               -- first group (read) or row (write) of the slip
  grps : Nat             -- groups carried
  ev56 : Bool
  ev57 : Bool
  last : Bool            -- holds the slip's last flit
  job : Job              -- internal transfers: what the row is for
  fcls : Nat             -- their class at any bank (R233)
  wt : Nat               -- their weight in share mode (R248)
deriving DecidableEq, Repr

/-- A flit on a write lane. -/
structure WFlit where
  data : Row
  en : Mask4
  pois : Mask4
  scales : List (Nat × Bool)
  last : Bool
deriving DecidableEq, Repr

/-- A flit as delivered to an engine: data, sideband of R103, result sideband of R328, the slip it belongs to, and the use of
the bucket it is a result of. -/
structure OutFlit where
  data : Row
  sb : BitVec 104
  rsb : Word
  slip : Nat
  use : Nat
deriving DecidableEq, Repr

/-- A read lane: issue order (transfer ids not yet passed), landing buffer, DCQ and its readable entries, credits, flits the
DCQ has ever taken (its write pointer), the slip (id + 1) whose converted flits wait at its output, credits that wait for the end of
a halt (R441). -/
structure RLane where
  order : List Nat
  landing : List OutFlit
  dcq : List OutFlit
  seen : Nat
  cred : Nat
  nput : Nat
  cur : Nat
  owe : Nat
deriving DecidableEq, Repr

def RLane.empty : RLane := ⟨[], [], [], 0, 40, 0, 0, 0⟩

/-- A write lane: issue order, DCQ and its readable entries, staging buffer, claiming slip (id + 1), flits the DCQ has ever
taken. -/
structure WLane where
  order : List Nat
  dcq : List (Row × BitVec 81)
  seen : Nat
  staging : List WFlit
  claim : Nat
  nput : Nat
deriving DecidableEq, Repr

def WLane.empty : WLane := ⟨[], [], 0, [], 0, 0⟩

/-- A request channel: its DCQ, the entries readable in CCLK, the ticket last computed and the one the engine sees. -/
structure ReqCh where
  dcq : List (BitVec 64)
  seen : Nat
  tkt : Nat
  wait : Bool
  tktOut : Nat
  waitOut : Bool
deriving DecidableEq, Repr

def ReqCh.empty : ReqCh := ⟨[], 0, 0, false, 0, false⟩

/-- A leg whose middle plane an error has named (R97): network (true: write), transfer, array cycle, ingress and egress switch,
plane. -/
structure Crossing where
  write : Bool
  tr : Nat
  cyc : Nat
  ingr : Nat
  egr : Nat
  plane : Nat
deriving DecidableEq, Repr

/-- The Sorting Frame: lanes, request channels (read lane n at n, write lane n at 100 + n), transfers, oldest first; lanes that
have issued in this cycle (write lane n as 100 + n); planes of this cycle's legs that parity errors have named. -/
structure FrameSt where
  rl : NMap RLane
  wl : NMap WLane
  ch : NMap ReqCh
  trs : List Tr
  nextId : Nat
  issued : List Nat
  planes : List Crossing
deriving DecidableEq, Repr

/-- A cut-off (R244): requester, bank, decisions left. -/
structure Cut where
  req : Nat
  bank : Nat
  left : Nat
deriving DecidableEq, Repr

/-- The run of R244 at a bank port: requester + 1, array cycles, contended cycles, class. -/
structure Run where
  req : Nat
  len : Nat
  cont : Nat
  cls : Nat
deriving DecidableEq, Repr

def Run.none : Run := ⟨0, 0, 0, 0⟩

/-- Arbitration: round-robin pointers (8k + c), share pointers, share counters (requester), cut-offs, cut-off history
(requester, cycle), runs by port, tickets by requester, admission count, CCLK since the last refill of the share counters. -/
structure ArbSt where
  ptr : NMap Nat
  shPtr : NMap Nat
  shCred : NMap Nat
  cuts : List Cut
  hist : List (Nat × Nat)
  runs : NMap Run
  tkt : NMap Nat
  gseq : Nat
  shAge : Nat
deriving DecidableEq, Repr

/-- A queue entry: index 0-31, the slip, its decode (0 not decoded, 1 passed, 2 + r malformed with reason r), and the seed in force
at its decode (R154). -/
structure Entry where
  idx : Nat
  words : BitVec 512
  dec : Nat
  seed : Nat
deriving DecidableEq, Repr

/-- A slip queue (R255 to R259, R282, R283). -/
structure SlipQ where
  ents : List Entry
  tail : Nat
  stage : BitVec 512
  stop : Nat            -- 0, 3 or 4
  pause : Bool
  run : Nat             -- id + 1 of the executing slip
  wdog : Bool
  quiet : Nat           -- TCLK without progress
  stall : Nat
  ford : Bool           -- a fetch order is outstanding
  fleft : Nat           -- slips of it still to commit
  fseq : Nat
  fctx : Nat
  refused : Nat         -- decode reason of the last refusal (R446)
  stale : Nat           -- commits still due for orders that a FLUSH ended (R283)
deriving DecidableEq, Repr

def SlipQ.empty : SlipQ := ⟨[], 0, 0, 0, false, 0, false, 0, 0, false, 0, 0, 0, 0, 0⟩

/-- A flit of the converted stream: data, marks, block scales, elements. -/
structure DFlit where
  data : Row
  pois : Mask4
  scales : List (Nat × Bool)
  n : Nat
deriving DecidableEq, Repr

/-- A row of a scale plane held ahead (R83): its view OFFSET, data, marks. -/
structure ScaleRow where
  off : Int
  data : Row
  pois : Mask4
deriving DecidableEq, Repr

/-- What a slip has done on one destination lane. -/
structure SLane where
  grp : List Flit            -- source flits of the merge group now filling
  buf : List SrcEl           -- elements waiting for conversion
  wait : List DFlit          -- converted flits that wait for the output
  k : Nat                    -- source elements converted or waiting so far
  kd : Nat                   -- destination elements delivered so far
  out : Nat                  -- flits that left the last CCLK stage
  dcq : Nat                  -- flits that entered the DCQ or were discarded
  taken : Nat                -- flits the engine took
  held : Nat                 -- credits held (R275)
  side : List Flit           -- side rows ahead (R185)
  sideQ : Nat                -- side rows requested
  sideN : Nat                -- side rows read
  vec : List Flit            -- vector rows read (R183)
  vecQ : Nat                 -- vector rows requested
  sc : List ScaleRow         -- scale rows ahead (R83)
  scQ : Nat                  -- source rows whose scale rows are all requested
  scLast : Option Int        -- OFFSET of the scale row requested last
  scI : Nat                  -- source rows whose scales have been used
deriving DecidableEq, Repr

def SLane.empty : SLane := ⟨[], [], [], 0, 0, 0, 0, 0, 0, [], 0, 0, [], 0, [], 0, none, 0⟩

/-- The scale writer of R164: view OFFSET of the chunk being filled, the bytes filled so far, their poison, and the class of the write
transfer that it serves (R233). -/
structure ScaleBuf where
  off : Nat
  bytes : NMap Nat      -- byte 0-31 of the chunk, value + 1
  pois : Bool
  cls : Nat
deriving DecidableEq, Repr

/-- A held delivery in execution (R203 to R226). `st`: 1 waiting for the reservation, 2 active, 3 cancelling,
4 reservation released. -/
structure HeldEx where
  st : Nat
  blks : List Nat
  rows : List Nat              -- statistic rows
  tiles : Nat                  -- tiles admitted
  rel : Nat                    -- tiles released
  prq : Nat                    -- source rows whose parking read was requested
  raw : NMap (Option (Row × Mask4))         -- rows of an MX source that wait for their scales
  nraw : Nat                                -- rows of an MX source whose partials are computed
  parts : NMap (Option (StatPart × Bool))   -- row partials by source row
  stats : NMap (Option (List Nat × Bool))   -- final statistics by line, while in flight
  nstat : Nat                  -- lines whose statistics are ready
  recs : Nat                   -- statistics records written
  started : Nat                -- lines whose redelivery has begun
  flush : Bool
deriving DecidableEq, Repr

/-- A started slip, kept until its last flit has been taken. -/
structure Slip where
  sid : Nat
  q : Nat
  ent : Nat
  words : BitVec 512
  start : Nat
  step : Nat
  met : Bool                   -- WAIT, FENCE: found reached, found met
  ended : Bool
  fault : Bool
  cancel : Bool
  ev56 : Bool
  ev57 : Bool
  sent : Bool                  -- its SEND record has been generated
  issued : Nat                 -- groups (read side) in issued transfers
  lanes : NMap SLane
  slotSt : Nat                 -- blend: 0 none, 1 waiting, 2 loading vectors, 3 ready
  slots : List (Nat × Nat)     -- (lane, 4 * cluster + slot)
  fin : Nat                    -- write side: flits received into staging or found there
  fpop : Nat                   -- flits no longer needed in staging
  plain : Nat                  -- flits found in staging at the start, which pass no blend
  short : Bool                 -- LAST came before flit F
  wissued : Nat                -- rows in issued write transfers
  stored : Nat                 -- rows stored
  skey : SLane                 -- write-side blend stream
  sbuf : Option ScaleBuf
  scq : List ScaleBuf          -- scale chunks that wait to be stored, the first of them in progress
  cvf : Nat
  blf : Nat
  seed : Nat
  bp : Bool                    -- the permute program is block-preserving for the source format (R136)
  held : Option HeldEx
deriving DecidableEq, Repr

/-- Slip queues, started slips, next slip id. -/
structure SlipSt where
  q : NMap SlipQ
  live : List Slip
  nextSid : Nat
deriving DecidableEq, Repr

/-- The permute table, parameter sets and programmable tables (R130, R201, R202). -/
structure TblSt where
  pt : NMap Word        -- 64 * entry + word
  ps : NMap Word        -- 16 * set + word
  act : NMap Word       -- 776 * table + word
deriving DecidableEq, Repr

/-- Blend clusters: owner of each slot (slip id + 1), slot requests waiting in order (slip ids). -/
structure BlendSt where
  slot : NMap Nat
  wait : List Nat
deriving DecidableEq, Repr

/-- Held delivery: owner of each holding block and statistic row (slip id + 1), reservation requests in order, statistic
rows out of service, spare row + 1 substituted for a statistic row, cancellations written in a halt (level, word; R442). -/
structure HeldSt where
  blk : NMap Nat
  row : NMap Nat
  wait : List Nat
  gone : NMap Bool
  sub : NMap Nat
  canc : List (Nat × Word)
deriving DecidableEq, Repr

/-- Time (R421 to R425): counter, TCLK left of a hold, TCLK since the last accepted beacon or power-on release, whether a hold
is under way, and the cycles of the undivided tile clock in which the counter has not changed. -/
structure TimeSt where
  t : BitVec 64
  hold : Nat
  since : Nat
  holding : Bool
  still : Nat
deriving DecidableEq, Repr

/-- A trace record (R427, R428): header fields, payload, raw slots. -/
structure Rec where
  typ : Nat
  tq : Bool
  ctx : Nat
  q : Nat
  next : Nat
  time : BitVec 64
  q1 : BitVec 64
  raw : List (BitVec 128)
  unit : Nat
deriving DecidableEq, Repr

/-- Losses waiting for a GAP record of one consumer (R433, R437): count, times of the first and last lost record, whether some
were lost by that consumer alone (the others were lost at the collector). -/
structure Loss where
  n : Nat
  first : Nat
  last : Nat
  loc : Bool
deriving DecidableEq, Repr

def Loss.none : Loss := ⟨0, 0, 0, false⟩

/-- The trace (R430 to R437): records generated in this CCLK; input queue; the write buffer with all slots of its first row
from ring slot `wpos` on, `wold` of which are written already; start and length of the ring's records, oldest first (window
policy); losses of the buffer and of egress; slots still to take after a trigger, once its TRIG record is in the ring;
egress DCQ (slot, last of its record); whether cause 48 was raised for each consumer; the slot of this cycle that a WATCH record
of the last takes; CCLK without a new slot; whether the window is due to freeze; contents of the stop slot. -/
structure TraceSt where
  gen : List Rec
  inq : List Rec
  wbuf : List (BitVec 128)
  wpos : Nat
  wold : Nat
  recs : List (Nat × Nat)
  lossB : Loss
  lossE : Loss
  post : Option Nat
  eg : List (BitVec 128 × Bool)
  raised : Bool
  raisedE : Bool
  carry : Nat
  quiet : Nat
  freezeDue : Bool
  stopSlot : BitVec 128
deriving DecidableEq, Repr

/-- A watch unit (R450 to R452): the capturing slip's id + 1, and the flits waiting for the dump region with their row index. -/
structure Watch where
  slip : Nat
  buf : List (Nat × Row × Mask4)
deriving DecidableEq, Repr

def Watch.idle : Watch := ⟨0, []⟩

/-- Stop, snapshots and watch: lmy_stop as sampled, whether it was seen 0 since the last stop, CCLK and TCLK since the halt, time
of the halt, scan capture in progress and scan image, row readout (physical bank, row) and dump readout (unit, row) in progress,
hang snapshot, watch units and the unit that IW11 serves next, CCLK + 1 in which the event log was filled (R458). -/
structure DbgSt where
  stopIn : Bool
  armed : Bool
  haltCyc : Nat
  haltTime : Nat
  haltCnt : Nat
  capturing : Bool
  scan : NMap Word
  brd : Option (Nat × Nat)
  wrd : Option (Nat × Nat)
  hang : NMap Word
  wu : NMap Watch
  wrr : Nat
  evtCyc : Nat
deriving DecidableEq, Repr

/-- A dual write waiting for the spare (R467): row, enables, chunks, class and weight of the store. -/
structure Dual where
  row : Nat
  en : Nat
  chunks : List Chunk
  cls : Nat
  wt : Nat
deriving DecidableEq, Repr

/-- A bank migration (R465): logical bank, spare, phase, rows copied, rows whose copy write has reached the spare, trigger, dual
writes. -/
structure Mig where
  lb : Nat
  pb : Nat
  phase : Nat
  cp : Nat
  cw : Nat
  trig : Nat
  dual : List Dual
deriving DecidableEq, Repr

/-- A plane, cluster or statistic-row forwarding under way: kind code, failing unit, spare + 1 (0 none), trigger. -/
structure FwdRun where
  kind : Nat
  unit : Nat
  spare : Nat
  trig : Nat
deriving DecidableEq, Repr

/-- Forwarding. Units are keyed 8192 * kind + number, kind as in an entry (R475). `pend` holds trigger code + 1. `win` and `sWin` are
the numbers of the rate window and of the storm guard's millisecond in which the counts stand (R462, R463). -/
structure FwdSt where
  pend : NMap Nat
  cmd : NMap Bool
  wcnt : NMap Nat
  win : Nat
  storm : List Nat
  sWin : Nat
  mig : Option Mig
  plane : Option FwdRun
  cluster : Option FwdRun
  stat : Option FwdRun
  ents : List (BitVec 64)
  plR : BitVec 18       -- read planes in service
  plW : BitVec 18
  spR : BitVec 18       -- spare read planes not yet used or retired
  spW : BitVec 18
  cl : BitVec 9         -- clusters in service
  spC : BitVec 9
  rowsUsed : List Nat   -- spare statistic rows assigned or retired
  spB : List Nat        -- physical banks that are spares
deriving DecidableEq, Repr

/-- The last service-bus response (R487) and the shadows of R15, R426 by privilege level. -/
structure BusSt where
  rdata : Word
  err : Bool
  cntSh : NMap (BitVec 24)
  tmSh : NMap Word
  xcSel : NMap Word
  baddr : NMap Word
deriving DecidableEq, Repr

/-- A bucket's NaN record (R320): kinds seen, first appearances, lowest node (level, index, flit). -/
structure NanRec where
  nan : Bool
  inf : Bool
  n : Nat
  low : Option (Nat × Nat × Nat)
deriving DecidableEq, Repr

def NanRec.none : NanRec := ⟨false, false, 0, .none⟩

/-- A flit in an intake slot (R299, R304): sideband fields, payload, lane (true: WL43) and the halves still to combine
(0: the F32 payload or the lower BF16 half, 1: the upper half). -/
structure RFlit where
  vc : Nat
  bucket : Nat
  flit : Nat
  level : Nat
  idx : Nat
  efmt : Nat
  pois : Mask4
  data : Row
  lane : Bool
  todo : List Nat
deriving DecidableEq, Repr

/-- A pigeonhole's directory entry (R312): area row, node and partial NaN record; the operation (id + 1) that reads it; the first
cycle in which its row may be requested, none before its parking write has reached the array (R315). -/
structure PEnt where
  vc : Nat
  row : Nat
  bucket : Nat
  flit : Nat
  level : Nat
  idx : Nat
  nan : NanRec
  taker : Nat
  from_ : Option Nat
deriving DecidableEq, Repr

/-- An operation of the reduction port that reads and writes rows. `kind`: 0 a contribution on its way (R313), 1 a norm pass (R322),
2 the update of a flit (R324), 3 the read of G (R325), 4 the row of a norm group (R323). -/
structure ROp where
  id : Nat
  kind : Nat
  b : Nat                              -- bucket, or norm group
  use : Nat                            -- use of the bucket
  ctx : Nat
  desc : List Word
  flit : Nat
  vc : Nat
  level : Nat                          -- node the contribution stops at
  idx : Nat
  hole : Option Nat                    -- pigeonhole row it parks in; none: the root
  way : List PEnt                      -- parked partials it meets
  data : Row                           -- the contribution, or the reduced flit as the combiner had it
  pois : Mask4
  nan : NanRec
  again : Bool                         -- an update reads the reduced flit again
  asked : Nat                          -- rows requested
  got : NMap (Option (Row × Mask4))    -- rows read
  full : Bool                          -- the results stand in `outs`
  outs : List (Row × Mask4)
  wasked : Nat                         -- rows whose write is requested
  wdone : Nat                          -- rows written
deriving DecidableEq, Repr

/-- A bucket slot (R306 to R309, R322, R325, R328): state code, status bits, descriptor as read when armed, NaN record,
reduced flits and updated flits (latest first), norm pass (0 none due, 1 running, 2 ended), result flits requested and
delivered, reduced flits whose immediate update has not started (flit, data, marks), G with its poison once the gate of an O3
update has opened, updates started, and how often the bucket has been armed. -/
structure Bkt where
  st : Nat
  skip : Bool
  nonfin : Bool
  poison : Bool
  afault : Bool
  dup : Bool
  desc : List Word
  nan : NanRec
  red : List Nat
  upd : List Nat
  norm : Nat
  sent : Nat
  dlv : Nat
  imm : List (Nat × Row × Mask4)
  g : Option (Nat × Bool)
  ustart : Nat
  use : Nat
deriving DecidableEq, Repr

def Bkt.free : Bkt := ⟨0, false, false, false, false, false, [], NanRec.none, [], [], 0, 0, 0, [], none, 0, 0⟩

/-- A norm group's members that have computed q_b (BIDX, slot, q_b, poisoned), its partial and status, and whether a member was
aborted (R309, R323). -/
structure NGrp where
  mem : List (Nat × Nat × Word × Bool)
  sum : Word
  ready : Bool
  pois : Bool
  lost : Bool
deriving DecidableEq, Repr

def NGrp.none : NGrp := ⟨[], 0, false, false, false⟩

/-- The reduction port: intake slots in arrival order, pigeonhole directory, buckets, descriptors (16 b + w), norm groups,
egress credits held, freed slots whose credit is not yet returned, the running counts of R485, stalled VCs, the VC the
combiner serves next and the contributions it has taken in this cycle, quarters of the update rate used in this cycle (R325),
result flits in flight by transfer id, operations under way, oldest first, and the id of the next. -/
structure RdxSt where
  slots : List RFlit
  dir : List PEnt
  bkt : NMap Bkt
  desc : NMap Word
  ng : NMap NGrp
  eg : NMap Nat
  ret : NMap Nat
  vccred : NMap Nat
  egcred : NMap Nat
  stall : NMap Bool
  rr : Nat
  took : Nat
  nupd : Nat
  res : NMap Word
  ops : List ROp
  nextOp : Nat
deriving DecidableEq, Repr

/-- A preheat hint: LEVEL, LEADUS, DURUS, NHINT (R355). -/
structure Hint where
  level : Nat
  lead : Nat
  dur : Nat
  n : Nat
deriving DecidableEq, Repr

/-- Estimator and limit state of one rail (R341 to R349), in units of 1.25e-6 pC (times gain / 2^14 where calibrated):
raw charge of this CCLK, raw charge of the calibration interval, calibrated charge of the current and the last seven
125 ns sub-windows and of the current and the last fifteen 1 us sub-windows, gain and limits in force, the gain waiting
for the next sub-window, whether the rail is at its limit and the ns since it last was. -/
structure Rail where
  now : Nat
  raw : Nat
  w1 : List Nat
  w16 : List Nat
  gain : Nat
  gainNext : Option Nat
  lim1 : Nat
  lim16 : Nat
  atLim : Bool
  freeNs : Nat
deriving DecidableEq, Repr

/-- A completed calibration interval (R343): index, raw charge of VDD_CORE and VDD_ARRAY, already calibrated. -/
structure CalIvl where
  k : Nat
  core : Nat
  arr : Nat
  used : Bool
deriving DecidableEq, Repr

/-- Power: domains 100 to 131 by number, rails, calibration, applied level, level commands (`sup`: SEQs superseded by the
held command, `supNow`: by the one being applied), tile-clock handshake, messages
offered to the power controller, 1 us windows since the offered hint was merged. `phase`: 0 idle, 1 waiting for lmy_ck_lock to fall, 2 retuning, 3 substep change. -/
structure PwrSt where
  dom : NMap BankPow
  core : Rail
  arr : Rail
  ivls : List CalIvl
  missed : Nat
  step : Nat
  div : Nat
  seq : Nat
  capun : Bool
  cmd : Option (BitVec 16)
  held : Option (BitVec 16)
  sup : List Nat
  supNow : List Nat
  phase : Nat
  rtnNs : Nat
  ckSel : Bool
  ckFmhz : BitVec 12
  ckRtn : Bool
  ckLock : Bool
  acks : List (BitVec 17)
  est : Option (BitVec 96)
  hintNow : Option Hint
  hintOut : Option Hint
  hintAge : Nat
deriving DecidableEq, Repr

/-- Resets, static inputs and the Waybill load (R365 to R380): which resets are in force, domains 132 to 134 powered and
released, sampled lmy_field, lmy_cfg_req, TCLK since the tile-reset release and since the load timeout last restarted,
words received (latest first) and their number, running CRC, sections begun, offset of the next section header, TYPE of the last
section other than NOTE and PAD and of the section begun last, and relaxed timing. -/
structure CkSt where
  por : Bool
  trst : Bool
  swrst : Bool
  field : Bool
  cfgReq : Bool
  relNs : Nat
  waitNs : Nat
  img : List Word
  nimg : Nat
  crc : Word
  nsect : Nat
  nextHdr : Nat
  lastTyp : Nat
  curTyp : Nat
  relaxed : Bool
deriving DecidableEq, Repr

/-- A seal session (R402 to R405): state code, NFLITS − 1, flits processed, context, sequence number and key taken at arming,
GHASH accumulator, FAIL. -/
structure Seal where
  st : Nat
  nfm1 : Nat
  ndone : Nat
  ctx : Nat
  seq : BitVec 64
  key : BitVec 256
  gh : BitVec 128
  fail : Bool
deriving DecidableEq, Repr

def Seal.idle : Seal := ⟨0, 0, 0, 0, 0, 0, 0, false⟩

/-- Protection: LO words the parties wrote, complete digests, the block's digest, digest under computation, window TCLK
counted, sealing keys and SEQ counters, sessions, purge TCLK counted, banks to wait for. -/
structure ProtSt where
  sLo : Word
  pLo : Word
  sDig : Option (BitVec 64)
  pDig : Option (BitVec 64)
  bDig : Option (BitVec 64)
  computing : Bool
  winNs : Nat
  key : NMap (BitVec 256)
  seq : NMap (BitVec 64)
  sess : NMap Seal
  purgeNs : Nat
deriving DecidableEq, Repr
/-- The block. -/
structure State where
  /-- commands waiting, first in first out -/
  pending : List Instr
  /-- CCLK cycle number: the decision of this cycle is number `cyc` -/
  cyc : Nat
  /-- MODEL'S OWN: how many free values have been drawn (log entry 4) -/
  free : Nat
  /-- the registers that hold a value, by offset -/
  regs : NMap Word
  /-- the always-on counters, by the offset of their low word (R419) -/
  cnt : NMap (BitVec 56)
  /-- the extended counters, by index (R420) -/
  xc : NMap (BitVec 56)
  bus : BusSt
  /-- the bytes of the physical banks: address 65536 * bank + 128 * row + byte; an unlisted byte reads 0x00 -/
  mem : List Host.Cell
  bank : BankSt
  fr : FrameSt
  arb : ArbSt
  sq : SlipSt
  tb : TblSt
  bl : BlendSt
  hd : HeldSt
  tm : TimeSt
  tr : TraceSt
  dbg : DbgSt
  fw : FwdSt
  rx : RdxSt
  pw : PwrSt
  ck : CkSt
  pr : ProtSt
deriving DecidableEq, Repr

/-- Registers whose reset value is not 0 (chapter 20 of the spec). -/
def resetRegs : NMap Word :=
  [(0x0800, 0x00000081), (0x3004, 0x00000014), (0x4008, 0x07D007D0), (0x400C, 0x04B004B0),
   (0x4010, 0x40004000),
   (0x4400, 0x00000003), (0x6000, 0x00000010), (0x6004, 0x00003FFF), (0x600C, 0x00000800),
   (0x6048, 0x00000010), (0x6800, 0x00000018), (0x6A00, 0x000FE000), (0x6A40, 0x000FE000),
   (0x6A80, 0x000FE000), (0x6AC0, 0x000FE000), (0x7008, 0xFF000000), (0x700C, 0x00FF00FF),
   (0x7010, 0xFFFFFFFF), (0x7014, 0xFFFFFFFF), (0x7040, 0x01040040), (0x7044, 0x000403E8)]

/-- The identity bank map of LMY_FWD_BMAP (R475). -/
def resetMap : NMap Word :=
  [(0x7100, 0x03020100), (0x7104, 0x07060504), (0x7108, 0x0B0A0908), (0x710C, 0x0F0E0D0C),
   (0x7110, 0x13121110), (0x7114, 0x17161514), (0x7118, 0x1B1A1918), (0x711C, 0x1F1E1D1C),
   (0x7120, 0x23222120), (0x7124, 0x27262524), (0x7128, 0x2B2A2928), (0x712C, 0x2F2E2D2C),
   (0x7130, 0x33323130), (0x7134, 0x37363534), (0x7138, 0x3B3A3938), (0x713C, 0x3F3E3D3C),
   (0x7140, 0x43424140), (0x7144, 0x47464544), (0x7148, 0x4B4A4948), (0x714C, 0x4F4E4D4C),
   (0x7150, 0x53525150), (0x7154, 0x57565554), (0x7158, 0x5B5A5958), (0x715C, 0x5F5E5D5C)]

/-- LMY_BT_TBLVALID: the fixed tables are valid (R199). -/
def resetTbl : NMap Word := [(0xA060, 0x00000FFF)]

def Rail.reset (lim : Nat) : Rail :=
  ⟨0, 0, List.replicate 8 0, List.replicate 16 0, 0x4000, none, lim, lim, false, 0⟩

/-- R23: the default owners of the logical banks. -/
def defaultOwners : List Nat :=
  [0, 0, 0, 0, 0, 0, 0, 0] ++ [1, 1, 1, 1, 1, 1, 1, 1] ++ List.replicate 16 2 ++ List.replicate 16 3 ++ List.replicate 16 4
    ++ List.replicate 16 5 ++ [6, 6, 6, 6, 6, 6] ++ [7, 7] ++ [8, 8, 8, 8] ++ [10, 10, 10, 10]

def BankSt.reset : BankSt := ⟨[], [], [], [], [], [], [], [], defaultOwners⟩
def FrameSt.reset : FrameSt := ⟨[], [], [], [], 0, [], []⟩
def ArbSt.reset : ArbSt := ⟨[], [], [], [], [], [], [], 0, 0⟩
def SlipSt.reset : SlipSt := ⟨[], [], 0⟩
def TblSt.reset : TblSt := ⟨[], [], []⟩
def BlendSt.reset : BlendSt := ⟨[], []⟩
def HeldSt.reset : HeldSt := ⟨[], [], [], [], [], []⟩
def TimeSt.reset : TimeSt := ⟨0, 0, 0, false, 0⟩
def TraceSt.reset : TraceSt :=
  ⟨[], [], [], 0, 0, [], Loss.none, Loss.none, none, [], false, false, 0, 0, false, 0⟩
def DbgSt.reset : DbgSt := ⟨false, true, 0, 0, 0, false, [], none, none, [], [], 0, 0⟩
/-- R463, R465, R471 to R473: the spares are banks 96 to 99, planes 16 and 17 of each network, cluster 8. -/
def FwdSt.reset : FwdSt :=
  ⟨[], [], [], 0, [], 0, none, none, none, none, [], 0x0FFFF, 0x0FFFF, 0x30000, 0x30000, 0x0FF, 0x100, [], [96, 97, 98, 99]⟩
def BusSt.reset : BusSt := ⟨0, false, [], [], [], []⟩
def RdxSt.reset : RdxSt := ⟨[], [], [], [], [], [], [], [], [], [], 0, 0, 0, [], [], 0⟩
/-- R365: the applied level is step 0 of the default table, 0.8 GHz from lmy_cclk_a. -/
def PwrSt.reset : PwrSt :=
  ⟨[], Rail.reset 2000, Rail.reset 1200, [], 0, 0, 0, 0, false, none, none, [], [], 0, 0, false, 0x320, false, false, [], none, none,
   none, 0⟩
/-- Both reset inputs low (R368, step 1). -/
def CkSt.reset : CkSt := ⟨true, true, false, false, false, 0, 0, [], 0, 0, 0, 0, 0, 0, false⟩
def ProtSt.reset : ProtSt := ⟨0, 0, none, none, none, false, 0, [], [], [], 0⟩

/-- The block under power-on reset, both reset inputs low (R365, R368 step 1): every register at the reset value of its
table, every bank and domain Off, nothing in flight, no command waiting. -/
def State.reset : State where
  pending := []
  cyc := 0
  free := 0
  regs := resetRegs ++ resetMap ++ resetTbl
  cnt := []
  xc := []
  bus := BusSt.reset
  mem := []
  bank := BankSt.reset
  fr := FrameSt.reset
  arb := ArbSt.reset
  sq := SlipSt.reset
  tb := TblSt.reset
  bl := BlendSt.reset
  hd := HeldSt.reset
  tm := TimeSt.reset
  tr := TraceSt.reset
  dbg := DbgSt.reset
  fw := FwdSt.reset
  rx := RdxSt.reset
  pw := PwrSt.reset
  ck := CkSt.reset
  pr := ProtSt.reset

end Sys2Proof.Machine
end

