-- ==== Sys2Proof/Machine/Ops.lean ====
section
/-!
DEFINITION. Machine/Ops.lean: the operations every command shares: stored registers, counters, event causes, error logs,
trace records and triggers, time, free values. A state is always the last argument, so that effects chain with |>.
-/
namespace Sys2Proof.Machine

/-- Apply an effect for every item of a list, in order. -/
def forEach {α : Type} (l : List α) (f : α → State → State) (s : State) : State :=
  match l with
  | [] => s
  | a :: as => forEach as f (f a s)

/-- An effect that happens only under a condition. -/
def when (c : Bool) (f : State → State) (s : State) : State := if c then f s else s

/-! Registers -/

/-- The value a register holds. -/
def reg (s : State) (o : Nat) : Word := NMap.get 0 s.regs o

/-- Field [hi:lo] of a stored register. -/
def regF (s : State) (o hi lo : Nat) : Nat := bits (reg s o).toNat hi lo

/-- Bit `i` of a stored register. -/
def regB (s : State) (o i : Nat) : Bool := bit (reg s o).toNat i

def setReg (o : Nat) (w : Word) (s : State) : State := { s with regs := NMap.set 0 s.regs o w }

/-- Write field [hi:lo] of a stored register. -/
def setRegF (o hi lo v : Nat) (s : State) : State :=
  setReg o (BitVec.ofNat 32 (setBits (reg s o).toNat hi lo v)) s

/-- Set bits of a stored register. -/
def orReg (o m : Nat) (s : State) : State := setReg o (reg s o ||| BitVec.ofNat 32 m) s

/-- Clear bits of a stored register. -/
def clrReg (o m : Nat) (s : State) : State := setReg o (reg s o &&& ~~~ (BitVec.ofNat 32 m)) s

/-- Consecutive registers from a list of words. -/
def setRegs (o : Nat) : List Nat → State → State
  | [], s => s
  | w :: ws, s => setRegs (o + 4) ws (setReg o (BitVec.ofNat 32 w) s)

/-- One field of a register that holds an array of `w`-bit fields, `32 / w` to a word: field `i` from offset `o`. -/
def regArr (s : State) (o w i : Nat) : Nat :=
  bits (reg s (o + 4 * (i / (32 / w)))).toNat (w * (i % (32 / w)) + w - 1) (w * (i % (32 / w)))

/-! Free values -/

/-- Draw a fresh free value: the counter its constant is applied to (log entry 4). -/
def drawFree (s : State) : Nat × State := (s.free, { s with free := s.free + 1 })

/-! Status -/

/-- Some reset is in force (R365, R367, R479). -/
def inReset (s : State) : Bool := s.ck.por || s.ck.trst || s.ck.swrst

/-- R377: LMY_WB_STATUS.STATE. -/
def wbState (s : State) : Nat := regF s 0x4420 2 0

/-- R369: the Waybill is LOADED and no reset is in force. -/
def loaded (s : State) : Bool := wbState s == 3 && !inReset s

/-- R440, R445: the block is halted (LMY_STOP_STATUS.HALTED). -/
def halted (s : State) : Bool := regB s 0x6808 0

/-- R410: PURGED. -/
def purged (s : State) : Bool := regB s 0x4B04 6

/-- R406: a purge is under way (LMY_DBG_STATUS.STATE is PURGING). -/
def purging (s : State) : Bool := regF s 0x4B04 1 0 == 1

/-- R361, R369, R410, R441: CCLK stages advance: configured, not halted, not purging. -/
def running (s : State) : Bool := loaded s && !halted s && !purging s

/-- R410: the lanes and queues are served. -/
def serving (s : State) : Bool := running s && !purged s

/-! Counters (R415, R419, R420) -/

/-- Add to an always-on counter, by the offset of its low word. -/
def bump (o n : Nat) (s : State) : State := { s with cnt := NMap.upd 0 s.cnt o (fun c => c + BitVec.ofNat 56 n) }

/-- Add to an extended counter, which counts only while LMY_XC_CTL.EN is 1. -/
def xbump (i n : Nat) (s : State) : State :=
  if regB s 0x5F00 0 then { s with xc := NMap.upd 0 s.xc i (fun c => c + BitVec.ofNat 56 n) } else s

/-! Time and trace records (R425 to R434) -/

/-- The time counter. -/
def timeNow (s : State) : Nat := s.tm.t.toNat

/-- R425: TQ of a record of now: TVALID 0, LOST 1 or TCLK stalled. -/
def timeQ (s : State) : Bool := !regB s 0x604C 0 || regB s 0x604C 1 || regB s 0x604C 3

/-- R427, R428: a record of now. -/
def mkRec (typ ctx q next : Nat) (q1 : Nat) (raw : List (BitVec 128)) (unit : Nat) (s : State) : Rec :=
  ⟨typ, timeQ s, ctx, q, next, s.tm.t, BitVec.ofNat 64 q1, raw, unit⟩

/-- R429: the LMY_TR_FILT bit of a record type, for the types that have one. -/
def filtBit : Nat → Option Nat
  | 1 => some 8
  | 2 => some 9
  | 3 => some 10
  | 4 => some 11
  | 5 => some 12
  | 0xA => some 13
  | _ => none

/-- R429: whether a record passes the filters; `hasCtx`: it carries a context. -/
def recPasses (r : Rec) (hasCtx : Bool) (s : State) : Bool :=
  regB s 0x6000 0 &&
    (match filtBit r.typ with | some b => regB s 0x6004 b | none => true) && (!hasCtx || regB s 0x6004 r.ctx)

/-- Generate a record in this CCLK. -/
def genRec (r : Rec) (hasCtx : Bool) (s : State) : State :=
  if recPasses r hasCtx s then { s with tr := { s.tr with gen := s.tr.gen ++ [r] } } else s

/-- A TIME record (R428): kind, d. -/
def genTime (kind d : Nat) (s : State) : State :=
  genRec (mkRec 9 0 0 0 (bits (timeNow s) 63 48 + fld kind 16 + fld (d % 2 ^ 32) 32) [] 0 s) false s

/-- R431: N, the slots of the trace buffer. -/
def traceN (s : State) : Nat := 8 * regF s 0x12C4 15 0

/-- R434: P, the post-trigger slots in effect. -/
def tracePost (s : State) : Nat := min (regF s 0x600C 15 0) (traceN s - 10)

/-- R434: a trigger: its TRIG record; under the window policy TRIGD and LMY_TR_TRIGPTR follow when that record is written. -/
def traceTrigger (src cause : Nat) (s : State) : State :=
  if regB s 0x6000 0 && !(regB s 0x6000 1 && regB s 0x6014 2) then
    let s := genRec (mkRec 0xB 0 0 0 (src + fld cause 8 + fld (tracePost s) 16) [] 0 s) false s
    if regB s 0x6000 1 then orReg 0x6014 4 s else s
  else s

/-! Event causes (R458) and error logs (R59) -/

/-- Raise event cause `n`: its pending bit, the event log, the event trigger of the trace (R434). -/
def raise (n : Nat) (s : State) : State :=
  let s := orReg (0x7000 + 4 * (n / 32 % 2)) (2 ^ (n % 32)) s
  let s :=
    if regB s 0x7018 0 then
      let s := orReg 0x7018 2 s
      if s.dbg.evtCyc == s.cyc + 1 && decide (n < regF s 0x7018 7 2) then
        setRegF 0x7018 7 2 n s |> setReg 0x701C (BitVec.ofNat 32 (timeNow s)) |> setReg 0x7020 (BitVec.ofNat 32 (timeNow s >>> 32))
      else s
    else
      let s := setReg 0x7018 (BitVec.ofNat 32 (1 + fld n 2)) s |> setReg 0x701C (BitVec.ofNat 32 (timeNow s))
        |> setReg 0x7020 (BitVec.ofNat 32 (timeNow s >>> 32))
      { s with dbg := { s.dbg with evtCyc := s.cyc + 1 } }
  if regB s 0x6008 2 && regF s 0x6008 9 4 == n then traceTrigger 3 n s else s

/-- R59: an error log of two words: the first error fills it, a later one sets OVF. -/
def fillLog (o w0 w1 : Nat) (s : State) : State :=
  if regB s o 0 then orReg o 2 s
  else setReg o (BitVec.ofNat 32 (1 + w0)) s |> setReg (o + 4) (BitVec.ofNat 32 w1)

/-- R59: an error log of one word. -/
def fillLog1 (o w0 : Nat) (s : State) : State :=
  if regB s o 0 then orReg o 2 s else setReg o (BitVec.ofNat 32 (1 + w0)) s

/-- R59: a write to a log word clears VALID and OVF together by bit 0, OVF alone by bit 1. -/
def clearLog (o : Nat) (w : Word) (s : State) : State :=
  if bit w.toNat 0 then clrReg o 3 s else if bit w.toNat 1 then clrReg o 2 s else s

/-! Transfers of the internal exchange (R92) -/

/-- Internal transfers of some purpose end: one not granted is withdrawn, one granted moves its row and means nothing more. -/
def dropJobs (p : Job → Bool) (s : State) : State :=
  { s with fr := { s.fr with
      trs := (s.fr.trs.filter fun t => !(p t.job && !t.granted)).map fun t => if p t.job then { t with job := .none } else t } }

/-! Banks of beats that a switch left behind (R468) -/

/-- R468: the bank number of a beat that was granted before its logical bank `lb` moved away from physical bank `pb`. -/
def oldBank (pb lb : Nat) : Nat := 256 + 128 * pb + lb

/-- The logical bank of such a beat; other numbers stand for themselves. -/
def plainBank (b : Nat) : Nat := if b < 256 then b else b % 128

/-! The estimator (R341) -/

/-- R341: the coefficient K_e. -/
def coefK (s : State) (k : Nat) : Nat := if k < 14 then regArr s 0x4060 16 k else 0

/-- R352, R365: VSET and LSCALE of the applied step, from the default table until the Waybill is LOADED. -/
def defaultVF (k : Nat) : Nat × Nat × Nat :=
  listGet (2400, 900, 128)
    [(800, 600, 38), (900, 620, 42), (1000, 640, 46), (1100, 660, 50), (1200, 680, 55), (1300, 700, 60), (1400, 720, 66),
     (1500, 740, 71), (1600, 760, 77), (1700, 780, 83), (1800, 800, 90), (1900, 820, 97), (2000, 840, 104),
     (2100, 860, 112), (2200, 880, 120), (2400, 900, 128)] k

/-- R350: FMHZ, VMV and LSCALE of step k in force. -/
def stepVF (s : State) (k : Nat) : Nat × Nat × Nat :=
  if wbState s == 3 then (regF s (0x4020 + 4 * k) 11 0, regF s (0x4020 + 4 * k) 21 12, regF s (0x4020 + 4 * k) 31 24)
  else defaultVF k

/-- R341: add `n` events of kind `k` to the raw charge of this CCLK, in units of 1.25e-6 pC. -/
def estimate (k n : Nat) (s : State) : State :=
  if k < 2 then
    { s with pw := { s.pw with arr := { s.pw.arr with now := s.pw.arr.now + 8 * 750 * n * coefK s k } } }
  else
    { s with pw := { s.pw with core := { s.pw.core with now := s.pw.core.now + 8 * (stepVF s s.pw.step).2.1 * n * coefK s k } } }

end Sys2Proof.Machine
end

