-- ==== Sys2Proof/Machine/Banks.lean ====
section
/-!
DEFINITION. Machine/Banks.lean: the physical banks: chunks and their protection (R30 to R50), power as accesses see it
(R51 to R56), stores with their dual writes (R467), forwarding triggers (R462).
-/
namespace Sys2Proof.Machine

/-! Units and forwarding triggers -/

/-- The key of a forwardable unit: kind as in an entry (R475), number. -/
def unitKey (kind unit : Nat) : Nat := 8192 * kind + unit

/-- R471, R472, R465: the unit is being forwarded now. -/
def unitBusy (s : State) (kind unit : Nat) : Bool :=
  (kind == 0 && (match s.fw.mig with | some m => m.lb == unit | none => false))
  || ((kind == 1 || kind == 2) && (match s.fw.plane with | some r => r.kind == kind && r.unit == unit | none => false))
  || (kind == 3 && (match s.fw.cluster with | some r => r.unit == unit | none => false))
  || (kind == 4 && (match s.fw.stat with | some r => r.unit == unit | none => false))

/-- R474, R477: the unit is in service. -/
def unitLive (s : State) (kind unit : Nat) : Bool :=
  match kind with
  | 0 => decide (unit < 96)
  | 1 => s.fw.plR.getLsbD unit
  | 2 => s.fw.plW.getLsbD unit
  | 3 => s.fw.cl.getLsbD unit
  | 4 => decide (unit < 4096) && !NMap.get false s.hd.gone unit
  | _ => false

/-- R474: LMY_FWD_DEGB of a logical bank. -/
def bankDegraded (s : State) (lb : Nat) : Bool := regB s (0x7078 + 4 * (lb / 32)) (lb % 32)

/-- R462: set a unit pending with its trigger (R475 TRIG) and raise cause 9. A trigger on a unit that is being forwarded, is
degraded or is out of service is ignored; an uncorrectable error outranks an earlier trigger of the unit (R464). -/
def fwdTrigger (kind unit trig : Nat) (s : State) : State :=
  if unitBusy s kind unit || !unitLive s kind unit || (kind == 0 && bankDegraded s unit) then s
  else
    let old := NMap.get 0 s.fw.pend (unitKey kind unit)
    { s with fw := { s.fw with pend := NMap.set 0 s.fw.pend (unitKey kind unit) (if old = 0 ∨ trig = 2 then trig + 1 else old) } }
      |> raise 9

/-- R462: the number of the rate window in which the time counter stands. -/
def fwdWindow (s : State) : Nat :=
  let ms := regF s 0x7044 15 0
  s.tm.t.toNat / ((if ms = 0 then 1000 else ms) * 1000000)

/-- R462: each count restarts at the start of a window. -/
def openWindow (s : State) : State :=
  if s.fw.win = fwdWindow s then s else { s with fw := { s.fw with wcnt := [], win := fwdWindow s } }

/-- R463: the storm guard's banks are those of one millisecond of the time counter. -/
def openStorm (s : State) : State :=
  if s.fw.sWin = s.tm.t.toNat / 1000000 then s else { s with fw := { s.fw with storm := [], sWin := s.tm.t.toNat / 1000000 } }

/-- R462: count `n` rate errors of a unit in the window; reaching the threshold triggers once. -/
def fwdCount (kind unit thr trig n : Nat) (s : State) : State :=
  let s := openWindow s
  let old := NMap.get 0 s.fw.wcnt (unitKey kind unit)
  let s := { s with fw := { s.fw with wcnt := NMap.set 0 s.fw.wcnt (unitKey kind unit) (old + n) } }
  if thr ≠ 0 ∧ old < thr ∧ thr ≤ old + n then fwdTrigger kind unit trig s else s

/-- R462: corrected chunks of a logical bank against CETHR. -/
def fwdCorrected (lb n : Nat) (s : State) : State := if n = 0 then s else fwdCount 0 lb (regF s 0x7040 15 0) 1 n s

/-- R462: parity errors of a plane or cluster against PARTHR. -/
def fwdParity (kind unit : Nat) (s : State) : State := fwdCount kind unit (regF s 0x7040 23 16) 3 1 s

/-- R463: an uncorrectable error arose in a logical bank. -/
def stormBank (lb : Nat) (s : State) : State :=
  let s := openStorm s
  if s.fw.storm.contains lb then s else { s with fw := { s.fw with storm := lb :: s.fw.storm } }

/-- R462, R463: an uncorrectable chunk of a logical bank triggers at once; one that the forwarding copy finds does not. -/
def fwdUncorrected (copy : Bool) (lb : Nat) (s : State) : State :=
  if copy then stormBank lb s else stormBank lb s |> fwdTrigger 0 lb 2

/-! Power as an access sees it -/

/-- R31: the physical bank behind a logical bank, or the one that a bank number from 128 on names itself; of a beat that a switch left
behind (R468), the source. -/
def pbankOf (s : State) (lb : Nat) : Nat :=
  if 256 ≤ lb then (lb - 256) / 128 else if 128 ≤ lb then lb - 128 else regArr s 0x7100 8 lb % 128

def powOf (s : State) (pb : Nat) : BankPow := NMap.get BankPow.off s.bank.pow pb

def setPow (pb : Nat) (p : BankPow) (s : State) : State :=
  { s with bank := { s.bank with pow := NMap.set BankPow.off s.bank.pow pb p } }

/-- The logical bank that a physical bank serves. -/
def lbankOf (s : State) (pb : Nat) : Option Nat := (List.range 96).find? fun lb => pbankOf s lb == pb

/-- The logical bank of an access, none where it names a physical bank that serves none. -/
def logicalOf (s : State) (lb : Nat) : Option Nat :=
  if lb < 96 then some lb else if 256 ≤ lb then some (plainBank lb) else lbankOf s (pbankOf s lb)

/-- R60: the LMY_BANK_PREQ slot of a logical bank: TARGET, ZFILL, AUTOWAKE. -/
def preqOf (s : State) (lb : Nat) : Nat := match logicalOf s lb with | some l => regArr s 0x0840 4 l | none => 0

/-- R51: the bank serves accesses: On, with no transition under way, and no power-down waiting for granted beats (R52). -/
def bankOn (s : State) (lb : Nat) : Bool :=
  let p := powOf s (pbankOf s lb)
  p.st == 2 && p.trans.isNone && p.wait.isNone

/-- R55, first case: in a power-up transition, waiting to start one, or holding a request for On. R52: a power-down that
waits for granted beats makes the transfer wait too. -/
def bankWaking (s : State) (lb : Nat) : Bool :=
  let p := powOf s (pbankOf s lb)
  let up : Option PowReq → Bool := fun r => match r with | some q => q.target == 2 | none => false
  up p.trans || up p.wait || up p.held || (p.st == 2 && p.trans.isNone && p.wait.isSome)

/-- R55, second case: in Retention or going there and not on the way to Off, AUTOWAKE 1. -/
def bankAutowake (s : State) (lb : Nat) : Bool :=
  let p := powOf s (pbankOf s lb)
  let goes : Bool := match p.trans with | some q => q.target == 1 | none => p.st == 1
  let off : Option PowReq → Bool := fun r => match r with | some q => q.target == 0 | none => false
  goes && !off p.wait && !off p.held && preqOf s lb ≥ 8

/-- R55, third case: the access completes without the bank. -/
def bankDead (s : State) (lb : Nat) : Bool := !bankOn s lb && !bankWaking s lb && !bankAutowake s lb

/-- R55: count an access to a bank not On and raise cause 40. -/
def deadAccess (lb : Nat) (s : State) : State :=
  (match logicalOf s lb with | some l => bump 0x59B0 1 s |> xbump (640 + l) 1 | none => bump 0x59B0 1 s) |> raise 40

/-! Chunks -/

def chunkKey (pb row c : Nat) : Nat := 2048 * pb + 4 * row + c

/-- The canonical form of memory: addresses strictly rising, no byte 0x00 listed. -/
def Memory.wf (m : List Host.Cell) : Bool := NMap.wf (0 : Byte) m

/-- R38: the initialised bit of a chunk. -/
def chunkInit (s : State) (pb row c : Nat) : Bool :=
  NMap.get false s.bank.zf pb || NMap.get false s.bank.init (chunkKey pb row c)

/-- The 32 stored bytes from an address as one number. -/
def memChunk (m : List Host.Cell) (a : Nat) : Nat :=
  ofBytes ((List.range 32).map (fun i => (NMap.get (0 : Byte) m (a + i)).toNat))

/-- R51: the undefined bytes of a chunk that nothing has stored since its bank was powered up. -/
def freeChunk (epoch a : Nat) : Nat := ofBytes ((List.range 32).map (fun i => (Config.freeByte epoch (a + i)).toNat))

/-- One chunk as the array holds it. -/
def chunkAt (s : State) (pb row c : Nat) : Chunk :=
  let a := 65536 * pb + 128 * row + 32 * c
  let k := chunkKey pb row c
  if chunkInit s pb row c then ⟨BitVec.ofNat 256 (memChunk s.mem a), NMap.get false s.bank.pois k, true, NMap.get [] s.bank.flips k⟩
  else
    let e := NMap.get 0 s.bank.epoch pb
    ⟨BitVec.ofNat 256 (if e = 0 then 0 else freeChunk e a), false, false, NMap.get [] s.bank.flips k⟩

/-- R35: one chunk as an access in array cycle `t` reads it: before any store that is not yet seen in that cycle. -/
def chunkSeen (s : State) (t pb row c : Nat) : Chunk :=
  match s.bank.undo.find? (fun u => u.pbank == pb && u.row == row && decide (t < u.seen)) with
  | some u => listGet (chunkAt s pb row c) u.old c
  | none => chunkAt s pb row c

/-- Store one chunk: data, poison code (R48), initialised bit (R38); the new check bits leave no flipped bit. -/
def storeChunk (pb row c : Nat) (data : BitVec 256) (pois : Bool) (s : State) : State :=
  let k := chunkKey pb row c
  { s with
    mem := NMap.setList (0 : Byte) s.mem (65536 * pb + 128 * row + 32 * c)
      ((bytesOf data.toNat 32).map (fun b => BitVec.ofNat 8 b))
    bank := { s.bank with
      pois := NMap.set false s.bank.pois k pois
      init := NMap.set false s.bank.init k true
      flips := NMap.set [] s.bank.flips k [] } }

/-- The 256 bits of chunk `c` of a row. -/
def rowChunk (d : Row) (c : Nat) : BitVec 256 := BitVec.ofNat 256 (d.toNat >>> (256 * c))

/-- A row from its four chunks. -/
def rowOf (cs : List (BitVec 256)) : Row :=
  BitVec.ofNat 1024 (cs.foldr (fun x acc => x.toNat + 2 ^ 256 * acc) 0)

/-- A mask from four booleans. -/
def maskOf (l : List Bool) : Mask4 := BitVec.ofNat 4 (l.foldr (fun b acc => b2n b + 2 * acc) 0)

/-! Checking and correction (R46 to R48) -/

/-- Toggle the bits found flipped since the last access. -/
def toggleFlips (fl : List Nat) (ups : List Upset) (c : Nat) : List Nat :=
  (ups.filter (fun u => u.chunk.toNat == c && decide (u.pos < 266))).foldl
    (fun acc u => if acc.contains u.pos then acc.filter (· != u.pos) else acc ++ [u.pos]) fl

/-- R46: bits of a row have flipped since its last access; the next access finds them (DESIGN CHOICE, log entry 70). -/
def strikeRow (pb row : Nat) (ups : List Upset) (s : State) : State :=
  if ups = [] then s
  else forEach [0, 1, 2, 3] (fun c s =>
    { s with bank := { s.bank with flips := NMap.upd [] s.bank.flips (chunkKey pb row c) fun fl => toggleFlips fl ups c } }) s

/-- The stored data with its flipped bits. -/
def flipData (d : BitVec 256) (fl : List Nat) : BitVec 256 :=
  fl.foldl (fun acc p => if p < 256 then acc ^^^ BitVec.ofNat 256 (2 ^ p) else acc) d

/-- A chunk as delivered: data, poison mark, class (0 clean, 1 corrected, 2 uncorrectable, 3 poisoned, 4 uninitialised),
corrected bit. -/
structure ChunkRead where
  data : BitVec 256
  pois : Bool
  cls : Nat
  bitpos : Nat
deriving DecidableEq, Repr

/-- R48: the flipped bits are exactly those of the poison code. -/
def isPoisonFlips (fl : List Nat) : Bool :=
  let a := 256 + Config.poisonBits.1.val
  let b := 256 + (if Config.poisonBits.2.val < Config.poisonBits.1.val then Config.poisonBits.2.val else Config.poisonBits.2.val + 1)
  fl.length == 2 && fl.contains a && fl.contains b

/-- R46 to R48: the class and data of a chunk; `n` is the free value that decides the cases R46 leaves open. -/
def classify (ch : Chunk) (n : Nat) : ChunkRead :=
  let raw := flipData ch.data ch.flips
  if !ch.init then ⟨raw, true, 4, 0⟩
  else if ch.flips = [] then ⟨ch.data, ch.pois, if ch.pois then 3 else 0, 0⟩
  else if !ch.pois && ch.flips.length == 1 then ⟨ch.data, false, 1, listGet 0 ch.flips 0⟩
  else if !ch.pois && ch.flips.length == 2 then ⟨raw, true, if isPoisonFlips ch.flips then 3 else 2, 0⟩
  else
    match (Config.eccClass n).toNat with
    | 0 => ⟨raw, false, 0, 0⟩
    | 1 => ⟨Config.eccData n, false, 1, (Config.eccData (n + 1)).toNat % 266⟩
    | 2 => ⟨raw, true, 2, 0⟩
    | _ => ⟨raw, true, 3, 0⟩

/-- R46: whether the class of a chunk is left open. -/
def classOpen (ch : Chunk) : Bool :=
  ch.init && (decide (3 ≤ ch.flips.length) || (ch.pois && ch.flips.length != 0))

/-- A row as read: data, poison marks, corrected chunks. -/
structure RowRead where
  data : Row
  pois : Mask4
  corr : Mask4
deriving DecidableEq, Repr

/-- R519: a generated row: zero bytes, all four chunks poisoned. -/
def RowRead.dead : RowRead := ⟨0, 0xF, 0⟩

/-- Who reads, for the logs (R59): port, SRC, CLIENT; the forwarding copy of a bank sets no pending bit (R462). -/
structure Reader where
  port : Bool
  src : Nat
  client : Nat
  copy : Bool
deriving DecidableEq, Repr

/-- R59: the error log words of a chunk. -/
def eccLog (o lb pb row c bitpos : Nat) (r : Reader) (s : State) : State :=
  fillLog o (fld c 2 + fld row 4 + fld lb 13 + fld pb 20 + fld (b2n r.port) 27) (bitpos + fld r.src 10 + fld r.client 16) s

/-- R50: a store of this or a later array cycle than `t` has changed the chunk, so that its slot is empty. -/
def overtaken (s : State) (t pb row c : Nat) : Bool :=
  s.bank.undo.any fun u => u.pbank == pb && u.row == row && bit u.en c && decide (t < u.seen)

/-- R47, R50, R62: account for one chunk read from a logical bank in array cycle `t`. The write-back slot belongs to the physical bank
that the map names (R468). -/
def accountChunk (t lb pb row c : Nat) (r : Reader) (x : ChunkRead) (s : State) : State :=
  match x.cls with
  | 1 =>
    let s := bump 0x5988 1 s |> xbump lb 1 |> eccLog 0x0810 lb pb row c x.bitpos r
    let s := if r.copy then s else fwdCorrected lb 1 s
    if regB s 0x0800 0 && decide (lb < 96) && pbankOf s lb == pb && !overtaken s t pb row c then
      match NMap.get none s.bank.wb lb with
      | none => { s with bank := { s.bank with wb := NMap.set none s.bank.wb lb (some ⟨row, c, x.data, t⟩) } }
      | some w => if w.row == row && w.chunk == c then s else bump 0x59A8 1 s |> xbump (512 + lb) 1
    else s
  | 2 =>
    let s := bump 0x5990 1 s |> xbump (128 + lb) 1 |> eccLog 0x0818 lb pb row c 0 r |> raise 8
    if lb < 96 then fwdUncorrected r.copy lb s else s
  | 3 => bump 0x5998 1 s |> xbump (256 + lb) 1
  | 4 => bump 0x59A0 1 s |> xbump (384 + lb) 1
  | _ => s

/-- Read one chunk of a row in array cycle `t`, with the bits found flipped. -/
def readChunk (t lb pb row : Nat) (r : Reader) (ups : List Upset) (c : Nat) (s : State) : ChunkRead × State :=
  let ch := chunkSeen s t pb row c
  let fl := toggleFlips ch.flips ups c
  let s := if ups = [] then s
    else { s with bank := { s.bank with flips := NMap.set [] s.bank.flips (chunkKey pb row c)
                                         (toggleFlips (NMap.get [] s.bank.flips (chunkKey pb row c)) ups c) } }
  let ch := { ch with flips := fl }
  let x := classify ch s.free
  let s := if classOpen ch then { s with free := s.free + 2 } else s
  (x, accountChunk t lb pb row c r x s)

/-- R33, R38, R46 to R50: read a row of physical bank `pb` in array cycle `t`; `lb` is the logical bank it serves, 127 where it
serves none. -/
def readRowAt (t lb pb row : Nat) (r : Reader) (ups : List Upset) (s : State) : RowRead × State :=
  let x0 := readChunk t lb pb row r ups 0 s
  let x1 := readChunk t lb pb row r ups 1 x0.2
  let x2 := readChunk t lb pb row r ups 2 x1.2
  let x3 := readChunk t lb pb row r ups 3 x2.2
  (⟨rowOf [x0.1.data, x1.1.data, x2.1.data, x3.1.data], maskOf [x0.1.pois, x1.1.pois, x2.1.pois, x3.1.pois],
    maskOf [x0.1.cls == 1, x1.1.cls == 1, x2.1.cls == 1, x3.1.cls == 1]⟩,
   estimate 0 1 x3.2 |> estimate 2 1)

/-- Read a row of a bank in array cycle `t`; one named by its physical number may serve no logical bank. -/
def readRow (t lb row : Nat) (r : Reader) (ups : List Upset) (s : State) : RowRead × State :=
  match logicalOf s lb with
  | some l => readRowAt t l (pbankOf s lb) row r ups s
  | none => readRowAt t 127 (pbankOf s lb) row { r with copy := true } ups s

/-! Stores -/

/-- Store the enabled chunks of a row in a physical bank. -/
def storeChunks (pb row en : Nat) (data : Row) (pois : Mask4) (s : State) : State :=
  forEach [0, 1, 2, 3] (fun c => when (bit en c) (storeChunk pb row c (rowChunk data c) (bit pois.toNat c))) s

/-- R50: a store into the chunk of the write-back slot empties the slot. -/
def dropWb (lb row en : Nat) (s : State) : State :=
  match NMap.get none s.bank.wb lb with
  | some w => if w.row == row && bit en w.chunk then { s with bank := { s.bank with wb := NMap.set none s.bank.wb lb none } } else s
  | none => s

/-- R467, R468: rows of a migrating bank whose stores produce dual writes; after the switch, those of the beats it left behind. -/
def isCopied (s : State) (lb row : Nat) : Bool :=
  match s.fw.mig with
  | some m => (if m.phase < 4 then m.lb == lb else decide (256 ≤ lb) && m.lb == plainBank lb) && decide (row < m.cp) && decide (2 ≤ m.phase)
  | none => false

/-- R467: queue the dual write of a store, with the chunks as the source stored them. -/
def dualWrite (lb pb row en cls wt : Nat) (s : State) : State :=
  if isCopied s lb row && en ≠ 0 then
    match s.fw.mig with
    | some m =>
      { s with fw := { s.fw with mig := some { m with dual := m.dual ++ [⟨row, en, [0, 1, 2, 3].map (chunkAt s pb row), cls, wt⟩] } } }
    | none => s
  else s

/-- R37, R48, R50, R467: a store of the enabled chunks into a row of a logical bank. -/
def storeRow (lb row en : Nat) (data : Row) (pois : Mask4) (cls wt : Nat) (s : State) : State :=
  let pb := pbankOf s lb
  storeChunks pb row en data pois s |> dropWb ((logicalOf s lb).getD lb) row en |> dualWrite lb pb row en cls wt |> estimate 1 1 |> estimate 2 1

/-- R35: keep what a row held before a store in array cycle `t`, first seen from cycle `seen`. -/
def keepUndo (t seen pb row en : Nat) (port : Bool) (s : State) : State :=
  { s with bank := { s.bank with undo := s.bank.undo ++ [⟨pb, row, seen, [0, 1, 2, 3].map (chunkAt s pb row), port, en, t⟩] } }

/-- R35: the store of the other port into the same row in the same array cycle: its chunk enables. -/
def otherStore (s : State) (t pb row : Nat) (port : Bool) : Option Nat :=
  match s.bank.undo.find? (fun u => u.pbank == pb && u.row == row && u.cyc == t && u.port != port) with
  | some u => some u.en
  | none => none

/-- R35 to R37: a port's write beat in array cycle `t`: port A's chunks win, a collision is counted. -/
def portStore (t lb row en : Nat) (port : Bool) (data : Row) (pois : Mask4) (cls wt : Nat) (s : State) : State :=
  let pb := pbankOf s lb
  let o := (otherStore s t pb row port).getD 0
  let eff := if port then en &&& (15 - o) else en
  let s := if en &&& o ≠ 0 then bump 0x59B8 1 s |> when (decide (plainBank lb < 96)) (xbump (768 + plainBank lb) 1) else s
  keepUndo t (t + 1) pb row en port s |> storeRow lb row eff data pois cls wt

/-- Forget what a physical bank holds. `epoch` 0: every byte is 0x00; else its bytes are the free values of that epoch. -/
def clearBank (pb epoch : Nat) (zf : Bool) (s : State) : State :=
  let keep2048 : NMap Bool → NMap Bool := fun m => m.filter (fun e => e.1 / 2048 != pb)
  { s with
    mem := s.mem.filter (fun e => e.1 / 65536 != pb)
    bank := { s.bank with
      pois := keep2048 s.bank.pois
      init := keep2048 s.bank.init
      flips := s.bank.flips.filter (fun e => e.1 / 2048 != pb)
      zf := NMap.set false s.bank.zf pb zf
      epoch := NMap.set 0 s.bank.epoch pb epoch } }

/-- R51: after Off to On without zero-fill the bytes are undefined and the initialised map is clear. -/
def eraseBank (pb : Nat) (s : State) : State :=
  let d := drawFree s
  clearBank pb (d.1 + 1) false d.2

/-- R51: zero-fill: every byte 0x00 with valid check bits, every chunk initialised. -/
def zeroBank (pb : Nat) (s : State) : State := clearBank pb 0 true s

/-- R407: a purge: every byte 0x00 with valid check bits, the initialised map clear. -/
def purgeBank (pb : Nat) (s : State) : State := clearBank pb 0 false s

end Sys2Proof.Machine
end

