-- ==== Sys2Proof/Machine/Views.lean ====
section
/-!
DEFINITION. Machine/Views.lean: view addresses, partitions, hash sets, reserved areas, and the checks of every row of an
access (R63 to R80).
-/
namespace Sys2Proof.Machine

/-! View addresses (R65) -/

def vaOff (v : Nat) : Nat := bits v 22 0
def vaSel (v : Nat) : Nat := bits v 27 24
def vaView (v : Nat) : Nat := bits v 30 28

/-- R79, check 1: VIEW, SEL and reserved bits are valid. -/
def vaOk (v : Nat) : Bool :=
  !bit v 23 && !bit v 31 && decide (vaView v < 4) &&
    (match vaView v with
     | 0 => vaSel v == 0
     | 1 => true
     | 2 => vaSel v == 0
     | _ => decide (vaSel v < 3))

/-! Partitions (R68, R70) -/

/-- Bit of LMY_PART_MASK: the logical bank is in the context's partition. -/
def inPart (s : State) (ctx lb : Nat) : Bool := decide (lb < 96) && regB s (0x1000 + 4 * (3 * ctx + lb / 32)) (lb % 32)

/-- The banks of a partition in ascending order. -/
def partBanks (s : State) (ctx : Nat) : List Nat := (List.range 96).filter (inPart s ctx)

/-! Reserved areas (R76 to R78) -/

/-- A carve-table entry: KIND, LBANK, FIRSTROW, NROWS. -/
def carveEnt (s : State) (n : Nat) : Nat × Nat × Nat × Nat :=
  let o := 0x1200 + 4 * n
  (regF s o 1 0, regF s o 10 4, regF s o 20 12, regF s o 30 21)

/-- R77: a carved row. -/
def isReserved (s : State) (lb row : Nat) : Bool :=
  (List.range 48).any fun n =>
    let e := carveEnt s n
    e.1 != 0 && e.2.1 == lb && decide (e.2.2.1 ≤ row) && decide (row < e.2.2.1 + e.2.2.2)

/-- R78: area row `i` of a kind, entries in carve-table order. -/
def areaFind (i : Nat) : List (Nat × Nat × Nat) → Option (Nat × Nat)
  | [] => none
  | (lb, first, n) :: es => if i < n then some (lb, first + i) else areaFind (i - n) es

/-- The carve entries of a kind, in table order: bank, first row, rows. -/
def carveOf (s : State) (kind : Nat) : List (Nat × Nat × Nat) :=
  ((List.range 48).map (carveEnt s)).filterMap fun e => if e.1 = kind then some e.2 else none

/-- R78: the bank and row of area row `i` (kind 1 holding, 2 pigeonholes, 3 trace). -/
def areaRow (s : State) (kind i : Nat) : Option (Nat × Nat) := areaFind i (carveOf s kind)

/-! Hash sets (R72) -/

def hashMask (seed j : Nat) : Nat := bits seed (9 * j + 8) (9 * j)

/-- R72: the slot of linear row `lrow` among 2^k banks. -/
def hashSlot (seed k lrow : Nat) : Nat :=
  let q := lrow >>> k
  (List.range k).foldl (fun slot j => slot ^^^ (b2n (parity64 (q &&& hashMask seed j)) <<< j)) (lrow % 2 ^ k)

/-- R72: the bank and row of a hashed-view row, none where it is an address error. -/
def hashRow (s : State) (set lrow : Nat) : Option (Nat × Nat) :=
  let o := 0x1100 + 16 * set
  let k := regF s o 10 8
  if !regB s o 31 || lrow ≥ 2 ^ k * regF s (o + 4) 9 0 then none
  else
    let seed := (reg s (o + 8)).toNat + 2 ^ 32 * (reg s (o + 12)).toNat
    some (regF s o 6 0 + hashSlot seed k lrow, regF s o 24 16 + (lrow >>> k))

/-! Translation and checks (R66, R79) -/

/-- A row of an access: where it goes, or the kind of fault of its first failing check. -/
inductive Row79 where
  | at_ (lb row byte : Nat)
  | bad (kind : Nat)
deriving DecidableEq, Repr

/-- R79, check 3: translation of an OFFSET within range. -/
def translate (s : State) (ctx v off : Nat) : Option (Nat × Nat) :=
  let row := bits off 15 7
  match vaView v with
  | 0 => if off / 65536 < 96 then some (off / 65536, row) else none
  | 1 => hashRow s (vaSel v) (off / 128)
  | 2 =>
    let bs := partBanks s ctx
    if off / 65536 < bs.length then some (listGet 0 bs (off / 65536), row) else none
  | _ => areaRow s (vaSel v + 1) (off / 128)

/-- R66, R79: checks 2 to 6 of one row: `off` is the computed OFFSET, `store` a write or atomic. -/
def checkRow (s : State) (ctx v : Nat) (off : Int) (store : Bool) : Row79 :=
  if off < 0 || off ≥ 2 ^ 23 then .bad 0
  else
    let o := off.toNat
    match translate s ctx v o with
    | none => .bad 0
    | some (lb, row) =>
      if vaView v = 3 then
        if ctx ≠ 0 || store then .bad 3 else .at_ lb row (o % 128)
      else if !inPart s ctx lb then .bad 1
      else if isReserved s lb row then .bad 2
      else .at_ lb row (o % 128)

/-- R80: count and log a faulting row. `q`: queue when the row is a slip's. -/
def faultRow (kind ctx client v : Nat) (off : Int) (store : Bool) (q : Option Nat) (s : State) : State :=
  let qf := match q with | some n => fld n 16 + fld 1 22 | none => 0
  (if kind = 0 then bump (0x5780 + 0x40 * (ctx % 8)) 1 s else bump (0x5788 + 0x40 * (ctx % 8)) 1 s)
    |> fillLog 0x1300 (fld kind 2 + fld ctx 4 + fld client 8 + fld (vaView v) 12 + fld (b2n store) 15 + qf)
        ((off % 2 ^ 23).toNat + fld (vaSel v) 23)

/-- R80: the event cause of a fault kind. -/
def faultCause (kind : Nat) : Nat := if kind = 0 then 57 else 56

/-! Ownership (R23, R24) and classes are in Arbitration. -/

end Sys2Proof.Machine
end

