-- ==== Sys2Proof/Machine/Bus.lean ====
section
/-!
DEFINITION. Machine/Bus.lean: the service bus: who may reach which register (R384 to R388, R496, R498), refusals, responses
(R367, R369, R386, R487), and the bindings that decide a register's context.
-/
namespace Sys2Proof.Machine

/-! Bindings (R107, R255, R268, R300) -/

/-- Slot of a read lane: CTX in [2:0], EN in [3]. -/
def rlBind (s : State) (lane : Nat) : Nat := regArr s 0x1840 4 lane
def wlBind (s : State) (lane : Nat) : Nat := regArr s 0x1870 4 lane
def tlyBind (s : State) (t : Nat) : Nat := regArr s 0x3080 4 t
def bktBind (s : State) (b : Nat) : Nat := regArr s 0x3820 4 b
/-- The context of a queue. -/
def sqCtx (s : State) (q : Nat) : Nat := regF s (0x3100 + 16 * q) 2 0
def sqEn (s : State) (q : Nat) : Bool := regB s (0x3100 + 16 * q) 3
def sqFetch (s : State) (q : Nat) : Bool := regB s (0x3100 + 16 * q) 4
/-- The context of a virtual channel. -/
def vcCtx (s : State) (v : Nat) : Nat := regF s (0x3840 + 4 * v) 3 1
def vcEn (s : State) (v : Nat) : Bool := regB s (0x3840 + 4 * v) 0
/-- The binding slot of a seal session's lane (R402, R511). -/
def sealBind (s : State) (l : Nat) : Nat := if l < 2 then rlBind s (60 + l) else wlBind s (38 + l)

/-! Privilege codes (R496) -/

/-- Who may reach a register. -/
inductive Code where
  | all                        -- A
  | allParty                   -- A*
  | sup                        -- C0, G
  | ctx (c : Nat) (wr : Bool)  -- X and B (wr true), Xr and Br (wr false)
  | shared                     -- T
  | banked                     -- K, and registers whose item a written field names (R498)
  | party                      -- R
  | sp (p : Nat)               -- SP of one party (2 S, 3 P)
  | spAny                      -- SP, S or P
  | unit (u : Nat)             -- W
  | named (u : Nat)            -- W of LMY_WU_RDADDR: reads as for the unit it names, writes as for the unit written (R454)
deriving DecidableEq, Repr

/-- R453: the context a watch unit is delegated to, with its EN. -/
def watchOwn (s : State) (u : Nat) : Nat := regArr s 0x6B00 4 u

/-- R385, R496: the access is permitted; `ro`: the register's access type is RO. -/
def permits (s : State) (a : BusAcc) (wr ro : Bool) (c : Code) : Bool :=
  if a.init.toNat < 2 then
    let p := a.priv.toNat
    match c with
    | .all => !wr || ro || p == 0
    | .allParty => !wr || ro || p == 0
    | .sup => p == 0
    | .ctx k w => p == 0 || (p == k && (!wr || w || ro))
    | .shared => !wr || ro
    | .banked => true
    | .party => p == 0
    | .sp _ => false
    | .spAny => false
    | .unit u => p == 0 || watchOwn s u == 8 + p
    | .named u => wr || p == 0 || watchOwn s u == 8 + p
  else
    match c with
    | .allParty => !wr
    | .party => !wr
    | .sp n => wr && a.init.toNat == n
    | .spAny => wr
    | _ => false

/-- R419: the code of an always-on counter by the offset of its low word; none: no counter. -/
def cntCode (s : State) (b : Nat) : Option Code :=
  if b % 8 ≠ 0 ∨ b < 0x5000 then none
  else if b < 0x5600 then (if (b % 0x80) / 8 < 14 then some .sup else none)
  else if b < 0x5780 then some .sup
  else if b < 0x5980 then some (.ctx ((b - 0x5780) / 0x40) true)
  else if b < 0x5A70 then some .sup
  else if 0x5A80 ≤ b ∧ b < 0x5C80 ∧ (b - 0x5A80) % 0x20 < 0x18 then some (.ctx (vcCtx s ((b - 0x5A80) / 0x20)) true)
  else none

/-- R499 to R517: the privilege code of the register at an offset and whether it is RO; none: no register (R13). -/
def regInfo (s : State) (o : Nat) : Option (Code × Bool) :=
  let arr (lo n stride : Nat) : Bool := decide (lo ≤ o) && decide (o < lo + n * stride) && (o - lo) % stride == 0
  let isIn (l : List Nat) : Bool := l.contains o
  if o % 4 ≠ 0 then none
  else if o < 0x0800 then
    if isIn [0, 4] then some (.allParty, true) else if o = 8 then some (.all, true) else none
  else if o < 0x1000 then
    if isIn [0x0800, 0x0810, 0x0818] || arr 0x0840 12 4 || arr 0x08C0 3 4 then some (.sup, false)
    else if isIn [0x0804, 0x0814, 0x081C, 0x08D0] || arr 0x0880 12 4 then some (.sup, true)
    else none
  else if o < 0x1800 then
    if arr 0x1000 24 4 then some (.shared, true)
    else if arr 0x1100 64 4 then some (.all, true)
    else if arr 0x1200 50 4 || o = 0x1304 then some (.sup, true)
    else if o = 0x1300 then some (.sup, false)
    else none
  else if o < 0x2000 then
    if arr 0x1800 4 4 then some (.all, true)
    else if isIn [0x1810, 0x1818] then some (.sup, false)
    else if o = 0x1814 || arr 0x1840 9 4 || arr 0x1870 6 4 || arr 0x18C0 17 4 then some (.sup, true)
    else if arr 0x1A00 8 4 then some (.ctx ((o - 0x1A00) / 4) true, false)
    else if arr 0x1A40 16 4 then some (.ctx ((o - 0x1A40) / 8) false, false)
    else none
  else if o < 0x2800 then
    if arr 0x2000 3 4 then some (.all, true)
    else if arr 0x2010 2 4 then some (.sup, true)
    else if arr 0x2040 8 4 then some (.ctx ((o - 0x2040) / 4) true, false)
    else if o = 0x2400 then some (.all, true)
    else if o = 0x2404 then some (.sup, false)
    else if o = 0x2408 then some (.sup, true)
    else if arr 0x2410 8 4 then some (.ctx ((o - 0x2410) / 4) false, true)
    else if arr 0x2430 8 4 then some (.ctx ((o - 0x2430) / 4) false, true)
    else if o = 0x2450 then some (.banked, false)
    else if arr 0x2500 64 4 then some (.sup, true)
    else none
  else if o < 0x3000 then
    if isIn [0x2800, 0x2820] || arr 0x2810 3 4 || arr 0x2830 4 4 || arr 0x2840 16 4 || arr 0x2880 3 4 || arr 0x2890 2 4 then
      some (.all, true)
    else if isIn [0x2804, 0x28A4] || arr 0x28C0 6 4 then some (.sup, true)
    else if isIn [0x28A0, 0x28E0] then some (.sup, false)
    else if arr 0x2900 16 4 then some (.shared, true)
    else none
  else if o < 0x3800 then
    if o = 0x3000 then some (.all, true)
    else if o = 0x3004 then some (.all, false)
    else if o = 0x3008 then some (.sup, false)
    else if o = 0x300C || arr 0x3020 2 4 then some (.sup, true)
    else if isIn [0x3010, 0x3014] then some (.banked, false)
    else if arr 0x3040 8 4 then some (.ctx ((o - 0x3040) / 4) true, false)
    else if arr 0x3080 8 4 then some (.all, true)
    else if arr 0x3100 64 16 then some (.ctx (sqCtx s ((o - 0x3100) / 16)) false, true)
    else if arr 0x3104 64 16 then some (.ctx (sqCtx s ((o - 0x3104) / 16)) true, true)
    else if arr 0x3108 64 16 || arr 0x310C 64 16 then some (.ctx (sqCtx s ((o - 0x3100) / 16)) true, false)
    else if arr 0x3500 128 4 then some (.ctx (sqCtx s ((o - 0x3500) / 8)) true, false)
    else if arr 0x3700 64 4 then some (.ctx (tlyBind s ((o - 0x3700) / 4) % 8) true, false)
    else none
  else if o < 0x4000 then
    if o = 0x3800 then some (.all, true)
    else if o = 0x3804 || o = 0x381C || arr 0x3820 8 4 then some (.sup, true)
    else if isIn [0x3808, 0x380C, 0x3810, 0x3814] then some (.banked, false)
    else if o = 0x3818 then some (.sup, false)
    else if arr 0x3840 16 4 then some (.ctx (vcCtx s ((o - 0x3840) / 4)) false, true)
    else if arr 0x3880 16 4 then some (.ctx (vcCtx s ((o - 0x3880) / 4)) false, true)
    else if arr 0x38C0 32 4 then some (.ctx (vcCtx s ((o - 0x38C0) / 8)) false, true)
    else if arr 0x3940 64 4 then some (.ctx (bktBind s ((o - 0x3940) / 4) % 8) true, true)
    else if arr 0x3B00 128 4 then some (.ctx (bktBind s ((o - 0x3B00) / 8) % 8) true, true)
    else if arr 0x3D00 8 16 then some (.all, false)
    else if arr 0x3D04 8 16 then some (.sup, false)
    else if arr 0x3D08 8 16 || arr 0x3D0C 8 16 then
      some (.ctx (regF s (0x3D00 + 16 * ((o - 0x3D00) / 16)) 10 8) false, true)
    else if arr 0x3E00 64 4 then some (.all, false)
    else none
  else if o < 0x4400 then
    if o = 0x4000 || arr 0x4020 16 4 then some (.all, true)
    else if o = 0x4004 || o = 0x40A0 then some (.sup, false)
    else if isIn [0x4008, 0x400C] then some (.all, false)
    else if arr 0x4010 4 4 || arr 0x4060 10 4 || arr 0x40A4 3 4 then some (.sup, true)
    else none
  else if o < 0x4800 then
    if isIn [0x4400, 0x4420, 0x4440] then some (.all, true)
    else if isIn [0x4404, 0x440C] then some (.sup, false)
    else if o = 0x4408 || arr 0x4410 3 4 || arr 0x4424 7 4 || o = 0x4444 then some (.sup, true)
    else none
  else if o < 0x5000 then
    if isIn [0x4800, 0x4818] then some (.allParty, true)
    else if isIn [0x4814, 0x4B04] then some (.allParty, false)
    else if isIn [0x4804, 0x4810] then some (.sup, false)
    else if isIn [0x4808, 0x481C, 0x4B08] then some (.sup, true)
    else if isIn [0x4820, 0x4824] then some (.sp 2, false)
    else if isIn [0x4828, 0x482C] then some (.sp 3, false)
    else if arr 0x4880 32 4 then some (.ctx (sealBind s ((o - 0x4880) / 32) % 8) true, decide (o < 0x48C0) && decide (8 ≤ (o - 0x4880) % 32))
    else if o = 0x4900 then some (.party, true)
    else if arr 0x4904 87 4 then some (.party, false)
    else if o = 0x4B00 then some (.spAny, false)
    else none
  else if o < 0x6000 then
    if o = 0x5F00 then some (.all, false)
    else if o = 0x5F04 then some (.banked, false)
    else if isIn [0x5F08, 0x5F0C] then some (.banked, true)
    else (cntCode s (o / 8 * 8)).map (fun c => (c, true))
  else if o < 0x6800 then
    if arr 0x6000 6 4 || isIn [0x601C, 0x6048] then some (.sup, false)
    else if isIn [0x6018, 0x6020, 0x6024, 0x6028] then some (.sup, true)
    else if isIn [0x6040, 0x6044, 0x6050] then some (.all, true)
    else if o = 0x604C then some (.all, false)
    else none
  else if o < 0x7000 then
    if isIn [0x6800, 0x6804, 0x6810, 0x6814, 0x6818, 0x6820, 0x6824, 0x6900, 0x6904, 0x6908, 0x6910, 0x6B00] then some (.sup, false)
    else if o = 0x6808 then some (.all, true)
    else if isIn [0x680C, 0x681C, 0x690C] || arr 0x6880 32 4 then some (.sup, true)
    else if decide (0x6A00 ≤ o) && decide (o < 0x6B00) && decide ((o - 0x6A00) % 64 < 0x28) then
      some (.unit ((o - 0x6A00) / 64), decide (0x20 ≤ (o - 0x6A00) % 64))
    else if o = 0x6B10 then some (.named (regF s 0x6B10 1 0), false)
    else if o = 0x6B14 then some (.unit (regF s 0x6B10 1 0), false)
    else if arr 0x6B80 32 4 then some (.unit (regF s 0x6B10 1 0), true)
    else none
  else if o < 0x8000 then
    if arr 0x7000 7 4 || isIn [0x7040, 0x7044, 0x7048, 0x704C] then some (.sup, false)
    else if o = 0x7050 then some (.all, true)
    else if arr 0x701C 2 4 || arr 0x7054 6 4 || arr 0x7070 5 4 || arr 0x7090 4 4 || arr 0x7100 24 4 then some (.sup, true)
    else none
  else if o < 0xC000 then
    if arr 0x8000 3 4 || arr 0x8020 8 4 || arr 0xA000 3 4 || arr 0xA020 2 4 || o = 0xA060 then some (.sup, false)
    else if arr 0x8040 8 4 || arr 0xA040 2 4 || o = 0xA064 || arr 0xA080 16 4 then some (.sup, true)
    else none
  else if (o - 0xC000) % 256 < 64 then some (.ctx (sqCtx s ((o - 0xC000) / 256)) true, false)
  else none

/-! Responses (R386, R487) -/

/-- The response of an access: read data and bus error. -/
def respond (d : Word) (err : Bool) (s : State) : State := { s with bus := { s.bus with rdata := d, err := err } }

/-- R386: a refused access: bus error, counted, logged, cause 58 when the log was empty. -/
def refuse (a : BusAcc) (wr : Bool) (o : Nat) (s : State) : State :=
  let p := if a.init.toNat < 2 then a.priv.toNat else 0
  let first := !regB s 0x4804 0
  let s := (if a.init.toNat < 2 then bump (0x57B8 + 0x40 * (p % 8)) 1 s else bump 0x5980 1 s)
    |> fillLog 0x4804 (fld a.init.toNat 2 + fld p 4 + fld (b2n wr) 7) o
  let s := if first then raise 58 s else s
  respond 0 true s

/-- R259: an access marked lmy_sb_dma reaches only words 0 to 15 of the window of a queue with an outstanding fetch order. -/
def dmaOk (s : State) (a : BusAcc) (o : Nat) : Bool :=
  !a.dma || (decide (0xC000 ≤ o) && decide ((o - 0xC000) % 256 < 64) && (NMap.get SlipQ.empty s.sq.q ((o - 0xC000) / 256)).ford)

/-- R385: an offset no register occupies refuses parties S and P; else R13. -/
def accessOk (s : State) (a : BusAcc) (wr : Bool) (o : Nat) : Bool :=
  dmaOk s a o && match regInfo s o with
  | some (c, ro) => permits s a wr ro c
  | none => decide (a.init.toNat < 2)

/-- R11, R487: an access of another width, or off a word boundary. -/
def busMisfit (a : BusAcc) (o : Nat) : Bool := a.size != 2 || o % 4 != 0

/-- R369: writes that act before the Waybill is LOADED. -/
def earlyWrite (o : Nat) : Bool := o == 0x440C || o == 0x4404 || o == 0x4B00

/-- One service-bus write: the checks in order, then its effect (R11, R367, R369, R386, R479). -/
def busWrite (a : BusAcc) (o : Nat) (act : State → State) (s : State) : State :=
  if s.ck.por then s
  else if busMisfit a o then respond 0 true s
  else if inReset s then respond 0 false s
  else if !accessOk s a true o then refuse a true o s
  else if wbState s ≠ 3 ∧ !earlyWrite o then respond 0 false s
  else respond 0 false (act s)

/-- One service-bus read: the checks in order, then the value and what reading it does (R11, R367, R386, R479). -/
def busRead (a : BusAcc) (o : Nat) (act : State → Word × State) (s : State) : State :=
  if s.ck.por then s
  else if busMisfit a o then respond 0 true s
  else if inReset s && o != 0x4408 && o != 0x4420 then respond 0 false s
  else if !accessOk s a false o then refuse a false o s
  else
    let r := act s
    respond r.1 false r.2

/-- R386, R498: a write whose item, named by the value written, is not the writer's is refused. -/
def busWriteFor (a : BusAcc) (o : Nat) (mine : State → Bool) (act : State → State) (s : State) : State :=
  if s.ck.por || busMisfit a o || inReset s || !accessOk s a true o || mine s then busWrite a o act s else refuse a true o s

/-- The privilege level of an access (R384). -/
def lvl (a : BusAcc) : Nat := a.priv.toNat

end Sys2Proof.Machine
end

