-- ==== Sys2Proof/Machine/Power.lean ====
section
/-!
DEFINITION. Machine/Power.lean: power of banks (R51 to R60) and of domains 100 to 131 (R334 to R339), and the commands that
request, start and end their transitions.
-/
namespace Sys2Proof.Machine

/-! One bank or domain -/

/-- R54: the state the bank will have when what is under way ends. -/
def BankPow.ending (p : BankPow) : Nat :=
  match p.trans, p.wait with
  | some q, _ => q.target
  | none, some q => q.target
  | none, none => p.st

/-- R54: whether a request is refused: TARGET 0b11, or Retention of a bank that is Off or will be. -/
def BankPow.refuses (p : BankPow) (target : Nat) : Bool :=
  decide (2 < target) || (target == 1 && p.ending == 0)

/-- R54, R337: a request that is not refused: held during a transition or a wait, without effect at its own state, else
waiting to start. -/
def BankPow.request (p : BankPow) (r : PowReq) : BankPow :=
  if p.trans.isSome || p.wait.isSome then { p with held := some r }
  else if r.target == p.st then p
  else { p with wait := some r }

/-- R51: the transition that was waiting begins. -/
def BankPow.start (p : BankPow) (r : PowReq) : BankPow := { p with trans := some r, wait := none }

/-- R51, R54: a transition ends; the held request is applied from the state it reached, dropped where R54 refuses it. -/
def BankPow.finish (p : BankPow) (r : PowReq) : BankPow :=
  let q : BankPow := ⟨r.target, none, none, none⟩
  match p.held with
  | some h => if q.refuses h.target then q else q.request h
  | none => q

/-! Banks -/

/-- R52: a granted beat of a transfer is still to be performed at the physical bank. -/
def beatsAt (s : State) (pb : Nat) : Bool :=
  s.fr.trs.any fun t => t.granted && t.beats.any fun b => b.bad == 0 && !b.done && pbankOf s b.bank == pb

/-- R54: refuse a bank power request: PERR and cause 41. -/
def refusePower (lb : Nat) (s : State) : State := orReg (0x08C0 + 4 * (lb / 32 % 3)) (2 ^ (lb % 32)) s |> raise 41

/-- R469: a power request for a logical bank under migration reaches its spare too. -/
def requestSpare (lb : Nat) (r : PowReq) (s : State) : State :=
  match s.fw.mig with
  | some m => if m.lb = lb ∧ m.phase < 4 ∧ !(powOf s m.pb).refuses r.target then setPow m.pb ((powOf s m.pb).request ⟨r.target, false⟩) s else s
  | none => s

/-- R54, R60: a power request for a logical bank. -/
def requestBank (lb target : Nat) (zfill : Bool) (s : State) : State :=
  let pb := pbankOf s lb
  if (powOf s pb).refuses target then refusePower lb s
  else setPow pb ((powOf s pb).request ⟨target, zfill⟩) s |> requestSpare lb ⟨target, zfill⟩

/-- R55: an access wakes a bank in Retention once any transition under way has ended. -/
def autowake (lb : Nat) (s : State) : State :=
  if bankAutowake s lb then setPow (pbankOf s lb) ((powOf s (pbankOf s lb)).request ⟨2, false⟩) s |> requestSpare lb ⟨2, false⟩ else s

/-- R53: MAXUP in force; a purge wakes banks 8 at a time. -/
def maxUp (s : State) : Nat :=
  let m := regF s 0x0800 7 4
  if purging s || m = 0 || m > 8 then 8 else m

/-- The bank is in a power-up transition. -/
def poweringUp (p : BankPow) : Bool := match p.trans with | some q => q.target == 2 | none => false

/-- The bank waits to start a power-up. -/
def waitingUp (p : BankPow) : Bool := match p.wait with | some q => q.target == 2 | none => false

/-- The place of a physical bank in the order of R53: its logical number; banks that serve none come last (DESIGN CHOICE,
log entry 12). -/
def wakeOrder (s : State) (pb : Nat) : Nat := (lbankOf s pb).getD (96 + pb)

/-- R53: a waiting power-up may start: fewer than MAXUP run, and no earlier bank waits. -/
def mayWake (s : State) (pb : Nat) : Bool :=
  waitingUp (powOf s pb)
    && decide (ncount ((List.range 100).map fun b => poweringUp (powOf s b)) < maxUp s)
    && (List.range 100).all fun b => !waitingUp (powOf s b) || decide (wakeOrder s pb ≤ wakeOrder s b)

/-- R60: ZFILL as it stands now for the bank behind a physical bank. -/
def zfillOf (s : State) (pb : Nat) (r : PowReq) : Bool :=
  match lbankOf s pb with
  | some lb => bit (preqOf s lb) 2
  | none => r.zfill

/-- A write-back slot's chunk is stored (R50), with its dual write (R467). -/
def storeWb (lb : Nat) (s : State) : State :=
  match NMap.get none s.bank.wb lb with
  | some w =>
    storeRow lb w.row (2 ^ w.chunk) (BitVec.ofNat 1024 (w.data.toNat <<< (256 * w.chunk))) 0 7 0
      { s with bank := { s.bank with wb := NMap.set none s.bank.wb lb none } }
  | none => s

/-- R51: the contents after a transition from state `from_` to the target. -/
def powerContents (pb from_ : Nat) (r : PowReq) (s : State) : State :=
  if r.target == 0 then clearBank pb 0 false s
  else if r.target == 2 && from_ == 0 then (if r.zfill then zeroBank pb s |> estimate 1 512 else eraseBank pb s)
  else s

/-- R54: what becomes of a held request that R54 refuses when it is applied. -/
def refuseHeld (pb : Nat) (p : BankPow) (reached : Nat) (s : State) : State :=
  match p.held, lbankOf s pb with
  | some h, some lb => if (BankPow.mk reached none none none).refuses h.target then refusePower lb s else s
  | _, _ => s

/-- R54, R60: the power requests of one LMY_BANK_PREQn word. -/
def requestBanks (n : Nat) (w : Word) (s : State) : State :=
  forEach (List.range 8) (fun k => requestBank (8 * n + k) (bits w.toNat (4 * k + 1) (4 * k)) (bit w.toNat (4 * k + 2)))
    (setReg (0x0840 + 4 * (n % 12)) w s)

/-- BANK_PREQ_WRITE (R54, R60). -/
def execBankPreqWrite (a : BusAcc) (n : BitVec 4) (w : Word) (s : State) : Host.Outcome State Fault Refusal :=
  .next (if n.toNat < 12 then busWrite a (0x0840 + 4 * n.toNat) (requestBanks n.toNat w) s else s)

/-- BANK_POWERUP_START (R53). The transition keeps the ZFILL of its start: a change of ZFILL while it is under way does not reach it
(DESIGN CHOICE, log entry 81). -/
def execBankPowerupStart (bank : Nat) (s : State) : Host.Outcome State Fault Refusal :=
  .next (match (powOf s bank).wait with
    | some r =>
      if !inReset s && decide (bank < 100) && mayWake s bank then
        setPow bank ((powOf s bank).start { r with zfill := zfillOf s bank r }) s
      else s
    | none => s)

/-- R52: the power-down may begin: nothing reserved at the bank remains. -/
def mayFall (s : State) (pb : Nat) : Bool :=
  match (powOf s pb).wait with
  | some r => r.target != 2 && !beatsAt s pb
  | none => false

/-! Forwarding entries and the end of a migration (R465, R468, R469, R475) -/

/-- R475: an entry. -/
def fwdEntryOf (kind : Nat) (nospare : Bool) (from_ dest trig : Nat) (s : State) : BitVec 64 :=
  BitVec.ofNat 64 (kind + fld (b2n nospare) 3 + fld from_ 4 + fld dest 16 + fld trig 24 + fld (bits (timeNow s) 61 30) 32)

/-- R475: a forwarding is complete. -/
def fwdDone (kind : Nat) (nospare : Bool) (from_ dest trig : Nat) (s : State) : State :=
  raise 10 { s with fw := { s.fw with ents := s.fw.ents ++ [fwdEntryOf kind nospare from_ dest trig s] } }

/-- The way down of a physical bank that is never used again. -/
def BankPow.retire (p : BankPow) : BankPow :=
  match p.trans with
  | some _ => { p with wait := none, held := some ⟨0, false⟩ }
  | none => if p.st = 0 then BankPow.off else ⟨p.st, none, some ⟨0, false⟩, none⟩

/-- The transfers of a bank migration. -/
def Job.isMig : Job → Bool
  | .copyRd => true
  | .copyWr => true
  | .dual => true
  | _ => false

/-- R468: beats granted before a logical bank moves complete on its source, through the ports that they reserved. -/
def leaveBehind (lb pb : Nat) (t : Tr) : Tr :=
  if t.granted then
    { t with
      beats := t.beats.map fun b => if b.bank = lb then { b with bank := oldBank pb lb } else b
      ports := t.ports.map fun p => if p.1 = lb then (oldBank pb lb, p.2) else p }
  else t

/-- R465, R468: the map of the migrating bank moves to the spare; the old physical bank is retired. `held`: what the logical bank's
held request asks of the spare (R469). `tail`: the migration as it goes on for the beats left behind. -/
def finishMig (m : Mig) (held : Option PowReq) (tail : Option Mig) (s : State) : State :=
  let old := pbankOf s m.lb
  setRegF (0x7100 + 4 * (m.lb / 4 % 24)) (8 * (m.lb % 4) + 7) (8 * (m.lb % 4)) m.pb { s with
      fw := { s.fw with mig := tail, wcnt := NMap.set 0 s.fw.wcnt (unitKey 0 m.lb) 0 }
      fr := { s.fr with trs := s.fr.trs.map (leaveBehind m.lb old) }
      bank := { s.bank with wb := NMap.set none s.bank.wb m.lb none } }
    |> dropJobs Job.isMig |> orReg (0x7090 + 4 * (old / 32 % 4)) (2 ^ (old % 32))
    |> clrReg (0x7078 + 4 * (m.lb / 32 % 3)) (2 ^ (m.lb % 32))
    |> setPow old (powOf s old).retire
    |> (fun s => match held with | some r => setPow m.pb ((powOf s m.pb).request r) s | none => s)
    |> fwdDone 0 false m.lb m.pb m.trig

/-- The end of a migration after its switch. -/
def endTail (s : State) : State := dropJobs Job.isMig { s with fw := { s.fw with mig := none } }

/-- R469: the source of a migration starts on its way Off: the migration ends with the map switched. After the switch nothing is left
to be written to a spare that goes Off. -/
def offEndsMig (pb target : Nat) (s : State) : State :=
  match s.fw.mig with
  | some m =>
    if target = 0 ∧ pbankOf s m.lb = pb then (if m.phase < 4 then finishMig m (powOf s pb).held none s else endTail s) else s
  | none => s

/-- R470: the migration ends without a switch: its spare is taken Off and is a spare again. After the switch only what the beats left
behind still have to write is given up. -/
def cancelMig (s : State) : State :=
  match s.fw.mig with
  | some m =>
    if 4 ≤ m.phase then endTail s
    else setPow m.pb (powOf s m.pb).retire { s with fw := { s.fw with mig := none, spB := ordIns (fun a b => decide (a < b)) m.pb s.fw.spB } }
      |> dropJobs Job.isMig |> raise 11
  | none => s

/-- R50, R52: the write-back slot on the way down: stored before Retention, discarded before Off. -/
def settleWb (pb target : Nat) (s : State) : State :=
  match lbankOf s pb with
  | some lb => if target == 1 then storeWb lb s else { s with bank := { s.bank with wb := NMap.set none s.bank.wb lb none } }
  | none => s

/-- BANK_POWERDOWN_START (R52). -/
def execBankPowerdownStart (bank : Nat) (s : State) : Host.Outcome State Fault Refusal :=
  .next (match (powOf s bank).wait with
    | some r =>
      if !inReset s && decide (bank < 100) && mayFall s bank then
        settleWb bank r.target s |> setPow bank ((powOf s bank).start r) |> offEndsMig bank r.target
      else s
    | none => s)

/-- R407: a bank that a purge finds in Retention is woken. -/
def purgeNext (on : Bool) (p : BankPow) : BankPow := if on && p.st == 1 && p.trans.isNone then { p with wait := some ⟨2, false⟩ } else p

/-- BANK_TRANSITION_DONE (R51, R54): a purge discards the held request (R407). -/
def execBankTransitionDone (bank : Nat) (s : State) : Host.Outcome State Fault Refusal :=
  .next (match (powOf s bank).trans with
    | some r =>
      if !inReset s && decide (bank < 100) then
        let p := if purging s then { powOf s bank with held := none } else powOf s bank
        powerContents bank p.st r s |> refuseHeld bank p r.target |> setPow bank (purgeNext (purging s) (p.finish r))
      else s
    | none => s)

/-! Domains 100 to 131, numbered from 0 -/

def domOf (s : State) (i : Nat) : BankPow := NMap.get BankPow.off s.pw.dom i

def setDom (i : Nat) (p : BankPow) (s : State) : State :=
  { s with pw := { s.pw with dom := NMap.set BankPow.off s.pw.dom i p } }

/-- The domain is On with no request to leave it (R336: from the request onwards it takes no new work). -/
def domUp (s : State) (i : Nat) : Bool :=
  let p := domOf s i
  p.st == 2 && p.trans.isNone && p.wait.isNone

/-- R90: a middle plane is active: in service and its domain takes work. -/
def planeActive (s : State) (write : Bool) (k : Nat) : Bool :=
  (if write then s.fw.plW.getLsbD k else s.fw.plR.getLsbD k) && domUp s k

/-- R90: P_rd or P_wr. -/
def planes (s : State) (write : Bool) : Nat := ncount ((List.range 18).map (planeActive s write))

/-- R189: a blend cluster is active. -/
def clusterActive (s : State) (c : Nat) : Bool := s.fw.cl.getLsbD c && (domOf s (18 + c)).st == 2 && (domOf s (18 + c)).trans.isNone

/-- R472: a cluster that is being forwarded takes no new allocation once its spare is active, or at once where there is none. -/
def clusterRetiring (s : State) (c : Nat) : Bool :=
  match s.fw.cluster with | some r => r.unit == c && (r.spare == 0 || clusterActive s 8) | none => false

/-- R189: a cluster takes new allocations. -/
def clusterOpen (s : State) (c : Nat) : Bool := clusterActive s c && domUp s (18 + c) && !clusterRetiring s c

/-- R330: a reduction-port domain takes new work; `k` 0 to 3. -/
def rpUp (s : State) (k : Nat) : Bool := domUp s (27 + k)

/-- R330: no bucket is in ARMED, REDUCED or UPDATING. -/
def rxQuiet (s : State) : Bool := s.rx.bkt.all fun e => !(decide (1 ≤ e.2.st) && decide (e.2.st ≤ 3))

/-- R97: the legs of one beat of a transfer: network (true: write), ingress and egress switch. An atomic's return row takes read
legs. -/
def beatLegs (s : State) (t : Tr) (b : Beat) : List (Bool × Nat × Nat) :=
  let sw := pbankOf s b.bank / 4
  (if t.wlane ≠ 0 then [(true, (t.wlane - 1) / 5, sw)] else []) ++ (dedup (t.rlanes.map (· / 5))).map fun e => (false, sw, e)

/-- The legs still reserved, each with its array cycle. -/
def legsAhead (s : State) : List (Nat × Bool × Nat × Nat) :=
  (s.fr.trs.filter (·.granted)).flatMap fun t => t.beats.zipIdx.flatMap fun (b, n) =>
    let c := t.gcyc + t.offs + n
    if b.bad ≠ 0 ∨ c ≤ s.cyc then [] else (beatLegs s t b).map fun l => (c, l)

/-- R97, R336: the legs still reserved all have places on planes that take work, so that no other plane needs to carry one
(DESIGN CHOICE, log entry 13). -/
def planesFree (s : State) : Bool :=
  let ls := legsAhead s
  ls.all fun l => decide ((ls.filter fun m => m.1 == l.1 && m.2.1 == l.2.1 && m.2.2.1 == l.2.2.1).length ≤ planes s l.2.1)
    && decide ((ls.filter fun m => m.1 == l.1 && m.2.1 == l.2.1 && m.2.2.2 == l.2.2.2).length ≤ planes s l.2.1)

/-- R336: the idle condition of a domain. -/
def domIdle (s : State) (i : Nat) : Bool :=
  if i < 18 then planesFree s
  else if i < 27 then s.bl.slot.all fun e => !(e.1 / 4 == i - 18)
  else if i = 27 then rxQuiet s && s.rx.slots.isEmpty
  else if i < 31 then rxQuiet s
  else s.hd.blk.isEmpty && s.hd.row.isEmpty

/-- R338: whether a domain takes no request of C0: a spare, or one whose units are all retired. -/
def domClosed (s : State) (i : Nat) : Bool :=
  if i < 18 then !(s.fw.plR.getLsbD i || s.fw.plW.getLsbD i)
  else if i < 27 then !s.fw.cl.getLsbD (i - 18)
  else false

/-- R336: a request Off would leave fewer than 8 active planes in a network that the domain serves. -/
def planeLimit (s : State) (i : Nat) : Bool :=
  decide (i < 18) && ((planeActive s false i && decide (planes s false ≤ 8)) || (planeActive s true i && decide (planes s true ≤ 8)))

/-- R336, R337, R338: one changed bit of LMY_PWR_DREQ; a refused request leaves its bit as it was (DEDUCED, log entry 14). -/
def requestDomain (i : Nat) (on : Bool) (s : State) : State :=
  if domClosed s i || (!on && planeLimit s i) then orReg 0x4004 0x2000 s |> raise 43
  else setRegF 0x40A0 i i (b2n on) s |> setDom i ((domOf s i).request ⟨if on then 2 else 0, false⟩)

/-- R336: a write of LMY_PWR_DREQ applies to every bit that changes. -/
def requestDomains (w : Word) (s : State) : State :=
  forEach ((List.range 32).filter fun i => bit w.toNat i != regB s 0x40A0 i) (fun i => requestDomain i (bit w.toNat i)) s

/-- DOMAIN_REQ_WRITE (R336). -/
def execDomainReqWrite (a : BusAcc) (w : Word) (s : State) : Host.Outcome State Fault Refusal :=
  .next (busWrite a 0x40A0 (requestDomains w) s)

/-- DOMAIN_POWERDOWN_START (R336). `dom` counts from domain 100. -/
def execDomainPowerdownStart (dom : BitVec 5) (s : State) : Host.Outcome State Fault Refusal :=
  .next (match (domOf s dom.toNat).wait with
    | some r =>
      if !inReset s && r.target == 0 && domIdle s dom.toNat then setDom dom.toNat ((domOf s dom.toNat).start r) s else s
    | none => s)

/-- R335: a waiting power-up may start: fewer than 2 run, and no lower domain waits. -/
def mayRise (s : State) (i : Nat) : Bool :=
  waitingUp (domOf s i)
    && decide (ncount ((List.range 32).map fun j => poweringUp (domOf s j)) < 2)
    && (List.range i).all fun j => !waitingUp (domOf s j)

/-- DOMAIN_POWERUP_START (R335). -/
def execDomainPowerupStart (dom : BitVec 5) (s : State) : Host.Outcome State Fault Refusal :=
  .next (match (domOf s dom.toNat).wait with
    | some r => if !inReset s && mayRise s dom.toNat then setDom dom.toNat ((domOf s dom.toNat).start r) s else s
    | none => s)

/-- EGCRED of a VC. -/
def vcEgcred (s : State) (v : Nat) : Nat := regF s (0x3840 + 4 * v) 23 16

/-- R335: what a domain that reaches Off loses: RP0 its intake and VC credit logic, which then stand as after a Waybill load (DESIGN
CHOICE, log entry 85), RP1 the directory, RP3 the norm groups' partials. The others hold nothing between uses. -/
def domLoses (i : Nat) (s : State) : State :=
  if i = 27 then
    { s with rx := { s.rx with slots := [], ret := [], vccred := [], egcred := [], stall := [],
                               eg := (List.range 16).foldl (fun m v => NMap.set 0 m v (vcEgcred s v)) [] } }
  else if i = 28 then { s with rx := { s.rx with dir := [] } }
  else if i = 30 then { s with rx := { s.rx with ng := [] } }
  else s

/-- DOMAIN_TRANSITION_DONE (R335, R337). -/
def execDomainTransitionDone (dom : BitVec 5) (s : State) : Host.Outcome State Fault Refusal :=
  .next (match (domOf s dom.toNat).trans with
    | some r =>
      if !inReset s then setDom dom.toNat ((domOf s dom.toNat).finish r) (when (r.target == 0) (domLoses dom.toNat) s) else s
    | none => s)

end Sys2Proof.Machine
end

