-- ==== Sys2Proof/Machine/Operands.lean ====
section
/-!
DEFINITION. Machine/Operands.lean: the operand forms of slips (R203, R260 to R264): fields, lanes, geometry, element streams;
clients and classes of traffic (R18, R233, R234).
-/
namespace Sys2Proof.Machine

/-! Slip words -/

/-- Word `i` of a slip. -/
def sw (w : BitVec 512) (i : Nat) : Nat := bits w.toNat (32 * i + 31) (32 * i)

/-- R260: header fields. -/
def sType (w : BitVec 512) : Nat := bits (sw w 0) 3 0
def sCtx (w : BitVec 512) : Nat := bits (sw w 0) 6 4
def sTrc (w : BitVec 512) : Bool := bit (sw w 0) 7
def sCap (w : BitVec 512) : Nat := if bits (sw w 0) 13 8 = 0 then 40 else bits (sw w 0) 13 8
def sDrop (w : BitVec 512) : Bool := bit (sw w 0) 14
def sTag (w : BitVec 512) : Nat := bits (sw w 0) 31 16

def isREAD (w : BitVec 512) : Bool := sType w == 1
def isWRITE (w : BitVec 512) : Bool := sType w == 2
def isMOVE (w : BitVec 512) : Bool := sType w == 3
def isHELD (w : BitVec 512) : Bool := sType w == 4
def isATOMIC (w : BitVec 512) : Bool := sType w == 5
/-- READ, WRITE, MOVE, HELD, ATOMIC. -/
def isData (w : BitVec 512) : Bool := decide (1 ≤ sType w) && decide (sType w ≤ 5)
/-- Slips with a read side through the read network: READ, MOVE, HELD. -/
def hasRead (w : BitVec 512) : Bool := isREAD w || isMOVE w || isHELD w
/-- Slips with a write side: WRITE, MOVE, ATOMIC. -/
def hasWrite (w : BitVec 512) : Bool := isWRITE w || isMOVE w || isATOMIC w

/-- R261: fields of the data slips. -/
def sPerm (w : BitVec 512) : Nat := if hasRead w then sw w 5 else 0
def sCvt (w : BitVec 512) : Nat := sw w 4
def sSfmt (w : BitVec 512) : Nat := bits (sw w 4) 3 0
def sDfmt (w : BitVec 512) : Nat := bits (sw w 4) 7 4
def sRnd (w : BitVec 512) : Nat := bits (sw w 4) 10 8
def sFtz (w : BitVec 512) : Bool := bit (sw w 4) 11
def sSatinf (w : BitVec 512) : Bool := bit (sw w 4) 12
def sScaledlv (w : BitVec 512) : Bool := bit (sw w 4) 13
def sSalt (w : BitVec 512) : Nat := bits (sw w 4) 31 16
/-- The view address of the source scale plane (R261). -/
def sSrcScale (w : BitVec 512) : Nat := sw w 3
/-- The view address of the destination scale plane: SCALE of a WRITE, DSCALE of a MOVE (R261). -/
def sDstScale (w : BitVec 512) : Nat := if isWRITE w then sw w 3 else sw w 10
/-- R173: BLEND. -/
def sBlendW (w : BitVec 512) : Nat := if isATOMIC w then 0 else sw w 6
def sBlendEn (w : BitVec 512) : Bool := bit (sBlendW w) 5
def sBlendId (w : BitVec 512) : Nat := bits (sBlendW w) 4 0
def sPset (w : BitVec 512) : Nat := bits (sBlendW w) 13 8
def sSide0 (w : BitVec 512) : Nat := sw w 7
def sSide1 (w : BitVec 512) : Nat := sw w 8
/-- R39: ATOP of an ATOMIC slip. -/
def sAtop (w : BitVec 512) : Nat := bits (sw w 10) 15 0

/-- R203: HOLD fields. -/
def hLrows (w : BitVec 512) : Nat := bits (sw w 12) 13 0
def hWin (w : BitVec 512) : Nat := bits (sw w 12) 21 16 + 1
def hPark (w : BitVec 512) : Bool := bit (sw w 12) 22
def hAen (w : BitVec 512) : Bool := bit (sw w 12) 23
def hRen (w : BitVec 512) : Bool := bit (sw w 12) 24
def hSen (w : BitVec 512) : Bool := bit (sw w 12) 25
def hLines (w : BitVec 512) : Nat := bits (sw w 13) 23 0 + 1
def hTrows (w : BitVec 512) : Nat := bits (sw w 14) 15 0
def hAtally (w : BitVec 512) : Nat := bits (sw w 14) 21 16
def hRtally (w : BitVec 512) : Nat := bits (sw w 14) 29 24
def hAbase (w : BitVec 512) : Nat := sw w 15
/-- R207: W. -/
def hW (w : BitVec 512) : Nat := min (hWin w) (hLines w)
/-- R207: holding blocks of a line slot. -/
def hBlks (w : BitVec 512) : Nat := if hPark w then cdiv (hLrows w) 16 else 0
/-- R204: number of tiles; TROWS 0 (where it is ignored) makes one tile of the whole slip. -/
def hTiles (w : BitVec 512) : Nat := if hTrows w = 0 then 1 else cdiv (hLines w * hLrows w) (hTrows w)
/-- R204: source rows before the end of tile `j`. -/
def hTileEnd (w : BitVec 512) (j : Nat) : Nat :=
  if hTrows w = 0 then hLines w * hLrows w else min ((j + 1) * hTrows w) (hLines w * hLrows w)

/-! Lanes (R263) -/

/-- The valid slots of a LANES word. -/
def laneSlots (l : Nat) : List Nat :=
  (List.range 4).filterMap fun j => if bit l (8 * j + 7) then some (bits l (8 * j + 6) (8 * j)) else none

/-- The read lanes a slip delivers to, or whose read path a MOVE uses. -/
def sRlanes (w : BitVec 512) : List Nat :=
  if isREAD w || isHELD w then laneSlots (sw w 9) ++ laneSlots (sw w 10)
  else if isMOVE w then [bits (sw w 9) 6 0]
  else if isATOMIC w && bit (sw w 9) 15 then [bits (sw w 9) 14 8]
  else []

/-- The write lane of a WRITE, MOVE or ATOMIC. -/
def sWlane (w : BitVec 512) : Nat := if isMOVE w then bits (sw w 9) 14 8 else bits (sw w 9) 6 0

/-! Geometry (R262) -/

def gN (w : BitVec 512) (d : Nat) : Nat := bits (sw w (11 + d)) 15 0 + 1
def gS (w : BitVec 512) (d : Nat) : Int := sext 16 (bits (sw w (11 + d)) 31 16)

/-- Rows the geometry visits: source rows of a READ, MOVE, HELD, stored rows of a WRITE, target rows of an ATOMIC. -/
def sRows (w : BitVec 512) : Nat := if isHELD w then hLines w * hLrows w else gN w 0 * gN w 1 * gN w 2

/-- OFFSET of row `i` of the geometry, before the range check of R66. -/
def sRowOff (w : BitVec 512) (i : Nat) : Int :=
  let b : Int := (vaOff (sw w 1) : Int)
  if isHELD w then
    b + 128 * (((i / hLrows w : Nat) : Int) * sext 16 (bits (sw w 11) 31 16) + ((i % hLrows w : Nat) : Int) * sext 16 (bits (sw w 11) 15 0))
  else
    let i0 := i % gN w 0
    let i1 := i / gN w 0 % gN w 1
    let i2 := i / (gN w 0 * gN w 1)
    b + 128 * ((i0 : Int) * gS w 0 + (i1 : Int) * gS w 1 + (i2 : Int) * gS w 2)

/-- OFFSET of destination row `d` of a MOVE. -/
def moveOff (w : BitVec 512) (d : Nat) : Int :=
  let n := bits (sw w 14) 15 0 + 1
  (vaOff (sw w 2) : Int) + 128 * (((d % n : Nat) : Int) * sext 16 (bits (sw w 14) 31 16) + ((d / n : Nat) : Int) * sext 16 (bits (sw w 15) 31 16))

/-- View address and OFFSET of stored row `d` of a WRITE, ATOMIC or MOVE. -/
def dstView (w : BitVec 512) : Nat := if isMOVE w then sw w 2 else sw w 1
def dstOff (w : BitVec 512) (d : Nat) : Int := if isMOVE w then moveOff w d else sRowOff w d

/-! Element streams (R127, R159, R277) -/

def sK (w : BitVec 512) : Nat := if hasRead w then pK (sPerm w) else 1
def sM (w : BitVec 512) : Nat := if hasRead w then pM (sPerm w) else 1
def sNS (w : BitVec 512) : Nat := nf (sSfmt w)
def sND (w : BitVec 512) : Nat := nf (sDfmt w)
/-- Groups of the read side. -/
def sGroups (w : BitVec 512) : Nat := sRows w / sK w
/-- E: elements of the stream on one lane, in source elements. -/
def sElems (w : BitVec 512) : Nat := if hasRead w then sGroups w * sM w * sNS w else if isWRITE w then sRows w * sND w else sRows w * sNS w
/-- Destination flits on each lane of the read side. -/
def sFlits (w : BitVec 512) : Nat := cdiv (sElems w) (sND w)
/-- Rows the write side stores. -/
def sStores (w : BitVec 512) : Nat := if isMOVE w then sFlits w else sRows w
/-- F of R277: flits the write side takes. -/
def sF (w : BitVec 512) : Nat := if isWRITE w then cdiv (sElems w) (sNS w) else sStores w

/-- R161: destination flits complete once the first `g` groups are in, all of them at the end of the stream. -/
def flitsUpTo (w : BitVec 512) (g : Nat) : Nat :=
  if g ≥ sGroups w then sFlits w else g * sM w * sNS w / sND w

/-- R174: the chain format. -/
def sCF (w : BitVec 512) : Nat := if isWRITE w then sSfmt w else sDfmt w

/-- R162: rows of the next write transfer when `left` rows remain. -/
def wRows (w : BitVec 512) (left : Nat) : Nat :=
  if isATOMIC w then 1 else max 1 (min (min 8 (15 * sNS w / sND w)) left)

/-! Clients (R18) -/

def rlClient (l : Nat) : Nat :=
  if l < 2 then 0 else if l < 4 then 1 else if l < 52 then 2 + (l - 4) / 12 else if l < 56 then 6 else if l < 58 then 7
  else if l < 60 then 8 else if l < 62 then 9 else if l < 64 then 10 else 11

def wlClient (l : Nat) : Nat :=
  if l < 1 then 0 else if l < 2 then 1 else if l < 34 then 2 + (l - 2) / 8 else if l < 36 then 6 else if l < 38 then 7
  else if l < 40 then 8 else if l < 42 then 9 else if l < 44 then 10 else 11

/-- First read lane of a client, and how many it has. -/
def clientRl (c : Nat) : Nat := listGet 64 [0, 2, 4, 16, 28, 40, 52, 56, 58, 60, 62] c
def clientRlN (c : Nat) : Nat := if c < 2 then 2 else if c < 6 then 12 else if c = 6 then 4 else if c < 11 then 2 else 1

/-- R233, R417: the clients a slip acts for. -/
def sClients (w : BitVec 512) : List Nat :=
  if isMOVE w then [bits (sw w 9) 19 16]
  else if isREAD w || isHELD w then dedup ((sRlanes w).map rlClient)
  else if isData w then [wlClient (sWlane w)]
  else []

/-! Classes (R233, R234) -/

/-- The client that owns a logical bank; 0xFF: none. -/
def ownerOf (s : State) (lb : Nat) : Nat := listGet 0xFF s.bank.own (plainBank lb)
def clsOwn (s : State) (c : Nat) : Nat := regF s (0x2810 + 4 * (c / 4)) (8 * (c % 4) + 2) (8 * (c % 4))
def clsFor (s : State) (c : Nat) : Nat := regF s (0x2810 + 4 * (c / 4)) (8 * (c % 4) + 6) (8 * (c % 4) + 4)
/-- The class of a client at a bank. -/
def clsAt (s : State) (c lb : Nat) : Nat := if ownerOf s lb = c then clsOwn s c else clsFor s c
/-- LMY_ARB_ICLS: 0 SIDE, 1 PARK, 2 REDELIV, 3 RDXOWN, 4 RDXFOR, 5 TRACE, 6 WATCH, 7 READOUT. -/
def icls (s : State) (k : Nat) : Nat := regF s 0x2820 (4 * k + 2) (4 * k)

def maxOf (l : List Nat) : Nat := l.foldl max 0
def minOf (d : Nat) : List Nat → Nat
  | [] => d
  | x :: xs => xs.foldl min x

/-- The slip of an id. -/
def slipOf (s : State) (sid : Nat) : Option Slip := s.sq.live.find? fun x => x.sid == sid

/-- Replace a slip. -/
def setSlip (x : Slip) (s : State) : State :=
  { s with sq := { s.sq with live := s.sq.live.map fun y => if y.sid == x.sid then x else y } }

/-- Change the slip of an id. -/
def updSlip (sid : Nat) (f : Slip → Slip) (s : State) : State :=
  { s with sq := { s.sq with live := s.sq.live.map fun y => if y.sid == sid then f y else y } }

def slane (x : Slip) (l : Nat) : SLane := NMap.get SLane.empty x.lanes l
def setSlane (l : Nat) (y : SLane) (x : Slip) : Slip := { x with lanes := NMap.set SLane.empty x.lanes l y }

/-- A transfer of the internal exchange (R92). -/
def isInternal (t : Tr) : Bool := t.kind == .park || t.kind == .parkWr || t.kind == .ird || t.kind == .iwr

/-- R233: the class of the traffic of an internal port at a bank; scale ports and the dual-write port have that of the transfer they
serve (`served`), the ports of the forwarding copy 0. -/
def portCls (s : State) (req served lb : Nat) : Nat :=
  if req < 183 then icls s 0
  else if req = 183 ∨ req = 184 ∨ req = 194 ∨ req = 195 then icls s 1
  else if (185 ≤ req ∧ req < 189) ∨ (196 ≤ req ∧ req < 200) then (if ownerOf s lb = 10 then icls s 3 else icls s 4)
  else if req = 192 ∨ req = 205 then icls s 6
  else if req = 193 then icls s 7
  else if req = 204 then icls s 5
  else if req = 191 ∨ req = 202 then 0
  else served

/-- R233: the class of a transfer at a bank. -/
def trClsAt (s : State) (t : Tr) (lb : Nat) : Nat :=
  if isInternal t then portCls s t.req t.fcls lb
  else if t.slip = 0 then clsAt s t.client lb
  else match slipOf s (t.slip - 1) with
    | some x => if isHELD x.words then icls s 2 else maxOf ((sClients x.words).map fun c => clsAt s c lb)
    | none => 0

/-- The banks a transfer's beats touch. -/
def trBanks (t : Tr) : List Nat := dedup ((t.beats.filter fun b => b.bad == 0).map (·.bank))

/-- R234: the class of a transfer: the lowest at its banks; with no bank, that of its client at a bank it does not own. Internal
traffic that acts for no client keeps its class. -/
def trCls (s : State) (t : Tr) : Nat :=
  match trBanks t with
  | [] =>
    if t.slip = 0 then (if isInternal t && t.client != 10 then portCls s t.req t.fcls 0xFF else clsFor s t.client)
    else match slipOf s (t.slip - 1) with
      | some x => maxOf ((sClients x.words).map (clsFor s))
      | none => 0
  | bs => minOf 0 (bs.map (trClsAt s t))

/-- R417: the clients a transfer acts for. -/
def trClients (s : State) (t : Tr) : List Nat :=
  if t.slip = 0 then (if t.client < 12 then [t.client] else [])
  else match slipOf s (t.slip - 1) with
    | some x => sClients x.words
    | none => []

/-! Beats -/

/-- R79: the beat of one row of an access. -/
def mkBeat (s : State) (ctx v : Nat) (off : Int) (store : Bool) : Beat :=
  let o := (off % 2 ^ 23).toNat
  match checkRow s ctx v off store with
  | .at_ lb row byte => ⟨lb, row, byte, o, 0, false, false, false, 0, 0xF, 0⟩
  | .bad k => ⟨0, 0, 0, o, k + 1, false, false, false, 0, 0xF, 0⟩

/-- A beat generated without any access (R108, R226, R519). -/
def genBeat : Beat := ⟨0, 0, 0, 0, 6, false, false, false, 0, 0xF, 0⟩

/-- A beat on a row of a bank that needs no check. -/
def rowBeat (lb row : Nat) : Beat := ⟨lb, row, 0, 0, 0, false, false, false, 0, 0xF, 0⟩

/-- A beat on a row of an area (R76), where it has one. -/
def areaBeat (p : Option (Nat × Nat)) : Beat :=
  match p with
  | some (lb, row) => rowBeat lb row
  | none => { genBeat with bad := 1 }

/-! Transfers -/

/-- A transfer of which nothing is known but who makes it. -/
def newTr (req : Nat) (kind : TrKind) (slip ctx client : Nat) : Tr :=
  { id := 0, req := req, kind := kind, slip := slip, ctx := ctx, client := client, rlanes := [], wlane := 0, beats := [], offs := 1,
    ready := false, rcyc := 0, granted := false, gcyc := 0, gseq := 0, ports := [], cred := 0, took := false, preempt := false,
    passed := [], atop := 0, view := 0, g0 := 0, grps := 0, ev56 := false, ev57 := false, last := false, job := .none, fcls := 0, wt := 0 }

/-- A new transfer, under the next id. -/
def addTr (t : Tr) (s : State) : State :=
  { s with fr := { s.fr with trs := s.fr.trs ++ [{ t with id := s.fr.nextId }], nextId := s.fr.nextId + 1 } }

/-- R248: the weight of an internal port by the kind of its traffic; ports that serve other requesters take their weight, IR17 and
IW8 take 0. -/
def portWeight (s : State) (req : Nat) : Nat :=
  if 174 ≤ req ∧ req < 183 then regF s 0x2890 7 0
  else if req = 183 ∨ req = 184 ∨ req = 194 ∨ req = 195 then regF s 0x2890 15 8
  else if (185 ≤ req ∧ req < 189) ∨ (196 ≤ req ∧ req < 200) then regF s 0x2890 23 16
  else if req = 204 then regF s 0x2890 31 24
  else if req = 192 ∨ req = 205 then regF s 0x2894 7 0
  else if req = 193 then regF s 0x2894 15 8
  else 0

/-- R92, R231: one row that a port of the internal exchange reads or writes: port, whether a store, what the row is for, class; it
requests arbitration in this cycle. -/
def exchTr (s : State) (req : Nat) (store : Bool) (job : Job) (cls : Nat) (b : Beat) : Tr :=
  { newTr req (if store then .iwr else .ird) 0 0 15 with
    beats := [b], offs := if store then 6 else 1, ready := true, rcyc := s.cyc + 1, job := job, fcls := cls, wt := portWeight s req }

/-- R83, R233: an internal transfer that acts for a slip, at a view address. -/
def slipTr (x : Slip) (v : Nat) (t : Tr) : Tr :=
  { t with slip := x.sid + 1, ctx := sCtx x.words, client := listGet 0 (sClients x.words) 0, view := v }

/-- A transfer of a port waits for its grant. -/
def portBusy (s : State) (req : Nat) : Bool := s.fr.trs.any fun t => t.req == req && !t.granted

/-- The beat of a store. -/
def Beat.store (b : Beat) (data : Row) (pois en : Mask4) : Beat := { b with data := data, pois := pois, en := en }

/-! Lanes and transfers -/

def rlane (s : State) (l : Nat) : RLane := NMap.get RLane.empty s.fr.rl l
def setRlane (l : Nat) (x : RLane) (s : State) : State := { s with fr := { s.fr with rl := NMap.set RLane.empty s.fr.rl l x } }
def updRlane (l : Nat) (f : RLane → RLane) (s : State) : State := setRlane l (f (rlane s l)) s
def wlane (s : State) (l : Nat) : WLane := NMap.get WLane.empty s.fr.wl l
def setWlane (l : Nat) (x : WLane) (s : State) : State := { s with fr := { s.fr with wl := NMap.set WLane.empty s.fr.wl l x } }
def updWlane (l : Nat) (f : WLane → WLane) (s : State) : State := setWlane l (f (wlane s l)) s

def trOf (s : State) (id : Nat) : Option Tr := s.fr.trs.find? fun t => t.id == id
def setTr (t : Tr) (s : State) : State := { s with fr := { s.fr with trs := s.fr.trs.map fun u => if u.id == t.id then t else u } }
/-- The transfer stands in some lane's order. -/
def isIssued (s : State) (t : Tr) : Bool :=
  (t.rlanes.any fun l => (rlane s l).order.contains t.id) || (t.wlane != 0 && (wlane s (t.wlane - 1)).order.contains t.id)

/-- A transfer whose every row has been performed, or reaches no bank. -/
def rowsDone (t : Tr) : Bool := t.granted && t.beats.all fun b => b.done || b.bad != 0

end Sys2Proof.Machine
end

