-- ==== Sys2Proof/Machine/Trace.lean ====
section
/-!
DEFINITION. Machine/Trace.lean: time and beacons (R421 to R426), the postmark collector, the trace ring and egress (R427 to R437).
-/
namespace Sys2Proof.Machine

/-! Time -/

/-- R424: BPERL2 in force. -/
def beaconL2 (s : State) : Nat :=
  let b := regF s 0x6048 4 0
  if 10 ≤ b ∧ b ≤ 24 then b else 16

/-- A signed 32-bit value of `d`, saturated. -/
def sat32 (d : Int) : Nat :=
  let m : Int := 2 ^ 31
  ((if d > m - 1 then m - 1 else if d < -m then -m else d) % 2 ^ 32).toNat

/-- R422: the counter after an accepted beacon. -/
def TimeSt.accept (first : Bool) (tb : BitVec 64) (d : Int) (m : TimeSt) : TimeSt :=
  if !first && decide (-1024 ≤ d) && decide (d < 0) then { m with hold := (-d).toNat, holding := true, since := 0 }
  else ⟨tb, 0, 0, false, 0⟩

/-- R422, R424: the kind of the TIME record of an accepted beacon, none for a correction of at most 2 ns. -/
def beaconKind (first lost : Bool) (d : Int) : Option Nat :=
  if lost then some 5 else if first then some 1 else if d < -1024 then some 3 else if d.natAbs > 2 then some 2 else none

/-- BEACON (R422 to R424). -/
def execBeacon (tb : BitVec 64) (s : State) : Host.Outcome State Fault Refusal :=
  .next (
    let first := !regB s 0x604C 0
    let lost := regB s 0x604C 1
    let d : Int := (tb.toNat : Int) - (s.tm.t.toNat : Int)
    if s.ck.por then s
    else if !first && decide (s.tm.since < 2 ^ (beaconL2 s - 1)) then
      bump 0x5A60 1 s |> when (!regB s 0x604C 2) (raise 51) |> orReg 0x604C 4
    else
      let s := { s with tm := s.tm.accept first tb d } |> clrReg 0x604C 2 |> orReg 0x604C 1
        |> setReg 0x6050 (BitVec.ofNat 32 (sat32 d))
      match beaconKind first lost d with
      | some k => genTime k (sat32 d) s
      | none => s)

/-- BEACON_LOSS (R424). -/
def execBeaconLoss (s : State) : Host.Outcome State Fault Refusal :=
  .next (if !inReset s && !regB s 0x604C 1 && decide (4 * 2 ^ beaconL2 s ≤ s.tm.since) then
      orReg 0x604C 2 s |> bump 0x5A68 1 |> genTime 4 0 |> raise 50
    else s)

/-- TCLK_STALL (R425): the counter has not changed for 64 cycles of the undivided tile clock. -/
def execTclkStall (s : State) : Host.Outcome State Fault Refusal :=
  .next (if inReset s || regB s 0x604C 3 || decide (s.tm.still < 64) then s else orReg 0x604C 8 s |> genTime 6 0)

/-- TCLK_RESUME (R425). -/
def execTclkResume (s : State) : Host.Outcome State Fault Refusal :=
  .next (if inReset s || !regB s 0x604C 3 then s
    else clrReg 0x604C 8 { s with tm := { s.tm with still := 0 } } |> genTime 7 0)

/-- TIME_HOLD_END (R422). -/
def execTimeHoldEnd (s : State) : Host.Outcome State Fault Refusal :=
  .next (if s.tm.holding && s.tm.hold == 0 then { s with tm := { s.tm with holding := false } } else s)

/-- TIME_SYNC (R428): bits [63:40] of the time changed. -/
def execTimeSync (s : State) : Host.Outcome State Fault Refusal := .next (genTime 0 0 s)

/-- TIME_LOW_READ (R426). -/
def execTimeLowRead (a : BusAcc) (s : State) : Host.Outcome State Fault Refusal :=
  .next (busRead a 0x6040 (fun s =>
    (BitVec.ofNat 32 (timeNow s),
      { s with bus := { s.bus with tmSh := NMap.set 0 s.bus.tmSh (lvl a) (BitVec.ofNat 32 (timeNow s >>> 32)) } })) s)

/-! Records as slots -/

/-- R427: the first slot of a record. -/
def Rec.head (r : Rec) : BitVec 128 :=
  BitVec.ofNat 128 (r.typ + fld (b2n r.tq) 4 + fld r.ctx 5 + fld r.q 8 + fld r.next 14 + fld (r.time.toNat % 2 ^ 48) 16
    + fld r.q1.toNat 64)

def Rec.slots (r : Rec) : List (BitVec 128) := r.head :: r.raw

/-- R430: the order of the records of one cycle. -/
def recRank (r : Rec) : Nat :=
  match r.typ with
  | 9 => 0
  | 8 => 1
  | 0xA => 2
  | 6 => 3
  | 7 => 4
  | 0xB => 5
  | 2 => 64 + r.q
  | 1 => 128 + r.q
  | 5 => 512 + r.unit
  | _ => 256 + r.q

/-! Losses -/

/-- One more lost record. -/
def Loss.add (t : Nat) (loc : Bool) (l : Loss) : Loss :=
  if l.n = 0 then ⟨1, t, t, loc⟩ else ⟨l.n + 1, l.first, t, l.loc || loc⟩

/-- R428: the GAP record of a consumer's losses; `scope` for losses of that consumer alone. -/
def gapRec (l : Loss) (scope : Nat) (s : State) : Rec :=
  ⟨8, timeQ s, 0, 0, 0, BitVec.ofNat 64 l.first,
    BitVec.ofNat 64 (min (l.last - l.first) (2 ^ 40 - 1) + fld (min l.n 0x3FFFFF) 40 + fld (if l.loc then scope else 0) 62), [], 0⟩

/-- R438: cause 48, once for the losses pending at a consumer. -/
def raiseLost (eg : Bool) (s : State) : State :=
  if eg then (if s.tr.raisedE then s else raise 48 { s with tr := { s.tr with raisedE := true } })
  else if s.tr.raised then s else raise 48 { s with tr := { s.tr with raised := true } }

/-- A record lost to the trace buffer alone. -/
def loseBuffer (r : Rec) (s : State) : State :=
  { s with tr := { s.tr with lossB := s.tr.lossB.add r.time.toNat true } } |> bump 0x5A50 1 |> orReg 0x6014 0x20 |> raiseLost false

/-- A record lost to egress alone. -/
def loseEgress (r : Rec) (s : State) : State :=
  { s with tr := { s.tr with lossE := s.tr.lossE.add r.time.toNat true } } |> bump 0x5A58 1 |> orReg 0x6014 0x40 |> raiseLost true

/-- R452: a flit of a watch unit was lost. -/
def watchLost (u : Nat) (s : State) : State :=
  orReg (0x6A1C + 64 * (u % 4)) 0x20 s |> setReg (0x6A24 + 64 * (u % 4)) (BitVec.ofNat 32 (min ((reg s (0x6A24 + 64 * u)).toNat + 1) (2 ^ 32 - 1)))

/-- R430: a record lost at the collector. -/
def loseBoth (r : Rec) (s : State) : State :=
  when (r.typ == 5) (watchLost r.unit) <|
  { s with tr := { s.tr with lossB := s.tr.lossB.add r.time.toNat false, lossE := s.tr.lossE.add r.time.toNat false } }
    |> bump 0x5A50 1 |> bump 0x5A58 1 |> orReg 0x6014 0x60 |> raiseLost false |> raiseLost true

/-! The collector (R430) -/

def inqSlots (s : State) : Nat := nsum (s.tr.inq.map fun r => r.raw.length + 1)

/-- One record of the cycle; `used` slots of the cycle are taken. A WATCH record puts its last slot into the next cycle. -/
def collectOne (r : Rec) (x : Nat × State) : Nat × State :=
  let n := r.raw.length + 1
  let now := min n 8
  if r.typ = 6 then (x.1, bump 0x5A48 1 { x.2 with tr := { x.2.tr with inq := x.2.tr.inq ++ [r] } })
  else if x.1 + now ≤ 8 ∧ inqSlots x.2 + n ≤ 63 then
    (x.1 + now, bump 0x5A48 1 { x.2 with tr := { x.2.tr with inq := x.2.tr.inq ++ [r], carry := x.2.tr.carry + (n - now) } })
  else (x.1, loseBoth r x.2)

def collectGo : List Rec → Nat × State → State
  | [], x => x.2
  | r :: rs, x => collectGo rs (collectOne r x)

/-! The ring -/

/-- R431: ring slots, N − 1. -/
def ringSlots (s : State) : Nat := traceN s - 1

/-- Ring slots of the row that begins at slot `p` (the last row holds the stop slot). -/
def ringRowLen (s : State) (p : Nat) : Nat := if p + 8 = traceN s then 7 else 8
def ringNext (s : State) (p : Nat) : Nat := if p + 8 = traceN s then 0 else p + 8

/-- The ring slot `k` slots on from the row that begins at slot `p`; `fuel` bounds the rows between. -/
def slotFrom (s : State) : Nat → Nat → Nat → Nat
  | 0, p, k => p + k
  | fuel + 1, p, k => if k < ringRowLen s p then p + k else slotFrom s fuel (ringNext s p) (k - ringRowLen s p)

/-- The ring slot of the `k`-th slot of the write buffer. -/
def wbufPos (s : State) (k : Nat) : Nat := slotFrom s 4 s.tr.wpos k

/-- Slots the write buffer of two rows holds. -/
def wbufCap (s : State) : Nat := ringRowLen s s.tr.wpos + ringRowLen s (ringNext s s.tr.wpos)

/-- Slots accepted and not yet written. -/
def wbufNew (s : State) : Nat := s.tr.wbuf.length - s.tr.wold

/-- LMY_TR_CTL.POLICY: window. -/
def isWindow (s : State) : Bool := regB s 0x6000 1

/-- R434: records that remain whole once `u` accepted slots are unwritten. -/
def dropOld (n u : Nat) : List (Nat × Nat) → List (Nat × Nat)
  | [] => []
  | r :: rs => if nsum ((r :: rs).map (·.2)) - u > n then dropOld n u rs else r :: rs

/-- The bytes of the row at ring slot `p` that holds `sl`: zeros where no slot is filled, the stop slot where it lies there. -/
def slotRow (s : State) (p : Nat) (sl : List (BitVec 128)) : Row :=
  let n := ringRowLen s p
  let l := sl.map BitVec.toNat ++ List.replicate (n - sl.length) 0 ++ (if n = 7 then [s.tr.stopSlot.toNat] else [])
  BitVec.ofNat 1024 (l.foldr (fun x acc => x + 2 ^ 128 * acc) 0)

/-- R432: chunk enables of slots `old` to `n` − 1 of a row: the chunks that hold one of them. -/
def slotEn (old n : Nat) : Nat := nsum ((List.range 4).map fun c => if 2 * c < n ∧ old < 2 * c + 2 then 2 ^ c else 0)

/-- R432: a partial row whose last chunk is half filled: its other slot is written as zeros. -/
def zeroSlot (s : State) (n : Nat) : Nat := if n % 2 = 1 ∧ n < ringRowLen s s.tr.wpos then 1 else 0

/-- R432, R434: the pointers and fill after `n` slots of the first row stand written. -/
def advanceRing (n : Nat) (s : State) : State :=
  let k := n - s.tr.wold
  let full := n == ringRowLen s s.tr.wpos
  let tr := if full then { s.tr with wbuf := s.tr.wbuf.drop n, wpos := ringNext s s.tr.wpos, wold := 0 } else { s.tr with wold := n }
  let wptr := if full then ringNext s s.tr.wpos else s.tr.wpos + n
  if isWindow s then
    let recs := dropOld (ringSlots s - zeroSlot s n) (tr.wbuf.length - tr.wold) tr.recs
    let fill := nsum (recs.map (·.2)) - (tr.wbuf.length - tr.wold)
    { s with tr := { tr with recs := recs } } |> setReg 0x6018 (BitVec.ofNat 32 wptr)
      |> setReg 0x6020 (BitVec.ofNat 32 fill)
      |> setReg 0x601C (BitVec.ofNat 32 (match recs with | r :: _ => r.1 | [] => wptr))
  else
    { s with tr := tr } |> setReg 0x6018 (BitVec.ofNat 32 wptr) |> setReg 0x6020 (BitVec.ofNat 32 (regF s 0x6020 15 0 + k))

/-- ICLS.TRACE. -/
def traceCls (s : State) : Nat := icls s 5

/-- How far the row writes under way reach: buffered slots before the row they stand in, its ring slot, its slots asked. -/
def traceAsked (s : State) : List Tr → Nat × Nat × Nat → Nat × Nat × Nat
  | [], a => a
  | t :: ts, a =>
    if !t.passed.isEmpty then traceAsked s ts a
    else match t.job with
    | .trace n => traceAsked s ts (if n = ringRowLen s a.2.1 then (a.1 + n, ringNext s a.2.1, 0) else (a.1, a.2.1, n))
    | _ => traceAsked s ts a

/-- R432: ask IW10 for the rows of the write buffer that are full, with `part` for a partial one too; `fuel` bounds them. -/
def askTraceRows (part : Bool) : Nat → State → State
  | 0, s => s
  | fuel + 1, s =>
    let a := traceAsked s s.fr.trs (0, s.tr.wpos, s.tr.wold)
    let len := ringRowLen s a.2.1
    let n := min (s.tr.wbuf.length - a.1) len
    if n ≤ a.2.2 ∨ (n < len ∧ !part) then s
    else
      let b := areaBeat (areaRow s 3 (a.2.1 / 8))
      addTr (exchTr s 204 true (.trace n) (traceCls s)
          (b.store (slotRow s a.2.1 ((s.tr.wbuf.drop a.1).take n)) 0 (BitVec.ofNat 4 (slotEn a.2.2 n)))) s
        |> askTraceRows part fuel

/-- R432: write what stands in the write buffer: its full rows, with `part` all of it. -/
def writeTrace (part : Bool) (s : State) : State := if traceN s = 0 then s else askTraceRows part 4 s

/-- R435: a STOP record the ring does not accept goes into the stop slot, the upper half of the last chunk of the trace area. -/
def writeStopSlot (r : Rec) (s : State) : State :=
  orReg 0x6014 8 { s with tr := { s.tr with stopSlot := r.head } }
    |> addTr (exchTr s 204 true .stopSlot (traceCls s)
        ((areaBeat (areaRow s 3 (traceN s / 8 - 1))).store (BitVec.ofNat 1024 (r.head.toNat <<< 896)) 0 8))

/-- Accept a record into the write buffer; a TRIG record of the window policy starts the post-trigger count, a later record
that reaches it makes the freeze due (R434). -/
def acceptRec (r : Rec) (s : State) : State :=
  let p := wbufPos s s.tr.wbuf.length
  let n := r.raw.length + 1
  let post := s.tr.post.map (· - n)
  let due := isWindow s && (match s.tr.post with | some k => decide (k ≤ n) | none => false)
  let s := { s with tr := { s.tr with
    wbuf := s.tr.wbuf ++ r.slots
    recs := if isWindow s then s.tr.recs ++ [(p, n)] else s.tr.recs
    post := post
    quiet := 0
    freezeDue := s.tr.freezeDue || due } }
  if r.typ = 0xB ∧ isWindow s then
    setReg 0x6024 (BitVec.ofNat 32 (p + 0x10000))
      { s with tr := { s.tr with post := some (tracePost s), freezeDue := s.tr.freezeDue || tracePost s == 0 } }
  else s

/-- The TIME record of kind SYNC that follows a GAP record (R428). -/
def syncRec (s : State) : Rec := mkRec 9 0 0 0 (bits (timeNow s) 63 48) [] 0 s

/-- R434: the window is frozen, or due to freeze. -/
def traceFrozen (s : State) : Bool := isWindow s && (regB s 0x6014 1 || s.tr.freezeDue)

/-- R433: ring slots free for records of the stream policy. -/
def ringFree (s : State) : Nat := ringSlots s - (regF s 0x6020 15 0 + wbufNew s)

/-- R433: the ring takes a record of `n` slots, with a slot for a GAP record while losses are pending. -/
def ringTakes (n : Nat) (s : State) : Bool :=
  if isWindow s then !traceFrozen s else decide (n + b2n (s.tr.lossB.n != 0) ≤ ringFree s)

/-- A record that the trace buffer does not take: a STOP record goes into the stop slot (R435), another is lost, in a frozen window
without a GAP record to come (R434). -/
def refuseRec (r : Rec) (s : State) : State :=
  if r.typ = 6 then writeStopSlot r s else if isWindow s then bump 0x5A50 1 s else loseBuffer r s

/-- R433: the GAP record of the pending losses, with the SYNC record that follows it where the ring has room beside the record
that comes next (`need` slots). -/
def acceptGap (need : Nat) (s : State) : State :=
  if s.tr.lossB.n = 0 then s
  else
    let s := acceptRec (gapRec s.tr.lossB 1 s) { s with tr := { s.tr with lossB := Loss.none, raised := false } } |> clrReg 0x6014 0x20
    if ringTakes (need + 1) s then acceptRec (syncRec s) s else refuseRec (syncRec s) s

/-- R432 to R435: the trace buffer takes a record that leaves the input queue. A GAP or SYNC record ahead of it may complete the
window, which then takes it no more. -/
def bufferRec (r : Rec) (s : State) : State :=
  let n := r.raw.length + 1
  if traceN s = 0 then s
  else if ringTakes n s then
    let s := acceptGap n s
    if traceFrozen s then refuseRec r s else acceptRec r s
  else refuseRec r s

/-- R437: slots of a record into the egress DCQ. -/
def pushEgress (r : Rec) (s : State) : State :=
  let sl := r.slots
  { s with tr := { s.tr with eg := s.tr.eg ++ (sl.zip (List.range sl.length)).map fun (x, i) => (x, i + 1 == sl.length) } }

/-- R437: the GAP record of the egress losses with its SYNC record, ahead of a record of `n` slots. -/
def egressGap (n : Nat) (s : State) : State :=
  if s.tr.lossE.n = 0 then s
  else
    let s := pushEgress (gapRec s.tr.lossE 2 s) { s with tr := { s.tr with lossE := Loss.none, raisedE := false } } |> clrReg 0x6014 0x40
    if s.tr.eg.length + n + 1 ≤ 32 then pushEgress (syncRec s) s else loseEgress (syncRec s) s

/-- R437: the egress copy of a record that leaves the input queue. -/
def egressRec (r : Rec) (s : State) : State :=
  let n := r.raw.length + 1
  if !regB s 0x6000 2 then s
  else if s.tr.eg.length + n + b2n (s.tr.lossE.n != 0) ≤ 32 then egressGap n s |> pushEgress r
  else loseEgress r s

/-- R432: the write buffer has room for a record: for all its slots, or for the first of them while its first row is not yet full, the
others following as that row is written. -/
def wbufRoom (n : Nat) (s : State) : Bool :=
  decide (s.tr.wbuf.length + n ≤ wbufCap s) || decide (s.tr.wbuf.length < ringRowLen s s.tr.wpos)

/-- Records leave the input queue in order (`fuel` bounds their number), with the GAP and SYNC records ahead of them. After a STOP
record the write buffer is written. -/
def drainTrace : Nat → State → State
  | 0, s => s
  | k + 1, s =>
    match s.tr.inq with
    | [] => s
    | r :: rest =>
      if traceN s = 0 ∨ wbufRoom (r.raw.length + 1 + (if s.tr.lossB.n = 0 then 0 else 2)) s then
        let s := { s with tr := { s.tr with inq := rest } } |> egressRec r |> bufferRec r
        drainTrace k (if r.typ = 6 then writeTrace true s else s)
      else s

/-! The commands -/

/-- COLLECT (R430, R432): the records of this CCLK join the input queue, from which records pass on. -/
def execCollect (s : State) : Host.Outcome State Fault Refusal :=
  .next (if inReset s then s
    else
      let g := ordSort (fun a b => decide (recRank a < recRank b)) s.tr.gen
      let u := s.tr.carry
      collectGo g (u, { s with tr := { s.tr with gen := [], carry := 0, quiet := s.tr.quiet + 1 } }) |> drainTrace 64)

/-- TRACE_ROW_WRITE (R432): the full rows of the write buffer ask for their writes through IW10; LMY_TR_WPTR advances with the array
write of each. -/
def execTraceRowWrite (s : State) : Host.Outcome State Fault Refusal := .next (if inReset s then s else writeTrace false s)

/-- TRACE_ROW_TIMEOUT (R432). -/
def execTraceRowTimeout (s : State) : Host.Outcome State Fault Refusal :=
  .next (if !inReset s && decide (256 ≤ s.tr.quiet) then writeTrace true s else s)

/-- TRACE_FREEZE (R434). -/
def execTraceFreeze (s : State) : Host.Outcome State Fault Refusal :=
  .next (if !inReset s && s.tr.freezeDue then
      orReg 0x6014 2 { s with tr := { s.tr with freezeDue := false, post := none } } |> raise 49
    else s)

/-- TRACE_TRIG (R434). -/
def execTraceTrig (a : BusAcc) (s : State) : Host.Outcome State Fault Refusal := .next (busWrite a 0x6010 (traceTrigger 0 0) s)

/-- TRACE_FLUSH (R432). -/
def execTraceFlush (a : BusAcc) (s : State) : Host.Outcome State Fault Refusal := .next (busWrite a 0x6010 (writeTrace true) s)

/-- R434: REARM. -/
def rearmTrace (s : State) : State := clrReg 0x6014 6 { s with tr := { s.tr with post := none, freezeDue := false } }

/-- TRACE_REARM (R434). -/
def execTraceRearm (a : BusAcc) (s : State) : Host.Outcome State Fault Refusal := .next (busWrite a 0x6010 rearmTrace s)

/-- TRACE_SYNC (R428). -/
def execTraceSync (a : BusAcc) (s : State) : Host.Outcome State Fault Refusal := .next (busWrite a 0x6010 (genTime 0 0) s)

/-- R433: a slot index from RPTR to WPTR, going round the ring; under the window policy the register is read only. -/
def writeRptr (w : Word) (s : State) : State :=
  let n := ringSlots s
  let r := regF s 0x601C 15 0
  let fill := regF s 0x6020 15 0
  let d := (bits w.toNat 15 0 + n - r) % n
  let d := if d = 0 ∧ bits w.toNat 15 0 = regF s 0x6018 15 0 ∧ fill = n then n else d
  if isWindow s then s
  else if bits w.toNat 15 0 ≥ n ∨ d > fill then orReg 0x6014 0x80 s
  else setReg 0x601C (BitVec.ofNat 32 (bits w.toNat 15 0)) s |> setReg 0x6020 (BitVec.ofNat 32 (fill - d))

/-- TRACE_RPTR_WRITE (R433). -/
def execTraceRptrWrite (a : BusAcc) (w : Word) (s : State) : Host.Outcome State Fault Refusal :=
  .next (busWrite a 0x601C (writeRptr w) s)

/-- R436: EN goes from 0 to 1. -/
def startTrace (s : State) : State :=
  { s with tr := { s.tr with wbuf := [], wpos := 0, wold := 0, recs := [], lossB := Loss.none, lossE := Loss.none, post := none,
                              raised := false, raisedE := false, quiet := 0, freezeDue := false } }
    |> dropJobs (fun j => match j with | .trace _ => true | _ => false)
    |> forEach [0x6018, 0x601C, 0x6020, 0x6024] (fun o => setReg o 0)
    |> clrReg 0x6014 0x7E
    |> when (traceN s == 0) (orReg 0x6014 0x10)
    |> genTime 0 0

/-- R436: a write of LMY_TR_CTL. -/
def writeTraceCtl (w : Word) (s : State) : State :=
  let v := w &&& 0x37
  let was := regB s 0x6000 0
  if was && (bit w.toNat 1 != regB s 0x6000 1) then orReg 0x6014 0x80 s
  else
    let s := setReg 0x6000 v s
    if !was && bit w.toNat 0 then startTrace s
    else if was && !bit w.toNat 0 then writeTrace true s
    else s

/-- TRACE_ENABLE (R436). -/
def execTraceEnable (a : BusAcc) (w : Word) (s : State) : Host.Outcome State Fault Refusal :=
  .next (busWrite a 0x6000 (writeTraceCtl w) s)

/-- TRACE_DISABLE (R436). -/
def execTraceDisable (a : BusAcc) (w : Word) (s : State) : Host.Outcome State Fault Refusal :=
  .next (busWrite a 0x6000 (writeTraceCtl w) s)

/-- EGRESS_SLOT_TAKEN (R489). -/
def execEgressSlotTaken (s : State) : Host.Outcome State Fault Refusal :=
  .next (if inReset s then s else { s with tr := { s.tr with eg := s.tr.eg.drop 1 } })

end Sys2Proof.Machine
end

