-- ==== Sys2Proof/Machine/Watch.lean ====
section
/-!
DEFINITION. Machine/Watch.lean: tensor watch (R450 to R454).
-/
namespace Sys2Proof.Machine

def wuReg (u : Nat) (k : Nat) : Nat := 0x6A00 + k + 64 * (u % 4)
/-- LMY_WUu_STAT.STATE: 0 IDLE, 1 ARMED, 2 CAPTURING, 3 DONE. -/
def wuState (s : State) (u : Nat) : Nat := regF s (wuReg u 0x1C) 1 0
def watchAt (s : State) (u : Nat) : Watch := NMap.get Watch.idle s.dbg.wu u
def setWatch (u : Nat) (w : Watch) (s : State) : State := { s with dbg := { s.dbg with wu := NMap.set Watch.idle s.dbg.wu u w } }

/-- R453: the context in which a unit's region is checked. -/
def wuCtx (s : State) (u : Nat) : Nat := if watchOwn s u < 8 then 0 else watchOwn s u % 8

/-- R453: the unit is held by a capture, so its configuration is closed. -/
def wuLocked (s : State) (u : Nat) : Bool := wuState s u == 1 || wuState s u == 2

/-- R453: whether an ARM of the configuration is refused. -/
def wuRefuses (s : State) (u : Nat) (cfg : Nat) : Bool :=
  bits cfg 5 4 == 3 || (if watchOwn s u < 8 then bits cfg 11 9 != 0 && !regB s 0x4B04 5 else bits cfg 11 9 != watchOwn s u % 8)

/-- The jobs of a unit's dump region. -/
def isDump (u : Nat) (j : Job) : Bool := match j with | .dump v => v == u | _ => false

/-- Forget what a unit has captured and not yet written. -/
def clearWatch (u : Nat) (s : State) : State := setWatch u Watch.idle s |> dropJobs (isDump u)

/-- R450: back to IDLE. -/
def disarm (u : Nat) (s : State) : State := setRegF (wuReg u 0x1C) 1 0 0 s |> clearWatch u

/-- R450, R453: a write of LMY_WUu_CFG. Of a unit that is held it is ignored and sets WIGN, its DISARM bit alone acts. -/
def writeWuCfg (u : Nat) (w : Word) (s : State) : State :=
  if wuLocked s u then when (bit w.toNat 1) (disarm u) s |> orReg (wuReg u 0x1C) 0x80
  else
    let s := when (bit w.toNat 1) (disarm u) s |> setReg (wuReg u 0) (w &&& 0x000FFFFC)
    if !bit w.toNat 0 then s
    else if wuRefuses s u w.toNat then orReg (wuReg u 0x1C) 0x40 s
    else setReg (wuReg u 0x1C) 1 s |> setReg (wuReg u 0x20) 0 |> setReg (wuReg u 0x24) 0 |> clearWatch u

/-- WATCH_ARM (R450). -/
def execWatchArm (a : BusAcc) (u : BitVec 2) (w : Word) (s : State) : Host.Outcome State Fault Refusal :=
  .next (busWrite a (wuReg u.toNat 0) (writeWuCfg u.toNat w) s)

/-- WATCH_DISARM (R450). -/
def execWatchDisarm (a : BusAcc) (u : BitVec 2) (w : Word) (s : State) : Host.Outcome State Fault Refusal :=
  .next (busWrite a (wuReg u.toNat 0) (writeWuCfg u.toNat w) s)

/-- R453: another register of a unit: ignored while the unit is held. -/
def writeWuReg (u k : Nat) (w : Word) (s : State) : State :=
  if wuLocked s u then orReg (wuReg u 0x1C) 0x80 s else setReg (wuReg u k) (if k = 0x18 then w &&& 0xFFFF else w) s

/-- R453: LMY_WU_OWN: the slots of held units do not change. -/
def writeWuOwn (w : Word) (s : State) : State :=
  forEach (List.range 4) (fun u s =>
    if wuLocked s u then orReg (wuReg u 0x1C) 0x80 s
    else setRegF 0x6B00 (4 * u + 3) (4 * u) (bits w.toNat (4 * u + 3) (4 * u)) s) s

/-- R453: a RELOCK disarms the units that GXWATCH alone allowed. -/
def watchRelock (s : State) : State :=
  forEach (List.range 4) (fun u s => if regF s (wuReg u 0) 11 9 = wuCtx s u then s else disarm u s) s

/-! Matching and tapping -/

/-- What a watch unit sees of a starting slip. -/
structure WatchSlip where
  sid : Nat
  q : Nat
  ctx : Nat
  tag : Nat
  path : Nat
  lanes : List Nat
  drop : Bool
deriving DecidableEq, Repr

/-- R450: an armed unit matches a slip. -/
def wuMatches (s : State) (u : Nat) (x : WatchSlip) : Bool :=
  let cfg := (reg s (wuReg u 0)).toNat
  let tag := (reg s (wuReg u 4)).toNat
  wuState s u == 1 && bits cfg 3 3 == x.path && bits cfg 11 9 == x.ctx
    && ((x.tag ^^^ tag % 65536) &&& (tag / 65536)) == 0
    && (bit cfg 12 || reg s (0x3040 + 4 * x.ctx) == reg s (wuReg u 8))
    && (x.path == 1 || (!x.drop && (bits cfg 19 13 == 0x7F || x.lanes.contains (bits cfg 19 13))))

/-- R450: the units at the start of a slip. -/
def watchMatch (x : WatchSlip) (s : State) : State :=
  forEach (List.range 4) (fun u s =>
    if wuMatches s u x then
      setReg (wuReg u 0x1C) (BitVec.ofNat 32 (2 + 4 + (reg s (wuReg u 0x1C)).toNat % 256 / 8 * 8 + fld x.q 8 + fld x.tag 16)) s
        |> setWatch u { watchAt s u with slip := x.sid + 1 }
        |> when (regB s (wuReg u 0) 8) (raise 54)
    else s) s

/-- R451: the lane a unit watches on PATH 0; `first` is the slip's first valid destination lane. -/
def wuLane (s : State) (u first : Nat) : Nat := if regF s (wuReg u 0) 19 13 = 0x7F then first else regF s (wuReg u 0) 19 13

/-- R451: the capture ends: ARMED again, or DONE with ONCE, then the local halt with STOP (R445). -/
def endCapture (u : Nat) (s : State) : State :=
  let once := regB s (wuReg u 0) 2
  let s := setRegF (wuReg u 0x1C) 1 0 (if once then 3 else 1) s |> setWatch u { watchAt s u with slip := 0 }
  if once && regB s (wuReg u 0) 7 then setRegF 0x6808 6 5 u s |> orReg 0x6808 0x14 else s

/-- R452: a flit for the dump region, as row `n`. -/
def dumpFlit (u n : Nat) (data : Row) (pois : Mask4) (s : State) : State :=
  let st := (reg s (wuReg u 0x1C)).toNat
  if bit st 3 || bit st 4 then s
  else if n ≥ regF s (wuReg u 0x18) 15 0 then orReg (wuReg u 0x1C) 8 s |> raise 55
  else if (watchAt s u).buf.length ≥ 16 then watchLost u s
  else setWatch u { watchAt s u with buf := (watchAt s u).buf ++ [(n, data, pois)] } s

/-- The eight raw slots of a flit. -/
def flitSlots (d : Row) : List (BitVec 128) := (List.range 8).map fun i => BitVec.ofNat 128 (d.toNat >>> (128 * i))

/-- R451: the sequence numbers that a unit taps. -/
def inWindow (s : State) (u seq : Nat) : Bool :=
  let first := (reg s (wuReg u 0xC)).toNat
  let count := (reg s (wuReg u 0x10)).toNat
  decide (first ≤ seq) && (count == 0 || decide (seq < first + count))

/-- R451, R452: flit `seq` of the stream that unit `u` captures passes the tap; `fmt` as delivered; `last` of the slip. -/
def tapFlit (u : Nat) (x : WatchSlip) (seq fmt : Nat) (last : Bool) (data : Row) (pois : Mask4) (s : State) : State :=
  let first := (reg s (wuReg u 0xC)).toNat
  let count := (reg s (wuReg u 0x10)).toNat
  let inWin := inWindow s u seq
  let dest := regF s (wuReg u 0) 5 4
  let n := (reg s (wuReg u 0x20)).toNat
  let s :=
    if inWin then
      setReg (wuReg u 0x20) (BitVec.ofNat 32 (min (n + 1) (2 ^ 32 - 1))) s
        |> when (dest != 1) (fun s => genRec (mkRec 5 x.ctx x.q 2
            (u + fld fmt 2 + fld pois.toNat 6 + fld x.tag 16 + fld (seq % 2 ^ 32) 32) (flitSlots data) u s) true s)
        |> when (dest != 0) (dumpFlit u n data pois)
    else s
  if last || (count != 0 && seq + 1 == first + count) then endCapture u s else s

/-- The capturing units of a slip on a path. -/
def capturing (s : State) (sid path : Nat) : List Nat :=
  (List.range 4).filter fun u => (watchAt s u).slip == sid + 1 && regF s (wuReg u 0) 3 3 == path

/-- R451, PATH 0: a flit enters the landing buffer of a lane. -/
def watchRead (x : WatchSlip) (lane seq fmt : Nat) (last : Bool) (data : Row) (pois : Mask4) (s : State) : State :=
  forEach (capturing s x.sid 0) (fun u s =>
    if wuLane s u (listGet 0 x.lanes 0) = lane then tapFlit u x seq fmt last data pois s else s) s

/-- R451, PATH 1: a stored row; chunks not enabled are copied as 0x00. -/
def watchStore (x : WatchSlip) (seq fmt : Nat) (last : Bool) (data : Row) (pois en : Mask4) (s : State) : State :=
  let d := rowOf ((List.range 4).map fun c => if en.getLsbD c then rowChunk data c else 0)
  forEach (capturing s x.sid 1) (fun u => tapFlit u x seq fmt last d (pois &&& en)) s

/-- R451: a slip is gone: units that still capture it end their capture. -/
def watchRelease (sid : Nat) (s : State) : State :=
  forEach ((List.range 4).filter fun u => (watchAt s u).slip == sid + 1) endCapture s

/-! The dump region -/

/-- R79, R453: the beat of row `n` of a unit's region. -/
def regionBeat (s : State) (u n : Nat) (store : Bool) : Beat :=
  let v := (reg s (wuReg u 0x14)).toNat
  if !vaOk v then { genBeat with bad := 1, off := vaOff v + 128 * n } else mkBeat s (wuCtx s u) v ((vaOff v + 128 * n : Nat) : Int) store

/-- R452, R454: a transfer between a unit's region and its port, checked in the unit's context. -/
def regionTr (s : State) (u req : Nat) (store : Bool) (job : Job) (b : Beat) : Tr :=
  { exchTr s req store job (icls s 6) b with ctx := wuCtx s u, view := (reg s (wuReg u 0x14)).toNat }

/-- R452: buffered flits of a unit whose row writes are asked. -/
def dumpAsked (s : State) (u : Nat) : Nat := (s.fr.trs.filter fun t => isDump u t.job && t.passed.isEmpty).length

/-- R452: the unit IW11 serves next, in round-robin order. -/
def dumpNext (s : State) : Option Nat :=
  ((List.range 4).map fun i => (s.dbg.wrr + i) % 4).find? fun u => decide (dumpAsked s u < (watchAt s u).buf.length)

/-- R452: IW11 asks for the row of the next buffered flit. -/
def askDump (s : State) : State :=
  if portBusy s 205 then s
  else match dumpNext s with
    | none => s
    | some u => match (watchAt s u).buf[dumpAsked s u]? with
      | none => s
      | some (n, data, pois) =>
        addTr (regionTr s u 205 true (.dump u) ((regionBeat s u n true).store data pois 0xF)) { s with dbg := { s.dbg with wrr := (u + 1) % 4 } }

/-- R452: a dumped row has reached the array, or has failed its check. -/
def dumped (u : Nat) (failed : Bool) (s : State) : State :=
  if failed then clearWatch u s |> setWatch u { watchAt s u with buf := [] } |> orReg (wuReg u 0x1C) 0x10 |> raise 55
  else setWatch u { watchAt s u with buf := (watchAt s u).buf.drop 1 } s

/-- R454: a write of LMY_WU_RDADDR at a privilege level: IR18 asks for the row. -/
def writeRdaddr (l : Nat) (w : Word) (s : State) : State :=
  let u := bits w.toNat 1 0
  let r := bits w.toNat 31 16
  if (l ≠ 0 ∧ watchOwn s u ≠ 8 + l) ∨ r ≥ regF s (wuReg u 0x18) 15 0 ∨ s.dbg.wrd.isSome then orReg 0x6B14 4 s
  else
    addTr (regionTr s u 192 false .dumpRd (regionBeat s u r false)) { s with dbg := { s.dbg with wrd := some (u, r) } }
      |> setReg 0x6B10 (w &&& 0xFFFF0003) |> setRegF 0x6B14 1 0 1

/-- WATCH_READOUT (R454). -/
def execWatchReadout (a : BusAcc) (w : Word) (s : State) : Host.Outcome State Fault Refusal :=
  .next (busWrite a 0x6B10 (writeRdaddr (lvl a) w) s)

/-- A row into 32 data registers from offset `o`. -/
def setRowRegs (o : Nat) (d : Row) (s : State) : State := setRegs o (wordsOf d.toNat 32) s

/-- The row that a readout has brought: zeros, all poisoned, where it reached no bank. -/
def Beat.flit (b : Beat) : Row × Mask4 := if b.bad = 0 then (b.data, b.pois) else (0, 0xF)

/-- The transfer of a readout, once its row has been read or fails its check. -/
def readoutOf (s : State) (j : Job) : Option (Tr × Beat) :=
  match s.fr.trs.find? fun t => t.job == j && !t.passed.isEmpty with
  | some t => t.beats.head?.map fun b => (t, b)
  | none => none

def dropTr (id : Nat) (s : State) : State := { s with fr := { s.fr with trs := s.fr.trs.filter fun u => u.id != id } }

/-- R454: the row has been read. -/
def finishReadout (r : Row × Mask4) (s : State) : State :=
  setRowRegs 0x6B80 r.1 { s with dbg := { s.dbg with wrd := none } } |> setRegF 0x6B14 1 0 2 |> setRegF 0x6B14 7 4 r.2.toNat

/-- WATCH_READOUT_DONE (R454): the row that IR18 has read arrives. -/
def execWatchReadoutDone (s : State) : Host.Outcome State Fault Refusal :=
  .next (if inReset s then s
    else match readoutOf s .dumpRd with
      | some (t, b) => dropTr t.id s |> finishReadout b.flit
      | none => s)

end Sys2Proof.Machine
end

