-- ==== Sys2Proof/Machine/Flags.lean ====
section
/-!
DEFINITION. Machine/Flags.lean: what a slip's work raises beside its data: conversion and blend flags (R167, R196), address faults
(R80, R282), parity (R91, R193), progress (R284), beats counted (R248, R254, R418), begin and end postmarks (R428).
-/
namespace Sys2Proof.Machine

/-- R167: conversion flags of a slip, ORed into its context's register and its end postmark. -/
def raiseCvt (x : Slip) (f : Nat) (s : State) : State :=
  orReg (0x1A00 + 4 * (sCtx x.words % 8)) f s |> updSlip x.sid fun y => { y with cvf := y.cvf ||| f }

/-- R196: blend flags. -/
def raiseBlend (x : Slip) (f : Nat) (s : State) : State :=
  orReg (0x2040 + 4 * (sCtx x.words % 8)) f s |> updSlip x.sid fun y => { y with blf := y.blf ||| f }

def queueOf (s : State) (q : Nat) : SlipQ := NMap.get SlipQ.empty s.sq.q q
def setQueue (q : Nat) (x : SlipQ) (s : State) : State := { s with sq := { s.sq with q := NMap.set SlipQ.empty s.sq.q q x } }
def updQueue (q : Nat) (f : SlipQ → SlipQ) (s : State) : State := setQueue q (f (queueOf s q)) s

/-- R284: the queue makes progress. -/
def progress (q : Nat) (s : State) : State := updQueue q (fun x => { x with quiet := 0, wdog := false }) s

/-- R80, R282: raise the cause of a faulting row of a slip once, and mark the slip. -/
def slipRaise (sid kind : Nat) (s : State) : State :=
  match slipOf s sid with
  | none => s
  | some x =>
    let seen := if kind = 0 then x.ev57 else x.ev56
    let s := updSlip sid (fun y => if kind = 0 then { y with fault := true, ev57 := true } else { y with fault := true, ev56 := true }) s
    if seen then s else raise (faultCause kind) s

/-- R80: a row of a slip fails a check. -/
def slipFault (x : Slip) (kind v : Nat) (off : Int) (store : Bool) (s : State) : State :=
  faultRow kind (sCtx x.words) (listGet 15 (sClients x.words) 0) v off store (some x.q) s |> slipRaise x.sid kind

/-- R254, R418: one beat performed at a bank port at a class, for a context where it has one; beats at a bank that serves no logical
bank have no LMY_CNT_ARB_GRANT. -/
def countBeat (lb cls : Nat) (ctx : Option Nat) (s : State) : State :=
  when (decide (plainBank lb < 96)) (xbump (1024 + 8 * plainBank lb + cls) 1) s
    |> fun s => match ctx with | some c => bump (0x57A8 + 0x40 * (c % 8)) 1 s | none => s

/-- R91: the check points at which a flit fails parity: the first failing stage and its chunks. A flit that fails at more than one
is counted and logged once, at the first (DESIGN CHOICE, log entry 81). -/
def parityStage (p : Parity) : Option (Nat × Mask4) :=
  if p.mid ≠ 0 then some (0, p.mid) else if p.egr ≠ 0 then some (1, p.egr) else if p.out ≠ 0 then some (2, p.out) else none

/-- No parity error. -/
def noParity : Parity := ⟨0, 0, 0, 0⟩

/-- R97: the plane named for a leg can be its own: it is in service, and no other leg that crosses in the cycle and shares a switch
with this one has it. `c` is the leg with that plane. -/
def planeFits (s : State) (c : Crossing) : Bool :=
  planeActive s c.write c.plane && s.fr.planes.all fun d =>
    d.write != c.write || d.cyc != c.cyc || (d.ingr != c.ingr && d.egr != c.egr)
      || (if d.tr = c.tr ∧ d.ingr = c.ingr ∧ d.egr = c.egr then d.plane == c.plane else d.plane != c.plane)

/-- R97: the errors a flit meets on a leg, none where the plane they name cannot be the leg's (log entry 82). -/
def legParity (s : State) (c : Crossing) (p : Parity) : Parity :=
  if (parityStage p).isSome && planeFits s c then p else noParity

/-- R97: keep the plane that an error has named for a leg. -/
def markPlane (c : Crossing) (p : Parity) (s : State) : State :=
  if p = noParity then s else { s with fr := { s.fr with planes := c :: s.fr.planes.filter fun d => decide (s.cyc < d.cyc + 32) } }

/-- R91, R462: a flit of a network (true: write) meets parity errors. -/
def netParity (write : Bool) (p : Parity) (src dst : Nat) (s : State) : State :=
  match parityStage p with
  | none => s
  | some (st, m) =>
    (if write then bump 0x59C8 1 s else bump 0x59C0 1 s)
      |> fillLog 0x1810 (fld (b2n write) 2 + fld p.plane.toNat 4 + fld st 9 + fld m.toNat 12) (src + fld dst 8)
      |> raise 12 |> fwdParity (if write then 2 else 1) p.plane.toNat

/-- R91: the chunks a flit's parity errors poison. -/
def parityMask (p : Parity) : Mask4 := p.mid ||| p.egr ||| p.out

/-- R193: a parity error in the buffers of a blend cluster. -/
def blendParity (c : Nat) (s : State) : State := bump (0x5A00 + 8 * (c % 9)) 1 s |> raise 13 |> fwdParity 3 c

/-- R417, R428: the lane a slip's begin postmark names. -/
def sbeginLane (w : BitVec 512) : Nat :=
  if isREAD w || isHELD w then listGet 0x7F (sRlanes w) 0 else if hasWrite w then sWlane w else 0x7F

/-- R260, R429: a slip's begin and end postmarks are wanted: LMY_TR_CTL.SLIPS 0 for no slip, 2 for every one, else for those with
TRC 1. -/
def slipTraced (s : State) (w : BitVec 512) : Bool :=
  match regF s 0x6000 5 4 with
  | 0 => false
  | 2 => true
  | _ => sTrc w

/-- LMY_CNT_CCLK, which counts through a halt. -/
def cclkNow (s : State) : Nat := (NMap.get 0 s.cnt 0x59F8).toNat

/-- R428: the begin postmark of a slip that does not end in its start cycle. -/
def sbegin (x : Slip) (s : State) : State :=
  when (slipTraced s x.words) (genRec (mkRec 1 (sCtx x.words) x.q 0
    (sType x.words + fld x.ent 4 + fld (sbeginLane x.words) 9 + fld (sTag x.words) 16 + fld x.step 32) [] 0 s) true) s

/-- Every flit of the slip has left its last CCLK stage on every destination lane. -/
def flitsOut (x : Slip) : Bool :=
  (isMOVE x.words || !(hasRead x.words || isATOMIC x.words) || (sRlanes x.words).all fun l =>
    decide (sFlits x.words ≤ (slane x l).out)) || (x.cancel && (match x.held with | some h => !h.flush | none => true))

/-- R428: the end postmark of a slip, once it has ended and its last flit has left. -/
def maybeSend (sid : Nat) (s : State) : State :=
  match slipOf s sid with
  | none => s
  | some x =>
    if x.ended && flitsOut x && !x.sent then
      updSlip sid (fun y => { y with sent := true }) s
        |> when (slipTraced s x.words) (genRec (mkRec 2 (sCtx x.words) x.q 0
          (sType x.words + fld x.ent 4 + fld (b2n x.fault) 9 + fld (b2n x.cancel) 10 + fld x.blf 11 + fld x.cvf 16
            + fld (sTag x.words) 24 + fld (min ((cclkNow s + 2 ^ 56 - x.start) % 2 ^ 56) 0xFFFFFF) 40) [] 0 s) true)
    else s

/-- R271: the engine (or the block, under DROP) has consumed every flit of the slip. -/
def flitsTaken (x : Slip) : Bool :=
  (isMOVE x.words || (sRlanes x.words).all fun l =>
    decide (sFlits x.words ≤ (slane x l).taken)) || (x.cancel && (match x.held with
      | some h => !h.flush && (sRlanes x.words).all fun l => decide ((slane x l).out ≤ (slane x l).taken)
      | none => true))

/-- R271: every flit has entered its DCQ or was discarded. -/
def flitsDelivered (x : Slip) : Bool :=
  (isMOVE x.words || (sRlanes x.words).all fun l =>
    decide (sFlits x.words ≤ (slane x l).dcq)) || (x.cancel && (match x.held with
      | some h => !h.flush && (sRlanes x.words).all fun l => decide ((slane x l).out ≤ (slane x l).dcq)
      | none => true))

end Sys2Proof.Machine
end

