-- ==== Sys2Proof/Machine/Deliver.lean ====
section
/-!
DEFINITION. Machine/Deliver.lean: the read path behind the banks (R93): merge, conversion and blend of a slip's stream, landing, and
the flits of own requests, atomic return rows and results.
-/
namespace Sys2Proof.Machine

/-! Parameter sets, tables, descriptors -/

def psWord (s : State) (n : Nat) : Nat → Nat := fun w => (NMap.get 0 s.tb.ps (16 * n + w)).toNat
def progWord (s : State) : Nat → Nat → Nat := fun t w => (NMap.get 0 s.tb.act (776 * t + w)).toNat
def ptDesc (s : State) : Nat → Nat → Nat := fun e p => (NMap.get 0 s.tb.pt (64 * e + p)).toNat

/-! Side operands (R181 to R186) -/

def cvtOf (x : Slip) : Cvt :=
  ⟨sSfmt x.words, sDfmt x.words, sRnd x.words, sFtz x.words, sSatinf x.words, x.seed, sSalt x.words, sTag x.words⟩

/-- R136, R148: conversion is a copy. -/
def isCopy (x : Slip) : Bool :=
  sSfmt x.words == sDfmt x.words && (!isMX (sSfmt x.words) || !hasRead x.words || x.bp)

/-- The blend reads side rows: a side tensor or a scale plane at SIDE0. -/
def usesSide (w : BitVec 512) : Bool := sBlendEn w && (blendUsesT (sBlendId w) || blendUsesDeq (sBlendId w))

/-- R182, R184: stream elements that one side row serves. -/
def sideEls (s : State) (w : BitVec 512) : Nat :=
  if blendUsesDeq (sBlendId w) then 4096 else nf (psS0fmt (psWord s (sPset w)))

/-- Side rows of one lane's stream; flits discarded at the lane output register meet no blend (R274). -/
def sideTotal (s : State) (w : BitVec 512) : Nat := if usesSide w && !sDrop w then cdiv (sElems w) (sideEls s w) else 0

/-- OFFSET of side row `j`. -/
def sideOff (s : State) (w : BitVec 512) (j : Nat) : Int :=
  (vaOff (sSide0 w) + 128 * j * (if blendUsesDeq (sBlendId w) then 1 else psSstr (psWord s (sPset w))) : Nat)

/-! Vectors (R183, R186) -/

/-- Bytes of an element of VFMT. -/
def vecBytes (f : Nat) : Nat := if f = 1 then 4 else 2

/-- R183: V. -/
def vecRows (s : State) (w : BitVec 512) : Nat :=
  let ps := psWord s (sPset w)
  cdiv (psC ps * vecBytes (psVfmt ps)) 128

/-- R183: rows that the vectors of a slip's blend take in a slot, s before b. -/
def vecTotal (s : State) (w : BitVec 512) : Nat := vecRows s w * (b2n (blendUsesS (sBlendId w)) + b2n (blendUsesB (sBlendId w)))

/-- R183, R186: the F32 entry `i` of a vector from its rows, with its mark. -/
def vecEl (s : State) (w : BitVec 512) (rows : List Flit) (i : Nat) : Nat × Bool :=
  let f := psVfmt (psWord s (sPset w))
  let n := vecBytes f
  let r := listGet Flit.dead rows (i / (128 / n))
  let o := i % (128 / n) * (8 * n)
  (enc32 (decFloat (ffmt f) (bits r.data.toNat (o + 8 * n - 1) o)), r.pois.getLsbD (o / 256))

/-- The blend stream of a slip on a lane: that of the lane on the read path, its one stream on the write path. -/
def streamOf (x : Slip) (l : Nat) : SLane := if isWRITE x.words then x.skey else slane x l
def setStream (l : Nat) (y : SLane) (x : Slip) : Slip := if isWRITE x.words then { x with skey := y } else setSlane l y x

/-- The side row of index `j` of a stream, among those held ahead. -/
def sideRow (y : SLane) (j : Nat) : Option Flit :=
  if j < y.sideN - y.side.length then none else y.side[j - (y.sideN - y.side.length)]?

/-- R205: the line of element `k` of a redelivery stream. -/
def lineOf (w : BitVec 512) (k : Nat) : Nat := k / (hLrows w / sK w * sM w * sNS w)

/-- The side values of stream element `k` (R181 to R186, R219). -/
def sideAt (s : State) (x : Slip) (y : SLane) (k : Nat) : Side :=
  let w := x.words
  let ps := psWord s (sPset w)
  let ch := k / psCdiv ps % psC ps
  let sv := if blendUsesS (sBlendId w) then vecEl s w y.vec ch else (0, false)
  let bv := if blendUsesB (sBlendId w) then vecEl s w (y.vec.drop (vecTotal s w - vecRows s w)) ch else (0, false)
  let st : List Nat × Bool := match x.held with
    | some h => (NMap.get none h.stats (lineOf w k)).getD ([], false)
    | none => ([], false)
  let sd : Side := ⟨sv.1, sv.2, bv.1, bv.2, vzero false, false, 0x7F, false, st.1, st.2⟩
  if !usesSide w then sd
  else
    let row := (sideRow y (k / sideEls s w)).getD Flit.dead
    if blendUsesDeq (sBlendId w) then
      let b := k / 32 % 128
      { sd with deq := rowByte row.data b, deqPois := bit row.pois.toNat (b / 32) }
    else
      let f := psS0fmt ps
      let i := k % nf f
      let o := elOff f i
      { sd with t := decFloat (ffmt f) (bits row.data.toNat (o + elBits f - 1) o), tPois := chunkPois row.pois.toNat o (elBits f) }

/-- R174, R186: blend the elements of one flit, from ordinal `k`: the flit and its flags. -/
def blendFlit (s : State) (x : Slip) (y : SLane) (k : Nat) (d : DFlit) : DFlit × Nat :=
  let cf := sCF x.words
  let id := sBlendId x.words
  let out := (List.range d.n).map fun i =>
    let sd := sideAt s x y (k + i)
    let o := elOff cf i
    let r := blendEl cf (psWord s (sPset x.words)) (progWord s) sd id (bits d.data.toNat (o + elBits cf - 1) o)
    (r.1, r.2, chunkPois d.pois.toNat o (elBits cf) || sidePois id sd)
  (⟨BitVec.ofNat 1024 (packEls cf (out.map (·.1))), BitVec.ofNat 4 (packPois cf (out.map (·.2.2))), d.scales, d.n⟩,
   out.foldl (fun f r => f ||| r.2.1) 0)

/-- R185: the side rows that elements `k` to `k + n − 1` need are held. -/
def sideHere (s : State) (x : Slip) (y : SLane) (k n : Nat) : Bool :=
  !usesSide x.words || n == 0 || (List.range ((k + n - 1) / sideEls s x.words + 1 - k / sideEls s x.words)).all fun i =>
    (sideRow y (k / sideEls s x.words + i)).isSome

/-- Drop the side rows that elements before ordinal `k` alone needed. -/
def dropSide (s : State) (x : Slip) (k : Nat) (y : SLane) : SLane :=
  if usesSide x.words then { y with side := y.side.drop (k / sideEls s x.words - (y.sideN - y.side.length)) } else y

/-- R190: release a slip's slots of a lane. -/
def freeSlots (sid l : Nat) (s : State) : State :=
  match slipOf s sid with
  | none => s
  | some x =>
    let mine := (x.slots.filter fun p => p.1 == l).map (·.2)
    updSlip sid (fun y => { y with slots := y.slots.filter fun p => p.1 != l })
      { s with bl := { s.bl with slot := s.bl.slot.filter fun e => !(mine.contains e.1) } }

/-- The cluster that blends a lane of a slip. -/
def clusterOf (x : Slip) (l : Nat) : Option Nat := (x.slots.find? fun p => p.1 == l).map (fun p => p.2 / 4)

/-! Emission -/

/-- R103: the sideband of a read flit. -/
def sideband (pois ctx : Nat) (last : Bool) (tag fmt : Nat) (scales : List Nat) (own : Bool) : BitVec 104 :=
  BitVec.ofNat 104 (pois + fld ctx 4 + fld (b2n last) 7 + fld tag 8 + fld fmt 24 + fld scales.length 28 + fld (ofBytes scales) 32
    + fld (b2n own) 96)

/-- R110: a flit enters the landing buffer. -/
def land (l : Nat) (f : OutFlit) (s : State) : State := updRlane l (fun x => { x with landing := x.landing ++ [f] }) s

def watchView (x : Slip) (path : Nat) : WatchSlip :=
  ⟨x.sid, x.q, sCtx x.words, sTag x.words, path, if path = 0 then sRlanes x.words else [sWlane x.words], sDrop x.words⟩

/-- R278: a MOVE's flit turns into the staging buffer of its write lane. -/
def stageMove (x : Slip) (last : Bool) (d : DFlit) (s : State) : State :=
  updWlane (sWlane x.words) (fun w => { w with staging := w.staging ++
    [⟨d.data, BitVec.ofNat 4 (streamEnables (sDfmt x.words) d.n), d.pois, d.scales, last⟩] }) s
    |> updSlip x.sid fun y => { y with fin := y.fin + 1 }

/-- R93, R169, R278: one flit of the converted stream of a slip leaves for a lane: blend, then landing or staging. -/
def emitFlit (sid l : Nat) (blpar : Mask4) (d : DFlit) (s : State) : State :=
  match slipOf s sid with
  | none => s
  | some x =>
    let w := x.words
    let y := slane x l
    let en := sBlendEn w
    let r := if en then blendFlit s x y y.kd d else (d, 0)
    let d := if en && blpar ≠ 0 then { r.1 with pois := r.1.pois ||| blpar } else r.1
    let last := y.out + 1 == sFlits w
    let s := when en (raiseBlend x r.2) s |> estimate 8 (if en then (blendStages (sBlendId w)).length else 0)
      |> when (en && blpar ≠ 0) (fun s => match clusterOf x l with | some c => blendParity c s | none => s)
      |> updSlip sid (setSlane l (dropSide s x (y.kd + d.n) { y with out := y.out + 1, kd := y.kd + d.n }))
      |> estimate 4 1 |> when (en && last) (freeSlots sid l)
    if isMOVE w then stageMove x last d s
    else
      watchRead (watchView x 0) l y.out (sDfmt w) last d.data d.pois
        (land l ⟨d.data, sideband d.pois.toNat (sCtx w) last (sTag w) (sDfmt w)
            (if sScaledlv w then d.scales.map (·.1) else []) false, 0, sid + 1, 0⟩ s)

/-! Scale rows (R82, R83) -/

/-- R82: OFFSET of the scales of an element row at `off`, for element base and scale base. -/
def scaleOff (code : Nat) (base sbase : Nat) (off : Int) : Int := (vaOff sbase : Int) + (off - (vaOff base : Int)) / 128 * (mxG code : Int)

/-- The view OFFSET of the first scale byte of source row `i`. -/
def scaleAt (w : BitVec 512) (i : Nat) : Int := scaleOff (sSfmt w) (sw w 1) (sSrcScale w) (sRowOff w i)

/-- R83: the scale rows that source row `i` needs; a group that straddles two costs both. -/
def scaleRows (w : BitVec 512) (i : Nat) : List Int :=
  let a := scaleAt w i / 128 * 128
  let b := (scaleAt w i + (mxG (sSfmt w) : Int) - 1) / 128 * 128
  if a = b then [a] else [a, b]

/-- The scales at `o` from the scale rows that hold them. -/
def scaleBytes (rows : List ScaleRow) (o : Int) (n : Nat) : List (Nat × Bool) :=
  (List.range n).map fun (j : Nat) =>
    let p : Int := o + (j : Int)
    match rows.find? fun r => decide (r.off ≤ p) && decide (p < r.off + 128) with
    | some r => let k := (p - r.off).toNat; (rowByte r.data k, r.pois.getLsbD (k / 32))
    | none => (0xFF, true)

/-- The scale rows held from the next one at `a` on. -/
def rowsFrom (a : Int) (l : List ScaleRow) : List ScaleRow := l.dropWhile fun r => r.off != a

/-- The rows at the offsets of a list, in stream order; none while one has not arrived. -/
def pickRows : List Int → List ScaleRow → Option (List ScaleRow)
  | [], _ => some []
  | a :: as, l =>
    match rowsFrom a l with
    | [] => none
    | r :: rest => (pickRows as rest).map fun rs => r :: rs

/-- R83: the scales of the source row that a lane takes next, none while they have not arrived. -/
def headScales (x : Slip) (y : SLane) : Option (List (Nat × Bool)) :=
  if isMX (sSfmt x.words) then
    (pickRows (scaleRows x.words y.scI) y.sc).map fun rs => scaleBytes rs (scaleAt x.words y.scI) (mxG (sSfmt x.words))
  else some []

/-- One more source row's scales are used; the scale rows behind it stay while its merge group fills (`keep`). -/
def useScales (w : BitVec 512) (keep : Bool) (y : SLane) : SLane :=
  { y with scI := y.scI + 1, sc := if keep then y.sc else rowsFrom (listGet 0 (scaleRows w y.scI) 0) y.sc }

/-! The stream of one lane -/

/-- R165: block scales of a partial last flit: 0x7F for the blocks it does not hold. -/
def padScales (code : Nat) (l : List (Nat × Bool)) : List (Nat × Bool) :=
  if isMX code then l ++ List.replicate (mxG code - l.length) (0x7F, false) else l

/-- R160: destination flits of the elements that wait for conversion, with the flags and what still waits (`fuel` bounds the
flits); the last flit of the stream may be partial. -/
def convertGo (c : Cvt) (nd : Nat) (final : Bool) : Nat → Nat → List SrcEl → List DFlit × Nat × List SrcEl
  | 0, _, buf => ([], 0, buf)
  | fuel + 1, k, buf =>
    if buf.length ≥ nd || (final && !buf.isEmpty) then
      let n := min nd buf.length
      let f := convFlit c k (buf.take n)
      let r := convertGo c nd final fuel (k + n) (buf.drop n)
      (⟨BitVec.ofNat 1024 f.data, BitVec.ofNat 4 f.pois, padScales c.dfmt f.scales, n⟩ :: r.1, f.flags ||| r.2.1, r.2.2)
    else ([], 0, buf)

/-- R126 to R137, R159, R160: source flit `f` joins its group on a lane; the destination flits that this completes, their flags,
and the lane. A copy delivers the bytes 120 to 127 of an F6 flit as stored, under R148 (DESIGN CHOICE, log entry 81). -/
def mergeConvert (s : State) (x : Slip) (y : SLane) (f : Flit) : List DFlit × Nat × SLane :=
  let w := x.words
  let grp := y.grp ++ [f]
  if grp.length < sK w then ([], 0, { y with grp := grp })
  else
    let outs := (List.range (sM w)).map (mergeFlit (sPerm w) (sSfmt w) (ptDesc s) grp)
    let k := y.k + sM w * sNS w
    if isCopy x then (outs.map fun o => ⟨o.flit.data, o.flit.pois, o.flit.scales, sND w⟩, 0, { y with grp := [], k := k })
    else
      let buf := y.buf ++ outs.foldr (fun o acc => o.els ++ acc) []
      let r := convertGo (cvtOf x) (sND w) (decide (sElems w ≤ k)) 64 (k - buf.length) buf
      (r.1, r.2.1, { y with grp := [], k := k, buf := r.2.2 })

/-- R274: a source flit of a slip with DROP is discarded at the lane output register. -/
def discardFlit (x : Slip) (l : Nat) (s : State) : State :=
  let w := x.words
  let y := slane x l
  let y' := useScales w false { y with k := y.k + 1 }
  let all := decide (sRows w ≤ y'.k)
  updSlip x.sid (setSlane l (if all then { y' with out := sFlits w, dcq := sFlits w, taken := sFlits w } else y')) s
    |> progress x.q |> estimate 4 1 |> when all (freeSlots x.sid l) |> maybeSend x.sid

/-- One source flit of a slip's read enters the lane's merge and conversion stages; none: it waits for its scales (R83). The
destination flits it completes wait at the lane's output, in the conversion buffer of R160. -/
def passSlip (x : Slip) (l : Nat) (f : Row × Mask4) (s : State) : Option State :=
  let w := x.words
  let y := slane x l
  match headScales x y with
  | none => none
  | some sc =>
    if sDrop w then some (discardFlit x l s)
    else
      let r := mergeConvert s x y ⟨f.1, f.2, sc⟩
      let y' := useScales w (!r.2.2.grp.isEmpty) { r.2.2 with wait := y.wait ++ r.1 }
      some (updSlip x.sid (setSlane l y') s |> raiseCvt x r.2.1
        |> estimate 6 (if pMode (sPerm w) = 0 ∨ y.grp.length + 1 < sK w then 0 else sM w)
        |> estimate 7 (if isCopy x then 0 else r.1.length)
        |> when (!y'.wait.isEmpty) (updRlane l fun z => { z with cur := x.sid + 1 }))

/-- R160, R185: the next converted flit that waits at a lane's output leaves, once the side rows it meets are held; none: it
waits, or there is none. -/
def emitNext (l : Nat) (blpar : Mask4) (s : State) : Option State :=
  match slipOf s ((rlane s l).cur - 1) with
  | none => none
  | some x =>
    let y := slane x l
    match y.wait with
    | [] => none
    | d :: rest =>
      if (rlane s l).cur = 0 ∨ !sideHere s x y y.kd d.n then none
      else some (updSlip x.sid (setSlane l { y with wait := rest }) s
        |> when rest.isEmpty (updRlane l fun z => { z with cur := 0 })
        |> emitFlit x.sid l blpar d |> maybeSend x.sid)

/-- R226: a generated flit of a cancelled HELD slip enters at the end of the path. -/
def passFlush (x : Slip) (l : Nat) (s : State) : State :=
  let y := slane x l
  let last := y.out + 1 == sFlits x.words
  updSlip x.sid (setSlane l { y with out := y.out + 1 }) s |> estimate 4 1
    |> land l ⟨0, sideband 0xF (sCtx x.words) last (sTag x.words) (sDfmt x.words) [] false, 0, x.sid + 1, 0⟩
    |> watchRead (watchView x 0) l y.out (sDfmt x.words) last 0 0xF |> maybeSend x.sid

/-- R103, R328: a flit of an own request, a refused request or a result send. -/
def passOwn (t : Tr) (l n : Nat) (f : Row × Mask4) (s : State) : State :=
  let rsb := NMap.get 0 s.rx.res t.id
  let last := if rsb = 0 then n + 1 == t.beats.length else t.last
  land l ⟨f.1, sideband f.2.toNat t.ctx last (if rsb = 0 then 0 else t.grps) 0 [] true, rsb, 0, t.g0⟩
    { s with rx := { s.rx with res := NMap.set 0 s.rx.res t.id 0 } } |> estimate 4 1

/-- R42, R103: the return row of an ATOMIC slip. -/
def passReturn (x : Slip) (l : Nat) (f : Row × Mask4) (s : State) : State :=
  let y := slane x l
  let last := y.out + 1 == sFlits x.words
  updSlip x.sid (setSlane l { y with out := y.out + 1 }) s |> estimate 4 1
    |> land l ⟨f.1, sideband f.2.toNat (sCtx x.words) last (sTag x.words) (sDfmt x.words) [] false, 0, x.sid + 1, 0⟩
    |> watchRead (watchView x 0) l y.out (sDfmt x.words) last f.1 f.2 |> maybeSend x.sid

/-- The flit of beat `n` of a transfer may reach a lane's output register. -/
def beatReady (s : State) (t : Tr) (n : Nat) : Bool :=
  match t.beats[n]? with
  | some b => if b.bad = 0 then b.have_ else t.granted && decide (t.gcyc + t.offs + n ≤ s.cyc)
  | none => false

/-- A beat has passed a lane: the transfer leaves the lane's order after its last. -/
def beatPassed (t : Tr) (l n : Nat) (s : State) : State :=
  setTr { t with passed := NMap.set 0 t.passed l (n + 1) } s
    |> when (decide (t.beats.length ≤ n + 1)) (updRlane l fun x => { x with order := x.order.drop 1 })

/-- The flit that beat `b` of a transfer brings to a lane: what was read, or of a row that was not accessed 0x00 bytes, all
poisoned (R55, R80, R109). -/
def beatFlit (b : Beat) (m : Mask4) : Row × Mask4 := if b.bad = 0 then (b.data, b.pois ||| m) else (0, 0xF)

/-- The next beat of the lane's first transfer passes the lane. -/
def passBeat (lane : Nat) (t : Tr) (n : Nat) (par : Parity) (blpar : Mask4) (s : State) : Option State :=
  let b := t.beats[n]?.getD genBeat
  let live := b.bad == 0
  let port := 2 * pbankOf s b.bank + b2n ((t.ports.find? fun p => p.1 == b.bank).any (·.2))
  let leg : Crossing := ⟨false, t.id, t.gcyc + t.offs + n, pbankOf s b.bank / 4, lane / 5, par.plane.toNat⟩
  let par := if live then legParity s leg par else noParity
  let f := beatFlit b (parityMask par)
  let s := netParity false par port lane (markPlane leg par s)
  if t.slip = 0 then some (passOwn t lane n f s |> beatPassed t lane n)
  else match slipOf s (t.slip - 1) with
    | none => none
    | some x =>
      if b.bad = 6 ∧ isHELD x.words then some (passFlush x lane s |> beatPassed t lane n)
      else if t.kind = .at then some (passReturn x lane f s |> beatPassed t lane n)
      else (passSlip x lane f s).map fun s => let s := beatPassed t lane n s; (emitNext lane blpar s).getD s

/-- READ_FLIT_OUTPUT (R93, R110, R113, R160): the next flit leaves a lane: one that waits in its conversion buffer, else that of the
next beat of its first transfer. It waits while the landing buffer's 24 places do not hold what it delivers. -/
def execReadFlitOutput (lane : Nat) (par : Parity) (blpar : Mask4) (s : State) : Host.Outcome State Fault Refusal :=
  .next (
    let r := if (rlane s lane).cur ≠ 0 then emitNext lane blpar s
      else match ((rlane s lane).order.head?).bind (trOf s) with
        | none => none
        | some t =>
          let n := NMap.get 0 t.passed lane
          if beatReady s t n then passBeat lane t n par blpar s else none
    match r with
    | some s2 => if running s && decide ((rlane s2 lane).landing.length ≤ 24) then s2 else s
    | none => s)

end Sys2Proof.Machine
end

