-- ==== Sys2Proof/Machine/Crypto.lean ====
section
/-!
DEFINITION. Machine/Crypto.lean: SHA-256 (R391) and AES-256-GCM (R403), computed on bytes as the standards they name give them.
-/
namespace Sys2Proof.Machine

/-! SHA-256 -/

def shaK : List (BitVec 32) :=
  [0x428A2F98, 0x71374491, 0xB5C0FBCF, 0xE9B5DBA5, 0x3956C25B, 0x59F111F1, 0x923F82A4, 0xAB1C5ED5]
    ++ [0xD807AA98, 0x12835B01, 0x243185BE, 0x550C7DC3, 0x72BE5D74, 0x80DEB1FE, 0x9BDC06A7, 0xC19BF174]
    ++ [0xE49B69C1, 0xEFBE4786, 0x0FC19DC6, 0x240CA1CC, 0x2DE92C6F, 0x4A7484AA, 0x5CB0A9DC, 0x76F988DA]
    ++ [0x983E5152, 0xA831C66D, 0xB00327C8, 0xBF597FC7, 0xC6E00BF3, 0xD5A79147, 0x06CA6351, 0x14292967]
    ++ [0x27B70A85, 0x2E1B2138, 0x4D2C6DFC, 0x53380D13, 0x650A7354, 0x766A0ABB, 0x81C2C92E, 0x92722C85]
    ++ [0xA2BFE8A1, 0xA81A664B, 0xC24B8B70, 0xC76C51A3, 0xD192E819, 0xD6990624, 0xF40E3585, 0x106AA070]
    ++ [0x19A4C116, 0x1E376C08, 0x2748774C, 0x34B0BCB5, 0x391C0CB3, 0x4ED8AA4A, 0x5B9CCA4F, 0x682E6FF3]
    ++ [0x748F82EE, 0x78A5636F, 0x84C87814, 0x8CC70208, 0x90BEFFFA, 0xA4506CEB, 0xBEF9A3F7, 0xC67178F2]

def shaH0 : List (BitVec 32) := [0x6A09E667, 0xBB67AE85, 0x3C6EF372, 0xA54FF53A, 0x510E527F, 0x9B05688C, 0x1F83D9AB, 0x5BE0CD19]

def rotr (x : BitVec 32) (n : Nat) : BitVec 32 := x.rotateRight n

def shaS0 (x : BitVec 32) : BitVec 32 := rotr x 2 ^^^ rotr x 13 ^^^ rotr x 22
def shaS1 (x : BitVec 32) : BitVec 32 := rotr x 6 ^^^ rotr x 11 ^^^ rotr x 25
def shaT0 (x : BitVec 32) : BitVec 32 := rotr x 7 ^^^ rotr x 18 ^^^ (x >>> 3)
def shaT1 (x : BitVec 32) : BitVec 32 := rotr x 17 ^^^ rotr x 19 ^^^ (x >>> 10)

/-- The message schedule: the last 16 words, latest first, extended `n` times. -/
def shaSched : Nat → List (BitVec 32) → List (BitVec 32)
  | 0, w => w
  | n + 1, w =>
    shaSched n ((shaT1 (listGet 0 w 1) + listGet 0 w 6 + shaT0 (listGet 0 w 14) + listGet 0 w 15) :: w)

/-- One round on the eight working words. -/
def shaRound (v : List (BitVec 32)) (kw : BitVec 32 × BitVec 32) : List (BitVec 32) :=
  match v with
  | [a, b, c, d, e, f, g, h] =>
    let t1 := h + shaS1 e + ((e &&& f) ^^^ (~~~e &&& g)) + kw.1 + kw.2
    let t2 := shaS0 a + ((a &&& b) ^^^ (a &&& c) ^^^ (b &&& c))
    [t1 + t2, a, b, c, d + t1, e, f, g]
  | _ => v

/-- One block of 16 big-endian words. -/
def shaBlock (h : List (BitVec 32)) (m : List (BitVec 32)) : List (BitVec 32) :=
  let w := (shaSched 48 m.reverse).reverse
  ((h.zip ((shaK.zip w).foldl shaRound h))).map fun (x, y) => x + y

/-- The padding of a message of `n` bytes to whole 64-byte blocks. -/
def shaPad (n : Nat) : List Nat :=
  (0x80 :: List.replicate ((119 - n % 64) % 64) 0) ++ (bytesOf (8 * n) 8).reverse

/-- A big-endian word of four bytes. -/
def beWord : List Nat → BitVec 32
  | [a, b, c, d] => BitVec.ofNat 32 (((a * 256 + b) * 256 + c) * 256 + d)
  | _ => 0

/-- SHA-256 of a list of bytes: the 32 bytes of the hash. -/
def sha256 (msg : List Nat) : List Nat :=
  let bs := msg ++ shaPad msg.length
  let ws := (chunksOf 4 bs.length bs).map beWord
  let h := (chunksOf 16 ws.length ws).foldl shaBlock shaH0
  h.foldr (fun x acc => (bytesOf x.toNat 4).reverse ++ acc) []

/-! AES-256 -/

/-- The S-box, 64 entries to a number, lowest entry in the lowest byte. -/
def sboxPart : Nat → Nat
  | 0 => 0x75B227EBE28012079A059618C323C7041531D871F1E5A534CCF73F362693FDB7C072A49CAFA2D4ADF04759FA7DC982CA76ABD7FE2B670130C56F6BF27B777C63
  | 1 => 0xD2F3FF1021DAB6BCF5389D928F40A351A89F3C507F02F94585334D43FBAAEFD0CF584C4A39BECB6A5BB1FC20ED00D153842FE329B3D63B52A05A6E1B1A2C8309
  | 2 => 0x08AE7A65EAF4566CA94ED58D6D37C8E779E4959162ACD3C25C2406490A3A32E0DB0B5EDE14B8EE4688902A22DC4F816073195D643D7EA7C41744975FEC130CCD
  | _ => 0x16BB54B00F2D99416842E6BF0D89A18CDF2855CEE9871E9B948ED9691198F8E19E1DC186B95735610EF6034866B53E708A8BBD4B1F74DDE8C6B4A61C2E2578BA

def sbox (x : Nat) : Nat := bits (sboxPart (x / 64)) (8 * (x % 64) + 7) (8 * (x % 64))

def xtime (x : Nat) : Nat := if x < 128 then 2 * x else (2 * x % 256) ^^^ 0x1B

def xorBytes (a b : List Nat) : List Nat := (a.zip b).map fun (x, y) => x ^^^ y

/-- One word of the key schedule after `prev`, eight words after `back`; `i` is its index. -/
def aesKeyWord (i rcon : Nat) (prev back : List Nat) : List Nat :=
  let t :=
    if i % 8 = 0 then xorBytes ((prev.drop 1 ++ prev.take 1).map sbox) [rcon, 0, 0, 0]
    else if i % 8 = 4 then prev.map sbox
    else prev
  xorBytes t back

/-- The key schedule, latest word first. -/
def aesExpand : Nat → Nat → Nat → List (List Nat) → List (List Nat)
  | 0, _, _, ws => ws
  | n + 1, i, rcon, ws =>
    aesExpand n (i + 1) (if i % 8 = 0 then xtime rcon else rcon) (aesKeyWord i rcon (listGet [] ws 0) (listGet [] ws 7) :: ws)

/-- The 15 round keys of 16 bytes. -/
def aesRoundKeys (key : List Nat) : List (List Nat) :=
  let ws := (aesExpand 52 8 1 (chunksOf 4 8 key).reverse).reverse
  (chunksOf 4 60 ws).map fun g => g.foldr (fun w acc => w ++ acc) []

/-- ShiftRows on 16 bytes, column by column. -/
def aesShift (s : List Nat) : List Nat := (List.range 16).map fun i => listGet 0 s ((i + 4 * (i % 4)) % 16)

def aesMixCol (c : List Nat) : List Nat :=
  match c with
  | [a, b, d, e] =>
    let t := a ^^^ b ^^^ d ^^^ e
    [a ^^^ t ^^^ xtime (a ^^^ b), b ^^^ t ^^^ xtime (b ^^^ d), d ^^^ t ^^^ xtime (d ^^^ e), e ^^^ t ^^^ xtime (e ^^^ a)]
  | _ => c

def aesMix (s : List Nat) : List Nat := (chunksOf 4 4 s).foldr (fun c acc => aesMixCol c ++ acc) []

/-- Rounds 1 to 14. -/
def aesRounds : List (List Nat) → List Nat → List Nat
  | [], s => s
  | [k], s => xorBytes (aesShift (s.map sbox)) k
  | k :: ks, s => aesRounds ks (xorBytes (aesMix (aesShift (s.map sbox))) k)

/-- AES-256 of one block under round keys. -/
def aesBlock (rk : List (List Nat)) (b : List Nat) : List Nat :=
  aesRounds (rk.drop 1) (xorBytes b (listGet [] rk 0))

/-! GCM -/

/-- 16 bytes as a number whose most significant bit is the first bit. -/
def beNat (b : List Nat) : Nat := b.foldl (fun acc x => acc * 256 + x) 0

def beBytes (n count : Nat) : List Nat := (bytesOf n count).reverse

/-- Product in GF(2^128): bits of `x` from the first, `v` the running multiple. -/
def ghMulGo (x : Nat) : Nat → Nat → Nat → Nat
  | 0, _, z => z
  | n + 1, v, z =>
    ghMulGo x n (if v % 2 = 1 then (v >>> 1) ^^^ (0xE1 <<< 120) else v >>> 1) (if x.testBit n then z ^^^ v else z)

def ghMul (x h : Nat) : Nat := ghMulGo x 128 h 0

/-- GHASH continued with one block. -/
def ghStep (h acc blk : Nat) : Nat := ghMul (acc ^^^ blk) h

/-- R403: the IV with a block counter. -/
def gcmCtr (ctx seq n : Nat) : List Nat := [ctx, 0, 0, 0] ++ bytesOf seq 8 ++ beBytes n 4

/-- R403: the additional data. -/
def gcmAad (nflits ctx : Nat) : Nat := beNat (bytesOf nflits 4 ++ [ctx] ++ List.replicate 11 0)

/-- The eight keystream blocks of flit `n`, as one 1,024-bit number in flit byte order. -/
def gcmStream (rk : List (List Nat)) (ctx seq n : Nat) : Nat :=
  ofBytes ((List.range 8).foldr (fun j acc => aesBlock rk (gcmCtr ctx seq (2 + 8 * n + j)) ++ acc) [])

/-- GHASH continued with the eight blocks of a flit of ciphertext. -/
def gcmHashFlit (h acc data : Nat) : Nat :=
  (List.range 8).foldl (fun a j => ghStep h a (beNat (bytesOf (data >>> (128 * j)) 16))) acc

/-- The tag: the length block, then the first counter block. -/
def gcmTag (rk : List (List Nat)) (h ctx seq nflits acc : Nat) : Nat :=
  ghStep h acc (128 * 2 ^ 64 + 1024 * nflits) ^^^ beNat (aesBlock rk (gcmCtr ctx seq 1))

end Sys2Proof.Machine
end

