-- ==== Sys2Proof/Machine/Level.lean ====
section
/-!
DEFINITION. Machine/Level.lean: the estimator, rail limits and calibration (R341 to R349), level commands and the clock handshake
(R350 to R354, R480, R481), preheat hints (R355) and the power-controller exchange (R492).
-/
namespace Sys2Proof.Machine

/-! Estimator -/

/-- R342: On domains among 100 to 134. -/
def logicOn (s : State) : Nat := 3 + ncount ((List.range 32).map fun i => (domOf s i).st == 2)

def banksIn (s : State) (st : Nat) : Nat := ncount ((List.range 100).map fun b => (powOf s b).st == st)

/-- R342: the leakage of one TCLK nanosecond on VDD_ARRAY and VDD_CORE, in 1.25e-6 pC. -/
def leakArray (s : State) : Nat := 80000 * (regF s 0x4080 15 0 * banksIn s 2 + regF s 0x4080 31 16 * banksIn s 1)
def leakCore (s : State) : Nat :=
  625 * (stepVF s s.pw.step).2.2 * (regF s 0x4084 15 0 * logicOn s + regF s 0x4084 31 16 * banksIn s 2)

/-- Add raw charge to a rail. -/
def Rail.add (n : Nat) (r : Rail) : Rail := { r with now := r.now + n }

/-- Take the charge gathered since the last CCLK into the interval and the sliding windows. -/
def Rail.settle (r : Rail) : Rail :=
  { r with
    now := 0
    raw := r.raw + r.now
    w1 := listSet r.w1 0 (listGet 0 r.w1 0 + r.now * r.gain)
    w16 := listSet r.w16 0 (listGet 0 r.w16 0 + r.now * r.gain) }

/-- 10 nC in calibrated units (2^14 times 1.25e-6 pC). -/
def tenNC : Nat := 8000000000 * 2 ^ 14

/-- R346: the rail is at its limit. -/
def Rail.over (r : Rail) : Bool :=
  decide (r.lim1 * tenNC ≤ nsum r.w1) || decide (16 * r.lim16 * tenNC ≤ nsum r.w16)

/-- The limit state for this CCLK, from the charge up to the end of the last. -/
def Rail.judge (r : Rail) : Rail :=
  let r := r.settle
  { r with atLim := r.over, freeNs := if r.over then 0 else r.freeNs }

/-- `n` TCLK cycles: leakage, and time off the limit. -/
def Rail.tclk (n leak : Nat) (r : Rail) : Rail :=
  { r with now := r.now + n * leak, freeNs := if r.atLim then r.freeNs else r.freeNs + n }

/-- R347, R360: judge both rails for a CCLK, count the cycles at a limit, raise cause 46 on entry after 16 us. -/
def judgeRails (s : State) : State :=
  let c := s.pw.core.judge
  let a := s.pw.arr.judge
  let hit : Bool := (c.atLim && !s.pw.core.atLim && decide (16000 ≤ s.pw.core.freeNs))
    || (a.atLim && !s.pw.arr.atLim && decide (16000 ≤ s.pw.arr.freeNs))
  { s with pw := { s.pw with core := c, arr := a } }
    |> when c.atLim (bump 0x59E8 1)
    |> when a.atLim (bump 0x59F0 1)
    |> when hit (raise 46)

/-- R347: a transfer of a class is throttled now. -/
def throttled (s : State) (cls : Nat) : Bool :=
  let tex := regF s 0x4000 3 0
  (s.pw.core.atLim || s.pw.arr.atLim) && !(decide (1 ≤ tex) && decide (tex ≤ 7) && decide (tex ≤ cls))

/-- R346, R349: a 125 ns boundary: a new gain and new limits apply, the window slides. -/
def Rail.slide (lim1 lim16 : Nat) (r : Rail) : Rail :=
  let r := r.settle
  { r with w1 := 0 :: r.w1.take 7, gain := r.gainNext.getD r.gain, gainNext := none, lim1 := lim1, lim16 := lim16 }

/-- SUBWINDOW_BOUNDARY (R346). Sub-windows, the windows of the means and calibration intervals stand still while TCLK is stalled (R361). -/
def execSubwindowBoundary (s : State) : Host.Outcome State Fault Refusal :=
  .next (if inReset s || regB s 0x604C 3 then s
    else
      let c := s.pw.core.slide (regF s 0x4008 15 0) (regF s 0x4008 31 16)
      let a := s.pw.arr.slide (regF s 0x400C 15 0) (regF s 0x400C 31 16)
      { s with pw := { s.pw with core := c, arr := a } } |> setReg 0x4010 (BitVec.ofNat 32 (c.gain + fld a.gain 16)))

/-- R345: a calibrated mean in 10 mA over `n` us, saturating. -/
def meanOf (q n : Nat) : Nat := min 0xFFFF (q / (n * (8000000000 * 2 ^ 14)))

/-- ESTIMATE_MESSAGE (R345): the means over the last 1 us and 16 us; the 16 us window slides. -/
def execEstimateMessage (s : State) : Host.Outcome State Fault Refusal :=
  .next (if inReset s || regB s 0x604C 3 then s
    else
      let c := s.pw.core.settle
      let a := s.pw.arr.settle
      let c1 := meanOf (listGet 0 c.w16 0) 1
      let a1 := meanOf (listGet 0 a.w16 0) 1
      let c16 := meanOf (nsum c.w16) 16
      let a16 := meanOf (nsum a.w16) 16
      { s with pw := { s.pw with
          core := { c with w16 := 0 :: c.w16.take 15 }
          arr := { a with w16 := 0 :: a.w16.take 15 }
          est := some (BitVec.ofNat 96 (c1 + fld a1 16 + fld c16 32 + fld a16 48 + fld (timeNow s / 1000 % 2 ^ 32) 64)) } }
        |> setReg 0x4014 (BitVec.ofNat 32 (c1 + fld a1 16))
        |> setReg 0x4018 (BitVec.ofNat 32 (c16 + fld a16 16)))

/-- CAL_INTERVAL_END (R343): the raw charges of the interval are kept; the third interval without a calibration is reported. -/
def execCalIntervalEnd (s : State) : Host.Outcome State Fault Refusal :=
  .next (if inReset s || regB s 0x604C 3 then s
    else
      let c := s.pw.core.settle
      let a := s.pw.arr.settle
      { s with pw := { s.pw with
          core := { c with raw := 0 }
          arr := { a with raw := 0 }
          ivls := ⟨timeNow s / 10000000 - 1, c.raw, a.raw, false⟩ :: s.pw.ivls.take 1
          missed := s.pw.missed + 1 } }
        |> when (s.pw.missed == 2) (fun s => orReg 0x4004 0x400 s |> raise 47))

/-- R343: M × 10^8 pC / E in Q2.14 to nearest, before the clamp. -/
def gainOf (m e : Nat) : Nat := (2 * (m * 2 ^ 14 * 80000000000000) + e) / (2 * e)

/-- R343: the clamp to 0.75 to 1.25. -/
def clampGain (g : Nat) : Nat := if g < 0x3000 then 0x3000 else if g > 0x5000 then 0x5000 else g

/-- R343, R353: a discarded calibration or an invalid command. -/
def commandError (s : State) : State := orReg 0x4004 0x800 s |> raise 45

/-- CALIBRATION (R343). -/
def execCalibration (msg : BitVec 64) (s : State) : Host.Outcome State Fault Refusal :=
  .next (if inReset s then s
    else
      let k := bits msg.toNat 31 0
      match s.pw.ivls.find? (fun i => i.k % 2 ^ 32 == k && !i.used && i.core != 0 && i.arr != 0) with
      | none => commandError s
      | some i =>
        let gc := gainOf (bits msg.toNat 47 32) i.core
        let ga := gainOf (bits msg.toNat 63 48) i.arr
        { s with pw := { s.pw with
            core := { s.pw.core with gainNext := some (clampGain gc) }
            arr := { s.pw.arr with gainNext := some (clampGain ga) }
            ivls := s.pw.ivls.map fun j => if j.k == i.k then { j with used := true } else j
            missed := 0 } }
          |> setReg 0x401C (BitVec.ofNat 32 k)
          |> clrReg 0x4004 0x400
          |> when (clampGain gc != gc || clampGain ga != ga) (fun s => orReg 0x4004 0x1000 s |> raise 44))

/-! Level commands (R352 to R354) -/

def cmdStep (c : BitVec 16) : Nat := bits c.toNat 3 0
def cmdDiv (c : BitVec 16) : Nat := bits c.toNat 6 4
def cmdCap (c : BitVec 16) : Bool := bit c.toNat 7
def cmdSeq (c : BitVec 16) : Nat := bits c.toNat 15 8

/-- R353. -/
def cmdBad (c : BitVec 16) : Bool := decide (4 < cmdDiv c) || (decide (cmdDiv c ≠ 0) && decide (cmdStep c ≠ 0))

/-- R492: an acknowledge joins the queue of 2; with both places full it replaces the later. -/
def pushAck (seq : Nat) (sup err : Bool) (s : State) : State :=
  let a := BitVec.ofNat 17 (seq + fld s.pw.step 8 + fld s.pw.div 12 + fld (b2n sup) 15 + fld (b2n err) 16)
  { s with pw := { s.pw with acks := s.pw.acks.take 1 ++ [a] } }

/-- R352: the acknowledges of the superseded commands, then the command's own. -/
def ackCommand (seq : Nat) (err : Bool) (s : State) : State :=
  forEach s.pw.supNow (fun q => pushAck q true false) s |> pushAck seq false err
    |> fun s => { s with pw := { s.pw with supNow := [] } }

/-- R354: CAPUN after a command is applied; entry raises cause 42. -/
def applyCap (c : BitVec 16) (s : State) : State :=
  let un := cmdCap c && cmdStep c == 0 && cmdDiv c == 4
  { s with pw := { s.pw with capun := un } } |> when (un && !s.pw.capun) (raise 42)

/-- R352: the command's level is applied: from now on the estimator uses it; a LEVEL record marks a change (R428). -/
def applyLevel (c : BitVec 16) (s : State) : State :=
  let change := cmdStep c != s.pw.step || cmdDiv c != s.pw.div
  let r := mkRec 0xA 0 0 0 (cmdStep c + fld (cmdDiv c) 4 + fld s.pw.step 8 + fld s.pw.div 12 + fld (cmdSeq c) 16) [] 0 s
  when change (genRec r false) s
    |> (fun s => { s with pw := { s.pw with step := cmdStep c, div := cmdDiv c, seq := cmdSeq c, cmd := none, phase := 0 } })
    |> applyCap c
    |> ackCommand (cmdSeq c) false

/-- R480, step 1: request the clock of a step, once lmy_ck_lock is low. -/
def retune (step : Nat) (s : State) : State :=
  if s.pw.ckLock then { s with pw := { s.pw with phase := 1 } }
  else { s with pw := { s.pw with phase := 2, ckFmhz := BitVec.ofNat 12 (stepVF s step).1, ckRtn := true, rtnNs := 0 } }

/-- R352: begin a command: a step change asks for its clock, a substep change waits for its boundary, the level in force
is applied at once. -/
def beginLevel (c : BitVec 16) (s : State) : State :=
  let s := { s with pw := { s.pw with cmd := some c } }
  if cmdStep c ≠ s.pw.step then retune (cmdStep c) s
  else if cmdDiv c ≠ s.pw.div then { s with pw := { s.pw with phase := 3 } }
  else applyLevel c s

/-- R352, R369: take the held command when none is being applied and the Waybill is LOADED. -/
def takeHeld (s : State) : State :=
  match s.pw.cmd, s.pw.held with
  | none, some c => if loaded s then beginLevel c { s with pw := { s.pw with held := none, sup := [], supNow := s.pw.sup } } else s
  | _, _ => s

/-- LEVEL_COMMAND (R352, R353, R369). -/
def execLevelCommand (msg : BitVec 16) (s : State) : Host.Outcome State Fault Refusal :=
  .next (if inReset s then s
    else if cmdBad msg then pushAck (cmdSeq msg) false true s |> commandError
    else
      match s.pw.held with
      | some h => { s with pw := { s.pw with held := some msg, sup := s.pw.sup ++ [cmdSeq h] } }
      | none => takeHeld { s with pw := { s.pw with held := some msg } })

/-- CLOCK_SWITCH (R480, steps 2 to 4). -/
def execClockSwitch (s : State) : Host.Outcome State Fault Refusal :=
  .next (match s.pw.cmd with
    | some c =>
      if !inReset s && s.pw.phase == 2 then
        { s with pw := { s.pw with ckLock := true, ckSel := !s.pw.ckSel, ckRtn := false } } |> applyLevel c |> takeHeld
      else s
    | none => s)

/-- LOCK_TIMEOUT (R481). -/
def execLockTimeout (s : State) : Host.Outcome State Fault Refusal :=
  .next (match s.pw.cmd with
    | some c =>
      if !inReset s && s.pw.phase == 2 && decide (1920 ≤ s.pw.rtnNs) then
        { s with pw := { s.pw with ckRtn := false, cmd := none, phase := 0 } }
          |> ackCommand (cmdSeq c) true |> commandError |> takeHeld
      else s
    | none => s)

/-- SUBSTEP_APPLY (R352). -/
def execSubstepApply (s : State) : Host.Outcome State Fault Refusal :=
  .next (match s.pw.cmd with
    | some c => if !inReset s && s.pw.phase == 3 then applyLevel c s |> takeHeld else s
    | none => s)

/-- CLOCK_LOCK_FALL (R480, step 5): the source lowers lmy_ck_lock; a waiting handshake starts. -/
def execClockLockFall (s : State) : Host.Outcome State Fault Refusal :=
  .next (if s.pw.ckLock && !s.pw.ckRtn then
      let t := { s with pw := { s.pw with ckLock := false } }
      match t.pw.cmd with
      | some c => if !inReset t && t.pw.phase == 1 then retune (cmdStep c) t else t
      | none => t
    else s)

/-! Hints and messages -/

/-- R355: merge two hints. -/
def mergeHint (a b : Hint) : Hint := ⟨max a.level b.level, min a.lead b.lead, max a.dur b.dur, min 255 (a.n + b.n)⟩

/-- R355: a HINT slip of this window. -/
def addHint (h : Hint) (s : State) : State :=
  { s with pw := { s.pw with hintNow := some (match s.pw.hintNow with | some g => mergeHint g h | none => h) } }

/-- HINT_WINDOW_END (R355): an untaken message is older by the windows since it was merged. -/
def execHintWindowEnd (s : State) : Host.Outcome State Fault Refusal :=
  .next (if inReset s || regB s 0x604C 3 then s
    else match s.pw.hintNow, s.pw.hintOut with
      | some h, some o =>
        { s with pw := { s.pw with hintOut := some (mergeHint { o with lead := o.lead - (s.pw.hintAge + 1) } h), hintNow := none, hintAge := 0 } }
      | some h, none => { s with pw := { s.pw with hintOut := some h, hintNow := none, hintAge := 0 } }
      | none, some _ => { s with pw := { s.pw with hintAge := s.pw.hintAge + 1 } }
      | none, none => s)

/-- PC_MESSAGE_TAKEN (R492). -/
def execPcMessageTaken (kind : PcMsg) (s : State) : Host.Outcome State Fault Refusal :=
  .next (if inReset s then s
    else match kind with
      | .acknowledge => { s with pw := { s.pw with acks := s.pw.acks.drop 1 } }
      | .estimate => { s with pw := { s.pw with est := none } }
      | .hint =>
        if s.pw.hintOut.isSome then { s with pw := { s.pw with hintOut := none, hintAge := 0 } } |> bump 0x59E0 1 else s)

end Sys2Proof.Machine
end

