-- ==== Sys2Proof/Machine/Prot.lean ====
section
/-!
DEFINITION. Machine/Prot.lean: the two-party commit (R389 to R400), sealed spills (R401 to R405), debug unlock and purge
(R406 to R411).
-/
namespace Sys2Proof.Machine

/-! Staging (R389, R390) -/

/-- The byte of the staging for queue `q`: bits [4:0] of its binding. -/
def bindByte (s : State) (q : Nat) : Nat := regF s (0x3100 + 16 * q) 4 0

/-- Staging word `n` (1 to 87) as the live bindings give it. -/
def liveWord (s : State) (n : Nat) : Nat :=
  if n ≤ 24 then (reg s (0x1000 + 4 * (n - 1))).toNat
  else if n ≤ 33 then (reg s (0x1840 + 4 * (n - 25))).toNat
  else if n ≤ 39 then (reg s (0x1870 + 4 * (n - 34))).toNat
  else if n ≤ 55 then ofBytes ((List.range 4).map fun j => bindByte s (4 * (n - 40) + j))
  else if n ≤ 63 then (reg s (0x3080 + 4 * (n - 56))).toNat
  else if n ≤ 79 then regF s (0x3840 + 4 * (n - 64)) 3 0
  else (reg s (0x3820 + 4 * (n - 80))).toNat

/-- Staging word `n` as it stands. -/
def stagedWord (s : State) (n : Nat) : Nat := (reg s (0x4900 + 4 * n)).toNat

/-- R390: load the staging words from the live bindings. -/
def reloadStaging (s : State) : State :=
  forEach (List.range 87) (fun i => setReg (0x4904 + 4 * (i % 87)) (BitVec.ofNat 32 (liveWord s (i + 1)))) s

/-- R398: one staged word becomes live. -/
def applyWord (n v : Nat) (s : State) : State :=
  if n ≤ 24 then setReg (0x1000 + 4 * ((n - 1) % 24)) (BitVec.ofNat 32 v) s
  else if n ≤ 33 then setReg (0x1840 + 4 * ((n - 25) % 9)) (BitVec.ofNat 32 v) s
  else if n ≤ 39 then setReg (0x1870 + 4 * ((n - 34) % 6)) (BitVec.ofNat 32 v) s
  else if n ≤ 55 then
    forEach (List.range 4) (fun j => setRegF (0x3100 + 16 * ((4 * (n - 40) + j) % 64)) 4 0 (bits v (8 * j + 4) (8 * j))) s
  else if n ≤ 63 then setReg (0x3080 + 4 * ((n - 56) % 8)) (BitVec.ofNat 32 v) s
  else if n ≤ 79 then setRegF (0x3840 + 4 * ((n - 64) % 16)) 3 0 v s
  else setReg (0x3820 + 4 * ((n - 80) % 8)) (BitVec.ofNat 32 v) s

/-- LMY_PROT_STATUS.STATE (R392). -/
def protState (s : State) : Nat := regF s 0x4814 2 0

/-- R394: entering a commit state; the LO words written before it no longer count. -/
def setProtState (n : Nat) (s : State) : State :=
  setRegF 0x4814 2 0 n { s with pr := { s.pr with sLo := 0, pLo := 0 } }

/-- Both digests are discarded. -/
def dropDigests (s : State) : State := clrReg 0x4814 0x300 { s with pr := { s.pr with sDig := none, pDig := none } }

/-- R391: D_B of the staging. -/
def stagingDigest (s : State) : BitVec 64 :=
  let words := ((reg s 0x4818).toNat + 1) % 2 ^ 32 :: (List.range 87).map fun i => stagedWord s (i + 1)
  BitVec.ofNat 64 (ofBytes ((sha256 (words.foldr (fun w acc => bytesOf w 4 ++ acc) [])).take 8))

/-- R392: back to IDLE: digests discarded, staging reloaded and unlocked. -/
def withdraw (s : State) : State :=
  dropDigests s |> setProtState 0 |> reloadStaging
    |> fun s => { s with pr := { s.pr with computing := false, bDig := none } }

/-! PROPOSE (R393) -/

/-- A binding with EN 1 whose context's staged partition is empty. -/
def emptyBind (s : State) (en : Bool) (c : Nat) : Bool :=
  en && (List.range 3).all fun i => stagedWord s (1 + 3 * c + i) == 0

def stagedOverlap (s : State) : Bool :=
  (List.range 24).any fun w => (List.range (w / 3)).any fun c => stagedWord s (1 + w) &&& stagedWord s (1 + 3 * c + w % 3) != 0

def stagedReserved (s : State) : Bool :=
  stagedWord s 33 &&& 0xFFFFFFF0 != 0 || stagedWord s 39 &&& 0xFFF00000 != 0
    || ((List.range 16).any fun i => stagedWord s (40 + i) &&& 0xE0E0E0E0 != 0)
    || ((List.range 16).any fun v => stagedWord s (64 + v) &&& 0xFFFFFFF0 != 0)

def stagedEmpty (s : State) : Bool :=
  ((List.range 64).any fun q =>
      let b := bits (stagedWord s (40 + q / 4)) (8 * (q % 4) + 4) (8 * (q % 4))
      emptyBind s (bit b 3) (b % 8))
    || ((List.range 64).any fun t =>
      let b := bits (stagedWord s (56 + t / 8)) (4 * (t % 8) + 3) (4 * (t % 8))
      emptyBind s (bit b 3) (b % 8))
    || ((List.range 16).any fun v => emptyBind s (bit (stagedWord s (64 + v)) 0) (bits (stagedWord s (64 + v)) 3 1))
    || ((List.range 64).any fun t =>
      let b := bits (stagedWord s (80 + t / 8)) (4 * (t % 8) + 3) (4 * (t % 8))
      emptyBind s (bit b 3) (b % 8))

/-- R393: the reason a PROPOSE is refused, 0 for none. While D_B is being computed the staging is locked, which counts as
not IDLE (DEDUCED, log entry 15). -/
def proposeReason (s : State) : Nat :=
  if protState s ≠ 0 ∨ s.pr.computing then 1
  else if stagedOverlap s then 2
  else if stagedReserved s then 3
  else if stagedEmpty s then 4
  else 0

/-- R393, R395: PROPOSE; MISCNT clears also where it is refused. -/
def propose (s : State) : State :=
  let r := proposeReason s
  if r ≠ 0 then orReg 0x4814 0x800 s |> setRegF 0x4814 14 12 r |> setRegF 0x4814 7 6 0
  else setRegF 0x4814 7 6 0 { s with pr := { s.pr with computing := true } }

/-- PROPOSE (R393). -/
def execPropose (a : BusAcc) (s : State) : Host.Outcome State Fault Refusal := .next (busWrite a 0x4810 propose s)

/-- R392: CANCEL. -/
def cancelProposal (s : State) : State := if protState s = 0 then s else withdraw s

/-- R400: a purge cancels a proposal, one whose digest is still being computed too. -/
def purgeProposal (s : State) : State := if protState s = 0 ∧ !s.pr.computing then s else withdraw s

/-- CANCEL (R392). -/
def execCancel (a : BusAcc) (s : State) : Host.Outcome State Fault Refusal := .next (busWrite a 0x4810 cancelProposal s)

/-- PROPOSAL_DIGEST_READY (R392). -/
def execProposalDigestReady (s : State) : Host.Outcome State Fault Refusal :=
  .next (if s.pr.computing && !inReset s then
      setProtState 1 { s with pr := { s.pr with computing := false, bDig := some (stagingDigest s) } }
    else s)

/-! Digests (R394 to R396) -/

/-- R395: the second digest completed: compare. -/
def compareDigests (sd pd : BitVec 64) (s : State) : State :=
  let bd := s.pr.bDig.getD 0
  let s := setRegF 0x4814 5 3 (b2n (sd == pd) + 2 * b2n (sd == bd) + 4 * b2n (pd == bd)) s
  if sd == pd && sd == bd then setProtState 3 s
  else
    let m := regF s 0x4814 7 6 + 1
    let s := dropDigests s |> setRegF 0x4814 7 6 m |> raise 59
    if m < 3 then setProtState 1 s else withdraw s

/-- Hold a party's digest. -/
def holdDigest (party : Bool) (d : BitVec 64) (s : State) : State :=
  if party then orReg 0x4814 0x200 { s with pr := { s.pr with pDig := some d } }
  else orReg 0x4814 0x100 { s with pr := { s.pr with sDig := some d } }

/-- R396: the window has run out. -/
def windowOver (s : State) : Bool := protState s == 2 && decide (1000000 ≤ s.pr.winNs)

/-- R392, R396: an expired window: both digests are discarded. -/
def expireWindow (s : State) : State := dropDigests s |> setProtState 1 |> raise 60

/-- R394: a party (true: P) completes a digest. One that comes after the window has run out is the first of the next. -/
def completeDigest (party : Bool) (hi : Word) (s : State) : State :=
  let s := when (windowOver s) expireWindow s
  let d := BitVec.ofNat 64 ((if party then s.pr.pLo else s.pr.sLo).toNat + 2 ^ 32 * hi.toNat)
  if protState s = 1 then holdDigest party d { s with pr := { s.pr with winNs := 0 } } |> setProtState 2
  else if protState s = 2 then
    match s.pr.sDig, s.pr.pDig with
    | some sd, none => if party then holdDigest true d s |> compareDigests sd d else orReg 0x4814 0x400 s
    | none, some pd => if party then orReg 0x4814 0x400 s else holdDigest false d s |> compareDigests d pd
    | _, _ => orReg 0x4814 0x400 s
  else orReg 0x4814 0x400 s

/-- R394: a party's LO word. -/
def writeDigestLo (party : Bool) (w : Word) (s : State) : State :=
  if protState s = 1 ∨ protState s = 2 then
    (if party then { s with pr := { s.pr with pLo := w } } else { s with pr := { s.pr with sLo := w } })
  else orReg 0x4814 0x400 s

/-- DIGEST_COMPLETE (R394). -/
def execDigestComplete (a : BusAcc) (off : BitVec 16) (w : Word) (s : State) : Host.Outcome State Fault Refusal :=
  .next (if off == 0x4824 then busWrite a 0x4824 (completeDigest false w) s
    else if off == 0x482C then busWrite a 0x482C (completeDigest true w) s
    else s)

/-- COMMIT_WINDOW_EXPIRY (R396). -/
def execCommitWindowExpiry (s : State) : Host.Outcome State Fault Refusal :=
  .next (when (windowOver s && !inReset s) expireWindow s)

/-! Application (R397, R398) -/

/-- The contexts named by the differing bits of one staging word, by field: (mask, context in the word). -/
def bindCtxs (n v : Nat) : List (Nat × Nat) :=
  if n ≤ 24 then []
  else if n ≤ 39 ∨ (56 ≤ n ∧ n ≤ 63) ∨ 80 ≤ n then (List.range 8).map fun k => (0xF <<< (4 * k), bits v (4 * k + 2) (4 * k))
  else if n ≤ 55 then (List.range 4).map fun k => (0x1F <<< (8 * k), bits v (8 * k + 2) (8 * k))
  else [(0xF, bits v 3 1)]

/-- R397: the contexts a proposal affects. -/
def affected (s : State) (c : Nat) : Bool :=
  (List.range 87).any fun i =>
    let n := i + 1
    let l := liveWord s n
    let t := stagedWord s n
    if n ≤ 24 then (n - 1) / 3 == c && l != t
    else
      ((bindCtxs n l).any fun e => e.2 == c && (l &&& e.1) != (t &&& e.1))
        || ((bindCtxs n t).any fun e => e.2 == c && (l &&& e.1) != (t &&& e.1))

/-- A bucket in ARMED, REDUCED or UPDATING that belongs to a context by itself or by its VC. -/
def bucketOf (s : State) (c : Nat) : Bool :=
  s.rx.bkt.any fun e => decide (1 ≤ e.2.st) && decide (e.2.st ≤ 3) &&
    (bktBind s e.1 % 8 == c || vcCtx s (bits (listGet 0 e.2.desc 0).toNat 3 0) == c)

/-- The binding slot of the lane an own request comes on. -/
def ownLaneBind (s : State) (req : Nat) : Nat := if req < 129 then rlBind s (req - 64) else wlBind s (req - 129)

/-- R397: a context is quiescent. An own request is incomplete until its last row is performed; its flits then count by their lane. -/
def quiescent (s : State) (c : Nat) : Bool :=
  ((List.range 64).all fun q =>
      let x := NMap.get SlipQ.empty s.sq.q q
      sqCtx s q != c || (x.ents.isEmpty && x.run == 0))
    && (s.fr.trs.all fun t => t.slip != 0 || decide (174 ≤ t.req) || !isIssued s t || rowsDone t || ownLaneBind s t.req % 8 != c)
    && (s.fr.rl.all fun e => rlBind s e.1 % 8 != c || e.2.landing.isEmpty)
    && (s.fr.wl.all fun e => wlBind s e.1 % 8 != c || e.2.staging.isEmpty)
    && !bucketOf s c

/-- LMY_PROT_QWAIT: AFF and BUSY while PENDING. -/
def protQwait (s : State) : Nat :=
  if protState s = 3 then
    nsum ((List.range 8).map fun c => if affected s c then 2 ^ c + (if quiescent s c then 0 else 2 ^ (8 + c)) else 0)
  else 0

/-- R398: the staged table in one cycle. -/
def applyStaging (s : State) : State :=
  forEach (List.range 87) (fun i => applyWord (i + 1) (stagedWord s (i + 1))) s
    |> setReg 0x4818 (reg s 0x4818 + 1) |> withdraw |> raise 61

/-- COMMIT_APPLY (R398). -/
def execCommitApply (s : State) : Host.Outcome State Fault Refusal :=
  .next (if protState s == 3 && !inReset s && (List.range 8).all (fun c => !affected s c || quiescent s c) then applyStaging s
    else s)

/-! Seals (R401 to R405) -/

/-- R401: a fresh key for a context; its SEQ restarts. -/
def rekeyCtx (c : Nat) (s : State) : State :=
  let d := drawFree s
  { d.2 with pr := { d.2.pr with key := NMap.set 0 d.2.pr.key c (Config.sealKey d.1), seq := NMap.set 0 d.2.pr.seq c 0 } }

/-- REKEY (R401). -/
def execRekey (a : BusAcc) (ctx : BitVec 3) (s : State) : Host.Outcome State Fault Refusal :=
  .next (busWrite a 0x4810 (rekeyCtx ctx.toNat) s)

def sealAt (s : State) (l : Nat) : Seal := NMap.get Seal.idle s.pr.sess l
def setSeal (l : Nat) (x : Seal) (s : State) : State := { s with pr := { s.pr with sess := NMap.set Seal.idle s.pr.sess l x } }

/-- R402: SEQ of a session: a seal session takes its context's counter, which increments; an unseal session the registers. -/
def armSeal (l nfm1 : Nat) (s : State) : State :=
  let o := 0x4880 + 32 * l
  let c := sealBind s l % 8
  let k := NMap.get 0 s.pr.key c
  if l < 2 then
    let q := NMap.get 0 s.pr.seq c
    { s with pr := { s.pr with seq := NMap.set 0 s.pr.seq c (q + 1) } }
      |> setReg (0x4888 + 32 * (l % 4)) (BitVec.ofNat 32 q.toNat) |> setReg (0x488C + 32 * (l % 4)) (BitVec.ofNat 32 (q.toNat >>> 32))
      |> setSeal l ⟨1, nfm1, 0, c, q, k, 0, (sealAt s l).fail⟩
  else
    setSeal l ⟨1, nfm1, 0, c, BitVec.ofNat 64 ((reg s (o + 8)).toNat + 2 ^ 32 * (reg s (o + 12)).toNat), k, 0, (sealAt s l).fail⟩ s

/-- R402: a write of LMY_SEALl_CFG. -/
def writeSealCfg (l : Nat) (w : Word) (s : State) : State :=
  if bit w.toNat 16 then
    (if (sealAt s l).st = 0 ∨ (sealAt s l).st = 3 then
      setReg (0x4880 + 32 * (l % 4)) (w &&& 0xFFFF) s |> armSeal l (bits w.toNat 15 0)
    else orReg 0x4814 0x400 s)
  else setReg (0x4880 + 32 * (l % 4)) (w &&& 0xFFFF) s

/-- SEAL_ARM (R402). -/
def execSealArm (a : BusAcc) (l : BitVec 2) (w : Word) (s : State) : Host.Outcome State Fault Refusal :=
  .next (busWrite a (0x4880 + 32 * l.toNat) (writeSealCfg l.toNat w) s)

/-- The round keys and hash key of a session. -/
def sealKeys (x : Seal) : List (List Nat) := aesRoundKeys (bytesOf x.key.toNat 32)
def sealHash (rk : List (List Nat)) : Nat := beNat (aesBlock rk (List.replicate 16 0))

/-- SEAL_ACTIVE (R402): the keystream buffer is filled; the hash has taken the additional data. -/
def execSealActive (l : BitVec 2) (s : State) : Host.Outcome State Fault Refusal :=
  .next (
    let x := sealAt s l.toNat
    if x.st == 1 && running s then
      setSeal l.toNat { x with st := 2, gh := BitVec.ofNat 128 (ghStep (sealHash (sealKeys x)) 0 (gcmAad (x.nfm1 + 1) x.ctx)) } s
    else s)

/-- R405: after the last flit: the tag of a seal session is stored, that of an unseal session compared. True: it failed. -/
def finishSeal (l : Nat) (x : Seal) (s : State) : Bool × State :=
  let o := 0x4890 + 32 * l
  let rk := sealKeys x
  let tag := ofBytes (beBytes (gcmTag rk (sealHash rk) x.ctx x.seq.toNat (x.nfm1 + 1) x.gh.toNat) 16)
  if l < 2 then
    (false, setSeal l { x with st := 3 } s |> forEach (List.range 4) (fun i => setReg (0x4890 + 4 * ((8 * l + i) % 32)) (BitVec.ofNat 32 (tag >>> (32 * i)))))
  else
    let want := ofWords ((List.range 4).map fun i => (reg s (o + 4 * i)).toNat)
    if tag == want then (false, setSeal l { x with st := 3 } s)
    else (true, setSeal l { x with st := 3, fail := true } s |> raise 62)

/-- R404: a slip's flit passes a seal lane (0, 1: RL60, RL61; 2, 3: WL40, WL41): its data, whether the session failed on it. -/
def sealFlit (l : Nat) (data : Row) (s : State) : Row × Bool × State :=
  let x := sealAt s l
  if x.st ≠ 2 then (data, false, s)
  else
    let rk := sealKeys x
    let out := data ^^^ BitVec.ofNat 1024 (gcmStream rk x.ctx x.seq.toNat x.ndone)
    let ct := if l < 2 then out else data
    let y := { x with ndone := x.ndone + 1, gh := BitVec.ofNat 128 (gcmHashFlit (sealHash rk) x.gh.toNat ct.toNat) }
    if y.ndone = x.nfm1 + 1 then
      let f := finishSeal l y s
      (out, f.1, f.2)
    else (out, false, setSeal l y s)

/-! Debug unlock and purge (R406 to R411) -/

/-- R407, R408: the banks when a purge starts: transitions run to their end, held and waiting requests are dropped, retained
banks wake. -/
def purgeWake (p : BankPow) : BankPow :=
  match p.trans with
  | some _ => { p with held := none, wait := none }
  | none => if p.st = 1 then ⟨1, none, some ⟨2, false⟩, none⟩ else ⟨p.st, none, none, none⟩

/-- R400, R406, R470: a purge starts; it cancels a migration and a proposal. -/
def startPurge (s : State) : State :=
  let s := cancelMig s |> purgeProposal
  setRegF 0x4B04 1 0 1 { s with
    pr := { s.pr with purgeNs := 0 }
    bank := { s.bank with pow := s.bank.pow.map fun e => (e.1, purgeWake e.2) } }

/-- R406: an UNLOCK written to LMY_DBG_REQ. -/
def unlock (w : Word) (s : State) : State :=
  if bits w.toNat 1 0 ≠ 1 ∨ bits w.toNat 15 8 ≠ 0x5A ∨ purging s then s
  else if s.ck.field && !regB s 0x4444 0 then orReg 0x4B04 0x80 s |> raise 58
  else startPurge s

/-- UNLOCK (R406). -/
def execUnlock (a : BusAcc) (w : Word) (s : State) : Host.Outcome State Fault Refusal := .next (busWrite a 0x4B00 (unlock w) s)

/-- R411: a RELOCK written to LMY_DBG_REQ; during a purge it has no effect (DESIGN CHOICE, log entry 16). -/
def relock (w : Word) (s : State) : State :=
  if bits w.toNat 1 0 ≠ 2 ∨ bits w.toNat 15 8 ≠ 0x5A ∨ purging s then s
  else clrReg 0x4B04 0x3B s |> watchRelock

/-- RELOCK (R411). -/
def execRelock (a : BusAcc) (w : Word) (s : State) : Host.Outcome State Fault Refusal := .next (busWrite a 0x4B00 (relock w) s)

/-- R407: registers and counters a purge sets to 0: error, fault, lane, drop, cut-off and slip logs, flags, step counters,
tallies, norm sums, seal sessions. -/
def purgedRegs : List Nat :=
  [0x0810, 0x0814, 0x0818, 0x081C, 0x1300, 0x1304, 0x1810, 0x1814, 0x1818, 0x28A0, 0x28A4, 0x3008, 0x300C, 0x3818, 0x381C, 0x6904]
    ++ (List.range 4).map (fun u => 0x6A1C + 64 * u) ++ (List.range 4).map (fun u => 0x6A20 + 64 * u)
    ++ (List.range 4).map (fun u => 0x6A24 + 64 * u)
    ++ (List.range 8).map (fun c => 0x1A00 + 4 * c) ++ (List.range 8).map (fun c => 0x2040 + 4 * c)
    ++ (List.range 8).map (fun c => 0x3040 + 4 * c) ++ (List.range 64).map (fun t => 0x3700 + 4 * t)
    ++ (List.range 32).map (fun i => 0x4880 + 4 * i)

/-- R407: the frame without any flit, request or transfer; credits, tickets and admission numbers stay. -/
def FrameSt.purge (f : FrameSt) : FrameSt :=
  { f with
    rl := f.rl.map fun e => (e.1, { e.2 with order := [], landing := [], dcq := [], seen := 0, cur := 0 })
    wl := []
    ch := f.ch.map fun e => (e.1, { e.2 with dcq := [], seen := 0 })
    trs := [], issued := [], planes := [] }

/-- R407: a queue flushed, its executing slip abandoned. -/
def SlipQ.purge (q : SlipQ) : SlipQ :=
  { q with ents := [], stop := 0, pause := false, run := 0, ford := false, fleft := 0, stale := q.stale + q.fleft }

/-- R283: a fetch queue's FHEAD is set to FTAIL. -/
def dropRing (q : Nat) (s : State) : State :=
  when (sqFetch s q) (fun s => setRegF (0x310C + 16 * (q % 64)) 31 16 (regF s (0x310C + 16 * q) 15 0) s) s

/-- A readout under way is abandoned with its transfer. -/
def dropReadouts (s : State) : State :=
  when s.dbg.brd.isSome (setRegF 0x6824 1 0 0) s |> when s.dbg.wrd.isSome (setRegF 0x6B14 1 0 0)
    |> fun s => { s with dbg := { s.dbg with brd := none, wrd := none } }

/-- R407: everything a purge erases outside the banks and registers. -/
def eraseBuffers (s : State) : State :=
  { s with
    fr := s.fr.purge
    arb := { s.arb with runs := [], tkt := [] }
    sq := { s.sq with q := s.sq.q.map (fun e => (e.1, e.2.purge)), live := [] }
    bl := BlendSt.reset
    hd := { s.hd with blk := [], row := [], wait := [], canc := [] }
    bank := { s.bank with wb := [], undo := [] }
    rx := { s.rx with slots := [], dir := [], bkt := [], desc := [], ng := [], stall := [], took := 0, nupd := 0, res := [], ops := [] }
    pr := { s.pr with key := [], seq := [], sess := [] }
    tr := TraceSt.reset
    dbg := { s.dbg with hang := [], wu := [], scan := [], capturing := false }
    cnt := s.cnt.filter fun e => !(decide (0x5780 ≤ e.1) && decide (e.1 < 0x5980)) }

/-- R436: a purge clears the trace's EN, pointers and status; R449, R453: the snapshot and the watch units are idle. -/
def purgeTrace (s : State) : State :=
  clrReg 0x6000 1 s |> forEach [0x6014, 0x6018, 0x601C, 0x6020, 0x6024] (fun o => setReg o 0)

/-- R409: the grants. -/
def grantBits (s : State) : Nat :=
  if s.ck.field then (b2n (regB s 0x4444 1) <<< 3) + (b2n (regB s 0x4444 2) <<< 4) + (b2n (regB s 0x4444 3) <<< 5) else 0x38

/-- R407 to R410: the purge's effect. -/
def purgeAll (s : State) : State :=
  forEach ((List.range 100).filter fun b => (powOf s b).st == 2) purgeBank s
    |> (fun s => forEach ((List.range 100).filter fun b => (lbankOf s b).isNone) (fun b => setPow b (powOf s b).retire) s)
    |> dropReadouts |> eraseBuffers |> forEach (List.range 64) dropRing
    |> forEach purgedRegs (fun o => setReg o 0)
    |> purgeTrace |> setReg 0x6814 (reg s 0x6814 &&& 4)
    |> purgeProposal
    |> (fun s => setReg 0x4B04 (BitVec.ofNat 32 (2 + grantBits s + 0x40 + (reg s 0x4B04).toNat % 256 / 128 * 128)) s)
    |> (fun s => setReg 0x4B08 (BitVec.ofNat 32 (min s.pr.purgeNs (2 ^ 32 - 1))) s)
    |> raise 63

/-- PURGE_COMPLETE (R409): no bank is in a transition, retained or waking. -/
def execPurgeComplete (s : State) : Host.Outcome State Fault Refusal :=
  .next (if purging s && !inReset s && s.bank.pow.all (fun e => e.2.trans.isNone && e.2.wait.isNone && e.2.st != 1) then purgeAll s
    else s)

end Sys2Proof.Machine
end

