-- ==== Sys2Proof/Machine/Lanes.lean ====
section
/-!
DEFINITION. Machine/Lanes.lean: the edges of the lanes (R106 to R112, R482 to R484): own requests, dual-clock queues, the way of a
read flit to its engine and of a write flit into staging.
-/
namespace Sys2Proof.Machine

/-! Own requests (R106 to R109) -/

def rqOp (r : Nat) : Nat := bits r 1 0
def rqBeats (r : Nat) : Nat := bits r 4 2 + 1
def rqRlane (r : Nat) : Nat := bits r 11 8
def rqAtop (r : Nat) : Nat := bits r 31 16
def rqVa (r : Nat) : Nat := bits r 63 32
def rqRet (r : Nat) : Bool := rqOp r == 2 && bit (rqAtop r) 12

/-- R40: ATOP is malformed for a byte offset. -/
def atopBad (a byte : Nat) : Bool :=
  decide (3 < bits a 3 0) || bits a 15 13 != 0
    || (bits a 3 0 == 0 && (!(bits a 7 4 == 1 || bits a 7 4 == 2 || bits a 7 4 == 3 || bits a 7 4 == 0xA) || bits a 11 8 == 0))
    || (bits a 3 0 == 2 && byte % 4 != 0) || (bits a 3 0 == 3 && byte % 8 != 0)

/-- R107: the binding slot of the lane a request comes on. -/
def ownBind (s : State) (wr : Bool) (lane : Nat) : Nat := if wr then wlBind s lane else rlBind s lane
def ownClient (wr : Bool) (lane : Nat) : Nat := if wr then wlClient lane else rlClient lane
/-- R231: the requester of a lane's own-request channel. -/
def ownReq (wr : Bool) (lane : Nat) : Nat := if wr then 129 + lane else 64 + lane

/-- R108: the first kind of malformed request that matches. -/
def rqKind (s : State) (wr : Bool) (lane r : Nat) : Option Nat :=
  let op := rqOp r
  if op = 3 ∨ bits r 7 5 ≠ 0 ∨ bits r 15 12 ≠ 0 ∨ (op ≠ 2 ∧ rqAtop r ≠ 0) ∨ (!rqRet r ∧ rqRlane r ≠ 0) then some 0
  else if (if wr then op = 0 else op ≠ 0) then some 1
  else if !vaOk (rqVa r) then some 2
  else if op = 2 ∧ atopBad (rqAtop r) (vaOff (rqVa r) % 128) then some 3
  else if op = 2 ∧ rqBeats r ≠ 1 then some 4
  else if rqRet r ∧ rqRlane r ≥ clientRlN (ownClient wr lane) then some 5
  else if !bit (ownBind s wr lane) 3 then some 6
  else none

/-- R108: `n` generated flits on a read lane in place of a refused request. -/
def refusedFlits (req ctx client rl n : Nat) (s : State) : State :=
  addTr { newTr req .rd 0 ctx client with rlanes := [rl], beats := List.replicate n genBeat, ready := true } s

/-- R108: a refused request: counted, logged, cause 22; then by its OP where its lane allows it. -/
def refuseRq (wr : Bool) (lane r kind : Nat) (s : State) : State :=
  let c := ownClient wr lane
  let ctx := ownBind s wr lane % 8
  let op := rqOp r
  let n := if op = 2 then 1 else rqBeats r
  let s := bump (0x5600 + 0x20 * (c % 12)) 1 s |> fillLog1 0x1818 (fld (b2n wr) 2 + fld lane 4 + fld kind 12 + fld c 16) |> raise 22
  if !wr then (if op = 0 then refusedFlits (ownReq wr lane) ctx c lane n s else s)
  else if op = 1 ∨ op = 2 then
    addTr { newTr (ownReq wr lane) .drop 0 ctx c with wlane := lane + 1, grps := n, ready := true } s
      |> when (rqRet r && decide (rqRlane r < clientRlN c)) (refusedFlits (ownReq wr lane) ctx c (clientRl c + rqRlane r) 1)
  else s

/-- R106, R107: a request taken into arbitration: it waits to be issued on its lanes. -/
def takeRq (wr : Bool) (lane r : Nat) (s : State) : State :=
  match rqKind s wr lane r with
  | some k => refuseRq wr lane r k s
  | none =>
    let c := ownClient wr lane
    let ctx := ownBind s wr lane % 8
    let v := rqVa r
    let op := rqOp r
    let bs := (List.range (rqBeats r)).map fun b => mkBeat s ctx v (vaOff v + 128 * b : Nat) (op != 0)
    let t := { newTr (ownReq wr lane) (if op = 0 then .rd else if op = 1 then .wr else .at) 0 ctx c with beats := bs, view := v }
    addTr (if op = 0 then { t with rlanes := [lane], cred := bs.length, ready := true }
      else { t with wlane := lane + 1, offs := 8, atop := rqAtop r,
                    rlanes := if rqRet r then [clientRl c + rqRlane r] else [], cred := b2n (rqRet r) }) s

def chanKey (wr : Bool) (lane : Nat) : Nat := if wr then 100 + lane else lane
def chan (s : State) (wr : Bool) (lane : Nat) : ReqCh := NMap.get ReqCh.empty s.fr.ch (chanKey wr lane)
def setChan (wr : Bool) (lane : Nat) (x : ReqCh) (s : State) : State :=
  { s with fr := { s.fr with ch := NMap.set ReqCh.empty s.fr.ch (chanKey wr lane) x } }
/-- R484: lanes with a request channel. -/
def hasChan (wr : Bool) (lane : Nat) : Bool :=
  if wr then decide (lane < 45) && lane != 42 && lane != 43 else decide (lane < 65) && lane != 62 && lane != 63

/-- R112: the readable requests of a channel are taken in order. -/
def drainChan (wr : Bool) (lane : Nat) (s : State) : State :=
  if serving s then
    let x := chan s wr lane
    forEach (x.dcq.take x.seen) (fun r => takeRq wr lane r.toNat) (setChan wr lane { x with dcq := x.dcq.drop x.seen, seen := 0 } s)
  else s

/-- R112, R484: the engine's request crosses a request DCQ of 4 entries; a full DCQ does not take it. -/
def presentRq (wr : Bool) (lane : Nat) (rq : BitVec 64) (s : State) : State :=
  let x := chan s wr lane
  if inReset s || !hasChan wr lane || decide (4 ≤ x.dcq.length) then s
  else setChan wr lane { x with dcq := x.dcq ++ [rq], seen := x.dcq.length + 1 } s |> drainChan wr lane

/-- OWN_READ_REQUEST (R106). -/
def execOwnReadRequest (onWr : Bool) (lane : Nat) (rq : BitVec 64) (s : State) : Host.Outcome State Fault Refusal :=
  .next (presentRq onWr lane rq s)

/-- OWN_WRITE_REQUEST (R106). -/
def execOwnWriteRequest (onWr : Bool) (lane : Nat) (rq : BitVec 64) (s : State) : Host.Outcome State Fault Refusal :=
  .next (presentRq onWr lane rq s)

/-- OWN_ATOMIC_REQUEST (R106). -/
def execOwnAtomicRequest (onWr : Bool) (lane : Nat) (rq : BitVec 64) (s : State) : Host.Outcome State Fault Refusal :=
  .next (presentRq onWr lane rq s)

/-! Crossings -/

/-- WRITE_FLIT_TAKEN (R483). -/
def execWriteFlitTaken (lane : Nat) (data : Row) (sb : BitVec 81) (s : State) : Host.Outcome State Fault Refusal :=
  .next (if inReset s || decide (45 ≤ lane) || decide (16 ≤ (wlane s lane).dcq.length) then s
    else updWlane lane (fun w => { w with dcq := w.dcq ++ [(data, sb)], nput := w.nput + 1 }) s |> estimate 12 1)

/-- DCQ_CROSSING (R111, R247, R362). -/
def execDcqCrossing (kind : DcqKind) (lane : Nat) (s : State) : Host.Outcome State Fault Refusal :=
  .next (if inReset s then s
    else match kind with
      | .rd => updRlane lane (fun x => { x with seen := min x.dcq.length (x.seen + 1) }) s
      | .wr => updWlane lane (fun x => { x with seen := min x.dcq.length (x.seen + 1) }) s
      | .rq => drainChan false lane
          (setChan false lane { chan s false lane with seen := min (chan s false lane).dcq.length ((chan s false lane).seen + 1) } s)
      | .wq => drainChan true lane
          (setChan true lane { chan s true lane with seen := min (chan s true lane).dcq.length ((chan s true lane).seen + 1) } s)
      | .rqTicket => setChan false lane { chan s false lane with tktOut := (chan s false lane).tkt, waitOut := (chan s false lane).wait } s
      | .wqTicket => setChan true lane { chan s true lane with tktOut := (chan s true lane).tkt, waitOut := (chan s true lane).wait } s)

/-- A slip that has ended and whose every flit has been taken is gone (R133: its permute entries were busy until then). -/
def dropSlip (sid : Nat) (s : State) : State :=
  match slipOf s sid with
  | some x =>
    if x.ended && x.sent && flitsTaken x then { s with sq := { s.sq with live := s.sq.live.filter fun y => y.sid != sid } } |> watchRelease sid
    else s
  | none => s

/-- READ_FLIT_TAKE (R110, R482). In a halt the credit waits for the resume (R441). -/
def execReadFlitTake (lane : Nat) (s : State) : Host.Outcome State Fault Refusal :=
  .next (
    let x := rlane s lane
    match x.dcq with
    | [] => s
    | f :: rest =>
      if inReset s || x.seen == 0 then s
      else
        let s := setRlane lane { x with dcq := rest, seen := x.seen - 1, cred := x.cred + b2n (!halted s), owe := x.owe + b2n (halted s) } s
        if f.slip = 0 then s
        else match slipOf s (f.slip - 1) with
          | some y =>
            updSlip y.sid (fun z => setSlane lane { slane z lane with taken := (slane z lane).taken + 1, held := (slane z lane).held - 1 } z) s
              |> progress y.q |> dropSlip y.sid
          | none => s)

/-! Into staging (R104, R112, R170, R277) -/

/-- R104: a write flit with its sideband; an NSCALE above 8 counts as 8 (DESIGN CHOICE, log entry 81). -/
def mkWFlit (data : Row) (sb : BitVec 81) : WFlit :=
  let b := sb.toNat
  ⟨data, BitVec.ofNat 4 b, BitVec.ofNat 4 (bits b 7 4),
    (List.range (min 8 (bits b 11 8))).map fun i => (bits b (19 + 8 * i) (12 + 8 * i), false), bit b 80⟩

/-- Flits that an own request of a write lane still takes. -/
def flitsOf (t : Tr) : Nat := if t.slip ≠ 0 then 0 else if t.kind = .drop then t.grps else t.beats.length

/-- Flits that issued own requests of a write lane still take. -/
def owed (s : State) (lane : Nat) : Nat :=
  nsum ((wlane s lane).order.map fun id => match trOf s id with | some t => flitsOf t | none => 0)

/-- A started slip that takes the flits of a write lane. -/
def takesLane (lane : Nat) (x : Slip) : Bool := !x.ended && (isWRITE x.words || isATOMIC x.words) && sWlane x.words == lane

/-- R170, R276: the slip whose flits come next on a write lane: the one that claims it, else the oldest started one. -/
def laneSlip (s : State) (lane : Nat) : Option Slip :=
  if (wlane s lane).claim ≠ 0 then slipOf s ((wlane s lane).claim - 1) else s.sq.live.find? (takesLane lane)

/-- R170: a started WRITE with a blend that does not yet hold the lane: until it does, no flit leaves the DCQ for it. -/
def blendWaits (s : State) (lane : Nat) : Bool :=
  match s.sq.live.find? fun x => takesLane lane x && (wlane s lane).claim != x.sid + 1 with
  | some x => isWRITE x.words && sBlendEn x.words
  | none => false

/-- R277: a slip's log entry and event for a length mismatch. -/
def lengthMismatch (x : Slip) (s : State) : State :=
  updSlip x.sid (fun y => { y with fault := true }) s
    |> fillLog 0x3008 (fld 3 2 + fld x.q 6 + fld (sType x.words) 16 + fld x.ent 20 + fld (sCtx x.words) 25) (sTag x.words)
    |> raise 27

/-- R277: a slip receives one more flit; LAST early ends its intake, a missing LAST on flit F is a mismatch too. -/
def receiveFlit (sid : Nat) (last : Bool) (s : State) : State :=
  match slipOf s sid with
  | none => s
  | some x =>
    let n := x.fin + 1
    let s := updSlip sid (fun y => { y with fin := n, short := y.short || (last && decide (n < sF x.words)) }) s
    if (last && decide (n < sF x.words)) || (!last && n == sF x.words) then lengthMismatch x s else s

/-- R277: the slip takes no further flits. -/
def intakeDone (x : Slip) : Bool := x.short || decide (sF x.words ≤ x.fin)

/-- R190: a WRITE releases its slots once it has taken its last flit. -/
def freeTaken (sid : Nat) (s : State) : State :=
  match slipOf s sid with
  | some x => when (isWRITE x.words && sBlendEn x.words && intakeDone x) (freeSlots sid (sWlane x.words)) s
  | none => s

/-- R276: the flits already in staging when a slip claims its lane are its first; they pass no blend (R170). -/
def takeStaged (sid : Nat) : List WFlit → State → State
  | [], s => s
  | f :: fs, s =>
    match slipOf s sid with
    | some x =>
      if intakeDone x then s
      else takeStaged sid fs (updSlip sid
        (fun y => { y with plain := y.plain + 1, skey := { y.skey with kd := y.skey.kd + sNS x.words } }) s |> receiveFlit sid f.last)
    | none => s

/-- R192, R193: the blend of a WRITE's flit: the flit as staged, its flags. -/
def blendWrite (s : State) (x : Slip) (par : Mask4) (f : WFlit) : WFlit × Nat :=
  let n := min (sNS x.words) (sElems x.words - x.skey.kd)
  let r := blendFlit s x x.skey x.skey.kd ⟨f.data, f.pois, [], n⟩
  ({ f with data := r.1.data, pois := r.1.pois ||| par }, r.2)

/-- R404: a flit that leaves a write lane's DCQ for no slip yet is an own request's as long as the requests taken on the lane, issued
or not, lack flits (DEDUCED, log entry 83). -/
def ownsNext (s : State) (lane : Nat) : Bool :=
  let w := wlane s lane
  let ofSlip := if w.claim = 0 then 0 else match slipOf s (w.claim - 1) with | some x => x.fin - x.fpop | none => 0
  decide (w.staging.length - ofSlip < nsum ((s.fr.trs.filter fun t => t.wlane == lane + 1).map flitsOf))

/-- R401 to R405: an unseal session takes a slip's flit as it leaves WL40's or WL41's DCQ; a failed tag faults the slip. -/
def unsealFlit (lane : Nat) (ofSlip : Bool) (sid : Option Nat) (data : Row) (s : State) : Row × State :=
  if ofSlip && (lane == 40 || lane == 41) then
    let r := sealFlit (lane - 38) data s
    (r.1, when r.2.1 (fun s => match sid with | some i => updSlip i (fun y => { y with fault := true }) s | none => s) r.2.2)
  else (data, s)

/-- Put a flit at the tail of staging. -/
def stageFlit (lane : Nat) (f : WFlit) (s : State) : State := updWlane lane (fun w => { w with staging := w.staging ++ [f] }) s

/-- The head of the DCQ is gone. -/
def popWdcq (lane : Nat) (s : State) : State := updWlane lane (fun w => { w with dcq := w.dcq.drop 1, seen := w.seen - 1 }) s

/-- A flit of no slip that takes flits now, or of one that has not claimed the lane, goes into staging as it is. -/
def stagePlain (lane : Nat) (sid : Option Nat) (d : Row × BitVec 81) (s : State) : State :=
  let u := unsealFlit lane (!ownsNext s lane) sid d.1 s
  popWdcq lane u.2 |> stageFlit lane (mkWFlit u.1 d.2)

/-- R170, R193: a flit of the slip that claims the lane passes its blend, if it has one, into staging. -/
def stageSlip (lane : Nat) (x : Slip) (par : Mask4) (d : Row × BitVec 81) (s : State) : State :=
  let en := sBlendEn x.words && isWRITE x.words
  let u := unsealFlit lane true (some x.sid) d.1 s
  let f := mkWFlit u.1 d.2
  let r := if en then blendWrite u.2 x par f else (f, 0)
  popWdcq lane u.2 |> stageFlit lane r.1
    |> when en (fun s => raiseBlend x r.2 s |> estimate 8 (blendStages (sBlendId x.words)).length)
    |> when (en && par ≠ 0) (fun s => match clusterOf x lane with | some c => blendParity c s | none => s)
    |> updSlip x.sid (fun y => { y with skey := dropSide s x (y.skey.kd + sNS x.words) { y.skey with kd := y.skey.kd + sNS x.words } })
    |> receiveFlit x.sid f.last |> progress x.q |> freeTaken x.sid

/-- R185: the slip that claims a write lane holds its next flit for a side row. -/
def writeHeld (s : State) (x : Slip) : Bool :=
  sBlendEn x.words && isWRITE x.words && !sideHere s x x.skey x.skey.kd (min (sNS x.words) (sElems x.words - x.skey.kd))

/-- One flit leaves a write lane's DCQ. -/
def moveToStaging (lane : Nat) (par : Mask4) (d : Row × BitVec 81) (s : State) : State :=
  let w := wlane s lane
  if owed s lane > w.staging.length then popWdcq lane s |> stageFlit lane (mkWFlit d.1 d.2)
  else
    match laneSlip s lane with
    | none => stagePlain lane none d s
    | some x =>
      if isMOVE x.words then s
      else if w.claim = 0 ∨ intakeDone x then (if blendWaits s lane then s else stagePlain lane (some x.sid) d s)
      else if writeHeld s x then s
      else stageSlip lane x par d s

/-- WRITE_FLIT_TO_STAGING (R112, R170, R410). The lanes of the reduction port feed its intake instead (R299). -/
def execWriteFlitToStaging (lane : Nat) (par : Mask4) (s : State) : Host.Outcome State Fault Refusal :=
  .next (
    let w := wlane s lane
    match w.dcq with
    | [] => s
    | d :: _ =>
      if !serving s || w.seen == 0 || decide (16 ≤ w.staging.length) || lane == 42 || lane == 43 then s
      else moveToStaging lane par d s)

end Sys2Proof.Machine
end

