-- ==== Sys2Proof/Machine/Issue.lean ====
section
/-!
DEFINITION. Machine/Issue.lean: the next transfer of every requester, the lane issue arbiters (R127, R161, R235, R276), and a write
transfer's request for arbitration with the rows it stores (R162 to R164, R277, R278).
-/
namespace Sys2Proof.Machine

/-! Ranking (R237, R248) -/

/-- R245: the requester is quarantined. -/
def quarantined (s : State) (req : Nat) : Bool := regB s (0x28C0 + 4 * (req / 32)) (req % 32)

/-- LMY_ARB_CFG.MODE: share mode. -/
def shareMode (s : State) : Bool := regB s 0x2800 0

/-- R248: a requester's weight. -/
def shareWeight (s : State) (t : Tr) : Nat :=
  if isInternal t then t.wt
  else if t.req < 64 then regArr s 0x2840 8 t.req
  else regArr s 0x2880 8 t.client

/-- The bank of beat 0; bank 0 for a transfer whose beat 0 touches none. A bank named by its physical number is the logical bank that it
serves. -/
def beat0Bank (s : State) (t : Tr) : Nat := match t.beats with | b :: _ => (logicalOf s b.bank).getD b.bank | [] => 0

/-- R234, R248: idle-steal. -/
def idleSteal (s : State) (t : Tr) : Bool := trCls s t == 0 || (shareMode s && shareWeight s t == 0)

/-- R237: round-robin distance. -/
def rrDist (s : State) (t : Tr) : Nat :=
  let p := if shareMode s then NMap.get 0 s.arb.shPtr (beat0Bank s t) else NMap.get 0 s.arb.ptr (8 * beat0Bank s t + trCls s t)
  (t.req + 206 - p) % 206

/-- R237, R248: the ranking keys, smaller first. -/
def rankKeys (s : State) (t : Tr) : List Nat :=
  if shareMode s then [b2n (idleSteal s t), 256 - NMap.get 0 s.arb.shCred t.req, rrDist s t, t.req]
  else [7 - trCls s t, rrDist s t, t.req]

def lexLt : List Nat → List Nat → Bool
  | a :: as, b :: bs => decide (a < b) || (a == b && lexLt as bs)
  | _, _ => false

/-- Transfers in rank order. -/
def rankTrs (s : State) (l : List Tr) : List Tr :=
  (ordSort (fun a b => lexLt a.1 b.1) (l.map fun t => (rankKeys s t, t))).map (·.2)

/-! Next transfers -/

/-- R235: a requester stands in a lane's order with a transfer not granted in full. -/
def standsIn (s : State) (order : List Nat) (req : Nat) : Bool :=
  order.any fun id => match trOf s id with | some t => t.req == req && !t.granted | none => false

def laneFree (s : State) (req : Nat) (rl : List Nat) (wl : Nat) : Bool :=
  (rl.all fun l => !standsIn s (rlane s l).order req) && (wl == 0 || !standsIn s (wlane s (wl - 1)).order req)

/-- The blend of a slip is ready, or it has none. -/
def blendReady (x : Slip) : Bool := !sBlendEn x.words || x.slotSt == 3

/-- R276, R278: whether a slip may claim its write lane now. -/
def claimOk (s : State) (x : Slip) : Bool :=
  let w := wlane s (sWlane x.words)
  w.claim == 0 && (w.order.all fun id => match trOf s id with | some t => t.slip != 0 | none => true)
    && (!isMOVE x.words || w.staging.isEmpty)

def hasClaim (s : State) (x : Slip) : Bool := (wlane s (sWlane x.words)).claim == x.sid + 1

/-- R127, R161: groups of the next transfer from group `g` with `left` groups remaining. -/
def nextGroups (w : BitVec 512) (g left : Nat) : Nat :=
  let q := min (8 / max (sK w) (sM w)) left
  let fits := (List.range q).filter fun i => decide (flitsUpTo w (g + i + 1) - flitsUpTo w g ≤ 32)
  max 1 fits.length

/-- R207: the holding row of row `r` of line `l`: bank and row. -/
def holdingRow (s : State) (x : Slip) (h : HeldEx) (l r : Nat) : Option (Nat × Nat) :=
  areaRow s 1 (16 * listGet 0 h.blks (l % hW x.words * hBlks x.words + r / 16) + r % 16)

/-- The beat of source row `i` of a slip's read side. -/
def readBeat (s : State) (x : Slip) (i : Nat) : Beat :=
  match x.held with
  | some h =>
    if hPark x.words then areaBeat (holdingRow s x h (i / hLrows x.words) (i % hLrows x.words))
    else mkBeat s (sCtx x.words) (sw x.words 1) (sRowOff x.words i) false
  | none => mkBeat s (sCtx x.words) (sw x.words 1) (sRowOff x.words i) false

/-- Transfers of a slip, of some kinds, that still have rows to perform. -/
def outstanding (s : State) (x : Slip) (kinds : List TrKind) : List Tr :=
  s.fr.trs.filter fun t => t.slip == x.sid + 1 && kinds.contains t.kind && !rowsDone t

/-- R211, R214: source rows of a slip, in order, whose read for delivery has passed the bank read stage. -/
def rowsPassed (s : State) (x : Slip) : Nat :=
  sK x.words * minOf 0 (x.issued :: ((outstanding s x [.rd]).filter fun t => t.grps != 0).map (·.g0))

/-- R213, R220: source rows of a HELD slip, in order, read for parking and, with PARK, written to their holding rows. -/
def rowsParked (s : State) (x : Slip) : Nat :=
  match x.held with
  | some h => minOf 0 (h.prq :: (outstanding s x [.park, .parkWr]).map (·.g0))
  | none => 0

/-- Groups of the read side that may be requested now: of a HELD slip, those of lines whose redelivery has begun and whose rows
are parked (R211, R220). -/
def readLimit (s : State) (x : Slip) : Nat :=
  match x.held with
  | some h =>
    let per := hLrows x.words / sK x.words
    let byLine := h.started * per
    let own := (x.issued / per + 1) * per
    let l := min byLine own
    if hPark x.words then min l (rowsParked s x / sK x.words) else l
  | none => sGroups x.words

/-- R226: a cancelled HELD slip that flushes, once the lines it had begun are requested in full. -/
def flushing (x : Slip) : Bool :=
  match x.held with
  | some h => x.cancel && h.flush && decide (h.started * (hLrows x.words / sK x.words) ≤ x.issued)
  | none => false

/-- Destination flits a HELD slip has requested as real flits. -/
def flitsAsked (x : Slip) : Nat := flitsUpTo x.words x.issued

/-- R127, R161, R226, R274, R278: the next read transfer of a slip. `fin` counts the generated flits of a flush. -/
def readNext (s : State) (x : Slip) : Option Tr :=
  let w := x.words
  let rl := sRlanes w
  let t := newTr x.q .rd (x.sid + 1) (sCtx w) (listGet 0 (sClients w) 0)
  if !hasRead w || x.ended || !laneFree s x.q rl 0 then none
  else if flushing x then
    let left := sFlits w - (flitsAsked x + x.fin)
    if left = 0 then none
    else some { t with rlanes := rl, beats := List.replicate (min 8 left) genBeat, ready := true, g0 := x.issued, grps := 0 }
  else if !blendReady x || readLimit s x ≤ x.issued then none
  else if isMOVE w && !hasClaim s x && !(x.issued == 0 && claimOk s x) then none
  else
    let q := nextGroups w x.issued (readLimit s x - x.issued)
    some { t with
      rlanes := rl
      beats := (List.range (q * sK w)).map fun i => readBeat s x (x.issued * sK w + i)
      ready := true, view := sw w 1, g0 := x.issued, grps := q
      last := decide (x.issued + q = sGroups w) }

/-- R162, R276 to R278: the next write transfer of a slip. -/
def writeNext (s : State) (x : Slip) : Option Tr :=
  let w := x.words
  let wl := sWlane w
  let rl := if isATOMIC w then sRlanes w else []
  let left := sStores w - x.wissued
  if !hasWrite w || x.ended || left == 0 || !laneFree s x.q rl (wl + 1) then none
  else if !(hasClaim s x || (!isMOVE w && claimOk s x)) || (isWRITE w && !blendReady x) || (isMOVE w && decide (x.fin ≤ x.wissued)) then none
  else
    let b := wRows w left
    some { newTr x.q (if isATOMIC w then .at else .wr) (x.sid + 1) (sCtx w) (listGet 0 (sClients w) 0) with
      rlanes := rl, wlane := wl + 1
      beats := (List.range b).map fun i => mkBeat s (sCtx w) (dstView w) (dstOff w (x.wissued + i)) true
      offs := if isMOVE w || sSfmt w == sDfmt w then 8 else 9
      atop := if isATOMIC w then sAtop w else 0
      view := dstView w, g0 := x.wissued, grps := b, last := decide (b = left) }

/-- A transfer that waits to be issued to lanes. -/
def unissued (s : State) (t : Tr) : Bool :=
  !t.granted && !isInternal t && t.rcyc == 0 && !isIssued s t

/-- R235, R276: the own-request transfers that may be issued: the first of each channel. -/
def ownNext (s : State) : List Tr :=
  let un := s.fr.trs.filter (unissued s)
  un.filter fun t =>
    (match un.find? (fun u => u.req == t.req && (u.rlanes == t.rlanes || u.wlane == t.wlane)) with | some u => u.id == t.id | none => false)
      && laneFree s t.req t.rlanes t.wlane && (t.wlane == 0 || (wlane s (t.wlane - 1)).claim == 0)

/-- R108, R226: a transfer that accesses no bank: its flits are generated, or its data flits are discarded. -/
def isGenerated (t : Tr) : Bool := t.beats.all fun b => b.bad == 6

/-- All transfers that ask for a lane in this cycle; a quarantine (R245) holds none that accesses no bank. -/
def issueCands (s : State) : List Tr :=
  (ownNext s ++ s.sq.live.filterMap (readNext s) ++ s.sq.live.filterMap (writeNext s)).filter fun t => !quarantined s t.req || isGenerated t

/-! Issue -/

/-- Append a transfer to the order of its lanes. -/
def joinOrders (id : Nat) (t : Tr) (s : State) : State :=
  let s := forEach t.rlanes (fun l => updRlane l fun x => { x with order := x.order ++ [id] }) s
  if t.wlane = 0 then s else updWlane (t.wlane - 1) (fun x => { x with order := x.order ++ [id] }) s

/-- R276: a slip takes its claim with its first transfer; flits found in staging may end its intake (R190). -/
def takeClaim (x : Slip) (s : State) : State :=
  if hasWrite x.words && !hasClaim s x then
    let l := sWlane x.words
    let s := updWlane l (fun w => { w with claim := x.sid + 1 }) s
    if isMOVE x.words then s else takeStaged x.sid (wlane s l).staging s |> freeTaken x.sid
  else s

/-- R235: issue one transfer; a slip's becomes a transfer of the frame. -/
def issueTr (t : Tr) (s : State) : State :=
  let t := { t with rcyc := s.cyc + 1 }
  if t.slip = 0 then setTr t s |> joinOrders t.id t
  else
    match slipOf s (t.slip - 1) with
    | none => s
    | some x =>
      let id := s.fr.nextId
      let s := takeClaim x s |> addTr t |> joinOrders id t
      updSlip x.sid (fun y =>
        if t.kind = .rd then (if t.grps = 0 then { y with fin := y.fin + t.beats.length } else { y with issued := y.issued + t.grps })
        else { y with wissued := y.wissued + t.grps }) s

/-- R272, R276: the write lane that a MOVE claims with its first read transfer. -/
def claimLane (s : State) (t : Tr) : List Nat :=
  match slipOf s (t.slip - 1) with
  | some x => if t.slip ≠ 0 ∧ isMOVE x.words ∧ !hasClaim s x then [100 + sWlane x.words] else []
  | none => []

/-- The lanes that a transfer takes in its issue cycle (write lane n as 100 + n). -/
def issueLanes (s : State) (t : Tr) : List Nat :=
  t.rlanes ++ (if t.wlane = 0 then [] else [99 + t.wlane]) ++ claimLane s t

/-- R235: the candidates in rank order; one whose lanes have all not yet issued in this cycle is issued. -/
def issueGo : List Tr → State → State
  | [], s => s
  | t :: ts, s =>
    let ls := issueLanes s t
    if ls.any s.fr.issued.contains then issueGo ts s
    else issueGo ts (issueTr t { s with fr := { s.fr with issued := ls ++ s.fr.issued } })

/-- LANE_ISSUE (R235). -/
def execLaneIssue (s : State) : Host.Outcome State Fault Refusal :=
  .next (if serving s then issueGo (rankTrs s (issueCands s)) s else s)

/-! Scale planes (R82, R164) -/

/-- R164: scale bytes from OFFSET `off` on join the chunk that the writer fills; a chunk that is complete, or that the stream leaves,
waits to be stored. -/
def feedScales (cls : Nat) : List (Nat × Bool) → Int → Slip → Slip
  | [], _, x => x
  | (v, p) :: rest, off, x =>
    let o := off.toNat
    let fresh : ScaleBuf := ⟨o / 32 * 32, [], false, cls⟩
    let x := match x.sbuf with
      | some b => if b.off = fresh.off then x else { x with sbuf := none, scq := x.scq ++ [b] }
      | none => x
    let b := x.sbuf.getD fresh
    let b : ScaleBuf := { b with bytes := NMap.set 0 b.bytes (o % 32) (v + 1), pois := b.pois || p }
    feedScales cls rest (off + 1)
      (if b.bytes.length = 32 then { x with sbuf := none, scq := x.scq ++ [b] } else { x with sbuf := some b })

/-- R164: the scales of consecutive stored rows from row `d` on, for a write transfer of a class; after the slip's last row the chunk
that the writer holds waits to be stored too. -/
def rowScales (cls : Nat) : Nat → List (List (Nat × Bool)) → Slip → Slip
  | _, [], x => x
  | d, sc :: rest, x =>
    let w := x.words
    let x := feedScales cls (sc.take (mxG (sDfmt w))) (scaleOff (sDfmt w) (dstView w) (sDstScale w) (dstOff w d)) x
    rowScales cls (d + 1) rest (if d + 1 = sStores w then { x with sbuf := none, scq := x.scq ++ x.sbuf.toList } else x)

/-- R164: the scales of the rows that a slip's write transfer stores. -/
def transferScales (x : Slip) (t : Tr) (rows : List (List (Nat × Bool))) (s : State) : State :=
  when (isMX (sDfmt x.words)) (updSlip x.sid (rowScales (trCls s t) t.g0 rows)) s

/-- R164: the scale writer still stores chunks of earlier rows; a transfer that feeds it waits. -/
def scalesWait (x : Slip) : Bool := isMX (sDfmt x.words) && !x.scq.isEmpty

/-! A write transfer's rows (R162, R163, R277, R278) -/

/-- A row as a write transfer stores it: data, enables, poison, scales, flags. -/
structure StoredRow where
  data : Row
  en : Mask4
  pois : Mask4
  scales : List (Nat × Bool)
  flags : Nat
deriving DecidableEq, Repr

/-- R277: a row the slip did not receive. -/
def missingRow (code : Nat) : StoredRow := ⟨0, 0xF, 0xF, if isMX code then List.replicate (mxG code) (0xFF, true) else [], 0⟩

/-- R105: the scales of a write flit, 0xFF where none is supplied. -/
def flitScales (code : Nat) (l : List (Nat × Bool)) : List (Nat × Bool) := (l ++ List.replicate 8 (0xFF, false)).take (mxG code)

/-- Flit `j` of a slip in its lane's staging. -/
def stagedFlit (s : State) (x : Slip) (j : Nat) : WFlit := ((wlane s (sWlane x.words)).staging[j - x.fpop]?).getD ⟨0, 0, 0xF, [], false⟩

/-- R159 to R163: the elements of stored row `d`, from the flits received so far; those that LAST came too early for are poisoned zeros
(R277). -/
def storedEls (s : State) (x : Slip) (d : Nat) : List SrcEl :=
  let w := x.words
  let ns := sNS w
  let j0 := d * sND w / ns
  let got := (List.range (min (cdiv ((d + 1) * sND w) ns) x.fin - j0)).foldr (fun i acc =>
    let f := stagedFlit s x (j0 + i)
    elemsOf (sSfmt w) f.data.toNat f.pois.toNat (flitScales (sSfmt w) f.scales) ++ acc) []
  let here := (got.drop (d * sND w - j0 * ns)).take (sND w)
  here ++ List.replicate (sND w - here.length) ⟨0, 0x7F, true⟩

/-- R277: the scales of a row of which only the first `n` elements were received: 0xFF, poisoned, for the blocks it lacks. -/
def cutScales (n : Nat) (l : List (Nat × Bool)) : List (Nat × Bool) :=
  l.zip (List.range l.length) |>.map fun (v, i) => if 32 * i < n then v else (0xFF, true)

/-- R159 to R163, R277: stored row `d` of a WRITE or ATOMIC, from the flits received; `none` where the slip received nothing of it, or
where flits of it are still to come. A row that an early LAST cuts short stores what was received, and poisoned 0x00 elements behind
it (DEDUCED, log entry 41). -/
def writeRow (s : State) (x : Slip) (d : Nat) : Option StoredRow :=
  let w := x.words
  let ns := sNS w
  let nd := sND w
  let full := decide (min (cdiv ((d + 1) * nd) ns) (sF w) ≤ x.fin)
  if !full && !(x.short && decide (d * nd < x.fin * ns)) then none
  else if sSfmt w = sDfmt w then
    let f := stagedFlit s x d
    some ⟨f.data, f.en, f.pois, if isMX (sDfmt w) then flitScales (sDfmt w) f.scales else [], 0⟩
  else
    let c := convFlit (cvtOf x) (d * nd) (storedEls s x d)
    some ⟨BitVec.ofNat 1024 c.data, if ns = nd then (stagedFlit s x d).en else BitVec.ofNat 4 (streamEnables (sDfmt w) nd),
      BitVec.ofNat 4 c.pois, if full then c.scales else cutScales (x.fin * ns - d * nd) c.scales, c.flags⟩

/-- R278: stored row `d` of a MOVE. -/
def moveRow (s : State) (x : Slip) (d : Nat) : StoredRow :=
  let f := stagedFlit s x d
  ⟨f.data, f.en, f.pois, f.scales, 0⟩

/-- Give the beats of a transfer their rows; it requests arbitration in this cycle. -/
def giveRows (t : Tr) (rows : List StoredRow) (s : State) : State :=
  setTr { t with
    beats := (t.beats.zip rows).map fun (b, r) => { b with data := r.data, pois := r.pois, en := r.en }
    ready := true, rcyc := s.cyc + 1 } s

/-- R162, R278: a slip's write transfer requests once its rows are there. -/
def slipRequest (x : Slip) (t : Tr) (s : State) : State :=
  let w := x.words
  if scalesWait x then s
  else if isMOVE w then
    let k := min t.beats.length (x.fin - t.g0)
    let t := { t with beats := t.beats.take k, grps := k, last := decide (t.g0 + k = sStores w) }
    let rows := (List.range k).map fun i => moveRow s x (t.g0 + i)
    if k = 0 then s
    else transferScales x t (rows.map (·.scales)) s |> giveRows t rows |> updSlip x.sid (fun y => { y with wissued := t.g0 + k })
  else
    let conv := if sSfmt w = sDfmt w then 0 else t.beats.length
    let rows := (List.range t.beats.length).map fun i => writeRow s x (t.g0 + i)
    if !x.short && rows.any Option.isNone then s
    else if isATOMIC w then
      match rows with
      | some r :: _ => giveRows t [r] s |> raiseCvt x r.flags |> estimate 7 conv
      | _ => setTr { t with beats := [genBeat], ready := true, rcyc := s.cyc + 1 } s
    else
      let rs := rows.map fun r => r.getD (missingRow (sDfmt w))
      transferScales x t (rs.map (·.scales)) s |> giveRows t rs |> raiseCvt x (rs.foldl (fun f r => f ||| r.flags) 0) |> estimate 7 conv

/-- The first transfer of a write lane that has not requested, with the staging entries that stand before its own. -/
def firstWaiting (s : State) : List Nat → Nat → Option (Tr × Nat)
  | [], _ => none
  | id :: ids, n =>
    match trOf s id with
    | none => firstWaiting s ids n
    | some t => if t.ready && t.kind != .drop then firstWaiting s ids (n + t.beats.length) else some (t, n)

/-- R108: discard data flits of a refused own request. -/
def dropFlits (lane : Nat) (t : Tr) (s : State) : State :=
  let w := wlane s lane
  let k := min t.grps w.staging.length
  let s := setWlane lane { w with staging := w.staging.drop k } s
  if k = t.grps then
    { s with fr := { s.fr with trs := s.fr.trs.filter fun u => u.id != t.id } }
      |> updWlane lane fun w => { w with order := w.order.filter fun i => i != t.id }
  else setTr { t with grps := t.grps - k } s

/-- WRITE_TRANSFER_REQUEST (R162, R278, R290). -/
def execWriteTransferRequest (lane : Nat) (s : State) : Host.Outcome State Fault Refusal :=
  .next (if !serving s then s
    else match firstWaiting s (wlane s lane).order 0 with
      | none => s
      | some (t, n) =>
        let st := (wlane s lane).staging
        if t.slip ≠ 0 then (match slipOf s (t.slip - 1) with | some x => slipRequest x t s | none => s)
        else if t.kind = .drop then (if n = 0 then dropFlits lane t s else s)
        else if st.length < n + t.beats.length then s
        else giveRows t (((st.drop n).take t.beats.length).map fun f => ⟨f.data, f.en, f.pois, [], 0⟩) s)

end Sys2Proof.Machine
end

