-- ==== Sys2Proof/Machine/Pigeon.lean ====
section
/-!
DEFINITION. Machine/Pigeon.lean: buckets and their descriptors (R306), and what the combiner can tell of a contribution before it takes
it: where it goes in the tree, its parked relatives, the free pigeonholes of its VC (R310 to R318).
-/
namespace Sys2Proof.Machine

/-! Buckets (R306) -/

def bktAt (s : State) (b : Nat) : Bkt := NMap.get Bkt.free s.rx.bkt b
def setBkt (b : Nat) (k : Bkt) (s : State) : State := { s with rx := { s.rx with bkt := NMap.set Bkt.free s.rx.bkt b k } }
def updBkt (b : Nat) (f : Bkt → Bkt) (s : State) : State := setBkt b (f (bktAt s b)) s

/-- Word `w` of a descriptor. -/
def dWord (d : List Word) (w : Nat) : Nat := (listGet 0 d w).toNat
def dVc (d : List Word) : Nat := bits (dWord d 0) 3 0
def dEfmt (d : List Word) : Nat := bits (dWord d 0) 7 4
def dOp (d : List Word) : Nat := bits (dWord d 0) 10 8
def dNanpol (d : List Word) : Nat := bits (dWord d 0) 13 12
def dSend (d : List Word) : Bool := bit (dWord d 0) 14
def dDten (d : List Word) : Bool := bit (dWord d 0) 15
def dDtally (d : List Word) : Nat := bits (dWord d 0) 21 16
def dOps (d : List Word) : Nat := bits (dWord d 0) 26 24
def dNgen (d : List Word) : Bool := bit (dWord d 0) 27
def dNgrp (d : List Word) : Nat := bits (dWord d 0) 30 28
def dRanks (d : List Word) : Nat := bits (dWord d 1) 11 0 + 1
def dBidx (d : List Word) : Nat := bits (dWord d 1) 31 16
def dFlits (d : List Word) : Nat := bits (dWord d 2) 14 0 + 1
def dNb (d : List Word) : Nat := bits (dWord d 2) 21 16
def dTag (d : List Word) : Nat := bits (dWord d 11) 15 0
/-- R304: D. -/
def dDepth (d : List Word) : Nat := clog2 (dRanks d)

/-- R325: the update of a flit starts as the flit is reduced. -/
def dImmediate (d : List Word) : Bool := decide (1 ≤ dOp d) && decide (dOp d ≤ 3) && dNanpol d != 0

/-! Virtual channels (R300) -/

def vcSlots (s : State) (v : Nat) : Nat := regF s (0x3840 + 4 * v) 12 4
def vcPhFirst (s : State) (v : Nat) : Nat := regF s (0x3880 + 4 * v) 15 0
def vcPhRows (s : State) (v : Nat) : Nat := regF s (0x3880 + 4 * v) 31 16

def slotsUsed (s : State) (v : Nat) : Nat := (s.rx.slots.filter fun f => f.vc == v).length
/-- Rows in use: a partial may park in the row that its sibling leaves (R313). -/
def phUsed (s : State) (v : Nat) : Nat := (dedup ((s.rx.dir.filter fun e => e.vc == v).map (·.row))).length

/-- The lowest free pigeonhole row of a VC. -/
def freeHole (s : State) (v : Nat) : Option Nat :=
  ((List.range (vcPhRows s v)).map (vcPhFirst s v + ·)).find? fun r => !(s.rx.dir.any fun e => e.vc == v && e.row == r)

/-! Contributions (R305, R313, R314) -/

/-- R305: the shard flit of a half of an intake flit. -/
def halfFlit (f : RFlit) (half : Nat) : Nat := f.flit + half

/-- R313: the way of a contribution at node (h, i) upwards: the parked partials it meets, and the node it stops at. -/
def climb (s : State) (b flit ranks depth : Nat) : Nat → Nat → Nat → List PEnt × Nat × Nat
  | 0, h, i => ([], h, i)
  | fuel + 1, h, i =>
    if depth ≤ h then ([], h, i)
    else
      let sib := i ^^^ 1
      if ranks ≤ sib <<< h then climb s b flit ranks depth fuel (h + 1) (i >>> 1)
      else match s.rx.dir.find? fun e => e.bucket == b && e.flit == flit && e.level == h && e.idx == sib with
        | some e => let r := climb s b flit ranks depth fuel (h + 1) (i >>> 1); (e :: r.1, r.2)
        | none => ([], h, i)

/-- The way of a half of an intake flit. -/
def wayOf (s : State) (f : RFlit) (half : Nat) : List PEnt × Nat × Nat :=
  let d := (bktAt s f.bucket).desc
  climb s f.bucket (halfFlit f half) (dRanks d) (dDepth d) 13 f.level f.idx

/-- The flit's root is computed or on its way to its row. -/
def rootTaken (s : State) (b flit : Nat) : Bool :=
  (bktAt s b).red.contains flit || s.rx.ops.any fun o => o.kind == 0 && o.hole.isNone && o.b == b && o.flit == flit

/-- R314: node (h, i) lies on one line of descent with a parked partial of its flit, or its flit is reduced. -/
def isDup (s : State) (f : RFlit) (half : Nat) : Bool :=
  rootTaken s f.bucket (halfFlit f half)
    || s.rx.dir.any fun e => e.bucket == f.bucket && e.flit == halfFlit f half
      && (if f.level ≤ e.level then e.idx == f.idx >>> (e.level - f.level) else e.idx >>> (f.level - e.level) == f.idx)

/-- R313: a contribution that needs a free pigeonhole: it meets no parked partial and stops below the root. -/
def needsHole (s : State) (f : RFlit) (half : Nat) : Bool :=
  let w := wayOf s f half
  !isDup s f half && w.1.isEmpty && w.2.1 != dDepth (bktAt s f.bucket).desc

/-- R315: the combiner can take this contribution now. -/
def canTake (s : State) (f : RFlit) (half : Nat) : Bool := !needsHole s f half || (freeHole s f.vc).isSome

/-- The contributions of a VC in arrival order. -/
def waitingOf (s : State) (v : Nat) : List (RFlit × Nat) :=
  (s.rx.slots.filter fun f => f.vc == v).flatMap fun f => f.todo.map fun h => (f, h)

/-- Those the combiner can take. -/
def takeable (s : State) (v : Nat) : List (RFlit × Nat) := (waitingOf s v).filter fun c => canTake s c.1 c.2

/-- R318: some contribution of the VC waits for a pigeonhole. -/
def vcWaits (s : State) (v : Nat) : Bool := (waitingOf s v).any fun c => !canTake s c.1 c.2

/-- R318: every slot of the VC holds a contribution that waits. -/
def vcStuck (s : State) (v : Nat) : Bool :=
  vcSlots s v != 0 && slotsUsed s v == vcSlots s v && (waitingOf s v).all fun c => !canTake s c.1 c.2

/-- R318: one CCLK: VCs that wait for pigeonholes are counted, those that are stuck stall. -/
def pigeonCycle (s : State) : State :=
  if s.rx.slots.isEmpty then s
  else forEach (List.range 16) (fun v s =>
    when (vcWaits s v) (bump (0x5A90 + 0x20 * (v % 16)) 1) s
      |> when (vcStuck s v && !NMap.get false s.rx.stall v) (fun s =>
          raise 34 { s with rx := { s.rx with stall := NMap.set false s.rx.stall v true } })) s

/-- R315: the class of the reduction port's bank traffic at a bank. -/
def rdxCls (s : State) (lb : Nat) : Nat := if ownerOf s lb = 10 then icls s 3 else icls s 4

end Sys2Proof.Machine
end

