-- ==== Sys2Proof/Machine/Tick.lean ====
section
/-!
DEFINITION. Machine/Tick.lean: what TCLK cycles count (R284, R342, R361, R379, R396, R408, R421, R444, R481).
-/
namespace Sys2Proof.Machine

/-- R421, R422: the time counter over `n` TCLK cycles; a hold lasts its own cycles first. -/
def TimeSt.tick (n : Nat) (m : TimeSt) : TimeSt :=
  { m with t := m.t + BitVec.ofNat 64 (n - min n m.hold), hold := m.hold - n, since := m.since + n }

/-- R368, R379: the time since the tile-reset release and since the last image word or lmy_cfg_req. -/
def CkSt.tick (n : Nat) (released : Bool) (k : CkSt) : CkSt :=
  { k with relNs := if released then k.relNs + n else k.relNs, waitNs := if k.cfgReq then k.waitNs + n else k.waitNs }

/-- R284: a queue whose slip executes counts TCLK without progress. -/
def SlipQ.tick (n : Nat) (x : SlipQ) : SlipQ := if x.run = 0 then x else { x with quiet := x.quiet + n }

/-- R350: cycles of the undivided tile clock in one CCLK at a substep. -/
def tileCycles (s : State) : Nat := 2 ^ s.pw.div

/-- R425: one CCLK in which the time counter has changed, or not. -/
def countStill (n : Nat) (s : State) : State :=
  let moved := s.tm.t != (s.tm.tick n).t && !s.ck.por
  { s with tm := { s.tm with still := if moved then 0 else s.tm.still + tileCycles s } }

/-- `n` TCLK cycles pass; none pass while TCLK is stalled (R425) or under power-on reset. -/
def tclk (n : Nat) (s : State) : State :=
  if s.ck.por || regB s 0x604C 3 then s
  else
    { s with
      tm := s.tm.tick n
      ck := s.ck.tick n (!inReset s)
      pw := { s.pw with core := s.pw.core.tclk n (leakCore s), arr := s.pw.arr.tclk n (leakArray s),
                        rtnNs := if s.pw.ckRtn then s.pw.rtnNs + n else s.pw.rtnNs }
      pr := { s.pr with winNs := if regF s 0x4814 2 0 = 2 then s.pr.winNs + n else s.pr.winNs,
                        purgeNs := if purging s then s.pr.purgeNs + n else s.pr.purgeNs }
      sq := { s.sq with q := if halted s then s.sq.q else s.sq.q.map fun e => (e.1, e.2.tick n) }
      dbg := { s.dbg with haltCnt := if halted s then s.dbg.haltCnt + n else s.dbg.haltCnt } }

end Sys2Proof.Machine
end

