-- ==== Sys2Proof/Machine/Checks.lean ====
section
/-!
DEFINITION. Machine/Checks.lean: the decode checks of a slip and their reasons (R260 to R266, R138, R149, R194, R227).
-/
namespace Sys2Proof.Machine

/-! Reason 0 -/

/-- R261, R264: the words of a slip type that must be 0. -/
def zeroWords (t : Nat) : List Nat :=
  let from_ (k : Nat) : List Nat := (List.range 16).filter fun i => decide (k ≤ i)
  match t with
  | 0 => from_ 1
  | 1 => [2, 14, 15]
  | 2 => [2, 5, 10, 14, 15]
  | 5 => [2, 3, 5, 6, 7, 8, 14, 15]
  | 6 => from_ 6
  | 7 => from_ 2
  | 8 => from_ 4
  | 9 => from_ 3
  | 10 => from_ 2
  | 11 => from_ 3
  | _ => []

/-- R264: the bits of word 1 of a control slip that must be 0. -/
def word1Zero (t : Nat) : Nat :=
  match t with
  | 6 => 0x40404040
  | 7 => 0x40404040
  | 8 => 0xFFFC0000
  | 9 => 0xFFFFFF00
  | 10 => 0xFFFFFFFE
  | 11 => 0xFFFFFFFE
  | _ => 0

/-- R264: the valid tallies of a WAIT or SIGNAL, with their targets. -/
def tsel (w : BitVec 512) : List (Nat × Nat) :=
  (List.range 4).filterMap fun j =>
    if bit (sw w 1) (8 * j + 7) then some (bits (sw w 1) (8 * j + 5) (8 * j), sw w (2 + j)) else none

def noRepeat (l : List Nat) : Bool := (dedup l).length == l.length

/-- R261: the scale-base words of a slip, each with the format on its side. -/
def scaleWords (w : BitVec 512) : List (Nat × Nat) :=
  if isREAD w || isHELD w then [(sw w 3, sSfmt w)]
  else if isWRITE w then [(sw w 3, sDfmt w)]
  else if isMOVE w then [(sw w 3, sSfmt w), (sw w 10, sDfmt w)]
  else []

/-- R261: the scale bases a slip names: the words on a side of an MX element format. -/
def scaleBases (w : BitVec 512) : List Nat := ((scaleWords w).filter fun p => isMX p.2).map (·.1)

/-- Reason 0: TYPE valid, reserved bits 0, words marked 0 are 0 (R260, R261, R264). -/
def bad0 (w : BitVec 512) : Bool :=
  let t := sType w
  let h := sw w 0
  decide (11 < t) || bit h 15
    || (bits h 13 8 != 0 && !(isREAD w || isHELD w || isATOMIC w))
    || (bit h 14 && !isREAD w)
    || (zeroWords t).any (fun i => sw w i != 0)
    || (sw w 1 &&& word1Zero t) != 0
    || (isATOMIC w && sw w 10 / 65536 != 0)
    || (isMOVE w && sw w 15 % 65536 != 0)
    || ((t == 6 || t == 7) && ((tsel w).isEmpty || !noRepeat ((tsel w).map (·.1))))
    || (scaleWords w).any (fun p => p.1 != 0 && !isMX p.2)

/-! Reasons 3 and 4 -/

/-- R65, R194: a side operand that the slip's blend uses has an invalid view address. -/
def sideBad (w : BitVec 512) : Bool :=
  let id := sBlendId w
  sBlendEn w && (((blendUsesT id || blendUsesDeq id) && !vaOk (sSide0 w)) || ((blendUsesS id || blendUsesB id) && !vaOk (sSide1 w)))

/-- Reason 3: view addresses (R65; those R261 names, side operands among them), alignment of BASE and DST (R262). -/
def bad3 (w : BitVec 512) : Bool :=
  isData w &&
    (!vaOk (sw w 1) || (isMOVE w && !vaOk (sw w 2)) || (isHELD w && hSen w && !vaOk (sw w 2)) || (scaleBases w).any (fun v => !vaOk v)
      || sideBad w || (!isATOMIC w && vaOff (sw w 1) % 128 != 0) || (isMOVE w && vaOff (sw w 2) % 128 != 0)
      || (isATOMIC w && decide (sAtop w % 16 < 2) && vaOff (sw w 1) % 128 != 0))

def readLaneOk (s : State) (ctx l : Nat) : Bool := decide (l < 65) && rlBind s l % 8 == ctx
/-- R299: WL42 and WL43 take no slip. -/
def writeLaneOk (s : State) (ctx l : Nat) : Bool := decide (l < 45) && l != 42 && l != 43 && wlBind s l % 8 == ctx

/-- Reason 4: LANES (R101, R107, R263). -/
def bad4 (s : State) (w : BitVec 512) : Bool :=
  let c := sCtx w
  let l := sw w 9
  if isREAD w || isHELD w then
    let ls := sRlanes w
    ls.isEmpty || !noRepeat ls || ls.any (fun x => !readLaneOk s c x) || (sDrop w && ls.any fun x => x != 60 && x != 61)
  else if isWRITE w then decide (l / 128 ≠ 1) || !writeLaneOk s c (sWlane w)
  else if isMOVE w then
    let rl := bits l 6 0
    !bit l 7 || !bit l 15 || l / 2 ^ 20 != 0 || !readLaneOk s c rl || !writeLaneOk s c (sWlane w)
      || rlClient rl != bits l 19 16 || wlClient (sWlane w) != bits l 19 16
  else if isATOMIC w then
    !bit l 7 || l / 65536 != 0 || !writeLaneOk s c (sWlane w) || bit l 15 != bit (sAtop w) 12
      || (bit l 15 && !readLaneOk s c (bits l 14 8))
  else false

/-! Reasons 5 and 6 -/

/-- LMY_PT_VALIDw. -/
def ptValid (s : State) (e : Nat) : Bool := regB s (0x8020 + 4 * (e / 32)) (e % 32)

/-- Reason 5: PERM (R138). -/
def bad5 (s : State) (w : BitVec 512) : Bool := hasRead w && !permOk (sPerm w) (sSfmt w) (sRows w) (ptValid s) (ptDesc s)

/-- R82: some row of the geometry lies below the element base. -/
def belowBase (w : BitVec 512) : Bool :=
  if isHELD w then
    (decide (1 < hLrows w) && bit (sw w 11) 15) || (decide (1 < hLines w) && bit (sw w 11) 31)
  else (List.range 3).any fun d => decide (1 < gN w d) && bit (sw w (11 + d)) 31

/-- R82: some destination row of a MOVE lies below the destination element base. -/
def belowDst (w : BitVec 512) : Bool :=
  let n := bits (sw w 14) 15 0 + 1
  (decide (1 < min n (sStores w)) && bit (sw w 14) 31) || (decide (n < sStores w) && bit (sw w 15) 31)

/-- Reason 6: CVT (R149). -/
def bad6 (w : BitVec 512) : Bool :=
  let c := sCvt w
  isData w &&
    (decide (12 < sSfmt w) || decide (12 < sDfmt w) || decide (4 < sRnd w) || bits c 15 14 != 0
      || (sScaledlv w && (!(isREAD w || isHELD w) || !isMX (sDfmt w)))
      || (scaleBases w).any (fun v => vaOff v % 128 != 0)
      || (hasRead w && isMX (sSfmt w) && belowBase w) || (isWRITE w && isMX (sDfmt w) && belowBase w)
      || (isMOVE w && isMX (sDfmt w) && belowDst w)
      || (isATOMIC w && (isMX (sSfmt w) || isMX (sDfmt w)))
      || (hasRead w && decide (32 * sND w < sM w * sNS w))
      || (isATOMIC w && sAtop w % 16 == 0 && sDfmt w != bits (sAtop w) 7 4)
      || (isATOMIC w && decide (1 ≤ sAtop w % 16) && decide (sAtop w % 16 ≤ 3) && sSfmt w != sDfmt w))

/-! Reason 7 -/

def psValid (s : State) (n : Nat) : Bool := regB s (0xA020 + 4 * (n / 32)) (n % 32)
def tblValid (s : State) (n : Nat) : Bool := regB s 0xA060 n

/-- R190: lanes that need slots. -/
def blendLanes (w : BitVec 512) : List Nat := if isWRITE w then [sWlane w] else sRlanes w

def activeClusters (s : State) : Nat := ncount ((List.range 9).map (clusterActive s))

/-- Reason 7: BLEND (R194), with the blends that the Waybill enables (LMY_WB_BLEN). The validity of the table that ACTFN names counts for
ACT and AGT; the EXP of BL24, which is function 6 whatever ACTFN holds (R176), does not count (DEDUCED, log entry 81). Side addresses fail
under reason 3. -/
def bad7 (s : State) (w : BitVec 512) : Bool :=
  let b := sBlendW w
  let id := sBlendId w
  let ps := psWord s (sPset w)
  if !isData w then false
  else if !sBlendEn w then b != 0
  else
    (b &&& 0xFFFFC0C0) != 0 || (if isWRITE w then !blendIsW id else blendIsH id && !isHELD w)
      || !regB s 0x4440 id || !(decide (1 ≤ sCF w) && decide (sCF w ≤ 3)) || !psValid s (sPset w)
      || (blendUsesAct id && !tblValid s (psActfn ps))
      || (blendUsesDeq id && vaOff (sSide0 w) % 128 != 0)
      || (blendSlots id == 4 && decide (1 < (blendLanes w).length))
      || (if blendSlots id = 4 then activeClusters s == 0 else decide (4 * activeClusters s < (blendLanes w).length))

/-! Reasons 8 to 14 -/

/-- NBLK: whole holding blocks of the poste restante area. -/
def hdBlocks (s : State) : Nat := regF s 0x12C0 15 0 / 16
/-- NSTAT: statistic rows in service. -/
def hdRows (s : State) : Nat := 4096 - (s.hd.gone.filter fun e => e.2).length

/-- Reason 8: the HOLD words (R227). -/
def bad8 (s : State) (w : BitVec 512) : Bool :=
  isHELD w &&
    ((sw w 12 &&& 0xFC00C000) != 0 || sw w 13 / 2 ^ 24 != 0 || (sw w 14 &&& 0xC0C00000) != 0 || hLrows w == 0
      || (hTrows w == 0 && (hAen w || hRen w))
      || !sBlendEn w || !blendIsH (sBlendId w)
      || decide (9 < sSfmt w) || (isMX (sSfmt w) && hPark w)
      || hLrows w % sK w != 0
      || (hPark w && (decide (hdBlocks s < hBlks w * hW w) || decide (regF s (0x2410 + 4 * sCtx w) 9 0 < hBlks w * hW w)))
      || decide (hdRows s < hW w) || decide (regF s (0x2410 + 4 * sCtx w) 28 16 < hW w)
      || (hSen w && (!vaOk (sw w 2) || vaOff (sw w 2) % 32 != 0)))

/-- Reason 9: ATOP (R40); an ADD keeps n_f. -/
def bad9 (w : BitVec 512) : Bool :=
  isATOMIC w && (atopBad (sAtop w) (vaOff (sw w 1) % 128) || (sAtop w % 16 == 0 && sNS w != sND w))

/-- The tallies a slip names. -/
def slipTallies (w : BitVec 512) : List Nat :=
  if sType w = 6 ∨ sType w = 7 then (tsel w).map (·.1)
  else if isHELD w then (if hAen w then [hAtally w] else []) ++ (if hRen w then [hRtally w] else [])
  else []

/-- Reason 11: every tally named is bound to CTX with EN 1. -/
def bad11 (s : State) (w : BitVec 512) : Bool := (slipTallies w).any fun t => tlyBind s t != 8 + sCtx w

/-- R127, R161: the most credits that one group of a slip takes on a lane. -/
def groupCredits (w : BitVec 512) : Nat :=
  maxOf (((sGroups w - 1) :: List.range (min 256 (sGroups w))).map fun g => flitsUpTo w (g + 1) - flitsUpTo w g)

/-- Reason 13: CREDCAP. -/
def bad13 (w : BitVec 512) : Bool :=
  ((isREAD w || isHELD w || isATOMIC w) && decide (40 < bits (sw w 0) 13 8))
    || ((isREAD w || isHELD w) && decide (sCap w < groupCredits w))

/-- R266: the first decode reason that fails; none: the slip passes. Reason 2 fails for no unit of this part (R7); what
reason 10 checks fails under R149 first or, for a number of rows, never. -/
def decodeReason (s : State) (q : Nat) (w : BitVec 512) : Option Nat :=
  if bad0 w then some 0
  else if sCtx w ≠ sqCtx s q then some 1
  else if bad3 w then some 3
  else if bad4 s w then some 4
  else if bad5 s w then some 5
  else if bad6 w then some 6
  else if bad7 s w then some 7
  else if bad8 s w then some 8
  else if bad9 w then some 9
  else if bad11 s w then some 11
  else if sType w = 8 ∧ bits (sw w 1) 17 16 = 3 then some 12
  else if bad13 w then some 13
  else if isMOVE w ∧ 16 * sND w < sM w * sNS w then some 14
  else none

/-! BUSY (R133, R195) -/

/-- Entries of a queue that have not started. -/
def waitingEnts (x : SlipQ) : List Entry := if x.run = 0 then x.ents else x.ents.drop 1

/-- The slips that are decoded and not started. -/
def decodedSlips (s : State) : List (BitVec 512) :=
  s.sq.q.flatMap fun e => ((waitingEnts e.2).filter fun n => n.dec == 1).map (·.words)

/-- A slip has delivered its last output flit on every destination lane; a MOVE, its last flit into staging. -/
def delivered (x : Slip) : Bool := if isMOVE x.words then decide (sFlits x.words ≤ x.fin) else flitsDelivered x

/-- A slip has released its last blend slot, or will take none. -/
def slotsGone (x : Slip) : Bool := x.slots.isEmpty && (x.slotSt == 3 || x.ended)

/-- R133: a permute program names a table entry. -/
def namesPt (w : BitVec 512) (e : Nat) : Bool :=
  hasRead w && pMode (sPerm w) == 1 && decide (pPA (sPerm w) ≤ e) && decide (e < pPA (sPerm w) + pM (sPerm w))

def namesPs (w : BitVec 512) (n : Nat) : Bool := sBlendEn w && sPset w == n

/-- R176, R195: the activation table of a blend; EXP is the ACT stage with function 6. -/
def blendTable (s : State) (w : BitVec 512) : Option Nat :=
  if blendUsesAct (sBlendId w) then some (psActfn (psWord s (sPset w))) else if (blendStages (sBlendId w)).any (· == .exp) then some 6 else none

def namesTbl (s : State) (w : BitVec 512) (n : Nat) : Bool := sBlendEn w && blendTable s w == some n

/-- LMY_PT_BUSYw. -/
def ptBusy (s : State) (e : Nat) : Bool :=
  (decodedSlips s).any (namesPt · e) || s.sq.live.any fun x => namesPt x.words e && !delivered x

/-- LMY_BT_PSBUSYw. -/
def psBusy (s : State) (n : Nat) : Bool :=
  (decodedSlips s).any (namesPs · n) || s.sq.live.any fun x => namesPs x.words n && !slotsGone x

/-- LMY_BT_TBLBUSY. -/
def tblBusy (s : State) (n : Nat) : Bool :=
  (decodedSlips s).any (namesTbl s · n) || s.sq.live.any fun x => namesTbl s x.words n && !slotsGone x

end Sys2Proof.Machine
end

