-- ==== Sys2Proof/Machine/Forward.lean ====
section
/-!
DEFINITION. Machine/Forward.lean: forwarding of failing units onto spares (R462 to R475).
-/
namespace Sys2Proof.Machine

/-! Windows and the storm guard (R462, R463) -/

/-- FWD_WINDOW_END (R462): the counts restart once the time counter stands in another window. -/
def execFwdWindowEnd (s : State) : Host.Outcome State Fault Refusal := .next (if inReset s then s else openWindow s)

/-- LMY_FWD_STATUS.STORM. -/
def inStorm (s : State) : Bool := regB s 0x704C 22

/-- STORM (R463). -/
def execStorm (s : State) : Host.Outcome State Fault Refusal :=
  .next (
    let s := openStorm s
    let n := regF s 0x7044 19 16
    if loaded s && n != 0 && decide (n ≤ s.fw.storm.length) && !inStorm s then orReg 0x704C (2 ^ 22) s |> raise 9 else s)

/-- STORM_WINDOW_END (R463): the banks are forgotten once the time counter stands in another millisecond. -/
def execStormWindowEnd (s : State) : Host.Outcome State Fault Refusal := .next (if inReset s then s else openStorm s)

/-! Starting (R464) -/

/-- R464, R475: the entry queue has a free place. Of forwardings under way that end while it is full, the entries wait behind it
(DESIGN CHOICE, log entry 53). -/
def entryRoom (s : State) : Bool := decide (s.fw.ents.length < 8)

/-- R463, R464: a pending unit that may start. -/
def mayForward (s : State) (kind unit : Nat) : Bool :=
  NMap.get 0 s.fw.pend (unitKey kind unit) != 0
    && (NMap.get false s.fw.cmd (unitKey kind unit) || (regB s 0x7040 24 && !inStorm s))

/-- The trigger a pending unit was set by (R475 TRIG). -/
def trigOf (s : State) (kind unit : Nat) : Nat := NMap.get 0 s.fw.pend (unitKey kind unit) - 1

/-- R464: starting a unit clears its pending bit. -/
def unpend (kind unit : Nat) (s : State) : State :=
  { s with fw := { s.fw with
      pend := NMap.set 0 s.fw.pend (unitKey kind unit) 0
      cmd := NMap.set false s.fw.cmd (unitKey kind unit) false } }

/-- R464: the bank that starts next: one whose trigger was an uncorrectable error first, then the lowest. -/
def nextBank (s : State) : Option Nat :=
  match (List.range 96).find? fun b => mayForward s 0 b && trigOf s 0 b == 2 with
  | some b => some b
  | none => (List.range 96).find? fun b => mayForward s 0 b

/-- R465, R469, R474: the migration of a logical bank starts. Of a bank that is Off, or going there, nothing is copied. The spare is
assigned, so that LMY_SPARE_PSTATE shows 0 for it (R61), from here on (DESIGN CHOICE, log entry 81). -/
def startBank (lb : Nat) (s : State) : State :=
  let trig := trigOf s 0 lb
  let s := unpend 0 lb s
  match s.fw.spB with
  | [] => if bankDegraded s lb then s else orReg (0x7078 + 4 * (lb / 32 % 3)) (2 ^ (lb % 32)) s |> raise 15
  | pb :: rest =>
    let m : Mig := ⟨lb, pb, 1, 0, 0, trig, []⟩
    let p := powOf s (pbankOf s lb)
    let s := { s with fw := { s.fw with spB := rest, mig := some m } }
    let off : Bool := match p.trans with | some r => r.target == 0 | none => p.st == 0 && p.wait.isNone
    if off then finishMig m p.held none s
    else setPow pb ((powOf s pb).request ⟨2, false⟩) s

/-- R471: the planes of a network in service, and its spares. -/
def planesOf (s : State) (kind : Nat) : BitVec 18 × BitVec 18 := if kind = 1 then (s.fw.plR, s.fw.spR) else (s.fw.plW, s.fw.spW)

def setPlanes (kind : Nat) (act sp : BitVec 18) (s : State) : State :=
  if kind = 1 then { s with fw := { s.fw with plR := act, spR := sp } } else { s with fw := { s.fw with plW := act, spW := sp } }

/-- R338: forwarding powers a spare's domain up and sets its request bit. -/
def wakeSpare (i : Nat) (s : State) : State := orReg 0x40A0 (2 ^ i) s |> setDom i ((domOf s i).request ⟨2, false⟩)

/-- R338: the domain of retired units is taken Off and its request bit cleared. -/
def retireDom (i : Nat) (s : State) : State := clrReg 0x40A0 (2 ^ i) s |> setDom i (domOf s i).retire

/-- R338, R471: a middle-plane domain neither of whose planes is active or spare is retired. -/
def retirePlaneDom (k : Nat) (s : State) : State :=
  if s.fw.plR.getLsbD k || s.fw.plW.getLsbD k || s.fw.spR.getLsbD k || s.fw.spW.getLsbD k then s else retireDom k s

/-- R464: the plane that starts next: read planes before write planes. -/
def nextPlane (s : State) : Option (Nat × Nat) :=
  match (List.range 18).find? fun k => mayForward s 1 k with
  | some k => some (1, k)
  | none => ((List.range 18).find? fun k => mayForward s 2 k).map fun k => (2, k)

/-- R471, R474: the forwarding of a middle plane starts. -/
def startPlane (kind k : Nat) (s : State) : State :=
  let trig := trigOf s kind k
  let s := unpend kind k s
  let p := planesOf s kind
  if ncount ((List.range 18).map p.1.getLsbD) ≤ 1 then
    (if regB s 0x704C 11 then s else orReg 0x704C 0x800 s |> raise 15)
  else match [16, 17].find? fun j => p.2.getLsbD j with
    | some j =>
      setPlanes kind p.1 (p.2 &&& ~~~ BitVec.ofNat 18 (2 ^ j)) { s with fw := { s.fw with plane := some ⟨kind, k, j + 1, trig⟩ } }
        |> wakeSpare j
    | none =>
      setPlanes kind (p.1 &&& ~~~ BitVec.ofNat 18 (2 ^ k)) p.2 { s with fw := { s.fw with plane := some ⟨kind, k, 0, trig⟩ } } |> raise 15

/-- R472, R474: the forwarding of a blend cluster starts. -/
def startCluster (c : Nat) (s : State) : State :=
  let trig := trigOf s 3 c
  let s := unpend 3 c s
  if s.fw.spC.getLsbD 8 then
    { s with fw := { s.fw with spC := 0, cl := s.fw.cl ||| 0x100, cluster := some ⟨3, c, 9, trig⟩ } } |> wakeSpare 26
  else raise 15 { s with fw := { s.fw with cluster := some ⟨3, c, 0, trig⟩ } }

/-- R473: the lowest unused spare statistic row. -/
def spareRow (s : State) : Option Nat :=
  (List.range 256).find? fun r => !s.fw.rowsUsed.contains r

/-- R473, R474: a released statistic row is replaced, or leaves service. -/
def substituteRow (row spare trig : Nat) (s : State) : State :=
  let s := { s with fw := { s.fw with stat := none } }
  if spare = 0 then fwdDone 4 true row 0 trig { s with hd := { s.hd with gone := NMap.set false s.hd.gone row true } }
  else fwdDone 4 false row (spare - 1) trig { s with hd := { s.hd with sub := NMap.set 0 s.hd.sub row spare } }

/-- A slip holds the statistic row. -/
def rowHeld (s : State) (row : Nat) : Bool := NMap.get 0 s.hd.row row != 0

/-- R473, R474: the forwarding of a statistic row starts; it takes effect at once where no slip holds the row. -/
def startRow (row : Nat) (s : State) : State :=
  let trig := trigOf s 4 row
  let s := unpend 4 row s
  let spare := match spareRow s with | some r => r + 1 | none => 0
  let s := if spare = 0 then raise 15 s else { s with fw := { s.fw with rowsUsed := (spare - 1) :: s.fw.rowsUsed } }
  if rowHeld s row then
    { s with fw := { s.fw with stat := some ⟨4, row, spare, trig⟩ } }
  else substituteRow row spare trig s

/-- FWD_START (R464). -/
def execFwdStart (kind : FwdKind) (s : State) : Host.Outcome State Fault Refusal :=
  .next (if !running s || !entryRoom s then s
    else match kind with
      | .bank => if s.fw.mig.isSome then s else match nextBank s with | some b => startBank b s | none => s
      | .plane => if s.fw.plane.isSome then s else match nextPlane s with | some p => startPlane p.1 p.2 s | none => s
      | .cluster =>
        if s.fw.cluster.isSome then s
        else match (List.range 9).find? fun c => mayForward s 3 c with | some c => startCluster c s | none => s
      | .statRow =>
        if s.fw.stat.isSome then s
        else match (List.range 4096).find? fun r => mayForward s 4 r with | some r => startRow r s | none => s)

/-! Bank migration (R465 to R468) -/

def setMig (m : Mig) (s : State) : State := { s with fw := { s.fw with mig := some m } }

/-- MIGRATION_COPY_START (R465). -/
def execMigrationCopyStart (s : State) : Host.Outcome State Fault Refusal :=
  .next (match s.fw.mig with
    | some m => if running s && m.phase == 1 && bankOn s (128 + m.pb) then setMig { m with phase := 2, cp := 0, cw := 0 } s else s
    | none => s)

/-- Copy reads requested and not yet performed. -/
def copiesAsked (s : State) : Nat := (s.fr.trs.filter fun t => t.job == .copyRd && t.passed.isEmpty).length

/-- COPY_ROW (R466): the next source row is requested through IR17, at class 0; its write follows through IW8. `ups` are bits of the row
that have flipped by then. -/
def execCopyRow (ups : List Upset) (s : State) : Host.Outcome State Fault Refusal :=
  .next (match s.fw.mig with
    | some m =>
      let r := m.cp + copiesAsked s
      if running s && m.phase == 2 && decide (r < 512) && !portBusy s 191 then
        strikeRow (pbankOf s m.lb) r ups s |> addTr (exchTr s 191 false .copyRd 0 (rowBeat m.lb r))
      else s
    | none => s)

/-- R466: a row of the source has been read, its initialised chunks in the enables: its write to the spare is requested. -/
def copyRead (b : Beat) (s : State) : State :=
  match s.fw.mig with
  | some m => setMig { m with cp := m.cp + 1 } s |> addTr (exchTr s 202 true .copyWr 0 ((rowBeat (128 + m.pb) b.row).store b.data b.pois b.en))
  | none => s

/-- R465: a copy write has reached the spare; the last ends COPY. -/
def copyWritten (s : State) : State :=
  match s.fw.mig with
  | some m => setMig { m with cw := m.cw + 1, phase := if m.cw = 511 then 3 else m.phase } s
  | none => s

/-- Dual writes requested and not yet performed. -/
def dualsAsked (s : State) : Nat := (s.fr.trs.filter fun t => t.job == .dual && t.passed.isEmpty).length

/-- R467: the next dual write is requested through IW9, once the copy write of its row has reached the spare, at the class and weight
of the store. -/
def askDual (s : State) : State :=
  match s.fw.mig with
  | none => s
  | some m =>
    match m.dual[dualsAsked s]? with
    | none => s
    | some d =>
      if portBusy s 203 || decide (m.cw ≤ d.row) then s
      else
        let b := (rowBeat (128 + m.pb) d.row).store (rowOf (d.chunks.map (·.data))) (maskOf (d.chunks.map (·.pois))) (BitVec.ofNat 4 d.en)
        addTr { exchTr s 203 true .dual d.cls b with wt := d.wt } s

/-- R467: the first dual write has reached the spare. -/
def dualWritten (s : State) : State :=
  match s.fw.mig with
  | some m => setMig { m with dual := m.dual.drop 1 } s
  | none => s

/-- MIGRATION_SWITCH (R468): every row is copied and no dual write is queued. Beats granted before it complete on the source, and the
dual writes of their stores still go to the spare. -/
def execMigrationSwitch (s : State) : Host.Outcome State Fault Refusal :=
  .next (match s.fw.mig with
    | some m =>
      if running s && m.phase == 3 && m.dual.isEmpty && bankOn s m.lb && bankOn s (128 + m.pb) then finishMig m none (some { m with phase := 4 }) s else s
    | none => s)

/-- R468: a granted beat is left behind at the source of a switch. -/
def leftBehind (s : State) : Bool :=
  s.fr.trs.any fun t => t.granted && t.beats.any fun b => b.bad == 0 && !b.done && decide (256 ≤ b.bank)

/-- R465, R468: SWITCH lasts to the decision that follows it (phase 5 reads as 0); the migration is over when the beats left behind are
performed and their dual writes have reached the spare. -/
def settleMig (s : State) : State :=
  match s.fw.mig with
  | some m =>
    if m.phase = 4 then setMig { m with phase := 5 } s
    else if m.phase = 5 ∧ m.dual = [] ∧ !leftBehind s then endTail s
    else s
  | none => s

/-! Planes, clusters, statistic rows (R471 to R474) -/

/-- PLANE_FORWARD_DONE (R471): the spare's domain is On; the spare is active and the failing plane has no leg. -/
def execPlaneForwardDone (s : State) : Host.Outcome State Fault Refusal :=
  .next (match s.fw.plane with
    | some r =>
      if !running s || (r.spare != 0 && (domOf s (r.spare - 1)).st != 2) then s
      else
        let p := planesOf s r.kind
        let act := p.1 &&& ~~~ BitVec.ofNat 18 (2 ^ r.unit)
        setPlanes r.kind (if r.spare = 0 then act else act ||| BitVec.ofNat 18 (2 ^ (r.spare - 1))) p.2
            { s with fw := { s.fw with plane := none } }
          |> retirePlaneDom r.unit |> fwdDone r.kind (r.spare == 0) r.unit (r.spare - 1) r.trig
    | none => s)

/-- CLUSTER_RETIRE (R472). -/
def execClusterRetire (s : State) : Host.Outcome State Fault Refusal :=
  .next (match s.fw.cluster with
    | some r =>
      if running s && clusterRetiring s r.unit && s.bl.slot.all (fun e => e.1 / 4 != r.unit) then
        { s with fw := { s.fw with cluster := none, cl := s.fw.cl &&& ~~~ BitVec.ofNat 9 (2 ^ r.unit) } }
          |> retireDom (18 + r.unit) |> fwdDone 3 (r.spare == 0) r.unit (r.spare - 1) r.trig
      else s
    | none => s)

/-- STATROW_SUBSTITUTE (R473). -/
def execStatrowSubstitute (s : State) : Host.Outcome State Fault Refusal :=
  .next (match s.fw.stat with
    | some r =>
      if running s && !rowHeld s r.unit then substituteRow r.unit r.spare r.trig s else s
    | none => s)

/-! Commands (R462, R463, R470, R475, R477) -/

/-- R477: a command is refused. -/
def refuseFwd (s : State) : State := orReg 0x704C (2 ^ 23) s

/-- R462: FORWARD sets the unit pending; a unit that is being forwarded ignores it. -/
def commandForward (kind unit : Nat) (s : State) : State :=
  if !unitLive s kind unit then refuseFwd s
  else if unitBusy s kind unit then s
  else
    let k := unitKey kind unit
    let old := NMap.get 0 s.fw.pend k
    { s with fw := { s.fw with pend := NMap.set 0 s.fw.pend k (max 1 old), cmd := NMap.set false s.fw.cmd k true } } |> raise 9

/-- FORWARD (R462). -/
def execForward (a : BusAcc) (kind : BitVec 3) (unit : BitVec 12) (s : State) : Host.Outcome State Fault Refusal :=
  .next (busWrite a 0x7048 (commandForward kind.toNat unit.toNat) s)

/-- R470: CANCEL before the switch. -/
def commandCancel (s : State) : State :=
  if (match s.fw.mig with | some m => decide (m.phase < 4) | none => false) then cancelMig s else refuseFwd s

/-- FWD_CANCEL (R470). -/
def execFwdCancel (a : BusAcc) (s : State) : Host.Outcome State Fault Refusal := .next (busWrite a 0x7048 commandCancel s)

/-- R475: ACK removes the head entry. -/
def commandAck (s : State) : State :=
  if s.fw.ents.isEmpty then refuseFwd s else { s with fw := { s.fw with ents := s.fw.ents.drop 1 } }

/-- ACK (R475). -/
def execAck (a : BusAcc) (s : State) : Host.Outcome State Fault Refusal := .next (busWrite a 0x7048 commandAck s)

/-- R463: RESUMEAUTO. -/
def commandResume (s : State) : State := clrReg 0x704C (2 ^ 22) s

/-- RESUMEAUTO (R463). -/
def execResumeauto (a : BusAcc) (s : State) : Host.Outcome State Fault Refusal := .next (busWrite a 0x7048 commandResume s)

end Sys2Proof.Machine
end

