-- ==== Sys2Proof/Machine/Slips.lean ====
section
/-!
DEFINITION. Machine/Slips.lean: slip queues and tallies: commits and fetch orders, decode, starts and ends of slips, control slips, tallies,
queue commands (R255 to R287).
-/
namespace Sys2Proof.Machine

/-! Tallies (R268 to R270) -/

def tally (s : State) (t : Nat) : Word := reg s (0x3700 + 4 * t)

/-- R270: `n` increments of a tally. -/
def tallyAdd (n t : Nat) (s : State) : State := setReg (0x3700 + 4 * (t % 64)) (tally s t + BitVec.ofNat 32 n) s

/-- R269: tally `t` has reached a target. -/
def reached (s : State) (t target : Nat) : Bool := decide (((tally s t).toNat + 2 ^ 32 - target % 2 ^ 32) % 2 ^ 32 < 2 ^ 31)

/-- TALLY_INC (R270, R498): a tally not bound to the writer's context is refused. -/
def execTallyInc (a : BusAcc) (t : BitVec 6) (s : State) : Host.Outcome State Fault Refusal :=
  .next (busWriteFor a 0x3014 (fun s => lvl a == 0 || tlyBind s t.toNat % 8 == lvl a) (tallyAdd 1 t.toNat) s)

/-- TALLY_WRITE (R270): the value written is applied first, then the `incs` increments that reach the tally in the same cycle. -/
def execTallyWrite (a : BusAcc) (t : BitVec 6) (w : Word) (incs : Nat) (s : State) : Host.Outcome State Fault Refusal :=
  .next (busWrite a (0x3700 + 4 * t.toNat) (setReg (0x3700 + 4 * (t.toNat % 64)) w) s |> when (running s) (tallyAdd incs t.toNat))

/-! Logs and stops (R266, R282, R286) -/

/-- LMY_SQ_LOG0/1 for a slip of a queue. -/
def slipLog (kind q reason : Nat) (w : BitVec 512) (ent : Nat) (s : State) : State :=
  fillLog 0x3008 (fld kind 2 + fld q 6 + fld (reason % 16) 12 + fld (sType w) 16 + fld ent 20 + fld (sqCtx s q) 25) (sTag w) s

/-- R266: a malformed slip whose turn it is stops its queue. -/
def settleHead (q : Nat) (s : State) : State :=
  let x := queueOf s q
  match x.ents with
  | e :: _ =>
    if x.run = 0 ∧ x.stop = 0 ∧ !x.pause ∧ 2 ≤ e.dec then
      updQueue q (fun y => { y with stop := 4, refused := e.dec - 2 }) s |> bump (0x5790 + 0x40 * (sqCtx s q % 8)) 1 |> slipLog 0 q (e.dec - 2) e.words e.idx
        |> raise 24
    else s
  | [] => s

/-! Commits (R256, R259) -/

/-- The window word 15 of a queue. -/
def commitOff (q : Nat) : Nat := 0xC000 + 256 * q + 60

/-- R256: a refused commit. -/
def refuseCommit (q : Nat) (s : State) : State :=
  let f := sqFetch s q
  bump (0x5798 + 0x40 * (sqCtx s q % 8)) 1 s
    |> fillLog 0x3008 (fld (if f then 5 else 4) 2 + fld q 6 + fld (sType (queueOf s q).stage) 16 + fld (sqCtx s q) 25) 0
    |> raise (if f then 30 else 29)

/-- Store a staging word. -/
def stageWord (q i : Nat) (w : Word) (s : State) : State :=
  updQueue q (fun x => { x with stage := BitVec.ofNat 512 (setBits x.stage.toNat (32 * i + 31) (32 * i) w.toNat) }) s

/-- R259: a write of words 0 to 14 of a queue's window. -/
def writeStage (a : BusAcc) (q i : Nat) (w : Word) (s : State) : State :=
  if (queueOf s q).ford && !a.dma then s else stageWord q i w s

/-- R255, R256, R410: the commit of what the staging slip holds. -/
def commitStaged (q : Nat) (s : State) : State :=
  let x := queueOf s q
  if purged s ∨ 32 ≤ x.ents.length ∨ !sqEn s q ∨ (sqFetch s q ∧ (!x.ford ∨ x.fleft = 0)) then refuseCommit q s
  else
    let s := updQueue q (fun y => { y with
      ents := y.ents ++ [⟨y.tail, y.stage, 0, 0⟩]
      tail := (y.tail + 1) % 32
      fleft := if sqFetch s q then y.fleft - 1 else y.fleft
      ford := y.ford && !(sqFetch s q && y.fleft == 1) }) s
    when (sqFetch s q) (fun s => setRegF (0x310C + 16 * (q % 64)) 31 16 (regF s (0x310C + 16 * q) 31 16 + 1) s) s

/-- R283: a commit of the tile DMA that belongs to an order issued before a FLUSH: it commits its orders one after the other, so those
still due come first (DEDUCED, log entry 84). -/
def staleCommit (a : BusAcc) (q : Nat) (s : State) : Bool := a.dma && sqFetch s q && decide (0 < (queueOf s q).stale)

/-- R256, R259, R283: a write of word 15 of a queue's window. -/
def commitSlip (a : BusAcc) (q : Nat) (w : Word) (s : State) : State :=
  if (queueOf s q).ford && !a.dma then refuseCommit q s
  else if staleCommit a q s then stageWord q 15 w s |> updQueue q (fun x => { x with stale := x.stale - 1 }) |> refuseCommit q
  else stageWord q 15 w s |> commitStaged q

/-- SLIP_COMMIT (R256, R257, R259). -/
def execSlipCommit (a : BusAcc) (q : BitVec 6) (w : Word) (s : State) : Host.Outcome State Fault Refusal :=
  .next (busWrite a (commitOff q.toNat) (commitSlip a q.toNat w) s)

/-! Fetch orders (R257, R258) -/

/-- The slips available in a queue's ring. -/
def ringAvail (s : State) (q : Nat) : Nat := (regF s (0x310C + 16 * q) 15 0 + 65536 - regF s (0x310C + 16 * q) 31 16) % 65536

/-- R257: a fetch order may be issued; RL61 gives it one credit and room (R109, R110). -/
def mayFetch (s : State) (q : Nat) : Bool :=
  let x := queueOf s q
  let av := ringAvail s q
  serving s && sqFetch s q && !x.ford && regF s (0x3108 + 16 * q) 3 0 != 0 && av != 0
    && decide (min (max 1 (regF s (0x3108 + 16 * q) 13 8)) av ≤ 32 - x.ents.length)
    && decide (1 ≤ (rlane s 61).cred) && decide ((rlane s 61).landing.length < 24)

/-- R257: N of the next order. -/
def fetchCount (s : State) (q : Nat) : Nat :=
  let ring := 2 ^ regF s (0x3108 + 16 * q) 3 0
  min (min (32 - (queueOf s q).ents.length) (ringAvail s q)) (min 32 (ring - regF s (0x310C + 16 * q) 31 16 % ring))

/-- R258: the data of a fetch order flit. -/
def fetchFlit (s : State) (q : Nat) : Row :=
  let ring := 2 ^ regF s (0x3108 + 16 * q) 3 0
  let base := (reg s (0x3500 + 8 * q)).toNat + 2 ^ 32 * (reg s (0x3504 + 8 * q)).toNat
  BitVec.ofNat 1024 ((base + 64 * (regF s (0x310C + 16 * q) 31 16 % ring)) % 2 ^ 64 + fld q 64 + fld (fetchCount s q) 72
    + fld ((queueOf s q).fseq % 65536) 80)

/-- FETCH_ORDER (R257, R258). -/
def execFetchOrder (q : BitVec 6) (s : State) : Host.Outcome State Fault Refusal :=
  .next (
    let q := q.toNat
    if !mayFetch s q then s
    else
      updQueue q (fun x => { x with ford := true, fleft := fetchCount s q, fseq := x.fseq + 1, fctx := sqCtx s q }) s
        |> updRlane 61 (fun x => { x with cred := x.cred - 1 })
        |> land 61 ⟨fetchFlit s q, sideband 0 (sqCtx s q) true 0 0xF [] false, 0, 0, 0⟩)

/-! Decode (R265, R266) -/

/-- A WAIT or FENCE. -/
def isGate (w : BitVec 512) : Bool := sType w == 6 || sType w == 10

/-- R265: the entry that may be decoded: the oldest undecoded one, its predecessors decoded and passed, no WAIT or FENCE before it
incomplete; `done`: the executing slip, at the head, is complete in this sense. -/
def nextDecode (done : Bool) : List Entry → Option Entry
  | [] => none
  | e :: es => if e.dec = 0 then some e else if e.dec = 1 ∧ (done ∨ !isGate e.words) then nextDecode false es else none

/-- The executing slip of a queue. -/
def running? (s : State) (q : Nat) : Option Slip :=
  let r := (queueOf s q).run
  if r = 0 then none else slipOf s (r - 1)

/-- R154: a context's seed. -/
def seedOf (s : State) (c : Nat) : Nat := (reg s (0x1A40 + 8 * c)).toNat + 2 ^ 32 * (reg s (0x1A44 + 8 * c)).toNat

/-- Record the decode of a queue's entry, with the seed of its context as it then stands (R154). -/
def markDecoded (q idx : Nat) (d : Nat) (s : State) : State :=
  updQueue q (fun x => { x with ents := x.ents.map fun e => if e.idx = idx then { e with dec := d, seed := seedOf s (sCtx e.words) } else e }) s

/-- SLIP_DECODE (R265, R266). -/
def execSlipDecode (q : BitVec 6) (s : State) : Host.Outcome State Fault Refusal :=
  .next (
    let x := queueOf s q.toNat
    if !serving s || x.stop == 4 then s
    else match nextDecode (match running? s q.toNat with | some y => y.met | none => false) x.ents with
      | none => s
      | some e =>
        match decodeReason s q.toNat e.words with
        | none => markDecoded q.toNat e.idx 1 s
        | some r => markDecoded q.toNat e.idx (2 + r) s |> settleHead q.toNat)

/-! Starts (R267) -/

/-- A slip as it starts. -/
def newSlip (s : State) (q : Nat) (e : Entry) : Slip :=
  let w := e.words
  { sid := s.sq.nextSid, q := q, ent := e.idx, words := w, start := cclkNow s, step := (reg s (0x3040 + 4 * sCtx w)).toNat, met := false,
    ended := false, fault := false, cancel := false, ev56 := false, ev57 := false, sent := false, issued := 0, lanes := [], slotSt := 0,
    slots := [], fin := 0, fpop := 0, plain := 0, short := false, wissued := 0, stored := 0,
    skey := SLane.empty, sbuf := none, scq := [], cvf := 0, blf := 0,
    seed := e.seed,
    bp := hasRead w && isMX (sSfmt w) && blockPreserving (sPerm w) (sSfmt w) (ptDesc s), held := none }

/-- R267: the head of a queue, where it may start a slip of TYPE `t`. -/
def mayStart (s : State) (q t : Nat) : Option Entry :=
  let x := queueOf s q
  match x.ents with
  | e :: _ => if serving s && x.run == 0 && x.stop == 0 && !x.pause && e.dec == 1 && sType e.words == t then some e else none
  | [] => none

/-- Put a started slip into execution. -/
def beginSlip (x : Slip) (s : State) : State :=
  { s with sq := { s.sq with live := s.sq.live ++ [x], nextSid := s.sq.nextSid + 1 } }
    |> updQueue x.q (fun y => { y with run := x.sid + 1 }) |> progress x.q

/-- R190: a slip asks for its blend slots. -/
def askSlots (sid : Nat) (s : State) : State :=
  updSlip sid (fun y => { y with slotSt := 1 }) { s with bl := { s.bl with wait := s.bl.wait ++ [sid] } }

/-- What every data slip does as it starts: begin postmark, watch units (R450). -/
def beginData (path : Nat) (x : Slip) (s : State) : State := beginSlip x s |> sbegin x |> watchMatch (watchView x path)

/-- Start the head of a queue where it has TYPE `t`. -/
def startWith (q t : Nat) (act : Slip → State → State) (s : State) : State :=
  match mayStart s q t with
  | some e => act (newSlip s q e) s
  | none => s

/-! Ends (R267, R282) -/

/-- R276: a slip gives up its write lane. -/
def dropClaim (x : Slip) (s : State) : State :=
  if hasWrite x.words && hasClaim s x then updWlane (sWlane x.words) (fun w => { w with claim := 0 }) s else s

/-- R282: a slip that ends with a fault stops its queue. -/
def stopOnFault (x : Slip) (s : State) : State :=
  if x.fault then
    updQueue x.q (fun y => { y with stop := 3 }) s |> slipLog 1 x.q 0 x.words x.ent |> raise 25
  else s

/-- R267: the executing slip of a queue ends; its entry is free. -/
def endSlip (sid : Nat) (s : State) : State :=
  match slipOf s sid with
  | none => s
  | some x =>
    updSlip sid (fun y => { y with ended := true }) s |> dropClaim x
      |> updQueue x.q (fun y => { y with run := 0, ents := y.ents.drop 1 })
      |> bump (0x57B0 + 0x40 * (sCtx x.words % 8)) 1 |> xbump (2048 + x.q) 1 |> progress x.q
      |> maybeSend sid |> stopOnFault x |> settleHead x.q |> dropSlip sid

/-- A read side's rows are all read: elements, scales and side rows. -/
def readDone (s : State) (x : Slip) : Bool :=
  let w := x.words
  decide (sGroups w ≤ x.issued) && (outstanding s x [.rd, .ird]).isEmpty && (sRlanes w).all fun l =>
    decide (sideTotal s w ≤ (slane x l).sideN) && (!isMX (sSfmt w) || decide (sRows w ≤ (slane x l).scQ))

/-- R267: the end condition of an executing slip by its type. -/
def mayEnd (s : State) (x : Slip) : Bool :=
  let w := x.words
  if x.ended then false
  else if isREAD w then readDone s x
  else if isWRITE w || isMOVE w then decide (sStores w ≤ x.stored) && x.sbuf.isNone && x.scq.isEmpty
  else if isATOMIC w then decide (sStores w ≤ x.stored) && s.fr.trs.all fun t => t.slip != x.sid + 1 || decide (t.gcyc + t.offs + 1 ≤ s.cyc)
  else if isHELD w then (match x.held with | some h => h.st == 4 | none => false)
  else if isGate w then x.met
  else true

/-- SLIP_END (R267, R282). -/
def execSlipEnd (q : BitVec 6) (s : State) : Host.Outcome State Fault Refusal :=
  .next (
    match running? s q.toNat with
    | some x => if running s && mayEnd s x then endSlip x.sid s else s
    | none => s)

/-! The types -/

/-- NOP (R267): it starts and ends. -/
def execNop (q : BitVec 6) (s : State) : Host.Outcome State Fault Refusal :=
  .next (startWith q.toNat 0 (fun x s => beginSlip x s |> endSlip x.sid) s)

/-- READ (R274). -/
def execRead (q : BitVec 6) (s : State) : Host.Outcome State Fault Refusal :=
  .next (startWith q.toNat 1 (fun x s => beginData 0 x s |> when (sBlendEn x.words) (askSlots x.sid)) s)

/-- WRITE (R277). -/
def execWrite (q : BitVec 6) (s : State) : Host.Outcome State Fault Refusal :=
  .next (startWith q.toNat 2 (fun x s => beginData 1 x s |> when (sBlendEn x.words) (askSlots x.sid)) s)

/-- MOVE (R278). -/
def execMove (q : BitVec 6) (s : State) : Host.Outcome State Fault Refusal :=
  .next (startWith q.toNat 3 (fun x s => beginData 1 x s |> when (sBlendEn x.words) (askSlots x.sid)) s)

/-- R208: a held delivery that waits for its reservation. -/
def newHeld : HeldEx := ⟨1, [], [], 0, 0, 0, [], 0, [], [], 0, 0, 0, false⟩

/-- HELD (R208): the slip requests its whole reservation. LMY_HD_QSTATEq.LDONE starts at 0. -/
def execHeld (q : BitVec 6) (s : State) : Host.Outcome State Fault Refusal :=
  .next (startWith q.toNat 4 (fun x s =>
    beginData 0 { x with held := some newHeld } s |> setReg (0x2500 + 4 * (x.q % 64)) 0
      |> fun s => { s with hd := { s.hd with wait := s.hd.wait ++ [x.sid] } }) s)

/-- ATOMIC (R277). -/
def execAtomic (q : BitVec 6) (s : State) : Host.Outcome State Fault Refusal :=
  .next (startWith q.toNat 5 (fun x s => beginSlip x s |> sbegin x) s)

/-- WAIT (R269). -/
def execWait (q : BitVec 6) (s : State) : Host.Outcome State Fault Refusal :=
  .next (startWith q.toNat 6 (fun x s => beginSlip x s |> sbegin x) s)

/-- WAIT_REACHED (R269): every tally has reached its target; the WAIT may end. -/
def execWaitReached (q : BitVec 6) (s : State) : Host.Outcome State Fault Refusal :=
  .next (
    match running? s q.toNat with
    | some x =>
      if running s && sType x.words == 6 && (tsel x.words).all (fun p => reached s p.1 p.2) then updSlip x.sid (fun y => { y with met := true }) s
      else s
    | none => s)

/-- SIGNAL (R270). -/
def execSignal (q : BitVec 6) (s : State) : Host.Outcome State Fault Refusal :=
  .next (startWith q.toNat 7 (fun x s => beginSlip x s |> forEach ((tsel x.words).map (·.1)) (tallyAdd 1) |> endSlip x.sid) s)

/-- The MARK record of a slip (R428). -/
def markRec (x : Slip) (s : State) : Rec :=
  mkRec 3 (sCtx x.words) x.q 1 (sw x.words 1 + fld (sTag x.words) 32)
    [BitVec.ofNat 128 (sw x.words 2 + fld (sw x.words 3) 32 + fld x.step 64)] 0 s

/-- R434: a MARK that LMY_TR_TRIG names triggers the trace window. -/
def markTriggers (s : State) (w : BitVec 512) : Bool :=
  regB s 0x6008 1 && bits (sw w 1) 17 16 == 2 && regF s 0x6008 31 16 == bits (sw w 1) 15 0

/-- MARK (R279, R434). -/
def execMark (q : BitVec 6) (s : State) : Host.Outcome State Fault Refusal :=
  .next (startWith q.toNat 8 (fun x s =>
    beginSlip x s |> genRec (markRec x s) true |> when (markTriggers s x.words) (traceTrigger 2 0) |> endSlip x.sid) s)

/-- HINT (R281, R355, R359). -/
def execHint (q : BitVec 6) (s : State) : Host.Outcome State Fault Refusal :=
  .next (startWith q.toNat 9 (fun x s =>
    beginSlip x s |> addHint ⟨bits (sw x.words 1) 7 0, bits (sw x.words 2) 15 0, bits (sw x.words 2) 31 16, 1⟩ |> bump 0x59D8 1
      |> endSlip x.sid) s)

/-- FENCE (R271). -/
def execFence (q : BitVec 6) (s : State) : Host.Outcome State Fault Refusal :=
  .next (startWith q.toNat 10 (fun x s => beginSlip x s |> sbegin x) s)

/-- R271: the scope of a FENCE is met. -/
def fenceMet (s : State) (x : Slip) : Bool :=
  (s.sq.live.filter fun y => y.q == x.q && decide (y.sid < x.sid)).all fun y =>
    if bit (sw x.words 1) 0 then flitsTaken y else flitsDelivered y

/-- FENCE_MET (R271): the FENCE ends. -/
def execFenceMet (q : BitVec 6) (s : State) : Host.Outcome State Fault Refusal :=
  .next (
    match running? s q.toNat with
    | some x =>
      if running s && sType x.words == 10 && fenceMet s x then updSlip x.sid (fun y => { y with met := true }) s |> endSlip x.sid else s
    | none => s)

/-- The value a STEP slip leaves in its context's counter (R280). -/
def stepValue (s : State) (w : BitVec 512) : Word :=
  if bit (sw w 1) 0 then BitVec.ofNat 32 (sw w 2) else reg s (0x3040 + 4 * sCtx w) + BitVec.ofNat 32 (sw w 2)

/-- STEP (R280). -/
def execStep (q : BitVec 6) (s : State) : Host.Outcome State Fault Refusal :=
  .next (startWith q.toNat 11 (fun x s =>
    let v := stepValue s x.words
    beginSlip x s |> setReg (0x3040 + 4 * (sCtx x.words % 8)) v
      |> genRec (mkRec 4 (sCtx x.words) x.q 0 (sw x.words 1 % 2 + fld (sTag x.words) 16 + fld v.toNat 32) [] 0 s) true
      |> endSlip x.sid) s)

/-! Queue commands (R283) -/

/-- LMY_SQq_STAT.STATE. -/
def sqState (s : State) (q : Nat) : Nat :=
  let x := queueOf s q
  if x.stop ≠ 0 then x.stop
  else match running? s q with
    | some y => if isGate y.words then 2 else 1
    | none => if x.pause then 5 else if x.ents.isEmpty then 0 else 1

/-- R286, R498: the writer may command the queue. -/
def cmdMine (a : BusAcc) (q : Nat) (s : State) : Bool := lvl a == 0 || sqCtx s q == lvl a

/-- R283: the head of a queue is decoded again. -/
def forgetDecode (q : Nat) (s : State) : State :=
  updQueue q (fun x => { x with ents := match x.ents with | e :: es => { e with dec := 0 } :: es | [] => [] }) s

/-- R283: RESUME. -/
def resumeQueue (q : Nat) (s : State) : State :=
  let st := sqState s q
  if st = 4 then forgetDecode q s |> updQueue q fun x => { x with stop := 0 }
  else if st = 3 ∨ st = 5 then updQueue q (fun x => { x with stop := 0, pause := false }) s |> settleHead q
  else s

/-- R283: SKIP. -/
def skipQueue (q : Nat) (s : State) : State :=
  let st := sqState s q
  if st = 4 then updQueue q (fun x => { x with stop := 0, ents := x.ents.drop 1 }) s |> settleHead q
  else if st = 3 then resumeQueue q s
  else s

/-- R283: FLUSH: a WAIT or FENCE in progress is discarded too. -/
def flushQueue (q : Nat) (s : State) : State :=
  let gate := match running? s q with | some y => isGate y.words | none => false
  let r := (queueOf s q).run
  let s := if gate then { s with sq := { s.sq with live := s.sq.live.filter fun y => y.sid + 1 != r } } else s
  updQueue q (fun x => { x with
      ents := if gate || x.run == 0 then [] else x.ents.take 1
      run := if gate then 0 else x.run
      stop := 0, pause := false, ford := false, fleft := 0, stale := x.stale + x.fleft }) s
    |> when (sqFetch s q) (fun s => setRegF (0x310C + 16 * (q % 64)) 31 16 (regF s (0x310C + 16 * q) 15 0) s)

/-- R283: PAUSE. -/
def pauseQueue (q : Nat) (s : State) : State := if sqState s q ≤ 2 then updQueue q (fun x => { x with pause := true }) s else s

/-- QUEUE_RESUME (R283). -/
def execQueueResume (a : BusAcc) (q : BitVec 6) (s : State) : Host.Outcome State Fault Refusal :=
  .next (busWriteFor a 0x3010 (cmdMine a q.toNat) (resumeQueue q.toNat) s)

/-- QUEUE_SKIP (R283). -/
def execQueueSkip (a : BusAcc) (q : BitVec 6) (s : State) : Host.Outcome State Fault Refusal :=
  .next (busWriteFor a 0x3010 (cmdMine a q.toNat) (skipQueue q.toNat) s)

/-- QUEUE_FLUSH (R283). -/
def execQueueFlush (a : BusAcc) (q : BitVec 6) (s : State) : Host.Outcome State Fault Refusal :=
  .next (busWriteFor a 0x3010 (cmdMine a q.toNat) (flushQueue q.toNat) s)

/-- QUEUE_PAUSE (R283). -/
def execQueuePause (a : BusAcc) (q : BitVec 6) (s : State) : Host.Outcome State Fault Refusal :=
  .next (busWriteFor a 0x3010 (cmdMine a q.toNat) (pauseQueue q.toNat) s)

end Sys2Proof.Machine
end

