-- ==== Sys2Proof/Machine/Held.lean ====
section
/-!
DEFINITION. Machine/Held.lean: blend slots and vectors (R183, R189, R190), held delivery (R203 to R230).
-/
namespace Sys2Proof.Machine

/-! Blend slots (R190) -/

/-- Slot `4c + j` of a cluster is free. -/
def slotFree (s : State) (k : Nat) : Bool := NMap.get 0 s.bl.slot k == 0

/-- Clusters that take new allocations, lowest first. -/
def openClusters (s : State) : List Nat := (List.range 9).filter (clusterOpen s)

/-- R190: free slots for a blend with Slots 1, lowest first; for one with Slots 4, the four slots of each fully free cluster. -/
def freeUnits (s : State) (wide : Bool) : List (List Nat) :=
  if wide then
    ((openClusters s).map fun c => (List.range 4).map (4 * c + ·)).filter fun l => l.all (slotFree s)
  else ((openClusters s).flatMap fun c => (List.range 4).map (4 * c + ·)).filter (slotFree s) |>.map fun k => [k]

/-- The slots for the lanes of a slip, none where there are not enough: lower slots for earlier lanes of LANES0 and LANES1 (DESIGN
CHOICE, log entry 81). -/
def pickSlots (lanes : List Nat) (units : List (List Nat)) : Option (List (Nat × Nat)) :=
  if units.length < lanes.length then none
  else some ((lanes.zip units).flatMap fun p => p.2.map fun k => (p.1, k))

/-- BLEND_SLOT_ALLOC (R190): the oldest request. -/
def execBlendSlotAlloc (s : State) : Host.Outcome State Fault Refusal :=
  .next (
    match s.bl.wait with
    | [] => s
    | sid :: rest =>
      match slipOf s sid with
      | none => s
      | some x =>
        match pickSlots (blendLanes x.words) (freeUnits s (blendSlots (sBlendId x.words) == 4)) with
        | none => s
        | some l =>
          if !serving s then s
          else
            { s with bl := { wait := rest, slot := l.foldl (fun m p => NMap.set 0 m p.2 (sid + 1)) s.bl.slot } }
              |> updSlip sid fun y => { y with slotSt := if vecTotal s y.words = 0 then 3 else 2, slots := l })

/-- VECTOR_LOAD_DONE (R183): every row of the vectors has arrived for every lane. -/
def execVectorLoadDone (q : BitVec 6) (s : State) : Host.Outcome State Fault Refusal :=
  .next (
    match running? s q.toNat with
    | none => s
    | some x =>
      if serving s && x.slotSt == 2 && (blendLanes x.words).all fun l => decide (vecTotal s x.words ≤ (streamOf x l).vec.length) then
        updSlip x.sid (fun y => { y with slotSt := 3 }) s
      else s)

/-! Reservation (R207 to R209, R228) -/

/-- What the slips of a context hold: blocks and statistic rows. -/
def hdUse (s : State) (c : Nat) : Nat × Nat :=
  let hs := s.sq.live.filterMap fun x => if sCtx x.words = c then x.held else none
  (nsum (hs.map fun h => h.blks.length), nsum (hs.map fun h => h.rows.length))

def freeBlocks (s : State) : List Nat := (List.range (hdBlocks s)).filter fun b => NMap.get 0 s.hd.blk b == 0
def freeStats (s : State) : List Nat := (List.range 4096).filter fun r => NMap.get 0 s.hd.row r == 0 && !NMap.get false s.hd.gone r

/-- Change the held delivery of a slip. -/
def updHeld (sid : Nat) (f : HeldEx → HeldEx) (s : State) : State := updSlip sid (fun y => { y with held := y.held.map f }) s

/-- HOLD_RESERVATION (R208, R228): the oldest request. -/
def execHoldReservation (s : State) : Host.Outcome State Fault Refusal :=
  .next (
    match s.hd.wait with
    | [] => s
    | sid :: rest =>
      match slipOf s sid with
      | none => s
      | some x =>
        let w := x.words
        let nb := hBlks w * hW w
        let u := hdUse s (sCtx w)
        let quota := 0x2410 + 4 * sCtx w
        if !serving s || !domUp s 31 || decide ((freeBlocks s).length < nb) || decide ((freeStats s).length < hW w)
            || decide (regF s quota 9 0 < u.1 + nb) || decide (regF s quota 28 16 < u.2 + hW w) then s
        else
          let bs := (freeBlocks s).take nb
          let rs := (freeStats s).take (hW w)
          { s with hd := { s.hd with
              wait := rest
              blk := bs.foldl (fun m b => NMap.set 0 m b (sid + 1)) s.hd.blk
              row := rs.foldl (fun m r => NMap.set 0 m r (sid + 1)) s.hd.row } }
            |> updHeld sid fun h => { h with st := 2, blks := bs, rows := rs })

/-- R209: a slip gives its reservation back. LMY_HD_QSTATEq.LDONE keeps its lines. -/
def freeHold (x : Slip) (s : State) : State :=
  setRegF (0x2500 + 4 * (x.q % 64)) 31 8 (rowsPassed s x / hLrows x.words) s
    |> fun s => { s with hd := { s.hd with
        blk := s.hd.blk.filter fun e => e.2 != x.sid + 1
        row := s.hd.row.filter fun e => e.2 != x.sid + 1
        wait := s.hd.wait.filter fun n => n != x.sid } }
    |> updHeld x.sid fun h => { h with st := 4, blks := [], rows := [] }

/-! Tiles (R212, R214) -/

/-- The executing HELD slip of a queue with its state. -/
def heldOf (s : State) (q : Nat) : Option (Slip × HeldEx) :=
  match running? s q with
  | some x => x.held.map fun h => (x, h)
  | none => none

/-- TILE_ADMIT (R212). -/
def execTileAdmit (q : BitVec 6) (s : State) : Host.Outcome State Fault Refusal :=
  .next (
    match heldOf s q.toNat with
    | none => s
    | some (x, h) =>
      let w := x.words
      if !serving s || h.st != 2 || x.cancel || decide (hTiles w ≤ h.tiles)
          || (hAen w && !reached s (hAtally w) (hAbase w + h.tiles + 1)) then s
      else updHeld x.sid (fun k => { k with tiles := k.tiles + 1 }) s |> progress x.q)

/-- R214: the parking reads of a slip's first `n` source rows have passed the bank read stage. -/
def parkReadTo (s : State) (x : Slip) (h : HeldEx) (n : Nat) : Bool :=
  decide (n ≤ h.prq) && (outstanding s x [.park]).all fun t => decide (n ≤ t.g0)

/-- R214: tile `j` may be released. -/
def tileDone (s : State) (x : Slip) (h : HeldEx) (j : Nat) : Bool :=
  if hPark x.words then parkReadTo s x h (hTileEnd x.words j) else decide (hTileEnd x.words j ≤ rowsPassed s x)

/-- TILE_RELEASE (R214). -/
def execTileRelease (q : BitVec 6) (s : State) : Host.Outcome State Fault Refusal :=
  .next (
    match heldOf s q.toNat with
    | none => s
    | some (x, h) =>
      let w := x.words
      if !serving s || h.st != 2 || x.cancel || decide (h.tiles ≤ h.rel) || !tileDone s x h h.rel then s
      else updHeld x.sid (fun k => { k with rel := k.rel + 1 }) s |> when (hRen w) (tallyAdd 1 (hRtally w)))

/-! Statistics (R215 to R219, R223) -/

/-- The row partials of a line, all of them or none. -/
def linePartsGo (h : HeldEx) : Nat → Nat → Option (List (StatPart × Bool))
  | 0, _ => some []
  | n + 1, i =>
    match NMap.get none h.parts i, linePartsGo h n (i + 1) with
    | some p, some ps => some (p :: ps)
    | _, _ => none

/-- R216 to R219: the final statistics of a line and whether they are poisoned; `par`: its row shows a parity error. -/
def lineStats (s : State) (w : BitVec 512) (ps : List (StatPart × Bool)) (par : Bool) : List Nat × Bool :=
  let k := statKind (sBlendId w)
  (statFinal k (hLrows w * sNS w) (psWord s (sPset w) 8) (statTree k (ps.map (·.1))), par || ps.any (·.2))

/-- R219: a parity error in a statistic row. -/
def statParity (row : Nat) (s : State) : State := bump 0x59D0 1 s |> raise 14 |> fwdTrigger 4 row 4

/-- R223: the write of line `l`'s record through IW0 or IW1, with its one chunk. -/
def recordTr (s : State) (x : Slip) (l : Nat) (st : List Nat × Bool) : Tr :=
  let v := sw x.words 2
  let o := vaOff v + 32 * l
  let c := o % 128 / 32
  let b := (mkBeat s (sCtx x.words) v (o : Nat) true).store (BitVec.ofNat 1024 (ofWords st.1 <<< (256 * c)))
    (if st.2 then BitVec.ofNat 4 (2 ^ c) else 0) (BitVec.ofNat 4 (2 ^ c))
  slipTr x v (exchTr s (194 + l % 2) true .stat (icls s 1) b)

/-- The first line whose elements have not all passed the blend on every lane. -/
def lineOut (x : Slip) : Nat := minOf 0 ((sRlanes x.words).map fun l => lineOf x.words (slane x l).kd)

/-- STATS_READY (R219, R220, R223): `par`: the line's statistic row shows a parity error. -/
def execStatsReady (q : BitVec 6) (par : Bool) (s : State) : Host.Outcome State Fault Refusal :=
  .next (
    match heldOf s q.toNat with
    | none => s
    | some (x, h) =>
      let w := x.words
      let l := h.nstat
      if !serving s || h.st != 2 || x.cancel || decide (hLines w ≤ l) then s
      else match linePartsGo h (hLrows w) (l * hLrows w) with
        | none => s
        | some ps =>
          let st := lineStats s w ps par
          when (hSen w) (addTr (recordTr s x l st)) s
            |> updHeld x.sid (fun k => { k with
                  nstat := l + 1
                  parts := k.parts.filter fun e => decide ((l + 1) * hLrows w ≤ e.1)
                  stats := NMap.set none (k.stats.filter fun e => decide (lineOut x ≤ e.1)) l (some st) })
            |> when par (statParity (listGet 0 h.rows (l % hW w)))
            |> when (l == 0) (askSlots x.sid))

/-- REDELIVERY_START (R220, R223): the line's statistics are ready and its record is written, the line before has requested its last transfer, and with PARK the
first holding row is written. -/
def execRedeliveryStart (q : BitVec 6) (s : State) : Host.Outcome State Fault Refusal :=
  .next (
    match heldOf s q.toNat with
    | none => s
    | some (x, h) =>
      let w := x.words
      let l := h.started
      if !serving s || h.st != 2 || x.cancel || decide (h.nstat ≤ l) || decide (x.issued * sK w < l * hLrows w)
          || (hSen w && decide (h.recs ≤ l)) || (hPark w && decide (rowsParked s x ≤ l * hLrows w)) then s
      else updHeld x.sid (fun k => { k with started := l + 1 }) s)

/-- HOLD_RELEASE (R209). -/
def execHoldRelease (q : BitVec 6) (s : State) : Host.Outcome State Fault Refusal :=
  .next (
    match heldOf s q.toNat with
    | none => s
    | some (x, h) =>
      let w := x.words
      if !running s || h.st != 2 || x.cancel || decide (rowsPassed s x < hLines w * hLrows w) || (hSen w && decide (h.recs < hLines w))
          || (hRen w && decide (h.rel < hTiles w)) then s
      else freeHold x s)

/-! Cancellation (R226) -/

/-- Remove the transfers that a predicate names from the lanes and the frame. -/
def withdrawTrs (p : Tr → Bool) (s : State) : State :=
  let ids := (s.fr.trs.filter p).map (·.id)
  { s with fr := { s.fr with
      trs := s.fr.trs.filter fun t => !p t
      rl := s.fr.rl.map fun e => (e.1, { e.2 with order := e.2.order.filter fun i => !ids.contains i }) } }

/-- R226: transfers that a cancellation stops: those of parking not granted, beyond the lines whose redelivery has begun, and
statistics records not granted. -/
def parkStops (x : Slip) (h : HeldEx) (t : Tr) : Bool :=
  t.slip == x.sid + 1 && !t.granted
    && (((t.kind == .park || t.kind == .parkWr) && decide (h.started * hLrows x.words ≤ t.g0)) || t.job == .stat)

/-- R226: generated transfers not granted, which a write with FLUSH 0 drops. -/
def flushStops (x : Slip) (h : HeldEx) (t : Tr) : Bool :=
  !h.flush && t.slip == x.sid + 1 && t.kind == .rd && t.grps == 0 && !t.granted

/-- R226: what a cancellation of the HELD slip of a queue withdraws. -/
def cancelWork (q : Nat) (s : State) : State :=
  match heldOf s q with
  | some (x, h) =>
    if x.cancel then
      withdrawTrs (fun t => parkStops x h t || flushStops x h t) s
        |> fun s => { s with hd := { s.hd with wait := s.hd.wait.filter fun n => n != x.sid } }
    else s
  | none => s

/-- R226: a write of LMY_HD_CANCEL: the slip is cancelled; a second write with FLUSH 0 drops the remaining flits. In a halt the work
that follows waits for the resume (R442). -/
def cancelHeld (l : Nat) (w : Word) (s : State) : State :=
  let q := bits w.toNat 5 0
  let flush := bit w.toNat 8
  match heldOf s q with
  | some (x, _) =>
    if l ≠ 0 ∧ l ≠ sCtx x.words then orReg 0x2404 0x40000000 s
    else
      let s := if x.cancel then when (!flush) (updHeld x.sid fun k => { k with flush := false }) s
        else updSlip x.sid (fun y => { y with cancel := true }) s |> updHeld x.sid (fun k => { k with st := 3, flush := flush })
      if halted s then { s with hd := { s.hd with canc := s.hd.canc ++ [(l, w)] } } else cancelWork q s
  | none => orReg 0x2404 0x40000000 s

/-- R442: the cancellations written in a halt go on as it ends. -/
def resumeCancels (s : State) : State :=
  forEach s.hd.canc (fun c => cancelWork (bits c.2.toNat 5 0)) { s with hd := { s.hd with canc := [] } }

/-- HELD_CANCEL (R226). -/
def execHeldCancel (a : BusAcc) (w : Word) (s : State) : Host.Outcome State Fault Refusal :=
  .next (busWrite a 0x2450 (cancelHeld (lvl a) w) s)

/-- R226: every line begun is through, what was granted is done, and with FLUSH every flit has been generated. -/
def cancelDone (s : State) (x : Slip) (h : HeldEx) : Bool :=
  let w := x.words
  (outstanding s x [.rd, .park, .parkWr, .ird, .iwr]).isEmpty && decide (h.started * hLrows w ≤ x.issued * sK w)
    && (sRlanes w).all fun l => decide ((if h.flush then sFlits w else flitsUpTo w x.issued) ≤ (slane x l).out)

/-- R190: a slip's slots and its request for them are gone. -/
def dropSlots (x : Slip) (s : State) : State :=
  forEach (blendLanes x.words) (freeSlots x.sid) { s with bl := { s.bl with wait := s.bl.wait.filter fun n => n != x.sid } }

/-- HELD_CANCEL_END (R226). -/
def execHeldCancelEnd (q : BitVec 6) (s : State) : Host.Outcome State Fault Refusal :=
  .next (
    match heldOf s q.toNat with
    | none => s
    | some (x, h) =>
      let w := x.words
      if !running s || !x.cancel || !cancelDone s x h then s
      else
        when (hRen w) (tallyAdd (hTiles w - h.rel) (hRtally w)) s |> dropSlots x |> freeHold x
          |> updSlip x.sid (fun y => { y with fault := true })
          |> slipLog 6 x.q 0 w x.ent |> raise 28 |> endSlip x.sid)

end Sys2Proof.Machine
end

