-- ==== Sys2Proof/Machine/Rdx.lean ====
section
/-!
DEFINITION. Machine/Rdx.lean: the reduction port: intake (R299 to R304), the combiner (R305 to R321), norm groups (R322, R323), the
optimizer (R324 to R327), results and credits (R301, R303, R328), bucket commands (R306 to R309).
-/
namespace Sys2Proof.Machine

/-! Buckets (R306) -/

/-- The OFFSET of row `f` of a tensor at a view address. -/
def flitOff (v f : Nat) : Int := ((vaOff v + 128 * f : Nat) : Int)

def bktCtx (s : State) (b : Nat) : Nat := bktBind s b % 8

/-! F32 rows -/

def rowEls (d : Row) : List Nat := wordsOf d.toNat 32
def elsRow (l : List Nat) : Row := BitVec.ofNat 1024 (ofWords l)
/-- Element `j` of a row lies in a poisoned chunk. -/
def elPois (p : Mask4) (j : Nat) : Bool := p.getLsbD (j / 8)
def notFinite (n : Nat) : Bool := (dec32 n).isNan || (dec32 n).isInf

/-! Operations on rows (R313, R322 to R325) -/

/-- An operation of a bucket of which nothing is known yet. -/
def newOp (s : State) (kind b flit : Nat) : ROp :=
  let k := bktAt s b
  { id := 0, kind := kind, b := b, use := k.use, ctx := bktCtx s b, desc := k.desc, flit := flit, vc := dVc k.desc, level := 0, idx := 0,
    hole := none, way := [], data := 0, pois := 0, nan := NanRec.none, again := false, asked := 0, got := [], full := false, outs := [],
    wasked := 0, wdone := 0 }

/-- A new operation, under the next id. -/
def addOp (o : ROp) (s : State) : State :=
  { s with rx := { s.rx with ops := s.rx.ops ++ [{ o with id := s.rx.nextOp }], nextOp := s.rx.nextOp + 1 } }

def opOf (s : State) (id : Nat) : Option ROp := s.rx.ops.find? fun o => o.id == id
def setOp (o : ROp) (s : State) : State := { s with rx := { s.rx with ops := s.rx.ops.map fun z => if z.id == o.id then o else z } }
def dropOp (id : Nat) (s : State) : State := { s with rx := { s.rx with ops := s.rx.ops.filter fun z => z.id != id } }

/-- R324: the view addresses of the rows that an update writes: w, m, v. -/
def optViews (d : List Word) : List Nat :=
  [dWord d 4] ++ (if 2 ≤ dOp d then [dWord d 5] else []) ++ (if 3 ≤ dOp d then [dWord d 6] else [])

/-- R325: those of the rows it reads, the reduced flit among them where it is read again. -/
def updReads (d : List Word) (again : Bool) : List Nat := (if again then [dWord d 3] else []) ++ optViews d

/-- The rows that an operation reads. -/
def opReads (o : ROp) : Nat :=
  match o.kind with
  | 0 => o.way.length
  | 1 => dFlits o.desc
  | 2 => (updReads o.desc o.again).length
  | 3 => 1
  | _ => 0

/-- R329: a row of an operation's tensors: its view address and its beat. -/
def opRow (s : State) (o : ROp) (v f : Nat) (store : Bool) : Nat × Beat := (v, mkBeat s o.ctx v (flitOff v f) store)

/-- The pigeonhole row's bank and row (R78). -/
def holeRow (s : State) (row : Nat) : Option (Nat × Nat) := areaRow s 2 row

/-- Row `i` that an operation reads. -/
def opReadRow (s : State) (o : ROp) (i : Nat) : Nat × Beat :=
  match o.kind with
  | 0 => (0, areaBeat ((o.way[i]?).bind fun e => holeRow s e.row))
  | 1 => opRow s o (dWord o.desc 3) i false
  | 2 => opRow s o (listGet 0 (updReads o.desc o.again) i) o.flit false
  | _ => opRow s o (dWord o.desc 3) 0 false

/-- Row `i` that an operation writes. -/
def opWriteRow (s : State) (o : ROp) (i : Nat) : Nat × Beat :=
  match o.kind with
  | 0 => (match o.hole with | some h => (0, areaBeat (holeRow s h)) | none => opRow s o (dWord o.desc 3) o.flit true)
  | 2 => opRow s o (listGet 0 (optViews o.desc) i) o.flit true
  | _ => opRow s o (dWord o.desc 3) 0 true

/-- The directory entry of a partial. -/
def entryOf (s : State) (b flit level idx : Nat) : Option PEnt :=
  s.rx.dir.find? fun e => e.bucket == b && e.flit == flit && e.level == level && e.idx == idx

/-- R315: the next row that an operation reads may be requested: a parked partial no earlier than the cycle after its write. -/
def opMayAsk (s : State) (o : ROp) : Bool :=
  decide (o.asked < opReads o) && (o.kind != 0 || match o.way[o.asked]? with
    | some e => (match entryOf s e.bucket e.flit e.level e.idx with
        | some z => (match z.from_ with | some c => decide (c ≤ s.cyc + 1) | none => false)
        | none => true)
    | none => false)

/-- R231, R417: a transfer of the reduction port. -/
def rdxTr (o : ROp) (v : Nat) (t : Tr) : Tr := { t with ctx := o.ctx, client := 10, view := v }

/-- R313: the oldest operation that can read a row requests it on port `p` (185 to 188), unless the port waits. -/
def askRead (p : Nat) (s : State) : State :=
  if portBusy s p then s
  else match s.rx.ops.find? (opMayAsk s) with
    | none => s
    | some o =>
      let r := opReadRow s o o.asked
      addTr (rdxTr o r.1 (exchTr s p false (.rrow o.id o.asked) (portCls s p 0 r.2.bank) r.2)) s |> setOp { o with asked := o.asked + 1 }

/-- R313: the oldest operation with a row to write requests its write on port `p` (196 to 199), unless the port waits. -/
def askWrite (p : Nat) (s : State) : State :=
  if portBusy s p then s
  else match s.rx.ops.find? fun o => o.full && decide (o.wasked < o.outs.length) with
    | none => s
    | some o =>
      let r := opWriteRow s o o.wasked
      let x := listGet (0, 0) o.outs o.wasked
      addTr (rdxTr o r.1 (exchTr s p true (.wrow o.id o.wasked) (portCls s p 0 r.2.bank) (r.2.store x.1 x.2 0xF))) s
        |> setOp { o with wasked := o.wasked + 1 }

/-- R315, R325: what the combiner, the norm pass and the optimizer request in one CCLK: a row on each free port. -/
def askRows (s : State) : State :=
  if s.rx.ops.isEmpty then s else forEach [185, 186, 187, 188] askRead s |> forEach [196, 197, 198, 199] askWrite

/-- R329: a row of an operation fails a check: its bucket shows it; a norm group's row is no bucket's. -/
def opFault (id : Nat) (s : State) : State :=
  match opOf s id with
  | some o => when (o.kind != 4 && (bktAt s o.b).use == o.use) (updBkt o.b fun k => { k with afault := true }) s
  | none => s

/-! Buckets that wait for a gate, for sending or for their end (R308, R325, R328) -/

/-- R325: the read of G begins once the norm bucket is DONE. -/
def askG (b : Nat) (s : State) : State :=
  let nb := dNb (bktAt s b).desc
  if s.rx.ops.any fun o => o.kind == 3 && o.b == b then s
  else addOp { newOp s 3 b 0 with ctx := bktCtx s nb, desc := (bktAt s nb).desc } s

/-- R325: the update is skipped. -/
def skipUpdate (b : Nat) (s : State) : State := updBkt b (fun k => { k with skip := true }) s |> raise 38

/-- R328: the bucket may send result flits. -/
def maySend (k : Bkt) : Bool :=
  dSend k.desc && ((k.st == 2 && k.norm != 1 && (dOp k.desc == 0 || k.skip))
    || (k.st == 3 && decide (dFlits k.desc ≤ k.upd.length)))

/-- R308: DONE, with DTALLY (R270). -/
def bktDone (b : Nat) (s : State) : State :=
  let d := (bktAt s b).desc
  updBkt b (fun k => { k with st := 4 }) s |> when (dDten d) (tallyAdd 1 (dDtally d))

/-- R308, R325: the gate of a bucket in REDUCED whose norm pass has ended. -/
def openGate (b : Nat) (s : State) : State :=
  let k := bktAt s b
  let d := k.desc
  if k.st ≠ 2 ∨ k.norm = 1 ∨ k.skip ∨ dOp d = 0 then s
  else if dNanpol d = 0 ∧ (k.nonfin ∨ k.poison) then skipUpdate b s
  else if dOp d < 4 then updBkt b (fun k => { k with st := 3 }) s
  else if (bktAt s (dNb d)).st ≠ 4 then s
  else askG b s

/-- R325: G has been read; under NANPOL 0 one that is not finite skips the update. -/
def gotG (o : ROp) (s : State) : State :=
  let r := (NMap.get none o.got 0).getD (0, 0xF)
  let g := listGet 0 (rowEls r.1) 0
  if (bktAt s o.b).use ≠ o.use ∨ (bktAt s o.b).st ≠ 2 then s
  else if dNanpol (bktAt s o.b).desc = 0 ∧ notFinite g then skipUpdate o.b s
  else updBkt o.b (fun k => { k with st := 3, g := some (g, r.2.getLsbD 0) }) s

/-- R308: what a bucket has finished. -/
def settleBucket (b : Nat) (s : State) : State :=
  let s := openGate b s
  let k := bktAt s b
  let d := k.desc
  let sent := !dSend d || decide (dFlits d ≤ k.dlv)
  if (k.st = 2 ∧ k.norm ≠ 1 ∧ (dOp d = 0 ∨ k.skip) ∧ sent) ∨ (k.st = 3 ∧ dFlits d ≤ k.upd.length ∧ sent) then bktDone b s else s

/-- Every bucket, twice: a norm bucket's end opens the gates that wait for it. -/
def settleBuckets (s : State) : State :=
  forEach (List.range 64) settleBucket s |> forEach (List.range 64) settleBucket

/-! Intake (R299 to R304) -/

/-- R302: a dropped contribution: counted and logged, with its event. -/
def dropFlit (reason : Nat) (f : RFlit) (s : State) : State :=
  bump (0x5A80 + 0x20 * (f.vc % 16)) 1 s
    |> fillLog 0x3818 (fld reason 2 + fld f.vc 5 + fld f.bucket 9 + fld (b2n f.lane) 15 + fld f.level 16) (f.flit + fld f.idx 16)
    |> when (reason != 0) (raise (if reason = 4 then 33 else 32))

/-- R301: a slot is freed: its credit is due to the fabric. -/
def freeSlot (v : Nat) (s : State) : State := { s with rx := { s.rx with ret := NMap.upd 0 s.rx.ret v (· + 1) } }

/-- R304: the contribution of a flit with its sideband. -/
def mkRFlit (lane : Bool) (data : Row) (sb : Nat) : RFlit :=
  ⟨bits sb 3 0, bits sb 9 4, bits sb 24 10, bits sb 28 25, bits sb 40 29, bits sb 44 41, BitVec.ofNat 4 (bits sb 48 45), data, lane, []⟩

/-- R304: an invalid field. -/
def badFlit (d : List Word) (sb : Nat) (f : RFlit) : Bool :=
  bits sb 51 49 != 0 || f.efmt != dEfmt d || decide (dFlits d ≤ f.flit) || (f.efmt == 2 && f.flit % 2 == 1)
    || decide (dDepth d < f.level) || decide (dRanks d ≤ f.idx <<< f.level)

/-- R299, R302: a flit that has left the DCQ takes a slot or is dropped. -/
def takeIn (lane : Bool) (data : Row) (sb : Nat) (s : State) : State :=
  let f := mkRFlit lane data sb
  let k := bktAt s f.bucket
  if !vcEn s f.vc then dropFlit 0 f s
  else if vcSlots s f.vc ≤ slotsUsed s f.vc then dropFlit 1 f s
  else if k.st ≠ 1 ∨ dVc k.desc ≠ f.vc then dropFlit 2 f s |> freeSlot f.vc
  else if badFlit k.desc sb f then dropFlit 3 f s |> freeSlot f.vc
  else
    let todo := if f.efmt = 1 then [0] else if f.flit + 1 < dFlits k.desc then [0, 1] else [0]
    { s with rx := { s.rx with slots := s.rx.slots ++ [{ f with todo := todo }] } }

/-- R299, R336: RP0 is On: flits that wait in the DCQs move as long as no power-down has started. -/
def rp0On (s : State) : Bool := (domOf s 27).st == 2 && (domOf s 27).trans.isNone

/-- INTAKE_FLIT (R299). -/
def execIntakeFlit (lane : Bool) (s : State) : Host.Outcome State Fault Refusal :=
  .next (
    let l := if lane then 43 else 42
    let w := wlane s l
    match w.dcq with
    | [] => s
    | d :: _ => if !serving s || !rp0On s || w.seen == 0 then s else popWdcq l s |> takeIn lane d.1 d.2.toNat)

/-! The combiner (R305, R313 to R321) -/

/-- R305: a half of a flit as a shard flit: 32 F32 elements and their marks. -/
def halfRow (f : RFlit) (half : Nat) : Row × Mask4 :=
  if f.efmt = 1 then (f.data, f.pois)
  else
    (elsRow ((List.range 32).map fun j => fld (bits f.data.toNat (512 * half + 16 * j + 15) (512 * half + 16 * j)) 16),
      maskOf ((List.range 4).map fun c => f.pois.getLsbD (2 * half + c / 2)))

/-- Counts of NaN and infinity among encodings. -/
def nanCount (l : List Nat) : Nat := ncount (l.map fun n => (dec32 n).isNan)
def infCount (l : List Nat) : Nat := ncount (l.map fun n => (dec32 n).isInf)

/-- R320: the record of `nans` and `infs` first appearances at node (h, i) of a flit. -/
def nanAt (nans infs h i f : Nat) : NanRec :=
  ⟨nans != 0, infs != 0, min 0xFFFF (nans + infs), if nans + infs = 0 then none else some (h, i, f)⟩

/-- R320: the lower of two nodes: level, index, flit. -/
def lowNode : Option (Nat × Nat × Nat) → Option (Nat × Nat × Nat) → Option (Nat × Nat × Nat)
  | none, b => b
  | a, none => a
  | some a, some b => if lexLt [b.1, b.2.1, b.2.2] [a.1, a.2.1, a.2.2] then some b else some a

/-- R320: two records merged. -/
def nanMerge (a b : NanRec) : NanRec := ⟨a.nan || b.nan, a.inf || b.inf, min 0xFFFF (a.n + b.n), lowNode a.low b.low⟩

/-- A partial on its way up: data, marks, NaN record. -/
structure Partial where
  data : Row
  pois : Mask4
  nan : NanRec
deriving DecidableEq, Repr

/-- R310, R319 to R321: the partial `x` of node (h, i) meets its sibling's, parked as `e` with row `y`. -/
def combineRow (flit : Nat) (x : Partial) (e : PEnt) (y : Row × Mask4) : Partial :=
  let xs := rowEls x.data
  let ys := rowEls y.1
  let pairs := if e.idx % 2 = 1 then xs.zip ys else ys.zip xs
  let out := pairs.map fun p => enc32 (vadd (dec32 p.1) (dec32 p.2))
  let grown := ncount ((pairs.zip out).map fun p => !notFinite p.1.1 && !notFinite p.1.2 && (dec32 p.2).isInf)
  ⟨elsRow out, x.pois ||| y.2, nanMerge (nanMerge x.nan e.nan) (nanAt 0 grown (e.level + 1) (e.idx / 2) flit)⟩

/-- R313: the partial on its way up meets the parked ones that have been read, in turn. -/
def combineWay (o : ROp) : Partial :=
  (o.way.zipIdx.foldl (fun x (e, i) => combineRow o.flit x e ((NMap.get none o.got i).getD (0, 0xF))) ⟨o.data, o.pois, o.nan⟩)

/-- R318: a pigeonhole of the VC has been freed. -/
def holeFreed (v : Nat) (s : State) : State := { s with rx := { s.rx with stall := NMap.set false s.rx.stall v false } }

/-- R308, R320, R321, R322: the root of a flit has been stored; the last flit takes the bucket to REDUCED, where its norm pass starts to
read. -/
def flitReduced (b flit : Nat) (x : Partial) (s : State) : State :=
  let d := (bktAt s b).desc
  let s := updBkt b (fun k => { k with
        nan := nanMerge k.nan x.nan
        poison := k.poison || x.pois != 0
        red := flit :: k.red
        imm := if dImmediate d then k.imm ++ [(flit, x.data, x.pois)] else k.imm }) s
  let k := bktAt s b
  if k.red.length < dFlits d then s
  else
    let bad := k.nan.nan || k.nan.inf
    updBkt b (fun k => { k with st := 2, nonfin := bad, norm := b2n (dNgen d) }) s
      |> when (dNgen d) (fun s => addOp (newOp s 1 b 0) s)
      |> when (bad || k.poison) (raise 36) |> settleBuckets

/-- Replace the first item equal to `a`. -/
def replaceFirst {α : Type} [BEq α] (a b : α) : List α → List α
  | [] => []
  | x :: xs => if x == a then b :: xs else x :: replaceFirst a b xs

/-- R315: the half is taken; with its last half the flit's slot is freed. -/
def halfTaken (f : RFlit) (half : Nat) (s : State) : State :=
  let left := f.todo.filter (· != half)
  { s with rx := { s.rx with
      slots := if left.isEmpty then s.rx.slots.erase f else replaceFirst f { f with todo := left } s.rx.slots } }
    |> when left.isEmpty (freeSlot f.vc)

/-- R314: a duplicate is dropped. -/
def dropDup (f : RFlit) (s : State) : State := updBkt f.bucket (fun k => { k with dup := true }) s |> dropFlit 4 f

/-- R313: the pigeonhole a contribution parks in: the last one it frees, else the lowest free one; none: it reaches the root. -/
def parkHole (s : State) (f : RFlit) (way : List PEnt × Nat × Nat) : Option Nat :=
  if way.2.1 = dDepth (bktAt s f.bucket).desc then none
  else match way.1.getLast? with | some e => some e.row | none => some ((freeHole s f.vc).getD 0)

/-- R313: a contribution sets out: the partials on its way are its own to read; where it parks, the directory shows it at once. -/
def combineHalf (f : RFlit) (half : Nat) (s : State) : State :=
  let way := wayOf s f half
  let flit := halfFlit f half
  let r := halfRow f half
  let n := rowEls r.1
  let hole := parkHole s f way
  let o : ROp := { newOp s 0 f.bucket flit with
    vc := f.vc, level := way.2.1, idx := way.2.2, hole := hole, way := way.1, data := r.1, pois := r.2
    nan := nanAt (nanCount n) (infCount n) f.level f.idx flit
    full := way.1.isEmpty, outs := if way.1.isEmpty then [r] else [] }
  let id := s.rx.nextOp + 1
  let taken := s.rx.dir.map fun e => if way.1.contains e then { e with taker := id } else e
  let mine : List PEnt := match hole with
    | some h => [⟨f.vc, h, f.bucket, flit, way.2.1, way.2.2, o.nan, 0, none⟩]
    | none => []
  addOp o { s with rx := { s.rx with dir := taken ++ mine } }

/-- R315: the VC that the combiner serves next. -/
def nextVc (s : State) : Option Nat :=
  ((List.range 16).map fun i => (s.rx.rr + i) % 16).find? fun v => !(takeable s v).isEmpty

/-- R315: the first contribution of a VC that the combiner takes. Where the cycle takes two of this VC, which it does where no other VC
has one, and both belong to one flit, that of WL42 comes first. -/
def pickHalf (s : State) (vc : Nat) : List (RFlit × Nat) → Option (RFlit × Nat)
  | [] => none
  | [a] => some a
  | a :: b :: _ =>
    let both := s.rx.took == 0 && (List.range 16).all fun v => v == vc || (takeable s v).isEmpty
    if both ∧ a.1.lane ∧ !b.1.lane ∧ a.1.bucket = b.1.bucket ∧ halfFlit a.1 a.2 = halfFlit b.1 b.2 then some b else some a

/-- COMBINE (R313, R333): at most 2 contributions in a CCLK, from VCs in round-robin order. -/
def execCombine (vc : BitVec 4) (s : State) : Host.Outcome State Fault Refusal :=
  .next (if !serving s || decide (2 ≤ s.rx.took) || nextVc s != some vc.toNat then s
    else match pickHalf s vc.toNat (takeable s vc.toNat) with
      | none => s
      | some (f, half) =>
        { s with rx := { s.rx with took := s.rx.took + 1, rr := (vc.toNat + 1) % 16 } }
          |> (if isDup s f half then dropDup f else combineHalf f half)
          |> xbump (2368 + vc.toNat) 1 |> halfTaken f half)

/-! Credits with the fabric (R301, R303, R485) -/

/-- VC_CREDIT_RETURN (R301): one more freed slot in the running count of the VC. -/
def execVcCreditReturn (vc : BitVec 4) (s : State) : Host.Outcome State Fault Refusal :=
  .next (
    let v := vc.toNat
    if !running s || NMap.get 0 s.rx.ret v == 0 then s
    else { s with rx := { s.rx with ret := NMap.upd 0 s.rx.ret v (· - 1), vccred := NMap.upd 0 s.rx.vccred v (fun n => (n + 1) % 512) } })

/-- EGRESS_CREDIT_RETURN (R303, R485): `count` is the running count of the VC as sampled. -/
def execEgressCreditReturn (vc : BitVec 4) (count : BitVec 8) (s : State) : Host.Outcome State Fault Refusal :=
  .next (if !running s then s
    else
      let v := vc.toNat
      let n := (count.toNat + 256 - NMap.get 0 s.rx.egcred v) % 256
      let held := NMap.get 0 s.rx.eg v + n
      let over_ := held - vcEgcred s v
      { s with rx := { s.rx with egcred := NMap.set 0 s.rx.egcred v count.toNat, eg := NMap.set 0 s.rx.eg v (min held (vcEgcred s v)) } }
        |> when (over_ != 0) fun s => bump (0x5A88 + 0x20 * (v % 16)) over_ s |> raise 35)

/-! Descriptors and commands (R306 to R309, R498) -/

/-- LMY_RDX_BADDR of a privilege level. -/
def baddr (s : State) (l : Nat) : Nat := (NMap.get 0 s.bus.baddr l).toNat

/-- One access of LMY_RDX_BDATA advances the address with AUTOINC 1. -/
def baddrAdvance (l : Nat) (s : State) : State :=
  let a := baddr s l
  if bit a 16 then
    let n := bits a 13 8 * 16 + bits a 3 0 + 1
    { s with bus := { s.bus with baddr := NMap.set 0 s.bus.baddr l (BitVec.ofNat 32 (fld (n / 16 % 64) 8 + n % 16 + 2 ^ 16)) } }
  else s

/-- R306, R498: the bucket belongs to a privilege level: C0, or its context. -/
def bktMine (s : State) (l b : Nat) : Bool := l == 0 || bktCtx s b == l

/-- R306: a write of a descriptor word. -/
def writeBdata (l : Nat) (w : Word) (s : State) : State :=
  let a := baddr s l
  let b := bits a 13 8
  let k := bktAt s b
  (if bktMine s l b && (k.st == 0 || k.st == 4) then
      { s with rx := { s.rx with desc := NMap.set 0 s.rx.desc (16 * b + bits a 3 0) w } }
    else orReg 0x380C 0x10 s)
    |> baddrAdvance l

/-- BDATA_WRITE (R306). -/
def execBdataWrite (a : BusAcc) (w : Word) (s : State) : Host.Outcome State Fault Refusal :=
  .next (busWrite a 0x3814 (writeBdata (lvl a) w) s)

/-- BDATA_READ (R306, R498). -/
def execBdataRead (a : BusAcc) (s : State) : Host.Outcome State Fault Refusal :=
  .next (busRead a 0x3814 (fun s =>
    let b := bits (baddr s (lvl a)) 13 8
    (if bktMine s (lvl a) b then NMap.get 0 s.rx.desc (16 * b + bits (baddr s (lvl a)) 3 0) else 0, baddrAdvance (lvl a) s)) s)

/-- The descriptor of a bucket as its words stand now. -/
def descOf (s : State) (b : Nat) : List Word := (List.range 16).map fun w => NMap.get 0 s.rx.desc (16 * b + w)

/-- R306: a reserved bit or code of a descriptor. -/
def descReserved (d : List Word) : Bool :=
  dWord d 0 &&& 0x80C00800 != 0 || dWord d 1 &&& 0xF000 != 0 || dWord d 2 &&& 0xFFC08000 != 0 || dWord d 11 &&& 0xFFFF0000 != 0
    || ([12, 13, 14, 15].any fun w => dWord d w != 0) || decide (4 < dOp d) || dNanpol d == 3 || !(dEfmt d == 1 || dEfmt d == 2)

/-- R307: a view address is invalid. -/
def addrBad (v : Nat) : Bool := !vaOk v || vaOff v % 128 != 0

/-- R307: the first reason to refuse an ARM. -/
def armReason (s : State) (l b : Nat) : Option Nat :=
  let d := descOf s b
  let c := bktCtx s b
  let n := descOf s (dNb d)
  let group := 0x3D00 + 16 * dNgrp d
  if (bktAt s b).st ≠ 0 ∧ (bktAt s b).st ≠ 4 then some 0
  else if !bktMine s l b || !bit (bktBind s b) 3 then some 1
  else if !vcEn s (dVc d) || vcCtx s (dVc d) != c || (dSend d && !(rlBind s 62 == 8 + c && rlBind s 63 == 8 + c)) then some 2
  else if descReserved d then some 3
  else if addrBad (dWord d 3) || (dOp d != 0 && addrBad (dWord d 4)) || (decide (2 ≤ dOp d) && addrBad (dWord d 5))
      || (decide (3 ≤ dOp d) && addrBad (dWord d 6)) || (dDten d && tlyBind s (dDtally d) % 8 != c) then some 4
  else if (dNgen d && (regF s group 6 0 == 0 || regF s group 10 8 != c))
      || (dOp d == 4 && (dNb d == b || bktCtx s (dNb d) != c || dFlits n != 1 || dOp n != 0 || dEfmt n != dEfmt d)) then some 5
  else none

/-- R307, R309: a refused command. -/
def refuseBkt (b reason : Nat) (s : State) : State :=
  setReg 0x380C (BitVec.ofNat 32 (1 + fld reason 1 + b2n (regB s 0x380C 4) * 16 + fld b 8)) s

/-- R330: every domain of the reduction port takes work. -/
def rdxOpen (s : State) : Bool := rpUp s 0 && rpUp s 1 && rpUp s 2 && rpUp s 3

/-- R307: ARM. -/
def armBucket (l b : Nat) (s : State) : State :=
  match armReason s l b with
  | some r => refuseBkt b r s
  | none => if rdxOpen s then setBkt b { Bkt.free with st := 1, desc := descOf s b, use := (bktAt s b).use + 1 } s else s

/-- ARM (R307). -/
def execArm (a : BusAcc) (bucket : BitVec 6) (s : State) : Host.Outcome State Fault Refusal :=
  .next (busWrite a 0x3808 (armBucket (lvl a) bucket.toNat) s)

def ngAt (s : State) (g : Nat) : NGrp := NMap.get NGrp.none s.rx.ng g
def setNg (g : Nat) (x : NGrp) (s : State) : State := { s with rx := { s.rx with ng := NMap.set NGrp.none s.rx.ng g x } }

/-- The operations that an abort of a bucket ends: an update that has started runs to its end. -/
def abortOps (s : State) (b : Nat) : List Nat := (s.rx.ops.filter fun o => o.b == b && (o.kind == 0 || o.kind == 1 || o.kind == 3)).map (·.id)

/-- The row of an operation among some. -/
def Job.isOf (ids : List Nat) : Job → Bool
  | .rrow o _ => ids.contains o
  | .wrow o _ => ids.contains o
  | _ => false

/-- R309: an abort's effect. -/
def dropBucket (b : Nat) (s : State) : State :=
  let d := (bktAt s b).desc
  let holes := s.rx.dir.any fun e => e.bucket == b
  let mine := s.rx.slots.filter fun f => f.bucket == b
  let ids := abortOps s b
  { s with rx := { s.rx with
      dir := s.rx.dir.filter (fun e => e.bucket != b)
      slots := s.rx.slots.filter (fun f => f.bucket != b)
      ops := s.rx.ops.filter fun o => !ids.contains o.id } }
    |> dropJobs (Job.isOf ids)
    |> when holes (holeFreed (dVc d))
    |> forEach mine (fun f s => dropFlit 2 f s |> freeSlot f.vc)
    |> when (dNgen d) (fun s => setNg (dNgrp d) { ngAt s (dNgrp d) with lost := true } s)
    |> updBkt b (fun k => { k with st := 0, norm := 0, imm := [], sent := 0, dlv := 0 })
    |> raise 37

/-- R309: ABORT. -/
def abortBucket (l b : Nat) (s : State) : State :=
  if (bktAt s b).st ≠ 1 ∧ (bktAt s b).st ≠ 2 then refuseBkt b 0 s
  else if !bktMine s l b then refuseBkt b 1 s
  else dropBucket b s

/-- ABORT (R309). -/
def execAbort (a : BusAcc) (bucket : BitVec 6) (s : State) : Host.Outcome State Fault Refusal :=
  .next (busWrite a 0x3808 (abortBucket (lvl a) bucket.toNat) s)

/-! Norm passes and groups (R322, R323) -/

/-- R322, R324: g″ of an element with its mark. -/
def gIn (nanpol : Nat) (p : Nat × Bool) : Nat × Bool := if nanpol = 2 ∧ (notFinite p.1 ∨ p.2) then (0, false) else p

/-- The elements of a row with their marks. -/
def markedEls (r : Row × Mask4) : List (Nat × Bool) := (rowEls r.1).zipIdx.map fun (n, j) => (n, elPois r.2 j)

/-- R324: rn32(g″ × GS). -/
def scaleG (gs g : Nat) : Nat := enc32 (vmul (dec32 g) (dec32 gs))

/-- R322: q_b and its mark from the reduced rows. -/
def normSum (d : List Word) (rows : List (Row × Mask4)) : Nat × Bool :=
  let els := (rows.flatMap markedEls).map (gIn (dNanpol d))
  ((statTree .sumsq (els.map fun e => let g := dec32 (scaleG (dWord d 8) e.1); ⟨1, enc32 (vmul g g), 0⟩)).a, els.any (·.2))

/-- R323: the fold over the members in ascending BIDX, then slot. -/
def foldNorm (l : List (Nat × Nat × Word × Bool)) : Nat :=
  (ordSort (fun a b => lexLt [a.1, a.2.1] [b.1, b.2.1]) l).foldl (fun p m => enc32 (vadd (dec32 p) (dec32 m.2.2.1.toNat))) 0

/-- R323: the partial is folded, and its row set out. -/
def finishGroup (g : Nat) (s : State) : State :=
  let o := 0x3D00 + 16 * g
  let x := ngAt s g
  let p := foldNorm x.mem
  let bad := x.mem.any (·.2.2.2)
  setNg g { x with sum := BitVec.ofNat 32 p, ready := true, pois := bad } s
    |> addOp { newOp s 4 g 0 with
        ctx := regF s o 10 8, desc := [0, 0, 0, reg s (o + 4)], full := true
        outs := [(BitVec.ofNat 1024 p, if bad then 0xF else 0)] }

/-- R323: a group's row has been written: NTALLY. -/
def groupWritten (g : Nat) (s : State) : State :=
  let o := 0x3D00 + 16 * g
  when (regB s o 18) (tallyAdd 1 (regF s o 17 12)) s

/-- R323: a member has computed q_b. A group that lost a member waits for NGCTLg. -/
def joinGroup (b : Nat) (q : Nat × Bool) (s : State) : State :=
  let d := (bktAt s b).desc
  let g := dNgrp d
  let x := ngAt s g
  let n := regF s (0x3D00 + 16 * g) 6 0
  if n ≤ x.mem.length then s
  else
    setNg g { x with mem := x.mem ++ [(dBidx d, b, BitVec.ofNat 32 q.1, q.2)] } s
      |> when (x.mem.length + 1 == n && !x.lost) (finishGroup g)

/-- The norm pass of a bucket. -/
def normOp (s : State) (b : Nat) : Option ROp := s.rx.ops.find? fun o => o.kind == 1 && o.b == b

/-- NORM_PASS_END (R322, R323): every reduced row has been read. -/
def execNormPassEnd (bucket : BitVec 6) (s : State) : Host.Outcome State Fault Refusal :=
  .next (
    let b := bucket.toNat
    match normOp s b with
    | none => s
    | some o =>
      if !serving s || (bktAt s b).norm != 1 || !o.full then s
      else
        let rows := (List.range (dFlits o.desc)).map fun i => (NMap.get none o.got i).getD (0, 0xF)
        dropOp o.id s |> updBkt b (fun k => { k with norm := 2 }) |> joinGroup b (normSum o.desc rows) |> settleBuckets)

/-- R323: a write of LMY_RDX_NGCTLg. -/
def writeNgctl (g : Nat) (w : Word) (s : State) : State := setReg (0x3D00 + 16 * (g % 8)) (w &&& 0x0007F77F) s |> setNg g NGrp.none

/-- NGCTL_WRITE (R323). -/
def execNgctlWrite (a : BusAcc) (g : BitVec 3) (w : Word) (s : State) : Host.Outcome State Fault Refusal :=
  .next (busWrite a (0x3D00 + 16 * g.toNat) (writeNgctl g.toNat w) s)

/-! The optimizer (R324 to R327) -/

/-- R326: the clipping factor from G and MAXNORM. -/
def clipFactor (g maxnorm : Nat) : Nat :=
  let n := rn32 (vsqrt (dec32 g))
  let m := dec32 maxnorm
  if n.isNan then f32Nan
  else if n.isInf then 0
  else if !m.isNan && !vlt m n then f32One
  else enc32 (vdiv m n)

/-- An element of the optimizer: g″, w, m, v with their marks. -/
structure OptIn where
  g : Nat × Bool
  w : Nat × Bool
  m : Nat × Bool
  v : Nat × Bool
deriving DecidableEq, Repr

/-- rn32 of a product and of a sum of encodings (R310). -/
def fmul (a b : Nat) : Nat := enc32 (vmul (dec32 a) (dec32 b))
def fadd (a b : Nat) : Nat := enc32 (vadd (dec32 a) (dec32 b))
def fsub (a b : Nat) : Nat := enc32 (vadd (dec32 a) (vneg (dec32 b)))
def fdiv (a b : Nat) : Nat := enc32 (vdiv (dec32 a) (dec32 b))
def fsqrt (a : Nat) : Nat := enc32 (vsqrt (dec32 a))

/-- R324: the new w, m, v of one element. `op` 1 to 4 is O0 to O3, `par` the parameter set, `clip` F and its poison. -/
def optEl (d : List Word) (par : Nat → Nat) (clip : Nat × Bool) (x : OptIn) : OptIn :=
  let op := dOp d
  let lr := dWord d 7
  let gs0 := scaleG (dWord d 8) x.g.1
  let gs := if op = 4 then fmul gs0 clip.1 else gs0
  let gp := x.g.2 || (op == 4 && clip.2)
  if op = 1 then { x with w := (fsub x.w.1 (fmul lr gs), x.w.2 || gp) }
  else if op = 2 then
    let m := fadd (fmul (par 0) x.m.1) gs
    { x with m := (m, x.m.2 || gp), w := (fsub x.w.1 (fmul lr m), x.w.2 || x.m.2 || gp) }
  else
    let m := fadd (fmul (par 1) x.m.1) (fmul (par 2) gs)
    let v := fadd (fmul (par 3) x.v.1) (fmul (par 4) (fmul gs gs))
    let dir := fdiv (fmul m (dWord d 9)) (fadd (fsqrt (fmul v (dWord d 10))) (par 5))
    { x with
      m := (m, x.m.2 || gp)
      v := (v, x.v.2 || gp)
      w := (fsub x.w.1 (fmul lr (fadd dir (fmul (par 6) x.w.1))), x.w.2 || x.m.2 || x.v.2 || gp) }

/-- A row and its chunk marks from marked elements. -/
def markedRow (l : List (Nat × Bool)) : Row × Mask4 :=
  (elsRow (l.map (·.1)), maskOf ((List.range 4).map fun c => ((l.drop (8 * c)).take 8).any (·.2)))

/-- R325: rows the update of a flit reads: w, m, v, and g where it is read again. -/
def optReads (d : List Word) (again : Bool) : Nat := (updReads d again).length

/-- R325: quarters of a CCLK's update rate that one flit takes. -/
def optCost (d : List Word) (again : Bool) : Nat := 4 / (4 / optReads d again)

/-- R324: the rows that the update of a flit stores, from those it has read; the reduced flit is read again or as the combiner had it. -/
def updateRows (s : State) (o : ROp) : List (Row × Mask4) :=
  let d := o.desc
  let rd (i : Nat) : Row × Mask4 := (NMap.get none o.got i).getD (0, 0xF)
  let n := b2n o.again
  let rg := if o.again then rd 0 else (o.data, o.pois)
  let rm := if 2 ≤ dOp d then rd (n + 1) else (0, 0)
  let rv := if 3 ≤ dOp d then rd (n + 2) else (0, 0)
  let par := fun w => (reg s (0x3E00 + 32 * dOps d + 4 * w)).toNat
  let gg := (bktAt s o.b).g.getD (0, false)
  let clip := (clipFactor gg.1 (par 7), gg.2)
  let out := (((markedEls rg).map (gIn (dNanpol d))).zip ((markedEls (rd n)).zip ((markedEls rm).zip (markedEls rv)))).map
    fun e => optEl d par clip ⟨e.1, e.2.1, e.2.2.1, e.2.2.2⟩
  [markedRow (out.map (·.w))] ++ (if 2 ≤ dOp d then [markedRow (out.map (·.m))] else [])
    ++ (if 3 ≤ dOp d then [markedRow (out.map (·.v))] else [])

/-- R325: the flit of a bucket that is updated next: in reduction order where the update is immediate, else ascending. -/
def nextUpdate (k : Bkt) : Option (Nat × Option (Row × Mask4)) :=
  if dImmediate k.desc then k.imm.head?.map fun e => (e.1, some e.2)
  else if k.st = 3 ∧ k.ustart < dFlits k.desc then some (k.ustart, none) else none

/-- UPDATE_FLIT (R324, R325): the update of a bucket's next flit starts. -/
def execUpdateFlit (bucket : BitVec 6) (s : State) : Host.Outcome State Fault Refusal :=
  .next (
    let b := bucket.toNat
    match nextUpdate (bktAt s b) with
    | none => s
    | some (f, g) =>
      let cost := optCost (bktAt s b).desc g.isNone
      if !serving s || decide (4 < s.rx.nupd + cost) then s
      else
        let r := g.getD (0, 0)
        addOp { newOp s 2 b f with again := g.isNone, data := r.1, pois := r.2 } { s with rx := { s.rx with nupd := s.rx.nupd + cost } }
          |> updBkt b (fun k => { k with ustart := k.ustart + 1, imm := if g.isSome then k.imm.drop 1 else k.imm }))

/-! Rows of operations arrive and are written -/

/-- An operation has read its last row. -/
def readsDone (o : ROp) (s : State) : State :=
  match o.kind with
  | 0 =>
    let x := combineWay o
    setOp { o with full := true, outs := [(x.data, x.pois)], nan := x.nan } s
      |> (fun s => { s with rx := { s.rx with dir := s.rx.dir.map fun e =>
            if e.bucket == o.b && e.flit == o.flit && e.level == o.level && e.idx == o.idx then { e with nan := x.nan } else e } })
      |> xbump (2384 + o.vc) o.way.length |> estimate 10 o.way.length
  | 1 => setOp { o with full := true } s
  | 2 => setOp { o with full := true, outs := updateRows s o } s |> estimate 11 1
  | _ => dropOp o.id s |> gotG o |> settleBuckets

/-- R313: a parked partial has been read: its pigeonhole is free, and its NaN record goes with the operation. -/
def takePartial (o : ROp) (i : Nat) (s : State) : ROp × State :=
  match o.way[i]? with
  | none => (o, s)
  | some e =>
    let z := (entryOf s e.bucket e.flit e.level e.idx).getD e
    ({ o with way := o.way.set i z }, holeFreed o.vc { s with rx := { s.rx with dir := s.rx.dir.filter fun y => y != z } })

/-- Row `i` of an operation has been read. -/
def opRead (id i : Nat) (r : Row × Mask4) (s : State) : State :=
  match opOf s id with
  | none => s
  | some o =>
    let p := if o.kind = 0 then takePartial o i s else (o, s)
    let o := { p.1 with got := NMap.set none p.1.got i (some r) }
    let s := setOp o p.2
    if o.got.length = opReads o then readsDone o s else s

/-- R315: a partial parked in array cycle `c` may be read from the next cycle on. -/
def parkedAt (o : ROp) (c : Nat) (s : State) : State :=
  { s with rx := { s.rx with dir := s.rx.dir.map fun e =>
      if e.bucket == o.b && e.flit == o.flit && e.level == o.level && e.idx == o.idx then { e with from_ := some (c + 1) } else e } }

/-- A row of an operation has been written in array cycle `c`. -/
def opWritten (id c : Nat) (s : State) : State :=
  match opOf s id with
  | none => s
  | some o =>
    if o.wdone + 1 < o.outs.length then setOp { o with wdone := o.wdone + 1 } s
    else
      let s := dropOp id s
      let mine := (bktAt s o.b).use == o.use
      match o.kind with
      | 0 =>
        if o.hole.isSome then parkedAt o c s
        else
          let x := listGet (0, 0xF) o.outs 0
          when mine (flitReduced o.b o.flit ⟨x.1, x.2, o.nan⟩) s
      | 2 => when mine (updBkt o.b fun k => { k with upd := o.flit :: k.upd }) s |> settleBuckets
      | _ => groupWritten o.b s

/-! Results (R328) -/

/-- R328: the result sideband. -/
def resultSb (vc b f : Nat) (weights : Bool) : Nat := 1 + fld vc 1 + fld b 5 + fld f 11 + fld (b2n weights) 26

/-- R328: the result flit `f` of a bucket becomes an own read request on RL62 or RL63. -/
def sendResult (b f : Nat) (s : State) : State :=
  let k := bktAt s b
  let d := k.desc
  let c := bktCtx s b
  let lane := 62 + f % 2
  let weights := dOp d != 0
  let v := if weights then dWord d 4 else dWord d 3
  let beat := mkBeat s c v (flitOff v f) false
  let id := s.fr.nextId
  addTr { newTr (64 + lane) .rd 0 c 10 with
            rlanes := [lane], cred := 1, ready := true, beats := [beat], view := v, g0 := k.use, grps := dTag d, last := decide (dFlits d ≤ f + 2) } s
    |> updBkt b (fun k => { k with sent := k.sent + 1, afault := k.afault || (decide (1 ≤ beat.bad) && decide (beat.bad ≤ 4)) })
    |> fun s => { s with rx := { s.rx with
                  eg := NMap.upd 0 s.rx.eg (dVc d) (· - 1)
                  res := NMap.set 0 s.rx.res id (BitVec.ofNat 32 (resultSb (dVc d) b f weights)) } }

/-- RESULT_SEND (R328). -/
def execResultSend (bucket : BitVec 6) (s : State) : Host.Outcome State Fault Refusal :=
  .next (
    let b := bucket.toNat
    let k := bktAt s b
    if serving s && maySend k && decide (k.sent < dFlits k.desc) && NMap.get 0 s.rx.eg (dVc k.desc) != 0 then sendResult b k.sent s
    else s)

/-- R328: a result flit of a use of its bucket has been delivered. -/
def resultDelivered (rsb : Word) (use : Nat) (s : State) : State :=
  let b := bits rsb.toNat 10 5
  let k := bktAt s b
  if bit rsb.toNat 0 && k.use == use && (k.st == 2 || k.st == 3) && decide (k.dlv < k.sent) then
    updBkt b (fun k => { k with dlv := k.dlv + 1 }) s |> settleBuckets
  else s

/-! Into a read lane's DCQ -/

/-- LANDING_TO_DCQ (R110, R284, R404): a seal session takes a slip's flit as it is written into RL60's or RL61's DCQ. -/
def execLandingToDcq (lane : Nat) (s : State) : Host.Outcome State Fault Refusal :=
  .next (
    let x := rlane s lane
    match x.landing with
    | [] => s
    | f :: rest =>
      if !running s || decide (16 ≤ x.dcq.length) then s
      else
        let sealed := f.slip != 0 && (lane == 60 || lane == 61)
        let r := if sealed then sealFlit (lane - 60) f.data s else (f.data, false, s)
        let s := updRlane lane (fun z => { z with landing := rest, dcq := z.dcq ++ [{ f with data := r.1 }], nput := z.nput + 1 }) r.2.2 |> estimate 12 1
        if f.slip = 0 then resultDelivered f.rsb f.use s
        else match slipOf s (f.slip - 1) with
          | some z => updSlip z.sid (fun z => setSlane lane { slane z lane with dcq := (slane z lane).dcq + 1 } z) s |> progress z.q
          | none => s)

end Sys2Proof.Machine
end

