-- ==== Sys2Proof/Machine/Exchange.lean ====
section
/-!
DEFINITION. Machine/Exchange.lean: the internal exchange (R92, R231): the rows that its ports ask for by themselves in a CCLK (side and
vector rows, scale rows, parked rows, rows of the reduction port, dumps, dual writes), and what a row that has been read or
written is for.
-/
namespace Sys2Proof.Machine

/-! Side and vector rows (R183, R185): IR0 to IR8 -/

/-- The lanes that hold slots of a cluster, in slot order, each with its slip. -/
def clusterLanes (s : State) (c : Nat) : List (Slip × Nat) :=
  (List.range 4).filterMap fun j =>
    let k := 4 * c + j
    match slipOf s (NMap.get 0 s.bl.slot k - 1) with
    | some x => if NMap.get 0 s.bl.slot k = 0 then none else (x.slots.find? fun p => p.2 == k).map fun p => (x, p.1)
    | none => none

/-- R183: a lane whose slot has vector rows to ask for. -/
def wantsVec (s : State) (p : Slip × Nat) : Bool := decide ((streamOf p.1 p.2).vecQ < vecTotal s p.1.words)

/-- R185: a lane that may ask for a side row: its vectors are asked for, and fewer than 8 rows are ahead. -/
def wantsSide (s : State) (p : Slip × Nat) : Bool :=
  let y := streamOf p.1 p.2
  !wantsVec s p && decide (y.sideQ < sideTotal s p.1.words) && decide (y.side.length + (y.sideQ - y.sideN) < 8)

/-- Vector row `j` of a slot: s before b, one after the other from SIDE1 on. -/
def vecTr (s : State) (c : Nat) (x : Slip) (l j : Nat) : Tr :=
  let v := sSide1 x.words
  slipTr x v (exchTr s (174 + c) false (.vec l) (icls s 0) (mkBeat s (sCtx x.words) v ((vaOff v + 128 * j : Nat) : Int) false))

/-- Side row `j` of a lane's stream. -/
def sideTr (s : State) (c : Nat) (x : Slip) (l j : Nat) : Tr :=
  slipTr x (sSide0 x.words)
    (exchTr s (174 + c) false (.side l) (icls s 0) (mkBeat s (sCtx x.words) (sSide0 x.words) (sideOff s x.words j) false))

/-- R183, R185: the read output of a cluster asks for its next row: vectors before side rows, and of each in slot order (DEDUCED, log
entry 86). -/
def askSide (c : Nat) (s : State) : State :=
  if portBusy s (174 + c) then s
  else
    let ls := clusterLanes s c
    match ls.find? (wantsVec s) with
    | some (x, l) =>
      let y := streamOf x l
      addTr (vecTr s c x l y.vecQ) s |> updSlip x.sid fun z => setStream l { streamOf z l with vecQ := y.vecQ + 1 } z
    | none => match ls.find? (wantsSide s) with
      | some (x, l) =>
        let y := streamOf x l
        addTr (sideTr s c x l y.sideQ) s |> updSlip x.sid fun z => setStream l { streamOf z l with sideQ := y.sideQ + 1 } z
      | none => s

/-! Scale rows (R83): IR15 and IR16 -/

/-- R83: past the source rows whose scale rows are all asked for, the next scale row to ask for, if any; `fuel` bounds the source
rows looked at. -/
def nextScale (w : BitVec 512) : Nat → Nat → Option Int → Nat × Option Int
  | 0, i, _ => (i, none)
  | fuel + 1, i, last =>
    if sRows w ≤ i then (i, none)
    else match scaleRows w i with
      | a :: b :: _ => if last = some a then (i, some b) else if last = some b then nextScale w fuel (i + 1) last else (i, some a)
      | a :: _ => if last = some a then nextScale w fuel (i + 1) last else (i, some a)
      | [] => (i, none)

/-- Scale rows of a stream asked for that have not come. -/
def scalesDue (s : State) (x : Slip) (l : Nat) : Nat :=
  (s.fr.trs.filter fun t => t.slip == x.sid + 1 && t.passed.isEmpty && match t.job with | .scale m _ => m == l | _ => false).length

/-- R83: fewer than 8 scale rows are ahead of the source row that a stream takes next. -/
def scalesAhead (s : State) (x : Slip) (l : Nat) : Bool :=
  let y := slane x l
  decide ((rowsFrom (listGet 0 (scaleRows x.words y.scI) 0) y.sc).length + scalesDue s x l < 8)

/-- R233: the class of the scale row that serves source row `i`: that of the transfer which carries the row, or will. -/
def scaleCls (s : State) (x : Slip) (l i : Nat) : Nat :=
  if l = 200 then icls s 1
  else if isHELD x.words then icls s 2
  else match s.fr.trs.find? fun t => t.slip == x.sid + 1 && t.kind == .rd && decide (t.g0 * sK x.words ≤ i)
      && decide (i < (t.g0 + t.grps) * sK x.words) with
    | some t => trCls s t
    | none => let b := readBeat s x i; maxOf ((sClients x.words).map fun c => if b.bad = 0 then clsAt s c b.bank else clsFor s c)

/-- The scale streams of a slip: one for each read lane, and with an MX source one for the rows a HELD slip parks (200). -/
def scaleStreams (x : Slip) : List Nat :=
  if !isMX (sSfmt x.words) || x.ended then []
  else (if hasRead x.words ∧ 0 < x.issued then sRlanes x.words else [])
    ++ (match x.held with | some h => if h.st = 2 ∧ h.tiles ≠ 0 then [200] else [] | none => [])

/-- R83: a stream moves past source rows that need no further scale row. -/
def skipScales (x : Slip) (l : Nat) : Nat × Option Int :=
  let y := slane x l
  nextScale x.words 4096 (max y.scQ y.scI) y.scLast

/-- R83: the scale row at `a` for source row `i` of a stream. -/
def scaleTr (s : State) (p : Nat) (x : Slip) (l i : Nat) (a : Int) : Tr :=
  let v := sSrcScale x.words
  { slipTr x v (exchTr s p false (.scale l a) (scaleCls s x l i) (mkBeat s (sCtx x.words) v a false)) with wt := regArr s 0x2840 8 x.q }

/-- The port that reads scale rows for a stream (DEDUCED, log entry 86). -/
def scalePort (l : Nat) : Nat := 189 + l % 2

/-- R83: one stream asks for its next scale row, unless the port waits or 8 rows are ahead. -/
def askScale (sid l : Nat) (s : State) : State :=
  match slipOf s sid with
  | none => s
  | some x =>
    let n := skipScales x l
    let s := updSlip sid (fun z => setSlane l { slane z l with scQ := n.1 } z) s
    match n.2 with
    | none => s
    | some a =>
      if portBusy s (scalePort l) || !scalesAhead s x l then s
      else
        addTr (scaleTr s (scalePort l) x l n.1 a) s |> updSlip sid fun z => setSlane l { slane z l with scLast := some a } z

/-! Scale chunks (R164): IR15, IR16, IW6, IW7 -/

/-- A slip's first waiting scale chunk is read or written now. -/
def chunkBusy (s : State) (x : Slip) : Bool :=
  s.fr.trs.any fun t => t.slip == x.sid + 1 && (t.job == .chunkRd || t.job == .chunkWr) && t.passed.isEmpty

/-- The bytes of a full chunk. -/
def ScaleBuf.value (b : ScaleBuf) : Nat := ofBytes ((List.range 32).map fun i => NMap.get 0 b.bytes i - 1)

/-- R164: a slip's first waiting scale chunk: read it where it is filled in part, else write it. A failing row counts once for its read
and once for its write (DESIGN CHOICE, log entry 81). -/
def askChunk (x : Slip) (s : State) : State :=
  match x.scq with
  | [] => s
  | b :: _ =>
    let v := sDstScale x.words
    let l := sWlane x.words
    let c := b.off % 128 / 32
    let store := b.bytes.length == 32
    let p := if store then 200 + l % 2 else 189 + l % 2
    let row := mkBeat s (sCtx x.words) v (b.off : Int) store
    let row := if store then
        row.store (BitVec.ofNat 1024 (b.value <<< (256 * c))) (if b.pois then BitVec.ofNat 4 (2 ^ c) else 0) (BitVec.ofNat 4 (2 ^ c))
      else row
    if chunkBusy s x || portBusy s p then s
    else addTr { slipTr x v (exchTr s p store (if store then .chunkWr else .chunkRd) b.cls row) with wt := regArr s 0x2840 8 x.q } s

/-- R164: the stored chunk has been read: the bytes the slip does not fill are kept, 0x00 where the chunk was uninitialised; one that
reads poisoned poisons the merged chunk. -/
def mergeChunk (b : ScaleBuf) (r : Beat) : ScaleBuf :=
  let c := b.off % 128 / 32
  let was := r.bad != 0 || bit r.en.toNat c
  let f := r.flit
  let old := (rowChunk f.1 c).toNat
  { b with
    bytes := (List.range 32).foldl (fun m i =>
      NMap.set 0 m i (if NMap.get 0 b.bytes i ≠ 0 then NMap.get 0 b.bytes i else if was then bits old (8 * i + 7) (8 * i) + 1 else 1)) []
    pois := b.pois || (was && f.2.getLsbD c) }

/-! Parking (R211 to R213): IR9, IR10, IW0, IW1 -/

/-- R211, R212: source rows of a HELD slip that may be requested for parking. -/
def parkLimit (s : State) (x : Slip) (h : HeldEx) : Nat :=
  let w := x.words
  let adm := if h.tiles = 0 then 0 else hTileEnd w (h.tiles - 1)
  let lines := rowsPassed s x / hLrows w
  let free := if hSen w then min lines h.recs else lines
  min adm ((free + hW w) * hLrows w)

/-- R213: request the next parking read of the oldest slip that has one through port `r` (183, 184), unless one waits there. -/
def requestPark (r : Nat) (s : State) : State :=
  if portBusy s r then s
  else
    match s.sq.live.find? fun x => match x.held with
        | some h => h.st == 2 && !x.cancel && decide (h.prq < parkLimit s x h)
        | none => false with
    | none => s
    | some x => match x.held with
      | none => s
      | some h =>
        addTr { newTr r .park (x.sid + 1) (sCtx x.words) (listGet 0 (sClients x.words) 0) with
            beats := [mkBeat s (sCtx x.words) (sw x.words 1) (sRowOff x.words h.prq) false]
            ready := true, rcyc := s.cyc + 1, view := sw x.words 1, g0 := h.prq, wt := portWeight s r } s
          |> updHeld x.sid fun k => { k with prq := k.prq + 1 }

/-- R215, R216: the partial of a source row joins its slip. -/
def addPart (x : Slip) (i : Nat) (data : Row) (pois : Mask4) (sc : List (Nat × Bool)) (s : State) : State :=
  let part := rowPart (statKind (sBlendId x.words)) (sSfmt x.words) (elemsOf (sSfmt x.words) data.toNat pois.toNat sc)
  updHeld x.sid (fun k => { k with parts := NMap.set none k.parts i (some part) }) s |> estimate 9 1

/-- R83, R215: rows of an MX source enter the statistics in order, each once its scales are there; `fuel` bounds the rows. -/
def drainRaw (sid : Nat) : Nat → State → State
  | 0, s => s
  | fuel + 1, s =>
    match slipOf s sid with
    | none => s
    | some x => match x.held with
      | none => s
      | some h =>
        match NMap.get none h.raw h.nraw, headScales x (slane x 200) with
        | some r, some sc =>
          addPart x h.nraw r.1 r.2 sc s
            |> updSlip sid (fun z => setSlane 200 (useScales z.words false (slane z 200)) z)
            |> updHeld sid (fun k => { k with raw := NMap.set none k.raw h.nraw none, nraw := h.nraw + 1 })
            |> drainRaw sid fuel
        | _, _ => s

/-- R213: the parking write of a source row. -/
def parkTr (s : State) (x : Slip) (h : HeldEx) (i : Nat) (data : Row) (pois : Mask4) : Tr :=
  let b := areaBeat (holdingRow s x h (i / hLrows x.words) (i % hLrows x.words))
  { newTr (194 + i % 2) .parkWr (x.sid + 1) (sCtx x.words) (listGet 0 (sClients x.words) 0) with
    beats := [b.store data pois 0xF], offs := 6, ready := true, rcyc := s.cyc + 1, g0 := i, wt := portWeight s 194 }

/-- R213, R215, R216: a source row, read or generated, enters the statistics unit; with PARK its parking write is requested. -/
def parkArrived (x : Slip) (i : Nat) (data : Row) (pois : Mask4) (s : State) : State :=
  match x.held with
  | none => s
  | some h =>
    (if isMX (sSfmt x.words) then
        updHeld x.sid (fun k => { k with raw := NMap.set none k.raw i (some (data, pois)) }) s |> drainRaw x.sid (h.raw.length + 1)
      else addPart x i data pois [] s)
      |> progress x.q |> when (hPark x.words && !x.cancel) (addTr (parkTr s x h i data pois))

/-- R209, R230: a holding row has been written. -/
def parkWritten (x : Slip) (s : State) : State := progress x.q s |> xbump 1856 1

/-! What a row is for -/

/-- R185: a side row has arrived at its cluster. -/
def sideArrived (sid l : Nat) (f : Row × Mask4) (s : State) : State :=
  updSlip sid (fun z =>
    let y := streamOf z l
    setStream l (dropSide s z y.kd { y with side := y.side ++ [⟨f.1, f.2, []⟩], sideN := y.sideN + 1 }) z) s

/-- R183: a vector row has arrived. -/
def vecArrived (sid l : Nat) (f : Row × Mask4) (s : State) : State :=
  updSlip sid (fun z => let y := streamOf z l; setStream l { y with vec := y.vec ++ [⟨f.1, f.2, []⟩] } z) s

/-- R83: a scale row has arrived. -/
def scaleArrived (sid l : Nat) (a : Int) (f : Row × Mask4) (s : State) : State :=
  updSlip sid (fun z => let y := slane z l; setSlane l { y with sc := y.sc ++ [⟨a, f.1, f.2⟩] } z) s
    |> fun s => if l ≠ 200 then s
      else match slipOf s sid with
        | some x => drainRaw sid (match x.held with | some h => h.raw.length | none => 0) s
        | none => s

/-- The purpose of a transfer of the internal exchange is met: its row has been read or written, or reaches no bank. -/
def jobDone (t : Tr) (s : State) : State :=
  let b := t.beats.head?.getD genBeat
  let sid := t.slip - 1
  match t.job with
  | .none => s
  | .side l => sideArrived sid l b.flit s
  | .vec l => vecArrived sid l b.flit s
  | .scale l a => scaleArrived sid l a b.flit s
  | .chunkRd => updSlip sid (fun z => { z with scq := match z.scq with | c :: cs => mergeChunk c b :: cs | [] => [] }) s
  | .chunkWr => updSlip sid (fun z => { z with scq := z.scq.drop 1 }) s
  | .stat => updHeld sid (fun k => { k with recs := k.recs + 1 }) s
  | .rrow o i => opRead o i b.flit s
  | .wrow o _ => opWritten o (t.gcyc + t.offs) s
  | .trace n => advanceRing n s
  | .stopSlot => s
  | .dump u => dumped u (decide (1 ≤ b.bad) && decide (b.bad ≤ 4)) s
  | .dumpRd => s
  | .bankRd => s
  | .copyRd => copyRead b s
  | .copyWr => copyWritten s
  | .dual => dualWritten s

/-- The transfers of a port of the internal exchange that carry a row for some purpose. -/
def portTrs (s : State) (req : Nat) : List Tr := s.fr.trs.filter fun t => t.req == req && (t.kind == .ird || t.kind == .iwr)

/-- The rows of a port are handled in the order of its transfers (DEDUCED, log entry 86): each that has been performed, or reaches no
bank, up to the first that has not. -/
def settleGo : List Nat → State → State
  | [], s => s
  | id :: ids, s =>
    match trOf s id with
    | none => settleGo ids s
    | some t =>
      if !t.passed.isEmpty then settleGo ids s
      else if rowsDone t then settleGo ids (jobDone t (setTr { t with passed := [(0, 1)] } s))
      else s

/-- What the rows of a port are for is met. -/
def settlePort (req : Nat) (s : State) : State := settleGo ((portTrs s req).map (·.id)) s

/-! One CCLK -/

/-- R83, R164, R183, R185, R213, R325, R452, R467: what the ports of the internal exchange ask for by themselves in one CCLK. -/
def fetchAhead (s : State) : State :=
  forEach (List.range 9) askSide s
    |> (fun s => forEach (s.sq.live.flatMap fun x => (scaleStreams x).map fun l => (x.sid, l)) (fun p => askScale p.1 p.2) s)
    |> (fun s => forEach (s.sq.live.filter fun x => !x.ended) askChunk s)
    |> requestPark 183 |> requestPark 184 |> askRows |> askDump |> askDual

end Sys2Proof.Machine
end

