-- ==== Sys2Proof/Machine/Arbiter.lean ====
section
/-!
DEFINITION. Machine/Arbiter.lean: the decision of the bank arbiters and the planner (R96 to R100, R236 to R249), what every CCLK counts
(R341, R416, R441), and cut-offs, quarantine and share refills (R244, R245, R248).
-/
namespace Sys2Proof.Machine

/-! Reservations -/

/-- A reserved port cycle: transfer, physical bank, port, array cycle, row, whether a store, whether of an atomic, class of the
transfer, idle-steal, whether its cancellation is forbidden. -/
structure Resv where
  tr : Nat
  pb : Nat
  port : Bool
  cyc : Nat
  row : Nat
  store : Bool
  atom : Bool
  cls : Nat
  idle : Bool
  fixed : Bool
deriving DecidableEq, Repr

/-- A leg through a Clos network: transfer, network (true: write), ingress and egress switch, array cycle of its beat, class,
idle-steal, admission order, whether its cancellation is forbidden. -/
structure Leg where
  tr : Nat
  write : Bool
  ingr : Nat
  egr : Nat
  cyc : Nat
  cls : Nat
  idle : Bool
  gseq : Nat
  fixed : Bool
deriving DecidableEq, Repr

/-- The port of a transfer at a bank, by the bank's number in its beats. -/
def portOf (t : Tr) (lb : Nat) : Bool := (t.ports.find? fun p => p.1 == lb).any (·.2)

def isStore (t : Tr) : Bool := t.kind == .wr || t.kind == .at || t.kind == .parkWr || t.kind == .iwr

/-- A row of the transfer is still to be performed. -/
def rowsAhead (t : Tr) : Bool := t.beats.any fun b => b.bad == 0 && !b.done

/-- R113: store `t` stands behind store `u` on its write lane or internal port. -/
def follows (s : State) (u t : Tr) : Bool :=
  isStore u && isStore t && (if isInternal u then u.req == t.req && decide (u.id < t.id)
    else u.wlane != 0 && u.wlane == t.wlane &&
      let o := (wlane s (u.wlane - 1)).order
      o.contains t.id && (o.takeWhile (· != t.id)).contains u.id)

/-- R113, R243: a granted store of class 7 stands behind the transfer, so that no pre-emption may take the transfer back (DEDUCED, log
entry 87). -/
def heldFast (s : State) (t : Tr) : Bool :=
  s.fr.trs.any fun u => u.granted && trCls s u == 7 && rowsAhead u && follows s t u

/-- R236: the array cycles of beat `n` of a transfer granted in decision `g`, each with whether it is an atomic's second. -/
def beatCycs (t : Tr) (g n : Nat) : List (Nat × Bool) :=
  if t.kind = .at then [(g + t.offs + n, false), (g + t.offs + n + 1, true)] else [(g + t.offs + n, false)]

/-- The reservations of a transfer granted in decision `g`, those after array cycle `now`. -/
def trResvs (s : State) (now g : Nat) (t : Tr) : List Resv :=
  let cls := trCls s t
  let idle := idleSteal s t
  let fast := cls == 7 || heldFast s t
  t.beats.zipIdx.flatMap fun (b, n) =>
    if b.bad ≠ 0 then []
    else ((beatCycs t g n).filter fun c => decide (now < c.1)).map fun c =>
      ⟨t.id, pbankOf s b.bank, portOf t b.bank, c.1, b.row, isStore t, t.kind == .at, cls, idle, fast || (c.2 && decide (c.1 ≤ now + 1))⟩

/-- R96: the legs of a transfer granted in decision `g`, those after array cycle `now`. -/
def trLegs (s : State) (now g : Nat) (t : Tr) : List Leg :=
  if isInternal t then []
  else
    let cls := trCls s t
    let idle := idleSteal s t
    let fast := cls == 7 || heldFast s t
    t.beats.zipIdx.flatMap fun (b, n) =>
      let c := g + t.offs + n
      if b.bad ≠ 0 ∨ c ≤ now then []
      else (beatLegs s t b).map fun l => ⟨t.id, l.1, l.2.1, l.2.2, c, cls, idle, t.gseq, fast⟩

def allResvs (s : State) : List Resv := (s.fr.trs.filter (·.granted)).flatMap fun t => trResvs s s.cyc t.gcyc t
def allLegs (s : State) : List Leg := (s.fr.trs.filter (·.granted)).flatMap fun t => trLegs s s.cyc t.gcyc t

/-! Candidates (R236) -/

/-- R21, R109, R127, R161: the credits a transfer needs on each of its read lanes. -/
def credNeed (s : State) (t : Tr) : Nat :=
  if t.kind = .at then min 1 t.rlanes.length
  else if t.kind ≠ .rd then 0
  else if t.slip = 0 ∨ t.grps = 0 then t.beats.length
  else match slipOf s (t.slip - 1) with
    | some x => if sDrop x.words || isMOVE x.words then 0 else flitsUpTo x.words (t.g0 + t.grps) - flitsUpTo x.words t.g0
    | none => 0

/-- The transfer with `q` of its groups. -/
def cutTo (x : Slip) (t : Tr) (q : Nat) : Tr :=
  { t with beats := t.beats.take (q * sK x.words), grps := q, last := decide (t.g0 + q = sGroups x.words) }

/-- R275: a slip's transfer as CREDCAP lets it be admitted now, shortened down to one group. -/
def fitCap (s : State) (t : Tr) : Nat → Tr
  | 0 => t
  | fuel + 1 =>
    match slipOf s (t.slip - 1) with
    | none => t
    | some x =>
      if t.rlanes.all fun l => decide ((slane x l).held + credNeed s t ≤ sCap x.words) then t
      else if t.grps ≤ 1 then t
      else fitCap s (cutTo x t (t.grps - 1)) fuel

/-- The transfer as it would be admitted. -/
def fitTr (s : State) (t : Tr) : Tr := if t.took || t.slip == 0 || t.kind != .rd then t else fitCap s t t.grps

/-! The conversion buffer (R160) -/

/-- R160: the time that a slip's source flit takes at a lane's conversion stage, in 1/1280 CCLK; 0 where one yields at most one
destination flit. -/
def convTime (x : Slip) : Nat := if sND x.words < sNS x.words ∧ !sDrop x.words then sNS x.words * (1280 / sND x.words) else 0

/-- R128, R160: the source flits that a read granted in decision `g` brings to a conversion stage from beat `n` on: when each arrives,
and its time there. -/
def convIn (s : State) (t : Tr) (g n : Nat) : List (Nat × Nat) :=
  match slipOf s (t.slip - 1) with
  | some x =>
    if t.slip = 0 ∨ t.kind ≠ .rd ∨ t.grps = 0 then []
    else (List.range t.beats.length).flatMap fun i =>
      if i < n ∨ (i + 1) % sK x.words ≠ 0 then []
      else (List.range (sM x.words)).map fun j => (1280 * (g + t.offs + i + j), convTime x)
  | none => []

/-- When each source flit of a list has left the stage, which is busy until `f`. -/
def convOut : Nat → List (Nat × Nat) → List Nat
  | _, [] => []
  | f, (a, w) :: rest => (max f a + w) :: convOut (max f a + w) rest

/-- The source flits of the destination flits that wait at a lane's output, as they occupy the stage. -/
def convWaits (s : State) (l : Nat) : List (Nat × Nat) :=
  match slipOf s ((rlane s l).cur - 1) with
  | some x =>
    if (rlane s l).cur = 0 ∨ convTime x = 0 then []
    else List.replicate (cdiv (1280 * (slane x l).wait.length) (convTime x)) (0, convTime x)
  | none => []

/-- R160: the 8 places of a lane's conversion buffer have room for every source flit of a read as it arrives. -/
def convRoom (s : State) (t : Tr) (l : Nat) : Bool :=
  let mine := convIn s t s.cyc (NMap.get 0 t.passed l)
  if mine.all fun a => a.2 == 0 then true
  else
    let before := ((rlane s l).order.takeWhile (· != t.id)).filterMap (trOf s)
    let old := convWaits s l ++ before.flatMap fun u => convIn s u u.gcyc (NMap.get 0 u.passed l)
    let out := convOut (1280 * s.cyc) (old ++ mine)
    mine.zipIdx.all fun (a, i) => decide (((out.take (old.length + i)).filter fun f => decide (a.1 < f)).length < 8)

/-! Watched lanes (R452) -/

/-- R452: a unit with HOLD that captures the slip of a transfer for its dump region. -/
def holdsFor (s : State) (t : Tr) (u : Nat) : Bool :=
  let st := (reg s (wuReg u 0x1C)).toNat
  t.slip != 0 && (watchAt s u).slip == t.slip && regB s (wuReg u 0) 6 && regF s (wuReg u 0) 5 4 != 0 && !bit st 3 && !bit st 4

/-- R451: the sequence numbers from `lo` to below `hi` that a unit taps. -/
def tapsOf (s : State) (u lo hi : Nat) : Nat := ((List.range (hi - lo)).filter fun i => inWindow s u (lo + i)).length

/-- R452: the buffer of a watch unit with HOLD has room for what a transfer brings, beside what the transfers granted before it still
bring. A transfer that brings more than 16 flits goes when nothing else does (DEDUCED, log entry 88). -/
def holdRoom (s : State) (t : Tr) : Bool :=
  match slipOf s (t.slip - 1) with
  | none => true
  | some x => (List.range 4).all fun u =>
    let buf := (watchAt s u).buf.length
    let lane := wuLane s u (listGet 0 (sRlanes x.words) 0)
    if !holdsFor s t u then true
    else if regB s (wuReg u 0) 3 then
      let rows (y : Tr) : Nat := (y.beats.zipIdx.filter fun (b, n) => b.bad == 0 && !b.have_ && inWindow s u (y.g0 + n)).length
      t.kind != .wr
        || decide (buf + rows t + nsum ((s.fr.trs.filter fun y => y.granted && y.kind == .wr && y.slip == t.slip).map rows) ≤ 16)
    else if t.kind ≠ .rd ∨ !t.rlanes.contains lane then true
    else
      let out := (slane x lane).out
      let lo := if t.grps = 0 then out else flitsUpTo x.words t.g0
      let hi := if t.grps = 0 then out + t.beats.length else flitsUpTo x.words (t.g0 + t.grps)
      (buf == 0 && tapsOf s u out lo == 0) || decide (buf + tapsOf s u out hi ≤ 16)

/-- R21, R160, R275, R278, R452: the credits and the room for a transfer's admission. -/
def credOk (s : State) (t : Tr) : Bool :=
  (t.rlanes.all (convRoom s t)) && (t.took ||
    ((t.rlanes.all fun l => decide (credNeed s t ≤ (rlane s l).cred))
      && holdRoom s t
      && (match slipOf s (t.slip - 1) with
          | some x => t.slip == 0 ||
            ((t.rlanes.all fun l => decide ((slane x l).held + credNeed s t ≤ sCap x.words))
              && (!(isMOVE x.words && t.kind == .rd)
                || decide ((wlane s (sWlane x.words)).staging.length + (flitsUpTo x.words (t.g0 + t.grps) - x.fin) ≤ 16)))
          | none => true)))

/-- The transfers ahead of a transfer on its lanes, or on its internal port. -/
def ahead (s : State) (t : Tr) : List Tr :=
  if isInternal t then s.fr.trs.filter fun u => u.req == t.req && isInternal u && decide (u.id < t.id)
  else
    let before (o : List Nat) : List Nat := o.takeWhile (· != t.id)
    let ids := (t.rlanes.flatMap fun l => before (rlane s l).order) ++ (if t.wlane = 0 then [] else before (wlane s (t.wlane - 1)).order)
    ids.filterMap (trOf s)

/-- R113, R236: a transfer ahead holds this one up in decision `g`. -/
def blocks (g : Nat) (t u : Tr) : Bool :=
  u.kind != .drop && (!u.granted || decide (g + t.offs ≤ u.gcyc + u.offs + u.beats.length - 1 + b2n (u.kind == .at)))

/-- R55: the bank makes an access wait. -/
def bankWaits (s : State) (lb : Nat) : Bool := !bankOn s lb && !bankDead s lb

/-- R467: rows of granted stores that still have to produce dual writes, and dual writes queued. -/
def dualsDue (s : State) (m : Mig) : Nat :=
  m.dual.length + (((s.fr.trs.filter fun u => u.granted && isStore u).flatMap (·.beats)).filter fun b =>
    b.bad == 0 && !b.done && isCopied s b.bank b.row).length

/-- R468: a store left behind at the source of a switch reaches row `row` before array cycle `c`. -/
def oldStore (s : State) (row c : Nat) : Bool :=
  s.fr.trs.any fun u => u.granted && isStore u && u.beats.zipIdx.any fun (b, n) =>
    b.bad == 0 && !b.done && decide (256 ≤ b.bank) && b.row == row && (beatCycs u u.gcyc n).any fun k => decide (k.1 < c)

/-- R467, R468: a store to a copied row finds the dual-write queue full; after the switch, a row still has a dual write to come. -/
def fwWaits (s : State) (t : Tr) : Bool :=
  match s.fw.mig with
  | none => false
  | some m =>
    if m.phase < 4 then
      let k := (t.beats.filter fun b => b.bad == 0 && isCopied s b.bank b.row).length
      isStore t && k != 0 && decide (16 < dualsDue s m + k)
    else t.beats.zipIdx.any fun (b, n) =>
      b.bad == 0 && b.bank == m.lb && (m.dual.any (·.row == b.row) || oldStore s b.row (s.cyc + t.offs + n + b2n (isStore t)))

/-- R467: a correction write-back to a copied row finds the dual-write queue full. -/
def wbWaits (s : State) (bank row : Nat) : Bool :=
  isCopied s bank row && (match s.fw.mig with | some m => decide (16 < dualsDue s m + 1) | none => false)

/-- R244: the requester is cut off at one of the transfer's banks. -/
def isCut (s : State) (t : Tr) : Bool := s.arb.cuts.any fun c => c.req == t.req && c.left != 0 && (trBanks t).contains c.bank

/-- R469: the traffic of a migration goes on only while its source and its spare are On. -/
def migWaits (s : State) (t : Tr) : Bool :=
  t.job.isMig && (match s.fw.mig with | some m => !(bankOn s m.lb && bankOn s (128 + m.pb)) | none => false)

/-- R249: the stall reason of a transfer that is no candidate in this decision; 0: it is one. One that accesses no bank waits for
credits and its lane's order alone (R108). -/
def waitReason (s : State) (t : Tr) : Nat :=
  let ah := ahead s t
  let gen := isGenerated t
  if !gen && throttled s (trCls s t) then 7
  else if (!gen && quarantined s t.req) || ah.any fun u => quarantined s u.req && !u.granted && !isGenerated u then 11
  else if fwWaits s t then 10
  else if migWaits s t || (!t.job.isMig && (trBanks t).any (bankWaits s)) then 9
  else if !credOk s t then 3
  else if (!isInternal t && !isIssued s t) || decide (s.cyc < t.rcyc) || ah.any (blocks s.cyc t) || isCut s t then
    (if t.preempt then 2 else 1)
  else 0

/-- R55: the rows of a transfer at banks that are not On and do not wake. A row read before a pre-emption keeps what it read (R242). -/
def markDead (s : State) (t : Tr) : Tr :=
  if t.job.isMig then t
  else { t with beats := t.beats.map fun b =>
      if b.bad == 0 && bankDead s b.bank then
        { b with bad := 5, data := if t.kind = .wr ∨ t.kind = .parkWr ∨ t.kind = .iwr ∨ b.have_ then b.data else 0,
                 pois := if b.have_ && !isStore t then b.pois else 0xF }
      else b }

/-! The decision (R238, R239) -/

/-- A tentative grant: the transfer as it would be admitted with its ports, its reservations, the transfers it pre-empts. -/
structure Plan where
  tr : Tr
  res : List Resv
  victims : List Nat
deriving DecidableEq, Repr

/-- R234, R248: reservation `r` may be pre-empted by a transfer of class `cls`, `idle` itself idle-steal. -/
def below (s : State) (cls : Nat) (idle : Bool) (r : Resv) : Bool :=
  !r.fixed && (if shareMode s then r.idle && !idle else decide (r.cls < cls))

/-- R238: the port of a transfer at a physical bank for its array cycles `cs`, with the transfers it displaces there. -/
def choosePort (s : State) (res : List Resv) (cls : Nat) (idle : Bool) (pb : Nat) (cs : List Nat) : Option (Bool × List Nat) :=
  let at_ (p : Bool) : List Resv := res.filter fun r => r.pb == pb && r.port == p && cs.contains r.cyc
  let a := at_ false
  let b := at_ true
  let who (l : List Resv) : List Nat := dedup (l.map (·.tr))
  if a.isEmpty then some (false, [])
  else if b.isEmpty then some (true, [])
  else
    let okA := a.all (below s cls idle)
    let okB := b.all (below s cls idle)
    let key (l : List Resv) : List Nat := [maxOf (l.map (·.cls)), (who l).length]
    if okA && !(okB && lexLt (key b) (key a)) then some (false, who a)
    else if okB then some (true, who b)
    else none

/-- R41: one of a store's reservations meets, on its row, those of an atomic; an atomic's, those of any store. -/
def meets41 (res mine : List Resv) : Bool :=
  mine.any fun m => m.store && res.any fun r => r.pb == m.pb && r.row == m.row && r.cyc == m.cyc && r.store && (m.atom || r.atom)

/-- R238: the ports of a transfer bank by bank, with the victims; none where a bank has no eligible port. -/
def choosePorts (s : State) (res : List Resv) (t : Tr) : List Nat → Option (List (Nat × Bool) × List Nat)
  | [] => some ([], [])
  | lb :: rest =>
    let cs := t.beats.zipIdx.flatMap fun (b, n) => if b.bad == 0 && b.bank == lb then (beatCycs t s.cyc n).map (·.1) else []
    match choosePort s res (trCls s t) (idleSteal s t) (pbankOf s lb) cs, choosePorts s res t rest with
    | some (p, v), some (ps, vs) => some ((lb, p) :: ps, v ++ vs)
    | _, _ => none

/-- R113: some transfers with the granted stores behind them, which a pre-emption takes back together with them, so that the rows of a
lane or port are stored in its order (DEDUCED, log entry 87). -/
def cascade (s : State) (vs : List Nat) : List Nat :=
  if vs.isEmpty then []
  else
    let us := vs.filterMap (trOf s)
    dedup (vs ++ (s.fr.trs.filter fun t => t.granted && rowsAhead t && us.any fun u => follows s u t).map (·.id))

/-- R238: the plan of one candidate against the reservations that stand. -/
def planOf (s : State) (res : List Resv) (t : Tr) : Option Plan :=
  match choosePorts s res t (trBanks t) with
  | none => none
  | some (ps, vs) =>
    let t := { t with ports := ps }
    let mine := trResvs s s.cyc s.cyc t
    if meets41 res mine then none else some ⟨t, mine, cascade s (dedup vs)⟩

/-- Remove the reservations of some transfers. -/
def withoutTrs (vs : List Nat) (res : List Resv) : List Resv := res.filter fun r => !(vs.contains r.tr)

/-- R238: the candidates in rank order: tentative grants, and candidates that fail. -/
def tentative (s : State) : List Resv → List Tr → List Plan × List Tr
  | _, [] => ([], [])
  | res, t :: ts =>
    match planOf s res t with
    | some p => let r := tentative s (withoutTrs p.victims res ++ p.res) ts; (p :: r.1, r.2)
    | none => let r := tentative s res ts; (r.1, t :: r.2)

/-- R97: legs at an ingress (`eg` false) or egress switch of a network in the cycle of an array cycle. -/
def legsAt (legs : List Leg) (wr eg : Bool) (sw c : Nat) : Nat :=
  (legs.filter fun l => l.write == wr && l.cyc == c && (if eg then l.egr else l.ingr) == sw).length

/-- R98: the new legs that find a switch above its limit among all legs. -/
def overLegs (s : State) (legs new : List Leg) : List Leg :=
  new.filter fun l => decide (planes s l.write < legsAt (legs ++ new) l.write false l.ingr l.cyc)
    || decide (planes s l.write < legsAt (legs ++ new) l.write true l.egr l.cyc)

def legsWithout (vs : List Nat) (legs : List Leg) : List Leg := legs.filter fun l => !(vs.contains l.tr)

/-- R98: a leg finds its ingress switch above its limit. -/
def overIngress (s : State) (legs : List Leg) (l : Leg) : Bool := decide (planes s l.write < legsAt legs l.write false l.ingr l.cyc)

/-- R99: lower-class transfers with legs on the ingress switches that the new legs fill above their limit, lowest class and latest
admission first. -/
def legVictims (s : State) (cls : Nat) (idle : Bool) (legs new : List Leg) : List Nat :=
  let full := new.filter (overIngress s (legs ++ new))
  let c := legs.filter fun l => (if shareMode s then l.idle && !idle else decide (l.cls < cls)) && !l.fixed
    && full.any fun o => o.write == l.write && o.ingr == l.ingr && o.cyc == l.cyc
  dedup ((ordSort (fun a b => lexLt [a.cls, 2 ^ 64 - a.gseq] [b.cls, 2 ^ 64 - b.gseq]) c).map (·.tr))

/-- R98, R99: further victims until the new legs fit; none where they never do. -/
def fitLegs (s : State) (new : List Leg) : List Nat → List Nat → List Leg → Option (List Nat)
  | cands, vs, legs =>
    if (overLegs s legs new).isEmpty then some vs
    else match cands with
      | [] => none
      | v :: rest => fitLegs s new rest (vs ++ cascade s [v]) (legsWithout (cascade s [v]) legs)

/-- What the planner has confirmed so far: reservations, legs, admitted plans, pre-empted transfers, refused candidates, full
read ingress switches met. -/
structure Confirmed where
  res : List Resv
  legs : List Leg
  adm : List Plan
  pre : List Nat
  ref : List Tr
  full : List Nat
deriving DecidableEq, Repr

/-- R113: an admission and the pre-emptions of one decision leave the stores of a lane or port in order: no plan behind a transfer
taken back, and none admitted before stands behind a victim (DEDUCED, log entry 87). -/
def keepsOrder (s : State) (c : Confirmed) (t : Tr) (vs : List Nat) : Bool :=
  !((c.pre.filterMap (trOf s)).any fun u => follows s u t)
    && !((vs.filterMap (trOf s)).any fun u => c.adm.any fun p => follows s u p.tr)

/-- R239: admit or refuse one tentative grant. A plan that counted on port cycles which a refusal left with their holders is
refused (DEDUCED, log entry 24). -/
def confirm (s : State) (c : Confirmed) (p : Plan) : Confirmed :=
  let res := withoutTrs p.victims c.res
  let clash := p.res.any fun m => res.any fun r => r.pb == m.pb && r.port == m.port && r.cyc == m.cyc
  if clash || meets41 res p.res then { c with ref := c.ref ++ [p.tr] }
  else
    let new := trLegs s s.cyc s.cyc p.tr
    let legs := legsWithout p.victims c.legs
    match fitLegs s new (legVictims s (trCls s p.tr) (idleSteal s p.tr) legs new) [] legs with
    | some vs =>
      if keepsOrder s c p.tr (p.victims ++ vs) then
        { c with
          res := withoutTrs vs res ++ p.res
          legs := legsWithout vs legs ++ new
          adm := c.adm ++ [p]
          pre := dedup (c.pre ++ p.victims ++ vs) }
      else { c with ref := c.ref ++ [p.tr] }
    | none =>
      { c with
        ref := c.ref ++ [p.tr]
        full := c.full ++ dedup ((new.filter (overIngress s (legs ++ new))).filterMap fun l => if l.write then none else some l.ingr) }

/-! Effects of a decision -/

/-- R129: the beats of a pre-empted transfer whose groups are complete, counted from beat 0: the others are read again. -/
def wholeGroups (k : Nat) (t : Tr) : Nat := (t.beats.takeWhile fun b => b.have_ || b.bad != 0).length / k * k

/-- R129: the merge stages lose the groups that a pre-empted read has partly filled, and are filled from the restarted beats. -/
def regroup (id : Nat) (s : State) : State :=
  match trOf s id with
  | none => s
  | some t => match slipOf s (t.slip - 1) with
    | none => s
    | some x =>
      let keep := wholeGroups (sK x.words) t
      if t.slip = 0 ∨ t.kind ≠ .rd ∨ t.grps = 0 ∨ sDrop x.words ∨ sK x.words = 1 then s
      else
        setTr { t with
            beats := t.beats.zipIdx.map fun (b, n) => if n < keep then b else { b with have_ := false }
            passed := t.rlanes.foldl (fun m l => NMap.upd 0 m l (min keep)) t.passed } s
          |> forEach (t.rlanes.filter fun l => decide (keep < NMap.get 0 t.passed l)) fun l =>
              updSlip x.sid fun z => setSlane l { slane z l with grp := [], scI := (slane z l).scI - (slane z l).grp.length } z

/-- R242, R254: pre-empt a transfer. A row of the internal exchange that means nothing any more is given up. Granted again, it goes to
the bank that the map then names (R468). -/
def preempt (id : Nat) (s : State) : State :=
  match trOf s id with
  | none => s
  | some t =>
    let n := (t.beats.filter fun b => b.done && b.bad == 0).length
    (if (t.kind == .ird || t.kind == .iwr) && t.job == .none then dropTr id s
      else setTr { t with granted := false, preempt := true, beats := t.beats.map fun b => { b with done := false, bank := plainBank b.bank } } s |> regroup id)
      |> forEach (trClients s t) fun c s => bump (0x5608 + 0x20 * (c % 12)) 1 s |> bump (0x5610 + 0x20 * (c % 12)) n

/-- R59, R80: a row of an own request fails its check: counted and logged each, one event of each cause. -/
def ownFault (t : Tr) (b : Beat) (s : State) : State :=
  let kind := b.bad - 1
  let seen := match trOf s t.id with | some u => if kind = 0 then u.ev57 else u.ev56 | none => true
  faultRow kind t.ctx t.client t.view (b.off : Int) (isStore t) none s
    |> when (!seen) (fun s => raise (faultCause kind) s |> fun s => match trOf s t.id with
        | some u => setTr (if kind = 0 then { u with ev57 := true } else { u with ev56 := true }) s
        | none => s)

/-- A beat that reaches no bank, as its transfer is granted: a failed check (R80, R329) or a bank not On (R55). -/
def beatFault (t : Tr) (b : Beat) (s : State) : State :=
  if b.bad = 5 then deadAccess b.bank s
  else if 1 ≤ b.bad ∧ b.bad ≤ 4 then
    (if t.slip = 0 then ownFault t b s
     else match slipOf s (t.slip - 1) with
       | some x => slipFault x (b.bad - 1) t.view (b.off : Int) (isStore t) s
       | none => s)
      |> fun s => match t.job with
        | .rrow o _ => opFault o s
        | .wrow o _ => opFault o s
        | _ => s
  else s

/-- What a beat that reaches no bank stands for, as its transfer is first granted. -/
def beatGone (t : Tr) (b : Beat) (s : State) : State :=
  if b.bad = 0 ∨ t.slip = 0 then s
  else match slipOf s (t.slip - 1) with
    | none => s
    | some x => match t.kind with
      | .park => parkArrived x t.g0 0 0xF s
      | .parkWr => parkWritten x s
      | .rd => when (isHELD x.words && t.grps != 0 && !b.once) (xbump 1857 1) s
      | _ => s

/-- R275: the credits a transfer takes at its first grant. -/
def takeCredits (t : Tr) (s : State) : State :=
  let n := credNeed s t
  forEach t.rlanes (fun l s =>
    let s := updRlane l (fun x => { x with cred := x.cred - n }) s
    if t.slip = 0 then s
    else updSlip (t.slip - 1) (fun y => setSlane l { slane y l with held := (slane y l).held + n } y) s) s

/-- R55: the beats of a transfer granted again that no longer reach their bank. -/
def newlyDead (s : State) (t : Tr) : List Beat :=
  match trOf s t.id with
  | some u => ((u.beats.zip t.beats).filter fun p => p.1.bad == 0 && p.2.bad != 0).map (·.2)
  | none => []

/-- R239: grant one admitted plan. -/
def grantTr (p : Plan) (s : State) : State :=
  let t := p.tr
  let gone := if t.took then newlyDead s t else t.beats
  let s := setTr { t with granted := true, preempt := false, gcyc := s.cyc, gseq := s.arb.gseq, took := true } s
  let s := { s with arb := { s.arb with gseq := s.arb.gseq + 1 } }
  (if t.took then s
    else takeCredits t s
      |> when (t.slip != 0 && t.kind == .rd && t.grps != 0) (updSlip (t.slip - 1) fun y => { y with issued := t.g0 + t.grps }))
    |> forEach gone (fun b s => beatFault t b s |> beatGone t b)
    |> when (t.kind == .ird || t.kind == .iwr) (settlePort t.req)

/-- R240: the pointers after a decision, from the admitted transfers in rank order; a transfer whose beat 0 reaches no bank moves
none. -/
def movePointers : List Plan → State → State
  | [], s => s
  | p :: ps, s =>
    let t := p.tr
    let v := (t.req + 1) % 206
    let b := beat0Bank s t
    movePointers ps
      (if (t.beats.head?.any fun b => b.bad != 0) then s
       else if shareMode s then { s with arb := { s.arb with shPtr := NMap.set 0 s.arb.shPtr b v } }
       else { s with arb := { s.arb with ptr := NMap.set 0 s.arb.ptr (8 * b + trCls s t) v } })

/-- R246: the ticket of a transfer that failed, with the failed transfers of its decision. -/
def ticketOf (s : State) (res : List Resv) (failed : List Tr) (x : Tr) : Nat :=
  let cls := trCls s x
  min 63 (maxOf ((trBanks x).map fun k =>
    let r := (res.filter fun r => r.pb == pbankOf s k && decide (s.cyc + 2 ≤ r.cyc) && decide (cls ≤ r.cls)).length
    let q := nsum ((failed.filter fun y => lexLt (rankKeys s y) (rankKeys s x)).map fun y =>
      (y.beats.filter fun b => b.bad == 0 && b.bank == k).length)
    cdiv (r + q) 2))

/-- R247: hand a ticket to its requester: internal ports receive none. -/
def giveTicket (x : Tr) (t : Nat) (s : State) : State :=
  if x.req < 174 then
    let s := { s with arb := { s.arb with tkt := NMap.set 0 s.arb.tkt x.req t } }
    if 64 ≤ x.req then
      let wr := decide (129 ≤ x.req)
      let lane := if wr then x.req - 129 else x.req - 64
      setChan wr lane { chan s wr lane with tkt := t } s
    else s
  else s

/-- A transfer that waits for a grant. -/
def waits (t : Tr) : Bool := t.ready && !t.granted && t.kind != .drop

/-- R247: whether each request channel has a waiting request. -/
def markWaiting (s : State) : State :=
  let w : List Nat := ((s.fr.trs.filter fun t => waits t && t.slip == 0).map fun t => if 129 ≤ t.req then t.req - 29 else t.req - 64)
  { s with fr := { s.fr with
      ch := (dedup w).foldl (fun m k => NMap.upd ReqCh.empty m k fun x => { x with wait := true })
        (s.fr.ch.foldl (fun m e => NMap.set ReqCh.empty m e.1 { e.2 with wait := false }) []) } }

/-- R244: the port beats of array cycle `cyc`: port key, requester, class. -/
def performing (s : State) : List (Nat × Nat × Nat × Nat) :=
  (s.fr.trs.filter (·.granted)).flatMap fun t =>
    t.beats.zipIdx.flatMap fun (b, n) =>
      if b.bad == 0 && (beatCycs t t.gcyc n).any fun c => c.1 == s.cyc then
        [(2 * pbankOf s b.bank + b2n (portOf t b.bank), plainBank b.bank, t.req, trCls s t)] else []

/-- R244: the runs after this decision; `failed` its candidates that failed. -/
def newRuns (s : State) (failed : List Tr) : NMap Run :=
  (performing s).foldl (fun m (k, lb, req, cls) =>
    let hot := failed.any fun y => y.req != req && decide (1 ≤ trCls s y) && (trBanks y).contains lb
    let old := NMap.get Run.none s.arb.runs k
    NMap.set Run.none m k
      (if old.req = req + 1 then ⟨req + 1, old.len + 1, old.cont + b2n hot, cls⟩ else ⟨req + 1, 1, b2n hot, cls⟩)) []

/-- A transfer needs nothing more after this cycle: it has left the order of its lanes, or its port has handled it; the rows of a
readout stay until the readout is done. -/
def finished (s : State) (t : Tr) : Bool :=
  rowsDone t && (t.kind != .at || decide (t.gcyc + t.offs + 1 ≤ s.cyc))
    && (if t.kind == .ird || t.kind == .iwr then !t.passed.isEmpty && t.job != .dumpRd && t.job != .bankRd else !isIssued s t)

/-- Remove the transfers that are through, and what no later array cycle can see of earlier stores. -/
def sweep (s : State) : State :=
  { s with
    fr := { s.fr with trs := s.fr.trs.filter fun t => !finished s t }
    bank := { s.bank with undo := s.bank.undo.filter fun u => decide (s.cyc + 1 < u.seen) } }

/-- R162, R290: write transfers at the head of a lane whose rows are all stored leave it with their staging entries; `fuel` bounds
their number. -/
def settleLane (lane : Nat) : Nat → State → State
  | 0, s => s
  | fuel + 1, s =>
    match (wlane s lane).order with
    | [] => s
    | id :: rest =>
      match trOf s id with
      | none => s
      | some t =>
        if !(t.kind != .drop && rowsDone t) then s
        else
          let s := updWlane lane (fun w => { w with order := rest }) s
          let s := if t.slip = 0 then updWlane lane (fun w => { w with staging := w.staging.drop t.beats.length }) s
            else match slipOf s (t.slip - 1) with
              | none => s
              | some x =>
                let st := x.stored + t.beats.length
                let f := if st ≥ sStores x.words then x.fin else if isWRITE x.words then st * sND x.words / sNS x.words else st
                let p := max x.fpop (min f x.fin)
                updWlane lane (fun w => { w with staging := w.staging.drop (p - x.fpop) }) s
                  |> updSlip x.sid (fun y => { y with stored := st, fpop := p }) |> progress x.q
          settleLane lane fuel s

/-! What a CCLK counts (R198, R249, R273, R416) -/

/-- R185: the lanes of a slip that hold their next flit for a side row. -/
def sideLanes (s : State) (x : Slip) : List Nat :=
  if x.ended || !usesSide x.words then []
  else if isWRITE x.words then
    let l := sWlane x.words
    let w := wlane s l
    if w.claim = x.sid + 1 ∧ w.seen ≠ 0 ∧ w.staging.length < 16 ∧ !intakeDone x ∧ writeHeld s x then [l] else []
  else (sRlanes x.words).filter fun l => (rlane s l).cur == x.sid + 1 && (match (slane x l).wait with
    | d :: _ => !sideHere s x (slane x l) (slane x l).kd d.n
    | [] => false)

/-- R83, R273: a lane of a slip holds its next flit for a scale row. -/
def scaleHeld (s : State) (x : Slip) : Bool :=
  hasRead x.words && isMX (sSfmt x.words) && !x.ended && (sRlanes x.words).any fun l =>
    (rlane s l).cur == 0 && (match ((rlane s l).order.head?).bind (trOf s) with
      | some t => t.slip == x.sid + 1 && t.kind == .rd && t.grps != 0 && beatReady s t (NMap.get 0 t.passed l)
          && (headScales x (slane x l)).isNone
      | none => false)

/-- R212, R225: a HELD slip waits at tile admission: its next tile's tally has not come, and every row admitted is requested. -/
def tileHeld (s : State) (x : Slip) (h : HeldEx) : Bool :=
  let w := x.words
  h.st == 2 && !x.cancel && hAen w && decide (h.tiles < hTiles w) && !reached s (hAtally w) (hAbase w + h.tiles + 1)
    && decide ((if h.tiles = 0 then 0 else hTileEnd w (h.tiles - 1)) ≤ h.prq)

/-- R235, R245, R276: a slip has a transfer to issue. -/
def toIssue (s : State) (x : Slip) : Bool := (readNext s x).isSome || (writeNext s x).isSome

/-- The slips whose next transfer no lane has issued in this cycle. -/
def unserved (s : State) : List Nat := (s.sq.live.filter (toIssue s)).map (·.sid)

/-- R245, R249, R273, R276: the stall reason of an executing slip beside those of its transfers; 0: none. `late`: the slips whose next
transfer was not issued. -/
def slipReason (late : List Nat) (s : State) (x : Slip) : Nat :=
  let w := x.words
  if x.ended then 0
  else if sType w = 6 then 4
  else if sType w = 10 then 3
  else
    let held := match x.held with
      | some h => if h.st = 1 then 6 else if tileHeld s x h then 4 else 0
      | none => 0
    if quarantined s x.q && late.contains x.sid then 11
    else if held ≠ 0 then held
    else if (x.slotSt == 1 || x.slotSt == 2) && x.issued == 0 && x.wissued == 0 then 5
    else if !(sideLanes s x).isEmpty || scaleHeld s x then 5
    else if hasWrite w && x.wissued == 0 && x.issued == 0 && !hasClaim s x && !claimOk s x then 1
    else if late.contains x.sid then 1
    else 0

/-- R249, R416: the order in which stall reasons count. -/
def stallOrder : List Nat := [8, 7, 11, 10, 9, 6, 5, 4, 3, 2, 1]

def firstReason (l : List Nat) : Nat := (stallOrder.find? fun r => l.contains r).getD 0

/-- R416: clients with granted transfers that are not through, and client 10 while the combiner or optimizer adds. -/
def busyClients (s : State) : List Nat :=
  ((s.fr.trs.filter fun t => t.granted && !(isInternal t && !t.passed.isEmpty)).flatMap (trClients s))
    ++ (if s.rx.took = 0 ∧ s.rx.nupd = 0 then [] else [10])

/-- R416: one CCLK of each client's state; `work`: waiting work, its reason and clients. -/
def countClients (work : List (Nat × List Nat)) (s : State) : State :=
  forEach (List.range 12) (fun c s =>
    let mine := (work.filter fun w => w.2.contains c).map (·.1)
    if !halted s && (busyClients s).contains c then bump (0x5000 + 0x80 * (c % 12)) 1 s
    else
      let r := firstReason mine
      if r = 0 then bump (0x5010 + 0x80 * (c % 12)) 1 s
      else bump (0x5008 + 0x80 * (c % 12)) 1 s |> bump (0x5010 + 8 * ((16 * c + r) % 188)) 1) s

/-- R198: allocated slots, and lanes held for side rows, by cluster. -/
def countSlots (s : State) : State :=
  forEach (s.bl.slot.map fun e => e.1 / 4) (fun c => xbump (1824 + c) 1) s
    |> forEach (s.sq.live.flatMap fun x => (sideLanes s x).filterMap (clusterOf x)) (fun c => xbump (1840 + c) 1)

/-- R249, R273: the stall reason of each queue in this CCLK, and its count. -/
def countQueues (late : List Nat) (s : State) : State :=
  forEach (s.sq.q.map (·.1)) (fun q s =>
    let x := queueOf s q
    if x.run = 0 then updQueue q (fun y => { y with stall := 0 }) s
    else match slipOf s (x.run - 1) with
      | none => s
      | some y =>
        let own := slipReason late s y
        let trs := (s.fr.trs.filter fun t => t.slip == x.run && waits t).map fun t =>
          let r := waitReason s t; if r = 0 then (if t.preempt then 2 else 1) else r
        updQueue q (fun z => { z with stall := if 3 ≤ own ∧ own ≤ 6 then own else firstReason (own :: trs) }) s
          |> when (decide (3 ≤ own) && decide (own ≤ 6)) (xbump (2112 + 4 * q + own - 3) 1)) s

/-- Waiting work after a decision, with its reasons. A transfer whose request this decision could not yet see counts as waiting
for arbitration. -/
def waitingWork (late : List Nat) (s : State) : List (Nat × List Nat) :=
  ((s.fr.trs.filter waits).map fun t =>
    let r := waitReason s (fitTr s t)
    (if r = 0 then (if t.preempt then 2 else 1) else r, trClients s t))
  ++ (s.sq.live.map fun x => (slipReason late s x, sClients x.words))

/-! The command -/

/-- R442: the traffic that goes on in a halt: postmarks, dump readout, bank readout. -/
def isExempt (t : Tr) : Bool :=
  match t.job with
  | .trace _ => true
  | .stopSlot => true
  | .dumpRd => true
  | .bankRd => true
  | _ => false

/-- Every beat whose array cycle has come is performed; in a halt, those of the exempt traffic (R442). -/
def cycleDone (s : State) : Bool :=
  s.fr.trs.all fun t => !t.granted || (halted s && !isExempt t) || t.beats.zipIdx.all fun (b, n) =>
    b.done || b.bad != 0 || (!halted s && decide (s.cyc < t.gcyc + t.offs + n))

/-- R238 to R246: the decision of cycle `cyc` over the transfers that wait. -/
def decide_ (s : State) : State :=
  let cands := rankTrs s (((s.fr.trs.filter waits).map fun t => fitTr s t).filter fun t => waitReason s t == 0)
  let cands := cands.map (markDead s)
  let t1 := tentative s (allResvs s) cands
  let c := t1.1.foldl (confirm s) ⟨allResvs s, allLegs s, [], [], [], []⟩
  let failed := t1.2 ++ c.ref
  let pre := c.pre.filterMap (trOf s)
  let tickets := (failed ++ pre).map fun x => (x, ticketOf s c.res (failed ++ pre) x)
  let runs := newRuns s failed
  let s1 := forEach c.pre preempt s |> forEach c.adm grantTr |> movePointers c.adm
    |> forEach tickets (fun x => giveTicket x.1 x.2)
    |> forEach c.full (fun g => xbump (1792 + g) 1)
  { s1 with arb := { s1.arb with runs := runs, cuts := s1.arb.cuts.map fun k => { k with left := k.left - 1 } } }

/-- R249: what makes exempt traffic wait in a halt: its rail, its bank, its port's order. -/
def exemptWaits (s : State) (t : Tr) : Bool :=
  throttled s (trCls s t) || (trBanks t).any (bankWaits s) || (ahead s t).any fun u => !u.granted || rowsAhead u

/-- R442: in a halt the exempt traffic arbitrates among itself, in port cycles that no reservation holds, and displaces nothing. -/
def decideExempt (s : State) : State :=
  let cands := (rankTrs s (s.fr.trs.filter fun t => waits t && isExempt t && !exemptWaits s t)).map (markDead s)
  let adm := (tentative s ((allResvs s).map fun r => { r with fixed := true }) cands).1
  forEach adm grantTr s |> movePointers adm

/-- R55: transfers that have reached arbitration wake banks in Retention; those of a migration do not (R469), and of a frozen block the
exempt ones alone do (R442). -/
def wakeBanks (s : State) : State :=
  forEach ((s.fr.trs.filter fun t => waits t && !t.job.isMig && (if halted s then isExempt t else decide (t.rcyc ≤ s.cyc))).flatMap trBanks)
    autowake s

/-- The lanes of granted write transfers none of whose rows wait. -/
def settleAll (s : State) : State := forEach (s.fr.wl.map (·.1)) (fun l => settleLane l 64) s

/-- R441: client 10 has frozen work: flits that wait, operations, results to send. -/
def rdxWork (s : State) : Bool :=
  !s.rx.slots.isEmpty || !s.rx.ops.isEmpty || s.rx.bkt.any fun e => maySend e.2 && decide (e.2.sent < dFlits e.2.desc)

/-- R249, R442: one CCLK of the frozen block: the exempt traffic is arbitrated; waiting and frozen work counts under stall reason 8. -/
def haltCycle (s : State) : State :=
  let s := wakeBanks s |> decideExempt |> sweep
  let work : List (Nat × List Nat) :=
    (s.fr.trs.map fun t => (8, trClients s t)) ++ (s.sq.live.map fun x => (if x.ended && flitsOut x then 0 else 8, sClients x.words))
      ++ (if rdxWork s then [(8, [10])] else [])
  let s := countClients work s
  { s with
    sq := { s.sq with q := s.sq.q.map fun e => (e.1, if e.2.run = 0 then e.2 else { e.2 with stall := 8 }) }
    dbg := { s.dbg with haltCyc := s.dbg.haltCyc + 1, evtCyc := 0 } }

/-- One CCLK of the running block. -/
def runCycle (s : State) : State :=
  let late := unserved s
  let s := settleMig s |> wakeBanks |> decide_ |> markWaiting |> settleAll |> fetchAhead |> pigeonCycle
  let s := countClients (waitingWork late s) s |> countSlots |> countQueues late |> sweep
  { s with
    cyc := s.cyc + 1
    fr := { s.fr with issued := [] }
    arb := { s.arb with shAge := s.arb.shAge + 1 }
    dbg := { s.dbg with evtCyc := 0 }
    rx := { s.rx with took := 0, nupd := 0 } }

/-- DECISION (R236): one CCLK, with `n` TCLK cycles that pass in it. It waits until the beats of its array cycle are performed. The
limits of R346 are judged by the charge up to the end of the last CCLK. -/
def execDecision (n : Nat) (s : State) : Host.Outcome State Fault Refusal :=
  .next (if inReset s || ((running s || halted s) && !cycleDone s) then s
    else
      let s := judgeRails (bump 0x59F8 1 s) |> countStill n |> tclk n |> fun s => estimate 13 (logicOn s) s
      if running s then runCycle s
      else if halted s then haltCycle s
      else { countClients [] s with cyc := s.cyc + 1, dbg := { s.dbg with evtCyc := 0 } })

/-! Hold limits, quarantine, share mode -/

/-- R244: HOLDLIM of a class; that of class 0 has no effect (R253). -/
def holdLimit (s : State) (cls : Nat) : Nat := if cls = 0 then 0 else regF s (0x2830 + 4 * (cls / 2)) (16 * (cls % 2) + 15) (16 * (cls % 2))

/-- R245: cut-offs of a requester within QWIN, up to now. -/
def cutCount (s : State) (req : Nat) : Nat :=
  (s.arb.hist.filter fun h => h.1 == req && decide (s.cyc < h.2 + 2 ^ regF s 0x2800 20 16)).length

/-- R245: the cut-offs reach QREPEAT. -/
def quarDue (s : State) (req : Nat) : Bool := decide (0 < regF s 0x2800 11 8) && decide (regF s 0x2800 11 8 ≤ cutCount s req)

/-- R417: the clients a requester's run acted for: of its transfers in the frame, or the client of its lane. -/
def reqClients (s : State) (req : Nat) : List Nat :=
  if req < 64 then dedup ((s.fr.trs.filter fun t => t.req == req).flatMap (trClients s))
  else if req < 129 then [rlClient (req - 64)] else [wlClient (req - 129)]

/-- HOLD_LIMIT_CUTOFF (R244): `bank` is the logical bank. -/
def execHoldLimitCutoff (bank : Nat) (port : Bool) (s : State) : Host.Outcome State Fault Refusal :=
  .next (
    let k := 2 * pbankOf s bank + b2n port
    let r := NMap.get Run.none s.arb.runs k
    let req := r.req - 1
    if !running s || r.req == 0 || decide (174 ≤ req) || holdLimit s r.cls == 0 || decide (r.cont < holdLimit s r.cls) then s
    else
      let s := { s with arb := { s.arb with
          cuts := s.arb.cuts ++ [⟨req, bank, 16⟩]
          hist := s.arb.hist ++ [(req, s.cyc)]
          runs := NMap.set Run.none s.arb.runs k { r with len := 0, cont := 0 } } }
      forEach (reqClients s req) (fun c => bump (0x5618 + 0x20 * (c % 12)) 1) s
        |> fillLog 0x28A0 (fld (b2n (quarDue s req)) 2 + fld (b2n port) 3 + fld bank 4 + fld r.cls 12 + fld req 16) (min r.len 0xFFFF)
        |> raise 16)

/-- CUTOFF_END (R244). -/
def execCutoffEnd (bank req : Nat) (s : State) : Host.Outcome State Fault Refusal :=
  .next (if running s then
      { s with arb := { s.arb with cuts := s.arb.cuts.filter fun c => !(c.req == req && c.bank == bank && c.left == 0) } }
    else s)

/-- QUARANTINE (R245). The start of a quarantine is kept in the history under 1000 + requester. -/
def execQuarantine (req : Nat) (s : State) : Host.Outcome State Fault Refusal :=
  .next (if running s && decide (req < 174) && quarDue s req && !quarantined s req then
      orReg (0x28C0 + 4 * (req / 32 % 6)) (2 ^ (req % 32)) { s with arb := { s.arb with hist := s.arb.hist ++ [(1000 + req, s.cyc)] } } |> raise 17
    else s)

/-- R245: end a quarantine; the requester's cut-off count restarts. -/
def endQuarantine (req : Nat) (s : State) : State :=
  if quarantined s req then
    clrReg (0x28C0 + 4 * (req / 32 % 6)) (2 ^ (req % 32))
      { s with arb := { s.arb with hist := s.arb.hist.filter fun h => h.1 != req && h.1 != 1000 + req } } |> raise 18
  else s

/-- QUARANTINE_TIMEOUT (R245). -/
def execQuarantineTimeout (req : Nat) (s : State) : Host.Outcome State Fault Refusal :=
  .next (
    let l2 := regF s 0x2800 28 24
    if running s && l2 != 0 && s.arb.hist.any fun h => h.1 == 1000 + req && decide (h.2 + 2 ^ l2 ≤ s.cyc) then endQuarantine req s else s)

/-- R245: a write of LMY_ARB_QREL. -/
def writeQrel (w : Word) (s : State) : State :=
  if bit w.toNat 8 then forEach (List.range 174) endQuarantine s else endQuarantine (bits w.toNat 7 0) s

/-- QUARANTINE_RELEASE (R245). -/
def execQuarantineRelease (a : BusAcc) (w : Word) (s : State) : Host.Outcome State Fault Refusal :=
  .next (busWrite a 0x28E0 (writeQrel w) s)

/-- R248: the weight of a requester; ports that serve other requesters have that of the one they serve now. -/
def reqWeight (s : State) (req : Nat) : Nat :=
  if req < 64 then regArr s 0x2840 8 req
  else if req < 129 then regArr s 0x2880 8 (rlClient (req - 64))
  else if req < 174 then regArr s 0x2880 8 (wlClient (req - 129))
  else if [189, 190, 200, 201, 203].contains req then
    (match s.fr.trs.find? fun t => t.req == req && t.passed.isEmpty with | some t => t.wt | none => 0)
  else portWeight s req

/-- SHARE_REFILL (R248): at the end of a share window, counted from the end of Waybill loading. -/
def execShareRefill (s : State) : Host.Outcome State Fault Refusal :=
  .next (
    let win := 2 ^ regF s 0x2800 7 4
    if running s && shareMode s && decide (win ≤ s.arb.shAge) then
      { s with arb := { s.arb with
          shCred := (List.range 206).foldl (fun m r => NMap.set 0 m r (reqWeight s r)) []
          shAge := s.arb.shAge % win } }
    else s)

end Sys2Proof.Machine
end

