-- ==== Sys2Proof/Machine/Arrays.lean ====
section
/-!
DEFINITION. Machine/Arrays.lean: array cycles: granted read, write and atomic beats (R33 to R45), the correction write-back (R50).
-/
namespace Sys2Proof.Machine

/-- The granted beat that a port of a bank performs next, among transfers of some kinds: transfer and beat number. `bank`: a logical bank,
or 128 + a physical one. In a halt only the exempt traffic goes on, in cycles that are not those of the frozen reservations (R442). -/
def nextBeat (s : State) (bank : Nat) (port : Bool) (kinds : List TrKind) : Option (Tr × Nat) :=
  (s.fr.trs.filter fun t => t.granted && kinds.contains t.kind && (!halted s || isExempt t)).findSome? fun t =>
    (t.beats.zipIdx.find? fun (b, n) => b.bad == 0 && !b.done && b.bank == bank && portOf t bank == port
      && (halted s || decide (t.gcyc + t.offs + n ≤ s.cyc))).map fun p => (t, p.2)

/-- R33, R442: beats are performed: the block runs, or its exempt traffic does. -/
def arraysGo (s : State) : Bool := running s || (halted s && loaded s && !purging s)

/-- The array cycle in which a beat is performed. -/
def beatCyc (s : State) (t : Tr) (n : Nat) : Nat := if halted s then s.cyc else t.gcyc + t.offs + n

/-- Change beat `n` of a transfer. -/
def updBeat (id n : Nat) (f : Beat → Beat) (s : State) : State :=
  match trOf s id with
  | some t => setTr { t with beats := t.beats.zipIdx.map fun (b, i) => if i = n then f b else b } s
  | none => s

/-- R248: a performed beat spends its requester's share. -/
def spendShare (req : Nat) (s : State) : State :=
  if shareMode s then { s with arb := { s.arb with shCred := NMap.upd 0 s.arb.shCred req (· - 1) } } else s

/-- R248, R254, R284, R341, R418: what every performed beat counts. -/
def beatPerformed (t : Tr) (lb : Nat) (s : State) : State :=
  countBeat lb (trCls s t) (if isInternal t && t.slip == 0 then none else some t.ctx) s |> spendShare t.req
    |> estimate 3 ((if t.wlane = 0 then 0 else 1) + (dedup (t.rlanes.map (· / 5))).length)
    |> estimate 4 (if t.wlane = 0 then 0 else 1)
    |> estimate 5 (b2n (isInternal t))
    |> fun s => if t.slip = 0 then s else match slipOf s (t.slip - 1) with | some x => progress x.q s | none => s

/-- The number of a bank port (R86). -/
def portNo (s : State) (lb : Nat) (port : Bool) : Nat := 2 * pbankOf s lb + b2n port

/-- R59: who reads a row, for the logs. -/
def readerOf (t : Tr) (port : Bool) : Reader :=
  if isInternal t then ⟨port, 3, 15, t.job == .copyRd⟩ else ⟨port, 0, t.client, false⟩

/-- R38: the initialised chunks of a row as array cycle `c` sees it. -/
def initMap (s : State) (c bank row : Nat) : Mask4 :=
  maskOf ([0, 1, 2, 3].map fun k => (chunkSeen s c (pbankOf s bank) row k).init)

/-- A read beat with what its row holds: one performed before a pre-emption keeps what it read (R242). The enables tell what a readout
shows as corrected (R448), and which chunks of a copied row are initialised (R466). -/
def Beat.filled (r : RowRead) (en : Mask4) (b : Beat) : Beat :=
  if b.have_ then { b with done := true } else { b with done := true, have_ := true, once := true, data := r.data, pois := r.pois, en := en }

/-- A read beat in its array cycle. The copy of a row (R466) holds every store of its cycle that has been performed; those still to come
produce dual writes. -/
def readBeatNow (t : Tr) (n : Nat) (b : Beat) (port : Bool) (ups : List Upset) (s : State) : State :=
  let c := beatCyc s t n + (if t.job = .copyRd then 2 else 0)
  let r := readRow c b.bank b.row (readerOf t port) ups s
  let en := if t.kind ≠ .ird then b.en else if t.job = .bankRd then r.1.corr else initMap s c b.bank b.row
  let s := r.2 |> beatPerformed t b.bank |> updBeat t.id n (Beat.filled r.1 en)
  if t.kind = .ird then settlePort t.req s
  else if b.have_ || t.slip == 0 then s
  else match slipOf s (t.slip - 1) with
    | none => s
    | some x =>
      if t.kind = .park then parkArrived x t.g0 r.1.data r.1.pois s
      else when (isHELD x.words && !b.once) (xbump 1857 1) s

/-- ARRAY_READ (R33, R46): `bank` is the logical bank, 128 + the physical one, or that of a beat left behind (R468); `ups`
the bits found flipped. -/
def execArrayRead (bank : Nat) (port : Bool) (ups : List Upset) (s : State) : Host.Outcome State Fault Refusal :=
  .next (if !arraysGo s then s
    else match nextBeat s bank port [.rd, .park, .ird] with
      | none => s
      | some (t, n) => match t.beats[n]? with
        | some b => readBeatNow t n b port ups s
        | none => s)

/-- R435: the row with the stop slot in the upper half of its last chunk; the lower half stays as it stands in the array. -/
def stopSlotRow (s : State) (b : Beat) : Row :=
  BitVec.ofNat 1024 (setBits b.data.toNat 895 768 (bits (chunkAt s (pbankOf s b.bank) b.row 3).data.toNat 127 0))

/-- A write beat in its array cycle: a restarted one stores again (R114); a watched row is tapped once (R451). -/
def writeBeatNow (t : Tr) (n : Nat) (b : Beat) (port : Bool) (par : Parity) (s : State) : State :=
  let net := t.kind == .wr
  let c := beatCyc s t n
  let leg : Crossing := ⟨true, t.id, c, (t.wlane - 1) / 5, pbankOf s b.bank / 4, par.plane.toNat⟩
  let par := if net then legParity s leg par else noParity
  let pois := b.pois ||| parityMask par
  let data := if t.job = .stopSlot then stopSlotRow s b else b.data
  let s := netParity true par (t.wlane - 1) (portNo s b.bank port) (markPlane leg par s)
    |> portStore c b.bank b.row b.en.toNat port data pois (trCls s t) (shareWeight s t)
    |> beatPerformed t b.bank
    |> updBeat t.id n (fun c => { c with done := true, have_ := true })
  if t.kind = .iwr then settlePort t.req s
  else
    let s := if t.slip = 0 ∨ b.have_ then s
      else match slipOf s (t.slip - 1) with
        | none => s
        | some x =>
          if net then watchStore (watchView x 1) (t.g0 + n) (sDfmt x.words) (t.last && n + 1 == t.beats.length) b.data pois b.en s
          else parkWritten x s
    if net then settleLane (t.wlane - 1) 64 s else s

/-- ARRAY_WRITE (R33, R35 to R37): `bank` is the logical bank, 128 + the physical one, or that of a beat left behind (R468). -/
def execArrayWrite (bank : Nat) (port : Bool) (par : Parity) (s : State) : Host.Outcome State Fault Refusal :=
  .next (if !arraysGo s then s
    else match nextBeat s bank port [.wr, .parkWr, .iwr] with
      | none => s
      | some (t, n) => match t.beats[n]? with
        | some b => writeBeatNow t n b port par s
        | none => s)

/-! Atomics (R39 to R45) -/

/-- R43: the sum of two elements of TYPE. -/
def addEl (type a b : Nat) : Nat :=
  if type = 0xA then (a + b) % 2 ^ 32 else (rnEnc (ffmt type) (vadd (decFloat (ffmt type) a) (decFloat (ffmt type) b))).1

/-- R43: the row with the operand added element by element. -/
def addRow (type : Nat) (old op : Row) : Row :=
  let w := if type = 1 ∨ type = 0xA then 32 else 16
  BitVec.ofNat 1024 ((List.range (1024 / w)).foldr (fun i acc =>
    acc * 2 ^ w + addEl type (bits old.toNat (w * i + w - 1) (w * i)) (bits op.toNat (w * i + w - 1) (w * i))) 0)

/-- Bytes [byte, byte + n) of the operand in the old row (R44). -/
def swapBytes (byte n : Nat) (old op : Row) : Row :=
  BitVec.ofNat 1024 (setBits old.toNat (8 * byte + 8 * n - 1) (8 * byte) (bits op.toNat (8 * byte + 8 * n - 1) (8 * byte)))

/-- R43 to R45: the row an atomic stores, its chunk enables and poison marks, from the row as read and the operand flit. -/
def atomicResult (atop byte : Nat) (old : Row) (oldPois : Mask4) (op : Row) (opPois : Mask4) : Row × Mask4 × Mask4 :=
  match bits atop 3 0 with
  | 0 => (addRow (bits atop 7 4) old op, BitVec.ofNat 4 (bits atop 11 8), oldPois ||| opPois)
  | 1 => (op, 0xF, opPois)
  | 2 => (swapBytes byte 4 old op, BitVec.ofNat 4 (2 ^ (byte / 32)), oldPois ||| opPois)
  | _ => (swapBytes byte 8 old op, BitVec.ofNat 4 (2 ^ (byte / 32)), oldPois ||| opPois)

/-- R41: an atomic reads its row in array cycle t and stores in t + 1; other reads see the result from t + 2. Its beat then holds the
row as read, which is what RET returns (R42). -/
def atomicNow (t : Tr) (b : Beat) (port : Bool) (ups : List Upset) (par : Parity) (s : State) : State :=
  let c := t.gcyc + t.offs
  let leg : Crossing := ⟨true, t.id, c, (t.wlane - 1) / 5, pbankOf s b.bank / 4, par.plane.toNat⟩
  let par := legParity s leg par
  let s := netParity true par (t.wlane - 1) (portNo s b.bank port) (markPlane leg par s)
  let r := readRow c b.bank b.row ⟨port, 1, t.client, false⟩ ups s
  let x := atomicResult t.atop b.byte r.1.data r.1.pois b.data (b.pois ||| parityMask par)
  let s := r.2
  keepUndo (c + 1) (c + 2) (pbankOf s b.bank) b.row x.2.1.toNat port s
    |> storeRow b.bank b.row x.2.1.toNat x.1 x.2.2 (trCls s t) (shareWeight s t)
    |> beatPerformed t b.bank
    |> updBeat t.id 0 (fun e => { e with done := true, have_ := true, data := r.1.data, pois := r.1.pois })
    |> settleLane (t.wlane - 1) 64

/-- ATOMIC_EXECUTE (R41). -/
def execAtomicExecute (bank : Nat) (port : Bool) (ups : List Upset) (par : Parity) (s : State) : Host.Outcome State Fault Refusal :=
  .next (if !running s then s
    else match nextBeat s bank port [.at] with
      | none => s
      | some (t, n) => match t.beats[n]? with
        | some b => atomicNow t b port ups par s
        | none => s)

/-! The correction write-back (R50) -/

/-- A port of the bank is idle in array cycle `cyc`: no reserved beat and no second cycle of an atomic stands there. -/
def portIdle (s : State) (lb : Nat) : Bool :=
  decide ((dedup ((performing s).filterMap fun p => if p.1 / 2 = pbankOf s lb then some p.1 else none)).length < 2)

/-- WRITE_BACK (R50). A slot that was filled is written back, also after WBACK_EN is cleared (DESIGN CHOICE, log entry 81). Its chunk does
not collide with a store of the same cycle, which would have emptied the slot. -/
def execWriteBack (bank : Nat) (s : State) : Host.Outcome State Fault Refusal :=
  .next (if !running s || !bankOn s bank || !portIdle s bank then s
    else match NMap.get none s.bank.wb bank with
      | some w =>
        if w.cyc + 3 ≤ s.cyc ∧ !wbWaits s bank w.row then
          keepUndo s.cyc (s.cyc + 1) (pbankOf s bank) w.row 0 true s |> storeWb bank
        else s
      | none => s)

end Sys2Proof.Machine
end

