-- ==== Sys2Proof/Machine/Counters.lean ====
section
/-!
DEFINITION. Machine/Counters.lean: reads of the 56-bit counters (R15, R388, R419, R420).
-/
namespace Sys2Proof.Machine

/-- Bits [31:0] and [55:32] of a counter. -/
def cntLo (c : BitVec 56) : Word := BitVec.ofNat 32 c.toNat
def cntHi (c : BitVec 56) : BitVec 24 := BitVec.ofNat 24 (c.toNat >>> 32)

/-- R15: a read of a low word: its value; the high bits go to the reader's shadow. -/
def latchCounter (l : Nat) (c : BitVec 56) (s : State) : Word × State :=
  (cntLo c, { s with bus := { s.bus with cntSh := NMap.set 0 s.bus.cntSh l (cntHi c) } })

/-- R420: the indices the table lists. -/
def xcListed (i : Nat) : Bool :=
  let rng (lo n : Nat) : Bool := decide (lo ≤ i) && decide (i < lo + n)
  (rng 0 896 && decide (i % 128 < 96)) || rng 1024 768 || rng 1792 25 || rng 1824 9 || rng 1840 9 || rng 1856 2 || rng 2048 352

/-- R388, R420: whether a privilege level may read an extended counter. -/
def xcReadable (s : State) (l i : Nat) : Bool :=
  xcListed i && (l == 0 ||
    (if 2048 ≤ i ∧ i < 2112 then sqCtx s (i - 2048) == l
     else if 2112 ≤ i ∧ i < 2368 then sqCtx s ((i - 2112) / 4) == l
     else if 2368 ≤ i ∧ i < 2384 then vcCtx s (i - 2368) == l
     else if 2384 ≤ i ∧ i < 2400 then vcCtx s (i - 2384) == l
     else false))

/-- LMY_XC_SEL of a privilege level. -/
def xcSel (s : State) (l : Nat) : Nat := (NMap.get 0 s.bus.xcSel l).toNat

/-- The selected counter as the level reads it. -/
def xcValue (s : State) (l : Nat) : BitVec 56 :=
  let i := bits (xcSel s l) 11 0
  if xcReadable s l i then NMap.get 0 s.xc i else 0

/-- Until the Waybill is LOADED the window reads its reset value (R369). -/
def beforeLoad (s : State) (act : State → Word × State) : Word × State := if wbState s = 3 then act s else (0, s)

/-- XC_LO_READ (R420). -/
def execXcLoRead (a : BusAcc) (s : State) : Host.Outcome State Fault Refusal :=
  .next (busRead a 0x5F08 (fun s => beforeLoad s fun s => latchCounter (lvl a) (xcValue s (lvl a)) s) s)

/-- R420: INDEX advances from 4,095 to 0. -/
def xcAdvance (l : Nat) (s : State) : State :=
  let v := xcSel s l
  if bit v 16 then
    { s with bus := { s.bus with xcSel := NMap.set 0 s.bus.xcSel l (BitVec.ofNat 32 (setBits v 11 0 (bits v 11 0 + 1))) } }
  else s

/-- XC_HI_READ (R420). -/
def execXcHiRead (a : BusAcc) (s : State) : Host.Outcome State Fault Refusal :=
  .next (busRead a 0x5F0C (fun s => beforeLoad s fun s =>
    (BitVec.ofNat 32 (NMap.get 0 s.bus.cntSh (lvl a)).toNat, xcAdvance (lvl a) s)) s)

/-- R420: a write of LMY_XC_CTL. -/
def writeXcCtl (w : Word) (s : State) : State :=
  let s := setReg 0x5F00 (w &&& 1) s
  if bit w.toNat 1 then { s with xc := [] } else s

/-- XC_CLEAR (R420). -/
def execXcClear (a : BusAcc) (w : Word) (s : State) : Host.Outcome State Fault Refusal :=
  .next (busWrite a 0x5F00 (writeXcCtl w) s)

end Sys2Proof.Machine
end

