-- ==== Sys2Proof/Machine/Waybill.lean ====
section
/-!
DEFINITION. Machine/Waybill.lean: receiving, checking and applying the Waybill (R368 to R380).
-/
namespace Sys2Proof.Machine

/-! Sections and defaults (R374) -/

/-- R372, R374: whether a TYPE is listed. -/
def sectListed (t : Nat) : Bool := (decide (1 ≤ t) && decide (t ≤ 0x16)) || t == 0x1F || t == 0xFE || t == 0xFF

/-- R374: the VLEN of a TYPE: its unit and the most units (0: any multiple of 4). -/
def sectLen (t : Nat) : Nat × Nat :=
  match t with
  | 0x01 => (16, 1) | 0x02 => (96, 1) | 0x03 => (100, 1) | 0x04 => (96, 1) | 0x05 => (16, 16) | 0x06 => (4, 48)
  | 0x07 => (60, 1) | 0x08 => (64, 1) | 0x09 => (32, 1) | 0x0A => (120, 1) | 0x0B => (32, 1) | 0x0C => (160, 1)
  | 0x0D => (64, 1) | 0x0E => (56, 1) | 0x0F => (4, 1) | 0x10 => (64, 1) | 0x11 => (260, 256) | 0x12 => (68, 64)
  | 0x13 => (3108, 4) | 0x14 => (4, 1) | 0x15 => (16, 1) | 0x16 => (4, 1) | 0x1F => (8, 512)
  | _ => (4, 0)

def vlenOk (t v : Nat) : Bool :=
  let u := sectLen t
  v % u.1 == 0 && (u.2 == 0 || (decide (1 ≤ v / u.1) && decide (v / u.1 ≤ u.2)))

/-- A section of an image: TYPE, byte offset of its header, the words of its value. -/
structure Sect where
  typ : Nat
  off : Nat
  ws : List Nat
deriving DecidableEq, Repr

/-- R371: the sections of the words from byte offset `off`, `n` of them. -/
def parseSects : Nat → Nat → List Nat → List Sect
  | n + 1, off, h :: v :: rest =>
    ⟨h % 256, off, rest.take (v / 4)⟩ :: parseSects n (off + 8 + v) (rest.drop (v / 4))
  | _, _, _ => []

/-- The image received, in order. -/
def imgWords (s : State) : List Nat := s.ck.img.reverse.map BitVec.toNat

def imgSects (s : State) : List Sect :=
  let l := imgWords s
  parseSects (bits (listGet 0 l 3) 15 0) 32 (l.drop 8)

def sectOf (ss : List Sect) (t : Nat) : Option Sect := ss.find? fun x => x.typ == t

/-- The words of a section, or its defaults, to `n` words. -/
def sectWords (ss : List Sect) (t n : Nat) (dflt : List Nat) : List Nat :=
  let l := match sectOf ss t with | some x => x.ws | none => dflt
  l.take n ++ List.replicate (n - l.length) 0

/-- Byte `k` of a list of words. -/
def byteAt (ws : List Nat) (k : Nat) : Nat := bits (listGet 0 ws (k / 4)) (8 * (k % 4) + 7) (8 * (k % 4))

def dfltOwner : List Nat := (List.range 24).map fun w => ofBytes ((defaultOwners.drop (4 * w)).take 4)
/-- R57, R374: every bank On, MAXUP 8, WBACK_EN 1. -/
def dfltBpower : List Nat := List.replicate 24 0x02020202 ++ [0x00000108]
/-- R69. -/
def dfltPart : List Nat := [0xFFFFFFFF, 0xFFFFFFFF, 0xFFFFFFFF]
/-- R76: pigeonholes in banks 92 to 95, holding rows 384 to 511 of 28 to 31, 44 to 47, 60 to 63 and 76 to 79. -/
def dfltCarve : List Nat :=
  [92, 93, 94, 95].map (fun b => 2 + 16 * b + 512 * 2 ^ 21)
    ++ [28, 29, 30, 31, 44, 45, 46, 47, 60, 61, 62, 63, 76, 77, 78, 79].map (fun b => 1 + 16 * b + 384 * 4096 + 128 * 2 ^ 21)
/-- R120. -/
def dfltLane : List Nat := List.replicate 8 0x88888888 ++ [0x8] ++ List.replicate 5 0x88888888 ++ [0x00088888]
/-- R255. -/
def dfltQueue : List Nat := List.replicate 16 0x08080808
/-- R268. -/
def dfltTally : List Nat := List.replicate 8 0x88888888
/-- R253. -/
def dfltArb : List Nat :=
  [0x00100480, 0x36363636, 0x36363636, 0x36360036, 0x01236545, 0, 0, 0, 0x00400000]
    ++ List.replicate 18 0x40404040 ++ [0x40400040, 0x10804040, 0x00000008]
/-- R350. -/
def dfltVf : List Nat := (List.range 16).map fun k => let v := defaultVF k; v.1 + fld v.2.1 12 + fld v.2.2 24
/-- R343, R346, R347. -/
def dfltRail : List Nat := [0x07D007D0, 0x04B004B0, 0x40004000, 7]
/-- R339. -/
def dfltDpower : List Nat := [0xFBFCFFFF]
def dfltTrace : List Nat := [0x10, 0x3FFF, 0, 0x800]

/-- The carve entries of an image: KIND, bank, first row, rows. -/
def carveList (ss : List Sect) : List (Nat × Nat × Nat × Nat) :=
  (sectWords ss 6 48 dfltCarve).map fun w => (bits w 1 0, bits w 10 4, bits w 20 12, bits w 30 21)

/-- R78: rows of an area. -/
def areaRows (ss : List Sect) (kind : Nat) : Nat := nsum ((carveList ss).map fun e => if e.1 = kind then e.2.2.2 else 0)

/-- R300: without a section, every VC EN 1, C0, 16 slots, 16 egress credits, a sixteenth of the pigeonhole rows; every bucket
slot C0 with EN 1. -/
def dfltRdx (ss : List Sect) : List Nat :=
  let n := areaRows ss 2 / 16
  ((List.range 16).foldr (fun v acc => 0x00100101 :: (v * n + fld n 16) :: acc) []) ++ List.replicate 8 0x88888888

/-! Content checks (R377, phase 4): the offset of the first failing word -/

def bad (c : Bool) (off : Nat) : Option Nat := if c then some off else none

def firstSome : List (Option Nat) → Option Nat
  | [] => none
  | some x :: _ => some x
  | none :: l => firstSome l

/-- Words of a section with their byte offsets. -/
def offWords (x : Sect) : List (Nat × Nat) := (List.range x.ws.length).zip x.ws |>.map fun (i, w) => (x.off + 8 + 4 * i, w)

/-- Each word may set only the bits of its mask. -/
def badBits (x : Sect) (masks : List Nat) : Option Nat :=
  firstSome (((offWords x).zip masks).map fun (ow, m) => bad (ow.2 &&& m != ow.2) ow.1)

def allOnes : Nat := 0xFFFFFFFF

/-- R375: field checks of BIND. -/
def checkBind (x : Sect) : Option Nat :=
  let w2 := listGet 0 x.ws 2
  firstSome [bad (w2 &&& 0xFFFFF8C0 != 0 || decide (bits w2 9 8 < 2)) (x.off + 16), bad (listGet 0 x.ws 3 != 0) (x.off + 20)]

/-- R375: BIND against the part and tile: the word that differs, the header where both halves of PARTID do. -/
def matchBind (x : Sect) (part : Nat) (tile : Nat) : Option Nat :=
  let lo := listGet 0 x.ws 0
  let hi := listGet 0 x.ws 1
  let w2 := listGet 0 x.ws 2
  if (lo != 0 || hi != 0) && (lo != part % 2 ^ 32 || hi != part / 2 ^ 32) then
    some (if hi == part / 2 ^ 32 then x.off + 8 else if lo == part % 2 ^ 32 then x.off + 12 else x.off)
  else bad (!bit w2 5 && bits w2 4 0 != tile) (x.off + 16)

/-- R24. -/
def ownerOk (b : Nat) : Bool := decide (b ≤ 8) || b == 10 || b == 0xFF

def checkOwner (x : Sect) : Option Nat :=
  firstSome ((offWords x).map fun (o, w) => bad ((bytesOf w 4).any fun b => !ownerOk b) o)

def checkBpower (x : Sect) : Option Nat :=
  firstSome (((offWords x).take 24).map (fun (o, w) => bad ((bytesOf w 4).any fun b => decide (16 ≤ b) || b % 4 == 3) o)
    ++ [bad (listGet 0 x.ws 24 &&& 0xFFFFFEF0 != 0) (x.off + 104)])

/-- R69: no two masks share a bank. -/
def checkPart (x : Sect) : Option Nat :=
  firstSome ((List.range 24).map fun w =>
    bad ((List.range (w / 3)).any fun c => listGet 0 x.ws w &&& listGet 0 x.ws (3 * c + w % 3) != 0) (x.off + 8 + 4 * w))

/-- R71: a defined hash set; a relation of two words is reported at the section header. -/
def checkHashSet (ss : List Sect) (off o : Nat) (cfg rows : Nat) : Option Nat :=
  let first := bits cfg 6 0
  let k := bits cfg 10 8
  let base := bits cfg 24 16
  let n := bits rows 9 0
  firstSome ([bad (cfg &&& 0x7E00F880 != 0) o]
    ++ (if bit cfg 31 then [bad (decide (95 < first) || decide (6 < k) || decide (96 < first + 2 ^ k)) o] else [])
    ++ [bad (rows &&& 0xFFFFFC00 != 0) (o + 4)]
    ++ (if bit cfg 31 then
          [bad (n == 0 || decide (512 < n)) (o + 4), bad (decide (512 < base + n)) off,
           bad ((carveList ss).any fun e => e.1 != 0 && decide (first ≤ e.2.1) && decide (e.2.1 < first + 2 ^ k)
                && decide (e.2.2.1 < base + n) && decide (base < e.2.2.1 + e.2.2.2)) off]
        else []))

def checkHash (ss : List Sect) (x : Sect) : Option Nat :=
  firstSome ((List.range (x.ws.length / 4)).map fun i =>
    checkHashSet ss x.off (x.off + 8 + 16 * i) (listGet 0 x.ws (4 * i)) (listGet 0 x.ws (4 * i + 1)))

/-- R76: whether carve entry `i` fails, given the entries and owners. -/
def carveBad (owners : List Nat) (es : List (Nat × Nat × Nat × Nat)) (i : Nat) : Bool :=
  let e := listGet (0, 0, 0, 0) es i
  let own := byteAt owners e.2.1
  let before := es.take i
  e.1 != 0 &&
    (decide (95 < e.2.1) || e.2.2.2 == 0 || decide (512 < e.2.2.2) || own == 0xFF || decide (512 < e.2.2.1 + e.2.2.2)
      || (before.any fun d => d.1 != 0 && d.2.1 == e.2.1 && decide (d.2.2.1 < e.2.2.1 + e.2.2.2) && decide (e.2.2.1 < d.2.2.1 + d.2.2.2))
      || (e.1 == 2 && own != 10)
      || (e.1 == 3 && (e.2.2.1 != 0 || e.2.2.2 != 512 || decide (4 ≤ (before.filter fun d => d.1 == 3).length)))
      || (e.1 == 1 && decide (24 < (dedup (((es.take (i + 1)).filter fun d => d.1 == 1).map fun d => d.2.1)).length)))

/-- R374: reserved bits are 0, and LBANK and NROWS lie in the ranges of their table, whatever the KIND; an unused entry may carve no
rows, as the entries behind the section do (DEDUCED, log entry 89). -/
def carveRange (w : Nat) : Bool :=
  w &&& 0x8000080C == 0 && decide (bits w 10 4 ≤ 95) && decide (bits w 30 21 ≤ 512) && (bits w 1 0 == 0 || decide (1 ≤ bits w 30 21))

/-- R76: CARVE, or its default against the image's OWNER section. -/
def checkCarve (ss : List Sect) (len : Nat) : Option Nat :=
  let es := carveList ss
  let owners := sectWords ss 2 24 dfltOwner
  match sectOf ss 6 with
  | some x =>
    firstSome ((List.range x.ws.length).map fun i =>
      bad (!carveRange (listGet 0 x.ws i) || carveBad owners es i) (x.off + 8 + 4 * i))
  | none =>
    bad ((List.range 20).any (carveBad owners es)) (match sectOf ss 2 with | some o => o.off | none => len - 4)

/-- R253: field ranges of the arbitration section. -/
def checkArb (x : Sect) : Option Nat :=
  let w := listGet 0 x.ws 0
  let rng (v lo hi : Nat) : Bool := decide (lo ≤ v) && decide (v ≤ hi)
  firstSome [bad (w &&& 0xE0E0F00E != 0 || !rng (bits w 7 4) 4 15 || !rng (bits w 11 8) 1 15 || !rng (bits w 20 16) 10 24
      || !(bits w 28 24 == 0 || rng (bits w 28 24) 10 24)) (x.off + 8),
    badBits x ([allOnes, 0x77777777, 0x77777777, 0x77777777, 0x77777777] ++ List.replicate 24 allOnes ++ [0x0000FFFF])]

/-- R229. -/
def checkQuota (ss : List Sect) (x : Sect) : Option Nat :=
  firstSome ((offWords x).map fun (o, w) =>
    bad (w &&& 0xE000FC00 != 0 || decide (areaRows ss 1 / 16 < bits w 9 0) || decide (4096 < bits w 28 16)) o)

/-- R300: slots within the buffer, ranges within the pigeonhole area and apart from one another. A range of no rows overlaps none. -/
def checkRdx (ss : List Sect) (x : Sect) : Option Nat :=
  let cfg (v : Nat) : Nat := listGet 0 x.ws (2 * v)
  let ph (v : Nat) : Nat := listGet 0 x.ws (2 * v + 1)
  firstSome ((List.range 16).foldr (fun v acc =>
    bad (cfg v &&& 0xFF00E000 != 0 || decide (256 < bits (cfg v) 12 4)
        || decide (256 < nsum ((List.range (v + 1)).map fun u => bits (cfg u) 12 4))) (x.off + 8 + 8 * v)
    :: bad (bits (ph v) 31 16 != 0 && (decide (areaRows ss 2 < bits (ph v) 15 0 + bits (ph v) 31 16)
        || (List.range v).any fun u => bits (ph u) 31 16 != 0 && decide (bits (ph u) 15 0 < bits (ph v) 15 0 + bits (ph v) 31 16)
            && decide (bits (ph v) 15 0 < bits (ph u) 15 0 + bits (ph u) 31 16))) (x.off + 12 + 8 * v)
    :: acc) [])

/-- R350. -/
def checkVf (x : Sect) : Option Nat :=
  firstSome ((List.range 16).map fun k =>
    let w := listGet 0 x.ws k
    let p := listGet 0 x.ws (k - 1)
    bad (w &&& 0x00C00000 != 0 || decide (bits w 11 0 < 800) || decide (2400 < bits w 11 0) || decide (bits w 21 12 < 600)
      || decide (900 < bits w 21 12) || bits w 31 24 == 0
      || (k != 0 && (decide (bits w 11 0 ≤ bits p 11 0) || decide (bits w 21 12 < bits p 21 12)))) (x.off + 8 + 4 * k))

/-- R341, R374: gains, TEX, and no coefficient K14 or K15. -/
def checkRail (x : Sect) : Option Nat :=
  let g := listGet 0 x.ws 2
  let ok (v : Nat) : Bool := decide (0x3000 ≤ v) && decide (v ≤ 0x5000)
  firstSome [bad (!ok (bits g 15 0) || !ok (bits g 31 16)) (x.off + 16), bad (decide (8 < listGet 0 x.ws 3)) (x.off + 20), bad (listGet 0 x.ws 11 != 0) (x.off + 52)]

/-- R338, R374. -/
def checkDpower (x : Sect) : Option Nat :=
  let w := listGet 0 x.ws 0
  bad (w &&& 0x04030000 != 0 || decide (ncount ((List.range 16).map (bit w)) < 8)) (x.off + 8)

/-- Records of `n` words that begin with a number (the low `nb` bits) and VALID in bit `vb`: a number below `lo`, a repeated
number, or a valid record in which `chk` finds a fault. `chk` names the failing word of those after the first, or a number
that is none of them where no single word holds the fault; the offset is then the section header's (R377). -/
def checkRecs (x : Sect) (n nb vb lo : Nat) (chk : (Nat → Nat) → Option Nat) : Option Nat :=
  let k := x.ws.length / n
  let num (i : Nat) : Nat := bits (listGet 0 x.ws (n * i)) (nb - 1) 0
  firstSome ((List.range k).foldr (fun i acc =>
    let h := listGet 0 x.ws (n * i)
    bad (h &&& (2 ^ nb - 1 + 2 ^ vb) != h || decide (num i < lo) || (List.range i).any fun j => num j == num i) (x.off + 8 + 4 * n * i)
    :: (if bit h vb then
          (chk fun w => listGet 0 x.ws (n * i + 1 + w)).map fun w =>
            if w + 1 < n then x.off + 8 + 4 * (n * i + 1 + w) else x.off
        else none)
    :: acc) [])

/-- R133: the first of the 64 descriptors with a reserved bit set. -/
def ptDescBad (d : Nat → Nat) : Option Nat := firstSome ((List.range 64).map fun w => bad (d w &&& 0xF800F800 != 0) w)

/-- R201: the first word of a parameter set that fails its checks; LO above HI is a matter of two words and takes 16. -/
def psBad (p : Nat → Nat) : Option Nat :=
  let fmtOk (f : Nat) : Bool := decide (1 ≤ f) && decide (f ≤ 3)
  let nan (w : Nat) : Bool := (dec32 (p w)).isNan
  firstSome ([bad (p 0 &&& 0xF8000000 != 0 || !fmtOk (psS0fmt p) || !fmtOk (psVfmt p) || !fmtOk (psCastfmt p)) 0,
      bad (p 1 &&& 0xFF000000 != 0) 1, bad (p 2 &&& 0xFFFF0000 != 0) 2, bad (p 3 != 0) 3,
      bad (nan 4) 4, bad (nan 5) 5, bad (nan 6) 6, bad (nan 7) 7, bad (nan 8 || vlt (dec32 (p 8)) (vzero false)) 8]
    ++ ((List.range 7).map fun i => bad (p (9 + i) != 0) (9 + i)) ++ [bad (vlt (dec32 (p 7)) (dec32 (p 6))) 16])

/-- R202: the first word of a programmable table that fails its checks; a domain end that is not finite is a matter of two
words and takes 776. -/
def tblBad (t : Nat → Nat) : Option Nat :=
  let xlo := dec32 (t 0)
  let l := sext 8 (t 1)
  let fin (v : Val) : Bool := !v.isNan && !v.isInf
  firstSome [bad (!fin xlo) 0, bad (t 1 &&& 0xFFFFFF00 != 0 || decide (l < -126) || decide (120 < l)) 1,
    bad (!fin (rn32 (vadd xlo (vscale (8 + l) vone)))) 776]

/-- R133, R201, R202: what setting a VALID bit asks. -/
def ptDescOk (d : Nat → Nat) : Bool := (ptDescBad d).isNone
def psOk (p : Nat → Nat) : Bool := (psBad p).isNone
def tblOk (t : Nat → Nat) : Bool := (tblBad t).isNone

/-- R436: the trace section. -/
def checkTrace (ss : List Sect) (x : Sect) : Option Nat :=
  firstSome [bad (bit (listGet 0 x.ws 0) 0 && areaRows ss 3 == 0) (x.off + 8), badBits x [0x37, 0x3FFF, 0xFFFF03F7, 0xFFFF]]

/-! Forwarding entries (R475, R476) -/

/-- The maps that forwarding entries change. -/
structure FwMap where
  bmap : List Nat
  ret : List Nat
  spB : List Nat
  plR : BitVec 18
  plW : BitVec 18
  spR : BitVec 18
  spW : BitVec 18
  cl : BitVec 9
  spC : BitVec 9
  gone : List Nat
  sub : List (Nat × Nat)
  used : List Nat       -- spare statistic rows assigned or retired
deriving DecidableEq, Repr

def FwMap.identity : FwMap :=
  ⟨List.range 96, [], [96, 97, 98, 99], 0x0FFFF, 0x0FFFF, 0x30000, 0x30000, 0x0FF, 0x100, [], [], []⟩

def bitOn (n w : Nat) : BitVec w := BitVec.ofNat w (2 ^ n)

/-- A plane of one network: from, replaced by `dest` or by none. -/
def planeEntry (act sp : BitVec 18) (nospare : Bool) (from_ dest : Nat) : Option (BitVec 18 × BitVec 18) :=
  if !act.getLsbD from_ || decide (ncount ((List.range 18).map act.getLsbD) ≤ 1) then none
  else if nospare then (if dest = 0 then some (act &&& ~~~ bitOn from_ 18, sp) else none)
  else if decide (dest < 18) && sp.getLsbD dest then some ((act &&& ~~~ bitOn from_ 18) ||| bitOn dest 18, sp &&& ~~~ bitOn dest 18)
  else none

/-- R476: one entry, none where it makes the image fail. -/
def fwdEntry (w0 : Nat) (m : FwMap) : Option FwMap :=
  let kind := bits w0 2 0
  let nospare := bit w0 3
  let from_ := bits w0 15 4
  let dest := bits w0 23 16
  if w0 ≥ 2 ^ 27 ∨ kind > 4 ∨ bits w0 26 24 > 4 then none
  else
    match kind with
    | 0 =>
      if nospare || decide (96 ≤ from_) || !m.spB.contains dest then none
      else some { m with bmap := listSet m.bmap from_ dest, ret := listGet 0 m.bmap from_ :: m.ret, spB := m.spB.filter (· != dest) }
    | 1 => (planeEntry m.plR m.spR nospare from_ dest).map fun p => { m with plR := p.1, spR := p.2 }
    | 2 => (planeEntry m.plW m.spW nospare from_ dest).map fun p => { m with plW := p.1, spW := p.2 }
    | 3 =>
      if from_ > 8 then none
      else if nospare then (if dest = 0 then some { m with cl := m.cl &&& ~~~ bitOn from_ 9 } else none)
      else if dest = 8 ∧ m.spC.getLsbD 8 then some { m with cl := (m.cl &&& ~~~ bitOn from_ 9) ||| bitOn 8 9, spC := 0 }
      else none
    | _ =>
      if nospare then (if dest = 0 then some { m with gone := from_ :: m.gone } else none)
      else if m.used.contains dest then none
      else some { m with sub := (from_, dest) :: m.sub.filter fun e => e.1 != from_, used := dest :: m.used }

/-- The entries in order; the number of the first that fails. -/
def fwdEntries : Nat → List Nat → FwMap → Nat ⊕ FwMap
  | i, w0 :: _ :: ws, m =>
    match fwdEntry w0 m with
    | some m' => fwdEntries (i + 1) ws m'
    | none => .inl i
  | _, _, m => .inr m

/-! The whole check (R377) -/

/-- R377, phase 4: the reason, TYPE and offset of the first failure. -/
def checkContent (ss : List Sect) (len part tile : Nat) : Option (Nat × Nat × Nat) :=
  let on (t : Nat) (f : Sect → Option Nat) : Option (Nat × Nat × Nat) :=
    ((sectOf ss t).bind f).map fun o => (12, t, o)
  let fwd : Option (Nat × Nat × Nat) :=
    match sectOf ss 0x1F with
    | none => none
    | some x =>
      if (sectOf ss 1).any (fun b => listGet 0 b.ws 0 == 0 && listGet 0 b.ws 1 == 0) then some (12, 0x1F, x.off)
      else match fwdEntries 0 x.ws FwMap.identity with
        | .inl i => some (15, 0x1F, x.off + 8 + 8 * i)
        | .inr _ => none
  match sectOf ss 1 with
  | none => some (10, 1, len - 4)
  | some b =>
    let l : List (Option (Nat × Nat × Nat)) :=
      [on 1 checkBind, (matchBind b part tile).map (fun o => (11, 1, o)), on 2 checkOwner, on 3 checkBpower, on 4 checkPart,
       on 5 (checkHash ss), (checkCarve ss len).map (fun o => (12, 6, o)),
       on 7 (fun x => badBits x (List.replicate 8 allOnes ++ [0xF] ++ List.replicate 5 allOnes ++ [0xFFFFF])),
       on 8 (fun x => badBits x (List.replicate 16 0x1F1F1F1F)), on 0xA checkArb, on 0xB (checkQuota ss), on 0xC (checkRdx ss),
       on 0xD checkVf, on 0xE checkRail, on 0xF checkDpower,
       on 0x11 (fun x => checkRecs x 65 8 8 0 ptDescBad), on 0x12 (fun x => checkRecs x 17 6 8 0 psBad),
       on 0x13 (fun x => checkRecs x 777 4 8 12 tblBad), on 0x15 (checkTrace ss), on 0x16 (fun x => badBits x [0xF]), fwd]
    (l.filterMap id).head?

/-! Receiving (R377, phases 1 and 2) -/

/-- R370, R371, R372: the reason and TYPE for which word `i` of an image fails as it arrives, none where it passes. -/
def checkWord (k : CkSt) (i len w : Nat) : Option (Nat × Nat) :=
  let o := 4 * i
  match i with
  | 0 => if w ≠ 0x4C4D5742 then some (1, 0) else none
  | 1 => if bits w 15 0 ≠ 1 ∨ bits w 31 24 ≠ 8 then some (2, 0) else if bits w 23 16 ≠ 1 then some (4, 0) else none
  | 2 => if w % 4 ≠ 0 ∨ w < 44 ∨ w > 262144 then some (3, 0) else none
  | 3 => if w = 0 ∨ w > 255 then some (2, 0) else none
  | 4 => none
  | 5 => if w ≠ 0 then some (2, 0) else none
  | 6 => if w ≠ 0 then some (2, 0) else none
  | 7 => if w ≠ 0 then some (2, 0) else none
  | _ =>
    let nsect := bits (listGet 0 (k.img.map BitVec.toNat) (i - 4)) 15 0
    let ordered := w % 256 ≥ 0xFE ∨ k.lastTyp < w % 256
    if o = len - 4 then (if k.nextHdr = o ∧ k.nsect = nsect then none else some (8, 0))
    else if o = k.nextHdr then
      if k.nsect = nsect then some (8, 0)
      else if w ≥ 256 ∨ o + 8 > len - 4 then some (5, w % 256)
      else if !sectListed w then some (6, w)
      else if ¬ ordered then some (7, w)
      else none
    else if o = k.nextHdr + 4 then
      if w % 4 ≠ 0 ∨ !vlenOk k.curTyp w ∨ k.nextHdr + 8 + w > len - 4 then some (5, k.curTyp) else none
    else none

/-- R380: the load fails: reason, TYPE, offset; cause 2 for reason 14, else 1. -/
def failLoad (reason typ off : Nat) (s : State) : State :=
  setReg 0x4420 (BitVec.ofNat 32 (4 + fld reason 4 + fld typ 8)) s
    |> setReg 0x4424 (BitVec.ofNat 32 off)
    |> setReg 0x443C (BitVec.ofNat 32 (min s.ck.relNs (2 ^ 32 - 1)))
    |> (fun s => { s with ck := { s.ck with cfgReq := false, img := [] } })
    |> raise (if reason = 14 then 2 else 1)

/-- LEN of the image, once received. -/
def imgLen (k : CkSt) : Nat := if k.nimg ≤ 2 then 0 else (listGet 0 k.img (k.nimg - 3)).toNat

/-- The load's bookkeeping for a word that passes: CRC over all but the last word (R373), section positions. -/
def takeWord (i len : Nat) (w : Word) (k : CkSt) : CkSt :=
  let k1 := { k with img := w :: k.img, nimg := k.nimg + 1, waitNs := 0,
                     crc := if 4 * i = len - 4 ∧ i > 2 then k.crc else BitVec.ofNat 32 (crcWord k.crc.toNat w.toNat) }
  if i < 8 then (if i = 7 then { k1 with nextHdr := 32 } else k1)
  else if 4 * i = k.nextHdr ∧ 4 * i ≠ len - 4 then
    { k1 with curTyp := w.toNat, nsect := k.nsect + 1, lastTyp := if w.toNat ≥ 0xFE then k.lastTyp else w.toNat }
  else if 4 * i = k.nextHdr + 4 then { k1 with nextHdr := k.nextHdr + 8 + w.toNat }
  else k1

/-- The effect of an image word on the state (R377). -/
def receiveWord (w : Word) (s : State) : State :=
  let i := s.ck.nimg
  let len := if i = 2 then w.toNat else imgLen s.ck
  let s := setRegF 0x4420 2 0 1 s
  match checkWord s.ck i len w.toNat with
  | some r => failLoad r.1 r.2 (4 * i) s
  | none =>
    let s := { s with ck := takeWord i len w s.ck }
    let s := if i = 7 then setReg 0x4428 (listGet 0 s.ck.img 3) s |> setReg 0x442C (BitVec.ofNat 32 len) else s
    if i ≥ 8 ∧ 4 * i = len - 4 then
      setRegF 0x4420 2 0 2 s |> setReg 0x4430 (BitVec.ofNat 32 (crcFin s.ck.crc.toNat))
    else s

/-- CFG_REQUEST (R368, step 6). -/
def execCfgRequest (s : State) : Host.Outcome State Fault Refusal :=
  .next (if inReset s || wbState s != 0 || s.ck.cfgReq then s
    else { s with ck := { s.ck with cfgReq := true, waitNs := 0, img := [], nimg := 0, crc := BitVec.ofNat 32 crcInit, nsect := 0,
                                    nextHdr := 0, lastTyp := 0, curTyp := 0 } })

/-- CFG_WORD (R377). -/
def execCfgWord (w : Word) (s : State) : Host.Outcome State Fault Refusal :=
  .next (if !inReset s && s.ck.cfgReq && decide (wbState s ≤ 1) then receiveWord w s else s)

/-- LOAD_TIMEOUT (R379). -/
def execLoadTimeout (s : State) : Host.Outcome State Fault Refusal :=
  .next (if !inReset s && s.ck.cfgReq && decide (wbState s ≤ 1)
        && decide ((if s.ck.nimg = 0 then 2750000 else 1000000) ≤ s.ck.waitNs) then
      failLoad 14 0 (4 * s.ck.nimg) s
    else s)

/-! Applying (R378) -/

/-- Load the maps of the forwarding entries. -/
def loadMaps (m : FwMap) (s : State) : State :=
  { s with
    fw := { s.fw with plR := m.plR, plW := m.plW, spR := m.spR, spW := m.spW, cl := m.cl, spC := m.spC, spB := m.spB,
                      rowsUsed := m.used }
    hd := { s.hd with gone := m.gone.foldl (fun acc r => NMap.set false acc r true) s.hd.gone,
                      sub := m.sub.foldl (fun acc e => NMap.set 0 acc e.1 (e.2 + 1)) s.hd.sub } }
    |> setRegs 0x7100 ((List.range 24).map fun n => ofBytes ((m.bmap.drop (4 * n)).take 4))
    |> forEach m.ret (fun b => orReg (0x7090 + 4 * (b / 32)) (2 ^ (b % 32)))

/-- R338: LMY_PWR_DREQ once the entries are applied: retired units' bits cleared, assigned spares' bits set. -/
def dreqAfter (w : Nat) (m : FwMap) : Nat :=
  nsum ((List.range 32).map fun i =>
    let on :=
      if i < 18 then
        (bit w i && (m.plR.getLsbD i || m.plW.getLsbD i || m.spR.getLsbD i || m.spW.getLsbD i))
          || (decide (16 ≤ i) && (m.plR.getLsbD i || m.plW.getLsbD i))
      else if i < 27 then (bit w i && m.cl.getLsbD (i - 18)) || (i == 26 && m.cl.getLsbD 8)
      else bit w i
    if on then 2 ^ i else 0)

/-- R57: the default power state of a logical bank: Retention is reached through On. -/
def defaultPower (lb slot : Nat) (s : State) : State :=
  let pb := pbankOf s lb
  match slot % 4 with
  | 0 => s
  | 1 => setPow pb ⟨0, none, some ⟨2, bit slot 2⟩, some ⟨1, false⟩⟩ s
  | _ => setPow pb ((powOf s pb).request ⟨2, bit slot 2⟩) s

/-- The slots of LMY_BANK_PREQn from the bytes of BPOWER. -/
def preqWord (bp : List Nat) (n : Nat) : Nat := nsum ((List.range 8).map fun k => fld (byteAt bp (8 * n + k) % 16) (4 * k))

/-- Permute entries, parameter sets and tables preloaded by the image. -/
def preload (ss : List Sect) (s : State) : State :=
  let recs (t n : Nat) : List (List Nat) := match sectOf ss t with | some x => chunksOf n x.ws.length x.ws | none => []
  let vbit (o : Nat) (i : Nat) (r : List Nat) : State → State :=
    when (bit (listGet 0 r 0) 8) (orReg (o + 4 * (i / 32)) (2 ^ (i % 32)))
  let words (r : List Nat) : List Word := (r.drop 1).map (BitVec.ofNat 32)
  s |> forEach (recs 0x11 65) (fun r s =>
        let e := bits (listGet 0 r 0) 7 0
        { s with tb := { s.tb with pt := NMap.setList 0 s.tb.pt (64 * e) (words r) } } |> vbit 0x8020 e r)
    |> forEach (recs 0x12 17) (fun r s =>
        let e := bits (listGet 0 r 0) 5 0
        { s with tb := { s.tb with ps := NMap.setList 0 s.tb.ps (16 * e) (words r) } } |> vbit 0xA020 e r)
    |> forEach (recs 0x13 777) (fun r s =>
        let e := bits (listGet 0 r 0) 3 0
        let s := { s with tb := { s.tb with act := NMap.setList 0 s.tb.act (776 * e) (words r) } } |> vbit 0xA060 e r
        when (bit (listGet 0 r 0) 8) (setReg (0xA080 + 4 * e) (BitVec.ofNat 32 (tableCrc fun w => listGet 0 r (w + 1)))) s)

/-- R378, 1: registers and tables of the sections other than forwarding and power. -/
def loadRegs (ss : List Sect) (s : State) : State :=
  let rdx := sectWords ss 0xC 40 (dfltRdx ss)
  let q := sectWords ss 8 16 dfltQueue
  let arb := sectWords ss 0xA 30 dfltArb
  let rail := sectWords ss 0xE 14 dfltRail
  let bind := sectWords ss 1 4 []
  let ev (l : List Nat) (k : Nat) : List Nat := (List.range 16).map fun v => listGet 0 l (2 * v + k)
  { s with
    bank := { s.bank with own := (List.range 96).map (byteAt (sectWords ss 2 24 dfltOwner)) }
    ck := { s.ck with relaxed := bit (listGet 0 bind 2) 10 }
    rx := { s.rx with eg := (List.range 16).foldl (fun m v => NMap.set 0 m v (bits (listGet 0 rdx (2 * v)) 23 16)) s.rx.eg } }
    |> setRegs 0x1000 (sectWords ss 4 24 dfltPart)
    |> setRegs 0x1100 (sectWords ss 5 64 [])
    |> setRegs 0x1200 (sectWords ss 6 48 dfltCarve)
    |> setRegs 0x12C0 [areaRows ss 1 + fld (areaRows ss 2) 16, areaRows ss 3]
    |> setRegs 0x1840 ((sectWords ss 7 15 dfltLane).take 9)
    |> setRegs 0x1870 ((sectWords ss 7 15 dfltLane).drop 9)
    |> forEach (List.range 64) (fun n => setReg (0x3100 + 16 * n) (BitVec.ofNat 32 (byteAt q n % 32)))
    |> setRegs 0x3080 (sectWords ss 9 8 dfltTally)
    |> setReg 0x2800 (BitVec.ofNat 32 (listGet 0 arb 0))
    |> setRegs 0x2810 ((arb.drop 1).take 3)
    |> setReg 0x2820 (BitVec.ofNat 32 (listGet 0 arb 4))
    |> setRegs 0x2830 ((arb.drop 5).take 4)
    |> setRegs 0x2840 ((arb.drop 9).take 16)
    |> setRegs 0x2880 ((arb.drop 25).take 3)
    |> setRegs 0x2890 (arb.drop 28)
    |> setRegs 0x3840 (ev rdx 0)
    |> setRegs 0x3880 (ev rdx 1)
    |> setRegs 0x3820 (rdx.drop 32)
    |> setRegs 0x4020 (sectWords ss 0xD 16 dfltVf)
    |> setRegs 0x4008 (rail.take 2)
    |> setReg 0x4010 (BitVec.ofNat 32 (listGet 0 rail 2))
    |> setReg 0x4000 (BitVec.ofNat 32 (listGet 0 rail 3))
    |> setRegs 0x4060 ((rail.drop 4).take 7)
    |> setRegs 0x4080 (rail.drop 12)
    |> setRegs 0x1A40 (sectWords ss 0x10 16 [])
    |> setRegs 0x4440 [listGet 0 (sectWords ss 0x14 1 [allOnes]) 0, listGet 0 (sectWords ss 0x16 1 []) 0]
    |> setRegs 0x6000 (sectWords ss 0x15 4 dfltTrace)
    |> preload ss

/-- The gains and limits of the image are in force at once. -/
def loadRails (s : State) : State :=
  { s with pw := { s.pw with
      core := { s.pw.core with gain := regF s 0x4010 15 0, lim1 := regF s 0x4008 15 0, lim16 := regF s 0x4008 31 16 }
      arr := { s.pw.arr with gain := regF s 0x4010 31 16, lim1 := regF s 0x400C 15 0, lim16 := regF s 0x400C 31 16 } } }

/-- R378, 6: default bank and domain power. -/
def loadPower (ss : List Sect) (m : FwMap) (s : State) : State :=
  let bp := sectWords ss 3 25 dfltBpower
  let d := dreqAfter (listGet 0 (sectWords ss 0xF 1 dfltDpower) 0) m
  s |> setRegs 0x0840 ((List.range 12).map (preqWord bp))
    |> setReg 0x0800 (BitVec.ofNat 32 (byteAt bp 97 % 2 + fld (byteAt bp 96 % 16) 4))
    |> forEach (List.range 96) (fun lb => defaultPower lb (byteAt bp lb % 16))
    |> setReg 0x40A0 (BitVec.ofNat 32 d)
    |> forEach ((List.range 32).filter (bit d)) (fun i s => setDom i ((domOf s i).request ⟨2, false⟩) s)

/-- R229: default quotas, the whole area and all usable statistic rows. -/
def loadQuota (ss : List Sect) (m : FwMap) (s : State) : State :=
  let dq := areaRows ss 1 / 16 + fld (4096 - (dedup m.gone).length) 16
  setRegs 0x2410 (sectWords ss 0xB 8 (List.replicate 8 dq)) s

/-- R378: the image is applied in one cycle; R390: the staging is loaded; R401: fresh keys; R366: a stop that is still asserted counts
as new; R248: a share window starts; R436: a trace that the image enables starts. -/
def applyImage (s : State) : State :=
  let ss := imgSects s
  let fw := sectWords ss 0x1F 1024 []
  let nf := match sectOf ss 0x1F with | some x => x.ws.length / 2 | none => 0
  let m := match fwdEntries 0 (fw.take (2 * nf)) FwMap.identity with | .inr m => m | .inl _ => FwMap.identity
  loadRegs ss s |> loadMaps m |> loadQuota ss m |> loadRails
    |> setReg 0x4400 (BitVec.ofNat 32 (bits (listGet 0 (sectWords ss 1 4 []) 2) 9 8))
    |> setReg 0x4420 3
    |> setReg 0x4434 (BitVec.ofNat 32 (nsum ((dedup (ss.map (·.typ))).map fun t => if t < 32 then 2 ^ t else 0)))
    |> setReg 0x4438 (BitVec.ofNat 32 nf)
    |> setReg 0x443C (BitVec.ofNat 32 (min s.ck.relNs (2 ^ 32 - 1)))
    |> (fun s => { s with ck := { s.ck with cfgReq := false, img := [] }, dbg := { s.dbg with armed := true }, arb := { s.arb with shAge := 0 } })
    |> raise 0
    |> loadPower ss m
    |> reloadStaging
    |> forEach (List.range 8) rekeyCtx
    |> (fun s => when (regB s 0x6000 0) startTrace s)
    |> takeHeld

/-- WAYBILL_CHECK (R377, phases 3 and 4; R378, R380). -/
def execWaybillCheck (s : State) : Host.Outcome State Fault Refusal :=
  .next (if !inReset s && wbState s == 2 then
      let len := imgLen s.ck
      if listGet 0 s.ck.img 0 ≠ reg s 0x4430 then failLoad 9 0 (len - 4) s
      else
        match checkContent (imgSects s) len ((reg s 0x4410).toNat + 2 ^ 32 * (reg s 0x4414).toNat) (reg s 0x4418).toNat with
        | some r => failLoad r.1 r.2.1 r.2.2 s
        | none => applyImage s
    else s)

end Sys2Proof.Machine
end

