-- ==== Sys2Proof/Machine/Reset.lean ====
section
/-!
DEFINITION. Machine/Reset.lean: power-on, tile and software resets (R365 to R368), and clock detection (R383).
-/
namespace Sys2Proof.Machine

/-- R365: what a power-on reset leaves: everything at reset but the commands waiting, the model's free-value counter and the level
of the inputs. -/
def powerOnReset (s : State) : State :=
  { State.reset with
    pending := s.pending
    free := s.free
    ck := { CkSt.reset with trst := s.ck.trst, field := s.ck.field }
    dbg := { DbgSt.reset with stopIn := s.dbg.stopIn } }

/-- R365: registers a tile reset keeps as they are: LMY_CLK_SEEN, the sampled identity, the beacon state. -/
def keptRegs : List Nat := [0x4404, 0x4410, 0x4414, 0x4418, 0x604C, 0x6050]

/-- R365, R411: what a tile reset leaves: the applied level, the time counter, the debug state and its grants (LOCKED after
an abandoned purge), the registers above and LMY_RST_STATUS with its cause and count. -/
def tileReset (cause : Nat) (s : State) : State :=
  { State.reset with
    pending := s.pending
    free := s.free
    tm := s.tm
    pw := { PwrSt.reset with step := s.pw.step, div := s.pw.div, ckSel := s.pw.ckSel, ckFmhz := s.pw.ckFmhz, ckLock := s.pw.ckLock }
    ck := { CkSt.reset with por := s.ck.por, trst := s.ck.trst, swrst := s.ck.swrst, field := s.ck.field }
    dbg := { DbgSt.reset with stopIn := s.dbg.stopIn } }
    |> forEach keptRegs (fun o => setReg o (reg s o))
    |> setReg 0x4408 (BitVec.ofNat 32 (cause + fld (min (regF s 0x4408 31 16 + 1) 0xFFFF) 16))
    |> setReg 0x4B04 (if purging s then 0 else reg s 0x4B04 &&& 0x3B)

/-- R368, R375: the release of a tile reset: the identity inputs are sampled and the load's clock starts. -/
def sampleIdentity (part : BitVec 64) (tile : BitVec 5) (s : State) : State :=
  { s with ck := { s.ck with relNs := 0 } }
    |> setReg 0x4410 (BitVec.ofNat 32 part.toNat) |> setReg 0x4414 (BitVec.ofNat 32 (part.toNat >>> 32))
    |> setReg 0x4418 (BitVec.ofNat 32 tile.toNat)

/-- The identity is sampled once no reset is in force any more. -/
def released (part : BitVec 64) (tile : BitVec 5) (s : State) : State := if inReset s then s else sampleIdentity part tile s

/-- POWER_ON_RESET_ASSERT (R365). -/
def execPowerOnResetAssert (s : State) : Host.Outcome State Fault Refusal := .next (powerOnReset s)

/-- POWER_ON_RESET_RELEASE (R368, steps 2 to 4). -/
def execPowerOnResetRelease (part : BitVec 64) (tile : BitVec 5) (field : Bool) (s : State) : Host.Outcome State Fault Refusal :=
  .next (if s.ck.por then released part tile { s with ck := { s.ck with por := false, field := field } } else s)

/-- TILE_RESET_ASSERT (R365, R366). -/
def execTileResetAssert (s : State) : Host.Outcome State Fault Refusal :=
  .next (
    let s := { s with ck := { s.ck with trst := true } }
    if s.ck.por then s else tileReset 1 s)

/-- TILE_RESET_RELEASE (R368, step 5). -/
def execTileResetRelease (part : BitVec 64) (tile : BitVec 5) (s : State) : Host.Outcome State Fault Refusal :=
  .next (if s.ck.trst then released part tile { s with ck := { s.ck with trst := false } } else s)

/-- R367: a write of LMY_RST_CTL. -/
def writeRstCtl (w : Word) (s : State) : State :=
  if bit w.toNat 0 && bits w.toNat 15 8 == 0xA5 then tileReset 2 { s with ck := { s.ck with swrst := true } } else s

/-- SOFTWARE_TILE_RESET (R367). -/
def execSoftwareTileReset (a : BusAcc) (w : Word) (s : State) : Host.Outcome State Fault Refusal :=
  .next (busWrite a 0x440C (writeRstCtl w) s)

/-- SOFTWARE_RESET_END (R367). -/
def execSoftwareResetEnd (part : BitVec 64) (tile : BitVec 5) (s : State) : Host.Outcome State Fault Refusal :=
  .next (if s.ck.swrst then released part tile { s with ck := { s.ck with swrst := false } } else s)

/-- CLOCK_SEEN (R383): the clock of a number toggles: 0 CCLK, 1 XCLK, 2 TCLK, 3 PCLK, 4 WCLK, 5 to 14 ECLK0 to ECLK9, 15 ECLK11. -/
def execClockSeen (clk : BitVec 4) (s : State) : Host.Outcome State Fault Refusal :=
  .next (if s.ck.por then s
    else orReg 0x4404 (2 ^ (if clk.toNat < 5 then clk.toNat else if clk.toNat = 15 then 27 else 11 + clk.toNat)) s)

end Sys2Proof.Machine
end

