-- ==== Sys2Proof/Machine/Tables.lean ====
section
/-!
DEFINITION. Machine/Tables.lean: the permute-table and side-table windows (R133, R139, R140, R199 to R202).
-/
namespace Sys2Proof.Machine

/-! Permute table -/

/-- R139: ENTRY and WORD of LMY_PT_ADDR as one number. -/
def ptAt (s : State) : Nat := 64 * regF s 0x8000 15 8 + regF s 0x8000 5 0

/-- R140: with AUTOINC, the next descriptor. -/
def ptAdvance (s : State) : State :=
  if regB s 0x8000 16 then
    let n := (ptAt s + 1) % 16384
    setReg 0x8000 (BitVec.ofNat 32 (n % 64 + fld (n / 64) 8 + 0x10000)) s
  else s

/-- R133, R140: a write of LMY_PT_DATA. -/
def writePtData (w : Word) (s : State) : State :=
  let e := ptAt s / 64
  (if ptValid s e || ptBusy s e then orReg 0x8008 1 s
   else { s with tb := { s.tb with pt := NMap.set 0 s.tb.pt (ptAt s) w } }) |> ptAdvance

/-- PT_DATA_WRITE (R133, R140). -/
def execPtDataWrite (a : BusAcc) (w : Word) (s : State) : Host.Outcome State Fault Refusal := .next (busWrite a 0x8004 (writePtData w) s)

/-- PT_DATA_READ (R140). -/
def execPtDataRead (a : BusAcc) (s : State) : Host.Outcome State Fault Refusal :=
  .next (busRead a 0x8004 (fun s => (NMap.get 0 s.tb.pt (ptAt s), ptAdvance s)) s)

/-- The VALID bits a write of `w` at bit `base` leaves, of `n` items checked by `ok`; second: some item was refused. -/
def validBits (ok : Nat → Bool) (base n w : Nat) : Nat × Bool :=
  (nsum ((List.range n).map fun i => if bit w i && ok (base + i) then 2 ^ i else 0),
   (List.range n).any fun i => bit w i && !ok (base + i))

/-- R133: a write of LMY_PT_VALIDw. -/
def writePtValid (n : Nat) (w : Word) (s : State) : State :=
  let r := validBits (fun e => ptDescOk (ptDesc s e)) (32 * n) 32 w.toNat
  setReg (0x8020 + 4 * (n % 8)) (BitVec.ofNat 32 r.1) s |> when r.2 (orReg 0x8008 2)

/-- PT_VALID_WRITE (R133). -/
def execPtValidWrite (a : BusAcc) (n : BitVec 3) (w : Word) (s : State) : Host.Outcome State Fault Refusal :=
  .next (busWrite a (0x8020 + 4 * n.toNat) (writePtValid n.toNat w) s)

/-! Side tables -/

def btWord (s : State) : Nat := regF s 0xA000 9 0
def btIndex (s : State) : Nat := regF s 0xA000 21 16
def btTables (s : State) : Bool := regB s 0xA000 24

/-- R200: INDEX and WORD lie within the space. -/
def btInside (s : State) : Bool :=
  if btTables s then decide (btIndex s < 16) && decide (btWord s < 776) else decide (btWord s < 16)

/-- R199, R200: with AUTOINC, the next word. A WORD beyond the item counts on modulo 1,024 and leaves INDEX until the last word is met
(DESIGN CHOICE, log entry 81). -/
def btAdvance (s : State) : State :=
  if regB s 0xA000 28 then
    let last := if btTables s then 775 else 15
    let lastItem := if btTables s then 15 else 63
    let w := if btWord s = last then 0 else btWord s + 1
    let i := if btWord s ≠ last then btIndex s else if btIndex s = lastItem then 0 else btIndex s + 1
    setRegF 0xA000 9 0 w s |> setRegF 0xA000 21 16 i
  else s

/-- R199, R200: the word at SPACE, INDEX and WORD. -/
def btRead (s : State) : Word :=
  if !btInside s then 0
  else if !btTables s then NMap.get 0 s.tb.ps (16 * btIndex s + btWord s)
  else if btIndex s < 12 then BitVec.ofNat 32 (fixedWord (btIndex s) (btWord s))
  else NMap.get 0 s.tb.act (776 * btIndex s + btWord s)

/-- R200: a write of LMY_BT_DATA is ignored. -/
def btIgnores (s : State) : Bool :=
  !btInside s ||
    (if btTables s then decide (btIndex s < 12) || tblValid s (btIndex s) || tblBusy s (btIndex s)
     else psValid s (btIndex s) || psBusy s (btIndex s))

/-- R200: a write of LMY_BT_DATA. -/
def writeBtData (w : Word) (s : State) : State :=
  (if btIgnores s then orReg 0xA008 1 s
   else if btTables s then { s with tb := { s.tb with act := NMap.set 0 s.tb.act (776 * btIndex s + btWord s) w } }
   else { s with tb := { s.tb with ps := NMap.set 0 s.tb.ps (16 * btIndex s + btWord s) w } }) |> btAdvance

/-- BT_DATA_WRITE (R200). -/
def execBtDataWrite (a : BusAcc) (w : Word) (s : State) : Host.Outcome State Fault Refusal := .next (busWrite a 0xA004 (writeBtData w) s)

/-- BT_DATA_READ (R200). -/
def execBtDataRead (a : BusAcc) (s : State) : Host.Outcome State Fault Refusal :=
  .next (busRead a 0xA004 (fun s => (btRead s, btAdvance s)) s)

/-- R201: a write of LMY_BT_PSVALIDw. -/
def writePsValid (n : Nat) (w : Word) (s : State) : State :=
  let r := validBits (fun e => psOk (psWord s e)) (32 * n) 32 w.toNat
  setReg (0xA020 + 4 * (n % 2)) (BitVec.ofNat 32 r.1) s |> when r.2 (orReg 0xA008 2)

/-- PSVALID_WRITE (R201). -/
def execPsvalidWrite (a : BusAcc) (n : Bool) (w : Word) (s : State) : Host.Outcome State Fault Refusal :=
  .next (busWrite a (0xA020 + 4 * b2n n) (writePsValid (b2n n) w) s)

/-- R180, R202: a write of LMY_BT_TBLVALID: the bits of the programmable tables; the CRC of a table reads 0 while it is not valid. -/
def writeTblValid (w : Word) (s : State) : State :=
  let r := validBits (fun t => tblOk (progWord s t)) 12 4 (bits w.toNat 15 12)
  setReg 0xA060 (BitVec.ofNat 32 (0xFFF + fld r.1 12)) s
    |> forEach (List.range 4) (fun i => setReg (0xA0B0 + 4 * (i % 4))
        (if bit r.1 i then BitVec.ofNat 32 (tableCrc (progWord s (12 + i))) else 0))
    |> when r.2 (orReg 0xA008 2)

/-- TBLVALID_WRITE (R202). -/
def execTblvalidWrite (a : BusAcc) (w : Word) (s : State) : Host.Outcome State Fault Refusal :=
  .next (busWrite a 0xA060 (writeTblValid w) s)

end Sys2Proof.Machine
end

