-- ==== Sys2Proof/Machine/Status.lean ====
section
/-!
DEFINITION. Machine/Status.lean: the value of every register as the service bus shows it, with the fields that follow from other state
(R13, R386, R387, R499 to R518).
-/
namespace Sys2Proof.Machine

/-- A word from a mask function over `n` bits. -/
def bitsOf (n : Nat) (f : Nat → Bool) : Nat := nsum ((List.range n).map fun i => if f i then 2 ^ i else 0)

/-! Banks -/

/-- LMY_BANK_PSTATEn slot of a physical bank. -/
def pstate (p : BankPow) : Nat := p.st + fld (b2n p.trans.isSome) 2 + fld (b2n (p.wait.isSome || p.held.isSome)) 3

/-- LMY_BANK_STATUS. -/
def bankStatus (s : State) : Nat :=
  let n (f : BankPow → Bool) : Nat := ncount ((List.range 96).map fun lb => f (powOf s (pbankOf s lb)))
  n (·.st == 2) + fld (n (·.st == 1)) 8 + fld (n (·.st == 0)) 16 + fld (n fun p => p.trans.isSome || p.wait.isSome) 24

/-- LMY_SPARE_PSTATE. -/
def sparePstate (s : State) : Nat := nsum ((List.range 4).map fun j => if s.fw.spB.contains (96 + j) then fld (pstate (powOf s (96 + j))) (4 * j) else 0)

/-! Frame, blends, held delivery, arbitration -/

def sfCfg (s : State) : Nat := b2n s.ck.relaxed + fld (planes s false) 8 + fld (planes s true) 16
def spareCount {w : Nat} (v : BitVec w) : Nat := ncount ((List.range w).map v.getLsbD)
def sfStatus (s : State) : Nat :=
  spareCount s.fw.spR + fld (spareCount s.fw.spW) 2 + fld (b2n (decide (planes s false < 8) && loaded s)) 4
    + fld (b2n (decide (planes s true < 8) && loaded s)) 5
def blCfg (s : State) : Nat :=
  bitsOf 9 (clusterActive s) + fld (activeClusters s) 16 + fld (spareCount s.fw.spC) 20
def blStatus (s : State) : Nat :=
  let free := ncount ((List.range 36).map fun k => clusterActive s (k / 4) && slotFree s k)
  let wide : Bool := match s.bl.wait.head?.bind (slipOf s) with | some x => blendSlots (sBlendId x.words) == 4 | none => false
  free + fld s.bl.wait.length 8 + fld (b2n wide) 16
def blSlots (s : State) (c0 n : Nat) : Nat := bitsOf (4 * n) fun i => !slotFree s (4 * c0 + i)

/-- LMY_HD_USEc. -/
def hdUseWord (s : State) (c : Nat) : Nat := (hdUse s c).1 + fld (hdUse s c).2 16
/-- A cancellation is in progress. -/
def hdCancelling (s : State) : Bool := s.sq.live.any fun x => isHELD x.words && x.cancel && !x.ended
def hdStatus (s : State) : Nat :=
  (hdBlocks s - s.hd.blk.length) + fld (hdRows s - s.hd.row.length) 16 + fld (b2n (hdCancelling s)) 29 + fld (b2n (regB s 0x2404 30)) 30
def hdWait (s : State) : Nat :=
  match s.hd.wait.head?.bind (slipOf s) with
  | some x => s.hd.wait.length + fld x.q 8 + 0x8000
  | none => s.hd.wait.length
/-- LMY_HD_QSTATEq: its state field from the executing slip. -/
def hdQstate (s : State) (q : Nat) : Nat :=
  let ld := fld (regF s (0x2500 + 4 * q) 31 8) 8
  match running? s q with
  | some x => (match x.held with
    | some h => (if x.cancel then 3 else if h.st = 1 then 1 else 2) + fld (sCtx x.words) 4 + ld
    | none => ld)
  | none => ld
def nQuar (s : State) : Nat := ncount ((List.range 174).map (quarantined s))

/-- A byte of LMY_ARB_TKTn: ticket [5:0], WAIT in [6], for the queues of a reader (R252, R387). -/
def tktByte (s : State) (l q : Nat) : Nat :=
  if l = 0 ∨ sqCtx s q = l then
    NMap.get 0 s.arb.tkt q % 64 + (if s.fr.trs.any fun t => t.req == q && waits t then 0x40 else 0)
  else 0

/-! Queues -/

/-- LMY_SQq_STAT. -/
def sqStat (s : State) (q : Nat) : Nat :=
  let x := queueOf s q
  let head : Nat × Nat := match x.ents.head? with | some e => (sType e.words, e.idx) | none => (0, 0)
  sqState s q + fld (b2n x.wdog) 3 + fld x.ents.length 4 + fld head.1 12 + fld x.stall 16 + fld head.2 24 + fld (b2n x.ford) 29
def sqStop (s : State) (n : Nat) : Nat := bitsOf 32 fun i => (queueOf s (32 * n + i)).stop != 0

/-! Reduction port -/

def rdxStatus (s : State) : Nat :=
  s.rx.dir.length + fld (s.rx.bkt.filter fun e => decide (1 ≤ e.2.st) && decide (e.2.st ≤ 3)).length 16
def vcStat (s : State) (v : Nat) : Nat := slotsUsed s v + fld (phUsed s v) 9 + fld (b2n (NMap.get false s.rx.stall v)) 24
def bStat (s : State) (b : Nat) : Nat :=
  let k := bktAt s b
  k.st + fld (b2n k.skip) 3 + fld (b2n k.nonfin) 4 + fld (b2n k.poison) 5 + fld (b2n k.afault) 6 + fld (b2n k.dup) 7 + fld k.red.length 8
def bNanLo (s : State) (b : Nat) : Nat :=
  let r := (bktAt s b).nan
  r.n + fld (b2n r.nan) 16 + fld (b2n r.inf) 17 + fld (match r.low with | some e => e.1 | none => 0) 20
def bNanHi (s : State) (b : Nat) : Nat := match (bktAt s b).nan.low with | some e => e.2.1 + fld e.2.2 16 | none => 0
def ngStat (s : State) (g : Nat) : Nat := let x := ngAt s g; x.mem.length + fld (b2n x.ready) 7 + fld (b2n x.pois) 8
/-- R498: LMY_RDX_CMDSTAT to a level that does not own the bucket of its last refusal reads 0. -/
def cmdStat (s : State) (l : Nat) : Nat := if bktMine s l (regF s 0x380C 13 8) then (reg s 0x380C).toNat else 0

/-! Power -/

/-- LMY_PWR_DPEND: a request is held, or a power-up waits for its turn (R335, R337). -/
def domPend (s : State) (i : Nat) : Bool := waitingUp (domOf s i) || (domOf s i).held.isSome

def pwrStatus (s : State) : Nat :=
  (reg s 0x4004).toNat + s.pw.step + fld s.pw.div 4 + fld (b2n s.pw.capun) 7 + fld (b2n s.pw.core.atLim) 8 + fld (b2n s.pw.arr.atLim) 9
    + fld s.pw.seq 16

/-! Forwarding -/

def fwdStatus (s : State) : Nat :=
  let m : Nat := match s.fw.mig with | some m => if 4 < m.phase then 0 else 1 + fld m.phase 1 + fld m.lb 4 + fld m.cp 12 | none => 0
  m + (reg s 0x704C).toNat + fld s.fw.ents.length 24 + fld (b2n s.fw.plane.isSome) 28 + fld (b2n s.fw.cluster.isSome) 29
    + fld (b2n s.fw.stat.isSome) 30
def fwdSpares (s : State) : Nat :=
  s.fw.spB.length + fld (spareCount s.fw.spR) 4 + fld (spareCount s.fw.spW) 6 + fld (spareCount s.fw.spC) 8 + fld (256 - s.fw.rowsUsed.length) 16
def isPend (s : State) (kind unit : Nat) : Bool := NMap.get 0 s.fw.pend (unitKey kind unit) != 0
def fwdPendc (s : State) : Nat :=
  bitsOf 9 (isPend s 3) + fld ((s.fw.pend.filter fun e => e.1 / 8192 == 4).length) 16
def fwdHead (s : State) : Nat := match s.fw.ents.head? with | some e => e.toNat | none => 0

/-! Protection, trace -/

def sealStat (s : State) (l : Nat) : Nat :=
  let x := sealAt s l
  x.st + fld (b2n x.fail) 2 + fld x.ndone 4 + fld x.ctx 24
def sealCfg (s : State) (l : Nat) : Nat :=
  let x := sealAt s l
  (reg s (0x4880 + 32 * l)).toNat + fld (b2n (x.st == 1 || x.st == 2)) 16
/-- LMY_WUu_CFG: ARM reads 1 while ARMED or CAPTURING. -/
def wuCfg (s : State) (u : Nat) : Nat := (reg s (wuReg u 0)).toNat / 4 * 4 + b2n (wuLocked s u)

/-- LMY_STATUS (R500). -/
def lmyStatus (s : State) : Nat :=
  wbState s + fld (b2n (halted s)) 3 + fld (regF s 0x4B04 1 0) 4 + fld (b2n (purged s)) 6 + fld (protState s) 7

/-! All registers -/

/-- R369: registers whose value moves before the Waybill is LOADED and which read their reset value until then. -/
def unloadedValue (o : Nat) : Option Nat :=
  if [0x1800, 0x1804, 0x1808, 0x180C, 0x2000, 0x2004, 0x2400, 0x2404, 0x4800, 0x4804, 0x4808, 0x401C].contains o then some 0
  else if o = 0x4010 then some 0x40004000
  else none

/-- The register at an offset of a configured block as a reader of privilege level `l` and initiator `init` sees it. -/
def regValue (s : State) (l init o : Nat) : Nat :=
  let at_ (lo n stride : Nat) : Bool := decide (lo ≤ o) && decide (o < lo + n * stride) && (o - lo) % stride == 0
  if o < 0x1800 then
    (if o = 0 then 0x4C4D0100 else if o = 4 then 0x074403FF else if o = 8 then lmyStatus s
     else if o = 0x0804 then bankStatus s
     else if at_ 0x0880 12 4 then
       nsum ((List.range 8).map fun k => fld (pstate (powOf s (pbankOf s (8 * ((o - 0x0880) / 4) + k)))) (4 * k))
     else if o = 0x08D0 then sparePstate s
     else if at_ 0x1000 24 4 then (if l = 0 ∨ (o - 0x1000) / 12 = l then (reg s o).toNat else 0)
     else (reg s o).toNat)
  else if o < 0x2800 then
    (if o = 0x1800 then sfCfg s else if o = 0x1804 then sfStatus s
     else if o = 0x1808 then bitsOf 18 (planeActive s false) else if o = 0x180C then bitsOf 18 (planeActive s true)
     else if at_ 0x18C0 17 4 then
       nsum ((List.range 4).map fun k => let n := 4 * ((o - 0x18C0) / 4) + k; if n < 65 then fld (rlane s n).cred (8 * k) else 0)
     else if o = 0x2000 then blCfg s else if o = 0x2004 then blStatus s else if o = 0x2008 then 1
     else if o = 0x2010 then blSlots s 0 8 else if o = 0x2014 then blSlots s 8 1
     else if o = 0x2400 then hdBlocks s + fld (hdRows s) 16
     else if o = 0x2404 then hdStatus s else if o = 0x2408 then hdWait s
     else if at_ 0x2430 8 4 then hdUseWord s ((o - 0x2430) / 4)
     else if at_ 0x2500 64 4 then hdQstate s ((o - 0x2500) / 4)
     else (reg s o).toNat)
  else if o < 0x3800 then
    (if o = 0x2804 then nQuar s
     else if at_ 0x2900 16 4 then nsum ((List.range 4).map fun k => fld (tktByte s l (4 * ((o - 0x2900) / 4) + k)) (8 * k))
     else if o = 0x3000 then 0x40200040
     else if at_ 0x3020 2 4 then sqStop s ((o - 0x3020) / 4)
     else if at_ 0x3104 64 16 then sqStat s ((o - 0x3104) / 16)
     else if o = 0x3010 || o = 0x3014 then 0
     else (reg s o).toNat)
  else if o < 0x4000 then
    (if o = 0x3800 then 0x00884010 else if o = 0x3804 then rdxStatus s
     else if o = 0x3808 then 0 else if o = 0x380C then cmdStat s l else if o = 0x3810 then baddr s l
     else if o = 0x3814 then
       (let b := bits (baddr s l) 13 8; if bktMine s l b then (NMap.get 0 s.rx.desc (16 * b + bits (baddr s l) 3 0)).toNat else 0)
     else if at_ 0x38C0 16 8 then vcStat s ((o - 0x38C0) / 8)
     else if at_ 0x38C4 16 8 then NMap.get 0 s.rx.eg ((o - 0x38C4) / 8)
     else if at_ 0x3940 64 4 then bStat s ((o - 0x3940) / 4)
     else if at_ 0x3B00 64 8 then bNanLo s ((o - 0x3B00) / 8)
     else if at_ 0x3B04 64 8 then bNanHi s ((o - 0x3B04) / 8)
     else if at_ 0x3D08 8 16 then (ngAt s ((o - 0x3D08) / 16)).sum.toNat
     else if at_ 0x3D0C 8 16 then ngStat s ((o - 0x3D0C) / 16)
     else (reg s o).toNat)
  else if o < 0x4800 then
    (if o = 0x4000 then (reg s o).toNat + fld 0x2EE 8
     else if o = 0x4004 then pwrStatus s
     else if o = 0x40A4 then bitsOf 32 fun i => (domOf s i).st == 2
     else if o = 0x40A8 then bitsOf 32 fun i => (domOf s i).trans.isSome
     else if o = 0x40AC then bitsOf 32 (domPend s)
     else (reg s o).toNat)
  else if o < 0x5000 then
    (if o = 0x4800 then (if init < 2 then l else 0) + fld init 3
     else if o = 0x481C then protQwait s
     else if at_ 0x4880 4 32 then sealCfg s ((o - 0x4880) / 32)
     else if at_ 0x4884 4 32 then sealStat s ((o - 0x4884) / 32)
     else if o = 0x4900 then ((reg s 0x4818).toNat + 1) % 2 ^ 32
     else if o = 0x4810 || at_ 0x4820 4 4 || o = 0x4B00 then 0
     else if o = 0x4B04 then (reg s o).toNat + fld (b2n s.ck.field) 2
     else (reg s o).toNat)
  else if o < 0x6000 then
    (if o = 0x5F00 then (reg s o).toNat else if o = 0x5F04 then xcSel s l
     else if o = 0x5F08 then (cntLo (xcValue s l)).toNat
     else if o = 0x5F0C then (NMap.get 0 s.bus.cntSh l).toNat
     else if o % 8 = 0 then (if (cntCode s o).isSome then (cntLo (NMap.get 0 s.cnt o)).toNat else 0)
     else if (cntCode s (o / 8 * 8)).isSome then (NMap.get 0 s.bus.cntSh l).toNat else 0)
  else if o < 0x7000 then
    (if o = 0x6014 then (reg s o).toNat / 2 * 2 + b2n (regB s 0x6000 0 && traceN s != 0)
     else if o = 0x6028 then traceN s - 1
     else if o = 0x6010 then 0
     else if o = 0x6040 then bits (timeNow s) 31 0 else if o = 0x6044 then (NMap.get 0 s.bus.tmSh l).toNat
     else if at_ 0x6A00 4 64 then wuCfg s ((o - 0x6A00) / 64)
     else if o = 0x6804 || o = 0x6810 || o = 0x6900 then 0
     else if at_ 0x6880 32 4 then (if regB s 0x4B04 4 then (reg s o).toNat else 0)
     else (reg s o).toNat)
  else if o < 0x8000 then
    (if o = 0x7048 then 0 else if o = 0x704C then fwdStatus s else if o = 0x7050 then fwdSpares s
     else if at_ 0x7054 3 4 then bitsOf 32 fun i => isPend s 0 (32 * ((o - 0x7054) / 4) + i)
     else if o = 0x7060 then bitsOf 18 (isPend s 1) else if o = 0x7064 then bitsOf 18 (isPend s 2)
     else if o = 0x7068 then fwdPendc s
     else if o = 0x7070 then bits (fwdHead s) 31 0 else if o = 0x7074 then bits (fwdHead s) 63 32
     else (reg s o).toNat)
  else if o < 0xC000 then
    (if at_ 0x8040 8 4 then bitsOf 32 fun i => ptBusy s (32 * ((o - 0x8040) / 4) + i)
     else if at_ 0xA040 2 4 then bitsOf 32 fun i => psBusy s (32 * ((o - 0xA040) / 4) + i)
     else if o = 0xA064 then bitsOf 16 fun i => tblBusy s i
     else if at_ 0xA080 16 4 then
       (let n := (o - 0xA080) / 4
        if isFixedTable n then fixedCrc n
        else if 12 ≤ n then (reg s o).toNat else 0)
     else (reg s o).toNat)
  else (let q := (o - 0xC000) / 256; bits (queueOf s q).stage.toNat (8 * (o % 256) + 31) (8 * (o % 256)))

/-- The register at an offset as a reader of privilege level `l` and initiator `init` sees it (R367, R369). -/
def readReg (s : State) (l init o : Nat) : Nat :=
  if inReset s && o != 0x4408 && o != 0x4420 then 0
  else if wbState s ≠ 3 then (unloadedValue o).getD (regValue s l init o)
  else regValue s l init o

/-- R459: the level of lmy_evt_tcp and lmy_evt_svc: some event is pending that the output's enables hold. -/
def evtTcp (s : State) : Bool := (reg s 0x7000 &&& reg s 0x7008) != 0 || (reg s 0x7004 &&& reg s 0x700C) != 0
def evtSvc (s : State) : Bool := (reg s 0x7000 &&& reg s 0x7010) != 0 || (reg s 0x7004 &&& reg s 0x7014) != 0

end Sys2Proof.Machine
end

