-- ==== Sys2Proof/Machine/Snapshot.lean ====
section
/-!
DEFINITION. Machine/Snapshot.lean: the images that a debugger reads: the scan-out image (R446) and the hang snapshot (R449).
A piece of an image is a byte offset with the value that stands there, little-endian. Fields that the spec names without a
byte position fill their record as consecutive words in the order it gives (DESIGN CHOICE, log entry 26).
-/
namespace Sys2Proof.Machine

/-- Words at consecutive offsets. -/
def wordPieces (o : Nat) : List Nat → List (Nat × Nat)
  | [] => []
  | w :: ws => (o, w % 2 ^ 32) :: wordPieces (o + 4) ws

/-- Bytes at consecutive offsets. -/
def bytePieces (o : Nat) : List Nat → List (Nat × Nat)
  | [] => []
  | b :: bs => (o, b % 256) :: bytePieces (o + 1) bs

/-- The words of an image of `n` words that are not 0. -/
def imageOf (pieces : List (Nat × Nat)) (n : Nat) : NMap Word :=
  let v := pieces.foldl (fun acc p => acc ||| (p.2 <<< (8 * p.1))) 0
  (((List.range n).map fun i => (i, BitVec.ofNat 32 (v >>> (32 * i)))).filter fun e => e.2 != 0)

/-- The records of a region: record `i` of `n` at `o + size * i`. -/
def region (o size n : Nat) (f : Nat → Nat → List (Nat × Nat)) : List (Nat × Nat) :=
  (List.range n).flatMap fun i => f i (o + size * i)

/-! Queues and lanes -/

/-- The index of the next row a slip requests, as i0, i1, i2 of its geometry; of a HELD slip, its row in the line and the line. -/
def nextRowIndex (x : Slip) : List Nat :=
  let w := x.words
  let i := if hasRead w then x.issued * sK w else x.wissued
  if isHELD w then [i % hLrows w, i / hLrows w % 65536, i / hLrows w / 65536]
  else [i % gN w 0, i / gN w 0 % gN w 1, i / (gN w 0 * gN w 1)]

/-- The read lane in a destination lane slot 0 to 7. -/
def laneSlot (w : BitVec 512) (j : Nat) : Option Nat :=
  if isREAD w || isHELD w then
    let l := sw w (9 + j / 4)
    if bit l (8 * (j % 4) + 7) then some (bits l (8 * (j % 4) + 6) (8 * (j % 4))) else none
  else if j = 0 then (sRlanes w).head? else none

/-- Rows stored, or rows delivered by a read side. -/
def rowsThrough (s : State) (x : Slip) : Nat := if hasWrite x.words then x.stored else if hasRead x.words then rowsPassed s x else 0

/-- The stream ordinal of the next element of a slip. -/
def nextOrdinal (x : Slip) : Nat :=
  if isWRITE x.words then x.stored * sND x.words else match (sRlanes x.words).head? with | some l => (slane x l).kd | none => 0

/-- R127: the group that the oldest read of a slip passes at its first destination lane. -/
def groupIndex (s : State) (x : Slip) : Nat :=
  match (sRlanes x.words).head?, s.fr.trs.find? fun t => t.slip == x.sid + 1 && t.kind == .rd && t.granted with
  | some l, some t => NMap.get 0 t.passed l / sK x.words
  | _, _ => 0

/-- Scan record of a queue. -/
def scanQueue (s : State) (q o : Nat) : List (Nat × Nat) :=
  (o + 64, sqStat s q) :: (o + 92, (queueOf s q).refused) ::
    match running? s q with
    | none => []
    | some x =>
      (o, x.words.toNat) ::
        (if isData x.words then
          (nextRowIndex x).zipIdx.map (fun (v, i) => (o + 68 + 2 * i, v % 65536))
            ++ [(o + 74, groupIndex s x % 65536), (o + 76, rowsThrough s x % 2 ^ 32), (o + 88, nextOrdinal x % 2 ^ 32)]
            ++ bytePieces (o + 80) ((List.range 8).map fun j => match laneSlot x.words j with | some l => (slane x l).held | none => 0)
         else [])

/-- The requesters of the first eight transfers in an issue order. -/
def orderIds (s : State) (order : List Nat) : List Nat :=
  ((order.filterMap (trOf s)).map (fun (t : Tr) => t.req) ++ List.replicate 8 0xFF).take 8

/-- The queue of a slip by id + 1; 0xFF for none. -/
def slipQueue (s : State) (sid1 : Nat) : Nat := match slipOf s (sid1 - 1) with | some x => if sid1 = 0 then 0xFF else x.q | none => 0xFF

/-- Scan record of a read lane. -/
def scanRlane (s : State) (l o : Nat) : List (Nat × Nat) :=
  let x := rlane s l
  [(o, l), (o + 2, x.cred), (o + 3, x.landing.length), (o + 4, x.nput % 65536), (o + 6, (x.nput - x.dcq.length) % 65536)]
    ++ bytePieces (o + 8) (orderIds s x.order) ++ [(o + 16, 0xFF), (o + 17, (chan s false l).dcq.length)]

/-- Scan record of a write lane; its DCQ's write pointer is the one CCLK has seen. -/
def scanWlane (s : State) (l o : Nat) : List (Nat × Nat) :=
  let x := wlane s l
  let rp := x.nput - x.dcq.length
  [(o, l + 0x8000), (o + 2, 16 - x.dcq.length), (o + 3, x.staging.length), (o + 4, (rp + x.seen) % 65536), (o + 6, rp % 65536)]
    ++ bytePieces (o + 8) (orderIds s x.order) ++ [(o + 16, slipQueue s x.claim), (o + 17, (chan s true l).dcq.length)]

/-! Banks and networks -/

/-- A run of R244 on a port: requester, 0x00, contended array cycles. -/
def runWord (s : State) (k : Nat) : Nat :=
  let r := NMap.get Run.none s.arb.runs k
  (if r.req = 0 then 0xFF else r.req - 1) + fld (min r.cont 0xFFFF) 16

/-- Scan record of a physical bank: the pointers of the logical bank it serves, and the runs of its ports. -/
def scanBank (s : State) (pb o : Nat) : List (Nat × Nat) :=
  (match lbankOf s pb with
    | some lb => bytePieces o ((List.range 8).map fun c => NMap.get 0 s.arb.ptr (8 * lb + c))
    | none => [])
    ++ wordPieces (o + 8) [runWord s (2 * pb), runWord s (2 * pb + 1)]

/-- A reservation of this or a later array cycle: port key, array cycle, scan entry (R446). -/
def heldResvs (s : State) : List (Nat × Nat × Nat) :=
  (s.fr.trs.filter (·.granted)).flatMap fun t =>
    let path := if isInternal t then 2 else if isStore t then 1 else 0
    t.beats.zipIdx.flatMap fun (b, n) =>
      if b.bad ≠ 0 then []
      else ((beatCycs t t.gcyc n).filter fun c => decide (s.cyc ≤ c.1)).map fun c =>
        (2 * pbankOf s b.bank + b2n (portOf t b.bank), c.1, t.req + fld (n % 8) 8 + fld (trCls s t) 11 + fld path 14 + fld (b2n c.2) 16)

/-- Scan record of a bank port: array cycles H to H + 15. -/
def scanPort (s : State) (rs : List (Nat × Nat × Nat)) (k o : Nat) : List (Nat × Nat) :=
  let mine := rs.filter fun r => r.1 == k
  (List.range 16).map fun i =>
    (o + 3 * i, match mine.find? fun r => r.2.1 == s.cyc + i with | some r => r.2.2 | none => 0xFF)

/-- The network cycle of a leg: the first in its middle plane (R93, R94). -/
def legCycle (s : State) (l : Leg) : Nat := if l.write then l.cyc - 5 else l.cyc + 4 + b2n s.ck.relaxed

/-- The switches of the legs region in its order: network (true: write), egress, switch. -/
def legSwitches : List (Bool × Bool × Nat) :=
  (List.range 25).map (false, false, ·) ++ (List.range 13).map (false, true, ·) ++ (List.range 9).map (true, false, ·)
    ++ (List.range 25).map (true, true, ·)

/-- The legs region. -/
def scanLegs (s : State) (o : Nat) : List (Nat × Nat) :=
  let legs := (s.fr.trs.filter (·.granted)).flatMap fun t => trLegs s (s.cyc - 6) t.gcyc t
  (legSwitches.zipIdx.flatMap fun (k, w) => (List.range 12).map fun j =>
      (o + 12 * w + j, (legs.filter fun l => l.write == k.1 && legCycle s l == s.cyc + 1 + j && (if k.2.1 then l.egr else l.ingr) == k.2.2).length % 256))
    ++ wordPieces (o + 864) [regValue s 0 0 0x1808, regValue s 0 0 0x180C]

/-- Whom a transfer of an internal port serves: a queue, or the bucket, watch unit or bank that it moves a row for. -/
def servedBy (s : State) (t : Tr) : Nat :=
  match t.job with
  | .rrow o _ => (match opOf s o with | some z => z.b | none => 0xFF)
  | .wrow o _ => (match opOf s o with | some z => z.b | none => 0xFF)
  | .dump u => u
  | .dumpRd => (match s.dbg.wrd with | some p => p.1 | none => 0xFF)
  | .bankRd => (match s.dbg.brd with | some p => p.1 | none => 0xFF)
  | .copyRd => (match s.fw.mig with | some m => m.lb | none => 0xFF)
  | .copyWr => (match s.fw.mig with | some m => m.lb | none => 0xFF)
  | .dual => (match s.fw.mig with | some m => m.lb | none => 0xFF)
  | _ => slipQueue s t.slip

/-- The view address of the next row of a transfer, for one whose rows are named by a view. -/
def viewNow (t : Tr) : Nat :=
  match t.beats.find? fun b => !b.done with
  | some b => if t.view = 0 then 0 else t.view / 2 ^ 23 * 2 ^ 23 + b.off
  | none => 0

/-- Scan record of internal port IRn (n below 20) or IWn (20 + n): requester or unit served, beats remaining, class, view address. -/
def scanInternal (s : State) (n o : Nat) : List (Nat × Nat) :=
  match s.fr.trs.find? fun t => t.req == 174 + n && t.passed.isEmpty with
  | some t => [(o, servedBy s t), (o + 2, (t.beats.filter fun b => !b.done).length), (o + 3, trCls s t), (o + 4, viewNow t)]
  | none => []

/-! Blends, held delivery, reduction port -/

/-- Scan record of blend slot `k` = 4c + j. -/
def scanSlot (s : State) (k o : Nat) : List (Nat × Nat) :=
  match slipOf s (NMap.get 0 s.bl.slot k - 1) with
  | some x =>
    if slotFree s k then [(o, 0xFF)]
    else
      let l := match x.slots.find? fun p => p.2 == k with | some p => p.1 | none => 0
      let y := streamOf x l
      [(o, x.q), (o + 1, l), (o + 2, sBlendId x.words), (o + 3, sPset x.words), (o + 4, y.kd % 2 ^ 32), (o + 8, y.side.length), (o + 9, x.slotSt)]
  | none => [(o, 0xFF)]

/-- Scan entry `i` of the slot requests: queue, slots wanted, whole cluster. -/
def scanSlotReq (s : State) (i o : Nat) : List (Nat × Nat) :=
  match (s.bl.wait[i]?).bind (slipOf s) with
  | some x =>
    let n := blendSlots (sBlendId x.words)
    bytePieces o [x.q, n * (blendLanes x.words).length, b2n (n == 4)]
  | none => []

/-- Lines of a HELD slip parked. -/
def linesParked (s : State) (x : Slip) : Nat := rowsParked s x / hLrows x.words

/-- Scan record of a queue's held delivery. -/
def scanHeld (s : State) (q o : Nat) : List (Nat × Nat) :=
  (o, hdQstate s q) ::
    match heldOf s q with
    | some (x, h) =>
      wordPieces (o + 4) [hW x.words, listGet 0 h.blks 0 + fld h.blks.length 16, listGet 0 h.rows 0, h.tiles, linesParked s x, h.nstat]
    | none => []

/-- The flit that a bucket's norm pass reads next. -/
def normFlit (s : State) (b : Nat) : Nat := match normOp s b with | some o => o.asked | none => 0

/-- Scan record of a bucket. -/
def scanBucket (s : State) (b o : Nat) : List (Nat × Nat) :=
  let k := bktAt s b
  wordPieces o [dWord k.desc 0, dWord k.desc 1, dWord k.desc 2, bStat s b, bNanLo s b, bNanHi s b, k.upd.length, k.sent, normFlit s b]

/-- R318: contributions of a VC that wait for a pigeonhole. -/
def vcWaiting (s : State) (v : Nat) : Nat := ((waitingOf s v).filter fun c => !canTake s c.1 c.2).length

def scanVc (s : State) (v o : Nat) : List (Nat × Nat) :=
  wordPieces o [vcStat s v, (NMap.get 0 s.rx.eg v), NMap.get 0 s.rx.ret v, vcWaiting s v, s.rx.rr]

/-- Scan record of a norm group; the last member folded is the one of highest BIDX once the partial is ready (R323). -/
def scanNorm (s : State) (g o : Nat) : List (Nat × Nat) :=
  let x := ngAt s g
  wordPieces o [(reg s (0x3D00 + 16 * g)).toNat, x.mem.length, x.sum.toNat, if x.ready then maxOf (x.mem.map (·.1)) else 0]

/-! Power, watch units, the rest -/

/-- A sub-window charge in pC. -/
def chargePc (q : Nat) : Nat := q / (800000 * 2 ^ 14)

def hintWords (h : Option Hint) : List Nat := match h with | some h => [h.level + fld h.n 16, h.lead + fld h.dur 16] | none => [0, 0]

def scanPower (s : State) (o : Nat) : List (Nat × Nat) :=
  wordPieces o (((s.pw.core.w1 ++ s.pw.arr.w1 ++ s.pw.core.w16 ++ s.pw.arr.w16).map chargePc)
    ++ [(reg s 0x4010).toNat, s.pw.step + fld s.pw.div 4, match s.pw.held with | some c => c.toNat | none => 0] ++ hintWords s.pw.hintNow)

/-- SEQ of the next flit of a capturing unit. -/
def watchSeq (s : State) (u : Nat) : Nat :=
  match slipOf s ((watchAt s u).slip - 1) with
  | some x =>
    if (watchAt s u).slip = 0 then 0
    else if regB s (wuReg u 0) 3 then x.stored
    else (slane x (wuLane s u (match (sRlanes x.words).head? with | some l => l | none => 0))).out
  | none => 0

def scanWatch (s : State) (u o : Nat) : List (Nat × Nat) :=
  wordPieces o (wuCfg s u :: ((List.range 9).map fun i => (reg s (wuReg u (4 + 4 * i))).toNat) ++ [watchSeq s u, (watchAt s u).buf.length])

def scanRest (s : State) (o : Nat) : List (Nat × Nat) :=
  wordPieces o ([(reg s 0x4814).toNat, (reg s 0x6018).toNat, (reg s 0x601C).toNat, (reg s 0x6020).toNat, s.tr.lossB.n, s.tr.lossE.n]
    ++ (List.range 4).map (sealStat s) ++ (List.range 6).map fun i => (reg s (0x28C0 + 4 * i)).toNat)

/-- R446: the regions behind the header. -/
def scanPieces (s : State) : List (Nat × Nat) :=
  let rs := heldResvs s
  region 0x40 128 64 (scanQueue s)
    ++ region 0x2040 4 64 (fun t o => [(o, (tally s t).toNat)])
    ++ region 0x2140 32 65 (scanRlane s) ++ region 0x2960 32 45 (scanWlane s)
    ++ region 0x2F00 16 100 (scanBank s)
    ++ region 0x3540 64 200 (scanPort s rs)
    ++ scanLegs s 0x6740
    ++ region 0x6B40 32 32 (scanInternal s)
    ++ region 0x6F40 32 36 (scanSlot s) ++ region 0x73C0 8 64 (scanSlotReq s)
    ++ region 0x75C0 32 64 (scanHeld s)
    ++ region 0x7DC0 64 64 (scanBucket s)
    ++ region 0x8DC0 64 16 (scanVc s)
    ++ region 0x91C0 32 8 (scanNorm s)
    ++ scanPower s 0x92C0
    ++ region 0x93C0 64 4 (scanWatch s)
    ++ scanRest s 0x94C0

/-- R446: the header but for its CRC. -/
def scanHeader (s : State) : List (Nat × Nat) :=
  let cc := (NMap.get 0 s.cnt 0x59F8).toNat - s.dbg.haltCyc
  wordPieces 0 [0x4C4D5343, 0x00100001, 38336, 0x4C4D0100, s.dbg.haltTime, s.dbg.haltTime / 2 ^ 32, cc, cc / 2 ^ 32 % 2 ^ 24,
    regF s 0x4400 1 0 + fld (b2n s.ck.relaxed) 2 + fld (b2n (regB s 0x6808 1)) 3 + fld (b2n (regB s 0x6808 2)) 4, (reg s 0x4818).toNat]

/-- R373, R446: the CRC over bytes 64 to SIZE − 1 of an image. -/
def scanCrc (m : NMap Word) : Nat := crcFin ((List.range 9568).foldl (fun c i => crcWord c (NMap.get (0 : Word) m (16 + i)).toNat) crcInit)

/-- R446: the scan-out image. -/
def scanImage (s : State) : NMap Word :=
  let m := imageOf (scanHeader s ++ scanPieces s) 9584
  NMap.set 0 m 15 (BitVec.ofNat 32 (scanCrc m))

/-! The hang snapshot (R449) -/

/-- The first unreached tally of a WAIT or of a HELD slip's next tile, with its target. -/
def unreached (s : State) (x : Slip) : Option (Nat × Nat) :=
  let w := x.words
  if sType w = 6 then (tsel w).find? fun p => !reached s p.1 p.2
  else match x.held with
    | some h =>
      let t := hAbase w + h.tiles + 1
      if h.st == 2 && hAen w && decide (h.tiles < hTiles w) && !reached s (hAtally w) t then some (hAtally w, t) else none
    | none => none

/-- The slips that wait on a tally, by queue. -/
def tallyWaiters (s : State) (t : Nat) : List Nat :=
  (s.sq.live.filter fun x => !x.ended && (match unreached s x with
    | none => false
    | some p => if sType x.words = 6 then (tsel x.words).any (fun e => e.1 == t && !reached s e.1 e.2) else p.1 == t)).map (·.q)

/-- Rows a slip has requested. -/
def rowsAsked (x : Slip) : Nat := if hasRead x.words then x.issued * sK x.words else x.wissued

/-- The most credits held on any destination lane of a slip. -/
def mostHeld (x : Slip) : Nat := maxOf ((sRlanes x.words).map fun l => (slane x l).held)

/-- Whether a transfer of the requester waits. -/
def reqWaits (s : State) (r : Nat) : Option Tr := s.fr.trs.find? fun t => t.req == r && waits t

/-- Snapshot record of a queue. -/
def hangQueue (s : State) (q o : Nat) : List (Nat × Nat) :=
  let head : Nat × Nat := match (queueOf s q).ents.head? with | some e => (sTag e.words, e.idx) | none => (0, 0)
  let tk := fld (NMap.get 0 s.arb.tkt q % 64) 21 + fld (b2n (reqWaits s q).isSome) 27
  let w : Nat × Nat := match running? s q with
    | none => (0, 0)
    | some x =>
      let asked := fld (if isData x.words then rowsAsked x % 2 ^ 24 else 0) 8
      (match unreached s x with
        | some p => (p.1 + 64 + asked, p.2)
        | none => (asked, if isData x.words then mostHeld x % 64 else 0))
  wordPieces o [sqStat s q, head.1 + fld head.2 16 + tk, w.1, w.2]

def hangTally (s : State) (t o : Nat) : List (Nat × Nat) :=
  let ws := tallyWaiters s t
  wordPieces o [(tally s t).toNat,
    ws.length + fld (minOf 0 ws) 8 + fld (b2n (!ws.isEmpty)) 14 + fld (tlyBind s t % 8) 16 + fld (tlyBind s t / 8 % 2) 19]

def hangRlane (s : State) (l o : Nat) : List (Nat × Nat) :=
  let x := rlane s l
  [(o, x.cred + fld x.landing.length 6 + fld x.dcq.length 11)]

def hangWlane (s : State) (l o : Nat) : List (Nat × Nat) :=
  let x := wlane s l
  [(o, x.staging.length + fld x.dcq.length 5 + fld (b2n (x.claim != 0)) 10)]

/-- Snapshot record of a requester. -/
def hangReq (s : State) (r o : Nat) : List (Nat × Nat) :=
  let t := reqWaits s r
  let cls := match t with | some t => trCls s t | none => 0
  let why := match t with
    | some t => (let n := if halted s && !isExempt t then 8 else waitReason s (fitTr s t); if n = 0 then (if t.preempt then 2 else 1) else n)
    | none => 0
  [(o, b2n t.isSome + fld cls 1 + fld (NMap.get 0 s.arb.tkt r % 64) 4 + fld why 10 + fld (b2n (decide (r < 174) && quarantined s r)) 14
      + fld (b2n (s.arb.cuts.any fun c => c.req == r && c.left != 0)) 15)]

/-- Snapshot record of a bank port. -/
def hangPort (s : State) (rs : List (Nat × Nat × Nat)) (k o : Nat) : List (Nat × Nat) :=
  let now := rs.find? fun r => r.1 == k && r.2.1 == s.cyc
  let next := rs.any fun r => r.1 == k && r.2.1 == s.cyc + 1
  [(o, (match now with | some r => r.2.2 % 2 ^ 14 | none => 0xFF) + fld (b2n next) 15)]

def hangVc (s : State) (v o : Nat) : List (Nat × Nat) :=
  wordPieces o [vcStat s v, vcWaiting s v % 65536 + fld (NMap.get 0 s.rx.eg v % 256) 16]

/-- Snapshot record of a queue's held delivery. -/
def hangHeld (s : State) (q o : Nat) : List (Nat × Nat) :=
  wordPieces o [hdQstate s q, match heldOf s q with
    | some (x, h) => h.tiles % 65536 + fld ((linesParked s x - rowsPassed s x / hLrows x.words) % 65536) 16
    | none => 0]

/-- Snapshot record of a blend slot. -/
def hangSlot (s : State) (k o : Nat) : List (Nat × Nat) :=
  match slipOf s (NMap.get 0 s.bl.slot k - 1) with
  | some x =>
    if slotFree s k then [(o, 0xFF)]
    else
      let l := match x.slots.find? fun p => p.2 == k with | some p => p.1 | none => 0
      let y := streamOf x l
      [(o, x.q + fld l 8 + fld (b2n (isWRITE x.words)) 15 + fld (sBlendId x.words) 16
          + fld (b2n (usesSide x.words && y.side.isEmpty && decide (y.sideN < sideTotal s x.words))) 21)]
  | none => [(o, 0xFF)]

/-- R449: the snapshot in cycle C, with its source and the queue of a watchdog report. -/
def hangImage (src q : Nat) (s : State) : NMap Word :=
  let rs := heldResvs s
  let cc := (NMap.get 0 s.cnt 0x59F8).toNat
  imageOf (
    wordPieces 0 [0x4C4D4853, src + fld q 2 + fld (b2n (halted s)) 8 + fld (regF s 0x4400 1 0) 9, timeNow s, timeNow s / 2 ^ 32, cc, cc / 2 ^ 32]
      ++ region 0x40 16 64 (hangQueue s) ++ region 0x440 8 64 (hangTally s)
      ++ region 0x640 2 65 (hangRlane s) ++ region 0x6C2 2 45 (hangWlane s)
      ++ region 0x740 2 206 (hangReq s) ++ region 0x940 2 200 (hangPort s rs)
      ++ region 0xB40 8 16 (hangVc s)
      ++ wordPieces 0xBC0 ([hdStatus s, hdWait s] ++ (List.range 8).map (hdUseWord s))
      ++ region 0xC00 8 64 (hangHeld s)
      ++ region 0xE00 4 36 (hangSlot s) ++ wordPieces 0xE90 [blStatus s]
      ++ region 0xF00 4 64 (fun b o => wordPieces o [bStat s b])) 1024

end Sys2Proof.Machine
end

