-- ==== Sys2Proof/Machine/Stop.lean ====
section
/-!
DEFINITION. Machine/Stop.lean: global stop and local halt (R440 to R445), scan-out (R446, R447), full bank readout (R448), hang snapshots
(R449), the no-progress watchdog (R284).
-/
namespace Sys2Proof.Machine

/-! Hang snapshots (R449) -/

/-- R449: a capture source: 0 command, 1 watchdog with its queue, 2 halt. It is ignored while a snapshot is held. -/
def captureHang (src q : Nat) (s : State) : State :=
  if regB s 0x6904 0 then s
  else
    let m := hangImage src q s
    setReg 0x6904 ((reg s 0x6904 &&& 8) ||| BitVec.ofNat 32 (1 + fld src 1 + (if src = 1 then fld q 4 else 0)))
      { s with dbg := { s.dbg with hang := m } }

/-- R449: LMY_HS_CMD.CAPTURE. -/
def commandHang (s : State) : State := if regB s 0x6904 0 then orReg 0x6904 8 s else captureHang 0 0 s

/-- HANG_CAPTURE (R449). -/
def execHangCapture (a : BusAcc) (s : State) : Host.Outcome State Fault Refusal := .next (busWrite a 0x6900 commandHang s)

/-- R449: LMY_HS_CMD.RELEASE. -/
def releaseHang (s : State) : State := clrReg 0x6904 1 s

/-- HANG_RELEASE (R449). -/
def execHangRelease (a : BusAcc) (s : State) : Host.Outcome State Fault Refusal := .next (busWrite a 0x6900 releaseHang s)

/-- The word register of a window after a read: with AUTOINC it advances, from `n` − 1 to 0. -/
def advanceWord (o hi n : Nat) (s : State) : State :=
  if regB s o 16 then setRegF o hi 0 ((regF s o hi 0 + 1) % n) s else s

/-- HS_DATA_READ (R449). -/
def execHsDataRead (a : BusAcc) (s : State) : Host.Outcome State Fault Refusal :=
  .next (busRead a 0x690C (fun s => beforeLoad s fun s =>
    (if regB s 0x6904 0 then NMap.get 0 s.dbg.hang (regF s 0x6908 9 0) else 0, advanceWord 0x6908 9 1024 s)) s)

/-! Stop (R440 to R444) -/

/-- R443: the request channels are served again. -/
def drainChans (s : State) : State := forEach (s.fr.ch.map (·.1)) (fun k => drainChan (decide (100 ≤ k)) (k % 100)) s

/-- STOP_ASSERT (R440). -/
def execStopAssert (s : State) : Host.Outcome State Fault Refusal := .next { s with dbg := { s.dbg with stopIn := true } }

/-- STOP_DEASSERT (R444). -/
def execStopDeassert (s : State) : Host.Outcome State Fault Refusal :=
  .next (clrReg 0x6808 2 { s with dbg := { s.dbg with stopIn := false, armed := true } })

/-- R441: the credits that engines gave up in the halt return. -/
def payCredits (s : State) : State :=
  { s with fr := { s.fr with rl := s.fr.rl.map fun e => (e.1, { e.2 with cred := e.2.cred + e.2.owe, owe := 0 }) } }

/-- R440: lmy_stop is seen as a new stop. -/
def stopSeen (s : State) : Bool := s.dbg.stopIn && s.dbg.armed

/-- R440: EXT; the stop now seen begins no other (R444). -/
def markExt (s : State) : State := when (stopSeen s) (fun s => orReg 0x6808 2 { s with dbg := { s.dbg with armed := false } }) s

/-- R441, R444, R449, R490: the halt cycle. -/
def enterHalt (s : State) : State :=
  let s := orReg 0x6808 1 (markExt s)
  let s := { s with dbg := { s.dbg with haltCyc := 0, haltCnt := 0, haltTime := timeNow s } }
  setReg 0x680C (BitVec.ofNat 32 (min ((reg s 0x680C).toNat + 1) (2 ^ 32 - 1))) s
    |> genRec (mkRec 6 0 0 0 ((NMap.get 0 s.cnt 0x59F8).toNat % 2 ^ 32) [] 0 s) false
    |> raise 52
    |> when (regB s 0x6008 0) (traceTrigger 1 0)
    |> when (regB s 0x6910 1) (captureHang 2 0)

/-- HALT (R366, R440, R441, R444, R445): a stop or a local halt takes effect; one that overlaps a halt extends it. -/
def execHalt (s : State) : Host.Outcome State Fault Refusal :=
  .next (
    if !loaded s || !(stopSeen s || regB s 0x6808 2) then s
    else if halted s then markExt s
    else enterHalt s)

/-- BLOCK_RESUME (R443, R444). -/
def execBlockResume (s : State) : Host.Outcome State Fault Refusal :=
  .next (
    if !loaded s || !halted s || regB s 0x6808 1 || regB s 0x6808 2 || stopSeen s || decide (s.dbg.haltCyc < 16) || s.dbg.capturing then s
    else
      clrReg 0x6808 9 s
        |> genRec (mkRec 7 0 0 0 ((NMap.get 0 s.cnt 0x59F8).toNat % 2 ^ 32 + fld (min s.dbg.haltCnt (2 ^ 32 - 1)) 32) [] 0 s) false
        |> drainChans |> payCredits |> resumeCancels)

/-- R444: the stuck-stop limit in TCLK; none: no limit. -/
def stuckLimit (s : State) : Option Nat :=
  let l := regF s 0x6800 4 0
  if l = 0 then none else some (2 ^ (if 10 ≤ l ∧ l ≤ 30 then l else 24))

/-- STOP_STUCK (R444). -/
def execStopStuck (s : State) : Host.Outcome State Fault Refusal :=
  .next (
    match stuckLimit s with
    | none => s
    | some n =>
      if loaded s && halted s && regB s 0x6808 1 && !regB s 0x6808 3 && decide (n ≤ s.dbg.haltCnt) then orReg 0x6808 8 s |> raise 53 else s)

/-- R445: LMY_STOP_CMD.HALT and RUN. -/
def setLocal (s : State) : State := orReg 0x6808 4 s
def clearLocal (s : State) : State := clrReg 0x6808 0x14 s

/-- LOCAL_HALT (R445). -/
def execLocalHalt (a : BusAcc) (s : State) : Host.Outcome State Fault Refusal := .next (busWrite a 0x6804 setLocal s)

/-- LOCAL_RUN (R445). -/
def execLocalRun (a : BusAcc) (s : State) : Host.Outcome State Fault Refusal := .next (busWrite a 0x6804 clearLocal s)

/-! Scan-out (R446, R447) -/

/-- R446: LMY_SCAN_CMD.CAPTURE. -/
def startScan (s : State) : State :=
  if s.dbg.capturing then s
  else if halted s && regB s 0x4B04 3 then
    setReg 0x6814 ((reg s 0x6814 &&& 4) ||| 1) { s with dbg := { s.dbg with capturing := true, scan := [] } }
  else orReg 0x6814 4 s

/-- SCAN_CAPTURE (R446). -/
def execScanCapture (a : BusAcc) (s : State) : Host.Outcome State Fault Refusal := .next (busWrite a 0x6810 startScan s)

/-- SCAN_CAPTURE_DONE (R446). -/
def execScanCaptureDone (s : State) : Host.Outcome State Fault Refusal :=
  .next (
    if inReset s || !s.dbg.capturing then s
    else
      setReg 0x6814 ((reg s 0x6814 &&& 4) ||| BitVec.ofNat 32 (2 + fld 599 16))
        { s with dbg := { s.dbg with capturing := false, scan := scanImage s } })

/-- SCAN_DATA_READ (R447). -/
def execScanDataRead (a : BusAcc) (s : State) : Host.Outcome State Fault Refusal :=
  .next (busRead a 0x681C (fun s => beforeLoad s fun s =>
    (if regB s 0x4B04 3 && regF s 0x6814 1 0 == 2 then NMap.get 0 s.dbg.scan (regF s 0x6818 13 0) else 0, advanceWord 0x6818 13 12288 s)) s)

/-! Full bank readout (R448) -/

/-- R448: a write of LMY_BRD_ADDR: IR19 asks for the row. -/
def startReadout (w : Word) (s : State) : State :=
  let v := w.toNat
  let b := bits v 22 16
  let ok := if bit v 23 then decide (b < 100) else decide (b < 96)
  if !regB s 0x4B04 4 || regB s 0x6824 0 || !ok then orReg 0x6824 4 s
  else
    addTr (exchTr s 193 false .bankRd (icls s 7) (rowBeat (if bit v 23 then (lbankOf s b).getD (128 + b) else b) (bits v 8 0)))
        { s with dbg := { s.dbg with brd := some (if bit v 23 then b else pbankOf s b, bits v 8 0) } }
      |> setReg 0x6820 (w &&& 0x00FF01FF) |> setRegF 0x6824 1 0 1

/-- BANK_READOUT (R448). -/
def execBankReadout (a : BusAcc) (w : Word) (s : State) : Host.Outcome State Fault Refusal := .next (busWrite a 0x6820 (startReadout w) s)

/-- R448: the row has been read: its flit and its corrected chunks. -/
def finishBrd (r : Row × Mask4) (corr : Mask4) (s : State) : State :=
  setRowRegs 0x6880 r.1 { s with dbg := { s.dbg with brd := none } }
    |> setReg 0x6824 ((reg s 0x6824 &&& 4) ||| BitVec.ofNat 32 (2 + fld r.2.toNat 4 + fld corr.toNat 8))

/-- BANK_READOUT_DONE (R448): the row that IR19 has read arrives. `ups` are bits of the row that have flipped since. -/
def execBankReadoutDone (ups : List Upset) (s : State) : Host.Outcome State Fault Refusal :=
  .next (
    if inReset s then s
    else match readoutOf s .bankRd with
      | some (t, b) =>
        dropTr t.id s |> when (b.bad = 0) (strikeRow (pbankOf s b.bank) b.row ups) |> finishBrd b.flit (if b.bad = 0 then b.en else 0)
      | none => s)

/-! The watchdog (R284) -/

/-- R284: the limit of a queue's executing slip in TCLK; none: it is not watched. -/
def watchLimit (s : State) (x : Slip) : Option Nat :=
  let l := if isGate x.words then regF s 0x3004 12 8 else regF s 0x3004 4 0
  if l = 0 then none else some (2 ^ max 10 (min 30 l))

/-- WATCHDOG_EXPIRY (R284, R449). -/
def execWatchdogExpiry (q : BitVec 6) (s : State) : Host.Outcome State Fault Refusal :=
  .next (
    let q := q.toNat
    match running? s q with
    | none => s
    | some x => match watchLimit s x with
      | none => s
      | some n =>
        if !running s || (queueOf s q).wdog || decide ((queueOf s q).quiet < n) then s
        else
          updQueue q (fun y => { y with wdog := true }) s |> slipLog 2 q (queueOf s q).stall x.words x.ent
            |> bump (0x57A0 + 0x40 * (sCtx x.words % 8)) 1 |> raise 26
            |> when (regB s 0x6910 0) (captureHang 1 q))

end Sys2Proof.Machine
end

