-- ==== Sys2Proof/Machine/Regs.lean ====
section
/-!
DEFINITION. Machine/Regs.lean: a service-bus write to any register (R13, R14, R496, R498): by its offset it stores, clears or sets bits, is
ignored, or starts the work that the registers with a command of their own start.
-/
namespace Sys2Proof.Machine

/-- R14: a write of a W1C register: the bits of `m` that are 1 in `w` are cleared. -/
def w1c (o m : Nat) (w : Word) (s : State) : State := setReg o (reg s o &&& ~~~ (w &&& BitVec.ofNat 32 m)) s

/-- A write of an RW register whose writable bits are `m`. -/
def store (o m : Nat) (w : Word) (s : State) : State := setReg o (w &&& BitVec.ofNat 32 m) s

/-- Offset `o` is one of `n` words `stride` apart from `lo`. -/
def within (o lo n stride : Nat) : Bool := decide (lo ≤ o) && decide (o < lo + n * stride) && (o - lo) % stride == 0

/-- R14: RW registers without behaviour of their own, with their writable bits. -/
def plainMask (o : Nat) : Option Nat :=
  if o = 0x0800 then some 0xF1
  else if within o 0x1A40 16 4 then some 0xFFFFFFFF
  else if o = 0x3004 then some 0x1F1F
  else if within o 0x3040 8 4 then some 0xFFFFFFFF
  else if within o 0x3108 64 16 then some 0x3F0F
  else if within o 0x3500 128 4 then some 0xFFFFFFFF
  else if within o 0x3700 64 4 then some 0xFFFFFFFF
  else if within o 0x3D04 8 16 then some 0xFFFFFFFF
  else if o = 0x4008 ∨ o = 0x400C then some 0xFFFFFFFF
  else if o = 0x6004 then some 0x3FFF
  else if o = 0x6008 then some 0xFFFF03F7
  else if o = 0x600C then some 0xFFFF
  else if o = 0x6048 ∨ o = 0x6800 then some 0x1F
  else if o = 0x6818 then some 0x13FFF
  else if o = 0x6908 then some 0x103FF
  else if o = 0x6910 then some 3
  else if within o 0x7008 4 4 then some 0xFFFFFFFF
  else if o = 0x7040 then some 0x1FFFFFF
  else if o = 0x7044 then some 0xFFFFF
  else if o = 0x8000 then some 0x1FF3F
  else if o = 0xA000 then some 0x113F03FF
  else none

/-- R14: registers with W1C bits, and those bits. -/
def w1cMask (o : Nat) : Option Nat :=
  if within o 0x08C0 3 4 || within o 0x1A00 8 4 || within o 0x2040 8 4 || within o 0x7000 2 4 || o == 0x4404 then some 0xFFFFFFFF
  else if o = 0x2404 then some 0x40000000
  else if o = 0x4004 then some 0x3800
  else if o = 0x4814 then some 0xC00
  else if o = 0x4B04 then some 0x80
  else if o = 0x6014 then some 0x80
  else if o = 0x604C ∨ o = 0x6814 ∨ o = 0x6824 ∨ o = 0x6B14 then some 4
  else if o = 0x6904 then some 8
  else if within o 0x6A1C 4 64 then some 0xC0
  else if o = 0x704C then some 0x800000
  else if o = 0x8008 ∨ o = 0xA008 then some 3
  else none

/-- R59: the first words of the error logs. -/
def logRegs : List Nat := [0x0810, 0x0818, 0x1300, 0x1810, 0x1818, 0x28A0, 0x3008, 0x3818, 0x4804, 0x7018]

/-- R283: LMY_SQ_CMD. -/
def commandQueue (w : Word) (s : State) : State :=
  let q := bits w.toNat 5 0
  match bits w.toNat 10 8 with
  | 1 => resumeQueue q s
  | 2 => skipQueue q s
  | 3 => flushQueue q s
  | 4 => pauseQueue q s
  | _ => s

/-- R307, R309: LMY_RDX_CMD. -/
def commandBucket (l : Nat) (w : Word) (s : State) : State :=
  let b := bits w.toNat 5 0
  match bits w.toNat 9 8 with
  | 1 => armBucket l b s
  | 2 => abortBucket l b s
  | _ => s

/-- R327: a write of a parameter word of set `p`. -/
def writeParam (p o : Nat) (w : Word) (s : State) : State :=
  if (List.range 64).any fun b => (bktAt s b).st == 3 && dOps (bktAt s b).desc == p then orReg 0x380C 0x10 s else setReg o w s

/-- R390: a write of staging word `n`. -/
def writeStaging (n : Nat) (w : Word) (s : State) : State :=
  if n = 0 ∨ protState s ≠ 0 ∨ s.pr.computing then orReg 0x4814 0x400 s else setReg (0x4900 + 4 * n) w s

/-- LMY_PROT_CMD. -/
def commandProt (w : Word) (s : State) : State :=
  match bits w.toNat 1 0 with
  | 1 => propose s
  | 2 => cancelProposal s
  | 3 => rekeyCtx (bits w.toNat 6 4) s
  | _ => s

/-- R405: LMY_SEALl_STAT.FAIL. -/
def clearFail (l : Nat) (w : Word) (s : State) : State := when (bit w.toNat 2) (fun s => setSeal l { sealAt s l with fail := false } s) s

/-- LMY_TR_CMD: its bits in order. -/
def commandTrace (w : Word) (s : State) : State :=
  when (bit w.toNat 0) (traceTrigger 0 0) s |> when (bit w.toNat 1) (writeTrace true) |> when (bit w.toNat 2) rearmTrace
    |> when (bit w.toNat 3) (genTime 0 0)

/-- R462, R463, R470, R475: LMY_FWD_CMD. -/
def commandFwd (w : Word) (s : State) : State :=
  match bits w.toNat 2 0 with
  | 1 => commandForward (bits w.toNat 6 4) (bits w.toNat 19 8) s
  | 2 => commandCancel s
  | 3 => commandAck s
  | 4 => commandResume s
  | _ => s

/-- Bits [15:0] of LMY_SQq_FPTR: FTAIL. -/
def writeFptr (o : Nat) (w : Word) (s : State) : State := setRegF o 15 0 (bits w.toNat 15 0) s

/-- Registers of chapters 2 to 10 that do more than hold bits. -/
def effectLow (l o : Nat) (w : Word) (s : State) : State :=
  if within o 0x0840 12 4 then requestBanks ((o - 0x0840) / 4) w s
  else if o = 0x2450 then cancelHeld l w s
  else if o = 0x28E0 then writeQrel w s
  else if o = 0x3010 then commandQueue w s
  else if o = 0x3014 then tallyAdd 1 (bits w.toNat 5 0) s
  else if within o 0x310C 64 16 then writeFptr o w s
  else s

/-- Registers of chapters 12 to 15. -/
def effectMid (l o : Nat) (w : Word) (s : State) : State :=
  if o = 0x3808 then commandBucket l w s
  else if o = 0x380C then (if bktMine s l (regF s 0x380C 13 8) then w1c 0x380C 0x11 w s else s)
  else if o = 0x3810 then { s with bus := { s.bus with baddr := NMap.set 0 s.bus.baddr l (w &&& 0x13F0F) } }
  else if o = 0x3814 then writeBdata l w s
  else if within o 0x3D00 8 16 then writeNgctl ((o - 0x3D00) / 16) w s
  else if within o 0x3E00 64 4 then writeParam ((o - 0x3E00) / 32) o w s
  else if o = 0x40A0 then requestDomains w s
  else if o = 0x440C then writeRstCtl w s
  else if o = 0x4810 then commandProt w s
  else if o = 0x4820 ∨ o = 0x4828 then writeDigestLo (o == 0x4828) w s
  else if o = 0x4824 ∨ o = 0x482C then completeDigest (o == 0x482C) w s
  else if within o 0x4880 4 32 then writeSealCfg ((o - 0x4880) / 32) w s
  else if within o 0x4884 4 32 then clearFail ((o - 0x4884) / 32) w s
  else if decide (0x48C0 ≤ o) && decide (o < 0x4900) then setReg o w s
  else if within o 0x4900 88 4 then writeStaging ((o - 0x4900) / 4) w s
  else if o = 0x4B00 then unlock w s |> relock w
  else s

/-- Registers of chapters 16 to 18, the tables and the queue windows. -/
def effectHigh (a : BusAcc) (o : Nat) (w : Word) (s : State) : State :=
  let l := lvl a
  if o = 0x5F00 then writeXcCtl w s
  else if o = 0x5F04 then { s with bus := { s.bus with xcSel := NMap.set 0 s.bus.xcSel l (w &&& 0x10FFF) } }
  else if o = 0x6000 then writeTraceCtl w s
  else if o = 0x6010 then commandTrace w s
  else if o = 0x601C then writeRptr w s
  else if o = 0x6804 then when (bit w.toNat 0) setLocal s |> when (bit w.toNat 1) clearLocal
  else if o = 0x6810 then when (bit w.toNat 0) startScan s
  else if o = 0x6820 then startReadout w s
  else if o = 0x6900 then when (bit w.toNat 0) commandHang s |> when (bit w.toNat 1) releaseHang
  else if within o 0x6A00 4 64 then writeWuCfg ((o - 0x6A00) / 64) w s
  else if decide (0x6A04 ≤ o) && decide (o < 0x6B00) then
    (if (o - 0x6A00) % 64 ≤ 0x18 then writeWuReg ((o - 0x6A00) / 64) ((o - 0x6A00) % 64) w s else s)
  else if o = 0x6B00 then writeWuOwn w s
  else if o = 0x6B10 then writeRdaddr l w s
  else if o = 0x7048 then commandFwd w s
  else if o = 0x8004 then writePtData w s
  else if within o 0x8020 8 4 then writePtValid ((o - 0x8020) / 4) w s
  else if o = 0xA004 then writeBtData w s
  else if within o 0xA020 2 4 then writePsValid ((o - 0xA020) / 4) w s
  else if o = 0xA060 then writeTblValid w s
  else if decide (0xC000 ≤ o) && decide ((o - 0xC000) % 256 < 60) then writeStage a ((o - 0xC000) / 256) ((o - 0xC000) % 256 / 4) w s
  else if decide (0xC000 ≤ o) && (o - 0xC000) % 256 == 60 then commitSlip a ((o - 0xC000) / 256) w s
  else s

/-- The effect of a permitted write. -/
def regWrite (a : BusAcc) (o : Nat) (w : Word) (s : State) : State :=
  match plainMask o, w1cMask o with
  | some m, _ => store o m w s
  | none, some m => w1c o m w s
  | none, none =>
    if logRegs.contains o then clearLog o w s
    else if o < 0x3800 then effectLow (lvl a) o w s
    else if o < 0x5000 then effectMid (lvl a) o w s
    else effectHigh a o w s

/-- R498: the items that a written field names: queues and tallies of another context are refused. -/
def namesMine (a : BusAcc) (o : Nat) (w : Word) (s : State) : Bool :=
  if o = 0x3010 then cmdMine a (bits w.toNat 5 0) s
  else if o = 0x3014 then lvl a == 0 || tlyBind s (bits w.toNat 5 0) % 8 == lvl a
  else true

/-- Reads that have a command of their own. -/
def ownRead (o : Nat) : Bool := [0x3814, 0x5F08, 0x5F0C, 0x6040, 0x681C, 0x690C, 0x8004, 0xA004].contains o

/-- COUNTER_LOW_READ (R15, R386): `off` is a counter's low word. At the offset of another register without a read command of its own it is
that register's read (DESIGN CHOICE, log entry 80). -/
def execCounterLowRead (a : BusAcc) (off : BitVec 16) (s : State) : Host.Outcome State Fault Refusal :=
  .next (
    let o := off.toNat
    if (cntCode s o).isSome then busRead a o (fun s => latchCounter (lvl a) (NMap.get 0 s.cnt o) s) s
    else if ownRead o then s
    else busRead a o (fun s => (BitVec.ofNat 32 (readReg s (lvl a) a.init.toNat o), s)) s)

/-- REGISTER_WRITE (R11, R13, R14, R386, R496, R498). -/
def execRegisterWrite (a : BusAcc) (off : BitVec 16) (w : Word) (s : State) : Host.Outcome State Fault Refusal :=
  .next (busWriteFor a off.toNat (namesMine a off.toNat w) (regWrite a off.toNat w) s)

end Sys2Proof.Machine
end

