-- ==== Sys2Proof/Machine/Dispatch.lean ====
section
/-! DEFINITION. Machine/Dispatch.lean: one arm for each command, each one direct call of its meaning. -/
namespace Sys2Proof.Machine

def exec (i : Instr) (s : State) : Host.Outcome State Fault Refusal :=
  match i with
  | .powerOnResetAssert => Sys2Proof.Machine.execPowerOnResetAssert s
  | .powerOnResetRelease part tile field => Sys2Proof.Machine.execPowerOnResetRelease part tile field s
  | .tileResetAssert => Sys2Proof.Machine.execTileResetAssert s
  | .tileResetRelease part tile => Sys2Proof.Machine.execTileResetRelease part tile s
  | .softwareTileReset a w => Sys2Proof.Machine.execSoftwareTileReset a w s
  | .softwareResetEnd part tile => Sys2Proof.Machine.execSoftwareResetEnd part tile s
  | .cfgRequest => Sys2Proof.Machine.execCfgRequest s
  | .cfgWord w => Sys2Proof.Machine.execCfgWord w s
  | .waybillCheck => Sys2Proof.Machine.execWaybillCheck s
  | .loadTimeout => Sys2Proof.Machine.execLoadTimeout s
  | .registerWrite a off w => Sys2Proof.Machine.execRegisterWrite a off w s
  | .counterLowRead a off => Sys2Proof.Machine.execCounterLowRead a off s
  | .timeLowRead a => Sys2Proof.Machine.execTimeLowRead a s
  | .xcLoRead a => Sys2Proof.Machine.execXcLoRead a s
  | .xcHiRead a => Sys2Proof.Machine.execXcHiRead a s
  | .xcClear a w => Sys2Proof.Machine.execXcClear a w s
  | .ownReadRequest onWr lane rq => Sys2Proof.Machine.execOwnReadRequest onWr lane rq s
  | .ownWriteRequest onWr lane rq => Sys2Proof.Machine.execOwnWriteRequest onWr lane rq s
  | .ownAtomicRequest onWr lane rq => Sys2Proof.Machine.execOwnAtomicRequest onWr lane rq s
  | .writeFlitTaken lane data sb => Sys2Proof.Machine.execWriteFlitTaken lane data sb s
  | .dcqCrossing kind lane => Sys2Proof.Machine.execDcqCrossing kind lane s
  | .writeFlitToStaging lane par => Sys2Proof.Machine.execWriteFlitToStaging lane par s
  | .readFlitTake lane => Sys2Proof.Machine.execReadFlitTake lane s
  | .landingToDcq lane => Sys2Proof.Machine.execLandingToDcq lane s
  | .laneIssue => Sys2Proof.Machine.execLaneIssue s
  | .writeTransferRequest lane => Sys2Proof.Machine.execWriteTransferRequest lane s
  | .decision tclk => Sys2Proof.Machine.execDecision tclk s
  | .arrayRead bank port ups => Sys2Proof.Machine.execArrayRead bank port ups s
  | .arrayWrite bank port par => Sys2Proof.Machine.execArrayWrite bank port par s
  | .atomicExecute bank port ups par => Sys2Proof.Machine.execAtomicExecute bank port ups par s
  | .writeBack bank => Sys2Proof.Machine.execWriteBack bank s
  | .readFlitOutput lane par blpar => Sys2Proof.Machine.execReadFlitOutput lane par blpar s
  | .holdLimitCutoff bank port => Sys2Proof.Machine.execHoldLimitCutoff bank port s
  | .cutoffEnd bank req => Sys2Proof.Machine.execCutoffEnd bank req s
  | .quarantine req => Sys2Proof.Machine.execQuarantine req s
  | .quarantineTimeout req => Sys2Proof.Machine.execQuarantineTimeout req s
  | .quarantineRelease a w => Sys2Proof.Machine.execQuarantineRelease a w s
  | .shareRefill => Sys2Proof.Machine.execShareRefill s
  | .slipCommit a q w => Sys2Proof.Machine.execSlipCommit a q w s
  | .fetchOrder q => Sys2Proof.Machine.execFetchOrder q s
  | .slipDecode q => Sys2Proof.Machine.execSlipDecode q s
  | .nop q => Sys2Proof.Machine.execNop q s
  | .read q => Sys2Proof.Machine.execRead q s
  | .write q => Sys2Proof.Machine.execWrite q s
  | .move q => Sys2Proof.Machine.execMove q s
  | .held q => Sys2Proof.Machine.execHeld q s
  | .atomic q => Sys2Proof.Machine.execAtomic q s
  | .wait q => Sys2Proof.Machine.execWait q s
  | .waitReached q => Sys2Proof.Machine.execWaitReached q s
  | .signal q => Sys2Proof.Machine.execSignal q s
  | .mark q => Sys2Proof.Machine.execMark q s
  | .hint q => Sys2Proof.Machine.execHint q s
  | .fence q => Sys2Proof.Machine.execFence q s
  | .fenceMet q => Sys2Proof.Machine.execFenceMet q s
  | .step q => Sys2Proof.Machine.execStep q s
  | .slipEnd q => Sys2Proof.Machine.execSlipEnd q s
  | .queueResume a q => Sys2Proof.Machine.execQueueResume a q s
  | .queueSkip a q => Sys2Proof.Machine.execQueueSkip a q s
  | .queueFlush a q => Sys2Proof.Machine.execQueueFlush a q s
  | .queuePause a q => Sys2Proof.Machine.execQueuePause a q s
  | .watchdogExpiry q => Sys2Proof.Machine.execWatchdogExpiry q s
  | .tallyInc a t => Sys2Proof.Machine.execTallyInc a t s
  | .tallyWrite a t w incs => Sys2Proof.Machine.execTallyWrite a t w incs s
  | .blendSlotAlloc => Sys2Proof.Machine.execBlendSlotAlloc s
  | .vectorLoadDone q => Sys2Proof.Machine.execVectorLoadDone q s
  | .holdReservation => Sys2Proof.Machine.execHoldReservation s
  | .tileAdmit q => Sys2Proof.Machine.execTileAdmit q s
  | .tileRelease q => Sys2Proof.Machine.execTileRelease q s
  | .statsReady q par => Sys2Proof.Machine.execStatsReady q par s
  | .redeliveryStart q => Sys2Proof.Machine.execRedeliveryStart q s
  | .holdRelease q => Sys2Proof.Machine.execHoldRelease q s
  | .heldCancel a w => Sys2Proof.Machine.execHeldCancel a w s
  | .heldCancelEnd q => Sys2Proof.Machine.execHeldCancelEnd q s
  | .ptDataWrite a w => Sys2Proof.Machine.execPtDataWrite a w s
  | .ptDataRead a => Sys2Proof.Machine.execPtDataRead a s
  | .ptValidWrite a n w => Sys2Proof.Machine.execPtValidWrite a n w s
  | .btDataWrite a w => Sys2Proof.Machine.execBtDataWrite a w s
  | .btDataRead a => Sys2Proof.Machine.execBtDataRead a s
  | .psvalidWrite a n w => Sys2Proof.Machine.execPsvalidWrite a n w s
  | .tblvalidWrite a w => Sys2Proof.Machine.execTblvalidWrite a w s
  | .bankPreqWrite a n w => Sys2Proof.Machine.execBankPreqWrite a n w s
  | .bankPowerupStart bank => Sys2Proof.Machine.execBankPowerupStart bank s
  | .bankPowerdownStart bank => Sys2Proof.Machine.execBankPowerdownStart bank s
  | .bankTransitionDone bank => Sys2Proof.Machine.execBankTransitionDone bank s
  | .domainReqWrite a w => Sys2Proof.Machine.execDomainReqWrite a w s
  | .domainPowerdownStart dom => Sys2Proof.Machine.execDomainPowerdownStart dom s
  | .domainPowerupStart dom => Sys2Proof.Machine.execDomainPowerupStart dom s
  | .domainTransitionDone dom => Sys2Proof.Machine.execDomainTransitionDone dom s
  | .subwindowBoundary => Sys2Proof.Machine.execSubwindowBoundary s
  | .estimateMessage => Sys2Proof.Machine.execEstimateMessage s
  | .calIntervalEnd => Sys2Proof.Machine.execCalIntervalEnd s
  | .calibration msg => Sys2Proof.Machine.execCalibration msg s
  | .levelCommand msg => Sys2Proof.Machine.execLevelCommand msg s
  | .clockSwitch => Sys2Proof.Machine.execClockSwitch s
  | .lockTimeout => Sys2Proof.Machine.execLockTimeout s
  | .substepApply => Sys2Proof.Machine.execSubstepApply s
  | .hintWindowEnd => Sys2Proof.Machine.execHintWindowEnd s
  | .pcMessageTaken kind => Sys2Proof.Machine.execPcMessageTaken kind s
  | .intakeFlit lane => Sys2Proof.Machine.execIntakeFlit lane s
  | .combine vc => Sys2Proof.Machine.execCombine vc s
  | .vcCreditReturn vc => Sys2Proof.Machine.execVcCreditReturn vc s
  | .egressCreditReturn vc count => Sys2Proof.Machine.execEgressCreditReturn vc count s
  | .bdataWrite a w => Sys2Proof.Machine.execBdataWrite a w s
  | .bdataRead a => Sys2Proof.Machine.execBdataRead a s
  | .arm a bucket => Sys2Proof.Machine.execArm a bucket s
  | .abort a bucket => Sys2Proof.Machine.execAbort a bucket s
  | .normPassEnd bucket => Sys2Proof.Machine.execNormPassEnd bucket s
  | .ngctlWrite a g w => Sys2Proof.Machine.execNgctlWrite a g w s
  | .updateFlit bucket => Sys2Proof.Machine.execUpdateFlit bucket s
  | .resultSend bucket => Sys2Proof.Machine.execResultSend bucket s
  | .propose a => Sys2Proof.Machine.execPropose a s
  | .cancel a => Sys2Proof.Machine.execCancel a s
  | .rekey a ctx => Sys2Proof.Machine.execRekey a ctx s
  | .digestComplete a off w => Sys2Proof.Machine.execDigestComplete a off w s
  | .commitWindowExpiry => Sys2Proof.Machine.execCommitWindowExpiry s
  | .commitApply => Sys2Proof.Machine.execCommitApply s
  | .sealArm a l w => Sys2Proof.Machine.execSealArm a l w s
  | .sealActive l => Sys2Proof.Machine.execSealActive l s
  | .unlock a w => Sys2Proof.Machine.execUnlock a w s
  | .relock a w => Sys2Proof.Machine.execRelock a w s
  | .purgeComplete => Sys2Proof.Machine.execPurgeComplete s
  | .beacon tb => Sys2Proof.Machine.execBeacon tb s
  | .beaconLoss => Sys2Proof.Machine.execBeaconLoss s
  | .tclkStall => Sys2Proof.Machine.execTclkStall s
  | .tclkResume => Sys2Proof.Machine.execTclkResume s
  | .timeSync => Sys2Proof.Machine.execTimeSync s
  | .collect => Sys2Proof.Machine.execCollect s
  | .traceRowWrite => Sys2Proof.Machine.execTraceRowWrite s
  | .traceRowTimeout => Sys2Proof.Machine.execTraceRowTimeout s
  | .traceFreeze => Sys2Proof.Machine.execTraceFreeze s
  | .traceTrig a => Sys2Proof.Machine.execTraceTrig a s
  | .traceFlush a => Sys2Proof.Machine.execTraceFlush a s
  | .traceRearm a => Sys2Proof.Machine.execTraceRearm a s
  | .traceSync a => Sys2Proof.Machine.execTraceSync a s
  | .traceRptrWrite a w => Sys2Proof.Machine.execTraceRptrWrite a w s
  | .traceEnable a w => Sys2Proof.Machine.execTraceEnable a w s
  | .traceDisable a w => Sys2Proof.Machine.execTraceDisable a w s
  | .egressSlotTaken => Sys2Proof.Machine.execEgressSlotTaken s
  | .stopAssert => Sys2Proof.Machine.execStopAssert s
  | .halt => Sys2Proof.Machine.execHalt s
  | .blockResume => Sys2Proof.Machine.execBlockResume s
  | .stopStuck => Sys2Proof.Machine.execStopStuck s
  | .localHalt a => Sys2Proof.Machine.execLocalHalt a s
  | .localRun a => Sys2Proof.Machine.execLocalRun a s
  | .scanCapture a => Sys2Proof.Machine.execScanCapture a s
  | .scanCaptureDone => Sys2Proof.Machine.execScanCaptureDone s
  | .scanDataRead a => Sys2Proof.Machine.execScanDataRead a s
  | .bankReadout a w => Sys2Proof.Machine.execBankReadout a w s
  | .bankReadoutDone ups => Sys2Proof.Machine.execBankReadoutDone ups s
  | .hangCapture a => Sys2Proof.Machine.execHangCapture a s
  | .hangRelease a => Sys2Proof.Machine.execHangRelease a s
  | .hsDataRead a => Sys2Proof.Machine.execHsDataRead a s
  | .watchArm a u w => Sys2Proof.Machine.execWatchArm a u w s
  | .watchDisarm a u w => Sys2Proof.Machine.execWatchDisarm a u w s
  | .watchReadout a w => Sys2Proof.Machine.execWatchReadout a w s
  | .watchReadoutDone => Sys2Proof.Machine.execWatchReadoutDone s
  | .fwdWindowEnd => Sys2Proof.Machine.execFwdWindowEnd s
  | .storm => Sys2Proof.Machine.execStorm s
  | .fwdStart kind => Sys2Proof.Machine.execFwdStart kind s
  | .migrationCopyStart => Sys2Proof.Machine.execMigrationCopyStart s
  | .copyRow ups => Sys2Proof.Machine.execCopyRow ups s
  | .migrationSwitch => Sys2Proof.Machine.execMigrationSwitch s
  | .planeForwardDone => Sys2Proof.Machine.execPlaneForwardDone s
  | .clusterRetire => Sys2Proof.Machine.execClusterRetire s
  | .statrowSubstitute => Sys2Proof.Machine.execStatrowSubstitute s
  | .forward a kind unit => Sys2Proof.Machine.execForward a kind unit s
  | .fwdCancel a => Sys2Proof.Machine.execFwdCancel a s
  | .ack a => Sys2Proof.Machine.execAck a s
  | .resumeauto a => Sys2Proof.Machine.execResumeauto a s
  | .proposalDigestReady => Sys2Proof.Machine.execProposalDigestReady s
  | .timeHoldEnd => Sys2Proof.Machine.execTimeHoldEnd s
  | .stopDeassert => Sys2Proof.Machine.execStopDeassert s
  | .clockLockFall => Sys2Proof.Machine.execClockLockFall s
  | .stormWindowEnd => Sys2Proof.Machine.execStormWindowEnd s
  | .clockSeen clk => Sys2Proof.Machine.execClockSeen clk s

end Sys2Proof.Machine
end

