-- ==== Sys2Proof/Safety.lean ====
section
/-!
DEFINITION. Safety.lean: the terms the claims use: a safe step, the parts of the state and what leaves them alone, an accepted
access of the service bus.
-/
namespace Sys2Proof.Machine

/-- The block goes on from a state: its step is neither a fault nor a refusal. -/
def goesOn (s : State) : Prop := ∃ t, step s = .next t

/-- The parts of the state, one for each field of `State`. -/
inductive Part where
  | pending | cyc | free | regs | cnt | xc | bus | mem | bank | fr | arb | sq | tb | bl | hd | tm | tr | dbg | fw | rx | pw | ck | pr
deriving DecidableEq, Repr

/-- Two states agree on one part. -/
def sameOn (p : Part) (s t : State) : Prop :=
  match p with
  | .pending => t.pending = s.pending
  | .cyc => t.cyc = s.cyc
  | .free => t.free = s.free
  | .regs => t.regs = s.regs
  | .cnt => t.cnt = s.cnt
  | .xc => t.xc = s.xc
  | .bus => t.bus = s.bus
  | .mem => t.mem = s.mem
  | .bank => t.bank = s.bank
  | .fr => t.fr = s.fr
  | .arb => t.arb = s.arb
  | .sq => t.sq = s.sq
  | .tb => t.tb = s.tb
  | .bl => t.bl = s.bl
  | .hd => t.hd = s.hd
  | .tm => t.tm = s.tm
  | .tr => t.tr = s.tr
  | .dbg => t.dbg = s.dbg
  | .fw => t.fw = s.fw
  | .rx => t.rx = s.rx
  | .pw => t.pw = s.pw
  | .ck => t.ck = s.ck
  | .pr => t.pr = s.pr

/-- From `s` to `t` nothing changed outside the listed parts. -/
def Only (ps : List Part) (s t : State) : Prop := ∀ p, p ∉ ps → sameOn p s t

/-- A run of register or counter offsets: `count` of them from `lo`, `step` apart. -/
structure Span where
  lo : Nat
  step : Nat
  count : Nat
deriving DecidableEq, Repr

/-- An offset of a span. -/
def Span.has (x : Span) (o : Nat) : Bool :=
  Nat.ble x.lo o && Nat.ble o (x.lo + x.step * (x.count - 1)) && Nat.beq ((o - x.lo) % x.step) 0

/-- From `s` to `t` no register and no always-on counter changed but those at the listed offsets. -/
def Within (xs : List Span) (s t : State) : Prop :=
  ∀ o, xs.any (fun x => x.has o) = false → reg t o = reg s o ∧ NMap.get 0 t.cnt o = NMap.get 0 s.cnt o

/-- From `s` to `t` the enabled chunks of a row of a physical bank were stored: they hold the data and poison marks, initialised and with
no flipped bit; every byte of memory outside them and every other chunk is as before (R30, R37, R38). -/
def Stored (pb row en : Nat) (data : Row) (pois : Mask4) (s t : State) : Prop :=
  (∀ c < 4, bit en c = true → chunkAt t pb row c = ⟨rowChunk data c, bit pois.toNat c, true, []⟩)
  ∧ (∀ a, (∀ c < 4, bit en c = true → a < 65536 * pb + 128 * row + 32 * c ∨ 65536 * pb + 128 * row + 32 * c + 32 ≤ a) →
      NMap.get (0 : Byte) t.mem a = NMap.get 0 s.mem a)
  ∧ (∀ pb' row' c, row' < 512 → c < 4 → ¬(pb' = pb ∧ row' = row ∧ bit en c = true) → chunkAt t pb' row' c = chunkAt s pb' row' c)

/-- From `s` to `t` bits of one row have flipped: they are toggled among the flipped bits of its chunks, and the banks are as before
otherwise (R46). -/
def Struck (pb row : Nat) (ups : List Upset) (s t : State) : Prop :=
  t.bank = { s.bank with flips := t.bank.flips }
  ∧ ∀ k, NMap.get [] t.bank.flips k =
      if k / 4 = 512 * pb + row then toggleFlips (NMap.get [] s.bank.flips k) ups (k % 4) else NMap.get [] s.bank.flips k

/-- Slips and transfers have identifiers of their own, below the next one to give. -/
def FreshIds (s : State) : Prop :=
  (s.sq.live.map (·.sid)).Nodup ∧ (∀ x ∈ s.sq.live, x.sid < s.sq.nextSid)
    ∧ (s.fr.trs.map (·.id)).Nodup ∧ (∀ x ∈ s.fr.trs, x.id < s.fr.nextId)

/-! Tables: what each command may change -/

/-- Registers written when an event cause is raised: the trace's status, the pending bits, the event log (R434, R458). -/
def eventRegs : List Span := [⟨0x6014, 0, 1⟩, ⟨0x7000, 4, 2⟩, ⟨0x7018, 4, 3⟩]

/-- Registers and counters written when an access is refused (R386). -/
def accessRegs : List Span := [⟨0x4804, 4, 2⟩, ⟨0x57B8, 0x40, 8⟩, ⟨0x5980, 0, 1⟩]

/-- Error logs and counters of the banks (R47, R59). -/
def eccRegs : List Span := [⟨0x0810, 4, 4⟩, ⟨0x5988, 0, 1⟩, ⟨0x5990, 0, 1⟩, ⟨0x5998, 0, 1⟩, ⟨0x59A0, 0, 1⟩, ⟨0x59A8, 0, 1⟩]

/-- The address-fault log and counters (R80, R85). -/
def faultRegs : List Span := [⟨0x1300, 4, 2⟩, ⟨0x5780, 0x40, 8⟩, ⟨0x5788, 0x40, 8⟩]

/-- What the end of a slip may write besides its own effects (R267, R282): the slip log, the counts of the queue's context, the halt
and the watch units. -/
def slipEndRegs : List Span := [⟨0x3008, 4, 2⟩, ⟨0x5790, 0x40, 8⟩, ⟨0x57B0, 0x40, 8⟩, ⟨0x6808, 0, 1⟩, ⟨0x6A1C, 0x40, 4⟩]

/-- The parts of the state that a command may change. -/
def touches : Instr → List Part
  | .powerOnResetAssert => [.cyc, .regs, .cnt, .xc, .bus, .mem, .bank, .fr, .arb, .sq, .tb, .bl, .hd, .tm, .tr, .dbg, .fw, .rx, .pw, .ck, .pr]
  | .powerOnResetRelease .. => [.regs, .ck]
  | .tileResetAssert => [.cyc, .regs, .cnt, .xc, .bus, .mem, .bank, .fr, .arb, .sq, .tb, .bl, .hd, .tr, .dbg, .fw, .rx, .pw, .ck, .pr]
  | .tileResetRelease .. => [.regs, .ck]
  | .softwareTileReset .. => [.cyc, .regs, .cnt, .xc, .bus, .mem, .bank, .fr, .arb, .sq, .tb, .bl, .hd, .tr, .dbg, .fw, .rx, .pw, .ck, .pr]
  | .softwareResetEnd .. => [.regs, .ck]
  | .cfgRequest => [.ck]
  | .cfgWord .. => [.regs, .tr, .dbg, .ck]
  | .waybillCheck => [.free, .regs, .bank, .fr, .arb, .tb, .hd, .tr, .dbg, .fw, .rx, .pw, .ck, .pr]
  | .loadTimeout => [.regs, .tr, .dbg, .ck]
  | .registerWrite .. => [.cyc, .free, .regs, .cnt, .xc, .bus, .mem, .bank, .fr, .arb, .sq, .tb, .bl, .hd, .tr, .dbg, .fw, .rx, .pw, .ck, .pr]
  | .counterLowRead .. => [.regs, .cnt, .bus, .tr, .dbg]
  | .timeLowRead .. => [.regs, .cnt, .bus, .tr, .dbg]
  | .xcLoRead .. => [.regs, .cnt, .bus, .tr, .dbg]
  | .xcHiRead .. => [.regs, .cnt, .bus, .tr, .dbg]
  | .xcClear .. => [.regs, .cnt, .xc, .bus, .tr, .dbg]
  | .ownReadRequest .. => [.regs, .cnt, .fr, .tr, .dbg]
  | .ownWriteRequest .. => [.regs, .cnt, .fr, .tr, .dbg]
  | .ownAtomicRequest .. => [.regs, .cnt, .fr, .tr, .dbg]
  | .writeFlitTaken .. => [.fr, .pw]
  | .dcqCrossing .. => [.regs, .cnt, .fr, .tr, .dbg]
  | .writeFlitToStaging .. => [.regs, .cnt, .fr, .sq, .bl, .tr, .dbg, .fw, .pw, .pr]
  | .readFlitTake .. => [.regs, .fr, .sq, .dbg]
  | .landingToDcq .. => [.regs, .fr, .sq, .tr, .dbg, .rx, .pw, .pr]
  | .laneIssue => [.regs, .fr, .sq, .bl, .tr, .dbg]
  | .writeTransferRequest .. => [.regs, .fr, .sq, .pw]
  | .decision .. => [.cyc, .regs, .cnt, .xc, .bank, .fr, .arb, .sq, .tm, .tr, .dbg, .fw, .rx, .pw, .ck, .pr]
  | .arrayRead .. => [.free, .regs, .cnt, .xc, .bank, .fr, .arb, .sq, .tr, .dbg, .fw, .rx, .pw]
  | .arrayWrite .. => [.regs, .cnt, .xc, .mem, .bank, .fr, .arb, .sq, .tr, .dbg, .fw, .rx, .pw]
  | .atomicExecute .. => [.free, .regs, .cnt, .xc, .mem, .bank, .fr, .arb, .sq, .tr, .dbg, .fw, .pw]
  | .writeBack .. => [.mem, .bank, .fw, .pw]
  | .readFlitOutput .. => [.regs, .cnt, .fr, .sq, .bl, .tr, .dbg, .fw, .rx, .pw]
  | .holdLimitCutoff .. => [.regs, .cnt, .arb, .tr, .dbg]
  | .cutoffEnd .. => [.arb]
  | .quarantine .. => [.regs, .arb, .tr, .dbg]
  | .quarantineTimeout .. => [.regs, .arb, .tr, .dbg]
  | .quarantineRelease .. => [.regs, .cnt, .bus, .arb, .tr, .dbg]
  | .shareRefill => [.arb]
  | .slipCommit .. => [.regs, .cnt, .bus, .sq, .tr, .dbg]
  | .fetchOrder .. => [.fr, .sq]
  | .slipDecode .. => [.regs, .cnt, .sq, .tr, .dbg]
  | .nop .. => [.regs, .cnt, .xc, .fr, .sq, .tr, .dbg]
  | .read .. => [.regs, .sq, .bl, .tr, .dbg]
  | .write .. => [.regs, .sq, .bl, .tr, .dbg]
  | .move .. => [.regs, .sq, .bl, .tr, .dbg]
  | .held .. => [.regs, .sq, .hd, .tr, .dbg]
  | .atomic .. => [.sq, .tr]
  | .wait .. => [.sq, .tr]
  | .waitReached .. => [.sq]
  | .signal .. => [.regs, .cnt, .xc, .fr, .sq, .tr, .dbg]
  | .mark .. => [.regs, .cnt, .xc, .fr, .sq, .tr, .dbg]
  | .hint .. => [.regs, .cnt, .xc, .fr, .sq, .tr, .dbg, .pw]
  | .fence .. => [.sq, .tr]
  | .fenceMet .. => [.regs, .cnt, .xc, .fr, .sq, .tr, .dbg]
  | .step .. => [.regs, .cnt, .xc, .fr, .sq, .tr, .dbg]
  | .slipEnd .. => [.regs, .cnt, .xc, .fr, .sq, .tr, .dbg]
  | .queueResume .. => [.regs, .cnt, .bus, .sq, .tr, .dbg]
  | .queueSkip .. => [.regs, .cnt, .bus, .sq, .tr, .dbg]
  | .queueFlush .. => [.regs, .cnt, .bus, .sq, .tr, .dbg]
  | .queuePause .. => [.regs, .cnt, .bus, .sq, .tr, .dbg]
  | .watchdogExpiry .. => [.regs, .cnt, .sq, .tr, .dbg]
  | .tallyInc .. => [.regs, .cnt, .bus, .tr, .dbg]
  | .tallyWrite .. => [.regs, .cnt, .bus, .tr, .dbg]
  | .blendSlotAlloc => [.sq, .bl]
  | .vectorLoadDone .. => [.sq]
  | .holdReservation => [.sq, .hd]
  | .tileAdmit .. => [.sq]
  | .tileRelease .. => [.regs, .sq]
  | .statsReady .. => [.regs, .cnt, .fr, .sq, .bl, .tr, .dbg, .fw]
  | .redeliveryStart .. => [.sq]
  | .holdRelease .. => [.regs, .sq, .hd]
  | .heldCancel .. => [.regs, .cnt, .bus, .fr, .sq, .hd, .tr, .dbg]
  | .heldCancelEnd .. => [.regs, .cnt, .xc, .fr, .sq, .bl, .hd, .tr, .dbg]
  | .ptDataWrite .. => [.regs, .cnt, .bus, .tb, .tr, .dbg]
  | .ptDataRead .. => [.regs, .cnt, .bus, .tr, .dbg]
  | .ptValidWrite .. => [.regs, .cnt, .bus, .tr, .dbg]
  | .btDataWrite .. => [.regs, .cnt, .bus, .tb, .tr, .dbg]
  | .btDataRead .. => [.regs, .cnt, .bus, .tr, .dbg]
  | .psvalidWrite .. => [.regs, .cnt, .bus, .tr, .dbg]
  | .tblvalidWrite .. => [.regs, .cnt, .bus, .tr, .dbg]
  | .bankPreqWrite .. => [.regs, .cnt, .bus, .bank, .tr, .dbg]
  | .bankPowerupStart .. => [.bank]
  | .bankPowerdownStart .. => [.regs, .mem, .bank, .fr, .tr, .dbg, .fw, .pw]
  | .bankTransitionDone .. => [.free, .regs, .mem, .bank, .tr, .dbg, .pw]
  | .domainReqWrite .. => [.regs, .cnt, .bus, .tr, .dbg, .pw]
  | .domainPowerdownStart .. => [.pw]
  | .domainPowerupStart .. => [.pw]
  | .domainTransitionDone .. => [.rx, .pw]
  | .subwindowBoundary => [.regs, .pw]
  | .estimateMessage => [.regs, .pw]
  | .calIntervalEnd => [.regs, .tr, .dbg, .pw]
  | .calibration .. => [.regs, .tr, .dbg, .pw]
  | .levelCommand .. => [.regs, .tr, .dbg, .pw]
  | .clockSwitch => [.regs, .tr, .dbg, .pw]
  | .lockTimeout => [.regs, .tr, .dbg, .pw]
  | .substepApply => [.regs, .tr, .dbg, .pw]
  | .hintWindowEnd => [.pw]
  | .pcMessageTaken .. => [.cnt, .pw]
  | .intakeFlit .. => [.regs, .cnt, .fr, .tr, .dbg, .rx]
  | .combine .. => [.regs, .cnt, .xc, .tr, .dbg, .rx]
  | .vcCreditReturn .. => [.rx]
  | .egressCreditReturn .. => [.regs, .cnt, .tr, .dbg, .rx]
  | .bdataWrite .. => [.regs, .cnt, .bus, .tr, .dbg, .rx]
  | .bdataRead .. => [.regs, .cnt, .bus, .tr, .dbg]
  | .arm .. => [.regs, .cnt, .bus, .tr, .dbg, .rx]
  | .abort .. => [.regs, .cnt, .bus, .fr, .tr, .dbg, .rx]
  | .normPassEnd .. => [.regs, .tr, .dbg, .rx]
  | .ngctlWrite .. => [.regs, .cnt, .bus, .tr, .dbg, .rx]
  | .updateFlit .. => [.rx]
  | .resultSend .. => [.fr, .rx]
  | .propose .. => [.regs, .cnt, .bus, .tr, .dbg, .pr]
  | .cancel .. => [.regs, .cnt, .bus, .tr, .dbg, .pr]
  | .rekey .. => [.free, .regs, .cnt, .bus, .tr, .dbg, .pr]
  | .digestComplete .. => [.regs, .cnt, .bus, .tr, .dbg, .pr]
  | .commitWindowExpiry => [.regs, .tr, .dbg, .pr]
  | .commitApply => [.regs, .tr, .dbg, .pr]
  | .sealArm .. => [.regs, .cnt, .bus, .tr, .dbg, .pr]
  | .sealActive .. => [.pr]
  | .unlock .. => [.regs, .cnt, .bus, .bank, .fr, .tr, .dbg, .fw, .pr]
  | .relock .. => [.regs, .cnt, .bus, .fr, .tr, .dbg]
  | .purgeComplete => [.regs, .cnt, .mem, .bank, .fr, .arb, .sq, .bl, .hd, .tr, .dbg, .rx, .pr]
  | .beacon .. => [.regs, .cnt, .tm, .tr, .dbg]
  | .beaconLoss => [.regs, .cnt, .tr, .dbg]
  | .tclkStall => [.regs, .tr]
  | .tclkResume => [.regs, .tm, .tr]
  | .timeSync => [.tr]
  | .collect => [.regs, .cnt, .fr, .tr, .dbg]
  | .traceRowWrite => [.fr]
  | .traceRowTimeout => [.fr]
  | .traceFreeze => [.regs, .tr, .dbg]
  | .traceTrig .. => [.regs, .cnt, .bus, .tr, .dbg]
  | .traceFlush .. => [.regs, .cnt, .bus, .fr, .tr, .dbg]
  | .traceRearm .. => [.regs, .cnt, .bus, .tr, .dbg]
  | .traceSync .. => [.regs, .cnt, .bus, .tr, .dbg]
  | .traceRptrWrite .. => [.regs, .cnt, .bus, .tr, .dbg]
  | .traceEnable .. => [.regs, .cnt, .bus, .fr, .tr, .dbg]
  | .traceDisable .. => [.regs, .cnt, .bus, .fr, .tr, .dbg]
  | .egressSlotTaken => [.tr]
  | .stopAssert => [.dbg]
  | .halt => [.regs, .tr, .dbg]
  | .blockResume => [.regs, .cnt, .fr, .hd, .tr, .dbg]
  | .stopStuck => [.regs, .tr, .dbg]
  | .localHalt .. => [.regs, .cnt, .bus, .tr, .dbg]
  | .localRun .. => [.regs, .cnt, .bus, .tr, .dbg]
  | .scanCapture .. => [.regs, .cnt, .bus, .tr, .dbg]
  | .scanCaptureDone => [.regs, .dbg]
  | .scanDataRead .. => [.regs, .cnt, .bus, .tr, .dbg]
  | .bankReadout .. => [.regs, .cnt, .bus, .fr, .tr, .dbg]
  | .bankReadoutDone .. => [.regs, .bank, .fr, .dbg]
  | .hangCapture .. => [.regs, .cnt, .bus, .tr, .dbg]
  | .hangRelease .. => [.regs, .cnt, .bus, .tr, .dbg]
  | .hsDataRead .. => [.regs, .cnt, .bus, .tr, .dbg]
  | .watchArm .. => [.regs, .cnt, .bus, .fr, .tr, .dbg]
  | .watchDisarm .. => [.regs, .cnt, .bus, .fr, .tr, .dbg]
  | .watchReadout .. => [.regs, .cnt, .bus, .fr, .tr, .dbg]
  | .watchReadoutDone => [.regs, .fr, .dbg]
  | .fwdWindowEnd => [.fw]
  | .storm => [.regs, .tr, .dbg, .fw]
  | .fwdStart .. => [.regs, .bank, .fr, .hd, .tr, .dbg, .fw, .pw]
  | .migrationCopyStart => [.fw]
  | .copyRow .. => [.bank, .fr]
  | .migrationSwitch => [.regs, .bank, .fr, .tr, .dbg, .fw]
  | .planeForwardDone => [.regs, .tr, .dbg, .fw, .pw]
  | .clusterRetire => [.regs, .tr, .dbg, .fw, .pw]
  | .statrowSubstitute => [.regs, .hd, .tr, .dbg, .fw]
  | .forward .. => [.regs, .cnt, .bus, .tr, .dbg, .fw]
  | .fwdCancel .. => [.regs, .cnt, .bus, .bank, .fr, .tr, .dbg, .fw]
  | .ack .. => [.regs, .cnt, .bus, .tr, .dbg, .fw]
  | .resumeauto .. => [.regs, .cnt, .bus, .tr, .dbg]
  | .proposalDigestReady => [.regs, .pr]
  | .timeHoldEnd => [.tm]
  | .stopDeassert => [.regs, .dbg]
  | .clockLockFall => [.pw]
  | .stormWindowEnd => [.fw]
  | .clockSeen .. => [.regs]

/-- The registers and counters that a command may change, by offset; none: a reset, the loading of a Waybill and a plain register
write, which may change any. -/
def writes : Instr → Option (List Span)
  | .powerOnResetAssert => none
  | .powerOnResetRelease .. => some ([⟨0x4410, 4, 3⟩])
  | .tileResetAssert => none
  | .tileResetRelease .. => some ([⟨0x4410, 4, 3⟩])
  | .softwareTileReset .. => none
  | .softwareResetEnd .. => some ([⟨0x4410, 4, 3⟩])
  | .cfgRequest => some []
  | .cfgWord .. => some ([⟨0x4420, 4, 5⟩, ⟨0x443C, 0, 1⟩] ++ eventRegs)
  | .waybillCheck => none
  | .loadTimeout => some ([⟨0x4420, 4, 2⟩, ⟨0x443C, 0, 1⟩] ++ eventRegs)
  | .registerWrite .. => none
  | .counterLowRead .. => some (accessRegs ++ eventRegs)
  | .timeLowRead .. => some (accessRegs ++ eventRegs)
  | .xcLoRead .. => some (accessRegs ++ eventRegs)
  | .xcHiRead .. => some (accessRegs ++ eventRegs)
  | .xcClear .. => some ([⟨0x5F00, 0, 1⟩] ++ accessRegs ++ eventRegs)
  | .ownReadRequest .. => some ([⟨0x1818, 0, 1⟩, ⟨0x5600, 0x20, 12⟩] ++ eventRegs)
  | .ownWriteRequest .. => some ([⟨0x1818, 0, 1⟩, ⟨0x5600, 0x20, 12⟩] ++ eventRegs)
  | .ownAtomicRequest .. => some ([⟨0x1818, 0, 1⟩, ⟨0x5600, 0x20, 12⟩] ++ eventRegs)
  | .writeFlitTaken .. => some []
  | .dcqCrossing .. => some ([⟨0x1818, 0, 1⟩, ⟨0x5600, 0x20, 12⟩] ++ eventRegs)
  | .writeFlitToStaging .. => some ([⟨0x2040, 4, 8⟩, ⟨0x3008, 4, 2⟩, ⟨0x4890, 4, 32⟩, ⟨0x5A00, 8, 9⟩] ++ eventRegs)
  | .readFlitTake .. => some ([⟨0x6808, 0, 1⟩, ⟨0x6A1C, 0x40, 4⟩])
  | .landingToDcq .. => some ([⟨0x3700, 4, 64⟩, ⟨0x4890, 4, 32⟩] ++ eventRegs)
  | .laneIssue => some ([⟨0x3008, 4, 2⟩] ++ eventRegs)
  | .writeTransferRequest .. => some ([⟨0x1A00, 4, 8⟩])
  | .decision .. => some ([⟨0x3700, 4, 64⟩, ⟨0x5000, 0x80, 12⟩, ⟨0x5008, 0x80, 12⟩, ⟨0x5010, 8, 188⟩, ⟨0x5608, 0x20, 12⟩, ⟨0x5610, 0x20, 12⟩, ⟨0x59B0, 0, 1⟩, ⟨0x59E8, 0, 1⟩, ⟨0x59F0, 0, 1⟩, ⟨0x59F8, 0, 1⟩, ⟨0x5A90, 0x20, 16⟩, ⟨0x6014, 4, 4⟩, ⟨0x6A1C, 0x40, 4⟩, ⟨0x7000, 4, 2⟩, ⟨0x7018, 4, 3⟩] ++ faultRegs)
  | .arrayRead .. => some ([⟨0x3700, 4, 64⟩, ⟨0x57A8, 0x40, 8⟩, ⟨0x6014, 4, 4⟩, ⟨0x6A1C, 0x40, 4⟩, ⟨0x7000, 4, 2⟩, ⟨0x7018, 4, 3⟩] ++ eccRegs)
  | .arrayWrite .. => some ([⟨0x1810, 4, 2⟩, ⟨0x3700, 4, 64⟩, ⟨0x57A8, 0x40, 8⟩, ⟨0x59B8, 0, 1⟩, ⟨0x59C0, 0, 1⟩, ⟨0x59C8, 0, 1⟩, ⟨0x6014, 4, 4⟩, ⟨0x6808, 0, 1⟩, ⟨0x6A1C, 0x40, 4⟩, ⟨0x6A20, 0x40, 4⟩, ⟨0x6A24, 0x40, 4⟩, ⟨0x7000, 4, 2⟩, ⟨0x7018, 4, 3⟩])
  | .atomicExecute .. => some ([⟨0x1810, 4, 2⟩, ⟨0x57A8, 0x40, 8⟩, ⟨0x59C0, 0, 1⟩, ⟨0x59C8, 0, 1⟩] ++ eccRegs ++ eventRegs)
  | .writeBack .. => some []
  | .readFlitOutput .. => some ([⟨0x1810, 4, 2⟩, ⟨0x1A00, 4, 8⟩, ⟨0x2040, 4, 8⟩, ⟨0x59C0, 0, 1⟩, ⟨0x59C8, 0, 1⟩, ⟨0x5A00, 8, 9⟩, ⟨0x6808, 0, 1⟩, ⟨0x6A1C, 0x40, 4⟩, ⟨0x6A20, 0x40, 4⟩, ⟨0x6A24, 0x40, 4⟩] ++ eventRegs)
  | .holdLimitCutoff .. => some ([⟨0x28A0, 4, 2⟩, ⟨0x5618, 0x20, 12⟩] ++ eventRegs)
  | .cutoffEnd .. => some []
  | .quarantine .. => some ([⟨0x28C0, 4, 6⟩] ++ eventRegs)
  | .quarantineTimeout .. => some ([⟨0x28C0, 4, 6⟩] ++ eventRegs)
  | .quarantineRelease .. => some ([⟨0x28C0, 4, 6⟩] ++ accessRegs ++ eventRegs)
  | .shareRefill => some []
  | .slipCommit .. => some ([⟨0x3008, 4, 2⟩, ⟨0x310C, 0x10, 64⟩, ⟨0x5798, 0x40, 8⟩] ++ accessRegs ++ eventRegs)
  | .fetchOrder .. => some []
  | .slipDecode .. => some ([⟨0x3008, 4, 2⟩, ⟨0x5790, 0x40, 8⟩] ++ eventRegs)
  | .nop .. => some (slipEndRegs ++ eventRegs)
  | .read .. => some ([⟨0x6A1C, 0x40, 4⟩] ++ eventRegs)
  | .write .. => some ([⟨0x6A1C, 0x40, 4⟩] ++ eventRegs)
  | .move .. => some ([⟨0x6A1C, 0x40, 4⟩] ++ eventRegs)
  | .held .. => some ([⟨0x2500, 4, 64⟩, ⟨0x6A1C, 0x40, 4⟩] ++ eventRegs)
  | .atomic .. => some []
  | .wait .. => some []
  | .waitReached .. => some []
  | .signal .. => some ([⟨0x3700, 4, 64⟩] ++ slipEndRegs ++ eventRegs)
  | .mark .. => some (slipEndRegs ++ eventRegs)
  | .hint .. => some ([⟨0x59D8, 0, 1⟩] ++ slipEndRegs ++ eventRegs)
  | .fence .. => some []
  | .fenceMet .. => some (slipEndRegs ++ eventRegs)
  | .step .. => some ([⟨0x3040, 4, 8⟩] ++ slipEndRegs ++ eventRegs)
  | .slipEnd .. => some (slipEndRegs ++ eventRegs)
  | .queueResume .. => some ([⟨0x3008, 4, 2⟩, ⟨0x5790, 0x40, 8⟩] ++ accessRegs ++ eventRegs)
  | .queueSkip .. => some ([⟨0x3008, 4, 2⟩, ⟨0x5790, 0x40, 8⟩] ++ accessRegs ++ eventRegs)
  | .queueFlush .. => some ([⟨0x310C, 0x10, 64⟩] ++ accessRegs ++ eventRegs)
  | .queuePause .. => some (accessRegs ++ eventRegs)
  | .watchdogExpiry .. => some ([⟨0x3008, 4, 2⟩, ⟨0x57A0, 0x40, 8⟩, ⟨0x6904, 0, 1⟩] ++ eventRegs)
  | .tallyInc .. => some ([⟨0x3700, 4, 64⟩] ++ accessRegs ++ eventRegs)
  | .tallyWrite .. => some ([⟨0x3700, 4, 64⟩] ++ accessRegs ++ eventRegs)
  | .blendSlotAlloc => some []
  | .vectorLoadDone .. => some []
  | .holdReservation => some []
  | .tileAdmit .. => some []
  | .tileRelease .. => some ([⟨0x3700, 4, 64⟩])
  | .statsReady .. => some ([⟨0x59D0, 0, 1⟩] ++ eventRegs)
  | .redeliveryStart .. => some []
  | .holdRelease .. => some ([⟨0x2500, 4, 64⟩])
  | .heldCancel .. => some ([⟨0x2404, 0, 1⟩] ++ accessRegs ++ eventRegs)
  | .heldCancelEnd .. => some ([⟨0x2500, 4, 64⟩, ⟨0x3700, 4, 64⟩] ++ slipEndRegs ++ eventRegs)
  | .ptDataWrite .. => some ([⟨0x8000, 0, 1⟩, ⟨0x8008, 0, 1⟩] ++ accessRegs ++ eventRegs)
  | .ptDataRead .. => some ([⟨0x8000, 0, 1⟩] ++ accessRegs ++ eventRegs)
  | .ptValidWrite .. => some ([⟨0x8008, 0, 1⟩, ⟨0x8020, 4, 8⟩] ++ accessRegs ++ eventRegs)
  | .btDataWrite .. => some ([⟨0xA000, 0, 1⟩, ⟨0xA008, 0, 1⟩] ++ accessRegs ++ eventRegs)
  | .btDataRead .. => some ([⟨0xA000, 0, 1⟩] ++ accessRegs ++ eventRegs)
  | .psvalidWrite .. => some ([⟨0xA008, 0, 1⟩, ⟨0xA020, 4, 2⟩] ++ accessRegs ++ eventRegs)
  | .tblvalidWrite .. => some ([⟨0xA008, 0, 1⟩, ⟨0xA060, 0, 1⟩, ⟨0xA0B0, 4, 4⟩] ++ accessRegs ++ eventRegs)
  | .bankPreqWrite .. => some ([⟨0x0840, 4, 12⟩, ⟨0x08C0, 4, 3⟩] ++ accessRegs ++ eventRegs)
  | .bankPowerupStart .. => some []
  | .bankPowerdownStart .. => some ([⟨0x7078, 4, 3⟩, ⟨0x7090, 4, 4⟩, ⟨0x7100, 4, 24⟩] ++ eventRegs)
  | .bankTransitionDone .. => some ([⟨0x08C0, 4, 3⟩] ++ eventRegs)
  | .domainReqWrite .. => some ([⟨0x4004, 0, 1⟩, ⟨0x40A0, 0, 1⟩] ++ accessRegs ++ eventRegs)
  | .domainPowerdownStart .. => some []
  | .domainPowerupStart .. => some []
  | .domainTransitionDone .. => some []
  | .subwindowBoundary => some ([⟨0x4010, 0, 1⟩])
  | .estimateMessage => some ([⟨0x4014, 4, 2⟩])
  | .calIntervalEnd => some ([⟨0x4004, 0, 1⟩] ++ eventRegs)
  | .calibration .. => some ([⟨0x4004, 0, 1⟩, ⟨0x401C, 0, 1⟩] ++ eventRegs)
  | .levelCommand .. => some ([⟨0x4004, 0, 1⟩] ++ eventRegs)
  | .clockSwitch => some (eventRegs)
  | .lockTimeout => some ([⟨0x4004, 0, 1⟩] ++ eventRegs)
  | .substepApply => some (eventRegs)
  | .hintWindowEnd => some []
  | .pcMessageTaken .. => some ([⟨0x59E0, 0, 1⟩])
  | .intakeFlit .. => some ([⟨0x3818, 4, 2⟩, ⟨0x5A80, 0x20, 16⟩] ++ eventRegs)
  | .combine .. => some ([⟨0x3818, 4, 2⟩, ⟨0x5A80, 0x20, 16⟩] ++ eventRegs)
  | .vcCreditReturn .. => some []
  | .egressCreditReturn .. => some ([⟨0x5A88, 0x20, 16⟩] ++ eventRegs)
  | .bdataWrite .. => some ([⟨0x380C, 0, 1⟩] ++ accessRegs ++ eventRegs)
  | .bdataRead .. => some (accessRegs ++ eventRegs)
  | .arm .. => some ([⟨0x380C, 0, 1⟩] ++ accessRegs ++ eventRegs)
  | .abort .. => some ([⟨0x380C, 0, 1⟩, ⟨0x3818, 4, 2⟩, ⟨0x5A80, 0x20, 16⟩] ++ accessRegs ++ eventRegs)
  | .normPassEnd .. => some ([⟨0x3700, 4, 64⟩] ++ eventRegs)
  | .ngctlWrite .. => some ([⟨0x3D00, 0x10, 8⟩] ++ accessRegs ++ eventRegs)
  | .updateFlit .. => some []
  | .resultSend .. => some []
  | .propose .. => some ([⟨0x4814, 0, 1⟩] ++ accessRegs ++ eventRegs)
  | .cancel .. => some ([⟨0x4814, 0, 1⟩, ⟨0x4904, 4, 87⟩] ++ accessRegs ++ eventRegs)
  | .rekey .. => some (accessRegs ++ eventRegs)
  | .digestComplete .. => some ([⟨0x4814, 0, 1⟩, ⟨0x4904, 4, 87⟩] ++ accessRegs ++ eventRegs)
  | .commitWindowExpiry => some ([⟨0x4814, 0, 1⟩] ++ eventRegs)
  | .commitApply => some ([⟨0x1000, 4, 24⟩, ⟨0x1840, 4, 9⟩, ⟨0x1870, 4, 6⟩, ⟨0x3080, 4, 8⟩, ⟨0x3100, 0x10, 64⟩, ⟨0x3820, 4, 24⟩, ⟨0x4814, 4, 2⟩, ⟨0x4904, 4, 87⟩] ++ eventRegs)
  | .sealArm .. => some ([⟨0x4814, 0, 1⟩, ⟨0x4880, 0x20, 4⟩, ⟨0x4888, 0x20, 4⟩, ⟨0x488C, 0x20, 4⟩] ++ accessRegs ++ eventRegs)
  | .sealActive .. => some []
  | .unlock .. => some ([⟨0x4814, 0, 1⟩, ⟨0x4904, 4, 87⟩, ⟨0x4B04, 0, 1⟩] ++ accessRegs ++ eventRegs)
  | .relock .. => some ([⟨0x4B04, 0, 1⟩, ⟨0x6A1C, 0x40, 4⟩] ++ accessRegs ++ eventRegs)
  | .purgeComplete => some ([⟨0x0810, 4, 4⟩, ⟨0x1300, 4, 2⟩, ⟨0x1810, 4, 3⟩, ⟨0x1A00, 4, 8⟩, ⟨0x2040, 4, 8⟩, ⟨0x28A0, 4, 2⟩, ⟨0x3008, 4, 2⟩, ⟨0x3040, 4, 8⟩, ⟨0x310C, 0x10, 64⟩, ⟨0x3700, 4, 64⟩, ⟨0x3818, 4, 2⟩, ⟨0x4814, 0, 1⟩, ⟨0x4880, 4, 32⟩, ⟨0x4904, 4, 87⟩, ⟨0x4B04, 4, 2⟩, ⟨0x5780, 1, 512⟩, ⟨0x6000, 0, 1⟩, ⟨0x6014, 4, 5⟩, ⟨0x6814, 0, 1⟩, ⟨0x6824, 0, 1⟩, ⟨0x6904, 0, 1⟩, ⟨0x6A1C, 0x40, 4⟩, ⟨0x6A20, 0x40, 4⟩, ⟨0x6A24, 0x40, 4⟩, ⟨0x6B14, 0, 1⟩, ⟨0x7000, 4, 2⟩, ⟨0x7018, 4, 3⟩])
  | .beacon .. => some ([⟨0x5A60, 0, 1⟩, ⟨0x604C, 4, 2⟩] ++ eventRegs)
  | .beaconLoss => some ([⟨0x5A68, 0, 1⟩, ⟨0x604C, 0, 1⟩] ++ eventRegs)
  | .tclkStall => some ([⟨0x604C, 0, 1⟩])
  | .tclkResume => some ([⟨0x604C, 0, 1⟩])
  | .timeSync => some []
  | .collect => some ([⟨0x5A48, 0, 1⟩, ⟨0x5A50, 0, 1⟩, ⟨0x5A58, 0, 1⟩, ⟨0x6024, 0, 1⟩, ⟨0x6A1C, 0x40, 4⟩, ⟨0x6A24, 0x40, 4⟩] ++ eventRegs)
  | .traceRowWrite => some []
  | .traceRowTimeout => some []
  | .traceFreeze => some (eventRegs)
  | .traceTrig .. => some (accessRegs ++ eventRegs)
  | .traceFlush .. => some (accessRegs ++ eventRegs)
  | .traceRearm .. => some (accessRegs ++ eventRegs)
  | .traceSync .. => some (accessRegs ++ eventRegs)
  | .traceRptrWrite .. => some ([⟨0x601C, 4, 2⟩] ++ accessRegs ++ eventRegs)
  | .traceEnable .. => some ([⟨0x6000, 0, 1⟩, ⟨0x6014, 4, 5⟩, ⟨0x7000, 4, 2⟩, ⟨0x7018, 4, 3⟩] ++ accessRegs)
  | .traceDisable .. => some ([⟨0x6000, 0, 1⟩, ⟨0x6014, 4, 5⟩, ⟨0x7000, 4, 2⟩, ⟨0x7018, 4, 3⟩] ++ accessRegs)
  | .egressSlotTaken => some []
  | .stopAssert => some []
  | .halt => some ([⟨0x6808, 4, 2⟩, ⟨0x6904, 0, 1⟩] ++ eventRegs)
  | .blockResume => some ([⟨0x1818, 0, 1⟩, ⟨0x5600, 0x20, 12⟩, ⟨0x6808, 0, 1⟩] ++ eventRegs)
  | .stopStuck => some ([⟨0x6808, 0, 1⟩] ++ eventRegs)
  | .localHalt .. => some ([⟨0x6808, 0, 1⟩] ++ accessRegs ++ eventRegs)
  | .localRun .. => some ([⟨0x6808, 0, 1⟩] ++ accessRegs ++ eventRegs)
  | .scanCapture .. => some ([⟨0x6814, 0, 1⟩] ++ accessRegs ++ eventRegs)
  | .scanCaptureDone => some ([⟨0x6814, 0, 1⟩])
  | .scanDataRead .. => some ([⟨0x6818, 0, 1⟩] ++ accessRegs ++ eventRegs)
  | .bankReadout .. => some ([⟨0x6820, 4, 2⟩] ++ accessRegs ++ eventRegs)
  | .bankReadoutDone .. => some ([⟨0x6824, 0, 1⟩, ⟨0x6880, 4, 32⟩])
  | .hangCapture .. => some ([⟨0x6904, 0, 1⟩] ++ accessRegs ++ eventRegs)
  | .hangRelease .. => some ([⟨0x6904, 0, 1⟩] ++ accessRegs ++ eventRegs)
  | .hsDataRead .. => some ([⟨0x6908, 0, 1⟩] ++ accessRegs ++ eventRegs)
  | .watchArm .. => some ([⟨0x6A00, 0x40, 4⟩, ⟨0x6A1C, 0x40, 4⟩, ⟨0x6A20, 0x40, 4⟩, ⟨0x6A24, 0x40, 4⟩] ++ accessRegs ++ eventRegs)
  | .watchDisarm .. => some ([⟨0x6A00, 0x40, 4⟩, ⟨0x6A1C, 0x40, 4⟩, ⟨0x6A20, 0x40, 4⟩, ⟨0x6A24, 0x40, 4⟩] ++ accessRegs ++ eventRegs)
  | .watchReadout .. => some ([⟨0x6B10, 4, 2⟩] ++ accessRegs ++ eventRegs)
  | .watchReadoutDone => some ([⟨0x6B14, 0, 1⟩, ⟨0x6B80, 4, 32⟩])
  | .fwdWindowEnd => some []
  | .storm => some ([⟨0x704C, 0, 1⟩] ++ eventRegs)
  | .fwdStart .. => some ([⟨0x40A0, 0, 1⟩, ⟨0x704C, 0, 1⟩, ⟨0x7078, 4, 3⟩, ⟨0x7090, 4, 4⟩, ⟨0x7100, 4, 24⟩] ++ eventRegs)
  | .migrationCopyStart => some []
  | .copyRow .. => some []
  | .migrationSwitch => some ([⟨0x7078, 4, 3⟩, ⟨0x7090, 4, 4⟩, ⟨0x7100, 4, 24⟩] ++ eventRegs)
  | .planeForwardDone => some ([⟨0x40A0, 0, 1⟩] ++ eventRegs)
  | .clusterRetire => some ([⟨0x40A0, 0, 1⟩] ++ eventRegs)
  | .statrowSubstitute => some (eventRegs)
  | .forward .. => some ([⟨0x704C, 0, 1⟩] ++ accessRegs ++ eventRegs)
  | .fwdCancel .. => some ([⟨0x704C, 0, 1⟩] ++ accessRegs ++ eventRegs)
  | .ack .. => some ([⟨0x704C, 0, 1⟩] ++ accessRegs ++ eventRegs)
  | .resumeauto .. => some ([⟨0x704C, 0, 1⟩] ++ accessRegs ++ eventRegs)
  | .proposalDigestReady => some ([⟨0x4814, 0, 1⟩])
  | .timeHoldEnd => some []
  | .stopDeassert => some ([⟨0x6808, 0, 1⟩])
  | .clockLockFall => some []
  | .stormWindowEnd => some []
  | .clockSeen .. => some ([⟨0x4404, 0, 1⟩])

/-- The service-bus access that a command is: its attributes, its offset, whether it writes. Not here:
COUNTER_LOW_READ, whose effect depends on its offset, and TALLY_WRITE, which also carries the increments of its cycle. -/
def busOf : Instr → Option (BusAcc × Nat × Bool)
  | .softwareTileReset a _ => some (a, 0x440C, true)
  | .registerWrite a off _ => some (a, off.toNat, true)
  | .timeLowRead a => some (a, 0x6040, false)
  | .xcLoRead a => some (a, 0x5F08, false)
  | .xcHiRead a => some (a, 0x5F0C, false)
  | .xcClear a _ => some (a, 0x5F00, true)
  | .quarantineRelease a _ => some (a, 0x28E0, true)
  | .slipCommit a q _ => some (a, commitOff q.toNat, true)
  | .queueResume a _ => some (a, 0x3010, true)
  | .queueSkip a _ => some (a, 0x3010, true)
  | .queueFlush a _ => some (a, 0x3010, true)
  | .queuePause a _ => some (a, 0x3010, true)
  | .tallyInc a _ => some (a, 0x3014, true)
  | .heldCancel a _ => some (a, 0x2450, true)
  | .ptDataWrite a _ => some (a, 0x8004, true)
  | .ptDataRead a => some (a, 0x8004, false)
  | .ptValidWrite a n _ => some (a, 0x8020 + 4 * n.toNat, true)
  | .btDataWrite a _ => some (a, 0xA004, true)
  | .btDataRead a => some (a, 0xA004, false)
  | .psvalidWrite a n _ => some (a, 0xA020 + 4 * b2n n, true)
  | .tblvalidWrite a _ => some (a, 0xA060, true)
  | .bankPreqWrite a n _ => if n.toNat < 12 then some (a, 0x0840 + 4 * n.toNat, true) else none
  | .domainReqWrite a _ => some (a, 0x40A0, true)
  | .bdataWrite a _ => some (a, 0x3814, true)
  | .bdataRead a => some (a, 0x3814, false)
  | .arm a _ => some (a, 0x3808, true)
  | .abort a _ => some (a, 0x3808, true)
  | .ngctlWrite a g _ => some (a, 0x3D00 + 16 * g.toNat, true)
  | .propose a => some (a, 0x4810, true)
  | .cancel a => some (a, 0x4810, true)
  | .rekey a _ => some (a, 0x4810, true)
  | .digestComplete a off _ => if off = 0x4824 ∨ off = 0x482C then some (a, off.toNat, true) else none
  | .sealArm a l _ => some (a, 0x4880 + 32 * l.toNat, true)
  | .unlock a _ => some (a, 0x4B00, true)
  | .relock a _ => some (a, 0x4B00, true)
  | .traceTrig a => some (a, 0x6010, true)
  | .traceFlush a => some (a, 0x6010, true)
  | .traceRearm a => some (a, 0x6010, true)
  | .traceSync a => some (a, 0x6010, true)
  | .traceRptrWrite a _ => some (a, 0x601C, true)
  | .traceEnable a _ => some (a, 0x6000, true)
  | .traceDisable a _ => some (a, 0x6000, true)
  | .localHalt a => some (a, 0x6804, true)
  | .localRun a => some (a, 0x6804, true)
  | .scanCapture a => some (a, 0x6810, true)
  | .scanDataRead a => some (a, 0x681C, false)
  | .bankReadout a _ => some (a, 0x6820, true)
  | .hangCapture a => some (a, 0x6900, true)
  | .hangRelease a => some (a, 0x6900, true)
  | .hsDataRead a => some (a, 0x690C, false)
  | .watchArm a u _ => some (a, wuReg u.toNat 0, true)
  | .watchDisarm a u _ => some (a, wuReg u.toNat 0, true)
  | .watchReadout a _ => some (a, 0x6B10, true)
  | .forward a _ _ => some (a, 0x7048, true)
  | .fwdCancel a => some (a, 0x7048, true)
  | .ack a => some (a, 0x7048, true)
  | .resumeauto a => some (a, 0x7048, true)
  | _ => none

/-- An access reaches its register (R11, R367, R369, R385): no reset in force, 32 bits wide on a word boundary, permitted; for a
write, the Waybill LOADED. -/
def accepts (a : BusAcc) (wr : Bool) (o : Nat) (s : State) : Prop :=
  inReset s = false ∧ busMisfit a o = false ∧ accessOk s a wr o = true ∧ (wr = true → wbState s = 3)

/-- The bus answers without an error. -/
def answered (d : Word) (t : State) : Prop := t.bus.rdata = d ∧ t.bus.err = false

/-- R365, R411: what a tile reset of a cause leaves; `t.ck` apart. -/
def tileResetLeaves (cause : Nat) (s t : State) : Prop :=
  Only [.cyc, .regs, .cnt, .xc, .bus, .mem, .bank, .fr, .arb, .sq, .tb, .bl, .hd, .tr, .dbg, .fw, .rx, .pw, .ck, .pr] s t
    ∧ t.cnt = [] ∧ t.xc = [] ∧ t.mem = [] ∧ t.bus = BusSt.reset ∧ t.bank = BankSt.reset ∧ t.fr = FrameSt.reset ∧ t.arb = ArbSt.reset
    ∧ t.sq = SlipSt.reset ∧ t.tb = TblSt.reset ∧ t.bl = BlendSt.reset ∧ t.hd = HeldSt.reset ∧ t.tr = TraceSt.reset
    ∧ t.fw = FwdSt.reset ∧ t.rx = RdxSt.reset ∧ t.pr = ProtSt.reset ∧ t.dbg = { DbgSt.reset with stopIn := s.dbg.stopIn }
    ∧ t.pw = { PwrSt.reset with
        step := s.pw.step, div := s.pw.div, ckSel := s.pw.ckSel, ckFmhz := s.pw.ckFmhz, ckLock := s.pw.ckLock }
    ∧ ∀ o, reg t o =
        if o = 0x4408 then BitVec.ofNat 32 (cause + fld (min (regF s 0x4408 31 16 + 1) 0xFFFF) 16)
        else if o = 0x4B04 then (if purging s then 0 else reg s 0x4B04 &&& 0x3B)
        else if [0x4404, 0x4410, 0x4414, 0x4418, 0x604C, 0x6050].contains o then reg s o
        else reg State.reset o

/-- R380: a load failed: reason, TYPE, offset. -/
def loadFailed (reason typ off : Nat) (s t : State) : Prop :=
  reg t 0x4420 = BitVec.ofNat 32 (4 + fld reason 4 + fld typ 8) ∧ reg t 0x4424 = BitVec.ofNat 32 off
    ∧ t.ck = { s.ck with cfgReq := false, img := [] } ∧ regB t 0x7000 (if reason = 14 then 2 else 1) = true
    ∧ Only [.regs, .tr, .dbg, .ck] s t ∧ Within ([⟨0x4420, 4, 2⟩, ⟨0x443C, 0, 1⟩] ++ eventRegs) s t

/-- Memory, registers and counters are in canonical form (keys strictly rising, nothing listed at the value an unlisted key reads
as), so that equal contents are equal data. -/
def Canonical (s : State) : Prop :=
  Memory.wf s.mem = true ∧ NMap.wf (0 : Word) s.regs = true ∧ NMap.wf (0 : BitVec 56) s.cnt = true ∧ NMap.wf (0 : BitVec 56) s.xc = true

end Sys2Proof.Machine
end

