-- ==== Sys2Proof/WellFormed.lean ====
section
/-!
DEFINITION. WellFormed.lean: which commands name items the block has. A command outside it names a lane, a bank port, a
bank, a requester or a stored bit that does not exist; its meaning changes nothing.
-/
namespace Sys2Proof

/-- R106, R484: lanes with a request channel; `write` false: read lanes. -/
def chanOk (write : Bool) (lane : Nat) : Bool :=
  if write then decide (lane < 45) && lane != 42 && lane != 43 else decide (lane < 65) && lane != 62 && lane != 63

/-- R111, R362: the lanes that have a queue of each kind. -/
def dcqOk (k : DcqKind) (lane : Nat) : Bool :=
  match k with
  | .rd => decide (lane < 65)
  | .wr => decide (lane < 45)
  | .rq => chanOk false lane
  | .wq => chanOk true lane
  | .rqTicket => chanOk false lane
  | .wqTicket => chanOk true lane

/-- R46: a chunk has 256 data bits and 10 check bits. -/
def upsOk (ups : List Upset) : Bool := ups.all fun u => decide (u.pos < 266)

/-- R468: a bank number of a beat that a switch left behind: 256 + 128 times the physical bank + the logical bank. -/
def oldOk (b : Nat) : Bool := decide (256 ≤ b) && decide ((b - 256) / 128 < 100) && decide (b % 128 < 96)

/-- R21, R61: where an array access takes place: a logical bank, 128 + a physical bank for a beat the migration addresses to its
spare, or the bank of a beat left behind. -/
def arrOk (b : Nat) : Bool := decide (b < 96) || (decide (128 ≤ b) && decide (b < 228)) || oldOk b

/-- R90: 18 physical middle planes. -/
def parOk (p : Parity) : Bool := decide (p.plane.toNat < 18)

/-- The operands of a command name items the block has. -/
def Instr.wf (i : Instr) : Bool :=
  match i with
  | .powerOnResetAssert => true
  | .powerOnResetRelease _ _ _ => true
  | .tileResetAssert => true
  | .tileResetRelease _ _ => true
  | .softwareTileReset _ _ => true
  | .softwareResetEnd _ _ => true
  | .cfgRequest => true
  | .cfgWord _ => true
  | .waybillCheck => true
  | .loadTimeout => true
  | .registerWrite _ _ _ => true
  | .counterLowRead _ _ => true
  | .timeLowRead _ => true
  | .xcLoRead _ => true
  | .xcHiRead _ => true
  | .xcClear _ _ => true
  | .ownReadRequest onWr lane _ => chanOk onWr lane
  | .ownWriteRequest onWr lane _ => chanOk onWr lane
  | .ownAtomicRequest onWr lane _ => chanOk onWr lane
  | .writeFlitTaken lane _ _ => decide (lane < 45)
  | .dcqCrossing kind lane => dcqOk kind lane
  | .writeFlitToStaging lane _ => decide (lane < 45) && lane != 42 && lane != 43
  | .readFlitTake lane => decide (lane < 65)
  | .landingToDcq lane => decide (lane < 65)
  | .laneIssue => true
  | .writeTransferRequest lane => decide (lane < 45) && lane != 42 && lane != 43
  | .decision _ => true
  | .arrayRead bank _ ups => arrOk bank && upsOk ups
  | .arrayWrite bank _ par => arrOk bank && parOk par
  | .atomicExecute bank _ ups par => (decide (bank < 96) || oldOk bank) && upsOk ups && parOk par
  | .writeBack bank => decide (bank < 96)
  | .readFlitOutput lane par _ => decide (lane < 65) && parOk par
  | .holdLimitCutoff bank _ => decide (bank < 96)
  | .cutoffEnd bank req => decide (bank < 96) && decide (req < 196)
  | .quarantine req => decide (req < 196)
  | .quarantineTimeout req => decide (req < 196)
  | .quarantineRelease _ _ => true
  | .shareRefill => true
  | .slipCommit _ _ _ => true
  | .fetchOrder _ => true
  | .slipDecode _ => true
  | .nop _ => true
  | .read _ => true
  | .write _ => true
  | .move _ => true
  | .held _ => true
  | .atomic _ => true
  | .wait _ => true
  | .waitReached _ => true
  | .signal _ => true
  | .mark _ => true
  | .hint _ => true
  | .fence _ => true
  | .fenceMet _ => true
  | .step _ => true
  | .slipEnd _ => true
  | .queueResume _ _ => true
  | .queueSkip _ _ => true
  | .queueFlush _ _ => true
  | .queuePause _ _ => true
  | .watchdogExpiry _ => true
  | .tallyInc _ _ => true
  | .tallyWrite _ _ _ _ => true
  | .blendSlotAlloc => true
  | .vectorLoadDone _ => true
  | .holdReservation => true
  | .tileAdmit _ => true
  | .tileRelease _ => true
  | .statsReady _ _ => true
  | .redeliveryStart _ => true
  | .holdRelease _ => true
  | .heldCancel _ _ => true
  | .heldCancelEnd _ => true
  | .ptDataWrite _ _ => true
  | .ptDataRead _ => true
  | .ptValidWrite _ _ _ => true
  | .btDataWrite _ _ => true
  | .btDataRead _ => true
  | .psvalidWrite _ _ _ => true
  | .tblvalidWrite _ _ => true
  | .bankPreqWrite _ n _ => decide (n.toNat < 12)
  | .bankPowerupStart bank => decide (bank < 100)
  | .bankPowerdownStart bank => decide (bank < 100)
  | .bankTransitionDone bank => decide (bank < 100)
  | .domainReqWrite _ _ => true
  | .domainPowerdownStart _ => true
  | .domainPowerupStart _ => true
  | .domainTransitionDone _ => true
  | .subwindowBoundary => true
  | .estimateMessage => true
  | .calIntervalEnd => true
  | .calibration _ => true
  | .levelCommand _ => true
  | .clockSwitch => true
  | .lockTimeout => true
  | .substepApply => true
  | .hintWindowEnd => true
  | .pcMessageTaken _ => true
  | .intakeFlit _ => true
  | .combine _ => true
  | .vcCreditReturn _ => true
  | .egressCreditReturn _ _ => true
  | .bdataWrite _ _ => true
  | .bdataRead _ => true
  | .arm _ _ => true
  | .abort _ _ => true
  | .normPassEnd _ => true
  | .ngctlWrite _ _ _ => true
  | .updateFlit _ => true
  | .resultSend _ => true
  | .propose _ => true
  | .cancel _ => true
  | .rekey _ _ => true
  | .digestComplete _ off _ => off == 0x4824 || off == 0x482C
  | .commitWindowExpiry => true
  | .commitApply => true
  | .sealArm _ _ _ => true
  | .sealActive _ => true
  | .unlock _ _ => true
  | .relock _ _ => true
  | .purgeComplete => true
  | .beacon _ => true
  | .beaconLoss => true
  | .tclkStall => true
  | .tclkResume => true
  | .timeSync => true
  | .collect => true
  | .traceRowWrite => true
  | .traceRowTimeout => true
  | .traceFreeze => true
  | .traceTrig _ => true
  | .traceFlush _ => true
  | .traceRearm _ => true
  | .traceSync _ => true
  | .traceRptrWrite _ _ => true
  | .traceEnable _ _ => true
  | .traceDisable _ _ => true
  | .egressSlotTaken => true
  | .stopAssert => true
  | .halt => true
  | .blockResume => true
  | .stopStuck => true
  | .localHalt _ => true
  | .localRun _ => true
  | .scanCapture _ => true
  | .scanCaptureDone => true
  | .scanDataRead _ => true
  | .bankReadout _ _ => true
  | .bankReadoutDone ups => upsOk ups
  | .hangCapture _ => true
  | .hangRelease _ => true
  | .hsDataRead _ => true
  | .watchArm _ _ _ => true
  | .watchDisarm _ _ _ => true
  | .watchReadout _ _ => true
  | .watchReadoutDone => true
  | .fwdWindowEnd => true
  | .storm => true
  | .fwdStart _ => true
  | .migrationCopyStart => true
  | .copyRow ups => upsOk ups
  | .migrationSwitch => true
  | .planeForwardDone => true
  | .clusterRetire => true
  | .statrowSubstitute => true
  | .forward _ _ _ => true
  | .fwdCancel _ => true
  | .ack _ => true
  | .resumeauto _ => true
  | .proposalDigestReady => true
  | .timeHoldEnd => true
  | .stopDeassert => true
  | .clockLockFall => true
  | .stormWindowEnd => true
  | .clockSeen _ => true

end Sys2Proof
end

