-- ==== Sys2Proof/Certificates/Slice0/Obligations.lean ====
section
/-!
DEFINITION. Certificates/Slice0/Obligations.lean: the statements for the provers. A clause names the states and operands in which a
command has its own effect, and says what the state after it holds.
-/
open Sys2Proof Sys2Proof.Machine

/-- O1. For every command c and state s, a step of s with c at the front of its queue is exec of c on s with the queue's rest. The queue
is the model's own. (spec/95_what_each_step_holds.md) -/
def Obligations.StepRunsFront : Prop :=
  ∀ (c : Instr) (rest : List Instr) (s : State), step { s with pending := c :: rest } = exec c { s with pending := rest }

/-- O2. With an empty queue a step answers a next state. While TCLK runs and no power-on reset is in force the time counter advances by
1, but in a hold it keeps its value and the hold shortens by 1; while TCLK is stalled or under power-on reset nothing changes.
Registers, counters, memory and the queue keep their values. That an idle step is one TCLK cycle is the model's choice (log
entry 2). (spec/16_counters_trace.md) -/
def Obligations.EmptyQueuePassesOneTclk : Prop :=
  ∀ (s : State), s.pending = [] →
    ∃ t, step s = .next t ∧ Only [.tm, .ck, .pw, .pr, .sq, .dbg] s t
      ∧ (s.ck.por = true ∨ regB s 0x604C 3 = true → t = s)
      ∧ (s.ck.por = false → regB s 0x604C 3 = false → s.tm.hold = 0 → t.tm.t = s.tm.t + 1 ∧ t.tm.since = s.tm.since + 1)
      ∧ (s.ck.por = false → regB s 0x604C 3 = false → s.tm.hold ≠ 0 → t.tm.t = s.tm.t ∧ t.tm.hold + 1 = s.tm.hold)

/-- O3. For every command and every state exec answers a next state, and so does every step: the model has no fault and no refusal.
Rests in part on the model's choice of log entry 1. (spec/00_scope.md) -/
def Obligations.EveryCommandGoesOn : Prop :=
  (∀ (c : Instr) (s : State), ∃ t, exec c s = .next t) ∧ ∀ (s : State), goesOn s

/-- O4. From every state, when a step answers a next state, that state's queue is the queue before without its first command: no command
adds or removes a waiting command. The queue is the model's own. (spec/95_what_each_step_holds.md) -/
def Obligations.StepTakesOneCommand : Prop :=
  ∀ (s t : State), step s = .next t → t.pending = s.pending.tail

/-- O5. At State.reset the memory, the registers and the counters are in canonical form: keys strictly rising and nothing listed at the
value an unlisted key reads as. The form is the model's own. Rests in part on the model's choice of log entry 9. (spec/02_banks.md, spec/20_register_map.md) -/
def Obligations.ResetIsCanonical : Prop :=
  Canonical State.reset

/-- O6. From every state whose memory, registers and counters are in canonical form, a step of any command, or of an empty queue, that
answers a next state leaves them in canonical form, so that equal contents stay equal data. The form is the model's own. Rests
in part on the model's choice of log entry 9. (spec/02_banks.md, spec/16_counters_trace.md, spec/20_register_map.md) -/
def Obligations.EveryStepKeepsCanonicalForm : Prop :=
  ∀ (s t : State), Canonical s → step s = .next t → Canonical t

/-- O7. For every command c and state s, the state after exec of c equals s in every part outside touches c: so bank memory changes only
in the commands listed with mem, the tables only in their writes, a Waybill load and the resets, the sealing keys only in those
listed with pr, the time counter only in a beacon, a hold's end, a decision and power-on reset. (spec/95_what_each_step_holds.md) -/
def Obligations.CommandsChangeOnlyTheirParts : Prop :=
  ∀ (c : Instr) (s t : State), exec c s = .next t → Only (touches c) s t

/-- O8. For every command c but the resets, the load of a Waybill and a plain register write, which may change any register, every
stored register and every always-on counter outside the spans of writes c keeps its value, from every state. (spec/95_what_each_step_holds.md, spec/20_register_map.md) -/
def Obligations.CommandsWriteOnlyTheirRegisters : Prop :=
  ∀ (c : Instr) (s t : State) (xs : List Span), exec c s = .next t → writes c = some xs → Within xs s t

/-- O9. For every command c that is a service-bus access of offset o by attributes a, from every state. Under power-on reset nothing
changes. Otherwise an access of another width or off a word boundary answers a bus error and changes nothing else. An access
that fits, permitted, while a reset is in force answers data 0 without error and changes nothing else, but for reads of
LMY_RST_STATUS and LMY_WB_STATUS, which no command is. An access that fits, with no reset in force, that its register does not
permit answers a bus error, adds 1 to the refusal count of its level (of INIT 2 and 3), sets VALID of the refusal log (OVF where
VALID was set, with the rest of the log kept) and changes no part but bus, registers, counters, trace and the event log's cycle.
Rests in part on the model's choice of log entries 25 and 67. (spec/00_scope.md, spec/14_clocks_reset_waybill.md, spec/15_protection.md) -/
def Obligations.UnacceptedAccessesChangeNothingElse : Prop :=
  ∀ (c : Instr) (a : BusAcc) (o : Nat) (wr : Bool) (s : State), busOf c = some (a, o, wr) →
    (s.ck.por = true → exec c s = .next s)
    ∧ (s.ck.por = false → busMisfit a o = true → ∃ t, exec c s = .next t ∧ Only [.bus] s t ∧ t.bus.err = true ∧ t.bus.rdata = 0)
    ∧ (s.ck.por = false → busMisfit a o = false → inReset s = true → ∃ t, exec c s = .next t ∧ Only [.bus] s t ∧ answered 0 t)
    ∧ (busMisfit a o = false → inReset s = false → accessOk s a wr o = false →
        ∃ t, exec c s = .next t ∧ t.bus.err = true ∧ t.bus.rdata = 0 ∧ Only [.bus, .regs, .cnt, .tr, .dbg] s t
          ∧ Within (accessRegs ++ eventRegs) s t
          ∧ regB t 0x4804 0 = true
          ∧ (regB s 0x4804 0 = true → reg t 0x4804 = reg s 0x4804 ||| 2 ∧ reg t 0x4808 = reg s 0x4808)
          ∧ (regB s 0x4804 0 = false →
              reg t 0x4804 = BitVec.ofNat 32 (1 + fld a.init.toNat 2 + fld (if a.init.toNat < 2 then a.priv.toNat else 0) 4 + fld (b2n wr) 7)
                ∧ reg t 0x4808 = BitVec.ofNat 32 o ∧ regB t 0x7004 26 = true)
          ∧ NMap.get 0 t.cnt (if a.init.toNat < 2 then 0x57B8 + 0x40 * a.priv.toNat else 0x5980)
              = NMap.get 0 s.cnt (if a.init.toNat < 2 then 0x57B8 + 0x40 * a.priv.toNat else 0x5980) + 1)

/-- O10. POWER_ON_RESET_ASSERT, in every state, leaves State.reset but for the waiting commands, the free-value counter (the model's
own), the level of lmy_trst_n, of lmy_stop and the part's FIELD fuse: every register at its reset value, every bank and domain
Off, memory with nothing listed, nothing in flight. POWER_ON_RESET_RELEASE under power-on reset ends it and takes the fuse; with
no other reset in force the release clock starts at 0 and PARTID and TILEID are sampled; nothing else changes. Rests in part on
the model's choice of log entries 10 and 68. (spec/14_clocks_reset_waybill.md) -/
def Obligations.PowerOnResetLeavesResetState : Prop :=
  (∀ (s : State), exec .powerOnResetAssert s = .next { State.reset with
      pending := s.pending
      free := s.free
      ck := { CkSt.reset with trst := s.ck.trst, field := s.ck.field }
      dbg := { DbgSt.reset with stopIn := s.dbg.stopIn } })
  ∧ (∀ (part : BitVec 64) (tile : BitVec 5) (field : Bool) (s : State), s.ck.por = true → s.ck.trst = false → s.ck.swrst = false →
      ∃ t, exec (.powerOnResetRelease part tile field) s = .next t
        ∧ t.ck = { s.ck with por := false, field := field, relNs := 0 }
        ∧ reg t 0x4410 = part.extractLsb' 0 32 ∧ reg t 0x4414 = part.extractLsb' 32 32 ∧ reg t 0x4418 = tile.zeroExtend 32
        ∧ Only [.regs, .ck] s t ∧ Within [⟨0x4410, 4, 3⟩] s t)
  ∧ (∀ (part : BitVec 64) (tile : BitVec 5) (field : Bool) (s : State), s.ck.por = true → s.ck.trst = true →
      exec (.powerOnResetRelease part tile field) s = .next { s with ck := { s.ck with por := false, field := field } })

/-- O11. TILE_RESET_ASSERT outside power-on reset, and an accepted SOFTWARE_TILE_RESET (LMY_RST_CTL with SWRST 1 and KEY 0xA5, LOADED or
not), keep the applied level and clock, the time counter, LMY_CLK_SEEN, the sampled identity and the beacon registers;
LMY_RST_STATUS takes the cause (1 pin, 2 software) and a count one higher that saturates at 65,535; LMY_DBG_STATUS keeps STATE
and grants, or reads 0 where a purge was under way; every other register is at its reset value; memory lists nothing, queues,
tables, slots, reservations, sessions, keys and transfers are gone, counters read 0. TILE_RESET_RELEASE and SOFTWARE_RESET_END
end their reset; with no other reset in force the release clock starts at 0 and PARTID and TILEID are sampled; nothing else
changes. Rests in part on the model's choice of log entries 37 and 68. (spec/14_clocks_reset_waybill.md, spec/15_protection.md) -/
def Obligations.TileResetKeepsAndClears : Prop :=
  (∀ (s : State), s.ck.por = false →
      ∃ t, exec .tileResetAssert s = .next t ∧ tileResetLeaves 1 s t ∧ t.ck = { CkSt.reset with por := false, trst := true, swrst := s.ck.swrst, field := s.ck.field })
  ∧ (∀ (a : BusAcc) (w : Word) (s : State), inReset s = false → busMisfit a 0x440C = false → accessOk s a true 0x440C = true →
      w.getLsbD 0 = true → w.extractLsb' 8 8 = 0xA5 →
      ∃ t, exec (.softwareTileReset a w) s = .next t ∧ answered 0 t ∧ tileResetLeaves 2 s { t with bus := BusSt.reset }
        ∧ t.ck = { CkSt.reset with por := false, trst := false, swrst := true, field := s.ck.field })
  ∧ (∀ (part : BitVec 64) (tile : BitVec 5) (s : State), s.ck.trst = true → s.ck.por = false → s.ck.swrst = false →
      ∃ t, exec (.tileResetRelease part tile) s = .next t ∧ t.ck = { s.ck with trst := false, relNs := 0 }
        ∧ reg t 0x4410 = part.extractLsb' 0 32 ∧ reg t 0x4414 = part.extractLsb' 32 32 ∧ reg t 0x4418 = tile.zeroExtend 32
        ∧ Only [.regs, .ck] s t ∧ Within [⟨0x4410, 4, 3⟩] s t)
  ∧ (∀ (part : BitVec 64) (tile : BitVec 5) (s : State), s.ck.swrst = true → s.ck.por = false → s.ck.trst = false →
      ∃ t, exec (.softwareResetEnd part tile) s = .next t ∧ t.ck = { s.ck with swrst := false, relNs := 0 }
        ∧ reg t 0x4410 = part.extractLsb' 0 32 ∧ reg t 0x4414 = part.extractLsb' 32 32 ∧ reg t 0x4418 = tile.zeroExtend 32
        ∧ Only [.regs, .ck] s t ∧ Within [⟨0x4410, 4, 3⟩] s t)

/-- O12. CLOCK_SEEN outside power-on reset, for every clock number, sets that clock's bit of LMY_CLK_SEEN, keeps its other bits and
changes nothing else: bits 0 to 4 for CCLK, XCLK, TCLK, PCLK and WCLK, bits 16 to 25 for ECLK0 to ECLK9, bit 27 for ECLK11. (spec/14_clocks_reset_waybill.md) -/
def Obligations.ClockSeenSetsItsBit : Prop :=
  ∀ (clk : BitVec 4) (s : State), s.ck.por = false →
    ∃ t, exec (.clockSeen clk) s = .next t ∧ Only [.regs] s t ∧ Within [⟨0x4404, 0, 1⟩] s t
      ∧ ∀ i, regB t 0x4404 i = (regB s 0x4404 i ||
          decide (i = if clk.toNat < 5 then clk.toNat else if clk.toNat = 15 then 27 else 11 + clk.toNat))

/-- O13. CFG_REQUEST, with no reset in force, in EMPTY and with no request up, raises lmy_cfg_req and starts a load with nothing
received. CFG_WORD, while the request is up and the state is EMPTY or RECEIVING: a word that passes the header and structure
checks of R370 to R372 is taken (the image grows by it, the CRC of R373 covers it unless it is the last), STATE is RECEIVING, or
CHECKING with the CRC in LMY_WB_CRCCALC after the last word; the header's word 3 and LEN go to their registers with word 7; a
word that fails a check fails the load with its reason, TYPE and offset, cause 1 raised and the request down. Nothing else
changes. Rests in part on the model's choice of log entry 35. (spec/14_clocks_reset_waybill.md) -/
def Obligations.WaybillWordsAreReceived : Prop :=
  (∀ (s : State), inReset s = false → wbState s = 0 → s.ck.cfgReq = false →
      exec .cfgRequest s = .next { s with ck := { s.ck with
        cfgReq := true, waitNs := 0, img := [], nimg := 0, crc := 0xFFFFFFFF, nsect := 0, nextHdr := 0, lastTyp := 0, curTyp := 0 } })
  ∧ (∀ (w : Word) (s : State), inReset s = false → s.ck.cfgReq = true → wbState s ≤ 1 →
      ∃ t, exec (.cfgWord w) s = .next t ∧ Only [.regs, .tr, .dbg, .ck] s t
        ∧ Within ([⟨0x4420, 4, 5⟩, ⟨0x443C, 0, 1⟩] ++ eventRegs) s t
        ∧ ∀ len, len = (if s.ck.nimg = 2 then w.toNat else imgLen s.ck) →
          (∀ r, checkWord s.ck s.ck.nimg len w.toNat = some r → loadFailed r.1 r.2 (4 * s.ck.nimg) s t)
          ∧ (checkWord s.ck s.ck.nimg len w.toNat = none →
              t.ck = takeWord s.ck.nimg len w s.ck ∧ t.tr = s.tr ∧ t.dbg = s.dbg
              ∧ wbState t = (if 8 ≤ s.ck.nimg ∧ 4 * s.ck.nimg = len - 4 then 2 else 1)
              ∧ (8 ≤ s.ck.nimg → 4 * s.ck.nimg = len - 4 → reg t 0x4430 = BitVec.ofNat 32 (crcFin t.ck.crc.toNat))
              ∧ (s.ck.nimg = 7 → reg t 0x442C = BitVec.ofNat 32 len)))

/-- O14. WAYBILL_CHECK in CHECKING with no reset in force. An image whose CRC word matches and whose contents pass every check of R374 to
R377 is applied: STATE is LOADED, the request is down, the partition masks and the tally bindings hold the words of their
sections or the defaults, memory, counters and queues keep their values, and, where no level command was waiting, cause 0 is
pending. A wrong CRC fails the load with reason 9 at the last word; failing contents fail it with their reason, TYPE and offset.
LOAD_TIMEOUT while the request is up, in EMPTY or RECEIVING, after 2.75 ms without a first word or 1 ms without a next one,
fails the load with reason 14 at the offset reached. A failed load: STATE FAILED with the reason and TYPE, the offset in
LMY_WB_ERROFF, the request down, cause 2 pending for reason 14 and cause 1 otherwise, nothing else changed. Rests in part on the
model's choice of log entry 35. (spec/14_clocks_reset_waybill.md) -/
def Obligations.WaybillCheckLoadsOrFails : Prop :=
  (∀ (s : State), inReset s = false → wbState s = 2 → listGet 0 s.ck.img 0 = reg s 0x4430 →
      checkContent (imgSects s) (imgLen s.ck) ((reg s 0x4410).toNat + 2 ^ 32 * (reg s 0x4414).toNat) (reg s 0x4418).toNat = none →
      ∃ t, exec .waybillCheck s = .next t ∧ wbState t = 3 ∧ inReset t = false ∧ t.ck.cfgReq = false
        ∧ (∀ n, n < 24 → reg t (0x1000 + 4 * n) = BitVec.ofNat 32 (listGet 0 (sectWords (imgSects s) 4 24 dfltPart) n))
        ∧ (∀ n, n < 8 → reg t (0x3080 + 4 * n) = BitVec.ofNat 32 (listGet 0 (sectWords (imgSects s) 9 8 dfltTally) n))
        ∧ (s.pw.held = none → regB t 0x7000 0 = true) ∧ t.mem = s.mem ∧ t.tm = s.tm ∧ t.cnt = s.cnt ∧ t.sq = s.sq)
  ∧ (∀ (s : State), inReset s = false → wbState s = 2 → listGet 0 s.ck.img 0 ≠ reg s 0x4430 →
      ∃ t, exec .waybillCheck s = .next t ∧ loadFailed 9 0 (imgLen s.ck - 4) s t)
  ∧ (∀ (s : State) (r : Nat × Nat × Nat), inReset s = false → wbState s = 2 → listGet 0 s.ck.img 0 = reg s 0x4430 →
      checkContent (imgSects s) (imgLen s.ck) ((reg s 0x4410).toNat + 2 ^ 32 * (reg s 0x4414).toNat) (reg s 0x4418).toNat = some r →
      ∃ t, exec .waybillCheck s = .next t ∧ loadFailed r.1 r.2.1 r.2.2 s t)
  ∧ (∀ (s : State), inReset s = false → s.ck.cfgReq = true → wbState s ≤ 1 →
      (if s.ck.nimg = 0 then 2750000 else 1000000) ≤ s.ck.waitNs →
      ∃ t, exec .loadTimeout s = .next t ∧ loadFailed 14 0 (4 * s.ck.nimg) s t)

/-- O15. An accepted COUNTER_LOW_READ answers bits 31 to 0 of its counter and puts bits 55 to 32 into the shadow of the reader's level.
In a LOADED block XC_LO_READ does the same for the selected extended counter, or for 0 where the index is not listed or the
level may not read it; XC_HI_READ answers the shadow, and with AUTOINC 1 its level's INDEX goes up by 1, from 4,095 to 0. Other
levels' shadows and selections keep their values. XC_CLEAR by an accepted write with CLR 1 sets every extended counter to 0 and
EN to the written bit. Nothing else changes but the bus answer. (spec/16_counters_trace.md, spec/20_register_map.md) -/
def Obligations.CounterReadsLatchTheHighBits : Prop :=
  (∀ (a : BusAcc) (off : BitVec 16) (s : State), (cntCode s off.toNat).isSome = true → accepts a false off.toNat s →
      ∃ t, exec (.counterLowRead a off) s = .next t ∧ Only [.bus] s t
        ∧ answered (BitVec.ofNat 32 (NMap.get 0 s.cnt off.toNat).toNat) t
        ∧ ∀ l, NMap.get 0 t.bus.cntSh l =
            if l = a.priv.toNat then (NMap.get 0 s.cnt off.toNat).extractLsb' 32 24 else NMap.get 0 s.bus.cntSh l)
  ∧ (∀ (a : BusAcc) (s : State), accepts a false 0x5F08 s → wbState s = 3 →
      ∃ t, exec (.xcLoRead a) s = .next t ∧ Only [.bus] s t
        ∧ ∀ i c, i = (NMap.get 0 s.bus.xcSel a.priv.toNat).toNat % 4096 → c = (if xcReadable s a.priv.toNat i then NMap.get 0 s.xc i else 0) →
            answered (BitVec.ofNat 32 c.toNat) t
            ∧ ∀ l, NMap.get 0 t.bus.cntSh l = if l = a.priv.toNat then c.extractLsb' 32 24 else NMap.get 0 s.bus.cntSh l)
  ∧ (∀ (a : BusAcc) (s : State), accepts a false 0x5F0C s → wbState s = 3 →
      ∃ t, exec (.xcHiRead a) s = .next t ∧ Only [.bus] s t
        ∧ answered (BitVec.ofNat 32 (NMap.get 0 s.bus.cntSh a.priv.toNat).toNat) t ∧ t.bus.cntSh = s.bus.cntSh
        ∧ ∀ l n, n = (NMap.get 0 s.bus.xcSel l).toNat →
            (NMap.get 0 t.bus.xcSel l).toNat % 4096 = (if l = a.priv.toNat ∧ n.testBit 16 = true then (n + 1) % 4096 else n % 4096))
  ∧ (∀ (a : BusAcc) (w : Word) (s : State), accepts a true 0x5F00 s → w.getLsbD 1 = true →
      ∃ t, exec (.xcClear a w) s = .next t ∧ Only [.bus, .xc, .regs] s t ∧ Within [⟨0x5F00, 0, 1⟩] s t ∧ answered 0 t
        ∧ (∀ i, NMap.get 0 t.xc i = 0) ∧ regB t 0x5F00 0 = w.getLsbD 0)

/-- O16. Every privilege level of initiators 0 and 1 may read LMY_TM_LO and LMY_TM_HI (an access not marked as the tile DMA's). An
accepted read of LMY_TM_LO answers bits 31 to 0 of the time counter; LMY_TM_HI then reads bits 63 to 32 at that level and what
it read before at every other level, the counter shadows keep their values, and nothing but the bus answer and that shadow
changes. (R426) -/
def Obligations.TimeReadLatchesTheHighBits : Prop :=
  (∀ (a : BusAcc) (s : State), a.init.toNat < 2 → a.dma = false → accessOk s a false 0x6040 = true ∧ accessOk s a false 0x6044 = true)
  ∧ ∀ (a : BusAcc) (s : State), accepts a false 0x6040 s →
      ∃ t, exec (.timeLowRead a) s = .next t ∧ Only [.bus] s t ∧ answered (s.tm.t.extractLsb' 0 32) t
        ∧ (∀ i, readReg t a.priv.toNat i 0x6044 = (s.tm.t.extractLsb' 32 32).toNat)
        ∧ (∀ l i, l ≠ a.priv.toNat → readReg t l i 0x6044 = readReg s l i 0x6044)
        ∧ t.bus.cntSh = s.bus.cntSh ∧ t.bus.xcSel = s.bus.xcSel ∧ t.bus.baddr = s.bus.baddr

/-- O17. REGISTER_WRITE, accepted and naming an item of the writer's where its value names one, answers without an error at every offset.
At an RW register without behaviour of its own it stores the writable bits; at a W1C register each 1 of a W1C bit clears it and
every other bit stays; at an error log bit 0 clears VALID and OVF, bit 1 alone OVF; in each case nothing else but the bus answer
changes. (spec/00_scope.md, spec/20_register_map.md) -/
def Obligations.RegisterWritesFollowTheirAccessType : Prop :=
  (∀ (a : BusAcc) (off : BitVec 16) (w : Word) (s : State), accepts a true off.toNat s → namesMine a off.toNat w s = true →
      ∃ t, exec (.registerWrite a off w) s = .next t ∧ answered 0 t)
  ∧ (∀ (a : BusAcc) (off : BitVec 16) (w : Word) (s : State) (m : Nat), accepts a true off.toNat s → namesMine a off.toNat w s = true →
      plainMask off.toNat = some m →
      ∃ t, exec (.registerWrite a off w) s = .next t ∧ answered 0 t ∧ Only [.bus, .regs] s t ∧ Within [⟨off.toNat, 0, 1⟩] s t
        ∧ reg t off.toNat = w &&& BitVec.ofNat 32 m)
  ∧ (∀ (a : BusAcc) (off : BitVec 16) (w : Word) (s : State) (m : Nat), accepts a true off.toNat s → namesMine a off.toNat w s = true →
      plainMask off.toNat = none → w1cMask off.toNat = some m →
      ∃ t, exec (.registerWrite a off w) s = .next t ∧ answered 0 t ∧ Only [.bus, .regs] s t ∧ Within [⟨off.toNat, 0, 1⟩] s t
        ∧ ∀ i, (reg t off.toNat).getLsbD i = ((reg s off.toNat).getLsbD i && !(w.getLsbD i && (BitVec.ofNat 32 m).getLsbD i)))
  ∧ (∀ (a : BusAcc) (off : BitVec 16) (w : Word) (s : State), accepts a true off.toNat s → off.toNat ∈ logRegs →
      ∃ t, exec (.registerWrite a off w) s = .next t ∧ answered 0 t ∧ Only [.bus, .regs] s t ∧ Within [⟨off.toNat, 0, 1⟩] s t
        ∧ ∀ i, (reg t off.toNat).getLsbD i = ((reg s off.toNat).getLsbD i && !(decide (i < 2) && w.getLsbD 0) && !(i == 1 && w.getLsbD 1)))

/-- O18. An error that finds VALID 0 in the log at an offset puts both words of its description there, with VALID 1; one that finds VALID
1 sets OVF and leaves every other bit of both words. An accepted write of 1 to VALID of any of the ten logs clears VALID and OVF
together, a write of 1 to OVF alone clears OVF, and both leave the rest of the two words. (R59) -/
def Obligations.ErrorLogsKeepTheFirstError : Prop :=
  (∀ (o w0 w1 : Nat) (s : State), regB s o 0 = false →
      reg (fillLog o w0 w1 s) o = BitVec.ofNat 32 (1 + w0) ∧ reg (fillLog o w0 w1 s) (o + 4) = BitVec.ofNat 32 w1)
  ∧ (∀ (o w0 w1 : Nat) (s : State), regB s o 0 = true →
      (∀ i, (reg (fillLog o w0 w1 s) o).getLsbD i = ((reg s o).getLsbD i || i == 1)) ∧ reg (fillLog o w0 w1 s) (o + 4) = reg s (o + 4))
  ∧ (∀ (a : BusAcc) (off : BitVec 16) (w : Word) (s : State), off.toNat ∈ logRegs → accepts a true off.toNat s → w.getLsbD 0 = true →
      ∃ t, exec (.registerWrite a off w) s = .next t ∧ reg t (off.toNat + 4) = reg s (off.toNat + 4)
        ∧ ∀ i, (reg t off.toNat).getLsbD i = ((reg s off.toNat).getLsbD i && decide (2 ≤ i)))
  ∧ (∀ (a : BusAcc) (off : BitVec 16) (w : Word) (s : State), off.toNat ∈ logRegs → accepts a true off.toNat s → w.getLsbD 0 = false →
      w.getLsbD 1 = true →
      ∃ t, exec (.registerWrite a off w) s = .next t ∧ reg t (off.toNat + 4) = reg s (off.toNat + 4)
        ∧ ∀ i, (reg t off.toNat).getLsbD i = ((reg s off.toNat).getLsbD i && i != 1))

/-- O19. In every state a REGISTER_WRITE of the offset and value that a command of the table stands for does what that command does:
SOFTWARE_TILE_RESET, XC_CLEAR, QUARANTINE_RELEASE, TALLY_INC, the four queue commands, HELD_CANCEL, PT_DATA_WRITE,
BT_DATA_WRITE, TBLVALID_WRITE, DOMAIN_REQ_WRITE, BDATA_WRITE, ARM, ABORT, PROPOSE, CANCEL, REKEY, DIGEST_COMPLETE, the trace
commands, LOCAL_HALT, LOCAL_RUN, SCAN_CAPTURE, BANK_READOUT, HANG_CAPTURE, HANG_RELEASE, WATCH_READOUT, FORWARD, FWD_CANCEL, ACK
and RESUMEAUTO. Rests in part on the model's choice of log entry 73. (spec/20_register_map.md, spec/95_what_each_step_holds.md) -/
def Obligations.RegisterWriteIsItsCommand : Prop :=
  ∀ (a : BusAcc) (w : Word) (s : State),
    exec (.registerWrite a 0x440C w) s = exec (.softwareTileReset a w) s
    ∧ exec (.registerWrite a 0x5F00 w) s = exec (.xcClear a w) s
    ∧ exec (.registerWrite a 0x28E0 w) s = exec (.quarantineRelease a w) s
    ∧ exec (.registerWrite a 0x3014 w) s = exec (.tallyInc a (w.extractLsb' 0 6)) s
    ∧ (w.extractLsb' 8 3 = 1 → exec (.registerWrite a 0x3010 w) s = exec (.queueResume a (w.extractLsb' 0 6)) s)
    ∧ (w.extractLsb' 8 3 = 2 → exec (.registerWrite a 0x3010 w) s = exec (.queueSkip a (w.extractLsb' 0 6)) s)
    ∧ (w.extractLsb' 8 3 = 3 → exec (.registerWrite a 0x3010 w) s = exec (.queueFlush a (w.extractLsb' 0 6)) s)
    ∧ (w.extractLsb' 8 3 = 4 → exec (.registerWrite a 0x3010 w) s = exec (.queuePause a (w.extractLsb' 0 6)) s)
    ∧ exec (.registerWrite a 0x2450 w) s = exec (.heldCancel a w) s
    ∧ exec (.registerWrite a 0x8004 w) s = exec (.ptDataWrite a w) s
    ∧ exec (.registerWrite a 0xA004 w) s = exec (.btDataWrite a w) s
    ∧ exec (.registerWrite a 0xA060 w) s = exec (.tblvalidWrite a w) s
    ∧ exec (.registerWrite a 0x40A0 w) s = exec (.domainReqWrite a w) s
    ∧ exec (.registerWrite a 0x3814 w) s = exec (.bdataWrite a w) s
    ∧ (w.extractLsb' 8 2 = 1 → exec (.registerWrite a 0x3808 w) s = exec (.arm a (w.extractLsb' 0 6)) s)
    ∧ (w.extractLsb' 8 2 = 2 → exec (.registerWrite a 0x3808 w) s = exec (.abort a (w.extractLsb' 0 6)) s)
    ∧ (w.extractLsb' 0 2 = 1 → exec (.registerWrite a 0x4810 w) s = exec (.propose a) s)
    ∧ (w.extractLsb' 0 2 = 2 → exec (.registerWrite a 0x4810 w) s = exec (.cancel a) s)
    ∧ (w.extractLsb' 0 2 = 3 → exec (.registerWrite a 0x4810 w) s = exec (.rekey a (w.extractLsb' 4 3)) s)
    ∧ exec (.registerWrite a 0x4824 w) s = exec (.digestComplete a 0x4824 w) s
    ∧ exec (.registerWrite a 0x482C w) s = exec (.digestComplete a 0x482C w) s
    ∧ exec (.registerWrite a 0x6010 1) s = exec (.traceTrig a) s
    ∧ exec (.registerWrite a 0x6010 2) s = exec (.traceFlush a) s
    ∧ exec (.registerWrite a 0x6010 4) s = exec (.traceRearm a) s
    ∧ exec (.registerWrite a 0x6010 8) s = exec (.traceSync a) s
    ∧ exec (.registerWrite a 0x601C w) s = exec (.traceRptrWrite a w) s
    ∧ exec (.registerWrite a 0x6000 w) s = exec (.traceEnable a w) s
    ∧ exec (.registerWrite a 0x6000 w) s = exec (.traceDisable a w) s
    ∧ exec (.registerWrite a 0x6804 1) s = exec (.localHalt a) s
    ∧ exec (.registerWrite a 0x6804 2) s = exec (.localRun a) s
    ∧ exec (.registerWrite a 0x6810 1) s = exec (.scanCapture a) s
    ∧ exec (.registerWrite a 0x6820 w) s = exec (.bankReadout a w) s
    ∧ exec (.registerWrite a 0x6900 1) s = exec (.hangCapture a) s
    ∧ exec (.registerWrite a 0x6900 2) s = exec (.hangRelease a) s
    ∧ exec (.registerWrite a 0x6B10 w) s = exec (.watchReadout a w) s
    ∧ (w.extractLsb' 0 3 = 1 → exec (.registerWrite a 0x7048 w) s = exec (.forward a (w.extractLsb' 4 3) (w.extractLsb' 8 12)) s)
    ∧ (w.extractLsb' 0 3 = 2 → exec (.registerWrite a 0x7048 w) s = exec (.fwdCancel a) s)
    ∧ (w.extractLsb' 0 3 = 3 → exec (.registerWrite a 0x7048 w) s = exec (.ack a) s)
    ∧ (w.extractLsb' 0 3 = 4 → exec (.registerWrite a 0x7048 w) s = exec (.resumeauto a) s)

/-- O20. OWN_READ_REQUEST on a read lane, OWN_WRITE_REQUEST and OWN_ATOMIC_REQUEST on a write lane, of a served block whose channel holds
no waiting request and with a request that R108 does not refuse: the block takes it at once into one new transfer behind all
others, of the lane's requester, client and context, with one beat for each row, each at view OFFSET + 128 b, on that lane (an
atomic with RET also on its return lane). Nothing but the frame changes. Rests in part on the model's choice of log entry 42. (spec/04_sorting_frame.md, spec/19_boundary.md) -/
def Obligations.OwnRequestsEnterArbitration : Prop :=
  (∀ (lane : Nat) (rq : BitVec 64) (s : State), serving s = true → hasChan false lane = true → (chan s false lane).dcq = [] →
      rqOp rq.toNat = 0 → rqKind s false lane rq.toNat = none →
      ∃ t T, exec (.ownReadRequest false lane rq) s = .next t ∧ Only [.fr] s t ∧ t.fr.trs = s.fr.trs ++ [T] ∧ T.id = s.fr.nextId
        ∧ t.fr.nextId = s.fr.nextId + 1 ∧ t.fr.rl = s.fr.rl ∧ t.fr.wl = s.fr.wl
        ∧ T.kind = .rd ∧ T.req = 64 + lane ∧ T.slip = 0 ∧ T.client = rlClient lane ∧ T.ctx = rlBind s lane % 8 ∧ T.rlanes = [lane] ∧ T.wlane = 0
        ∧ T.beats = (List.range (rqBeats rq.toNat)).map fun b =>
            mkBeat s (rlBind s lane % 8) (rqVa rq.toNat) (vaOff (rqVa rq.toNat) + 128 * b : Nat) false)
  ∧ (∀ (lane : Nat) (rq : BitVec 64) (s : State), serving s = true → hasChan true lane = true → (chan s true lane).dcq = [] →
      rqOp rq.toNat = 1 → rqKind s true lane rq.toNat = none →
      ∃ t T, exec (.ownWriteRequest true lane rq) s = .next t ∧ Only [.fr] s t ∧ t.fr.trs = s.fr.trs ++ [T] ∧ T.id = s.fr.nextId
        ∧ t.fr.nextId = s.fr.nextId + 1 ∧ t.fr.rl = s.fr.rl ∧ t.fr.wl = s.fr.wl
        ∧ T.kind = .wr ∧ T.req = 129 + lane ∧ T.slip = 0 ∧ T.client = wlClient lane ∧ T.ctx = wlBind s lane % 8 ∧ T.rlanes = []
        ∧ T.wlane = lane + 1
        ∧ T.beats = (List.range (rqBeats rq.toNat)).map fun b =>
            mkBeat s (wlBind s lane % 8) (rqVa rq.toNat) (vaOff (rqVa rq.toNat) + 128 * b : Nat) true)
  ∧ (∀ (lane : Nat) (rq : BitVec 64) (s : State), serving s = true → hasChan true lane = true → (chan s true lane).dcq = [] →
      rqOp rq.toNat = 2 → rqKind s true lane rq.toNat = none →
      ∃ t T, exec (.ownAtomicRequest true lane rq) s = .next t ∧ Only [.fr] s t ∧ t.fr.trs = s.fr.trs ++ [T] ∧ T.id = s.fr.nextId
        ∧ t.fr.nextId = s.fr.nextId + 1 ∧ t.fr.rl = s.fr.rl ∧ t.fr.wl = s.fr.wl
        ∧ T.kind = .at ∧ T.req = 129 + lane ∧ T.slip = 0 ∧ T.client = wlClient lane ∧ T.ctx = wlBind s lane % 8
        ∧ T.rlanes = (if rqRet rq.toNat = true then [clientRl (wlClient lane) + rqRlane rq.toNat] else [])
        ∧ T.wlane = lane + 1 ∧ T.atop = rqAtop rq.toNat
        ∧ T.beats = [mkBeat s (wlBind s lane % 8) (rqVa rq.toNat) (vaOff (rqVa rq.toNat) : Nat) true])

/-- O21. Each of the three own-request commands, of a served block whose channel holds no waiting request, with a request that R108
refuses for a kind: it adds 1 to the client's LMY_CNT_LANE_MALF, fills LMY_LANE_FAULT_LOG where VALID was 0 (side, lane, kind,
client) and sets OVF otherwise, and makes cause 22 pending. It changes no lane and no other counter. A request of OP 3 or not
allowed on its lane is discarded alone. A read on a read lane becomes a transfer of BEATS + 1 generated flits, with no bank
access, on that lane. Rests in part on the model's choice of log entry 42. (spec/04_sorting_frame.md, spec/02_banks.md) -/
def Obligations.MalformedOwnRequestsAreRefused : Prop :=
  ∀ (c : Instr) (wr : Bool) (lane : Nat) (rq : BitVec 64) (s : State) (k : Nat),
    c ∈ [Instr.ownReadRequest wr lane rq, Instr.ownWriteRequest wr lane rq, Instr.ownAtomicRequest wr lane rq] →
    serving s = true → hasChan wr lane = true → (chan s wr lane).dcq = [] → rqKind s wr lane rq.toNat = some k →
    ∃ t, exec c s = .next t ∧ Only [.fr, .regs, .cnt, .tr, .dbg] s t ∧ Within ([⟨0x1818, 0, 1⟩, ⟨0x5600, 0x20, 12⟩] ++ eventRegs) s t
      ∧ regB t 0x7000 22 = true ∧ t.fr.rl = s.fr.rl ∧ t.fr.wl = s.fr.wl
      ∧ (∀ o, NMap.get 0 t.cnt o = NMap.get 0 s.cnt o + if o = 0x5600 + 0x20 * ownClient wr lane then 1 else 0)
      ∧ (regB s 0x1818 0 = false → reg t 0x1818 = BitVec.ofNat 32 (1 + fld (b2n wr) 2 + fld lane 4 + fld k 12 + fld (ownClient wr lane) 16))
      ∧ (regB s 0x1818 0 = true → reg t 0x1818 = reg s 0x1818 ||| 2)
      ∧ ((rqOp rq.toNat = 3 ∨ (wr = true ∧ rqOp rq.toNat = 0) ∨ (wr = false ∧ rqOp rq.toNat ≠ 0)) → t.fr.trs = s.fr.trs)
      ∧ (wr = false → rqOp rq.toNat = 0 → ∃ T, t.fr.trs = s.fr.trs ++ [T] ∧ T.id = s.fr.nextId ∧ T.kind = .rd ∧ T.slip = 0
          ∧ T.rlanes = [lane] ∧ T.ctx = rlBind s lane % 8 ∧ T.beats = List.replicate (rqBeats rq.toNat) genBeat)

/-- O22. With no reset in force. WRITE_FLIT_TAKEN puts a flit at the end of a write queue of fewer than 16. DCQ_CROSSING makes one more
entry of a read or write queue readable; of a served request channel with one waiting request it takes that request (by OP and
kind as the own-request commands do); its ticket forms show the engine the channel's last ticket. WRITE_FLIT_TO_STAGING, of a
served block with room in staging, moves the readable head into staging where an issued own request of the lane takes it, and
also where no slip uses the lane (on WL40 and WL41: where it is a taken own request's). READ_FLIT_TAKE removes the readable head
and returns one credit, which a halted block holds until it resumes. LANDING_TO_DCQ of a running block moves the head of the
landing buffer into a read queue of fewer than 16, unchanged but for a slip's flit on RL60 or RL61. Rests in part on the model's
choice of log entries 42, 78 and 83. (spec/04_sorting_frame.md, spec/19_boundary.md, spec/14_clocks_reset_waybill.md) -/
def Obligations.FlitsMoveBetweenQueues : Prop :=
  (∀ (lane : Nat) (data : Row) (sb : BitVec 81) (s : State), inReset s = false → lane < 45 → (wlane s lane).dcq.length < 16 →
      ∃ t, exec (.writeFlitTaken lane data sb) s = .next t ∧ Only [.fr, .pw] s t ∧ t.fr.rl = s.fr.rl ∧ t.fr.ch = s.fr.ch ∧ t.fr.trs = s.fr.trs
        ∧ ∀ l, wlane t l = if l = lane then { wlane s l with dcq := (wlane s l).dcq ++ [(data, sb)], nput := (wlane s l).nput + 1 } else wlane s l)
  ∧ (∀ (lane : Nat) (s : State), inReset s = false →
      (∃ t, exec (.dcqCrossing .rd lane) s = .next t ∧ Only [.fr] s t ∧ t.fr.wl = s.fr.wl ∧ t.fr.ch = s.fr.ch ∧ t.fr.trs = s.fr.trs
        ∧ ∀ l, rlane t l = if l = lane then { rlane s l with seen := min (rlane s l).dcq.length ((rlane s l).seen + 1) } else rlane s l)
      ∧ (∃ t, exec (.dcqCrossing .wr lane) s = .next t ∧ Only [.fr] s t ∧ t.fr.rl = s.fr.rl ∧ t.fr.ch = s.fr.ch ∧ t.fr.trs = s.fr.trs
        ∧ ∀ l, wlane t l = if l = lane then { wlane s l with seen := min (wlane s l).dcq.length ((wlane s l).seen + 1) } else wlane s l)
      ∧ (∀ wr, ∃ t, exec (.dcqCrossing (if wr = true then .wqTicket else .rqTicket) lane) s = .next t ∧ Only [.fr] s t ∧ t.fr.trs = s.fr.trs
        ∧ chan t wr lane = { chan s wr lane with tktOut := (chan s wr lane).tkt, waitOut := (chan s wr lane).wait })
      ∧ (∀ wr r, serving s = true → (chan s wr lane).dcq = [r] → ∃ t, exec (.dcqCrossing (if wr = true then .wq else .rq) lane) s = .next t
        ∧ (chan t wr lane).dcq = [] ∧ (chan t wr lane).seen = 0 ∧ t.fr.rl = s.fr.rl ∧ t.fr.wl = s.fr.wl
        ∧ (rqKind s wr lane r.toNat = none → t.fr.trs.length = s.fr.trs.length + 1)))
  ∧ (∀ (lane : Nat) (par : Mask4) (s : State) (d : Row × BitVec 81) (rest : List (Row × BitVec 81)), serving s = true →
      (wlane s lane).dcq = d :: rest → (wlane s lane).seen ≠ 0 → (wlane s lane).staging.length < 16 → lane ≠ 42 → lane ≠ 43 →
      ((wlane s lane).staging.length < owed s lane ∨ (owed s lane ≤ (wlane s lane).staging.length ∧ laneSlip s lane = none ∧ ((lane ≠ 40 ∧ lane ≠ 41) ∨ ownsNext s lane = true))) →
      ∃ t, exec (.writeFlitToStaging lane par) s = .next t ∧ Only [.fr] s t ∧ t.fr.rl = s.fr.rl ∧ t.fr.ch = s.fr.ch ∧ t.fr.trs = s.fr.trs
        ∧ ∀ l, wlane t l = if l = lane then { wlane s l with
            dcq := rest, seen := (wlane s l).seen - 1, staging := (wlane s l).staging ++ [mkWFlit d.1 d.2] } else wlane s l)
  ∧ (∀ (lane : Nat) (s : State) (f : OutFlit) (rest : List OutFlit), inReset s = false → (rlane s lane).dcq = f :: rest → (rlane s lane).seen ≠ 0 →
      ∃ t, exec (.readFlitTake lane) s = .next t ∧ t.fr.wl = s.fr.wl ∧ t.fr.ch = s.fr.ch ∧ t.fr.trs = s.fr.trs ∧ t.mem = s.mem ∧ t.cnt = s.cnt
        ∧ ∀ l, rlane t l = if l = lane then { rlane s l with
            dcq := rest, seen := (rlane s l).seen - 1
            cred := (rlane s l).cred + (if halted s = true then 0 else 1), owe := (rlane s l).owe + (if halted s = true then 1 else 0) } else rlane s l)
  ∧ (∀ (lane : Nat) (s : State) (f : OutFlit) (rest : List OutFlit), running s = true → (rlane s lane).landing = f :: rest →
      (rlane s lane).dcq.length < 16 → (f.slip = 0 ∨ (lane ≠ 60 ∧ lane ≠ 61)) →
      ∃ t, exec (.landingToDcq lane) s = .next t ∧ t.fr.wl = s.fr.wl ∧ t.fr.ch = s.fr.ch ∧ t.fr.trs = s.fr.trs ∧ t.mem = s.mem
        ∧ ∀ l, rlane t l = if l = lane then { rlane s l with landing := rest, dcq := (rlane s l).dcq ++ [f], nput := (rlane s l).nput + 1 }
            else rlane s l)

/-- O23. LANE_ISSUE of a served block: every read lane's and every write lane's order is as before or has one transfer more at its end (a
candidate that names a lane twice, which decoding refuses, apart); the order of a lane that has issued in this cycle is as
before; and no lane loses a queue entry, staging entry or credit. Where the first waiting request in rank order is a client's
own and its lanes have not issued in this cycle, it is issued to all of them. Memory, registers outside the queue log and the
event registers, and time keep their values. Rests in part on the model's choice of log entry 46. (spec/09_arbitration.md) -/
def Obligations.LaneIssueAppendsAtMostOnePerLane : Prop :=
  ∀ (s : State), serving s = true → ∃ t, exec .laneIssue s = .next t ∧ t.mem = s.mem ∧ t.tm = s.tm ∧ t.fr.ch = s.fr.ch ∧ Within ([⟨0x3008, 4, 2⟩] ++ eventRegs) s t
    ∧ (∀ l, ∃ ids, (ids.length ≤ 1 ∨ ∃ c ∈ issueCands s, 2 ≤ c.rlanes.count l) ∧ (l ∈ s.fr.issued → ids = []) ∧ rlane t l = { rlane s l with order := (rlane s l).order ++ ids })
    ∧ (∀ l, ∃ ids c, ids.length ≤ 1 ∧ (100 + l ∈ s.fr.issued → ids = []) ∧ wlane t l = { wlane s l with order := (wlane s l).order ++ ids, claim := c })
    ∧ (∀ c rest, rankTrs s (issueCands s) = c :: rest → c.slip = 0 → c.rlanes.length ≤ 1 →
        (∀ l ∈ c.rlanes, l ∉ s.fr.issued) → (c.wlane ≠ 0 → 99 + c.wlane ∉ s.fr.issued) →
        (∀ l, l ∈ c.rlanes → (rlane t l).order = (rlane s l).order ++ [c.id])
        ∧ (c.wlane ≠ 0 → (wlane t (c.wlane - 1)).order = (wlane s (c.wlane - 1)).order ++ [c.id]))

/-- O24. WRITE_TRANSFER_REQUEST of a served lane whose first transfer that has not requested is an own write or atomic with all its flits
in staging: each beat takes data, enables and poison of its flit in order, and the transfer asks for arbitration in this cycle;
nothing else changes. READ_FLIT_OUTPUT of a running block with no converted flit waiting at the lane, whose first transfer there
is a client's own with its next beat ready, no parity error and room to land: the flit of that beat (what was read; for a row
that is not accessed 0x00 bytes, all poisoned), with poison, context, OWN and, on the last, LAST, enters the lane's landing
buffer; the transfer leaves the lane's order after its last beat; no other lane changes. (spec/04_sorting_frame.md) -/
def Obligations.OwnTransfersTakeRowsAndDeliver : Prop :=
  (∀ (lane : Nat) (s : State) (T : Tr) (n : Nat), serving s = true → firstWaiting s (wlane s lane).order 0 = some (T, n) → T.slip = 0 →
      T.kind ≠ .drop → n + T.beats.length ≤ (wlane s lane).staging.length →
      ∃ t, exec (.writeTransferRequest lane) s = .next t ∧ Only [.fr] s t ∧ t.fr.rl = s.fr.rl ∧ t.fr.wl = s.fr.wl ∧ t.fr.ch = s.fr.ch
        ∧ trOf t T.id = some { T with
            ready := true, rcyc := s.cyc + 1
            beats := List.zipWith (fun b f => { b with data := f.data, pois := f.pois, en := f.en }) T.beats ((wlane s lane).staging.drop n) })
  ∧ (∀ (lane : Nat) (s : State) (T : Tr) (n id : Nat) (b : Beat) (ids : List Nat), running s = true → (rlane s lane).cur = 0 → (rlane s lane).order = id :: ids →
      trOf s id = some T → T.slip = 0 → n = NMap.get 0 T.passed lane → T.beats[n]? = some b → beatReady s T n = true →
      NMap.get 0 s.rx.res T.id = 0 → (rlane s lane).landing.length < 24 →
      ∃ t, exec (.readFlitOutput lane ⟨0, 0, 0, 0⟩ 0) s = .next t ∧ t.fr.wl = s.fr.wl ∧ t.fr.ch = s.fr.ch ∧ t.mem = s.mem ∧ t.regs = s.regs
        ∧ (∀ l, l ≠ lane → rlane t l = rlane s l)
        ∧ rlane t lane = { rlane s lane with
            landing := (rlane s lane).landing ++ [if b.bad = 0 then ⟨b.data, sideband b.pois.toNat T.ctx (n + 1 == T.beats.length) 0 0 [] true, 0, 0, T.g0⟩
              else ⟨0, sideband 0xF T.ctx (n + 1 == T.beats.length) 0 0 [] true, 0, 0, T.g0⟩]
            order := if T.beats.length ≤ n + 1 then ids else id :: ids }
        ∧ trOf t id = some { T with passed := NMap.set 0 T.passed lane (n + 1) })

/-- O25. With the block running or, for the first two, its exempt traffic going on in a halt. ARRAY_READ of a bank and port whose next
granted read beat (of a lane, a parking read or an internal port) is beat n of transfer T: that beat is performed and holds the
row as read in its array cycle (what it held already, if it was performed before a pre-emption); the other beats of T, and
memory, are as before. ARRAY_WRITE, with a next write beat: the enabled chunks of its row (on port B, those that port A's beat
of the same row and cycle does not store) hold the beat's data (for the stop slot the row that holds it) and marks, with the
chunks that failed parity marked; all else in the banks is as before. ATOMIC_EXECUTE in a running block: the row is read and the
result of R43 to R45 is stored in the chunks it names, and no other; the beat then holds the row as read. WRITE_BACK in a
running block of a bank that is On with an idle port, room for a dual write that it produces, and a slot whose read was at least
three array cycles ago: the slot's chunk is stored, the rest of its row and of the banks is as before, and the slot is empty.
Rests in part on the model's choice of log entries 70 and 86. (spec/02_banks.md, spec/09_arbitration.md) -/
def Obligations.ArrayCyclesReadAndStoreRows : Prop :=
  (∀ (bank : Nat) (port : Bool) (ups : List Upset) (s : State) (T : Tr) (n : Nat) (b : Beat), arraysGo s = true →
      nextBeat s bank port [.rd, .park, .ird] = some (T, n) → T.beats[n]? = some b → trOf s T.id = some T →
      ∃ t U, exec (.arrayRead bank port ups) s = .next t ∧ t.mem = s.mem ∧ trOf t T.id = some U ∧ U.beats.length = T.beats.length
        ∧ (let c := beatCyc s T n + (if T.job = .copyRd then 2 else 0)
           let r := (readRow c b.bank b.row (readerOf T port) ups s).1
           U.beats[n]? = some (if b.have_ = true then { b with done := true } else { b with
             done := true, have_ := true, once := true, data := r.data, pois := r.pois
             en := if T.kind ≠ .ird then b.en else if T.job = .bankRd then r.corr else initMap s c b.bank b.row }))
        ∧ ∀ i, i ≠ n → U.beats[i]? = T.beats[i]?)
  ∧ (∀ (bank : Nat) (port : Bool) (par : Parity) (s : State) (T : Tr) (n : Nat) (b : Beat), arraysGo s = true →
      nextBeat s bank port [.wr, .parkWr, .iwr] = some (T, n) → T.beats[n]? = some b → b.row < 512 →
      ∃ t, exec (.arrayWrite bank port par) s = .next t
        ∧ let c := beatCyc s T n
          let p := legParity s ⟨true, T.id, c, (T.wlane - 1) / 5, pbankOf s b.bank / 4, par.plane.toNat⟩ par
          Stored (pbankOf s b.bank) b.row
            (if port = true then b.en.toNat &&& (15 - (otherStore s c (pbankOf s b.bank) b.row port).getD 0) else b.en.toNat)
            (if T.job = .stopSlot then stopSlotRow s b else b.data)
            (if T.kind = .wr then b.pois ||| parityMask p else b.pois) s t)
  ∧ (∀ (bank : Nat) (port : Bool) (ups : List Upset) (par : Parity) (s : State) (T : Tr) (n : Nat) (b : Beat), running s = true →
      nextBeat s bank port [.at] = some (T, n) → T.beats[n]? = some b → b.row < 512 →
      ∃ t, exec (.atomicExecute bank port ups par) s = .next t
        ∧ let l : Crossing := ⟨true, T.id, T.gcyc + T.offs, (T.wlane - 1) / 5, pbankOf s b.bank / 4, par.plane.toNat⟩
          let p := legParity s l par
          let r := readRow (T.gcyc + T.offs) b.bank b.row ⟨port, 1, T.client, false⟩ ups
            (netParity true p (T.wlane - 1) (portNo s b.bank port) (markPlane l p s))
          let x := atomicResult T.atop b.byte r.1.data r.1.pois b.data (b.pois ||| parityMask p)
          Stored (pbankOf s b.bank) b.row x.2.1.toNat x.1 x.2.2 r.2 t ∧ r.2.mem = s.mem
            ∧ (T.beats = [b] → trOf s T.id = some T → ∃ U, trOf t T.id = some U
                ∧ U.beats = [{ b with done := true, have_ := true, data := r.1.data, pois := r.1.pois }]))
  ∧ (∀ (bank : Nat) (s : State) (w : WbSlot), running s = true → bankOn s bank = true → portIdle s bank = true →
      NMap.get none s.bank.wb bank = some w → w.cyc + 3 ≤ s.cyc → wbWaits s bank w.row = false → w.row < 512 →
      ∃ t, exec (.writeBack bank) s = .next t ∧ NMap.get none t.bank.wb bank = none
        ∧ Stored (pbankOf s bank) w.row (2 ^ w.chunk) (BitVec.ofNat 1024 (w.data.toNat <<< (256 * w.chunk))) 0 s t)

/-- O26. DECISION, with no reset in force and every beat of its array cycle performed (where the block runs, or its exempt traffic goes
on in a halt): no byte of memory changes; outside a halt the cycle number rises by 1; a running block's lanes may issue again
and its share window is one CCLK older. A halted block keeps the cycle number and counts one CCLK of the halt; where no exempt
traffic waits, the lanes, the request channels, the arbiters, the started slips, the blend slots, the held deliveries and the
reduction port are as before, and no transfer is new or changed. Rests in part on the model's choice of log entries 18 and 65. (spec/09_arbitration.md, spec/16_counters_trace.md, spec/17_stop_snapshot_watch.md) -/
def Obligations.DecisionsAdvanceTheCycle : Prop :=
  ∀ (n : Nat) (s : State), inReset s = false → (running s = true ∨ halted s = true → cycleDone s = true) →
    ∃ t, exec (.decision n) s = .next t ∧ t.mem = s.mem
      ∧ (halted s = false → t.cyc = s.cyc + 1)
      ∧ (running s = true → t.fr.issued = [] ∧ t.arb.shAge = s.arb.shAge + 1)
      ∧ (halted s = true → t.cyc = s.cyc ∧ t.dbg.haltCyc = s.dbg.haltCyc + 1
          ∧ ((∀ T ∈ s.fr.trs, (waits T && isExempt T) = false) →
              Only [.regs, .cnt, .bank, .fr, .sq, .tm, .tr, .dbg, .pw, .ck, .pr] s t ∧ t.sq.live = s.sq.live
                ∧ t.fr.rl = s.fr.rl ∧ t.fr.wl = s.fr.wl ∧ t.fr.ch = s.fr.ch ∧ ∀ T ∈ t.fr.trs, T ∈ s.fr.trs))

/-- O27. With the block running. HOLD_LIMIT_CUTOFF at a bank port where a lane's or queue's run has reached its class's HOLDLIM (not 0):
the requester is cut off there for 16 decisions, the cut-off joins its history, the run restarts, and cause 16 is pending.
CUTOFF_END removes the cut-offs of that requester and bank that have run out, and changes nothing else. QUARANTINE of a
requester below 174 whose cut-offs reach QREPEAT and that is not quarantined: its bit is set, cause 17 is pending, all other
registers but the event registers keep their value. QUARANTINE_TIMEOUT of a quarantined requester whose quarantine is 2^QTIME
cycles old clears its bit and its history and makes cause 18 pending. QUARANTINE_RELEASE, accepted, ends the quarantine of the
requester it names, or all by bit 8. SHARE_REFILL in share mode, at the end of a share window of 2^SHWINL2 CCLK, sets every
requester's share counter to its weight, starts the next window and changes nothing else. Rests in part on the model's choice of
log entry 52. (spec/09_arbitration.md) -/
def Obligations.CutOffsAndQuarantineFollowTheirRules : Prop :=
  (∀ (bank : Nat) (port : Bool) (s : State) (r : Run), running s = true → NMap.get Run.none s.arb.runs (2 * pbankOf s bank + b2n port) = r →
      1 ≤ r.req → r.req ≤ 174 → holdLimit s r.cls ≠ 0 → holdLimit s r.cls ≤ r.cont →
      ∃ t, exec (.holdLimitCutoff bank port) s = .next t ∧ t.arb.cuts = s.arb.cuts ++ [⟨r.req - 1, bank, 16⟩]
        ∧ t.arb.hist = s.arb.hist ++ [(r.req - 1, s.cyc)]
        ∧ NMap.get Run.none t.arb.runs (2 * pbankOf s bank + b2n port) = { r with len := 0, cont := 0 } ∧ regB t 0x7000 16 = true)
  ∧ (∀ (bank req : Nat) (s : State), running s = true →
      ∃ t, exec (.cutoffEnd bank req) s = .next t
        ∧ t = { s with arb := { s.arb with cuts := s.arb.cuts.filter fun c => !(c.req == req && c.bank == bank && c.left == 0) } })
  ∧ (∀ (req : Nat) (s : State), running s = true → req < 174 → quarDue s req = true → quarantined s req = false →
      ∃ t, exec (.quarantine req) s = .next t ∧ quarantined t req = true ∧ regB t 0x7000 17 = true
        ∧ Within ([⟨0x28C0 + 4 * (req / 32), 0, 1⟩] ++ eventRegs) s t ∧ t.arb.cuts = s.arb.cuts)
  ∧ (∀ (req : Nat) (s : State) (c : Nat), running s = true → req < 174 → quarantined s req = true → regF s 0x2800 28 24 ≠ 0 →
      (1000 + req, c) ∈ s.arb.hist → c + 2 ^ regF s 0x2800 28 24 ≤ s.cyc →
      ∃ t, exec (.quarantineTimeout req) s = .next t ∧ quarantined t req = false ∧ regB t 0x7000 18 = true
        ∧ (∀ h ∈ t.arb.hist, h.1 ≠ req ∧ h.1 ≠ 1000 + req) ∧ Within ([⟨0x28C0 + 4 * (req / 32), 0, 1⟩] ++ eventRegs) s t)
  ∧ (∀ (a : BusAcc) (w : Word) (s : State), accepts a true 0x28E0 s →
      ∃ t, exec (.quarantineRelease a w) s = .next t ∧ answered 0 t
        ∧ ∀ req, req < 174 → (bit w.toNat 8 = true ∨ bits w.toNat 7 0 = req) → quarantined t req = false)
  ∧ (∀ (s : State), running s = true → shareMode s = true → 2 ^ regF s 0x2800 7 4 ≤ s.arb.shAge →
      ∃ t m, exec .shareRefill s = .next t
        ∧ t = { s with arb := { s.arb with shCred := m, shAge := s.arb.shAge % 2 ^ regF s 0x2800 7 4 } } ∧ ∀ r, NMap.get 0 m r = if r < 206 then reqWeight s r else 0)

/-- O28. The state after reset holds no slip and no transfer, so their identifiers are fresh. (spec/10_routing_slips.md, spec/09_arbitration.md) -/
def Obligations.ResetIdsAreFresh : Prop :=
  FreshIds State.reset ∧ State.reset.sq.live = [] ∧ State.reset.fr.trs = []

/-- O29. In a state in which the started slips and the transfers have identifiers of their own below the next one to give, any step
leaves such a state: a new slip or transfer takes the next identifier, and no command gives one twice or changes one. (spec/10_routing_slips.md, spec/09_arbitration.md) -/
def Obligations.EveryStepKeepsIdsFresh : Prop :=
  ∀ s t : State, FreshIds s → step s = .next t → FreshIds t

/-- O30. SLIP_COMMIT, accepted, to an enabled queue with fewer than 32 entries (in fetch mode: with an order outstanding that has slips
left, and written by the tile DMA, as every write in such a time must be): the last staging word is stored, and the staging slip
becomes the last entry, undecoded; in fetch mode FHEAD rises by 1 modulo 2^16 and the order has one slip less. A commit into a
full or disabled queue, without an order in fetch mode, not by the tile DMA while an order is outstanding, for an order that a
FLUSH has ended, or while PURGED is 1, is refused: no entry joins, the context's count of refused commits rises by 1, and cause
29 (fetch mode: 30) is pending. FETCH_ORDER of a queue that may issue one (fetch mode, none outstanding, enough slips and free
entries, a credit and room on RL61): the order is outstanding for N slips, RL61 loses a credit and its landing buffer takes the
order's flit. SLIP_DECODE of a served queue that is not stopped at a malformed slip: the entry whose turn it is is marked
passed, or malformed with its first failing reason, and takes its context's seed as it then stands; no other entry changes. None
of them changes another queue or lane. Rests in part on the model's choice of log entries 55 and 84. (spec/10_routing_slips.md) -/
def Obligations.SlipsEnterTheirQueues : Prop :=
  (∀ (a : BusAcc) (q : BitVec 6) (w : Word) (s : State), accepts a true (commitOff q.toNat) s →
      ((queueOf s q.toNat).ford = false ∨ a.dma = true) → staleCommit a q.toNat s = false → purged s = false → (queueOf s q.toNat).ents.length < 32 → sqEn s q.toNat = true →
      (sqFetch s q.toNat = true → (queueOf s q.toNat).ford = true ∧ (queueOf s q.toNat).fleft ≠ 0) →
      ∃ t, exec (.slipCommit a q w) s = .next t ∧ answered 0 t
        ∧ (let x := queueOf s q.toNat
           let d := BitVec.ofNat 512 (setBits x.stage.toNat 511 480 w.toNat)
           queueOf t q.toNat = { x with
             stage := d, ents := x.ents ++ [⟨x.tail, d, 0, 0⟩], tail := (x.tail + 1) % 32
             fleft := if sqFetch s q.toNat = true then x.fleft - 1 else x.fleft
             ford := x.ford && !(sqFetch s q.toNat && x.fleft == 1) })
        ∧ (∀ k, k ≠ q.toNat → queueOf t k = queueOf s k) ∧ t.sq.live = s.sq.live
        ∧ Within [⟨0x310C + 16 * q.toNat, 0, 1⟩] s t
        ∧ regF t (0x310C + 16 * q.toNat) 31 16
            = (regF s (0x310C + 16 * q.toNat) 31 16 + if sqFetch s q.toNat = true then 1 else 0) % 65536)
  ∧ (∀ (a : BusAcc) (q : BitVec 6) (w : Word) (s : State), accepts a true (commitOff q.toNat) s →
      (((queueOf s q.toNat).ford = true ∧ a.dma = false) ∨ staleCommit a q.toNat s = true ∨ purged s = true ∨ 32 ≤ (queueOf s q.toNat).ents.length
        ∨ sqEn s q.toNat = false ∨ (sqFetch s q.toNat = true ∧ ((queueOf s q.toNat).ford = false ∨ (queueOf s q.toNat).fleft = 0))) →
      ∃ t, exec (.slipCommit a q w) s = .next t ∧ answered 0 t ∧ (queueOf t q.toNat).ents = (queueOf s q.toNat).ents
        ∧ (∀ k, k ≠ q.toNat → queueOf t k = queueOf s k) ∧ t.sq.live = s.sq.live
        ∧ NMap.get 0 t.cnt (0x5798 + 0x40 * (sqCtx s q.toNat % 8)) = NMap.get 0 s.cnt (0x5798 + 0x40 * (sqCtx s q.toNat % 8)) + 1
        ∧ regB t 0x7000 (if sqFetch s q.toNat = true then 30 else 29) = true)
  ∧ (∀ (q : BitVec 6) (s : State), mayFetch s q.toNat = true →
      ∃ t, exec (.fetchOrder q) s = .next t ∧ Only [.fr, .sq] s t
        ∧ queueOf t q.toNat = { queueOf s q.toNat with
            ford := true, fleft := fetchCount s q.toNat, fseq := (queueOf s q.toNat).fseq + 1, fctx := sqCtx s q.toNat }
        ∧ (∀ k, k ≠ q.toNat → queueOf t k = queueOf s k)
        ∧ rlane t 61 = { rlane s 61 with
            cred := (rlane s 61).cred - 1
            landing := (rlane s 61).landing ++ [⟨fetchFlit s q.toNat, sideband 0 (sqCtx s q.toNat) true 0 0xF [] false, 0, 0, 0⟩] }
        ∧ (∀ l, l ≠ 61 → rlane t l = rlane s l) ∧ t.fr.wl = s.fr.wl ∧ t.fr.trs = s.fr.trs)
  ∧ (∀ (q : BitVec 6) (s : State) (e : Entry), serving s = true → (queueOf s q.toNat).stop ≠ 4 →
      nextDecode (match running? s q.toNat with | some y => y.met | none => false) (queueOf s q.toNat).ents = some e →
      ∃ t, exec (.slipDecode q) s = .next t
        ∧ (queueOf t q.toNat).ents = (queueOf s q.toNat).ents.map (fun k =>
            if k.idx = e.idx then { k with dec := (match decodeReason s q.toNat e.words with | none => 1 | some r => 2 + r), seed := seedOf s (sCtx k.words) } else k)
        ∧ (∀ k, k ≠ q.toNat → queueOf t k = queueOf s k) ∧ t.sq.live = s.sq.live)

/-- O31. READ, WRITE, MOVE, ATOMIC, WAIT and FENCE of a served queue whose head entry passed its decode, has that type, and finds no slip
executing, no stop and no pause: the slip joins the started slips under the next identifier and executes in its queue, whose
progress count restarts; a READ, WRITE or MOVE with BLEND.EN waits for its blend slots behind all others. HELD: the slip waits
for its reservation behind all others and its queue's LDONE is 0. No other queue, lane, transfer or slip changes. Rests in part
on the model's choice of log entry 56. (spec/10_routing_slips.md, spec/07_blends.md, spec/08_held_delivery.md) -/
def Obligations.SlipsStart : Prop :=
  (∀ (q : BitVec 6) (s : State) (e : Entry) (c : Instr) (ty : Nat),
      (c, ty) ∈ [(Instr.read q, 1), (Instr.write q, 2), (Instr.move q, 3), (Instr.atomic q, 5), (Instr.wait q, 6), (Instr.fence q, 10)] →
      FreshIds s → mayStart s q.toNat ty = some e →
      ∃ t, exec c s = .next t ∧ Only [.regs, .sq, .bl, .tr, .dbg] s t
        ∧ t.sq.live = s.sq.live ++ [{ newSlip s q.toNat e with slotSt := if ty ≤ 3 ∧ sBlendEn e.words = true then 1 else 0 }]
        ∧ t.sq.nextSid = s.sq.nextSid + 1
        ∧ queueOf t q.toNat = { queueOf s q.toNat with run := s.sq.nextSid + 1, quiet := 0, wdog := false }
        ∧ (∀ k, k ≠ q.toNat → queueOf t k = queueOf s k) ∧ t.bl.slot = s.bl.slot
        ∧ t.bl.wait = s.bl.wait ++ if ty ≤ 3 ∧ sBlendEn e.words = true then [s.sq.nextSid] else [])
  ∧ (∀ (q : BitVec 6) (s : State) (e : Entry), mayStart s q.toNat 4 = some e →
      ∃ t, exec (.held q) s = .next t ∧ Only [.regs, .sq, .hd, .tr, .dbg] s t
        ∧ t.sq.live = s.sq.live ++ [{ newSlip s q.toNat e with held := some newHeld }] ∧ t.sq.nextSid = s.sq.nextSid + 1
        ∧ queueOf t q.toNat = { queueOf s q.toNat with run := s.sq.nextSid + 1, quiet := 0, wdog := false }
        ∧ (∀ k, k ≠ q.toNat → queueOf t k = queueOf s k) ∧ reg t (0x2500 + 4 * q.toNat) = 0
        ∧ t.hd = { s.hd with wait := s.hd.wait ++ [s.sq.nextSid] })

/-- O32. Each, at the head of a served queue that may start it: its entry leaves the queue, no slip executes in it, its context's count
of ended slips rises by 1, and no other queue changes. A SIGNAL adds to each tally the number of its valid TSEL that name it,
modulo 2^32; a STEP leaves its context's step counter at the sum modulo 2^32, or at VALUE; a HINT joins the hint of this window
and is counted; a NOP, MARK, HINT or STEP changes no tally; and all but HINT leave the power state alone. Rests in part on the
model's choice of log entry 54. (spec/10_routing_slips.md, spec/17_stop_snapshot_watch.md, spec/13_power.md) -/
def Obligations.ControlSlipsActAndEnd : Prop :=
  ∀ (q : BitVec 6) (s : State) (e : Entry) (c : Instr) (ty : Nat),
      (c, ty) ∈ [(Instr.nop q, 0), (Instr.signal q, 7), (Instr.mark q, 8), (Instr.hint q, 9), (Instr.step q, 11)] →
      FreshIds s → mayStart s q.toNat ty = some e →
      ∃ t, exec c s = .next t ∧ (queueOf t q.toNat).ents = (queueOf s q.toNat).ents.drop 1 ∧ (queueOf t q.toNat).run = 0
        ∧ (∀ k, k ≠ q.toNat → queueOf t k = queueOf s k)
        ∧ NMap.get 0 t.cnt (0x57B0 + 0x40 * (sCtx e.words % 8)) = NMap.get 0 s.cnt (0x57B0 + 0x40 * (sCtx e.words % 8)) + 1
        ∧ (∀ k, k < 64 → tally t k
            = tally s k + BitVec.ofNat 32 (if ty = 7 then ((tsel e.words).filter fun p => p.1 == k).length else 0))
        ∧ (∀ k, k < 8 → reg t (0x3040 + 4 * k) = if ty = 11 ∧ k = sCtx e.words then stepValue s e.words else reg s (0x3040 + 4 * k))
        ∧ (ty = 9 → NMap.get 0 t.cnt 0x59D8 = NMap.get 0 s.cnt 0x59D8 + 1
            ∧ t.pw = (addHint ⟨bits (sw e.words 1) 7 0, bits (sw e.words 2) 15 0, bits (sw e.words 2) 31 16, 1⟩ s).pw)
        ∧ (ty ≠ 9 → t.pw = s.pw)

/-- O33. WAIT_REACHED of a running block, for an executing WAIT all of whose tallies reached their targets: the slip is found reached,
and nothing else changes. FENCE_MET for an executing FENCE whose scope is met, and SLIP_END for an executing slip whose end
condition holds: the entry leaves the queue, no slip executes in it, its context's count of ended slips rises by 1; a slip that
met a fault leaves its queue stopped in STATE 3 with cause 25 pending; no other queue changes. (spec/10_routing_slips.md) -/
def Obligations.SlipsEnd : Prop :=
  (∀ (q : BitVec 6) (s : State) (x : Slip), running s = true → running? s q.toNat = some x → sType x.words = 6 →
      (∀ p ∈ tsel x.words, reached s p.1 p.2 = true) →
      ∃ t, exec (.waitReached q) s = .next t
        ∧ t = { s with sq := { s.sq with live := s.sq.live.map fun y => if y.sid = x.sid then { y with met := true } else y } })
  ∧ (∀ (q : BitVec 6) (s : State) (x : Slip) (c : Instr), running s = true → running? s q.toNat = some x → x.q = q.toNat →
      ((c = .fenceMet q ∧ sType x.words = 10 ∧ fenceMet s x = true) ∨ (c = .slipEnd q ∧ mayEnd s x = true)) →
      ∃ t, exec c s = .next t ∧ (queueOf t q.toNat).ents = (queueOf s q.toNat).ents.drop 1 ∧ (queueOf t q.toNat).run = 0
        ∧ NMap.get 0 t.cnt (0x57B0 + 0x40 * (sCtx x.words % 8)) = NMap.get 0 s.cnt (0x57B0 + 0x40 * (sCtx x.words % 8)) + 1
        ∧ (x.fault = true → (queueOf t q.toNat).stop = 3 ∧ regB t 0x7000 25 = true)
        ∧ (∀ k, k ≠ q.toNat → queueOf t k = queueOf s k))

/-- O34. Each queue command, accepted and from C0 or the queue's context, leaves every other queue as it was, and in a state that the
table allows: RESUME in STATE 4 clears the stop and makes the head undecoded; RESUME in STATE 3 or 5 clears pause, and the stop
unless the next slip is malformed. SKIP in STATE 4 discards the head. FLUSH discards every entry but that of an executing data
slip, clears stop and pause and the fetch order, and in fetch mode sets FHEAD to FTAIL. PAUSE in STATE 0, 1 or 2 pauses the
queue. WATCHDOG_EXPIRY of a queue whose executing slip has made no progress for its limit and was not reported: WDOG is set, the
context's count rises by 1, cause 26 is pending, and nothing else in the queue changes. Rests in part on the model's choice of
log entries 58 and 77. (spec/10_routing_slips.md) -/
def Obligations.QueueCommandsActByState : Prop :=
  (∀ (a : BusAcc) (q : BitVec 6) (s : State), accepts a true 0x3010 s → cmdMine a q.toNat s = true →
      (∃ t, exec (.queueResume a q) s = .next t ∧ answered 0 t ∧ (∀ k, k ≠ q.toNat → queueOf t k = queueOf s k)
        ∧ (sqState s q.toNat = 4 → (queueOf t q.toNat).stop = 0
            ∧ (queueOf t q.toNat).ents = match (queueOf s q.toNat).ents with | e :: es => { e with dec := 0 } :: es | [] => [])
        ∧ (sqState s q.toNat = 3 ∨ sqState s q.toNat = 5 → (queueOf t q.toNat).pause = false ∧ (queueOf t q.toNat).stop ≠ 3
            ∧ (queueOf t q.toNat).ents = (queueOf s q.toNat).ents))
      ∧ (∃ t, exec (.queueSkip a q) s = .next t ∧ answered 0 t ∧ (∀ k, k ≠ q.toNat → queueOf t k = queueOf s k)
        ∧ (sqState s q.toNat = 4 → (queueOf t q.toNat).ents = (queueOf s q.toNat).ents.drop 1))
      ∧ (∃ t, exec (.queueFlush a q) s = .next t ∧ answered 0 t ∧ (∀ k, k ≠ q.toNat → queueOf t k = queueOf s k)
        ∧ (queueOf t q.toNat).stop = 0 ∧ (queueOf t q.toNat).pause = false ∧ (queueOf t q.toNat).ford = false
        ∧ (queueOf t q.toNat).ents = (match running? s q.toNat with
            | some y => if isGate y.words = true then [] else (queueOf s q.toNat).ents.take 1
            | none => if (queueOf s q.toNat).run = 0 then [] else (queueOf s q.toNat).ents.take 1)
        ∧ (sqFetch s q.toNat = true → regF t (0x310C + 16 * q.toNat) 31 16 = regF s (0x310C + 16 * q.toNat) 15 0)
        ∧ Within [⟨0x310C + 16 * q.toNat, 0, 1⟩] s t)
      ∧ (∃ t, exec (.queuePause a q) s = .next t ∧ answered 0 t ∧ (∀ k, k ≠ q.toNat → queueOf t k = queueOf s k)
        ∧ queueOf t q.toNat = if sqState s q.toNat ≤ 2 then { queueOf s q.toNat with pause := true } else queueOf s q.toNat))
  ∧ (∀ (q : BitVec 6) (s : State) (x : Slip) (n : Nat), running s = true → running? s q.toNat = some x → watchLimit s x = some n →
      n ≤ (queueOf s q.toNat).quiet → (queueOf s q.toNat).wdog = false →
      ∃ t, exec (.watchdogExpiry q) s = .next t ∧ queueOf t q.toNat = { queueOf s q.toNat with wdog := true }
        ∧ (∀ k, k ≠ q.toNat → queueOf t k = queueOf s k) ∧ t.sq.live = s.sq.live
        ∧ NMap.get 0 t.cnt (0x57A0 + 0x40 * (sCtx x.words % 8)) = NMap.get 0 s.cnt (0x57A0 + 0x40 * (sCtx x.words % 8)) + 1
        ∧ regB t 0x7000 26 = true)

/-- O35. TALLY_INC, accepted and from C0 or the tally's context, adds 1 to the tally modulo 2^32. TALLY_WRITE, accepted, leaves the
written value plus the increments that reach the tally in the same cycle (none while the block does not run). Each changes no
other register. (spec/10_routing_slips.md) -/
def Obligations.TalliesTakeWritesBeforeIncrements : Prop :=
  (∀ (a : BusAcc) (i : BitVec 6) (s : State), accepts a true 0x3014 s → (lvl a = 0 ∨ tlyBind s i.toNat % 8 = lvl a) →
      ∃ t, exec (.tallyInc a i) s = .next t ∧ answered 0 t ∧ Only [.regs, .bus] s t ∧ tally t i.toNat = tally s i.toNat + 1
        ∧ Within [⟨0x3700 + 4 * i.toNat, 0, 1⟩] s t)
  ∧ (∀ (a : BusAcc) (i : BitVec 6) (w : Word) (incs : Nat) (s : State), accepts a true (0x3700 + 4 * i.toNat) s →
      ∃ t, exec (.tallyWrite a i w incs) s = .next t ∧ answered 0 t ∧ Only [.regs, .bus] s t
        ∧ tally t i.toNat = w + BitVec.ofNat 32 (if running s = true then incs else 0) ∧ Within [⟨0x3700 + 4 * i.toNat, 0, 1⟩] s t)

/-- O36. BLEND_SLOT_ALLOC of a served block with a request at the head for which there are enough free slots of open clusters: the
request leaves the list; the slip owns the slots picked, each of them free before and none given twice, one slot (or, for a
blend of four slots, a whole cluster) for each of its lanes; every other slot keeps its owner; the slip loads its vectors next,
or is ready where its blend uses none. VECTOR_LOAD_DONE of a queue whose executing slip loads vectors, once every row of them
has come for each of its lanes: the slip is ready, and nothing else changes. Rests in part on the model's choice of log entries
60 and 81. (spec/07_blends.md) -/
def Obligations.BlendSlotsGoToTheOldestRequest : Prop :=
  (∀ (s : State) (sid : Nat) (rest : List Nat) (x : Slip) (l : List (Nat × Nat)), serving s = true → s.bl.wait = sid :: rest →
      slipOf s sid = some x → pickSlots (blendLanes x.words) (freeUnits s (blendSlots (sBlendId x.words) == 4)) = some l →
      ∃ t, exec .blendSlotAlloc s = .next t ∧ Only [.sq, .bl] s t ∧ t.bl.wait = rest
        ∧ (∀ k, NMap.get 0 t.bl.slot k = if k ∈ l.map (·.2) then sid + 1 else NMap.get 0 s.bl.slot k)
        ∧ (∀ p ∈ l, slotFree s p.2 = true ∧ p.1 ∈ blendLanes x.words) ∧ (l.map (·.2)).Nodup
        ∧ slipOf t sid = some { x with slotSt := if vecTotal s x.words = 0 then 3 else 2, slots := l }
        ∧ (∀ i, i ≠ sid → slipOf t i = slipOf s i) ∧ t.sq.q = s.sq.q)
  ∧ (∀ (q : BitVec 6) (s : State) (x : Slip), serving s = true → running? s q.toNat = some x → x.slotSt = 2 →
      (∀ l ∈ blendLanes x.words, vecTotal s x.words ≤ (streamOf x l).vec.length) →
      ∃ t, exec (.vectorLoadDone q) s = .next t ∧ Only [.sq] s t ∧ t.sq.q = s.sq.q
        ∧ slipOf t x.sid = some { x with slotSt := 3 } ∧ ∀ i, i ≠ x.sid → slipOf t i = slipOf s i)

/-- O37. HOLD_RESERVATION of a served block with domain 131 On, for the oldest request, where enough blocks and statistic rows are free
and its context's quotas allow them: the request leaves the list, the slip owns the lowest free blocks and rows, every other
block and row keeps its owner. TILE_ADMIT of an active delivery with tiles left (under AEN, with its tally reached): one tile
more, and the queue makes progress. TILE_RELEASE of an admitted tile whose rows are through: one release more, and under REN one
increment of RTALLY. REDELIVERY_START of a line with its statistics ready and, with SEN, its record written, the line before
requested and, under PARK, its first holding row written: one line more has begun. HOLD_RELEASE once every row has passed, every
record is written (SEN) and every tile released (REN): no block or row is the slip's any more, and its queue's LDONE keeps its
lines. Rests in part on the model's choice of log entries 45 and 59. (spec/08_held_delivery.md) -/
def Obligations.HeldDeliveriesHoldWhatTheyReserve : Prop :=
  (∀ (s : State) (sid : Nat) (rest : List Nat) (x : Slip) (h : HeldEx), serving s = true → s.hd.wait = sid :: rest → slipOf s sid = some x →
      x.held = some h → domUp s 31 = true → hBlks x.words * hW x.words ≤ (freeBlocks s).length → hW x.words ≤ (freeStats s).length →
      (hdUse s (sCtx x.words)).1 + hBlks x.words * hW x.words ≤ regF s (0x2410 + 4 * sCtx x.words) 9 0 →
      (hdUse s (sCtx x.words)).2 + hW x.words ≤ regF s (0x2410 + 4 * sCtx x.words) 28 16 →
      ∃ t, exec .holdReservation s = .next t ∧ Only [.sq, .hd] s t ∧ t.hd.wait = rest
        ∧ (∀ b, NMap.get 0 t.hd.blk b = if b ∈ (freeBlocks s).take (hBlks x.words * hW x.words) then sid + 1 else NMap.get 0 s.hd.blk b)
        ∧ (∀ r, NMap.get 0 t.hd.row r = if r ∈ (freeStats s).take (hW x.words) then sid + 1 else NMap.get 0 s.hd.row r)
        ∧ slipOf t sid = some { x with held := some { h with
            st := 2, blks := (freeBlocks s).take (hBlks x.words * hW x.words), rows := (freeStats s).take (hW x.words) } }
        ∧ (∀ i, i ≠ sid → slipOf t i = slipOf s i))
  ∧ (∀ (q : BitVec 6) (s : State) (x : Slip) (h : HeldEx), serving s = true → heldOf s q.toNat = some (x, h) → h.st = 2 → x.cancel = false →
      (h.tiles < hTiles x.words → (hAen x.words = true → reached s (hAtally x.words) (hAbase x.words + h.tiles + 1) = true) →
        ∃ t, exec (.tileAdmit q) s = .next t ∧ Only [.sq] s t
          ∧ slipOf t x.sid = some { x with held := some { h with tiles := h.tiles + 1 } }
          ∧ queueOf t x.q = { queueOf s x.q with quiet := 0, wdog := false })
      ∧ (h.rel < h.tiles → tileDone s x h h.rel = true →
        ∃ t, exec (.tileRelease q) s = .next t ∧ Only [.regs, .sq] s t
          ∧ slipOf t x.sid = some { x with held := some { h with rel := h.rel + 1 } } ∧ t.sq.q = s.sq.q
          ∧ (∀ k, k < 64 → tally t k = tally s k + if hRen x.words = true ∧ k = hRtally x.words then 1 else 0))
      ∧ (h.started < h.nstat → h.started * hLrows x.words ≤ x.issued * sK x.words →
        (hSen x.words = true → h.started < h.recs) →
        (hPark x.words = true → h.started * hLrows x.words < rowsParked s x) →
        ∃ t, exec (.redeliveryStart q) s = .next t ∧ Only [.sq] s t ∧ t.sq.q = s.sq.q
          ∧ slipOf t x.sid = some { x with held := some { h with started := h.started + 1 } })
      ∧ (hLines x.words * hLrows x.words ≤ rowsPassed s x → (hSen x.words = true → hLines x.words ≤ h.recs) →
        (hRen x.words = true → hTiles x.words ≤ h.rel) → x.q < 64 →
        ∃ t, exec (.holdRelease q) s = .next t ∧ Only [.regs, .sq, .hd] s t
          ∧ slipOf t x.sid = some { x with held := some { h with st := 4, blks := [], rows := [] } }
          ∧ (∀ b, NMap.get 0 t.hd.blk b ≠ x.sid + 1 ∧ NMap.get 0 t.hd.row b ≠ x.sid + 1)
          ∧ Within [⟨0x2500 + 4 * x.q, 0, 1⟩] s t ∧ regF t (0x2500 + 4 * x.q) 31 8 = rowsPassed s x / hLrows x.words % 2 ^ 24))

/-- O38. STATS_READY of an active delivery that is not cancelled, where every row of the next line has left its partial: the line's
statistics are ready and kept; with a parity error they are poisoned, LMY_CNT_STAT_PAR rises by 1 and cause 14 is pending. With
SEN the line's record, poisoned where they are, is requested as a write of its one chunk through IW0 or IW1, behind all other
transfers, and counts as written when that row is stored; without SEN no transfer is requested. Memory, the lanes and other
slips' queues are as before. Rests in part on the model's choice of log entry 86. (spec/08_held_delivery.md) -/
def Obligations.StatisticsAreReadyInOrder : Prop :=
  ∀ (q : BitVec 6) (par : Bool) (s : State) (x : Slip) (h : HeldEx) (ps : List (StatPart × Bool)), serving s = true →
    heldOf s q.toNat = some (x, h) → h.st = 2 → x.cancel = false → h.nstat < hLines x.words →
    linePartsGo h (hLrows x.words) (h.nstat * hLrows x.words) = some ps →
    ∃ t y k, exec (.statsReady q par) s = .next t ∧ slipOf t x.sid = some y ∧ y.held = some k ∧ k.nstat = h.nstat + 1
      ∧ NMap.get none k.stats h.nstat = some (lineStats s x.words ps par) ∧ (par = true → (lineStats s x.words ps par).2 = true)
      ∧ k.recs = h.recs ∧ t.mem = s.mem ∧ t.fr.rl = s.fr.rl ∧ t.fr.wl = s.fr.wl ∧ t.sq.q = s.sq.q
      ∧ NMap.get 0 t.cnt 0x59D0 = NMap.get 0 s.cnt 0x59D0 + (if par = true then 1 else 0) ∧ (par = true → regB t 0x7000 14 = true)
      ∧ (hSen x.words = false → t.fr.trs = s.fr.trs)
      ∧ (hSen x.words = true →
          let o := vaOff (sw x.words 2) + 32 * h.nstat
          ∃ T, t.fr.trs = s.fr.trs ++ [T] ∧ T.id = s.fr.nextId ∧ T.kind = .iwr ∧ T.req = 194 + h.nstat % 2 ∧ T.slip = x.sid + 1
            ∧ T.job = .stat ∧ T.ready = true ∧ T.granted = false
            ∧ T.beats = [{ mkBeat s (sCtx x.words) (sw x.words 2) (o : Nat) true with
                data := BitVec.ofNat 1024 (ofWords (lineStats s x.words ps par).1 <<< (256 * (o % 128 / 32)))
                pois := if (lineStats s x.words ps par).2 = true then BitVec.ofNat 4 (2 ^ (o % 128 / 32)) else 0
                en := BitVec.ofNat 4 (2 ^ (o % 128 / 32)) }])

/-- O39. HELD_CANCEL, accepted. From C0 or the slip's context, of an executing held delivery (waiting for its reservation, active, or
with it released): the first one marks the slip cancelled with FLUSH as written, takes it off the waiting list and removes its
transfers that are not granted and parking ones of lines not begun, or statistics records; with FLUSH 0, its generated transfers
not granted too; a later one with FLUSH 0 clears FLUSH and drops the generated transfers not granted; no other transfer is
removed. In a halt the slip is marked and the removal waits for the resume. Of a queue that executes no held delivery, or from
another context: CREJ is set and nothing else changes. HELD_CANCEL_END once every line begun is through: RTALLY gets the tiles
not released (REN), no block, statistic row or slot request is the slip's any more, its entry leaves its queue, which stops in
STATE 3, and causes 25 and 28 are pending. (spec/08_held_delivery.md, spec/10_routing_slips.md, spec/17_stop_snapshot_watch.md) -/
def Obligations.HeldDeliveriesAreCancelled : Prop :=
  (∀ (a : BusAcc) (w : Word) (s : State) (x : Slip) (h : HeldEx), accepts a true 0x2450 s → heldOf s (bits w.toNat 5 0) = some (x, h) →
      (lvl a = 0 ∨ lvl a = sCtx x.words) →
      ∃ t k, exec (.heldCancel a w) s = .next t ∧ answered 0 t
        ∧ k = (if x.cancel = true then { h with flush := h.flush && bit w.toNat 8 } else { h with st := 3, flush := bit w.toNat 8 })
        ∧ slipOf t x.sid = some { x with cancel := true, held := some k } ∧ t.sq.q = s.sq.q ∧ t.regs = s.regs
        ∧ (halted s = false → t.fr.trs = s.fr.trs.filter (fun T => !(parkStops x h T || flushStops x k T))
            ∧ t.hd = { s.hd with wait := s.hd.wait.filter fun n => n != x.sid })
        ∧ (halted s = true → t.fr = s.fr ∧ t.hd = { s.hd with canc := s.hd.canc ++ [(lvl a, w)] }))
  ∧ (∀ (a : BusAcc) (w : Word) (s : State), accepts a true 0x2450 s →
      (heldOf s (bits w.toNat 5 0) = none ∨ ∃ x h, heldOf s (bits w.toNat 5 0) = some (x, h) ∧ lvl a ≠ 0 ∧ lvl a ≠ sCtx x.words) →
      ∃ t, exec (.heldCancel a w) s = .next t ∧ answered 0 t ∧ Only [.bus, .regs] s t ∧ Within [⟨0x2404, 0, 1⟩] s t
        ∧ ∀ i, i < 32 → regB t 0x2404 i = (regB s 0x2404 i || i == 30))
  ∧ (∀ (q : BitVec 6) (s : State) (x : Slip) (h : HeldEx), running s = true → heldOf s q.toNat = some (x, h) → x.q = q.toNat →
      x.cancel = true → cancelDone s x h = true →
      ∃ t, exec (.heldCancelEnd q) s = .next t ∧ (queueOf t q.toNat).ents = (queueOf s q.toNat).ents.drop 1
        ∧ (queueOf t q.toNat).run = 0 ∧ (queueOf t q.toNat).stop = 3 ∧ regB t 0x7000 25 = true
        ∧ (∀ k, k ≠ q.toNat → queueOf t k = queueOf s k)
        ∧ (∀ b, NMap.get 0 t.hd.blk b ≠ x.sid + 1 ∧ NMap.get 0 t.hd.row b ≠ x.sid + 1) ∧ x.sid ∉ t.bl.wait
        ∧ (∀ k, k < 64 → tally t k
            = tally s k + BitVec.ofNat 32 (if hRen x.words = true ∧ k = hRtally x.words then hTiles x.words - h.rel else 0)))

/-- O40. Accepted. PT_DATA_WRITE: where the entry is valid or busy the table is kept and bit 0 of LMY_PT_STS is set; else the word at
ENTRY and WORD alone takes the value and the status is kept. PT_DATA_READ answers that word and changes the address only. With
AUTOINC the address goes to the next word modulo 16,384, else it stays. BT_DATA_WRITE and BT_DATA_READ do the same for the
pre-scaling sets or, with TABLES, the programmable activation tables: an ignored write (an address outside the space, a fixed
table, a valid or busy item) sets bit 0 of LMY_BT_STS, and with AUTOINC, the address within the space, WORD goes to the next and
past the last to word 0 of the next INDEX. Nothing else changes. (spec/05_shuffle.md, spec/07_blends.md) -/
def Obligations.DataWindowsReachTheWordAddressed : Prop :=
  (∀ (a : BusAcc) (w : Word) (s : State), accepts a true 0x8004 s →
      ∃ t, exec (.ptDataWrite a w) s = .next t ∧ answered 0 t ∧ Only [.regs, .bus, .tb] s t ∧ Within [⟨0x8000, 8, 2⟩] s t
        ∧ t.tb.ps = s.tb.ps ∧ t.tb.act = s.tb.act
        ∧ ptAt t = (if regB s 0x8000 16 = true then (ptAt s + 1) % 16384 else ptAt s)
        ∧ regB t 0x8000 16 = regB s 0x8000 16
        ∧ if ptValid s (ptAt s / 64) = true ∨ ptBusy s (ptAt s / 64) = true then t.tb.pt = s.tb.pt ∧ regB t 0x8008 0 = true
          else reg t 0x8008 = reg s 0x8008 ∧ ∀ i, NMap.get 0 t.tb.pt i = if i = ptAt s then w else NMap.get 0 s.tb.pt i)
  ∧ (∀ (a : BusAcc) (s : State), accepts a false 0x8004 s →
      ∃ t, exec (.ptDataRead a) s = .next t ∧ answered (NMap.get 0 s.tb.pt (ptAt s)) t ∧ Only [.regs, .bus] s t ∧ Within [⟨0x8000, 0, 1⟩] s t
        ∧ ptAt t = (if regB s 0x8000 16 = true then (ptAt s + 1) % 16384 else ptAt s) ∧ regB t 0x8000 16 = regB s 0x8000 16)
  ∧ (∀ (a : BusAcc) (w : Word) (s : State), accepts a true 0xA004 s →
      ∃ t, exec (.btDataWrite a w) s = .next t ∧ answered 0 t ∧ Only [.regs, .bus, .tb] s t ∧ Within [⟨0xA000, 8, 2⟩] s t ∧ t.tb.pt = s.tb.pt
        ∧ (regB s 0xA000 28 = false → reg t 0xA000 = reg s 0xA000)
        ∧ (regB s 0xA000 28 = true → btInside s = true → btTables t = btTables s ∧ regB t 0xA000 28 = true
            ∧ btWord t = (if btWord s = (if btTables s = true then 775 else 15) then 0 else btWord s + 1)
            ∧ btIndex t = (if btWord s ≠ (if btTables s = true then 775 else 15) then btIndex s
                else if btIndex s = (if btTables s = true then 15 else 63) then 0 else btIndex s + 1))
        ∧ if btIgnores s = true then t.tb = s.tb ∧ regB t 0xA008 0 = true
          else reg t 0xA008 = reg s 0xA008
            ∧ (∀ i, NMap.get 0 t.tb.act i = if btTables s = true ∧ i = 776 * btIndex s + btWord s then w else NMap.get 0 s.tb.act i)
            ∧ (∀ i, NMap.get 0 t.tb.ps i = if btTables s = false ∧ i = 16 * btIndex s + btWord s then w else NMap.get 0 s.tb.ps i))
  ∧ (∀ (a : BusAcc) (s : State), accepts a false 0xA004 s →
      ∃ t, exec (.btDataRead a) s = .next t ∧ Only [.regs, .bus] s t ∧ Within [⟨0xA000, 0, 1⟩] s t
        ∧ answered (if btInside s = false then 0
            else if btTables s = false then NMap.get 0 s.tb.ps (16 * btIndex s + btWord s)
            else if btIndex s < 12 then BitVec.ofNat 32 (fixedWord (btIndex s) (btWord s))
            else NMap.get 0 s.tb.act (776 * btIndex s + btWord s)) t
        ∧ (regB s 0xA000 28 = false → reg t 0xA000 = reg s 0xA000)
        ∧ (regB s 0xA000 28 = true → btInside s = true →
            btWord t = (if btWord s = (if btTables s = true then 775 else 15) then 0 else btWord s + 1)
            ∧ btIndex t = (if btWord s ≠ (if btTables s = true then 775 else 15) then btIndex s
                else if btIndex s = (if btTables s = true then 15 else 63) then 0 else btIndex s + 1)))

/-- O41. Accepted. PT_VALID_WRITE of word n leaves bit i set exactly where the value has it set and descriptor 32n + i passes its check,
and sets bit 1 of LMY_PT_STS where some named item fails; PSVALID_WRITE does so for the pre-scaling sets. TBLVALID_WRITE leaves
bits 11 to 0 set, bit 12 + i set exactly where named and programmable table 12 + i passes its check, the CRC register of each
valid table holding its CRC and of the others 0. Nothing else changes. (spec/05_shuffle.md, spec/07_blends.md) -/
def Obligations.ValidBitsPassTheirChecks : Prop :=
  (∀ (a : BusAcc) (n : BitVec 3) (w : Word) (s : State), accepts a true (0x8020 + 4 * n.toNat) s →
      ∃ t, exec (.ptValidWrite a n w) s = .next t ∧ answered 0 t ∧ Only [.regs, .bus] s t ∧ Within [⟨0x8008, 0, 1⟩, ⟨0x8020 + 4 * n.toNat, 0, 1⟩] s t
        ∧ (∀ i, i < 32 → regB t (0x8020 + 4 * n.toNat) i = (bit w.toNat i && ptDescOk (ptDesc s (32 * n.toNat + i))))
        ∧ (∀ i, i < 32 → bit w.toNat i = true → ptDescOk (ptDesc s (32 * n.toNat + i)) = false → regB t 0x8008 1 = true)
        ∧ ((∀ i, i < 32 → bit w.toNat i = true → ptDescOk (ptDesc s (32 * n.toNat + i)) = true) → reg t 0x8008 = reg s 0x8008))
  ∧ (∀ (a : BusAcc) (n : Bool) (w : Word) (s : State), accepts a true (0xA020 + 4 * b2n n) s →
      ∃ t, exec (.psvalidWrite a n w) s = .next t ∧ answered 0 t ∧ Only [.regs, .bus] s t ∧ Within [⟨0xA008, 0, 1⟩, ⟨0xA020 + 4 * b2n n, 0, 1⟩] s t
        ∧ (∀ i, i < 32 → regB t (0xA020 + 4 * b2n n) i = (bit w.toNat i && psOk (psWord s (32 * b2n n + i))))
        ∧ (∀ i, i < 32 → bit w.toNat i = true → psOk (psWord s (32 * b2n n + i)) = false → regB t 0xA008 1 = true)
        ∧ ((∀ i, i < 32 → bit w.toNat i = true → psOk (psWord s (32 * b2n n + i)) = true) → reg t 0xA008 = reg s 0xA008))
  ∧ (∀ (a : BusAcc) (w : Word) (s : State), accepts a true 0xA060 s →
      ∃ t, exec (.tblvalidWrite a w) s = .next t ∧ answered 0 t ∧ Only [.regs, .bus] s t ∧ Within [⟨0xA008, 0, 1⟩, ⟨0xA060, 0, 1⟩, ⟨0xA0B0, 4, 4⟩] s t
        ∧ (∀ i, i < 12 → regB t 0xA060 i = true)
        ∧ (∀ i, i < 4 → regB t 0xA060 (12 + i) = (bit w.toNat (12 + i) && tblOk (progWord s (12 + i)))
            ∧ reg t (0xA0B0 + 4 * i) = if bit w.toNat (12 + i) = true ∧ tblOk (progWord s (12 + i)) = true
                then BitVec.ofNat 32 (tableCrc (progWord s (12 + i))) else 0)
        ∧ (∀ i, i < 4 → bit w.toNat (12 + i) = true → tblOk (progWord s (12 + i)) = false → regB t 0xA008 1 = true)
        ∧ ((∀ i, i < 4 → bit w.toNat (12 + i) = true → tblOk (progWord s (12 + i)) = true) → reg t 0xA008 = reg s 0xA008))

/-- O42. BANK_PREQ_WRITE of word n below 12, accepted, no migration under way, with different physical banks behind the 8 logical banks:
each bank whose request is refused (TARGET 3; Retention where it is or will be Off) keeps its power and takes PERR and cause 41;
any other holds the request during a transition or wait, keeps its power at its own state, else waits to start; other banks keep
theirs. BANK_POWERUP_START: a waiting power-up, first in order, with fewer than MAXUP running, starts, with ZFILL as it then
stands. BANK_POWERDOWN_START: a waiting power-down with no granted beat left starts; a write-back slot is stored before
Retention and dropped before Off; of the source of a migration on its way Off, the migration ends with the map at its spare,
which takes the request held; after its switch, the migration ends. BANK_TRANSITION_DONE, no purge: the bank is in its target,
the held request applied from there or refused; going On from Retention keeps memory, Off clears it. Rests in part on the
model's choice of log entry 12. (spec/02_banks.md) -/
def Obligations.BankPowerFollowsItsRequests : Prop :=
  (∀ (a : BusAcc) (n : BitVec 4) (w : Word) (s : State), n.toNat < 12 → accepts a true (0x0840 + 4 * n.toNat) s → s.fw.mig = none →
      (∀ j k, j < 8 → k < 8 → pbankOf s (8 * n.toNat + j) = pbankOf s (8 * n.toNat + k) → j = k) →
      ∃ t, exec (.bankPreqWrite a n w) s = .next t ∧ answered 0 t ∧ reg t (0x0840 + 4 * n.toNat) = w
        ∧ Only [.regs, .bus, .bank, .tr, .dbg] s t ∧ Within ([⟨0x0840 + 4 * n.toNat, 0, 1⟩, ⟨0x08C0, 4, 3⟩] ++ eventRegs) s t
        ∧ (∀ k, k < 8 → let lb := 8 * n.toNat + k; let p := powOf s (pbankOf s lb)
            let r : PowReq := ⟨bits w.toNat (4 * k + 1) (4 * k), bit w.toNat (4 * k + 2)⟩
            if r.target = 3 ∨ (r.target = 1 ∧ p.ending = 0) then
              powOf t (pbankOf s lb) = p ∧ regB t (0x08C0 + 4 * (lb / 32)) (lb % 32) = true ∧ regB t 0x7004 9 = true
            else powOf t (pbankOf s lb) = if p.trans.isSome = true ∨ p.wait.isSome = true then { p with held := some r }
              else if r.target = p.st then p else { p with wait := some r })
        ∧ ∀ pb, (∀ k, k < 8 → pb ≠ pbankOf s (8 * n.toNat + k)) → powOf t pb = powOf s pb)
  ∧ (∀ (bank : Nat) (s : State) (r : PowReq), inReset s = false → bank < 100 → (powOf s bank).wait = some r → r.target = 2 →
      ncount ((List.range 100).map fun b => poweringUp (powOf s b)) < maxUp s →
      (∀ b, b < 100 → waitingUp (powOf s b) = true → wakeOrder s bank ≤ wakeOrder s b) →
      ∃ t, exec (.bankPowerupStart bank) s = .next t ∧ Only [.bank] s t
        ∧ powOf t bank = { powOf s bank with trans := some ⟨2, zfillOf s bank r⟩, wait := none }
        ∧ (∀ b, b ≠ bank → powOf t b = powOf s b) ∧ t.bank = { s.bank with pow := t.bank.pow })
  ∧ (∀ (bank : Nat) (s : State) (r : PowReq), inReset s = false → bank < 100 → (∀ m, s.fw.mig = some m → pbankOf s m.lb ≠ bank ∨ r.target ≠ 0) →
      (powOf s bank).wait = some r → r.target ≠ 2 →
      beatsAt s bank = false →
      ∃ t, exec (.bankPowerdownStart bank) s = .next t ∧ powOf t bank = { powOf s bank with trans := some r, wait := none }
        ∧ (∀ b, b ≠ bank → powOf t b = powOf s b) ∧ t.regs = s.regs
        ∧ (∀ lb, lbankOf s bank = some lb → NMap.get none t.bank.wb lb = none)
        ∧ ((∀ lb, lbankOf s bank = some lb → r.target ≠ 1 ∨ NMap.get none s.bank.wb lb = none) → t.mem = s.mem ∧ Only [.bank] s t)
        ∧ (∀ lb w, lbankOf s bank = some lb → r.target = 1 → NMap.get none s.bank.wb lb = some w → w.row < 512 →
            Stored bank w.row (2 ^ w.chunk) (BitVec.ofNat 1024 (w.data.toNat <<< (256 * w.chunk))) 0 s t))
  ∧ (∀ (bank : Nat) (s : State) (r : PowReq) (m : Mig), inReset s = false → bank < 100 → s.fw.mig = some m → pbankOf s m.lb = bank →
      (powOf s bank).wait = some r → r.target = 0 → beatsAt s bank = false → m.lb < 96 → m.pb < 100 →
      (4 ≤ m.phase → ∃ t, exec (.bankPowerdownStart bank) s = .next t ∧ t.mem = s.mem ∧ t.fw.mig = none ∧ t.regs = s.regs ∧ (powOf t bank).trans = some r)
      ∧ (m.phase < 4 → m.pb ≠ bank → ∃ t, exec (.bankPowerdownStart bank) s = .next t ∧ t.mem = s.mem ∧ t.fw.mig = none ∧ regB t 0x7000 10 = true
        ∧ (∀ lb, lb < 96 → pbankOf t lb = if lb = m.lb then m.pb else pbankOf s lb) ∧ (powOf t bank).trans = some r
        ∧ powOf t m.pb = (match (powOf s bank).held with | some h => (powOf s m.pb).request h | none => powOf s m.pb)
        ∧ t.fw.ents = s.fw.ents ++ [BitVec.ofNat 64 (16 * m.lb + 65536 * m.pb + 2 ^ 24 * m.trig + 2 ^ 32 * bits s.tm.t.toNat 61 30)]))
  ∧ (∀ (bank : Nat) (s : State) (r : PowReq), inReset s = false → bank < 100 → purging s = false → (powOf s bank).trans = some r →
      ∃ t, exec (.bankTransitionDone bank) s = .next t ∧ (∀ b, b ≠ bank → powOf t b = powOf s b)
        ∧ (match (powOf s bank).held with
          | none => powOf t bank = ⟨r.target, none, none, none⟩
          | some h => if h.target > 2 ∨ (h.target = 1 ∧ r.target = 0) then
              powOf t bank = ⟨r.target, none, none, none⟩ ∧ (∀ lb, lbankOf s bank = some lb → regB t 0x7004 9 = true)
            else powOf t bank = ⟨r.target, none, if h.target = r.target then none else some h, none⟩)
        ∧ ((powOf s bank).st ≠ 0 → r.target ≠ 0 → t.mem = s.mem)
        ∧ (r.target = 0 → t.mem = s.mem.filter (fun e => e.1 / 65536 != bank) ∧ ∀ row c, row < 512 → c < 4 → (chunkAt t bank row c).init = false)
        ∧ (r.target = 2 → (powOf s bank).st = 0 → ∀ row c, row < 512 → c < 4 →
            (chunkAt t bank row c).init = r.zfill ∧ (r.zfill = true → chunkAt t bank row c = ⟨0, false, true, []⟩)))

/-- O43. DOMAIN_REQ_WRITE, accepted, that changes the bit of one domain: a spare or retired domain, or a middle plane whose loss would
leave fewer than 8 active planes, refuses the request: the bit is kept, DREFUSE is set and cause 43 is pending; else the bit
changes, and the domain holds the request during a transition or wait, keeps its power at its own state, else waits. A write
that changes no bit changes nothing. DOMAIN_POWERDOWN_START: a domain that waits to go Off starts when idle.
DOMAIN_POWERUP_START: one that waits to go On starts while fewer than 2 are in a power-up and no lower domain waits for one.
DOMAIN_TRANSITION_DONE: the domain is in its target, and a held request not refused is applied from there; on reaching Off RP0
loses its intake slots, RP1 the pigeonhole directory and RP3 the norm groups' partials, and the buckets keep their state. Other
domains keep their power. Rests in part on the model's choice of log entries 13, 14 and 85. (spec/13_power.md) -/
def Obligations.DomainPowerFollowsItsRequests : Prop :=
  (∀ (a : BusAcc) (w : Word) (s : State) (i : Nat), accepts a true 0x40A0 s → i < 32 →
      (∀ j, j < 32 → j ≠ i → bit w.toNat j = regB s 0x40A0 j) →
      ∃ t, exec (.domainReqWrite a w) s = .next t ∧ answered 0 t ∧ Only [.regs, .bus, .tr, .dbg, .pw] s t
        ∧ Within ([⟨0x4004, 0, 1⟩, ⟨0x40A0, 0, 1⟩] ++ eventRegs) s t ∧ (∀ j, j ≠ i → domOf t j = domOf s j)
        ∧ if bit w.toNat i = regB s 0x40A0 i then t.regs = s.regs ∧ t.pw = s.pw
          else if domClosed s i = true ∨ (bit w.toNat i = false ∧ planeLimit s i = true) then
            t.pw = s.pw ∧ reg t 0x40A0 = reg s 0x40A0 ∧ regB t 0x4004 13 = true ∧ regB t 0x7004 11 = true
          else reg t 0x40A0 = w ∧ reg t 0x4004 = reg s 0x4004
            ∧ let r : PowReq := ⟨if bit w.toNat i = true then 2 else 0, false⟩; let p := domOf s i
              domOf t i = if p.trans.isSome = true ∨ p.wait.isSome = true then { p with held := some r }
                else if r.target = p.st then p else { p with wait := some r })
  ∧ (∀ (dom : BitVec 5) (s : State) (r : PowReq), inReset s = false → (domOf s dom.toNat).wait = some r →
      (r.target = 0 → domIdle s dom.toNat = true →
        ∃ t, exec (.domainPowerdownStart dom) s = .next t ∧ Only [.pw] s t
          ∧ ∀ j, domOf t j = if j = dom.toNat then { domOf s j with trans := some r, wait := none } else domOf s j)
      ∧ (r.target = 2 → ncount ((List.range 32).map fun j => poweringUp (domOf s j)) < 2 →
        (∀ j, j < dom.toNat → waitingUp (domOf s j) = false) →
        ∃ t, exec (.domainPowerupStart dom) s = .next t ∧ Only [.pw] s t
          ∧ ∀ j, domOf t j = if j = dom.toNat then { domOf s j with trans := some r, wait := none } else domOf s j))
  ∧ (∀ (dom : BitVec 5) (s : State) (r : PowReq), inReset s = false → (domOf s dom.toNat).trans = some r →
      ∃ t, exec (.domainTransitionDone dom) s = .next t ∧ Only [.pw, .rx] s t ∧ t.rx.bkt = s.rx.bkt
        ∧ (r.target ≠ 0 ∨ dom.toNat ∉ [27, 28, 30] → t.rx = s.rx)
        ∧ (r.target = 0 → (dom = 27 → t.rx.slots = [] ∧ t.rx.dir = s.rx.dir) ∧ (dom = 28 → t.rx = { s.rx with dir := [] })
            ∧ (dom = 30 → t.rx = { s.rx with ng := [] }))
        ∧ (∀ j, j ≠ dom.toNat → domOf t j = domOf s j)
        ∧ domOf t dom.toNat = match (domOf s dom.toNat).held with
          | none => ⟨r.target, none, none, none⟩
          | some h => if h.target > 2 ∨ (h.target = 1 ∧ r.target = 0) ∨ h.target = r.target then ⟨r.target, none, none, none⟩
              else ⟨r.target, none, some h, none⟩)

/-- O44. LEVEL_COMMAND, with no reset in force, whose DIV exceeds 4, or whose DIV is not 0 while STEP is not 0: the only change in the
power state is an acknowledge at the end of the queue, with its SEQ, the level applied, SUP 0 and ERR 1; LMY_PWR_STATUS.CMDERR
is set and cause 45 is pending; other registers but the event registers keep their value. (R353) -/
def Obligations.InvalidLevelCommandsAreIgnored : Prop :=
  ∀ (msg : BitVec 16) (s : State), inReset s = false →
    (bits msg.toNat 6 4 > 4 ∨ (bits msg.toNat 6 4 ≠ 0 ∧ bits msg.toNat 3 0 ≠ 0)) →
    ∃ t, exec (.levelCommand msg) s = .next t
      ∧ t.pw = { s.pw with acks := s.pw.acks.take 1 ++
          [BitVec.ofNat 17 (bits msg.toNat 15 8 + fld s.pw.step 8 + fld s.pw.div 12 + fld 0 15 + fld 1 16)] }
      ∧ regB t 0x4004 11 = true ∧ regB t 0x7004 13 = true ∧ Within ([⟨0x4004, 0, 1⟩] ++ eventRegs) s t ∧ Only [.regs, .tr, .dbg, .pw] s t

/-- O45. With no reset in force; while TCLK is stalled the four commands of boundaries and windows change nothing. SUBWINDOW_BOUNDARY:
each rail takes its pending gain and the limits of its register, and its window of 1 µs drops the oldest sub-window after the
current one takes the charge of this CCLK; LMY_PWR_GAIN shows the gains. ESTIMATE_MESSAGE: the message and LMY_PWR_EST1 and
EST16 carry the means over 1 µs and 16 µs in 10 mA, saturating, and that window slides. CAL_INTERVAL_END keeps the raw charges
of the last two intervals and starts at 0; the third without a calibration sets CALSTALE and makes cause 47 pending. CALIBRATION
of a kept interval not yet calibrated, with charge on both rails: each pending gain is M × 10^8 pC / E to nearest in Q2.14,
clamped to 0x3000 to 0x5000, CALSTALE clears, a clamp sets CALCLAMP and cause 44; any other is discarded with CMDERR and cause
45. HINT_WINDOW_END offers the window's hint, merged with one not yet taken. PC_MESSAGE_TAKEN removes the message of its kind.
Rests in part on the model's choice of log entries 28, 29, 30 and 31. (spec/13_power.md, spec/19_boundary.md) -/
def Obligations.ChargeIsEstimatedAndCalibrated : Prop :=
  (∀ (s : State), inReset s = false →
    (regB s 0x604C 3 = true → exec .subwindowBoundary s = .next s ∧ exec .estimateMessage s = .next s
      ∧ exec .calIntervalEnd s = .next s ∧ exec .hintWindowEnd s = .next s)
    ∧ (regB s 0x604C 3 = false → ∃ t, exec .subwindowBoundary s = .next t ∧ Only [.regs, .pw] s t ∧ Within [⟨0x4010, 0, 1⟩] s t
      ∧ t.pw.core.gain = s.pw.core.gainNext.getD s.pw.core.gain ∧ t.pw.arr.gain = s.pw.arr.gainNext.getD s.pw.arr.gain
      ∧ t.pw.core.gainNext = none ∧ t.pw.arr.gainNext = none
      ∧ t.pw.core.lim1 = regF s 0x4008 15 0 ∧ t.pw.core.lim16 = regF s 0x4008 31 16
      ∧ t.pw.arr.lim1 = regF s 0x400C 15 0 ∧ t.pw.arr.lim16 = regF s 0x400C 31 16
      ∧ (∀ x xs, s.pw.core.w1 = x :: xs → t.pw.core.w1 = 0 :: (x + s.pw.core.now * s.pw.core.gain) :: xs.take 6)
      ∧ (∀ x xs, s.pw.arr.w1 = x :: xs → t.pw.arr.w1 = 0 :: (x + s.pw.arr.now * s.pw.arr.gain) :: xs.take 6)
      ∧ reg t 0x4010 = BitVec.ofNat 32 (t.pw.core.gain + fld t.pw.arr.gain 16))
    ∧ (∀ x xs y ys, regB s 0x604C 3 = false → s.pw.core.w16 = x :: xs → s.pw.arr.w16 = y :: ys →
      ∃ t, exec .estimateMessage s = .next t ∧ Only [.regs, .pw] s t ∧ Within [⟨0x4014, 4, 2⟩] s t
        ∧ let c := x + s.pw.core.now * s.pw.core.gain; let a := y + s.pw.arr.now * s.pw.arr.gain
          let m : Nat → Nat → Nat := fun q n => min 0xFFFF (q / (n * (8000000000 * 2 ^ 14)))
          reg t 0x4014 = BitVec.ofNat 32 (m c 1 + fld (m a 1) 16)
            ∧ reg t 0x4018 = BitVec.ofNat 32 (m (nsum (c :: xs)) 16 + fld (m (nsum (a :: ys)) 16) 16)
            ∧ t.pw.est = some (BitVec.ofNat 96 (m c 1 + fld (m a 1) 16 + fld (m (nsum (c :: xs)) 16) 32 + fld (m (nsum (a :: ys)) 16) 48
                + fld (timeNow s / 1000 % 2 ^ 32) 64))
            ∧ t.pw.core.w16 = 0 :: c :: xs.take 14 ∧ t.pw.arr.w16 = 0 :: a :: ys.take 14)
    ∧ (regB s 0x604C 3 = false → ∃ t, exec .calIntervalEnd s = .next t ∧ Only [.regs, .tr, .dbg, .pw] s t
        ∧ t.pw.ivls = ⟨timeNow s / 10000000 - 1, s.pw.core.raw + s.pw.core.now, s.pw.arr.raw + s.pw.arr.now, false⟩ :: s.pw.ivls.take 1
        ∧ t.pw.core.raw = 0 ∧ t.pw.arr.raw = 0 ∧ t.pw.missed = s.pw.missed + 1
        ∧ (s.pw.missed = 2 → regB t 0x4004 10 = true ∧ regB t 0x7004 15 = true) ∧ (s.pw.missed ≠ 2 → t.regs = s.regs))
    ∧ (∀ (msg : BitVec 64), let k := bits msg.toNat 31 0
      match s.pw.ivls.find? (fun i => i.k % 2 ^ 32 == k && !i.used && i.core != 0 && i.arr != 0) with
      | some i => ∃ t, exec (.calibration msg) s = .next t ∧ Only [.regs, .tr, .dbg, .pw] s t
          ∧ let g : Nat → Nat → Nat := fun m e => (2 * (m * 2 ^ 14 * 80000000000000) + e) / (2 * e)
            let gc := g (bits msg.toNat 47 32) i.core; let ga := g (bits msg.toNat 63 48) i.arr
            t.pw = { s.pw with
                core := { s.pw.core with gainNext := some (max 0x3000 (min 0x5000 gc)) }
                arr := { s.pw.arr with gainNext := some (max 0x3000 (min 0x5000 ga)) }
                ivls := s.pw.ivls.map fun j => if j.k = i.k then { j with used := true } else j
                missed := 0 }
              ∧ reg t 0x401C = BitVec.ofNat 32 k ∧ regB t 0x4004 10 = false
              ∧ (gc < 0x3000 ∨ 0x5000 < gc ∨ ga < 0x3000 ∨ 0x5000 < ga → regB t 0x4004 12 = true ∧ regB t 0x7004 12 = true)
      | none => ∃ t, exec (.calibration msg) s = .next t ∧ t.pw = s.pw ∧ regB t 0x4004 11 = true ∧ regB t 0x7004 13 = true
          ∧ Within ([⟨0x4004, 0, 1⟩] ++ eventRegs) s t)
    ∧ (regB s 0x604C 3 = false → ∃ t, exec .hintWindowEnd s = .next t ∧ Only [.pw] s t ∧ t.pw.hintNow = none
        ∧ t.pw.hintOut = match s.pw.hintNow, s.pw.hintOut with
          | none, o => o
          | some h, none => some h
          | some h, some o => some ⟨max o.level h.level, min (o.lead - (s.pw.hintAge + 1)) h.lead, max o.dur h.dur, min 255 (o.n + h.n)⟩)
    ∧ (∃ t, exec (.pcMessageTaken .acknowledge) s = .next t ∧ t = { s with pw := { s.pw with acks := s.pw.acks.drop 1 } })
    ∧ (∃ t, exec (.pcMessageTaken .estimate) s = .next t ∧ t = { s with pw := { s.pw with est := none } })
    ∧ (s.pw.hintOut ≠ none → ∃ t, exec (.pcMessageTaken .hint) s = .next t ∧ Only [.cnt, .pw] s t
        ∧ t.pw = { s.pw with hintOut := none, hintAge := 0 } ∧ NMap.get 0 t.cnt 0x59E0 = NMap.get 0 s.cnt 0x59E0 + 1))

/-- O46. With no reset in force. A valid LEVEL_COMMAND with one held replaces it and notes the superseded SEQ; with one under way, or
before the Waybill is LOADED, it is held; else it begins: a new step waits for lmy_ck_lock low, then asks for the step's clock;
a new substep waits for its boundary; the level in force is applied at once. CLOCK_SWITCH of a command that asked for its clock,
and SUBSTEP_APPLY of one that waits for its boundary, apply it: STEP and DIV are the command's, CAPUN says whether CAPLOW came
with step 0 and DIV 4; with none held, SEQ is the command's, none is under way and the last acknowledge carries SEQ and the
level without ERR. LOCK_TIMEOUT after 1,920 ns keeps the level, acknowledges with ERR, sets CMDERR and makes cause 45 pending.
CLOCK_LOCK_FALL lowers lmy_ck_lock; a command that waited for it asks for its clock. Rests in part on the model's choice of log
entry 27. (spec/13_power.md, spec/14_clocks_reset_waybill.md, spec/19_boundary.md) -/
def Obligations.LevelCommandsChangeTheLevelInTurn : Prop :=
  (∀ (msg : BitVec 16) (s : State), inReset s = false → bits msg.toNat 6 4 ≤ 4 → (bits msg.toNat 6 4 = 0 ∨ bits msg.toNat 3 0 = 0) →
      (∀ h, s.pw.held = some h → ∃ t, exec (.levelCommand msg) s = .next t
        ∧ t = { s with pw := { s.pw with held := some msg, sup := s.pw.sup ++ [bits h.toNat 15 8] } })
      ∧ (s.pw.held = none → s.pw.cmd ≠ none ∨ loaded s = false → ∃ t, exec (.levelCommand msg) s = .next t
        ∧ t = { s with pw := { s.pw with held := some msg } })
      ∧ (s.pw.held = none → s.pw.cmd = none → loaded s = true → ∃ t, exec (.levelCommand msg) s = .next t ∧ t.pw.held = none
        ∧ (bits msg.toNat 3 0 ≠ s.pw.step → t.pw.cmd = some msg ∧ t.pw.step = s.pw.step ∧ t.pw.div = s.pw.div ∧ t.pw.acks = s.pw.acks
            ∧ t.regs = s.regs
            ∧ if s.pw.ckLock = true then t.pw.phase = 1 ∧ t.pw.ckRtn = s.pw.ckRtn
              else t.pw.phase = 2 ∧ t.pw.ckRtn = true ∧ t.pw.ckFmhz = BitVec.ofNat 12 (stepVF s (bits msg.toNat 3 0)).1)
        ∧ (bits msg.toNat 3 0 = s.pw.step → bits msg.toNat 6 4 ≠ s.pw.div →
            t = { s with pw := { s.pw with cmd := some msg, phase := 3, sup := [], supNow := s.pw.sup } })
        ∧ (bits msg.toNat 3 0 = s.pw.step → bits msg.toNat 6 4 = s.pw.div → t.pw.seq = bits msg.toNat 15 8 ∧ t.pw.cmd = none
            ∧ t.pw.acks.getLast? = some (BitVec.ofNat 17 (bits msg.toNat 15 8 + fld s.pw.step 8 + fld s.pw.div 12)))))
  ∧ (∀ (c : BitVec 16) (s : State), inReset s = false → s.pw.cmd = some c →
      (s.pw.phase = 2 → ∃ t, exec .clockSwitch s = .next t ∧ t.pw.step = bits c.toNat 3 0 ∧ t.pw.div = bits c.toNat 6 4
        ∧ t.pw.ckSel = !s.pw.ckSel
        ∧ (s.pw.held = none → t.pw.ckLock = true ∧ t.pw.ckRtn = false ∧ t.pw.seq = bits c.toNat 15 8 ∧ t.pw.cmd = none ∧ t.pw.phase = 0
            ∧ t.pw.capun = (bit c.toNat 7 && decide (bits c.toNat 3 0 = 0) && decide (bits c.toNat 6 4 = 4))
            ∧ t.pw.acks.getLast? = some (BitVec.ofNat 17 (bits c.toNat 15 8 + fld (bits c.toNat 3 0) 8 + fld (bits c.toNat 6 4) 12))))
      ∧ (s.pw.phase = 3 → ∃ t, exec .substepApply s = .next t ∧ t.pw.step = bits c.toNat 3 0 ∧ t.pw.div = bits c.toNat 6 4
        ∧ t.pw.ckSel = s.pw.ckSel
        ∧ (s.pw.held = none → t.pw.seq = bits c.toNat 15 8 ∧ t.pw.cmd = none ∧ t.pw.phase = 0
            ∧ t.pw.capun = (bit c.toNat 7 && decide (bits c.toNat 3 0 = 0) && decide (bits c.toNat 6 4 = 4))
            ∧ t.pw.acks.getLast? = some (BitVec.ofNat 17 (bits c.toNat 15 8 + fld (bits c.toNat 3 0) 8 + fld (bits c.toNat 6 4) 12))))
      ∧ (s.pw.phase = 2 → 1920 ≤ s.pw.rtnNs → s.pw.held = none → ∃ t, exec .lockTimeout s = .next t ∧ t.pw.step = s.pw.step ∧ t.pw.div = s.pw.div
        ∧ t.pw.ckRtn = false ∧ t.pw.cmd = none ∧ t.pw.phase = 0
        ∧ t.pw.acks.getLast? = some (BitVec.ofNat 17 (bits c.toNat 15 8 + fld s.pw.step 8 + fld s.pw.div 12 + fld 1 16))
        ∧ regB t 0x4004 11 = true ∧ regB t 0x7004 13 = true ∧ Within ([⟨0x4004, 0, 1⟩] ++ eventRegs) s t))
  ∧ (∀ (s : State), s.pw.ckLock = true → s.pw.ckRtn = false → ∃ t, exec .clockLockFall s = .next t ∧ Only [.pw] s t ∧ t.pw.ckLock = false
      ∧ match s.pw.cmd with
        | none => t.pw = { s.pw with ckLock := false }
        | some c => t.pw = if inReset s = false ∧ s.pw.phase = 1 then
            { s.pw with ckLock := false, phase := 2, ckFmhz := BitVec.ofNat 12 (stepVF s (bits c.toNat 3 0)).1, ckRtn := true, rtnNs := 0 }
          else { s.pw with ckLock := false })

/-- O47. INTAKE_FLIT of a served block with RP0 On takes the DCQ's first flit into a slot of its VC where the VC is enabled and has one,
the bucket is ARMED for it and the fields are valid; else the flit is dropped and counted for its VC. COMBINE takes the
contribution picked for the VC whose turn it is, at most 2 in a CCLK: a duplicate marks its bucket and is dropped; another
becomes an operation on the parked partials on its way up, which are its own from then on, and the directory shows at once where
it will park, unless it reaches the root. In a running block with fresh identifiers, where the row read or written is its port's
only one: the row of the one partial that a contribution meets gives the operation the sum of the two, lower index first, and
frees the pigeonhole; the write of a partial lets it be read from the next array cycle; the write of a root takes its flit into
the bucket. VC_CREDIT_RETURN of a running block moves one freed slot into the running count of its VC. EGRESS_CREDIT_RETURN adds
the credits returned since the last count, at most to the VC's limit; an excess is counted and makes cause 35 pending. Rests in
part on the model's choice of log entries 61 and 86. (spec/12_reduction.md) -/
def Obligations.ContributionsEnterMeetAndAreReduced : Prop :=
  (∀ (lane : Bool) (s : State) (d : Row × BitVec 81) (rest : List (Row × BitVec 81)), serving s = true → rp0On s = true →
      let l := if lane = true then 43 else 42
      (wlane s l).dcq = d :: rest → (wlane s l).seen ≠ 0 →
      let f := mkRFlit lane d.1 d.2.toNat; let k := bktAt s f.bucket
      let ok := vcEn s f.vc = true ∧ slotsUsed s f.vc < vcSlots s f.vc ∧ k.st = 1 ∧ dVc k.desc = f.vc ∧ badFlit k.desc d.2.toNat f = false
      ∃ t, exec (.intakeFlit lane) s = .next t
        ∧ (∀ m, wlane t m = if m = l then { wlane s m with dcq := rest, seen := (wlane s m).seen - 1 } else wlane s m)
        ∧ (ok → Only [.fr, .rx] s t ∧ t.rx = { s.rx with slots := s.rx.slots ++
            [{ f with todo := if f.efmt ≠ 1 ∧ f.flit + 1 < dFlits k.desc then [0, 1] else [0] }] })
        ∧ (¬ok → t.rx.slots = s.rx.slots ∧ t.rx.bkt = s.rx.bkt
            ∧ NMap.get 0 t.cnt (0x5A80 + 0x20 * (f.vc % 16)) = NMap.get 0 s.cnt (0x5A80 + 0x20 * (f.vc % 16)) + 1 ∧ regB t 0x3818 0 = true))
  ∧ (∀ (vc : BitVec 4) (s : State) (f : RFlit) (half : Nat), serving s = true → s.rx.took < 2 → nextVc s = some vc.toNat →
      pickHalf s vc.toNat (takeable s vc.toNat) = some (f, half) →
      let left := f.todo.filter (· != half); let flit := halfFlit f half
      ∃ t, exec (.combine vc) s = .next t ∧ t.mem = s.mem ∧ t.fr = s.fr ∧ t.rx.took = s.rx.took + 1 ∧ t.rx.rr = (vc.toNat + 1) % 16
        ∧ t.rx.slots = (if left = [] then s.rx.slots.erase f else replaceFirst f { f with todo := left } s.rx.slots)
        ∧ (∀ v, NMap.get 0 t.rx.ret v = NMap.get 0 s.rx.ret v + if left = [] ∧ v = f.vc then 1 else 0)
        ∧ (isDup s f half = true → (bktAt t f.bucket).dup = true ∧ t.rx.dir = s.rx.dir ∧ t.rx.ops = s.rx.ops
            ∧ NMap.get 0 t.cnt (0x5A80 + 0x20 * (f.vc % 16)) = NMap.get 0 s.cnt (0x5A80 + 0x20 * (f.vc % 16)) + 1)
        ∧ (isDup s f half = false →
            let way := wayOf s f half; let row := halfRow f half; let els := rowEls row.1
            t.rx.bkt = s.rx.bkt ∧ t.cnt = s.cnt ∧ ∃ o, t.rx.ops = s.rx.ops ++ [o] ∧ o.id = s.rx.nextOp ∧ o.kind = 0 ∧ o.b = f.bucket
              ∧ o.flit = flit ∧ o.level = way.2.1 ∧ o.idx = way.2.2 ∧ o.way = way.1 ∧ o.hole = parkHole s f way
              ∧ o.data = row.1 ∧ o.pois = row.2 ∧ o.nan = nanAt (nanCount els) (infCount els) f.level f.idx flit
              ∧ o.full = way.1.isEmpty ∧ (way.1 = [] → o.outs = [row])
              ∧ t.rx.dir = (s.rx.dir.map fun e => if way.1.contains e = true then { e with taker := s.rx.nextOp + 1 } else e)
                  ++ match parkHole s f way with
                    | some h => [⟨f.vc, h, f.bucket, flit, way.2.1, way.2.2, o.nan, 0, none⟩]
                    | none => []))
  ∧ (∀ (bank : Nat) (port : Bool) (ups : List Upset) (s : State) (T : Tr) (b : Beat) (o : ROp) (e z : PEnt), running s = true →
      FreshIds s → nextBeat s bank port [.rd, .park, .ird] = some (T, 0) → T.kind = .ird → T.beats = [b] → b.have_ = false →
      T.passed = [] → T.job = .rrow o.id 0 → portTrs s T.req = [T] → opOf s o.id = some o → o.kind = 0 → o.way = [e] → o.got = [] →
      entryOf s e.bucket e.flit e.level e.idx = some z →
      let r := (readRow (T.gcyc + T.offs) b.bank b.row (readerOf T port) ups s).1
      let x := combineRow o.flit ⟨o.data, o.pois, o.nan⟩ z (r.data, r.pois)
      ∃ t u, exec (.arrayRead bank port ups) s = .next t ∧ opOf t o.id = some u ∧ u.full = true ∧ u.outs = [(x.data, x.pois)] ∧ u.nan = x.nan
        ∧ t.rx.dir = (s.rx.dir.filter (· != z)).map fun y =>
            if y.bucket = o.b ∧ y.flit = o.flit ∧ y.level = o.level ∧ y.idx = o.idx then { y with nan := x.nan } else y)
  ∧ (∀ (bank : Nat) (port : Bool) (par : Parity) (s : State) (T : Tr) (b : Beat) (o : ROp) (x : Row × Mask4), running s = true →
      FreshIds s → nextBeat s bank port [.wr, .parkWr, .iwr] = some (T, 0) → T.kind = .iwr → T.beats = [b] → T.passed = [] → T.job = .wrow o.id 0 → portTrs s T.req = [T] → opOf s o.id = some o → o.kind = 0 → o.outs = [x] → o.wdone = 0 →
      o.id < s.rx.nextOp →
      ∃ t, exec (.arrayWrite bank port par) s = .next t ∧ opOf t o.id = none
        ∧ (o.hole ≠ none → t.rx.bkt = s.rx.bkt ∧ t.rx.dir = s.rx.dir.map fun e =>
            if e.bucket = o.b ∧ e.flit = o.flit ∧ e.level = o.level ∧ e.idx = o.idx then { e with from_ := some (T.gcyc + T.offs + 1) } else e)
        ∧ (o.hole = none → t.rx.dir = s.rx.dir ∧ ((bktAt s o.b).use = o.use → (bktAt t o.b).red = o.flit :: (bktAt s o.b).red
            ∧ (bktAt t o.b).nan = nanMerge (bktAt s o.b).nan o.nan)))
  ∧ (∀ (vc : BitVec 4) (s : State), running s = true → NMap.get 0 s.rx.ret vc.toNat ≠ 0 →
      ∃ t, exec (.vcCreditReturn vc) s = .next t ∧ Only [.rx] s t ∧ t.rx.slots = s.rx.slots ∧ t.rx.eg = s.rx.eg
        ∧ (∀ v, NMap.get 0 t.rx.ret v = if v = vc.toNat then NMap.get 0 s.rx.ret v - 1 else NMap.get 0 s.rx.ret v)
        ∧ (∀ v, NMap.get 0 t.rx.vccred v = if v = vc.toNat then (NMap.get 0 s.rx.vccred v + 1) % 512 else NMap.get 0 s.rx.vccred v))
  ∧ (∀ (vc : BitVec 4) (count : BitVec 8) (s : State), running s = true →
      let n := (count.toNat + 256 - NMap.get 0 s.rx.egcred vc.toNat) % 256
      ∃ t, exec (.egressCreditReturn vc count) s = .next t ∧ Only [.regs, .cnt, .tr, .dbg, .rx] s t
        ∧ (∀ v, NMap.get 0 t.rx.eg v = if v = vc.toNat then min (NMap.get 0 s.rx.eg v + n) (vcEgcred s v) else NMap.get 0 s.rx.eg v)
        ∧ (∀ v, NMap.get 0 t.rx.egcred v = if v = vc.toNat then count.toNat else NMap.get 0 s.rx.egcred v)
        ∧ if NMap.get 0 s.rx.eg vc.toNat + n ≤ vcEgcred s vc.toNat then t.regs = s.regs ∧ t.cnt = s.cnt
          else regB t 0x7004 3 = true ∧ NMap.get 0 t.cnt (0x5A88 + 0x20 * vc.toNat) =
            NMap.get 0 s.cnt (0x5A88 + 0x20 * vc.toNat) + BitVec.ofNat 56 (NMap.get 0 s.rx.eg vc.toNat + n - vcEgcred s vc.toNat))

/-- O48. Accepted. BDATA_WRITE of a bucket of the writer's context, FREE or DONE, changes the word that the level's address names and no
other; else it sets bit 4 of LMY_RDX_BCMDSTS and no word. BDATA_READ answers the word of a bucket of the reader's context, else
0. With AUTOINC the address goes to the next word. ARM where no reason of R307 refuses it and the port takes work: the bucket is
ARMED with its descriptor as it stands; refused: the status carries the reason and the bucket, and no bucket changes. ABORT of
an ARMED or REDUCED bucket of the writer's: the bucket is FREE, its slots, pigeonholes and operations but a started update are
gone, its norm group has lost a member, cause 37 is pending, and other buckets and groups keep their state, slots and entries;
refused: only the status changes. NGCTL_WRITE stores the control word and empties the group. (spec/12_reduction.md, spec/20_register_map.md) -/
def Obligations.BucketsAreDescribedArmedAndAborted : Prop :=
  (∀ (a : BusAcc) (w : Word) (s : State), accepts a true 0x3814 s → let A := baddr s (lvl a); let b := bits A 13 8
      ∃ t, exec (.bdataWrite a w) s = .next t ∧ answered 0 t ∧ Within [⟨0x380C, 0, 1⟩] s t
        ∧ (if bktMine s (lvl a) b = true ∧ ((bktAt s b).st = 0 ∨ (bktAt s b).st = 4) then t.regs = s.regs
              ∧ t.rx = { s.rx with desc := t.rx.desc } ∧ ∀ i, NMap.get 0 t.rx.desc i = if i = 16 * b + bits A 3 0 then w else NMap.get 0 s.rx.desc i
            else t.rx = s.rx ∧ regB t 0x380C 4 = true)
        ∧ ∀ l, baddr t l = if l = lvl a ∧ bit A 16 = true then
            fld ((16 * b + bits A 3 0 + 1) / 16 % 64) 8 + (16 * b + bits A 3 0 + 1) % 16 + 2 ^ 16 else baddr s l)
  ∧ (∀ (a : BusAcc) (s : State), accepts a false 0x3814 s → let A := baddr s (lvl a); let b := bits A 13 8
      ∃ t, exec (.bdataRead a) s = .next t ∧ Only [.bus] s t
        ∧ answered (if bktMine s (lvl a) b = true then NMap.get 0 s.rx.desc (16 * b + bits A 3 0) else 0) t
        ∧ ∀ l, baddr t l = if l = lvl a ∧ bit A 16 = true then
            fld ((16 * b + bits A 3 0 + 1) / 16 % 64) 8 + (16 * b + bits A 3 0 + 1) % 16 + 2 ^ 16 else baddr s l)
  ∧ (∀ (a : BusAcc) (bucket : BitVec 6) (s : State), accepts a true 0x3808 s → let b := bucket.toNat
      (match armReason s (lvl a) b with
        | none => rdxOpen s = true → ∃ t, exec (.arm a bucket) s = .next t ∧ answered 0 t ∧ Only [.rx, .bus] s t
            ∧ t.rx = { s.rx with bkt := t.rx.bkt } ∧ ∀ k, bktAt t k = if k = b then
                { Bkt.free with st := 1, desc := descOf s b, use := (bktAt s b).use + 1 } else bktAt s k
        | some r => ∃ t, exec (.arm a bucket) s = .next t ∧ answered 0 t ∧ Only [.regs, .bus] s t ∧ Within [⟨0x380C, 0, 1⟩] s t
            ∧ reg t 0x380C = BitVec.ofNat 32 (1 + fld r 1 + (if regB s 0x380C 4 = true then 16 else 0) + fld b 8))
      ∧ ((bktAt s b).st = 1 ∨ (bktAt s b).st = 2 → bktMine s (lvl a) b = true →
          ∃ t, exec (.abort a bucket) s = .next t ∧ answered 0 t ∧ (bktAt t b).st = 0 ∧ (∀ k, k ≠ b → bktAt t k = bktAt s k)
            ∧ t.rx.slots = s.rx.slots.filter (fun f => f.bucket != b) ∧ t.rx.dir = s.rx.dir.filter (fun e => e.bucket != b)
            ∧ (∀ o, o ∈ t.rx.ops ↔ o ∈ s.rx.ops ∧ o.id ∉ abortOps s b)
            ∧ (∀ g, ngAt t g = if dNgen (bktAt s b).desc = true ∧ g = dNgrp (bktAt s b).desc then { ngAt s g with lost := true } else ngAt s g)
            ∧ t.rx.eg = s.rx.eg ∧ t.rx.desc = s.rx.desc ∧ regB t 0x7004 5 = true)
      ∧ ((bktAt s b).st ≠ 1 → (bktAt s b).st ≠ 2 → ∃ t, exec (.abort a bucket) s = .next t ∧ answered 0 t ∧ Only [.regs, .bus] s t
          ∧ reg t 0x380C = BitVec.ofNat 32 (1 + (if regB s 0x380C 4 = true then 16 else 0) + fld b 8)))
  ∧ (∀ (a : BusAcc) (g : BitVec 3) (w : Word) (s : State), accepts a true (0x3D00 + 16 * g.toNat) s →
      ∃ t, exec (.ngctlWrite a g w) s = .next t ∧ answered 0 t ∧ Only [.regs, .bus, .rx] s t ∧ Within [⟨0x3D00 + 16 * g.toNat, 0, 1⟩] s t
        ∧ reg t (0x3D00 + 16 * g.toNat) = w &&& 0x0007F77F ∧ t.rx = { s.rx with ng := t.rx.ng }
        ∧ ∀ k, ngAt t k = if k = g.toNat then NGrp.none else ngAt s k)

/-- O49. With the block served. NORM_PASS_END of a bucket in its norm pass that has read every reduced row: the pass is over, and where
its group still lacks members the bucket joins with its partial of R322; the last member makes the group ready with the sum of
R323, unless the group has lost a member; other groups, and memory, are as before. UPDATE_FLIT of the next flit of a bucket,
with rate left: an operation on that flit begins, the rate and the count of started updates rise, and memory is as before. In a
running block with fresh identifiers, where the row read is its port's only one, the row of w gives an update under OP O0 with
the flit at hand the row w − LR·GS·g to store. RESULT_SEND of a bucket that may send, with flits left and a credit: one own read
of the flit on RL62 (even) or RL63 (odd) is appended, the bucket has sent one more, and the VC has one credit less; other VCs
keep theirs, and memory its contents. Rests in part on the model's choice of log entries 62 and 86. (spec/12_reduction.md) -/
def Obligations.NormPassesUpdatesAndResults : Prop :=
  (∀ (bucket : BitVec 6) (s : State) (o : ROp), serving s = true → let b := bucket.toNat; let d := (bktAt s b).desc; let g := dNgrp d
      normOp s b = some o → (bktAt s b).norm = 1 → o.full = true →
      let q := normSum o.desc ((List.range (dFlits o.desc)).map fun i => (NMap.get none o.got i).getD (0, 0xF))
      let n := regF s (0x3D00 + 16 * g) 6 0; let m := (ngAt s g).mem
      ∃ t, exec (.normPassEnd bucket) s = .next t ∧ t.mem = s.mem ∧ t.fr = s.fr ∧ (bktAt t b).norm = 2 ∧ (∀ i, i ≠ g → ngAt t i = ngAt s i)
        ∧ (n ≤ m.length → ngAt t g = ngAt s g)
        ∧ (m.length < n → (ngAt t g).mem = m ++ [(dBidx d, b, BitVec.ofNat 32 q.1, q.2)] ∧ (ngAt t g).lost = (ngAt s g).lost)
        ∧ (m.length + 1 = n → (ngAt s g).lost = false → (ngAt t g).ready = true
            ∧ (ngAt t g).sum = BitVec.ofNat 32 (foldNorm (m ++ [(dBidx d, b, BitVec.ofNat 32 q.1, q.2)])))
        ∧ (m.length + 1 ≠ n ∨ (ngAt s g).lost = true → (ngAt t g).ready = (ngAt s g).ready))
  ∧ (∀ (bucket : BitVec 6) (s : State) (f : Nat) (g : Option (Row × Mask4)), serving s = true → let b := bucket.toNat
      let k := bktAt s b
      nextUpdate k = some (f, g) → s.rx.nupd + optCost k.desc g.isNone ≤ 4 →
      ∃ t o, exec (.updateFlit bucket) s = .next t ∧ Only [.rx] s t ∧ t.rx.nupd = s.rx.nupd + optCost k.desc g.isNone
        ∧ bktAt t b = { k with ustart := k.ustart + 1, imm := if g.isSome = true then k.imm.drop 1 else k.imm }
        ∧ (∀ i, i ≠ b → bktAt t i = bktAt s i)
        ∧ t.rx.ops = s.rx.ops ++ [o] ∧ o.id = s.rx.nextOp ∧ o.kind = 2 ∧ o.b = b ∧ o.flit = f ∧ o.again = g.isNone ∧ o.desc = k.desc
        ∧ (∀ r, g = some r → o.data = r.1 ∧ o.pois = r.2))
  ∧ (∀ (bank : Nat) (port : Bool) (ups : List Upset) (s : State) (T : Tr) (b : Beat) (o : ROp), running s = true →
      FreshIds s → nextBeat s bank port [.rd, .park, .ird] = some (T, 0) → T.kind = .ird → T.beats = [b] → b.have_ = false →
      T.passed = [] → T.job = .rrow o.id 0 → portTrs s T.req = [T] → opOf s o.id = some o → o.kind = 2 → o.again = false →
      dOp o.desc = 1 → o.got = [] →
      let r := (readRow (T.gcyc + T.offs) b.bank b.row (readerOf T port) ups s).1
      let out := (((markedEls (o.data, o.pois)).map (gIn (dNanpol o.desc))).zip (markedEls (r.data, r.pois))).map fun e =>
        (fsub e.2.1 (fmul (dWord o.desc 7) (scaleG (dWord o.desc 8) e.1.1)), e.2.2 || e.1.2)
      ∃ t u, exec (.arrayRead bank port ups) s = .next t ∧ opOf t o.id = some u ∧ u.full = true ∧ u.outs = [markedRow out])
  ∧ (∀ (bucket : BitVec 6) (s : State), serving s = true → let b := bucket.toNat; let k := bktAt s b; let d := k.desc
      maySend k = true → k.sent < dFlits d → NMap.get 0 s.rx.eg (dVc d) ≠ 0 →
      ∃ t T, exec (.resultSend bucket) s = .next t ∧ Only [.fr, .rx] s t ∧ t.fr.trs = s.fr.trs ++ [T]
        ∧ T.id = s.fr.nextId ∧ T.kind = .rd ∧ T.slip = 0 ∧ T.rlanes = [62 + k.sent % 2] ∧ T.ready = true ∧ T.g0 = k.use
        ∧ T.beats = [mkBeat s (bktCtx s b) (if dOp d ≠ 0 then dWord d 4 else dWord d 3)
            (flitOff (if dOp d ≠ 0 then dWord d 4 else dWord d 3) k.sent) false]
        ∧ (bktAt t b).sent = k.sent + 1 ∧ (∀ i, i ≠ b → bktAt t i = bktAt s i)
        ∧ (∀ v, NMap.get 0 t.rx.eg v = if v = dVc d then NMap.get 0 s.rx.eg v - 1 else NMap.get 0 s.rx.eg v))

/-- O50. Accepted, or with no reset in force. PROPOSE in IDLE of a staging that passes R393 locks it; of one that does not sets REJ and
the reason; each clears MISCNT. PROPOSAL_DIGEST_READY: PROPOSED, holding D_B. DIGEST_COMPLETE pairs HI with that party's LO: in
PROPOSED it is held, OPEN, the window starts; in OPEN, within the window, the other party's being held, MSP, MSB and MPB are the
three comparisons and PENDING follows if all are equal; else both are discarded, MISCNT counts, cause 59 is pending and
PROPOSED, or at 3 IDLE with the staging reloaded, follows; after the window cause 60 is pending and HI with LO 0 is the first
digest of the next. COMMIT_WINDOW_EXPIRY after 10^6 TCLK: PROPOSED, digests discarded, cause 60. CANCEL outside IDLE: IDLE,
digests discarded, staging reloaded. COMMIT_APPLY in PENDING with every affected context quiescent: every live word is the
staged one, GEN counts, IDLE, staging reloaded, cause 61; no other field of the queue bindings or of LMY_RDX_VCCFGv changes. (spec/15_protection.md) -/
def Obligations.ProposalsAreCheckedMatchedAndApplied : Prop :=
  (∀ (a : BusAcc) (s : State), accepts a true 0x4810 s →
    (protState s = 0 → s.pr.computing = false → stagedOverlap s = false → stagedReserved s = false → stagedEmpty s = false →
      ∃ t, exec (.propose a) s = .next t ∧ answered 0 t ∧ Only [.regs, .bus, .pr] s t ∧ Within [⟨0x4814, 0, 1⟩] s t
        ∧ t.pr = { s.pr with computing := true } ∧ protState t = 0 ∧ regF t 0x4814 7 6 = 0)
    ∧ (∀ r, (r = 2 ∧ protState s = 0 ∧ s.pr.computing = false ∧ stagedOverlap s = true
          ∨ r = 3 ∧ protState s = 0 ∧ s.pr.computing = false ∧ stagedOverlap s = false ∧ stagedReserved s = true
          ∨ r = 4 ∧ protState s = 0 ∧ s.pr.computing = false ∧ stagedOverlap s = false ∧ stagedReserved s = false ∧ stagedEmpty s = true
          ∨ r = 1 ∧ protState s ≠ 0) →
      ∃ t, exec (.propose a) s = .next t ∧ answered 0 t ∧ Only [.regs, .bus] s t ∧ Within [⟨0x4814, 0, 1⟩] s t
        ∧ protState t = protState s ∧ regB t 0x4814 11 = true ∧ regF t 0x4814 14 12 = r ∧ regF t 0x4814 7 6 = 0)
    ∧ (protState s ≠ 0 → ∃ t, exec (.cancel a) s = .next t ∧ answered 0 t ∧ Only [.regs, .bus, .pr] s t
        ∧ Within [⟨0x4814, 0, 1⟩, ⟨0x4904, 4, 87⟩] s t ∧ protState t = 0 ∧ t.pr.sDig = none ∧ t.pr.pDig = none ∧ t.pr.computing = false
        ∧ t.pr.key = s.pr.key ∧ t.pr.seq = s.pr.seq ∧ t.pr.sess = s.pr.sess
        ∧ (∀ n, 1 ≤ n → n ≤ 87 → reg t (0x4900 + 4 * n) = BitVec.ofNat 32 (liveWord s n))))
  ∧ (∀ (s : State), inReset s = false → s.pr.computing = true →
      ∃ t, exec .proposalDigestReady s = .next t ∧ Only [.regs, .pr] s t ∧ Within [⟨0x4814, 0, 1⟩] s t ∧ protState t = 1
        ∧ t.pr = { s.pr with computing := false, bDig := some (stagingDigest s), sLo := 0, pLo := 0 })
  ∧ (∀ (a : BusAcc) (p : Bool) (hi : Word) (s : State), let o := if p = true then 0x482C else 0x4824
      let d := BitVec.ofNat 64 ((if p = true then s.pr.pLo else s.pr.sLo).toNat + 2 ^ 32 * hi.toNat)
      accepts a true o s →
      (protState s = 1 → ∃ t, exec (.digestComplete a (BitVec.ofNat 16 o) hi) s = .next t ∧ answered 0 t ∧ Only [.regs, .bus, .pr] s t
        ∧ Within [⟨0x4814, 0, 1⟩] s t ∧ protState t = 2 ∧ regB t 0x4814 (if p = true then 9 else 8) = true
        ∧ t.pr = if p = true then { s.pr with pDig := some d, winNs := 0, sLo := 0, pLo := 0 }
            else { s.pr with sDig := some d, winNs := 0, sLo := 0, pLo := 0 })
      ∧ (∀ x b, protState s = 2 → (if p = true then s.pr.sDig else s.pr.pDig) = some x → (if p = true then s.pr.pDig else s.pr.sDig) = none →
        s.pr.bDig = some b → regF s 0x4814 7 6 < 3 → s.pr.winNs < 1000000 →
        ∃ t, exec (.digestComplete a (BitVec.ofNat 16 o) hi) s = .next t ∧ answered 0 t ∧ Only [.regs, .bus, .pr, .tr, .dbg] s t
          ∧ let sd := if p = true then x else d; let pd := if p = true then d else x
            regB t 0x4814 3 = decide (sd = pd) ∧ regB t 0x4814 4 = decide (sd = b) ∧ regB t 0x4814 5 = decide (pd = b)
            ∧ if sd = pd ∧ sd = b then protState t = 3 ∧ Within [⟨0x4814, 0, 1⟩] s t ∧ regF t 0x4814 7 6 = regF s 0x4814 7 6
              else t.pr.sDig = none ∧ t.pr.pDig = none ∧ regF t 0x4814 7 6 = regF s 0x4814 7 6 + 1 ∧ regB t 0x7004 27 = true
                ∧ if regF s 0x4814 7 6 < 2 then protState t = 1 ∧ Within ([⟨0x4814, 0, 1⟩] ++ eventRegs) s t
                  else protState t = 0 ∧ Within ([⟨0x4814, 0, 1⟩, ⟨0x4904, 4, 87⟩] ++ eventRegs) s t
                    ∧ ∀ n, 1 ≤ n → n ≤ 87 → reg t (0x4900 + 4 * n) = BitVec.ofNat 32 (liveWord s n))
      ∧ (protState s = 2 → 1000000 ≤ s.pr.winNs → ∃ t, exec (.digestComplete a (BitVec.ofNat 16 o) hi) s = .next t ∧ answered 0 t
        ∧ Only [.regs, .bus, .pr, .tr, .dbg] s t ∧ Within ([⟨0x4814, 0, 1⟩] ++ eventRegs) s t ∧ protState t = 2 ∧ t.pr.winNs = 0
        ∧ t.pr.bDig = s.pr.bDig ∧ regB t 0x7004 28 = true
        ∧ t.pr.pDig = (if p = true then some (BitVec.ofNat 64 (2 ^ 32 * hi.toNat)) else none)
        ∧ t.pr.sDig = (if p = true then none else some (BitVec.ofNat 64 (2 ^ 32 * hi.toNat)))))
  ∧ (∀ (s : State), inReset s = false →
      (protState s = 2 → 1000000 ≤ s.pr.winNs → ∃ t, exec .commitWindowExpiry s = .next t ∧ Only [.regs, .pr, .tr, .dbg] s t
        ∧ Within ([⟨0x4814, 0, 1⟩] ++ eventRegs) s t ∧ protState t = 1 ∧ t.pr.sDig = none ∧ t.pr.pDig = none ∧ t.pr.bDig = s.pr.bDig
        ∧ regF t 0x4814 7 6 = regF s 0x4814 7 6 ∧ regB t 0x7004 28 = true)
      ∧ (protState s = 3 → (∀ c, c < 8 → affected s c = true → quiescent s c = true) →
        ∃ t, exec .commitApply s = .next t ∧ Only [.regs, .pr, .tr, .dbg] s t
          ∧ Within ([⟨0x4814, 4, 2⟩, ⟨0x4904, 4, 87⟩, ⟨0x1000, 4, 24⟩, ⟨0x1840, 4, 9⟩, ⟨0x1870, 4, 6⟩, ⟨0x3100, 16, 64⟩, ⟨0x3080, 4, 8⟩,
              ⟨0x3840, 4, 16⟩, ⟨0x3820, 4, 8⟩] ++ eventRegs) s t
          ∧ protState t = 0 ∧ reg t 0x4818 = reg s 0x4818 + 1 ∧ regB t 0x7004 29 = true
          ∧ (∀ n, 1 ≤ n → n ≤ 87 → reg t (0x4900 + 4 * n) = BitVec.ofNat 32 (liveWord t n))
          ∧ (∀ n, (1 ≤ n ∧ n ≤ 39) ∨ (56 ≤ n ∧ n ≤ 63) ∨ (80 ≤ n ∧ n ≤ 87) → liveWord t n = stagedWord s n)
          ∧ (∀ q, q < 64 → regF t (0x3100 + 16 * q) 4 0 = bits (stagedWord s (40 + q / 4)) (8 * (q % 4) + 4) (8 * (q % 4))
              ∧ regF t (0x3100 + 16 * q) 31 5 = regF s (0x3100 + 16 * q) 31 5)
          ∧ (∀ v, v < 16 → regF t (0x3840 + 4 * v) 3 0 = bits (stagedWord s (64 + v)) 3 0
              ∧ regF t (0x3840 + 4 * v) 31 4 = regF s (0x3840 + 4 * v) 31 4)))

/-- O51. Accepted: REKEY gives the named context a key that no rule constrains (a free value) and SEQ 0, the other contexts keep theirs.
A write of LMY_SEALl_CFG stores its low half; with ARM, of a session that is IDLE or DONE, the session is PRIMING with NFLITS,
its lane's context and that context's key, FAIL as it stood; a seal session takes SEQ of its context, which counts, and shows
it, an unseal session SEQ of its registers. ARM of another session changes only WIGN. While CCLK runs, SEAL_ACTIVE of a PRIMING
session makes it ACTIVE, its hash over the additional data of R403. (spec/15_protection.md) -/
def Obligations.SealSessionsAreKeyedAndArmed : Prop :=
  (∀ (a : BusAcc) (ctx : BitVec 3) (s : State), accepts a true 0x4810 s →
      ∃ t, exec (.rekey a ctx) s = .next t ∧ answered 0 t ∧ Only [.free, .bus, .pr] s t
        ∧ t.pr = { s.pr with key := t.pr.key, seq := t.pr.seq }
        ∧ (∀ k, NMap.get 0 t.pr.key k = if k = ctx.toNat then Config.sealKey s.free else NMap.get 0 s.pr.key k)
        ∧ (∀ k, NMap.get 0 t.pr.seq k = if k = ctx.toNat then 0 else NMap.get 0 s.pr.seq k))
  ∧ (∀ (a : BusAcc) (l : BitVec 2) (w : Word) (s : State), let o := 0x4880 + 32 * l.toNat
      accepts a true o s →
      (w.getLsbD 16 = false → ∃ t, exec (.sealArm a l w) s = .next t ∧ answered 0 t ∧ Only [.regs, .bus] s t ∧ Within [⟨o, 0, 1⟩] s t
        ∧ reg t o = w &&& 0xFFFF)
      ∧ (w.getLsbD 16 = true → (sealAt s l.toNat).st ≠ 0 → (sealAt s l.toNat).st ≠ 3 →
        ∃ t, exec (.sealArm a l w) s = .next t ∧ answered 0 t ∧ Only [.regs, .bus] s t ∧ Within [⟨0x4814, 0, 1⟩] s t
          ∧ reg t 0x4814 = reg s 0x4814 ||| 0x400)
      ∧ (w.getLsbD 16 = true → (sealAt s l.toNat).st = 0 ∨ (sealAt s l.toNat).st = 3 →
        let c := sealBind s l.toNat % 8
        let q := if l.toNat < 2 then NMap.get 0 s.pr.seq c else BitVec.ofNat 64 ((reg s (o + 8)).toNat + 2 ^ 32 * (reg s (o + 12)).toNat)
        ∃ t, exec (.sealArm a l w) s = .next t ∧ answered 0 t ∧ Only [.regs, .bus, .pr] s t ∧ reg t o = w &&& 0xFFFF
          ∧ t.pr = { s.pr with seq := t.pr.seq, sess := t.pr.sess }
          ∧ (∀ k, sealAt t k = if k = l.toNat then ⟨1, bits w.toNat 15 0, 0, c, q, NMap.get 0 s.pr.key c, 0, (sealAt s l.toNat).fail⟩ else sealAt s k)
          ∧ (l.toNat < 2 → Within [⟨o, 0, 1⟩, ⟨o + 8, 4, 2⟩] s t ∧ reg t (o + 8) = q.extractLsb' 0 32 ∧ reg t (o + 12) = q.extractLsb' 32 32
              ∧ ∀ k, NMap.get 0 t.pr.seq k = if k = c then q + 1 else NMap.get 0 s.pr.seq k)
          ∧ (2 ≤ l.toNat → Within [⟨o, 0, 1⟩] s t ∧ t.pr.seq = s.pr.seq)))
  ∧ (∀ (l : BitVec 2) (s : State), running s = true → (sealAt s l.toNat).st = 1 → let x := sealAt s l.toNat
      ∃ t, exec (.sealActive l) s = .next t ∧ Only [.pr] s t ∧ t.pr = { s.pr with sess := t.pr.sess }
        ∧ ∀ k, sealAt t k = if k = l.toNat then
            { x with st := 2, gh := BitVec.ofNat 128 (ghStep (sealHash (sealKeys x)) 0 (gcmAad (x.nfm1 + 1) x.ctx)) } else sealAt s k)

/-- O52. An UNLOCK with its key by a party, no purge under way: in a field part without FUNLOCK it only sets REFUSED and makes cause 58
pending; else PURGING: a proposal is withdrawn, a migration before its switch cancelled with cause 11 and its spare a spare
again; without one every bank but one on its way drops its requests and a retained bank's request becomes On. PURGE_COMPLETE
once no bank is retained or on its way: UNLOCKED with the grants of R409, PURGED set, REFUSED as it stood, the time in TCLK,
cause 63; every byte and initialised mark of a bank that was On is 0; keys, counters and sessions of seals, buckets, transfers,
executing slips and per-context counters are none or 0. A RELOCK with its key by a party: LOCKED, no grant, nothing erased.
Rests in part on the model's choice of log entry 64. (spec/15_protection.md, spec/18_faults_forwarding.md) -/
def Obligations.UnlockPurgesAndRelockLocks : Prop :=
  (∀ (a : BusAcc) (w : Word) (s : State), inReset s = false → busMisfit a 0x4B00 = false → accessOk s a true 0x4B00 = true → purging s = false →
      bits w.toNat 15 8 = 0x5A →
      (bits w.toNat 1 0 = 1 → s.ck.field = true → regB s 0x4444 0 = false → ∃ t, exec (.unlock a w) s = .next t ∧ answered 0 t
        ∧ Only [.regs, .bus, .tr, .dbg] s t ∧ Within ([⟨0x4B04, 0, 1⟩] ++ eventRegs) s t
        ∧ reg t 0x4B04 = reg s 0x4B04 ||| 0x80 ∧ regB t 0x7004 26 = true)
      ∧ (bits w.toNat 1 0 = 1 → s.ck.field = false ∨ regB s 0x4444 0 = true → s.fw.mig = none → ∃ t, exec (.unlock a w) s = .next t ∧ answered 0 t
        ∧ Only [.regs, .bus, .bank, .pr] s t ∧ Within [⟨0x4B04, 0, 1⟩, ⟨0x4814, 0, 1⟩, ⟨0x4904, 4, 87⟩] s t ∧ purging t = true
        ∧ (protState s = 0 → s.pr.computing = false → t.pr = { s.pr with purgeNs := 0 } ∧ Within [⟨0x4B04, 0, 1⟩] s t)
        ∧ (protState s ≠ 0 ∨ s.pr.computing = true → protState t = 0 ∧ t.pr = { s.pr with
            purgeNs := 0, computing := false, bDig := none, sDig := none, pDig := none, sLo := 0, pLo := 0 })
        ∧ t.bank = { s.bank with pow := t.bank.pow } ∧ ∀ b, powOf t b = purgeWake (powOf s b))
      ∧ (∀ m, bits w.toNat 1 0 = 1 → s.ck.field = false ∨ regB s 0x4444 0 = true → s.fw.mig = some m → ∃ t, exec (.unlock a w) s = .next t
        ∧ answered 0 t ∧ purging t = true ∧ t.fw.mig = none ∧ (4 ≤ m.phase → t.fw.spB = s.fw.spB) ∧ (m.phase < 4 → m.pb ∈ t.fw.spB ∧ regB t 0x7000 11 = true
          ∧ powOf t m.pb = purgeWake (powOf s m.pb).retire) ∧ t.mem = s.mem
        ∧ (∀ T ∈ t.fr.trs, T.job.isMig = false) ∧ (∀ T ∈ s.fr.trs, T.job.isMig = false → T ∈ t.fr.trs))
      ∧ (bits w.toNat 1 0 = 2 → ∃ t, exec (.relock a w) s = .next t ∧ answered 0 t ∧ Only [.regs, .bus, .dbg] s t
        ∧ Within [⟨0x4B04, 0, 1⟩, ⟨0x6A1C, 0x40, 4⟩] s t ∧ reg t 0x4B04 = reg s 0x4B04 &&& ~~~(0x3B : Word)))
  ∧ (∀ (s : State), inReset s = false → purging s = true →
      (∀ e, e ∈ s.bank.pow → e.2.trans = none ∧ e.2.wait = none ∧ e.2.st ≠ 1) →
      ∃ t, exec .purgeComplete s = .next t ∧ regF t 0x4B04 1 0 = 2 ∧ purged t = true ∧ regB t 0x4B04 7 = regB s 0x4B04 7
        ∧ regF t 0x4B04 5 3 = (if s.ck.field = true then regF s 0x4444 3 1 else 7)
        ∧ reg t 0x4B08 = BitVec.ofNat 32 (min s.pr.purgeNs (2 ^ 32 - 1)) ∧ regB t 0x7004 31 = true
        ∧ (∀ b, b < 100 → (powOf s b).st = 2 → (∀ i, i < 65536 → NMap.get (0 : Byte) t.mem (65536 * b + i) = 0)
            ∧ ∀ r c, r < 512 → c < 4 → chunkInit t b r c = false)
        ∧ (∀ b, b < 100 → (powOf s b).st ≠ 2 → ∀ i, i < 65536 → NMap.get (0 : Byte) t.mem (65536 * b + i) = NMap.get 0 s.mem (65536 * b + i))
        ∧ t.pr.key = [] ∧ t.pr.seq = [] ∧ t.pr.sess = [] ∧ t.rx.bkt = [] ∧ t.rx.ops = [] ∧ t.rx.ng = [] ∧ t.fr.trs = [] ∧ t.fr.wl = [] ∧ t.sq.live = []
        ∧ (∀ c, c < 8 → NMap.get 0 t.cnt (0x5780 + 0x40 * c) = 0 ∧ reg t (0x1A00 + 4 * c) = 0 ∧ reg t (0x2040 + 4 * c) = 0 ∧ reg t (0x3040 + 4 * c) = 0)
        ∧ t.tb = s.tb ∧ reg t 0x1000 = reg s 0x1000)

/-- O53. Outside power-on reset: a BEACON fewer than 2^(BPERL2 − 1) TCLK cycles after the last accepted one leaves the time as it is,
counts in LMY_CNT_TM_XBEACON and sets XB; cause 51 becomes pending where XB was 0 and no cause is raised where it was 1; nothing
else but the event registers changes. The first beacon after power-on reset sets the counter and TVALID whenever it comes. (R423) -/
def Obligations.ExcessBeaconsAreIgnored : Prop :=
  ∀ (tb : BitVec 64) (s : State), s.ck.por = false →
    (regB s 0x604C 0 = true → s.tm.since < 2 ^ (beaconL2 s - 1) →
      ∃ t, exec (.beacon tb) s = .next t ∧ Only [.regs, .cnt, .tr, .dbg] s t ∧ Within ([⟨0x604C, 0, 1⟩, ⟨0x5A60, 0, 1⟩] ++ eventRegs) s t
        ∧ t.tm = s.tm ∧ NMap.get 0 t.cnt 0x5A60 = NMap.get 0 s.cnt 0x5A60 + 1 ∧ reg t 0x604C = reg s 0x604C ||| 4
        ∧ (regB s 0x604C 2 = false → regB t 0x7004 19 = true)
        ∧ (regB s 0x604C 2 = true → Within [⟨0x604C, 0, 1⟩, ⟨0x5A60, 0, 1⟩] s t))
    ∧ (regB s 0x604C 0 = false → ∃ t, exec (.beacon tb) s = .next t ∧ t.tm.t = tb ∧ regB t 0x604C 0 = true)

/-- O54. Let d be T_b minus the counter. An accepted BEACON sets the counter, or for d from -1024 to -1 after the first holds it for -d
TCLK, sets TVALID, clears LOST, stores d saturated in LMY_TM_CORR; with trace EN it leaves one TIME record: RECOVER if LOST,
else FIRST, else JUMP below -1024, else CORR beyond 2 ns, else none. With no reset: BEACON_LOSS after 4 × 2^BPERL2 TCLK sets
LOST, counts, records LOSS and makes cause 50 pending; TCLK_STALL, the counter copy unchanged for 64 cycles of the undivided
tile clock, and TCLK_RESUME set and clear TSTALL and record it. TIME_HOLD_END ends a hold that has run out. TIME_SYNC records
SYNC. A record is made only with EN. Rests in part on the model's choice of log entries 31 and 32. (spec/16_counters_trace.md) -/
def Obligations.TimeFollowsTheBeacons : Prop :=
  ∀ (s : State),
    let rec1 : Nat → Int → State → List Rec := fun k d u => if regB s 0x6000 0 = true then
      [⟨9, !regB u 0x604C 0 || regB u 0x604C 1 || regB u 0x604C 3, 0, 0, 0, u.tm.t,
        BitVec.ofNat 64 (bits u.tm.t.toNat 63 48 + 65536 * k + 2 ^ 32 * (d % 2 ^ 32).toNat), [], 0⟩] else []
    (∀ (tb : BitVec 64), s.ck.por = false → (regB s 0x604C 0 = false ∨ 2 ^ (beaconL2 s - 1) ≤ s.tm.since) →
      let d : Int := (tb.toNat : Int) - (s.tm.t.toNat : Int)
      let ds : Int := max (-(2 ^ 31)) (min (2 ^ 31 - 1) d)
      ∃ t, exec (.beacon tb) s = .next t ∧ Only [.regs, .tm, .tr] s t ∧ Within [⟨0x604C, 4, 2⟩] s t
        ∧ reg t 0x604C = (reg s 0x604C &&& ~~~(2 : Word)) ||| 1 ∧ reg t 0x6050 = BitVec.ofInt 32 ds
        ∧ t.tm = (if regB s 0x604C 0 = true ∧ -1024 ≤ d ∧ d < 0 then { s.tm with hold := (-d).toNat, holding := true, since := 0 } else ⟨tb, 0, 0, false, 0⟩)
        ∧ t.tr = { s.tr with gen := s.tr.gen ++ (if regB s 0x604C 1 = true then rec1 5 ds t else if regB s 0x604C 0 = false then rec1 1 ds t
            else if d < -1024 then rec1 3 ds t else if 2 < d.natAbs then rec1 2 ds t else []) })
    ∧ (inReset s = false → regB s 0x604C 1 = false → 4 * 2 ^ beaconL2 s ≤ s.tm.since →
      ∃ t more, exec .beaconLoss s = .next t ∧ Only [.regs, .cnt, .tr, .dbg] s t ∧ Within ([⟨0x604C, 0, 1⟩, ⟨0x5A68, 0, 1⟩] ++ eventRegs) s t
        ∧ reg t 0x604C = reg s 0x604C ||| 2 ∧ NMap.get 0 t.cnt 0x5A68 = NMap.get 0 s.cnt 0x5A68 + 1 ∧ regB t 0x7004 18 = true
        ∧ t.tr = { s.tr with gen := s.tr.gen ++ rec1 4 0 t ++ more })
    ∧ (inReset s = false → regB s 0x604C 3 = false → 64 ≤ s.tm.still → ∃ t, exec .tclkStall s = .next t ∧ Only [.regs, .tr] s t ∧ Within [⟨0x604C, 0, 1⟩] s t
        ∧ reg t 0x604C = reg s 0x604C ||| 8 ∧ t.tr = { s.tr with gen := s.tr.gen ++ rec1 6 0 t })
    ∧ (inReset s = false → regB s 0x604C 3 = true → ∃ t, exec .tclkResume s = .next t ∧ Only [.regs, .tm, .tr] s t ∧ t.tm = { s.tm with still := 0 } ∧ Within [⟨0x604C, 0, 1⟩] s t
        ∧ reg t 0x604C = reg s 0x604C &&& ~~~(8 : Word) ∧ t.tr = { s.tr with gen := s.tr.gen ++ rec1 7 0 t })
    ∧ (s.tm.holding = true → s.tm.hold = 0 → ∃ t, exec .timeHoldEnd s = .next t ∧ t = { s with tm := { s.tm with holding := false } })
    ∧ (∃ t, exec .timeSync s = .next t ∧ t = { s with tr := { s.tr with gen := s.tr.gen ++ rec1 0 0 s } })

/-- O55. Accepted. TRIG with EN adds a TRIG record with the post-trigger count, under the window policy only while TRIGD is 0, which it
sets. REARM clears TRIGD and FROZEN. SYNC with EN adds a TIME record. RPTR under the stream policy moves to a slot index that
frees d of the held slots and FILL drops by d; an index beyond WPTR only sets WIGN; under the window policy it is read only.
Setting EN: the control bits are stored, the pointers and FILL are 0, FROZEN, TRIGD, SSLOT and the losses are cleared, no row of
the old ring stays asked, NOBANK says whether no bank is carved, a SYNC record is added. Clearing EN with nothing unwritten and
no row asked stores the control bits; a changed POLICY while EN is 1 only sets WIGN. With no reset in force, TRACE_FREEZE where
due sets FROZEN and makes cause 49 pending, and EGRESS_SLOT_TAKEN removes the oldest slot. (spec/16_counters_trace.md, spec/19_boundary.md) -/
def Obligations.TraceCommandsDoWhatTheyName : Prop :=
  (∀ (a : BusAcc) (s : State), accepts a true 0x6010 s →
      let tq := !regB s 0x604C 0 || regB s 0x604C 1 || regB s 0x604C 3
      (regB s 0x6000 0 = true → regB s 0x6000 1 = false ∨ regB s 0x6014 2 = false →
        ∃ t, exec (.traceTrig a) s = .next t ∧ answered 0 t ∧ Only [.regs, .bus, .tr] s t ∧ Within [⟨0x6014, 0, 1⟩] s t
          ∧ reg t 0x6014 = (if regB s 0x6000 1 = true then reg s 0x6014 ||| 4 else reg s 0x6014)
          ∧ t.tr = { s.tr with gen := s.tr.gen ++ [⟨0xB, tq, 0, 0, 0, s.tm.t,
              BitVec.ofNat 64 (65536 * min (regF s 0x600C 15 0) (8 * regF s 0x12C4 15 0 - 10)), [], 0⟩] })
      ∧ (∃ t, exec (.traceRearm a) s = .next t ∧ answered 0 t ∧ Only [.regs, .bus, .tr] s t ∧ Within [⟨0x6014, 0, 1⟩] s t
          ∧ reg t 0x6014 = reg s 0x6014 &&& ~~~(6 : Word) ∧ t.tr = { s.tr with post := none, freezeDue := false })
      ∧ (regB s 0x6000 0 = true → ∃ t, exec (.traceSync a) s = .next t ∧ answered 0 t ∧ Only [.bus, .tr] s t
          ∧ t.tr = { s.tr with gen := s.tr.gen ++ [⟨9, tq, 0, 0, 0, s.tm.t, BitVec.ofNat 64 (bits s.tm.t.toNat 63 48), [], 0⟩] }))
  ∧ (∀ (a : BusAcc) (w : Word) (s : State), accepts a true 0x601C s → regB s 0x6000 1 = true →
      ∃ t, exec (.traceRptrWrite a w) s = .next t ∧ answered 0 t ∧ Only [.bus] s t)
  ∧ (∀ (a : BusAcc) (w : Word) (s : State), accepts a true 0x601C s →
      let n := 8 * regF s 0x12C4 15 0 - 1; let v := bits w.toNat 15 0; let r := regF s 0x601C 15 0; let fill := regF s 0x6020 15 0
      regB s 0x6000 1 = false → r < n → fill ≤ n → regF s 0x6018 15 0 = (r + fill) % n →
      (∀ d, v = (r + d) % n → d < n ∨ d = fill → d ≤ fill → (d = 0 → fill < n) → ∃ t, exec (.traceRptrWrite a w) s = .next t ∧ answered 0 t ∧ Only [.regs, .bus] s t
          ∧ Within [⟨0x601C, 4, 2⟩] s t ∧ reg t 0x601C = BitVec.ofNat 32 v ∧ reg t 0x6020 = BitVec.ofNat 32 (fill - d))
      ∧ (n ≤ v ∨ (∃ d, d < n ∧ v = (r + d) % n ∧ fill < d) → ∃ t, exec (.traceRptrWrite a w) s = .next t ∧ answered 0 t ∧ Only [.regs, .bus] s t
          ∧ Within [⟨0x6014, 0, 1⟩] s t ∧ reg t 0x6014 = reg s 0x6014 ||| 0x80))
  ∧ (∀ (a : BusAcc) (w : Word) (s : State), accepts a true 0x6000 s →
      (regB s 0x6000 0 = false → w.getLsbD 0 = true → ∃ t, exec (.traceEnable a w) s = .next t ∧ answered 0 t ∧ Only [.regs, .bus, .fr, .tr] s t
          ∧ t.fr = { s.fr with trs := t.fr.trs } ∧ (∀ T ∈ t.fr.trs, ∀ n, T.job ≠ .trace n) ∧ (∀ T ∈ s.fr.trs, (∀ n, T.job ≠ .trace n) → T ∈ t.fr.trs)
          ∧ Within [⟨0x6000, 0, 1⟩, ⟨0x6014, 4, 5⟩] s t ∧ reg t 0x6000 = w &&& 0x37
          ∧ reg t 0x6014 = (reg s 0x6014 &&& ~~~(0x7E : Word)) ||| (if regF s 0x12C4 15 0 = 0 then 0x10 else 0)
          ∧ (∀ o, o ∈ [0x6018, 0x601C, 0x6020, 0x6024] → reg t o = 0)
          ∧ t.tr = { s.tr with
              gen := s.tr.gen ++ [⟨9, !regB s 0x604C 0 || regB s 0x604C 1 || regB s 0x604C 3, 0, 0, 0, s.tm.t, BitVec.ofNat 64 (bits s.tm.t.toNat 63 48), [], 0⟩]
              wbuf := [], wpos := 0, wold := 0, recs := [], lossB := Loss.none, lossE := Loss.none, post := none
              raised := false, raisedE := false, quiet := 0, freezeDue := false })
      ∧ (regB s 0x6000 0 = true → w.getLsbD 0 = false → w.getLsbD 1 = regB s 0x6000 1 → s.tr.wbuf.length ≤ s.tr.wold → (∀ T ∈ s.fr.trs, ∀ n, T.job ≠ .trace n) →
          ∃ t, exec (.traceDisable a w) s = .next t ∧ answered 0 t ∧ Only [.regs, .bus] s t ∧ Within [⟨0x6000, 0, 1⟩] s t ∧ reg t 0x6000 = w &&& 0x37)
      ∧ (regB s 0x6000 0 = true → w.getLsbD 1 ≠ regB s 0x6000 1 → ∃ t, exec (.traceDisable a w) s = .next t ∧ exec (.traceEnable a w) s = .next t
          ∧ answered 0 t ∧ Only [.regs, .bus] s t ∧ Within [⟨0x6014, 0, 1⟩] s t ∧ reg t 0x6014 = reg s 0x6014 ||| 0x80))
  ∧ (∀ (s : State), inReset s = false →
      (s.tr.freezeDue = true → ∃ t, exec .traceFreeze s = .next t ∧ Only [.regs, .tr, .dbg] s t ∧ Within eventRegs s t ∧ regB t 0x6014 1 = true
          ∧ t.tr = { s.tr with freezeDue := false, post := none, gen := t.tr.gen } ∧ regB t 0x7004 17 = true)
      ∧ (∃ t, exec .egressSlotTaken s = .next t ∧ t = { s with tr := { s.tr with eg := s.tr.eg.drop 1 } }))

/-- O56. With no reset in force, stream policy. COLLECT of one record of one slot, with nothing before it, no loss pending and room: it
is counted, joins the write buffer, and, with EGRESS and room for it, the egress DCQ. TRACE_ROW_WRITE with a full first row,
TRACE_ROW_TIMEOUT after 256 CCLK without a slot, FLUSH, and a write that clears EN ask IW10 for the rows of the write buffer,
the first of them with the new slots of the ring row at the write position and the enables of their chunks, and change no
pointer. With fresh identifiers, the array write of the row of IW10 that comes next (or its failing, where it reaches no bank)
moves WPTR to the slot after the last one written, and FILL counts the slots written. Rests in part on the model's choice of log
entry 86. (spec/16_counters_trace.md) -/
def Obligations.RecordsReachTheRing : Prop :=
  (∀ (r : Rec) (s : State), inReset s = false → regB s 0x6000 1 = false → s.tr.gen = [r] → r.raw = [] → r.typ ≠ 6 → s.tr.inq = [] → s.tr.carry = 0 →
      s.tr.lossB.n = 0 → s.tr.lossE.n = 0 → regF s 0x6020 15 0 + (s.tr.wbuf.length - s.tr.wold) + 1 ≤ ringSlots s →
      (s.tr.wbuf.length + 1 ≤ wbufCap s ∨ s.tr.wbuf.length < ringRowLen s s.tr.wpos) → s.tr.eg.length < 32 →
      ∃ t, exec .collect s = .next t ∧ Only [.cnt, .tr] s t ∧ Within [⟨0x5A48, 0, 1⟩] s t
        ∧ NMap.get 0 t.cnt 0x5A48 = NMap.get 0 s.cnt 0x5A48 + 1
        ∧ t.tr = { s.tr with
            gen := [], quiet := 0, wbuf := s.tr.wbuf ++ [r.head], post := s.tr.post.map (· - 1)
            eg := s.tr.eg ++ (if regB s 0x6000 2 = true then [(r.head, true)] else []) })
  ∧ (∀ (s : State), let len := ringRowLen s s.tr.wpos; let n := min s.tr.wbuf.length len
      inReset s = false → 0 < traceN s → s.tr.wold < n → (∀ T ∈ s.fr.trs, ∀ k, T.job ≠ .trace k) →
      let asked : List Part → List Span → State → Prop := fun ps xs t => Only ps s t ∧ Within xs s t
        ∧ ∃ more, t.fr = { s.fr with nextId := t.fr.nextId, trs := s.fr.trs
            ++ { exchTr s 204 true (.trace n) (traceCls s) ((areaBeat (areaRow s 3 (s.tr.wpos / 8))).store
                   (slotRow s s.tr.wpos (s.tr.wbuf.take n)) 0 (BitVec.ofNat 4 (slotEn s.tr.wold n))) with id := s.fr.nextId } :: more }
          ∧ ∀ T ∈ more, T.req = 204 ∧ T.kind = .iwr ∧ ∃ k, T.job = .trace k
      (len ≤ s.tr.wbuf.length → ∃ t, exec .traceRowWrite s = .next t ∧ asked [.fr] [] t)
      ∧ (256 ≤ s.tr.quiet → ∃ t, exec .traceRowTimeout s = .next t ∧ asked [.fr] [] t)
      ∧ (∀ a : BusAcc, accepts a true 0x6010 s → ∃ t, exec (.traceFlush a) s = .next t ∧ answered 0 t ∧ asked [.bus, .fr] [] t)
      ∧ (∀ (a : BusAcc) (w : Word), accepts a true 0x6000 s → regB s 0x6000 0 = true → w.getLsbD 0 = false → w.getLsbD 1 = regB s 0x6000 1 →
          ∃ t, exec (.traceDisable a w) s = .next t ∧ answered 0 t ∧ asked [.regs, .bus, .fr] [⟨0x6000, 0, 1⟩] t ∧ reg t 0x6000 = w &&& 0x37))
  ∧ (∀ (bank : Nat) (port : Bool) (par : Parity) (s : State) (T : Tr) (i n : Nat) (b : Beat) (pre post : List Tr), arraysGo s = true →
      regB s 0x6000 1 = false → nextBeat s bank port [.wr, .parkWr, .iwr] = some (T, i) → T.beats = [b] → T.job = .trace n → T.passed = [] →
      T.kind = .iwr → FreshIds s → portTrs s 204 = pre ++ T :: post → (∀ U ∈ pre, U.passed ≠ []) →
      (∀ U ∈ post, U.passed = [] ∧ rowsDone U = false) → s.tr.wold < n → n ≤ ringRowLen s s.tr.wpos →
      let full := n = ringRowLen s s.tr.wpos
      ∃ t, exec (.arrayWrite bank port par) s = .next t ∧ t.tr.wpos = (if full then ringNext s s.tr.wpos else s.tr.wpos)
        ∧ t.tr.wbuf = (if full then s.tr.wbuf.drop n else s.tr.wbuf) ∧ t.tr.wold = (if full then 0 else n)
        ∧ reg t 0x6018 = BitVec.ofNat 32 (if full then ringNext s s.tr.wpos else s.tr.wpos + n)
        ∧ reg t 0x6020 = BitVec.ofNat 32 (regF s 0x6020 15 0 + (n - s.tr.wold)) ∧ reg t 0x601C = reg s 0x601C ∧ t.tr.eg = s.tr.eg)

/-- O57. STOP_ASSERT and STOP_DEASSERT set and clear the input; the latter clears EXT and lets a new stop begin. HALT of a LOADED block
that sees a new stop or its local halt: HALTED, EXT for a stop seen, NHALT counts and saturates, the halt's counts start at 0,
with trace EN one STOP record with the CCLK count, cause 52, and with ONSTOP and no snapshot held a hang snapshot of source 2;
in a halt already in force a stop seen only sets EXT. BLOCK_RESUME after 16 CCLK with no stop, no local halt and no capture:
HALTED and STUCK clear, a RESUME record with the length; the credits that engines gave up in the halt return, the cancellations
written in it go on; without a readable request no transfer, order or counter changes. STOP_STUCK at 2^STUCKL2 TCLK of a stop:
STUCK and cause 53. Accepted LOCAL_HALT sets LOCAL, LOCAL_RUN clears LOCAL and WSTOP. Rests in part on the model's choice of log
entries 72 and 74. (spec/17_stop_snapshot_watch.md, spec/16_counters_trace.md, spec/19_boundary.md) -/
def Obligations.StopsHaltAndResumeTheBlock : Prop :=
  ∀ (s : State),
    let rec1 : Nat → Nat → List Rec := fun k v => if regB s 0x6000 0 = true then
      [⟨k, !regB s 0x604C 0 || regB s 0x604C 1 || regB s 0x604C 3, 0, 0, 0, s.tm.t, BitVec.ofNat 64 v, [], 0⟩] else []
    let cc := (NMap.get 0 s.cnt 0x59F8).toNat % 2 ^ 32
    (∃ t, exec .stopAssert s = .next t ∧ t = { s with dbg := { s.dbg with stopIn := true } })
    ∧ (∃ t, exec .stopDeassert s = .next t ∧ Only [.regs, .dbg] s t ∧ Within [⟨0x6808, 0, 1⟩] s t
        ∧ t.dbg = { s.dbg with stopIn := false, armed := true } ∧ reg t 0x6808 = reg s 0x6808 &&& ~~~(2 : Word))
    ∧ (loaded s = true → stopSeen s = true ∨ regB s 0x6808 2 = true →
        (halted s = false → ∃ t more, exec .halt s = .next t ∧ Only [.regs, .tr, .dbg] s t ∧ Within ([⟨0x6808, 4, 2⟩, ⟨0x6904, 0, 1⟩] ++ eventRegs) s t
          ∧ reg t 0x6808 = reg s 0x6808 ||| (if stopSeen s = true then 3 else 1)
          ∧ reg t 0x680C = BitVec.ofNat 32 (min ((reg s 0x680C).toNat + 1) (2 ^ 32 - 1)) ∧ regB t 0x7004 20 = true
          ∧ t.tr = { s.tr with gen := s.tr.gen ++ rec1 6 cc ++ more }
          ∧ t.dbg = { s.dbg with haltCyc := 0, haltCnt := 0, haltTime := timeNow s, armed := s.dbg.armed && !s.dbg.stopIn, hang := t.dbg.hang
                                 evtCyc := t.dbg.evtCyc }
          ∧ (if regB s 0x6910 1 = true ∧ regB s 0x6904 0 = false then regB t 0x6904 0 = true ∧ regF t 0x6904 2 1 = 2
             else reg t 0x6904 = reg s 0x6904 ∧ t.dbg.hang = s.dbg.hang))
        ∧ (halted s = true → stopSeen s = true → ∃ t, exec .halt s = .next t ∧ Only [.regs, .dbg] s t ∧ Within [⟨0x6808, 0, 1⟩] s t
          ∧ reg t 0x6808 = reg s 0x6808 ||| 2 ∧ t.dbg = { s.dbg with armed := false }))
    ∧ (loaded s = true → halted s = true → regB s 0x6808 1 = false → regB s 0x6808 2 = false → stopSeen s = false → 16 ≤ s.dbg.haltCyc →
        s.dbg.capturing = false →
        ∃ t more, exec .blockResume s = .next t ∧ Only [.regs, .cnt, .fr, .hd, .tr, .dbg] s t ∧ reg t 0x6808 = reg s 0x6808 &&& ~~~(9 : Word) ∧ t.hd.canc = []
          ∧ t.tr = { s.tr with gen := s.tr.gen ++ rec1 7 (cc + 2 ^ 32 * min s.dbg.haltCnt (2 ^ 32 - 1)) ++ more }
          ∧ ((∀ e, e ∈ s.fr.ch → e.2.seen = 0) → s.hd.canc = [] → more = [] ∧ Only [.regs, .fr, .tr] s t ∧ Within [⟨0x6808, 0, 1⟩] s t
              ∧ t.fr = { s.fr with ch := t.fr.ch, rl := t.fr.rl }
              ∧ (∀ l, rlane t l = { rlane s l with cred := (rlane s l).cred + (rlane s l).owe, owe := 0 }) ∧ ∀ wr lane, chan t wr lane = chan s wr lane))
    ∧ (∀ n, stuckLimit s = some n → loaded s = true → halted s = true → regB s 0x6808 1 = true → regB s 0x6808 3 = false → n ≤ s.dbg.haltCnt →
        ∃ t, exec .stopStuck s = .next t ∧ Only [.regs, .tr, .dbg] s t ∧ Within ([⟨0x6808, 0, 1⟩] ++ eventRegs) s t
          ∧ reg t 0x6808 = reg s 0x6808 ||| 8 ∧ regB t 0x7004 21 = true)
    ∧ (∀ (a : BusAcc), accepts a true 0x6804 s →
        (∃ t, exec (.localHalt a) s = .next t ∧ answered 0 t ∧ Only [.regs, .bus] s t ∧ Within [⟨0x6808, 0, 1⟩] s t ∧ reg t 0x6808 = reg s 0x6808 ||| 4)
        ∧ (∃ t, exec (.localRun a) s = .next t ∧ answered 0 t ∧ Only [.regs, .bus] s t ∧ Within [⟨0x6808, 0, 1⟩] s t
            ∧ reg t 0x6808 = reg s 0x6808 &&& ~~~(0x14 : Word)))

/-- O58. Accepted. HANG_CAPTURE holds the image of the state with source 0, or with one held sets REJ; HANG_RELEASE clears HELD;
HS_DATA_READ returns a word, 0 without HELD, and advances with AUTOINC. SCAN_CAPTURE, halted with GSCAN, starts a capture, else
sets REJ; its end makes the image of the state valid; SCAN_DATA_READ returns a word with GSCAN. BANK_READOUT of a bank that
exists, with GREADOUT and not BUSY, asks IR19 for the row, else sets REJ; its end, once the row is read, puts it into
LMY_BRD_DATA with its marks (0x00 all poisoned where it reached no bank), and bits of the row flipped since stay flipped. A
write of a watch unit's configuration: of a unit that is not held it stores it and with ARM arms it, or where R453 refuses sets
REJ; DISARM makes it IDLE; of a held unit it sets WIGN and DISARM alone acts. WATCH_READOUT of a row of a unit the writer
reaches asks IR18 for it, else sets REJ; its end puts the row into LMY_WU_RDDATA. Rests in part on the model's choice of log
entries 26, 38, 39, 70 and 72. (spec/17_stop_snapshot_watch.md, spec/15_protection.md) -/
def Obligations.SnapshotsAndReadoutsShowTheBlock : Prop :=
  (∀ (a : BusAcc) (s : State), accepts a true 0x6900 s →
      (regB s 0x6904 0 = false → ∃ t, exec (.hangCapture a) s = .next t ∧ answered 0 t ∧ Only [.regs, .bus, .dbg] s t ∧ Within [⟨0x6904, 0, 1⟩] s t
        ∧ reg t 0x6904 = (reg s 0x6904 &&& 8) ||| 1 ∧ t.dbg = { s.dbg with hang := hangImage 0 0 s })
      ∧ (regB s 0x6904 0 = true → ∃ t, exec (.hangCapture a) s = .next t ∧ answered 0 t ∧ Only [.regs, .bus] s t ∧ Within [⟨0x6904, 0, 1⟩] s t
        ∧ reg t 0x6904 = reg s 0x6904 ||| 8)
      ∧ (∃ t, exec (.hangRelease a) s = .next t ∧ answered 0 t ∧ Only [.regs, .bus] s t ∧ Within [⟨0x6904, 0, 1⟩] s t
        ∧ reg t 0x6904 = reg s 0x6904 &&& ~~~(1 : Word)))
  ∧ (∀ (a : BusAcc) (s : State), wbState s = 3 →
      (accepts a false 0x690C s → ∃ t, exec (.hsDataRead a) s = .next t ∧ Only [.regs, .bus] s t ∧ Within [⟨0x6908, 0, 1⟩] s t
        ∧ answered (if regB s 0x6904 0 = true then NMap.get 0 s.dbg.hang (regF s 0x6908 9 0) else 0) t
        ∧ regF t 0x6908 9 0 = (if regB s 0x6908 16 = true then (regF s 0x6908 9 0 + 1) % 1024 else regF s 0x6908 9 0))
      ∧ (accepts a false 0x681C s → ∃ t, exec (.scanDataRead a) s = .next t ∧ Only [.regs, .bus] s t ∧ Within [⟨0x6818, 0, 1⟩] s t
        ∧ answered (if regB s 0x4B04 3 = true ∧ regF s 0x6814 1 0 = 2 then NMap.get 0 s.dbg.scan (regF s 0x6818 13 0) else 0) t
        ∧ regF t 0x6818 13 0 = (if regB s 0x6818 16 = true then (regF s 0x6818 13 0 + 1) % 12288 else regF s 0x6818 13 0)))
  ∧ (∀ (a : BusAcc) (s : State), accepts a true 0x6810 s → s.dbg.capturing = false →
      (halted s = true → regB s 0x4B04 3 = true → ∃ t, exec (.scanCapture a) s = .next t ∧ answered 0 t ∧ Only [.regs, .bus, .dbg] s t
        ∧ Within [⟨0x6814, 0, 1⟩] s t ∧ reg t 0x6814 = (reg s 0x6814 &&& 4) ||| 1 ∧ t.dbg = { s.dbg with capturing := true, scan := [] })
      ∧ (halted s = false ∨ regB s 0x4B04 3 = false → ∃ t, exec (.scanCapture a) s = .next t ∧ answered 0 t ∧ Only [.regs, .bus] s t
        ∧ Within [⟨0x6814, 0, 1⟩] s t ∧ reg t 0x6814 = reg s 0x6814 ||| 4))
  ∧ (∀ (s : State), inReset s = false → s.dbg.capturing = true → ∃ t, exec .scanCaptureDone s = .next t ∧ Only [.regs, .dbg] s t
      ∧ Within [⟨0x6814, 0, 1⟩] s t ∧ reg t 0x6814 = (reg s 0x6814 &&& 4) ||| BitVec.ofNat 32 (2 + 65536 * 599)
      ∧ t.dbg = { s.dbg with capturing := false, scan := scanImage s })
  ∧ (∀ (a : BusAcc) (w : Word) (s : State), accepts a true 0x6820 s →
      let b := bits w.toNat 22 16; let phys := w.getLsbD 23
      let ok := regB s 0x4B04 4 = true ∧ regB s 0x6824 0 = false ∧ (if phys = true then b < 100 else b < 96)
      (ok → ∃ t, exec (.bankReadout a w) s = .next t ∧ answered 0 t ∧ Only [.regs, .bus, .fr, .dbg] s t ∧ Within [⟨0x6820, 4, 2⟩] s t
        ∧ reg t 0x6820 = w &&& 0x00FF01FF ∧ regF t 0x6824 1 0 = 1 ∧ regF t 0x6824 31 2 = regF s 0x6824 31 2
        ∧ t.dbg = { s.dbg with brd := some (if phys = true then b else pbankOf s b, bits w.toNat 8 0) }
        ∧ t.fr = { s.fr with nextId := s.fr.nextId + 1, trs := s.fr.trs ++ [{ exchTr s 193 false .bankRd (icls s 7)
            (rowBeat (if phys = true then (lbankOf s b).getD (128 + b) else b) (bits w.toNat 8 0)) with id := s.fr.nextId }] })
      ∧ (¬ok → ∃ t, exec (.bankReadout a w) s = .next t ∧ answered 0 t ∧ Only [.regs, .bus] s t ∧ Within [⟨0x6824, 0, 1⟩] s t
        ∧ reg t 0x6824 = reg s 0x6824 ||| 4))
  ∧ (∀ (ups : List Upset) (s : State) (T : Tr) (b : Beat), inReset s = false → readoutOf s .bankRd = some (T, b) →
      ∃ t, exec (.bankReadoutDone ups) s = .next t ∧ Only [.regs, .bank, .fr, .dbg] s t ∧ (b.bad ≠ 0 → t.bank = s.bank) ∧ (b.bad = 0 → Struck (pbankOf s b.bank) b.row ups s t) ∧ Within [⟨0x6824, 0, 1⟩, ⟨0x6880, 4, 32⟩] s t
        ∧ t.fr = { s.fr with trs := s.fr.trs.filter fun u => u.id != T.id } ∧ t.dbg = { s.dbg with brd := none }
        ∧ (∀ i, i < 32 → reg t (0x6880 + 4 * i) = BitVec.ofNat 32 ((if b.bad = 0 then b.data else 0).toNat >>> (32 * i)))
        ∧ reg t 0x6824 = (reg s 0x6824 &&& 4) ||| BitVec.ofNat 32 (2 + 16 * (if b.bad = 0 then b.pois else 15).toNat + 256 * (if b.bad = 0 then b.en else 0).toNat))
  ∧ (∀ (a : BusAcc) (u : BitVec 2) (w : Word) (s : State), let o := 0x6A00 + 64 * u.toNat; let st := regF s (o + 0x1C) 1 0
      let cleared : State → Prop := fun t => Only [.regs, .bus, .fr, .dbg] s t ∧ (∀ k, watchAt t k = if k = u.toNat then Watch.idle else watchAt s k)
        ∧ t.fr = { s.fr with trs := t.fr.trs } ∧ (∀ T ∈ t.fr.trs, T.job ≠ .dump u.toNat) ∧ (∀ T ∈ s.fr.trs, T.job ≠ .dump u.toNat → T ∈ t.fr.trs)
      accepts a true o s →
      (st ≠ 1 → st ≠ 2 → ∃ t, exec (.watchArm a u w) s = .next t ∧ exec (.watchDisarm a u w) s = .next t ∧ answered 0 t ∧ reg t o = w &&& 0x000FFFFC
          ∧ if w.getLsbD 0 = true ∧ wuRefuses s u.toNat w.toNat = false then
              cleared t ∧ Within [⟨o, 0, 1⟩, ⟨o + 0x1C, 4, 3⟩] s t ∧ reg t (o + 0x1C) = 1 ∧ reg t (o + 0x20) = 0 ∧ reg t (o + 0x24) = 0
            else Within [⟨o, 0, 1⟩, ⟨o + 0x1C, 0, 1⟩] s t ∧ (if w.getLsbD 1 = true then cleared t else Only [.regs, .bus] s t)
              ∧ reg t (o + 0x1C) = (if w.getLsbD 1 = true then reg s (o + 0x1C) &&& ~~~(3 : Word) else reg s (o + 0x1C))
                  ||| (if w.getLsbD 0 = true then 0x40 else 0))
      ∧ (st = 1 ∨ st = 2 → ∃ t, exec (.watchArm a u w) s = .next t ∧ exec (.watchDisarm a u w) s = .next t ∧ answered 0 t
          ∧ Within [⟨o + 0x1C, 0, 1⟩] s t ∧ (if w.getLsbD 1 = true then cleared t else Only [.regs, .bus] s t)
          ∧ reg t (o + 0x1C) = (if w.getLsbD 1 = true then reg s (o + 0x1C) &&& ~~~(3 : Word) else reg s (o + 0x1C)) ||| 0x80))
  ∧ (∀ (a : BusAcc) (w : Word) (s : State), accepts a true 0x6B10 s →
      let u := bits w.toNat 1 0; let n := bits w.toNat 31 16
      let ok := (a.priv.toNat = 0 ∨ watchOwn s u = 8 + a.priv.toNat) ∧ n < regF s (0x6A18 + 64 * u) 15 0 ∧ s.dbg.wrd = none
      (ok → ∃ t, exec (.watchReadout a w) s = .next t ∧ answered 0 t ∧ Only [.regs, .bus, .fr, .dbg] s t ∧ Within [⟨0x6B10, 4, 2⟩] s t
        ∧ reg t 0x6B10 = w &&& 0xFFFF0003 ∧ regF t 0x6B14 1 0 = 1 ∧ t.dbg = { s.dbg with wrd := some (u, n) }
        ∧ t.fr = { s.fr with nextId := s.fr.nextId + 1, trs := s.fr.trs ++ [{ regionTr s u 192 false .dumpRd (regionBeat s u n false) with id := s.fr.nextId }] })
      ∧ (¬ok → ∃ t, exec (.watchReadout a w) s = .next t ∧ answered 0 t ∧ Only [.regs, .bus] s t ∧ Within [⟨0x6B14, 0, 1⟩] s t
        ∧ reg t 0x6B14 = reg s 0x6B14 ||| 4))
  ∧ (∀ (s : State) (T : Tr) (b : Beat), inReset s = false → readoutOf s .dumpRd = some (T, b) →
      ∃ t, exec .watchReadoutDone s = .next t ∧ Only [.regs, .fr, .dbg] s t ∧ Within [⟨0x6B14, 0, 1⟩, ⟨0x6B80, 4, 32⟩] s t
        ∧ t.fr = { s.fr with trs := s.fr.trs.filter fun u => u.id != T.id } ∧ t.dbg = { s.dbg with wrd := none }
        ∧ (∀ i, i < 32 → reg t (0x6B80 + 4 * i) = BitVec.ofNat 32 ((if b.bad = 0 then b.data else 0).toNat >>> (32 * i)))
        ∧ regF t 0x6B14 1 0 = 2 ∧ regF t 0x6B14 7 4 = (if b.bad = 0 then b.pois else 15).toNat)

/-- O59. Accepted. FORWARD of a unit in service that is not being forwarded sets its pending bit, commanded, and makes cause 9 pending;
of one being forwarded it does nothing; of another unit it only sets REJ. CANCEL of a migration before its switch ends it: its
spare goes Off and is a spare again, its copy and dual accesses are no more, cause 11 is pending, no entry; without one, or
after the switch, it only sets REJ. ACK removes the head entry, or with an empty queue only sets REJ. RESUMEAUTO clears STORM.
With no reset in force: FWD_WINDOW_END, once the time counter stands in another window of WINMS, restarts the counts of the
units, STORM_WINDOW_END, in another millisecond, that of banks with uncorrectable errors; STORM, once those of this millisecond
reach STORMN and LOADED, sets STORM and makes cause 9 pending. Rests in part on the model's choice of log entries 22 and 53. (spec/18_faults_forwarding.md) -/
def Obligations.ForwardingCommandsAndGuards : Prop :=
  (∀ (a : BusAcc) (s : State), accepts a true 0x7048 s →
      (∀ (kind : BitVec 3) (unit : BitVec 12), let k := unitKey kind.toNat unit.toNat
        (unitLive s kind.toNat unit.toNat = true → unitBusy s kind.toNat unit.toNat = false →
          ∃ t, exec (.forward a kind unit) s = .next t ∧ answered 0 t ∧ Only [.regs, .bus, .tr, .dbg, .fw] s t ∧ Within eventRegs s t ∧ regB t 0x7000 9 = true
            ∧ t.fw = { s.fw with pend := t.fw.pend, cmd := t.fw.cmd }
            ∧ (∀ j, NMap.get 0 t.fw.pend j = if j = k then max 1 (NMap.get 0 s.fw.pend k) else NMap.get 0 s.fw.pend j)
            ∧ (∀ j, NMap.get false t.fw.cmd j = if j = k then true else NMap.get false s.fw.cmd j))
        ∧ (unitLive s kind.toNat unit.toNat = true → unitBusy s kind.toNat unit.toNat = true →
          ∃ t, exec (.forward a kind unit) s = .next t ∧ answered 0 t ∧ Only [.bus] s t)
        ∧ (unitLive s kind.toNat unit.toNat = false →
          ∃ t, exec (.forward a kind unit) s = .next t ∧ answered 0 t ∧ Only [.regs, .bus] s t ∧ Within [⟨0x704C, 0, 1⟩] s t
            ∧ reg t 0x704C = reg s 0x704C ||| 0x800000))
      ∧ (∀ m, s.fw.mig = some m → m.phase < 4 → ∃ t, exec (.fwdCancel a) s = .next t ∧ answered 0 t ∧ Only [.regs, .bus, .bank, .fr, .tr, .dbg, .fw] s t
          ∧ (∀ T ∈ t.fr.trs, T.job.isMig = false) ∧ (∀ T ∈ s.fr.trs, T.job.isMig = false → T ∈ t.fr.trs) ∧ t.fr = { s.fr with trs := t.fr.trs }
          ∧ Within eventRegs s t ∧ regB t 0x7000 11 = true ∧ t.fw = { s.fw with mig := none, spB := t.fw.spB }
          ∧ (∀ b, b ∈ t.fw.spB ↔ b = m.pb ∨ b ∈ s.fw.spB)
          ∧ t.bank = { s.bank with pow := t.bank.pow } ∧ ∀ b, powOf t b = if b = m.pb then (powOf s m.pb).retire else powOf s b)
      ∧ ((∀ m, s.fw.mig = some m → 4 ≤ m.phase) → ∃ t, exec (.fwdCancel a) s = .next t ∧ answered 0 t ∧ Only [.regs, .bus] s t ∧ Within [⟨0x704C, 0, 1⟩] s t
          ∧ reg t 0x704C = reg s 0x704C ||| 0x800000)
      ∧ (s.fw.ents ≠ [] → ∃ t, exec (.ack a) s = .next t ∧ answered 0 t ∧ Only [.bus, .fw] s t ∧ t.fw = { s.fw with ents := s.fw.ents.drop 1 })
      ∧ (s.fw.ents = [] → ∃ t, exec (.ack a) s = .next t ∧ answered 0 t ∧ Only [.regs, .bus] s t ∧ Within [⟨0x704C, 0, 1⟩] s t
          ∧ reg t 0x704C = reg s 0x704C ||| 0x800000)
      ∧ (∃ t, exec (.resumeauto a) s = .next t ∧ answered 0 t ∧ Only [.regs, .bus] s t ∧ Within [⟨0x704C, 0, 1⟩] s t
          ∧ reg t 0x704C = reg s 0x704C &&& ~~~(0x400000 : Word)))
  ∧ (∀ (s : State), inReset s = false →
      (∃ t, exec .fwdWindowEnd s = .next t ∧ t = { s with fw := { s.fw with
          wcnt := if s.fw.win = fwdWindow s then s.fw.wcnt else [], win := fwdWindow s } })
      ∧ (∃ t, exec .stormWindowEnd s = .next t ∧ t = { s with fw := { s.fw with
          storm := if s.fw.sWin = s.tm.t.toNat / 1000000 then s.fw.storm else [], sWin := s.tm.t.toNat / 1000000 } })
      ∧ (s.fw.sWin ≠ s.tm.t.toNat / 1000000 →
          ∃ t, exec .storm s = .next t ∧ t = { s with fw := { s.fw with storm := [], sWin := s.tm.t.toNat / 1000000 } })
      ∧ (loaded s = true → s.fw.sWin = s.tm.t.toNat / 1000000 → regF s 0x7044 19 16 ≠ 0 → regF s 0x7044 19 16 ≤ s.fw.storm.length → regB s 0x704C 22 = false →
          ∃ t, exec .storm s = .next t ∧ Only [.regs, .tr, .dbg] s t ∧ Within ([⟨0x704C, 0, 1⟩] ++ eventRegs) s t
            ∧ reg t 0x704C = reg s 0x704C ||| 0x400000 ∧ regB t 0x7000 9 = true))

/-- O60. CCLK running, and for a start no forwarding of the kind and room in the entry queue. FWD_START of the next bank takes the first
spare, clears the pending bit, asks the spare for On and is in WAKE, or where the failing bank is Off the map names the spare at
once; without a spare only DEGB is set, with cause 15; of a plane with another active, or of a cluster, it takes a spare and
wakes its domain; of a free statistic row with a spare it replaces the row at once. MIGRATION_COPY_START, the spare On: COPY
from row 0. COPY_ROW requests the next source row through IR17, with the bits flipped in it; with fresh identifiers, once it is
read, the write of its initialised chunks to the spare's row is requested through IW8, and the last of those writes ends COPY.
MIGRATION_SWITCH in DRAIN with no dual write queued: the map names the spare, the old bank is retired, and granted transfers
keep their beats at it. PLANE_FORWARD_DONE, CLUSTER_RETIRE and STATROW_SUBSTITUTE put the spare in service for the failing unit,
or none. Each end leaves an entry and makes cause 10 pending. Rests in part on the model's choice of log entries 53 and 70. (spec/18_faults_forwarding.md, spec/13_power.md) -/
def Obligations.FailingUnitsMoveToSpares : Prop :=
  ∀ (s : State), running s = true →
    let ended : Nat → Bool → Nat → Nat → Nat → State → Prop := fun kind nospare unit dest trig t => regB t 0x7000 10 = true
      ∧ t.fw.ents = s.fw.ents ++ [BitVec.ofNat 64 (kind + 8 * b2n nospare + 16 * unit + 65536 * dest + 2 ^ 24 * trig + 2 ^ 32 * bits s.tm.t.toNat 61 30)]
    let unpended : Nat → State → Prop := fun k t => ∀ j, NMap.get 0 t.fw.pend j = (if j = k then 0 else NMap.get 0 s.fw.pend j)
      ∧ NMap.get false t.fw.cmd j = if j = k then false else NMap.get false s.fw.cmd j
    (entryRoom s = true →
      (∀ lb, s.fw.mig = none → nextBank s = some lb →
        (∀ pb rest, s.fw.spB = pb :: rest → (powOf s (pbankOf s lb)).trans = none → (powOf s (pbankOf s lb)).st = 2 →
          ∃ t, exec (.fwdStart .bank) s = .next t ∧ Only [.bank, .fw] s t ∧ unpended (unitKey 0 lb) t
            ∧ t.fw = { s.fw with pend := t.fw.pend, cmd := t.fw.cmd, spB := rest, mig := some ⟨lb, pb, 1, 0, 0, trigOf s 0 lb, []⟩ }
            ∧ t.bank = { s.bank with pow := t.bank.pow } ∧ ∀ b, powOf t b = if b = pb then (powOf s pb).request ⟨2, false⟩ else powOf s b)
        ∧ (∀ pb rest, s.fw.spB = pb :: rest → (powOf s (pbankOf s lb)).trans = none → (powOf s (pbankOf s lb)).st = 0 →
          (powOf s (pbankOf s lb)).wait = none → lb < 96 → pb < 100 → pbankOf s lb < 100 →
          ∃ t, exec (.fwdStart .bank) s = .next t ∧ Only [.regs, .bank, .fr, .tr, .dbg, .fw] s t ∧ t.fw.mig = none ∧ t.fw.spB = rest
            ∧ (∀ i, i < 96 → pbankOf t i = if i = lb then pb else pbankOf s i) ∧ ended 0 false lb pb (trigOf s 0 lb) t)
        ∧ (s.fw.spB = [] → lb < 96 → regB s (0x7078 + 4 * (lb / 32)) (lb % 32) = false →
          ∃ t, exec (.fwdStart .bank) s = .next t ∧ Only [.regs, .tr, .dbg, .fw] s t ∧ unpended (unitKey 0 lb) t
            ∧ Within ([⟨0x7078 + 4 * (lb / 32), 0, 1⟩] ++ eventRegs) s t ∧ regB t (0x7078 + 4 * (lb / 32)) (lb % 32) = true
            ∧ regB t 0x7000 15 = true ∧ t.fw.mig = none))
      ∧ (∀ kind k j, s.fw.plane = none → nextPlane s = some (kind, k) → 1 < ncount ((List.range 18).map (planesOf s kind).1.getLsbD) →
          (j = 16 ∧ (planesOf s kind).2.getLsbD 16 = true ∨ j = 17 ∧ (planesOf s kind).2.getLsbD 16 = false ∧ (planesOf s kind).2.getLsbD 17 = true) →
          ∃ t, exec (.fwdStart .plane) s = .next t ∧ Only [.regs, .fw, .pw] s t ∧ unpended (unitKey kind k) t ∧ Within [⟨0x40A0, 0, 1⟩] s t
            ∧ t.fw.plane = some ⟨kind, k, j + 1, trigOf s kind k⟩ ∧ (planesOf t kind).1 = (planesOf s kind).1
            ∧ (∀ i, i < 18 → (planesOf t kind).2.getLsbD i = ((planesOf s kind).2.getLsbD i && i != j))
            ∧ regB t 0x40A0 j = true ∧ ∀ i, domOf t i = if i = j then (domOf s j).request ⟨2, false⟩ else domOf s i)
      ∧ (∀ c, s.fw.cluster = none → (List.range 9).find? (fun c => mayForward s 3 c) = some c → s.fw.spC.getLsbD 8 = true →
          ∃ t, exec (.fwdStart .cluster) s = .next t ∧ Only [.regs, .fw, .pw] s t ∧ unpended (unitKey 3 c) t ∧ Within [⟨0x40A0, 0, 1⟩] s t
            ∧ t.fw.cluster = some ⟨3, c, 9, trigOf s 3 c⟩ ∧ t.fw.cl = s.fw.cl ||| 0x100 ∧ t.fw.spC = 0
            ∧ regB t 0x40A0 26 = true ∧ ∀ i, domOf t i = if i = 26 then (domOf s 26).request ⟨2, false⟩ else domOf s i)
      ∧ (∀ row r, s.fw.stat = none → (List.range 4096).find? (fun r => mayForward s 4 r) = some row → spareRow s = some r → rowHeld s row = false →
          ∃ t, exec (.fwdStart .statRow) s = .next t ∧ Only [.regs, .hd, .tr, .dbg, .fw] s t ∧ unpended (unitKey 4 row) t ∧ Within eventRegs s t
            ∧ (∀ i, NMap.get 0 t.hd.sub i = if i = row then r + 1 else NMap.get 0 s.hd.sub i) ∧ t.fw.rowsUsed = r :: s.fw.rowsUsed ∧ t.fw.stat = none
            ∧ ended 4 false row r (trigOf s 4 row) t))
    ∧ (∀ m, s.fw.mig = some m →
      (m.phase = 1 → bankOn s (128 + m.pb) = true → ∃ t, exec .migrationCopyStart s = .next t
        ∧ t = { s with fw := { s.fw with mig := some { m with phase := 2, cp := 0, cw := 0 } } })
      ∧ (m.phase = 2 → m.cp + copiesAsked s < 512 → portBusy s 191 = false → ∀ ups, ∃ t, exec (.copyRow ups) s = .next t
        ∧ Struck (pbankOf s m.lb) (m.cp + copiesAsked s) ups s t ∧ t = { s with bank := t.bank, fr := { s.fr with nextId := s.fr.nextId + 1, trs := s.fr.trs
            ++ [{ exchTr s 191 false .copyRd 0 (rowBeat m.lb (m.cp + copiesAsked s)) with id := s.fr.nextId }] } })
      ∧ (∀ (port : Bool) (ups : List Upset) (T : Tr) (i : Nat) (b : Beat) (pre post : List Tr), nextBeat s m.lb port [.rd, .park, .ird] = some (T, i) →
        T.beats = [b] → b.bank = m.lb → b.have_ = false → T.job = .copyRd → T.kind = .ird → T.passed = [] → FreshIds s → portTrs s 191 = pre ++ T :: post →
        (∀ U ∈ pre, U.passed ≠ []) → (∀ U ∈ post, U.passed = [] ∧ rowsDone U = false) →
        let r := (readRow (beatCyc s T 0 + 2) m.lb b.row ⟨port, 3, 15, true⟩ ups s).1
        ∃ t, exec (.arrayRead m.lb port ups) s = .next t ∧ t.mem = s.mem ∧ t.fw.mig = some { m with cp := m.cp + 1 }
          ∧ ∃ U ∈ t.fr.trs, U.id = s.fr.nextId ∧ U.req = 202 ∧ U.kind = .iwr ∧ U.job = .copyWr
            ∧ U.beats = [(rowBeat (128 + m.pb) b.row).store r.data r.pois (initMap s (beatCyc s T 0 + 2) m.lb b.row)])
      ∧ (∀ (bank : Nat) (port : Bool) (par : Parity) (T : Tr) (i : Nat) (b : Beat) (pre post : List Tr), m.lb < 96 → m.pb < 100 → bank = 128 + m.pb →
        nextBeat s bank port [.wr, .parkWr, .iwr] = some (T, i) → T.beats = [b] → T.job = .copyWr → T.kind = .iwr → T.passed = [] →
        FreshIds s → portTrs s 202 = pre ++ T :: post → (∀ U ∈ pre, U.passed ≠ []) →
        (∀ U ∈ post, U.passed = [] ∧ rowsDone U = false) →
        ∃ t, exec (.arrayWrite bank port par) s = .next t
          ∧ t.fw.mig = some { m with cw := m.cw + 1, phase := if m.cw = 511 then 3 else m.phase })
      ∧ (m.phase = 3 → m.dual = [] → bankOn s m.lb = true → bankOn s (128 + m.pb) = true → m.lb < 96 → m.pb < 100 → pbankOf s m.lb < 100 →
        ∃ t, exec .migrationSwitch s = .next t ∧ Only [.regs, .bank, .fr, .tr, .dbg, .fw] s t ∧ t.fw.mig = some { m with phase := 4 }
          ∧ (∀ T ∈ s.fr.trs, T.job.isMig = false → leaveBehind m.lb (pbankOf s m.lb) T ∈ t.fr.trs)
          ∧ Within ([⟨0x7100 + 4 * (m.lb / 4), 0, 1⟩, ⟨0x7090 + 4 * (pbankOf s m.lb / 32), 0, 1⟩, ⟨0x7078 + 4 * (m.lb / 32), 0, 1⟩] ++ eventRegs) s t
          ∧ (∀ lb, lb < 96 → pbankOf t lb = if lb = m.lb then m.pb else pbankOf s lb)
          ∧ regB t (0x7090 + 4 * (pbankOf s m.lb / 32)) (pbankOf s m.lb % 32) = true
          ∧ (∀ b, powOf t b = if b = pbankOf s m.lb then (powOf s (pbankOf s m.lb)).retire else powOf s b)
          ∧ ended 0 false m.lb m.pb m.trig t))
    ∧ (∀ r, s.fw.plane = some r → r.kind = 1 ∨ r.kind = 2 → r.unit < 18 → r.spare ≤ 18 → r.spare ≠ r.unit + 1 →
        (r.spare = 0 ∨ (domOf s (r.spare - 1)).st = 2) →
        ∃ t, exec .planeForwardDone s = .next t ∧ Only [.regs, .tr, .dbg, .fw, .pw] s t ∧ t.fw.plane = none
          ∧ (∀ i, i < 18 → (planesOf t r.kind).1.getLsbD i = (i != r.unit && ((planesOf s r.kind).1.getLsbD i || i + 1 == r.spare)))
          ∧ planesOf t (3 - r.kind) = planesOf s (3 - r.kind) ∧ ended r.kind (r.spare == 0) r.unit (r.spare - 1) r.trig t)
    ∧ (∀ r, s.fw.cluster = some r → clusterRetiring s r.unit = true → r.unit < 9 → (∀ e, e ∈ s.bl.slot → e.1 / 4 ≠ r.unit) →
        ∃ t, exec .clusterRetire s = .next t ∧ Only [.regs, .tr, .dbg, .fw, .pw] s t ∧ Within ([⟨0x40A0, 0, 1⟩] ++ eventRegs) s t ∧ t.fw.cluster = none
          ∧ (∀ i, i < 9 → t.fw.cl.getLsbD i = (s.fw.cl.getLsbD i && i != r.unit)) ∧ ended 3 (r.spare == 0) r.unit (r.spare - 1) r.trig t)
    ∧ (∀ r, s.fw.stat = some r → rowHeld s r.unit = false →
        ∃ t, exec .statrowSubstitute s = .next t ∧ Only [.regs, .hd, .tr, .dbg, .fw] s t ∧ Within eventRegs s t ∧ t.fw.stat = none
          ∧ (if r.spare = 0 then NMap.get false t.hd.gone r.unit = true ∧ t.hd.sub = s.hd.sub
             else ∀ i, NMap.get 0 t.hd.sub i = if i = r.unit then r.spare else NMap.get 0 s.hd.sub i)
          ∧ ended 4 (r.spare == 0) r.unit (r.spare - 1) r.trig t)
end

