-- ==== Sys2Proof/Laws/Bits.lean ====
section
/-!
SUPPORT. Laws/Bits.lean: reading a bit field back.
-/
namespace Sys2Proof.Machine

theorem bits_setBits (old hi lo v : Nat) : bits (setBits old hi lo v) hi lo = v % 2 ^ (hi + 1 - lo) := by
  unfold bits setBits bits
  simp only [Nat.shiftRight_eq_div_pow, Nat.shiftLeft_eq]
  generalize 2 ^ (hi + 1 - lo) = q
  have hp : 0 < 2 ^ lo := Nat.two_pow_pos lo
  generalize 2 ^ lo = p at hp
  have e1 : old = old / p * p + old % p := (Nat.div_add_mod' old p).symm
  have e2 : old / p = old / p / q * q + old / p % q := (Nat.div_add_mod' (old / p) q).symm
  have e3 : old - old / p % q * p = old / p / q * q * p + old % p := by
    have : old / p * p = old / p / q * q * p + old / p % q * p := by rw [← Nat.add_mul, ← e2]
    omega
  have hr : old % p < p := Nat.mod_lt _ hp
  rw [e3]
  have e4 : old / p / q * q * p + old % p + v % q * p = old % p + (old / p / q * q + v % q) * p := by
    rw [Nat.add_mul]; omega
  rw [e4, Nat.add_mul_div_right _ _ hp, Nat.div_eq_of_lt hr, Nat.zero_add, Nat.add_comm, Nat.add_mul_mod_self_right, Nat.mod_mod]

theorem bits_mod (n hi lo w : Nat) (h : hi < w) : bits (n % 2 ^ w) hi lo = bits n hi lo := by
  apply Nat.eq_of_testBit_eq
  intro i
  unfold bits
  simp only [Nat.testBit_mod_two_pow, Nat.testBit_shiftRight]
  by_cases hi' : i < hi + 1 - lo
  · have : lo + i < w := by omega
    simp [hi', this]
  · simp [hi']

theorem regF_of_reg {s : State} {o hi lo n : Nat} (h : reg s o = BitVec.ofNat 32 n) (hh : hi < 32) : regF s o hi lo = bits n hi lo := by
  unfold regF
  rw [h, BitVec.toNat_ofNat, bits_mod _ _ _ _ hh]

theorem bit_mod (n i w : Nat) (h : i < w) : bit (n % 2 ^ w) i = bit n i := by
  unfold bit
  simp [Nat.testBit_mod_two_pow, h]

theorem regB_of_reg {s : State} {o i n : Nat} (h : reg s o = BitVec.ofNat 32 n) (hh : i < 32) : regB s o i = bit n i := by
  unfold regB
  rw [h, BitVec.toNat_ofNat, bit_mod _ _ _ hh]

/-- A bit outside the field written. -/
theorem bit_setBits (old hi lo v i : Nat) (h : i < lo ∨ hi < i) (hl : lo ≤ hi + 1) : bit (setBits old hi lo v) i = bit old i := by
  have e : setBits old hi lo v = (old / 2 ^ (hi + 1)) * 2 ^ (hi + 1) + (v % 2 ^ (hi + 1 - lo)) * 2 ^ lo + old % 2 ^ lo := by
    unfold setBits bits
    simp only [Nat.shiftRight_eq_div_pow, Nat.shiftLeft_eq]
    have hq : 2 ^ (hi + 1) = 2 ^ lo * 2 ^ (hi + 1 - lo) := by rw [← Nat.pow_add]; congr 1; omega
    rw [hq, ← Nat.div_div_eq_div_mul]
    generalize 2 ^ (hi + 1 - lo) = q
    generalize 2 ^ lo = p
    have e1 : old = old / p * p + old % p := (Nat.div_add_mod' old p).symm
    have e2 : old / p = old / p / q * q + old / p % q := (Nat.div_add_mod' (old / p) q).symm
    have e3 : old / p * p = old / p / q * q * p + old / p % q * p := by rw [← Nat.add_mul, ← e2]
    have e4 : old / p / q * (p * q) = old / p / q * q * p := by rw [Nat.mul_assoc, Nat.mul_comm q p]
    rw [e4]
    omega
  have hv : (v % 2 ^ (hi + 1 - lo)) * 2 ^ lo + old % 2 ^ lo < 2 ^ (hi + 1) := by
    have h1 : v % 2 ^ (hi + 1 - lo) < 2 ^ (hi + 1 - lo) := Nat.mod_lt _ (Nat.two_pow_pos _)
    have h2 : old % 2 ^ lo < 2 ^ lo := Nat.mod_lt _ (Nat.two_pow_pos _)
    have hq : 2 ^ (hi + 1) = 2 ^ (hi + 1 - lo) * 2 ^ lo := by rw [← Nat.pow_add]; congr 1; omega
    rw [hq]
    calc (v % 2 ^ (hi + 1 - lo)) * 2 ^ lo + old % 2 ^ lo < (v % 2 ^ (hi + 1 - lo)) * 2 ^ lo + 2 ^ lo := by omega
      _ = (v % 2 ^ (hi + 1 - lo) + 1) * 2 ^ lo := by rw [Nat.add_mul, Nat.one_mul]
      _ ≤ 2 ^ (hi + 1 - lo) * 2 ^ lo := Nat.mul_le_mul_right _ h1
  unfold bit
  rw [e]
  obtain h | h := h
  · have := Nat.testBit_mod_two_pow (x := old / 2 ^ (hi + 1) * 2 ^ (hi + 1) + v % 2 ^ (hi + 1 - lo) * 2 ^ lo + old % 2 ^ lo) (j := lo) (i := i)
    simp only [h, decide_true, Bool.true_and] at this
    rw [← this]
    have e5 : (old / 2 ^ (hi + 1) * 2 ^ (hi + 1) + v % 2 ^ (hi + 1 - lo) * 2 ^ lo + old % 2 ^ lo) % 2 ^ lo = old % 2 ^ lo := by
      have hq : 2 ^ (hi + 1) = 2 ^ (hi + 1 - lo) * 2 ^ lo := by rw [← Nat.pow_add]; congr 1; omega
      rw [hq, ← Nat.mul_assoc, ← Nat.add_mul, Nat.add_comm, Nat.add_mul_mod_self_right, Nat.mod_mod]
    rw [e5, Nat.testBit_mod_two_pow]
    simp [h]
  · rw [Nat.add_assoc]
    have e6 := Nat.testBit_two_pow_mul_add (old / 2 ^ (hi + 1)) hv i
    rw [Nat.mul_comm, e6, if_neg (by omega), Nat.testBit_div_two_pow]
    congr 1
    omega

end Sys2Proof.Machine
end

