-- ==== Sys2Proof/Laws/Only.lean ====
section
/-!
SUPPORT. Laws/Only.lean: how frames compose: nothing changed outside a list of parts.
-/
namespace Sys2Proof.Machine

/-- Every part of the first list stands in the second. -/
def partsIn (ps qs : List Part) : Bool := ps.all qs.contains

theorem partsIn_nil (qs : List Part) : (partsIn [] qs = true) = True := by simp [partsIn]

theorem partsIn_cons (p : Part) (ps qs : List Part) : (partsIn (p :: ps) qs = true) = (p ∈ qs ∧ partsIn ps qs = true) := by
  simp [partsIn]

theorem mem_of_partsIn {ps qs : List Part} (h : partsIn ps qs = true) {p : Part} (hp : p ∈ ps) : p ∈ qs := by
  have := List.all_eq_true.mp h p hp
  simpa using this

theorem Only.refl (ps : List Part) (s : State) : Only ps s s := by
  intro p _
  cases p <;> rfl

theorem sameOn_trans {p : Part} {a b c : State} (h : sameOn p a b) (k : sameOn p b c) : sameOn p a c := by
  cases p <;> exact Eq.trans k h

theorem Only.trans {ps : List Part} {a b c : State} (h : Only ps a b) (k : Only ps b c) : Only ps a c :=
  fun p hp => sameOn_trans (h p hp) (k p hp)

theorem Only.mono {ps qs : List Part} {a b : State} (h : Only ps a b) (hs : partsIn ps qs = true) : Only qs a b :=
  fun p hp => h p fun hm => hp (mem_of_partsIn hs hm)

/-- One more effect, which changes only parts of a smaller list. -/
theorem Only.step {ps qs : List Part} {a b c : State} (k : Only ps b c) (hs : partsIn ps qs = true) (h : Only qs a b) :
    Only qs a c := h.trans (k.mono hs)

/-- A state on the way, whose own frame is then known. -/
theorem Only.cut {ps : List Part} {a b c : State} (h : Only ps a b) (k : Only ps a b → Only ps a c) : Only ps a c := k h

theorem Only.forEach {α : Type} {ps : List Part} {f : α → State → State} (hf : ∀ x s, Only ps s (f x s)) (l : List α) (s : State) :
    Only ps s (forEach l f s) := by
  induction l generalizing s with
  | nil => exact Only.refl ps s
  | cons x xs ih => exact (hf x s).trans (ih (f x s))

theorem Only.when {ps : List Part} {f : State → State} (hf : ∀ s, Only ps s (f s)) (c : Bool) (s : State) : Only ps s (when c f s) := by
  unfold Machine.when
  split
  · exact hf s
  · exact Only.refl ps s

theorem Only.symm {ps : List Part} {a b : State} (h : Only ps a b) : Only ps b a := by
  intro p hp
  have := h p hp
  cases p <;> exact this.symm

/-- An effect that changes only listed parts makes no difference to a frame that lists them. -/
theorem Only.iff_of {ps qs : List Part} {a b c : State} (k : Only ps b c) (hs : partsIn ps qs = true) :
    Only qs a c ↔ Only qs a b :=
  ⟨fun h => h.trans (k.mono hs).symm, fun h => h.trans (k.mono hs)⟩

theorem Only.forEach_iff {α : Type} {ps : List Part} {f : α → State → State} {a : State} {l : List α} {s : State}
    (hf : ∀ x s, Only ps s (f x s)) : Only ps a (Machine.forEach l f s) ↔ Only ps a s :=
  ⟨fun h => h.trans (Only.forEach hf l s).symm, fun h => h.trans (Only.forEach hf l s)⟩

theorem Only.when_iff {ps : List Part} {f : State → State} {a : State} {c : Bool} {s : State}
    (hf : ∀ s, Only ps s (f s)) : Only ps a (Machine.when c f s) ↔ Only ps a s :=
  ⟨fun h => h.trans (Only.when hf c s).symm, fun h => h.trans (Only.when hf c s)⟩

theorem Only.ite_of {ps : List Part} {a x y : State} {c : Prop} [Decidable c] (hx : Only ps a x) (hy : Only ps a y) :
    Only ps a (if c then x else y) := by
  split
  · exact hx
  · exact hy

theorem Only.self (ps : List Part) (s : State) : Only ps s s ↔ True := iff_true_intro (Only.refl ps s)

theorem Only.snd {α : Type} {ps qs : List Part} {a b t : State} {p : α × State} {r : α} (h : p = (r, t)) (k : Only ps b p.2)
    (hs : partsIn ps qs = true) (ha : Only qs a b) : Only qs a t := by
  subst h
  exact ha.trans (k.mono hs)

/-- An effect that may not take place. -/
theorem Only.getD {ps : List Part} {u : State} {o : Option State} (h : ∀ t, o = some t → Only ps u t) : Only ps u (o.getD u) := by
  cases o with
  | none => exact Only.refl ps u
  | some t => exact h t rfl

/-- A record update: each part is listed or as before. -/
theorem Only.mk_iff {ps : List Part} {a s : State} {x0 : Nat} {x1 : Nat} {x2 : NMap Word} {x3 : NMap (BitVec 56)} {x4 : NMap (BitVec 56)} {x5 : BusSt} {x6 : List Host.Cell} {x7 : BankSt} {x8 : FrameSt} {x9 : ArbSt} {x10 : SlipSt} {x11 : TblSt} {x12 : BlendSt} {x13 : HeldSt} {x14 : TimeSt} {x15 : TraceSt} {x16 : DbgSt} {x17 : FwdSt} {x18 : RdxSt} {x19 : PwrSt} {x20 : CkSt} {x21 : ProtSt}
    (h0 : Part.cyc ∈ ps ∨ x0 = s.cyc)
    (h1 : Part.free ∈ ps ∨ x1 = s.free)
    (h2 : Part.regs ∈ ps ∨ x2 = s.regs)
    (h3 : Part.cnt ∈ ps ∨ x3 = s.cnt)
    (h4 : Part.xc ∈ ps ∨ x4 = s.xc)
    (h5 : Part.bus ∈ ps ∨ x5 = s.bus)
    (h6 : Part.mem ∈ ps ∨ x6 = s.mem)
    (h7 : Part.bank ∈ ps ∨ x7 = s.bank)
    (h8 : Part.fr ∈ ps ∨ x8 = s.fr)
    (h9 : Part.arb ∈ ps ∨ x9 = s.arb)
    (h10 : Part.sq ∈ ps ∨ x10 = s.sq)
    (h11 : Part.tb ∈ ps ∨ x11 = s.tb)
    (h12 : Part.bl ∈ ps ∨ x12 = s.bl)
    (h13 : Part.hd ∈ ps ∨ x13 = s.hd)
    (h14 : Part.tm ∈ ps ∨ x14 = s.tm)
    (h15 : Part.tr ∈ ps ∨ x15 = s.tr)
    (h16 : Part.dbg ∈ ps ∨ x16 = s.dbg)
    (h17 : Part.fw ∈ ps ∨ x17 = s.fw)
    (h18 : Part.rx ∈ ps ∨ x18 = s.rx)
    (h19 : Part.pw ∈ ps ∨ x19 = s.pw)
    (h20 : Part.ck ∈ ps ∨ x20 = s.ck)
    (h21 : Part.pr ∈ ps ∨ x21 = s.pr) :
    Only ps a ⟨s.pending, x0, x1, x2, x3, x4, x5, x6, x7, x8, x9, x10, x11, x12, x13, x14, x15, x16, x17, x18, x19, x20, x21⟩ ↔ Only ps a s := by
  have h : Only ps s ⟨s.pending, x0, x1, x2, x3, x4, x5, x6, x7, x8, x9, x10, x11, x12, x13, x14, x15, x16, x17, x18, x19, x20, x21⟩ := by
    intro p hp
    cases p with
    | pending => rfl
    | cyc => exact h0.resolve_left hp
    | free => exact h1.resolve_left hp
    | regs => exact h2.resolve_left hp
    | cnt => exact h3.resolve_left hp
    | xc => exact h4.resolve_left hp
    | bus => exact h5.resolve_left hp
    | mem => exact h6.resolve_left hp
    | bank => exact h7.resolve_left hp
    | fr => exact h8.resolve_left hp
    | arb => exact h9.resolve_left hp
    | sq => exact h10.resolve_left hp
    | tb => exact h11.resolve_left hp
    | bl => exact h12.resolve_left hp
    | hd => exact h13.resolve_left hp
    | tm => exact h14.resolve_left hp
    | tr => exact h15.resolve_left hp
    | dbg => exact h16.resolve_left hp
    | fw => exact h17.resolve_left hp
    | rx => exact h18.resolve_left hp
    | pw => exact h19.resolve_left hp
    | ck => exact h20.resolve_left hp
    | pr => exact h21.resolve_left hp
  exact ⟨fun k => k.trans h.symm, fun k => k.trans h⟩

end Sys2Proof.Machine
end

