-- ==== Sys2Proof/Laws/OnlyOps.lean ====
section
/-!
SUPPORT. Laws/OnlyOps.lean: what each operation of Machine/Ops.lean may change (generated text, one lemma for each operation).
-/
namespace Sys2Proof.Machine

set_option linter.unusedSimpArgs false
set_option linter.tactic.unusedName false

theorem setReg_only (o : Nat) (w : Word) (s : State) :
    Only [.regs] s (setReg o w s) := by
  unfold setReg
  repeat' first
    | simp (maxDischargeDepth := 8) only [*, partsIn_nil, partsIn_cons, Only.self, Only.mk_iff, Only.forEach_iff, Only.when_iff, Only.ite_of, true_or, or_true, and_self, implies_true, List.mem_cons, reduceCtorEq, or_false, false_or, id_eq]
    | split
    | with_reducible refine Only.trans ?_ (Only.forEach (fun _ _ => ?_) _ _)
    | with_reducible refine Only.trans ?_ (Only.when (fun _ => ?_) _ _)

theorem setRegF_only (o hi lo v : Nat) (s : State) :
    Only [.regs] s (setRegF o hi lo v s) := by
  unfold setRegF
  repeat' first
    | simp (maxDischargeDepth := 8) only [Only.iff_of (setReg_only _ _ _ ), *, partsIn_nil, partsIn_cons, Only.self, Only.mk_iff, Only.forEach_iff, Only.when_iff, Only.ite_of, true_or, or_true, and_self, implies_true, List.mem_cons, reduceCtorEq, or_false, false_or, id_eq]
    | split
    | with_reducible refine Only.trans ?_ (Only.forEach (fun _ _ => ?_) _ _)
    | with_reducible refine Only.trans ?_ (Only.when (fun _ => ?_) _ _)

theorem orReg_only (o m : Nat) (s : State) :
    Only [.regs] s (orReg o m s) := by
  unfold orReg
  repeat' first
    | simp (maxDischargeDepth := 8) only [Only.iff_of (setReg_only _ _ _ ), *, partsIn_nil, partsIn_cons, Only.self, Only.mk_iff, Only.forEach_iff, Only.when_iff, Only.ite_of, true_or, or_true, and_self, implies_true, List.mem_cons, reduceCtorEq, or_false, false_or, id_eq]
    | split
    | with_reducible refine Only.trans ?_ (Only.forEach (fun _ _ => ?_) _ _)
    | with_reducible refine Only.trans ?_ (Only.when (fun _ => ?_) _ _)

theorem clrReg_only (o m : Nat) (s : State) :
    Only [.regs] s (clrReg o m s) := by
  unfold clrReg
  repeat' first
    | simp (maxDischargeDepth := 8) only [Only.iff_of (setReg_only _ _ _ ), *, partsIn_nil, partsIn_cons, Only.self, Only.mk_iff, Only.forEach_iff, Only.when_iff, Only.ite_of, true_or, or_true, and_self, implies_true, List.mem_cons, reduceCtorEq, or_false, false_or, id_eq]
    | split
    | with_reducible refine Only.trans ?_ (Only.forEach (fun _ _ => ?_) _ _)
    | with_reducible refine Only.trans ?_ (Only.when (fun _ => ?_) _ _)

theorem setRegs_only (o : Nat) (l : List Nat) (s : State) : Only [.regs] s (setRegs o l s) := by
  induction l generalizing o s with
  | nil => exact Only.refl _ _
  | cons w ws ih => exact (setReg_only o _ s).trans (ih (o + 4) _)

theorem drawFree_only (s : State) :
    Only [.free] s (drawFree s).2 := by
  unfold drawFree
  repeat' first
    | simp (maxDischargeDepth := 8) only [*, partsIn_nil, partsIn_cons, Only.self, Only.mk_iff, Only.forEach_iff, Only.when_iff, Only.ite_of, true_or, or_true, and_self, implies_true, List.mem_cons, reduceCtorEq, or_false, false_or, id_eq]
    | split
    | with_reducible refine Only.trans ?_ (Only.forEach (fun _ _ => ?_) _ _)
    | with_reducible refine Only.trans ?_ (Only.when (fun _ => ?_) _ _)

theorem bump_only (o n : Nat) (s : State) :
    Only [.cnt] s (bump o n s) := by
  unfold bump
  repeat' first
    | simp (maxDischargeDepth := 8) only [*, partsIn_nil, partsIn_cons, Only.self, Only.mk_iff, Only.forEach_iff, Only.when_iff, Only.ite_of, true_or, or_true, and_self, implies_true, List.mem_cons, reduceCtorEq, or_false, false_or, id_eq]
    | split
    | with_reducible refine Only.trans ?_ (Only.forEach (fun _ _ => ?_) _ _)
    | with_reducible refine Only.trans ?_ (Only.when (fun _ => ?_) _ _)

theorem xbump_only (i n : Nat) (s : State) :
    Only [.xc] s (xbump i n s) := by
  unfold xbump
  repeat' first
    | simp (maxDischargeDepth := 8) only [*, partsIn_nil, partsIn_cons, Only.self, Only.mk_iff, Only.forEach_iff, Only.when_iff, Only.ite_of, true_or, or_true, and_self, implies_true, List.mem_cons, reduceCtorEq, or_false, false_or, id_eq]
    | split
    | with_reducible refine Only.trans ?_ (Only.forEach (fun _ _ => ?_) _ _)
    | with_reducible refine Only.trans ?_ (Only.when (fun _ => ?_) _ _)

theorem genRec_only (r : Rec) (hasCtx : Bool) (s : State) :
    Only [.tr] s (genRec r hasCtx s) := by
  unfold genRec
  repeat' first
    | simp (maxDischargeDepth := 8) only [*, partsIn_nil, partsIn_cons, Only.self, Only.mk_iff, Only.forEach_iff, Only.when_iff, Only.ite_of, true_or, or_true, and_self, implies_true, List.mem_cons, reduceCtorEq, or_false, false_or, id_eq]
    | split
    | with_reducible refine Only.trans ?_ (Only.forEach (fun _ _ => ?_) _ _)
    | with_reducible refine Only.trans ?_ (Only.when (fun _ => ?_) _ _)

theorem genTime_only (kind d : Nat) (s : State) :
    Only [.tr] s (genTime kind d s) := by
  unfold genTime
  repeat' first
    | simp (maxDischargeDepth := 8) only [Only.iff_of (genRec_only _ _ _ ), *, partsIn_nil, partsIn_cons, Only.self, Only.mk_iff, Only.forEach_iff, Only.when_iff, Only.ite_of, true_or, or_true, and_self, implies_true, List.mem_cons, reduceCtorEq, or_false, false_or, id_eq]
    | split
    | with_reducible refine Only.trans ?_ (Only.forEach (fun _ _ => ?_) _ _)
    | with_reducible refine Only.trans ?_ (Only.when (fun _ => ?_) _ _)

theorem traceTrigger_only (src cause : Nat) (s : State) :
    Only [.regs, .tr] s (traceTrigger src cause s) := by
  unfold traceTrigger
  repeat' first
    | simp (maxDischargeDepth := 8) only [Only.iff_of (orReg_only _ _ _ ), Only.iff_of (genRec_only _ _ _ ), *, partsIn_nil, partsIn_cons, Only.self, Only.mk_iff, Only.forEach_iff, Only.when_iff, Only.ite_of, true_or, or_true, and_self, implies_true, List.mem_cons, reduceCtorEq, or_false, false_or, id_eq]
    | split
    | with_reducible refine Only.trans ?_ (Only.forEach (fun _ _ => ?_) _ _)
    | with_reducible refine Only.trans ?_ (Only.when (fun _ => ?_) _ _)

theorem raise_only (n : Nat) (s : State) :
    Only [.regs, .tr, .dbg] s (raise n s) := by
  unfold raise
  repeat' first
    | simp (maxDischargeDepth := 8) only [Only.iff_of (setReg_only _ _ _ ), Only.iff_of (setRegF_only _ _ _ _ _ ), Only.iff_of (orReg_only _ _ _ ), Only.iff_of (traceTrigger_only _ _ _ ), *, partsIn_nil, partsIn_cons, Only.self, Only.mk_iff, Only.forEach_iff, Only.when_iff, Only.ite_of, true_or, or_true, and_self, implies_true, List.mem_cons, reduceCtorEq, or_false, false_or, id_eq]
    | split
    | with_reducible refine Only.trans ?_ (Only.forEach (fun _ _ => ?_) _ _)
    | with_reducible refine Only.trans ?_ (Only.when (fun _ => ?_) _ _)

theorem fillLog_only (o w0 w1 : Nat) (s : State) :
    Only [.regs] s (fillLog o w0 w1 s) := by
  unfold fillLog
  repeat' first
    | simp (maxDischargeDepth := 8) only [Only.iff_of (setReg_only _ _ _ ), Only.iff_of (orReg_only _ _ _ ), *, partsIn_nil, partsIn_cons, Only.self, Only.mk_iff, Only.forEach_iff, Only.when_iff, Only.ite_of, true_or, or_true, and_self, implies_true, List.mem_cons, reduceCtorEq, or_false, false_or, id_eq]
    | split
    | with_reducible refine Only.trans ?_ (Only.forEach (fun _ _ => ?_) _ _)
    | with_reducible refine Only.trans ?_ (Only.when (fun _ => ?_) _ _)

theorem fillLog1_only (o w0 : Nat) (s : State) :
    Only [.regs] s (fillLog1 o w0 s) := by
  unfold fillLog1
  repeat' first
    | simp (maxDischargeDepth := 8) only [Only.iff_of (setReg_only _ _ _ ), Only.iff_of (orReg_only _ _ _ ), *, partsIn_nil, partsIn_cons, Only.self, Only.mk_iff, Only.forEach_iff, Only.when_iff, Only.ite_of, true_or, or_true, and_self, implies_true, List.mem_cons, reduceCtorEq, or_false, false_or, id_eq]
    | split
    | with_reducible refine Only.trans ?_ (Only.forEach (fun _ _ => ?_) _ _)
    | with_reducible refine Only.trans ?_ (Only.when (fun _ => ?_) _ _)

theorem clearLog_only (o : Nat) (w : Word) (s : State) :
    Only [.regs] s (clearLog o w s) := by
  unfold clearLog
  repeat' first
    | simp (maxDischargeDepth := 8) only [Only.iff_of (clrReg_only _ _ _ ), *, partsIn_nil, partsIn_cons, Only.self, Only.mk_iff, Only.forEach_iff, Only.when_iff, Only.ite_of, true_or, or_true, and_self, implies_true, List.mem_cons, reduceCtorEq, or_false, false_or, id_eq]
    | split
    | with_reducible refine Only.trans ?_ (Only.forEach (fun _ _ => ?_) _ _)
    | with_reducible refine Only.trans ?_ (Only.when (fun _ => ?_) _ _)

theorem dropJobs_only (p : Job → Bool) (s : State) :
    Only [.fr] s (dropJobs p s) := by
  unfold dropJobs
  repeat' first
    | simp (maxDischargeDepth := 8) only [*, partsIn_nil, partsIn_cons, Only.self, Only.mk_iff, Only.forEach_iff, Only.when_iff, Only.ite_of, true_or, or_true, and_self, implies_true, List.mem_cons, reduceCtorEq, or_false, false_or, id_eq]
    | split
    | with_reducible refine Only.trans ?_ (Only.forEach (fun _ _ => ?_) _ _)
    | with_reducible refine Only.trans ?_ (Only.when (fun _ => ?_) _ _)

theorem estimate_only (k n : Nat) (s : State) :
    Only [.pw] s (estimate k n s) := by
  unfold estimate
  repeat' first
    | simp (maxDischargeDepth := 8) only [*, partsIn_nil, partsIn_cons, Only.self, Only.mk_iff, Only.forEach_iff, Only.when_iff, Only.ite_of, true_or, or_true, and_self, implies_true, List.mem_cons, reduceCtorEq, or_false, false_or, id_eq]
    | split
    | with_reducible refine Only.trans ?_ (Only.forEach (fun _ _ => ?_) _ _)
    | with_reducible refine Only.trans ?_ (Only.when (fun _ => ?_) _ _)

end Sys2Proof.Machine
end

