-- ==== Sys2Proof/Laws/OnlyBanks.lean ====
section
/-!
SUPPORT. Laws/OnlyBanks.lean: what each operation of Machine/Banks.lean may change (generated text, one lemma for each operation).
-/
namespace Sys2Proof.Machine

set_option linter.unusedSimpArgs false
set_option linter.tactic.unusedName false

theorem fwdTrigger_only (kind unit trig : Nat) (s : State) :
    Only [.regs, .tr, .dbg, .fw] s (fwdTrigger kind unit trig s) := by
  unfold fwdTrigger
  repeat' first
    | simp (maxDischargeDepth := 8) only [Only.iff_of (raise_only _ _ ), *, partsIn_nil, partsIn_cons, Only.self, Only.mk_iff, Only.forEach_iff, Only.when_iff, Only.ite_of, true_or, or_true, and_self, implies_true, List.mem_cons, reduceCtorEq, or_false, false_or, id_eq]
    | split
    | with_reducible refine Only.trans ?_ (Only.forEach (fun _ _ => ?_) _ _)
    | with_reducible refine Only.trans ?_ (Only.when (fun _ => ?_) _ _)

theorem openWindow_only (s : State) :
    Only [.fw] s (openWindow s) := by
  unfold openWindow
  repeat' first
    | simp (maxDischargeDepth := 8) only [*, partsIn_nil, partsIn_cons, Only.self, Only.mk_iff, Only.forEach_iff, Only.when_iff, Only.ite_of, true_or, or_true, and_self, implies_true, List.mem_cons, reduceCtorEq, or_false, false_or, id_eq]
    | split
    | with_reducible refine Only.trans ?_ (Only.forEach (fun _ _ => ?_) _ _)
    | with_reducible refine Only.trans ?_ (Only.when (fun _ => ?_) _ _)

theorem openStorm_only (s : State) :
    Only [.fw] s (openStorm s) := by
  unfold openStorm
  repeat' first
    | simp (maxDischargeDepth := 8) only [*, partsIn_nil, partsIn_cons, Only.self, Only.mk_iff, Only.forEach_iff, Only.when_iff, Only.ite_of, true_or, or_true, and_self, implies_true, List.mem_cons, reduceCtorEq, or_false, false_or, id_eq]
    | split
    | with_reducible refine Only.trans ?_ (Only.forEach (fun _ _ => ?_) _ _)
    | with_reducible refine Only.trans ?_ (Only.when (fun _ => ?_) _ _)

theorem fwdCount_only (kind unit thr trig n : Nat) (s : State) :
    Only [.regs, .tr, .dbg, .fw] s (fwdCount kind unit thr trig n s) := by
  unfold fwdCount
  repeat' first
    | simp (maxDischargeDepth := 8) only [Only.iff_of (fwdTrigger_only _ _ _ _ ), Only.iff_of (openWindow_only _ ), *, partsIn_nil, partsIn_cons, Only.self, Only.mk_iff, Only.forEach_iff, Only.when_iff, Only.ite_of, true_or, or_true, and_self, implies_true, List.mem_cons, reduceCtorEq, or_false, false_or, id_eq]
    | split
    | with_reducible refine Only.trans ?_ (Only.forEach (fun _ _ => ?_) _ _)
    | with_reducible refine Only.trans ?_ (Only.when (fun _ => ?_) _ _)

theorem fwdCorrected_only (lb n : Nat) (s : State) :
    Only [.regs, .tr, .dbg, .fw] s (fwdCorrected lb n s) := by
  unfold fwdCorrected
  repeat' first
    | simp (maxDischargeDepth := 8) only [Only.iff_of (fwdCount_only _ _ _ _ _ _ ), *, partsIn_nil, partsIn_cons, Only.self, Only.mk_iff, Only.forEach_iff, Only.when_iff, Only.ite_of, true_or, or_true, and_self, implies_true, List.mem_cons, reduceCtorEq, or_false, false_or, id_eq]
    | split
    | with_reducible refine Only.trans ?_ (Only.forEach (fun _ _ => ?_) _ _)
    | with_reducible refine Only.trans ?_ (Only.when (fun _ => ?_) _ _)

theorem fwdParity_only (kind unit : Nat) (s : State) :
    Only [.regs, .tr, .dbg, .fw] s (fwdParity kind unit s) := by
  unfold fwdParity
  repeat' first
    | simp (maxDischargeDepth := 8) only [Only.iff_of (fwdCount_only _ _ _ _ _ _ ), *, partsIn_nil, partsIn_cons, Only.self, Only.mk_iff, Only.forEach_iff, Only.when_iff, Only.ite_of, true_or, or_true, and_self, implies_true, List.mem_cons, reduceCtorEq, or_false, false_or, id_eq]
    | split
    | with_reducible refine Only.trans ?_ (Only.forEach (fun _ _ => ?_) _ _)
    | with_reducible refine Only.trans ?_ (Only.when (fun _ => ?_) _ _)

theorem stormBank_only (lb : Nat) (s : State) :
    Only [.fw] s (stormBank lb s) := by
  unfold stormBank
  repeat' first
    | simp (maxDischargeDepth := 8) only [Only.iff_of (openStorm_only _ ), *, partsIn_nil, partsIn_cons, Only.self, Only.mk_iff, Only.forEach_iff, Only.when_iff, Only.ite_of, true_or, or_true, and_self, implies_true, List.mem_cons, reduceCtorEq, or_false, false_or, id_eq]
    | split
    | with_reducible refine Only.trans ?_ (Only.forEach (fun _ _ => ?_) _ _)
    | with_reducible refine Only.trans ?_ (Only.when (fun _ => ?_) _ _)

theorem fwdUncorrected_only (copy : Bool) (lb : Nat) (s : State) :
    Only [.regs, .tr, .dbg, .fw] s (fwdUncorrected copy lb s) := by
  unfold fwdUncorrected
  repeat' first
    | simp (maxDischargeDepth := 8) only [Only.iff_of (fwdTrigger_only _ _ _ _ ), Only.iff_of (stormBank_only _ _ ), *, partsIn_nil, partsIn_cons, Only.self, Only.mk_iff, Only.forEach_iff, Only.when_iff, Only.ite_of, true_or, or_true, and_self, implies_true, List.mem_cons, reduceCtorEq, or_false, false_or, id_eq]
    | split
    | with_reducible refine Only.trans ?_ (Only.forEach (fun _ _ => ?_) _ _)
    | with_reducible refine Only.trans ?_ (Only.when (fun _ => ?_) _ _)

theorem setPow_only (pb : Nat) (p : BankPow) (s : State) :
    Only [.bank] s (setPow pb p s) := by
  unfold setPow
  repeat' first
    | simp (maxDischargeDepth := 8) only [*, partsIn_nil, partsIn_cons, Only.self, Only.mk_iff, Only.forEach_iff, Only.when_iff, Only.ite_of, true_or, or_true, and_self, implies_true, List.mem_cons, reduceCtorEq, or_false, false_or, id_eq]
    | split
    | with_reducible refine Only.trans ?_ (Only.forEach (fun _ _ => ?_) _ _)
    | with_reducible refine Only.trans ?_ (Only.when (fun _ => ?_) _ _)

theorem deadAccess_only (lb : Nat) (s : State) :
    Only [.regs, .cnt, .xc, .tr, .dbg] s (deadAccess lb s) := by
  unfold deadAccess
  repeat' first
    | simp (maxDischargeDepth := 8) only [Only.iff_of (bump_only _ _ _ ), Only.iff_of (xbump_only _ _ _ ), Only.iff_of (raise_only _ _ ), *, partsIn_nil, partsIn_cons, Only.self, Only.mk_iff, Only.forEach_iff, Only.when_iff, Only.ite_of, true_or, or_true, and_self, implies_true, List.mem_cons, reduceCtorEq, or_false, false_or, id_eq]
    | split
    | with_reducible refine Only.trans ?_ (Only.forEach (fun _ _ => ?_) _ _)
    | with_reducible refine Only.trans ?_ (Only.when (fun _ => ?_) _ _)

theorem storeChunk_only (pb row c : Nat) (data : BitVec 256) (pois : Bool) (s : State) :
    Only [.mem, .bank] s (storeChunk pb row c data pois s) := by
  unfold storeChunk
  repeat' first
    | simp (maxDischargeDepth := 8) only [*, partsIn_nil, partsIn_cons, Only.self, Only.mk_iff, Only.forEach_iff, Only.when_iff, Only.ite_of, true_or, or_true, and_self, implies_true, List.mem_cons, reduceCtorEq, or_false, false_or, id_eq]
    | split
    | with_reducible refine Only.trans ?_ (Only.forEach (fun _ _ => ?_) _ _)
    | with_reducible refine Only.trans ?_ (Only.when (fun _ => ?_) _ _)

theorem strikeRow_only (pb row : Nat) (ups : List Upset) (s : State) :
    Only [.bank] s (strikeRow pb row ups s) := by
  unfold strikeRow
  repeat' first
    | simp (maxDischargeDepth := 8) only [*, partsIn_nil, partsIn_cons, Only.self, Only.mk_iff, Only.forEach_iff, Only.when_iff, Only.ite_of, true_or, or_true, and_self, implies_true, List.mem_cons, reduceCtorEq, or_false, false_or, id_eq]
    | split
    | with_reducible refine Only.trans ?_ (Only.forEach (fun _ _ => ?_) _ _)
    | with_reducible refine Only.trans ?_ (Only.when (fun _ => ?_) _ _)

theorem eccLog_only (o lb pb row c bitpos : Nat) (r : Reader) (s : State) :
    Only [.regs] s (eccLog o lb pb row c bitpos r s) := by
  unfold eccLog
  repeat' first
    | simp (maxDischargeDepth := 8) only [Only.iff_of (fillLog_only _ _ _ _ ), *, partsIn_nil, partsIn_cons, Only.self, Only.mk_iff, Only.forEach_iff, Only.when_iff, Only.ite_of, true_or, or_true, and_self, implies_true, List.mem_cons, reduceCtorEq, or_false, false_or, id_eq]
    | split
    | with_reducible refine Only.trans ?_ (Only.forEach (fun _ _ => ?_) _ _)
    | with_reducible refine Only.trans ?_ (Only.when (fun _ => ?_) _ _)

theorem accountChunk_only (t lb pb row c : Nat) (r : Reader) (x : ChunkRead) (s : State) :
    Only [.regs, .cnt, .xc, .bank, .tr, .dbg, .fw] s (accountChunk t lb pb row c r x s) := by
  unfold accountChunk
  repeat' first
    | simp (maxDischargeDepth := 8) only [Only.iff_of (bump_only _ _ _ ), Only.iff_of (xbump_only _ _ _ ), Only.iff_of (raise_only _ _ ), Only.iff_of (fwdCorrected_only _ _ _ ), Only.iff_of (fwdUncorrected_only _ _ _ ), Only.iff_of (eccLog_only _ _ _ _ _ _ _ _ ), *, partsIn_nil, partsIn_cons, Only.self, Only.mk_iff, Only.forEach_iff, Only.when_iff, Only.ite_of, true_or, or_true, and_self, implies_true, List.mem_cons, reduceCtorEq, or_false, false_or, id_eq]
    | split
    | with_reducible refine Only.trans ?_ (Only.forEach (fun _ _ => ?_) _ _)
    | with_reducible refine Only.trans ?_ (Only.when (fun _ => ?_) _ _)

theorem readChunk_only (t lb pb row : Nat) (r : Reader) (ups : List Upset) (c : Nat) (s : State) :
    Only [.free, .regs, .cnt, .xc, .bank, .tr, .dbg, .fw] s (readChunk t lb pb row r ups c s).2 := by
  unfold readChunk
  repeat' first
    | simp (maxDischargeDepth := 8) only [Only.iff_of (accountChunk_only _ _ _ _ _ _ _ _ ), *, partsIn_nil, partsIn_cons, Only.self, Only.mk_iff, Only.forEach_iff, Only.when_iff, Only.ite_of, true_or, or_true, and_self, implies_true, List.mem_cons, reduceCtorEq, or_false, false_or, id_eq]
    | split
    | with_reducible refine Only.trans ?_ (Only.forEach (fun _ _ => ?_) _ _)
    | with_reducible refine Only.trans ?_ (Only.when (fun _ => ?_) _ _)

theorem readRowAt_only (t lb pb row : Nat) (r : Reader) (ups : List Upset) (s : State) :
    Only [.free, .regs, .cnt, .xc, .bank, .tr, .dbg, .fw, .pw] s (readRowAt t lb pb row r ups s).2 := by
  unfold readRowAt
  repeat' first
    | simp (maxDischargeDepth := 8) only [Only.iff_of (estimate_only _ _ _ ), Only.iff_of (readChunk_only _ _ _ _ _ _ _ _ ), *, partsIn_nil, partsIn_cons, Only.self, Only.mk_iff, Only.forEach_iff, Only.when_iff, Only.ite_of, true_or, or_true, and_self, implies_true, List.mem_cons, reduceCtorEq, or_false, false_or, id_eq]
    | (refine Only.snd (by assumption) (readChunk_only _ _ _ _ _ _ _ _ ) (by decide) ?_)
    | split
    | with_reducible refine Only.trans ?_ (Only.forEach (fun _ _ => ?_) _ _)
    | with_reducible refine Only.trans ?_ (Only.when (fun _ => ?_) _ _)

theorem readRow_only (t lb row : Nat) (r : Reader) (ups : List Upset) (s : State) :
    Only [.free, .regs, .cnt, .xc, .bank, .tr, .dbg, .fw, .pw] s (readRow t lb row r ups s).2 := by
  unfold readRow
  repeat' first
    | simp (maxDischargeDepth := 8) only [Only.iff_of (readRowAt_only _ _ _ _ _ _ _ ), *, partsIn_nil, partsIn_cons, Only.self, Only.mk_iff, Only.forEach_iff, Only.when_iff, Only.ite_of, true_or, or_true, and_self, implies_true, List.mem_cons, reduceCtorEq, or_false, false_or, id_eq]
    | (refine Only.snd (by assumption) (readRowAt_only _ _ _ _ _ _ _ ) (by decide) ?_)
    | split
    | with_reducible refine Only.trans ?_ (Only.forEach (fun _ _ => ?_) _ _)
    | with_reducible refine Only.trans ?_ (Only.when (fun _ => ?_) _ _)

theorem storeChunks_only (pb row en : Nat) (data : Row) (pois : Mask4) (s : State) :
    Only [.mem, .bank] s (storeChunks pb row en data pois s) := by
  unfold storeChunks
  repeat' first
    | simp (maxDischargeDepth := 8) only [Only.iff_of (storeChunk_only _ _ _ _ _ _ ), *, partsIn_nil, partsIn_cons, Only.self, Only.mk_iff, Only.forEach_iff, Only.when_iff, Only.ite_of, true_or, or_true, and_self, implies_true, List.mem_cons, reduceCtorEq, or_false, false_or, id_eq]
    | split
    | with_reducible refine Only.trans ?_ (Only.forEach (fun _ _ => ?_) _ _)
    | with_reducible refine Only.trans ?_ (Only.when (fun _ => ?_) _ _)

theorem dropWb_only (lb row en : Nat) (s : State) :
    Only [.bank] s (dropWb lb row en s) := by
  unfold dropWb
  repeat' first
    | simp (maxDischargeDepth := 8) only [*, partsIn_nil, partsIn_cons, Only.self, Only.mk_iff, Only.forEach_iff, Only.when_iff, Only.ite_of, true_or, or_true, and_self, implies_true, List.mem_cons, reduceCtorEq, or_false, false_or, id_eq]
    | split
    | with_reducible refine Only.trans ?_ (Only.forEach (fun _ _ => ?_) _ _)
    | with_reducible refine Only.trans ?_ (Only.when (fun _ => ?_) _ _)

theorem dualWrite_only (lb pb row en cls wt : Nat) (s : State) :
    Only [.fw] s (dualWrite lb pb row en cls wt s) := by
  unfold dualWrite
  repeat' first
    | simp (maxDischargeDepth := 8) only [*, partsIn_nil, partsIn_cons, Only.self, Only.mk_iff, Only.forEach_iff, Only.when_iff, Only.ite_of, true_or, or_true, and_self, implies_true, List.mem_cons, reduceCtorEq, or_false, false_or, id_eq]
    | split
    | with_reducible refine Only.trans ?_ (Only.forEach (fun _ _ => ?_) _ _)
    | with_reducible refine Only.trans ?_ (Only.when (fun _ => ?_) _ _)

theorem storeRow_only (lb row en : Nat) (data : Row) (pois : Mask4) (cls wt : Nat) (s : State) :
    Only [.mem, .bank, .fw, .pw] s (storeRow lb row en data pois cls wt s) := by
  unfold storeRow
  repeat' first
    | simp (maxDischargeDepth := 8) only [Only.iff_of (estimate_only _ _ _ ), Only.iff_of (storeChunks_only _ _ _ _ _ _ ), Only.iff_of (dropWb_only _ _ _ _ ), Only.iff_of (dualWrite_only _ _ _ _ _ _ _ ), *, partsIn_nil, partsIn_cons, Only.self, Only.mk_iff, Only.forEach_iff, Only.when_iff, Only.ite_of, true_or, or_true, and_self, implies_true, List.mem_cons, reduceCtorEq, or_false, false_or, id_eq]
    | split
    | with_reducible refine Only.trans ?_ (Only.forEach (fun _ _ => ?_) _ _)
    | with_reducible refine Only.trans ?_ (Only.when (fun _ => ?_) _ _)

theorem keepUndo_only (t seen pb row en : Nat) (port : Bool) (s : State) :
    Only [.bank] s (keepUndo t seen pb row en port s) := by
  unfold keepUndo
  repeat' first
    | simp (maxDischargeDepth := 8) only [*, partsIn_nil, partsIn_cons, Only.self, Only.mk_iff, Only.forEach_iff, Only.when_iff, Only.ite_of, true_or, or_true, and_self, implies_true, List.mem_cons, reduceCtorEq, or_false, false_or, id_eq]
    | split
    | with_reducible refine Only.trans ?_ (Only.forEach (fun _ _ => ?_) _ _)
    | with_reducible refine Only.trans ?_ (Only.when (fun _ => ?_) _ _)

theorem portStore_only (t lb row en : Nat) (port : Bool) (data : Row) (pois : Mask4) (cls wt : Nat) (s : State) :
    Only [.cnt, .xc, .mem, .bank, .fw, .pw] s (portStore t lb row en port data pois cls wt s) := by
  unfold portStore
  repeat' first
    | simp (maxDischargeDepth := 8) only [Only.iff_of (bump_only _ _ _ ), Only.iff_of (xbump_only _ _ _ ), Only.iff_of (storeRow_only _ _ _ _ _ _ _ _ ), Only.iff_of (keepUndo_only _ _ _ _ _ _ _ ), *, partsIn_nil, partsIn_cons, Only.self, Only.mk_iff, Only.forEach_iff, Only.when_iff, Only.ite_of, true_or, or_true, and_self, implies_true, List.mem_cons, reduceCtorEq, or_false, false_or, id_eq]
    | split
    | with_reducible refine Only.trans ?_ (Only.forEach (fun _ _ => ?_) _ _)
    | with_reducible refine Only.trans ?_ (Only.when (fun _ => ?_) _ _)

theorem clearBank_only (pb epoch : Nat) (zf : Bool) (s : State) :
    Only [.mem, .bank] s (clearBank pb epoch zf s) := by
  unfold clearBank
  repeat' first
    | simp (maxDischargeDepth := 8) only [*, partsIn_nil, partsIn_cons, Only.self, Only.mk_iff, Only.forEach_iff, Only.when_iff, Only.ite_of, true_or, or_true, and_self, implies_true, List.mem_cons, reduceCtorEq, or_false, false_or, id_eq]
    | split
    | with_reducible refine Only.trans ?_ (Only.forEach (fun _ _ => ?_) _ _)
    | with_reducible refine Only.trans ?_ (Only.when (fun _ => ?_) _ _)

theorem eraseBank_only (pb : Nat) (s : State) :
    Only [.free, .mem, .bank] s (eraseBank pb s) := by
  unfold eraseBank
  repeat' first
    | simp (maxDischargeDepth := 8) only [Only.iff_of (drawFree_only _ ), Only.iff_of (clearBank_only _ _ _ _ ), *, partsIn_nil, partsIn_cons, Only.self, Only.mk_iff, Only.forEach_iff, Only.when_iff, Only.ite_of, true_or, or_true, and_self, implies_true, List.mem_cons, reduceCtorEq, or_false, false_or, id_eq]
    | (refine Only.snd (by assumption) (drawFree_only _ ) (by decide) ?_)
    | split
    | with_reducible refine Only.trans ?_ (Only.forEach (fun _ _ => ?_) _ _)
    | with_reducible refine Only.trans ?_ (Only.when (fun _ => ?_) _ _)

theorem zeroBank_only (pb : Nat) (s : State) :
    Only [.mem, .bank] s (zeroBank pb s) := by
  unfold zeroBank
  repeat' first
    | simp (maxDischargeDepth := 8) only [Only.iff_of (clearBank_only _ _ _ _ ), *, partsIn_nil, partsIn_cons, Only.self, Only.mk_iff, Only.forEach_iff, Only.when_iff, Only.ite_of, true_or, or_true, and_self, implies_true, List.mem_cons, reduceCtorEq, or_false, false_or, id_eq]
    | split
    | with_reducible refine Only.trans ?_ (Only.forEach (fun _ _ => ?_) _ _)
    | with_reducible refine Only.trans ?_ (Only.when (fun _ => ?_) _ _)

theorem purgeBank_only (pb : Nat) (s : State) :
    Only [.mem, .bank] s (purgeBank pb s) := by
  unfold purgeBank
  repeat' first
    | simp (maxDischargeDepth := 8) only [Only.iff_of (clearBank_only _ _ _ _ ), *, partsIn_nil, partsIn_cons, Only.self, Only.mk_iff, Only.forEach_iff, Only.when_iff, Only.ite_of, true_or, or_true, and_self, implies_true, List.mem_cons, reduceCtorEq, or_false, false_or, id_eq]
    | split
    | with_reducible refine Only.trans ?_ (Only.forEach (fun _ _ => ?_) _ _)
    | with_reducible refine Only.trans ?_ (Only.when (fun _ => ?_) _ _)

end Sys2Proof.Machine
end

