-- ==== Sys2Proof/Laws/OnlyViews.lean ====
section
/-!
SUPPORT. Laws/OnlyViews.lean: what each operation of Machine/Views.lean may change (generated text, one lemma for each operation).
-/
namespace Sys2Proof.Machine

set_option linter.unusedSimpArgs false
set_option linter.tactic.unusedName false

theorem faultRow_only (kind ctx client v : Nat) (off : Int) (store : Bool) (q : Option Nat) (s : State) :
    Only [.regs, .cnt] s (faultRow kind ctx client v off store q s) := by
  unfold faultRow
  repeat' first
    | simp (maxDischargeDepth := 8) only [Only.iff_of (bump_only _ _ _ ), Only.iff_of (fillLog_only _ _ _ _ ), *, partsIn_nil, partsIn_cons, Only.self, Only.mk_iff, Only.forEach_iff, Only.when_iff, Only.ite_of, true_or, or_true, and_self, implies_true, List.mem_cons, reduceCtorEq, or_false, false_or, id_eq]
    | split
    | with_reducible refine Only.trans ?_ (Only.forEach (fun _ _ => ?_) _ _)
    | with_reducible refine Only.trans ?_ (Only.when (fun _ => ?_) _ _)

end Sys2Proof.Machine
end

