-- ==== Sys2Proof/Laws/OnlyBus.lean ====
section
/-!
SUPPORT. Laws/OnlyBus.lean: what each operation of Machine/Bus.lean may change (generated text, one lemma for each operation).
-/
namespace Sys2Proof.Machine

set_option linter.unusedSimpArgs false
set_option linter.tactic.unusedName false

theorem respond_only (d : Word) (err : Bool) (s : State) :
    Only [.bus] s (respond d err s) := by
  unfold respond
  repeat' first
    | simp (maxDischargeDepth := 8) only [*, partsIn_nil, partsIn_cons, Only.self, Only.mk_iff, Only.forEach_iff, Only.when_iff, Only.ite_of, true_or, or_true, and_self, implies_true, List.mem_cons, reduceCtorEq, or_false, false_or, id_eq]
    | split
    | with_reducible refine Only.trans ?_ (Only.forEach (fun _ _ => ?_) _ _)
    | with_reducible refine Only.trans ?_ (Only.when (fun _ => ?_) _ _)

theorem refuse_only (a : BusAcc) (wr : Bool) (o : Nat) (s : State) :
    Only [.regs, .cnt, .bus, .tr, .dbg] s (refuse a wr o s) := by
  unfold refuse
  repeat' first
    | simp (maxDischargeDepth := 8) only [Only.iff_of (bump_only _ _ _ ), Only.iff_of (raise_only _ _ ), Only.iff_of (fillLog_only _ _ _ _ ), Only.iff_of (respond_only _ _ _ ), *, partsIn_nil, partsIn_cons, Only.self, Only.mk_iff, Only.forEach_iff, Only.when_iff, Only.ite_of, true_or, or_true, and_self, implies_true, List.mem_cons, reduceCtorEq, or_false, false_or, id_eq]
    | split
    | with_reducible refine Only.trans ?_ (Only.forEach (fun _ _ => ?_) _ _)
    | with_reducible refine Only.trans ?_ (Only.when (fun _ => ?_) _ _)

theorem busWrite_only {ps : List Part} (a : BusAcc) (o : Nat) (act : State → State) (s : State)
    (hs : partsIn [.bus, .cnt, .dbg, .regs, .tr] ps = true) (ha : ∀ s, Only ps s (act s)) : Only ps s (busWrite a o act s) := by
  have hr : ∀ d e s, Only ps s (respond d e s) := fun d e s =>
    (respond_only d e s).mono (by
      have := @mem_of_partsIn _ _ hs .bus (by decide)
      simpa [partsIn] using this)
  unfold busWrite
  split
  · exact Only.refl _ _
  split
  · exact hr _ _ _
  split
  · exact hr _ _ _
  split
  · refine (refuse_only a true o s).mono ?_
    have h1 := @mem_of_partsIn _ _ hs .bus (by decide)
    have h2 := @mem_of_partsIn _ _ hs .cnt (by decide)
    have h3 := @mem_of_partsIn _ _ hs .dbg (by decide)
    have h4 := @mem_of_partsIn _ _ hs .regs (by decide)
    have h5 := @mem_of_partsIn _ _ hs .tr (by decide)
    simp [partsIn, h1, h2, h3, h4, h5]
  split
  · exact hr _ _ _
  · exact (ha s).trans (hr _ _ _)

theorem busRead_only {ps : List Part} (a : BusAcc) (o : Nat) (act : State → Word × State) (s : State)
    (hs : partsIn [.bus, .cnt, .dbg, .regs, .tr] ps = true) (ha : ∀ s, Only ps s (act s).2) : Only ps s (busRead a o act s) := by
  have hr : ∀ d e s, Only ps s (respond d e s) := fun d e s =>
    (respond_only d e s).mono (by
      have := @mem_of_partsIn _ _ hs .bus (by decide)
      simpa [partsIn] using this)
  unfold busRead
  split
  · exact Only.refl _ _
  split
  · exact hr _ _ _
  split
  · exact hr _ _ _
  split
  · refine (refuse_only a false o s).mono ?_
    have h1 := @mem_of_partsIn _ _ hs .bus (by decide)
    have h2 := @mem_of_partsIn _ _ hs .cnt (by decide)
    have h3 := @mem_of_partsIn _ _ hs .dbg (by decide)
    have h4 := @mem_of_partsIn _ _ hs .regs (by decide)
    have h5 := @mem_of_partsIn _ _ hs .tr (by decide)
    simp [partsIn, h1, h2, h3, h4, h5]
  · exact (ha s).trans (hr _ _ _)

theorem busWriteFor_only {ps : List Part} (a : BusAcc) (o : Nat) (mine : State → Bool) (act : State → State) (s : State)
    (hs : partsIn [.bus, .cnt, .dbg, .regs, .tr] ps = true) (ha : ∀ s, Only ps s (act s)) :
    Only ps s (busWriteFor a o mine act s) := by
  unfold busWriteFor
  split
  · exact busWrite_only a o act s hs ha
  · refine (refuse_only a true o s).mono ?_
    have h1 := @mem_of_partsIn _ _ hs .bus (by decide)
    have h2 := @mem_of_partsIn _ _ hs .cnt (by decide)
    have h3 := @mem_of_partsIn _ _ hs .dbg (by decide)
    have h4 := @mem_of_partsIn _ _ hs .regs (by decide)
    have h5 := @mem_of_partsIn _ _ hs .tr (by decide)
    simp [partsIn, h1, h2, h3, h4, h5]

end Sys2Proof.Machine
end

