-- ==== Sys2Proof/Laws/OnlyPower.lean ====
section
/-!
SUPPORT. Laws/OnlyPower.lean: what each operation of Machine/Power.lean may change (generated text, one lemma for each operation).
-/
namespace Sys2Proof.Machine

set_option linter.unusedSimpArgs false
set_option linter.tactic.unusedName false

theorem refusePower_only (lb : Nat) (s : State) :
    Only [.regs, .tr, .dbg] s (refusePower lb s) := by
  unfold refusePower
  repeat' first
    | simp (maxDischargeDepth := 8) only [Only.iff_of (orReg_only _ _ _ ), Only.iff_of (raise_only _ _ ), *, partsIn_nil, partsIn_cons, Only.self, Only.mk_iff, Only.forEach_iff, Only.when_iff, Only.ite_of, true_or, or_true, and_self, implies_true, List.mem_cons, reduceCtorEq, or_false, false_or, id_eq]
    | split
    | with_reducible refine Only.trans ?_ (Only.forEach (fun _ _ => ?_) _ _)
    | with_reducible refine Only.trans ?_ (Only.when (fun _ => ?_) _ _)

theorem requestSpare_only (lb : Nat) (r : PowReq) (s : State) :
    Only [.bank] s (requestSpare lb r s) := by
  unfold requestSpare
  repeat' first
    | simp (maxDischargeDepth := 8) only [Only.iff_of (setPow_only _ _ _ ), *, partsIn_nil, partsIn_cons, Only.self, Only.mk_iff, Only.forEach_iff, Only.when_iff, Only.ite_of, true_or, or_true, and_self, implies_true, List.mem_cons, reduceCtorEq, or_false, false_or, id_eq]
    | split
    | with_reducible refine Only.trans ?_ (Only.forEach (fun _ _ => ?_) _ _)
    | with_reducible refine Only.trans ?_ (Only.when (fun _ => ?_) _ _)

theorem requestBank_only (lb target : Nat) (zfill : Bool) (s : State) :
    Only [.regs, .bank, .tr, .dbg] s (requestBank lb target zfill s) := by
  unfold requestBank
  repeat' first
    | simp (maxDischargeDepth := 8) only [Only.iff_of (setPow_only _ _ _ ), Only.iff_of (refusePower_only _ _ ), Only.iff_of (requestSpare_only _ _ _ ), *, partsIn_nil, partsIn_cons, Only.self, Only.mk_iff, Only.forEach_iff, Only.when_iff, Only.ite_of, true_or, or_true, and_self, implies_true, List.mem_cons, reduceCtorEq, or_false, false_or, id_eq]
    | split
    | with_reducible refine Only.trans ?_ (Only.forEach (fun _ _ => ?_) _ _)
    | with_reducible refine Only.trans ?_ (Only.when (fun _ => ?_) _ _)

theorem autowake_only (lb : Nat) (s : State) :
    Only [.bank] s (autowake lb s) := by
  unfold autowake
  repeat' first
    | simp (maxDischargeDepth := 8) only [Only.iff_of (setPow_only _ _ _ ), Only.iff_of (requestSpare_only _ _ _ ), *, partsIn_nil, partsIn_cons, Only.self, Only.mk_iff, Only.forEach_iff, Only.when_iff, Only.ite_of, true_or, or_true, and_self, implies_true, List.mem_cons, reduceCtorEq, or_false, false_or, id_eq]
    | split
    | with_reducible refine Only.trans ?_ (Only.forEach (fun _ _ => ?_) _ _)
    | with_reducible refine Only.trans ?_ (Only.when (fun _ => ?_) _ _)

theorem storeWb_only (lb : Nat) (s : State) :
    Only [.mem, .bank, .fw, .pw] s (storeWb lb s) := by
  unfold storeWb
  repeat' first
    | simp (maxDischargeDepth := 8) only [Only.iff_of (storeRow_only _ _ _ _ _ _ _ _ ), *, partsIn_nil, partsIn_cons, Only.self, Only.mk_iff, Only.forEach_iff, Only.when_iff, Only.ite_of, true_or, or_true, and_self, implies_true, List.mem_cons, reduceCtorEq, or_false, false_or, id_eq]
    | split
    | with_reducible refine Only.trans ?_ (Only.forEach (fun _ _ => ?_) _ _)
    | with_reducible refine Only.trans ?_ (Only.when (fun _ => ?_) _ _)

theorem powerContents_only (pb from_ : Nat) (r : PowReq) (s : State) :
    Only [.free, .mem, .bank, .pw] s (powerContents pb from_ r s) := by
  unfold powerContents
  repeat' first
    | simp (maxDischargeDepth := 8) only [Only.iff_of (estimate_only _ _ _ ), Only.iff_of (clearBank_only _ _ _ _ ), Only.iff_of (eraseBank_only _ _ ), Only.iff_of (zeroBank_only _ _ ), *, partsIn_nil, partsIn_cons, Only.self, Only.mk_iff, Only.forEach_iff, Only.when_iff, Only.ite_of, true_or, or_true, and_self, implies_true, List.mem_cons, reduceCtorEq, or_false, false_or, id_eq]
    | split
    | with_reducible refine Only.trans ?_ (Only.forEach (fun _ _ => ?_) _ _)
    | with_reducible refine Only.trans ?_ (Only.when (fun _ => ?_) _ _)

theorem refuseHeld_only (pb : Nat) (p : BankPow) (reached : Nat) (s : State) :
    Only [.regs, .tr, .dbg] s (refuseHeld pb p reached s) := by
  unfold refuseHeld
  repeat' first
    | simp (maxDischargeDepth := 8) only [Only.iff_of (refusePower_only _ _ ), *, partsIn_nil, partsIn_cons, Only.self, Only.mk_iff, Only.forEach_iff, Only.when_iff, Only.ite_of, true_or, or_true, and_self, implies_true, List.mem_cons, reduceCtorEq, or_false, false_or, id_eq]
    | split
    | with_reducible refine Only.trans ?_ (Only.forEach (fun _ _ => ?_) _ _)
    | with_reducible refine Only.trans ?_ (Only.when (fun _ => ?_) _ _)

theorem requestBanks_only (n : Nat) (w : Word) (s : State) :
    Only [.regs, .bank, .tr, .dbg] s (requestBanks n w s) := by
  unfold requestBanks
  repeat' first
    | simp (maxDischargeDepth := 8) only [Only.iff_of (setReg_only _ _ _ ), Only.iff_of (requestBank_only _ _ _ _ ), *, partsIn_nil, partsIn_cons, Only.self, Only.mk_iff, Only.forEach_iff, Only.when_iff, Only.ite_of, true_or, or_true, and_self, implies_true, List.mem_cons, reduceCtorEq, or_false, false_or, id_eq]
    | split
    | with_reducible refine Only.trans ?_ (Only.forEach (fun _ _ => ?_) _ _)
    | with_reducible refine Only.trans ?_ (Only.when (fun _ => ?_) _ _)

theorem fwdDone_only (kind : Nat) (nospare : Bool) (from_ dest trig : Nat) (s : State) :
    Only [.regs, .tr, .dbg, .fw] s (fwdDone kind nospare from_ dest trig s) := by
  unfold fwdDone
  repeat' first
    | simp (maxDischargeDepth := 8) only [Only.iff_of (raise_only _ _ ), *, partsIn_nil, partsIn_cons, Only.self, Only.mk_iff, Only.forEach_iff, Only.when_iff, Only.ite_of, true_or, or_true, and_self, implies_true, List.mem_cons, reduceCtorEq, or_false, false_or, id_eq]
    | split
    | with_reducible refine Only.trans ?_ (Only.forEach (fun _ _ => ?_) _ _)
    | with_reducible refine Only.trans ?_ (Only.when (fun _ => ?_) _ _)

theorem finishMig_only (m : Mig) (held : Option PowReq) (tail : Option Mig) (s : State) :
    Only [.regs, .bank, .fr, .tr, .dbg, .fw] s (finishMig m held tail s) := by
  unfold finishMig
  repeat' first
    | simp (maxDischargeDepth := 8) only [Only.iff_of (setRegF_only _ _ _ _ _ ), Only.iff_of (orReg_only _ _ _ ), Only.iff_of (clrReg_only _ _ _ ), Only.iff_of (dropJobs_only _ _ ), Only.iff_of (setPow_only _ _ _ ), Only.iff_of (fwdDone_only _ _ _ _ _ _ ), *, partsIn_nil, partsIn_cons, Only.self, Only.mk_iff, Only.forEach_iff, Only.when_iff, Only.ite_of, true_or, or_true, and_self, implies_true, List.mem_cons, reduceCtorEq, or_false, false_or, id_eq]
    | split
    | with_reducible refine Only.trans ?_ (Only.forEach (fun _ _ => ?_) _ _)
    | with_reducible refine Only.trans ?_ (Only.when (fun _ => ?_) _ _)

theorem endTail_only (s : State) :
    Only [.fr, .fw] s (endTail s) := by
  unfold endTail
  repeat' first
    | simp (maxDischargeDepth := 8) only [Only.iff_of (dropJobs_only _ _ ), *, partsIn_nil, partsIn_cons, Only.self, Only.mk_iff, Only.forEach_iff, Only.when_iff, Only.ite_of, true_or, or_true, and_self, implies_true, List.mem_cons, reduceCtorEq, or_false, false_or, id_eq]
    | split
    | with_reducible refine Only.trans ?_ (Only.forEach (fun _ _ => ?_) _ _)
    | with_reducible refine Only.trans ?_ (Only.when (fun _ => ?_) _ _)

theorem offEndsMig_only (pb target : Nat) (s : State) :
    Only [.regs, .bank, .fr, .tr, .dbg, .fw] s (offEndsMig pb target s) := by
  unfold offEndsMig
  repeat' first
    | simp (maxDischargeDepth := 8) only [Only.iff_of (finishMig_only _ _ _ _ ), Only.iff_of (endTail_only _ ), *, partsIn_nil, partsIn_cons, Only.self, Only.mk_iff, Only.forEach_iff, Only.when_iff, Only.ite_of, true_or, or_true, and_self, implies_true, List.mem_cons, reduceCtorEq, or_false, false_or, id_eq]
    | split
    | with_reducible refine Only.trans ?_ (Only.forEach (fun _ _ => ?_) _ _)
    | with_reducible refine Only.trans ?_ (Only.when (fun _ => ?_) _ _)

theorem cancelMig_only (s : State) :
    Only [.regs, .bank, .fr, .tr, .dbg, .fw] s (cancelMig s) := by
  unfold cancelMig
  repeat' first
    | simp (maxDischargeDepth := 8) only [Only.iff_of (raise_only _ _ ), Only.iff_of (dropJobs_only _ _ ), Only.iff_of (setPow_only _ _ _ ), Only.iff_of (endTail_only _ ), *, partsIn_nil, partsIn_cons, Only.self, Only.mk_iff, Only.forEach_iff, Only.when_iff, Only.ite_of, true_or, or_true, and_self, implies_true, List.mem_cons, reduceCtorEq, or_false, false_or, id_eq]
    | split
    | with_reducible refine Only.trans ?_ (Only.forEach (fun _ _ => ?_) _ _)
    | with_reducible refine Only.trans ?_ (Only.when (fun _ => ?_) _ _)

theorem settleWb_only (pb target : Nat) (s : State) :
    Only [.mem, .bank, .fw, .pw] s (settleWb pb target s) := by
  unfold settleWb
  repeat' first
    | simp (maxDischargeDepth := 8) only [Only.iff_of (storeWb_only _ _ ), *, partsIn_nil, partsIn_cons, Only.self, Only.mk_iff, Only.forEach_iff, Only.when_iff, Only.ite_of, true_or, or_true, and_self, implies_true, List.mem_cons, reduceCtorEq, or_false, false_or, id_eq]
    | split
    | with_reducible refine Only.trans ?_ (Only.forEach (fun _ _ => ?_) _ _)
    | with_reducible refine Only.trans ?_ (Only.when (fun _ => ?_) _ _)

theorem setDom_only (i : Nat) (p : BankPow) (s : State) :
    Only [.pw] s (setDom i p s) := by
  unfold setDom
  repeat' first
    | simp (maxDischargeDepth := 8) only [*, partsIn_nil, partsIn_cons, Only.self, Only.mk_iff, Only.forEach_iff, Only.when_iff, Only.ite_of, true_or, or_true, and_self, implies_true, List.mem_cons, reduceCtorEq, or_false, false_or, id_eq]
    | split
    | with_reducible refine Only.trans ?_ (Only.forEach (fun _ _ => ?_) _ _)
    | with_reducible refine Only.trans ?_ (Only.when (fun _ => ?_) _ _)

theorem requestDomain_only (i : Nat) (on : Bool) (s : State) :
    Only [.regs, .tr, .dbg, .pw] s (requestDomain i on s) := by
  unfold requestDomain
  repeat' first
    | simp (maxDischargeDepth := 8) only [Only.iff_of (setRegF_only _ _ _ _ _ ), Only.iff_of (orReg_only _ _ _ ), Only.iff_of (raise_only _ _ ), Only.iff_of (setDom_only _ _ _ ), *, partsIn_nil, partsIn_cons, Only.self, Only.mk_iff, Only.forEach_iff, Only.when_iff, Only.ite_of, true_or, or_true, and_self, implies_true, List.mem_cons, reduceCtorEq, or_false, false_or, id_eq]
    | split
    | with_reducible refine Only.trans ?_ (Only.forEach (fun _ _ => ?_) _ _)
    | with_reducible refine Only.trans ?_ (Only.when (fun _ => ?_) _ _)

theorem requestDomains_only (w : Word) (s : State) :
    Only [.regs, .tr, .dbg, .pw] s (requestDomains w s) := by
  unfold requestDomains
  repeat' first
    | simp (maxDischargeDepth := 8) only [Only.iff_of (requestDomain_only _ _ _ ), *, partsIn_nil, partsIn_cons, Only.self, Only.mk_iff, Only.forEach_iff, Only.when_iff, Only.ite_of, true_or, or_true, and_self, implies_true, List.mem_cons, reduceCtorEq, or_false, false_or, id_eq]
    | split
    | with_reducible refine Only.trans ?_ (Only.forEach (fun _ _ => ?_) _ _)
    | with_reducible refine Only.trans ?_ (Only.when (fun _ => ?_) _ _)

theorem domLoses_only (i : Nat) (s : State) :
    Only [.rx] s (domLoses i s) := by
  unfold domLoses
  repeat' first
    | simp (maxDischargeDepth := 8) only [*, partsIn_nil, partsIn_cons, Only.self, Only.mk_iff, Only.forEach_iff, Only.when_iff, Only.ite_of, true_or, or_true, and_self, implies_true, List.mem_cons, reduceCtorEq, or_false, false_or, id_eq]
    | split
    | with_reducible refine Only.trans ?_ (Only.forEach (fun _ _ => ?_) _ _)
    | with_reducible refine Only.trans ?_ (Only.when (fun _ => ?_) _ _)

end Sys2Proof.Machine
end

