-- ==== Sys2Proof/Laws/OnlyOperands.lean ====
section
/-!
SUPPORT. Laws/OnlyOperands.lean: what each operation of Machine/Operands.lean may change (generated text, one lemma for each operation).
-/
namespace Sys2Proof.Machine

set_option linter.unusedSimpArgs false
set_option linter.tactic.unusedName false

theorem setSlip_only (x : Slip) (s : State) :
    Only [.sq] s (setSlip x s) := by
  unfold setSlip
  repeat' first
    | simp (maxDischargeDepth := 8) only [*, partsIn_nil, partsIn_cons, Only.self, Only.mk_iff, Only.forEach_iff, Only.when_iff, Only.ite_of, true_or, or_true, and_self, implies_true, List.mem_cons, reduceCtorEq, or_false, false_or, id_eq]
    | split
    | with_reducible refine Only.trans ?_ (Only.forEach (fun _ _ => ?_) _ _)
    | with_reducible refine Only.trans ?_ (Only.when (fun _ => ?_) _ _)

theorem updSlip_only (sid : Nat) (f : Slip → Slip) (s : State) :
    Only [.sq] s (updSlip sid f s) := by
  unfold updSlip
  repeat' first
    | simp (maxDischargeDepth := 8) only [*, partsIn_nil, partsIn_cons, Only.self, Only.mk_iff, Only.forEach_iff, Only.when_iff, Only.ite_of, true_or, or_true, and_self, implies_true, List.mem_cons, reduceCtorEq, or_false, false_or, id_eq]
    | split
    | with_reducible refine Only.trans ?_ (Only.forEach (fun _ _ => ?_) _ _)
    | with_reducible refine Only.trans ?_ (Only.when (fun _ => ?_) _ _)

theorem addTr_only (t : Tr) (s : State) :
    Only [.fr] s (addTr t s) := by
  unfold addTr
  repeat' first
    | simp (maxDischargeDepth := 8) only [*, partsIn_nil, partsIn_cons, Only.self, Only.mk_iff, Only.forEach_iff, Only.when_iff, Only.ite_of, true_or, or_true, and_self, implies_true, List.mem_cons, reduceCtorEq, or_false, false_or, id_eq]
    | split
    | with_reducible refine Only.trans ?_ (Only.forEach (fun _ _ => ?_) _ _)
    | with_reducible refine Only.trans ?_ (Only.when (fun _ => ?_) _ _)

theorem setRlane_only (l : Nat) (x : RLane) (s : State) :
    Only [.fr] s (setRlane l x s) := by
  unfold setRlane
  repeat' first
    | simp (maxDischargeDepth := 8) only [*, partsIn_nil, partsIn_cons, Only.self, Only.mk_iff, Only.forEach_iff, Only.when_iff, Only.ite_of, true_or, or_true, and_self, implies_true, List.mem_cons, reduceCtorEq, or_false, false_or, id_eq]
    | split
    | with_reducible refine Only.trans ?_ (Only.forEach (fun _ _ => ?_) _ _)
    | with_reducible refine Only.trans ?_ (Only.when (fun _ => ?_) _ _)

theorem updRlane_only (l : Nat) (f : RLane → RLane) (s : State) :
    Only [.fr] s (updRlane l f s) := by
  unfold updRlane
  repeat' first
    | simp (maxDischargeDepth := 8) only [Only.iff_of (setRlane_only _ _ _ ), *, partsIn_nil, partsIn_cons, Only.self, Only.mk_iff, Only.forEach_iff, Only.when_iff, Only.ite_of, true_or, or_true, and_self, implies_true, List.mem_cons, reduceCtorEq, or_false, false_or, id_eq]
    | split
    | with_reducible refine Only.trans ?_ (Only.forEach (fun _ _ => ?_) _ _)
    | with_reducible refine Only.trans ?_ (Only.when (fun _ => ?_) _ _)

theorem setWlane_only (l : Nat) (x : WLane) (s : State) :
    Only [.fr] s (setWlane l x s) := by
  unfold setWlane
  repeat' first
    | simp (maxDischargeDepth := 8) only [*, partsIn_nil, partsIn_cons, Only.self, Only.mk_iff, Only.forEach_iff, Only.when_iff, Only.ite_of, true_or, or_true, and_self, implies_true, List.mem_cons, reduceCtorEq, or_false, false_or, id_eq]
    | split
    | with_reducible refine Only.trans ?_ (Only.forEach (fun _ _ => ?_) _ _)
    | with_reducible refine Only.trans ?_ (Only.when (fun _ => ?_) _ _)

theorem updWlane_only (l : Nat) (f : WLane → WLane) (s : State) :
    Only [.fr] s (updWlane l f s) := by
  unfold updWlane
  repeat' first
    | simp (maxDischargeDepth := 8) only [Only.iff_of (setWlane_only _ _ _ ), *, partsIn_nil, partsIn_cons, Only.self, Only.mk_iff, Only.forEach_iff, Only.when_iff, Only.ite_of, true_or, or_true, and_self, implies_true, List.mem_cons, reduceCtorEq, or_false, false_or, id_eq]
    | split
    | with_reducible refine Only.trans ?_ (Only.forEach (fun _ _ => ?_) _ _)
    | with_reducible refine Only.trans ?_ (Only.when (fun _ => ?_) _ _)

theorem setTr_only (t : Tr) (s : State) :
    Only [.fr] s (setTr t s) := by
  unfold setTr
  repeat' first
    | simp (maxDischargeDepth := 8) only [*, partsIn_nil, partsIn_cons, Only.self, Only.mk_iff, Only.forEach_iff, Only.when_iff, Only.ite_of, true_or, or_true, and_self, implies_true, List.mem_cons, reduceCtorEq, or_false, false_or, id_eq]
    | split
    | with_reducible refine Only.trans ?_ (Only.forEach (fun _ _ => ?_) _ _)
    | with_reducible refine Only.trans ?_ (Only.when (fun _ => ?_) _ _)

end Sys2Proof.Machine
end

