-- ==== Sys2Proof/Laws/OnlyTrace.lean ====
section
/-!
SUPPORT. Laws/OnlyTrace.lean: what each operation of Machine/Trace.lean may change (generated text, one lemma for each operation).
-/
namespace Sys2Proof.Machine

set_option linter.unusedSimpArgs false
set_option linter.tactic.unusedName false

theorem raiseLost_only (eg : Bool) (s : State) :
    Only [.regs, .tr, .dbg] s (raiseLost eg s) := by
  unfold raiseLost
  repeat' first
    | simp (maxDischargeDepth := 8) only [Only.iff_of (raise_only _ _ ), *, partsIn_nil, partsIn_cons, Only.self, Only.mk_iff, Only.forEach_iff, Only.when_iff, Only.ite_of, true_or, or_true, and_self, implies_true, List.mem_cons, reduceCtorEq, or_false, false_or, id_eq]
    | split
    | with_reducible refine Only.trans ?_ (Only.forEach (fun _ _ => ?_) _ _)
    | with_reducible refine Only.trans ?_ (Only.when (fun _ => ?_) _ _)

theorem loseBuffer_only (r : Rec) (s : State) :
    Only [.regs, .cnt, .tr, .dbg] s (loseBuffer r s) := by
  unfold loseBuffer
  repeat' first
    | simp (maxDischargeDepth := 8) only [Only.iff_of (orReg_only _ _ _ ), Only.iff_of (bump_only _ _ _ ), Only.iff_of (raiseLost_only _ _ ), *, partsIn_nil, partsIn_cons, Only.self, Only.mk_iff, Only.forEach_iff, Only.when_iff, Only.ite_of, true_or, or_true, and_self, implies_true, List.mem_cons, reduceCtorEq, or_false, false_or, id_eq]
    | split
    | with_reducible refine Only.trans ?_ (Only.forEach (fun _ _ => ?_) _ _)
    | with_reducible refine Only.trans ?_ (Only.when (fun _ => ?_) _ _)

theorem loseEgress_only (r : Rec) (s : State) :
    Only [.regs, .cnt, .tr, .dbg] s (loseEgress r s) := by
  unfold loseEgress
  repeat' first
    | simp (maxDischargeDepth := 8) only [Only.iff_of (orReg_only _ _ _ ), Only.iff_of (bump_only _ _ _ ), Only.iff_of (raiseLost_only _ _ ), *, partsIn_nil, partsIn_cons, Only.self, Only.mk_iff, Only.forEach_iff, Only.when_iff, Only.ite_of, true_or, or_true, and_self, implies_true, List.mem_cons, reduceCtorEq, or_false, false_or, id_eq]
    | split
    | with_reducible refine Only.trans ?_ (Only.forEach (fun _ _ => ?_) _ _)
    | with_reducible refine Only.trans ?_ (Only.when (fun _ => ?_) _ _)

theorem watchLost_only (u : Nat) (s : State) :
    Only [.regs] s (watchLost u s) := by
  unfold watchLost
  repeat' first
    | simp (maxDischargeDepth := 8) only [Only.iff_of (setReg_only _ _ _ ), Only.iff_of (orReg_only _ _ _ ), *, partsIn_nil, partsIn_cons, Only.self, Only.mk_iff, Only.forEach_iff, Only.when_iff, Only.ite_of, true_or, or_true, and_self, implies_true, List.mem_cons, reduceCtorEq, or_false, false_or, id_eq]
    | split
    | with_reducible refine Only.trans ?_ (Only.forEach (fun _ _ => ?_) _ _)
    | with_reducible refine Only.trans ?_ (Only.when (fun _ => ?_) _ _)

theorem loseBoth_only (r : Rec) (s : State) :
    Only [.regs, .cnt, .tr, .dbg] s (loseBoth r s) := by
  unfold loseBoth
  repeat' first
    | simp (maxDischargeDepth := 8) only [Only.iff_of (orReg_only _ _ _ ), Only.iff_of (bump_only _ _ _ ), Only.iff_of (raiseLost_only _ _ ), Only.iff_of (watchLost_only _ _ ), *, partsIn_nil, partsIn_cons, Only.self, Only.mk_iff, Only.forEach_iff, Only.when_iff, Only.ite_of, true_or, or_true, and_self, implies_true, List.mem_cons, reduceCtorEq, or_false, false_or, id_eq]
    | split
    | with_reducible refine Only.trans ?_ (Only.forEach (fun _ _ => ?_) _ _)
    | with_reducible refine Only.trans ?_ (Only.when (fun _ => ?_) _ _)

theorem collectOne_only (r : Rec) (x : Nat × State) :
    Only [.regs, .cnt, .tr, .dbg] x.2 (collectOne r x).2 := by
  unfold collectOne
  repeat' first
    | simp (maxDischargeDepth := 8) only [Only.iff_of (bump_only _ _ _ ), Only.iff_of (loseBoth_only _ _ ), *, partsIn_nil, partsIn_cons, Only.self, Only.mk_iff, Only.forEach_iff, Only.when_iff, Only.ite_of, true_or, or_true, and_self, implies_true, List.mem_cons, reduceCtorEq, or_false, false_or, id_eq]
    | split
    | with_reducible refine Only.trans ?_ (Only.forEach (fun _ _ => ?_) _ _)
    | with_reducible refine Only.trans ?_ (Only.when (fun _ => ?_) _ _)

theorem collectGo_only (l : List Rec) (x : Nat × State) : Only [.regs, .cnt, .tr, .dbg] x.2 (collectGo l x) := by
  induction l generalizing x with
  | nil => exact Only.refl _ _
  | cons r rs ih => exact (collectOne_only r x).trans (ih _)

theorem advanceRing_only (n : Nat) (s : State) :
    Only [.regs, .tr] s (advanceRing n s) := by
  unfold advanceRing
  repeat' first
    | simp (maxDischargeDepth := 8) only [Only.iff_of (setReg_only _ _ _ ), *, partsIn_nil, partsIn_cons, Only.self, Only.mk_iff, Only.forEach_iff, Only.when_iff, Only.ite_of, true_or, or_true, and_self, implies_true, List.mem_cons, reduceCtorEq, or_false, false_or, id_eq]
    | split
    | with_reducible refine Only.trans ?_ (Only.forEach (fun _ _ => ?_) _ _)
    | with_reducible refine Only.trans ?_ (Only.when (fun _ => ?_) _ _)

theorem askTraceRows_only (part : Bool) (n : Nat) (s : State) : Only [.fr] s (askTraceRows part n s) := by
  induction n generalizing s with
  | zero => exact Only.refl _ _
  | succ n ih =>
    unfold askTraceRows
    repeat' first
      | simp (maxDischargeDepth := 8) only [Only.iff_of (ih _), Only.iff_of (addTr_only _ _), *, partsIn_nil, partsIn_cons, Only.self, Only.mk_iff, Only.forEach_iff, Only.when_iff, Only.ite_of, true_or, or_true, and_self, implies_true, List.mem_cons, reduceCtorEq, or_false, false_or, id_eq]
      | split

theorem writeTrace_only (part : Bool) (s : State) :
    Only [.fr] s (writeTrace part s) := by
  unfold writeTrace
  repeat' first
    | simp (maxDischargeDepth := 8) only [Only.iff_of (askTraceRows_only _ _ _ ), *, partsIn_nil, partsIn_cons, Only.self, Only.mk_iff, Only.forEach_iff, Only.when_iff, Only.ite_of, true_or, or_true, and_self, implies_true, List.mem_cons, reduceCtorEq, or_false, false_or, id_eq]
    | split
    | with_reducible refine Only.trans ?_ (Only.forEach (fun _ _ => ?_) _ _)
    | with_reducible refine Only.trans ?_ (Only.when (fun _ => ?_) _ _)

theorem writeStopSlot_only (r : Rec) (s : State) :
    Only [.regs, .fr, .tr] s (writeStopSlot r s) := by
  unfold writeStopSlot
  repeat' first
    | simp (maxDischargeDepth := 8) only [Only.iff_of (orReg_only _ _ _ ), Only.iff_of (addTr_only _ _ ), *, partsIn_nil, partsIn_cons, Only.self, Only.mk_iff, Only.forEach_iff, Only.when_iff, Only.ite_of, true_or, or_true, and_self, implies_true, List.mem_cons, reduceCtorEq, or_false, false_or, id_eq]
    | split
    | with_reducible refine Only.trans ?_ (Only.forEach (fun _ _ => ?_) _ _)
    | with_reducible refine Only.trans ?_ (Only.when (fun _ => ?_) _ _)

theorem acceptRec_only (r : Rec) (s : State) :
    Only [.regs, .tr] s (acceptRec r s) := by
  unfold acceptRec
  repeat' first
    | simp (maxDischargeDepth := 8) only [Only.iff_of (setReg_only _ _ _ ), *, partsIn_nil, partsIn_cons, Only.self, Only.mk_iff, Only.forEach_iff, Only.when_iff, Only.ite_of, true_or, or_true, and_self, implies_true, List.mem_cons, reduceCtorEq, or_false, false_or, id_eq]
    | split
    | with_reducible refine Only.trans ?_ (Only.forEach (fun _ _ => ?_) _ _)
    | with_reducible refine Only.trans ?_ (Only.when (fun _ => ?_) _ _)

theorem refuseRec_only (r : Rec) (s : State) :
    Only [.regs, .cnt, .fr, .tr, .dbg] s (refuseRec r s) := by
  unfold refuseRec
  repeat' first
    | simp (maxDischargeDepth := 8) only [Only.iff_of (bump_only _ _ _ ), Only.iff_of (loseBuffer_only _ _ ), Only.iff_of (writeStopSlot_only _ _ ), *, partsIn_nil, partsIn_cons, Only.self, Only.mk_iff, Only.forEach_iff, Only.when_iff, Only.ite_of, true_or, or_true, and_self, implies_true, List.mem_cons, reduceCtorEq, or_false, false_or, id_eq]
    | split
    | with_reducible refine Only.trans ?_ (Only.forEach (fun _ _ => ?_) _ _)
    | with_reducible refine Only.trans ?_ (Only.when (fun _ => ?_) _ _)

theorem acceptGap_only (need : Nat) (s : State) :
    Only [.regs, .cnt, .fr, .tr, .dbg] s (acceptGap need s) := by
  unfold acceptGap
  repeat' first
    | simp (maxDischargeDepth := 8) only [Only.iff_of (clrReg_only _ _ _ ), Only.iff_of (acceptRec_only _ _ ), Only.iff_of (refuseRec_only _ _ ), *, partsIn_nil, partsIn_cons, Only.self, Only.mk_iff, Only.forEach_iff, Only.when_iff, Only.ite_of, true_or, or_true, and_self, implies_true, List.mem_cons, reduceCtorEq, or_false, false_or, id_eq]
    | split
    | with_reducible refine Only.trans ?_ (Only.forEach (fun _ _ => ?_) _ _)
    | with_reducible refine Only.trans ?_ (Only.when (fun _ => ?_) _ _)

theorem bufferRec_only (r : Rec) (s : State) :
    Only [.regs, .cnt, .fr, .tr, .dbg] s (bufferRec r s) := by
  unfold bufferRec
  repeat' first
    | simp (maxDischargeDepth := 8) only [Only.iff_of (acceptRec_only _ _ ), Only.iff_of (refuseRec_only _ _ ), Only.iff_of (acceptGap_only _ _ ), *, partsIn_nil, partsIn_cons, Only.self, Only.mk_iff, Only.forEach_iff, Only.when_iff, Only.ite_of, true_or, or_true, and_self, implies_true, List.mem_cons, reduceCtorEq, or_false, false_or, id_eq]
    | split
    | with_reducible refine Only.trans ?_ (Only.forEach (fun _ _ => ?_) _ _)
    | with_reducible refine Only.trans ?_ (Only.when (fun _ => ?_) _ _)

theorem pushEgress_only (r : Rec) (s : State) :
    Only [.tr] s (pushEgress r s) := by
  unfold pushEgress
  repeat' first
    | simp (maxDischargeDepth := 8) only [*, partsIn_nil, partsIn_cons, Only.self, Only.mk_iff, Only.forEach_iff, Only.when_iff, Only.ite_of, true_or, or_true, and_self, implies_true, List.mem_cons, reduceCtorEq, or_false, false_or, id_eq]
    | split
    | with_reducible refine Only.trans ?_ (Only.forEach (fun _ _ => ?_) _ _)
    | with_reducible refine Only.trans ?_ (Only.when (fun _ => ?_) _ _)

theorem egressGap_only (n : Nat) (s : State) :
    Only [.regs, .cnt, .tr, .dbg] s (egressGap n s) := by
  unfold egressGap
  repeat' first
    | simp (maxDischargeDepth := 8) only [Only.iff_of (clrReg_only _ _ _ ), Only.iff_of (loseEgress_only _ _ ), Only.iff_of (pushEgress_only _ _ ), *, partsIn_nil, partsIn_cons, Only.self, Only.mk_iff, Only.forEach_iff, Only.when_iff, Only.ite_of, true_or, or_true, and_self, implies_true, List.mem_cons, reduceCtorEq, or_false, false_or, id_eq]
    | split
    | with_reducible refine Only.trans ?_ (Only.forEach (fun _ _ => ?_) _ _)
    | with_reducible refine Only.trans ?_ (Only.when (fun _ => ?_) _ _)

theorem egressRec_only (r : Rec) (s : State) :
    Only [.regs, .cnt, .tr, .dbg] s (egressRec r s) := by
  unfold egressRec
  repeat' first
    | simp (maxDischargeDepth := 8) only [Only.iff_of (loseEgress_only _ _ ), Only.iff_of (pushEgress_only _ _ ), Only.iff_of (egressGap_only _ _ ), *, partsIn_nil, partsIn_cons, Only.self, Only.mk_iff, Only.forEach_iff, Only.when_iff, Only.ite_of, true_or, or_true, and_self, implies_true, List.mem_cons, reduceCtorEq, or_false, false_or, id_eq]
    | split
    | with_reducible refine Only.trans ?_ (Only.forEach (fun _ _ => ?_) _ _)
    | with_reducible refine Only.trans ?_ (Only.when (fun _ => ?_) _ _)

theorem drainTrace_only (n : Nat) (s : State) : Only [.regs, .cnt, .fr, .tr, .dbg] s (drainTrace n s) := by
  induction n generalizing s with
  | zero => exact Only.refl _ _
  | succ n ih =>
    unfold drainTrace
    repeat' first
      | simp (maxDischargeDepth := 8) only [Only.iff_of (ih _), Only.iff_of (writeTrace_only _ _), Only.iff_of (egressRec_only _ _), Only.iff_of (bufferRec_only _ _), *, partsIn_nil, partsIn_cons, Only.self, Only.mk_iff, Only.forEach_iff, Only.when_iff, Only.ite_of, true_or, or_true, and_self, implies_true, List.mem_cons, reduceCtorEq, or_false, false_or, id_eq]
      | split

theorem rearmTrace_only (s : State) :
    Only [.regs, .tr] s (rearmTrace s) := by
  unfold rearmTrace
  repeat' first
    | simp (maxDischargeDepth := 8) only [Only.iff_of (clrReg_only _ _ _ ), *, partsIn_nil, partsIn_cons, Only.self, Only.mk_iff, Only.forEach_iff, Only.when_iff, Only.ite_of, true_or, or_true, and_self, implies_true, List.mem_cons, reduceCtorEq, or_false, false_or, id_eq]
    | split
    | with_reducible refine Only.trans ?_ (Only.forEach (fun _ _ => ?_) _ _)
    | with_reducible refine Only.trans ?_ (Only.when (fun _ => ?_) _ _)

theorem writeRptr_only (w : Word) (s : State) :
    Only [.regs] s (writeRptr w s) := by
  unfold writeRptr
  repeat' first
    | simp (maxDischargeDepth := 8) only [Only.iff_of (setReg_only _ _ _ ), Only.iff_of (orReg_only _ _ _ ), *, partsIn_nil, partsIn_cons, Only.self, Only.mk_iff, Only.forEach_iff, Only.when_iff, Only.ite_of, true_or, or_true, and_self, implies_true, List.mem_cons, reduceCtorEq, or_false, false_or, id_eq]
    | split
    | with_reducible refine Only.trans ?_ (Only.forEach (fun _ _ => ?_) _ _)
    | with_reducible refine Only.trans ?_ (Only.when (fun _ => ?_) _ _)

theorem startTrace_only (s : State) :
    Only [.regs, .fr, .tr] s (startTrace s) := by
  unfold startTrace
  repeat' first
    | simp (maxDischargeDepth := 8) only [Only.iff_of (setReg_only _ _ _ ), Only.iff_of (orReg_only _ _ _ ), Only.iff_of (clrReg_only _ _ _ ), Only.iff_of (genTime_only _ _ _ ), Only.iff_of (dropJobs_only _ _ ), *, partsIn_nil, partsIn_cons, Only.self, Only.mk_iff, Only.forEach_iff, Only.when_iff, Only.ite_of, true_or, or_true, and_self, implies_true, List.mem_cons, reduceCtorEq, or_false, false_or, id_eq]
    | split
    | with_reducible refine Only.trans ?_ (Only.forEach (fun _ _ => ?_) _ _)
    | with_reducible refine Only.trans ?_ (Only.when (fun _ => ?_) _ _)

theorem writeTraceCtl_only (w : Word) (s : State) :
    Only [.regs, .fr, .tr] s (writeTraceCtl w s) := by
  unfold writeTraceCtl
  repeat' first
    | simp (maxDischargeDepth := 8) only [Only.iff_of (setReg_only _ _ _ ), Only.iff_of (orReg_only _ _ _ ), Only.iff_of (writeTrace_only _ _ ), Only.iff_of (startTrace_only _ ), *, partsIn_nil, partsIn_cons, Only.self, Only.mk_iff, Only.forEach_iff, Only.when_iff, Only.ite_of, true_or, or_true, and_self, implies_true, List.mem_cons, reduceCtorEq, or_false, false_or, id_eq]
    | split
    | with_reducible refine Only.trans ?_ (Only.forEach (fun _ _ => ?_) _ _)
    | with_reducible refine Only.trans ?_ (Only.when (fun _ => ?_) _ _)

end Sys2Proof.Machine
end

