-- ==== Sys2Proof/Laws/OnlyWatch.lean ====
section
/-!
SUPPORT. Laws/OnlyWatch.lean: what each operation of Machine/Watch.lean may change (generated text, one lemma for each operation).
-/
namespace Sys2Proof.Machine

set_option linter.unusedSimpArgs false
set_option linter.tactic.unusedName false

theorem setWatch_only (u : Nat) (w : Watch) (s : State) :
    Only [.dbg] s (setWatch u w s) := by
  unfold setWatch
  repeat' first
    | simp (maxDischargeDepth := 8) only [*, partsIn_nil, partsIn_cons, Only.self, Only.mk_iff, Only.forEach_iff, Only.when_iff, Only.ite_of, true_or, or_true, and_self, implies_true, List.mem_cons, reduceCtorEq, or_false, false_or, id_eq]
    | split
    | with_reducible refine Only.trans ?_ (Only.forEach (fun _ _ => ?_) _ _)
    | with_reducible refine Only.trans ?_ (Only.when (fun _ => ?_) _ _)

theorem clearWatch_only (u : Nat) (s : State) :
    Only [.fr, .dbg] s (clearWatch u s) := by
  unfold clearWatch
  repeat' first
    | simp (maxDischargeDepth := 8) only [Only.iff_of (dropJobs_only _ _ ), Only.iff_of (setWatch_only _ _ _ ), *, partsIn_nil, partsIn_cons, Only.self, Only.mk_iff, Only.forEach_iff, Only.when_iff, Only.ite_of, true_or, or_true, and_self, implies_true, List.mem_cons, reduceCtorEq, or_false, false_or, id_eq]
    | split
    | with_reducible refine Only.trans ?_ (Only.forEach (fun _ _ => ?_) _ _)
    | with_reducible refine Only.trans ?_ (Only.when (fun _ => ?_) _ _)

theorem disarm_only (u : Nat) (s : State) :
    Only [.regs, .fr, .dbg] s (disarm u s) := by
  unfold disarm
  repeat' first
    | simp (maxDischargeDepth := 8) only [Only.iff_of (setRegF_only _ _ _ _ _ ), Only.iff_of (clearWatch_only _ _ ), *, partsIn_nil, partsIn_cons, Only.self, Only.mk_iff, Only.forEach_iff, Only.when_iff, Only.ite_of, true_or, or_true, and_self, implies_true, List.mem_cons, reduceCtorEq, or_false, false_or, id_eq]
    | split
    | with_reducible refine Only.trans ?_ (Only.forEach (fun _ _ => ?_) _ _)
    | with_reducible refine Only.trans ?_ (Only.when (fun _ => ?_) _ _)

theorem writeWuCfg_only (u : Nat) (w : Word) (s : State) :
    Only [.regs, .fr, .dbg] s (writeWuCfg u w s) := by
  unfold writeWuCfg
  repeat' first
    | simp (maxDischargeDepth := 8) only [Only.iff_of (setReg_only _ _ _ ), Only.iff_of (orReg_only _ _ _ ), Only.iff_of (clearWatch_only _ _ ), Only.iff_of (disarm_only _ _ ), *, partsIn_nil, partsIn_cons, Only.self, Only.mk_iff, Only.forEach_iff, Only.when_iff, Only.ite_of, true_or, or_true, and_self, implies_true, List.mem_cons, reduceCtorEq, or_false, false_or, id_eq]
    | split
    | with_reducible refine Only.trans ?_ (Only.forEach (fun _ _ => ?_) _ _)
    | with_reducible refine Only.trans ?_ (Only.when (fun _ => ?_) _ _)

theorem writeWuReg_only (u k : Nat) (w : Word) (s : State) :
    Only [.regs] s (writeWuReg u k w s) := by
  unfold writeWuReg
  repeat' first
    | simp (maxDischargeDepth := 8) only [Only.iff_of (setReg_only _ _ _ ), Only.iff_of (orReg_only _ _ _ ), *, partsIn_nil, partsIn_cons, Only.self, Only.mk_iff, Only.forEach_iff, Only.when_iff, Only.ite_of, true_or, or_true, and_self, implies_true, List.mem_cons, reduceCtorEq, or_false, false_or, id_eq]
    | split
    | with_reducible refine Only.trans ?_ (Only.forEach (fun _ _ => ?_) _ _)
    | with_reducible refine Only.trans ?_ (Only.when (fun _ => ?_) _ _)

theorem writeWuOwn_only (w : Word) (s : State) :
    Only [.regs] s (writeWuOwn w s) := by
  unfold writeWuOwn
  repeat' first
    | simp (maxDischargeDepth := 8) only [Only.iff_of (setRegF_only _ _ _ _ _ ), Only.iff_of (orReg_only _ _ _ ), *, partsIn_nil, partsIn_cons, Only.self, Only.mk_iff, Only.forEach_iff, Only.when_iff, Only.ite_of, true_or, or_true, and_self, implies_true, List.mem_cons, reduceCtorEq, or_false, false_or, id_eq]
    | split
    | with_reducible refine Only.trans ?_ (Only.forEach (fun _ _ => ?_) _ _)
    | with_reducible refine Only.trans ?_ (Only.when (fun _ => ?_) _ _)

theorem watchRelock_only (s : State) :
    Only [.regs, .fr, .dbg] s (watchRelock s) := by
  unfold watchRelock
  repeat' first
    | simp (maxDischargeDepth := 8) only [Only.iff_of (disarm_only _ _ ), *, partsIn_nil, partsIn_cons, Only.self, Only.mk_iff, Only.forEach_iff, Only.when_iff, Only.ite_of, true_or, or_true, and_self, implies_true, List.mem_cons, reduceCtorEq, or_false, false_or, id_eq]
    | split
    | with_reducible refine Only.trans ?_ (Only.forEach (fun _ _ => ?_) _ _)
    | with_reducible refine Only.trans ?_ (Only.when (fun _ => ?_) _ _)

theorem watchMatch_only (x : WatchSlip) (s : State) :
    Only [.regs, .tr, .dbg] s (watchMatch x s) := by
  unfold watchMatch
  repeat' first
    | simp (maxDischargeDepth := 8) only [Only.iff_of (setReg_only _ _ _ ), Only.iff_of (raise_only _ _ ), Only.iff_of (setWatch_only _ _ _ ), *, partsIn_nil, partsIn_cons, Only.self, Only.mk_iff, Only.forEach_iff, Only.when_iff, Only.ite_of, true_or, or_true, and_self, implies_true, List.mem_cons, reduceCtorEq, or_false, false_or, id_eq]
    | split
    | with_reducible refine Only.trans ?_ (Only.forEach (fun _ _ => ?_) _ _)
    | with_reducible refine Only.trans ?_ (Only.when (fun _ => ?_) _ _)

theorem endCapture_only (u : Nat) (s : State) :
    Only [.regs, .dbg] s (endCapture u s) := by
  unfold endCapture
  repeat' first
    | simp (maxDischargeDepth := 8) only [Only.iff_of (setRegF_only _ _ _ _ _ ), Only.iff_of (orReg_only _ _ _ ), Only.iff_of (setWatch_only _ _ _ ), *, partsIn_nil, partsIn_cons, Only.self, Only.mk_iff, Only.forEach_iff, Only.when_iff, Only.ite_of, true_or, or_true, and_self, implies_true, List.mem_cons, reduceCtorEq, or_false, false_or, id_eq]
    | split
    | with_reducible refine Only.trans ?_ (Only.forEach (fun _ _ => ?_) _ _)
    | with_reducible refine Only.trans ?_ (Only.when (fun _ => ?_) _ _)

theorem dumpFlit_only (u n : Nat) (data : Row) (pois : Mask4) (s : State) :
    Only [.regs, .tr, .dbg] s (dumpFlit u n data pois s) := by
  unfold dumpFlit
  repeat' first
    | simp (maxDischargeDepth := 8) only [Only.iff_of (orReg_only _ _ _ ), Only.iff_of (raise_only _ _ ), Only.iff_of (watchLost_only _ _ ), Only.iff_of (setWatch_only _ _ _ ), *, partsIn_nil, partsIn_cons, Only.self, Only.mk_iff, Only.forEach_iff, Only.when_iff, Only.ite_of, true_or, or_true, and_self, implies_true, List.mem_cons, reduceCtorEq, or_false, false_or, id_eq]
    | split
    | with_reducible refine Only.trans ?_ (Only.forEach (fun _ _ => ?_) _ _)
    | with_reducible refine Only.trans ?_ (Only.when (fun _ => ?_) _ _)

theorem tapFlit_only (u : Nat) (x : WatchSlip) (seq fmt : Nat) (last : Bool) (data : Row) (pois : Mask4) (s : State) :
    Only [.regs, .tr, .dbg] s (tapFlit u x seq fmt last data pois s) := by
  unfold tapFlit
  repeat' first
    | simp (maxDischargeDepth := 8) only [Only.iff_of (setReg_only _ _ _ ), Only.iff_of (genRec_only _ _ _ ), Only.iff_of (endCapture_only _ _ ), Only.iff_of (dumpFlit_only _ _ _ _ _ ), *, partsIn_nil, partsIn_cons, Only.self, Only.mk_iff, Only.forEach_iff, Only.when_iff, Only.ite_of, true_or, or_true, and_self, implies_true, List.mem_cons, reduceCtorEq, or_false, false_or, id_eq]
    | split
    | with_reducible refine Only.trans ?_ (Only.forEach (fun _ _ => ?_) _ _)
    | with_reducible refine Only.trans ?_ (Only.when (fun _ => ?_) _ _)

theorem watchRead_only (x : WatchSlip) (lane seq fmt : Nat) (last : Bool) (data : Row) (pois : Mask4) (s : State) :
    Only [.regs, .tr, .dbg] s (watchRead x lane seq fmt last data pois s) := by
  unfold watchRead
  repeat' first
    | simp (maxDischargeDepth := 8) only [Only.iff_of (tapFlit_only _ _ _ _ _ _ _ _ ), *, partsIn_nil, partsIn_cons, Only.self, Only.mk_iff, Only.forEach_iff, Only.when_iff, Only.ite_of, true_or, or_true, and_self, implies_true, List.mem_cons, reduceCtorEq, or_false, false_or, id_eq]
    | split
    | with_reducible refine Only.trans ?_ (Only.forEach (fun _ _ => ?_) _ _)
    | with_reducible refine Only.trans ?_ (Only.when (fun _ => ?_) _ _)

theorem watchStore_only (x : WatchSlip) (seq fmt : Nat) (last : Bool) (data : Row) (pois en : Mask4) (s : State) :
    Only [.regs, .tr, .dbg] s (watchStore x seq fmt last data pois en s) := by
  unfold watchStore
  repeat' first
    | simp (maxDischargeDepth := 8) only [Only.iff_of (tapFlit_only _ _ _ _ _ _ _ _ ), *, partsIn_nil, partsIn_cons, Only.self, Only.mk_iff, Only.forEach_iff, Only.when_iff, Only.ite_of, true_or, or_true, and_self, implies_true, List.mem_cons, reduceCtorEq, or_false, false_or, id_eq]
    | split
    | with_reducible refine Only.trans ?_ (Only.forEach (fun _ _ => ?_) _ _)
    | with_reducible refine Only.trans ?_ (Only.when (fun _ => ?_) _ _)

theorem watchRelease_only (sid : Nat) (s : State) :
    Only [.regs, .dbg] s (watchRelease sid s) := by
  unfold watchRelease
  repeat' first
    | simp (maxDischargeDepth := 8) only [Only.iff_of (endCapture_only _ _ ), *, partsIn_nil, partsIn_cons, Only.self, Only.mk_iff, Only.forEach_iff, Only.when_iff, Only.ite_of, true_or, or_true, and_self, implies_true, List.mem_cons, reduceCtorEq, or_false, false_or, id_eq]
    | split
    | with_reducible refine Only.trans ?_ (Only.forEach (fun _ _ => ?_) _ _)
    | with_reducible refine Only.trans ?_ (Only.when (fun _ => ?_) _ _)

theorem askDump_only (s : State) :
    Only [.fr, .dbg] s (askDump s) := by
  unfold askDump
  repeat' first
    | simp (maxDischargeDepth := 8) only [Only.iff_of (addTr_only _ _ ), *, partsIn_nil, partsIn_cons, Only.self, Only.mk_iff, Only.forEach_iff, Only.when_iff, Only.ite_of, true_or, or_true, and_self, implies_true, List.mem_cons, reduceCtorEq, or_false, false_or, id_eq]
    | split
    | with_reducible refine Only.trans ?_ (Only.forEach (fun _ _ => ?_) _ _)
    | with_reducible refine Only.trans ?_ (Only.when (fun _ => ?_) _ _)

theorem dumped_only (u : Nat) (failed : Bool) (s : State) :
    Only [.regs, .fr, .tr, .dbg] s (dumped u failed s) := by
  unfold dumped
  repeat' first
    | simp (maxDischargeDepth := 8) only [Only.iff_of (orReg_only _ _ _ ), Only.iff_of (raise_only _ _ ), Only.iff_of (setWatch_only _ _ _ ), Only.iff_of (clearWatch_only _ _ ), *, partsIn_nil, partsIn_cons, Only.self, Only.mk_iff, Only.forEach_iff, Only.when_iff, Only.ite_of, true_or, or_true, and_self, implies_true, List.mem_cons, reduceCtorEq, or_false, false_or, id_eq]
    | split
    | with_reducible refine Only.trans ?_ (Only.forEach (fun _ _ => ?_) _ _)
    | with_reducible refine Only.trans ?_ (Only.when (fun _ => ?_) _ _)

theorem writeRdaddr_only (l : Nat) (w : Word) (s : State) :
    Only [.regs, .fr, .dbg] s (writeRdaddr l w s) := by
  unfold writeRdaddr
  repeat' first
    | simp (maxDischargeDepth := 8) only [Only.iff_of (setReg_only _ _ _ ), Only.iff_of (setRegF_only _ _ _ _ _ ), Only.iff_of (orReg_only _ _ _ ), Only.iff_of (addTr_only _ _ ), *, partsIn_nil, partsIn_cons, Only.self, Only.mk_iff, Only.forEach_iff, Only.when_iff, Only.ite_of, true_or, or_true, and_self, implies_true, List.mem_cons, reduceCtorEq, or_false, false_or, id_eq]
    | split
    | with_reducible refine Only.trans ?_ (Only.forEach (fun _ _ => ?_) _ _)
    | with_reducible refine Only.trans ?_ (Only.when (fun _ => ?_) _ _)

theorem setRowRegs_only (o : Nat) (d : Row) (s : State) :
    Only [.regs] s (setRowRegs o d s) := by
  unfold setRowRegs
  repeat' first
    | simp (maxDischargeDepth := 8) only [Only.iff_of (setRegs_only _ _ _ ), *, partsIn_nil, partsIn_cons, Only.self, Only.mk_iff, Only.forEach_iff, Only.when_iff, Only.ite_of, true_or, or_true, and_self, implies_true, List.mem_cons, reduceCtorEq, or_false, false_or, id_eq]
    | split
    | with_reducible refine Only.trans ?_ (Only.forEach (fun _ _ => ?_) _ _)
    | with_reducible refine Only.trans ?_ (Only.when (fun _ => ?_) _ _)

theorem dropTr_only (id : Nat) (s : State) :
    Only [.fr] s (dropTr id s) := by
  unfold dropTr
  repeat' first
    | simp (maxDischargeDepth := 8) only [*, partsIn_nil, partsIn_cons, Only.self, Only.mk_iff, Only.forEach_iff, Only.when_iff, Only.ite_of, true_or, or_true, and_self, implies_true, List.mem_cons, reduceCtorEq, or_false, false_or, id_eq]
    | split
    | with_reducible refine Only.trans ?_ (Only.forEach (fun _ _ => ?_) _ _)
    | with_reducible refine Only.trans ?_ (Only.when (fun _ => ?_) _ _)

theorem finishReadout_only (r : Row × Mask4) (s : State) :
    Only [.regs, .dbg] s (finishReadout r s) := by
  unfold finishReadout
  repeat' first
    | simp (maxDischargeDepth := 8) only [Only.iff_of (setRegF_only _ _ _ _ _ ), Only.iff_of (setRowRegs_only _ _ _ ), *, partsIn_nil, partsIn_cons, Only.self, Only.mk_iff, Only.forEach_iff, Only.when_iff, Only.ite_of, true_or, or_true, and_self, implies_true, List.mem_cons, reduceCtorEq, or_false, false_or, id_eq]
    | split
    | with_reducible refine Only.trans ?_ (Only.forEach (fun _ _ => ?_) _ _)
    | with_reducible refine Only.trans ?_ (Only.when (fun _ => ?_) _ _)

end Sys2Proof.Machine
end

