-- ==== Sys2Proof/Laws/OnlyFlags.lean ====
section
/-!
SUPPORT. Laws/OnlyFlags.lean: what each operation of Machine/Flags.lean may change (generated text, one lemma for each operation).
-/
namespace Sys2Proof.Machine

set_option linter.unusedSimpArgs false
set_option linter.tactic.unusedName false

theorem raiseCvt_only (x : Slip) (f : Nat) (s : State) :
    Only [.regs, .sq] s (raiseCvt x f s) := by
  unfold raiseCvt
  repeat' first
    | simp (maxDischargeDepth := 8) only [Only.iff_of (orReg_only _ _ _ ), Only.iff_of (updSlip_only _ _ _ ), *, partsIn_nil, partsIn_cons, Only.self, Only.mk_iff, Only.forEach_iff, Only.when_iff, Only.ite_of, true_or, or_true, and_self, implies_true, List.mem_cons, reduceCtorEq, or_false, false_or, id_eq]
    | split
    | with_reducible refine Only.trans ?_ (Only.forEach (fun _ _ => ?_) _ _)
    | with_reducible refine Only.trans ?_ (Only.when (fun _ => ?_) _ _)

theorem raiseBlend_only (x : Slip) (f : Nat) (s : State) :
    Only [.regs, .sq] s (raiseBlend x f s) := by
  unfold raiseBlend
  repeat' first
    | simp (maxDischargeDepth := 8) only [Only.iff_of (orReg_only _ _ _ ), Only.iff_of (updSlip_only _ _ _ ), *, partsIn_nil, partsIn_cons, Only.self, Only.mk_iff, Only.forEach_iff, Only.when_iff, Only.ite_of, true_or, or_true, and_self, implies_true, List.mem_cons, reduceCtorEq, or_false, false_or, id_eq]
    | split
    | with_reducible refine Only.trans ?_ (Only.forEach (fun _ _ => ?_) _ _)
    | with_reducible refine Only.trans ?_ (Only.when (fun _ => ?_) _ _)

theorem setQueue_only (q : Nat) (x : SlipQ) (s : State) :
    Only [.sq] s (setQueue q x s) := by
  unfold setQueue
  repeat' first
    | simp (maxDischargeDepth := 8) only [*, partsIn_nil, partsIn_cons, Only.self, Only.mk_iff, Only.forEach_iff, Only.when_iff, Only.ite_of, true_or, or_true, and_self, implies_true, List.mem_cons, reduceCtorEq, or_false, false_or, id_eq]
    | split
    | with_reducible refine Only.trans ?_ (Only.forEach (fun _ _ => ?_) _ _)
    | with_reducible refine Only.trans ?_ (Only.when (fun _ => ?_) _ _)

theorem updQueue_only (q : Nat) (f : SlipQ → SlipQ) (s : State) :
    Only [.sq] s (updQueue q f s) := by
  unfold updQueue
  repeat' first
    | simp (maxDischargeDepth := 8) only [Only.iff_of (setQueue_only _ _ _ ), *, partsIn_nil, partsIn_cons, Only.self, Only.mk_iff, Only.forEach_iff, Only.when_iff, Only.ite_of, true_or, or_true, and_self, implies_true, List.mem_cons, reduceCtorEq, or_false, false_or, id_eq]
    | split
    | with_reducible refine Only.trans ?_ (Only.forEach (fun _ _ => ?_) _ _)
    | with_reducible refine Only.trans ?_ (Only.when (fun _ => ?_) _ _)

theorem progress_only (q : Nat) (s : State) :
    Only [.sq] s (progress q s) := by
  unfold progress
  repeat' first
    | simp (maxDischargeDepth := 8) only [Only.iff_of (updQueue_only _ _ _ ), *, partsIn_nil, partsIn_cons, Only.self, Only.mk_iff, Only.forEach_iff, Only.when_iff, Only.ite_of, true_or, or_true, and_self, implies_true, List.mem_cons, reduceCtorEq, or_false, false_or, id_eq]
    | split
    | with_reducible refine Only.trans ?_ (Only.forEach (fun _ _ => ?_) _ _)
    | with_reducible refine Only.trans ?_ (Only.when (fun _ => ?_) _ _)

theorem slipRaise_only (sid kind : Nat) (s : State) :
    Only [.regs, .sq, .tr, .dbg] s (slipRaise sid kind s) := by
  unfold slipRaise
  repeat' first
    | simp (maxDischargeDepth := 8) only [Only.iff_of (raise_only _ _ ), Only.iff_of (updSlip_only _ _ _ ), *, partsIn_nil, partsIn_cons, Only.self, Only.mk_iff, Only.forEach_iff, Only.when_iff, Only.ite_of, true_or, or_true, and_self, implies_true, List.mem_cons, reduceCtorEq, or_false, false_or, id_eq]
    | split
    | with_reducible refine Only.trans ?_ (Only.forEach (fun _ _ => ?_) _ _)
    | with_reducible refine Only.trans ?_ (Only.when (fun _ => ?_) _ _)

theorem slipFault_only (x : Slip) (kind v : Nat) (off : Int) (store : Bool) (s : State) :
    Only [.regs, .cnt, .sq, .tr, .dbg] s (slipFault x kind v off store s) := by
  unfold slipFault
  repeat' first
    | simp (maxDischargeDepth := 8) only [Only.iff_of (faultRow_only _ _ _ _ _ _ _ _ ), Only.iff_of (slipRaise_only _ _ _ ), *, partsIn_nil, partsIn_cons, Only.self, Only.mk_iff, Only.forEach_iff, Only.when_iff, Only.ite_of, true_or, or_true, and_self, implies_true, List.mem_cons, reduceCtorEq, or_false, false_or, id_eq]
    | split
    | with_reducible refine Only.trans ?_ (Only.forEach (fun _ _ => ?_) _ _)
    | with_reducible refine Only.trans ?_ (Only.when (fun _ => ?_) _ _)

theorem countBeat_only (lb cls : Nat) (ctx : Option Nat) (s : State) :
    Only [.cnt, .xc] s (countBeat lb cls ctx s) := by
  unfold countBeat
  repeat' first
    | simp (maxDischargeDepth := 8) only [Only.iff_of (bump_only _ _ _ ), Only.iff_of (xbump_only _ _ _ ), *, partsIn_nil, partsIn_cons, Only.self, Only.mk_iff, Only.forEach_iff, Only.when_iff, Only.ite_of, true_or, or_true, and_self, implies_true, List.mem_cons, reduceCtorEq, or_false, false_or, id_eq]
    | split
    | with_reducible refine Only.trans ?_ (Only.forEach (fun _ _ => ?_) _ _)
    | with_reducible refine Only.trans ?_ (Only.when (fun _ => ?_) _ _)

theorem markPlane_only (c : Crossing) (p : Parity) (s : State) :
    Only [.fr] s (markPlane c p s) := by
  unfold markPlane
  repeat' first
    | simp (maxDischargeDepth := 8) only [*, partsIn_nil, partsIn_cons, Only.self, Only.mk_iff, Only.forEach_iff, Only.when_iff, Only.ite_of, true_or, or_true, and_self, implies_true, List.mem_cons, reduceCtorEq, or_false, false_or, id_eq]
    | split
    | with_reducible refine Only.trans ?_ (Only.forEach (fun _ _ => ?_) _ _)
    | with_reducible refine Only.trans ?_ (Only.when (fun _ => ?_) _ _)

theorem netParity_only (write : Bool) (p : Parity) (src dst : Nat) (s : State) :
    Only [.regs, .cnt, .tr, .dbg, .fw] s (netParity write p src dst s) := by
  unfold netParity
  repeat' first
    | simp (maxDischargeDepth := 8) only [Only.iff_of (bump_only _ _ _ ), Only.iff_of (raise_only _ _ ), Only.iff_of (fillLog_only _ _ _ _ ), Only.iff_of (fwdParity_only _ _ _ ), *, partsIn_nil, partsIn_cons, Only.self, Only.mk_iff, Only.forEach_iff, Only.when_iff, Only.ite_of, true_or, or_true, and_self, implies_true, List.mem_cons, reduceCtorEq, or_false, false_or, id_eq]
    | split
    | with_reducible refine Only.trans ?_ (Only.forEach (fun _ _ => ?_) _ _)
    | with_reducible refine Only.trans ?_ (Only.when (fun _ => ?_) _ _)

theorem blendParity_only (c : Nat) (s : State) :
    Only [.regs, .cnt, .tr, .dbg, .fw] s (blendParity c s) := by
  unfold blendParity
  repeat' first
    | simp (maxDischargeDepth := 8) only [Only.iff_of (bump_only _ _ _ ), Only.iff_of (raise_only _ _ ), Only.iff_of (fwdParity_only _ _ _ ), *, partsIn_nil, partsIn_cons, Only.self, Only.mk_iff, Only.forEach_iff, Only.when_iff, Only.ite_of, true_or, or_true, and_self, implies_true, List.mem_cons, reduceCtorEq, or_false, false_or, id_eq]
    | split
    | with_reducible refine Only.trans ?_ (Only.forEach (fun _ _ => ?_) _ _)
    | with_reducible refine Only.trans ?_ (Only.when (fun _ => ?_) _ _)

theorem sbegin_only (x : Slip) (s : State) :
    Only [.tr] s (sbegin x s) := by
  unfold sbegin
  repeat' first
    | simp (maxDischargeDepth := 8) only [Only.iff_of (genRec_only _ _ _ ), *, partsIn_nil, partsIn_cons, Only.self, Only.mk_iff, Only.forEach_iff, Only.when_iff, Only.ite_of, true_or, or_true, and_self, implies_true, List.mem_cons, reduceCtorEq, or_false, false_or, id_eq]
    | split
    | with_reducible refine Only.trans ?_ (Only.forEach (fun _ _ => ?_) _ _)
    | with_reducible refine Only.trans ?_ (Only.when (fun _ => ?_) _ _)

theorem maybeSend_only (sid : Nat) (s : State) :
    Only [.sq, .tr] s (maybeSend sid s) := by
  unfold maybeSend
  repeat' first
    | simp (maxDischargeDepth := 8) only [Only.iff_of (genRec_only _ _ _ ), Only.iff_of (updSlip_only _ _ _ ), *, partsIn_nil, partsIn_cons, Only.self, Only.mk_iff, Only.forEach_iff, Only.when_iff, Only.ite_of, true_or, or_true, and_self, implies_true, List.mem_cons, reduceCtorEq, or_false, false_or, id_eq]
    | split
    | with_reducible refine Only.trans ?_ (Only.forEach (fun _ _ => ?_) _ _)
    | with_reducible refine Only.trans ?_ (Only.when (fun _ => ?_) _ _)

end Sys2Proof.Machine
end

