-- ==== Sys2Proof/Laws/OnlyDeliver.lean ====
section
/-!
SUPPORT. Laws/OnlyDeliver.lean: what each operation of Machine/Deliver.lean may change (generated text, one lemma for each operation).
-/
namespace Sys2Proof.Machine

set_option linter.unusedSimpArgs false
set_option linter.tactic.unusedName false

theorem freeSlots_only (sid l : Nat) (s : State) :
    Only [.sq, .bl] s (freeSlots sid l s) := by
  unfold freeSlots
  repeat' first
    | simp (maxDischargeDepth := 8) only [Only.iff_of (updSlip_only _ _ _ ), *, partsIn_nil, partsIn_cons, Only.self, Only.mk_iff, Only.forEach_iff, Only.when_iff, Only.ite_of, true_or, or_true, and_self, implies_true, List.mem_cons, reduceCtorEq, or_false, false_or, id_eq]
    | split
    | with_reducible refine Only.trans ?_ (Only.forEach (fun _ _ => ?_) _ _)
    | with_reducible refine Only.trans ?_ (Only.when (fun _ => ?_) _ _)

theorem land_only (l : Nat) (f : OutFlit) (s : State) :
    Only [.fr] s (land l f s) := by
  unfold land
  repeat' first
    | simp (maxDischargeDepth := 8) only [Only.iff_of (updRlane_only _ _ _ ), *, partsIn_nil, partsIn_cons, Only.self, Only.mk_iff, Only.forEach_iff, Only.when_iff, Only.ite_of, true_or, or_true, and_self, implies_true, List.mem_cons, reduceCtorEq, or_false, false_or, id_eq]
    | split
    | with_reducible refine Only.trans ?_ (Only.forEach (fun _ _ => ?_) _ _)
    | with_reducible refine Only.trans ?_ (Only.when (fun _ => ?_) _ _)

theorem stageMove_only (x : Slip) (last : Bool) (d : DFlit) (s : State) :
    Only [.fr, .sq] s (stageMove x last d s) := by
  unfold stageMove
  repeat' first
    | simp (maxDischargeDepth := 8) only [Only.iff_of (updSlip_only _ _ _ ), Only.iff_of (updWlane_only _ _ _ ), *, partsIn_nil, partsIn_cons, Only.self, Only.mk_iff, Only.forEach_iff, Only.when_iff, Only.ite_of, true_or, or_true, and_self, implies_true, List.mem_cons, reduceCtorEq, or_false, false_or, id_eq]
    | split
    | with_reducible refine Only.trans ?_ (Only.forEach (fun _ _ => ?_) _ _)
    | with_reducible refine Only.trans ?_ (Only.when (fun _ => ?_) _ _)

theorem emitFlit_only (sid l : Nat) (blpar : Mask4) (d : DFlit) (s : State) :
    Only [.regs, .cnt, .fr, .sq, .bl, .tr, .dbg, .fw, .pw] s (emitFlit sid l blpar d s) := by
  unfold emitFlit
  repeat' first
    | simp (maxDischargeDepth := 8) only [Only.iff_of (estimate_only _ _ _ ), Only.iff_of (updSlip_only _ _ _ ), Only.iff_of (watchRead_only _ _ _ _ _ _ _ _ ), Only.iff_of (raiseBlend_only _ _ _ ), Only.iff_of (blendParity_only _ _ ), Only.iff_of (freeSlots_only _ _ _ ), Only.iff_of (land_only _ _ _ ), Only.iff_of (stageMove_only _ _ _ _ ), *, partsIn_nil, partsIn_cons, Only.self, Only.mk_iff, Only.forEach_iff, Only.when_iff, Only.ite_of, true_or, or_true, and_self, implies_true, List.mem_cons, reduceCtorEq, or_false, false_or, id_eq]
    | split
    | with_reducible refine Only.trans ?_ (Only.forEach (fun _ _ => ?_) _ _)
    | with_reducible refine Only.trans ?_ (Only.when (fun _ => ?_) _ _)

theorem discardFlit_only (x : Slip) (l : Nat) (s : State) :
    Only [.sq, .bl, .tr, .pw] s (discardFlit x l s) := by
  unfold discardFlit
  repeat' first
    | simp (maxDischargeDepth := 8) only [Only.iff_of (estimate_only _ _ _ ), Only.iff_of (updSlip_only _ _ _ ), Only.iff_of (progress_only _ _ ), Only.iff_of (maybeSend_only _ _ ), Only.iff_of (freeSlots_only _ _ _ ), *, partsIn_nil, partsIn_cons, Only.self, Only.mk_iff, Only.forEach_iff, Only.when_iff, Only.ite_of, true_or, or_true, and_self, implies_true, List.mem_cons, reduceCtorEq, or_false, false_or, id_eq]
    | split
    | with_reducible refine Only.trans ?_ (Only.forEach (fun _ _ => ?_) _ _)
    | with_reducible refine Only.trans ?_ (Only.when (fun _ => ?_) _ _)

theorem passSlip_only (x : Slip) (l : Nat) (f : Row × Mask4) (s : State) (t : State) (h : passSlip x l f s = some t) : Only [.regs, .fr, .sq, .bl, .tr, .pw] s t := by
  unfold passSlip at h
  dsimp only at h
  repeat' (split at h)
  all_goals first
    | (cases h; done)
    | (injection h with h
       subst h
       repeat' first
         | simp (maxDischargeDepth := 8) only [Only.iff_of (estimate_only _ _ _ ), Only.iff_of (updSlip_only _ _ _ ), Only.iff_of (updRlane_only _ _ _ ), Only.iff_of (raiseCvt_only _ _ _ ), Only.iff_of (discardFlit_only _ _ _ ), *, partsIn_nil, partsIn_cons, Only.self, Only.mk_iff, Only.forEach_iff, Only.when_iff, Only.ite_of, true_or, or_true, and_self, implies_true, List.mem_cons, reduceCtorEq, or_false, false_or, id_eq]
         | split
       done)

theorem emitNext_only (l : Nat) (blpar : Mask4) (s : State) (t : State) (h : emitNext l blpar s = some t) : Only [.regs, .cnt, .fr, .sq, .bl, .tr, .dbg, .fw, .pw] s t := by
  unfold emitNext at h
  dsimp only at h
  repeat' (split at h)
  all_goals first
    | (cases h; done)
    | (injection h with h
       subst h
       repeat' first
         | simp (maxDischargeDepth := 8) only [Only.iff_of (updSlip_only _ _ _ ), Only.iff_of (updRlane_only _ _ _ ), Only.iff_of (maybeSend_only _ _ ), Only.iff_of (emitFlit_only _ _ _ _ _ ), *, partsIn_nil, partsIn_cons, Only.self, Only.mk_iff, Only.forEach_iff, Only.when_iff, Only.ite_of, true_or, or_true, and_self, implies_true, List.mem_cons, reduceCtorEq, or_false, false_or, id_eq]
         | split
       done)

theorem passFlush_only (x : Slip) (l : Nat) (s : State) :
    Only [.regs, .fr, .sq, .tr, .dbg, .pw] s (passFlush x l s) := by
  unfold passFlush
  repeat' first
    | simp (maxDischargeDepth := 8) only [Only.iff_of (estimate_only _ _ _ ), Only.iff_of (updSlip_only _ _ _ ), Only.iff_of (watchRead_only _ _ _ _ _ _ _ _ ), Only.iff_of (maybeSend_only _ _ ), Only.iff_of (land_only _ _ _ ), *, partsIn_nil, partsIn_cons, Only.self, Only.mk_iff, Only.forEach_iff, Only.when_iff, Only.ite_of, true_or, or_true, and_self, implies_true, List.mem_cons, reduceCtorEq, or_false, false_or, id_eq]
    | split
    | with_reducible refine Only.trans ?_ (Only.forEach (fun _ _ => ?_) _ _)
    | with_reducible refine Only.trans ?_ (Only.when (fun _ => ?_) _ _)

theorem passOwn_only (t : Tr) (l n : Nat) (f : Row × Mask4) (s : State) :
    Only [.fr, .rx, .pw] s (passOwn t l n f s) := by
  unfold passOwn
  repeat' first
    | simp (maxDischargeDepth := 8) only [Only.iff_of (estimate_only _ _ _ ), Only.iff_of (land_only _ _ _ ), *, partsIn_nil, partsIn_cons, Only.self, Only.mk_iff, Only.forEach_iff, Only.when_iff, Only.ite_of, true_or, or_true, and_self, implies_true, List.mem_cons, reduceCtorEq, or_false, false_or, id_eq]
    | split
    | with_reducible refine Only.trans ?_ (Only.forEach (fun _ _ => ?_) _ _)
    | with_reducible refine Only.trans ?_ (Only.when (fun _ => ?_) _ _)

theorem passReturn_only (x : Slip) (l : Nat) (f : Row × Mask4) (s : State) :
    Only [.regs, .fr, .sq, .tr, .dbg, .pw] s (passReturn x l f s) := by
  unfold passReturn
  repeat' first
    | simp (maxDischargeDepth := 8) only [Only.iff_of (estimate_only _ _ _ ), Only.iff_of (updSlip_only _ _ _ ), Only.iff_of (watchRead_only _ _ _ _ _ _ _ _ ), Only.iff_of (maybeSend_only _ _ ), Only.iff_of (land_only _ _ _ ), *, partsIn_nil, partsIn_cons, Only.self, Only.mk_iff, Only.forEach_iff, Only.when_iff, Only.ite_of, true_or, or_true, and_self, implies_true, List.mem_cons, reduceCtorEq, or_false, false_or, id_eq]
    | split
    | with_reducible refine Only.trans ?_ (Only.forEach (fun _ _ => ?_) _ _)
    | with_reducible refine Only.trans ?_ (Only.when (fun _ => ?_) _ _)

theorem beatPassed_only (t : Tr) (l n : Nat) (s : State) :
    Only [.fr] s (beatPassed t l n s) := by
  unfold beatPassed
  repeat' first
    | simp (maxDischargeDepth := 8) only [Only.iff_of (updRlane_only _ _ _ ), Only.iff_of (setTr_only _ _ ), *, partsIn_nil, partsIn_cons, Only.self, Only.mk_iff, Only.forEach_iff, Only.when_iff, Only.ite_of, true_or, or_true, and_self, implies_true, List.mem_cons, reduceCtorEq, or_false, false_or, id_eq]
    | split
    | with_reducible refine Only.trans ?_ (Only.forEach (fun _ _ => ?_) _ _)
    | with_reducible refine Only.trans ?_ (Only.when (fun _ => ?_) _ _)

theorem passBeat_only (lane : Nat) (t : Tr) (n : Nat) (par : Parity) (blpar : Mask4) (s u : State)
    (h : passBeat lane t n par blpar s = some u) : Only [.regs, .cnt, .fr, .sq, .bl, .tr, .dbg, .fw, .rx, .pw] s u := by
  unfold passBeat at h
  dsimp only at h
  generalize hv : netParity _ _ _ _ _ = v at h
  have h0 : Only [.regs, .cnt, .fr, .sq, .bl, .tr, .dbg, .fw, .rx, .pw] s v := by
    subst hv
    repeat' first
      | simp (maxDischargeDepth := 8) only [Only.iff_of (netParity_only _ _ _ _ _), Only.iff_of (markPlane_only _ _ _), *, partsIn_nil, partsIn_cons, Only.self, Only.mk_iff, Only.forEach_iff, Only.when_iff, Only.ite_of, true_or, or_true, and_self, implies_true, List.mem_cons, reduceCtorEq, or_false, false_or, id_eq]
      | split
  refine h0.trans ?_
  clear hv h0
  split at h
  · injection h with h
    subst h
    repeat' first
      | simp (maxDischargeDepth := 8) only [Only.iff_of (beatPassed_only _ _ _ _), Only.iff_of (passOwn_only _ _ _ _ _), *, partsIn_nil, partsIn_cons, Only.self, Only.mk_iff, Only.forEach_iff, Only.when_iff, Only.ite_of, true_or, or_true, and_self, implies_true, List.mem_cons, reduceCtorEq, or_false, false_or, id_eq]
      | split
  · split at h
    · cases h
    · split at h
      · injection h with h
        subst h
        repeat' first
          | simp (maxDischargeDepth := 8) only [Only.iff_of (beatPassed_only _ _ _ _), Only.iff_of (passFlush_only _ _ _), *, partsIn_nil, partsIn_cons, Only.self, Only.mk_iff, Only.forEach_iff, Only.when_iff, Only.ite_of, true_or, or_true, and_self, implies_true, List.mem_cons, reduceCtorEq, or_false, false_or, id_eq]
          | split
      · split at h
        · injection h with h
          subst h
          repeat' first
            | simp (maxDischargeDepth := 8) only [Only.iff_of (beatPassed_only _ _ _ _), Only.iff_of (passReturn_only _ _ _ _), *, partsIn_nil, partsIn_cons, Only.self, Only.mk_iff, Only.forEach_iff, Only.when_iff, Only.ite_of, true_or, or_true, and_self, implies_true, List.mem_cons, reduceCtorEq, or_false, false_or, id_eq]
            | split
        · obtain ⟨w, hw, hu⟩ := Option.map_eq_some_iff.mp h
          subst hu
          refine ((passSlip_only _ _ _ _ _ hw).mono (by decide)).trans ?_
          refine ((beatPassed_only t lane n w).mono (by decide)).trans ?_
          exact Only.getD fun t ht => (emitNext_only _ _ _ _ ht).mono (by decide)

end Sys2Proof.Machine
end

