-- ==== Sys2Proof/Laws/OnlyProt.lean ====
section
/-!
SUPPORT. Laws/OnlyProt.lean: what each operation of Machine/Prot.lean may change (generated text, one lemma for each operation).
-/
namespace Sys2Proof.Machine

set_option linter.unusedSimpArgs false
set_option linter.tactic.unusedName false

theorem reloadStaging_only (s : State) :
    Only [.regs] s (reloadStaging s) := by
  unfold reloadStaging
  repeat' first
    | simp (maxDischargeDepth := 8) only [Only.iff_of (setReg_only _ _ _ ), *, partsIn_nil, partsIn_cons, Only.self, Only.mk_iff, Only.forEach_iff, Only.when_iff, Only.ite_of, true_or, or_true, and_self, implies_true, List.mem_cons, reduceCtorEq, or_false, false_or, id_eq]
    | split
    | with_reducible refine Only.trans ?_ (Only.forEach (fun _ _ => ?_) _ _)
    | with_reducible refine Only.trans ?_ (Only.when (fun _ => ?_) _ _)

theorem applyWord_only (n v : Nat) (s : State) :
    Only [.regs] s (applyWord n v s) := by
  unfold applyWord
  repeat' first
    | simp (maxDischargeDepth := 8) only [Only.iff_of (setReg_only _ _ _ ), Only.iff_of (setRegF_only _ _ _ _ _ ), *, partsIn_nil, partsIn_cons, Only.self, Only.mk_iff, Only.forEach_iff, Only.when_iff, Only.ite_of, true_or, or_true, and_self, implies_true, List.mem_cons, reduceCtorEq, or_false, false_or, id_eq]
    | split
    | with_reducible refine Only.trans ?_ (Only.forEach (fun _ _ => ?_) _ _)
    | with_reducible refine Only.trans ?_ (Only.when (fun _ => ?_) _ _)

theorem setProtState_only (n : Nat) (s : State) :
    Only [.regs, .pr] s (setProtState n s) := by
  unfold setProtState
  repeat' first
    | simp (maxDischargeDepth := 8) only [Only.iff_of (setRegF_only _ _ _ _ _ ), *, partsIn_nil, partsIn_cons, Only.self, Only.mk_iff, Only.forEach_iff, Only.when_iff, Only.ite_of, true_or, or_true, and_self, implies_true, List.mem_cons, reduceCtorEq, or_false, false_or, id_eq]
    | split
    | with_reducible refine Only.trans ?_ (Only.forEach (fun _ _ => ?_) _ _)
    | with_reducible refine Only.trans ?_ (Only.when (fun _ => ?_) _ _)

theorem dropDigests_only (s : State) :
    Only [.regs, .pr] s (dropDigests s) := by
  unfold dropDigests
  repeat' first
    | simp (maxDischargeDepth := 8) only [Only.iff_of (clrReg_only _ _ _ ), *, partsIn_nil, partsIn_cons, Only.self, Only.mk_iff, Only.forEach_iff, Only.when_iff, Only.ite_of, true_or, or_true, and_self, implies_true, List.mem_cons, reduceCtorEq, or_false, false_or, id_eq]
    | split
    | with_reducible refine Only.trans ?_ (Only.forEach (fun _ _ => ?_) _ _)
    | with_reducible refine Only.trans ?_ (Only.when (fun _ => ?_) _ _)

theorem withdraw_only (s : State) :
    Only [.regs, .pr] s (withdraw s) := by
  unfold withdraw
  repeat' first
    | simp (maxDischargeDepth := 8) only [Only.iff_of (reloadStaging_only _ ), Only.iff_of (setProtState_only _ _ ), Only.iff_of (dropDigests_only _ ), *, partsIn_nil, partsIn_cons, Only.self, Only.mk_iff, Only.forEach_iff, Only.when_iff, Only.ite_of, true_or, or_true, and_self, implies_true, List.mem_cons, reduceCtorEq, or_false, false_or, id_eq]
    | split
    | with_reducible refine Only.trans ?_ (Only.forEach (fun _ _ => ?_) _ _)
    | with_reducible refine Only.trans ?_ (Only.when (fun _ => ?_) _ _)

theorem propose_only (s : State) :
    Only [.regs, .pr] s (propose s) := by
  unfold propose
  repeat' first
    | simp (maxDischargeDepth := 8) only [Only.iff_of (setRegF_only _ _ _ _ _ ), Only.iff_of (orReg_only _ _ _ ), *, partsIn_nil, partsIn_cons, Only.self, Only.mk_iff, Only.forEach_iff, Only.when_iff, Only.ite_of, true_or, or_true, and_self, implies_true, List.mem_cons, reduceCtorEq, or_false, false_or, id_eq]
    | split
    | with_reducible refine Only.trans ?_ (Only.forEach (fun _ _ => ?_) _ _)
    | with_reducible refine Only.trans ?_ (Only.when (fun _ => ?_) _ _)

theorem cancelProposal_only (s : State) :
    Only [.regs, .pr] s (cancelProposal s) := by
  unfold cancelProposal
  repeat' first
    | simp (maxDischargeDepth := 8) only [Only.iff_of (withdraw_only _ ), *, partsIn_nil, partsIn_cons, Only.self, Only.mk_iff, Only.forEach_iff, Only.when_iff, Only.ite_of, true_or, or_true, and_self, implies_true, List.mem_cons, reduceCtorEq, or_false, false_or, id_eq]
    | split
    | with_reducible refine Only.trans ?_ (Only.forEach (fun _ _ => ?_) _ _)
    | with_reducible refine Only.trans ?_ (Only.when (fun _ => ?_) _ _)

theorem purgeProposal_only (s : State) :
    Only [.regs, .pr] s (purgeProposal s) := by
  unfold purgeProposal
  repeat' first
    | simp (maxDischargeDepth := 8) only [Only.iff_of (withdraw_only _ ), *, partsIn_nil, partsIn_cons, Only.self, Only.mk_iff, Only.forEach_iff, Only.when_iff, Only.ite_of, true_or, or_true, and_self, implies_true, List.mem_cons, reduceCtorEq, or_false, false_or, id_eq]
    | split
    | with_reducible refine Only.trans ?_ (Only.forEach (fun _ _ => ?_) _ _)
    | with_reducible refine Only.trans ?_ (Only.when (fun _ => ?_) _ _)

theorem compareDigests_only (sd pd : BitVec 64) (s : State) :
    Only [.regs, .tr, .dbg, .pr] s (compareDigests sd pd s) := by
  unfold compareDigests
  repeat' first
    | simp (maxDischargeDepth := 8) only [Only.iff_of (setRegF_only _ _ _ _ _ ), Only.iff_of (raise_only _ _ ), Only.iff_of (setProtState_only _ _ ), Only.iff_of (dropDigests_only _ ), Only.iff_of (withdraw_only _ ), *, partsIn_nil, partsIn_cons, Only.self, Only.mk_iff, Only.forEach_iff, Only.when_iff, Only.ite_of, true_or, or_true, and_self, implies_true, List.mem_cons, reduceCtorEq, or_false, false_or, id_eq]
    | split
    | with_reducible refine Only.trans ?_ (Only.forEach (fun _ _ => ?_) _ _)
    | with_reducible refine Only.trans ?_ (Only.when (fun _ => ?_) _ _)

theorem holdDigest_only (party : Bool) (d : BitVec 64) (s : State) :
    Only [.regs, .pr] s (holdDigest party d s) := by
  unfold holdDigest
  repeat' first
    | simp (maxDischargeDepth := 8) only [Only.iff_of (orReg_only _ _ _ ), *, partsIn_nil, partsIn_cons, Only.self, Only.mk_iff, Only.forEach_iff, Only.when_iff, Only.ite_of, true_or, or_true, and_self, implies_true, List.mem_cons, reduceCtorEq, or_false, false_or, id_eq]
    | split
    | with_reducible refine Only.trans ?_ (Only.forEach (fun _ _ => ?_) _ _)
    | with_reducible refine Only.trans ?_ (Only.when (fun _ => ?_) _ _)

theorem expireWindow_only (s : State) :
    Only [.regs, .tr, .dbg, .pr] s (expireWindow s) := by
  unfold expireWindow
  repeat' first
    | simp (maxDischargeDepth := 8) only [Only.iff_of (raise_only _ _ ), Only.iff_of (setProtState_only _ _ ), Only.iff_of (dropDigests_only _ ), *, partsIn_nil, partsIn_cons, Only.self, Only.mk_iff, Only.forEach_iff, Only.when_iff, Only.ite_of, true_or, or_true, and_self, implies_true, List.mem_cons, reduceCtorEq, or_false, false_or, id_eq]
    | split
    | with_reducible refine Only.trans ?_ (Only.forEach (fun _ _ => ?_) _ _)
    | with_reducible refine Only.trans ?_ (Only.when (fun _ => ?_) _ _)

theorem completeDigest_only (party : Bool) (hi : Word) (s : State) :
    Only [.regs, .tr, .dbg, .pr] s (completeDigest party hi s) := by
  unfold completeDigest
  repeat' first
    | simp (maxDischargeDepth := 8) only [Only.iff_of (orReg_only _ _ _ ), Only.iff_of (setProtState_only _ _ ), Only.iff_of (compareDigests_only _ _ _ ), Only.iff_of (holdDigest_only _ _ _ ), Only.iff_of (expireWindow_only _ ), *, partsIn_nil, partsIn_cons, Only.self, Only.mk_iff, Only.forEach_iff, Only.when_iff, Only.ite_of, true_or, or_true, and_self, implies_true, List.mem_cons, reduceCtorEq, or_false, false_or, id_eq]
    | split
    | with_reducible refine Only.trans ?_ (Only.forEach (fun _ _ => ?_) _ _)
    | with_reducible refine Only.trans ?_ (Only.when (fun _ => ?_) _ _)

theorem writeDigestLo_only (party : Bool) (w : Word) (s : State) :
    Only [.regs, .pr] s (writeDigestLo party w s) := by
  unfold writeDigestLo
  repeat' first
    | simp (maxDischargeDepth := 8) only [Only.iff_of (orReg_only _ _ _ ), *, partsIn_nil, partsIn_cons, Only.self, Only.mk_iff, Only.forEach_iff, Only.when_iff, Only.ite_of, true_or, or_true, and_self, implies_true, List.mem_cons, reduceCtorEq, or_false, false_or, id_eq]
    | split
    | with_reducible refine Only.trans ?_ (Only.forEach (fun _ _ => ?_) _ _)
    | with_reducible refine Only.trans ?_ (Only.when (fun _ => ?_) _ _)

theorem applyStaging_only (s : State) :
    Only [.regs, .tr, .dbg, .pr] s (applyStaging s) := by
  unfold applyStaging
  repeat' first
    | simp (maxDischargeDepth := 8) only [Only.iff_of (setReg_only _ _ _ ), Only.iff_of (raise_only _ _ ), Only.iff_of (applyWord_only _ _ _ ), Only.iff_of (withdraw_only _ ), *, partsIn_nil, partsIn_cons, Only.self, Only.mk_iff, Only.forEach_iff, Only.when_iff, Only.ite_of, true_or, or_true, and_self, implies_true, List.mem_cons, reduceCtorEq, or_false, false_or, id_eq]
    | split
    | with_reducible refine Only.trans ?_ (Only.forEach (fun _ _ => ?_) _ _)
    | with_reducible refine Only.trans ?_ (Only.when (fun _ => ?_) _ _)

theorem rekeyCtx_only (c : Nat) (s : State) :
    Only [.free, .pr] s (rekeyCtx c s) := by
  unfold rekeyCtx
  repeat' first
    | simp (maxDischargeDepth := 8) only [Only.iff_of (drawFree_only _ ), *, partsIn_nil, partsIn_cons, Only.self, Only.mk_iff, Only.forEach_iff, Only.when_iff, Only.ite_of, true_or, or_true, and_self, implies_true, List.mem_cons, reduceCtorEq, or_false, false_or, id_eq]
    | (refine Only.snd (by assumption) (drawFree_only _ ) (by decide) ?_)
    | split
    | with_reducible refine Only.trans ?_ (Only.forEach (fun _ _ => ?_) _ _)
    | with_reducible refine Only.trans ?_ (Only.when (fun _ => ?_) _ _)

theorem setSeal_only (l : Nat) (x : Seal) (s : State) :
    Only [.pr] s (setSeal l x s) := by
  unfold setSeal
  repeat' first
    | simp (maxDischargeDepth := 8) only [*, partsIn_nil, partsIn_cons, Only.self, Only.mk_iff, Only.forEach_iff, Only.when_iff, Only.ite_of, true_or, or_true, and_self, implies_true, List.mem_cons, reduceCtorEq, or_false, false_or, id_eq]
    | split
    | with_reducible refine Only.trans ?_ (Only.forEach (fun _ _ => ?_) _ _)
    | with_reducible refine Only.trans ?_ (Only.when (fun _ => ?_) _ _)

theorem armSeal_only (l nfm1 : Nat) (s : State) :
    Only [.regs, .pr] s (armSeal l nfm1 s) := by
  unfold armSeal
  repeat' first
    | simp (maxDischargeDepth := 8) only [Only.iff_of (setReg_only _ _ _ ), Only.iff_of (setSeal_only _ _ _ ), *, partsIn_nil, partsIn_cons, Only.self, Only.mk_iff, Only.forEach_iff, Only.when_iff, Only.ite_of, true_or, or_true, and_self, implies_true, List.mem_cons, reduceCtorEq, or_false, false_or, id_eq]
    | split
    | with_reducible refine Only.trans ?_ (Only.forEach (fun _ _ => ?_) _ _)
    | with_reducible refine Only.trans ?_ (Only.when (fun _ => ?_) _ _)

theorem writeSealCfg_only (l : Nat) (w : Word) (s : State) :
    Only [.regs, .pr] s (writeSealCfg l w s) := by
  unfold writeSealCfg
  repeat' first
    | simp (maxDischargeDepth := 8) only [Only.iff_of (setReg_only _ _ _ ), Only.iff_of (orReg_only _ _ _ ), Only.iff_of (armSeal_only _ _ _ ), *, partsIn_nil, partsIn_cons, Only.self, Only.mk_iff, Only.forEach_iff, Only.when_iff, Only.ite_of, true_or, or_true, and_self, implies_true, List.mem_cons, reduceCtorEq, or_false, false_or, id_eq]
    | split
    | with_reducible refine Only.trans ?_ (Only.forEach (fun _ _ => ?_) _ _)
    | with_reducible refine Only.trans ?_ (Only.when (fun _ => ?_) _ _)

theorem finishSeal_only (l : Nat) (x : Seal) (s : State) :
    Only [.regs, .tr, .dbg, .pr] s (finishSeal l x s).2 := by
  unfold finishSeal
  repeat' first
    | simp (maxDischargeDepth := 8) only [Only.iff_of (setReg_only _ _ _ ), Only.iff_of (raise_only _ _ ), Only.iff_of (setSeal_only _ _ _ ), *, partsIn_nil, partsIn_cons, Only.self, Only.mk_iff, Only.forEach_iff, Only.when_iff, Only.ite_of, true_or, or_true, and_self, implies_true, List.mem_cons, reduceCtorEq, or_false, false_or, id_eq]
    | split
    | with_reducible refine Only.trans ?_ (Only.forEach (fun _ _ => ?_) _ _)
    | with_reducible refine Only.trans ?_ (Only.when (fun _ => ?_) _ _)

theorem sealFlit_only (l : Nat) (data : Row) (s : State) :
    Only [.regs, .tr, .dbg, .pr] s (sealFlit l data s).2.2 := by
  unfold sealFlit
  repeat' first
    | simp (maxDischargeDepth := 8) only [Only.iff_of (setSeal_only _ _ _ ), Only.iff_of (finishSeal_only _ _ _ ), *, partsIn_nil, partsIn_cons, Only.self, Only.mk_iff, Only.forEach_iff, Only.when_iff, Only.ite_of, true_or, or_true, and_self, implies_true, List.mem_cons, reduceCtorEq, or_false, false_or, id_eq]
    | (refine Only.snd (by assumption) (finishSeal_only _ _ _ ) (by decide) ?_)
    | split
    | with_reducible refine Only.trans ?_ (Only.forEach (fun _ _ => ?_) _ _)
    | with_reducible refine Only.trans ?_ (Only.when (fun _ => ?_) _ _)

theorem startPurge_only (s : State) :
    Only [.regs, .bank, .fr, .tr, .dbg, .fw, .pr] s (startPurge s) := by
  unfold startPurge
  repeat' first
    | simp (maxDischargeDepth := 8) only [Only.iff_of (setRegF_only _ _ _ _ _ ), Only.iff_of (cancelMig_only _ ), Only.iff_of (purgeProposal_only _ ), *, partsIn_nil, partsIn_cons, Only.self, Only.mk_iff, Only.forEach_iff, Only.when_iff, Only.ite_of, true_or, or_true, and_self, implies_true, List.mem_cons, reduceCtorEq, or_false, false_or, id_eq]
    | split
    | with_reducible refine Only.trans ?_ (Only.forEach (fun _ _ => ?_) _ _)
    | with_reducible refine Only.trans ?_ (Only.when (fun _ => ?_) _ _)

theorem unlock_only (w : Word) (s : State) :
    Only [.regs, .bank, .fr, .tr, .dbg, .fw, .pr] s (unlock w s) := by
  unfold unlock
  repeat' first
    | simp (maxDischargeDepth := 8) only [Only.iff_of (orReg_only _ _ _ ), Only.iff_of (raise_only _ _ ), Only.iff_of (startPurge_only _ ), *, partsIn_nil, partsIn_cons, Only.self, Only.mk_iff, Only.forEach_iff, Only.when_iff, Only.ite_of, true_or, or_true, and_self, implies_true, List.mem_cons, reduceCtorEq, or_false, false_or, id_eq]
    | split
    | with_reducible refine Only.trans ?_ (Only.forEach (fun _ _ => ?_) _ _)
    | with_reducible refine Only.trans ?_ (Only.when (fun _ => ?_) _ _)

theorem relock_only (w : Word) (s : State) :
    Only [.regs, .fr, .dbg] s (relock w s) := by
  unfold relock
  repeat' first
    | simp (maxDischargeDepth := 8) only [Only.iff_of (clrReg_only _ _ _ ), Only.iff_of (watchRelock_only _ ), *, partsIn_nil, partsIn_cons, Only.self, Only.mk_iff, Only.forEach_iff, Only.when_iff, Only.ite_of, true_or, or_true, and_self, implies_true, List.mem_cons, reduceCtorEq, or_false, false_or, id_eq]
    | split
    | with_reducible refine Only.trans ?_ (Only.forEach (fun _ _ => ?_) _ _)
    | with_reducible refine Only.trans ?_ (Only.when (fun _ => ?_) _ _)

theorem dropRing_only (q : Nat) (s : State) :
    Only [.regs] s (dropRing q s) := by
  unfold dropRing
  repeat' first
    | simp (maxDischargeDepth := 8) only [Only.iff_of (setRegF_only _ _ _ _ _ ), *, partsIn_nil, partsIn_cons, Only.self, Only.mk_iff, Only.forEach_iff, Only.when_iff, Only.ite_of, true_or, or_true, and_self, implies_true, List.mem_cons, reduceCtorEq, or_false, false_or, id_eq]
    | split
    | with_reducible refine Only.trans ?_ (Only.forEach (fun _ _ => ?_) _ _)
    | with_reducible refine Only.trans ?_ (Only.when (fun _ => ?_) _ _)

theorem dropReadouts_only (s : State) :
    Only [.regs, .dbg] s (dropReadouts s) := by
  unfold dropReadouts
  repeat' first
    | simp (maxDischargeDepth := 8) only [Only.iff_of (setRegF_only _ _ _ _ _ ), *, partsIn_nil, partsIn_cons, Only.self, Only.mk_iff, Only.forEach_iff, Only.when_iff, Only.ite_of, true_or, or_true, and_self, implies_true, List.mem_cons, reduceCtorEq, or_false, false_or, id_eq]
    | split
    | with_reducible refine Only.trans ?_ (Only.forEach (fun _ _ => ?_) _ _)
    | with_reducible refine Only.trans ?_ (Only.when (fun _ => ?_) _ _)

theorem eraseBuffers_only (s : State) :
    Only [.cnt, .bank, .fr, .arb, .sq, .bl, .hd, .tr, .dbg, .rx, .pr] s (eraseBuffers s) := by
  unfold eraseBuffers
  repeat' first
    | simp (maxDischargeDepth := 8) only [*, partsIn_nil, partsIn_cons, Only.self, Only.mk_iff, Only.forEach_iff, Only.when_iff, Only.ite_of, true_or, or_true, and_self, implies_true, List.mem_cons, reduceCtorEq, or_false, false_or, id_eq]
    | split
    | with_reducible refine Only.trans ?_ (Only.forEach (fun _ _ => ?_) _ _)
    | with_reducible refine Only.trans ?_ (Only.when (fun _ => ?_) _ _)

theorem purgeTrace_only (s : State) :
    Only [.regs] s (purgeTrace s) := by
  unfold purgeTrace
  repeat' first
    | simp (maxDischargeDepth := 8) only [Only.iff_of (setReg_only _ _ _ ), Only.iff_of (clrReg_only _ _ _ ), *, partsIn_nil, partsIn_cons, Only.self, Only.mk_iff, Only.forEach_iff, Only.when_iff, Only.ite_of, true_or, or_true, and_self, implies_true, List.mem_cons, reduceCtorEq, or_false, false_or, id_eq]
    | split
    | with_reducible refine Only.trans ?_ (Only.forEach (fun _ _ => ?_) _ _)
    | with_reducible refine Only.trans ?_ (Only.when (fun _ => ?_) _ _)

theorem purgeAll_only (s : State) :
    Only [.regs, .cnt, .mem, .bank, .fr, .arb, .sq, .bl, .hd, .tr, .dbg, .rx, .pr] s (purgeAll s) := by
  unfold purgeAll
  repeat' first
    | simp (maxDischargeDepth := 8) only [Only.iff_of (setReg_only _ _ _ ), Only.iff_of (raise_only _ _ ), Only.iff_of (setPow_only _ _ _ ), Only.iff_of (purgeBank_only _ _ ), Only.iff_of (purgeProposal_only _ ), Only.iff_of (dropRing_only _ _ ), Only.iff_of (dropReadouts_only _ ), Only.iff_of (eraseBuffers_only _ ), Only.iff_of (purgeTrace_only _ ), *, partsIn_nil, partsIn_cons, Only.self, Only.mk_iff, Only.forEach_iff, Only.when_iff, Only.ite_of, true_or, or_true, and_self, implies_true, List.mem_cons, reduceCtorEq, or_false, false_or, id_eq]
    | split
    | with_reducible refine Only.trans ?_ (Only.forEach (fun _ _ => ?_) _ _)
    | with_reducible refine Only.trans ?_ (Only.when (fun _ => ?_) _ _)

end Sys2Proof.Machine
end

