-- ==== Sys2Proof/Laws/OnlyLanes.lean ====
section
/-!
SUPPORT. Laws/OnlyLanes.lean: what each operation of Machine/Lanes.lean may change (generated text, one lemma for each operation).
-/
namespace Sys2Proof.Machine

set_option linter.unusedSimpArgs false
set_option linter.tactic.unusedName false

theorem refusedFlits_only (req ctx client rl n : Nat) (s : State) :
    Only [.fr] s (refusedFlits req ctx client rl n s) := by
  unfold refusedFlits
  repeat' first
    | simp (maxDischargeDepth := 8) only [Only.iff_of (addTr_only _ _ ), *, partsIn_nil, partsIn_cons, Only.self, Only.mk_iff, Only.forEach_iff, Only.when_iff, Only.ite_of, true_or, or_true, and_self, implies_true, List.mem_cons, reduceCtorEq, or_false, false_or, id_eq]
    | split
    | with_reducible refine Only.trans ?_ (Only.forEach (fun _ _ => ?_) _ _)
    | with_reducible refine Only.trans ?_ (Only.when (fun _ => ?_) _ _)

theorem refuseRq_only (wr : Bool) (lane r kind : Nat) (s : State) :
    Only [.regs, .cnt, .fr, .tr, .dbg] s (refuseRq wr lane r kind s) := by
  unfold refuseRq
  repeat' first
    | simp (maxDischargeDepth := 8) only [Only.iff_of (bump_only _ _ _ ), Only.iff_of (raise_only _ _ ), Only.iff_of (fillLog1_only _ _ _ ), Only.iff_of (addTr_only _ _ ), Only.iff_of (refusedFlits_only _ _ _ _ _ _ ), *, partsIn_nil, partsIn_cons, Only.self, Only.mk_iff, Only.forEach_iff, Only.when_iff, Only.ite_of, true_or, or_true, and_self, implies_true, List.mem_cons, reduceCtorEq, or_false, false_or, id_eq]
    | split
    | with_reducible refine Only.trans ?_ (Only.forEach (fun _ _ => ?_) _ _)
    | with_reducible refine Only.trans ?_ (Only.when (fun _ => ?_) _ _)

theorem takeRq_only (wr : Bool) (lane r : Nat) (s : State) :
    Only [.regs, .cnt, .fr, .tr, .dbg] s (takeRq wr lane r s) := by
  unfold takeRq
  repeat' first
    | simp (maxDischargeDepth := 8) only [Only.iff_of (addTr_only _ _ ), Only.iff_of (refuseRq_only _ _ _ _ _ ), *, partsIn_nil, partsIn_cons, Only.self, Only.mk_iff, Only.forEach_iff, Only.when_iff, Only.ite_of, true_or, or_true, and_self, implies_true, List.mem_cons, reduceCtorEq, or_false, false_or, id_eq]
    | split
    | with_reducible refine Only.trans ?_ (Only.forEach (fun _ _ => ?_) _ _)
    | with_reducible refine Only.trans ?_ (Only.when (fun _ => ?_) _ _)

theorem setChan_only (wr : Bool) (lane : Nat) (x : ReqCh) (s : State) :
    Only [.fr] s (setChan wr lane x s) := by
  unfold setChan
  repeat' first
    | simp (maxDischargeDepth := 8) only [*, partsIn_nil, partsIn_cons, Only.self, Only.mk_iff, Only.forEach_iff, Only.when_iff, Only.ite_of, true_or, or_true, and_self, implies_true, List.mem_cons, reduceCtorEq, or_false, false_or, id_eq]
    | split
    | with_reducible refine Only.trans ?_ (Only.forEach (fun _ _ => ?_) _ _)
    | with_reducible refine Only.trans ?_ (Only.when (fun _ => ?_) _ _)

theorem drainChan_only (wr : Bool) (lane : Nat) (s : State) :
    Only [.regs, .cnt, .fr, .tr, .dbg] s (drainChan wr lane s) := by
  unfold drainChan
  repeat' first
    | simp (maxDischargeDepth := 8) only [Only.iff_of (takeRq_only _ _ _ _ ), Only.iff_of (setChan_only _ _ _ _ ), *, partsIn_nil, partsIn_cons, Only.self, Only.mk_iff, Only.forEach_iff, Only.when_iff, Only.ite_of, true_or, or_true, and_self, implies_true, List.mem_cons, reduceCtorEq, or_false, false_or, id_eq]
    | split
    | with_reducible refine Only.trans ?_ (Only.forEach (fun _ _ => ?_) _ _)
    | with_reducible refine Only.trans ?_ (Only.when (fun _ => ?_) _ _)

theorem presentRq_only (wr : Bool) (lane : Nat) (rq : BitVec 64) (s : State) :
    Only [.regs, .cnt, .fr, .tr, .dbg] s (presentRq wr lane rq s) := by
  unfold presentRq
  repeat' first
    | simp (maxDischargeDepth := 8) only [Only.iff_of (setChan_only _ _ _ _ ), Only.iff_of (drainChan_only _ _ _ ), *, partsIn_nil, partsIn_cons, Only.self, Only.mk_iff, Only.forEach_iff, Only.when_iff, Only.ite_of, true_or, or_true, and_self, implies_true, List.mem_cons, reduceCtorEq, or_false, false_or, id_eq]
    | split
    | with_reducible refine Only.trans ?_ (Only.forEach (fun _ _ => ?_) _ _)
    | with_reducible refine Only.trans ?_ (Only.when (fun _ => ?_) _ _)

theorem dropSlip_only (sid : Nat) (s : State) :
    Only [.regs, .sq, .dbg] s (dropSlip sid s) := by
  unfold dropSlip
  repeat' first
    | simp (maxDischargeDepth := 8) only [Only.iff_of (watchRelease_only _ _ ), *, partsIn_nil, partsIn_cons, Only.self, Only.mk_iff, Only.forEach_iff, Only.when_iff, Only.ite_of, true_or, or_true, and_self, implies_true, List.mem_cons, reduceCtorEq, or_false, false_or, id_eq]
    | split
    | with_reducible refine Only.trans ?_ (Only.forEach (fun _ _ => ?_) _ _)
    | with_reducible refine Only.trans ?_ (Only.when (fun _ => ?_) _ _)

theorem lengthMismatch_only (x : Slip) (s : State) :
    Only [.regs, .sq, .tr, .dbg] s (lengthMismatch x s) := by
  unfold lengthMismatch
  repeat' first
    | simp (maxDischargeDepth := 8) only [Only.iff_of (raise_only _ _ ), Only.iff_of (fillLog_only _ _ _ _ ), Only.iff_of (updSlip_only _ _ _ ), *, partsIn_nil, partsIn_cons, Only.self, Only.mk_iff, Only.forEach_iff, Only.when_iff, Only.ite_of, true_or, or_true, and_self, implies_true, List.mem_cons, reduceCtorEq, or_false, false_or, id_eq]
    | split
    | with_reducible refine Only.trans ?_ (Only.forEach (fun _ _ => ?_) _ _)
    | with_reducible refine Only.trans ?_ (Only.when (fun _ => ?_) _ _)

theorem receiveFlit_only (sid : Nat) (last : Bool) (s : State) :
    Only [.regs, .sq, .tr, .dbg] s (receiveFlit sid last s) := by
  unfold receiveFlit
  repeat' first
    | simp (maxDischargeDepth := 8) only [Only.iff_of (updSlip_only _ _ _ ), Only.iff_of (lengthMismatch_only _ _ ), *, partsIn_nil, partsIn_cons, Only.self, Only.mk_iff, Only.forEach_iff, Only.when_iff, Only.ite_of, true_or, or_true, and_self, implies_true, List.mem_cons, reduceCtorEq, or_false, false_or, id_eq]
    | split
    | with_reducible refine Only.trans ?_ (Only.forEach (fun _ _ => ?_) _ _)
    | with_reducible refine Only.trans ?_ (Only.when (fun _ => ?_) _ _)

theorem freeTaken_only (sid : Nat) (s : State) :
    Only [.sq, .bl] s (freeTaken sid s) := by
  unfold freeTaken
  repeat' first
    | simp (maxDischargeDepth := 8) only [Only.iff_of (freeSlots_only _ _ _ ), *, partsIn_nil, partsIn_cons, Only.self, Only.mk_iff, Only.forEach_iff, Only.when_iff, Only.ite_of, true_or, or_true, and_self, implies_true, List.mem_cons, reduceCtorEq, or_false, false_or, id_eq]
    | split
    | with_reducible refine Only.trans ?_ (Only.forEach (fun _ _ => ?_) _ _)
    | with_reducible refine Only.trans ?_ (Only.when (fun _ => ?_) _ _)

theorem takeStaged_only (sid : Nat) (l : List WFlit) (s : State) : Only [.regs, .sq, .tr, .dbg] s (takeStaged sid l s) := by
  induction l generalizing s with
  | nil => exact Only.refl _ _
  | cons f fs ih =>
    unfold takeStaged
    repeat' first
      | simp (maxDischargeDepth := 8) only [Only.iff_of (ih _), Only.iff_of (updSlip_only _ _ _), Only.iff_of (receiveFlit_only _ _ _), *, partsIn_nil, partsIn_cons, Only.self, Only.mk_iff, Only.forEach_iff, Only.when_iff, Only.ite_of, true_or, or_true, and_self, implies_true, List.mem_cons, reduceCtorEq, or_false, false_or, id_eq]
      | split

theorem unsealFlit_only (lane : Nat) (ofSlip : Bool) (sid : Option Nat) (data : Row) (s : State) :
    Only [.regs, .sq, .tr, .dbg, .pr] s (unsealFlit lane ofSlip sid data s).2 := by
  unfold unsealFlit
  repeat' first
    | simp (maxDischargeDepth := 8) only [Only.iff_of (updSlip_only _ _ _ ), Only.iff_of (sealFlit_only _ _ _ ), *, partsIn_nil, partsIn_cons, Only.self, Only.mk_iff, Only.forEach_iff, Only.when_iff, Only.ite_of, true_or, or_true, and_self, implies_true, List.mem_cons, reduceCtorEq, or_false, false_or, id_eq]
    | (refine Only.snd (by assumption) (sealFlit_only _ _ _ ) (by decide) ?_)
    | split
    | with_reducible refine Only.trans ?_ (Only.forEach (fun _ _ => ?_) _ _)
    | with_reducible refine Only.trans ?_ (Only.when (fun _ => ?_) _ _)

theorem stageFlit_only (lane : Nat) (f : WFlit) (s : State) :
    Only [.fr] s (stageFlit lane f s) := by
  unfold stageFlit
  repeat' first
    | simp (maxDischargeDepth := 8) only [Only.iff_of (updWlane_only _ _ _ ), *, partsIn_nil, partsIn_cons, Only.self, Only.mk_iff, Only.forEach_iff, Only.when_iff, Only.ite_of, true_or, or_true, and_self, implies_true, List.mem_cons, reduceCtorEq, or_false, false_or, id_eq]
    | split
    | with_reducible refine Only.trans ?_ (Only.forEach (fun _ _ => ?_) _ _)
    | with_reducible refine Only.trans ?_ (Only.when (fun _ => ?_) _ _)

theorem popWdcq_only (lane : Nat) (s : State) :
    Only [.fr] s (popWdcq lane s) := by
  unfold popWdcq
  repeat' first
    | simp (maxDischargeDepth := 8) only [Only.iff_of (updWlane_only _ _ _ ), *, partsIn_nil, partsIn_cons, Only.self, Only.mk_iff, Only.forEach_iff, Only.when_iff, Only.ite_of, true_or, or_true, and_self, implies_true, List.mem_cons, reduceCtorEq, or_false, false_or, id_eq]
    | split
    | with_reducible refine Only.trans ?_ (Only.forEach (fun _ _ => ?_) _ _)
    | with_reducible refine Only.trans ?_ (Only.when (fun _ => ?_) _ _)

theorem stagePlain_only (lane : Nat) (sid : Option Nat) (d : Row × BitVec 81) (s : State) :
    Only [.regs, .fr, .sq, .tr, .dbg, .pr] s (stagePlain lane sid d s) := by
  unfold stagePlain
  repeat' first
    | simp (maxDischargeDepth := 8) only [Only.iff_of (unsealFlit_only _ _ _ _ _ ), Only.iff_of (stageFlit_only _ _ _ ), Only.iff_of (popWdcq_only _ _ ), *, partsIn_nil, partsIn_cons, Only.self, Only.mk_iff, Only.forEach_iff, Only.when_iff, Only.ite_of, true_or, or_true, and_self, implies_true, List.mem_cons, reduceCtorEq, or_false, false_or, id_eq]
    | (refine Only.snd (by assumption) (unsealFlit_only _ _ _ _ _ ) (by decide) ?_)
    | split
    | with_reducible refine Only.trans ?_ (Only.forEach (fun _ _ => ?_) _ _)
    | with_reducible refine Only.trans ?_ (Only.when (fun _ => ?_) _ _)

theorem stageSlip_only (lane : Nat) (x : Slip) (par : Mask4) (d : Row × BitVec 81) (s : State) :
    Only [.regs, .cnt, .fr, .sq, .bl, .tr, .dbg, .fw, .pw, .pr] s (stageSlip lane x par d s) := by
  unfold stageSlip
  repeat' first
    | simp (maxDischargeDepth := 8) only [Only.iff_of (estimate_only _ _ _ ), Only.iff_of (updSlip_only _ _ _ ), Only.iff_of (raiseBlend_only _ _ _ ), Only.iff_of (progress_only _ _ ), Only.iff_of (blendParity_only _ _ ), Only.iff_of (receiveFlit_only _ _ _ ), Only.iff_of (freeTaken_only _ _ ), Only.iff_of (unsealFlit_only _ _ _ _ _ ), Only.iff_of (stageFlit_only _ _ _ ), Only.iff_of (popWdcq_only _ _ ), *, partsIn_nil, partsIn_cons, Only.self, Only.mk_iff, Only.forEach_iff, Only.when_iff, Only.ite_of, true_or, or_true, and_self, implies_true, List.mem_cons, reduceCtorEq, or_false, false_or, id_eq]
    | (refine Only.snd (by assumption) (unsealFlit_only _ _ _ _ _ ) (by decide) ?_)
    | split
    | with_reducible refine Only.trans ?_ (Only.forEach (fun _ _ => ?_) _ _)
    | with_reducible refine Only.trans ?_ (Only.when (fun _ => ?_) _ _)

theorem moveToStaging_only (lane : Nat) (par : Mask4) (d : Row × BitVec 81) (s : State) :
    Only [.regs, .cnt, .fr, .sq, .bl, .tr, .dbg, .fw, .pw, .pr] s (moveToStaging lane par d s) := by
  unfold moveToStaging
  repeat' first
    | simp (maxDischargeDepth := 8) only [Only.iff_of (stageFlit_only _ _ _ ), Only.iff_of (popWdcq_only _ _ ), Only.iff_of (stagePlain_only _ _ _ _ ), Only.iff_of (stageSlip_only _ _ _ _ _ ), *, partsIn_nil, partsIn_cons, Only.self, Only.mk_iff, Only.forEach_iff, Only.when_iff, Only.ite_of, true_or, or_true, and_self, implies_true, List.mem_cons, reduceCtorEq, or_false, false_or, id_eq]
    | split
    | with_reducible refine Only.trans ?_ (Only.forEach (fun _ _ => ?_) _ _)
    | with_reducible refine Only.trans ?_ (Only.when (fun _ => ?_) _ _)

end Sys2Proof.Machine
end

