-- ==== Sys2Proof/Laws/OnlyIssue.lean ====
section
/-!
SUPPORT. Laws/OnlyIssue.lean: what each operation of Machine/Issue.lean may change (generated text, one lemma for each operation).
-/
namespace Sys2Proof.Machine

set_option linter.unusedSimpArgs false
set_option linter.tactic.unusedName false

theorem joinOrders_only (id : Nat) (t : Tr) (s : State) :
    Only [.fr] s (joinOrders id t s) := by
  unfold joinOrders
  repeat' first
    | simp (maxDischargeDepth := 8) only [Only.iff_of (updRlane_only _ _ _ ), Only.iff_of (updWlane_only _ _ _ ), *, partsIn_nil, partsIn_cons, Only.self, Only.mk_iff, Only.forEach_iff, Only.when_iff, Only.ite_of, true_or, or_true, and_self, implies_true, List.mem_cons, reduceCtorEq, or_false, false_or, id_eq]
    | split
    | with_reducible refine Only.trans ?_ (Only.forEach (fun _ _ => ?_) _ _)
    | with_reducible refine Only.trans ?_ (Only.when (fun _ => ?_) _ _)

theorem takeClaim_only (x : Slip) (s : State) :
    Only [.regs, .fr, .sq, .bl, .tr, .dbg] s (takeClaim x s) := by
  unfold takeClaim
  repeat' first
    | simp (maxDischargeDepth := 8) only [Only.iff_of (updWlane_only _ _ _ ), Only.iff_of (freeTaken_only _ _ ), Only.iff_of (takeStaged_only _ _ _ ), *, partsIn_nil, partsIn_cons, Only.self, Only.mk_iff, Only.forEach_iff, Only.when_iff, Only.ite_of, true_or, or_true, and_self, implies_true, List.mem_cons, reduceCtorEq, or_false, false_or, id_eq]
    | split
    | with_reducible refine Only.trans ?_ (Only.forEach (fun _ _ => ?_) _ _)
    | with_reducible refine Only.trans ?_ (Only.when (fun _ => ?_) _ _)

theorem issueTr_only (t : Tr) (s : State) :
    Only [.regs, .fr, .sq, .bl, .tr, .dbg] s (issueTr t s) := by
  unfold issueTr
  repeat' first
    | simp (maxDischargeDepth := 8) only [Only.iff_of (updSlip_only _ _ _ ), Only.iff_of (addTr_only _ _ ), Only.iff_of (setTr_only _ _ ), Only.iff_of (joinOrders_only _ _ _ ), Only.iff_of (takeClaim_only _ _ ), *, partsIn_nil, partsIn_cons, Only.self, Only.mk_iff, Only.forEach_iff, Only.when_iff, Only.ite_of, true_or, or_true, and_self, implies_true, List.mem_cons, reduceCtorEq, or_false, false_or, id_eq]
    | split
    | with_reducible refine Only.trans ?_ (Only.forEach (fun _ _ => ?_) _ _)
    | with_reducible refine Only.trans ?_ (Only.when (fun _ => ?_) _ _)

theorem issueGo_only (l : List Tr) (s : State) : Only [.regs, .fr, .sq, .bl, .tr, .dbg] s (issueGo l s) := by
  induction l generalizing s with
  | nil => exact Only.refl _ _
  | cons t ts ih =>
    unfold issueGo
    repeat' first
      | simp (maxDischargeDepth := 8) only [Only.iff_of (ih _), Only.iff_of (issueTr_only _ _), *, partsIn_nil, partsIn_cons, Only.self, Only.mk_iff, Only.forEach_iff, Only.when_iff, Only.ite_of, true_or, or_true, and_self, implies_true, List.mem_cons, reduceCtorEq, or_false, false_or, id_eq]
      | split

theorem transferScales_only (x : Slip) (t : Tr) (rows : List (List (Nat × Bool))) (s : State) :
    Only [.sq] s (transferScales x t rows s) := by
  unfold transferScales
  repeat' first
    | simp (maxDischargeDepth := 8) only [Only.iff_of (updSlip_only _ _ _ ), *, partsIn_nil, partsIn_cons, Only.self, Only.mk_iff, Only.forEach_iff, Only.when_iff, Only.ite_of, true_or, or_true, and_self, implies_true, List.mem_cons, reduceCtorEq, or_false, false_or, id_eq]
    | split
    | with_reducible refine Only.trans ?_ (Only.forEach (fun _ _ => ?_) _ _)
    | with_reducible refine Only.trans ?_ (Only.when (fun _ => ?_) _ _)

theorem giveRows_only (t : Tr) (rows : List StoredRow) (s : State) :
    Only [.fr] s (giveRows t rows s) := by
  unfold giveRows
  repeat' first
    | simp (maxDischargeDepth := 8) only [Only.iff_of (setTr_only _ _ ), *, partsIn_nil, partsIn_cons, Only.self, Only.mk_iff, Only.forEach_iff, Only.when_iff, Only.ite_of, true_or, or_true, and_self, implies_true, List.mem_cons, reduceCtorEq, or_false, false_or, id_eq]
    | split
    | with_reducible refine Only.trans ?_ (Only.forEach (fun _ _ => ?_) _ _)
    | with_reducible refine Only.trans ?_ (Only.when (fun _ => ?_) _ _)

theorem slipRequest_only (x : Slip) (t : Tr) (s : State) :
    Only [.regs, .fr, .sq, .pw] s (slipRequest x t s) := by
  unfold slipRequest
  repeat' first
    | simp (maxDischargeDepth := 8) only [Only.iff_of (estimate_only _ _ _ ), Only.iff_of (updSlip_only _ _ _ ), Only.iff_of (setTr_only _ _ ), Only.iff_of (raiseCvt_only _ _ _ ), Only.iff_of (transferScales_only _ _ _ _ ), Only.iff_of (giveRows_only _ _ _ ), *, partsIn_nil, partsIn_cons, Only.self, Only.mk_iff, Only.forEach_iff, Only.when_iff, Only.ite_of, true_or, or_true, and_self, implies_true, List.mem_cons, reduceCtorEq, or_false, false_or, id_eq]
    | split
    | with_reducible refine Only.trans ?_ (Only.forEach (fun _ _ => ?_) _ _)
    | with_reducible refine Only.trans ?_ (Only.when (fun _ => ?_) _ _)

theorem dropFlits_only (lane : Nat) (t : Tr) (s : State) :
    Only [.fr] s (dropFlits lane t s) := by
  unfold dropFlits
  repeat' first
    | simp (maxDischargeDepth := 8) only [Only.iff_of (setWlane_only _ _ _ ), Only.iff_of (updWlane_only _ _ _ ), Only.iff_of (setTr_only _ _ ), *, partsIn_nil, partsIn_cons, Only.self, Only.mk_iff, Only.forEach_iff, Only.when_iff, Only.ite_of, true_or, or_true, and_self, implies_true, List.mem_cons, reduceCtorEq, or_false, false_or, id_eq]
    | split
    | with_reducible refine Only.trans ?_ (Only.forEach (fun _ _ => ?_) _ _)
    | with_reducible refine Only.trans ?_ (Only.when (fun _ => ?_) _ _)

end Sys2Proof.Machine
end

