-- ==== Sys2Proof/Laws/OnlySlips.lean ====
section
/-!
SUPPORT. Laws/OnlySlips.lean: what each operation of Machine/Slips.lean may change (generated text, one lemma for each operation).
-/
namespace Sys2Proof.Machine

set_option linter.unusedSimpArgs false
set_option linter.tactic.unusedName false

theorem tallyAdd_only (n t : Nat) (s : State) :
    Only [.regs] s (tallyAdd n t s) := by
  unfold tallyAdd
  repeat' first
    | simp (maxDischargeDepth := 8) only [Only.iff_of (setReg_only _ _ _ ), *, partsIn_nil, partsIn_cons, Only.self, Only.mk_iff, Only.forEach_iff, Only.when_iff, Only.ite_of, true_or, or_true, and_self, implies_true, List.mem_cons, reduceCtorEq, or_false, false_or, id_eq]
    | split
    | with_reducible refine Only.trans ?_ (Only.forEach (fun _ _ => ?_) _ _)
    | with_reducible refine Only.trans ?_ (Only.when (fun _ => ?_) _ _)

theorem slipLog_only (kind q reason : Nat) (w : BitVec 512) (ent : Nat) (s : State) :
    Only [.regs] s (slipLog kind q reason w ent s) := by
  unfold slipLog
  repeat' first
    | simp (maxDischargeDepth := 8) only [Only.iff_of (fillLog_only _ _ _ _ ), *, partsIn_nil, partsIn_cons, Only.self, Only.mk_iff, Only.forEach_iff, Only.when_iff, Only.ite_of, true_or, or_true, and_self, implies_true, List.mem_cons, reduceCtorEq, or_false, false_or, id_eq]
    | split
    | with_reducible refine Only.trans ?_ (Only.forEach (fun _ _ => ?_) _ _)
    | with_reducible refine Only.trans ?_ (Only.when (fun _ => ?_) _ _)

theorem settleHead_only (q : Nat) (s : State) :
    Only [.regs, .cnt, .sq, .tr, .dbg] s (settleHead q s) := by
  unfold settleHead
  repeat' first
    | simp (maxDischargeDepth := 8) only [Only.iff_of (bump_only _ _ _ ), Only.iff_of (raise_only _ _ ), Only.iff_of (updQueue_only _ _ _ ), Only.iff_of (slipLog_only _ _ _ _ _ _ ), *, partsIn_nil, partsIn_cons, Only.self, Only.mk_iff, Only.forEach_iff, Only.when_iff, Only.ite_of, true_or, or_true, and_self, implies_true, List.mem_cons, reduceCtorEq, or_false, false_or, id_eq]
    | split
    | with_reducible refine Only.trans ?_ (Only.forEach (fun _ _ => ?_) _ _)
    | with_reducible refine Only.trans ?_ (Only.when (fun _ => ?_) _ _)

theorem refuseCommit_only (q : Nat) (s : State) :
    Only [.regs, .cnt, .tr, .dbg] s (refuseCommit q s) := by
  unfold refuseCommit
  repeat' first
    | simp (maxDischargeDepth := 8) only [Only.iff_of (bump_only _ _ _ ), Only.iff_of (raise_only _ _ ), Only.iff_of (fillLog_only _ _ _ _ ), *, partsIn_nil, partsIn_cons, Only.self, Only.mk_iff, Only.forEach_iff, Only.when_iff, Only.ite_of, true_or, or_true, and_self, implies_true, List.mem_cons, reduceCtorEq, or_false, false_or, id_eq]
    | split
    | with_reducible refine Only.trans ?_ (Only.forEach (fun _ _ => ?_) _ _)
    | with_reducible refine Only.trans ?_ (Only.when (fun _ => ?_) _ _)

theorem stageWord_only (q i : Nat) (w : Word) (s : State) :
    Only [.sq] s (stageWord q i w s) := by
  unfold stageWord
  repeat' first
    | simp (maxDischargeDepth := 8) only [Only.iff_of (updQueue_only _ _ _ ), *, partsIn_nil, partsIn_cons, Only.self, Only.mk_iff, Only.forEach_iff, Only.when_iff, Only.ite_of, true_or, or_true, and_self, implies_true, List.mem_cons, reduceCtorEq, or_false, false_or, id_eq]
    | split
    | with_reducible refine Only.trans ?_ (Only.forEach (fun _ _ => ?_) _ _)
    | with_reducible refine Only.trans ?_ (Only.when (fun _ => ?_) _ _)

theorem writeStage_only (a : BusAcc) (q i : Nat) (w : Word) (s : State) :
    Only [.sq] s (writeStage a q i w s) := by
  unfold writeStage
  repeat' first
    | simp (maxDischargeDepth := 8) only [Only.iff_of (stageWord_only _ _ _ _ ), *, partsIn_nil, partsIn_cons, Only.self, Only.mk_iff, Only.forEach_iff, Only.when_iff, Only.ite_of, true_or, or_true, and_self, implies_true, List.mem_cons, reduceCtorEq, or_false, false_or, id_eq]
    | split
    | with_reducible refine Only.trans ?_ (Only.forEach (fun _ _ => ?_) _ _)
    | with_reducible refine Only.trans ?_ (Only.when (fun _ => ?_) _ _)

theorem commitStaged_only (q : Nat) (s : State) :
    Only [.regs, .cnt, .sq, .tr, .dbg] s (commitStaged q s) := by
  unfold commitStaged
  repeat' first
    | simp (maxDischargeDepth := 8) only [Only.iff_of (setRegF_only _ _ _ _ _ ), Only.iff_of (updQueue_only _ _ _ ), Only.iff_of (refuseCommit_only _ _ ), *, partsIn_nil, partsIn_cons, Only.self, Only.mk_iff, Only.forEach_iff, Only.when_iff, Only.ite_of, true_or, or_true, and_self, implies_true, List.mem_cons, reduceCtorEq, or_false, false_or, id_eq]
    | split
    | with_reducible refine Only.trans ?_ (Only.forEach (fun _ _ => ?_) _ _)
    | with_reducible refine Only.trans ?_ (Only.when (fun _ => ?_) _ _)

theorem commitSlip_only (a : BusAcc) (q : Nat) (w : Word) (s : State) :
    Only [.regs, .cnt, .sq, .tr, .dbg] s (commitSlip a q w s) := by
  unfold commitSlip
  repeat' first
    | simp (maxDischargeDepth := 8) only [Only.iff_of (updQueue_only _ _ _ ), Only.iff_of (refuseCommit_only _ _ ), Only.iff_of (stageWord_only _ _ _ _ ), Only.iff_of (commitStaged_only _ _ ), *, partsIn_nil, partsIn_cons, Only.self, Only.mk_iff, Only.forEach_iff, Only.when_iff, Only.ite_of, true_or, or_true, and_self, implies_true, List.mem_cons, reduceCtorEq, or_false, false_or, id_eq]
    | split
    | with_reducible refine Only.trans ?_ (Only.forEach (fun _ _ => ?_) _ _)
    | with_reducible refine Only.trans ?_ (Only.when (fun _ => ?_) _ _)

theorem markDecoded_only (q idx : Nat) (d : Nat) (s : State) :
    Only [.sq] s (markDecoded q idx d s) := by
  unfold markDecoded
  repeat' first
    | simp (maxDischargeDepth := 8) only [Only.iff_of (updQueue_only _ _ _ ), *, partsIn_nil, partsIn_cons, Only.self, Only.mk_iff, Only.forEach_iff, Only.when_iff, Only.ite_of, true_or, or_true, and_self, implies_true, List.mem_cons, reduceCtorEq, or_false, false_or, id_eq]
    | split
    | with_reducible refine Only.trans ?_ (Only.forEach (fun _ _ => ?_) _ _)
    | with_reducible refine Only.trans ?_ (Only.when (fun _ => ?_) _ _)

theorem beginSlip_only (x : Slip) (s : State) :
    Only [.sq] s (beginSlip x s) := by
  unfold beginSlip
  repeat' first
    | simp (maxDischargeDepth := 8) only [Only.iff_of (updQueue_only _ _ _ ), Only.iff_of (progress_only _ _ ), *, partsIn_nil, partsIn_cons, Only.self, Only.mk_iff, Only.forEach_iff, Only.when_iff, Only.ite_of, true_or, or_true, and_self, implies_true, List.mem_cons, reduceCtorEq, or_false, false_or, id_eq]
    | split
    | with_reducible refine Only.trans ?_ (Only.forEach (fun _ _ => ?_) _ _)
    | with_reducible refine Only.trans ?_ (Only.when (fun _ => ?_) _ _)

theorem askSlots_only (sid : Nat) (s : State) :
    Only [.sq, .bl] s (askSlots sid s) := by
  unfold askSlots
  repeat' first
    | simp (maxDischargeDepth := 8) only [Only.iff_of (updSlip_only _ _ _ ), *, partsIn_nil, partsIn_cons, Only.self, Only.mk_iff, Only.forEach_iff, Only.when_iff, Only.ite_of, true_or, or_true, and_self, implies_true, List.mem_cons, reduceCtorEq, or_false, false_or, id_eq]
    | split
    | with_reducible refine Only.trans ?_ (Only.forEach (fun _ _ => ?_) _ _)
    | with_reducible refine Only.trans ?_ (Only.when (fun _ => ?_) _ _)

theorem beginData_only (path : Nat) (x : Slip) (s : State) :
    Only [.regs, .sq, .tr, .dbg] s (beginData path x s) := by
  unfold beginData
  repeat' first
    | simp (maxDischargeDepth := 8) only [Only.iff_of (watchMatch_only _ _ ), Only.iff_of (sbegin_only _ _ ), Only.iff_of (beginSlip_only _ _ ), *, partsIn_nil, partsIn_cons, Only.self, Only.mk_iff, Only.forEach_iff, Only.when_iff, Only.ite_of, true_or, or_true, and_self, implies_true, List.mem_cons, reduceCtorEq, or_false, false_or, id_eq]
    | split
    | with_reducible refine Only.trans ?_ (Only.forEach (fun _ _ => ?_) _ _)
    | with_reducible refine Only.trans ?_ (Only.when (fun _ => ?_) _ _)

theorem startWith_only {ps : List Part} (q t : Nat) (act : Slip → State → State) (s : State) (ha : ∀ x s, Only ps s (act x s)) :
    Only ps s (startWith q t act s) := by
  unfold startWith
  split
  · exact ha _ s
  · exact Only.refl _ _

theorem dropClaim_only (x : Slip) (s : State) :
    Only [.fr] s (dropClaim x s) := by
  unfold dropClaim
  repeat' first
    | simp (maxDischargeDepth := 8) only [Only.iff_of (updWlane_only _ _ _ ), *, partsIn_nil, partsIn_cons, Only.self, Only.mk_iff, Only.forEach_iff, Only.when_iff, Only.ite_of, true_or, or_true, and_self, implies_true, List.mem_cons, reduceCtorEq, or_false, false_or, id_eq]
    | split
    | with_reducible refine Only.trans ?_ (Only.forEach (fun _ _ => ?_) _ _)
    | with_reducible refine Only.trans ?_ (Only.when (fun _ => ?_) _ _)

theorem stopOnFault_only (x : Slip) (s : State) :
    Only [.regs, .sq, .tr, .dbg] s (stopOnFault x s) := by
  unfold stopOnFault
  repeat' first
    | simp (maxDischargeDepth := 8) only [Only.iff_of (raise_only _ _ ), Only.iff_of (updQueue_only _ _ _ ), Only.iff_of (slipLog_only _ _ _ _ _ _ ), *, partsIn_nil, partsIn_cons, Only.self, Only.mk_iff, Only.forEach_iff, Only.when_iff, Only.ite_of, true_or, or_true, and_self, implies_true, List.mem_cons, reduceCtorEq, or_false, false_or, id_eq]
    | split
    | with_reducible refine Only.trans ?_ (Only.forEach (fun _ _ => ?_) _ _)
    | with_reducible refine Only.trans ?_ (Only.when (fun _ => ?_) _ _)

theorem endSlip_only (sid : Nat) (s : State) :
    Only [.regs, .cnt, .xc, .fr, .sq, .tr, .dbg] s (endSlip sid s) := by
  unfold endSlip
  repeat' first
    | simp (maxDischargeDepth := 8) only [Only.iff_of (bump_only _ _ _ ), Only.iff_of (xbump_only _ _ _ ), Only.iff_of (updSlip_only _ _ _ ), Only.iff_of (updQueue_only _ _ _ ), Only.iff_of (progress_only _ _ ), Only.iff_of (maybeSend_only _ _ ), Only.iff_of (dropSlip_only _ _ ), Only.iff_of (settleHead_only _ _ ), Only.iff_of (dropClaim_only _ _ ), Only.iff_of (stopOnFault_only _ _ ), *, partsIn_nil, partsIn_cons, Only.self, Only.mk_iff, Only.forEach_iff, Only.when_iff, Only.ite_of, true_or, or_true, and_self, implies_true, List.mem_cons, reduceCtorEq, or_false, false_or, id_eq]
    | split
    | with_reducible refine Only.trans ?_ (Only.forEach (fun _ _ => ?_) _ _)
    | with_reducible refine Only.trans ?_ (Only.when (fun _ => ?_) _ _)

theorem forgetDecode_only (q : Nat) (s : State) :
    Only [.sq] s (forgetDecode q s) := by
  unfold forgetDecode
  repeat' first
    | simp (maxDischargeDepth := 8) only [Only.iff_of (updQueue_only _ _ _ ), *, partsIn_nil, partsIn_cons, Only.self, Only.mk_iff, Only.forEach_iff, Only.when_iff, Only.ite_of, true_or, or_true, and_self, implies_true, List.mem_cons, reduceCtorEq, or_false, false_or, id_eq]
    | split
    | with_reducible refine Only.trans ?_ (Only.forEach (fun _ _ => ?_) _ _)
    | with_reducible refine Only.trans ?_ (Only.when (fun _ => ?_) _ _)

theorem resumeQueue_only (q : Nat) (s : State) :
    Only [.regs, .cnt, .sq, .tr, .dbg] s (resumeQueue q s) := by
  unfold resumeQueue
  repeat' first
    | simp (maxDischargeDepth := 8) only [Only.iff_of (updQueue_only _ _ _ ), Only.iff_of (settleHead_only _ _ ), Only.iff_of (forgetDecode_only _ _ ), *, partsIn_nil, partsIn_cons, Only.self, Only.mk_iff, Only.forEach_iff, Only.when_iff, Only.ite_of, true_or, or_true, and_self, implies_true, List.mem_cons, reduceCtorEq, or_false, false_or, id_eq]
    | split
    | with_reducible refine Only.trans ?_ (Only.forEach (fun _ _ => ?_) _ _)
    | with_reducible refine Only.trans ?_ (Only.when (fun _ => ?_) _ _)

theorem skipQueue_only (q : Nat) (s : State) :
    Only [.regs, .cnt, .sq, .tr, .dbg] s (skipQueue q s) := by
  unfold skipQueue
  repeat' first
    | simp (maxDischargeDepth := 8) only [Only.iff_of (updQueue_only _ _ _ ), Only.iff_of (settleHead_only _ _ ), Only.iff_of (resumeQueue_only _ _ ), *, partsIn_nil, partsIn_cons, Only.self, Only.mk_iff, Only.forEach_iff, Only.when_iff, Only.ite_of, true_or, or_true, and_self, implies_true, List.mem_cons, reduceCtorEq, or_false, false_or, id_eq]
    | split
    | with_reducible refine Only.trans ?_ (Only.forEach (fun _ _ => ?_) _ _)
    | with_reducible refine Only.trans ?_ (Only.when (fun _ => ?_) _ _)

theorem flushQueue_only (q : Nat) (s : State) :
    Only [.regs, .sq] s (flushQueue q s) := by
  unfold flushQueue
  repeat' first
    | simp (maxDischargeDepth := 8) only [Only.iff_of (setRegF_only _ _ _ _ _ ), Only.iff_of (updQueue_only _ _ _ ), *, partsIn_nil, partsIn_cons, Only.self, Only.mk_iff, Only.forEach_iff, Only.when_iff, Only.ite_of, true_or, or_true, and_self, implies_true, List.mem_cons, reduceCtorEq, or_false, false_or, id_eq]
    | split
    | with_reducible refine Only.trans ?_ (Only.forEach (fun _ _ => ?_) _ _)
    | with_reducible refine Only.trans ?_ (Only.when (fun _ => ?_) _ _)

theorem pauseQueue_only (q : Nat) (s : State) :
    Only [.sq] s (pauseQueue q s) := by
  unfold pauseQueue
  repeat' first
    | simp (maxDischargeDepth := 8) only [Only.iff_of (updQueue_only _ _ _ ), *, partsIn_nil, partsIn_cons, Only.self, Only.mk_iff, Only.forEach_iff, Only.when_iff, Only.ite_of, true_or, or_true, and_self, implies_true, List.mem_cons, reduceCtorEq, or_false, false_or, id_eq]
    | split
    | with_reducible refine Only.trans ?_ (Only.forEach (fun _ _ => ?_) _ _)
    | with_reducible refine Only.trans ?_ (Only.when (fun _ => ?_) _ _)

end Sys2Proof.Machine
end

