-- ==== Sys2Proof/Laws/OnlyHeld.lean ====
section
/-!
SUPPORT. Laws/OnlyHeld.lean: what each operation of Machine/Held.lean may change (generated text, one lemma for each operation).
-/
namespace Sys2Proof.Machine

set_option linter.unusedSimpArgs false
set_option linter.tactic.unusedName false

theorem updHeld_only (sid : Nat) (f : HeldEx → HeldEx) (s : State) :
    Only [.sq] s (updHeld sid f s) := by
  unfold updHeld
  repeat' first
    | simp (maxDischargeDepth := 8) only [Only.iff_of (updSlip_only _ _ _ ), *, partsIn_nil, partsIn_cons, Only.self, Only.mk_iff, Only.forEach_iff, Only.when_iff, Only.ite_of, true_or, or_true, and_self, implies_true, List.mem_cons, reduceCtorEq, or_false, false_or, id_eq]
    | split
    | with_reducible refine Only.trans ?_ (Only.forEach (fun _ _ => ?_) _ _)
    | with_reducible refine Only.trans ?_ (Only.when (fun _ => ?_) _ _)

theorem freeHold_only (x : Slip) (s : State) :
    Only [.regs, .sq, .hd] s (freeHold x s) := by
  unfold freeHold
  repeat' first
    | simp (maxDischargeDepth := 8) only [Only.iff_of (setRegF_only _ _ _ _ _ ), Only.iff_of (updHeld_only _ _ _ ), *, partsIn_nil, partsIn_cons, Only.self, Only.mk_iff, Only.forEach_iff, Only.when_iff, Only.ite_of, true_or, or_true, and_self, implies_true, List.mem_cons, reduceCtorEq, or_false, false_or, id_eq]
    | split
    | with_reducible refine Only.trans ?_ (Only.forEach (fun _ _ => ?_) _ _)
    | with_reducible refine Only.trans ?_ (Only.when (fun _ => ?_) _ _)

theorem statParity_only (row : Nat) (s : State) :
    Only [.regs, .cnt, .tr, .dbg, .fw] s (statParity row s) := by
  unfold statParity
  repeat' first
    | simp (maxDischargeDepth := 8) only [Only.iff_of (bump_only _ _ _ ), Only.iff_of (raise_only _ _ ), Only.iff_of (fwdTrigger_only _ _ _ _ ), *, partsIn_nil, partsIn_cons, Only.self, Only.mk_iff, Only.forEach_iff, Only.when_iff, Only.ite_of, true_or, or_true, and_self, implies_true, List.mem_cons, reduceCtorEq, or_false, false_or, id_eq]
    | split
    | with_reducible refine Only.trans ?_ (Only.forEach (fun _ _ => ?_) _ _)
    | with_reducible refine Only.trans ?_ (Only.when (fun _ => ?_) _ _)

theorem withdrawTrs_only (p : Tr → Bool) (s : State) :
    Only [.fr] s (withdrawTrs p s) := by
  unfold withdrawTrs
  repeat' first
    | simp (maxDischargeDepth := 8) only [*, partsIn_nil, partsIn_cons, Only.self, Only.mk_iff, Only.forEach_iff, Only.when_iff, Only.ite_of, true_or, or_true, and_self, implies_true, List.mem_cons, reduceCtorEq, or_false, false_or, id_eq]
    | split
    | with_reducible refine Only.trans ?_ (Only.forEach (fun _ _ => ?_) _ _)
    | with_reducible refine Only.trans ?_ (Only.when (fun _ => ?_) _ _)

theorem cancelWork_only (q : Nat) (s : State) :
    Only [.fr, .hd] s (cancelWork q s) := by
  unfold cancelWork
  repeat' first
    | simp (maxDischargeDepth := 8) only [Only.iff_of (withdrawTrs_only _ _ ), *, partsIn_nil, partsIn_cons, Only.self, Only.mk_iff, Only.forEach_iff, Only.when_iff, Only.ite_of, true_or, or_true, and_self, implies_true, List.mem_cons, reduceCtorEq, or_false, false_or, id_eq]
    | split
    | with_reducible refine Only.trans ?_ (Only.forEach (fun _ _ => ?_) _ _)
    | with_reducible refine Only.trans ?_ (Only.when (fun _ => ?_) _ _)

theorem cancelHeld_only (l : Nat) (w : Word) (s : State) :
    Only [.regs, .fr, .sq, .hd] s (cancelHeld l w s) := by
  unfold cancelHeld
  repeat' first
    | simp (maxDischargeDepth := 8) only [Only.iff_of (orReg_only _ _ _ ), Only.iff_of (updSlip_only _ _ _ ), Only.iff_of (updHeld_only _ _ _ ), Only.iff_of (cancelWork_only _ _ ), *, partsIn_nil, partsIn_cons, Only.self, Only.mk_iff, Only.forEach_iff, Only.when_iff, Only.ite_of, true_or, or_true, and_self, implies_true, List.mem_cons, reduceCtorEq, or_false, false_or, id_eq]
    | split
    | with_reducible refine Only.trans ?_ (Only.forEach (fun _ _ => ?_) _ _)
    | with_reducible refine Only.trans ?_ (Only.when (fun _ => ?_) _ _)

theorem resumeCancels_only (s : State) :
    Only [.fr, .hd] s (resumeCancels s) := by
  unfold resumeCancels
  repeat' first
    | simp (maxDischargeDepth := 8) only [Only.iff_of (cancelWork_only _ _ ), *, partsIn_nil, partsIn_cons, Only.self, Only.mk_iff, Only.forEach_iff, Only.when_iff, Only.ite_of, true_or, or_true, and_self, implies_true, List.mem_cons, reduceCtorEq, or_false, false_or, id_eq]
    | split
    | with_reducible refine Only.trans ?_ (Only.forEach (fun _ _ => ?_) _ _)
    | with_reducible refine Only.trans ?_ (Only.when (fun _ => ?_) _ _)

theorem dropSlots_only (x : Slip) (s : State) :
    Only [.sq, .bl] s (dropSlots x s) := by
  unfold dropSlots
  repeat' first
    | simp (maxDischargeDepth := 8) only [Only.iff_of (freeSlots_only _ _ _ ), *, partsIn_nil, partsIn_cons, Only.self, Only.mk_iff, Only.forEach_iff, Only.when_iff, Only.ite_of, true_or, or_true, and_self, implies_true, List.mem_cons, reduceCtorEq, or_false, false_or, id_eq]
    | split
    | with_reducible refine Only.trans ?_ (Only.forEach (fun _ _ => ?_) _ _)
    | with_reducible refine Only.trans ?_ (Only.when (fun _ => ?_) _ _)

end Sys2Proof.Machine
end

