-- ==== Sys2Proof/Laws/OnlyRdx.lean ====
section
/-!
SUPPORT. Laws/OnlyRdx.lean: what each operation of Machine/Rdx.lean may change (generated text, one lemma for each operation).
-/
namespace Sys2Proof.Machine

set_option linter.unusedSimpArgs false
set_option linter.tactic.unusedName false

theorem addOp_only (o : ROp) (s : State) :
    Only [.rx] s (addOp o s) := by
  unfold addOp
  repeat' first
    | simp (maxDischargeDepth := 8) only [*, partsIn_nil, partsIn_cons, Only.self, Only.mk_iff, Only.forEach_iff, Only.when_iff, Only.ite_of, true_or, or_true, and_self, implies_true, List.mem_cons, reduceCtorEq, or_false, false_or, id_eq]
    | split
    | with_reducible refine Only.trans ?_ (Only.forEach (fun _ _ => ?_) _ _)
    | with_reducible refine Only.trans ?_ (Only.when (fun _ => ?_) _ _)

theorem setOp_only (o : ROp) (s : State) :
    Only [.rx] s (setOp o s) := by
  unfold setOp
  repeat' first
    | simp (maxDischargeDepth := 8) only [*, partsIn_nil, partsIn_cons, Only.self, Only.mk_iff, Only.forEach_iff, Only.when_iff, Only.ite_of, true_or, or_true, and_self, implies_true, List.mem_cons, reduceCtorEq, or_false, false_or, id_eq]
    | split
    | with_reducible refine Only.trans ?_ (Only.forEach (fun _ _ => ?_) _ _)
    | with_reducible refine Only.trans ?_ (Only.when (fun _ => ?_) _ _)

theorem dropOp_only (id : Nat) (s : State) :
    Only [.rx] s (dropOp id s) := by
  unfold dropOp
  repeat' first
    | simp (maxDischargeDepth := 8) only [*, partsIn_nil, partsIn_cons, Only.self, Only.mk_iff, Only.forEach_iff, Only.when_iff, Only.ite_of, true_or, or_true, and_self, implies_true, List.mem_cons, reduceCtorEq, or_false, false_or, id_eq]
    | split
    | with_reducible refine Only.trans ?_ (Only.forEach (fun _ _ => ?_) _ _)
    | with_reducible refine Only.trans ?_ (Only.when (fun _ => ?_) _ _)

theorem askRead_only (p : Nat) (s : State) :
    Only [.fr, .rx] s (askRead p s) := by
  unfold askRead
  repeat' first
    | simp (maxDischargeDepth := 8) only [Only.iff_of (addTr_only _ _ ), Only.iff_of (setOp_only _ _ ), *, partsIn_nil, partsIn_cons, Only.self, Only.mk_iff, Only.forEach_iff, Only.when_iff, Only.ite_of, true_or, or_true, and_self, implies_true, List.mem_cons, reduceCtorEq, or_false, false_or, id_eq]
    | split
    | with_reducible refine Only.trans ?_ (Only.forEach (fun _ _ => ?_) _ _)
    | with_reducible refine Only.trans ?_ (Only.when (fun _ => ?_) _ _)

theorem askWrite_only (p : Nat) (s : State) :
    Only [.fr, .rx] s (askWrite p s) := by
  unfold askWrite
  repeat' first
    | simp (maxDischargeDepth := 8) only [Only.iff_of (addTr_only _ _ ), Only.iff_of (setOp_only _ _ ), *, partsIn_nil, partsIn_cons, Only.self, Only.mk_iff, Only.forEach_iff, Only.when_iff, Only.ite_of, true_or, or_true, and_self, implies_true, List.mem_cons, reduceCtorEq, or_false, false_or, id_eq]
    | split
    | with_reducible refine Only.trans ?_ (Only.forEach (fun _ _ => ?_) _ _)
    | with_reducible refine Only.trans ?_ (Only.when (fun _ => ?_) _ _)

theorem askRows_only (s : State) :
    Only [.fr, .rx] s (askRows s) := by
  unfold askRows
  repeat' first
    | simp (maxDischargeDepth := 8) only [Only.iff_of (askRead_only _ _ ), Only.iff_of (askWrite_only _ _ ), *, partsIn_nil, partsIn_cons, Only.self, Only.mk_iff, Only.forEach_iff, Only.when_iff, Only.ite_of, true_or, or_true, and_self, implies_true, List.mem_cons, reduceCtorEq, or_false, false_or, id_eq]
    | split
    | with_reducible refine Only.trans ?_ (Only.forEach (fun _ _ => ?_) _ _)
    | with_reducible refine Only.trans ?_ (Only.when (fun _ => ?_) _ _)

theorem opFault_only (id : Nat) (s : State) :
    Only [.rx] s (opFault id s) := by
  unfold opFault
  repeat' first
    | simp (maxDischargeDepth := 8) only [Only.iff_of (updBkt_only _ _ _ ), *, partsIn_nil, partsIn_cons, Only.self, Only.mk_iff, Only.forEach_iff, Only.when_iff, Only.ite_of, true_or, or_true, and_self, implies_true, List.mem_cons, reduceCtorEq, or_false, false_or, id_eq]
    | split
    | with_reducible refine Only.trans ?_ (Only.forEach (fun _ _ => ?_) _ _)
    | with_reducible refine Only.trans ?_ (Only.when (fun _ => ?_) _ _)

theorem askG_only (b : Nat) (s : State) :
    Only [.rx] s (askG b s) := by
  unfold askG
  repeat' first
    | simp (maxDischargeDepth := 8) only [Only.iff_of (addOp_only _ _ ), *, partsIn_nil, partsIn_cons, Only.self, Only.mk_iff, Only.forEach_iff, Only.when_iff, Only.ite_of, true_or, or_true, and_self, implies_true, List.mem_cons, reduceCtorEq, or_false, false_or, id_eq]
    | split
    | with_reducible refine Only.trans ?_ (Only.forEach (fun _ _ => ?_) _ _)
    | with_reducible refine Only.trans ?_ (Only.when (fun _ => ?_) _ _)

theorem skipUpdate_only (b : Nat) (s : State) :
    Only [.regs, .tr, .dbg, .rx] s (skipUpdate b s) := by
  unfold skipUpdate
  repeat' first
    | simp (maxDischargeDepth := 8) only [Only.iff_of (raise_only _ _ ), Only.iff_of (updBkt_only _ _ _ ), *, partsIn_nil, partsIn_cons, Only.self, Only.mk_iff, Only.forEach_iff, Only.when_iff, Only.ite_of, true_or, or_true, and_self, implies_true, List.mem_cons, reduceCtorEq, or_false, false_or, id_eq]
    | split
    | with_reducible refine Only.trans ?_ (Only.forEach (fun _ _ => ?_) _ _)
    | with_reducible refine Only.trans ?_ (Only.when (fun _ => ?_) _ _)

theorem bktDone_only (b : Nat) (s : State) :
    Only [.regs, .rx] s (bktDone b s) := by
  unfold bktDone
  repeat' first
    | simp (maxDischargeDepth := 8) only [Only.iff_of (updBkt_only _ _ _ ), Only.iff_of (tallyAdd_only _ _ _ ), *, partsIn_nil, partsIn_cons, Only.self, Only.mk_iff, Only.forEach_iff, Only.when_iff, Only.ite_of, true_or, or_true, and_self, implies_true, List.mem_cons, reduceCtorEq, or_false, false_or, id_eq]
    | split
    | with_reducible refine Only.trans ?_ (Only.forEach (fun _ _ => ?_) _ _)
    | with_reducible refine Only.trans ?_ (Only.when (fun _ => ?_) _ _)

theorem openGate_only (b : Nat) (s : State) :
    Only [.regs, .tr, .dbg, .rx] s (openGate b s) := by
  unfold openGate
  repeat' first
    | simp (maxDischargeDepth := 8) only [Only.iff_of (updBkt_only _ _ _ ), Only.iff_of (askG_only _ _ ), Only.iff_of (skipUpdate_only _ _ ), *, partsIn_nil, partsIn_cons, Only.self, Only.mk_iff, Only.forEach_iff, Only.when_iff, Only.ite_of, true_or, or_true, and_self, implies_true, List.mem_cons, reduceCtorEq, or_false, false_or, id_eq]
    | split
    | with_reducible refine Only.trans ?_ (Only.forEach (fun _ _ => ?_) _ _)
    | with_reducible refine Only.trans ?_ (Only.when (fun _ => ?_) _ _)

theorem gotG_only (o : ROp) (s : State) :
    Only [.regs, .tr, .dbg, .rx] s (gotG o s) := by
  unfold gotG
  repeat' first
    | simp (maxDischargeDepth := 8) only [Only.iff_of (updBkt_only _ _ _ ), Only.iff_of (skipUpdate_only _ _ ), *, partsIn_nil, partsIn_cons, Only.self, Only.mk_iff, Only.forEach_iff, Only.when_iff, Only.ite_of, true_or, or_true, and_self, implies_true, List.mem_cons, reduceCtorEq, or_false, false_or, id_eq]
    | split
    | with_reducible refine Only.trans ?_ (Only.forEach (fun _ _ => ?_) _ _)
    | with_reducible refine Only.trans ?_ (Only.when (fun _ => ?_) _ _)

theorem settleBucket_only (b : Nat) (s : State) :
    Only [.regs, .tr, .dbg, .rx] s (settleBucket b s) := by
  unfold settleBucket
  repeat' first
    | simp (maxDischargeDepth := 8) only [Only.iff_of (bktDone_only _ _ ), Only.iff_of (openGate_only _ _ ), *, partsIn_nil, partsIn_cons, Only.self, Only.mk_iff, Only.forEach_iff, Only.when_iff, Only.ite_of, true_or, or_true, and_self, implies_true, List.mem_cons, reduceCtorEq, or_false, false_or, id_eq]
    | split
    | with_reducible refine Only.trans ?_ (Only.forEach (fun _ _ => ?_) _ _)
    | with_reducible refine Only.trans ?_ (Only.when (fun _ => ?_) _ _)

theorem settleBuckets_only (s : State) :
    Only [.regs, .tr, .dbg, .rx] s (settleBuckets s) := by
  unfold settleBuckets
  repeat' first
    | simp (maxDischargeDepth := 8) only [Only.iff_of (settleBucket_only _ _ ), *, partsIn_nil, partsIn_cons, Only.self, Only.mk_iff, Only.forEach_iff, Only.when_iff, Only.ite_of, true_or, or_true, and_self, implies_true, List.mem_cons, reduceCtorEq, or_false, false_or, id_eq]
    | split
    | with_reducible refine Only.trans ?_ (Only.forEach (fun _ _ => ?_) _ _)
    | with_reducible refine Only.trans ?_ (Only.when (fun _ => ?_) _ _)

theorem dropFlit_only (reason : Nat) (f : RFlit) (s : State) :
    Only [.regs, .cnt, .tr, .dbg] s (dropFlit reason f s) := by
  unfold dropFlit
  repeat' first
    | simp (maxDischargeDepth := 8) only [Only.iff_of (bump_only _ _ _ ), Only.iff_of (raise_only _ _ ), Only.iff_of (fillLog_only _ _ _ _ ), *, partsIn_nil, partsIn_cons, Only.self, Only.mk_iff, Only.forEach_iff, Only.when_iff, Only.ite_of, true_or, or_true, and_self, implies_true, List.mem_cons, reduceCtorEq, or_false, false_or, id_eq]
    | split
    | with_reducible refine Only.trans ?_ (Only.forEach (fun _ _ => ?_) _ _)
    | with_reducible refine Only.trans ?_ (Only.when (fun _ => ?_) _ _)

theorem freeSlot_only (v : Nat) (s : State) :
    Only [.rx] s (freeSlot v s) := by
  unfold freeSlot
  repeat' first
    | simp (maxDischargeDepth := 8) only [*, partsIn_nil, partsIn_cons, Only.self, Only.mk_iff, Only.forEach_iff, Only.when_iff, Only.ite_of, true_or, or_true, and_self, implies_true, List.mem_cons, reduceCtorEq, or_false, false_or, id_eq]
    | split
    | with_reducible refine Only.trans ?_ (Only.forEach (fun _ _ => ?_) _ _)
    | with_reducible refine Only.trans ?_ (Only.when (fun _ => ?_) _ _)

theorem takeIn_only (lane : Bool) (data : Row) (sb : Nat) (s : State) :
    Only [.regs, .cnt, .tr, .dbg, .rx] s (takeIn lane data sb s) := by
  unfold takeIn
  repeat' first
    | simp (maxDischargeDepth := 8) only [Only.iff_of (dropFlit_only _ _ _ ), Only.iff_of (freeSlot_only _ _ ), *, partsIn_nil, partsIn_cons, Only.self, Only.mk_iff, Only.forEach_iff, Only.when_iff, Only.ite_of, true_or, or_true, and_self, implies_true, List.mem_cons, reduceCtorEq, or_false, false_or, id_eq]
    | split
    | with_reducible refine Only.trans ?_ (Only.forEach (fun _ _ => ?_) _ _)
    | with_reducible refine Only.trans ?_ (Only.when (fun _ => ?_) _ _)

theorem holeFreed_only (v : Nat) (s : State) :
    Only [.rx] s (holeFreed v s) := by
  unfold holeFreed
  repeat' first
    | simp (maxDischargeDepth := 8) only [*, partsIn_nil, partsIn_cons, Only.self, Only.mk_iff, Only.forEach_iff, Only.when_iff, Only.ite_of, true_or, or_true, and_self, implies_true, List.mem_cons, reduceCtorEq, or_false, false_or, id_eq]
    | split
    | with_reducible refine Only.trans ?_ (Only.forEach (fun _ _ => ?_) _ _)
    | with_reducible refine Only.trans ?_ (Only.when (fun _ => ?_) _ _)

theorem flitReduced_only (b flit : Nat) (x : Partial) (s : State) :
    Only [.regs, .tr, .dbg, .rx] s (flitReduced b flit x s) := by
  unfold flitReduced
  repeat' first
    | simp (maxDischargeDepth := 8) only [Only.iff_of (raise_only _ _ ), Only.iff_of (updBkt_only _ _ _ ), Only.iff_of (addOp_only _ _ ), Only.iff_of (settleBuckets_only _ ), *, partsIn_nil, partsIn_cons, Only.self, Only.mk_iff, Only.forEach_iff, Only.when_iff, Only.ite_of, true_or, or_true, and_self, implies_true, List.mem_cons, reduceCtorEq, or_false, false_or, id_eq]
    | split
    | with_reducible refine Only.trans ?_ (Only.forEach (fun _ _ => ?_) _ _)
    | with_reducible refine Only.trans ?_ (Only.when (fun _ => ?_) _ _)

theorem halfTaken_only (f : RFlit) (half : Nat) (s : State) :
    Only [.rx] s (halfTaken f half s) := by
  unfold halfTaken
  repeat' first
    | simp (maxDischargeDepth := 8) only [Only.iff_of (freeSlot_only _ _ ), *, partsIn_nil, partsIn_cons, Only.self, Only.mk_iff, Only.forEach_iff, Only.when_iff, Only.ite_of, true_or, or_true, and_self, implies_true, List.mem_cons, reduceCtorEq, or_false, false_or, id_eq]
    | split
    | with_reducible refine Only.trans ?_ (Only.forEach (fun _ _ => ?_) _ _)
    | with_reducible refine Only.trans ?_ (Only.when (fun _ => ?_) _ _)

theorem dropDup_only (f : RFlit) (s : State) :
    Only [.regs, .cnt, .tr, .dbg, .rx] s (dropDup f s) := by
  unfold dropDup
  repeat' first
    | simp (maxDischargeDepth := 8) only [Only.iff_of (updBkt_only _ _ _ ), Only.iff_of (dropFlit_only _ _ _ ), *, partsIn_nil, partsIn_cons, Only.self, Only.mk_iff, Only.forEach_iff, Only.when_iff, Only.ite_of, true_or, or_true, and_self, implies_true, List.mem_cons, reduceCtorEq, or_false, false_or, id_eq]
    | split
    | with_reducible refine Only.trans ?_ (Only.forEach (fun _ _ => ?_) _ _)
    | with_reducible refine Only.trans ?_ (Only.when (fun _ => ?_) _ _)

theorem combineHalf_only (f : RFlit) (half : Nat) (s : State) :
    Only [.rx] s (combineHalf f half s) := by
  unfold combineHalf
  repeat' first
    | simp (maxDischargeDepth := 8) only [Only.iff_of (addOp_only _ _ ), *, partsIn_nil, partsIn_cons, Only.self, Only.mk_iff, Only.forEach_iff, Only.when_iff, Only.ite_of, true_or, or_true, and_self, implies_true, List.mem_cons, reduceCtorEq, or_false, false_or, id_eq]
    | split
    | with_reducible refine Only.trans ?_ (Only.forEach (fun _ _ => ?_) _ _)
    | with_reducible refine Only.trans ?_ (Only.when (fun _ => ?_) _ _)

theorem baddrAdvance_only (l : Nat) (s : State) :
    Only [.bus] s (baddrAdvance l s) := by
  unfold baddrAdvance
  repeat' first
    | simp (maxDischargeDepth := 8) only [*, partsIn_nil, partsIn_cons, Only.self, Only.mk_iff, Only.forEach_iff, Only.when_iff, Only.ite_of, true_or, or_true, and_self, implies_true, List.mem_cons, reduceCtorEq, or_false, false_or, id_eq]
    | split
    | with_reducible refine Only.trans ?_ (Only.forEach (fun _ _ => ?_) _ _)
    | with_reducible refine Only.trans ?_ (Only.when (fun _ => ?_) _ _)

theorem writeBdata_only (l : Nat) (w : Word) (s : State) :
    Only [.regs, .bus, .rx] s (writeBdata l w s) := by
  unfold writeBdata
  repeat' first
    | simp (maxDischargeDepth := 8) only [Only.iff_of (orReg_only _ _ _ ), Only.iff_of (baddrAdvance_only _ _ ), *, partsIn_nil, partsIn_cons, Only.self, Only.mk_iff, Only.forEach_iff, Only.when_iff, Only.ite_of, true_or, or_true, and_self, implies_true, List.mem_cons, reduceCtorEq, or_false, false_or, id_eq]
    | split
    | with_reducible refine Only.trans ?_ (Only.forEach (fun _ _ => ?_) _ _)
    | with_reducible refine Only.trans ?_ (Only.when (fun _ => ?_) _ _)

theorem refuseBkt_only (b reason : Nat) (s : State) :
    Only [.regs] s (refuseBkt b reason s) := by
  unfold refuseBkt
  repeat' first
    | simp (maxDischargeDepth := 8) only [Only.iff_of (setReg_only _ _ _ ), *, partsIn_nil, partsIn_cons, Only.self, Only.mk_iff, Only.forEach_iff, Only.when_iff, Only.ite_of, true_or, or_true, and_self, implies_true, List.mem_cons, reduceCtorEq, or_false, false_or, id_eq]
    | split
    | with_reducible refine Only.trans ?_ (Only.forEach (fun _ _ => ?_) _ _)
    | with_reducible refine Only.trans ?_ (Only.when (fun _ => ?_) _ _)

theorem armBucket_only (l b : Nat) (s : State) :
    Only [.regs, .rx] s (armBucket l b s) := by
  unfold armBucket
  repeat' first
    | simp (maxDischargeDepth := 8) only [Only.iff_of (setBkt_only _ _ _ ), Only.iff_of (refuseBkt_only _ _ _ ), *, partsIn_nil, partsIn_cons, Only.self, Only.mk_iff, Only.forEach_iff, Only.when_iff, Only.ite_of, true_or, or_true, and_self, implies_true, List.mem_cons, reduceCtorEq, or_false, false_or, id_eq]
    | split
    | with_reducible refine Only.trans ?_ (Only.forEach (fun _ _ => ?_) _ _)
    | with_reducible refine Only.trans ?_ (Only.when (fun _ => ?_) _ _)

theorem setNg_only (g : Nat) (x : NGrp) (s : State) :
    Only [.rx] s (setNg g x s) := by
  unfold setNg
  repeat' first
    | simp (maxDischargeDepth := 8) only [*, partsIn_nil, partsIn_cons, Only.self, Only.mk_iff, Only.forEach_iff, Only.when_iff, Only.ite_of, true_or, or_true, and_self, implies_true, List.mem_cons, reduceCtorEq, or_false, false_or, id_eq]
    | split
    | with_reducible refine Only.trans ?_ (Only.forEach (fun _ _ => ?_) _ _)
    | with_reducible refine Only.trans ?_ (Only.when (fun _ => ?_) _ _)

theorem dropBucket_only (b : Nat) (s : State) :
    Only [.regs, .cnt, .fr, .tr, .dbg, .rx] s (dropBucket b s) := by
  unfold dropBucket
  repeat' first
    | simp (maxDischargeDepth := 8) only [Only.iff_of (raise_only _ _ ), Only.iff_of (dropJobs_only _ _ ), Only.iff_of (updBkt_only _ _ _ ), Only.iff_of (dropFlit_only _ _ _ ), Only.iff_of (freeSlot_only _ _ ), Only.iff_of (holeFreed_only _ _ ), Only.iff_of (setNg_only _ _ _ ), *, partsIn_nil, partsIn_cons, Only.self, Only.mk_iff, Only.forEach_iff, Only.when_iff, Only.ite_of, true_or, or_true, and_self, implies_true, List.mem_cons, reduceCtorEq, or_false, false_or, id_eq]
    | split
    | with_reducible refine Only.trans ?_ (Only.forEach (fun _ _ => ?_) _ _)
    | with_reducible refine Only.trans ?_ (Only.when (fun _ => ?_) _ _)

theorem abortBucket_only (l b : Nat) (s : State) :
    Only [.regs, .cnt, .fr, .tr, .dbg, .rx] s (abortBucket l b s) := by
  unfold abortBucket
  repeat' first
    | simp (maxDischargeDepth := 8) only [Only.iff_of (refuseBkt_only _ _ _ ), Only.iff_of (dropBucket_only _ _ ), *, partsIn_nil, partsIn_cons, Only.self, Only.mk_iff, Only.forEach_iff, Only.when_iff, Only.ite_of, true_or, or_true, and_self, implies_true, List.mem_cons, reduceCtorEq, or_false, false_or, id_eq]
    | split
    | with_reducible refine Only.trans ?_ (Only.forEach (fun _ _ => ?_) _ _)
    | with_reducible refine Only.trans ?_ (Only.when (fun _ => ?_) _ _)

theorem finishGroup_only (g : Nat) (s : State) :
    Only [.rx] s (finishGroup g s) := by
  unfold finishGroup
  repeat' first
    | simp (maxDischargeDepth := 8) only [Only.iff_of (addOp_only _ _ ), Only.iff_of (setNg_only _ _ _ ), *, partsIn_nil, partsIn_cons, Only.self, Only.mk_iff, Only.forEach_iff, Only.when_iff, Only.ite_of, true_or, or_true, and_self, implies_true, List.mem_cons, reduceCtorEq, or_false, false_or, id_eq]
    | split
    | with_reducible refine Only.trans ?_ (Only.forEach (fun _ _ => ?_) _ _)
    | with_reducible refine Only.trans ?_ (Only.when (fun _ => ?_) _ _)

theorem groupWritten_only (g : Nat) (s : State) :
    Only [.regs] s (groupWritten g s) := by
  unfold groupWritten
  repeat' first
    | simp (maxDischargeDepth := 8) only [Only.iff_of (tallyAdd_only _ _ _ ), *, partsIn_nil, partsIn_cons, Only.self, Only.mk_iff, Only.forEach_iff, Only.when_iff, Only.ite_of, true_or, or_true, and_self, implies_true, List.mem_cons, reduceCtorEq, or_false, false_or, id_eq]
    | split
    | with_reducible refine Only.trans ?_ (Only.forEach (fun _ _ => ?_) _ _)
    | with_reducible refine Only.trans ?_ (Only.when (fun _ => ?_) _ _)

theorem joinGroup_only (b : Nat) (q : Nat × Bool) (s : State) :
    Only [.rx] s (joinGroup b q s) := by
  unfold joinGroup
  repeat' first
    | simp (maxDischargeDepth := 8) only [Only.iff_of (setNg_only _ _ _ ), Only.iff_of (finishGroup_only _ _ ), *, partsIn_nil, partsIn_cons, Only.self, Only.mk_iff, Only.forEach_iff, Only.when_iff, Only.ite_of, true_or, or_true, and_self, implies_true, List.mem_cons, reduceCtorEq, or_false, false_or, id_eq]
    | split
    | with_reducible refine Only.trans ?_ (Only.forEach (fun _ _ => ?_) _ _)
    | with_reducible refine Only.trans ?_ (Only.when (fun _ => ?_) _ _)

theorem writeNgctl_only (g : Nat) (w : Word) (s : State) :
    Only [.regs, .rx] s (writeNgctl g w s) := by
  unfold writeNgctl
  repeat' first
    | simp (maxDischargeDepth := 8) only [Only.iff_of (setReg_only _ _ _ ), Only.iff_of (setNg_only _ _ _ ), *, partsIn_nil, partsIn_cons, Only.self, Only.mk_iff, Only.forEach_iff, Only.when_iff, Only.ite_of, true_or, or_true, and_self, implies_true, List.mem_cons, reduceCtorEq, or_false, false_or, id_eq]
    | split
    | with_reducible refine Only.trans ?_ (Only.forEach (fun _ _ => ?_) _ _)
    | with_reducible refine Only.trans ?_ (Only.when (fun _ => ?_) _ _)

theorem readsDone_only (o : ROp) (s : State) :
    Only [.regs, .xc, .tr, .dbg, .rx, .pw] s (readsDone o s) := by
  unfold readsDone
  repeat' first
    | simp (maxDischargeDepth := 8) only [Only.iff_of (xbump_only _ _ _ ), Only.iff_of (estimate_only _ _ _ ), Only.iff_of (setOp_only _ _ ), Only.iff_of (dropOp_only _ _ ), Only.iff_of (gotG_only _ _ ), Only.iff_of (settleBuckets_only _ ), *, partsIn_nil, partsIn_cons, Only.self, Only.mk_iff, Only.forEach_iff, Only.when_iff, Only.ite_of, true_or, or_true, and_self, implies_true, List.mem_cons, reduceCtorEq, or_false, false_or, id_eq]
    | split
    | with_reducible refine Only.trans ?_ (Only.forEach (fun _ _ => ?_) _ _)
    | with_reducible refine Only.trans ?_ (Only.when (fun _ => ?_) _ _)

theorem takePartial_only (o : ROp) (i : Nat) (s : State) :
    Only [.rx] s (takePartial o i s).2 := by
  unfold takePartial
  repeat' first
    | simp (maxDischargeDepth := 8) only [Only.iff_of (holeFreed_only _ _ ), *, partsIn_nil, partsIn_cons, Only.self, Only.mk_iff, Only.forEach_iff, Only.when_iff, Only.ite_of, true_or, or_true, and_self, implies_true, List.mem_cons, reduceCtorEq, or_false, false_or, id_eq]
    | split
    | with_reducible refine Only.trans ?_ (Only.forEach (fun _ _ => ?_) _ _)
    | with_reducible refine Only.trans ?_ (Only.when (fun _ => ?_) _ _)

theorem opRead_only (id i : Nat) (r : Row × Mask4) (s : State) :
    Only [.regs, .xc, .tr, .dbg, .rx, .pw] s (opRead id i r s) := by
  unfold opRead
  repeat' first
    | simp (maxDischargeDepth := 8) only [Only.iff_of (setOp_only _ _ ), Only.iff_of (readsDone_only _ _ ), Only.iff_of (takePartial_only _ _ _ ), *, partsIn_nil, partsIn_cons, Only.self, Only.mk_iff, Only.forEach_iff, Only.when_iff, Only.ite_of, true_or, or_true, and_self, implies_true, List.mem_cons, reduceCtorEq, or_false, false_or, id_eq]
    | (refine Only.snd (by assumption) (takePartial_only _ _ _ ) (by decide) ?_)
    | split
    | with_reducible refine Only.trans ?_ (Only.forEach (fun _ _ => ?_) _ _)
    | with_reducible refine Only.trans ?_ (Only.when (fun _ => ?_) _ _)

theorem parkedAt_only (o : ROp) (c : Nat) (s : State) :
    Only [.rx] s (parkedAt o c s) := by
  unfold parkedAt
  repeat' first
    | simp (maxDischargeDepth := 8) only [*, partsIn_nil, partsIn_cons, Only.self, Only.mk_iff, Only.forEach_iff, Only.when_iff, Only.ite_of, true_or, or_true, and_self, implies_true, List.mem_cons, reduceCtorEq, or_false, false_or, id_eq]
    | split
    | with_reducible refine Only.trans ?_ (Only.forEach (fun _ _ => ?_) _ _)
    | with_reducible refine Only.trans ?_ (Only.when (fun _ => ?_) _ _)

theorem opWritten_only (id c : Nat) (s : State) :
    Only [.regs, .tr, .dbg, .rx] s (opWritten id c s) := by
  unfold opWritten
  repeat' first
    | simp (maxDischargeDepth := 8) only [Only.iff_of (updBkt_only _ _ _ ), Only.iff_of (setOp_only _ _ ), Only.iff_of (dropOp_only _ _ ), Only.iff_of (settleBuckets_only _ ), Only.iff_of (flitReduced_only _ _ _ _ ), Only.iff_of (groupWritten_only _ _ ), Only.iff_of (parkedAt_only _ _ _ ), *, partsIn_nil, partsIn_cons, Only.self, Only.mk_iff, Only.forEach_iff, Only.when_iff, Only.ite_of, true_or, or_true, and_self, implies_true, List.mem_cons, reduceCtorEq, or_false, false_or, id_eq]
    | split
    | with_reducible refine Only.trans ?_ (Only.forEach (fun _ _ => ?_) _ _)
    | with_reducible refine Only.trans ?_ (Only.when (fun _ => ?_) _ _)

theorem sendResult_only (b f : Nat) (s : State) :
    Only [.fr, .rx] s (sendResult b f s) := by
  unfold sendResult
  repeat' first
    | simp (maxDischargeDepth := 8) only [Only.iff_of (addTr_only _ _ ), Only.iff_of (updBkt_only _ _ _ ), *, partsIn_nil, partsIn_cons, Only.self, Only.mk_iff, Only.forEach_iff, Only.when_iff, Only.ite_of, true_or, or_true, and_self, implies_true, List.mem_cons, reduceCtorEq, or_false, false_or, id_eq]
    | split
    | with_reducible refine Only.trans ?_ (Only.forEach (fun _ _ => ?_) _ _)
    | with_reducible refine Only.trans ?_ (Only.when (fun _ => ?_) _ _)

theorem resultDelivered_only (rsb : Word) (use : Nat) (s : State) :
    Only [.regs, .tr, .dbg, .rx] s (resultDelivered rsb use s) := by
  unfold resultDelivered
  repeat' first
    | simp (maxDischargeDepth := 8) only [Only.iff_of (updBkt_only _ _ _ ), Only.iff_of (settleBuckets_only _ ), *, partsIn_nil, partsIn_cons, Only.self, Only.mk_iff, Only.forEach_iff, Only.when_iff, Only.ite_of, true_or, or_true, and_self, implies_true, List.mem_cons, reduceCtorEq, or_false, false_or, id_eq]
    | split
    | with_reducible refine Only.trans ?_ (Only.forEach (fun _ _ => ?_) _ _)
    | with_reducible refine Only.trans ?_ (Only.when (fun _ => ?_) _ _)

end Sys2Proof.Machine
end

