-- ==== Sys2Proof/Laws/Maps.lean ====
section
/-!
SUPPORT. Laws/Maps.lean: the keyed lists: reading after writing, and the canonical form that every write keeps.
-/
namespace Sys2Proof

variable {α : Type}

theorem NMap.get_erase_self (d : α) (m : NMap α) (k : Nat) : NMap.get d (NMap.erase m k) k = d := by
  induction m with
  | nil => rfl
  | cons e m ih =>
    obtain ⟨j, v⟩ := e
    by_cases h : j = k
    · simpa [NMap.erase, h] using ih
    · simpa [NMap.erase, NMap.get, h] using ih

theorem NMap.get_erase_ne (d : α) (m : NMap α) {k j : Nat} (h : j ≠ k) : NMap.get d (NMap.erase m k) j = NMap.get d m j := by
  induction m with
  | nil => rfl
  | cons e m ih =>
    obtain ⟨i, v⟩ := e
    by_cases hi : i = k
    · subst hi
      simpa [NMap.erase, NMap.get, h.symm] using ih
    · by_cases hj : i = j
      · subst hj
        simp [NMap.erase, NMap.get, h]
      · simpa [NMap.erase, NMap.get, hi, hj] using ih

theorem NMap.get_ins_ne (d : α) (m : NMap α) (v : α) {k j : Nat} (h : j ≠ k) : NMap.get d (NMap.ins k v m) j = NMap.get d m j := by
  induction m with
  | nil => simp [NMap.ins, NMap.get, h.symm]
  | cons e m ih =>
    obtain ⟨i, w⟩ := e
    by_cases hk : k < i
    · simp [NMap.ins, NMap.get, hk, h.symm]
    · by_cases hj : i = j
      · subst hj
        simp [NMap.ins, NMap.get, hk]
      · simpa [NMap.ins, NMap.get, hk, hj] using ih

/-- `k` stands nowhere in the list. -/
def NMap.fresh (m : NMap α) (k : Nat) : Prop := ∀ e ∈ m, e.1 ≠ k

theorem NMap.fresh_erase (m : NMap α) (k : Nat) : NMap.fresh (NMap.erase m k) k := by
  induction m with
  | nil => intro e he; cases he
  | cons e m ih =>
    obtain ⟨j, v⟩ := e
    by_cases h : j = k
    · simpa [NMap.erase, h] using ih
    · intro x hx
      simp only [NMap.erase, h, if_false, List.mem_cons] at hx
      rcases hx with rfl | hx
      · exact h
      · exact ih x hx

theorem NMap.get_ins_self (d : α) (m : NMap α) (k : Nat) (v : α) (h : NMap.fresh m k) : NMap.get d (NMap.ins k v m) k = v := by
  induction m with
  | nil => simp [NMap.ins, NMap.get]
  | cons e m ih =>
    obtain ⟨i, w⟩ := e
    have hi : i ≠ k := h (i, w) (by simp)
    by_cases hk : k < i
    · simp [NMap.ins, NMap.get, hk]
    · have : NMap.fresh m k := fun x hx => h x (by simp [hx])
      simpa [NMap.ins, NMap.get, hk, hi] using ih this

variable [DecidableEq α]

/-- Reading what was just written. -/
theorem NMap.get_set_self (d : α) (m : NMap α) (k : Nat) (v : α) : NMap.get d (NMap.set d m k v) k = v := by
  unfold NMap.set
  split
  · rename_i h
    rw [NMap.get_erase_self, h]
  · exact NMap.get_ins_self d _ k v (NMap.fresh_erase m k)

/-- A write leaves every other key alone. -/
theorem NMap.get_set_ne (d : α) (m : NMap α) (v : α) {k j : Nat} (h : j ≠ k) : NMap.get d (NMap.set d m k v) j = NMap.get d m j := by
  unfold NMap.set
  split
  · exact NMap.get_erase_ne d m h
  · rw [NMap.get_ins_ne d _ v h, NMap.get_erase_ne d m h]

theorem NMap.get_set (d : α) (m : NMap α) (v : α) (k j : Nat) :
    NMap.get d (NMap.set d m k v) j = if j = k then v else NMap.get d m j := by
  split
  · rename_i h
    rw [h, NMap.get_set_self]
  · rename_i h
    exact NMap.get_set_ne d m v h

/-! The canonical form -/

theorem NMap.wfFrom_mono (d : α) {a b : Nat} (h : a ≤ b) : ∀ m : NMap α, NMap.wfFrom d b m = true → NMap.wfFrom d a m = true
  | [], _ => rfl
  | (k, v) :: m, hm => by
    simp only [NMap.wfFrom, Bool.and_eq_true, decide_eq_true_eq] at hm ⊢
    exact ⟨⟨Nat.le_trans h hm.1.1, hm.1.2⟩, hm.2⟩

theorem NMap.wfFrom_erase (d : α) (k : Nat) : ∀ (m : NMap α) (lo : Nat), NMap.wfFrom d lo m = true → NMap.wfFrom d lo (NMap.erase m k) = true
  | [], _, _ => rfl
  | (j, v) :: m, lo, hm => by
    simp only [NMap.wfFrom, Bool.and_eq_true, decide_eq_true_eq] at hm
    have ih := NMap.wfFrom_erase d k m (j + 1) hm.2
    by_cases h : j = k
    · simp only [NMap.erase, h, if_true]
      refine NMap.wfFrom_mono d (b := j + 1) (by omega) _ ?_
      simpa [h] using ih
    · simp only [NMap.erase, h, if_false, NMap.wfFrom, Bool.and_eq_true, decide_eq_true_eq]
      exact ⟨hm.1, ih⟩

theorem NMap.wfFrom_ins (d : α) (k : Nat) (v : α) (hv : v ≠ d) : ∀ (m : NMap α) (lo : Nat), lo ≤ k → NMap.fresh m k →
    NMap.wfFrom d lo m = true → NMap.wfFrom d lo (NMap.ins k v m) = true
  | [], lo, hl, _, _ => by simp [NMap.ins, NMap.wfFrom, hl, hv]
  | (j, w) :: m, lo, hl, hf, hm => by
    simp only [NMap.wfFrom, Bool.and_eq_true, decide_eq_true_eq] at hm
    have hj : j ≠ k := hf (j, w) (by simp)
    by_cases h : k < j
    · simp only [NMap.ins, h, if_true, NMap.wfFrom, Bool.and_eq_true, decide_eq_true_eq]
      exact ⟨⟨hl, hv⟩, ⟨⟨by omega, hm.1.2⟩, hm.2⟩⟩
    · simp only [NMap.ins, h, if_false, NMap.wfFrom, Bool.and_eq_true, decide_eq_true_eq]
      exact ⟨hm.1, NMap.wfFrom_ins d k v hv m (j + 1) (by omega) (fun x hx => hf x (by simp [hx])) hm.2⟩

/-- A write keeps the canonical form. -/
theorem NMap.wf_set (d : α) (m : NMap α) (k : Nat) (v : α) (h : NMap.wf d m = true) : NMap.wf d (NMap.set d m k v) = true := by
  unfold NMap.set
  split
  · exact NMap.wfFrom_erase d k m 0 h
  · rename_i hv
    exact NMap.wfFrom_ins d k v hv _ 0 (Nat.zero_le k) (NMap.fresh_erase m k) (NMap.wfFrom_erase d k m 0 h)

theorem NMap.wf_upd (d : α) (m : NMap α) (k : Nat) (f : α → α) (h : NMap.wf d m = true) : NMap.wf d (NMap.upd d m k f) = true :=
  NMap.wf_set d m k _ h

theorem NMap.wf_setList (d : α) (l : List α) : ∀ (m : NMap α) (k : Nat), NMap.wf d m = true → NMap.wf d (NMap.setList d m k l) = true := by
  induction l with
  | nil => intro m k h; exact h
  | cons v vs ih => intro m k h; exact ih _ _ (NMap.wf_set d m k v h)

theorem NMap.wfFrom_filter (d : α) (p : Nat × α → Bool) : ∀ (m : NMap α) (lo : Nat), NMap.wfFrom d lo m = true →
    NMap.wfFrom d lo (m.filter p) = true
  | [], _, _ => rfl
  | (j, v) :: m, lo, hm => by
    simp only [NMap.wfFrom, Bool.and_eq_true, decide_eq_true_eq] at hm
    have ih := NMap.wfFrom_filter d p m (j + 1) hm.2
    by_cases h : p (j, v) = true
    · simp only [List.filter_cons, h, if_true, NMap.wfFrom, Bool.and_eq_true, decide_eq_true_eq]
      exact ⟨hm.1, ih⟩
    · simp only [List.filter_cons, h]
      exact NMap.wfFrom_mono d (by omega) _ ih

theorem NMap.wf_filter (d : α) (p : Nat × α → Bool) (m : NMap α) (h : NMap.wf d m = true) : NMap.wf d (m.filter p) = true :=
  NMap.wfFrom_filter d p m 0 h

/-- A filter that keeps whatever stands at a key does not change what it reads. -/
theorem NMap.get_filter_of (d : α) (p : Nat × α → Bool) (m : NMap α) (k : Nat) (h : ∀ v, p (k, v) = true) :
    NMap.get d (m.filter p) k = NMap.get d m k := by
  induction m with
  | nil => rfl
  | cons e m ih =>
    obtain ⟨j, v⟩ := e
    by_cases hp : p (j, v) = true
    · rw [List.filter_cons_of_pos hp]
      simp only [NMap.get]
      split
      · rfl
      · exact ih
    · rw [List.filter_cons_of_neg hp]
      have hne : j ≠ k := by rintro rfl; exact hp (h v)
      rw [ih]
      simp [NMap.get, hne]

end Sys2Proof
end

