-- ==== Sys2Proof/Laws/Within.lean ====
section
/-!
SUPPORT. Laws/Within.lean: how register frames compose: no register and no counter changed outside a list of spans.
-/
namespace Sys2Proof.Machine

/-- The offsets of a span stand in another. -/
def Span.inside (x y : Span) : Bool :=
  Nat.ble y.lo x.lo && Nat.ble (x.lo + x.step * (x.count - 1)) (y.lo + y.step * (y.count - 1))
    && Nat.beq ((x.lo - y.lo) % y.step) 0 && Nat.beq (x.step % y.step) 0

/-- Every span of the first list stands in one of the second. -/
def spansIn (xs ys : List Span) : Bool := xs.all fun x => ys.any fun y => x.inside y

theorem Span.has_of_inside {x y : Span} {o : Nat} (h : x.inside y = true) (ho : x.has o = true) : y.has o = true := by
  simp only [Span.inside, Span.has, Bool.and_eq_true, Nat.ble_eq, Nat.beq_eq] at h ho ⊢
  obtain ⟨⟨⟨h1, h2⟩, h3⟩, h4⟩ := h
  obtain ⟨⟨o1, o2⟩, o3⟩ := ho
  refine ⟨⟨by omega, by omega⟩, ?_⟩
  have e : o - y.lo = (x.lo - y.lo) + (o - x.lo) := by omega
  have d1 : y.step ∣ x.lo - y.lo := Nat.dvd_of_mod_eq_zero h3
  have d2 : y.step ∣ o - x.lo := Nat.dvd_trans (Nat.dvd_of_mod_eq_zero h4) (Nat.dvd_of_mod_eq_zero o3)
  rw [e]
  exact Nat.mod_eq_zero_of_dvd (Nat.dvd_add d1 d2)

theorem any_of_spansIn {xs ys : List Span} (h : spansIn xs ys = true) {o : Nat} (ho : ys.any (fun y => y.has o) = false) :
    xs.any (fun x => x.has o) = false := by
  rw [Bool.eq_false_iff] at ho ⊢
  intro hx
  apply ho
  obtain ⟨x, hm, hx⟩ := List.any_eq_true.mp hx
  obtain ⟨y, hy, hi⟩ := List.any_eq_true.mp (List.all_eq_true.mp h x hm)
  exact List.any_eq_true.mpr ⟨y, hy, Span.has_of_inside hi hx⟩

theorem Within.refl (xs : List Span) (s : State) : Within xs s s := fun _ _ => ⟨rfl, rfl⟩

theorem Within.trans {xs : List Span} {a b c : State} (h : Within xs a b) (k : Within xs b c) : Within xs a c :=
  fun o ho => ⟨(k o ho).1.trans (h o ho).1, (k o ho).2.trans (h o ho).2⟩

theorem Within.symm {xs : List Span} {a b : State} (h : Within xs a b) : Within xs b a :=
  fun o ho => ⟨(h o ho).1.symm, (h o ho).2.symm⟩

theorem Within.mono {xs ys : List Span} {a b : State} (h : Within xs a b) (hs : spansIn xs ys = true) : Within ys a b :=
  fun o ho => h o (any_of_spansIn hs ho)

theorem Within.step {xs ys : List Span} {a b c : State} (k : Within xs b c) (hs : spansIn xs ys = true) (h : Within ys a b) :
    Within ys a c := h.trans (k.mono hs)

theorem Within.of_only {ps : List Part} {xs : List Span} {s t : State} (k : Only ps s t)
    (hs : (!ps.contains .regs && !ps.contains .cnt) = true) : Within xs s t := by
  simp only [Bool.and_eq_true, Bool.not_eq_true', List.contains_eq_mem, decide_eq_false_iff_not] at hs
  have h1 : t.regs = s.regs := k .regs hs.1
  have h2 : t.cnt = s.cnt := k .cnt hs.2
  intro o _
  exact ⟨by unfold reg; rw [h1], by rw [h2]⟩

theorem Within.forEach {α : Type} {xs : List Span} {f : α → State → State} (hf : ∀ x s, Within xs s (f x s)) (l : List α) (s : State) :
    Within xs s (forEach l f s) := by
  induction l generalizing s with
  | nil => exact Within.refl xs s
  | cons x l ih => exact (hf x s).trans (ih (f x s))

theorem Within.when {xs : List Span} {f : State → State} (hf : ∀ s, Within xs s (f s)) (c : Bool) (s : State) :
    Within xs s (when c f s) := by
  unfold Machine.when
  split
  · exact hf s
  · exact Within.refl xs s

theorem Within.iff_of {xs ys : List Span} {a b c : State} (k : Within xs b c) (hs : spansIn xs ys = true) :
    Within ys a c ↔ Within ys a b :=
  ⟨fun h => h.trans (k.mono hs).symm, fun h => h.trans (k.mono hs)⟩

theorem Within.iff_any {ys : List Span} {a b c : State} (k : ∀ xs, Within xs b c) : Within ys a c ↔ Within ys a b :=
  ⟨fun h => h.trans (k _).symm, fun h => h.trans (k _)⟩

theorem Within.forEach_iff {α : Type} {xs : List Span} {f : α → State → State} {a : State} {l : List α} {s : State}
    (hf : ∀ x s, Within xs s (f x s)) : Within xs a (Machine.forEach l f s) ↔ Within xs a s :=
  ⟨fun h => h.trans (Within.forEach hf l s).symm, fun h => h.trans (Within.forEach hf l s)⟩

theorem Within.when_iff {xs : List Span} {f : State → State} {a : State} {c : Bool} {s : State}
    (hf : ∀ s, Within xs s (f s)) : Within xs a (Machine.when c f s) ↔ Within xs a s :=
  ⟨fun h => h.trans (Within.when hf c s).symm, fun h => h.trans (Within.when hf c s)⟩

theorem Within.ite_of {xs : List Span} {a x y : State} {c : Prop} [Decidable c] (hx : Within xs a x) (hy : Within xs a y) :
    Within xs a (if c then x else y) := by
  split
  · exact hx
  · exact hy

theorem Within.self (xs : List Span) (s : State) : Within xs s s ↔ True := iff_true_intro (Within.refl xs s)

/-- An effect that may not take place. -/
theorem Within.getD {xs : List Span} {u : State} {o : Option State} (h : ∀ t, o = some t → Within xs u t) : Within xs u (o.getD u) := by
  cases o with
  | none => exact Within.refl xs u
  | some t => exact h t rfl

theorem Within.snd {α : Type} {xs ys : List Span} {a b t : State} {p : α × State} {r : α} (h : p = (r, t)) (k : Within xs b p.2)
    (hs : spansIn xs ys = true) (ha : Within ys a b) : Within ys a t := by
  subst h
  exact ha.trans (k.mono hs)

/-- A record update of other fields. -/
theorem Within.mk_iff {xs : List Span} {a s : State} {q : List Instr} {x0 : Nat} {x1 : Nat} {x4 : NMap (BitVec 56)} {x5 : BusSt} {x6 : List Host.Cell} {x7 : BankSt} {x8 : FrameSt} {x9 : ArbSt} {x10 : SlipSt} {x11 : TblSt} {x12 : BlendSt} {x13 : HeldSt} {x14 : TimeSt} {x15 : TraceSt} {x16 : DbgSt} {x17 : FwdSt} {x18 : RdxSt} {x19 : PwrSt} {x20 : CkSt} {x21 : ProtSt} :
    Within xs a ⟨q, x0, x1, s.regs, s.cnt, x4, x5, x6, x7, x8, x9, x10, x11, x12, x13, x14, x15, x16, x17, x18, x19, x20, x21⟩ ↔
      Within xs a s := Iff.rfl

theorem Nat.ble_self_eq_true (n : Nat) : Nat.ble n n = true := Nat.ble_eq.mpr (Nat.le_refl n)

/-- One register, one counter. -/
theorem setReg_within (o : Nat) (w : Word) (s : State) : Within [⟨o, 0, 1⟩] s (setReg o w s) := by
  intro p hp
  refine ⟨?_, rfl⟩
  unfold reg setReg
  rw [NMap.get_set_ne]
  rintro rfl
  simp [Span.has, Nat.ble_self_eq_true] at hp

theorem setRegF_within (o hi lo v : Nat) (s : State) : Within [⟨o, 0, 1⟩] s (setRegF o hi lo v s) := setReg_within o _ s
theorem orReg_within (o m : Nat) (s : State) : Within [⟨o, 0, 1⟩] s (orReg o m s) := setReg_within o _ s
theorem clrReg_within (o m : Nat) (s : State) : Within [⟨o, 0, 1⟩] s (clrReg o m s) := setReg_within o _ s

theorem bump_within (o n : Nat) (s : State) : Within [⟨o, 0, 1⟩] s (bump o n s) := by
  intro p hp
  refine ⟨rfl, ?_⟩
  unfold bump NMap.upd
  dsimp only
  rw [NMap.get_set_ne]
  rintro rfl
  simp [Span.has, Nat.ble_self_eq_true] at hp

/-- An offset computed from an index. -/
theorem spansIn_idx {lo st i n : Nat} {ys : List Span} (h : spansIn [⟨lo, st, n⟩] ys = true) (hn : n ≠ 0) :
    spansIn [⟨lo + st * (i % n), 0, 1⟩] ys = true := by
  simp only [spansIn, List.all_cons, List.all_nil, Bool.and_true, List.any_eq_true] at h ⊢
  obtain ⟨y, hy, h⟩ := h
  refine ⟨y, hy, ?_⟩
  simp only [Span.inside, Bool.and_eq_true, Nat.ble_eq, Nat.beq_eq] at h ⊢
  obtain ⟨⟨⟨h1, h2⟩, h3⟩, h4⟩ := h
  have hi : i % n ≤ n - 1 := by have := Nat.mod_lt i (Nat.pos_of_ne_zero hn); omega
  have hm : st * (i % n) ≤ st * (n - 1) := Nat.mul_le_mul_left st hi
  refine ⟨⟨⟨by omega, by omega⟩, ?_⟩, by simp⟩
  have e : lo + st * (i % n) - y.lo = (lo - y.lo) + st * (i % n) := by omega
  rw [e]
  exact Nat.mod_eq_zero_of_dvd (Nat.dvd_add (Nat.dvd_of_mod_eq_zero h3) (Nat.dvd_mul_right_of_dvd (Nat.dvd_of_mod_eq_zero h4) _))

/-- A register of a watch unit. -/
theorem spansIn_wu {u k : Nat} {ys : List Span} (h : spansIn [⟨0x6A00 + k, 64, 4⟩] ys = true) :
    spansIn [⟨wuReg u k, 0, 1⟩] ys = true := spansIn_idx h (by decide)

/-- Clearing listed registers. -/
theorem Within.clear_iff {xs : List Span} {a s : State} {l : List Nat} {w : Word} (h : l.all (fun o => xs.any fun x => x.has o) = true) :
    Within xs a (Machine.forEach l (fun o => setReg o w) s) ↔ Within xs a s := by
  have k : ∀ s, Within xs s (Machine.forEach l (fun o => setReg o w) s) := by
    induction l with
    | nil => exact fun s => Within.refl xs s
    | cons o l ih =>
      intro s
      simp only [List.all_cons, Bool.and_eq_true] at h
      refine Within.trans ?_ (ih h.2 _)
      intro p hp
      refine ⟨?_, rfl⟩
      unfold reg setReg
      rw [NMap.get_set_ne]
      rintro rfl
      rw [h.1] at hp
      cases hp
  exact ⟨fun h => h.trans (k s).symm, fun h => h.trans (k s)⟩

end Sys2Proof.Machine
end

