-- ==== Sys2Proof/Laws/State.lean ====
section
/-!
SUPPORT. Laws/State.lean: what reading a part of the state gives after an update of another part.
-/
namespace Sys2Proof.Machine

/-! Registers and counters -/

theorem reg_setReg (o p : Nat) (w : Word) (s : State) : reg (setReg o w s) p = if p = o then w else reg s p := by
  unfold reg setReg
  exact NMap.get_set 0 s.regs w o p

@[simp] theorem reg_setReg_self (o : Nat) (w : Word) (s : State) : reg (setReg o w s) o = w := by
  rw [reg_setReg, if_pos rfl]

theorem reg_setReg_ne {o p : Nat} (h : p ≠ o) (w : Word) (s : State) : reg (setReg o w s) p = reg s p := by
  rw [reg_setReg, if_neg h]

/-- A register reads the same through an update of other fields. -/
@[simp] theorem reg_mk (o : Nat) (s : State) (q : List Instr) (x0 : Nat) (x1 : Nat) (x3 : NMap (BitVec 56)) (x4 : NMap (BitVec 56)) (x5 : BusSt) (x6 : List Host.Cell) (x7 : BankSt) (x8 : FrameSt) (x9 : ArbSt) (x10 : SlipSt) (x11 : TblSt) (x12 : BlendSt) (x13 : HeldSt) (x14 : TimeSt) (x15 : TraceSt) (x16 : DbgSt) (x17 : FwdSt) (x18 : RdxSt) (x19 : PwrSt) (x20 : CkSt) (x21 : ProtSt) :
    reg ⟨q, x0, x1, s.regs, x3, x4, x5, x6, x7, x8, x9, x10, x11, x12, x13, x14, x15, x16, x17, x18, x19, x20, x21⟩ o = reg s o := rfl

/-- One register of a frame. -/
theorem Within.reg {xs : List Span} {s t : State} (k : Within xs s t) (o : Nat) (h : xs.any (fun x => x.has o) = false := by decide) :
    Machine.reg t o = Machine.reg s o := (k o h).1

/-- One counter of a frame. -/
theorem Within.cnt {xs : List Span} {s t : State} (k : Within xs s t) (o : Nat) (h : xs.any (fun x => x.has o) = false := by decide) :
    NMap.get 0 t.cnt o = NMap.get 0 s.cnt o := (k o h).2

theorem cnt_bump (o n p : Nat) (s : State) :
    NMap.get 0 (bump o n s).cnt p = if p = o then NMap.get 0 s.cnt o + BitVec.ofNat 56 n else NMap.get 0 s.cnt p := by
  unfold bump NMap.upd
  exact NMap.get_set 0 s.cnt _ o p

theorem regF_setRegF {o hi lo v : Nat} {s : State} (h : hi < 32) : regF (setRegF o hi lo v s) o hi lo = v % 2 ^ (hi + 1 - lo) := by
  rw [regF_of_reg (n := setBits (reg s o).toNat hi lo v) (by unfold setRegF; rw [reg_setReg_self]) h, bits_setBits]

theorem regF_eq_of_reg {s t : State} {o hi lo : Nat} (h : reg t o = reg s o) : regF t o hi lo = regF s o hi lo := by
  unfold regF
  rw [h]

theorem regB_eq_of_reg {s t : State} {o i : Nat} (h : reg t o = reg s o) : regB t o i = regB s o i := by
  unfold regB
  rw [h]

/-- The word just put at an offset of consecutive registers. -/
theorem reg_setRegs_ge (l : List Nat) : ∀ (o p : Nat) (s : State), p < o ∨ o + 4 * l.length ≤ p →
    reg (setRegs o l s) p = reg s p := by
  induction l with
  | nil => exact fun _ _ _ _ => rfl
  | cons w ws ih =>
    intro o p s h
    simp only [List.length_cons] at h
    show reg (setRegs (o + 4) ws (setReg o (BitVec.ofNat 32 w) s)) p = _
    rw [ih (o + 4) p _ (by omega), reg_setReg_ne (by omega)]

theorem reg_setRegs (l : List Nat) : ∀ (o i : Nat) (s : State), i < l.length →
    reg (setRegs o l s) (o + 4 * i) = BitVec.ofNat 32 (listGet 0 l i) := by
  induction l with
  | nil => exact fun _ _ _ h => absurd h (Nat.not_lt_zero _)
  | cons w ws ih =>
    intro o i s h
    cases i with
    | zero =>
      show reg (setRegs (o + 4) ws (setReg o (BitVec.ofNat 32 w) s)) o = _
      rw [reg_setRegs_ge ws (o + 4) o _ (by omega), reg_setReg_self]
      rfl
    | succ i =>
      have e : o + 4 * (i + 1) = (o + 4) + 4 * i := by omega
      rw [e]
      exact ih (o + 4) i _ (by simpa using h)


@[simp] theorem setReg_pending (o : Nat) (w : Word) (s : State) : (setReg o w s).pending = s.pending := setReg_only o w s .pending (by decide)
@[simp] theorem setReg_cyc (o : Nat) (w : Word) (s : State) : (setReg o w s).cyc = s.cyc := setReg_only o w s .cyc (by decide)
@[simp] theorem setReg_free (o : Nat) (w : Word) (s : State) : (setReg o w s).free = s.free := setReg_only o w s .free (by decide)
@[simp] theorem setReg_cnt (o : Nat) (w : Word) (s : State) : (setReg o w s).cnt = s.cnt := setReg_only o w s .cnt (by decide)
@[simp] theorem setReg_xc (o : Nat) (w : Word) (s : State) : (setReg o w s).xc = s.xc := setReg_only o w s .xc (by decide)
@[simp] theorem setReg_bus (o : Nat) (w : Word) (s : State) : (setReg o w s).bus = s.bus := setReg_only o w s .bus (by decide)
@[simp] theorem setReg_mem (o : Nat) (w : Word) (s : State) : (setReg o w s).mem = s.mem := setReg_only o w s .mem (by decide)
@[simp] theorem setReg_bank (o : Nat) (w : Word) (s : State) : (setReg o w s).bank = s.bank := setReg_only o w s .bank (by decide)
@[simp] theorem setReg_fr (o : Nat) (w : Word) (s : State) : (setReg o w s).fr = s.fr := setReg_only o w s .fr (by decide)
@[simp] theorem setReg_arb (o : Nat) (w : Word) (s : State) : (setReg o w s).arb = s.arb := setReg_only o w s .arb (by decide)
@[simp] theorem setReg_sq (o : Nat) (w : Word) (s : State) : (setReg o w s).sq = s.sq := setReg_only o w s .sq (by decide)
@[simp] theorem setReg_tb (o : Nat) (w : Word) (s : State) : (setReg o w s).tb = s.tb := setReg_only o w s .tb (by decide)
@[simp] theorem setReg_bl (o : Nat) (w : Word) (s : State) : (setReg o w s).bl = s.bl := setReg_only o w s .bl (by decide)
@[simp] theorem setReg_hd (o : Nat) (w : Word) (s : State) : (setReg o w s).hd = s.hd := setReg_only o w s .hd (by decide)
@[simp] theorem setReg_tm (o : Nat) (w : Word) (s : State) : (setReg o w s).tm = s.tm := setReg_only o w s .tm (by decide)
@[simp] theorem setReg_tr (o : Nat) (w : Word) (s : State) : (setReg o w s).tr = s.tr := setReg_only o w s .tr (by decide)
@[simp] theorem setReg_dbg (o : Nat) (w : Word) (s : State) : (setReg o w s).dbg = s.dbg := setReg_only o w s .dbg (by decide)
@[simp] theorem setReg_fw (o : Nat) (w : Word) (s : State) : (setReg o w s).fw = s.fw := setReg_only o w s .fw (by decide)
@[simp] theorem setReg_rx (o : Nat) (w : Word) (s : State) : (setReg o w s).rx = s.rx := setReg_only o w s .rx (by decide)
@[simp] theorem setReg_pw (o : Nat) (w : Word) (s : State) : (setReg o w s).pw = s.pw := setReg_only o w s .pw (by decide)
@[simp] theorem setReg_ck (o : Nat) (w : Word) (s : State) : (setReg o w s).ck = s.ck := setReg_only o w s .ck (by decide)
@[simp] theorem setReg_pr (o : Nat) (w : Word) (s : State) : (setReg o w s).pr = s.pr := setReg_only o w s .pr (by decide)
@[simp] theorem setRegF_pending (o hi lo v : Nat) (s : State) : (setRegF o hi lo v s).pending = s.pending := setRegF_only o hi lo v s .pending (by decide)
@[simp] theorem setRegF_cyc (o hi lo v : Nat) (s : State) : (setRegF o hi lo v s).cyc = s.cyc := setRegF_only o hi lo v s .cyc (by decide)
@[simp] theorem setRegF_free (o hi lo v : Nat) (s : State) : (setRegF o hi lo v s).free = s.free := setRegF_only o hi lo v s .free (by decide)
@[simp] theorem setRegF_cnt (o hi lo v : Nat) (s : State) : (setRegF o hi lo v s).cnt = s.cnt := setRegF_only o hi lo v s .cnt (by decide)
@[simp] theorem setRegF_xc (o hi lo v : Nat) (s : State) : (setRegF o hi lo v s).xc = s.xc := setRegF_only o hi lo v s .xc (by decide)
@[simp] theorem setRegF_bus (o hi lo v : Nat) (s : State) : (setRegF o hi lo v s).bus = s.bus := setRegF_only o hi lo v s .bus (by decide)
@[simp] theorem setRegF_mem (o hi lo v : Nat) (s : State) : (setRegF o hi lo v s).mem = s.mem := setRegF_only o hi lo v s .mem (by decide)
@[simp] theorem setRegF_bank (o hi lo v : Nat) (s : State) : (setRegF o hi lo v s).bank = s.bank := setRegF_only o hi lo v s .bank (by decide)
@[simp] theorem setRegF_fr (o hi lo v : Nat) (s : State) : (setRegF o hi lo v s).fr = s.fr := setRegF_only o hi lo v s .fr (by decide)
@[simp] theorem setRegF_arb (o hi lo v : Nat) (s : State) : (setRegF o hi lo v s).arb = s.arb := setRegF_only o hi lo v s .arb (by decide)
@[simp] theorem setRegF_sq (o hi lo v : Nat) (s : State) : (setRegF o hi lo v s).sq = s.sq := setRegF_only o hi lo v s .sq (by decide)
@[simp] theorem setRegF_tb (o hi lo v : Nat) (s : State) : (setRegF o hi lo v s).tb = s.tb := setRegF_only o hi lo v s .tb (by decide)
@[simp] theorem setRegF_bl (o hi lo v : Nat) (s : State) : (setRegF o hi lo v s).bl = s.bl := setRegF_only o hi lo v s .bl (by decide)
@[simp] theorem setRegF_hd (o hi lo v : Nat) (s : State) : (setRegF o hi lo v s).hd = s.hd := setRegF_only o hi lo v s .hd (by decide)
@[simp] theorem setRegF_tm (o hi lo v : Nat) (s : State) : (setRegF o hi lo v s).tm = s.tm := setRegF_only o hi lo v s .tm (by decide)
@[simp] theorem setRegF_tr (o hi lo v : Nat) (s : State) : (setRegF o hi lo v s).tr = s.tr := setRegF_only o hi lo v s .tr (by decide)
@[simp] theorem setRegF_dbg (o hi lo v : Nat) (s : State) : (setRegF o hi lo v s).dbg = s.dbg := setRegF_only o hi lo v s .dbg (by decide)
@[simp] theorem setRegF_fw (o hi lo v : Nat) (s : State) : (setRegF o hi lo v s).fw = s.fw := setRegF_only o hi lo v s .fw (by decide)
@[simp] theorem setRegF_rx (o hi lo v : Nat) (s : State) : (setRegF o hi lo v s).rx = s.rx := setRegF_only o hi lo v s .rx (by decide)
@[simp] theorem setRegF_pw (o hi lo v : Nat) (s : State) : (setRegF o hi lo v s).pw = s.pw := setRegF_only o hi lo v s .pw (by decide)
@[simp] theorem setRegF_ck (o hi lo v : Nat) (s : State) : (setRegF o hi lo v s).ck = s.ck := setRegF_only o hi lo v s .ck (by decide)
@[simp] theorem setRegF_pr (o hi lo v : Nat) (s : State) : (setRegF o hi lo v s).pr = s.pr := setRegF_only o hi lo v s .pr (by decide)
@[simp] theorem orReg_pending (o m : Nat) (s : State) : (orReg o m s).pending = s.pending := orReg_only o m s .pending (by decide)
@[simp] theorem orReg_cyc (o m : Nat) (s : State) : (orReg o m s).cyc = s.cyc := orReg_only o m s .cyc (by decide)
@[simp] theorem orReg_free (o m : Nat) (s : State) : (orReg o m s).free = s.free := orReg_only o m s .free (by decide)
@[simp] theorem orReg_cnt (o m : Nat) (s : State) : (orReg o m s).cnt = s.cnt := orReg_only o m s .cnt (by decide)
@[simp] theorem orReg_xc (o m : Nat) (s : State) : (orReg o m s).xc = s.xc := orReg_only o m s .xc (by decide)
@[simp] theorem orReg_bus (o m : Nat) (s : State) : (orReg o m s).bus = s.bus := orReg_only o m s .bus (by decide)
@[simp] theorem orReg_mem (o m : Nat) (s : State) : (orReg o m s).mem = s.mem := orReg_only o m s .mem (by decide)
@[simp] theorem orReg_bank (o m : Nat) (s : State) : (orReg o m s).bank = s.bank := orReg_only o m s .bank (by decide)
@[simp] theorem orReg_fr (o m : Nat) (s : State) : (orReg o m s).fr = s.fr := orReg_only o m s .fr (by decide)
@[simp] theorem orReg_arb (o m : Nat) (s : State) : (orReg o m s).arb = s.arb := orReg_only o m s .arb (by decide)
@[simp] theorem orReg_sq (o m : Nat) (s : State) : (orReg o m s).sq = s.sq := orReg_only o m s .sq (by decide)
@[simp] theorem orReg_tb (o m : Nat) (s : State) : (orReg o m s).tb = s.tb := orReg_only o m s .tb (by decide)
@[simp] theorem orReg_bl (o m : Nat) (s : State) : (orReg o m s).bl = s.bl := orReg_only o m s .bl (by decide)
@[simp] theorem orReg_hd (o m : Nat) (s : State) : (orReg o m s).hd = s.hd := orReg_only o m s .hd (by decide)
@[simp] theorem orReg_tm (o m : Nat) (s : State) : (orReg o m s).tm = s.tm := orReg_only o m s .tm (by decide)
@[simp] theorem orReg_tr (o m : Nat) (s : State) : (orReg o m s).tr = s.tr := orReg_only o m s .tr (by decide)
@[simp] theorem orReg_dbg (o m : Nat) (s : State) : (orReg o m s).dbg = s.dbg := orReg_only o m s .dbg (by decide)
@[simp] theorem orReg_fw (o m : Nat) (s : State) : (orReg o m s).fw = s.fw := orReg_only o m s .fw (by decide)
@[simp] theorem orReg_rx (o m : Nat) (s : State) : (orReg o m s).rx = s.rx := orReg_only o m s .rx (by decide)
@[simp] theorem orReg_pw (o m : Nat) (s : State) : (orReg o m s).pw = s.pw := orReg_only o m s .pw (by decide)
@[simp] theorem orReg_ck (o m : Nat) (s : State) : (orReg o m s).ck = s.ck := orReg_only o m s .ck (by decide)
@[simp] theorem orReg_pr (o m : Nat) (s : State) : (orReg o m s).pr = s.pr := orReg_only o m s .pr (by decide)
@[simp] theorem clrReg_pending (o m : Nat) (s : State) : (clrReg o m s).pending = s.pending := clrReg_only o m s .pending (by decide)
@[simp] theorem clrReg_cyc (o m : Nat) (s : State) : (clrReg o m s).cyc = s.cyc := clrReg_only o m s .cyc (by decide)
@[simp] theorem clrReg_free (o m : Nat) (s : State) : (clrReg o m s).free = s.free := clrReg_only o m s .free (by decide)
@[simp] theorem clrReg_cnt (o m : Nat) (s : State) : (clrReg o m s).cnt = s.cnt := clrReg_only o m s .cnt (by decide)
@[simp] theorem clrReg_xc (o m : Nat) (s : State) : (clrReg o m s).xc = s.xc := clrReg_only o m s .xc (by decide)
@[simp] theorem clrReg_bus (o m : Nat) (s : State) : (clrReg o m s).bus = s.bus := clrReg_only o m s .bus (by decide)
@[simp] theorem clrReg_mem (o m : Nat) (s : State) : (clrReg o m s).mem = s.mem := clrReg_only o m s .mem (by decide)
@[simp] theorem clrReg_bank (o m : Nat) (s : State) : (clrReg o m s).bank = s.bank := clrReg_only o m s .bank (by decide)
@[simp] theorem clrReg_fr (o m : Nat) (s : State) : (clrReg o m s).fr = s.fr := clrReg_only o m s .fr (by decide)
@[simp] theorem clrReg_arb (o m : Nat) (s : State) : (clrReg o m s).arb = s.arb := clrReg_only o m s .arb (by decide)
@[simp] theorem clrReg_sq (o m : Nat) (s : State) : (clrReg o m s).sq = s.sq := clrReg_only o m s .sq (by decide)
@[simp] theorem clrReg_tb (o m : Nat) (s : State) : (clrReg o m s).tb = s.tb := clrReg_only o m s .tb (by decide)
@[simp] theorem clrReg_bl (o m : Nat) (s : State) : (clrReg o m s).bl = s.bl := clrReg_only o m s .bl (by decide)
@[simp] theorem clrReg_hd (o m : Nat) (s : State) : (clrReg o m s).hd = s.hd := clrReg_only o m s .hd (by decide)
@[simp] theorem clrReg_tm (o m : Nat) (s : State) : (clrReg o m s).tm = s.tm := clrReg_only o m s .tm (by decide)
@[simp] theorem clrReg_tr (o m : Nat) (s : State) : (clrReg o m s).tr = s.tr := clrReg_only o m s .tr (by decide)
@[simp] theorem clrReg_dbg (o m : Nat) (s : State) : (clrReg o m s).dbg = s.dbg := clrReg_only o m s .dbg (by decide)
@[simp] theorem clrReg_fw (o m : Nat) (s : State) : (clrReg o m s).fw = s.fw := clrReg_only o m s .fw (by decide)
@[simp] theorem clrReg_rx (o m : Nat) (s : State) : (clrReg o m s).rx = s.rx := clrReg_only o m s .rx (by decide)
@[simp] theorem clrReg_pw (o m : Nat) (s : State) : (clrReg o m s).pw = s.pw := clrReg_only o m s .pw (by decide)
@[simp] theorem clrReg_ck (o m : Nat) (s : State) : (clrReg o m s).ck = s.ck := clrReg_only o m s .ck (by decide)
@[simp] theorem clrReg_pr (o m : Nat) (s : State) : (clrReg o m s).pr = s.pr := clrReg_only o m s .pr (by decide)
@[simp] theorem bump_pending (o n : Nat) (s : State) : (bump o n s).pending = s.pending := bump_only o n s .pending (by decide)
@[simp] theorem bump_cyc (o n : Nat) (s : State) : (bump o n s).cyc = s.cyc := bump_only o n s .cyc (by decide)
@[simp] theorem bump_free (o n : Nat) (s : State) : (bump o n s).free = s.free := bump_only o n s .free (by decide)
@[simp] theorem bump_regs (o n : Nat) (s : State) : (bump o n s).regs = s.regs := bump_only o n s .regs (by decide)
@[simp] theorem bump_xc (o n : Nat) (s : State) : (bump o n s).xc = s.xc := bump_only o n s .xc (by decide)
@[simp] theorem bump_bus (o n : Nat) (s : State) : (bump o n s).bus = s.bus := bump_only o n s .bus (by decide)
@[simp] theorem bump_mem (o n : Nat) (s : State) : (bump o n s).mem = s.mem := bump_only o n s .mem (by decide)
@[simp] theorem bump_bank (o n : Nat) (s : State) : (bump o n s).bank = s.bank := bump_only o n s .bank (by decide)
@[simp] theorem bump_fr (o n : Nat) (s : State) : (bump o n s).fr = s.fr := bump_only o n s .fr (by decide)
@[simp] theorem bump_arb (o n : Nat) (s : State) : (bump o n s).arb = s.arb := bump_only o n s .arb (by decide)
@[simp] theorem bump_sq (o n : Nat) (s : State) : (bump o n s).sq = s.sq := bump_only o n s .sq (by decide)
@[simp] theorem bump_tb (o n : Nat) (s : State) : (bump o n s).tb = s.tb := bump_only o n s .tb (by decide)
@[simp] theorem bump_bl (o n : Nat) (s : State) : (bump o n s).bl = s.bl := bump_only o n s .bl (by decide)
@[simp] theorem bump_hd (o n : Nat) (s : State) : (bump o n s).hd = s.hd := bump_only o n s .hd (by decide)
@[simp] theorem bump_tm (o n : Nat) (s : State) : (bump o n s).tm = s.tm := bump_only o n s .tm (by decide)
@[simp] theorem bump_tr (o n : Nat) (s : State) : (bump o n s).tr = s.tr := bump_only o n s .tr (by decide)
@[simp] theorem bump_dbg (o n : Nat) (s : State) : (bump o n s).dbg = s.dbg := bump_only o n s .dbg (by decide)
@[simp] theorem bump_fw (o n : Nat) (s : State) : (bump o n s).fw = s.fw := bump_only o n s .fw (by decide)
@[simp] theorem bump_rx (o n : Nat) (s : State) : (bump o n s).rx = s.rx := bump_only o n s .rx (by decide)
@[simp] theorem bump_pw (o n : Nat) (s : State) : (bump o n s).pw = s.pw := bump_only o n s .pw (by decide)
@[simp] theorem bump_ck (o n : Nat) (s : State) : (bump o n s).ck = s.ck := bump_only o n s .ck (by decide)
@[simp] theorem bump_pr (o n : Nat) (s : State) : (bump o n s).pr = s.pr := bump_only o n s .pr (by decide)
@[simp] theorem xbump_pending (i n : Nat) (s : State) : (xbump i n s).pending = s.pending := xbump_only i n s .pending (by decide)
@[simp] theorem xbump_cyc (i n : Nat) (s : State) : (xbump i n s).cyc = s.cyc := xbump_only i n s .cyc (by decide)
@[simp] theorem xbump_free (i n : Nat) (s : State) : (xbump i n s).free = s.free := xbump_only i n s .free (by decide)
@[simp] theorem xbump_regs (i n : Nat) (s : State) : (xbump i n s).regs = s.regs := xbump_only i n s .regs (by decide)
@[simp] theorem xbump_cnt (i n : Nat) (s : State) : (xbump i n s).cnt = s.cnt := xbump_only i n s .cnt (by decide)
@[simp] theorem xbump_bus (i n : Nat) (s : State) : (xbump i n s).bus = s.bus := xbump_only i n s .bus (by decide)
@[simp] theorem xbump_mem (i n : Nat) (s : State) : (xbump i n s).mem = s.mem := xbump_only i n s .mem (by decide)
@[simp] theorem xbump_bank (i n : Nat) (s : State) : (xbump i n s).bank = s.bank := xbump_only i n s .bank (by decide)
@[simp] theorem xbump_fr (i n : Nat) (s : State) : (xbump i n s).fr = s.fr := xbump_only i n s .fr (by decide)
@[simp] theorem xbump_arb (i n : Nat) (s : State) : (xbump i n s).arb = s.arb := xbump_only i n s .arb (by decide)
@[simp] theorem xbump_sq (i n : Nat) (s : State) : (xbump i n s).sq = s.sq := xbump_only i n s .sq (by decide)
@[simp] theorem xbump_tb (i n : Nat) (s : State) : (xbump i n s).tb = s.tb := xbump_only i n s .tb (by decide)
@[simp] theorem xbump_bl (i n : Nat) (s : State) : (xbump i n s).bl = s.bl := xbump_only i n s .bl (by decide)
@[simp] theorem xbump_hd (i n : Nat) (s : State) : (xbump i n s).hd = s.hd := xbump_only i n s .hd (by decide)
@[simp] theorem xbump_tm (i n : Nat) (s : State) : (xbump i n s).tm = s.tm := xbump_only i n s .tm (by decide)
@[simp] theorem xbump_tr (i n : Nat) (s : State) : (xbump i n s).tr = s.tr := xbump_only i n s .tr (by decide)
@[simp] theorem xbump_dbg (i n : Nat) (s : State) : (xbump i n s).dbg = s.dbg := xbump_only i n s .dbg (by decide)
@[simp] theorem xbump_fw (i n : Nat) (s : State) : (xbump i n s).fw = s.fw := xbump_only i n s .fw (by decide)
@[simp] theorem xbump_rx (i n : Nat) (s : State) : (xbump i n s).rx = s.rx := xbump_only i n s .rx (by decide)
@[simp] theorem xbump_pw (i n : Nat) (s : State) : (xbump i n s).pw = s.pw := xbump_only i n s .pw (by decide)
@[simp] theorem xbump_ck (i n : Nat) (s : State) : (xbump i n s).ck = s.ck := xbump_only i n s .ck (by decide)
@[simp] theorem xbump_pr (i n : Nat) (s : State) : (xbump i n s).pr = s.pr := xbump_only i n s .pr (by decide)
@[simp] theorem genRec_pending (r : Rec) (hasCtx : Bool) (s : State) : (genRec r hasCtx s).pending = s.pending := genRec_only r hasCtx s .pending (by decide)
@[simp] theorem genRec_cyc (r : Rec) (hasCtx : Bool) (s : State) : (genRec r hasCtx s).cyc = s.cyc := genRec_only r hasCtx s .cyc (by decide)
@[simp] theorem genRec_free (r : Rec) (hasCtx : Bool) (s : State) : (genRec r hasCtx s).free = s.free := genRec_only r hasCtx s .free (by decide)
@[simp] theorem genRec_regs (r : Rec) (hasCtx : Bool) (s : State) : (genRec r hasCtx s).regs = s.regs := genRec_only r hasCtx s .regs (by decide)
@[simp] theorem genRec_cnt (r : Rec) (hasCtx : Bool) (s : State) : (genRec r hasCtx s).cnt = s.cnt := genRec_only r hasCtx s .cnt (by decide)
@[simp] theorem genRec_xc (r : Rec) (hasCtx : Bool) (s : State) : (genRec r hasCtx s).xc = s.xc := genRec_only r hasCtx s .xc (by decide)
@[simp] theorem genRec_bus (r : Rec) (hasCtx : Bool) (s : State) : (genRec r hasCtx s).bus = s.bus := genRec_only r hasCtx s .bus (by decide)
@[simp] theorem genRec_mem (r : Rec) (hasCtx : Bool) (s : State) : (genRec r hasCtx s).mem = s.mem := genRec_only r hasCtx s .mem (by decide)
@[simp] theorem genRec_bank (r : Rec) (hasCtx : Bool) (s : State) : (genRec r hasCtx s).bank = s.bank := genRec_only r hasCtx s .bank (by decide)
@[simp] theorem genRec_fr (r : Rec) (hasCtx : Bool) (s : State) : (genRec r hasCtx s).fr = s.fr := genRec_only r hasCtx s .fr (by decide)
@[simp] theorem genRec_arb (r : Rec) (hasCtx : Bool) (s : State) : (genRec r hasCtx s).arb = s.arb := genRec_only r hasCtx s .arb (by decide)
@[simp] theorem genRec_sq (r : Rec) (hasCtx : Bool) (s : State) : (genRec r hasCtx s).sq = s.sq := genRec_only r hasCtx s .sq (by decide)
@[simp] theorem genRec_tb (r : Rec) (hasCtx : Bool) (s : State) : (genRec r hasCtx s).tb = s.tb := genRec_only r hasCtx s .tb (by decide)
@[simp] theorem genRec_bl (r : Rec) (hasCtx : Bool) (s : State) : (genRec r hasCtx s).bl = s.bl := genRec_only r hasCtx s .bl (by decide)
@[simp] theorem genRec_hd (r : Rec) (hasCtx : Bool) (s : State) : (genRec r hasCtx s).hd = s.hd := genRec_only r hasCtx s .hd (by decide)
@[simp] theorem genRec_tm (r : Rec) (hasCtx : Bool) (s : State) : (genRec r hasCtx s).tm = s.tm := genRec_only r hasCtx s .tm (by decide)
@[simp] theorem genRec_dbg (r : Rec) (hasCtx : Bool) (s : State) : (genRec r hasCtx s).dbg = s.dbg := genRec_only r hasCtx s .dbg (by decide)
@[simp] theorem genRec_fw (r : Rec) (hasCtx : Bool) (s : State) : (genRec r hasCtx s).fw = s.fw := genRec_only r hasCtx s .fw (by decide)
@[simp] theorem genRec_rx (r : Rec) (hasCtx : Bool) (s : State) : (genRec r hasCtx s).rx = s.rx := genRec_only r hasCtx s .rx (by decide)
@[simp] theorem genRec_pw (r : Rec) (hasCtx : Bool) (s : State) : (genRec r hasCtx s).pw = s.pw := genRec_only r hasCtx s .pw (by decide)
@[simp] theorem genRec_ck (r : Rec) (hasCtx : Bool) (s : State) : (genRec r hasCtx s).ck = s.ck := genRec_only r hasCtx s .ck (by decide)
@[simp] theorem genRec_pr (r : Rec) (hasCtx : Bool) (s : State) : (genRec r hasCtx s).pr = s.pr := genRec_only r hasCtx s .pr (by decide)
@[simp] theorem genTime_pending (kind d : Nat) (s : State) : (genTime kind d s).pending = s.pending := genTime_only kind d s .pending (by decide)
@[simp] theorem genTime_cyc (kind d : Nat) (s : State) : (genTime kind d s).cyc = s.cyc := genTime_only kind d s .cyc (by decide)
@[simp] theorem genTime_free (kind d : Nat) (s : State) : (genTime kind d s).free = s.free := genTime_only kind d s .free (by decide)
@[simp] theorem genTime_regs (kind d : Nat) (s : State) : (genTime kind d s).regs = s.regs := genTime_only kind d s .regs (by decide)
@[simp] theorem genTime_cnt (kind d : Nat) (s : State) : (genTime kind d s).cnt = s.cnt := genTime_only kind d s .cnt (by decide)
@[simp] theorem genTime_xc (kind d : Nat) (s : State) : (genTime kind d s).xc = s.xc := genTime_only kind d s .xc (by decide)
@[simp] theorem genTime_bus (kind d : Nat) (s : State) : (genTime kind d s).bus = s.bus := genTime_only kind d s .bus (by decide)
@[simp] theorem genTime_mem (kind d : Nat) (s : State) : (genTime kind d s).mem = s.mem := genTime_only kind d s .mem (by decide)
@[simp] theorem genTime_bank (kind d : Nat) (s : State) : (genTime kind d s).bank = s.bank := genTime_only kind d s .bank (by decide)
@[simp] theorem genTime_fr (kind d : Nat) (s : State) : (genTime kind d s).fr = s.fr := genTime_only kind d s .fr (by decide)
@[simp] theorem genTime_arb (kind d : Nat) (s : State) : (genTime kind d s).arb = s.arb := genTime_only kind d s .arb (by decide)
@[simp] theorem genTime_sq (kind d : Nat) (s : State) : (genTime kind d s).sq = s.sq := genTime_only kind d s .sq (by decide)
@[simp] theorem genTime_tb (kind d : Nat) (s : State) : (genTime kind d s).tb = s.tb := genTime_only kind d s .tb (by decide)
@[simp] theorem genTime_bl (kind d : Nat) (s : State) : (genTime kind d s).bl = s.bl := genTime_only kind d s .bl (by decide)
@[simp] theorem genTime_hd (kind d : Nat) (s : State) : (genTime kind d s).hd = s.hd := genTime_only kind d s .hd (by decide)
@[simp] theorem genTime_tm (kind d : Nat) (s : State) : (genTime kind d s).tm = s.tm := genTime_only kind d s .tm (by decide)
@[simp] theorem genTime_dbg (kind d : Nat) (s : State) : (genTime kind d s).dbg = s.dbg := genTime_only kind d s .dbg (by decide)
@[simp] theorem genTime_fw (kind d : Nat) (s : State) : (genTime kind d s).fw = s.fw := genTime_only kind d s .fw (by decide)
@[simp] theorem genTime_rx (kind d : Nat) (s : State) : (genTime kind d s).rx = s.rx := genTime_only kind d s .rx (by decide)
@[simp] theorem genTime_pw (kind d : Nat) (s : State) : (genTime kind d s).pw = s.pw := genTime_only kind d s .pw (by decide)
@[simp] theorem genTime_ck (kind d : Nat) (s : State) : (genTime kind d s).ck = s.ck := genTime_only kind d s .ck (by decide)
@[simp] theorem genTime_pr (kind d : Nat) (s : State) : (genTime kind d s).pr = s.pr := genTime_only kind d s .pr (by decide)
@[simp] theorem traceTrigger_pending (src cause : Nat) (s : State) : (traceTrigger src cause s).pending = s.pending := traceTrigger_only src cause s .pending (by decide)
@[simp] theorem traceTrigger_cyc (src cause : Nat) (s : State) : (traceTrigger src cause s).cyc = s.cyc := traceTrigger_only src cause s .cyc (by decide)
@[simp] theorem traceTrigger_free (src cause : Nat) (s : State) : (traceTrigger src cause s).free = s.free := traceTrigger_only src cause s .free (by decide)
@[simp] theorem traceTrigger_cnt (src cause : Nat) (s : State) : (traceTrigger src cause s).cnt = s.cnt := traceTrigger_only src cause s .cnt (by decide)
@[simp] theorem traceTrigger_xc (src cause : Nat) (s : State) : (traceTrigger src cause s).xc = s.xc := traceTrigger_only src cause s .xc (by decide)
@[simp] theorem traceTrigger_bus (src cause : Nat) (s : State) : (traceTrigger src cause s).bus = s.bus := traceTrigger_only src cause s .bus (by decide)
@[simp] theorem traceTrigger_mem (src cause : Nat) (s : State) : (traceTrigger src cause s).mem = s.mem := traceTrigger_only src cause s .mem (by decide)
@[simp] theorem traceTrigger_bank (src cause : Nat) (s : State) : (traceTrigger src cause s).bank = s.bank := traceTrigger_only src cause s .bank (by decide)
@[simp] theorem traceTrigger_fr (src cause : Nat) (s : State) : (traceTrigger src cause s).fr = s.fr := traceTrigger_only src cause s .fr (by decide)
@[simp] theorem traceTrigger_arb (src cause : Nat) (s : State) : (traceTrigger src cause s).arb = s.arb := traceTrigger_only src cause s .arb (by decide)
@[simp] theorem traceTrigger_sq (src cause : Nat) (s : State) : (traceTrigger src cause s).sq = s.sq := traceTrigger_only src cause s .sq (by decide)
@[simp] theorem traceTrigger_tb (src cause : Nat) (s : State) : (traceTrigger src cause s).tb = s.tb := traceTrigger_only src cause s .tb (by decide)
@[simp] theorem traceTrigger_bl (src cause : Nat) (s : State) : (traceTrigger src cause s).bl = s.bl := traceTrigger_only src cause s .bl (by decide)
@[simp] theorem traceTrigger_hd (src cause : Nat) (s : State) : (traceTrigger src cause s).hd = s.hd := traceTrigger_only src cause s .hd (by decide)
@[simp] theorem traceTrigger_tm (src cause : Nat) (s : State) : (traceTrigger src cause s).tm = s.tm := traceTrigger_only src cause s .tm (by decide)
@[simp] theorem traceTrigger_dbg (src cause : Nat) (s : State) : (traceTrigger src cause s).dbg = s.dbg := traceTrigger_only src cause s .dbg (by decide)
@[simp] theorem traceTrigger_fw (src cause : Nat) (s : State) : (traceTrigger src cause s).fw = s.fw := traceTrigger_only src cause s .fw (by decide)
@[simp] theorem traceTrigger_rx (src cause : Nat) (s : State) : (traceTrigger src cause s).rx = s.rx := traceTrigger_only src cause s .rx (by decide)
@[simp] theorem traceTrigger_pw (src cause : Nat) (s : State) : (traceTrigger src cause s).pw = s.pw := traceTrigger_only src cause s .pw (by decide)
@[simp] theorem traceTrigger_ck (src cause : Nat) (s : State) : (traceTrigger src cause s).ck = s.ck := traceTrigger_only src cause s .ck (by decide)
@[simp] theorem traceTrigger_pr (src cause : Nat) (s : State) : (traceTrigger src cause s).pr = s.pr := traceTrigger_only src cause s .pr (by decide)
@[simp] theorem raise_pending (n : Nat) (s : State) : (raise n s).pending = s.pending := raise_only n s .pending (by decide)
@[simp] theorem raise_cyc (n : Nat) (s : State) : (raise n s).cyc = s.cyc := raise_only n s .cyc (by decide)
@[simp] theorem raise_free (n : Nat) (s : State) : (raise n s).free = s.free := raise_only n s .free (by decide)
@[simp] theorem raise_cnt (n : Nat) (s : State) : (raise n s).cnt = s.cnt := raise_only n s .cnt (by decide)
@[simp] theorem raise_xc (n : Nat) (s : State) : (raise n s).xc = s.xc := raise_only n s .xc (by decide)
@[simp] theorem raise_bus (n : Nat) (s : State) : (raise n s).bus = s.bus := raise_only n s .bus (by decide)
@[simp] theorem raise_mem (n : Nat) (s : State) : (raise n s).mem = s.mem := raise_only n s .mem (by decide)
@[simp] theorem raise_bank (n : Nat) (s : State) : (raise n s).bank = s.bank := raise_only n s .bank (by decide)
@[simp] theorem raise_fr (n : Nat) (s : State) : (raise n s).fr = s.fr := raise_only n s .fr (by decide)
@[simp] theorem raise_arb (n : Nat) (s : State) : (raise n s).arb = s.arb := raise_only n s .arb (by decide)
@[simp] theorem raise_sq (n : Nat) (s : State) : (raise n s).sq = s.sq := raise_only n s .sq (by decide)
@[simp] theorem raise_tb (n : Nat) (s : State) : (raise n s).tb = s.tb := raise_only n s .tb (by decide)
@[simp] theorem raise_bl (n : Nat) (s : State) : (raise n s).bl = s.bl := raise_only n s .bl (by decide)
@[simp] theorem raise_hd (n : Nat) (s : State) : (raise n s).hd = s.hd := raise_only n s .hd (by decide)
@[simp] theorem raise_tm (n : Nat) (s : State) : (raise n s).tm = s.tm := raise_only n s .tm (by decide)
@[simp] theorem raise_fw (n : Nat) (s : State) : (raise n s).fw = s.fw := raise_only n s .fw (by decide)
@[simp] theorem raise_rx (n : Nat) (s : State) : (raise n s).rx = s.rx := raise_only n s .rx (by decide)
@[simp] theorem raise_pw (n : Nat) (s : State) : (raise n s).pw = s.pw := raise_only n s .pw (by decide)
@[simp] theorem raise_ck (n : Nat) (s : State) : (raise n s).ck = s.ck := raise_only n s .ck (by decide)
@[simp] theorem raise_pr (n : Nat) (s : State) : (raise n s).pr = s.pr := raise_only n s .pr (by decide)
@[simp] theorem fillLog_pending (o w0 w1 : Nat) (s : State) : (fillLog o w0 w1 s).pending = s.pending := fillLog_only o w0 w1 s .pending (by decide)
@[simp] theorem fillLog_cyc (o w0 w1 : Nat) (s : State) : (fillLog o w0 w1 s).cyc = s.cyc := fillLog_only o w0 w1 s .cyc (by decide)
@[simp] theorem fillLog_free (o w0 w1 : Nat) (s : State) : (fillLog o w0 w1 s).free = s.free := fillLog_only o w0 w1 s .free (by decide)
@[simp] theorem fillLog_cnt (o w0 w1 : Nat) (s : State) : (fillLog o w0 w1 s).cnt = s.cnt := fillLog_only o w0 w1 s .cnt (by decide)
@[simp] theorem fillLog_xc (o w0 w1 : Nat) (s : State) : (fillLog o w0 w1 s).xc = s.xc := fillLog_only o w0 w1 s .xc (by decide)
@[simp] theorem fillLog_bus (o w0 w1 : Nat) (s : State) : (fillLog o w0 w1 s).bus = s.bus := fillLog_only o w0 w1 s .bus (by decide)
@[simp] theorem fillLog_mem (o w0 w1 : Nat) (s : State) : (fillLog o w0 w1 s).mem = s.mem := fillLog_only o w0 w1 s .mem (by decide)
@[simp] theorem fillLog_bank (o w0 w1 : Nat) (s : State) : (fillLog o w0 w1 s).bank = s.bank := fillLog_only o w0 w1 s .bank (by decide)
@[simp] theorem fillLog_fr (o w0 w1 : Nat) (s : State) : (fillLog o w0 w1 s).fr = s.fr := fillLog_only o w0 w1 s .fr (by decide)
@[simp] theorem fillLog_arb (o w0 w1 : Nat) (s : State) : (fillLog o w0 w1 s).arb = s.arb := fillLog_only o w0 w1 s .arb (by decide)
@[simp] theorem fillLog_sq (o w0 w1 : Nat) (s : State) : (fillLog o w0 w1 s).sq = s.sq := fillLog_only o w0 w1 s .sq (by decide)
@[simp] theorem fillLog_tb (o w0 w1 : Nat) (s : State) : (fillLog o w0 w1 s).tb = s.tb := fillLog_only o w0 w1 s .tb (by decide)
@[simp] theorem fillLog_bl (o w0 w1 : Nat) (s : State) : (fillLog o w0 w1 s).bl = s.bl := fillLog_only o w0 w1 s .bl (by decide)
@[simp] theorem fillLog_hd (o w0 w1 : Nat) (s : State) : (fillLog o w0 w1 s).hd = s.hd := fillLog_only o w0 w1 s .hd (by decide)
@[simp] theorem fillLog_tm (o w0 w1 : Nat) (s : State) : (fillLog o w0 w1 s).tm = s.tm := fillLog_only o w0 w1 s .tm (by decide)
@[simp] theorem fillLog_tr (o w0 w1 : Nat) (s : State) : (fillLog o w0 w1 s).tr = s.tr := fillLog_only o w0 w1 s .tr (by decide)
@[simp] theorem fillLog_dbg (o w0 w1 : Nat) (s : State) : (fillLog o w0 w1 s).dbg = s.dbg := fillLog_only o w0 w1 s .dbg (by decide)
@[simp] theorem fillLog_fw (o w0 w1 : Nat) (s : State) : (fillLog o w0 w1 s).fw = s.fw := fillLog_only o w0 w1 s .fw (by decide)
@[simp] theorem fillLog_rx (o w0 w1 : Nat) (s : State) : (fillLog o w0 w1 s).rx = s.rx := fillLog_only o w0 w1 s .rx (by decide)
@[simp] theorem fillLog_pw (o w0 w1 : Nat) (s : State) : (fillLog o w0 w1 s).pw = s.pw := fillLog_only o w0 w1 s .pw (by decide)
@[simp] theorem fillLog_ck (o w0 w1 : Nat) (s : State) : (fillLog o w0 w1 s).ck = s.ck := fillLog_only o w0 w1 s .ck (by decide)
@[simp] theorem fillLog_pr (o w0 w1 : Nat) (s : State) : (fillLog o w0 w1 s).pr = s.pr := fillLog_only o w0 w1 s .pr (by decide)
@[simp] theorem fillLog1_pending (o w0 : Nat) (s : State) : (fillLog1 o w0 s).pending = s.pending := fillLog1_only o w0 s .pending (by decide)
@[simp] theorem fillLog1_cyc (o w0 : Nat) (s : State) : (fillLog1 o w0 s).cyc = s.cyc := fillLog1_only o w0 s .cyc (by decide)
@[simp] theorem fillLog1_free (o w0 : Nat) (s : State) : (fillLog1 o w0 s).free = s.free := fillLog1_only o w0 s .free (by decide)
@[simp] theorem fillLog1_cnt (o w0 : Nat) (s : State) : (fillLog1 o w0 s).cnt = s.cnt := fillLog1_only o w0 s .cnt (by decide)
@[simp] theorem fillLog1_xc (o w0 : Nat) (s : State) : (fillLog1 o w0 s).xc = s.xc := fillLog1_only o w0 s .xc (by decide)
@[simp] theorem fillLog1_bus (o w0 : Nat) (s : State) : (fillLog1 o w0 s).bus = s.bus := fillLog1_only o w0 s .bus (by decide)
@[simp] theorem fillLog1_mem (o w0 : Nat) (s : State) : (fillLog1 o w0 s).mem = s.mem := fillLog1_only o w0 s .mem (by decide)
@[simp] theorem fillLog1_bank (o w0 : Nat) (s : State) : (fillLog1 o w0 s).bank = s.bank := fillLog1_only o w0 s .bank (by decide)
@[simp] theorem fillLog1_fr (o w0 : Nat) (s : State) : (fillLog1 o w0 s).fr = s.fr := fillLog1_only o w0 s .fr (by decide)
@[simp] theorem fillLog1_arb (o w0 : Nat) (s : State) : (fillLog1 o w0 s).arb = s.arb := fillLog1_only o w0 s .arb (by decide)
@[simp] theorem fillLog1_sq (o w0 : Nat) (s : State) : (fillLog1 o w0 s).sq = s.sq := fillLog1_only o w0 s .sq (by decide)
@[simp] theorem fillLog1_tb (o w0 : Nat) (s : State) : (fillLog1 o w0 s).tb = s.tb := fillLog1_only o w0 s .tb (by decide)
@[simp] theorem fillLog1_bl (o w0 : Nat) (s : State) : (fillLog1 o w0 s).bl = s.bl := fillLog1_only o w0 s .bl (by decide)
@[simp] theorem fillLog1_hd (o w0 : Nat) (s : State) : (fillLog1 o w0 s).hd = s.hd := fillLog1_only o w0 s .hd (by decide)
@[simp] theorem fillLog1_tm (o w0 : Nat) (s : State) : (fillLog1 o w0 s).tm = s.tm := fillLog1_only o w0 s .tm (by decide)
@[simp] theorem fillLog1_tr (o w0 : Nat) (s : State) : (fillLog1 o w0 s).tr = s.tr := fillLog1_only o w0 s .tr (by decide)
@[simp] theorem fillLog1_dbg (o w0 : Nat) (s : State) : (fillLog1 o w0 s).dbg = s.dbg := fillLog1_only o w0 s .dbg (by decide)
@[simp] theorem fillLog1_fw (o w0 : Nat) (s : State) : (fillLog1 o w0 s).fw = s.fw := fillLog1_only o w0 s .fw (by decide)
@[simp] theorem fillLog1_rx (o w0 : Nat) (s : State) : (fillLog1 o w0 s).rx = s.rx := fillLog1_only o w0 s .rx (by decide)
@[simp] theorem fillLog1_pw (o w0 : Nat) (s : State) : (fillLog1 o w0 s).pw = s.pw := fillLog1_only o w0 s .pw (by decide)
@[simp] theorem fillLog1_ck (o w0 : Nat) (s : State) : (fillLog1 o w0 s).ck = s.ck := fillLog1_only o w0 s .ck (by decide)
@[simp] theorem fillLog1_pr (o w0 : Nat) (s : State) : (fillLog1 o w0 s).pr = s.pr := fillLog1_only o w0 s .pr (by decide)
@[simp] theorem estimate_pending (k n : Nat) (s : State) : (estimate k n s).pending = s.pending := estimate_only k n s .pending (by decide)
@[simp] theorem estimate_cyc (k n : Nat) (s : State) : (estimate k n s).cyc = s.cyc := estimate_only k n s .cyc (by decide)
@[simp] theorem estimate_free (k n : Nat) (s : State) : (estimate k n s).free = s.free := estimate_only k n s .free (by decide)
@[simp] theorem estimate_regs (k n : Nat) (s : State) : (estimate k n s).regs = s.regs := estimate_only k n s .regs (by decide)
@[simp] theorem estimate_cnt (k n : Nat) (s : State) : (estimate k n s).cnt = s.cnt := estimate_only k n s .cnt (by decide)
@[simp] theorem estimate_xc (k n : Nat) (s : State) : (estimate k n s).xc = s.xc := estimate_only k n s .xc (by decide)
@[simp] theorem estimate_bus (k n : Nat) (s : State) : (estimate k n s).bus = s.bus := estimate_only k n s .bus (by decide)
@[simp] theorem estimate_mem (k n : Nat) (s : State) : (estimate k n s).mem = s.mem := estimate_only k n s .mem (by decide)
@[simp] theorem estimate_bank (k n : Nat) (s : State) : (estimate k n s).bank = s.bank := estimate_only k n s .bank (by decide)
@[simp] theorem estimate_fr (k n : Nat) (s : State) : (estimate k n s).fr = s.fr := estimate_only k n s .fr (by decide)
@[simp] theorem estimate_arb (k n : Nat) (s : State) : (estimate k n s).arb = s.arb := estimate_only k n s .arb (by decide)
@[simp] theorem estimate_sq (k n : Nat) (s : State) : (estimate k n s).sq = s.sq := estimate_only k n s .sq (by decide)
@[simp] theorem estimate_tb (k n : Nat) (s : State) : (estimate k n s).tb = s.tb := estimate_only k n s .tb (by decide)
@[simp] theorem estimate_bl (k n : Nat) (s : State) : (estimate k n s).bl = s.bl := estimate_only k n s .bl (by decide)
@[simp] theorem estimate_hd (k n : Nat) (s : State) : (estimate k n s).hd = s.hd := estimate_only k n s .hd (by decide)
@[simp] theorem estimate_tm (k n : Nat) (s : State) : (estimate k n s).tm = s.tm := estimate_only k n s .tm (by decide)
@[simp] theorem estimate_tr (k n : Nat) (s : State) : (estimate k n s).tr = s.tr := estimate_only k n s .tr (by decide)
@[simp] theorem estimate_dbg (k n : Nat) (s : State) : (estimate k n s).dbg = s.dbg := estimate_only k n s .dbg (by decide)
@[simp] theorem estimate_fw (k n : Nat) (s : State) : (estimate k n s).fw = s.fw := estimate_only k n s .fw (by decide)
@[simp] theorem estimate_rx (k n : Nat) (s : State) : (estimate k n s).rx = s.rx := estimate_only k n s .rx (by decide)
@[simp] theorem estimate_ck (k n : Nat) (s : State) : (estimate k n s).ck = s.ck := estimate_only k n s .ck (by decide)
@[simp] theorem estimate_pr (k n : Nat) (s : State) : (estimate k n s).pr = s.pr := estimate_only k n s .pr (by decide)
@[simp] theorem respond_pending (d : Word) (err : Bool) (s : State) : (respond d err s).pending = s.pending := respond_only d err s .pending (by decide)
@[simp] theorem respond_cyc (d : Word) (err : Bool) (s : State) : (respond d err s).cyc = s.cyc := respond_only d err s .cyc (by decide)
@[simp] theorem respond_free (d : Word) (err : Bool) (s : State) : (respond d err s).free = s.free := respond_only d err s .free (by decide)
@[simp] theorem respond_regs (d : Word) (err : Bool) (s : State) : (respond d err s).regs = s.regs := respond_only d err s .regs (by decide)
@[simp] theorem respond_cnt (d : Word) (err : Bool) (s : State) : (respond d err s).cnt = s.cnt := respond_only d err s .cnt (by decide)
@[simp] theorem respond_xc (d : Word) (err : Bool) (s : State) : (respond d err s).xc = s.xc := respond_only d err s .xc (by decide)
@[simp] theorem respond_mem (d : Word) (err : Bool) (s : State) : (respond d err s).mem = s.mem := respond_only d err s .mem (by decide)
@[simp] theorem respond_bank (d : Word) (err : Bool) (s : State) : (respond d err s).bank = s.bank := respond_only d err s .bank (by decide)
@[simp] theorem respond_fr (d : Word) (err : Bool) (s : State) : (respond d err s).fr = s.fr := respond_only d err s .fr (by decide)
@[simp] theorem respond_arb (d : Word) (err : Bool) (s : State) : (respond d err s).arb = s.arb := respond_only d err s .arb (by decide)
@[simp] theorem respond_sq (d : Word) (err : Bool) (s : State) : (respond d err s).sq = s.sq := respond_only d err s .sq (by decide)
@[simp] theorem respond_tb (d : Word) (err : Bool) (s : State) : (respond d err s).tb = s.tb := respond_only d err s .tb (by decide)
@[simp] theorem respond_bl (d : Word) (err : Bool) (s : State) : (respond d err s).bl = s.bl := respond_only d err s .bl (by decide)
@[simp] theorem respond_hd (d : Word) (err : Bool) (s : State) : (respond d err s).hd = s.hd := respond_only d err s .hd (by decide)
@[simp] theorem respond_tm (d : Word) (err : Bool) (s : State) : (respond d err s).tm = s.tm := respond_only d err s .tm (by decide)
@[simp] theorem respond_tr (d : Word) (err : Bool) (s : State) : (respond d err s).tr = s.tr := respond_only d err s .tr (by decide)
@[simp] theorem respond_dbg (d : Word) (err : Bool) (s : State) : (respond d err s).dbg = s.dbg := respond_only d err s .dbg (by decide)
@[simp] theorem respond_fw (d : Word) (err : Bool) (s : State) : (respond d err s).fw = s.fw := respond_only d err s .fw (by decide)
@[simp] theorem respond_rx (d : Word) (err : Bool) (s : State) : (respond d err s).rx = s.rx := respond_only d err s .rx (by decide)
@[simp] theorem respond_pw (d : Word) (err : Bool) (s : State) : (respond d err s).pw = s.pw := respond_only d err s .pw (by decide)
@[simp] theorem respond_ck (d : Word) (err : Bool) (s : State) : (respond d err s).ck = s.ck := respond_only d err s .ck (by decide)
@[simp] theorem respond_pr (d : Word) (err : Bool) (s : State) : (respond d err s).pr = s.pr := respond_only d err s .pr (by decide)
@[simp] theorem refuse_pending (a : BusAcc) (wr : Bool) (o : Nat) (s : State) : (refuse a wr o s).pending = s.pending := refuse_only a wr o s .pending (by decide)
@[simp] theorem refuse_cyc (a : BusAcc) (wr : Bool) (o : Nat) (s : State) : (refuse a wr o s).cyc = s.cyc := refuse_only a wr o s .cyc (by decide)
@[simp] theorem refuse_free (a : BusAcc) (wr : Bool) (o : Nat) (s : State) : (refuse a wr o s).free = s.free := refuse_only a wr o s .free (by decide)
@[simp] theorem refuse_xc (a : BusAcc) (wr : Bool) (o : Nat) (s : State) : (refuse a wr o s).xc = s.xc := refuse_only a wr o s .xc (by decide)
@[simp] theorem refuse_mem (a : BusAcc) (wr : Bool) (o : Nat) (s : State) : (refuse a wr o s).mem = s.mem := refuse_only a wr o s .mem (by decide)
@[simp] theorem refuse_bank (a : BusAcc) (wr : Bool) (o : Nat) (s : State) : (refuse a wr o s).bank = s.bank := refuse_only a wr o s .bank (by decide)
@[simp] theorem refuse_fr (a : BusAcc) (wr : Bool) (o : Nat) (s : State) : (refuse a wr o s).fr = s.fr := refuse_only a wr o s .fr (by decide)
@[simp] theorem refuse_arb (a : BusAcc) (wr : Bool) (o : Nat) (s : State) : (refuse a wr o s).arb = s.arb := refuse_only a wr o s .arb (by decide)
@[simp] theorem refuse_sq (a : BusAcc) (wr : Bool) (o : Nat) (s : State) : (refuse a wr o s).sq = s.sq := refuse_only a wr o s .sq (by decide)
@[simp] theorem refuse_tb (a : BusAcc) (wr : Bool) (o : Nat) (s : State) : (refuse a wr o s).tb = s.tb := refuse_only a wr o s .tb (by decide)
@[simp] theorem refuse_bl (a : BusAcc) (wr : Bool) (o : Nat) (s : State) : (refuse a wr o s).bl = s.bl := refuse_only a wr o s .bl (by decide)
@[simp] theorem refuse_hd (a : BusAcc) (wr : Bool) (o : Nat) (s : State) : (refuse a wr o s).hd = s.hd := refuse_only a wr o s .hd (by decide)
@[simp] theorem refuse_tm (a : BusAcc) (wr : Bool) (o : Nat) (s : State) : (refuse a wr o s).tm = s.tm := refuse_only a wr o s .tm (by decide)
@[simp] theorem refuse_fw (a : BusAcc) (wr : Bool) (o : Nat) (s : State) : (refuse a wr o s).fw = s.fw := refuse_only a wr o s .fw (by decide)
@[simp] theorem refuse_rx (a : BusAcc) (wr : Bool) (o : Nat) (s : State) : (refuse a wr o s).rx = s.rx := refuse_only a wr o s .rx (by decide)
@[simp] theorem refuse_pw (a : BusAcc) (wr : Bool) (o : Nat) (s : State) : (refuse a wr o s).pw = s.pw := refuse_only a wr o s .pw (by decide)
@[simp] theorem refuse_ck (a : BusAcc) (wr : Bool) (o : Nat) (s : State) : (refuse a wr o s).ck = s.ck := refuse_only a wr o s .ck (by decide)
@[simp] theorem refuse_pr (a : BusAcc) (wr : Bool) (o : Nat) (s : State) : (refuse a wr o s).pr = s.pr := refuse_only a wr o s .pr (by decide)
@[simp] theorem updQueue_pending (q : Nat) (f : SlipQ → SlipQ) (s : State) : (updQueue q f s).pending = s.pending := updQueue_only q f s .pending (by decide)
@[simp] theorem updQueue_cyc (q : Nat) (f : SlipQ → SlipQ) (s : State) : (updQueue q f s).cyc = s.cyc := updQueue_only q f s .cyc (by decide)
@[simp] theorem updQueue_free (q : Nat) (f : SlipQ → SlipQ) (s : State) : (updQueue q f s).free = s.free := updQueue_only q f s .free (by decide)
@[simp] theorem updQueue_regs (q : Nat) (f : SlipQ → SlipQ) (s : State) : (updQueue q f s).regs = s.regs := updQueue_only q f s .regs (by decide)
@[simp] theorem updQueue_cnt (q : Nat) (f : SlipQ → SlipQ) (s : State) : (updQueue q f s).cnt = s.cnt := updQueue_only q f s .cnt (by decide)
@[simp] theorem updQueue_xc (q : Nat) (f : SlipQ → SlipQ) (s : State) : (updQueue q f s).xc = s.xc := updQueue_only q f s .xc (by decide)
@[simp] theorem updQueue_bus (q : Nat) (f : SlipQ → SlipQ) (s : State) : (updQueue q f s).bus = s.bus := updQueue_only q f s .bus (by decide)
@[simp] theorem updQueue_mem (q : Nat) (f : SlipQ → SlipQ) (s : State) : (updQueue q f s).mem = s.mem := updQueue_only q f s .mem (by decide)
@[simp] theorem updQueue_bank (q : Nat) (f : SlipQ → SlipQ) (s : State) : (updQueue q f s).bank = s.bank := updQueue_only q f s .bank (by decide)
@[simp] theorem updQueue_fr (q : Nat) (f : SlipQ → SlipQ) (s : State) : (updQueue q f s).fr = s.fr := updQueue_only q f s .fr (by decide)
@[simp] theorem updQueue_arb (q : Nat) (f : SlipQ → SlipQ) (s : State) : (updQueue q f s).arb = s.arb := updQueue_only q f s .arb (by decide)
@[simp] theorem updQueue_tb (q : Nat) (f : SlipQ → SlipQ) (s : State) : (updQueue q f s).tb = s.tb := updQueue_only q f s .tb (by decide)
@[simp] theorem updQueue_bl (q : Nat) (f : SlipQ → SlipQ) (s : State) : (updQueue q f s).bl = s.bl := updQueue_only q f s .bl (by decide)
@[simp] theorem updQueue_hd (q : Nat) (f : SlipQ → SlipQ) (s : State) : (updQueue q f s).hd = s.hd := updQueue_only q f s .hd (by decide)
@[simp] theorem updQueue_tm (q : Nat) (f : SlipQ → SlipQ) (s : State) : (updQueue q f s).tm = s.tm := updQueue_only q f s .tm (by decide)
@[simp] theorem updQueue_tr (q : Nat) (f : SlipQ → SlipQ) (s : State) : (updQueue q f s).tr = s.tr := updQueue_only q f s .tr (by decide)
@[simp] theorem updQueue_dbg (q : Nat) (f : SlipQ → SlipQ) (s : State) : (updQueue q f s).dbg = s.dbg := updQueue_only q f s .dbg (by decide)
@[simp] theorem updQueue_fw (q : Nat) (f : SlipQ → SlipQ) (s : State) : (updQueue q f s).fw = s.fw := updQueue_only q f s .fw (by decide)
@[simp] theorem updQueue_rx (q : Nat) (f : SlipQ → SlipQ) (s : State) : (updQueue q f s).rx = s.rx := updQueue_only q f s .rx (by decide)
@[simp] theorem updQueue_pw (q : Nat) (f : SlipQ → SlipQ) (s : State) : (updQueue q f s).pw = s.pw := updQueue_only q f s .pw (by decide)
@[simp] theorem updQueue_ck (q : Nat) (f : SlipQ → SlipQ) (s : State) : (updQueue q f s).ck = s.ck := updQueue_only q f s .ck (by decide)
@[simp] theorem updQueue_pr (q : Nat) (f : SlipQ → SlipQ) (s : State) : (updQueue q f s).pr = s.pr := updQueue_only q f s .pr (by decide)
@[simp] theorem updSlip_pending (sid : Nat) (f : Slip → Slip) (s : State) : (updSlip sid f s).pending = s.pending := updSlip_only sid f s .pending (by decide)
@[simp] theorem updSlip_cyc (sid : Nat) (f : Slip → Slip) (s : State) : (updSlip sid f s).cyc = s.cyc := updSlip_only sid f s .cyc (by decide)
@[simp] theorem updSlip_free (sid : Nat) (f : Slip → Slip) (s : State) : (updSlip sid f s).free = s.free := updSlip_only sid f s .free (by decide)
@[simp] theorem updSlip_regs (sid : Nat) (f : Slip → Slip) (s : State) : (updSlip sid f s).regs = s.regs := updSlip_only sid f s .regs (by decide)
@[simp] theorem updSlip_cnt (sid : Nat) (f : Slip → Slip) (s : State) : (updSlip sid f s).cnt = s.cnt := updSlip_only sid f s .cnt (by decide)
@[simp] theorem updSlip_xc (sid : Nat) (f : Slip → Slip) (s : State) : (updSlip sid f s).xc = s.xc := updSlip_only sid f s .xc (by decide)
@[simp] theorem updSlip_bus (sid : Nat) (f : Slip → Slip) (s : State) : (updSlip sid f s).bus = s.bus := updSlip_only sid f s .bus (by decide)
@[simp] theorem updSlip_mem (sid : Nat) (f : Slip → Slip) (s : State) : (updSlip sid f s).mem = s.mem := updSlip_only sid f s .mem (by decide)
@[simp] theorem updSlip_bank (sid : Nat) (f : Slip → Slip) (s : State) : (updSlip sid f s).bank = s.bank := updSlip_only sid f s .bank (by decide)
@[simp] theorem updSlip_fr (sid : Nat) (f : Slip → Slip) (s : State) : (updSlip sid f s).fr = s.fr := updSlip_only sid f s .fr (by decide)
@[simp] theorem updSlip_arb (sid : Nat) (f : Slip → Slip) (s : State) : (updSlip sid f s).arb = s.arb := updSlip_only sid f s .arb (by decide)
@[simp] theorem updSlip_tb (sid : Nat) (f : Slip → Slip) (s : State) : (updSlip sid f s).tb = s.tb := updSlip_only sid f s .tb (by decide)
@[simp] theorem updSlip_bl (sid : Nat) (f : Slip → Slip) (s : State) : (updSlip sid f s).bl = s.bl := updSlip_only sid f s .bl (by decide)
@[simp] theorem updSlip_hd (sid : Nat) (f : Slip → Slip) (s : State) : (updSlip sid f s).hd = s.hd := updSlip_only sid f s .hd (by decide)
@[simp] theorem updSlip_tm (sid : Nat) (f : Slip → Slip) (s : State) : (updSlip sid f s).tm = s.tm := updSlip_only sid f s .tm (by decide)
@[simp] theorem updSlip_tr (sid : Nat) (f : Slip → Slip) (s : State) : (updSlip sid f s).tr = s.tr := updSlip_only sid f s .tr (by decide)
@[simp] theorem updSlip_dbg (sid : Nat) (f : Slip → Slip) (s : State) : (updSlip sid f s).dbg = s.dbg := updSlip_only sid f s .dbg (by decide)
@[simp] theorem updSlip_fw (sid : Nat) (f : Slip → Slip) (s : State) : (updSlip sid f s).fw = s.fw := updSlip_only sid f s .fw (by decide)
@[simp] theorem updSlip_rx (sid : Nat) (f : Slip → Slip) (s : State) : (updSlip sid f s).rx = s.rx := updSlip_only sid f s .rx (by decide)
@[simp] theorem updSlip_pw (sid : Nat) (f : Slip → Slip) (s : State) : (updSlip sid f s).pw = s.pw := updSlip_only sid f s .pw (by decide)
@[simp] theorem updSlip_ck (sid : Nat) (f : Slip → Slip) (s : State) : (updSlip sid f s).ck = s.ck := updSlip_only sid f s .ck (by decide)
@[simp] theorem updSlip_pr (sid : Nat) (f : Slip → Slip) (s : State) : (updSlip sid f s).pr = s.pr := updSlip_only sid f s .pr (by decide)
@[simp] theorem updRlane_pending (l : Nat) (f : RLane → RLane) (s : State) : (updRlane l f s).pending = s.pending := updRlane_only l f s .pending (by decide)
@[simp] theorem updRlane_cyc (l : Nat) (f : RLane → RLane) (s : State) : (updRlane l f s).cyc = s.cyc := updRlane_only l f s .cyc (by decide)
@[simp] theorem updRlane_free (l : Nat) (f : RLane → RLane) (s : State) : (updRlane l f s).free = s.free := updRlane_only l f s .free (by decide)
@[simp] theorem updRlane_regs (l : Nat) (f : RLane → RLane) (s : State) : (updRlane l f s).regs = s.regs := updRlane_only l f s .regs (by decide)
@[simp] theorem updRlane_cnt (l : Nat) (f : RLane → RLane) (s : State) : (updRlane l f s).cnt = s.cnt := updRlane_only l f s .cnt (by decide)
@[simp] theorem updRlane_xc (l : Nat) (f : RLane → RLane) (s : State) : (updRlane l f s).xc = s.xc := updRlane_only l f s .xc (by decide)
@[simp] theorem updRlane_bus (l : Nat) (f : RLane → RLane) (s : State) : (updRlane l f s).bus = s.bus := updRlane_only l f s .bus (by decide)
@[simp] theorem updRlane_mem (l : Nat) (f : RLane → RLane) (s : State) : (updRlane l f s).mem = s.mem := updRlane_only l f s .mem (by decide)
@[simp] theorem updRlane_bank (l : Nat) (f : RLane → RLane) (s : State) : (updRlane l f s).bank = s.bank := updRlane_only l f s .bank (by decide)
@[simp] theorem updRlane_arb (l : Nat) (f : RLane → RLane) (s : State) : (updRlane l f s).arb = s.arb := updRlane_only l f s .arb (by decide)
@[simp] theorem updRlane_sq (l : Nat) (f : RLane → RLane) (s : State) : (updRlane l f s).sq = s.sq := updRlane_only l f s .sq (by decide)
@[simp] theorem updRlane_tb (l : Nat) (f : RLane → RLane) (s : State) : (updRlane l f s).tb = s.tb := updRlane_only l f s .tb (by decide)
@[simp] theorem updRlane_bl (l : Nat) (f : RLane → RLane) (s : State) : (updRlane l f s).bl = s.bl := updRlane_only l f s .bl (by decide)
@[simp] theorem updRlane_hd (l : Nat) (f : RLane → RLane) (s : State) : (updRlane l f s).hd = s.hd := updRlane_only l f s .hd (by decide)
@[simp] theorem updRlane_tm (l : Nat) (f : RLane → RLane) (s : State) : (updRlane l f s).tm = s.tm := updRlane_only l f s .tm (by decide)
@[simp] theorem updRlane_tr (l : Nat) (f : RLane → RLane) (s : State) : (updRlane l f s).tr = s.tr := updRlane_only l f s .tr (by decide)
@[simp] theorem updRlane_dbg (l : Nat) (f : RLane → RLane) (s : State) : (updRlane l f s).dbg = s.dbg := updRlane_only l f s .dbg (by decide)
@[simp] theorem updRlane_fw (l : Nat) (f : RLane → RLane) (s : State) : (updRlane l f s).fw = s.fw := updRlane_only l f s .fw (by decide)
@[simp] theorem updRlane_rx (l : Nat) (f : RLane → RLane) (s : State) : (updRlane l f s).rx = s.rx := updRlane_only l f s .rx (by decide)
@[simp] theorem updRlane_pw (l : Nat) (f : RLane → RLane) (s : State) : (updRlane l f s).pw = s.pw := updRlane_only l f s .pw (by decide)
@[simp] theorem updRlane_ck (l : Nat) (f : RLane → RLane) (s : State) : (updRlane l f s).ck = s.ck := updRlane_only l f s .ck (by decide)
@[simp] theorem updRlane_pr (l : Nat) (f : RLane → RLane) (s : State) : (updRlane l f s).pr = s.pr := updRlane_only l f s .pr (by decide)
@[simp] theorem updWlane_pending (l : Nat) (f : WLane → WLane) (s : State) : (updWlane l f s).pending = s.pending := updWlane_only l f s .pending (by decide)
@[simp] theorem updWlane_cyc (l : Nat) (f : WLane → WLane) (s : State) : (updWlane l f s).cyc = s.cyc := updWlane_only l f s .cyc (by decide)
@[simp] theorem updWlane_free (l : Nat) (f : WLane → WLane) (s : State) : (updWlane l f s).free = s.free := updWlane_only l f s .free (by decide)
@[simp] theorem updWlane_regs (l : Nat) (f : WLane → WLane) (s : State) : (updWlane l f s).regs = s.regs := updWlane_only l f s .regs (by decide)
@[simp] theorem updWlane_cnt (l : Nat) (f : WLane → WLane) (s : State) : (updWlane l f s).cnt = s.cnt := updWlane_only l f s .cnt (by decide)
@[simp] theorem updWlane_xc (l : Nat) (f : WLane → WLane) (s : State) : (updWlane l f s).xc = s.xc := updWlane_only l f s .xc (by decide)
@[simp] theorem updWlane_bus (l : Nat) (f : WLane → WLane) (s : State) : (updWlane l f s).bus = s.bus := updWlane_only l f s .bus (by decide)
@[simp] theorem updWlane_mem (l : Nat) (f : WLane → WLane) (s : State) : (updWlane l f s).mem = s.mem := updWlane_only l f s .mem (by decide)
@[simp] theorem updWlane_bank (l : Nat) (f : WLane → WLane) (s : State) : (updWlane l f s).bank = s.bank := updWlane_only l f s .bank (by decide)
@[simp] theorem updWlane_arb (l : Nat) (f : WLane → WLane) (s : State) : (updWlane l f s).arb = s.arb := updWlane_only l f s .arb (by decide)
@[simp] theorem updWlane_sq (l : Nat) (f : WLane → WLane) (s : State) : (updWlane l f s).sq = s.sq := updWlane_only l f s .sq (by decide)
@[simp] theorem updWlane_tb (l : Nat) (f : WLane → WLane) (s : State) : (updWlane l f s).tb = s.tb := updWlane_only l f s .tb (by decide)
@[simp] theorem updWlane_bl (l : Nat) (f : WLane → WLane) (s : State) : (updWlane l f s).bl = s.bl := updWlane_only l f s .bl (by decide)
@[simp] theorem updWlane_hd (l : Nat) (f : WLane → WLane) (s : State) : (updWlane l f s).hd = s.hd := updWlane_only l f s .hd (by decide)
@[simp] theorem updWlane_tm (l : Nat) (f : WLane → WLane) (s : State) : (updWlane l f s).tm = s.tm := updWlane_only l f s .tm (by decide)
@[simp] theorem updWlane_tr (l : Nat) (f : WLane → WLane) (s : State) : (updWlane l f s).tr = s.tr := updWlane_only l f s .tr (by decide)
@[simp] theorem updWlane_dbg (l : Nat) (f : WLane → WLane) (s : State) : (updWlane l f s).dbg = s.dbg := updWlane_only l f s .dbg (by decide)
@[simp] theorem updWlane_fw (l : Nat) (f : WLane → WLane) (s : State) : (updWlane l f s).fw = s.fw := updWlane_only l f s .fw (by decide)
@[simp] theorem updWlane_rx (l : Nat) (f : WLane → WLane) (s : State) : (updWlane l f s).rx = s.rx := updWlane_only l f s .rx (by decide)
@[simp] theorem updWlane_pw (l : Nat) (f : WLane → WLane) (s : State) : (updWlane l f s).pw = s.pw := updWlane_only l f s .pw (by decide)
@[simp] theorem updWlane_ck (l : Nat) (f : WLane → WLane) (s : State) : (updWlane l f s).ck = s.ck := updWlane_only l f s .ck (by decide)
@[simp] theorem updWlane_pr (l : Nat) (f : WLane → WLane) (s : State) : (updWlane l f s).pr = s.pr := updWlane_only l f s .pr (by decide)
@[simp] theorem setRlane_pending (l : Nat) (x : RLane) (s : State) : (setRlane l x s).pending = s.pending := setRlane_only l x s .pending (by decide)
@[simp] theorem setRlane_cyc (l : Nat) (x : RLane) (s : State) : (setRlane l x s).cyc = s.cyc := setRlane_only l x s .cyc (by decide)
@[simp] theorem setRlane_free (l : Nat) (x : RLane) (s : State) : (setRlane l x s).free = s.free := setRlane_only l x s .free (by decide)
@[simp] theorem setRlane_regs (l : Nat) (x : RLane) (s : State) : (setRlane l x s).regs = s.regs := setRlane_only l x s .regs (by decide)
@[simp] theorem setRlane_cnt (l : Nat) (x : RLane) (s : State) : (setRlane l x s).cnt = s.cnt := setRlane_only l x s .cnt (by decide)
@[simp] theorem setRlane_xc (l : Nat) (x : RLane) (s : State) : (setRlane l x s).xc = s.xc := setRlane_only l x s .xc (by decide)
@[simp] theorem setRlane_bus (l : Nat) (x : RLane) (s : State) : (setRlane l x s).bus = s.bus := setRlane_only l x s .bus (by decide)
@[simp] theorem setRlane_mem (l : Nat) (x : RLane) (s : State) : (setRlane l x s).mem = s.mem := setRlane_only l x s .mem (by decide)
@[simp] theorem setRlane_bank (l : Nat) (x : RLane) (s : State) : (setRlane l x s).bank = s.bank := setRlane_only l x s .bank (by decide)
@[simp] theorem setRlane_arb (l : Nat) (x : RLane) (s : State) : (setRlane l x s).arb = s.arb := setRlane_only l x s .arb (by decide)
@[simp] theorem setRlane_sq (l : Nat) (x : RLane) (s : State) : (setRlane l x s).sq = s.sq := setRlane_only l x s .sq (by decide)
@[simp] theorem setRlane_tb (l : Nat) (x : RLane) (s : State) : (setRlane l x s).tb = s.tb := setRlane_only l x s .tb (by decide)
@[simp] theorem setRlane_bl (l : Nat) (x : RLane) (s : State) : (setRlane l x s).bl = s.bl := setRlane_only l x s .bl (by decide)
@[simp] theorem setRlane_hd (l : Nat) (x : RLane) (s : State) : (setRlane l x s).hd = s.hd := setRlane_only l x s .hd (by decide)
@[simp] theorem setRlane_tm (l : Nat) (x : RLane) (s : State) : (setRlane l x s).tm = s.tm := setRlane_only l x s .tm (by decide)
@[simp] theorem setRlane_tr (l : Nat) (x : RLane) (s : State) : (setRlane l x s).tr = s.tr := setRlane_only l x s .tr (by decide)
@[simp] theorem setRlane_dbg (l : Nat) (x : RLane) (s : State) : (setRlane l x s).dbg = s.dbg := setRlane_only l x s .dbg (by decide)
@[simp] theorem setRlane_fw (l : Nat) (x : RLane) (s : State) : (setRlane l x s).fw = s.fw := setRlane_only l x s .fw (by decide)
@[simp] theorem setRlane_rx (l : Nat) (x : RLane) (s : State) : (setRlane l x s).rx = s.rx := setRlane_only l x s .rx (by decide)
@[simp] theorem setRlane_pw (l : Nat) (x : RLane) (s : State) : (setRlane l x s).pw = s.pw := setRlane_only l x s .pw (by decide)
@[simp] theorem setRlane_ck (l : Nat) (x : RLane) (s : State) : (setRlane l x s).ck = s.ck := setRlane_only l x s .ck (by decide)
@[simp] theorem setRlane_pr (l : Nat) (x : RLane) (s : State) : (setRlane l x s).pr = s.pr := setRlane_only l x s .pr (by decide)
@[simp] theorem setWlane_pending (l : Nat) (x : WLane) (s : State) : (setWlane l x s).pending = s.pending := setWlane_only l x s .pending (by decide)
@[simp] theorem setWlane_cyc (l : Nat) (x : WLane) (s : State) : (setWlane l x s).cyc = s.cyc := setWlane_only l x s .cyc (by decide)
@[simp] theorem setWlane_free (l : Nat) (x : WLane) (s : State) : (setWlane l x s).free = s.free := setWlane_only l x s .free (by decide)
@[simp] theorem setWlane_regs (l : Nat) (x : WLane) (s : State) : (setWlane l x s).regs = s.regs := setWlane_only l x s .regs (by decide)
@[simp] theorem setWlane_cnt (l : Nat) (x : WLane) (s : State) : (setWlane l x s).cnt = s.cnt := setWlane_only l x s .cnt (by decide)
@[simp] theorem setWlane_xc (l : Nat) (x : WLane) (s : State) : (setWlane l x s).xc = s.xc := setWlane_only l x s .xc (by decide)
@[simp] theorem setWlane_bus (l : Nat) (x : WLane) (s : State) : (setWlane l x s).bus = s.bus := setWlane_only l x s .bus (by decide)
@[simp] theorem setWlane_mem (l : Nat) (x : WLane) (s : State) : (setWlane l x s).mem = s.mem := setWlane_only l x s .mem (by decide)
@[simp] theorem setWlane_bank (l : Nat) (x : WLane) (s : State) : (setWlane l x s).bank = s.bank := setWlane_only l x s .bank (by decide)
@[simp] theorem setWlane_arb (l : Nat) (x : WLane) (s : State) : (setWlane l x s).arb = s.arb := setWlane_only l x s .arb (by decide)
@[simp] theorem setWlane_sq (l : Nat) (x : WLane) (s : State) : (setWlane l x s).sq = s.sq := setWlane_only l x s .sq (by decide)
@[simp] theorem setWlane_tb (l : Nat) (x : WLane) (s : State) : (setWlane l x s).tb = s.tb := setWlane_only l x s .tb (by decide)
@[simp] theorem setWlane_bl (l : Nat) (x : WLane) (s : State) : (setWlane l x s).bl = s.bl := setWlane_only l x s .bl (by decide)
@[simp] theorem setWlane_hd (l : Nat) (x : WLane) (s : State) : (setWlane l x s).hd = s.hd := setWlane_only l x s .hd (by decide)
@[simp] theorem setWlane_tm (l : Nat) (x : WLane) (s : State) : (setWlane l x s).tm = s.tm := setWlane_only l x s .tm (by decide)
@[simp] theorem setWlane_tr (l : Nat) (x : WLane) (s : State) : (setWlane l x s).tr = s.tr := setWlane_only l x s .tr (by decide)
@[simp] theorem setWlane_dbg (l : Nat) (x : WLane) (s : State) : (setWlane l x s).dbg = s.dbg := setWlane_only l x s .dbg (by decide)
@[simp] theorem setWlane_fw (l : Nat) (x : WLane) (s : State) : (setWlane l x s).fw = s.fw := setWlane_only l x s .fw (by decide)
@[simp] theorem setWlane_rx (l : Nat) (x : WLane) (s : State) : (setWlane l x s).rx = s.rx := setWlane_only l x s .rx (by decide)
@[simp] theorem setWlane_pw (l : Nat) (x : WLane) (s : State) : (setWlane l x s).pw = s.pw := setWlane_only l x s .pw (by decide)
@[simp] theorem setWlane_ck (l : Nat) (x : WLane) (s : State) : (setWlane l x s).ck = s.ck := setWlane_only l x s .ck (by decide)
@[simp] theorem setWlane_pr (l : Nat) (x : WLane) (s : State) : (setWlane l x s).pr = s.pr := setWlane_only l x s .pr (by decide)
@[simp] theorem setChan_pending (wr : Bool) (lane : Nat) (x : ReqCh) (s : State) : (setChan wr lane x s).pending = s.pending := setChan_only wr lane x s .pending (by decide)
@[simp] theorem setChan_cyc (wr : Bool) (lane : Nat) (x : ReqCh) (s : State) : (setChan wr lane x s).cyc = s.cyc := setChan_only wr lane x s .cyc (by decide)
@[simp] theorem setChan_free (wr : Bool) (lane : Nat) (x : ReqCh) (s : State) : (setChan wr lane x s).free = s.free := setChan_only wr lane x s .free (by decide)
@[simp] theorem setChan_regs (wr : Bool) (lane : Nat) (x : ReqCh) (s : State) : (setChan wr lane x s).regs = s.regs := setChan_only wr lane x s .regs (by decide)
@[simp] theorem setChan_cnt (wr : Bool) (lane : Nat) (x : ReqCh) (s : State) : (setChan wr lane x s).cnt = s.cnt := setChan_only wr lane x s .cnt (by decide)
@[simp] theorem setChan_xc (wr : Bool) (lane : Nat) (x : ReqCh) (s : State) : (setChan wr lane x s).xc = s.xc := setChan_only wr lane x s .xc (by decide)
@[simp] theorem setChan_bus (wr : Bool) (lane : Nat) (x : ReqCh) (s : State) : (setChan wr lane x s).bus = s.bus := setChan_only wr lane x s .bus (by decide)
@[simp] theorem setChan_mem (wr : Bool) (lane : Nat) (x : ReqCh) (s : State) : (setChan wr lane x s).mem = s.mem := setChan_only wr lane x s .mem (by decide)
@[simp] theorem setChan_bank (wr : Bool) (lane : Nat) (x : ReqCh) (s : State) : (setChan wr lane x s).bank = s.bank := setChan_only wr lane x s .bank (by decide)
@[simp] theorem setChan_arb (wr : Bool) (lane : Nat) (x : ReqCh) (s : State) : (setChan wr lane x s).arb = s.arb := setChan_only wr lane x s .arb (by decide)
@[simp] theorem setChan_sq (wr : Bool) (lane : Nat) (x : ReqCh) (s : State) : (setChan wr lane x s).sq = s.sq := setChan_only wr lane x s .sq (by decide)
@[simp] theorem setChan_tb (wr : Bool) (lane : Nat) (x : ReqCh) (s : State) : (setChan wr lane x s).tb = s.tb := setChan_only wr lane x s .tb (by decide)
@[simp] theorem setChan_bl (wr : Bool) (lane : Nat) (x : ReqCh) (s : State) : (setChan wr lane x s).bl = s.bl := setChan_only wr lane x s .bl (by decide)
@[simp] theorem setChan_hd (wr : Bool) (lane : Nat) (x : ReqCh) (s : State) : (setChan wr lane x s).hd = s.hd := setChan_only wr lane x s .hd (by decide)
@[simp] theorem setChan_tm (wr : Bool) (lane : Nat) (x : ReqCh) (s : State) : (setChan wr lane x s).tm = s.tm := setChan_only wr lane x s .tm (by decide)
@[simp] theorem setChan_tr (wr : Bool) (lane : Nat) (x : ReqCh) (s : State) : (setChan wr lane x s).tr = s.tr := setChan_only wr lane x s .tr (by decide)
@[simp] theorem setChan_dbg (wr : Bool) (lane : Nat) (x : ReqCh) (s : State) : (setChan wr lane x s).dbg = s.dbg := setChan_only wr lane x s .dbg (by decide)
@[simp] theorem setChan_fw (wr : Bool) (lane : Nat) (x : ReqCh) (s : State) : (setChan wr lane x s).fw = s.fw := setChan_only wr lane x s .fw (by decide)
@[simp] theorem setChan_rx (wr : Bool) (lane : Nat) (x : ReqCh) (s : State) : (setChan wr lane x s).rx = s.rx := setChan_only wr lane x s .rx (by decide)
@[simp] theorem setChan_pw (wr : Bool) (lane : Nat) (x : ReqCh) (s : State) : (setChan wr lane x s).pw = s.pw := setChan_only wr lane x s .pw (by decide)
@[simp] theorem setChan_ck (wr : Bool) (lane : Nat) (x : ReqCh) (s : State) : (setChan wr lane x s).ck = s.ck := setChan_only wr lane x s .ck (by decide)
@[simp] theorem setChan_pr (wr : Bool) (lane : Nat) (x : ReqCh) (s : State) : (setChan wr lane x s).pr = s.pr := setChan_only wr lane x s .pr (by decide)
@[simp] theorem setPow_pending (pb : Nat) (p : BankPow) (s : State) : (setPow pb p s).pending = s.pending := setPow_only pb p s .pending (by decide)
@[simp] theorem setPow_cyc (pb : Nat) (p : BankPow) (s : State) : (setPow pb p s).cyc = s.cyc := setPow_only pb p s .cyc (by decide)
@[simp] theorem setPow_free (pb : Nat) (p : BankPow) (s : State) : (setPow pb p s).free = s.free := setPow_only pb p s .free (by decide)
@[simp] theorem setPow_regs (pb : Nat) (p : BankPow) (s : State) : (setPow pb p s).regs = s.regs := setPow_only pb p s .regs (by decide)
@[simp] theorem setPow_cnt (pb : Nat) (p : BankPow) (s : State) : (setPow pb p s).cnt = s.cnt := setPow_only pb p s .cnt (by decide)
@[simp] theorem setPow_xc (pb : Nat) (p : BankPow) (s : State) : (setPow pb p s).xc = s.xc := setPow_only pb p s .xc (by decide)
@[simp] theorem setPow_bus (pb : Nat) (p : BankPow) (s : State) : (setPow pb p s).bus = s.bus := setPow_only pb p s .bus (by decide)
@[simp] theorem setPow_mem (pb : Nat) (p : BankPow) (s : State) : (setPow pb p s).mem = s.mem := setPow_only pb p s .mem (by decide)
@[simp] theorem setPow_fr (pb : Nat) (p : BankPow) (s : State) : (setPow pb p s).fr = s.fr := setPow_only pb p s .fr (by decide)
@[simp] theorem setPow_arb (pb : Nat) (p : BankPow) (s : State) : (setPow pb p s).arb = s.arb := setPow_only pb p s .arb (by decide)
@[simp] theorem setPow_sq (pb : Nat) (p : BankPow) (s : State) : (setPow pb p s).sq = s.sq := setPow_only pb p s .sq (by decide)
@[simp] theorem setPow_tb (pb : Nat) (p : BankPow) (s : State) : (setPow pb p s).tb = s.tb := setPow_only pb p s .tb (by decide)
@[simp] theorem setPow_bl (pb : Nat) (p : BankPow) (s : State) : (setPow pb p s).bl = s.bl := setPow_only pb p s .bl (by decide)
@[simp] theorem setPow_hd (pb : Nat) (p : BankPow) (s : State) : (setPow pb p s).hd = s.hd := setPow_only pb p s .hd (by decide)
@[simp] theorem setPow_tm (pb : Nat) (p : BankPow) (s : State) : (setPow pb p s).tm = s.tm := setPow_only pb p s .tm (by decide)
@[simp] theorem setPow_tr (pb : Nat) (p : BankPow) (s : State) : (setPow pb p s).tr = s.tr := setPow_only pb p s .tr (by decide)
@[simp] theorem setPow_dbg (pb : Nat) (p : BankPow) (s : State) : (setPow pb p s).dbg = s.dbg := setPow_only pb p s .dbg (by decide)
@[simp] theorem setPow_fw (pb : Nat) (p : BankPow) (s : State) : (setPow pb p s).fw = s.fw := setPow_only pb p s .fw (by decide)
@[simp] theorem setPow_rx (pb : Nat) (p : BankPow) (s : State) : (setPow pb p s).rx = s.rx := setPow_only pb p s .rx (by decide)
@[simp] theorem setPow_pw (pb : Nat) (p : BankPow) (s : State) : (setPow pb p s).pw = s.pw := setPow_only pb p s .pw (by decide)
@[simp] theorem setPow_ck (pb : Nat) (p : BankPow) (s : State) : (setPow pb p s).ck = s.ck := setPow_only pb p s .ck (by decide)
@[simp] theorem setPow_pr (pb : Nat) (p : BankPow) (s : State) : (setPow pb p s).pr = s.pr := setPow_only pb p s .pr (by decide)
@[simp] theorem setDom_pending (i : Nat) (p : BankPow) (s : State) : (setDom i p s).pending = s.pending := setDom_only i p s .pending (by decide)
@[simp] theorem setDom_cyc (i : Nat) (p : BankPow) (s : State) : (setDom i p s).cyc = s.cyc := setDom_only i p s .cyc (by decide)
@[simp] theorem setDom_free (i : Nat) (p : BankPow) (s : State) : (setDom i p s).free = s.free := setDom_only i p s .free (by decide)
@[simp] theorem setDom_regs (i : Nat) (p : BankPow) (s : State) : (setDom i p s).regs = s.regs := setDom_only i p s .regs (by decide)
@[simp] theorem setDom_cnt (i : Nat) (p : BankPow) (s : State) : (setDom i p s).cnt = s.cnt := setDom_only i p s .cnt (by decide)
@[simp] theorem setDom_xc (i : Nat) (p : BankPow) (s : State) : (setDom i p s).xc = s.xc := setDom_only i p s .xc (by decide)
@[simp] theorem setDom_bus (i : Nat) (p : BankPow) (s : State) : (setDom i p s).bus = s.bus := setDom_only i p s .bus (by decide)
@[simp] theorem setDom_mem (i : Nat) (p : BankPow) (s : State) : (setDom i p s).mem = s.mem := setDom_only i p s .mem (by decide)
@[simp] theorem setDom_bank (i : Nat) (p : BankPow) (s : State) : (setDom i p s).bank = s.bank := setDom_only i p s .bank (by decide)
@[simp] theorem setDom_fr (i : Nat) (p : BankPow) (s : State) : (setDom i p s).fr = s.fr := setDom_only i p s .fr (by decide)
@[simp] theorem setDom_arb (i : Nat) (p : BankPow) (s : State) : (setDom i p s).arb = s.arb := setDom_only i p s .arb (by decide)
@[simp] theorem setDom_sq (i : Nat) (p : BankPow) (s : State) : (setDom i p s).sq = s.sq := setDom_only i p s .sq (by decide)
@[simp] theorem setDom_tb (i : Nat) (p : BankPow) (s : State) : (setDom i p s).tb = s.tb := setDom_only i p s .tb (by decide)
@[simp] theorem setDom_bl (i : Nat) (p : BankPow) (s : State) : (setDom i p s).bl = s.bl := setDom_only i p s .bl (by decide)
@[simp] theorem setDom_hd (i : Nat) (p : BankPow) (s : State) : (setDom i p s).hd = s.hd := setDom_only i p s .hd (by decide)
@[simp] theorem setDom_tm (i : Nat) (p : BankPow) (s : State) : (setDom i p s).tm = s.tm := setDom_only i p s .tm (by decide)
@[simp] theorem setDom_tr (i : Nat) (p : BankPow) (s : State) : (setDom i p s).tr = s.tr := setDom_only i p s .tr (by decide)
@[simp] theorem setDom_dbg (i : Nat) (p : BankPow) (s : State) : (setDom i p s).dbg = s.dbg := setDom_only i p s .dbg (by decide)
@[simp] theorem setDom_fw (i : Nat) (p : BankPow) (s : State) : (setDom i p s).fw = s.fw := setDom_only i p s .fw (by decide)
@[simp] theorem setDom_rx (i : Nat) (p : BankPow) (s : State) : (setDom i p s).rx = s.rx := setDom_only i p s .rx (by decide)
@[simp] theorem setDom_ck (i : Nat) (p : BankPow) (s : State) : (setDom i p s).ck = s.ck := setDom_only i p s .ck (by decide)
@[simp] theorem setDom_pr (i : Nat) (p : BankPow) (s : State) : (setDom i p s).pr = s.pr := setDom_only i p s .pr (by decide)
@[simp] theorem updBkt_pending (b : Nat) (f : Bkt → Bkt) (s : State) : (updBkt b f s).pending = s.pending := updBkt_only b f s .pending (by decide)
@[simp] theorem updBkt_cyc (b : Nat) (f : Bkt → Bkt) (s : State) : (updBkt b f s).cyc = s.cyc := updBkt_only b f s .cyc (by decide)
@[simp] theorem updBkt_free (b : Nat) (f : Bkt → Bkt) (s : State) : (updBkt b f s).free = s.free := updBkt_only b f s .free (by decide)
@[simp] theorem updBkt_regs (b : Nat) (f : Bkt → Bkt) (s : State) : (updBkt b f s).regs = s.regs := updBkt_only b f s .regs (by decide)
@[simp] theorem updBkt_cnt (b : Nat) (f : Bkt → Bkt) (s : State) : (updBkt b f s).cnt = s.cnt := updBkt_only b f s .cnt (by decide)
@[simp] theorem updBkt_xc (b : Nat) (f : Bkt → Bkt) (s : State) : (updBkt b f s).xc = s.xc := updBkt_only b f s .xc (by decide)
@[simp] theorem updBkt_bus (b : Nat) (f : Bkt → Bkt) (s : State) : (updBkt b f s).bus = s.bus := updBkt_only b f s .bus (by decide)
@[simp] theorem updBkt_mem (b : Nat) (f : Bkt → Bkt) (s : State) : (updBkt b f s).mem = s.mem := updBkt_only b f s .mem (by decide)
@[simp] theorem updBkt_bank (b : Nat) (f : Bkt → Bkt) (s : State) : (updBkt b f s).bank = s.bank := updBkt_only b f s .bank (by decide)
@[simp] theorem updBkt_fr (b : Nat) (f : Bkt → Bkt) (s : State) : (updBkt b f s).fr = s.fr := updBkt_only b f s .fr (by decide)
@[simp] theorem updBkt_arb (b : Nat) (f : Bkt → Bkt) (s : State) : (updBkt b f s).arb = s.arb := updBkt_only b f s .arb (by decide)
@[simp] theorem updBkt_sq (b : Nat) (f : Bkt → Bkt) (s : State) : (updBkt b f s).sq = s.sq := updBkt_only b f s .sq (by decide)
@[simp] theorem updBkt_tb (b : Nat) (f : Bkt → Bkt) (s : State) : (updBkt b f s).tb = s.tb := updBkt_only b f s .tb (by decide)
@[simp] theorem updBkt_bl (b : Nat) (f : Bkt → Bkt) (s : State) : (updBkt b f s).bl = s.bl := updBkt_only b f s .bl (by decide)
@[simp] theorem updBkt_hd (b : Nat) (f : Bkt → Bkt) (s : State) : (updBkt b f s).hd = s.hd := updBkt_only b f s .hd (by decide)
@[simp] theorem updBkt_tm (b : Nat) (f : Bkt → Bkt) (s : State) : (updBkt b f s).tm = s.tm := updBkt_only b f s .tm (by decide)
@[simp] theorem updBkt_tr (b : Nat) (f : Bkt → Bkt) (s : State) : (updBkt b f s).tr = s.tr := updBkt_only b f s .tr (by decide)
@[simp] theorem updBkt_dbg (b : Nat) (f : Bkt → Bkt) (s : State) : (updBkt b f s).dbg = s.dbg := updBkt_only b f s .dbg (by decide)
@[simp] theorem updBkt_fw (b : Nat) (f : Bkt → Bkt) (s : State) : (updBkt b f s).fw = s.fw := updBkt_only b f s .fw (by decide)
@[simp] theorem updBkt_pw (b : Nat) (f : Bkt → Bkt) (s : State) : (updBkt b f s).pw = s.pw := updBkt_only b f s .pw (by decide)
@[simp] theorem updBkt_ck (b : Nat) (f : Bkt → Bkt) (s : State) : (updBkt b f s).ck = s.ck := updBkt_only b f s .ck (by decide)
@[simp] theorem updBkt_pr (b : Nat) (f : Bkt → Bkt) (s : State) : (updBkt b f s).pr = s.pr := updBkt_only b f s .pr (by decide)
@[simp] theorem setTr_pending (t : Tr) (s : State) : (setTr t s).pending = s.pending := setTr_only t s .pending (by decide)
@[simp] theorem setTr_cyc (t : Tr) (s : State) : (setTr t s).cyc = s.cyc := setTr_only t s .cyc (by decide)
@[simp] theorem setTr_free (t : Tr) (s : State) : (setTr t s).free = s.free := setTr_only t s .free (by decide)
@[simp] theorem setTr_regs (t : Tr) (s : State) : (setTr t s).regs = s.regs := setTr_only t s .regs (by decide)
@[simp] theorem setTr_cnt (t : Tr) (s : State) : (setTr t s).cnt = s.cnt := setTr_only t s .cnt (by decide)
@[simp] theorem setTr_xc (t : Tr) (s : State) : (setTr t s).xc = s.xc := setTr_only t s .xc (by decide)
@[simp] theorem setTr_bus (t : Tr) (s : State) : (setTr t s).bus = s.bus := setTr_only t s .bus (by decide)
@[simp] theorem setTr_mem (t : Tr) (s : State) : (setTr t s).mem = s.mem := setTr_only t s .mem (by decide)
@[simp] theorem setTr_bank (t : Tr) (s : State) : (setTr t s).bank = s.bank := setTr_only t s .bank (by decide)
@[simp] theorem setTr_arb (t : Tr) (s : State) : (setTr t s).arb = s.arb := setTr_only t s .arb (by decide)
@[simp] theorem setTr_sq (t : Tr) (s : State) : (setTr t s).sq = s.sq := setTr_only t s .sq (by decide)
@[simp] theorem setTr_tb (t : Tr) (s : State) : (setTr t s).tb = s.tb := setTr_only t s .tb (by decide)
@[simp] theorem setTr_bl (t : Tr) (s : State) : (setTr t s).bl = s.bl := setTr_only t s .bl (by decide)
@[simp] theorem setTr_hd (t : Tr) (s : State) : (setTr t s).hd = s.hd := setTr_only t s .hd (by decide)
@[simp] theorem setTr_tm (t : Tr) (s : State) : (setTr t s).tm = s.tm := setTr_only t s .tm (by decide)
@[simp] theorem setTr_tr (t : Tr) (s : State) : (setTr t s).tr = s.tr := setTr_only t s .tr (by decide)
@[simp] theorem setTr_dbg (t : Tr) (s : State) : (setTr t s).dbg = s.dbg := setTr_only t s .dbg (by decide)
@[simp] theorem setTr_fw (t : Tr) (s : State) : (setTr t s).fw = s.fw := setTr_only t s .fw (by decide)
@[simp] theorem setTr_rx (t : Tr) (s : State) : (setTr t s).rx = s.rx := setTr_only t s .rx (by decide)
@[simp] theorem setTr_pw (t : Tr) (s : State) : (setTr t s).pw = s.pw := setTr_only t s .pw (by decide)
@[simp] theorem setTr_ck (t : Tr) (s : State) : (setTr t s).ck = s.ck := setTr_only t s .ck (by decide)
@[simp] theorem setTr_pr (t : Tr) (s : State) : (setTr t s).pr = s.pr := setTr_only t s .pr (by decide)
@[simp] theorem addTr_pending (t : Tr) (s : State) : (addTr t s).pending = s.pending := addTr_only t s .pending (by decide)
@[simp] theorem addTr_cyc (t : Tr) (s : State) : (addTr t s).cyc = s.cyc := addTr_only t s .cyc (by decide)
@[simp] theorem addTr_free (t : Tr) (s : State) : (addTr t s).free = s.free := addTr_only t s .free (by decide)
@[simp] theorem addTr_regs (t : Tr) (s : State) : (addTr t s).regs = s.regs := addTr_only t s .regs (by decide)
@[simp] theorem addTr_cnt (t : Tr) (s : State) : (addTr t s).cnt = s.cnt := addTr_only t s .cnt (by decide)
@[simp] theorem addTr_xc (t : Tr) (s : State) : (addTr t s).xc = s.xc := addTr_only t s .xc (by decide)
@[simp] theorem addTr_bus (t : Tr) (s : State) : (addTr t s).bus = s.bus := addTr_only t s .bus (by decide)
@[simp] theorem addTr_mem (t : Tr) (s : State) : (addTr t s).mem = s.mem := addTr_only t s .mem (by decide)
@[simp] theorem addTr_bank (t : Tr) (s : State) : (addTr t s).bank = s.bank := addTr_only t s .bank (by decide)
@[simp] theorem addTr_arb (t : Tr) (s : State) : (addTr t s).arb = s.arb := addTr_only t s .arb (by decide)
@[simp] theorem addTr_sq (t : Tr) (s : State) : (addTr t s).sq = s.sq := addTr_only t s .sq (by decide)
@[simp] theorem addTr_tb (t : Tr) (s : State) : (addTr t s).tb = s.tb := addTr_only t s .tb (by decide)
@[simp] theorem addTr_bl (t : Tr) (s : State) : (addTr t s).bl = s.bl := addTr_only t s .bl (by decide)
@[simp] theorem addTr_hd (t : Tr) (s : State) : (addTr t s).hd = s.hd := addTr_only t s .hd (by decide)
@[simp] theorem addTr_tm (t : Tr) (s : State) : (addTr t s).tm = s.tm := addTr_only t s .tm (by decide)
@[simp] theorem addTr_tr (t : Tr) (s : State) : (addTr t s).tr = s.tr := addTr_only t s .tr (by decide)
@[simp] theorem addTr_dbg (t : Tr) (s : State) : (addTr t s).dbg = s.dbg := addTr_only t s .dbg (by decide)
@[simp] theorem addTr_fw (t : Tr) (s : State) : (addTr t s).fw = s.fw := addTr_only t s .fw (by decide)
@[simp] theorem addTr_rx (t : Tr) (s : State) : (addTr t s).rx = s.rx := addTr_only t s .rx (by decide)
@[simp] theorem addTr_pw (t : Tr) (s : State) : (addTr t s).pw = s.pw := addTr_only t s .pw (by decide)
@[simp] theorem addTr_ck (t : Tr) (s : State) : (addTr t s).ck = s.ck := addTr_only t s .ck (by decide)
@[simp] theorem addTr_pr (t : Tr) (s : State) : (addTr t s).pr = s.pr := addTr_only t s .pr (by decide)
@[simp] theorem dropSlip_pending (sid : Nat) (s : State) : (dropSlip sid s).pending = s.pending := dropSlip_only sid s .pending (by decide)
@[simp] theorem dropSlip_cyc (sid : Nat) (s : State) : (dropSlip sid s).cyc = s.cyc := dropSlip_only sid s .cyc (by decide)
@[simp] theorem dropSlip_free (sid : Nat) (s : State) : (dropSlip sid s).free = s.free := dropSlip_only sid s .free (by decide)
@[simp] theorem dropSlip_cnt (sid : Nat) (s : State) : (dropSlip sid s).cnt = s.cnt := dropSlip_only sid s .cnt (by decide)
@[simp] theorem dropSlip_xc (sid : Nat) (s : State) : (dropSlip sid s).xc = s.xc := dropSlip_only sid s .xc (by decide)
@[simp] theorem dropSlip_bus (sid : Nat) (s : State) : (dropSlip sid s).bus = s.bus := dropSlip_only sid s .bus (by decide)
@[simp] theorem dropSlip_mem (sid : Nat) (s : State) : (dropSlip sid s).mem = s.mem := dropSlip_only sid s .mem (by decide)
@[simp] theorem dropSlip_bank (sid : Nat) (s : State) : (dropSlip sid s).bank = s.bank := dropSlip_only sid s .bank (by decide)
@[simp] theorem dropSlip_fr (sid : Nat) (s : State) : (dropSlip sid s).fr = s.fr := dropSlip_only sid s .fr (by decide)
@[simp] theorem dropSlip_arb (sid : Nat) (s : State) : (dropSlip sid s).arb = s.arb := dropSlip_only sid s .arb (by decide)
@[simp] theorem dropSlip_tb (sid : Nat) (s : State) : (dropSlip sid s).tb = s.tb := dropSlip_only sid s .tb (by decide)
@[simp] theorem dropSlip_bl (sid : Nat) (s : State) : (dropSlip sid s).bl = s.bl := dropSlip_only sid s .bl (by decide)
@[simp] theorem dropSlip_hd (sid : Nat) (s : State) : (dropSlip sid s).hd = s.hd := dropSlip_only sid s .hd (by decide)
@[simp] theorem dropSlip_tm (sid : Nat) (s : State) : (dropSlip sid s).tm = s.tm := dropSlip_only sid s .tm (by decide)
@[simp] theorem dropSlip_tr (sid : Nat) (s : State) : (dropSlip sid s).tr = s.tr := dropSlip_only sid s .tr (by decide)
@[simp] theorem dropSlip_fw (sid : Nat) (s : State) : (dropSlip sid s).fw = s.fw := dropSlip_only sid s .fw (by decide)
@[simp] theorem dropSlip_rx (sid : Nat) (s : State) : (dropSlip sid s).rx = s.rx := dropSlip_only sid s .rx (by decide)
@[simp] theorem dropSlip_pw (sid : Nat) (s : State) : (dropSlip sid s).pw = s.pw := dropSlip_only sid s .pw (by decide)
@[simp] theorem dropSlip_ck (sid : Nat) (s : State) : (dropSlip sid s).ck = s.ck := dropSlip_only sid s .ck (by decide)
@[simp] theorem dropSlip_pr (sid : Nat) (s : State) : (dropSlip sid s).pr = s.pr := dropSlip_only sid s .pr (by decide)
@[simp] theorem progress_pending (q : Nat) (s : State) : (progress q s).pending = s.pending := progress_only q s .pending (by decide)
@[simp] theorem progress_cyc (q : Nat) (s : State) : (progress q s).cyc = s.cyc := progress_only q s .cyc (by decide)
@[simp] theorem progress_free (q : Nat) (s : State) : (progress q s).free = s.free := progress_only q s .free (by decide)
@[simp] theorem progress_regs (q : Nat) (s : State) : (progress q s).regs = s.regs := progress_only q s .regs (by decide)
@[simp] theorem progress_cnt (q : Nat) (s : State) : (progress q s).cnt = s.cnt := progress_only q s .cnt (by decide)
@[simp] theorem progress_xc (q : Nat) (s : State) : (progress q s).xc = s.xc := progress_only q s .xc (by decide)
@[simp] theorem progress_bus (q : Nat) (s : State) : (progress q s).bus = s.bus := progress_only q s .bus (by decide)
@[simp] theorem progress_mem (q : Nat) (s : State) : (progress q s).mem = s.mem := progress_only q s .mem (by decide)
@[simp] theorem progress_bank (q : Nat) (s : State) : (progress q s).bank = s.bank := progress_only q s .bank (by decide)
@[simp] theorem progress_fr (q : Nat) (s : State) : (progress q s).fr = s.fr := progress_only q s .fr (by decide)
@[simp] theorem progress_arb (q : Nat) (s : State) : (progress q s).arb = s.arb := progress_only q s .arb (by decide)
@[simp] theorem progress_tb (q : Nat) (s : State) : (progress q s).tb = s.tb := progress_only q s .tb (by decide)
@[simp] theorem progress_bl (q : Nat) (s : State) : (progress q s).bl = s.bl := progress_only q s .bl (by decide)
@[simp] theorem progress_hd (q : Nat) (s : State) : (progress q s).hd = s.hd := progress_only q s .hd (by decide)
@[simp] theorem progress_tm (q : Nat) (s : State) : (progress q s).tm = s.tm := progress_only q s .tm (by decide)
@[simp] theorem progress_tr (q : Nat) (s : State) : (progress q s).tr = s.tr := progress_only q s .tr (by decide)
@[simp] theorem progress_dbg (q : Nat) (s : State) : (progress q s).dbg = s.dbg := progress_only q s .dbg (by decide)
@[simp] theorem progress_fw (q : Nat) (s : State) : (progress q s).fw = s.fw := progress_only q s .fw (by decide)
@[simp] theorem progress_rx (q : Nat) (s : State) : (progress q s).rx = s.rx := progress_only q s .rx (by decide)
@[simp] theorem progress_pw (q : Nat) (s : State) : (progress q s).pw = s.pw := progress_only q s .pw (by decide)
@[simp] theorem progress_ck (q : Nat) (s : State) : (progress q s).ck = s.ck := progress_only q s .ck (by decide)
@[simp] theorem progress_pr (q : Nat) (s : State) : (progress q s).pr = s.pr := progress_only q s .pr (by decide)
@[simp] theorem maybeSend_pending (sid : Nat) (s : State) : (maybeSend sid s).pending = s.pending := maybeSend_only sid s .pending (by decide)
@[simp] theorem maybeSend_cyc (sid : Nat) (s : State) : (maybeSend sid s).cyc = s.cyc := maybeSend_only sid s .cyc (by decide)
@[simp] theorem maybeSend_free (sid : Nat) (s : State) : (maybeSend sid s).free = s.free := maybeSend_only sid s .free (by decide)
@[simp] theorem maybeSend_regs (sid : Nat) (s : State) : (maybeSend sid s).regs = s.regs := maybeSend_only sid s .regs (by decide)
@[simp] theorem maybeSend_cnt (sid : Nat) (s : State) : (maybeSend sid s).cnt = s.cnt := maybeSend_only sid s .cnt (by decide)
@[simp] theorem maybeSend_xc (sid : Nat) (s : State) : (maybeSend sid s).xc = s.xc := maybeSend_only sid s .xc (by decide)
@[simp] theorem maybeSend_bus (sid : Nat) (s : State) : (maybeSend sid s).bus = s.bus := maybeSend_only sid s .bus (by decide)
@[simp] theorem maybeSend_mem (sid : Nat) (s : State) : (maybeSend sid s).mem = s.mem := maybeSend_only sid s .mem (by decide)
@[simp] theorem maybeSend_bank (sid : Nat) (s : State) : (maybeSend sid s).bank = s.bank := maybeSend_only sid s .bank (by decide)
@[simp] theorem maybeSend_fr (sid : Nat) (s : State) : (maybeSend sid s).fr = s.fr := maybeSend_only sid s .fr (by decide)
@[simp] theorem maybeSend_arb (sid : Nat) (s : State) : (maybeSend sid s).arb = s.arb := maybeSend_only sid s .arb (by decide)
@[simp] theorem maybeSend_tb (sid : Nat) (s : State) : (maybeSend sid s).tb = s.tb := maybeSend_only sid s .tb (by decide)
@[simp] theorem maybeSend_bl (sid : Nat) (s : State) : (maybeSend sid s).bl = s.bl := maybeSend_only sid s .bl (by decide)
@[simp] theorem maybeSend_hd (sid : Nat) (s : State) : (maybeSend sid s).hd = s.hd := maybeSend_only sid s .hd (by decide)
@[simp] theorem maybeSend_tm (sid : Nat) (s : State) : (maybeSend sid s).tm = s.tm := maybeSend_only sid s .tm (by decide)
@[simp] theorem maybeSend_dbg (sid : Nat) (s : State) : (maybeSend sid s).dbg = s.dbg := maybeSend_only sid s .dbg (by decide)
@[simp] theorem maybeSend_fw (sid : Nat) (s : State) : (maybeSend sid s).fw = s.fw := maybeSend_only sid s .fw (by decide)
@[simp] theorem maybeSend_rx (sid : Nat) (s : State) : (maybeSend sid s).rx = s.rx := maybeSend_only sid s .rx (by decide)
@[simp] theorem maybeSend_pw (sid : Nat) (s : State) : (maybeSend sid s).pw = s.pw := maybeSend_only sid s .pw (by decide)
@[simp] theorem maybeSend_ck (sid : Nat) (s : State) : (maybeSend sid s).ck = s.ck := maybeSend_only sid s .ck (by decide)
@[simp] theorem maybeSend_pr (sid : Nat) (s : State) : (maybeSend sid s).pr = s.pr := maybeSend_only sid s .pr (by decide)
@[simp] theorem slipLog_pending (kind q reason : Nat) (w : BitVec 512) (ent : Nat) (s : State) : (slipLog kind q reason w ent s).pending = s.pending := slipLog_only kind q reason w ent s .pending (by decide)
@[simp] theorem slipLog_cyc (kind q reason : Nat) (w : BitVec 512) (ent : Nat) (s : State) : (slipLog kind q reason w ent s).cyc = s.cyc := slipLog_only kind q reason w ent s .cyc (by decide)
@[simp] theorem slipLog_free (kind q reason : Nat) (w : BitVec 512) (ent : Nat) (s : State) : (slipLog kind q reason w ent s).free = s.free := slipLog_only kind q reason w ent s .free (by decide)
@[simp] theorem slipLog_cnt (kind q reason : Nat) (w : BitVec 512) (ent : Nat) (s : State) : (slipLog kind q reason w ent s).cnt = s.cnt := slipLog_only kind q reason w ent s .cnt (by decide)
@[simp] theorem slipLog_xc (kind q reason : Nat) (w : BitVec 512) (ent : Nat) (s : State) : (slipLog kind q reason w ent s).xc = s.xc := slipLog_only kind q reason w ent s .xc (by decide)
@[simp] theorem slipLog_bus (kind q reason : Nat) (w : BitVec 512) (ent : Nat) (s : State) : (slipLog kind q reason w ent s).bus = s.bus := slipLog_only kind q reason w ent s .bus (by decide)
@[simp] theorem slipLog_mem (kind q reason : Nat) (w : BitVec 512) (ent : Nat) (s : State) : (slipLog kind q reason w ent s).mem = s.mem := slipLog_only kind q reason w ent s .mem (by decide)
@[simp] theorem slipLog_bank (kind q reason : Nat) (w : BitVec 512) (ent : Nat) (s : State) : (slipLog kind q reason w ent s).bank = s.bank := slipLog_only kind q reason w ent s .bank (by decide)
@[simp] theorem slipLog_fr (kind q reason : Nat) (w : BitVec 512) (ent : Nat) (s : State) : (slipLog kind q reason w ent s).fr = s.fr := slipLog_only kind q reason w ent s .fr (by decide)
@[simp] theorem slipLog_arb (kind q reason : Nat) (w : BitVec 512) (ent : Nat) (s : State) : (slipLog kind q reason w ent s).arb = s.arb := slipLog_only kind q reason w ent s .arb (by decide)
@[simp] theorem slipLog_sq (kind q reason : Nat) (w : BitVec 512) (ent : Nat) (s : State) : (slipLog kind q reason w ent s).sq = s.sq := slipLog_only kind q reason w ent s .sq (by decide)
@[simp] theorem slipLog_tb (kind q reason : Nat) (w : BitVec 512) (ent : Nat) (s : State) : (slipLog kind q reason w ent s).tb = s.tb := slipLog_only kind q reason w ent s .tb (by decide)
@[simp] theorem slipLog_bl (kind q reason : Nat) (w : BitVec 512) (ent : Nat) (s : State) : (slipLog kind q reason w ent s).bl = s.bl := slipLog_only kind q reason w ent s .bl (by decide)
@[simp] theorem slipLog_hd (kind q reason : Nat) (w : BitVec 512) (ent : Nat) (s : State) : (slipLog kind q reason w ent s).hd = s.hd := slipLog_only kind q reason w ent s .hd (by decide)
@[simp] theorem slipLog_tm (kind q reason : Nat) (w : BitVec 512) (ent : Nat) (s : State) : (slipLog kind q reason w ent s).tm = s.tm := slipLog_only kind q reason w ent s .tm (by decide)
@[simp] theorem slipLog_tr (kind q reason : Nat) (w : BitVec 512) (ent : Nat) (s : State) : (slipLog kind q reason w ent s).tr = s.tr := slipLog_only kind q reason w ent s .tr (by decide)
@[simp] theorem slipLog_dbg (kind q reason : Nat) (w : BitVec 512) (ent : Nat) (s : State) : (slipLog kind q reason w ent s).dbg = s.dbg := slipLog_only kind q reason w ent s .dbg (by decide)
@[simp] theorem slipLog_fw (kind q reason : Nat) (w : BitVec 512) (ent : Nat) (s : State) : (slipLog kind q reason w ent s).fw = s.fw := slipLog_only kind q reason w ent s .fw (by decide)
@[simp] theorem slipLog_rx (kind q reason : Nat) (w : BitVec 512) (ent : Nat) (s : State) : (slipLog kind q reason w ent s).rx = s.rx := slipLog_only kind q reason w ent s .rx (by decide)
@[simp] theorem slipLog_pw (kind q reason : Nat) (w : BitVec 512) (ent : Nat) (s : State) : (slipLog kind q reason w ent s).pw = s.pw := slipLog_only kind q reason w ent s .pw (by decide)
@[simp] theorem slipLog_ck (kind q reason : Nat) (w : BitVec 512) (ent : Nat) (s : State) : (slipLog kind q reason w ent s).ck = s.ck := slipLog_only kind q reason w ent s .ck (by decide)
@[simp] theorem slipLog_pr (kind q reason : Nat) (w : BitVec 512) (ent : Nat) (s : State) : (slipLog kind q reason w ent s).pr = s.pr := slipLog_only kind q reason w ent s .pr (by decide)
@[simp] theorem stopOnFault_pending (x : Slip) (s : State) : (stopOnFault x s).pending = s.pending := stopOnFault_only x s .pending (by decide)
@[simp] theorem stopOnFault_cyc (x : Slip) (s : State) : (stopOnFault x s).cyc = s.cyc := stopOnFault_only x s .cyc (by decide)
@[simp] theorem stopOnFault_free (x : Slip) (s : State) : (stopOnFault x s).free = s.free := stopOnFault_only x s .free (by decide)
@[simp] theorem stopOnFault_cnt (x : Slip) (s : State) : (stopOnFault x s).cnt = s.cnt := stopOnFault_only x s .cnt (by decide)
@[simp] theorem stopOnFault_xc (x : Slip) (s : State) : (stopOnFault x s).xc = s.xc := stopOnFault_only x s .xc (by decide)
@[simp] theorem stopOnFault_bus (x : Slip) (s : State) : (stopOnFault x s).bus = s.bus := stopOnFault_only x s .bus (by decide)
@[simp] theorem stopOnFault_mem (x : Slip) (s : State) : (stopOnFault x s).mem = s.mem := stopOnFault_only x s .mem (by decide)
@[simp] theorem stopOnFault_bank (x : Slip) (s : State) : (stopOnFault x s).bank = s.bank := stopOnFault_only x s .bank (by decide)
@[simp] theorem stopOnFault_fr (x : Slip) (s : State) : (stopOnFault x s).fr = s.fr := stopOnFault_only x s .fr (by decide)
@[simp] theorem stopOnFault_arb (x : Slip) (s : State) : (stopOnFault x s).arb = s.arb := stopOnFault_only x s .arb (by decide)
@[simp] theorem stopOnFault_tb (x : Slip) (s : State) : (stopOnFault x s).tb = s.tb := stopOnFault_only x s .tb (by decide)
@[simp] theorem stopOnFault_bl (x : Slip) (s : State) : (stopOnFault x s).bl = s.bl := stopOnFault_only x s .bl (by decide)
@[simp] theorem stopOnFault_hd (x : Slip) (s : State) : (stopOnFault x s).hd = s.hd := stopOnFault_only x s .hd (by decide)
@[simp] theorem stopOnFault_tm (x : Slip) (s : State) : (stopOnFault x s).tm = s.tm := stopOnFault_only x s .tm (by decide)
@[simp] theorem stopOnFault_fw (x : Slip) (s : State) : (stopOnFault x s).fw = s.fw := stopOnFault_only x s .fw (by decide)
@[simp] theorem stopOnFault_rx (x : Slip) (s : State) : (stopOnFault x s).rx = s.rx := stopOnFault_only x s .rx (by decide)
@[simp] theorem stopOnFault_pw (x : Slip) (s : State) : (stopOnFault x s).pw = s.pw := stopOnFault_only x s .pw (by decide)
@[simp] theorem stopOnFault_ck (x : Slip) (s : State) : (stopOnFault x s).ck = s.ck := stopOnFault_only x s .ck (by decide)
@[simp] theorem stopOnFault_pr (x : Slip) (s : State) : (stopOnFault x s).pr = s.pr := stopOnFault_only x s .pr (by decide)
@[simp] theorem settleHead_pending (q : Nat) (s : State) : (settleHead q s).pending = s.pending := settleHead_only q s .pending (by decide)
@[simp] theorem settleHead_cyc (q : Nat) (s : State) : (settleHead q s).cyc = s.cyc := settleHead_only q s .cyc (by decide)
@[simp] theorem settleHead_free (q : Nat) (s : State) : (settleHead q s).free = s.free := settleHead_only q s .free (by decide)
@[simp] theorem settleHead_xc (q : Nat) (s : State) : (settleHead q s).xc = s.xc := settleHead_only q s .xc (by decide)
@[simp] theorem settleHead_bus (q : Nat) (s : State) : (settleHead q s).bus = s.bus := settleHead_only q s .bus (by decide)
@[simp] theorem settleHead_mem (q : Nat) (s : State) : (settleHead q s).mem = s.mem := settleHead_only q s .mem (by decide)
@[simp] theorem settleHead_bank (q : Nat) (s : State) : (settleHead q s).bank = s.bank := settleHead_only q s .bank (by decide)
@[simp] theorem settleHead_fr (q : Nat) (s : State) : (settleHead q s).fr = s.fr := settleHead_only q s .fr (by decide)
@[simp] theorem settleHead_arb (q : Nat) (s : State) : (settleHead q s).arb = s.arb := settleHead_only q s .arb (by decide)
@[simp] theorem settleHead_tb (q : Nat) (s : State) : (settleHead q s).tb = s.tb := settleHead_only q s .tb (by decide)
@[simp] theorem settleHead_bl (q : Nat) (s : State) : (settleHead q s).bl = s.bl := settleHead_only q s .bl (by decide)
@[simp] theorem settleHead_hd (q : Nat) (s : State) : (settleHead q s).hd = s.hd := settleHead_only q s .hd (by decide)
@[simp] theorem settleHead_tm (q : Nat) (s : State) : (settleHead q s).tm = s.tm := settleHead_only q s .tm (by decide)
@[simp] theorem settleHead_fw (q : Nat) (s : State) : (settleHead q s).fw = s.fw := settleHead_only q s .fw (by decide)
@[simp] theorem settleHead_rx (q : Nat) (s : State) : (settleHead q s).rx = s.rx := settleHead_only q s .rx (by decide)
@[simp] theorem settleHead_pw (q : Nat) (s : State) : (settleHead q s).pw = s.pw := settleHead_only q s .pw (by decide)
@[simp] theorem settleHead_ck (q : Nat) (s : State) : (settleHead q s).ck = s.ck := settleHead_only q s .ck (by decide)
@[simp] theorem settleHead_pr (q : Nat) (s : State) : (settleHead q s).pr = s.pr := settleHead_only q s .pr (by decide)
@[simp] theorem land_pending (l : Nat) (f : OutFlit) (s : State) : (land l f s).pending = s.pending := land_only l f s .pending (by decide)
@[simp] theorem land_cyc (l : Nat) (f : OutFlit) (s : State) : (land l f s).cyc = s.cyc := land_only l f s .cyc (by decide)
@[simp] theorem land_free (l : Nat) (f : OutFlit) (s : State) : (land l f s).free = s.free := land_only l f s .free (by decide)
@[simp] theorem land_regs (l : Nat) (f : OutFlit) (s : State) : (land l f s).regs = s.regs := land_only l f s .regs (by decide)
@[simp] theorem land_cnt (l : Nat) (f : OutFlit) (s : State) : (land l f s).cnt = s.cnt := land_only l f s .cnt (by decide)
@[simp] theorem land_xc (l : Nat) (f : OutFlit) (s : State) : (land l f s).xc = s.xc := land_only l f s .xc (by decide)
@[simp] theorem land_bus (l : Nat) (f : OutFlit) (s : State) : (land l f s).bus = s.bus := land_only l f s .bus (by decide)
@[simp] theorem land_mem (l : Nat) (f : OutFlit) (s : State) : (land l f s).mem = s.mem := land_only l f s .mem (by decide)
@[simp] theorem land_bank (l : Nat) (f : OutFlit) (s : State) : (land l f s).bank = s.bank := land_only l f s .bank (by decide)
@[simp] theorem land_arb (l : Nat) (f : OutFlit) (s : State) : (land l f s).arb = s.arb := land_only l f s .arb (by decide)
@[simp] theorem land_sq (l : Nat) (f : OutFlit) (s : State) : (land l f s).sq = s.sq := land_only l f s .sq (by decide)
@[simp] theorem land_tb (l : Nat) (f : OutFlit) (s : State) : (land l f s).tb = s.tb := land_only l f s .tb (by decide)
@[simp] theorem land_bl (l : Nat) (f : OutFlit) (s : State) : (land l f s).bl = s.bl := land_only l f s .bl (by decide)
@[simp] theorem land_hd (l : Nat) (f : OutFlit) (s : State) : (land l f s).hd = s.hd := land_only l f s .hd (by decide)
@[simp] theorem land_tm (l : Nat) (f : OutFlit) (s : State) : (land l f s).tm = s.tm := land_only l f s .tm (by decide)
@[simp] theorem land_tr (l : Nat) (f : OutFlit) (s : State) : (land l f s).tr = s.tr := land_only l f s .tr (by decide)
@[simp] theorem land_dbg (l : Nat) (f : OutFlit) (s : State) : (land l f s).dbg = s.dbg := land_only l f s .dbg (by decide)
@[simp] theorem land_fw (l : Nat) (f : OutFlit) (s : State) : (land l f s).fw = s.fw := land_only l f s .fw (by decide)
@[simp] theorem land_rx (l : Nat) (f : OutFlit) (s : State) : (land l f s).rx = s.rx := land_only l f s .rx (by decide)
@[simp] theorem land_pw (l : Nat) (f : OutFlit) (s : State) : (land l f s).pw = s.pw := land_only l f s .pw (by decide)
@[simp] theorem land_ck (l : Nat) (f : OutFlit) (s : State) : (land l f s).ck = s.ck := land_only l f s .ck (by decide)
@[simp] theorem land_pr (l : Nat) (f : OutFlit) (s : State) : (land l f s).pr = s.pr := land_only l f s .pr (by decide)
@[simp] theorem tallyAdd_pending (n t : Nat) (s : State) : (tallyAdd n t s).pending = s.pending := tallyAdd_only n t s .pending (by decide)
@[simp] theorem tallyAdd_cyc (n t : Nat) (s : State) : (tallyAdd n t s).cyc = s.cyc := tallyAdd_only n t s .cyc (by decide)
@[simp] theorem tallyAdd_free (n t : Nat) (s : State) : (tallyAdd n t s).free = s.free := tallyAdd_only n t s .free (by decide)
@[simp] theorem tallyAdd_cnt (n t : Nat) (s : State) : (tallyAdd n t s).cnt = s.cnt := tallyAdd_only n t s .cnt (by decide)
@[simp] theorem tallyAdd_xc (n t : Nat) (s : State) : (tallyAdd n t s).xc = s.xc := tallyAdd_only n t s .xc (by decide)
@[simp] theorem tallyAdd_bus (n t : Nat) (s : State) : (tallyAdd n t s).bus = s.bus := tallyAdd_only n t s .bus (by decide)
@[simp] theorem tallyAdd_mem (n t : Nat) (s : State) : (tallyAdd n t s).mem = s.mem := tallyAdd_only n t s .mem (by decide)
@[simp] theorem tallyAdd_bank (n t : Nat) (s : State) : (tallyAdd n t s).bank = s.bank := tallyAdd_only n t s .bank (by decide)
@[simp] theorem tallyAdd_fr (n t : Nat) (s : State) : (tallyAdd n t s).fr = s.fr := tallyAdd_only n t s .fr (by decide)
@[simp] theorem tallyAdd_arb (n t : Nat) (s : State) : (tallyAdd n t s).arb = s.arb := tallyAdd_only n t s .arb (by decide)
@[simp] theorem tallyAdd_sq (n t : Nat) (s : State) : (tallyAdd n t s).sq = s.sq := tallyAdd_only n t s .sq (by decide)
@[simp] theorem tallyAdd_tb (n t : Nat) (s : State) : (tallyAdd n t s).tb = s.tb := tallyAdd_only n t s .tb (by decide)
@[simp] theorem tallyAdd_bl (n t : Nat) (s : State) : (tallyAdd n t s).bl = s.bl := tallyAdd_only n t s .bl (by decide)
@[simp] theorem tallyAdd_hd (n t : Nat) (s : State) : (tallyAdd n t s).hd = s.hd := tallyAdd_only n t s .hd (by decide)
@[simp] theorem tallyAdd_tm (n t : Nat) (s : State) : (tallyAdd n t s).tm = s.tm := tallyAdd_only n t s .tm (by decide)
@[simp] theorem tallyAdd_tr (n t : Nat) (s : State) : (tallyAdd n t s).tr = s.tr := tallyAdd_only n t s .tr (by decide)
@[simp] theorem tallyAdd_dbg (n t : Nat) (s : State) : (tallyAdd n t s).dbg = s.dbg := tallyAdd_only n t s .dbg (by decide)
@[simp] theorem tallyAdd_fw (n t : Nat) (s : State) : (tallyAdd n t s).fw = s.fw := tallyAdd_only n t s .fw (by decide)
@[simp] theorem tallyAdd_rx (n t : Nat) (s : State) : (tallyAdd n t s).rx = s.rx := tallyAdd_only n t s .rx (by decide)
@[simp] theorem tallyAdd_pw (n t : Nat) (s : State) : (tallyAdd n t s).pw = s.pw := tallyAdd_only n t s .pw (by decide)
@[simp] theorem tallyAdd_ck (n t : Nat) (s : State) : (tallyAdd n t s).ck = s.ck := tallyAdd_only n t s .ck (by decide)
@[simp] theorem tallyAdd_pr (n t : Nat) (s : State) : (tallyAdd n t s).pr = s.pr := tallyAdd_only n t s .pr (by decide)
@[simp] theorem askSlots_pending (sid : Nat) (s : State) : (askSlots sid s).pending = s.pending := askSlots_only sid s .pending (by decide)
@[simp] theorem askSlots_cyc (sid : Nat) (s : State) : (askSlots sid s).cyc = s.cyc := askSlots_only sid s .cyc (by decide)
@[simp] theorem askSlots_free (sid : Nat) (s : State) : (askSlots sid s).free = s.free := askSlots_only sid s .free (by decide)
@[simp] theorem askSlots_regs (sid : Nat) (s : State) : (askSlots sid s).regs = s.regs := askSlots_only sid s .regs (by decide)
@[simp] theorem askSlots_cnt (sid : Nat) (s : State) : (askSlots sid s).cnt = s.cnt := askSlots_only sid s .cnt (by decide)
@[simp] theorem askSlots_xc (sid : Nat) (s : State) : (askSlots sid s).xc = s.xc := askSlots_only sid s .xc (by decide)
@[simp] theorem askSlots_bus (sid : Nat) (s : State) : (askSlots sid s).bus = s.bus := askSlots_only sid s .bus (by decide)
@[simp] theorem askSlots_mem (sid : Nat) (s : State) : (askSlots sid s).mem = s.mem := askSlots_only sid s .mem (by decide)
@[simp] theorem askSlots_bank (sid : Nat) (s : State) : (askSlots sid s).bank = s.bank := askSlots_only sid s .bank (by decide)
@[simp] theorem askSlots_fr (sid : Nat) (s : State) : (askSlots sid s).fr = s.fr := askSlots_only sid s .fr (by decide)
@[simp] theorem askSlots_arb (sid : Nat) (s : State) : (askSlots sid s).arb = s.arb := askSlots_only sid s .arb (by decide)
@[simp] theorem askSlots_tb (sid : Nat) (s : State) : (askSlots sid s).tb = s.tb := askSlots_only sid s .tb (by decide)
@[simp] theorem askSlots_hd (sid : Nat) (s : State) : (askSlots sid s).hd = s.hd := askSlots_only sid s .hd (by decide)
@[simp] theorem askSlots_tm (sid : Nat) (s : State) : (askSlots sid s).tm = s.tm := askSlots_only sid s .tm (by decide)
@[simp] theorem askSlots_tr (sid : Nat) (s : State) : (askSlots sid s).tr = s.tr := askSlots_only sid s .tr (by decide)
@[simp] theorem askSlots_dbg (sid : Nat) (s : State) : (askSlots sid s).dbg = s.dbg := askSlots_only sid s .dbg (by decide)
@[simp] theorem askSlots_fw (sid : Nat) (s : State) : (askSlots sid s).fw = s.fw := askSlots_only sid s .fw (by decide)
@[simp] theorem askSlots_rx (sid : Nat) (s : State) : (askSlots sid s).rx = s.rx := askSlots_only sid s .rx (by decide)
@[simp] theorem askSlots_pw (sid : Nat) (s : State) : (askSlots sid s).pw = s.pw := askSlots_only sid s .pw (by decide)
@[simp] theorem askSlots_ck (sid : Nat) (s : State) : (askSlots sid s).ck = s.ck := askSlots_only sid s .ck (by decide)
@[simp] theorem askSlots_pr (sid : Nat) (s : State) : (askSlots sid s).pr = s.pr := askSlots_only sid s .pr (by decide)
@[simp] theorem beginSlip_pending (x : Slip) (s : State) : (beginSlip x s).pending = s.pending := beginSlip_only x s .pending (by decide)
@[simp] theorem beginSlip_cyc (x : Slip) (s : State) : (beginSlip x s).cyc = s.cyc := beginSlip_only x s .cyc (by decide)
@[simp] theorem beginSlip_free (x : Slip) (s : State) : (beginSlip x s).free = s.free := beginSlip_only x s .free (by decide)
@[simp] theorem beginSlip_regs (x : Slip) (s : State) : (beginSlip x s).regs = s.regs := beginSlip_only x s .regs (by decide)
@[simp] theorem beginSlip_cnt (x : Slip) (s : State) : (beginSlip x s).cnt = s.cnt := beginSlip_only x s .cnt (by decide)
@[simp] theorem beginSlip_xc (x : Slip) (s : State) : (beginSlip x s).xc = s.xc := beginSlip_only x s .xc (by decide)
@[simp] theorem beginSlip_bus (x : Slip) (s : State) : (beginSlip x s).bus = s.bus := beginSlip_only x s .bus (by decide)
@[simp] theorem beginSlip_mem (x : Slip) (s : State) : (beginSlip x s).mem = s.mem := beginSlip_only x s .mem (by decide)
@[simp] theorem beginSlip_bank (x : Slip) (s : State) : (beginSlip x s).bank = s.bank := beginSlip_only x s .bank (by decide)
@[simp] theorem beginSlip_fr (x : Slip) (s : State) : (beginSlip x s).fr = s.fr := beginSlip_only x s .fr (by decide)
@[simp] theorem beginSlip_arb (x : Slip) (s : State) : (beginSlip x s).arb = s.arb := beginSlip_only x s .arb (by decide)
@[simp] theorem beginSlip_tb (x : Slip) (s : State) : (beginSlip x s).tb = s.tb := beginSlip_only x s .tb (by decide)
@[simp] theorem beginSlip_bl (x : Slip) (s : State) : (beginSlip x s).bl = s.bl := beginSlip_only x s .bl (by decide)
@[simp] theorem beginSlip_hd (x : Slip) (s : State) : (beginSlip x s).hd = s.hd := beginSlip_only x s .hd (by decide)
@[simp] theorem beginSlip_tm (x : Slip) (s : State) : (beginSlip x s).tm = s.tm := beginSlip_only x s .tm (by decide)
@[simp] theorem beginSlip_tr (x : Slip) (s : State) : (beginSlip x s).tr = s.tr := beginSlip_only x s .tr (by decide)
@[simp] theorem beginSlip_dbg (x : Slip) (s : State) : (beginSlip x s).dbg = s.dbg := beginSlip_only x s .dbg (by decide)
@[simp] theorem beginSlip_fw (x : Slip) (s : State) : (beginSlip x s).fw = s.fw := beginSlip_only x s .fw (by decide)
@[simp] theorem beginSlip_rx (x : Slip) (s : State) : (beginSlip x s).rx = s.rx := beginSlip_only x s .rx (by decide)
@[simp] theorem beginSlip_pw (x : Slip) (s : State) : (beginSlip x s).pw = s.pw := beginSlip_only x s .pw (by decide)
@[simp] theorem beginSlip_ck (x : Slip) (s : State) : (beginSlip x s).ck = s.ck := beginSlip_only x s .ck (by decide)
@[simp] theorem beginSlip_pr (x : Slip) (s : State) : (beginSlip x s).pr = s.pr := beginSlip_only x s .pr (by decide)
@[simp] theorem setWatch_pending (u : Nat) (w : Watch) (s : State) : (setWatch u w s).pending = s.pending := setWatch_only u w s .pending (by decide)
@[simp] theorem setWatch_cyc (u : Nat) (w : Watch) (s : State) : (setWatch u w s).cyc = s.cyc := setWatch_only u w s .cyc (by decide)
@[simp] theorem setWatch_free (u : Nat) (w : Watch) (s : State) : (setWatch u w s).free = s.free := setWatch_only u w s .free (by decide)
@[simp] theorem setWatch_regs (u : Nat) (w : Watch) (s : State) : (setWatch u w s).regs = s.regs := setWatch_only u w s .regs (by decide)
@[simp] theorem setWatch_cnt (u : Nat) (w : Watch) (s : State) : (setWatch u w s).cnt = s.cnt := setWatch_only u w s .cnt (by decide)
@[simp] theorem setWatch_xc (u : Nat) (w : Watch) (s : State) : (setWatch u w s).xc = s.xc := setWatch_only u w s .xc (by decide)
@[simp] theorem setWatch_bus (u : Nat) (w : Watch) (s : State) : (setWatch u w s).bus = s.bus := setWatch_only u w s .bus (by decide)
@[simp] theorem setWatch_mem (u : Nat) (w : Watch) (s : State) : (setWatch u w s).mem = s.mem := setWatch_only u w s .mem (by decide)
@[simp] theorem setWatch_bank (u : Nat) (w : Watch) (s : State) : (setWatch u w s).bank = s.bank := setWatch_only u w s .bank (by decide)
@[simp] theorem setWatch_fr (u : Nat) (w : Watch) (s : State) : (setWatch u w s).fr = s.fr := setWatch_only u w s .fr (by decide)
@[simp] theorem setWatch_arb (u : Nat) (w : Watch) (s : State) : (setWatch u w s).arb = s.arb := setWatch_only u w s .arb (by decide)
@[simp] theorem setWatch_sq (u : Nat) (w : Watch) (s : State) : (setWatch u w s).sq = s.sq := setWatch_only u w s .sq (by decide)
@[simp] theorem setWatch_tb (u : Nat) (w : Watch) (s : State) : (setWatch u w s).tb = s.tb := setWatch_only u w s .tb (by decide)
@[simp] theorem setWatch_bl (u : Nat) (w : Watch) (s : State) : (setWatch u w s).bl = s.bl := setWatch_only u w s .bl (by decide)
@[simp] theorem setWatch_hd (u : Nat) (w : Watch) (s : State) : (setWatch u w s).hd = s.hd := setWatch_only u w s .hd (by decide)
@[simp] theorem setWatch_tm (u : Nat) (w : Watch) (s : State) : (setWatch u w s).tm = s.tm := setWatch_only u w s .tm (by decide)
@[simp] theorem setWatch_tr (u : Nat) (w : Watch) (s : State) : (setWatch u w s).tr = s.tr := setWatch_only u w s .tr (by decide)
@[simp] theorem setWatch_fw (u : Nat) (w : Watch) (s : State) : (setWatch u w s).fw = s.fw := setWatch_only u w s .fw (by decide)
@[simp] theorem setWatch_rx (u : Nat) (w : Watch) (s : State) : (setWatch u w s).rx = s.rx := setWatch_only u w s .rx (by decide)
@[simp] theorem setWatch_pw (u : Nat) (w : Watch) (s : State) : (setWatch u w s).pw = s.pw := setWatch_only u w s .pw (by decide)
@[simp] theorem setWatch_ck (u : Nat) (w : Watch) (s : State) : (setWatch u w s).ck = s.ck := setWatch_only u w s .ck (by decide)
@[simp] theorem setWatch_pr (u : Nat) (w : Watch) (s : State) : (setWatch u w s).pr = s.pr := setWatch_only u w s .pr (by decide)
@[simp] theorem setSeal_pending (l : Nat) (x : Seal) (s : State) : (setSeal l x s).pending = s.pending := setSeal_only l x s .pending (by decide)
@[simp] theorem setSeal_cyc (l : Nat) (x : Seal) (s : State) : (setSeal l x s).cyc = s.cyc := setSeal_only l x s .cyc (by decide)
@[simp] theorem setSeal_free (l : Nat) (x : Seal) (s : State) : (setSeal l x s).free = s.free := setSeal_only l x s .free (by decide)
@[simp] theorem setSeal_regs (l : Nat) (x : Seal) (s : State) : (setSeal l x s).regs = s.regs := setSeal_only l x s .regs (by decide)
@[simp] theorem setSeal_cnt (l : Nat) (x : Seal) (s : State) : (setSeal l x s).cnt = s.cnt := setSeal_only l x s .cnt (by decide)
@[simp] theorem setSeal_xc (l : Nat) (x : Seal) (s : State) : (setSeal l x s).xc = s.xc := setSeal_only l x s .xc (by decide)
@[simp] theorem setSeal_bus (l : Nat) (x : Seal) (s : State) : (setSeal l x s).bus = s.bus := setSeal_only l x s .bus (by decide)
@[simp] theorem setSeal_mem (l : Nat) (x : Seal) (s : State) : (setSeal l x s).mem = s.mem := setSeal_only l x s .mem (by decide)
@[simp] theorem setSeal_bank (l : Nat) (x : Seal) (s : State) : (setSeal l x s).bank = s.bank := setSeal_only l x s .bank (by decide)
@[simp] theorem setSeal_fr (l : Nat) (x : Seal) (s : State) : (setSeal l x s).fr = s.fr := setSeal_only l x s .fr (by decide)
@[simp] theorem setSeal_arb (l : Nat) (x : Seal) (s : State) : (setSeal l x s).arb = s.arb := setSeal_only l x s .arb (by decide)
@[simp] theorem setSeal_sq (l : Nat) (x : Seal) (s : State) : (setSeal l x s).sq = s.sq := setSeal_only l x s .sq (by decide)
@[simp] theorem setSeal_tb (l : Nat) (x : Seal) (s : State) : (setSeal l x s).tb = s.tb := setSeal_only l x s .tb (by decide)
@[simp] theorem setSeal_bl (l : Nat) (x : Seal) (s : State) : (setSeal l x s).bl = s.bl := setSeal_only l x s .bl (by decide)
@[simp] theorem setSeal_hd (l : Nat) (x : Seal) (s : State) : (setSeal l x s).hd = s.hd := setSeal_only l x s .hd (by decide)
@[simp] theorem setSeal_tm (l : Nat) (x : Seal) (s : State) : (setSeal l x s).tm = s.tm := setSeal_only l x s .tm (by decide)
@[simp] theorem setSeal_tr (l : Nat) (x : Seal) (s : State) : (setSeal l x s).tr = s.tr := setSeal_only l x s .tr (by decide)
@[simp] theorem setSeal_dbg (l : Nat) (x : Seal) (s : State) : (setSeal l x s).dbg = s.dbg := setSeal_only l x s .dbg (by decide)
@[simp] theorem setSeal_fw (l : Nat) (x : Seal) (s : State) : (setSeal l x s).fw = s.fw := setSeal_only l x s .fw (by decide)
@[simp] theorem setSeal_rx (l : Nat) (x : Seal) (s : State) : (setSeal l x s).rx = s.rx := setSeal_only l x s .rx (by decide)
@[simp] theorem setSeal_pw (l : Nat) (x : Seal) (s : State) : (setSeal l x s).pw = s.pw := setSeal_only l x s .pw (by decide)
@[simp] theorem setSeal_ck (l : Nat) (x : Seal) (s : State) : (setSeal l x s).ck = s.ck := setSeal_only l x s .ck (by decide)
@[simp] theorem setProtState_pending (n : Nat) (s : State) : (setProtState n s).pending = s.pending := setProtState_only n s .pending (by decide)
@[simp] theorem setProtState_cyc (n : Nat) (s : State) : (setProtState n s).cyc = s.cyc := setProtState_only n s .cyc (by decide)
@[simp] theorem setProtState_free (n : Nat) (s : State) : (setProtState n s).free = s.free := setProtState_only n s .free (by decide)
@[simp] theorem setProtState_cnt (n : Nat) (s : State) : (setProtState n s).cnt = s.cnt := setProtState_only n s .cnt (by decide)
@[simp] theorem setProtState_xc (n : Nat) (s : State) : (setProtState n s).xc = s.xc := setProtState_only n s .xc (by decide)
@[simp] theorem setProtState_bus (n : Nat) (s : State) : (setProtState n s).bus = s.bus := setProtState_only n s .bus (by decide)
@[simp] theorem setProtState_mem (n : Nat) (s : State) : (setProtState n s).mem = s.mem := setProtState_only n s .mem (by decide)
@[simp] theorem setProtState_bank (n : Nat) (s : State) : (setProtState n s).bank = s.bank := setProtState_only n s .bank (by decide)
@[simp] theorem setProtState_fr (n : Nat) (s : State) : (setProtState n s).fr = s.fr := setProtState_only n s .fr (by decide)
@[simp] theorem setProtState_arb (n : Nat) (s : State) : (setProtState n s).arb = s.arb := setProtState_only n s .arb (by decide)
@[simp] theorem setProtState_sq (n : Nat) (s : State) : (setProtState n s).sq = s.sq := setProtState_only n s .sq (by decide)
@[simp] theorem setProtState_tb (n : Nat) (s : State) : (setProtState n s).tb = s.tb := setProtState_only n s .tb (by decide)
@[simp] theorem setProtState_bl (n : Nat) (s : State) : (setProtState n s).bl = s.bl := setProtState_only n s .bl (by decide)
@[simp] theorem setProtState_hd (n : Nat) (s : State) : (setProtState n s).hd = s.hd := setProtState_only n s .hd (by decide)
@[simp] theorem setProtState_tm (n : Nat) (s : State) : (setProtState n s).tm = s.tm := setProtState_only n s .tm (by decide)
@[simp] theorem setProtState_tr (n : Nat) (s : State) : (setProtState n s).tr = s.tr := setProtState_only n s .tr (by decide)
@[simp] theorem setProtState_dbg (n : Nat) (s : State) : (setProtState n s).dbg = s.dbg := setProtState_only n s .dbg (by decide)
@[simp] theorem setProtState_fw (n : Nat) (s : State) : (setProtState n s).fw = s.fw := setProtState_only n s .fw (by decide)
@[simp] theorem setProtState_rx (n : Nat) (s : State) : (setProtState n s).rx = s.rx := setProtState_only n s .rx (by decide)
@[simp] theorem setProtState_pw (n : Nat) (s : State) : (setProtState n s).pw = s.pw := setProtState_only n s .pw (by decide)
@[simp] theorem setProtState_ck (n : Nat) (s : State) : (setProtState n s).ck = s.ck := setProtState_only n s .ck (by decide)
@[simp] theorem pushAck_pending (seq : Nat) (sup err : Bool) (s : State) : (pushAck seq sup err s).pending = s.pending := pushAck_only seq sup err s .pending (by decide)
@[simp] theorem pushAck_cyc (seq : Nat) (sup err : Bool) (s : State) : (pushAck seq sup err s).cyc = s.cyc := pushAck_only seq sup err s .cyc (by decide)
@[simp] theorem pushAck_free (seq : Nat) (sup err : Bool) (s : State) : (pushAck seq sup err s).free = s.free := pushAck_only seq sup err s .free (by decide)
@[simp] theorem pushAck_regs (seq : Nat) (sup err : Bool) (s : State) : (pushAck seq sup err s).regs = s.regs := pushAck_only seq sup err s .regs (by decide)
@[simp] theorem pushAck_cnt (seq : Nat) (sup err : Bool) (s : State) : (pushAck seq sup err s).cnt = s.cnt := pushAck_only seq sup err s .cnt (by decide)
@[simp] theorem pushAck_xc (seq : Nat) (sup err : Bool) (s : State) : (pushAck seq sup err s).xc = s.xc := pushAck_only seq sup err s .xc (by decide)
@[simp] theorem pushAck_bus (seq : Nat) (sup err : Bool) (s : State) : (pushAck seq sup err s).bus = s.bus := pushAck_only seq sup err s .bus (by decide)
@[simp] theorem pushAck_mem (seq : Nat) (sup err : Bool) (s : State) : (pushAck seq sup err s).mem = s.mem := pushAck_only seq sup err s .mem (by decide)
@[simp] theorem pushAck_bank (seq : Nat) (sup err : Bool) (s : State) : (pushAck seq sup err s).bank = s.bank := pushAck_only seq sup err s .bank (by decide)
@[simp] theorem pushAck_fr (seq : Nat) (sup err : Bool) (s : State) : (pushAck seq sup err s).fr = s.fr := pushAck_only seq sup err s .fr (by decide)
@[simp] theorem pushAck_arb (seq : Nat) (sup err : Bool) (s : State) : (pushAck seq sup err s).arb = s.arb := pushAck_only seq sup err s .arb (by decide)
@[simp] theorem pushAck_sq (seq : Nat) (sup err : Bool) (s : State) : (pushAck seq sup err s).sq = s.sq := pushAck_only seq sup err s .sq (by decide)
@[simp] theorem pushAck_tb (seq : Nat) (sup err : Bool) (s : State) : (pushAck seq sup err s).tb = s.tb := pushAck_only seq sup err s .tb (by decide)
@[simp] theorem pushAck_bl (seq : Nat) (sup err : Bool) (s : State) : (pushAck seq sup err s).bl = s.bl := pushAck_only seq sup err s .bl (by decide)
@[simp] theorem pushAck_hd (seq : Nat) (sup err : Bool) (s : State) : (pushAck seq sup err s).hd = s.hd := pushAck_only seq sup err s .hd (by decide)
@[simp] theorem pushAck_tm (seq : Nat) (sup err : Bool) (s : State) : (pushAck seq sup err s).tm = s.tm := pushAck_only seq sup err s .tm (by decide)
@[simp] theorem pushAck_tr (seq : Nat) (sup err : Bool) (s : State) : (pushAck seq sup err s).tr = s.tr := pushAck_only seq sup err s .tr (by decide)
@[simp] theorem pushAck_dbg (seq : Nat) (sup err : Bool) (s : State) : (pushAck seq sup err s).dbg = s.dbg := pushAck_only seq sup err s .dbg (by decide)
@[simp] theorem pushAck_fw (seq : Nat) (sup err : Bool) (s : State) : (pushAck seq sup err s).fw = s.fw := pushAck_only seq sup err s .fw (by decide)
@[simp] theorem pushAck_rx (seq : Nat) (sup err : Bool) (s : State) : (pushAck seq sup err s).rx = s.rx := pushAck_only seq sup err s .rx (by decide)
@[simp] theorem pushAck_ck (seq : Nat) (sup err : Bool) (s : State) : (pushAck seq sup err s).ck = s.ck := pushAck_only seq sup err s .ck (by decide)
@[simp] theorem pushAck_pr (seq : Nat) (sup err : Bool) (s : State) : (pushAck seq sup err s).pr = s.pr := pushAck_only seq sup err s .pr (by decide)
@[simp] theorem commandError_pending (s : State) : (commandError s).pending = s.pending := commandError_only s .pending (by decide)
@[simp] theorem commandError_cyc (s : State) : (commandError s).cyc = s.cyc := commandError_only s .cyc (by decide)
@[simp] theorem commandError_free (s : State) : (commandError s).free = s.free := commandError_only s .free (by decide)
@[simp] theorem commandError_cnt (s : State) : (commandError s).cnt = s.cnt := commandError_only s .cnt (by decide)
@[simp] theorem commandError_xc (s : State) : (commandError s).xc = s.xc := commandError_only s .xc (by decide)
@[simp] theorem commandError_bus (s : State) : (commandError s).bus = s.bus := commandError_only s .bus (by decide)
@[simp] theorem commandError_mem (s : State) : (commandError s).mem = s.mem := commandError_only s .mem (by decide)
@[simp] theorem commandError_bank (s : State) : (commandError s).bank = s.bank := commandError_only s .bank (by decide)
@[simp] theorem commandError_fr (s : State) : (commandError s).fr = s.fr := commandError_only s .fr (by decide)
@[simp] theorem commandError_arb (s : State) : (commandError s).arb = s.arb := commandError_only s .arb (by decide)
@[simp] theorem commandError_sq (s : State) : (commandError s).sq = s.sq := commandError_only s .sq (by decide)
@[simp] theorem commandError_tb (s : State) : (commandError s).tb = s.tb := commandError_only s .tb (by decide)
@[simp] theorem commandError_bl (s : State) : (commandError s).bl = s.bl := commandError_only s .bl (by decide)
@[simp] theorem commandError_hd (s : State) : (commandError s).hd = s.hd := commandError_only s .hd (by decide)
@[simp] theorem commandError_tm (s : State) : (commandError s).tm = s.tm := commandError_only s .tm (by decide)
@[simp] theorem commandError_fw (s : State) : (commandError s).fw = s.fw := commandError_only s .fw (by decide)
@[simp] theorem commandError_rx (s : State) : (commandError s).rx = s.rx := commandError_only s .rx (by decide)
@[simp] theorem commandError_pw (s : State) : (commandError s).pw = s.pw := commandError_only s .pw (by decide)
@[simp] theorem commandError_ck (s : State) : (commandError s).ck = s.ck := commandError_only s .ck (by decide)
@[simp] theorem commandError_pr (s : State) : (commandError s).pr = s.pr := commandError_only s .pr (by decide)
@[simp] theorem fwdDone_pending (kind : Nat) (nospare : Bool) (from_ dest trig : Nat) (s : State) : (fwdDone kind nospare from_ dest trig s).pending = s.pending := fwdDone_only kind nospare from_ dest trig s .pending (by decide)
@[simp] theorem fwdDone_cyc (kind : Nat) (nospare : Bool) (from_ dest trig : Nat) (s : State) : (fwdDone kind nospare from_ dest trig s).cyc = s.cyc := fwdDone_only kind nospare from_ dest trig s .cyc (by decide)
@[simp] theorem fwdDone_free (kind : Nat) (nospare : Bool) (from_ dest trig : Nat) (s : State) : (fwdDone kind nospare from_ dest trig s).free = s.free := fwdDone_only kind nospare from_ dest trig s .free (by decide)
@[simp] theorem fwdDone_cnt (kind : Nat) (nospare : Bool) (from_ dest trig : Nat) (s : State) : (fwdDone kind nospare from_ dest trig s).cnt = s.cnt := fwdDone_only kind nospare from_ dest trig s .cnt (by decide)
@[simp] theorem fwdDone_xc (kind : Nat) (nospare : Bool) (from_ dest trig : Nat) (s : State) : (fwdDone kind nospare from_ dest trig s).xc = s.xc := fwdDone_only kind nospare from_ dest trig s .xc (by decide)
@[simp] theorem fwdDone_bus (kind : Nat) (nospare : Bool) (from_ dest trig : Nat) (s : State) : (fwdDone kind nospare from_ dest trig s).bus = s.bus := fwdDone_only kind nospare from_ dest trig s .bus (by decide)
@[simp] theorem fwdDone_mem (kind : Nat) (nospare : Bool) (from_ dest trig : Nat) (s : State) : (fwdDone kind nospare from_ dest trig s).mem = s.mem := fwdDone_only kind nospare from_ dest trig s .mem (by decide)
@[simp] theorem fwdDone_bank (kind : Nat) (nospare : Bool) (from_ dest trig : Nat) (s : State) : (fwdDone kind nospare from_ dest trig s).bank = s.bank := fwdDone_only kind nospare from_ dest trig s .bank (by decide)
@[simp] theorem fwdDone_fr (kind : Nat) (nospare : Bool) (from_ dest trig : Nat) (s : State) : (fwdDone kind nospare from_ dest trig s).fr = s.fr := fwdDone_only kind nospare from_ dest trig s .fr (by decide)
@[simp] theorem fwdDone_arb (kind : Nat) (nospare : Bool) (from_ dest trig : Nat) (s : State) : (fwdDone kind nospare from_ dest trig s).arb = s.arb := fwdDone_only kind nospare from_ dest trig s .arb (by decide)
@[simp] theorem fwdDone_sq (kind : Nat) (nospare : Bool) (from_ dest trig : Nat) (s : State) : (fwdDone kind nospare from_ dest trig s).sq = s.sq := fwdDone_only kind nospare from_ dest trig s .sq (by decide)
@[simp] theorem fwdDone_tb (kind : Nat) (nospare : Bool) (from_ dest trig : Nat) (s : State) : (fwdDone kind nospare from_ dest trig s).tb = s.tb := fwdDone_only kind nospare from_ dest trig s .tb (by decide)
@[simp] theorem fwdDone_bl (kind : Nat) (nospare : Bool) (from_ dest trig : Nat) (s : State) : (fwdDone kind nospare from_ dest trig s).bl = s.bl := fwdDone_only kind nospare from_ dest trig s .bl (by decide)
@[simp] theorem fwdDone_hd (kind : Nat) (nospare : Bool) (from_ dest trig : Nat) (s : State) : (fwdDone kind nospare from_ dest trig s).hd = s.hd := fwdDone_only kind nospare from_ dest trig s .hd (by decide)
@[simp] theorem fwdDone_tm (kind : Nat) (nospare : Bool) (from_ dest trig : Nat) (s : State) : (fwdDone kind nospare from_ dest trig s).tm = s.tm := fwdDone_only kind nospare from_ dest trig s .tm (by decide)
@[simp] theorem fwdDone_rx (kind : Nat) (nospare : Bool) (from_ dest trig : Nat) (s : State) : (fwdDone kind nospare from_ dest trig s).rx = s.rx := fwdDone_only kind nospare from_ dest trig s .rx (by decide)
@[simp] theorem fwdDone_pw (kind : Nat) (nospare : Bool) (from_ dest trig : Nat) (s : State) : (fwdDone kind nospare from_ dest trig s).pw = s.pw := fwdDone_only kind nospare from_ dest trig s .pw (by decide)
@[simp] theorem fwdDone_ck (kind : Nat) (nospare : Bool) (from_ dest trig : Nat) (s : State) : (fwdDone kind nospare from_ dest trig s).ck = s.ck := fwdDone_only kind nospare from_ dest trig s .ck (by decide)
@[simp] theorem fwdDone_pr (kind : Nat) (nospare : Bool) (from_ dest trig : Nat) (s : State) : (fwdDone kind nospare from_ dest trig s).pr = s.pr := fwdDone_only kind nospare from_ dest trig s .pr (by decide)
@[simp] theorem takeHeld_pending (s : State) : (takeHeld s).pending = s.pending := takeHeld_only s .pending (by decide)
@[simp] theorem takeHeld_cyc (s : State) : (takeHeld s).cyc = s.cyc := takeHeld_only s .cyc (by decide)
@[simp] theorem takeHeld_free (s : State) : (takeHeld s).free = s.free := takeHeld_only s .free (by decide)
@[simp] theorem takeHeld_cnt (s : State) : (takeHeld s).cnt = s.cnt := takeHeld_only s .cnt (by decide)
@[simp] theorem takeHeld_xc (s : State) : (takeHeld s).xc = s.xc := takeHeld_only s .xc (by decide)
@[simp] theorem takeHeld_bus (s : State) : (takeHeld s).bus = s.bus := takeHeld_only s .bus (by decide)
@[simp] theorem takeHeld_mem (s : State) : (takeHeld s).mem = s.mem := takeHeld_only s .mem (by decide)
@[simp] theorem takeHeld_bank (s : State) : (takeHeld s).bank = s.bank := takeHeld_only s .bank (by decide)
@[simp] theorem takeHeld_fr (s : State) : (takeHeld s).fr = s.fr := takeHeld_only s .fr (by decide)
@[simp] theorem takeHeld_arb (s : State) : (takeHeld s).arb = s.arb := takeHeld_only s .arb (by decide)
@[simp] theorem takeHeld_sq (s : State) : (takeHeld s).sq = s.sq := takeHeld_only s .sq (by decide)
@[simp] theorem takeHeld_tb (s : State) : (takeHeld s).tb = s.tb := takeHeld_only s .tb (by decide)
@[simp] theorem takeHeld_bl (s : State) : (takeHeld s).bl = s.bl := takeHeld_only s .bl (by decide)
@[simp] theorem takeHeld_hd (s : State) : (takeHeld s).hd = s.hd := takeHeld_only s .hd (by decide)
@[simp] theorem takeHeld_tm (s : State) : (takeHeld s).tm = s.tm := takeHeld_only s .tm (by decide)
@[simp] theorem takeHeld_fw (s : State) : (takeHeld s).fw = s.fw := takeHeld_only s .fw (by decide)
@[simp] theorem takeHeld_rx (s : State) : (takeHeld s).rx = s.rx := takeHeld_only s .rx (by decide)
@[simp] theorem takeHeld_ck (s : State) : (takeHeld s).ck = s.ck := takeHeld_only s .ck (by decide)
@[simp] theorem takeHeld_pr (s : State) : (takeHeld s).pr = s.pr := takeHeld_only s .pr (by decide)
@[simp] theorem autowake_pending (lb : Nat) (s : State) : (autowake lb s).pending = s.pending := autowake_only lb s .pending (by decide)
@[simp] theorem autowake_cyc (lb : Nat) (s : State) : (autowake lb s).cyc = s.cyc := autowake_only lb s .cyc (by decide)
@[simp] theorem autowake_free (lb : Nat) (s : State) : (autowake lb s).free = s.free := autowake_only lb s .free (by decide)
@[simp] theorem autowake_regs (lb : Nat) (s : State) : (autowake lb s).regs = s.regs := autowake_only lb s .regs (by decide)
@[simp] theorem autowake_cnt (lb : Nat) (s : State) : (autowake lb s).cnt = s.cnt := autowake_only lb s .cnt (by decide)
@[simp] theorem autowake_xc (lb : Nat) (s : State) : (autowake lb s).xc = s.xc := autowake_only lb s .xc (by decide)
@[simp] theorem autowake_bus (lb : Nat) (s : State) : (autowake lb s).bus = s.bus := autowake_only lb s .bus (by decide)
@[simp] theorem autowake_mem (lb : Nat) (s : State) : (autowake lb s).mem = s.mem := autowake_only lb s .mem (by decide)
@[simp] theorem autowake_fr (lb : Nat) (s : State) : (autowake lb s).fr = s.fr := autowake_only lb s .fr (by decide)
@[simp] theorem autowake_arb (lb : Nat) (s : State) : (autowake lb s).arb = s.arb := autowake_only lb s .arb (by decide)
@[simp] theorem autowake_sq (lb : Nat) (s : State) : (autowake lb s).sq = s.sq := autowake_only lb s .sq (by decide)
@[simp] theorem autowake_tb (lb : Nat) (s : State) : (autowake lb s).tb = s.tb := autowake_only lb s .tb (by decide)
@[simp] theorem autowake_bl (lb : Nat) (s : State) : (autowake lb s).bl = s.bl := autowake_only lb s .bl (by decide)
@[simp] theorem autowake_hd (lb : Nat) (s : State) : (autowake lb s).hd = s.hd := autowake_only lb s .hd (by decide)
@[simp] theorem autowake_tm (lb : Nat) (s : State) : (autowake lb s).tm = s.tm := autowake_only lb s .tm (by decide)
@[simp] theorem autowake_tr (lb : Nat) (s : State) : (autowake lb s).tr = s.tr := autowake_only lb s .tr (by decide)
@[simp] theorem autowake_dbg (lb : Nat) (s : State) : (autowake lb s).dbg = s.dbg := autowake_only lb s .dbg (by decide)
@[simp] theorem autowake_fw (lb : Nat) (s : State) : (autowake lb s).fw = s.fw := autowake_only lb s .fw (by decide)
@[simp] theorem autowake_rx (lb : Nat) (s : State) : (autowake lb s).rx = s.rx := autowake_only lb s .rx (by decide)
@[simp] theorem autowake_pw (lb : Nat) (s : State) : (autowake lb s).pw = s.pw := autowake_only lb s .pw (by decide)
@[simp] theorem autowake_ck (lb : Nat) (s : State) : (autowake lb s).ck = s.ck := autowake_only lb s .ck (by decide)
@[simp] theorem autowake_pr (lb : Nat) (s : State) : (autowake lb s).pr = s.pr := autowake_only lb s .pr (by decide)
@[simp] theorem storeChunk_pending (pb row c : Nat) (data : BitVec 256) (pois : Bool) (s : State) : (storeChunk pb row c data pois s).pending = s.pending := storeChunk_only pb row c data pois s .pending (by decide)
@[simp] theorem storeChunk_cyc (pb row c : Nat) (data : BitVec 256) (pois : Bool) (s : State) : (storeChunk pb row c data pois s).cyc = s.cyc := storeChunk_only pb row c data pois s .cyc (by decide)
@[simp] theorem storeChunk_free (pb row c : Nat) (data : BitVec 256) (pois : Bool) (s : State) : (storeChunk pb row c data pois s).free = s.free := storeChunk_only pb row c data pois s .free (by decide)
@[simp] theorem storeChunk_regs (pb row c : Nat) (data : BitVec 256) (pois : Bool) (s : State) : (storeChunk pb row c data pois s).regs = s.regs := storeChunk_only pb row c data pois s .regs (by decide)
@[simp] theorem storeChunk_cnt (pb row c : Nat) (data : BitVec 256) (pois : Bool) (s : State) : (storeChunk pb row c data pois s).cnt = s.cnt := storeChunk_only pb row c data pois s .cnt (by decide)
@[simp] theorem storeChunk_xc (pb row c : Nat) (data : BitVec 256) (pois : Bool) (s : State) : (storeChunk pb row c data pois s).xc = s.xc := storeChunk_only pb row c data pois s .xc (by decide)
@[simp] theorem storeChunk_bus (pb row c : Nat) (data : BitVec 256) (pois : Bool) (s : State) : (storeChunk pb row c data pois s).bus = s.bus := storeChunk_only pb row c data pois s .bus (by decide)
@[simp] theorem storeChunk_fr (pb row c : Nat) (data : BitVec 256) (pois : Bool) (s : State) : (storeChunk pb row c data pois s).fr = s.fr := storeChunk_only pb row c data pois s .fr (by decide)
@[simp] theorem storeChunk_arb (pb row c : Nat) (data : BitVec 256) (pois : Bool) (s : State) : (storeChunk pb row c data pois s).arb = s.arb := storeChunk_only pb row c data pois s .arb (by decide)
@[simp] theorem storeChunk_sq (pb row c : Nat) (data : BitVec 256) (pois : Bool) (s : State) : (storeChunk pb row c data pois s).sq = s.sq := storeChunk_only pb row c data pois s .sq (by decide)
@[simp] theorem storeChunk_tb (pb row c : Nat) (data : BitVec 256) (pois : Bool) (s : State) : (storeChunk pb row c data pois s).tb = s.tb := storeChunk_only pb row c data pois s .tb (by decide)
@[simp] theorem storeChunk_bl (pb row c : Nat) (data : BitVec 256) (pois : Bool) (s : State) : (storeChunk pb row c data pois s).bl = s.bl := storeChunk_only pb row c data pois s .bl (by decide)
@[simp] theorem storeChunk_hd (pb row c : Nat) (data : BitVec 256) (pois : Bool) (s : State) : (storeChunk pb row c data pois s).hd = s.hd := storeChunk_only pb row c data pois s .hd (by decide)
@[simp] theorem storeChunk_tm (pb row c : Nat) (data : BitVec 256) (pois : Bool) (s : State) : (storeChunk pb row c data pois s).tm = s.tm := storeChunk_only pb row c data pois s .tm (by decide)
@[simp] theorem storeChunk_tr (pb row c : Nat) (data : BitVec 256) (pois : Bool) (s : State) : (storeChunk pb row c data pois s).tr = s.tr := storeChunk_only pb row c data pois s .tr (by decide)
@[simp] theorem storeChunk_dbg (pb row c : Nat) (data : BitVec 256) (pois : Bool) (s : State) : (storeChunk pb row c data pois s).dbg = s.dbg := storeChunk_only pb row c data pois s .dbg (by decide)
@[simp] theorem storeChunk_fw (pb row c : Nat) (data : BitVec 256) (pois : Bool) (s : State) : (storeChunk pb row c data pois s).fw = s.fw := storeChunk_only pb row c data pois s .fw (by decide)
@[simp] theorem storeChunk_rx (pb row c : Nat) (data : BitVec 256) (pois : Bool) (s : State) : (storeChunk pb row c data pois s).rx = s.rx := storeChunk_only pb row c data pois s .rx (by decide)
@[simp] theorem storeChunk_pw (pb row c : Nat) (data : BitVec 256) (pois : Bool) (s : State) : (storeChunk pb row c data pois s).pw = s.pw := storeChunk_only pb row c data pois s .pw (by decide)
@[simp] theorem storeChunk_ck (pb row c : Nat) (data : BitVec 256) (pois : Bool) (s : State) : (storeChunk pb row c data pois s).ck = s.ck := storeChunk_only pb row c data pois s .ck (by decide)
@[simp] theorem storeChunk_pr (pb row c : Nat) (data : BitVec 256) (pois : Bool) (s : State) : (storeChunk pb row c data pois s).pr = s.pr := storeChunk_only pb row c data pois s .pr (by decide)
@[simp] theorem keepUndo_pending (t seen pb row en : Nat) (port : Bool) (s : State) : (keepUndo t seen pb row en port s).pending = s.pending := keepUndo_only t seen pb row en port s .pending (by decide)
@[simp] theorem keepUndo_cyc (t seen pb row en : Nat) (port : Bool) (s : State) : (keepUndo t seen pb row en port s).cyc = s.cyc := keepUndo_only t seen pb row en port s .cyc (by decide)
@[simp] theorem keepUndo_free (t seen pb row en : Nat) (port : Bool) (s : State) : (keepUndo t seen pb row en port s).free = s.free := keepUndo_only t seen pb row en port s .free (by decide)
@[simp] theorem keepUndo_regs (t seen pb row en : Nat) (port : Bool) (s : State) : (keepUndo t seen pb row en port s).regs = s.regs := keepUndo_only t seen pb row en port s .regs (by decide)
@[simp] theorem keepUndo_cnt (t seen pb row en : Nat) (port : Bool) (s : State) : (keepUndo t seen pb row en port s).cnt = s.cnt := keepUndo_only t seen pb row en port s .cnt (by decide)
@[simp] theorem keepUndo_xc (t seen pb row en : Nat) (port : Bool) (s : State) : (keepUndo t seen pb row en port s).xc = s.xc := keepUndo_only t seen pb row en port s .xc (by decide)
@[simp] theorem keepUndo_bus (t seen pb row en : Nat) (port : Bool) (s : State) : (keepUndo t seen pb row en port s).bus = s.bus := keepUndo_only t seen pb row en port s .bus (by decide)
@[simp] theorem keepUndo_mem (t seen pb row en : Nat) (port : Bool) (s : State) : (keepUndo t seen pb row en port s).mem = s.mem := keepUndo_only t seen pb row en port s .mem (by decide)
@[simp] theorem keepUndo_fr (t seen pb row en : Nat) (port : Bool) (s : State) : (keepUndo t seen pb row en port s).fr = s.fr := keepUndo_only t seen pb row en port s .fr (by decide)
@[simp] theorem keepUndo_arb (t seen pb row en : Nat) (port : Bool) (s : State) : (keepUndo t seen pb row en port s).arb = s.arb := keepUndo_only t seen pb row en port s .arb (by decide)
@[simp] theorem keepUndo_sq (t seen pb row en : Nat) (port : Bool) (s : State) : (keepUndo t seen pb row en port s).sq = s.sq := keepUndo_only t seen pb row en port s .sq (by decide)
@[simp] theorem keepUndo_tb (t seen pb row en : Nat) (port : Bool) (s : State) : (keepUndo t seen pb row en port s).tb = s.tb := keepUndo_only t seen pb row en port s .tb (by decide)
@[simp] theorem keepUndo_bl (t seen pb row en : Nat) (port : Bool) (s : State) : (keepUndo t seen pb row en port s).bl = s.bl := keepUndo_only t seen pb row en port s .bl (by decide)
@[simp] theorem keepUndo_hd (t seen pb row en : Nat) (port : Bool) (s : State) : (keepUndo t seen pb row en port s).hd = s.hd := keepUndo_only t seen pb row en port s .hd (by decide)
@[simp] theorem keepUndo_tm (t seen pb row en : Nat) (port : Bool) (s : State) : (keepUndo t seen pb row en port s).tm = s.tm := keepUndo_only t seen pb row en port s .tm (by decide)
@[simp] theorem keepUndo_tr (t seen pb row en : Nat) (port : Bool) (s : State) : (keepUndo t seen pb row en port s).tr = s.tr := keepUndo_only t seen pb row en port s .tr (by decide)
@[simp] theorem keepUndo_dbg (t seen pb row en : Nat) (port : Bool) (s : State) : (keepUndo t seen pb row en port s).dbg = s.dbg := keepUndo_only t seen pb row en port s .dbg (by decide)
@[simp] theorem keepUndo_fw (t seen pb row en : Nat) (port : Bool) (s : State) : (keepUndo t seen pb row en port s).fw = s.fw := keepUndo_only t seen pb row en port s .fw (by decide)
@[simp] theorem keepUndo_rx (t seen pb row en : Nat) (port : Bool) (s : State) : (keepUndo t seen pb row en port s).rx = s.rx := keepUndo_only t seen pb row en port s .rx (by decide)
@[simp] theorem keepUndo_pw (t seen pb row en : Nat) (port : Bool) (s : State) : (keepUndo t seen pb row en port s).pw = s.pw := keepUndo_only t seen pb row en port s .pw (by decide)
@[simp] theorem keepUndo_ck (t seen pb row en : Nat) (port : Bool) (s : State) : (keepUndo t seen pb row en port s).ck = s.ck := keepUndo_only t seen pb row en port s .ck (by decide)
@[simp] theorem keepUndo_pr (t seen pb row en : Nat) (port : Bool) (s : State) : (keepUndo t seen pb row en port s).pr = s.pr := keepUndo_only t seen pb row en port s .pr (by decide)
@[simp] theorem endSlip_pending (sid : Nat) (s : State) : (endSlip sid s).pending = s.pending := endSlip_only sid s .pending (by decide)
@[simp] theorem endSlip_cyc (sid : Nat) (s : State) : (endSlip sid s).cyc = s.cyc := endSlip_only sid s .cyc (by decide)
@[simp] theorem endSlip_free (sid : Nat) (s : State) : (endSlip sid s).free = s.free := endSlip_only sid s .free (by decide)
@[simp] theorem endSlip_bus (sid : Nat) (s : State) : (endSlip sid s).bus = s.bus := endSlip_only sid s .bus (by decide)
@[simp] theorem endSlip_mem (sid : Nat) (s : State) : (endSlip sid s).mem = s.mem := endSlip_only sid s .mem (by decide)
@[simp] theorem endSlip_bank (sid : Nat) (s : State) : (endSlip sid s).bank = s.bank := endSlip_only sid s .bank (by decide)
@[simp] theorem endSlip_arb (sid : Nat) (s : State) : (endSlip sid s).arb = s.arb := endSlip_only sid s .arb (by decide)
@[simp] theorem endSlip_tb (sid : Nat) (s : State) : (endSlip sid s).tb = s.tb := endSlip_only sid s .tb (by decide)
@[simp] theorem endSlip_bl (sid : Nat) (s : State) : (endSlip sid s).bl = s.bl := endSlip_only sid s .bl (by decide)
@[simp] theorem endSlip_hd (sid : Nat) (s : State) : (endSlip sid s).hd = s.hd := endSlip_only sid s .hd (by decide)
@[simp] theorem endSlip_tm (sid : Nat) (s : State) : (endSlip sid s).tm = s.tm := endSlip_only sid s .tm (by decide)
@[simp] theorem endSlip_fw (sid : Nat) (s : State) : (endSlip sid s).fw = s.fw := endSlip_only sid s .fw (by decide)
@[simp] theorem endSlip_rx (sid : Nat) (s : State) : (endSlip sid s).rx = s.rx := endSlip_only sid s .rx (by decide)
@[simp] theorem endSlip_pw (sid : Nat) (s : State) : (endSlip sid s).pw = s.pw := endSlip_only sid s .pw (by decide)
@[simp] theorem endSlip_ck (sid : Nat) (s : State) : (endSlip sid s).ck = s.ck := endSlip_only sid s .ck (by decide)
@[simp] theorem endSlip_pr (sid : Nat) (s : State) : (endSlip sid s).pr = s.pr := endSlip_only sid s .pr (by decide)
@[simp] theorem updHeld_pending (sid : Nat) (f : HeldEx → HeldEx) (s : State) : (updHeld sid f s).pending = s.pending := updHeld_only sid f s .pending (by decide)
@[simp] theorem updHeld_cyc (sid : Nat) (f : HeldEx → HeldEx) (s : State) : (updHeld sid f s).cyc = s.cyc := updHeld_only sid f s .cyc (by decide)
@[simp] theorem updHeld_free (sid : Nat) (f : HeldEx → HeldEx) (s : State) : (updHeld sid f s).free = s.free := updHeld_only sid f s .free (by decide)
@[simp] theorem updHeld_regs (sid : Nat) (f : HeldEx → HeldEx) (s : State) : (updHeld sid f s).regs = s.regs := updHeld_only sid f s .regs (by decide)
@[simp] theorem updHeld_cnt (sid : Nat) (f : HeldEx → HeldEx) (s : State) : (updHeld sid f s).cnt = s.cnt := updHeld_only sid f s .cnt (by decide)
@[simp] theorem updHeld_xc (sid : Nat) (f : HeldEx → HeldEx) (s : State) : (updHeld sid f s).xc = s.xc := updHeld_only sid f s .xc (by decide)
@[simp] theorem updHeld_bus (sid : Nat) (f : HeldEx → HeldEx) (s : State) : (updHeld sid f s).bus = s.bus := updHeld_only sid f s .bus (by decide)
@[simp] theorem updHeld_mem (sid : Nat) (f : HeldEx → HeldEx) (s : State) : (updHeld sid f s).mem = s.mem := updHeld_only sid f s .mem (by decide)
@[simp] theorem updHeld_bank (sid : Nat) (f : HeldEx → HeldEx) (s : State) : (updHeld sid f s).bank = s.bank := updHeld_only sid f s .bank (by decide)
@[simp] theorem updHeld_fr (sid : Nat) (f : HeldEx → HeldEx) (s : State) : (updHeld sid f s).fr = s.fr := updHeld_only sid f s .fr (by decide)
@[simp] theorem updHeld_arb (sid : Nat) (f : HeldEx → HeldEx) (s : State) : (updHeld sid f s).arb = s.arb := updHeld_only sid f s .arb (by decide)
@[simp] theorem updHeld_tb (sid : Nat) (f : HeldEx → HeldEx) (s : State) : (updHeld sid f s).tb = s.tb := updHeld_only sid f s .tb (by decide)
@[simp] theorem updHeld_bl (sid : Nat) (f : HeldEx → HeldEx) (s : State) : (updHeld sid f s).bl = s.bl := updHeld_only sid f s .bl (by decide)
@[simp] theorem updHeld_hd (sid : Nat) (f : HeldEx → HeldEx) (s : State) : (updHeld sid f s).hd = s.hd := updHeld_only sid f s .hd (by decide)
@[simp] theorem updHeld_tm (sid : Nat) (f : HeldEx → HeldEx) (s : State) : (updHeld sid f s).tm = s.tm := updHeld_only sid f s .tm (by decide)
@[simp] theorem updHeld_tr (sid : Nat) (f : HeldEx → HeldEx) (s : State) : (updHeld sid f s).tr = s.tr := updHeld_only sid f s .tr (by decide)
@[simp] theorem updHeld_dbg (sid : Nat) (f : HeldEx → HeldEx) (s : State) : (updHeld sid f s).dbg = s.dbg := updHeld_only sid f s .dbg (by decide)
@[simp] theorem updHeld_fw (sid : Nat) (f : HeldEx → HeldEx) (s : State) : (updHeld sid f s).fw = s.fw := updHeld_only sid f s .fw (by decide)
@[simp] theorem updHeld_rx (sid : Nat) (f : HeldEx → HeldEx) (s : State) : (updHeld sid f s).rx = s.rx := updHeld_only sid f s .rx (by decide)
@[simp] theorem updHeld_pw (sid : Nat) (f : HeldEx → HeldEx) (s : State) : (updHeld sid f s).pw = s.pw := updHeld_only sid f s .pw (by decide)
@[simp] theorem updHeld_ck (sid : Nat) (f : HeldEx → HeldEx) (s : State) : (updHeld sid f s).ck = s.ck := updHeld_only sid f s .ck (by decide)
@[simp] theorem updHeld_pr (sid : Nat) (f : HeldEx → HeldEx) (s : State) : (updHeld sid f s).pr = s.pr := updHeld_only sid f s .pr (by decide)
@[simp] theorem setMig_pending (m : Mig) (s : State) : (setMig m s).pending = s.pending := setMig_only m s .pending (by decide)
@[simp] theorem setMig_cyc (m : Mig) (s : State) : (setMig m s).cyc = s.cyc := setMig_only m s .cyc (by decide)
@[simp] theorem setMig_free (m : Mig) (s : State) : (setMig m s).free = s.free := setMig_only m s .free (by decide)
@[simp] theorem setMig_regs (m : Mig) (s : State) : (setMig m s).regs = s.regs := setMig_only m s .regs (by decide)
@[simp] theorem setMig_cnt (m : Mig) (s : State) : (setMig m s).cnt = s.cnt := setMig_only m s .cnt (by decide)
@[simp] theorem setMig_xc (m : Mig) (s : State) : (setMig m s).xc = s.xc := setMig_only m s .xc (by decide)
@[simp] theorem setMig_bus (m : Mig) (s : State) : (setMig m s).bus = s.bus := setMig_only m s .bus (by decide)
@[simp] theorem setMig_mem (m : Mig) (s : State) : (setMig m s).mem = s.mem := setMig_only m s .mem (by decide)
@[simp] theorem setMig_bank (m : Mig) (s : State) : (setMig m s).bank = s.bank := setMig_only m s .bank (by decide)
@[simp] theorem setMig_fr (m : Mig) (s : State) : (setMig m s).fr = s.fr := setMig_only m s .fr (by decide)
@[simp] theorem setMig_arb (m : Mig) (s : State) : (setMig m s).arb = s.arb := setMig_only m s .arb (by decide)
@[simp] theorem setMig_sq (m : Mig) (s : State) : (setMig m s).sq = s.sq := setMig_only m s .sq (by decide)
@[simp] theorem setMig_tb (m : Mig) (s : State) : (setMig m s).tb = s.tb := setMig_only m s .tb (by decide)
@[simp] theorem setMig_bl (m : Mig) (s : State) : (setMig m s).bl = s.bl := setMig_only m s .bl (by decide)
@[simp] theorem setMig_hd (m : Mig) (s : State) : (setMig m s).hd = s.hd := setMig_only m s .hd (by decide)
@[simp] theorem setMig_tm (m : Mig) (s : State) : (setMig m s).tm = s.tm := setMig_only m s .tm (by decide)
@[simp] theorem setMig_tr (m : Mig) (s : State) : (setMig m s).tr = s.tr := setMig_only m s .tr (by decide)
@[simp] theorem setMig_dbg (m : Mig) (s : State) : (setMig m s).dbg = s.dbg := setMig_only m s .dbg (by decide)
@[simp] theorem setMig_rx (m : Mig) (s : State) : (setMig m s).rx = s.rx := setMig_only m s .rx (by decide)
@[simp] theorem setMig_pw (m : Mig) (s : State) : (setMig m s).pw = s.pw := setMig_only m s .pw (by decide)
@[simp] theorem setMig_ck (m : Mig) (s : State) : (setMig m s).ck = s.ck := setMig_only m s .ck (by decide)
@[simp] theorem setMig_pr (m : Mig) (s : State) : (setMig m s).pr = s.pr := setMig_only m s .pr (by decide)
@[simp] theorem unpend_pending (kind unit : Nat) (s : State) : (unpend kind unit s).pending = s.pending := unpend_only kind unit s .pending (by decide)
@[simp] theorem unpend_cyc (kind unit : Nat) (s : State) : (unpend kind unit s).cyc = s.cyc := unpend_only kind unit s .cyc (by decide)
@[simp] theorem unpend_free (kind unit : Nat) (s : State) : (unpend kind unit s).free = s.free := unpend_only kind unit s .free (by decide)
@[simp] theorem unpend_regs (kind unit : Nat) (s : State) : (unpend kind unit s).regs = s.regs := unpend_only kind unit s .regs (by decide)
@[simp] theorem unpend_cnt (kind unit : Nat) (s : State) : (unpend kind unit s).cnt = s.cnt := unpend_only kind unit s .cnt (by decide)
@[simp] theorem unpend_xc (kind unit : Nat) (s : State) : (unpend kind unit s).xc = s.xc := unpend_only kind unit s .xc (by decide)
@[simp] theorem unpend_bus (kind unit : Nat) (s : State) : (unpend kind unit s).bus = s.bus := unpend_only kind unit s .bus (by decide)
@[simp] theorem unpend_mem (kind unit : Nat) (s : State) : (unpend kind unit s).mem = s.mem := unpend_only kind unit s .mem (by decide)
@[simp] theorem unpend_bank (kind unit : Nat) (s : State) : (unpend kind unit s).bank = s.bank := unpend_only kind unit s .bank (by decide)
@[simp] theorem unpend_fr (kind unit : Nat) (s : State) : (unpend kind unit s).fr = s.fr := unpend_only kind unit s .fr (by decide)
@[simp] theorem unpend_arb (kind unit : Nat) (s : State) : (unpend kind unit s).arb = s.arb := unpend_only kind unit s .arb (by decide)
@[simp] theorem unpend_sq (kind unit : Nat) (s : State) : (unpend kind unit s).sq = s.sq := unpend_only kind unit s .sq (by decide)
@[simp] theorem unpend_tb (kind unit : Nat) (s : State) : (unpend kind unit s).tb = s.tb := unpend_only kind unit s .tb (by decide)
@[simp] theorem unpend_bl (kind unit : Nat) (s : State) : (unpend kind unit s).bl = s.bl := unpend_only kind unit s .bl (by decide)
@[simp] theorem unpend_hd (kind unit : Nat) (s : State) : (unpend kind unit s).hd = s.hd := unpend_only kind unit s .hd (by decide)
@[simp] theorem unpend_tm (kind unit : Nat) (s : State) : (unpend kind unit s).tm = s.tm := unpend_only kind unit s .tm (by decide)
@[simp] theorem unpend_tr (kind unit : Nat) (s : State) : (unpend kind unit s).tr = s.tr := unpend_only kind unit s .tr (by decide)
@[simp] theorem unpend_dbg (kind unit : Nat) (s : State) : (unpend kind unit s).dbg = s.dbg := unpend_only kind unit s .dbg (by decide)
@[simp] theorem unpend_rx (kind unit : Nat) (s : State) : (unpend kind unit s).rx = s.rx := unpend_only kind unit s .rx (by decide)
@[simp] theorem unpend_pw (kind unit : Nat) (s : State) : (unpend kind unit s).pw = s.pw := unpend_only kind unit s .pw (by decide)
@[simp] theorem unpend_ck (kind unit : Nat) (s : State) : (unpend kind unit s).ck = s.ck := unpend_only kind unit s .ck (by decide)
@[simp] theorem unpend_pr (kind unit : Nat) (s : State) : (unpend kind unit s).pr = s.pr := unpend_only kind unit s .pr (by decide)
@[simp] theorem netParity_pending (write : Bool) (p : Parity) (src dst : Nat) (s : State) : (netParity write p src dst s).pending = s.pending := netParity_only write p src dst s .pending (by decide)
@[simp] theorem netParity_cyc (write : Bool) (p : Parity) (src dst : Nat) (s : State) : (netParity write p src dst s).cyc = s.cyc := netParity_only write p src dst s .cyc (by decide)
@[simp] theorem netParity_free (write : Bool) (p : Parity) (src dst : Nat) (s : State) : (netParity write p src dst s).free = s.free := netParity_only write p src dst s .free (by decide)
@[simp] theorem netParity_xc (write : Bool) (p : Parity) (src dst : Nat) (s : State) : (netParity write p src dst s).xc = s.xc := netParity_only write p src dst s .xc (by decide)
@[simp] theorem netParity_bus (write : Bool) (p : Parity) (src dst : Nat) (s : State) : (netParity write p src dst s).bus = s.bus := netParity_only write p src dst s .bus (by decide)
@[simp] theorem netParity_mem (write : Bool) (p : Parity) (src dst : Nat) (s : State) : (netParity write p src dst s).mem = s.mem := netParity_only write p src dst s .mem (by decide)
@[simp] theorem netParity_bank (write : Bool) (p : Parity) (src dst : Nat) (s : State) : (netParity write p src dst s).bank = s.bank := netParity_only write p src dst s .bank (by decide)
@[simp] theorem netParity_fr (write : Bool) (p : Parity) (src dst : Nat) (s : State) : (netParity write p src dst s).fr = s.fr := netParity_only write p src dst s .fr (by decide)
@[simp] theorem netParity_arb (write : Bool) (p : Parity) (src dst : Nat) (s : State) : (netParity write p src dst s).arb = s.arb := netParity_only write p src dst s .arb (by decide)
@[simp] theorem netParity_sq (write : Bool) (p : Parity) (src dst : Nat) (s : State) : (netParity write p src dst s).sq = s.sq := netParity_only write p src dst s .sq (by decide)
@[simp] theorem netParity_tb (write : Bool) (p : Parity) (src dst : Nat) (s : State) : (netParity write p src dst s).tb = s.tb := netParity_only write p src dst s .tb (by decide)
@[simp] theorem netParity_bl (write : Bool) (p : Parity) (src dst : Nat) (s : State) : (netParity write p src dst s).bl = s.bl := netParity_only write p src dst s .bl (by decide)
@[simp] theorem netParity_hd (write : Bool) (p : Parity) (src dst : Nat) (s : State) : (netParity write p src dst s).hd = s.hd := netParity_only write p src dst s .hd (by decide)
@[simp] theorem netParity_tm (write : Bool) (p : Parity) (src dst : Nat) (s : State) : (netParity write p src dst s).tm = s.tm := netParity_only write p src dst s .tm (by decide)
@[simp] theorem netParity_rx (write : Bool) (p : Parity) (src dst : Nat) (s : State) : (netParity write p src dst s).rx = s.rx := netParity_only write p src dst s .rx (by decide)
@[simp] theorem netParity_pw (write : Bool) (p : Parity) (src dst : Nat) (s : State) : (netParity write p src dst s).pw = s.pw := netParity_only write p src dst s .pw (by decide)
@[simp] theorem netParity_ck (write : Bool) (p : Parity) (src dst : Nat) (s : State) : (netParity write p src dst s).ck = s.ck := netParity_only write p src dst s .ck (by decide)
@[simp] theorem netParity_pr (write : Bool) (p : Parity) (src dst : Nat) (s : State) : (netParity write p src dst s).pr = s.pr := netParity_only write p src dst s .pr (by decide)
@[simp] theorem addHint_pending (h : Hint) (s : State) : (addHint h s).pending = s.pending := addHint_only h s .pending (by decide)
@[simp] theorem addHint_cyc (h : Hint) (s : State) : (addHint h s).cyc = s.cyc := addHint_only h s .cyc (by decide)
@[simp] theorem addHint_free (h : Hint) (s : State) : (addHint h s).free = s.free := addHint_only h s .free (by decide)
@[simp] theorem addHint_regs (h : Hint) (s : State) : (addHint h s).regs = s.regs := addHint_only h s .regs (by decide)
@[simp] theorem addHint_cnt (h : Hint) (s : State) : (addHint h s).cnt = s.cnt := addHint_only h s .cnt (by decide)
@[simp] theorem addHint_xc (h : Hint) (s : State) : (addHint h s).xc = s.xc := addHint_only h s .xc (by decide)
@[simp] theorem addHint_bus (h : Hint) (s : State) : (addHint h s).bus = s.bus := addHint_only h s .bus (by decide)
@[simp] theorem addHint_mem (h : Hint) (s : State) : (addHint h s).mem = s.mem := addHint_only h s .mem (by decide)
@[simp] theorem addHint_bank (h : Hint) (s : State) : (addHint h s).bank = s.bank := addHint_only h s .bank (by decide)
@[simp] theorem addHint_fr (h : Hint) (s : State) : (addHint h s).fr = s.fr := addHint_only h s .fr (by decide)
@[simp] theorem addHint_arb (h : Hint) (s : State) : (addHint h s).arb = s.arb := addHint_only h s .arb (by decide)
@[simp] theorem addHint_sq (h : Hint) (s : State) : (addHint h s).sq = s.sq := addHint_only h s .sq (by decide)
@[simp] theorem addHint_tb (h : Hint) (s : State) : (addHint h s).tb = s.tb := addHint_only h s .tb (by decide)
@[simp] theorem addHint_bl (h : Hint) (s : State) : (addHint h s).bl = s.bl := addHint_only h s .bl (by decide)
@[simp] theorem addHint_hd (h : Hint) (s : State) : (addHint h s).hd = s.hd := addHint_only h s .hd (by decide)
@[simp] theorem addHint_tm (h : Hint) (s : State) : (addHint h s).tm = s.tm := addHint_only h s .tm (by decide)
@[simp] theorem addHint_tr (h : Hint) (s : State) : (addHint h s).tr = s.tr := addHint_only h s .tr (by decide)
@[simp] theorem addHint_dbg (h : Hint) (s : State) : (addHint h s).dbg = s.dbg := addHint_only h s .dbg (by decide)
@[simp] theorem addHint_fw (h : Hint) (s : State) : (addHint h s).fw = s.fw := addHint_only h s .fw (by decide)
@[simp] theorem addHint_rx (h : Hint) (s : State) : (addHint h s).rx = s.rx := addHint_only h s .rx (by decide)
@[simp] theorem addHint_ck (h : Hint) (s : State) : (addHint h s).ck = s.ck := addHint_only h s .ck (by decide)
@[simp] theorem addHint_pr (h : Hint) (s : State) : (addHint h s).pr = s.pr := addHint_only h s .pr (by decide)
@[simp] theorem setNg_pending (g : Nat) (x : NGrp) (s : State) : (setNg g x s).pending = s.pending := setNg_only g x s .pending (by decide)
@[simp] theorem setNg_cyc (g : Nat) (x : NGrp) (s : State) : (setNg g x s).cyc = s.cyc := setNg_only g x s .cyc (by decide)
@[simp] theorem setNg_free (g : Nat) (x : NGrp) (s : State) : (setNg g x s).free = s.free := setNg_only g x s .free (by decide)
@[simp] theorem setNg_regs (g : Nat) (x : NGrp) (s : State) : (setNg g x s).regs = s.regs := setNg_only g x s .regs (by decide)
@[simp] theorem setNg_cnt (g : Nat) (x : NGrp) (s : State) : (setNg g x s).cnt = s.cnt := setNg_only g x s .cnt (by decide)
@[simp] theorem setNg_xc (g : Nat) (x : NGrp) (s : State) : (setNg g x s).xc = s.xc := setNg_only g x s .xc (by decide)
@[simp] theorem setNg_bus (g : Nat) (x : NGrp) (s : State) : (setNg g x s).bus = s.bus := setNg_only g x s .bus (by decide)
@[simp] theorem setNg_mem (g : Nat) (x : NGrp) (s : State) : (setNg g x s).mem = s.mem := setNg_only g x s .mem (by decide)
@[simp] theorem setNg_bank (g : Nat) (x : NGrp) (s : State) : (setNg g x s).bank = s.bank := setNg_only g x s .bank (by decide)
@[simp] theorem setNg_fr (g : Nat) (x : NGrp) (s : State) : (setNg g x s).fr = s.fr := setNg_only g x s .fr (by decide)
@[simp] theorem setNg_arb (g : Nat) (x : NGrp) (s : State) : (setNg g x s).arb = s.arb := setNg_only g x s .arb (by decide)
@[simp] theorem setNg_sq (g : Nat) (x : NGrp) (s : State) : (setNg g x s).sq = s.sq := setNg_only g x s .sq (by decide)
@[simp] theorem setNg_tb (g : Nat) (x : NGrp) (s : State) : (setNg g x s).tb = s.tb := setNg_only g x s .tb (by decide)
@[simp] theorem setNg_bl (g : Nat) (x : NGrp) (s : State) : (setNg g x s).bl = s.bl := setNg_only g x s .bl (by decide)
@[simp] theorem setNg_hd (g : Nat) (x : NGrp) (s : State) : (setNg g x s).hd = s.hd := setNg_only g x s .hd (by decide)
@[simp] theorem setNg_tm (g : Nat) (x : NGrp) (s : State) : (setNg g x s).tm = s.tm := setNg_only g x s .tm (by decide)
@[simp] theorem setNg_tr (g : Nat) (x : NGrp) (s : State) : (setNg g x s).tr = s.tr := setNg_only g x s .tr (by decide)
@[simp] theorem setNg_dbg (g : Nat) (x : NGrp) (s : State) : (setNg g x s).dbg = s.dbg := setNg_only g x s .dbg (by decide)
@[simp] theorem setNg_fw (g : Nat) (x : NGrp) (s : State) : (setNg g x s).fw = s.fw := setNg_only g x s .fw (by decide)
@[simp] theorem setNg_pw (g : Nat) (x : NGrp) (s : State) : (setNg g x s).pw = s.pw := setNg_only g x s .pw (by decide)
@[simp] theorem setNg_ck (g : Nat) (x : NGrp) (s : State) : (setNg g x s).ck = s.ck := setNg_only g x s .ck (by decide)
@[simp] theorem setNg_pr (g : Nat) (x : NGrp) (s : State) : (setNg g x s).pr = s.pr := setNg_only g x s .pr (by decide)
@[simp] theorem watchMatch_pending (x : WatchSlip) (s : State) : (watchMatch x s).pending = s.pending := watchMatch_only x s .pending (by decide)
@[simp] theorem watchMatch_cyc (x : WatchSlip) (s : State) : (watchMatch x s).cyc = s.cyc := watchMatch_only x s .cyc (by decide)
@[simp] theorem watchMatch_free (x : WatchSlip) (s : State) : (watchMatch x s).free = s.free := watchMatch_only x s .free (by decide)
@[simp] theorem watchMatch_cnt (x : WatchSlip) (s : State) : (watchMatch x s).cnt = s.cnt := watchMatch_only x s .cnt (by decide)
@[simp] theorem watchMatch_xc (x : WatchSlip) (s : State) : (watchMatch x s).xc = s.xc := watchMatch_only x s .xc (by decide)
@[simp] theorem watchMatch_bus (x : WatchSlip) (s : State) : (watchMatch x s).bus = s.bus := watchMatch_only x s .bus (by decide)
@[simp] theorem watchMatch_mem (x : WatchSlip) (s : State) : (watchMatch x s).mem = s.mem := watchMatch_only x s .mem (by decide)
@[simp] theorem watchMatch_bank (x : WatchSlip) (s : State) : (watchMatch x s).bank = s.bank := watchMatch_only x s .bank (by decide)
@[simp] theorem watchMatch_fr (x : WatchSlip) (s : State) : (watchMatch x s).fr = s.fr := watchMatch_only x s .fr (by decide)
@[simp] theorem watchMatch_arb (x : WatchSlip) (s : State) : (watchMatch x s).arb = s.arb := watchMatch_only x s .arb (by decide)
@[simp] theorem watchMatch_sq (x : WatchSlip) (s : State) : (watchMatch x s).sq = s.sq := watchMatch_only x s .sq (by decide)
@[simp] theorem watchMatch_tb (x : WatchSlip) (s : State) : (watchMatch x s).tb = s.tb := watchMatch_only x s .tb (by decide)
@[simp] theorem watchMatch_bl (x : WatchSlip) (s : State) : (watchMatch x s).bl = s.bl := watchMatch_only x s .bl (by decide)
@[simp] theorem watchMatch_hd (x : WatchSlip) (s : State) : (watchMatch x s).hd = s.hd := watchMatch_only x s .hd (by decide)
@[simp] theorem watchMatch_tm (x : WatchSlip) (s : State) : (watchMatch x s).tm = s.tm := watchMatch_only x s .tm (by decide)
@[simp] theorem watchMatch_fw (x : WatchSlip) (s : State) : (watchMatch x s).fw = s.fw := watchMatch_only x s .fw (by decide)
@[simp] theorem watchMatch_rx (x : WatchSlip) (s : State) : (watchMatch x s).rx = s.rx := watchMatch_only x s .rx (by decide)
@[simp] theorem watchMatch_pw (x : WatchSlip) (s : State) : (watchMatch x s).pw = s.pw := watchMatch_only x s .pw (by decide)
@[simp] theorem watchMatch_ck (x : WatchSlip) (s : State) : (watchMatch x s).ck = s.ck := watchMatch_only x s .ck (by decide)
@[simp] theorem watchMatch_pr (x : WatchSlip) (s : State) : (watchMatch x s).pr = s.pr := watchMatch_only x s .pr (by decide)
@[simp] theorem sbegin_pending (x : Slip) (s : State) : (sbegin x s).pending = s.pending := sbegin_only x s .pending (by decide)
@[simp] theorem sbegin_cyc (x : Slip) (s : State) : (sbegin x s).cyc = s.cyc := sbegin_only x s .cyc (by decide)
@[simp] theorem sbegin_free (x : Slip) (s : State) : (sbegin x s).free = s.free := sbegin_only x s .free (by decide)
@[simp] theorem sbegin_regs (x : Slip) (s : State) : (sbegin x s).regs = s.regs := sbegin_only x s .regs (by decide)
@[simp] theorem sbegin_cnt (x : Slip) (s : State) : (sbegin x s).cnt = s.cnt := sbegin_only x s .cnt (by decide)
@[simp] theorem sbegin_xc (x : Slip) (s : State) : (sbegin x s).xc = s.xc := sbegin_only x s .xc (by decide)
@[simp] theorem sbegin_bus (x : Slip) (s : State) : (sbegin x s).bus = s.bus := sbegin_only x s .bus (by decide)
@[simp] theorem sbegin_mem (x : Slip) (s : State) : (sbegin x s).mem = s.mem := sbegin_only x s .mem (by decide)
@[simp] theorem sbegin_bank (x : Slip) (s : State) : (sbegin x s).bank = s.bank := sbegin_only x s .bank (by decide)
@[simp] theorem sbegin_fr (x : Slip) (s : State) : (sbegin x s).fr = s.fr := sbegin_only x s .fr (by decide)
@[simp] theorem sbegin_arb (x : Slip) (s : State) : (sbegin x s).arb = s.arb := sbegin_only x s .arb (by decide)
@[simp] theorem sbegin_sq (x : Slip) (s : State) : (sbegin x s).sq = s.sq := sbegin_only x s .sq (by decide)
@[simp] theorem sbegin_tb (x : Slip) (s : State) : (sbegin x s).tb = s.tb := sbegin_only x s .tb (by decide)
@[simp] theorem sbegin_bl (x : Slip) (s : State) : (sbegin x s).bl = s.bl := sbegin_only x s .bl (by decide)
@[simp] theorem sbegin_hd (x : Slip) (s : State) : (sbegin x s).hd = s.hd := sbegin_only x s .hd (by decide)
@[simp] theorem sbegin_tm (x : Slip) (s : State) : (sbegin x s).tm = s.tm := sbegin_only x s .tm (by decide)
@[simp] theorem sbegin_dbg (x : Slip) (s : State) : (sbegin x s).dbg = s.dbg := sbegin_only x s .dbg (by decide)
@[simp] theorem sbegin_fw (x : Slip) (s : State) : (sbegin x s).fw = s.fw := sbegin_only x s .fw (by decide)
@[simp] theorem sbegin_rx (x : Slip) (s : State) : (sbegin x s).rx = s.rx := sbegin_only x s .rx (by decide)
@[simp] theorem sbegin_pw (x : Slip) (s : State) : (sbegin x s).pw = s.pw := sbegin_only x s .pw (by decide)
@[simp] theorem sbegin_ck (x : Slip) (s : State) : (sbegin x s).ck = s.ck := sbegin_only x s .ck (by decide)
@[simp] theorem sbegin_pr (x : Slip) (s : State) : (sbegin x s).pr = s.pr := sbegin_only x s .pr (by decide)
@[simp] theorem beginData_pending (path : Nat) (x : Slip) (s : State) : (beginData path x s).pending = s.pending := beginData_only path x s .pending (by decide)
@[simp] theorem beginData_cyc (path : Nat) (x : Slip) (s : State) : (beginData path x s).cyc = s.cyc := beginData_only path x s .cyc (by decide)
@[simp] theorem beginData_free (path : Nat) (x : Slip) (s : State) : (beginData path x s).free = s.free := beginData_only path x s .free (by decide)
@[simp] theorem beginData_cnt (path : Nat) (x : Slip) (s : State) : (beginData path x s).cnt = s.cnt := beginData_only path x s .cnt (by decide)
@[simp] theorem beginData_xc (path : Nat) (x : Slip) (s : State) : (beginData path x s).xc = s.xc := beginData_only path x s .xc (by decide)
@[simp] theorem beginData_bus (path : Nat) (x : Slip) (s : State) : (beginData path x s).bus = s.bus := beginData_only path x s .bus (by decide)
@[simp] theorem beginData_mem (path : Nat) (x : Slip) (s : State) : (beginData path x s).mem = s.mem := beginData_only path x s .mem (by decide)
@[simp] theorem beginData_bank (path : Nat) (x : Slip) (s : State) : (beginData path x s).bank = s.bank := beginData_only path x s .bank (by decide)
@[simp] theorem beginData_fr (path : Nat) (x : Slip) (s : State) : (beginData path x s).fr = s.fr := beginData_only path x s .fr (by decide)
@[simp] theorem beginData_arb (path : Nat) (x : Slip) (s : State) : (beginData path x s).arb = s.arb := beginData_only path x s .arb (by decide)
@[simp] theorem beginData_tb (path : Nat) (x : Slip) (s : State) : (beginData path x s).tb = s.tb := beginData_only path x s .tb (by decide)
@[simp] theorem beginData_bl (path : Nat) (x : Slip) (s : State) : (beginData path x s).bl = s.bl := beginData_only path x s .bl (by decide)
@[simp] theorem beginData_hd (path : Nat) (x : Slip) (s : State) : (beginData path x s).hd = s.hd := beginData_only path x s .hd (by decide)
@[simp] theorem beginData_tm (path : Nat) (x : Slip) (s : State) : (beginData path x s).tm = s.tm := beginData_only path x s .tm (by decide)
@[simp] theorem beginData_fw (path : Nat) (x : Slip) (s : State) : (beginData path x s).fw = s.fw := beginData_only path x s .fw (by decide)
@[simp] theorem beginData_rx (path : Nat) (x : Slip) (s : State) : (beginData path x s).rx = s.rx := beginData_only path x s .rx (by decide)
@[simp] theorem beginData_pw (path : Nat) (x : Slip) (s : State) : (beginData path x s).pw = s.pw := beginData_only path x s .pw (by decide)
@[simp] theorem beginData_ck (path : Nat) (x : Slip) (s : State) : (beginData path x s).ck = s.ck := beginData_only path x s .ck (by decide)
@[simp] theorem beginData_pr (path : Nat) (x : Slip) (s : State) : (beginData path x s).pr = s.pr := beginData_only path x s .pr (by decide)
@[simp] theorem slipFault_pending (x : Slip) (kind v : Nat) (off : Int) (store : Bool) (s : State) : (slipFault x kind v off store s).pending = s.pending := slipFault_only x kind v off store s .pending (by decide)
@[simp] theorem slipFault_cyc (x : Slip) (kind v : Nat) (off : Int) (store : Bool) (s : State) : (slipFault x kind v off store s).cyc = s.cyc := slipFault_only x kind v off store s .cyc (by decide)
@[simp] theorem slipFault_free (x : Slip) (kind v : Nat) (off : Int) (store : Bool) (s : State) : (slipFault x kind v off store s).free = s.free := slipFault_only x kind v off store s .free (by decide)
@[simp] theorem slipFault_xc (x : Slip) (kind v : Nat) (off : Int) (store : Bool) (s : State) : (slipFault x kind v off store s).xc = s.xc := slipFault_only x kind v off store s .xc (by decide)
@[simp] theorem slipFault_bus (x : Slip) (kind v : Nat) (off : Int) (store : Bool) (s : State) : (slipFault x kind v off store s).bus = s.bus := slipFault_only x kind v off store s .bus (by decide)
@[simp] theorem slipFault_mem (x : Slip) (kind v : Nat) (off : Int) (store : Bool) (s : State) : (slipFault x kind v off store s).mem = s.mem := slipFault_only x kind v off store s .mem (by decide)
@[simp] theorem slipFault_bank (x : Slip) (kind v : Nat) (off : Int) (store : Bool) (s : State) : (slipFault x kind v off store s).bank = s.bank := slipFault_only x kind v off store s .bank (by decide)
@[simp] theorem slipFault_fr (x : Slip) (kind v : Nat) (off : Int) (store : Bool) (s : State) : (slipFault x kind v off store s).fr = s.fr := slipFault_only x kind v off store s .fr (by decide)
@[simp] theorem slipFault_arb (x : Slip) (kind v : Nat) (off : Int) (store : Bool) (s : State) : (slipFault x kind v off store s).arb = s.arb := slipFault_only x kind v off store s .arb (by decide)
@[simp] theorem slipFault_tb (x : Slip) (kind v : Nat) (off : Int) (store : Bool) (s : State) : (slipFault x kind v off store s).tb = s.tb := slipFault_only x kind v off store s .tb (by decide)
@[simp] theorem slipFault_bl (x : Slip) (kind v : Nat) (off : Int) (store : Bool) (s : State) : (slipFault x kind v off store s).bl = s.bl := slipFault_only x kind v off store s .bl (by decide)
@[simp] theorem slipFault_hd (x : Slip) (kind v : Nat) (off : Int) (store : Bool) (s : State) : (slipFault x kind v off store s).hd = s.hd := slipFault_only x kind v off store s .hd (by decide)
@[simp] theorem slipFault_tm (x : Slip) (kind v : Nat) (off : Int) (store : Bool) (s : State) : (slipFault x kind v off store s).tm = s.tm := slipFault_only x kind v off store s .tm (by decide)
@[simp] theorem slipFault_fw (x : Slip) (kind v : Nat) (off : Int) (store : Bool) (s : State) : (slipFault x kind v off store s).fw = s.fw := slipFault_only x kind v off store s .fw (by decide)
@[simp] theorem slipFault_rx (x : Slip) (kind v : Nat) (off : Int) (store : Bool) (s : State) : (slipFault x kind v off store s).rx = s.rx := slipFault_only x kind v off store s .rx (by decide)
@[simp] theorem slipFault_pw (x : Slip) (kind v : Nat) (off : Int) (store : Bool) (s : State) : (slipFault x kind v off store s).pw = s.pw := slipFault_only x kind v off store s .pw (by decide)
@[simp] theorem slipFault_ck (x : Slip) (kind v : Nat) (off : Int) (store : Bool) (s : State) : (slipFault x kind v off store s).ck = s.ck := slipFault_only x kind v off store s .ck (by decide)
@[simp] theorem slipFault_pr (x : Slip) (kind v : Nat) (off : Int) (store : Bool) (s : State) : (slipFault x kind v off store s).pr = s.pr := slipFault_only x kind v off store s .pr (by decide)
@[simp] theorem faultRow_pending (kind ctx client v : Nat) (off : Int) (store : Bool) (q : Option Nat) (s : State) : (faultRow kind ctx client v off store q s).pending = s.pending := faultRow_only kind ctx client v off store q s .pending (by decide)
@[simp] theorem faultRow_cyc (kind ctx client v : Nat) (off : Int) (store : Bool) (q : Option Nat) (s : State) : (faultRow kind ctx client v off store q s).cyc = s.cyc := faultRow_only kind ctx client v off store q s .cyc (by decide)
@[simp] theorem faultRow_free (kind ctx client v : Nat) (off : Int) (store : Bool) (q : Option Nat) (s : State) : (faultRow kind ctx client v off store q s).free = s.free := faultRow_only kind ctx client v off store q s .free (by decide)
@[simp] theorem faultRow_xc (kind ctx client v : Nat) (off : Int) (store : Bool) (q : Option Nat) (s : State) : (faultRow kind ctx client v off store q s).xc = s.xc := faultRow_only kind ctx client v off store q s .xc (by decide)
@[simp] theorem faultRow_bus (kind ctx client v : Nat) (off : Int) (store : Bool) (q : Option Nat) (s : State) : (faultRow kind ctx client v off store q s).bus = s.bus := faultRow_only kind ctx client v off store q s .bus (by decide)
@[simp] theorem faultRow_mem (kind ctx client v : Nat) (off : Int) (store : Bool) (q : Option Nat) (s : State) : (faultRow kind ctx client v off store q s).mem = s.mem := faultRow_only kind ctx client v off store q s .mem (by decide)
@[simp] theorem faultRow_bank (kind ctx client v : Nat) (off : Int) (store : Bool) (q : Option Nat) (s : State) : (faultRow kind ctx client v off store q s).bank = s.bank := faultRow_only kind ctx client v off store q s .bank (by decide)
@[simp] theorem faultRow_fr (kind ctx client v : Nat) (off : Int) (store : Bool) (q : Option Nat) (s : State) : (faultRow kind ctx client v off store q s).fr = s.fr := faultRow_only kind ctx client v off store q s .fr (by decide)
@[simp] theorem faultRow_arb (kind ctx client v : Nat) (off : Int) (store : Bool) (q : Option Nat) (s : State) : (faultRow kind ctx client v off store q s).arb = s.arb := faultRow_only kind ctx client v off store q s .arb (by decide)
@[simp] theorem faultRow_sq (kind ctx client v : Nat) (off : Int) (store : Bool) (q : Option Nat) (s : State) : (faultRow kind ctx client v off store q s).sq = s.sq := faultRow_only kind ctx client v off store q s .sq (by decide)
@[simp] theorem faultRow_tb (kind ctx client v : Nat) (off : Int) (store : Bool) (q : Option Nat) (s : State) : (faultRow kind ctx client v off store q s).tb = s.tb := faultRow_only kind ctx client v off store q s .tb (by decide)
@[simp] theorem faultRow_bl (kind ctx client v : Nat) (off : Int) (store : Bool) (q : Option Nat) (s : State) : (faultRow kind ctx client v off store q s).bl = s.bl := faultRow_only kind ctx client v off store q s .bl (by decide)
@[simp] theorem faultRow_hd (kind ctx client v : Nat) (off : Int) (store : Bool) (q : Option Nat) (s : State) : (faultRow kind ctx client v off store q s).hd = s.hd := faultRow_only kind ctx client v off store q s .hd (by decide)
@[simp] theorem faultRow_tm (kind ctx client v : Nat) (off : Int) (store : Bool) (q : Option Nat) (s : State) : (faultRow kind ctx client v off store q s).tm = s.tm := faultRow_only kind ctx client v off store q s .tm (by decide)
@[simp] theorem faultRow_tr (kind ctx client v : Nat) (off : Int) (store : Bool) (q : Option Nat) (s : State) : (faultRow kind ctx client v off store q s).tr = s.tr := faultRow_only kind ctx client v off store q s .tr (by decide)
@[simp] theorem faultRow_dbg (kind ctx client v : Nat) (off : Int) (store : Bool) (q : Option Nat) (s : State) : (faultRow kind ctx client v off store q s).dbg = s.dbg := faultRow_only kind ctx client v off store q s .dbg (by decide)
@[simp] theorem faultRow_fw (kind ctx client v : Nat) (off : Int) (store : Bool) (q : Option Nat) (s : State) : (faultRow kind ctx client v off store q s).fw = s.fw := faultRow_only kind ctx client v off store q s .fw (by decide)
@[simp] theorem faultRow_rx (kind ctx client v : Nat) (off : Int) (store : Bool) (q : Option Nat) (s : State) : (faultRow kind ctx client v off store q s).rx = s.rx := faultRow_only kind ctx client v off store q s .rx (by decide)
@[simp] theorem faultRow_pw (kind ctx client v : Nat) (off : Int) (store : Bool) (q : Option Nat) (s : State) : (faultRow kind ctx client v off store q s).pw = s.pw := faultRow_only kind ctx client v off store q s .pw (by decide)
@[simp] theorem faultRow_ck (kind ctx client v : Nat) (off : Int) (store : Bool) (q : Option Nat) (s : State) : (faultRow kind ctx client v off store q s).ck = s.ck := faultRow_only kind ctx client v off store q s .ck (by decide)
@[simp] theorem faultRow_pr (kind ctx client v : Nat) (off : Int) (store : Bool) (q : Option Nat) (s : State) : (faultRow kind ctx client v off store q s).pr = s.pr := faultRow_only kind ctx client v off store q s .pr (by decide)
@[simp] theorem raiseCvt_pending (x : Slip) (f : Nat) (s : State) : (raiseCvt x f s).pending = s.pending := raiseCvt_only x f s .pending (by decide)
@[simp] theorem raiseCvt_cyc (x : Slip) (f : Nat) (s : State) : (raiseCvt x f s).cyc = s.cyc := raiseCvt_only x f s .cyc (by decide)
@[simp] theorem raiseCvt_free (x : Slip) (f : Nat) (s : State) : (raiseCvt x f s).free = s.free := raiseCvt_only x f s .free (by decide)
@[simp] theorem raiseCvt_cnt (x : Slip) (f : Nat) (s : State) : (raiseCvt x f s).cnt = s.cnt := raiseCvt_only x f s .cnt (by decide)
@[simp] theorem raiseCvt_xc (x : Slip) (f : Nat) (s : State) : (raiseCvt x f s).xc = s.xc := raiseCvt_only x f s .xc (by decide)
@[simp] theorem raiseCvt_bus (x : Slip) (f : Nat) (s : State) : (raiseCvt x f s).bus = s.bus := raiseCvt_only x f s .bus (by decide)
@[simp] theorem raiseCvt_mem (x : Slip) (f : Nat) (s : State) : (raiseCvt x f s).mem = s.mem := raiseCvt_only x f s .mem (by decide)
@[simp] theorem raiseCvt_bank (x : Slip) (f : Nat) (s : State) : (raiseCvt x f s).bank = s.bank := raiseCvt_only x f s .bank (by decide)
@[simp] theorem raiseCvt_fr (x : Slip) (f : Nat) (s : State) : (raiseCvt x f s).fr = s.fr := raiseCvt_only x f s .fr (by decide)
@[simp] theorem raiseCvt_arb (x : Slip) (f : Nat) (s : State) : (raiseCvt x f s).arb = s.arb := raiseCvt_only x f s .arb (by decide)
@[simp] theorem raiseCvt_tb (x : Slip) (f : Nat) (s : State) : (raiseCvt x f s).tb = s.tb := raiseCvt_only x f s .tb (by decide)
@[simp] theorem raiseCvt_bl (x : Slip) (f : Nat) (s : State) : (raiseCvt x f s).bl = s.bl := raiseCvt_only x f s .bl (by decide)
@[simp] theorem raiseCvt_hd (x : Slip) (f : Nat) (s : State) : (raiseCvt x f s).hd = s.hd := raiseCvt_only x f s .hd (by decide)
@[simp] theorem raiseCvt_tm (x : Slip) (f : Nat) (s : State) : (raiseCvt x f s).tm = s.tm := raiseCvt_only x f s .tm (by decide)
@[simp] theorem raiseCvt_tr (x : Slip) (f : Nat) (s : State) : (raiseCvt x f s).tr = s.tr := raiseCvt_only x f s .tr (by decide)
@[simp] theorem raiseCvt_dbg (x : Slip) (f : Nat) (s : State) : (raiseCvt x f s).dbg = s.dbg := raiseCvt_only x f s .dbg (by decide)
@[simp] theorem raiseCvt_fw (x : Slip) (f : Nat) (s : State) : (raiseCvt x f s).fw = s.fw := raiseCvt_only x f s .fw (by decide)
@[simp] theorem raiseCvt_rx (x : Slip) (f : Nat) (s : State) : (raiseCvt x f s).rx = s.rx := raiseCvt_only x f s .rx (by decide)
@[simp] theorem raiseCvt_pw (x : Slip) (f : Nat) (s : State) : (raiseCvt x f s).pw = s.pw := raiseCvt_only x f s .pw (by decide)
@[simp] theorem raiseCvt_ck (x : Slip) (f : Nat) (s : State) : (raiseCvt x f s).ck = s.ck := raiseCvt_only x f s .ck (by decide)
@[simp] theorem raiseCvt_pr (x : Slip) (f : Nat) (s : State) : (raiseCvt x f s).pr = s.pr := raiseCvt_only x f s .pr (by decide)
@[simp] theorem raiseBlend_pending (x : Slip) (f : Nat) (s : State) : (raiseBlend x f s).pending = s.pending := raiseBlend_only x f s .pending (by decide)
@[simp] theorem raiseBlend_cyc (x : Slip) (f : Nat) (s : State) : (raiseBlend x f s).cyc = s.cyc := raiseBlend_only x f s .cyc (by decide)
@[simp] theorem raiseBlend_free (x : Slip) (f : Nat) (s : State) : (raiseBlend x f s).free = s.free := raiseBlend_only x f s .free (by decide)
@[simp] theorem raiseBlend_cnt (x : Slip) (f : Nat) (s : State) : (raiseBlend x f s).cnt = s.cnt := raiseBlend_only x f s .cnt (by decide)
@[simp] theorem raiseBlend_xc (x : Slip) (f : Nat) (s : State) : (raiseBlend x f s).xc = s.xc := raiseBlend_only x f s .xc (by decide)
@[simp] theorem raiseBlend_bus (x : Slip) (f : Nat) (s : State) : (raiseBlend x f s).bus = s.bus := raiseBlend_only x f s .bus (by decide)
@[simp] theorem raiseBlend_mem (x : Slip) (f : Nat) (s : State) : (raiseBlend x f s).mem = s.mem := raiseBlend_only x f s .mem (by decide)
@[simp] theorem raiseBlend_bank (x : Slip) (f : Nat) (s : State) : (raiseBlend x f s).bank = s.bank := raiseBlend_only x f s .bank (by decide)
@[simp] theorem raiseBlend_fr (x : Slip) (f : Nat) (s : State) : (raiseBlend x f s).fr = s.fr := raiseBlend_only x f s .fr (by decide)
@[simp] theorem raiseBlend_arb (x : Slip) (f : Nat) (s : State) : (raiseBlend x f s).arb = s.arb := raiseBlend_only x f s .arb (by decide)
@[simp] theorem raiseBlend_tb (x : Slip) (f : Nat) (s : State) : (raiseBlend x f s).tb = s.tb := raiseBlend_only x f s .tb (by decide)
@[simp] theorem raiseBlend_bl (x : Slip) (f : Nat) (s : State) : (raiseBlend x f s).bl = s.bl := raiseBlend_only x f s .bl (by decide)
@[simp] theorem raiseBlend_hd (x : Slip) (f : Nat) (s : State) : (raiseBlend x f s).hd = s.hd := raiseBlend_only x f s .hd (by decide)
@[simp] theorem raiseBlend_tm (x : Slip) (f : Nat) (s : State) : (raiseBlend x f s).tm = s.tm := raiseBlend_only x f s .tm (by decide)
@[simp] theorem raiseBlend_tr (x : Slip) (f : Nat) (s : State) : (raiseBlend x f s).tr = s.tr := raiseBlend_only x f s .tr (by decide)
@[simp] theorem raiseBlend_dbg (x : Slip) (f : Nat) (s : State) : (raiseBlend x f s).dbg = s.dbg := raiseBlend_only x f s .dbg (by decide)
@[simp] theorem raiseBlend_fw (x : Slip) (f : Nat) (s : State) : (raiseBlend x f s).fw = s.fw := raiseBlend_only x f s .fw (by decide)
@[simp] theorem raiseBlend_rx (x : Slip) (f : Nat) (s : State) : (raiseBlend x f s).rx = s.rx := raiseBlend_only x f s .rx (by decide)
@[simp] theorem raiseBlend_pw (x : Slip) (f : Nat) (s : State) : (raiseBlend x f s).pw = s.pw := raiseBlend_only x f s .pw (by decide)
@[simp] theorem raiseBlend_ck (x : Slip) (f : Nat) (s : State) : (raiseBlend x f s).ck = s.ck := raiseBlend_only x f s .ck (by decide)
@[simp] theorem raiseBlend_pr (x : Slip) (f : Nat) (s : State) : (raiseBlend x f s).pr = s.pr := raiseBlend_only x f s .pr (by decide)

end Sys2Proof.Machine
end

