-- ==== Sys2Proof/Laws/WithinOps.lean ====
section
/-!
SUPPORT. Laws/WithinOps.lean: the registers and counters that the operations and commands of Machine/Ops.lean may change (generated
text, one lemma for each).
-/
namespace Sys2Proof.Machine

set_option linter.unusedSimpArgs false
set_option linter.tactic.unusedName false

theorem drawFree_within (s : State) :
    Within [] s (drawFree s).2 := Within.of_only (drawFree_only s) (by decide)

theorem xbump_within (i n : Nat) (s : State) :
    Within [] s (xbump i n s) := Within.of_only (xbump_only i n s) (by decide)

theorem genRec_within (r : Rec) (hasCtx : Bool) (s : State) :
    Within [] s (genRec r hasCtx s) := Within.of_only (genRec_only r hasCtx s) (by decide)

theorem genTime_within (kind d : Nat) (s : State) :
    Within [] s (genTime kind d s) := Within.of_only (genTime_only kind d s) (by decide)

theorem traceTrigger_within (src cause : Nat) (s : State) :
    Within [⟨0x6014, 0, 1⟩] s (traceTrigger src cause s) := by
  unfold traceTrigger
  try dsimp only
  repeat' first
    | simp +decide (maxDischargeDepth := 8) only [Within.iff_of (orReg_within _ _ _ ), Within.iff_of (genRec_within _ _ _ ), *, Within.self, Within.mk_iff, Within.forEach_iff, Within.when_iff, Within.clear_iff, Within.ite_of, spansIn_idx, spansIn_wu, and_self, implies_true, id_eq, ne_eq, not_false_eq_true, reduceCtorEq]
    | split
    | with_reducible refine Within.trans ?_ (Within.forEach (fun _ _ => ?_) _ _)
    | with_reducible refine Within.trans ?_ (Within.when (fun _ => ?_) _ _)

theorem raise_within (n : Nat) (s : State) :
    Within [⟨0x6014, 0, 1⟩, ⟨0x7000, 4, 2⟩, ⟨0x7018, 4, 3⟩] s (raise n s) := by
  unfold raise
  try dsimp only
  repeat' first
    | simp +decide (maxDischargeDepth := 8) only [Within.iff_of (setReg_within _ _ _ ), Within.iff_of (setRegF_within _ _ _ _ _ ), Within.iff_of (orReg_within _ _ _ ), Within.iff_of (traceTrigger_within _ _ _ ), *, Within.self, Within.mk_iff, Within.forEach_iff, Within.when_iff, Within.clear_iff, Within.ite_of, spansIn_idx, spansIn_wu, and_self, implies_true, id_eq, ne_eq, not_false_eq_true, reduceCtorEq]
    | split
    | with_reducible refine Within.trans ?_ (Within.forEach (fun _ _ => ?_) _ _)
    | with_reducible refine Within.trans ?_ (Within.when (fun _ => ?_) _ _)

theorem fillLog_within (o w0 w1 : Nat) (s : State) : Within [⟨o, 4, 2⟩] s (fillLog o w0 w1 s) := by
  have h : spansIn [⟨o, 0, 1⟩] [⟨o, 4, 2⟩] = true := by simp [spansIn, Span.inside, Nat.ble_self_eq_true, Nat.ble_eq.mpr (Nat.le_add_right o 4)]
  have h2 : spansIn [⟨o + 4, 0, 1⟩] [⟨o, 4, 2⟩] = true := by
    simp [spansIn, Span.inside, Nat.ble_self_eq_true, Nat.ble_eq.mpr (Nat.le_add_right o 4)]
  unfold fillLog
  split
  · exact (orReg_within o _ s).mono h
  · exact Within.step (setReg_within (o + 4) _ _) h2 ((setReg_within o _ s).mono h)

theorem fillLog1_within (o w0 : Nat) (s : State) : Within [⟨o, 0, 1⟩] s (fillLog1 o w0 s) := by
  unfold fillLog1
  split
  · exact orReg_within o _ s
  · exact setReg_within o _ s

theorem dropJobs_within (p : Job → Bool) (s : State) :
    Within [] s (dropJobs p s) := Within.of_only (dropJobs_only p s) (by decide)

theorem estimate_within (k n : Nat) (s : State) :
    Within [] s (estimate k n s) := Within.of_only (estimate_only k n s) (by decide)

end Sys2Proof.Machine
end

