-- ==== Sys2Proof/Laws/WithinBanks.lean ====
section
/-!
SUPPORT. Laws/WithinBanks.lean: the registers and counters that the operations and commands of Machine/Banks.lean may change (generated
text, one lemma for each).
-/
namespace Sys2Proof.Machine

set_option linter.unusedSimpArgs false
set_option linter.tactic.unusedName false

theorem fwdTrigger_within (kind unit trig : Nat) (s : State) :
    Within [⟨0x6014, 0, 1⟩, ⟨0x7000, 4, 2⟩, ⟨0x7018, 4, 3⟩] s (fwdTrigger kind unit trig s) := by
  unfold fwdTrigger
  try dsimp only
  repeat' first
    | simp +decide (maxDischargeDepth := 8) only [Within.iff_of (raise_within _ _ ), *, Within.self, Within.mk_iff, Within.forEach_iff, Within.when_iff, Within.clear_iff, Within.ite_of, spansIn_idx, spansIn_wu, and_self, implies_true, id_eq, ne_eq, not_false_eq_true, reduceCtorEq]
    | split
    | with_reducible refine Within.trans ?_ (Within.forEach (fun _ _ => ?_) _ _)
    | with_reducible refine Within.trans ?_ (Within.when (fun _ => ?_) _ _)

theorem openWindow_within (s : State) :
    Within [] s (openWindow s) := Within.of_only (openWindow_only s) (by decide)

theorem openStorm_within (s : State) :
    Within [] s (openStorm s) := Within.of_only (openStorm_only s) (by decide)

theorem fwdCount_within (kind unit thr trig n : Nat) (s : State) :
    Within [⟨0x6014, 0, 1⟩, ⟨0x7000, 4, 2⟩, ⟨0x7018, 4, 3⟩] s (fwdCount kind unit thr trig n s) := by
  unfold fwdCount
  try dsimp only
  repeat' first
    | simp +decide (maxDischargeDepth := 8) only [Within.iff_of (fwdTrigger_within _ _ _ _ ), Within.iff_of (openWindow_within _ ), *, Within.self, Within.mk_iff, Within.forEach_iff, Within.when_iff, Within.clear_iff, Within.ite_of, spansIn_idx, spansIn_wu, and_self, implies_true, id_eq, ne_eq, not_false_eq_true, reduceCtorEq]
    | split
    | with_reducible refine Within.trans ?_ (Within.forEach (fun _ _ => ?_) _ _)
    | with_reducible refine Within.trans ?_ (Within.when (fun _ => ?_) _ _)

theorem fwdCorrected_within (lb n : Nat) (s : State) :
    Within [⟨0x6014, 0, 1⟩, ⟨0x7000, 4, 2⟩, ⟨0x7018, 4, 3⟩] s (fwdCorrected lb n s) := by
  unfold fwdCorrected
  try dsimp only
  repeat' first
    | simp +decide (maxDischargeDepth := 8) only [Within.iff_of (fwdCount_within _ _ _ _ _ _ ), *, Within.self, Within.mk_iff, Within.forEach_iff, Within.when_iff, Within.clear_iff, Within.ite_of, spansIn_idx, spansIn_wu, and_self, implies_true, id_eq, ne_eq, not_false_eq_true, reduceCtorEq]
    | split
    | with_reducible refine Within.trans ?_ (Within.forEach (fun _ _ => ?_) _ _)
    | with_reducible refine Within.trans ?_ (Within.when (fun _ => ?_) _ _)

theorem fwdParity_within (kind unit : Nat) (s : State) :
    Within [⟨0x6014, 0, 1⟩, ⟨0x7000, 4, 2⟩, ⟨0x7018, 4, 3⟩] s (fwdParity kind unit s) := by
  unfold fwdParity
  try dsimp only
  repeat' first
    | simp +decide (maxDischargeDepth := 8) only [Within.iff_of (fwdCount_within _ _ _ _ _ _ ), *, Within.self, Within.mk_iff, Within.forEach_iff, Within.when_iff, Within.clear_iff, Within.ite_of, spansIn_idx, spansIn_wu, and_self, implies_true, id_eq, ne_eq, not_false_eq_true, reduceCtorEq]
    | split
    | with_reducible refine Within.trans ?_ (Within.forEach (fun _ _ => ?_) _ _)
    | with_reducible refine Within.trans ?_ (Within.when (fun _ => ?_) _ _)

theorem stormBank_within (lb : Nat) (s : State) :
    Within [] s (stormBank lb s) := Within.of_only (stormBank_only lb s) (by decide)

theorem fwdUncorrected_within (copy : Bool) (lb : Nat) (s : State) :
    Within [⟨0x6014, 0, 1⟩, ⟨0x7000, 4, 2⟩, ⟨0x7018, 4, 3⟩] s (fwdUncorrected copy lb s) := by
  unfold fwdUncorrected
  try dsimp only
  repeat' first
    | simp +decide (maxDischargeDepth := 8) only [Within.iff_of (fwdTrigger_within _ _ _ _ ), Within.iff_of (stormBank_within _ _ ), *, Within.self, Within.mk_iff, Within.forEach_iff, Within.when_iff, Within.clear_iff, Within.ite_of, spansIn_idx, spansIn_wu, and_self, implies_true, id_eq, ne_eq, not_false_eq_true, reduceCtorEq]
    | split
    | with_reducible refine Within.trans ?_ (Within.forEach (fun _ _ => ?_) _ _)
    | with_reducible refine Within.trans ?_ (Within.when (fun _ => ?_) _ _)

theorem setPow_within (pb : Nat) (p : BankPow) (s : State) :
    Within [] s (setPow pb p s) := Within.of_only (setPow_only pb p s) (by decide)

theorem deadAccess_within (lb : Nat) (s : State) :
    Within [⟨0x59B0, 0, 1⟩, ⟨0x6014, 0, 1⟩, ⟨0x7000, 4, 2⟩, ⟨0x7018, 4, 3⟩] s (deadAccess lb s) := by
  unfold deadAccess
  try dsimp only
  repeat' first
    | simp +decide (maxDischargeDepth := 8) only [Within.iff_of (bump_within _ _ _ ), Within.iff_of (xbump_within _ _ _ ), Within.iff_of (raise_within _ _ ), *, Within.self, Within.mk_iff, Within.forEach_iff, Within.when_iff, Within.clear_iff, Within.ite_of, spansIn_idx, spansIn_wu, and_self, implies_true, id_eq, ne_eq, not_false_eq_true, reduceCtorEq]
    | split
    | with_reducible refine Within.trans ?_ (Within.forEach (fun _ _ => ?_) _ _)
    | with_reducible refine Within.trans ?_ (Within.when (fun _ => ?_) _ _)

theorem storeChunk_within (pb row c : Nat) (data : BitVec 256) (pois : Bool) (s : State) :
    Within [] s (storeChunk pb row c data pois s) := Within.of_only (storeChunk_only pb row c data pois s) (by decide)

theorem strikeRow_within (pb row : Nat) (ups : List Upset) (s : State) :
    Within [] s (strikeRow pb row ups s) := Within.of_only (strikeRow_only pb row ups s) (by decide)

theorem eccLog_within (o lb pb row c bitpos : Nat) (r : Reader) (s : State) :
    Within [⟨o, 4, 2⟩] s (eccLog o lb pb row c bitpos r s) := fillLog_within o _ _ s

theorem accountChunk_within (t lb pb row c : Nat) (r : Reader) (x : ChunkRead) (s : State) :
    Within [⟨0x0810, 4, 4⟩, ⟨0x5988, 0, 1⟩, ⟨0x5990, 0, 1⟩, ⟨0x5998, 0, 1⟩, ⟨0x59A0, 0, 1⟩, ⟨0x59A8, 0, 1⟩, ⟨0x6014, 0, 1⟩, ⟨0x7000, 4, 2⟩, ⟨0x7018, 4, 3⟩] s (accountChunk t lb pb row c r x s) := by
  unfold accountChunk
  try dsimp only
  repeat' first
    | simp +decide (maxDischargeDepth := 8) only [Within.iff_of (bump_within _ _ _ ), Within.iff_of (xbump_within _ _ _ ), Within.iff_of (raise_within _ _ ), Within.iff_of (fwdCorrected_within _ _ _ ), Within.iff_of (fwdUncorrected_within _ _ _ ), Within.iff_of (eccLog_within _ _ _ _ _ _ _ _ ), *, Within.self, Within.mk_iff, Within.forEach_iff, Within.when_iff, Within.clear_iff, Within.ite_of, spansIn_idx, spansIn_wu, and_self, implies_true, id_eq, ne_eq, not_false_eq_true, reduceCtorEq]
    | split
    | with_reducible refine Within.trans ?_ (Within.forEach (fun _ _ => ?_) _ _)
    | with_reducible refine Within.trans ?_ (Within.when (fun _ => ?_) _ _)

theorem readChunk_within (t lb pb row : Nat) (r : Reader) (ups : List Upset) (c : Nat) (s : State) :
    Within [⟨0x0810, 4, 4⟩, ⟨0x5988, 0, 1⟩, ⟨0x5990, 0, 1⟩, ⟨0x5998, 0, 1⟩, ⟨0x59A0, 0, 1⟩, ⟨0x59A8, 0, 1⟩, ⟨0x6014, 0, 1⟩, ⟨0x7000, 4, 2⟩, ⟨0x7018, 4, 3⟩] s (readChunk t lb pb row r ups c s).2 := by
  unfold readChunk
  try dsimp only
  repeat' first
    | simp +decide (maxDischargeDepth := 8) only [Within.iff_of (accountChunk_within _ _ _ _ _ _ _ _ ), *, Within.self, Within.mk_iff, Within.forEach_iff, Within.when_iff, Within.clear_iff, Within.ite_of, spansIn_idx, spansIn_wu, and_self, implies_true, id_eq, ne_eq, not_false_eq_true, reduceCtorEq]
    | split
    | with_reducible refine Within.trans ?_ (Within.forEach (fun _ _ => ?_) _ _)
    | with_reducible refine Within.trans ?_ (Within.when (fun _ => ?_) _ _)

theorem readRowAt_within (t lb pb row : Nat) (r : Reader) (ups : List Upset) (s : State) :
    Within [⟨0x0810, 4, 4⟩, ⟨0x5988, 0, 1⟩, ⟨0x5990, 0, 1⟩, ⟨0x5998, 0, 1⟩, ⟨0x59A0, 0, 1⟩, ⟨0x59A8, 0, 1⟩, ⟨0x6014, 0, 1⟩, ⟨0x7000, 4, 2⟩, ⟨0x7018, 4, 3⟩] s (readRowAt t lb pb row r ups s).2 := by
  unfold readRowAt
  try dsimp only
  repeat' first
    | simp +decide (maxDischargeDepth := 8) only [Within.iff_of (estimate_within _ _ _ ), Within.iff_of (readChunk_within _ _ _ _ _ _ _ _ ), *, Within.self, Within.mk_iff, Within.forEach_iff, Within.when_iff, Within.clear_iff, Within.ite_of, spansIn_idx, spansIn_wu, and_self, implies_true, id_eq, ne_eq, not_false_eq_true, reduceCtorEq]
    | (refine Within.snd (by assumption) (readChunk_within _ _ _ _ _ _ _ _ ) (by decide) ?_)
    | split
    | with_reducible refine Within.trans ?_ (Within.forEach (fun _ _ => ?_) _ _)
    | with_reducible refine Within.trans ?_ (Within.when (fun _ => ?_) _ _)

theorem readRow_within (t lb row : Nat) (r : Reader) (ups : List Upset) (s : State) :
    Within [⟨0x0810, 4, 4⟩, ⟨0x5988, 0, 1⟩, ⟨0x5990, 0, 1⟩, ⟨0x5998, 0, 1⟩, ⟨0x59A0, 0, 1⟩, ⟨0x59A8, 0, 1⟩, ⟨0x6014, 0, 1⟩, ⟨0x7000, 4, 2⟩, ⟨0x7018, 4, 3⟩] s (readRow t lb row r ups s).2 := by
  unfold readRow
  try dsimp only
  repeat' first
    | simp +decide (maxDischargeDepth := 8) only [Within.iff_of (readRowAt_within _ _ _ _ _ _ _ ), *, Within.self, Within.mk_iff, Within.forEach_iff, Within.when_iff, Within.clear_iff, Within.ite_of, spansIn_idx, spansIn_wu, and_self, implies_true, id_eq, ne_eq, not_false_eq_true, reduceCtorEq]
    | (refine Within.snd (by assumption) (readRowAt_within _ _ _ _ _ _ _ ) (by decide) ?_)
    | split
    | with_reducible refine Within.trans ?_ (Within.forEach (fun _ _ => ?_) _ _)
    | with_reducible refine Within.trans ?_ (Within.when (fun _ => ?_) _ _)

theorem storeChunks_within (pb row en : Nat) (data : Row) (pois : Mask4) (s : State) :
    Within [] s (storeChunks pb row en data pois s) := Within.of_only (storeChunks_only pb row en data pois s) (by decide)

theorem dropWb_within (lb row en : Nat) (s : State) :
    Within [] s (dropWb lb row en s) := Within.of_only (dropWb_only lb row en s) (by decide)

theorem dualWrite_within (lb pb row en cls wt : Nat) (s : State) :
    Within [] s (dualWrite lb pb row en cls wt s) := Within.of_only (dualWrite_only lb pb row en cls wt s) (by decide)

theorem storeRow_within (lb row en : Nat) (data : Row) (pois : Mask4) (cls wt : Nat) (s : State) :
    Within [] s (storeRow lb row en data pois cls wt s) := Within.of_only (storeRow_only lb row en data pois cls wt s) (by decide)

theorem keepUndo_within (t seen pb row en : Nat) (port : Bool) (s : State) :
    Within [] s (keepUndo t seen pb row en port s) := Within.of_only (keepUndo_only t seen pb row en port s) (by decide)

theorem portStore_within (t lb row en : Nat) (port : Bool) (data : Row) (pois : Mask4) (cls wt : Nat) (s : State) :
    Within [⟨0x59B8, 0, 1⟩] s (portStore t lb row en port data pois cls wt s) := by
  unfold portStore
  try dsimp only
  repeat' first
    | simp +decide (maxDischargeDepth := 8) only [Within.iff_of (bump_within _ _ _ ), Within.iff_of (xbump_within _ _ _ ), Within.iff_of (storeRow_within _ _ _ _ _ _ _ _ ), Within.iff_of (keepUndo_within _ _ _ _ _ _ _ ), *, Within.self, Within.mk_iff, Within.forEach_iff, Within.when_iff, Within.clear_iff, Within.ite_of, spansIn_idx, spansIn_wu, and_self, implies_true, id_eq, ne_eq, not_false_eq_true, reduceCtorEq]
    | split
    | with_reducible refine Within.trans ?_ (Within.forEach (fun _ _ => ?_) _ _)
    | with_reducible refine Within.trans ?_ (Within.when (fun _ => ?_) _ _)

theorem clearBank_within (pb epoch : Nat) (zf : Bool) (s : State) :
    Within [] s (clearBank pb epoch zf s) := Within.of_only (clearBank_only pb epoch zf s) (by decide)

theorem eraseBank_within (pb : Nat) (s : State) :
    Within [] s (eraseBank pb s) := Within.of_only (eraseBank_only pb s) (by decide)

theorem zeroBank_within (pb : Nat) (s : State) :
    Within [] s (zeroBank pb s) := Within.of_only (zeroBank_only pb s) (by decide)

theorem purgeBank_within (pb : Nat) (s : State) :
    Within [] s (purgeBank pb s) := Within.of_only (purgeBank_only pb s) (by decide)

end Sys2Proof.Machine
end

