-- ==== Sys2Proof/Laws/WithinViews.lean ====
section
/-!
SUPPORT. Laws/WithinViews.lean: the registers and counters that the operations and commands of Machine/Views.lean may change (generated
text, one lemma for each).
-/
namespace Sys2Proof.Machine

set_option linter.unusedSimpArgs false
set_option linter.tactic.unusedName false

theorem faultRow_within (kind ctx client v : Nat) (off : Int) (store : Bool) (q : Option Nat) (s : State) :
    Within [⟨0x1300, 4, 2⟩, ⟨0x5780, 0x40, 8⟩, ⟨0x5788, 0x40, 8⟩] s (faultRow kind ctx client v off store q s) := by
  unfold faultRow
  try dsimp only
  repeat' first
    | simp +decide (maxDischargeDepth := 8) only [Within.iff_of (bump_within _ _ _ ), Within.iff_of (fillLog_within _ _ _ _ ), *, Within.self, Within.mk_iff, Within.forEach_iff, Within.when_iff, Within.clear_iff, Within.ite_of, spansIn_idx, spansIn_wu, and_self, implies_true, id_eq, ne_eq, not_false_eq_true, reduceCtorEq]
    | split
    | with_reducible refine Within.trans ?_ (Within.forEach (fun _ _ => ?_) _ _)
    | with_reducible refine Within.trans ?_ (Within.when (fun _ => ?_) _ _)

end Sys2Proof.Machine
end

