-- ==== Sys2Proof/Laws/WithinBus.lean ====
section
/-!
SUPPORT. Laws/WithinBus.lean: the registers and counters that the operations and commands of Machine/Bus.lean may change (generated
text, one lemma for each).
-/
namespace Sys2Proof.Machine

set_option linter.unusedSimpArgs false
set_option linter.tactic.unusedName false

theorem respond_within (d : Word) (err : Bool) (s : State) :
    Within [] s (respond d err s) := Within.of_only (respond_only d err s) (by decide)

theorem refuse_within (a : BusAcc) (wr : Bool) (o : Nat) (s : State) :
    Within [⟨0x4804, 4, 2⟩, ⟨0x57B8, 0x40, 8⟩, ⟨0x5980, 0, 1⟩, ⟨0x6014, 0, 1⟩, ⟨0x7000, 4, 2⟩, ⟨0x7018, 4, 3⟩] s (refuse a wr o s) := by
  unfold refuse
  try dsimp only
  repeat' first
    | simp +decide (maxDischargeDepth := 8) only [Within.iff_of (bump_within _ _ _ ), Within.iff_of (raise_within _ _ ), Within.iff_of (fillLog_within _ _ _ _ ), Within.iff_of (respond_within _ _ _ ), *, Within.self, Within.mk_iff, Within.forEach_iff, Within.when_iff, Within.clear_iff, Within.ite_of, spansIn_idx, spansIn_wu, and_self, implies_true, id_eq, ne_eq, not_false_eq_true, reduceCtorEq]
    | split
    | with_reducible refine Within.trans ?_ (Within.forEach (fun _ _ => ?_) _ _)
    | with_reducible refine Within.trans ?_ (Within.when (fun _ => ?_) _ _)

theorem busWrite_within {xs : List Span} (a : BusAcc) (o : Nat) (act : State → State) (s : State)
    (hs : spansIn [⟨0x4804, 4, 2⟩, ⟨0x57B8, 0x40, 8⟩, ⟨0x5980, 0, 1⟩, ⟨0x6014, 0, 1⟩, ⟨0x7000, 4, 2⟩, ⟨0x7018, 4, 3⟩] xs = true) (ha : ∀ s, Within xs s (act s)) : Within xs s (busWrite a o act s) := by
  have hr : ∀ d e s, Within xs s (respond d e s) := fun d e s => Within.of_only (respond_only d e s) (by decide)
  unfold busWrite
  split
  · exact Within.refl _ _
  split
  · exact hr _ _ _
  split
  · exact hr _ _ _
  split
  · exact (refuse_within a true o s).mono hs
  split
  · exact hr _ _ _
  · exact (ha s).trans (hr _ _ _)

theorem busRead_within {xs : List Span} (a : BusAcc) (o : Nat) (act : State → Word × State) (s : State)
    (hs : spansIn [⟨0x4804, 4, 2⟩, ⟨0x57B8, 0x40, 8⟩, ⟨0x5980, 0, 1⟩, ⟨0x6014, 0, 1⟩, ⟨0x7000, 4, 2⟩, ⟨0x7018, 4, 3⟩] xs = true) (ha : ∀ s, Within xs s (act s).2) : Within xs s (busRead a o act s) := by
  have hr : ∀ d e s, Within xs s (respond d e s) := fun d e s => Within.of_only (respond_only d e s) (by decide)
  unfold busRead
  split
  · exact Within.refl _ _
  split
  · exact hr _ _ _
  split
  · exact hr _ _ _
  split
  · exact (refuse_within a false o s).mono hs
  · exact (ha s).trans (hr _ _ _)

theorem busWriteFor_within {xs : List Span} (a : BusAcc) (o : Nat) (mine : State → Bool) (act : State → State) (s : State)
    (hs : spansIn [⟨0x4804, 4, 2⟩, ⟨0x57B8, 0x40, 8⟩, ⟨0x5980, 0, 1⟩, ⟨0x6014, 0, 1⟩, ⟨0x7000, 4, 2⟩, ⟨0x7018, 4, 3⟩] xs = true) (ha : ∀ s, Within xs s (act s)) :
    Within xs s (busWriteFor a o mine act s) := by
  unfold busWriteFor
  split
  · exact busWrite_within a o act s hs ha
  · exact (refuse_within a true o s).mono hs

end Sys2Proof.Machine
end

