-- ==== Sys2Proof/Laws/Bus.lean ====
section
/-!
SUPPORT. Laws/Bus.lean: what a service-bus access does, case by case.
-/
namespace Sys2Proof.Machine

theorem por_of_inReset {s : State} (h : inReset s = false) : s.ck.por = false := by
  unfold inReset at h
  simp only [Bool.or_eq_false_iff] at h
  exact h.1.1

theorem busWrite_por {a : BusAcc} {o : Nat} {act : State → State} {s : State} (h : s.ck.por = true) : busWrite a o act s = s := by
  unfold busWrite
  rw [if_pos h]

theorem busRead_por {a : BusAcc} {o : Nat} {act : State → Word × State} {s : State} (h : s.ck.por = true) : busRead a o act s = s := by
  unfold busRead
  rw [if_pos h]

theorem busWrite_misfit {a : BusAcc} {o : Nat} {act : State → State} {s : State} (h : s.ck.por = false) (h2 : busMisfit a o = true) :
    busWrite a o act s = respond 0 true s := by
  unfold busWrite
  rw [if_neg (by simp [h]), if_pos h2]

theorem busRead_misfit {a : BusAcc} {o : Nat} {act : State → Word × State} {s : State} (h : s.ck.por = false)
    (h2 : busMisfit a o = true) : busRead a o act s = respond 0 true s := by
  unfold busRead
  rw [if_neg (by simp [h]), if_pos h2]

theorem busWrite_inReset {a : BusAcc} {o : Nat} {act : State → State} {s : State} (h : s.ck.por = false) (h2 : busMisfit a o = false)
    (h3 : inReset s = true) : busWrite a o act s = respond 0 false s := by
  unfold busWrite
  rw [if_neg (by simp [h]), if_neg (by simp [h2]), if_pos h3]

theorem busRead_inReset {a : BusAcc} {o : Nat} {act : State → Word × State} {s : State} (h : s.ck.por = false)
    (h2 : busMisfit a o = false) (h3 : inReset s = true) (h4 : o ≠ 0x4408) (h5 : o ≠ 0x4420) :
    busRead a o act s = respond 0 false s := by
  unfold busRead
  rw [if_neg (by simp [h]), if_neg (by simp [h2]), if_pos (by simp [h3, h4, h5])]

theorem busWrite_refused {a : BusAcc} {o : Nat} {act : State → State} {s : State} (h2 : busMisfit a o = false)
    (h3 : inReset s = false) (h4 : accessOk s a true o = false) : busWrite a o act s = refuse a true o s := by
  unfold busWrite
  rw [if_neg (by simp [por_of_inReset h3]), if_neg (by simp [h2]), if_neg (by simp [h3]), if_pos (by simp [h4])]

theorem busRead_refused {a : BusAcc} {o : Nat} {act : State → Word × State} {s : State} (h2 : busMisfit a o = false)
    (h3 : inReset s = false) (h4 : accessOk s a false o = false) : busRead a o act s = refuse a false o s := by
  unfold busRead
  rw [if_neg (by simp [por_of_inReset h3]), if_neg (by simp [h2]), if_neg (by simp [h3]), if_pos (by simp [h4])]

/-- An accepted write acts. -/
theorem busWrite_accepts {a : BusAcc} {o : Nat} {act : State → State} {s : State} (h : accepts a true o s) :
    busWrite a o act s = respond 0 false (act s) := by
  obtain ⟨h3, h2, h4, h5⟩ := h
  unfold busWrite
  rw [if_neg (by simp [por_of_inReset h3]), if_neg (by simp [h2]), if_neg (by simp [h3]), if_neg (by simp [h4]),
    if_neg (by simp [h5 rfl])]

/-- An accepted read acts. -/
theorem busRead_accepts {a : BusAcc} {o : Nat} {act : State → Word × State} {s : State} (h : accepts a false o s) :
    busRead a o act s = respond (act s).1 false (act s).2 := by
  obtain ⟨h3, h2, h4, h5⟩ := h
  unfold busRead
  rw [if_neg (by simp [por_of_inReset h3]), if_neg (by simp [h2]), if_neg (by simp [h3]), if_neg (by simp [h4])]

/-- A write that names an item of the writer's. -/
theorem busWriteFor_mine {a : BusAcc} {o : Nat} {mine : State → Bool} {act : State → State} {s : State} (h : mine s = true) :
    busWriteFor a o mine act s = busWrite a o act s := by
  unfold busWriteFor
  rw [if_pos (by simp [h])]

/-- A write that names another's item. -/
theorem busWriteFor_other {a : BusAcc} {o : Nat} {mine : State → Bool} {act : State → State} {s : State} (h : mine s = false)
    (hr : inReset s = false) (hm : busMisfit a o = false) (ho : accessOk s a true o = true) :
    busWriteFor a o mine act s = refuse a true o s := by
  unfold busWriteFor
  rw [if_neg (by simp [h, hr, hm, ho, por_of_inReset hr])]

/-- Where an access is not for the register, whose the item is makes no difference. -/
theorem busWriteFor_eq {a : BusAcc} {o : Nat} {mine : State → Bool} {act : State → State} {s : State}
    (h : (s.ck.por || busMisfit a o || inReset s || !accessOk s a true o) = true) :
    busWriteFor a o mine act s = busWrite a o act s := by
  unfold busWriteFor
  rw [if_pos (by rw [h]; rfl)]

/-- The log of an error after one more error. -/
theorem fillLog_first {o w0 w1 : Nat} {s : State} (h : regB s o 0 = false) :
    reg (fillLog o w0 w1 s) o = BitVec.ofNat 32 (1 + w0) ∧ reg (fillLog o w0 w1 s) (o + 4) = BitVec.ofNat 32 w1 := by
  unfold fillLog
  rw [if_neg (by simp [h])]
  exact ⟨by rw [reg_setReg_ne (by omega), reg_setReg_self], reg_setReg_self _ _ _⟩

theorem fillLog_again {o w0 w1 : Nat} {s : State} (h : regB s o 0 = true) :
    reg (fillLog o w0 w1 s) o = reg s o ||| 2 ∧ reg (fillLog o w0 w1 s) (o + 4) = reg s (o + 4) := by
  unfold fillLog
  rw [if_pos h]
  unfold orReg
  exact ⟨reg_setReg_self _ _ _, reg_setReg_ne (by omega) _ _⟩

/-- Beyond the pending bit a raised cause writes the trace's status and the event log. -/
theorem raise_rest (n : Nat) (s : State) :
    Within [⟨0x6014, 0, 1⟩, ⟨0x7018, 4, 3⟩] (orReg (0x7000 + 4 * (n / 32 % 2)) (2 ^ (n % 32)) s) (raise n s) := by
  unfold raise
  generalize orReg (0x7000 + 4 * (n / 32 % 2)) (2 ^ (n % 32)) s = u
  dsimp only
  repeat' first
    | simp +decide (maxDischargeDepth := 8) only [Within.iff_of (setReg_within _ _ _), Within.iff_of (setRegF_within _ _ _ _ _), Within.iff_of (orReg_within _ _ _), Within.iff_of (traceTrigger_within _ _ _), Within.self, Within.mk_iff]
    | split

/-- A bit just set is set. -/
theorem orReg_bit {o i : Nat} {s : State} (hi : i < 32) : regB (orReg o (2 ^ i) s) o i = true := by
  unfold regB bit orReg
  rw [reg_setReg_self, BitVec.toNat_or, Nat.testBit_or]
  have : (BitVec.ofNat 32 (2 ^ i)).toNat = 2 ^ i := by
    rw [BitVec.toNat_ofNat, Nat.mod_eq_of_lt (Nat.pow_lt_pow_right (by decide) hi)]
  rw [this, Nat.testBit_two_pow_self, Bool.or_true]

/-- A raised cause is pending. -/
theorem raise_sets (n : Nat) (s : State) : regB (raise n s) (0x7000 + 4 * (n / 32 % 2)) (n % 32) = true := by
  have h := orReg_bit (o := 0x7000 + 4 * (n / 32 % 2)) (s := s) (Nat.mod_lt n (by decide : 0 < 32))
  have k := (raise_rest n s (0x7000 + 4 * (n / 32 % 2)) (by
    have hn : n / 32 % 2 = 0 ∨ n / 32 % 2 = 1 := by omega
    obtain e | e := hn <;> rw [e] <;> decide)).1
  unfold regB at h ⊢
  rw [k]
  exact h

/-- A set bit stays when others are set. -/
theorem orReg_keep {o m i p : Nat} {s : State} (h : regB s p i = true) : regB (orReg o m s) p i = true := by
  by_cases hp : p = o
  · subst hp
    unfold regB bit orReg at *
    rw [reg_setReg_self, BitVec.toNat_or, Nat.testBit_or, h, Bool.true_or]
  · unfold orReg
    rw [regB_eq_of_reg (reg_setReg_ne hp _ _)]
    exact h

/-- A set bit outside the event log stays when a cause is raised. -/
theorem raise_keep {n p i : Nat} {s : State} (h : regB s p i = true)
    (hp : [(⟨0x6014, 0, 1⟩ : Span), ⟨0x7018, 4, 3⟩].any (fun x => x.has p) = false := by decide) : regB (raise n s) p i = true := by
  rw [regB_eq_of_reg (raise_rest n s p hp).1]
  exact orReg_keep h

/-- A raised cause leaves every register but its own as it is. -/
theorem raise_reg {n o : Nat} {s : State}
    (h : [(⟨0x6014, 0, 1⟩ : Span), ⟨0x7000, 4, 2⟩, ⟨0x7018, 4, 3⟩].any (fun x => x.has o) = false := by decide) :
    reg (raise n s) o = reg s o := (raise_within n s o h).1

/-- A bit cleared. -/
theorem clrReg_bit {o i : Nat} {s : State} (hi : i < 32) : regB (clrReg o (2 ^ i) s) o i = false := by
  unfold regB bit clrReg
  rw [reg_setReg_self, BitVec.toNat_and, Nat.testBit_and, BitVec.toNat_not, BitVec.toNat_ofNat]
  have h1 : 2 ^ i % 2 ^ 32 = 2 ^ i := Nat.mod_eq_of_lt (Nat.pow_lt_pow_right (by decide) hi)
  have h2 : (2 ^ 32 - 1 - 2 ^ i).testBit i = false := by
    rw [show 2 ^ 32 - 1 - 2 ^ i = 2 ^ 32 - (2 ^ i + 1) by omega, Nat.testBit_two_pow_sub_succ (Nat.pow_lt_pow_right (by decide) hi)]
    simp
  rw [h1, h2, Bool.and_false]

theorem reg_orReg_ne {o p m : Nat} {s : State} (h : p ≠ o) : reg (orReg o m s) p = reg s p := reg_setReg_ne h _ s
theorem reg_clrReg_ne {o p m : Nat} {s : State} (h : p ≠ o) : reg (clrReg o m s) p = reg s p := reg_setReg_ne h _ s

/-- Raising a cause changes the debug state only by the cycle of the event log. -/
theorem raise_dbg (n : Nat) (s : State) : (raise n s).dbg = { s.dbg with evtCyc := (raise n s).dbg.evtCyc } := by
  have h : ∀ a b z, (traceTrigger a b z).dbg = z.dbg := fun a b z => traceTrigger_only a b z .dbg (by decide)
  unfold raise
  dsimp only
  split <;> (try split) <;> (try split) <;> (try rw [h]) <;> rfl

/-- What an accepted write leaves. -/
theorem exists_write {a : BusAcc} {o : Nat} {act : State → State} {s : State} {P : State → Prop} (h : accepts a true o s)
    (hp : P (respond 0 false (act s))) : ∃ t, (Host.Outcome.next (busWrite a o act s) : Host.Outcome State Fault Refusal) = .next t ∧ P t :=
  ⟨_, congrArg _ (busWrite_accepts h), hp⟩

end Sys2Proof.Machine
end

