-- ==== Sys2Proof/Laws/Canon.lean ====
section
/-!
SUPPORT. Laws/Canon.lean: how the canonical form of memory, registers and counters is kept.
-/
namespace Sys2Proof.Machine

/-- An effect that touches none of the four keeps the form. -/
theorem Canonical.of_only {ps : List Part} {s t : State} (k : Only ps s t)
    (hs : (!ps.contains .mem && !ps.contains .regs && !ps.contains .cnt && !ps.contains .xc) = true) (h : Canonical s) : Canonical t := by
  simp only [Bool.and_eq_true, Bool.not_eq_true', List.contains_eq_mem, decide_eq_false_iff_not] at hs
  have h1 : t.mem = s.mem := k .mem hs.1.1.1
  have h2 : t.regs = s.regs := k .regs hs.1.1.2
  have h3 : t.cnt = s.cnt := k .cnt hs.1.2
  have h4 : t.xc = s.xc := k .xc hs.2
  unfold Canonical
  rw [h1, h2, h3, h4]
  exact h

theorem Canonical.forEach {α : Type} {f : α → State → State} {l : List α} {s : State} (hf : ∀ x s, Canonical s → Canonical (f x s))
    (h : Canonical s) : Canonical (Machine.forEach l f s) := by
  induction l generalizing s with
  | nil => exact h
  | cons x xs ih => exact ih (hf x s h)

theorem Canonical.when {f : State → State} {c : Bool} {s : State} (hf : ∀ s, Canonical s → Canonical (f s)) (h : Canonical s) :
    Canonical (Machine.when c f s) := by
  unfold Machine.when
  split
  · exact hf s h
  · exact h

theorem Canonical.ite_of {x y : State} {c : Prop} [Decidable c] (hx : Canonical x) (hy : Canonical y) :
    Canonical (if c then x else y) := by
  split
  · exact hx
  · exact hy

theorem Canonical.snd {α : Type} {t : State} {p : α × State} {r : α} (h : p = (r, t)) (k : Canonical p.2) : Canonical t := by
  subst h
  exact k

/-- An effect that may not take place. -/
theorem Canonical.getD {u : State} {o : Option State} (h : ∀ t, o = some t → Canonical u → Canonical t) (hc : Canonical u) :
    Canonical (o.getD u) := by
  cases o with
  | none => exact hc
  | some t => exact h t rfl hc

/-- A record update of other fields. -/
theorem Canonical.mk_iff {q : List Instr} {s : State} {x0 : Nat} {x1 : Nat} {x5 : BusSt} {x7 : BankSt} {x8 : FrameSt} {x9 : ArbSt} {x10 : SlipSt} {x11 : TblSt} {x12 : BlendSt} {x13 : HeldSt} {x14 : TimeSt} {x15 : TraceSt} {x16 : DbgSt} {x17 : FwdSt} {x18 : RdxSt} {x19 : PwrSt} {x20 : CkSt} {x21 : ProtSt} : Canonical ⟨q, x0, x1, s.regs, s.cnt, s.xc, x5, s.mem, x7, x8, x9, x10, x11, x12, x13, x14, x15, x16, x17, x18, x19, x20, x21⟩ ↔ Canonical s := Iff.rfl

/-- At reset. -/
theorem Canonical.reset : Canonical State.reset := by
  refine ⟨?_, ?_, ?_, ?_⟩ <;> decide

end Sys2Proof.Machine
end

