-- ==== Sys2Proof/Laws/CanonOps.lean ====
section
/-!
SUPPORT. Laws/CanonOps.lean: the operations and commands of Machine/Ops.lean keep memory, registers and counters in canonical form
(generated text, one lemma for each).
-/
namespace Sys2Proof.Machine

set_option linter.unusedSimpArgs false

theorem setReg_canon (o : Nat) (w : Word) (s : State) (hc : Canonical s) : Canonical (setReg o w s) :=
  ⟨hc.1, NMap.wf_set _ _ _ _ hc.2.1, hc.2.2⟩

theorem setRegF_canon (o hi lo v : Nat) (s : State) (hc : Canonical s) : Canonical (setRegF o hi lo v s) := by
  unfold setRegF
  repeat' first
    | with_reducible assumption
    | simp +contextual (maxDischargeDepth := 60) only [setReg_canon, Canonical.mk_iff, Canonical.forEach, Canonical.when, Canonical.ite_of, implies_true, id_eq, *]
    | (with_reducible refine setReg_canon _ _ _ ?_)
    | split
    | (with_reducible refine Canonical.forEach (fun _ _ _ => ?_) ?_)
    | (with_reducible refine Canonical.when (fun _ _ => ?_) ?_)

theorem orReg_canon (o m : Nat) (s : State) (hc : Canonical s) : Canonical (orReg o m s) := by
  unfold orReg
  repeat' first
    | with_reducible assumption
    | simp +contextual (maxDischargeDepth := 60) only [setReg_canon, Canonical.mk_iff, Canonical.forEach, Canonical.when, Canonical.ite_of, implies_true, id_eq, *]
    | (with_reducible refine setReg_canon _ _ _ ?_)
    | split
    | (with_reducible refine Canonical.forEach (fun _ _ _ => ?_) ?_)
    | (with_reducible refine Canonical.when (fun _ _ => ?_) ?_)

theorem clrReg_canon (o m : Nat) (s : State) (hc : Canonical s) : Canonical (clrReg o m s) := by
  unfold clrReg
  repeat' first
    | with_reducible assumption
    | simp +contextual (maxDischargeDepth := 60) only [setReg_canon, Canonical.mk_iff, Canonical.forEach, Canonical.when, Canonical.ite_of, implies_true, id_eq, *]
    | (with_reducible refine setReg_canon _ _ _ ?_)
    | split
    | (with_reducible refine Canonical.forEach (fun _ _ _ => ?_) ?_)
    | (with_reducible refine Canonical.when (fun _ _ => ?_) ?_)

theorem setRegs_canon (o : Nat) (l : List Nat) (s : State) (hc : Canonical s) : Canonical (setRegs o l s) := by
  induction l generalizing o s with
  | nil => exact hc
  | cons w ws ih => exact ih (o + 4) _ (setReg_canon o _ s hc)

theorem drawFree_canon (s : State) (hc : Canonical s) : Canonical (drawFree s).2 :=
  Canonical.of_only (drawFree_only s) (by decide) hc

theorem bump_canon (o n : Nat) (s : State) (hc : Canonical s) : Canonical (bump o n s) :=
  ⟨hc.1, hc.2.1, NMap.wf_upd 0 s.cnt o (fun c => c + BitVec.ofNat 56 n) hc.2.2.1, hc.2.2.2⟩

theorem xbump_canon (i n : Nat) (s : State) (hc : Canonical s) : Canonical (xbump i n s) := by
  unfold xbump
  split
  · exact ⟨hc.1, hc.2.1, hc.2.2.1, NMap.wf_upd 0 s.xc i (fun c => c + BitVec.ofNat 56 n) hc.2.2.2⟩
  · exact hc

theorem genRec_canon (r : Rec) (hasCtx : Bool) (s : State) (hc : Canonical s) : Canonical (genRec r hasCtx s) :=
  Canonical.of_only (genRec_only r hasCtx s) (by decide) hc

theorem genTime_canon (kind d : Nat) (s : State) (hc : Canonical s) : Canonical (genTime kind d s) :=
  Canonical.of_only (genTime_only kind d s) (by decide) hc

theorem traceTrigger_canon (src cause : Nat) (s : State) (hc : Canonical s) : Canonical (traceTrigger src cause s) := by
  unfold traceTrigger
  repeat' first
    | with_reducible assumption
    | simp +contextual (maxDischargeDepth := 60) only [orReg_canon, genRec_canon, Canonical.mk_iff, Canonical.forEach, Canonical.when, Canonical.ite_of, implies_true, id_eq, *]
    | (with_reducible refine orReg_canon _ _ _ ?_)
    | (with_reducible refine genRec_canon _ _ _ ?_)
    | split
    | (with_reducible refine Canonical.forEach (fun _ _ _ => ?_) ?_)
    | (with_reducible refine Canonical.when (fun _ _ => ?_) ?_)

theorem raise_canon (n : Nat) (s : State) (hc : Canonical s) : Canonical (raise n s) := by
  unfold raise
  repeat' first
    | with_reducible assumption
    | simp +contextual (maxDischargeDepth := 60) only [setReg_canon, setRegF_canon, orReg_canon, traceTrigger_canon, Canonical.mk_iff, Canonical.forEach, Canonical.when, Canonical.ite_of, implies_true, id_eq, *]
    | (with_reducible refine setReg_canon _ _ _ ?_)
    | (with_reducible refine setRegF_canon _ _ _ _ _ ?_)
    | (with_reducible refine orReg_canon _ _ _ ?_)
    | (with_reducible refine traceTrigger_canon _ _ _ ?_)
    | split
    | (with_reducible refine Canonical.forEach (fun _ _ _ => ?_) ?_)
    | (with_reducible refine Canonical.when (fun _ _ => ?_) ?_)

theorem fillLog_canon (o w0 w1 : Nat) (s : State) (hc : Canonical s) : Canonical (fillLog o w0 w1 s) := by
  unfold fillLog
  repeat' first
    | with_reducible assumption
    | simp +contextual (maxDischargeDepth := 60) only [setReg_canon, orReg_canon, Canonical.mk_iff, Canonical.forEach, Canonical.when, Canonical.ite_of, implies_true, id_eq, *]
    | (with_reducible refine setReg_canon _ _ _ ?_)
    | (with_reducible refine orReg_canon _ _ _ ?_)
    | split
    | (with_reducible refine Canonical.forEach (fun _ _ _ => ?_) ?_)
    | (with_reducible refine Canonical.when (fun _ _ => ?_) ?_)

theorem fillLog1_canon (o w0 : Nat) (s : State) (hc : Canonical s) : Canonical (fillLog1 o w0 s) := by
  unfold fillLog1
  repeat' first
    | with_reducible assumption
    | simp +contextual (maxDischargeDepth := 60) only [setReg_canon, orReg_canon, Canonical.mk_iff, Canonical.forEach, Canonical.when, Canonical.ite_of, implies_true, id_eq, *]
    | (with_reducible refine setReg_canon _ _ _ ?_)
    | (with_reducible refine orReg_canon _ _ _ ?_)
    | split
    | (with_reducible refine Canonical.forEach (fun _ _ _ => ?_) ?_)
    | (with_reducible refine Canonical.when (fun _ _ => ?_) ?_)

theorem clearLog_canon (o : Nat) (w : Word) (s : State) (hc : Canonical s) : Canonical (clearLog o w s) := by
  unfold clearLog
  repeat' first
    | with_reducible assumption
    | simp +contextual (maxDischargeDepth := 60) only [clrReg_canon, Canonical.mk_iff, Canonical.forEach, Canonical.when, Canonical.ite_of, implies_true, id_eq, *]
    | (with_reducible refine clrReg_canon _ _ _ ?_)
    | split
    | (with_reducible refine Canonical.forEach (fun _ _ _ => ?_) ?_)
    | (with_reducible refine Canonical.when (fun _ _ => ?_) ?_)

theorem dropJobs_canon (p : Job → Bool) (s : State) (hc : Canonical s) : Canonical (dropJobs p s) :=
  Canonical.of_only (dropJobs_only p s) (by decide) hc

theorem estimate_canon (k n : Nat) (s : State) (hc : Canonical s) : Canonical (estimate k n s) :=
  Canonical.of_only (estimate_only k n s) (by decide) hc

end Sys2Proof.Machine
end

