-- ==== Sys2Proof/Laws/CanonBanks.lean ====
section
/-!
SUPPORT. Laws/CanonBanks.lean: the operations and commands of Machine/Banks.lean keep memory, registers and counters in canonical form
(generated text, one lemma for each).
-/
namespace Sys2Proof.Machine

set_option linter.unusedSimpArgs false

theorem fwdTrigger_canon (kind unit trig : Nat) (s : State) (hc : Canonical s) : Canonical (fwdTrigger kind unit trig s) := by
  unfold fwdTrigger
  repeat' first
    | with_reducible assumption
    | simp +contextual (maxDischargeDepth := 60) only [raise_canon, Canonical.mk_iff, Canonical.forEach, Canonical.when, Canonical.ite_of, implies_true, id_eq, *]
    | (with_reducible refine raise_canon _ _ ?_)
    | split
    | (with_reducible refine Canonical.forEach (fun _ _ _ => ?_) ?_)
    | (with_reducible refine Canonical.when (fun _ _ => ?_) ?_)

theorem openWindow_canon (s : State) (hc : Canonical s) : Canonical (openWindow s) :=
  Canonical.of_only (openWindow_only s) (by decide) hc

theorem openStorm_canon (s : State) (hc : Canonical s) : Canonical (openStorm s) :=
  Canonical.of_only (openStorm_only s) (by decide) hc

theorem fwdCount_canon (kind unit thr trig n : Nat) (s : State) (hc : Canonical s) : Canonical (fwdCount kind unit thr trig n s) := by
  unfold fwdCount
  repeat' first
    | with_reducible assumption
    | simp +contextual (maxDischargeDepth := 60) only [fwdTrigger_canon, openWindow_canon, Canonical.mk_iff, Canonical.forEach, Canonical.when, Canonical.ite_of, implies_true, id_eq, *]
    | (with_reducible refine fwdTrigger_canon _ _ _ _ ?_)
    | (with_reducible refine openWindow_canon _ ?_)
    | split
    | (with_reducible refine Canonical.forEach (fun _ _ _ => ?_) ?_)
    | (with_reducible refine Canonical.when (fun _ _ => ?_) ?_)

theorem fwdCorrected_canon (lb n : Nat) (s : State) (hc : Canonical s) : Canonical (fwdCorrected lb n s) := by
  unfold fwdCorrected
  repeat' first
    | with_reducible assumption
    | simp +contextual (maxDischargeDepth := 60) only [fwdCount_canon, Canonical.mk_iff, Canonical.forEach, Canonical.when, Canonical.ite_of, implies_true, id_eq, *]
    | (with_reducible refine fwdCount_canon _ _ _ _ _ _ ?_)
    | split
    | (with_reducible refine Canonical.forEach (fun _ _ _ => ?_) ?_)
    | (with_reducible refine Canonical.when (fun _ _ => ?_) ?_)

theorem fwdParity_canon (kind unit : Nat) (s : State) (hc : Canonical s) : Canonical (fwdParity kind unit s) := by
  unfold fwdParity
  repeat' first
    | with_reducible assumption
    | simp +contextual (maxDischargeDepth := 60) only [fwdCount_canon, Canonical.mk_iff, Canonical.forEach, Canonical.when, Canonical.ite_of, implies_true, id_eq, *]
    | (with_reducible refine fwdCount_canon _ _ _ _ _ _ ?_)
    | split
    | (with_reducible refine Canonical.forEach (fun _ _ _ => ?_) ?_)
    | (with_reducible refine Canonical.when (fun _ _ => ?_) ?_)

theorem stormBank_canon (lb : Nat) (s : State) (hc : Canonical s) : Canonical (stormBank lb s) :=
  Canonical.of_only (stormBank_only lb s) (by decide) hc

theorem fwdUncorrected_canon (copy : Bool) (lb : Nat) (s : State) (hc : Canonical s) : Canonical (fwdUncorrected copy lb s) := by
  unfold fwdUncorrected
  repeat' first
    | with_reducible assumption
    | simp +contextual (maxDischargeDepth := 60) only [fwdTrigger_canon, stormBank_canon, Canonical.mk_iff, Canonical.forEach, Canonical.when, Canonical.ite_of, implies_true, id_eq, *]
    | (with_reducible refine fwdTrigger_canon _ _ _ _ ?_)
    | (with_reducible refine stormBank_canon _ _ ?_)
    | split
    | (with_reducible refine Canonical.forEach (fun _ _ _ => ?_) ?_)
    | (with_reducible refine Canonical.when (fun _ _ => ?_) ?_)

theorem setPow_canon (pb : Nat) (p : BankPow) (s : State) (hc : Canonical s) : Canonical (setPow pb p s) :=
  Canonical.of_only (setPow_only pb p s) (by decide) hc

theorem deadAccess_canon (lb : Nat) (s : State) (hc : Canonical s) : Canonical (deadAccess lb s) := by
  unfold deadAccess
  repeat' first
    | with_reducible assumption
    | simp +contextual (maxDischargeDepth := 60) only [bump_canon, xbump_canon, raise_canon, Canonical.mk_iff, Canonical.forEach, Canonical.when, Canonical.ite_of, implies_true, id_eq, *]
    | (with_reducible refine bump_canon _ _ _ ?_)
    | (with_reducible refine xbump_canon _ _ _ ?_)
    | (with_reducible refine raise_canon _ _ ?_)
    | split
    | (with_reducible refine Canonical.forEach (fun _ _ _ => ?_) ?_)
    | (with_reducible refine Canonical.when (fun _ _ => ?_) ?_)

theorem storeChunk_canon (pb row c : Nat) (data : BitVec 256) (pois : Bool) (s : State) (hc : Canonical s) :
    Canonical (storeChunk pb row c data pois s) :=
  ⟨NMap.wf_setList _ _ _ _ hc.1, hc.2⟩

theorem strikeRow_canon (pb row : Nat) (ups : List Upset) (s : State) (hc : Canonical s) : Canonical (strikeRow pb row ups s) :=
  Canonical.of_only (strikeRow_only pb row ups s) (by decide) hc

theorem eccLog_canon (o lb pb row c bitpos : Nat) (r : Reader) (s : State) (hc : Canonical s) : Canonical (eccLog o lb pb row c bitpos r s) := by
  unfold eccLog
  repeat' first
    | with_reducible assumption
    | simp +contextual (maxDischargeDepth := 60) only [fillLog_canon, Canonical.mk_iff, Canonical.forEach, Canonical.when, Canonical.ite_of, implies_true, id_eq, *]
    | (with_reducible refine fillLog_canon _ _ _ _ ?_)
    | split
    | (with_reducible refine Canonical.forEach (fun _ _ _ => ?_) ?_)
    | (with_reducible refine Canonical.when (fun _ _ => ?_) ?_)

theorem accountChunk_canon (t lb pb row c : Nat) (r : Reader) (x : ChunkRead) (s : State) (hc : Canonical s) : Canonical (accountChunk t lb pb row c r x s) := by
  unfold accountChunk
  repeat' first
    | with_reducible assumption
    | simp +contextual (maxDischargeDepth := 60) only [bump_canon, xbump_canon, raise_canon, fwdCorrected_canon, fwdUncorrected_canon, eccLog_canon, Canonical.mk_iff, Canonical.forEach, Canonical.when, Canonical.ite_of, implies_true, id_eq, *]
    | (with_reducible refine bump_canon _ _ _ ?_)
    | (with_reducible refine xbump_canon _ _ _ ?_)
    | (with_reducible refine raise_canon _ _ ?_)
    | (with_reducible refine fwdCorrected_canon _ _ _ ?_)
    | (with_reducible refine fwdUncorrected_canon _ _ _ ?_)
    | (with_reducible refine eccLog_canon _ _ _ _ _ _ _ _ ?_)
    | split
    | (with_reducible refine Canonical.forEach (fun _ _ _ => ?_) ?_)
    | (with_reducible refine Canonical.when (fun _ _ => ?_) ?_)

theorem readChunk_canon (t lb pb row : Nat) (r : Reader) (ups : List Upset) (c : Nat) (s : State) (hc : Canonical s) : Canonical (readChunk t lb pb row r ups c s).2 := by
  unfold readChunk
  repeat' first
    | with_reducible assumption
    | simp +contextual (maxDischargeDepth := 60) only [accountChunk_canon, Canonical.mk_iff, Canonical.forEach, Canonical.when, Canonical.ite_of, implies_true, id_eq, *]
    | (with_reducible refine accountChunk_canon _ _ _ _ _ _ _ _ ?_)
    | split
    | (with_reducible refine Canonical.forEach (fun _ _ _ => ?_) ?_)
    | (with_reducible refine Canonical.when (fun _ _ => ?_) ?_)

theorem readRowAt_canon (t lb pb row : Nat) (r : Reader) (ups : List Upset) (s : State) (hc : Canonical s) : Canonical (readRowAt t lb pb row r ups s).2 := by
  unfold readRowAt
  repeat' first
    | with_reducible assumption
    | simp +contextual (maxDischargeDepth := 60) only [estimate_canon, readChunk_canon, Canonical.mk_iff, Canonical.forEach, Canonical.when, Canonical.ite_of, implies_true, id_eq, *]
    | (refine Canonical.snd (by assumption) (readChunk_canon _ _ _ _ _ _ _ _ ?_))
    | (with_reducible refine estimate_canon _ _ _ ?_)
    | (with_reducible refine readChunk_canon _ _ _ _ _ _ _ _ ?_)
    | split
    | (with_reducible refine Canonical.forEach (fun _ _ _ => ?_) ?_)
    | (with_reducible refine Canonical.when (fun _ _ => ?_) ?_)

theorem readRow_canon (t lb row : Nat) (r : Reader) (ups : List Upset) (s : State) (hc : Canonical s) : Canonical (readRow t lb row r ups s).2 := by
  unfold readRow
  repeat' first
    | with_reducible assumption
    | simp +contextual (maxDischargeDepth := 60) only [readRowAt_canon, Canonical.mk_iff, Canonical.forEach, Canonical.when, Canonical.ite_of, implies_true, id_eq, *]
    | (refine Canonical.snd (by assumption) (readRowAt_canon _ _ _ _ _ _ _ ?_))
    | (with_reducible refine readRowAt_canon _ _ _ _ _ _ _ ?_)
    | split
    | (with_reducible refine Canonical.forEach (fun _ _ _ => ?_) ?_)
    | (with_reducible refine Canonical.when (fun _ _ => ?_) ?_)

theorem storeChunks_canon (pb row en : Nat) (data : Row) (pois : Mask4) (s : State) (hc : Canonical s) : Canonical (storeChunks pb row en data pois s) := by
  unfold storeChunks
  repeat' first
    | with_reducible assumption
    | simp +contextual (maxDischargeDepth := 60) only [storeChunk_canon, Canonical.mk_iff, Canonical.forEach, Canonical.when, Canonical.ite_of, implies_true, id_eq, *]
    | (with_reducible refine storeChunk_canon _ _ _ _ _ _ ?_)
    | split
    | (with_reducible refine Canonical.forEach (fun _ _ _ => ?_) ?_)
    | (with_reducible refine Canonical.when (fun _ _ => ?_) ?_)

theorem dropWb_canon (lb row en : Nat) (s : State) (hc : Canonical s) : Canonical (dropWb lb row en s) :=
  Canonical.of_only (dropWb_only lb row en s) (by decide) hc

theorem dualWrite_canon (lb pb row en cls wt : Nat) (s : State) (hc : Canonical s) : Canonical (dualWrite lb pb row en cls wt s) :=
  Canonical.of_only (dualWrite_only lb pb row en cls wt s) (by decide) hc

theorem storeRow_canon (lb row en : Nat) (data : Row) (pois : Mask4) (cls wt : Nat) (s : State) (hc : Canonical s) : Canonical (storeRow lb row en data pois cls wt s) := by
  unfold storeRow
  repeat' first
    | with_reducible assumption
    | simp +contextual (maxDischargeDepth := 60) only [estimate_canon, storeChunks_canon, dropWb_canon, dualWrite_canon, Canonical.mk_iff, Canonical.forEach, Canonical.when, Canonical.ite_of, implies_true, id_eq, *]
    | (with_reducible refine estimate_canon _ _ _ ?_)
    | (with_reducible refine storeChunks_canon _ _ _ _ _ _ ?_)
    | (with_reducible refine dropWb_canon _ _ _ _ ?_)
    | (with_reducible refine dualWrite_canon _ _ _ _ _ _ _ ?_)
    | split
    | (with_reducible refine Canonical.forEach (fun _ _ _ => ?_) ?_)
    | (with_reducible refine Canonical.when (fun _ _ => ?_) ?_)

theorem keepUndo_canon (t seen pb row en : Nat) (port : Bool) (s : State) (hc : Canonical s) : Canonical (keepUndo t seen pb row en port s) :=
  Canonical.of_only (keepUndo_only t seen pb row en port s) (by decide) hc

theorem portStore_canon (t lb row en : Nat) (port : Bool) (data : Row) (pois : Mask4) (cls wt : Nat) (s : State) (hc : Canonical s) : Canonical (portStore t lb row en port data pois cls wt s) := by
  unfold portStore
  repeat' first
    | with_reducible assumption
    | simp +contextual (maxDischargeDepth := 60) only [bump_canon, xbump_canon, storeRow_canon, keepUndo_canon, Canonical.mk_iff, Canonical.forEach, Canonical.when, Canonical.ite_of, implies_true, id_eq, *]
    | (with_reducible refine bump_canon _ _ _ ?_)
    | (with_reducible refine xbump_canon _ _ _ ?_)
    | (with_reducible refine storeRow_canon _ _ _ _ _ _ _ _ ?_)
    | (with_reducible refine keepUndo_canon _ _ _ _ _ _ _ ?_)
    | split
    | (with_reducible refine Canonical.forEach (fun _ _ _ => ?_) ?_)
    | (with_reducible refine Canonical.when (fun _ _ => ?_) ?_)

theorem clearBank_canon (pb epoch : Nat) (zf : Bool) (s : State) (hc : Canonical s) : Canonical (clearBank pb epoch zf s) :=
  ⟨NMap.wf_filter _ _ _ hc.1, hc.2⟩

theorem eraseBank_canon (pb : Nat) (s : State) (hc : Canonical s) : Canonical (eraseBank pb s) := by
  unfold eraseBank
  repeat' first
    | with_reducible assumption
    | simp +contextual (maxDischargeDepth := 60) only [drawFree_canon, clearBank_canon, Canonical.mk_iff, Canonical.forEach, Canonical.when, Canonical.ite_of, implies_true, id_eq, *]
    | (refine Canonical.snd (by assumption) (drawFree_canon _ ?_))
    | (with_reducible refine drawFree_canon _ ?_)
    | (with_reducible refine clearBank_canon _ _ _ _ ?_)
    | split
    | (with_reducible refine Canonical.forEach (fun _ _ _ => ?_) ?_)
    | (with_reducible refine Canonical.when (fun _ _ => ?_) ?_)

theorem zeroBank_canon (pb : Nat) (s : State) (hc : Canonical s) : Canonical (zeroBank pb s) := by
  unfold zeroBank
  repeat' first
    | with_reducible assumption
    | simp +contextual (maxDischargeDepth := 60) only [clearBank_canon, Canonical.mk_iff, Canonical.forEach, Canonical.when, Canonical.ite_of, implies_true, id_eq, *]
    | (with_reducible refine clearBank_canon _ _ _ _ ?_)
    | split
    | (with_reducible refine Canonical.forEach (fun _ _ _ => ?_) ?_)
    | (with_reducible refine Canonical.when (fun _ _ => ?_) ?_)

theorem purgeBank_canon (pb : Nat) (s : State) (hc : Canonical s) : Canonical (purgeBank pb s) := by
  unfold purgeBank
  repeat' first
    | with_reducible assumption
    | simp +contextual (maxDischargeDepth := 60) only [clearBank_canon, Canonical.mk_iff, Canonical.forEach, Canonical.when, Canonical.ite_of, implies_true, id_eq, *]
    | (with_reducible refine clearBank_canon _ _ _ _ ?_)
    | split
    | (with_reducible refine Canonical.forEach (fun _ _ _ => ?_) ?_)
    | (with_reducible refine Canonical.when (fun _ _ => ?_) ?_)

end Sys2Proof.Machine
end

