-- ==== Sys2Proof/Laws/CanonViews.lean ====
section
/-!
SUPPORT. Laws/CanonViews.lean: the operations and commands of Machine/Views.lean keep memory, registers and counters in canonical form
(generated text, one lemma for each).
-/
namespace Sys2Proof.Machine

set_option linter.unusedSimpArgs false

theorem faultRow_canon (kind ctx client v : Nat) (off : Int) (store : Bool) (q : Option Nat) (s : State) (hc : Canonical s) : Canonical (faultRow kind ctx client v off store q s) := by
  unfold faultRow
  repeat' first
    | with_reducible assumption
    | simp +contextual (maxDischargeDepth := 60) only [bump_canon, fillLog_canon, Canonical.mk_iff, Canonical.forEach, Canonical.when, Canonical.ite_of, implies_true, id_eq, *]
    | (with_reducible refine bump_canon _ _ _ ?_)
    | (with_reducible refine fillLog_canon _ _ _ _ ?_)
    | split
    | (with_reducible refine Canonical.forEach (fun _ _ _ => ?_) ?_)
    | (with_reducible refine Canonical.when (fun _ _ => ?_) ?_)

end Sys2Proof.Machine
end

