-- ==== Sys2Proof/Laws/CanonBus.lean ====
section
/-!
SUPPORT. Laws/CanonBus.lean: the operations and commands of Machine/Bus.lean keep memory, registers and counters in canonical form
(generated text, one lemma for each).
-/
namespace Sys2Proof.Machine

set_option linter.unusedSimpArgs false

theorem respond_canon (d : Word) (err : Bool) (s : State) (hc : Canonical s) : Canonical (respond d err s) :=
  Canonical.of_only (respond_only d err s) (by decide) hc

theorem refuse_canon (a : BusAcc) (wr : Bool) (o : Nat) (s : State) (hc : Canonical s) : Canonical (refuse a wr o s) := by
  unfold refuse
  repeat' first
    | with_reducible assumption
    | simp +contextual (maxDischargeDepth := 60) only [bump_canon, raise_canon, fillLog_canon, respond_canon, Canonical.mk_iff, Canonical.forEach, Canonical.when, Canonical.ite_of, implies_true, id_eq, *]
    | (with_reducible refine bump_canon _ _ _ ?_)
    | (with_reducible refine raise_canon _ _ ?_)
    | (with_reducible refine fillLog_canon _ _ _ _ ?_)
    | (with_reducible refine respond_canon _ _ _ ?_)
    | split
    | (with_reducible refine Canonical.forEach (fun _ _ _ => ?_) ?_)
    | (with_reducible refine Canonical.when (fun _ _ => ?_) ?_)

theorem busWrite_canon (a : BusAcc) (o : Nat) (act : State → State) (s : State) (ha : ∀ s, Canonical s → Canonical (act s))
    (hc : Canonical s) : Canonical (busWrite a o act s) := by
  unfold busWrite
  split
  · exact hc
  split
  · exact respond_canon _ _ _ hc
  split
  · exact respond_canon _ _ _ hc
  split
  · exact refuse_canon _ _ _ _ hc
  split
  · exact respond_canon _ _ _ hc
  · exact respond_canon _ _ _ (ha s hc)

theorem busRead_canon (a : BusAcc) (o : Nat) (act : State → Word × State) (s : State)
    (ha : ∀ s, Canonical s → Canonical (act s).2) (hc : Canonical s) : Canonical (busRead a o act s) := by
  unfold busRead
  split
  · exact hc
  split
  · exact respond_canon _ _ _ hc
  split
  · exact respond_canon _ _ _ hc
  split
  · exact refuse_canon _ _ _ _ hc
  · exact respond_canon _ _ _ (ha s hc)

theorem busWriteFor_canon (a : BusAcc) (o : Nat) (mine : State → Bool) (act : State → State) (s : State)
    (ha : ∀ s, Canonical s → Canonical (act s)) (hc : Canonical s) : Canonical (busWriteFor a o mine act s) := by
  unfold busWriteFor
  split
  · exact busWrite_canon a o act s ha hc
  · exact refuse_canon _ _ _ _ hc

end Sys2Proof.Machine
end

