-- ==== Sys2Proof/Laws/ExecPower.lean ====
section
/-!
SUPPORT. Laws/ExecPower.lean: what each command of Machine/Power.lean may change (generated text, one lemma for each command).
-/
namespace Sys2Proof.Machine

set_option linter.unusedSimpArgs false
set_option linter.tactic.unusedName false

theorem execBankPreqWrite_only (a : BusAcc) (n : BitVec 4) (w : Word) (s : State) (s' : State) (h : execBankPreqWrite a n w s = .next s') :
    Only [.regs, .cnt, .bus, .bank, .tr, .dbg] s s' := by
  unfold execBankPreqWrite at h
  injection h with h
  subst h
  try dsimp only
  repeat' first
    | (with_reducible refine Only.trans ?_ (busWrite_only _ _ _ _ (by decide) (fun _ => ?_)))
    | simp (maxDischargeDepth := 8) only [Only.iff_of (requestBanks_only _ _ _ ), *, partsIn_nil, partsIn_cons, Only.self, Only.mk_iff, Only.forEach_iff, Only.when_iff, Only.ite_of, true_or, or_true, and_self, implies_true, List.mem_cons, reduceCtorEq, or_false, false_or, id_eq]
    | split
    | with_reducible refine Only.trans ?_ (Only.forEach (fun _ _ => ?_) _ _)
    | with_reducible refine Only.trans ?_ (Only.when (fun _ => ?_) _ _)

theorem execBankPowerupStart_only (bank : Nat) (s : State) (s' : State) (h : execBankPowerupStart bank s = .next s') :
    Only [.bank] s s' := by
  unfold execBankPowerupStart at h
  injection h with h
  subst h
  try dsimp only
  repeat' first
    | simp (maxDischargeDepth := 8) only [Only.iff_of (setPow_only _ _ _ ), *, partsIn_nil, partsIn_cons, Only.self, Only.mk_iff, Only.forEach_iff, Only.when_iff, Only.ite_of, true_or, or_true, and_self, implies_true, List.mem_cons, reduceCtorEq, or_false, false_or, id_eq]
    | split
    | with_reducible refine Only.trans ?_ (Only.forEach (fun _ _ => ?_) _ _)
    | with_reducible refine Only.trans ?_ (Only.when (fun _ => ?_) _ _)

theorem execBankPowerdownStart_only (bank : Nat) (s : State) (s' : State) (h : execBankPowerdownStart bank s = .next s') :
    Only [.regs, .mem, .bank, .fr, .tr, .dbg, .fw, .pw] s s' := by
  unfold execBankPowerdownStart at h
  injection h with h
  subst h
  try dsimp only
  repeat' first
    | simp (maxDischargeDepth := 8) only [Only.iff_of (setPow_only _ _ _ ), Only.iff_of (offEndsMig_only _ _ _ ), Only.iff_of (settleWb_only _ _ _ ), *, partsIn_nil, partsIn_cons, Only.self, Only.mk_iff, Only.forEach_iff, Only.when_iff, Only.ite_of, true_or, or_true, and_self, implies_true, List.mem_cons, reduceCtorEq, or_false, false_or, id_eq]
    | split
    | with_reducible refine Only.trans ?_ (Only.forEach (fun _ _ => ?_) _ _)
    | with_reducible refine Only.trans ?_ (Only.when (fun _ => ?_) _ _)

theorem execBankTransitionDone_only (bank : Nat) (s : State) (s' : State) (h : execBankTransitionDone bank s = .next s') :
    Only [.free, .regs, .mem, .bank, .tr, .dbg, .pw] s s' := by
  unfold execBankTransitionDone at h
  injection h with h
  subst h
  try dsimp only
  repeat' first
    | simp (maxDischargeDepth := 8) only [Only.iff_of (setPow_only _ _ _ ), Only.iff_of (powerContents_only _ _ _ _ ), Only.iff_of (refuseHeld_only _ _ _ _ ), *, partsIn_nil, partsIn_cons, Only.self, Only.mk_iff, Only.forEach_iff, Only.when_iff, Only.ite_of, true_or, or_true, and_self, implies_true, List.mem_cons, reduceCtorEq, or_false, false_or, id_eq]
    | split
    | with_reducible refine Only.trans ?_ (Only.forEach (fun _ _ => ?_) _ _)
    | with_reducible refine Only.trans ?_ (Only.when (fun _ => ?_) _ _)

theorem execDomainReqWrite_only (a : BusAcc) (w : Word) (s : State) (s' : State) (h : execDomainReqWrite a w s = .next s') :
    Only [.regs, .cnt, .bus, .tr, .dbg, .pw] s s' := by
  unfold execDomainReqWrite at h
  injection h with h
  subst h
  try dsimp only
  repeat' first
    | (with_reducible refine Only.trans ?_ (busWrite_only _ _ _ _ (by decide) (fun _ => ?_)))
    | simp (maxDischargeDepth := 8) only [Only.iff_of (requestDomains_only _ _ ), *, partsIn_nil, partsIn_cons, Only.self, Only.mk_iff, Only.forEach_iff, Only.when_iff, Only.ite_of, true_or, or_true, and_self, implies_true, List.mem_cons, reduceCtorEq, or_false, false_or, id_eq]
    | split
    | with_reducible refine Only.trans ?_ (Only.forEach (fun _ _ => ?_) _ _)
    | with_reducible refine Only.trans ?_ (Only.when (fun _ => ?_) _ _)

theorem execDomainPowerdownStart_only (dom : BitVec 5) (s : State) (s' : State) (h : execDomainPowerdownStart dom s = .next s') :
    Only [.pw] s s' := by
  unfold execDomainPowerdownStart at h
  injection h with h
  subst h
  try dsimp only
  repeat' first
    | simp (maxDischargeDepth := 8) only [Only.iff_of (setDom_only _ _ _ ), *, partsIn_nil, partsIn_cons, Only.self, Only.mk_iff, Only.forEach_iff, Only.when_iff, Only.ite_of, true_or, or_true, and_self, implies_true, List.mem_cons, reduceCtorEq, or_false, false_or, id_eq]
    | split
    | with_reducible refine Only.trans ?_ (Only.forEach (fun _ _ => ?_) _ _)
    | with_reducible refine Only.trans ?_ (Only.when (fun _ => ?_) _ _)

theorem execDomainPowerupStart_only (dom : BitVec 5) (s : State) (s' : State) (h : execDomainPowerupStart dom s = .next s') :
    Only [.pw] s s' := by
  unfold execDomainPowerupStart at h
  injection h with h
  subst h
  try dsimp only
  repeat' first
    | simp (maxDischargeDepth := 8) only [Only.iff_of (setDom_only _ _ _ ), *, partsIn_nil, partsIn_cons, Only.self, Only.mk_iff, Only.forEach_iff, Only.when_iff, Only.ite_of, true_or, or_true, and_self, implies_true, List.mem_cons, reduceCtorEq, or_false, false_or, id_eq]
    | split
    | with_reducible refine Only.trans ?_ (Only.forEach (fun _ _ => ?_) _ _)
    | with_reducible refine Only.trans ?_ (Only.when (fun _ => ?_) _ _)

theorem execDomainTransitionDone_only (dom : BitVec 5) (s : State) (s' : State) (h : execDomainTransitionDone dom s = .next s') :
    Only [.rx, .pw] s s' := by
  unfold execDomainTransitionDone at h
  injection h with h
  subst h
  try dsimp only
  repeat' first
    | simp (maxDischargeDepth := 8) only [Only.iff_of (setDom_only _ _ _ ), Only.iff_of (domLoses_only _ _ ), *, partsIn_nil, partsIn_cons, Only.self, Only.mk_iff, Only.forEach_iff, Only.when_iff, Only.ite_of, true_or, or_true, and_self, implies_true, List.mem_cons, reduceCtorEq, or_false, false_or, id_eq]
    | split
    | with_reducible refine Only.trans ?_ (Only.forEach (fun _ _ => ?_) _ _)
    | with_reducible refine Only.trans ?_ (Only.when (fun _ => ?_) _ _)

end Sys2Proof.Machine
end

