-- ==== Sys2Proof/Laws/CanonPower.lean ====
section
/-!
SUPPORT. Laws/CanonPower.lean: the operations and commands of Machine/Power.lean keep memory, registers and counters in canonical form
(generated text, one lemma for each).
-/
namespace Sys2Proof.Machine

set_option linter.unusedSimpArgs false

theorem refusePower_canon (lb : Nat) (s : State) (hc : Canonical s) : Canonical (refusePower lb s) := by
  unfold refusePower
  repeat' first
    | with_reducible assumption
    | simp +contextual (maxDischargeDepth := 60) only [orReg_canon, raise_canon, Canonical.mk_iff, Canonical.forEach, Canonical.when, Canonical.ite_of, implies_true, id_eq, *]
    | (with_reducible refine orReg_canon _ _ _ ?_)
    | (with_reducible refine raise_canon _ _ ?_)
    | split
    | (with_reducible refine Canonical.forEach (fun _ _ _ => ?_) ?_)
    | (with_reducible refine Canonical.when (fun _ _ => ?_) ?_)

theorem requestSpare_canon (lb : Nat) (r : PowReq) (s : State) (hc : Canonical s) : Canonical (requestSpare lb r s) :=
  Canonical.of_only (requestSpare_only lb r s) (by decide) hc

theorem requestBank_canon (lb target : Nat) (zfill : Bool) (s : State) (hc : Canonical s) : Canonical (requestBank lb target zfill s) := by
  unfold requestBank
  repeat' first
    | with_reducible assumption
    | simp +contextual (maxDischargeDepth := 60) only [setPow_canon, refusePower_canon, requestSpare_canon, Canonical.mk_iff, Canonical.forEach, Canonical.when, Canonical.ite_of, implies_true, id_eq, *]
    | (with_reducible refine setPow_canon _ _ _ ?_)
    | (with_reducible refine refusePower_canon _ _ ?_)
    | (with_reducible refine requestSpare_canon _ _ _ ?_)
    | split
    | (with_reducible refine Canonical.forEach (fun _ _ _ => ?_) ?_)
    | (with_reducible refine Canonical.when (fun _ _ => ?_) ?_)

theorem autowake_canon (lb : Nat) (s : State) (hc : Canonical s) : Canonical (autowake lb s) :=
  Canonical.of_only (autowake_only lb s) (by decide) hc

theorem storeWb_canon (lb : Nat) (s : State) (hc : Canonical s) : Canonical (storeWb lb s) := by
  unfold storeWb
  repeat' first
    | with_reducible assumption
    | simp +contextual (maxDischargeDepth := 60) only [storeRow_canon, Canonical.mk_iff, Canonical.forEach, Canonical.when, Canonical.ite_of, implies_true, id_eq, *]
    | (with_reducible refine storeRow_canon _ _ _ _ _ _ _ _ ?_)
    | split
    | (with_reducible refine Canonical.forEach (fun _ _ _ => ?_) ?_)
    | (with_reducible refine Canonical.when (fun _ _ => ?_) ?_)

theorem powerContents_canon (pb from_ : Nat) (r : PowReq) (s : State) (hc : Canonical s) : Canonical (powerContents pb from_ r s) := by
  unfold powerContents
  repeat' first
    | with_reducible assumption
    | simp +contextual (maxDischargeDepth := 60) only [estimate_canon, clearBank_canon, eraseBank_canon, zeroBank_canon, Canonical.mk_iff, Canonical.forEach, Canonical.when, Canonical.ite_of, implies_true, id_eq, *]
    | (with_reducible refine estimate_canon _ _ _ ?_)
    | (with_reducible refine clearBank_canon _ _ _ _ ?_)
    | (with_reducible refine eraseBank_canon _ _ ?_)
    | (with_reducible refine zeroBank_canon _ _ ?_)
    | split
    | (with_reducible refine Canonical.forEach (fun _ _ _ => ?_) ?_)
    | (with_reducible refine Canonical.when (fun _ _ => ?_) ?_)

theorem refuseHeld_canon (pb : Nat) (p : BankPow) (reached : Nat) (s : State) (hc : Canonical s) : Canonical (refuseHeld pb p reached s) := by
  unfold refuseHeld
  repeat' first
    | with_reducible assumption
    | simp +contextual (maxDischargeDepth := 60) only [refusePower_canon, Canonical.mk_iff, Canonical.forEach, Canonical.when, Canonical.ite_of, implies_true, id_eq, *]
    | (with_reducible refine refusePower_canon _ _ ?_)
    | split
    | (with_reducible refine Canonical.forEach (fun _ _ _ => ?_) ?_)
    | (with_reducible refine Canonical.when (fun _ _ => ?_) ?_)

theorem requestBanks_canon (n : Nat) (w : Word) (s : State) (hc : Canonical s) : Canonical (requestBanks n w s) := by
  unfold requestBanks
  repeat' first
    | with_reducible assumption
    | simp +contextual (maxDischargeDepth := 60) only [setReg_canon, requestBank_canon, Canonical.mk_iff, Canonical.forEach, Canonical.when, Canonical.ite_of, implies_true, id_eq, *]
    | (with_reducible refine setReg_canon _ _ _ ?_)
    | (with_reducible refine requestBank_canon _ _ _ _ ?_)
    | split
    | (with_reducible refine Canonical.forEach (fun _ _ _ => ?_) ?_)
    | (with_reducible refine Canonical.when (fun _ _ => ?_) ?_)

theorem fwdDone_canon (kind : Nat) (nospare : Bool) (from_ dest trig : Nat) (s : State) (hc : Canonical s) : Canonical (fwdDone kind nospare from_ dest trig s) := by
  unfold fwdDone
  repeat' first
    | with_reducible assumption
    | simp +contextual (maxDischargeDepth := 60) only [raise_canon, Canonical.mk_iff, Canonical.forEach, Canonical.when, Canonical.ite_of, implies_true, id_eq, *]
    | (with_reducible refine raise_canon _ _ ?_)
    | split
    | (with_reducible refine Canonical.forEach (fun _ _ _ => ?_) ?_)
    | (with_reducible refine Canonical.when (fun _ _ => ?_) ?_)

theorem finishMig_canon (m : Mig) (held : Option PowReq) (tail : Option Mig) (s : State) (hc : Canonical s) : Canonical (finishMig m held tail s) := by
  unfold finishMig
  repeat' first
    | with_reducible assumption
    | simp +contextual (maxDischargeDepth := 60) only [setRegF_canon, orReg_canon, clrReg_canon, dropJobs_canon, setPow_canon, fwdDone_canon, Canonical.mk_iff, Canonical.forEach, Canonical.when, Canonical.ite_of, implies_true, id_eq, *]
    | (with_reducible refine setRegF_canon _ _ _ _ _ ?_)
    | (with_reducible refine orReg_canon _ _ _ ?_)
    | (with_reducible refine clrReg_canon _ _ _ ?_)
    | (with_reducible refine dropJobs_canon _ _ ?_)
    | (with_reducible refine setPow_canon _ _ _ ?_)
    | (with_reducible refine fwdDone_canon _ _ _ _ _ _ ?_)
    | split
    | (with_reducible refine Canonical.forEach (fun _ _ _ => ?_) ?_)
    | (with_reducible refine Canonical.when (fun _ _ => ?_) ?_)

theorem endTail_canon (s : State) (hc : Canonical s) : Canonical (endTail s) :=
  Canonical.of_only (endTail_only s) (by decide) hc

theorem offEndsMig_canon (pb target : Nat) (s : State) (hc : Canonical s) : Canonical (offEndsMig pb target s) := by
  unfold offEndsMig
  repeat' first
    | with_reducible assumption
    | simp +contextual (maxDischargeDepth := 60) only [finishMig_canon, endTail_canon, Canonical.mk_iff, Canonical.forEach, Canonical.when, Canonical.ite_of, implies_true, id_eq, *]
    | (with_reducible refine finishMig_canon _ _ _ _ ?_)
    | (with_reducible refine endTail_canon _ ?_)
    | split
    | (with_reducible refine Canonical.forEach (fun _ _ _ => ?_) ?_)
    | (with_reducible refine Canonical.when (fun _ _ => ?_) ?_)

theorem cancelMig_canon (s : State) (hc : Canonical s) : Canonical (cancelMig s) := by
  unfold cancelMig
  repeat' first
    | with_reducible assumption
    | simp +contextual (maxDischargeDepth := 60) only [raise_canon, dropJobs_canon, setPow_canon, endTail_canon, Canonical.mk_iff, Canonical.forEach, Canonical.when, Canonical.ite_of, implies_true, id_eq, *]
    | (with_reducible refine raise_canon _ _ ?_)
    | (with_reducible refine dropJobs_canon _ _ ?_)
    | (with_reducible refine setPow_canon _ _ _ ?_)
    | (with_reducible refine endTail_canon _ ?_)
    | split
    | (with_reducible refine Canonical.forEach (fun _ _ _ => ?_) ?_)
    | (with_reducible refine Canonical.when (fun _ _ => ?_) ?_)

theorem settleWb_canon (pb target : Nat) (s : State) (hc : Canonical s) : Canonical (settleWb pb target s) := by
  unfold settleWb
  repeat' first
    | with_reducible assumption
    | simp +contextual (maxDischargeDepth := 60) only [storeWb_canon, Canonical.mk_iff, Canonical.forEach, Canonical.when, Canonical.ite_of, implies_true, id_eq, *]
    | (with_reducible refine storeWb_canon _ _ ?_)
    | split
    | (with_reducible refine Canonical.forEach (fun _ _ _ => ?_) ?_)
    | (with_reducible refine Canonical.when (fun _ _ => ?_) ?_)

theorem setDom_canon (i : Nat) (p : BankPow) (s : State) (hc : Canonical s) : Canonical (setDom i p s) :=
  Canonical.of_only (setDom_only i p s) (by decide) hc

theorem requestDomain_canon (i : Nat) (on : Bool) (s : State) (hc : Canonical s) : Canonical (requestDomain i on s) := by
  unfold requestDomain
  repeat' first
    | with_reducible assumption
    | simp +contextual (maxDischargeDepth := 60) only [setRegF_canon, orReg_canon, raise_canon, setDom_canon, Canonical.mk_iff, Canonical.forEach, Canonical.when, Canonical.ite_of, implies_true, id_eq, *]
    | (with_reducible refine setRegF_canon _ _ _ _ _ ?_)
    | (with_reducible refine orReg_canon _ _ _ ?_)
    | (with_reducible refine raise_canon _ _ ?_)
    | (with_reducible refine setDom_canon _ _ _ ?_)
    | split
    | (with_reducible refine Canonical.forEach (fun _ _ _ => ?_) ?_)
    | (with_reducible refine Canonical.when (fun _ _ => ?_) ?_)

theorem requestDomains_canon (w : Word) (s : State) (hc : Canonical s) : Canonical (requestDomains w s) := by
  unfold requestDomains
  repeat' first
    | with_reducible assumption
    | simp +contextual (maxDischargeDepth := 60) only [requestDomain_canon, Canonical.mk_iff, Canonical.forEach, Canonical.when, Canonical.ite_of, implies_true, id_eq, *]
    | (with_reducible refine requestDomain_canon _ _ _ ?_)
    | split
    | (with_reducible refine Canonical.forEach (fun _ _ _ => ?_) ?_)
    | (with_reducible refine Canonical.when (fun _ _ => ?_) ?_)

theorem domLoses_canon (i : Nat) (s : State) (hc : Canonical s) : Canonical (domLoses i s) :=
  Canonical.of_only (domLoses_only i s) (by decide) hc

theorem execBankPreqWrite_canon (a : BusAcc) (n : BitVec 4) (w : Word) (s : State) (s' : State) (h : execBankPreqWrite a n w s = .next s') (hc : Canonical s) : Canonical s' := by
  unfold execBankPreqWrite at h
  injection h with h
  subst h
  try dsimp only
  repeat' first
    | (with_reducible refine busWrite_canon _ _ _ _ (fun _ _ => ?_) ?_)
    | with_reducible assumption
    | simp +contextual (maxDischargeDepth := 60) only [requestBanks_canon, Canonical.mk_iff, Canonical.forEach, Canonical.when, Canonical.ite_of, implies_true, id_eq, *]
    | (with_reducible refine requestBanks_canon _ _ _ ?_)
    | split
    | (with_reducible refine Canonical.forEach (fun _ _ _ => ?_) ?_)
    | (with_reducible refine Canonical.when (fun _ _ => ?_) ?_)

theorem execBankPowerupStart_canon (bank : Nat) (s : State) (s' : State) (h : execBankPowerupStart bank s = .next s') (hc : Canonical s) : Canonical s' :=
  (execBankPowerupStart_only bank s s' h |> Canonical.of_only) (by decide) hc

theorem execBankPowerdownStart_canon (bank : Nat) (s : State) (s' : State) (h : execBankPowerdownStart bank s = .next s') (hc : Canonical s) : Canonical s' := by
  unfold execBankPowerdownStart at h
  injection h with h
  subst h
  try dsimp only
  repeat' first
    | with_reducible assumption
    | simp +contextual (maxDischargeDepth := 60) only [setPow_canon, offEndsMig_canon, settleWb_canon, Canonical.mk_iff, Canonical.forEach, Canonical.when, Canonical.ite_of, implies_true, id_eq, *]
    | (with_reducible refine setPow_canon _ _ _ ?_)
    | (with_reducible refine offEndsMig_canon _ _ _ ?_)
    | (with_reducible refine settleWb_canon _ _ _ ?_)
    | split
    | (with_reducible refine Canonical.forEach (fun _ _ _ => ?_) ?_)
    | (with_reducible refine Canonical.when (fun _ _ => ?_) ?_)

theorem execBankTransitionDone_canon (bank : Nat) (s : State) (s' : State) (h : execBankTransitionDone bank s = .next s') (hc : Canonical s) : Canonical s' := by
  unfold execBankTransitionDone at h
  injection h with h
  subst h
  try dsimp only
  repeat' first
    | with_reducible assumption
    | simp +contextual (maxDischargeDepth := 60) only [setPow_canon, powerContents_canon, refuseHeld_canon, Canonical.mk_iff, Canonical.forEach, Canonical.when, Canonical.ite_of, implies_true, id_eq, *]
    | (with_reducible refine setPow_canon _ _ _ ?_)
    | (with_reducible refine powerContents_canon _ _ _ _ ?_)
    | (with_reducible refine refuseHeld_canon _ _ _ _ ?_)
    | split
    | (with_reducible refine Canonical.forEach (fun _ _ _ => ?_) ?_)
    | (with_reducible refine Canonical.when (fun _ _ => ?_) ?_)

theorem execDomainReqWrite_canon (a : BusAcc) (w : Word) (s : State) (s' : State) (h : execDomainReqWrite a w s = .next s') (hc : Canonical s) : Canonical s' := by
  unfold execDomainReqWrite at h
  injection h with h
  subst h
  try dsimp only
  repeat' first
    | (with_reducible refine busWrite_canon _ _ _ _ (fun _ _ => ?_) ?_)
    | with_reducible assumption
    | simp +contextual (maxDischargeDepth := 60) only [requestDomains_canon, Canonical.mk_iff, Canonical.forEach, Canonical.when, Canonical.ite_of, implies_true, id_eq, *]
    | (with_reducible refine requestDomains_canon _ _ ?_)
    | split
    | (with_reducible refine Canonical.forEach (fun _ _ _ => ?_) ?_)
    | (with_reducible refine Canonical.when (fun _ _ => ?_) ?_)

theorem execDomainPowerdownStart_canon (dom : BitVec 5) (s : State) (s' : State) (h : execDomainPowerdownStart dom s = .next s') (hc : Canonical s) : Canonical s' :=
  (execDomainPowerdownStart_only dom s s' h |> Canonical.of_only) (by decide) hc

theorem execDomainPowerupStart_canon (dom : BitVec 5) (s : State) (s' : State) (h : execDomainPowerupStart dom s = .next s') (hc : Canonical s) : Canonical s' :=
  (execDomainPowerupStart_only dom s s' h |> Canonical.of_only) (by decide) hc

theorem execDomainTransitionDone_canon (dom : BitVec 5) (s : State) (s' : State) (h : execDomainTransitionDone dom s = .next s') (hc : Canonical s) : Canonical s' :=
  (execDomainTransitionDone_only dom s s' h |> Canonical.of_only) (by decide) hc

end Sys2Proof.Machine
end

