-- ==== Sys2Proof/Laws/CanonOperands.lean ====
section
/-!
SUPPORT. Laws/CanonOperands.lean: the operations and commands of Machine/Operands.lean keep memory, registers and counters in canonical form
(generated text, one lemma for each).
-/
namespace Sys2Proof.Machine

set_option linter.unusedSimpArgs false

theorem setSlip_canon (x : Slip) (s : State) (hc : Canonical s) : Canonical (setSlip x s) :=
  Canonical.of_only (setSlip_only x s) (by decide) hc

theorem updSlip_canon (sid : Nat) (f : Slip → Slip) (s : State) (hc : Canonical s) : Canonical (updSlip sid f s) :=
  Canonical.of_only (updSlip_only sid f s) (by decide) hc

theorem addTr_canon (t : Tr) (s : State) (hc : Canonical s) : Canonical (addTr t s) :=
  Canonical.of_only (addTr_only t s) (by decide) hc

theorem setRlane_canon (l : Nat) (x : RLane) (s : State) (hc : Canonical s) : Canonical (setRlane l x s) :=
  Canonical.of_only (setRlane_only l x s) (by decide) hc

theorem updRlane_canon (l : Nat) (f : RLane → RLane) (s : State) (hc : Canonical s) : Canonical (updRlane l f s) :=
  Canonical.of_only (updRlane_only l f s) (by decide) hc

theorem setWlane_canon (l : Nat) (x : WLane) (s : State) (hc : Canonical s) : Canonical (setWlane l x s) :=
  Canonical.of_only (setWlane_only l x s) (by decide) hc

theorem updWlane_canon (l : Nat) (f : WLane → WLane) (s : State) (hc : Canonical s) : Canonical (updWlane l f s) :=
  Canonical.of_only (updWlane_only l f s) (by decide) hc

theorem setTr_canon (t : Tr) (s : State) (hc : Canonical s) : Canonical (setTr t s) :=
  Canonical.of_only (setTr_only t s) (by decide) hc

end Sys2Proof.Machine
end

