-- ==== Sys2Proof/Laws/ExecTrace.lean ====
section
/-!
SUPPORT. Laws/ExecTrace.lean: what each command of Machine/Trace.lean may change (generated text, one lemma for each command).
-/
namespace Sys2Proof.Machine

set_option linter.unusedSimpArgs false
set_option linter.tactic.unusedName false

theorem execTimeLowRead_only (a : BusAcc) (s : State) (s' : State) (h : execTimeLowRead a s = .next s') :
    Only [.regs, .cnt, .bus, .tr, .dbg] s s' := by
  unfold execTimeLowRead at h
  injection h with h
  subst h
  try dsimp only
  repeat' first
    | (with_reducible refine Only.trans ?_ (busRead_only _ _ _ _ (by decide) (fun _ => ?_)))
    | simp (maxDischargeDepth := 8) only [*, partsIn_nil, partsIn_cons, Only.self, Only.mk_iff, Only.forEach_iff, Only.when_iff, Only.ite_of, true_or, or_true, and_self, implies_true, List.mem_cons, reduceCtorEq, or_false, false_or, id_eq]
    | split
    | with_reducible refine Only.trans ?_ (Only.forEach (fun _ _ => ?_) _ _)
    | with_reducible refine Only.trans ?_ (Only.when (fun _ => ?_) _ _)

theorem execBeacon_only (tb : BitVec 64) (s : State) (s' : State) (h : execBeacon tb s = .next s') :
    Only [.regs, .cnt, .tm, .tr, .dbg] s s' := by
  unfold execBeacon at h
  injection h with h
  subst h
  try dsimp only
  repeat' first
    | simp (maxDischargeDepth := 8) only [Only.iff_of (setReg_only _ _ _ ), Only.iff_of (orReg_only _ _ _ ), Only.iff_of (clrReg_only _ _ _ ), Only.iff_of (bump_only _ _ _ ), Only.iff_of (genTime_only _ _ _ ), Only.iff_of (raise_only _ _ ), *, partsIn_nil, partsIn_cons, Only.self, Only.mk_iff, Only.forEach_iff, Only.when_iff, Only.ite_of, true_or, or_true, and_self, implies_true, List.mem_cons, reduceCtorEq, or_false, false_or, id_eq]
    | split
    | with_reducible refine Only.trans ?_ (Only.forEach (fun _ _ => ?_) _ _)
    | with_reducible refine Only.trans ?_ (Only.when (fun _ => ?_) _ _)

theorem execBeaconLoss_only (s : State) (s' : State) (h : execBeaconLoss s = .next s') :
    Only [.regs, .cnt, .tr, .dbg] s s' := by
  unfold execBeaconLoss at h
  injection h with h
  subst h
  try dsimp only
  repeat' first
    | simp (maxDischargeDepth := 8) only [Only.iff_of (orReg_only _ _ _ ), Only.iff_of (bump_only _ _ _ ), Only.iff_of (genTime_only _ _ _ ), Only.iff_of (raise_only _ _ ), *, partsIn_nil, partsIn_cons, Only.self, Only.mk_iff, Only.forEach_iff, Only.when_iff, Only.ite_of, true_or, or_true, and_self, implies_true, List.mem_cons, reduceCtorEq, or_false, false_or, id_eq]
    | split
    | with_reducible refine Only.trans ?_ (Only.forEach (fun _ _ => ?_) _ _)
    | with_reducible refine Only.trans ?_ (Only.when (fun _ => ?_) _ _)

theorem execTclkStall_only (s : State) (s' : State) (h : execTclkStall s = .next s') :
    Only [.regs, .tr] s s' := by
  unfold execTclkStall at h
  injection h with h
  subst h
  try dsimp only
  repeat' first
    | simp (maxDischargeDepth := 8) only [Only.iff_of (orReg_only _ _ _ ), Only.iff_of (genTime_only _ _ _ ), *, partsIn_nil, partsIn_cons, Only.self, Only.mk_iff, Only.forEach_iff, Only.when_iff, Only.ite_of, true_or, or_true, and_self, implies_true, List.mem_cons, reduceCtorEq, or_false, false_or, id_eq]
    | split
    | with_reducible refine Only.trans ?_ (Only.forEach (fun _ _ => ?_) _ _)
    | with_reducible refine Only.trans ?_ (Only.when (fun _ => ?_) _ _)

theorem execTclkResume_only (s : State) (s' : State) (h : execTclkResume s = .next s') :
    Only [.regs, .tm, .tr] s s' := by
  unfold execTclkResume at h
  injection h with h
  subst h
  try dsimp only
  repeat' first
    | simp (maxDischargeDepth := 8) only [Only.iff_of (clrReg_only _ _ _ ), Only.iff_of (genTime_only _ _ _ ), *, partsIn_nil, partsIn_cons, Only.self, Only.mk_iff, Only.forEach_iff, Only.when_iff, Only.ite_of, true_or, or_true, and_self, implies_true, List.mem_cons, reduceCtorEq, or_false, false_or, id_eq]
    | split
    | with_reducible refine Only.trans ?_ (Only.forEach (fun _ _ => ?_) _ _)
    | with_reducible refine Only.trans ?_ (Only.when (fun _ => ?_) _ _)

theorem execTimeSync_only (s : State) (s' : State) (h : execTimeSync s = .next s') :
    Only [.tr] s s' := by
  unfold execTimeSync at h
  injection h with h
  subst h
  try dsimp only
  repeat' first
    | simp (maxDischargeDepth := 8) only [Only.iff_of (genTime_only _ _ _ ), *, partsIn_nil, partsIn_cons, Only.self, Only.mk_iff, Only.forEach_iff, Only.when_iff, Only.ite_of, true_or, or_true, and_self, implies_true, List.mem_cons, reduceCtorEq, or_false, false_or, id_eq]
    | split
    | with_reducible refine Only.trans ?_ (Only.forEach (fun _ _ => ?_) _ _)
    | with_reducible refine Only.trans ?_ (Only.when (fun _ => ?_) _ _)

theorem execCollect_only (s : State) (s' : State) (h : execCollect s = .next s') :
    Only [.regs, .cnt, .fr, .tr, .dbg] s s' := by
  unfold execCollect at h
  injection h with h
  subst h
  try dsimp only
  repeat' first
    | simp (maxDischargeDepth := 8) only [Only.iff_of (collectGo_only _ _ ), Only.iff_of (drainTrace_only _ _ ), *, partsIn_nil, partsIn_cons, Only.self, Only.mk_iff, Only.forEach_iff, Only.when_iff, Only.ite_of, true_or, or_true, and_self, implies_true, List.mem_cons, reduceCtorEq, or_false, false_or, id_eq]
    | (refine Only.snd (by assumption) (collectGo_only _ _ ) (by decide) ?_)
    | split
    | with_reducible refine Only.trans ?_ (Only.forEach (fun _ _ => ?_) _ _)
    | with_reducible refine Only.trans ?_ (Only.when (fun _ => ?_) _ _)

theorem execTraceRowWrite_only (s : State) (s' : State) (h : execTraceRowWrite s = .next s') :
    Only [.fr] s s' := by
  unfold execTraceRowWrite at h
  injection h with h
  subst h
  try dsimp only
  repeat' first
    | simp (maxDischargeDepth := 8) only [Only.iff_of (writeTrace_only _ _ ), *, partsIn_nil, partsIn_cons, Only.self, Only.mk_iff, Only.forEach_iff, Only.when_iff, Only.ite_of, true_or, or_true, and_self, implies_true, List.mem_cons, reduceCtorEq, or_false, false_or, id_eq]
    | split
    | with_reducible refine Only.trans ?_ (Only.forEach (fun _ _ => ?_) _ _)
    | with_reducible refine Only.trans ?_ (Only.when (fun _ => ?_) _ _)

theorem execTraceRowTimeout_only (s : State) (s' : State) (h : execTraceRowTimeout s = .next s') :
    Only [.fr] s s' := by
  unfold execTraceRowTimeout at h
  injection h with h
  subst h
  try dsimp only
  repeat' first
    | simp (maxDischargeDepth := 8) only [Only.iff_of (writeTrace_only _ _ ), *, partsIn_nil, partsIn_cons, Only.self, Only.mk_iff, Only.forEach_iff, Only.when_iff, Only.ite_of, true_or, or_true, and_self, implies_true, List.mem_cons, reduceCtorEq, or_false, false_or, id_eq]
    | split
    | with_reducible refine Only.trans ?_ (Only.forEach (fun _ _ => ?_) _ _)
    | with_reducible refine Only.trans ?_ (Only.when (fun _ => ?_) _ _)

theorem execTraceFreeze_only (s : State) (s' : State) (h : execTraceFreeze s = .next s') :
    Only [.regs, .tr, .dbg] s s' := by
  unfold execTraceFreeze at h
  injection h with h
  subst h
  try dsimp only
  repeat' first
    | simp (maxDischargeDepth := 8) only [Only.iff_of (orReg_only _ _ _ ), Only.iff_of (raise_only _ _ ), *, partsIn_nil, partsIn_cons, Only.self, Only.mk_iff, Only.forEach_iff, Only.when_iff, Only.ite_of, true_or, or_true, and_self, implies_true, List.mem_cons, reduceCtorEq, or_false, false_or, id_eq]
    | split
    | with_reducible refine Only.trans ?_ (Only.forEach (fun _ _ => ?_) _ _)
    | with_reducible refine Only.trans ?_ (Only.when (fun _ => ?_) _ _)

theorem execTraceTrig_only (a : BusAcc) (s : State) (s' : State) (h : execTraceTrig a s = .next s') :
    Only [.regs, .cnt, .bus, .tr, .dbg] s s' := by
  unfold execTraceTrig at h
  injection h with h
  subst h
  try dsimp only
  repeat' first
    | (with_reducible refine Only.trans ?_ (busWrite_only _ _ _ _ (by decide) (fun _ => ?_)))
    | simp (maxDischargeDepth := 8) only [Only.iff_of (traceTrigger_only _ _ _ ), *, partsIn_nil, partsIn_cons, Only.self, Only.mk_iff, Only.forEach_iff, Only.when_iff, Only.ite_of, true_or, or_true, and_self, implies_true, List.mem_cons, reduceCtorEq, or_false, false_or, id_eq]
    | split
    | with_reducible refine Only.trans ?_ (Only.forEach (fun _ _ => ?_) _ _)
    | with_reducible refine Only.trans ?_ (Only.when (fun _ => ?_) _ _)

theorem execTraceFlush_only (a : BusAcc) (s : State) (s' : State) (h : execTraceFlush a s = .next s') :
    Only [.regs, .cnt, .bus, .fr, .tr, .dbg] s s' := by
  unfold execTraceFlush at h
  injection h with h
  subst h
  try dsimp only
  repeat' first
    | (with_reducible refine Only.trans ?_ (busWrite_only _ _ _ _ (by decide) (fun _ => ?_)))
    | simp (maxDischargeDepth := 8) only [Only.iff_of (writeTrace_only _ _ ), *, partsIn_nil, partsIn_cons, Only.self, Only.mk_iff, Only.forEach_iff, Only.when_iff, Only.ite_of, true_or, or_true, and_self, implies_true, List.mem_cons, reduceCtorEq, or_false, false_or, id_eq]
    | split
    | with_reducible refine Only.trans ?_ (Only.forEach (fun _ _ => ?_) _ _)
    | with_reducible refine Only.trans ?_ (Only.when (fun _ => ?_) _ _)

theorem execTraceRearm_only (a : BusAcc) (s : State) (s' : State) (h : execTraceRearm a s = .next s') :
    Only [.regs, .cnt, .bus, .tr, .dbg] s s' := by
  unfold execTraceRearm at h
  injection h with h
  subst h
  try dsimp only
  repeat' first
    | (with_reducible refine Only.trans ?_ (busWrite_only _ _ _ _ (by decide) (fun _ => ?_)))
    | simp (maxDischargeDepth := 8) only [Only.iff_of (rearmTrace_only _ ), *, partsIn_nil, partsIn_cons, Only.self, Only.mk_iff, Only.forEach_iff, Only.when_iff, Only.ite_of, true_or, or_true, and_self, implies_true, List.mem_cons, reduceCtorEq, or_false, false_or, id_eq]
    | split
    | with_reducible refine Only.trans ?_ (Only.forEach (fun _ _ => ?_) _ _)
    | with_reducible refine Only.trans ?_ (Only.when (fun _ => ?_) _ _)

theorem execTraceSync_only (a : BusAcc) (s : State) (s' : State) (h : execTraceSync a s = .next s') :
    Only [.regs, .cnt, .bus, .tr, .dbg] s s' := by
  unfold execTraceSync at h
  injection h with h
  subst h
  try dsimp only
  repeat' first
    | (with_reducible refine Only.trans ?_ (busWrite_only _ _ _ _ (by decide) (fun _ => ?_)))
    | simp (maxDischargeDepth := 8) only [Only.iff_of (genTime_only _ _ _ ), *, partsIn_nil, partsIn_cons, Only.self, Only.mk_iff, Only.forEach_iff, Only.when_iff, Only.ite_of, true_or, or_true, and_self, implies_true, List.mem_cons, reduceCtorEq, or_false, false_or, id_eq]
    | split
    | with_reducible refine Only.trans ?_ (Only.forEach (fun _ _ => ?_) _ _)
    | with_reducible refine Only.trans ?_ (Only.when (fun _ => ?_) _ _)

theorem execTraceRptrWrite_only (a : BusAcc) (w : Word) (s : State) (s' : State) (h : execTraceRptrWrite a w s = .next s') :
    Only [.regs, .cnt, .bus, .tr, .dbg] s s' := by
  unfold execTraceRptrWrite at h
  injection h with h
  subst h
  try dsimp only
  repeat' first
    | (with_reducible refine Only.trans ?_ (busWrite_only _ _ _ _ (by decide) (fun _ => ?_)))
    | simp (maxDischargeDepth := 8) only [Only.iff_of (writeRptr_only _ _ ), *, partsIn_nil, partsIn_cons, Only.self, Only.mk_iff, Only.forEach_iff, Only.when_iff, Only.ite_of, true_or, or_true, and_self, implies_true, List.mem_cons, reduceCtorEq, or_false, false_or, id_eq]
    | split
    | with_reducible refine Only.trans ?_ (Only.forEach (fun _ _ => ?_) _ _)
    | with_reducible refine Only.trans ?_ (Only.when (fun _ => ?_) _ _)

theorem execTraceEnable_only (a : BusAcc) (w : Word) (s : State) (s' : State) (h : execTraceEnable a w s = .next s') :
    Only [.regs, .cnt, .bus, .fr, .tr, .dbg] s s' := by
  unfold execTraceEnable at h
  injection h with h
  subst h
  try dsimp only
  repeat' first
    | (with_reducible refine Only.trans ?_ (busWrite_only _ _ _ _ (by decide) (fun _ => ?_)))
    | simp (maxDischargeDepth := 8) only [Only.iff_of (writeTraceCtl_only _ _ ), *, partsIn_nil, partsIn_cons, Only.self, Only.mk_iff, Only.forEach_iff, Only.when_iff, Only.ite_of, true_or, or_true, and_self, implies_true, List.mem_cons, reduceCtorEq, or_false, false_or, id_eq]
    | split
    | with_reducible refine Only.trans ?_ (Only.forEach (fun _ _ => ?_) _ _)
    | with_reducible refine Only.trans ?_ (Only.when (fun _ => ?_) _ _)

theorem execTraceDisable_only (a : BusAcc) (w : Word) (s : State) (s' : State) (h : execTraceDisable a w s = .next s') :
    Only [.regs, .cnt, .bus, .fr, .tr, .dbg] s s' := by
  unfold execTraceDisable at h
  injection h with h
  subst h
  try dsimp only
  repeat' first
    | (with_reducible refine Only.trans ?_ (busWrite_only _ _ _ _ (by decide) (fun _ => ?_)))
    | simp (maxDischargeDepth := 8) only [Only.iff_of (writeTraceCtl_only _ _ ), *, partsIn_nil, partsIn_cons, Only.self, Only.mk_iff, Only.forEach_iff, Only.when_iff, Only.ite_of, true_or, or_true, and_self, implies_true, List.mem_cons, reduceCtorEq, or_false, false_or, id_eq]
    | split
    | with_reducible refine Only.trans ?_ (Only.forEach (fun _ _ => ?_) _ _)
    | with_reducible refine Only.trans ?_ (Only.when (fun _ => ?_) _ _)

theorem execEgressSlotTaken_only (s : State) (s' : State) (h : execEgressSlotTaken s = .next s') :
    Only [.tr] s s' := by
  unfold execEgressSlotTaken at h
  injection h with h
  subst h
  try dsimp only
  repeat' first
    | simp (maxDischargeDepth := 8) only [*, partsIn_nil, partsIn_cons, Only.self, Only.mk_iff, Only.forEach_iff, Only.when_iff, Only.ite_of, true_or, or_true, and_self, implies_true, List.mem_cons, reduceCtorEq, or_false, false_or, id_eq]
    | split
    | with_reducible refine Only.trans ?_ (Only.forEach (fun _ _ => ?_) _ _)
    | with_reducible refine Only.trans ?_ (Only.when (fun _ => ?_) _ _)

theorem execTimeHoldEnd_only (s : State) (s' : State) (h : execTimeHoldEnd s = .next s') :
    Only [.tm] s s' := by
  unfold execTimeHoldEnd at h
  injection h with h
  subst h
  try dsimp only
  repeat' first
    | simp (maxDischargeDepth := 8) only [*, partsIn_nil, partsIn_cons, Only.self, Only.mk_iff, Only.forEach_iff, Only.when_iff, Only.ite_of, true_or, or_true, and_self, implies_true, List.mem_cons, reduceCtorEq, or_false, false_or, id_eq]
    | split
    | with_reducible refine Only.trans ?_ (Only.forEach (fun _ _ => ?_) _ _)
    | with_reducible refine Only.trans ?_ (Only.when (fun _ => ?_) _ _)

end Sys2Proof.Machine
end

