-- ==== Sys2Proof/Laws/CanonTrace.lean ====
section
/-!
SUPPORT. Laws/CanonTrace.lean: the operations and commands of Machine/Trace.lean keep memory, registers and counters in canonical form
(generated text, one lemma for each).
-/
namespace Sys2Proof.Machine

set_option linter.unusedSimpArgs false

theorem raiseLost_canon (eg : Bool) (s : State) (hc : Canonical s) : Canonical (raiseLost eg s) := by
  unfold raiseLost
  repeat' first
    | with_reducible assumption
    | simp +contextual (maxDischargeDepth := 60) only [raise_canon, Canonical.mk_iff, Canonical.forEach, Canonical.when, Canonical.ite_of, implies_true, id_eq, *]
    | (with_reducible refine raise_canon _ _ ?_)
    | split
    | (with_reducible refine Canonical.forEach (fun _ _ _ => ?_) ?_)
    | (with_reducible refine Canonical.when (fun _ _ => ?_) ?_)

theorem loseBuffer_canon (r : Rec) (s : State) (hc : Canonical s) : Canonical (loseBuffer r s) := by
  unfold loseBuffer
  repeat' first
    | with_reducible assumption
    | simp +contextual (maxDischargeDepth := 60) only [orReg_canon, bump_canon, raiseLost_canon, Canonical.mk_iff, Canonical.forEach, Canonical.when, Canonical.ite_of, implies_true, id_eq, *]
    | (with_reducible refine orReg_canon _ _ _ ?_)
    | (with_reducible refine bump_canon _ _ _ ?_)
    | (with_reducible refine raiseLost_canon _ _ ?_)
    | split
    | (with_reducible refine Canonical.forEach (fun _ _ _ => ?_) ?_)
    | (with_reducible refine Canonical.when (fun _ _ => ?_) ?_)

theorem loseEgress_canon (r : Rec) (s : State) (hc : Canonical s) : Canonical (loseEgress r s) := by
  unfold loseEgress
  repeat' first
    | with_reducible assumption
    | simp +contextual (maxDischargeDepth := 60) only [orReg_canon, bump_canon, raiseLost_canon, Canonical.mk_iff, Canonical.forEach, Canonical.when, Canonical.ite_of, implies_true, id_eq, *]
    | (with_reducible refine orReg_canon _ _ _ ?_)
    | (with_reducible refine bump_canon _ _ _ ?_)
    | (with_reducible refine raiseLost_canon _ _ ?_)
    | split
    | (with_reducible refine Canonical.forEach (fun _ _ _ => ?_) ?_)
    | (with_reducible refine Canonical.when (fun _ _ => ?_) ?_)

theorem watchLost_canon (u : Nat) (s : State) (hc : Canonical s) : Canonical (watchLost u s) := by
  unfold watchLost
  repeat' first
    | with_reducible assumption
    | simp +contextual (maxDischargeDepth := 60) only [setReg_canon, orReg_canon, Canonical.mk_iff, Canonical.forEach, Canonical.when, Canonical.ite_of, implies_true, id_eq, *]
    | (with_reducible refine setReg_canon _ _ _ ?_)
    | (with_reducible refine orReg_canon _ _ _ ?_)
    | split
    | (with_reducible refine Canonical.forEach (fun _ _ _ => ?_) ?_)
    | (with_reducible refine Canonical.when (fun _ _ => ?_) ?_)

theorem loseBoth_canon (r : Rec) (s : State) (hc : Canonical s) : Canonical (loseBoth r s) := by
  unfold loseBoth
  repeat' first
    | with_reducible assumption
    | simp +contextual (maxDischargeDepth := 60) only [orReg_canon, bump_canon, raiseLost_canon, watchLost_canon, Canonical.mk_iff, Canonical.forEach, Canonical.when, Canonical.ite_of, implies_true, id_eq, *]
    | (with_reducible refine orReg_canon _ _ _ ?_)
    | (with_reducible refine bump_canon _ _ _ ?_)
    | (with_reducible refine raiseLost_canon _ _ ?_)
    | (with_reducible refine watchLost_canon _ _ ?_)
    | split
    | (with_reducible refine Canonical.forEach (fun _ _ _ => ?_) ?_)
    | (with_reducible refine Canonical.when (fun _ _ => ?_) ?_)

theorem collectOne_canon (r : Rec) (x : Nat × State) (hc : Canonical x.2) : Canonical (collectOne r x).2 := by
  unfold collectOne
  repeat' first
    | with_reducible assumption
    | simp +contextual (maxDischargeDepth := 60) only [bump_canon, loseBoth_canon, Canonical.mk_iff, Canonical.forEach, Canonical.when, Canonical.ite_of, implies_true, id_eq, *]
    | (with_reducible refine bump_canon _ _ _ ?_)
    | (with_reducible refine loseBoth_canon _ _ ?_)
    | split
    | (with_reducible refine Canonical.forEach (fun _ _ _ => ?_) ?_)
    | (with_reducible refine Canonical.when (fun _ _ => ?_) ?_)

theorem collectGo_canon (l : List Rec) (x : Nat × State) (hc : Canonical x.2) : Canonical (collectGo l x) := by
  induction l generalizing x with
  | nil => exact hc
  | cons r rs ih => exact ih _ (collectOne_canon r x hc)

theorem advanceRing_canon (n : Nat) (s : State) (hc : Canonical s) : Canonical (advanceRing n s) := by
  unfold advanceRing
  repeat' first
    | with_reducible assumption
    | simp +contextual (maxDischargeDepth := 60) only [setReg_canon, Canonical.mk_iff, Canonical.forEach, Canonical.when, Canonical.ite_of, implies_true, id_eq, *]
    | (with_reducible refine setReg_canon _ _ _ ?_)
    | split
    | (with_reducible refine Canonical.forEach (fun _ _ _ => ?_) ?_)
    | (with_reducible refine Canonical.when (fun _ _ => ?_) ?_)

theorem askTraceRows_canon (part : Bool) (n : Nat) (s : State) (hc : Canonical s) : Canonical (askTraceRows part n s) := by
  induction n generalizing s with
  | zero => exact hc
  | succ n ih =>
    unfold askTraceRows
    repeat' first
      | simp +contextual (maxDischargeDepth := 60) only [ih, addTr_canon, Canonical.mk_iff, Canonical.forEach, Canonical.when, Canonical.ite_of, implies_true, id_eq, *]
      | split

theorem writeTrace_canon (part : Bool) (s : State) (hc : Canonical s) : Canonical (writeTrace part s) :=
  Canonical.of_only (writeTrace_only part s) (by decide) hc

theorem writeStopSlot_canon (r : Rec) (s : State) (hc : Canonical s) : Canonical (writeStopSlot r s) := by
  unfold writeStopSlot
  repeat' first
    | with_reducible assumption
    | simp +contextual (maxDischargeDepth := 60) only [orReg_canon, addTr_canon, Canonical.mk_iff, Canonical.forEach, Canonical.when, Canonical.ite_of, implies_true, id_eq, *]
    | (with_reducible refine orReg_canon _ _ _ ?_)
    | (with_reducible refine addTr_canon _ _ ?_)
    | split
    | (with_reducible refine Canonical.forEach (fun _ _ _ => ?_) ?_)
    | (with_reducible refine Canonical.when (fun _ _ => ?_) ?_)

theorem acceptRec_canon (r : Rec) (s : State) (hc : Canonical s) : Canonical (acceptRec r s) := by
  unfold acceptRec
  repeat' first
    | with_reducible assumption
    | simp +contextual (maxDischargeDepth := 60) only [setReg_canon, Canonical.mk_iff, Canonical.forEach, Canonical.when, Canonical.ite_of, implies_true, id_eq, *]
    | (with_reducible refine setReg_canon _ _ _ ?_)
    | split
    | (with_reducible refine Canonical.forEach (fun _ _ _ => ?_) ?_)
    | (with_reducible refine Canonical.when (fun _ _ => ?_) ?_)

theorem refuseRec_canon (r : Rec) (s : State) (hc : Canonical s) : Canonical (refuseRec r s) := by
  unfold refuseRec
  repeat' first
    | with_reducible assumption
    | simp +contextual (maxDischargeDepth := 60) only [bump_canon, loseBuffer_canon, writeStopSlot_canon, Canonical.mk_iff, Canonical.forEach, Canonical.when, Canonical.ite_of, implies_true, id_eq, *]
    | (with_reducible refine bump_canon _ _ _ ?_)
    | (with_reducible refine loseBuffer_canon _ _ ?_)
    | (with_reducible refine writeStopSlot_canon _ _ ?_)
    | split
    | (with_reducible refine Canonical.forEach (fun _ _ _ => ?_) ?_)
    | (with_reducible refine Canonical.when (fun _ _ => ?_) ?_)

theorem acceptGap_canon (need : Nat) (s : State) (hc : Canonical s) : Canonical (acceptGap need s) := by
  unfold acceptGap
  repeat' first
    | with_reducible assumption
    | simp +contextual (maxDischargeDepth := 60) only [clrReg_canon, acceptRec_canon, refuseRec_canon, Canonical.mk_iff, Canonical.forEach, Canonical.when, Canonical.ite_of, implies_true, id_eq, *]
    | (with_reducible refine clrReg_canon _ _ _ ?_)
    | (with_reducible refine acceptRec_canon _ _ ?_)
    | (with_reducible refine refuseRec_canon _ _ ?_)
    | split
    | (with_reducible refine Canonical.forEach (fun _ _ _ => ?_) ?_)
    | (with_reducible refine Canonical.when (fun _ _ => ?_) ?_)

theorem bufferRec_canon (r : Rec) (s : State) (hc : Canonical s) : Canonical (bufferRec r s) := by
  unfold bufferRec
  repeat' first
    | with_reducible assumption
    | simp +contextual (maxDischargeDepth := 60) only [acceptRec_canon, refuseRec_canon, acceptGap_canon, Canonical.mk_iff, Canonical.forEach, Canonical.when, Canonical.ite_of, implies_true, id_eq, *]
    | (with_reducible refine acceptRec_canon _ _ ?_)
    | (with_reducible refine refuseRec_canon _ _ ?_)
    | (with_reducible refine acceptGap_canon _ _ ?_)
    | split
    | (with_reducible refine Canonical.forEach (fun _ _ _ => ?_) ?_)
    | (with_reducible refine Canonical.when (fun _ _ => ?_) ?_)

theorem pushEgress_canon (r : Rec) (s : State) (hc : Canonical s) : Canonical (pushEgress r s) :=
  Canonical.of_only (pushEgress_only r s) (by decide) hc

theorem egressGap_canon (n : Nat) (s : State) (hc : Canonical s) : Canonical (egressGap n s) := by
  unfold egressGap
  repeat' first
    | with_reducible assumption
    | simp +contextual (maxDischargeDepth := 60) only [clrReg_canon, loseEgress_canon, pushEgress_canon, Canonical.mk_iff, Canonical.forEach, Canonical.when, Canonical.ite_of, implies_true, id_eq, *]
    | (with_reducible refine clrReg_canon _ _ _ ?_)
    | (with_reducible refine loseEgress_canon _ _ ?_)
    | (with_reducible refine pushEgress_canon _ _ ?_)
    | split
    | (with_reducible refine Canonical.forEach (fun _ _ _ => ?_) ?_)
    | (with_reducible refine Canonical.when (fun _ _ => ?_) ?_)

theorem egressRec_canon (r : Rec) (s : State) (hc : Canonical s) : Canonical (egressRec r s) := by
  unfold egressRec
  repeat' first
    | with_reducible assumption
    | simp +contextual (maxDischargeDepth := 60) only [loseEgress_canon, pushEgress_canon, egressGap_canon, Canonical.mk_iff, Canonical.forEach, Canonical.when, Canonical.ite_of, implies_true, id_eq, *]
    | (with_reducible refine loseEgress_canon _ _ ?_)
    | (with_reducible refine pushEgress_canon _ _ ?_)
    | (with_reducible refine egressGap_canon _ _ ?_)
    | split
    | (with_reducible refine Canonical.forEach (fun _ _ _ => ?_) ?_)
    | (with_reducible refine Canonical.when (fun _ _ => ?_) ?_)

theorem drainTrace_canon (n : Nat) (s : State) (hc : Canonical s) : Canonical (drainTrace n s) := by
  induction n generalizing s with
  | zero => exact hc
  | succ n ih =>
    unfold drainTrace
    repeat' first
      | simp +contextual (maxDischargeDepth := 60) only [ih, writeTrace_canon, egressRec_canon, bufferRec_canon, Canonical.mk_iff, Canonical.forEach, Canonical.when, Canonical.ite_of, implies_true, id_eq, *]
      | split

theorem rearmTrace_canon (s : State) (hc : Canonical s) : Canonical (rearmTrace s) := by
  unfold rearmTrace
  repeat' first
    | with_reducible assumption
    | simp +contextual (maxDischargeDepth := 60) only [clrReg_canon, Canonical.mk_iff, Canonical.forEach, Canonical.when, Canonical.ite_of, implies_true, id_eq, *]
    | (with_reducible refine clrReg_canon _ _ _ ?_)
    | split
    | (with_reducible refine Canonical.forEach (fun _ _ _ => ?_) ?_)
    | (with_reducible refine Canonical.when (fun _ _ => ?_) ?_)

theorem writeRptr_canon (w : Word) (s : State) (hc : Canonical s) : Canonical (writeRptr w s) := by
  unfold writeRptr
  repeat' first
    | with_reducible assumption
    | simp +contextual (maxDischargeDepth := 60) only [setReg_canon, orReg_canon, Canonical.mk_iff, Canonical.forEach, Canonical.when, Canonical.ite_of, implies_true, id_eq, *]
    | (with_reducible refine setReg_canon _ _ _ ?_)
    | (with_reducible refine orReg_canon _ _ _ ?_)
    | split
    | (with_reducible refine Canonical.forEach (fun _ _ _ => ?_) ?_)
    | (with_reducible refine Canonical.when (fun _ _ => ?_) ?_)

theorem startTrace_canon (s : State) (hc : Canonical s) : Canonical (startTrace s) := by
  unfold startTrace
  repeat' first
    | with_reducible assumption
    | simp +contextual (maxDischargeDepth := 60) only [setReg_canon, orReg_canon, clrReg_canon, genTime_canon, dropJobs_canon, Canonical.mk_iff, Canonical.forEach, Canonical.when, Canonical.ite_of, implies_true, id_eq, *]
    | (with_reducible refine setReg_canon _ _ _ ?_)
    | (with_reducible refine orReg_canon _ _ _ ?_)
    | (with_reducible refine clrReg_canon _ _ _ ?_)
    | (with_reducible refine genTime_canon _ _ _ ?_)
    | (with_reducible refine dropJobs_canon _ _ ?_)
    | split
    | (with_reducible refine Canonical.forEach (fun _ _ _ => ?_) ?_)
    | (with_reducible refine Canonical.when (fun _ _ => ?_) ?_)

theorem writeTraceCtl_canon (w : Word) (s : State) (hc : Canonical s) : Canonical (writeTraceCtl w s) := by
  unfold writeTraceCtl
  repeat' first
    | with_reducible assumption
    | simp +contextual (maxDischargeDepth := 60) only [setReg_canon, orReg_canon, writeTrace_canon, startTrace_canon, Canonical.mk_iff, Canonical.forEach, Canonical.when, Canonical.ite_of, implies_true, id_eq, *]
    | (with_reducible refine setReg_canon _ _ _ ?_)
    | (with_reducible refine orReg_canon _ _ _ ?_)
    | (with_reducible refine writeTrace_canon _ _ ?_)
    | (with_reducible refine startTrace_canon _ ?_)
    | split
    | (with_reducible refine Canonical.forEach (fun _ _ _ => ?_) ?_)
    | (with_reducible refine Canonical.when (fun _ _ => ?_) ?_)

theorem execTimeLowRead_canon (a : BusAcc) (s : State) (s' : State) (h : execTimeLowRead a s = .next s') (hc : Canonical s) : Canonical s' := by
  unfold execTimeLowRead at h
  injection h with h
  subst h
  try dsimp only
  repeat' first
    | (with_reducible refine busRead_canon _ _ _ _ (fun _ _ => ?_) ?_)
    | with_reducible assumption
    | simp +contextual (maxDischargeDepth := 60) only [Canonical.mk_iff, Canonical.forEach, Canonical.when, Canonical.ite_of, implies_true, id_eq, *]
    | split
    | (with_reducible refine Canonical.forEach (fun _ _ _ => ?_) ?_)
    | (with_reducible refine Canonical.when (fun _ _ => ?_) ?_)

theorem execBeacon_canon (tb : BitVec 64) (s : State) (s' : State) (h : execBeacon tb s = .next s') (hc : Canonical s) : Canonical s' := by
  unfold execBeacon at h
  injection h with h
  subst h
  try dsimp only
  repeat' first
    | with_reducible assumption
    | simp +contextual (maxDischargeDepth := 60) only [setReg_canon, orReg_canon, clrReg_canon, bump_canon, genTime_canon, raise_canon, Canonical.mk_iff, Canonical.forEach, Canonical.when, Canonical.ite_of, implies_true, id_eq, *]
    | (with_reducible refine setReg_canon _ _ _ ?_)
    | (with_reducible refine orReg_canon _ _ _ ?_)
    | (with_reducible refine clrReg_canon _ _ _ ?_)
    | (with_reducible refine bump_canon _ _ _ ?_)
    | (with_reducible refine genTime_canon _ _ _ ?_)
    | (with_reducible refine raise_canon _ _ ?_)
    | split
    | (with_reducible refine Canonical.forEach (fun _ _ _ => ?_) ?_)
    | (with_reducible refine Canonical.when (fun _ _ => ?_) ?_)

theorem execBeaconLoss_canon (s : State) (s' : State) (h : execBeaconLoss s = .next s') (hc : Canonical s) : Canonical s' := by
  unfold execBeaconLoss at h
  injection h with h
  subst h
  try dsimp only
  repeat' first
    | with_reducible assumption
    | simp +contextual (maxDischargeDepth := 60) only [orReg_canon, bump_canon, genTime_canon, raise_canon, Canonical.mk_iff, Canonical.forEach, Canonical.when, Canonical.ite_of, implies_true, id_eq, *]
    | (with_reducible refine orReg_canon _ _ _ ?_)
    | (with_reducible refine bump_canon _ _ _ ?_)
    | (with_reducible refine genTime_canon _ _ _ ?_)
    | (with_reducible refine raise_canon _ _ ?_)
    | split
    | (with_reducible refine Canonical.forEach (fun _ _ _ => ?_) ?_)
    | (with_reducible refine Canonical.when (fun _ _ => ?_) ?_)

theorem execTclkStall_canon (s : State) (s' : State) (h : execTclkStall s = .next s') (hc : Canonical s) : Canonical s' := by
  unfold execTclkStall at h
  injection h with h
  subst h
  try dsimp only
  repeat' first
    | with_reducible assumption
    | simp +contextual (maxDischargeDepth := 60) only [orReg_canon, genTime_canon, Canonical.mk_iff, Canonical.forEach, Canonical.when, Canonical.ite_of, implies_true, id_eq, *]
    | (with_reducible refine orReg_canon _ _ _ ?_)
    | (with_reducible refine genTime_canon _ _ _ ?_)
    | split
    | (with_reducible refine Canonical.forEach (fun _ _ _ => ?_) ?_)
    | (with_reducible refine Canonical.when (fun _ _ => ?_) ?_)

theorem execTclkResume_canon (s : State) (s' : State) (h : execTclkResume s = .next s') (hc : Canonical s) : Canonical s' := by
  unfold execTclkResume at h
  injection h with h
  subst h
  try dsimp only
  repeat' first
    | with_reducible assumption
    | simp +contextual (maxDischargeDepth := 60) only [clrReg_canon, genTime_canon, Canonical.mk_iff, Canonical.forEach, Canonical.when, Canonical.ite_of, implies_true, id_eq, *]
    | (with_reducible refine clrReg_canon _ _ _ ?_)
    | (with_reducible refine genTime_canon _ _ _ ?_)
    | split
    | (with_reducible refine Canonical.forEach (fun _ _ _ => ?_) ?_)
    | (with_reducible refine Canonical.when (fun _ _ => ?_) ?_)

theorem execTimeSync_canon (s : State) (s' : State) (h : execTimeSync s = .next s') (hc : Canonical s) : Canonical s' :=
  (execTimeSync_only s s' h |> Canonical.of_only) (by decide) hc

theorem execCollect_canon (s : State) (s' : State) (h : execCollect s = .next s') (hc : Canonical s) : Canonical s' := by
  unfold execCollect at h
  injection h with h
  subst h
  try dsimp only
  repeat' first
    | with_reducible assumption
    | simp +contextual (maxDischargeDepth := 60) only [collectGo_canon, drainTrace_canon, Canonical.mk_iff, Canonical.forEach, Canonical.when, Canonical.ite_of, implies_true, id_eq, *]
    | (refine Canonical.snd (by assumption) (collectGo_canon _ _ ?_))
    | (with_reducible refine collectGo_canon _ _ ?_)
    | (with_reducible refine drainTrace_canon _ _ ?_)
    | split
    | (with_reducible refine Canonical.forEach (fun _ _ _ => ?_) ?_)
    | (with_reducible refine Canonical.when (fun _ _ => ?_) ?_)

theorem execTraceRowWrite_canon (s : State) (s' : State) (h : execTraceRowWrite s = .next s') (hc : Canonical s) : Canonical s' :=
  (execTraceRowWrite_only s s' h |> Canonical.of_only) (by decide) hc

theorem execTraceRowTimeout_canon (s : State) (s' : State) (h : execTraceRowTimeout s = .next s') (hc : Canonical s) : Canonical s' :=
  (execTraceRowTimeout_only s s' h |> Canonical.of_only) (by decide) hc

theorem execTraceFreeze_canon (s : State) (s' : State) (h : execTraceFreeze s = .next s') (hc : Canonical s) : Canonical s' := by
  unfold execTraceFreeze at h
  injection h with h
  subst h
  try dsimp only
  repeat' first
    | with_reducible assumption
    | simp +contextual (maxDischargeDepth := 60) only [orReg_canon, raise_canon, Canonical.mk_iff, Canonical.forEach, Canonical.when, Canonical.ite_of, implies_true, id_eq, *]
    | (with_reducible refine orReg_canon _ _ _ ?_)
    | (with_reducible refine raise_canon _ _ ?_)
    | split
    | (with_reducible refine Canonical.forEach (fun _ _ _ => ?_) ?_)
    | (with_reducible refine Canonical.when (fun _ _ => ?_) ?_)

theorem execTraceTrig_canon (a : BusAcc) (s : State) (s' : State) (h : execTraceTrig a s = .next s') (hc : Canonical s) : Canonical s' := by
  unfold execTraceTrig at h
  injection h with h
  subst h
  try dsimp only
  repeat' first
    | (with_reducible refine busWrite_canon _ _ _ _ (fun _ _ => ?_) ?_)
    | with_reducible assumption
    | simp +contextual (maxDischargeDepth := 60) only [traceTrigger_canon, Canonical.mk_iff, Canonical.forEach, Canonical.when, Canonical.ite_of, implies_true, id_eq, *]
    | (with_reducible refine traceTrigger_canon _ _ _ ?_)
    | split
    | (with_reducible refine Canonical.forEach (fun _ _ _ => ?_) ?_)
    | (with_reducible refine Canonical.when (fun _ _ => ?_) ?_)

theorem execTraceFlush_canon (a : BusAcc) (s : State) (s' : State) (h : execTraceFlush a s = .next s') (hc : Canonical s) : Canonical s' := by
  unfold execTraceFlush at h
  injection h with h
  subst h
  try dsimp only
  repeat' first
    | (with_reducible refine busWrite_canon _ _ _ _ (fun _ _ => ?_) ?_)
    | with_reducible assumption
    | simp +contextual (maxDischargeDepth := 60) only [writeTrace_canon, Canonical.mk_iff, Canonical.forEach, Canonical.when, Canonical.ite_of, implies_true, id_eq, *]
    | (with_reducible refine writeTrace_canon _ _ ?_)
    | split
    | (with_reducible refine Canonical.forEach (fun _ _ _ => ?_) ?_)
    | (with_reducible refine Canonical.when (fun _ _ => ?_) ?_)

theorem execTraceRearm_canon (a : BusAcc) (s : State) (s' : State) (h : execTraceRearm a s = .next s') (hc : Canonical s) : Canonical s' := by
  unfold execTraceRearm at h
  injection h with h
  subst h
  try dsimp only
  repeat' first
    | (with_reducible refine busWrite_canon _ _ _ _ (fun _ _ => ?_) ?_)
    | with_reducible assumption
    | simp +contextual (maxDischargeDepth := 60) only [rearmTrace_canon, Canonical.mk_iff, Canonical.forEach, Canonical.when, Canonical.ite_of, implies_true, id_eq, *]
    | (with_reducible refine rearmTrace_canon _ ?_)
    | split
    | (with_reducible refine Canonical.forEach (fun _ _ _ => ?_) ?_)
    | (with_reducible refine Canonical.when (fun _ _ => ?_) ?_)

theorem execTraceSync_canon (a : BusAcc) (s : State) (s' : State) (h : execTraceSync a s = .next s') (hc : Canonical s) : Canonical s' := by
  unfold execTraceSync at h
  injection h with h
  subst h
  try dsimp only
  repeat' first
    | (with_reducible refine busWrite_canon _ _ _ _ (fun _ _ => ?_) ?_)
    | with_reducible assumption
    | simp +contextual (maxDischargeDepth := 60) only [genTime_canon, Canonical.mk_iff, Canonical.forEach, Canonical.when, Canonical.ite_of, implies_true, id_eq, *]
    | (with_reducible refine genTime_canon _ _ _ ?_)
    | split
    | (with_reducible refine Canonical.forEach (fun _ _ _ => ?_) ?_)
    | (with_reducible refine Canonical.when (fun _ _ => ?_) ?_)

theorem execTraceRptrWrite_canon (a : BusAcc) (w : Word) (s : State) (s' : State) (h : execTraceRptrWrite a w s = .next s') (hc : Canonical s) : Canonical s' := by
  unfold execTraceRptrWrite at h
  injection h with h
  subst h
  try dsimp only
  repeat' first
    | (with_reducible refine busWrite_canon _ _ _ _ (fun _ _ => ?_) ?_)
    | with_reducible assumption
    | simp +contextual (maxDischargeDepth := 60) only [writeRptr_canon, Canonical.mk_iff, Canonical.forEach, Canonical.when, Canonical.ite_of, implies_true, id_eq, *]
    | (with_reducible refine writeRptr_canon _ _ ?_)
    | split
    | (with_reducible refine Canonical.forEach (fun _ _ _ => ?_) ?_)
    | (with_reducible refine Canonical.when (fun _ _ => ?_) ?_)

theorem execTraceEnable_canon (a : BusAcc) (w : Word) (s : State) (s' : State) (h : execTraceEnable a w s = .next s') (hc : Canonical s) : Canonical s' := by
  unfold execTraceEnable at h
  injection h with h
  subst h
  try dsimp only
  repeat' first
    | (with_reducible refine busWrite_canon _ _ _ _ (fun _ _ => ?_) ?_)
    | with_reducible assumption
    | simp +contextual (maxDischargeDepth := 60) only [writeTraceCtl_canon, Canonical.mk_iff, Canonical.forEach, Canonical.when, Canonical.ite_of, implies_true, id_eq, *]
    | (with_reducible refine writeTraceCtl_canon _ _ ?_)
    | split
    | (with_reducible refine Canonical.forEach (fun _ _ _ => ?_) ?_)
    | (with_reducible refine Canonical.when (fun _ _ => ?_) ?_)

theorem execTraceDisable_canon (a : BusAcc) (w : Word) (s : State) (s' : State) (h : execTraceDisable a w s = .next s') (hc : Canonical s) : Canonical s' := by
  unfold execTraceDisable at h
  injection h with h
  subst h
  try dsimp only
  repeat' first
    | (with_reducible refine busWrite_canon _ _ _ _ (fun _ _ => ?_) ?_)
    | with_reducible assumption
    | simp +contextual (maxDischargeDepth := 60) only [writeTraceCtl_canon, Canonical.mk_iff, Canonical.forEach, Canonical.when, Canonical.ite_of, implies_true, id_eq, *]
    | (with_reducible refine writeTraceCtl_canon _ _ ?_)
    | split
    | (with_reducible refine Canonical.forEach (fun _ _ _ => ?_) ?_)
    | (with_reducible refine Canonical.when (fun _ _ => ?_) ?_)

theorem execEgressSlotTaken_canon (s : State) (s' : State) (h : execEgressSlotTaken s = .next s') (hc : Canonical s) : Canonical s' :=
  (execEgressSlotTaken_only s s' h |> Canonical.of_only) (by decide) hc

theorem execTimeHoldEnd_canon (s : State) (s' : State) (h : execTimeHoldEnd s = .next s') (hc : Canonical s) : Canonical s' :=
  (execTimeHoldEnd_only s s' h |> Canonical.of_only) (by decide) hc

end Sys2Proof.Machine
end

