-- ==== Sys2Proof/Laws/ExecWatch.lean ====
section
/-!
SUPPORT. Laws/ExecWatch.lean: what each command of Machine/Watch.lean may change (generated text, one lemma for each command).
-/
namespace Sys2Proof.Machine

set_option linter.unusedSimpArgs false
set_option linter.tactic.unusedName false

theorem execWatchArm_only (a : BusAcc) (u : BitVec 2) (w : Word) (s : State) (s' : State) (h : execWatchArm a u w s = .next s') :
    Only [.regs, .cnt, .bus, .fr, .tr, .dbg] s s' := by
  unfold execWatchArm at h
  injection h with h
  subst h
  try dsimp only
  repeat' first
    | (with_reducible refine Only.trans ?_ (busWrite_only _ _ _ _ (by decide) (fun _ => ?_)))
    | simp (maxDischargeDepth := 8) only [Only.iff_of (writeWuCfg_only _ _ _ ), *, partsIn_nil, partsIn_cons, Only.self, Only.mk_iff, Only.forEach_iff, Only.when_iff, Only.ite_of, true_or, or_true, and_self, implies_true, List.mem_cons, reduceCtorEq, or_false, false_or, id_eq]
    | split
    | with_reducible refine Only.trans ?_ (Only.forEach (fun _ _ => ?_) _ _)
    | with_reducible refine Only.trans ?_ (Only.when (fun _ => ?_) _ _)

theorem execWatchDisarm_only (a : BusAcc) (u : BitVec 2) (w : Word) (s : State) (s' : State) (h : execWatchDisarm a u w s = .next s') :
    Only [.regs, .cnt, .bus, .fr, .tr, .dbg] s s' := by
  unfold execWatchDisarm at h
  injection h with h
  subst h
  try dsimp only
  repeat' first
    | (with_reducible refine Only.trans ?_ (busWrite_only _ _ _ _ (by decide) (fun _ => ?_)))
    | simp (maxDischargeDepth := 8) only [Only.iff_of (writeWuCfg_only _ _ _ ), *, partsIn_nil, partsIn_cons, Only.self, Only.mk_iff, Only.forEach_iff, Only.when_iff, Only.ite_of, true_or, or_true, and_self, implies_true, List.mem_cons, reduceCtorEq, or_false, false_or, id_eq]
    | split
    | with_reducible refine Only.trans ?_ (Only.forEach (fun _ _ => ?_) _ _)
    | with_reducible refine Only.trans ?_ (Only.when (fun _ => ?_) _ _)

theorem execWatchReadout_only (a : BusAcc) (w : Word) (s : State) (s' : State) (h : execWatchReadout a w s = .next s') :
    Only [.regs, .cnt, .bus, .fr, .tr, .dbg] s s' := by
  unfold execWatchReadout at h
  injection h with h
  subst h
  try dsimp only
  repeat' first
    | (with_reducible refine Only.trans ?_ (busWrite_only _ _ _ _ (by decide) (fun _ => ?_)))
    | simp (maxDischargeDepth := 8) only [Only.iff_of (writeRdaddr_only _ _ _ ), *, partsIn_nil, partsIn_cons, Only.self, Only.mk_iff, Only.forEach_iff, Only.when_iff, Only.ite_of, true_or, or_true, and_self, implies_true, List.mem_cons, reduceCtorEq, or_false, false_or, id_eq]
    | split
    | with_reducible refine Only.trans ?_ (Only.forEach (fun _ _ => ?_) _ _)
    | with_reducible refine Only.trans ?_ (Only.when (fun _ => ?_) _ _)

theorem execWatchReadoutDone_only (s : State) (s' : State) (h : execWatchReadoutDone s = .next s') :
    Only [.regs, .fr, .dbg] s s' := by
  unfold execWatchReadoutDone at h
  injection h with h
  subst h
  try dsimp only
  repeat' first
    | simp (maxDischargeDepth := 8) only [Only.iff_of (dropTr_only _ _ ), Only.iff_of (finishReadout_only _ _ ), *, partsIn_nil, partsIn_cons, Only.self, Only.mk_iff, Only.forEach_iff, Only.when_iff, Only.ite_of, true_or, or_true, and_self, implies_true, List.mem_cons, reduceCtorEq, or_false, false_or, id_eq]
    | split
    | with_reducible refine Only.trans ?_ (Only.forEach (fun _ _ => ?_) _ _)
    | with_reducible refine Only.trans ?_ (Only.when (fun _ => ?_) _ _)

end Sys2Proof.Machine
end

