-- ==== Sys2Proof/Laws/CanonWatch.lean ====
section
/-!
SUPPORT. Laws/CanonWatch.lean: the operations and commands of Machine/Watch.lean keep memory, registers and counters in canonical form
(generated text, one lemma for each).
-/
namespace Sys2Proof.Machine

set_option linter.unusedSimpArgs false

theorem setWatch_canon (u : Nat) (w : Watch) (s : State) (hc : Canonical s) : Canonical (setWatch u w s) :=
  Canonical.of_only (setWatch_only u w s) (by decide) hc

theorem clearWatch_canon (u : Nat) (s : State) (hc : Canonical s) : Canonical (clearWatch u s) :=
  Canonical.of_only (clearWatch_only u s) (by decide) hc

theorem disarm_canon (u : Nat) (s : State) (hc : Canonical s) : Canonical (disarm u s) := by
  unfold disarm
  repeat' first
    | with_reducible assumption
    | simp +contextual (maxDischargeDepth := 60) only [setRegF_canon, clearWatch_canon, Canonical.mk_iff, Canonical.forEach, Canonical.when, Canonical.ite_of, implies_true, id_eq, *]
    | (with_reducible refine setRegF_canon _ _ _ _ _ ?_)
    | (with_reducible refine clearWatch_canon _ _ ?_)
    | split
    | (with_reducible refine Canonical.forEach (fun _ _ _ => ?_) ?_)
    | (with_reducible refine Canonical.when (fun _ _ => ?_) ?_)

theorem writeWuCfg_canon (u : Nat) (w : Word) (s : State) (hc : Canonical s) : Canonical (writeWuCfg u w s) := by
  unfold writeWuCfg
  repeat' first
    | with_reducible assumption
    | simp +contextual (maxDischargeDepth := 60) only [setReg_canon, orReg_canon, clearWatch_canon, disarm_canon, Canonical.mk_iff, Canonical.forEach, Canonical.when, Canonical.ite_of, implies_true, id_eq, *]
    | (with_reducible refine setReg_canon _ _ _ ?_)
    | (with_reducible refine orReg_canon _ _ _ ?_)
    | (with_reducible refine clearWatch_canon _ _ ?_)
    | (with_reducible refine disarm_canon _ _ ?_)
    | split
    | (with_reducible refine Canonical.forEach (fun _ _ _ => ?_) ?_)
    | (with_reducible refine Canonical.when (fun _ _ => ?_) ?_)

theorem writeWuReg_canon (u k : Nat) (w : Word) (s : State) (hc : Canonical s) : Canonical (writeWuReg u k w s) := by
  unfold writeWuReg
  repeat' first
    | with_reducible assumption
    | simp +contextual (maxDischargeDepth := 60) only [setReg_canon, orReg_canon, Canonical.mk_iff, Canonical.forEach, Canonical.when, Canonical.ite_of, implies_true, id_eq, *]
    | (with_reducible refine setReg_canon _ _ _ ?_)
    | (with_reducible refine orReg_canon _ _ _ ?_)
    | split
    | (with_reducible refine Canonical.forEach (fun _ _ _ => ?_) ?_)
    | (with_reducible refine Canonical.when (fun _ _ => ?_) ?_)

theorem writeWuOwn_canon (w : Word) (s : State) (hc : Canonical s) : Canonical (writeWuOwn w s) := by
  unfold writeWuOwn
  repeat' first
    | with_reducible assumption
    | simp +contextual (maxDischargeDepth := 60) only [setRegF_canon, orReg_canon, Canonical.mk_iff, Canonical.forEach, Canonical.when, Canonical.ite_of, implies_true, id_eq, *]
    | (with_reducible refine setRegF_canon _ _ _ _ _ ?_)
    | (with_reducible refine orReg_canon _ _ _ ?_)
    | split
    | (with_reducible refine Canonical.forEach (fun _ _ _ => ?_) ?_)
    | (with_reducible refine Canonical.when (fun _ _ => ?_) ?_)

theorem watchRelock_canon (s : State) (hc : Canonical s) : Canonical (watchRelock s) := by
  unfold watchRelock
  repeat' first
    | with_reducible assumption
    | simp +contextual (maxDischargeDepth := 60) only [disarm_canon, Canonical.mk_iff, Canonical.forEach, Canonical.when, Canonical.ite_of, implies_true, id_eq, *]
    | (with_reducible refine disarm_canon _ _ ?_)
    | split
    | (with_reducible refine Canonical.forEach (fun _ _ _ => ?_) ?_)
    | (with_reducible refine Canonical.when (fun _ _ => ?_) ?_)

theorem watchMatch_canon (x : WatchSlip) (s : State) (hc : Canonical s) : Canonical (watchMatch x s) := by
  unfold watchMatch
  repeat' first
    | with_reducible assumption
    | simp +contextual (maxDischargeDepth := 60) only [setReg_canon, raise_canon, setWatch_canon, Canonical.mk_iff, Canonical.forEach, Canonical.when, Canonical.ite_of, implies_true, id_eq, *]
    | (with_reducible refine setReg_canon _ _ _ ?_)
    | (with_reducible refine raise_canon _ _ ?_)
    | (with_reducible refine setWatch_canon _ _ _ ?_)
    | split
    | (with_reducible refine Canonical.forEach (fun _ _ _ => ?_) ?_)
    | (with_reducible refine Canonical.when (fun _ _ => ?_) ?_)

theorem endCapture_canon (u : Nat) (s : State) (hc : Canonical s) : Canonical (endCapture u s) := by
  unfold endCapture
  repeat' first
    | with_reducible assumption
    | simp +contextual (maxDischargeDepth := 60) only [setRegF_canon, orReg_canon, setWatch_canon, Canonical.mk_iff, Canonical.forEach, Canonical.when, Canonical.ite_of, implies_true, id_eq, *]
    | (with_reducible refine setRegF_canon _ _ _ _ _ ?_)
    | (with_reducible refine orReg_canon _ _ _ ?_)
    | (with_reducible refine setWatch_canon _ _ _ ?_)
    | split
    | (with_reducible refine Canonical.forEach (fun _ _ _ => ?_) ?_)
    | (with_reducible refine Canonical.when (fun _ _ => ?_) ?_)

theorem dumpFlit_canon (u n : Nat) (data : Row) (pois : Mask4) (s : State) (hc : Canonical s) : Canonical (dumpFlit u n data pois s) := by
  unfold dumpFlit
  repeat' first
    | with_reducible assumption
    | simp +contextual (maxDischargeDepth := 60) only [orReg_canon, raise_canon, watchLost_canon, setWatch_canon, Canonical.mk_iff, Canonical.forEach, Canonical.when, Canonical.ite_of, implies_true, id_eq, *]
    | (with_reducible refine orReg_canon _ _ _ ?_)
    | (with_reducible refine raise_canon _ _ ?_)
    | (with_reducible refine watchLost_canon _ _ ?_)
    | (with_reducible refine setWatch_canon _ _ _ ?_)
    | split
    | (with_reducible refine Canonical.forEach (fun _ _ _ => ?_) ?_)
    | (with_reducible refine Canonical.when (fun _ _ => ?_) ?_)

theorem tapFlit_canon (u : Nat) (x : WatchSlip) (seq fmt : Nat) (last : Bool) (data : Row) (pois : Mask4) (s : State) (hc : Canonical s) : Canonical (tapFlit u x seq fmt last data pois s) := by
  unfold tapFlit
  repeat' first
    | with_reducible assumption
    | simp +contextual (maxDischargeDepth := 60) only [setReg_canon, genRec_canon, endCapture_canon, dumpFlit_canon, Canonical.mk_iff, Canonical.forEach, Canonical.when, Canonical.ite_of, implies_true, id_eq, *]
    | (with_reducible refine setReg_canon _ _ _ ?_)
    | (with_reducible refine genRec_canon _ _ _ ?_)
    | (with_reducible refine endCapture_canon _ _ ?_)
    | (with_reducible refine dumpFlit_canon _ _ _ _ _ ?_)
    | split
    | (with_reducible refine Canonical.forEach (fun _ _ _ => ?_) ?_)
    | (with_reducible refine Canonical.when (fun _ _ => ?_) ?_)

theorem watchRead_canon (x : WatchSlip) (lane seq fmt : Nat) (last : Bool) (data : Row) (pois : Mask4) (s : State) (hc : Canonical s) : Canonical (watchRead x lane seq fmt last data pois s) := by
  unfold watchRead
  repeat' first
    | with_reducible assumption
    | simp +contextual (maxDischargeDepth := 60) only [tapFlit_canon, Canonical.mk_iff, Canonical.forEach, Canonical.when, Canonical.ite_of, implies_true, id_eq, *]
    | (with_reducible refine tapFlit_canon _ _ _ _ _ _ _ _ ?_)
    | split
    | (with_reducible refine Canonical.forEach (fun _ _ _ => ?_) ?_)
    | (with_reducible refine Canonical.when (fun _ _ => ?_) ?_)

theorem watchStore_canon (x : WatchSlip) (seq fmt : Nat) (last : Bool) (data : Row) (pois en : Mask4) (s : State) (hc : Canonical s) : Canonical (watchStore x seq fmt last data pois en s) := by
  unfold watchStore
  repeat' first
    | with_reducible assumption
    | simp +contextual (maxDischargeDepth := 60) only [tapFlit_canon, Canonical.mk_iff, Canonical.forEach, Canonical.when, Canonical.ite_of, implies_true, id_eq, *]
    | (with_reducible refine tapFlit_canon _ _ _ _ _ _ _ _ ?_)
    | split
    | (with_reducible refine Canonical.forEach (fun _ _ _ => ?_) ?_)
    | (with_reducible refine Canonical.when (fun _ _ => ?_) ?_)

theorem watchRelease_canon (sid : Nat) (s : State) (hc : Canonical s) : Canonical (watchRelease sid s) := by
  unfold watchRelease
  repeat' first
    | with_reducible assumption
    | simp +contextual (maxDischargeDepth := 60) only [endCapture_canon, Canonical.mk_iff, Canonical.forEach, Canonical.when, Canonical.ite_of, implies_true, id_eq, *]
    | (with_reducible refine endCapture_canon _ _ ?_)
    | split
    | (with_reducible refine Canonical.forEach (fun _ _ _ => ?_) ?_)
    | (with_reducible refine Canonical.when (fun _ _ => ?_) ?_)

theorem askDump_canon (s : State) (hc : Canonical s) : Canonical (askDump s) :=
  Canonical.of_only (askDump_only s) (by decide) hc

theorem dumped_canon (u : Nat) (failed : Bool) (s : State) (hc : Canonical s) : Canonical (dumped u failed s) := by
  unfold dumped
  repeat' first
    | with_reducible assumption
    | simp +contextual (maxDischargeDepth := 60) only [orReg_canon, raise_canon, setWatch_canon, clearWatch_canon, Canonical.mk_iff, Canonical.forEach, Canonical.when, Canonical.ite_of, implies_true, id_eq, *]
    | (with_reducible refine orReg_canon _ _ _ ?_)
    | (with_reducible refine raise_canon _ _ ?_)
    | (with_reducible refine setWatch_canon _ _ _ ?_)
    | (with_reducible refine clearWatch_canon _ _ ?_)
    | split
    | (with_reducible refine Canonical.forEach (fun _ _ _ => ?_) ?_)
    | (with_reducible refine Canonical.when (fun _ _ => ?_) ?_)

theorem writeRdaddr_canon (l : Nat) (w : Word) (s : State) (hc : Canonical s) : Canonical (writeRdaddr l w s) := by
  unfold writeRdaddr
  repeat' first
    | with_reducible assumption
    | simp +contextual (maxDischargeDepth := 60) only [setReg_canon, setRegF_canon, orReg_canon, addTr_canon, Canonical.mk_iff, Canonical.forEach, Canonical.when, Canonical.ite_of, implies_true, id_eq, *]
    | (with_reducible refine setReg_canon _ _ _ ?_)
    | (with_reducible refine setRegF_canon _ _ _ _ _ ?_)
    | (with_reducible refine orReg_canon _ _ _ ?_)
    | (with_reducible refine addTr_canon _ _ ?_)
    | split
    | (with_reducible refine Canonical.forEach (fun _ _ _ => ?_) ?_)
    | (with_reducible refine Canonical.when (fun _ _ => ?_) ?_)

theorem setRowRegs_canon (o : Nat) (d : Row) (s : State) (hc : Canonical s) : Canonical (setRowRegs o d s) := by
  unfold setRowRegs
  repeat' first
    | with_reducible assumption
    | simp +contextual (maxDischargeDepth := 60) only [setRegs_canon, Canonical.mk_iff, Canonical.forEach, Canonical.when, Canonical.ite_of, implies_true, id_eq, *]
    | (with_reducible refine setRegs_canon _ _ _ ?_)
    | split
    | (with_reducible refine Canonical.forEach (fun _ _ _ => ?_) ?_)
    | (with_reducible refine Canonical.when (fun _ _ => ?_) ?_)

theorem dropTr_canon (id : Nat) (s : State) (hc : Canonical s) : Canonical (dropTr id s) :=
  Canonical.of_only (dropTr_only id s) (by decide) hc

theorem finishReadout_canon (r : Row × Mask4) (s : State) (hc : Canonical s) : Canonical (finishReadout r s) := by
  unfold finishReadout
  repeat' first
    | with_reducible assumption
    | simp +contextual (maxDischargeDepth := 60) only [setRegF_canon, setRowRegs_canon, Canonical.mk_iff, Canonical.forEach, Canonical.when, Canonical.ite_of, implies_true, id_eq, *]
    | (with_reducible refine setRegF_canon _ _ _ _ _ ?_)
    | (with_reducible refine setRowRegs_canon _ _ _ ?_)
    | split
    | (with_reducible refine Canonical.forEach (fun _ _ _ => ?_) ?_)
    | (with_reducible refine Canonical.when (fun _ _ => ?_) ?_)

theorem execWatchArm_canon (a : BusAcc) (u : BitVec 2) (w : Word) (s : State) (s' : State) (h : execWatchArm a u w s = .next s') (hc : Canonical s) : Canonical s' := by
  unfold execWatchArm at h
  injection h with h
  subst h
  try dsimp only
  repeat' first
    | (with_reducible refine busWrite_canon _ _ _ _ (fun _ _ => ?_) ?_)
    | with_reducible assumption
    | simp +contextual (maxDischargeDepth := 60) only [writeWuCfg_canon, Canonical.mk_iff, Canonical.forEach, Canonical.when, Canonical.ite_of, implies_true, id_eq, *]
    | (with_reducible refine writeWuCfg_canon _ _ _ ?_)
    | split
    | (with_reducible refine Canonical.forEach (fun _ _ _ => ?_) ?_)
    | (with_reducible refine Canonical.when (fun _ _ => ?_) ?_)

theorem execWatchDisarm_canon (a : BusAcc) (u : BitVec 2) (w : Word) (s : State) (s' : State) (h : execWatchDisarm a u w s = .next s') (hc : Canonical s) : Canonical s' := by
  unfold execWatchDisarm at h
  injection h with h
  subst h
  try dsimp only
  repeat' first
    | (with_reducible refine busWrite_canon _ _ _ _ (fun _ _ => ?_) ?_)
    | with_reducible assumption
    | simp +contextual (maxDischargeDepth := 60) only [writeWuCfg_canon, Canonical.mk_iff, Canonical.forEach, Canonical.when, Canonical.ite_of, implies_true, id_eq, *]
    | (with_reducible refine writeWuCfg_canon _ _ _ ?_)
    | split
    | (with_reducible refine Canonical.forEach (fun _ _ _ => ?_) ?_)
    | (with_reducible refine Canonical.when (fun _ _ => ?_) ?_)

theorem execWatchReadout_canon (a : BusAcc) (w : Word) (s : State) (s' : State) (h : execWatchReadout a w s = .next s') (hc : Canonical s) : Canonical s' := by
  unfold execWatchReadout at h
  injection h with h
  subst h
  try dsimp only
  repeat' first
    | (with_reducible refine busWrite_canon _ _ _ _ (fun _ _ => ?_) ?_)
    | with_reducible assumption
    | simp +contextual (maxDischargeDepth := 60) only [writeRdaddr_canon, Canonical.mk_iff, Canonical.forEach, Canonical.when, Canonical.ite_of, implies_true, id_eq, *]
    | (with_reducible refine writeRdaddr_canon _ _ _ ?_)
    | split
    | (with_reducible refine Canonical.forEach (fun _ _ _ => ?_) ?_)
    | (with_reducible refine Canonical.when (fun _ _ => ?_) ?_)

theorem execWatchReadoutDone_canon (s : State) (s' : State) (h : execWatchReadoutDone s = .next s') (hc : Canonical s) : Canonical s' := by
  unfold execWatchReadoutDone at h
  injection h with h
  subst h
  try dsimp only
  repeat' first
    | with_reducible assumption
    | simp +contextual (maxDischargeDepth := 60) only [dropTr_canon, finishReadout_canon, Canonical.mk_iff, Canonical.forEach, Canonical.when, Canonical.ite_of, implies_true, id_eq, *]
    | (with_reducible refine dropTr_canon _ _ ?_)
    | (with_reducible refine finishReadout_canon _ _ ?_)
    | split
    | (with_reducible refine Canonical.forEach (fun _ _ _ => ?_) ?_)
    | (with_reducible refine Canonical.when (fun _ _ => ?_) ?_)

end Sys2Proof.Machine
end

