-- ==== Sys2Proof/Laws/CanonFlags.lean ====
section
/-!
SUPPORT. Laws/CanonFlags.lean: the operations and commands of Machine/Flags.lean keep memory, registers and counters in canonical form
(generated text, one lemma for each).
-/
namespace Sys2Proof.Machine

set_option linter.unusedSimpArgs false

theorem raiseCvt_canon (x : Slip) (f : Nat) (s : State) (hc : Canonical s) : Canonical (raiseCvt x f s) := by
  unfold raiseCvt
  repeat' first
    | with_reducible assumption
    | simp +contextual (maxDischargeDepth := 60) only [orReg_canon, updSlip_canon, Canonical.mk_iff, Canonical.forEach, Canonical.when, Canonical.ite_of, implies_true, id_eq, *]
    | (with_reducible refine orReg_canon _ _ _ ?_)
    | (with_reducible refine updSlip_canon _ _ _ ?_)
    | split
    | (with_reducible refine Canonical.forEach (fun _ _ _ => ?_) ?_)
    | (with_reducible refine Canonical.when (fun _ _ => ?_) ?_)

theorem raiseBlend_canon (x : Slip) (f : Nat) (s : State) (hc : Canonical s) : Canonical (raiseBlend x f s) := by
  unfold raiseBlend
  repeat' first
    | with_reducible assumption
    | simp +contextual (maxDischargeDepth := 60) only [orReg_canon, updSlip_canon, Canonical.mk_iff, Canonical.forEach, Canonical.when, Canonical.ite_of, implies_true, id_eq, *]
    | (with_reducible refine orReg_canon _ _ _ ?_)
    | (with_reducible refine updSlip_canon _ _ _ ?_)
    | split
    | (with_reducible refine Canonical.forEach (fun _ _ _ => ?_) ?_)
    | (with_reducible refine Canonical.when (fun _ _ => ?_) ?_)

theorem setQueue_canon (q : Nat) (x : SlipQ) (s : State) (hc : Canonical s) : Canonical (setQueue q x s) :=
  Canonical.of_only (setQueue_only q x s) (by decide) hc

theorem updQueue_canon (q : Nat) (f : SlipQ → SlipQ) (s : State) (hc : Canonical s) : Canonical (updQueue q f s) :=
  Canonical.of_only (updQueue_only q f s) (by decide) hc

theorem progress_canon (q : Nat) (s : State) (hc : Canonical s) : Canonical (progress q s) :=
  Canonical.of_only (progress_only q s) (by decide) hc

theorem slipRaise_canon (sid kind : Nat) (s : State) (hc : Canonical s) : Canonical (slipRaise sid kind s) := by
  unfold slipRaise
  repeat' first
    | with_reducible assumption
    | simp +contextual (maxDischargeDepth := 60) only [raise_canon, updSlip_canon, Canonical.mk_iff, Canonical.forEach, Canonical.when, Canonical.ite_of, implies_true, id_eq, *]
    | (with_reducible refine raise_canon _ _ ?_)
    | (with_reducible refine updSlip_canon _ _ _ ?_)
    | split
    | (with_reducible refine Canonical.forEach (fun _ _ _ => ?_) ?_)
    | (with_reducible refine Canonical.when (fun _ _ => ?_) ?_)

theorem slipFault_canon (x : Slip) (kind v : Nat) (off : Int) (store : Bool) (s : State) (hc : Canonical s) : Canonical (slipFault x kind v off store s) := by
  unfold slipFault
  repeat' first
    | with_reducible assumption
    | simp +contextual (maxDischargeDepth := 60) only [faultRow_canon, slipRaise_canon, Canonical.mk_iff, Canonical.forEach, Canonical.when, Canonical.ite_of, implies_true, id_eq, *]
    | (with_reducible refine faultRow_canon _ _ _ _ _ _ _ _ ?_)
    | (with_reducible refine slipRaise_canon _ _ _ ?_)
    | split
    | (with_reducible refine Canonical.forEach (fun _ _ _ => ?_) ?_)
    | (with_reducible refine Canonical.when (fun _ _ => ?_) ?_)

theorem countBeat_canon (lb cls : Nat) (ctx : Option Nat) (s : State) (hc : Canonical s) : Canonical (countBeat lb cls ctx s) := by
  unfold countBeat
  repeat' first
    | with_reducible assumption
    | simp +contextual (maxDischargeDepth := 60) only [bump_canon, xbump_canon, Canonical.mk_iff, Canonical.forEach, Canonical.when, Canonical.ite_of, implies_true, id_eq, *]
    | (with_reducible refine bump_canon _ _ _ ?_)
    | (with_reducible refine xbump_canon _ _ _ ?_)
    | split
    | (with_reducible refine Canonical.forEach (fun _ _ _ => ?_) ?_)
    | (with_reducible refine Canonical.when (fun _ _ => ?_) ?_)

theorem markPlane_canon (c : Crossing) (p : Parity) (s : State) (hc : Canonical s) : Canonical (markPlane c p s) :=
  Canonical.of_only (markPlane_only c p s) (by decide) hc

theorem netParity_canon (write : Bool) (p : Parity) (src dst : Nat) (s : State) (hc : Canonical s) : Canonical (netParity write p src dst s) := by
  unfold netParity
  repeat' first
    | with_reducible assumption
    | simp +contextual (maxDischargeDepth := 60) only [bump_canon, raise_canon, fillLog_canon, fwdParity_canon, Canonical.mk_iff, Canonical.forEach, Canonical.when, Canonical.ite_of, implies_true, id_eq, *]
    | (with_reducible refine bump_canon _ _ _ ?_)
    | (with_reducible refine raise_canon _ _ ?_)
    | (with_reducible refine fillLog_canon _ _ _ _ ?_)
    | (with_reducible refine fwdParity_canon _ _ _ ?_)
    | split
    | (with_reducible refine Canonical.forEach (fun _ _ _ => ?_) ?_)
    | (with_reducible refine Canonical.when (fun _ _ => ?_) ?_)

theorem blendParity_canon (c : Nat) (s : State) (hc : Canonical s) : Canonical (blendParity c s) := by
  unfold blendParity
  repeat' first
    | with_reducible assumption
    | simp +contextual (maxDischargeDepth := 60) only [bump_canon, raise_canon, fwdParity_canon, Canonical.mk_iff, Canonical.forEach, Canonical.when, Canonical.ite_of, implies_true, id_eq, *]
    | (with_reducible refine bump_canon _ _ _ ?_)
    | (with_reducible refine raise_canon _ _ ?_)
    | (with_reducible refine fwdParity_canon _ _ _ ?_)
    | split
    | (with_reducible refine Canonical.forEach (fun _ _ _ => ?_) ?_)
    | (with_reducible refine Canonical.when (fun _ _ => ?_) ?_)

theorem sbegin_canon (x : Slip) (s : State) (hc : Canonical s) : Canonical (sbegin x s) :=
  Canonical.of_only (sbegin_only x s) (by decide) hc

theorem maybeSend_canon (sid : Nat) (s : State) (hc : Canonical s) : Canonical (maybeSend sid s) :=
  Canonical.of_only (maybeSend_only sid s) (by decide) hc

end Sys2Proof.Machine
end

