-- ==== Sys2Proof/Laws/ExecDeliver.lean ====
section
/-!
SUPPORT. Laws/ExecDeliver.lean: what each command of Machine/Deliver.lean may change (generated text, one lemma for each command).
-/
namespace Sys2Proof.Machine

set_option linter.unusedSimpArgs false
set_option linter.tactic.unusedName false

theorem execReadFlitOutput_only (lane : Nat) (par : Parity) (blpar : Mask4) (s : State) (s' : State)
    (h : execReadFlitOutput lane par blpar s = .next s') :
    Only [.regs, .cnt, .fr, .sq, .bl, .tr, .dbg, .fw, .rx, .pw] s s' := by
  unfold execReadFlitOutput at h
  injection h with h
  subst h
  dsimp only
  split
  · rename_i r s2 e
    have h1 : Only [.regs, .cnt, .fr, .sq, .bl, .tr, .dbg, .fw, .rx, .pw] s s2 := by
      split at e
      · exact (emitNext_only _ _ _ _ e).mono (by decide)
      · split at e
        · cases e
        · split at e
          · exact (passBeat_only _ _ _ _ _ _ _ e).mono (by decide)
          · cases e
    split
    · exact h1
    · exact Only.refl _ _
  · exact Only.refl _ _

end Sys2Proof.Machine
end

