-- ==== Sys2Proof/Laws/CanonDeliver.lean ====
section
/-!
SUPPORT. Laws/CanonDeliver.lean: the operations and commands of Machine/Deliver.lean keep memory, registers and counters in canonical form
(generated text, one lemma for each).
-/
namespace Sys2Proof.Machine

set_option linter.unusedSimpArgs false

theorem freeSlots_canon (sid l : Nat) (s : State) (hc : Canonical s) : Canonical (freeSlots sid l s) :=
  Canonical.of_only (freeSlots_only sid l s) (by decide) hc

theorem land_canon (l : Nat) (f : OutFlit) (s : State) (hc : Canonical s) : Canonical (land l f s) :=
  Canonical.of_only (land_only l f s) (by decide) hc

theorem stageMove_canon (x : Slip) (last : Bool) (d : DFlit) (s : State) (hc : Canonical s) : Canonical (stageMove x last d s) :=
  Canonical.of_only (stageMove_only x last d s) (by decide) hc

theorem emitFlit_canon (sid l : Nat) (blpar : Mask4) (d : DFlit) (s : State) (hc : Canonical s) : Canonical (emitFlit sid l blpar d s) := by
  unfold emitFlit
  repeat' first
    | with_reducible assumption
    | simp +contextual (maxDischargeDepth := 60) only [estimate_canon, updSlip_canon, watchRead_canon, raiseBlend_canon, blendParity_canon, freeSlots_canon, land_canon, stageMove_canon, Canonical.mk_iff, Canonical.forEach, Canonical.when, Canonical.ite_of, implies_true, id_eq, *]
    | (with_reducible refine estimate_canon _ _ _ ?_)
    | (with_reducible refine updSlip_canon _ _ _ ?_)
    | (with_reducible refine watchRead_canon _ _ _ _ _ _ _ _ ?_)
    | (with_reducible refine raiseBlend_canon _ _ _ ?_)
    | (with_reducible refine blendParity_canon _ _ ?_)
    | (with_reducible refine freeSlots_canon _ _ _ ?_)
    | (with_reducible refine land_canon _ _ _ ?_)
    | (with_reducible refine stageMove_canon _ _ _ _ ?_)
    | split
    | (with_reducible refine Canonical.forEach (fun _ _ _ => ?_) ?_)
    | (with_reducible refine Canonical.when (fun _ _ => ?_) ?_)

theorem discardFlit_canon (x : Slip) (l : Nat) (s : State) (hc : Canonical s) : Canonical (discardFlit x l s) :=
  Canonical.of_only (discardFlit_only x l s) (by decide) hc

theorem passSlip_canon (x : Slip) (l : Nat) (f : Row × Mask4) (s : State) (t : State) (h : passSlip x l f s = some t) (hc : Canonical s) : Canonical t := by
  unfold passSlip at h
  dsimp only at h
  repeat' (split at h)
  all_goals first
    | (cases h; done)
    | (injection h with h
       subst h
       repeat' first
         | simp +contextual (maxDischargeDepth := 60) only [estimate_canon, updSlip_canon, updRlane_canon, raiseCvt_canon, discardFlit_canon, Canonical.mk_iff, Canonical.forEach, Canonical.when, Canonical.ite_of, implies_true, id_eq, *]
         | split
       done)

theorem emitNext_canon (l : Nat) (blpar : Mask4) (s : State) (t : State) (h : emitNext l blpar s = some t) (hc : Canonical s) : Canonical t := by
  unfold emitNext at h
  dsimp only at h
  repeat' (split at h)
  all_goals first
    | (cases h; done)
    | (injection h with h
       subst h
       repeat' first
         | simp +contextual (maxDischargeDepth := 60) only [updSlip_canon, updRlane_canon, maybeSend_canon, emitFlit_canon, Canonical.mk_iff, Canonical.forEach, Canonical.when, Canonical.ite_of, implies_true, id_eq, *]
         | split
       done)

theorem passFlush_canon (x : Slip) (l : Nat) (s : State) (hc : Canonical s) : Canonical (passFlush x l s) := by
  unfold passFlush
  repeat' first
    | with_reducible assumption
    | simp +contextual (maxDischargeDepth := 60) only [estimate_canon, updSlip_canon, watchRead_canon, maybeSend_canon, land_canon, Canonical.mk_iff, Canonical.forEach, Canonical.when, Canonical.ite_of, implies_true, id_eq, *]
    | (with_reducible refine estimate_canon _ _ _ ?_)
    | (with_reducible refine updSlip_canon _ _ _ ?_)
    | (with_reducible refine watchRead_canon _ _ _ _ _ _ _ _ ?_)
    | (with_reducible refine maybeSend_canon _ _ ?_)
    | (with_reducible refine land_canon _ _ _ ?_)
    | split
    | (with_reducible refine Canonical.forEach (fun _ _ _ => ?_) ?_)
    | (with_reducible refine Canonical.when (fun _ _ => ?_) ?_)

theorem passOwn_canon (t : Tr) (l n : Nat) (f : Row × Mask4) (s : State) (hc : Canonical s) : Canonical (passOwn t l n f s) :=
  Canonical.of_only (passOwn_only t l n f s) (by decide) hc

theorem passReturn_canon (x : Slip) (l : Nat) (f : Row × Mask4) (s : State) (hc : Canonical s) : Canonical (passReturn x l f s) := by
  unfold passReturn
  repeat' first
    | with_reducible assumption
    | simp +contextual (maxDischargeDepth := 60) only [estimate_canon, updSlip_canon, watchRead_canon, maybeSend_canon, land_canon, Canonical.mk_iff, Canonical.forEach, Canonical.when, Canonical.ite_of, implies_true, id_eq, *]
    | (with_reducible refine estimate_canon _ _ _ ?_)
    | (with_reducible refine updSlip_canon _ _ _ ?_)
    | (with_reducible refine watchRead_canon _ _ _ _ _ _ _ _ ?_)
    | (with_reducible refine maybeSend_canon _ _ ?_)
    | (with_reducible refine land_canon _ _ _ ?_)
    | split
    | (with_reducible refine Canonical.forEach (fun _ _ _ => ?_) ?_)
    | (with_reducible refine Canonical.when (fun _ _ => ?_) ?_)

theorem beatPassed_canon (t : Tr) (l n : Nat) (s : State) (hc : Canonical s) : Canonical (beatPassed t l n s) :=
  Canonical.of_only (beatPassed_only t l n s) (by decide) hc

theorem passBeat_canon (lane : Nat) (t : Tr) (n : Nat) (par : Parity) (blpar : Mask4) (s u : State)
    (h : passBeat lane t n par blpar s = some u) (hc : Canonical s) : Canonical u := by
  unfold passBeat at h
  dsimp only at h
  generalize hv : netParity _ _ _ _ _ = v at h
  have h0 : Canonical v := by
    subst hv
    repeat' first
      | simp +contextual (maxDischargeDepth := 60) only [netParity_canon, markPlane_canon, Canonical.mk_iff, Canonical.forEach, Canonical.when, Canonical.ite_of, implies_true, id_eq, *]
      | split
  clear hv
  split at h
  · injection h with h
    subst h
    exact beatPassed_canon _ _ _ _ (passOwn_canon _ _ _ _ _ h0)
  · split at h
    · cases h
    · split at h
      · injection h with h
        subst h
        exact beatPassed_canon _ _ _ _ (passFlush_canon _ _ _ h0)
      · split at h
        · injection h with h
          subst h
          exact beatPassed_canon _ _ _ _ (passReturn_canon _ _ _ _ h0)
        · obtain ⟨w, hw, hu⟩ := Option.map_eq_some_iff.mp h
          subst hu
          exact Canonical.getD (fun t ht hc => emitNext_canon _ _ _ _ ht hc)
            (beatPassed_canon t lane n w (passSlip_canon _ _ _ _ _ hw h0))

theorem execReadFlitOutput_canon (lane : Nat) (par : Parity) (blpar : Mask4) (s : State) (s' : State)
    (h : execReadFlitOutput lane par blpar s = .next s') (hc : Canonical s) : Canonical s' := by
  unfold execReadFlitOutput at h
  injection h with h
  subst h
  dsimp only
  split
  · rename_i r s2 e
    have h1 : Canonical s2 := by
      split at e
      · exact emitNext_canon _ _ _ _ e hc
      · split at e
        · cases e
        · split at e
          · exact passBeat_canon _ _ _ _ _ _ _ e hc
          · cases e
    split
    · exact h1
    · exact hc
  · exact hc

end Sys2Proof.Machine
end

