-- ==== Sys2Proof/Laws/ExecLevel.lean ====
section
/-!
SUPPORT. Laws/ExecLevel.lean: what each command of Machine/Level.lean may change (generated text, one lemma for each command).
-/
namespace Sys2Proof.Machine

set_option linter.unusedSimpArgs false
set_option linter.tactic.unusedName false

theorem execSubwindowBoundary_only (s : State) (s' : State) (h : execSubwindowBoundary s = .next s') :
    Only [.regs, .pw] s s' := by
  unfold execSubwindowBoundary at h
  injection h with h
  subst h
  try dsimp only
  repeat' first
    | simp (maxDischargeDepth := 8) only [Only.iff_of (setReg_only _ _ _ ), *, partsIn_nil, partsIn_cons, Only.self, Only.mk_iff, Only.forEach_iff, Only.when_iff, Only.ite_of, true_or, or_true, and_self, implies_true, List.mem_cons, reduceCtorEq, or_false, false_or, id_eq]
    | split
    | with_reducible refine Only.trans ?_ (Only.forEach (fun _ _ => ?_) _ _)
    | with_reducible refine Only.trans ?_ (Only.when (fun _ => ?_) _ _)

theorem execEstimateMessage_only (s : State) (s' : State) (h : execEstimateMessage s = .next s') :
    Only [.regs, .pw] s s' := by
  unfold execEstimateMessage at h
  injection h with h
  subst h
  try dsimp only
  repeat' first
    | simp (maxDischargeDepth := 8) only [Only.iff_of (setReg_only _ _ _ ), *, partsIn_nil, partsIn_cons, Only.self, Only.mk_iff, Only.forEach_iff, Only.when_iff, Only.ite_of, true_or, or_true, and_self, implies_true, List.mem_cons, reduceCtorEq, or_false, false_or, id_eq]
    | split
    | with_reducible refine Only.trans ?_ (Only.forEach (fun _ _ => ?_) _ _)
    | with_reducible refine Only.trans ?_ (Only.when (fun _ => ?_) _ _)

theorem execCalIntervalEnd_only (s : State) (s' : State) (h : execCalIntervalEnd s = .next s') :
    Only [.regs, .tr, .dbg, .pw] s s' := by
  unfold execCalIntervalEnd at h
  injection h with h
  subst h
  try dsimp only
  repeat' first
    | simp (maxDischargeDepth := 8) only [Only.iff_of (orReg_only _ _ _ ), Only.iff_of (raise_only _ _ ), *, partsIn_nil, partsIn_cons, Only.self, Only.mk_iff, Only.forEach_iff, Only.when_iff, Only.ite_of, true_or, or_true, and_self, implies_true, List.mem_cons, reduceCtorEq, or_false, false_or, id_eq]
    | split
    | with_reducible refine Only.trans ?_ (Only.forEach (fun _ _ => ?_) _ _)
    | with_reducible refine Only.trans ?_ (Only.when (fun _ => ?_) _ _)

theorem execCalibration_only (msg : BitVec 64) (s : State) (s' : State) (h : execCalibration msg s = .next s') :
    Only [.regs, .tr, .dbg, .pw] s s' := by
  unfold execCalibration at h
  injection h with h
  subst h
  try dsimp only
  repeat' first
    | simp (maxDischargeDepth := 8) only [Only.iff_of (setReg_only _ _ _ ), Only.iff_of (orReg_only _ _ _ ), Only.iff_of (clrReg_only _ _ _ ), Only.iff_of (raise_only _ _ ), Only.iff_of (commandError_only _ ), *, partsIn_nil, partsIn_cons, Only.self, Only.mk_iff, Only.forEach_iff, Only.when_iff, Only.ite_of, true_or, or_true, and_self, implies_true, List.mem_cons, reduceCtorEq, or_false, false_or, id_eq]
    | split
    | with_reducible refine Only.trans ?_ (Only.forEach (fun _ _ => ?_) _ _)
    | with_reducible refine Only.trans ?_ (Only.when (fun _ => ?_) _ _)

theorem execLevelCommand_only (msg : BitVec 16) (s : State) (s' : State) (h : execLevelCommand msg s = .next s') :
    Only [.regs, .tr, .dbg, .pw] s s' := by
  unfold execLevelCommand at h
  injection h with h
  subst h
  try dsimp only
  repeat' first
    | simp (maxDischargeDepth := 8) only [Only.iff_of (commandError_only _ ), Only.iff_of (pushAck_only _ _ _ _ ), Only.iff_of (takeHeld_only _ ), *, partsIn_nil, partsIn_cons, Only.self, Only.mk_iff, Only.forEach_iff, Only.when_iff, Only.ite_of, true_or, or_true, and_self, implies_true, List.mem_cons, reduceCtorEq, or_false, false_or, id_eq]
    | split
    | with_reducible refine Only.trans ?_ (Only.forEach (fun _ _ => ?_) _ _)
    | with_reducible refine Only.trans ?_ (Only.when (fun _ => ?_) _ _)

theorem execClockSwitch_only (s : State) (s' : State) (h : execClockSwitch s = .next s') :
    Only [.regs, .tr, .dbg, .pw] s s' := by
  unfold execClockSwitch at h
  injection h with h
  subst h
  try dsimp only
  repeat' first
    | simp (maxDischargeDepth := 8) only [Only.iff_of (applyLevel_only _ _ ), Only.iff_of (takeHeld_only _ ), *, partsIn_nil, partsIn_cons, Only.self, Only.mk_iff, Only.forEach_iff, Only.when_iff, Only.ite_of, true_or, or_true, and_self, implies_true, List.mem_cons, reduceCtorEq, or_false, false_or, id_eq]
    | split
    | with_reducible refine Only.trans ?_ (Only.forEach (fun _ _ => ?_) _ _)
    | with_reducible refine Only.trans ?_ (Only.when (fun _ => ?_) _ _)

theorem execLockTimeout_only (s : State) (s' : State) (h : execLockTimeout s = .next s') :
    Only [.regs, .tr, .dbg, .pw] s s' := by
  unfold execLockTimeout at h
  injection h with h
  subst h
  try dsimp only
  repeat' first
    | simp (maxDischargeDepth := 8) only [Only.iff_of (commandError_only _ ), Only.iff_of (ackCommand_only _ _ _ ), Only.iff_of (takeHeld_only _ ), *, partsIn_nil, partsIn_cons, Only.self, Only.mk_iff, Only.forEach_iff, Only.when_iff, Only.ite_of, true_or, or_true, and_self, implies_true, List.mem_cons, reduceCtorEq, or_false, false_or, id_eq]
    | split
    | with_reducible refine Only.trans ?_ (Only.forEach (fun _ _ => ?_) _ _)
    | with_reducible refine Only.trans ?_ (Only.when (fun _ => ?_) _ _)

theorem execSubstepApply_only (s : State) (s' : State) (h : execSubstepApply s = .next s') :
    Only [.regs, .tr, .dbg, .pw] s s' := by
  unfold execSubstepApply at h
  injection h with h
  subst h
  try dsimp only
  repeat' first
    | simp (maxDischargeDepth := 8) only [Only.iff_of (applyLevel_only _ _ ), Only.iff_of (takeHeld_only _ ), *, partsIn_nil, partsIn_cons, Only.self, Only.mk_iff, Only.forEach_iff, Only.when_iff, Only.ite_of, true_or, or_true, and_self, implies_true, List.mem_cons, reduceCtorEq, or_false, false_or, id_eq]
    | split
    | with_reducible refine Only.trans ?_ (Only.forEach (fun _ _ => ?_) _ _)
    | with_reducible refine Only.trans ?_ (Only.when (fun _ => ?_) _ _)

theorem execHintWindowEnd_only (s : State) (s' : State) (h : execHintWindowEnd s = .next s') :
    Only [.pw] s s' := by
  unfold execHintWindowEnd at h
  injection h with h
  subst h
  try dsimp only
  repeat' first
    | simp (maxDischargeDepth := 8) only [*, partsIn_nil, partsIn_cons, Only.self, Only.mk_iff, Only.forEach_iff, Only.when_iff, Only.ite_of, true_or, or_true, and_self, implies_true, List.mem_cons, reduceCtorEq, or_false, false_or, id_eq]
    | split
    | with_reducible refine Only.trans ?_ (Only.forEach (fun _ _ => ?_) _ _)
    | with_reducible refine Only.trans ?_ (Only.when (fun _ => ?_) _ _)

theorem execPcMessageTaken_only (kind : PcMsg) (s : State) (s' : State) (h : execPcMessageTaken kind s = .next s') :
    Only [.cnt, .pw] s s' := by
  unfold execPcMessageTaken at h
  injection h with h
  subst h
  try dsimp only
  repeat' first
    | simp (maxDischargeDepth := 8) only [Only.iff_of (bump_only _ _ _ ), Only.iff_of (estimate_only _ _ _ ), *, partsIn_nil, partsIn_cons, Only.self, Only.mk_iff, Only.forEach_iff, Only.when_iff, Only.ite_of, true_or, or_true, and_self, implies_true, List.mem_cons, reduceCtorEq, or_false, false_or, id_eq]
    | split
    | with_reducible refine Only.trans ?_ (Only.forEach (fun _ _ => ?_) _ _)
    | with_reducible refine Only.trans ?_ (Only.when (fun _ => ?_) _ _)

theorem execClockLockFall_only (s : State) (s' : State) (h : execClockLockFall s = .next s') :
    Only [.pw] s s' := by
  unfold execClockLockFall at h
  injection h with h
  subst h
  try dsimp only
  repeat' first
    | simp (maxDischargeDepth := 8) only [Only.iff_of (retune_only _ _ ), *, partsIn_nil, partsIn_cons, Only.self, Only.mk_iff, Only.forEach_iff, Only.when_iff, Only.ite_of, true_or, or_true, and_self, implies_true, List.mem_cons, reduceCtorEq, or_false, false_or, id_eq]
    | split
    | with_reducible refine Only.trans ?_ (Only.forEach (fun _ _ => ?_) _ _)
    | with_reducible refine Only.trans ?_ (Only.when (fun _ => ?_) _ _)

end Sys2Proof.Machine
end

