-- ==== Sys2Proof/Laws/CanonLevel.lean ====
section
/-!
SUPPORT. Laws/CanonLevel.lean: the operations and commands of Machine/Level.lean keep memory, registers and counters in canonical form
(generated text, one lemma for each).
-/
namespace Sys2Proof.Machine

set_option linter.unusedSimpArgs false

theorem judgeRails_canon (s : State) (hc : Canonical s) : Canonical (judgeRails s) := by
  unfold judgeRails
  repeat' first
    | with_reducible assumption
    | simp +contextual (maxDischargeDepth := 60) only [bump_canon, raise_canon, Canonical.mk_iff, Canonical.forEach, Canonical.when, Canonical.ite_of, implies_true, id_eq, *]
    | (with_reducible refine bump_canon _ _ _ ?_)
    | (with_reducible refine raise_canon _ _ ?_)
    | split
    | (with_reducible refine Canonical.forEach (fun _ _ _ => ?_) ?_)
    | (with_reducible refine Canonical.when (fun _ _ => ?_) ?_)

theorem commandError_canon (s : State) (hc : Canonical s) : Canonical (commandError s) := by
  unfold commandError
  repeat' first
    | with_reducible assumption
    | simp +contextual (maxDischargeDepth := 60) only [orReg_canon, raise_canon, Canonical.mk_iff, Canonical.forEach, Canonical.when, Canonical.ite_of, implies_true, id_eq, *]
    | (with_reducible refine orReg_canon _ _ _ ?_)
    | (with_reducible refine raise_canon _ _ ?_)
    | split
    | (with_reducible refine Canonical.forEach (fun _ _ _ => ?_) ?_)
    | (with_reducible refine Canonical.when (fun _ _ => ?_) ?_)

theorem pushAck_canon (seq : Nat) (sup err : Bool) (s : State) (hc : Canonical s) : Canonical (pushAck seq sup err s) :=
  Canonical.of_only (pushAck_only seq sup err s) (by decide) hc

theorem ackCommand_canon (seq : Nat) (err : Bool) (s : State) (hc : Canonical s) : Canonical (ackCommand seq err s) :=
  Canonical.of_only (ackCommand_only seq err s) (by decide) hc

theorem applyCap_canon (c : BitVec 16) (s : State) (hc : Canonical s) : Canonical (applyCap c s) := by
  unfold applyCap
  repeat' first
    | with_reducible assumption
    | simp +contextual (maxDischargeDepth := 60) only [raise_canon, Canonical.mk_iff, Canonical.forEach, Canonical.when, Canonical.ite_of, implies_true, id_eq, *]
    | (with_reducible refine raise_canon _ _ ?_)
    | split
    | (with_reducible refine Canonical.forEach (fun _ _ _ => ?_) ?_)
    | (with_reducible refine Canonical.when (fun _ _ => ?_) ?_)

theorem applyLevel_canon (c : BitVec 16) (s : State) (hc : Canonical s) : Canonical (applyLevel c s) := by
  unfold applyLevel
  repeat' first
    | with_reducible assumption
    | simp +contextual (maxDischargeDepth := 60) only [genRec_canon, ackCommand_canon, applyCap_canon, Canonical.mk_iff, Canonical.forEach, Canonical.when, Canonical.ite_of, implies_true, id_eq, *]
    | (with_reducible refine genRec_canon _ _ _ ?_)
    | (with_reducible refine ackCommand_canon _ _ _ ?_)
    | (with_reducible refine applyCap_canon _ _ ?_)
    | split
    | (with_reducible refine Canonical.forEach (fun _ _ _ => ?_) ?_)
    | (with_reducible refine Canonical.when (fun _ _ => ?_) ?_)

theorem retune_canon (step : Nat) (s : State) (hc : Canonical s) : Canonical (retune step s) :=
  Canonical.of_only (retune_only step s) (by decide) hc

theorem beginLevel_canon (c : BitVec 16) (s : State) (hc : Canonical s) : Canonical (beginLevel c s) := by
  unfold beginLevel
  repeat' first
    | with_reducible assumption
    | simp +contextual (maxDischargeDepth := 60) only [applyLevel_canon, retune_canon, Canonical.mk_iff, Canonical.forEach, Canonical.when, Canonical.ite_of, implies_true, id_eq, *]
    | (with_reducible refine applyLevel_canon _ _ ?_)
    | (with_reducible refine retune_canon _ _ ?_)
    | split
    | (with_reducible refine Canonical.forEach (fun _ _ _ => ?_) ?_)
    | (with_reducible refine Canonical.when (fun _ _ => ?_) ?_)

theorem takeHeld_canon (s : State) (hc : Canonical s) : Canonical (takeHeld s) := by
  unfold takeHeld
  repeat' first
    | with_reducible assumption
    | simp +contextual (maxDischargeDepth := 60) only [beginLevel_canon, Canonical.mk_iff, Canonical.forEach, Canonical.when, Canonical.ite_of, implies_true, id_eq, *]
    | (with_reducible refine beginLevel_canon _ _ ?_)
    | split
    | (with_reducible refine Canonical.forEach (fun _ _ _ => ?_) ?_)
    | (with_reducible refine Canonical.when (fun _ _ => ?_) ?_)

theorem addHint_canon (h : Hint) (s : State) (hc : Canonical s) : Canonical (addHint h s) :=
  Canonical.of_only (addHint_only h s) (by decide) hc

theorem execSubwindowBoundary_canon (s : State) (s' : State) (h : execSubwindowBoundary s = .next s') (hc : Canonical s) : Canonical s' := by
  unfold execSubwindowBoundary at h
  injection h with h
  subst h
  try dsimp only
  repeat' first
    | with_reducible assumption
    | simp +contextual (maxDischargeDepth := 60) only [setReg_canon, Canonical.mk_iff, Canonical.forEach, Canonical.when, Canonical.ite_of, implies_true, id_eq, *]
    | (with_reducible refine setReg_canon _ _ _ ?_)
    | split
    | (with_reducible refine Canonical.forEach (fun _ _ _ => ?_) ?_)
    | (with_reducible refine Canonical.when (fun _ _ => ?_) ?_)

theorem execEstimateMessage_canon (s : State) (s' : State) (h : execEstimateMessage s = .next s') (hc : Canonical s) : Canonical s' := by
  unfold execEstimateMessage at h
  injection h with h
  subst h
  try dsimp only
  repeat' first
    | with_reducible assumption
    | simp +contextual (maxDischargeDepth := 60) only [setReg_canon, Canonical.mk_iff, Canonical.forEach, Canonical.when, Canonical.ite_of, implies_true, id_eq, *]
    | (with_reducible refine setReg_canon _ _ _ ?_)
    | split
    | (with_reducible refine Canonical.forEach (fun _ _ _ => ?_) ?_)
    | (with_reducible refine Canonical.when (fun _ _ => ?_) ?_)

theorem execCalIntervalEnd_canon (s : State) (s' : State) (h : execCalIntervalEnd s = .next s') (hc : Canonical s) : Canonical s' := by
  unfold execCalIntervalEnd at h
  injection h with h
  subst h
  try dsimp only
  repeat' first
    | with_reducible assumption
    | simp +contextual (maxDischargeDepth := 60) only [orReg_canon, raise_canon, Canonical.mk_iff, Canonical.forEach, Canonical.when, Canonical.ite_of, implies_true, id_eq, *]
    | (with_reducible refine orReg_canon _ _ _ ?_)
    | (with_reducible refine raise_canon _ _ ?_)
    | split
    | (with_reducible refine Canonical.forEach (fun _ _ _ => ?_) ?_)
    | (with_reducible refine Canonical.when (fun _ _ => ?_) ?_)

theorem execCalibration_canon (msg : BitVec 64) (s : State) (s' : State) (h : execCalibration msg s = .next s') (hc : Canonical s) : Canonical s' := by
  unfold execCalibration at h
  injection h with h
  subst h
  try dsimp only
  repeat' first
    | with_reducible assumption
    | simp +contextual (maxDischargeDepth := 60) only [setReg_canon, orReg_canon, clrReg_canon, raise_canon, commandError_canon, Canonical.mk_iff, Canonical.forEach, Canonical.when, Canonical.ite_of, implies_true, id_eq, *]
    | (with_reducible refine setReg_canon _ _ _ ?_)
    | (with_reducible refine orReg_canon _ _ _ ?_)
    | (with_reducible refine clrReg_canon _ _ _ ?_)
    | (with_reducible refine raise_canon _ _ ?_)
    | (with_reducible refine commandError_canon _ ?_)
    | split
    | (with_reducible refine Canonical.forEach (fun _ _ _ => ?_) ?_)
    | (with_reducible refine Canonical.when (fun _ _ => ?_) ?_)

theorem execLevelCommand_canon (msg : BitVec 16) (s : State) (s' : State) (h : execLevelCommand msg s = .next s') (hc : Canonical s) : Canonical s' := by
  unfold execLevelCommand at h
  injection h with h
  subst h
  try dsimp only
  repeat' first
    | with_reducible assumption
    | simp +contextual (maxDischargeDepth := 60) only [commandError_canon, pushAck_canon, takeHeld_canon, Canonical.mk_iff, Canonical.forEach, Canonical.when, Canonical.ite_of, implies_true, id_eq, *]
    | (with_reducible refine commandError_canon _ ?_)
    | (with_reducible refine pushAck_canon _ _ _ _ ?_)
    | (with_reducible refine takeHeld_canon _ ?_)
    | split
    | (with_reducible refine Canonical.forEach (fun _ _ _ => ?_) ?_)
    | (with_reducible refine Canonical.when (fun _ _ => ?_) ?_)

theorem execClockSwitch_canon (s : State) (s' : State) (h : execClockSwitch s = .next s') (hc : Canonical s) : Canonical s' := by
  unfold execClockSwitch at h
  injection h with h
  subst h
  try dsimp only
  repeat' first
    | with_reducible assumption
    | simp +contextual (maxDischargeDepth := 60) only [applyLevel_canon, takeHeld_canon, Canonical.mk_iff, Canonical.forEach, Canonical.when, Canonical.ite_of, implies_true, id_eq, *]
    | (with_reducible refine applyLevel_canon _ _ ?_)
    | (with_reducible refine takeHeld_canon _ ?_)
    | split
    | (with_reducible refine Canonical.forEach (fun _ _ _ => ?_) ?_)
    | (with_reducible refine Canonical.when (fun _ _ => ?_) ?_)

theorem execLockTimeout_canon (s : State) (s' : State) (h : execLockTimeout s = .next s') (hc : Canonical s) : Canonical s' := by
  unfold execLockTimeout at h
  injection h with h
  subst h
  try dsimp only
  repeat' first
    | with_reducible assumption
    | simp +contextual (maxDischargeDepth := 60) only [commandError_canon, ackCommand_canon, takeHeld_canon, Canonical.mk_iff, Canonical.forEach, Canonical.when, Canonical.ite_of, implies_true, id_eq, *]
    | (with_reducible refine commandError_canon _ ?_)
    | (with_reducible refine ackCommand_canon _ _ _ ?_)
    | (with_reducible refine takeHeld_canon _ ?_)
    | split
    | (with_reducible refine Canonical.forEach (fun _ _ _ => ?_) ?_)
    | (with_reducible refine Canonical.when (fun _ _ => ?_) ?_)

theorem execSubstepApply_canon (s : State) (s' : State) (h : execSubstepApply s = .next s') (hc : Canonical s) : Canonical s' := by
  unfold execSubstepApply at h
  injection h with h
  subst h
  try dsimp only
  repeat' first
    | with_reducible assumption
    | simp +contextual (maxDischargeDepth := 60) only [applyLevel_canon, takeHeld_canon, Canonical.mk_iff, Canonical.forEach, Canonical.when, Canonical.ite_of, implies_true, id_eq, *]
    | (with_reducible refine applyLevel_canon _ _ ?_)
    | (with_reducible refine takeHeld_canon _ ?_)
    | split
    | (with_reducible refine Canonical.forEach (fun _ _ _ => ?_) ?_)
    | (with_reducible refine Canonical.when (fun _ _ => ?_) ?_)

theorem execHintWindowEnd_canon (s : State) (s' : State) (h : execHintWindowEnd s = .next s') (hc : Canonical s) : Canonical s' :=
  (execHintWindowEnd_only s s' h |> Canonical.of_only) (by decide) hc

theorem execPcMessageTaken_canon (kind : PcMsg) (s : State) (s' : State) (h : execPcMessageTaken kind s = .next s') (hc : Canonical s) : Canonical s' := by
  unfold execPcMessageTaken at h
  injection h with h
  subst h
  try dsimp only
  repeat' first
    | with_reducible assumption
    | simp +contextual (maxDischargeDepth := 60) only [bump_canon, estimate_canon, Canonical.mk_iff, Canonical.forEach, Canonical.when, Canonical.ite_of, implies_true, id_eq, *]
    | (with_reducible refine bump_canon _ _ _ ?_)
    | (with_reducible refine estimate_canon _ _ _ ?_)
    | split
    | (with_reducible refine Canonical.forEach (fun _ _ _ => ?_) ?_)
    | (with_reducible refine Canonical.when (fun _ _ => ?_) ?_)

theorem execClockLockFall_canon (s : State) (s' : State) (h : execClockLockFall s = .next s') (hc : Canonical s) : Canonical s' :=
  (execClockLockFall_only s s' h |> Canonical.of_only) (by decide) hc

end Sys2Proof.Machine
end

