-- ==== Sys2Proof/Laws/ExecProt.lean ====
section
/-!
SUPPORT. Laws/ExecProt.lean: what each command of Machine/Prot.lean may change (generated text, one lemma for each command).
-/
namespace Sys2Proof.Machine

set_option linter.unusedSimpArgs false
set_option linter.tactic.unusedName false

theorem execPropose_only (a : BusAcc) (s : State) (s' : State) (h : execPropose a s = .next s') :
    Only [.regs, .cnt, .bus, .tr, .dbg, .pr] s s' := by
  unfold execPropose at h
  injection h with h
  subst h
  try dsimp only
  repeat' first
    | (with_reducible refine Only.trans ?_ (busWrite_only _ _ _ _ (by decide) (fun _ => ?_)))
    | simp (maxDischargeDepth := 8) only [Only.iff_of (propose_only _ ), *, partsIn_nil, partsIn_cons, Only.self, Only.mk_iff, Only.forEach_iff, Only.when_iff, Only.ite_of, true_or, or_true, and_self, implies_true, List.mem_cons, reduceCtorEq, or_false, false_or, id_eq]
    | split
    | with_reducible refine Only.trans ?_ (Only.forEach (fun _ _ => ?_) _ _)
    | with_reducible refine Only.trans ?_ (Only.when (fun _ => ?_) _ _)

theorem execCancel_only (a : BusAcc) (s : State) (s' : State) (h : execCancel a s = .next s') :
    Only [.regs, .cnt, .bus, .tr, .dbg, .pr] s s' := by
  unfold execCancel at h
  injection h with h
  subst h
  try dsimp only
  repeat' first
    | (with_reducible refine Only.trans ?_ (busWrite_only _ _ _ _ (by decide) (fun _ => ?_)))
    | simp (maxDischargeDepth := 8) only [Only.iff_of (cancelProposal_only _ ), *, partsIn_nil, partsIn_cons, Only.self, Only.mk_iff, Only.forEach_iff, Only.when_iff, Only.ite_of, true_or, or_true, and_self, implies_true, List.mem_cons, reduceCtorEq, or_false, false_or, id_eq]
    | split
    | with_reducible refine Only.trans ?_ (Only.forEach (fun _ _ => ?_) _ _)
    | with_reducible refine Only.trans ?_ (Only.when (fun _ => ?_) _ _)

theorem execRekey_only (a : BusAcc) (ctx : BitVec 3) (s : State) (s' : State) (h : execRekey a ctx s = .next s') :
    Only [.free, .regs, .cnt, .bus, .tr, .dbg, .pr] s s' := by
  unfold execRekey at h
  injection h with h
  subst h
  try dsimp only
  repeat' first
    | (with_reducible refine Only.trans ?_ (busWrite_only _ _ _ _ (by decide) (fun _ => ?_)))
    | simp (maxDischargeDepth := 8) only [Only.iff_of (rekeyCtx_only _ _ ), *, partsIn_nil, partsIn_cons, Only.self, Only.mk_iff, Only.forEach_iff, Only.when_iff, Only.ite_of, true_or, or_true, and_self, implies_true, List.mem_cons, reduceCtorEq, or_false, false_or, id_eq]
    | split
    | with_reducible refine Only.trans ?_ (Only.forEach (fun _ _ => ?_) _ _)
    | with_reducible refine Only.trans ?_ (Only.when (fun _ => ?_) _ _)

theorem execDigestComplete_only (a : BusAcc) (off : BitVec 16) (w : Word) (s : State) (s' : State) (h : execDigestComplete a off w s = .next s') :
    Only [.regs, .cnt, .bus, .tr, .dbg, .pr] s s' := by
  unfold execDigestComplete at h
  injection h with h
  subst h
  try dsimp only
  repeat' first
    | (with_reducible refine Only.trans ?_ (busWrite_only _ _ _ _ (by decide) (fun _ => ?_)))
    | simp (maxDischargeDepth := 8) only [Only.iff_of (completeDigest_only _ _ _ ), *, partsIn_nil, partsIn_cons, Only.self, Only.mk_iff, Only.forEach_iff, Only.when_iff, Only.ite_of, true_or, or_true, and_self, implies_true, List.mem_cons, reduceCtorEq, or_false, false_or, id_eq]
    | split
    | with_reducible refine Only.trans ?_ (Only.forEach (fun _ _ => ?_) _ _)
    | with_reducible refine Only.trans ?_ (Only.when (fun _ => ?_) _ _)

theorem execCommitWindowExpiry_only (s : State) (s' : State) (h : execCommitWindowExpiry s = .next s') :
    Only [.regs, .tr, .dbg, .pr] s s' := by
  unfold execCommitWindowExpiry at h
  injection h with h
  subst h
  try dsimp only
  repeat' first
    | simp (maxDischargeDepth := 8) only [Only.iff_of (expireWindow_only _ ), *, partsIn_nil, partsIn_cons, Only.self, Only.mk_iff, Only.forEach_iff, Only.when_iff, Only.ite_of, true_or, or_true, and_self, implies_true, List.mem_cons, reduceCtorEq, or_false, false_or, id_eq]
    | split
    | with_reducible refine Only.trans ?_ (Only.forEach (fun _ _ => ?_) _ _)
    | with_reducible refine Only.trans ?_ (Only.when (fun _ => ?_) _ _)

theorem execCommitApply_only (s : State) (s' : State) (h : execCommitApply s = .next s') :
    Only [.regs, .tr, .dbg, .pr] s s' := by
  unfold execCommitApply at h
  injection h with h
  subst h
  try dsimp only
  repeat' first
    | simp (maxDischargeDepth := 8) only [Only.iff_of (applyStaging_only _ ), *, partsIn_nil, partsIn_cons, Only.self, Only.mk_iff, Only.forEach_iff, Only.when_iff, Only.ite_of, true_or, or_true, and_self, implies_true, List.mem_cons, reduceCtorEq, or_false, false_or, id_eq]
    | split
    | with_reducible refine Only.trans ?_ (Only.forEach (fun _ _ => ?_) _ _)
    | with_reducible refine Only.trans ?_ (Only.when (fun _ => ?_) _ _)

theorem execSealArm_only (a : BusAcc) (l : BitVec 2) (w : Word) (s : State) (s' : State) (h : execSealArm a l w s = .next s') :
    Only [.regs, .cnt, .bus, .tr, .dbg, .pr] s s' := by
  unfold execSealArm at h
  injection h with h
  subst h
  try dsimp only
  repeat' first
    | (with_reducible refine Only.trans ?_ (busWrite_only _ _ _ _ (by decide) (fun _ => ?_)))
    | simp (maxDischargeDepth := 8) only [Only.iff_of (writeSealCfg_only _ _ _ ), *, partsIn_nil, partsIn_cons, Only.self, Only.mk_iff, Only.forEach_iff, Only.when_iff, Only.ite_of, true_or, or_true, and_self, implies_true, List.mem_cons, reduceCtorEq, or_false, false_or, id_eq]
    | split
    | with_reducible refine Only.trans ?_ (Only.forEach (fun _ _ => ?_) _ _)
    | with_reducible refine Only.trans ?_ (Only.when (fun _ => ?_) _ _)

theorem execSealActive_only (l : BitVec 2) (s : State) (s' : State) (h : execSealActive l s = .next s') :
    Only [.pr] s s' := by
  unfold execSealActive at h
  injection h with h
  subst h
  try dsimp only
  repeat' first
    | simp (maxDischargeDepth := 8) only [Only.iff_of (setSeal_only _ _ _ ), *, partsIn_nil, partsIn_cons, Only.self, Only.mk_iff, Only.forEach_iff, Only.when_iff, Only.ite_of, true_or, or_true, and_self, implies_true, List.mem_cons, reduceCtorEq, or_false, false_or, id_eq]
    | split
    | with_reducible refine Only.trans ?_ (Only.forEach (fun _ _ => ?_) _ _)
    | with_reducible refine Only.trans ?_ (Only.when (fun _ => ?_) _ _)

theorem execUnlock_only (a : BusAcc) (w : Word) (s : State) (s' : State) (h : execUnlock a w s = .next s') :
    Only [.regs, .cnt, .bus, .bank, .fr, .tr, .dbg, .fw, .pr] s s' := by
  unfold execUnlock at h
  injection h with h
  subst h
  try dsimp only
  repeat' first
    | (with_reducible refine Only.trans ?_ (busWrite_only _ _ _ _ (by decide) (fun _ => ?_)))
    | simp (maxDischargeDepth := 8) only [Only.iff_of (unlock_only _ _ ), *, partsIn_nil, partsIn_cons, Only.self, Only.mk_iff, Only.forEach_iff, Only.when_iff, Only.ite_of, true_or, or_true, and_self, implies_true, List.mem_cons, reduceCtorEq, or_false, false_or, id_eq]
    | split
    | with_reducible refine Only.trans ?_ (Only.forEach (fun _ _ => ?_) _ _)
    | with_reducible refine Only.trans ?_ (Only.when (fun _ => ?_) _ _)

theorem execRelock_only (a : BusAcc) (w : Word) (s : State) (s' : State) (h : execRelock a w s = .next s') :
    Only [.regs, .cnt, .bus, .fr, .tr, .dbg] s s' := by
  unfold execRelock at h
  injection h with h
  subst h
  try dsimp only
  repeat' first
    | (with_reducible refine Only.trans ?_ (busWrite_only _ _ _ _ (by decide) (fun _ => ?_)))
    | simp (maxDischargeDepth := 8) only [Only.iff_of (relock_only _ _ ), *, partsIn_nil, partsIn_cons, Only.self, Only.mk_iff, Only.forEach_iff, Only.when_iff, Only.ite_of, true_or, or_true, and_self, implies_true, List.mem_cons, reduceCtorEq, or_false, false_or, id_eq]
    | split
    | with_reducible refine Only.trans ?_ (Only.forEach (fun _ _ => ?_) _ _)
    | with_reducible refine Only.trans ?_ (Only.when (fun _ => ?_) _ _)

theorem execPurgeComplete_only (s : State) (s' : State) (h : execPurgeComplete s = .next s') :
    Only [.regs, .cnt, .mem, .bank, .fr, .arb, .sq, .bl, .hd, .tr, .dbg, .rx, .pr] s s' := by
  unfold execPurgeComplete at h
  injection h with h
  subst h
  try dsimp only
  repeat' first
    | simp (maxDischargeDepth := 8) only [Only.iff_of (purgeAll_only _ ), *, partsIn_nil, partsIn_cons, Only.self, Only.mk_iff, Only.forEach_iff, Only.when_iff, Only.ite_of, true_or, or_true, and_self, implies_true, List.mem_cons, reduceCtorEq, or_false, false_or, id_eq]
    | split
    | with_reducible refine Only.trans ?_ (Only.forEach (fun _ _ => ?_) _ _)
    | with_reducible refine Only.trans ?_ (Only.when (fun _ => ?_) _ _)

theorem execProposalDigestReady_only (s : State) (s' : State) (h : execProposalDigestReady s = .next s') :
    Only [.regs, .pr] s s' := by
  unfold execProposalDigestReady at h
  injection h with h
  subst h
  try dsimp only
  repeat' first
    | simp (maxDischargeDepth := 8) only [Only.iff_of (setProtState_only _ _ ), *, partsIn_nil, partsIn_cons, Only.self, Only.mk_iff, Only.forEach_iff, Only.when_iff, Only.ite_of, true_or, or_true, and_self, implies_true, List.mem_cons, reduceCtorEq, or_false, false_or, id_eq]
    | split
    | with_reducible refine Only.trans ?_ (Only.forEach (fun _ _ => ?_) _ _)
    | with_reducible refine Only.trans ?_ (Only.when (fun _ => ?_) _ _)

end Sys2Proof.Machine
end

