-- ==== Sys2Proof/Laws/CanonProt.lean ====
section
/-!
SUPPORT. Laws/CanonProt.lean: the operations and commands of Machine/Prot.lean keep memory, registers and counters in canonical form
(generated text, one lemma for each).
-/
namespace Sys2Proof.Machine

set_option linter.unusedSimpArgs false

theorem reloadStaging_canon (s : State) (hc : Canonical s) : Canonical (reloadStaging s) := by
  unfold reloadStaging
  repeat' first
    | with_reducible assumption
    | simp +contextual (maxDischargeDepth := 60) only [setReg_canon, Canonical.mk_iff, Canonical.forEach, Canonical.when, Canonical.ite_of, implies_true, id_eq, *]
    | (with_reducible refine setReg_canon _ _ _ ?_)
    | split
    | (with_reducible refine Canonical.forEach (fun _ _ _ => ?_) ?_)
    | (with_reducible refine Canonical.when (fun _ _ => ?_) ?_)

theorem applyWord_canon (n v : Nat) (s : State) (hc : Canonical s) : Canonical (applyWord n v s) := by
  unfold applyWord
  repeat' first
    | with_reducible assumption
    | simp +contextual (maxDischargeDepth := 60) only [setReg_canon, setRegF_canon, Canonical.mk_iff, Canonical.forEach, Canonical.when, Canonical.ite_of, implies_true, id_eq, *]
    | (with_reducible refine setReg_canon _ _ _ ?_)
    | (with_reducible refine setRegF_canon _ _ _ _ _ ?_)
    | split
    | (with_reducible refine Canonical.forEach (fun _ _ _ => ?_) ?_)
    | (with_reducible refine Canonical.when (fun _ _ => ?_) ?_)

theorem setProtState_canon (n : Nat) (s : State) (hc : Canonical s) : Canonical (setProtState n s) := by
  unfold setProtState
  repeat' first
    | with_reducible assumption
    | simp +contextual (maxDischargeDepth := 60) only [setRegF_canon, Canonical.mk_iff, Canonical.forEach, Canonical.when, Canonical.ite_of, implies_true, id_eq, *]
    | (with_reducible refine setRegF_canon _ _ _ _ _ ?_)
    | split
    | (with_reducible refine Canonical.forEach (fun _ _ _ => ?_) ?_)
    | (with_reducible refine Canonical.when (fun _ _ => ?_) ?_)

theorem dropDigests_canon (s : State) (hc : Canonical s) : Canonical (dropDigests s) := by
  unfold dropDigests
  repeat' first
    | with_reducible assumption
    | simp +contextual (maxDischargeDepth := 60) only [clrReg_canon, Canonical.mk_iff, Canonical.forEach, Canonical.when, Canonical.ite_of, implies_true, id_eq, *]
    | (with_reducible refine clrReg_canon _ _ _ ?_)
    | split
    | (with_reducible refine Canonical.forEach (fun _ _ _ => ?_) ?_)
    | (with_reducible refine Canonical.when (fun _ _ => ?_) ?_)

theorem withdraw_canon (s : State) (hc : Canonical s) : Canonical (withdraw s) := by
  unfold withdraw
  repeat' first
    | with_reducible assumption
    | simp +contextual (maxDischargeDepth := 60) only [reloadStaging_canon, setProtState_canon, dropDigests_canon, Canonical.mk_iff, Canonical.forEach, Canonical.when, Canonical.ite_of, implies_true, id_eq, *]
    | (with_reducible refine reloadStaging_canon _ ?_)
    | (with_reducible refine setProtState_canon _ _ ?_)
    | (with_reducible refine dropDigests_canon _ ?_)
    | split
    | (with_reducible refine Canonical.forEach (fun _ _ _ => ?_) ?_)
    | (with_reducible refine Canonical.when (fun _ _ => ?_) ?_)

theorem propose_canon (s : State) (hc : Canonical s) : Canonical (propose s) := by
  unfold propose
  repeat' first
    | with_reducible assumption
    | simp +contextual (maxDischargeDepth := 60) only [setRegF_canon, orReg_canon, Canonical.mk_iff, Canonical.forEach, Canonical.when, Canonical.ite_of, implies_true, id_eq, *]
    | (with_reducible refine setRegF_canon _ _ _ _ _ ?_)
    | (with_reducible refine orReg_canon _ _ _ ?_)
    | split
    | (with_reducible refine Canonical.forEach (fun _ _ _ => ?_) ?_)
    | (with_reducible refine Canonical.when (fun _ _ => ?_) ?_)

theorem cancelProposal_canon (s : State) (hc : Canonical s) : Canonical (cancelProposal s) := by
  unfold cancelProposal
  repeat' first
    | with_reducible assumption
    | simp +contextual (maxDischargeDepth := 60) only [withdraw_canon, Canonical.mk_iff, Canonical.forEach, Canonical.when, Canonical.ite_of, implies_true, id_eq, *]
    | (with_reducible refine withdraw_canon _ ?_)
    | split
    | (with_reducible refine Canonical.forEach (fun _ _ _ => ?_) ?_)
    | (with_reducible refine Canonical.when (fun _ _ => ?_) ?_)

theorem purgeProposal_canon (s : State) (hc : Canonical s) : Canonical (purgeProposal s) := by
  unfold purgeProposal
  repeat' first
    | with_reducible assumption
    | simp +contextual (maxDischargeDepth := 60) only [withdraw_canon, Canonical.mk_iff, Canonical.forEach, Canonical.when, Canonical.ite_of, implies_true, id_eq, *]
    | (with_reducible refine withdraw_canon _ ?_)
    | split
    | (with_reducible refine Canonical.forEach (fun _ _ _ => ?_) ?_)
    | (with_reducible refine Canonical.when (fun _ _ => ?_) ?_)

theorem compareDigests_canon (sd pd : BitVec 64) (s : State) (hc : Canonical s) : Canonical (compareDigests sd pd s) := by
  unfold compareDigests
  repeat' first
    | with_reducible assumption
    | simp +contextual (maxDischargeDepth := 60) only [setRegF_canon, raise_canon, setProtState_canon, dropDigests_canon, withdraw_canon, Canonical.mk_iff, Canonical.forEach, Canonical.when, Canonical.ite_of, implies_true, id_eq, *]
    | (with_reducible refine setRegF_canon _ _ _ _ _ ?_)
    | (with_reducible refine raise_canon _ _ ?_)
    | (with_reducible refine setProtState_canon _ _ ?_)
    | (with_reducible refine dropDigests_canon _ ?_)
    | (with_reducible refine withdraw_canon _ ?_)
    | split
    | (with_reducible refine Canonical.forEach (fun _ _ _ => ?_) ?_)
    | (with_reducible refine Canonical.when (fun _ _ => ?_) ?_)

theorem holdDigest_canon (party : Bool) (d : BitVec 64) (s : State) (hc : Canonical s) : Canonical (holdDigest party d s) := by
  unfold holdDigest
  repeat' first
    | with_reducible assumption
    | simp +contextual (maxDischargeDepth := 60) only [orReg_canon, Canonical.mk_iff, Canonical.forEach, Canonical.when, Canonical.ite_of, implies_true, id_eq, *]
    | (with_reducible refine orReg_canon _ _ _ ?_)
    | split
    | (with_reducible refine Canonical.forEach (fun _ _ _ => ?_) ?_)
    | (with_reducible refine Canonical.when (fun _ _ => ?_) ?_)

theorem expireWindow_canon (s : State) (hc : Canonical s) : Canonical (expireWindow s) := by
  unfold expireWindow
  repeat' first
    | with_reducible assumption
    | simp +contextual (maxDischargeDepth := 60) only [raise_canon, setProtState_canon, dropDigests_canon, Canonical.mk_iff, Canonical.forEach, Canonical.when, Canonical.ite_of, implies_true, id_eq, *]
    | (with_reducible refine raise_canon _ _ ?_)
    | (with_reducible refine setProtState_canon _ _ ?_)
    | (with_reducible refine dropDigests_canon _ ?_)
    | split
    | (with_reducible refine Canonical.forEach (fun _ _ _ => ?_) ?_)
    | (with_reducible refine Canonical.when (fun _ _ => ?_) ?_)

theorem completeDigest_canon (party : Bool) (hi : Word) (s : State) (hc : Canonical s) : Canonical (completeDigest party hi s) := by
  unfold completeDigest
  repeat' first
    | with_reducible assumption
    | simp +contextual (maxDischargeDepth := 60) only [orReg_canon, setProtState_canon, compareDigests_canon, holdDigest_canon, expireWindow_canon, Canonical.mk_iff, Canonical.forEach, Canonical.when, Canonical.ite_of, implies_true, id_eq, *]
    | (with_reducible refine orReg_canon _ _ _ ?_)
    | (with_reducible refine setProtState_canon _ _ ?_)
    | (with_reducible refine compareDigests_canon _ _ _ ?_)
    | (with_reducible refine holdDigest_canon _ _ _ ?_)
    | (with_reducible refine expireWindow_canon _ ?_)
    | split
    | (with_reducible refine Canonical.forEach (fun _ _ _ => ?_) ?_)
    | (with_reducible refine Canonical.when (fun _ _ => ?_) ?_)

theorem writeDigestLo_canon (party : Bool) (w : Word) (s : State) (hc : Canonical s) : Canonical (writeDigestLo party w s) := by
  unfold writeDigestLo
  repeat' first
    | with_reducible assumption
    | simp +contextual (maxDischargeDepth := 60) only [orReg_canon, Canonical.mk_iff, Canonical.forEach, Canonical.when, Canonical.ite_of, implies_true, id_eq, *]
    | (with_reducible refine orReg_canon _ _ _ ?_)
    | split
    | (with_reducible refine Canonical.forEach (fun _ _ _ => ?_) ?_)
    | (with_reducible refine Canonical.when (fun _ _ => ?_) ?_)

theorem applyStaging_canon (s : State) (hc : Canonical s) : Canonical (applyStaging s) := by
  unfold applyStaging
  repeat' first
    | with_reducible assumption
    | simp +contextual (maxDischargeDepth := 60) only [setReg_canon, raise_canon, applyWord_canon, withdraw_canon, Canonical.mk_iff, Canonical.forEach, Canonical.when, Canonical.ite_of, implies_true, id_eq, *]
    | (with_reducible refine setReg_canon _ _ _ ?_)
    | (with_reducible refine raise_canon _ _ ?_)
    | (with_reducible refine applyWord_canon _ _ _ ?_)
    | (with_reducible refine withdraw_canon _ ?_)
    | split
    | (with_reducible refine Canonical.forEach (fun _ _ _ => ?_) ?_)
    | (with_reducible refine Canonical.when (fun _ _ => ?_) ?_)

theorem rekeyCtx_canon (c : Nat) (s : State) (hc : Canonical s) : Canonical (rekeyCtx c s) :=
  Canonical.of_only (rekeyCtx_only c s) (by decide) hc

theorem setSeal_canon (l : Nat) (x : Seal) (s : State) (hc : Canonical s) : Canonical (setSeal l x s) :=
  Canonical.of_only (setSeal_only l x s) (by decide) hc

theorem armSeal_canon (l nfm1 : Nat) (s : State) (hc : Canonical s) : Canonical (armSeal l nfm1 s) := by
  unfold armSeal
  repeat' first
    | with_reducible assumption
    | simp +contextual (maxDischargeDepth := 60) only [setReg_canon, setSeal_canon, Canonical.mk_iff, Canonical.forEach, Canonical.when, Canonical.ite_of, implies_true, id_eq, *]
    | (with_reducible refine setReg_canon _ _ _ ?_)
    | (with_reducible refine setSeal_canon _ _ _ ?_)
    | split
    | (with_reducible refine Canonical.forEach (fun _ _ _ => ?_) ?_)
    | (with_reducible refine Canonical.when (fun _ _ => ?_) ?_)

theorem writeSealCfg_canon (l : Nat) (w : Word) (s : State) (hc : Canonical s) : Canonical (writeSealCfg l w s) := by
  unfold writeSealCfg
  repeat' first
    | with_reducible assumption
    | simp +contextual (maxDischargeDepth := 60) only [setReg_canon, orReg_canon, armSeal_canon, Canonical.mk_iff, Canonical.forEach, Canonical.when, Canonical.ite_of, implies_true, id_eq, *]
    | (with_reducible refine setReg_canon _ _ _ ?_)
    | (with_reducible refine orReg_canon _ _ _ ?_)
    | (with_reducible refine armSeal_canon _ _ _ ?_)
    | split
    | (with_reducible refine Canonical.forEach (fun _ _ _ => ?_) ?_)
    | (with_reducible refine Canonical.when (fun _ _ => ?_) ?_)

theorem finishSeal_canon (l : Nat) (x : Seal) (s : State) (hc : Canonical s) : Canonical (finishSeal l x s).2 := by
  unfold finishSeal
  repeat' first
    | with_reducible assumption
    | simp +contextual (maxDischargeDepth := 60) only [setReg_canon, raise_canon, setSeal_canon, Canonical.mk_iff, Canonical.forEach, Canonical.when, Canonical.ite_of, implies_true, id_eq, *]
    | (with_reducible refine setReg_canon _ _ _ ?_)
    | (with_reducible refine raise_canon _ _ ?_)
    | (with_reducible refine setSeal_canon _ _ _ ?_)
    | split
    | (with_reducible refine Canonical.forEach (fun _ _ _ => ?_) ?_)
    | (with_reducible refine Canonical.when (fun _ _ => ?_) ?_)

theorem sealFlit_canon (l : Nat) (data : Row) (s : State) (hc : Canonical s) : Canonical (sealFlit l data s).2.2 := by
  unfold sealFlit
  repeat' first
    | with_reducible assumption
    | simp +contextual (maxDischargeDepth := 60) only [setSeal_canon, finishSeal_canon, Canonical.mk_iff, Canonical.forEach, Canonical.when, Canonical.ite_of, implies_true, id_eq, *]
    | (refine Canonical.snd (by assumption) (finishSeal_canon _ _ _ ?_))
    | (with_reducible refine setSeal_canon _ _ _ ?_)
    | (with_reducible refine finishSeal_canon _ _ _ ?_)
    | split
    | (with_reducible refine Canonical.forEach (fun _ _ _ => ?_) ?_)
    | (with_reducible refine Canonical.when (fun _ _ => ?_) ?_)

theorem startPurge_canon (s : State) (hc : Canonical s) : Canonical (startPurge s) := by
  unfold startPurge
  repeat' first
    | with_reducible assumption
    | simp +contextual (maxDischargeDepth := 60) only [setRegF_canon, cancelMig_canon, purgeProposal_canon, Canonical.mk_iff, Canonical.forEach, Canonical.when, Canonical.ite_of, implies_true, id_eq, *]
    | (with_reducible refine setRegF_canon _ _ _ _ _ ?_)
    | (with_reducible refine cancelMig_canon _ ?_)
    | (with_reducible refine purgeProposal_canon _ ?_)
    | split
    | (with_reducible refine Canonical.forEach (fun _ _ _ => ?_) ?_)
    | (with_reducible refine Canonical.when (fun _ _ => ?_) ?_)

theorem unlock_canon (w : Word) (s : State) (hc : Canonical s) : Canonical (unlock w s) := by
  unfold unlock
  repeat' first
    | with_reducible assumption
    | simp +contextual (maxDischargeDepth := 60) only [orReg_canon, raise_canon, startPurge_canon, Canonical.mk_iff, Canonical.forEach, Canonical.when, Canonical.ite_of, implies_true, id_eq, *]
    | (with_reducible refine orReg_canon _ _ _ ?_)
    | (with_reducible refine raise_canon _ _ ?_)
    | (with_reducible refine startPurge_canon _ ?_)
    | split
    | (with_reducible refine Canonical.forEach (fun _ _ _ => ?_) ?_)
    | (with_reducible refine Canonical.when (fun _ _ => ?_) ?_)

theorem relock_canon (w : Word) (s : State) (hc : Canonical s) : Canonical (relock w s) := by
  unfold relock
  repeat' first
    | with_reducible assumption
    | simp +contextual (maxDischargeDepth := 60) only [clrReg_canon, watchRelock_canon, Canonical.mk_iff, Canonical.forEach, Canonical.when, Canonical.ite_of, implies_true, id_eq, *]
    | (with_reducible refine clrReg_canon _ _ _ ?_)
    | (with_reducible refine watchRelock_canon _ ?_)
    | split
    | (with_reducible refine Canonical.forEach (fun _ _ _ => ?_) ?_)
    | (with_reducible refine Canonical.when (fun _ _ => ?_) ?_)

theorem dropRing_canon (q : Nat) (s : State) (hc : Canonical s) : Canonical (dropRing q s) := by
  unfold dropRing
  repeat' first
    | with_reducible assumption
    | simp +contextual (maxDischargeDepth := 60) only [setRegF_canon, Canonical.mk_iff, Canonical.forEach, Canonical.when, Canonical.ite_of, implies_true, id_eq, *]
    | (with_reducible refine setRegF_canon _ _ _ _ _ ?_)
    | split
    | (with_reducible refine Canonical.forEach (fun _ _ _ => ?_) ?_)
    | (with_reducible refine Canonical.when (fun _ _ => ?_) ?_)

theorem dropReadouts_canon (s : State) (hc : Canonical s) : Canonical (dropReadouts s) := by
  unfold dropReadouts
  repeat' first
    | with_reducible assumption
    | simp +contextual (maxDischargeDepth := 60) only [setRegF_canon, Canonical.mk_iff, Canonical.forEach, Canonical.when, Canonical.ite_of, implies_true, id_eq, *]
    | (with_reducible refine setRegF_canon _ _ _ _ _ ?_)
    | split
    | (with_reducible refine Canonical.forEach (fun _ _ _ => ?_) ?_)
    | (with_reducible refine Canonical.when (fun _ _ => ?_) ?_)

theorem eraseBuffers_canon (s : State) (hc : Canonical s) : Canonical (eraseBuffers s) :=
  ⟨hc.1, hc.2.1, NMap.wf_filter _ _ _ hc.2.2.1, hc.2.2.2⟩

theorem purgeTrace_canon (s : State) (hc : Canonical s) : Canonical (purgeTrace s) := by
  unfold purgeTrace
  repeat' first
    | with_reducible assumption
    | simp +contextual (maxDischargeDepth := 60) only [setReg_canon, clrReg_canon, Canonical.mk_iff, Canonical.forEach, Canonical.when, Canonical.ite_of, implies_true, id_eq, *]
    | (with_reducible refine setReg_canon _ _ _ ?_)
    | (with_reducible refine clrReg_canon _ _ _ ?_)
    | split
    | (with_reducible refine Canonical.forEach (fun _ _ _ => ?_) ?_)
    | (with_reducible refine Canonical.when (fun _ _ => ?_) ?_)

theorem purgeAll_canon (s : State) (hc : Canonical s) : Canonical (purgeAll s) := by
  unfold purgeAll
  repeat' first
    | with_reducible assumption
    | simp +contextual (maxDischargeDepth := 60) only [setReg_canon, raise_canon, setPow_canon, purgeBank_canon, purgeProposal_canon, dropRing_canon, dropReadouts_canon, eraseBuffers_canon, purgeTrace_canon, Canonical.mk_iff, Canonical.forEach, Canonical.when, Canonical.ite_of, implies_true, id_eq, *]
    | (with_reducible refine setReg_canon _ _ _ ?_)
    | (with_reducible refine raise_canon _ _ ?_)
    | (with_reducible refine setPow_canon _ _ _ ?_)
    | (with_reducible refine purgeBank_canon _ _ ?_)
    | (with_reducible refine purgeProposal_canon _ ?_)
    | (with_reducible refine dropRing_canon _ _ ?_)
    | (with_reducible refine dropReadouts_canon _ ?_)
    | (with_reducible refine eraseBuffers_canon _ ?_)
    | (with_reducible refine purgeTrace_canon _ ?_)
    | split
    | (with_reducible refine Canonical.forEach (fun _ _ _ => ?_) ?_)
    | (with_reducible refine Canonical.when (fun _ _ => ?_) ?_)

theorem execPropose_canon (a : BusAcc) (s : State) (s' : State) (h : execPropose a s = .next s') (hc : Canonical s) : Canonical s' := by
  unfold execPropose at h
  injection h with h
  subst h
  try dsimp only
  repeat' first
    | (with_reducible refine busWrite_canon _ _ _ _ (fun _ _ => ?_) ?_)
    | with_reducible assumption
    | simp +contextual (maxDischargeDepth := 60) only [propose_canon, Canonical.mk_iff, Canonical.forEach, Canonical.when, Canonical.ite_of, implies_true, id_eq, *]
    | (with_reducible refine propose_canon _ ?_)
    | split
    | (with_reducible refine Canonical.forEach (fun _ _ _ => ?_) ?_)
    | (with_reducible refine Canonical.when (fun _ _ => ?_) ?_)

theorem execCancel_canon (a : BusAcc) (s : State) (s' : State) (h : execCancel a s = .next s') (hc : Canonical s) : Canonical s' := by
  unfold execCancel at h
  injection h with h
  subst h
  try dsimp only
  repeat' first
    | (with_reducible refine busWrite_canon _ _ _ _ (fun _ _ => ?_) ?_)
    | with_reducible assumption
    | simp +contextual (maxDischargeDepth := 60) only [cancelProposal_canon, Canonical.mk_iff, Canonical.forEach, Canonical.when, Canonical.ite_of, implies_true, id_eq, *]
    | (with_reducible refine cancelProposal_canon _ ?_)
    | split
    | (with_reducible refine Canonical.forEach (fun _ _ _ => ?_) ?_)
    | (with_reducible refine Canonical.when (fun _ _ => ?_) ?_)

theorem execRekey_canon (a : BusAcc) (ctx : BitVec 3) (s : State) (s' : State) (h : execRekey a ctx s = .next s') (hc : Canonical s) : Canonical s' := by
  unfold execRekey at h
  injection h with h
  subst h
  try dsimp only
  repeat' first
    | (with_reducible refine busWrite_canon _ _ _ _ (fun _ _ => ?_) ?_)
    | with_reducible assumption
    | simp +contextual (maxDischargeDepth := 60) only [rekeyCtx_canon, Canonical.mk_iff, Canonical.forEach, Canonical.when, Canonical.ite_of, implies_true, id_eq, *]
    | (with_reducible refine rekeyCtx_canon _ _ ?_)
    | split
    | (with_reducible refine Canonical.forEach (fun _ _ _ => ?_) ?_)
    | (with_reducible refine Canonical.when (fun _ _ => ?_) ?_)

theorem execDigestComplete_canon (a : BusAcc) (off : BitVec 16) (w : Word) (s : State) (s' : State) (h : execDigestComplete a off w s = .next s') (hc : Canonical s) : Canonical s' := by
  unfold execDigestComplete at h
  injection h with h
  subst h
  try dsimp only
  repeat' first
    | (with_reducible refine busWrite_canon _ _ _ _ (fun _ _ => ?_) ?_)
    | with_reducible assumption
    | simp +contextual (maxDischargeDepth := 60) only [completeDigest_canon, Canonical.mk_iff, Canonical.forEach, Canonical.when, Canonical.ite_of, implies_true, id_eq, *]
    | (with_reducible refine completeDigest_canon _ _ _ ?_)
    | split
    | (with_reducible refine Canonical.forEach (fun _ _ _ => ?_) ?_)
    | (with_reducible refine Canonical.when (fun _ _ => ?_) ?_)

theorem execCommitWindowExpiry_canon (s : State) (s' : State) (h : execCommitWindowExpiry s = .next s') (hc : Canonical s) : Canonical s' := by
  unfold execCommitWindowExpiry at h
  injection h with h
  subst h
  try dsimp only
  repeat' first
    | with_reducible assumption
    | simp +contextual (maxDischargeDepth := 60) only [expireWindow_canon, Canonical.mk_iff, Canonical.forEach, Canonical.when, Canonical.ite_of, implies_true, id_eq, *]
    | (with_reducible refine expireWindow_canon _ ?_)
    | split
    | (with_reducible refine Canonical.forEach (fun _ _ _ => ?_) ?_)
    | (with_reducible refine Canonical.when (fun _ _ => ?_) ?_)

theorem execCommitApply_canon (s : State) (s' : State) (h : execCommitApply s = .next s') (hc : Canonical s) : Canonical s' := by
  unfold execCommitApply at h
  injection h with h
  subst h
  try dsimp only
  repeat' first
    | with_reducible assumption
    | simp +contextual (maxDischargeDepth := 60) only [applyStaging_canon, Canonical.mk_iff, Canonical.forEach, Canonical.when, Canonical.ite_of, implies_true, id_eq, *]
    | (with_reducible refine applyStaging_canon _ ?_)
    | split
    | (with_reducible refine Canonical.forEach (fun _ _ _ => ?_) ?_)
    | (with_reducible refine Canonical.when (fun _ _ => ?_) ?_)

theorem execSealArm_canon (a : BusAcc) (l : BitVec 2) (w : Word) (s : State) (s' : State) (h : execSealArm a l w s = .next s') (hc : Canonical s) : Canonical s' := by
  unfold execSealArm at h
  injection h with h
  subst h
  try dsimp only
  repeat' first
    | (with_reducible refine busWrite_canon _ _ _ _ (fun _ _ => ?_) ?_)
    | with_reducible assumption
    | simp +contextual (maxDischargeDepth := 60) only [writeSealCfg_canon, Canonical.mk_iff, Canonical.forEach, Canonical.when, Canonical.ite_of, implies_true, id_eq, *]
    | (with_reducible refine writeSealCfg_canon _ _ _ ?_)
    | split
    | (with_reducible refine Canonical.forEach (fun _ _ _ => ?_) ?_)
    | (with_reducible refine Canonical.when (fun _ _ => ?_) ?_)

theorem execSealActive_canon (l : BitVec 2) (s : State) (s' : State) (h : execSealActive l s = .next s') (hc : Canonical s) : Canonical s' :=
  (execSealActive_only l s s' h |> Canonical.of_only) (by decide) hc

theorem execUnlock_canon (a : BusAcc) (w : Word) (s : State) (s' : State) (h : execUnlock a w s = .next s') (hc : Canonical s) : Canonical s' := by
  unfold execUnlock at h
  injection h with h
  subst h
  try dsimp only
  repeat' first
    | (with_reducible refine busWrite_canon _ _ _ _ (fun _ _ => ?_) ?_)
    | with_reducible assumption
    | simp +contextual (maxDischargeDepth := 60) only [unlock_canon, Canonical.mk_iff, Canonical.forEach, Canonical.when, Canonical.ite_of, implies_true, id_eq, *]
    | (with_reducible refine unlock_canon _ _ ?_)
    | split
    | (with_reducible refine Canonical.forEach (fun _ _ _ => ?_) ?_)
    | (with_reducible refine Canonical.when (fun _ _ => ?_) ?_)

theorem execRelock_canon (a : BusAcc) (w : Word) (s : State) (s' : State) (h : execRelock a w s = .next s') (hc : Canonical s) : Canonical s' := by
  unfold execRelock at h
  injection h with h
  subst h
  try dsimp only
  repeat' first
    | (with_reducible refine busWrite_canon _ _ _ _ (fun _ _ => ?_) ?_)
    | with_reducible assumption
    | simp +contextual (maxDischargeDepth := 60) only [relock_canon, Canonical.mk_iff, Canonical.forEach, Canonical.when, Canonical.ite_of, implies_true, id_eq, *]
    | (with_reducible refine relock_canon _ _ ?_)
    | split
    | (with_reducible refine Canonical.forEach (fun _ _ _ => ?_) ?_)
    | (with_reducible refine Canonical.when (fun _ _ => ?_) ?_)

theorem execPurgeComplete_canon (s : State) (s' : State) (h : execPurgeComplete s = .next s') (hc : Canonical s) : Canonical s' := by
  unfold execPurgeComplete at h
  injection h with h
  subst h
  try dsimp only
  repeat' first
    | with_reducible assumption
    | simp +contextual (maxDischargeDepth := 60) only [purgeAll_canon, Canonical.mk_iff, Canonical.forEach, Canonical.when, Canonical.ite_of, implies_true, id_eq, *]
    | (with_reducible refine purgeAll_canon _ ?_)
    | split
    | (with_reducible refine Canonical.forEach (fun _ _ _ => ?_) ?_)
    | (with_reducible refine Canonical.when (fun _ _ => ?_) ?_)

theorem execProposalDigestReady_canon (s : State) (s' : State) (h : execProposalDigestReady s = .next s') (hc : Canonical s) : Canonical s' := by
  unfold execProposalDigestReady at h
  injection h with h
  subst h
  try dsimp only
  repeat' first
    | with_reducible assumption
    | simp +contextual (maxDischargeDepth := 60) only [setProtState_canon, Canonical.mk_iff, Canonical.forEach, Canonical.when, Canonical.ite_of, implies_true, id_eq, *]
    | (with_reducible refine setProtState_canon _ _ ?_)
    | split
    | (with_reducible refine Canonical.forEach (fun _ _ _ => ?_) ?_)
    | (with_reducible refine Canonical.when (fun _ _ => ?_) ?_)

end Sys2Proof.Machine
end

