-- ==== Sys2Proof/Laws/ExecLanes.lean ====
section
/-!
SUPPORT. Laws/ExecLanes.lean: what each command of Machine/Lanes.lean may change (generated text, one lemma for each command).
-/
namespace Sys2Proof.Machine

set_option linter.unusedSimpArgs false
set_option linter.tactic.unusedName false

theorem execOwnReadRequest_only (onWr : Bool) (lane : Nat) (rq : BitVec 64) (s : State) (s' : State) (h : execOwnReadRequest onWr lane rq s = .next s') :
    Only [.regs, .cnt, .fr, .tr, .dbg] s s' := by
  unfold execOwnReadRequest at h
  injection h with h
  subst h
  try dsimp only
  repeat' first
    | simp (maxDischargeDepth := 8) only [Only.iff_of (presentRq_only _ _ _ _ ), *, partsIn_nil, partsIn_cons, Only.self, Only.mk_iff, Only.forEach_iff, Only.when_iff, Only.ite_of, true_or, or_true, and_self, implies_true, List.mem_cons, reduceCtorEq, or_false, false_or, id_eq]
    | split
    | with_reducible refine Only.trans ?_ (Only.forEach (fun _ _ => ?_) _ _)
    | with_reducible refine Only.trans ?_ (Only.when (fun _ => ?_) _ _)

theorem execOwnWriteRequest_only (onWr : Bool) (lane : Nat) (rq : BitVec 64) (s : State) (s' : State) (h : execOwnWriteRequest onWr lane rq s = .next s') :
    Only [.regs, .cnt, .fr, .tr, .dbg] s s' := by
  unfold execOwnWriteRequest at h
  injection h with h
  subst h
  try dsimp only
  repeat' first
    | simp (maxDischargeDepth := 8) only [Only.iff_of (presentRq_only _ _ _ _ ), *, partsIn_nil, partsIn_cons, Only.self, Only.mk_iff, Only.forEach_iff, Only.when_iff, Only.ite_of, true_or, or_true, and_self, implies_true, List.mem_cons, reduceCtorEq, or_false, false_or, id_eq]
    | split
    | with_reducible refine Only.trans ?_ (Only.forEach (fun _ _ => ?_) _ _)
    | with_reducible refine Only.trans ?_ (Only.when (fun _ => ?_) _ _)

theorem execOwnAtomicRequest_only (onWr : Bool) (lane : Nat) (rq : BitVec 64) (s : State) (s' : State) (h : execOwnAtomicRequest onWr lane rq s = .next s') :
    Only [.regs, .cnt, .fr, .tr, .dbg] s s' := by
  unfold execOwnAtomicRequest at h
  injection h with h
  subst h
  try dsimp only
  repeat' first
    | simp (maxDischargeDepth := 8) only [Only.iff_of (presentRq_only _ _ _ _ ), *, partsIn_nil, partsIn_cons, Only.self, Only.mk_iff, Only.forEach_iff, Only.when_iff, Only.ite_of, true_or, or_true, and_self, implies_true, List.mem_cons, reduceCtorEq, or_false, false_or, id_eq]
    | split
    | with_reducible refine Only.trans ?_ (Only.forEach (fun _ _ => ?_) _ _)
    | with_reducible refine Only.trans ?_ (Only.when (fun _ => ?_) _ _)

theorem execWriteFlitTaken_only (lane : Nat) (data : Row) (sb : BitVec 81) (s : State) (s' : State) (h : execWriteFlitTaken lane data sb s = .next s') :
    Only [.fr, .pw] s s' := by
  unfold execWriteFlitTaken at h
  injection h with h
  subst h
  try dsimp only
  repeat' first
    | simp (maxDischargeDepth := 8) only [Only.iff_of (estimate_only _ _ _ ), Only.iff_of (updWlane_only _ _ _ ), *, partsIn_nil, partsIn_cons, Only.self, Only.mk_iff, Only.forEach_iff, Only.when_iff, Only.ite_of, true_or, or_true, and_self, implies_true, List.mem_cons, reduceCtorEq, or_false, false_or, id_eq]
    | split
    | with_reducible refine Only.trans ?_ (Only.forEach (fun _ _ => ?_) _ _)
    | with_reducible refine Only.trans ?_ (Only.when (fun _ => ?_) _ _)

theorem execDcqCrossing_only (kind : DcqKind) (lane : Nat) (s : State) (s' : State) (h : execDcqCrossing kind lane s = .next s') :
    Only [.regs, .cnt, .fr, .tr, .dbg] s s' := by
  unfold execDcqCrossing at h
  injection h with h
  subst h
  try dsimp only
  repeat' first
    | simp (maxDischargeDepth := 8) only [Only.iff_of (updRlane_only _ _ _ ), Only.iff_of (updWlane_only _ _ _ ), Only.iff_of (setChan_only _ _ _ _ ), Only.iff_of (drainChan_only _ _ _ ), *, partsIn_nil, partsIn_cons, Only.self, Only.mk_iff, Only.forEach_iff, Only.when_iff, Only.ite_of, true_or, or_true, and_self, implies_true, List.mem_cons, reduceCtorEq, or_false, false_or, id_eq]
    | split
    | with_reducible refine Only.trans ?_ (Only.forEach (fun _ _ => ?_) _ _)
    | with_reducible refine Only.trans ?_ (Only.when (fun _ => ?_) _ _)

theorem execWriteFlitToStaging_only (lane : Nat) (par : Mask4) (s : State) (s' : State) (h : execWriteFlitToStaging lane par s = .next s') :
    Only [.regs, .cnt, .fr, .sq, .bl, .tr, .dbg, .fw, .pw, .pr] s s' := by
  unfold execWriteFlitToStaging at h
  injection h with h
  subst h
  try dsimp only
  repeat' first
    | simp (maxDischargeDepth := 8) only [Only.iff_of (moveToStaging_only _ _ _ _ ), *, partsIn_nil, partsIn_cons, Only.self, Only.mk_iff, Only.forEach_iff, Only.when_iff, Only.ite_of, true_or, or_true, and_self, implies_true, List.mem_cons, reduceCtorEq, or_false, false_or, id_eq]
    | split
    | with_reducible refine Only.trans ?_ (Only.forEach (fun _ _ => ?_) _ _)
    | with_reducible refine Only.trans ?_ (Only.when (fun _ => ?_) _ _)

theorem execReadFlitTake_only (lane : Nat) (s : State) (s' : State) (h : execReadFlitTake lane s = .next s') :
    Only [.regs, .fr, .sq, .dbg] s s' := by
  unfold execReadFlitTake at h
  injection h with h
  subst h
  try dsimp only
  repeat' first
    | simp (maxDischargeDepth := 8) only [Only.iff_of (updSlip_only _ _ _ ), Only.iff_of (setRlane_only _ _ _ ), Only.iff_of (progress_only _ _ ), Only.iff_of (dropSlip_only _ _ ), *, partsIn_nil, partsIn_cons, Only.self, Only.mk_iff, Only.forEach_iff, Only.when_iff, Only.ite_of, true_or, or_true, and_self, implies_true, List.mem_cons, reduceCtorEq, or_false, false_or, id_eq]
    | split
    | with_reducible refine Only.trans ?_ (Only.forEach (fun _ _ => ?_) _ _)
    | with_reducible refine Only.trans ?_ (Only.when (fun _ => ?_) _ _)

end Sys2Proof.Machine
end

