-- ==== Sys2Proof/Laws/CanonLanes.lean ====
section
/-!
SUPPORT. Laws/CanonLanes.lean: the operations and commands of Machine/Lanes.lean keep memory, registers and counters in canonical form
(generated text, one lemma for each).
-/
namespace Sys2Proof.Machine

set_option linter.unusedSimpArgs false

theorem refusedFlits_canon (req ctx client rl n : Nat) (s : State) (hc : Canonical s) : Canonical (refusedFlits req ctx client rl n s) :=
  Canonical.of_only (refusedFlits_only req ctx client rl n s) (by decide) hc

theorem refuseRq_canon (wr : Bool) (lane r kind : Nat) (s : State) (hc : Canonical s) : Canonical (refuseRq wr lane r kind s) := by
  unfold refuseRq
  repeat' first
    | with_reducible assumption
    | simp +contextual (maxDischargeDepth := 60) only [bump_canon, raise_canon, fillLog1_canon, addTr_canon, refusedFlits_canon, Canonical.mk_iff, Canonical.forEach, Canonical.when, Canonical.ite_of, implies_true, id_eq, *]
    | (with_reducible refine bump_canon _ _ _ ?_)
    | (with_reducible refine raise_canon _ _ ?_)
    | (with_reducible refine fillLog1_canon _ _ _ ?_)
    | (with_reducible refine addTr_canon _ _ ?_)
    | (with_reducible refine refusedFlits_canon _ _ _ _ _ _ ?_)
    | split
    | (with_reducible refine Canonical.forEach (fun _ _ _ => ?_) ?_)
    | (with_reducible refine Canonical.when (fun _ _ => ?_) ?_)

theorem takeRq_canon (wr : Bool) (lane r : Nat) (s : State) (hc : Canonical s) : Canonical (takeRq wr lane r s) := by
  unfold takeRq
  repeat' first
    | with_reducible assumption
    | simp +contextual (maxDischargeDepth := 60) only [addTr_canon, refuseRq_canon, Canonical.mk_iff, Canonical.forEach, Canonical.when, Canonical.ite_of, implies_true, id_eq, *]
    | (with_reducible refine addTr_canon _ _ ?_)
    | (with_reducible refine refuseRq_canon _ _ _ _ _ ?_)
    | split
    | (with_reducible refine Canonical.forEach (fun _ _ _ => ?_) ?_)
    | (with_reducible refine Canonical.when (fun _ _ => ?_) ?_)

theorem setChan_canon (wr : Bool) (lane : Nat) (x : ReqCh) (s : State) (hc : Canonical s) : Canonical (setChan wr lane x s) :=
  Canonical.of_only (setChan_only wr lane x s) (by decide) hc

theorem drainChan_canon (wr : Bool) (lane : Nat) (s : State) (hc : Canonical s) : Canonical (drainChan wr lane s) := by
  unfold drainChan
  repeat' first
    | with_reducible assumption
    | simp +contextual (maxDischargeDepth := 60) only [takeRq_canon, setChan_canon, Canonical.mk_iff, Canonical.forEach, Canonical.when, Canonical.ite_of, implies_true, id_eq, *]
    | (with_reducible refine takeRq_canon _ _ _ _ ?_)
    | (with_reducible refine setChan_canon _ _ _ _ ?_)
    | split
    | (with_reducible refine Canonical.forEach (fun _ _ _ => ?_) ?_)
    | (with_reducible refine Canonical.when (fun _ _ => ?_) ?_)

theorem presentRq_canon (wr : Bool) (lane : Nat) (rq : BitVec 64) (s : State) (hc : Canonical s) : Canonical (presentRq wr lane rq s) := by
  unfold presentRq
  repeat' first
    | with_reducible assumption
    | simp +contextual (maxDischargeDepth := 60) only [setChan_canon, drainChan_canon, Canonical.mk_iff, Canonical.forEach, Canonical.when, Canonical.ite_of, implies_true, id_eq, *]
    | (with_reducible refine setChan_canon _ _ _ _ ?_)
    | (with_reducible refine drainChan_canon _ _ _ ?_)
    | split
    | (with_reducible refine Canonical.forEach (fun _ _ _ => ?_) ?_)
    | (with_reducible refine Canonical.when (fun _ _ => ?_) ?_)

theorem dropSlip_canon (sid : Nat) (s : State) (hc : Canonical s) : Canonical (dropSlip sid s) := by
  unfold dropSlip
  repeat' first
    | with_reducible assumption
    | simp +contextual (maxDischargeDepth := 60) only [watchRelease_canon, Canonical.mk_iff, Canonical.forEach, Canonical.when, Canonical.ite_of, implies_true, id_eq, *]
    | (with_reducible refine watchRelease_canon _ _ ?_)
    | split
    | (with_reducible refine Canonical.forEach (fun _ _ _ => ?_) ?_)
    | (with_reducible refine Canonical.when (fun _ _ => ?_) ?_)

theorem lengthMismatch_canon (x : Slip) (s : State) (hc : Canonical s) : Canonical (lengthMismatch x s) := by
  unfold lengthMismatch
  repeat' first
    | with_reducible assumption
    | simp +contextual (maxDischargeDepth := 60) only [raise_canon, fillLog_canon, updSlip_canon, Canonical.mk_iff, Canonical.forEach, Canonical.when, Canonical.ite_of, implies_true, id_eq, *]
    | (with_reducible refine raise_canon _ _ ?_)
    | (with_reducible refine fillLog_canon _ _ _ _ ?_)
    | (with_reducible refine updSlip_canon _ _ _ ?_)
    | split
    | (with_reducible refine Canonical.forEach (fun _ _ _ => ?_) ?_)
    | (with_reducible refine Canonical.when (fun _ _ => ?_) ?_)

theorem receiveFlit_canon (sid : Nat) (last : Bool) (s : State) (hc : Canonical s) : Canonical (receiveFlit sid last s) := by
  unfold receiveFlit
  repeat' first
    | with_reducible assumption
    | simp +contextual (maxDischargeDepth := 60) only [updSlip_canon, lengthMismatch_canon, Canonical.mk_iff, Canonical.forEach, Canonical.when, Canonical.ite_of, implies_true, id_eq, *]
    | (with_reducible refine updSlip_canon _ _ _ ?_)
    | (with_reducible refine lengthMismatch_canon _ _ ?_)
    | split
    | (with_reducible refine Canonical.forEach (fun _ _ _ => ?_) ?_)
    | (with_reducible refine Canonical.when (fun _ _ => ?_) ?_)

theorem freeTaken_canon (sid : Nat) (s : State) (hc : Canonical s) : Canonical (freeTaken sid s) :=
  Canonical.of_only (freeTaken_only sid s) (by decide) hc

theorem takeStaged_canon (sid : Nat) (l : List WFlit) (s : State) (hc : Canonical s) : Canonical (takeStaged sid l s) := by
  induction l generalizing s with
  | nil => exact hc
  | cons e l ih =>
    unfold takeStaged
    repeat' first
      | simp +contextual (maxDischargeDepth := 60) only [ih, updSlip_canon, receiveFlit_canon, Canonical.mk_iff, Canonical.forEach, Canonical.when, Canonical.ite_of, implies_true, id_eq, *]
      | split

theorem unsealFlit_canon (lane : Nat) (ofSlip : Bool) (sid : Option Nat) (data : Row) (s : State) (hc : Canonical s) : Canonical (unsealFlit lane ofSlip sid data s).2 := by
  unfold unsealFlit
  repeat' first
    | with_reducible assumption
    | simp +contextual (maxDischargeDepth := 60) only [updSlip_canon, sealFlit_canon, Canonical.mk_iff, Canonical.forEach, Canonical.when, Canonical.ite_of, implies_true, id_eq, *]
    | (refine Canonical.snd (by assumption) (sealFlit_canon _ _ _ ?_))
    | (with_reducible refine updSlip_canon _ _ _ ?_)
    | (with_reducible refine sealFlit_canon _ _ _ ?_)
    | split
    | (with_reducible refine Canonical.forEach (fun _ _ _ => ?_) ?_)
    | (with_reducible refine Canonical.when (fun _ _ => ?_) ?_)

theorem stageFlit_canon (lane : Nat) (f : WFlit) (s : State) (hc : Canonical s) : Canonical (stageFlit lane f s) :=
  Canonical.of_only (stageFlit_only lane f s) (by decide) hc

theorem popWdcq_canon (lane : Nat) (s : State) (hc : Canonical s) : Canonical (popWdcq lane s) :=
  Canonical.of_only (popWdcq_only lane s) (by decide) hc

theorem stagePlain_canon (lane : Nat) (sid : Option Nat) (d : Row × BitVec 81) (s : State) (hc : Canonical s) : Canonical (stagePlain lane sid d s) := by
  unfold stagePlain
  repeat' first
    | with_reducible assumption
    | simp +contextual (maxDischargeDepth := 60) only [unsealFlit_canon, stageFlit_canon, popWdcq_canon, Canonical.mk_iff, Canonical.forEach, Canonical.when, Canonical.ite_of, implies_true, id_eq, *]
    | (refine Canonical.snd (by assumption) (unsealFlit_canon _ _ _ _ _ ?_))
    | (with_reducible refine unsealFlit_canon _ _ _ _ _ ?_)
    | (with_reducible refine stageFlit_canon _ _ _ ?_)
    | (with_reducible refine popWdcq_canon _ _ ?_)
    | split
    | (with_reducible refine Canonical.forEach (fun _ _ _ => ?_) ?_)
    | (with_reducible refine Canonical.when (fun _ _ => ?_) ?_)

theorem stageSlip_canon (lane : Nat) (x : Slip) (par : Mask4) (d : Row × BitVec 81) (s : State) (hc : Canonical s) : Canonical (stageSlip lane x par d s) := by
  unfold stageSlip
  repeat' first
    | with_reducible assumption
    | simp +contextual (maxDischargeDepth := 60) only [estimate_canon, updSlip_canon, raiseBlend_canon, progress_canon, blendParity_canon, receiveFlit_canon, freeTaken_canon, unsealFlit_canon, stageFlit_canon, popWdcq_canon, Canonical.mk_iff, Canonical.forEach, Canonical.when, Canonical.ite_of, implies_true, id_eq, *]
    | (refine Canonical.snd (by assumption) (unsealFlit_canon _ _ _ _ _ ?_))
    | (with_reducible refine estimate_canon _ _ _ ?_)
    | (with_reducible refine updSlip_canon _ _ _ ?_)
    | (with_reducible refine raiseBlend_canon _ _ _ ?_)
    | (with_reducible refine progress_canon _ _ ?_)
    | (with_reducible refine blendParity_canon _ _ ?_)
    | (with_reducible refine receiveFlit_canon _ _ _ ?_)
    | (with_reducible refine freeTaken_canon _ _ ?_)
    | (with_reducible refine unsealFlit_canon _ _ _ _ _ ?_)
    | (with_reducible refine stageFlit_canon _ _ _ ?_)
    | (with_reducible refine popWdcq_canon _ _ ?_)
    | split
    | (with_reducible refine Canonical.forEach (fun _ _ _ => ?_) ?_)
    | (with_reducible refine Canonical.when (fun _ _ => ?_) ?_)

theorem moveToStaging_canon (lane : Nat) (par : Mask4) (d : Row × BitVec 81) (s : State) (hc : Canonical s) : Canonical (moveToStaging lane par d s) := by
  unfold moveToStaging
  repeat' first
    | with_reducible assumption
    | simp +contextual (maxDischargeDepth := 60) only [stageFlit_canon, popWdcq_canon, stagePlain_canon, stageSlip_canon, Canonical.mk_iff, Canonical.forEach, Canonical.when, Canonical.ite_of, implies_true, id_eq, *]
    | (with_reducible refine stageFlit_canon _ _ _ ?_)
    | (with_reducible refine popWdcq_canon _ _ ?_)
    | (with_reducible refine stagePlain_canon _ _ _ _ ?_)
    | (with_reducible refine stageSlip_canon _ _ _ _ _ ?_)
    | split
    | (with_reducible refine Canonical.forEach (fun _ _ _ => ?_) ?_)
    | (with_reducible refine Canonical.when (fun _ _ => ?_) ?_)

theorem execOwnReadRequest_canon (onWr : Bool) (lane : Nat) (rq : BitVec 64) (s : State) (s' : State) (h : execOwnReadRequest onWr lane rq s = .next s') (hc : Canonical s) : Canonical s' := by
  unfold execOwnReadRequest at h
  injection h with h
  subst h
  try dsimp only
  repeat' first
    | with_reducible assumption
    | simp +contextual (maxDischargeDepth := 60) only [presentRq_canon, Canonical.mk_iff, Canonical.forEach, Canonical.when, Canonical.ite_of, implies_true, id_eq, *]
    | (with_reducible refine presentRq_canon _ _ _ _ ?_)
    | split
    | (with_reducible refine Canonical.forEach (fun _ _ _ => ?_) ?_)
    | (with_reducible refine Canonical.when (fun _ _ => ?_) ?_)

theorem execOwnWriteRequest_canon (onWr : Bool) (lane : Nat) (rq : BitVec 64) (s : State) (s' : State) (h : execOwnWriteRequest onWr lane rq s = .next s') (hc : Canonical s) : Canonical s' := by
  unfold execOwnWriteRequest at h
  injection h with h
  subst h
  try dsimp only
  repeat' first
    | with_reducible assumption
    | simp +contextual (maxDischargeDepth := 60) only [presentRq_canon, Canonical.mk_iff, Canonical.forEach, Canonical.when, Canonical.ite_of, implies_true, id_eq, *]
    | (with_reducible refine presentRq_canon _ _ _ _ ?_)
    | split
    | (with_reducible refine Canonical.forEach (fun _ _ _ => ?_) ?_)
    | (with_reducible refine Canonical.when (fun _ _ => ?_) ?_)

theorem execOwnAtomicRequest_canon (onWr : Bool) (lane : Nat) (rq : BitVec 64) (s : State) (s' : State) (h : execOwnAtomicRequest onWr lane rq s = .next s') (hc : Canonical s) : Canonical s' := by
  unfold execOwnAtomicRequest at h
  injection h with h
  subst h
  try dsimp only
  repeat' first
    | with_reducible assumption
    | simp +contextual (maxDischargeDepth := 60) only [presentRq_canon, Canonical.mk_iff, Canonical.forEach, Canonical.when, Canonical.ite_of, implies_true, id_eq, *]
    | (with_reducible refine presentRq_canon _ _ _ _ ?_)
    | split
    | (with_reducible refine Canonical.forEach (fun _ _ _ => ?_) ?_)
    | (with_reducible refine Canonical.when (fun _ _ => ?_) ?_)

theorem execWriteFlitTaken_canon (lane : Nat) (data : Row) (sb : BitVec 81) (s : State) (s' : State) (h : execWriteFlitTaken lane data sb s = .next s') (hc : Canonical s) : Canonical s' :=
  (execWriteFlitTaken_only lane data sb s s' h |> Canonical.of_only) (by decide) hc

theorem execDcqCrossing_canon (kind : DcqKind) (lane : Nat) (s : State) (s' : State) (h : execDcqCrossing kind lane s = .next s') (hc : Canonical s) : Canonical s' := by
  unfold execDcqCrossing at h
  injection h with h
  subst h
  try dsimp only
  repeat' first
    | with_reducible assumption
    | simp +contextual (maxDischargeDepth := 60) only [updRlane_canon, updWlane_canon, setChan_canon, drainChan_canon, Canonical.mk_iff, Canonical.forEach, Canonical.when, Canonical.ite_of, implies_true, id_eq, *]
    | (with_reducible refine updRlane_canon _ _ _ ?_)
    | (with_reducible refine updWlane_canon _ _ _ ?_)
    | (with_reducible refine setChan_canon _ _ _ _ ?_)
    | (with_reducible refine drainChan_canon _ _ _ ?_)
    | split
    | (with_reducible refine Canonical.forEach (fun _ _ _ => ?_) ?_)
    | (with_reducible refine Canonical.when (fun _ _ => ?_) ?_)

theorem execWriteFlitToStaging_canon (lane : Nat) (par : Mask4) (s : State) (s' : State) (h : execWriteFlitToStaging lane par s = .next s') (hc : Canonical s) : Canonical s' := by
  unfold execWriteFlitToStaging at h
  injection h with h
  subst h
  try dsimp only
  repeat' first
    | with_reducible assumption
    | simp +contextual (maxDischargeDepth := 60) only [moveToStaging_canon, Canonical.mk_iff, Canonical.forEach, Canonical.when, Canonical.ite_of, implies_true, id_eq, *]
    | (with_reducible refine moveToStaging_canon _ _ _ _ ?_)
    | split
    | (with_reducible refine Canonical.forEach (fun _ _ _ => ?_) ?_)
    | (with_reducible refine Canonical.when (fun _ _ => ?_) ?_)

theorem execReadFlitTake_canon (lane : Nat) (s : State) (s' : State) (h : execReadFlitTake lane s = .next s') (hc : Canonical s) : Canonical s' := by
  unfold execReadFlitTake at h
  injection h with h
  subst h
  try dsimp only
  repeat' first
    | with_reducible assumption
    | simp +contextual (maxDischargeDepth := 60) only [updSlip_canon, setRlane_canon, progress_canon, dropSlip_canon, Canonical.mk_iff, Canonical.forEach, Canonical.when, Canonical.ite_of, implies_true, id_eq, *]
    | (with_reducible refine updSlip_canon _ _ _ ?_)
    | (with_reducible refine setRlane_canon _ _ _ ?_)
    | (with_reducible refine progress_canon _ _ ?_)
    | (with_reducible refine dropSlip_canon _ _ ?_)
    | split
    | (with_reducible refine Canonical.forEach (fun _ _ _ => ?_) ?_)
    | (with_reducible refine Canonical.when (fun _ _ => ?_) ?_)

end Sys2Proof.Machine
end

