-- ==== Sys2Proof/Laws/ExecIssue.lean ====
section
/-!
SUPPORT. Laws/ExecIssue.lean: what each command of Machine/Issue.lean may change (generated text, one lemma for each command).
-/
namespace Sys2Proof.Machine

set_option linter.unusedSimpArgs false
set_option linter.tactic.unusedName false

theorem execLaneIssue_only (s : State) (s' : State) (h : execLaneIssue s = .next s') :
    Only [.regs, .fr, .sq, .bl, .tr, .dbg] s s' := by
  unfold execLaneIssue at h
  injection h with h
  subst h
  try dsimp only
  repeat' first
    | simp (maxDischargeDepth := 8) only [Only.iff_of (issueGo_only _ _ ), *, partsIn_nil, partsIn_cons, Only.self, Only.mk_iff, Only.forEach_iff, Only.when_iff, Only.ite_of, true_or, or_true, and_self, implies_true, List.mem_cons, reduceCtorEq, or_false, false_or, id_eq]
    | split
    | with_reducible refine Only.trans ?_ (Only.forEach (fun _ _ => ?_) _ _)
    | with_reducible refine Only.trans ?_ (Only.when (fun _ => ?_) _ _)

theorem execWriteTransferRequest_only (lane : Nat) (s : State) (s' : State) (h : execWriteTransferRequest lane s = .next s') :
    Only [.regs, .fr, .sq, .pw] s s' := by
  unfold execWriteTransferRequest at h
  injection h with h
  subst h
  try dsimp only
  repeat' first
    | simp (maxDischargeDepth := 8) only [Only.iff_of (giveRows_only _ _ _ ), Only.iff_of (slipRequest_only _ _ _ ), Only.iff_of (dropFlits_only _ _ _ ), *, partsIn_nil, partsIn_cons, Only.self, Only.mk_iff, Only.forEach_iff, Only.when_iff, Only.ite_of, true_or, or_true, and_self, implies_true, List.mem_cons, reduceCtorEq, or_false, false_or, id_eq]
    | split
    | with_reducible refine Only.trans ?_ (Only.forEach (fun _ _ => ?_) _ _)
    | with_reducible refine Only.trans ?_ (Only.when (fun _ => ?_) _ _)

end Sys2Proof.Machine
end

