-- ==== Sys2Proof/Laws/CanonIssue.lean ====
section
/-!
SUPPORT. Laws/CanonIssue.lean: the operations and commands of Machine/Issue.lean keep memory, registers and counters in canonical form
(generated text, one lemma for each).
-/
namespace Sys2Proof.Machine

set_option linter.unusedSimpArgs false

theorem joinOrders_canon (id : Nat) (t : Tr) (s : State) (hc : Canonical s) : Canonical (joinOrders id t s) :=
  Canonical.of_only (joinOrders_only id t s) (by decide) hc

theorem takeClaim_canon (x : Slip) (s : State) (hc : Canonical s) : Canonical (takeClaim x s) := by
  unfold takeClaim
  repeat' first
    | with_reducible assumption
    | simp +contextual (maxDischargeDepth := 60) only [updWlane_canon, freeTaken_canon, takeStaged_canon, Canonical.mk_iff, Canonical.forEach, Canonical.when, Canonical.ite_of, implies_true, id_eq, *]
    | (with_reducible refine updWlane_canon _ _ _ ?_)
    | (with_reducible refine freeTaken_canon _ _ ?_)
    | (with_reducible refine takeStaged_canon _ _ _ ?_)
    | split
    | (with_reducible refine Canonical.forEach (fun _ _ _ => ?_) ?_)
    | (with_reducible refine Canonical.when (fun _ _ => ?_) ?_)

theorem issueTr_canon (t : Tr) (s : State) (hc : Canonical s) : Canonical (issueTr t s) := by
  unfold issueTr
  repeat' first
    | with_reducible assumption
    | simp +contextual (maxDischargeDepth := 60) only [updSlip_canon, addTr_canon, setTr_canon, joinOrders_canon, takeClaim_canon, Canonical.mk_iff, Canonical.forEach, Canonical.when, Canonical.ite_of, implies_true, id_eq, *]
    | (with_reducible refine updSlip_canon _ _ _ ?_)
    | (with_reducible refine addTr_canon _ _ ?_)
    | (with_reducible refine setTr_canon _ _ ?_)
    | (with_reducible refine joinOrders_canon _ _ _ ?_)
    | (with_reducible refine takeClaim_canon _ _ ?_)
    | split
    | (with_reducible refine Canonical.forEach (fun _ _ _ => ?_) ?_)
    | (with_reducible refine Canonical.when (fun _ _ => ?_) ?_)

theorem issueGo_canon (l : List Tr) (s : State) (hc : Canonical s) : Canonical (issueGo l s) := by
  induction l generalizing s with
  | nil => exact hc
  | cons e l ih =>
    unfold issueGo
    repeat' first
      | simp +contextual (maxDischargeDepth := 60) only [ih, issueTr_canon, Canonical.mk_iff, Canonical.forEach, Canonical.when, Canonical.ite_of, implies_true, id_eq, *]
      | split

theorem transferScales_canon (x : Slip) (t : Tr) (rows : List (List (Nat × Bool))) (s : State) (hc : Canonical s) : Canonical (transferScales x t rows s) :=
  Canonical.of_only (transferScales_only x t rows s) (by decide) hc

theorem giveRows_canon (t : Tr) (rows : List StoredRow) (s : State) (hc : Canonical s) : Canonical (giveRows t rows s) :=
  Canonical.of_only (giveRows_only t rows s) (by decide) hc

theorem slipRequest_canon (x : Slip) (t : Tr) (s : State) (hc : Canonical s) : Canonical (slipRequest x t s) := by
  unfold slipRequest
  repeat' first
    | with_reducible assumption
    | simp +contextual (maxDischargeDepth := 60) only [estimate_canon, updSlip_canon, setTr_canon, raiseCvt_canon, transferScales_canon, giveRows_canon, Canonical.mk_iff, Canonical.forEach, Canonical.when, Canonical.ite_of, implies_true, id_eq, *]
    | (with_reducible refine estimate_canon _ _ _ ?_)
    | (with_reducible refine updSlip_canon _ _ _ ?_)
    | (with_reducible refine setTr_canon _ _ ?_)
    | (with_reducible refine raiseCvt_canon _ _ _ ?_)
    | (with_reducible refine transferScales_canon _ _ _ _ ?_)
    | (with_reducible refine giveRows_canon _ _ _ ?_)
    | split
    | (with_reducible refine Canonical.forEach (fun _ _ _ => ?_) ?_)
    | (with_reducible refine Canonical.when (fun _ _ => ?_) ?_)

theorem dropFlits_canon (lane : Nat) (t : Tr) (s : State) (hc : Canonical s) : Canonical (dropFlits lane t s) :=
  Canonical.of_only (dropFlits_only lane t s) (by decide) hc

theorem execLaneIssue_canon (s : State) (s' : State) (h : execLaneIssue s = .next s') (hc : Canonical s) : Canonical s' := by
  unfold execLaneIssue at h
  injection h with h
  subst h
  try dsimp only
  repeat' first
    | with_reducible assumption
    | simp +contextual (maxDischargeDepth := 60) only [issueGo_canon, Canonical.mk_iff, Canonical.forEach, Canonical.when, Canonical.ite_of, implies_true, id_eq, *]
    | (with_reducible refine issueGo_canon _ _ ?_)
    | split
    | (with_reducible refine Canonical.forEach (fun _ _ _ => ?_) ?_)
    | (with_reducible refine Canonical.when (fun _ _ => ?_) ?_)

theorem execWriteTransferRequest_canon (lane : Nat) (s : State) (s' : State) (h : execWriteTransferRequest lane s = .next s') (hc : Canonical s) : Canonical s' := by
  unfold execWriteTransferRequest at h
  injection h with h
  subst h
  try dsimp only
  repeat' first
    | with_reducible assumption
    | simp +contextual (maxDischargeDepth := 60) only [giveRows_canon, slipRequest_canon, dropFlits_canon, Canonical.mk_iff, Canonical.forEach, Canonical.when, Canonical.ite_of, implies_true, id_eq, *]
    | (with_reducible refine giveRows_canon _ _ _ ?_)
    | (with_reducible refine slipRequest_canon _ _ _ ?_)
    | (with_reducible refine dropFlits_canon _ _ _ ?_)
    | split
    | (with_reducible refine Canonical.forEach (fun _ _ _ => ?_) ?_)
    | (with_reducible refine Canonical.when (fun _ _ => ?_) ?_)

end Sys2Proof.Machine
end

