-- ==== Sys2Proof/Laws/CanonPigeon.lean ====
section
/-!
SUPPORT. Laws/CanonPigeon.lean: the operations and commands of Machine/Pigeon.lean keep memory, registers and counters in canonical form
(generated text, one lemma for each).
-/
namespace Sys2Proof.Machine

set_option linter.unusedSimpArgs false

theorem setBkt_canon (b : Nat) (k : Bkt) (s : State) (hc : Canonical s) : Canonical (setBkt b k s) :=
  Canonical.of_only (setBkt_only b k s) (by decide) hc

theorem updBkt_canon (b : Nat) (f : Bkt → Bkt) (s : State) (hc : Canonical s) : Canonical (updBkt b f s) :=
  Canonical.of_only (updBkt_only b f s) (by decide) hc

theorem pigeonCycle_canon (s : State) (hc : Canonical s) : Canonical (pigeonCycle s) := by
  unfold pigeonCycle
  repeat' first
    | with_reducible assumption
    | simp +contextual (maxDischargeDepth := 60) only [bump_canon, raise_canon, Canonical.mk_iff, Canonical.forEach, Canonical.when, Canonical.ite_of, implies_true, id_eq, *]
    | (with_reducible refine bump_canon _ _ _ ?_)
    | (with_reducible refine raise_canon _ _ ?_)
    | split
    | (with_reducible refine Canonical.forEach (fun _ _ _ => ?_) ?_)
    | (with_reducible refine Canonical.when (fun _ _ => ?_) ?_)

end Sys2Proof.Machine
end

