-- ==== Sys2Proof/Laws/CanonTick.lean ====
section
/-!
SUPPORT. Laws/CanonTick.lean: the operations and commands of Machine/Tick.lean keep memory, registers and counters in canonical form
(generated text, one lemma for each).
-/
namespace Sys2Proof.Machine

set_option linter.unusedSimpArgs false

theorem countStill_canon (n : Nat) (s : State) (hc : Canonical s) : Canonical (countStill n s) :=
  Canonical.of_only (countStill_only n s) (by decide) hc

theorem tclk_canon (n : Nat) (s : State) (hc : Canonical s) : Canonical (tclk n s) :=
  Canonical.of_only (tclk_only n s) (by decide) hc

end Sys2Proof.Machine
end

