-- ==== Sys2Proof/Laws/ExecForward.lean ====
section
/-!
SUPPORT. Laws/ExecForward.lean: what each command of Machine/Forward.lean may change (generated text, one lemma for each command).
-/
namespace Sys2Proof.Machine

set_option linter.unusedSimpArgs false
set_option linter.tactic.unusedName false

theorem execFwdWindowEnd_only (s : State) (s' : State) (h : execFwdWindowEnd s = .next s') :
    Only [.fw] s s' := by
  unfold execFwdWindowEnd at h
  injection h with h
  subst h
  try dsimp only
  repeat' first
    | simp (maxDischargeDepth := 8) only [Only.iff_of (openWindow_only _ ), *, partsIn_nil, partsIn_cons, Only.self, Only.mk_iff, Only.forEach_iff, Only.when_iff, Only.ite_of, true_or, or_true, and_self, implies_true, List.mem_cons, reduceCtorEq, or_false, false_or, id_eq]
    | split
    | with_reducible refine Only.trans ?_ (Only.forEach (fun _ _ => ?_) _ _)
    | with_reducible refine Only.trans ?_ (Only.when (fun _ => ?_) _ _)

theorem execStorm_only (s : State) (s' : State) (h : execStorm s = .next s') :
    Only [.regs, .tr, .dbg, .fw] s s' := by
  unfold execStorm at h
  injection h with h
  subst h
  try dsimp only
  repeat' first
    | simp (maxDischargeDepth := 8) only [Only.iff_of (orReg_only _ _ _ ), Only.iff_of (raise_only _ _ ), Only.iff_of (openStorm_only _ ), *, partsIn_nil, partsIn_cons, Only.self, Only.mk_iff, Only.forEach_iff, Only.when_iff, Only.ite_of, true_or, or_true, and_self, implies_true, List.mem_cons, reduceCtorEq, or_false, false_or, id_eq]
    | split
    | with_reducible refine Only.trans ?_ (Only.forEach (fun _ _ => ?_) _ _)
    | with_reducible refine Only.trans ?_ (Only.when (fun _ => ?_) _ _)

theorem execFwdStart_only (kind : FwdKind) (s : State) (s' : State) (h : execFwdStart kind s = .next s') :
    Only [.regs, .bank, .fr, .hd, .tr, .dbg, .fw, .pw] s s' := by
  unfold execFwdStart at h
  injection h with h
  subst h
  try dsimp only
  repeat' first
    | simp (maxDischargeDepth := 8) only [Only.iff_of (startBank_only _ _ ), Only.iff_of (startPlane_only _ _ _ ), Only.iff_of (startCluster_only _ _ ), Only.iff_of (startRow_only _ _ ), *, partsIn_nil, partsIn_cons, Only.self, Only.mk_iff, Only.forEach_iff, Only.when_iff, Only.ite_of, true_or, or_true, and_self, implies_true, List.mem_cons, reduceCtorEq, or_false, false_or, id_eq]
    | split
    | with_reducible refine Only.trans ?_ (Only.forEach (fun _ _ => ?_) _ _)
    | with_reducible refine Only.trans ?_ (Only.when (fun _ => ?_) _ _)

theorem execMigrationCopyStart_only (s : State) (s' : State) (h : execMigrationCopyStart s = .next s') :
    Only [.fw] s s' := by
  unfold execMigrationCopyStart at h
  injection h with h
  subst h
  try dsimp only
  repeat' first
    | simp (maxDischargeDepth := 8) only [Only.iff_of (setMig_only _ _ ), *, partsIn_nil, partsIn_cons, Only.self, Only.mk_iff, Only.forEach_iff, Only.when_iff, Only.ite_of, true_or, or_true, and_self, implies_true, List.mem_cons, reduceCtorEq, or_false, false_or, id_eq]
    | split
    | with_reducible refine Only.trans ?_ (Only.forEach (fun _ _ => ?_) _ _)
    | with_reducible refine Only.trans ?_ (Only.when (fun _ => ?_) _ _)

theorem execCopyRow_only (ups : List Upset) (s : State) (s' : State) (h : execCopyRow ups s = .next s') :
    Only [.bank, .fr] s s' := by
  unfold execCopyRow at h
  injection h with h
  subst h
  try dsimp only
  repeat' first
    | simp (maxDischargeDepth := 8) only [Only.iff_of (strikeRow_only _ _ _ _ ), Only.iff_of (addTr_only _ _ ), *, partsIn_nil, partsIn_cons, Only.self, Only.mk_iff, Only.forEach_iff, Only.when_iff, Only.ite_of, true_or, or_true, and_self, implies_true, List.mem_cons, reduceCtorEq, or_false, false_or, id_eq]
    | split
    | with_reducible refine Only.trans ?_ (Only.forEach (fun _ _ => ?_) _ _)
    | with_reducible refine Only.trans ?_ (Only.when (fun _ => ?_) _ _)

theorem execMigrationSwitch_only (s : State) (s' : State) (h : execMigrationSwitch s = .next s') :
    Only [.regs, .bank, .fr, .tr, .dbg, .fw] s s' := by
  unfold execMigrationSwitch at h
  injection h with h
  subst h
  try dsimp only
  repeat' first
    | simp (maxDischargeDepth := 8) only [Only.iff_of (finishMig_only _ _ _ _ ), *, partsIn_nil, partsIn_cons, Only.self, Only.mk_iff, Only.forEach_iff, Only.when_iff, Only.ite_of, true_or, or_true, and_self, implies_true, List.mem_cons, reduceCtorEq, or_false, false_or, id_eq]
    | split
    | with_reducible refine Only.trans ?_ (Only.forEach (fun _ _ => ?_) _ _)
    | with_reducible refine Only.trans ?_ (Only.when (fun _ => ?_) _ _)

theorem execPlaneForwardDone_only (s : State) (s' : State) (h : execPlaneForwardDone s = .next s') :
    Only [.regs, .tr, .dbg, .fw, .pw] s s' := by
  unfold execPlaneForwardDone at h
  injection h with h
  subst h
  try dsimp only
  repeat' first
    | simp (maxDischargeDepth := 8) only [Only.iff_of (fwdDone_only _ _ _ _ _ _ ), Only.iff_of (setPlanes_only _ _ _ _ ), Only.iff_of (retirePlaneDom_only _ _ ), *, partsIn_nil, partsIn_cons, Only.self, Only.mk_iff, Only.forEach_iff, Only.when_iff, Only.ite_of, true_or, or_true, and_self, implies_true, List.mem_cons, reduceCtorEq, or_false, false_or, id_eq]
    | split
    | with_reducible refine Only.trans ?_ (Only.forEach (fun _ _ => ?_) _ _)
    | with_reducible refine Only.trans ?_ (Only.when (fun _ => ?_) _ _)

theorem execClusterRetire_only (s : State) (s' : State) (h : execClusterRetire s = .next s') :
    Only [.regs, .tr, .dbg, .fw, .pw] s s' := by
  unfold execClusterRetire at h
  injection h with h
  subst h
  try dsimp only
  repeat' first
    | simp (maxDischargeDepth := 8) only [Only.iff_of (fwdDone_only _ _ _ _ _ _ ), Only.iff_of (retireDom_only _ _ ), *, partsIn_nil, partsIn_cons, Only.self, Only.mk_iff, Only.forEach_iff, Only.when_iff, Only.ite_of, true_or, or_true, and_self, implies_true, List.mem_cons, reduceCtorEq, or_false, false_or, id_eq]
    | split
    | with_reducible refine Only.trans ?_ (Only.forEach (fun _ _ => ?_) _ _)
    | with_reducible refine Only.trans ?_ (Only.when (fun _ => ?_) _ _)

theorem execStatrowSubstitute_only (s : State) (s' : State) (h : execStatrowSubstitute s = .next s') :
    Only [.regs, .hd, .tr, .dbg, .fw] s s' := by
  unfold execStatrowSubstitute at h
  injection h with h
  subst h
  try dsimp only
  repeat' first
    | simp (maxDischargeDepth := 8) only [Only.iff_of (substituteRow_only _ _ _ _ ), *, partsIn_nil, partsIn_cons, Only.self, Only.mk_iff, Only.forEach_iff, Only.when_iff, Only.ite_of, true_or, or_true, and_self, implies_true, List.mem_cons, reduceCtorEq, or_false, false_or, id_eq]
    | split
    | with_reducible refine Only.trans ?_ (Only.forEach (fun _ _ => ?_) _ _)
    | with_reducible refine Only.trans ?_ (Only.when (fun _ => ?_) _ _)

theorem execForward_only (a : BusAcc) (kind : BitVec 3) (unit : BitVec 12) (s : State) (s' : State) (h : execForward a kind unit s = .next s') :
    Only [.regs, .cnt, .bus, .tr, .dbg, .fw] s s' := by
  unfold execForward at h
  injection h with h
  subst h
  try dsimp only
  repeat' first
    | (with_reducible refine Only.trans ?_ (busWrite_only _ _ _ _ (by decide) (fun _ => ?_)))
    | simp (maxDischargeDepth := 8) only [Only.iff_of (commandForward_only _ _ _ ), *, partsIn_nil, partsIn_cons, Only.self, Only.mk_iff, Only.forEach_iff, Only.when_iff, Only.ite_of, true_or, or_true, and_self, implies_true, List.mem_cons, reduceCtorEq, or_false, false_or, id_eq]
    | split
    | with_reducible refine Only.trans ?_ (Only.forEach (fun _ _ => ?_) _ _)
    | with_reducible refine Only.trans ?_ (Only.when (fun _ => ?_) _ _)

theorem execFwdCancel_only (a : BusAcc) (s : State) (s' : State) (h : execFwdCancel a s = .next s') :
    Only [.regs, .cnt, .bus, .bank, .fr, .tr, .dbg, .fw] s s' := by
  unfold execFwdCancel at h
  injection h with h
  subst h
  try dsimp only
  repeat' first
    | (with_reducible refine Only.trans ?_ (busWrite_only _ _ _ _ (by decide) (fun _ => ?_)))
    | simp (maxDischargeDepth := 8) only [Only.iff_of (commandCancel_only _ ), *, partsIn_nil, partsIn_cons, Only.self, Only.mk_iff, Only.forEach_iff, Only.when_iff, Only.ite_of, true_or, or_true, and_self, implies_true, List.mem_cons, reduceCtorEq, or_false, false_or, id_eq]
    | split
    | with_reducible refine Only.trans ?_ (Only.forEach (fun _ _ => ?_) _ _)
    | with_reducible refine Only.trans ?_ (Only.when (fun _ => ?_) _ _)

theorem execAck_only (a : BusAcc) (s : State) (s' : State) (h : execAck a s = .next s') :
    Only [.regs, .cnt, .bus, .tr, .dbg, .fw] s s' := by
  unfold execAck at h
  injection h with h
  subst h
  try dsimp only
  repeat' first
    | (with_reducible refine Only.trans ?_ (busWrite_only _ _ _ _ (by decide) (fun _ => ?_)))
    | simp (maxDischargeDepth := 8) only [Only.iff_of (commandAck_only _ ), *, partsIn_nil, partsIn_cons, Only.self, Only.mk_iff, Only.forEach_iff, Only.when_iff, Only.ite_of, true_or, or_true, and_self, implies_true, List.mem_cons, reduceCtorEq, or_false, false_or, id_eq]
    | split
    | with_reducible refine Only.trans ?_ (Only.forEach (fun _ _ => ?_) _ _)
    | with_reducible refine Only.trans ?_ (Only.when (fun _ => ?_) _ _)

theorem execResumeauto_only (a : BusAcc) (s : State) (s' : State) (h : execResumeauto a s = .next s') :
    Only [.regs, .cnt, .bus, .tr, .dbg] s s' := by
  unfold execResumeauto at h
  injection h with h
  subst h
  try dsimp only
  repeat' first
    | (with_reducible refine Only.trans ?_ (busWrite_only _ _ _ _ (by decide) (fun _ => ?_)))
    | simp (maxDischargeDepth := 8) only [Only.iff_of (commandResume_only _ ), *, partsIn_nil, partsIn_cons, Only.self, Only.mk_iff, Only.forEach_iff, Only.when_iff, Only.ite_of, true_or, or_true, and_self, implies_true, List.mem_cons, reduceCtorEq, or_false, false_or, id_eq]
    | split
    | with_reducible refine Only.trans ?_ (Only.forEach (fun _ _ => ?_) _ _)
    | with_reducible refine Only.trans ?_ (Only.when (fun _ => ?_) _ _)

theorem execStormWindowEnd_only (s : State) (s' : State) (h : execStormWindowEnd s = .next s') :
    Only [.fw] s s' := by
  unfold execStormWindowEnd at h
  injection h with h
  subst h
  try dsimp only
  repeat' first
    | simp (maxDischargeDepth := 8) only [Only.iff_of (openStorm_only _ ), *, partsIn_nil, partsIn_cons, Only.self, Only.mk_iff, Only.forEach_iff, Only.when_iff, Only.ite_of, true_or, or_true, and_self, implies_true, List.mem_cons, reduceCtorEq, or_false, false_or, id_eq]
    | split
    | with_reducible refine Only.trans ?_ (Only.forEach (fun _ _ => ?_) _ _)
    | with_reducible refine Only.trans ?_ (Only.when (fun _ => ?_) _ _)

end Sys2Proof.Machine
end

