-- ==== Sys2Proof/Laws/CanonForward.lean ====
section
/-!
SUPPORT. Laws/CanonForward.lean: the operations and commands of Machine/Forward.lean keep memory, registers and counters in canonical form
(generated text, one lemma for each).
-/
namespace Sys2Proof.Machine

set_option linter.unusedSimpArgs false

theorem unpend_canon (kind unit : Nat) (s : State) (hc : Canonical s) : Canonical (unpend kind unit s) :=
  Canonical.of_only (unpend_only kind unit s) (by decide) hc

theorem startBank_canon (lb : Nat) (s : State) (hc : Canonical s) : Canonical (startBank lb s) := by
  unfold startBank
  repeat' first
    | with_reducible assumption
    | simp +contextual (maxDischargeDepth := 60) only [orReg_canon, raise_canon, setPow_canon, finishMig_canon, unpend_canon, Canonical.mk_iff, Canonical.forEach, Canonical.when, Canonical.ite_of, implies_true, id_eq, *]
    | (with_reducible refine orReg_canon _ _ _ ?_)
    | (with_reducible refine raise_canon _ _ ?_)
    | (with_reducible refine setPow_canon _ _ _ ?_)
    | (with_reducible refine finishMig_canon _ _ _ _ ?_)
    | (with_reducible refine unpend_canon _ _ _ ?_)
    | split
    | (with_reducible refine Canonical.forEach (fun _ _ _ => ?_) ?_)
    | (with_reducible refine Canonical.when (fun _ _ => ?_) ?_)

theorem setPlanes_canon (kind : Nat) (act sp : BitVec 18) (s : State) (hc : Canonical s) : Canonical (setPlanes kind act sp s) :=
  Canonical.of_only (setPlanes_only kind act sp s) (by decide) hc

theorem wakeSpare_canon (i : Nat) (s : State) (hc : Canonical s) : Canonical (wakeSpare i s) := by
  unfold wakeSpare
  repeat' first
    | with_reducible assumption
    | simp +contextual (maxDischargeDepth := 60) only [orReg_canon, setDom_canon, Canonical.mk_iff, Canonical.forEach, Canonical.when, Canonical.ite_of, implies_true, id_eq, *]
    | (with_reducible refine orReg_canon _ _ _ ?_)
    | (with_reducible refine setDom_canon _ _ _ ?_)
    | split
    | (with_reducible refine Canonical.forEach (fun _ _ _ => ?_) ?_)
    | (with_reducible refine Canonical.when (fun _ _ => ?_) ?_)

theorem retireDom_canon (i : Nat) (s : State) (hc : Canonical s) : Canonical (retireDom i s) := by
  unfold retireDom
  repeat' first
    | with_reducible assumption
    | simp +contextual (maxDischargeDepth := 60) only [clrReg_canon, setDom_canon, Canonical.mk_iff, Canonical.forEach, Canonical.when, Canonical.ite_of, implies_true, id_eq, *]
    | (with_reducible refine clrReg_canon _ _ _ ?_)
    | (with_reducible refine setDom_canon _ _ _ ?_)
    | split
    | (with_reducible refine Canonical.forEach (fun _ _ _ => ?_) ?_)
    | (with_reducible refine Canonical.when (fun _ _ => ?_) ?_)

theorem retirePlaneDom_canon (k : Nat) (s : State) (hc : Canonical s) : Canonical (retirePlaneDom k s) := by
  unfold retirePlaneDom
  repeat' first
    | with_reducible assumption
    | simp +contextual (maxDischargeDepth := 60) only [retireDom_canon, Canonical.mk_iff, Canonical.forEach, Canonical.when, Canonical.ite_of, implies_true, id_eq, *]
    | (with_reducible refine retireDom_canon _ _ ?_)
    | split
    | (with_reducible refine Canonical.forEach (fun _ _ _ => ?_) ?_)
    | (with_reducible refine Canonical.when (fun _ _ => ?_) ?_)

theorem startPlane_canon (kind k : Nat) (s : State) (hc : Canonical s) : Canonical (startPlane kind k s) := by
  unfold startPlane
  repeat' first
    | with_reducible assumption
    | simp +contextual (maxDischargeDepth := 60) only [orReg_canon, raise_canon, unpend_canon, setPlanes_canon, wakeSpare_canon, Canonical.mk_iff, Canonical.forEach, Canonical.when, Canonical.ite_of, implies_true, id_eq, *]
    | (with_reducible refine orReg_canon _ _ _ ?_)
    | (with_reducible refine raise_canon _ _ ?_)
    | (with_reducible refine unpend_canon _ _ _ ?_)
    | (with_reducible refine setPlanes_canon _ _ _ _ ?_)
    | (with_reducible refine wakeSpare_canon _ _ ?_)
    | split
    | (with_reducible refine Canonical.forEach (fun _ _ _ => ?_) ?_)
    | (with_reducible refine Canonical.when (fun _ _ => ?_) ?_)

theorem startCluster_canon (c : Nat) (s : State) (hc : Canonical s) : Canonical (startCluster c s) := by
  unfold startCluster
  repeat' first
    | with_reducible assumption
    | simp +contextual (maxDischargeDepth := 60) only [raise_canon, unpend_canon, wakeSpare_canon, Canonical.mk_iff, Canonical.forEach, Canonical.when, Canonical.ite_of, implies_true, id_eq, *]
    | (with_reducible refine raise_canon _ _ ?_)
    | (with_reducible refine unpend_canon _ _ _ ?_)
    | (with_reducible refine wakeSpare_canon _ _ ?_)
    | split
    | (with_reducible refine Canonical.forEach (fun _ _ _ => ?_) ?_)
    | (with_reducible refine Canonical.when (fun _ _ => ?_) ?_)

theorem substituteRow_canon (row spare trig : Nat) (s : State) (hc : Canonical s) : Canonical (substituteRow row spare trig s) := by
  unfold substituteRow
  repeat' first
    | with_reducible assumption
    | simp +contextual (maxDischargeDepth := 60) only [fwdDone_canon, Canonical.mk_iff, Canonical.forEach, Canonical.when, Canonical.ite_of, implies_true, id_eq, *]
    | (with_reducible refine fwdDone_canon _ _ _ _ _ _ ?_)
    | split
    | (with_reducible refine Canonical.forEach (fun _ _ _ => ?_) ?_)
    | (with_reducible refine Canonical.when (fun _ _ => ?_) ?_)

theorem startRow_canon (row : Nat) (s : State) (hc : Canonical s) : Canonical (startRow row s) := by
  unfold startRow
  repeat' first
    | with_reducible assumption
    | simp +contextual (maxDischargeDepth := 60) only [raise_canon, unpend_canon, substituteRow_canon, Canonical.mk_iff, Canonical.forEach, Canonical.when, Canonical.ite_of, implies_true, id_eq, *]
    | (with_reducible refine raise_canon _ _ ?_)
    | (with_reducible refine unpend_canon _ _ _ ?_)
    | (with_reducible refine substituteRow_canon _ _ _ _ ?_)
    | split
    | (with_reducible refine Canonical.forEach (fun _ _ _ => ?_) ?_)
    | (with_reducible refine Canonical.when (fun _ _ => ?_) ?_)

theorem setMig_canon (m : Mig) (s : State) (hc : Canonical s) : Canonical (setMig m s) :=
  Canonical.of_only (setMig_only m s) (by decide) hc

theorem copyRead_canon (b : Beat) (s : State) (hc : Canonical s) : Canonical (copyRead b s) :=
  Canonical.of_only (copyRead_only b s) (by decide) hc

theorem copyWritten_canon (s : State) (hc : Canonical s) : Canonical (copyWritten s) :=
  Canonical.of_only (copyWritten_only s) (by decide) hc

theorem askDual_canon (s : State) (hc : Canonical s) : Canonical (askDual s) :=
  Canonical.of_only (askDual_only s) (by decide) hc

theorem dualWritten_canon (s : State) (hc : Canonical s) : Canonical (dualWritten s) :=
  Canonical.of_only (dualWritten_only s) (by decide) hc

theorem settleMig_canon (s : State) (hc : Canonical s) : Canonical (settleMig s) :=
  Canonical.of_only (settleMig_only s) (by decide) hc

theorem refuseFwd_canon (s : State) (hc : Canonical s) : Canonical (refuseFwd s) := by
  unfold refuseFwd
  repeat' first
    | with_reducible assumption
    | simp +contextual (maxDischargeDepth := 60) only [orReg_canon, Canonical.mk_iff, Canonical.forEach, Canonical.when, Canonical.ite_of, implies_true, id_eq, *]
    | (with_reducible refine orReg_canon _ _ _ ?_)
    | split
    | (with_reducible refine Canonical.forEach (fun _ _ _ => ?_) ?_)
    | (with_reducible refine Canonical.when (fun _ _ => ?_) ?_)

theorem commandForward_canon (kind unit : Nat) (s : State) (hc : Canonical s) : Canonical (commandForward kind unit s) := by
  unfold commandForward
  repeat' first
    | with_reducible assumption
    | simp +contextual (maxDischargeDepth := 60) only [raise_canon, refuseFwd_canon, Canonical.mk_iff, Canonical.forEach, Canonical.when, Canonical.ite_of, implies_true, id_eq, *]
    | (with_reducible refine raise_canon _ _ ?_)
    | (with_reducible refine refuseFwd_canon _ ?_)
    | split
    | (with_reducible refine Canonical.forEach (fun _ _ _ => ?_) ?_)
    | (with_reducible refine Canonical.when (fun _ _ => ?_) ?_)

theorem commandCancel_canon (s : State) (hc : Canonical s) : Canonical (commandCancel s) := by
  unfold commandCancel
  repeat' first
    | with_reducible assumption
    | simp +contextual (maxDischargeDepth := 60) only [cancelMig_canon, refuseFwd_canon, Canonical.mk_iff, Canonical.forEach, Canonical.when, Canonical.ite_of, implies_true, id_eq, *]
    | (with_reducible refine cancelMig_canon _ ?_)
    | (with_reducible refine refuseFwd_canon _ ?_)
    | split
    | (with_reducible refine Canonical.forEach (fun _ _ _ => ?_) ?_)
    | (with_reducible refine Canonical.when (fun _ _ => ?_) ?_)

theorem commandAck_canon (s : State) (hc : Canonical s) : Canonical (commandAck s) := by
  unfold commandAck
  repeat' first
    | with_reducible assumption
    | simp +contextual (maxDischargeDepth := 60) only [refuseFwd_canon, Canonical.mk_iff, Canonical.forEach, Canonical.when, Canonical.ite_of, implies_true, id_eq, *]
    | (with_reducible refine refuseFwd_canon _ ?_)
    | split
    | (with_reducible refine Canonical.forEach (fun _ _ _ => ?_) ?_)
    | (with_reducible refine Canonical.when (fun _ _ => ?_) ?_)

theorem commandResume_canon (s : State) (hc : Canonical s) : Canonical (commandResume s) := by
  unfold commandResume
  repeat' first
    | with_reducible assumption
    | simp +contextual (maxDischargeDepth := 60) only [clrReg_canon, Canonical.mk_iff, Canonical.forEach, Canonical.when, Canonical.ite_of, implies_true, id_eq, *]
    | (with_reducible refine clrReg_canon _ _ _ ?_)
    | split
    | (with_reducible refine Canonical.forEach (fun _ _ _ => ?_) ?_)
    | (with_reducible refine Canonical.when (fun _ _ => ?_) ?_)

theorem execFwdWindowEnd_canon (s : State) (s' : State) (h : execFwdWindowEnd s = .next s') (hc : Canonical s) : Canonical s' :=
  (execFwdWindowEnd_only s s' h |> Canonical.of_only) (by decide) hc

theorem execStorm_canon (s : State) (s' : State) (h : execStorm s = .next s') (hc : Canonical s) : Canonical s' := by
  unfold execStorm at h
  injection h with h
  subst h
  try dsimp only
  repeat' first
    | with_reducible assumption
    | simp +contextual (maxDischargeDepth := 60) only [orReg_canon, raise_canon, openStorm_canon, Canonical.mk_iff, Canonical.forEach, Canonical.when, Canonical.ite_of, implies_true, id_eq, *]
    | (with_reducible refine orReg_canon _ _ _ ?_)
    | (with_reducible refine raise_canon _ _ ?_)
    | (with_reducible refine openStorm_canon _ ?_)
    | split
    | (with_reducible refine Canonical.forEach (fun _ _ _ => ?_) ?_)
    | (with_reducible refine Canonical.when (fun _ _ => ?_) ?_)

theorem execFwdStart_canon (kind : FwdKind) (s : State) (s' : State) (h : execFwdStart kind s = .next s') (hc : Canonical s) : Canonical s' := by
  unfold execFwdStart at h
  injection h with h
  subst h
  try dsimp only
  repeat' first
    | with_reducible assumption
    | simp +contextual (maxDischargeDepth := 60) only [startBank_canon, startPlane_canon, startCluster_canon, startRow_canon, Canonical.mk_iff, Canonical.forEach, Canonical.when, Canonical.ite_of, implies_true, id_eq, *]
    | (with_reducible refine startBank_canon _ _ ?_)
    | (with_reducible refine startPlane_canon _ _ _ ?_)
    | (with_reducible refine startCluster_canon _ _ ?_)
    | (with_reducible refine startRow_canon _ _ ?_)
    | split
    | (with_reducible refine Canonical.forEach (fun _ _ _ => ?_) ?_)
    | (with_reducible refine Canonical.when (fun _ _ => ?_) ?_)

theorem execMigrationCopyStart_canon (s : State) (s' : State) (h : execMigrationCopyStart s = .next s') (hc : Canonical s) : Canonical s' :=
  (execMigrationCopyStart_only s s' h |> Canonical.of_only) (by decide) hc

theorem execCopyRow_canon (ups : List Upset) (s : State) (s' : State) (h : execCopyRow ups s = .next s') (hc : Canonical s) : Canonical s' :=
  (execCopyRow_only ups s s' h |> Canonical.of_only) (by decide) hc

theorem execMigrationSwitch_canon (s : State) (s' : State) (h : execMigrationSwitch s = .next s') (hc : Canonical s) : Canonical s' := by
  unfold execMigrationSwitch at h
  injection h with h
  subst h
  try dsimp only
  repeat' first
    | with_reducible assumption
    | simp +contextual (maxDischargeDepth := 60) only [finishMig_canon, Canonical.mk_iff, Canonical.forEach, Canonical.when, Canonical.ite_of, implies_true, id_eq, *]
    | (with_reducible refine finishMig_canon _ _ _ _ ?_)
    | split
    | (with_reducible refine Canonical.forEach (fun _ _ _ => ?_) ?_)
    | (with_reducible refine Canonical.when (fun _ _ => ?_) ?_)

theorem execPlaneForwardDone_canon (s : State) (s' : State) (h : execPlaneForwardDone s = .next s') (hc : Canonical s) : Canonical s' := by
  unfold execPlaneForwardDone at h
  injection h with h
  subst h
  try dsimp only
  repeat' first
    | with_reducible assumption
    | simp +contextual (maxDischargeDepth := 60) only [fwdDone_canon, setPlanes_canon, retirePlaneDom_canon, Canonical.mk_iff, Canonical.forEach, Canonical.when, Canonical.ite_of, implies_true, id_eq, *]
    | (with_reducible refine fwdDone_canon _ _ _ _ _ _ ?_)
    | (with_reducible refine setPlanes_canon _ _ _ _ ?_)
    | (with_reducible refine retirePlaneDom_canon _ _ ?_)
    | split
    | (with_reducible refine Canonical.forEach (fun _ _ _ => ?_) ?_)
    | (with_reducible refine Canonical.when (fun _ _ => ?_) ?_)

theorem execClusterRetire_canon (s : State) (s' : State) (h : execClusterRetire s = .next s') (hc : Canonical s) : Canonical s' := by
  unfold execClusterRetire at h
  injection h with h
  subst h
  try dsimp only
  repeat' first
    | with_reducible assumption
    | simp +contextual (maxDischargeDepth := 60) only [fwdDone_canon, retireDom_canon, Canonical.mk_iff, Canonical.forEach, Canonical.when, Canonical.ite_of, implies_true, id_eq, *]
    | (with_reducible refine fwdDone_canon _ _ _ _ _ _ ?_)
    | (with_reducible refine retireDom_canon _ _ ?_)
    | split
    | (with_reducible refine Canonical.forEach (fun _ _ _ => ?_) ?_)
    | (with_reducible refine Canonical.when (fun _ _ => ?_) ?_)

theorem execStatrowSubstitute_canon (s : State) (s' : State) (h : execStatrowSubstitute s = .next s') (hc : Canonical s) : Canonical s' := by
  unfold execStatrowSubstitute at h
  injection h with h
  subst h
  try dsimp only
  repeat' first
    | with_reducible assumption
    | simp +contextual (maxDischargeDepth := 60) only [substituteRow_canon, Canonical.mk_iff, Canonical.forEach, Canonical.when, Canonical.ite_of, implies_true, id_eq, *]
    | (with_reducible refine substituteRow_canon _ _ _ _ ?_)
    | split
    | (with_reducible refine Canonical.forEach (fun _ _ _ => ?_) ?_)
    | (with_reducible refine Canonical.when (fun _ _ => ?_) ?_)

theorem execForward_canon (a : BusAcc) (kind : BitVec 3) (unit : BitVec 12) (s : State) (s' : State) (h : execForward a kind unit s = .next s') (hc : Canonical s) : Canonical s' := by
  unfold execForward at h
  injection h with h
  subst h
  try dsimp only
  repeat' first
    | (with_reducible refine busWrite_canon _ _ _ _ (fun _ _ => ?_) ?_)
    | with_reducible assumption
    | simp +contextual (maxDischargeDepth := 60) only [commandForward_canon, Canonical.mk_iff, Canonical.forEach, Canonical.when, Canonical.ite_of, implies_true, id_eq, *]
    | (with_reducible refine commandForward_canon _ _ _ ?_)
    | split
    | (with_reducible refine Canonical.forEach (fun _ _ _ => ?_) ?_)
    | (with_reducible refine Canonical.when (fun _ _ => ?_) ?_)

theorem execFwdCancel_canon (a : BusAcc) (s : State) (s' : State) (h : execFwdCancel a s = .next s') (hc : Canonical s) : Canonical s' := by
  unfold execFwdCancel at h
  injection h with h
  subst h
  try dsimp only
  repeat' first
    | (with_reducible refine busWrite_canon _ _ _ _ (fun _ _ => ?_) ?_)
    | with_reducible assumption
    | simp +contextual (maxDischargeDepth := 60) only [commandCancel_canon, Canonical.mk_iff, Canonical.forEach, Canonical.when, Canonical.ite_of, implies_true, id_eq, *]
    | (with_reducible refine commandCancel_canon _ ?_)
    | split
    | (with_reducible refine Canonical.forEach (fun _ _ _ => ?_) ?_)
    | (with_reducible refine Canonical.when (fun _ _ => ?_) ?_)

theorem execAck_canon (a : BusAcc) (s : State) (s' : State) (h : execAck a s = .next s') (hc : Canonical s) : Canonical s' := by
  unfold execAck at h
  injection h with h
  subst h
  try dsimp only
  repeat' first
    | (with_reducible refine busWrite_canon _ _ _ _ (fun _ _ => ?_) ?_)
    | with_reducible assumption
    | simp +contextual (maxDischargeDepth := 60) only [commandAck_canon, Canonical.mk_iff, Canonical.forEach, Canonical.when, Canonical.ite_of, implies_true, id_eq, *]
    | (with_reducible refine commandAck_canon _ ?_)
    | split
    | (with_reducible refine Canonical.forEach (fun _ _ _ => ?_) ?_)
    | (with_reducible refine Canonical.when (fun _ _ => ?_) ?_)

theorem execResumeauto_canon (a : BusAcc) (s : State) (s' : State) (h : execResumeauto a s = .next s') (hc : Canonical s) : Canonical s' := by
  unfold execResumeauto at h
  injection h with h
  subst h
  try dsimp only
  repeat' first
    | (with_reducible refine busWrite_canon _ _ _ _ (fun _ _ => ?_) ?_)
    | with_reducible assumption
    | simp +contextual (maxDischargeDepth := 60) only [commandResume_canon, Canonical.mk_iff, Canonical.forEach, Canonical.when, Canonical.ite_of, implies_true, id_eq, *]
    | (with_reducible refine commandResume_canon _ ?_)
    | split
    | (with_reducible refine Canonical.forEach (fun _ _ _ => ?_) ?_)
    | (with_reducible refine Canonical.when (fun _ _ => ?_) ?_)

theorem execStormWindowEnd_canon (s : State) (s' : State) (h : execStormWindowEnd s = .next s') (hc : Canonical s) : Canonical s' :=
  (execStormWindowEnd_only s s' h |> Canonical.of_only) (by decide) hc

end Sys2Proof.Machine
end

