-- ==== Sys2Proof/Laws/ExecSlips.lean ====
section
/-!
SUPPORT. Laws/ExecSlips.lean: what each command of Machine/Slips.lean may change (generated text, one lemma for each command).
-/
namespace Sys2Proof.Machine

set_option linter.unusedSimpArgs false
set_option linter.tactic.unusedName false

theorem execSlipCommit_only (a : BusAcc) (q : BitVec 6) (w : Word) (s : State) (s' : State) (h : execSlipCommit a q w s = .next s') :
    Only [.regs, .cnt, .bus, .sq, .tr, .dbg] s s' := by
  unfold execSlipCommit at h
  injection h with h
  subst h
  try dsimp only
  repeat' first
    | (with_reducible refine Only.trans ?_ (busWrite_only _ _ _ _ (by decide) (fun _ => ?_)))
    | simp (maxDischargeDepth := 8) only [Only.iff_of (commitSlip_only _ _ _ _ ), *, partsIn_nil, partsIn_cons, Only.self, Only.mk_iff, Only.forEach_iff, Only.when_iff, Only.ite_of, true_or, or_true, and_self, implies_true, List.mem_cons, reduceCtorEq, or_false, false_or, id_eq]
    | split
    | with_reducible refine Only.trans ?_ (Only.forEach (fun _ _ => ?_) _ _)
    | with_reducible refine Only.trans ?_ (Only.when (fun _ => ?_) _ _)

theorem execFetchOrder_only (q : BitVec 6) (s : State) (s' : State) (h : execFetchOrder q s = .next s') :
    Only [.fr, .sq] s s' := by
  unfold execFetchOrder at h
  injection h with h
  subst h
  try dsimp only
  repeat' first
    | simp (maxDischargeDepth := 8) only [Only.iff_of (updRlane_only _ _ _ ), Only.iff_of (updQueue_only _ _ _ ), Only.iff_of (land_only _ _ _ ), *, partsIn_nil, partsIn_cons, Only.self, Only.mk_iff, Only.forEach_iff, Only.when_iff, Only.ite_of, true_or, or_true, and_self, implies_true, List.mem_cons, reduceCtorEq, or_false, false_or, id_eq]
    | split
    | with_reducible refine Only.trans ?_ (Only.forEach (fun _ _ => ?_) _ _)
    | with_reducible refine Only.trans ?_ (Only.when (fun _ => ?_) _ _)

theorem execSlipDecode_only (q : BitVec 6) (s : State) (s' : State) (h : execSlipDecode q s = .next s') :
    Only [.regs, .cnt, .sq, .tr, .dbg] s s' := by
  unfold execSlipDecode at h
  injection h with h
  subst h
  try dsimp only
  repeat' first
    | simp (maxDischargeDepth := 8) only [Only.iff_of (settleHead_only _ _ ), Only.iff_of (markDecoded_only _ _ _ _ ), *, partsIn_nil, partsIn_cons, Only.self, Only.mk_iff, Only.forEach_iff, Only.when_iff, Only.ite_of, true_or, or_true, and_self, implies_true, List.mem_cons, reduceCtorEq, or_false, false_or, id_eq]
    | split
    | with_reducible refine Only.trans ?_ (Only.forEach (fun _ _ => ?_) _ _)
    | with_reducible refine Only.trans ?_ (Only.when (fun _ => ?_) _ _)

theorem execNop_only (q : BitVec 6) (s : State) (s' : State) (h : execNop q s = .next s') :
    Only [.regs, .cnt, .xc, .fr, .sq, .tr, .dbg] s s' := by
  unfold execNop at h
  injection h with h
  subst h
  try dsimp only
  repeat' first
    | (with_reducible refine Only.trans ?_ (startWith_only _ _ _ _ (fun _ _ => ?_)))
    | simp (maxDischargeDepth := 8) only [Only.iff_of (beginSlip_only _ _ ), Only.iff_of (endSlip_only _ _ ), *, partsIn_nil, partsIn_cons, Only.self, Only.mk_iff, Only.forEach_iff, Only.when_iff, Only.ite_of, true_or, or_true, and_self, implies_true, List.mem_cons, reduceCtorEq, or_false, false_or, id_eq]
    | split
    | with_reducible refine Only.trans ?_ (Only.forEach (fun _ _ => ?_) _ _)
    | with_reducible refine Only.trans ?_ (Only.when (fun _ => ?_) _ _)

theorem execRead_only (q : BitVec 6) (s : State) (s' : State) (h : execRead q s = .next s') :
    Only [.regs, .sq, .bl, .tr, .dbg] s s' := by
  unfold execRead at h
  injection h with h
  subst h
  try dsimp only
  repeat' first
    | (with_reducible refine Only.trans ?_ (startWith_only _ _ _ _ (fun _ _ => ?_)))
    | simp (maxDischargeDepth := 8) only [Only.iff_of (askSlots_only _ _ ), Only.iff_of (beginData_only _ _ _ ), *, partsIn_nil, partsIn_cons, Only.self, Only.mk_iff, Only.forEach_iff, Only.when_iff, Only.ite_of, true_or, or_true, and_self, implies_true, List.mem_cons, reduceCtorEq, or_false, false_or, id_eq]
    | split
    | with_reducible refine Only.trans ?_ (Only.forEach (fun _ _ => ?_) _ _)
    | with_reducible refine Only.trans ?_ (Only.when (fun _ => ?_) _ _)

theorem execWrite_only (q : BitVec 6) (s : State) (s' : State) (h : execWrite q s = .next s') :
    Only [.regs, .sq, .bl, .tr, .dbg] s s' := by
  unfold execWrite at h
  injection h with h
  subst h
  try dsimp only
  repeat' first
    | (with_reducible refine Only.trans ?_ (startWith_only _ _ _ _ (fun _ _ => ?_)))
    | simp (maxDischargeDepth := 8) only [Only.iff_of (askSlots_only _ _ ), Only.iff_of (beginData_only _ _ _ ), *, partsIn_nil, partsIn_cons, Only.self, Only.mk_iff, Only.forEach_iff, Only.when_iff, Only.ite_of, true_or, or_true, and_self, implies_true, List.mem_cons, reduceCtorEq, or_false, false_or, id_eq]
    | split
    | with_reducible refine Only.trans ?_ (Only.forEach (fun _ _ => ?_) _ _)
    | with_reducible refine Only.trans ?_ (Only.when (fun _ => ?_) _ _)

theorem execMove_only (q : BitVec 6) (s : State) (s' : State) (h : execMove q s = .next s') :
    Only [.regs, .sq, .bl, .tr, .dbg] s s' := by
  unfold execMove at h
  injection h with h
  subst h
  try dsimp only
  repeat' first
    | (with_reducible refine Only.trans ?_ (startWith_only _ _ _ _ (fun _ _ => ?_)))
    | simp (maxDischargeDepth := 8) only [Only.iff_of (askSlots_only _ _ ), Only.iff_of (beginData_only _ _ _ ), *, partsIn_nil, partsIn_cons, Only.self, Only.mk_iff, Only.forEach_iff, Only.when_iff, Only.ite_of, true_or, or_true, and_self, implies_true, List.mem_cons, reduceCtorEq, or_false, false_or, id_eq]
    | split
    | with_reducible refine Only.trans ?_ (Only.forEach (fun _ _ => ?_) _ _)
    | with_reducible refine Only.trans ?_ (Only.when (fun _ => ?_) _ _)

theorem execHeld_only (q : BitVec 6) (s : State) (s' : State) (h : execHeld q s = .next s') :
    Only [.regs, .sq, .hd, .tr, .dbg] s s' := by
  unfold execHeld at h
  injection h with h
  subst h
  refine startWith_only _ _ _ _ fun x s => ?_
  have h1 : Only [.regs, .sq, .hd, .tr, .dbg] s
      (beginData 0 { x with held := some newHeld } s |> setReg (0x2500 + 4 * (x.q % 64)) 0) :=
    ((beginData_only _ _ _).mono (by decide)).trans ((setReg_only _ _ _).mono (by decide))
  dsimp only at h1 ⊢
  generalize setReg _ _ _ = u at h1 ⊢
  refine h1.trans ?_
  intro p hp
  cases p <;> first | exact absurd (by decide) hp | rfl

theorem execAtomic_only (q : BitVec 6) (s : State) (s' : State) (h : execAtomic q s = .next s') :
    Only [.sq, .tr] s s' := by
  unfold execAtomic at h
  injection h with h
  subst h
  try dsimp only
  repeat' first
    | (with_reducible refine Only.trans ?_ (startWith_only _ _ _ _ (fun _ _ => ?_)))
    | simp (maxDischargeDepth := 8) only [Only.iff_of (sbegin_only _ _ ), Only.iff_of (beginSlip_only _ _ ), *, partsIn_nil, partsIn_cons, Only.self, Only.mk_iff, Only.forEach_iff, Only.when_iff, Only.ite_of, true_or, or_true, and_self, implies_true, List.mem_cons, reduceCtorEq, or_false, false_or, id_eq]
    | split
    | with_reducible refine Only.trans ?_ (Only.forEach (fun _ _ => ?_) _ _)
    | with_reducible refine Only.trans ?_ (Only.when (fun _ => ?_) _ _)

theorem execWait_only (q : BitVec 6) (s : State) (s' : State) (h : execWait q s = .next s') :
    Only [.sq, .tr] s s' := by
  unfold execWait at h
  injection h with h
  subst h
  try dsimp only
  repeat' first
    | (with_reducible refine Only.trans ?_ (startWith_only _ _ _ _ (fun _ _ => ?_)))
    | simp (maxDischargeDepth := 8) only [Only.iff_of (sbegin_only _ _ ), Only.iff_of (beginSlip_only _ _ ), *, partsIn_nil, partsIn_cons, Only.self, Only.mk_iff, Only.forEach_iff, Only.when_iff, Only.ite_of, true_or, or_true, and_self, implies_true, List.mem_cons, reduceCtorEq, or_false, false_or, id_eq]
    | split
    | with_reducible refine Only.trans ?_ (Only.forEach (fun _ _ => ?_) _ _)
    | with_reducible refine Only.trans ?_ (Only.when (fun _ => ?_) _ _)

theorem execWaitReached_only (q : BitVec 6) (s : State) (s' : State) (h : execWaitReached q s = .next s') :
    Only [.sq] s s' := by
  unfold execWaitReached at h
  injection h with h
  subst h
  try dsimp only
  repeat' first
    | simp (maxDischargeDepth := 8) only [Only.iff_of (updSlip_only _ _ _ ), *, partsIn_nil, partsIn_cons, Only.self, Only.mk_iff, Only.forEach_iff, Only.when_iff, Only.ite_of, true_or, or_true, and_self, implies_true, List.mem_cons, reduceCtorEq, or_false, false_or, id_eq]
    | split
    | with_reducible refine Only.trans ?_ (Only.forEach (fun _ _ => ?_) _ _)
    | with_reducible refine Only.trans ?_ (Only.when (fun _ => ?_) _ _)

theorem execSignal_only (q : BitVec 6) (s : State) (s' : State) (h : execSignal q s = .next s') :
    Only [.regs, .cnt, .xc, .fr, .sq, .tr, .dbg] s s' := by
  unfold execSignal at h
  injection h with h
  subst h
  try dsimp only
  repeat' first
    | (with_reducible refine Only.trans ?_ (startWith_only _ _ _ _ (fun _ _ => ?_)))
    | simp (maxDischargeDepth := 8) only [Only.iff_of (tallyAdd_only _ _ _ ), Only.iff_of (beginSlip_only _ _ ), Only.iff_of (endSlip_only _ _ ), *, partsIn_nil, partsIn_cons, Only.self, Only.mk_iff, Only.forEach_iff, Only.when_iff, Only.ite_of, true_or, or_true, and_self, implies_true, List.mem_cons, reduceCtorEq, or_false, false_or, id_eq]
    | split
    | with_reducible refine Only.trans ?_ (Only.forEach (fun _ _ => ?_) _ _)
    | with_reducible refine Only.trans ?_ (Only.when (fun _ => ?_) _ _)

theorem execMark_only (q : BitVec 6) (s : State) (s' : State) (h : execMark q s = .next s') :
    Only [.regs, .cnt, .xc, .fr, .sq, .tr, .dbg] s s' := by
  unfold execMark at h
  injection h with h
  subst h
  try dsimp only
  repeat' first
    | (with_reducible refine Only.trans ?_ (startWith_only _ _ _ _ (fun _ _ => ?_)))
    | simp (maxDischargeDepth := 8) only [Only.iff_of (genRec_only _ _ _ ), Only.iff_of (traceTrigger_only _ _ _ ), Only.iff_of (beginSlip_only _ _ ), Only.iff_of (endSlip_only _ _ ), *, partsIn_nil, partsIn_cons, Only.self, Only.mk_iff, Only.forEach_iff, Only.when_iff, Only.ite_of, true_or, or_true, and_self, implies_true, List.mem_cons, reduceCtorEq, or_false, false_or, id_eq]
    | split
    | with_reducible refine Only.trans ?_ (Only.forEach (fun _ _ => ?_) _ _)
    | with_reducible refine Only.trans ?_ (Only.when (fun _ => ?_) _ _)

theorem execHint_only (q : BitVec 6) (s : State) (s' : State) (h : execHint q s = .next s') :
    Only [.regs, .cnt, .xc, .fr, .sq, .tr, .dbg, .pw] s s' := by
  unfold execHint at h
  injection h with h
  subst h
  try dsimp only
  repeat' first
    | (with_reducible refine Only.trans ?_ (startWith_only _ _ _ _ (fun _ _ => ?_)))
    | simp (maxDischargeDepth := 8) only [Only.iff_of (bump_only _ _ _ ), Only.iff_of (addHint_only _ _ ), Only.iff_of (beginSlip_only _ _ ), Only.iff_of (endSlip_only _ _ ), *, partsIn_nil, partsIn_cons, Only.self, Only.mk_iff, Only.forEach_iff, Only.when_iff, Only.ite_of, true_or, or_true, and_self, implies_true, List.mem_cons, reduceCtorEq, or_false, false_or, id_eq]
    | split
    | with_reducible refine Only.trans ?_ (Only.forEach (fun _ _ => ?_) _ _)
    | with_reducible refine Only.trans ?_ (Only.when (fun _ => ?_) _ _)

theorem execFence_only (q : BitVec 6) (s : State) (s' : State) (h : execFence q s = .next s') :
    Only [.sq, .tr] s s' := by
  unfold execFence at h
  injection h with h
  subst h
  try dsimp only
  repeat' first
    | (with_reducible refine Only.trans ?_ (startWith_only _ _ _ _ (fun _ _ => ?_)))
    | simp (maxDischargeDepth := 8) only [Only.iff_of (sbegin_only _ _ ), Only.iff_of (beginSlip_only _ _ ), *, partsIn_nil, partsIn_cons, Only.self, Only.mk_iff, Only.forEach_iff, Only.when_iff, Only.ite_of, true_or, or_true, and_self, implies_true, List.mem_cons, reduceCtorEq, or_false, false_or, id_eq]
    | split
    | with_reducible refine Only.trans ?_ (Only.forEach (fun _ _ => ?_) _ _)
    | with_reducible refine Only.trans ?_ (Only.when (fun _ => ?_) _ _)

theorem execFenceMet_only (q : BitVec 6) (s : State) (s' : State) (h : execFenceMet q s = .next s') :
    Only [.regs, .cnt, .xc, .fr, .sq, .tr, .dbg] s s' := by
  unfold execFenceMet at h
  injection h with h
  subst h
  try dsimp only
  repeat' first
    | simp (maxDischargeDepth := 8) only [Only.iff_of (updSlip_only _ _ _ ), Only.iff_of (endSlip_only _ _ ), *, partsIn_nil, partsIn_cons, Only.self, Only.mk_iff, Only.forEach_iff, Only.when_iff, Only.ite_of, true_or, or_true, and_self, implies_true, List.mem_cons, reduceCtorEq, or_false, false_or, id_eq]
    | split
    | with_reducible refine Only.trans ?_ (Only.forEach (fun _ _ => ?_) _ _)
    | with_reducible refine Only.trans ?_ (Only.when (fun _ => ?_) _ _)

theorem execStep_only (q : BitVec 6) (s : State) (s' : State) (h : execStep q s = .next s') :
    Only [.regs, .cnt, .xc, .fr, .sq, .tr, .dbg] s s' := by
  unfold execStep at h
  injection h with h
  subst h
  try dsimp only
  repeat' first
    | (with_reducible refine Only.trans ?_ (startWith_only _ _ _ _ (fun _ _ => ?_)))
    | simp (maxDischargeDepth := 8) only [Only.iff_of (setReg_only _ _ _ ), Only.iff_of (genRec_only _ _ _ ), Only.iff_of (beginSlip_only _ _ ), Only.iff_of (endSlip_only _ _ ), *, partsIn_nil, partsIn_cons, Only.self, Only.mk_iff, Only.forEach_iff, Only.when_iff, Only.ite_of, true_or, or_true, and_self, implies_true, List.mem_cons, reduceCtorEq, or_false, false_or, id_eq]
    | split
    | with_reducible refine Only.trans ?_ (Only.forEach (fun _ _ => ?_) _ _)
    | with_reducible refine Only.trans ?_ (Only.when (fun _ => ?_) _ _)

theorem execSlipEnd_only (q : BitVec 6) (s : State) (s' : State) (h : execSlipEnd q s = .next s') :
    Only [.regs, .cnt, .xc, .fr, .sq, .tr, .dbg] s s' := by
  unfold execSlipEnd at h
  injection h with h
  subst h
  try dsimp only
  repeat' first
    | simp (maxDischargeDepth := 8) only [Only.iff_of (endSlip_only _ _ ), *, partsIn_nil, partsIn_cons, Only.self, Only.mk_iff, Only.forEach_iff, Only.when_iff, Only.ite_of, true_or, or_true, and_self, implies_true, List.mem_cons, reduceCtorEq, or_false, false_or, id_eq]
    | split
    | with_reducible refine Only.trans ?_ (Only.forEach (fun _ _ => ?_) _ _)
    | with_reducible refine Only.trans ?_ (Only.when (fun _ => ?_) _ _)

theorem execQueueResume_only (a : BusAcc) (q : BitVec 6) (s : State) (s' : State) (h : execQueueResume a q s = .next s') :
    Only [.regs, .cnt, .bus, .sq, .tr, .dbg] s s' := by
  unfold execQueueResume at h
  injection h with h
  subst h
  try dsimp only
  repeat' first
    | (with_reducible refine Only.trans ?_ (busWriteFor_only _ _ _ _ _ (by decide) (fun _ => ?_)))
    | simp (maxDischargeDepth := 8) only [Only.iff_of (resumeQueue_only _ _ ), *, partsIn_nil, partsIn_cons, Only.self, Only.mk_iff, Only.forEach_iff, Only.when_iff, Only.ite_of, true_or, or_true, and_self, implies_true, List.mem_cons, reduceCtorEq, or_false, false_or, id_eq]
    | split
    | with_reducible refine Only.trans ?_ (Only.forEach (fun _ _ => ?_) _ _)
    | with_reducible refine Only.trans ?_ (Only.when (fun _ => ?_) _ _)

theorem execQueueSkip_only (a : BusAcc) (q : BitVec 6) (s : State) (s' : State) (h : execQueueSkip a q s = .next s') :
    Only [.regs, .cnt, .bus, .sq, .tr, .dbg] s s' := by
  unfold execQueueSkip at h
  injection h with h
  subst h
  try dsimp only
  repeat' first
    | (with_reducible refine Only.trans ?_ (busWriteFor_only _ _ _ _ _ (by decide) (fun _ => ?_)))
    | simp (maxDischargeDepth := 8) only [Only.iff_of (skipQueue_only _ _ ), *, partsIn_nil, partsIn_cons, Only.self, Only.mk_iff, Only.forEach_iff, Only.when_iff, Only.ite_of, true_or, or_true, and_self, implies_true, List.mem_cons, reduceCtorEq, or_false, false_or, id_eq]
    | split
    | with_reducible refine Only.trans ?_ (Only.forEach (fun _ _ => ?_) _ _)
    | with_reducible refine Only.trans ?_ (Only.when (fun _ => ?_) _ _)

theorem execQueueFlush_only (a : BusAcc) (q : BitVec 6) (s : State) (s' : State) (h : execQueueFlush a q s = .next s') :
    Only [.regs, .cnt, .bus, .sq, .tr, .dbg] s s' := by
  unfold execQueueFlush at h
  injection h with h
  subst h
  try dsimp only
  repeat' first
    | (with_reducible refine Only.trans ?_ (busWriteFor_only _ _ _ _ _ (by decide) (fun _ => ?_)))
    | simp (maxDischargeDepth := 8) only [Only.iff_of (flushQueue_only _ _ ), *, partsIn_nil, partsIn_cons, Only.self, Only.mk_iff, Only.forEach_iff, Only.when_iff, Only.ite_of, true_or, or_true, and_self, implies_true, List.mem_cons, reduceCtorEq, or_false, false_or, id_eq]
    | split
    | with_reducible refine Only.trans ?_ (Only.forEach (fun _ _ => ?_) _ _)
    | with_reducible refine Only.trans ?_ (Only.when (fun _ => ?_) _ _)

theorem execQueuePause_only (a : BusAcc) (q : BitVec 6) (s : State) (s' : State) (h : execQueuePause a q s = .next s') :
    Only [.regs, .cnt, .bus, .sq, .tr, .dbg] s s' := by
  unfold execQueuePause at h
  injection h with h
  subst h
  try dsimp only
  repeat' first
    | (with_reducible refine Only.trans ?_ (busWriteFor_only _ _ _ _ _ (by decide) (fun _ => ?_)))
    | simp (maxDischargeDepth := 8) only [Only.iff_of (pauseQueue_only _ _ ), *, partsIn_nil, partsIn_cons, Only.self, Only.mk_iff, Only.forEach_iff, Only.when_iff, Only.ite_of, true_or, or_true, and_self, implies_true, List.mem_cons, reduceCtorEq, or_false, false_or, id_eq]
    | split
    | with_reducible refine Only.trans ?_ (Only.forEach (fun _ _ => ?_) _ _)
    | with_reducible refine Only.trans ?_ (Only.when (fun _ => ?_) _ _)

theorem execTallyInc_only (a : BusAcc) (t : BitVec 6) (s : State) (s' : State) (h : execTallyInc a t s = .next s') :
    Only [.regs, .cnt, .bus, .tr, .dbg] s s' := by
  unfold execTallyInc at h
  injection h with h
  subst h
  try dsimp only
  repeat' first
    | (with_reducible refine Only.trans ?_ (busWriteFor_only _ _ _ _ _ (by decide) (fun _ => ?_)))
    | simp (maxDischargeDepth := 8) only [Only.iff_of (tallyAdd_only _ _ _ ), *, partsIn_nil, partsIn_cons, Only.self, Only.mk_iff, Only.forEach_iff, Only.when_iff, Only.ite_of, true_or, or_true, and_self, implies_true, List.mem_cons, reduceCtorEq, or_false, false_or, id_eq]
    | split
    | with_reducible refine Only.trans ?_ (Only.forEach (fun _ _ => ?_) _ _)
    | with_reducible refine Only.trans ?_ (Only.when (fun _ => ?_) _ _)

theorem execTallyWrite_only (a : BusAcc) (t : BitVec 6) (w : Word) (incs : Nat) (s : State) (s' : State) (h : execTallyWrite a t w incs s = .next s') :
    Only [.regs, .cnt, .bus, .tr, .dbg] s s' := by
  unfold execTallyWrite at h
  injection h with h
  subst h
  try dsimp only
  repeat' first
    | (with_reducible refine Only.trans ?_ (busWrite_only _ _ _ _ (by decide) (fun _ => ?_)))
    | simp (maxDischargeDepth := 8) only [Only.iff_of (setReg_only _ _ _ ), Only.iff_of (tallyAdd_only _ _ _ ), *, partsIn_nil, partsIn_cons, Only.self, Only.mk_iff, Only.forEach_iff, Only.when_iff, Only.ite_of, true_or, or_true, and_self, implies_true, List.mem_cons, reduceCtorEq, or_false, false_or, id_eq]
    | split
    | with_reducible refine Only.trans ?_ (Only.forEach (fun _ _ => ?_) _ _)
    | with_reducible refine Only.trans ?_ (Only.when (fun _ => ?_) _ _)

end Sys2Proof.Machine
end

