-- ==== Sys2Proof/Laws/CanonSlips.lean ====
section
/-!
SUPPORT. Laws/CanonSlips.lean: the operations and commands of Machine/Slips.lean keep memory, registers and counters in canonical form
(generated text, one lemma for each).
-/
namespace Sys2Proof.Machine

set_option linter.unusedSimpArgs false

theorem tallyAdd_canon (n t : Nat) (s : State) (hc : Canonical s) : Canonical (tallyAdd n t s) := by
  unfold tallyAdd
  repeat' first
    | with_reducible assumption
    | simp +contextual (maxDischargeDepth := 60) only [setReg_canon, Canonical.mk_iff, Canonical.forEach, Canonical.when, Canonical.ite_of, implies_true, id_eq, *]
    | (with_reducible refine setReg_canon _ _ _ ?_)
    | split
    | (with_reducible refine Canonical.forEach (fun _ _ _ => ?_) ?_)
    | (with_reducible refine Canonical.when (fun _ _ => ?_) ?_)

theorem slipLog_canon (kind q reason : Nat) (w : BitVec 512) (ent : Nat) (s : State) (hc : Canonical s) : Canonical (slipLog kind q reason w ent s) := by
  unfold slipLog
  repeat' first
    | with_reducible assumption
    | simp +contextual (maxDischargeDepth := 60) only [fillLog_canon, Canonical.mk_iff, Canonical.forEach, Canonical.when, Canonical.ite_of, implies_true, id_eq, *]
    | (with_reducible refine fillLog_canon _ _ _ _ ?_)
    | split
    | (with_reducible refine Canonical.forEach (fun _ _ _ => ?_) ?_)
    | (with_reducible refine Canonical.when (fun _ _ => ?_) ?_)

theorem settleHead_canon (q : Nat) (s : State) (hc : Canonical s) : Canonical (settleHead q s) := by
  unfold settleHead
  repeat' first
    | with_reducible assumption
    | simp +contextual (maxDischargeDepth := 60) only [bump_canon, raise_canon, updQueue_canon, slipLog_canon, Canonical.mk_iff, Canonical.forEach, Canonical.when, Canonical.ite_of, implies_true, id_eq, *]
    | (with_reducible refine bump_canon _ _ _ ?_)
    | (with_reducible refine raise_canon _ _ ?_)
    | (with_reducible refine updQueue_canon _ _ _ ?_)
    | (with_reducible refine slipLog_canon _ _ _ _ _ _ ?_)
    | split
    | (with_reducible refine Canonical.forEach (fun _ _ _ => ?_) ?_)
    | (with_reducible refine Canonical.when (fun _ _ => ?_) ?_)

theorem refuseCommit_canon (q : Nat) (s : State) (hc : Canonical s) : Canonical (refuseCommit q s) := by
  unfold refuseCommit
  repeat' first
    | with_reducible assumption
    | simp +contextual (maxDischargeDepth := 60) only [bump_canon, raise_canon, fillLog_canon, Canonical.mk_iff, Canonical.forEach, Canonical.when, Canonical.ite_of, implies_true, id_eq, *]
    | (with_reducible refine bump_canon _ _ _ ?_)
    | (with_reducible refine raise_canon _ _ ?_)
    | (with_reducible refine fillLog_canon _ _ _ _ ?_)
    | split
    | (with_reducible refine Canonical.forEach (fun _ _ _ => ?_) ?_)
    | (with_reducible refine Canonical.when (fun _ _ => ?_) ?_)

theorem stageWord_canon (q i : Nat) (w : Word) (s : State) (hc : Canonical s) : Canonical (stageWord q i w s) :=
  Canonical.of_only (stageWord_only q i w s) (by decide) hc

theorem writeStage_canon (a : BusAcc) (q i : Nat) (w : Word) (s : State) (hc : Canonical s) : Canonical (writeStage a q i w s) :=
  Canonical.of_only (writeStage_only a q i w s) (by decide) hc

theorem commitStaged_canon (q : Nat) (s : State) (hc : Canonical s) : Canonical (commitStaged q s) := by
  unfold commitStaged
  repeat' first
    | with_reducible assumption
    | simp +contextual (maxDischargeDepth := 60) only [setRegF_canon, updQueue_canon, refuseCommit_canon, Canonical.mk_iff, Canonical.forEach, Canonical.when, Canonical.ite_of, implies_true, id_eq, *]
    | (with_reducible refine setRegF_canon _ _ _ _ _ ?_)
    | (with_reducible refine updQueue_canon _ _ _ ?_)
    | (with_reducible refine refuseCommit_canon _ _ ?_)
    | split
    | (with_reducible refine Canonical.forEach (fun _ _ _ => ?_) ?_)
    | (with_reducible refine Canonical.when (fun _ _ => ?_) ?_)

theorem commitSlip_canon (a : BusAcc) (q : Nat) (w : Word) (s : State) (hc : Canonical s) : Canonical (commitSlip a q w s) := by
  unfold commitSlip
  repeat' first
    | with_reducible assumption
    | simp +contextual (maxDischargeDepth := 60) only [updQueue_canon, refuseCommit_canon, stageWord_canon, commitStaged_canon, Canonical.mk_iff, Canonical.forEach, Canonical.when, Canonical.ite_of, implies_true, id_eq, *]
    | (with_reducible refine updQueue_canon _ _ _ ?_)
    | (with_reducible refine refuseCommit_canon _ _ ?_)
    | (with_reducible refine stageWord_canon _ _ _ _ ?_)
    | (with_reducible refine commitStaged_canon _ _ ?_)
    | split
    | (with_reducible refine Canonical.forEach (fun _ _ _ => ?_) ?_)
    | (with_reducible refine Canonical.when (fun _ _ => ?_) ?_)

theorem markDecoded_canon (q idx : Nat) (d : Nat) (s : State) (hc : Canonical s) : Canonical (markDecoded q idx d s) :=
  Canonical.of_only (markDecoded_only q idx d s) (by decide) hc

theorem beginSlip_canon (x : Slip) (s : State) (hc : Canonical s) : Canonical (beginSlip x s) :=
  Canonical.of_only (beginSlip_only x s) (by decide) hc

theorem askSlots_canon (sid : Nat) (s : State) (hc : Canonical s) : Canonical (askSlots sid s) :=
  Canonical.of_only (askSlots_only sid s) (by decide) hc

theorem beginData_canon (path : Nat) (x : Slip) (s : State) (hc : Canonical s) : Canonical (beginData path x s) := by
  unfold beginData
  repeat' first
    | with_reducible assumption
    | simp +contextual (maxDischargeDepth := 60) only [watchMatch_canon, sbegin_canon, beginSlip_canon, Canonical.mk_iff, Canonical.forEach, Canonical.when, Canonical.ite_of, implies_true, id_eq, *]
    | (with_reducible refine watchMatch_canon _ _ ?_)
    | (with_reducible refine sbegin_canon _ _ ?_)
    | (with_reducible refine beginSlip_canon _ _ ?_)
    | split
    | (with_reducible refine Canonical.forEach (fun _ _ _ => ?_) ?_)
    | (with_reducible refine Canonical.when (fun _ _ => ?_) ?_)

theorem startWith_canon (q t : Nat) (act : Slip → State → State) (s : State) (ha : ∀ x s, Canonical s → Canonical (act x s))
    (hc : Canonical s) : Canonical (startWith q t act s) := by
  unfold startWith
  split
  · exact ha _ s hc
  · exact hc

theorem dropClaim_canon (x : Slip) (s : State) (hc : Canonical s) : Canonical (dropClaim x s) :=
  Canonical.of_only (dropClaim_only x s) (by decide) hc

theorem stopOnFault_canon (x : Slip) (s : State) (hc : Canonical s) : Canonical (stopOnFault x s) := by
  unfold stopOnFault
  repeat' first
    | with_reducible assumption
    | simp +contextual (maxDischargeDepth := 60) only [raise_canon, updQueue_canon, slipLog_canon, Canonical.mk_iff, Canonical.forEach, Canonical.when, Canonical.ite_of, implies_true, id_eq, *]
    | (with_reducible refine raise_canon _ _ ?_)
    | (with_reducible refine updQueue_canon _ _ _ ?_)
    | (with_reducible refine slipLog_canon _ _ _ _ _ _ ?_)
    | split
    | (with_reducible refine Canonical.forEach (fun _ _ _ => ?_) ?_)
    | (with_reducible refine Canonical.when (fun _ _ => ?_) ?_)

theorem endSlip_canon (sid : Nat) (s : State) (hc : Canonical s) : Canonical (endSlip sid s) := by
  unfold endSlip
  repeat' first
    | with_reducible assumption
    | simp +contextual (maxDischargeDepth := 60) only [bump_canon, xbump_canon, updSlip_canon, updQueue_canon, progress_canon, maybeSend_canon, dropSlip_canon, settleHead_canon, dropClaim_canon, stopOnFault_canon, Canonical.mk_iff, Canonical.forEach, Canonical.when, Canonical.ite_of, implies_true, id_eq, *]
    | (with_reducible refine bump_canon _ _ _ ?_)
    | (with_reducible refine xbump_canon _ _ _ ?_)
    | (with_reducible refine updSlip_canon _ _ _ ?_)
    | (with_reducible refine updQueue_canon _ _ _ ?_)
    | (with_reducible refine progress_canon _ _ ?_)
    | (with_reducible refine maybeSend_canon _ _ ?_)
    | (with_reducible refine dropSlip_canon _ _ ?_)
    | (with_reducible refine settleHead_canon _ _ ?_)
    | (with_reducible refine dropClaim_canon _ _ ?_)
    | (with_reducible refine stopOnFault_canon _ _ ?_)
    | split
    | (with_reducible refine Canonical.forEach (fun _ _ _ => ?_) ?_)
    | (with_reducible refine Canonical.when (fun _ _ => ?_) ?_)

theorem forgetDecode_canon (q : Nat) (s : State) (hc : Canonical s) : Canonical (forgetDecode q s) :=
  Canonical.of_only (forgetDecode_only q s) (by decide) hc

theorem resumeQueue_canon (q : Nat) (s : State) (hc : Canonical s) : Canonical (resumeQueue q s) := by
  unfold resumeQueue
  repeat' first
    | with_reducible assumption
    | simp +contextual (maxDischargeDepth := 60) only [updQueue_canon, settleHead_canon, forgetDecode_canon, Canonical.mk_iff, Canonical.forEach, Canonical.when, Canonical.ite_of, implies_true, id_eq, *]
    | (with_reducible refine updQueue_canon _ _ _ ?_)
    | (with_reducible refine settleHead_canon _ _ ?_)
    | (with_reducible refine forgetDecode_canon _ _ ?_)
    | split
    | (with_reducible refine Canonical.forEach (fun _ _ _ => ?_) ?_)
    | (with_reducible refine Canonical.when (fun _ _ => ?_) ?_)

theorem skipQueue_canon (q : Nat) (s : State) (hc : Canonical s) : Canonical (skipQueue q s) := by
  unfold skipQueue
  repeat' first
    | with_reducible assumption
    | simp +contextual (maxDischargeDepth := 60) only [updQueue_canon, settleHead_canon, resumeQueue_canon, Canonical.mk_iff, Canonical.forEach, Canonical.when, Canonical.ite_of, implies_true, id_eq, *]
    | (with_reducible refine updQueue_canon _ _ _ ?_)
    | (with_reducible refine settleHead_canon _ _ ?_)
    | (with_reducible refine resumeQueue_canon _ _ ?_)
    | split
    | (with_reducible refine Canonical.forEach (fun _ _ _ => ?_) ?_)
    | (with_reducible refine Canonical.when (fun _ _ => ?_) ?_)

theorem flushQueue_canon (q : Nat) (s : State) (hc : Canonical s) : Canonical (flushQueue q s) := by
  unfold flushQueue
  repeat' first
    | with_reducible assumption
    | simp +contextual (maxDischargeDepth := 60) only [setRegF_canon, updQueue_canon, Canonical.mk_iff, Canonical.forEach, Canonical.when, Canonical.ite_of, implies_true, id_eq, *]
    | (with_reducible refine setRegF_canon _ _ _ _ _ ?_)
    | (with_reducible refine updQueue_canon _ _ _ ?_)
    | split
    | (with_reducible refine Canonical.forEach (fun _ _ _ => ?_) ?_)
    | (with_reducible refine Canonical.when (fun _ _ => ?_) ?_)

theorem pauseQueue_canon (q : Nat) (s : State) (hc : Canonical s) : Canonical (pauseQueue q s) :=
  Canonical.of_only (pauseQueue_only q s) (by decide) hc

theorem execSlipCommit_canon (a : BusAcc) (q : BitVec 6) (w : Word) (s : State) (s' : State) (h : execSlipCommit a q w s = .next s') (hc : Canonical s) : Canonical s' := by
  unfold execSlipCommit at h
  injection h with h
  subst h
  try dsimp only
  repeat' first
    | (with_reducible refine busWrite_canon _ _ _ _ (fun _ _ => ?_) ?_)
    | with_reducible assumption
    | simp +contextual (maxDischargeDepth := 60) only [commitSlip_canon, Canonical.mk_iff, Canonical.forEach, Canonical.when, Canonical.ite_of, implies_true, id_eq, *]
    | (with_reducible refine commitSlip_canon _ _ _ _ ?_)
    | split
    | (with_reducible refine Canonical.forEach (fun _ _ _ => ?_) ?_)
    | (with_reducible refine Canonical.when (fun _ _ => ?_) ?_)

theorem execFetchOrder_canon (q : BitVec 6) (s : State) (s' : State) (h : execFetchOrder q s = .next s') (hc : Canonical s) : Canonical s' :=
  (execFetchOrder_only q s s' h |> Canonical.of_only) (by decide) hc

theorem execSlipDecode_canon (q : BitVec 6) (s : State) (s' : State) (h : execSlipDecode q s = .next s') (hc : Canonical s) : Canonical s' := by
  unfold execSlipDecode at h
  injection h with h
  subst h
  try dsimp only
  repeat' first
    | with_reducible assumption
    | simp +contextual (maxDischargeDepth := 60) only [settleHead_canon, markDecoded_canon, Canonical.mk_iff, Canonical.forEach, Canonical.when, Canonical.ite_of, implies_true, id_eq, *]
    | (with_reducible refine settleHead_canon _ _ ?_)
    | (with_reducible refine markDecoded_canon _ _ _ _ ?_)
    | split
    | (with_reducible refine Canonical.forEach (fun _ _ _ => ?_) ?_)
    | (with_reducible refine Canonical.when (fun _ _ => ?_) ?_)

theorem execNop_canon (q : BitVec 6) (s : State) (s' : State) (h : execNop q s = .next s') (hc : Canonical s) : Canonical s' := by
  unfold execNop at h
  injection h with h
  subst h
  try dsimp only
  repeat' first
    | (with_reducible refine startWith_canon _ _ _ _ (fun _ _ _ => ?_) ?_)
    | with_reducible assumption
    | simp +contextual (maxDischargeDepth := 60) only [beginSlip_canon, endSlip_canon, Canonical.mk_iff, Canonical.forEach, Canonical.when, Canonical.ite_of, implies_true, id_eq, *]
    | (with_reducible refine beginSlip_canon _ _ ?_)
    | (with_reducible refine endSlip_canon _ _ ?_)
    | split
    | (with_reducible refine Canonical.forEach (fun _ _ _ => ?_) ?_)
    | (with_reducible refine Canonical.when (fun _ _ => ?_) ?_)

theorem execRead_canon (q : BitVec 6) (s : State) (s' : State) (h : execRead q s = .next s') (hc : Canonical s) : Canonical s' := by
  unfold execRead at h
  injection h with h
  subst h
  try dsimp only
  repeat' first
    | (with_reducible refine startWith_canon _ _ _ _ (fun _ _ _ => ?_) ?_)
    | with_reducible assumption
    | simp +contextual (maxDischargeDepth := 60) only [askSlots_canon, beginData_canon, Canonical.mk_iff, Canonical.forEach, Canonical.when, Canonical.ite_of, implies_true, id_eq, *]
    | (with_reducible refine askSlots_canon _ _ ?_)
    | (with_reducible refine beginData_canon _ _ _ ?_)
    | split
    | (with_reducible refine Canonical.forEach (fun _ _ _ => ?_) ?_)
    | (with_reducible refine Canonical.when (fun _ _ => ?_) ?_)

theorem execWrite_canon (q : BitVec 6) (s : State) (s' : State) (h : execWrite q s = .next s') (hc : Canonical s) : Canonical s' := by
  unfold execWrite at h
  injection h with h
  subst h
  try dsimp only
  repeat' first
    | (with_reducible refine startWith_canon _ _ _ _ (fun _ _ _ => ?_) ?_)
    | with_reducible assumption
    | simp +contextual (maxDischargeDepth := 60) only [askSlots_canon, beginData_canon, Canonical.mk_iff, Canonical.forEach, Canonical.when, Canonical.ite_of, implies_true, id_eq, *]
    | (with_reducible refine askSlots_canon _ _ ?_)
    | (with_reducible refine beginData_canon _ _ _ ?_)
    | split
    | (with_reducible refine Canonical.forEach (fun _ _ _ => ?_) ?_)
    | (with_reducible refine Canonical.when (fun _ _ => ?_) ?_)

theorem execMove_canon (q : BitVec 6) (s : State) (s' : State) (h : execMove q s = .next s') (hc : Canonical s) : Canonical s' := by
  unfold execMove at h
  injection h with h
  subst h
  try dsimp only
  repeat' first
    | (with_reducible refine startWith_canon _ _ _ _ (fun _ _ _ => ?_) ?_)
    | with_reducible assumption
    | simp +contextual (maxDischargeDepth := 60) only [askSlots_canon, beginData_canon, Canonical.mk_iff, Canonical.forEach, Canonical.when, Canonical.ite_of, implies_true, id_eq, *]
    | (with_reducible refine askSlots_canon _ _ ?_)
    | (with_reducible refine beginData_canon _ _ _ ?_)
    | split
    | (with_reducible refine Canonical.forEach (fun _ _ _ => ?_) ?_)
    | (with_reducible refine Canonical.when (fun _ _ => ?_) ?_)

theorem execHeld_canon (q : BitVec 6) (s : State) (s' : State) (h : execHeld q s = .next s') (hc : Canonical s) : Canonical s' := by
  unfold execHeld at h
  injection h with h
  subst h
  try dsimp only
  repeat' first
    | (with_reducible refine startWith_canon _ _ _ _ (fun _ _ _ => ?_) ?_)
    | with_reducible assumption
    | simp +contextual (maxDischargeDepth := 60) only [setReg_canon, beginData_canon, Canonical.mk_iff, Canonical.forEach, Canonical.when, Canonical.ite_of, implies_true, id_eq, *]
    | (with_reducible refine setReg_canon _ _ _ ?_)
    | (with_reducible refine beginData_canon _ _ _ ?_)
    | split
    | (with_reducible refine Canonical.forEach (fun _ _ _ => ?_) ?_)
    | (with_reducible refine Canonical.when (fun _ _ => ?_) ?_)

theorem execAtomic_canon (q : BitVec 6) (s : State) (s' : State) (h : execAtomic q s = .next s') (hc : Canonical s) : Canonical s' :=
  (execAtomic_only q s s' h |> Canonical.of_only) (by decide) hc

theorem execWait_canon (q : BitVec 6) (s : State) (s' : State) (h : execWait q s = .next s') (hc : Canonical s) : Canonical s' :=
  (execWait_only q s s' h |> Canonical.of_only) (by decide) hc

theorem execWaitReached_canon (q : BitVec 6) (s : State) (s' : State) (h : execWaitReached q s = .next s') (hc : Canonical s) : Canonical s' :=
  (execWaitReached_only q s s' h |> Canonical.of_only) (by decide) hc

theorem execSignal_canon (q : BitVec 6) (s : State) (s' : State) (h : execSignal q s = .next s') (hc : Canonical s) : Canonical s' := by
  unfold execSignal at h
  injection h with h
  subst h
  try dsimp only
  repeat' first
    | (with_reducible refine startWith_canon _ _ _ _ (fun _ _ _ => ?_) ?_)
    | with_reducible assumption
    | simp +contextual (maxDischargeDepth := 60) only [tallyAdd_canon, beginSlip_canon, endSlip_canon, Canonical.mk_iff, Canonical.forEach, Canonical.when, Canonical.ite_of, implies_true, id_eq, *]
    | (with_reducible refine tallyAdd_canon _ _ _ ?_)
    | (with_reducible refine beginSlip_canon _ _ ?_)
    | (with_reducible refine endSlip_canon _ _ ?_)
    | split
    | (with_reducible refine Canonical.forEach (fun _ _ _ => ?_) ?_)
    | (with_reducible refine Canonical.when (fun _ _ => ?_) ?_)

theorem execMark_canon (q : BitVec 6) (s : State) (s' : State) (h : execMark q s = .next s') (hc : Canonical s) : Canonical s' := by
  unfold execMark at h
  injection h with h
  subst h
  try dsimp only
  repeat' first
    | (with_reducible refine startWith_canon _ _ _ _ (fun _ _ _ => ?_) ?_)
    | with_reducible assumption
    | simp +contextual (maxDischargeDepth := 60) only [genRec_canon, traceTrigger_canon, beginSlip_canon, endSlip_canon, Canonical.mk_iff, Canonical.forEach, Canonical.when, Canonical.ite_of, implies_true, id_eq, *]
    | (with_reducible refine genRec_canon _ _ _ ?_)
    | (with_reducible refine traceTrigger_canon _ _ _ ?_)
    | (with_reducible refine beginSlip_canon _ _ ?_)
    | (with_reducible refine endSlip_canon _ _ ?_)
    | split
    | (with_reducible refine Canonical.forEach (fun _ _ _ => ?_) ?_)
    | (with_reducible refine Canonical.when (fun _ _ => ?_) ?_)

theorem execHint_canon (q : BitVec 6) (s : State) (s' : State) (h : execHint q s = .next s') (hc : Canonical s) : Canonical s' := by
  unfold execHint at h
  injection h with h
  subst h
  try dsimp only
  repeat' first
    | (with_reducible refine startWith_canon _ _ _ _ (fun _ _ _ => ?_) ?_)
    | with_reducible assumption
    | simp +contextual (maxDischargeDepth := 60) only [bump_canon, addHint_canon, beginSlip_canon, endSlip_canon, Canonical.mk_iff, Canonical.forEach, Canonical.when, Canonical.ite_of, implies_true, id_eq, *]
    | (with_reducible refine bump_canon _ _ _ ?_)
    | (with_reducible refine addHint_canon _ _ ?_)
    | (with_reducible refine beginSlip_canon _ _ ?_)
    | (with_reducible refine endSlip_canon _ _ ?_)
    | split
    | (with_reducible refine Canonical.forEach (fun _ _ _ => ?_) ?_)
    | (with_reducible refine Canonical.when (fun _ _ => ?_) ?_)

theorem execFence_canon (q : BitVec 6) (s : State) (s' : State) (h : execFence q s = .next s') (hc : Canonical s) : Canonical s' :=
  (execFence_only q s s' h |> Canonical.of_only) (by decide) hc

theorem execFenceMet_canon (q : BitVec 6) (s : State) (s' : State) (h : execFenceMet q s = .next s') (hc : Canonical s) : Canonical s' := by
  unfold execFenceMet at h
  injection h with h
  subst h
  try dsimp only
  repeat' first
    | with_reducible assumption
    | simp +contextual (maxDischargeDepth := 60) only [updSlip_canon, endSlip_canon, Canonical.mk_iff, Canonical.forEach, Canonical.when, Canonical.ite_of, implies_true, id_eq, *]
    | (with_reducible refine updSlip_canon _ _ _ ?_)
    | (with_reducible refine endSlip_canon _ _ ?_)
    | split
    | (with_reducible refine Canonical.forEach (fun _ _ _ => ?_) ?_)
    | (with_reducible refine Canonical.when (fun _ _ => ?_) ?_)

theorem execStep_canon (q : BitVec 6) (s : State) (s' : State) (h : execStep q s = .next s') (hc : Canonical s) : Canonical s' := by
  unfold execStep at h
  injection h with h
  subst h
  try dsimp only
  repeat' first
    | (with_reducible refine startWith_canon _ _ _ _ (fun _ _ _ => ?_) ?_)
    | with_reducible assumption
    | simp +contextual (maxDischargeDepth := 60) only [setReg_canon, genRec_canon, beginSlip_canon, endSlip_canon, Canonical.mk_iff, Canonical.forEach, Canonical.when, Canonical.ite_of, implies_true, id_eq, *]
    | (with_reducible refine setReg_canon _ _ _ ?_)
    | (with_reducible refine genRec_canon _ _ _ ?_)
    | (with_reducible refine beginSlip_canon _ _ ?_)
    | (with_reducible refine endSlip_canon _ _ ?_)
    | split
    | (with_reducible refine Canonical.forEach (fun _ _ _ => ?_) ?_)
    | (with_reducible refine Canonical.when (fun _ _ => ?_) ?_)

theorem execSlipEnd_canon (q : BitVec 6) (s : State) (s' : State) (h : execSlipEnd q s = .next s') (hc : Canonical s) : Canonical s' := by
  unfold execSlipEnd at h
  injection h with h
  subst h
  try dsimp only
  repeat' first
    | with_reducible assumption
    | simp +contextual (maxDischargeDepth := 60) only [endSlip_canon, Canonical.mk_iff, Canonical.forEach, Canonical.when, Canonical.ite_of, implies_true, id_eq, *]
    | (with_reducible refine endSlip_canon _ _ ?_)
    | split
    | (with_reducible refine Canonical.forEach (fun _ _ _ => ?_) ?_)
    | (with_reducible refine Canonical.when (fun _ _ => ?_) ?_)

theorem execQueueResume_canon (a : BusAcc) (q : BitVec 6) (s : State) (s' : State) (h : execQueueResume a q s = .next s') (hc : Canonical s) : Canonical s' := by
  unfold execQueueResume at h
  injection h with h
  subst h
  try dsimp only
  repeat' first
    | (with_reducible refine busWriteFor_canon _ _ _ _ _ (fun _ _ => ?_) ?_)
    | with_reducible assumption
    | simp +contextual (maxDischargeDepth := 60) only [resumeQueue_canon, Canonical.mk_iff, Canonical.forEach, Canonical.when, Canonical.ite_of, implies_true, id_eq, *]
    | (with_reducible refine resumeQueue_canon _ _ ?_)
    | split
    | (with_reducible refine Canonical.forEach (fun _ _ _ => ?_) ?_)
    | (with_reducible refine Canonical.when (fun _ _ => ?_) ?_)

theorem execQueueSkip_canon (a : BusAcc) (q : BitVec 6) (s : State) (s' : State) (h : execQueueSkip a q s = .next s') (hc : Canonical s) : Canonical s' := by
  unfold execQueueSkip at h
  injection h with h
  subst h
  try dsimp only
  repeat' first
    | (with_reducible refine busWriteFor_canon _ _ _ _ _ (fun _ _ => ?_) ?_)
    | with_reducible assumption
    | simp +contextual (maxDischargeDepth := 60) only [skipQueue_canon, Canonical.mk_iff, Canonical.forEach, Canonical.when, Canonical.ite_of, implies_true, id_eq, *]
    | (with_reducible refine skipQueue_canon _ _ ?_)
    | split
    | (with_reducible refine Canonical.forEach (fun _ _ _ => ?_) ?_)
    | (with_reducible refine Canonical.when (fun _ _ => ?_) ?_)

theorem execQueueFlush_canon (a : BusAcc) (q : BitVec 6) (s : State) (s' : State) (h : execQueueFlush a q s = .next s') (hc : Canonical s) : Canonical s' := by
  unfold execQueueFlush at h
  injection h with h
  subst h
  try dsimp only
  repeat' first
    | (with_reducible refine busWriteFor_canon _ _ _ _ _ (fun _ _ => ?_) ?_)
    | with_reducible assumption
    | simp +contextual (maxDischargeDepth := 60) only [flushQueue_canon, Canonical.mk_iff, Canonical.forEach, Canonical.when, Canonical.ite_of, implies_true, id_eq, *]
    | (with_reducible refine flushQueue_canon _ _ ?_)
    | split
    | (with_reducible refine Canonical.forEach (fun _ _ _ => ?_) ?_)
    | (with_reducible refine Canonical.when (fun _ _ => ?_) ?_)

theorem execQueuePause_canon (a : BusAcc) (q : BitVec 6) (s : State) (s' : State) (h : execQueuePause a q s = .next s') (hc : Canonical s) : Canonical s' := by
  unfold execQueuePause at h
  injection h with h
  subst h
  try dsimp only
  repeat' first
    | (with_reducible refine busWriteFor_canon _ _ _ _ _ (fun _ _ => ?_) ?_)
    | with_reducible assumption
    | simp +contextual (maxDischargeDepth := 60) only [pauseQueue_canon, Canonical.mk_iff, Canonical.forEach, Canonical.when, Canonical.ite_of, implies_true, id_eq, *]
    | (with_reducible refine pauseQueue_canon _ _ ?_)
    | split
    | (with_reducible refine Canonical.forEach (fun _ _ _ => ?_) ?_)
    | (with_reducible refine Canonical.when (fun _ _ => ?_) ?_)

theorem execTallyInc_canon (a : BusAcc) (t : BitVec 6) (s : State) (s' : State) (h : execTallyInc a t s = .next s') (hc : Canonical s) : Canonical s' := by
  unfold execTallyInc at h
  injection h with h
  subst h
  try dsimp only
  repeat' first
    | (with_reducible refine busWriteFor_canon _ _ _ _ _ (fun _ _ => ?_) ?_)
    | with_reducible assumption
    | simp +contextual (maxDischargeDepth := 60) only [tallyAdd_canon, Canonical.mk_iff, Canonical.forEach, Canonical.when, Canonical.ite_of, implies_true, id_eq, *]
    | (with_reducible refine tallyAdd_canon _ _ _ ?_)
    | split
    | (with_reducible refine Canonical.forEach (fun _ _ _ => ?_) ?_)
    | (with_reducible refine Canonical.when (fun _ _ => ?_) ?_)

theorem execTallyWrite_canon (a : BusAcc) (t : BitVec 6) (w : Word) (incs : Nat) (s : State) (s' : State) (h : execTallyWrite a t w incs s = .next s') (hc : Canonical s) : Canonical s' := by
  unfold execTallyWrite at h
  injection h with h
  subst h
  try dsimp only
  repeat' first
    | (with_reducible refine busWrite_canon _ _ _ _ (fun _ _ => ?_) ?_)
    | with_reducible assumption
    | simp +contextual (maxDischargeDepth := 60) only [setReg_canon, tallyAdd_canon, Canonical.mk_iff, Canonical.forEach, Canonical.when, Canonical.ite_of, implies_true, id_eq, *]
    | (with_reducible refine setReg_canon _ _ _ ?_)
    | (with_reducible refine tallyAdd_canon _ _ _ ?_)
    | split
    | (with_reducible refine Canonical.forEach (fun _ _ _ => ?_) ?_)
    | (with_reducible refine Canonical.when (fun _ _ => ?_) ?_)

end Sys2Proof.Machine
end

