-- ==== Sys2Proof/Laws/CanonHeld.lean ====
section
/-!
SUPPORT. Laws/CanonHeld.lean: the operations and commands of Machine/Held.lean keep memory, registers and counters in canonical form
(generated text, one lemma for each).
-/
namespace Sys2Proof.Machine

set_option linter.unusedSimpArgs false

theorem updHeld_canon (sid : Nat) (f : HeldEx → HeldEx) (s : State) (hc : Canonical s) : Canonical (updHeld sid f s) :=
  Canonical.of_only (updHeld_only sid f s) (by decide) hc

theorem freeHold_canon (x : Slip) (s : State) (hc : Canonical s) : Canonical (freeHold x s) := by
  unfold freeHold
  repeat' first
    | with_reducible assumption
    | simp +contextual (maxDischargeDepth := 60) only [setRegF_canon, updHeld_canon, Canonical.mk_iff, Canonical.forEach, Canonical.when, Canonical.ite_of, implies_true, id_eq, *]
    | (with_reducible refine setRegF_canon _ _ _ _ _ ?_)
    | (with_reducible refine updHeld_canon _ _ _ ?_)
    | split
    | (with_reducible refine Canonical.forEach (fun _ _ _ => ?_) ?_)
    | (with_reducible refine Canonical.when (fun _ _ => ?_) ?_)

theorem statParity_canon (row : Nat) (s : State) (hc : Canonical s) : Canonical (statParity row s) := by
  unfold statParity
  repeat' first
    | with_reducible assumption
    | simp +contextual (maxDischargeDepth := 60) only [bump_canon, raise_canon, fwdTrigger_canon, Canonical.mk_iff, Canonical.forEach, Canonical.when, Canonical.ite_of, implies_true, id_eq, *]
    | (with_reducible refine bump_canon _ _ _ ?_)
    | (with_reducible refine raise_canon _ _ ?_)
    | (with_reducible refine fwdTrigger_canon _ _ _ _ ?_)
    | split
    | (with_reducible refine Canonical.forEach (fun _ _ _ => ?_) ?_)
    | (with_reducible refine Canonical.when (fun _ _ => ?_) ?_)

theorem withdrawTrs_canon (p : Tr → Bool) (s : State) (hc : Canonical s) : Canonical (withdrawTrs p s) :=
  Canonical.of_only (withdrawTrs_only p s) (by decide) hc

theorem cancelWork_canon (q : Nat) (s : State) (hc : Canonical s) : Canonical (cancelWork q s) :=
  Canonical.of_only (cancelWork_only q s) (by decide) hc

theorem cancelHeld_canon (l : Nat) (w : Word) (s : State) (hc : Canonical s) : Canonical (cancelHeld l w s) := by
  unfold cancelHeld
  repeat' first
    | with_reducible assumption
    | simp +contextual (maxDischargeDepth := 60) only [orReg_canon, updSlip_canon, updHeld_canon, cancelWork_canon, Canonical.mk_iff, Canonical.forEach, Canonical.when, Canonical.ite_of, implies_true, id_eq, *]
    | (with_reducible refine orReg_canon _ _ _ ?_)
    | (with_reducible refine updSlip_canon _ _ _ ?_)
    | (with_reducible refine updHeld_canon _ _ _ ?_)
    | (with_reducible refine cancelWork_canon _ _ ?_)
    | split
    | (with_reducible refine Canonical.forEach (fun _ _ _ => ?_) ?_)
    | (with_reducible refine Canonical.when (fun _ _ => ?_) ?_)

theorem resumeCancels_canon (s : State) (hc : Canonical s) : Canonical (resumeCancels s) :=
  Canonical.of_only (resumeCancels_only s) (by decide) hc

theorem dropSlots_canon (x : Slip) (s : State) (hc : Canonical s) : Canonical (dropSlots x s) :=
  Canonical.of_only (dropSlots_only x s) (by decide) hc

theorem execBlendSlotAlloc_canon (s : State) (s' : State) (h : execBlendSlotAlloc s = .next s') (hc : Canonical s) : Canonical s' :=
  (execBlendSlotAlloc_only s s' h |> Canonical.of_only) (by decide) hc

theorem execVectorLoadDone_canon (q : BitVec 6) (s : State) (s' : State) (h : execVectorLoadDone q s = .next s') (hc : Canonical s) : Canonical s' :=
  (execVectorLoadDone_only q s s' h |> Canonical.of_only) (by decide) hc

theorem execHoldReservation_canon (s : State) (s' : State) (h : execHoldReservation s = .next s') (hc : Canonical s) : Canonical s' :=
  (execHoldReservation_only s s' h |> Canonical.of_only) (by decide) hc

theorem execTileAdmit_canon (q : BitVec 6) (s : State) (s' : State) (h : execTileAdmit q s = .next s') (hc : Canonical s) : Canonical s' :=
  (execTileAdmit_only q s s' h |> Canonical.of_only) (by decide) hc

theorem execTileRelease_canon (q : BitVec 6) (s : State) (s' : State) (h : execTileRelease q s = .next s') (hc : Canonical s) : Canonical s' := by
  unfold execTileRelease at h
  injection h with h
  subst h
  try dsimp only
  repeat' first
    | with_reducible assumption
    | simp +contextual (maxDischargeDepth := 60) only [tallyAdd_canon, updHeld_canon, Canonical.mk_iff, Canonical.forEach, Canonical.when, Canonical.ite_of, implies_true, id_eq, *]
    | (with_reducible refine tallyAdd_canon _ _ _ ?_)
    | (with_reducible refine updHeld_canon _ _ _ ?_)
    | split
    | (with_reducible refine Canonical.forEach (fun _ _ _ => ?_) ?_)
    | (with_reducible refine Canonical.when (fun _ _ => ?_) ?_)

theorem execStatsReady_canon (q : BitVec 6) (par : Bool) (s : State) (s' : State) (h : execStatsReady q par s = .next s') (hc : Canonical s) : Canonical s' := by
  unfold execStatsReady at h
  injection h with h
  subst h
  try dsimp only
  repeat' first
    | with_reducible assumption
    | simp +contextual (maxDischargeDepth := 60) only [addTr_canon, askSlots_canon, updHeld_canon, statParity_canon, Canonical.mk_iff, Canonical.forEach, Canonical.when, Canonical.ite_of, implies_true, id_eq, *]
    | (with_reducible refine addTr_canon _ _ ?_)
    | (with_reducible refine askSlots_canon _ _ ?_)
    | (with_reducible refine updHeld_canon _ _ _ ?_)
    | (with_reducible refine statParity_canon _ _ ?_)
    | split
    | (with_reducible refine Canonical.forEach (fun _ _ _ => ?_) ?_)
    | (with_reducible refine Canonical.when (fun _ _ => ?_) ?_)

theorem execRedeliveryStart_canon (q : BitVec 6) (s : State) (s' : State) (h : execRedeliveryStart q s = .next s') (hc : Canonical s) : Canonical s' :=
  (execRedeliveryStart_only q s s' h |> Canonical.of_only) (by decide) hc

theorem execHoldRelease_canon (q : BitVec 6) (s : State) (s' : State) (h : execHoldRelease q s = .next s') (hc : Canonical s) : Canonical s' := by
  unfold execHoldRelease at h
  injection h with h
  subst h
  try dsimp only
  repeat' first
    | with_reducible assumption
    | simp +contextual (maxDischargeDepth := 60) only [freeHold_canon, Canonical.mk_iff, Canonical.forEach, Canonical.when, Canonical.ite_of, implies_true, id_eq, *]
    | (with_reducible refine freeHold_canon _ _ ?_)
    | split
    | (with_reducible refine Canonical.forEach (fun _ _ _ => ?_) ?_)
    | (with_reducible refine Canonical.when (fun _ _ => ?_) ?_)

theorem execHeldCancel_canon (a : BusAcc) (w : Word) (s : State) (s' : State) (h : execHeldCancel a w s = .next s') (hc : Canonical s) : Canonical s' := by
  unfold execHeldCancel at h
  injection h with h
  subst h
  try dsimp only
  repeat' first
    | (with_reducible refine busWrite_canon _ _ _ _ (fun _ _ => ?_) ?_)
    | with_reducible assumption
    | simp +contextual (maxDischargeDepth := 60) only [cancelHeld_canon, Canonical.mk_iff, Canonical.forEach, Canonical.when, Canonical.ite_of, implies_true, id_eq, *]
    | (with_reducible refine cancelHeld_canon _ _ _ ?_)
    | split
    | (with_reducible refine Canonical.forEach (fun _ _ _ => ?_) ?_)
    | (with_reducible refine Canonical.when (fun _ _ => ?_) ?_)

theorem execHeldCancelEnd_canon (q : BitVec 6) (s : State) (s' : State) (h : execHeldCancelEnd q s = .next s') (hc : Canonical s) : Canonical s' := by
  unfold execHeldCancelEnd at h
  injection h with h
  subst h
  try dsimp only
  repeat' first
    | with_reducible assumption
    | simp +contextual (maxDischargeDepth := 60) only [raise_canon, updSlip_canon, tallyAdd_canon, slipLog_canon, endSlip_canon, freeHold_canon, dropSlots_canon, Canonical.mk_iff, Canonical.forEach, Canonical.when, Canonical.ite_of, implies_true, id_eq, *]
    | (with_reducible refine raise_canon _ _ ?_)
    | (with_reducible refine updSlip_canon _ _ _ ?_)
    | (with_reducible refine tallyAdd_canon _ _ _ ?_)
    | (with_reducible refine slipLog_canon _ _ _ _ _ _ ?_)
    | (with_reducible refine endSlip_canon _ _ ?_)
    | (with_reducible refine freeHold_canon _ _ ?_)
    | (with_reducible refine dropSlots_canon _ _ ?_)
    | split
    | (with_reducible refine Canonical.forEach (fun _ _ _ => ?_) ?_)
    | (with_reducible refine Canonical.when (fun _ _ => ?_) ?_)

end Sys2Proof.Machine
end

