-- ==== Sys2Proof/Laws/CanonRdx.lean ====
section
/-!
SUPPORT. Laws/CanonRdx.lean: the operations and commands of Machine/Rdx.lean keep memory, registers and counters in canonical form
(generated text, one lemma for each).
-/
namespace Sys2Proof.Machine

set_option linter.unusedSimpArgs false

theorem addOp_canon (o : ROp) (s : State) (hc : Canonical s) : Canonical (addOp o s) :=
  Canonical.of_only (addOp_only o s) (by decide) hc

theorem setOp_canon (o : ROp) (s : State) (hc : Canonical s) : Canonical (setOp o s) :=
  Canonical.of_only (setOp_only o s) (by decide) hc

theorem dropOp_canon (id : Nat) (s : State) (hc : Canonical s) : Canonical (dropOp id s) :=
  Canonical.of_only (dropOp_only id s) (by decide) hc

theorem askRead_canon (p : Nat) (s : State) (hc : Canonical s) : Canonical (askRead p s) :=
  Canonical.of_only (askRead_only p s) (by decide) hc

theorem askWrite_canon (p : Nat) (s : State) (hc : Canonical s) : Canonical (askWrite p s) :=
  Canonical.of_only (askWrite_only p s) (by decide) hc

theorem askRows_canon (s : State) (hc : Canonical s) : Canonical (askRows s) :=
  Canonical.of_only (askRows_only s) (by decide) hc

theorem opFault_canon (id : Nat) (s : State) (hc : Canonical s) : Canonical (opFault id s) :=
  Canonical.of_only (opFault_only id s) (by decide) hc

theorem askG_canon (b : Nat) (s : State) (hc : Canonical s) : Canonical (askG b s) :=
  Canonical.of_only (askG_only b s) (by decide) hc

theorem skipUpdate_canon (b : Nat) (s : State) (hc : Canonical s) : Canonical (skipUpdate b s) := by
  unfold skipUpdate
  repeat' first
    | with_reducible assumption
    | simp +contextual (maxDischargeDepth := 60) only [raise_canon, updBkt_canon, Canonical.mk_iff, Canonical.forEach, Canonical.when, Canonical.ite_of, implies_true, id_eq, *]
    | (with_reducible refine raise_canon _ _ ?_)
    | (with_reducible refine updBkt_canon _ _ _ ?_)
    | split
    | (with_reducible refine Canonical.forEach (fun _ _ _ => ?_) ?_)
    | (with_reducible refine Canonical.when (fun _ _ => ?_) ?_)

theorem bktDone_canon (b : Nat) (s : State) (hc : Canonical s) : Canonical (bktDone b s) := by
  unfold bktDone
  repeat' first
    | with_reducible assumption
    | simp +contextual (maxDischargeDepth := 60) only [updBkt_canon, tallyAdd_canon, Canonical.mk_iff, Canonical.forEach, Canonical.when, Canonical.ite_of, implies_true, id_eq, *]
    | (with_reducible refine updBkt_canon _ _ _ ?_)
    | (with_reducible refine tallyAdd_canon _ _ _ ?_)
    | split
    | (with_reducible refine Canonical.forEach (fun _ _ _ => ?_) ?_)
    | (with_reducible refine Canonical.when (fun _ _ => ?_) ?_)

theorem openGate_canon (b : Nat) (s : State) (hc : Canonical s) : Canonical (openGate b s) := by
  unfold openGate
  repeat' first
    | with_reducible assumption
    | simp +contextual (maxDischargeDepth := 60) only [updBkt_canon, askG_canon, skipUpdate_canon, Canonical.mk_iff, Canonical.forEach, Canonical.when, Canonical.ite_of, implies_true, id_eq, *]
    | (with_reducible refine updBkt_canon _ _ _ ?_)
    | (with_reducible refine askG_canon _ _ ?_)
    | (with_reducible refine skipUpdate_canon _ _ ?_)
    | split
    | (with_reducible refine Canonical.forEach (fun _ _ _ => ?_) ?_)
    | (with_reducible refine Canonical.when (fun _ _ => ?_) ?_)

theorem gotG_canon (o : ROp) (s : State) (hc : Canonical s) : Canonical (gotG o s) := by
  unfold gotG
  repeat' first
    | with_reducible assumption
    | simp +contextual (maxDischargeDepth := 60) only [updBkt_canon, skipUpdate_canon, Canonical.mk_iff, Canonical.forEach, Canonical.when, Canonical.ite_of, implies_true, id_eq, *]
    | (with_reducible refine updBkt_canon _ _ _ ?_)
    | (with_reducible refine skipUpdate_canon _ _ ?_)
    | split
    | (with_reducible refine Canonical.forEach (fun _ _ _ => ?_) ?_)
    | (with_reducible refine Canonical.when (fun _ _ => ?_) ?_)

theorem settleBucket_canon (b : Nat) (s : State) (hc : Canonical s) : Canonical (settleBucket b s) := by
  unfold settleBucket
  repeat' first
    | with_reducible assumption
    | simp +contextual (maxDischargeDepth := 60) only [bktDone_canon, openGate_canon, Canonical.mk_iff, Canonical.forEach, Canonical.when, Canonical.ite_of, implies_true, id_eq, *]
    | (with_reducible refine bktDone_canon _ _ ?_)
    | (with_reducible refine openGate_canon _ _ ?_)
    | split
    | (with_reducible refine Canonical.forEach (fun _ _ _ => ?_) ?_)
    | (with_reducible refine Canonical.when (fun _ _ => ?_) ?_)

theorem settleBuckets_canon (s : State) (hc : Canonical s) : Canonical (settleBuckets s) := by
  unfold settleBuckets
  repeat' first
    | with_reducible assumption
    | simp +contextual (maxDischargeDepth := 60) only [settleBucket_canon, Canonical.mk_iff, Canonical.forEach, Canonical.when, Canonical.ite_of, implies_true, id_eq, *]
    | (with_reducible refine settleBucket_canon _ _ ?_)
    | split
    | (with_reducible refine Canonical.forEach (fun _ _ _ => ?_) ?_)
    | (with_reducible refine Canonical.when (fun _ _ => ?_) ?_)

theorem dropFlit_canon (reason : Nat) (f : RFlit) (s : State) (hc : Canonical s) : Canonical (dropFlit reason f s) := by
  unfold dropFlit
  repeat' first
    | with_reducible assumption
    | simp +contextual (maxDischargeDepth := 60) only [bump_canon, raise_canon, fillLog_canon, Canonical.mk_iff, Canonical.forEach, Canonical.when, Canonical.ite_of, implies_true, id_eq, *]
    | (with_reducible refine bump_canon _ _ _ ?_)
    | (with_reducible refine raise_canon _ _ ?_)
    | (with_reducible refine fillLog_canon _ _ _ _ ?_)
    | split
    | (with_reducible refine Canonical.forEach (fun _ _ _ => ?_) ?_)
    | (with_reducible refine Canonical.when (fun _ _ => ?_) ?_)

theorem freeSlot_canon (v : Nat) (s : State) (hc : Canonical s) : Canonical (freeSlot v s) :=
  Canonical.of_only (freeSlot_only v s) (by decide) hc

theorem takeIn_canon (lane : Bool) (data : Row) (sb : Nat) (s : State) (hc : Canonical s) : Canonical (takeIn lane data sb s) := by
  unfold takeIn
  repeat' first
    | with_reducible assumption
    | simp +contextual (maxDischargeDepth := 60) only [dropFlit_canon, freeSlot_canon, Canonical.mk_iff, Canonical.forEach, Canonical.when, Canonical.ite_of, implies_true, id_eq, *]
    | (with_reducible refine dropFlit_canon _ _ _ ?_)
    | (with_reducible refine freeSlot_canon _ _ ?_)
    | split
    | (with_reducible refine Canonical.forEach (fun _ _ _ => ?_) ?_)
    | (with_reducible refine Canonical.when (fun _ _ => ?_) ?_)

theorem holeFreed_canon (v : Nat) (s : State) (hc : Canonical s) : Canonical (holeFreed v s) :=
  Canonical.of_only (holeFreed_only v s) (by decide) hc

theorem flitReduced_canon (b flit : Nat) (x : Partial) (s : State) (hc : Canonical s) : Canonical (flitReduced b flit x s) := by
  unfold flitReduced
  repeat' first
    | with_reducible assumption
    | simp +contextual (maxDischargeDepth := 60) only [raise_canon, updBkt_canon, addOp_canon, settleBuckets_canon, Canonical.mk_iff, Canonical.forEach, Canonical.when, Canonical.ite_of, implies_true, id_eq, *]
    | (with_reducible refine raise_canon _ _ ?_)
    | (with_reducible refine updBkt_canon _ _ _ ?_)
    | (with_reducible refine addOp_canon _ _ ?_)
    | (with_reducible refine settleBuckets_canon _ ?_)
    | split
    | (with_reducible refine Canonical.forEach (fun _ _ _ => ?_) ?_)
    | (with_reducible refine Canonical.when (fun _ _ => ?_) ?_)

theorem halfTaken_canon (f : RFlit) (half : Nat) (s : State) (hc : Canonical s) : Canonical (halfTaken f half s) :=
  Canonical.of_only (halfTaken_only f half s) (by decide) hc

theorem dropDup_canon (f : RFlit) (s : State) (hc : Canonical s) : Canonical (dropDup f s) := by
  unfold dropDup
  repeat' first
    | with_reducible assumption
    | simp +contextual (maxDischargeDepth := 60) only [updBkt_canon, dropFlit_canon, Canonical.mk_iff, Canonical.forEach, Canonical.when, Canonical.ite_of, implies_true, id_eq, *]
    | (with_reducible refine updBkt_canon _ _ _ ?_)
    | (with_reducible refine dropFlit_canon _ _ _ ?_)
    | split
    | (with_reducible refine Canonical.forEach (fun _ _ _ => ?_) ?_)
    | (with_reducible refine Canonical.when (fun _ _ => ?_) ?_)

theorem combineHalf_canon (f : RFlit) (half : Nat) (s : State) (hc : Canonical s) : Canonical (combineHalf f half s) :=
  Canonical.of_only (combineHalf_only f half s) (by decide) hc

theorem baddrAdvance_canon (l : Nat) (s : State) (hc : Canonical s) : Canonical (baddrAdvance l s) :=
  Canonical.of_only (baddrAdvance_only l s) (by decide) hc

theorem writeBdata_canon (l : Nat) (w : Word) (s : State) (hc : Canonical s) : Canonical (writeBdata l w s) := by
  unfold writeBdata
  repeat' first
    | with_reducible assumption
    | simp +contextual (maxDischargeDepth := 60) only [orReg_canon, baddrAdvance_canon, Canonical.mk_iff, Canonical.forEach, Canonical.when, Canonical.ite_of, implies_true, id_eq, *]
    | (with_reducible refine orReg_canon _ _ _ ?_)
    | (with_reducible refine baddrAdvance_canon _ _ ?_)
    | split
    | (with_reducible refine Canonical.forEach (fun _ _ _ => ?_) ?_)
    | (with_reducible refine Canonical.when (fun _ _ => ?_) ?_)

theorem refuseBkt_canon (b reason : Nat) (s : State) (hc : Canonical s) : Canonical (refuseBkt b reason s) := by
  unfold refuseBkt
  repeat' first
    | with_reducible assumption
    | simp +contextual (maxDischargeDepth := 60) only [setReg_canon, Canonical.mk_iff, Canonical.forEach, Canonical.when, Canonical.ite_of, implies_true, id_eq, *]
    | (with_reducible refine setReg_canon _ _ _ ?_)
    | split
    | (with_reducible refine Canonical.forEach (fun _ _ _ => ?_) ?_)
    | (with_reducible refine Canonical.when (fun _ _ => ?_) ?_)

theorem armBucket_canon (l b : Nat) (s : State) (hc : Canonical s) : Canonical (armBucket l b s) := by
  unfold armBucket
  repeat' first
    | with_reducible assumption
    | simp +contextual (maxDischargeDepth := 60) only [setBkt_canon, refuseBkt_canon, Canonical.mk_iff, Canonical.forEach, Canonical.when, Canonical.ite_of, implies_true, id_eq, *]
    | (with_reducible refine setBkt_canon _ _ _ ?_)
    | (with_reducible refine refuseBkt_canon _ _ _ ?_)
    | split
    | (with_reducible refine Canonical.forEach (fun _ _ _ => ?_) ?_)
    | (with_reducible refine Canonical.when (fun _ _ => ?_) ?_)

theorem setNg_canon (g : Nat) (x : NGrp) (s : State) (hc : Canonical s) : Canonical (setNg g x s) :=
  Canonical.of_only (setNg_only g x s) (by decide) hc

theorem dropBucket_canon (b : Nat) (s : State) (hc : Canonical s) : Canonical (dropBucket b s) := by
  unfold dropBucket
  repeat' first
    | with_reducible assumption
    | simp +contextual (maxDischargeDepth := 60) only [raise_canon, dropJobs_canon, updBkt_canon, dropFlit_canon, freeSlot_canon, holeFreed_canon, setNg_canon, Canonical.mk_iff, Canonical.forEach, Canonical.when, Canonical.ite_of, implies_true, id_eq, *]
    | (with_reducible refine raise_canon _ _ ?_)
    | (with_reducible refine dropJobs_canon _ _ ?_)
    | (with_reducible refine updBkt_canon _ _ _ ?_)
    | (with_reducible refine dropFlit_canon _ _ _ ?_)
    | (with_reducible refine freeSlot_canon _ _ ?_)
    | (with_reducible refine holeFreed_canon _ _ ?_)
    | (with_reducible refine setNg_canon _ _ _ ?_)
    | split
    | (with_reducible refine Canonical.forEach (fun _ _ _ => ?_) ?_)
    | (with_reducible refine Canonical.when (fun _ _ => ?_) ?_)

theorem abortBucket_canon (l b : Nat) (s : State) (hc : Canonical s) : Canonical (abortBucket l b s) := by
  unfold abortBucket
  repeat' first
    | with_reducible assumption
    | simp +contextual (maxDischargeDepth := 60) only [refuseBkt_canon, dropBucket_canon, Canonical.mk_iff, Canonical.forEach, Canonical.when, Canonical.ite_of, implies_true, id_eq, *]
    | (with_reducible refine refuseBkt_canon _ _ _ ?_)
    | (with_reducible refine dropBucket_canon _ _ ?_)
    | split
    | (with_reducible refine Canonical.forEach (fun _ _ _ => ?_) ?_)
    | (with_reducible refine Canonical.when (fun _ _ => ?_) ?_)

theorem finishGroup_canon (g : Nat) (s : State) (hc : Canonical s) : Canonical (finishGroup g s) :=
  Canonical.of_only (finishGroup_only g s) (by decide) hc

theorem groupWritten_canon (g : Nat) (s : State) (hc : Canonical s) : Canonical (groupWritten g s) := by
  unfold groupWritten
  repeat' first
    | with_reducible assumption
    | simp +contextual (maxDischargeDepth := 60) only [tallyAdd_canon, Canonical.mk_iff, Canonical.forEach, Canonical.when, Canonical.ite_of, implies_true, id_eq, *]
    | (with_reducible refine tallyAdd_canon _ _ _ ?_)
    | split
    | (with_reducible refine Canonical.forEach (fun _ _ _ => ?_) ?_)
    | (with_reducible refine Canonical.when (fun _ _ => ?_) ?_)

theorem joinGroup_canon (b : Nat) (q : Nat × Bool) (s : State) (hc : Canonical s) : Canonical (joinGroup b q s) :=
  Canonical.of_only (joinGroup_only b q s) (by decide) hc

theorem writeNgctl_canon (g : Nat) (w : Word) (s : State) (hc : Canonical s) : Canonical (writeNgctl g w s) := by
  unfold writeNgctl
  repeat' first
    | with_reducible assumption
    | simp +contextual (maxDischargeDepth := 60) only [setReg_canon, setNg_canon, Canonical.mk_iff, Canonical.forEach, Canonical.when, Canonical.ite_of, implies_true, id_eq, *]
    | (with_reducible refine setReg_canon _ _ _ ?_)
    | (with_reducible refine setNg_canon _ _ _ ?_)
    | split
    | (with_reducible refine Canonical.forEach (fun _ _ _ => ?_) ?_)
    | (with_reducible refine Canonical.when (fun _ _ => ?_) ?_)

theorem readsDone_canon (o : ROp) (s : State) (hc : Canonical s) : Canonical (readsDone o s) := by
  unfold readsDone
  repeat' first
    | with_reducible assumption
    | simp +contextual (maxDischargeDepth := 60) only [xbump_canon, estimate_canon, setOp_canon, dropOp_canon, gotG_canon, settleBuckets_canon, Canonical.mk_iff, Canonical.forEach, Canonical.when, Canonical.ite_of, implies_true, id_eq, *]
    | (with_reducible refine xbump_canon _ _ _ ?_)
    | (with_reducible refine estimate_canon _ _ _ ?_)
    | (with_reducible refine setOp_canon _ _ ?_)
    | (with_reducible refine dropOp_canon _ _ ?_)
    | (with_reducible refine gotG_canon _ _ ?_)
    | (with_reducible refine settleBuckets_canon _ ?_)
    | split
    | (with_reducible refine Canonical.forEach (fun _ _ _ => ?_) ?_)
    | (with_reducible refine Canonical.when (fun _ _ => ?_) ?_)

theorem takePartial_canon (o : ROp) (i : Nat) (s : State) (hc : Canonical s) : Canonical (takePartial o i s).2 :=
  Canonical.of_only (takePartial_only o i s) (by decide) hc

theorem opRead_canon (id i : Nat) (r : Row × Mask4) (s : State) (hc : Canonical s) : Canonical (opRead id i r s) := by
  unfold opRead
  repeat' first
    | with_reducible assumption
    | simp +contextual (maxDischargeDepth := 60) only [setOp_canon, readsDone_canon, takePartial_canon, Canonical.mk_iff, Canonical.forEach, Canonical.when, Canonical.ite_of, implies_true, id_eq, *]
    | (refine Canonical.snd (by assumption) (takePartial_canon _ _ _ ?_))
    | (with_reducible refine setOp_canon _ _ ?_)
    | (with_reducible refine readsDone_canon _ _ ?_)
    | (with_reducible refine takePartial_canon _ _ _ ?_)
    | split
    | (with_reducible refine Canonical.forEach (fun _ _ _ => ?_) ?_)
    | (with_reducible refine Canonical.when (fun _ _ => ?_) ?_)

theorem parkedAt_canon (o : ROp) (c : Nat) (s : State) (hc : Canonical s) : Canonical (parkedAt o c s) :=
  Canonical.of_only (parkedAt_only o c s) (by decide) hc

theorem opWritten_canon (id c : Nat) (s : State) (hc : Canonical s) : Canonical (opWritten id c s) := by
  unfold opWritten
  repeat' first
    | with_reducible assumption
    | simp +contextual (maxDischargeDepth := 60) only [updBkt_canon, setOp_canon, dropOp_canon, settleBuckets_canon, flitReduced_canon, groupWritten_canon, parkedAt_canon, Canonical.mk_iff, Canonical.forEach, Canonical.when, Canonical.ite_of, implies_true, id_eq, *]
    | (with_reducible refine updBkt_canon _ _ _ ?_)
    | (with_reducible refine setOp_canon _ _ ?_)
    | (with_reducible refine dropOp_canon _ _ ?_)
    | (with_reducible refine settleBuckets_canon _ ?_)
    | (with_reducible refine flitReduced_canon _ _ _ _ ?_)
    | (with_reducible refine groupWritten_canon _ _ ?_)
    | (with_reducible refine parkedAt_canon _ _ _ ?_)
    | split
    | (with_reducible refine Canonical.forEach (fun _ _ _ => ?_) ?_)
    | (with_reducible refine Canonical.when (fun _ _ => ?_) ?_)

theorem sendResult_canon (b f : Nat) (s : State) (hc : Canonical s) : Canonical (sendResult b f s) :=
  Canonical.of_only (sendResult_only b f s) (by decide) hc

theorem resultDelivered_canon (rsb : Word) (use : Nat) (s : State) (hc : Canonical s) : Canonical (resultDelivered rsb use s) := by
  unfold resultDelivered
  repeat' first
    | with_reducible assumption
    | simp +contextual (maxDischargeDepth := 60) only [updBkt_canon, settleBuckets_canon, Canonical.mk_iff, Canonical.forEach, Canonical.when, Canonical.ite_of, implies_true, id_eq, *]
    | (with_reducible refine updBkt_canon _ _ _ ?_)
    | (with_reducible refine settleBuckets_canon _ ?_)
    | split
    | (with_reducible refine Canonical.forEach (fun _ _ _ => ?_) ?_)
    | (with_reducible refine Canonical.when (fun _ _ => ?_) ?_)

theorem execLandingToDcq_canon (lane : Nat) (s : State) (s' : State) (h : execLandingToDcq lane s = .next s') (hc : Canonical s) : Canonical s' := by
  unfold execLandingToDcq at h
  injection h with h
  subst h
  try dsimp only
  repeat' first
    | with_reducible assumption
    | simp +contextual (maxDischargeDepth := 60) only [estimate_canon, updSlip_canon, updRlane_canon, progress_canon, sealFlit_canon, resultDelivered_canon, Canonical.mk_iff, Canonical.forEach, Canonical.when, Canonical.ite_of, implies_true, id_eq, *]
    | (refine Canonical.snd (by assumption) (sealFlit_canon _ _ _ ?_))
    | (with_reducible refine estimate_canon _ _ _ ?_)
    | (with_reducible refine updSlip_canon _ _ _ ?_)
    | (with_reducible refine updRlane_canon _ _ _ ?_)
    | (with_reducible refine progress_canon _ _ ?_)
    | (with_reducible refine sealFlit_canon _ _ _ ?_)
    | (with_reducible refine resultDelivered_canon _ _ _ ?_)
    | split
    | (with_reducible refine Canonical.forEach (fun _ _ _ => ?_) ?_)
    | (with_reducible refine Canonical.when (fun _ _ => ?_) ?_)

theorem execIntakeFlit_canon (lane : Bool) (s : State) (s' : State) (h : execIntakeFlit lane s = .next s') (hc : Canonical s) : Canonical s' := by
  unfold execIntakeFlit at h
  injection h with h
  subst h
  try dsimp only
  repeat' first
    | with_reducible assumption
    | simp +contextual (maxDischargeDepth := 60) only [popWdcq_canon, takeIn_canon, Canonical.mk_iff, Canonical.forEach, Canonical.when, Canonical.ite_of, implies_true, id_eq, *]
    | (with_reducible refine popWdcq_canon _ _ ?_)
    | (with_reducible refine takeIn_canon _ _ _ _ ?_)
    | split
    | (with_reducible refine Canonical.forEach (fun _ _ _ => ?_) ?_)
    | (with_reducible refine Canonical.when (fun _ _ => ?_) ?_)

theorem execCombine_canon (vc : BitVec 4) (s : State) (s' : State) (h : execCombine vc s = .next s') (hc : Canonical s) : Canonical s' := by
  unfold execCombine at h
  injection h with h
  subst h
  try dsimp only
  repeat' first
    | with_reducible assumption
    | simp +contextual (maxDischargeDepth := 60) only [xbump_canon, halfTaken_canon, dropDup_canon, combineHalf_canon, Canonical.mk_iff, Canonical.forEach, Canonical.when, Canonical.ite_of, implies_true, id_eq, *]
    | (with_reducible refine xbump_canon _ _ _ ?_)
    | (with_reducible refine halfTaken_canon _ _ _ ?_)
    | (with_reducible refine dropDup_canon _ _ ?_)
    | (with_reducible refine combineHalf_canon _ _ _ ?_)
    | split
    | (with_reducible refine Canonical.forEach (fun _ _ _ => ?_) ?_)
    | (with_reducible refine Canonical.when (fun _ _ => ?_) ?_)

theorem execVcCreditReturn_canon (vc : BitVec 4) (s : State) (s' : State) (h : execVcCreditReturn vc s = .next s') (hc : Canonical s) : Canonical s' :=
  (execVcCreditReturn_only vc s s' h |> Canonical.of_only) (by decide) hc

theorem execEgressCreditReturn_canon (vc : BitVec 4) (count : BitVec 8) (s : State) (s' : State) (h : execEgressCreditReturn vc count s = .next s') (hc : Canonical s) : Canonical s' := by
  unfold execEgressCreditReturn at h
  injection h with h
  subst h
  try dsimp only
  repeat' first
    | with_reducible assumption
    | simp +contextual (maxDischargeDepth := 60) only [bump_canon, raise_canon, Canonical.mk_iff, Canonical.forEach, Canonical.when, Canonical.ite_of, implies_true, id_eq, *]
    | (with_reducible refine bump_canon _ _ _ ?_)
    | (with_reducible refine raise_canon _ _ ?_)
    | split
    | (with_reducible refine Canonical.forEach (fun _ _ _ => ?_) ?_)
    | (with_reducible refine Canonical.when (fun _ _ => ?_) ?_)

theorem execBdataWrite_canon (a : BusAcc) (w : Word) (s : State) (s' : State) (h : execBdataWrite a w s = .next s') (hc : Canonical s) : Canonical s' := by
  unfold execBdataWrite at h
  injection h with h
  subst h
  try dsimp only
  repeat' first
    | (with_reducible refine busWrite_canon _ _ _ _ (fun _ _ => ?_) ?_)
    | with_reducible assumption
    | simp +contextual (maxDischargeDepth := 60) only [writeBdata_canon, Canonical.mk_iff, Canonical.forEach, Canonical.when, Canonical.ite_of, implies_true, id_eq, *]
    | (with_reducible refine writeBdata_canon _ _ _ ?_)
    | split
    | (with_reducible refine Canonical.forEach (fun _ _ _ => ?_) ?_)
    | (with_reducible refine Canonical.when (fun _ _ => ?_) ?_)

theorem execBdataRead_canon (a : BusAcc) (s : State) (s' : State) (h : execBdataRead a s = .next s') (hc : Canonical s) : Canonical s' := by
  unfold execBdataRead at h
  injection h with h
  subst h
  try dsimp only
  repeat' first
    | (with_reducible refine busRead_canon _ _ _ _ (fun _ _ => ?_) ?_)
    | with_reducible assumption
    | simp +contextual (maxDischargeDepth := 60) only [baddrAdvance_canon, Canonical.mk_iff, Canonical.forEach, Canonical.when, Canonical.ite_of, implies_true, id_eq, *]
    | (with_reducible refine baddrAdvance_canon _ _ ?_)
    | split
    | (with_reducible refine Canonical.forEach (fun _ _ _ => ?_) ?_)
    | (with_reducible refine Canonical.when (fun _ _ => ?_) ?_)

theorem execArm_canon (a : BusAcc) (bucket : BitVec 6) (s : State) (s' : State) (h : execArm a bucket s = .next s') (hc : Canonical s) : Canonical s' := by
  unfold execArm at h
  injection h with h
  subst h
  try dsimp only
  repeat' first
    | (with_reducible refine busWrite_canon _ _ _ _ (fun _ _ => ?_) ?_)
    | with_reducible assumption
    | simp +contextual (maxDischargeDepth := 60) only [armBucket_canon, Canonical.mk_iff, Canonical.forEach, Canonical.when, Canonical.ite_of, implies_true, id_eq, *]
    | (with_reducible refine armBucket_canon _ _ _ ?_)
    | split
    | (with_reducible refine Canonical.forEach (fun _ _ _ => ?_) ?_)
    | (with_reducible refine Canonical.when (fun _ _ => ?_) ?_)

theorem execAbort_canon (a : BusAcc) (bucket : BitVec 6) (s : State) (s' : State) (h : execAbort a bucket s = .next s') (hc : Canonical s) : Canonical s' := by
  unfold execAbort at h
  injection h with h
  subst h
  try dsimp only
  repeat' first
    | (with_reducible refine busWrite_canon _ _ _ _ (fun _ _ => ?_) ?_)
    | with_reducible assumption
    | simp +contextual (maxDischargeDepth := 60) only [abortBucket_canon, Canonical.mk_iff, Canonical.forEach, Canonical.when, Canonical.ite_of, implies_true, id_eq, *]
    | (with_reducible refine abortBucket_canon _ _ _ ?_)
    | split
    | (with_reducible refine Canonical.forEach (fun _ _ _ => ?_) ?_)
    | (with_reducible refine Canonical.when (fun _ _ => ?_) ?_)

theorem execNormPassEnd_canon (bucket : BitVec 6) (s : State) (s' : State) (h : execNormPassEnd bucket s = .next s') (hc : Canonical s) : Canonical s' := by
  unfold execNormPassEnd at h
  injection h with h
  subst h
  try dsimp only
  repeat' first
    | with_reducible assumption
    | simp +contextual (maxDischargeDepth := 60) only [updBkt_canon, dropOp_canon, settleBuckets_canon, joinGroup_canon, Canonical.mk_iff, Canonical.forEach, Canonical.when, Canonical.ite_of, implies_true, id_eq, *]
    | (with_reducible refine updBkt_canon _ _ _ ?_)
    | (with_reducible refine dropOp_canon _ _ ?_)
    | (with_reducible refine settleBuckets_canon _ ?_)
    | (with_reducible refine joinGroup_canon _ _ _ ?_)
    | split
    | (with_reducible refine Canonical.forEach (fun _ _ _ => ?_) ?_)
    | (with_reducible refine Canonical.when (fun _ _ => ?_) ?_)

theorem execNgctlWrite_canon (a : BusAcc) (g : BitVec 3) (w : Word) (s : State) (s' : State) (h : execNgctlWrite a g w s = .next s') (hc : Canonical s) : Canonical s' := by
  unfold execNgctlWrite at h
  injection h with h
  subst h
  try dsimp only
  repeat' first
    | (with_reducible refine busWrite_canon _ _ _ _ (fun _ _ => ?_) ?_)
    | with_reducible assumption
    | simp +contextual (maxDischargeDepth := 60) only [writeNgctl_canon, Canonical.mk_iff, Canonical.forEach, Canonical.when, Canonical.ite_of, implies_true, id_eq, *]
    | (with_reducible refine writeNgctl_canon _ _ _ ?_)
    | split
    | (with_reducible refine Canonical.forEach (fun _ _ _ => ?_) ?_)
    | (with_reducible refine Canonical.when (fun _ _ => ?_) ?_)

theorem execUpdateFlit_canon (bucket : BitVec 6) (s : State) (s' : State) (h : execUpdateFlit bucket s = .next s') (hc : Canonical s) : Canonical s' :=
  (execUpdateFlit_only bucket s s' h |> Canonical.of_only) (by decide) hc

theorem execResultSend_canon (bucket : BitVec 6) (s : State) (s' : State) (h : execResultSend bucket s = .next s') (hc : Canonical s) : Canonical s' :=
  (execResultSend_only bucket s s' h |> Canonical.of_only) (by decide) hc

end Sys2Proof.Machine
end

