-- ==== Sys2Proof/Laws/OnlyExchange.lean ====
section
/-!
SUPPORT. Laws/OnlyExchange.lean: what each operation of Machine/Exchange.lean may change (generated text, one lemma for each operation).
-/
namespace Sys2Proof.Machine

set_option linter.unusedSimpArgs false
set_option linter.tactic.unusedName false

theorem askSide_only (c : Nat) (s : State) :
    Only [.fr, .sq] s (askSide c s) := by
  unfold askSide
  repeat' first
    | simp (maxDischargeDepth := 8) only [Only.iff_of (updSlip_only _ _ _ ), Only.iff_of (addTr_only _ _ ), *, partsIn_nil, partsIn_cons, Only.self, Only.mk_iff, Only.forEach_iff, Only.when_iff, Only.ite_of, true_or, or_true, and_self, implies_true, List.mem_cons, reduceCtorEq, or_false, false_or, id_eq]
    | split
    | with_reducible refine Only.trans ?_ (Only.forEach (fun _ _ => ?_) _ _)
    | with_reducible refine Only.trans ?_ (Only.when (fun _ => ?_) _ _)

theorem askScale_only (sid l : Nat) (s : State) :
    Only [.fr, .sq] s (askScale sid l s) := by
  unfold askScale
  repeat' first
    | simp (maxDischargeDepth := 8) only [Only.iff_of (updSlip_only _ _ _ ), Only.iff_of (addTr_only _ _ ), *, partsIn_nil, partsIn_cons, Only.self, Only.mk_iff, Only.forEach_iff, Only.when_iff, Only.ite_of, true_or, or_true, and_self, implies_true, List.mem_cons, reduceCtorEq, or_false, false_or, id_eq]
    | split
    | with_reducible refine Only.trans ?_ (Only.forEach (fun _ _ => ?_) _ _)
    | with_reducible refine Only.trans ?_ (Only.when (fun _ => ?_) _ _)

theorem askChunk_only (x : Slip) (s : State) :
    Only [.fr] s (askChunk x s) := by
  unfold askChunk
  repeat' first
    | simp (maxDischargeDepth := 8) only [Only.iff_of (addTr_only _ _ ), *, partsIn_nil, partsIn_cons, Only.self, Only.mk_iff, Only.forEach_iff, Only.when_iff, Only.ite_of, true_or, or_true, and_self, implies_true, List.mem_cons, reduceCtorEq, or_false, false_or, id_eq]
    | split
    | with_reducible refine Only.trans ?_ (Only.forEach (fun _ _ => ?_) _ _)
    | with_reducible refine Only.trans ?_ (Only.when (fun _ => ?_) _ _)

theorem requestPark_only (r : Nat) (s : State) :
    Only [.fr, .sq] s (requestPark r s) := by
  unfold requestPark
  repeat' first
    | simp (maxDischargeDepth := 8) only [Only.iff_of (addTr_only _ _ ), Only.iff_of (updHeld_only _ _ _ ), *, partsIn_nil, partsIn_cons, Only.self, Only.mk_iff, Only.forEach_iff, Only.when_iff, Only.ite_of, true_or, or_true, and_self, implies_true, List.mem_cons, reduceCtorEq, or_false, false_or, id_eq]
    | split
    | with_reducible refine Only.trans ?_ (Only.forEach (fun _ _ => ?_) _ _)
    | with_reducible refine Only.trans ?_ (Only.when (fun _ => ?_) _ _)

theorem addPart_only (x : Slip) (i : Nat) (data : Row) (pois : Mask4) (sc : List (Nat × Bool)) (s : State) :
    Only [.sq, .pw] s (addPart x i data pois sc s) := by
  unfold addPart
  repeat' first
    | simp (maxDischargeDepth := 8) only [Only.iff_of (estimate_only _ _ _ ), Only.iff_of (updHeld_only _ _ _ ), *, partsIn_nil, partsIn_cons, Only.self, Only.mk_iff, Only.forEach_iff, Only.when_iff, Only.ite_of, true_or, or_true, and_self, implies_true, List.mem_cons, reduceCtorEq, or_false, false_or, id_eq]
    | split
    | with_reducible refine Only.trans ?_ (Only.forEach (fun _ _ => ?_) _ _)
    | with_reducible refine Only.trans ?_ (Only.when (fun _ => ?_) _ _)

theorem drainRaw_only (sid n : Nat) (s : State) : Only [.sq, .pw] s (drainRaw sid n s) := by
  induction n generalizing s with
  | zero => exact Only.refl _ _
  | succ n ih =>
    unfold drainRaw
    repeat' first
      | simp (maxDischargeDepth := 8) only [Only.iff_of (ih _), Only.iff_of (updHeld_only _ _ _), Only.iff_of (updSlip_only _ _ _), Only.iff_of (addPart_only _ _ _ _ _ _), *, partsIn_nil, partsIn_cons, Only.self, Only.mk_iff, Only.forEach_iff, Only.when_iff, Only.ite_of, true_or, or_true, and_self, implies_true, List.mem_cons, reduceCtorEq, or_false, false_or, id_eq]
      | split

theorem parkArrived_only (x : Slip) (i : Nat) (data : Row) (pois : Mask4) (s : State) :
    Only [.fr, .sq, .pw] s (parkArrived x i data pois s) := by
  unfold parkArrived
  repeat' first
    | simp (maxDischargeDepth := 8) only [Only.iff_of (addTr_only _ _ ), Only.iff_of (progress_only _ _ ), Only.iff_of (updHeld_only _ _ _ ), Only.iff_of (addPart_only _ _ _ _ _ _ ), Only.iff_of (drainRaw_only _ _ _ ), *, partsIn_nil, partsIn_cons, Only.self, Only.mk_iff, Only.forEach_iff, Only.when_iff, Only.ite_of, true_or, or_true, and_self, implies_true, List.mem_cons, reduceCtorEq, or_false, false_or, id_eq]
    | split
    | with_reducible refine Only.trans ?_ (Only.forEach (fun _ _ => ?_) _ _)
    | with_reducible refine Only.trans ?_ (Only.when (fun _ => ?_) _ _)

theorem parkWritten_only (x : Slip) (s : State) :
    Only [.xc, .sq] s (parkWritten x s) := by
  unfold parkWritten
  repeat' first
    | simp (maxDischargeDepth := 8) only [Only.iff_of (xbump_only _ _ _ ), Only.iff_of (progress_only _ _ ), *, partsIn_nil, partsIn_cons, Only.self, Only.mk_iff, Only.forEach_iff, Only.when_iff, Only.ite_of, true_or, or_true, and_self, implies_true, List.mem_cons, reduceCtorEq, or_false, false_or, id_eq]
    | split
    | with_reducible refine Only.trans ?_ (Only.forEach (fun _ _ => ?_) _ _)
    | with_reducible refine Only.trans ?_ (Only.when (fun _ => ?_) _ _)

theorem sideArrived_only (sid l : Nat) (f : Row × Mask4) (s : State) :
    Only [.sq] s (sideArrived sid l f s) := by
  unfold sideArrived
  repeat' first
    | simp (maxDischargeDepth := 8) only [Only.iff_of (updSlip_only _ _ _ ), *, partsIn_nil, partsIn_cons, Only.self, Only.mk_iff, Only.forEach_iff, Only.when_iff, Only.ite_of, true_or, or_true, and_self, implies_true, List.mem_cons, reduceCtorEq, or_false, false_or, id_eq]
    | split
    | with_reducible refine Only.trans ?_ (Only.forEach (fun _ _ => ?_) _ _)
    | with_reducible refine Only.trans ?_ (Only.when (fun _ => ?_) _ _)

theorem vecArrived_only (sid l : Nat) (f : Row × Mask4) (s : State) :
    Only [.sq] s (vecArrived sid l f s) := by
  unfold vecArrived
  repeat' first
    | simp (maxDischargeDepth := 8) only [Only.iff_of (updSlip_only _ _ _ ), *, partsIn_nil, partsIn_cons, Only.self, Only.mk_iff, Only.forEach_iff, Only.when_iff, Only.ite_of, true_or, or_true, and_self, implies_true, List.mem_cons, reduceCtorEq, or_false, false_or, id_eq]
    | split
    | with_reducible refine Only.trans ?_ (Only.forEach (fun _ _ => ?_) _ _)
    | with_reducible refine Only.trans ?_ (Only.when (fun _ => ?_) _ _)

theorem scaleArrived_only (sid l : Nat) (a : Int) (f : Row × Mask4) (s : State) :
    Only [.sq, .pw] s (scaleArrived sid l a f s) := by
  unfold scaleArrived
  repeat' first
    | simp (maxDischargeDepth := 8) only [Only.iff_of (updSlip_only _ _ _ ), Only.iff_of (drainRaw_only _ _ _ ), *, partsIn_nil, partsIn_cons, Only.self, Only.mk_iff, Only.forEach_iff, Only.when_iff, Only.ite_of, true_or, or_true, and_self, implies_true, List.mem_cons, reduceCtorEq, or_false, false_or, id_eq]
    | split
    | with_reducible refine Only.trans ?_ (Only.forEach (fun _ _ => ?_) _ _)
    | with_reducible refine Only.trans ?_ (Only.when (fun _ => ?_) _ _)

theorem jobDone_only (t : Tr) (s : State) :
    Only [.regs, .xc, .fr, .sq, .tr, .dbg, .fw, .rx, .pw] s (jobDone t s) := by
  unfold jobDone
  repeat' first
    | simp (maxDischargeDepth := 8) only [Only.iff_of (updSlip_only _ _ _ ), Only.iff_of (advanceRing_only _ _ ), Only.iff_of (dumped_only _ _ _ ), Only.iff_of (updHeld_only _ _ _ ), Only.iff_of (opRead_only _ _ _ _ ), Only.iff_of (opWritten_only _ _ _ ), Only.iff_of (copyRead_only _ _ ), Only.iff_of (copyWritten_only _ ), Only.iff_of (dualWritten_only _ ), Only.iff_of (sideArrived_only _ _ _ _ ), Only.iff_of (vecArrived_only _ _ _ _ ), Only.iff_of (scaleArrived_only _ _ _ _ _ ), *, partsIn_nil, partsIn_cons, Only.self, Only.mk_iff, Only.forEach_iff, Only.when_iff, Only.ite_of, true_or, or_true, and_self, implies_true, List.mem_cons, reduceCtorEq, or_false, false_or, id_eq]
    | split
    | with_reducible refine Only.trans ?_ (Only.forEach (fun _ _ => ?_) _ _)
    | with_reducible refine Only.trans ?_ (Only.when (fun _ => ?_) _ _)

theorem settleGo_only (l : List Nat) (s : State) : Only [.regs, .xc, .fr, .sq, .tr, .dbg, .fw, .rx, .pw] s (settleGo l s) := by
  induction l generalizing s with
  | nil => exact Only.refl _ _
  | cons id ids ih =>
    unfold settleGo
    repeat' first
      | simp (maxDischargeDepth := 8) only [Only.iff_of (ih _), Only.iff_of (jobDone_only _ _), Only.iff_of (setTr_only _ _), *, partsIn_nil, partsIn_cons, Only.self, Only.mk_iff, Only.forEach_iff, Only.when_iff, Only.ite_of, true_or, or_true, and_self, implies_true, List.mem_cons, reduceCtorEq, or_false, false_or, id_eq]
      | split

theorem settlePort_only (req : Nat) (s : State) :
    Only [.regs, .xc, .fr, .sq, .tr, .dbg, .fw, .rx, .pw] s (settlePort req s) := by
  unfold settlePort
  repeat' first
    | simp (maxDischargeDepth := 8) only [Only.iff_of (settleGo_only _ _ ), *, partsIn_nil, partsIn_cons, Only.self, Only.mk_iff, Only.forEach_iff, Only.when_iff, Only.ite_of, true_or, or_true, and_self, implies_true, List.mem_cons, reduceCtorEq, or_false, false_or, id_eq]
    | split
    | with_reducible refine Only.trans ?_ (Only.forEach (fun _ _ => ?_) _ _)
    | with_reducible refine Only.trans ?_ (Only.when (fun _ => ?_) _ _)

theorem fetchAhead_only (s : State) :
    Only [.fr, .sq, .dbg, .rx] s (fetchAhead s) := by
  unfold fetchAhead
  repeat' first
    | simp (maxDischargeDepth := 8) only [Only.iff_of (askDump_only _ ), Only.iff_of (askRows_only _ ), Only.iff_of (askDual_only _ ), Only.iff_of (askSide_only _ _ ), Only.iff_of (askScale_only _ _ _ ), Only.iff_of (askChunk_only _ _ ), Only.iff_of (requestPark_only _ _ ), *, partsIn_nil, partsIn_cons, Only.self, Only.mk_iff, Only.forEach_iff, Only.when_iff, Only.ite_of, true_or, or_true, and_self, implies_true, List.mem_cons, reduceCtorEq, or_false, false_or, id_eq]
    | split
    | with_reducible refine Only.trans ?_ (Only.forEach (fun _ _ => ?_) _ _)
    | with_reducible refine Only.trans ?_ (Only.when (fun _ => ?_) _ _)

end Sys2Proof.Machine
end

