-- ==== Sys2Proof/Laws/CanonExchange.lean ====
section
/-!
SUPPORT. Laws/CanonExchange.lean: the operations and commands of Machine/Exchange.lean keep memory, registers and counters in canonical form
(generated text, one lemma for each).
-/
namespace Sys2Proof.Machine

set_option linter.unusedSimpArgs false

theorem askSide_canon (c : Nat) (s : State) (hc : Canonical s) : Canonical (askSide c s) :=
  Canonical.of_only (askSide_only c s) (by decide) hc

theorem askScale_canon (sid l : Nat) (s : State) (hc : Canonical s) : Canonical (askScale sid l s) :=
  Canonical.of_only (askScale_only sid l s) (by decide) hc

theorem askChunk_canon (x : Slip) (s : State) (hc : Canonical s) : Canonical (askChunk x s) :=
  Canonical.of_only (askChunk_only x s) (by decide) hc

theorem requestPark_canon (r : Nat) (s : State) (hc : Canonical s) : Canonical (requestPark r s) :=
  Canonical.of_only (requestPark_only r s) (by decide) hc

theorem addPart_canon (x : Slip) (i : Nat) (data : Row) (pois : Mask4) (sc : List (Nat × Bool)) (s : State) (hc : Canonical s) : Canonical (addPart x i data pois sc s) :=
  Canonical.of_only (addPart_only x i data pois sc s) (by decide) hc

theorem drainRaw_canon (sid n : Nat) (s : State) (hc : Canonical s) : Canonical (drainRaw sid n s) := by
  induction n generalizing s with
  | zero => exact hc
  | succ n ih =>
    unfold drainRaw
    repeat' first
      | simp +contextual (maxDischargeDepth := 60) only [ih, updHeld_canon, updSlip_canon, addPart_canon, Canonical.mk_iff, Canonical.forEach, Canonical.when, Canonical.ite_of, implies_true, id_eq, *]
      | split

theorem parkArrived_canon (x : Slip) (i : Nat) (data : Row) (pois : Mask4) (s : State) (hc : Canonical s) : Canonical (parkArrived x i data pois s) :=
  Canonical.of_only (parkArrived_only x i data pois s) (by decide) hc

theorem parkWritten_canon (x : Slip) (s : State) (hc : Canonical s) : Canonical (parkWritten x s) := by
  unfold parkWritten
  repeat' first
    | with_reducible assumption
    | simp +contextual (maxDischargeDepth := 60) only [xbump_canon, progress_canon, Canonical.mk_iff, Canonical.forEach, Canonical.when, Canonical.ite_of, implies_true, id_eq, *]
    | (with_reducible refine xbump_canon _ _ _ ?_)
    | (with_reducible refine progress_canon _ _ ?_)
    | split
    | (with_reducible refine Canonical.forEach (fun _ _ _ => ?_) ?_)
    | (with_reducible refine Canonical.when (fun _ _ => ?_) ?_)

theorem sideArrived_canon (sid l : Nat) (f : Row × Mask4) (s : State) (hc : Canonical s) : Canonical (sideArrived sid l f s) :=
  Canonical.of_only (sideArrived_only sid l f s) (by decide) hc

theorem vecArrived_canon (sid l : Nat) (f : Row × Mask4) (s : State) (hc : Canonical s) : Canonical (vecArrived sid l f s) :=
  Canonical.of_only (vecArrived_only sid l f s) (by decide) hc

theorem scaleArrived_canon (sid l : Nat) (a : Int) (f : Row × Mask4) (s : State) (hc : Canonical s) : Canonical (scaleArrived sid l a f s) :=
  Canonical.of_only (scaleArrived_only sid l a f s) (by decide) hc

theorem jobDone_canon (t : Tr) (s : State) (hc : Canonical s) : Canonical (jobDone t s) := by
  unfold jobDone
  repeat' first
    | with_reducible assumption
    | simp +contextual (maxDischargeDepth := 60) only [updSlip_canon, advanceRing_canon, dumped_canon, updHeld_canon, opRead_canon, opWritten_canon, copyRead_canon, copyWritten_canon, dualWritten_canon, sideArrived_canon, vecArrived_canon, scaleArrived_canon, Canonical.mk_iff, Canonical.forEach, Canonical.when, Canonical.ite_of, implies_true, id_eq, *]
    | (with_reducible refine updSlip_canon _ _ _ ?_)
    | (with_reducible refine advanceRing_canon _ _ ?_)
    | (with_reducible refine dumped_canon _ _ _ ?_)
    | (with_reducible refine updHeld_canon _ _ _ ?_)
    | (with_reducible refine opRead_canon _ _ _ _ ?_)
    | (with_reducible refine opWritten_canon _ _ _ ?_)
    | (with_reducible refine copyRead_canon _ _ ?_)
    | (with_reducible refine copyWritten_canon _ ?_)
    | (with_reducible refine dualWritten_canon _ ?_)
    | (with_reducible refine sideArrived_canon _ _ _ _ ?_)
    | (with_reducible refine vecArrived_canon _ _ _ _ ?_)
    | (with_reducible refine scaleArrived_canon _ _ _ _ _ ?_)
    | split
    | (with_reducible refine Canonical.forEach (fun _ _ _ => ?_) ?_)
    | (with_reducible refine Canonical.when (fun _ _ => ?_) ?_)

theorem settleGo_canon (l : List Nat) (s : State) (hc : Canonical s) : Canonical (settleGo l s) := by
  induction l generalizing s with
  | nil => exact hc
  | cons e l ih =>
    unfold settleGo
    repeat' first
      | simp +contextual (maxDischargeDepth := 60) only [ih, jobDone_canon, setTr_canon, Canonical.mk_iff, Canonical.forEach, Canonical.when, Canonical.ite_of, implies_true, id_eq, *]
      | split

theorem settlePort_canon (req : Nat) (s : State) (hc : Canonical s) : Canonical (settlePort req s) := by
  unfold settlePort
  repeat' first
    | with_reducible assumption
    | simp +contextual (maxDischargeDepth := 60) only [settleGo_canon, Canonical.mk_iff, Canonical.forEach, Canonical.when, Canonical.ite_of, implies_true, id_eq, *]
    | (with_reducible refine settleGo_canon _ _ ?_)
    | split
    | (with_reducible refine Canonical.forEach (fun _ _ _ => ?_) ?_)
    | (with_reducible refine Canonical.when (fun _ _ => ?_) ?_)

theorem fetchAhead_canon (s : State) (hc : Canonical s) : Canonical (fetchAhead s) :=
  Canonical.of_only (fetchAhead_only s) (by decide) hc

end Sys2Proof.Machine
end

