-- ==== Sys2Proof/Laws/OnlyArbiter.lean ====
section
/-!
SUPPORT. Laws/OnlyArbiter.lean: what each operation of Machine/Arbiter.lean may change (generated text, one lemma for each operation).
-/
namespace Sys2Proof.Machine

set_option linter.unusedSimpArgs false
set_option linter.tactic.unusedName false

theorem regroup_only (id : Nat) (s : State) :
    Only [.fr, .sq] s (regroup id s) := by
  unfold regroup
  repeat' first
    | simp (maxDischargeDepth := 8) only [Only.iff_of (updSlip_only _ _ _ ), Only.iff_of (setTr_only _ _ ), *, partsIn_nil, partsIn_cons, Only.self, Only.mk_iff, Only.forEach_iff, Only.when_iff, Only.ite_of, true_or, or_true, and_self, implies_true, List.mem_cons, reduceCtorEq, or_false, false_or, id_eq]
    | split
    | with_reducible refine Only.trans ?_ (Only.forEach (fun _ _ => ?_) _ _)
    | with_reducible refine Only.trans ?_ (Only.when (fun _ => ?_) _ _)

theorem preempt_only (id : Nat) (s : State) :
    Only [.cnt, .fr, .sq] s (preempt id s) := by
  unfold preempt
  repeat' first
    | simp (maxDischargeDepth := 8) only [Only.iff_of (bump_only _ _ _ ), Only.iff_of (setTr_only _ _ ), Only.iff_of (dropTr_only _ _ ), Only.iff_of (regroup_only _ _ ), *, partsIn_nil, partsIn_cons, Only.self, Only.mk_iff, Only.forEach_iff, Only.when_iff, Only.ite_of, true_or, or_true, and_self, implies_true, List.mem_cons, reduceCtorEq, or_false, false_or, id_eq]
    | split
    | with_reducible refine Only.trans ?_ (Only.forEach (fun _ _ => ?_) _ _)
    | with_reducible refine Only.trans ?_ (Only.when (fun _ => ?_) _ _)

theorem ownFault_only (t : Tr) (b : Beat) (s : State) :
    Only [.regs, .cnt, .fr, .tr, .dbg] s (ownFault t b s) := by
  unfold ownFault
  repeat' first
    | simp (maxDischargeDepth := 8) only [Only.iff_of (raise_only _ _ ), Only.iff_of (faultRow_only _ _ _ _ _ _ _ _ ), Only.iff_of (setTr_only _ _ ), *, partsIn_nil, partsIn_cons, Only.self, Only.mk_iff, Only.forEach_iff, Only.when_iff, Only.ite_of, true_or, or_true, and_self, implies_true, List.mem_cons, reduceCtorEq, or_false, false_or, id_eq]
    | split
    | with_reducible refine Only.trans ?_ (Only.forEach (fun _ _ => ?_) _ _)
    | with_reducible refine Only.trans ?_ (Only.when (fun _ => ?_) _ _)

theorem beatFault_only (t : Tr) (b : Beat) (s : State) :
    Only [.regs, .cnt, .xc, .fr, .sq, .tr, .dbg, .rx] s (beatFault t b s) := by
  unfold beatFault
  repeat' first
    | simp (maxDischargeDepth := 8) only [Only.iff_of (deadAccess_only _ _ ), Only.iff_of (slipFault_only _ _ _ _ _ _ ), Only.iff_of (opFault_only _ _ ), Only.iff_of (ownFault_only _ _ _ ), *, partsIn_nil, partsIn_cons, Only.self, Only.mk_iff, Only.forEach_iff, Only.when_iff, Only.ite_of, true_or, or_true, and_self, implies_true, List.mem_cons, reduceCtorEq, or_false, false_or, id_eq]
    | split
    | with_reducible refine Only.trans ?_ (Only.forEach (fun _ _ => ?_) _ _)
    | with_reducible refine Only.trans ?_ (Only.when (fun _ => ?_) _ _)

theorem beatGone_only (t : Tr) (b : Beat) (s : State) :
    Only [.xc, .fr, .sq, .pw] s (beatGone t b s) := by
  unfold beatGone
  repeat' first
    | simp (maxDischargeDepth := 8) only [Only.iff_of (xbump_only _ _ _ ), Only.iff_of (parkArrived_only _ _ _ _ _ ), Only.iff_of (parkWritten_only _ _ ), *, partsIn_nil, partsIn_cons, Only.self, Only.mk_iff, Only.forEach_iff, Only.when_iff, Only.ite_of, true_or, or_true, and_self, implies_true, List.mem_cons, reduceCtorEq, or_false, false_or, id_eq]
    | split
    | with_reducible refine Only.trans ?_ (Only.forEach (fun _ _ => ?_) _ _)
    | with_reducible refine Only.trans ?_ (Only.when (fun _ => ?_) _ _)

theorem takeCredits_only (t : Tr) (s : State) :
    Only [.fr, .sq] s (takeCredits t s) := by
  unfold takeCredits
  repeat' first
    | simp (maxDischargeDepth := 8) only [Only.iff_of (updSlip_only _ _ _ ), Only.iff_of (updRlane_only _ _ _ ), *, partsIn_nil, partsIn_cons, Only.self, Only.mk_iff, Only.forEach_iff, Only.when_iff, Only.ite_of, true_or, or_true, and_self, implies_true, List.mem_cons, reduceCtorEq, or_false, false_or, id_eq]
    | split
    | with_reducible refine Only.trans ?_ (Only.forEach (fun _ _ => ?_) _ _)
    | with_reducible refine Only.trans ?_ (Only.when (fun _ => ?_) _ _)

theorem grantTr_only (p : Plan) (s : State) :
    Only [.regs, .cnt, .xc, .fr, .arb, .sq, .tr, .dbg, .fw, .rx, .pw] s (grantTr p s) := by
  unfold grantTr
  repeat' first
    | simp (maxDischargeDepth := 8) only [Only.iff_of (updSlip_only _ _ _ ), Only.iff_of (setTr_only _ _ ), Only.iff_of (settlePort_only _ _ ), Only.iff_of (preempt_only _ _ ), Only.iff_of (beatFault_only _ _ _ ), Only.iff_of (beatGone_only _ _ _ ), Only.iff_of (takeCredits_only _ _ ), *, partsIn_nil, partsIn_cons, Only.self, Only.mk_iff, Only.forEach_iff, Only.when_iff, Only.ite_of, true_or, or_true, and_self, implies_true, List.mem_cons, reduceCtorEq, or_false, false_or, id_eq]
    | split
    | with_reducible refine Only.trans ?_ (Only.forEach (fun _ _ => ?_) _ _)
    | with_reducible refine Only.trans ?_ (Only.when (fun _ => ?_) _ _)

theorem movePointers_only (l : List Plan) (s : State) : Only [.arb] s (movePointers l s) := by
  induction l generalizing s with
  | nil => exact Only.refl _ _
  | cons e rest ih =>
    unfold movePointers
    repeat' first
      | simp (maxDischargeDepth := 8) only [Only.iff_of (ih _), *, partsIn_nil, partsIn_cons, Only.self, Only.mk_iff, Only.forEach_iff, Only.when_iff, Only.ite_of, true_or, or_true, and_self, implies_true, List.mem_cons, reduceCtorEq, or_false, false_or, id_eq]
      | split

theorem giveTicket_only (x : Tr) (t : Nat) (s : State) :
    Only [.fr, .arb] s (giveTicket x t s) := by
  unfold giveTicket
  repeat' first
    | simp (maxDischargeDepth := 8) only [Only.iff_of (setChan_only _ _ _ _ ), *, partsIn_nil, partsIn_cons, Only.self, Only.mk_iff, Only.forEach_iff, Only.when_iff, Only.ite_of, true_or, or_true, and_self, implies_true, List.mem_cons, reduceCtorEq, or_false, false_or, id_eq]
    | split
    | with_reducible refine Only.trans ?_ (Only.forEach (fun _ _ => ?_) _ _)
    | with_reducible refine Only.trans ?_ (Only.when (fun _ => ?_) _ _)

theorem markWaiting_only (s : State) :
    Only [.fr] s (markWaiting s) := by
  unfold markWaiting
  repeat' first
    | simp (maxDischargeDepth := 8) only [*, partsIn_nil, partsIn_cons, Only.self, Only.mk_iff, Only.forEach_iff, Only.when_iff, Only.ite_of, true_or, or_true, and_self, implies_true, List.mem_cons, reduceCtorEq, or_false, false_or, id_eq]
    | split
    | with_reducible refine Only.trans ?_ (Only.forEach (fun _ _ => ?_) _ _)
    | with_reducible refine Only.trans ?_ (Only.when (fun _ => ?_) _ _)

theorem sweep_only (s : State) :
    Only [.bank, .fr] s (sweep s) := by
  unfold sweep
  repeat' first
    | simp (maxDischargeDepth := 8) only [*, partsIn_nil, partsIn_cons, Only.self, Only.mk_iff, Only.forEach_iff, Only.when_iff, Only.ite_of, true_or, or_true, and_self, implies_true, List.mem_cons, reduceCtorEq, or_false, false_or, id_eq]
    | split
    | with_reducible refine Only.trans ?_ (Only.forEach (fun _ _ => ?_) _ _)
    | with_reducible refine Only.trans ?_ (Only.when (fun _ => ?_) _ _)

theorem settleLane_only (lane n : Nat) (s : State) : Only [.fr, .sq] s (settleLane lane n s) := by
  induction n generalizing s with
  | zero => exact Only.refl _ _
  | succ n ih =>
    unfold settleLane
    repeat' first
      | simp (maxDischargeDepth := 8) only [Only.iff_of (ih _), Only.iff_of (updWlane_only _ _ _), Only.iff_of (updSlip_only _ _ _), Only.iff_of (progress_only _ _), *, partsIn_nil, partsIn_cons, Only.self, Only.mk_iff, Only.forEach_iff, Only.when_iff, Only.ite_of, true_or, or_true, and_self, implies_true, List.mem_cons, reduceCtorEq, or_false, false_or, id_eq]
      | split

theorem countClients_only (work : List (Nat × List Nat)) (s : State) :
    Only [.cnt] s (countClients work s) := by
  unfold countClients
  repeat' first
    | simp (maxDischargeDepth := 8) only [Only.iff_of (bump_only _ _ _ ), *, partsIn_nil, partsIn_cons, Only.self, Only.mk_iff, Only.forEach_iff, Only.when_iff, Only.ite_of, true_or, or_true, and_self, implies_true, List.mem_cons, reduceCtorEq, or_false, false_or, id_eq]
    | split
    | with_reducible refine Only.trans ?_ (Only.forEach (fun _ _ => ?_) _ _)
    | with_reducible refine Only.trans ?_ (Only.when (fun _ => ?_) _ _)

theorem countSlots_only (s : State) :
    Only [.xc] s (countSlots s) := by
  unfold countSlots
  repeat' first
    | simp (maxDischargeDepth := 8) only [Only.iff_of (xbump_only _ _ _ ), *, partsIn_nil, partsIn_cons, Only.self, Only.mk_iff, Only.forEach_iff, Only.when_iff, Only.ite_of, true_or, or_true, and_self, implies_true, List.mem_cons, reduceCtorEq, or_false, false_or, id_eq]
    | split
    | with_reducible refine Only.trans ?_ (Only.forEach (fun _ _ => ?_) _ _)
    | with_reducible refine Only.trans ?_ (Only.when (fun _ => ?_) _ _)

theorem countQueues_only (late : List Nat) (s : State) :
    Only [.xc, .sq] s (countQueues late s) := by
  unfold countQueues
  repeat' first
    | simp (maxDischargeDepth := 8) only [Only.iff_of (xbump_only _ _ _ ), Only.iff_of (updQueue_only _ _ _ ), *, partsIn_nil, partsIn_cons, Only.self, Only.mk_iff, Only.forEach_iff, Only.when_iff, Only.ite_of, true_or, or_true, and_self, implies_true, List.mem_cons, reduceCtorEq, or_false, false_or, id_eq]
    | split
    | with_reducible refine Only.trans ?_ (Only.forEach (fun _ _ => ?_) _ _)
    | with_reducible refine Only.trans ?_ (Only.when (fun _ => ?_) _ _)

theorem decide__only (s : State) :
    Only [.regs, .cnt, .xc, .fr, .arb, .sq, .tr, .dbg, .fw, .rx, .pw] s (decide_ s) := by
  unfold decide_
  repeat' first
    | simp (maxDischargeDepth := 8) only [Only.iff_of (xbump_only _ _ _ ), Only.iff_of (preempt_only _ _ ), Only.iff_of (grantTr_only _ _ ), Only.iff_of (movePointers_only _ _ ), Only.iff_of (giveTicket_only _ _ _ ), *, partsIn_nil, partsIn_cons, Only.self, Only.mk_iff, Only.forEach_iff, Only.when_iff, Only.ite_of, true_or, or_true, and_self, implies_true, List.mem_cons, reduceCtorEq, or_false, false_or, id_eq]
    | split
    | with_reducible refine Only.trans ?_ (Only.forEach (fun _ _ => ?_) _ _)
    | with_reducible refine Only.trans ?_ (Only.when (fun _ => ?_) _ _)

theorem decideExempt_only (s : State) :
    Only [.regs, .cnt, .xc, .fr, .arb, .sq, .tr, .dbg, .fw, .rx, .pw] s (decideExempt s) := by
  unfold decideExempt
  repeat' first
    | simp (maxDischargeDepth := 8) only [Only.iff_of (grantTr_only _ _ ), Only.iff_of (movePointers_only _ _ ), *, partsIn_nil, partsIn_cons, Only.self, Only.mk_iff, Only.forEach_iff, Only.when_iff, Only.ite_of, true_or, or_true, and_self, implies_true, List.mem_cons, reduceCtorEq, or_false, false_or, id_eq]
    | split
    | with_reducible refine Only.trans ?_ (Only.forEach (fun _ _ => ?_) _ _)
    | with_reducible refine Only.trans ?_ (Only.when (fun _ => ?_) _ _)

theorem wakeBanks_only (s : State) :
    Only [.bank] s (wakeBanks s) := by
  unfold wakeBanks
  repeat' first
    | simp (maxDischargeDepth := 8) only [Only.iff_of (autowake_only _ _ ), *, partsIn_nil, partsIn_cons, Only.self, Only.mk_iff, Only.forEach_iff, Only.when_iff, Only.ite_of, true_or, or_true, and_self, implies_true, List.mem_cons, reduceCtorEq, or_false, false_or, id_eq]
    | split
    | with_reducible refine Only.trans ?_ (Only.forEach (fun _ _ => ?_) _ _)
    | with_reducible refine Only.trans ?_ (Only.when (fun _ => ?_) _ _)

theorem settleAll_only (s : State) :
    Only [.fr, .sq] s (settleAll s) := by
  unfold settleAll
  repeat' first
    | simp (maxDischargeDepth := 8) only [Only.iff_of (settleLane_only _ _ _ ), *, partsIn_nil, partsIn_cons, Only.self, Only.mk_iff, Only.forEach_iff, Only.when_iff, Only.ite_of, true_or, or_true, and_self, implies_true, List.mem_cons, reduceCtorEq, or_false, false_or, id_eq]
    | split
    | with_reducible refine Only.trans ?_ (Only.forEach (fun _ _ => ?_) _ _)
    | with_reducible refine Only.trans ?_ (Only.when (fun _ => ?_) _ _)

theorem haltCycle_only (s : State) :
    Only [.regs, .cnt, .xc, .bank, .fr, .arb, .sq, .tr, .dbg, .fw, .rx, .pw] s (haltCycle s) := by
  unfold haltCycle
  repeat' first
    | simp (maxDischargeDepth := 8) only [Only.iff_of (sweep_only _ ), Only.iff_of (countClients_only _ _ ), Only.iff_of (decideExempt_only _ ), Only.iff_of (wakeBanks_only _ ), *, partsIn_nil, partsIn_cons, Only.self, Only.mk_iff, Only.forEach_iff, Only.when_iff, Only.ite_of, true_or, or_true, and_self, implies_true, List.mem_cons, reduceCtorEq, or_false, false_or, id_eq]
    | split
    | with_reducible refine Only.trans ?_ (Only.forEach (fun _ _ => ?_) _ _)
    | with_reducible refine Only.trans ?_ (Only.when (fun _ => ?_) _ _)

theorem runCycle_only (s : State) :
    Only [.cyc, .regs, .cnt, .xc, .bank, .fr, .arb, .sq, .tr, .dbg, .fw, .rx, .pw] s (runCycle s) := by
  unfold runCycle
  repeat' first
    | simp (maxDischargeDepth := 8) only [Only.iff_of (pigeonCycle_only _ ), Only.iff_of (settleMig_only _ ), Only.iff_of (fetchAhead_only _ ), Only.iff_of (markWaiting_only _ ), Only.iff_of (sweep_only _ ), Only.iff_of (countClients_only _ _ ), Only.iff_of (countSlots_only _ ), Only.iff_of (countQueues_only _ _ ), Only.iff_of (decide__only _ ), Only.iff_of (wakeBanks_only _ ), Only.iff_of (settleAll_only _ ), *, partsIn_nil, partsIn_cons, Only.self, Only.mk_iff, Only.forEach_iff, Only.when_iff, Only.ite_of, true_or, or_true, and_self, implies_true, List.mem_cons, reduceCtorEq, or_false, false_or, id_eq]
    | split
    | with_reducible refine Only.trans ?_ (Only.forEach (fun _ _ => ?_) _ _)
    | with_reducible refine Only.trans ?_ (Only.when (fun _ => ?_) _ _)

theorem endQuarantine_only (req : Nat) (s : State) :
    Only [.regs, .arb, .tr, .dbg] s (endQuarantine req s) := by
  unfold endQuarantine
  repeat' first
    | simp (maxDischargeDepth := 8) only [Only.iff_of (clrReg_only _ _ _ ), Only.iff_of (raise_only _ _ ), *, partsIn_nil, partsIn_cons, Only.self, Only.mk_iff, Only.forEach_iff, Only.when_iff, Only.ite_of, true_or, or_true, and_self, implies_true, List.mem_cons, reduceCtorEq, or_false, false_or, id_eq]
    | split
    | with_reducible refine Only.trans ?_ (Only.forEach (fun _ _ => ?_) _ _)
    | with_reducible refine Only.trans ?_ (Only.when (fun _ => ?_) _ _)

theorem writeQrel_only (w : Word) (s : State) :
    Only [.regs, .arb, .tr, .dbg] s (writeQrel w s) := by
  unfold writeQrel
  repeat' first
    | simp (maxDischargeDepth := 8) only [Only.iff_of (endQuarantine_only _ _ ), *, partsIn_nil, partsIn_cons, Only.self, Only.mk_iff, Only.forEach_iff, Only.when_iff, Only.ite_of, true_or, or_true, and_self, implies_true, List.mem_cons, reduceCtorEq, or_false, false_or, id_eq]
    | split
    | with_reducible refine Only.trans ?_ (Only.forEach (fun _ _ => ?_) _ _)
    | with_reducible refine Only.trans ?_ (Only.when (fun _ => ?_) _ _)

end Sys2Proof.Machine
end

