-- ==== Sys2Proof/Laws/CanonArbiter.lean ====
section
/-!
SUPPORT. Laws/CanonArbiter.lean: the operations and commands of Machine/Arbiter.lean keep memory, registers and counters in canonical form
(generated text, one lemma for each).
-/
namespace Sys2Proof.Machine

set_option linter.unusedSimpArgs false

theorem regroup_canon (id : Nat) (s : State) (hc : Canonical s) : Canonical (regroup id s) :=
  Canonical.of_only (regroup_only id s) (by decide) hc

theorem preempt_canon (id : Nat) (s : State) (hc : Canonical s) : Canonical (preempt id s) := by
  unfold preempt
  repeat' first
    | with_reducible assumption
    | simp +contextual (maxDischargeDepth := 60) only [bump_canon, setTr_canon, dropTr_canon, regroup_canon, Canonical.mk_iff, Canonical.forEach, Canonical.when, Canonical.ite_of, implies_true, id_eq, *]
    | (with_reducible refine bump_canon _ _ _ ?_)
    | (with_reducible refine setTr_canon _ _ ?_)
    | (with_reducible refine dropTr_canon _ _ ?_)
    | (with_reducible refine regroup_canon _ _ ?_)
    | split
    | (with_reducible refine Canonical.forEach (fun _ _ _ => ?_) ?_)
    | (with_reducible refine Canonical.when (fun _ _ => ?_) ?_)

theorem ownFault_canon (t : Tr) (b : Beat) (s : State) (hc : Canonical s) : Canonical (ownFault t b s) := by
  unfold ownFault
  repeat' first
    | with_reducible assumption
    | simp +contextual (maxDischargeDepth := 60) only [raise_canon, faultRow_canon, setTr_canon, Canonical.mk_iff, Canonical.forEach, Canonical.when, Canonical.ite_of, implies_true, id_eq, *]
    | (with_reducible refine raise_canon _ _ ?_)
    | (with_reducible refine faultRow_canon _ _ _ _ _ _ _ _ ?_)
    | (with_reducible refine setTr_canon _ _ ?_)
    | split
    | (with_reducible refine Canonical.forEach (fun _ _ _ => ?_) ?_)
    | (with_reducible refine Canonical.when (fun _ _ => ?_) ?_)

theorem beatFault_canon (t : Tr) (b : Beat) (s : State) (hc : Canonical s) : Canonical (beatFault t b s) := by
  unfold beatFault
  repeat' first
    | with_reducible assumption
    | simp +contextual (maxDischargeDepth := 60) only [deadAccess_canon, slipFault_canon, opFault_canon, ownFault_canon, Canonical.mk_iff, Canonical.forEach, Canonical.when, Canonical.ite_of, implies_true, id_eq, *]
    | (with_reducible refine deadAccess_canon _ _ ?_)
    | (with_reducible refine slipFault_canon _ _ _ _ _ _ ?_)
    | (with_reducible refine opFault_canon _ _ ?_)
    | (with_reducible refine ownFault_canon _ _ _ ?_)
    | split
    | (with_reducible refine Canonical.forEach (fun _ _ _ => ?_) ?_)
    | (with_reducible refine Canonical.when (fun _ _ => ?_) ?_)

theorem beatGone_canon (t : Tr) (b : Beat) (s : State) (hc : Canonical s) : Canonical (beatGone t b s) := by
  unfold beatGone
  repeat' first
    | with_reducible assumption
    | simp +contextual (maxDischargeDepth := 60) only [xbump_canon, parkArrived_canon, parkWritten_canon, Canonical.mk_iff, Canonical.forEach, Canonical.when, Canonical.ite_of, implies_true, id_eq, *]
    | (with_reducible refine xbump_canon _ _ _ ?_)
    | (with_reducible refine parkArrived_canon _ _ _ _ _ ?_)
    | (with_reducible refine parkWritten_canon _ _ ?_)
    | split
    | (with_reducible refine Canonical.forEach (fun _ _ _ => ?_) ?_)
    | (with_reducible refine Canonical.when (fun _ _ => ?_) ?_)

theorem takeCredits_canon (t : Tr) (s : State) (hc : Canonical s) : Canonical (takeCredits t s) :=
  Canonical.of_only (takeCredits_only t s) (by decide) hc

theorem grantTr_canon (p : Plan) (s : State) (hc : Canonical s) : Canonical (grantTr p s) := by
  unfold grantTr
  repeat' first
    | with_reducible assumption
    | simp +contextual (maxDischargeDepth := 60) only [updSlip_canon, setTr_canon, settlePort_canon, preempt_canon, beatFault_canon, beatGone_canon, takeCredits_canon, Canonical.mk_iff, Canonical.forEach, Canonical.when, Canonical.ite_of, implies_true, id_eq, *]
    | (with_reducible refine updSlip_canon _ _ _ ?_)
    | (with_reducible refine setTr_canon _ _ ?_)
    | (with_reducible refine settlePort_canon _ _ ?_)
    | (with_reducible refine preempt_canon _ _ ?_)
    | (with_reducible refine beatFault_canon _ _ _ ?_)
    | (with_reducible refine beatGone_canon _ _ _ ?_)
    | (with_reducible refine takeCredits_canon _ _ ?_)
    | split
    | (with_reducible refine Canonical.forEach (fun _ _ _ => ?_) ?_)
    | (with_reducible refine Canonical.when (fun _ _ => ?_) ?_)

theorem movePointers_canon (l : List Plan) (s : State) (hc : Canonical s) : Canonical (movePointers l s) :=
  Canonical.of_only (movePointers_only l s) (by decide) hc

theorem giveTicket_canon (x : Tr) (t : Nat) (s : State) (hc : Canonical s) : Canonical (giveTicket x t s) :=
  Canonical.of_only (giveTicket_only x t s) (by decide) hc

theorem markWaiting_canon (s : State) (hc : Canonical s) : Canonical (markWaiting s) :=
  Canonical.of_only (markWaiting_only s) (by decide) hc

theorem sweep_canon (s : State) (hc : Canonical s) : Canonical (sweep s) :=
  Canonical.of_only (sweep_only s) (by decide) hc

theorem settleLane_canon (lane n : Nat) (s : State) (hc : Canonical s) : Canonical (settleLane lane n s) :=
  Canonical.of_only (settleLane_only lane n s) (by decide) hc

theorem countClients_canon (work : List (Nat × List Nat)) (s : State) (hc : Canonical s) : Canonical (countClients work s) := by
  unfold countClients
  repeat' first
    | with_reducible assumption
    | simp +contextual (maxDischargeDepth := 60) only [bump_canon, Canonical.mk_iff, Canonical.forEach, Canonical.when, Canonical.ite_of, implies_true, id_eq, *]
    | (with_reducible refine bump_canon _ _ _ ?_)
    | split
    | (with_reducible refine Canonical.forEach (fun _ _ _ => ?_) ?_)
    | (with_reducible refine Canonical.when (fun _ _ => ?_) ?_)

theorem countSlots_canon (s : State) (hc : Canonical s) : Canonical (countSlots s) := by
  unfold countSlots
  repeat' first
    | with_reducible assumption
    | simp +contextual (maxDischargeDepth := 60) only [xbump_canon, Canonical.mk_iff, Canonical.forEach, Canonical.when, Canonical.ite_of, implies_true, id_eq, *]
    | (with_reducible refine xbump_canon _ _ _ ?_)
    | split
    | (with_reducible refine Canonical.forEach (fun _ _ _ => ?_) ?_)
    | (with_reducible refine Canonical.when (fun _ _ => ?_) ?_)

theorem countQueues_canon (late : List Nat) (s : State) (hc : Canonical s) : Canonical (countQueues late s) := by
  unfold countQueues
  repeat' first
    | with_reducible assumption
    | simp +contextual (maxDischargeDepth := 60) only [xbump_canon, updQueue_canon, Canonical.mk_iff, Canonical.forEach, Canonical.when, Canonical.ite_of, implies_true, id_eq, *]
    | (with_reducible refine xbump_canon _ _ _ ?_)
    | (with_reducible refine updQueue_canon _ _ _ ?_)
    | split
    | (with_reducible refine Canonical.forEach (fun _ _ _ => ?_) ?_)
    | (with_reducible refine Canonical.when (fun _ _ => ?_) ?_)

theorem decide__canon (s : State) (hc : Canonical s) : Canonical (decide_ s) := by
  unfold decide_
  repeat' first
    | with_reducible assumption
    | simp +contextual (maxDischargeDepth := 60) only [xbump_canon, preempt_canon, grantTr_canon, movePointers_canon, giveTicket_canon, Canonical.mk_iff, Canonical.forEach, Canonical.when, Canonical.ite_of, implies_true, id_eq, *]
    | (with_reducible refine xbump_canon _ _ _ ?_)
    | (with_reducible refine preempt_canon _ _ ?_)
    | (with_reducible refine grantTr_canon _ _ ?_)
    | (with_reducible refine movePointers_canon _ _ ?_)
    | (with_reducible refine giveTicket_canon _ _ _ ?_)
    | split
    | (with_reducible refine Canonical.forEach (fun _ _ _ => ?_) ?_)
    | (with_reducible refine Canonical.when (fun _ _ => ?_) ?_)

theorem decideExempt_canon (s : State) (hc : Canonical s) : Canonical (decideExempt s) := by
  unfold decideExempt
  repeat' first
    | with_reducible assumption
    | simp +contextual (maxDischargeDepth := 60) only [grantTr_canon, movePointers_canon, Canonical.mk_iff, Canonical.forEach, Canonical.when, Canonical.ite_of, implies_true, id_eq, *]
    | (with_reducible refine grantTr_canon _ _ ?_)
    | (with_reducible refine movePointers_canon _ _ ?_)
    | split
    | (with_reducible refine Canonical.forEach (fun _ _ _ => ?_) ?_)
    | (with_reducible refine Canonical.when (fun _ _ => ?_) ?_)

theorem wakeBanks_canon (s : State) (hc : Canonical s) : Canonical (wakeBanks s) :=
  Canonical.of_only (wakeBanks_only s) (by decide) hc

theorem settleAll_canon (s : State) (hc : Canonical s) : Canonical (settleAll s) :=
  Canonical.of_only (settleAll_only s) (by decide) hc

theorem haltCycle_canon (s : State) (hc : Canonical s) : Canonical (haltCycle s) := by
  unfold haltCycle
  repeat' first
    | with_reducible assumption
    | simp +contextual (maxDischargeDepth := 60) only [sweep_canon, countClients_canon, decideExempt_canon, wakeBanks_canon, Canonical.mk_iff, Canonical.forEach, Canonical.when, Canonical.ite_of, implies_true, id_eq, *]
    | (with_reducible refine sweep_canon _ ?_)
    | (with_reducible refine countClients_canon _ _ ?_)
    | (with_reducible refine decideExempt_canon _ ?_)
    | (with_reducible refine wakeBanks_canon _ ?_)
    | split
    | (with_reducible refine Canonical.forEach (fun _ _ _ => ?_) ?_)
    | (with_reducible refine Canonical.when (fun _ _ => ?_) ?_)

theorem runCycle_canon (s : State) (hc : Canonical s) : Canonical (runCycle s) := by
  unfold runCycle
  repeat' first
    | with_reducible assumption
    | simp +contextual (maxDischargeDepth := 60) only [pigeonCycle_canon, settleMig_canon, fetchAhead_canon, markWaiting_canon, sweep_canon, countClients_canon, countSlots_canon, countQueues_canon, decide__canon, wakeBanks_canon, settleAll_canon, Canonical.mk_iff, Canonical.forEach, Canonical.when, Canonical.ite_of, implies_true, id_eq, *]
    | (with_reducible refine pigeonCycle_canon _ ?_)
    | (with_reducible refine settleMig_canon _ ?_)
    | (with_reducible refine fetchAhead_canon _ ?_)
    | (with_reducible refine markWaiting_canon _ ?_)
    | (with_reducible refine sweep_canon _ ?_)
    | (with_reducible refine countClients_canon _ _ ?_)
    | (with_reducible refine countSlots_canon _ ?_)
    | (with_reducible refine countQueues_canon _ _ ?_)
    | (with_reducible refine decide__canon _ ?_)
    | (with_reducible refine wakeBanks_canon _ ?_)
    | (with_reducible refine settleAll_canon _ ?_)
    | split
    | (with_reducible refine Canonical.forEach (fun _ _ _ => ?_) ?_)
    | (with_reducible refine Canonical.when (fun _ _ => ?_) ?_)

theorem endQuarantine_canon (req : Nat) (s : State) (hc : Canonical s) : Canonical (endQuarantine req s) := by
  unfold endQuarantine
  repeat' first
    | with_reducible assumption
    | simp +contextual (maxDischargeDepth := 60) only [clrReg_canon, raise_canon, Canonical.mk_iff, Canonical.forEach, Canonical.when, Canonical.ite_of, implies_true, id_eq, *]
    | (with_reducible refine clrReg_canon _ _ _ ?_)
    | (with_reducible refine raise_canon _ _ ?_)
    | split
    | (with_reducible refine Canonical.forEach (fun _ _ _ => ?_) ?_)
    | (with_reducible refine Canonical.when (fun _ _ => ?_) ?_)

theorem writeQrel_canon (w : Word) (s : State) (hc : Canonical s) : Canonical (writeQrel w s) := by
  unfold writeQrel
  repeat' first
    | with_reducible assumption
    | simp +contextual (maxDischargeDepth := 60) only [endQuarantine_canon, Canonical.mk_iff, Canonical.forEach, Canonical.when, Canonical.ite_of, implies_true, id_eq, *]
    | (with_reducible refine endQuarantine_canon _ _ ?_)
    | split
    | (with_reducible refine Canonical.forEach (fun _ _ _ => ?_) ?_)
    | (with_reducible refine Canonical.when (fun _ _ => ?_) ?_)

theorem execDecision_canon (n : Nat) (s : State) (s' : State) (h : execDecision n s = .next s') (hc : Canonical s) : Canonical s' := by
  unfold execDecision at h
  injection h with h
  subst h
  try dsimp only
  repeat' first
    | with_reducible assumption
    | simp +contextual (maxDischargeDepth := 60) only [bump_canon, estimate_canon, judgeRails_canon, countStill_canon, tclk_canon, countClients_canon, haltCycle_canon, runCycle_canon, Canonical.mk_iff, Canonical.forEach, Canonical.when, Canonical.ite_of, implies_true, id_eq, *]
    | (with_reducible refine bump_canon _ _ _ ?_)
    | (with_reducible refine estimate_canon _ _ _ ?_)
    | (with_reducible refine judgeRails_canon _ ?_)
    | (with_reducible refine countStill_canon _ _ ?_)
    | (with_reducible refine tclk_canon _ _ ?_)
    | (with_reducible refine countClients_canon _ _ ?_)
    | (with_reducible refine haltCycle_canon _ ?_)
    | (with_reducible refine runCycle_canon _ ?_)
    | split
    | (with_reducible refine Canonical.forEach (fun _ _ _ => ?_) ?_)
    | (with_reducible refine Canonical.when (fun _ _ => ?_) ?_)

theorem execHoldLimitCutoff_canon (bank : Nat) (port : Bool) (s : State) (s' : State) (h : execHoldLimitCutoff bank port s = .next s') (hc : Canonical s) : Canonical s' := by
  unfold execHoldLimitCutoff at h
  injection h with h
  subst h
  try dsimp only
  repeat' first
    | with_reducible assumption
    | simp +contextual (maxDischargeDepth := 60) only [bump_canon, raise_canon, fillLog_canon, Canonical.mk_iff, Canonical.forEach, Canonical.when, Canonical.ite_of, implies_true, id_eq, *]
    | (with_reducible refine bump_canon _ _ _ ?_)
    | (with_reducible refine raise_canon _ _ ?_)
    | (with_reducible refine fillLog_canon _ _ _ _ ?_)
    | split
    | (with_reducible refine Canonical.forEach (fun _ _ _ => ?_) ?_)
    | (with_reducible refine Canonical.when (fun _ _ => ?_) ?_)

theorem execCutoffEnd_canon (bank req : Nat) (s : State) (s' : State) (h : execCutoffEnd bank req s = .next s') (hc : Canonical s) : Canonical s' :=
  (execCutoffEnd_only bank req s s' h |> Canonical.of_only) (by decide) hc

theorem execQuarantine_canon (req : Nat) (s : State) (s' : State) (h : execQuarantine req s = .next s') (hc : Canonical s) : Canonical s' := by
  unfold execQuarantine at h
  injection h with h
  subst h
  try dsimp only
  repeat' first
    | with_reducible assumption
    | simp +contextual (maxDischargeDepth := 60) only [orReg_canon, raise_canon, Canonical.mk_iff, Canonical.forEach, Canonical.when, Canonical.ite_of, implies_true, id_eq, *]
    | (with_reducible refine orReg_canon _ _ _ ?_)
    | (with_reducible refine raise_canon _ _ ?_)
    | split
    | (with_reducible refine Canonical.forEach (fun _ _ _ => ?_) ?_)
    | (with_reducible refine Canonical.when (fun _ _ => ?_) ?_)

theorem execQuarantineTimeout_canon (req : Nat) (s : State) (s' : State) (h : execQuarantineTimeout req s = .next s') (hc : Canonical s) : Canonical s' := by
  unfold execQuarantineTimeout at h
  injection h with h
  subst h
  try dsimp only
  repeat' first
    | with_reducible assumption
    | simp +contextual (maxDischargeDepth := 60) only [endQuarantine_canon, Canonical.mk_iff, Canonical.forEach, Canonical.when, Canonical.ite_of, implies_true, id_eq, *]
    | (with_reducible refine endQuarantine_canon _ _ ?_)
    | split
    | (with_reducible refine Canonical.forEach (fun _ _ _ => ?_) ?_)
    | (with_reducible refine Canonical.when (fun _ _ => ?_) ?_)

theorem execQuarantineRelease_canon (a : BusAcc) (w : Word) (s : State) (s' : State) (h : execQuarantineRelease a w s = .next s') (hc : Canonical s) : Canonical s' := by
  unfold execQuarantineRelease at h
  injection h with h
  subst h
  try dsimp only
  repeat' first
    | (with_reducible refine busWrite_canon _ _ _ _ (fun _ _ => ?_) ?_)
    | with_reducible assumption
    | simp +contextual (maxDischargeDepth := 60) only [writeQrel_canon, Canonical.mk_iff, Canonical.forEach, Canonical.when, Canonical.ite_of, implies_true, id_eq, *]
    | (with_reducible refine writeQrel_canon _ _ ?_)
    | split
    | (with_reducible refine Canonical.forEach (fun _ _ _ => ?_) ?_)
    | (with_reducible refine Canonical.when (fun _ _ => ?_) ?_)

theorem execShareRefill_canon (s : State) (s' : State) (h : execShareRefill s = .next s') (hc : Canonical s) : Canonical s' :=
  (execShareRefill_only s s' h |> Canonical.of_only) (by decide) hc

end Sys2Proof.Machine
end

