-- ==== Sys2Proof/Laws/OnlyArrays.lean ====
section
/-!
SUPPORT. Laws/OnlyArrays.lean: what each operation of Machine/Arrays.lean may change (generated text, one lemma for each operation).
-/
namespace Sys2Proof.Machine

set_option linter.unusedSimpArgs false
set_option linter.tactic.unusedName false

theorem updBeat_only (id n : Nat) (f : Beat → Beat) (s : State) :
    Only [.fr] s (updBeat id n f s) := by
  unfold updBeat
  repeat' first
    | simp (maxDischargeDepth := 8) only [Only.iff_of (setTr_only _ _ ), *, partsIn_nil, partsIn_cons, Only.self, Only.mk_iff, Only.forEach_iff, Only.when_iff, Only.ite_of, true_or, or_true, and_self, implies_true, List.mem_cons, reduceCtorEq, or_false, false_or, id_eq]
    | split
    | with_reducible refine Only.trans ?_ (Only.forEach (fun _ _ => ?_) _ _)
    | with_reducible refine Only.trans ?_ (Only.when (fun _ => ?_) _ _)

theorem spendShare_only (req : Nat) (s : State) :
    Only [.arb] s (spendShare req s) := by
  unfold spendShare
  repeat' first
    | simp (maxDischargeDepth := 8) only [*, partsIn_nil, partsIn_cons, Only.self, Only.mk_iff, Only.forEach_iff, Only.when_iff, Only.ite_of, true_or, or_true, and_self, implies_true, List.mem_cons, reduceCtorEq, or_false, false_or, id_eq]
    | split
    | with_reducible refine Only.trans ?_ (Only.forEach (fun _ _ => ?_) _ _)
    | with_reducible refine Only.trans ?_ (Only.when (fun _ => ?_) _ _)

theorem beatPerformed_only (t : Tr) (lb : Nat) (s : State) :
    Only [.cnt, .xc, .arb, .sq, .pw] s (beatPerformed t lb s) := by
  unfold beatPerformed
  repeat' first
    | simp (maxDischargeDepth := 8) only [Only.iff_of (estimate_only _ _ _ ), Only.iff_of (progress_only _ _ ), Only.iff_of (countBeat_only _ _ _ _ ), Only.iff_of (spendShare_only _ _ ), *, partsIn_nil, partsIn_cons, Only.self, Only.mk_iff, Only.forEach_iff, Only.when_iff, Only.ite_of, true_or, or_true, and_self, implies_true, List.mem_cons, reduceCtorEq, or_false, false_or, id_eq]
    | split
    | with_reducible refine Only.trans ?_ (Only.forEach (fun _ _ => ?_) _ _)
    | with_reducible refine Only.trans ?_ (Only.when (fun _ => ?_) _ _)

theorem readBeatNow_only (t : Tr) (n : Nat) (b : Beat) (port : Bool) (ups : List Upset) (s : State) :
    Only [.free, .regs, .cnt, .xc, .bank, .fr, .arb, .sq, .tr, .dbg, .fw, .rx, .pw] s (readBeatNow t n b port ups s) := by
  unfold readBeatNow
  repeat' first
    | simp (maxDischargeDepth := 8) only [Only.iff_of (xbump_only _ _ _ ), Only.iff_of (readRow_only _ _ _ _ _ _ ), Only.iff_of (parkArrived_only _ _ _ _ _ ), Only.iff_of (settlePort_only _ _ ), Only.iff_of (updBeat_only _ _ _ _ ), Only.iff_of (beatPerformed_only _ _ _ ), *, partsIn_nil, partsIn_cons, Only.self, Only.mk_iff, Only.forEach_iff, Only.when_iff, Only.ite_of, true_or, or_true, and_self, implies_true, List.mem_cons, reduceCtorEq, or_false, false_or, id_eq]
    | (refine Only.snd (by assumption) (readRow_only _ _ _ _ _ _ ) (by decide) ?_)
    | split
    | with_reducible refine Only.trans ?_ (Only.forEach (fun _ _ => ?_) _ _)
    | with_reducible refine Only.trans ?_ (Only.when (fun _ => ?_) _ _)

theorem writeBeatNow_only (t : Tr) (n : Nat) (b : Beat) (port : Bool) (par : Parity) (s : State) :
    Only [.regs, .cnt, .xc, .mem, .bank, .fr, .arb, .sq, .tr, .dbg, .fw, .rx, .pw] s (writeBeatNow t n b port par s) := by
  unfold writeBeatNow
  repeat' first
    | simp (maxDischargeDepth := 8) only [Only.iff_of (portStore_only _ _ _ _ _ _ _ _ _ _ ), Only.iff_of (watchStore_only _ _ _ _ _ _ _ _ ), Only.iff_of (markPlane_only _ _ _ ), Only.iff_of (netParity_only _ _ _ _ _ ), Only.iff_of (parkWritten_only _ _ ), Only.iff_of (settlePort_only _ _ ), Only.iff_of (settleLane_only _ _ _ ), Only.iff_of (updBeat_only _ _ _ _ ), Only.iff_of (beatPerformed_only _ _ _ ), *, partsIn_nil, partsIn_cons, Only.self, Only.mk_iff, Only.forEach_iff, Only.when_iff, Only.ite_of, true_or, or_true, and_self, implies_true, List.mem_cons, reduceCtorEq, or_false, false_or, id_eq]
    | split
    | with_reducible refine Only.trans ?_ (Only.forEach (fun _ _ => ?_) _ _)
    | with_reducible refine Only.trans ?_ (Only.when (fun _ => ?_) _ _)

theorem atomicNow_only (t : Tr) (b : Beat) (port : Bool) (ups : List Upset) (par : Parity) (s : State) :
    Only [.free, .regs, .cnt, .xc, .mem, .bank, .fr, .arb, .sq, .tr, .dbg, .fw, .pw] s (atomicNow t b port ups par s) := by
  unfold atomicNow
  repeat' first
    | simp (maxDischargeDepth := 8) only [Only.iff_of (readRow_only _ _ _ _ _ _ ), Only.iff_of (storeRow_only _ _ _ _ _ _ _ _ ), Only.iff_of (keepUndo_only _ _ _ _ _ _ _ ), Only.iff_of (markPlane_only _ _ _ ), Only.iff_of (netParity_only _ _ _ _ _ ), Only.iff_of (settleLane_only _ _ _ ), Only.iff_of (updBeat_only _ _ _ _ ), Only.iff_of (beatPerformed_only _ _ _ ), *, partsIn_nil, partsIn_cons, Only.self, Only.mk_iff, Only.forEach_iff, Only.when_iff, Only.ite_of, true_or, or_true, and_self, implies_true, List.mem_cons, reduceCtorEq, or_false, false_or, id_eq]
    | (refine Only.snd (by assumption) (readRow_only _ _ _ _ _ _ ) (by decide) ?_)
    | split
    | with_reducible refine Only.trans ?_ (Only.forEach (fun _ _ => ?_) _ _)
    | with_reducible refine Only.trans ?_ (Only.when (fun _ => ?_) _ _)

end Sys2Proof.Machine
end

