-- ==== Sys2Proof/Laws/ExecArrays.lean ====
section
/-!
SUPPORT. Laws/ExecArrays.lean: what each command of Machine/Arrays.lean may change (generated text, one lemma for each command).
-/
namespace Sys2Proof.Machine

set_option linter.unusedSimpArgs false
set_option linter.tactic.unusedName false

theorem execArrayRead_only (bank : Nat) (port : Bool) (ups : List Upset) (s : State) (s' : State) (h : execArrayRead bank port ups s = .next s') :
    Only [.free, .regs, .cnt, .xc, .bank, .fr, .arb, .sq, .tr, .dbg, .fw, .rx, .pw] s s' := by
  unfold execArrayRead at h
  injection h with h
  subst h
  try dsimp only
  repeat' first
    | simp (maxDischargeDepth := 8) only [Only.iff_of (readBeatNow_only _ _ _ _ _ _ ), *, partsIn_nil, partsIn_cons, Only.self, Only.mk_iff, Only.forEach_iff, Only.when_iff, Only.ite_of, true_or, or_true, and_self, implies_true, List.mem_cons, reduceCtorEq, or_false, false_or, id_eq]
    | split
    | with_reducible refine Only.trans ?_ (Only.forEach (fun _ _ => ?_) _ _)
    | with_reducible refine Only.trans ?_ (Only.when (fun _ => ?_) _ _)

theorem execArrayWrite_only (bank : Nat) (port : Bool) (par : Parity) (s : State) (s' : State) (h : execArrayWrite bank port par s = .next s') :
    Only [.regs, .cnt, .xc, .mem, .bank, .fr, .arb, .sq, .tr, .dbg, .fw, .rx, .pw] s s' := by
  unfold execArrayWrite at h
  injection h with h
  subst h
  try dsimp only
  repeat' first
    | simp (maxDischargeDepth := 8) only [Only.iff_of (writeBeatNow_only _ _ _ _ _ _ ), *, partsIn_nil, partsIn_cons, Only.self, Only.mk_iff, Only.forEach_iff, Only.when_iff, Only.ite_of, true_or, or_true, and_self, implies_true, List.mem_cons, reduceCtorEq, or_false, false_or, id_eq]
    | split
    | with_reducible refine Only.trans ?_ (Only.forEach (fun _ _ => ?_) _ _)
    | with_reducible refine Only.trans ?_ (Only.when (fun _ => ?_) _ _)

theorem execAtomicExecute_only (bank : Nat) (port : Bool) (ups : List Upset) (par : Parity) (s : State) (s' : State) (h : execAtomicExecute bank port ups par s = .next s') :
    Only [.free, .regs, .cnt, .xc, .mem, .bank, .fr, .arb, .sq, .tr, .dbg, .fw, .pw] s s' := by
  unfold execAtomicExecute at h
  injection h with h
  subst h
  try dsimp only
  repeat' first
    | simp (maxDischargeDepth := 8) only [Only.iff_of (atomicNow_only _ _ _ _ _ _ ), *, partsIn_nil, partsIn_cons, Only.self, Only.mk_iff, Only.forEach_iff, Only.when_iff, Only.ite_of, true_or, or_true, and_self, implies_true, List.mem_cons, reduceCtorEq, or_false, false_or, id_eq]
    | split
    | with_reducible refine Only.trans ?_ (Only.forEach (fun _ _ => ?_) _ _)
    | with_reducible refine Only.trans ?_ (Only.when (fun _ => ?_) _ _)

theorem execWriteBack_only (bank : Nat) (s : State) (s' : State) (h : execWriteBack bank s = .next s') :
    Only [.mem, .bank, .fw, .pw] s s' := by
  unfold execWriteBack at h
  injection h with h
  subst h
  try dsimp only
  repeat' first
    | simp (maxDischargeDepth := 8) only [Only.iff_of (keepUndo_only _ _ _ _ _ _ _ ), Only.iff_of (storeWb_only _ _ ), *, partsIn_nil, partsIn_cons, Only.self, Only.mk_iff, Only.forEach_iff, Only.when_iff, Only.ite_of, true_or, or_true, and_self, implies_true, List.mem_cons, reduceCtorEq, or_false, false_or, id_eq]
    | split
    | with_reducible refine Only.trans ?_ (Only.forEach (fun _ _ => ?_) _ _)
    | with_reducible refine Only.trans ?_ (Only.when (fun _ => ?_) _ _)

end Sys2Proof.Machine
end

