-- ==== Sys2Proof/Laws/CanonArrays.lean ====
section
/-!
SUPPORT. Laws/CanonArrays.lean: the operations and commands of Machine/Arrays.lean keep memory, registers and counters in canonical form
(generated text, one lemma for each).
-/
namespace Sys2Proof.Machine

set_option linter.unusedSimpArgs false

theorem updBeat_canon (id n : Nat) (f : Beat → Beat) (s : State) (hc : Canonical s) : Canonical (updBeat id n f s) :=
  Canonical.of_only (updBeat_only id n f s) (by decide) hc

theorem spendShare_canon (req : Nat) (s : State) (hc : Canonical s) : Canonical (spendShare req s) :=
  Canonical.of_only (spendShare_only req s) (by decide) hc

theorem beatPerformed_canon (t : Tr) (lb : Nat) (s : State) (hc : Canonical s) : Canonical (beatPerformed t lb s) := by
  unfold beatPerformed
  repeat' first
    | with_reducible assumption
    | simp +contextual (maxDischargeDepth := 60) only [estimate_canon, progress_canon, countBeat_canon, spendShare_canon, Canonical.mk_iff, Canonical.forEach, Canonical.when, Canonical.ite_of, implies_true, id_eq, *]
    | (with_reducible refine estimate_canon _ _ _ ?_)
    | (with_reducible refine progress_canon _ _ ?_)
    | (with_reducible refine countBeat_canon _ _ _ _ ?_)
    | (with_reducible refine spendShare_canon _ _ ?_)
    | split
    | (with_reducible refine Canonical.forEach (fun _ _ _ => ?_) ?_)
    | (with_reducible refine Canonical.when (fun _ _ => ?_) ?_)

theorem readBeatNow_canon (t : Tr) (n : Nat) (b : Beat) (port : Bool) (ups : List Upset) (s : State) (hc : Canonical s) : Canonical (readBeatNow t n b port ups s) := by
  unfold readBeatNow
  repeat' first
    | with_reducible assumption
    | simp +contextual (maxDischargeDepth := 60) only [xbump_canon, readRow_canon, parkArrived_canon, settlePort_canon, updBeat_canon, beatPerformed_canon, Canonical.mk_iff, Canonical.forEach, Canonical.when, Canonical.ite_of, implies_true, id_eq, *]
    | (refine Canonical.snd (by assumption) (readRow_canon _ _ _ _ _ _ ?_))
    | (with_reducible refine xbump_canon _ _ _ ?_)
    | (with_reducible refine readRow_canon _ _ _ _ _ _ ?_)
    | (with_reducible refine parkArrived_canon _ _ _ _ _ ?_)
    | (with_reducible refine settlePort_canon _ _ ?_)
    | (with_reducible refine updBeat_canon _ _ _ _ ?_)
    | (with_reducible refine beatPerformed_canon _ _ _ ?_)
    | split
    | (with_reducible refine Canonical.forEach (fun _ _ _ => ?_) ?_)
    | (with_reducible refine Canonical.when (fun _ _ => ?_) ?_)

theorem writeBeatNow_canon (t : Tr) (n : Nat) (b : Beat) (port : Bool) (par : Parity) (s : State) (hc : Canonical s) : Canonical (writeBeatNow t n b port par s) := by
  unfold writeBeatNow
  repeat' first
    | with_reducible assumption
    | simp +contextual (maxDischargeDepth := 60) only [portStore_canon, watchStore_canon, markPlane_canon, netParity_canon, parkWritten_canon, settlePort_canon, settleLane_canon, updBeat_canon, beatPerformed_canon, Canonical.mk_iff, Canonical.forEach, Canonical.when, Canonical.ite_of, implies_true, id_eq, *]
    | (with_reducible refine portStore_canon _ _ _ _ _ _ _ _ _ _ ?_)
    | (with_reducible refine watchStore_canon _ _ _ _ _ _ _ _ ?_)
    | (with_reducible refine markPlane_canon _ _ _ ?_)
    | (with_reducible refine netParity_canon _ _ _ _ _ ?_)
    | (with_reducible refine parkWritten_canon _ _ ?_)
    | (with_reducible refine settlePort_canon _ _ ?_)
    | (with_reducible refine settleLane_canon _ _ _ ?_)
    | (with_reducible refine updBeat_canon _ _ _ _ ?_)
    | (with_reducible refine beatPerformed_canon _ _ _ ?_)
    | split
    | (with_reducible refine Canonical.forEach (fun _ _ _ => ?_) ?_)
    | (with_reducible refine Canonical.when (fun _ _ => ?_) ?_)

theorem atomicNow_canon (t : Tr) (b : Beat) (port : Bool) (ups : List Upset) (par : Parity) (s : State) (hc : Canonical s) : Canonical (atomicNow t b port ups par s) := by
  unfold atomicNow
  repeat' first
    | with_reducible assumption
    | simp +contextual (maxDischargeDepth := 60) only [readRow_canon, storeRow_canon, keepUndo_canon, markPlane_canon, netParity_canon, settleLane_canon, updBeat_canon, beatPerformed_canon, Canonical.mk_iff, Canonical.forEach, Canonical.when, Canonical.ite_of, implies_true, id_eq, *]
    | (refine Canonical.snd (by assumption) (readRow_canon _ _ _ _ _ _ ?_))
    | (with_reducible refine readRow_canon _ _ _ _ _ _ ?_)
    | (with_reducible refine storeRow_canon _ _ _ _ _ _ _ _ ?_)
    | (with_reducible refine keepUndo_canon _ _ _ _ _ _ _ ?_)
    | (with_reducible refine markPlane_canon _ _ _ ?_)
    | (with_reducible refine netParity_canon _ _ _ _ _ ?_)
    | (with_reducible refine settleLane_canon _ _ _ ?_)
    | (with_reducible refine updBeat_canon _ _ _ _ ?_)
    | (with_reducible refine beatPerformed_canon _ _ _ ?_)
    | split
    | (with_reducible refine Canonical.forEach (fun _ _ _ => ?_) ?_)
    | (with_reducible refine Canonical.when (fun _ _ => ?_) ?_)

theorem execArrayRead_canon (bank : Nat) (port : Bool) (ups : List Upset) (s : State) (s' : State) (h : execArrayRead bank port ups s = .next s') (hc : Canonical s) : Canonical s' := by
  unfold execArrayRead at h
  injection h with h
  subst h
  try dsimp only
  repeat' first
    | with_reducible assumption
    | simp +contextual (maxDischargeDepth := 60) only [readBeatNow_canon, Canonical.mk_iff, Canonical.forEach, Canonical.when, Canonical.ite_of, implies_true, id_eq, *]
    | (with_reducible refine readBeatNow_canon _ _ _ _ _ _ ?_)
    | split
    | (with_reducible refine Canonical.forEach (fun _ _ _ => ?_) ?_)
    | (with_reducible refine Canonical.when (fun _ _ => ?_) ?_)

theorem execArrayWrite_canon (bank : Nat) (port : Bool) (par : Parity) (s : State) (s' : State) (h : execArrayWrite bank port par s = .next s') (hc : Canonical s) : Canonical s' := by
  unfold execArrayWrite at h
  injection h with h
  subst h
  try dsimp only
  repeat' first
    | with_reducible assumption
    | simp +contextual (maxDischargeDepth := 60) only [writeBeatNow_canon, Canonical.mk_iff, Canonical.forEach, Canonical.when, Canonical.ite_of, implies_true, id_eq, *]
    | (with_reducible refine writeBeatNow_canon _ _ _ _ _ _ ?_)
    | split
    | (with_reducible refine Canonical.forEach (fun _ _ _ => ?_) ?_)
    | (with_reducible refine Canonical.when (fun _ _ => ?_) ?_)

theorem execAtomicExecute_canon (bank : Nat) (port : Bool) (ups : List Upset) (par : Parity) (s : State) (s' : State) (h : execAtomicExecute bank port ups par s = .next s') (hc : Canonical s) : Canonical s' := by
  unfold execAtomicExecute at h
  injection h with h
  subst h
  try dsimp only
  repeat' first
    | with_reducible assumption
    | simp +contextual (maxDischargeDepth := 60) only [atomicNow_canon, Canonical.mk_iff, Canonical.forEach, Canonical.when, Canonical.ite_of, implies_true, id_eq, *]
    | (with_reducible refine atomicNow_canon _ _ _ _ _ _ ?_)
    | split
    | (with_reducible refine Canonical.forEach (fun _ _ _ => ?_) ?_)
    | (with_reducible refine Canonical.when (fun _ _ => ?_) ?_)

theorem execWriteBack_canon (bank : Nat) (s : State) (s' : State) (h : execWriteBack bank s = .next s') (hc : Canonical s) : Canonical s' := by
  unfold execWriteBack at h
  injection h with h
  subst h
  try dsimp only
  repeat' first
    | with_reducible assumption
    | simp +contextual (maxDischargeDepth := 60) only [keepUndo_canon, storeWb_canon, Canonical.mk_iff, Canonical.forEach, Canonical.when, Canonical.ite_of, implies_true, id_eq, *]
    | (with_reducible refine keepUndo_canon _ _ _ _ _ _ _ ?_)
    | (with_reducible refine storeWb_canon _ _ ?_)
    | split
    | (with_reducible refine Canonical.forEach (fun _ _ _ => ?_) ?_)
    | (with_reducible refine Canonical.when (fun _ _ => ?_) ?_)

end Sys2Proof.Machine
end

