-- ==== Sys2Proof/Laws/OnlyCounters.lean ====
section
/-!
SUPPORT. Laws/OnlyCounters.lean: what each operation of Machine/Counters.lean may change (generated text, one lemma for each operation).
-/
namespace Sys2Proof.Machine

set_option linter.unusedSimpArgs false
set_option linter.tactic.unusedName false

theorem latchCounter_only (l : Nat) (c : BitVec 56) (s : State) :
    Only [.bus] s (latchCounter l c s).2 := by
  unfold latchCounter
  repeat' first
    | simp (maxDischargeDepth := 8) only [*, partsIn_nil, partsIn_cons, Only.self, Only.mk_iff, Only.forEach_iff, Only.when_iff, Only.ite_of, true_or, or_true, and_self, implies_true, List.mem_cons, reduceCtorEq, or_false, false_or, id_eq]
    | split
    | with_reducible refine Only.trans ?_ (Only.forEach (fun _ _ => ?_) _ _)
    | with_reducible refine Only.trans ?_ (Only.when (fun _ => ?_) _ _)

theorem beforeLoad_only {ps : List Part} (s : State) (act : State → Word × State) (ha : ∀ s, Only ps s (act s).2) :
    Only ps s (beforeLoad s act).2 := by
  unfold beforeLoad
  split
  · exact ha s
  · exact Only.refl _ _

theorem xcAdvance_only (l : Nat) (s : State) :
    Only [.bus] s (xcAdvance l s) := by
  unfold xcAdvance
  repeat' first
    | simp (maxDischargeDepth := 8) only [*, partsIn_nil, partsIn_cons, Only.self, Only.mk_iff, Only.forEach_iff, Only.when_iff, Only.ite_of, true_or, or_true, and_self, implies_true, List.mem_cons, reduceCtorEq, or_false, false_or, id_eq]
    | split
    | with_reducible refine Only.trans ?_ (Only.forEach (fun _ _ => ?_) _ _)
    | with_reducible refine Only.trans ?_ (Only.when (fun _ => ?_) _ _)

theorem writeXcCtl_only (w : Word) (s : State) :
    Only [.regs, .xc] s (writeXcCtl w s) := by
  unfold writeXcCtl
  repeat' first
    | simp (maxDischargeDepth := 8) only [Only.iff_of (setReg_only _ _ _ ), *, partsIn_nil, partsIn_cons, Only.self, Only.mk_iff, Only.forEach_iff, Only.when_iff, Only.ite_of, true_or, or_true, and_self, implies_true, List.mem_cons, reduceCtorEq, or_false, false_or, id_eq]
    | split
    | with_reducible refine Only.trans ?_ (Only.forEach (fun _ _ => ?_) _ _)
    | with_reducible refine Only.trans ?_ (Only.when (fun _ => ?_) _ _)

end Sys2Proof.Machine
end

