-- ==== Sys2Proof/Laws/ExecCounters.lean ====
section
/-!
SUPPORT. Laws/ExecCounters.lean: what each command of Machine/Counters.lean may change (generated text, one lemma for each command).
-/
namespace Sys2Proof.Machine

set_option linter.unusedSimpArgs false
set_option linter.tactic.unusedName false

theorem execXcLoRead_only (a : BusAcc) (s : State) (s' : State) (h : execXcLoRead a s = .next s') :
    Only [.regs, .cnt, .bus, .tr, .dbg] s s' := by
  unfold execXcLoRead at h
  injection h with h
  subst h
  try dsimp only
  repeat' first
    | (with_reducible refine Only.trans ?_ (busRead_only _ _ _ _ (by decide) (fun _ => ?_)))
    | (with_reducible refine Only.trans ?_ (beforeLoad_only _ _ (fun _ => ?_)))
    | simp (maxDischargeDepth := 8) only [Only.iff_of (latchCounter_only _ _ _ ), *, partsIn_nil, partsIn_cons, Only.self, Only.mk_iff, Only.forEach_iff, Only.when_iff, Only.ite_of, true_or, or_true, and_self, implies_true, List.mem_cons, reduceCtorEq, or_false, false_or, id_eq]
    | (refine Only.snd (by assumption) (latchCounter_only _ _ _ ) (by decide) ?_)
    | split
    | with_reducible refine Only.trans ?_ (Only.forEach (fun _ _ => ?_) _ _)
    | with_reducible refine Only.trans ?_ (Only.when (fun _ => ?_) _ _)

theorem execXcHiRead_only (a : BusAcc) (s : State) (s' : State) (h : execXcHiRead a s = .next s') :
    Only [.regs, .cnt, .bus, .tr, .dbg] s s' := by
  unfold execXcHiRead at h
  injection h with h
  subst h
  try dsimp only
  repeat' first
    | (with_reducible refine Only.trans ?_ (busRead_only _ _ _ _ (by decide) (fun _ => ?_)))
    | (with_reducible refine Only.trans ?_ (beforeLoad_only _ _ (fun _ => ?_)))
    | simp (maxDischargeDepth := 8) only [Only.iff_of (xcAdvance_only _ _ ), *, partsIn_nil, partsIn_cons, Only.self, Only.mk_iff, Only.forEach_iff, Only.when_iff, Only.ite_of, true_or, or_true, and_self, implies_true, List.mem_cons, reduceCtorEq, or_false, false_or, id_eq]
    | split
    | with_reducible refine Only.trans ?_ (Only.forEach (fun _ _ => ?_) _ _)
    | with_reducible refine Only.trans ?_ (Only.when (fun _ => ?_) _ _)

theorem execXcClear_only (a : BusAcc) (w : Word) (s : State) (s' : State) (h : execXcClear a w s = .next s') :
    Only [.regs, .cnt, .xc, .bus, .tr, .dbg] s s' := by
  unfold execXcClear at h
  injection h with h
  subst h
  try dsimp only
  repeat' first
    | (with_reducible refine Only.trans ?_ (busWrite_only _ _ _ _ (by decide) (fun _ => ?_)))
    | simp (maxDischargeDepth := 8) only [Only.iff_of (writeXcCtl_only _ _ ), *, partsIn_nil, partsIn_cons, Only.self, Only.mk_iff, Only.forEach_iff, Only.when_iff, Only.ite_of, true_or, or_true, and_self, implies_true, List.mem_cons, reduceCtorEq, or_false, false_or, id_eq]
    | split
    | with_reducible refine Only.trans ?_ (Only.forEach (fun _ _ => ?_) _ _)
    | with_reducible refine Only.trans ?_ (Only.when (fun _ => ?_) _ _)

end Sys2Proof.Machine
end

