-- ==== Sys2Proof/Laws/CanonCounters.lean ====
section
/-!
SUPPORT. Laws/CanonCounters.lean: the operations and commands of Machine/Counters.lean keep memory, registers and counters in canonical form
(generated text, one lemma for each).
-/
namespace Sys2Proof.Machine

set_option linter.unusedSimpArgs false

theorem latchCounter_canon (l : Nat) (c : BitVec 56) (s : State) (hc : Canonical s) : Canonical (latchCounter l c s).2 :=
  Canonical.of_only (latchCounter_only l c s) (by decide) hc

theorem beforeLoad_canon (s : State) (act : State → Word × State) (ha : ∀ s, Canonical s → Canonical (act s).2) (hc : Canonical s) :
    Canonical (beforeLoad s act).2 := by
  unfold beforeLoad
  split
  · exact ha s hc
  · exact hc

theorem xcAdvance_canon (l : Nat) (s : State) (hc : Canonical s) : Canonical (xcAdvance l s) :=
  Canonical.of_only (xcAdvance_only l s) (by decide) hc

theorem writeXcCtl_canon (w : Word) (s : State) (hc : Canonical s) : Canonical (writeXcCtl w s) := by
  have h := setReg_canon 0x5F00 (w &&& 1) s hc
  unfold writeXcCtl
  dsimp only
  split
  · exact ⟨h.1, h.2.1, h.2.2.1, rfl⟩
  · exact h

theorem execXcLoRead_canon (a : BusAcc) (s : State) (s' : State) (h : execXcLoRead a s = .next s') (hc : Canonical s) : Canonical s' := by
  unfold execXcLoRead at h
  injection h with h
  subst h
  try dsimp only
  repeat' first
    | (with_reducible refine busRead_canon _ _ _ _ (fun _ _ => ?_) ?_)
    | (with_reducible refine beforeLoad_canon _ _ (fun _ _ => ?_) ?_)
    | with_reducible assumption
    | simp +contextual (maxDischargeDepth := 60) only [latchCounter_canon, Canonical.mk_iff, Canonical.forEach, Canonical.when, Canonical.ite_of, implies_true, id_eq, *]
    | (refine Canonical.snd (by assumption) (latchCounter_canon _ _ _ ?_))
    | (with_reducible refine latchCounter_canon _ _ _ ?_)
    | split
    | (with_reducible refine Canonical.forEach (fun _ _ _ => ?_) ?_)
    | (with_reducible refine Canonical.when (fun _ _ => ?_) ?_)

theorem execXcHiRead_canon (a : BusAcc) (s : State) (s' : State) (h : execXcHiRead a s = .next s') (hc : Canonical s) : Canonical s' := by
  unfold execXcHiRead at h
  injection h with h
  subst h
  try dsimp only
  repeat' first
    | (with_reducible refine busRead_canon _ _ _ _ (fun _ _ => ?_) ?_)
    | (with_reducible refine beforeLoad_canon _ _ (fun _ _ => ?_) ?_)
    | with_reducible assumption
    | simp +contextual (maxDischargeDepth := 60) only [xcAdvance_canon, Canonical.mk_iff, Canonical.forEach, Canonical.when, Canonical.ite_of, implies_true, id_eq, *]
    | (with_reducible refine xcAdvance_canon _ _ ?_)
    | split
    | (with_reducible refine Canonical.forEach (fun _ _ _ => ?_) ?_)
    | (with_reducible refine Canonical.when (fun _ _ => ?_) ?_)

theorem execXcClear_canon (a : BusAcc) (w : Word) (s : State) (s' : State) (h : execXcClear a w s = .next s') (hc : Canonical s) : Canonical s' := by
  unfold execXcClear at h
  injection h with h
  subst h
  try dsimp only
  repeat' first
    | (with_reducible refine busWrite_canon _ _ _ _ (fun _ _ => ?_) ?_)
    | with_reducible assumption
    | simp +contextual (maxDischargeDepth := 60) only [writeXcCtl_canon, Canonical.mk_iff, Canonical.forEach, Canonical.when, Canonical.ite_of, implies_true, id_eq, *]
    | (with_reducible refine writeXcCtl_canon _ _ ?_)
    | split
    | (with_reducible refine Canonical.forEach (fun _ _ _ => ?_) ?_)
    | (with_reducible refine Canonical.when (fun _ _ => ?_) ?_)

end Sys2Proof.Machine
end

