-- ==== Sys2Proof/Laws/CanonWaybill.lean ====
section
/-!
SUPPORT. Laws/CanonWaybill.lean: the operations and commands of Machine/Waybill.lean keep memory, registers and counters in canonical form
(generated text, one lemma for each).
-/
namespace Sys2Proof.Machine

set_option linter.unusedSimpArgs false

theorem failLoad_canon (reason typ off : Nat) (s : State) (hc : Canonical s) : Canonical (failLoad reason typ off s) := by
  unfold failLoad
  repeat' first
    | with_reducible assumption
    | simp +contextual (maxDischargeDepth := 60) only [setReg_canon, raise_canon, Canonical.mk_iff, Canonical.forEach, Canonical.when, Canonical.ite_of, implies_true, id_eq, *]
    | (with_reducible refine setReg_canon _ _ _ ?_)
    | (with_reducible refine raise_canon _ _ ?_)
    | split
    | (with_reducible refine Canonical.forEach (fun _ _ _ => ?_) ?_)
    | (with_reducible refine Canonical.when (fun _ _ => ?_) ?_)

theorem receiveWord_canon (w : Word) (s : State) (hc : Canonical s) : Canonical (receiveWord w s) := by
  unfold receiveWord
  repeat' first
    | with_reducible assumption
    | simp +contextual (maxDischargeDepth := 60) only [setReg_canon, setRegF_canon, failLoad_canon, Canonical.mk_iff, Canonical.forEach, Canonical.when, Canonical.ite_of, implies_true, id_eq, *]
    | (with_reducible refine setReg_canon _ _ _ ?_)
    | (with_reducible refine setRegF_canon _ _ _ _ _ ?_)
    | (with_reducible refine failLoad_canon _ _ _ _ ?_)
    | split
    | (with_reducible refine Canonical.forEach (fun _ _ _ => ?_) ?_)
    | (with_reducible refine Canonical.when (fun _ _ => ?_) ?_)

theorem loadMaps_canon (m : FwMap) (s : State) (hc : Canonical s) : Canonical (loadMaps m s) := by
  unfold loadMaps
  repeat' first
    | with_reducible assumption
    | simp +contextual (maxDischargeDepth := 60) only [orReg_canon, setRegs_canon, Canonical.mk_iff, Canonical.forEach, Canonical.when, Canonical.ite_of, implies_true, id_eq, *]
    | (with_reducible refine orReg_canon _ _ _ ?_)
    | (with_reducible refine setRegs_canon _ _ _ ?_)
    | split
    | (with_reducible refine Canonical.forEach (fun _ _ _ => ?_) ?_)
    | (with_reducible refine Canonical.when (fun _ _ => ?_) ?_)

theorem defaultPower_canon (lb slot : Nat) (s : State) (hc : Canonical s) : Canonical (defaultPower lb slot s) :=
  Canonical.of_only (defaultPower_only lb slot s) (by decide) hc

theorem preload_canon (ss : List Sect) (s : State) (hc : Canonical s) : Canonical (preload ss s) := by
  unfold preload
  repeat' first
    | with_reducible assumption
    | simp +contextual (maxDischargeDepth := 60) only [setReg_canon, orReg_canon, Canonical.mk_iff, Canonical.forEach, Canonical.when, Canonical.ite_of, implies_true, id_eq, *]
    | (with_reducible refine setReg_canon _ _ _ ?_)
    | (with_reducible refine orReg_canon _ _ _ ?_)
    | split
    | (with_reducible refine Canonical.forEach (fun _ _ _ => ?_) ?_)
    | (with_reducible refine Canonical.when (fun _ _ => ?_) ?_)

theorem loadRegs_canon (ss : List Sect) (s : State) (hc : Canonical s) : Canonical (loadRegs ss s) := by
  unfold loadRegs
  repeat' first
    | with_reducible assumption
    | simp +contextual (maxDischargeDepth := 60) only [setReg_canon, setRegs_canon, preload_canon, Canonical.mk_iff, Canonical.forEach, Canonical.when, Canonical.ite_of, implies_true, id_eq, *]
    | (with_reducible refine setReg_canon _ _ _ ?_)
    | (with_reducible refine setRegs_canon _ _ _ ?_)
    | (with_reducible refine preload_canon _ _ ?_)
    | split
    | (with_reducible refine Canonical.forEach (fun _ _ _ => ?_) ?_)
    | (with_reducible refine Canonical.when (fun _ _ => ?_) ?_)

theorem loadRails_canon (s : State) (hc : Canonical s) : Canonical (loadRails s) :=
  Canonical.of_only (loadRails_only s) (by decide) hc

theorem loadPower_canon (ss : List Sect) (m : FwMap) (s : State) (hc : Canonical s) : Canonical (loadPower ss m s) := by
  unfold loadPower
  repeat' first
    | with_reducible assumption
    | simp +contextual (maxDischargeDepth := 60) only [setReg_canon, setRegs_canon, setDom_canon, defaultPower_canon, Canonical.mk_iff, Canonical.forEach, Canonical.when, Canonical.ite_of, implies_true, id_eq, *]
    | (with_reducible refine setReg_canon _ _ _ ?_)
    | (with_reducible refine setRegs_canon _ _ _ ?_)
    | (with_reducible refine setDom_canon _ _ _ ?_)
    | (with_reducible refine defaultPower_canon _ _ _ ?_)
    | split
    | (with_reducible refine Canonical.forEach (fun _ _ _ => ?_) ?_)
    | (with_reducible refine Canonical.when (fun _ _ => ?_) ?_)

theorem loadQuota_canon (ss : List Sect) (m : FwMap) (s : State) (hc : Canonical s) : Canonical (loadQuota ss m s) := by
  unfold loadQuota
  repeat' first
    | with_reducible assumption
    | simp +contextual (maxDischargeDepth := 60) only [setRegs_canon, Canonical.mk_iff, Canonical.forEach, Canonical.when, Canonical.ite_of, implies_true, id_eq, *]
    | (with_reducible refine setRegs_canon _ _ _ ?_)
    | split
    | (with_reducible refine Canonical.forEach (fun _ _ _ => ?_) ?_)
    | (with_reducible refine Canonical.when (fun _ _ => ?_) ?_)

theorem applyImage_canon (s : State) (hc : Canonical s) : Canonical (applyImage s) := by
  unfold applyImage
  repeat' first
    | with_reducible assumption
    | simp +contextual (maxDischargeDepth := 60) only [setReg_canon, raise_canon, startTrace_canon, takeHeld_canon, reloadStaging_canon, rekeyCtx_canon, loadMaps_canon, loadRegs_canon, loadRails_canon, loadPower_canon, loadQuota_canon, Canonical.mk_iff, Canonical.forEach, Canonical.when, Canonical.ite_of, implies_true, id_eq, *]
    | (with_reducible refine setReg_canon _ _ _ ?_)
    | (with_reducible refine raise_canon _ _ ?_)
    | (with_reducible refine startTrace_canon _ ?_)
    | (with_reducible refine takeHeld_canon _ ?_)
    | (with_reducible refine reloadStaging_canon _ ?_)
    | (with_reducible refine rekeyCtx_canon _ _ ?_)
    | (with_reducible refine loadMaps_canon _ _ ?_)
    | (with_reducible refine loadRegs_canon _ _ ?_)
    | (with_reducible refine loadRails_canon _ ?_)
    | (with_reducible refine loadPower_canon _ _ _ ?_)
    | (with_reducible refine loadQuota_canon _ _ _ ?_)
    | split
    | (with_reducible refine Canonical.forEach (fun _ _ _ => ?_) ?_)
    | (with_reducible refine Canonical.when (fun _ _ => ?_) ?_)

theorem execCfgRequest_canon (s : State) (s' : State) (h : execCfgRequest s = .next s') (hc : Canonical s) : Canonical s' :=
  (execCfgRequest_only s s' h |> Canonical.of_only) (by decide) hc

theorem execCfgWord_canon (w : Word) (s : State) (s' : State) (h : execCfgWord w s = .next s') (hc : Canonical s) : Canonical s' := by
  unfold execCfgWord at h
  injection h with h
  subst h
  try dsimp only
  repeat' first
    | with_reducible assumption
    | simp +contextual (maxDischargeDepth := 60) only [receiveWord_canon, Canonical.mk_iff, Canonical.forEach, Canonical.when, Canonical.ite_of, implies_true, id_eq, *]
    | (with_reducible refine receiveWord_canon _ _ ?_)
    | split
    | (with_reducible refine Canonical.forEach (fun _ _ _ => ?_) ?_)
    | (with_reducible refine Canonical.when (fun _ _ => ?_) ?_)

theorem execWaybillCheck_canon (s : State) (s' : State) (h : execWaybillCheck s = .next s') (hc : Canonical s) : Canonical s' := by
  unfold execWaybillCheck at h
  injection h with h
  subst h
  try dsimp only
  repeat' first
    | with_reducible assumption
    | simp +contextual (maxDischargeDepth := 60) only [failLoad_canon, applyImage_canon, Canonical.mk_iff, Canonical.forEach, Canonical.when, Canonical.ite_of, implies_true, id_eq, *]
    | (with_reducible refine failLoad_canon _ _ _ _ ?_)
    | (with_reducible refine applyImage_canon _ ?_)
    | split
    | (with_reducible refine Canonical.forEach (fun _ _ _ => ?_) ?_)
    | (with_reducible refine Canonical.when (fun _ _ => ?_) ?_)

theorem execLoadTimeout_canon (s : State) (s' : State) (h : execLoadTimeout s = .next s') (hc : Canonical s) : Canonical s' := by
  unfold execLoadTimeout at h
  injection h with h
  subst h
  try dsimp only
  repeat' first
    | with_reducible assumption
    | simp +contextual (maxDischargeDepth := 60) only [failLoad_canon, Canonical.mk_iff, Canonical.forEach, Canonical.when, Canonical.ite_of, implies_true, id_eq, *]
    | (with_reducible refine failLoad_canon _ _ _ _ ?_)
    | split
    | (with_reducible refine Canonical.forEach (fun _ _ _ => ?_) ?_)
    | (with_reducible refine Canonical.when (fun _ _ => ?_) ?_)

end Sys2Proof.Machine
end

