-- ==== Sys2Proof/Laws/OnlyReset.lean ====
section
/-!
SUPPORT. Laws/OnlyReset.lean: what each operation of Machine/Reset.lean may change (generated text, one lemma for each operation).
-/
namespace Sys2Proof.Machine

set_option linter.unusedSimpArgs false
set_option linter.tactic.unusedName false

theorem powerOnReset_only (s : State) : Only [.cyc, .regs, .cnt, .xc, .bus, .mem, .bank, .fr, .arb, .sq, .tb, .bl, .hd, .tm, .tr, .dbg, .fw, .rx, .pw, .ck, .pr] s (powerOnReset s) := by
  intro p hp
  cases p <;> first | exact absurd (by decide) hp | rfl

theorem tileReset_only (cause : Nat) (s : State) : Only [.cyc, .regs, .cnt, .xc, .bus, .mem, .bank, .fr, .arb, .sq, .tb, .bl, .hd, .tr, .dbg, .fw, .rx, .pw, .ck, .pr] s (tileReset cause s) := by
  unfold tileReset
  refine Only.step (setReg_only _ _ _) (by decide) ?_
  refine Only.step (setReg_only _ _ _) (by decide) ?_
  refine Only.step (Only.forEach (fun o t => setReg_only o _ t) _ _) (by decide) ?_
  intro p hp
  cases p <;> first | exact absurd (by decide) hp | rfl

theorem sampleIdentity_only (part : BitVec 64) (tile : BitVec 5) (s : State) :
    Only [.regs, .ck] s (sampleIdentity part tile s) := by
  unfold sampleIdentity
  repeat' first
    | simp (maxDischargeDepth := 8) only [Only.iff_of (setReg_only _ _ _ ), *, partsIn_nil, partsIn_cons, Only.self, Only.mk_iff, Only.forEach_iff, Only.when_iff, Only.ite_of, true_or, or_true, and_self, implies_true, List.mem_cons, reduceCtorEq, or_false, false_or, id_eq]
    | split
    | with_reducible refine Only.trans ?_ (Only.forEach (fun _ _ => ?_) _ _)
    | with_reducible refine Only.trans ?_ (Only.when (fun _ => ?_) _ _)

theorem released_only (part : BitVec 64) (tile : BitVec 5) (s : State) :
    Only [.regs, .ck] s (released part tile s) := by
  unfold released
  repeat' first
    | simp (maxDischargeDepth := 8) only [Only.iff_of (sampleIdentity_only _ _ _ ), *, partsIn_nil, partsIn_cons, Only.self, Only.mk_iff, Only.forEach_iff, Only.when_iff, Only.ite_of, true_or, or_true, and_self, implies_true, List.mem_cons, reduceCtorEq, or_false, false_or, id_eq]
    | split
    | with_reducible refine Only.trans ?_ (Only.forEach (fun _ _ => ?_) _ _)
    | with_reducible refine Only.trans ?_ (Only.when (fun _ => ?_) _ _)

theorem writeRstCtl_only (w : Word) (s : State) :
    Only [.cyc, .regs, .cnt, .xc, .bus, .mem, .bank, .fr, .arb, .sq, .tb, .bl, .hd, .tr, .dbg, .fw, .rx, .pw, .ck, .pr] s (writeRstCtl w s) := by
  unfold writeRstCtl
  repeat' first
    | simp (maxDischargeDepth := 8) only [Only.iff_of (tileReset_only _ _ ), *, partsIn_nil, partsIn_cons, Only.self, Only.mk_iff, Only.forEach_iff, Only.when_iff, Only.ite_of, true_or, or_true, and_self, implies_true, List.mem_cons, reduceCtorEq, or_false, false_or, id_eq]
    | split
    | with_reducible refine Only.trans ?_ (Only.forEach (fun _ _ => ?_) _ _)
    | with_reducible refine Only.trans ?_ (Only.when (fun _ => ?_) _ _)

end Sys2Proof.Machine
end

