-- ==== Sys2Proof/Laws/ExecReset.lean ====
section
/-!
SUPPORT. Laws/ExecReset.lean: what each command of Machine/Reset.lean may change (generated text, one lemma for each command).
-/
namespace Sys2Proof.Machine

set_option linter.unusedSimpArgs false
set_option linter.tactic.unusedName false

theorem execPowerOnResetAssert_only (s : State) (s' : State) (h : execPowerOnResetAssert s = .next s') :
    Only [.cyc, .regs, .cnt, .xc, .bus, .mem, .bank, .fr, .arb, .sq, .tb, .bl, .hd, .tm, .tr, .dbg, .fw, .rx, .pw, .ck, .pr] s s' := by
  unfold execPowerOnResetAssert at h
  injection h with h
  subst h
  try dsimp only
  repeat' first
    | simp (maxDischargeDepth := 8) only [Only.iff_of (powerOnReset_only _ ), *, partsIn_nil, partsIn_cons, Only.self, Only.mk_iff, Only.forEach_iff, Only.when_iff, Only.ite_of, true_or, or_true, and_self, implies_true, List.mem_cons, reduceCtorEq, or_false, false_or, id_eq]
    | split
    | with_reducible refine Only.trans ?_ (Only.forEach (fun _ _ => ?_) _ _)
    | with_reducible refine Only.trans ?_ (Only.when (fun _ => ?_) _ _)

theorem execPowerOnResetRelease_only (part : BitVec 64) (tile : BitVec 5) (field : Bool) (s : State) (s' : State) (h : execPowerOnResetRelease part tile field s = .next s') :
    Only [.regs, .ck] s s' := by
  unfold execPowerOnResetRelease at h
  injection h with h
  subst h
  try dsimp only
  repeat' first
    | simp (maxDischargeDepth := 8) only [Only.iff_of (released_only _ _ _ ), *, partsIn_nil, partsIn_cons, Only.self, Only.mk_iff, Only.forEach_iff, Only.when_iff, Only.ite_of, true_or, or_true, and_self, implies_true, List.mem_cons, reduceCtorEq, or_false, false_or, id_eq]
    | split
    | with_reducible refine Only.trans ?_ (Only.forEach (fun _ _ => ?_) _ _)
    | with_reducible refine Only.trans ?_ (Only.when (fun _ => ?_) _ _)

theorem execTileResetAssert_only (s : State) (s' : State) (h : execTileResetAssert s = .next s') :
    Only [.cyc, .regs, .cnt, .xc, .bus, .mem, .bank, .fr, .arb, .sq, .tb, .bl, .hd, .tr, .dbg, .fw, .rx, .pw, .ck, .pr] s s' := by
  unfold execTileResetAssert at h
  injection h with h
  subst h
  try dsimp only
  repeat' first
    | simp (maxDischargeDepth := 8) only [Only.iff_of (tileReset_only _ _ ), *, partsIn_nil, partsIn_cons, Only.self, Only.mk_iff, Only.forEach_iff, Only.when_iff, Only.ite_of, true_or, or_true, and_self, implies_true, List.mem_cons, reduceCtorEq, or_false, false_or, id_eq]
    | split
    | with_reducible refine Only.trans ?_ (Only.forEach (fun _ _ => ?_) _ _)
    | with_reducible refine Only.trans ?_ (Only.when (fun _ => ?_) _ _)

theorem execTileResetRelease_only (part : BitVec 64) (tile : BitVec 5) (s : State) (s' : State) (h : execTileResetRelease part tile s = .next s') :
    Only [.regs, .ck] s s' := by
  unfold execTileResetRelease at h
  injection h with h
  subst h
  try dsimp only
  repeat' first
    | simp (maxDischargeDepth := 8) only [Only.iff_of (released_only _ _ _ ), *, partsIn_nil, partsIn_cons, Only.self, Only.mk_iff, Only.forEach_iff, Only.when_iff, Only.ite_of, true_or, or_true, and_self, implies_true, List.mem_cons, reduceCtorEq, or_false, false_or, id_eq]
    | split
    | with_reducible refine Only.trans ?_ (Only.forEach (fun _ _ => ?_) _ _)
    | with_reducible refine Only.trans ?_ (Only.when (fun _ => ?_) _ _)

theorem execSoftwareTileReset_only (a : BusAcc) (w : Word) (s : State) (s' : State) (h : execSoftwareTileReset a w s = .next s') :
    Only [.cyc, .regs, .cnt, .xc, .bus, .mem, .bank, .fr, .arb, .sq, .tb, .bl, .hd, .tr, .dbg, .fw, .rx, .pw, .ck, .pr] s s' := by
  unfold execSoftwareTileReset at h
  injection h with h
  subst h
  try dsimp only
  repeat' first
    | (with_reducible refine Only.trans ?_ (busWrite_only _ _ _ _ (by decide) (fun _ => ?_)))
    | simp (maxDischargeDepth := 8) only [Only.iff_of (writeRstCtl_only _ _ ), *, partsIn_nil, partsIn_cons, Only.self, Only.mk_iff, Only.forEach_iff, Only.when_iff, Only.ite_of, true_or, or_true, and_self, implies_true, List.mem_cons, reduceCtorEq, or_false, false_or, id_eq]
    | split
    | with_reducible refine Only.trans ?_ (Only.forEach (fun _ _ => ?_) _ _)
    | with_reducible refine Only.trans ?_ (Only.when (fun _ => ?_) _ _)

theorem execSoftwareResetEnd_only (part : BitVec 64) (tile : BitVec 5) (s : State) (s' : State) (h : execSoftwareResetEnd part tile s = .next s') :
    Only [.regs, .ck] s s' := by
  unfold execSoftwareResetEnd at h
  injection h with h
  subst h
  try dsimp only
  repeat' first
    | simp (maxDischargeDepth := 8) only [Only.iff_of (released_only _ _ _ ), *, partsIn_nil, partsIn_cons, Only.self, Only.mk_iff, Only.forEach_iff, Only.when_iff, Only.ite_of, true_or, or_true, and_self, implies_true, List.mem_cons, reduceCtorEq, or_false, false_or, id_eq]
    | split
    | with_reducible refine Only.trans ?_ (Only.forEach (fun _ _ => ?_) _ _)
    | with_reducible refine Only.trans ?_ (Only.when (fun _ => ?_) _ _)

theorem execClockSeen_only (clk : BitVec 4) (s : State) (s' : State) (h : execClockSeen clk s = .next s') :
    Only [.regs] s s' := by
  unfold execClockSeen at h
  injection h with h
  subst h
  try dsimp only
  repeat' first
    | simp (maxDischargeDepth := 8) only [Only.iff_of (orReg_only _ _ _ ), *, partsIn_nil, partsIn_cons, Only.self, Only.mk_iff, Only.forEach_iff, Only.when_iff, Only.ite_of, true_or, or_true, and_self, implies_true, List.mem_cons, reduceCtorEq, or_false, false_or, id_eq]
    | split
    | with_reducible refine Only.trans ?_ (Only.forEach (fun _ _ => ?_) _ _)
    | with_reducible refine Only.trans ?_ (Only.when (fun _ => ?_) _ _)

end Sys2Proof.Machine
end

