-- ==== Sys2Proof/Laws/CanonReset.lean ====
section
/-!
SUPPORT. Laws/CanonReset.lean: the operations and commands of Machine/Reset.lean keep memory, registers and counters in canonical form
(generated text, one lemma for each).
-/
namespace Sys2Proof.Machine

set_option linter.unusedSimpArgs false

theorem powerOnReset_canon (s : State) (hc : Canonical s) : Canonical (powerOnReset s) := by
  let _ := hc
  exact Canonical.reset

theorem tileReset_canon (cause : Nat) (s : State) (hc : Canonical s) : Canonical (tileReset cause s) := by
  let _ := hc
  refine setReg_canon _ _ _ (setReg_canon _ _ _ (Canonical.forEach (fun o t h => setReg_canon o _ t h) ?_))
  exact Canonical.reset

theorem sampleIdentity_canon (part : BitVec 64) (tile : BitVec 5) (s : State) (hc : Canonical s) : Canonical (sampleIdentity part tile s) := by
  unfold sampleIdentity
  repeat' first
    | with_reducible assumption
    | simp +contextual (maxDischargeDepth := 60) only [setReg_canon, Canonical.mk_iff, Canonical.forEach, Canonical.when, Canonical.ite_of, implies_true, id_eq, *]
    | (with_reducible refine setReg_canon _ _ _ ?_)
    | split
    | (with_reducible refine Canonical.forEach (fun _ _ _ => ?_) ?_)
    | (with_reducible refine Canonical.when (fun _ _ => ?_) ?_)

theorem released_canon (part : BitVec 64) (tile : BitVec 5) (s : State) (hc : Canonical s) : Canonical (released part tile s) := by
  unfold released
  repeat' first
    | with_reducible assumption
    | simp +contextual (maxDischargeDepth := 60) only [sampleIdentity_canon, Canonical.mk_iff, Canonical.forEach, Canonical.when, Canonical.ite_of, implies_true, id_eq, *]
    | (with_reducible refine sampleIdentity_canon _ _ _ ?_)
    | split
    | (with_reducible refine Canonical.forEach (fun _ _ _ => ?_) ?_)
    | (with_reducible refine Canonical.when (fun _ _ => ?_) ?_)

theorem writeRstCtl_canon (w : Word) (s : State) (hc : Canonical s) : Canonical (writeRstCtl w s) := by
  unfold writeRstCtl
  repeat' first
    | with_reducible assumption
    | simp +contextual (maxDischargeDepth := 60) only [tileReset_canon, Canonical.mk_iff, Canonical.forEach, Canonical.when, Canonical.ite_of, implies_true, id_eq, *]
    | (with_reducible refine tileReset_canon _ _ ?_)
    | split
    | (with_reducible refine Canonical.forEach (fun _ _ _ => ?_) ?_)
    | (with_reducible refine Canonical.when (fun _ _ => ?_) ?_)

theorem execPowerOnResetAssert_canon (s : State) (s' : State) (h : execPowerOnResetAssert s = .next s') (hc : Canonical s) : Canonical s' := by
  unfold execPowerOnResetAssert at h
  injection h with h
  subst h
  try dsimp only
  repeat' first
    | with_reducible assumption
    | simp +contextual (maxDischargeDepth := 60) only [powerOnReset_canon, Canonical.mk_iff, Canonical.forEach, Canonical.when, Canonical.ite_of, implies_true, id_eq, *]
    | (with_reducible refine powerOnReset_canon _ ?_)
    | split
    | (with_reducible refine Canonical.forEach (fun _ _ _ => ?_) ?_)
    | (with_reducible refine Canonical.when (fun _ _ => ?_) ?_)

theorem execPowerOnResetRelease_canon (part : BitVec 64) (tile : BitVec 5) (field : Bool) (s : State) (s' : State) (h : execPowerOnResetRelease part tile field s = .next s') (hc : Canonical s) : Canonical s' := by
  unfold execPowerOnResetRelease at h
  injection h with h
  subst h
  try dsimp only
  repeat' first
    | with_reducible assumption
    | simp +contextual (maxDischargeDepth := 60) only [released_canon, Canonical.mk_iff, Canonical.forEach, Canonical.when, Canonical.ite_of, implies_true, id_eq, *]
    | (with_reducible refine released_canon _ _ _ ?_)
    | split
    | (with_reducible refine Canonical.forEach (fun _ _ _ => ?_) ?_)
    | (with_reducible refine Canonical.when (fun _ _ => ?_) ?_)

theorem execTileResetAssert_canon (s : State) (s' : State) (h : execTileResetAssert s = .next s') (hc : Canonical s) : Canonical s' := by
  unfold execTileResetAssert at h
  injection h with h
  subst h
  try dsimp only
  repeat' first
    | with_reducible assumption
    | simp +contextual (maxDischargeDepth := 60) only [tileReset_canon, Canonical.mk_iff, Canonical.forEach, Canonical.when, Canonical.ite_of, implies_true, id_eq, *]
    | (with_reducible refine tileReset_canon _ _ ?_)
    | split
    | (with_reducible refine Canonical.forEach (fun _ _ _ => ?_) ?_)
    | (with_reducible refine Canonical.when (fun _ _ => ?_) ?_)

theorem execTileResetRelease_canon (part : BitVec 64) (tile : BitVec 5) (s : State) (s' : State) (h : execTileResetRelease part tile s = .next s') (hc : Canonical s) : Canonical s' := by
  unfold execTileResetRelease at h
  injection h with h
  subst h
  try dsimp only
  repeat' first
    | with_reducible assumption
    | simp +contextual (maxDischargeDepth := 60) only [released_canon, Canonical.mk_iff, Canonical.forEach, Canonical.when, Canonical.ite_of, implies_true, id_eq, *]
    | (with_reducible refine released_canon _ _ _ ?_)
    | split
    | (with_reducible refine Canonical.forEach (fun _ _ _ => ?_) ?_)
    | (with_reducible refine Canonical.when (fun _ _ => ?_) ?_)

theorem execSoftwareTileReset_canon (a : BusAcc) (w : Word) (s : State) (s' : State) (h : execSoftwareTileReset a w s = .next s') (hc : Canonical s) : Canonical s' := by
  unfold execSoftwareTileReset at h
  injection h with h
  subst h
  try dsimp only
  repeat' first
    | (with_reducible refine busWrite_canon _ _ _ _ (fun _ _ => ?_) ?_)
    | with_reducible assumption
    | simp +contextual (maxDischargeDepth := 60) only [writeRstCtl_canon, Canonical.mk_iff, Canonical.forEach, Canonical.when, Canonical.ite_of, implies_true, id_eq, *]
    | (with_reducible refine writeRstCtl_canon _ _ ?_)
    | split
    | (with_reducible refine Canonical.forEach (fun _ _ _ => ?_) ?_)
    | (with_reducible refine Canonical.when (fun _ _ => ?_) ?_)

theorem execSoftwareResetEnd_canon (part : BitVec 64) (tile : BitVec 5) (s : State) (s' : State) (h : execSoftwareResetEnd part tile s = .next s') (hc : Canonical s) : Canonical s' := by
  unfold execSoftwareResetEnd at h
  injection h with h
  subst h
  try dsimp only
  repeat' first
    | with_reducible assumption
    | simp +contextual (maxDischargeDepth := 60) only [released_canon, Canonical.mk_iff, Canonical.forEach, Canonical.when, Canonical.ite_of, implies_true, id_eq, *]
    | (with_reducible refine released_canon _ _ _ ?_)
    | split
    | (with_reducible refine Canonical.forEach (fun _ _ _ => ?_) ?_)
    | (with_reducible refine Canonical.when (fun _ _ => ?_) ?_)

theorem execClockSeen_canon (clk : BitVec 4) (s : State) (s' : State) (h : execClockSeen clk s = .next s') (hc : Canonical s) : Canonical s' := by
  unfold execClockSeen at h
  injection h with h
  subst h
  try dsimp only
  repeat' first
    | with_reducible assumption
    | simp +contextual (maxDischargeDepth := 60) only [orReg_canon, Canonical.mk_iff, Canonical.forEach, Canonical.when, Canonical.ite_of, implies_true, id_eq, *]
    | (with_reducible refine orReg_canon _ _ _ ?_)
    | split
    | (with_reducible refine Canonical.forEach (fun _ _ _ => ?_) ?_)
    | (with_reducible refine Canonical.when (fun _ _ => ?_) ?_)

end Sys2Proof.Machine
end

