-- ==== Sys2Proof/Laws/OnlyRegs.lean ====
section
/-!
SUPPORT. Laws/OnlyRegs.lean: what each operation of Machine/Regs.lean may change (generated text, one lemma for each operation).
-/
namespace Sys2Proof.Machine

set_option linter.unusedSimpArgs false
set_option linter.tactic.unusedName false

theorem w1c_only (o m : Nat) (w : Word) (s : State) :
    Only [.regs] s (w1c o m w s) := by
  unfold w1c
  repeat' first
    | simp (maxDischargeDepth := 8) only [Only.iff_of (setReg_only _ _ _ ), *, partsIn_nil, partsIn_cons, Only.self, Only.mk_iff, Only.forEach_iff, Only.when_iff, Only.ite_of, true_or, or_true, and_self, implies_true, List.mem_cons, reduceCtorEq, or_false, false_or, id_eq]
    | split
    | with_reducible refine Only.trans ?_ (Only.forEach (fun _ _ => ?_) _ _)
    | with_reducible refine Only.trans ?_ (Only.when (fun _ => ?_) _ _)

theorem store_only (o m : Nat) (w : Word) (s : State) :
    Only [.regs] s (store o m w s) := by
  unfold store
  repeat' first
    | simp (maxDischargeDepth := 8) only [Only.iff_of (setReg_only _ _ _ ), *, partsIn_nil, partsIn_cons, Only.self, Only.mk_iff, Only.forEach_iff, Only.when_iff, Only.ite_of, true_or, or_true, and_self, implies_true, List.mem_cons, reduceCtorEq, or_false, false_or, id_eq]
    | split
    | with_reducible refine Only.trans ?_ (Only.forEach (fun _ _ => ?_) _ _)
    | with_reducible refine Only.trans ?_ (Only.when (fun _ => ?_) _ _)

theorem commandQueue_only (w : Word) (s : State) :
    Only [.regs, .cnt, .sq, .tr, .dbg] s (commandQueue w s) := by
  unfold commandQueue
  repeat' first
    | simp (maxDischargeDepth := 8) only [Only.iff_of (resumeQueue_only _ _ ), Only.iff_of (skipQueue_only _ _ ), Only.iff_of (flushQueue_only _ _ ), Only.iff_of (pauseQueue_only _ _ ), *, partsIn_nil, partsIn_cons, Only.self, Only.mk_iff, Only.forEach_iff, Only.when_iff, Only.ite_of, true_or, or_true, and_self, implies_true, List.mem_cons, reduceCtorEq, or_false, false_or, id_eq]
    | split
    | with_reducible refine Only.trans ?_ (Only.forEach (fun _ _ => ?_) _ _)
    | with_reducible refine Only.trans ?_ (Only.when (fun _ => ?_) _ _)

theorem commandBucket_only (l : Nat) (w : Word) (s : State) :
    Only [.regs, .cnt, .fr, .tr, .dbg, .rx] s (commandBucket l w s) := by
  unfold commandBucket
  repeat' first
    | simp (maxDischargeDepth := 8) only [Only.iff_of (armBucket_only _ _ _ ), Only.iff_of (abortBucket_only _ _ _ ), *, partsIn_nil, partsIn_cons, Only.self, Only.mk_iff, Only.forEach_iff, Only.when_iff, Only.ite_of, true_or, or_true, and_self, implies_true, List.mem_cons, reduceCtorEq, or_false, false_or, id_eq]
    | split
    | with_reducible refine Only.trans ?_ (Only.forEach (fun _ _ => ?_) _ _)
    | with_reducible refine Only.trans ?_ (Only.when (fun _ => ?_) _ _)

theorem writeParam_only (p o : Nat) (w : Word) (s : State) :
    Only [.regs] s (writeParam p o w s) := by
  unfold writeParam
  repeat' first
    | simp (maxDischargeDepth := 8) only [Only.iff_of (setReg_only _ _ _ ), Only.iff_of (orReg_only _ _ _ ), *, partsIn_nil, partsIn_cons, Only.self, Only.mk_iff, Only.forEach_iff, Only.when_iff, Only.ite_of, true_or, or_true, and_self, implies_true, List.mem_cons, reduceCtorEq, or_false, false_or, id_eq]
    | split
    | with_reducible refine Only.trans ?_ (Only.forEach (fun _ _ => ?_) _ _)
    | with_reducible refine Only.trans ?_ (Only.when (fun _ => ?_) _ _)

theorem writeStaging_only (n : Nat) (w : Word) (s : State) :
    Only [.regs] s (writeStaging n w s) := by
  unfold writeStaging
  repeat' first
    | simp (maxDischargeDepth := 8) only [Only.iff_of (setReg_only _ _ _ ), Only.iff_of (orReg_only _ _ _ ), *, partsIn_nil, partsIn_cons, Only.self, Only.mk_iff, Only.forEach_iff, Only.when_iff, Only.ite_of, true_or, or_true, and_self, implies_true, List.mem_cons, reduceCtorEq, or_false, false_or, id_eq]
    | split
    | with_reducible refine Only.trans ?_ (Only.forEach (fun _ _ => ?_) _ _)
    | with_reducible refine Only.trans ?_ (Only.when (fun _ => ?_) _ _)

theorem commandProt_only (w : Word) (s : State) :
    Only [.free, .regs, .pr] s (commandProt w s) := by
  unfold commandProt
  repeat' first
    | simp (maxDischargeDepth := 8) only [Only.iff_of (propose_only _ ), Only.iff_of (cancelProposal_only _ ), Only.iff_of (rekeyCtx_only _ _ ), *, partsIn_nil, partsIn_cons, Only.self, Only.mk_iff, Only.forEach_iff, Only.when_iff, Only.ite_of, true_or, or_true, and_self, implies_true, List.mem_cons, reduceCtorEq, or_false, false_or, id_eq]
    | split
    | with_reducible refine Only.trans ?_ (Only.forEach (fun _ _ => ?_) _ _)
    | with_reducible refine Only.trans ?_ (Only.when (fun _ => ?_) _ _)

theorem clearFail_only (l : Nat) (w : Word) (s : State) :
    Only [.pr] s (clearFail l w s) := by
  unfold clearFail
  repeat' first
    | simp (maxDischargeDepth := 8) only [Only.iff_of (setSeal_only _ _ _ ), *, partsIn_nil, partsIn_cons, Only.self, Only.mk_iff, Only.forEach_iff, Only.when_iff, Only.ite_of, true_or, or_true, and_self, implies_true, List.mem_cons, reduceCtorEq, or_false, false_or, id_eq]
    | split
    | with_reducible refine Only.trans ?_ (Only.forEach (fun _ _ => ?_) _ _)
    | with_reducible refine Only.trans ?_ (Only.when (fun _ => ?_) _ _)

theorem commandTrace_only (w : Word) (s : State) :
    Only [.regs, .fr, .tr] s (commandTrace w s) := by
  unfold commandTrace
  repeat' first
    | simp (maxDischargeDepth := 8) only [Only.iff_of (genTime_only _ _ _ ), Only.iff_of (traceTrigger_only _ _ _ ), Only.iff_of (writeTrace_only _ _ ), Only.iff_of (rearmTrace_only _ ), *, partsIn_nil, partsIn_cons, Only.self, Only.mk_iff, Only.forEach_iff, Only.when_iff, Only.ite_of, true_or, or_true, and_self, implies_true, List.mem_cons, reduceCtorEq, or_false, false_or, id_eq]
    | split
    | with_reducible refine Only.trans ?_ (Only.forEach (fun _ _ => ?_) _ _)
    | with_reducible refine Only.trans ?_ (Only.when (fun _ => ?_) _ _)

theorem commandFwd_only (w : Word) (s : State) :
    Only [.regs, .bank, .fr, .tr, .dbg, .fw] s (commandFwd w s) := by
  unfold commandFwd
  repeat' first
    | simp (maxDischargeDepth := 8) only [Only.iff_of (commandForward_only _ _ _ ), Only.iff_of (commandCancel_only _ ), Only.iff_of (commandAck_only _ ), Only.iff_of (commandResume_only _ ), *, partsIn_nil, partsIn_cons, Only.self, Only.mk_iff, Only.forEach_iff, Only.when_iff, Only.ite_of, true_or, or_true, and_self, implies_true, List.mem_cons, reduceCtorEq, or_false, false_or, id_eq]
    | split
    | with_reducible refine Only.trans ?_ (Only.forEach (fun _ _ => ?_) _ _)
    | with_reducible refine Only.trans ?_ (Only.when (fun _ => ?_) _ _)

theorem writeFptr_only (o : Nat) (w : Word) (s : State) :
    Only [.regs] s (writeFptr o w s) := by
  unfold writeFptr
  repeat' first
    | simp (maxDischargeDepth := 8) only [Only.iff_of (setRegF_only _ _ _ _ _ ), *, partsIn_nil, partsIn_cons, Only.self, Only.mk_iff, Only.forEach_iff, Only.when_iff, Only.ite_of, true_or, or_true, and_self, implies_true, List.mem_cons, reduceCtorEq, or_false, false_or, id_eq]
    | split
    | with_reducible refine Only.trans ?_ (Only.forEach (fun _ _ => ?_) _ _)
    | with_reducible refine Only.trans ?_ (Only.when (fun _ => ?_) _ _)

theorem effectLow_only (l o : Nat) (w : Word) (s : State) :
    Only [.regs, .cnt, .bank, .fr, .arb, .sq, .hd, .tr, .dbg] s (effectLow l o w s) := by
  unfold effectLow
  try dsimp only
  repeat' first
    | (with_reducible refine Only.ite_of ?_ ?_)
    | simp (maxDischargeDepth := 8) only [Only.iff_of (requestBanks_only _ _ _ ), Only.iff_of (tallyAdd_only _ _ _ ), Only.iff_of (cancelHeld_only _ _ _ ), Only.iff_of (writeQrel_only _ _ ), Only.iff_of (commandQueue_only _ _ ), Only.iff_of (writeFptr_only _ _ _ ), partsIn_nil, partsIn_cons, Only.self, Only.mk_iff, Only.forEach_iff, Only.when_iff, Only.ite_of, true_or, or_true, and_self, implies_true, List.mem_cons, reduceCtorEq, or_false, false_or, id_eq]

theorem effectMid_only (l o : Nat) (w : Word) (s : State) :
    Only [.cyc, .free, .regs, .cnt, .xc, .bus, .mem, .bank, .fr, .arb, .sq, .tb, .bl, .hd, .tr, .dbg, .fw, .rx, .pw, .ck, .pr] s (effectMid l o w s) := by
  unfold effectMid
  try dsimp only
  repeat' first
    | (with_reducible refine Only.ite_of ?_ ?_)
    | simp (maxDischargeDepth := 8) only [Only.iff_of (setReg_only _ _ _ ), Only.iff_of (requestDomains_only _ _ ), Only.iff_of (completeDigest_only _ _ _ ), Only.iff_of (writeDigestLo_only _ _ _ ), Only.iff_of (writeSealCfg_only _ _ _ ), Only.iff_of (unlock_only _ _ ), Only.iff_of (relock_only _ _ ), Only.iff_of (writeBdata_only _ _ _ ), Only.iff_of (writeNgctl_only _ _ _ ), Only.iff_of (writeRstCtl_only _ _ ), Only.iff_of (w1c_only _ _ _ _ ), Only.iff_of (commandBucket_only _ _ _ ), Only.iff_of (writeParam_only _ _ _ _ ), Only.iff_of (writeStaging_only _ _ _ ), Only.iff_of (commandProt_only _ _ ), Only.iff_of (clearFail_only _ _ _ ), partsIn_nil, partsIn_cons, Only.self, Only.mk_iff, Only.forEach_iff, Only.when_iff, Only.ite_of, true_or, or_true, and_self, implies_true, List.mem_cons, reduceCtorEq, or_false, false_or, id_eq]

theorem effectHigh_only (a : BusAcc) (o : Nat) (w : Word) (s : State) :
    Only [.regs, .cnt, .xc, .bus, .bank, .fr, .sq, .tb, .tr, .dbg, .fw] s (effectHigh a o w s) := by
  unfold effectHigh
  try dsimp only
  repeat' first
    | (with_reducible refine Only.ite_of ?_ ?_)
    | simp (maxDischargeDepth := 8) only [Only.iff_of (writeRptr_only _ _ ), Only.iff_of (writeTraceCtl_only _ _ ), Only.iff_of (writeWuCfg_only _ _ _ ), Only.iff_of (writeWuReg_only _ _ _ _ ), Only.iff_of (writeWuOwn_only _ _ ), Only.iff_of (writeRdaddr_only _ _ _ ), Only.iff_of (writeStage_only _ _ _ _ _ ), Only.iff_of (commitSlip_only _ _ _ _ ), Only.iff_of (writeXcCtl_only _ _ ), Only.iff_of (writePtData_only _ _ ), Only.iff_of (writePtValid_only _ _ _ ), Only.iff_of (writeBtData_only _ _ ), Only.iff_of (writePsValid_only _ _ _ ), Only.iff_of (writeTblValid_only _ _ ), Only.iff_of (commandHang_only _ ), Only.iff_of (releaseHang_only _ ), Only.iff_of (setLocal_only _ ), Only.iff_of (clearLocal_only _ ), Only.iff_of (startScan_only _ ), Only.iff_of (startReadout_only _ _ ), Only.iff_of (commandTrace_only _ _ ), Only.iff_of (commandFwd_only _ _ ), partsIn_nil, partsIn_cons, Only.self, Only.mk_iff, Only.forEach_iff, Only.when_iff, Only.ite_of, true_or, or_true, and_self, implies_true, List.mem_cons, reduceCtorEq, or_false, false_or, id_eq]

theorem regWrite_only (a : BusAcc) (o : Nat) (w : Word) (s : State) :
    Only [.cyc, .free, .regs, .cnt, .xc, .bus, .mem, .bank, .fr, .arb, .sq, .tb, .bl, .hd, .tr, .dbg, .fw, .rx, .pw, .ck, .pr] s (regWrite a o w s) := by
  unfold regWrite
  repeat' first
    | simp (maxDischargeDepth := 8) only [Only.iff_of (clearLog_only _ _ _ ), Only.iff_of (w1c_only _ _ _ _ ), Only.iff_of (store_only _ _ _ _ ), Only.iff_of (effectLow_only _ _ _ _ ), Only.iff_of (effectMid_only _ _ _ _ ), Only.iff_of (effectHigh_only _ _ _ _ ), *, partsIn_nil, partsIn_cons, Only.self, Only.mk_iff, Only.forEach_iff, Only.when_iff, Only.ite_of, true_or, or_true, and_self, implies_true, List.mem_cons, reduceCtorEq, or_false, false_or, id_eq]
    | split
    | with_reducible refine Only.trans ?_ (Only.forEach (fun _ _ => ?_) _ _)
    | with_reducible refine Only.trans ?_ (Only.when (fun _ => ?_) _ _)

end Sys2Proof.Machine
end

