-- ==== Sys2Proof/Laws/CanonRegs.lean ====
section
/-!
SUPPORT. Laws/CanonRegs.lean: the operations and commands of Machine/Regs.lean keep memory, registers and counters in canonical form
(generated text, one lemma for each).
-/
namespace Sys2Proof.Machine

set_option linter.unusedSimpArgs false

theorem w1c_canon (o m : Nat) (w : Word) (s : State) (hc : Canonical s) : Canonical (w1c o m w s) := by
  unfold w1c
  repeat' first
    | with_reducible assumption
    | simp +contextual (maxDischargeDepth := 60) only [setReg_canon, Canonical.mk_iff, Canonical.forEach, Canonical.when, Canonical.ite_of, implies_true, id_eq, *]
    | (with_reducible refine setReg_canon _ _ _ ?_)
    | split
    | (with_reducible refine Canonical.forEach (fun _ _ _ => ?_) ?_)
    | (with_reducible refine Canonical.when (fun _ _ => ?_) ?_)

theorem store_canon (o m : Nat) (w : Word) (s : State) (hc : Canonical s) : Canonical (store o m w s) := by
  unfold store
  repeat' first
    | with_reducible assumption
    | simp +contextual (maxDischargeDepth := 60) only [setReg_canon, Canonical.mk_iff, Canonical.forEach, Canonical.when, Canonical.ite_of, implies_true, id_eq, *]
    | (with_reducible refine setReg_canon _ _ _ ?_)
    | split
    | (with_reducible refine Canonical.forEach (fun _ _ _ => ?_) ?_)
    | (with_reducible refine Canonical.when (fun _ _ => ?_) ?_)

theorem commandQueue_canon (w : Word) (s : State) (hc : Canonical s) : Canonical (commandQueue w s) := by
  unfold commandQueue
  repeat' first
    | with_reducible assumption
    | simp +contextual (maxDischargeDepth := 60) only [resumeQueue_canon, skipQueue_canon, flushQueue_canon, pauseQueue_canon, Canonical.mk_iff, Canonical.forEach, Canonical.when, Canonical.ite_of, implies_true, id_eq, *]
    | (with_reducible refine resumeQueue_canon _ _ ?_)
    | (with_reducible refine skipQueue_canon _ _ ?_)
    | (with_reducible refine flushQueue_canon _ _ ?_)
    | (with_reducible refine pauseQueue_canon _ _ ?_)
    | split
    | (with_reducible refine Canonical.forEach (fun _ _ _ => ?_) ?_)
    | (with_reducible refine Canonical.when (fun _ _ => ?_) ?_)

theorem commandBucket_canon (l : Nat) (w : Word) (s : State) (hc : Canonical s) : Canonical (commandBucket l w s) := by
  unfold commandBucket
  repeat' first
    | with_reducible assumption
    | simp +contextual (maxDischargeDepth := 60) only [armBucket_canon, abortBucket_canon, Canonical.mk_iff, Canonical.forEach, Canonical.when, Canonical.ite_of, implies_true, id_eq, *]
    | (with_reducible refine armBucket_canon _ _ _ ?_)
    | (with_reducible refine abortBucket_canon _ _ _ ?_)
    | split
    | (with_reducible refine Canonical.forEach (fun _ _ _ => ?_) ?_)
    | (with_reducible refine Canonical.when (fun _ _ => ?_) ?_)

theorem writeParam_canon (p o : Nat) (w : Word) (s : State) (hc : Canonical s) : Canonical (writeParam p o w s) := by
  unfold writeParam
  repeat' first
    | with_reducible assumption
    | simp +contextual (maxDischargeDepth := 60) only [setReg_canon, orReg_canon, Canonical.mk_iff, Canonical.forEach, Canonical.when, Canonical.ite_of, implies_true, id_eq, *]
    | (with_reducible refine setReg_canon _ _ _ ?_)
    | (with_reducible refine orReg_canon _ _ _ ?_)
    | split
    | (with_reducible refine Canonical.forEach (fun _ _ _ => ?_) ?_)
    | (with_reducible refine Canonical.when (fun _ _ => ?_) ?_)

theorem writeStaging_canon (n : Nat) (w : Word) (s : State) (hc : Canonical s) : Canonical (writeStaging n w s) := by
  unfold writeStaging
  repeat' first
    | with_reducible assumption
    | simp +contextual (maxDischargeDepth := 60) only [setReg_canon, orReg_canon, Canonical.mk_iff, Canonical.forEach, Canonical.when, Canonical.ite_of, implies_true, id_eq, *]
    | (with_reducible refine setReg_canon _ _ _ ?_)
    | (with_reducible refine orReg_canon _ _ _ ?_)
    | split
    | (with_reducible refine Canonical.forEach (fun _ _ _ => ?_) ?_)
    | (with_reducible refine Canonical.when (fun _ _ => ?_) ?_)

theorem commandProt_canon (w : Word) (s : State) (hc : Canonical s) : Canonical (commandProt w s) := by
  unfold commandProt
  repeat' first
    | with_reducible assumption
    | simp +contextual (maxDischargeDepth := 60) only [propose_canon, cancelProposal_canon, rekeyCtx_canon, Canonical.mk_iff, Canonical.forEach, Canonical.when, Canonical.ite_of, implies_true, id_eq, *]
    | (with_reducible refine propose_canon _ ?_)
    | (with_reducible refine cancelProposal_canon _ ?_)
    | (with_reducible refine rekeyCtx_canon _ _ ?_)
    | split
    | (with_reducible refine Canonical.forEach (fun _ _ _ => ?_) ?_)
    | (with_reducible refine Canonical.when (fun _ _ => ?_) ?_)

theorem clearFail_canon (l : Nat) (w : Word) (s : State) (hc : Canonical s) : Canonical (clearFail l w s) :=
  Canonical.of_only (clearFail_only l w s) (by decide) hc

theorem commandTrace_canon (w : Word) (s : State) (hc : Canonical s) : Canonical (commandTrace w s) := by
  unfold commandTrace
  repeat' first
    | with_reducible assumption
    | simp +contextual (maxDischargeDepth := 60) only [genTime_canon, traceTrigger_canon, writeTrace_canon, rearmTrace_canon, Canonical.mk_iff, Canonical.forEach, Canonical.when, Canonical.ite_of, implies_true, id_eq, *]
    | (with_reducible refine genTime_canon _ _ _ ?_)
    | (with_reducible refine traceTrigger_canon _ _ _ ?_)
    | (with_reducible refine writeTrace_canon _ _ ?_)
    | (with_reducible refine rearmTrace_canon _ ?_)
    | split
    | (with_reducible refine Canonical.forEach (fun _ _ _ => ?_) ?_)
    | (with_reducible refine Canonical.when (fun _ _ => ?_) ?_)

theorem commandFwd_canon (w : Word) (s : State) (hc : Canonical s) : Canonical (commandFwd w s) := by
  unfold commandFwd
  repeat' first
    | with_reducible assumption
    | simp +contextual (maxDischargeDepth := 60) only [commandForward_canon, commandCancel_canon, commandAck_canon, commandResume_canon, Canonical.mk_iff, Canonical.forEach, Canonical.when, Canonical.ite_of, implies_true, id_eq, *]
    | (with_reducible refine commandForward_canon _ _ _ ?_)
    | (with_reducible refine commandCancel_canon _ ?_)
    | (with_reducible refine commandAck_canon _ ?_)
    | (with_reducible refine commandResume_canon _ ?_)
    | split
    | (with_reducible refine Canonical.forEach (fun _ _ _ => ?_) ?_)
    | (with_reducible refine Canonical.when (fun _ _ => ?_) ?_)

theorem writeFptr_canon (o : Nat) (w : Word) (s : State) (hc : Canonical s) : Canonical (writeFptr o w s) := by
  unfold writeFptr
  repeat' first
    | with_reducible assumption
    | simp +contextual (maxDischargeDepth := 60) only [setRegF_canon, Canonical.mk_iff, Canonical.forEach, Canonical.when, Canonical.ite_of, implies_true, id_eq, *]
    | (with_reducible refine setRegF_canon _ _ _ _ _ ?_)
    | split
    | (with_reducible refine Canonical.forEach (fun _ _ _ => ?_) ?_)
    | (with_reducible refine Canonical.when (fun _ _ => ?_) ?_)

theorem effectLow_canon (l o : Nat) (w : Word) (s : State) (hc : Canonical s) : Canonical (effectLow l o w s) := by
  unfold effectLow
  try dsimp only
  repeat' first
    | (with_reducible refine Canonical.ite_of ?_ ?_)
    | simp +contextual (maxDischargeDepth := 60) only [requestBanks_canon, tallyAdd_canon, cancelHeld_canon, writeQrel_canon, commandQueue_canon, writeFptr_canon, Canonical.mk_iff, Canonical.when, implies_true, hc]

theorem effectMid_canon (l o : Nat) (w : Word) (s : State) (hc : Canonical s) : Canonical (effectMid l o w s) := by
  unfold effectMid
  try dsimp only
  repeat' first
    | (with_reducible refine Canonical.ite_of ?_ ?_)
    | simp +contextual (maxDischargeDepth := 60) only [setReg_canon, requestDomains_canon, completeDigest_canon, writeDigestLo_canon, writeSealCfg_canon, unlock_canon, relock_canon, writeBdata_canon, writeNgctl_canon, writeRstCtl_canon, w1c_canon, commandBucket_canon, writeParam_canon, writeStaging_canon, commandProt_canon, clearFail_canon, Canonical.mk_iff, Canonical.when, implies_true, hc]

theorem effectHigh_canon (a : BusAcc) (o : Nat) (w : Word) (s : State) (hc : Canonical s) : Canonical (effectHigh a o w s) := by
  unfold effectHigh
  try dsimp only
  repeat' first
    | (with_reducible refine Canonical.ite_of ?_ ?_)
    | simp +contextual (maxDischargeDepth := 60) only [writeRptr_canon, writeTraceCtl_canon, writeWuCfg_canon, writeWuReg_canon, writeWuOwn_canon, writeRdaddr_canon, writeStage_canon, commitSlip_canon, writeXcCtl_canon, writePtData_canon, writePtValid_canon, writeBtData_canon, writePsValid_canon, writeTblValid_canon, commandHang_canon, releaseHang_canon, setLocal_canon, clearLocal_canon, startScan_canon, startReadout_canon, commandTrace_canon, commandFwd_canon, Canonical.mk_iff, Canonical.when, implies_true, hc]

theorem regWrite_canon (a : BusAcc) (o : Nat) (w : Word) (s : State) (hc : Canonical s) : Canonical (regWrite a o w s) := by
  unfold regWrite
  repeat' first
    | with_reducible assumption
    | simp +contextual (maxDischargeDepth := 60) only [clearLog_canon, w1c_canon, store_canon, effectLow_canon, effectMid_canon, effectHigh_canon, Canonical.mk_iff, Canonical.forEach, Canonical.when, Canonical.ite_of, implies_true, id_eq, *]
    | (with_reducible refine clearLog_canon _ _ _ ?_)
    | (with_reducible refine w1c_canon _ _ _ _ ?_)
    | (with_reducible refine store_canon _ _ _ _ ?_)
    | (with_reducible refine effectLow_canon _ _ _ _ ?_)
    | (with_reducible refine effectMid_canon _ _ _ _ ?_)
    | (with_reducible refine effectHigh_canon _ _ _ _ ?_)
    | split
    | (with_reducible refine Canonical.forEach (fun _ _ _ => ?_) ?_)
    | (with_reducible refine Canonical.when (fun _ _ => ?_) ?_)

theorem execRegisterWrite_canon (a : BusAcc) (off : BitVec 16) (w : Word) (s : State) (s' : State) (h : execRegisterWrite a off w s = .next s') (hc : Canonical s) : Canonical s' := by
  unfold execRegisterWrite at h
  injection h with h
  subst h
  try dsimp only
  repeat' first
    | (with_reducible refine busWriteFor_canon _ _ _ _ _ (fun _ _ => ?_) ?_)
    | with_reducible assumption
    | simp +contextual (maxDischargeDepth := 60) only [regWrite_canon, Canonical.mk_iff, Canonical.forEach, Canonical.when, Canonical.ite_of, implies_true, id_eq, *]
    | (with_reducible refine regWrite_canon _ _ _ _ ?_)
    | split
    | (with_reducible refine Canonical.forEach (fun _ _ _ => ?_) ?_)
    | (with_reducible refine Canonical.when (fun _ _ => ?_) ?_)

theorem execCounterLowRead_canon (a : BusAcc) (off : BitVec 16) (s : State) (s' : State) (h : execCounterLowRead a off s = .next s') (hc : Canonical s) : Canonical s' := by
  unfold execCounterLowRead at h
  injection h with h
  subst h
  try dsimp only
  repeat' first
    | (with_reducible refine busRead_canon _ _ _ _ (fun _ _ => ?_) ?_)
    | with_reducible assumption
    | simp +contextual (maxDischargeDepth := 60) only [latchCounter_canon, Canonical.mk_iff, Canonical.forEach, Canonical.when, Canonical.ite_of, implies_true, id_eq, *]
    | (refine Canonical.snd (by assumption) (latchCounter_canon _ _ _ ?_))
    | (with_reducible refine latchCounter_canon _ _ _ ?_)
    | split
    | (with_reducible refine Canonical.forEach (fun _ _ _ => ?_) ?_)
    | (with_reducible refine Canonical.when (fun _ _ => ?_) ?_)

end Sys2Proof.Machine
end

