-- ==== Sys2Proof/Laws/Parts.lean ====
section
/-!
SUPPORT. Laws/Parts.lean: reading an item of a keyed part (lane, channel, queue, bank, domain, bucket, session) after a write of it.
-/
namespace Sys2Proof.Machine

theorem rlane_setRlane (l k : Nat) (x : RLane) (s : State) : rlane (setRlane l x s) k = if k = l then x else rlane s k :=
  NMap.get_set RLane.empty s.fr.rl x l k

theorem wlane_setWlane (l k : Nat) (x : WLane) (s : State) : wlane (setWlane l x s) k = if k = l then x else wlane s k :=
  NMap.get_set WLane.empty s.fr.wl x l k

theorem rlane_updRlane (l k : Nat) (f : RLane → RLane) (s : State) : rlane (updRlane l f s) k = if k = l then f (rlane s l) else rlane s k :=
  rlane_setRlane l k _ s

theorem wlane_updWlane (l k : Nat) (f : WLane → WLane) (s : State) : wlane (updWlane l f s) k = if k = l then f (wlane s l) else wlane s k :=
  wlane_setWlane l k _ s

theorem chan_setChan (wr : Bool) (l : Nat) (x : ReqCh) (s : State) : chan (setChan wr l x s) wr l = x := by
  unfold chan setChan
  rw [NMap.get_set, if_pos rfl]

theorem rlane_of_fr {s t : State} (h : t.fr = s.fr) (l : Nat) : rlane t l = rlane s l := by
  unfold rlane; rw [h]

theorem wlane_of_fr {s t : State} (h : t.fr = s.fr) (l : Nat) : wlane t l = wlane s l := by
  unfold wlane; rw [h]

theorem queueOf_setQueue (q k : Nat) (x : SlipQ) (s : State) : queueOf (setQueue q x s) k = if k = q then x else queueOf s k :=
  NMap.get_set SlipQ.empty s.sq.q x q k

theorem queueOf_updQueue (q k : Nat) (f : SlipQ → SlipQ) (s : State) :
    queueOf (updQueue q f s) k = if k = q then f (queueOf s q) else queueOf s k := queueOf_setQueue q k _ s

theorem queueOf_of_sq {s t : State} (h : t.sq = s.sq) (q : Nat) : queueOf t q = queueOf s q := by
  unfold queueOf; rw [h]

theorem powOf_setPow (b k : Nat) (p : BankPow) (s : State) : powOf (setPow b p s) k = if k = b then p else powOf s k :=
  NMap.get_set BankPow.off s.bank.pow p b k

theorem domOf_setDom (i k : Nat) (p : BankPow) (s : State) : domOf (setDom i p s) k = if k = i then p else domOf s k :=
  NMap.get_set BankPow.off s.pw.dom p i k

theorem bktAt_updBkt (b k : Nat) (f : Bkt → Bkt) (s : State) : bktAt (updBkt b f s) k = if k = b then f (bktAt s b) else bktAt s k :=
  NMap.get_set Bkt.free s.rx.bkt _ b k

theorem sealAt_setSeal (l k : Nat) (x : Seal) (s : State) : sealAt (setSeal l x s) k = if k = l then x else sealAt s k :=
  NMap.get_set Seal.idle s.pr.sess x l k

/-- The transfer of an id after a replacement. -/
theorem trOf_setTr {t u : Tr} {s : State} (h : trOf s t.id = some u) : trOf (setTr t s) t.id = some t := by
  unfold trOf at h
  unfold trOf setTr
  dsimp only
  generalize s.fr.trs = l at h
  induction l with
  | nil => cases h
  | cons x l ih =>
    rw [List.find?_cons] at h
    rw [List.map_cons, List.find?_cons]
    cases hx : x.id == t.id with
    | true => simp
    | false =>
      rw [hx] at h
      simp only [Bool.false_eq_true, if_false, hx]
      exact ih h

/-- The slip of an id after a change. -/
theorem slipOf_updSlip {i : Nat} {f : Slip → Slip} {x : Slip} {s : State} (h : slipOf s i = some x) (hf : (f x).sid = i) :
    slipOf (updSlip i f s) i = some (f x) := by
  unfold slipOf at h
  unfold slipOf updSlip
  dsimp only
  generalize s.sq.live = l at h
  induction l with
  | nil => cases h
  | cons y l ih =>
    rw [List.find?_cons] at h
    rw [List.map_cons, List.find?_cons]
    cases hy : y.sid == i with
    | true =>
      rw [hy] at h
      injection h with h
      subst h
      simp [hf]
    | false =>
      rw [hy] at h
      simp only [Bool.false_eq_true, if_false, hy]
      exact ih h

theorem sid_of_slipOf {s : State} {i : Nat} {x : Slip} (h : slipOf s i = some x) : x.sid = i := by
  have := List.find?_some h
  simpa using this

theorem slipOf_of_sq {s t : State} (h : t.sq = s.sq) (i : Nat) : slipOf t i = slipOf s i := by
  unfold slipOf; rw [h]

end Sys2Proof.Machine
end

