-- ==== Sys2Proof/Laws/Stored.lean ====
section
/-!
SUPPORT. Laws/Stored.lean: what a store leaves in the banks.
-/
namespace Sys2Proof.Machine

theorem NMap.get_setList (l : List Byte) : ∀ (m : List Host.Cell) (k a : Nat),
    NMap.get (0 : Byte) (NMap.setList 0 m k l) a = if k ≤ a then (l[a - k]?).getD (NMap.get 0 m a) else NMap.get 0 m a := by
  induction l with
  | nil => intro m k a; simp [NMap.setList]
  | cons v vs ih =>
    intro m k a
    rw [NMap.setList, ih, NMap.get_set]
    by_cases h1 : k + 1 ≤ a
    · have e : a - k = (a - (k + 1)) + 1 := by omega
      have h2 : k ≤ a := by omega
      have h3 : a ≠ k := by omega
      rw [if_pos h1, if_pos h2, if_neg h3, e, List.getElem?_cons_succ]
    · rw [if_neg h1]
      by_cases h2 : a = k
      · subst h2; simp
      · rw [if_neg h2, if_neg (by omega)]

/-- A number from its own bytes. -/
theorem ofBytes_range (n : Nat) : ∀ (k : Nat) (f : Nat → Nat), (∀ i < k, f i % 256 = n / 256 ^ i % 256) →
    ofBytes ((List.range k).map f) = n % 256 ^ k := by
  intro k
  induction k generalizing n with
  | zero => intro f _; simp [ofBytes, Nat.mod_one]
  | succ k ih =>
    intro f hf
    rw [List.range_succ_eq_map, List.map_cons, List.map_map, ofBytes, ih (n / 256) (f ∘ Nat.succ) (fun i hi => by
      show f (i + 1) % 256 = _
      rw [hf (i + 1) (by omega), Nat.pow_succ, Nat.mul_comm (256 ^ i), Nat.div_div_eq_div_mul])]
    rw [show f 0 % 256 = n % 256 by rw [hf 0 (by omega)]; simp]
    rw [Nat.pow_succ, Nat.mul_comm (256 ^ k), Nat.mod_mul]

theorem bits_byte (n i : Nat) : bits n (8 * i + 7) (8 * i) = n / 256 ^ i % 256 := by
  unfold bits
  rw [show 8 * i + 7 + 1 - 8 * i = 8 by omega, Nat.shiftRight_eq_div_pow, Nat.pow_mul,
    show (2 : Nat) ^ 8 = 256 from rfl]

theorem memChunk_setList (m : List Host.Cell) (a : Nat) (d : BitVec 256) :
    memChunk (NMap.setList (0 : Byte) m a ((bytesOf d.toNat 32).map (fun b => BitVec.ofNat 8 b))) a = d.toNat := by
  unfold memChunk
  rw [ofBytes_range d.toNat 32 _ (fun i hi => ?_), Nat.mod_eq_of_lt]
  · have := d.isLt; exact Nat.lt_of_lt_of_le this (by decide)
  · rw [NMap.get_setList, if_pos (by omega), show a + i - a = i by omega]
    unfold bytesOf
    rw [List.map_map, List.getElem?_map, List.getElem?_range hi]
    show (BitVec.ofNat 8 (bits d.toNat (8 * i + 7) (8 * i))).toNat % 256 = _
    rw [BitVec.toNat_ofNat, bits_byte]
    omega

theorem memChunk_congr {m n : List Host.Cell} {a : Nat} (h : ∀ b, a ≤ b → b < a + 32 → NMap.get (0 : Byte) n b = NMap.get 0 m b) :
    memChunk n a = memChunk m a := by
  unfold memChunk
  congr 1
  apply List.map_congr_left
  intro i hi
  rw [h (a + i) (by omega) (by have := List.mem_range.mp hi; omega)]

theorem storeChunk_mem_ne (pb row c : Nat) (d : BitVec 256) (p : Bool) (s : State) (a : Nat)
    (h : a < 65536 * pb + 128 * row + 32 * c ∨ 65536 * pb + 128 * row + 32 * c + 32 ≤ a) :
    NMap.get (0 : Byte) (storeChunk pb row c d p s).mem a = NMap.get 0 s.mem a := by
  unfold storeChunk
  dsimp only
  rw [NMap.get_setList]
  split
  · rw [List.getElem?_eq_none]
    · rfl
    · simp only [List.length_map, bytesOf, List.length_range]; omega
  · rfl

theorem chunkAt_storeChunk_self (pb row c : Nat) (d : BitVec 256) (p : Bool) (s : State) :
    chunkAt (storeChunk pb row c d p s) pb row c = ⟨d, p, true, []⟩ := by
  have hi : chunkInit (storeChunk pb row c d p s) pb row c = true := by
    unfold chunkInit storeChunk
    dsimp only
    rw [NMap.get_set_self]
    simp
  unfold chunkAt
  dsimp only
  rw [if_pos hi]
  unfold storeChunk
  dsimp only
  rw [memChunk_setList, NMap.get_set_self, NMap.get_set_self]
  simp

theorem chunkAt_storeChunk_ne (pb row c pb' row' c' : Nat) (d : BitVec 256) (p : Bool) (s : State) (hr : row < 512) (hr' : row' < 512)
    (hc : c < 4) (hc' : c' < 4) (h : ¬(pb' = pb ∧ row' = row ∧ c' = c)) :
    chunkAt (storeChunk pb row c d p s) pb' row' c' = chunkAt s pb' row' c' := by
  have hk : chunkKey pb' row' c' ≠ chunkKey pb row c := by unfold chunkKey; omega
  have hi : chunkInit (storeChunk pb row c d p s) pb' row' c' = chunkInit s pb' row' c' := by
    unfold chunkInit storeChunk
    dsimp only
    rw [NMap.get_set_ne _ _ _ hk]
  have hm : memChunk (storeChunk pb row c d p s).mem (65536 * pb' + 128 * row' + 32 * c') = memChunk s.mem (65536 * pb' + 128 * row' + 32 * c') :=
    memChunk_congr fun b h1 h2 => storeChunk_mem_ne _ _ _ _ _ _ _ (by omega)
  unfold chunkAt
  dsimp only
  rw [hi, hm]
  have hp : NMap.get false (storeChunk pb row c d p s).bank.pois (chunkKey pb' row' c') = NMap.get false s.bank.pois (chunkKey pb' row' c') := by
    unfold storeChunk; dsimp only; rw [NMap.get_set_ne _ _ _ hk]
  have hf : NMap.get [] (storeChunk pb row c d p s).bank.flips (chunkKey pb' row' c') = NMap.get [] s.bank.flips (chunkKey pb' row' c') := by
    unfold storeChunk; dsimp only; rw [NMap.get_set_ne _ _ _ hk]
  have he : (storeChunk pb row c d p s).bank.epoch = s.bank.epoch := rfl
  rw [hp, hf, he]

/-- Two states hold the same banks. -/
def sameBanks (s t : State) : Prop :=
  t.mem = s.mem ∧ t.bank.zf = s.bank.zf ∧ t.bank.init = s.bank.init ∧ t.bank.pois = s.bank.pois ∧ t.bank.flips = s.bank.flips
    ∧ t.bank.epoch = s.bank.epoch

theorem sameBanks.refl (s : State) : sameBanks s s := ⟨rfl, rfl, rfl, rfl, rfl, rfl⟩

theorem sameBanks.trans {a b c : State} (h : sameBanks a b) (k : sameBanks b c) : sameBanks a c :=
  ⟨k.1.trans h.1, k.2.1.trans h.2.1, k.2.2.1.trans h.2.2.1, k.2.2.2.1.trans h.2.2.2.1, k.2.2.2.2.1.trans h.2.2.2.2.1,
    k.2.2.2.2.2.trans h.2.2.2.2.2⟩

theorem sameBanks.of_only {ps : List Part} {s t : State} (k : Only ps s t) (hs : (!ps.contains .mem && !ps.contains .bank) = true) :
    sameBanks s t := by
  simp only [Bool.and_eq_true, Bool.not_eq_true', List.contains_eq_mem, decide_eq_false_iff_not] at hs
  have h1 : t.mem = s.mem := k .mem hs.1
  have h2 : t.bank = s.bank := k .bank hs.2
  refine ⟨h1, ?_⟩
  rw [h2]
  exact ⟨rfl, rfl, rfl, rfl, rfl⟩

theorem sameBanks.chunkAt {s t : State} (h : sameBanks s t) (pb row c : Nat) : chunkAt t pb row c = chunkAt s pb row c := by
  obtain ⟨h1, h2, h3, h4, h5, h6⟩ := h
  unfold Machine.chunkAt chunkInit
  rw [h1, h2, h3, h4, h5, h6]

theorem Stored.congr {pb row en : Nat} {d : Row} {p : Mask4} {s t s' t' : State} (hs : sameBanks s' s) (ht : sameBanks t t')
    (h : Stored pb row en d p s t) : Stored pb row en d p s' t' := by
  refine ⟨fun c hc he => ?_, fun a ha => ?_, fun pb' row' c h1 h2 h3 => ?_⟩
  · rw [ht.chunkAt]; exact h.1 c hc he
  · rw [ht.1, h.2.1 a ha, hs.1]
  · rw [ht.chunkAt, h.2.2 pb' row' c h1 h2 h3, hs.chunkAt]

theorem when_storeChunk (pb row en c : Nat) (d : Row) (p : Mask4) (s : State) (hr : row < 512) (hc : c < 4) :
    (bit en c = true → chunkAt (when (bit en c) (storeChunk pb row c (rowChunk d c) (bit p.toNat c)) s) pb row c = ⟨rowChunk d c, bit p.toNat c, true, []⟩)
    ∧ (∀ a, (bit en c = true → a < 65536 * pb + 128 * row + 32 * c ∨ 65536 * pb + 128 * row + 32 * c + 32 ≤ a) →
        NMap.get (0 : Byte) (when (bit en c) (storeChunk pb row c (rowChunk d c) (bit p.toNat c)) s).mem a = NMap.get 0 s.mem a)
    ∧ (∀ pb' row' c', row' < 512 → c' < 4 → ¬(pb' = pb ∧ row' = row ∧ c' = c ∧ bit en c = true) →
        chunkAt (when (bit en c) (storeChunk pb row c (rowChunk d c) (bit p.toNat c)) s) pb' row' c' = chunkAt s pb' row' c') := by
  unfold when
  by_cases h : bit en c = true
  · rw [if_pos h]
    exact ⟨fun _ => chunkAt_storeChunk_self _ _ _ _ _ _, fun a ha => storeChunk_mem_ne _ _ _ _ _ _ _ (ha h),
      fun pb' row' c' h1 h2 h3 => chunkAt_storeChunk_ne _ _ _ _ _ _ _ _ _ hr h1 hc h2 (fun k => h3 ⟨k.1, k.2.1, k.2.2, h⟩)⟩
  · rw [if_neg h]
    exact ⟨fun k => absurd k h, fun a _ => rfl, fun _ _ _ _ _ _ => rfl⟩

theorem storeChunks_stored (pb row en : Nat) (d : Row) (p : Mask4) (s : State) (hr : row < 512) :
    Stored pb row en d p s (storeChunks pb row en d p s) := by
  have key : ∀ (l : List Nat), (∀ c ∈ l, c < 4) → l.Nodup → ∀ s : State,
      (∀ c ∈ l, bit en c = true → chunkAt (forEach l (fun c => when (bit en c) (storeChunk pb row c (rowChunk d c) (bit p.toNat c))) s) pb row c = ⟨rowChunk d c, bit p.toNat c, true, []⟩)
      ∧ (∀ a, (∀ c ∈ l, bit en c = true → a < 65536 * pb + 128 * row + 32 * c ∨ 65536 * pb + 128 * row + 32 * c + 32 ≤ a) →
          NMap.get (0 : Byte) (forEach l (fun c => when (bit en c) (storeChunk pb row c (rowChunk d c) (bit p.toNat c))) s).mem a = NMap.get 0 s.mem a)
      ∧ (∀ pb' row' c', row' < 512 → c' < 4 → ¬(pb' = pb ∧ row' = row ∧ c' ∈ l ∧ bit en c' = true) →
          chunkAt (forEach l (fun c => when (bit en c) (storeChunk pb row c (rowChunk d c) (bit p.toNat c))) s) pb' row' c' = chunkAt s pb' row' c') := by
    intro l
    induction l with
    | nil => intro _ _ s; exact ⟨fun c hc => by simp at hc, fun a _ => rfl, fun _ _ _ _ _ _ => rfl⟩
    | cons k l ih =>
      intro hl hn s
      rw [List.nodup_cons] at hn
      have hk := when_storeChunk pb row en k d p s hr (hl k (by simp))
      have hi := ih (fun c hc => hl c (by simp [hc])) hn.2 (when (bit en k) (storeChunk pb row k (rowChunk d k) (bit p.toNat k)) s)
      refine ⟨fun c hc he => ?_, fun a ha => ?_, fun pb' row' c' h1 h2 h3 => ?_⟩
      · rw [forEach]
        rcases List.mem_cons.mp hc with rfl | hm
        · rw [hi.2.2 pb row c hr (hl c (by simp)) (fun q => hn.1 q.2.2.1)]
          exact hk.1 he
        · exact hi.1 c hm he
      · rw [forEach, hi.2.1 a (fun c hc => ha c (by simp [hc])), hk.2.1 a (ha k (by simp))]
      · rw [forEach, hi.2.2 pb' row' c' h1 h2 (fun q => h3 ⟨q.1, q.2.1, by simp [q.2.2.1], q.2.2.2⟩),
          hk.2.2 pb' row' c' h1 h2 (fun q => h3 ⟨q.1, q.2.1, by simp [q.2.2.1], by rw [q.2.2.1]; exact q.2.2.2⟩)]
  have h := key [0, 1, 2, 3] (by decide) (by decide) s
  have hm : ∀ c < 4, c ∈ [0, 1, 2, 3] := by decide
  refine ⟨fun c hc he => h.1 c (hm c hc) he, fun a ha => h.2.1 a (fun c hc he => ha c ?_ he), fun pb' row' c h1 h2 h3 =>
    h.2.2 pb' row' c h1 h2 (fun q => h3 ⟨q.1, q.2.1, q.2.2.2⟩)⟩
  simp at hc; omega

theorem keepUndo_banks (t seen pb row en : Nat) (port : Bool) (s : State) : sameBanks s (keepUndo t seen pb row en port s) :=
  ⟨rfl, rfl, rfl, rfl, rfl, rfl⟩

theorem dropWb_banks (lb row en : Nat) (s : State) : sameBanks s (dropWb lb row en s) := by
  unfold dropWb
  split
  · split
    · exact ⟨rfl, rfl, rfl, rfl, rfl, rfl⟩
    · exact sameBanks.refl s
  · exact sameBanks.refl s

/-- A store into a row of a logical bank (R37). -/
theorem storeRow_stored (lb row en : Nat) (d : Row) (p : Mask4) (cls wt : Nat) (s : State) (hr : row < 512) :
    Stored (pbankOf s lb) row en d p s (storeRow lb row en d p cls wt s) := by
  refine (storeChunks_stored (pbankOf s lb) row en d p s hr).congr (sameBanks.refl s) ?_
  unfold storeRow
  dsimp only
  refine (dropWb_banks ((logicalOf s lb).getD lb) row en _).trans ?_
  refine (sameBanks.of_only (dualWrite_only lb (pbankOf s lb) row en cls wt _) (by decide)).trans ?_
  exact (sameBanks.of_only (estimate_only 1 1 _) (by decide)).trans (sameBanks.of_only (estimate_only 2 1 _) (by decide))

/-- The bank map is as before where no written offset reaches it. -/
theorem pbankOf_of_within {xs : List Span} {s t : State} (k : Within xs s t)
    (h : (xs.all fun x => Nat.ble (x.lo + x.step * (x.count - 1)) 0x70FF) = true) (lb : Nat) : pbankOf t lb = pbankOf s lb := by
  have hr : reg t (0x7100 + 4 * (lb / (32 / 8))) = reg s (0x7100 + 4 * (lb / (32 / 8))) := by
    refine (k _ ?_).1
    rw [List.any_eq_false]
    intro x hx
    have := List.all_eq_true.mp h x hx
    simp only [Nat.ble_eq] at this
    simp only [Span.has, Bool.and_eq_true, Nat.ble_eq, not_and]
    intro h1 _
    omega
  unfold pbankOf regArr
  rw [hr]

/-- A transfer added behind leaves the others. -/
theorem trOf_addTr {t u : Tr} {s : State} {i : Nat} (h : trOf s i = some u) : trOf (addTr t s) i = some u := by
  unfold trOf at h ⊢
  unfold addTr
  dsimp only
  rw [List.find?_append, h]
  rfl

/-- A strike does what `Struck` says. -/
theorem strikeRow_struck (pb row : Nat) (ups : List Upset) (s : State) : Struck pb row ups s (strikeRow pb row ups s) := by
  unfold Struck strikeRow
  split
  · rename_i h
    subst h
    exact ⟨rfl, fun k => by split <;> rfl⟩
  · refine ⟨rfl, fun k => ?_⟩
    simp only [forEach, NMap.upd, NMap.get_set, chunkKey]
    by_cases h : k / 4 = 512 * pb + row
    · rw [if_pos h]
      have : k % 4 < 4 := Nat.mod_lt _ (by decide)
      have hk : k = 2048 * pb + 4 * row + k % 4 := by omega
      generalize k % 4 = c at *
      subst hk
      obtain rfl | rfl | rfl | rfl : c = 0 ∨ c = 1 ∨ c = 2 ∨ c = 3 := by omega
      all_goals simp
    · rw [if_neg h, if_neg (by omega), if_neg (by omega), if_neg (by omega), if_neg (by omega)]

end Sys2Proof.Machine
end

