-- ==== Sys2Proof/Laws/Settle.lean ====
section
/-!
SUPPORT. Laws/Settle.lean: what handling the row of an internal port does: where the transfers have identifiers of their own, the
purpose of the one that comes next is met, and nothing else.
-/
namespace Sys2Proof.Machine

/-- The beat that a port performs next belongs to a granted transfer of the kinds asked for, and reaches its bank. -/
theorem nextBeat_spec {s : State} {bank n : Nat} {port : Bool} {ks : List TrKind} {T : Tr} (h : nextBeat s bank port ks = some (T, n)) :
    T ∈ s.fr.trs ∧ T.granted = true ∧ ks.contains T.kind = true ∧ ∃ b, T.beats[n]? = some b ∧ b.bad = 0 ∧ b.done = false ∧ b.bank = bank := by
  unfold nextBeat at h
  obtain ⟨t, ht, h2⟩ := List.exists_of_findSome?_eq_some h
  cases hf : t.beats.zipIdx.find? (fun (b, n) => b.bad == 0 && !b.done && b.bank == bank && portOf t bank == port
      && (halted s || decide (t.gcyc + t.offs + n ≤ s.cyc))) with
  | none => rw [hf] at h2; cases h2
  | some p =>
    rw [hf] at h2
    obtain ⟨b, m⟩ := p
    simp only [Option.map_some, Option.some.injEq, Prod.mk.injEq] at h2
    obtain ⟨rfl, rfl⟩ := h2
    have hp := List.find?_some hf
    have hm := List.mem_of_find?_eq_some hf
    simp only [Bool.and_eq_true, beq_iff_eq, List.mem_filter, Bool.not_eq_true'] at hp ht
    refine ⟨ht.1, ht.2.1.1, ht.2.1.2, b, ?_, hp.1.1.1.1, hp.1.1.1.2, hp.1.1.2⟩
    rw [List.mem_zipIdx_iff_getElem?] at hm
    exact hm

/-- The transfer of an id, where ids are their own. -/
theorem trOf_of_mem {s : State} {T : Tr} (hn : (s.fr.trs.map (·.id)).Nodup) (h : T ∈ s.fr.trs) : trOf s T.id = some T := by
  unfold trOf
  generalize s.fr.trs = l at hn h
  induction l with
  | nil => cases h
  | cons a l ih =>
    rw [List.map_cons, List.nodup_cons] at hn
    rw [List.find?_cons]
    by_cases ha : a.id = T.id
    · rcases List.mem_cons.mp h with rfl | h2
      · simp
      · exact absurd (ha ▸ List.mem_map.mpr ⟨T, h2, rfl⟩) hn.1
    · rw [show (a.id == T.id) = false by simp [ha]]
      rcases List.mem_cons.mp h with rfl | h2
      · exact absurd rfl ha
      · exact ih hn.2 h2

theorem mem_of_trOf {s : State} {i : Nat} {T : Tr} (h : trOf s i = some T) : T ∈ s.fr.trs ∧ T.id = i :=
  ⟨List.mem_of_find?_eq_some h, by simpa using List.find?_some h⟩

/-- Replacing a transfer replaces it among those of its port. -/
theorem portTrs_setTr {s : State} {r : Nat} {T U : Tr} {pre post : List Tr} (hn : (s.fr.trs.map (·.id)).Nodup) (hi : U.id = T.id)
    (hr : U.req = T.req) (hk : U.kind = T.kind) (h : portTrs s r = pre ++ T :: post) : portTrs (setTr U s) r = pre ++ U :: post := by
  have hsub : (portTrs s r).map (·.id) |>.Nodup := hn.sublist (List.filter_sublist.map _)
  have hm : T ∈ portTrs s r := by rw [h]; simp
  have hT : (T.req == r && (T.kind == .ird || T.kind == .iwr)) = true := (List.mem_filter.mp hm).2
  have hTm : T ∈ s.fr.trs := (List.mem_filter.mp hm).1
  have e : portTrs (setTr U s) r = (portTrs s r).map fun u => if u.id == U.id then U else u := by
    unfold portTrs setTr
    dsimp only
    rw [List.filter_map]
    congr 1
    apply List.filter_congr
    intro a ha
    show (fun t => t.req == r && (t.kind == .ird || t.kind == .iwr)) (if a.id == U.id then U else a) = _
    split
    · rename_i hid
      have haT : a = T := by
        have h1 := trOf_of_mem hn ha
        have h2 := trOf_of_mem hn hTm
        rw [show a.id = T.id by rw [← hi]; simpa using hid] at h1
        rw [h2] at h1
        exact (Option.some.inj h1).symm
      subst haT
      show (U.req == r && (U.kind == .ird || U.kind == .iwr)) = _
      rw [hr, hk]
    · rfl
  rw [e, h, List.map_append, List.map_cons]
  rw [h, List.map_append, List.map_cons] at hsub
  have hne : ∀ a, a ∈ pre ∨ a ∈ post → a.id ≠ T.id := by
    intro a ha heq
    rw [List.nodup_append, List.nodup_cons] at hsub
    rcases ha with ha | ha
    · exact hsub.2.2 _ (List.mem_map.mpr ⟨a, ha, rfl⟩) _ List.mem_cons_self heq
    · exact hsub.2.1.1 (heq ▸ List.mem_map.mpr ⟨a, ha, rfl⟩)
  congr 1
  · rw [List.map_congr_left (g := id)]
    · simp
    · intro a ha
      rw [if_neg (by simp [hi, hne a (.inl ha)])]; rfl
  · rw [if_pos (by simp [hi])]
    congr 1
    rw [List.map_congr_left (g := id)]
    · simp
    · intro a ha
      rw [if_neg (by simp [hi, hne a (.inr ha)])]; rfl

/-- Meeting a purpose leaves every transfer as it was but for its purpose, or drops it, or adds one under the next id. -/
theorem jobDone_trs (t : Tr) (s : State) (V : Tr) (h : V ∈ (jobDone t s).fr.trs) :
    V.id = s.fr.nextId ∨ ∃ U ∈ s.fr.trs, ∃ j, V = { U with job := j } := by
  have same : ∀ z : State, z.fr = s.fr → V ∈ z.fr.trs → V.id = s.fr.nextId ∨ ∃ U ∈ s.fr.trs, ∃ j, V = { U with job := j } :=
    fun z hz hv => .inr ⟨V, hz ▸ hv, V.job, rfl⟩
  unfold jobDone at h
  dsimp only at h
  cases hj : t.job with
  | copyRd =>
    rw [hj] at h
    unfold copyRead at h
    dsimp only at h
    split at h
    · unfold addTr at h
      rcases List.mem_append.mp h with h2 | h2
      · exact same s rfl h2
      · rw [List.mem_singleton.mp h2]; exact .inl rfl
    · exact same s rfl h
  | dump u =>
    rw [hj] at h
    unfold dumped at h
    dsimp only at h
    split at h
    · rw [raise_only _ _ .fr (by decide), orReg_only _ _ _ .fr (by decide)] at h
      have h2 : V ∈ ((s.fr.trs.filter fun t => !(isDump u t.job && !t.granted)).map fun t => if isDump u t.job then { t with job := .none } else t) := h
      obtain ⟨U, hU, rfl⟩ := List.mem_map.mp h2
      refine .inr ⟨U, (List.mem_filter.mp hU).1, (if isDump u U.job then Job.none else U.job), ?_⟩
      split <;> rfl
    · exact same s rfl h
  | _ =>
    rw [hj] at h
    dsimp only at h
    first
      | exact same _ rfl h
      | exact same _ (updSlip_only _ _ _ .fr (by decide)) h
      | exact same _ (updHeld_only _ _ _ .fr (by decide)) h
      | exact same _ (sideArrived_only _ _ _ _ .fr (by decide)) h
      | exact same _ (vecArrived_only _ _ _ _ .fr (by decide)) h
      | exact same _ (scaleArrived_only _ _ _ _ _ .fr (by decide)) h
      | exact same _ (opRead_only _ _ _ _ .fr (by decide)) h
      | exact same _ (opWritten_only _ _ _ .fr (by decide)) h
      | exact same _ (advanceRing_only _ _ .fr (by decide)) h
      | exact same _ (copyWritten_only _ .fr (by decide)) h
      | exact same _ (dualWritten_only _ .fr (by decide)) h

theorem settleGo_cons (i : Nat) (l : List Nat) (s : State) : settleGo (i :: l) s = match trOf s i with
    | none => settleGo l s
    | some t => if !t.passed.isEmpty then settleGo l s
      else if rowsDone t then settleGo l (jobDone t (setTr { t with passed := [(0, 1)] } s)) else s := rfl

/-- The rows of a port that are not yet performed wait. -/
theorem settleGo_waits (l : List Nat) (s : State) (h : ∀ i ∈ l, ∀ V, trOf s i = some V → rowsDone V = false ∧ V.passed = []) : settleGo l s = s := by
  induction l with
  | nil => rfl
  | cons i l ih =>
    rw [settleGo_cons]
    cases hi : trOf s i with
    | none => exact ih fun j hj => h j (List.mem_cons_of_mem _ hj)
    | some V =>
      obtain ⟨h1, h2⟩ := h i List.mem_cons_self V hi
      dsimp only
      rw [h2, h1]
      simp

/-- A port handles the row of its next transfer once it has been performed. -/
theorem settlePort_next {s : State} {r : Nat} {T : Tr} {pre post : List Tr} (hn : (s.fr.trs.map (·.id)).Nodup)
    (hf : ∀ x ∈ s.fr.trs, x.id < s.fr.nextId) (hp : portTrs s r = pre ++ T :: post) (hpre : ∀ U ∈ pre, U.passed ≠ [])
    (hT : T.passed = []) (hd : rowsDone T = true) (hpost : ∀ U ∈ post, U.passed = [] ∧ rowsDone U = false) :
    settlePort r s = jobDone T (setTr { T with passed := [(0, 1)] } s) := by
  have hmem : ∀ U ∈ portTrs s r, U ∈ s.fr.trs := fun U hU => (List.mem_filter.mp hU).1
  have go : ∀ l : List Tr, (∀ U ∈ l, U ∈ s.fr.trs ∧ U.passed ≠ []) → ∀ m, settleGo (l.map (·.id) ++ m) s = settleGo m s := by
    intro l
    induction l with
    | nil => intro _ m; rfl
    | cons U l ih =>
      intro h m
      obtain ⟨h1, h2⟩ := h U List.mem_cons_self
      show settleGo (U.id :: (l.map (·.id) ++ m)) s = _
      rw [settleGo_cons, trOf_of_mem hn h1]
      dsimp only
      rw [if_pos (by cases hup : U.passed <;> simp_all)]
      exact ih (fun V hV => h V (List.mem_cons_of_mem _ hV)) m
  unfold settlePort
  rw [hp, List.map_append, List.map_cons]
  rw [go pre (fun U hU => ⟨hmem U (by rw [hp]; exact List.mem_append_left _ hU), hpre U hU⟩)]
  have hTm : T ∈ s.fr.trs := hmem T (by rw [hp]; simp)
  rw [settleGo_cons, trOf_of_mem hn hTm]
  dsimp only
  rw [hT, hd]
  simp only [List.isEmpty_nil, Bool.not_true, Bool.false_eq_true, if_false, if_true]
  apply settleGo_waits
  intro i hi V hV
  obtain ⟨U, hU, rfl⟩ := List.mem_map.mp hi
  have hUm : U ∈ s.fr.trs := hmem U (by rw [hp]; exact List.mem_append_right _ (List.mem_cons_of_mem _ hU))
  obtain ⟨hVm, hVi⟩ := mem_of_trOf hV
  have hne : U.id ≠ T.id := by
    intro heq
    have h1 := trOf_of_mem hn hUm
    rw [heq, trOf_of_mem hn hTm] at h1
    have h2 := Option.some.inj h1
    have h3 := (hpost U hU).2
    rw [← h2, hd] at h3
    cases h3
  rcases jobDone_trs _ _ _ hVm with h1 | ⟨W, hW, j, rfl⟩
  · have h2 := hf U hUm
    have h3 : (setTr { T with passed := [(0, 1)] } s).fr.nextId = s.fr.nextId := rfl
    rw [h3, hVi] at h1
    omega
  · unfold setTr at hW
    obtain ⟨X, hX, rfl⟩ := List.mem_map.mp hW
    dsimp only at hVi ⊢
    split at hVi
    · rename_i hx
      exact absurd hVi.symm (by simpa using hne)
    · rename_i hx
      have h1 := trOf_of_mem hn hX
      rw [hVi, trOf_of_mem hn hUm] at h1
      have h2 := Option.some.inj h1
      subst h2
      rw [if_neg hx]
      have := hpost U hU
      refine ⟨?_, this.1⟩
      rw [← this.2]
      rfl

end Sys2Proof.Machine
end

