-- ==== Sys2Proof/Laws/WithinPower.lean ====
section
/-!
SUPPORT. Laws/WithinPower.lean: the registers and counters that the operations and commands of Machine/Power.lean may change (generated
text, one lemma for each).
-/
namespace Sys2Proof.Machine

set_option linter.unusedSimpArgs false
set_option linter.tactic.unusedName false

theorem refusePower_within (lb : Nat) (s : State) :
    Within [⟨0x08C0, 4, 3⟩, ⟨0x6014, 0, 1⟩, ⟨0x7000, 4, 2⟩, ⟨0x7018, 4, 3⟩] s (refusePower lb s) := by
  unfold refusePower
  try dsimp only
  repeat' first
    | simp +decide (maxDischargeDepth := 8) only [Within.iff_of (orReg_within _ _ _ ), Within.iff_of (raise_within _ _ ), *, Within.self, Within.mk_iff, Within.forEach_iff, Within.when_iff, Within.clear_iff, Within.ite_of, spansIn_idx, spansIn_wu, and_self, implies_true, id_eq, ne_eq, not_false_eq_true, reduceCtorEq]
    | split
    | with_reducible refine Within.trans ?_ (Within.forEach (fun _ _ => ?_) _ _)
    | with_reducible refine Within.trans ?_ (Within.when (fun _ => ?_) _ _)

theorem requestSpare_within (lb : Nat) (r : PowReq) (s : State) :
    Within [] s (requestSpare lb r s) := Within.of_only (requestSpare_only lb r s) (by decide)

theorem requestBank_within (lb target : Nat) (zfill : Bool) (s : State) :
    Within [⟨0x08C0, 4, 3⟩, ⟨0x6014, 0, 1⟩, ⟨0x7000, 4, 2⟩, ⟨0x7018, 4, 3⟩] s (requestBank lb target zfill s) := by
  unfold requestBank
  try dsimp only
  repeat' first
    | simp +decide (maxDischargeDepth := 8) only [Within.iff_of (setPow_within _ _ _ ), Within.iff_of (refusePower_within _ _ ), Within.iff_of (requestSpare_within _ _ _ ), *, Within.self, Within.mk_iff, Within.forEach_iff, Within.when_iff, Within.clear_iff, Within.ite_of, spansIn_idx, spansIn_wu, and_self, implies_true, id_eq, ne_eq, not_false_eq_true, reduceCtorEq]
    | split
    | with_reducible refine Within.trans ?_ (Within.forEach (fun _ _ => ?_) _ _)
    | with_reducible refine Within.trans ?_ (Within.when (fun _ => ?_) _ _)

theorem autowake_within (lb : Nat) (s : State) :
    Within [] s (autowake lb s) := Within.of_only (autowake_only lb s) (by decide)

theorem storeWb_within (lb : Nat) (s : State) :
    Within [] s (storeWb lb s) := Within.of_only (storeWb_only lb s) (by decide)

theorem powerContents_within (pb from_ : Nat) (r : PowReq) (s : State) :
    Within [] s (powerContents pb from_ r s) := Within.of_only (powerContents_only pb from_ r s) (by decide)

theorem refuseHeld_within (pb : Nat) (p : BankPow) (reached : Nat) (s : State) :
    Within [⟨0x08C0, 4, 3⟩, ⟨0x6014, 0, 1⟩, ⟨0x7000, 4, 2⟩, ⟨0x7018, 4, 3⟩] s (refuseHeld pb p reached s) := by
  unfold refuseHeld
  try dsimp only
  repeat' first
    | simp +decide (maxDischargeDepth := 8) only [Within.iff_of (refusePower_within _ _ ), *, Within.self, Within.mk_iff, Within.forEach_iff, Within.when_iff, Within.clear_iff, Within.ite_of, spansIn_idx, spansIn_wu, and_self, implies_true, id_eq, ne_eq, not_false_eq_true, reduceCtorEq]
    | split
    | with_reducible refine Within.trans ?_ (Within.forEach (fun _ _ => ?_) _ _)
    | with_reducible refine Within.trans ?_ (Within.when (fun _ => ?_) _ _)

theorem requestBanks_within (n : Nat) (w : Word) (s : State) :
    Within [⟨0x0840, 4, 12⟩, ⟨0x08C0, 4, 3⟩, ⟨0x6014, 0, 1⟩, ⟨0x7000, 4, 2⟩, ⟨0x7018, 4, 3⟩] s (requestBanks n w s) := by
  unfold requestBanks
  try dsimp only
  repeat' first
    | simp +decide (maxDischargeDepth := 8) only [Within.iff_of (setReg_within _ _ _ ), Within.iff_of (requestBank_within _ _ _ _ ), *, Within.self, Within.mk_iff, Within.forEach_iff, Within.when_iff, Within.clear_iff, Within.ite_of, spansIn_idx, spansIn_wu, and_self, implies_true, id_eq, ne_eq, not_false_eq_true, reduceCtorEq]
    | split
    | with_reducible refine Within.trans ?_ (Within.forEach (fun _ _ => ?_) _ _)
    | with_reducible refine Within.trans ?_ (Within.when (fun _ => ?_) _ _)

theorem fwdDone_within (kind : Nat) (nospare : Bool) (from_ dest trig : Nat) (s : State) :
    Within [⟨0x6014, 0, 1⟩, ⟨0x7000, 4, 2⟩, ⟨0x7018, 4, 3⟩] s (fwdDone kind nospare from_ dest trig s) := by
  unfold fwdDone
  try dsimp only
  repeat' first
    | simp +decide (maxDischargeDepth := 8) only [Within.iff_of (raise_within _ _ ), *, Within.self, Within.mk_iff, Within.forEach_iff, Within.when_iff, Within.clear_iff, Within.ite_of, spansIn_idx, spansIn_wu, and_self, implies_true, id_eq, ne_eq, not_false_eq_true, reduceCtorEq]
    | split
    | with_reducible refine Within.trans ?_ (Within.forEach (fun _ _ => ?_) _ _)
    | with_reducible refine Within.trans ?_ (Within.when (fun _ => ?_) _ _)

theorem finishMig_within (m : Mig) (held : Option PowReq) (tail : Option Mig) (s : State) :
    Within [⟨0x6014, 0, 1⟩, ⟨0x7000, 4, 2⟩, ⟨0x7018, 4, 3⟩, ⟨0x7078, 4, 3⟩, ⟨0x7090, 4, 4⟩, ⟨0x7100, 4, 24⟩] s (finishMig m held tail s) := by
  unfold finishMig
  try dsimp only
  repeat' first
    | simp +decide (maxDischargeDepth := 8) only [Within.iff_of (setRegF_within _ _ _ _ _ ), Within.iff_of (orReg_within _ _ _ ), Within.iff_of (clrReg_within _ _ _ ), Within.iff_of (dropJobs_within _ _ ), Within.iff_of (setPow_within _ _ _ ), Within.iff_of (fwdDone_within _ _ _ _ _ _ ), *, Within.self, Within.mk_iff, Within.forEach_iff, Within.when_iff, Within.clear_iff, Within.ite_of, spansIn_idx, spansIn_wu, and_self, implies_true, id_eq, ne_eq, not_false_eq_true, reduceCtorEq]
    | split
    | with_reducible refine Within.trans ?_ (Within.forEach (fun _ _ => ?_) _ _)
    | with_reducible refine Within.trans ?_ (Within.when (fun _ => ?_) _ _)

theorem endTail_within (s : State) :
    Within [] s (endTail s) := Within.of_only (endTail_only s) (by decide)

theorem offEndsMig_within (pb target : Nat) (s : State) :
    Within [⟨0x6014, 0, 1⟩, ⟨0x7000, 4, 2⟩, ⟨0x7018, 4, 3⟩, ⟨0x7078, 4, 3⟩, ⟨0x7090, 4, 4⟩, ⟨0x7100, 4, 24⟩] s (offEndsMig pb target s) := by
  unfold offEndsMig
  try dsimp only
  repeat' first
    | simp +decide (maxDischargeDepth := 8) only [Within.iff_of (finishMig_within _ _ _ _ ), Within.iff_of (endTail_within _ ), *, Within.self, Within.mk_iff, Within.forEach_iff, Within.when_iff, Within.clear_iff, Within.ite_of, spansIn_idx, spansIn_wu, and_self, implies_true, id_eq, ne_eq, not_false_eq_true, reduceCtorEq]
    | split
    | with_reducible refine Within.trans ?_ (Within.forEach (fun _ _ => ?_) _ _)
    | with_reducible refine Within.trans ?_ (Within.when (fun _ => ?_) _ _)

theorem cancelMig_within (s : State) :
    Within [⟨0x6014, 0, 1⟩, ⟨0x7000, 4, 2⟩, ⟨0x7018, 4, 3⟩] s (cancelMig s) := by
  unfold cancelMig
  try dsimp only
  repeat' first
    | simp +decide (maxDischargeDepth := 8) only [Within.iff_of (raise_within _ _ ), Within.iff_of (dropJobs_within _ _ ), Within.iff_of (setPow_within _ _ _ ), Within.iff_of (endTail_within _ ), *, Within.self, Within.mk_iff, Within.forEach_iff, Within.when_iff, Within.clear_iff, Within.ite_of, spansIn_idx, spansIn_wu, and_self, implies_true, id_eq, ne_eq, not_false_eq_true, reduceCtorEq]
    | split
    | with_reducible refine Within.trans ?_ (Within.forEach (fun _ _ => ?_) _ _)
    | with_reducible refine Within.trans ?_ (Within.when (fun _ => ?_) _ _)

theorem settleWb_within (pb target : Nat) (s : State) :
    Within [] s (settleWb pb target s) := Within.of_only (settleWb_only pb target s) (by decide)

theorem setDom_within (i : Nat) (p : BankPow) (s : State) :
    Within [] s (setDom i p s) := Within.of_only (setDom_only i p s) (by decide)

theorem requestDomain_within (i : Nat) (on : Bool) (s : State) :
    Within [⟨0x4004, 0, 1⟩, ⟨0x40A0, 0, 1⟩, ⟨0x6014, 0, 1⟩, ⟨0x7000, 4, 2⟩, ⟨0x7018, 4, 3⟩] s (requestDomain i on s) := by
  unfold requestDomain
  try dsimp only
  repeat' first
    | simp +decide (maxDischargeDepth := 8) only [Within.iff_of (setRegF_within _ _ _ _ _ ), Within.iff_of (orReg_within _ _ _ ), Within.iff_of (raise_within _ _ ), Within.iff_of (setDom_within _ _ _ ), *, Within.self, Within.mk_iff, Within.forEach_iff, Within.when_iff, Within.clear_iff, Within.ite_of, spansIn_idx, spansIn_wu, and_self, implies_true, id_eq, ne_eq, not_false_eq_true, reduceCtorEq]
    | split
    | with_reducible refine Within.trans ?_ (Within.forEach (fun _ _ => ?_) _ _)
    | with_reducible refine Within.trans ?_ (Within.when (fun _ => ?_) _ _)

theorem requestDomains_within (w : Word) (s : State) :
    Within [⟨0x4004, 0, 1⟩, ⟨0x40A0, 0, 1⟩, ⟨0x6014, 0, 1⟩, ⟨0x7000, 4, 2⟩, ⟨0x7018, 4, 3⟩] s (requestDomains w s) := by
  unfold requestDomains
  try dsimp only
  repeat' first
    | simp +decide (maxDischargeDepth := 8) only [Within.iff_of (requestDomain_within _ _ _ ), *, Within.self, Within.mk_iff, Within.forEach_iff, Within.when_iff, Within.clear_iff, Within.ite_of, spansIn_idx, spansIn_wu, and_self, implies_true, id_eq, ne_eq, not_false_eq_true, reduceCtorEq]
    | split
    | with_reducible refine Within.trans ?_ (Within.forEach (fun _ _ => ?_) _ _)
    | with_reducible refine Within.trans ?_ (Within.when (fun _ => ?_) _ _)

theorem domLoses_within (i : Nat) (s : State) :
    Within [] s (domLoses i s) := Within.of_only (domLoses_only i s) (by decide)

theorem execBankPreqWrite_within (a : BusAcc) (n : BitVec 4) (w : Word) (s : State) (s' : State) (h : execBankPreqWrite a n w s = .next s') :
    Within [⟨0x0840, 4, 12⟩, ⟨0x08C0, 4, 3⟩, ⟨0x4804, 4, 2⟩, ⟨0x57B8, 0x40, 8⟩, ⟨0x5980, 0, 1⟩, ⟨0x6014, 0, 1⟩, ⟨0x7000, 4, 2⟩, ⟨0x7018, 4, 3⟩] s s' := by
  unfold execBankPreqWrite at h
  injection h with h
  subst h
  try dsimp only
  repeat' first
    | (with_reducible refine Within.trans ?_ (busWrite_within _ _ _ _ (by decide) (fun _ => ?_)))
    | simp +decide (maxDischargeDepth := 8) only [Within.iff_of (requestBanks_within _ _ _ ), *, Within.self, Within.mk_iff, Within.forEach_iff, Within.when_iff, Within.clear_iff, Within.ite_of, spansIn_idx, spansIn_wu, and_self, implies_true, id_eq, ne_eq, not_false_eq_true, reduceCtorEq]
    | split
    | with_reducible refine Within.trans ?_ (Within.forEach (fun _ _ => ?_) _ _)
    | with_reducible refine Within.trans ?_ (Within.when (fun _ => ?_) _ _)

theorem execBankPowerupStart_within (bank : Nat) (s : State) (s' : State) (h : execBankPowerupStart bank s = .next s') :
    Within [] s s' := Within.of_only (execBankPowerupStart_only bank s s' h) (by decide)

theorem execBankPowerdownStart_within (bank : Nat) (s : State) (s' : State) (h : execBankPowerdownStart bank s = .next s') :
    Within [⟨0x6014, 0, 1⟩, ⟨0x7000, 4, 2⟩, ⟨0x7018, 4, 3⟩, ⟨0x7078, 4, 3⟩, ⟨0x7090, 4, 4⟩, ⟨0x7100, 4, 24⟩] s s' := by
  unfold execBankPowerdownStart at h
  injection h with h
  subst h
  try dsimp only
  repeat' first
    | simp +decide (maxDischargeDepth := 8) only [Within.iff_of (setPow_within _ _ _ ), Within.iff_of (offEndsMig_within _ _ _ ), Within.iff_of (settleWb_within _ _ _ ), *, Within.self, Within.mk_iff, Within.forEach_iff, Within.when_iff, Within.clear_iff, Within.ite_of, spansIn_idx, spansIn_wu, and_self, implies_true, id_eq, ne_eq, not_false_eq_true, reduceCtorEq]
    | split
    | with_reducible refine Within.trans ?_ (Within.forEach (fun _ _ => ?_) _ _)
    | with_reducible refine Within.trans ?_ (Within.when (fun _ => ?_) _ _)

theorem execBankTransitionDone_within (bank : Nat) (s : State) (s' : State) (h : execBankTransitionDone bank s = .next s') :
    Within [⟨0x08C0, 4, 3⟩, ⟨0x6014, 0, 1⟩, ⟨0x7000, 4, 2⟩, ⟨0x7018, 4, 3⟩] s s' := by
  unfold execBankTransitionDone at h
  injection h with h
  subst h
  try dsimp only
  repeat' first
    | simp +decide (maxDischargeDepth := 8) only [Within.iff_of (setPow_within _ _ _ ), Within.iff_of (powerContents_within _ _ _ _ ), Within.iff_of (refuseHeld_within _ _ _ _ ), *, Within.self, Within.mk_iff, Within.forEach_iff, Within.when_iff, Within.clear_iff, Within.ite_of, spansIn_idx, spansIn_wu, and_self, implies_true, id_eq, ne_eq, not_false_eq_true, reduceCtorEq]
    | split
    | with_reducible refine Within.trans ?_ (Within.forEach (fun _ _ => ?_) _ _)
    | with_reducible refine Within.trans ?_ (Within.when (fun _ => ?_) _ _)

theorem execDomainReqWrite_within (a : BusAcc) (w : Word) (s : State) (s' : State) (h : execDomainReqWrite a w s = .next s') :
    Within [⟨0x4004, 0, 1⟩, ⟨0x40A0, 0, 1⟩, ⟨0x4804, 4, 2⟩, ⟨0x57B8, 0x40, 8⟩, ⟨0x5980, 0, 1⟩, ⟨0x6014, 0, 1⟩, ⟨0x7000, 4, 2⟩, ⟨0x7018, 4, 3⟩] s s' := by
  unfold execDomainReqWrite at h
  injection h with h
  subst h
  try dsimp only
  repeat' first
    | (with_reducible refine Within.trans ?_ (busWrite_within _ _ _ _ (by decide) (fun _ => ?_)))
    | simp +decide (maxDischargeDepth := 8) only [Within.iff_of (requestDomains_within _ _ ), *, Within.self, Within.mk_iff, Within.forEach_iff, Within.when_iff, Within.clear_iff, Within.ite_of, spansIn_idx, spansIn_wu, and_self, implies_true, id_eq, ne_eq, not_false_eq_true, reduceCtorEq]
    | split
    | with_reducible refine Within.trans ?_ (Within.forEach (fun _ _ => ?_) _ _)
    | with_reducible refine Within.trans ?_ (Within.when (fun _ => ?_) _ _)

theorem execDomainPowerdownStart_within (dom : BitVec 5) (s : State) (s' : State) (h : execDomainPowerdownStart dom s = .next s') :
    Within [] s s' := Within.of_only (execDomainPowerdownStart_only dom s s' h) (by decide)

theorem execDomainPowerupStart_within (dom : BitVec 5) (s : State) (s' : State) (h : execDomainPowerupStart dom s = .next s') :
    Within [] s s' := Within.of_only (execDomainPowerupStart_only dom s s' h) (by decide)

theorem execDomainTransitionDone_within (dom : BitVec 5) (s : State) (s' : State) (h : execDomainTransitionDone dom s = .next s') :
    Within [] s s' := Within.of_only (execDomainTransitionDone_only dom s s' h) (by decide)

end Sys2Proof.Machine
end

