-- ==== Sys2Proof/Laws/WithinOperands.lean ====
section
/-!
SUPPORT. Laws/WithinOperands.lean: the registers and counters that the operations and commands of Machine/Operands.lean may change (generated
text, one lemma for each).
-/
namespace Sys2Proof.Machine

set_option linter.unusedSimpArgs false
set_option linter.tactic.unusedName false

theorem setSlip_within (x : Slip) (s : State) :
    Within [] s (setSlip x s) := Within.of_only (setSlip_only x s) (by decide)

theorem updSlip_within (sid : Nat) (f : Slip → Slip) (s : State) :
    Within [] s (updSlip sid f s) := Within.of_only (updSlip_only sid f s) (by decide)

theorem addTr_within (t : Tr) (s : State) :
    Within [] s (addTr t s) := Within.of_only (addTr_only t s) (by decide)

theorem setRlane_within (l : Nat) (x : RLane) (s : State) :
    Within [] s (setRlane l x s) := Within.of_only (setRlane_only l x s) (by decide)

theorem updRlane_within (l : Nat) (f : RLane → RLane) (s : State) :
    Within [] s (updRlane l f s) := Within.of_only (updRlane_only l f s) (by decide)

theorem setWlane_within (l : Nat) (x : WLane) (s : State) :
    Within [] s (setWlane l x s) := Within.of_only (setWlane_only l x s) (by decide)

theorem updWlane_within (l : Nat) (f : WLane → WLane) (s : State) :
    Within [] s (updWlane l f s) := Within.of_only (updWlane_only l f s) (by decide)

theorem setTr_within (t : Tr) (s : State) :
    Within [] s (setTr t s) := Within.of_only (setTr_only t s) (by decide)

end Sys2Proof.Machine
end

