-- ==== Sys2Proof/Laws/WithinTrace.lean ====
section
/-!
SUPPORT. Laws/WithinTrace.lean: the registers and counters that the operations and commands of Machine/Trace.lean may change (generated
text, one lemma for each).
-/
namespace Sys2Proof.Machine

set_option linter.unusedSimpArgs false
set_option linter.tactic.unusedName false

theorem raiseLost_within (eg : Bool) (s : State) :
    Within [⟨0x6014, 0, 1⟩, ⟨0x7000, 4, 2⟩, ⟨0x7018, 4, 3⟩] s (raiseLost eg s) := by
  unfold raiseLost
  try dsimp only
  repeat' first
    | simp +decide (maxDischargeDepth := 8) only [Within.iff_of (raise_within _ _ ), *, Within.self, Within.mk_iff, Within.forEach_iff, Within.when_iff, Within.clear_iff, Within.ite_of, spansIn_idx, spansIn_wu, and_self, implies_true, id_eq, ne_eq, not_false_eq_true, reduceCtorEq]
    | split
    | with_reducible refine Within.trans ?_ (Within.forEach (fun _ _ => ?_) _ _)
    | with_reducible refine Within.trans ?_ (Within.when (fun _ => ?_) _ _)

theorem loseBuffer_within (r : Rec) (s : State) :
    Within [⟨0x5A50, 0, 1⟩, ⟨0x6014, 0, 1⟩, ⟨0x7000, 4, 2⟩, ⟨0x7018, 4, 3⟩] s (loseBuffer r s) := by
  unfold loseBuffer
  try dsimp only
  repeat' first
    | simp +decide (maxDischargeDepth := 8) only [Within.iff_of (orReg_within _ _ _ ), Within.iff_of (bump_within _ _ _ ), Within.iff_of (raiseLost_within _ _ ), *, Within.self, Within.mk_iff, Within.forEach_iff, Within.when_iff, Within.clear_iff, Within.ite_of, spansIn_idx, spansIn_wu, and_self, implies_true, id_eq, ne_eq, not_false_eq_true, reduceCtorEq]
    | split
    | with_reducible refine Within.trans ?_ (Within.forEach (fun _ _ => ?_) _ _)
    | with_reducible refine Within.trans ?_ (Within.when (fun _ => ?_) _ _)

theorem loseEgress_within (r : Rec) (s : State) :
    Within [⟨0x5A58, 0, 1⟩, ⟨0x6014, 0, 1⟩, ⟨0x7000, 4, 2⟩, ⟨0x7018, 4, 3⟩] s (loseEgress r s) := by
  unfold loseEgress
  try dsimp only
  repeat' first
    | simp +decide (maxDischargeDepth := 8) only [Within.iff_of (orReg_within _ _ _ ), Within.iff_of (bump_within _ _ _ ), Within.iff_of (raiseLost_within _ _ ), *, Within.self, Within.mk_iff, Within.forEach_iff, Within.when_iff, Within.clear_iff, Within.ite_of, spansIn_idx, spansIn_wu, and_self, implies_true, id_eq, ne_eq, not_false_eq_true, reduceCtorEq]
    | split
    | with_reducible refine Within.trans ?_ (Within.forEach (fun _ _ => ?_) _ _)
    | with_reducible refine Within.trans ?_ (Within.when (fun _ => ?_) _ _)

theorem watchLost_within (u : Nat) (s : State) :
    Within [⟨0x6A1C, 0x40, 4⟩, ⟨0x6A24, 0x40, 4⟩] s (watchLost u s) := by
  unfold watchLost
  try dsimp only
  repeat' first
    | simp +decide (maxDischargeDepth := 8) only [Within.iff_of (setReg_within _ _ _ ), Within.iff_of (orReg_within _ _ _ ), *, Within.self, Within.mk_iff, Within.forEach_iff, Within.when_iff, Within.clear_iff, Within.ite_of, spansIn_idx, spansIn_wu, and_self, implies_true, id_eq, ne_eq, not_false_eq_true, reduceCtorEq]
    | split
    | with_reducible refine Within.trans ?_ (Within.forEach (fun _ _ => ?_) _ _)
    | with_reducible refine Within.trans ?_ (Within.when (fun _ => ?_) _ _)

theorem loseBoth_within (r : Rec) (s : State) :
    Within [⟨0x5A50, 0, 1⟩, ⟨0x5A58, 0, 1⟩, ⟨0x6014, 0, 1⟩, ⟨0x6A1C, 0x40, 4⟩, ⟨0x6A24, 0x40, 4⟩, ⟨0x7000, 4, 2⟩, ⟨0x7018, 4, 3⟩] s (loseBoth r s) := by
  unfold loseBoth
  try dsimp only
  repeat' first
    | simp +decide (maxDischargeDepth := 8) only [Within.iff_of (orReg_within _ _ _ ), Within.iff_of (bump_within _ _ _ ), Within.iff_of (raiseLost_within _ _ ), Within.iff_of (watchLost_within _ _ ), *, Within.self, Within.mk_iff, Within.forEach_iff, Within.when_iff, Within.clear_iff, Within.ite_of, spansIn_idx, spansIn_wu, and_self, implies_true, id_eq, ne_eq, not_false_eq_true, reduceCtorEq]
    | split
    | with_reducible refine Within.trans ?_ (Within.forEach (fun _ _ => ?_) _ _)
    | with_reducible refine Within.trans ?_ (Within.when (fun _ => ?_) _ _)

theorem collectOne_within (r : Rec) (x : Nat × State) :
    Within [⟨0x5A48, 0, 1⟩, ⟨0x5A50, 0, 1⟩, ⟨0x5A58, 0, 1⟩, ⟨0x6014, 0, 1⟩, ⟨0x6A1C, 0x40, 4⟩, ⟨0x6A24, 0x40, 4⟩, ⟨0x7000, 4, 2⟩, ⟨0x7018, 4, 3⟩] x.2 (collectOne r x).2 := by
  unfold collectOne
  try dsimp only
  repeat' first
    | simp +decide (maxDischargeDepth := 8) only [Within.iff_of (bump_within _ _ _ ), Within.iff_of (loseBoth_within _ _ ), *, Within.self, Within.mk_iff, Within.forEach_iff, Within.when_iff, Within.clear_iff, Within.ite_of, spansIn_idx, spansIn_wu, and_self, implies_true, id_eq, ne_eq, not_false_eq_true, reduceCtorEq]
    | split
    | with_reducible refine Within.trans ?_ (Within.forEach (fun _ _ => ?_) _ _)
    | with_reducible refine Within.trans ?_ (Within.when (fun _ => ?_) _ _)

theorem collectGo_within (l : List Rec) (x : Nat × State) : Within [⟨0x5A48, 0, 1⟩, ⟨0x5A50, 0, 1⟩, ⟨0x5A58, 0, 1⟩, ⟨0x6014, 0, 1⟩, ⟨0x6A1C, 0x40, 4⟩, ⟨0x6A24, 0x40, 4⟩, ⟨0x7000, 4, 2⟩, ⟨0x7018, 4, 3⟩] x.2 (collectGo l x) := by
  induction l generalizing x with
  | nil => exact Within.refl _ _
  | cons r rs ih => exact (collectOne_within r x).trans (ih _)

theorem advanceRing_within (n : Nat) (s : State) :
    Within [⟨0x6018, 4, 3⟩] s (advanceRing n s) := by
  unfold advanceRing
  try dsimp only
  repeat' first
    | simp +decide (maxDischargeDepth := 8) only [Within.iff_of (setReg_within _ _ _ ), *, Within.self, Within.mk_iff, Within.forEach_iff, Within.when_iff, Within.clear_iff, Within.ite_of, spansIn_idx, spansIn_wu, and_self, implies_true, id_eq, ne_eq, not_false_eq_true, reduceCtorEq]
    | split
    | with_reducible refine Within.trans ?_ (Within.forEach (fun _ _ => ?_) _ _)
    | with_reducible refine Within.trans ?_ (Within.when (fun _ => ?_) _ _)

theorem askTraceRows_within (part : Bool) (n : Nat) (s : State) : Within [] s (askTraceRows part n s) :=
  Within.of_only (askTraceRows_only part n s) (by decide)

theorem writeTrace_within (part : Bool) (s : State) :
    Within [] s (writeTrace part s) := Within.of_only (writeTrace_only part s) (by decide)

theorem writeStopSlot_within (r : Rec) (s : State) :
    Within [⟨0x6014, 0, 1⟩] s (writeStopSlot r s) := by
  unfold writeStopSlot
  try dsimp only
  repeat' first
    | simp +decide (maxDischargeDepth := 8) only [Within.iff_of (orReg_within _ _ _ ), Within.iff_of (addTr_within _ _ ), *, Within.self, Within.mk_iff, Within.forEach_iff, Within.when_iff, Within.clear_iff, Within.ite_of, spansIn_idx, spansIn_wu, and_self, implies_true, id_eq, ne_eq, not_false_eq_true, reduceCtorEq]
    | split
    | with_reducible refine Within.trans ?_ (Within.forEach (fun _ _ => ?_) _ _)
    | with_reducible refine Within.trans ?_ (Within.when (fun _ => ?_) _ _)

theorem acceptRec_within (r : Rec) (s : State) :
    Within [⟨0x6024, 0, 1⟩] s (acceptRec r s) := by
  unfold acceptRec
  try dsimp only
  repeat' first
    | simp +decide (maxDischargeDepth := 8) only [Within.iff_of (setReg_within _ _ _ ), *, Within.self, Within.mk_iff, Within.forEach_iff, Within.when_iff, Within.clear_iff, Within.ite_of, spansIn_idx, spansIn_wu, and_self, implies_true, id_eq, ne_eq, not_false_eq_true, reduceCtorEq]
    | split
    | with_reducible refine Within.trans ?_ (Within.forEach (fun _ _ => ?_) _ _)
    | with_reducible refine Within.trans ?_ (Within.when (fun _ => ?_) _ _)

theorem refuseRec_within (r : Rec) (s : State) :
    Within [⟨0x5A50, 0, 1⟩, ⟨0x6014, 0, 1⟩, ⟨0x7000, 4, 2⟩, ⟨0x7018, 4, 3⟩] s (refuseRec r s) := by
  unfold refuseRec
  try dsimp only
  repeat' first
    | simp +decide (maxDischargeDepth := 8) only [Within.iff_of (bump_within _ _ _ ), Within.iff_of (loseBuffer_within _ _ ), Within.iff_of (writeStopSlot_within _ _ ), *, Within.self, Within.mk_iff, Within.forEach_iff, Within.when_iff, Within.clear_iff, Within.ite_of, spansIn_idx, spansIn_wu, and_self, implies_true, id_eq, ne_eq, not_false_eq_true, reduceCtorEq]
    | split
    | with_reducible refine Within.trans ?_ (Within.forEach (fun _ _ => ?_) _ _)
    | with_reducible refine Within.trans ?_ (Within.when (fun _ => ?_) _ _)

theorem acceptGap_within (need : Nat) (s : State) :
    Within [⟨0x5A50, 0, 1⟩, ⟨0x6014, 0, 1⟩, ⟨0x6024, 0, 1⟩, ⟨0x7000, 4, 2⟩, ⟨0x7018, 4, 3⟩] s (acceptGap need s) := by
  unfold acceptGap
  try dsimp only
  repeat' first
    | simp +decide (maxDischargeDepth := 8) only [Within.iff_of (clrReg_within _ _ _ ), Within.iff_of (acceptRec_within _ _ ), Within.iff_of (refuseRec_within _ _ ), *, Within.self, Within.mk_iff, Within.forEach_iff, Within.when_iff, Within.clear_iff, Within.ite_of, spansIn_idx, spansIn_wu, and_self, implies_true, id_eq, ne_eq, not_false_eq_true, reduceCtorEq]
    | split
    | with_reducible refine Within.trans ?_ (Within.forEach (fun _ _ => ?_) _ _)
    | with_reducible refine Within.trans ?_ (Within.when (fun _ => ?_) _ _)

theorem bufferRec_within (r : Rec) (s : State) :
    Within [⟨0x5A50, 0, 1⟩, ⟨0x6014, 0, 1⟩, ⟨0x6024, 0, 1⟩, ⟨0x7000, 4, 2⟩, ⟨0x7018, 4, 3⟩] s (bufferRec r s) := by
  unfold bufferRec
  try dsimp only
  repeat' first
    | simp +decide (maxDischargeDepth := 8) only [Within.iff_of (acceptRec_within _ _ ), Within.iff_of (refuseRec_within _ _ ), Within.iff_of (acceptGap_within _ _ ), *, Within.self, Within.mk_iff, Within.forEach_iff, Within.when_iff, Within.clear_iff, Within.ite_of, spansIn_idx, spansIn_wu, and_self, implies_true, id_eq, ne_eq, not_false_eq_true, reduceCtorEq]
    | split
    | with_reducible refine Within.trans ?_ (Within.forEach (fun _ _ => ?_) _ _)
    | with_reducible refine Within.trans ?_ (Within.when (fun _ => ?_) _ _)

theorem pushEgress_within (r : Rec) (s : State) :
    Within [] s (pushEgress r s) := Within.of_only (pushEgress_only r s) (by decide)

theorem egressGap_within (n : Nat) (s : State) :
    Within [⟨0x5A58, 0, 1⟩, ⟨0x6014, 0, 1⟩, ⟨0x7000, 4, 2⟩, ⟨0x7018, 4, 3⟩] s (egressGap n s) := by
  unfold egressGap
  try dsimp only
  repeat' first
    | simp +decide (maxDischargeDepth := 8) only [Within.iff_of (clrReg_within _ _ _ ), Within.iff_of (loseEgress_within _ _ ), Within.iff_of (pushEgress_within _ _ ), *, Within.self, Within.mk_iff, Within.forEach_iff, Within.when_iff, Within.clear_iff, Within.ite_of, spansIn_idx, spansIn_wu, and_self, implies_true, id_eq, ne_eq, not_false_eq_true, reduceCtorEq]
    | split
    | with_reducible refine Within.trans ?_ (Within.forEach (fun _ _ => ?_) _ _)
    | with_reducible refine Within.trans ?_ (Within.when (fun _ => ?_) _ _)

theorem egressRec_within (r : Rec) (s : State) :
    Within [⟨0x5A58, 0, 1⟩, ⟨0x6014, 0, 1⟩, ⟨0x7000, 4, 2⟩, ⟨0x7018, 4, 3⟩] s (egressRec r s) := by
  unfold egressRec
  try dsimp only
  repeat' first
    | simp +decide (maxDischargeDepth := 8) only [Within.iff_of (loseEgress_within _ _ ), Within.iff_of (pushEgress_within _ _ ), Within.iff_of (egressGap_within _ _ ), *, Within.self, Within.mk_iff, Within.forEach_iff, Within.when_iff, Within.clear_iff, Within.ite_of, spansIn_idx, spansIn_wu, and_self, implies_true, id_eq, ne_eq, not_false_eq_true, reduceCtorEq]
    | split
    | with_reducible refine Within.trans ?_ (Within.forEach (fun _ _ => ?_) _ _)
    | with_reducible refine Within.trans ?_ (Within.when (fun _ => ?_) _ _)

theorem drainTrace_within (n : Nat) (s : State) : Within [⟨0x5A50, 0, 1⟩, ⟨0x5A58, 0, 1⟩, ⟨0x6014, 0, 1⟩, ⟨0x6024, 0, 1⟩, ⟨0x7000, 4, 2⟩, ⟨0x7018, 4, 3⟩] s (drainTrace n s) := by
  induction n generalizing s with
  | zero => exact Within.refl _ _
  | succ n ih =>
    unfold drainTrace
    repeat' first
      | simp +decide (maxDischargeDepth := 8) only [Within.iff_of (ih _), Within.iff_of (writeTrace_within _ _), Within.iff_of (egressRec_within _ _), Within.iff_of (bufferRec_within _ _), *, Within.self, Within.mk_iff, Within.forEach_iff, Within.when_iff, Within.clear_iff, Within.ite_of, spansIn_idx, spansIn_wu, and_self, implies_true, id_eq, ne_eq, not_false_eq_true, reduceCtorEq]
      | split

theorem rearmTrace_within (s : State) :
    Within [⟨0x6014, 0, 1⟩] s (rearmTrace s) := by
  unfold rearmTrace
  try dsimp only
  repeat' first
    | simp +decide (maxDischargeDepth := 8) only [Within.iff_of (clrReg_within _ _ _ ), *, Within.self, Within.mk_iff, Within.forEach_iff, Within.when_iff, Within.clear_iff, Within.ite_of, spansIn_idx, spansIn_wu, and_self, implies_true, id_eq, ne_eq, not_false_eq_true, reduceCtorEq]
    | split
    | with_reducible refine Within.trans ?_ (Within.forEach (fun _ _ => ?_) _ _)
    | with_reducible refine Within.trans ?_ (Within.when (fun _ => ?_) _ _)

theorem writeRptr_within (w : Word) (s : State) :
    Within [⟨0x6014, 0, 1⟩, ⟨0x601C, 4, 2⟩] s (writeRptr w s) := by
  unfold writeRptr
  try dsimp only
  repeat' first
    | simp +decide (maxDischargeDepth := 8) only [Within.iff_of (setReg_within _ _ _ ), Within.iff_of (orReg_within _ _ _ ), *, Within.self, Within.mk_iff, Within.forEach_iff, Within.when_iff, Within.clear_iff, Within.ite_of, spansIn_idx, spansIn_wu, and_self, implies_true, id_eq, ne_eq, not_false_eq_true, reduceCtorEq]
    | split
    | with_reducible refine Within.trans ?_ (Within.forEach (fun _ _ => ?_) _ _)
    | with_reducible refine Within.trans ?_ (Within.when (fun _ => ?_) _ _)

theorem startTrace_within (s : State) :
    Within [⟨0x6014, 4, 5⟩] s (startTrace s) := by
  unfold startTrace
  try dsimp only
  repeat' first
    | simp +decide (maxDischargeDepth := 8) only [Within.iff_of (setReg_within _ _ _ ), Within.iff_of (orReg_within _ _ _ ), Within.iff_of (clrReg_within _ _ _ ), Within.iff_of (genTime_within _ _ _ ), Within.iff_of (dropJobs_within _ _ ), *, Within.self, Within.mk_iff, Within.forEach_iff, Within.when_iff, Within.clear_iff, Within.ite_of, spansIn_idx, spansIn_wu, and_self, implies_true, id_eq, ne_eq, not_false_eq_true, reduceCtorEq]
    | split
    | with_reducible refine Within.trans ?_ (Within.forEach (fun _ _ => ?_) _ _)
    | with_reducible refine Within.trans ?_ (Within.when (fun _ => ?_) _ _)

theorem writeTraceCtl_within (w : Word) (s : State) :
    Within [⟨0x6000, 0, 1⟩, ⟨0x6014, 4, 5⟩] s (writeTraceCtl w s) := by
  unfold writeTraceCtl
  try dsimp only
  repeat' first
    | simp +decide (maxDischargeDepth := 8) only [Within.iff_of (setReg_within _ _ _ ), Within.iff_of (orReg_within _ _ _ ), Within.iff_of (writeTrace_within _ _ ), Within.iff_of (startTrace_within _ ), *, Within.self, Within.mk_iff, Within.forEach_iff, Within.when_iff, Within.clear_iff, Within.ite_of, spansIn_idx, spansIn_wu, and_self, implies_true, id_eq, ne_eq, not_false_eq_true, reduceCtorEq]
    | split
    | with_reducible refine Within.trans ?_ (Within.forEach (fun _ _ => ?_) _ _)
    | with_reducible refine Within.trans ?_ (Within.when (fun _ => ?_) _ _)

theorem execTimeLowRead_within (a : BusAcc) (s : State) (s' : State) (h : execTimeLowRead a s = .next s') :
    Within [⟨0x4804, 4, 2⟩, ⟨0x57B8, 0x40, 8⟩, ⟨0x5980, 0, 1⟩, ⟨0x6014, 0, 1⟩, ⟨0x7000, 4, 2⟩, ⟨0x7018, 4, 3⟩] s s' := by
  unfold execTimeLowRead at h
  injection h with h
  subst h
  try dsimp only
  repeat' first
    | (with_reducible refine Within.trans ?_ (busRead_within _ _ _ _ (by decide) (fun _ => ?_)))
    | simp +decide (maxDischargeDepth := 8) only [*, Within.self, Within.mk_iff, Within.forEach_iff, Within.when_iff, Within.clear_iff, Within.ite_of, spansIn_idx, spansIn_wu, and_self, implies_true, id_eq, ne_eq, not_false_eq_true, reduceCtorEq]
    | split
    | with_reducible refine Within.trans ?_ (Within.forEach (fun _ _ => ?_) _ _)
    | with_reducible refine Within.trans ?_ (Within.when (fun _ => ?_) _ _)

theorem execBeacon_within (tb : BitVec 64) (s : State) (s' : State) (h : execBeacon tb s = .next s') :
    Within [⟨0x5A60, 0, 1⟩, ⟨0x6014, 0, 1⟩, ⟨0x604C, 4, 2⟩, ⟨0x7000, 4, 2⟩, ⟨0x7018, 4, 3⟩] s s' := by
  unfold execBeacon at h
  injection h with h
  subst h
  try dsimp only
  repeat' first
    | simp +decide (maxDischargeDepth := 8) only [Within.iff_of (setReg_within _ _ _ ), Within.iff_of (orReg_within _ _ _ ), Within.iff_of (clrReg_within _ _ _ ), Within.iff_of (bump_within _ _ _ ), Within.iff_of (genTime_within _ _ _ ), Within.iff_of (raise_within _ _ ), *, Within.self, Within.mk_iff, Within.forEach_iff, Within.when_iff, Within.clear_iff, Within.ite_of, spansIn_idx, spansIn_wu, and_self, implies_true, id_eq, ne_eq, not_false_eq_true, reduceCtorEq]
    | split
    | with_reducible refine Within.trans ?_ (Within.forEach (fun _ _ => ?_) _ _)
    | with_reducible refine Within.trans ?_ (Within.when (fun _ => ?_) _ _)

theorem execBeaconLoss_within (s : State) (s' : State) (h : execBeaconLoss s = .next s') :
    Within [⟨0x5A68, 0, 1⟩, ⟨0x6014, 0, 1⟩, ⟨0x604C, 0, 1⟩, ⟨0x7000, 4, 2⟩, ⟨0x7018, 4, 3⟩] s s' := by
  unfold execBeaconLoss at h
  injection h with h
  subst h
  try dsimp only
  repeat' first
    | simp +decide (maxDischargeDepth := 8) only [Within.iff_of (orReg_within _ _ _ ), Within.iff_of (bump_within _ _ _ ), Within.iff_of (genTime_within _ _ _ ), Within.iff_of (raise_within _ _ ), *, Within.self, Within.mk_iff, Within.forEach_iff, Within.when_iff, Within.clear_iff, Within.ite_of, spansIn_idx, spansIn_wu, and_self, implies_true, id_eq, ne_eq, not_false_eq_true, reduceCtorEq]
    | split
    | with_reducible refine Within.trans ?_ (Within.forEach (fun _ _ => ?_) _ _)
    | with_reducible refine Within.trans ?_ (Within.when (fun _ => ?_) _ _)

theorem execTclkStall_within (s : State) (s' : State) (h : execTclkStall s = .next s') :
    Within [⟨0x604C, 0, 1⟩] s s' := by
  unfold execTclkStall at h
  injection h with h
  subst h
  try dsimp only
  repeat' first
    | simp +decide (maxDischargeDepth := 8) only [Within.iff_of (orReg_within _ _ _ ), Within.iff_of (genTime_within _ _ _ ), *, Within.self, Within.mk_iff, Within.forEach_iff, Within.when_iff, Within.clear_iff, Within.ite_of, spansIn_idx, spansIn_wu, and_self, implies_true, id_eq, ne_eq, not_false_eq_true, reduceCtorEq]
    | split
    | with_reducible refine Within.trans ?_ (Within.forEach (fun _ _ => ?_) _ _)
    | with_reducible refine Within.trans ?_ (Within.when (fun _ => ?_) _ _)

theorem execTclkResume_within (s : State) (s' : State) (h : execTclkResume s = .next s') :
    Within [⟨0x604C, 0, 1⟩] s s' := by
  unfold execTclkResume at h
  injection h with h
  subst h
  try dsimp only
  repeat' first
    | simp +decide (maxDischargeDepth := 8) only [Within.iff_of (clrReg_within _ _ _ ), Within.iff_of (genTime_within _ _ _ ), *, Within.self, Within.mk_iff, Within.forEach_iff, Within.when_iff, Within.clear_iff, Within.ite_of, spansIn_idx, spansIn_wu, and_self, implies_true, id_eq, ne_eq, not_false_eq_true, reduceCtorEq]
    | split
    | with_reducible refine Within.trans ?_ (Within.forEach (fun _ _ => ?_) _ _)
    | with_reducible refine Within.trans ?_ (Within.when (fun _ => ?_) _ _)

theorem execTimeSync_within (s : State) (s' : State) (h : execTimeSync s = .next s') :
    Within [] s s' := Within.of_only (execTimeSync_only s s' h) (by decide)

theorem execCollect_within (s : State) (s' : State) (h : execCollect s = .next s') :
    Within [⟨0x5A48, 0, 1⟩, ⟨0x5A50, 0, 1⟩, ⟨0x5A58, 0, 1⟩, ⟨0x6014, 0, 1⟩, ⟨0x6024, 0, 1⟩, ⟨0x6A1C, 0x40, 4⟩, ⟨0x6A24, 0x40, 4⟩, ⟨0x7000, 4, 2⟩, ⟨0x7018, 4, 3⟩] s s' := by
  unfold execCollect at h
  injection h with h
  subst h
  try dsimp only
  repeat' first
    | simp +decide (maxDischargeDepth := 8) only [Within.iff_of (collectGo_within _ _ ), Within.iff_of (drainTrace_within _ _ ), *, Within.self, Within.mk_iff, Within.forEach_iff, Within.when_iff, Within.clear_iff, Within.ite_of, spansIn_idx, spansIn_wu, and_self, implies_true, id_eq, ne_eq, not_false_eq_true, reduceCtorEq]
    | (refine Within.snd (by assumption) (collectGo_within _ _ ) (by decide) ?_)
    | split
    | with_reducible refine Within.trans ?_ (Within.forEach (fun _ _ => ?_) _ _)
    | with_reducible refine Within.trans ?_ (Within.when (fun _ => ?_) _ _)

theorem execTraceRowWrite_within (s : State) (s' : State) (h : execTraceRowWrite s = .next s') :
    Within [] s s' := Within.of_only (execTraceRowWrite_only s s' h) (by decide)

theorem execTraceRowTimeout_within (s : State) (s' : State) (h : execTraceRowTimeout s = .next s') :
    Within [] s s' := Within.of_only (execTraceRowTimeout_only s s' h) (by decide)

theorem execTraceFreeze_within (s : State) (s' : State) (h : execTraceFreeze s = .next s') :
    Within [⟨0x6014, 0, 1⟩, ⟨0x7000, 4, 2⟩, ⟨0x7018, 4, 3⟩] s s' := by
  unfold execTraceFreeze at h
  injection h with h
  subst h
  try dsimp only
  repeat' first
    | simp +decide (maxDischargeDepth := 8) only [Within.iff_of (orReg_within _ _ _ ), Within.iff_of (raise_within _ _ ), *, Within.self, Within.mk_iff, Within.forEach_iff, Within.when_iff, Within.clear_iff, Within.ite_of, spansIn_idx, spansIn_wu, and_self, implies_true, id_eq, ne_eq, not_false_eq_true, reduceCtorEq]
    | split
    | with_reducible refine Within.trans ?_ (Within.forEach (fun _ _ => ?_) _ _)
    | with_reducible refine Within.trans ?_ (Within.when (fun _ => ?_) _ _)

theorem execTraceTrig_within (a : BusAcc) (s : State) (s' : State) (h : execTraceTrig a s = .next s') :
    Within [⟨0x4804, 4, 2⟩, ⟨0x57B8, 0x40, 8⟩, ⟨0x5980, 0, 1⟩, ⟨0x6014, 0, 1⟩, ⟨0x7000, 4, 2⟩, ⟨0x7018, 4, 3⟩] s s' := by
  unfold execTraceTrig at h
  injection h with h
  subst h
  try dsimp only
  repeat' first
    | (with_reducible refine Within.trans ?_ (busWrite_within _ _ _ _ (by decide) (fun _ => ?_)))
    | simp +decide (maxDischargeDepth := 8) only [Within.iff_of (traceTrigger_within _ _ _ ), *, Within.self, Within.mk_iff, Within.forEach_iff, Within.when_iff, Within.clear_iff, Within.ite_of, spansIn_idx, spansIn_wu, and_self, implies_true, id_eq, ne_eq, not_false_eq_true, reduceCtorEq]
    | split
    | with_reducible refine Within.trans ?_ (Within.forEach (fun _ _ => ?_) _ _)
    | with_reducible refine Within.trans ?_ (Within.when (fun _ => ?_) _ _)

theorem execTraceFlush_within (a : BusAcc) (s : State) (s' : State) (h : execTraceFlush a s = .next s') :
    Within [⟨0x4804, 4, 2⟩, ⟨0x57B8, 0x40, 8⟩, ⟨0x5980, 0, 1⟩, ⟨0x6014, 0, 1⟩, ⟨0x7000, 4, 2⟩, ⟨0x7018, 4, 3⟩] s s' := by
  unfold execTraceFlush at h
  injection h with h
  subst h
  try dsimp only
  repeat' first
    | (with_reducible refine Within.trans ?_ (busWrite_within _ _ _ _ (by decide) (fun _ => ?_)))
    | simp +decide (maxDischargeDepth := 8) only [Within.iff_of (writeTrace_within _ _ ), *, Within.self, Within.mk_iff, Within.forEach_iff, Within.when_iff, Within.clear_iff, Within.ite_of, spansIn_idx, spansIn_wu, and_self, implies_true, id_eq, ne_eq, not_false_eq_true, reduceCtorEq]
    | split
    | with_reducible refine Within.trans ?_ (Within.forEach (fun _ _ => ?_) _ _)
    | with_reducible refine Within.trans ?_ (Within.when (fun _ => ?_) _ _)

theorem execTraceRearm_within (a : BusAcc) (s : State) (s' : State) (h : execTraceRearm a s = .next s') :
    Within [⟨0x4804, 4, 2⟩, ⟨0x57B8, 0x40, 8⟩, ⟨0x5980, 0, 1⟩, ⟨0x6014, 0, 1⟩, ⟨0x7000, 4, 2⟩, ⟨0x7018, 4, 3⟩] s s' := by
  unfold execTraceRearm at h
  injection h with h
  subst h
  try dsimp only
  repeat' first
    | (with_reducible refine Within.trans ?_ (busWrite_within _ _ _ _ (by decide) (fun _ => ?_)))
    | simp +decide (maxDischargeDepth := 8) only [Within.iff_of (rearmTrace_within _ ), *, Within.self, Within.mk_iff, Within.forEach_iff, Within.when_iff, Within.clear_iff, Within.ite_of, spansIn_idx, spansIn_wu, and_self, implies_true, id_eq, ne_eq, not_false_eq_true, reduceCtorEq]
    | split
    | with_reducible refine Within.trans ?_ (Within.forEach (fun _ _ => ?_) _ _)
    | with_reducible refine Within.trans ?_ (Within.when (fun _ => ?_) _ _)

theorem execTraceSync_within (a : BusAcc) (s : State) (s' : State) (h : execTraceSync a s = .next s') :
    Within [⟨0x4804, 4, 2⟩, ⟨0x57B8, 0x40, 8⟩, ⟨0x5980, 0, 1⟩, ⟨0x6014, 0, 1⟩, ⟨0x7000, 4, 2⟩, ⟨0x7018, 4, 3⟩] s s' := by
  unfold execTraceSync at h
  injection h with h
  subst h
  try dsimp only
  repeat' first
    | (with_reducible refine Within.trans ?_ (busWrite_within _ _ _ _ (by decide) (fun _ => ?_)))
    | simp +decide (maxDischargeDepth := 8) only [Within.iff_of (genTime_within _ _ _ ), *, Within.self, Within.mk_iff, Within.forEach_iff, Within.when_iff, Within.clear_iff, Within.ite_of, spansIn_idx, spansIn_wu, and_self, implies_true, id_eq, ne_eq, not_false_eq_true, reduceCtorEq]
    | split
    | with_reducible refine Within.trans ?_ (Within.forEach (fun _ _ => ?_) _ _)
    | with_reducible refine Within.trans ?_ (Within.when (fun _ => ?_) _ _)

theorem execTraceRptrWrite_within (a : BusAcc) (w : Word) (s : State) (s' : State) (h : execTraceRptrWrite a w s = .next s') :
    Within [⟨0x4804, 4, 2⟩, ⟨0x57B8, 0x40, 8⟩, ⟨0x5980, 0, 1⟩, ⟨0x6014, 0, 1⟩, ⟨0x601C, 4, 2⟩, ⟨0x7000, 4, 2⟩, ⟨0x7018, 4, 3⟩] s s' := by
  unfold execTraceRptrWrite at h
  injection h with h
  subst h
  try dsimp only
  repeat' first
    | (with_reducible refine Within.trans ?_ (busWrite_within _ _ _ _ (by decide) (fun _ => ?_)))
    | simp +decide (maxDischargeDepth := 8) only [Within.iff_of (writeRptr_within _ _ ), *, Within.self, Within.mk_iff, Within.forEach_iff, Within.when_iff, Within.clear_iff, Within.ite_of, spansIn_idx, spansIn_wu, and_self, implies_true, id_eq, ne_eq, not_false_eq_true, reduceCtorEq]
    | split
    | with_reducible refine Within.trans ?_ (Within.forEach (fun _ _ => ?_) _ _)
    | with_reducible refine Within.trans ?_ (Within.when (fun _ => ?_) _ _)

theorem execTraceEnable_within (a : BusAcc) (w : Word) (s : State) (s' : State) (h : execTraceEnable a w s = .next s') :
    Within [⟨0x4804, 4, 2⟩, ⟨0x57B8, 0x40, 8⟩, ⟨0x5980, 0, 1⟩, ⟨0x6000, 0, 1⟩, ⟨0x6014, 4, 5⟩, ⟨0x7000, 4, 2⟩, ⟨0x7018, 4, 3⟩] s s' := by
  unfold execTraceEnable at h
  injection h with h
  subst h
  try dsimp only
  repeat' first
    | (with_reducible refine Within.trans ?_ (busWrite_within _ _ _ _ (by decide) (fun _ => ?_)))
    | simp +decide (maxDischargeDepth := 8) only [Within.iff_of (writeTraceCtl_within _ _ ), *, Within.self, Within.mk_iff, Within.forEach_iff, Within.when_iff, Within.clear_iff, Within.ite_of, spansIn_idx, spansIn_wu, and_self, implies_true, id_eq, ne_eq, not_false_eq_true, reduceCtorEq]
    | split
    | with_reducible refine Within.trans ?_ (Within.forEach (fun _ _ => ?_) _ _)
    | with_reducible refine Within.trans ?_ (Within.when (fun _ => ?_) _ _)

theorem execTraceDisable_within (a : BusAcc) (w : Word) (s : State) (s' : State) (h : execTraceDisable a w s = .next s') :
    Within [⟨0x4804, 4, 2⟩, ⟨0x57B8, 0x40, 8⟩, ⟨0x5980, 0, 1⟩, ⟨0x6000, 0, 1⟩, ⟨0x6014, 4, 5⟩, ⟨0x7000, 4, 2⟩, ⟨0x7018, 4, 3⟩] s s' := by
  unfold execTraceDisable at h
  injection h with h
  subst h
  try dsimp only
  repeat' first
    | (with_reducible refine Within.trans ?_ (busWrite_within _ _ _ _ (by decide) (fun _ => ?_)))
    | simp +decide (maxDischargeDepth := 8) only [Within.iff_of (writeTraceCtl_within _ _ ), *, Within.self, Within.mk_iff, Within.forEach_iff, Within.when_iff, Within.clear_iff, Within.ite_of, spansIn_idx, spansIn_wu, and_self, implies_true, id_eq, ne_eq, not_false_eq_true, reduceCtorEq]
    | split
    | with_reducible refine Within.trans ?_ (Within.forEach (fun _ _ => ?_) _ _)
    | with_reducible refine Within.trans ?_ (Within.when (fun _ => ?_) _ _)

theorem execEgressSlotTaken_within (s : State) (s' : State) (h : execEgressSlotTaken s = .next s') :
    Within [] s s' := Within.of_only (execEgressSlotTaken_only s s' h) (by decide)

theorem execTimeHoldEnd_within (s : State) (s' : State) (h : execTimeHoldEnd s = .next s') :
    Within [] s s' := Within.of_only (execTimeHoldEnd_only s s' h) (by decide)

end Sys2Proof.Machine
end

