-- ==== Sys2Proof/Laws/WithinWatch.lean ====
section
/-!
SUPPORT. Laws/WithinWatch.lean: the registers and counters that the operations and commands of Machine/Watch.lean may change (generated
text, one lemma for each).
-/
namespace Sys2Proof.Machine

set_option linter.unusedSimpArgs false
set_option linter.tactic.unusedName false

theorem setWatch_within (u : Nat) (w : Watch) (s : State) :
    Within [] s (setWatch u w s) := Within.of_only (setWatch_only u w s) (by decide)

theorem clearWatch_within (u : Nat) (s : State) :
    Within [] s (clearWatch u s) := Within.of_only (clearWatch_only u s) (by decide)

theorem disarm_within (u : Nat) (s : State) :
    Within [⟨0x6A1C, 0x40, 4⟩] s (disarm u s) := by
  unfold disarm
  try dsimp only
  repeat' first
    | simp +decide (maxDischargeDepth := 8) only [Within.iff_of (setRegF_within _ _ _ _ _ ), Within.iff_of (clearWatch_within _ _ ), *, Within.self, Within.mk_iff, Within.forEach_iff, Within.when_iff, Within.clear_iff, Within.ite_of, spansIn_idx, spansIn_wu, and_self, implies_true, id_eq, ne_eq, not_false_eq_true, reduceCtorEq]
    | split
    | with_reducible refine Within.trans ?_ (Within.forEach (fun _ _ => ?_) _ _)
    | with_reducible refine Within.trans ?_ (Within.when (fun _ => ?_) _ _)

theorem writeWuCfg_within (u : Nat) (w : Word) (s : State) :
    Within [⟨0x6A00, 0x40, 4⟩, ⟨0x6A1C, 0x40, 4⟩, ⟨0x6A20, 0x40, 4⟩, ⟨0x6A24, 0x40, 4⟩] s (writeWuCfg u w s) := by
  unfold writeWuCfg
  try dsimp only
  repeat' first
    | simp +decide (maxDischargeDepth := 8) only [Within.iff_of (setReg_within _ _ _ ), Within.iff_of (orReg_within _ _ _ ), Within.iff_of (clearWatch_within _ _ ), Within.iff_of (disarm_within _ _ ), *, Within.self, Within.mk_iff, Within.forEach_iff, Within.when_iff, Within.clear_iff, Within.ite_of, spansIn_idx, spansIn_wu, and_self, implies_true, id_eq, ne_eq, not_false_eq_true, reduceCtorEq]
    | split
    | with_reducible refine Within.trans ?_ (Within.forEach (fun _ _ => ?_) _ _)
    | with_reducible refine Within.trans ?_ (Within.when (fun _ => ?_) _ _)

theorem writeWuOwn_within (w : Word) (s : State) :
    Within [⟨0x6A1C, 0x40, 4⟩, ⟨0x6B00, 0, 1⟩] s (writeWuOwn w s) := by
  unfold writeWuOwn
  try dsimp only
  repeat' first
    | simp +decide (maxDischargeDepth := 8) only [Within.iff_of (setRegF_within _ _ _ _ _ ), Within.iff_of (orReg_within _ _ _ ), *, Within.self, Within.mk_iff, Within.forEach_iff, Within.when_iff, Within.clear_iff, Within.ite_of, spansIn_idx, spansIn_wu, and_self, implies_true, id_eq, ne_eq, not_false_eq_true, reduceCtorEq]
    | split
    | with_reducible refine Within.trans ?_ (Within.forEach (fun _ _ => ?_) _ _)
    | with_reducible refine Within.trans ?_ (Within.when (fun _ => ?_) _ _)

theorem watchRelock_within (s : State) :
    Within [⟨0x6A1C, 0x40, 4⟩] s (watchRelock s) := by
  unfold watchRelock
  try dsimp only
  repeat' first
    | simp +decide (maxDischargeDepth := 8) only [Within.iff_of (disarm_within _ _ ), *, Within.self, Within.mk_iff, Within.forEach_iff, Within.when_iff, Within.clear_iff, Within.ite_of, spansIn_idx, spansIn_wu, and_self, implies_true, id_eq, ne_eq, not_false_eq_true, reduceCtorEq]
    | split
    | with_reducible refine Within.trans ?_ (Within.forEach (fun _ _ => ?_) _ _)
    | with_reducible refine Within.trans ?_ (Within.when (fun _ => ?_) _ _)

theorem watchMatch_within (x : WatchSlip) (s : State) :
    Within [⟨0x6014, 0, 1⟩, ⟨0x6A1C, 0x40, 4⟩, ⟨0x7000, 4, 2⟩, ⟨0x7018, 4, 3⟩] s (watchMatch x s) := by
  unfold watchMatch
  try dsimp only
  repeat' first
    | simp +decide (maxDischargeDepth := 8) only [Within.iff_of (setReg_within _ _ _ ), Within.iff_of (raise_within _ _ ), Within.iff_of (setWatch_within _ _ _ ), *, Within.self, Within.mk_iff, Within.forEach_iff, Within.when_iff, Within.clear_iff, Within.ite_of, spansIn_idx, spansIn_wu, and_self, implies_true, id_eq, ne_eq, not_false_eq_true, reduceCtorEq]
    | split
    | with_reducible refine Within.trans ?_ (Within.forEach (fun _ _ => ?_) _ _)
    | with_reducible refine Within.trans ?_ (Within.when (fun _ => ?_) _ _)

theorem endCapture_within (u : Nat) (s : State) :
    Within [⟨0x6808, 0, 1⟩, ⟨0x6A1C, 0x40, 4⟩] s (endCapture u s) := by
  unfold endCapture
  try dsimp only
  repeat' first
    | simp +decide (maxDischargeDepth := 8) only [Within.iff_of (setRegF_within _ _ _ _ _ ), Within.iff_of (orReg_within _ _ _ ), Within.iff_of (setWatch_within _ _ _ ), *, Within.self, Within.mk_iff, Within.forEach_iff, Within.when_iff, Within.clear_iff, Within.ite_of, spansIn_idx, spansIn_wu, and_self, implies_true, id_eq, ne_eq, not_false_eq_true, reduceCtorEq]
    | split
    | with_reducible refine Within.trans ?_ (Within.forEach (fun _ _ => ?_) _ _)
    | with_reducible refine Within.trans ?_ (Within.when (fun _ => ?_) _ _)

theorem dumpFlit_within (u n : Nat) (data : Row) (pois : Mask4) (s : State) :
    Within [⟨0x6014, 0, 1⟩, ⟨0x6A1C, 0x40, 4⟩, ⟨0x6A24, 0x40, 4⟩, ⟨0x7000, 4, 2⟩, ⟨0x7018, 4, 3⟩] s (dumpFlit u n data pois s) := by
  unfold dumpFlit
  try dsimp only
  repeat' first
    | simp +decide (maxDischargeDepth := 8) only [Within.iff_of (orReg_within _ _ _ ), Within.iff_of (raise_within _ _ ), Within.iff_of (watchLost_within _ _ ), Within.iff_of (setWatch_within _ _ _ ), *, Within.self, Within.mk_iff, Within.forEach_iff, Within.when_iff, Within.clear_iff, Within.ite_of, spansIn_idx, spansIn_wu, and_self, implies_true, id_eq, ne_eq, not_false_eq_true, reduceCtorEq]
    | split
    | with_reducible refine Within.trans ?_ (Within.forEach (fun _ _ => ?_) _ _)
    | with_reducible refine Within.trans ?_ (Within.when (fun _ => ?_) _ _)

theorem tapFlit_within (u : Nat) (x : WatchSlip) (seq fmt : Nat) (last : Bool) (data : Row) (pois : Mask4) (s : State) :
    Within [⟨0x6014, 0, 1⟩, ⟨0x6808, 0, 1⟩, ⟨0x6A1C, 0x40, 4⟩, ⟨0x6A20, 0x40, 4⟩, ⟨0x6A24, 0x40, 4⟩, ⟨0x7000, 4, 2⟩, ⟨0x7018, 4, 3⟩] s (tapFlit u x seq fmt last data pois s) := by
  unfold tapFlit
  try dsimp only
  repeat' first
    | simp +decide (maxDischargeDepth := 8) only [Within.iff_of (setReg_within _ _ _ ), Within.iff_of (genRec_within _ _ _ ), Within.iff_of (endCapture_within _ _ ), Within.iff_of (dumpFlit_within _ _ _ _ _ ), *, Within.self, Within.mk_iff, Within.forEach_iff, Within.when_iff, Within.clear_iff, Within.ite_of, spansIn_idx, spansIn_wu, and_self, implies_true, id_eq, ne_eq, not_false_eq_true, reduceCtorEq]
    | split
    | with_reducible refine Within.trans ?_ (Within.forEach (fun _ _ => ?_) _ _)
    | with_reducible refine Within.trans ?_ (Within.when (fun _ => ?_) _ _)

theorem watchRead_within (x : WatchSlip) (lane seq fmt : Nat) (last : Bool) (data : Row) (pois : Mask4) (s : State) :
    Within [⟨0x6014, 0, 1⟩, ⟨0x6808, 0, 1⟩, ⟨0x6A1C, 0x40, 4⟩, ⟨0x6A20, 0x40, 4⟩, ⟨0x6A24, 0x40, 4⟩, ⟨0x7000, 4, 2⟩, ⟨0x7018, 4, 3⟩] s (watchRead x lane seq fmt last data pois s) := by
  unfold watchRead
  try dsimp only
  repeat' first
    | simp +decide (maxDischargeDepth := 8) only [Within.iff_of (tapFlit_within _ _ _ _ _ _ _ _ ), *, Within.self, Within.mk_iff, Within.forEach_iff, Within.when_iff, Within.clear_iff, Within.ite_of, spansIn_idx, spansIn_wu, and_self, implies_true, id_eq, ne_eq, not_false_eq_true, reduceCtorEq]
    | split
    | with_reducible refine Within.trans ?_ (Within.forEach (fun _ _ => ?_) _ _)
    | with_reducible refine Within.trans ?_ (Within.when (fun _ => ?_) _ _)

theorem watchStore_within (x : WatchSlip) (seq fmt : Nat) (last : Bool) (data : Row) (pois en : Mask4) (s : State) :
    Within [⟨0x6014, 0, 1⟩, ⟨0x6808, 0, 1⟩, ⟨0x6A1C, 0x40, 4⟩, ⟨0x6A20, 0x40, 4⟩, ⟨0x6A24, 0x40, 4⟩, ⟨0x7000, 4, 2⟩, ⟨0x7018, 4, 3⟩] s (watchStore x seq fmt last data pois en s) := by
  unfold watchStore
  try dsimp only
  repeat' first
    | simp +decide (maxDischargeDepth := 8) only [Within.iff_of (tapFlit_within _ _ _ _ _ _ _ _ ), *, Within.self, Within.mk_iff, Within.forEach_iff, Within.when_iff, Within.clear_iff, Within.ite_of, spansIn_idx, spansIn_wu, and_self, implies_true, id_eq, ne_eq, not_false_eq_true, reduceCtorEq]
    | split
    | with_reducible refine Within.trans ?_ (Within.forEach (fun _ _ => ?_) _ _)
    | with_reducible refine Within.trans ?_ (Within.when (fun _ => ?_) _ _)

theorem watchRelease_within (sid : Nat) (s : State) :
    Within [⟨0x6808, 0, 1⟩, ⟨0x6A1C, 0x40, 4⟩] s (watchRelease sid s) := by
  unfold watchRelease
  try dsimp only
  repeat' first
    | simp +decide (maxDischargeDepth := 8) only [Within.iff_of (endCapture_within _ _ ), *, Within.self, Within.mk_iff, Within.forEach_iff, Within.when_iff, Within.clear_iff, Within.ite_of, spansIn_idx, spansIn_wu, and_self, implies_true, id_eq, ne_eq, not_false_eq_true, reduceCtorEq]
    | split
    | with_reducible refine Within.trans ?_ (Within.forEach (fun _ _ => ?_) _ _)
    | with_reducible refine Within.trans ?_ (Within.when (fun _ => ?_) _ _)

theorem askDump_within (s : State) :
    Within [] s (askDump s) := Within.of_only (askDump_only s) (by decide)

theorem dumped_within (u : Nat) (failed : Bool) (s : State) :
    Within [⟨0x6014, 0, 1⟩, ⟨0x6A1C, 0x40, 4⟩, ⟨0x7000, 4, 2⟩, ⟨0x7018, 4, 3⟩] s (dumped u failed s) := by
  unfold dumped
  try dsimp only
  repeat' first
    | simp +decide (maxDischargeDepth := 8) only [Within.iff_of (orReg_within _ _ _ ), Within.iff_of (raise_within _ _ ), Within.iff_of (setWatch_within _ _ _ ), Within.iff_of (clearWatch_within _ _ ), *, Within.self, Within.mk_iff, Within.forEach_iff, Within.when_iff, Within.clear_iff, Within.ite_of, spansIn_idx, spansIn_wu, and_self, implies_true, id_eq, ne_eq, not_false_eq_true, reduceCtorEq]
    | split
    | with_reducible refine Within.trans ?_ (Within.forEach (fun _ _ => ?_) _ _)
    | with_reducible refine Within.trans ?_ (Within.when (fun _ => ?_) _ _)

theorem writeRdaddr_within (l : Nat) (w : Word) (s : State) :
    Within [⟨0x6B10, 4, 2⟩] s (writeRdaddr l w s) := by
  unfold writeRdaddr
  try dsimp only
  repeat' first
    | simp +decide (maxDischargeDepth := 8) only [Within.iff_of (setReg_within _ _ _ ), Within.iff_of (setRegF_within _ _ _ _ _ ), Within.iff_of (orReg_within _ _ _ ), Within.iff_of (addTr_within _ _ ), *, Within.self, Within.mk_iff, Within.forEach_iff, Within.when_iff, Within.clear_iff, Within.ite_of, spansIn_idx, spansIn_wu, and_self, implies_true, id_eq, ne_eq, not_false_eq_true, reduceCtorEq]
    | split
    | with_reducible refine Within.trans ?_ (Within.forEach (fun _ _ => ?_) _ _)
    | with_reducible refine Within.trans ?_ (Within.when (fun _ => ?_) _ _)

theorem setRegs_within (o : Nat) (l : List Nat) (n : Nat) (hn : l.length ≤ n) (s : State) :
    Within [⟨o, 4, n⟩] s (setRegs o l s) := by
  induction l generalizing o s n with
  | nil => exact Within.refl _ _
  | cons w ws ih =>
    obtain _ | n := n
    · simp at hn
    · have h1 : spansIn [⟨o, 0, 1⟩] [⟨o, 4, n + 1⟩] = true := by
        simp [spansIn, Span.inside, Nat.ble_self_eq_true, Nat.ble_eq.mpr (Nat.le_add_right o _)]
      have h2 : spansIn [⟨o + 4, 4, n⟩] [⟨o, 4, n + 1⟩] = true ∨ n = 0 := by
        obtain _ | n := n
        · exact .inr rfl
        · refine .inl ?_
          simp only [spansIn, Span.inside, List.all_cons, List.all_nil, List.any_cons, List.any_nil, Bool.and_true, Bool.or_false,
            Bool.and_eq_true, Nat.ble_eq, Nat.beq_eq, Nat.add_sub_cancel_left, Nat.add_sub_cancel]
          exact ⟨⟨⟨by omega, by omega⟩, trivial⟩, trivial⟩
      obtain h2 | rfl := h2
      · exact Within.step (ih (o + 4) n (by simpa using hn) _) h2 ((setReg_within o _ s).mono h1)
      · obtain rfl : ws = [] := List.eq_nil_of_length_eq_zero (by simpa using hn)
        exact (setReg_within o _ s).mono h1

theorem setRowRegs_within (o : Nat) (d : Row) (s : State) : Within [⟨o, 4, 32⟩] s (setRowRegs o d s) :=
  setRegs_within o _ 32 (by simp [wordsOf]) s

theorem dropTr_within (id : Nat) (s : State) :
    Within [] s (dropTr id s) := Within.of_only (dropTr_only id s) (by decide)

theorem finishReadout_within (r : Row × Mask4) (s : State) :
    Within [⟨0x6B14, 0, 1⟩, ⟨0x6B80, 4, 32⟩] s (finishReadout r s) := by
  unfold finishReadout
  try dsimp only
  repeat' first
    | simp +decide (maxDischargeDepth := 8) only [Within.iff_of (setRegF_within _ _ _ _ _ ), Within.iff_of (setRowRegs_within _ _ _ ), *, Within.self, Within.mk_iff, Within.forEach_iff, Within.when_iff, Within.clear_iff, Within.ite_of, spansIn_idx, spansIn_wu, and_self, implies_true, id_eq, ne_eq, not_false_eq_true, reduceCtorEq]
    | split
    | with_reducible refine Within.trans ?_ (Within.forEach (fun _ _ => ?_) _ _)
    | with_reducible refine Within.trans ?_ (Within.when (fun _ => ?_) _ _)

theorem execWatchArm_within (a : BusAcc) (u : BitVec 2) (w : Word) (s : State) (s' : State) (h : execWatchArm a u w s = .next s') :
    Within [⟨0x4804, 4, 2⟩, ⟨0x57B8, 0x40, 8⟩, ⟨0x5980, 0, 1⟩, ⟨0x6014, 0, 1⟩, ⟨0x6A00, 0x40, 4⟩, ⟨0x6A1C, 0x40, 4⟩, ⟨0x6A20, 0x40, 4⟩, ⟨0x6A24, 0x40, 4⟩, ⟨0x7000, 4, 2⟩, ⟨0x7018, 4, 3⟩] s s' := by
  unfold execWatchArm at h
  injection h with h
  subst h
  try dsimp only
  repeat' first
    | (with_reducible refine Within.trans ?_ (busWrite_within _ _ _ _ (by decide) (fun _ => ?_)))
    | simp +decide (maxDischargeDepth := 8) only [Within.iff_of (writeWuCfg_within _ _ _ ), *, Within.self, Within.mk_iff, Within.forEach_iff, Within.when_iff, Within.clear_iff, Within.ite_of, spansIn_idx, spansIn_wu, and_self, implies_true, id_eq, ne_eq, not_false_eq_true, reduceCtorEq]
    | split
    | with_reducible refine Within.trans ?_ (Within.forEach (fun _ _ => ?_) _ _)
    | with_reducible refine Within.trans ?_ (Within.when (fun _ => ?_) _ _)

theorem execWatchDisarm_within (a : BusAcc) (u : BitVec 2) (w : Word) (s : State) (s' : State) (h : execWatchDisarm a u w s = .next s') :
    Within [⟨0x4804, 4, 2⟩, ⟨0x57B8, 0x40, 8⟩, ⟨0x5980, 0, 1⟩, ⟨0x6014, 0, 1⟩, ⟨0x6A00, 0x40, 4⟩, ⟨0x6A1C, 0x40, 4⟩, ⟨0x6A20, 0x40, 4⟩, ⟨0x6A24, 0x40, 4⟩, ⟨0x7000, 4, 2⟩, ⟨0x7018, 4, 3⟩] s s' := by
  unfold execWatchDisarm at h
  injection h with h
  subst h
  try dsimp only
  repeat' first
    | (with_reducible refine Within.trans ?_ (busWrite_within _ _ _ _ (by decide) (fun _ => ?_)))
    | simp +decide (maxDischargeDepth := 8) only [Within.iff_of (writeWuCfg_within _ _ _ ), *, Within.self, Within.mk_iff, Within.forEach_iff, Within.when_iff, Within.clear_iff, Within.ite_of, spansIn_idx, spansIn_wu, and_self, implies_true, id_eq, ne_eq, not_false_eq_true, reduceCtorEq]
    | split
    | with_reducible refine Within.trans ?_ (Within.forEach (fun _ _ => ?_) _ _)
    | with_reducible refine Within.trans ?_ (Within.when (fun _ => ?_) _ _)

theorem execWatchReadout_within (a : BusAcc) (w : Word) (s : State) (s' : State) (h : execWatchReadout a w s = .next s') :
    Within [⟨0x4804, 4, 2⟩, ⟨0x57B8, 0x40, 8⟩, ⟨0x5980, 0, 1⟩, ⟨0x6014, 0, 1⟩, ⟨0x6B10, 4, 2⟩, ⟨0x7000, 4, 2⟩, ⟨0x7018, 4, 3⟩] s s' := by
  unfold execWatchReadout at h
  injection h with h
  subst h
  try dsimp only
  repeat' first
    | (with_reducible refine Within.trans ?_ (busWrite_within _ _ _ _ (by decide) (fun _ => ?_)))
    | simp +decide (maxDischargeDepth := 8) only [Within.iff_of (writeRdaddr_within _ _ _ ), *, Within.self, Within.mk_iff, Within.forEach_iff, Within.when_iff, Within.clear_iff, Within.ite_of, spansIn_idx, spansIn_wu, and_self, implies_true, id_eq, ne_eq, not_false_eq_true, reduceCtorEq]
    | split
    | with_reducible refine Within.trans ?_ (Within.forEach (fun _ _ => ?_) _ _)
    | with_reducible refine Within.trans ?_ (Within.when (fun _ => ?_) _ _)

theorem execWatchReadoutDone_within (s : State) (s' : State) (h : execWatchReadoutDone s = .next s') :
    Within [⟨0x6B14, 0, 1⟩, ⟨0x6B80, 4, 32⟩] s s' := by
  unfold execWatchReadoutDone at h
  injection h with h
  subst h
  try dsimp only
  repeat' first
    | simp +decide (maxDischargeDepth := 8) only [Within.iff_of (dropTr_within _ _ ), Within.iff_of (finishReadout_within _ _ ), *, Within.self, Within.mk_iff, Within.forEach_iff, Within.when_iff, Within.clear_iff, Within.ite_of, spansIn_idx, spansIn_wu, and_self, implies_true, id_eq, ne_eq, not_false_eq_true, reduceCtorEq]
    | split
    | with_reducible refine Within.trans ?_ (Within.forEach (fun _ _ => ?_) _ _)
    | with_reducible refine Within.trans ?_ (Within.when (fun _ => ?_) _ _)

end Sys2Proof.Machine
end

