-- ==== Sys2Proof/Laws/WithinFlags.lean ====
section
/-!
SUPPORT. Laws/WithinFlags.lean: the registers and counters that the operations and commands of Machine/Flags.lean may change (generated
text, one lemma for each).
-/
namespace Sys2Proof.Machine

set_option linter.unusedSimpArgs false
set_option linter.tactic.unusedName false

theorem raiseCvt_within (x : Slip) (f : Nat) (s : State) :
    Within [⟨0x1A00, 4, 8⟩] s (raiseCvt x f s) := by
  unfold raiseCvt
  try dsimp only
  repeat' first
    | simp +decide (maxDischargeDepth := 8) only [Within.iff_of (orReg_within _ _ _ ), Within.iff_of (updSlip_within _ _ _ ), *, Within.self, Within.mk_iff, Within.forEach_iff, Within.when_iff, Within.clear_iff, Within.ite_of, spansIn_idx, spansIn_wu, and_self, implies_true, id_eq, ne_eq, not_false_eq_true, reduceCtorEq]
    | split
    | with_reducible refine Within.trans ?_ (Within.forEach (fun _ _ => ?_) _ _)
    | with_reducible refine Within.trans ?_ (Within.when (fun _ => ?_) _ _)

theorem raiseBlend_within (x : Slip) (f : Nat) (s : State) :
    Within [⟨0x2040, 4, 8⟩] s (raiseBlend x f s) := by
  unfold raiseBlend
  try dsimp only
  repeat' first
    | simp +decide (maxDischargeDepth := 8) only [Within.iff_of (orReg_within _ _ _ ), Within.iff_of (updSlip_within _ _ _ ), *, Within.self, Within.mk_iff, Within.forEach_iff, Within.when_iff, Within.clear_iff, Within.ite_of, spansIn_idx, spansIn_wu, and_self, implies_true, id_eq, ne_eq, not_false_eq_true, reduceCtorEq]
    | split
    | with_reducible refine Within.trans ?_ (Within.forEach (fun _ _ => ?_) _ _)
    | with_reducible refine Within.trans ?_ (Within.when (fun _ => ?_) _ _)

theorem setQueue_within (q : Nat) (x : SlipQ) (s : State) :
    Within [] s (setQueue q x s) := Within.of_only (setQueue_only q x s) (by decide)

theorem updQueue_within (q : Nat) (f : SlipQ → SlipQ) (s : State) :
    Within [] s (updQueue q f s) := Within.of_only (updQueue_only q f s) (by decide)

theorem progress_within (q : Nat) (s : State) :
    Within [] s (progress q s) := Within.of_only (progress_only q s) (by decide)

theorem slipRaise_within (sid kind : Nat) (s : State) :
    Within [⟨0x6014, 0, 1⟩, ⟨0x7000, 4, 2⟩, ⟨0x7018, 4, 3⟩] s (slipRaise sid kind s) := by
  unfold slipRaise
  try dsimp only
  repeat' first
    | simp +decide (maxDischargeDepth := 8) only [Within.iff_of (raise_within _ _ ), Within.iff_of (updSlip_within _ _ _ ), *, Within.self, Within.mk_iff, Within.forEach_iff, Within.when_iff, Within.clear_iff, Within.ite_of, spansIn_idx, spansIn_wu, and_self, implies_true, id_eq, ne_eq, not_false_eq_true, reduceCtorEq]
    | split
    | with_reducible refine Within.trans ?_ (Within.forEach (fun _ _ => ?_) _ _)
    | with_reducible refine Within.trans ?_ (Within.when (fun _ => ?_) _ _)

theorem slipFault_within (x : Slip) (kind v : Nat) (off : Int) (store : Bool) (s : State) :
    Within [⟨0x1300, 4, 2⟩, ⟨0x5780, 0x40, 8⟩, ⟨0x5788, 0x40, 8⟩, ⟨0x6014, 0, 1⟩, ⟨0x7000, 4, 2⟩, ⟨0x7018, 4, 3⟩] s (slipFault x kind v off store s) := by
  unfold slipFault
  try dsimp only
  repeat' first
    | simp +decide (maxDischargeDepth := 8) only [Within.iff_of (faultRow_within _ _ _ _ _ _ _ _ ), Within.iff_of (slipRaise_within _ _ _ ), *, Within.self, Within.mk_iff, Within.forEach_iff, Within.when_iff, Within.clear_iff, Within.ite_of, spansIn_idx, spansIn_wu, and_self, implies_true, id_eq, ne_eq, not_false_eq_true, reduceCtorEq]
    | split
    | with_reducible refine Within.trans ?_ (Within.forEach (fun _ _ => ?_) _ _)
    | with_reducible refine Within.trans ?_ (Within.when (fun _ => ?_) _ _)

theorem countBeat_within (lb cls : Nat) (ctx : Option Nat) (s : State) :
    Within [⟨0x57A8, 0x40, 8⟩] s (countBeat lb cls ctx s) := by
  unfold countBeat
  try dsimp only
  repeat' first
    | simp +decide (maxDischargeDepth := 8) only [Within.iff_of (bump_within _ _ _ ), Within.iff_of (xbump_within _ _ _ ), *, Within.self, Within.mk_iff, Within.forEach_iff, Within.when_iff, Within.clear_iff, Within.ite_of, spansIn_idx, spansIn_wu, and_self, implies_true, id_eq, ne_eq, not_false_eq_true, reduceCtorEq]
    | split
    | with_reducible refine Within.trans ?_ (Within.forEach (fun _ _ => ?_) _ _)
    | with_reducible refine Within.trans ?_ (Within.when (fun _ => ?_) _ _)

theorem markPlane_within (c : Crossing) (p : Parity) (s : State) :
    Within [] s (markPlane c p s) := Within.of_only (markPlane_only c p s) (by decide)

theorem netParity_within (write : Bool) (p : Parity) (src dst : Nat) (s : State) :
    Within [⟨0x1810, 4, 2⟩, ⟨0x59C0, 0, 1⟩, ⟨0x59C8, 0, 1⟩, ⟨0x6014, 0, 1⟩, ⟨0x7000, 4, 2⟩, ⟨0x7018, 4, 3⟩] s (netParity write p src dst s) := by
  unfold netParity
  try dsimp only
  repeat' first
    | simp +decide (maxDischargeDepth := 8) only [Within.iff_of (bump_within _ _ _ ), Within.iff_of (raise_within _ _ ), Within.iff_of (fillLog_within _ _ _ _ ), Within.iff_of (fwdParity_within _ _ _ ), *, Within.self, Within.mk_iff, Within.forEach_iff, Within.when_iff, Within.clear_iff, Within.ite_of, spansIn_idx, spansIn_wu, and_self, implies_true, id_eq, ne_eq, not_false_eq_true, reduceCtorEq]
    | split
    | with_reducible refine Within.trans ?_ (Within.forEach (fun _ _ => ?_) _ _)
    | with_reducible refine Within.trans ?_ (Within.when (fun _ => ?_) _ _)

theorem blendParity_within (c : Nat) (s : State) :
    Within [⟨0x5A00, 8, 9⟩, ⟨0x6014, 0, 1⟩, ⟨0x7000, 4, 2⟩, ⟨0x7018, 4, 3⟩] s (blendParity c s) := by
  unfold blendParity
  try dsimp only
  repeat' first
    | simp +decide (maxDischargeDepth := 8) only [Within.iff_of (bump_within _ _ _ ), Within.iff_of (raise_within _ _ ), Within.iff_of (fwdParity_within _ _ _ ), *, Within.self, Within.mk_iff, Within.forEach_iff, Within.when_iff, Within.clear_iff, Within.ite_of, spansIn_idx, spansIn_wu, and_self, implies_true, id_eq, ne_eq, not_false_eq_true, reduceCtorEq]
    | split
    | with_reducible refine Within.trans ?_ (Within.forEach (fun _ _ => ?_) _ _)
    | with_reducible refine Within.trans ?_ (Within.when (fun _ => ?_) _ _)

theorem sbegin_within (x : Slip) (s : State) :
    Within [] s (sbegin x s) := Within.of_only (sbegin_only x s) (by decide)

theorem maybeSend_within (sid : Nat) (s : State) :
    Within [] s (maybeSend sid s) := Within.of_only (maybeSend_only sid s) (by decide)

end Sys2Proof.Machine
end

