-- ==== Sys2Proof/Laws/WithinDeliver.lean ====
section
/-!
SUPPORT. Laws/WithinDeliver.lean: the registers and counters that the operations and commands of Machine/Deliver.lean may change (generated
text, one lemma for each).
-/
namespace Sys2Proof.Machine

set_option linter.unusedSimpArgs false
set_option linter.tactic.unusedName false

theorem freeSlots_within (sid l : Nat) (s : State) :
    Within [] s (freeSlots sid l s) := Within.of_only (freeSlots_only sid l s) (by decide)

theorem land_within (l : Nat) (f : OutFlit) (s : State) :
    Within [] s (land l f s) := Within.of_only (land_only l f s) (by decide)

theorem stageMove_within (x : Slip) (last : Bool) (d : DFlit) (s : State) :
    Within [] s (stageMove x last d s) := Within.of_only (stageMove_only x last d s) (by decide)

theorem emitFlit_within (sid l : Nat) (blpar : Mask4) (d : DFlit) (s : State) :
    Within [⟨0x2040, 4, 8⟩, ⟨0x5A00, 8, 9⟩, ⟨0x6014, 0, 1⟩, ⟨0x6808, 0, 1⟩, ⟨0x6A1C, 0x40, 4⟩, ⟨0x6A20, 0x40, 4⟩, ⟨0x6A24, 0x40, 4⟩, ⟨0x7000, 4, 2⟩, ⟨0x7018, 4, 3⟩] s (emitFlit sid l blpar d s) := by
  unfold emitFlit
  try dsimp only
  repeat' first
    | simp +decide (maxDischargeDepth := 8) only [Within.iff_of (estimate_within _ _ _ ), Within.iff_of (updSlip_within _ _ _ ), Within.iff_of (watchRead_within _ _ _ _ _ _ _ _ ), Within.iff_of (raiseBlend_within _ _ _ ), Within.iff_of (blendParity_within _ _ ), Within.iff_of (freeSlots_within _ _ _ ), Within.iff_of (land_within _ _ _ ), Within.iff_of (stageMove_within _ _ _ _ ), *, Within.self, Within.mk_iff, Within.forEach_iff, Within.when_iff, Within.clear_iff, Within.ite_of, spansIn_idx, spansIn_wu, and_self, implies_true, id_eq, ne_eq, not_false_eq_true, reduceCtorEq]
    | split
    | with_reducible refine Within.trans ?_ (Within.forEach (fun _ _ => ?_) _ _)
    | with_reducible refine Within.trans ?_ (Within.when (fun _ => ?_) _ _)

theorem discardFlit_within (x : Slip) (l : Nat) (s : State) :
    Within [] s (discardFlit x l s) := Within.of_only (discardFlit_only x l s) (by decide)

theorem passSlip_within (x : Slip) (l : Nat) (f : Row × Mask4) (s : State) (t : State) (h : passSlip x l f s = some t) : Within [⟨0x1A00, 4, 8⟩] s t := by
  unfold passSlip at h
  dsimp only at h
  repeat' (split at h)
  all_goals first
    | (cases h; done)
    | (injection h with h
       subst h
       repeat' first
         | simp +decide (maxDischargeDepth := 8) only [Within.iff_of (estimate_within _ _ _ ), Within.iff_of (updSlip_within _ _ _ ), Within.iff_of (updRlane_within _ _ _ ), Within.iff_of (raiseCvt_within _ _ _ ), Within.iff_of (discardFlit_within _ _ _ ), *, Within.self, Within.mk_iff, Within.forEach_iff, Within.when_iff, Within.clear_iff, Within.ite_of, spansIn_idx, spansIn_wu, and_self, implies_true, id_eq, ne_eq, not_false_eq_true, reduceCtorEq]
         | split
       done)

theorem emitNext_within (l : Nat) (blpar : Mask4) (s : State) (t : State) (h : emitNext l blpar s = some t) : Within [⟨0x2040, 4, 8⟩, ⟨0x5A00, 8, 9⟩, ⟨0x6014, 0, 1⟩, ⟨0x6808, 0, 1⟩, ⟨0x6A1C, 0x40, 4⟩, ⟨0x6A20, 0x40, 4⟩, ⟨0x6A24, 0x40, 4⟩, ⟨0x7000, 4, 2⟩, ⟨0x7018, 4, 3⟩] s t := by
  unfold emitNext at h
  dsimp only at h
  repeat' (split at h)
  all_goals first
    | (cases h; done)
    | (injection h with h
       subst h
       repeat' first
         | simp +decide (maxDischargeDepth := 8) only [Within.iff_of (updSlip_within _ _ _ ), Within.iff_of (updRlane_within _ _ _ ), Within.iff_of (maybeSend_within _ _ ), Within.iff_of (emitFlit_within _ _ _ _ _ ), *, Within.self, Within.mk_iff, Within.forEach_iff, Within.when_iff, Within.clear_iff, Within.ite_of, spansIn_idx, spansIn_wu, and_self, implies_true, id_eq, ne_eq, not_false_eq_true, reduceCtorEq]
         | split
       done)

theorem passFlush_within (x : Slip) (l : Nat) (s : State) :
    Within [⟨0x6014, 0, 1⟩, ⟨0x6808, 0, 1⟩, ⟨0x6A1C, 0x40, 4⟩, ⟨0x6A20, 0x40, 4⟩, ⟨0x6A24, 0x40, 4⟩, ⟨0x7000, 4, 2⟩, ⟨0x7018, 4, 3⟩] s (passFlush x l s) := by
  unfold passFlush
  try dsimp only
  repeat' first
    | simp +decide (maxDischargeDepth := 8) only [Within.iff_of (estimate_within _ _ _ ), Within.iff_of (updSlip_within _ _ _ ), Within.iff_of (watchRead_within _ _ _ _ _ _ _ _ ), Within.iff_of (maybeSend_within _ _ ), Within.iff_of (land_within _ _ _ ), *, Within.self, Within.mk_iff, Within.forEach_iff, Within.when_iff, Within.clear_iff, Within.ite_of, spansIn_idx, spansIn_wu, and_self, implies_true, id_eq, ne_eq, not_false_eq_true, reduceCtorEq]
    | split
    | with_reducible refine Within.trans ?_ (Within.forEach (fun _ _ => ?_) _ _)
    | with_reducible refine Within.trans ?_ (Within.when (fun _ => ?_) _ _)

theorem passOwn_within (t : Tr) (l n : Nat) (f : Row × Mask4) (s : State) :
    Within [] s (passOwn t l n f s) := Within.of_only (passOwn_only t l n f s) (by decide)

theorem passReturn_within (x : Slip) (l : Nat) (f : Row × Mask4) (s : State) :
    Within [⟨0x6014, 0, 1⟩, ⟨0x6808, 0, 1⟩, ⟨0x6A1C, 0x40, 4⟩, ⟨0x6A20, 0x40, 4⟩, ⟨0x6A24, 0x40, 4⟩, ⟨0x7000, 4, 2⟩, ⟨0x7018, 4, 3⟩] s (passReturn x l f s) := by
  unfold passReturn
  try dsimp only
  repeat' first
    | simp +decide (maxDischargeDepth := 8) only [Within.iff_of (estimate_within _ _ _ ), Within.iff_of (updSlip_within _ _ _ ), Within.iff_of (watchRead_within _ _ _ _ _ _ _ _ ), Within.iff_of (maybeSend_within _ _ ), Within.iff_of (land_within _ _ _ ), *, Within.self, Within.mk_iff, Within.forEach_iff, Within.when_iff, Within.clear_iff, Within.ite_of, spansIn_idx, spansIn_wu, and_self, implies_true, id_eq, ne_eq, not_false_eq_true, reduceCtorEq]
    | split
    | with_reducible refine Within.trans ?_ (Within.forEach (fun _ _ => ?_) _ _)
    | with_reducible refine Within.trans ?_ (Within.when (fun _ => ?_) _ _)

theorem beatPassed_within (t : Tr) (l n : Nat) (s : State) :
    Within [] s (beatPassed t l n s) := Within.of_only (beatPassed_only t l n s) (by decide)

theorem passBeat_within (lane : Nat) (t : Tr) (n : Nat) (par : Parity) (blpar : Mask4) (s u : State)
    (h : passBeat lane t n par blpar s = some u) : Within [⟨0x1810, 4, 2⟩, ⟨0x1A00, 4, 8⟩, ⟨0x2040, 4, 8⟩, ⟨0x59C0, 0, 1⟩, ⟨0x59C8, 0, 1⟩, ⟨0x5A00, 8, 9⟩, ⟨0x6014, 0, 1⟩, ⟨0x6808, 0, 1⟩, ⟨0x6A1C, 0x40, 4⟩, ⟨0x6A20, 0x40, 4⟩, ⟨0x6A24, 0x40, 4⟩, ⟨0x7000, 4, 2⟩, ⟨0x7018, 4, 3⟩] s u := by
  unfold passBeat at h
  dsimp only at h
  generalize hv : netParity _ _ _ _ _ = v at h
  have h0 : Within [⟨0x1810, 4, 2⟩, ⟨0x1A00, 4, 8⟩, ⟨0x2040, 4, 8⟩, ⟨0x59C0, 0, 1⟩, ⟨0x59C8, 0, 1⟩, ⟨0x5A00, 8, 9⟩, ⟨0x6014, 0, 1⟩, ⟨0x6808, 0, 1⟩, ⟨0x6A1C, 0x40, 4⟩, ⟨0x6A20, 0x40, 4⟩, ⟨0x6A24, 0x40, 4⟩, ⟨0x7000, 4, 2⟩, ⟨0x7018, 4, 3⟩] s v := by
    subst hv
    repeat' first
      | simp +decide (maxDischargeDepth := 8) only [Within.iff_of (netParity_within _ _ _ _ _), Within.iff_of (markPlane_within _ _ _), *, Within.self, Within.mk_iff, Within.forEach_iff, Within.when_iff, Within.clear_iff, Within.ite_of, spansIn_idx, spansIn_wu, and_self, implies_true, id_eq, ne_eq, not_false_eq_true, reduceCtorEq]
      | split
  refine h0.trans ?_
  clear hv h0
  split at h
  · injection h with h
    subst h
    repeat' first
      | simp +decide (maxDischargeDepth := 8) only [Within.iff_of (beatPassed_within _ _ _ _), Within.iff_of (passOwn_within _ _ _ _ _), *, Within.self, Within.mk_iff, Within.forEach_iff, Within.when_iff, Within.clear_iff, Within.ite_of, spansIn_idx, spansIn_wu, and_self, implies_true, id_eq, ne_eq, not_false_eq_true, reduceCtorEq]
      | split
  · split at h
    · cases h
    · split at h
      · injection h with h
        subst h
        repeat' first
          | simp +decide (maxDischargeDepth := 8) only [Within.iff_of (beatPassed_within _ _ _ _), Within.iff_of (passFlush_within _ _ _), *, Within.self, Within.mk_iff, Within.forEach_iff, Within.when_iff, Within.clear_iff, Within.ite_of, spansIn_idx, spansIn_wu, and_self, implies_true, id_eq, ne_eq, not_false_eq_true, reduceCtorEq]
          | split
      · split at h
        · injection h with h
          subst h
          repeat' first
            | simp +decide (maxDischargeDepth := 8) only [Within.iff_of (beatPassed_within _ _ _ _), Within.iff_of (passReturn_within _ _ _ _), *, Within.self, Within.mk_iff, Within.forEach_iff, Within.when_iff, Within.clear_iff, Within.ite_of, spansIn_idx, spansIn_wu, and_self, implies_true, id_eq, ne_eq, not_false_eq_true, reduceCtorEq]
            | split
        · obtain ⟨w, hw, hu⟩ := Option.map_eq_some_iff.mp h
          subst hu
          refine ((passSlip_within _ _ _ _ _ hw).mono (by decide)).trans ?_
          refine ((beatPassed_within t lane n w).mono (by decide)).trans ?_
          exact Within.getD fun t ht => (emitNext_within _ _ _ _ ht).mono (by decide)

theorem execReadFlitOutput_within (lane : Nat) (par : Parity) (blpar : Mask4) (s : State) (s' : State)
    (h : execReadFlitOutput lane par blpar s = .next s') :
    Within [⟨0x1810, 4, 2⟩, ⟨0x1A00, 4, 8⟩, ⟨0x2040, 4, 8⟩, ⟨0x59C0, 0, 1⟩, ⟨0x59C8, 0, 1⟩, ⟨0x5A00, 8, 9⟩, ⟨0x6014, 0, 1⟩, ⟨0x6808, 0, 1⟩, ⟨0x6A1C, 0x40, 4⟩, ⟨0x6A20, 0x40, 4⟩, ⟨0x6A24, 0x40, 4⟩, ⟨0x7000, 4, 2⟩, ⟨0x7018, 4, 3⟩] s s' := by
  unfold execReadFlitOutput at h
  injection h with h
  subst h
  dsimp only
  split
  · rename_i r s2 e
    have h1 : Within [⟨0x1810, 4, 2⟩, ⟨0x1A00, 4, 8⟩, ⟨0x2040, 4, 8⟩, ⟨0x59C0, 0, 1⟩, ⟨0x59C8, 0, 1⟩, ⟨0x5A00, 8, 9⟩, ⟨0x6014, 0, 1⟩, ⟨0x6808, 0, 1⟩, ⟨0x6A1C, 0x40, 4⟩, ⟨0x6A20, 0x40, 4⟩, ⟨0x6A24, 0x40, 4⟩, ⟨0x7000, 4, 2⟩, ⟨0x7018, 4, 3⟩] s s2 := by
      split at e
      · exact (emitNext_within _ _ _ _ e).mono (by decide)
      · split at e
        · cases e
        · split at e
          · exact (passBeat_within _ _ _ _ _ _ _ e).mono (by decide)
          · cases e
    split
    · exact h1
    · exact Within.refl _ _
  · exact Within.refl _ _

end Sys2Proof.Machine
end

