-- ==== Sys2Proof/Laws/WithinProt.lean ====
section
/-!
SUPPORT. Laws/WithinProt.lean: the registers and counters that the operations and commands of Machine/Prot.lean may change (generated
text, one lemma for each).
-/
namespace Sys2Proof.Machine

set_option linter.unusedSimpArgs false
set_option linter.tactic.unusedName false

theorem reloadStaging_within (s : State) :
    Within [⟨0x4904, 4, 87⟩] s (reloadStaging s) := by
  unfold reloadStaging
  try dsimp only
  repeat' first
    | simp +decide (maxDischargeDepth := 8) only [Within.iff_of (setReg_within _ _ _ ), *, Within.self, Within.mk_iff, Within.forEach_iff, Within.when_iff, Within.clear_iff, Within.ite_of, spansIn_idx, spansIn_wu, and_self, implies_true, id_eq, ne_eq, not_false_eq_true, reduceCtorEq]
    | split
    | with_reducible refine Within.trans ?_ (Within.forEach (fun _ _ => ?_) _ _)
    | with_reducible refine Within.trans ?_ (Within.when (fun _ => ?_) _ _)

theorem applyWord_within (n v : Nat) (s : State) :
    Within [⟨0x1000, 4, 24⟩, ⟨0x1840, 4, 9⟩, ⟨0x1870, 4, 6⟩, ⟨0x3080, 4, 8⟩, ⟨0x3100, 0x10, 64⟩, ⟨0x3820, 4, 24⟩] s (applyWord n v s) := by
  unfold applyWord
  try dsimp only
  repeat' first
    | simp +decide (maxDischargeDepth := 8) only [Within.iff_of (setReg_within _ _ _ ), Within.iff_of (setRegF_within _ _ _ _ _ ), *, Within.self, Within.mk_iff, Within.forEach_iff, Within.when_iff, Within.clear_iff, Within.ite_of, spansIn_idx, spansIn_wu, and_self, implies_true, id_eq, ne_eq, not_false_eq_true, reduceCtorEq]
    | split
    | with_reducible refine Within.trans ?_ (Within.forEach (fun _ _ => ?_) _ _)
    | with_reducible refine Within.trans ?_ (Within.when (fun _ => ?_) _ _)

theorem setProtState_within (n : Nat) (s : State) :
    Within [⟨0x4814, 0, 1⟩] s (setProtState n s) := by
  unfold setProtState
  try dsimp only
  repeat' first
    | simp +decide (maxDischargeDepth := 8) only [Within.iff_of (setRegF_within _ _ _ _ _ ), *, Within.self, Within.mk_iff, Within.forEach_iff, Within.when_iff, Within.clear_iff, Within.ite_of, spansIn_idx, spansIn_wu, and_self, implies_true, id_eq, ne_eq, not_false_eq_true, reduceCtorEq]
    | split
    | with_reducible refine Within.trans ?_ (Within.forEach (fun _ _ => ?_) _ _)
    | with_reducible refine Within.trans ?_ (Within.when (fun _ => ?_) _ _)

theorem dropDigests_within (s : State) :
    Within [⟨0x4814, 0, 1⟩] s (dropDigests s) := by
  unfold dropDigests
  try dsimp only
  repeat' first
    | simp +decide (maxDischargeDepth := 8) only [Within.iff_of (clrReg_within _ _ _ ), *, Within.self, Within.mk_iff, Within.forEach_iff, Within.when_iff, Within.clear_iff, Within.ite_of, spansIn_idx, spansIn_wu, and_self, implies_true, id_eq, ne_eq, not_false_eq_true, reduceCtorEq]
    | split
    | with_reducible refine Within.trans ?_ (Within.forEach (fun _ _ => ?_) _ _)
    | with_reducible refine Within.trans ?_ (Within.when (fun _ => ?_) _ _)

theorem withdraw_within (s : State) :
    Within [⟨0x4814, 0, 1⟩, ⟨0x4904, 4, 87⟩] s (withdraw s) := by
  unfold withdraw
  try dsimp only
  repeat' first
    | simp +decide (maxDischargeDepth := 8) only [Within.iff_of (reloadStaging_within _ ), Within.iff_of (setProtState_within _ _ ), Within.iff_of (dropDigests_within _ ), *, Within.self, Within.mk_iff, Within.forEach_iff, Within.when_iff, Within.clear_iff, Within.ite_of, spansIn_idx, spansIn_wu, and_self, implies_true, id_eq, ne_eq, not_false_eq_true, reduceCtorEq]
    | split
    | with_reducible refine Within.trans ?_ (Within.forEach (fun _ _ => ?_) _ _)
    | with_reducible refine Within.trans ?_ (Within.when (fun _ => ?_) _ _)

theorem propose_within (s : State) :
    Within [⟨0x4814, 0, 1⟩] s (propose s) := by
  unfold propose
  try dsimp only
  repeat' first
    | simp +decide (maxDischargeDepth := 8) only [Within.iff_of (setRegF_within _ _ _ _ _ ), Within.iff_of (orReg_within _ _ _ ), *, Within.self, Within.mk_iff, Within.forEach_iff, Within.when_iff, Within.clear_iff, Within.ite_of, spansIn_idx, spansIn_wu, and_self, implies_true, id_eq, ne_eq, not_false_eq_true, reduceCtorEq]
    | split
    | with_reducible refine Within.trans ?_ (Within.forEach (fun _ _ => ?_) _ _)
    | with_reducible refine Within.trans ?_ (Within.when (fun _ => ?_) _ _)

theorem cancelProposal_within (s : State) :
    Within [⟨0x4814, 0, 1⟩, ⟨0x4904, 4, 87⟩] s (cancelProposal s) := by
  unfold cancelProposal
  try dsimp only
  repeat' first
    | simp +decide (maxDischargeDepth := 8) only [Within.iff_of (withdraw_within _ ), *, Within.self, Within.mk_iff, Within.forEach_iff, Within.when_iff, Within.clear_iff, Within.ite_of, spansIn_idx, spansIn_wu, and_self, implies_true, id_eq, ne_eq, not_false_eq_true, reduceCtorEq]
    | split
    | with_reducible refine Within.trans ?_ (Within.forEach (fun _ _ => ?_) _ _)
    | with_reducible refine Within.trans ?_ (Within.when (fun _ => ?_) _ _)

theorem purgeProposal_within (s : State) :
    Within [⟨0x4814, 0, 1⟩, ⟨0x4904, 4, 87⟩] s (purgeProposal s) := by
  unfold purgeProposal
  try dsimp only
  repeat' first
    | simp +decide (maxDischargeDepth := 8) only [Within.iff_of (withdraw_within _ ), *, Within.self, Within.mk_iff, Within.forEach_iff, Within.when_iff, Within.clear_iff, Within.ite_of, spansIn_idx, spansIn_wu, and_self, implies_true, id_eq, ne_eq, not_false_eq_true, reduceCtorEq]
    | split
    | with_reducible refine Within.trans ?_ (Within.forEach (fun _ _ => ?_) _ _)
    | with_reducible refine Within.trans ?_ (Within.when (fun _ => ?_) _ _)

theorem compareDigests_within (sd pd : BitVec 64) (s : State) :
    Within [⟨0x4814, 0, 1⟩, ⟨0x4904, 4, 87⟩, ⟨0x6014, 0, 1⟩, ⟨0x7000, 4, 2⟩, ⟨0x7018, 4, 3⟩] s (compareDigests sd pd s) := by
  unfold compareDigests
  try dsimp only
  repeat' first
    | simp +decide (maxDischargeDepth := 8) only [Within.iff_of (setRegF_within _ _ _ _ _ ), Within.iff_of (raise_within _ _ ), Within.iff_of (setProtState_within _ _ ), Within.iff_of (dropDigests_within _ ), Within.iff_of (withdraw_within _ ), *, Within.self, Within.mk_iff, Within.forEach_iff, Within.when_iff, Within.clear_iff, Within.ite_of, spansIn_idx, spansIn_wu, and_self, implies_true, id_eq, ne_eq, not_false_eq_true, reduceCtorEq]
    | split
    | with_reducible refine Within.trans ?_ (Within.forEach (fun _ _ => ?_) _ _)
    | with_reducible refine Within.trans ?_ (Within.when (fun _ => ?_) _ _)

theorem holdDigest_within (party : Bool) (d : BitVec 64) (s : State) :
    Within [⟨0x4814, 0, 1⟩] s (holdDigest party d s) := by
  unfold holdDigest
  try dsimp only
  repeat' first
    | simp +decide (maxDischargeDepth := 8) only [Within.iff_of (orReg_within _ _ _ ), *, Within.self, Within.mk_iff, Within.forEach_iff, Within.when_iff, Within.clear_iff, Within.ite_of, spansIn_idx, spansIn_wu, and_self, implies_true, id_eq, ne_eq, not_false_eq_true, reduceCtorEq]
    | split
    | with_reducible refine Within.trans ?_ (Within.forEach (fun _ _ => ?_) _ _)
    | with_reducible refine Within.trans ?_ (Within.when (fun _ => ?_) _ _)

theorem expireWindow_within (s : State) :
    Within [⟨0x4814, 0, 1⟩, ⟨0x6014, 0, 1⟩, ⟨0x7000, 4, 2⟩, ⟨0x7018, 4, 3⟩] s (expireWindow s) := by
  unfold expireWindow
  try dsimp only
  repeat' first
    | simp +decide (maxDischargeDepth := 8) only [Within.iff_of (raise_within _ _ ), Within.iff_of (setProtState_within _ _ ), Within.iff_of (dropDigests_within _ ), *, Within.self, Within.mk_iff, Within.forEach_iff, Within.when_iff, Within.clear_iff, Within.ite_of, spansIn_idx, spansIn_wu, and_self, implies_true, id_eq, ne_eq, not_false_eq_true, reduceCtorEq]
    | split
    | with_reducible refine Within.trans ?_ (Within.forEach (fun _ _ => ?_) _ _)
    | with_reducible refine Within.trans ?_ (Within.when (fun _ => ?_) _ _)

theorem completeDigest_within (party : Bool) (hi : Word) (s : State) :
    Within [⟨0x4814, 0, 1⟩, ⟨0x4904, 4, 87⟩, ⟨0x6014, 0, 1⟩, ⟨0x7000, 4, 2⟩, ⟨0x7018, 4, 3⟩] s (completeDigest party hi s) := by
  unfold completeDigest
  try dsimp only
  repeat' first
    | simp +decide (maxDischargeDepth := 8) only [Within.iff_of (orReg_within _ _ _ ), Within.iff_of (setProtState_within _ _ ), Within.iff_of (compareDigests_within _ _ _ ), Within.iff_of (holdDigest_within _ _ _ ), Within.iff_of (expireWindow_within _ ), *, Within.self, Within.mk_iff, Within.forEach_iff, Within.when_iff, Within.clear_iff, Within.ite_of, spansIn_idx, spansIn_wu, and_self, implies_true, id_eq, ne_eq, not_false_eq_true, reduceCtorEq]
    | split
    | with_reducible refine Within.trans ?_ (Within.forEach (fun _ _ => ?_) _ _)
    | with_reducible refine Within.trans ?_ (Within.when (fun _ => ?_) _ _)

theorem writeDigestLo_within (party : Bool) (w : Word) (s : State) :
    Within [⟨0x4814, 0, 1⟩] s (writeDigestLo party w s) := by
  unfold writeDigestLo
  try dsimp only
  repeat' first
    | simp +decide (maxDischargeDepth := 8) only [Within.iff_of (orReg_within _ _ _ ), *, Within.self, Within.mk_iff, Within.forEach_iff, Within.when_iff, Within.clear_iff, Within.ite_of, spansIn_idx, spansIn_wu, and_self, implies_true, id_eq, ne_eq, not_false_eq_true, reduceCtorEq]
    | split
    | with_reducible refine Within.trans ?_ (Within.forEach (fun _ _ => ?_) _ _)
    | with_reducible refine Within.trans ?_ (Within.when (fun _ => ?_) _ _)

theorem applyStaging_within (s : State) :
    Within [⟨0x1000, 4, 24⟩, ⟨0x1840, 4, 9⟩, ⟨0x1870, 4, 6⟩, ⟨0x3080, 4, 8⟩, ⟨0x3100, 0x10, 64⟩, ⟨0x3820, 4, 24⟩, ⟨0x4814, 4, 2⟩, ⟨0x4904, 4, 87⟩, ⟨0x6014, 0, 1⟩, ⟨0x7000, 4, 2⟩, ⟨0x7018, 4, 3⟩] s (applyStaging s) := by
  unfold applyStaging
  try dsimp only
  repeat' first
    | simp +decide (maxDischargeDepth := 8) only [Within.iff_of (setReg_within _ _ _ ), Within.iff_of (raise_within _ _ ), Within.iff_of (applyWord_within _ _ _ ), Within.iff_of (withdraw_within _ ), *, Within.self, Within.mk_iff, Within.forEach_iff, Within.when_iff, Within.clear_iff, Within.ite_of, spansIn_idx, spansIn_wu, and_self, implies_true, id_eq, ne_eq, not_false_eq_true, reduceCtorEq]
    | split
    | with_reducible refine Within.trans ?_ (Within.forEach (fun _ _ => ?_) _ _)
    | with_reducible refine Within.trans ?_ (Within.when (fun _ => ?_) _ _)

theorem rekeyCtx_within (c : Nat) (s : State) :
    Within [] s (rekeyCtx c s) := Within.of_only (rekeyCtx_only c s) (by decide)

theorem setSeal_within (l : Nat) (x : Seal) (s : State) :
    Within [] s (setSeal l x s) := Within.of_only (setSeal_only l x s) (by decide)

theorem armSeal_within (l nfm1 : Nat) (s : State) :
    Within [⟨0x4888, 0x20, 4⟩, ⟨0x488C, 0x20, 4⟩] s (armSeal l nfm1 s) := by
  unfold armSeal
  try dsimp only
  repeat' first
    | simp +decide (maxDischargeDepth := 8) only [Within.iff_of (setReg_within _ _ _ ), Within.iff_of (setSeal_within _ _ _ ), *, Within.self, Within.mk_iff, Within.forEach_iff, Within.when_iff, Within.clear_iff, Within.ite_of, spansIn_idx, spansIn_wu, and_self, implies_true, id_eq, ne_eq, not_false_eq_true, reduceCtorEq]
    | split
    | with_reducible refine Within.trans ?_ (Within.forEach (fun _ _ => ?_) _ _)
    | with_reducible refine Within.trans ?_ (Within.when (fun _ => ?_) _ _)

theorem writeSealCfg_within (l : Nat) (w : Word) (s : State) :
    Within [⟨0x4814, 0, 1⟩, ⟨0x4880, 0x20, 4⟩, ⟨0x4888, 0x20, 4⟩, ⟨0x488C, 0x20, 4⟩] s (writeSealCfg l w s) := by
  unfold writeSealCfg
  try dsimp only
  repeat' first
    | simp +decide (maxDischargeDepth := 8) only [Within.iff_of (setReg_within _ _ _ ), Within.iff_of (orReg_within _ _ _ ), Within.iff_of (armSeal_within _ _ _ ), *, Within.self, Within.mk_iff, Within.forEach_iff, Within.when_iff, Within.clear_iff, Within.ite_of, spansIn_idx, spansIn_wu, and_self, implies_true, id_eq, ne_eq, not_false_eq_true, reduceCtorEq]
    | split
    | with_reducible refine Within.trans ?_ (Within.forEach (fun _ _ => ?_) _ _)
    | with_reducible refine Within.trans ?_ (Within.when (fun _ => ?_) _ _)

theorem finishSeal_within (l : Nat) (x : Seal) (s : State) :
    Within [⟨0x4890, 4, 32⟩, ⟨0x6014, 0, 1⟩, ⟨0x7000, 4, 2⟩, ⟨0x7018, 4, 3⟩] s (finishSeal l x s).2 := by
  unfold finishSeal
  try dsimp only
  repeat' first
    | simp +decide (maxDischargeDepth := 8) only [Within.iff_of (setReg_within _ _ _ ), Within.iff_of (raise_within _ _ ), Within.iff_of (setSeal_within _ _ _ ), *, Within.self, Within.mk_iff, Within.forEach_iff, Within.when_iff, Within.clear_iff, Within.ite_of, spansIn_idx, spansIn_wu, and_self, implies_true, id_eq, ne_eq, not_false_eq_true, reduceCtorEq]
    | split
    | with_reducible refine Within.trans ?_ (Within.forEach (fun _ _ => ?_) _ _)
    | with_reducible refine Within.trans ?_ (Within.when (fun _ => ?_) _ _)

theorem sealFlit_within (l : Nat) (data : Row) (s : State) :
    Within [⟨0x4890, 4, 32⟩, ⟨0x6014, 0, 1⟩, ⟨0x7000, 4, 2⟩, ⟨0x7018, 4, 3⟩] s (sealFlit l data s).2.2 := by
  unfold sealFlit
  try dsimp only
  repeat' first
    | simp +decide (maxDischargeDepth := 8) only [Within.iff_of (setSeal_within _ _ _ ), Within.iff_of (finishSeal_within _ _ _ ), *, Within.self, Within.mk_iff, Within.forEach_iff, Within.when_iff, Within.clear_iff, Within.ite_of, spansIn_idx, spansIn_wu, and_self, implies_true, id_eq, ne_eq, not_false_eq_true, reduceCtorEq]
    | (refine Within.snd (by assumption) (finishSeal_within _ _ _ ) (by decide) ?_)
    | split
    | with_reducible refine Within.trans ?_ (Within.forEach (fun _ _ => ?_) _ _)
    | with_reducible refine Within.trans ?_ (Within.when (fun _ => ?_) _ _)

theorem startPurge_within (s : State) :
    Within [⟨0x4814, 0, 1⟩, ⟨0x4904, 4, 87⟩, ⟨0x4B04, 0, 1⟩, ⟨0x6014, 0, 1⟩, ⟨0x7000, 4, 2⟩, ⟨0x7018, 4, 3⟩] s (startPurge s) := by
  unfold startPurge
  try dsimp only
  repeat' first
    | simp +decide (maxDischargeDepth := 8) only [Within.iff_of (setRegF_within _ _ _ _ _ ), Within.iff_of (cancelMig_within _ ), Within.iff_of (purgeProposal_within _ ), *, Within.self, Within.mk_iff, Within.forEach_iff, Within.when_iff, Within.clear_iff, Within.ite_of, spansIn_idx, spansIn_wu, and_self, implies_true, id_eq, ne_eq, not_false_eq_true, reduceCtorEq]
    | split
    | with_reducible refine Within.trans ?_ (Within.forEach (fun _ _ => ?_) _ _)
    | with_reducible refine Within.trans ?_ (Within.when (fun _ => ?_) _ _)

theorem unlock_within (w : Word) (s : State) :
    Within [⟨0x4814, 0, 1⟩, ⟨0x4904, 4, 87⟩, ⟨0x4B04, 0, 1⟩, ⟨0x6014, 0, 1⟩, ⟨0x7000, 4, 2⟩, ⟨0x7018, 4, 3⟩] s (unlock w s) := by
  unfold unlock
  try dsimp only
  repeat' first
    | simp +decide (maxDischargeDepth := 8) only [Within.iff_of (orReg_within _ _ _ ), Within.iff_of (raise_within _ _ ), Within.iff_of (startPurge_within _ ), *, Within.self, Within.mk_iff, Within.forEach_iff, Within.when_iff, Within.clear_iff, Within.ite_of, spansIn_idx, spansIn_wu, and_self, implies_true, id_eq, ne_eq, not_false_eq_true, reduceCtorEq]
    | split
    | with_reducible refine Within.trans ?_ (Within.forEach (fun _ _ => ?_) _ _)
    | with_reducible refine Within.trans ?_ (Within.when (fun _ => ?_) _ _)

theorem relock_within (w : Word) (s : State) :
    Within [⟨0x4B04, 0, 1⟩, ⟨0x6A1C, 0x40, 4⟩] s (relock w s) := by
  unfold relock
  try dsimp only
  repeat' first
    | simp +decide (maxDischargeDepth := 8) only [Within.iff_of (clrReg_within _ _ _ ), Within.iff_of (watchRelock_within _ ), *, Within.self, Within.mk_iff, Within.forEach_iff, Within.when_iff, Within.clear_iff, Within.ite_of, spansIn_idx, spansIn_wu, and_self, implies_true, id_eq, ne_eq, not_false_eq_true, reduceCtorEq]
    | split
    | with_reducible refine Within.trans ?_ (Within.forEach (fun _ _ => ?_) _ _)
    | with_reducible refine Within.trans ?_ (Within.when (fun _ => ?_) _ _)

theorem dropRing_within (q : Nat) (s : State) :
    Within [⟨0x310C, 0x10, 64⟩] s (dropRing q s) := by
  unfold dropRing
  try dsimp only
  repeat' first
    | simp +decide (maxDischargeDepth := 8) only [Within.iff_of (setRegF_within _ _ _ _ _ ), *, Within.self, Within.mk_iff, Within.forEach_iff, Within.when_iff, Within.clear_iff, Within.ite_of, spansIn_idx, spansIn_wu, and_self, implies_true, id_eq, ne_eq, not_false_eq_true, reduceCtorEq]
    | split
    | with_reducible refine Within.trans ?_ (Within.forEach (fun _ _ => ?_) _ _)
    | with_reducible refine Within.trans ?_ (Within.when (fun _ => ?_) _ _)

theorem dropReadouts_within (s : State) :
    Within [⟨0x6824, 0, 1⟩, ⟨0x6B14, 0, 1⟩] s (dropReadouts s) := by
  unfold dropReadouts
  try dsimp only
  repeat' first
    | simp +decide (maxDischargeDepth := 8) only [Within.iff_of (setRegF_within _ _ _ _ _ ), *, Within.self, Within.mk_iff, Within.forEach_iff, Within.when_iff, Within.clear_iff, Within.ite_of, spansIn_idx, spansIn_wu, and_self, implies_true, id_eq, ne_eq, not_false_eq_true, reduceCtorEq]
    | split
    | with_reducible refine Within.trans ?_ (Within.forEach (fun _ _ => ?_) _ _)
    | with_reducible refine Within.trans ?_ (Within.when (fun _ => ?_) _ _)

theorem eraseBuffers_within (s : State) : Within [⟨0x5780, 1, 512⟩] s (eraseBuffers s) := by
  intro o ho
  refine ⟨rfl, ?_⟩
  show NMap.get 0 (s.cnt.filter fun e => !(decide (0x5780 ≤ e.1) && decide (e.1 < 0x5980))) o = _
  refine NMap.get_filter_of 0 _ s.cnt o fun v => ?_
  simp only [List.any_cons, List.any_nil, Bool.or_false, Span.has, Bool.and_eq_false_iff, Nat.one_mul] at ho
  simp only [Bool.not_eq_true', Bool.and_eq_false_iff, decide_eq_false_iff_not]
  obtain (h | h) | h := ho
  · exact .inl fun k => by rw [Nat.ble_eq.mpr k] at h; cases h
  · exact .inr fun k => by rw [Nat.ble_eq.mpr (by omega)] at h; cases h
  · simp [Nat.mod_one] at h

theorem purgeTrace_within (s : State) :
    Within [⟨0x6000, 0, 1⟩, ⟨0x6014, 4, 5⟩] s (purgeTrace s) := by
  unfold purgeTrace
  try dsimp only
  repeat' first
    | simp +decide (maxDischargeDepth := 8) only [Within.iff_of (setReg_within _ _ _ ), Within.iff_of (clrReg_within _ _ _ ), *, Within.self, Within.mk_iff, Within.forEach_iff, Within.when_iff, Within.clear_iff, Within.ite_of, spansIn_idx, spansIn_wu, and_self, implies_true, id_eq, ne_eq, not_false_eq_true, reduceCtorEq]
    | split
    | with_reducible refine Within.trans ?_ (Within.forEach (fun _ _ => ?_) _ _)
    | with_reducible refine Within.trans ?_ (Within.when (fun _ => ?_) _ _)

theorem purgeAll_within (s : State) :
    Within [⟨0x0810, 4, 4⟩, ⟨0x1300, 4, 2⟩, ⟨0x1810, 4, 3⟩, ⟨0x1A00, 4, 8⟩, ⟨0x2040, 4, 8⟩, ⟨0x28A0, 4, 2⟩, ⟨0x3008, 4, 2⟩, ⟨0x3040, 4, 8⟩, ⟨0x310C, 0x10, 64⟩, ⟨0x3700, 4, 64⟩, ⟨0x3818, 4, 2⟩, ⟨0x4814, 0, 1⟩, ⟨0x4880, 4, 32⟩, ⟨0x4904, 4, 87⟩, ⟨0x4B04, 4, 2⟩, ⟨0x5780, 1, 512⟩, ⟨0x6000, 0, 1⟩, ⟨0x6014, 4, 5⟩, ⟨0x6814, 0, 1⟩, ⟨0x6824, 0, 1⟩, ⟨0x6904, 0, 1⟩, ⟨0x6A1C, 0x40, 4⟩, ⟨0x6A20, 0x40, 4⟩, ⟨0x6A24, 0x40, 4⟩, ⟨0x6B14, 0, 1⟩, ⟨0x7000, 4, 2⟩, ⟨0x7018, 4, 3⟩] s (purgeAll s) := by
  unfold purgeAll
  try dsimp only
  repeat' first
    | simp +decide (maxDischargeDepth := 8) only [Within.iff_of (setReg_within _ _ _ ), Within.iff_of (raise_within _ _ ), Within.iff_of (setPow_within _ _ _ ), Within.iff_of (purgeBank_within _ _ ), Within.iff_of (purgeProposal_within _ ), Within.iff_of (dropRing_within _ _ ), Within.iff_of (dropReadouts_within _ ), Within.iff_of (eraseBuffers_within _ ), Within.iff_of (purgeTrace_within _ ), *, Within.self, Within.mk_iff, Within.forEach_iff, Within.when_iff, Within.clear_iff, Within.ite_of, spansIn_idx, spansIn_wu, and_self, implies_true, id_eq, ne_eq, not_false_eq_true, reduceCtorEq]
    | split
    | with_reducible refine Within.trans ?_ (Within.forEach (fun _ _ => ?_) _ _)
    | with_reducible refine Within.trans ?_ (Within.when (fun _ => ?_) _ _)

theorem execPropose_within (a : BusAcc) (s : State) (s' : State) (h : execPropose a s = .next s') :
    Within [⟨0x4804, 4, 2⟩, ⟨0x4814, 0, 1⟩, ⟨0x57B8, 0x40, 8⟩, ⟨0x5980, 0, 1⟩, ⟨0x6014, 0, 1⟩, ⟨0x7000, 4, 2⟩, ⟨0x7018, 4, 3⟩] s s' := by
  unfold execPropose at h
  injection h with h
  subst h
  try dsimp only
  repeat' first
    | (with_reducible refine Within.trans ?_ (busWrite_within _ _ _ _ (by decide) (fun _ => ?_)))
    | simp +decide (maxDischargeDepth := 8) only [Within.iff_of (propose_within _ ), *, Within.self, Within.mk_iff, Within.forEach_iff, Within.when_iff, Within.clear_iff, Within.ite_of, spansIn_idx, spansIn_wu, and_self, implies_true, id_eq, ne_eq, not_false_eq_true, reduceCtorEq]
    | split
    | with_reducible refine Within.trans ?_ (Within.forEach (fun _ _ => ?_) _ _)
    | with_reducible refine Within.trans ?_ (Within.when (fun _ => ?_) _ _)

theorem execCancel_within (a : BusAcc) (s : State) (s' : State) (h : execCancel a s = .next s') :
    Within [⟨0x4804, 4, 2⟩, ⟨0x4814, 0, 1⟩, ⟨0x4904, 4, 87⟩, ⟨0x57B8, 0x40, 8⟩, ⟨0x5980, 0, 1⟩, ⟨0x6014, 0, 1⟩, ⟨0x7000, 4, 2⟩, ⟨0x7018, 4, 3⟩] s s' := by
  unfold execCancel at h
  injection h with h
  subst h
  try dsimp only
  repeat' first
    | (with_reducible refine Within.trans ?_ (busWrite_within _ _ _ _ (by decide) (fun _ => ?_)))
    | simp +decide (maxDischargeDepth := 8) only [Within.iff_of (cancelProposal_within _ ), *, Within.self, Within.mk_iff, Within.forEach_iff, Within.when_iff, Within.clear_iff, Within.ite_of, spansIn_idx, spansIn_wu, and_self, implies_true, id_eq, ne_eq, not_false_eq_true, reduceCtorEq]
    | split
    | with_reducible refine Within.trans ?_ (Within.forEach (fun _ _ => ?_) _ _)
    | with_reducible refine Within.trans ?_ (Within.when (fun _ => ?_) _ _)

theorem execRekey_within (a : BusAcc) (ctx : BitVec 3) (s : State) (s' : State) (h : execRekey a ctx s = .next s') :
    Within [⟨0x4804, 4, 2⟩, ⟨0x57B8, 0x40, 8⟩, ⟨0x5980, 0, 1⟩, ⟨0x6014, 0, 1⟩, ⟨0x7000, 4, 2⟩, ⟨0x7018, 4, 3⟩] s s' := by
  unfold execRekey at h
  injection h with h
  subst h
  try dsimp only
  repeat' first
    | (with_reducible refine Within.trans ?_ (busWrite_within _ _ _ _ (by decide) (fun _ => ?_)))
    | simp +decide (maxDischargeDepth := 8) only [Within.iff_of (rekeyCtx_within _ _ ), *, Within.self, Within.mk_iff, Within.forEach_iff, Within.when_iff, Within.clear_iff, Within.ite_of, spansIn_idx, spansIn_wu, and_self, implies_true, id_eq, ne_eq, not_false_eq_true, reduceCtorEq]
    | split
    | with_reducible refine Within.trans ?_ (Within.forEach (fun _ _ => ?_) _ _)
    | with_reducible refine Within.trans ?_ (Within.when (fun _ => ?_) _ _)

theorem execDigestComplete_within (a : BusAcc) (off : BitVec 16) (w : Word) (s : State) (s' : State) (h : execDigestComplete a off w s = .next s') :
    Within [⟨0x4804, 4, 2⟩, ⟨0x4814, 0, 1⟩, ⟨0x4904, 4, 87⟩, ⟨0x57B8, 0x40, 8⟩, ⟨0x5980, 0, 1⟩, ⟨0x6014, 0, 1⟩, ⟨0x7000, 4, 2⟩, ⟨0x7018, 4, 3⟩] s s' := by
  unfold execDigestComplete at h
  injection h with h
  subst h
  try dsimp only
  repeat' first
    | (with_reducible refine Within.trans ?_ (busWrite_within _ _ _ _ (by decide) (fun _ => ?_)))
    | simp +decide (maxDischargeDepth := 8) only [Within.iff_of (completeDigest_within _ _ _ ), *, Within.self, Within.mk_iff, Within.forEach_iff, Within.when_iff, Within.clear_iff, Within.ite_of, spansIn_idx, spansIn_wu, and_self, implies_true, id_eq, ne_eq, not_false_eq_true, reduceCtorEq]
    | split
    | with_reducible refine Within.trans ?_ (Within.forEach (fun _ _ => ?_) _ _)
    | with_reducible refine Within.trans ?_ (Within.when (fun _ => ?_) _ _)

theorem execCommitWindowExpiry_within (s : State) (s' : State) (h : execCommitWindowExpiry s = .next s') :
    Within [⟨0x4814, 0, 1⟩, ⟨0x6014, 0, 1⟩, ⟨0x7000, 4, 2⟩, ⟨0x7018, 4, 3⟩] s s' := by
  unfold execCommitWindowExpiry at h
  injection h with h
  subst h
  try dsimp only
  repeat' first
    | simp +decide (maxDischargeDepth := 8) only [Within.iff_of (expireWindow_within _ ), *, Within.self, Within.mk_iff, Within.forEach_iff, Within.when_iff, Within.clear_iff, Within.ite_of, spansIn_idx, spansIn_wu, and_self, implies_true, id_eq, ne_eq, not_false_eq_true, reduceCtorEq]
    | split
    | with_reducible refine Within.trans ?_ (Within.forEach (fun _ _ => ?_) _ _)
    | with_reducible refine Within.trans ?_ (Within.when (fun _ => ?_) _ _)

theorem execCommitApply_within (s : State) (s' : State) (h : execCommitApply s = .next s') :
    Within [⟨0x1000, 4, 24⟩, ⟨0x1840, 4, 9⟩, ⟨0x1870, 4, 6⟩, ⟨0x3080, 4, 8⟩, ⟨0x3100, 0x10, 64⟩, ⟨0x3820, 4, 24⟩, ⟨0x4814, 4, 2⟩, ⟨0x4904, 4, 87⟩, ⟨0x6014, 0, 1⟩, ⟨0x7000, 4, 2⟩, ⟨0x7018, 4, 3⟩] s s' := by
  unfold execCommitApply at h
  injection h with h
  subst h
  try dsimp only
  repeat' first
    | simp +decide (maxDischargeDepth := 8) only [Within.iff_of (applyStaging_within _ ), *, Within.self, Within.mk_iff, Within.forEach_iff, Within.when_iff, Within.clear_iff, Within.ite_of, spansIn_idx, spansIn_wu, and_self, implies_true, id_eq, ne_eq, not_false_eq_true, reduceCtorEq]
    | split
    | with_reducible refine Within.trans ?_ (Within.forEach (fun _ _ => ?_) _ _)
    | with_reducible refine Within.trans ?_ (Within.when (fun _ => ?_) _ _)

theorem execSealArm_within (a : BusAcc) (l : BitVec 2) (w : Word) (s : State) (s' : State) (h : execSealArm a l w s = .next s') :
    Within [⟨0x4804, 4, 2⟩, ⟨0x4814, 0, 1⟩, ⟨0x4880, 0x20, 4⟩, ⟨0x4888, 0x20, 4⟩, ⟨0x488C, 0x20, 4⟩, ⟨0x57B8, 0x40, 8⟩, ⟨0x5980, 0, 1⟩, ⟨0x6014, 0, 1⟩, ⟨0x7000, 4, 2⟩, ⟨0x7018, 4, 3⟩] s s' := by
  unfold execSealArm at h
  injection h with h
  subst h
  try dsimp only
  repeat' first
    | (with_reducible refine Within.trans ?_ (busWrite_within _ _ _ _ (by decide) (fun _ => ?_)))
    | simp +decide (maxDischargeDepth := 8) only [Within.iff_of (writeSealCfg_within _ _ _ ), *, Within.self, Within.mk_iff, Within.forEach_iff, Within.when_iff, Within.clear_iff, Within.ite_of, spansIn_idx, spansIn_wu, and_self, implies_true, id_eq, ne_eq, not_false_eq_true, reduceCtorEq]
    | split
    | with_reducible refine Within.trans ?_ (Within.forEach (fun _ _ => ?_) _ _)
    | with_reducible refine Within.trans ?_ (Within.when (fun _ => ?_) _ _)

theorem execSealActive_within (l : BitVec 2) (s : State) (s' : State) (h : execSealActive l s = .next s') :
    Within [] s s' := Within.of_only (execSealActive_only l s s' h) (by decide)

theorem execUnlock_within (a : BusAcc) (w : Word) (s : State) (s' : State) (h : execUnlock a w s = .next s') :
    Within [⟨0x4804, 4, 2⟩, ⟨0x4814, 0, 1⟩, ⟨0x4904, 4, 87⟩, ⟨0x4B04, 0, 1⟩, ⟨0x57B8, 0x40, 8⟩, ⟨0x5980, 0, 1⟩, ⟨0x6014, 0, 1⟩, ⟨0x7000, 4, 2⟩, ⟨0x7018, 4, 3⟩] s s' := by
  unfold execUnlock at h
  injection h with h
  subst h
  try dsimp only
  repeat' first
    | (with_reducible refine Within.trans ?_ (busWrite_within _ _ _ _ (by decide) (fun _ => ?_)))
    | simp +decide (maxDischargeDepth := 8) only [Within.iff_of (unlock_within _ _ ), *, Within.self, Within.mk_iff, Within.forEach_iff, Within.when_iff, Within.clear_iff, Within.ite_of, spansIn_idx, spansIn_wu, and_self, implies_true, id_eq, ne_eq, not_false_eq_true, reduceCtorEq]
    | split
    | with_reducible refine Within.trans ?_ (Within.forEach (fun _ _ => ?_) _ _)
    | with_reducible refine Within.trans ?_ (Within.when (fun _ => ?_) _ _)

theorem execRelock_within (a : BusAcc) (w : Word) (s : State) (s' : State) (h : execRelock a w s = .next s') :
    Within [⟨0x4804, 4, 2⟩, ⟨0x4B04, 0, 1⟩, ⟨0x57B8, 0x40, 8⟩, ⟨0x5980, 0, 1⟩, ⟨0x6014, 0, 1⟩, ⟨0x6A1C, 0x40, 4⟩, ⟨0x7000, 4, 2⟩, ⟨0x7018, 4, 3⟩] s s' := by
  unfold execRelock at h
  injection h with h
  subst h
  try dsimp only
  repeat' first
    | (with_reducible refine Within.trans ?_ (busWrite_within _ _ _ _ (by decide) (fun _ => ?_)))
    | simp +decide (maxDischargeDepth := 8) only [Within.iff_of (relock_within _ _ ), *, Within.self, Within.mk_iff, Within.forEach_iff, Within.when_iff, Within.clear_iff, Within.ite_of, spansIn_idx, spansIn_wu, and_self, implies_true, id_eq, ne_eq, not_false_eq_true, reduceCtorEq]
    | split
    | with_reducible refine Within.trans ?_ (Within.forEach (fun _ _ => ?_) _ _)
    | with_reducible refine Within.trans ?_ (Within.when (fun _ => ?_) _ _)

theorem execPurgeComplete_within (s : State) (s' : State) (h : execPurgeComplete s = .next s') :
    Within [⟨0x0810, 4, 4⟩, ⟨0x1300, 4, 2⟩, ⟨0x1810, 4, 3⟩, ⟨0x1A00, 4, 8⟩, ⟨0x2040, 4, 8⟩, ⟨0x28A0, 4, 2⟩, ⟨0x3008, 4, 2⟩, ⟨0x3040, 4, 8⟩, ⟨0x310C, 0x10, 64⟩, ⟨0x3700, 4, 64⟩, ⟨0x3818, 4, 2⟩, ⟨0x4814, 0, 1⟩, ⟨0x4880, 4, 32⟩, ⟨0x4904, 4, 87⟩, ⟨0x4B04, 4, 2⟩, ⟨0x5780, 1, 512⟩, ⟨0x6000, 0, 1⟩, ⟨0x6014, 4, 5⟩, ⟨0x6814, 0, 1⟩, ⟨0x6824, 0, 1⟩, ⟨0x6904, 0, 1⟩, ⟨0x6A1C, 0x40, 4⟩, ⟨0x6A20, 0x40, 4⟩, ⟨0x6A24, 0x40, 4⟩, ⟨0x6B14, 0, 1⟩, ⟨0x7000, 4, 2⟩, ⟨0x7018, 4, 3⟩] s s' := by
  unfold execPurgeComplete at h
  injection h with h
  subst h
  try dsimp only
  repeat' first
    | simp +decide (maxDischargeDepth := 8) only [Within.iff_of (purgeAll_within _ ), *, Within.self, Within.mk_iff, Within.forEach_iff, Within.when_iff, Within.clear_iff, Within.ite_of, spansIn_idx, spansIn_wu, and_self, implies_true, id_eq, ne_eq, not_false_eq_true, reduceCtorEq]
    | split
    | with_reducible refine Within.trans ?_ (Within.forEach (fun _ _ => ?_) _ _)
    | with_reducible refine Within.trans ?_ (Within.when (fun _ => ?_) _ _)

theorem execProposalDigestReady_within (s : State) (s' : State) (h : execProposalDigestReady s = .next s') :
    Within [⟨0x4814, 0, 1⟩] s s' := by
  unfold execProposalDigestReady at h
  injection h with h
  subst h
  try dsimp only
  repeat' first
    | simp +decide (maxDischargeDepth := 8) only [Within.iff_of (setProtState_within _ _ ), *, Within.self, Within.mk_iff, Within.forEach_iff, Within.when_iff, Within.clear_iff, Within.ite_of, spansIn_idx, spansIn_wu, and_self, implies_true, id_eq, ne_eq, not_false_eq_true, reduceCtorEq]
    | split
    | with_reducible refine Within.trans ?_ (Within.forEach (fun _ _ => ?_) _ _)
    | with_reducible refine Within.trans ?_ (Within.when (fun _ => ?_) _ _)

end Sys2Proof.Machine
end

