-- ==== Sys2Proof/Laws/WithinLanes.lean ====
section
/-!
SUPPORT. Laws/WithinLanes.lean: the registers and counters that the operations and commands of Machine/Lanes.lean may change (generated
text, one lemma for each).
-/
namespace Sys2Proof.Machine

set_option linter.unusedSimpArgs false
set_option linter.tactic.unusedName false

theorem refusedFlits_within (req ctx client rl n : Nat) (s : State) :
    Within [] s (refusedFlits req ctx client rl n s) := Within.of_only (refusedFlits_only req ctx client rl n s) (by decide)

theorem refuseRq_within (wr : Bool) (lane r kind : Nat) (s : State) :
    Within [⟨0x1818, 0, 1⟩, ⟨0x5600, 0x20, 12⟩, ⟨0x6014, 0, 1⟩, ⟨0x7000, 4, 2⟩, ⟨0x7018, 4, 3⟩] s (refuseRq wr lane r kind s) := by
  unfold refuseRq
  try dsimp only
  repeat' first
    | simp +decide (maxDischargeDepth := 8) only [Within.iff_of (bump_within _ _ _ ), Within.iff_of (raise_within _ _ ), Within.iff_of (fillLog1_within _ _ _ ), Within.iff_of (addTr_within _ _ ), Within.iff_of (refusedFlits_within _ _ _ _ _ _ ), *, Within.self, Within.mk_iff, Within.forEach_iff, Within.when_iff, Within.clear_iff, Within.ite_of, spansIn_idx, spansIn_wu, and_self, implies_true, id_eq, ne_eq, not_false_eq_true, reduceCtorEq]
    | split
    | with_reducible refine Within.trans ?_ (Within.forEach (fun _ _ => ?_) _ _)
    | with_reducible refine Within.trans ?_ (Within.when (fun _ => ?_) _ _)

theorem takeRq_within (wr : Bool) (lane r : Nat) (s : State) :
    Within [⟨0x1818, 0, 1⟩, ⟨0x5600, 0x20, 12⟩, ⟨0x6014, 0, 1⟩, ⟨0x7000, 4, 2⟩, ⟨0x7018, 4, 3⟩] s (takeRq wr lane r s) := by
  unfold takeRq
  try dsimp only
  repeat' first
    | simp +decide (maxDischargeDepth := 8) only [Within.iff_of (addTr_within _ _ ), Within.iff_of (refuseRq_within _ _ _ _ _ ), *, Within.self, Within.mk_iff, Within.forEach_iff, Within.when_iff, Within.clear_iff, Within.ite_of, spansIn_idx, spansIn_wu, and_self, implies_true, id_eq, ne_eq, not_false_eq_true, reduceCtorEq]
    | split
    | with_reducible refine Within.trans ?_ (Within.forEach (fun _ _ => ?_) _ _)
    | with_reducible refine Within.trans ?_ (Within.when (fun _ => ?_) _ _)

theorem setChan_within (wr : Bool) (lane : Nat) (x : ReqCh) (s : State) :
    Within [] s (setChan wr lane x s) := Within.of_only (setChan_only wr lane x s) (by decide)

theorem drainChan_within (wr : Bool) (lane : Nat) (s : State) :
    Within [⟨0x1818, 0, 1⟩, ⟨0x5600, 0x20, 12⟩, ⟨0x6014, 0, 1⟩, ⟨0x7000, 4, 2⟩, ⟨0x7018, 4, 3⟩] s (drainChan wr lane s) := by
  unfold drainChan
  try dsimp only
  repeat' first
    | simp +decide (maxDischargeDepth := 8) only [Within.iff_of (takeRq_within _ _ _ _ ), Within.iff_of (setChan_within _ _ _ _ ), *, Within.self, Within.mk_iff, Within.forEach_iff, Within.when_iff, Within.clear_iff, Within.ite_of, spansIn_idx, spansIn_wu, and_self, implies_true, id_eq, ne_eq, not_false_eq_true, reduceCtorEq]
    | split
    | with_reducible refine Within.trans ?_ (Within.forEach (fun _ _ => ?_) _ _)
    | with_reducible refine Within.trans ?_ (Within.when (fun _ => ?_) _ _)

theorem presentRq_within (wr : Bool) (lane : Nat) (rq : BitVec 64) (s : State) :
    Within [⟨0x1818, 0, 1⟩, ⟨0x5600, 0x20, 12⟩, ⟨0x6014, 0, 1⟩, ⟨0x7000, 4, 2⟩, ⟨0x7018, 4, 3⟩] s (presentRq wr lane rq s) := by
  unfold presentRq
  try dsimp only
  repeat' first
    | simp +decide (maxDischargeDepth := 8) only [Within.iff_of (setChan_within _ _ _ _ ), Within.iff_of (drainChan_within _ _ _ ), *, Within.self, Within.mk_iff, Within.forEach_iff, Within.when_iff, Within.clear_iff, Within.ite_of, spansIn_idx, spansIn_wu, and_self, implies_true, id_eq, ne_eq, not_false_eq_true, reduceCtorEq]
    | split
    | with_reducible refine Within.trans ?_ (Within.forEach (fun _ _ => ?_) _ _)
    | with_reducible refine Within.trans ?_ (Within.when (fun _ => ?_) _ _)

theorem dropSlip_within (sid : Nat) (s : State) :
    Within [⟨0x6808, 0, 1⟩, ⟨0x6A1C, 0x40, 4⟩] s (dropSlip sid s) := by
  unfold dropSlip
  try dsimp only
  repeat' first
    | simp +decide (maxDischargeDepth := 8) only [Within.iff_of (watchRelease_within _ _ ), *, Within.self, Within.mk_iff, Within.forEach_iff, Within.when_iff, Within.clear_iff, Within.ite_of, spansIn_idx, spansIn_wu, and_self, implies_true, id_eq, ne_eq, not_false_eq_true, reduceCtorEq]
    | split
    | with_reducible refine Within.trans ?_ (Within.forEach (fun _ _ => ?_) _ _)
    | with_reducible refine Within.trans ?_ (Within.when (fun _ => ?_) _ _)

theorem lengthMismatch_within (x : Slip) (s : State) :
    Within [⟨0x3008, 4, 2⟩, ⟨0x6014, 0, 1⟩, ⟨0x7000, 4, 2⟩, ⟨0x7018, 4, 3⟩] s (lengthMismatch x s) := by
  unfold lengthMismatch
  try dsimp only
  repeat' first
    | simp +decide (maxDischargeDepth := 8) only [Within.iff_of (raise_within _ _ ), Within.iff_of (fillLog_within _ _ _ _ ), Within.iff_of (updSlip_within _ _ _ ), *, Within.self, Within.mk_iff, Within.forEach_iff, Within.when_iff, Within.clear_iff, Within.ite_of, spansIn_idx, spansIn_wu, and_self, implies_true, id_eq, ne_eq, not_false_eq_true, reduceCtorEq]
    | split
    | with_reducible refine Within.trans ?_ (Within.forEach (fun _ _ => ?_) _ _)
    | with_reducible refine Within.trans ?_ (Within.when (fun _ => ?_) _ _)

theorem receiveFlit_within (sid : Nat) (last : Bool) (s : State) :
    Within [⟨0x3008, 4, 2⟩, ⟨0x6014, 0, 1⟩, ⟨0x7000, 4, 2⟩, ⟨0x7018, 4, 3⟩] s (receiveFlit sid last s) := by
  unfold receiveFlit
  try dsimp only
  repeat' first
    | simp +decide (maxDischargeDepth := 8) only [Within.iff_of (updSlip_within _ _ _ ), Within.iff_of (lengthMismatch_within _ _ ), *, Within.self, Within.mk_iff, Within.forEach_iff, Within.when_iff, Within.clear_iff, Within.ite_of, spansIn_idx, spansIn_wu, and_self, implies_true, id_eq, ne_eq, not_false_eq_true, reduceCtorEq]
    | split
    | with_reducible refine Within.trans ?_ (Within.forEach (fun _ _ => ?_) _ _)
    | with_reducible refine Within.trans ?_ (Within.when (fun _ => ?_) _ _)

theorem freeTaken_within (sid : Nat) (s : State) :
    Within [] s (freeTaken sid s) := Within.of_only (freeTaken_only sid s) (by decide)

theorem takeStaged_within (sid : Nat) (l : List WFlit) (s : State) : Within [⟨0x3008, 4, 2⟩, ⟨0x6014, 0, 1⟩, ⟨0x7000, 4, 2⟩, ⟨0x7018, 4, 3⟩] s (takeStaged sid l s) := by
  induction l generalizing s with
  | nil => exact Within.refl _ _
  | cons f fs ih =>
    unfold takeStaged
    repeat' first
      | simp +decide (maxDischargeDepth := 8) only [Within.iff_of (ih _), Within.iff_of (updSlip_within _ _ _), Within.iff_of (receiveFlit_within _ _ _), *, Within.self, Within.mk_iff, Within.forEach_iff, Within.when_iff, Within.clear_iff, Within.ite_of, spansIn_idx, spansIn_wu, and_self, implies_true, id_eq, ne_eq, not_false_eq_true, reduceCtorEq]
      | split

theorem unsealFlit_within (lane : Nat) (ofSlip : Bool) (sid : Option Nat) (data : Row) (s : State) :
    Within [⟨0x4890, 4, 32⟩, ⟨0x6014, 0, 1⟩, ⟨0x7000, 4, 2⟩, ⟨0x7018, 4, 3⟩] s (unsealFlit lane ofSlip sid data s).2 := by
  unfold unsealFlit
  try dsimp only
  repeat' first
    | simp +decide (maxDischargeDepth := 8) only [Within.iff_of (updSlip_within _ _ _ ), Within.iff_of (sealFlit_within _ _ _ ), *, Within.self, Within.mk_iff, Within.forEach_iff, Within.when_iff, Within.clear_iff, Within.ite_of, spansIn_idx, spansIn_wu, and_self, implies_true, id_eq, ne_eq, not_false_eq_true, reduceCtorEq]
    | (refine Within.snd (by assumption) (sealFlit_within _ _ _ ) (by decide) ?_)
    | split
    | with_reducible refine Within.trans ?_ (Within.forEach (fun _ _ => ?_) _ _)
    | with_reducible refine Within.trans ?_ (Within.when (fun _ => ?_) _ _)

theorem stageFlit_within (lane : Nat) (f : WFlit) (s : State) :
    Within [] s (stageFlit lane f s) := Within.of_only (stageFlit_only lane f s) (by decide)

theorem popWdcq_within (lane : Nat) (s : State) :
    Within [] s (popWdcq lane s) := Within.of_only (popWdcq_only lane s) (by decide)

theorem stagePlain_within (lane : Nat) (sid : Option Nat) (d : Row × BitVec 81) (s : State) :
    Within [⟨0x4890, 4, 32⟩, ⟨0x6014, 0, 1⟩, ⟨0x7000, 4, 2⟩, ⟨0x7018, 4, 3⟩] s (stagePlain lane sid d s) := by
  unfold stagePlain
  try dsimp only
  repeat' first
    | simp +decide (maxDischargeDepth := 8) only [Within.iff_of (unsealFlit_within _ _ _ _ _ ), Within.iff_of (stageFlit_within _ _ _ ), Within.iff_of (popWdcq_within _ _ ), *, Within.self, Within.mk_iff, Within.forEach_iff, Within.when_iff, Within.clear_iff, Within.ite_of, spansIn_idx, spansIn_wu, and_self, implies_true, id_eq, ne_eq, not_false_eq_true, reduceCtorEq]
    | (refine Within.snd (by assumption) (unsealFlit_within _ _ _ _ _ ) (by decide) ?_)
    | split
    | with_reducible refine Within.trans ?_ (Within.forEach (fun _ _ => ?_) _ _)
    | with_reducible refine Within.trans ?_ (Within.when (fun _ => ?_) _ _)

theorem stageSlip_within (lane : Nat) (x : Slip) (par : Mask4) (d : Row × BitVec 81) (s : State) :
    Within [⟨0x2040, 4, 8⟩, ⟨0x3008, 4, 2⟩, ⟨0x4890, 4, 32⟩, ⟨0x5A00, 8, 9⟩, ⟨0x6014, 0, 1⟩, ⟨0x7000, 4, 2⟩, ⟨0x7018, 4, 3⟩] s (stageSlip lane x par d s) := by
  unfold stageSlip
  try dsimp only
  repeat' first
    | simp +decide (maxDischargeDepth := 8) only [Within.iff_of (estimate_within _ _ _ ), Within.iff_of (updSlip_within _ _ _ ), Within.iff_of (raiseBlend_within _ _ _ ), Within.iff_of (progress_within _ _ ), Within.iff_of (blendParity_within _ _ ), Within.iff_of (receiveFlit_within _ _ _ ), Within.iff_of (freeTaken_within _ _ ), Within.iff_of (unsealFlit_within _ _ _ _ _ ), Within.iff_of (stageFlit_within _ _ _ ), Within.iff_of (popWdcq_within _ _ ), *, Within.self, Within.mk_iff, Within.forEach_iff, Within.when_iff, Within.clear_iff, Within.ite_of, spansIn_idx, spansIn_wu, and_self, implies_true, id_eq, ne_eq, not_false_eq_true, reduceCtorEq]
    | (refine Within.snd (by assumption) (unsealFlit_within _ _ _ _ _ ) (by decide) ?_)
    | split
    | with_reducible refine Within.trans ?_ (Within.forEach (fun _ _ => ?_) _ _)
    | with_reducible refine Within.trans ?_ (Within.when (fun _ => ?_) _ _)

theorem moveToStaging_within (lane : Nat) (par : Mask4) (d : Row × BitVec 81) (s : State) :
    Within [⟨0x2040, 4, 8⟩, ⟨0x3008, 4, 2⟩, ⟨0x4890, 4, 32⟩, ⟨0x5A00, 8, 9⟩, ⟨0x6014, 0, 1⟩, ⟨0x7000, 4, 2⟩, ⟨0x7018, 4, 3⟩] s (moveToStaging lane par d s) := by
  unfold moveToStaging
  try dsimp only
  repeat' first
    | simp +decide (maxDischargeDepth := 8) only [Within.iff_of (stageFlit_within _ _ _ ), Within.iff_of (popWdcq_within _ _ ), Within.iff_of (stagePlain_within _ _ _ _ ), Within.iff_of (stageSlip_within _ _ _ _ _ ), *, Within.self, Within.mk_iff, Within.forEach_iff, Within.when_iff, Within.clear_iff, Within.ite_of, spansIn_idx, spansIn_wu, and_self, implies_true, id_eq, ne_eq, not_false_eq_true, reduceCtorEq]
    | split
    | with_reducible refine Within.trans ?_ (Within.forEach (fun _ _ => ?_) _ _)
    | with_reducible refine Within.trans ?_ (Within.when (fun _ => ?_) _ _)

theorem execOwnReadRequest_within (onWr : Bool) (lane : Nat) (rq : BitVec 64) (s : State) (s' : State) (h : execOwnReadRequest onWr lane rq s = .next s') :
    Within [⟨0x1818, 0, 1⟩, ⟨0x5600, 0x20, 12⟩, ⟨0x6014, 0, 1⟩, ⟨0x7000, 4, 2⟩, ⟨0x7018, 4, 3⟩] s s' := by
  unfold execOwnReadRequest at h
  injection h with h
  subst h
  try dsimp only
  repeat' first
    | simp +decide (maxDischargeDepth := 8) only [Within.iff_of (presentRq_within _ _ _ _ ), *, Within.self, Within.mk_iff, Within.forEach_iff, Within.when_iff, Within.clear_iff, Within.ite_of, spansIn_idx, spansIn_wu, and_self, implies_true, id_eq, ne_eq, not_false_eq_true, reduceCtorEq]
    | split
    | with_reducible refine Within.trans ?_ (Within.forEach (fun _ _ => ?_) _ _)
    | with_reducible refine Within.trans ?_ (Within.when (fun _ => ?_) _ _)

theorem execOwnWriteRequest_within (onWr : Bool) (lane : Nat) (rq : BitVec 64) (s : State) (s' : State) (h : execOwnWriteRequest onWr lane rq s = .next s') :
    Within [⟨0x1818, 0, 1⟩, ⟨0x5600, 0x20, 12⟩, ⟨0x6014, 0, 1⟩, ⟨0x7000, 4, 2⟩, ⟨0x7018, 4, 3⟩] s s' := by
  unfold execOwnWriteRequest at h
  injection h with h
  subst h
  try dsimp only
  repeat' first
    | simp +decide (maxDischargeDepth := 8) only [Within.iff_of (presentRq_within _ _ _ _ ), *, Within.self, Within.mk_iff, Within.forEach_iff, Within.when_iff, Within.clear_iff, Within.ite_of, spansIn_idx, spansIn_wu, and_self, implies_true, id_eq, ne_eq, not_false_eq_true, reduceCtorEq]
    | split
    | with_reducible refine Within.trans ?_ (Within.forEach (fun _ _ => ?_) _ _)
    | with_reducible refine Within.trans ?_ (Within.when (fun _ => ?_) _ _)

theorem execOwnAtomicRequest_within (onWr : Bool) (lane : Nat) (rq : BitVec 64) (s : State) (s' : State) (h : execOwnAtomicRequest onWr lane rq s = .next s') :
    Within [⟨0x1818, 0, 1⟩, ⟨0x5600, 0x20, 12⟩, ⟨0x6014, 0, 1⟩, ⟨0x7000, 4, 2⟩, ⟨0x7018, 4, 3⟩] s s' := by
  unfold execOwnAtomicRequest at h
  injection h with h
  subst h
  try dsimp only
  repeat' first
    | simp +decide (maxDischargeDepth := 8) only [Within.iff_of (presentRq_within _ _ _ _ ), *, Within.self, Within.mk_iff, Within.forEach_iff, Within.when_iff, Within.clear_iff, Within.ite_of, spansIn_idx, spansIn_wu, and_self, implies_true, id_eq, ne_eq, not_false_eq_true, reduceCtorEq]
    | split
    | with_reducible refine Within.trans ?_ (Within.forEach (fun _ _ => ?_) _ _)
    | with_reducible refine Within.trans ?_ (Within.when (fun _ => ?_) _ _)

theorem execWriteFlitTaken_within (lane : Nat) (data : Row) (sb : BitVec 81) (s : State) (s' : State) (h : execWriteFlitTaken lane data sb s = .next s') :
    Within [] s s' := Within.of_only (execWriteFlitTaken_only lane data sb s s' h) (by decide)

theorem execDcqCrossing_within (kind : DcqKind) (lane : Nat) (s : State) (s' : State) (h : execDcqCrossing kind lane s = .next s') :
    Within [⟨0x1818, 0, 1⟩, ⟨0x5600, 0x20, 12⟩, ⟨0x6014, 0, 1⟩, ⟨0x7000, 4, 2⟩, ⟨0x7018, 4, 3⟩] s s' := by
  unfold execDcqCrossing at h
  injection h with h
  subst h
  try dsimp only
  repeat' first
    | simp +decide (maxDischargeDepth := 8) only [Within.iff_of (updRlane_within _ _ _ ), Within.iff_of (updWlane_within _ _ _ ), Within.iff_of (setChan_within _ _ _ _ ), Within.iff_of (drainChan_within _ _ _ ), *, Within.self, Within.mk_iff, Within.forEach_iff, Within.when_iff, Within.clear_iff, Within.ite_of, spansIn_idx, spansIn_wu, and_self, implies_true, id_eq, ne_eq, not_false_eq_true, reduceCtorEq]
    | split
    | with_reducible refine Within.trans ?_ (Within.forEach (fun _ _ => ?_) _ _)
    | with_reducible refine Within.trans ?_ (Within.when (fun _ => ?_) _ _)

theorem execWriteFlitToStaging_within (lane : Nat) (par : Mask4) (s : State) (s' : State) (h : execWriteFlitToStaging lane par s = .next s') :
    Within [⟨0x2040, 4, 8⟩, ⟨0x3008, 4, 2⟩, ⟨0x4890, 4, 32⟩, ⟨0x5A00, 8, 9⟩, ⟨0x6014, 0, 1⟩, ⟨0x7000, 4, 2⟩, ⟨0x7018, 4, 3⟩] s s' := by
  unfold execWriteFlitToStaging at h
  injection h with h
  subst h
  try dsimp only
  repeat' first
    | simp +decide (maxDischargeDepth := 8) only [Within.iff_of (moveToStaging_within _ _ _ _ ), *, Within.self, Within.mk_iff, Within.forEach_iff, Within.when_iff, Within.clear_iff, Within.ite_of, spansIn_idx, spansIn_wu, and_self, implies_true, id_eq, ne_eq, not_false_eq_true, reduceCtorEq]
    | split
    | with_reducible refine Within.trans ?_ (Within.forEach (fun _ _ => ?_) _ _)
    | with_reducible refine Within.trans ?_ (Within.when (fun _ => ?_) _ _)

theorem execReadFlitTake_within (lane : Nat) (s : State) (s' : State) (h : execReadFlitTake lane s = .next s') :
    Within [⟨0x6808, 0, 1⟩, ⟨0x6A1C, 0x40, 4⟩] s s' := by
  unfold execReadFlitTake at h
  injection h with h
  subst h
  try dsimp only
  repeat' first
    | simp +decide (maxDischargeDepth := 8) only [Within.iff_of (updSlip_within _ _ _ ), Within.iff_of (setRlane_within _ _ _ ), Within.iff_of (progress_within _ _ ), Within.iff_of (dropSlip_within _ _ ), *, Within.self, Within.mk_iff, Within.forEach_iff, Within.when_iff, Within.clear_iff, Within.ite_of, spansIn_idx, spansIn_wu, and_self, implies_true, id_eq, ne_eq, not_false_eq_true, reduceCtorEq]
    | split
    | with_reducible refine Within.trans ?_ (Within.forEach (fun _ _ => ?_) _ _)
    | with_reducible refine Within.trans ?_ (Within.when (fun _ => ?_) _ _)

end Sys2Proof.Machine
end

