-- ==== Sys2Proof/Laws/WithinIssue.lean ====
section
/-!
SUPPORT. Laws/WithinIssue.lean: the registers and counters that the operations and commands of Machine/Issue.lean may change (generated
text, one lemma for each).
-/
namespace Sys2Proof.Machine

set_option linter.unusedSimpArgs false
set_option linter.tactic.unusedName false

theorem joinOrders_within (id : Nat) (t : Tr) (s : State) :
    Within [] s (joinOrders id t s) := Within.of_only (joinOrders_only id t s) (by decide)

theorem takeClaim_within (x : Slip) (s : State) :
    Within [⟨0x3008, 4, 2⟩, ⟨0x6014, 0, 1⟩, ⟨0x7000, 4, 2⟩, ⟨0x7018, 4, 3⟩] s (takeClaim x s) := by
  unfold takeClaim
  try dsimp only
  repeat' first
    | simp +decide (maxDischargeDepth := 8) only [Within.iff_of (updWlane_within _ _ _ ), Within.iff_of (freeTaken_within _ _ ), Within.iff_of (takeStaged_within _ _ _ ), *, Within.self, Within.mk_iff, Within.forEach_iff, Within.when_iff, Within.clear_iff, Within.ite_of, spansIn_idx, spansIn_wu, and_self, implies_true, id_eq, ne_eq, not_false_eq_true, reduceCtorEq]
    | split
    | with_reducible refine Within.trans ?_ (Within.forEach (fun _ _ => ?_) _ _)
    | with_reducible refine Within.trans ?_ (Within.when (fun _ => ?_) _ _)

theorem issueTr_within (t : Tr) (s : State) :
    Within [⟨0x3008, 4, 2⟩, ⟨0x6014, 0, 1⟩, ⟨0x7000, 4, 2⟩, ⟨0x7018, 4, 3⟩] s (issueTr t s) := by
  unfold issueTr
  try dsimp only
  repeat' first
    | simp +decide (maxDischargeDepth := 8) only [Within.iff_of (updSlip_within _ _ _ ), Within.iff_of (addTr_within _ _ ), Within.iff_of (setTr_within _ _ ), Within.iff_of (joinOrders_within _ _ _ ), Within.iff_of (takeClaim_within _ _ ), *, Within.self, Within.mk_iff, Within.forEach_iff, Within.when_iff, Within.clear_iff, Within.ite_of, spansIn_idx, spansIn_wu, and_self, implies_true, id_eq, ne_eq, not_false_eq_true, reduceCtorEq]
    | split
    | with_reducible refine Within.trans ?_ (Within.forEach (fun _ _ => ?_) _ _)
    | with_reducible refine Within.trans ?_ (Within.when (fun _ => ?_) _ _)

theorem issueGo_within (l : List Tr) (s : State) : Within [⟨0x3008, 4, 2⟩, ⟨0x6014, 0, 1⟩, ⟨0x7000, 4, 2⟩, ⟨0x7018, 4, 3⟩] s (issueGo l s) := by
  induction l generalizing s with
  | nil => exact Within.refl _ _
  | cons t ts ih =>
    unfold issueGo
    repeat' first
      | simp +decide (maxDischargeDepth := 8) only [Within.iff_of (ih _), Within.iff_of (issueTr_within _ _), *, Within.self, Within.mk_iff, Within.forEach_iff, Within.when_iff, Within.clear_iff, Within.ite_of, spansIn_idx, spansIn_wu, and_self, implies_true, id_eq, ne_eq, not_false_eq_true, reduceCtorEq]
      | split

theorem transferScales_within (x : Slip) (t : Tr) (rows : List (List (Nat × Bool))) (s : State) :
    Within [] s (transferScales x t rows s) := Within.of_only (transferScales_only x t rows s) (by decide)

theorem giveRows_within (t : Tr) (rows : List StoredRow) (s : State) :
    Within [] s (giveRows t rows s) := Within.of_only (giveRows_only t rows s) (by decide)

theorem slipRequest_within (x : Slip) (t : Tr) (s : State) :
    Within [⟨0x1A00, 4, 8⟩] s (slipRequest x t s) := by
  unfold slipRequest
  try dsimp only
  repeat' first
    | simp +decide (maxDischargeDepth := 8) only [Within.iff_of (estimate_within _ _ _ ), Within.iff_of (updSlip_within _ _ _ ), Within.iff_of (setTr_within _ _ ), Within.iff_of (raiseCvt_within _ _ _ ), Within.iff_of (transferScales_within _ _ _ _ ), Within.iff_of (giveRows_within _ _ _ ), *, Within.self, Within.mk_iff, Within.forEach_iff, Within.when_iff, Within.clear_iff, Within.ite_of, spansIn_idx, spansIn_wu, and_self, implies_true, id_eq, ne_eq, not_false_eq_true, reduceCtorEq]
    | split
    | with_reducible refine Within.trans ?_ (Within.forEach (fun _ _ => ?_) _ _)
    | with_reducible refine Within.trans ?_ (Within.when (fun _ => ?_) _ _)

theorem dropFlits_within (lane : Nat) (t : Tr) (s : State) :
    Within [] s (dropFlits lane t s) := Within.of_only (dropFlits_only lane t s) (by decide)

theorem execLaneIssue_within (s : State) (s' : State) (h : execLaneIssue s = .next s') :
    Within [⟨0x3008, 4, 2⟩, ⟨0x6014, 0, 1⟩, ⟨0x7000, 4, 2⟩, ⟨0x7018, 4, 3⟩] s s' := by
  unfold execLaneIssue at h
  injection h with h
  subst h
  try dsimp only
  repeat' first
    | simp +decide (maxDischargeDepth := 8) only [Within.iff_of (issueGo_within _ _ ), *, Within.self, Within.mk_iff, Within.forEach_iff, Within.when_iff, Within.clear_iff, Within.ite_of, spansIn_idx, spansIn_wu, and_self, implies_true, id_eq, ne_eq, not_false_eq_true, reduceCtorEq]
    | split
    | with_reducible refine Within.trans ?_ (Within.forEach (fun _ _ => ?_) _ _)
    | with_reducible refine Within.trans ?_ (Within.when (fun _ => ?_) _ _)

theorem execWriteTransferRequest_within (lane : Nat) (s : State) (s' : State) (h : execWriteTransferRequest lane s = .next s') :
    Within [⟨0x1A00, 4, 8⟩] s s' := by
  unfold execWriteTransferRequest at h
  injection h with h
  subst h
  try dsimp only
  repeat' first
    | simp +decide (maxDischargeDepth := 8) only [Within.iff_of (giveRows_within _ _ _ ), Within.iff_of (slipRequest_within _ _ _ ), Within.iff_of (dropFlits_within _ _ _ ), *, Within.self, Within.mk_iff, Within.forEach_iff, Within.when_iff, Within.clear_iff, Within.ite_of, spansIn_idx, spansIn_wu, and_self, implies_true, id_eq, ne_eq, not_false_eq_true, reduceCtorEq]
    | split
    | with_reducible refine Within.trans ?_ (Within.forEach (fun _ _ => ?_) _ _)
    | with_reducible refine Within.trans ?_ (Within.when (fun _ => ?_) _ _)

end Sys2Proof.Machine
end

