-- ==== Sys2Proof/Laws/WithinPigeon.lean ====
section
/-!
SUPPORT. Laws/WithinPigeon.lean: the registers and counters that the operations and commands of Machine/Pigeon.lean may change (generated
text, one lemma for each).
-/
namespace Sys2Proof.Machine

set_option linter.unusedSimpArgs false
set_option linter.tactic.unusedName false

theorem setBkt_within (b : Nat) (k : Bkt) (s : State) :
    Within [] s (setBkt b k s) := Within.of_only (setBkt_only b k s) (by decide)

theorem updBkt_within (b : Nat) (f : Bkt → Bkt) (s : State) :
    Within [] s (updBkt b f s) := Within.of_only (updBkt_only b f s) (by decide)

theorem pigeonCycle_within (s : State) :
    Within [⟨0x5A90, 0x20, 16⟩, ⟨0x6014, 0, 1⟩, ⟨0x7000, 4, 2⟩, ⟨0x7018, 4, 3⟩] s (pigeonCycle s) := by
  unfold pigeonCycle
  try dsimp only
  repeat' first
    | simp +decide (maxDischargeDepth := 8) only [Within.iff_of (bump_within _ _ _ ), Within.iff_of (raise_within _ _ ), *, Within.self, Within.mk_iff, Within.forEach_iff, Within.when_iff, Within.clear_iff, Within.ite_of, spansIn_idx, spansIn_wu, and_self, implies_true, id_eq, ne_eq, not_false_eq_true, reduceCtorEq]
    | split
    | with_reducible refine Within.trans ?_ (Within.forEach (fun _ _ => ?_) _ _)
    | with_reducible refine Within.trans ?_ (Within.when (fun _ => ?_) _ _)

end Sys2Proof.Machine
end

