-- ==== Sys2Proof/Laws/WithinTick.lean ====
section
/-!
SUPPORT. Laws/WithinTick.lean: the registers and counters that the operations and commands of Machine/Tick.lean may change (generated
text, one lemma for each).
-/
namespace Sys2Proof.Machine

set_option linter.unusedSimpArgs false
set_option linter.tactic.unusedName false

theorem countStill_within (n : Nat) (s : State) :
    Within [] s (countStill n s) := Within.of_only (countStill_only n s) (by decide)

theorem tclk_within (n : Nat) (s : State) :
    Within [] s (tclk n s) := Within.of_only (tclk_only n s) (by decide)

end Sys2Proof.Machine
end

