-- ==== Sys2Proof/Laws/WithinForward.lean ====
section
/-!
SUPPORT. Laws/WithinForward.lean: the registers and counters that the operations and commands of Machine/Forward.lean may change (generated
text, one lemma for each).
-/
namespace Sys2Proof.Machine

set_option linter.unusedSimpArgs false
set_option linter.tactic.unusedName false

theorem unpend_within (kind unit : Nat) (s : State) :
    Within [] s (unpend kind unit s) := Within.of_only (unpend_only kind unit s) (by decide)

theorem startBank_within (lb : Nat) (s : State) :
    Within [⟨0x6014, 0, 1⟩, ⟨0x7000, 4, 2⟩, ⟨0x7018, 4, 3⟩, ⟨0x7078, 4, 3⟩, ⟨0x7090, 4, 4⟩, ⟨0x7100, 4, 24⟩] s (startBank lb s) := by
  unfold startBank
  try dsimp only
  repeat' first
    | simp +decide (maxDischargeDepth := 8) only [Within.iff_of (orReg_within _ _ _ ), Within.iff_of (raise_within _ _ ), Within.iff_of (setPow_within _ _ _ ), Within.iff_of (finishMig_within _ _ _ _ ), Within.iff_of (unpend_within _ _ _ ), *, Within.self, Within.mk_iff, Within.forEach_iff, Within.when_iff, Within.clear_iff, Within.ite_of, spansIn_idx, spansIn_wu, and_self, implies_true, id_eq, ne_eq, not_false_eq_true, reduceCtorEq]
    | split
    | with_reducible refine Within.trans ?_ (Within.forEach (fun _ _ => ?_) _ _)
    | with_reducible refine Within.trans ?_ (Within.when (fun _ => ?_) _ _)

theorem setPlanes_within (kind : Nat) (act sp : BitVec 18) (s : State) :
    Within [] s (setPlanes kind act sp s) := Within.of_only (setPlanes_only kind act sp s) (by decide)

theorem wakeSpare_within (i : Nat) (s : State) :
    Within [⟨0x40A0, 0, 1⟩] s (wakeSpare i s) := by
  unfold wakeSpare
  try dsimp only
  repeat' first
    | simp +decide (maxDischargeDepth := 8) only [Within.iff_of (orReg_within _ _ _ ), Within.iff_of (setDom_within _ _ _ ), *, Within.self, Within.mk_iff, Within.forEach_iff, Within.when_iff, Within.clear_iff, Within.ite_of, spansIn_idx, spansIn_wu, and_self, implies_true, id_eq, ne_eq, not_false_eq_true, reduceCtorEq]
    | split
    | with_reducible refine Within.trans ?_ (Within.forEach (fun _ _ => ?_) _ _)
    | with_reducible refine Within.trans ?_ (Within.when (fun _ => ?_) _ _)

theorem retireDom_within (i : Nat) (s : State) :
    Within [⟨0x40A0, 0, 1⟩] s (retireDom i s) := by
  unfold retireDom
  try dsimp only
  repeat' first
    | simp +decide (maxDischargeDepth := 8) only [Within.iff_of (clrReg_within _ _ _ ), Within.iff_of (setDom_within _ _ _ ), *, Within.self, Within.mk_iff, Within.forEach_iff, Within.when_iff, Within.clear_iff, Within.ite_of, spansIn_idx, spansIn_wu, and_self, implies_true, id_eq, ne_eq, not_false_eq_true, reduceCtorEq]
    | split
    | with_reducible refine Within.trans ?_ (Within.forEach (fun _ _ => ?_) _ _)
    | with_reducible refine Within.trans ?_ (Within.when (fun _ => ?_) _ _)

theorem retirePlaneDom_within (k : Nat) (s : State) :
    Within [⟨0x40A0, 0, 1⟩] s (retirePlaneDom k s) := by
  unfold retirePlaneDom
  try dsimp only
  repeat' first
    | simp +decide (maxDischargeDepth := 8) only [Within.iff_of (retireDom_within _ _ ), *, Within.self, Within.mk_iff, Within.forEach_iff, Within.when_iff, Within.clear_iff, Within.ite_of, spansIn_idx, spansIn_wu, and_self, implies_true, id_eq, ne_eq, not_false_eq_true, reduceCtorEq]
    | split
    | with_reducible refine Within.trans ?_ (Within.forEach (fun _ _ => ?_) _ _)
    | with_reducible refine Within.trans ?_ (Within.when (fun _ => ?_) _ _)

theorem startPlane_within (kind k : Nat) (s : State) :
    Within [⟨0x40A0, 0, 1⟩, ⟨0x6014, 0, 1⟩, ⟨0x7000, 4, 2⟩, ⟨0x7018, 4, 3⟩, ⟨0x704C, 0, 1⟩] s (startPlane kind k s) := by
  unfold startPlane
  try dsimp only
  repeat' first
    | simp +decide (maxDischargeDepth := 8) only [Within.iff_of (orReg_within _ _ _ ), Within.iff_of (raise_within _ _ ), Within.iff_of (unpend_within _ _ _ ), Within.iff_of (setPlanes_within _ _ _ _ ), Within.iff_of (wakeSpare_within _ _ ), *, Within.self, Within.mk_iff, Within.forEach_iff, Within.when_iff, Within.clear_iff, Within.ite_of, spansIn_idx, spansIn_wu, and_self, implies_true, id_eq, ne_eq, not_false_eq_true, reduceCtorEq]
    | split
    | with_reducible refine Within.trans ?_ (Within.forEach (fun _ _ => ?_) _ _)
    | with_reducible refine Within.trans ?_ (Within.when (fun _ => ?_) _ _)

theorem startCluster_within (c : Nat) (s : State) :
    Within [⟨0x40A0, 0, 1⟩, ⟨0x6014, 0, 1⟩, ⟨0x7000, 4, 2⟩, ⟨0x7018, 4, 3⟩] s (startCluster c s) := by
  unfold startCluster
  try dsimp only
  repeat' first
    | simp +decide (maxDischargeDepth := 8) only [Within.iff_of (raise_within _ _ ), Within.iff_of (unpend_within _ _ _ ), Within.iff_of (wakeSpare_within _ _ ), *, Within.self, Within.mk_iff, Within.forEach_iff, Within.when_iff, Within.clear_iff, Within.ite_of, spansIn_idx, spansIn_wu, and_self, implies_true, id_eq, ne_eq, not_false_eq_true, reduceCtorEq]
    | split
    | with_reducible refine Within.trans ?_ (Within.forEach (fun _ _ => ?_) _ _)
    | with_reducible refine Within.trans ?_ (Within.when (fun _ => ?_) _ _)

theorem substituteRow_within (row spare trig : Nat) (s : State) :
    Within [⟨0x6014, 0, 1⟩, ⟨0x7000, 4, 2⟩, ⟨0x7018, 4, 3⟩] s (substituteRow row spare trig s) := by
  unfold substituteRow
  try dsimp only
  repeat' first
    | simp +decide (maxDischargeDepth := 8) only [Within.iff_of (fwdDone_within _ _ _ _ _ _ ), *, Within.self, Within.mk_iff, Within.forEach_iff, Within.when_iff, Within.clear_iff, Within.ite_of, spansIn_idx, spansIn_wu, and_self, implies_true, id_eq, ne_eq, not_false_eq_true, reduceCtorEq]
    | split
    | with_reducible refine Within.trans ?_ (Within.forEach (fun _ _ => ?_) _ _)
    | with_reducible refine Within.trans ?_ (Within.when (fun _ => ?_) _ _)

theorem startRow_within (row : Nat) (s : State) :
    Within [⟨0x6014, 0, 1⟩, ⟨0x7000, 4, 2⟩, ⟨0x7018, 4, 3⟩] s (startRow row s) := by
  unfold startRow
  try dsimp only
  repeat' first
    | simp +decide (maxDischargeDepth := 8) only [Within.iff_of (raise_within _ _ ), Within.iff_of (unpend_within _ _ _ ), Within.iff_of (substituteRow_within _ _ _ _ ), *, Within.self, Within.mk_iff, Within.forEach_iff, Within.when_iff, Within.clear_iff, Within.ite_of, spansIn_idx, spansIn_wu, and_self, implies_true, id_eq, ne_eq, not_false_eq_true, reduceCtorEq]
    | split
    | with_reducible refine Within.trans ?_ (Within.forEach (fun _ _ => ?_) _ _)
    | with_reducible refine Within.trans ?_ (Within.when (fun _ => ?_) _ _)

theorem setMig_within (m : Mig) (s : State) :
    Within [] s (setMig m s) := Within.of_only (setMig_only m s) (by decide)

theorem copyRead_within (b : Beat) (s : State) :
    Within [] s (copyRead b s) := Within.of_only (copyRead_only b s) (by decide)

theorem copyWritten_within (s : State) :
    Within [] s (copyWritten s) := Within.of_only (copyWritten_only s) (by decide)

theorem askDual_within (s : State) :
    Within [] s (askDual s) := Within.of_only (askDual_only s) (by decide)

theorem dualWritten_within (s : State) :
    Within [] s (dualWritten s) := Within.of_only (dualWritten_only s) (by decide)

theorem settleMig_within (s : State) :
    Within [] s (settleMig s) := Within.of_only (settleMig_only s) (by decide)

theorem refuseFwd_within (s : State) :
    Within [⟨0x704C, 0, 1⟩] s (refuseFwd s) := by
  unfold refuseFwd
  try dsimp only
  repeat' first
    | simp +decide (maxDischargeDepth := 8) only [Within.iff_of (orReg_within _ _ _ ), *, Within.self, Within.mk_iff, Within.forEach_iff, Within.when_iff, Within.clear_iff, Within.ite_of, spansIn_idx, spansIn_wu, and_self, implies_true, id_eq, ne_eq, not_false_eq_true, reduceCtorEq]
    | split
    | with_reducible refine Within.trans ?_ (Within.forEach (fun _ _ => ?_) _ _)
    | with_reducible refine Within.trans ?_ (Within.when (fun _ => ?_) _ _)

theorem commandForward_within (kind unit : Nat) (s : State) :
    Within [⟨0x6014, 0, 1⟩, ⟨0x7000, 4, 2⟩, ⟨0x7018, 4, 3⟩, ⟨0x704C, 0, 1⟩] s (commandForward kind unit s) := by
  unfold commandForward
  try dsimp only
  repeat' first
    | simp +decide (maxDischargeDepth := 8) only [Within.iff_of (raise_within _ _ ), Within.iff_of (refuseFwd_within _ ), *, Within.self, Within.mk_iff, Within.forEach_iff, Within.when_iff, Within.clear_iff, Within.ite_of, spansIn_idx, spansIn_wu, and_self, implies_true, id_eq, ne_eq, not_false_eq_true, reduceCtorEq]
    | split
    | with_reducible refine Within.trans ?_ (Within.forEach (fun _ _ => ?_) _ _)
    | with_reducible refine Within.trans ?_ (Within.when (fun _ => ?_) _ _)

theorem commandCancel_within (s : State) :
    Within [⟨0x6014, 0, 1⟩, ⟨0x7000, 4, 2⟩, ⟨0x7018, 4, 3⟩, ⟨0x704C, 0, 1⟩] s (commandCancel s) := by
  unfold commandCancel
  try dsimp only
  repeat' first
    | simp +decide (maxDischargeDepth := 8) only [Within.iff_of (cancelMig_within _ ), Within.iff_of (refuseFwd_within _ ), *, Within.self, Within.mk_iff, Within.forEach_iff, Within.when_iff, Within.clear_iff, Within.ite_of, spansIn_idx, spansIn_wu, and_self, implies_true, id_eq, ne_eq, not_false_eq_true, reduceCtorEq]
    | split
    | with_reducible refine Within.trans ?_ (Within.forEach (fun _ _ => ?_) _ _)
    | with_reducible refine Within.trans ?_ (Within.when (fun _ => ?_) _ _)

theorem commandAck_within (s : State) :
    Within [⟨0x704C, 0, 1⟩] s (commandAck s) := by
  unfold commandAck
  try dsimp only
  repeat' first
    | simp +decide (maxDischargeDepth := 8) only [Within.iff_of (refuseFwd_within _ ), *, Within.self, Within.mk_iff, Within.forEach_iff, Within.when_iff, Within.clear_iff, Within.ite_of, spansIn_idx, spansIn_wu, and_self, implies_true, id_eq, ne_eq, not_false_eq_true, reduceCtorEq]
    | split
    | with_reducible refine Within.trans ?_ (Within.forEach (fun _ _ => ?_) _ _)
    | with_reducible refine Within.trans ?_ (Within.when (fun _ => ?_) _ _)

theorem commandResume_within (s : State) :
    Within [⟨0x704C, 0, 1⟩] s (commandResume s) := by
  unfold commandResume
  try dsimp only
  repeat' first
    | simp +decide (maxDischargeDepth := 8) only [Within.iff_of (clrReg_within _ _ _ ), *, Within.self, Within.mk_iff, Within.forEach_iff, Within.when_iff, Within.clear_iff, Within.ite_of, spansIn_idx, spansIn_wu, and_self, implies_true, id_eq, ne_eq, not_false_eq_true, reduceCtorEq]
    | split
    | with_reducible refine Within.trans ?_ (Within.forEach (fun _ _ => ?_) _ _)
    | with_reducible refine Within.trans ?_ (Within.when (fun _ => ?_) _ _)

theorem execFwdWindowEnd_within (s : State) (s' : State) (h : execFwdWindowEnd s = .next s') :
    Within [] s s' := Within.of_only (execFwdWindowEnd_only s s' h) (by decide)

theorem execStorm_within (s : State) (s' : State) (h : execStorm s = .next s') :
    Within [⟨0x6014, 0, 1⟩, ⟨0x7000, 4, 2⟩, ⟨0x7018, 4, 3⟩, ⟨0x704C, 0, 1⟩] s s' := by
  unfold execStorm at h
  injection h with h
  subst h
  try dsimp only
  repeat' first
    | simp +decide (maxDischargeDepth := 8) only [Within.iff_of (orReg_within _ _ _ ), Within.iff_of (raise_within _ _ ), Within.iff_of (openStorm_within _ ), *, Within.self, Within.mk_iff, Within.forEach_iff, Within.when_iff, Within.clear_iff, Within.ite_of, spansIn_idx, spansIn_wu, and_self, implies_true, id_eq, ne_eq, not_false_eq_true, reduceCtorEq]
    | split
    | with_reducible refine Within.trans ?_ (Within.forEach (fun _ _ => ?_) _ _)
    | with_reducible refine Within.trans ?_ (Within.when (fun _ => ?_) _ _)

theorem execFwdStart_within (kind : FwdKind) (s : State) (s' : State) (h : execFwdStart kind s = .next s') :
    Within [⟨0x40A0, 0, 1⟩, ⟨0x6014, 0, 1⟩, ⟨0x7000, 4, 2⟩, ⟨0x7018, 4, 3⟩, ⟨0x704C, 0, 1⟩, ⟨0x7078, 4, 3⟩, ⟨0x7090, 4, 4⟩, ⟨0x7100, 4, 24⟩] s s' := by
  unfold execFwdStart at h
  injection h with h
  subst h
  try dsimp only
  repeat' first
    | simp +decide (maxDischargeDepth := 8) only [Within.iff_of (startBank_within _ _ ), Within.iff_of (startPlane_within _ _ _ ), Within.iff_of (startCluster_within _ _ ), Within.iff_of (startRow_within _ _ ), *, Within.self, Within.mk_iff, Within.forEach_iff, Within.when_iff, Within.clear_iff, Within.ite_of, spansIn_idx, spansIn_wu, and_self, implies_true, id_eq, ne_eq, not_false_eq_true, reduceCtorEq]
    | split
    | with_reducible refine Within.trans ?_ (Within.forEach (fun _ _ => ?_) _ _)
    | with_reducible refine Within.trans ?_ (Within.when (fun _ => ?_) _ _)

theorem execMigrationCopyStart_within (s : State) (s' : State) (h : execMigrationCopyStart s = .next s') :
    Within [] s s' := Within.of_only (execMigrationCopyStart_only s s' h) (by decide)

theorem execCopyRow_within (ups : List Upset) (s : State) (s' : State) (h : execCopyRow ups s = .next s') :
    Within [] s s' := Within.of_only (execCopyRow_only ups s s' h) (by decide)

theorem execMigrationSwitch_within (s : State) (s' : State) (h : execMigrationSwitch s = .next s') :
    Within [⟨0x6014, 0, 1⟩, ⟨0x7000, 4, 2⟩, ⟨0x7018, 4, 3⟩, ⟨0x7078, 4, 3⟩, ⟨0x7090, 4, 4⟩, ⟨0x7100, 4, 24⟩] s s' := by
  unfold execMigrationSwitch at h
  injection h with h
  subst h
  try dsimp only
  repeat' first
    | simp +decide (maxDischargeDepth := 8) only [Within.iff_of (finishMig_within _ _ _ _ ), *, Within.self, Within.mk_iff, Within.forEach_iff, Within.when_iff, Within.clear_iff, Within.ite_of, spansIn_idx, spansIn_wu, and_self, implies_true, id_eq, ne_eq, not_false_eq_true, reduceCtorEq]
    | split
    | with_reducible refine Within.trans ?_ (Within.forEach (fun _ _ => ?_) _ _)
    | with_reducible refine Within.trans ?_ (Within.when (fun _ => ?_) _ _)

theorem execPlaneForwardDone_within (s : State) (s' : State) (h : execPlaneForwardDone s = .next s') :
    Within [⟨0x40A0, 0, 1⟩, ⟨0x6014, 0, 1⟩, ⟨0x7000, 4, 2⟩, ⟨0x7018, 4, 3⟩] s s' := by
  unfold execPlaneForwardDone at h
  injection h with h
  subst h
  try dsimp only
  repeat' first
    | simp +decide (maxDischargeDepth := 8) only [Within.iff_of (fwdDone_within _ _ _ _ _ _ ), Within.iff_of (setPlanes_within _ _ _ _ ), Within.iff_of (retirePlaneDom_within _ _ ), *, Within.self, Within.mk_iff, Within.forEach_iff, Within.when_iff, Within.clear_iff, Within.ite_of, spansIn_idx, spansIn_wu, and_self, implies_true, id_eq, ne_eq, not_false_eq_true, reduceCtorEq]
    | split
    | with_reducible refine Within.trans ?_ (Within.forEach (fun _ _ => ?_) _ _)
    | with_reducible refine Within.trans ?_ (Within.when (fun _ => ?_) _ _)

theorem execClusterRetire_within (s : State) (s' : State) (h : execClusterRetire s = .next s') :
    Within [⟨0x40A0, 0, 1⟩, ⟨0x6014, 0, 1⟩, ⟨0x7000, 4, 2⟩, ⟨0x7018, 4, 3⟩] s s' := by
  unfold execClusterRetire at h
  injection h with h
  subst h
  try dsimp only
  repeat' first
    | simp +decide (maxDischargeDepth := 8) only [Within.iff_of (fwdDone_within _ _ _ _ _ _ ), Within.iff_of (retireDom_within _ _ ), *, Within.self, Within.mk_iff, Within.forEach_iff, Within.when_iff, Within.clear_iff, Within.ite_of, spansIn_idx, spansIn_wu, and_self, implies_true, id_eq, ne_eq, not_false_eq_true, reduceCtorEq]
    | split
    | with_reducible refine Within.trans ?_ (Within.forEach (fun _ _ => ?_) _ _)
    | with_reducible refine Within.trans ?_ (Within.when (fun _ => ?_) _ _)

theorem execStatrowSubstitute_within (s : State) (s' : State) (h : execStatrowSubstitute s = .next s') :
    Within [⟨0x6014, 0, 1⟩, ⟨0x7000, 4, 2⟩, ⟨0x7018, 4, 3⟩] s s' := by
  unfold execStatrowSubstitute at h
  injection h with h
  subst h
  try dsimp only
  repeat' first
    | simp +decide (maxDischargeDepth := 8) only [Within.iff_of (substituteRow_within _ _ _ _ ), *, Within.self, Within.mk_iff, Within.forEach_iff, Within.when_iff, Within.clear_iff, Within.ite_of, spansIn_idx, spansIn_wu, and_self, implies_true, id_eq, ne_eq, not_false_eq_true, reduceCtorEq]
    | split
    | with_reducible refine Within.trans ?_ (Within.forEach (fun _ _ => ?_) _ _)
    | with_reducible refine Within.trans ?_ (Within.when (fun _ => ?_) _ _)

theorem execForward_within (a : BusAcc) (kind : BitVec 3) (unit : BitVec 12) (s : State) (s' : State) (h : execForward a kind unit s = .next s') :
    Within [⟨0x4804, 4, 2⟩, ⟨0x57B8, 0x40, 8⟩, ⟨0x5980, 0, 1⟩, ⟨0x6014, 0, 1⟩, ⟨0x7000, 4, 2⟩, ⟨0x7018, 4, 3⟩, ⟨0x704C, 0, 1⟩] s s' := by
  unfold execForward at h
  injection h with h
  subst h
  try dsimp only
  repeat' first
    | (with_reducible refine Within.trans ?_ (busWrite_within _ _ _ _ (by decide) (fun _ => ?_)))
    | simp +decide (maxDischargeDepth := 8) only [Within.iff_of (commandForward_within _ _ _ ), *, Within.self, Within.mk_iff, Within.forEach_iff, Within.when_iff, Within.clear_iff, Within.ite_of, spansIn_idx, spansIn_wu, and_self, implies_true, id_eq, ne_eq, not_false_eq_true, reduceCtorEq]
    | split
    | with_reducible refine Within.trans ?_ (Within.forEach (fun _ _ => ?_) _ _)
    | with_reducible refine Within.trans ?_ (Within.when (fun _ => ?_) _ _)

theorem execFwdCancel_within (a : BusAcc) (s : State) (s' : State) (h : execFwdCancel a s = .next s') :
    Within [⟨0x4804, 4, 2⟩, ⟨0x57B8, 0x40, 8⟩, ⟨0x5980, 0, 1⟩, ⟨0x6014, 0, 1⟩, ⟨0x7000, 4, 2⟩, ⟨0x7018, 4, 3⟩, ⟨0x704C, 0, 1⟩] s s' := by
  unfold execFwdCancel at h
  injection h with h
  subst h
  try dsimp only
  repeat' first
    | (with_reducible refine Within.trans ?_ (busWrite_within _ _ _ _ (by decide) (fun _ => ?_)))
    | simp +decide (maxDischargeDepth := 8) only [Within.iff_of (commandCancel_within _ ), *, Within.self, Within.mk_iff, Within.forEach_iff, Within.when_iff, Within.clear_iff, Within.ite_of, spansIn_idx, spansIn_wu, and_self, implies_true, id_eq, ne_eq, not_false_eq_true, reduceCtorEq]
    | split
    | with_reducible refine Within.trans ?_ (Within.forEach (fun _ _ => ?_) _ _)
    | with_reducible refine Within.trans ?_ (Within.when (fun _ => ?_) _ _)

theorem execAck_within (a : BusAcc) (s : State) (s' : State) (h : execAck a s = .next s') :
    Within [⟨0x4804, 4, 2⟩, ⟨0x57B8, 0x40, 8⟩, ⟨0x5980, 0, 1⟩, ⟨0x6014, 0, 1⟩, ⟨0x7000, 4, 2⟩, ⟨0x7018, 4, 3⟩, ⟨0x704C, 0, 1⟩] s s' := by
  unfold execAck at h
  injection h with h
  subst h
  try dsimp only
  repeat' first
    | (with_reducible refine Within.trans ?_ (busWrite_within _ _ _ _ (by decide) (fun _ => ?_)))
    | simp +decide (maxDischargeDepth := 8) only [Within.iff_of (commandAck_within _ ), *, Within.self, Within.mk_iff, Within.forEach_iff, Within.when_iff, Within.clear_iff, Within.ite_of, spansIn_idx, spansIn_wu, and_self, implies_true, id_eq, ne_eq, not_false_eq_true, reduceCtorEq]
    | split
    | with_reducible refine Within.trans ?_ (Within.forEach (fun _ _ => ?_) _ _)
    | with_reducible refine Within.trans ?_ (Within.when (fun _ => ?_) _ _)

theorem execResumeauto_within (a : BusAcc) (s : State) (s' : State) (h : execResumeauto a s = .next s') :
    Within [⟨0x4804, 4, 2⟩, ⟨0x57B8, 0x40, 8⟩, ⟨0x5980, 0, 1⟩, ⟨0x6014, 0, 1⟩, ⟨0x7000, 4, 2⟩, ⟨0x7018, 4, 3⟩, ⟨0x704C, 0, 1⟩] s s' := by
  unfold execResumeauto at h
  injection h with h
  subst h
  try dsimp only
  repeat' first
    | (with_reducible refine Within.trans ?_ (busWrite_within _ _ _ _ (by decide) (fun _ => ?_)))
    | simp +decide (maxDischargeDepth := 8) only [Within.iff_of (commandResume_within _ ), *, Within.self, Within.mk_iff, Within.forEach_iff, Within.when_iff, Within.clear_iff, Within.ite_of, spansIn_idx, spansIn_wu, and_self, implies_true, id_eq, ne_eq, not_false_eq_true, reduceCtorEq]
    | split
    | with_reducible refine Within.trans ?_ (Within.forEach (fun _ _ => ?_) _ _)
    | with_reducible refine Within.trans ?_ (Within.when (fun _ => ?_) _ _)

theorem execStormWindowEnd_within (s : State) (s' : State) (h : execStormWindowEnd s = .next s') :
    Within [] s s' := Within.of_only (execStormWindowEnd_only s s' h) (by decide)

end Sys2Proof.Machine
end

