-- ==== Sys2Proof/Laws/WithinSlips.lean ====
section
/-!
SUPPORT. Laws/WithinSlips.lean: the registers and counters that the operations and commands of Machine/Slips.lean may change (generated
text, one lemma for each).
-/
namespace Sys2Proof.Machine

set_option linter.unusedSimpArgs false
set_option linter.tactic.unusedName false

theorem tallyAdd_within (n t : Nat) (s : State) :
    Within [⟨0x3700, 4, 64⟩] s (tallyAdd n t s) := by
  unfold tallyAdd
  try dsimp only
  repeat' first
    | simp +decide (maxDischargeDepth := 8) only [Within.iff_of (setReg_within _ _ _ ), *, Within.self, Within.mk_iff, Within.forEach_iff, Within.when_iff, Within.clear_iff, Within.ite_of, spansIn_idx, spansIn_wu, and_self, implies_true, id_eq, ne_eq, not_false_eq_true, reduceCtorEq]
    | split
    | with_reducible refine Within.trans ?_ (Within.forEach (fun _ _ => ?_) _ _)
    | with_reducible refine Within.trans ?_ (Within.when (fun _ => ?_) _ _)

theorem slipLog_within (kind q reason : Nat) (w : BitVec 512) (ent : Nat) (s : State) :
    Within [⟨0x3008, 4, 2⟩] s (slipLog kind q reason w ent s) := by
  unfold slipLog
  try dsimp only
  repeat' first
    | simp +decide (maxDischargeDepth := 8) only [Within.iff_of (fillLog_within _ _ _ _ ), *, Within.self, Within.mk_iff, Within.forEach_iff, Within.when_iff, Within.clear_iff, Within.ite_of, spansIn_idx, spansIn_wu, and_self, implies_true, id_eq, ne_eq, not_false_eq_true, reduceCtorEq]
    | split
    | with_reducible refine Within.trans ?_ (Within.forEach (fun _ _ => ?_) _ _)
    | with_reducible refine Within.trans ?_ (Within.when (fun _ => ?_) _ _)

theorem settleHead_within (q : Nat) (s : State) :
    Within [⟨0x3008, 4, 2⟩, ⟨0x5790, 0x40, 8⟩, ⟨0x6014, 0, 1⟩, ⟨0x7000, 4, 2⟩, ⟨0x7018, 4, 3⟩] s (settleHead q s) := by
  unfold settleHead
  try dsimp only
  repeat' first
    | simp +decide (maxDischargeDepth := 8) only [Within.iff_of (bump_within _ _ _ ), Within.iff_of (raise_within _ _ ), Within.iff_of (updQueue_within _ _ _ ), Within.iff_of (slipLog_within _ _ _ _ _ _ ), *, Within.self, Within.mk_iff, Within.forEach_iff, Within.when_iff, Within.clear_iff, Within.ite_of, spansIn_idx, spansIn_wu, and_self, implies_true, id_eq, ne_eq, not_false_eq_true, reduceCtorEq]
    | split
    | with_reducible refine Within.trans ?_ (Within.forEach (fun _ _ => ?_) _ _)
    | with_reducible refine Within.trans ?_ (Within.when (fun _ => ?_) _ _)

theorem refuseCommit_within (q : Nat) (s : State) :
    Within [⟨0x3008, 4, 2⟩, ⟨0x5798, 0x40, 8⟩, ⟨0x6014, 0, 1⟩, ⟨0x7000, 4, 2⟩, ⟨0x7018, 4, 3⟩] s (refuseCommit q s) := by
  unfold refuseCommit
  try dsimp only
  repeat' first
    | simp +decide (maxDischargeDepth := 8) only [Within.iff_of (bump_within _ _ _ ), Within.iff_of (raise_within _ _ ), Within.iff_of (fillLog_within _ _ _ _ ), *, Within.self, Within.mk_iff, Within.forEach_iff, Within.when_iff, Within.clear_iff, Within.ite_of, spansIn_idx, spansIn_wu, and_self, implies_true, id_eq, ne_eq, not_false_eq_true, reduceCtorEq]
    | split
    | with_reducible refine Within.trans ?_ (Within.forEach (fun _ _ => ?_) _ _)
    | with_reducible refine Within.trans ?_ (Within.when (fun _ => ?_) _ _)

theorem stageWord_within (q i : Nat) (w : Word) (s : State) :
    Within [] s (stageWord q i w s) := Within.of_only (stageWord_only q i w s) (by decide)

theorem writeStage_within (a : BusAcc) (q i : Nat) (w : Word) (s : State) :
    Within [] s (writeStage a q i w s) := Within.of_only (writeStage_only a q i w s) (by decide)

theorem commitStaged_within (q : Nat) (s : State) :
    Within [⟨0x3008, 4, 2⟩, ⟨0x310C, 0x10, 64⟩, ⟨0x5798, 0x40, 8⟩, ⟨0x6014, 0, 1⟩, ⟨0x7000, 4, 2⟩, ⟨0x7018, 4, 3⟩] s (commitStaged q s) := by
  unfold commitStaged
  try dsimp only
  repeat' first
    | simp +decide (maxDischargeDepth := 8) only [Within.iff_of (setRegF_within _ _ _ _ _ ), Within.iff_of (updQueue_within _ _ _ ), Within.iff_of (refuseCommit_within _ _ ), *, Within.self, Within.mk_iff, Within.forEach_iff, Within.when_iff, Within.clear_iff, Within.ite_of, spansIn_idx, spansIn_wu, and_self, implies_true, id_eq, ne_eq, not_false_eq_true, reduceCtorEq]
    | split
    | with_reducible refine Within.trans ?_ (Within.forEach (fun _ _ => ?_) _ _)
    | with_reducible refine Within.trans ?_ (Within.when (fun _ => ?_) _ _)

theorem commitSlip_within (a : BusAcc) (q : Nat) (w : Word) (s : State) :
    Within [⟨0x3008, 4, 2⟩, ⟨0x310C, 0x10, 64⟩, ⟨0x5798, 0x40, 8⟩, ⟨0x6014, 0, 1⟩, ⟨0x7000, 4, 2⟩, ⟨0x7018, 4, 3⟩] s (commitSlip a q w s) := by
  unfold commitSlip
  try dsimp only
  repeat' first
    | simp +decide (maxDischargeDepth := 8) only [Within.iff_of (updQueue_within _ _ _ ), Within.iff_of (refuseCommit_within _ _ ), Within.iff_of (stageWord_within _ _ _ _ ), Within.iff_of (commitStaged_within _ _ ), *, Within.self, Within.mk_iff, Within.forEach_iff, Within.when_iff, Within.clear_iff, Within.ite_of, spansIn_idx, spansIn_wu, and_self, implies_true, id_eq, ne_eq, not_false_eq_true, reduceCtorEq]
    | split
    | with_reducible refine Within.trans ?_ (Within.forEach (fun _ _ => ?_) _ _)
    | with_reducible refine Within.trans ?_ (Within.when (fun _ => ?_) _ _)

theorem markDecoded_within (q idx : Nat) (d : Nat) (s : State) :
    Within [] s (markDecoded q idx d s) := Within.of_only (markDecoded_only q idx d s) (by decide)

theorem beginSlip_within (x : Slip) (s : State) :
    Within [] s (beginSlip x s) := Within.of_only (beginSlip_only x s) (by decide)

theorem askSlots_within (sid : Nat) (s : State) :
    Within [] s (askSlots sid s) := Within.of_only (askSlots_only sid s) (by decide)

theorem beginData_within (path : Nat) (x : Slip) (s : State) :
    Within [⟨0x6014, 0, 1⟩, ⟨0x6A1C, 0x40, 4⟩, ⟨0x7000, 4, 2⟩, ⟨0x7018, 4, 3⟩] s (beginData path x s) := by
  unfold beginData
  try dsimp only
  repeat' first
    | simp +decide (maxDischargeDepth := 8) only [Within.iff_of (watchMatch_within _ _ ), Within.iff_of (sbegin_within _ _ ), Within.iff_of (beginSlip_within _ _ ), *, Within.self, Within.mk_iff, Within.forEach_iff, Within.when_iff, Within.clear_iff, Within.ite_of, spansIn_idx, spansIn_wu, and_self, implies_true, id_eq, ne_eq, not_false_eq_true, reduceCtorEq]
    | split
    | with_reducible refine Within.trans ?_ (Within.forEach (fun _ _ => ?_) _ _)
    | with_reducible refine Within.trans ?_ (Within.when (fun _ => ?_) _ _)

theorem startWith_within {ps : List Span} (q t : Nat) (act : Slip → State → State) (s : State) (ha : ∀ x s, Within ps s (act x s)) :
    Within ps s (startWith q t act s) := by
  unfold startWith
  split
  · exact ha _ s
  · exact Within.refl _ _

theorem dropClaim_within (x : Slip) (s : State) :
    Within [] s (dropClaim x s) := Within.of_only (dropClaim_only x s) (by decide)

theorem stopOnFault_within (x : Slip) (s : State) :
    Within [⟨0x3008, 4, 2⟩, ⟨0x6014, 0, 1⟩, ⟨0x7000, 4, 2⟩, ⟨0x7018, 4, 3⟩] s (stopOnFault x s) := by
  unfold stopOnFault
  try dsimp only
  repeat' first
    | simp +decide (maxDischargeDepth := 8) only [Within.iff_of (raise_within _ _ ), Within.iff_of (updQueue_within _ _ _ ), Within.iff_of (slipLog_within _ _ _ _ _ _ ), *, Within.self, Within.mk_iff, Within.forEach_iff, Within.when_iff, Within.clear_iff, Within.ite_of, spansIn_idx, spansIn_wu, and_self, implies_true, id_eq, ne_eq, not_false_eq_true, reduceCtorEq]
    | split
    | with_reducible refine Within.trans ?_ (Within.forEach (fun _ _ => ?_) _ _)
    | with_reducible refine Within.trans ?_ (Within.when (fun _ => ?_) _ _)

theorem endSlip_within (sid : Nat) (s : State) :
    Within [⟨0x3008, 4, 2⟩, ⟨0x5790, 0x40, 8⟩, ⟨0x57B0, 0x40, 8⟩, ⟨0x6014, 0, 1⟩, ⟨0x6808, 0, 1⟩, ⟨0x6A1C, 0x40, 4⟩, ⟨0x7000, 4, 2⟩, ⟨0x7018, 4, 3⟩] s (endSlip sid s) := by
  unfold endSlip
  try dsimp only
  repeat' first
    | simp +decide (maxDischargeDepth := 8) only [Within.iff_of (bump_within _ _ _ ), Within.iff_of (xbump_within _ _ _ ), Within.iff_of (updSlip_within _ _ _ ), Within.iff_of (updQueue_within _ _ _ ), Within.iff_of (progress_within _ _ ), Within.iff_of (maybeSend_within _ _ ), Within.iff_of (dropSlip_within _ _ ), Within.iff_of (settleHead_within _ _ ), Within.iff_of (dropClaim_within _ _ ), Within.iff_of (stopOnFault_within _ _ ), *, Within.self, Within.mk_iff, Within.forEach_iff, Within.when_iff, Within.clear_iff, Within.ite_of, spansIn_idx, spansIn_wu, and_self, implies_true, id_eq, ne_eq, not_false_eq_true, reduceCtorEq]
    | split
    | with_reducible refine Within.trans ?_ (Within.forEach (fun _ _ => ?_) _ _)
    | with_reducible refine Within.trans ?_ (Within.when (fun _ => ?_) _ _)

theorem forgetDecode_within (q : Nat) (s : State) :
    Within [] s (forgetDecode q s) := Within.of_only (forgetDecode_only q s) (by decide)

theorem resumeQueue_within (q : Nat) (s : State) :
    Within [⟨0x3008, 4, 2⟩, ⟨0x5790, 0x40, 8⟩, ⟨0x6014, 0, 1⟩, ⟨0x7000, 4, 2⟩, ⟨0x7018, 4, 3⟩] s (resumeQueue q s) := by
  unfold resumeQueue
  try dsimp only
  repeat' first
    | simp +decide (maxDischargeDepth := 8) only [Within.iff_of (updQueue_within _ _ _ ), Within.iff_of (settleHead_within _ _ ), Within.iff_of (forgetDecode_within _ _ ), *, Within.self, Within.mk_iff, Within.forEach_iff, Within.when_iff, Within.clear_iff, Within.ite_of, spansIn_idx, spansIn_wu, and_self, implies_true, id_eq, ne_eq, not_false_eq_true, reduceCtorEq]
    | split
    | with_reducible refine Within.trans ?_ (Within.forEach (fun _ _ => ?_) _ _)
    | with_reducible refine Within.trans ?_ (Within.when (fun _ => ?_) _ _)

theorem skipQueue_within (q : Nat) (s : State) :
    Within [⟨0x3008, 4, 2⟩, ⟨0x5790, 0x40, 8⟩, ⟨0x6014, 0, 1⟩, ⟨0x7000, 4, 2⟩, ⟨0x7018, 4, 3⟩] s (skipQueue q s) := by
  unfold skipQueue
  try dsimp only
  repeat' first
    | simp +decide (maxDischargeDepth := 8) only [Within.iff_of (updQueue_within _ _ _ ), Within.iff_of (settleHead_within _ _ ), Within.iff_of (resumeQueue_within _ _ ), *, Within.self, Within.mk_iff, Within.forEach_iff, Within.when_iff, Within.clear_iff, Within.ite_of, spansIn_idx, spansIn_wu, and_self, implies_true, id_eq, ne_eq, not_false_eq_true, reduceCtorEq]
    | split
    | with_reducible refine Within.trans ?_ (Within.forEach (fun _ _ => ?_) _ _)
    | with_reducible refine Within.trans ?_ (Within.when (fun _ => ?_) _ _)

theorem flushQueue_within (q : Nat) (s : State) :
    Within [⟨0x310C, 0x10, 64⟩] s (flushQueue q s) := by
  unfold flushQueue
  try dsimp only
  repeat' first
    | simp +decide (maxDischargeDepth := 8) only [Within.iff_of (setRegF_within _ _ _ _ _ ), Within.iff_of (updQueue_within _ _ _ ), *, Within.self, Within.mk_iff, Within.forEach_iff, Within.when_iff, Within.clear_iff, Within.ite_of, spansIn_idx, spansIn_wu, and_self, implies_true, id_eq, ne_eq, not_false_eq_true, reduceCtorEq]
    | split
    | with_reducible refine Within.trans ?_ (Within.forEach (fun _ _ => ?_) _ _)
    | with_reducible refine Within.trans ?_ (Within.when (fun _ => ?_) _ _)

theorem pauseQueue_within (q : Nat) (s : State) :
    Within [] s (pauseQueue q s) := Within.of_only (pauseQueue_only q s) (by decide)

theorem execSlipCommit_within (a : BusAcc) (q : BitVec 6) (w : Word) (s : State) (s' : State) (h : execSlipCommit a q w s = .next s') :
    Within [⟨0x3008, 4, 2⟩, ⟨0x310C, 0x10, 64⟩, ⟨0x4804, 4, 2⟩, ⟨0x5798, 0x40, 8⟩, ⟨0x57B8, 0x40, 8⟩, ⟨0x5980, 0, 1⟩, ⟨0x6014, 0, 1⟩, ⟨0x7000, 4, 2⟩, ⟨0x7018, 4, 3⟩] s s' := by
  unfold execSlipCommit at h
  injection h with h
  subst h
  try dsimp only
  repeat' first
    | (with_reducible refine Within.trans ?_ (busWrite_within _ _ _ _ (by decide) (fun _ => ?_)))
    | simp +decide (maxDischargeDepth := 8) only [Within.iff_of (commitSlip_within _ _ _ _ ), *, Within.self, Within.mk_iff, Within.forEach_iff, Within.when_iff, Within.clear_iff, Within.ite_of, spansIn_idx, spansIn_wu, and_self, implies_true, id_eq, ne_eq, not_false_eq_true, reduceCtorEq]
    | split
    | with_reducible refine Within.trans ?_ (Within.forEach (fun _ _ => ?_) _ _)
    | with_reducible refine Within.trans ?_ (Within.when (fun _ => ?_) _ _)

theorem execFetchOrder_within (q : BitVec 6) (s : State) (s' : State) (h : execFetchOrder q s = .next s') :
    Within [] s s' := Within.of_only (execFetchOrder_only q s s' h) (by decide)

theorem execSlipDecode_within (q : BitVec 6) (s : State) (s' : State) (h : execSlipDecode q s = .next s') :
    Within [⟨0x3008, 4, 2⟩, ⟨0x5790, 0x40, 8⟩, ⟨0x6014, 0, 1⟩, ⟨0x7000, 4, 2⟩, ⟨0x7018, 4, 3⟩] s s' := by
  unfold execSlipDecode at h
  injection h with h
  subst h
  try dsimp only
  repeat' first
    | simp +decide (maxDischargeDepth := 8) only [Within.iff_of (settleHead_within _ _ ), Within.iff_of (markDecoded_within _ _ _ _ ), *, Within.self, Within.mk_iff, Within.forEach_iff, Within.when_iff, Within.clear_iff, Within.ite_of, spansIn_idx, spansIn_wu, and_self, implies_true, id_eq, ne_eq, not_false_eq_true, reduceCtorEq]
    | split
    | with_reducible refine Within.trans ?_ (Within.forEach (fun _ _ => ?_) _ _)
    | with_reducible refine Within.trans ?_ (Within.when (fun _ => ?_) _ _)

theorem execNop_within (q : BitVec 6) (s : State) (s' : State) (h : execNop q s = .next s') :
    Within [⟨0x3008, 4, 2⟩, ⟨0x5790, 0x40, 8⟩, ⟨0x57B0, 0x40, 8⟩, ⟨0x6014, 0, 1⟩, ⟨0x6808, 0, 1⟩, ⟨0x6A1C, 0x40, 4⟩, ⟨0x7000, 4, 2⟩, ⟨0x7018, 4, 3⟩] s s' := by
  unfold execNop at h
  injection h with h
  subst h
  try dsimp only
  repeat' first
    | (with_reducible refine Within.trans ?_ (startWith_within _ _ _ _ (fun _ _ => ?_)))
    | simp +decide (maxDischargeDepth := 8) only [Within.iff_of (beginSlip_within _ _ ), Within.iff_of (endSlip_within _ _ ), *, Within.self, Within.mk_iff, Within.forEach_iff, Within.when_iff, Within.clear_iff, Within.ite_of, spansIn_idx, spansIn_wu, and_self, implies_true, id_eq, ne_eq, not_false_eq_true, reduceCtorEq]
    | split
    | with_reducible refine Within.trans ?_ (Within.forEach (fun _ _ => ?_) _ _)
    | with_reducible refine Within.trans ?_ (Within.when (fun _ => ?_) _ _)

theorem execRead_within (q : BitVec 6) (s : State) (s' : State) (h : execRead q s = .next s') :
    Within [⟨0x6014, 0, 1⟩, ⟨0x6A1C, 0x40, 4⟩, ⟨0x7000, 4, 2⟩, ⟨0x7018, 4, 3⟩] s s' := by
  unfold execRead at h
  injection h with h
  subst h
  try dsimp only
  repeat' first
    | (with_reducible refine Within.trans ?_ (startWith_within _ _ _ _ (fun _ _ => ?_)))
    | simp +decide (maxDischargeDepth := 8) only [Within.iff_of (askSlots_within _ _ ), Within.iff_of (beginData_within _ _ _ ), *, Within.self, Within.mk_iff, Within.forEach_iff, Within.when_iff, Within.clear_iff, Within.ite_of, spansIn_idx, spansIn_wu, and_self, implies_true, id_eq, ne_eq, not_false_eq_true, reduceCtorEq]
    | split
    | with_reducible refine Within.trans ?_ (Within.forEach (fun _ _ => ?_) _ _)
    | with_reducible refine Within.trans ?_ (Within.when (fun _ => ?_) _ _)

theorem execWrite_within (q : BitVec 6) (s : State) (s' : State) (h : execWrite q s = .next s') :
    Within [⟨0x6014, 0, 1⟩, ⟨0x6A1C, 0x40, 4⟩, ⟨0x7000, 4, 2⟩, ⟨0x7018, 4, 3⟩] s s' := by
  unfold execWrite at h
  injection h with h
  subst h
  try dsimp only
  repeat' first
    | (with_reducible refine Within.trans ?_ (startWith_within _ _ _ _ (fun _ _ => ?_)))
    | simp +decide (maxDischargeDepth := 8) only [Within.iff_of (askSlots_within _ _ ), Within.iff_of (beginData_within _ _ _ ), *, Within.self, Within.mk_iff, Within.forEach_iff, Within.when_iff, Within.clear_iff, Within.ite_of, spansIn_idx, spansIn_wu, and_self, implies_true, id_eq, ne_eq, not_false_eq_true, reduceCtorEq]
    | split
    | with_reducible refine Within.trans ?_ (Within.forEach (fun _ _ => ?_) _ _)
    | with_reducible refine Within.trans ?_ (Within.when (fun _ => ?_) _ _)

theorem execMove_within (q : BitVec 6) (s : State) (s' : State) (h : execMove q s = .next s') :
    Within [⟨0x6014, 0, 1⟩, ⟨0x6A1C, 0x40, 4⟩, ⟨0x7000, 4, 2⟩, ⟨0x7018, 4, 3⟩] s s' := by
  unfold execMove at h
  injection h with h
  subst h
  try dsimp only
  repeat' first
    | (with_reducible refine Within.trans ?_ (startWith_within _ _ _ _ (fun _ _ => ?_)))
    | simp +decide (maxDischargeDepth := 8) only [Within.iff_of (askSlots_within _ _ ), Within.iff_of (beginData_within _ _ _ ), *, Within.self, Within.mk_iff, Within.forEach_iff, Within.when_iff, Within.clear_iff, Within.ite_of, spansIn_idx, spansIn_wu, and_self, implies_true, id_eq, ne_eq, not_false_eq_true, reduceCtorEq]
    | split
    | with_reducible refine Within.trans ?_ (Within.forEach (fun _ _ => ?_) _ _)
    | with_reducible refine Within.trans ?_ (Within.when (fun _ => ?_) _ _)

theorem execHeld_within (q : BitVec 6) (s : State) (s' : State) (h : execHeld q s = .next s') : Within [⟨0x2500, 4, 64⟩, ⟨0x6014, 0, 1⟩, ⟨0x6A1C, 0x40, 4⟩, ⟨0x7000, 4, 2⟩, ⟨0x7018, 4, 3⟩] s s' := by
  unfold execHeld at h
  injection h with h
  subst h
  refine startWith_within _ _ _ _ fun x s => ?_
  have h1 : Within [⟨0x2500, 4, 64⟩, ⟨0x6014, 0, 1⟩, ⟨0x6A1C, 0x40, 4⟩, ⟨0x7000, 4, 2⟩, ⟨0x7018, 4, 3⟩] s (beginData 0 { x with held := some newHeld } s |> setReg (0x2500 + 4 * (x.q % 64)) 0) :=
    ((beginData_within _ _ _).mono (by decide)).trans ((setReg_within _ _ _).mono (spansIn_idx (by decide) (by decide)))
  dsimp only at h1 ⊢
  generalize setReg _ _ _ = u at h1 ⊢
  exact h1

theorem execAtomic_within (q : BitVec 6) (s : State) (s' : State) (h : execAtomic q s = .next s') :
    Within [] s s' := Within.of_only (execAtomic_only q s s' h) (by decide)

theorem execWait_within (q : BitVec 6) (s : State) (s' : State) (h : execWait q s = .next s') :
    Within [] s s' := Within.of_only (execWait_only q s s' h) (by decide)

theorem execWaitReached_within (q : BitVec 6) (s : State) (s' : State) (h : execWaitReached q s = .next s') :
    Within [] s s' := Within.of_only (execWaitReached_only q s s' h) (by decide)

theorem execSignal_within (q : BitVec 6) (s : State) (s' : State) (h : execSignal q s = .next s') :
    Within [⟨0x3008, 4, 2⟩, ⟨0x3700, 4, 64⟩, ⟨0x5790, 0x40, 8⟩, ⟨0x57B0, 0x40, 8⟩, ⟨0x6014, 0, 1⟩, ⟨0x6808, 0, 1⟩, ⟨0x6A1C, 0x40, 4⟩, ⟨0x7000, 4, 2⟩, ⟨0x7018, 4, 3⟩] s s' := by
  unfold execSignal at h
  injection h with h
  subst h
  try dsimp only
  repeat' first
    | (with_reducible refine Within.trans ?_ (startWith_within _ _ _ _ (fun _ _ => ?_)))
    | simp +decide (maxDischargeDepth := 8) only [Within.iff_of (tallyAdd_within _ _ _ ), Within.iff_of (beginSlip_within _ _ ), Within.iff_of (endSlip_within _ _ ), *, Within.self, Within.mk_iff, Within.forEach_iff, Within.when_iff, Within.clear_iff, Within.ite_of, spansIn_idx, spansIn_wu, and_self, implies_true, id_eq, ne_eq, not_false_eq_true, reduceCtorEq]
    | split
    | with_reducible refine Within.trans ?_ (Within.forEach (fun _ _ => ?_) _ _)
    | with_reducible refine Within.trans ?_ (Within.when (fun _ => ?_) _ _)

theorem execMark_within (q : BitVec 6) (s : State) (s' : State) (h : execMark q s = .next s') :
    Within [⟨0x3008, 4, 2⟩, ⟨0x5790, 0x40, 8⟩, ⟨0x57B0, 0x40, 8⟩, ⟨0x6014, 0, 1⟩, ⟨0x6808, 0, 1⟩, ⟨0x6A1C, 0x40, 4⟩, ⟨0x7000, 4, 2⟩, ⟨0x7018, 4, 3⟩] s s' := by
  unfold execMark at h
  injection h with h
  subst h
  try dsimp only
  repeat' first
    | (with_reducible refine Within.trans ?_ (startWith_within _ _ _ _ (fun _ _ => ?_)))
    | simp +decide (maxDischargeDepth := 8) only [Within.iff_of (genRec_within _ _ _ ), Within.iff_of (traceTrigger_within _ _ _ ), Within.iff_of (beginSlip_within _ _ ), Within.iff_of (endSlip_within _ _ ), *, Within.self, Within.mk_iff, Within.forEach_iff, Within.when_iff, Within.clear_iff, Within.ite_of, spansIn_idx, spansIn_wu, and_self, implies_true, id_eq, ne_eq, not_false_eq_true, reduceCtorEq]
    | split
    | with_reducible refine Within.trans ?_ (Within.forEach (fun _ _ => ?_) _ _)
    | with_reducible refine Within.trans ?_ (Within.when (fun _ => ?_) _ _)

theorem execHint_within (q : BitVec 6) (s : State) (s' : State) (h : execHint q s = .next s') :
    Within [⟨0x3008, 4, 2⟩, ⟨0x5790, 0x40, 8⟩, ⟨0x57B0, 0x40, 8⟩, ⟨0x59D8, 0, 1⟩, ⟨0x6014, 0, 1⟩, ⟨0x6808, 0, 1⟩, ⟨0x6A1C, 0x40, 4⟩, ⟨0x7000, 4, 2⟩, ⟨0x7018, 4, 3⟩] s s' := by
  unfold execHint at h
  injection h with h
  subst h
  try dsimp only
  repeat' first
    | (with_reducible refine Within.trans ?_ (startWith_within _ _ _ _ (fun _ _ => ?_)))
    | simp +decide (maxDischargeDepth := 8) only [Within.iff_of (bump_within _ _ _ ), Within.iff_of (addHint_within _ _ ), Within.iff_of (beginSlip_within _ _ ), Within.iff_of (endSlip_within _ _ ), *, Within.self, Within.mk_iff, Within.forEach_iff, Within.when_iff, Within.clear_iff, Within.ite_of, spansIn_idx, spansIn_wu, and_self, implies_true, id_eq, ne_eq, not_false_eq_true, reduceCtorEq]
    | split
    | with_reducible refine Within.trans ?_ (Within.forEach (fun _ _ => ?_) _ _)
    | with_reducible refine Within.trans ?_ (Within.when (fun _ => ?_) _ _)

theorem execFence_within (q : BitVec 6) (s : State) (s' : State) (h : execFence q s = .next s') :
    Within [] s s' := Within.of_only (execFence_only q s s' h) (by decide)

theorem execFenceMet_within (q : BitVec 6) (s : State) (s' : State) (h : execFenceMet q s = .next s') :
    Within [⟨0x3008, 4, 2⟩, ⟨0x5790, 0x40, 8⟩, ⟨0x57B0, 0x40, 8⟩, ⟨0x6014, 0, 1⟩, ⟨0x6808, 0, 1⟩, ⟨0x6A1C, 0x40, 4⟩, ⟨0x7000, 4, 2⟩, ⟨0x7018, 4, 3⟩] s s' := by
  unfold execFenceMet at h
  injection h with h
  subst h
  try dsimp only
  repeat' first
    | simp +decide (maxDischargeDepth := 8) only [Within.iff_of (updSlip_within _ _ _ ), Within.iff_of (endSlip_within _ _ ), *, Within.self, Within.mk_iff, Within.forEach_iff, Within.when_iff, Within.clear_iff, Within.ite_of, spansIn_idx, spansIn_wu, and_self, implies_true, id_eq, ne_eq, not_false_eq_true, reduceCtorEq]
    | split
    | with_reducible refine Within.trans ?_ (Within.forEach (fun _ _ => ?_) _ _)
    | with_reducible refine Within.trans ?_ (Within.when (fun _ => ?_) _ _)

theorem execStep_within (q : BitVec 6) (s : State) (s' : State) (h : execStep q s = .next s') :
    Within [⟨0x3008, 4, 2⟩, ⟨0x3040, 4, 8⟩, ⟨0x5790, 0x40, 8⟩, ⟨0x57B0, 0x40, 8⟩, ⟨0x6014, 0, 1⟩, ⟨0x6808, 0, 1⟩, ⟨0x6A1C, 0x40, 4⟩, ⟨0x7000, 4, 2⟩, ⟨0x7018, 4, 3⟩] s s' := by
  unfold execStep at h
  injection h with h
  subst h
  try dsimp only
  repeat' first
    | (with_reducible refine Within.trans ?_ (startWith_within _ _ _ _ (fun _ _ => ?_)))
    | simp +decide (maxDischargeDepth := 8) only [Within.iff_of (setReg_within _ _ _ ), Within.iff_of (genRec_within _ _ _ ), Within.iff_of (beginSlip_within _ _ ), Within.iff_of (endSlip_within _ _ ), *, Within.self, Within.mk_iff, Within.forEach_iff, Within.when_iff, Within.clear_iff, Within.ite_of, spansIn_idx, spansIn_wu, and_self, implies_true, id_eq, ne_eq, not_false_eq_true, reduceCtorEq]
    | split
    | with_reducible refine Within.trans ?_ (Within.forEach (fun _ _ => ?_) _ _)
    | with_reducible refine Within.trans ?_ (Within.when (fun _ => ?_) _ _)

theorem execSlipEnd_within (q : BitVec 6) (s : State) (s' : State) (h : execSlipEnd q s = .next s') :
    Within [⟨0x3008, 4, 2⟩, ⟨0x5790, 0x40, 8⟩, ⟨0x57B0, 0x40, 8⟩, ⟨0x6014, 0, 1⟩, ⟨0x6808, 0, 1⟩, ⟨0x6A1C, 0x40, 4⟩, ⟨0x7000, 4, 2⟩, ⟨0x7018, 4, 3⟩] s s' := by
  unfold execSlipEnd at h
  injection h with h
  subst h
  try dsimp only
  repeat' first
    | simp +decide (maxDischargeDepth := 8) only [Within.iff_of (endSlip_within _ _ ), *, Within.self, Within.mk_iff, Within.forEach_iff, Within.when_iff, Within.clear_iff, Within.ite_of, spansIn_idx, spansIn_wu, and_self, implies_true, id_eq, ne_eq, not_false_eq_true, reduceCtorEq]
    | split
    | with_reducible refine Within.trans ?_ (Within.forEach (fun _ _ => ?_) _ _)
    | with_reducible refine Within.trans ?_ (Within.when (fun _ => ?_) _ _)

theorem execQueueResume_within (a : BusAcc) (q : BitVec 6) (s : State) (s' : State) (h : execQueueResume a q s = .next s') :
    Within [⟨0x3008, 4, 2⟩, ⟨0x4804, 4, 2⟩, ⟨0x5790, 0x40, 8⟩, ⟨0x57B8, 0x40, 8⟩, ⟨0x5980, 0, 1⟩, ⟨0x6014, 0, 1⟩, ⟨0x7000, 4, 2⟩, ⟨0x7018, 4, 3⟩] s s' := by
  unfold execQueueResume at h
  injection h with h
  subst h
  try dsimp only
  repeat' first
    | (with_reducible refine Within.trans ?_ (busWriteFor_within _ _ _ _ _ (by decide) (fun _ => ?_)))
    | simp +decide (maxDischargeDepth := 8) only [Within.iff_of (resumeQueue_within _ _ ), *, Within.self, Within.mk_iff, Within.forEach_iff, Within.when_iff, Within.clear_iff, Within.ite_of, spansIn_idx, spansIn_wu, and_self, implies_true, id_eq, ne_eq, not_false_eq_true, reduceCtorEq]
    | split
    | with_reducible refine Within.trans ?_ (Within.forEach (fun _ _ => ?_) _ _)
    | with_reducible refine Within.trans ?_ (Within.when (fun _ => ?_) _ _)

theorem execQueueSkip_within (a : BusAcc) (q : BitVec 6) (s : State) (s' : State) (h : execQueueSkip a q s = .next s') :
    Within [⟨0x3008, 4, 2⟩, ⟨0x4804, 4, 2⟩, ⟨0x5790, 0x40, 8⟩, ⟨0x57B8, 0x40, 8⟩, ⟨0x5980, 0, 1⟩, ⟨0x6014, 0, 1⟩, ⟨0x7000, 4, 2⟩, ⟨0x7018, 4, 3⟩] s s' := by
  unfold execQueueSkip at h
  injection h with h
  subst h
  try dsimp only
  repeat' first
    | (with_reducible refine Within.trans ?_ (busWriteFor_within _ _ _ _ _ (by decide) (fun _ => ?_)))
    | simp +decide (maxDischargeDepth := 8) only [Within.iff_of (skipQueue_within _ _ ), *, Within.self, Within.mk_iff, Within.forEach_iff, Within.when_iff, Within.clear_iff, Within.ite_of, spansIn_idx, spansIn_wu, and_self, implies_true, id_eq, ne_eq, not_false_eq_true, reduceCtorEq]
    | split
    | with_reducible refine Within.trans ?_ (Within.forEach (fun _ _ => ?_) _ _)
    | with_reducible refine Within.trans ?_ (Within.when (fun _ => ?_) _ _)

theorem execQueueFlush_within (a : BusAcc) (q : BitVec 6) (s : State) (s' : State) (h : execQueueFlush a q s = .next s') :
    Within [⟨0x310C, 0x10, 64⟩, ⟨0x4804, 4, 2⟩, ⟨0x57B8, 0x40, 8⟩, ⟨0x5980, 0, 1⟩, ⟨0x6014, 0, 1⟩, ⟨0x7000, 4, 2⟩, ⟨0x7018, 4, 3⟩] s s' := by
  unfold execQueueFlush at h
  injection h with h
  subst h
  try dsimp only
  repeat' first
    | (with_reducible refine Within.trans ?_ (busWriteFor_within _ _ _ _ _ (by decide) (fun _ => ?_)))
    | simp +decide (maxDischargeDepth := 8) only [Within.iff_of (flushQueue_within _ _ ), *, Within.self, Within.mk_iff, Within.forEach_iff, Within.when_iff, Within.clear_iff, Within.ite_of, spansIn_idx, spansIn_wu, and_self, implies_true, id_eq, ne_eq, not_false_eq_true, reduceCtorEq]
    | split
    | with_reducible refine Within.trans ?_ (Within.forEach (fun _ _ => ?_) _ _)
    | with_reducible refine Within.trans ?_ (Within.when (fun _ => ?_) _ _)

theorem execQueuePause_within (a : BusAcc) (q : BitVec 6) (s : State) (s' : State) (h : execQueuePause a q s = .next s') :
    Within [⟨0x4804, 4, 2⟩, ⟨0x57B8, 0x40, 8⟩, ⟨0x5980, 0, 1⟩, ⟨0x6014, 0, 1⟩, ⟨0x7000, 4, 2⟩, ⟨0x7018, 4, 3⟩] s s' := by
  unfold execQueuePause at h
  injection h with h
  subst h
  try dsimp only
  repeat' first
    | (with_reducible refine Within.trans ?_ (busWriteFor_within _ _ _ _ _ (by decide) (fun _ => ?_)))
    | simp +decide (maxDischargeDepth := 8) only [Within.iff_of (pauseQueue_within _ _ ), *, Within.self, Within.mk_iff, Within.forEach_iff, Within.when_iff, Within.clear_iff, Within.ite_of, spansIn_idx, spansIn_wu, and_self, implies_true, id_eq, ne_eq, not_false_eq_true, reduceCtorEq]
    | split
    | with_reducible refine Within.trans ?_ (Within.forEach (fun _ _ => ?_) _ _)
    | with_reducible refine Within.trans ?_ (Within.when (fun _ => ?_) _ _)

theorem execTallyInc_within (a : BusAcc) (t : BitVec 6) (s : State) (s' : State) (h : execTallyInc a t s = .next s') :
    Within [⟨0x3700, 4, 64⟩, ⟨0x4804, 4, 2⟩, ⟨0x57B8, 0x40, 8⟩, ⟨0x5980, 0, 1⟩, ⟨0x6014, 0, 1⟩, ⟨0x7000, 4, 2⟩, ⟨0x7018, 4, 3⟩] s s' := by
  unfold execTallyInc at h
  injection h with h
  subst h
  try dsimp only
  repeat' first
    | (with_reducible refine Within.trans ?_ (busWriteFor_within _ _ _ _ _ (by decide) (fun _ => ?_)))
    | simp +decide (maxDischargeDepth := 8) only [Within.iff_of (tallyAdd_within _ _ _ ), *, Within.self, Within.mk_iff, Within.forEach_iff, Within.when_iff, Within.clear_iff, Within.ite_of, spansIn_idx, spansIn_wu, and_self, implies_true, id_eq, ne_eq, not_false_eq_true, reduceCtorEq]
    | split
    | with_reducible refine Within.trans ?_ (Within.forEach (fun _ _ => ?_) _ _)
    | with_reducible refine Within.trans ?_ (Within.when (fun _ => ?_) _ _)

theorem execTallyWrite_within (a : BusAcc) (t : BitVec 6) (w : Word) (incs : Nat) (s : State) (s' : State) (h : execTallyWrite a t w incs s = .next s') :
    Within [⟨0x3700, 4, 64⟩, ⟨0x4804, 4, 2⟩, ⟨0x57B8, 0x40, 8⟩, ⟨0x5980, 0, 1⟩, ⟨0x6014, 0, 1⟩, ⟨0x7000, 4, 2⟩, ⟨0x7018, 4, 3⟩] s s' := by
  unfold execTallyWrite at h
  injection h with h
  subst h
  try dsimp only
  repeat' first
    | (with_reducible refine Within.trans ?_ (busWrite_within _ _ _ _ (by decide) (fun _ => ?_)))
    | simp +decide (maxDischargeDepth := 8) only [Within.iff_of (setReg_within _ _ _ ), Within.iff_of (tallyAdd_within _ _ _ ), *, Within.self, Within.mk_iff, Within.forEach_iff, Within.when_iff, Within.clear_iff, Within.ite_of, spansIn_idx, spansIn_wu, and_self, implies_true, id_eq, ne_eq, not_false_eq_true, reduceCtorEq]
    | split
    | with_reducible refine Within.trans ?_ (Within.forEach (fun _ _ => ?_) _ _)
    | with_reducible refine Within.trans ?_ (Within.when (fun _ => ?_) _ _)

end Sys2Proof.Machine
end

