-- ==== Sys2Proof/Laws/WithinHeld.lean ====
section
/-!
SUPPORT. Laws/WithinHeld.lean: the registers and counters that the operations and commands of Machine/Held.lean may change (generated
text, one lemma for each).
-/
namespace Sys2Proof.Machine

set_option linter.unusedSimpArgs false
set_option linter.tactic.unusedName false

theorem updHeld_within (sid : Nat) (f : HeldEx → HeldEx) (s : State) :
    Within [] s (updHeld sid f s) := Within.of_only (updHeld_only sid f s) (by decide)

theorem freeHold_within (x : Slip) (s : State) :
    Within [⟨0x2500, 4, 64⟩] s (freeHold x s) := by
  unfold freeHold
  try dsimp only
  repeat' first
    | simp +decide (maxDischargeDepth := 8) only [Within.iff_of (setRegF_within _ _ _ _ _ ), Within.iff_of (updHeld_within _ _ _ ), *, Within.self, Within.mk_iff, Within.forEach_iff, Within.when_iff, Within.clear_iff, Within.ite_of, spansIn_idx, spansIn_wu, and_self, implies_true, id_eq, ne_eq, not_false_eq_true, reduceCtorEq]
    | split
    | with_reducible refine Within.trans ?_ (Within.forEach (fun _ _ => ?_) _ _)
    | with_reducible refine Within.trans ?_ (Within.when (fun _ => ?_) _ _)

theorem statParity_within (row : Nat) (s : State) :
    Within [⟨0x59D0, 0, 1⟩, ⟨0x6014, 0, 1⟩, ⟨0x7000, 4, 2⟩, ⟨0x7018, 4, 3⟩] s (statParity row s) := by
  unfold statParity
  try dsimp only
  repeat' first
    | simp +decide (maxDischargeDepth := 8) only [Within.iff_of (bump_within _ _ _ ), Within.iff_of (raise_within _ _ ), Within.iff_of (fwdTrigger_within _ _ _ _ ), *, Within.self, Within.mk_iff, Within.forEach_iff, Within.when_iff, Within.clear_iff, Within.ite_of, spansIn_idx, spansIn_wu, and_self, implies_true, id_eq, ne_eq, not_false_eq_true, reduceCtorEq]
    | split
    | with_reducible refine Within.trans ?_ (Within.forEach (fun _ _ => ?_) _ _)
    | with_reducible refine Within.trans ?_ (Within.when (fun _ => ?_) _ _)

theorem withdrawTrs_within (p : Tr → Bool) (s : State) :
    Within [] s (withdrawTrs p s) := Within.of_only (withdrawTrs_only p s) (by decide)

theorem cancelWork_within (q : Nat) (s : State) :
    Within [] s (cancelWork q s) := Within.of_only (cancelWork_only q s) (by decide)

theorem cancelHeld_within (l : Nat) (w : Word) (s : State) :
    Within [⟨0x2404, 0, 1⟩] s (cancelHeld l w s) := by
  unfold cancelHeld
  try dsimp only
  repeat' first
    | simp +decide (maxDischargeDepth := 8) only [Within.iff_of (orReg_within _ _ _ ), Within.iff_of (updSlip_within _ _ _ ), Within.iff_of (updHeld_within _ _ _ ), Within.iff_of (cancelWork_within _ _ ), *, Within.self, Within.mk_iff, Within.forEach_iff, Within.when_iff, Within.clear_iff, Within.ite_of, spansIn_idx, spansIn_wu, and_self, implies_true, id_eq, ne_eq, not_false_eq_true, reduceCtorEq]
    | split
    | with_reducible refine Within.trans ?_ (Within.forEach (fun _ _ => ?_) _ _)
    | with_reducible refine Within.trans ?_ (Within.when (fun _ => ?_) _ _)

theorem resumeCancels_within (s : State) :
    Within [] s (resumeCancels s) := Within.of_only (resumeCancels_only s) (by decide)

theorem dropSlots_within (x : Slip) (s : State) :
    Within [] s (dropSlots x s) := Within.of_only (dropSlots_only x s) (by decide)

theorem execBlendSlotAlloc_within (s : State) (s' : State) (h : execBlendSlotAlloc s = .next s') :
    Within [] s s' := Within.of_only (execBlendSlotAlloc_only s s' h) (by decide)

theorem execVectorLoadDone_within (q : BitVec 6) (s : State) (s' : State) (h : execVectorLoadDone q s = .next s') :
    Within [] s s' := Within.of_only (execVectorLoadDone_only q s s' h) (by decide)

theorem execHoldReservation_within (s : State) (s' : State) (h : execHoldReservation s = .next s') :
    Within [] s s' := Within.of_only (execHoldReservation_only s s' h) (by decide)

theorem execTileAdmit_within (q : BitVec 6) (s : State) (s' : State) (h : execTileAdmit q s = .next s') :
    Within [] s s' := Within.of_only (execTileAdmit_only q s s' h) (by decide)

theorem execTileRelease_within (q : BitVec 6) (s : State) (s' : State) (h : execTileRelease q s = .next s') :
    Within [⟨0x3700, 4, 64⟩] s s' := by
  unfold execTileRelease at h
  injection h with h
  subst h
  try dsimp only
  repeat' first
    | simp +decide (maxDischargeDepth := 8) only [Within.iff_of (tallyAdd_within _ _ _ ), Within.iff_of (updHeld_within _ _ _ ), *, Within.self, Within.mk_iff, Within.forEach_iff, Within.when_iff, Within.clear_iff, Within.ite_of, spansIn_idx, spansIn_wu, and_self, implies_true, id_eq, ne_eq, not_false_eq_true, reduceCtorEq]
    | split
    | with_reducible refine Within.trans ?_ (Within.forEach (fun _ _ => ?_) _ _)
    | with_reducible refine Within.trans ?_ (Within.when (fun _ => ?_) _ _)

theorem execStatsReady_within (q : BitVec 6) (par : Bool) (s : State) (s' : State) (h : execStatsReady q par s = .next s') :
    Within [⟨0x59D0, 0, 1⟩, ⟨0x6014, 0, 1⟩, ⟨0x7000, 4, 2⟩, ⟨0x7018, 4, 3⟩] s s' := by
  unfold execStatsReady at h
  injection h with h
  subst h
  try dsimp only
  repeat' first
    | simp +decide (maxDischargeDepth := 8) only [Within.iff_of (addTr_within _ _ ), Within.iff_of (askSlots_within _ _ ), Within.iff_of (updHeld_within _ _ _ ), Within.iff_of (statParity_within _ _ ), *, Within.self, Within.mk_iff, Within.forEach_iff, Within.when_iff, Within.clear_iff, Within.ite_of, spansIn_idx, spansIn_wu, and_self, implies_true, id_eq, ne_eq, not_false_eq_true, reduceCtorEq]
    | split
    | with_reducible refine Within.trans ?_ (Within.forEach (fun _ _ => ?_) _ _)
    | with_reducible refine Within.trans ?_ (Within.when (fun _ => ?_) _ _)

theorem execRedeliveryStart_within (q : BitVec 6) (s : State) (s' : State) (h : execRedeliveryStart q s = .next s') :
    Within [] s s' := Within.of_only (execRedeliveryStart_only q s s' h) (by decide)

theorem execHoldRelease_within (q : BitVec 6) (s : State) (s' : State) (h : execHoldRelease q s = .next s') :
    Within [⟨0x2500, 4, 64⟩] s s' := by
  unfold execHoldRelease at h
  injection h with h
  subst h
  try dsimp only
  repeat' first
    | simp +decide (maxDischargeDepth := 8) only [Within.iff_of (freeHold_within _ _ ), *, Within.self, Within.mk_iff, Within.forEach_iff, Within.when_iff, Within.clear_iff, Within.ite_of, spansIn_idx, spansIn_wu, and_self, implies_true, id_eq, ne_eq, not_false_eq_true, reduceCtorEq]
    | split
    | with_reducible refine Within.trans ?_ (Within.forEach (fun _ _ => ?_) _ _)
    | with_reducible refine Within.trans ?_ (Within.when (fun _ => ?_) _ _)

theorem execHeldCancel_within (a : BusAcc) (w : Word) (s : State) (s' : State) (h : execHeldCancel a w s = .next s') :
    Within [⟨0x2404, 0, 1⟩, ⟨0x4804, 4, 2⟩, ⟨0x57B8, 0x40, 8⟩, ⟨0x5980, 0, 1⟩, ⟨0x6014, 0, 1⟩, ⟨0x7000, 4, 2⟩, ⟨0x7018, 4, 3⟩] s s' := by
  unfold execHeldCancel at h
  injection h with h
  subst h
  try dsimp only
  repeat' first
    | (with_reducible refine Within.trans ?_ (busWrite_within _ _ _ _ (by decide) (fun _ => ?_)))
    | simp +decide (maxDischargeDepth := 8) only [Within.iff_of (cancelHeld_within _ _ _ ), *, Within.self, Within.mk_iff, Within.forEach_iff, Within.when_iff, Within.clear_iff, Within.ite_of, spansIn_idx, spansIn_wu, and_self, implies_true, id_eq, ne_eq, not_false_eq_true, reduceCtorEq]
    | split
    | with_reducible refine Within.trans ?_ (Within.forEach (fun _ _ => ?_) _ _)
    | with_reducible refine Within.trans ?_ (Within.when (fun _ => ?_) _ _)

theorem execHeldCancelEnd_within (q : BitVec 6) (s : State) (s' : State) (h : execHeldCancelEnd q s = .next s') :
    Within [⟨0x2500, 4, 64⟩, ⟨0x3008, 4, 2⟩, ⟨0x3700, 4, 64⟩, ⟨0x5790, 0x40, 8⟩, ⟨0x57B0, 0x40, 8⟩, ⟨0x6014, 0, 1⟩, ⟨0x6808, 0, 1⟩, ⟨0x6A1C, 0x40, 4⟩, ⟨0x7000, 4, 2⟩, ⟨0x7018, 4, 3⟩] s s' := by
  unfold execHeldCancelEnd at h
  injection h with h
  subst h
  try dsimp only
  repeat' first
    | simp +decide (maxDischargeDepth := 8) only [Within.iff_of (raise_within _ _ ), Within.iff_of (updSlip_within _ _ _ ), Within.iff_of (tallyAdd_within _ _ _ ), Within.iff_of (slipLog_within _ _ _ _ _ _ ), Within.iff_of (endSlip_within _ _ ), Within.iff_of (freeHold_within _ _ ), Within.iff_of (dropSlots_within _ _ ), *, Within.self, Within.mk_iff, Within.forEach_iff, Within.when_iff, Within.clear_iff, Within.ite_of, spansIn_idx, spansIn_wu, and_self, implies_true, id_eq, ne_eq, not_false_eq_true, reduceCtorEq]
    | split
    | with_reducible refine Within.trans ?_ (Within.forEach (fun _ _ => ?_) _ _)
    | with_reducible refine Within.trans ?_ (Within.when (fun _ => ?_) _ _)

end Sys2Proof.Machine
end

