-- ==== Sys2Proof/Laws/WithinRdx.lean ====
section
/-!
SUPPORT. Laws/WithinRdx.lean: the registers and counters that the operations and commands of Machine/Rdx.lean may change (generated
text, one lemma for each).
-/
namespace Sys2Proof.Machine

set_option linter.unusedSimpArgs false
set_option linter.tactic.unusedName false

theorem addOp_within (o : ROp) (s : State) :
    Within [] s (addOp o s) := Within.of_only (addOp_only o s) (by decide)

theorem setOp_within (o : ROp) (s : State) :
    Within [] s (setOp o s) := Within.of_only (setOp_only o s) (by decide)

theorem dropOp_within (id : Nat) (s : State) :
    Within [] s (dropOp id s) := Within.of_only (dropOp_only id s) (by decide)

theorem askRead_within (p : Nat) (s : State) :
    Within [] s (askRead p s) := Within.of_only (askRead_only p s) (by decide)

theorem askWrite_within (p : Nat) (s : State) :
    Within [] s (askWrite p s) := Within.of_only (askWrite_only p s) (by decide)

theorem askRows_within (s : State) :
    Within [] s (askRows s) := Within.of_only (askRows_only s) (by decide)

theorem opFault_within (id : Nat) (s : State) :
    Within [] s (opFault id s) := Within.of_only (opFault_only id s) (by decide)

theorem askG_within (b : Nat) (s : State) :
    Within [] s (askG b s) := Within.of_only (askG_only b s) (by decide)

theorem skipUpdate_within (b : Nat) (s : State) :
    Within [⟨0x6014, 0, 1⟩, ⟨0x7000, 4, 2⟩, ⟨0x7018, 4, 3⟩] s (skipUpdate b s) := by
  unfold skipUpdate
  try dsimp only
  repeat' first
    | simp +decide (maxDischargeDepth := 8) only [Within.iff_of (raise_within _ _ ), Within.iff_of (updBkt_within _ _ _ ), *, Within.self, Within.mk_iff, Within.forEach_iff, Within.when_iff, Within.clear_iff, Within.ite_of, spansIn_idx, spansIn_wu, and_self, implies_true, id_eq, ne_eq, not_false_eq_true, reduceCtorEq]
    | split
    | with_reducible refine Within.trans ?_ (Within.forEach (fun _ _ => ?_) _ _)
    | with_reducible refine Within.trans ?_ (Within.when (fun _ => ?_) _ _)

theorem bktDone_within (b : Nat) (s : State) :
    Within [⟨0x3700, 4, 64⟩] s (bktDone b s) := by
  unfold bktDone
  try dsimp only
  repeat' first
    | simp +decide (maxDischargeDepth := 8) only [Within.iff_of (updBkt_within _ _ _ ), Within.iff_of (tallyAdd_within _ _ _ ), *, Within.self, Within.mk_iff, Within.forEach_iff, Within.when_iff, Within.clear_iff, Within.ite_of, spansIn_idx, spansIn_wu, and_self, implies_true, id_eq, ne_eq, not_false_eq_true, reduceCtorEq]
    | split
    | with_reducible refine Within.trans ?_ (Within.forEach (fun _ _ => ?_) _ _)
    | with_reducible refine Within.trans ?_ (Within.when (fun _ => ?_) _ _)

theorem openGate_within (b : Nat) (s : State) :
    Within [⟨0x6014, 0, 1⟩, ⟨0x7000, 4, 2⟩, ⟨0x7018, 4, 3⟩] s (openGate b s) := by
  unfold openGate
  try dsimp only
  repeat' first
    | simp +decide (maxDischargeDepth := 8) only [Within.iff_of (updBkt_within _ _ _ ), Within.iff_of (askG_within _ _ ), Within.iff_of (skipUpdate_within _ _ ), *, Within.self, Within.mk_iff, Within.forEach_iff, Within.when_iff, Within.clear_iff, Within.ite_of, spansIn_idx, spansIn_wu, and_self, implies_true, id_eq, ne_eq, not_false_eq_true, reduceCtorEq]
    | split
    | with_reducible refine Within.trans ?_ (Within.forEach (fun _ _ => ?_) _ _)
    | with_reducible refine Within.trans ?_ (Within.when (fun _ => ?_) _ _)

theorem gotG_within (o : ROp) (s : State) :
    Within [⟨0x6014, 0, 1⟩, ⟨0x7000, 4, 2⟩, ⟨0x7018, 4, 3⟩] s (gotG o s) := by
  unfold gotG
  try dsimp only
  repeat' first
    | simp +decide (maxDischargeDepth := 8) only [Within.iff_of (updBkt_within _ _ _ ), Within.iff_of (skipUpdate_within _ _ ), *, Within.self, Within.mk_iff, Within.forEach_iff, Within.when_iff, Within.clear_iff, Within.ite_of, spansIn_idx, spansIn_wu, and_self, implies_true, id_eq, ne_eq, not_false_eq_true, reduceCtorEq]
    | split
    | with_reducible refine Within.trans ?_ (Within.forEach (fun _ _ => ?_) _ _)
    | with_reducible refine Within.trans ?_ (Within.when (fun _ => ?_) _ _)

theorem settleBucket_within (b : Nat) (s : State) :
    Within [⟨0x3700, 4, 64⟩, ⟨0x6014, 0, 1⟩, ⟨0x7000, 4, 2⟩, ⟨0x7018, 4, 3⟩] s (settleBucket b s) := by
  unfold settleBucket
  try dsimp only
  repeat' first
    | simp +decide (maxDischargeDepth := 8) only [Within.iff_of (bktDone_within _ _ ), Within.iff_of (openGate_within _ _ ), *, Within.self, Within.mk_iff, Within.forEach_iff, Within.when_iff, Within.clear_iff, Within.ite_of, spansIn_idx, spansIn_wu, and_self, implies_true, id_eq, ne_eq, not_false_eq_true, reduceCtorEq]
    | split
    | with_reducible refine Within.trans ?_ (Within.forEach (fun _ _ => ?_) _ _)
    | with_reducible refine Within.trans ?_ (Within.when (fun _ => ?_) _ _)

theorem settleBuckets_within (s : State) :
    Within [⟨0x3700, 4, 64⟩, ⟨0x6014, 0, 1⟩, ⟨0x7000, 4, 2⟩, ⟨0x7018, 4, 3⟩] s (settleBuckets s) := by
  unfold settleBuckets
  try dsimp only
  repeat' first
    | simp +decide (maxDischargeDepth := 8) only [Within.iff_of (settleBucket_within _ _ ), *, Within.self, Within.mk_iff, Within.forEach_iff, Within.when_iff, Within.clear_iff, Within.ite_of, spansIn_idx, spansIn_wu, and_self, implies_true, id_eq, ne_eq, not_false_eq_true, reduceCtorEq]
    | split
    | with_reducible refine Within.trans ?_ (Within.forEach (fun _ _ => ?_) _ _)
    | with_reducible refine Within.trans ?_ (Within.when (fun _ => ?_) _ _)

theorem dropFlit_within (reason : Nat) (f : RFlit) (s : State) :
    Within [⟨0x3818, 4, 2⟩, ⟨0x5A80, 0x20, 16⟩, ⟨0x6014, 0, 1⟩, ⟨0x7000, 4, 2⟩, ⟨0x7018, 4, 3⟩] s (dropFlit reason f s) := by
  unfold dropFlit
  try dsimp only
  repeat' first
    | simp +decide (maxDischargeDepth := 8) only [Within.iff_of (bump_within _ _ _ ), Within.iff_of (raise_within _ _ ), Within.iff_of (fillLog_within _ _ _ _ ), *, Within.self, Within.mk_iff, Within.forEach_iff, Within.when_iff, Within.clear_iff, Within.ite_of, spansIn_idx, spansIn_wu, and_self, implies_true, id_eq, ne_eq, not_false_eq_true, reduceCtorEq]
    | split
    | with_reducible refine Within.trans ?_ (Within.forEach (fun _ _ => ?_) _ _)
    | with_reducible refine Within.trans ?_ (Within.when (fun _ => ?_) _ _)

theorem freeSlot_within (v : Nat) (s : State) :
    Within [] s (freeSlot v s) := Within.of_only (freeSlot_only v s) (by decide)

theorem takeIn_within (lane : Bool) (data : Row) (sb : Nat) (s : State) :
    Within [⟨0x3818, 4, 2⟩, ⟨0x5A80, 0x20, 16⟩, ⟨0x6014, 0, 1⟩, ⟨0x7000, 4, 2⟩, ⟨0x7018, 4, 3⟩] s (takeIn lane data sb s) := by
  unfold takeIn
  try dsimp only
  repeat' first
    | simp +decide (maxDischargeDepth := 8) only [Within.iff_of (dropFlit_within _ _ _ ), Within.iff_of (freeSlot_within _ _ ), *, Within.self, Within.mk_iff, Within.forEach_iff, Within.when_iff, Within.clear_iff, Within.ite_of, spansIn_idx, spansIn_wu, and_self, implies_true, id_eq, ne_eq, not_false_eq_true, reduceCtorEq]
    | split
    | with_reducible refine Within.trans ?_ (Within.forEach (fun _ _ => ?_) _ _)
    | with_reducible refine Within.trans ?_ (Within.when (fun _ => ?_) _ _)

theorem holeFreed_within (v : Nat) (s : State) :
    Within [] s (holeFreed v s) := Within.of_only (holeFreed_only v s) (by decide)

theorem flitReduced_within (b flit : Nat) (x : Partial) (s : State) :
    Within [⟨0x3700, 4, 64⟩, ⟨0x6014, 0, 1⟩, ⟨0x7000, 4, 2⟩, ⟨0x7018, 4, 3⟩] s (flitReduced b flit x s) := by
  unfold flitReduced
  try dsimp only
  repeat' first
    | simp +decide (maxDischargeDepth := 8) only [Within.iff_of (raise_within _ _ ), Within.iff_of (updBkt_within _ _ _ ), Within.iff_of (addOp_within _ _ ), Within.iff_of (settleBuckets_within _ ), *, Within.self, Within.mk_iff, Within.forEach_iff, Within.when_iff, Within.clear_iff, Within.ite_of, spansIn_idx, spansIn_wu, and_self, implies_true, id_eq, ne_eq, not_false_eq_true, reduceCtorEq]
    | split
    | with_reducible refine Within.trans ?_ (Within.forEach (fun _ _ => ?_) _ _)
    | with_reducible refine Within.trans ?_ (Within.when (fun _ => ?_) _ _)

theorem halfTaken_within (f : RFlit) (half : Nat) (s : State) :
    Within [] s (halfTaken f half s) := Within.of_only (halfTaken_only f half s) (by decide)

theorem dropDup_within (f : RFlit) (s : State) :
    Within [⟨0x3818, 4, 2⟩, ⟨0x5A80, 0x20, 16⟩, ⟨0x6014, 0, 1⟩, ⟨0x7000, 4, 2⟩, ⟨0x7018, 4, 3⟩] s (dropDup f s) := by
  unfold dropDup
  try dsimp only
  repeat' first
    | simp +decide (maxDischargeDepth := 8) only [Within.iff_of (updBkt_within _ _ _ ), Within.iff_of (dropFlit_within _ _ _ ), *, Within.self, Within.mk_iff, Within.forEach_iff, Within.when_iff, Within.clear_iff, Within.ite_of, spansIn_idx, spansIn_wu, and_self, implies_true, id_eq, ne_eq, not_false_eq_true, reduceCtorEq]
    | split
    | with_reducible refine Within.trans ?_ (Within.forEach (fun _ _ => ?_) _ _)
    | with_reducible refine Within.trans ?_ (Within.when (fun _ => ?_) _ _)

theorem combineHalf_within (f : RFlit) (half : Nat) (s : State) :
    Within [] s (combineHalf f half s) := Within.of_only (combineHalf_only f half s) (by decide)

theorem baddrAdvance_within (l : Nat) (s : State) :
    Within [] s (baddrAdvance l s) := Within.of_only (baddrAdvance_only l s) (by decide)

theorem writeBdata_within (l : Nat) (w : Word) (s : State) :
    Within [⟨0x380C, 0, 1⟩] s (writeBdata l w s) := by
  unfold writeBdata
  try dsimp only
  repeat' first
    | simp +decide (maxDischargeDepth := 8) only [Within.iff_of (orReg_within _ _ _ ), Within.iff_of (baddrAdvance_within _ _ ), *, Within.self, Within.mk_iff, Within.forEach_iff, Within.when_iff, Within.clear_iff, Within.ite_of, spansIn_idx, spansIn_wu, and_self, implies_true, id_eq, ne_eq, not_false_eq_true, reduceCtorEq]
    | split
    | with_reducible refine Within.trans ?_ (Within.forEach (fun _ _ => ?_) _ _)
    | with_reducible refine Within.trans ?_ (Within.when (fun _ => ?_) _ _)

theorem refuseBkt_within (b reason : Nat) (s : State) :
    Within [⟨0x380C, 0, 1⟩] s (refuseBkt b reason s) := by
  unfold refuseBkt
  try dsimp only
  repeat' first
    | simp +decide (maxDischargeDepth := 8) only [Within.iff_of (setReg_within _ _ _ ), *, Within.self, Within.mk_iff, Within.forEach_iff, Within.when_iff, Within.clear_iff, Within.ite_of, spansIn_idx, spansIn_wu, and_self, implies_true, id_eq, ne_eq, not_false_eq_true, reduceCtorEq]
    | split
    | with_reducible refine Within.trans ?_ (Within.forEach (fun _ _ => ?_) _ _)
    | with_reducible refine Within.trans ?_ (Within.when (fun _ => ?_) _ _)

theorem armBucket_within (l b : Nat) (s : State) :
    Within [⟨0x380C, 0, 1⟩] s (armBucket l b s) := by
  unfold armBucket
  try dsimp only
  repeat' first
    | simp +decide (maxDischargeDepth := 8) only [Within.iff_of (setBkt_within _ _ _ ), Within.iff_of (refuseBkt_within _ _ _ ), *, Within.self, Within.mk_iff, Within.forEach_iff, Within.when_iff, Within.clear_iff, Within.ite_of, spansIn_idx, spansIn_wu, and_self, implies_true, id_eq, ne_eq, not_false_eq_true, reduceCtorEq]
    | split
    | with_reducible refine Within.trans ?_ (Within.forEach (fun _ _ => ?_) _ _)
    | with_reducible refine Within.trans ?_ (Within.when (fun _ => ?_) _ _)

theorem setNg_within (g : Nat) (x : NGrp) (s : State) :
    Within [] s (setNg g x s) := Within.of_only (setNg_only g x s) (by decide)

theorem dropBucket_within (b : Nat) (s : State) :
    Within [⟨0x3818, 4, 2⟩, ⟨0x5A80, 0x20, 16⟩, ⟨0x6014, 0, 1⟩, ⟨0x7000, 4, 2⟩, ⟨0x7018, 4, 3⟩] s (dropBucket b s) := by
  unfold dropBucket
  try dsimp only
  repeat' first
    | simp +decide (maxDischargeDepth := 8) only [Within.iff_of (raise_within _ _ ), Within.iff_of (dropJobs_within _ _ ), Within.iff_of (updBkt_within _ _ _ ), Within.iff_of (dropFlit_within _ _ _ ), Within.iff_of (freeSlot_within _ _ ), Within.iff_of (holeFreed_within _ _ ), Within.iff_of (setNg_within _ _ _ ), *, Within.self, Within.mk_iff, Within.forEach_iff, Within.when_iff, Within.clear_iff, Within.ite_of, spansIn_idx, spansIn_wu, and_self, implies_true, id_eq, ne_eq, not_false_eq_true, reduceCtorEq]
    | split
    | with_reducible refine Within.trans ?_ (Within.forEach (fun _ _ => ?_) _ _)
    | with_reducible refine Within.trans ?_ (Within.when (fun _ => ?_) _ _)

theorem abortBucket_within (l b : Nat) (s : State) :
    Within [⟨0x380C, 0, 1⟩, ⟨0x3818, 4, 2⟩, ⟨0x5A80, 0x20, 16⟩, ⟨0x6014, 0, 1⟩, ⟨0x7000, 4, 2⟩, ⟨0x7018, 4, 3⟩] s (abortBucket l b s) := by
  unfold abortBucket
  try dsimp only
  repeat' first
    | simp +decide (maxDischargeDepth := 8) only [Within.iff_of (refuseBkt_within _ _ _ ), Within.iff_of (dropBucket_within _ _ ), *, Within.self, Within.mk_iff, Within.forEach_iff, Within.when_iff, Within.clear_iff, Within.ite_of, spansIn_idx, spansIn_wu, and_self, implies_true, id_eq, ne_eq, not_false_eq_true, reduceCtorEq]
    | split
    | with_reducible refine Within.trans ?_ (Within.forEach (fun _ _ => ?_) _ _)
    | with_reducible refine Within.trans ?_ (Within.when (fun _ => ?_) _ _)

theorem finishGroup_within (g : Nat) (s : State) :
    Within [] s (finishGroup g s) := Within.of_only (finishGroup_only g s) (by decide)

theorem groupWritten_within (g : Nat) (s : State) :
    Within [⟨0x3700, 4, 64⟩] s (groupWritten g s) := by
  unfold groupWritten
  try dsimp only
  repeat' first
    | simp +decide (maxDischargeDepth := 8) only [Within.iff_of (tallyAdd_within _ _ _ ), *, Within.self, Within.mk_iff, Within.forEach_iff, Within.when_iff, Within.clear_iff, Within.ite_of, spansIn_idx, spansIn_wu, and_self, implies_true, id_eq, ne_eq, not_false_eq_true, reduceCtorEq]
    | split
    | with_reducible refine Within.trans ?_ (Within.forEach (fun _ _ => ?_) _ _)
    | with_reducible refine Within.trans ?_ (Within.when (fun _ => ?_) _ _)

theorem joinGroup_within (b : Nat) (q : Nat × Bool) (s : State) :
    Within [] s (joinGroup b q s) := Within.of_only (joinGroup_only b q s) (by decide)

theorem writeNgctl_within (g : Nat) (w : Word) (s : State) :
    Within [⟨0x3D00, 0x10, 8⟩] s (writeNgctl g w s) := by
  unfold writeNgctl
  try dsimp only
  repeat' first
    | simp +decide (maxDischargeDepth := 8) only [Within.iff_of (setReg_within _ _ _ ), Within.iff_of (setNg_within _ _ _ ), *, Within.self, Within.mk_iff, Within.forEach_iff, Within.when_iff, Within.clear_iff, Within.ite_of, spansIn_idx, spansIn_wu, and_self, implies_true, id_eq, ne_eq, not_false_eq_true, reduceCtorEq]
    | split
    | with_reducible refine Within.trans ?_ (Within.forEach (fun _ _ => ?_) _ _)
    | with_reducible refine Within.trans ?_ (Within.when (fun _ => ?_) _ _)

theorem readsDone_within (o : ROp) (s : State) :
    Within [⟨0x3700, 4, 64⟩, ⟨0x6014, 0, 1⟩, ⟨0x7000, 4, 2⟩, ⟨0x7018, 4, 3⟩] s (readsDone o s) := by
  unfold readsDone
  try dsimp only
  repeat' first
    | simp +decide (maxDischargeDepth := 8) only [Within.iff_of (xbump_within _ _ _ ), Within.iff_of (estimate_within _ _ _ ), Within.iff_of (setOp_within _ _ ), Within.iff_of (dropOp_within _ _ ), Within.iff_of (gotG_within _ _ ), Within.iff_of (settleBuckets_within _ ), *, Within.self, Within.mk_iff, Within.forEach_iff, Within.when_iff, Within.clear_iff, Within.ite_of, spansIn_idx, spansIn_wu, and_self, implies_true, id_eq, ne_eq, not_false_eq_true, reduceCtorEq]
    | split
    | with_reducible refine Within.trans ?_ (Within.forEach (fun _ _ => ?_) _ _)
    | with_reducible refine Within.trans ?_ (Within.when (fun _ => ?_) _ _)

theorem takePartial_within (o : ROp) (i : Nat) (s : State) :
    Within [] s (takePartial o i s).2 := Within.of_only (takePartial_only o i s) (by decide)

theorem opRead_within (id i : Nat) (r : Row × Mask4) (s : State) :
    Within [⟨0x3700, 4, 64⟩, ⟨0x6014, 0, 1⟩, ⟨0x7000, 4, 2⟩, ⟨0x7018, 4, 3⟩] s (opRead id i r s) := by
  unfold opRead
  try dsimp only
  repeat' first
    | simp +decide (maxDischargeDepth := 8) only [Within.iff_of (setOp_within _ _ ), Within.iff_of (readsDone_within _ _ ), Within.iff_of (takePartial_within _ _ _ ), *, Within.self, Within.mk_iff, Within.forEach_iff, Within.when_iff, Within.clear_iff, Within.ite_of, spansIn_idx, spansIn_wu, and_self, implies_true, id_eq, ne_eq, not_false_eq_true, reduceCtorEq]
    | (refine Within.snd (by assumption) (takePartial_within _ _ _ ) (by decide) ?_)
    | split
    | with_reducible refine Within.trans ?_ (Within.forEach (fun _ _ => ?_) _ _)
    | with_reducible refine Within.trans ?_ (Within.when (fun _ => ?_) _ _)

theorem parkedAt_within (o : ROp) (c : Nat) (s : State) :
    Within [] s (parkedAt o c s) := Within.of_only (parkedAt_only o c s) (by decide)

theorem opWritten_within (id c : Nat) (s : State) :
    Within [⟨0x3700, 4, 64⟩, ⟨0x6014, 0, 1⟩, ⟨0x7000, 4, 2⟩, ⟨0x7018, 4, 3⟩] s (opWritten id c s) := by
  unfold opWritten
  try dsimp only
  repeat' first
    | simp +decide (maxDischargeDepth := 8) only [Within.iff_of (updBkt_within _ _ _ ), Within.iff_of (setOp_within _ _ ), Within.iff_of (dropOp_within _ _ ), Within.iff_of (settleBuckets_within _ ), Within.iff_of (flitReduced_within _ _ _ _ ), Within.iff_of (groupWritten_within _ _ ), Within.iff_of (parkedAt_within _ _ _ ), *, Within.self, Within.mk_iff, Within.forEach_iff, Within.when_iff, Within.clear_iff, Within.ite_of, spansIn_idx, spansIn_wu, and_self, implies_true, id_eq, ne_eq, not_false_eq_true, reduceCtorEq]
    | split
    | with_reducible refine Within.trans ?_ (Within.forEach (fun _ _ => ?_) _ _)
    | with_reducible refine Within.trans ?_ (Within.when (fun _ => ?_) _ _)

theorem sendResult_within (b f : Nat) (s : State) :
    Within [] s (sendResult b f s) := Within.of_only (sendResult_only b f s) (by decide)

theorem resultDelivered_within (rsb : Word) (use : Nat) (s : State) :
    Within [⟨0x3700, 4, 64⟩, ⟨0x6014, 0, 1⟩, ⟨0x7000, 4, 2⟩, ⟨0x7018, 4, 3⟩] s (resultDelivered rsb use s) := by
  unfold resultDelivered
  try dsimp only
  repeat' first
    | simp +decide (maxDischargeDepth := 8) only [Within.iff_of (updBkt_within _ _ _ ), Within.iff_of (settleBuckets_within _ ), *, Within.self, Within.mk_iff, Within.forEach_iff, Within.when_iff, Within.clear_iff, Within.ite_of, spansIn_idx, spansIn_wu, and_self, implies_true, id_eq, ne_eq, not_false_eq_true, reduceCtorEq]
    | split
    | with_reducible refine Within.trans ?_ (Within.forEach (fun _ _ => ?_) _ _)
    | with_reducible refine Within.trans ?_ (Within.when (fun _ => ?_) _ _)

theorem execLandingToDcq_within (lane : Nat) (s : State) (s' : State) (h : execLandingToDcq lane s = .next s') :
    Within [⟨0x3700, 4, 64⟩, ⟨0x4890, 4, 32⟩, ⟨0x6014, 0, 1⟩, ⟨0x7000, 4, 2⟩, ⟨0x7018, 4, 3⟩] s s' := by
  unfold execLandingToDcq at h
  injection h with h
  subst h
  try dsimp only
  repeat' first
    | simp +decide (maxDischargeDepth := 8) only [Within.iff_of (estimate_within _ _ _ ), Within.iff_of (updSlip_within _ _ _ ), Within.iff_of (updRlane_within _ _ _ ), Within.iff_of (progress_within _ _ ), Within.iff_of (sealFlit_within _ _ _ ), Within.iff_of (resultDelivered_within _ _ _ ), *, Within.self, Within.mk_iff, Within.forEach_iff, Within.when_iff, Within.clear_iff, Within.ite_of, spansIn_idx, spansIn_wu, and_self, implies_true, id_eq, ne_eq, not_false_eq_true, reduceCtorEq]
    | (refine Within.snd (by assumption) (sealFlit_within _ _ _ ) (by decide) ?_)
    | split
    | with_reducible refine Within.trans ?_ (Within.forEach (fun _ _ => ?_) _ _)
    | with_reducible refine Within.trans ?_ (Within.when (fun _ => ?_) _ _)

theorem execIntakeFlit_within (lane : Bool) (s : State) (s' : State) (h : execIntakeFlit lane s = .next s') :
    Within [⟨0x3818, 4, 2⟩, ⟨0x5A80, 0x20, 16⟩, ⟨0x6014, 0, 1⟩, ⟨0x7000, 4, 2⟩, ⟨0x7018, 4, 3⟩] s s' := by
  unfold execIntakeFlit at h
  injection h with h
  subst h
  try dsimp only
  repeat' first
    | simp +decide (maxDischargeDepth := 8) only [Within.iff_of (popWdcq_within _ _ ), Within.iff_of (takeIn_within _ _ _ _ ), *, Within.self, Within.mk_iff, Within.forEach_iff, Within.when_iff, Within.clear_iff, Within.ite_of, spansIn_idx, spansIn_wu, and_self, implies_true, id_eq, ne_eq, not_false_eq_true, reduceCtorEq]
    | split
    | with_reducible refine Within.trans ?_ (Within.forEach (fun _ _ => ?_) _ _)
    | with_reducible refine Within.trans ?_ (Within.when (fun _ => ?_) _ _)

theorem execCombine_within (vc : BitVec 4) (s : State) (s' : State) (h : execCombine vc s = .next s') :
    Within [⟨0x3818, 4, 2⟩, ⟨0x5A80, 0x20, 16⟩, ⟨0x6014, 0, 1⟩, ⟨0x7000, 4, 2⟩, ⟨0x7018, 4, 3⟩] s s' := by
  unfold execCombine at h
  injection h with h
  subst h
  try dsimp only
  repeat' first
    | simp +decide (maxDischargeDepth := 8) only [Within.iff_of (xbump_within _ _ _ ), Within.iff_of (halfTaken_within _ _ _ ), Within.iff_of (dropDup_within _ _ ), Within.iff_of (combineHalf_within _ _ _ ), *, Within.self, Within.mk_iff, Within.forEach_iff, Within.when_iff, Within.clear_iff, Within.ite_of, spansIn_idx, spansIn_wu, and_self, implies_true, id_eq, ne_eq, not_false_eq_true, reduceCtorEq]
    | split
    | with_reducible refine Within.trans ?_ (Within.forEach (fun _ _ => ?_) _ _)
    | with_reducible refine Within.trans ?_ (Within.when (fun _ => ?_) _ _)

theorem execVcCreditReturn_within (vc : BitVec 4) (s : State) (s' : State) (h : execVcCreditReturn vc s = .next s') :
    Within [] s s' := Within.of_only (execVcCreditReturn_only vc s s' h) (by decide)

theorem execEgressCreditReturn_within (vc : BitVec 4) (count : BitVec 8) (s : State) (s' : State) (h : execEgressCreditReturn vc count s = .next s') :
    Within [⟨0x5A88, 0x20, 16⟩, ⟨0x6014, 0, 1⟩, ⟨0x7000, 4, 2⟩, ⟨0x7018, 4, 3⟩] s s' := by
  unfold execEgressCreditReturn at h
  injection h with h
  subst h
  try dsimp only
  repeat' first
    | simp +decide (maxDischargeDepth := 8) only [Within.iff_of (bump_within _ _ _ ), Within.iff_of (raise_within _ _ ), *, Within.self, Within.mk_iff, Within.forEach_iff, Within.when_iff, Within.clear_iff, Within.ite_of, spansIn_idx, spansIn_wu, and_self, implies_true, id_eq, ne_eq, not_false_eq_true, reduceCtorEq]
    | split
    | with_reducible refine Within.trans ?_ (Within.forEach (fun _ _ => ?_) _ _)
    | with_reducible refine Within.trans ?_ (Within.when (fun _ => ?_) _ _)

theorem execBdataWrite_within (a : BusAcc) (w : Word) (s : State) (s' : State) (h : execBdataWrite a w s = .next s') :
    Within [⟨0x380C, 0, 1⟩, ⟨0x4804, 4, 2⟩, ⟨0x57B8, 0x40, 8⟩, ⟨0x5980, 0, 1⟩, ⟨0x6014, 0, 1⟩, ⟨0x7000, 4, 2⟩, ⟨0x7018, 4, 3⟩] s s' := by
  unfold execBdataWrite at h
  injection h with h
  subst h
  try dsimp only
  repeat' first
    | (with_reducible refine Within.trans ?_ (busWrite_within _ _ _ _ (by decide) (fun _ => ?_)))
    | simp +decide (maxDischargeDepth := 8) only [Within.iff_of (writeBdata_within _ _ _ ), *, Within.self, Within.mk_iff, Within.forEach_iff, Within.when_iff, Within.clear_iff, Within.ite_of, spansIn_idx, spansIn_wu, and_self, implies_true, id_eq, ne_eq, not_false_eq_true, reduceCtorEq]
    | split
    | with_reducible refine Within.trans ?_ (Within.forEach (fun _ _ => ?_) _ _)
    | with_reducible refine Within.trans ?_ (Within.when (fun _ => ?_) _ _)

theorem execBdataRead_within (a : BusAcc) (s : State) (s' : State) (h : execBdataRead a s = .next s') :
    Within [⟨0x4804, 4, 2⟩, ⟨0x57B8, 0x40, 8⟩, ⟨0x5980, 0, 1⟩, ⟨0x6014, 0, 1⟩, ⟨0x7000, 4, 2⟩, ⟨0x7018, 4, 3⟩] s s' := by
  unfold execBdataRead at h
  injection h with h
  subst h
  try dsimp only
  repeat' first
    | (with_reducible refine Within.trans ?_ (busRead_within _ _ _ _ (by decide) (fun _ => ?_)))
    | simp +decide (maxDischargeDepth := 8) only [Within.iff_of (baddrAdvance_within _ _ ), *, Within.self, Within.mk_iff, Within.forEach_iff, Within.when_iff, Within.clear_iff, Within.ite_of, spansIn_idx, spansIn_wu, and_self, implies_true, id_eq, ne_eq, not_false_eq_true, reduceCtorEq]
    | split
    | with_reducible refine Within.trans ?_ (Within.forEach (fun _ _ => ?_) _ _)
    | with_reducible refine Within.trans ?_ (Within.when (fun _ => ?_) _ _)

theorem execArm_within (a : BusAcc) (bucket : BitVec 6) (s : State) (s' : State) (h : execArm a bucket s = .next s') :
    Within [⟨0x380C, 0, 1⟩, ⟨0x4804, 4, 2⟩, ⟨0x57B8, 0x40, 8⟩, ⟨0x5980, 0, 1⟩, ⟨0x6014, 0, 1⟩, ⟨0x7000, 4, 2⟩, ⟨0x7018, 4, 3⟩] s s' := by
  unfold execArm at h
  injection h with h
  subst h
  try dsimp only
  repeat' first
    | (with_reducible refine Within.trans ?_ (busWrite_within _ _ _ _ (by decide) (fun _ => ?_)))
    | simp +decide (maxDischargeDepth := 8) only [Within.iff_of (armBucket_within _ _ _ ), *, Within.self, Within.mk_iff, Within.forEach_iff, Within.when_iff, Within.clear_iff, Within.ite_of, spansIn_idx, spansIn_wu, and_self, implies_true, id_eq, ne_eq, not_false_eq_true, reduceCtorEq]
    | split
    | with_reducible refine Within.trans ?_ (Within.forEach (fun _ _ => ?_) _ _)
    | with_reducible refine Within.trans ?_ (Within.when (fun _ => ?_) _ _)

theorem execAbort_within (a : BusAcc) (bucket : BitVec 6) (s : State) (s' : State) (h : execAbort a bucket s = .next s') :
    Within [⟨0x380C, 0, 1⟩, ⟨0x3818, 4, 2⟩, ⟨0x4804, 4, 2⟩, ⟨0x57B8, 0x40, 8⟩, ⟨0x5980, 0, 1⟩, ⟨0x5A80, 0x20, 16⟩, ⟨0x6014, 0, 1⟩, ⟨0x7000, 4, 2⟩, ⟨0x7018, 4, 3⟩] s s' := by
  unfold execAbort at h
  injection h with h
  subst h
  try dsimp only
  repeat' first
    | (with_reducible refine Within.trans ?_ (busWrite_within _ _ _ _ (by decide) (fun _ => ?_)))
    | simp +decide (maxDischargeDepth := 8) only [Within.iff_of (abortBucket_within _ _ _ ), *, Within.self, Within.mk_iff, Within.forEach_iff, Within.when_iff, Within.clear_iff, Within.ite_of, spansIn_idx, spansIn_wu, and_self, implies_true, id_eq, ne_eq, not_false_eq_true, reduceCtorEq]
    | split
    | with_reducible refine Within.trans ?_ (Within.forEach (fun _ _ => ?_) _ _)
    | with_reducible refine Within.trans ?_ (Within.when (fun _ => ?_) _ _)

theorem execNormPassEnd_within (bucket : BitVec 6) (s : State) (s' : State) (h : execNormPassEnd bucket s = .next s') :
    Within [⟨0x3700, 4, 64⟩, ⟨0x6014, 0, 1⟩, ⟨0x7000, 4, 2⟩, ⟨0x7018, 4, 3⟩] s s' := by
  unfold execNormPassEnd at h
  injection h with h
  subst h
  try dsimp only
  repeat' first
    | simp +decide (maxDischargeDepth := 8) only [Within.iff_of (updBkt_within _ _ _ ), Within.iff_of (dropOp_within _ _ ), Within.iff_of (settleBuckets_within _ ), Within.iff_of (joinGroup_within _ _ _ ), *, Within.self, Within.mk_iff, Within.forEach_iff, Within.when_iff, Within.clear_iff, Within.ite_of, spansIn_idx, spansIn_wu, and_self, implies_true, id_eq, ne_eq, not_false_eq_true, reduceCtorEq]
    | split
    | with_reducible refine Within.trans ?_ (Within.forEach (fun _ _ => ?_) _ _)
    | with_reducible refine Within.trans ?_ (Within.when (fun _ => ?_) _ _)

theorem execNgctlWrite_within (a : BusAcc) (g : BitVec 3) (w : Word) (s : State) (s' : State) (h : execNgctlWrite a g w s = .next s') :
    Within [⟨0x3D00, 0x10, 8⟩, ⟨0x4804, 4, 2⟩, ⟨0x57B8, 0x40, 8⟩, ⟨0x5980, 0, 1⟩, ⟨0x6014, 0, 1⟩, ⟨0x7000, 4, 2⟩, ⟨0x7018, 4, 3⟩] s s' := by
  unfold execNgctlWrite at h
  injection h with h
  subst h
  try dsimp only
  repeat' first
    | (with_reducible refine Within.trans ?_ (busWrite_within _ _ _ _ (by decide) (fun _ => ?_)))
    | simp +decide (maxDischargeDepth := 8) only [Within.iff_of (writeNgctl_within _ _ _ ), *, Within.self, Within.mk_iff, Within.forEach_iff, Within.when_iff, Within.clear_iff, Within.ite_of, spansIn_idx, spansIn_wu, and_self, implies_true, id_eq, ne_eq, not_false_eq_true, reduceCtorEq]
    | split
    | with_reducible refine Within.trans ?_ (Within.forEach (fun _ _ => ?_) _ _)
    | with_reducible refine Within.trans ?_ (Within.when (fun _ => ?_) _ _)

theorem execUpdateFlit_within (bucket : BitVec 6) (s : State) (s' : State) (h : execUpdateFlit bucket s = .next s') :
    Within [] s s' := Within.of_only (execUpdateFlit_only bucket s s' h) (by decide)

theorem execResultSend_within (bucket : BitVec 6) (s : State) (s' : State) (h : execResultSend bucket s = .next s') :
    Within [] s s' := Within.of_only (execResultSend_only bucket s s' h) (by decide)

end Sys2Proof.Machine
end

