-- ==== Sys2Proof/Laws/WithinExchange.lean ====
section
/-!
SUPPORT. Laws/WithinExchange.lean: the registers and counters that the operations and commands of Machine/Exchange.lean may change (generated
text, one lemma for each).
-/
namespace Sys2Proof.Machine

set_option linter.unusedSimpArgs false
set_option linter.tactic.unusedName false

theorem askSide_within (c : Nat) (s : State) :
    Within [] s (askSide c s) := Within.of_only (askSide_only c s) (by decide)

theorem askScale_within (sid l : Nat) (s : State) :
    Within [] s (askScale sid l s) := Within.of_only (askScale_only sid l s) (by decide)

theorem askChunk_within (x : Slip) (s : State) :
    Within [] s (askChunk x s) := Within.of_only (askChunk_only x s) (by decide)

theorem requestPark_within (r : Nat) (s : State) :
    Within [] s (requestPark r s) := Within.of_only (requestPark_only r s) (by decide)

theorem addPart_within (x : Slip) (i : Nat) (data : Row) (pois : Mask4) (sc : List (Nat × Bool)) (s : State) :
    Within [] s (addPart x i data pois sc s) := Within.of_only (addPart_only x i data pois sc s) (by decide)

theorem drainRaw_within (sid n : Nat) (s : State) : Within [] s (drainRaw sid n s) :=
  Within.of_only (drainRaw_only sid n s) (by decide)

theorem parkArrived_within (x : Slip) (i : Nat) (data : Row) (pois : Mask4) (s : State) :
    Within [] s (parkArrived x i data pois s) := Within.of_only (parkArrived_only x i data pois s) (by decide)

theorem parkWritten_within (x : Slip) (s : State) :
    Within [] s (parkWritten x s) := Within.of_only (parkWritten_only x s) (by decide)

theorem sideArrived_within (sid l : Nat) (f : Row × Mask4) (s : State) :
    Within [] s (sideArrived sid l f s) := Within.of_only (sideArrived_only sid l f s) (by decide)

theorem vecArrived_within (sid l : Nat) (f : Row × Mask4) (s : State) :
    Within [] s (vecArrived sid l f s) := Within.of_only (vecArrived_only sid l f s) (by decide)

theorem scaleArrived_within (sid l : Nat) (a : Int) (f : Row × Mask4) (s : State) :
    Within [] s (scaleArrived sid l a f s) := Within.of_only (scaleArrived_only sid l a f s) (by decide)

theorem jobDone_within (t : Tr) (s : State) :
    Within [⟨0x3700, 4, 64⟩, ⟨0x6014, 4, 4⟩, ⟨0x6A1C, 0x40, 4⟩, ⟨0x7000, 4, 2⟩, ⟨0x7018, 4, 3⟩] s (jobDone t s) := by
  unfold jobDone
  try dsimp only
  repeat' first
    | simp +decide (maxDischargeDepth := 8) only [Within.iff_of (updSlip_within _ _ _ ), Within.iff_of (advanceRing_within _ _ ), Within.iff_of (dumped_within _ _ _ ), Within.iff_of (updHeld_within _ _ _ ), Within.iff_of (opRead_within _ _ _ _ ), Within.iff_of (opWritten_within _ _ _ ), Within.iff_of (copyRead_within _ _ ), Within.iff_of (copyWritten_within _ ), Within.iff_of (dualWritten_within _ ), Within.iff_of (sideArrived_within _ _ _ _ ), Within.iff_of (vecArrived_within _ _ _ _ ), Within.iff_of (scaleArrived_within _ _ _ _ _ ), *, Within.self, Within.mk_iff, Within.forEach_iff, Within.when_iff, Within.clear_iff, Within.ite_of, spansIn_idx, spansIn_wu, and_self, implies_true, id_eq, ne_eq, not_false_eq_true, reduceCtorEq]
    | split
    | with_reducible refine Within.trans ?_ (Within.forEach (fun _ _ => ?_) _ _)
    | with_reducible refine Within.trans ?_ (Within.when (fun _ => ?_) _ _)

theorem settleGo_within (l : List Nat) (s : State) : Within [⟨0x3700, 4, 64⟩, ⟨0x6014, 4, 4⟩, ⟨0x6A1C, 0x40, 4⟩, ⟨0x7000, 4, 2⟩, ⟨0x7018, 4, 3⟩] s (settleGo l s) := by
  induction l generalizing s with
  | nil => exact Within.refl _ _
  | cons id ids ih =>
    unfold settleGo
    repeat' first
      | simp +decide (maxDischargeDepth := 8) only [Within.iff_of (ih _), Within.iff_of (jobDone_within _ _), Within.iff_of (setTr_within _ _), *, Within.self, Within.mk_iff, Within.forEach_iff, Within.when_iff, Within.clear_iff, Within.ite_of, spansIn_idx, spansIn_wu, and_self, implies_true, id_eq, ne_eq, not_false_eq_true, reduceCtorEq]
      | split

theorem settlePort_within (req : Nat) (s : State) :
    Within [⟨0x3700, 4, 64⟩, ⟨0x6014, 4, 4⟩, ⟨0x6A1C, 0x40, 4⟩, ⟨0x7000, 4, 2⟩, ⟨0x7018, 4, 3⟩] s (settlePort req s) := by
  unfold settlePort
  try dsimp only
  repeat' first
    | simp +decide (maxDischargeDepth := 8) only [Within.iff_of (settleGo_within _ _ ), *, Within.self, Within.mk_iff, Within.forEach_iff, Within.when_iff, Within.clear_iff, Within.ite_of, spansIn_idx, spansIn_wu, and_self, implies_true, id_eq, ne_eq, not_false_eq_true, reduceCtorEq]
    | split
    | with_reducible refine Within.trans ?_ (Within.forEach (fun _ _ => ?_) _ _)
    | with_reducible refine Within.trans ?_ (Within.when (fun _ => ?_) _ _)

theorem fetchAhead_within (s : State) :
    Within [] s (fetchAhead s) := Within.of_only (fetchAhead_only s) (by decide)

end Sys2Proof.Machine
end

