-- ==== Sys2Proof/Laws/WithinArbiter.lean ====
section
/-!
SUPPORT. Laws/WithinArbiter.lean: the registers and counters that the operations and commands of Machine/Arbiter.lean may change (generated
text, one lemma for each).
-/
namespace Sys2Proof.Machine

set_option linter.unusedSimpArgs false
set_option linter.tactic.unusedName false

theorem regroup_within (id : Nat) (s : State) :
    Within [] s (regroup id s) := Within.of_only (regroup_only id s) (by decide)

theorem preempt_within (id : Nat) (s : State) :
    Within [⟨0x5608, 0x20, 12⟩, ⟨0x5610, 0x20, 12⟩] s (preempt id s) := by
  unfold preempt
  try dsimp only
  repeat' first
    | simp +decide (maxDischargeDepth := 8) only [Within.iff_of (bump_within _ _ _ ), Within.iff_of (setTr_within _ _ ), Within.iff_of (dropTr_within _ _ ), Within.iff_of (regroup_within _ _ ), *, Within.self, Within.mk_iff, Within.forEach_iff, Within.when_iff, Within.clear_iff, Within.ite_of, spansIn_idx, spansIn_wu, and_self, implies_true, id_eq, ne_eq, not_false_eq_true, reduceCtorEq]
    | split
    | with_reducible refine Within.trans ?_ (Within.forEach (fun _ _ => ?_) _ _)
    | with_reducible refine Within.trans ?_ (Within.when (fun _ => ?_) _ _)

theorem ownFault_within (t : Tr) (b : Beat) (s : State) :
    Within [⟨0x1300, 4, 2⟩, ⟨0x5780, 0x40, 8⟩, ⟨0x5788, 0x40, 8⟩, ⟨0x6014, 0, 1⟩, ⟨0x7000, 4, 2⟩, ⟨0x7018, 4, 3⟩] s (ownFault t b s) := by
  unfold ownFault
  try dsimp only
  repeat' first
    | simp +decide (maxDischargeDepth := 8) only [Within.iff_of (raise_within _ _ ), Within.iff_of (faultRow_within _ _ _ _ _ _ _ _ ), Within.iff_of (setTr_within _ _ ), *, Within.self, Within.mk_iff, Within.forEach_iff, Within.when_iff, Within.clear_iff, Within.ite_of, spansIn_idx, spansIn_wu, and_self, implies_true, id_eq, ne_eq, not_false_eq_true, reduceCtorEq]
    | split
    | with_reducible refine Within.trans ?_ (Within.forEach (fun _ _ => ?_) _ _)
    | with_reducible refine Within.trans ?_ (Within.when (fun _ => ?_) _ _)

theorem beatFault_within (t : Tr) (b : Beat) (s : State) :
    Within [⟨0x1300, 4, 2⟩, ⟨0x5780, 0x40, 8⟩, ⟨0x5788, 0x40, 8⟩, ⟨0x59B0, 0, 1⟩, ⟨0x6014, 0, 1⟩, ⟨0x7000, 4, 2⟩, ⟨0x7018, 4, 3⟩] s (beatFault t b s) := by
  unfold beatFault
  try dsimp only
  repeat' first
    | simp +decide (maxDischargeDepth := 8) only [Within.iff_of (deadAccess_within _ _ ), Within.iff_of (slipFault_within _ _ _ _ _ _ ), Within.iff_of (opFault_within _ _ ), Within.iff_of (ownFault_within _ _ _ ), *, Within.self, Within.mk_iff, Within.forEach_iff, Within.when_iff, Within.clear_iff, Within.ite_of, spansIn_idx, spansIn_wu, and_self, implies_true, id_eq, ne_eq, not_false_eq_true, reduceCtorEq]
    | split
    | with_reducible refine Within.trans ?_ (Within.forEach (fun _ _ => ?_) _ _)
    | with_reducible refine Within.trans ?_ (Within.when (fun _ => ?_) _ _)

theorem beatGone_within (t : Tr) (b : Beat) (s : State) :
    Within [] s (beatGone t b s) := Within.of_only (beatGone_only t b s) (by decide)

theorem takeCredits_within (t : Tr) (s : State) :
    Within [] s (takeCredits t s) := Within.of_only (takeCredits_only t s) (by decide)

theorem grantTr_within (p : Plan) (s : State) :
    Within [⟨0x1300, 4, 2⟩, ⟨0x3700, 4, 64⟩, ⟨0x5608, 0x20, 12⟩, ⟨0x5610, 0x20, 12⟩, ⟨0x5780, 0x40, 8⟩, ⟨0x5788, 0x40, 8⟩, ⟨0x59B0, 0, 1⟩, ⟨0x6014, 4, 4⟩, ⟨0x6A1C, 0x40, 4⟩, ⟨0x7000, 4, 2⟩, ⟨0x7018, 4, 3⟩] s (grantTr p s) := by
  unfold grantTr
  try dsimp only
  repeat' first
    | simp +decide (maxDischargeDepth := 8) only [Within.iff_of (updSlip_within _ _ _ ), Within.iff_of (setTr_within _ _ ), Within.iff_of (settlePort_within _ _ ), Within.iff_of (preempt_within _ _ ), Within.iff_of (beatFault_within _ _ _ ), Within.iff_of (beatGone_within _ _ _ ), Within.iff_of (takeCredits_within _ _ ), *, Within.self, Within.mk_iff, Within.forEach_iff, Within.when_iff, Within.clear_iff, Within.ite_of, spansIn_idx, spansIn_wu, and_self, implies_true, id_eq, ne_eq, not_false_eq_true, reduceCtorEq]
    | split
    | with_reducible refine Within.trans ?_ (Within.forEach (fun _ _ => ?_) _ _)
    | with_reducible refine Within.trans ?_ (Within.when (fun _ => ?_) _ _)

theorem movePointers_within (l : List Plan) (s : State) : Within [] s (movePointers l s) :=
  Within.of_only (movePointers_only l s) (by decide)

theorem giveTicket_within (x : Tr) (t : Nat) (s : State) :
    Within [] s (giveTicket x t s) := Within.of_only (giveTicket_only x t s) (by decide)

theorem markWaiting_within (s : State) :
    Within [] s (markWaiting s) := Within.of_only (markWaiting_only s) (by decide)

theorem sweep_within (s : State) :
    Within [] s (sweep s) := Within.of_only (sweep_only s) (by decide)

theorem settleLane_within (lane n : Nat) (s : State) : Within [] s (settleLane lane n s) :=
  Within.of_only (settleLane_only lane n s) (by decide)

theorem countClients_within (work : List (Nat × List Nat)) (s : State) :
    Within [⟨0x5000, 0x80, 12⟩, ⟨0x5008, 0x80, 12⟩, ⟨0x5010, 8, 188⟩] s (countClients work s) := by
  unfold countClients
  try dsimp only
  repeat' first
    | simp +decide (maxDischargeDepth := 8) only [Within.iff_of (bump_within _ _ _ ), *, Within.self, Within.mk_iff, Within.forEach_iff, Within.when_iff, Within.clear_iff, Within.ite_of, spansIn_idx, spansIn_wu, and_self, implies_true, id_eq, ne_eq, not_false_eq_true, reduceCtorEq]
    | split
    | with_reducible refine Within.trans ?_ (Within.forEach (fun _ _ => ?_) _ _)
    | with_reducible refine Within.trans ?_ (Within.when (fun _ => ?_) _ _)

theorem countSlots_within (s : State) :
    Within [] s (countSlots s) := Within.of_only (countSlots_only s) (by decide)

theorem countQueues_within (late : List Nat) (s : State) :
    Within [] s (countQueues late s) := Within.of_only (countQueues_only late s) (by decide)

theorem decide__within (s : State) :
    Within [⟨0x1300, 4, 2⟩, ⟨0x3700, 4, 64⟩, ⟨0x5608, 0x20, 12⟩, ⟨0x5610, 0x20, 12⟩, ⟨0x5780, 0x40, 8⟩, ⟨0x5788, 0x40, 8⟩, ⟨0x59B0, 0, 1⟩, ⟨0x6014, 4, 4⟩, ⟨0x6A1C, 0x40, 4⟩, ⟨0x7000, 4, 2⟩, ⟨0x7018, 4, 3⟩] s (decide_ s) := by
  unfold decide_
  try dsimp only
  repeat' first
    | simp +decide (maxDischargeDepth := 8) only [Within.iff_of (xbump_within _ _ _ ), Within.iff_of (preempt_within _ _ ), Within.iff_of (grantTr_within _ _ ), Within.iff_of (movePointers_within _ _ ), Within.iff_of (giveTicket_within _ _ _ ), *, Within.self, Within.mk_iff, Within.forEach_iff, Within.when_iff, Within.clear_iff, Within.ite_of, spansIn_idx, spansIn_wu, and_self, implies_true, id_eq, ne_eq, not_false_eq_true, reduceCtorEq]
    | split
    | with_reducible refine Within.trans ?_ (Within.forEach (fun _ _ => ?_) _ _)
    | with_reducible refine Within.trans ?_ (Within.when (fun _ => ?_) _ _)

theorem decideExempt_within (s : State) :
    Within [⟨0x1300, 4, 2⟩, ⟨0x3700, 4, 64⟩, ⟨0x5608, 0x20, 12⟩, ⟨0x5610, 0x20, 12⟩, ⟨0x5780, 0x40, 8⟩, ⟨0x5788, 0x40, 8⟩, ⟨0x59B0, 0, 1⟩, ⟨0x6014, 4, 4⟩, ⟨0x6A1C, 0x40, 4⟩, ⟨0x7000, 4, 2⟩, ⟨0x7018, 4, 3⟩] s (decideExempt s) := by
  unfold decideExempt
  try dsimp only
  repeat' first
    | simp +decide (maxDischargeDepth := 8) only [Within.iff_of (grantTr_within _ _ ), Within.iff_of (movePointers_within _ _ ), *, Within.self, Within.mk_iff, Within.forEach_iff, Within.when_iff, Within.clear_iff, Within.ite_of, spansIn_idx, spansIn_wu, and_self, implies_true, id_eq, ne_eq, not_false_eq_true, reduceCtorEq]
    | split
    | with_reducible refine Within.trans ?_ (Within.forEach (fun _ _ => ?_) _ _)
    | with_reducible refine Within.trans ?_ (Within.when (fun _ => ?_) _ _)

theorem wakeBanks_within (s : State) :
    Within [] s (wakeBanks s) := Within.of_only (wakeBanks_only s) (by decide)

theorem settleAll_within (s : State) :
    Within [] s (settleAll s) := Within.of_only (settleAll_only s) (by decide)

theorem haltCycle_within (s : State) :
    Within [⟨0x1300, 4, 2⟩, ⟨0x3700, 4, 64⟩, ⟨0x5000, 0x80, 12⟩, ⟨0x5008, 0x80, 12⟩, ⟨0x5010, 8, 188⟩, ⟨0x5608, 0x20, 12⟩, ⟨0x5610, 0x20, 12⟩, ⟨0x5780, 0x40, 8⟩, ⟨0x5788, 0x40, 8⟩, ⟨0x59B0, 0, 1⟩, ⟨0x6014, 4, 4⟩, ⟨0x6A1C, 0x40, 4⟩, ⟨0x7000, 4, 2⟩, ⟨0x7018, 4, 3⟩] s (haltCycle s) := by
  unfold haltCycle
  try dsimp only
  repeat' first
    | simp +decide (maxDischargeDepth := 8) only [Within.iff_of (sweep_within _ ), Within.iff_of (countClients_within _ _ ), Within.iff_of (decideExempt_within _ ), Within.iff_of (wakeBanks_within _ ), *, Within.self, Within.mk_iff, Within.forEach_iff, Within.when_iff, Within.clear_iff, Within.ite_of, spansIn_idx, spansIn_wu, and_self, implies_true, id_eq, ne_eq, not_false_eq_true, reduceCtorEq]
    | split
    | with_reducible refine Within.trans ?_ (Within.forEach (fun _ _ => ?_) _ _)
    | with_reducible refine Within.trans ?_ (Within.when (fun _ => ?_) _ _)

theorem runCycle_within (s : State) :
    Within [⟨0x1300, 4, 2⟩, ⟨0x3700, 4, 64⟩, ⟨0x5000, 0x80, 12⟩, ⟨0x5008, 0x80, 12⟩, ⟨0x5010, 8, 188⟩, ⟨0x5608, 0x20, 12⟩, ⟨0x5610, 0x20, 12⟩, ⟨0x5780, 0x40, 8⟩, ⟨0x5788, 0x40, 8⟩, ⟨0x59B0, 0, 1⟩, ⟨0x5A90, 0x20, 16⟩, ⟨0x6014, 4, 4⟩, ⟨0x6A1C, 0x40, 4⟩, ⟨0x7000, 4, 2⟩, ⟨0x7018, 4, 3⟩] s (runCycle s) := by
  unfold runCycle
  try dsimp only
  repeat' first
    | simp +decide (maxDischargeDepth := 8) only [Within.iff_of (pigeonCycle_within _ ), Within.iff_of (settleMig_within _ ), Within.iff_of (fetchAhead_within _ ), Within.iff_of (markWaiting_within _ ), Within.iff_of (sweep_within _ ), Within.iff_of (countClients_within _ _ ), Within.iff_of (countSlots_within _ ), Within.iff_of (countQueues_within _ _ ), Within.iff_of (decide__within _ ), Within.iff_of (wakeBanks_within _ ), Within.iff_of (settleAll_within _ ), *, Within.self, Within.mk_iff, Within.forEach_iff, Within.when_iff, Within.clear_iff, Within.ite_of, spansIn_idx, spansIn_wu, and_self, implies_true, id_eq, ne_eq, not_false_eq_true, reduceCtorEq]
    | split
    | with_reducible refine Within.trans ?_ (Within.forEach (fun _ _ => ?_) _ _)
    | with_reducible refine Within.trans ?_ (Within.when (fun _ => ?_) _ _)

theorem endQuarantine_within (req : Nat) (s : State) :
    Within [⟨0x28C0, 4, 6⟩, ⟨0x6014, 0, 1⟩, ⟨0x7000, 4, 2⟩, ⟨0x7018, 4, 3⟩] s (endQuarantine req s) := by
  unfold endQuarantine
  try dsimp only
  repeat' first
    | simp +decide (maxDischargeDepth := 8) only [Within.iff_of (clrReg_within _ _ _ ), Within.iff_of (raise_within _ _ ), *, Within.self, Within.mk_iff, Within.forEach_iff, Within.when_iff, Within.clear_iff, Within.ite_of, spansIn_idx, spansIn_wu, and_self, implies_true, id_eq, ne_eq, not_false_eq_true, reduceCtorEq]
    | split
    | with_reducible refine Within.trans ?_ (Within.forEach (fun _ _ => ?_) _ _)
    | with_reducible refine Within.trans ?_ (Within.when (fun _ => ?_) _ _)

theorem writeQrel_within (w : Word) (s : State) :
    Within [⟨0x28C0, 4, 6⟩, ⟨0x6014, 0, 1⟩, ⟨0x7000, 4, 2⟩, ⟨0x7018, 4, 3⟩] s (writeQrel w s) := by
  unfold writeQrel
  try dsimp only
  repeat' first
    | simp +decide (maxDischargeDepth := 8) only [Within.iff_of (endQuarantine_within _ _ ), *, Within.self, Within.mk_iff, Within.forEach_iff, Within.when_iff, Within.clear_iff, Within.ite_of, spansIn_idx, spansIn_wu, and_self, implies_true, id_eq, ne_eq, not_false_eq_true, reduceCtorEq]
    | split
    | with_reducible refine Within.trans ?_ (Within.forEach (fun _ _ => ?_) _ _)
    | with_reducible refine Within.trans ?_ (Within.when (fun _ => ?_) _ _)

theorem execDecision_within (n : Nat) (s : State) (s' : State) (h : execDecision n s = .next s') :
    Within [⟨0x1300, 4, 2⟩, ⟨0x3700, 4, 64⟩, ⟨0x5000, 0x80, 12⟩, ⟨0x5008, 0x80, 12⟩, ⟨0x5010, 8, 188⟩, ⟨0x5608, 0x20, 12⟩, ⟨0x5610, 0x20, 12⟩, ⟨0x5780, 0x40, 8⟩, ⟨0x5788, 0x40, 8⟩, ⟨0x59B0, 0, 1⟩, ⟨0x59E8, 0, 1⟩, ⟨0x59F0, 0, 1⟩, ⟨0x59F8, 0, 1⟩, ⟨0x5A90, 0x20, 16⟩, ⟨0x6014, 4, 4⟩, ⟨0x6A1C, 0x40, 4⟩, ⟨0x7000, 4, 2⟩, ⟨0x7018, 4, 3⟩] s s' := by
  unfold execDecision at h
  injection h with h
  subst h
  try dsimp only
  repeat' first
    | simp +decide (maxDischargeDepth := 8) only [Within.iff_of (bump_within _ _ _ ), Within.iff_of (estimate_within _ _ _ ), Within.iff_of (judgeRails_within _ ), Within.iff_of (countStill_within _ _ ), Within.iff_of (tclk_within _ _ ), Within.iff_of (countClients_within _ _ ), Within.iff_of (haltCycle_within _ ), Within.iff_of (runCycle_within _ ), *, Within.self, Within.mk_iff, Within.forEach_iff, Within.when_iff, Within.clear_iff, Within.ite_of, spansIn_idx, spansIn_wu, and_self, implies_true, id_eq, ne_eq, not_false_eq_true, reduceCtorEq]
    | split
    | with_reducible refine Within.trans ?_ (Within.forEach (fun _ _ => ?_) _ _)
    | with_reducible refine Within.trans ?_ (Within.when (fun _ => ?_) _ _)

theorem execHoldLimitCutoff_within (bank : Nat) (port : Bool) (s : State) (s' : State) (h : execHoldLimitCutoff bank port s = .next s') :
    Within [⟨0x28A0, 4, 2⟩, ⟨0x5618, 0x20, 12⟩, ⟨0x6014, 0, 1⟩, ⟨0x7000, 4, 2⟩, ⟨0x7018, 4, 3⟩] s s' := by
  unfold execHoldLimitCutoff at h
  injection h with h
  subst h
  try dsimp only
  repeat' first
    | simp +decide (maxDischargeDepth := 8) only [Within.iff_of (bump_within _ _ _ ), Within.iff_of (raise_within _ _ ), Within.iff_of (fillLog_within _ _ _ _ ), *, Within.self, Within.mk_iff, Within.forEach_iff, Within.when_iff, Within.clear_iff, Within.ite_of, spansIn_idx, spansIn_wu, and_self, implies_true, id_eq, ne_eq, not_false_eq_true, reduceCtorEq]
    | split
    | with_reducible refine Within.trans ?_ (Within.forEach (fun _ _ => ?_) _ _)
    | with_reducible refine Within.trans ?_ (Within.when (fun _ => ?_) _ _)

theorem execCutoffEnd_within (bank req : Nat) (s : State) (s' : State) (h : execCutoffEnd bank req s = .next s') :
    Within [] s s' := Within.of_only (execCutoffEnd_only bank req s s' h) (by decide)

theorem execQuarantine_within (req : Nat) (s : State) (s' : State) (h : execQuarantine req s = .next s') :
    Within [⟨0x28C0, 4, 6⟩, ⟨0x6014, 0, 1⟩, ⟨0x7000, 4, 2⟩, ⟨0x7018, 4, 3⟩] s s' := by
  unfold execQuarantine at h
  injection h with h
  subst h
  try dsimp only
  repeat' first
    | simp +decide (maxDischargeDepth := 8) only [Within.iff_of (orReg_within _ _ _ ), Within.iff_of (raise_within _ _ ), *, Within.self, Within.mk_iff, Within.forEach_iff, Within.when_iff, Within.clear_iff, Within.ite_of, spansIn_idx, spansIn_wu, and_self, implies_true, id_eq, ne_eq, not_false_eq_true, reduceCtorEq]
    | split
    | with_reducible refine Within.trans ?_ (Within.forEach (fun _ _ => ?_) _ _)
    | with_reducible refine Within.trans ?_ (Within.when (fun _ => ?_) _ _)

theorem execQuarantineTimeout_within (req : Nat) (s : State) (s' : State) (h : execQuarantineTimeout req s = .next s') :
    Within [⟨0x28C0, 4, 6⟩, ⟨0x6014, 0, 1⟩, ⟨0x7000, 4, 2⟩, ⟨0x7018, 4, 3⟩] s s' := by
  unfold execQuarantineTimeout at h
  injection h with h
  subst h
  try dsimp only
  repeat' first
    | simp +decide (maxDischargeDepth := 8) only [Within.iff_of (endQuarantine_within _ _ ), *, Within.self, Within.mk_iff, Within.forEach_iff, Within.when_iff, Within.clear_iff, Within.ite_of, spansIn_idx, spansIn_wu, and_self, implies_true, id_eq, ne_eq, not_false_eq_true, reduceCtorEq]
    | split
    | with_reducible refine Within.trans ?_ (Within.forEach (fun _ _ => ?_) _ _)
    | with_reducible refine Within.trans ?_ (Within.when (fun _ => ?_) _ _)

theorem execQuarantineRelease_within (a : BusAcc) (w : Word) (s : State) (s' : State) (h : execQuarantineRelease a w s = .next s') :
    Within [⟨0x28C0, 4, 6⟩, ⟨0x4804, 4, 2⟩, ⟨0x57B8, 0x40, 8⟩, ⟨0x5980, 0, 1⟩, ⟨0x6014, 0, 1⟩, ⟨0x7000, 4, 2⟩, ⟨0x7018, 4, 3⟩] s s' := by
  unfold execQuarantineRelease at h
  injection h with h
  subst h
  try dsimp only
  repeat' first
    | (with_reducible refine Within.trans ?_ (busWrite_within _ _ _ _ (by decide) (fun _ => ?_)))
    | simp +decide (maxDischargeDepth := 8) only [Within.iff_of (writeQrel_within _ _ ), *, Within.self, Within.mk_iff, Within.forEach_iff, Within.when_iff, Within.clear_iff, Within.ite_of, spansIn_idx, spansIn_wu, and_self, implies_true, id_eq, ne_eq, not_false_eq_true, reduceCtorEq]
    | split
    | with_reducible refine Within.trans ?_ (Within.forEach (fun _ _ => ?_) _ _)
    | with_reducible refine Within.trans ?_ (Within.when (fun _ => ?_) _ _)

theorem execShareRefill_within (s : State) (s' : State) (h : execShareRefill s = .next s') :
    Within [] s s' := Within.of_only (execShareRefill_only s s' h) (by decide)

end Sys2Proof.Machine
end

