-- ==== Sys2Proof/Laws/WithinArrays.lean ====
section
/-!
SUPPORT. Laws/WithinArrays.lean: the registers and counters that the operations and commands of Machine/Arrays.lean may change (generated
text, one lemma for each).
-/
namespace Sys2Proof.Machine

set_option linter.unusedSimpArgs false
set_option linter.tactic.unusedName false

theorem updBeat_within (id n : Nat) (f : Beat → Beat) (s : State) :
    Within [] s (updBeat id n f s) := Within.of_only (updBeat_only id n f s) (by decide)

theorem spendShare_within (req : Nat) (s : State) :
    Within [] s (spendShare req s) := Within.of_only (spendShare_only req s) (by decide)

theorem beatPerformed_within (t : Tr) (lb : Nat) (s : State) :
    Within [⟨0x57A8, 0x40, 8⟩] s (beatPerformed t lb s) := by
  unfold beatPerformed
  try dsimp only
  repeat' first
    | simp +decide (maxDischargeDepth := 8) only [Within.iff_of (estimate_within _ _ _ ), Within.iff_of (progress_within _ _ ), Within.iff_of (countBeat_within _ _ _ _ ), Within.iff_of (spendShare_within _ _ ), *, Within.self, Within.mk_iff, Within.forEach_iff, Within.when_iff, Within.clear_iff, Within.ite_of, spansIn_idx, spansIn_wu, and_self, implies_true, id_eq, ne_eq, not_false_eq_true, reduceCtorEq]
    | split
    | with_reducible refine Within.trans ?_ (Within.forEach (fun _ _ => ?_) _ _)
    | with_reducible refine Within.trans ?_ (Within.when (fun _ => ?_) _ _)

theorem readBeatNow_within (t : Tr) (n : Nat) (b : Beat) (port : Bool) (ups : List Upset) (s : State) :
    Within [⟨0x0810, 4, 4⟩, ⟨0x3700, 4, 64⟩, ⟨0x57A8, 0x40, 8⟩, ⟨0x5988, 0, 1⟩, ⟨0x5990, 0, 1⟩, ⟨0x5998, 0, 1⟩, ⟨0x59A0, 0, 1⟩, ⟨0x59A8, 0, 1⟩, ⟨0x6014, 4, 4⟩, ⟨0x6A1C, 0x40, 4⟩, ⟨0x7000, 4, 2⟩, ⟨0x7018, 4, 3⟩] s (readBeatNow t n b port ups s) := by
  unfold readBeatNow
  try dsimp only
  repeat' first
    | simp +decide (maxDischargeDepth := 8) only [Within.iff_of (xbump_within _ _ _ ), Within.iff_of (readRow_within _ _ _ _ _ _ ), Within.iff_of (parkArrived_within _ _ _ _ _ ), Within.iff_of (settlePort_within _ _ ), Within.iff_of (updBeat_within _ _ _ _ ), Within.iff_of (beatPerformed_within _ _ _ ), *, Within.self, Within.mk_iff, Within.forEach_iff, Within.when_iff, Within.clear_iff, Within.ite_of, spansIn_idx, spansIn_wu, and_self, implies_true, id_eq, ne_eq, not_false_eq_true, reduceCtorEq]
    | (refine Within.snd (by assumption) (readRow_within _ _ _ _ _ _ ) (by decide) ?_)
    | split
    | with_reducible refine Within.trans ?_ (Within.forEach (fun _ _ => ?_) _ _)
    | with_reducible refine Within.trans ?_ (Within.when (fun _ => ?_) _ _)

theorem writeBeatNow_within (t : Tr) (n : Nat) (b : Beat) (port : Bool) (par : Parity) (s : State) :
    Within [⟨0x1810, 4, 2⟩, ⟨0x3700, 4, 64⟩, ⟨0x57A8, 0x40, 8⟩, ⟨0x59B8, 0, 1⟩, ⟨0x59C0, 0, 1⟩, ⟨0x59C8, 0, 1⟩, ⟨0x6014, 4, 4⟩, ⟨0x6808, 0, 1⟩, ⟨0x6A1C, 0x40, 4⟩, ⟨0x6A20, 0x40, 4⟩, ⟨0x6A24, 0x40, 4⟩, ⟨0x7000, 4, 2⟩, ⟨0x7018, 4, 3⟩] s (writeBeatNow t n b port par s) := by
  unfold writeBeatNow
  try dsimp only
  repeat' first
    | simp +decide (maxDischargeDepth := 8) only [Within.iff_of (portStore_within _ _ _ _ _ _ _ _ _ _ ), Within.iff_of (watchStore_within _ _ _ _ _ _ _ _ ), Within.iff_of (markPlane_within _ _ _ ), Within.iff_of (netParity_within _ _ _ _ _ ), Within.iff_of (parkWritten_within _ _ ), Within.iff_of (settlePort_within _ _ ), Within.iff_of (settleLane_within _ _ _ ), Within.iff_of (updBeat_within _ _ _ _ ), Within.iff_of (beatPerformed_within _ _ _ ), *, Within.self, Within.mk_iff, Within.forEach_iff, Within.when_iff, Within.clear_iff, Within.ite_of, spansIn_idx, spansIn_wu, and_self, implies_true, id_eq, ne_eq, not_false_eq_true, reduceCtorEq]
    | split
    | with_reducible refine Within.trans ?_ (Within.forEach (fun _ _ => ?_) _ _)
    | with_reducible refine Within.trans ?_ (Within.when (fun _ => ?_) _ _)

theorem atomicNow_within (t : Tr) (b : Beat) (port : Bool) (ups : List Upset) (par : Parity) (s : State) :
    Within [⟨0x0810, 4, 4⟩, ⟨0x1810, 4, 2⟩, ⟨0x57A8, 0x40, 8⟩, ⟨0x5988, 0, 1⟩, ⟨0x5990, 0, 1⟩, ⟨0x5998, 0, 1⟩, ⟨0x59A0, 0, 1⟩, ⟨0x59A8, 0, 1⟩, ⟨0x59C0, 0, 1⟩, ⟨0x59C8, 0, 1⟩, ⟨0x6014, 0, 1⟩, ⟨0x7000, 4, 2⟩, ⟨0x7018, 4, 3⟩] s (atomicNow t b port ups par s) := by
  unfold atomicNow
  try dsimp only
  repeat' first
    | simp +decide (maxDischargeDepth := 8) only [Within.iff_of (readRow_within _ _ _ _ _ _ ), Within.iff_of (storeRow_within _ _ _ _ _ _ _ _ ), Within.iff_of (keepUndo_within _ _ _ _ _ _ _ ), Within.iff_of (markPlane_within _ _ _ ), Within.iff_of (netParity_within _ _ _ _ _ ), Within.iff_of (settleLane_within _ _ _ ), Within.iff_of (updBeat_within _ _ _ _ ), Within.iff_of (beatPerformed_within _ _ _ ), *, Within.self, Within.mk_iff, Within.forEach_iff, Within.when_iff, Within.clear_iff, Within.ite_of, spansIn_idx, spansIn_wu, and_self, implies_true, id_eq, ne_eq, not_false_eq_true, reduceCtorEq]
    | (refine Within.snd (by assumption) (readRow_within _ _ _ _ _ _ ) (by decide) ?_)
    | split
    | with_reducible refine Within.trans ?_ (Within.forEach (fun _ _ => ?_) _ _)
    | with_reducible refine Within.trans ?_ (Within.when (fun _ => ?_) _ _)

theorem execArrayRead_within (bank : Nat) (port : Bool) (ups : List Upset) (s : State) (s' : State) (h : execArrayRead bank port ups s = .next s') :
    Within [⟨0x0810, 4, 4⟩, ⟨0x3700, 4, 64⟩, ⟨0x57A8, 0x40, 8⟩, ⟨0x5988, 0, 1⟩, ⟨0x5990, 0, 1⟩, ⟨0x5998, 0, 1⟩, ⟨0x59A0, 0, 1⟩, ⟨0x59A8, 0, 1⟩, ⟨0x6014, 4, 4⟩, ⟨0x6A1C, 0x40, 4⟩, ⟨0x7000, 4, 2⟩, ⟨0x7018, 4, 3⟩] s s' := by
  unfold execArrayRead at h
  injection h with h
  subst h
  try dsimp only
  repeat' first
    | simp +decide (maxDischargeDepth := 8) only [Within.iff_of (readBeatNow_within _ _ _ _ _ _ ), *, Within.self, Within.mk_iff, Within.forEach_iff, Within.when_iff, Within.clear_iff, Within.ite_of, spansIn_idx, spansIn_wu, and_self, implies_true, id_eq, ne_eq, not_false_eq_true, reduceCtorEq]
    | split
    | with_reducible refine Within.trans ?_ (Within.forEach (fun _ _ => ?_) _ _)
    | with_reducible refine Within.trans ?_ (Within.when (fun _ => ?_) _ _)

theorem execArrayWrite_within (bank : Nat) (port : Bool) (par : Parity) (s : State) (s' : State) (h : execArrayWrite bank port par s = .next s') :
    Within [⟨0x1810, 4, 2⟩, ⟨0x3700, 4, 64⟩, ⟨0x57A8, 0x40, 8⟩, ⟨0x59B8, 0, 1⟩, ⟨0x59C0, 0, 1⟩, ⟨0x59C8, 0, 1⟩, ⟨0x6014, 4, 4⟩, ⟨0x6808, 0, 1⟩, ⟨0x6A1C, 0x40, 4⟩, ⟨0x6A20, 0x40, 4⟩, ⟨0x6A24, 0x40, 4⟩, ⟨0x7000, 4, 2⟩, ⟨0x7018, 4, 3⟩] s s' := by
  unfold execArrayWrite at h
  injection h with h
  subst h
  try dsimp only
  repeat' first
    | simp +decide (maxDischargeDepth := 8) only [Within.iff_of (writeBeatNow_within _ _ _ _ _ _ ), *, Within.self, Within.mk_iff, Within.forEach_iff, Within.when_iff, Within.clear_iff, Within.ite_of, spansIn_idx, spansIn_wu, and_self, implies_true, id_eq, ne_eq, not_false_eq_true, reduceCtorEq]
    | split
    | with_reducible refine Within.trans ?_ (Within.forEach (fun _ _ => ?_) _ _)
    | with_reducible refine Within.trans ?_ (Within.when (fun _ => ?_) _ _)

theorem execAtomicExecute_within (bank : Nat) (port : Bool) (ups : List Upset) (par : Parity) (s : State) (s' : State) (h : execAtomicExecute bank port ups par s = .next s') :
    Within [⟨0x0810, 4, 4⟩, ⟨0x1810, 4, 2⟩, ⟨0x57A8, 0x40, 8⟩, ⟨0x5988, 0, 1⟩, ⟨0x5990, 0, 1⟩, ⟨0x5998, 0, 1⟩, ⟨0x59A0, 0, 1⟩, ⟨0x59A8, 0, 1⟩, ⟨0x59C0, 0, 1⟩, ⟨0x59C8, 0, 1⟩, ⟨0x6014, 0, 1⟩, ⟨0x7000, 4, 2⟩, ⟨0x7018, 4, 3⟩] s s' := by
  unfold execAtomicExecute at h
  injection h with h
  subst h
  try dsimp only
  repeat' first
    | simp +decide (maxDischargeDepth := 8) only [Within.iff_of (atomicNow_within _ _ _ _ _ _ ), *, Within.self, Within.mk_iff, Within.forEach_iff, Within.when_iff, Within.clear_iff, Within.ite_of, spansIn_idx, spansIn_wu, and_self, implies_true, id_eq, ne_eq, not_false_eq_true, reduceCtorEq]
    | split
    | with_reducible refine Within.trans ?_ (Within.forEach (fun _ _ => ?_) _ _)
    | with_reducible refine Within.trans ?_ (Within.when (fun _ => ?_) _ _)

theorem execWriteBack_within (bank : Nat) (s : State) (s' : State) (h : execWriteBack bank s = .next s') :
    Within [] s s' := Within.of_only (execWriteBack_only bank s s' h) (by decide)

end Sys2Proof.Machine
end

