-- ==== Sys2Proof/Laws/WithinCounters.lean ====
section
/-!
SUPPORT. Laws/WithinCounters.lean: the registers and counters that the operations and commands of Machine/Counters.lean may change (generated
text, one lemma for each).
-/
namespace Sys2Proof.Machine

set_option linter.unusedSimpArgs false
set_option linter.tactic.unusedName false

theorem latchCounter_within (l : Nat) (c : BitVec 56) (s : State) :
    Within [] s (latchCounter l c s).2 := Within.of_only (latchCounter_only l c s) (by decide)

theorem beforeLoad_within {ps : List Span} (s : State) (act : State → Word × State) (ha : ∀ s, Within ps s (act s).2) :
    Within ps s (beforeLoad s act).2 := by
  unfold beforeLoad
  split
  · exact ha s
  · exact Within.refl _ _

theorem xcAdvance_within (l : Nat) (s : State) :
    Within [] s (xcAdvance l s) := Within.of_only (xcAdvance_only l s) (by decide)

theorem writeXcCtl_within (w : Word) (s : State) :
    Within [⟨0x5F00, 0, 1⟩] s (writeXcCtl w s) := by
  unfold writeXcCtl
  try dsimp only
  repeat' first
    | simp +decide (maxDischargeDepth := 8) only [Within.iff_of (setReg_within _ _ _ ), *, Within.self, Within.mk_iff, Within.forEach_iff, Within.when_iff, Within.clear_iff, Within.ite_of, spansIn_idx, spansIn_wu, and_self, implies_true, id_eq, ne_eq, not_false_eq_true, reduceCtorEq]
    | split
    | with_reducible refine Within.trans ?_ (Within.forEach (fun _ _ => ?_) _ _)
    | with_reducible refine Within.trans ?_ (Within.when (fun _ => ?_) _ _)

theorem execXcLoRead_within (a : BusAcc) (s : State) (s' : State) (h : execXcLoRead a s = .next s') :
    Within [⟨0x4804, 4, 2⟩, ⟨0x57B8, 0x40, 8⟩, ⟨0x5980, 0, 1⟩, ⟨0x6014, 0, 1⟩, ⟨0x7000, 4, 2⟩, ⟨0x7018, 4, 3⟩] s s' := by
  unfold execXcLoRead at h
  injection h with h
  subst h
  try dsimp only
  repeat' first
    | (with_reducible refine Within.trans ?_ (busRead_within _ _ _ _ (by decide) (fun _ => ?_)))
    | (with_reducible refine Within.trans ?_ (beforeLoad_within _ _ (fun _ => ?_)))
    | simp +decide (maxDischargeDepth := 8) only [Within.iff_of (latchCounter_within _ _ _ ), *, Within.self, Within.mk_iff, Within.forEach_iff, Within.when_iff, Within.clear_iff, Within.ite_of, spansIn_idx, spansIn_wu, and_self, implies_true, id_eq, ne_eq, not_false_eq_true, reduceCtorEq]
    | (refine Within.snd (by assumption) (latchCounter_within _ _ _ ) (by decide) ?_)
    | split
    | with_reducible refine Within.trans ?_ (Within.forEach (fun _ _ => ?_) _ _)
    | with_reducible refine Within.trans ?_ (Within.when (fun _ => ?_) _ _)

theorem execXcHiRead_within (a : BusAcc) (s : State) (s' : State) (h : execXcHiRead a s = .next s') :
    Within [⟨0x4804, 4, 2⟩, ⟨0x57B8, 0x40, 8⟩, ⟨0x5980, 0, 1⟩, ⟨0x6014, 0, 1⟩, ⟨0x7000, 4, 2⟩, ⟨0x7018, 4, 3⟩] s s' := by
  unfold execXcHiRead at h
  injection h with h
  subst h
  try dsimp only
  repeat' first
    | (with_reducible refine Within.trans ?_ (busRead_within _ _ _ _ (by decide) (fun _ => ?_)))
    | (with_reducible refine Within.trans ?_ (beforeLoad_within _ _ (fun _ => ?_)))
    | simp +decide (maxDischargeDepth := 8) only [Within.iff_of (xcAdvance_within _ _ ), *, Within.self, Within.mk_iff, Within.forEach_iff, Within.when_iff, Within.clear_iff, Within.ite_of, spansIn_idx, spansIn_wu, and_self, implies_true, id_eq, ne_eq, not_false_eq_true, reduceCtorEq]
    | split
    | with_reducible refine Within.trans ?_ (Within.forEach (fun _ _ => ?_) _ _)
    | with_reducible refine Within.trans ?_ (Within.when (fun _ => ?_) _ _)

theorem execXcClear_within (a : BusAcc) (w : Word) (s : State) (s' : State) (h : execXcClear a w s = .next s') :
    Within [⟨0x4804, 4, 2⟩, ⟨0x57B8, 0x40, 8⟩, ⟨0x5980, 0, 1⟩, ⟨0x5F00, 0, 1⟩, ⟨0x6014, 0, 1⟩, ⟨0x7000, 4, 2⟩, ⟨0x7018, 4, 3⟩] s s' := by
  unfold execXcClear at h
  injection h with h
  subst h
  try dsimp only
  repeat' first
    | (with_reducible refine Within.trans ?_ (busWrite_within _ _ _ _ (by decide) (fun _ => ?_)))
    | simp +decide (maxDischargeDepth := 8) only [Within.iff_of (writeXcCtl_within _ _ ), *, Within.self, Within.mk_iff, Within.forEach_iff, Within.when_iff, Within.clear_iff, Within.ite_of, spansIn_idx, spansIn_wu, and_self, implies_true, id_eq, ne_eq, not_false_eq_true, reduceCtorEq]
    | split
    | with_reducible refine Within.trans ?_ (Within.forEach (fun _ _ => ?_) _ _)
    | with_reducible refine Within.trans ?_ (Within.when (fun _ => ?_) _ _)

end Sys2Proof.Machine
end

