-- ==== Sys2Proof/Laws/WithinRegs.lean ====
section
/-!
SUPPORT. Laws/WithinRegs.lean: the registers and counters that the operations and commands of Machine/Regs.lean may change (generated
text, one lemma for each).
-/
namespace Sys2Proof.Machine

set_option linter.unusedSimpArgs false
set_option linter.tactic.unusedName false

theorem commandQueue_within (w : Word) (s : State) :
    Within [⟨0x3008, 4, 2⟩, ⟨0x310C, 0x10, 64⟩, ⟨0x5790, 0x40, 8⟩, ⟨0x6014, 0, 1⟩, ⟨0x7000, 4, 2⟩, ⟨0x7018, 4, 3⟩] s (commandQueue w s) := by
  unfold commandQueue
  try dsimp only
  repeat' first
    | simp +decide (maxDischargeDepth := 8) only [Within.iff_of (resumeQueue_within _ _ ), Within.iff_of (skipQueue_within _ _ ), Within.iff_of (flushQueue_within _ _ ), Within.iff_of (pauseQueue_within _ _ ), *, Within.self, Within.mk_iff, Within.forEach_iff, Within.when_iff, Within.clear_iff, Within.ite_of, spansIn_idx, spansIn_wu, and_self, implies_true, id_eq, ne_eq, not_false_eq_true, reduceCtorEq]
    | split
    | with_reducible refine Within.trans ?_ (Within.forEach (fun _ _ => ?_) _ _)
    | with_reducible refine Within.trans ?_ (Within.when (fun _ => ?_) _ _)

theorem commandBucket_within (l : Nat) (w : Word) (s : State) :
    Within [⟨0x380C, 0, 1⟩, ⟨0x3818, 4, 2⟩, ⟨0x5A80, 0x20, 16⟩, ⟨0x6014, 0, 1⟩, ⟨0x7000, 4, 2⟩, ⟨0x7018, 4, 3⟩] s (commandBucket l w s) := by
  unfold commandBucket
  try dsimp only
  repeat' first
    | simp +decide (maxDischargeDepth := 8) only [Within.iff_of (armBucket_within _ _ _ ), Within.iff_of (abortBucket_within _ _ _ ), *, Within.self, Within.mk_iff, Within.forEach_iff, Within.when_iff, Within.clear_iff, Within.ite_of, spansIn_idx, spansIn_wu, and_self, implies_true, id_eq, ne_eq, not_false_eq_true, reduceCtorEq]
    | split
    | with_reducible refine Within.trans ?_ (Within.forEach (fun _ _ => ?_) _ _)
    | with_reducible refine Within.trans ?_ (Within.when (fun _ => ?_) _ _)

theorem commandProt_within (w : Word) (s : State) :
    Within [⟨0x4814, 0, 1⟩, ⟨0x4904, 4, 87⟩] s (commandProt w s) := by
  unfold commandProt
  try dsimp only
  repeat' first
    | simp +decide (maxDischargeDepth := 8) only [Within.iff_of (propose_within _ ), Within.iff_of (cancelProposal_within _ ), Within.iff_of (rekeyCtx_within _ _ ), *, Within.self, Within.mk_iff, Within.forEach_iff, Within.when_iff, Within.clear_iff, Within.ite_of, spansIn_idx, spansIn_wu, and_self, implies_true, id_eq, ne_eq, not_false_eq_true, reduceCtorEq]
    | split
    | with_reducible refine Within.trans ?_ (Within.forEach (fun _ _ => ?_) _ _)
    | with_reducible refine Within.trans ?_ (Within.when (fun _ => ?_) _ _)

theorem clearFail_within (l : Nat) (w : Word) (s : State) :
    Within [] s (clearFail l w s) := Within.of_only (clearFail_only l w s) (by decide)

theorem commandTrace_within (w : Word) (s : State) :
    Within [⟨0x6014, 0, 1⟩] s (commandTrace w s) := by
  unfold commandTrace
  try dsimp only
  repeat' first
    | simp +decide (maxDischargeDepth := 8) only [Within.iff_of (genTime_within _ _ _ ), Within.iff_of (traceTrigger_within _ _ _ ), Within.iff_of (writeTrace_within _ _ ), Within.iff_of (rearmTrace_within _ ), *, Within.self, Within.mk_iff, Within.forEach_iff, Within.when_iff, Within.clear_iff, Within.ite_of, spansIn_idx, spansIn_wu, and_self, implies_true, id_eq, ne_eq, not_false_eq_true, reduceCtorEq]
    | split
    | with_reducible refine Within.trans ?_ (Within.forEach (fun _ _ => ?_) _ _)
    | with_reducible refine Within.trans ?_ (Within.when (fun _ => ?_) _ _)

theorem commandFwd_within (w : Word) (s : State) :
    Within [⟨0x6014, 0, 1⟩, ⟨0x7000, 4, 2⟩, ⟨0x7018, 4, 3⟩, ⟨0x704C, 0, 1⟩] s (commandFwd w s) := by
  unfold commandFwd
  try dsimp only
  repeat' first
    | simp +decide (maxDischargeDepth := 8) only [Within.iff_of (commandForward_within _ _ _ ), Within.iff_of (commandCancel_within _ ), Within.iff_of (commandAck_within _ ), Within.iff_of (commandResume_within _ ), *, Within.self, Within.mk_iff, Within.forEach_iff, Within.when_iff, Within.clear_iff, Within.ite_of, spansIn_idx, spansIn_wu, and_self, implies_true, id_eq, ne_eq, not_false_eq_true, reduceCtorEq]
    | split
    | with_reducible refine Within.trans ?_ (Within.forEach (fun _ _ => ?_) _ _)
    | with_reducible refine Within.trans ?_ (Within.when (fun _ => ?_) _ _)

theorem execCounterLowRead_within (a : BusAcc) (off : BitVec 16) (s : State) (s' : State) (h : execCounterLowRead a off s = .next s') :
    Within [⟨0x4804, 4, 2⟩, ⟨0x57B8, 0x40, 8⟩, ⟨0x5980, 0, 1⟩, ⟨0x6014, 0, 1⟩, ⟨0x7000, 4, 2⟩, ⟨0x7018, 4, 3⟩] s s' := by
  unfold execCounterLowRead at h
  injection h with h
  subst h
  try dsimp only
  repeat' first
    | (with_reducible refine Within.trans ?_ (busRead_within _ _ _ _ (by decide) (fun _ => ?_)))
    | simp +decide (maxDischargeDepth := 8) only [Within.iff_of (latchCounter_within _ _ _ ), *, Within.self, Within.mk_iff, Within.forEach_iff, Within.when_iff, Within.clear_iff, Within.ite_of, spansIn_idx, spansIn_wu, and_self, implies_true, id_eq, ne_eq, not_false_eq_true, reduceCtorEq]
    | (refine Within.snd (by assumption) (latchCounter_within _ _ _ ) (by decide) ?_)
    | split
    | with_reducible refine Within.trans ?_ (Within.forEach (fun _ _ => ?_) _ _)
    | with_reducible refine Within.trans ?_ (Within.when (fun _ => ?_) _ _)

end Sys2Proof.Machine
end

