-- ==== Sys2Proof/Tests/Slice0.lean ====
section
/-!
SUPPORT. Tests/Slice0.lean: the model's own tests: ill-formed commands, and one step on small states.
-/
namespace Sys2Proof.Tests

open Sys2Proof.Machine

-- One test at a time: each test the kernel evaluates would otherwise hold a thread of its own.
set_option Elab.async false

theorem test_wf_chan_read : (Instr.ownReadRequest false 62 0).wf = false := by decide
theorem test_wf_chan_write : (Instr.ownWriteRequest true 42 0).wf = false := by decide
theorem test_wf_dcq : (Instr.dcqCrossing .rd 65).wf = false := by decide
theorem test_wf_upset : (Instr.arrayRead 0 false [⟨0, 266⟩]).wf = false := by decide
theorem test_wf_plane : (Instr.arrayWrite 0 false ⟨0, 0, 0, 18⟩).wf = false := by decide
theorem test_wf_bank : (Instr.writeBack 96).wf = false := by decide
theorem test_wf_preq : (Instr.bankPreqWrite ⟨0, 0, 0, false⟩ 12 0).wf = false := by decide
theorem test_wf_req : (Instr.quarantine 196).wf = false := by decide

/-! Witnesses: a concrete state and operands that meet the hypotheses of each clause of the statements, by statement. -/

/-- Both resets released, the Waybill LOADED, everything else as after reset. -/
def up : State :=
  { State.reset with ck := { State.reset.ck with por := false, trst := false }, regs := NMap.set 0 State.reset.regs 0x4420 3 }

/-- The control processor at level C0, and the service processor S. -/
def c0 : BusAcc := ⟨0, 0, 2, false⟩
def svc : BusAcc := ⟨2, 0, 2, false⟩

/-- `up` with registers set. -/
def upR (l : List (Nat × Nat)) : State := l.foldl (fun s e => setReg e.1 (BitVec.ofNat 32 e.2) s) up

theorem witness_idle_counts : up.pending = [] ∧ up.ck.por = false ∧ regB up 0x604C 3 = false ∧ up.tm.hold = 0 := by decide
theorem witness_idle_stalled : (upR [(0x604C, 8)]).pending = [] ∧ regB (upR [(0x604C, 8)]) 0x604C 3 = true := by decide
theorem witness_idle_held :
    let s := { up with tm := ⟨5, 3, 0, true, 0⟩ }
    s.pending = [] ∧ s.ck.por = false ∧ regB s 0x604C 3 = false ∧ s.tm.hold ≠ 0 := by decide
theorem witness_step_runs : ∃ t, step { up with pending := [.stopAssert] } = .next t := ⟨_, rfl⟩
theorem witness_canonical_step : Canonical State.reset ∧ ∃ t, step State.reset = .next t := ⟨by unfold Canonical; decide, _, rfl⟩
theorem witness_exec_parts : ∃ t xs, exec .stopDeassert up = .next t ∧ writes .stopDeassert = some xs := ⟨_, _, rfl, rfl⟩
theorem witness_access_in_power_on_reset : busOf (.ack c0) = some (c0, 0x7048, true) ∧ State.reset.ck.por = true := by decide
theorem witness_access_misfit :
    busOf (.ack ⟨0, 0, 1, false⟩) = some (⟨0, 0, 1, false⟩, 0x7048, true) ∧ up.ck.por = false ∧ busMisfit ⟨0, 0, 1, false⟩ 0x7048 = true := by decide
theorem witness_access_in_tile_reset :
    let s := { up with ck := { up.ck with trst := true } }
    s.ck.por = false ∧ busMisfit c0 0x7048 = false ∧ inReset s = true := by decide
theorem witness_access_refused :
    busOf (.ack svc) = some (svc, 0x7048, true) ∧ busMisfit svc 0x7048 = false ∧ inReset up = false ∧ accessOk up svc true 0x7048 = false
      ∧ regB up 0x4804 0 = false ∧ regB (upR [(0x4804, 1)]) 0x4804 0 = true ∧ accessOk (upR [(0x4804, 1)]) svc true 0x7048 = false := by decide

theorem witness_power_on_release :
    let s := { State.reset with ck := { State.reset.ck with trst := false } }
    s.ck.por = true ∧ s.ck.trst = false ∧ s.ck.swrst = false ∧ State.reset.ck.por = true ∧ State.reset.ck.trst = true := by decide
theorem witness_software_reset :
    inReset up = false ∧ busMisfit c0 0x440C = false ∧ accessOk up c0 true 0x440C = true
      ∧ (0xA501 : Word).getLsbD 0 = true ∧ (0xA501 : Word).extractLsb' 8 8 = 0xA5 := by decide
theorem witness_tile_release :
    let s := { up with ck := { up.ck with trst := true } }
    let r := { up with ck := { up.ck with swrst := true } }
    s.ck.trst = true ∧ s.ck.por = false ∧ s.ck.swrst = false ∧ r.ck.swrst = true ∧ r.ck.por = false ∧ r.ck.trst = false := by decide

/-- An image is being received: `n` words so far. -/
def receiving (n : Nat) : State :=
  { upR [(0x4420, 1)] with ck := { up.ck with cfgReq := true, nimg := n, img := (List.replicate n 0), waitNs := 3000000 } }
theorem witness_cfg_request : let s := upR [(0x4420, 0)]; inReset s = false ∧ wbState s = 0 ∧ s.ck.cfgReq = false := by decide
theorem witness_cfg_word_wrong :
    let s := receiving 0
    inReset s = false ∧ s.ck.cfgReq = true ∧ wbState s ≤ 1 ∧ (checkWord s.ck s.ck.nimg (imgLen s.ck) 1).isSome = true := by decide
theorem witness_load_timeout :
    let s := receiving 0
    inReset s = false ∧ s.ck.cfgReq = true ∧ wbState s ≤ 1 ∧ (if s.ck.nimg = 0 then 2750000 else 1000000) ≤ s.ck.waitNs := by decide

theorem witness_cfg_word_right :
    let s := receiving 0
    inReset s = false ∧ s.ck.cfgReq = true ∧ wbState s ≤ 1 ∧ checkWord s.ck s.ck.nimg (imgLen s.ck) 0x4C4D5742 = none := by decide

/-- An image is wholly received: its header, a BIND section and `crc`, the computed CRC being 5. -/
def received (bind : Nat) (crc : Nat) : State :=
  { upR [(0x4420, 2), (0x4430, 5)] with ck := { up.ck with
      cfgReq := true
      nimg := 15
      img := ([0x4C4D5742, 0x08010001, 60, 1, 0, 0, 0, 0, 1, 16, 0, 0, bind, 0, crc].map (BitVec.ofNat 32)).reverse } }
def contentOf (s : State) : Option (Nat × Nat × Nat) :=
  checkContent (imgSects s) (imgLen s.ck) ((reg s 0x4410).toNat + 2 ^ 32 * (reg s 0x4414).toNat) (reg s 0x4418).toNat
theorem witness_check_loads :
    let s := received 0x220 5
    inReset s = false ∧ wbState s = 2 ∧ listGet 0 s.ck.img 0 = reg s 0x4430 ∧ contentOf s = none ∧ s.pw.held = none := by decide
theorem witness_check_crc : let s := received 0x220 6; inReset s = false ∧ wbState s = 2 ∧ listGet 0 s.ck.img 0 ≠ reg s 0x4430 := by decide
theorem witness_check_content :
    let s := received 0 5
    inReset s = false ∧ wbState s = 2 ∧ listGet 0 s.ck.img 0 = reg s 0x4430 ∧ contentOf s = some (12, 1, 48) := by decide

theorem witness_counter_read :
    (cntCode up 0x5000).isSome = true ∧ accepts c0 false 0x5000 up ∧ accepts c0 false 0x5F08 up ∧ accepts c0 false 0x5F0C up ∧ wbState up = 3
      ∧ accepts c0 true 0x5F00 up ∧ (2 : Word).getLsbD 1 = true := by unfold accepts; decide
theorem witness_time_read : c0.init.toNat < 2 ∧ c0.dma = false ∧ accepts c0 false 0x6040 up := by unfold accepts; decide
theorem witness_write_plain :
    accepts c0 true 0x7008 up ∧ namesMine c0 0x7008 1 up = true ∧ (plainMask 0x7008).isSome = true := by unfold accepts; decide
theorem witness_write_w1c :
    accepts c0 true 0x7000 up ∧ namesMine c0 0x7000 1 up = true ∧ plainMask 0x7000 = none ∧ (w1cMask 0x7000).isSome = true := by
  unfold accepts; decide
theorem witness_write_log : accepts c0 true 0x4804 up ∧ 0x4804 ∈ logRegs ∧ (1 : Word).getLsbD 0 = true ∧ (2 : Word).getLsbD 0 = false
    ∧ (2 : Word).getLsbD 1 = true := by unfold accepts; decide
theorem witness_log_states : regB up 0x4804 0 = false ∧ regB (upR [(0x4804, 1)]) 0x4804 0 = true := by decide
theorem witness_same_command : (0x201 : Word).extractLsb' 8 3 = 2 ∧ (0x201 : Word).extractLsb' 8 2 = 2 ∧ (0x32 : Word).extractLsb' 0 2 = 2
    ∧ (0x11 : Word).extractLsb' 0 3 = 1 := by decide

/-- Every client lane is bound to C0. -/
def lanes : State := upR [(0x1840, 0x88888888), (0x1870, 0x88888888)]
theorem witness_own_read :
    serving lanes = true ∧ hasChan false 0 = true ∧ (chan lanes false 0).dcq = [] ∧ rqOp 0 = 0 ∧ rqKind lanes false 0 0 = none := by decide
theorem witness_own_write :
    serving lanes = true ∧ hasChan true 0 = true ∧ (chan lanes true 0).dcq = [] ∧ rqOp 1 = 1 ∧ rqKind lanes true 0 1 = none
      ∧ rqOp 65538 = 2 ∧ rqKind lanes true 0 65538 = none := by decide
theorem witness_own_malformed :
    let s := lanes
    serving s = true ∧ hasChan false 0 = true ∧ (chan s false 0).dcq = [] ∧ rqKind s false 0 3 = some 0 ∧ rqOp 3 = 3
      ∧ rqKind s true 0 0 = some 1 ∧ rqOp 0 = 0 ∧ rqKind s false 0 (2 ^ 12) = some 0 ∧ rqOp (2 ^ 12) = 0
      ∧ regB s 0x1818 0 = false ∧ regB (upR [(0x1818, 1)]) 0x1818 0 = true := by decide
theorem witness_flit_taken : inReset up = false ∧ 0 < 45 ∧ (wlane up 0).dcq.length < 16 := by decide
theorem witness_request_crosses :
    let s := { lanes with fr := { lanes.fr with ch := [(0, ⟨[0], 0, 0, false, 0, false⟩)] } }
    serving s = true ∧ (chan s false 0).dcq = [0] ∧ rqKind s false 0 0 = none := by decide

/-- A flit waits in a write queue; the lane has no order. -/
def flitIn : State := { up with fr := { up.fr with wl := [(0, ⟨[], [(0, 0)], 1, [], 0, 1⟩)] } }
theorem witness_flit_to_staging :
    let s := flitIn
    serving s = true ∧ (wlane s 0).dcq = [(0, 0)] ∧ (wlane s 0).seen ≠ 0 ∧ (wlane s 0).staging.length < 16
      ∧ owed s 0 ≤ (wlane s 0).staging.length ∧ laneSlip s 0 = none := by decide +kernel

/-- On WL40 the flit that a taken own request is owed next waits readable. -/
theorem witness_held_lane_flit_to_staging :
    let s := { up with fr := { up.fr with
      wl := [(40, ⟨[], [(0, 0)], 1, [], 0, 1⟩)], trs := [{ newTr 169 .wr 0 0 0 with id := 7, wlane := 41, beats := [genBeat] }] } }
    serving s = true ∧ (wlane s 40).seen ≠ 0 ∧ owed s 40 ≤ (wlane s 40).staging.length ∧ laneSlip s 40 = none ∧ ownsNext s 40 = true := by
  decide +kernel

/-- An own transfer of one row by requester `req`. -/
def ownTr (kind : TrKind) (req : Nat) : Tr := { newTr req kind 0 0 0 with id := 7, beats := [genBeat] }
theorem witness_owed_flit_to_staging :
    let s := { flitIn with fr := { flitIn.fr with
      wl := [(0, ⟨[7], [(0, 0)], 1, [], 0, 1⟩)], trs := [{ ownTr .wr 129 with wlane := 1 }] } }
    serving s = true ∧ (wlane s 0).seen ≠ 0 ∧ (wlane s 0).staging.length < owed s 0 := by decide +kernel
theorem witness_flit_leaves :
    let s := { up with fr := { up.fr with rl := [(0, ⟨[], [⟨0, 0, 0, 0, 0⟩], [⟨0, 0, 0, 0, 0⟩], 1, 15, 1, 0, 0⟩)] } }
    inReset s = false ∧ (rlane s 0).dcq = [⟨0, 0, 0, 0, 0⟩] ∧ (rlane s 0).seen ≠ 0
      ∧ running s = true ∧ (rlane s 0).landing = [⟨0, 0, 0, 0, 0⟩] ∧ (rlane s 0).dcq.length < 16 ∧ (⟨0, 0, 0, 0, 0⟩ : OutFlit).slip = 0 := by decide +kernel

/-- Two own transfers wait to be issued. -/
def issuable : State :=
  { lanes with fr := { lanes.fr with trs := [{ ownTr .rd 64 with rlanes := [0] }, { ownTr .wr 129 with id := 8, wlane := 1 }] } }
theorem witness_issue :
    serving issuable = true ∧ (rankTrs issuable (issueCands issuable)).map (·.id) = [7, 8]
      ∧ (rankTrs issuable (issueCands issuable)).all (fun c => c.slip == 0 && decide (c.rlanes.length ≤ 1)) = true
      ∧ issuable.fr.issued = [] ∧ issuable.fr.trs.all (fun c => decide (c.rlanes.count 0 < 2)) = true := by decide +kernel
theorem witness_write_request :
    let s := { up with fr := { up.fr with
      wl := [(0, ⟨[7], [], 0, [⟨0, 0, 0, [], false⟩], 0, 1⟩)], trs := [{ ownTr .wr 129 with wlane := 1 }] } }
    serving s = true ∧ firstWaiting s (wlane s 0).order 0 = some ({ ownTr .wr 129 with wlane := 1 }, 0)
      ∧ (ownTr .wr 129).slip = 0 ∧ (ownTr .wr 129).kind ≠ .drop
      ∧ 0 + (ownTr .wr 129).beats.length ≤ (wlane s 0).staging.length := by decide +kernel
theorem witness_read_output :
    let b : Beat := { genBeat with bad := 0, have_ := true }
    let t : Tr := { ownTr .rd 64 with rlanes := [0], beats := [b] }
    let s := { up with fr := { up.fr with rl := [(0, ⟨[7], [], [], 0, 16, 0, 0, 0⟩)], trs := [t] } }
    running s = true ∧ (rlane s 0).cur = 0 ∧ (rlane s 0).order = [7] ∧ trOf s 7 = some t ∧ t.slip = 0 ∧ NMap.get 0 t.passed 0 = 0 ∧ t.beats[0]? = some b
      ∧ beatReady s t 0 = true ∧ NMap.get 0 s.rx.res t.id = 0 ∧ (rlane s 0).landing.length < 24 := by decide +kernel

/-- Bank 0 is On, and its arbiter granted the transfer of row 0 to its one beat in this array cycle. -/
def bank0On (s : State) : State := { s with bank := { s.bank with pow := [(0, ⟨2, none, none, none⟩)] } }
def grantedTr (kind : TrKind) : Tr :=
  { ownTr kind 64 with granted := true, beats := [{ genBeat with bad := 0 }], ports := [(0, false)] }
def granted (kind : TrKind) : State :=
  bank0On { up with cyc := 1, fr := { up.fr with trs := [grantedTr kind] } }
/-- A granted internal transfer of row `row` of bank `bank` (as its beat names it) through `req`. -/
def innerTr (kind : TrKind) (req : Nat) (job : Job) (bank row : Nat) : Tr :=
  { newTr req kind 0 0 15 with id := 7, job := job, granted := true, beats := [rowBeat bank row], ports := [(bank, false)] }
theorem witness_granted_beat :
    running (granted .rd) = true ∧ nextBeat (granted .rd) 0 false [.rd, .park] = some (grantedTr .rd, 0)
      ∧ trOf (granted .rd) 7 = some (grantedTr .rd) ∧ nextBeat (granted .wr) 0 false [.wr, .parkWr] = some (grantedTr .wr, 0)
      ∧ nextBeat (granted .at) 0 false [.at] = some (grantedTr .at, 0) ∧ (grantedTr .at).beats[0]? = some { genBeat with bad := 0 }
      ∧ genBeat.row < 512
      ∧ arraysGo (granted .rd) = true ∧ arraysGo (granted .wr) = true := by decide +kernel
theorem witness_write_back :
    let w : WbSlot := ⟨3, 1, 9, 2⟩
    let s := { bank0On up with cyc := 5, bank := { (bank0On up).bank with wb := [(0, some w)] } }
    running s = true ∧ bankOn s 0 = true ∧ portIdle s 0 = true ∧ NMap.get none s.bank.wb 0 = some w ∧ w.cyc + 3 ≤ s.cyc ∧ wbWaits s 0 w.row = false ∧ w.row < 512 := by
  decide +kernel
theorem witness_decision :
    inReset up = false ∧ cycleDone up = true ∧ halted up = false ∧ running up = true
      ∧ halted (upR [(0x6808, 1)]) = true ∧ inReset (upR [(0x6808, 1)]) = false ∧ running (upR [(0x6808, 1)]) = false := by decide
theorem witness_decision_halted :
    let s := { upR [(0x6808, 1)] with fr := { up.fr with trs := [ownTr .rd 64] } }
    halted s = true ∧ inReset s = false ∧ cycleDone s = true ∧ ∀ T ∈ s.fr.trs, (waits T && isExempt T) = false := by decide +kernel
theorem witness_hold_limit :
    let s := { upR [(0x2830, 0x40000)] with arb := { up.arb with runs := [(0, ⟨1, 4, 4, 1⟩)] } }
    running s = true ∧ NMap.get Run.none s.arb.runs (2 * pbankOf s 0 + b2n false) = ⟨1, 4, 4, 1⟩ ∧ holdLimit s 1 = 4 := by decide
theorem witness_quarantine :
    let s := { upR [(0x2800, 0x100)] with arb := { up.arb with hist := [(0, 0)] } }
    running s = true ∧ quarDue s 0 = true ∧ quarantined s 0 = false := by decide
theorem witness_quarantine_timeout :
    let s := { upR [(0x2800, 0xA000000), (0x28C0, 1)] with cyc := 2000, arb := { up.arb with hist := [(1000, 5)] } }
    running s = true ∧ quarantined s 0 = true ∧ regF s 0x2800 28 24 = 10 ∧ (1000 + 0, 5) ∈ s.arb.hist ∧ 5 + 2 ^ 10 ≤ s.cyc := by decide
theorem witness_quarantine_release : accepts c0 true 0x28E0 up ∧ bit (0x100 : Word).toNat 8 = true ∧ bits (3 : Word).toNat 7 0 = 3 := by
  unfold accepts; decide
theorem witness_share_mode :
    let s := { upR [(0x2800, 1)] with arb := { up.arb with shAge := 1 } }
    running s = true ∧ shareMode s = true ∧ 2 ^ regF s 0x2800 7 4 ≤ s.arb.shAge := by decide

theorem witness_fresh : FreshIds State.reset ∧ ∃ t, step State.reset = .next t := ⟨by unfold FreshIds; decide, _, rfl⟩

/-- A slip of the words given (others 0), and queue 0 with that slip at its head, in decode state `dec`. -/
def slipW (l : List (Nat × Nat)) : BitVec 512 := BitVec.ofNat 512 (l.foldl (fun n e => n + e.2 * 2 ^ (32 * e.1)) 0)
def headed (w : BitVec 512) (dec : Nat) : State := { up with sq := { up.sq with q := [(0, { SlipQ.empty with ents := [⟨0, w, dec, 0⟩], tail := 1 })] } }
/-- The slip of that queue executes. -/
def slipOf0 (w : BitVec 512) : Slip := { newSlip up 0 ⟨0, w, 1, 0⟩ with sid := 0 }
def executing (x : Slip) : State :=
  let s := headed x.words 1
  { s with sq := { s.sq with q := [(0, { SlipQ.empty with ents := [⟨0, x.words, 1, 0⟩], tail := 1, run := 1 })], live := [x], nextSid := 1 } }

theorem witness_slip_commit :
    let s := upR [(0x3100, 8)]
    accepts c0 true (commitOff 0) s ∧ (queueOf s 0).ford = false ∧ (queueOf s 0).ents.length < 32 ∧ sqEn s 0 = true ∧ sqFetch s 0 = false := by
  unfold accepts; decide +kernel
theorem witness_slip_commit_fetched :
    let s := { upR [(0x3100, 24)] with sq := { up.sq with q := [(0, { SlipQ.empty with ford := true, fleft := 1 })] } }
    accepts ⟨0, 0, 2, true⟩ true (commitOff 0) s ∧ (queueOf s 0).ents.length < 32 ∧ sqEn s 0 = true ∧ sqFetch s 0 = true
      ∧ (queueOf s 0).ford = true ∧ (queueOf s 0).fleft ≠ 0 := by unfold accepts; decide +kernel
theorem witness_fetch_order : mayFetch (upR [(0x3100, 24), (0x3108, 0x105), (0x310C, 1)]) 0 = true := by decide +kernel
theorem witness_slip_decode :
    let s := headed (slipW [(0, 0)]) 0
    serving s = true ∧ (queueOf s 0).stop ≠ 4 ∧ running? s 0 = none ∧ nextDecode false (queueOf s 0).ents = some ⟨0, slipW [(0, 0)], 0, 0⟩
      ∧ decodeReason s 0 (slipW [(0, 0)]) = none ∧ decodeReason s 0 (slipW [(0, 12)]) = some 0 := by decide +kernel
theorem witness_slip_start :
    (∀ ty ∈ List.range 12, mayStart (headed (slipW [(0, ty)]) 1) 0 ty = some ⟨0, slipW [(0, ty)], 1, 0⟩) ∧ FreshIds (headed (slipW [(0, 1)]) 1) := by
  unfold FreshIds; decide +kernel
theorem witness_slip_start_blend : mayStart (headed (slipW [(0, 1), (6, 32)]) 1) 0 1 = some ⟨0, slipW [(0, 1), (6, 32)], 1, 0⟩
    ∧ sBlendEn (slipW [(0, 1), (6, 32)]) = true := by decide +kernel
theorem witness_signal_names_a_tally : ((tsel (slipW [(0, 7), (1, 0x8385)])).filter fun p => p.1 == 3).length = 1 := by decide +kernel
theorem witness_step_value : stepValue up (slipW [(0, 11), (1, 1), (2, 5)]) = 5 := by decide +kernel

theorem witness_wait_reached :
    let x := slipOf0 (slipW [(0, 6), (1, 0x83)])
    running (executing x) = true ∧ running? (executing x) 0 = some x ∧ sType x.words = 6 ∧ tsel x.words = [(3, 0)]
      ∧ ∀ p ∈ tsel x.words, reached (executing x) p.1 p.2 = true := by decide +kernel
theorem witness_fence_met :
    let x := slipOf0 (slipW [(0, 10)])
    running? (executing x) 0 = some x ∧ x.q = 0 ∧ sType x.words = 10 ∧ fenceMet (executing x) x = true := by decide +kernel
theorem witness_slip_end :
    let x := { slipOf0 (slipW [(0, 6)]) with met := true, fault := true }
    running? (executing x) 0 = some x ∧ x.q = 0 ∧ mayEnd (executing x) x = true ∧ x.fault = true := by decide +kernel
/-- Queue 0 stopped, paused or idle with one entry. -/
def stopped (st : Nat) (p : Bool) : State :=
  { up with sq := { up.sq with q := [(0, { SlipQ.empty with ents := [⟨0, 0, 0, 0⟩], tail := 1, stop := st, pause := p })] } }
theorem witness_queue_commands :
    accepts c0 true 0x3010 up ∧ cmdMine c0 0 up = true ∧ sqState (stopped 4 false) 0 = 4 ∧ sqState (stopped 3 false) 0 = 3
      ∧ sqState (stopped 0 true) 0 = 5 ∧ sqState (stopped 0 false) 0 = 1 ∧ running? (stopped 0 true) 0 = none := by
  unfold accepts; decide +kernel
theorem witness_queue_commands_stopped : accepts c0 true 0x3010 (stopped 4 false) ∧ accepts c0 true 0x3010 (stopped 3 false)
    ∧ accepts c0 true 0x3010 (stopped 0 true) ∧ accepts c0 true 0x3010 (upR [(0x3100, 16)]) ∧ sqFetch (upR [(0x3100, 16)]) 0 = true := by
  unfold accepts; decide +kernel
theorem witness_watchdog :
    let x := slipOf0 (slipW [(0, 1)])
    let e := executing x
    let s := { e with sq := { e.sq with q := [(0, { queueOf e 0 with quiet := 1048576 })] } }
    running s = true ∧ running? s 0 = some x ∧ watchLimit s x = some 1048576 ∧ 1048576 ≤ (queueOf s 0).quiet
      ∧ (queueOf s 0).wdog = false := by decide +kernel
theorem witness_tally_write : accepts c0 true 0x3014 up ∧ lvl c0 = 0 ∧ accepts c0 true (0x3700 + 4 * 63) up ∧ running up = true
    ∧ running (upR [(0x6808, 1)]) = false ∧ accepts c0 true (0x3700 + 4 * 63) (upR [(0x6808, 1)]) := by unfold accepts; decide

/-- Domains 118 (cluster 0) and 131 (the holding store) are On, and bank 0; C0's partition is bank 0; NBLK and quotas are set. -/
def equipped (s : State) : State :=
  { bank0On s with
    pw := { s.pw with dom := [(18, ⟨2, none, none, none⟩), (31, ⟨2, none, none, none⟩)] }
    regs := NMap.set 0 (NMap.set 0 (NMap.set 0 s.regs 0x1000 1) 0x12C0 64) 0x2410 0x00400040 }
def vecW : BitVec 512 := slipW [(0, 1), (6, 34), (9, 0x80)]
theorem witness_slot_alloc :
    let x := { slipOf0 vecW with slotSt := 1 }
    let e := equipped (executing x)
    let s := { e with bl := { e.bl with wait := [0] } }
    serving s = true ∧ s.bl.wait = 0 :: [] ∧ slipOf s 0 = some x
      ∧ pickSlots (blendLanes x.words) (freeUnits s (blendSlots (sBlendId x.words) == 4)) = some [(0, 0)] ∧ blendLanes x.words = [0] := by
  decide +kernel
theorem witness_vector_load :
    let x := { slipOf0 vecW with slotSt := 2, lanes := [(0, { SLane.empty with vec := List.replicate 16 Flit.dead })] }
    let s := equipped (executing x)
    serving s = true ∧ running? s 0 = some x ∧ x.slotSt = 2 ∧ vecTotal s x.words ≠ 0
      ∧ ∀ l ∈ blendLanes x.words, vecTotal s x.words ≤ (streamOf x l).vec.length := by decide +kernel

/-- A HELD slip of two lines of one row each, with PARK, REN, SEN and AEN as given; its delivery in some stage. -/
def heldW (flags : Nat) : BitVec 512 := slipW [(0, 4), (6, 32 + 24), (9, 0x80), (12, 1 + flags), (13, 1), (14, 1)]
def heldX (flags : Nat) (h : HeldEx) : Slip := { slipOf0 (heldW flags) with held := some h }
def holding (flags : Nat) (h : HeldEx) : State :=
  let e := equipped (executing (heldX flags h))
  { e with hd := { e.hd with wait := if h.st = 1 then [0] else [] } }
def active : HeldEx := { newHeld with st := 2, rows := [0] }
theorem witness_hold_reservation :
    let s := holding 0x400000 newHeld
    let x := heldX 0x400000 newHeld
    serving s = true ∧ s.hd.wait = 0 :: [] ∧ slipOf s 0 = some x ∧ x.held = some newHeld ∧ domUp s 31 = true
      ∧ hBlks x.words * hW x.words ≤ (freeBlocks s).length ∧ hW x.words ≤ (freeStats s).length
      ∧ (hdUse s (sCtx x.words)).1 + hBlks x.words * hW x.words ≤ regF s (0x2410 + 4 * sCtx x.words) 9 0
      ∧ (hdUse s (sCtx x.words)).2 + hW x.words ≤ regF s (0x2410 + 4 * sCtx x.words) 28 16 := by decide +kernel
theorem witness_tile_admit :
    let x := heldX 0 active
    serving (holding 0 active) = true ∧ heldOf (holding 0 active) 0 = some (x, active) ∧ active.st = 2 ∧ x.cancel = false
      ∧ active.tiles < hTiles x.words ∧ hAen x.words = false := by decide +kernel
theorem witness_tile_admit_on_tally :
    let a := { active with tiles := 0 }
    let s := { holding 0x800000 a with regs := NMap.set 0 (holding 0x800000 a).regs 0x3700 1 }
    heldOf s 0 = some (heldX 0x800000 a, a) ∧ hAen (heldW 0x800000) = true ∧ reached s (hAtally (heldW 0x800000)) (hAbase (heldW 0x800000) + 0 + 1) = true := by
  decide +kernel
theorem witness_held_tile_release :
    let a := { active with tiles := 1, prq := 1 }
    let s := holding 0x1400000 a
    heldOf s 0 = some (heldX 0x1400000 a, a) ∧ a.rel < a.tiles ∧ tileDone s (heldX 0x1400000 a) a a.rel = true ∧ hRen (heldW 0x1400000) = true
      ∧ hRtally (heldW 0x1400000) = 0 := by decide +kernel
theorem witness_redelivery_start :
    let a := { active with nstat := 1, prq := 1 }
    let s := holding 0x400000 a
    let x := heldX 0x400000 a
    heldOf s 0 = some (x, a) ∧ a.started < a.nstat ∧ a.started * hLrows x.words ≤ x.issued * sK x.words ∧ hPark x.words = true
      ∧ a.started * hLrows x.words < rowsParked s x ∧ hSen x.words = false := by decide +kernel
theorem witness_hold_release :
    let a := { active with nstat := 2, recs := 2, rel := 2, tiles := 2, started := 2 }
    let x := { heldX 0x3000000 a with issued := 2 }
    let s := equipped (executing x)
    heldOf s 0 = some (x, a) ∧ hLines x.words * hLrows x.words ≤ rowsPassed s x ∧ hLines x.words ≤ a.recs ∧ hTiles x.words ≤ a.rel ∧ x.q < 64
      ∧ hSen x.words = true ∧ hRen x.words = true := by decide +kernel
theorem witness_stats_ready :
    let a := { active with parts := [(0, some (⟨0, 0, 0⟩, false))] }
    let x := heldX 0x2000000 a
    let s := holding 0x2000000 a
    serving s = true ∧ heldOf s 0 = some (x, a) ∧ a.nstat < hLines x.words ∧ x.cancel = false
      ∧ linePartsGo a (hLrows x.words) (a.nstat * hLrows x.words) = some [(⟨0, 0, 0⟩, false)] ∧ hSen x.words = true
      ∧ hSen (heldW 0) = false := by decide +kernel
theorem witness_held_cancel :
    accepts c0 true 0x2450 (holding 0 active) ∧ heldOf (holding 0 active) (bits (0x100 : Word).toNat 5 0) = some (heldX 0 active, active)
      ∧ lvl c0 = 0 ∧ (heldX 0 active).cancel = false ∧ halted (holding 0 active) = false := by unfold accepts; decide +kernel
theorem witness_held_cancel_halted :
    let a := { active with st := 4 }
    let s := setReg 0x6808 1 (holding 0 a)
    accepts c0 true 0x2450 s ∧ heldOf s (bits (0 : Word).toNat 5 0) = some (heldX 0 a, a) ∧ halted s = true
      ∧ accepts c0 true 0x2450 up ∧ heldOf up (bits (0 : Word).toNat 5 0) = none
      ∧ accepts ⟨0, 1, 2, false⟩ true 0x2450 s ∧ lvl ⟨0, 1, 2, false⟩ ≠ 0 ∧ lvl ⟨0, 1, 2, false⟩ ≠ sCtx (heldX 0 a).words := by
  unfold accepts; decide +kernel
theorem witness_held_cancel_again :
    let a := { active with st := 3, flush := true }
    let x := { heldX 0 a with cancel := true }
    let s := equipped (executing x)
    accepts c0 true 0x2450 s ∧ heldOf s (bits (0 : Word).toNat 5 0) = some (x, a) ∧ x.cancel = true ∧ bit (0 : Word).toNat 8 = false := by
  unfold accepts; decide +kernel
theorem witness_held_cancel_end :
    let a := { active with st := 3 }
    let x := { heldX 0x1000000 a with cancel := true }
    let s := equipped (executing x)
    running s = true ∧ heldOf s 0 = some (x, a) ∧ x.q = 0 ∧ x.cancel = true ∧ cancelDone s x a = true ∧ hRen x.words = true
      ∧ hTiles x.words - a.rel = 2 := by decide +kernel

theorem witness_pt_data :
    accepts c0 true 0x8004 up ∧ accepts c0 false 0x8004 up ∧ accepts c0 true 0x8004 (upR [(0x8000, 0x10000), (0x8020, 1)])
      ∧ ptAt (upR [(0x8000, 0x10000), (0x8020, 1)]) = 0 ∧ ptValid (upR [(0x8000, 0x10000), (0x8020, 1)]) 0 = true
      ∧ ptValid up 0 = false ∧ ptBusy up 0 = false ∧ regB (upR [(0x8000, 0x10000), (0x8020, 1)]) 0x8000 16 = true := by unfold accepts; decide +kernel
theorem witness_bt_data :
    let s := upR [(0xA000, 0x1010C307)]
    accepts c0 true 0xA004 up ∧ accepts c0 false 0xA004 up ∧ accepts c0 true 0xA004 s ∧ accepts c0 false 0xA004 s ∧ regB s 0xA000 28 = true
      ∧ regB up 0xA000 28 = false ∧ btInside up = true ∧ btIgnores up = false ∧ btTables up = false := by unfold accepts; decide +kernel
theorem witness_bt_tables :
    let s := upR [(0xA000, 0x110C0307)]
    accepts c0 true 0xA004 s ∧ regB s 0xA000 28 = true ∧ btInside s = true ∧ btTables s = true ∧ btWord s = 775 ∧ btIgnores s = false
      ∧ btIgnores (upR [(0xA000, 0x01000000)]) = true ∧ accepts c0 true 0xA004 (upR [(0xA000, 0x01000000)]) := by unfold accepts; decide +kernel
theorem witness_valid_writes :
    accepts c0 true (0x8020 + 4 * 7) up ∧ accepts c0 true (0xA020 + 4 * b2n true) up ∧ accepts c0 true 0xA060 up
      ∧ bit (0x8001 : Word).toNat 0 = true ∧ bit (0x8001 : Word).toNat 15 = true := by unfold accepts; decide
theorem witness_valid_checks :
    ptDescOk (ptDesc up 0) = true ∧ ptDescOk (fun _ => 0xFFFFFFFF) = false ∧ psOk (fun i => if i = 0 then 0x1110 else 0) = true
      ∧ psOk (psWord up 0) = false ∧ tblOk (progWord up 12) = true ∧ tblOk (fun _ => 0x7F800000) = false := by decide +kernel

theorem witness_bank_request :
    accepts c0 true (0x0840 + 4 * 11) up ∧ up.fw.mig = none ∧ (powOf up (pbankOf up 88)).ending = 0 ∧ bits (0x23 : Word).toNat 1 0 = 3
      ∧ bits (0x23 : Word).toNat 5 4 = 2 := by unfold accepts; decide +kernel
theorem witness_bank_map : ∀ j k, j < 8 → k < 8 → pbankOf up (8 * 11 + j) = pbankOf up (8 * 11 + k) → j = k := by
  intro j k hj hk
  have h : ∀ j, j < 8 → ∀ k, k < 8 → pbankOf up (8 * 11 + j) = pbankOf up (8 * 11 + k) → j = k := by decide +kernel
  exact h j hj k hk
/-- Bank 5 in a power state of its own. -/
def bank5 (p : BankPow) : State := { up with bank := { up.bank with pow := [(5, p)] } }
theorem witness_bank_powerup :
    let s := bank5 ⟨0, none, some ⟨2, true⟩, none⟩
    inReset s = false ∧ (powOf s 5).wait = some ⟨2, true⟩
      ∧ ncount ((List.range 100).map fun b => poweringUp (powOf s b)) < maxUp s
      ∧ (∀ b, b < 100 → waitingUp (powOf s b) = true → wakeOrder s 5 ≤ wakeOrder s b) := by decide +kernel
theorem witness_bank_powerdown :
    let b := bank5 ⟨2, none, some ⟨1, false⟩, none⟩
    let s := { b with bank := { b.bank with wb := [(5, some ⟨3, 1, 9, 0⟩)] } }
    inReset s = false ∧ s.fw.mig = none ∧ (powOf s 5).wait = some ⟨1, false⟩
      ∧ lbankOf s 5 = some 5 ∧ (∀ lb, lbankOf s 5 = some lb → beatsAt s lb = false)
      ∧ NMap.get none s.bank.wb 5 = some ⟨3, 1, 9, 0⟩ ∧ lbankOf s 99 = none := by
  refine ⟨rfl, rfl, rfl, by decide +kernel, ?_, by decide +kernel, by decide +kernel⟩
  intro lb _; rfl
/-- Bank 3 moves to bank 96; the power of bank 3 as given. -/
def movingFrom (p : BankPow) (phase : Nat := 2) : State :=
  { up with fw := { up.fw with mig := some ⟨3, 96, phase, 5, 4, 0, []⟩ }, bank := { up.bank with pow := [(3, p)] } }
theorem witness_bank_powerdown_in_migration :
    let s := movingFrom ⟨2, none, some ⟨0, false⟩, none⟩
    let r := movingFrom ⟨2, none, some ⟨1, false⟩, none⟩
    inReset s = false ∧ s.fw.mig = some ⟨3, 96, 2, 5, 4, 0, []⟩ ∧ pbankOf s 3 = 3 ∧ (powOf s 3).wait = some ⟨0, false⟩ ∧ beatsAt s 3 = false
      ∧ r.fw.mig = some ⟨3, 96, 2, 5, 4, 0, []⟩ ∧ (powOf r 3).wait = some ⟨1, false⟩ ∧ beatsAt r 3 = false
      ∧ (movingFrom ⟨2, none, some ⟨0, false⟩, none⟩ 5).fw.mig = some ⟨3, 96, 5, 5, 4, 0, []⟩ ∧ beatsAt (movingFrom ⟨2, none, some ⟨0, false⟩, none⟩ 5) 3 = false := by decide +kernel
theorem witness_bank_transition_done :
    let s := bank5 ⟨0, some ⟨2, true⟩, none, none⟩
    inReset s = false ∧ purging s = false ∧ (powOf s 5).trans = some ⟨2, true⟩ ∧ (powOf s 5).held = none ∧ (powOf s 5).st = 0 := by decide
theorem witness_bank_transition_held :
    (powOf (bank5 ⟨2, some ⟨0, false⟩, none, some ⟨1, false⟩⟩) 5).held = some ⟨1, false⟩
      ∧ (powOf (bank5 ⟨2, some ⟨1, false⟩, none, some ⟨2, false⟩⟩) 5).held = some ⟨2, false⟩ ∧ lbankOf up 5 = some 5 := by decide +kernel
theorem witness_domain_request :
    accepts c0 true 0x40A0 up ∧ (∀ j, j < 32 → j ≠ 31 → bit (0x80000000 : Word).toNat j = regB up 0x40A0 j)
      ∧ bit (0x80000000 : Word).toNat 31 ≠ regB up 0x40A0 31 ∧ domClosed up 31 = false ∧ domClosed up 26 = true
      ∧ (∀ j, j < 32 → j ≠ 26 → bit (0x04000000 : Word).toNat j = regB up 0x40A0 j) := by unfold accepts; decide +kernel
/-- Domain 131 in a power state of its own. -/
def dom31 (p : BankPow) : State := { up with pw := { up.pw with dom := [(31, p)] } }
theorem witness_domain_starts :
    let d := dom31 ⟨2, none, some ⟨0, false⟩, none⟩
    let u := dom31 ⟨0, none, some ⟨2, false⟩, none⟩
    inReset d = false ∧ (domOf d (31 : BitVec 5).toNat).wait = some ⟨0, false⟩ ∧ domIdle d 31 = true
      ∧ (domOf u (31 : BitVec 5).toNat).wait = some ⟨2, false⟩ ∧ ncount ((List.range 32).map fun j => poweringUp (domOf u j)) < 2
      ∧ (∀ j, j < 31 → waitingUp (domOf u j) = false) := by decide +kernel
theorem witness_domain_done :
    (domOf (dom31 ⟨0, some ⟨2, false⟩, none, none⟩) (31 : BitVec 5).toNat).trans = some ⟨2, false⟩
      ∧ (domOf (dom31 ⟨0, some ⟨2, false⟩, none, some ⟨0, false⟩⟩) 31).held = some ⟨0, false⟩ := by decide

theorem witness_level_invalid : inReset up = false ∧ bits (0x0150 : BitVec 16).toNat 6 4 > 4
    ∧ bits (0x0111 : BitVec 16).toNat 6 4 ≠ 0 ∧ bits (0x0111 : BitVec 16).toNat 3 0 ≠ 0 := by decide
theorem witness_charge_stalled :
    let s := upR [(0x604C, 8)]
    inReset s = false ∧ regB s 0x604C 3 = true ∧ regB up 0x604C 3 = false := by decide
theorem witness_charge_history :
    up.pw.core.w1 = 0 :: List.replicate 7 0 ∧ up.pw.arr.w16 = 0 :: List.replicate 15 0 ∧ up.pw.missed ≠ 2 := by decide
/-- A calibration interval with a charge on both rails, and a hint offered. -/
def measured : State :=
  { up with pw := { up.pw with ivls := [⟨5, 1000, 80000000000000, false⟩], missed := 2, hintOut := some ⟨1, 2, 3, 1⟩, hintNow := some ⟨2, 2, 3, 1⟩ } }
theorem witness_calibration :
    (measured.pw.ivls.find? fun i => i.k % 2 ^ 32 == bits (5 : BitVec 64).toNat 31 0 && !i.used && i.core != 0 && i.arr != 0)
        = some ⟨5, 1000, 80000000000000, false⟩ ∧ measured.pw.missed = 2 ∧ measured.pw.hintOut ≠ none ∧ inReset measured = false
      ∧ (measured.pw.ivls.find? fun i => i.k % 2 ^ 32 == bits (6 : BitVec 64).toNat 31 0 && !i.used && i.core != 0 && i.arr != 0) = none
      ∧ (2 * (1 * 2 ^ 14 * 80000000000000) + 1000) / (2 * 1000) > 0x5000 := by decide +kernel
/-- A level command in execution in some phase, the clock locked or not. -/
def changing (phase : Nat) (lock : Bool) : State :=
  { up with pw := { up.pw with cmd := some 0x0101, phase := phase, ckLock := lock, rtnNs := 1920 } }
theorem witness_level_valid :
    bits (0x0203 : BitVec 16).toNat 6 4 = 0 ∧ bits (0x0203 : BitVec 16).toNat 3 0 ≠ up.pw.step ∧ bits (0x0200 : BitVec 16).toNat 3 0 = up.pw.step
      ∧ bits (0x0200 : BitVec 16).toNat 6 4 = up.pw.div ∧ bits (0x0240 : BitVec 16).toNat 6 4 ≠ up.pw.div
      ∧ bits (0x0240 : BitVec 16).toNat 6 4 ≤ 4 ∧ bits (0x0240 : BitVec 16).toNat 3 0 = 0
      ∧ up.pw.held = none ∧ up.pw.cmd = none ∧ loaded up = true ∧ (changing 1 true).pw.cmd ≠ none ∧ inReset (changing 1 true) = false := by decide
theorem witness_level_change :
    inReset (changing 2 false) = false ∧ (changing 2 false).pw.cmd = some 0x0101 ∧ (changing 2 false).pw.phase = 2 ∧ (changing 3 true).pw.phase = 3
      ∧ 1920 ≤ (changing 2 false).pw.rtnNs ∧ (changing 2 false).pw.held = none ∧ (changing 1 true).pw.ckLock = true
      ∧ (changing 1 true).pw.ckRtn = false := by decide

/-- The port's domains and bank 0 On, VC 0 and bucket 0 of C0 (rows 0 to 3 of bank 0 are its pigeonholes), C0 on RL62 and RL63. -/
def portUp : State :=
  let s := bank0On (upR [(0x1000, 1), (0x1200, 0x00800002), (0x3820, 8), (0x3840, 0x00040081), (0x3880, 0x00040000), (0x185C, 0x88000000),
    (0x3D00, 1)])
  { s with pw := { s.pw with dom := (List.range 4).map fun i => (27 + i, ⟨2, none, none, none⟩) } }
/-- A bucket of two ranks and two flits in F32 with operation `op`, shard and weights in rows 100 and 200 of bank 0; in state `st`. -/
def bktIn (op st : Nat) : Bkt :=
  { Bkt.free with st := st, desc := [BitVec.ofNat 32 (0x08004010 + op * 256), 1, 1, 12800, 25600] ++ List.replicate 11 0 }
def withBucket (k : Bkt) : State := { portUp with rx := { portUp.rx with bkt := [(0, k)] } }
/-- An intake flit of flit 0 of bucket 0, rank `i`. -/
def part (i : Nat) : RFlit := ⟨0, 0, 0, 0, i, 1, 0, 0, false, [0]⟩
def intake (i : Nat) (dir : List PEnt) : State :=
  let s := withBucket (bktIn 0 1)
  { s with rx := { s.rx with slots := [part i], dir := dir } }
/-- The partial of rank 0 stands in pigeonhole 0. -/
def parked0 : PEnt := ⟨0, 0, 0, 0, 0, 0, NanRec.none, 0, some 0⟩

theorem witness_intake :
    let b := withBucket (bktIn 0 1)
    let s := { b with fr := { b.fr with wl := [(42, ⟨[], [(0, 0x20000000000)], 1, [], 0, 1⟩)] } }
    let f := mkRFlit false 0 0x20000000000
    serving s = true ∧ rp0On s = true ∧ (wlane s 42).dcq = [(0, 0x20000000000)] ∧ (wlane s 42).seen ≠ 0
      ∧ vcEn s f.vc = true ∧ slotsUsed s f.vc < vcSlots s f.vc ∧ (bktAt s f.bucket).st = 1 ∧ dVc (bktAt s f.bucket).desc = f.vc
      ∧ badFlit (bktAt s f.bucket).desc 0x20000000000 f = false ∧ badFlit (bktAt s f.bucket).desc 0 (mkRFlit false 0 0) = true := by decide +kernel
theorem witness_combine_parks :
    let s := intake 0 []
    serving s = true ∧ s.rx.took < 2 ∧ nextVc s = some 0 ∧ pickHalf s 0 (takeable s 0) = some (part 0, 0) ∧ isDup s (part 0) 0 = false
      ∧ (wayOf s (part 0) 0).1 = [] ∧ parkHole s (part 0) (wayOf s (part 0) 0) = some 0 := by decide +kernel
theorem witness_combine_meets :
    let s := intake 1 [parked0]
    nextVc s = some 0 ∧ pickHalf s 0 (takeable s 0) = some (part 1, 0) ∧ isDup s (part 1) 0 = false ∧ (wayOf s (part 1) 0).1 = [parked0]
      ∧ parkHole s (part 1) (wayOf s (part 1) 0) = none
      ∧ isDup (intake 0 [parked0]) (part 0) 0 = true ∧ pickHalf (intake 0 [parked0]) 0 (takeable (intake 0 [parked0]) 0) = some (part 0, 0) := by
  decide +kernel

/-- The operation `o` of bucket `k` is under way, with the transfer `t` of its row. -/
def operating (k : Bkt) (o : ROp) (t : Tr) (dir : List PEnt) : State :=
  let s := withBucket k
  { s with cyc := 9, rx := { s.rx with ops := [o], nextOp := 1, dir := dir }, fr := { s.fr with trs := [t], nextId := 9 } }
theorem witness_combine_reads :
    let o := { newOp (withBucket (bktIn 0 1)) 0 0 0 with level := 1, way := [parked0], asked := 1 }
    let t := innerTr .ird 178 (.rrow 0 0) 0 0
    let s := operating (bktIn 0 1) o t [{ parked0 with taker := 1 }]
    running s = true ∧ FreshIds s ∧ nextBeat s 0 false [.rd, .park, .ird] = some (t, 0) ∧ portTrs s t.req = [t] ∧ t.beats = [rowBeat 0 0]
      ∧ opOf s 0 = some o ∧ o.kind = 0 ∧ o.got = [] ∧ entryOf s 0 0 0 0 = some { parked0 with taker := 1 } := by
  unfold FreshIds; decide +kernel
theorem witness_combine_writes :
    let o := { newOp (withBucket (bktIn 0 1)) 0 0 0 with hole := some 0, full := true, outs := [(5, 0)], wasked := 1 }
    let t := innerTr .iwr 196 (.wrow 0 0) 0 0
    let s := operating (bktIn 0 1) o t [{ parked0 with from_ := none }]
    let r := operating (bktIn 0 1) { o with hole := none } t []
    running s = true ∧ FreshIds s ∧ nextBeat s 0 false [.wr, .parkWr, .iwr] = some (t, 0) ∧ portTrs s t.req = [t]
      ∧ opOf s 0 = some o ∧ o.wdone = 0 ∧ o.id < s.rx.nextOp ∧ opOf r 0 = some { o with hole := none } ∧ (bktAt r 0).use = o.use := by
  unfold FreshIds; decide +kernel
theorem witness_credit_returns :
    let s := { portUp with rx := { portUp.rx with ret := [(0, 1)] } }
    NMap.get 0 s.rx.ret (0 : BitVec 4).toNat ≠ 0 ∧ running s = true ∧ vcEgcred s 0 = 4
      ∧ ((4 : BitVec 8).toNat + 256 - NMap.get 0 s.rx.egcred 0) % 256 = 4 ∧ ((5 : BitVec 8).toNat + 256 - NMap.get 0 s.rx.egcred 0) % 256 = 5 := by
  decide
/-- Bucket 0 described and free. -/
def described : State := { portUp with rx := { portUp.rx with desc := (bktIn 0 0).desc.zipIdx.map fun e => (e.2, e.1) } }
theorem witness_arm :
    accepts c0 true 0x3814 described ∧ accepts c0 false 0x3814 described ∧ accepts c0 true 0x3808 described ∧ rdxOpen described = true
      ∧ armReason described (lvl c0) 0 = none ∧ bktMine described (lvl c0) 0 = true ∧ (bktAt described 0).st = 0 := by
  unfold accepts; decide +kernel
theorem witness_arm_refused : accepts c0 true 0x3808 portUp ∧ armReason portUp (lvl c0) 1 = some 1 ∧ armReason (withBucket (bktIn 0 1)) (lvl c0) 0 = some 0 := by
  unfold accepts; decide +kernel
theorem witness_abort :
    accepts c0 true 0x3808 (withBucket (bktIn 0 1)) ∧ (bktAt (withBucket (bktIn 0 1)) 0).st = 1
      ∧ bktMine (withBucket (bktIn 0 1)) (lvl c0) 0 = true ∧ (bktAt portUp 0).st ≠ 1 ∧ (bktAt portUp 0).st ≠ 2
      ∧ accepts c0 true (0x3D00 + 16 * 7) portUp := by unfold accepts; decide +kernel
theorem witness_norm_pass :
    let k := { bktIn 0 2 with norm := 1 }
    let o := { newOp (withBucket k) 1 0 0 with full := true }
    let s := operating k o (innerTr .ird 178 .none 0 0) []
    serving s = true ∧ normOp s 0 = some o ∧ (bktAt s 0).norm = 1
      ∧ regF s 0x3D00 6 0 = 1 ∧ (ngAt s 0).mem.length + 1 = 1 ∧ (ngAt s 0).lost = false := by decide +kernel
theorem witness_update :
    let s := withBucket { bktIn 1 3 with norm := 2 }
    serving s = true ∧ nextUpdate (bktAt s 0) = some (0, none) ∧ s.rx.nupd + optCost (bktAt s 0).desc true ≤ 4 := by decide +kernel
theorem witness_update_reads :
    let k := { bktIn 1 3 with norm := 2 }
    let o := { newOp (withBucket k) 2 0 0 with asked := 1 }
    let t := innerTr .ird 180 (.rrow 0 0) 0 200
    let s := operating k o t []
    running s = true ∧ FreshIds s ∧ nextBeat s 0 false [.rd, .park, .ird] = some (t, 0) ∧ portTrs s t.req = [t]
      ∧ opOf s 0 = some o ∧ o.kind = 2 ∧ o.again = false ∧ dOp o.desc = 1 ∧ o.got = [] := by
  unfold FreshIds; decide +kernel
theorem witness_result :
    let b := withBucket { bktIn 0 2 with norm := 2 }
    let s := { b with rx := { b.rx with eg := [(0, 1)] } }
    serving s = true ∧ maySend (bktAt s 0) = true ∧ (bktAt s 0).sent < dFlits (bktAt s 0).desc
      ∧ NMap.get 0 s.rx.eg (dVc (bktAt s 0).desc) ≠ 0 := by decide +kernel

theorem witness_propose :
    accepts c0 true 0x4810 up ∧ protState up = 0 ∧ up.pr.computing = false ∧ stagedOverlap up = false ∧ stagedReserved up = false
      ∧ stagedEmpty up = false ∧ inReset { up with pr := { up.pr with computing := true } } = false := by unfold accepts; decide +kernel
theorem witness_propose_refused :
    let o := upR [(0x4904, 1), (0x4910, 1)]
    let r := upR [(0x4984, 16)]
    let e := upR [(0x49A0, 8)]
    accepts c0 true 0x4810 o ∧ stagedOverlap o = true ∧ accepts c0 true 0x4810 r ∧ stagedOverlap r = false ∧ stagedReserved r = true
      ∧ accepts c0 true 0x4810 e ∧ stagedOverlap e = false ∧ stagedReserved e = false ∧ stagedEmpty e = true
      ∧ accepts c0 true 0x4810 (upR [(0x4814, 1)]) ∧ protState (upR [(0x4814, 1)]) ≠ 0 := by unfold accepts; decide +kernel
/-- The processor S holds 1 as its digest, the block too; `miss` digests have failed. -/
def oneDigest (miss : Nat) (win : Nat := 0) : State :=
  { upR [(0x4814, 2 + 0x100 + 64 * miss)] with pr := { up.pr with sDig := some 1, bDig := some 1, winNs := win } }
theorem witness_digest :
    accepts svc true 0x4824 (upR [(0x4814, 1)]) ∧ protState (upR [(0x4814, 1)]) = 1 := by unfold accepts; decide
theorem witness_second_digest :
    accepts ⟨3, 0, 2, false⟩ true 0x482C (oneDigest 2) ∧ protState (oneDigest 2) = 2 ∧ (oneDigest 2).pr.sDig = some 1 ∧ (oneDigest 2).pr.pDig = none
      ∧ (oneDigest 2).pr.bDig = some 1 ∧ regF (oneDigest 2) 0x4814 7 6 < 3 ∧ inReset (oneDigest 2) = false ∧ (oneDigest 2).pr.winNs < 1000000
      ∧ protState (oneDigest 2 1000000) = 2 ∧ 1000000 ≤ (oneDigest 2 1000000).pr.winNs ∧ accepts ⟨3, 0, 2, false⟩ true 0x482C (oneDigest 2 1000000)
      ∧ accepts ⟨3, 0, 2, false⟩ true 0x482C (oneDigest 0) ∧ regF (oneDigest 0) 0x4814 7 6 < 2
      ∧ BitVec.ofNat 64 ((oneDigest 0).pr.pLo.toNat + 2 ^ 32 * (0 : Word).toNat) ≠ 1 := by unfold accepts; decide
theorem witness_commit_apply :
    let s := upR [(0x4814, 3), (0x4904, 1)]
    inReset s = false ∧ protState s = 3 ∧ ∀ c, c < 8 → affected s c = true → quiescent s c = true := by decide +kernel
theorem witness_seal_arm :
    accepts c0 true 0x4810 up ∧ accepts c0 true (0x4880 + 32 * 1) up ∧ accepts c0 true (0x4880 + 32 * 3) up ∧ (sealAt up 1).st = 0
      ∧ (0x10003 : Word).getLsbD 16 = true ∧ (0x3 : Word).getLsbD 16 = false := by unfold accepts; decide
theorem witness_seal_active :
    let s := { up with pr := { up.pr with sess := [(1, { Seal.idle with st := 1 })] } }
    running s = true ∧ (sealAt s (1 : BitVec 2).toNat).st = 1 ∧ accepts c0 true (0x4880 + 32 * 1) s ∧ (sealAt s 1).st ≠ 0 ∧ (sealAt s 1).st ≠ 3 := by
  unfold accepts; decide
theorem witness_unlock :
    let f := { up with ck := { up.ck with field := true } }
    inReset f = false ∧ busMisfit svc 0x4B00 = false ∧ accessOk f svc true 0x4B00 = true ∧ purging f = false ∧ f.ck.field = true
      ∧ regB f 0x4444 0 = false ∧ up.ck.field = false ∧ accessOk up svc true 0x4B00 = true ∧ purging up = false ∧ up.fw.mig = none
      ∧ bits (0x5A01 : Word).toNat 15 8 = 0x5A ∧ bits (0x5A01 : Word).toNat 1 0 = 1 ∧ bits (0x5A02 : Word).toNat 1 0 = 2 := by decide
theorem witness_unlock_in_migration :
    let s := { up with fw := { up.fw with mig := some ⟨3, 96, 1, 0, 0, 0, []⟩ } }
    inReset s = false ∧ busMisfit svc 0x4B00 = false ∧ accessOk s svc true 0x4B00 = true ∧ purging s = false ∧ s.ck.field = false
      ∧ s.fw.mig = some ⟨3, 96, 1, 0, 0, 0, []⟩ ∧ protState s = 0 ∧ s.pr.computing = false ∧ protState (upR [(0x4814, 1)]) ≠ 0
      ∧ accessOk (upR [(0x4814, 1)]) svc true 0x4B00 = true := by decide
theorem witness_unlock_after_switch :
    let s := { up with fw := { up.fw with mig := some ⟨3, 96, 4, 512, 512, 0, []⟩ } }
    inReset s = false ∧ busMisfit svc 0x4B00 = false ∧ accessOk s svc true 0x4B00 = true ∧ purging s = false ∧ s.ck.field = false
      ∧ s.fw.mig = some ⟨3, 96, 4, 512, 512, 0, []⟩ := by decide
theorem witness_purge :
    let s := bank0On (upR [(0x4B04, 1)])
    inReset s = false ∧ purging s = true ∧ (∀ e, e ∈ s.bank.pow → e.2.trans = none ∧ e.2.wait = none ∧ e.2.st ≠ 1)
      ∧ (powOf s 0).st = 2 ∧ (powOf s 1).st ≠ 2 := by decide

/-- Time is valid, `n` TCLK have passed since the last beacon, in a hold as given; the trace is on. -/
def timed (n : Nat) (st : Nat) : State := { upR [(0x604C, st), (0x6000, 1)] with tm := ⟨5000, 0, n, true, 64⟩ }
theorem witness_beacon :
    (timed 3 1).ck.por = false ∧ regB (timed 3 1) 0x604C 0 = true ∧ (timed 3 1).tm.since < 2 ^ (beaconL2 (timed 3 1) - 1)
      ∧ 2 ^ (beaconL2 (timed 40000 1) - 1) ≤ (timed 40000 1).tm.since ∧ regB (timed 3 0) 0x604C 0 = false ∧ regB (timed 3 5) 0x604C 2 = true := by
  decide
theorem witness_beacon_loss :
    inReset (timed 262144 1) = false ∧ regB (timed 262144 1) 0x604C 1 = false ∧ 4 * 2 ^ beaconL2 (timed 262144 1) ≤ (timed 262144 1).tm.since
      ∧ regB (timed 0 1) 0x604C 3 = false ∧ 64 ≤ (timed 0 1).tm.still ∧ regB (timed 0 9) 0x604C 3 = true ∧ (timed 0 1).tm.holding = true ∧ (timed 0 1).tm.hold = 0 := by decide

/-- The trace is on with CTL `ctl`, its ring two rows of bank 0 (rows 10 and 11, 15 slots), and registers set. -/
def tracing (ctl : Nat) (l : List (Nat × Nat)) : State :=
  bank0On (upR ([(0x6000, ctl), (0x12C4, 2), (0x1200, 0x0040A003)] ++ l))
theorem witness_trace_commands :
    accepts c0 true 0x6010 (tracing 1 []) ∧ regB (tracing 1 []) 0x6000 0 = true ∧ regB (tracing 1 []) 0x6000 1 = false
      ∧ accepts c0 true 0x6010 (tracing 3 []) ∧ regB (tracing 3 []) 0x6014 2 = false := by unfold accepts; decide
theorem witness_read_pointer :
    let s := tracing 1 [(0x6018, 3), (0x601C, 0), (0x6020, 3)]
    let f := tracing 1 [(0x6020, 15)]
    accepts c0 true 0x601C s ∧ regF s 0x601C 15 0 < 15 ∧ regF s 0x6018 15 0 = (0 + 3) % 15 ∧ bits (3 : Word).toNat 15 0 = (0 + 3) % 15
      ∧ bits (15 : Word).toNat 15 0 = 15 ∧ bits (4 : Word).toNat 15 0 = (0 + 4) % 15 ∧ 8 * regF s 0x12C4 15 0 - 1 = 15
      ∧ accepts c0 true 0x601C f ∧ regF f 0x6018 15 0 = (0 + 15) % 15 ∧ bits (0 : Word).toNat 15 0 = (0 + 15) % 15 := by unfold accepts; decide
theorem witness_read_pointer_window : accepts c0 true 0x601C (tracing 3 []) ∧ regB (tracing 3 []) 0x6000 1 = true := by unfold accepts; decide
theorem witness_trace_enable :
    accepts c0 true 0x6000 (tracing 0 []) ∧ regB (tracing 0 []) 0x6000 0 = false ∧ (3 : Word).getLsbD 0 = true
      ∧ accepts c0 true 0x6000 (tracing 1 []) ∧ regB (tracing 1 []) 0x6000 0 = true ∧ (0 : Word).getLsbD 1 = regB (tracing 1 []) 0x6000 1
      ∧ (2 : Word).getLsbD 1 ≠ regB (tracing 1 []) 0x6000 1 ∧ (tracing 1 []).tr.wbuf.length ≤ (tracing 1 []).tr.wold
      ∧ (tracing 1 []).fr.trs = [] := by unfold accepts; decide
theorem witness_trace_freeze :
    let s := { tracing 3 [] with tr := { up.tr with freezeDue := true } }
    inReset s = false ∧ s.tr.freezeDue = true := by decide
theorem witness_collect :
    let r : Rec := ⟨1, false, 0, 0, 0, 5000, 9, [], 0⟩
    let s := { tracing 5 [] with tr := { up.tr with gen := [r] } }
    inReset s = false ∧ regB s 0x6000 1 = false ∧ s.tr.gen = [r] ∧ r.raw = [] ∧ r.typ ≠ 6 ∧ s.tr.inq = [] ∧ s.tr.carry = 0 ∧ s.tr.lossB.n = 0
      ∧ s.tr.lossE.n = 0 ∧ regF s 0x6020 15 0 + (s.tr.wbuf.length - s.tr.wold) + 1 ≤ ringSlots s ∧ s.tr.wbuf.length + 3 ≤ wbufCap s
      ∧ s.tr.eg.length < 32 ∧ regB s 0x6000 2 = true := by decide
/-- `n` slots wait in the write buffer, for the row of ring slot `p`. -/
def buffered (n p : Nat) : State := { tracing 1 [(0x6018, p)] with tr := { up.tr with wbuf := List.replicate n 7, wpos := p, quiet := 256 } }
theorem witness_row_write :
    let s := buffered 8 0
    ringRowLen s s.tr.wpos = 8 ∧ inReset s = false ∧ 0 < traceN s ∧ s.tr.wold < min s.tr.wbuf.length (ringRowLen s s.tr.wpos) ∧ s.fr.trs = []
      ∧ ringRowLen s s.tr.wpos ≤ s.tr.wbuf.length ∧ 256 ≤ s.tr.quiet ∧ accepts c0 true 0x6010 s ∧ accepts c0 true 0x6000 s
      ∧ regB s 0x6000 0 = true ∧ (0 : Word).getLsbD 1 = regB s 0x6000 1
      ∧ (buffered 3 8).tr.wold < min (buffered 3 8).tr.wbuf.length (ringRowLen (buffered 3 8) 8) ∧ 256 ≤ (buffered 3 8).tr.quiet := by
  unfold accepts; decide +kernel
theorem witness_row_written :
    let t := innerTr .iwr 204 (.trace 8) 0 10
    let s := { buffered 8 0 with cyc := 9, fr := { up.fr with trs := [t], nextId := 9 } }
    let p := { buffered 3 8 with cyc := 9, fr := { up.fr with trs := [innerTr .iwr 204 (.trace 3) 0 11], nextId := 9 } }
    arraysGo s = true ∧ regB s 0x6000 1 = false ∧ nextBeat s 0 false [.wr, .parkWr, .iwr] = some (t, 0) ∧ t.beats = [rowBeat 0 10]
      ∧ portTrs s 204 = [] ++ t :: [] ∧ FreshIds s ∧ FreshIds p ∧ s.tr.wold < 8 ∧ 8 ≤ ringRowLen s s.tr.wpos
      ∧ nextBeat p 0 false [.wr, .parkWr, .iwr] = some (innerTr .iwr 204 (.trace 3) 0 11, 0) ∧ p.tr.wold < 3 ∧ 3 ≤ ringRowLen p p.tr.wpos := by
  unfold FreshIds; decide +kernel

/-- Halted, by STOP or by DBG as the status says, `cyc` CCLK and `cnt` TCLK ago. -/
def haltedS (st cyc cnt : Nat) : State := { upR [(0x6808, st)] with dbg := { up.dbg with haltCyc := cyc, haltCnt := cnt } }
theorem witness_halt :
    let s := { up with dbg := { up.dbg with stopIn := true } }
    let h := { haltedS 1 0 0 with dbg := { up.dbg with stopIn := true } }
    loaded s = true ∧ stopSeen s = true ∧ halted s = false ∧ halted h = true ∧ stopSeen h = true ∧ loaded h = true
      ∧ regB (upR [(0x6808, 4)]) 0x6808 2 = true ∧ halted (upR [(0x6808, 4)]) = false := by decide
theorem witness_resume :
    let s := haltedS 1 16 0
    loaded s = true ∧ halted s = true ∧ regB s 0x6808 1 = false ∧ regB s 0x6808 2 = false ∧ stopSeen s = false ∧ 16 ≤ s.dbg.haltCyc
      ∧ s.dbg.capturing = false ∧ (∀ e, e ∈ s.fr.ch → e.2.seen = 0) ∧ s.hd.canc = [] := by decide
theorem witness_stuck :
    let s := haltedS 3 0 (2 ^ 24)
    stuckLimit s = some (2 ^ 24) ∧ loaded s = true ∧ halted s = true ∧ regB s 0x6808 1 = true ∧ regB s 0x6808 3 = false ∧ 2 ^ 24 ≤ s.dbg.haltCnt
      ∧ accepts c0 true 0x6804 s := by unfold accepts; decide
theorem witness_hang_snapshot :
    accepts c0 true 0x6900 up ∧ regB up 0x6904 0 = false ∧ accepts c0 true 0x6900 (upR [(0x6904, 1)]) ∧ regB (upR [(0x6904, 1)]) 0x6904 0 = true
      ∧ wbState up = 3 ∧ accepts c0 false 0x690C up := by unfold accepts; decide
theorem witness_scan :
    let s := upR [(0x6808, 1), (0x4B04, 8)]
    accepts c0 true 0x6810 s ∧ s.dbg.capturing = false ∧ halted s = true ∧ regB s 0x4B04 3 = true ∧ accepts c0 true 0x6810 (upR [(0x4B04, 8)])
      ∧ halted (upR [(0x4B04, 8)]) = false ∧ accepts c0 false 0x681C s ∧ wbState s = 3
      ∧ inReset { s with dbg := { s.dbg with capturing := true } } = false := by unfold accepts; decide
theorem witness_bank_readout :
    let s := upR [(0x4B04, 16)]
    accepts c0 true 0x6820 s ∧ regB s 0x4B04 4 = true ∧ regB s 0x6824 0 = false ∧ (0x630000 + 0x800000 : Word).getLsbD 23 = true
      ∧ bits (0x630000 + 0x800000 : Word).toNat 22 16 = 99 ∧ bits (0x600000 : Word).toNat 22 16 = 96 := by unfold accepts; decide
theorem witness_bank_readout_done :
    let t := { innerTr .ird 193 .bankRd 0 3 with passed := [(0, 1)] }
    let s := { up with fr := { up.fr with trs := [t] } }
    inReset s = false ∧ readoutOf s .bankRd = some (t, rowBeat 0 3) := by decide +kernel
theorem witness_watch_arm :
    accepts c0 true 0x6A00 up ∧ regF up 0x6A1C 1 0 = 0 ∧ regF (upR [(0x6A1C, 2)]) 0x6A1C 1 0 = 2 ∧ (0xFFFFD : Word).getLsbD 0 = true ∧ (0xFFFFD : Word).getLsbD 1 = false ∧ wuRefuses up 0 1 = false ∧ wuRefuses up 0 0x30 = true
      ∧ accepts c0 true 0x6A00 (upR [(0x6A1C, 1)]) ∧ regF (upR [(0x6A1C, 1)]) 0x6A1C 1 0 = 1 ∧ (2 : Word).getLsbD 1 = true
      ∧ (2 : Word).getLsbD 0 = false := by unfold accepts; decide
theorem witness_watch_readout :
    let s := upR [(0x6A18, 4)]
    accepts c0 true 0x6B10 s ∧ c0.priv.toNat = 0 ∧ bits (0x30000 : Word).toNat 31 16 < regF s 0x6A18 15 0 ∧ s.dbg.wrd = none
      ∧ ¬bits (0x40000 : Word).toNat 31 16 < regF s 0x6A18 15 0 := by unfold accepts; decide
theorem witness_watch_readout_done :
    let t := { innerTr .ird 192 .dumpRd 0 3 with passed := [(0, 1)], beats := [{ genBeat with bad := 1 }] }
    let s := { up with fr := { up.fr with trs := [t] } }
    inReset s = false ∧ readoutOf s .dumpRd = some (t, { genBeat with bad := 1 }) := by decide +kernel

/-- Units pending, by key, each commanded. -/
def failing (ks : List Nat) : State :=
  { up with fw := { up.fw with pend := ks.map fun k => (k, 1), cmd := ks.map fun k => (k, true) } }
theorem witness_forward_commands :
    let m := { up with fw := { up.fw with mig := some ⟨3, 96, 1, 0, 0, 0, []⟩ } }
    let e := { up with fw := { up.fw with ents := [5] } }
    let n := { up with fw := { up.fw with mig := some ⟨3, 96, 4, 512, 512, 0, []⟩ } }
    accepts c0 true 0x7048 up ∧ unitLive up 0 3 = true ∧ unitBusy up 0 3 = false ∧ unitLive up 0 96 = false ∧ up.fw.mig = none ∧ up.fw.ents = []
      ∧ accepts c0 true 0x7048 m ∧ unitLive m 0 3 = true ∧ unitBusy m 0 3 = true ∧ m.fw.mig = some ⟨3, 96, 1, 0, 0, 0, []⟩
      ∧ accepts c0 true 0x7048 n ∧ n.fw.mig = some ⟨3, 96, 4, 512, 512, 0, []⟩ ∧ accepts c0 true 0x7048 e ∧ e.fw.ents ≠ [] := by unfold accepts; decide
theorem witness_storm :
    let s := { upR [(0x7044, 0x20000)] with fw := { up.fw with storm := [1, 2] } }
    inReset s = false ∧ loaded s = true ∧ regF s 0x7044 19 16 = 2 ∧ 2 ≤ s.fw.storm.length ∧ regB s 0x704C 22 = false
      ∧ s.fw.sWin = s.tm.t.toNat / 1000000 ∧ { s.fw with sWin := 1 }.sWin ≠ s.tm.t.toNat / 1000000 := by decide
theorem witness_bank_forward :
    let s := { failing [3] with bank := { up.bank with pow := [(3, ⟨2, none, none, none⟩)] } }
    running s = true ∧ entryRoom s = true ∧ s.fw.mig = none ∧ nextBank s = some 3 ∧ s.fw.spB = 96 :: [97, 98, 99]
      ∧ (powOf s (pbankOf s 3)).trans = none ∧ (powOf s (pbankOf s 3)).st = 2 := by decide +kernel
theorem witness_bank_forward_off :
    let s := failing [3]
    entryRoom s = true ∧ s.fw.mig = none ∧ nextBank s = some 3 ∧ s.fw.spB = 96 :: [97, 98, 99] ∧ pbankOf s 3 = 3
      ∧ (powOf s 3).trans = none ∧ (powOf s 3).st = 0 ∧ (powOf s 3).wait = none := by decide +kernel
theorem witness_bank_degraded :
    let s := { failing [3] with fw := { (failing [3]).fw with spB := [] } }
    nextBank s = some 3 ∧ s.fw.spB = [] ∧ regB s (0x7078 + 4 * (3 / 32)) (3 % 32) = false := by decide +kernel
theorem witness_plane_forward :
    let k := failing [unitKey 1 4]
    nextPlane k = some (1, 4) ∧ k.fw.plane = none ∧ 1 < ncount ((List.range 18).map (planesOf k 1).1.getLsbD) ∧ (planesOf k 1).2.getLsbD 16 = true
      ∧ nextPlane (failing [unitKey 2 4]) = some (2, 4) := by decide +kernel
theorem witness_cluster_and_row_forward :
    let c := failing [unitKey 3 2]
    let r := failing [unitKey 4 9]
    c.fw.cluster = none ∧ (List.range 9).find? (fun i => mayForward c 3 i) = some 2 ∧ c.fw.spC.getLsbD 8 = true
      ∧ r.fw.stat = none ∧ (List.range 4096).find? (fun i => mayForward r 4 i) = some 9 ∧ spareRow r = some 0 ∧ rowHeld r 9 = false := by decide +kernel
/-- Bank 3 moves to bank 96, in some phase with `cp` rows copied; both banks are On. -/
def moving (phase cp : Nat) : State :=
  { up with fw := { up.fw with mig := some ⟨3, 96, phase, cp, cp, 0, []⟩ }, bank := { up.bank with pow := [(3, ⟨2, none, none, none⟩), (96, ⟨2, none, none, none⟩)] } }
theorem witness_migration :
    running (moving 1 0) = true ∧ bankOn (moving 1 0) 224 = true ∧ (moving 1 0).fw.mig = some ⟨3, 96, 1, 0, 0, 0, []⟩
      ∧ (moving 2 511).fw.mig = some ⟨3, 96, 2, 511, 511, 0, []⟩ ∧ 511 + copiesAsked (moving 2 511) < 512 ∧ portBusy (moving 2 511) 191 = false
      ∧ (moving 3 512).fw.mig = some ⟨3, 96, 3, 512, 512, 0, []⟩
      ∧ bankOn (moving 3 512) 3 = true ∧ bankOn (moving 3 512) 224 = true ∧ pbankOf (moving 3 512) 3 < 100 := by decide +kernel
theorem witness_copy_accesses :
    let r := innerTr .ird 191 .copyRd 3 511
    let w := innerTr .iwr 202 .copyWr 224 511
    let s := { moving 2 510 with cyc := 9, fr := { up.fr with trs := [r, { w with id := 8 }], nextId := 9 } }
    nextBeat s 3 false [.rd, .park, .ird] = some (r, 0) ∧ r.beats = [rowBeat 3 511] ∧ portTrs s 191 = [] ++ r :: [] ∧ FreshIds s
      ∧ nextBeat s 224 false [.wr, .parkWr, .iwr] = some ({ w with id := 8 }, 0) ∧ portTrs s 202 = [] ++ { w with id := 8 } :: [] := by
  unfold FreshIds; decide +kernel
/-- A granted store of row 5 of bank 3, left behind by the switch, still produces its dual write. -/
theorem test_left_behind :
    let w : Tr := { innerTr .wr 129 .none 3 5 with slip := 0, granted := true, gcyc := 0 }
    let s := { moving 3 512 with fr := { up.fr with trs := [w] } }
    let t := finishMig ⟨3, 96, 3, 512, 512, 0, []⟩ none (some ⟨3, 96, 4, 512, 512, 0, []⟩) s
    pbankOf t 3 = 96 ∧ leftBehind t = true ∧ beatsAt t 3 = true
      ∧ ((storeRow (oldBank 3 3) 5 15 0 0 1 0 t).fw.mig.map fun m => m.dual.map fun d => (d.row, d.en)) = some [(5, 15)] := by decide +kernel
theorem witness_units_move :
    let p := { up with fw := { up.fw with plane := some ⟨1, 4, 17, 0⟩ }, pw := { up.pw with dom := [(16, ⟨2, none, none, none⟩)] } }
    let c := { up with fw := { up.fw with cluster := some ⟨3, 2, 0, 0⟩ } }
    let r := { up with fw := { up.fw with stat := some ⟨4, 9, 1, 0⟩ } }
    running p = true ∧ p.fw.plane = some ⟨1, 4, 17, 0⟩ ∧ (domOf p (17 - 1)).st = 2 ∧ clusterRetiring c 2 = true ∧ c.bl.slot = []
      ∧ r.fw.stat = some ⟨4, 9, 1, 0⟩ ∧ rowHeld r 9 = false := by decide +kernel

end Sys2Proof.Tests
end

section
/-!
PROOFS. The error logs of R59: what an error does to a log word, and what a service-bus write does to it.
-/
namespace Sys2Proof.Machine

/-! The two flags of a log word: VALID is bit 0, OVF is bit 1. -/

theorem getLsbD_two (i : Nat) : (2#32).getLsbD i = (i == 1) := by
  by_cases hi : i < 32
  · exact (by decide : ∀ i < 32, (2#32).getLsbD i = (i == 1)) i hi
  · rw [BitVec.getLsbD_of_ge _ _ (by omega)]
    exact (beq_eq_false_iff_ne.mpr (by omega)).symm

theorem getLsbD_three (i : Nat) : (3#32).getLsbD i = decide (i < 2) := by
  by_cases hi : i < 32
  · exact (by decide : ∀ i < 32, (3#32).getLsbD i = decide (i < 2)) i hi
  · rw [BitVec.getLsbD_of_ge _ _ (by omega)]
    exact (decide_eq_false (by omega)).symm

theorem getLsbD_and_not (x m : Word) (i : Nat) : (x &&& ~~~m).getLsbD i = (x.getLsbD i && !m.getLsbD i) := by
  rw [BitVec.getLsbD_and, BitVec.getLsbD_not]
  by_cases hi : i < 32
  · rw [decide_eq_true hi, Bool.true_and]
  · rw [BitVec.getLsbD_of_ge x i (by omega), Bool.false_and, Bool.false_and]

/-! Clearing a log -/

@[simp] theorem reg_respond (d : Word) (err : Bool) (s : State) (o : Nat) : reg (respond d err s) o = reg s o := rfl

@[simp] theorem reg_clrReg_self (o m : Nat) (s : State) : reg (clrReg o m s) o = reg s o &&& ~~~BitVec.ofNat 32 m :=
  reg_setReg_self _ _ _

theorem clearLog_valid {o : Nat} {w : Word} {s : State} (h : w.getLsbD 0 = true) : clearLog o w s = clrReg o 3 s :=
  if_pos h

theorem clearLog_ovf {o : Nat} {w : Word} {s : State} (h0 : w.getLsbD 0 = false) (h1 : w.getLsbD 1 = true) :
    clearLog o w s = clrReg o 2 s :=
  (if_neg (Bool.eq_false_iff.mp h0)).trans (if_pos h1)

/-! A write to the first word of a log -/

/-- No log register is plain storage or a W1C register of the shared kind, and none names an item by the value written. -/
theorem logRegs_kind : ∀ o ∈ logRegs, plainMask o = none ∧ w1cMask o = none ∧ o ≠ 0x3010 ∧ o ≠ 0x3014 := by decide

theorem regWrite_log {a : BusAcc} {o : Nat} {w : Word} {s : State} (h : o ∈ logRegs) : regWrite a o w s = clearLog o w s := by
  obtain ⟨hp, hw, -, -⟩ := logRegs_kind o h
  unfold regWrite
  rw [hp, hw]
  exact if_pos (List.contains_iff_mem.mpr h)

theorem namesMine_log {a : BusAcc} {o : Nat} {w : Word} {s : State} (h : o ∈ logRegs) : namesMine a o w s = true := by
  obtain ⟨-, -, hc, ht⟩ := logRegs_kind o h
  unfold namesMine
  rw [if_neg hc, if_neg ht]

/-- An accepted write to the first word of a log clears its bits and does nothing else than answer. -/
theorem registerWrite_log {a : BusAcc} {off : BitVec 16} {w : Word} {s : State} (h : off.toNat ∈ logRegs)
    (ha : accepts a true off.toNat s) :
    exec (.registerWrite a off w) s = .next (respond 0 false (clearLog off.toNat w s)) := by
  show execRegisterWrite a off w s = _
  unfold execRegisterWrite
  rw [busWriteFor_mine (namesMine_log h), busWrite_accepts ha, regWrite_log h]

/-- Settles O18: the first error fills a log and a later one sets OVF; an accepted write is `clearLog` of the log word. (R59) -/
theorem errorLogsKeepTheFirstError : Obligations.ErrorLogsKeepTheFirstError := by
  unfold Obligations.ErrorLogsKeepTheFirstError
  refine ⟨fun o w0 w1 s h => fillLog_first h, fun o w0 w1 s h => ?later, fun a off w s hl ha h0 => ?valid,
    fun a off w s hl ha h0 h1 => ?ovf⟩
  case later =>
    obtain ⟨hfirst, hsecond⟩ := fillLog_again (w0 := w0) (w1 := w1) h
    refine ⟨fun i => ?_, hsecond⟩
    rw [hfirst, BitVec.getLsbD_or]
    exact congrArg _ (getLsbD_two i)
  case valid =>
    refine ⟨_, registerWrite_log hl ha, ?_⟩
    rw [clearLog_valid h0]
    refine ⟨reg_clrReg_ne (by omega), fun i => ?_⟩
    rw [reg_respond, reg_clrReg_self, getLsbD_and_not, getLsbD_three, ← decide_not, decide_eq_decide.mpr Nat.not_lt]
  case ovf =>
    refine ⟨_, registerWrite_log hl ha, ?_⟩
    rw [clearLog_ovf h0 h1]
    refine ⟨reg_clrReg_ne (by omega), fun i => ?_⟩
    rw [reg_respond, reg_clrReg_self, getLsbD_and_not, getLsbD_two]
    rfl

end Sys2Proof.Machine
end

section
/-!
PROOFS. Level commands of the package power controller (R352, R353): what an error in one writes, and the invalid command.
-/
namespace Sys2Proof.Machine

/-! An error in a command of the package power controller -/

/-- CMDERR is bit 11 of LMY_PWR_STATUS, and the cause raised with it keeps it. -/
theorem commandError_cmderr (s : State) : regB (commandError s) 0x4004 11 = true :=
  raise_keep (orReg_bit (i := 11) (by decide))

/-- Cause 45 is bit 13 of the second pending word. -/
theorem commandError_pends (s : State) : regB (commandError s) 0x7004 13 = true :=
  raise_sets 45 _

/-! The invalid command -/

theorem cmdBad_iff (c : BitVec 16) : cmdBad c = true ↔ 4 < cmdDiv c ∨ (cmdDiv c ≠ 0 ∧ cmdStep c ≠ 0) := by
  unfold cmdBad
  rw [Bool.or_eq_true, Bool.and_eq_true, decide_eq_true_iff, decide_eq_true_iff, decide_eq_true_iff]

/-- R353: an invalid command is acknowledged with ERR and reported, whatever command is held or being applied. -/
theorem execLevelCommand_bad {msg : BitVec 16} {s : State} (hr : inReset s = false) (hb : cmdBad msg = true) :
    execLevelCommand msg s = .next (commandError (pushAck (cmdSeq msg) false true s)) := by
  unfold execLevelCommand
  rw [if_neg (Bool.eq_false_iff.mp hr), if_pos hb]

/-- Settles O44: the state after an invalid command is `commandError` after `pushAck`; the two frames of the command give what
it leaves unchanged. (R353) -/
theorem invalidLevelCommandsAreIgnored : Obligations.InvalidLevelCommandsAreIgnored := by
  unfold Obligations.InvalidLevelCommandsAreIgnored
  intro msg s hr hinvalid
  have hexec := execLevelCommand_bad hr ((cmdBad_iff msg).mpr hinvalid)
  exact ⟨_, hexec, commandError_pw _, commandError_cmderr _, commandError_pends _,
    execLevelCommand_within msg s _ hexec, execLevelCommand_only msg s _ hexec⟩

end Sys2Proof.Machine
end

section
/-!
PROOFS. Reads of the time counter (R426): who may read it, and what a read of its low word leaves in the shadows.
-/
namespace Sys2Proof.Machine

/-! Who may read the time counter -/

/-- R496: a register that every level may read, read by initiator 0 or 1 and not by the tile DMA. -/
theorem accessOk_read_all {a : BusAcc} {s : State} {o : Nat} (hi : a.init.toNat < 2) (hd : a.dma = false)
    (ho : regInfo s o = some (.all, true)) : accessOk s a false o = true := by
  have hdma : dmaOk s a o = true := by
    unfold dmaOk
    rw [hd]
    rfl
  unfold accessOk
  rw [hdma, ho]
  exact if_pos hi

theorem regInfo_timeLow (s : State) : regInfo s 0x6040 = some (.all, true) := rfl

theorem regInfo_timeHigh (s : State) : regInfo s 0x6044 = some (.all, true) := rfl

/-! What LMY_TM_HI reads -/

/-- LMY_TM_HI shows the time shadow of the reader's level, whether the Waybill is LOADED or not. -/
theorem readReg_timeHigh {s : State} (hr : inReset s = false) (l i : Nat) :
    readReg s l i 0x6044 = (NMap.get 0 s.bus.tmSh l).toNat := by
  have hvalue : regValue s l i 0x6044 = (NMap.get 0 s.bus.tmSh l).toNat := rfl
  have hunloaded : unloadedValue 0x6044 = none := by decide
  unfold readReg
  rw [hr, hunloaded, hvalue]
  exact ite_self _

/-! An accepted read of LMY_TM_LO -/

/-- Bits 63 to 32 of the time counter latched into the time shadow of a level. -/
def latchTime (l : Nat) (s : State) : State :=
  { s with bus := { s.bus with tmSh := NMap.set 0 s.bus.tmSh l (s.tm.t.extractLsb' 32 32) } }

theorem latchTime_only (l : Nat) (s : State) : Only [.bus] s (latchTime l s) := by
  intro p hp
  cases p with
  | bus => exact absurd (List.mem_singleton.mpr rfl) hp
  | _ => rfl

theorem readReg_timeHigh_latched {s : State} (hr : inReset s = false) (d : Word) (k l i : Nat) :
    readReg (respond d false (latchTime k s)) l i 0x6044
      = if l = k then (s.tm.t.extractLsb' 32 32).toNat else readReg s l i 0x6044 := by
  have hr' : inReset (respond d false (latchTime k s)) = false := hr
  rw [readReg_timeHigh hr', readReg_timeHigh hr, ← apply_ite BitVec.toNat]
  exact congrArg BitVec.toNat (NMap.get_set 0 s.bus.tmSh _ k l)

/-- R426: an accepted read of LMY_TM_LO latches the high half of the counter and answers the low half. -/
theorem execTimeLowRead_accepts {a : BusAcc} {s : State} (h : accepts a false 0x6040 s) :
    execTimeLowRead a s = .next (respond (s.tm.t.extractLsb' 0 32) false (latchTime a.priv.toNat s)) := by
  unfold execTimeLowRead
  rw [busRead_accepts h]
  rfl

/-- Settles O16: both registers carry the code that every level may read; the state after an accepted read is the answer after
`latchTime`, which changes one entry of the time shadows. (R426) -/
theorem timeReadLatchesTheHighBits : Obligations.TimeReadLatchesTheHighBits := by
  unfold Obligations.TimeReadLatchesTheHighBits
  refine ⟨fun a s hi hd => ⟨accessOk_read_all hi hd (regInfo_timeLow s), accessOk_read_all hi hd (regInfo_timeHigh s)⟩,
    fun a s ha => ⟨_, execTimeLowRead_accepts ha, ?only, ⟨rfl, rfl⟩, fun i => ?own, fun l i hl => ?other, rfl, rfl, rfl⟩⟩
  case only => exact (latchTime_only _ s).trans ((respond_only _ _ _).mono (by decide))
  case own => rw [readReg_timeHigh_latched ha.1, if_pos rfl]
  case other => rw [readReg_timeHigh_latched ha.1, if_neg hl]

end Sys2Proof.Machine
end

section
/-!
PROOFS. Beacons (R422, R423): one that comes too soon after the last accepted one, and the first after power-on reset.
-/
namespace Sys2Proof.Machine

/-! A beacon that comes too soon -/

/-- R423: an excess beacon is counted in LMY_CNT_TM_XBEACON and sets XB; cause 51 is raised where XB was 0. -/
def excessBeacon (s : State) : State := bump 0x5A60 1 s |> when (!regB s 0x604C 2) (raise 51) |> orReg 0x604C 4

theorem excessBeacon_again {s : State} (h : regB s 0x604C 2 = true) : excessBeacon s = orReg 0x604C 4 (bump 0x5A60 1 s) := by
  unfold excessBeacon Machine.when
  rw [h]
  rfl

theorem excessBeacon_new {s : State} (h : regB s 0x604C 2 = false) :
    excessBeacon s = orReg 0x604C 4 (raise 51 (bump 0x5A60 1 s)) := by
  unfold excessBeacon Machine.when
  rw [h]
  rfl

theorem excessBeacon_only (s : State) : Only [.regs, .cnt, .tr, .dbg] s (excessBeacon s) := by
  have hcount : Only [.regs, .cnt, .tr, .dbg] s (bump 0x5A60 1 s) := (bump_only _ _ s).mono (by decide)
  have hcause : ∀ u, Only [.regs, .cnt, .tr, .dbg] u (raise 51 u) := fun u => (raise_only 51 u).mono (by decide)
  exact (hcount.trans (Only.when hcause _ _)).trans ((orReg_only _ _ _).mono (by decide))

theorem excessBeacon_within (s : State) : Within ([⟨0x604C, 0, 1⟩, ⟨0x5A60, 0, 1⟩] ++ eventRegs) s (excessBeacon s) := by
  have hcount : Within ([⟨0x604C, 0, 1⟩, ⟨0x5A60, 0, 1⟩] ++ eventRegs) s (bump 0x5A60 1 s) := (bump_within _ _ s).mono (by decide)
  have hcause : ∀ u, Within ([⟨0x604C, 0, 1⟩, ⟨0x5A60, 0, 1⟩] ++ eventRegs) u (raise 51 u) :=
    fun u => (raise_within 51 u).mono (by decide)
  exact (hcount.trans (Within.when hcause _ _)).trans ((orReg_within _ _ _).mono (by decide))

/-- R423: where XB is 1 already no cause is raised, so no event register changes. -/
theorem excessBeacon_again_within {s : State} (h : regB s 0x604C 2 = true) :
    Within [⟨0x604C, 0, 1⟩, ⟨0x5A60, 0, 1⟩] s (excessBeacon s) := by
  rw [excessBeacon_again h]
  exact ((bump_within _ _ s).mono (by decide)).trans ((orReg_within _ _ _).mono (by decide))

@[simp] theorem excessBeacon_tm (s : State) : (excessBeacon s).tm = s.tm := excessBeacon_only s .tm (by decide)

theorem excessBeacon_count (s : State) : NMap.get 0 (excessBeacon s).cnt 0x5A60 = NMap.get 0 s.cnt 0x5A60 + 1 := by
  have hcause : (excessBeacon s).cnt = (bump 0x5A60 1 s).cnt := by
    cases h : regB s 0x604C 2 with
    | true => rw [excessBeacon_again h, orReg_cnt]
    | false => rw [excessBeacon_new h, orReg_cnt, raise_cnt]
  rw [hcause, cnt_bump, if_pos rfl]
  rfl

/-- XB is bit 2 of LMY_TM_STATUS, and neither the count nor the cause changes that register. -/
theorem excessBeacon_status (s : State) : reg (excessBeacon s) 0x604C = reg s 0x604C ||| 4 := by
  cases h : regB s 0x604C 2 with
  | true =>
    rw [excessBeacon_again h, orReg, reg_setReg_self, (bump_within _ _ s).reg 0x604C]
    rfl
  | false =>
    rw [excessBeacon_new h, orReg, reg_setReg_self, raise_reg, (bump_within _ _ s).reg 0x604C]
    rfl

/-- Cause 51 is bit 19 of the second pending word. -/
theorem excessBeacon_pends {s : State} (h : regB s 0x604C 2 = false) : regB (excessBeacon s) 0x7004 19 = true := by
  rw [excessBeacon_new h]
  exact orReg_keep (raise_sets 51 _)

theorem execBeacon_excess {tb : BitVec 64} {s : State} (hp : s.ck.por = false) (hv : regB s 0x604C 0 = true)
    (hs : s.tm.since < 2 ^ (beaconL2 s - 1)) : execBeacon tb s = .next (excessBeacon s) := by
  unfold execBeacon
  rw [hp, hv, decide_eq_true hs]
  rfl

/-! The first beacon -/

theorem beaconKind_first (lost : Bool) (d : Int) : beaconKind true lost d = some (if lost then 5 else 1) := by
  cases lost <;> rfl

/-- The state after the first accepted beacon: the counter set, LOST cleared, TVALID set, LMY_TM_CORR written and the TIME record
made. -/
def firstBeacon (tb : BitVec 64) (s : State) : State :=
  let d := sat32 ((tb.toNat : Int) - (s.tm.t.toNat : Int))
  { s with tm := ⟨tb, 0, 0, false, 0⟩ } |> clrReg 0x604C 2 |> orReg 0x604C 1 |> setReg 0x6050 (BitVec.ofNat 32 d)
    |> genTime (if regB s 0x604C 1 then 5 else 1) d

/-- R423: the first beacon after power-on reset is accepted whenever it comes. -/
theorem execBeacon_first {tb : BitVec 64} {s : State} (hp : s.ck.por = false) (hv : regB s 0x604C 0 = false) :
    execBeacon tb s = .next (firstBeacon tb s) := by
  unfold execBeacon
  rw [hp, hv]
  dsimp only
  rw [Bool.not_false, beaconKind_first]
  rfl

theorem firstBeacon_tm (tb : BitVec 64) (s : State) : (firstBeacon tb s).tm = ⟨tb, 0, 0, false, 0⟩ := by
  unfold firstBeacon
  rw [genTime_tm, setReg_tm, orReg_tm, clrReg_tm]

/-- TVALID is bit 0 of LMY_TM_STATUS; the correction and the record leave that register. -/
theorem firstBeacon_tvalid (tb : BitVec 64) (s : State) : regB (firstBeacon tb s) 0x604C 0 = true := by
  unfold firstBeacon
  rw [regB_eq_of_reg ((genTime_within _ _ _).reg 0x604C), regB_eq_of_reg (reg_setReg_ne (by decide) _ _)]
  exact orReg_bit (i := 0) (by decide)

/-- Settles O53: the state after a beacon is `excessBeacon` or, while TVALID is 0, `firstBeacon`. (R423) -/
theorem excessBeaconsAreIgnored : Obligations.ExcessBeaconsAreIgnored := by
  unfold Obligations.ExcessBeaconsAreIgnored
  intro tb s hp
  refine ⟨fun hv hs => ?excess, fun hv => ?first⟩
  case excess =>
    exact ⟨_, execBeacon_excess hp hv hs, excessBeacon_only s, excessBeacon_within s, excessBeacon_tm s, excessBeacon_count s,
      excessBeacon_status s, excessBeacon_pends, excessBeacon_again_within⟩
  case first =>
    exact ⟨_, execBeacon_first hp hv, congrArg TimeSt.t (firstBeacon_tm tb s), firstBeacon_tvalid tb s⟩

end Sys2Proof.Machine
end

section
/-!
PROOFS. Every command: that it answers a next state, its two frames, and the canonical form, from the lemma of each meaning.
-/
namespace Sys2Proof.Machine

theorem exec_goesOn (c : Instr) (s : State) : ∃ t, exec c s = .next t := by
  cases c <;> exact ⟨_, rfl⟩

theorem step_goesOn (s : State) : goesOn s := by
  unfold goesOn step
  split
  · exact ⟨_, rfl⟩
  · exact exec_goesOn _ _

/-- The frame of each command by parts of the state is the one of its meaning. -/
theorem exec_only {c : Instr} {s t : State} (h : exec c s = .next t) : Only (touches c) s t := by
  cases c with
  | powerOnResetAssert => exact execPowerOnResetAssert_only _ _ h
  | powerOnResetRelease => exact execPowerOnResetRelease_only _ _ _ _ _ h
  | tileResetAssert => exact execTileResetAssert_only _ _ h
  | tileResetRelease => exact execTileResetRelease_only _ _ _ _ h
  | softwareTileReset => exact execSoftwareTileReset_only _ _ _ _ h
  | softwareResetEnd => exact execSoftwareResetEnd_only _ _ _ _ h
  | cfgRequest => exact execCfgRequest_only _ _ h
  | cfgWord => exact execCfgWord_only _ _ _ h
  | waybillCheck => exact execWaybillCheck_only _ _ h
  | loadTimeout => exact execLoadTimeout_only _ _ h
  | registerWrite => exact execRegisterWrite_only _ _ _ _ _ h
  | counterLowRead => exact execCounterLowRead_only _ _ _ _ h
  | timeLowRead => exact execTimeLowRead_only _ _ _ h
  | xcLoRead => exact execXcLoRead_only _ _ _ h
  | xcHiRead => exact execXcHiRead_only _ _ _ h
  | xcClear => exact execXcClear_only _ _ _ _ h
  | ownReadRequest => exact execOwnReadRequest_only _ _ _ _ _ h
  | ownWriteRequest => exact execOwnWriteRequest_only _ _ _ _ _ h
  | ownAtomicRequest => exact execOwnAtomicRequest_only _ _ _ _ _ h
  | writeFlitTaken => exact execWriteFlitTaken_only _ _ _ _ _ h
  | dcqCrossing => exact execDcqCrossing_only _ _ _ _ h
  | writeFlitToStaging => exact execWriteFlitToStaging_only _ _ _ _ h
  | readFlitTake => exact execReadFlitTake_only _ _ _ h
  | landingToDcq => exact execLandingToDcq_only _ _ _ h
  | laneIssue => exact execLaneIssue_only _ _ h
  | writeTransferRequest => exact execWriteTransferRequest_only _ _ _ h
  | decision => exact execDecision_only _ _ _ h
  | arrayRead => exact execArrayRead_only _ _ _ _ _ h
  | arrayWrite => exact execArrayWrite_only _ _ _ _ _ h
  | atomicExecute => exact execAtomicExecute_only _ _ _ _ _ _ h
  | writeBack => exact execWriteBack_only _ _ _ h
  | readFlitOutput => exact execReadFlitOutput_only _ _ _ _ _ h
  | holdLimitCutoff => exact execHoldLimitCutoff_only _ _ _ _ h
  | cutoffEnd => exact execCutoffEnd_only _ _ _ _ h
  | quarantine => exact execQuarantine_only _ _ _ h
  | quarantineTimeout => exact execQuarantineTimeout_only _ _ _ h
  | quarantineRelease => exact execQuarantineRelease_only _ _ _ _ h
  | shareRefill => exact execShareRefill_only _ _ h
  | slipCommit => exact execSlipCommit_only _ _ _ _ _ h
  | fetchOrder => exact execFetchOrder_only _ _ _ h
  | slipDecode => exact execSlipDecode_only _ _ _ h
  | nop => exact execNop_only _ _ _ h
  | read => exact execRead_only _ _ _ h
  | write => exact execWrite_only _ _ _ h
  | move => exact execMove_only _ _ _ h
  | held => exact execHeld_only _ _ _ h
  | atomic => exact execAtomic_only _ _ _ h
  | wait => exact execWait_only _ _ _ h
  | waitReached => exact execWaitReached_only _ _ _ h
  | signal => exact execSignal_only _ _ _ h
  | mark => exact execMark_only _ _ _ h
  | hint => exact execHint_only _ _ _ h
  | fence => exact execFence_only _ _ _ h
  | fenceMet => exact execFenceMet_only _ _ _ h
  | step => exact execStep_only _ _ _ h
  | slipEnd => exact execSlipEnd_only _ _ _ h
  | queueResume => exact execQueueResume_only _ _ _ _ h
  | queueSkip => exact execQueueSkip_only _ _ _ _ h
  | queueFlush => exact execQueueFlush_only _ _ _ _ h
  | queuePause => exact execQueuePause_only _ _ _ _ h
  | watchdogExpiry => exact execWatchdogExpiry_only _ _ _ h
  | tallyInc => exact execTallyInc_only _ _ _ _ h
  | tallyWrite => exact execTallyWrite_only _ _ _ _ _ _ h
  | blendSlotAlloc => exact execBlendSlotAlloc_only _ _ h
  | vectorLoadDone => exact execVectorLoadDone_only _ _ _ h
  | holdReservation => exact execHoldReservation_only _ _ h
  | tileAdmit => exact execTileAdmit_only _ _ _ h
  | tileRelease => exact execTileRelease_only _ _ _ h
  | statsReady => exact execStatsReady_only _ _ _ _ h
  | redeliveryStart => exact execRedeliveryStart_only _ _ _ h
  | holdRelease => exact execHoldRelease_only _ _ _ h
  | heldCancel => exact execHeldCancel_only _ _ _ _ h
  | heldCancelEnd => exact execHeldCancelEnd_only _ _ _ h
  | ptDataWrite => exact execPtDataWrite_only _ _ _ _ h
  | ptDataRead => exact execPtDataRead_only _ _ _ h
  | ptValidWrite => exact execPtValidWrite_only _ _ _ _ _ h
  | btDataWrite => exact execBtDataWrite_only _ _ _ _ h
  | btDataRead => exact execBtDataRead_only _ _ _ h
  | psvalidWrite => exact execPsvalidWrite_only _ _ _ _ _ h
  | tblvalidWrite => exact execTblvalidWrite_only _ _ _ _ h
  | bankPreqWrite => exact execBankPreqWrite_only _ _ _ _ _ h
  | bankPowerupStart => exact execBankPowerupStart_only _ _ _ h
  | bankPowerdownStart => exact execBankPowerdownStart_only _ _ _ h
  | bankTransitionDone => exact execBankTransitionDone_only _ _ _ h
  | domainReqWrite => exact execDomainReqWrite_only _ _ _ _ h
  | domainPowerdownStart => exact execDomainPowerdownStart_only _ _ _ h
  | domainPowerupStart => exact execDomainPowerupStart_only _ _ _ h
  | domainTransitionDone => exact execDomainTransitionDone_only _ _ _ h
  | subwindowBoundary => exact execSubwindowBoundary_only _ _ h
  | estimateMessage => exact execEstimateMessage_only _ _ h
  | calIntervalEnd => exact execCalIntervalEnd_only _ _ h
  | calibration => exact execCalibration_only _ _ _ h
  | levelCommand => exact execLevelCommand_only _ _ _ h
  | clockSwitch => exact execClockSwitch_only _ _ h
  | lockTimeout => exact execLockTimeout_only _ _ h
  | substepApply => exact execSubstepApply_only _ _ h
  | hintWindowEnd => exact execHintWindowEnd_only _ _ h
  | pcMessageTaken => exact execPcMessageTaken_only _ _ _ h
  | intakeFlit => exact execIntakeFlit_only _ _ _ h
  | combine => exact execCombine_only _ _ _ h
  | vcCreditReturn => exact execVcCreditReturn_only _ _ _ h
  | egressCreditReturn => exact execEgressCreditReturn_only _ _ _ _ h
  | bdataWrite => exact execBdataWrite_only _ _ _ _ h
  | bdataRead => exact execBdataRead_only _ _ _ h
  | arm => exact execArm_only _ _ _ _ h
  | abort => exact execAbort_only _ _ _ _ h
  | normPassEnd => exact execNormPassEnd_only _ _ _ h
  | ngctlWrite => exact execNgctlWrite_only _ _ _ _ _ h
  | updateFlit => exact execUpdateFlit_only _ _ _ h
  | resultSend => exact execResultSend_only _ _ _ h
  | propose => exact execPropose_only _ _ _ h
  | cancel => exact execCancel_only _ _ _ h
  | rekey => exact execRekey_only _ _ _ _ h
  | digestComplete => exact execDigestComplete_only _ _ _ _ _ h
  | commitWindowExpiry => exact execCommitWindowExpiry_only _ _ h
  | commitApply => exact execCommitApply_only _ _ h
  | sealArm => exact execSealArm_only _ _ _ _ _ h
  | sealActive => exact execSealActive_only _ _ _ h
  | unlock => exact execUnlock_only _ _ _ _ h
  | relock => exact execRelock_only _ _ _ _ h
  | purgeComplete => exact execPurgeComplete_only _ _ h
  | beacon => exact execBeacon_only _ _ _ h
  | beaconLoss => exact execBeaconLoss_only _ _ h
  | tclkStall => exact execTclkStall_only _ _ h
  | tclkResume => exact execTclkResume_only _ _ h
  | timeSync => exact execTimeSync_only _ _ h
  | collect => exact execCollect_only _ _ h
  | traceRowWrite => exact execTraceRowWrite_only _ _ h
  | traceRowTimeout => exact execTraceRowTimeout_only _ _ h
  | traceFreeze => exact execTraceFreeze_only _ _ h
  | traceTrig => exact execTraceTrig_only _ _ _ h
  | traceFlush => exact execTraceFlush_only _ _ _ h
  | traceRearm => exact execTraceRearm_only _ _ _ h
  | traceSync => exact execTraceSync_only _ _ _ h
  | traceRptrWrite => exact execTraceRptrWrite_only _ _ _ _ h
  | traceEnable => exact execTraceEnable_only _ _ _ _ h
  | traceDisable => exact execTraceDisable_only _ _ _ _ h
  | egressSlotTaken => exact execEgressSlotTaken_only _ _ h
  | stopAssert => exact execStopAssert_only _ _ h
  | halt => exact execHalt_only _ _ h
  | blockResume => exact execBlockResume_only _ _ h
  | stopStuck => exact execStopStuck_only _ _ h
  | localHalt => exact execLocalHalt_only _ _ _ h
  | localRun => exact execLocalRun_only _ _ _ h
  | scanCapture => exact execScanCapture_only _ _ _ h
  | scanCaptureDone => exact execScanCaptureDone_only _ _ h
  | scanDataRead => exact execScanDataRead_only _ _ _ h
  | bankReadout => exact execBankReadout_only _ _ _ _ h
  | bankReadoutDone => exact execBankReadoutDone_only _ _ _ h
  | hangCapture => exact execHangCapture_only _ _ _ h
  | hangRelease => exact execHangRelease_only _ _ _ h
  | hsDataRead => exact execHsDataRead_only _ _ _ h
  | watchArm => exact execWatchArm_only _ _ _ _ _ h
  | watchDisarm => exact execWatchDisarm_only _ _ _ _ _ h
  | watchReadout => exact execWatchReadout_only _ _ _ _ h
  | watchReadoutDone => exact execWatchReadoutDone_only _ _ h
  | fwdWindowEnd => exact execFwdWindowEnd_only _ _ h
  | storm => exact execStorm_only _ _ h
  | fwdStart => exact execFwdStart_only _ _ _ h
  | migrationCopyStart => exact execMigrationCopyStart_only _ _ h
  | copyRow => exact execCopyRow_only _ _ _ h
  | migrationSwitch => exact execMigrationSwitch_only _ _ h
  | planeForwardDone => exact execPlaneForwardDone_only _ _ h
  | clusterRetire => exact execClusterRetire_only _ _ h
  | statrowSubstitute => exact execStatrowSubstitute_only _ _ h
  | forward => exact execForward_only _ _ _ _ _ h
  | fwdCancel => exact execFwdCancel_only _ _ _ h
  | ack => exact execAck_only _ _ _ h
  | resumeauto => exact execResumeauto_only _ _ _ h
  | proposalDigestReady => exact execProposalDigestReady_only _ _ h
  | timeHoldEnd => exact execTimeHoldEnd_only _ _ h
  | stopDeassert => exact execStopDeassert_only _ _ h
  | clockLockFall => exact execClockLockFall_only _ _ h
  | stormWindowEnd => exact execStormWindowEnd_only _ _ h
  | clockSeen => exact execClockSeen_only _ _ _ h

/-- Each command keeps the canonical form, as its meaning does. -/
theorem exec_canonical {c : Instr} {s t : State} (hc : Canonical s) (h : exec c s = .next t) : Canonical t := by
  cases c with
  | powerOnResetAssert => exact execPowerOnResetAssert_canon _ _ h hc
  | powerOnResetRelease => exact execPowerOnResetRelease_canon _ _ _ _ _ h hc
  | tileResetAssert => exact execTileResetAssert_canon _ _ h hc
  | tileResetRelease => exact execTileResetRelease_canon _ _ _ _ h hc
  | softwareTileReset => exact execSoftwareTileReset_canon _ _ _ _ h hc
  | softwareResetEnd => exact execSoftwareResetEnd_canon _ _ _ _ h hc
  | cfgRequest => exact execCfgRequest_canon _ _ h hc
  | cfgWord => exact execCfgWord_canon _ _ _ h hc
  | waybillCheck => exact execWaybillCheck_canon _ _ h hc
  | loadTimeout => exact execLoadTimeout_canon _ _ h hc
  | registerWrite => exact execRegisterWrite_canon _ _ _ _ _ h hc
  | counterLowRead => exact execCounterLowRead_canon _ _ _ _ h hc
  | timeLowRead => exact execTimeLowRead_canon _ _ _ h hc
  | xcLoRead => exact execXcLoRead_canon _ _ _ h hc
  | xcHiRead => exact execXcHiRead_canon _ _ _ h hc
  | xcClear => exact execXcClear_canon _ _ _ _ h hc
  | ownReadRequest => exact execOwnReadRequest_canon _ _ _ _ _ h hc
  | ownWriteRequest => exact execOwnWriteRequest_canon _ _ _ _ _ h hc
  | ownAtomicRequest => exact execOwnAtomicRequest_canon _ _ _ _ _ h hc
  | writeFlitTaken => exact execWriteFlitTaken_canon _ _ _ _ _ h hc
  | dcqCrossing => exact execDcqCrossing_canon _ _ _ _ h hc
  | writeFlitToStaging => exact execWriteFlitToStaging_canon _ _ _ _ h hc
  | readFlitTake => exact execReadFlitTake_canon _ _ _ h hc
  | landingToDcq => exact execLandingToDcq_canon _ _ _ h hc
  | laneIssue => exact execLaneIssue_canon _ _ h hc
  | writeTransferRequest => exact execWriteTransferRequest_canon _ _ _ h hc
  | decision => exact execDecision_canon _ _ _ h hc
  | arrayRead => exact execArrayRead_canon _ _ _ _ _ h hc
  | arrayWrite => exact execArrayWrite_canon _ _ _ _ _ h hc
  | atomicExecute => exact execAtomicExecute_canon _ _ _ _ _ _ h hc
  | writeBack => exact execWriteBack_canon _ _ _ h hc
  | readFlitOutput => exact execReadFlitOutput_canon _ _ _ _ _ h hc
  | holdLimitCutoff => exact execHoldLimitCutoff_canon _ _ _ _ h hc
  | cutoffEnd => exact execCutoffEnd_canon _ _ _ _ h hc
  | quarantine => exact execQuarantine_canon _ _ _ h hc
  | quarantineTimeout => exact execQuarantineTimeout_canon _ _ _ h hc
  | quarantineRelease => exact execQuarantineRelease_canon _ _ _ _ h hc
  | shareRefill => exact execShareRefill_canon _ _ h hc
  | slipCommit => exact execSlipCommit_canon _ _ _ _ _ h hc
  | fetchOrder => exact execFetchOrder_canon _ _ _ h hc
  | slipDecode => exact execSlipDecode_canon _ _ _ h hc
  | nop => exact execNop_canon _ _ _ h hc
  | read => exact execRead_canon _ _ _ h hc
  | write => exact execWrite_canon _ _ _ h hc
  | move => exact execMove_canon _ _ _ h hc
  | held => exact execHeld_canon _ _ _ h hc
  | atomic => exact execAtomic_canon _ _ _ h hc
  | wait => exact execWait_canon _ _ _ h hc
  | waitReached => exact execWaitReached_canon _ _ _ h hc
  | signal => exact execSignal_canon _ _ _ h hc
  | mark => exact execMark_canon _ _ _ h hc
  | hint => exact execHint_canon _ _ _ h hc
  | fence => exact execFence_canon _ _ _ h hc
  | fenceMet => exact execFenceMet_canon _ _ _ h hc
  | step => exact execStep_canon _ _ _ h hc
  | slipEnd => exact execSlipEnd_canon _ _ _ h hc
  | queueResume => exact execQueueResume_canon _ _ _ _ h hc
  | queueSkip => exact execQueueSkip_canon _ _ _ _ h hc
  | queueFlush => exact execQueueFlush_canon _ _ _ _ h hc
  | queuePause => exact execQueuePause_canon _ _ _ _ h hc
  | watchdogExpiry => exact execWatchdogExpiry_canon _ _ _ h hc
  | tallyInc => exact execTallyInc_canon _ _ _ _ h hc
  | tallyWrite => exact execTallyWrite_canon _ _ _ _ _ _ h hc
  | blendSlotAlloc => exact execBlendSlotAlloc_canon _ _ h hc
  | vectorLoadDone => exact execVectorLoadDone_canon _ _ _ h hc
  | holdReservation => exact execHoldReservation_canon _ _ h hc
  | tileAdmit => exact execTileAdmit_canon _ _ _ h hc
  | tileRelease => exact execTileRelease_canon _ _ _ h hc
  | statsReady => exact execStatsReady_canon _ _ _ _ h hc
  | redeliveryStart => exact execRedeliveryStart_canon _ _ _ h hc
  | holdRelease => exact execHoldRelease_canon _ _ _ h hc
  | heldCancel => exact execHeldCancel_canon _ _ _ _ h hc
  | heldCancelEnd => exact execHeldCancelEnd_canon _ _ _ h hc
  | ptDataWrite => exact execPtDataWrite_canon _ _ _ _ h hc
  | ptDataRead => exact execPtDataRead_canon _ _ _ h hc
  | ptValidWrite => exact execPtValidWrite_canon _ _ _ _ _ h hc
  | btDataWrite => exact execBtDataWrite_canon _ _ _ _ h hc
  | btDataRead => exact execBtDataRead_canon _ _ _ h hc
  | psvalidWrite => exact execPsvalidWrite_canon _ _ _ _ _ h hc
  | tblvalidWrite => exact execTblvalidWrite_canon _ _ _ _ h hc
  | bankPreqWrite => exact execBankPreqWrite_canon _ _ _ _ _ h hc
  | bankPowerupStart => exact execBankPowerupStart_canon _ _ _ h hc
  | bankPowerdownStart => exact execBankPowerdownStart_canon _ _ _ h hc
  | bankTransitionDone => exact execBankTransitionDone_canon _ _ _ h hc
  | domainReqWrite => exact execDomainReqWrite_canon _ _ _ _ h hc
  | domainPowerdownStart => exact execDomainPowerdownStart_canon _ _ _ h hc
  | domainPowerupStart => exact execDomainPowerupStart_canon _ _ _ h hc
  | domainTransitionDone => exact execDomainTransitionDone_canon _ _ _ h hc
  | subwindowBoundary => exact execSubwindowBoundary_canon _ _ h hc
  | estimateMessage => exact execEstimateMessage_canon _ _ h hc
  | calIntervalEnd => exact execCalIntervalEnd_canon _ _ h hc
  | calibration => exact execCalibration_canon _ _ _ h hc
  | levelCommand => exact execLevelCommand_canon _ _ _ h hc
  | clockSwitch => exact execClockSwitch_canon _ _ h hc
  | lockTimeout => exact execLockTimeout_canon _ _ h hc
  | substepApply => exact execSubstepApply_canon _ _ h hc
  | hintWindowEnd => exact execHintWindowEnd_canon _ _ h hc
  | pcMessageTaken => exact execPcMessageTaken_canon _ _ _ h hc
  | intakeFlit => exact execIntakeFlit_canon _ _ _ h hc
  | combine => exact execCombine_canon _ _ _ h hc
  | vcCreditReturn => exact execVcCreditReturn_canon _ _ _ h hc
  | egressCreditReturn => exact execEgressCreditReturn_canon _ _ _ _ h hc
  | bdataWrite => exact execBdataWrite_canon _ _ _ _ h hc
  | bdataRead => exact execBdataRead_canon _ _ _ h hc
  | arm => exact execArm_canon _ _ _ _ h hc
  | abort => exact execAbort_canon _ _ _ _ h hc
  | normPassEnd => exact execNormPassEnd_canon _ _ _ h hc
  | ngctlWrite => exact execNgctlWrite_canon _ _ _ _ _ h hc
  | updateFlit => exact execUpdateFlit_canon _ _ _ h hc
  | resultSend => exact execResultSend_canon _ _ _ h hc
  | propose => exact execPropose_canon _ _ _ h hc
  | cancel => exact execCancel_canon _ _ _ h hc
  | rekey => exact execRekey_canon _ _ _ _ h hc
  | digestComplete => exact execDigestComplete_canon _ _ _ _ _ h hc
  | commitWindowExpiry => exact execCommitWindowExpiry_canon _ _ h hc
  | commitApply => exact execCommitApply_canon _ _ h hc
  | sealArm => exact execSealArm_canon _ _ _ _ _ h hc
  | sealActive => exact execSealActive_canon _ _ _ h hc
  | unlock => exact execUnlock_canon _ _ _ _ h hc
  | relock => exact execRelock_canon _ _ _ _ h hc
  | purgeComplete => exact execPurgeComplete_canon _ _ h hc
  | beacon => exact execBeacon_canon _ _ _ h hc
  | beaconLoss => exact execBeaconLoss_canon _ _ h hc
  | tclkStall => exact execTclkStall_canon _ _ h hc
  | tclkResume => exact execTclkResume_canon _ _ h hc
  | timeSync => exact execTimeSync_canon _ _ h hc
  | collect => exact execCollect_canon _ _ h hc
  | traceRowWrite => exact execTraceRowWrite_canon _ _ h hc
  | traceRowTimeout => exact execTraceRowTimeout_canon _ _ h hc
  | traceFreeze => exact execTraceFreeze_canon _ _ h hc
  | traceTrig => exact execTraceTrig_canon _ _ _ h hc
  | traceFlush => exact execTraceFlush_canon _ _ _ h hc
  | traceRearm => exact execTraceRearm_canon _ _ _ h hc
  | traceSync => exact execTraceSync_canon _ _ _ h hc
  | traceRptrWrite => exact execTraceRptrWrite_canon _ _ _ _ h hc
  | traceEnable => exact execTraceEnable_canon _ _ _ _ h hc
  | traceDisable => exact execTraceDisable_canon _ _ _ _ h hc
  | egressSlotTaken => exact execEgressSlotTaken_canon _ _ h hc
  | stopAssert => exact execStopAssert_canon _ _ h hc
  | halt => exact execHalt_canon _ _ h hc
  | blockResume => exact execBlockResume_canon _ _ h hc
  | stopStuck => exact execStopStuck_canon _ _ h hc
  | localHalt => exact execLocalHalt_canon _ _ _ h hc
  | localRun => exact execLocalRun_canon _ _ _ h hc
  | scanCapture => exact execScanCapture_canon _ _ _ h hc
  | scanCaptureDone => exact execScanCaptureDone_canon _ _ h hc
  | scanDataRead => exact execScanDataRead_canon _ _ _ h hc
  | bankReadout => exact execBankReadout_canon _ _ _ _ h hc
  | bankReadoutDone => exact execBankReadoutDone_canon _ _ _ h hc
  | hangCapture => exact execHangCapture_canon _ _ _ h hc
  | hangRelease => exact execHangRelease_canon _ _ _ h hc
  | hsDataRead => exact execHsDataRead_canon _ _ _ h hc
  | watchArm => exact execWatchArm_canon _ _ _ _ _ h hc
  | watchDisarm => exact execWatchDisarm_canon _ _ _ _ _ h hc
  | watchReadout => exact execWatchReadout_canon _ _ _ _ h hc
  | watchReadoutDone => exact execWatchReadoutDone_canon _ _ h hc
  | fwdWindowEnd => exact execFwdWindowEnd_canon _ _ h hc
  | storm => exact execStorm_canon _ _ h hc
  | fwdStart => exact execFwdStart_canon _ _ _ h hc
  | migrationCopyStart => exact execMigrationCopyStart_canon _ _ h hc
  | copyRow => exact execCopyRow_canon _ _ _ h hc
  | migrationSwitch => exact execMigrationSwitch_canon _ _ h hc
  | planeForwardDone => exact execPlaneForwardDone_canon _ _ h hc
  | clusterRetire => exact execClusterRetire_canon _ _ h hc
  | statrowSubstitute => exact execStatrowSubstitute_canon _ _ h hc
  | forward => exact execForward_canon _ _ _ _ _ h hc
  | fwdCancel => exact execFwdCancel_canon _ _ _ h hc
  | ack => exact execAck_canon _ _ _ h hc
  | resumeauto => exact execResumeauto_canon _ _ _ h hc
  | proposalDigestReady => exact execProposalDigestReady_canon _ _ h hc
  | timeHoldEnd => exact execTimeHoldEnd_canon _ _ h hc
  | stopDeassert => exact execStopDeassert_canon _ _ h hc
  | clockLockFall => exact execClockLockFall_canon _ _ h hc
  | stormWindowEnd => exact execStormWindowEnd_canon _ _ h hc
  | clockSeen => exact execClockSeen_canon _ _ _ h hc

/-- The spans of a meaning's frame lie in those of the command's row of `writes`. -/
theorem spansIn_writes {xs ys zs : List Span} (hw : some ys = some zs) (h : spansIn xs ys = true) : spansIn xs zs = true :=
  Option.some.inj hw ▸ h

/-- The frame of each command by register and counter is the one of its meaning. -/
theorem exec_within {c : Instr} {s t : State} {xs : List Span} (h : exec c s = .next t) (hw : writes c = some xs) : Within xs s t := by
  cases c with
  | powerOnResetAssert => exact nomatch hw
  | powerOnResetRelease => exact (execPowerOnResetRelease_within _ _ _ _ _ h).mono (spansIn_writes hw rfl)
  | tileResetAssert => exact nomatch hw
  | tileResetRelease => exact (execTileResetRelease_within _ _ _ _ h).mono (spansIn_writes hw rfl)
  | softwareTileReset => exact nomatch hw
  | softwareResetEnd => exact (execSoftwareResetEnd_within _ _ _ _ h).mono (spansIn_writes hw rfl)
  | cfgRequest => exact (execCfgRequest_within _ _ h).mono (spansIn_writes hw rfl)
  | cfgWord => exact (execCfgWord_within _ _ _ h).mono (spansIn_writes hw rfl)
  | waybillCheck => exact nomatch hw
  | loadTimeout => exact (execLoadTimeout_within _ _ h).mono (spansIn_writes hw rfl)
  | registerWrite => exact nomatch hw
  | counterLowRead => exact (execCounterLowRead_within _ _ _ _ h).mono (spansIn_writes hw rfl)
  | timeLowRead => exact (execTimeLowRead_within _ _ _ h).mono (spansIn_writes hw rfl)
  | xcLoRead => exact (execXcLoRead_within _ _ _ h).mono (spansIn_writes hw rfl)
  | xcHiRead => exact (execXcHiRead_within _ _ _ h).mono (spansIn_writes hw rfl)
  | xcClear => exact (execXcClear_within _ _ _ _ h).mono (spansIn_writes hw rfl)
  | ownReadRequest => exact (execOwnReadRequest_within _ _ _ _ _ h).mono (spansIn_writes hw rfl)
  | ownWriteRequest => exact (execOwnWriteRequest_within _ _ _ _ _ h).mono (spansIn_writes hw rfl)
  | ownAtomicRequest => exact (execOwnAtomicRequest_within _ _ _ _ _ h).mono (spansIn_writes hw rfl)
  | writeFlitTaken => exact (execWriteFlitTaken_within _ _ _ _ _ h).mono (spansIn_writes hw rfl)
  | dcqCrossing => exact (execDcqCrossing_within _ _ _ _ h).mono (spansIn_writes hw rfl)
  | writeFlitToStaging => exact (execWriteFlitToStaging_within _ _ _ _ h).mono (spansIn_writes hw rfl)
  | readFlitTake => exact (execReadFlitTake_within _ _ _ h).mono (spansIn_writes hw rfl)
  | landingToDcq => exact (execLandingToDcq_within _ _ _ h).mono (spansIn_writes hw rfl)
  | laneIssue => exact (execLaneIssue_within _ _ h).mono (spansIn_writes hw rfl)
  | writeTransferRequest => exact (execWriteTransferRequest_within _ _ _ h).mono (spansIn_writes hw rfl)
  | decision => exact (execDecision_within _ _ _ h).mono (spansIn_writes hw rfl)
  | arrayRead => exact (execArrayRead_within _ _ _ _ _ h).mono (spansIn_writes hw rfl)
  | arrayWrite => exact (execArrayWrite_within _ _ _ _ _ h).mono (spansIn_writes hw rfl)
  | atomicExecute => exact (execAtomicExecute_within _ _ _ _ _ _ h).mono (spansIn_writes hw rfl)
  | writeBack => exact (execWriteBack_within _ _ _ h).mono (spansIn_writes hw rfl)
  | readFlitOutput => exact (execReadFlitOutput_within _ _ _ _ _ h).mono (spansIn_writes hw rfl)
  | holdLimitCutoff => exact (execHoldLimitCutoff_within _ _ _ _ h).mono (spansIn_writes hw rfl)
  | cutoffEnd => exact (execCutoffEnd_within _ _ _ _ h).mono (spansIn_writes hw rfl)
  | quarantine => exact (execQuarantine_within _ _ _ h).mono (spansIn_writes hw rfl)
  | quarantineTimeout => exact (execQuarantineTimeout_within _ _ _ h).mono (spansIn_writes hw rfl)
  | quarantineRelease => exact (execQuarantineRelease_within _ _ _ _ h).mono (spansIn_writes hw rfl)
  | shareRefill => exact (execShareRefill_within _ _ h).mono (spansIn_writes hw rfl)
  | slipCommit => exact (execSlipCommit_within _ _ _ _ _ h).mono (spansIn_writes hw rfl)
  | fetchOrder => exact (execFetchOrder_within _ _ _ h).mono (spansIn_writes hw rfl)
  | slipDecode => exact (execSlipDecode_within _ _ _ h).mono (spansIn_writes hw rfl)
  | nop => exact (execNop_within _ _ _ h).mono (spansIn_writes hw rfl)
  | read => exact (execRead_within _ _ _ h).mono (spansIn_writes hw rfl)
  | write => exact (execWrite_within _ _ _ h).mono (spansIn_writes hw rfl)
  | move => exact (execMove_within _ _ _ h).mono (spansIn_writes hw rfl)
  | held => exact (execHeld_within _ _ _ h).mono (spansIn_writes hw rfl)
  | atomic => exact (execAtomic_within _ _ _ h).mono (spansIn_writes hw rfl)
  | wait => exact (execWait_within _ _ _ h).mono (spansIn_writes hw rfl)
  | waitReached => exact (execWaitReached_within _ _ _ h).mono (spansIn_writes hw rfl)
  | signal => exact (execSignal_within _ _ _ h).mono (spansIn_writes hw rfl)
  | mark => exact (execMark_within _ _ _ h).mono (spansIn_writes hw rfl)
  | hint => exact (execHint_within _ _ _ h).mono (spansIn_writes hw rfl)
  | fence => exact (execFence_within _ _ _ h).mono (spansIn_writes hw rfl)
  | fenceMet => exact (execFenceMet_within _ _ _ h).mono (spansIn_writes hw rfl)
  | step => exact (execStep_within _ _ _ h).mono (spansIn_writes hw rfl)
  | slipEnd => exact (execSlipEnd_within _ _ _ h).mono (spansIn_writes hw rfl)
  | queueResume => exact (execQueueResume_within _ _ _ _ h).mono (spansIn_writes hw rfl)
  | queueSkip => exact (execQueueSkip_within _ _ _ _ h).mono (spansIn_writes hw rfl)
  | queueFlush => exact (execQueueFlush_within _ _ _ _ h).mono (spansIn_writes hw rfl)
  | queuePause => exact (execQueuePause_within _ _ _ _ h).mono (spansIn_writes hw rfl)
  | watchdogExpiry => exact (execWatchdogExpiry_within _ _ _ h).mono (spansIn_writes hw rfl)
  | tallyInc => exact (execTallyInc_within _ _ _ _ h).mono (spansIn_writes hw rfl)
  | tallyWrite => exact (execTallyWrite_within _ _ _ _ _ _ h).mono (spansIn_writes hw rfl)
  | blendSlotAlloc => exact (execBlendSlotAlloc_within _ _ h).mono (spansIn_writes hw rfl)
  | vectorLoadDone => exact (execVectorLoadDone_within _ _ _ h).mono (spansIn_writes hw rfl)
  | holdReservation => exact (execHoldReservation_within _ _ h).mono (spansIn_writes hw rfl)
  | tileAdmit => exact (execTileAdmit_within _ _ _ h).mono (spansIn_writes hw rfl)
  | tileRelease => exact (execTileRelease_within _ _ _ h).mono (spansIn_writes hw rfl)
  | statsReady => exact (execStatsReady_within _ _ _ _ h).mono (spansIn_writes hw rfl)
  | redeliveryStart => exact (execRedeliveryStart_within _ _ _ h).mono (spansIn_writes hw rfl)
  | holdRelease => exact (execHoldRelease_within _ _ _ h).mono (spansIn_writes hw rfl)
  | heldCancel => exact (execHeldCancel_within _ _ _ _ h).mono (spansIn_writes hw rfl)
  | heldCancelEnd => exact (execHeldCancelEnd_within _ _ _ h).mono (spansIn_writes hw rfl)
  | ptDataWrite => exact (execPtDataWrite_within _ _ _ _ h).mono (spansIn_writes hw rfl)
  | ptDataRead => exact (execPtDataRead_within _ _ _ h).mono (spansIn_writes hw rfl)
  | ptValidWrite => exact (execPtValidWrite_within _ _ _ _ _ h).mono (spansIn_writes hw rfl)
  | btDataWrite => exact (execBtDataWrite_within _ _ _ _ h).mono (spansIn_writes hw rfl)
  | btDataRead => exact (execBtDataRead_within _ _ _ h).mono (spansIn_writes hw rfl)
  | psvalidWrite => exact (execPsvalidWrite_within _ _ _ _ _ h).mono (spansIn_writes hw rfl)
  | tblvalidWrite => exact (execTblvalidWrite_within _ _ _ _ h).mono (spansIn_writes hw rfl)
  | bankPreqWrite => exact (execBankPreqWrite_within _ _ _ _ _ h).mono (spansIn_writes hw rfl)
  | bankPowerupStart => exact (execBankPowerupStart_within _ _ _ h).mono (spansIn_writes hw rfl)
  | bankPowerdownStart => exact (execBankPowerdownStart_within _ _ _ h).mono (spansIn_writes hw rfl)
  | bankTransitionDone => exact (execBankTransitionDone_within _ _ _ h).mono (spansIn_writes hw rfl)
  | domainReqWrite => exact (execDomainReqWrite_within _ _ _ _ h).mono (spansIn_writes hw rfl)
  | domainPowerdownStart => exact (execDomainPowerdownStart_within _ _ _ h).mono (spansIn_writes hw rfl)
  | domainPowerupStart => exact (execDomainPowerupStart_within _ _ _ h).mono (spansIn_writes hw rfl)
  | domainTransitionDone => exact (execDomainTransitionDone_within _ _ _ h).mono (spansIn_writes hw rfl)
  | subwindowBoundary => exact (execSubwindowBoundary_within _ _ h).mono (spansIn_writes hw rfl)
  | estimateMessage => exact (execEstimateMessage_within _ _ h).mono (spansIn_writes hw rfl)
  | calIntervalEnd => exact (execCalIntervalEnd_within _ _ h).mono (spansIn_writes hw rfl)
  | calibration => exact (execCalibration_within _ _ _ h).mono (spansIn_writes hw rfl)
  | levelCommand => exact (execLevelCommand_within _ _ _ h).mono (spansIn_writes hw rfl)
  | clockSwitch => exact (execClockSwitch_within _ _ h).mono (spansIn_writes hw rfl)
  | lockTimeout => exact (execLockTimeout_within _ _ h).mono (spansIn_writes hw rfl)
  | substepApply => exact (execSubstepApply_within _ _ h).mono (spansIn_writes hw rfl)
  | hintWindowEnd => exact (execHintWindowEnd_within _ _ h).mono (spansIn_writes hw rfl)
  | pcMessageTaken => exact (execPcMessageTaken_within _ _ _ h).mono (spansIn_writes hw rfl)
  | intakeFlit => exact (execIntakeFlit_within _ _ _ h).mono (spansIn_writes hw rfl)
  | combine => exact (execCombine_within _ _ _ h).mono (spansIn_writes hw rfl)
  | vcCreditReturn => exact (execVcCreditReturn_within _ _ _ h).mono (spansIn_writes hw rfl)
  | egressCreditReturn => exact (execEgressCreditReturn_within _ _ _ _ h).mono (spansIn_writes hw rfl)
  | bdataWrite => exact (execBdataWrite_within _ _ _ _ h).mono (spansIn_writes hw rfl)
  | bdataRead => exact (execBdataRead_within _ _ _ h).mono (spansIn_writes hw rfl)
  | arm => exact (execArm_within _ _ _ _ h).mono (spansIn_writes hw rfl)
  | abort => exact (execAbort_within _ _ _ _ h).mono (spansIn_writes hw rfl)
  | normPassEnd => exact (execNormPassEnd_within _ _ _ h).mono (spansIn_writes hw rfl)
  | ngctlWrite => exact (execNgctlWrite_within _ _ _ _ _ h).mono (spansIn_writes hw rfl)
  | updateFlit => exact (execUpdateFlit_within _ _ _ h).mono (spansIn_writes hw rfl)
  | resultSend => exact (execResultSend_within _ _ _ h).mono (spansIn_writes hw rfl)
  | propose => exact (execPropose_within _ _ _ h).mono (spansIn_writes hw rfl)
  | cancel => exact (execCancel_within _ _ _ h).mono (spansIn_writes hw rfl)
  | rekey => exact (execRekey_within _ _ _ _ h).mono (spansIn_writes hw rfl)
  | digestComplete => exact (execDigestComplete_within _ _ _ _ _ h).mono (spansIn_writes hw rfl)
  | commitWindowExpiry => exact (execCommitWindowExpiry_within _ _ h).mono (spansIn_writes hw rfl)
  | commitApply => exact (execCommitApply_within _ _ h).mono (spansIn_writes hw rfl)
  | sealArm => exact (execSealArm_within _ _ _ _ _ h).mono (spansIn_writes hw rfl)
  | sealActive => exact (execSealActive_within _ _ _ h).mono (spansIn_writes hw rfl)
  | unlock => exact (execUnlock_within _ _ _ _ h).mono (spansIn_writes hw rfl)
  | relock => exact (execRelock_within _ _ _ _ h).mono (spansIn_writes hw rfl)
  | purgeComplete => exact (execPurgeComplete_within _ _ h).mono (spansIn_writes hw rfl)
  | beacon => exact (execBeacon_within _ _ _ h).mono (spansIn_writes hw rfl)
  | beaconLoss => exact (execBeaconLoss_within _ _ h).mono (spansIn_writes hw rfl)
  | tclkStall => exact (execTclkStall_within _ _ h).mono (spansIn_writes hw rfl)
  | tclkResume => exact (execTclkResume_within _ _ h).mono (spansIn_writes hw rfl)
  | timeSync => exact (execTimeSync_within _ _ h).mono (spansIn_writes hw rfl)
  | collect => exact (execCollect_within _ _ h).mono (spansIn_writes hw rfl)
  | traceRowWrite => exact (execTraceRowWrite_within _ _ h).mono (spansIn_writes hw rfl)
  | traceRowTimeout => exact (execTraceRowTimeout_within _ _ h).mono (spansIn_writes hw rfl)
  | traceFreeze => exact (execTraceFreeze_within _ _ h).mono (spansIn_writes hw rfl)
  | traceTrig => exact (execTraceTrig_within _ _ _ h).mono (spansIn_writes hw rfl)
  | traceFlush => exact (execTraceFlush_within _ _ _ h).mono (spansIn_writes hw rfl)
  | traceRearm => exact (execTraceRearm_within _ _ _ h).mono (spansIn_writes hw rfl)
  | traceSync => exact (execTraceSync_within _ _ _ h).mono (spansIn_writes hw rfl)
  | traceRptrWrite => exact (execTraceRptrWrite_within _ _ _ _ h).mono (spansIn_writes hw rfl)
  | traceEnable => exact (execTraceEnable_within _ _ _ _ h).mono (spansIn_writes hw rfl)
  | traceDisable => exact (execTraceDisable_within _ _ _ _ h).mono (spansIn_writes hw rfl)
  | egressSlotTaken => exact (execEgressSlotTaken_within _ _ h).mono (spansIn_writes hw rfl)
  | stopAssert => exact (execStopAssert_within _ _ h).mono (spansIn_writes hw rfl)
  | halt => exact (execHalt_within _ _ h).mono (spansIn_writes hw rfl)
  | blockResume => exact (execBlockResume_within _ _ h).mono (spansIn_writes hw rfl)
  | stopStuck => exact (execStopStuck_within _ _ h).mono (spansIn_writes hw rfl)
  | localHalt => exact (execLocalHalt_within _ _ _ h).mono (spansIn_writes hw rfl)
  | localRun => exact (execLocalRun_within _ _ _ h).mono (spansIn_writes hw rfl)
  | scanCapture => exact (execScanCapture_within _ _ _ h).mono (spansIn_writes hw rfl)
  | scanCaptureDone => exact (execScanCaptureDone_within _ _ h).mono (spansIn_writes hw rfl)
  | scanDataRead => exact (execScanDataRead_within _ _ _ h).mono (spansIn_writes hw rfl)
  | bankReadout => exact (execBankReadout_within _ _ _ _ h).mono (spansIn_writes hw rfl)
  | bankReadoutDone => exact (execBankReadoutDone_within _ _ _ h).mono (spansIn_writes hw rfl)
  | hangCapture => exact (execHangCapture_within _ _ _ h).mono (spansIn_writes hw rfl)
  | hangRelease => exact (execHangRelease_within _ _ _ h).mono (spansIn_writes hw rfl)
  | hsDataRead => exact (execHsDataRead_within _ _ _ h).mono (spansIn_writes hw rfl)
  | watchArm => exact (execWatchArm_within _ _ _ _ _ h).mono (spansIn_writes hw rfl)
  | watchDisarm => exact (execWatchDisarm_within _ _ _ _ _ h).mono (spansIn_writes hw rfl)
  | watchReadout => exact (execWatchReadout_within _ _ _ _ h).mono (spansIn_writes hw rfl)
  | watchReadoutDone => exact (execWatchReadoutDone_within _ _ h).mono (spansIn_writes hw rfl)
  | fwdWindowEnd => exact (execFwdWindowEnd_within _ _ h).mono (spansIn_writes hw rfl)
  | storm => exact (execStorm_within _ _ h).mono (spansIn_writes hw rfl)
  | fwdStart => exact (execFwdStart_within _ _ _ h).mono (spansIn_writes hw rfl)
  | migrationCopyStart => exact (execMigrationCopyStart_within _ _ h).mono (spansIn_writes hw rfl)
  | copyRow => exact (execCopyRow_within _ _ _ h).mono (spansIn_writes hw rfl)
  | migrationSwitch => exact (execMigrationSwitch_within _ _ h).mono (spansIn_writes hw rfl)
  | planeForwardDone => exact (execPlaneForwardDone_within _ _ h).mono (spansIn_writes hw rfl)
  | clusterRetire => exact (execClusterRetire_within _ _ h).mono (spansIn_writes hw rfl)
  | statrowSubstitute => exact (execStatrowSubstitute_within _ _ h).mono (spansIn_writes hw rfl)
  | forward => exact (execForward_within _ _ _ _ _ h).mono (spansIn_writes hw rfl)
  | fwdCancel => exact (execFwdCancel_within _ _ _ h).mono (spansIn_writes hw rfl)
  | ack => exact (execAck_within _ _ _ h).mono (spansIn_writes hw rfl)
  | resumeauto => exact (execResumeauto_within _ _ _ h).mono (spansIn_writes hw rfl)
  | proposalDigestReady => exact (execProposalDigestReady_within _ _ h).mono (spansIn_writes hw rfl)
  | timeHoldEnd => exact (execTimeHoldEnd_within _ _ h).mono (spansIn_writes hw rfl)
  | stopDeassert => exact (execStopDeassert_within _ _ h).mono (spansIn_writes hw rfl)
  | clockLockFall => exact (execClockLockFall_within _ _ h).mono (spansIn_writes hw rfl)
  | stormWindowEnd => exact (execStormWindowEnd_within _ _ h).mono (spansIn_writes hw rfl)
  | clockSeen => exact (execClockSeen_within _ _ _ h).mono (spansIn_writes hw rfl)

/-- A step without a command only lets one TCLK cycle pass. -/
theorem step_idle {s : State} (h : s.pending = []) : step s = .next (tclk 1 s) := by
  unfold step
  rw [h]

/-- A step takes the first command, or lets one TCLK cycle pass where none waits. -/
theorem step_cases {s t : State} (h : step s = .next t) :
    (s.pending = [] ∧ t = tclk 1 s) ∨ ∃ c rest, s.pending = c :: rest ∧ exec c { s with pending := rest } = .next t := by
  cases hp : s.pending with
  | nil =>
    rw [step_idle hp] at h
    exact .inl ⟨rfl, (Host.Outcome.next.inj h).symm⟩
  | cons c rest =>
    refine .inr ⟨c, rest, rfl, ?_⟩
    unfold step at h
    rw [hp] at h
    exact h

/-- No command lists the queue among the parts that it may change. -/
theorem pending_not_touched (c : Instr) : Part.pending ∉ touches c := by
  cases c <;> exact of_decide_eq_true rfl

theorem exec_pending {c : Instr} {s t : State} (h : exec c s = .next t) : t.pending = s.pending :=
  exec_only h .pending (pending_not_touched c)

/-! The statements about every command -/

/-- Settles O1: `step` on a queue with a first command is `exec` of it by definition. -/
theorem stepRunsFront : Obligations.StepRunsFront := by
  unfold Obligations.StepRunsFront
  intro c rest s
  rfl

/-- Settles O3: each meaning answers `.next`, and a step is one of them or a TCLK cycle. -/
theorem everyCommandGoesOn : Obligations.EveryCommandGoesOn :=
  ⟨exec_goesOn, step_goesOn⟩

/-- Settles O4: the queue is a part that no command may change. -/
theorem stepTakesOneCommand : Obligations.StepTakesOneCommand := by
  unfold Obligations.StepTakesOneCommand
  intro s t h
  rcases step_cases h with ⟨hp, rfl⟩ | ⟨c, rest, hp, he⟩
  · rw [hp]
    exact (tclk_only 1 s .pending (by decide)).trans hp
  · rw [exec_pending he, hp, List.tail_cons]

/-- Settles O5. -/
theorem resetIsCanonical : Obligations.ResetIsCanonical := Canonical.reset

/-- Settles O6: every command keeps the canonical form, and so does a TCLK cycle; the queue is no part of the form. -/
theorem everyStepKeepsCanonicalForm : Obligations.EveryStepKeepsCanonicalForm := by
  unfold Obligations.EveryStepKeepsCanonicalForm
  intro s t hc h
  rcases step_cases h with ⟨-, rfl⟩ | ⟨c, rest, -, he⟩
  · exact tclk_canon 1 s hc
  · exact exec_canonical (s := { s with pending := rest }) hc he

/-- Settles O7. -/
theorem commandsChangeOnlyTheirParts : Obligations.CommandsChangeOnlyTheirParts := fun _ _ _ h => exec_only h

/-- Settles O8. -/
theorem commandsWriteOnlyTheirRegisters : Obligations.CommandsWriteOnlyTheirRegisters := fun _ _ _ _ h hw => exec_within h hw

/-! An idle step -/

/-- R425: no TCLK cycle passes under power-on reset or while TCLK is stalled. -/
theorem tclk_stopped {n : Nat} {s : State} (h : s.ck.por = true ∨ regB s 0x604C 3 = true) : tclk n s = s := by
  unfold tclk
  rw [if_pos (by rw [Bool.or_eq_true]; exact h)]

/-- R421, R422: in a TCLK cycle the time counter counts, after the cycles of a hold. -/
theorem tclk_tm_running {n : Nat} {s : State} (hp : s.ck.por = false) (hr : regB s 0x604C 3 = false) :
    (tclk n s).tm = s.tm.tick n := by
  unfold tclk
  rw [hp, hr]
  rfl

/-- Settles O2: an idle step is one TCLK cycle, which a stall or power-on reset suppresses. -/
theorem emptyQueuePassesOneTclk : Obligations.EmptyQueuePassesOneTclk := by
  unfold Obligations.EmptyQueuePassesOneTclk
  intro s hq
  refine ⟨_, step_idle hq, (tclk_only 1 s).mono (by decide), tclk_stopped, fun hp hr h0 => ?_, fun hp hr h0 => ?_⟩
  · rw [tclk_tm_running hp hr]
    simp [TimeSt.tick, h0]
  · rw [tclk_tm_running hp hr]
    have h1 : min 1 s.tm.hold = 1 := by omega
    refine ⟨?_, ?_⟩
    · simp [TimeSt.tick, h1]
    · show s.tm.hold - 1 + 1 = s.tm.hold
      omega

end Sys2Proof.Machine
end

section
/-!
PROOFS. Small statements: the clock bits (R383), tallies (R270), identifiers after reset.
-/
namespace Sys2Proof.Machine

/-! Bits of a register -/

/-- Setting one bit of a register sets that bit and no other. -/
theorem regB_orReg_bit {o i : Nat} {s : State} (hi : i < 32) (j : Nat) :
    regB (orReg o (2 ^ i) s) o j = (regB s o j || decide (j = i)) := by
  unfold regB bit orReg
  rw [reg_setReg_self, BitVec.toNat_or, Nat.testBit_or, BitVec.toNat_ofNat, Nat.mod_eq_of_lt (Nat.pow_lt_pow_right (by decide) hi),
    Nat.testBit_two_pow, decide_eq_decide.mpr (eq_comm (a := i))]

/-- Settles O12: outside power-on reset CLOCK_SEEN is `orReg` of one bit. (R383) -/
theorem clockSeenSetsItsBit : Obligations.ClockSeenSetsItsBit := by
  unfold Obligations.ClockSeenSetsItsBit
  intro clk s hp
  refine ⟨_, rfl, ?_⟩
  rw [hp]
  refine ⟨orReg_only _ _ s, orReg_within _ _ s, regB_orReg_bit ?_⟩
  have := clk.isLt
  split
  · omega
  · split <;> omega

/-- Settles O28. -/
theorem resetIdsAreFresh : Obligations.ResetIdsAreFresh := by
  unfold Obligations.ResetIdsAreFresh FreshIds
  decide

/-! Accepted writes -/

/-- The answer to an access adds the bus to the parts that changed. -/
theorem Only.respond {ps qs : List Part} {s t : State} (h : Only ps s t) (d : Word) (err : Bool)
    (hs : partsIn (.bus :: ps) qs = true) : Only qs s (respond d err t) := by
  rw [partsIn_cons] at hs
  obtain ⟨hb, hps⟩ := hs
  refine (h.mono hps).trans fun p hp => respond_only d err t p fun hm => hp ?_
  rwa [List.mem_singleton.mp hm]

/-- The answer to an access changes no register and no counter. -/
theorem Within.respond {xs : List Span} {s t : State} (h : Within xs s t) (d : Word) (err : Bool) : Within xs s (respond d err t) := h

/-! Tallies -/

/-- An index of six bits needs no reduction modulo 64. -/
theorem toNat_mod_64 (q : BitVec 6) : q.toNat % 64 = q.toNat := Nat.mod_eq_of_lt q.isLt

@[simp] theorem tally_respond (d : Word) (err : Bool) (s : State) (i : Nat) : tally (respond d err s) i = tally s i := rfl

theorem tally_tallyAdd (n : Nat) (i : BitVec 6) (s : State) : tally (tallyAdd n i.toNat s) i.toNat = tally s i.toNat + BitVec.ofNat 32 n := by
  unfold tally tallyAdd
  rw [toNat_mod_64, reg_setReg_self]
  rfl

theorem tallyAdd_within_self (n : Nat) (i : BitVec 6) (s : State) : Within [⟨0x3700 + 4 * i.toNat, 0, 1⟩] s (tallyAdd n i.toNat s) := by
  unfold tallyAdd
  rw [toNat_mod_64]
  exact setReg_within _ _ _

/-- R270: an accepted increment from C0 or the tally's context. -/
theorem execTallyInc_accepts {a : BusAcc} {i : BitVec 6} {s : State} (ha : accepts a true 0x3014 s)
    (hm : lvl a = 0 ∨ tlyBind s i.toNat % 8 = lvl a) : execTallyInc a i s = .next (respond 0 false (tallyAdd 1 i.toNat s)) := by
  unfold execTallyInc
  rw [busWriteFor_mine (by simpa using hm), busWrite_accepts ha]

/-- R270: what the value written and the increments of its cycle leave of a tally. -/
def tallyWritten (i : BitVec 6) (w : Word) (incs : Nat) (s : State) : State :=
  respond 0 false (setReg (0x3700 + 4 * i.toNat) w s) |> when (running s) (tallyAdd incs i.toNat)

theorem execTallyWrite_accepts {a : BusAcc} {i : BitVec 6} {w : Word} {incs : Nat} {s : State}
    (ha : accepts a true (0x3700 + 4 * i.toNat) s) : execTallyWrite a i w incs s = .next (tallyWritten i w incs s) := by
  unfold execTallyWrite
  rw [busWrite_accepts ha, toNat_mod_64]
  rfl

/-- Settles O35: the state after each command is `tallyAdd` or `tallyWritten`. (R270) -/
theorem talliesTakeWritesBeforeIncrements : Obligations.TalliesTakeWritesBeforeIncrements := by
  unfold Obligations.TalliesTakeWritesBeforeIncrements
  refine ⟨fun a i s ha hm => ?inc, fun a i w incs s ha => ?write⟩
  case inc =>
    refine ⟨_, execTallyInc_accepts ha hm, ⟨rfl, rfl⟩, (tallyAdd_only 1 _ s).respond 0 false (by decide), ?_,
      (tallyAdd_within_self 1 i s).respond 0 false⟩
    rw [tally_respond, tally_tallyAdd]
    rfl
  case write =>
    have hreg : Within [⟨0x3700 + 4 * i.toNat, 0, 1⟩] s (respond 0 false (setReg (0x3700 + 4 * i.toNat) w s)) :=
      (setReg_within _ w s).respond 0 false
    have honly : Only [.regs, .bus] s (respond 0 false (setReg (0x3700 + 4 * i.toNat) w s)) :=
      (setReg_only _ w s).respond 0 false (by decide)
    have hval : tally (setReg (0x3700 + 4 * i.toNat) w s) i.toNat = w := reg_setReg_self _ _ _
    refine ⟨_, execTallyWrite_accepts ha, ?_⟩
    unfold tallyWritten Machine.when
    cases running s with
    | false => exact ⟨⟨rfl, rfl⟩, honly, by simp [hval], hreg⟩
    | true =>
      refine ⟨⟨?_, ?_⟩, honly.trans ((tallyAdd_only _ _ _).mono (by decide)), ?_, hreg.trans (tallyAdd_within_self _ _ _)⟩
      · simp [tallyAdd, setReg, respond]
      · simp [tallyAdd, setReg, respond]
      · simp [tally_tallyAdd, hval]

end Sys2Proof.Machine
end

section
/-!
PROOFS. Identifiers of slips and transfers: they are of their own and below the next one to give. What keeps them: an effect on
other parts, or on a slip or transfer in its place.
-/
namespace Sys2Proof.Machine

/-- The identifiers given so far are of their own, and below the next one to give. -/
def FreshList (ids : List Nat) (next : Nat) : Prop := ids.Nodup ∧ ∀ i ∈ ids, i < next

theorem freshIds_iff (s : State) :
    FreshIds s ↔ FreshList (s.sq.live.map (·.sid)) s.sq.nextSid ∧ FreshList (s.fr.trs.map (·.id)) s.fr.nextId := by
  simp only [FreshIds, FreshList, List.mem_map, forall_exists_index, and_imp, forall_apply_eq_imp_iff₂, and_assoc]

/-- Dropping some identifiers. -/
theorem FreshList.sublist {l m : List Nat} {n : Nat} (h : FreshList m n) (hs : l.Sublist m) : FreshList l n :=
  ⟨h.1.sublist hs, fun i hi => h.2 i (hs.subset hi)⟩

/-- Giving the next identifier. -/
theorem FreshList.next {l : List Nat} {n : Nat} (h : FreshList l n) : FreshList (l ++ [n]) (n + 1) := by
  refine ⟨List.nodup_append.mpr ⟨h.1, List.pairwise_singleton _ n, fun i hi j hj => ?_⟩, fun i hi => ?_⟩
  · rw [List.mem_singleton.mp hj]
    exact Nat.ne_of_lt (h.2 i hi)
  · rcases List.mem_append.mp hi with hi | hi
    · exact Nat.lt_succ_of_lt (h.2 i hi)
    · rw [List.mem_singleton.mp hi]
      exact Nat.lt_succ_self n

/-! How they compose -/

/-- Neither the slips nor the transfers change. -/
theorem FreshIds.of_only {ps : List Part} {s t : State} (k : Only ps s t)
    (hs : (!ps.contains .fr && !ps.contains .sq) = true) : FreshIds t ↔ FreshIds s := by
  simp only [Bool.and_eq_true, Bool.not_eq_true', List.contains_eq_mem, decide_eq_false_iff_not] at hs
  have hfr : t.fr = s.fr := k .fr hs.1
  have hsq : t.sq = s.sq := k .sq hs.2
  rw [freshIds_iff, freshIds_iff, hfr, hsq]

/-- A record update of other fields. -/
theorem FreshIds.mk_iff {s : State} {q : List Instr} {x0 x1 : Nat} {x2 : NMap Word} {x3 x4 : NMap (BitVec 56)} {x5 : BusSt}
    {x6 : List Host.Cell} {x7 : BankSt} {x9 : ArbSt} {x11 : TblSt} {x12 : BlendSt} {x13 : HeldSt} {x14 : TimeSt} {x15 : TraceSt}
    {x16 : DbgSt} {x17 : FwdSt} {x18 : RdxSt} {x19 : PwrSt} {x20 : CkSt} {x21 : ProtSt} :
    FreshIds ⟨q, x0, x1, x2, x3, x4, x5, x6, x7, s.fr, x9, s.sq, x11, x12, x13, x14, x15, x16, x17, x18, x19, x20, x21⟩
      ↔ FreshIds s := Iff.rfl

theorem FreshIds.forEach_iff {α : Type} {f : α → State → State} {l : List α} {s : State}
    (hf : ∀ x s, FreshIds (f x s) ↔ FreshIds s) : FreshIds (forEach l f s) ↔ FreshIds s := by
  induction l generalizing s with
  | nil => exact Iff.rfl
  | cons x xs ih => exact ih.trans (hf x s)

theorem FreshIds.forEach {α : Type} {f : α → State → State} {l : List α} {s : State} (hf : ∀ x s, FreshIds s → FreshIds (f x s))
    (h : FreshIds s) : FreshIds (Machine.forEach l f s) := by
  induction l generalizing s with
  | nil => exact h
  | cons x xs ih => exact ih (hf x s h)

theorem FreshIds.when_iff {f : State → State} {c : Bool} {s : State} (hf : ∀ s, FreshIds (f s) ↔ FreshIds s) :
    FreshIds (when c f s) ↔ FreshIds s := by
  unfold Machine.when
  split
  · exact hf s
  · exact Iff.rfl

theorem FreshIds.when {f : State → State} {c : Bool} {s : State} (hf : ∀ s, FreshIds s → FreshIds (f s)) (h : FreshIds s) :
    FreshIds (Machine.when c f s) := by
  unfold Machine.when
  split
  · exact hf s h
  · exact h

theorem FreshIds.ite {c : Prop} [Decidable c] {a b : State} (ha : FreshIds a) (hb : FreshIds b) :
    FreshIds (if c then a else b) := by
  split
  · exact ha
  · exact hb

/-- Replacing items in their place by items of the same identifier. -/
theorem map_key_congr {α : Type} {key : α → Nat} {f : α → α} (l : List α) (hf : ∀ x, key (f x) = key x) :
    (l.map f).map key = l.map key := by
  rw [List.map_map]
  exact List.map_congr_left fun x _ => hf x

/-! The operations on slips and transfers -/

/-- A transfer takes the next identifier. -/
theorem FreshIds.addTr {s : State} (t : Tr) (h : FreshIds s) : FreshIds (addTr t s) := by
  rw [freshIds_iff] at h ⊢
  obtain ⟨hs, ht⟩ := h
  refine ⟨hs, ?_⟩
  unfold Machine.addTr
  dsimp only
  rw [List.map_append]
  exact ht.next

/-- A slip that starts takes the next identifier. -/
theorem FreshIds.begin {s : State} {x : Slip} (hx : x.sid = s.sq.nextSid) (h : FreshIds s) :
    FreshIds { s with sq := { s.sq with live := s.sq.live ++ [x], nextSid := s.sq.nextSid + 1 } } := by
  rw [freshIds_iff] at h ⊢
  obtain ⟨hs, ht⟩ := h
  refine ⟨?_, ht⟩
  dsimp only
  rw [List.map_append, List.map_singleton, hx]
  exact hs.next

/-- Some transfers end. -/
theorem FreshIds.filter_trs {s t : State} {p : Tr → Bool} (h : FreshIds s) (hsq : t.sq = s.sq) (htrs : t.fr.trs = s.fr.trs.filter
    p)
    (hn : t.fr.nextId = s.fr.nextId) : FreshIds t := by
  rw [freshIds_iff] at h ⊢
  obtain ⟨hs, ht⟩ := h
  rw [hsq, htrs, hn]
  exact ⟨hs, ht.sublist (List.filter_sublist.map _)⟩

/-- The transfers change and keep their identifiers. -/
theorem FreshIds.map_trs {s t : State} {f : Tr → Tr} (h : FreshIds s) (hf : ∀ u, (f u).id = u.id) (hsq : t.sq = s.sq)
    (htrs : t.fr.trs = s.fr.trs.map f) (hn : t.fr.nextId = s.fr.nextId) : FreshIds t := by
  rw [freshIds_iff] at h ⊢
  obtain ⟨hs, ht⟩ := h
  rw [hsq, htrs, hn, map_key_congr _ hf]
  exact ⟨hs, ht⟩

/-- Some slips end. -/
theorem FreshIds.filter_live {s t : State} {p : Slip → Bool} (h : FreshIds s) (hfr : t.fr = s.fr) (hlive : t.sq.live =
    s.sq.live.filter p)
    (hn : t.sq.nextSid = s.sq.nextSid) : FreshIds t := by
  rw [freshIds_iff] at h ⊢
  obtain ⟨hs, ht⟩ := h
  rw [hfr, hlive, hn]
  exact ⟨hs.sublist (List.filter_sublist.map _), ht⟩

theorem updSlip_freshIds (i : Nat) (f : Slip → Slip) (s : State) (hf : ∀ y, (f y).sid = y.sid) :
    FreshIds (updSlip i f s) ↔ FreshIds s := by
  rw [freshIds_iff, freshIds_iff]
  unfold updSlip
  dsimp only
  rw [map_key_congr]
  intro y
  split
  · exact hf y
  · rfl

theorem setTr_freshIds (t : Tr) (s : State) : FreshIds (setTr t s) ↔ FreshIds s := by
  rw [freshIds_iff, freshIds_iff]
  unfold setTr
  dsimp only
  rw [map_key_congr]
  intro u
  split
  · next hu => exact (beq_iff_eq.mp hu).symm
  · rfl

/-! What a change of a slip's lanes leaves of it -/

theorem setSlane_sid (l : Nat) (y : SLane) (x : Slip) : (setSlane l y x).sid = x.sid := by
  simp only [setSlane]

theorem setStream_sid (l : Nat) (y : SLane) (x : Slip) : (setStream l y x).sid = x.sid := by
  unfold setStream
  split <;> rfl


theorem feedScales_sid (cls : Nat) (l : List (Nat × Bool)) (off : Int) (x : Slip) : (feedScales cls l off x).sid = x.sid := by
  induction l generalizing off x with
  | nil => rfl
  | cons e l ih =>
    unfold feedScales
    rw [ih]
    repeat' split
    all_goals rfl

theorem rowScales_sid (cls d : Nat) (rows : List (List (Nat × Bool))) (x : Slip) : (rowScales cls d rows x).sid = x.sid := by
  induction rows generalizing d x with
  | nil => rfl
  | cons e l ih =>
    unfold rowScales
    rw [ih]
    split <;> exact feedScales_sid _ _ _ _

/-! Accesses -/

theorem busWrite_freshIds (a : BusAcc) (o : Nat) (act : State → State) (s : State) (ha : ∀ s, FreshIds s → FreshIds (act s))
    (hf : FreshIds s) : FreshIds (busWrite a o act s) := by
  have hr : ∀ d e s, FreshIds s → FreshIds (respond d e s) := fun d e s => (FreshIds.of_only (respond_only d e s) rfl).mpr
  unfold busWrite
  split
  · exact hf
  split
  · exact hr _ _ _ hf
  split
  · exact hr _ _ _ hf
  split
  · exact (FreshIds.of_only (refuse_only a true o s) rfl).mpr hf
  split
  · exact hr _ _ _ hf
  · exact hr _ _ _ (ha s hf)

theorem busWriteFor_freshIds (a : BusAcc) (o : Nat) (mine : State → Bool) (act : State → State) (s : State)
    (ha : ∀ s, FreshIds s → FreshIds (act s)) (hf : FreshIds s) : FreshIds (busWriteFor a o mine act s) := by
  unfold busWriteFor
  split
  · exact busWrite_freshIds a o act s ha hf
  · exact (FreshIds.of_only (refuse_only a true o s) rfl).mpr hf

/-! What keeps the identifiers -/
theorem setRlane_freshIds (l : Nat) (x : RLane) (s : State) : FreshIds (setRlane l x s) ↔ FreshIds s :=
  Iff.rfl

theorem updRlane_freshIds (l : Nat) (f : RLane → RLane) (s : State) : FreshIds (updRlane l f s) ↔ FreshIds s :=
  Iff.rfl

theorem updWlane_freshIds (l : Nat) (f : WLane → WLane) (s : State) : FreshIds (updWlane l f s) ↔ FreshIds s :=
  Iff.rfl

theorem raiseCvt_freshIds (x : Slip) (f : Nat) (s : State) : FreshIds (raiseCvt x f s) ↔ FreshIds s := by
  simp only [raiseCvt, FreshIds.of_only (orReg_only _ _ _) rfl, updSlip_freshIds, implies_true]

theorem raiseBlend_freshIds (x : Slip) (f : Nat) (s : State) : FreshIds (raiseBlend x f s) ↔ FreshIds s := by
  simp only [raiseBlend, FreshIds.of_only (orReg_only _ _ _) rfl, updSlip_freshIds, implies_true]

theorem updQueue_freshIds (q : Nat) (f : SlipQ → SlipQ) (s : State) : FreshIds (updQueue q f s) ↔ FreshIds s :=
  Iff.rfl

theorem progress_freshIds (q : Nat) (s : State) : FreshIds (progress q s) ↔ FreshIds s :=
  Iff.rfl

theorem slipRaise_freshIds (sid kind : Nat) (s : State) : FreshIds (slipRaise sid kind s) ↔ FreshIds s := by
  unfold slipRaise
  dsimp only
  repeat' split
  all_goals simp only [updSlip_freshIds, FreshIds.of_only (raise_only _ _) rfl, implies_true]

theorem slipFault_freshIds (x : Slip) (kind v : Nat) (off : Int) (store : Bool) (s : State) :
    FreshIds (slipFault x kind v off store s) ↔ FreshIds s := by
  simp only [slipFault, FreshIds.of_only (faultRow_only _ _ _ _ _ _ _ _) rfl, slipRaise_freshIds]

theorem markPlane_freshIds (c : Crossing) (p : Parity) (s : State) : FreshIds (markPlane c p s) ↔ FreshIds s := by
  unfold markPlane
  split <;> exact Iff.rfl

theorem maybeSend_freshIds (sid : Nat) (s : State) : FreshIds (maybeSend sid s) ↔ FreshIds s := by
  unfold maybeSend
  repeat' first
    | simp only [updSlip_freshIds, FreshIds.of_only (genRec_only _ _ _) rfl, FreshIds.when_iff, implies_true]
    | split

theorem freeSlots_freshIds (sid l : Nat) (s : State) : FreshIds (freeSlots sid l s) ↔ FreshIds s := by
  unfold freeSlots
  split <;> simp only [updSlip_freshIds, FreshIds.mk_iff, implies_true]

theorem land_freshIds (l : Nat) (f : OutFlit) (s : State) : FreshIds (land l f s) ↔ FreshIds s :=
  Iff.rfl

theorem stageMove_freshIds (x : Slip) (last : Bool) (d : DFlit) (s : State) : FreshIds (stageMove x last d s) ↔ FreshIds s := by
  simp only [stageMove, updWlane_freshIds, updSlip_freshIds, implies_true]

theorem emitFlit_freshIds (sid l : Nat) (blpar : Mask4) (d : DFlit) (s : State) :
    FreshIds (emitFlit sid l blpar d s) ↔ FreshIds s := by
  unfold emitFlit
  dsimp only
  repeat' split
  all_goals simp only [raiseBlend_freshIds, FreshIds.of_only (estimate_only _ _ _) rfl,
    FreshIds.of_only (blendParity_only _ _) rfl, updSlip_freshIds, freeSlots_freshIds, stageMove_freshIds,
    FreshIds.of_only (watchRead_only _ _ _ _ _ _ _ _) rfl, land_freshIds, FreshIds.when_iff, setSlane_sid, implies_true]

theorem discardFlit_freshIds (x : Slip) (l : Nat) (s : State) : FreshIds (discardFlit x l s) ↔ FreshIds s := by
  simp only [discardFlit, updSlip_freshIds, progress_freshIds, FreshIds.of_only (estimate_only _ _ _) rfl, freeSlots_freshIds,
    maybeSend_freshIds, FreshIds.when_iff, setSlane_sid, implies_true]

theorem passSlip_freshIds (x : Slip) (l : Nat) (f : Row × Mask4) (s : State) (t : State) (h : passSlip x l f s = some t) :
    FreshIds t ↔ FreshIds s := by
  unfold passSlip at h
  dsimp only at h
  repeat' split at h
  all_goals cases h
  all_goals simp only [discardFlit_freshIds, updSlip_freshIds, raiseCvt_freshIds, FreshIds.of_only (estimate_only _ _ _) rfl,
    updRlane_freshIds, FreshIds.when_iff, setSlane_sid, implies_true]

theorem emitNext_freshIds (l : Nat) (blpar : Mask4) (s : State) (t : State) (h : emitNext l blpar s = some t) :
    FreshIds t ↔ FreshIds s := by
  unfold emitNext at h
  dsimp only at h
  repeat' split at h
  all_goals cases h
  all_goals simp only [updSlip_freshIds, updRlane_freshIds, emitFlit_freshIds, maybeSend_freshIds, FreshIds.when_iff,
    setSlane_sid, implies_true]

theorem passFlush_freshIds (x : Slip) (l : Nat) (s : State) : FreshIds (passFlush x l s) ↔ FreshIds s := by
  simp only [passFlush, updSlip_freshIds, FreshIds.of_only (estimate_only _ _ _) rfl, land_freshIds,
    FreshIds.of_only (watchRead_only _ _ _ _ _ _ _ _) rfl, maybeSend_freshIds, setSlane_sid, implies_true]

theorem passOwn_freshIds (t : Tr) (l n : Nat) (f : Row × Mask4) (s : State) : FreshIds (passOwn t l n f s) ↔ FreshIds s :=
  Iff.rfl

theorem passReturn_freshIds (x : Slip) (l : Nat) (f : Row × Mask4) (s : State) : FreshIds (passReturn x l f s) ↔ FreshIds s := by
  simp only [passReturn, updSlip_freshIds, FreshIds.of_only (estimate_only _ _ _) rfl, land_freshIds,
    FreshIds.of_only (watchRead_only _ _ _ _ _ _ _ _) rfl, maybeSend_freshIds, setSlane_sid, implies_true]

theorem beatPassed_freshIds (t : Tr) (l n : Nat) (s : State) : FreshIds (beatPassed t l n s) ↔ FreshIds s := by
  simp only [beatPassed, setTr_freshIds, updRlane_freshIds, FreshIds.when_iff, implies_true]

theorem passBeat_freshIds (lane : Nat) (t : Tr) (n : Nat) (par : Parity) (blpar : Mask4) (s u : State) (h : passBeat lane t n par
    blpar s = some u) : FreshIds u ↔ FreshIds s := by
  unfold passBeat at h
  dsimp only at h
  split at h
  · injection h with h
    subst h
    simp only [beatPassed_freshIds, passOwn_freshIds, FreshIds.of_only (netParity_only _ _ _ _ _) rfl, markPlane_freshIds]
  · split at h
    · cases h
    · split at h
      · injection h with h
        subst h
        simp only [beatPassed_freshIds, passFlush_freshIds, FreshIds.of_only (netParity_only _ _ _ _ _) rfl, markPlane_freshIds]
      · split at h
        · injection h with h
          subst h
          simp only [beatPassed_freshIds, passReturn_freshIds, FreshIds.of_only (netParity_only _ _ _ _ _) rfl,
            markPlane_freshIds]
        · obtain ⟨v, hv, rfl⟩ := Option.map_eq_some_iff.mp h
          have hs := passSlip_freshIds _ _ _ _ _ hv
          rw [FreshIds.of_only (netParity_only _ _ _ _ _) rfl, markPlane_freshIds] at hs
          cases he : emitNext lane blpar (beatPassed t lane n v) with
          | none => rw [Option.getD_none, beatPassed_freshIds, hs]
          | some w => rw [Option.getD_some, emitNext_freshIds _ _ _ _ he, beatPassed_freshIds, hs]

theorem setChan_freshIds (wr : Bool) (lane : Nat) (x : ReqCh) (s : State) : FreshIds (setChan wr lane x s) ↔ FreshIds s :=
  Iff.rfl

theorem lengthMismatch_freshIds (x : Slip) (s : State) : FreshIds (lengthMismatch x s) ↔ FreshIds s := by
  simp only [lengthMismatch, updSlip_freshIds, FreshIds.of_only (fillLog_only _ _ _ _) rfl,
    FreshIds.of_only (raise_only _ _) rfl, implies_true]

theorem receiveFlit_freshIds (sid : Nat) (last : Bool) (s : State) : FreshIds (receiveFlit sid last s) ↔ FreshIds s := by
  unfold receiveFlit
  dsimp only
  repeat' split
  all_goals simp only [updSlip_freshIds, lengthMismatch_freshIds, implies_true]

theorem freeTaken_freshIds (sid : Nat) (s : State) : FreshIds (freeTaken sid s) ↔ FreshIds s := by
  unfold freeTaken
  split <;> simp only [freeSlots_freshIds, FreshIds.when_iff, implies_true]

theorem takeStaged_freshIds (sid : Nat) (l : List WFlit) (s : State) : FreshIds (takeStaged sid l s) ↔ FreshIds s := by
  induction l generalizing s with
  | nil => rfl
  | cons e l ih =>
    unfold takeStaged
    split
    · split
      · rfl
      · rw [ih, receiveFlit_freshIds, updSlip_freshIds]
        exact fun _ => rfl
    · rfl

theorem unsealFlit_freshIds (lane : Nat) (ofSlip : Bool) (sid : Option Nat) (data : Row) (s : State) :
    FreshIds (unsealFlit lane ofSlip sid data s).2 ↔ FreshIds s := by
  unfold unsealFlit
  dsimp only
  repeat' split
  all_goals simp only [FreshIds.of_only (sealFlit_only _ _ _) rfl, updSlip_freshIds, FreshIds.when_iff, implies_true]

theorem stageFlit_freshIds (lane : Nat) (f : WFlit) (s : State) : FreshIds (stageFlit lane f s) ↔ FreshIds s :=
  Iff.rfl

theorem popWdcq_freshIds (lane : Nat) (s : State) : FreshIds (popWdcq lane s) ↔ FreshIds s :=
  Iff.rfl

theorem stagePlain_freshIds (lane : Nat) (sid : Option Nat) (d : Row × BitVec 81) (s : State) :
    FreshIds (stagePlain lane sid d s) ↔ FreshIds s := by
  simp only [stagePlain, unsealFlit_freshIds, popWdcq_freshIds, stageFlit_freshIds]

theorem stageSlip_freshIds (lane : Nat) (x : Slip) (par : Mask4) (d : Row × BitVec 81) (s : State) :
    FreshIds (stageSlip lane x par d s) ↔ FreshIds s := by
  unfold stageSlip
  split <;> simp only [unsealFlit_freshIds, popWdcq_freshIds, stageFlit_freshIds, raiseBlend_freshIds,
    FreshIds.of_only (estimate_only _ _ _) rfl, FreshIds.of_only (blendParity_only _ _) rfl, updSlip_freshIds,
    receiveFlit_freshIds, progress_freshIds, freeTaken_freshIds, FreshIds.when_iff, implies_true]

theorem moveToStaging_freshIds (lane : Nat) (par : Mask4) (d : Row × BitVec 81) (s : State) :
    FreshIds (moveToStaging lane par d s) ↔ FreshIds s := by
  unfold moveToStaging
  dsimp only
  repeat' split
  all_goals simp only [popWdcq_freshIds, stageFlit_freshIds, stagePlain_freshIds, stageSlip_freshIds]

theorem joinOrders_freshIds (id : Nat) (t : Tr) (s : State) : FreshIds (joinOrders id t s) ↔ FreshIds s := by
  unfold joinOrders
  split <;> simp only [updRlane_freshIds, updWlane_freshIds, FreshIds.forEach_iff, implies_true]

theorem takeClaim_freshIds (x : Slip) (s : State) : FreshIds (takeClaim x s) ↔ FreshIds s := by
  unfold takeClaim
  dsimp only
  repeat' split
  all_goals simp only [updWlane_freshIds, takeStaged_freshIds, freeTaken_freshIds]

theorem transferScales_freshIds (x : Slip) (t : Tr) (rows : List (List (Nat × Bool))) (s : State) :
    FreshIds (transferScales x t rows s) ↔ FreshIds s := by
  unfold transferScales Machine.when
  split
  · exact updSlip_freshIds _ _ _ (rowScales_sid _ _ _)
  · rfl

theorem giveRows_freshIds (t : Tr) (rows : List StoredRow) (s : State) : FreshIds (giveRows t rows s) ↔ FreshIds s := by
  simp only [giveRows, setTr_freshIds]

theorem slipRequest_freshIds (x : Slip) (t : Tr) (s : State) : FreshIds (slipRequest x t s) ↔ FreshIds s := by
  unfold slipRequest
  dsimp only
  repeat' split
  all_goals simp only [transferScales_freshIds, giveRows_freshIds, updSlip_freshIds, raiseCvt_freshIds,
    FreshIds.of_only (estimate_only _ _ _) rfl, setTr_freshIds, implies_true]

theorem tclk_freshIds (n : Nat) (s : State) : FreshIds (tclk n s) ↔ FreshIds s := by
  unfold tclk
  split
  · rfl
  · rw [freshIds_iff, freshIds_iff]

theorem settleHead_freshIds (q : Nat) (s : State) : FreshIds (settleHead q s) ↔ FreshIds s := by
  unfold settleHead
  dsimp only
  repeat' split
  all_goals simp only [updQueue_freshIds, FreshIds.of_only (bump_only _ _ _) rfl,
    FreshIds.of_only (slipLog_only _ _ _ _ _ _) rfl, FreshIds.of_only (raise_only _ _) rfl]

theorem stageWord_freshIds (q i : Nat) (w : Word) (s : State) : FreshIds (stageWord q i w s) ↔ FreshIds s :=
  Iff.rfl

theorem writeStage_freshIds (a : BusAcc) (q i : Nat) (w : Word) (s : State) : FreshIds (writeStage a q i w s) ↔ FreshIds s := by
  unfold writeStage
  split <;> simp only [stageWord_freshIds]

theorem commitStaged_freshIds (q : Nat) (s : State) : FreshIds (commitStaged q s) ↔ FreshIds s := by
  unfold commitStaged
  dsimp only
  split <;> simp only [FreshIds.of_only (refuseCommit_only _ _) rfl, updQueue_freshIds,
    FreshIds.of_only (setRegF_only _ _ _ _ _) rfl, FreshIds.when_iff, implies_true]

theorem commitSlip_freshIds (a : BusAcc) (q : Nat) (w : Word) (s : State) : FreshIds (commitSlip a q w s) ↔ FreshIds s := by
  unfold commitSlip
  repeat' first
    | simp only [FreshIds.of_only (refuseCommit_only _ _) rfl, stageWord_freshIds, updQueue_freshIds, commitStaged_freshIds]
    | split

theorem markDecoded_freshIds (q idx : Nat) (d : Nat) (s : State) : FreshIds (markDecoded q idx d s) ↔ FreshIds s :=
  Iff.rfl

theorem askSlots_freshIds (sid : Nat) (s : State) : FreshIds (askSlots sid s) ↔ FreshIds s := by
  simp only [askSlots, updSlip_freshIds, FreshIds.mk_iff, implies_true]

theorem dropClaim_freshIds (x : Slip) (s : State) : FreshIds (dropClaim x s) ↔ FreshIds s := by
  unfold dropClaim
  split <;> simp only [updWlane_freshIds]

theorem stopOnFault_freshIds (x : Slip) (s : State) : FreshIds (stopOnFault x s) ↔ FreshIds s := by
  unfold stopOnFault
  split <;> simp only [updQueue_freshIds, FreshIds.of_only (slipLog_only _ _ _ _ _ _) rfl, FreshIds.of_only (raise_only _ _) rfl]

theorem forgetDecode_freshIds (q : Nat) (s : State) : FreshIds (forgetDecode q s) ↔ FreshIds s :=
  Iff.rfl

theorem resumeQueue_freshIds (q : Nat) (s : State) : FreshIds (resumeQueue q s) ↔ FreshIds s := by
  unfold resumeQueue
  dsimp only
  repeat' split
  all_goals simp only [forgetDecode_freshIds, updQueue_freshIds, settleHead_freshIds]

theorem skipQueue_freshIds (q : Nat) (s : State) : FreshIds (skipQueue q s) ↔ FreshIds s := by
  unfold skipQueue
  dsimp only
  repeat' split
  all_goals simp only [updQueue_freshIds, settleHead_freshIds, resumeQueue_freshIds]

theorem pauseQueue_freshIds (q : Nat) (s : State) : FreshIds (pauseQueue q s) ↔ FreshIds s := by
  unfold pauseQueue
  split <;> simp only [updQueue_freshIds]

theorem updHeld_freshIds (sid : Nat) (f : HeldEx → HeldEx) (s : State) : FreshIds (updHeld sid f s) ↔ FreshIds s := by
  simp only [updHeld, updSlip_freshIds, implies_true]

theorem freeHold_freshIds (x : Slip) (s : State) : FreshIds (freeHold x s) ↔ FreshIds s := by
  simp only [freeHold, FreshIds.of_only (setRegF_only _ _ _ _ _) rfl, updHeld_freshIds, FreshIds.mk_iff]

theorem dropSlots_freshIds (x : Slip) (s : State) : FreshIds (dropSlots x s) ↔ FreshIds s := by
  simp only [dropSlots, freeSlots_freshIds, FreshIds.mk_iff, FreshIds.forEach_iff, implies_true]

theorem addPart_freshIds (x : Slip) (i : Nat) (data : Row) (pois : Mask4) (sc : List (Nat × Bool)) (s : State) :
    FreshIds (addPart x i data pois sc s) ↔ FreshIds s := by
  simp only [addPart, updHeld_freshIds, FreshIds.of_only (estimate_only _ _ _) rfl]

theorem drainRaw_freshIds (sid n : Nat) (s : State) : FreshIds (drainRaw sid n s) ↔ FreshIds s := by
  induction n generalizing s with
  | zero => rfl
  | succ n ih =>
    unfold drainRaw
    repeat' split
    all_goals simp only [ih, updHeld_freshIds, updSlip_freshIds, addPart_freshIds, setSlane_sid, implies_true]

theorem parkWritten_freshIds (x : Slip) (s : State) : FreshIds (parkWritten x s) ↔ FreshIds s := by
  simp only [parkWritten, progress_freshIds, FreshIds.of_only (xbump_only _ _ _) rfl]

theorem sideArrived_freshIds (sid l : Nat) (f : Row × Mask4) (s : State) : FreshIds (sideArrived sid l f s) ↔ FreshIds s := by
  simp only [sideArrived, updSlip_freshIds, setStream_sid, implies_true]

theorem vecArrived_freshIds (sid l : Nat) (f : Row × Mask4) (s : State) : FreshIds (vecArrived sid l f s) ↔ FreshIds s := by
  simp only [vecArrived, updSlip_freshIds, setStream_sid, implies_true]

theorem scaleArrived_freshIds (sid l : Nat) (a : Int) (f : Row × Mask4) (s : State) :
    FreshIds (scaleArrived sid l a f s) ↔ FreshIds s := by
  unfold scaleArrived
  dsimp only
  repeat' split
  all_goals simp only [updSlip_freshIds, drainRaw_freshIds, setSlane_sid, implies_true]

theorem regroup_freshIds (id : Nat) (s : State) : FreshIds (regroup id s) ↔ FreshIds s := by
  unfold regroup
  dsimp only
  repeat' split
  all_goals simp only [setTr_freshIds, updSlip_freshIds, FreshIds.forEach_iff, setSlane_sid, implies_true]

theorem ownFault_freshIds (t : Tr) (b : Beat) (s : State) : FreshIds (ownFault t b s) ↔ FreshIds s := by
  unfold ownFault
  dsimp only
  rw [FreshIds.when_iff, FreshIds.of_only (faultRow_only _ _ _ _ _ _ _ _) rfl]
  intro s
  rw [← FreshIds.of_only (raise_only (faultCause (b.bad - 1)) s) rfl]
  split
  · exact setTr_freshIds _ _
  · rfl

theorem beatFault_freshIds (t : Tr) (b : Beat) (s : State) : FreshIds (beatFault t b s) ↔ FreshIds s := by
  unfold beatFault
  dsimp only
  repeat' split
  all_goals simp only [FreshIds.of_only (deadAccess_only _ _) rfl, ownFault_freshIds, slipFault_freshIds,
    FreshIds.of_only (opFault_only _ _) rfl]

theorem takeCredits_freshIds (t : Tr) (s : State) : FreshIds (takeCredits t s) ↔ FreshIds s := by
  unfold takeCredits
  split <;> simp only [updRlane_freshIds, updSlip_freshIds, FreshIds.forEach_iff, setSlane_sid, implies_true]

theorem giveTicket_freshIds (x : Tr) (t : Nat) (s : State) : FreshIds (giveTicket x t s) ↔ FreshIds s := by
  unfold giveTicket
  dsimp only
  repeat' split
  all_goals simp only [setChan_freshIds, FreshIds.mk_iff]

theorem markWaiting_freshIds (s : State) : FreshIds (markWaiting s) ↔ FreshIds s :=
  Iff.rfl

theorem settleLane_freshIds (lane n : Nat) (s : State) : FreshIds (settleLane lane n s) ↔ FreshIds s := by
  induction n generalizing s with
  | zero => rfl
  | succ n ih =>
    unfold settleLane
    dsimp only
    repeat' first
      | split
      | simp only [ih, progress_freshIds, updSlip_freshIds, updWlane_freshIds, implies_true]

theorem countQueues_freshIds (late : List Nat) (s : State) : FreshIds (countQueues late s) ↔ FreshIds s := by
  unfold countQueues
  refine FreshIds.forEach_iff fun q s => ?_
  dsimp only
  split
  · exact updQueue_freshIds _ _ _
  · split
    · rfl
    · simp only [FreshIds.when_iff, FreshIds.of_only (xbump_only _ _ _) rfl, updQueue_freshIds, implies_true]

theorem settleAll_freshIds (s : State) : FreshIds (settleAll s) ↔ FreshIds s := by
  simp only [settleAll, settleLane_freshIds, FreshIds.forEach_iff, implies_true]

theorem updBeat_freshIds (id n : Nat) (f : Beat → Beat) (s : State) : FreshIds (updBeat id n f s) ↔ FreshIds s := by
  unfold updBeat
  split <;> simp only [setTr_freshIds]

theorem beatPerformed_freshIds (t : Tr) (lb : Nat) (s : State) : FreshIds (beatPerformed t lb s) ↔ FreshIds s := by
  unfold beatPerformed
  dsimp only
  repeat' split
  all_goals simp only [FreshIds.of_only (countBeat_only _ _ _ _) rfl, FreshIds.of_only (spendShare_only _ _) rfl,
    FreshIds.of_only (estimate_only _ _ _) rfl, progress_freshIds]

theorem atomicNow_freshIds (t : Tr) (b : Beat) (port : Bool) (ups : List Upset) (par : Parity) (s : State) :
    FreshIds (atomicNow t b port ups par s) ↔ FreshIds s := by
  simp only [atomicNow, FreshIds.of_only (netParity_only _ _ _ _ _) rfl, markPlane_freshIds,
    FreshIds.of_only (readRow_only _ _ _ _ _ _) rfl, FreshIds.of_only (keepUndo_only _ _ _ _ _ _ _) rfl,
    FreshIds.of_only (storeRow_only _ _ _ _ _ _ _ _) rfl, beatPerformed_freshIds, updBeat_freshIds, settleLane_freshIds]

theorem payCredits_freshIds (s : State) : FreshIds (payCredits s) ↔ FreshIds s :=
  Iff.rfl

/-! What ends slips or transfers, or begins them -/

theorem dropTr_freshIds (id : Nat) (s : State) (hf : FreshIds s) : FreshIds (dropTr id s) :=
  hf.filter_trs rfl rfl rfl

theorem dropJobs_freshIds (p : Job → Bool) (s : State) (hf : FreshIds s) : FreshIds (dropJobs p s) := by
  let kept : State := { s with fr := { s.fr with trs := s.fr.trs.filter fun t => !(p t.job && !t.granted) } }
  have hk : FreshIds kept := hf.filter_trs rfl rfl rfl
  refine hk.map_trs (f := fun t => if p t.job then { t with job := .none } else t) (fun u => ?_) rfl rfl rfl
  split <;> rfl

theorem sweep_freshIds (s : State) (hf : FreshIds s) : FreshIds (sweep s) :=
  hf.filter_trs rfl rfl rfl

theorem withdrawTrs_freshIds (p : Tr → Bool) (s : State) (hf : FreshIds s) : FreshIds (withdrawTrs p s) :=
  hf.filter_trs rfl rfl rfl

theorem leaveBehind_id (lb pb : Nat) (t : Tr) : (leaveBehind lb pb t).id = t.id := by
  unfold leaveBehind
  split <;> rfl

/-- A migration ends: its transfers leave beats behind at the retired bank. -/
theorem finishMig_freshIds (m : Mig) (held : Option PowReq) (tail : Option Mig) (s : State) (hf : FreshIds s) :
    FreshIds (finishMig m held tail s) := by
  unfold finishMig
  dsimp only
  rw [FreshIds.of_only (fwdDone_only _ _ _ _ _ _) rfl]
  have hd : ∀ s, FreshIds s → FreshIds (setRegF (0x7100 + 4 * (m.lb / 4 % 24)) (8 * (m.lb % 4) + 7) (8 * (m.lb % 4)) m.pb s) :=
    fun s => (FreshIds.of_only (setRegF_only _ _ _ _ _) rfl).mpr
  split <;>
    simp only [FreshIds.of_only (setPow_only _ _ _) rfl, FreshIds.of_only (orReg_only _ _ _) rfl,
      FreshIds.of_only (clrReg_only _ _ _) rfl] <;>
    exact dropJobs_freshIds _ _ (hd _ (hf.map_trs (leaveBehind_id _ _) rfl rfl rfl))

theorem eraseBuffers_freshIds (s : State) : FreshIds (eraseBuffers s) :=
  (freshIds_iff _).mpr ⟨⟨List.nodup_nil, fun _ h => absurd h List.not_mem_nil⟩, ⟨List.nodup_nil,
    fun _ h => absurd h List.not_mem_nil⟩⟩

theorem powerOnReset_freshIds (s : State) : FreshIds (powerOnReset s) :=
  (freshIds_iff _).mpr ⟨⟨List.nodup_nil, fun _ h => absurd h List.not_mem_nil⟩, ⟨List.nodup_nil,
    fun _ h => absurd h List.not_mem_nil⟩⟩

theorem tileReset_freshIds (cause : Nat) (s : State) : FreshIds (tileReset cause s) := by
  simp only [tileReset, FreshIds.of_only (setReg_only _ _ _) rfl, FreshIds.forEach_iff, implies_true]
  exact (freshIds_iff _).mpr ⟨⟨List.nodup_nil, fun _ h => absurd h List.not_mem_nil⟩, ⟨List.nodup_nil,
    fun _ h => absurd h List.not_mem_nil⟩⟩

theorem dropSlip_freshIds (sid : Nat) (s : State) (hf : FreshIds s) : FreshIds (dropSlip sid s) := by
  unfold dropSlip
  split
  · split
    · rw [FreshIds.of_only (watchRelease_only _ _) rfl]
      exact hf.filter_live rfl rfl rfl
    · exact hf
  · exact hf

theorem dropFlits_freshIds (lane : Nat) (t : Tr) (s : State) (hf : FreshIds s) : FreshIds (dropFlits lane t s) := by
  unfold dropFlits
  dsimp only
  split
  · exact dropTr_freshIds t.id s hf
  · exact (setTr_freshIds _ _).mpr hf

theorem flushQueue_freshIds (q : Nat) (s : State) (hf : FreshIds s) : FreshIds (flushQueue q s) := by
  unfold flushQueue
  simp only [FreshIds.when_iff, FreshIds.of_only (setRegF_only _ _ _ _ _) rfl, implies_true, updQueue_freshIds]
  split
  · split
    · exact hf.filter_live rfl rfl rfl
    · exact hf
  · exact hf

theorem beginSlip_freshIds (x : Slip) (s : State) (hx : x.sid = s.sq.nextSid) (hf : FreshIds s) : FreshIds (beginSlip x s) := by
  simp only [beginSlip, updQueue_freshIds, progress_freshIds]
  exact FreshIds.begin hx hf

/-- A slip that starts takes the identifier of a new one. -/
theorem startWith_freshIds (q t : Nat) (act : Slip → State → State) (s : State)
    (ha : ∀ x, x.sid = s.sq.nextSid → FreshIds (act x s)) (hf : FreshIds s) : FreshIds (startWith q t act s) := by
  unfold startWith
  split
  · exact ha _ rfl
  · exact hf

theorem endTail_freshIds (s : State) (hf : FreshIds s) : FreshIds (endTail s) := by
  simp only [endTail, dropJobs_freshIds, FreshIds.mk_iff, hf]

theorem offEndsMig_freshIds (pb target : Nat) (s : State) (hf : FreshIds s) : FreshIds (offEndsMig pb target s) := by
  unfold offEndsMig
  repeat' split
  all_goals simp only [finishMig_freshIds, endTail_freshIds, hf]

theorem cancelMig_freshIds (s : State) (hf : FreshIds s) : FreshIds (cancelMig s) := by
  unfold cancelMig
  dsimp only
  repeat' split
  all_goals simp only [endTail_freshIds, FreshIds.of_only (setPow_only _ _ _) rfl, dropJobs_freshIds,
    FreshIds.of_only (raise_only _ _) rfl, FreshIds.mk_iff, hf]

theorem execBankPowerdownStart_freshIds (bank : Nat) (s : State) (s' : State) (h : execBankPowerdownStart bank s = .next s') (hf
    : FreshIds s) : FreshIds s' := by
  injection h with h
  subst h
  repeat' split
  all_goals simp only [FreshIds.of_only (settleWb_only _ _ _) rfl, FreshIds.of_only (setPow_only _ _ _) rfl,
    offEndsMig_freshIds, hf]

theorem askTraceRows_freshIds (part : Bool) (n : Nat) (s : State) (hf : FreshIds s) : FreshIds (askTraceRows part n s) := by
  induction n generalizing s with
  | zero => exact hf
  | succ n ih =>
    unfold askTraceRows
    dsimp only
    split
    · exact hf
    · exact ih _ (FreshIds.addTr _ hf)

theorem writeTrace_freshIds (part : Bool) (s : State) (hf : FreshIds s) : FreshIds (writeTrace part s) := by
  unfold writeTrace
  split <;> simp only [askTraceRows_freshIds, hf]

theorem writeStopSlot_freshIds (r : Rec) (s : State) (hf : FreshIds s) : FreshIds (writeStopSlot r s) := by
  simp only [writeStopSlot, FreshIds.of_only (orReg_only _ _ _) rfl, FreshIds.addTr, FreshIds.mk_iff, hf]

theorem refuseRec_freshIds (r : Rec) (s : State) (hf : FreshIds s) : FreshIds (refuseRec r s) := by
  unfold refuseRec
  repeat' split
  all_goals simp only [writeStopSlot_freshIds, FreshIds.of_only (bump_only _ _ _) rfl,
    FreshIds.of_only (loseBuffer_only _ _) rfl, hf]

theorem acceptGap_freshIds (need : Nat) (s : State) (hf : FreshIds s) : FreshIds (acceptGap need s) := by
  unfold acceptGap
  dsimp only
  repeat' split
  all_goals simp only [FreshIds.of_only (acceptRec_only _ _) rfl, FreshIds.of_only (clrReg_only _ _ _) rfl, refuseRec_freshIds,
    FreshIds.mk_iff, hf]

theorem bufferRec_freshIds (r : Rec) (s : State) (hf : FreshIds s) : FreshIds (bufferRec r s) := by
  unfold bufferRec
  dsimp only
  repeat' split
  all_goals simp only [acceptGap_freshIds, refuseRec_freshIds, FreshIds.of_only (acceptRec_only _ _) rfl, hf]

theorem drainTrace_freshIds (n : Nat) (s : State) (hf : FreshIds s) : FreshIds (drainTrace n s) := by
  induction n generalizing s with
  | zero => exact hf
  | succ n ih =>
    unfold drainTrace
    split
    · exact hf
    next r rest _ =>
      dsimp only
      refine FreshIds.ite (ih _ ?_) hf
      split
      · refine writeTrace_freshIds _ _ (bufferRec_freshIds _ _ ?_)
        exact (FreshIds.of_only (egressRec_only r _) rfl).mpr hf
      · refine bufferRec_freshIds _ _ ?_
        exact (FreshIds.of_only (egressRec_only r _) rfl).mpr hf

theorem execCollect_freshIds (s : State) (s' : State) (h : execCollect s = .next s') (hf : FreshIds s) : FreshIds s' := by
  injection h with h
  subst h
  split <;> simp only [FreshIds.of_only (collectGo_only _ _) rfl, drainTrace_freshIds, FreshIds.mk_iff, hf]

theorem execTraceRowWrite_freshIds (s : State) (s' : State) (h : execTraceRowWrite s = .next s') (hf : FreshIds s) :
    FreshIds s' := by
  injection h with h
  subst h
  split <;> simp only [writeTrace_freshIds, hf]

theorem execTraceRowTimeout_freshIds (s : State) (s' : State) (h : execTraceRowTimeout s = .next s') (hf : FreshIds s) :
    FreshIds s' := by
  injection h with h
  subst h
  split <;> simp only [writeTrace_freshIds, hf]

theorem execTraceFlush_freshIds (a : BusAcc) (s : State) (s' : State) (h : execTraceFlush a s = .next s') (hf : FreshIds s) :
    FreshIds s' := by
  injection h with h
  subst h
  simp +contextual only [busWrite_freshIds, writeTrace_freshIds, implies_true, hf]

theorem startTrace_freshIds (s : State) (hf : FreshIds s) : FreshIds (startTrace s) := by
  simp only [startTrace, dropJobs_freshIds, FreshIds.of_only (setReg_only _ _ _) rfl, FreshIds.of_only (clrReg_only _ _ _) rfl,
    FreshIds.of_only (orReg_only _ _ _) rfl, FreshIds.of_only (genTime_only _ _ _) rfl, FreshIds.mk_iff, FreshIds.forEach_iff,
    FreshIds.when_iff, implies_true, hf]

theorem writeTraceCtl_freshIds (w : Word) (s : State) (hf : FreshIds s) : FreshIds (writeTraceCtl w s) := by
  unfold writeTraceCtl
  dsimp only
  repeat' split
  all_goals simp only [FreshIds.of_only (orReg_only _ _ _) rfl, FreshIds.of_only (setReg_only _ _ _) rfl, startTrace_freshIds,
    writeTrace_freshIds, hf]

theorem execTraceEnable_freshIds (a : BusAcc) (w : Word) (s : State) (s' : State) (h : execTraceEnable a w s = .next s') (hf :
    FreshIds s) : FreshIds s' := by
  injection h with h
  subst h
  simp +contextual only [busWrite_freshIds, writeTraceCtl_freshIds, implies_true, hf]

theorem execTraceDisable_freshIds (a : BusAcc) (w : Word) (s : State) (s' : State) (h : execTraceDisable a w s = .next s') (hf :
    FreshIds s) : FreshIds s' := by
  injection h with h
  subst h
  simp +contextual only [busWrite_freshIds, writeTraceCtl_freshIds, implies_true, hf]

theorem clearWatch_freshIds (u : Nat) (s : State) (hf : FreshIds s) : FreshIds (clearWatch u s) := by
  simp only [clearWatch, FreshIds.of_only (setWatch_only _ _ _) rfl, dropJobs_freshIds, hf]

theorem disarm_freshIds (u : Nat) (s : State) (hf : FreshIds s) : FreshIds (disarm u s) := by
  simp only [disarm, FreshIds.of_only (setRegF_only _ _ _ _ _) rfl, clearWatch_freshIds, hf]

theorem writeWuCfg_freshIds (u : Nat) (w : Word) (s : State) (hf : FreshIds s) : FreshIds (writeWuCfg u w s) := by
  unfold writeWuCfg
  dsimp only
  repeat' split
  all_goals simp +contextual (maxDischargeDepth := 30) only [disarm_freshIds, FreshIds.of_only (orReg_only _ _ _) rfl,
    FreshIds.of_only (setReg_only _ _ _) rfl, clearWatch_freshIds, FreshIds.when, implies_true, hf]

theorem execWatchArm_freshIds (a : BusAcc) (u : BitVec 2) (w : Word) (s : State) (s' : State) (h : execWatchArm a u w s = .next
    s') (hf : FreshIds s) : FreshIds s' := by
  injection h with h
  subst h
  simp +contextual only [busWrite_freshIds, writeWuCfg_freshIds, implies_true, hf]

theorem execWatchDisarm_freshIds (a : BusAcc) (u : BitVec 2) (w : Word) (s : State) (s' : State) (h : execWatchDisarm a u w s =
    .next s') (hf : FreshIds s) : FreshIds s' := by
  injection h with h
  subst h
  simp +contextual only [busWrite_freshIds, writeWuCfg_freshIds, implies_true, hf]

theorem watchRelock_freshIds (s : State) (hf : FreshIds s) : FreshIds (watchRelock s) := by
  refine FreshIds.forEach (fun u s hs => ?_) hf
  split
  · exact hs
  · exact disarm_freshIds u s hs

theorem askDump_freshIds (s : State) (hf : FreshIds s) : FreshIds (askDump s) := by
  unfold askDump
  dsimp only
  repeat' split
  all_goals simp only [FreshIds.addTr, FreshIds.mk_iff, hf]

theorem dumped_freshIds (u : Nat) (failed : Bool) (s : State) (hf : FreshIds s) : FreshIds (dumped u failed s) := by
  unfold dumped
  split <;> simp only [clearWatch_freshIds, FreshIds.of_only (setWatch_only _ _ _) rfl, FreshIds.of_only (orReg_only _ _ _) rfl,
    FreshIds.of_only (raise_only _ _) rfl, hf]

theorem writeRdaddr_freshIds (l : Nat) (w : Word) (s : State) (hf : FreshIds s) : FreshIds (writeRdaddr l w s) := by
  unfold writeRdaddr
  dsimp only
  split <;> simp only [FreshIds.of_only (orReg_only _ _ _) rfl, FreshIds.addTr, FreshIds.of_only (setReg_only _ _ _) rfl,
    FreshIds.of_only (setRegF_only _ _ _ _ _) rfl, FreshIds.mk_iff, hf]

theorem execWatchReadout_freshIds (a : BusAcc) (w : Word) (s : State) (s' : State) (h : execWatchReadout a w s = .next s') (hf :
    FreshIds s) : FreshIds s' := by
  injection h with h
  subst h
  simp +contextual only [busWrite_freshIds, writeRdaddr_freshIds, implies_true, hf]

theorem execWatchReadoutDone_freshIds (s : State) (s' : State) (h : execWatchReadoutDone s = .next s') (hf : FreshIds s) :
    FreshIds s' := by
  injection h with h
  subst h
  repeat' split
  all_goals simp only [dropTr_freshIds, FreshIds.of_only (finishReadout_only _ _) rfl, hf]

theorem execReadFlitOutput_freshIds (lane : Nat) (par : Parity) (blpar : Mask4) (s : State) (s' : State) (h : execReadFlitOutput
    lane par blpar s = .next s') (hf : FreshIds s) : FreshIds s' := by
  injection h with h
  subst h
  dsimp only
  split
  next s2 hs2 =>
    have h2 : FreshIds s2 := by
      split at hs2
      · exact (emitNext_freshIds _ _ _ _ hs2).mpr hf
      · split at hs2
        · cases hs2
        · split at hs2
          · exact (passBeat_freshIds _ _ _ _ _ _ _ hs2).mpr hf
          · cases hs2
    split
    · exact h2
    · exact hf
  · exact hf

theorem startPurge_freshIds (s : State) (hf : FreshIds s) : FreshIds (startPurge s) := by
  simp only [startPurge, cancelMig_freshIds, FreshIds.of_only (purgeProposal_only _) rfl,
    FreshIds.of_only (setRegF_only _ _ _ _ _) rfl, FreshIds.mk_iff, hf]

theorem unlock_freshIds (w : Word) (s : State) (hf : FreshIds s) : FreshIds (unlock w s) := by
  unfold unlock
  repeat' split
  all_goals simp only [FreshIds.of_only (orReg_only _ _ _) rfl, FreshIds.of_only (raise_only _ _) rfl, startPurge_freshIds, hf]

theorem execUnlock_freshIds (a : BusAcc) (w : Word) (s : State) (s' : State) (h : execUnlock a w s = .next s') (hf : FreshIds s)
    : FreshIds s' := by
  injection h with h
  subst h
  simp +contextual only [busWrite_freshIds, unlock_freshIds, implies_true, hf]

theorem relock_freshIds (w : Word) (s : State) (hf : FreshIds s) : FreshIds (relock w s) := by
  unfold relock
  split <;> simp only [FreshIds.of_only (clrReg_only _ _ _) rfl, watchRelock_freshIds, hf]

theorem execRelock_freshIds (a : BusAcc) (w : Word) (s : State) (s' : State) (h : execRelock a w s = .next s') (hf : FreshIds s)
    : FreshIds s' := by
  injection h with h
  subst h
  simp +contextual only [busWrite_freshIds, relock_freshIds, implies_true, hf]

theorem purgeAll_freshIds (s : State) (_hf : FreshIds s) : FreshIds (purgeAll s) := by
  simp only [purgeAll, eraseBuffers_freshIds, FreshIds.of_only (dropRing_only _ _) rfl,
    FreshIds.of_only (setReg_only _ _ _) rfl, FreshIds.of_only (purgeTrace_only _) rfl,
    FreshIds.of_only (purgeProposal_only _) rfl, FreshIds.of_only (raise_only _ _) rfl, FreshIds.forEach_iff, implies_true]

theorem execPurgeComplete_freshIds (s : State) (s' : State) (h : execPurgeComplete s = .next s') (hf : FreshIds s) :
    FreshIds s' := by
  injection h with h
  subst h
  split <;> simp only [purgeAll_freshIds, hf]

theorem refusedFlits_freshIds (req ctx client rl n : Nat) (s : State) (hf : FreshIds s) :
    FreshIds (refusedFlits req ctx client rl n s) := by
  simp only [refusedFlits, FreshIds.addTr, hf]

theorem refuseRq_freshIds (wr : Bool) (lane r kind : Nat) (s : State) (hf : FreshIds s) :
    FreshIds (refuseRq wr lane r kind s) := by
  unfold refuseRq
  dsimp only
  repeat' split
  all_goals simp +contextual only [FreshIds.of_only (bump_only _ _ _) rfl, FreshIds.of_only (fillLog1_only _ _ _) rfl,
    FreshIds.of_only (raise_only _ _) rfl, refusedFlits_freshIds, FreshIds.addTr, FreshIds.when, implies_true, hf]

theorem takeRq_freshIds (wr : Bool) (lane r : Nat) (s : State) (hf : FreshIds s) : FreshIds (takeRq wr lane r s) := by
  unfold takeRq
  split <;> simp only [refuseRq_freshIds, FreshIds.addTr, hf]

theorem drainChan_freshIds (wr : Bool) (lane : Nat) (s : State) (hf : FreshIds s) : FreshIds (drainChan wr lane s) := by
  unfold drainChan
  split <;> simp +contextual only [takeRq_freshIds, setChan_freshIds, FreshIds.forEach, implies_true, hf]

theorem presentRq_freshIds (wr : Bool) (lane : Nat) (rq : BitVec 64) (s : State) (hf : FreshIds s) :
    FreshIds (presentRq wr lane rq s) := by
  unfold presentRq
  dsimp only
  split <;> simp only [setChan_freshIds, drainChan_freshIds, hf]

theorem execOwnReadRequest_freshIds (onWr : Bool) (lane : Nat) (rq : BitVec 64) (s : State) (s' : State) (h : execOwnReadRequest
    onWr lane rq s = .next s') (hf : FreshIds s) : FreshIds s' := by
  injection h with h
  subst h
  simp only [presentRq_freshIds, hf]

theorem execOwnWriteRequest_freshIds (onWr : Bool) (lane : Nat) (rq : BitVec 64) (s : State) (s' : State) (h :
    execOwnWriteRequest onWr lane rq s = .next s') (hf : FreshIds s) : FreshIds s' := by
  injection h with h
  subst h
  simp only [presentRq_freshIds, hf]

theorem execOwnAtomicRequest_freshIds (onWr : Bool) (lane : Nat) (rq : BitVec 64) (s : State) (s' : State) (h :
    execOwnAtomicRequest onWr lane rq s = .next s') (hf : FreshIds s) : FreshIds s' := by
  injection h with h
  subst h
  simp only [presentRq_freshIds, hf]

theorem execWriteFlitTaken_freshIds (lane : Nat) (data : Row) (sb : BitVec 81) (s : State) (s' : State) (h : execWriteFlitTaken
    lane data sb s = .next s') (hf : FreshIds s) : FreshIds s' := by
  injection h with h
  subst h
  split <;> simp only [updWlane_freshIds, FreshIds.of_only (estimate_only _ _ _) rfl, hf]

theorem execDcqCrossing_freshIds (kind : DcqKind) (lane : Nat) (s : State) (s' : State) (h : execDcqCrossing kind lane s = .next
    s') (hf : FreshIds s) : FreshIds s' := by
  injection h with h
  subst h
  dsimp only
  repeat' split
  all_goals simp only [updRlane_freshIds, updWlane_freshIds, drainChan_freshIds, setChan_freshIds, hf]

theorem execReadFlitTake_freshIds (lane : Nat) (s : State) (s' : State) (h : execReadFlitTake lane s = .next s') (hf : FreshIds
    s) : FreshIds s' := by
  injection h with h
  subst h
  dsimp only
  repeat' split
  all_goals simp only [setRlane_freshIds, updSlip_freshIds, progress_freshIds, dropSlip_freshIds, setSlane_sid, implies_true, hf]

theorem execWriteFlitToStaging_freshIds (lane : Nat) (par : Mask4) (s : State) (s' : State) (h : execWriteFlitToStaging lane par
    s = .next s') (hf : FreshIds s) : FreshIds s' := by
  injection h with h
  subst h
  dsimp only
  repeat' split
  all_goals simp only [moveToStaging_freshIds, hf]

theorem issueTr_freshIds (t : Tr) (s : State) (hf : FreshIds s) : FreshIds (issueTr t s) := by
  unfold issueTr
  dsimp only
  repeat' split
  all_goals simp only [setTr_freshIds, joinOrders_freshIds, takeClaim_freshIds, FreshIds.addTr, updSlip_freshIds, implies_true,
    hf]

theorem issueGo_freshIds (l : List Tr) (s : State) (hf : FreshIds s) : FreshIds (issueGo l s) := by
  induction l generalizing s with
  | nil => exact hf
  | cons t ts ih =>
    unfold issueGo
    dsimp only
    split
    · exact ih s hf
    · exact ih _ (issueTr_freshIds t _ hf)

theorem execLaneIssue_freshIds (s : State) (s' : State) (h : execLaneIssue s = .next s') (hf : FreshIds s) : FreshIds s' := by
  injection h with h
  subst h
  split <;> simp only [issueGo_freshIds, hf]

theorem execWriteTransferRequest_freshIds (lane : Nat) (s : State) (s' : State) (h : execWriteTransferRequest lane s = .next s')
    (hf : FreshIds s) : FreshIds s' := by
  injection h with h
  subst h
  dsimp only
  repeat' split
  all_goals simp only [slipRequest_freshIds, dropFlits_freshIds, giveRows_freshIds, hf]

theorem startBank_freshIds (lb : Nat) (s : State) (hf : FreshIds s) : FreshIds (startBank lb s) := by
  unfold startBank
  dsimp only
  repeat' split
  all_goals simp only [FreshIds.of_only (unpend_only _ _ _) rfl, FreshIds.of_only (orReg_only _ _ _) rfl,
    FreshIds.of_only (raise_only _ _) rfl, finishMig_freshIds, FreshIds.of_only (setPow_only _ _ _) rfl, FreshIds.mk_iff, hf]

theorem execFwdStart_freshIds (kind : FwdKind) (s : State) (s' : State) (h : execFwdStart kind s = .next s') (hf : FreshIds s) :
    FreshIds s' := by
  injection h with h
  subst h
  repeat' split
  all_goals simp only [startBank_freshIds, FreshIds.of_only (startPlane_only _ _ _) rfl,
    FreshIds.of_only (startCluster_only _ _) rfl, FreshIds.of_only (startRow_only _ _) rfl, hf]

theorem execCopyRow_freshIds (ups : List Upset) (s : State) (s' : State) (h : execCopyRow ups s = .next s') (hf : FreshIds s) :
    FreshIds s' := by
  injection h with h
  subst h
  dsimp only
  repeat' split
  all_goals simp only [FreshIds.of_only (strikeRow_only _ _ _ _) rfl, FreshIds.addTr, hf]

theorem copyRead_freshIds (b : Beat) (s : State) (hf : FreshIds s) : FreshIds (copyRead b s) := by
  unfold copyRead
  split <;> simp only [FreshIds.of_only (setMig_only _ _) rfl, FreshIds.addTr, hf]

theorem askDual_freshIds (s : State) (hf : FreshIds s) : FreshIds (askDual s) := by
  unfold askDual
  dsimp only
  repeat' split
  all_goals simp only [FreshIds.addTr, hf]

theorem execMigrationSwitch_freshIds (s : State) (s' : State) (h : execMigrationSwitch s = .next s') (hf : FreshIds s) :
    FreshIds s' := by
  injection h with h
  subst h
  repeat' split
  all_goals simp only [finishMig_freshIds, hf]

theorem settleMig_freshIds (s : State) (hf : FreshIds s) : FreshIds (settleMig s) := by
  unfold settleMig
  repeat' split
  all_goals simp only [FreshIds.of_only (setMig_only _ _) rfl, endTail_freshIds, hf]

theorem commandCancel_freshIds (s : State) (hf : FreshIds s) : FreshIds (commandCancel s) := by
  unfold commandCancel
  repeat' split
  all_goals simp only [cancelMig_freshIds, FreshIds.of_only (refuseFwd_only _) rfl, hf]

theorem execFwdCancel_freshIds (a : BusAcc) (s : State) (s' : State) (h : execFwdCancel a s = .next s') (hf : FreshIds s) :
    FreshIds s' := by
  injection h with h
  subst h
  simp +contextual only [busWrite_freshIds, commandCancel_freshIds, implies_true, hf]

theorem execSlipCommit_freshIds (a : BusAcc) (q : BitVec 6) (w : Word) (s : State) (s' : State) (h : execSlipCommit a q w s =
    .next s') (hf : FreshIds s) : FreshIds s' := by
  injection h with h
  subst h
  simp only [busWrite_freshIds, commitSlip_freshIds, implies_true, imp_self, hf]

theorem execFetchOrder_freshIds (q : BitVec 6) (s : State) (s' : State) (h : execFetchOrder q s = .next s') (hf : FreshIds s) :
    FreshIds s' := by
  injection h with h
  subst h
  dsimp only
  split <;> simp only [updQueue_freshIds, updRlane_freshIds, land_freshIds, hf]

theorem execSlipDecode_freshIds (q : BitVec 6) (s : State) (s' : State) (h : execSlipDecode q s = .next s') (hf : FreshIds s) :
    FreshIds s' := by
  injection h with h
  subst h
  dsimp only
  repeat' split
  all_goals simp only [markDecoded_freshIds, settleHead_freshIds, hf]

theorem beginData_freshIds (path : Nat) (x : Slip) (s : State) (hx : x.sid = s.sq.nextSid) (hf : FreshIds s) :
    FreshIds (beginData path x s) := by
  simp only [beginData, FreshIds.of_only (sbegin_only _ _) rfl, FreshIds.of_only (watchMatch_only _ _) rfl,
    beginSlip_freshIds _ _ hx hf]

theorem endSlip_freshIds (sid : Nat) (s : State) (hf : FreshIds s) : FreshIds (endSlip sid s) := by
  unfold endSlip
  split <;> simp only [updSlip_freshIds, dropClaim_freshIds, updQueue_freshIds, FreshIds.of_only (bump_only _ _ _) rfl,
    FreshIds.of_only (xbump_only _ _ _) rfl, progress_freshIds, maybeSend_freshIds, stopOnFault_freshIds, settleHead_freshIds,
    dropSlip_freshIds, implies_true, hf]

theorem execSlipEnd_freshIds (q : BitVec 6) (s : State) (s' : State) (h : execSlipEnd q s = .next s') (hf : FreshIds s) :
    FreshIds s' := by
  injection h with h
  subst h
  repeat' split
  all_goals simp only [endSlip_freshIds, hf]

theorem execNop_freshIds (q : BitVec 6) (s : State) (s' : State) (h : execNop q s = .next s') (hf : FreshIds s) :
    FreshIds s' := by
  injection h with h
  subst h
  simp +contextual (maxDischargeDepth := 30) only [startWith_freshIds, beginSlip_freshIds, endSlip_freshIds, implies_true, hf]

theorem execRead_freshIds (q : BitVec 6) (s : State) (s' : State) (h : execRead q s = .next s') (hf : FreshIds s) :
    FreshIds s' := by
  injection h with h
  subst h
  refine startWith_freshIds _ _ _ _ (fun x hx => ?_) hf
  exact (FreshIds.when_iff (askSlots_freshIds x.sid)).mpr (beginData_freshIds 0 x s hx hf)

theorem execWrite_freshIds (q : BitVec 6) (s : State) (s' : State) (h : execWrite q s = .next s') (hf : FreshIds s) :
    FreshIds s' := by
  injection h with h
  subst h
  refine startWith_freshIds _ _ _ _ (fun x hx => ?_) hf
  exact (FreshIds.when_iff (askSlots_freshIds x.sid)).mpr (beginData_freshIds 1 x s hx hf)

theorem execMove_freshIds (q : BitVec 6) (s : State) (s' : State) (h : execMove q s = .next s') (hf : FreshIds s) :
    FreshIds s' := by
  injection h with h
  subst h
  refine startWith_freshIds _ _ _ _ (fun x hx => ?_) hf
  exact (FreshIds.when_iff (askSlots_freshIds x.sid)).mpr (beginData_freshIds 1 x s hx hf)

theorem execHeld_freshIds (q : BitVec 6) (s : State) (s' : State) (h : execHeld q s = .next s') (hf : FreshIds s) :
    FreshIds s' := by
  injection h with h
  subst h
  refine startWith_freshIds _ _ _ _ (fun x hx => ?_) hf
  have hb := beginData_freshIds 0 { x with held := some newHeld } s hx hf
  simp only [FreshIds.mk_iff, FreshIds.of_only (setReg_only _ _ _) rfl, hb]

theorem execAtomic_freshIds (q : BitVec 6) (s : State) (s' : State) (h : execAtomic q s = .next s') (hf : FreshIds s) :
    FreshIds s' := by
  injection h with h
  subst h
  simp +contextual only [startWith_freshIds, beginSlip_freshIds, FreshIds.of_only (sbegin_only _ _) rfl, implies_true, hf]

theorem execWait_freshIds (q : BitVec 6) (s : State) (s' : State) (h : execWait q s = .next s') (hf : FreshIds s) :
    FreshIds s' := by
  injection h with h
  subst h
  simp +contextual only [startWith_freshIds, beginSlip_freshIds, FreshIds.of_only (sbegin_only _ _) rfl, implies_true, hf]

theorem execWaitReached_freshIds (q : BitVec 6) (s : State) (s' : State) (h : execWaitReached q s = .next s') (hf : FreshIds s) :
    FreshIds s' := by
  injection h with h
  subst h
  repeat' split
  all_goals simp only [updSlip_freshIds, implies_true, hf]

theorem execSignal_freshIds (q : BitVec 6) (s : State) (s' : State) (h : execSignal q s = .next s') (hf : FreshIds s) :
    FreshIds s' := by
  injection h with h
  subst h
  simp +contextual (maxDischargeDepth := 30) only [startWith_freshIds, beginSlip_freshIds,
    FreshIds.of_only (tallyAdd_only _ _ _) rfl, endSlip_freshIds, FreshIds.forEach_iff, implies_true, hf]

theorem execMark_freshIds (q : BitVec 6) (s : State) (s' : State) (h : execMark q s = .next s') (hf : FreshIds s) :
    FreshIds s' := by
  injection h with h
  subst h
  simp +contextual (maxDischargeDepth := 30) only [startWith_freshIds, beginSlip_freshIds,
    FreshIds.of_only (genRec_only _ _ _) rfl, FreshIds.of_only (traceTrigger_only _ _ _) rfl, endSlip_freshIds,
    FreshIds.when_iff, implies_true, hf]

theorem execHint_freshIds (q : BitVec 6) (s : State) (s' : State) (h : execHint q s = .next s') (hf : FreshIds s) :
    FreshIds s' := by
  injection h with h
  subst h
  simp +contextual (maxDischargeDepth := 30) only [startWith_freshIds, beginSlip_freshIds,
    FreshIds.of_only (addHint_only _ _) rfl, FreshIds.of_only (bump_only _ _ _) rfl, endSlip_freshIds, implies_true, hf]

theorem execFence_freshIds (q : BitVec 6) (s : State) (s' : State) (h : execFence q s = .next s') (hf : FreshIds s) :
    FreshIds s' := by
  injection h with h
  subst h
  simp +contextual only [startWith_freshIds, beginSlip_freshIds, FreshIds.of_only (sbegin_only _ _) rfl, implies_true, hf]

theorem execFenceMet_freshIds (q : BitVec 6) (s : State) (s' : State) (h : execFenceMet q s = .next s') (hf : FreshIds s) :
    FreshIds s' := by
  injection h with h
  subst h
  repeat' split
  all_goals simp only [updSlip_freshIds, endSlip_freshIds, implies_true, hf]

theorem execStep_freshIds (q : BitVec 6) (s : State) (s' : State) (h : execStep q s = .next s') (hf : FreshIds s) :
    FreshIds s' := by
  injection h with h
  subst h
  simp +contextual (maxDischargeDepth := 30) only [startWith_freshIds, beginSlip_freshIds,
    FreshIds.of_only (setReg_only _ _ _) rfl, FreshIds.of_only (genRec_only _ _ _) rfl, endSlip_freshIds, implies_true, hf]

theorem execQueueResume_freshIds (a : BusAcc) (q : BitVec 6) (s : State) (s' : State) (h : execQueueResume a q s = .next s') (hf
    : FreshIds s) : FreshIds s' := by
  injection h with h
  subst h
  simp only [busWriteFor_freshIds, resumeQueue_freshIds, implies_true, imp_self, hf]

theorem execQueueSkip_freshIds (a : BusAcc) (q : BitVec 6) (s : State) (s' : State) (h : execQueueSkip a q s = .next s') (hf :
    FreshIds s) : FreshIds s' := by
  injection h with h
  subst h
  simp only [busWriteFor_freshIds, skipQueue_freshIds, implies_true, imp_self, hf]

theorem execQueueFlush_freshIds (a : BusAcc) (q : BitVec 6) (s : State) (s' : State) (h : execQueueFlush a q s = .next s') (hf :
    FreshIds s) : FreshIds s' := by
  injection h with h
  subst h
  simp +contextual only [busWriteFor_freshIds, flushQueue_freshIds, implies_true, hf]

theorem execQueuePause_freshIds (a : BusAcc) (q : BitVec 6) (s : State) (s' : State) (h : execQueuePause a q s = .next s') (hf :
    FreshIds s) : FreshIds s' := by
  injection h with h
  subst h
  simp only [busWriteFor_freshIds, pauseQueue_freshIds, implies_true, imp_self, hf]

theorem execBlendSlotAlloc_freshIds (s : State) (s' : State) (h : execBlendSlotAlloc s = .next s') (hf : FreshIds s) :
    FreshIds s' := by
  injection h with h
  subst h
  repeat' split
  all_goals simp only [updSlip_freshIds, FreshIds.mk_iff, implies_true, hf]

theorem execVectorLoadDone_freshIds (q : BitVec 6) (s : State) (s' : State) (h : execVectorLoadDone q s = .next s') (hf :
    FreshIds s) : FreshIds s' := by
  injection h with h
  subst h
  repeat' split
  all_goals simp only [updSlip_freshIds, implies_true, hf]

theorem execHoldReservation_freshIds (s : State) (s' : State) (h : execHoldReservation s = .next s') (hf : FreshIds s) :
    FreshIds s' := by
  injection h with h
  subst h
  dsimp only
  repeat' split
  all_goals simp only [updHeld_freshIds, FreshIds.mk_iff, hf]

theorem execTileAdmit_freshIds (q : BitVec 6) (s : State) (s' : State) (h : execTileAdmit q s = .next s') (hf : FreshIds s) :
    FreshIds s' := by
  injection h with h
  subst h
  dsimp only
  repeat' split
  all_goals simp only [updHeld_freshIds, progress_freshIds, hf]

theorem execTileRelease_freshIds (q : BitVec 6) (s : State) (s' : State) (h : execTileRelease q s = .next s') (hf : FreshIds s) :
    FreshIds s' := by
  injection h with h
  subst h
  dsimp only
  repeat' split
  all_goals simp only [updHeld_freshIds, FreshIds.of_only (tallyAdd_only _ _ _) rfl, FreshIds.when_iff, implies_true, hf]

theorem execStatsReady_freshIds (q : BitVec 6) (par : Bool) (s : State) (s' : State) (h : execStatsReady q par s = .next s') (hf
    : FreshIds s) : FreshIds s' := by
  injection h with h
  subst h
  dsimp only
  repeat' split
  all_goals simp +contextual only [FreshIds.addTr, updHeld_freshIds, FreshIds.of_only (statParity_only _ _) rfl,
    askSlots_freshIds, FreshIds.when_iff, FreshIds.when, implies_true, hf]

theorem execRedeliveryStart_freshIds (q : BitVec 6) (s : State) (s' : State) (h : execRedeliveryStart q s = .next s') (hf :
    FreshIds s) : FreshIds s' := by
  injection h with h
  subst h
  dsimp only
  repeat' split
  all_goals simp only [updHeld_freshIds, hf]

theorem execHoldRelease_freshIds (q : BitVec 6) (s : State) (s' : State) (h : execHoldRelease q s = .next s') (hf : FreshIds s) :
    FreshIds s' := by
  injection h with h
  subst h
  dsimp only
  repeat' split
  all_goals simp only [freeHold_freshIds, hf]

theorem cancelWork_freshIds (q : Nat) (s : State) (hf : FreshIds s) : FreshIds (cancelWork q s) := by
  unfold cancelWork
  dsimp only
  repeat' split
  all_goals simp only [withdrawTrs_freshIds, FreshIds.mk_iff, hf]

theorem cancelHeld_freshIds (l : Nat) (w : Word) (s : State) (hf : FreshIds s) : FreshIds (cancelHeld l w s) := by
  unfold cancelHeld
  dsimp only
  repeat' split
  all_goals simp only [FreshIds.of_only (orReg_only _ _ _) rfl, updHeld_freshIds, updSlip_freshIds, cancelWork_freshIds,
    FreshIds.mk_iff, FreshIds.when_iff, implies_true, hf]

theorem resumeCancels_freshIds (s : State) (hf : FreshIds s) : FreshIds (resumeCancels s) := by
  simp +contextual only [resumeCancels, cancelWork_freshIds, FreshIds.mk_iff, FreshIds.forEach, implies_true, hf]

theorem execHeldCancel_freshIds (a : BusAcc) (w : Word) (s : State) (s' : State) (h : execHeldCancel a w s = .next s') (hf :
    FreshIds s) : FreshIds s' := by
  injection h with h
  subst h
  simp +contextual only [busWrite_freshIds, cancelHeld_freshIds, implies_true, hf]

theorem execHeldCancelEnd_freshIds (q : BitVec 6) (s : State) (s' : State) (h : execHeldCancelEnd q s = .next s') (hf : FreshIds
    s) : FreshIds s' := by
  injection h with h
  subst h
  dsimp only
  repeat' split
  all_goals simp only [FreshIds.of_only (tallyAdd_only _ _ _) rfl, dropSlots_freshIds, freeHold_freshIds, updSlip_freshIds,
    FreshIds.of_only (slipLog_only _ _ _ _ _ _) rfl, FreshIds.of_only (raise_only _ _) rfl, endSlip_freshIds, FreshIds.when_iff,
    implies_true, hf]

theorem askRead_freshIds (p : Nat) (s : State) (hf : FreshIds s) : FreshIds (askRead p s) := by
  unfold askRead
  dsimp only
  repeat' split
  all_goals simp only [FreshIds.addTr, FreshIds.of_only (setOp_only _ _) rfl, hf]

theorem askWrite_freshIds (p : Nat) (s : State) (hf : FreshIds s) : FreshIds (askWrite p s) := by
  unfold askWrite
  dsimp only
  repeat' split
  all_goals simp only [FreshIds.addTr, FreshIds.of_only (setOp_only _ _) rfl, hf]

theorem askRows_freshIds (s : State) (hf : FreshIds s) : FreshIds (askRows s) := by
  unfold askRows
  split <;> simp +contextual (maxDischargeDepth := 30) only [askRead_freshIds, askWrite_freshIds, FreshIds.forEach,
    implies_true, hf]

theorem execIntakeFlit_freshIds (lane : Bool) (s : State) (s' : State) (h : execIntakeFlit lane s = .next s') (hf : FreshIds s) :
    FreshIds s' := by
  injection h with h
  subst h
  dsimp only
  repeat' split
  all_goals simp only [popWdcq_freshIds, FreshIds.of_only (takeIn_only _ _ _ _) rfl, hf]

theorem dropBucket_freshIds (b : Nat) (s : State) (hf : FreshIds s) : FreshIds (dropBucket b s) := by
  simp only [dropBucket, dropJobs_freshIds, FreshIds.of_only (holeFreed_only _ _) rfl,
    FreshIds.of_only (dropFlit_only _ _ _) rfl, FreshIds.of_only (freeSlot_only _ _) rfl,
    FreshIds.of_only (setNg_only _ _ _) rfl, FreshIds.of_only (updBkt_only _ _ _) rfl, FreshIds.of_only (raise_only _ _) rfl,
    FreshIds.mk_iff, FreshIds.forEach_iff, FreshIds.when_iff, implies_true, hf]

theorem abortBucket_freshIds (l b : Nat) (s : State) (hf : FreshIds s) : FreshIds (abortBucket l b s) := by
  unfold abortBucket
  repeat' split
  all_goals simp only [FreshIds.of_only (refuseBkt_only _ _ _) rfl, dropBucket_freshIds, hf]

theorem execAbort_freshIds (a : BusAcc) (bucket : BitVec 6) (s : State) (s' : State) (h : execAbort a bucket s = .next s') (hf :
    FreshIds s) : FreshIds s' := by
  injection h with h
  subst h
  simp +contextual only [busWrite_freshIds, abortBucket_freshIds, implies_true, hf]

theorem sendResult_freshIds (b f : Nat) (s : State) (hf : FreshIds s) : FreshIds (sendResult b f s) := by
  simp only [sendResult, FreshIds.addTr, FreshIds.of_only (updBkt_only _ _ _) rfl, FreshIds.mk_iff, hf]

theorem execResultSend_freshIds (bucket : BitVec 6) (s : State) (s' : State) (h : execResultSend bucket s = .next s') (hf :
    FreshIds s) : FreshIds s' := by
  injection h with h
  subst h
  dsimp only
  split <;> simp only [sendResult_freshIds, hf]

theorem execLandingToDcq_freshIds (lane : Nat) (s : State) (s' : State) (h : execLandingToDcq lane s = .next s') (hf : FreshIds
    s) : FreshIds s' := by
  injection h with h
  subst h
  dsimp only
  repeat' split
  all_goals simp only [FreshIds.of_only (sealFlit_only _ _ _) rfl, updRlane_freshIds,
    FreshIds.of_only (estimate_only _ _ _) rfl, FreshIds.of_only (resultDelivered_only _ _ _) rfl, updSlip_freshIds,
    progress_freshIds, setSlane_sid, implies_true, hf]

theorem askSide_freshIds (c : Nat) (s : State) (hf : FreshIds s) : FreshIds (askSide c s) := by
  unfold askSide
  dsimp only
  repeat' split
  all_goals simp only [FreshIds.addTr, updSlip_freshIds, setStream_sid, implies_true, hf]

theorem askScale_freshIds (sid l : Nat) (s : State) (hf : FreshIds s) : FreshIds (askScale sid l s) := by
  unfold askScale
  dsimp only
  repeat' split
  all_goals simp only [updSlip_freshIds, FreshIds.addTr, setSlane_sid, implies_true, hf]

theorem askChunk_freshIds (x : Slip) (s : State) (hf : FreshIds s) : FreshIds (askChunk x s) := by
  unfold askChunk
  dsimp only
  repeat' split
  all_goals simp only [FreshIds.addTr, hf]

theorem requestPark_freshIds (r : Nat) (s : State) (hf : FreshIds s) : FreshIds (requestPark r s) := by
  unfold requestPark
  dsimp only
  repeat' split
  all_goals simp only [FreshIds.addTr, updHeld_freshIds, hf]

theorem parkArrived_freshIds (x : Slip) (i : Nat) (data : Row) (pois : Mask4) (s : State) (hf : FreshIds s) :
    FreshIds (parkArrived x i data pois s) := by
  unfold parkArrived
  repeat' split
  all_goals simp +contextual only [updHeld_freshIds, drainRaw_freshIds, addPart_freshIds, progress_freshIds, FreshIds.addTr,
    FreshIds.when, implies_true, hf]

theorem jobDone_freshIds (t : Tr) (s : State) (hf : FreshIds s) : FreshIds (jobDone t s) := by
  unfold jobDone
  split <;> simp only [sideArrived_freshIds, vecArrived_freshIds, scaleArrived_freshIds, updSlip_freshIds, updHeld_freshIds,
    FreshIds.of_only (opRead_only _ _ _ _) rfl, FreshIds.of_only (opWritten_only _ _ _) rfl,
    FreshIds.of_only (advanceRing_only _ _) rfl, dumped_freshIds, copyRead_freshIds, FreshIds.of_only (copyWritten_only _) rfl,
    FreshIds.of_only (dualWritten_only _) rfl, implies_true, hf]

theorem settleGo_freshIds (l : List Nat) (s : State) (hf : FreshIds s) : FreshIds (settleGo l s) := by
  induction l generalizing s with
  | nil => exact hf
  | cons id ids ih =>
    unfold settleGo
    split
    · exact ih s hf
    · split
      · exact ih s hf
      · split
        · exact ih _ (jobDone_freshIds _ _ ((setTr_freshIds _ _).mpr hf))
        · exact hf

theorem settlePort_freshIds (req : Nat) (s : State) (hf : FreshIds s) : FreshIds (settlePort req s) := by
  simp only [settlePort, settleGo_freshIds, hf]

theorem fetchAhead_freshIds (s : State) (hf : FreshIds s) : FreshIds (fetchAhead s) := by
  simp +contextual (maxDischargeDepth := 30) only [fetchAhead, askSide_freshIds, askScale_freshIds, askChunk_freshIds,
    requestPark_freshIds, askRows_freshIds, askDump_freshIds, askDual_freshIds, FreshIds.forEach, implies_true, hf]

theorem preempt_freshIds (id : Nat) (s : State) (hf : FreshIds s) : FreshIds (preempt id s) := by
  unfold preempt
  dsimp only
  repeat' split
  all_goals simp only [dropTr_freshIds, setTr_freshIds, regroup_freshIds, FreshIds.of_only (bump_only _ _ _) rfl,
    FreshIds.forEach_iff, implies_true, hf]

theorem beatGone_freshIds (t : Tr) (b : Beat) (s : State) (hf : FreshIds s) : FreshIds (beatGone t b s) := by
  unfold beatGone
  repeat' split
  all_goals simp only [parkArrived_freshIds, parkWritten_freshIds, FreshIds.of_only (xbump_only _ _ _) rfl, FreshIds.when_iff,
    implies_true, hf]

theorem grantTr_freshIds (p : Plan) (s : State) (hf : FreshIds s) : FreshIds (grantTr p s) := by
  unfold grantTr
  dsimp only
  split <;> simp +contextual (maxDischargeDepth := 30) only [setTr_freshIds, takeCredits_freshIds, updSlip_freshIds,
    beatFault_freshIds, beatGone_freshIds, settlePort_freshIds, FreshIds.mk_iff, FreshIds.when_iff, FreshIds.forEach,
    FreshIds.when, implies_true, hf]

theorem decide__freshIds (s : State) (hf : FreshIds s) : FreshIds (decide_ s) := by
  simp +contextual (maxDischargeDepth := 30) only [decide_, preempt_freshIds, grantTr_freshIds,
    FreshIds.of_only (movePointers_only _ _) rfl, giveTicket_freshIds, FreshIds.of_only (xbump_only _ _ _) rfl, FreshIds.mk_iff,
    FreshIds.forEach_iff, FreshIds.forEach, implies_true, hf]

theorem decideExempt_freshIds (s : State) (hf : FreshIds s) : FreshIds (decideExempt s) := by
  simp +contextual only [decideExempt, grantTr_freshIds, FreshIds.of_only (movePointers_only _ _) rfl, FreshIds.forEach,
    implies_true, hf]

theorem haltCycle_freshIds (s : State) (hf : FreshIds s) : FreshIds (haltCycle s) := by
  have hw := (FreshIds.of_only (wakeBanks_only s) rfl).mpr hf
  have hs := sweep_freshIds _ (decideExempt_freshIds _ hw)
  exact ((FreshIds.of_only (countClients_only _ _) rfl).mpr hs : FreshIds (countClients _ _))

theorem runCycle_freshIds (s : State) (hf : FreshIds s) : FreshIds (runCycle s) := by
  have hw := (FreshIds.of_only (wakeBanks_only _) rfl).mpr (settleMig_freshIds s hf)
  have hd := (settleAll_freshIds _).mpr ((markWaiting_freshIds _).mpr (decide__freshIds _ hw))
  have hp := (FreshIds.of_only (pigeonCycle_only _) rfl).mpr (fetchAhead_freshIds _ hd)
  have hc : ∀ work, FreshIds (countSlots (countClients work _)) := fun work =>
    (FreshIds.of_only (countSlots_only _) rfl).mpr ((FreshIds.of_only (countClients_only work _) rfl).mpr hp)
  have hw := fun work => sweep_freshIds _ ((countQueues_freshIds (unserved s) _).mpr (hc work))
  simp only [freshIds_iff] at hw ⊢
  exact hw _

theorem execDecision_freshIds (n : Nat) (s : State) (s' : State) (h : execDecision n s = .next s') (hf : FreshIds s) :
    FreshIds s' := by
  injection h with h
  subst h
  dsimp only
  repeat' split
  all_goals simp only [FreshIds.of_only (judgeRails_only _) rfl, FreshIds.of_only (bump_only _ _ _) rfl,
    FreshIds.of_only (countStill_only _ _) rfl, tclk_freshIds, FreshIds.of_only (estimate_only _ _ _) rfl, runCycle_freshIds,
    haltCycle_freshIds, FreshIds.of_only (countClients_only _ _) rfl, FreshIds.mk_iff, hf]

theorem readBeatNow_freshIds (t : Tr) (n : Nat) (b : Beat) (port : Bool) (ups : List Upset) (s : State) (hf : FreshIds s) :
    FreshIds (readBeatNow t n b port ups s) := by
  unfold readBeatNow
  dsimp only
  repeat' split
  all_goals simp only [FreshIds.of_only (readRow_only _ _ _ _ _ _) rfl, beatPerformed_freshIds, updBeat_freshIds,
    settlePort_freshIds, parkArrived_freshIds, FreshIds.of_only (xbump_only _ _ _) rfl, FreshIds.when_iff, implies_true, hf]

theorem execArrayRead_freshIds (bank : Nat) (port : Bool) (ups : List Upset) (s : State) (s' : State) (h : execArrayRead bank
    port ups s = .next s') (hf : FreshIds s) : FreshIds s' := by
  injection h with h
  subst h
  repeat' split
  all_goals simp only [readBeatNow_freshIds, hf]

theorem writeBeatNow_freshIds (t : Tr) (n : Nat) (b : Beat) (port : Bool) (par : Parity) (s : State) (hf : FreshIds s) :
    FreshIds (writeBeatNow t n b port par s) := by
  unfold writeBeatNow
  dsimp only
  repeat' split
  all_goals simp only [FreshIds.of_only (netParity_only _ _ _ _ _) rfl, markPlane_freshIds,
    FreshIds.of_only (portStore_only _ _ _ _ _ _ _ _ _ _) rfl, beatPerformed_freshIds, updBeat_freshIds, settlePort_freshIds,
    FreshIds.of_only (watchStore_only _ _ _ _ _ _ _ _) rfl, parkWritten_freshIds, settleLane_freshIds, hf]

theorem execArrayWrite_freshIds (bank : Nat) (port : Bool) (par : Parity) (s : State) (s' : State) (h : execArrayWrite bank port
    par s = .next s') (hf : FreshIds s) : FreshIds s' := by
  injection h with h
  subst h
  repeat' split
  all_goals simp only [writeBeatNow_freshIds, hf]

theorem execAtomicExecute_freshIds (bank : Nat) (port : Bool) (ups : List Upset) (par : Parity) (s : State) (s' : State) (h :
    execAtomicExecute bank port ups par s = .next s') (hf : FreshIds s) : FreshIds s' := by
  injection h with h
  subst h
  repeat' split
  all_goals simp only [atomicNow_freshIds, hf]

theorem applyImage_freshIds (s : State) (hf : FreshIds s) : FreshIds (applyImage s) := by
  simp +contextual only [applyImage, FreshIds.of_only (loadRegs_only _ _) rfl, FreshIds.of_only (loadMaps_only _ _) rfl,
    FreshIds.of_only (loadQuota_only _ _ _) rfl, FreshIds.of_only (loadRails_only _) rfl,
    FreshIds.of_only (setReg_only _ _ _) rfl, FreshIds.of_only (raise_only _ _) rfl,
    FreshIds.of_only (loadPower_only _ _ _) rfl, FreshIds.of_only (reloadStaging_only _) rfl,
    FreshIds.of_only (rekeyCtx_only _ _) rfl, startTrace_freshIds, FreshIds.of_only (takeHeld_only _) rfl, FreshIds.mk_iff,
    FreshIds.forEach_iff, FreshIds.when, implies_true, hf]

theorem execWaybillCheck_freshIds (s : State) (s' : State) (h : execWaybillCheck s = .next s') (hf : FreshIds s) :
    FreshIds s' := by
  injection h with h
  subst h
  dsimp only
  repeat' split
  all_goals simp only [FreshIds.of_only (failLoad_only _ _ _ _) rfl, applyImage_freshIds, hf]

theorem execPowerOnResetAssert_freshIds (s : State) (s' : State) (h : execPowerOnResetAssert s = .next s') (_hf : FreshIds s) :
    FreshIds s' := by
  injection h with h
  subst h
  simp only [powerOnReset_freshIds]

theorem execTileResetAssert_freshIds (s : State) (s' : State) (h : execTileResetAssert s = .next s') (hf : FreshIds s) :
    FreshIds s' := by
  injection h with h
  subst h
  dsimp only
  split <;> simp only [tileReset_freshIds, FreshIds.mk_iff, hf]

theorem writeRstCtl_freshIds (w : Word) (s : State) (hf : FreshIds s) : FreshIds (writeRstCtl w s) := by
  unfold writeRstCtl
  split <;> simp only [tileReset_freshIds, hf]

theorem execSoftwareTileReset_freshIds (a : BusAcc) (w : Word) (s : State) (s' : State) (h : execSoftwareTileReset a w s = .next
    s') (hf : FreshIds s) : FreshIds s' := by
  injection h with h
  subst h
  simp +contextual only [busWrite_freshIds, writeRstCtl_freshIds, implies_true, hf]

theorem drainChans_freshIds (s : State) (hf : FreshIds s) : FreshIds (drainChans s) := by
  simp +contextual only [drainChans, drainChan_freshIds, FreshIds.forEach, implies_true, hf]

theorem execBlockResume_freshIds (s : State) (s' : State) (h : execBlockResume s = .next s') (hf : FreshIds s) : FreshIds s' := by
  injection h with h
  subst h
  split <;> simp only [FreshIds.of_only (clrReg_only _ _ _) rfl, FreshIds.of_only (genRec_only _ _ _) rfl, drainChans_freshIds,
    payCredits_freshIds, resumeCancels_freshIds, hf]

theorem startReadout_freshIds (w : Word) (s : State) (hf : FreshIds s) : FreshIds (startReadout w s) := by
  unfold startReadout
  dsimp only
  repeat' split
  all_goals simp only [FreshIds.of_only (orReg_only _ _ _) rfl, FreshIds.addTr, FreshIds.of_only (setReg_only _ _ _) rfl,
    FreshIds.of_only (setRegF_only _ _ _ _ _) rfl, FreshIds.mk_iff, hf]

theorem execBankReadout_freshIds (a : BusAcc) (w : Word) (s : State) (s' : State) (h : execBankReadout a w s = .next s') (hf :
    FreshIds s) : FreshIds s' := by
  injection h with h
  subst h
  simp +contextual only [busWrite_freshIds, startReadout_freshIds, implies_true, hf]

theorem execBankReadoutDone_freshIds (ups : List Upset) (s : State) (s' : State) (h : execBankReadoutDone ups s = .next s') (hf :
    FreshIds s) : FreshIds s' := by
  injection h with h
  subst h
  repeat' split
  all_goals simp only [dropTr_freshIds, FreshIds.of_only (strikeRow_only _ _ _ _) rfl,
    FreshIds.of_only (finishBrd_only _ _ _) rfl, FreshIds.when_iff, implies_true, hf]

theorem execWatchdogExpiry_freshIds (q : BitVec 6) (s : State) (s' : State) (h : execWatchdogExpiry q s = .next s') (hf :
    FreshIds s) : FreshIds s' := by
  injection h with h
  subst h
  dsimp only
  repeat' split
  all_goals simp only [updQueue_freshIds, FreshIds.of_only (slipLog_only _ _ _ _ _ _) rfl,
    FreshIds.of_only (bump_only _ _ _) rfl, FreshIds.of_only (raise_only _ _) rfl,
    FreshIds.of_only (captureHang_only _ _ _) rfl, FreshIds.when_iff, implies_true, hf]

theorem commandQueue_freshIds (w : Word) (s : State) (hf : FreshIds s) : FreshIds (commandQueue w s) := by
  unfold commandQueue
  split <;> simp only [resumeQueue_freshIds, skipQueue_freshIds, flushQueue_freshIds, pauseQueue_freshIds, hf]

theorem commandBucket_freshIds (l : Nat) (w : Word) (s : State) (hf : FreshIds s) : FreshIds (commandBucket l w s) := by
  unfold commandBucket
  split <;> simp only [FreshIds.of_only (armBucket_only _ _ _) rfl, abortBucket_freshIds, hf]

theorem commandTrace_freshIds (w : Word) (s : State) (hf : FreshIds s) : FreshIds (commandTrace w s) := by
  simp +contextual only [commandTrace, FreshIds.of_only (traceTrigger_only _ _ _) rfl, writeTrace_freshIds,
    FreshIds.of_only (rearmTrace_only _) rfl, FreshIds.of_only (genTime_only _ _ _) rfl, FreshIds.when_iff, FreshIds.when,
    implies_true, hf]

theorem commandFwd_freshIds (w : Word) (s : State) (hf : FreshIds s) : FreshIds (commandFwd w s) := by
  unfold commandFwd
  split <;> simp only [FreshIds.of_only (commandForward_only _ _ _) rfl, commandCancel_freshIds,
    FreshIds.of_only (commandAck_only _) rfl, FreshIds.of_only (commandResume_only _) rfl, hf]

theorem effectLow_freshIds (l o : Nat) (w : Word) (s : State) (hf : FreshIds s) : FreshIds (effectLow l o w s) := by
  unfold effectLow
  repeat' split
  all_goals simp only [FreshIds.of_only (requestBanks_only _ _ _) rfl, cancelHeld_freshIds,
    FreshIds.of_only (writeQrel_only _ _) rfl, commandQueue_freshIds, FreshIds.of_only (tallyAdd_only _ _ _) rfl,
    FreshIds.of_only (writeFptr_only _ _ _) rfl, hf]

theorem effectMid_freshIds (l o : Nat) (w : Word) (s : State) (hf : FreshIds s) : FreshIds (effectMid l o w s) := by
  unfold effectMid
  with_reducible repeat' refine FreshIds.ite ?_ ?_
  all_goals simp only [commandBucket_freshIds, FreshIds.of_only (w1c_only _ _ _ _) rfl,
    FreshIds.of_only (writeBdata_only _ _ _) rfl, FreshIds.of_only (writeNgctl_only _ _ _) rfl,
    FreshIds.of_only (writeParam_only _ _ _ _) rfl, FreshIds.of_only (requestDomains_only _ _) rfl, writeRstCtl_freshIds,
    FreshIds.of_only (commandProt_only _ _) rfl, FreshIds.of_only (writeDigestLo_only _ _ _) rfl,
    FreshIds.of_only (completeDigest_only _ _ _) rfl, FreshIds.of_only (writeSealCfg_only _ _ _) rfl,
    FreshIds.of_only (clearFail_only _ _ _) rfl, FreshIds.of_only (setReg_only _ _ _) rfl,
    FreshIds.of_only (writeStaging_only _ _ _) rfl, unlock_freshIds, relock_freshIds, FreshIds.mk_iff, hf]

theorem effectHigh_freshIds (a : BusAcc) (o : Nat) (w : Word) (s : State) (hf : FreshIds s) : FreshIds (effectHigh a o w s) := by
  unfold effectHigh
  with_reducible repeat' refine FreshIds.ite ?_ ?_
  all_goals simp only [FreshIds.of_only (writeXcCtl_only _ _) rfl, writeTraceCtl_freshIds, commandTrace_freshIds,
    FreshIds.of_only (writeRptr_only _ _) rfl, FreshIds.of_only (setLocal_only _) rfl, FreshIds.of_only (clearLocal_only _) rfl,
    FreshIds.of_only (startScan_only _) rfl, startReadout_freshIds, FreshIds.of_only (commandHang_only _) rfl,
    FreshIds.of_only (releaseHang_only _) rfl, writeWuCfg_freshIds, FreshIds.of_only (writeWuReg_only _ _ _ _) rfl,
    FreshIds.of_only (writeWuOwn_only _ _) rfl, writeRdaddr_freshIds, commandFwd_freshIds,
    FreshIds.of_only (writePtData_only _ _) rfl, FreshIds.of_only (writePtValid_only _ _ _) rfl,
    FreshIds.of_only (writeBtData_only _ _) rfl, FreshIds.of_only (writePsValid_only _ _ _) rfl,
    FreshIds.of_only (writeTblValid_only _ _) rfl, writeStage_freshIds, commitSlip_freshIds, FreshIds.mk_iff, FreshIds.when_iff,
    implies_true, hf]

theorem regWrite_freshIds (a : BusAcc) (o : Nat) (w : Word) (s : State) (hf : FreshIds s) : FreshIds (regWrite a o w s) := by
  unfold regWrite
  repeat' split
  all_goals simp only [FreshIds.of_only (store_only _ _ _ _) rfl, FreshIds.of_only (w1c_only _ _ _ _) rfl,
    FreshIds.of_only (clearLog_only _ _ _) rfl, effectLow_freshIds, effectMid_freshIds, effectHigh_freshIds, hf]

theorem execRegisterWrite_freshIds (a : BusAcc) (off : BitVec 16) (w : Word) (s : State) (s' : State) (h : execRegisterWrite a
    off w s = .next s') (hf : FreshIds s) : FreshIds s' := by
  injection h with h
  subst h
  simp +contextual only [busWriteFor_freshIds, regWrite_freshIds, implies_true, hf]

/-! Every command -/

/-- Every command keeps the identifiers of their own, and below the next one to give. -/
theorem exec_freshIds {c : Instr} {s s' : State} (h : exec c s = .next s') (hf : FreshIds s) : FreshIds s' := by
  have hk : (!(touches c).contains .fr && !(touches c).contains .sq) = true → FreshIds s' := fun hk =>
    (FreshIds.of_only (exec_only h) hk).mpr hf
  cases c with
  | powerOnResetAssert => exact execPowerOnResetAssert_freshIds _ _ h hf
  | tileResetAssert => exact execTileResetAssert_freshIds _ _ h hf
  | softwareTileReset => exact execSoftwareTileReset_freshIds _ _ _ _ h hf
  | waybillCheck => exact execWaybillCheck_freshIds _ _ h hf
  | registerWrite => exact execRegisterWrite_freshIds _ _ _ _ _ h hf
  | ownReadRequest => exact execOwnReadRequest_freshIds _ _ _ _ _ h hf
  | ownWriteRequest => exact execOwnWriteRequest_freshIds _ _ _ _ _ h hf
  | ownAtomicRequest => exact execOwnAtomicRequest_freshIds _ _ _ _ _ h hf
  | writeFlitTaken => exact execWriteFlitTaken_freshIds _ _ _ _ _ h hf
  | dcqCrossing => exact execDcqCrossing_freshIds _ _ _ _ h hf
  | writeFlitToStaging => exact execWriteFlitToStaging_freshIds _ _ _ _ h hf
  | readFlitTake => exact execReadFlitTake_freshIds _ _ _ h hf
  | landingToDcq => exact execLandingToDcq_freshIds _ _ _ h hf
  | laneIssue => exact execLaneIssue_freshIds _ _ h hf
  | writeTransferRequest => exact execWriteTransferRequest_freshIds _ _ _ h hf
  | decision => exact execDecision_freshIds _ _ _ h hf
  | arrayRead => exact execArrayRead_freshIds _ _ _ _ _ h hf
  | arrayWrite => exact execArrayWrite_freshIds _ _ _ _ _ h hf
  | atomicExecute => exact execAtomicExecute_freshIds _ _ _ _ _ _ h hf
  | readFlitOutput => exact execReadFlitOutput_freshIds _ _ _ _ _ h hf
  | slipCommit => exact execSlipCommit_freshIds _ _ _ _ _ h hf
  | fetchOrder => exact execFetchOrder_freshIds _ _ _ h hf
  | slipDecode => exact execSlipDecode_freshIds _ _ _ h hf
  | nop => exact execNop_freshIds _ _ _ h hf
  | read => exact execRead_freshIds _ _ _ h hf
  | write => exact execWrite_freshIds _ _ _ h hf
  | move => exact execMove_freshIds _ _ _ h hf
  | held => exact execHeld_freshIds _ _ _ h hf
  | atomic => exact execAtomic_freshIds _ _ _ h hf
  | wait => exact execWait_freshIds _ _ _ h hf
  | waitReached => exact execWaitReached_freshIds _ _ _ h hf
  | signal => exact execSignal_freshIds _ _ _ h hf
  | mark => exact execMark_freshIds _ _ _ h hf
  | hint => exact execHint_freshIds _ _ _ h hf
  | fence => exact execFence_freshIds _ _ _ h hf
  | fenceMet => exact execFenceMet_freshIds _ _ _ h hf
  | step => exact execStep_freshIds _ _ _ h hf
  | slipEnd => exact execSlipEnd_freshIds _ _ _ h hf
  | queueResume => exact execQueueResume_freshIds _ _ _ _ h hf
  | queueSkip => exact execQueueSkip_freshIds _ _ _ _ h hf
  | queueFlush => exact execQueueFlush_freshIds _ _ _ _ h hf
  | queuePause => exact execQueuePause_freshIds _ _ _ _ h hf
  | watchdogExpiry => exact execWatchdogExpiry_freshIds _ _ _ h hf
  | blendSlotAlloc => exact execBlendSlotAlloc_freshIds _ _ h hf
  | vectorLoadDone => exact execVectorLoadDone_freshIds _ _ _ h hf
  | holdReservation => exact execHoldReservation_freshIds _ _ h hf
  | tileAdmit => exact execTileAdmit_freshIds _ _ _ h hf
  | tileRelease => exact execTileRelease_freshIds _ _ _ h hf
  | statsReady => exact execStatsReady_freshIds _ _ _ _ h hf
  | redeliveryStart => exact execRedeliveryStart_freshIds _ _ _ h hf
  | holdRelease => exact execHoldRelease_freshIds _ _ _ h hf
  | heldCancel => exact execHeldCancel_freshIds _ _ _ _ h hf
  | heldCancelEnd => exact execHeldCancelEnd_freshIds _ _ _ h hf
  | bankPowerdownStart => exact execBankPowerdownStart_freshIds _ _ _ h hf
  | bankTransitionDone => exact (FreshIds.of_only (execBankTransitionDone_only _ _ _ h) rfl).mpr hf
  | intakeFlit => exact execIntakeFlit_freshIds _ _ _ h hf
  | abort => exact execAbort_freshIds _ _ _ _ h hf
  | resultSend => exact execResultSend_freshIds _ _ _ h hf
  | rekey => exact (FreshIds.of_only (execRekey_only _ _ _ _ h) rfl).mpr hf
  | unlock => exact execUnlock_freshIds _ _ _ _ h hf
  | relock => exact execRelock_freshIds _ _ _ _ h hf
  | purgeComplete => exact execPurgeComplete_freshIds _ _ h hf
  | collect => exact execCollect_freshIds _ _ h hf
  | traceRowWrite => exact execTraceRowWrite_freshIds _ _ h hf
  | traceRowTimeout => exact execTraceRowTimeout_freshIds _ _ h hf
  | traceFlush => exact execTraceFlush_freshIds _ _ _ h hf
  | traceEnable => exact execTraceEnable_freshIds _ _ _ _ h hf
  | traceDisable => exact execTraceDisable_freshIds _ _ _ _ h hf
  | blockResume => exact execBlockResume_freshIds _ _ h hf
  | bankReadout => exact execBankReadout_freshIds _ _ _ _ h hf
  | bankReadoutDone => exact execBankReadoutDone_freshIds _ _ _ h hf
  | watchArm => exact execWatchArm_freshIds _ _ _ _ _ h hf
  | watchDisarm => exact execWatchDisarm_freshIds _ _ _ _ _ h hf
  | watchReadout => exact execWatchReadout_freshIds _ _ _ _ h hf
  | watchReadoutDone => exact execWatchReadoutDone_freshIds _ _ h hf
  | fwdStart => exact execFwdStart_freshIds _ _ _ h hf
  | copyRow => exact execCopyRow_freshIds _ _ _ h hf
  | migrationSwitch => exact execMigrationSwitch_freshIds _ _ h hf
  | fwdCancel => exact execFwdCancel_freshIds _ _ _ h hf
  | powerOnResetRelease | tileResetRelease | softwareResetEnd | cfgRequest | cfgWord | loadTimeout | counterLowRead | timeLowRead
      |
    xcLoRead | xcHiRead | xcClear | writeBack | holdLimitCutoff | cutoffEnd | quarantine | quarantineTimeout | quarantineRelease |
    shareRefill | tallyInc | tallyWrite | ptDataWrite | ptDataRead | ptValidWrite | btDataWrite | btDataRead | psvalidWrite |
    tblvalidWrite | bankPreqWrite | bankPowerupStart | domainReqWrite | domainPowerdownStart | domainPowerupStart |
    domainTransitionDone | subwindowBoundary | estimateMessage | calIntervalEnd | calibration | levelCommand | clockSwitch |
    lockTimeout | substepApply | hintWindowEnd | pcMessageTaken | combine | vcCreditReturn | egressCreditReturn | bdataWrite |
    bdataRead | arm | normPassEnd | ngctlWrite | updateFlit | propose | cancel | digestComplete | commitWindowExpiry |
      commitApply |
    sealArm | sealActive | beacon | beaconLoss | tclkStall | tclkResume | timeSync | traceFreeze | traceTrig | traceRearm |
    traceSync | traceRptrWrite | egressSlotTaken | stopAssert | halt | stopStuck | localHalt | localRun | scanCapture |
    scanCaptureDone | scanDataRead | hangCapture | hangRelease | hsDataRead | fwdWindowEnd | storm | migrationCopyStart |
    planeForwardDone | clusterRetire | statrowSubstitute | forward | ack | resumeauto | proposalDigestReady | timeHoldEnd |
    stopDeassert | clockLockFall | stormWindowEnd | clockSeen =>
    exact hk rfl

/-- Settles O29: an idle step gives no identifier, and every command keeps them of their own. -/
theorem everyStepKeepsIdsFresh : Obligations.EveryStepKeepsIdsFresh := by
  unfold Obligations.EveryStepKeepsIdsFresh
  intro s t hf h
  rcases step_cases h with ⟨-, rfl⟩ | ⟨c, rest, -, he⟩
  · exact (tclk_freshIds 1 s).mpr hf
  · exact exec_freshIds he hf

end Sys2Proof.Machine
end

section
/-!
PROOFS. Accesses that do not reach their register: what every command that is a service-bus access answers then.
-/
namespace Sys2Proof.Machine

/-! What an access leaves that does not reach its register -/

/-- What an access leaves under power-on reset, misfit, in a reset and where its register does not permit it. -/
structure Unreached (a : BusAcc) (o : Nat) (wr : Bool) (s r : State) : Prop where
  por : s.ck.por = true → r = s
  misfit : s.ck.por = false → busMisfit a o = true → r = respond 0 true s
  reset : s.ck.por = false → busMisfit a o = false → inReset s = true → r = respond 0 false s
  refused : busMisfit a o = false → inReset s = false → accessOk s a wr o = false → r = refuse a wr o s

theorem busWrite_unreached (a : BusAcc) (o : Nat) (act : State → State) (s : State) :
    Unreached a o true s (busWrite a o act s) :=
  ⟨busWrite_por, busWrite_misfit, busWrite_inReset, busWrite_refused⟩

theorem busRead_unreached (a : BusAcc) {o : Nat} (act : State → Word × State) (s : State) (h1 : o ≠ 0x4408) (h2 : o ≠ 0x4420) :
    Unreached a o false s (busRead a o act s) :=
  ⟨busRead_por, busRead_misfit, fun hp hm hr => busRead_inReset hp hm hr h1 h2, busRead_refused⟩

theorem busWriteFor_unreached (a : BusAcc) (o : Nat) (mine : State → Bool) (act : State → State) (s : State) :
    Unreached a o true s (busWriteFor a o mine act s) := by
  have hw := busWrite_unreached a o act s
  unfold busWriteFor
  split
  · exact hw
  next hc =>
    simp only [Bool.or_eq_true, Bool.not_eq_true', not_or, Bool.not_eq_true, Bool.not_eq_false] at hc
    obtain ⟨⟨⟨⟨hp, hm⟩, hr⟩, ho⟩, -⟩ := hc
    exact ⟨fun h => absurd h (by simp [hp]), fun _ h => absurd h (by simp [hm]), fun _ _ h => absurd h (by simp [hr]),
      fun _ _ h => absurd ho (by simp [h])⟩

/-- Every command that is a service-bus access goes through its checks. -/
theorem exec_unreached {c : Instr} {a : BusAcc} {o : Nat} {wr : Bool} (s : State) (h : busOf c = some (a, o, wr)) :
    ∃ r, exec c s = .next r ∧ Unreached a o wr s r := by
  cases c with
  | registerWrite | tallyInc | queueResume | queueSkip | queueFlush | queuePause =>
    cases h
    exact ⟨_, rfl, busWriteFor_unreached _ _ _ _ _⟩
  | softwareTileReset | xcClear | quarantineRelease | slipCommit | heldCancel | ptDataWrite | ptValidWrite | btDataWrite
    | psvalidWrite | tblvalidWrite | domainReqWrite | bdataWrite | arm | abort | ngctlWrite | propose | cancel | rekey | sealArm
    | unlock | relock | traceTrig | traceFlush | traceRearm | traceSync | traceRptrWrite | traceEnable | traceDisable | localHalt
    | localRun | scanCapture | bankReadout | hangCapture | hangRelease | watchArm | watchDisarm | watchReadout | forward | fwdCancel
    | ack | resumeauto =>
    cases h
    exact ⟨_, rfl, busWrite_unreached _ _ _ _⟩
  | timeLowRead | xcLoRead | xcHiRead | ptDataRead | btDataRead | bdataRead | scanDataRead | hsDataRead =>
    cases h
    exact ⟨_, rfl, busRead_unreached _ _ _ (by decide) (by decide)⟩
  | bankPreqWrite a n w =>
    simp only [busOf] at h
    split at h
    next hn =>
      cases h
      refine ⟨_, rfl, ?_⟩
      rw [if_pos hn]
      exact busWrite_unreached _ _ _ _
    · cases h
  | digestComplete a off w =>
    simp only [busOf] at h
    split at h
    next ho =>
      cases h
      refine ⟨_, rfl, ?_⟩
      rcases ho with rfl | rfl <;> exact busWrite_unreached _ _ _ _
    · cases h
  | _ => cases h

/-! What a refusal leaves (R386) -/

/-- The first refusal's description: initiator, level and direction. -/
def refusalWord (a : BusAcc) (wr : Bool) : Nat :=
  fld a.init.toNat 2 + fld (if a.init.toNat < 2 then a.priv.toNat else 0) 4 + fld (b2n wr) 7

/-- The count of the refusals of an access's level. -/
def refusalCount (a : BusAcc) : Nat := if a.init.toNat < 2 then 0x57B8 + 0x40 * a.priv.toNat else 0x5980

/-- A refusal counts, fills the refusal log and, as the first one, raises cause 58. -/
theorem refuse_eq (a : BusAcc) (wr : Bool) (o : Nat) (s : State) :
    refuse a wr o s = respond 0 true (when (!regB s 0x4804 0) (raise 58)
      (fillLog 0x4804 (refusalWord a wr) o (bump (refusalCount a) 1 s))) := by
  have hp : a.priv.toNat % 8 = a.priv.toNat := Nat.mod_eq_of_lt a.priv.isLt
  unfold refuse refusalWord refusalCount Machine.when
  split <;> simp only [hp]

theorem raise58_log (c : Bool) (s : State) :
    reg (when c (raise 58) s) 0x4804 = reg s 0x4804 ∧ reg (when c (raise 58) s) 0x4808 = reg s 0x4808 := by
  unfold Machine.when
  split
  · exact ⟨raise_reg rfl, raise_reg rfl⟩
  · exact ⟨rfl, rfl⟩

theorem refuse_log_first {a : BusAcc} {wr : Bool} {o : Nat} {s : State} (h : regB s 0x4804 0 = false) :
    reg (refuse a wr o s) 0x4804 = BitVec.ofNat 32 (1 + refusalWord a wr) ∧ reg (refuse a wr o s) 0x4808 = BitVec.ofNat 32 o
      ∧ regB (refuse a wr o s) 0x7004 26 = true := by
  obtain ⟨h0, h1⟩ := raise58_log true (fillLog 0x4804 (refusalWord a wr) o (bump (refusalCount a) 1 s))
  obtain ⟨f0, f1⟩ := fillLog_first (w0 := refusalWord a wr) (w1 := o) (s := bump (refusalCount a) 1 s) h
  rw [refuse_eq, h]
  exact ⟨h0.trans f0, h1.trans f1, raise_sets 58 _⟩

theorem refuse_log_again {a : BusAcc} {wr : Bool} {o : Nat} {s : State} (h : regB s 0x4804 0 = true) :
    reg (refuse a wr o s) 0x4804 = reg s 0x4804 ||| 2 ∧ reg (refuse a wr o s) 0x4808 = reg s 0x4808 := by
  rw [refuse_eq, h]
  exact fillLog_again (w0 := refusalWord a wr) (w1 := o) (s := bump (refusalCount a) 1 s) h

theorem refuse_valid (a : BusAcc) (wr : Bool) (o : Nat) (s : State) : regB (refuse a wr o s) 0x4804 0 = true := by
  cases hv : regB s 0x4804 0 with
  | false =>
    rw [regB_of_reg (refuse_log_first hv).1 (by decide)]
    have : (1 + refusalWord a wr) % 2 = 1 := by
      unfold refusalWord fld
      omega
    simpa [bit] using this
  | true =>
    have hr := (refuse_log_again (a := a) (wr := wr) (o := o) hv).1
    simp only [regB, bit] at hv ⊢
    rw [hr, BitVec.toNat_or, Nat.testBit_or, hv, Bool.true_or]

theorem refuse_count (a : BusAcc) (wr : Bool) (o : Nat) (s : State) :
    NMap.get 0 (refuse a wr o s).cnt (refusalCount a) = NMap.get 0 s.cnt (refusalCount a) + 1 := by
  have hw : ∀ c s, (when c (raise 58) s).cnt = s.cnt := fun c s => by cases c <;> simp [Machine.when]
  rw [refuse_eq]
  show NMap.get 0 (when _ (raise 58) _).cnt _ = _
  rw [hw, fillLog_cnt, cnt_bump, if_pos rfl]
  rfl

/-- Settles O9: each command that is an access goes through the checks, and a refusal is logged and counted. -/
theorem unacceptedAccessesChangeNothingElse : Obligations.UnacceptedAccessesChangeNothingElse := by
  unfold Obligations.UnacceptedAccessesChangeNothingElse
  intro c a o wr s hc
  obtain ⟨r, hr, hu⟩ := exec_unreached s hc
  refine ⟨fun hp => by rw [hr, hu.por hp], fun hp hm => ?_, fun hp hm hi => ?_, fun hm hi ho => ?_⟩
  · rw [hu.misfit hp hm] at hr
    exact ⟨_, hr, respond_only _ _ _, rfl, rfl⟩
  · rw [hu.reset hp hm hi] at hr
    exact ⟨_, hr, respond_only _ _ _, rfl, rfl⟩
  · rw [hu.refused hm hi ho] at hr
    exact ⟨_, hr, rfl, rfl, (refuse_only a wr o s).mono (by decide), refuse_within a wr o s, refuse_valid a wr o s,
      refuse_log_again, fun hv => (refuse_log_first hv).imp_left fun h => h.trans (by simp only [refusalWord, Nat.add_assoc]),
      refuse_count a wr o s⟩

end Sys2Proof.Machine
end

section
/-!
PROOFS. Resets and the load of the Waybill word by word.
-/
namespace Sys2Proof.Machine

/-! Resets -/

/-- A run of writes, each to a register of its own. -/
theorem reg_forEach_setReg (g : Nat → Word) (l : List Nat) (p : Nat) (s : State) :
    reg (forEach l (fun o => setReg o (g o)) s) p = if p ∈ l then g p else reg s p := by
  induction l generalizing s with
  | nil => rw [if_neg List.not_mem_nil]; rfl
  | cons o l ih =>
    refine (ih (setReg o (g o) s)).trans ?_
    by_cases hl : p ∈ l
    · rw [if_pos hl, if_pos (List.mem_cons_of_mem o hl)]
    · rw [if_neg hl, reg_setReg]
      by_cases hp : p = o
      · rw [if_pos hp, if_pos (hp ▸ List.mem_cons_self), hp]
      · rw [if_neg hp, if_neg (by simp [hp, hl])]

/-- What a tile reset leaves before it writes the registers that it keeps. -/
def tileCleared (s : State) : State :=
  { State.reset with
    pending := s.pending
    free := s.free
    tm := s.tm
    pw := { PwrSt.reset with step := s.pw.step, div := s.pw.div, ckSel := s.pw.ckSel, ckFmhz := s.pw.ckFmhz, ckLock := s.pw.ckLock }
    ck := { CkSt.reset with por := s.ck.por, trst := s.ck.trst, swrst := s.ck.swrst, field := s.ck.field }
    dbg := { DbgSt.reset with stopIn := s.dbg.stopIn } }

theorem tileReset_eq (cause : Nat) (s : State) :
    tileReset cause s = setReg 0x4B04 (if purging s then 0 else reg s 0x4B04 &&& 0x3B)
      (setReg 0x4408 (BitVec.ofNat 32 (cause + fld (min (regF s 0x4408 31 16 + 1) 0xFFFF) 16))
        (forEach keptRegs (fun o => setReg o (reg s o)) (tileCleared s))) := rfl

theorem tileReset_only_regs (cause : Nat) (s : State) : Only [.regs] (tileCleared s) (tileReset cause s) := by
  rw [tileReset_eq]
  exact ((Only.forEach (fun o s' => setReg_only o (reg s o) s') _ _).trans (setReg_only _ _ _)).trans (setReg_only _ _ _)

theorem reg_tileReset (cause : Nat) (s : State) (o : Nat) :
    reg (tileReset cause s) o =
      if o = 0x4408 then BitVec.ofNat 32 (cause + fld (min (regF s 0x4408 31 16 + 1) 0xFFFF) 16)
      else if o = 0x4B04 then (if purging s then 0 else reg s 0x4B04 &&& 0x3B)
      else if [0x4404, 0x4410, 0x4414, 0x4418, 0x604C, 0x6050].contains o then reg s o
      else reg State.reset o := by
  rw [tileReset_eq, reg_setReg, reg_setReg, reg_forEach_setReg]
  by_cases h1 : o = 0x4408
  · subst h1
    rfl
  · rw [if_neg h1, if_neg h1]
    simp only [List.contains_iff_mem]
    rfl

/-- R365, R411: a tile reset, whichever resets are in force, keeps the listed registers, counts itself and drops the rest. -/
theorem tileReset_leaves (cause : Nat) (k : CkSt) (s : State) : tileResetLeaves cause s (tileReset cause { s with ck := k }) := by
  have ho : Only [.ck] s { s with ck := k } := by simp [Only.mk_iff, Only.refl]
  have hr := tileReset_only_regs cause { s with ck := k }
  exact ⟨(ho.mono (by decide)).trans (tileReset_only cause _), hr .cnt (by decide), hr .xc (by decide), hr .mem (by decide),
    hr .bus (by decide), hr .bank (by decide), hr .fr (by decide), hr .arb (by decide), hr .sq (by decide), hr .tb (by decide),
    hr .bl (by decide), hr .hd (by decide), hr .tr (by decide), hr .fw (by decide), hr .rx (by decide), hr .pr (by decide),
    hr .dbg (by decide), hr .pw (by decide), reg_tileReset cause _⟩

theorem tileReset_ck (cause : Nat) (s : State) : (tileReset cause s).ck =
    { CkSt.reset with por := s.ck.por, trst := s.ck.trst, swrst := s.ck.swrst, field := s.ck.field } :=
  tileReset_only_regs cause s .ck (by decide)

theorem tileReset_bus (cause : Nat) (s : State) : (tileReset cause s).bus = BusSt.reset :=
  tileReset_only_regs cause s .bus (by decide)

/-- The answer to an access apart, a state with no answer given. -/
theorem respond_bus_reset {d : Word} {e : Bool} {t : State} (h : t.bus = BusSt.reset) :
    { respond d e t with bus := BusSt.reset } = t := by
  rw [← h]
  rfl

/-- R365: the end of the last reset in force starts the release clock and samples the identity. -/
theorem released_samples {part : BitVec 64} {tile : BitVec 5} {s : State} (h : inReset s = false) :
    (released part tile s).ck = { s.ck with relNs := 0 } ∧ reg (released part tile s) 0x4410 = part.extractLsb' 0 32
      ∧ reg (released part tile s) 0x4414 = part.extractLsb' 32 32 ∧ reg (released part tile s) 0x4418 = tile.zeroExtend 32 := by
  unfold released
  rw [h, if_neg (by decide)]
  unfold sampleIdentity
  refine ⟨rfl, ?_, ?_, ?_⟩
  · rw [reg_setReg_ne (by decide), reg_setReg_ne (by decide), reg_setReg_self]
    rfl
  · rw [reg_setReg_ne (by decide), reg_setReg_self]
    rfl
  · rw [reg_setReg_self]
    exact BitVec.eq_of_toNat_eq (by simp)

/-- Settles O10. -/
theorem powerOnResetLeavesResetState : Obligations.PowerOnResetLeavesResetState := by
  unfold Obligations.PowerOnResetLeavesResetState
  refine ⟨fun s => rfl, fun part tile field s hp ht hw => ?_, fun part tile field s hp ht => ?_⟩
  · let u : State := { s with ck := { s.ck with por := false, field := field } }
    have hu : inReset u = false := by simp [u, inReset, ht, hw]
    obtain ⟨hck, h0, h1, h2⟩ := released_samples (part := part) (tile := tile) hu
    have he : exec (.powerOnResetRelease part tile field) s = .next (released part tile u) := congrArg Host.Outcome.next (if_pos hp)
    exact ⟨_, he, hck, h0, h1, h2, exec_only he, released_within part tile u⟩
  · show Host.Outcome.next (if s.ck.por then _ else s) = _
    rw [if_pos hp]
    simp [released, inReset, ht]

/-- An accepted software tile reset whose key fits resets. -/
theorem execSoftwareTileReset_accepts {a : BusAcc} {w : Word} {s : State} (hi : inReset s = false) (hm : busMisfit a 0x440C = false)
    (ho : accessOk s a true 0x440C = true) (h0 : w.getLsbD 0 = true) (hk : w.extractLsb' 8 8 = 0xA5) :
    exec (.softwareTileReset a w) s = .next (respond 0 false (tileReset 2 { s with ck := { s.ck with swrst := true } })) := by
  have hp : s.ck.por = false := by
    simp only [inReset, Bool.or_eq_false_iff] at hi
    exact hi.1.1
  have hb : (bit w.toNat 0 && bits w.toNat 15 8 == 0xA5) = true := by
    have h8 : bits w.toNat 15 8 = 0xA5 := by
      have := congrArg BitVec.toNat hk
      simpa [bits, BitVec.extractLsb'_toNat] using this
    rw [h8, Bool.and_eq_true]
    exact ⟨h0, rfl⟩
  have hw : writeRstCtl w s = tileReset 2 { s with ck := { s.ck with swrst := true } } := if_pos hb
  show Host.Outcome.next (busWrite a 0x440C (writeRstCtl w) s) = _
  unfold busWrite
  rw [if_neg (by simp [hp]), if_neg (by simp [hm]), if_neg (by simp [hi]), if_neg (by simp [ho]), if_neg (by simp [earlyWrite]), hw]

/-- Settles O11: a tile reset leaves the reset state but for what it keeps, and its release samples the identity. -/
theorem tileResetKeepsAndClears : Obligations.TileResetKeepsAndClears := by
  unfold Obligations.TileResetKeepsAndClears
  refine ⟨fun s hp => ?_, fun a w s hi hm ho h0 hk => ?_, fun part tile s ht hp hw => ?_, fun part tile s hw hp ht => ?_⟩
  · refine ⟨_, congrArg Host.Outcome.next (if_neg (by simp [hp])), tileReset_leaves 1 _ s, ?_⟩
    rw [tileReset_ck, ← hp]
  · obtain ⟨⟨hp, ht⟩, -⟩ : (s.ck.por = false ∧ s.ck.trst = false) ∧ s.ck.swrst = false := by simpa [inReset] using hi
    refine ⟨_, execSoftwareTileReset_accepts hi hm ho h0 hk, ?_, ?_, ?_⟩
    · exact ⟨rfl, rfl⟩
    · rw [respond_bus_reset (tileReset_bus 2 _)]
      exact tileReset_leaves 2 _ s
    · rw [respond_ck, tileReset_ck]
      dsimp only
      rw [hp, ht]
  · have hu : inReset { s with ck := { s.ck with trst := false } } = false := by simp [inReset, hp, hw]
    obtain ⟨hck, h0, h1, h2⟩ := released_samples (part := part) (tile := tile) hu
    have he : exec (.tileResetRelease part tile) s = .next (released part tile { s with ck := { s.ck with trst := false } }) :=
      congrArg Host.Outcome.next (if_pos ht)
    exact ⟨_, he, hck, h0, h1, h2, exec_only he, released_within _ _ _⟩
  · have hu : inReset { s with ck := { s.ck with swrst := false } } = false := by simp [inReset, hp, ht]
    obtain ⟨hck, h0, h1, h2⟩ := released_samples (part := part) (tile := tile) hu
    have he : exec (.softwareResetEnd part tile) s = .next (released part tile { s with ck := { s.ck with swrst := false } }) :=
      congrArg Host.Outcome.next (if_pos hw)
    exact ⟨_, he, hck, h0, h1, h2, exec_only he, released_within _ _ _⟩

end Sys2Proof.Machine
end

section
/-!
PROOFS. The Waybill: its words as they come, its check, and what its application leaves in the partition masks and tally bindings.
-/
namespace Sys2Proof.Machine

/-! A failed load (R373, R376, R379) -/

theorem reg_with_ck (k : CkSt) (s : State) (o : Nat) : reg { s with ck := k } o = reg s o := rfl

theorem failLoad_regs (reason typ off : Nat) (s : State) :
    reg (failLoad reason typ off s) 0x4420 = BitVec.ofNat 32 (4 + fld reason 4 + fld typ 8)
      ∧ reg (failLoad reason typ off s) 0x4424 = BitVec.ofNat 32 off := by
  unfold failLoad
  dsimp only
  constructor
  · rw [raise_reg rfl, reg_with_ck, reg_setReg_ne (by decide), reg_setReg_ne (by decide), reg_setReg_self]
  · rw [raise_reg rfl, reg_with_ck, reg_setReg_ne (by decide), reg_setReg_self]

theorem failLoad_ck (reason typ off : Nat) (s : State) :
    (failLoad reason typ off s).ck = { s.ck with cfgReq := false, img := [] } := by
  unfold failLoad
  rw [raise_ck]
  rfl

theorem failLoad_raises (reason typ off : Nat) (s : State) :
    regB (failLoad reason typ off s) 0x7000 (if reason = 14 then 2 else 1) = true := by
  unfold failLoad
  split <;> exact raise_sets _ _

/-- A load that fails, `s0` being the state before its last word. -/
theorem failLoad_fails (reason typ off : Nat) {s0 s : State} (ho : Only [.regs] s0 s) (hw : Within [⟨0x4420, 0, 1⟩] s0 s) :
    loadFailed reason typ off s0 (failLoad reason typ off s) := by
  have hk : s.ck = s0.ck := ho .ck (by decide)
  obtain ⟨h0, h1⟩ := failLoad_regs reason typ off s
  refine ⟨h0, h1, ?_, failLoad_raises reason typ off s, ?_, ?_⟩
  · rw [failLoad_ck, hk]
  · exact (ho.mono (by decide)).trans (failLoad_only reason typ off s)
  · exact (hw.mono (by decide)).trans (failLoad_within reason typ off s)

/-! Words of the Waybill (R370 to R373): `len` is the length of the image as it is known with the word -/

section
variable {w : Word} {s : State} {len : Nat} (hlen : (if s.ck.nimg = 2 then w.toNat else imgLen s.ck) = len)
include hlen

theorem receiveWord_fails {r : Nat × Nat} (h : checkWord s.ck s.ck.nimg len w.toNat = some r) :
    receiveWord w s = failLoad r.1 r.2 (4 * s.ck.nimg) (setRegF 0x4420 2 0 1 s) := by
  unfold receiveWord
  simp only [hlen, setRegF_ck, h]

/-- A word before the last that is not the header's last. -/
theorem receiveWord_takes (h : checkWord s.ck s.ck.nimg len w.toNat = none) (h7 : s.ck.nimg ≠ 7)
    (h8 : ¬(8 ≤ s.ck.nimg ∧ 4 * s.ck.nimg = len - 4)) :
    receiveWord w s = { setRegF 0x4420 2 0 1 s with ck := takeWord s.ck.nimg len w s.ck } := by
  unfold receiveWord
  simp only [hlen, setRegF_ck, h, if_neg h7, if_neg h8, ge_iff_le]

/-- The header's last word. -/
theorem receiveWord_takes_header (h : checkWord s.ck s.ck.nimg len w.toNat = none) (h7 : s.ck.nimg = 7) :
    receiveWord w s = setReg 0x442C (BitVec.ofNat 32 len) (setReg 0x4428 (listGet 0 (takeWord s.ck.nimg len w s.ck).img 3)
      { setRegF 0x4420 2 0 1 s with ck := takeWord s.ck.nimg len w s.ck }) := by
  unfold receiveWord
  simp only [hlen, setRegF_ck, h, if_pos h7, ge_iff_le]
  rw [if_neg (by omega)]

/-- The last word. -/
theorem receiveWord_takes_last (h : checkWord s.ck s.ck.nimg len w.toNat = none) (h8 : 8 ≤ s.ck.nimg ∧ 4 * s.ck.nimg = len - 4) :
    receiveWord w s = setReg 0x4430 (BitVec.ofNat 32 (crcFin (takeWord s.ck.nimg len w s.ck).crc.toNat))
      (setRegF 0x4420 2 0 2 { setRegF 0x4420 2 0 1 s with ck := takeWord s.ck.nimg len w s.ck }) := by
  have h7 : s.ck.nimg ≠ 7 := by omega
  unfold receiveWord
  simp only [hlen, setRegF_ck, h, if_neg h7, if_pos h8, ge_iff_le]

end

/-- Settles O13. -/
theorem waybillWordsAreReceived : Obligations.WaybillWordsAreReceived := by
  unfold Obligations.WaybillWordsAreReceived
  refine ⟨fun s hi hw hc => ?_, fun w s hi hc hw => ?_⟩
  · show Host.Outcome.next (if inReset s || wbState s != 0 || s.ck.cfgReq then s else _) = _
    rw [if_neg (by simp [hi, hw, hc])]
    rfl
  · have he : exec (.cfgWord w) s = .next (receiveWord w s) := congrArg Host.Outcome.next (if_pos (by simp [hi, hc, hw]))
    refine ⟨_, he, exec_only he, receiveWord_within w s, ?_⟩
    intro len hlen
    have hlen := hlen.symm
    refine ⟨fun r h => ?_, fun h => ?_⟩
    · rw [receiveWord_fails hlen h]
      exact failLoad_fails _ _ _ (setRegF_only _ _ _ _ s) (setRegF_within _ _ _ _ s)
    · by_cases h8 : 8 ≤ s.ck.nimg ∧ 4 * s.ck.nimg = len - 4
      · rw [receiveWord_takes_last hlen h h8, if_pos h8]
        refine ⟨by simp, by simp, by simp, ?_, fun _ _ => ?_, fun h7 => absurd h7 (by omega)⟩
        · unfold wbState regF
          rw [reg_setReg_ne (by decide)]
          exact regF_setRegF (by decide)
        · rw [reg_setReg_self, setReg_ck, setRegF_ck]
      · rw [if_neg h8]
        by_cases h7 : s.ck.nimg = 7
        · rw [receiveWord_takes_header hlen h h7]
          refine ⟨by simp, by simp, by simp, ?_, fun h h' => absurd ⟨h, h'⟩ h8, fun _ => reg_setReg_self _ _ _⟩
          unfold wbState regF
          rw [reg_setReg_ne (by decide), reg_setReg_ne (by decide), reg_with_ck]
          exact regF_setRegF (by decide)
        · rw [receiveWord_takes hlen h h7 h8]
          refine ⟨rfl, by simp, by simp, ?_, fun h h' => absurd ⟨h, h'⟩ h8, fun h => absurd h h7⟩
          unfold wbState regF
          rw [reg_with_ck]
          exact regF_setRegF (by decide)

end Sys2Proof.Machine
end

section
/-!
PROOFS. What the application of a Waybill leaves in the partition masks and tally bindings.
-/
namespace Sys2Proof.Machine

theorem length_sectWords (ss : List Sect) (t n : Nat) (d : List Nat) : (sectWords ss t n d).length = n := by
  unfold sectWords
  simp only [List.length_append, List.length_take, List.length_replicate]
  omega

/-- What no operation of a run changes. -/
theorem forEach_keep {α β : Type} {f : α → State → State} (g : State → β) {l : List α} {s : State}
    (h : ∀ x ∈ l, ∀ s, g (f x s) = g s) : g (forEach l f s) = g s := by
  induction l generalizing s with
  | nil => rfl
  | cons x xs ih =>
    exact (ih fun y hy => h y (List.mem_cons_of_mem x hy)).trans (h x List.mem_cons_self s)

/-- A register that no operation of a run writes. -/
theorem reg_forEach_keep {α : Type} {f : α → State → State} {p : Nat} {l : List α} {s : State}
    (h : ∀ x ∈ l, ∀ s, reg (f x s) p = reg s p) : reg (forEach l f s) p = reg s p :=
  forEach_keep (fun s => reg s p) h

theorem reg_when_keep {f : State → State} {p : Nat} {c : Bool} {s : State} (h : reg (f s) p = reg s p) :
    reg (when c f s) p = reg s p := by
  unfold Machine.when
  split
  · exact h
  · rfl

/-- The preloaded tables lie above. -/
theorem reg_preload {p : Nat} (hp : p < 0x8000) (ss : List Sect) (s : State) : reg (preload ss s) p = reg s p := by
  unfold preload
  dsimp only
  rw [reg_forEach_keep, reg_forEach_keep, reg_forEach_keep]
  · intro r _ s
    rw [reg_when_keep (reg_orReg_ne (by omega))]
    rfl
  · intro r _ s
    rw [reg_when_keep (reg_orReg_ne (by omega))]
    rfl
  · intro r _ s
    rw [reg_when_keep (reg_setReg_ne (by omega) _ _), reg_when_keep (reg_orReg_ne (by omega))]
    rfl

theorem reg_loadMaps {p : Nat} (hp : p < 0x7080) (m : FwMap) (s : State) : reg (loadMaps m s) p = reg s p := by
  unfold loadMaps
  rw [reg_forEach_keep fun b _ s => reg_orReg_ne (by omega), reg_setRegs_ge _ _ _ _ (.inl (by omega))]
  rfl

theorem reg_loadQuota {p : Nat} (hp : p < 0x2410 ∨ 0x2430 ≤ p) (ss : List Sect) (m : FwMap) (s : State) :
    reg (loadQuota ss m s) p = reg s p := by
  unfold loadQuota
  exact reg_setRegs_ge _ _ _ _ (by rw [length_sectWords]; omega)

theorem reg_loadPower {p : Nat} (h0 : p ≠ 0x0800) (h1 : p < 0x0840 ∨ 0x0870 ≤ p) (h2 : p ≠ 0x40A0) (ss : List Sect) (m : FwMap)
    (s : State) : reg (loadPower ss m s) p = reg s p := by
  unfold loadPower
  dsimp only
  rw [reg_forEach_keep fun i _ s => ((setDom_within i _ s).reg p rfl), reg_setReg_ne h2,
    reg_forEach_keep fun lb _ s => ((defaultPower_within lb _ s).reg p rfl), reg_setReg_ne h0,
    reg_setRegs_ge _ _ _ _ (by rw [List.length_map, List.length_range]; omega)]

/-- The partition masks hold the words of their section: what is written after them lies elsewhere. -/
theorem reg_loadRegs_part {n : Nat} (hn : n < 24) (ss : List Sect) (s : State) :
    reg (loadRegs ss s) (0x1000 + 4 * n) = BitVec.ofNat 32 (listGet 0 (sectWords ss 4 24 dfltPart) n) := by
  have hq : ∀ g : Nat → Word, ∀ s, reg (forEach (List.range 64) (fun n => setReg (0x3100 + 16 * n) (g n)) s) (0x1000 + 4 * n)
      = reg s (0x1000 + 4 * n) := fun g s => reg_forEach_keep fun k _ s => reg_setReg_ne (by omega) _ s
  unfold loadRegs
  dsimp only
  rw [reg_preload (by omega)]
  simp (disch := (simp only [ne_eq, List.length_take, List.length_drop, length_sectWords, List.length_map, List.length_range,
    List.length_cons, List.length_nil]; omega)) only [reg_setRegs_ge, reg_setReg_ne, hq]
  exact reg_setRegs _ _ _ _ (by rw [length_sectWords]; exact hn)

/-- The tally bindings hold the words of their section. -/
theorem reg_loadRegs_tally {n : Nat} (hn : n < 8) (ss : List Sect) (s : State) :
    reg (loadRegs ss s) (0x3080 + 4 * n) = BitVec.ofNat 32 (listGet 0 (sectWords ss 9 8 dfltTally) n) := by
  unfold loadRegs
  dsimp only
  rw [reg_preload (by omega)]
  simp (disch := (simp only [ne_eq, List.length_take, List.length_drop, length_sectWords, List.length_map, List.length_range,
    List.length_cons, List.length_nil]; omega)) only [reg_setRegs_ge, reg_setReg_ne]
  exact reg_setRegs _ _ _ _ (by rw [length_sectWords]; exact hn)

/-- The maps that an image's forwarding section gives. -/
def imgMaps (s : State) : FwMap :=
  let ss := imgSects s
  let nf := match sectOf ss 0x1F with | some x => x.ws.length / 2 | none => 0
  match fwdEntries 0 ((sectWords ss 0x1F 1024 []).take (2 * nf)) FwMap.identity with | .inr m => m | .inl _ => FwMap.identity

/-- The application up to the state LOADED. -/
def applyLoaded (s : State) : State :=
  let ss := imgSects s
  let m := imgMaps s
  let nf := match sectOf ss 0x1F with | some x => x.ws.length / 2 | none => 0
  loadRegs ss s |> loadMaps m |> loadQuota ss m |> loadRails
    |> setReg 0x4400 (BitVec.ofNat 32 (bits (listGet 0 (sectWords ss 1 4 []) 2) 9 8))
    |> setReg 0x4420 3
    |> setReg 0x4434 (BitVec.ofNat 32 (nsum ((dedup (ss.map (·.typ))).map fun t => if t < 32 then 2 ^ t else 0)))
    |> setReg 0x4438 (BitVec.ofNat 32 nf)
    |> setReg 0x443C (BitVec.ofNat 32 (min s.ck.relNs (2 ^ 32 - 1)))
    |> (fun s => { s with ck := { s.ck with cfgReq := false, img := [] }, dbg := { s.dbg with armed := true }, arb := { s.arb with shAge := 0 } })

/-- What the application does after cause 0 but for a level command that waits. -/
def applyPower (ss : List Sect) (m : FwMap) (s : State) : State :=
  loadPower ss m s |> reloadStaging |> forEach (List.range 8) rekeyCtx |> (fun s => when (regB s 0x6000 0) startTrace s)

theorem applyImage_eq (s : State) :
    applyImage s = takeHeld (applyPower (imgSects s) (imgMaps s) (raise 0 (applyLoaded s))) := rfl

theorem reg_applyLoaded {p : Nat} (h0 : p < 0x2410 ∨ 0x2430 ≤ p) (h1 : p < 0x4400) (s : State) :
    reg (applyLoaded s) p = reg (loadRegs (imgSects s) s) p := by
  have hc : ∀ (s : State) (k : CkSt) (d : DbgSt) (a : ArbSt), reg { s with ck := k, dbg := d, arb := a } p = reg s p :=
    fun _ _ _ _ => rfl
  unfold applyLoaded
  dsimp only
  rw [hc]
  simp (disch := omega) only [reg_setReg_ne]
  rw [(loadRails_within _).reg p rfl, reg_loadQuota h0, reg_loadMaps (by omega)]

theorem wbState_applyLoaded (s : State) : reg (applyLoaded s) 0x4420 = 3 := by
  have hc : ∀ (s : State) (k : CkSt) (d : DbgSt) (a : ArbSt), reg { s with ck := k, dbg := d, arb := a } 0x4420 = reg s 0x4420 :=
    fun _ _ _ _ => rfl
  unfold applyLoaded
  dsimp only
  rw [hc, reg_setReg_ne (by decide), reg_setReg_ne (by decide), reg_setReg_ne (by decide), reg_setReg_self]

theorem loadRegs_ck (ss : List Sect) (s : State) : ∃ r, (loadRegs ss s).ck = { s.ck with relaxed := r } := by
  have hf : ∀ (g : Nat → Word) l s, (forEach l (fun n => setReg (0x3100 + 16 * n) (g n)) s).ck = s.ck := fun g l s =>
    forEach_keep (fun s => s.ck) fun n _ s => setReg_ck _ _ s
  have hr : ∀ o l s, (setRegs o l s).ck = s.ck := fun o l s => setRegs_only o l s .ck (by decide)
  refine ⟨bit (listGet 0 (sectWords ss 1 4 []) 2) 10, ?_⟩
  unfold loadRegs
  dsimp only
  rw [show (preload ss _).ck = _ from preload_only ss _ .ck (by decide)]
  simp only [hr, setReg_ck, hf]

theorem applyLoaded_ck (s : State) : ∃ r, (applyLoaded s).ck = { s.ck with relaxed := r, cfgReq := false, img := [] } := by
  obtain ⟨r, hr⟩ := loadRegs_ck (imgSects s) s
  have hk : ∀ m ss, (loadRails (loadQuota ss m (loadMaps m (loadRegs (imgSects s) s)))).ck = { s.ck with relaxed := r } := fun m ss =>
    (loadRails_only _ .ck (by decide)).trans ((loadQuota_only _ _ _ .ck (by decide)).trans
      ((loadMaps_only _ _ .ck (by decide)).trans hr))
  refine ⟨r, ?_⟩
  unfold applyLoaded
  simp only [setReg_ck, hk]

theorem reg_applyPower {p : Nat} (h0 : p ≠ 0x0800) (h1 : p < 0x0840 ∨ 0x0870 ≤ p) (h2 : p ≠ 0x40A0)
    (h3 : [(⟨0x4904, 4, 87⟩ : Span), ⟨0x6014, 4, 5⟩].any (fun x => x.has p) = false) (ss : List Sect) (m : FwMap) (s : State) :
    reg (applyPower ss m s) p = reg s p := by
  have hs : reg (startTrace (forEach (List.range 8) rekeyCtx (reloadStaging (loadPower ss m s)))) p
      = reg (forEach (List.range 8) rekeyCtx (reloadStaging (loadPower ss m s))) p :=
    ((startTrace_within _).mono (ys := [⟨0x4904, 4, 87⟩, ⟨0x6014, 4, 5⟩]) (by decide)).reg p h3
  have hr : reg (reloadStaging (loadPower ss m s)) p = reg (loadPower ss m s) p :=
    ((reloadStaging_within _).mono (ys := [⟨0x4904, 4, 87⟩, ⟨0x6014, 4, 5⟩]) (by decide)).reg p h3
  unfold applyPower
  dsimp only
  rw [reg_when_keep hs, reg_forEach_keep fun c _ s => (rekeyCtx_within c s).reg p rfl, hr, reg_loadPower h0 h1 h2]

theorem applyPower_after_only (ss : List Sect) (m : FwMap) (s : State) :
    Only [.free, .regs, .fr, .tr, .pr] (loadPower ss m s) (applyPower ss m s) := by
  unfold applyPower
  dsimp only
  refine Only.trans ?_ (Only.when (fun s => (startTrace_only s).mono (by decide)) _ _)
  refine Only.trans ?_ (Only.forEach (fun c s => (rekeyCtx_only c s).mono (by decide)) _ _)
  exact (reloadStaging_only _).mono (by decide)

theorem applyPower_ck (ss : List Sect) (m : FwMap) (s : State) : (applyPower ss m s).ck = s.ck :=
  (applyPower_after_only ss m s .ck (by decide)).trans (loadPower_only ss m s .ck (by decide))

/-- The level command held stays. -/
theorem applyPower_held (ss : List Sect) (m : FwMap) (s : State) : (applyPower ss m s).pw.held = s.pw.held := by
  have hd : ∀ (g : Nat → State → BankPow) l s, (forEach l (fun i s => setDom i (g i s) s) s).pw.held = s.pw.held := fun g l s =>
    forEach_keep (fun s => s.pw.held) fun i _ s => rfl
  have hb : ∀ bp l s, (forEach l (fun lb => defaultPower lb (byteAt bp lb % 16)) s).pw = s.pw := fun bp l s =>
    Only.forEach (fun lb s => defaultPower_only lb _ s) l s .pw (by decide)
  have hr : ∀ o l s, (setRegs o l s).pw = s.pw := fun o l s => setRegs_only o l s .pw (by decide)
  rw [applyPower_after_only ss m s .pw (by decide)]
  unfold loadPower
  dsimp only
  rw [hd, setReg_pw, hb, setReg_pw, hr]

theorem applyLoaded_pw (s : State) : (applyLoaded s).pw.held = s.pw.held := by
  have hr : (loadRegs (imgSects s) s).pw = s.pw := loadRegs_only _ _ .pw (by decide)
  have hl : ∀ s, (loadRails s).pw.held = s.pw.held := fun _ => rfl
  have hk : ∀ m ss, (loadRails (loadQuota ss m (loadMaps m (loadRegs (imgSects s) s)))).pw.held = s.pw.held := fun m ss =>
    (hl _).trans (congrArg PwrSt.held ((loadQuota_only _ _ _ .pw (by decide)).trans ((loadMaps_only _ _ .pw (by decide)).trans hr)))
  unfold applyLoaded
  simp only [setReg_pw]
  exact hk _ _

theorem takeHeld_none {s : State} (h : s.pw.held = none) : takeHeld s = s := by
  unfold takeHeld
  rw [h]
  cases s.pw.cmd <;> rfl

/-- A register that neither the application nor a level command that begins writes. -/
theorem reg_takeHeld {p : Nat} (h : eventRegs.any (fun x => x.has p) = false) (s : State) : reg (takeHeld s) p = reg s p :=
  (takeHeld_within s).reg p h

/-- What an applied image leaves (R378). -/
theorem applyImage_loads (s : State) : wbState (applyImage s) = 3 ∧ (applyImage s).ck.por = s.ck.por
    ∧ (applyImage s).ck.trst = s.ck.trst ∧ (applyImage s).ck.swrst = s.ck.swrst ∧ (applyImage s).ck.cfgReq = false := by
  obtain ⟨r, hr⟩ := applyLoaded_ck s
  have hk : (applyImage s).ck = { s.ck with relaxed := r, cfgReq := false, img := [] } := by
    rw [applyImage_eq, show (takeHeld _).ck = _ from takeHeld_only _ .ck (by decide), applyPower_ck, raise_ck, hr]
  refine ⟨?_, by rw [hk], by rw [hk], by rw [hk], by rw [hk]⟩
  unfold wbState
  refine (regF_of_reg (n := 3) ?_ (by decide)).trans rfl
  rw [applyImage_eq, reg_takeHeld rfl, reg_applyPower (by decide) (by decide) (by decide) rfl, raise_reg rfl, wbState_applyLoaded]
  rfl

theorem applyImage_part {n : Nat} (hn : n < 24) (s : State) :
    reg (applyImage s) (0x1000 + 4 * n) = BitVec.ofNat 32 (listGet 0 (sectWords (imgSects s) 4 24 dfltPart) n) := by
  have he : ∀ n, n < 24 → (eventRegs ++ [(⟨0x4904, 4, 87⟩ : Span), ⟨0x6014, 4, 5⟩]).any (fun x => x.has (0x1000 + 4 * n)) = false := by
    decide
  obtain ⟨he, hs⟩ := Bool.or_eq_false_iff.mp ((List.any_append ..).symm.trans (he n hn))
  rw [applyImage_eq, reg_takeHeld he, reg_applyPower (by omega) (by omega) (by omega) hs, raise_reg he,
    reg_applyLoaded (by omega) (by omega), reg_loadRegs_part hn]

theorem applyImage_tally {n : Nat} (hn : n < 8) (s : State) :
    reg (applyImage s) (0x3080 + 4 * n) = BitVec.ofNat 32 (listGet 0 (sectWords (imgSects s) 9 8 dfltTally) n) := by
  have he : ∀ n, n < 8 → (eventRegs ++ [(⟨0x4904, 4, 87⟩ : Span), ⟨0x6014, 4, 5⟩]).any (fun x => x.has (0x3080 + 4 * n)) = false := by
    decide
  obtain ⟨he, hs⟩ := Bool.or_eq_false_iff.mp ((List.any_append ..).symm.trans (he n hn))
  rw [applyImage_eq, reg_takeHeld he, reg_applyPower (by omega) (by omega) (by omega) hs, raise_reg he,
    reg_applyLoaded (by omega) (by omega), reg_loadRegs_tally hn]

/-- Cause 0 is pending, where no level command waits that begins. -/
theorem applyImage_raises {s : State} (h : s.pw.held = none) : regB (applyImage s) 0x7000 0 = true := by
  rw [applyImage_eq, takeHeld_none (by rw [applyPower_held, raise_pw, applyLoaded_pw, h])]
  unfold regB
  rw [reg_applyPower (by decide) (by decide) (by decide) rfl]
  exact raise_sets 0 _

/-- Settles O14. -/
theorem waybillCheckLoadsOrFails : Obligations.WaybillCheckLoadsOrFails := by
  unfold Obligations.WaybillCheckLoadsOrFails
  refine ⟨fun s hi hw hc hn => ?_, fun s hi hw hc => ?_, fun s r hi hw hc hn => ?_, fun s hi hr hs ht => ?_⟩
  · have he : exec .waybillCheck s = .next (applyImage s) := by
      refine congrArg Host.Outcome.next ((if_pos (by simp [hi, hw])).trans ?_)
      simp only [hc, ne_eq, not_true_eq_false, if_false, hn]
    obtain ⟨hwb, hp, ht, hsw, hcr⟩ := applyImage_loads s
    have ho := applyImage_only s
    refine ⟨_, he, hwb, ?_, hcr, fun n hn => applyImage_part hn s, fun n hn => applyImage_tally hn s, applyImage_raises,
      ho .mem (by decide), ho .tm (by decide), ho .cnt (by decide), ho .sq (by decide)⟩
    unfold inReset at hi ⊢
    rw [hp, ht, hsw, hi]
  · have he : exec .waybillCheck s = .next (failLoad 9 0 (imgLen s.ck - 4) s) :=
      congrArg Host.Outcome.next ((if_pos (by simp [hi, hw])).trans (if_pos hc))
    exact ⟨_, he, failLoad_fails _ _ _ (Only.refl _ s) (Within.refl _ s)⟩
  · have he : exec .waybillCheck s = .next (failLoad r.1 r.2.1 r.2.2 s) := by
      refine congrArg Host.Outcome.next ((if_pos (by simp [hi, hw])).trans ?_)
      simp only [hc, ne_eq, not_true_eq_false, if_false, hn]
    exact ⟨_, he, failLoad_fails _ _ _ (Only.refl _ s) (Within.refl _ s)⟩
  · have he : exec .loadTimeout s = .next (failLoad 14 0 (4 * s.ck.nimg) s) :=
      congrArg Host.Outcome.next (if_pos (by simp [hi, hr, hs, ht]))
    exact ⟨_, he, failLoad_fails _ _ _ (Only.refl _ s) (Within.refl _ s)⟩

end Sys2Proof.Machine
end

section
/-!
PROOFS. Register accesses by their kind: latched counter reads, the access types, and the writes that are commands.
-/
namespace Sys2Proof.Machine

/-! Latched reads (R417 to R420) -/

/-- A value of a counter's low word. -/
theorem latchCounter_shadow (l : Nat) (c : BitVec 56) (s : State) (k : Nat) :
    NMap.get 0 (latchCounter l c s).2.bus.cntSh k = if k = l then c.extractLsb' 32 24 else NMap.get 0 s.bus.cntSh k :=
  NMap.get_set _ _ _ _ _

theorem beforeLoad_loaded {s : State} (h : wbState s = 3) (act : State → Word × State) : beforeLoad s act = act s := if_pos h

/-- An accepted write of the extended counters' control register. -/
theorem writeXcCtl_clears {w : Word} (s : State) (h : w.getLsbD 1 = true) :
    (writeXcCtl w s).xc = [] ∧ regB (writeXcCtl w s) 0x5F00 0 = w.getLsbD 0 := by
  have hw : writeXcCtl w s = { setReg 0x5F00 (w &&& 1) s with xc := [] } := if_pos h
  rw [hw]
  refine ⟨rfl, ?_⟩
  show bit (reg (setReg 0x5F00 (w &&& 1) s) 0x5F00).toNat 0 = _
  rw [reg_setReg_self]
  show (w &&& 1).getLsbD 0 = _
  rw [BitVec.getLsbD_and]
  simp

/-- The index field of a selection, after an advance. -/
theorem xcAdvance_index (l k : Nat) (s : State) :
    (NMap.get 0 (xcAdvance l s).bus.xcSel k).toNat % 4096 =
      if k = l ∧ (NMap.get 0 s.bus.xcSel k).toNat.testBit 16 = true then ((NMap.get 0 s.bus.xcSel k).toNat + 1) % 4096
      else (NMap.get 0 s.bus.xcSel k).toNat % 4096 := by
  have hb : ∀ n, bits n 11 0 = n % 4096 := fun n => by simp [bits]
  unfold xcAdvance xcSel
  dsimp only
  by_cases hk : k = l
  · subst hk
    split
    next h =>
      have h2 := bits_mod (setBits (NMap.get 0 s.bus.xcSel k).toNat 11 0 (bits (NMap.get 0 s.bus.xcSel k).toNat 11 0 + 1)) 11 0 32
        (by decide)
      rw [bits_setBits, hb, hb] at h2
      have ht : (NMap.get 0 s.bus.xcSel k).toNat.testBit 16 = true := h
      rw [if_pos ⟨rfl, ht⟩]
      dsimp only
      rw [NMap.get_set_self, BitVec.toNat_ofNat, hb, h2]
      omega
    next h => exact (if_neg fun hc => h hc.2).symm
  · refine Eq.trans ?_ (if_neg fun hc => hk hc.1).symm
    split
    · dsimp only
      rw [NMap.get_set_ne _ _ _ hk]
    · rfl

theorem xcAdvance_only_bus (l : Nat) (s : State) : Only [.bus] s (xcAdvance l s) ∧ (xcAdvance l s).bus.cntSh = s.bus.cntSh := by
  unfold xcAdvance
  dsimp only
  split
  · simp [Only.mk_iff, Only.refl]
  · exact ⟨Only.refl _ _, rfl⟩

/-- Settles O15: an accepted read is the latch, an advance of the selection its answer. -/
theorem counterReadsLatchTheHighBits : Obligations.CounterReadsLatchTheHighBits := by
  unfold Obligations.CounterReadsLatchTheHighBits
  refine ⟨fun a off s hc ha => ?_, fun a s ha hl => ?_, fun a s ha hl => ?_, fun a w s ha h1 => ?_⟩
  · have he : exec (.counterLowRead a off) s = .next (respond (cntLo (NMap.get 0 s.cnt off.toNat)) false
        (latchCounter (lvl a) (NMap.get 0 s.cnt off.toNat) s).2) :=
      congrArg Host.Outcome.next ((if_pos hc).trans (busRead_accepts ha))
    exact ⟨_, he, (latchCounter_only _ _ s).respond _ _ (by decide), ⟨rfl, rfl⟩, latchCounter_shadow _ _ s⟩
  · have he : exec (.xcLoRead a) s = .next (respond (cntLo (xcValue s (lvl a))) false (latchCounter (lvl a) (xcValue s (lvl a)) s).2) := by
      refine congrArg Host.Outcome.next ((busRead_accepts ha).trans ?_)
      rw [beforeLoad_loaded hl]
      rfl
    refine ⟨_, he, (latchCounter_only _ _ s).respond _ _ (by decide), ?_⟩
    rintro i c rfl rfl
    have hb : bits (xcSel s (lvl a)) 11 0 = (NMap.get 0 s.bus.xcSel a.priv.toNat).toNat % 4096 := by simp [xcSel, lvl, bits]
    have hx : xcValue s (lvl a) = if xcReadable s a.priv.toNat ((NMap.get 0 s.bus.xcSel a.priv.toNat).toNat % 4096) = true then
        NMap.get 0 s.xc ((NMap.get 0 s.bus.xcSel a.priv.toNat).toNat % 4096) else 0 :=
      congrArg (fun i => if xcReadable s a.priv.toNat i = true then NMap.get 0 s.xc i else 0) hb
    rw [← hx]
    exact ⟨⟨rfl, rfl⟩, latchCounter_shadow _ _ s⟩
  · have he : exec (.xcHiRead a) s = .next (respond (BitVec.ofNat 32 (NMap.get 0 s.bus.cntSh a.priv.toNat).toNat) false (xcAdvance (lvl a) s)) := by
      refine congrArg Host.Outcome.next ((busRead_accepts ha).trans ?_)
      rw [beforeLoad_loaded hl]
      rfl
    obtain ⟨ho, hs⟩ := xcAdvance_only_bus (lvl a) s
    refine ⟨_, he, ho.respond _ _ (by decide), ⟨rfl, rfl⟩, hs, ?_⟩
    rintro l n rfl
    exact xcAdvance_index (lvl a) l s
  · obtain ⟨hx, hr⟩ := writeXcCtl_clears s h1
    refine exists_write ha ⟨(writeXcCtl_only w s).respond _ _ (by decide), writeXcCtl_within w s, ⟨rfl, rfl⟩, fun i => ?_, hr⟩
    show NMap.get 0 (writeXcCtl w s).xc i = 0
    rw [hx]
    rfl

/-! Access types (R14, R59) -/

theorem registerWrite_accepts {a : BusAcc} {off : BitVec 16} {w : Word} {s : State} (h : accepts a true off.toNat s)
    (hn : namesMine a off.toNat w s = true) : exec (.registerWrite a off w) s = .next (respond 0 false (regWrite a off.toNat w s)) := by
  show execRegisterWrite a off w s = _
  unfold execRegisterWrite
  rw [busWriteFor_mine hn, busWrite_accepts h]

theorem regWrite_plain {a : BusAcc} {o m : Nat} {w : Word} {s : State} (h : plainMask o = some m) : regWrite a o w s = store o m w s := by
  unfold regWrite
  rw [h]

theorem regWrite_w1c {a : BusAcc} {o m : Nat} {w : Word} {s : State} (hp : plainMask o = none) (h : w1cMask o = some m) :
    regWrite a o w s = w1c o m w s := by
  unfold regWrite
  rw [hp, h]

/-- What a write to a log's first word clears. -/
theorem clearLog_bits (o : Nat) (w : Word) (s : State) (i : Nat) :
    (reg (clearLog o w s) o).getLsbD i = ((reg s o).getLsbD i && !(decide (i < 2) && w.getLsbD 0) && !(i == 1 && w.getLsbD 1)) := by
  cases h0 : w.getLsbD 0 with
  | true =>
    rw [clearLog_valid h0, reg_clrReg_self, getLsbD_and_not, getLsbD_three, Bool.and_true]
    by_cases hi : i = 1
    · simp [hi]
    · simp [hi]
  | false =>
    cases h1 : w.getLsbD 1 with
    | true =>
      rw [clearLog_ovf h0 h1, reg_clrReg_self, getLsbD_and_not, getLsbD_two]
      simp
    | false =>
      rw [show clearLog o w s = s from (if_neg (Bool.eq_false_iff.mp h0)).trans (if_neg (Bool.eq_false_iff.mp h1))]
      simp

theorem clearLog_within_self (o : Nat) (w : Word) (s : State) : Within [⟨o, 0, 1⟩] s (clearLog o w s) := by
  unfold clearLog
  split
  · exact clrReg_within _ _ _
  · split
    · exact clrReg_within _ _ _
    · exact Within.refl _ _

/-- Settles O17. -/
theorem registerWritesFollowTheirAccessType : Obligations.RegisterWritesFollowTheirAccessType := by
  unfold Obligations.RegisterWritesFollowTheirAccessType
  refine ⟨fun a off w s ha hn => ⟨_, registerWrite_accepts ha hn, rfl, rfl⟩, fun a off w s m ha hn hm => ?_,
    fun a off w s m ha hn hp hm => ?_, fun a off w s ha hl => ?_⟩
  · have he := registerWrite_accepts ha hn
    rw [regWrite_plain hm] at he
    exact ⟨_, he, ⟨rfl, rfl⟩, (setReg_only _ _ s).respond _ _ (by decide), setReg_within _ _ s, reg_setReg_self _ _ s⟩
  · have he := registerWrite_accepts ha hn
    rw [regWrite_w1c hp hm] at he
    refine ⟨_, he, ⟨rfl, rfl⟩, (setReg_only _ _ s).respond _ _ (by decide), setReg_within _ _ s, fun i => ?_⟩
    show (reg (setReg _ _ s) _).getLsbD i = _
    rw [reg_setReg_self, getLsbD_and_not, BitVec.getLsbD_and]
  · exact ⟨_, registerWrite_log hl ha, ⟨rfl, rfl⟩, (clearLog_only _ w s).respond _ _ (by decide), clearLog_within_self _ w s,
      clearLog_bits _ w s⟩

end Sys2Proof.Machine
end
section
/-!
PROOFS. Writes of registers that commands name (log entry 73): a write of the offset and value is the command's write.
-/
namespace Sys2Proof.Machine

/-- A write that names no item by its value is the write of what it does. -/
theorem registerWrite_is {a : BusAcc} {off : BitVec 16} {w : Word} {s : State} {act : State → State}
    (hm : namesMine a off.toNat w = fun _ => true) (hr : regWrite a off.toNat w = act) :
    exec (.registerWrite a off w) s = .next (busWrite a off.toNat act s) := by
  show Host.Outcome.next (busWriteFor a off.toNat _ _ s) = _
  rw [hr, busWriteFor_mine (by rw [hm])]

/-- A field of a word, as the model takes it. -/
theorem field_of_extract {w : Word} {lo n : Nat} {x : BitVec n} (h : w.extractLsb' lo n = x) : (w.toNat >>> lo) % 2 ^ n = x.toNat := by
  rw [← BitVec.extractLsb'_toNat, h]

/-! What the value's command field names -/

theorem commandQueue_resume {w : Word} (h : w.extractLsb' 8 3 = 1) : commandQueue w = resumeQueue (bits w.toNat 5 0) := by
  unfold commandQueue
  rw [show bits w.toNat 10 8 = 1 from field_of_extract h]
  rfl

theorem commandQueue_skip {w : Word} (h : w.extractLsb' 8 3 = 2) : commandQueue w = skipQueue (bits w.toNat 5 0) := by
  unfold commandQueue
  rw [show bits w.toNat 10 8 = 2 from field_of_extract h]
  rfl

theorem commandQueue_flush {w : Word} (h : w.extractLsb' 8 3 = 3) : commandQueue w = flushQueue (bits w.toNat 5 0) := by
  unfold commandQueue
  rw [show bits w.toNat 10 8 = 3 from field_of_extract h]
  rfl

theorem commandQueue_pause {w : Word} (h : w.extractLsb' 8 3 = 4) : commandQueue w = pauseQueue (bits w.toNat 5 0) := by
  unfold commandQueue
  rw [show bits w.toNat 10 8 = 4 from field_of_extract h]
  rfl

theorem commandBucket_arm {w : Word} {l : Nat} (h : w.extractLsb' 8 2 = 1) : commandBucket l w = armBucket l (bits w.toNat 5 0) := by
  unfold commandBucket
  rw [show bits w.toNat 9 8 = 1 from field_of_extract h]
  rfl

theorem commandBucket_abort {w : Word} {l : Nat} (h : w.extractLsb' 8 2 = 2) : commandBucket l w = abortBucket l (bits w.toNat 5 0) := by
  unfold commandBucket
  rw [show bits w.toNat 9 8 = 2 from field_of_extract h]
  rfl

theorem commandProt_propose {w : Word} (h : w.extractLsb' 0 2 = 1) : commandProt w = propose := by
  unfold commandProt
  rw [show bits w.toNat 1 0 = 1 from field_of_extract h]
  rfl

theorem commandProt_cancel {w : Word} (h : w.extractLsb' 0 2 = 2) : commandProt w = cancelProposal := by
  unfold commandProt
  rw [show bits w.toNat 1 0 = 2 from field_of_extract h]
  rfl

theorem commandProt_rekey {w : Word} (h : w.extractLsb' 0 2 = 3) : commandProt w = rekeyCtx (bits w.toNat 6 4) := by
  unfold commandProt
  rw [show bits w.toNat 1 0 = 3 from field_of_extract h]
  rfl

theorem commandFwd_forward {w : Word} (h : w.extractLsb' 0 3 = 1) : commandFwd w = commandForward (bits w.toNat 6 4) (bits w.toNat 19 8) := by
  unfold commandFwd
  rw [show bits w.toNat 2 0 = 1 from field_of_extract h]
  rfl

theorem commandFwd_cancel {w : Word} (h : w.extractLsb' 0 3 = 2) : commandFwd w = commandCancel := by
  unfold commandFwd
  rw [show bits w.toNat 2 0 = 2 from field_of_extract h]
  rfl

theorem commandFwd_ack {w : Word} (h : w.extractLsb' 0 3 = 3) : commandFwd w = commandAck := by
  unfold commandFwd
  rw [show bits w.toNat 2 0 = 3 from field_of_extract h]
  rfl

theorem commandFwd_resume {w : Word} (h : w.extractLsb' 0 3 = 4) : commandFwd w = commandResume := by
  unfold commandFwd
  rw [show bits w.toNat 2 0 = 4 from field_of_extract h]
  rfl

/-! A command whose item the value names -/

/-- A queue command names its queue by its low six bits. -/
theorem registerWrite_queue {a : BusAcc} {w : Word} {s : State} {act : Nat → State → State}
    (h : commandQueue w = act (bits w.toNat 5 0)) :
    exec (.registerWrite a 0x3010 w) s =
      .next (busWriteFor a 0x3010 (cmdMine a (w.extractLsb' 0 6).toNat) (act (w.extractLsb' 0 6).toNat) s) := by
  have hq : bits w.toNat 5 0 = (w.extractLsb' 0 6).toNat := field_of_extract rfl
  show Host.Outcome.next (busWriteFor a 0x3010 (cmdMine a (bits w.toNat 5 0)) (commandQueue w) s) = _
  rw [h, hq]

theorem registerWrite_tally {a : BusAcc} {w : Word} {s : State} :
    exec (.registerWrite a 0x3014 w) s = exec (.tallyInc a (w.extractLsb' 0 6)) s := by
  have ht : bits w.toNat 5 0 = (w.extractLsb' 0 6).toNat := field_of_extract rfl
  show Host.Outcome.next (busWriteFor a 0x3014 (fun s => lvl a == 0 || tlyBind s (bits w.toNat 5 0) % 8 == lvl a)
    (tallyAdd 1 (bits w.toNat 5 0)) s) = _
  rw [ht]
  rfl

theorem registerWrite_bucket {a : BusAcc} {w : Word} {s : State} {act : Nat → State → State}
    (h : commandBucket (lvl a) w = act (bits w.toNat 5 0)) :
    exec (.registerWrite a 0x3808 w) s = .next (busWrite a 0x3808 (act (w.extractLsb' 0 6).toNat) s) :=
  registerWrite_is rfl (h.trans (congrArg act (field_of_extract rfl)))

theorem registerWrite_rekey {a : BusAcc} {w : Word} {s : State} (h : w.extractLsb' 0 2 = 3) :
    exec (.registerWrite a 0x4810 w) s = exec (.rekey a (w.extractLsb' 4 3)) s :=
  registerWrite_is rfl ((commandProt_rekey h).trans (congrArg rekeyCtx (field_of_extract rfl)))

theorem registerWrite_forward {a : BusAcc} {w : Word} {s : State} (h : w.extractLsb' 0 3 = 1) :
    exec (.registerWrite a 0x7048 w) s = exec (.forward a (w.extractLsb' 4 3) (w.extractLsb' 8 12)) s :=
  registerWrite_is rfl ((commandFwd_forward h).trans (congr (congrArg commandForward (field_of_extract rfl)) (field_of_extract rfl)))

/-- Settles O19: each offset's write is what its command does, which the value's command field tells where several share one. -/
theorem registerWriteIsItsCommand : Obligations.RegisterWriteIsItsCommand := by
  unfold Obligations.RegisterWriteIsItsCommand
  intro a w s
  exact ⟨registerWrite_is rfl rfl, registerWrite_is rfl rfl, registerWrite_is rfl rfl, registerWrite_tally,
    fun h => registerWrite_queue (commandQueue_resume h), fun h => registerWrite_queue (commandQueue_skip h),
    fun h => registerWrite_queue (commandQueue_flush h), fun h => registerWrite_queue (commandQueue_pause h),
    registerWrite_is rfl rfl, registerWrite_is rfl rfl, registerWrite_is rfl rfl, registerWrite_is rfl rfl,
    registerWrite_is rfl rfl, registerWrite_is rfl rfl, fun h => registerWrite_bucket (commandBucket_arm h),
    fun h => registerWrite_bucket (commandBucket_abort h), fun h => registerWrite_is rfl (commandProt_propose h),
    fun h => registerWrite_is rfl (commandProt_cancel h), registerWrite_rekey, registerWrite_is rfl rfl, registerWrite_is rfl rfl,
    registerWrite_is rfl rfl, registerWrite_is rfl rfl, registerWrite_is rfl rfl, registerWrite_is rfl rfl,
    registerWrite_is rfl rfl, registerWrite_is rfl rfl, registerWrite_is rfl rfl, registerWrite_is rfl rfl,
    registerWrite_is rfl rfl, registerWrite_is rfl rfl, registerWrite_is rfl rfl, registerWrite_is rfl rfl,
    registerWrite_is rfl rfl, registerWrite_is rfl rfl, registerWrite_forward, fun h => registerWrite_is rfl (commandFwd_cancel h),
    fun h => registerWrite_is rfl (commandFwd_ack h), fun h => registerWrite_is rfl (commandFwd_resume h)⟩

end Sys2Proof.Machine
end

section
/-!
PROOFS. The table windows: a word written or read at its address, and the valid bits (R133, R139, R140, R199 to R202).
-/
namespace Sys2Proof.Machine

/-! Fields beside one another -/

theorem testBit_bits (n hi lo i : Nat) : (bits n hi lo).testBit i = (decide (i < hi + 1 - lo) && n.testBit (lo + i)) := by
  unfold bits
  rw [Nat.testBit_mod_two_pow, Nat.testBit_shiftRight]

theorem bits_setBits_ne {old hi lo v hi' lo' : Nat} (h : hi' < lo ∨ hi < lo') (hl : lo ≤ hi + 1) :
    bits (setBits old hi lo v) hi' lo' = bits old hi' lo' := by
  refine Nat.eq_of_testBit_eq fun i => ?_
  rw [testBit_bits, testBit_bits]
  by_cases hi' : i < hi' + 1 - lo'
  · rw [show (setBits old hi lo v).testBit (lo' + i) = _ from bit_setBits old hi lo v _ (by omega) hl]
    rfl
  · rw [decide_eq_false hi', Bool.false_and, Bool.false_and]

theorem regF_setRegF_ne {o hi lo v hi' lo' : Nat} {s : State} (h : hi' < lo ∨ hi < lo') (hl : lo ≤ hi + 1) (hh : hi' < 32) :
    regF (setRegF o hi lo v s) o hi' lo' = regF s o hi' lo' := by
  unfold setRegF
  rw [regF_of_reg (reg_setReg_self _ _ s) hh, bits_setBits_ne h hl]
  rfl

theorem regB_setRegF_ne {o hi lo v i : Nat} {s : State} (h : i < lo ∨ hi < i) (hl : lo ≤ hi + 1) (hh : i < 32) :
    regB (setRegF o hi lo v s) o i = regB s o i := by
  unfold setRegF
  rw [regB_of_reg (reg_setReg_self _ _ s) hh, bit_setBits _ _ _ _ _ h hl]
  rfl

/-! A sum of bits -/

theorem nsum_append_singleton (l : List Nat) (x : Nat) : nsum (l ++ [x]) = nsum l + x := by
  unfold nsum
  rw [List.foldl_append]
  rfl

/-- The number whose bits below `n` are given. -/
theorem testBit_nsum (f : Nat → Bool) (n : Nat) :
    nsum ((List.range n).map fun i => if f i then 2 ^ i else 0) < 2 ^ n
      ∧ ∀ i, (nsum ((List.range n).map fun i => if f i then 2 ^ i else 0)).testBit i = (decide (i < n) && f i) := by
  induction n with
  | zero => exact ⟨Nat.one_pos, fun i => by simp [nsum]⟩
  | succ n ih =>
    obtain ⟨hlt, hb⟩ := ih
    rw [List.range_succ, List.map_append, List.map_singleton, nsum_append_singleton]
    generalize nsum ((List.range n).map fun i => if f i then 2 ^ i else 0) = x at hlt hb
    have hp : 2 ^ (n + 1) = 2 ^ n + 2 ^ n := by rw [Nat.pow_succ]; omega
    cases hf : f n with
    | false =>
      refine ⟨by simp only [Bool.false_eq_true, if_false]; omega, fun i => ?_⟩
      simp only [Bool.false_eq_true, if_false, Nat.add_zero, hb]
      by_cases hi : i = n
      · simp [hi, hf]
      · rw [decide_eq_decide.mpr (show i < n ↔ i < n + 1 by omega)]
    | true =>
      refine ⟨by simp only [if_true]; omega, fun i => ?_⟩
      have ho : 2 ^ n + x = 2 ^ n ||| x := by simpa using Nat.two_pow_add_eq_or_of_lt hlt 1
      rw [if_pos rfl, Nat.add_comm, ho, Nat.testBit_or, hb, Nat.testBit_two_pow]
      by_cases hi : i = n
      · simp [hi, hf]
      · rw [decide_eq_decide.mpr (show i < n ↔ i < n + 1 by omega), decide_eq_false (fun h => hi h.symm), Bool.false_or]

/-- The valid bits left are those named whose items pass. -/
theorem validBits_bit (ok : Nat → Bool) (base n w : Nat) {i : Nat} (hi : i < n) :
    (validBits ok base n w).1.testBit i = (bit w i && ok (base + i)) := by
  have h := (testBit_nsum (fun i => bit w i && ok (base + i)) n).2 i
  rw [decide_eq_true hi, Bool.true_and] at h
  exact h

theorem validBits_lt (ok : Nat → Bool) (base n w : Nat) : (validBits ok base n w).1 < 2 ^ n :=
  (testBit_nsum (fun i => bit w i && ok (base + i)) n).1

/-- Some named item fails. -/
theorem validBits_refuses {ok : Nat → Bool} {base n w i : Nat} (hi : i < n) (hb : bit w i = true) (ho : ok (base + i) = false) :
    (validBits ok base n w).2 = true :=
  List.any_eq_true.mpr ⟨i, List.mem_range.mpr hi, by rw [hb, ho]; rfl⟩

theorem validBits_passes {ok : Nat → Bool} {base n w : Nat} (h : ∀ i, i < n → bit w i = true → ok (base + i) = true) :
    (validBits ok base n w).2 = false := by
  refine List.any_eq_false.mpr fun i hi => ?_
  cases hb : bit w i with
  | false => simp
  | true => simp [h i (List.mem_range.mp hi) hb]

/-! The permute table's window -/

theorem ptAt_of_reg {s : State} {n : Nat} (h : reg s 0x8000 = BitVec.ofNat 32 (n % 64 + fld (n / 64) 8 + 0x10000)) (hn : n < 16384) :
    ptAt s = n ∧ regB s 0x8000 16 = true := by
  have hf : fld (n / 64) 8 = n / 64 * 256 := Nat.shiftLeft_eq _ _
  have hq : n / 64 ≤ 255 := by omega
  rw [hf] at h
  constructor
  · unfold ptAt
    rw [regF_of_reg h (by decide), regF_of_reg h (by decide)]
    simp only [bits, Nat.shiftRight_eq_div_pow]
    omega
  · rw [regB_of_reg h (by decide)]
    have h1 : (n % 64 + n / 64 * 256 + 65536) / 65536 = 1 := by omega
    simp only [bit, Nat.testBit_eq_decide_div_mod_eq, decide_eq_true_eq, Nat.reducePow, h1]

/-- The address after an advance of a state that holds the address of `s`. -/
theorem ptAdvance_at {u s : State} (hu : reg u 0x8000 = reg s 0x8000) :
    ptAt (ptAdvance u) = (if regB s 0x8000 16 = true then (ptAt s + 1) % 16384 else ptAt s)
      ∧ regB (ptAdvance u) 0x8000 16 = regB s 0x8000 16 := by
  have ha : ptAt u = ptAt s := by simp only [ptAt, regF, hu]
  have hb : regB u 0x8000 16 = regB s 0x8000 16 := by simp only [regB, hu]
  rw [← ha, ← hb]
  unfold ptAdvance
  split
  next h =>
    rw [h]
    exact ptAt_of_reg (reg_setReg_self _ _ u) (Nat.mod_lt _ (by decide))
  next h => exact ⟨rfl, rfl⟩

/-- What a write of the window leaves (R133, R140). -/
theorem writePtData_at (w : Word) (s : State) :
    ptAt (writePtData w s) = (if regB s 0x8000 16 = true then (ptAt s + 1) % 16384 else ptAt s)
      ∧ regB (writePtData w s) 0x8000 16 = regB s 0x8000 16 := by
  unfold writePtData
  dsimp only
  split
  · exact ptAdvance_at (reg_orReg_ne (by decide))
  · exact ptAdvance_at rfl

/-- The table and its status after a write: kept and marked where the entry is valid or busy, else the word and kept. -/
theorem writePtData_table (w : Word) (s : State) :
    if ptValid s (ptAt s / 64) = true ∨ ptBusy s (ptAt s / 64) = true then
      (writePtData w s).tb = s.tb ∧ regB (writePtData w s) 0x8008 0 = true
    else (writePtData w s).tb = { s.tb with pt := NMap.set 0 s.tb.pt (ptAt s) w } ∧ reg (writePtData w s) 0x8008 = reg s 0x8008 := by
  have hb : ∀ u : State, (ptAdvance u).tb = u.tb := fun u => ptAdvance_only u .tb (by decide)
  have hr : ∀ u : State, reg (ptAdvance u) 0x8008 = reg u 0x8008 := fun u => (ptAdvance_within u).reg _ rfl
  have hrb : ∀ u : State, regB (ptAdvance u) 0x8008 0 = regB u 0x8008 0 := fun u => by simp only [regB, hr]
  unfold writePtData
  dsimp only
  simp only [← Bool.or_eq_true]
  split
  next h => exact ⟨(hb _).trans (orReg_only _ _ s .tb (by decide)), (hrb _).trans (orReg_bit (i := 0) (by decide))⟩
  next h => exact ⟨hb _, hr _⟩

/-! The side tables' window -/

/-- The last word of an item of the space addressed. -/
def btLast (s : State) : Nat := if btTables s = true then 775 else 15

/-- The last item of the space addressed. -/
def btLastItem (s : State) : Nat := if btTables s = true then 15 else 63

/-- R199, R200: where AUTOINC counts on within the space. -/
theorem btAdvance_at {s : State} (ha : regB s 0xA000 28 = true) (hi : btInside s = true) :
    btTables (btAdvance s) = btTables s ∧ regB (btAdvance s) 0xA000 28 = true
      ∧ btWord (btAdvance s) = (if btWord s = btLast s then 0 else btWord s + 1)
      ∧ btIndex (btAdvance s) = (if btWord s ≠ btLast s then btIndex s else if btIndex s = btLastItem s then 0 else btIndex s + 1) := by
  have hx : btIndex s < 64 := Nat.mod_lt _ (by decide)
  have hin : btWord s ≤ btLast s := by
    simp only [btInside] at hi
    unfold btLast
    split at hi
    next h =>
      rw [Bool.and_eq_true, decide_eq_true_eq, decide_eq_true_eq] at hi
      rw [if_pos h]
      omega
    next h =>
      rw [decide_eq_true_eq] at hi
      rw [if_neg h]
      omega
  have hxi : btIndex s ≤ btLastItem s := by
    simp only [btInside] at hi
    unfold btLastItem
    split at hi
    next h =>
      rw [Bool.and_eq_true, decide_eq_true_eq, decide_eq_true_eq] at hi
      rw [if_pos h]
      omega
    next h =>
      rw [if_neg h]
      omega
  have hli : btLastItem s < 64 := by unfold btLastItem; split <;> omega
  have hl : btLast s ≤ 775 := by unfold btLast; split <;> omega
  have he : btAdvance s = setRegF 0xA000 21 16 (if btWord s ≠ btLast s then btIndex s else if btIndex s = btLastItem s then 0 else btIndex s + 1)
      (setRegF 0xA000 9 0 (if btWord s = btLast s then 0 else btWord s + 1) s) := if_pos ha
  rw [he]
  refine ⟨?_, ?_, ?_, ?_⟩
  · unfold btTables
    rw [regB_setRegF_ne (by decide) (by decide) (by decide), regB_setRegF_ne (by decide) (by decide) (by decide)]
  · rw [regB_setRegF_ne (by decide) (by decide) (by decide), regB_setRegF_ne (by decide) (by decide) (by decide), ha]
  · unfold btWord
    rw [regF_setRegF_ne (by decide) (by decide) (by decide), regF_setRegF (by decide)]
    refine Nat.mod_eq_of_lt ?_
    split
    · decide
    · show regF s 0xA000 9 0 + 1 < 1024
      have : btWord s ≤ 775 := Nat.le_trans hin hl
      unfold btWord at this
      omega
  · unfold btIndex
    rw [regF_setRegF (by decide)]
    refine Nat.mod_eq_of_lt ?_
    split
    · exact hx
    · split
      · decide
      next h => exact Nat.lt_of_le_of_lt (Nat.lt_of_le_of_ne hxi h) hli


theorem btAdvance_off {s : State} (h : regB s 0xA000 28 = false) : btAdvance s = s := if_neg (by simp [h])

/-- Another state with the address of `s`. -/
theorem bt_congr {u s : State} (h : reg u 0xA000 = reg s 0xA000) : btWord u = btWord s ∧ btIndex u = btIndex s
    ∧ btTables u = btTables s ∧ btInside u = btInside s ∧ regB u 0xA000 28 = regB s 0xA000 28 := by
  have hw : btWord u = btWord s := by simp only [btWord, regF, h]
  have hx : btIndex u = btIndex s := by simp only [btIndex, regF, h]
  have ht : btTables u = btTables s := by simp only [btTables, regB, h]
  refine ⟨hw, hx, ht, ?_, by simp only [regB, h]⟩
  unfold btInside
  rw [ht, hx, hw]

/-- R199, R200: the address after an advance of a state that holds the address of `s`. -/
theorem btAdvance_from {u s : State} (hu : reg u 0xA000 = reg s 0xA000) :
    (regB s 0xA000 28 = false → reg (btAdvance u) 0xA000 = reg s 0xA000)
      ∧ (regB s 0xA000 28 = true → btInside s = true → btTables (btAdvance u) = btTables s ∧ regB (btAdvance u) 0xA000 28 = true
        ∧ btWord (btAdvance u) = (if btWord s = (if btTables s = true then 775 else 15) then 0 else btWord s + 1)
        ∧ btIndex (btAdvance u) = (if btWord s ≠ (if btTables s = true then 775 else 15) then btIndex s
            else if btIndex s = (if btTables s = true then 15 else 63) then 0 else btIndex s + 1)) := by
  obtain ⟨hw, hx, ht, hi, ha⟩ := bt_congr hu
  refine ⟨fun h => ?_, fun h hin => ?_⟩
  · rw [btAdvance_off (ha.trans h), hu]
  · rw [← hw, ← hx, ← ht]
    exact btAdvance_at (ha.trans h) (hi.trans hin)

/-- What a write of the window does before the address counts on (R200). -/
def btStored (w : Word) (s : State) : State :=
  if btIgnores s then orReg 0xA008 1 s
  else if btTables s then { s with tb := { s.tb with act := NMap.set 0 s.tb.act (776 * btIndex s + btWord s) w } }
  else { s with tb := { s.tb with ps := NMap.set 0 s.tb.ps (16 * btIndex s + btWord s) w } }

theorem writeBtData_eq (w : Word) (s : State) : writeBtData w s = btAdvance (btStored w s) := rfl

theorem reg_btStored (w : Word) (s : State) : reg (btStored w s) 0xA000 = reg s 0xA000 := by
  unfold btStored
  split
  · exact reg_orReg_ne (by decide)
  · split <;> rfl

theorem btStored_pt (w : Word) (s : State) : (btStored w s).tb.pt = s.tb.pt := by
  unfold btStored
  split
  · rw [show (orReg 0xA008 1 s).tb = s.tb from orReg_only _ _ s .tb (by decide)]
  · split <;> rfl

/-- An ignored write marks the status alone; another stores the word at its address and no other. -/
theorem btStored_tables (w : Word) (s : State) :
    if btIgnores s = true then (btStored w s).tb = s.tb ∧ regB (btStored w s) 0xA008 0 = true
    else reg (btStored w s) 0xA008 = reg s 0xA008
      ∧ (∀ i, NMap.get 0 (btStored w s).tb.act i = if btTables s = true ∧ i = 776 * btIndex s + btWord s then w else NMap.get 0 s.tb.act i)
      ∧ (∀ i, NMap.get 0 (btStored w s).tb.ps i = if btTables s = false ∧ i = 16 * btIndex s + btWord s then w else NMap.get 0 s.tb.ps i) := by
  unfold btStored
  split
  · exact ⟨orReg_only _ _ s .tb (by decide), orReg_bit (i := 0) (by decide)⟩
  · cases ht : btTables s with
    | true =>
      refine ⟨rfl, fun i => ?_, fun i => ?_⟩
      · simp only [if_true, true_and]
        exact NMap.get_set _ _ _ _ _
      · simp
    | false =>
      refine ⟨rfl, fun i => ?_, fun i => ?_⟩
      · simp
      · simp only [Bool.false_eq_true, if_false, true_and]
        exact NMap.get_set _ _ _ _ _

theorem btRead_eq (s : State) : btRead s = if btInside s = false then 0
    else if btTables s = false then NMap.get 0 s.tb.ps (16 * btIndex s + btWord s)
    else if btIndex s < 12 then BitVec.ofNat 32 (fixedWord (btIndex s) (btWord s))
    else NMap.get 0 s.tb.act (776 * btIndex s + btWord s) := by
  simp only [btRead, Bool.not_eq_true']

/-- Settles O40. -/
theorem dataWindowsReachTheWordAddressed : Obligations.DataWindowsReachTheWordAddressed := by
  unfold Obligations.DataWindowsReachTheWordAddressed
  refine ⟨fun a w s ha => ?_, fun a s ha => ?_, fun a w s ha => ?_, fun a s ha => ?_⟩
  · obtain ⟨hat, hauto⟩ := writePtData_at w s
    have ht := writePtData_table w s
    refine exists_write ha ⟨⟨rfl, rfl⟩, (writePtData_only w s).respond _ _ (by decide), (writePtData_within w s).mono (by decide),
      ?_, ?_, hat, hauto, ?_⟩
    · show (writePtData w s).tb.ps = _
      split at ht <;> rw [ht.1]
    · show (writePtData w s).tb.act = _
      split at ht <;> rw [ht.1]
    · split at ht
      next h =>
        rw [if_pos h]
        exact ⟨congrArg TblSt.pt ht.1, ht.2⟩
      next h =>
        rw [if_neg h]
        refine ⟨ht.2, fun i => ?_⟩
        show NMap.get 0 (writePtData w s).tb.pt i = _
        rw [ht.1]
        exact NMap.get_set _ _ _ _ _
  · have he : exec (.ptDataRead a) s = .next (respond (NMap.get 0 s.tb.pt (ptAt s)) false (ptAdvance s)) :=
      congrArg Host.Outcome.next (busRead_accepts ha)
    obtain ⟨hat, hauto⟩ := ptAdvance_at (u := s) rfl
    exact ⟨_, he, ⟨rfl, rfl⟩, (ptAdvance_only s).respond _ _ (by decide), ptAdvance_within s, hat, hauto⟩
  · have hk : reg (btAdvance (btStored w s)) 0xA008 = reg (btStored w s) 0xA008 := (btAdvance_within _).reg _ rfl
    have ht : (btAdvance (btStored w s)).tb = (btStored w s).tb := btAdvance_only _ .tb (by decide)
    obtain ⟨hoff, hon⟩ := btAdvance_from (reg_btStored w s)
    refine exists_write ha ⟨⟨rfl, rfl⟩, (writeBtData_only w s).respond _ _ (by decide), (writeBtData_within w s).mono (by decide),
      ?_, hoff, hon, ?_⟩
    · show (btAdvance (btStored w s)).tb.pt = _
      rw [ht, btStored_pt]
    · have hs := btStored_tables w s
      simp only [respond_tb, reg_respond, writeBtData_eq, ht, hk, regB] at hs ⊢
      exact hs
  · have he : exec (.btDataRead a) s = .next (respond (btRead s) false (btAdvance s)) :=
      congrArg Host.Outcome.next (busRead_accepts ha)
    obtain ⟨hoff, hon⟩ := btAdvance_from (u := s) rfl
    refine ⟨_, he, (btAdvance_only s).respond _ _ (by decide), btAdvance_within s, ⟨btRead_eq s, rfl⟩, hoff, fun h hi => ?_⟩
    exact (hon h hi).2.2

end Sys2Proof.Machine
end
section
/-!
PROOFS. The valid bits of the tables: a bit is set where its item is named and passes its check (R133, R201, R202).
-/
namespace Sys2Proof.Machine

/-! A write of valid bits with its refusal mark -/

/-- Some named item was refused: bit 1 of the status is set, else the status is kept. -/
theorem refusal_marks {c : Bool} {st : Nat} {s : State} :
    (c = true → regB (when c (orReg st 2) s) st 1 = true) ∧ (c = false → when c (orReg st 2) s = s) :=
  ⟨fun h => by rw [h]; exact orReg_bit (i := 1) (by decide), fun h => by rw [h]; rfl⟩

theorem reg_refusal_ne {c : Bool} {st p : Nat} (h : p ≠ st) (s : State) : reg (when c (orReg st 2) s) p = reg s p :=
  reg_when_keep (reg_orReg_ne h)

/-- The valid bits `o` of 32 items from `base` on, and the refusal mark of their status `st`. -/
def writeValid (o st base : Nat) (ok : Nat → Bool) (w : Word) (s : State) : State :=
  when (validBits ok base 32 w.toNat).2 (orReg st 2) (setReg o (BitVec.ofNat 32 (validBits ok base 32 w.toNat).1) s)

theorem writeValid_bits {o st base : Nat} {ok : Nat → Bool} {w : Word} {s : State} (hne : o ≠ st) :
    (∀ i, i < 32 → regB (writeValid o st base ok w s) o i = (bit w.toNat i && ok (base + i)))
      ∧ (∀ i, i < 32 → bit w.toNat i = true → ok (base + i) = false → regB (writeValid o st base ok w s) st 1 = true)
      ∧ ((∀ i, i < 32 → bit w.toNat i = true → ok (base + i) = true) → reg (writeValid o st base ok w s) st = reg s st) := by
  unfold writeValid
  refine ⟨fun i hi => ?_, fun i hi hb ho => refusal_marks.1 (validBits_refuses hi hb ho), fun h => ?_⟩
  · have hr := (reg_refusal_ne (c := (validBits ok base 32 w.toNat).2) hne _).trans
      (reg_setReg_self o (BitVec.ofNat 32 (validBits ok base 32 w.toNat).1) s)
    rw [regB_of_reg hr hi]
    exact validBits_bit ok base 32 w.toNat hi
  · rw [refusal_marks.2 (validBits_passes h), reg_setReg_ne hne.symm]

theorem writeValid_frame (o st base : Nat) (ok : Nat → Bool) (w : Word) (s : State) :
    Only [.regs] s (writeValid o st base ok w s) ∧ Within [⟨st, 0, 1⟩, ⟨o, 0, 1⟩] s (writeValid o st base ok w s) :=
  ⟨(setReg_only _ _ s).trans (Only.when (fun s => orReg_only _ _ s) _ _),
    ((setReg_within _ _ s).mono (by simp [spansIn, Span.inside])).trans
      (Within.when (fun s => (orReg_within _ _ s).mono (by simp [spansIn, Span.inside])) _ _)⟩

theorem writePtValid_eq (n : BitVec 3) (w : Word) (s : State) : writePtValid n.toNat w s =
    writeValid (0x8020 + 4 * n.toNat) 0x8008 (32 * n.toNat) (fun e => ptDescOk (ptDesc s e)) w s := by
  unfold writePtValid writeValid
  rw [Nat.mod_eq_of_lt n.isLt]

theorem writePsValid_eq (n : Bool) (w : Word) (s : State) : writePsValid (b2n n) w s =
    writeValid (0xA020 + 4 * b2n n) 0xA008 (32 * b2n n) (fun e => psOk (psWord s e)) w s := by
  unfold writePsValid writeValid
  cases n <;> rfl

/-! The programmable tables -/

/-- A bit of the four that a write of LMY_BT_TBLVALID names. -/
theorem bit_named (w i : Nat) (hi : i < 4) : bit (bits w 15 12) i = bit w (12 + i) := by
  unfold bit
  rw [testBit_bits, decide_eq_true (by omega), Bool.true_and]

/-- The four CRC registers after their writes. -/
theorem reg_crcs (g : Nat → Word) (s : State) {i : Nat} (hi : i < 4) :
    reg (forEach (List.range 4) (fun i => setReg (0xA0B0 + 4 * (i % 4)) (g i)) s) (0xA0B0 + 4 * i) = g i := by
  show reg (setReg 0xA0BC (g 3) (setReg 0xA0B8 (g 2) (setReg 0xA0B4 (g 1) (setReg 0xA0B0 (g 0) s)))) (0xA0B0 + 4 * i) = g i
  simp only [reg_setReg]
  obtain rfl | rfl | rfl | rfl : i = 0 ∨ i = 1 ∨ i = 2 ∨ i = 3 := by omega
  all_goals rfl

/-- LMY_BT_TBLVALID, the CRC registers and the status after a write. -/
theorem writeTblValid_regs (w : Word) (s : State) :
    (∀ i, i < 12 → regB (writeTblValid w s) 0xA060 i = true)
      ∧ (∀ i, i < 4 → regB (writeTblValid w s) 0xA060 (12 + i) = (bit w.toNat (12 + i) && tblOk (progWord s (12 + i)))
        ∧ reg (writeTblValid w s) (0xA0B0 + 4 * i) = if bit w.toNat (12 + i) = true ∧ tblOk (progWord s (12 + i)) = true
            then BitVec.ofNat 32 (tableCrc (progWord s (12 + i))) else 0)
      ∧ (∀ i, i < 4 → bit w.toNat (12 + i) = true → tblOk (progWord s (12 + i)) = false → regB (writeTblValid w s) 0xA008 1 = true)
      ∧ ((∀ i, i < 4 → bit w.toNat (12 + i) = true → tblOk (progWord s (12 + i)) = true) → reg (writeTblValid w s) 0xA008 = reg s 0xA008) := by
  have hlt := validBits_lt (fun t => tblOk (progWord s t)) 12 4 (bits w.toNat 15 12)
  have hbit := fun i (hi : i < 4) => validBits_bit (fun t => tblOk (progWord s t)) 12 4 (bits w.toNat 15 12) hi
  have hno := fun i (hi : i < 4) => validBits_refuses (ok := fun t => tblOk (progWord s t)) (base := 12) (w := bits w.toNat 15 12) hi
  have hyes := validBits_passes (ok := fun t => tblOk (progWord s t)) (base := 12) (n := 4) (w := bits w.toNat 15 12)
  unfold writeTblValid
  dsimp only
  generalize validBits (fun t => tblOk (progWord s t)) 12 4 (bits w.toNat 15 12) = r at hlt hbit hno hyes
  have hb : ∀ i, i < 4 → r.1.testBit i = (bit w.toNat (12 + i) && tblOk (progWord s (12 + i))) := fun i hi => by
    rw [hbit i hi, bit_named _ _ hi]
  have hv : ∀ (g : Nat → Word) p, p = 0xA060 ∨ p = 0xA008 → ∀ u,
      reg (forEach (List.range 4) (fun i => setReg (0xA0B0 + 4 * (i % 4)) (g i)) u) p = reg u p := fun g p hp u =>
    reg_forEach_keep fun i _ u => reg_setReg_ne (by omega) _ u
  have ht : ∀ j, (0xFFF + fld r.1 12).testBit j = if j < 12 then true else r.1.testBit (j - 12) := fun j => by
    rw [show 0xFFF + fld r.1 12 = 2 ^ 12 * r.1 + 0xFFF by rw [fld, Nat.shiftLeft_eq]; omega,
      Nat.testBit_two_pow_mul_add _ (by decide) j]
    split
    next hj => exact (by decide : ∀ j < 12, Nat.testBit 0xFFF j = true) j hj
    · rfl
  have hr : ∀ g : Nat → Word, reg (when r.2 (orReg 0xA008 2) (forEach (List.range 4) (fun i => setReg (0xA0B0 + 4 * (i % 4)) (g i))
      (setReg 0xA060 (BitVec.ofNat 32 (0xFFF + fld r.1 12)) s))) 0xA060 = BitVec.ofNat 32 (0xFFF + fld r.1 12) := fun g => by
    rw [reg_refusal_ne (by decide), hv g _ (.inl rfl), reg_setReg_self]
  refine ⟨fun i hi => ?_, fun i hi => ⟨?_, ?_⟩, fun i hi h1 h2 => ?_, fun h => ?_⟩
  · rw [regB_of_reg (hr _) (by omega), bit, ht, if_pos hi]
  · rw [regB_of_reg (hr _) (by omega), bit, ht, if_neg (by omega), Nat.add_sub_cancel_left, hb i hi]
  · rw [reg_refusal_ne (by omega), reg_crcs _ _ hi]
    refine ite_congr (propext ?_) (fun _ => rfl) fun _ => rfl
    rw [bit, hb i hi, Bool.and_eq_true]
  · refine refusal_marks.1 (hno i hi ?_ h2)
    rw [bit_named _ _ hi, h1]
  · rw [refusal_marks.2 (hyes fun i hi hb => h i hi (by rwa [bit_named _ _ hi] at hb)), hv _ _ (.inr rfl), reg_setReg_ne (by decide)]

/-- Settles O41. -/
theorem validBitsPassTheirChecks : Obligations.ValidBitsPassTheirChecks := by
  unfold Obligations.ValidBitsPassTheirChecks
  refine ⟨fun a n w s ha => ?_, fun a n w s ha => ?_, fun a w s ha => ?_⟩
  · refine exists_write ha ?_
    rw [writePtValid_eq]
    obtain ⟨ho, hw⟩ := writeValid_frame (0x8020 + 4 * n.toNat) 0x8008 (32 * n.toNat) (fun e => ptDescOk (ptDesc s e)) w s
    exact ⟨⟨rfl, rfl⟩, ho.respond _ _ (by decide), hw, writeValid_bits (by omega)⟩
  · refine exists_write ha ?_
    rw [writePsValid_eq]
    obtain ⟨ho, hw⟩ := writeValid_frame (0xA020 + 4 * b2n n) 0xA008 (32 * b2n n) (fun e => psOk (psWord s e)) w s
    exact ⟨⟨rfl, rfl⟩, ho.respond _ _ (by decide), hw, writeValid_bits (by omega)⟩
  · exact exists_write ha ⟨⟨rfl, rfl⟩, (writeTblValid_only w s).respond _ _ (by decide), writeTblValid_within w s, writeTblValid_regs w s⟩

end Sys2Proof.Machine
end

section
/-!
PROOFS. Forwarding commands, the rate windows and the storm guard (R462 to R474).
-/
namespace Sys2Proof.Machine

/-! Commands of LMY_FWD_CMD -/

/-- R474: a refused command sets REJ alone. -/
theorem refuseFwd_rejects (s : State) : Only [.regs] s (refuseFwd s) ∧ Within [⟨0x704C, 0, 1⟩] s (refuseFwd s)
    ∧ reg (refuseFwd s) 0x704C = reg s 0x704C ||| 0x800000 :=
  ⟨orReg_only _ _ s, orReg_within _ _ s, reg_setReg_self _ _ s⟩

/-- An accepted command that is refused sets REJ and answers. -/
theorem write_rejected {a : BusAcc} {act : State → State} {s : State} (ha : accepts a true 0x7048 s) (h : act s = refuseFwd s) :
    ∃ t, (Host.Outcome.next (busWrite a 0x7048 act s) : Host.Outcome State Fault Refusal) = .next t ∧ answered 0 t
      ∧ Only [.regs, .bus] s t ∧ Within [⟨0x704C, 0, 1⟩] s t ∧ reg t 0x704C = reg s 0x704C ||| 0x800000 := by
  obtain ⟨ho, hw, hr⟩ := refuseFwd_rejects s
  refine exists_write ha ?_
  rw [h]
  exact ⟨⟨rfl, rfl⟩, ho.respond _ _ (by decide), hw, hr⟩

/-- R462: a commanded forwarding of a unit. -/
def commanded (kind unit : Nat) (s : State) : State :=
  { s with fw := { s.fw with pend := NMap.set 0 s.fw.pend (unitKey kind unit) (max 1 (NMap.get 0 s.fw.pend (unitKey kind unit)))
                             cmd := NMap.set false s.fw.cmd (unitKey kind unit) true } }

theorem commandForward_live {kind unit : Nat} {s : State} (hl : unitLive s kind unit = true) (hb : unitBusy s kind unit = false) :
    commandForward kind unit s = raise 9 (commanded kind unit s) :=
  (if_neg (by simp [hl])).trans (if_neg (by simp [hb]))

theorem commandForward_busy {kind unit : Nat} {s : State} (hl : unitLive s kind unit = true) (hb : unitBusy s kind unit = true) :
    commandForward kind unit s = s :=
  (if_neg (by simp [hl])).trans (if_pos hb)

theorem commandForward_dead {kind unit : Nat} {s : State} (hl : unitLive s kind unit = false) : commandForward kind unit s = refuseFwd s :=
  if_pos (by simp [hl])

/-- An item joins a sorted list. -/
theorem mem_ordIns {α : Type} (lt : α → α → Bool) (x b : α) (l : List α) : b ∈ ordIns lt x l ↔ b = x ∨ b ∈ l := by
  induction l with
  | nil => simp [ordIns]
  | cons y ys ih =>
    unfold ordIns
    split
    · exact List.mem_cons
    · rw [List.mem_cons, ih, List.mem_cons]
      exact or_left_comm

/-- A transfer after a dropped job's transfers are gone or without it. -/
theorem mem_dropJobs {p : Job → Bool} {s : State} (hn : p .none = false) :
    (∀ T ∈ (dropJobs p s).fr.trs, p T.job = false) ∧ (∀ T ∈ s.fr.trs, p T.job = false → T ∈ (dropJobs p s).fr.trs) := by
  unfold dropJobs
  dsimp only
  refine ⟨fun T hT => ?_, fun T hT hp => List.mem_map.mpr ⟨T, List.mem_filter.mpr ⟨hT, by simp [hp]⟩, by simp [hp]⟩⟩
  obtain ⟨u, -, rfl⟩ := List.mem_map.mp hT
  split
  · exact hn
  next h => exact Bool.not_eq_true _ ▸ h

/-- The spare of a cancelled migration is a spare again, and goes Off. -/
def migCancelled (m : Mig) (s : State) : State :=
  setPow m.pb (powOf s m.pb).retire { s with fw := { s.fw with mig := none, spB := ordIns (fun a b => decide (a < b)) m.pb s.fw.spB } }

theorem commandCancel_running {s : State} {m : Mig} (hm : s.fw.mig = some m) (hp : m.phase < 4) :
    commandCancel s = raise 11 (dropJobs Job.isMig (migCancelled m s)) := by
  unfold commandCancel
  rw [hm]
  dsimp only
  rw [if_pos (decide_eq_true hp)]
  unfold cancelMig
  rw [hm]
  dsimp only
  rw [if_neg (by omega)]
  rfl

theorem commandCancel_none {s : State} (h : ∀ m, s.fw.mig = some m → 4 ≤ m.phase) : commandCancel s = refuseFwd s := by
  unfold commandCancel
  cases hm : s.fw.mig with
  | none => rfl
  | some m => exact if_neg (by have := h m hm; simp; omega)

theorem migCancelled_only (m : Mig) (s : State) : Only [.bank, .fr, .fw] s (dropJobs Job.isMig (migCancelled m s)) := by
  refine Only.trans (b := migCancelled m s) ?_ ((dropJobs_only _ _).mono (by decide))
  refine Only.trans ?_ ((setPow_only _ _ _).mono (by decide))
  simp [Only.mk_iff, Only.refl]

/-- What a cancelled migration leaves (R466). -/
theorem commandCancel_leaves {s : State} {m : Mig} (hm : s.fw.mig = some m) (hp : m.phase < 4) :
    (∀ T ∈ (commandCancel s).fr.trs, T.job.isMig = false) ∧ (∀ T ∈ s.fr.trs, T.job.isMig = false → T ∈ (commandCancel s).fr.trs)
      ∧ (commandCancel s).fr = { s.fr with trs := (commandCancel s).fr.trs } ∧ Within eventRegs s (commandCancel s)
      ∧ regB (commandCancel s) 0x7000 11 = true ∧ (commandCancel s).fw = { s.fw with mig := none, spB := (commandCancel s).fw.spB }
      ∧ (∀ b, b ∈ (commandCancel s).fw.spB ↔ b = m.pb ∨ b ∈ s.fw.spB)
      ∧ (commandCancel s).bank = { s.bank with pow := (commandCancel s).bank.pow }
      ∧ ∀ b, powOf (commandCancel s) b = if b = m.pb then (powOf s m.pb).retire else powOf s b := by
  obtain ⟨hj, hk⟩ := mem_dropJobs (p := Job.isMig) (s := migCancelled m s) rfl
  have hb : ∀ (t u : State) b, t.bank = u.bank → powOf t b = powOf u b := fun t u b h => by unfold powOf; rw [h]
  have hf := dropJobs_only Job.isMig (migCancelled m s) .fw (by decide)
  have hbk := dropJobs_only Job.isMig (migCancelled m s) .bank (by decide)
  rw [commandCancel_running hm hp]
  simp only [raise_fr, raise_fw, raise_bank]
  refine ⟨hj, hk, rfl, ?_, raise_sets 11 _, ?_, fun b => ?_, ?_, fun b => ?_⟩
  · exact ((Within.of_only (xs := eventRegs) (migCancelled_only m s) (by decide))).trans (raise_within 11 _)
  · rw [hf]
    rfl
  · rw [hf]
    exact mem_ordIns _ _ _ _
  · rw [hbk]
    rfl
  · rw [hb _ (migCancelled m s) b ((raise_bank _ _).trans hbk)]
    exact powOf_setPow _ _ _ _

/-! The windows and the guard -/

theorem openWindow_eq (s : State) : openWindow s =
    { s with fw := { s.fw with wcnt := if s.fw.win = fwdWindow s then s.fw.wcnt else [], win := fwdWindow s } } := by
  unfold openWindow
  split
  next h => rw [← h]
  · rfl

theorem openStorm_eq (s : State) : openStorm s =
    { s with fw := { s.fw with storm := if s.fw.sWin = s.tm.t.toNat / 1000000 then s.fw.storm else [], sWin := s.tm.t.toNat / 1000000 } } := by
  unfold openStorm
  split
  next h => rw [← h]
  · rfl

/-- R471: STORM in another millisecond than the one counted restarts the count alone. -/
theorem execStorm_stale {s : State} (h : s.fw.sWin ≠ s.tm.t.toNat / 1000000) :
    exec .storm s = .next { s with fw := { s.fw with storm := [], sWin := s.tm.t.toNat / 1000000 } } := by
  have ho : openStorm s = { s with fw := { s.fw with storm := [], sWin := s.tm.t.toNat / 1000000 } } := if_neg h
  show execStorm s = _
  unfold execStorm
  rw [ho]
  refine congrArg Host.Outcome.next (if_neg ?_)
  simp only [List.length_nil, Nat.le_zero, decide_eq_true_eq, Bool.and_eq_true, bne_iff_ne]
  exact fun h => h.1.1.2 h.1.2

/-- R471: STORM once its number of banks is reached. -/
theorem execStorm_reached {s : State} (hl : loaded s = true) (hw : s.fw.sWin = s.tm.t.toNat / 1000000) (h0 : regF s 0x7044 19 16 ≠ 0)
    (hn : regF s 0x7044 19 16 ≤ s.fw.storm.length) (hs : regB s 0x704C 22 = false) :
    exec .storm s = .next (raise 9 (orReg 0x704C (2 ^ 22) s)) := by
  have ho : openStorm s = s := if_pos hw
  show execStorm s = _
  unfold execStorm
  rw [ho]
  exact congrArg Host.Outcome.next (if_pos (by simp [hl, h0, hn, inStorm, hs]))

/-- Settles O59. -/
theorem forwardingCommandsAndGuards : Obligations.ForwardingCommandsAndGuards := by
  unfold Obligations.ForwardingCommandsAndGuards
  refine ⟨fun a s ha => ⟨fun kind unit => ⟨fun hl hb => ?_, fun hl hb => ?_, fun hl => write_rejected ha (commandForward_dead hl)⟩,
    fun m hm hp => ?_, fun h => write_rejected ha (commandCancel_none h), fun he => ?_, fun he => ?_, ?_⟩, fun s hr => ⟨?_, ?_, ?_, ?_⟩⟩
  · have hc := commandForward_live hl hb
    refine exists_write ha ?_
    rw [hc]
    refine ⟨⟨rfl, rfl⟩, ?_, raise_within 9 _, raise_sets 9 _, ?_, fun j => ?_, fun j => ?_⟩
    · rw [← hc]
      exact (commandForward_only kind.toNat unit.toNat s).respond _ _ (by decide)
    · rw [respond_fw, raise_fw]
      rfl
    · rw [respond_fw, raise_fw]
      exact NMap.get_set 0 s.fw.pend _ _ _
    · rw [respond_fw, raise_fw]
      exact NMap.get_set false s.fw.cmd true _ _
  · refine exists_write ha ?_
    rw [commandForward_busy hl hb]
    exact ⟨⟨rfl, rfl⟩, respond_only _ _ s⟩
  · exact exists_write ha ⟨⟨rfl, rfl⟩, (commandCancel_only s).respond _ _ (by decide), commandCancel_leaves hm hp⟩
  · have hc : commandAck s = { s with fw := { s.fw with ents := s.fw.ents.drop 1 } } := if_neg (by simpa using he)
    refine exists_write ha ?_
    rw [hc]
    exact ⟨⟨rfl, rfl⟩, by simp [Only.mk_iff, Only.refl, respond], rfl⟩
  · exact write_rejected ha (if_pos (by simp [he]))
  · exact exists_write ha ⟨⟨rfl, rfl⟩, (commandResume_only s).respond _ _ (by decide), clrReg_within _ _ s, reg_clrReg_self _ _ s⟩
  · exact ⟨_, rfl, (if_neg (by simp [hr])).trans (openWindow_eq s)⟩
  · exact ⟨_, rfl, (if_neg (by simp [hr])).trans (openStorm_eq s)⟩
  · exact fun h => ⟨_, execStorm_stale h, rfl⟩
  · intro hl hw h0 hn hs
    have he := execStorm_reached hl hw h0 hn hs
    refine ⟨_, he, ?_, (execStorm_within s _ he).mono (by decide), ?_, raise_sets 9 _⟩
    · exact ((orReg_only _ _ s).mono (by decide)).trans (raise_only 9 _)
    · exact (raise_reg rfl).trans (reg_setReg_self _ _ s)

end Sys2Proof.Machine
end

section
/-!
PROOFS. Records: what a TIME record, a TRIG record and a cause leave (R430, R443), and the beacons that set the time (R422 to R428).
-/
namespace Sys2Proof.Machine

/-! TIME records -/

/-- The TIME record of a kind, where trace records. -/
def timeRecs (kind d : Nat) (s : State) : List Rec :=
  if regB s 0x6000 0 = true then
    [⟨9, timeQ s, 0, 0, 0, s.tm.t, BitVec.ofNat 64 (bits s.tm.t.toNat 63 48 + fld kind 16 + fld (d % 2 ^ 32) 32), [], 0⟩] else []

theorem genTime_eq (kind d : Nat) (s : State) :
    genTime kind d s = { s with tr := { s.tr with gen := s.tr.gen ++ timeRecs kind d s } } := by
  unfold genTime genRec recPasses timeRecs mkRec filtBit timeNow
  simp only [Bool.not_false, Bool.true_or, Bool.and_true]
  split
  · rfl
  · rw [List.append_nil]

theorem reg_genTime (kind d : Nat) (s : State) (o : Nat) : reg (genTime kind d s) o = reg s o := by
  rw [genTime_eq]
  rfl

/-! Causes and their trigger -/

/-- R443: the pending word and the event registers that a cause fills. -/
def causeLogged (n : Nat) (s : State) : State :=
  let s := orReg (0x7000 + 4 * (n / 32 % 2)) (2 ^ (n % 32)) s
  if regB s 0x7018 0 then
    let s := orReg 0x7018 2 s
    if s.dbg.evtCyc == s.cyc + 1 && decide (n < regF s 0x7018 7 2) then
      setRegF 0x7018 7 2 n s |> setReg 0x701C (BitVec.ofNat 32 (timeNow s)) |> setReg 0x7020 (BitVec.ofNat 32 (timeNow s >>> 32))
    else s
  else
    let s := setReg 0x7018 (BitVec.ofNat 32 (1 + fld n 2)) s |> setReg 0x701C (BitVec.ofNat 32 (timeNow s))
      |> setReg 0x7020 (BitVec.ofNat 32 (timeNow s >>> 32))
    { s with dbg := { s.dbg with evtCyc := s.cyc + 1 } }

/-- A cause may then trigger the trace. -/
theorem raise_eq (n : Nat) (s : State) : raise n s = if regB (causeLogged n s) 0x6008 2 && regF (causeLogged n s) 0x6008 9 4 == n then
    traceTrigger 3 n (causeLogged n s) else causeLogged n s := rfl

theorem causeLogged_only (n : Nat) (s : State) : Only [.regs, .dbg] s (causeLogged n s) := by
  unfold causeLogged
  dsimp only
  repeat' split
  all_goals simp [Only.iff_of (setReg_only _ _ _), Only.iff_of (setRegF_only _ _ _ _ _), Only.iff_of (orReg_only _ _ _), partsIn,
    Only.self, Only.mk_iff]

theorem causeLogged_status (n : Nat) (s : State) : reg (causeLogged n s) 0x6014 = reg s 0x6014 := by
  have hd : ∀ (s : State) (d : DbgSt), reg { s with dbg := d } 0x6014 = reg s 0x6014 := fun _ _ => rfl
  have h0 : ∀ m, reg (orReg (0x7000 + 4 * (n / 32 % 2)) m s) 0x6014 = reg s 0x6014 := fun m => reg_orReg_ne (by omega)
  unfold causeLogged
  dsimp only
  split
  · split
    · rw [reg_setReg_ne (by decide), reg_setReg_ne (by decide), setRegF, reg_setReg_ne (by decide), reg_orReg_ne (by decide), h0]
    · rw [reg_orReg_ne (by decide), h0]
  · rw [hd, reg_setReg_ne (by decide), reg_setReg_ne (by decide), reg_setReg_ne (by decide), h0]

/-- A TRIG record, where trace records and, under the window policy, TRIGD is 0. -/
theorem traceTrigger_eq {src cause : Nat} {s : State} (he : regB s 0x6000 0 = true) (hw : regB s 0x6000 1 = false ∨ regB s 0x6014 2 = false) :
    traceTrigger src cause s = when (regB s 0x6000 1) (orReg 0x6014 4)
      { s with tr := { s.tr with gen := s.tr.gen ++ [⟨0xB, timeQ s, 0, 0, 0, s.tm.t, BitVec.ofNat 64 (src + fld cause 8 + fld (tracePost s) 16), [], 0⟩] } } := by
  have hg : ∀ r, r.typ = 0xB → genRec r false s = { s with tr := { s.tr with gen := s.tr.gen ++ [r] } } := fun r hr => by
    unfold genRec recPasses filtBit
    rw [hr, he]
    rfl
  unfold traceTrigger mkRec
  rw [if_pos (by rcases hw with h | h <;> simp [he, h]), hg _ rfl]
  rfl

theorem traceTrigger_gen (src cause : Nat) (s : State) :
    ∃ more, (traceTrigger src cause s).tr = { s.tr with gen := s.tr.gen ++ more } := by
  by_cases h : (regB s 0x6000 0 && !(regB s 0x6000 1 && regB s 0x6014 2)) = true
  · have he : regB s 0x6000 0 = true := (Bool.and_eq_true_iff.mp h).1
    have hw : regB s 0x6000 1 = false ∨ regB s 0x6014 2 = false := by
      simpa only [Bool.not_eq_true', Bool.and_eq_false_iff] using (Bool.and_eq_true_iff.mp h).2
    rw [traceTrigger_eq he hw]
    refine ⟨[⟨0xB, timeQ s, 0, 0, 0, s.tm.t, BitVec.ofNat 64 (src + fld cause 8 + fld (tracePost s) 16), [], 0⟩], ?_⟩
    cases regB s 0x6000 1
    · rfl
    · exact orReg_only _ _ _ .tr (by decide)
  · refine ⟨[], ?_⟩
    rw [traceTrigger, if_neg h, List.append_nil]

theorem traceTrigger_status (src cause : Nat) (s : State) :
    reg (traceTrigger src cause s) 0x6014 = reg s 0x6014 ∨ reg (traceTrigger src cause s) 0x6014 = reg s 0x6014 ||| 4 := by
  have hg : ∀ r, reg (genRec r false s) 0x6014 = reg s 0x6014 := fun r => by
    unfold genRec
    split <;> rfl
  unfold traceTrigger
  split
  · dsimp only
    split
    · right
      rw [orReg, reg_setReg_self, hg]
      rfl
    · exact .inl (hg _)
  · exact .inl rfl

/-- The records that a cause adds. -/
theorem raise_gen (n : Nat) (s : State) : ∃ more, (raise n s).tr = { s.tr with gen := s.tr.gen ++ more } := by
  have hu : (causeLogged n s).tr = s.tr := causeLogged_only n s .tr (by decide)
  rw [raise_eq]
  split
  · rw [← hu]
    exact traceTrigger_gen 3 n _
  · exact ⟨[], by rw [hu, List.append_nil]⟩

/-- A cause keeps LMY_TRC_STATUS but for TRIGD. -/
theorem raise_status (n : Nat) (s : State) : reg (raise n s) 0x6014 = reg s 0x6014 ∨ reg (raise n s) 0x6014 = reg s 0x6014 ||| 4 := by
  rw [raise_eq, ← causeLogged_status n s]
  split
  · exact traceTrigger_status 3 n _
  · exact .inl rfl

/-! Beacons -/

/-- R422: the signed difference saturated. -/
theorem sat32_eq (d : Int) : sat32 d = ((max (-(2 ^ 31)) (min (2 ^ 31 - 1) d)) % 2 ^ 32).toNat := by
  unfold sat32
  dsimp only
  split
  · omega
  · split <;> omega

/-- T_b minus the counter. -/
def beaconDiff (tb : BitVec 64) (s : State) : Int := (tb.toNat : Int) - (s.tm.t.toNat : Int)

/-- An accepted beacon before its record. -/
def beaconTaken (tb : BitVec 64) (s : State) : State :=
  { s with tm := s.tm.accept (!regB s 0x604C 0) tb (beaconDiff tb s) } |> clrReg 0x604C 2 |> orReg 0x604C 1
    |> setReg 0x6050 (BitVec.ofNat 32 (sat32 (beaconDiff tb s)))

/-- The records of an accepted beacon. -/
def beaconRecs (k : Option Nat) (d : Nat) (s : State) : List Rec := match k with | some k => timeRecs k d s | none => []

theorem beaconTaken_only (tb : BitVec 64) (s : State) : Only [.regs, .tm] s (beaconTaken tb s) := by
  simp [beaconTaken, Only.iff_of (setReg_only _ _ _), Only.iff_of (clrReg_only _ _ _), Only.iff_of (orReg_only _ _ _), partsIn,
    Only.self, Only.mk_iff]

theorem beaconTaken_regs (tb : BitVec 64) (s : State) : reg (beaconTaken tb s) 0x604C = (reg s 0x604C &&& ~~~(2 : Word)) ||| 1
    ∧ reg (beaconTaken tb s) 0x6050 = BitVec.ofNat 32 (sat32 (beaconDiff tb s)) := by
  unfold beaconTaken
  refine ⟨?_, reg_setReg_self _ _ _⟩
  rw [reg_setReg_ne (by decide), orReg, reg_setReg_self, reg_clrReg_self]
  rfl

/-- The records that an accepted beacon leaves. -/
def beaconLeft (tb : BitVec 64) (s : State) : List Rec :=
  beaconRecs (beaconKind (!regB s 0x604C 0) (regB s 0x604C 1) (beaconDiff tb s)) (sat32 (beaconDiff tb s)) (beaconTaken tb s)

/-- An accepted beacon: what it takes, and its records. -/
theorem execBeacon_accepted {tb : BitVec 64} {s : State} (hp : s.ck.por = false)
    (h : regB s 0x604C 0 = false ∨ 2 ^ (beaconL2 s - 1) ≤ s.tm.since) :
    ∃ t, execBeacon tb s = .next t ∧ Only [.tr] (beaconTaken tb s) t ∧ t.tr = { s.tr with gen := s.tr.gen ++ beaconLeft tb s } := by
  have ht : (beaconTaken tb s).tr = s.tr := beaconTaken_only tb s .tr (by decide)
  have he : execBeacon tb s = .next (match beaconKind (!regB s 0x604C 0) (regB s 0x604C 1) (beaconDiff tb s) with
      | some k => genTime k (sat32 (beaconDiff tb s)) (beaconTaken tb s) | none => beaconTaken tb s) := by
    unfold execBeacon
    dsimp only
    rw [if_neg (by simp [hp]), if_neg (by rcases h with h | h <;> simp [h])]
    rfl
  refine ⟨_, he, ?_⟩
  rw [← ht]
  unfold beaconLeft beaconRecs
  cases beaconKind (!regB s 0x604C 0) (regB s 0x604C 1) (beaconDiff tb s) with
  | none => exact ⟨Only.refl _ _, by simp⟩
  | some k => exact ⟨genTime_only _ _ _, congrArg State.tr (genTime_eq k _ _)⟩

/-- The TIME record of a signed value, where trace records in `s`, of the time and status of `u`. -/
def timeRec (s : State) (k : Nat) (d : Int) (u : State) : List Rec :=
  if regB s 0x6000 0 = true then
    [⟨9, !regB u 0x604C 0 || regB u 0x604C 1 || regB u 0x604C 3, 0, 0, 0, u.tm.t,
      BitVec.ofNat 64 (bits u.tm.t.toNat 63 48 + 65536 * k + 2 ^ 32 * (d % 2 ^ 32).toNat), [], 0⟩] else []

theorem timeRecs_int {s u t : State} (he : reg u 0x6000 = reg s 0x6000) (hr : reg t 0x604C = reg u 0x604C) (ht : t.tm = u.tm) (k : Nat) (d : Int) :
    timeRecs k (d % 2 ^ 32).toNat u = timeRec s k d t := by
  have hb : ∀ i, regB t 0x604C i = regB u 0x604C i := fun i => by simp only [regB, hr]
  have h32 : (d % 2 ^ 32).toNat % 2 ^ 32 = (d % 2 ^ 32).toNat := by omega
  unfold timeRecs timeRec timeQ fld
  rw [ht, hb, hb, hb, h32, Nat.shiftLeft_eq, Nat.shiftLeft_eq, Nat.mul_comm k, Nat.mul_comm _ (2 ^ 32)]
  simp only [regB, he, Nat.reducePow]
  rfl

/-- An accepted beacon's time, by its rule (R422). -/
theorem accept_eq (tb : BitVec 64) (s : State) : s.tm.accept (!regB s 0x604C 0) tb (beaconDiff tb s) =
    if regB s 0x604C 0 = true ∧ -1024 ≤ beaconDiff tb s ∧ beaconDiff tb s < 0 then
      { s.tm with hold := (-beaconDiff tb s).toNat, holding := true, since := 0 } else ⟨tb, 0, 0, false, 0⟩ := by
  simp only [TimeSt.accept, Bool.not_not, Bool.and_eq_true, decide_eq_true_eq, and_assoc]

/-- The records of an accepted beacon, by its kind. -/
theorem beaconRecs_eq {s t : State} {tb : BitVec 64} (hr : reg t 0x604C = reg (beaconTaken tb s) 0x604C) (ht : t.tm = (beaconTaken tb s).tm) :
    beaconLeft tb s =
      let ds := max (-(2 ^ 31)) (min (2 ^ 31 - 1) (beaconDiff tb s))
      if regB s 0x604C 1 = true then timeRec s 5 ds t else if regB s 0x604C 0 = false then timeRec s 1 ds t
      else if beaconDiff tb s < -1024 then timeRec s 3 ds t else if 2 < (beaconDiff tb s).natAbs then timeRec s 2 ds t else [] := by
  have he : reg (beaconTaken tb s) 0x6000 = reg s 0x6000 := by
    unfold beaconTaken
    rw [reg_setReg_ne (by decide), reg_orReg_ne (by decide), reg_clrReg_ne (by decide)]
    rfl
  have hk : ∀ k, timeRecs k (sat32 (beaconDiff tb s)) (beaconTaken tb s) = timeRec s k (max (-(2 ^ 31)) (min (2 ^ 31 - 1) (beaconDiff tb s))) t :=
    fun k => by rw [sat32_eq, timeRecs_int he hr ht]
  unfold beaconLeft beaconKind
  simp only [apply_ite (beaconRecs · (sat32 (beaconDiff tb s)) (beaconTaken tb s)), Bool.not_eq_true', gt_iff_lt]
  simp only [beaconRecs, hk]

theorem beaconTaken_within (tb : BitVec 64) (s : State) : Within [⟨0x604C, 4, 2⟩] s (beaconTaken tb s) := by
  unfold beaconTaken
  refine Within.trans (Within.trans (Within.trans (Within.of_only (t := { s with tm := s.tm.accept (!regB s 0x604C 0) tb (beaconDiff tb s) })
    (ps := [.tm]) ?_ (by decide)) ((clrReg_within _ _ _).mono (by decide))) ((orReg_within _ _ _).mono (by decide)))
    ((setReg_within _ _ _).mono (by decide))
  simp [Only.mk_iff, Only.refl]

theorem beaconTaken_tm (tb : BitVec 64) (s : State) : (beaconTaken tb s).tm = s.tm.accept (!regB s 0x604C 0) tb (beaconDiff tb s) := by
  unfold beaconTaken
  rw [setReg_tm, orReg_tm, clrReg_tm]

/-- Settles O54. -/
theorem timeFollowsTheBeacons : Obligations.TimeFollowsTheBeacons := by
  unfold Obligations.TimeFollowsTheBeacons
  intro s rec1
  have hrec : ∀ k d u, rec1 k d u = timeRec s k d u := fun _ _ _ => rfl
  simp only [hrec]
  have hgen : ∀ {u t : State} (k : Nat), t = genTime k 0 u → u.tr = s.tr → reg u 0x6000 = reg s 0x6000 →
      t.tr = { s.tr with gen := s.tr.gen ++ timeRec s k 0 t } := fun {u t} k ht hu he => by
    subst ht
    rw [genTime_eq]
    rw [← timeRecs_int (t := { u with tr := { u.tr with gen := u.tr.gen ++ timeRecs k 0 u } }) he rfl rfl k 0, hu]
    rfl
  refine ⟨fun tb hp h => ?_, fun hr hl h => ?_, fun hr h3 h => ?_, fun hr h3 => ?_, fun hh h0 => ?_, ?_⟩
  · obtain ⟨t, he, ho, htr⟩ := execBeacon_accepted (tb := tb) hp h
    obtain ⟨hr, hc⟩ := beaconTaken_regs tb s
    have hreg : ∀ o, reg t o = reg (beaconTaken tb s) o := fun o => by rw [reg, reg, ho .regs (by decide)]
    have htm : t.tm = (beaconTaken tb s).tm := ho .tm (by decide)
    refine ⟨t, he, ((beaconTaken_only tb s).mono (by decide)).trans (ho.mono (by decide)),
      ((beaconTaken_within tb s).trans (Within.of_only ho (by decide))), (hreg _).trans hr, ?_, ?_, ?_⟩
    · rw [hreg, hc, sat32_eq]
      refine BitVec.eq_of_toNat_eq ?_
      rw [BitVec.toNat_ofNat, BitVec.toNat_ofInt]
      exact Nat.mod_eq_of_lt (by omega)
    · rw [htm, beaconTaken_tm, accept_eq]
      rfl
    · rw [htr, beaconRecs_eq (hreg _) htm]
      rfl
  · have he : exec .beaconLoss s = .next (raise 50 (genTime 4 0 (bump 0x5A68 1 (orReg 0x604C 2 s)))) :=
      congrArg Host.Outcome.next (if_pos (by simp [hr, hl, h]))
    obtain ⟨more, hm⟩ := raise_gen 50 (genTime 4 0 (bump 0x5A68 1 (orReg 0x604C 2 s)))
    refine ⟨_, more, he, exec_only he, (execBeaconLoss_within s _ he).mono (by decide), ?_, ?_, raise_sets 50 _, ?_⟩
    · rw [raise_reg rfl, reg_genTime, (bump_within _ _ _).reg 0x604C rfl]
      exact reg_setReg_self _ _ _
    · rw [raise_cnt, (genTime_only _ _ _ .cnt (by decide) : (genTime 4 0 _).cnt = _), cnt_bump, if_pos rfl]
      rfl
    · have hu : (bump 0x5A68 1 (orReg 0x604C 2 s)).tr = s.tr := by rw [bump_tr, orReg_tr]
      have hr0 : reg (bump 0x5A68 1 (orReg 0x604C 2 s)) 0x6000 = reg s 0x6000 :=
        ((bump_within _ _ _).reg 0x6000 rfl).trans (reg_orReg_ne (by decide))
      have ht : (raise 50 (genTime 4 0 (bump 0x5A68 1 (orReg 0x604C 2 s)))).tm = (bump 0x5A68 1 (orReg 0x604C 2 s)).tm := by
        rw [raise_tm, genTime_tm]
      rw [← timeRecs_int hr0 ((raise_reg rfl).trans (reg_genTime _ _ _ _)) ht 4 0, hm, genTime_eq, hu]
      rfl
  · have he : exec .tclkStall s = .next (genTime 6 0 (orReg 0x604C 8 s)) :=
      congrArg Host.Outcome.next (if_neg (by simp [hr, h3, h]))
    refine ⟨_, he, exec_only he, execTclkStall_within s _ he, ?_, ?_⟩
    · rw [reg_genTime]
      exact reg_setReg_self _ _ _
    · exact hgen 6 rfl (orReg_tr _ _ _) (reg_orReg_ne (by decide))
  · have he : exec .tclkResume s = .next (genTime 7 0 (clrReg 0x604C 8 { s with tm := { s.tm with still := 0 } })) :=
      congrArg Host.Outcome.next (if_neg (by simp [hr, h3]))
    refine ⟨_, he, exec_only he, ?_, execTclkResume_within s _ he, ?_, ?_⟩
    · rw [genTime_tm, clrReg_tm]
    · rw [reg_genTime]
      exact reg_clrReg_self _ _ _
    · exact hgen 7 rfl (clrReg_tr _ _ _) (reg_clrReg_ne (by decide))
  · exact ⟨_, congrArg Host.Outcome.next (if_pos (by simp [hh, h0])), rfl⟩
  · exact ⟨_, rfl, by rw [genTime_eq, ← timeRecs_int (u := s) (t := s) rfl rfl rfl 0 0]; rfl⟩

end Sys2Proof.Machine
end

section
/-!
PROOFS. An accepted write, with its state as a variable; and the trace commands (R430 to R437).
-/
namespace Sys2Proof.Machine

/-- An accepted write answers 0 after its action, and leaves the rest to the action. -/
theorem written {a : BusAcc} {o : Nat} {s : State} (ha : accepts a true o s) (act : State → State) :
    ∃ t, (Host.Outcome.next (busWrite a o act s) : Host.Outcome State Fault Refusal) = .next t ∧ answered 0 t ∧ Only [.bus] (act s) t
      ∧ Within [] (act s) t ∧ ∀ o, reg t o = reg (act s) o :=
  exists_write ha ⟨⟨rfl, rfl⟩, respond_only _ _ _, (Within.refl [] (act s)).respond _ _, fun o => reg_respond _ _ _ o⟩

theorem bit_toNat {n : Nat} (w : BitVec n) (i : Nat) : bit w.toNat i = w.getLsbD i := rfl

/-! The read pointer -/

/-- How far a slot of a ring lies behind another. -/
theorem ring_dist {n r d : Nat} (hr : r < n) (hd : d < n) : ((r + d) % n + n - r) % n = d := by
  by_cases h : r + d < n
  · rw [Nat.mod_eq_of_lt h, show r + d + n - r = d + n by omega, Nat.add_mod_right, Nat.mod_eq_of_lt hd]
  · have hm : (r + d) % n = r + d - n := by rw [Nat.mod_eq_sub_mod (by omega), Nat.mod_eq_of_lt (by omega)]
    rw [hm, show r + d - n + n - r = d by omega, Nat.mod_eq_of_lt hd]

theorem writeRptr_frees {w : Word} {s : State} {d : Nat} (hp : regB s 0x6000 1 = false)
    (hr : regF s 0x601C 15 0 < ringSlots s) (hv : bits w.toNat 15 0 = (regF s 0x601C 15 0 + d) % ringSlots s)
    (hw : regF s 0x6018 15 0 = (regF s 0x601C 15 0 + regF s 0x6020 15 0) % ringSlots s)
    (hd : d < ringSlots s ∨ d = regF s 0x6020 15 0) (hdf : d ≤ regF s 0x6020 15 0) (hf : regF s 0x6020 15 0 ≤ ringSlots s)
    (h0 : d = 0 → regF s 0x6020 15 0 < ringSlots s) :
    writeRptr w s = (setReg 0x601C (BitVec.ofNat 32 (bits w.toNat 15 0)) s |> setReg 0x6020 (BitVec.ofNat 32 (regF s 0x6020 15 0 - d))) := by
  have hlt : bits w.toNat 15 0 < ringSlots s := hv ▸ Nat.mod_lt _ (by omega)
  unfold writeRptr isWindow
  simp only [hp, Bool.false_eq_true, if_false]
  by_cases hn : d < ringSlots s
  · have hd0 : ¬ (d = 0 ∧ bits w.toNat 15 0 = regF s 0x6018 15 0 ∧ regF s 0x6020 15 0 = ringSlots s) := fun h => by have := h0 h.1; omega
    have hk : (bits w.toNat 15 0 + ringSlots s - regF s 0x601C 15 0) % ringSlots s = d := hv ▸ ring_dist hr hn
    rw [hk, if_neg hd0, if_neg (by omega)]
  · obtain rfl : d = ringSlots s := by omega
    have hb : bits w.toNat 15 0 = regF s 0x601C 15 0 := by rw [hv, Nat.add_mod_right, Nat.mod_eq_of_lt hr]
    have hk : (bits w.toNat 15 0 + ringSlots s - regF s 0x601C 15 0) % ringSlots s = 0 := by
      rw [hb, Nat.add_sub_cancel_left, Nat.mod_self]
    have hfull : regF s 0x6020 15 0 = ringSlots s := Nat.le_antisymm hf hdf
    have hc : 0 = 0 ∧ bits w.toNat 15 0 = regF s 0x6018 15 0 ∧ regF s 0x6020 15 0 = ringSlots s := ⟨rfl, by rw [hw, hv, hfull], hfull⟩
    rw [hk, if_pos hc, if_neg (by omega)]

theorem writeRptr_ignored {w : Word} {s : State} (hp : regB s 0x6000 1 = false) (hr : regF s 0x601C 15 0 < ringSlots s)
    (h : ringSlots s ≤ bits w.toNat 15 0 ∨ ∃ d, d < ringSlots s ∧ bits w.toNat 15 0 = (regF s 0x601C 15 0 + d) % ringSlots s
      ∧ regF s 0x6020 15 0 < d) : writeRptr w s = orReg 0x6014 0x80 s := by
  unfold writeRptr isWindow
  simp only [hp, Bool.false_eq_true, if_false]
  refine if_pos (h.imp id ?_)
  rintro ⟨d, hn, hv, hf⟩
  rw [hv, ring_dist hr hn, if_neg (by omega)]
  exact hf

/-! Enabling, disabling and freezing -/

/-- A row write of the trace. -/
def isTrace (j : Job) : Bool := match j with | .trace _ => true | _ => false

theorem isTrace_false {j : Job} : isTrace j = false ↔ ∀ n, j ≠ .trace n := by
  cases j <;> simp [isTrace]

/-- The trace state that enabling leaves (R430). -/
def traceCleared (s : State) : State :=
  { s with tr := { s.tr with wbuf := [], wpos := 0, wold := 0, recs := [], lossB := Loss.none, lossE := Loss.none, post := none,
                              raised := false, raisedE := false, quiet := 0, freezeDue := false } }

/-- Enabling, before its record. -/
def traceStarted (s : State) : State :=
  dropJobs isTrace (traceCleared s)
    |> forEach [0x6018, 0x601C, 0x6020, 0x6024] (fun o => setReg o 0)
    |> clrReg 0x6014 0x7E
    |> when (traceN s == 0) (orReg 0x6014 0x10)

theorem startTrace_eq (s : State) : startTrace s = genTime 0 0 (traceStarted s) := by
  rfl

/-- Enabling writes registers once its transfers and buffers are gone. -/
theorem traceStarted_only (s : State) : Only [.regs] (dropJobs isTrace (traceCleared s)) (traceStarted s) :=
  ((Only.forEach (fun o u => setReg_only o 0 u) _ _).trans (clrReg_only _ _ _)).trans (Only.when (fun u => orReg_only _ _ u) _ _)

theorem dropJobs_frame (p : Job → Bool) (s : State) : (dropJobs p s).fr = { s.fr with trs := (dropJobs p s).fr.trs } := rfl

theorem traceCleared_fr (s : State) : (traceCleared s).fr = s.fr := rfl

theorem traceStarted_tr (s : State) : (traceStarted s).tr = (traceCleared s).tr :=
  (traceStarted_only s .tr (by decide)).trans (dropJobs_only _ _ .tr (by decide))

theorem traceStarted_tm (s : State) : (traceStarted s).tm = s.tm :=
  (traceStarted_only s .tm (by decide)).trans (dropJobs_only _ _ .tm (by decide))

theorem reg_traceStarted (s : State) {o : Nat} (ho : o ≠ 0x6014) :
    reg (traceStarted s) o = if o ∈ [0x6018, 0x601C, 0x6020, 0x6024] then 0 else reg s o := by
  unfold traceStarted
  rw [reg_when_keep (reg_orReg_ne ho), reg_clrReg_ne ho, reg_forEach_setReg]
  rfl

theorem traceStarted_status (s : State) : reg (traceStarted s) 0x6014 =
    (reg s 0x6014 &&& ~~~(0x7E : Word)) ||| (if regF s 0x12C4 15 0 = 0 then 0x10 else 0) := by
  have hu : reg (clrReg 0x6014 0x7E (forEach [0x6018, 0x601C, 0x6020, 0x6024] (fun o => setReg o 0) (dropJobs isTrace (traceCleared s)))) 0x6014
      = reg s 0x6014 &&& ~~~(0x7E : Word) := by
    rw [reg_clrReg_self, reg_forEach_setReg]
    rfl
  unfold traceStarted Machine.when traceN
  split
  next h =>
    have h0 : 8 * regF s 0x12C4 15 0 = 0 := beq_iff_eq.mp h
    rw [orReg, reg_setReg_self, hu, if_pos (by omega)]
    rfl
  next h =>
    have h0 : ¬ 8 * regF s 0x12C4 15 0 = 0 := fun e => h (beq_iff_eq.mpr e)
    rw [hu, if_neg (by omega)]
    exact BitVec.or_zero.symm

/-- Asking the write buffer's rows asks nothing where all of it is written. -/
theorem writeTrace_nothing {s : State} (part : Bool) (hb : s.tr.wbuf.length ≤ s.tr.wold) (hj : ∀ T ∈ s.fr.trs, ∀ n, T.job ≠ .trace n) :
    writeTrace part s = s := by
  have ha : ∀ (l : List Tr) a, (∀ T ∈ l, ∀ n, T.job ≠ .trace n) → traceAsked s l a = a := fun l => by
    induction l with
    | nil => exact fun _ _ => rfl
    | cons T l ih =>
      intro a h
      have hT := h T (List.mem_cons_self ..)
      have hl := ih a fun U hU => h U (List.mem_cons_of_mem _ hU)
      unfold traceAsked
      split
      · exact hl
      · split
        next n hn => exact absurd hn (hT n)
        next => exact hl
  unfold writeTrace askTraceRows
  split
  · rfl
  · dsimp only
    rw [ha _ _ hj, if_pos (.inl (by simp only [Nat.sub_zero]; omega))]

theorem writeTraceCtl_refused {w : Word} {s : State} (he : regB s 0x6000 0 = true) (hp : w.getLsbD 1 ≠ regB s 0x6000 1) :
    writeTraceCtl w s = orReg 0x6014 0x80 s := by
  unfold writeTraceCtl
  exact if_pos (by simpa [he, bit_toNat] using hp)

theorem writeTraceCtl_enables {w : Word} {s : State} (he : regB s 0x6000 0 = false) (hw : w.getLsbD 0 = true) :
    writeTraceCtl w s = startTrace (setReg 0x6000 (w &&& 0x37) s) := by
  unfold writeTraceCtl
  rw [if_neg (by simp [he])]
  exact if_pos (by simp [he, bit_toNat, hw])

theorem writeTraceCtl_disables {w : Word} {s : State} (he : regB s 0x6000 0 = true) (hw : w.getLsbD 0 = false)
    (hp : w.getLsbD 1 = regB s 0x6000 1) : writeTraceCtl w s = writeTrace true (setReg 0x6000 (w &&& 0x37) s) := by
  unfold writeTraceCtl
  rw [if_neg (by rw [bit_toNat, hp]; simp)]
  exact (if_neg (by simp [he])).trans (if_pos (by rw [he, bit_toNat, hw]; rfl))

/-- Settles O55. -/
theorem traceCommandsDoWhatTheyName : Obligations.TraceCommandsDoWhatTheyName := by
  unfold Obligations.TraceCommandsDoWhatTheyName
  refine ⟨fun a s ha => ⟨fun he hw => ?_, ?_, fun he => ?_⟩, fun a w s ha hp => ?_, fun a w s ha => ?_, fun a w s ha => ⟨fun he hw => ?_,
    fun he hw hp hb hj => ?_, fun he hp => ?_⟩, fun s hr => ⟨fun hd => ?_, ?_⟩⟩
  · obtain ⟨t, ht, hans, ho, hin, hreg⟩ := written ha (traceTrigger 0 0)
    have hq := traceTrigger_eq (src := 0) (cause := 0) he hw
    have hk : Only [.tr, .regs] s (traceTrigger 0 0 s) := (traceTrigger_only 0 0 s).mono (by decide)
    refine ⟨t, ht, hans, (hk.mono (by decide)).trans (ho.mono (by decide)), (traceTrigger_within 0 0 s).trans (hin.mono (by decide)), ?_, ?_⟩
    · rw [hreg, hq]
      cases regB s 0x6000 1
      · rfl
      · exact reg_setReg_self _ _ _
    · have hp : 0 + fld 0 8 + fld (tracePost s) 16 = 65536 * min (regF s 0x600C 15 0) (8 * regF s 0x12C4 15 0 - 10) := by
        rw [fld, fld, Nat.shiftLeft_eq, Nat.shiftLeft_eq, Nat.mul_comm]
        unfold tracePost traceN
        omega
      rw [ho .tr (by decide), hq, hp]
      exact Only.when (fun u => orReg_only _ _ u) _ _ .tr (by decide)
  · obtain ⟨t, ht, hans, ho, hin, hreg⟩ := written ha rearmTrace
    refine ⟨t, ht, hans, ((rearmTrace_only s).mono (by decide)).trans (ho.mono (by decide)),
      (rearmTrace_within s).trans (hin.mono (by decide)), ?_, ?_⟩
    · rw [hreg]
      exact reg_clrReg_self _ _ _
    · rw [ho .tr (by decide)]
      exact clrReg_tr _ _ _
  · obtain ⟨t, ht, hans, ho, hin, hreg⟩ := written ha (genTime 0 0)
    refine ⟨t, ht, hans, ((genTime_only 0 0 s).mono (by decide)).trans (ho.mono (by decide)), ?_⟩
    rw [ho .tr (by decide), genTime_eq]
    unfold timeRecs
    rw [if_pos he]
    rfl
  · obtain ⟨t, ht, hans, ho, hin, hreg⟩ := written ha (writeRptr w)
    have hk : writeRptr w s = s := if_pos hp
    exact ⟨t, ht, hans, hk ▸ ho⟩
  · intro n v r fill hp hr hf hw
    obtain ⟨t, ht, hans, ho, hin, hreg⟩ := written ha (writeRptr w)
    refine ⟨fun d hv hd hdf h0 => ⟨t, ht, hans, ?_⟩, fun h => ⟨t, ht, hans, ?_⟩⟩
    · have hk := writeRptr_frees hp hr hv hw hd hdf hf h0
      refine ⟨((writeRptr_only w s).mono (by decide)).trans (ho.mono (by decide)), ?_, ?_, ?_⟩
      · rw [hk] at hin
        exact (((setReg_within _ _ _).mono (by decide)).trans ((setReg_within _ _ _).mono (by decide))).trans (hin.mono (by decide))
      · rw [hreg, hk, reg_setReg_ne (by decide), reg_setReg_self]
      · rw [hreg, hk, reg_setReg_self]
    · have hk := writeRptr_ignored hp hr h
      refine ⟨((writeRptr_only w s).mono (by decide)).trans (ho.mono (by decide)), ?_, ?_⟩
      · rw [hk] at hin
        exact (orReg_within _ _ _).trans (hin.mono (by decide))
      · rw [hreg, hk]
        exact reg_setReg_self _ _ _
  · obtain ⟨t, ht, hans, ho, hin, hreg⟩ := written ha (writeTraceCtl w)
    have hk : writeTraceCtl w s = genTime 0 0 (traceStarted (setReg 0x6000 (w &&& 0x37) s)) := by
      rw [writeTraceCtl_enables he hw, startTrace_eq]
    have hfr : t.fr = (dropJobs isTrace (traceCleared (setReg 0x6000 (w &&& 0x37) s))).fr := by
      rw [ho .fr (by decide), hk, genTime_fr]
      exact traceStarted_only _ .fr (by decide)
    obtain ⟨hj, hkeep⟩ := mem_dropJobs (p := isTrace) (s := traceCleared (setReg 0x6000 (w &&& 0x37) s)) rfl
    have hr : ∀ o, reg t o = reg (traceStarted (setReg 0x6000 (w &&& 0x37) s)) o := fun o => by rw [hreg, hk, reg_genTime]
    refine ⟨t, ht, hans, ((writeTraceCtl_only w s).mono (by decide)).trans (ho.mono (by decide)), ?_, fun T hT => ?_, fun T hT hn => ?_,
      (writeTraceCtl_within w s).trans (hin.mono (by decide)), ?_, ?_, fun o ho => ?_, ?_⟩
    · rw [hfr]
      refine (dropJobs_frame _ _).trans ?_
      rw [traceCleared_fr, setReg_fr]
    · exact isTrace_false.mp (hj T (hfr ▸ hT))
    · rw [hfr]
      exact hkeep T (by rwa [traceCleared_fr, setReg_fr]) (isTrace_false.mpr hn)
    · rw [hr, reg_traceStarted _ (by decide), if_neg (by decide), reg_setReg_self]
    · rw [hr, traceStarted_status, regF, reg_setReg_ne (by decide), reg_setReg_ne (by decide)]
      rfl
    · rw [hr, reg_traceStarted _ (by rintro rfl; exact absurd ho (by decide)), if_pos ho]
    · have hb : ∀ i, regB (traceStarted (setReg 0x6000 (w &&& 0x37) s)) 0x604C i = regB s 0x604C i := fun i => by
        rw [regB, reg_traceStarted _ (by decide), if_neg (by decide), reg_setReg_ne (by decide)]
        rfl
      have he : regB (traceStarted (setReg 0x6000 (w &&& 0x37) s)) 0x6000 0 = true := by
        rw [regB, reg_traceStarted _ (by decide), if_neg (by decide), reg_setReg_self, bit_toNat, BitVec.getLsbD_and, hw]
        rfl
      have htm : (traceStarted (setReg 0x6000 (w &&& 0x37) s)).tm = s.tm :=
        (traceStarted_tm _).trans (setReg_tm _ _ _)
      rw [ho .tr (by decide), hk, genTime_eq, timeRecs, if_pos he, timeQ, hb, hb, hb, htm, traceStarted_tr]
      unfold traceCleared
      rw [setReg_tr]
      rfl
  · obtain ⟨t, ht, hans, ho, hin, hreg⟩ := written ha (writeTraceCtl w)
    have hk : writeTraceCtl w s = setReg 0x6000 (w &&& 0x37) s := by
      rw [writeTraceCtl_disables he hw hp, writeTrace_nothing]
      · rwa [setReg_tr]
      · rwa [setReg_fr]
    rw [hk] at ho hin hreg
    exact ⟨t, ht, hans, ((setReg_only _ _ _).mono (by decide)).trans (ho.mono (by decide)),
      (setReg_within _ _ _).trans (hin.mono (by decide)), (hreg _).trans (reg_setReg_self _ _ _)⟩
  · obtain ⟨t, ht, hans, ho, hin, hreg⟩ := written ha (writeTraceCtl w)
    rw [writeTraceCtl_refused he hp] at ho hin hreg
    exact ⟨t, ht, ht, hans, ((orReg_only _ _ _).mono (by decide)).trans (ho.mono (by decide)),
      (orReg_within _ _ _).trans (hin.mono (by decide)), (hreg _).trans (reg_setReg_self _ _ _)⟩
  · have he : exec .traceFreeze s = .next (raise 49 (orReg 0x6014 2 { s with tr := { s.tr with freezeDue := false, post := none } })) :=
      congrArg Host.Outcome.next (if_pos (by simp [hr, hd]))
    refine ⟨_, he, exec_only he, (execTraceFreeze_within s _ he), ?_, ?_, raise_sets 49 _⟩
    · have h2 : regB (orReg 0x6014 2 { s with tr := { s.tr with freezeDue := false, post := none } }) 0x6014 1 = true := by
        rw [regB, bit_toNat, orReg, reg_setReg_self, BitVec.getLsbD_or]
        exact Bool.or_true _
      rw [regB, bit_toNat] at h2 ⊢
      obtain h | h := raise_status 49 (orReg 0x6014 2 { s with tr := { s.tr with freezeDue := false, post := none } })
      · rw [h, h2]
      · rw [h, BitVec.getLsbD_or, h2, Bool.true_or]
    · obtain ⟨more, hm⟩ := raise_gen 49 (orReg 0x6014 2 { s with tr := { s.tr with freezeDue := false, post := none } })
      rw [hm, orReg_tr]
  · exact ⟨_, congrArg Host.Outcome.next (if_neg (by simp [hr])), rfl⟩

end Sys2Proof.Machine
end

section
/-!
PROOFS. Level commands: their acknowledges, and what applying one leaves (R345 to R352).
-/
namespace Sys2Proof.Machine

/-- The acknowledge of a command that is not superseded (R352). -/
def levelAck (seq step div : Nat) (err : Bool) : BitVec 17 := BitVec.ofNat 17 (seq + fld step 8 + fld div 12 + fld (b2n err) 16)

theorem levelAck_ok (seq step div : Nat) : levelAck seq step div false = BitVec.ofNat 17 (seq + fld step 8 + fld div 12) := rfl

theorem pushAck_pw (seq : Nat) (err : Bool) (s : State) :
    (pushAck seq false err s).pw = { s.pw with acks := s.pw.acks.take 1 ++ [levelAck seq s.pw.step s.pw.div err] } := rfl

/-- The acknowledges of superseded commands change no other field. -/
theorem forEach_pushAck_pw (l : List Nat) (s : State) :
    ∃ acks, (forEach l (fun q => pushAck q true false) s).pw = { s.pw with acks := acks } := by
  induction l generalizing s with
  | nil => exact ⟨s.pw.acks, rfl⟩
  | cons q l ih =>
    obtain ⟨acks, h⟩ := ih (pushAck q true false s)
    exact ⟨acks, h⟩

/-- The last acknowledge of a command that ends is its own. -/
theorem ackCommand_pw (seq : Nat) (err : Bool) (s : State) :
    ∃ l, (ackCommand seq err s).pw = { s.pw with supNow := [], acks := l ++ [levelAck seq s.pw.step s.pw.div err] } := by
  obtain ⟨acks, h⟩ := forEach_pushAck_pw s.pw.supNow s
  refine ⟨acks.take 1, ?_⟩
  unfold ackCommand
  dsimp only
  rw [pushAck_pw, h]

/-- CAPUN, as a command sets it (R351). -/
def capOf (c : BitVec 16) : Bool := cmdCap c && cmdStep c == 0 && cmdDiv c == 4

theorem applyCap_pw (c : BitVec 16) (s : State) : (applyCap c s).pw = { s.pw with capun := capOf c } := by
  unfold applyCap
  exact Only.when (fun u => raise_only 42 u) _ _ .pw (by decide)

/-- A command that is applied: its level is in force and its acknowledge is the last. -/
theorem applyLevel_pw (c : BitVec 16) (s : State) :
    ∃ l, (applyLevel c s).pw = { s.pw with
      step := cmdStep c, div := cmdDiv c, seq := cmdSeq c, cmd := none, phase := 0, capun := capOf c, supNow := []
      acks := l ++ [levelAck (cmdSeq c) (cmdStep c) (cmdDiv c) false] } := by
  have hg : ∀ ch r, (when ch (genRec r false) s).pw = s.pw := fun ch r => Only.when (fun u => genRec_only r false u) _ _ .pw (by decide)
  unfold applyLevel
  dsimp only
  generalize hu : when _ _ s = u
  have hup : u.pw = s.pw := hu ▸ hg _ _
  obtain ⟨l, h⟩ := ackCommand_pw (cmdSeq c) false
    (applyCap c { u with pw := { u.pw with step := cmdStep c, div := cmdDiv c, seq := cmdSeq c, cmd := none, phase := 0 } })
  refine ⟨l, ?_⟩
  rw [h, applyCap_pw, ← hup]

/-- A command with none held or under way, of a LOADED block, begins. -/
theorem takeHeld_begins {c : BitVec 16} {s : State} (hc : s.pw.cmd = none) (hh : s.pw.held = some c) (hl : loaded s = true) :
    takeHeld s = beginLevel c { s with pw := { s.pw with held := none, sup := [], supNow := s.pw.sup } } := by
  unfold takeHeld
  rw [hc, hh]
  exact if_pos hl

/-- A command waits where one is under way or the Waybill is not loaded. -/
theorem takeHeld_waits {s : State} (h : s.pw.cmd ≠ none ∨ loaded s = false) : takeHeld s = s := by
  unfold takeHeld
  split
  next hc _ =>
    obtain h | h := h
    · exact absurd hc h
    · exact if_neg (by simp [h])
  next => rfl

/-- What a valid level command leaves in a LOADED block with none held or under way: it begins. -/
def commandBegins (msg : BitVec 16) (s : State) : State :=
  beginLevel msg { s with pw := { s.pw with held := none, sup := [], supNow := s.pw.sup } }

theorem commandBegins_step {msg : BitVec 16} {s : State} (h : cmdStep msg ≠ s.pw.step) :
    commandBegins msg s = retune (cmdStep msg) { s with pw := { s.pw with held := none, sup := [], supNow := s.pw.sup, cmd := some msg } } := if_pos h

theorem commandBegins_substep {msg : BitVec 16} {s : State} (h : cmdStep msg = s.pw.step) (hd : cmdDiv msg ≠ s.pw.div) (hh : s.pw.held = none) :
    commandBegins msg s = { s with pw := { s.pw with cmd := some msg, phase := 3, sup := [], supNow := s.pw.sup } } := by
  refine (if_neg (Classical.not_not.mpr h)).trans ((if_pos hd).trans ?_)
  rw [← hh]

theorem commandBegins_same {msg : BitVec 16} {s : State} (h : cmdStep msg = s.pw.step) (hd : cmdDiv msg = s.pw.div) :
    commandBegins msg s = applyLevel msg { s with pw := { s.pw with held := none, sup := [], supNow := s.pw.sup, cmd := some msg } } :=
  (if_neg (Classical.not_not.mpr h)).trans (if_neg (Classical.not_not.mpr hd))

theorem retune_locked {step : Nat} {s : State} (h : s.pw.ckLock = true) : retune step s = { s with pw := { s.pw with phase := 1 } } := if_pos h

theorem retune_unlocked {step : Nat} {s : State} (h : s.pw.ckLock = false) :
    retune step s = { s with pw := { s.pw with phase := 2, ckFmhz := BitVec.ofNat 12 (stepVF s step).1, ckRtn := true, rtnNs := 0 } } :=
  if_neg (by simp [h])

/-- A command that asks for its step's clock, or waits for the lock to fall, keeps the level, the other commands and the acknowledges. -/
theorem retune_keeps (step : Nat) (s : State) : Only [.pw] s (retune step s) ∧ (retune step s).pw.held = s.pw.held
    ∧ (retune step s).pw.cmd = s.pw.cmd ∧ (retune step s).pw.step = s.pw.step ∧ (retune step s).pw.div = s.pw.div
    ∧ (retune step s).pw.ckSel = s.pw.ckSel ∧ (retune step s).pw.acks = s.pw.acks := by
  unfold retune
  split
  · exact ⟨by simp [Only.mk_iff, Only.refl], rfl, rfl, rfl, rfl, rfl, rfl⟩
  · exact ⟨by simp [Only.mk_iff, Only.refl], rfl, rfl, rfl, rfl, rfl, rfl⟩

/-- A command that begins keeps the level and the clock in force. -/
theorem commandBegins_level (msg : BitVec 16) (s : State) : (commandBegins msg s).pw.held = none ∧ (commandBegins msg s).pw.step = s.pw.step
    ∧ (commandBegins msg s).pw.div = s.pw.div ∧ (commandBegins msg s).pw.ckSel = s.pw.ckSel := by
  by_cases h : cmdStep msg = s.pw.step
  · by_cases hd : cmdDiv msg = s.pw.div
    · rw [commandBegins_same h hd]
      obtain ⟨l, hl⟩ := applyLevel_pw msg { s with pw := { s.pw with held := none, sup := [], supNow := s.pw.sup, cmd := some msg } }
      rw [hl]
      exact ⟨rfl, h, hd, rfl⟩
    · unfold commandBegins beginLevel
      rw [if_neg (Classical.not_not.mpr h), if_pos hd]
      exact ⟨rfl, rfl, rfl, rfl⟩
  · rw [commandBegins_step h]
    obtain ⟨-, hh, -, hs, hdv, hk, -⟩ := retune_keeps (cmdStep msg)
      { s with pw := { s.pw with held := none, sup := [], supNow := s.pw.sup, cmd := some msg } }
    exact ⟨hh, hs, hdv, hk⟩

theorem takeHeld_level (s : State) : (takeHeld s).pw.step = s.pw.step ∧ (takeHeld s).pw.div = s.pw.div ∧ (takeHeld s).pw.ckSel = s.pw.ckSel := by
  by_cases h : s.pw.cmd ≠ none ∨ loaded s = false
  · rw [takeHeld_waits h]
    exact ⟨rfl, rfl, rfl⟩
  · obtain ⟨hc, hl⟩ := not_or.mp h
    cases hh : s.pw.held with
    | none =>
      rw [takeHeld_none hh]
      exact ⟨rfl, rfl, rfl⟩
    | some c =>
      rw [takeHeld_begins (Classical.not_not.mp hc) hh (by simpa using hl)]
      exact (commandBegins_level c s).2

/-- A command that is applied, and the one held after it. -/
theorem applied_level (c : BitVec 16) (s : State) :
    (takeHeld (applyLevel c s)).pw.step = cmdStep c ∧ (takeHeld (applyLevel c s)).pw.div = cmdDiv c
      ∧ (takeHeld (applyLevel c s)).pw.ckSel = s.pw.ckSel := by
  obtain ⟨l, hl⟩ := applyLevel_pw c s
  have h := takeHeld_level (applyLevel c s)
  rwa [hl] at h

/-- With no command held, an applied one is acknowledged and none is under way. -/
theorem applied_alone {c : BitVec 16} {s : State} (hh : s.pw.held = none) :
    ∃ l, (takeHeld (applyLevel c s)).pw = { s.pw with
      step := cmdStep c, div := cmdDiv c, seq := cmdSeq c, cmd := none, phase := 0, capun := capOf c, supNow := []
      acks := l ++ [levelAck (cmdSeq c) (cmdStep c) (cmdDiv c) false] } := by
  obtain ⟨l, hl⟩ := applyLevel_pw c s
  exact ⟨l, by rw [takeHeld_none (by rw [hl]; exact hh), hl]⟩

/-- Settles O46. -/
theorem levelCommandsChangeTheLevelInTurn : Obligations.LevelCommandsChangeTheLevelInTurn := by
  unfold Obligations.LevelCommandsChangeTheLevelInTurn
  refine ⟨fun msg s hr h4 hz => ?_, fun c s hr hc => ⟨fun hp => ?_, fun hp => ?_, fun hp hn hh => ?_⟩, fun s hl hrt => ?_⟩
  · have hok : cmdBad msg = false := by
      simp only [cmdBad, cmdDiv, cmdStep, Bool.or_eq_false_iff, Bool.and_eq_false_iff]
      exact ⟨decide_eq_false (Nat.not_lt.mpr h4), hz.imp (fun h => decide_eq_false (Classical.not_not.mpr h)) fun h => decide_eq_false (Classical.not_not.mpr h)⟩
    have he : exec (.levelCommand msg) s = .next (match s.pw.held with
        | some h => { s with pw := { s.pw with held := some msg, sup := s.pw.sup ++ [cmdSeq h] } }
        | none => takeHeld { s with pw := { s.pw with held := some msg } }) :=
      congrArg Host.Outcome.next ((if_neg (by simp [hr])).trans (if_neg (by simp [hok])))
    refine ⟨fun h hh => ⟨_, he, by rw [hh]; rfl⟩, fun hh hw => ⟨_, he, ?_⟩, fun hh hc hl => ?_⟩
    · rw [hh]
      exact takeHeld_waits hw
    have he : exec (.levelCommand msg) s = .next (commandBegins msg s) := by
      rw [he, hh]
      exact congrArg _ (takeHeld_begins hc rfl hl)
    refine ⟨_, he, ?_, fun h => ?_, fun h hd => ?_, fun h hd => ?_⟩
    · exact (commandBegins_level msg s).1
    · rw [commandBegins_step h]
      obtain ⟨ho, -, hcm, hs, hdv, -, hak⟩ := retune_keeps (cmdStep msg)
        { s with pw := { s.pw with held := none, sup := [], supNow := s.pw.sup, cmd := some msg } }
      refine ⟨hcm, hs, hdv, hak, ho .regs (by decide), ?_⟩
      split
      next hk =>
        rw [retune_locked (by exact hk)]
        exact ⟨rfl, rfl⟩
      next hk =>
        rw [retune_unlocked (by simpa using hk)]
        exact ⟨rfl, rfl, rfl⟩
    · exact commandBegins_substep h hd hh
    · rw [commandBegins_same h hd]
      obtain ⟨l, hl⟩ := applyLevel_pw msg { s with pw := { s.pw with held := none, sup := [], supNow := s.pw.sup, cmd := some msg } }
      rw [hl]
      refine ⟨rfl, rfl, ?_⟩
      rw [List.getLast?_concat, levelAck_ok]
      unfold cmdStep cmdDiv cmdSeq
      rw [h, hd]
  · have he : exec .clockSwitch s =
        .next (takeHeld (applyLevel c { s with pw := { s.pw with ckLock := true, ckSel := !s.pw.ckSel, ckRtn := false } })) := by
      refine congrArg Host.Outcome.next ?_
      rw [hc]
      exact if_pos (by simp [hr, hp])
    obtain ⟨hs, hd, hk⟩ := applied_level c { s with pw := { s.pw with ckLock := true, ckSel := !s.pw.ckSel, ckRtn := false } }
    refine ⟨_, he, hs, hd, hk, fun hh => ?_⟩
    obtain ⟨l, hl⟩ := applied_alone (c := c) (s := { s with pw := { s.pw with ckLock := true, ckSel := !s.pw.ckSel, ckRtn := false } }) hh
    rw [hl]
    exact ⟨rfl, rfl, rfl, rfl, rfl, rfl, List.getLast?_concat⟩
  · have he : exec .substepApply s = .next (takeHeld (applyLevel c s)) := by
      refine congrArg Host.Outcome.next ?_
      rw [hc]
      exact if_pos (by simp [hr, hp])
    obtain ⟨hs, hd, hk⟩ := applied_level c s
    refine ⟨_, he, hs, hd, hk, fun hh => ?_⟩
    obtain ⟨l, hl⟩ := applied_alone (c := c) hh
    rw [hl]
    exact ⟨rfl, rfl, rfl, rfl, List.getLast?_concat⟩
  · have he : exec .lockTimeout s = .next (takeHeld (commandError
        (ackCommand (cmdSeq c) true { s with pw := { s.pw with ckRtn := false, cmd := none, phase := 0 } }))) := by
      refine congrArg Host.Outcome.next ?_
      rw [hc]
      exact if_pos (by simp [hr, hp, hn])
    obtain ⟨l, hl⟩ := ackCommand_pw (cmdSeq c) true { s with pw := { s.pw with ckRtn := false, cmd := none, phase := 0 } }
    have hpw := (commandError_pw _).trans hl
    rw [takeHeld_none (by rw [hpw]; exact hh)] at he
    refine ⟨_, he, ?_⟩
    rw [hpw]
    refine ⟨rfl, rfl, rfl, rfl, rfl, List.getLast?_concat, commandError_cmderr _, commandError_pends _, ?_⟩
    exact (Within.of_only (t := ackCommand (cmdSeq c) true { s with pw := { s.pw with ckRtn := false, cmd := none, phase := 0 } })
      (ps := [.pw]) (Only.trans (by simp [Only.mk_iff, Only.refl]) (ackCommand_only _ _ _)) (by decide)).trans (commandError_within _)
  · have he : exec .clockLockFall s = .next (match s.pw.cmd with
        | some c => if !inReset s && s.pw.phase == 1 then retune (cmdStep c) { s with pw := { s.pw with ckLock := false } }
          else { s with pw := { s.pw with ckLock := false } }
        | none => { s with pw := { s.pw with ckLock := false } }) := congrArg Host.Outcome.next (if_pos (by simp [hl, hrt]))
    cases hc : s.pw.cmd with
    | none =>
      rw [hc] at he
      exact ⟨_, he, by simp [Only.mk_iff, Only.refl], rfl, rfl⟩
    | some c =>
      rw [hc] at he
      dsimp only at he
      rw [retune_unlocked (s := { s with pw := { s.pw with ckLock := false } }) rfl] at he
      refine ⟨_, he, ?_⟩
      split
      next h => exact ⟨by simp [Only.mk_iff, Only.refl], rfl, (if_pos (by simpa using h)).symm⟩
      next h => exact ⟨by simp [Only.mk_iff, Only.refl], rfl, (if_neg (by simpa using h)).symm⟩

end Sys2Proof.Machine
end

section
/-!
PROOFS. Charge, its calibration and the messages to the power controller (R339 to R355).
-/
namespace Sys2Proof.Machine

/-! The windows of a rail -/

theorem settle_w1 {r : Rail} {x : Nat} {xs : List Nat} (h : r.w1 = x :: xs) : r.settle.w1 = (x + r.now * r.gain) :: xs := by
  unfold Rail.settle
  rw [h]
  rfl

theorem settle_w16 {r : Rail} {x : Nat} {xs : List Nat} (h : r.w16 = x :: xs) : r.settle.w16 = (x + r.now * r.gain) :: xs := by
  unfold Rail.settle
  rw [h]
  rfl

/-- A sub-window boundary moves the window of 1 µs on. -/
theorem slide_w1 {lim1 lim16 : Nat} {r : Rail} {x : Nat} {xs : List Nat} (h : r.w1 = x :: xs) :
    (r.slide lim1 lim16).w1 = 0 :: (x + r.now * r.gain) :: xs.take 6 := by
  unfold Rail.slide
  dsimp only
  rw [settle_w1 h]
  rfl

/-- A gain clamped to 0x3000 to 0x5000. -/
theorem clampGain_eq (g : Nat) : clampGain g = max 0x3000 (min 0x5000 g) := by
  unfold clampGain
  split
  · omega
  · split <;> omega

/-- R349: the estimate message, and the windows of 16 µs moved on. -/
def estimated (c1 a1 c16 a16 : Nat) (s : State) : State :=
  { s with pw := { s.pw with
      core := { s.pw.core.settle with w16 := 0 :: s.pw.core.settle.w16.take 15 }
      arr := { s.pw.arr.settle with w16 := 0 :: s.pw.arr.settle.w16.take 15 }
      est := some (BitVec.ofNat 96 (c1 + fld a1 16 + fld c16 32 + fld a16 48 + fld (timeNow s / 1000 % 2 ^ 32) 64)) } }
    |> setReg 0x4014 (BitVec.ofNat 32 (c1 + fld a1 16))
    |> setReg 0x4018 (BitVec.ofNat 32 (c16 + fld a16 16))

theorem execEstimateMessage_running {s : State} (hr : inReset s = false) (h3 : regB s 0x604C 3 = false) :
    exec .estimateMessage s = .next (estimated (meanOf (listGet 0 s.pw.core.settle.w16 0) 1) (meanOf (listGet 0 s.pw.arr.settle.w16 0) 1)
      (meanOf (nsum s.pw.core.settle.w16) 16) (meanOf (nsum s.pw.arr.settle.w16) 16) s) :=
  congrArg Host.Outcome.next (if_neg (by simp [hr, h3]))

/-- R350: the raw charges of an interval that ends. -/
def intervalEnded (s : State) : State :=
  { s with pw := { s.pw with
      core := { s.pw.core.settle with raw := 0 }
      arr := { s.pw.arr.settle with raw := 0 }
      ivls := ⟨timeNow s / 10000000 - 1, s.pw.core.settle.raw, s.pw.arr.settle.raw, false⟩ :: s.pw.ivls.take 1
      missed := s.pw.missed + 1 } }

/-- R351: the third interval without a calibration. -/
def calStale (s : State) : State := raise 47 (orReg 0x4004 0x400 s)

theorem calStale_only (s : State) : Only [.regs, .tr, .dbg] s (calStale s) :=
  ((orReg_only _ _ _).mono (by decide)).trans (raise_only 47 _)

/-- R351: a calibration with its interval, before its clamp. -/
def calibrated (gc ga k : Nat) (i : CalIvl) (s : State) : State :=
  { s with pw := { s.pw with
      core := { s.pw.core with gainNext := some (clampGain gc) }
      arr := { s.pw.arr with gainNext := some (clampGain ga) }
      ivls := s.pw.ivls.map fun j => if j.k == i.k then { j with used := true } else j
      missed := 0 } }
    |> setReg 0x401C (BitVec.ofNat 32 k)
    |> clrReg 0x4004 0x400

/-- R351: a clamp is reported. -/
def gainClamped (s : State) : State := raise 44 (orReg 0x4004 0x1000 s)

theorem gainClamped_only (s : State) : Only [.regs, .tr, .dbg] s (gainClamped s) :=
  ((orReg_only _ _ _).mono (by decide)).trans (raise_only 44 _)

theorem gainClamped_calstale (c : Bool) (s : State) : regB (when c gainClamped s) 0x4004 10 = regB s 0x4004 10 := by
  unfold Machine.when gainClamped
  split
  · rw [regB_eq_of_reg raise_reg]
    exact (regB_orReg_bit (i := 12) (by decide) 10).trans (Bool.or_false _)
  · rfl

theorem execCalibration_takes {msg : BitVec 64} {s : State} (hr : inReset s = false) {i : CalIvl}
    (hi : s.pw.ivls.find? (fun i => i.k % 2 ^ 32 == bits msg.toNat 31 0 && !i.used && i.core != 0 && i.arr != 0) = some i) :
    exec (.calibration msg) s = .next (when (clampGain (gainOf (bits msg.toNat 47 32) i.core) != gainOf (bits msg.toNat 47 32) i.core
        || clampGain (gainOf (bits msg.toNat 63 48) i.arr) != gainOf (bits msg.toNat 63 48) i.arr) gainClamped
      (calibrated (gainOf (bits msg.toNat 47 32) i.core) (gainOf (bits msg.toNat 63 48) i.arr) (bits msg.toNat 31 0) i s)) := by
  refine congrArg Host.Outcome.next ((if_neg (by simp [hr])).trans ?_)
  dsimp only
  rw [hi]
  rfl

theorem execCalibration_discards {msg : BitVec 64} {s : State} (hr : inReset s = false)
    (hi : s.pw.ivls.find? (fun i => i.k % 2 ^ 32 == bits msg.toNat 31 0 && !i.used && i.core != 0 && i.arr != 0) = none) :
    exec (.calibration msg) s = .next (commandError s) := by
  refine congrArg Host.Outcome.next ((if_neg (by simp [hr])).trans ?_)
  dsimp only
  rw [hi]

/-- A calibration of a kept interval that has not been calibrated. -/
theorem execCalibration_pw {c : Bool} {gc ga k : Nat} {i : CalIvl} (s : State) :
    (when c gainClamped (calibrated gc ga k i s)).pw = { s.pw with
      core := { s.pw.core with gainNext := some (max 0x3000 (min 0x5000 gc)) }
      arr := { s.pw.arr with gainNext := some (max 0x3000 (min 0x5000 ga)) }
      ivls := s.pw.ivls.map fun j => if j.k = i.k then { j with used := true } else j
      missed := 0 } := by
  refine (Only.when gainClamped_only _ _ .pw (by decide)).trans ?_
  unfold calibrated
  simp only [clrReg_pw, setReg_pw, clampGain_eq, beq_iff_eq]

theorem calibrated_status {gc ga k : Nat} {i : CalIvl} (s : State) :
    regB (calibrated gc ga k i s) 0x4004 10 = false ∧ reg (calibrated gc ga k i s) 0x401C = BitVec.ofNat 32 k := by
  unfold calibrated
  refine ⟨?_, by rw [reg_clrReg_ne (by decide), reg_setReg_self]⟩
  rw [regB, reg_clrReg_self, bit_toNat, BitVec.getLsbD_and]
  exact Bool.and_false _

/-- Settles O45. -/
theorem chargeIsEstimatedAndCalibrated : Obligations.ChargeIsEstimatedAndCalibrated := by
  unfold Obligations.ChargeIsEstimatedAndCalibrated
  intro s hr
  have hrun : ∀ {α : Type} {x y : α}, regB s 0x604C 3 = false → (if (inReset s || regB s 0x604C 3) = true then x else y) = y :=
    fun h3 => if_neg (by simp [hr, h3])
  refine ⟨fun h3 => ?_, fun h3 => ?_, fun x xs y ys h3 hx hy => ?_, fun h3 => ?_, fun msg => ?_, fun h3 => ?_, ?_, ?_, fun ho => ?_⟩
  · have hst : ∀ {α : Type} {x y : α}, (if (inReset s || regB s 0x604C 3) = true then x else y) = x := if_pos (by simp [h3])
    exact ⟨congrArg Host.Outcome.next hst, congrArg Host.Outcome.next hst, congrArg Host.Outcome.next hst, congrArg Host.Outcome.next hst⟩
  · have he : exec .subwindowBoundary s = .next (setReg 0x4010
        (BitVec.ofNat 32 ((s.pw.core.slide (regF s 0x4008 15 0) (regF s 0x4008 31 16)).gain
          + fld (s.pw.arr.slide (regF s 0x400C 15 0) (regF s 0x400C 31 16)).gain 16))
        { s with pw := { s.pw with core := s.pw.core.slide (regF s 0x4008 15 0) (regF s 0x4008 31 16)
                                   arr := s.pw.arr.slide (regF s 0x400C 15 0) (regF s 0x400C 31 16) } }) :=
      congrArg Host.Outcome.next (hrun h3)
    refine ⟨_, he, ?_, execSubwindowBoundary_within s _ he, ?_⟩
    · exact (exec_only he).mono (by decide)
    · rw [setReg_pw]
      exact ⟨rfl, rfl, rfl, rfl, rfl, rfl, rfl, rfl, fun x xs h => slide_w1 h, fun x xs h => slide_w1 h, reg_setReg_self _ _ _⟩
  · have he := execEstimateMessage_running hr h3
    rw [settle_w16 hx, settle_w16 hy] at he
    refine ⟨_, he, (exec_only he).mono (by decide), execEstimateMessage_within s _ he, ?_⟩
    unfold estimated
    rw [setReg_pw, setReg_pw, settle_w16 hx, settle_w16 hy]
    refine ⟨?_, reg_setReg_self _ _ _, rfl, rfl, rfl⟩
    rw [reg_setReg_ne (by decide), reg_setReg_self]
    rfl
  · have he : exec .calIntervalEnd s = .next (when (s.pw.missed == 2) calStale (intervalEnded s)) := congrArg Host.Outcome.next (hrun h3)
    refine ⟨_, he, (exec_only he).mono (by decide), ?_⟩
    have hpw : (when (s.pw.missed == 2) calStale (intervalEnded s)).pw = (intervalEnded s).pw := Only.when calStale_only _ _ .pw (by decide)
    rw [hpw]
    refine ⟨rfl, rfl, rfl, rfl, fun h2 => ?_, fun h2 => ?_⟩
    · rw [Machine.when, if_pos (by simp [h2])]
      exact ⟨raise_keep (orReg_bit (i := 10) (by decide)), raise_sets 47 _⟩
    · rw [Machine.when, if_neg (by simp [h2])]
      rfl
  · intro k
    split
    next i hi =>
      have he := execCalibration_takes hr hi
      obtain ⟨hb, hk⟩ := calibrated_status (gc := gainOf (bits msg.toNat 47 32) i.core) (ga := gainOf (bits msg.toNat 63 48) i.arr)
        (k := bits msg.toNat 31 0) (i := i) s
      have hgc : ∀ g, g < 0x3000 ∨ 0x5000 < g → clampGain g ≠ g := fun g h => by
        rw [clampGain_eq]
        omega
      refine ⟨_, he, (exec_only he).mono rfl, execCalibration_pw s, ?_, ?_, fun h => ?_⟩
      · rw [reg_when_keep, hk]
        exact (raise_reg rfl).trans (reg_orReg_ne (by decide))
      · rw [gainClamped_calstale, hb]
      · rw [Machine.when, if_pos]
        · exact ⟨raise_keep (orReg_bit (i := 12) (by decide)), raise_sets 44 _⟩
        · rw [Bool.or_eq_true, bne_iff_ne, bne_iff_ne]
          obtain h | h | h | h := h
          · exact .inl (hgc _ (.inl h))
          · exact .inl (hgc _ (.inr h))
          · exact .inr (hgc _ (.inl h))
          · exact .inr (hgc _ (.inr h))
    next hi =>
      exact ⟨_, execCalibration_discards hr hi, commandError_pw s, commandError_cmderr s, commandError_pends s, commandError_within s⟩
  · refine ⟨_, congrArg Host.Outcome.next (hrun h3), ?_⟩
    split
    next h o hh hx =>
      refine ⟨by simp [Only.mk_iff, Only.refl], rfl, ?_⟩
      rw [hh, hx]
      rfl
    next h hh hx =>
      refine ⟨by simp [Only.mk_iff, Only.refl], rfl, ?_⟩
      rw [hh, hx]
    next hh hx =>
      refine ⟨by simp [Only.mk_iff, Only.refl], hh, ?_⟩
      rw [hh]
    next hh hx =>
      refine ⟨Only.refl _ _, hh, ?_⟩
      rw [hh]
  · exact ⟨_, congrArg Host.Outcome.next (if_neg (by simp [hr])), rfl⟩
  · exact ⟨_, congrArg Host.Outcome.next (if_neg (by simp [hr])), rfl⟩
  · have he : exec (.pcMessageTaken .hint) s = .next (bump 0x59E0 1 { s with pw := { s.pw with hintOut := none, hintAge := 0 } }) :=
      congrArg Host.Outcome.next ((if_neg (by simp [hr])).trans (if_pos (Option.isSome_iff_ne_none.mpr ho)))
    refine ⟨_, he, (exec_only he).mono (by decide), ?_, ?_⟩
    · rw [bump_pw]
    · rw [cnt_bump, if_pos rfl]
      rfl

end Sys2Proof.Machine
end

section
/-!
PROOFS. The sealing keys and sessions (R401 to R403).
-/
namespace Sys2Proof.Machine

/-- A lane's binding depends on the registers below 0x4880 alone. -/
theorem sealBind_of_regs {l : Nat} {s t : State} (hl : l < 4) (h : ∀ o, o < 0x4880 → reg t o = reg s o) : sealBind t l = sealBind s l := by
  have ha : ∀ o w i, o + 4 * (i / (32 / w)) < 0x4880 → regArr t o w i = regArr s o w i := fun o w i hi => by unfold regArr; rw [h _ hi]
  unfold sealBind rlBind wlBind
  rw [ha _ _ _ (by omega), ha _ _ _ (by omega)]

/-- The session that arming lane `l` starts. -/
def sealArmed (l nfm1 : Nat) (q : BitVec 64) (s : State) : Seal :=
  ⟨1, nfm1, 0, sealBind s l % 8, q, NMap.get 0 s.pr.key (sealBind s l % 8), 0, (sealAt s l).fail⟩

theorem armSeal_seal {l nfm1 : Nat} {s : State} (hl : l < 2) {q : BitVec 64} (hq : q = NMap.get 0 s.pr.seq (sealBind s l % 8)) :
    armSeal l nfm1 s = setSeal l (sealArmed l nfm1 q s)
      (setReg (0x4888 + 32 * l) (BitVec.ofNat 32 q.toNat) { s with pr := { s.pr with seq := NMap.set 0 s.pr.seq (sealBind s l % 8) (q + 1) } }
        |> setReg (0x488C + 32 * l) (BitVec.ofNat 32 (q.toNat >>> 32))) := by
  subst hq
  unfold armSeal
  rw [if_pos hl, Nat.mod_eq_of_lt (a := l) (b := 4) (by omega)]
  rfl

theorem armSeal_unseal {l nfm1 : Nat} {s : State} (hl : 2 ≤ l) : armSeal l nfm1 s = setSeal l (sealArmed l nfm1
    (BitVec.ofNat 64 ((reg s (0x4880 + 32 * l + 8)).toNat + 2 ^ 32 * (reg s (0x4880 + 32 * l + 12)).toNat)) s) s := if_neg (by omega)

theorem writeSealCfg_stores {l : Nat} {w : Word} {s : State} (hl : l < 4) (hw : w.getLsbD 16 = false) :
    writeSealCfg l w s = setReg (0x4880 + 32 * l) (w &&& 0xFFFF) s := by
  unfold writeSealCfg
  rw [if_neg (by rw [bit_toNat, hw]; simp), Nat.mod_eq_of_lt hl]

theorem writeSealCfg_ignored {l : Nat} {w : Word} {s : State} (hw : w.getLsbD 16 = true) (h0 : (sealAt s l).st ≠ 0) (h3 : (sealAt s l).st ≠ 3) :
    writeSealCfg l w s = orReg 0x4814 0x400 s := by
  unfold writeSealCfg
  rw [if_pos (by rw [bit_toNat, hw]), if_neg (not_or.mpr ⟨h0, h3⟩)]

theorem writeSealCfg_arms {l : Nat} {w : Word} {s : State} (hl : l < 4) (hw : w.getLsbD 16 = true) (h : (sealAt s l).st = 0 ∨ (sealAt s l).st = 3) :
    writeSealCfg l w s = armSeal l (bits w.toNat 15 0) (setReg (0x4880 + 32 * l) (w &&& 0xFFFF) s) := by
  unfold writeSealCfg
  rw [if_pos (by rw [bit_toNat, hw]), if_pos h, Nat.mod_eq_of_lt hl]

/-- What an armed session holds does not depend on its configuration register. -/
theorem sealArmed_setReg {l nfm1 : Nat} {q : BitVec 64} {w : Word} {s : State} (hl : l < 4) :
    sealArmed l nfm1 q (setReg (0x4880 + 32 * l) w s) = sealArmed l nfm1 q s := by
  have hb : sealBind (setReg (0x4880 + 32 * l) w s) l = sealBind s l := sealBind_of_regs hl fun o ho => reg_setReg_ne (by omega) _ _
  unfold sealArmed sealAt
  rw [hb, setReg_pr]

theorem reg_setSeal (l : Nat) (x : Seal) (s : State) (o : Nat) : reg (setSeal l x s) o = reg s o := rfl

/-- A session of a seal lane that is armed (R402): it takes its context's SEQ, which counts. -/
theorem writeSealCfg_seals {l : Nat} {w : Word} {s : State} {q : BitVec 64} (hl : l < 2) (hw : w.getLsbD 16 = true)
    (h : (sealAt s l).st = 0 ∨ (sealAt s l).st = 3) (hq : q = NMap.get 0 s.pr.seq (sealBind s l % 8)) :
    writeSealCfg l w s = setSeal l (sealArmed l (bits w.toNat 15 0) q s)
      (setReg (0x4880 + 32 * l + 12) (q.extractLsb' 32 32) (setReg (0x4880 + 32 * l + 8) (q.extractLsb' 0 32)
        { setReg (0x4880 + 32 * l) (w &&& 0xFFFF) s with pr := { s.pr with seq := NMap.set 0 s.pr.seq (sealBind s l % 8) (q + 1) } })) := by
  have hb : sealBind (setReg (0x4880 + 32 * l) (w &&& 0xFFFF) s) l = sealBind s l :=
    sealBind_of_regs (by omega) fun p hp => reg_setReg_ne (by omega) _ _
  have h0 : BitVec.ofNat 32 q.toNat = q.extractLsb' 0 32 := rfl
  have h1 : BitVec.ofNat 32 (q.toNat >>> 32) = q.extractLsb' 32 32 := rfl
  rw [writeSealCfg_arms (by omega) hw h, armSeal_seal hl (q := q) (by rw [hb, setReg_pr, hq]), sealArmed_setReg (by omega), hb, setReg_pr, h0, h1,
    show 0x4888 + 32 * l = 0x4880 + 32 * l + 8 by omega, show 0x488C + 32 * l = 0x4880 + 32 * l + 12 by omega]

/-- A session of an unseal lane that is armed: it takes the SEQ of its registers. -/
theorem writeSealCfg_unseals {l : Nat} {w : Word} {s : State} {q : BitVec 64} (hl2 : 2 ≤ l) (hl : l < 4) (hw : w.getLsbD 16 = true)
    (h : (sealAt s l).st = 0 ∨ (sealAt s l).st = 3)
    (hq : q = BitVec.ofNat 64 ((reg s (0x4880 + 32 * l + 8)).toNat + 2 ^ 32 * (reg s (0x4880 + 32 * l + 12)).toNat)) :
    writeSealCfg l w s = setSeal l (sealArmed l (bits w.toNat 15 0) q s) (setReg (0x4880 + 32 * l) (w &&& 0xFFFF) s) := by
  rw [writeSealCfg_arms hl hw h, armSeal_unseal hl2, reg_setReg_ne (by omega), reg_setReg_ne (by omega), ← hq, sealArmed_setReg hl]

/-- Settles O51. -/
theorem sealSessionsAreKeyedAndArmed : Obligations.SealSessionsAreKeyedAndArmed := by
  unfold Obligations.SealSessionsAreKeyedAndArmed
  refine ⟨fun a ctx s ha => ?_, fun a l w s => ?_, fun l s hrun h1 => ?_⟩
  · exact exists_write ha ⟨⟨rfl, rfl⟩, (show Only [.free, .pr] s (rekeyCtx ctx.toNat s) by
      simp [rekeyCtx, drawFree, Only.mk_iff, Only.refl]).respond _ _ (by decide), rfl, fun k => NMap.get_set (0 : BitVec 256) _ _ _ k,
      fun k => NMap.get_set (0 : BitVec 64) s.pr.seq 0 ctx.toNat k⟩
  · intro o ha
    have hl : l.toNat < 4 := l.isLt
    obtain ⟨t, ht, hans, ho, hin, hreg⟩ := written ha (writeSealCfg l.toNat w)
    refine ⟨fun hw => ⟨t, ht, hans, ?_⟩, fun hw h0 h3 => ⟨t, ht, hans, ?_⟩, fun hw h => ?_⟩
    · rw [writeSealCfg_stores hl hw] at ho hin hreg
      exact ⟨((setReg_only _ _ _).mono (by decide)).trans (ho.mono (by decide)), (setReg_within _ _ _).trans (hin.mono rfl),
        (hreg _).trans (reg_setReg_self _ _ _)⟩
    · rw [writeSealCfg_ignored hw h0 h3] at ho hin hreg
      exact ⟨((orReg_only _ _ _).mono (by decide)).trans (ho.mono (by decide)), (orReg_within _ _ _).trans (hin.mono (by decide)),
        (hreg _).trans (reg_setReg_self _ _ _)⟩
    · intro c q
      have hk := writeSealCfg_arms hl hw h
      have hpr := ho .pr (by decide)
      have hat : ∀ k, sealAt t k = sealAt (writeSealCfg l.toNat w s) k := fun k => by unfold sealAt; rw [hpr]
      refine ⟨t, ht, hans, ((writeSealCfg_only _ _ _).mono (by decide)).trans (ho.mono (by decide)), ?_⟩
      by_cases h2 : l.toNat < 2
      · have hk := writeSealCfg_seals h2 hw h (q := q) (if_pos h2)
        rw [hk] at hpr hin hreg
        have hs : ∀ p, (p = o ∨ p = o + 8 ∨ p = o + 12) → spansIn [⟨p, 0, 1⟩] [⟨o, 0, 1⟩, ⟨o + 8, 4, 2⟩] = true := fun p h => by
          simp [spansIn, Span.inside]
          omega
        have hw2 : Within [⟨o, 0, 1⟩, ⟨o + 8, 4, 2⟩] s (writeSealCfg l.toNat w s) := by
          rw [hk]
          refine Within.trans (Within.trans ?_
            ((setReg_within (o + 8) _ _).mono (hs _ (.inr (.inl rfl))))) ((setReg_within (o + 12) _ _).mono (hs _ (.inr (.inr rfl))))
          exact (setReg_within o (w &&& 0xFFFF) s).mono (hs _ (.inl rfl))
        rw [hk] at hw2
        refine ⟨?_, ?_, fun k => ?_, fun _ => ⟨?_, ?_, ?_, fun k => ?_⟩, fun h => absurd h (by omega)⟩
        · rw [hreg, reg_setSeal, reg_setReg_ne (by omega), reg_setReg_ne (by omega)]
          exact reg_setReg_self _ _ _
        · rw [hpr]
          rfl
        · rw [hat, hk, sealAt_setSeal]
          rfl
        · exact hw2.trans (hin.mono rfl)
        · rw [hreg, reg_setSeal, reg_setReg_ne (by omega), reg_setReg_self]
        · rw [hreg, reg_setSeal, reg_setReg_self]
        · rw [hpr]
          exact NMap.get_set (0 : BitVec 64) _ _ _ k
      · have hk := writeSealCfg_unseals (by omega) hl hw h (q := q) (if_neg h2)
        rw [hk] at hpr hin hreg
        refine ⟨?_, ?_, fun k => ?_, fun h => absurd h h2, fun _ => ⟨?_, ?_⟩⟩
        · rw [hreg, reg_setSeal, reg_setReg_self]
        · rw [hpr]
          rfl
        · rw [hat, hk, sealAt_setSeal]
          unfold sealAt
          rw [setReg_pr]
          rfl
        · exact (((setReg_within _ _ _).trans (setSeal_within _ _ _ |>.mono rfl))).trans (hin.mono rfl)
        · rw [hpr]
          rfl
  · refine ⟨_, congrArg Host.Outcome.next (if_pos (by simp [hrun, h1])), setSeal_only _ _ _, rfl, fun k => sealAt_setSeal _ _ _ _⟩

end Sys2Proof.Machine
end

section
/-!
PROOFS. The queues: what a queue's update, its head's settling and its commands leave (R278 to R283).
-/
namespace Sys2Proof.Machine

/-- An accepted write of an item of the writer's. -/
theorem writtenFor {a : BusAcc} {o : Nat} {s : State} {mine : State → Bool} (ha : accepts a true o s) (hm : mine s = true) (act : State → State) :
    ∃ t, (Host.Outcome.next (busWriteFor a o mine act s) : Host.Outcome State Fault Refusal) = .next t ∧ answered 0 t ∧ Only [.bus] (act s) t
      ∧ Within [] (act s) t ∧ ∀ o, reg t o = reg (act s) o := by
  rw [busWriteFor_mine hm]
  exact written ha act

/-! Queues -/

theorem queueOf_updQueue_self (q : Nat) (f : SlipQ → SlipQ) (s : State) : queueOf (updQueue q f s) q = f (queueOf s q) := by
  rw [queueOf_updQueue, if_pos rfl]

theorem queueOf_updQueue_ne {q k : Nat} (h : k ≠ q) (f : SlipQ → SlipQ) (s : State) : queueOf (updQueue q f s) k = queueOf s k := by
  rw [queueOf_updQueue, if_neg h]

/-- R279: the report of a malformed head: all but the queue's stop. -/
theorem settleHead_sq (q : Nat) (s : State) : (settleHead q s).sq = s.sq
    ∨ ∃ r, (queueOf s q).stop = 0 ∧ (settleHead q s).sq = (updQueue q (fun y => { y with stop := 4, refused := r }) s).sq := by
  unfold settleHead
  dsimp only
  split
  · split
    next h => exact .inr ⟨_, h.2.1, by rw [raise_sq, slipLog_sq, bump_sq]⟩
    · exact .inl rfl
  · exact .inl rfl

/-- Settling a head keeps the queues but for the stop of this one. -/
theorem settleHead_keeps (q : Nat) (s : State) : (∀ k, k ≠ q → queueOf (settleHead q s) k = queueOf s k)
    ∧ (settleHead q s).sq.live = s.sq.live ∧ (settleHead q s).sq.nextSid = s.sq.nextSid
    ∧ ∃ st r, queueOf (settleHead q s) q = { queueOf s q with stop := st, refused := r }
        ∧ (st = (queueOf s q).stop ∨ (queueOf s q).stop = 0 ∧ st = 4) := by
  obtain h | ⟨r, h0, h⟩ := settleHead_sq q s
  · exact ⟨fun k _ => queueOf_of_sq h k, by rw [h], by rw [h], _, _, queueOf_of_sq h q, .inl rfl⟩
  · refine ⟨fun k hk => (queueOf_of_sq h k).trans (queueOf_updQueue_ne hk _ _), by rw [h]; rfl, by rw [h]; rfl, 4, r, ?_, .inr ⟨h0, rfl⟩⟩
    exact (queueOf_of_sq h q).trans (queueOf_updQueue_self _ _ _)

/-! Queue commands -/

theorem resumeQueue_stopped {q : Nat} {s : State} (h : sqState s q = 4) :
    resumeQueue q s = updQueue q (fun x => { x with stop := 0 }) (forgetDecode q s) := if_pos h

theorem resumeQueue_paused {q : Nat} {s : State} (h : sqState s q = 3 ∨ sqState s q = 5) :
    resumeQueue q s = settleHead q (updQueue q (fun x => { x with stop := 0, pause := false }) s) :=
  (if_neg (by omega)).trans (if_pos h)

/-- Settling after an update of the same queue keeps the others. -/
theorem settleHead_updQueue_ne {q k : Nat} (h : k ≠ q) (f : SlipQ → SlipQ) (s : State) :
    queueOf (settleHead q (updQueue q f s)) k = queueOf s k :=
  ((settleHead_keeps q _).1 k h).trans (queueOf_updQueue_ne h f s)

theorem resumeQueue_others {q k : Nat} (h : k ≠ q) (s : State) : queueOf (resumeQueue q s) k = queueOf s k := by
  unfold resumeQueue forgetDecode
  dsimp only
  split
  · rw [queueOf_updQueue_ne h, queueOf_updQueue_ne h]
  · split
    · exact settleHead_updQueue_ne h _ _
    · rfl

theorem skipQueue_others {q k : Nat} (h : k ≠ q) (s : State) : queueOf (skipQueue q s) k = queueOf s k := by
  unfold skipQueue
  dsimp only
  split
  · exact settleHead_updQueue_ne h _ _
  · split
    · exact resumeQueue_others h s
    · rfl

/-- R283: whether the executing slip of a queue is a WAIT or FENCE, which a FLUSH ends. -/
def gateRuns (s : State) (q : Nat) : Bool := match running? s q with | some y => isGate y.words | none => false

/-- What a FLUSH makes of a queue (R283). -/
def flushed (gate : Bool) (x : SlipQ) : SlipQ :=
  { x with
    ents := if gate || x.run == 0 then [] else x.ents.take 1
    run := if gate then 0 else x.run
    stop := 0, pause := false, ford := false, fleft := 0, stale := x.stale + x.fleft }

/-- The started slips that a FLUSH leaves. -/
def gateEnded (q : Nat) (s : State) : State :=
  if gateRuns s q then { s with sq := { s.sq with live := s.sq.live.filter fun y => y.sid + 1 != (queueOf s q).run } } else s

theorem flushQueue_eq {q : Nat} (hq : q < 64) (s : State) : flushQueue q s =
    when (sqFetch (gateEnded q s) q) (fun u => setRegF (0x310C + 16 * q) 31 16 (regF u (0x310C + 16 * q) 15 0) u) (updQueue q (flushed (gateRuns s q)) (gateEnded q s)) := by
  unfold flushQueue
  rw [Nat.mod_eq_of_lt hq]
  rfl

theorem gateEnded_only (q : Nat) (s : State) : Only [.sq] s (gateEnded q s) := by
  unfold gateEnded
  split
  · simp [Only.mk_iff, Only.refl]
  · exact Only.refl _ _

theorem sqFetch_gateEnded (q : Nat) (s : State) : sqFetch (gateEnded q s) q = sqFetch s q := by
  unfold sqFetch regB reg
  rw [gateEnded_only q s .regs (by decide)]

theorem queueOf_gateEnded (q k : Nat) (s : State) : queueOf (gateEnded q s) k = queueOf s k := by
  unfold gateEnded
  split <;> rfl

/-- The registers and queues that a FLUSH leaves. -/
theorem flushQueue_leaves {q : Nat} (hq : q < 64) (s : State) : Within [⟨0x310C + 16 * q, 0, 1⟩] s (flushQueue q s)
    ∧ (∀ k, queueOf (flushQueue q s) k = if k = q then flushed (gateRuns s q) (queueOf s q) else queueOf s k)
    ∧ (sqFetch s q = true → regF (flushQueue q s) (0x310C + 16 * q) 31 16 = regF s (0x310C + 16 * q) 15 0) := by
  have hu : Only [.sq] s (updQueue q (flushed (gateRuns s q)) (gateEnded q s)) := (gateEnded_only q s).trans (updQueue_only _ _ _)
  have hf := fun c u => Within.when (fun u => setRegF_within (0x310C + 16 * q) 31 16 (regF u (0x310C + 16 * q) 15 0) u) c u
  have ho := fun c u => Only.when (fun u => setRegF_only (0x310C + 16 * q) 31 16 (regF u (0x310C + 16 * q) 15 0) u) c u
  have hr : ∀ o, reg (updQueue q (flushed (gateRuns s q)) (gateEnded q s)) o = reg s o := fun o => by
    unfold reg
    rw [hu .regs (by decide)]
  rw [flushQueue_eq hq, sqFetch_gateEnded]
  refine ⟨(Within.of_only hu (by decide)).trans (hf _ _), fun k => ?_, fun h => ?_⟩
  · rw [queueOf_of_sq (ho _ _ .sq (by decide)), queueOf_updQueue, queueOf_gateEnded, queueOf_gateEnded]
  · rw [Machine.when, if_pos h, regF_setRegF (by decide), regF, hr, Nat.mod_eq_of_lt]
    · rfl
    · exact Nat.mod_lt _ (by decide)

/-- What a FLUSH discards, by the executing slip. -/
theorem flushed_ents (s : State) (q : Nat) : (flushed (gateRuns s q) (queueOf s q)).ents = match running? s q with
    | some y => if isGate y.words = true then [] else (queueOf s q).ents.take 1
    | none => if (queueOf s q).run = 0 then [] else (queueOf s q).ents.take 1 := by
  unfold flushed gateRuns
  dsimp only
  cases h : running? s q with
  | none => simp
  | some y =>
    have hr : (queueOf s q).run ≠ 0 := fun h0 => by
      unfold running? at h
      rw [if_pos h0] at h
      exact absurd h (by simp)
    simp [hr]

theorem queueOf_pauseQueue (q k : Nat) (s : State) : queueOf (pauseQueue q s) k =
    if k = q then (if sqState s q ≤ 2 then { queueOf s q with pause := true } else queueOf s q) else queueOf s k := by
  unfold pauseQueue
  split
  · exact queueOf_updQueue _ _ _ _
  · split
    next h => rw [h]
    · rfl

theorem skipQueue_stopped {q : Nat} {s : State} (h : sqState s q = 4) :
    skipQueue q s = settleHead q (updQueue q (fun x => { x with stop := 0, ents := x.ents.drop 1 }) s) := if_pos h

/-- R289: an executing slip without progress for its limit, once. -/
theorem execWatchdogExpiry_due {q : BitVec 6} {s : State} {x : Slip} {n : Nat} (hr : running s = true) (hx : running? s q.toNat = some x)
    (hn : watchLimit s x = some n) (hq : n ≤ (queueOf s q.toNat).quiet) (hw : (queueOf s q.toNat).wdog = false) :
    exec (.watchdogExpiry q) s = .next (updQueue q.toNat (fun y => { y with wdog := true }) s
      |> slipLog 2 q.toNat (queueOf s q.toNat).stall x.words x.ent |> bump (0x57A0 + 0x40 * (sCtx x.words % 8)) 1 |> raise 26
      |> when (regB s 0x6910 0) (captureHang 1 q.toNat)) := by
  refine congrArg Host.Outcome.next ?_
  dsimp only
  rw [hx]
  dsimp only
  rw [hn]
  exact if_neg (by simp [hr, hw, hq])

/-- Settles O34. -/
theorem queueCommandsActByState : Obligations.QueueCommandsActByState := by
  unfold Obligations.QueueCommandsActByState
  refine ⟨fun a q s ha hm => ⟨?_, ?_, ?_, ?_⟩, fun q s x n hr hx hn hq hw => ?_⟩
  · obtain ⟨t, ht, hans, ho, -, -⟩ := writtenFor ha hm (resumeQueue q.toNat)
    have hk := queueOf_of_sq (ho .sq (by decide))
    refine ⟨t, ht, hans, fun k h => (hk k).trans (resumeQueue_others h s), fun h4 => ?_, fun h35 => ?_⟩
    · rw [hk, resumeQueue_stopped h4, forgetDecode, queueOf_updQueue_self, queueOf_updQueue_self]
      exact ⟨rfl, rfl⟩
    · obtain ⟨-, -, -, st, r, he, hst⟩ := settleHead_keeps q.toNat (updQueue q.toNat (fun x => { x with stop := 0, pause := false }) s)
      rw [queueOf_updQueue_self] at he hst
      rw [hk, resumeQueue_paused h35, he]
      obtain rfl | ⟨-, rfl⟩ := hst
      · exact ⟨rfl, by simp, rfl⟩
      · exact ⟨rfl, by simp, rfl⟩
  · obtain ⟨t, ht, hans, ho, -, -⟩ := writtenFor ha hm (skipQueue q.toNat)
    have hk := queueOf_of_sq (ho .sq (by decide))
    refine ⟨t, ht, hans, fun k h => (hk k).trans (skipQueue_others h s), fun h4 => ?_⟩
    obtain ⟨-, -, -, st, r, he, -⟩ := settleHead_keeps q.toNat (updQueue q.toNat (fun x => { x with stop := 0, ents := x.ents.drop 1 }) s)
    rw [hk, skipQueue_stopped h4, he, queueOf_updQueue_self]
  · obtain ⟨t, ht, hans, ho, hin, hreg⟩ := writtenFor ha hm (flushQueue q.toNat)
    obtain ⟨hw, hqs, hf⟩ := flushQueue_leaves q.isLt s
    have hk := queueOf_of_sq (ho .sq (by decide))
    have hself : queueOf t q.toNat = flushed (gateRuns s q.toNat) (queueOf s q.toNat) := by rw [hk, hqs, if_pos rfl]
    refine ⟨t, ht, hans, fun k h => by rw [hk, hqs, if_neg h], ?_⟩
    rw [hself]
    exact ⟨rfl, rfl, rfl, flushed_ents s _, fun h => (regF_eq_of_reg (hreg _)).trans (hf h), hw.trans (hin.mono rfl)⟩
  · obtain ⟨t, ht, hans, ho, -, -⟩ := writtenFor ha hm (pauseQueue q.toNat)
    have hk := queueOf_of_sq (ho .sq (by decide))
    refine ⟨t, ht, hans, fun k h => ?_, ?_⟩
    · rw [hk, queueOf_pauseQueue, if_neg h]
    · rw [hk, queueOf_pauseQueue, if_pos rfl]
  · have hc : ∀ u : State, Only [.regs, .dbg] u (when (regB s 0x6910 0) (captureHang 1 q.toNat) u) := fun u =>
      Only.when (fun v => captureHang_only 1 q.toNat v) _ u
    have hcw : ∀ u : State, Within [⟨0x6904, 0, 1⟩] u (when (regB s 0x6910 0) (captureHang 1 q.toNat) u) := fun u =>
      Within.when (fun v => captureHang_within 1 q.toNat v) _ u
    refine ⟨_, execWatchdogExpiry_due hr hx hn hq hw, ?_, fun k h => ?_, ?_, ?_, ?_⟩
    · rw [queueOf_of_sq (hc _ .sq (by decide)), queueOf_of_sq (raise_sq _ _), queueOf_of_sq (bump_sq _ _ _), queueOf_of_sq (slipLog_sq _ _ _ _ _ _),
        queueOf_updQueue_self]
    · rw [queueOf_of_sq (hc _ .sq (by decide)), queueOf_of_sq (raise_sq _ _), queueOf_of_sq (bump_sq _ _ _), queueOf_of_sq (slipLog_sq _ _ _ _ _ _),
        queueOf_updQueue_ne h]
    · rw [hc _ .sq (by decide), raise_sq, bump_sq, slipLog_sq]
      rfl
    · rw [hc _ .cnt (by decide), raise_cnt, cnt_bump, if_pos rfl, slipLog_cnt]
      rfl
    · rw [regB_eq_of_reg ((hcw _).reg _ (by decide))]
      exact raise_sets 26 _

end Sys2Proof.Machine
end

section
/-!
PROOFS. Cut-offs, quarantines and share refills (R244 to R248).
-/
namespace Sys2Proof.Machine

/-- A cause writes no register below the trace's. -/
theorem raise_reg_low {n o : Nat} {s : State} (h : o < 0x6000) : reg (raise n s) o = reg s o := by
  refine (raise_within n s).reg o ?_
  rw [Bool.eq_false_iff]
  intro hp
  simp only [List.any_cons, List.any_nil, Span.has, Bool.or_false, Bool.or_eq_true, Bool.and_eq_true, Nat.ble_eq] at hp
  omega

theorem regB_clrReg_bit {o i : Nat} {s : State} (j : Nat) :
    regB (clrReg o (2 ^ i) s) o j = (regB s o j && !decide (j = i)) := by
  rw [regB, reg_clrReg_self, bit_toNat, BitVec.getLsbD_and, BitVec.getLsbD_not, BitVec.getLsbD_ofNat, Nat.testBit_two_pow]
  by_cases h : j < 32
  · simp [h, regB, bit_toNat, eq_comm]
  · simp [regB, bit_toNat, BitVec.getLsbD_of_ge _ _ (Nat.le_of_not_lt h)]

/-! Quarantines -/

theorem endQuarantine_quarantined {req : Nat} {s : State} (hr : req < 174) (h : quarantined s req = true) :
    endQuarantine req s = raise 18 (clrReg (0x28C0 + 4 * (req / 32)) (2 ^ (req % 32))
      { s with arb := { s.arb with hist := s.arb.hist.filter fun h => h.1 != req && h.1 != 1000 + req } }) := by
  unfold endQuarantine
  rw [if_pos h, Nat.mod_eq_of_lt (by omega)]

/-- The end of a quarantine ends no other and begins none. -/
theorem quarantined_endQuarantine {req k : Nat} {s : State} (hr : req < 174) (hk : k < 174) :
    quarantined (endQuarantine req s) k = (quarantined s k && !decide (k = req)) := by
  by_cases h : quarantined s req = true
  · have hu : ∀ i, regB (clrReg (0x28C0 + 4 * (req / 32)) (2 ^ (req % 32))
        { s with arb := { s.arb with hist := s.arb.hist.filter fun h => h.1 != req && h.1 != 1000 + req } }) (0x28C0 + 4 * (k / 32)) i
        = (regB s (0x28C0 + 4 * (k / 32)) i && !(decide (k / 32 = req / 32) && decide (i = req % 32))) := fun i => by
      by_cases hk : k / 32 = req / 32
      · rw [hk, regB_clrReg_bit]
        simp
        rfl
      · rw [regB_eq_of_reg (reg_clrReg_ne (by omega))]
        simp [hk]
        rfl
    have he : (decide (k / 32 = req / 32) && decide (k % 32 = req % 32)) = decide (k = req) := by
      rw [← Bool.decide_and, decide_eq_decide]
      omega
    rw [endQuarantine_quarantined hr h, quarantined, regB_eq_of_reg (raise_reg_low (by omega)), hu, he, quarantined]
  · unfold endQuarantine
    rw [if_neg h]
    by_cases hk : k = req
    · simp [hk, h]
    · simp [hk]

/-- Ending listed quarantines. -/
theorem quarantined_forEach {l : List Nat} {k : Nat} {s : State} (hl : ∀ r ∈ l, r < 174) (hk : k < 174) :
    quarantined (forEach l endQuarantine s) k = (quarantined s k && !decide (k ∈ l)) := by
  induction l generalizing s with
  | nil => simp [forEach]
  | cons r l ih =>
    have h := ih (s := endQuarantine r s) fun x hx => hl x (List.mem_cons_of_mem _ hx)
    rw [forEach, h, quarantined_endQuarantine (hl r (List.mem_cons_self ..)) hk, Bool.and_assoc]
    congr 1
    simp

/-! Share windows -/

/-- The value of each key that a list sets. -/
theorem get_foldl_set (g : Nat → Nat) (l : List Nat) (m : NMap Nat) (k : Nat) :
    NMap.get 0 (l.foldl (fun m r => NMap.set 0 m r (g r)) m) k = if k ∈ l then g k else NMap.get 0 m k := by
  induction l generalizing m with
  | nil => rfl
  | cons r l ih =>
    rw [List.foldl_cons, ih, NMap.get_set]
    by_cases hl : k ∈ l
    · simp [hl]
    · by_cases hk : k = r <;> simp [hl, hk]

/-- R244: a cut-off, joined to the cut-offs and their history; the run restarts. -/
def cutOff (bank k : Nat) (r : Run) (s : State) : State :=
  { s with arb := { s.arb with
      cuts := s.arb.cuts ++ [⟨r.req - 1, bank, 16⟩]
      hist := s.arb.hist ++ [(r.req - 1, s.cyc)]
      runs := NMap.set Run.none s.arb.runs k { r with len := 0, cont := 0 } } }

/-- A cut-off is counted for the clients of its requester, and logged. -/
def cutLogged (bank : Nat) (port : Bool) (r : Run) (s : State) : State :=
  forEach (reqClients s (r.req - 1)) (fun c => bump (0x5618 + 0x20 * (c % 12)) 1) s
    |> fillLog 0x28A0 (fld (b2n (quarDue s (r.req - 1))) 2 + fld (b2n port) 3 + fld bank 4 + fld r.cls 12 + fld (r.req - 1) 16) (min r.len 0xFFFF)

theorem cutLogged_only (bank : Nat) (port : Bool) (r : Run) (s : State) : Only [.regs, .cnt] s (cutLogged bank port r s) :=
  (Only.forEach (fun c u => (bump_only _ 1 u).mono (by decide)) _ _).trans ((fillLog_only _ _ _ _).mono (by decide))

theorem execHoldLimitCutoff_cuts {bank : Nat} {port : Bool} {s : State} {r : Run} (hr : running s = true)
    (hrun : NMap.get Run.none s.arb.runs (2 * pbankOf s bank + b2n port) = r) (h1 : 1 ≤ r.req) (h2 : r.req ≤ 174)
    (h0 : holdLimit s r.cls ≠ 0) (hc : holdLimit s r.cls ≤ r.cont) :
    exec (.holdLimitCutoff bank port) s = .next (raise 16 (cutLogged bank port r (cutOff bank (2 * pbankOf s bank + b2n port) r s))) := by
  refine congrArg Host.Outcome.next ?_
  dsimp only
  rw [hrun]
  refine if_neg ?_
  simp only [hr, Bool.not_true, Bool.false_or, Bool.or_eq_true, beq_iff_eq, decide_eq_true_eq]
  omega

/-- A write of a register and a cause. -/
theorem Within.raised {o : Nat} {s t : State} (h : Within [⟨o, 0, 1⟩] s t) (n : Nat) : Within ([⟨o, 0, 1⟩] ++ eventRegs) s (raise n t) := by
  refine (h.mono (by simp [spansIn, Span.inside])).trans ((raise_within n t).mono ?_)
  simp [spansIn, Span.inside, eventRegs]

/-- Registers and counters do not depend on the arbiters. -/
theorem Within.of_arb {xs : List Span} {s t : State} {x : ArbSt} (h : Within xs { s with arb := x } t) : Within xs s t := h

/-- Settles O27. -/
theorem cutOffsAndQuarantineFollowTheirRules : Obligations.CutOffsAndQuarantineFollowTheirRules := by
  unfold Obligations.CutOffsAndQuarantineFollowTheirRules
  refine ⟨fun bank port s r hr hrun h1 h2 h0 hc => ?_, fun bank req s hr => ?_, fun req s hr hq hd hn => ?_,
    fun req s c hr hq hd h0 hh hc => ?_, fun a w s ha => ?_, fun s hr hm hw => ?_⟩
  · refine ⟨_, execHoldLimitCutoff_cuts hr hrun h1 h2 h0 hc, ?_⟩
    rw [raise_arb, cutLogged_only _ _ _ _ .arb (by decide)]
    exact ⟨rfl, rfl, NMap.get_set_self _ _ _ _, raise_sets 16 _⟩
  · exact ⟨_, congrArg Host.Outcome.next (if_pos hr), rfl⟩
  · have he : exec (.quarantine req) s = .next (raise 17 (orReg (0x28C0 + 4 * (req / 32)) (2 ^ (req % 32))
        { s with arb := { s.arb with hist := s.arb.hist ++ [(1000 + req, s.cyc)] } })) := by
      refine congrArg Host.Outcome.next ((if_pos (by simp [hr, hq, hd, hn])).trans ?_)
      rw [Nat.mod_eq_of_lt (a := req / 32) (by omega)]
    refine ⟨_, he, ?_, raise_sets 17 _, ?_, ?_⟩
    · rw [quarantined, regB_eq_of_reg (raise_reg_low (by omega))]
      exact orReg_bit (Nat.mod_lt _ (by decide))
    · exact (orReg_within _ _ _).of_arb.raised 17
    · rw [raise_arb, orReg_arb]
  · have hqe := endQuarantine_quarantined hq hd
    have he : exec (.quarantineTimeout req) s = .next (endQuarantine req s) := by
      refine congrArg Host.Outcome.next (if_pos ?_)
      rw [hr, Bool.true_and, Bool.and_eq_true, bne_iff_ne, List.any_eq_true]
      exact ⟨h0, _, hh, by simpa using hc⟩
    refine ⟨_, he, ?_, ?_, ?_, ?_⟩
    · rw [quarantined_endQuarantine hq hq]
      simp
    · rw [hqe]
      exact raise_sets 18 _
    · rw [hqe, raise_arb, clrReg_arb]
      intro h hm
      simpa using (List.mem_filter.mp hm).2
    · rw [hqe]
      exact (clrReg_within _ _ _).of_arb.raised 18
  · obtain ⟨t, ht, hans, ho, hin, hreg⟩ := written ha (writeQrel w)
    refine ⟨t, ht, hans, fun req hq hw => ?_⟩
    have hk : quarantined t req = quarantined (writeQrel w s) req := regB_eq_of_reg (hreg _)
    rw [hk, writeQrel]
    split
    next h8 =>
      rw [quarantined_forEach (fun r hr => List.mem_range.mp hr) hq]
      simp [hq]
    next h8 =>
      obtain h | rfl := hw
      · exact absurd h h8
      · rw [quarantined_endQuarantine hq hq]
        simp
  · refine ⟨_, _, congrArg Host.Outcome.next (if_pos (by simp [hr, hm, hw])), rfl, fun r => ?_⟩
    rw [get_foldl_set]
    simp [NMap.get]

end Sys2Proof.Machine
end

section
/-!
PROOFS. A client's own requests (R106 to R109).
-/
namespace Sys2Proof.Machine

/-- The transfer of a client's own request, or the flits of a refused one, stands behind all others. -/
theorem addTr_fr (T : Tr) (s : State) :
    (addTr T s).fr = { s.fr with trs := s.fr.trs ++ [{ T with id := s.fr.nextId }], nextId := s.fr.nextId + 1 } := rfl

/-- The state with other request channels. -/
def withChans (ch : NMap ReqCh) (s : State) : State := { s with fr := { s.fr with ch := ch } }

theorem withChans_only (ch : NMap ReqCh) (s : State) : Only [.fr] s (withChans ch s) := by simp [withChans, Only.mk_iff, Only.refl]

theorem loaded_of_serving {s : State} (h : serving s = true) : loaded s = true := by
  simp only [serving, running, Bool.and_eq_true] at h
  exact h.1.1.1

theorem inReset_of_serving {s : State} (h : serving s = true) : inReset s = false := by
  have h := loaded_of_serving h
  simp only [loaded, Bool.and_eq_true, Bool.not_eq_true'] at h
  exact h.2

/-- The one readable request of a channel of a served block is taken (R112). -/
theorem drainChan_takes {wr : Bool} {lane : Nat} {rq : BitVec 64} {s : State} (hs : serving s = true) (hd : (chan s wr lane).dcq = [rq])
    (h1 : 1 ≤ (chan s wr lane).seen) : ∃ ch, drainChan wr lane s = takeRq wr lane rq.toNat (withChans ch s) := by
  unfold drainChan
  dsimp only
  rw [if_pos hs, hd, List.take_of_length_le (by exact h1)]
  exact ⟨_, rfl⟩

/-- A request that finds its channel empty, of a served block, is taken at once. -/
theorem presentRq_takes {wr : Bool} {lane : Nat} {rq : BitVec 64} {s : State} (hs : serving s = true) (hc : hasChan wr lane = true)
    (hd : (chan s wr lane).dcq = []) : ∃ ch, presentRq wr lane rq s = takeRq wr lane rq.toNat (withChans ch s) := by
  have he : presentRq wr lane rq s = drainChan wr lane (setChan wr lane { chan s wr lane with dcq := [rq], seen := 1 } s) := by
    unfold presentRq
    dsimp only
    rw [if_neg (by simp [inReset_of_serving hs, hc, hd]), hd]
    rfl
  obtain ⟨ch, h⟩ := drainChan_takes (s := setChan wr lane { chan s wr lane with dcq := [rq], seen := 1 } s) hs
    (by rw [chan_setChan]) (Nat.le_of_eq (by rw [chan_setChan]))
  exact ⟨ch, he.trans h⟩

/-- The transfer of an own request (R106, R107). -/
def ownTransfer (wr : Bool) (lane r : Nat) (s : State) : Tr :=
  let c := ownClient wr lane
  let bs := (List.range (rqBeats r)).map fun b => mkBeat s (ownBind s wr lane % 8) (rqVa r) (vaOff (rqVa r) + 128 * b : Nat) (rqOp r != 0)
  let t := { newTr (ownReq wr lane) (if rqOp r = 0 then .rd else if rqOp r = 1 then .wr else .at) 0 (ownBind s wr lane % 8) c with
    beats := bs, view := rqVa r }
  if rqOp r = 0 then { t with rlanes := [lane], cred := bs.length, ready := true }
  else { t with wlane := lane + 1, offs := 8, atop := rqAtop r, rlanes := if rqRet r then [clientRl c + rqRlane r] else [], cred := b2n (rqRet r) }

theorem takeRq_accepts {wr : Bool} {lane r : Nat} {s : State} (h : rqKind s wr lane r = none) (ch : NMap ReqCh) :
    takeRq wr lane r (withChans ch s) = addTr (ownTransfer wr lane r s) (withChans ch s) := by
  unfold takeRq
  rw [show rqKind (withChans ch s) wr lane r = none from h]
  rfl

theorem takeRq_refuses {wr : Bool} {lane r k : Nat} {s : State} (h : rqKind s wr lane r = some k) (ch : NMap ReqCh) :
    takeRq wr lane r (withChans ch s) = refuseRq wr lane r k (withChans ch s) := by
  unfold takeRq
  rw [show rqKind (withChans ch s) wr lane r = some k from h]

/-- An atomic that is not refused has one beat. -/
theorem rqBeats_atomic {wr : Bool} {lane r : Nat} {s : State} (h : rqKind s wr lane r = none) (ho : rqOp r = 2) : rqBeats r = 1 := by
  refine Classical.byContradiction fun hb => ?_
  unfold rqKind at h
  dsimp only at h
  rw [if_pos (show rqOp r = 2 ∧ rqBeats r ≠ 1 from ⟨ho, hb⟩)] at h
  repeat' split at h
  all_goals exact absurd h (by simp)

/-- What an accepted own request leaves. -/
theorem presentRq_accepted {wr : Bool} {lane : Nat} {rq : BitVec 64} {s : State} (hs : serving s = true) (hc : hasChan wr lane = true)
    (hd : (chan s wr lane).dcq = []) (hk : rqKind s wr lane rq.toNat = none) :
    Only [.fr] s (presentRq wr lane rq s)
      ∧ (presentRq wr lane rq s).fr.trs = s.fr.trs ++ [{ ownTransfer wr lane rq.toNat s with id := s.fr.nextId }]
      ∧ (presentRq wr lane rq s).fr.nextId = s.fr.nextId + 1
      ∧ (presentRq wr lane rq s).fr.rl = s.fr.rl ∧ (presentRq wr lane rq s).fr.wl = s.fr.wl := by
  obtain ⟨ch, he⟩ := presentRq_takes (rq := rq) hs hc hd
  rw [he, takeRq_accepts hk]
  exact ⟨(withChans_only ch s).trans (addTr_only _ _), rfl, rfl, rfl, rfl⟩

/-- Settles O20. -/
theorem ownRequestsEnterArbitration : Obligations.OwnRequestsEnterArbitration := by
  unfold Obligations.OwnRequestsEnterArbitration
  refine ⟨fun lane rq s hs hc hd ho hk => ?_, fun lane rq s hs hc hd ho hk => ?_, fun lane rq s hs hc hd ho hk => ?_⟩
  · obtain ⟨hf, ht, hn, hrl, hwl⟩ := presentRq_accepted (rq := rq) hs hc hd hk
    refine ⟨_, _, rfl, hf, ht, rfl, hn, hrl, hwl, ?_⟩
    unfold ownTransfer
    simp only [ho]
    exact ⟨rfl, rfl, rfl, rfl, rfl, rfl, rfl, rfl⟩
  · obtain ⟨hf, ht, hn, hrl, hwl⟩ := presentRq_accepted (rq := rq) hs hc hd hk
    have hret : rqRet rq.toNat = false := by simp [rqRet, ho]
    refine ⟨_, _, rfl, hf, ht, rfl, hn, hrl, hwl, ?_⟩
    unfold ownTransfer
    simp only [ho, hret]
    exact ⟨rfl, rfl, rfl, rfl, rfl, rfl, rfl, rfl⟩
  · obtain ⟨hf, ht, hn, hrl, hwl⟩ := presentRq_accepted (rq := rq) hs hc hd hk
    refine ⟨_, _, rfl, hf, ht, rfl, hn, hrl, hwl, ?_⟩
    unfold ownTransfer
    simp only [ho, rqBeats_atomic hk ho]
    exact ⟨rfl, rfl, rfl, rfl, rfl, rfl, rfl, rfl, rfl⟩

/-! Refused requests (R108) -/

/-- A refused request before its transfers: counted, logged and raised. -/
def rqRefused (wr : Bool) (lane k : Nat) (s : State) : State :=
  bump (0x5600 + 0x20 * (ownClient wr lane % 12)) 1 s
    |> fillLog1 0x1818 (fld (b2n wr) 2 + fld lane 4 + fld k 12 + fld (ownClient wr lane) 16) |> raise 22

theorem rqRefused_only (wr : Bool) (lane k : Nat) (s : State) : Only [.regs, .cnt, .tr, .dbg] s (rqRefused wr lane k s) :=
  (((bump_only _ _ _).mono (by decide)).trans ((fillLog1_only _ _ _).mono (by decide))).trans ((raise_only 22 _).mono (by decide))

theorem ownClient_lt (wr : Bool) (lane : Nat) : ownClient wr lane < 12 := by
  unfold ownClient rlClient wlClient
  split
  · repeat' split
    all_goals omega
  · repeat' split
    all_goals omega

/-- The transfers that take a refused request's place on its lane (R108). -/
def refusedTrs (wr : Bool) (lane r ctx : Nat) (s : State) : State :=
  let c := ownClient wr lane
  let n := if rqOp r = 2 then 1 else rqBeats r
  if !wr then (if rqOp r = 0 then refusedFlits (ownReq wr lane) ctx c lane n s else s)
  else if rqOp r = 1 ∨ rqOp r = 2 then
    addTr { newTr (ownReq wr lane) .drop 0 ctx c with wlane := lane + 1, grps := n, ready := true } s
      |> when (rqRet r && decide (rqRlane r < clientRlN c)) (refusedFlits (ownReq wr lane) ctx c (clientRl c + rqRlane r) 1)
  else s

theorem refuseRq_eq (wr : Bool) (lane r k : Nat) (s : State) :
    refuseRq wr lane r k s = refusedTrs wr lane r (ownBind s wr lane % 8) (rqRefused wr lane k s) := rfl

theorem refusedTrs_adds (wr : Bool) (lane r ctx : Nat) (s : State) : Only [.fr] s (refusedTrs wr lane r ctx s)
    ∧ (refusedTrs wr lane r ctx s).fr.rl = s.fr.rl ∧ (refusedTrs wr lane r ctx s).fr.wl = s.fr.wl
    ∧ (refusedTrs wr lane r ctx s).fr.ch = s.fr.ch := by
  have ha : ∀ T u, Only [.fr] u (addTr T u) ∧ (addTr T u).fr.rl = u.fr.rl ∧ (addTr T u).fr.wl = u.fr.wl
      ∧ (addTr T u).fr.ch = u.fr.ch := fun T u => ⟨addTr_only T u, rfl, rfl, rfl⟩
  unfold refusedTrs Machine.when refusedFlits
  dsimp only
  cases wr with
  | false =>
    rw [if_pos (by rfl)]
    split
    · exact ha _ _
    · exact ⟨Only.refl _ _, rfl, rfl, rfl⟩
  | true =>
    rw [if_neg (by simp)]
    split
    · split
      · exact ⟨(ha _ _).1.trans (ha _ _).1, rfl, rfl, rfl⟩
      · exact ha _ _
    · exact ⟨Only.refl _ _, rfl, rfl, rfl⟩

theorem refusedTrs_none {wr : Bool} {lane r ctx : Nat} {s : State}
    (h : rqOp r = 3 ∨ (wr = true ∧ rqOp r = 0) ∨ (wr = false ∧ rqOp r ≠ 0)) : refusedTrs wr lane r ctx s = s := by
  unfold refusedTrs
  cases wr with
  | false =>
    have h0 : rqOp r ≠ 0 := fun h0 => by simp [h0] at h
    exact (if_pos rfl).trans (if_neg h0)
  | true =>
    have h12 : ¬ (rqOp r = 1 ∨ rqOp r = 2) := by
      simp at h
      omega
    exact (if_neg (by simp)).trans (if_neg h12)

/-- What a refused request leaves. -/
theorem presentRq_refused {wr : Bool} {lane : Nat} {rq : BitVec 64} {s : State} {k : Nat} (hs : serving s = true) (hc : hasChan wr lane = true)
    (hd : (chan s wr lane).dcq = []) (hk : rqKind s wr lane rq.toNat = some k) : ∃ ch,
      presentRq wr lane rq s = refusedTrs wr lane rq.toNat (ownBind s wr lane % 8) (rqRefused wr lane k (withChans ch s)) := by
  obtain ⟨ch, he⟩ := presentRq_takes (rq := rq) hs hc hd
  exact ⟨ch, by rw [he, takeRq_refuses hk, refuseRq_eq]; rfl⟩

theorem rqRefused_within (wr : Bool) (lane k : Nat) (s : State) :
    Within ([⟨0x1818, 0, 1⟩, ⟨0x5600, 0x20, 12⟩] ++ eventRegs) s (rqRefused wr lane k s) := by
  refine Within.trans (Within.trans ((bump_within (0x5600 + 0x20 * (ownClient wr lane % 12)) 1 s).mono (spansIn_idx (lo := 0x5600) (st := 0x20) (n := 12) (by decide) (by decide))) ?_) ((raise_within 22 _).mono (by decide))
  exact (fillLog1_within _ _ _).mono (by decide)

theorem cnt_rqRefused (wr : Bool) (lane k : Nat) (s : State) (o : Nat) : NMap.get 0 (rqRefused wr lane k s).cnt o =
    NMap.get 0 s.cnt o + if o = 0x5600 + 0x20 * ownClient wr lane then 1 else 0 := by
  unfold rqRefused
  rw [raise_cnt, fillLog1_cnt, cnt_bump, Nat.mod_eq_of_lt (ownClient_lt wr lane)]
  split
  next h => rw [h]; rfl
  next h => exact (BitVec.add_zero _).symm

theorem fillLog1_first {o w0 : Nat} {s : State} (h : regB s o 0 = false) : reg (fillLog1 o w0 s) o = BitVec.ofNat 32 (1 + w0) := by
  rw [fillLog1, if_neg (by simp [h]), reg_setReg_self]

theorem fillLog1_again {o w0 : Nat} {s : State} (h : regB s o 0 = true) : reg (fillLog1 o w0 s) o = reg s o ||| 2 := by
  rw [fillLog1, if_pos h, orReg, reg_setReg_self]
  rfl

/-- The log of a refused request. -/
theorem rqRefused_log (wr : Bool) (lane k : Nat) (s : State) : (regB s 0x1818 0 = false →
      reg (rqRefused wr lane k s) 0x1818 = BitVec.ofNat 32 (1 + fld (b2n wr) 2 + fld lane 4 + fld k 12 + fld (ownClient wr lane) 16))
    ∧ (regB s 0x1818 0 = true → reg (rqRefused wr lane k s) 0x1818 = reg s 0x1818 ||| 2) := by
  have hb : ∀ o n, reg (bump o n s) 0x1818 = reg s 0x1818 := fun _ _ => rfl
  unfold rqRefused
  rw [raise_reg]
  refine ⟨fun h => ?_, fun h => ?_⟩
  · rw [fillLog1_first ((regB_eq_of_reg (hb _ _)).trans h)]
    simp only [Nat.add_assoc]
  · rw [fillLog1_again ((regB_eq_of_reg (hb _ _)).trans h), hb]

/-- The three commands of own requests put a request to its channel. -/
theorem exec_ownRequest {c : Instr} {wr : Bool} {lane : Nat} {rq : BitVec 64} (s : State)
    (hc : c ∈ [Instr.ownReadRequest wr lane rq, Instr.ownWriteRequest wr lane rq, Instr.ownAtomicRequest wr lane rq]) :
    exec c s = .next (presentRq wr lane rq s) := by
  simp only [List.mem_cons, List.not_mem_nil, or_false] at hc
  obtain rfl | rfl | rfl := hc <;> rfl

/-- Settles O21. -/
theorem malformedOwnRequestsAreRefused : Obligations.MalformedOwnRequestsAreRefused := by
  unfold Obligations.MalformedOwnRequestsAreRefused
  intro c wr lane rq s k hcm hs hc hd hk
  obtain ⟨ch, he⟩ := presentRq_refused hs hc hd hk
  obtain ⟨ho, hrl, hwl, -⟩ := refusedTrs_adds wr lane rq.toNat (ownBind s wr lane % 8) (rqRefused wr lane k (withChans ch s))
  have hu := rqRefused_only wr lane k (withChans ch s)
  have hfr : (rqRefused wr lane k (withChans ch s)).fr = { s.fr with ch := ch } := hu .fr (by decide)
  have hreg : ∀ o, reg (presentRq wr lane rq s) o = reg (rqRefused wr lane k (withChans ch s)) o := fun o => by
    unfold reg
    rw [he, ho .regs (by decide)]
  obtain ⟨hl0, hl1⟩ := rqRefused_log wr lane k (withChans ch s)
  refine ⟨_, exec_ownRequest s hcm, ?_, ?_, ?_, ?_, ?_, fun o => ?_, fun h => (hreg _).trans (hl0 h), fun h => (hreg _).trans (hl1 h),
    fun h => ?_, fun h h0 => ?_⟩
  · rw [he]
    exact (((withChans_only ch s).mono (by decide)).trans (hu.mono (by decide))).trans (ho.mono (by decide))
  · rw [he]
    exact ((Within.of_only (withChans_only ch s) (by decide)).trans (rqRefused_within wr lane k _)).trans (Within.of_only ho (by decide))
  · rw [regB_eq_of_reg (hreg _)]
    exact raise_sets 22 _
  · rw [he, hrl, hfr]
  · rw [he, hwl, hfr]
  · rw [he, ho .cnt (by decide), cnt_rqRefused]
    rfl
  · rw [he, refusedTrs_none h, hfr]
  · subst h
    have ht : (presentRq false lane rq s).fr = (refusedFlits (64 + lane) (rlBind s lane % 8) (rlClient lane) lane (rqBeats rq.toNat)
        (rqRefused false lane k (withChans ch s))).fr := by
      rw [he, refusedTrs, h0]
      rfl
    rw [ht, refusedFlits, addTr_fr, hfr]
    exact ⟨_, rfl, rfl, rfl, rfl, rfl, rfl, rfl⟩

end Sys2Proof.Machine
end

section
/-!
PROOFS. Flits through the queues of their lanes (R110 to R112, R482 to R484).
-/
namespace Sys2Proof.Machine

theorem running_of_serving {s : State} (h : serving s = true) : running s = true := by
  rw [serving, Bool.and_eq_true] at h
  exact h.1

/-- The transfers of a request leave the lanes and the channels alone. -/
theorem takeRq_lanes (wr : Bool) (lane r : Nat) (s : State) : (takeRq wr lane r s).fr.rl = s.fr.rl ∧ (takeRq wr lane r s).fr.wl = s.fr.wl
    ∧ (takeRq wr lane r s).fr.ch = s.fr.ch := by
  unfold takeRq
  split
  next k _ =>
    have hf : (rqRefused wr lane k s).fr = s.fr := rqRefused_only wr lane k s .fr (by decide)
    obtain ⟨-, hrl, hwl, hch⟩ := refusedTrs_adds wr lane r (ownBind s wr lane % 8) (rqRefused wr lane k s)
    rw [refuseRq_eq, hrl, hwl, hch, hf]
    exact ⟨rfl, rfl, rfl⟩
  next => exact ⟨rfl, rfl, rfl⟩

theorem takeRq_adds {wr : Bool} {lane r : Nat} {s : State} (h : rqKind s wr lane r = none) :
    (takeRq wr lane r s).fr.trs.length = s.fr.trs.length + 1 := by
  unfold takeRq
  rw [h]
  exact List.length_append

theorem drainChan_one {wr : Bool} {lane : Nat} {rq : BitVec 64} {s : State} (hs : serving s = true) (hd : (chan s wr lane).dcq = [rq])
    (h1 : 1 ≤ (chan s wr lane).seen) :
    drainChan wr lane s = takeRq wr lane rq.toNat (setChan wr lane { chan s wr lane with dcq := [], seen := 0 } s) := by
  unfold drainChan
  dsimp only
  rw [if_pos hs, hd, List.take_of_length_le (by exact h1), List.drop_of_length_le (by exact h1)]
  rfl

/-- A request becomes readable, and is taken. -/
theorem drainChan_crossed {wr : Bool} {lane : Nat} {s : State} {r : BitVec 64} (hs : serving s = true) (hd : (chan s wr lane).dcq = [r]) :
    ∃ u, drainChan wr lane (setChan wr lane { chan s wr lane with seen := min (chan s wr lane).dcq.length ((chan s wr lane).seen + 1) } s)
        = takeRq wr lane r.toNat u ∧ (chan u wr lane).dcq = [] ∧ (chan u wr lane).seen = 0
      ∧ ∃ ch, u = withChans ch s := by
  refine ⟨_, drainChan_one hs ?_ ?_, by rw [chan_setChan], by rw [chan_setChan], _, rfl⟩
  · rw [chan_setChan]
    exact hd
  · rw [chan_setChan, hd]
    exact Nat.le_min.mpr ⟨Nat.le_refl _, Nat.le_add_left _ _⟩

/-- WRITE_FLIT_TO_STAGING of a flit of no slip. -/
theorem stagePlain_own {lane : Nat} {d : Row × BitVec 81} {s : State} (h : (lane ≠ 40 ∧ lane ≠ 41) ∨ ownsNext s lane = true) :
    stagePlain lane none d s = stageFlit lane (mkWFlit d.1 d.2) (popWdcq lane s) := by
  have hu : unsealFlit lane (!ownsNext s lane) none d.1 s = (d.1, s) := if_neg (by
    obtain ⟨h0, h1⟩ | h := h
    · simp [h0, h1]
    · simp [h])
  unfold stagePlain
  rw [hu]

theorem moveToStaging_own {lane : Nat} {par : Mask4} {d : Row × BitVec 81} {s : State}
    (h : (wlane s lane).staging.length < owed s lane ∨ (owed s lane ≤ (wlane s lane).staging.length ∧ laneSlip s lane = none
      ∧ ((lane ≠ 40 ∧ lane ≠ 41) ∨ ownsNext s lane = true))) :
    moveToStaging lane par d s = stageFlit lane (mkWFlit d.1 d.2) (popWdcq lane s) := by
  unfold moveToStaging
  dsimp only
  obtain h | ⟨h, hn, ho⟩ := h
  · exact if_pos h
  · rw [if_neg (by omega), hn]
    exact stagePlain_own ho

/-- A read flit that its engine takes, before its slip's share in it (R110). -/
def flitTaken (lane : Nat) (rest : List OutFlit) (s : State) : State :=
  setRlane lane { rlane s lane with
    dcq := rest, seen := (rlane s lane).seen - 1
    cred := (rlane s lane).cred + b2n (!halted s), owe := (rlane s lane).owe + b2n (halted s) } s

theorem execReadFlitTake_takes {lane : Nat} {s : State} {f : OutFlit} {rest : List OutFlit} (hr : inReset s = false)
    (hd : (rlane s lane).dcq = f :: rest) (h0 : (rlane s lane).seen ≠ 0) :
    ∃ t, exec (.readFlitTake lane) s = .next t ∧ Only [.regs, .sq, .dbg] (flitTaken lane rest s) t := by
  refine ⟨_, rfl, ?_⟩
  dsimp only
  rw [hd]
  dsimp only
  rw [if_neg (by simp [hr, h0])]
  split
  · exact Only.refl _ _
  · split
    · exact (((updSlip_only _ _ _).mono (by decide)).trans ((progress_only _ _).mono (by decide))).trans ((dropSlip_only _ _).mono (by decide))
    · exact Only.refl _ _

/-- A flit that passes from the landing buffer into the read queue. -/
def flitLanded (lane : Nat) (f : OutFlit) (rest : List OutFlit) (s : State) : State :=
  updRlane lane (fun z => { z with landing := rest, dcq := z.dcq ++ [f], nput := z.nput + 1 }) s

theorem execLandingToDcq_moves {lane : Nat} {s : State} {f : OutFlit} {rest : List OutFlit} (hr : running s = true)
    (hd : (rlane s lane).landing = f :: rest) (hl : (rlane s lane).dcq.length < 16) (hf : f.slip = 0 ∨ (lane ≠ 60 ∧ lane ≠ 61)) :
    ∃ t, exec (.landingToDcq lane) s = .next t ∧ Only [.regs, .sq, .tr, .dbg, .rx, .pw] (flitLanded lane f rest s) t := by
  have hs : (f.slip != 0 && (lane == 60 || lane == 61)) = false := by
    obtain h | ⟨h0, h1⟩ := hf
    · simp [h]
    · simp [h0, h1]
  have he : Only [.regs, .sq, .tr, .dbg, .rx, .pw] (flitLanded lane f rest s) (estimate 12 1 (flitLanded lane f rest s)) :=
    (estimate_only _ _ _).mono (by decide)
  refine ⟨_, rfl, ?_⟩
  dsimp only
  rw [hd]
  dsimp only
  rw [if_neg (by simp [hr, hl]), hs]
  split
  · exact he.trans ((resultDelivered_only _ _ _).mono (by decide))
  · split
    · exact (he.trans ((updSlip_only _ _ _).mono (by decide))).trans ((progress_only _ _).mono (by decide))
    · exact he

/-- Settles O22. -/
theorem flitsMoveBetweenQueues : Obligations.FlitsMoveBetweenQueues := by
  unfold Obligations.FlitsMoveBetweenQueues
  refine ⟨fun lane data sb s hr hl hd => ?_, fun lane s hr => ⟨?_, ?_, fun wr => ?_, fun wr r hs hd => ?_⟩,
    fun lane par s d rest hs hd h0 hl h42 h43 ho => ?_, fun lane s f rest hr hd h0 => ?_, fun lane s f rest hr hd hl hf => ?_⟩
  · refine ⟨_, congrArg Host.Outcome.next (if_neg (by simp [hr, hl, hd])), ?_, ?_, ?_, ?_, fun l => ?_⟩
    · exact (show Only [.fr] s (updWlane _ _ s) from updWlane_only _ _ _).mono (by decide) |>.trans ((estimate_only _ _ _).mono (by decide))
    · rw [estimate_fr]; rfl
    · rw [estimate_fr]; rfl
    · rw [estimate_fr]; rfl
    · rw [wlane_of_fr (estimate_fr _ _ _), wlane_updWlane]
      split
      next h => rw [h]
      · rfl
  · refine ⟨_, congrArg Host.Outcome.next (if_neg (by simp [hr])), updRlane_only _ _ _, rfl, rfl, rfl, fun l => ?_⟩
    rw [rlane_updRlane]
    split
    next h => rw [h]
    · rfl
  · refine ⟨_, congrArg Host.Outcome.next (if_neg (by simp [hr])), updWlane_only _ _ _, rfl, rfl, rfl, fun l => ?_⟩
    rw [wlane_updWlane]
    split
    next h => rw [h]
    · rfl
  · cases wr with
    | false => exact ⟨_, congrArg Host.Outcome.next (if_neg (by simp [hr])), setChan_only _ _ _ _, rfl, chan_setChan _ _ _ _⟩
    | true => exact ⟨_, congrArg Host.Outcome.next (if_neg (by simp [hr])), setChan_only _ _ _ _, rfl, chan_setChan _ _ _ _⟩
  · obtain ⟨u, he, hud, hus, ch, hu⟩ := drainChan_crossed hs hd
    obtain ⟨hrl, hwl, hch⟩ := takeRq_lanes wr lane r.toNat u
    have hx : exec (.dcqCrossing (if wr = true then .wq else .rq) lane) s = .next (takeRq wr lane r.toNat u) := by
      rw [← he]
      cases wr <;> exact congrArg Host.Outcome.next (if_neg (by simp [hr]))
    have hc : chan (takeRq wr lane r.toNat u) wr lane = chan u wr lane := by rw [chan, chan, hch]
    refine ⟨_, hx, hc ▸ hud, hc ▸ hus, by rw [hrl, hu]; rfl, by rw [hwl, hu]; rfl, fun hk => ?_⟩
    subst hu
    exact takeRq_adds hk
  · refine ⟨stageFlit lane (mkWFlit d.1 d.2) (popWdcq lane s), ?_, ?_, rfl, rfl, rfl, fun l => ?_⟩
    · refine congrArg Host.Outcome.next ?_
      dsimp only
      rw [hd]
      exact (if_neg (by simp [hs, h0, hl, h42, h43])).trans (moveToStaging_own ho)
    · exact (updWlane_only _ _ _).trans (updWlane_only _ _ _)
    · unfold stageFlit popWdcq
      rw [wlane_updWlane]
      split
      next h => rw [h, wlane_updWlane, if_pos rfl, hd]; rfl
      next h => rw [wlane_updWlane, if_neg h]
  · obtain ⟨t, he, ho⟩ := execReadFlitTake_takes hr hd h0
    have hfr := ho .fr (by decide)
    refine ⟨t, he, by rw [hfr]; rfl, by rw [hfr]; rfl, by rw [hfr]; rfl, ho .mem (by decide), ho .cnt (by decide), fun l => ?_⟩
    rw [rlane_of_fr hfr, flitTaken, rlane_setRlane]
    split
    next h =>
      rw [h]
      cases halted s <;> rfl
    · rfl
  · obtain ⟨t, he, ho⟩ := execLandingToDcq_moves hr hd hl hf
    have hfr := ho .fr (by decide)
    refine ⟨t, he, by rw [hfr]; rfl, by rw [hfr]; rfl, by rw [hfr]; rfl, ho .mem (by decide), fun l => ?_⟩
    rw [rlane_of_fr hfr, flitLanded, rlane_updRlane]
    split
    next h => rw [h]
    · rfl

end Sys2Proof.Machine
end

section
/-!
PROOFS. How a slip ends (R267, R282), and the control slips (R267 to R271, R279 to R281).
-/
namespace Sys2Proof.Machine

/-! The queues through a slip's end -/

theorem queueOf_of_q {s t : State} (h : t.sq.q = s.sq.q) (k : Nat) : queueOf t k = queueOf s k := by
  unfold queueOf
  rw [h]

theorem updSlip_q (sid : Nat) (f : Slip → Slip) (s : State) : (updSlip sid f s).sq.q = s.sq.q := rfl

theorem maybeSend_q (sid : Nat) (s : State) : (maybeSend sid s).sq.q = s.sq.q := by
  unfold maybeSend
  split
  · rfl
  · split
    · have h : ∀ c r u, (when c (genRec r true) u).sq = u.sq := fun c r u => Only.when (fun v => genRec_only r true v) c u .sq (by decide)
      rw [h]
      rfl
    · rfl

theorem dropSlip_q (sid : Nat) (s : State) : (dropSlip sid s).sq.q = s.sq.q := by
  unfold dropSlip
  split
  · split
    · rw [watchRelease_only _ _ .sq (by decide)]
    · rfl
  · rfl

/-- A slip that ends, before its report, its fault and its next head: its entry is free. -/
def slipEnded (x : Slip) (s : State) : State :=
  updSlip x.sid (fun y => { y with ended := true }) s |> dropClaim x
    |> updQueue x.q (fun y => { y with run := 0, ents := y.ents.drop 1 })
    |> bump (0x57B0 + 0x40 * (sCtx x.words % 8)) 1 |> xbump (2048 + x.q) 1 |> progress x.q

theorem endSlip_eq {x : Slip} {s : State} (h : slipOf s x.sid = some x) :
    endSlip x.sid s = dropSlip x.sid (settleHead x.q (stopOnFault x (maybeSend x.sid (slipEnded x s)))) := by
  unfold endSlip
  rw [h]
  rfl

theorem queueOf_slipEnded (x : Slip) (s : State) (k : Nat) : queueOf (slipEnded x s) k = if k = x.q then
    { queueOf s k with run := 0, ents := (queueOf s k).ents.drop 1, quiet := 0, wdog := false } else queueOf s k := by
  have hd : ∀ u, queueOf (dropClaim x u) k = queueOf u k := fun u => queueOf_of_sq (dropClaim_only x u .sq (by decide)) k
  unfold slipEnded progress
  by_cases hk : k = x.q
  · subst hk
    rw [queueOf_updQueue_self, queueOf_of_sq (xbump_sq _ _ _), queueOf_of_sq (bump_sq _ _ _), queueOf_updQueue_self, hd, queueOf_of_q (updSlip_q _ _ _),
      if_pos rfl]
  · rw [queueOf_updQueue_ne hk, queueOf_of_sq (xbump_sq _ _ _), queueOf_of_sq (bump_sq _ _ _), queueOf_updQueue_ne hk, hd,
      queueOf_of_q (updSlip_q _ _ _), if_neg hk]

theorem cnt_slipEnded (x : Slip) (s : State) : NMap.get 0 (slipEnded x s).cnt (0x57B0 + 0x40 * (sCtx x.words % 8))
    = NMap.get 0 s.cnt (0x57B0 + 0x40 * (sCtx x.words % 8)) + 1 := by
  unfold slipEnded
  rw [progress_cnt, xbump_cnt, cnt_bump, if_pos rfl, updQueue_cnt, dropClaim_only _ _ .cnt (by decide)]
  rfl

/-- R282: the queue of a slip that ended with a fault is stopped. -/
theorem queueOf_stopOnFault (x : Slip) (s : State) (k : Nat) : queueOf (stopOnFault x s) k =
    if k = x.q ∧ x.fault = true then { queueOf s k with stop := 3 } else queueOf s k := by
  unfold stopOnFault
  by_cases hf : x.fault = true
  · rw [if_pos hf, queueOf_of_sq (raise_sq _ _), queueOf_of_sq (slipLog_sq _ _ _ _ _ _), queueOf_updQueue]
    by_cases hk : k = x.q
    · simp [hk, hf]
    · simp [hk]
  · rw [if_neg hf, if_neg (fun h => hf h.2)]

/-- A stopped queue keeps its head as it is. -/
theorem settleHead_stopped {q : Nat} {s : State} (h : (queueOf s q).stop ≠ 0) : settleHead q s = s := by
  unfold settleHead
  dsimp only
  split
  · exact if_neg fun hc => h hc.2.1
  · rfl

/-- Settling a head counts no ended slip. -/
theorem settleHead_ended (q j : Nat) (s : State) :
    NMap.get 0 (settleHead q s).cnt (0x57B0 + 0x40 * j) = NMap.get 0 s.cnt (0x57B0 + 0x40 * j) := by
  refine (settleHead_within q s).cnt _ ?_
  rw [Bool.eq_false_iff]
  intro hp
  simp only [List.any_cons, List.any_nil, Span.has, Bool.or_false, Bool.or_eq_true, Bool.and_eq_true, Nat.ble_eq, Nat.beq_eq] at hp
  omega

/-- The end of a slip: what it leaves in the queues and the count of ended slips. -/
theorem endSlip_leaves {x : Slip} {s : State} (h : slipOf s x.sid = some x) :
    (queueOf (endSlip x.sid s) x.q).ents = (queueOf s x.q).ents.drop 1 ∧ (queueOf (endSlip x.sid s) x.q).run = 0
      ∧ (∀ k, k ≠ x.q → queueOf (endSlip x.sid s) k = queueOf s k)
      ∧ NMap.get 0 (endSlip x.sid s).cnt (0x57B0 + 0x40 * (sCtx x.words % 8)) = NMap.get 0 s.cnt (0x57B0 + 0x40 * (sCtx x.words % 8)) + 1
      ∧ (x.fault = true → (queueOf (endSlip x.sid s) x.q).stop = 3 ∧ regB (endSlip x.sid s) 0x7000 25 = true) := by
  have hm : ∀ k, queueOf (maybeSend x.sid (slipEnded x s)) k = queueOf (slipEnded x s) k := queueOf_of_q (maybeSend_q _ _)
  obtain ⟨hoth, -, -, st, r, hself, hst⟩ := settleHead_keeps x.q (stopOnFault x (maybeSend x.sid (slipEnded x s)))
  have hq : ∀ k, queueOf (endSlip x.sid s) k = queueOf (settleHead x.q (stopOnFault x (maybeSend x.sid (slipEnded x s)))) k := fun k => by
    rw [endSlip_eq h]
    exact queueOf_of_q (dropSlip_q _ _) k
  rw [queueOf_stopOnFault, hm, queueOf_slipEnded, if_pos rfl] at hself hst
  refine ⟨?_, ?_, fun k hk => ?_, ?_, fun hf => ?_⟩
  · rw [hq, hself]
    split <;> rfl
  · rw [hq, hself]
    split <;> rfl
  · rw [hq, hoth k hk, queueOf_stopOnFault, if_neg (fun h => hk h.1), hm, queueOf_slipEnded, if_neg hk]
  · rw [endSlip_eq h, dropSlip_only _ _ .cnt (by decide), settleHead_ended, stopOnFault_cnt, maybeSend_only _ _ .cnt (by decide), cnt_slipEnded]
  · have h3 : (queueOf (stopOnFault x (maybeSend x.sid (slipEnded x s))) x.q).stop = 3 := by
      rw [queueOf_stopOnFault, if_pos ⟨rfl, hf⟩]
    have hs := settleHead_stopped (q := x.q) (s := stopOnFault x (maybeSend x.sid (slipEnded x s))) (by rw [h3]; decide)
    refine ⟨by rw [hq, hs, h3], ?_⟩
    rw [endSlip_eq h, hs, regB_eq_of_reg ((dropSlip_within _ _).reg 0x7000 (by decide)), stopOnFault, if_pos hf]
    exact raise_sets 25 _

theorem sid_of_running {s : State} {q : Nat} {x : Slip} (h : running? s q = some x) : slipOf s x.sid = some x := by
  unfold running? at h
  dsimp only at h
  split at h
  · exact absurd h (by simp)
  · rwa [sid_of_slipOf h]

/-- Settles O33. -/
theorem slipsEnd : Obligations.SlipsEnd := by
  unfold Obligations.SlipsEnd
  refine ⟨fun q s x hr hx ht hall => ?_, fun q s x c hr hx hq hc => ?_⟩
  · refine ⟨_, rfl, ?_⟩
    dsimp only
    rw [hx]
    dsimp only
    rw [if_pos (by simpa [hr, ht] using fun a b h => hall (a, b) h)]
    simp only [updSlip, beq_iff_eq]
  · obtain ⟨rfl, ht, hm⟩ | ⟨rfl, hm⟩ := hc
    · have hs := sid_of_running hx
      have he : exec (.fenceMet q) s = .next (endSlip x.sid (updSlip x.sid (fun y => { y with met := true }) s)) := by
        refine congrArg Host.Outcome.next ?_
        rw [hx]
        exact if_pos (by simp [hr, ht, hm])
      have hl := endSlip_leaves (x := { x with met := true }) (slipOf_updSlip (f := fun y => { y with met := true }) hs rfl)
      rw [← hq]
      exact ⟨_, he, hl.1, hl.2.1, hl.2.2.2.1, hl.2.2.2.2, hl.2.2.1⟩
    · have he : exec (.slipEnd q) s = .next (endSlip x.sid s) := by
        refine congrArg Host.Outcome.next ?_
        rw [hx]
        exact if_pos (by simp [hr, hm])
      obtain ⟨hents, hrun, hoth, hcnt, hfault⟩ := endSlip_leaves (sid_of_running hx)
      rw [← hq]
      exact ⟨_, he, hents, hrun, hcnt, hfault, hoth⟩

/-! Control slips -/

/-- A control slip that begins: it joins the started slips and executes in its queue. -/
theorem beginSlip_leaves {x : Slip} {s : State} (hf : FreshIds s) (hx : x.sid = s.sq.nextSid) :
    slipOf (beginSlip x s) x.sid = some x
      ∧ ∀ k, queueOf (beginSlip x s) k = if k = x.q then { queueOf s k with run := x.sid + 1, quiet := 0, wdog := false } else queueOf s k := by
  obtain ⟨-, hlt, -⟩ := hf
  refine ⟨?_, fun k => ?_⟩
  · have hl : (beginSlip x s).sq.live = s.sq.live ++ [x] := rfl
    have hn : s.sq.live.find? (fun y => y.sid == x.sid) = none := List.find?_eq_none.mpr fun y hy => by
      have := hlt y hy
      simp
      omega
    rw [slipOf, hl, List.find?_append, hn]
    simp
  · unfold beginSlip progress
    rw [queueOf_updQueue, queueOf_updQueue_self, queueOf_updQueue]
    by_cases hk : k = x.q
    · simp [hk, queueOf]
    · simp [hk, queueOf]

/-- A control slip's start and end, with what it does between, which leaves the slips and queues alone. -/
theorem controlSlip_leaves {x : Slip} {s u : State} (hf : FreshIds s) (hx : x.sid = s.sq.nextSid) (hu : u.sq = (beginSlip x s).sq) :
    (queueOf (endSlip x.sid u) x.q).ents = (queueOf s x.q).ents.drop 1 ∧ (queueOf (endSlip x.sid u) x.q).run = 0
      ∧ (∀ k, k ≠ x.q → queueOf (endSlip x.sid u) k = queueOf s k)
      ∧ NMap.get 0 (endSlip x.sid u).cnt (0x57B0 + 0x40 * (sCtx x.words % 8)) = NMap.get 0 u.cnt (0x57B0 + 0x40 * (sCtx x.words % 8)) + 1 := by
  obtain ⟨hs, hq⟩ := beginSlip_leaves hf hx
  obtain ⟨hents, hrun, hoth, hcnt, -⟩ := endSlip_leaves (x := x) (s := u) (by rw [slipOf, hu]; exact hs)
  have huq : ∀ k, queueOf u k = queueOf (beginSlip x s) k := queueOf_of_sq hu
  refine ⟨?_, hrun, fun k hk => ?_, hcnt⟩
  · rw [hents, huq, hq, if_pos rfl]
  · rw [hoth k hk, huq, hq, if_neg hk]

theorem startWith_starts {s : State} {q ty : Nat} {e : Entry} (h : mayStart s q ty = some e) (act : Slip → State → State) :
    startWith q ty act s = act (newSlip s q e) s := by
  unfold startWith
  rw [h]

/-- The registers that no slip's end writes: tallies, step counters. -/
theorem endSlip_reg {o sid : Nat} {s : State} (h : 0x3010 ≤ o) (h1 : o < 0x5000) : reg (endSlip sid s) o = reg s o := by
  refine (endSlip_within sid s).reg o ?_
  rw [Bool.eq_false_iff]
  intro hp
  simp only [List.any_cons, List.any_nil, Span.has, Bool.or_false, Bool.or_eq_true, Bool.and_eq_true, Nat.ble_eq, Nat.beq_eq] at hp
  omega

/-- Increments of listed tallies. -/
theorem tally_forEach_tallyAdd {l : List Nat} {k : Nat} {s : State} (hl : ∀ i ∈ l, i < 64) :
    tally (forEach l (tallyAdd 1) s) k = tally s k + BitVec.ofNat 32 (l.filter (· == k)).length := by
  induction l generalizing s with
  | nil => simp [forEach]
  | cons i l ih =>
    have hi : i < 64 := hl i (List.mem_cons_self ..)
    rw [forEach, ih fun j hj => hl j (List.mem_cons_of_mem _ hj), List.filter_cons]
    have ht : tally (tallyAdd 1 i s) k = tally s k + BitVec.ofNat 32 (if i = k then 1 else 0) := by
      unfold tallyAdd tally
      rw [Nat.mod_eq_of_lt hi, reg_setReg]
      by_cases hk : i = k
      · simp [hk]
      · have : ¬ 0x3700 + 4 * k = 0x3700 + 4 * i := by omega
        rw [if_neg this]
        simp [hk]
    rw [ht]
    by_cases hk : i = k
    · simp only [hk, if_true, beq_self_eq_true, List.length_cons, BitVec.add_assoc, ← BitVec.ofNat_add]
      rw [Nat.add_comm]
    · simp [hk]

theorem tsel_lt {w : BitVec 512} {i : Nat} (h : i ∈ (tsel w).map (·.1)) : i < 64 := by
  unfold tsel at h
  simp only [List.mem_map, List.mem_filterMap] at h
  obtain ⟨p, ⟨j, -, hj⟩, rfl⟩ := h
  split at hj
  · obtain rfl := Option.some.inj hj
    have h6 : 8 * j + 5 + 1 - 8 * j = 6 := by omega
    unfold bits
    rw [h6]
    exact Nat.mod_lt _ (by decide)
  · exact absurd hj (by simp)

/-- What a control slip leaves, by what it does between its start and its end. -/
theorem controlSlip_settles {q : BitVec 6} {s u : State} {e : Entry} {c : Instr} (hf : FreshIds s)
    (hc : exec c s = .next (endSlip s.sq.nextSid u)) (hu : u.sq = (beginSlip (newSlip s q.toNat e) s).sq)
    (hcnt : ∀ j, NMap.get 0 u.cnt (0x57B0 + 0x40 * j) = NMap.get 0 s.cnt (0x57B0 + 0x40 * j)) :
    ∃ t, exec c s = .next t ∧ (queueOf t q.toNat).ents = (queueOf s q.toNat).ents.drop 1 ∧ (queueOf t q.toNat).run = 0
      ∧ (∀ k, k ≠ q.toNat → queueOf t k = queueOf s k)
      ∧ NMap.get 0 t.cnt (0x57B0 + 0x40 * (sCtx e.words % 8)) = NMap.get 0 s.cnt (0x57B0 + 0x40 * (sCtx e.words % 8)) + 1
      ∧ (∀ k, k < 64 → tally t k = tally u k) ∧ (∀ k, k < 8 → reg t (0x3040 + 4 * k) = reg u (0x3040 + 4 * k))
      ∧ NMap.get 0 t.cnt 0x59D8 = NMap.get 0 u.cnt 0x59D8 ∧ t.pw = u.pw := by
  obtain ⟨hents, hrun, hoth, hn⟩ := controlSlip_leaves (x := newSlip s q.toNat e) hf rfl hu
  refine ⟨_, hc, hents, hrun, hoth, hn.trans (by rw [hcnt]; rfl), fun k hk => endSlip_reg (by omega) (by omega),
    fun k hk => endSlip_reg (by omega) (by omega), (endSlip_within _ _).cnt 0x59D8 rfl, endSlip_only _ _ .pw (by decide)⟩

theorem sCtx_lt (w : BitVec 512) : sCtx w < 8 := Nat.mod_lt _ (by decide)

theorem genRec_reg (r : Rec) (c : Bool) (s : State) (o : Nat) : reg (genRec r c s) o = reg s o := by rw [reg, reg, genRec_only _ _ _ .regs (by decide)]

/-- Settles O32. -/
theorem controlSlipsActAndEnd : Obligations.ControlSlipsActAndEnd := by
  unfold Obligations.ControlSlipsActAndEnd
  intro q s e c ty hc hf he
  have hb := beginSlip_only (newSlip s q.toNat e) s
  have hreg : ∀ o, reg (beginSlip (newSlip s q.toNat e) s) o = reg s o := fun o => by rw [reg, reg, hb .regs (by decide)]
  have hcnt : (beginSlip (newSlip s q.toNat e) s).cnt = s.cnt := hb .cnt (by decide)
  have hpw : (beginSlip (newSlip s q.toNat e) s).pw = s.pw := hb .pw (by decide)
  simp only [List.mem_cons, List.not_mem_nil, or_false, Prod.mk.injEq] at hc
  obtain ⟨rfl, rfl⟩ | ⟨rfl, rfl⟩ | ⟨rfl, rfl⟩ | ⟨rfl, rfl⟩ | ⟨rfl, rfl⟩ := hc
  case inl =>
    have hx : exec (.nop q) s = .next (endSlip s.sq.nextSid (beginSlip (newSlip s q.toNat e) s)) :=
      congrArg Host.Outcome.next (startWith_starts he _)
    obtain ⟨t, ht, hents, hrun, hoth, hn, htl, hst, -, htp⟩ := controlSlip_settles (e := e) hf hx rfl (fun j => by rw [hcnt])
    refine ⟨t, ht, hents, hrun, hoth, hn, fun k hk => ?_, fun k hk => ?_, fun h => absurd h (by decide), fun _ => htp.trans hpw⟩
    · rw [htl k hk]
      exact (hreg _).trans (BitVec.add_zero _).symm
    · rw [hst k hk, hreg, if_neg (by simp)]
  case inr.inl =>
    have hx : exec (.signal q) s = .next (endSlip s.sq.nextSid (forEach ((tsel e.words).map (·.1)) (tallyAdd 1) (beginSlip (newSlip s q.toNat e) s))) :=
      congrArg Host.Outcome.next (startWith_starts he _)
    have ho := Only.forEach (fun i u => tallyAdd_only 1 i u) ((tsel e.words).map (·.1)) (beginSlip (newSlip s q.toNat e) s)
    obtain ⟨t, ht, hents, hrun, hoth, hn, htl, hst, -, htp⟩ := controlSlip_settles (e := e) hf hx (ho .sq (by decide))
      (fun j => by rw [ho .cnt (by decide), hcnt])
    refine ⟨t, ht, hents, hrun, hoth, hn, fun k hk => ?_, fun k hk => ?_, fun h => absurd h (by decide),
      fun _ => htp.trans ((ho .pw (by decide)).trans hpw)⟩
    · rw [htl k hk, if_pos rfl]
      refine (tally_forEach_tallyAdd fun i hi => tsel_lt hi).trans ?_
      rw [tally, hreg, List.filter_map, List.length_map]
      rfl
    · rw [hst k hk, if_neg (by simp)]
      refine (reg_forEach_keep fun i hi u => ?_).trans (hreg _)
      exact reg_setReg_ne (by omega) _ _
  case inr.inr.inl =>
    have hx : exec (.mark q) s = .next (endSlip s.sq.nextSid (when (markTriggers s e.words) (traceTrigger 2 0)
        (genRec (markRec (newSlip s q.toNat e) s) true (beginSlip (newSlip s q.toNat e) s)))) :=
      congrArg Host.Outcome.next (startWith_starts he _)
    have ho := (genRec_only (markRec (newSlip s q.toNat e) s) true (beginSlip (newSlip s q.toNat e) s)).mono (qs := [.tr, .regs]) (by decide)
      |>.trans (Only.when (fun u => (traceTrigger_only 2 0 u).mono (by decide)) (markTriggers s e.words) _)
    have hw : ∀ o, o ≠ 0x6014 → reg (when (markTriggers s e.words) (traceTrigger 2 0)
        (genRec (markRec (newSlip s q.toNat e) s) true (beginSlip (newSlip s q.toNat e) s))) o = reg s o := fun o h => by
      refine ((Within.when (fun u => traceTrigger_within 2 0 u) _ _).reg o ?_).trans ((genRec_reg _ _ _ o).trans (hreg o))
      rw [Bool.eq_false_iff]
      intro hp
      simp only [List.any_cons, List.any_nil, Span.has, Bool.or_false, Bool.and_eq_true, Nat.ble_eq] at hp
      omega
    obtain ⟨t, ht, hents, hrun, hoth, hn, htl, hst, -, htp⟩ := controlSlip_settles (e := e) hf hx (ho .sq (by decide))
      (fun j => by rw [ho .cnt (by decide), hcnt])
    refine ⟨t, ht, hents, hrun, hoth, hn, fun k hk => ?_, fun k hk => ?_, fun h => absurd h (by decide),
      fun _ => htp.trans ((ho .pw (by decide)).trans hpw)⟩
    · rw [htl k hk]
      exact (hw _ (by omega)).trans (BitVec.add_zero _).symm
    · rw [hst k hk, hw _ (by omega), if_neg (by simp)]
  case inr.inr.inr.inl =>
    have hx : exec (.hint q) s = .next (endSlip s.sq.nextSid (bump 0x59D8 1
        (addHint ⟨bits (sw e.words 1) 7 0, bits (sw e.words 2) 15 0, bits (sw e.words 2) 31 16, 1⟩ (beginSlip (newSlip s q.toNat e) s)))) :=
      congrArg Host.Outcome.next (startWith_starts he _)
    have hr : ∀ o, reg (bump 0x59D8 1 (addHint ⟨bits (sw e.words 1) 7 0, bits (sw e.words 2) 15 0, bits (sw e.words 2) 31 16, 1⟩
        (beginSlip (newSlip s q.toNat e) s))) o = reg s o := hreg
    obtain ⟨t, ht, hents, hrun, hoth, hn, htl, hst, hc, htp⟩ := controlSlip_settles (e := e) hf hx rfl (fun j => by
      rw [cnt_bump, if_neg (by omega), addHint_cnt, hcnt])
    refine ⟨t, ht, hents, hrun, hoth, hn, fun k hk => ?_, fun k hk => ?_, fun _ => ⟨?_, ?_⟩, fun h => absurd rfl h⟩
    · rw [htl k hk]
      exact (hr _).trans (BitVec.add_zero _).symm
    · rw [hst k hk, hr, if_neg (by simp)]
    · rw [hc, cnt_bump, if_pos rfl, addHint_cnt, hcnt]
      rfl
    · rw [htp, bump_pw, addHint, addHint, hpw]
  case inr.inr.inr.inr =>
    have hx : exec (.step q) s = .next (endSlip s.sq.nextSid (genRec (mkRec 4 (sCtx e.words) q.toNat 0
        (sw e.words 1 % 2 + fld (sTag e.words) 16 + fld (stepValue s e.words).toNat 32) [] 0 s) true
        (setReg (0x3040 + 4 * (sCtx e.words % 8)) (stepValue s e.words) (beginSlip (newSlip s q.toNat e) s)))) :=
      congrArg Host.Outcome.next (startWith_starts he _)
    obtain ⟨t, ht, hents, hrun, hoth, hn, htl, hst, hc, htp⟩ := controlSlip_settles (e := e) hf hx
      (by rw [genRec_sq, setReg_sq]) (fun j => by rw [genRec_cnt, setReg_cnt, hcnt])
    refine ⟨t, ht, hents, hrun, hoth, hn, fun k hk => ?_, fun k hk => ?_, fun h => absurd h (by decide),
      fun _ => by rw [htp, genRec_pw, setReg_pw, hpw]⟩
    · have := sCtx_lt e.words
      rw [htl k hk, tally, genRec_reg, reg_setReg_ne (by omega), hreg]
      exact (BitVec.add_zero _).symm
    · rw [hst k hk, genRec_reg, reg_setReg, Nat.mod_eq_of_lt (sCtx_lt _), hreg]
      by_cases hk : k = sCtx e.words
      · simp [hk]
      · rw [if_neg (by omega), if_neg (fun h => hk h.2)]

end Sys2Proof.Machine
end

section
/-!
PROOFS. Slips that start and execute (R267, R274 to R278).
-/
namespace Sys2Proof.Machine

/-- What a start leaves in the queues and started slips. -/
theorem queueOf_beginSlip (x : Slip) (s : State) (k : Nat) : queueOf (beginSlip x s) k =
    if k = x.q then { queueOf s k with run := x.sid + 1, quiet := 0, wdog := false } else queueOf s k := by
  unfold beginSlip progress
  rw [queueOf_updQueue, queueOf_updQueue_self, queueOf_updQueue]
  by_cases hk : k = x.q
  · simp [hk, queueOf]
  · simp [hk, queueOf]

/-- The begin postmark and the watch units leave the slips alone. -/
theorem beginData_sq (path : Nat) (x : Slip) (s : State) : (beginData path x s).sq = (beginSlip x s).sq := by
  unfold beginData
  rw [watchMatch_only _ _ .sq (by decide), sbegin_only _ _ .sq (by decide)]

/-- A slip that started, with no other slip of its identifier. -/
theorem live_updSlip_new {l : List Slip} {x : Slip} {f : Slip → Slip} (h : ∀ y ∈ l, y.sid < x.sid) :
    (l ++ [x]).map (fun y => if y.sid == x.sid then f y else y) = l ++ [f x] := by
  rw [List.map_append, List.map_singleton, if_pos (by simp)]
  congr 1
  refine (List.map_congr_left fun y hy => ?_).trans (List.map_id _)
  have := h y hy
  exact if_neg (by simp; omega)

/-- The slip as it starts, its queue and the request for its blend slots. -/
theorem started_leaves {q : Nat} {e : Entry} {s u : State} (hf : FreshIds s) (hu : u.sq = (beginSlip (newSlip s q e) s).sq) (hb : u.bl = s.bl) (b : Bool) :
    (when b (askSlots s.sq.nextSid) u).sq.live = s.sq.live ++ [{ newSlip s q e with slotSt := if b = true then 1 else 0 }]
      ∧ (when b (askSlots s.sq.nextSid) u).sq.nextSid = s.sq.nextSid + 1
      ∧ (∀ k, queueOf (when b (askSlots s.sq.nextSid) u) k
          = if k = q then { queueOf s k with run := s.sq.nextSid + 1, quiet := 0, wdog := false } else queueOf s k)
      ∧ (when b (askSlots s.sq.nextSid) u).bl.slot = s.bl.slot
      ∧ (when b (askSlots s.sq.nextSid) u).bl.wait = s.bl.wait ++ if b = true then [s.sq.nextSid] else [] := by
  have hq : ∀ k, queueOf u k = if k = q then { queueOf s k with run := s.sq.nextSid + 1, quiet := 0, wdog := false } else queueOf s k :=
    fun k => (queueOf_of_sq hu k).trans (queueOf_beginSlip _ s k)
  have hl : u.sq.live = s.sq.live ++ [newSlip s q e] := by rw [hu]; rfl
  have hn : u.sq.nextSid = s.sq.nextSid + 1 := by rw [hu]; rfl
  cases b with
  | false => exact ⟨hl, hn, hq, by rw [← hb]; rfl, by rw [← hb]; exact (List.append_nil _).symm⟩
  | true =>
    refine ⟨?_, hn, hq, by rw [← hb]; rfl, by rw [← hb]; rfl⟩
    obtain ⟨-, hlt, -⟩ := hf
    refine (congrArg (List.map _) hl).trans ?_
    exact live_updSlip_new (x := newSlip s q e) (f := fun y => { y with slotSt := 1 }) hlt

/-- A register and the held deliveries written after a start. -/
theorem setReg_hd_leaves {s u : State} (h : Only [.regs, .sq, .tr, .dbg] s u) (o : Nat) (w : Word) (x : HeldSt) :
    Only [.regs, .sq, .hd, .tr, .dbg] s { setReg o w u with hd := x } ∧ ({ setReg o w u with hd := x } : State).sq = u.sq
      ∧ reg { setReg o w u with hd := x } o = w :=
  ⟨by simpa [Only.mk_iff] using h.mono (qs := [.regs, .sq, .hd, .tr, .dbg]) (by decide), rfl, reg_setReg_self o w u⟩

/-- HELD: the slip begins, its queue's LDONE is 0 and it waits for its reservation (R208). -/
theorem execHeld_starts {q : BitVec 6} {s : State} {e : Entry} (he : mayStart s q.toNat 4 = some e) {x : Slip}
    (hx : x = { newSlip s q.toNat e with held := some newHeld }) :
    ∃ t, exec (.held q) s = .next t ∧ Only [.regs, .sq, .hd, .tr, .dbg] s t ∧ t.sq = (beginSlip x s).sq ∧ reg t (0x2500 + 4 * q.toNat) = 0
      ∧ t.hd = { s.hd with wait := s.hd.wait ++ [s.sq.nextSid] } := by
  have hhd : (setReg (0x2500 + 4 * q.toNat) 0 (beginData 0 x s)).hd = s.hd := (setReg_hd _ _ _).trans (beginData_only _ _ _ .hd (by decide))
  have hx : exec (.held q) s = .next
      { setReg (0x2500 + 4 * q.toNat) 0 (beginData 0 x s) with hd := { s.hd with wait := s.hd.wait ++ [s.sq.nextSid] } } := by
    refine congrArg Host.Outcome.next ((startWith_starts he _).trans ?_)
    rw [show ((newSlip s q.toNat e).q % 64) = q.toNat from Nat.mod_eq_of_lt q.isLt, ← hx]
    dsimp only
    rw [hhd, hx]
    rfl
  obtain ⟨ho, hsq, hr⟩ := setReg_hd_leaves (beginData_only 0 x s) (0x2500 + 4 * q.toNat) 0 { s.hd with wait := s.hd.wait ++ [s.sq.nextSid] }
  exact ⟨_, hx, ho, hsq.trans (beginData_sq 0 x s), hr, rfl⟩

/-- Settles O31. -/
theorem slipsStart : Obligations.SlipsStart := by
  unfold Obligations.SlipsStart
  refine ⟨fun q s e c ty hc hf he => ?_, fun q s e he => ?_⟩
  · have hask : ∀ b u, Only [.regs, .sq, .bl, .tr, .dbg] u (when b (askSlots s.sq.nextSid) u) := fun b u =>
      Only.when (fun v => (askSlots_only _ v).mono (by decide)) b u
    have key : ∀ (u : State) (b : Bool), Only [.regs, .sq, .tr, .dbg] s u → u.sq = (beginSlip (newSlip s q.toNat e) s).sq →
        exec c s = .next (when b (askSlots s.sq.nextSid) u) → (b = true ↔ ty ≤ 3 ∧ sBlendEn e.words = true) →
        ∃ t, exec c s = .next t ∧ Only [.regs, .sq, .bl, .tr, .dbg] s t
        ∧ t.sq.live = s.sq.live ++ [{ newSlip s q.toNat e with slotSt := if ty ≤ 3 ∧ sBlendEn e.words = true then 1 else 0 }]
        ∧ t.sq.nextSid = s.sq.nextSid + 1
        ∧ queueOf t q.toNat = { queueOf s q.toNat with run := s.sq.nextSid + 1, quiet := 0, wdog := false }
        ∧ (∀ k, k ≠ q.toNat → queueOf t k = queueOf s k) ∧ t.bl.slot = s.bl.slot
        ∧ t.bl.wait = s.bl.wait ++ if ty ≤ 3 ∧ sBlendEn e.words = true then [s.sq.nextSid] else [] := fun u b ho hu hx hb => by
      obtain ⟨hlv, hn, hq, hs, hw⟩ := started_leaves hf hu (ho .bl (by decide)) b
      simp only [← hb]
      exact ⟨_, hx, (ho.mono (by decide)).trans (hask b u), hlv, hn, by rw [hq, if_pos rfl], fun k hk => by rw [hq, if_neg hk], hs, hw⟩
    have hplain : Only [.regs, .sq, .tr, .dbg] s (sbegin (newSlip s q.toNat e) (beginSlip (newSlip s q.toNat e) s)) :=
      ((beginSlip_only _ s).mono (by decide)).trans ((sbegin_only _ _).mono (by decide))
    simp only [List.mem_cons, List.not_mem_nil, or_false, Prod.mk.injEq] at hc
    obtain ⟨rfl, rfl⟩ | ⟨rfl, rfl⟩ | ⟨rfl, rfl⟩ | ⟨rfl, rfl⟩ | ⟨rfl, rfl⟩ | ⟨rfl, rfl⟩ := hc
    · exact key _ (sBlendEn e.words) (beginData_only 0 _ s) (beginData_sq 0 _ s) (congrArg Host.Outcome.next (startWith_starts he _)) (by simp)
    · exact key _ (sBlendEn e.words) (beginData_only 1 _ s) (beginData_sq 1 _ s) (congrArg Host.Outcome.next (startWith_starts he _)) (by simp)
    · exact key _ (sBlendEn e.words) (beginData_only 1 _ s) (beginData_sq 1 _ s) (congrArg Host.Outcome.next (startWith_starts he _)) (by simp)
    · exact key _ false hplain (sbegin_sq _ _) (congrArg Host.Outcome.next (startWith_starts he _)) (by simp)
    · exact key _ false hplain (sbegin_sq _ _) (congrArg Host.Outcome.next (startWith_starts he _)) (by simp)
    · exact key _ false hplain (sbegin_sq _ _) (congrArg Host.Outcome.next (startWith_starts he _)) (by simp)
  · obtain ⟨x, hx⟩ : ∃ x, x = { newSlip s q.toNat e with held := some newHeld } := ⟨_, rfl⟩
    have hsid : x.sid = s.sq.nextSid := by rw [hx]; rfl
    have hxq : x.q = q.toNat := by rw [hx]; rfl
    obtain ⟨t, ht, ho, hsq, hr, hhd⟩ := execHeld_starts he hx
    have hq : ∀ k, queueOf t k = _ := fun k => (queueOf_of_sq hsq k).trans (queueOf_beginSlip x s k)
    rw [← hx]
    refine ⟨t, ht, ho, ?_, ?_, ?_, fun k h => ?_, hr, hhd⟩
    · rw [hsq]
      rfl
    · rw [hsq]
      rfl
    · rw [hq, if_pos hxq.symm, hsid]
    · rw [hq, if_neg (by rwa [hxq])]

end Sys2Proof.Machine
end

section
/-!
PROOFS. Commits, fetch orders and decodes (R255 to R266).
-/
namespace Sys2Proof.Machine

/-- A queue with its staged word. -/
theorem queueOf_stageWord (q k i : Nat) (w : Word) (s : State) : queueOf (stageWord q i w s) k = if k = q then
    { queueOf s q with stage := BitVec.ofNat 512 (setBits (queueOf s q).stage.toNat (32 * i + 31) (32 * i) w.toNat) } else queueOf s k :=
  queueOf_updQueue _ _ _ _

/-! Refused commits (R256) -/

theorem refuseCommit_leaves {q : Nat} {s u : State} (hr : u.regs = s.regs) (hc : u.cnt = s.cnt) :
    (refuseCommit q u).sq = u.sq
      ∧ NMap.get 0 (refuseCommit q u).cnt (0x5798 + 0x40 * (sqCtx s q % 8)) = NMap.get 0 s.cnt (0x5798 + 0x40 * (sqCtx s q % 8)) + 1
      ∧ regB (refuseCommit q u) 0x7000 (if sqFetch s q = true then 30 else 29) = true := by
  have hctx : sqCtx u q = sqCtx s q := by simp only [sqCtx, regF, reg, hr]
  have hf : sqFetch u q = sqFetch s q := by simp only [sqFetch, regB, reg, hr]
  unfold refuseCommit
  dsimp only
  rw [hctx, hf]
  refine ⟨by rw [raise_sq, fillLog_sq, bump_sq], ?_, ?_⟩
  · rw [raise_cnt, fillLog_cnt, cnt_bump, if_pos rfl, hc]
    rfl
  · cases sqFetch s q with
    | false => exact raise_sets 29 _
    | true => exact raise_sets 30 _

/-- R256: why the staged slip does not join its queue. -/
def commitRefused (q : Nat) (s : State) : Prop :=
  purged s = true ∨ 32 ≤ (queueOf s q).ents.length ∨ sqEn s q = false
    ∨ (sqFetch s q = true ∧ ((queueOf s q).ford = false ∨ (queueOf s q).fleft = 0))

theorem commitStaged_refused {q : Nat} {s : State} (h : commitRefused q s) : commitStaged q s = refuseCommit q s :=
  if_pos (by simpa [commitRefused] using h)

/-- Staging a word changes no reason for a refusal. -/
theorem commitRefused_stageWord {q i : Nat} {w : Word} {s : State} (h : commitRefused q s) : commitRefused q (stageWord q i w s) := by
  have hr := stageWord_only q i w s
  unfold commitRefused
  rw [queueOf_stageWord, if_pos rfl]
  exact h

/-- A commit that is refused leaves the entries, and the other queues, as they were. -/
theorem commitSlip_refused {a : BusAcc} {q : Nat} {w : Word} {s : State}
    (h : ((queueOf s q).ford = true ∧ a.dma = false) ∨ staleCommit a q s = true ∨ commitRefused q s) :
    ∃ u, commitSlip a q w s = refuseCommit q u ∧ Only [.sq] s u ∧ u.sq.live = s.sq.live ∧ (queueOf u q).ents = (queueOf s q).ents
      ∧ ∀ k, k ≠ q → queueOf u k = queueOf s k := by
  unfold commitSlip
  split
  · exact ⟨s, rfl, Only.refl _ _, rfl, rfl, fun _ _ => rfl⟩
  next h1 =>
    split
    · refine ⟨_, rfl, (stageWord_only _ _ _ _).trans (updQueue_only _ _ _), rfl, ?_, fun k hk => ?_⟩
      · rw [queueOf_updQueue_self, queueOf_stageWord, if_pos rfl]
      · rw [queueOf_updQueue_ne hk, queueOf_stageWord, if_neg hk]
    next h2 =>
      have hc : commitRefused q s := by
        obtain h | h | h := h
        · exact absurd h (by simpa using h1)
        · exact absurd h h2
        · exact h
      refine ⟨_, commitStaged_refused (commitRefused_stageWord hc), stageWord_only _ _ _ _, rfl, ?_, fun k hk => ?_⟩
      · rw [queueOf_stageWord, if_pos rfl]
      · rw [queueOf_stageWord, if_neg hk]

/-! Accepted commits (R255 to R257) -/

/-- The queue that a commit leaves: the staging slip joins at the tail; in fetch mode the order has one slip less. -/
def committed (fetch : Bool) (x : SlipQ) : SlipQ :=
  { x with
    ents := x.ents ++ [⟨x.tail, x.stage, 0, 0⟩]
    tail := (x.tail + 1) % 32
    fleft := if fetch = true then x.fleft - 1 else x.fleft
    ford := x.ford && !(fetch && x.fleft == 1) }

/-- R257: FHEAD counts the commits of fetch mode. -/
def countHead (q : Nat) (s : State) : State := setRegF (0x310C + 16 * q) 31 16 (regF s (0x310C + 16 * q) 31 16 + 1) s

theorem commitStaged_accepted {q : Nat} {s : State} (hq : q < 64) (h : ¬ commitRefused q s) :
    commitStaged q s = when (sqFetch s q) (countHead q) (updQueue q (committed (sqFetch s q)) s) := by
  have h' : ¬ (purged s ∨ 32 ≤ (queueOf s q).ents.length ∨ !sqEn s q ∨ (sqFetch s q ∧ (!(queueOf s q).ford ∨ (queueOf s q).fleft = 0))) := by
    simpa [commitRefused] using h
  refine (if_neg h').trans ?_
  rw [Nat.mod_eq_of_lt hq]
  rfl

theorem commitSlip_accepted {a : BusAcc} {q : Nat} {w : Word} {s : State} (h1 : (queueOf s q).ford = false ∨ a.dma = true)
    (h2 : staleCommit a q s = false) : commitSlip a q w s = commitStaged q (stageWord q 15 w s) := by
  unfold commitSlip
  rw [if_neg (by rcases h1 with h | h <;> simp [h]), if_neg (by simp [h2])]

/-- What an accepted commit leaves. -/
theorem commitStaged_leaves {q : Nat} {s : State} (hq : q < 64) (h : ¬ commitRefused q s) :
    (∀ k, queueOf (commitStaged q s) k = if k = q then committed (sqFetch s q) (queueOf s q) else queueOf s k)
      ∧ (commitStaged q s).sq.live = s.sq.live ∧ Within [⟨0x310C + 16 * q, 0, 1⟩] s (commitStaged q s)
      ∧ regF (commitStaged q s) (0x310C + 16 * q) 31 16
          = (regF s (0x310C + 16 * q) 31 16 + if sqFetch s q = true then 1 else 0) % 65536 := by
  have hw : ∀ u, Within [⟨0x310C + 16 * q, 0, 1⟩] u (when (sqFetch s q) (countHead q) u) := Within.when (fun u => setRegF_within _ _ _ _ u) _
  have ho : ∀ u, Only [.regs] u (when (sqFetch s q) (countHead q) u) := Only.when (fun u => setRegF_only _ _ _ _ u) _
  rw [commitStaged_accepted hq h]
  refine ⟨fun k => ?_, by rw [ho _ .sq (by decide)]; rfl, (Within.of_only (updQueue_only _ _ _) (by decide)).trans (hw _), ?_⟩
  · rw [queueOf_of_sq (ho _ .sq (by decide)), queueOf_updQueue]
  · cases hf : sqFetch s q with
    | false => exact (Nat.mod_eq_of_lt (Nat.mod_lt _ (by decide))).symm
    | true => exact regF_setRegF (by decide)

/-! Decodes (R265) -/

/-- What marks an entry as decoded. -/
theorem queueOf_markDecoded (q k idx d : Nat) (s : State) : queueOf (markDecoded q idx d s) k = if k = q then
    { queueOf s q with ents := (queueOf s q).ents.map fun e => if e.idx = idx then { e with dec := d, seed := seedOf s (sCtx e.words) } else e }
    else queueOf s k := queueOf_updQueue _ _ _ _

theorem execSlipDecode_marks {q : BitVec 6} {s : State} {e : Entry} (hs : serving s = true) (h4 : (queueOf s q.toNat).stop ≠ 4)
    (he : nextDecode (match running? s q.toNat with | some y => y.met | none => false) (queueOf s q.toNat).ents = some e) :
    exec (.slipDecode q) s = .next (match decodeReason s q.toNat e.words with
      | none => markDecoded q.toNat e.idx 1 s
      | some r => settleHead q.toNat (markDecoded q.toNat e.idx (2 + r) s)) := by
  refine congrArg Host.Outcome.next ((if_neg (by simp [hs, h4])).trans ?_)
  split
  next h => exact absurd (h.symm.trans he) (by simp)
  next e' h =>
    obtain rfl := Option.some.inj (h.symm.trans he)
    rfl

/-- Settles O30. -/
theorem slipsEnterTheirQueues : Obligations.SlipsEnterTheirQueues := by
  unfold Obligations.SlipsEnterTheirQueues
  refine ⟨fun a q w s ha h1 h2 hp hl hen hfe => ?_, fun a q w s ha h => ?_, fun q s h => ?_, fun q s e hs h4 he => ?_⟩
  · have hq : q.toNat < 64 := q.isLt
    have hc : ¬ commitRefused q.toNat (stageWord q.toNat 15 w s) := by
      have hu : queueOf (stageWord q.toNat 15 w s) q.toNat = _ := (queueOf_stageWord _ _ _ _ _).trans (if_pos rfl)
      rintro (h | h | h | ⟨hf, h⟩)
      · exact absurd (hp ▸ h) (by simp)
      · rw [hu] at h
        exact absurd hl (Nat.not_lt.mpr h)
      · exact absurd (hen ▸ h) (by simp)
      · rw [hu] at h
        obtain ⟨h3, h4⟩ := hfe hf
        obtain h | h := h
        · exact absurd (h3 ▸ h) (by simp)
        · exact h4 h
    obtain ⟨t, ht, hans, ho, hin, hreg⟩ := written ha (commitSlip a q.toNat w)
    rw [commitSlip_accepted h1 h2] at ho hin hreg
    obtain ⟨hqs, hlive, hwi, hfh⟩ := commitStaged_leaves hq hc
    have hk : ∀ k, queueOf t k = _ := fun k => (queueOf_of_sq (ho .sq (by decide)) k).trans (hqs k)
    refine ⟨t, ht, hans, ?_, fun k h => ?_, by rw [ho .sq (by decide), hlive]; rfl,
      ((Within.of_only (stageWord_only _ _ _ _) (by decide)).trans hwi).trans (hin.mono rfl), (regF_eq_of_reg (hreg _)).trans hfh⟩
    · rw [hk, if_pos rfl, queueOf_stageWord, if_pos rfl]
      rfl
    · rw [hk, if_neg h, queueOf_stageWord, if_neg h]
  · obtain ⟨u, hu, ho, hlive, hents, hoth⟩ := commitSlip_refused (a := a) (q := q.toNat) (w := w) (s := s) h
    obtain ⟨hsq, hcnt, hreg7⟩ := refuseCommit_leaves (q := q.toNat) (ho .regs (by decide)) (ho .cnt (by decide))
    obtain ⟨t, ht, hans, hot, hin, hreg⟩ := written ha (commitSlip a q.toNat w)
    rw [hu] at hot hin hreg
    have hk : ∀ k, queueOf t k = queueOf u k := queueOf_of_sq ((hot .sq (by decide)).trans hsq)
    refine ⟨t, ht, hans, by rw [hk, hents], fun k h => by rw [hk, hoth k h], ?_, ?_, ?_⟩
    · rw [hot .sq (by decide), hsq, hlive]
    · rw [hot .cnt (by decide), hcnt]
    · rw [regB_eq_of_reg (hreg _), hreg7]
  · have hx : exec (.fetchOrder q) s = .next (land 61 ⟨fetchFlit s q.toNat, sideband 0 (sqCtx s q.toNat) true 0 0xF [] false, 0, 0, 0⟩
        (updRlane 61 (fun x => { x with cred := x.cred - 1 }) (updQueue q.toNat (fun x => { x with
          ford := true, fleft := fetchCount s q.toNat, fseq := x.fseq + 1, fctx := sqCtx s q.toNat }) s))) :=
      congrArg Host.Outcome.next (if_neg (by simp [h]))
    refine ⟨_, hx, ?_, ?_, fun k hk => ?_, ?_, fun l hl => ?_, rfl, rfl⟩
    · exact (((updQueue_only _ _ _).mono (by decide)).trans ((updRlane_only _ _ _).mono (by decide))).trans ((land_only _ _ _).mono (by decide))
    · rw [queueOf_of_sq (land_sq _ _ _), queueOf_of_sq (updRlane_sq _ _ _), queueOf_updQueue_self]
    · rw [queueOf_of_sq (land_sq _ _ _), queueOf_of_sq (updRlane_sq _ _ _), queueOf_updQueue_ne hk]
    · rw [land, rlane_updRlane, if_pos rfl, rlane_updRlane, if_pos rfl]
      rfl
    · rw [land, rlane_updRlane, if_neg hl, rlane_updRlane, if_neg hl]
      rfl
  · have hx := execSlipDecode_marks hs h4 he
    cases hd : decodeReason s q.toNat e.words with
    | none =>
      rw [hd] at hx
      exact ⟨_, hx, by rw [queueOf_markDecoded, if_pos rfl], fun k hk => by rw [queueOf_markDecoded, if_neg hk], rfl⟩
    | some r =>
      rw [hd] at hx
      obtain ⟨hoth, hlive, -, st, r', hself, -⟩ := settleHead_keeps q.toNat (markDecoded q.toNat e.idx (2 + r) s)
      refine ⟨_, hx, ?_, fun k hk => ?_, hlive⟩
      · rw [hself, queueOf_markDecoded, if_pos rfl]
      · rw [hoth k hk, queueOf_markDecoded, if_neg hk]

end Sys2Proof.Machine
end

section
/-!
PROOFS. Blend slots and their vectors (R183, R190).
-/
namespace Sys2Proof.Machine

/-- An update of one slip leaves the others. -/
theorem slipOf_updSlip_ne {sid i : Nat} {f : Slip → Slip} {s : State} (hf : ∀ y, (f y).sid = y.sid) (h : i ≠ sid) :
    slipOf (updSlip sid f s) i = slipOf s i := by
  unfold slipOf updSlip
  dsimp only
  generalize s.sq.live = l
  induction l with
  | nil => rfl
  | cons y l ih =>
    rw [List.map_cons, List.find?_cons, List.find?_cons]
    by_cases hy : y.sid = sid
    · have h1 : (y.sid == i) = false := by simp [hy, Ne.symm h]
      rw [if_pos (by simp [hy]), hf, h1, ih]
    · rw [if_neg (by simp [hy]), ih]

/-! Free slots -/

/-- The slots of all clusters. -/
def allSlots : List (List Nat) := (List.range 9).map fun c => (List.range 4).map (4 * c + ·)

theorem sublist_flatten {α : Type} {l m : List (List α)} (h : List.Sublist l m) : List.Sublist l.flatten m.flatten := by
  induction h with
  | slnil => exact List.Sublist.refl _
  | cons a _ ih => exact ih.trans (List.sublist_append_right a _)
  | cons_cons a _ ih => exact (List.Sublist.refl a).append ih

theorem freeUnits_sublist (s : State) (wide : Bool) : List.Sublist (freeUnits s wide).flatten allSlots.flatten := by
  unfold freeUnits allSlots
  split
  · exact sublist_flatten (List.filter_sublist.trans (List.filter_sublist.map _))
  · rw [← List.flatMap_def, List.flatMap_singleton', ← List.flatMap_def]
    exact List.filter_sublist.trans (sublist_flatten (List.filter_sublist.map _))

theorem freeUnits_free {s : State} {wide : Bool} {l : List Nat} {k : Nat} (hl : l ∈ freeUnits s wide) (hk : k ∈ l) : slotFree s k = true := by
  unfold freeUnits at hl
  split at hl
  · exact List.all_eq_true.mp (List.mem_filter.mp hl).2 k hk
  · obtain ⟨j, hj, rfl⟩ := List.mem_map.mp hl
    rw [List.mem_singleton.mp hk]
    exact (List.mem_filter.mp hj).2

/-- The slots picked are the first units, in order. -/
theorem pickSlots_slots {lanes : List Nat} {units : List (List Nat)} {l : List (Nat × Nat)} (h : pickSlots lanes units = some l) :
    l = (lanes.zip units).flatMap (fun p => p.2.map fun k => (p.1, k)) ∧ l.map (·.2) = (units.take lanes.length).flatten := by
  unfold pickSlots at h
  split at h
  · exact absurd h (by simp)
  next hn =>
    obtain rfl := Option.some.inj h
    refine ⟨rfl, ?_⟩
    calc ((lanes.zip units).flatMap fun p => p.2.map fun k => (p.1, k)).map (·.2)
        = (lanes.zip units).flatMap (fun p => p.2) := by
          rw [List.map_flatMap]
          exact congrArg (fun f => List.flatMap f _) (funext fun p => List.map_map.trans (List.map_id p.2))
      _ = ((lanes.zip units).map Prod.snd).flatten := List.flatMap_def
      _ = (units.take lanes.length).flatten := by
          rw [List.zip_eq_zip_take_min, Nat.min_eq_left (Nat.le_of_not_lt hn),
            List.map_snd_zip (by rw [List.length_take, List.length_take]; omega)]

/-- Keys that are set to one value. -/
theorem get_foldl_const (v : Nat) (l : List (Nat × Nat)) (m : NMap Nat) (k : Nat) :
    NMap.get 0 (l.foldl (fun m p => NMap.set 0 m p.2 v) m) k = if k ∈ l.map (·.2) then v else NMap.get 0 m k := by
  rw [← get_foldl_set (fun _ => v), List.foldl_map]

/-- Settles O36. -/
theorem blendSlotsGoToTheOldestRequest : Obligations.BlendSlotsGoToTheOldestRequest := by
  unfold Obligations.BlendSlotsGoToTheOldestRequest
  refine ⟨fun s sid rest x l hs hw hx hl => ?_, fun q s x hs hx h2 hv => ?_⟩
  · obtain ⟨hdef, hslots⟩ := pickSlots_slots hl
    have hsid : x.sid = sid := sid_of_slipOf hx
    refine ⟨updSlip sid (fun y => { y with slotSt := if vecTotal s y.words = 0 then 3 else 2, slots := l })
      { s with bl := { wait := rest, slot := l.foldl (fun m p => NMap.set 0 m p.2 (sid + 1)) s.bl.slot } },
      ?_, ?_, rfl, get_foldl_const _ _ _, fun p hp => ?_, ?_, slipOf_updSlip hx hsid, fun i hi => slipOf_updSlip_ne (fun _ => rfl) hi, rfl⟩
    · refine congrArg Host.Outcome.next ?_
      rw [hw]
      dsimp only
      rw [hx]
      dsimp only
      rw [hl]
      exact if_neg (by simp [hs])
    · simp [updSlip, Only.mk_iff, Only.refl]
    · rw [hdef] at hp
      obtain ⟨⟨lane, u⟩, hz, hp⟩ := List.mem_flatMap.mp hp
      obtain ⟨k, hk, rfl⟩ := List.mem_map.mp hp
      obtain ⟨hlane, hu⟩ := List.of_mem_zip hz
      exact ⟨freeUnits_free hu hk, hlane⟩
    · rw [hslots]
      refine List.Nodup.sublist ((sublist_flatten (List.take_sublist _ _)).trans (freeUnits_sublist s _)) ?_
      decide
  · have hxs := sid_of_running hx
    refine ⟨updSlip x.sid (fun y => { y with slotSt := 3 }) s, ?_, updSlip_only _ _ _, rfl, slipOf_updSlip hxs rfl,
      fun i hi => slipOf_updSlip_ne (fun _ => rfl) hi⟩
    refine congrArg Host.Outcome.next ?_
    rw [hx]
    exact if_pos (by simpa [hs, h2] using hv)

end Sys2Proof.Machine
end

section
/-!
PROOFS. Domain power (R334 to R339).
-/
namespace Sys2Proof.Machine

/-- One bit of a register. -/
theorem regB_setRegF_self {o i : Nat} {on : Bool} {s : State} (hi : i < 32) : regB (setRegF o i i (b2n on) s) o i = on := by
  have h := regF_setRegF (o := o) (hi := i) (lo := i) (v := b2n on) (s := s) hi
  have hk : i + 1 - i = 1 := by omega
  rw [hk, regF, bits, hk] at h
  rw [Nat.pow_one] at h
  rw [regB, bit, Nat.testBit_eq_decide_div_mod_eq, ← Nat.shiftRight_eq_div_pow, h]
  cases on <;> rfl

/-- A register of which one bit is set as a word has it, all others as they were. -/
theorem reg_setRegF_eq {o i : Nat} {w : Word} {s : State} (hi : i < 32) (h : ∀ j, j < 32 → j ≠ i → bit w.toNat j = regB s o j) :
    reg (setRegF o i i (b2n (bit w.toNat i)) s) o = w := by
  refine BitVec.eq_of_getLsbD_eq fun j hj => ?_
  rw [← bit_toNat, ← bit_toNat]
  by_cases hji : j = i
  · subst hji
    exact regB_setRegF_self hi
  · exact (regB_setRegF_ne (by omega) (by omega) hj).trans (h j hj hji).symm

/-- The one element that a filter keeps. -/
theorem filter_range_one {p : Nat → Bool} {n i : Nat} (hi : i < n) (h : ∀ j, j < n → j ≠ i → p j = false) :
    (List.range n).filter p = if p i = true then [i] else [] := by
  have hc : (List.range n).filter p = (List.range n).filter fun j => j == i && p i := List.filter_congr fun j hj => by
    by_cases hji : j = i
    · simp [hji]
    · simp [hji, h j (List.mem_range.mp hj) hji]
  rw [hc]
  cases p i with
  | false => simp
  | true => simp [List.filter_beq, List.count_range, hi]

/-- A write that changes one bit at most is that domain's request. -/
theorem requestDomains_one {w : Word} {s : State} {i : Nat} (hi : i < 32) (h : ∀ j, j < 32 → j ≠ i → bit w.toNat j = regB s 0x40A0 j) :
    requestDomains w s = if bit w.toNat i = regB s 0x40A0 i then s else requestDomain i (bit w.toNat i) s := by
  unfold requestDomains
  rw [filter_range_one (p := fun j => bit w.toNat j != regB s 0x40A0 j) hi fun j hj hji => by simp [h j hj hji]]
  by_cases hb : bit w.toNat i = regB s 0x40A0 i
  · simp [hb, forEach]
  · simp [hb, forEach]

theorem domOf_of_pw {s t : State} (h : t.pw = s.pw) (j : Nat) : domOf t j = domOf s j := by rw [domOf, domOf, h]

/-- A refused request (R338). -/
def domRefused (s : State) : State := raise 43 (orReg 0x4004 0x2000 s)

theorem requestDomain_refused {i : Nat} {on : Bool} {s : State} (h : domClosed s i = true ∨ (on = false ∧ planeLimit s i = true)) :
    requestDomain i on s = domRefused s := if_pos (by simpa using h)

theorem requestDomain_taken {i : Nat} {on : Bool} {s : State} (h : ¬ (domClosed s i = true ∨ (on = false ∧ planeLimit s i = true))) :
    requestDomain i on s = setDom i ((domOf s i).request ⟨if on then 2 else 0, false⟩) (setRegF 0x40A0 i i (b2n on) s) := if_neg (by simpa using h)

theorem BankPow.request_eq (p : BankPow) (r : PowReq) : p.request r = if p.trans.isSome = true ∨ p.wait.isSome = true then { p with held := some r }
    else if r.target = p.st then p else { p with wait := some r } := by
  unfold BankPow.request
  simp only [Bool.or_eq_true, beq_iff_eq]

theorem BankPow.finish_eq (p : BankPow) (r : PowReq) : p.finish r = match p.held with
    | none => ⟨r.target, none, none, none⟩
    | some h => if h.target > 2 ∨ (h.target = 1 ∧ r.target = 0) ∨ h.target = r.target then ⟨r.target, none, none, none⟩
        else ⟨r.target, none, some h, none⟩ := by
  unfold BankPow.finish
  cases p.held with
  | none => rfl
  | some h =>
    have hr : (⟨r.target, none, none, none⟩ : BankPow).refuses h.target = (decide (2 < h.target) || (h.target == 1 && r.target == 0)) := rfl
    have hq := BankPow.request_eq ⟨r.target, none, none, none⟩ h
    simp only [Option.isSome_none, Bool.false_eq_true, or_self, if_false] at hq
    dsimp only
    rw [hr, hq]
    by_cases h2 : h.target > 2 ∨ (h.target = 1 ∧ r.target = 0)
    · rw [if_pos (by simpa using h2), if_pos (h2.imp id .inl)]
    · rw [if_neg (by simpa using h2)]
      by_cases h3 : h.target = r.target
      · rw [if_pos h3, if_pos (.inr (.inr h3))]
      · rw [if_neg h3, if_neg fun h => h.elim (fun h => h2 (.inl h)) fun h => h.elim (fun h => h2 (.inr h)) h3]

/-- What a domain that reaches Off loses (R335). -/
theorem domLoses_leaves (i : Nat) (s : State) : Only [.rx] s (domLoses i s) ∧ (domLoses i s).rx.bkt = s.rx.bkt
    ∧ (i ∉ [27, 28, 30] → domLoses i s = s) := by
  unfold domLoses
  refine ⟨?_, ?_, fun h => ?_⟩
  · repeat' split
    all_goals simp [Only.mk_iff, Only.refl]
  · repeat' split
    all_goals rfl
  · simp only [List.mem_cons, List.not_mem_nil, or_false, not_or] at h
    rw [if_neg h.1, if_neg h.2.1, if_neg h.2.2]

/-- Settles O43. -/
theorem domainPowerFollowsItsRequests : Obligations.DomainPowerFollowsItsRequests := by
  unfold Obligations.DomainPowerFollowsItsRequests
  refine ⟨fun a w s i ha hi h => ?_, fun dom s r hr hw => ⟨fun h0 hidle => ?_, fun h2 hn hlow => ?_⟩, fun dom s r hr ht => ?_⟩
  · obtain ⟨t, ht, hans, ho, hin, hreg⟩ := written ha (requestDomains w)
    have hk : ∀ j, domOf t j = domOf (requestDomains w s) j := domOf_of_pw (ho .pw (by decide))
    refine ⟨t, ht, hans, ((requestDomains_only w s).mono (by decide)).trans (ho.mono (by decide)),
      ((requestDomains_within w s).mono (by decide)).trans (hin.mono (by decide)), fun j hj => ?_, ?_⟩
    · rw [hk, requestDomains_one hi h]
      split
      · rfl
      · by_cases hc : domClosed s i = true ∨ (bit w.toNat i = false ∧ planeLimit s i = true)
        · rw [requestDomain_refused hc]
          exact domOf_of_pw (by rw [domRefused, raise_pw, orReg_pw]) j
        · rw [requestDomain_taken hc, domOf_setDom, if_neg hj]
          exact domOf_of_pw (setReg_pw _ _ _) j
    · rw [requestDomains_one hi h] at ho hreg hk
      by_cases hb : bit w.toNat i = regB s 0x40A0 i
      · rw [if_pos hb] at ho
        rw [if_pos hb]
        exact ⟨ho .regs (by decide), ho .pw (by decide)⟩
      · rw [if_neg hb] at ho hreg hk ⊢
        by_cases hc : domClosed s i = true ∨ (bit w.toNat i = false ∧ planeLimit s i = true)
        · rw [requestDomain_refused hc] at ho hreg
          rw [if_pos hc]
          refine ⟨?_, ?_, ?_, ?_⟩
          · rw [ho .pw (by decide), domRefused, raise_pw, orReg_pw]
          · rw [hreg, domRefused, raise_reg, reg_orReg_ne (by decide)]
          · rw [regB_eq_of_reg (hreg _)]
            exact raise_keep (orReg_bit (i := 13) (by decide))
          · rw [regB_eq_of_reg (hreg _)]
            exact raise_sets 43 _
        · rw [requestDomain_taken hc] at hreg hk
          rw [if_neg hc]
          refine ⟨?_, ?_, ?_⟩
          · rw [hreg]
            exact reg_setRegF_eq hi h
          · rw [hreg]
            exact reg_setReg_ne (by decide) _ _
          · rw [hk, domOf_setDom, if_pos rfl]
            exact BankPow.request_eq _ _
  · refine ⟨setDom dom.toNat ((domOf s dom.toNat).start r) s, ?_, setDom_only _ _ _, fun j => ?_⟩
    · refine congrArg Host.Outcome.next ?_
      rw [hw]
      exact if_pos (by simp [hr, h0, hidle])
    · rw [domOf_setDom]
      split
      next h => rw [h]; rfl
      · rfl
  · refine ⟨setDom dom.toNat ((domOf s dom.toNat).start r) s, ?_, setDom_only _ _ _, fun j => ?_⟩
    · refine congrArg Host.Outcome.next ?_
      rw [hw]
      have hup : mayRise s dom.toNat = true := by
        simp only [mayRise, Bool.and_eq_true, decide_eq_true_eq, List.all_eq_true, List.mem_range, Bool.not_eq_true']
        exact ⟨⟨by simp [waitingUp, hw, h2], hn⟩, hlow⟩
      exact if_pos (by simp [hr, hup])
    · rw [domOf_setDom]
      split
      next h => rw [h]; rfl
      · rfl
  · have hx : exec (.domainTransitionDone dom) s = .next (setDom dom.toNat ((domOf s dom.toNat).finish r) (when (r.target == 0) (domLoses dom.toNat) s)) := by
      refine congrArg Host.Outcome.next ?_
      rw [ht]
      exact if_pos (by simp [hr])
    obtain ⟨hl, hbkt, hno⟩ := domLoses_leaves dom.toNat s
    have hu : Only [.rx] s (when (r.target == 0) (domLoses dom.toNat) s) := Only.when (fun u => (domLoses_leaves _ u).1) _ _
    have hd : ∀ j, domOf (when (r.target == 0) (domLoses dom.toNat) s) j = domOf s j := domOf_of_pw (hu .pw (by decide))
    have h0 : r.target = 0 → when (r.target == 0) (domLoses dom.toNat) s = domLoses dom.toNat s := fun h => if_pos (by simp [h])
    have h1 : r.target ≠ 0 → when (r.target == 0) (domLoses dom.toNat) s = s := fun h => if_neg (by simp [h])
    refine ⟨_, hx, (hu.mono (by decide)).trans ((setDom_only _ _ _).mono (by decide)), ?_, fun h => ?_, fun h => ⟨fun hd => ?_, fun hd => ?_, fun hd => ?_⟩,
      fun j hj => ?_, ?_⟩
    · rw [setDom_rx]
      by_cases h : r.target = 0
      · rw [h0 h, hbkt]
      · rw [h1 h]
    · rw [setDom_rx]
      by_cases h2 : r.target = 0
      · rw [h0 h2, hno (h.resolve_left (Classical.not_not.mpr h2))]
      · rw [h1 h2]
    · rw [setDom_rx, h0 h, hd]
      exact ⟨rfl, rfl⟩
    · rw [setDom_rx, h0 h, hd]
      rfl
    · rw [setDom_rx, h0 h, hd]
      rfl
    · rw [domOf_setDom, if_neg hj, hd]
    · exact (domOf_setDom _ _ _ _).trans ((if_pos rfl).trans (BankPow.finish_eq _ _))

end Sys2Proof.Machine
end

section
/-!
PROOFS. Requests of bank power (R51 to R60).
-/
namespace Sys2Proof.Machine

theorem powOf_of_pow {s t : State} (h : t.bank.pow = s.bank.pow) (pb : Nat) : powOf t pb = powOf s pb := by rw [powOf, powOf, h]

/-- The map of the logical banks stands in its registers. -/
theorem pbankOf_of_regs {s t : State} {lb : Nat} (hl : lb < 96) (h : ∀ o, 0x7100 ≤ o → o < 0x7160 → reg t o = reg s o) : pbankOf t lb = pbankOf s lb := by
  unfold pbankOf regArr
  rw [if_neg (by omega), if_neg (by omega), if_neg (by omega), if_neg (by omega), h _ (by omega) (by omega)]

/-- A cause writes no register of the maps. -/
theorem raise_reg_high {n o : Nat} {s : State} (h : 0x7024 ≤ o) : reg (raise n s) o = reg s o := by
  refine (raise_within n s).reg o ?_
  rw [Bool.eq_false_iff]
  intro hp
  simp only [List.any_cons, List.any_nil, Span.has, Bool.or_false, Bool.or_eq_true, Bool.and_eq_true, Nat.ble_eq] at hp
  omega

/-! One request -/

theorem requestBank_eq {lb target : Nat} {zf : Bool} {s : State} (hm : s.fw.mig = none) :
    requestBank lb target zf s = if (powOf s (pbankOf s lb)).refuses target = true then refusePower lb s
      else setPow (pbankOf s lb) ((powOf s (pbankOf s lb)).request ⟨target, zf⟩) s := by
  have hs : ∀ u : State, u.fw.mig = none → requestSpare lb ⟨target, zf⟩ u = u := fun u hu => by
    unfold requestSpare
    rw [hu]
  unfold requestBank
  dsimp only
  rw [hs (setPow _ _ s) hm]

/-- What every bank request keeps: the map, the migration, what is already refused and other registers. -/
structure BankReqKeeps (s t : State) : Prop where
  map : ∀ lb, lb < 96 → pbankOf t lb = pbankOf s lb
  mig : t.fw.mig = s.fw.mig
  perr : ∀ j i, j < 3 → regB s (0x08C0 + 4 * j) i = true → regB t (0x08C0 + 4 * j) i = true
  event : regB s 0x7004 9 = true → regB t 0x7004 9 = true
  preq : ∀ o, o < 0x08C0 → reg t o = reg s o

theorem BankReqKeeps.refl (s : State) : BankReqKeeps s s := ⟨fun _ _ => rfl, rfl, fun _ _ _ h => h, fun h => h, fun _ _ => rfl⟩

theorem BankReqKeeps.trans {s t u : State} (h : BankReqKeeps s t) (k : BankReqKeeps t u) : BankReqKeeps s u :=
  ⟨fun lb hl => (k.map lb hl).trans (h.map lb hl), k.mig.trans h.mig, fun j i hj hb => k.perr j i hj (h.perr j i hj hb),
    fun hb => k.event (h.event hb), fun o ho => (k.preq o ho).trans (h.preq o ho)⟩

theorem refusePower_keeps {lb : Nat} (s : State) : BankReqKeeps s (refusePower lb s) := by
  have hlow : ∀ n o (u : State), o < 0x6000 → reg (raise n u) o = reg u o := fun n o u h => raise_reg_low h
  unfold refusePower
  refine ⟨fun k hk => pbankOf_of_regs hk fun o h1 h2 => ?_, by rw [raise_fw, orReg_fw], fun j i hj hb => ?_, fun hb => ?_, fun o ho => ?_⟩
  · rw [raise_reg_high (by omega), reg_orReg_ne (by omega)]
  · rw [regB_eq_of_reg (hlow _ _ _ (by omega))]
    exact orReg_keep hb
  · exact raise_keep (orReg_keep hb)
  · rw [hlow _ _ _ (by omega), reg_orReg_ne (by omega)]

/-- A refused request is reported. -/
theorem refusePower_reports {lb : Nat} (hl : lb < 96) (s : State) :
    regB (refusePower lb s) (0x08C0 + 4 * (lb / 32)) (lb % 32) = true ∧ regB (refusePower lb s) 0x7004 9 = true := by
  have hj : lb / 32 % 3 = lb / 32 := Nat.mod_eq_of_lt (by omega)
  refine ⟨?_, raise_sets 41 _⟩
  unfold refusePower
  rw [hj, regB_eq_of_reg (raise_reg_low (by omega))]
  exact orReg_bit (Nat.mod_lt _ (by decide))

theorem requestBank_keeps {lb target : Nat} {zf : Bool} {s : State} (hm : s.fw.mig = none) : BankReqKeeps s (requestBank lb target zf s) := by
  rw [requestBank_eq hm]
  split
  · exact refusePower_keeps s
  · exact ⟨fun _ _ => rfl, rfl, fun _ _ _ h => h, fun h => h, fun _ _ => rfl⟩

/-! The requests of a word -/

/-- The request of a word for its `k`th bank. -/
def preqAt (w : Word) (k : Nat) : PowReq := ⟨bits w.toNat (4 * k + 1) (4 * k), bit w.toNat (4 * k + 2)⟩

/-- What a request leaves of its bank: refused and reported, or taken. -/
def BankAsked (lb : Nat) (r : PowReq) (s t : State) : Prop :=
  if (powOf s (pbankOf s lb)).refuses r.target = true then
    powOf t (pbankOf s lb) = powOf s (pbankOf s lb) ∧ regB t (0x08C0 + 4 * (lb / 32)) (lb % 32) = true ∧ regB t 0x7004 9 = true
  else powOf t (pbankOf s lb) = (powOf s (pbankOf s lb)).request r

theorem requestBank_asks {lb : Nat} {r : PowReq} {s : State} (hl : lb < 96) (hm : s.fw.mig = none) :
    BankAsked lb r s (requestBank lb r.target r.zfill s)
      ∧ ∀ pb, pb ≠ pbankOf s lb → powOf (requestBank lb r.target r.zfill s) pb = powOf s pb := by
  rw [requestBank_eq hm]
  unfold BankAsked
  by_cases h : (powOf s (pbankOf s lb)).refuses r.target = true
  · have hp : ∀ pb, powOf (refusePower lb s) pb = powOf s pb :=
      powOf_of_pow (by rw [refusePower_only lb s .bank (by decide)])
    rw [if_pos h, if_pos h]
    exact ⟨⟨hp _, refusePower_reports hl s⟩, fun pb _ => hp pb⟩
  · rw [if_neg h, if_neg h]
    exact ⟨by rw [powOf_setPow, if_pos rfl], fun pb hpb => by rw [powOf_setPow, if_neg hpb]⟩

theorem BankAsked.later {lb : Nat} {r : PowReq} {s t u : State} (hl : lb < 96) (h : BankAsked lb r s t) (hk : BankReqKeeps t u)
    (hp : powOf u (pbankOf s lb) = powOf t (pbankOf s lb)) : BankAsked lb r s u := by
  unfold BankAsked at h ⊢
  rw [hp]
  split
  next hr =>
    rw [if_pos hr] at h
    exact ⟨h.1, hk.perr _ _ (by omega) h.2.1, hk.event h.2.2⟩
  next hr => rwa [if_neg hr] at h

theorem BankAsked.earlier {lb : Nat} {r : PowReq} {s t u : State} (h : BankAsked lb r t u) (hm : pbankOf t lb = pbankOf s lb)
    (hp : powOf t (pbankOf s lb) = powOf s (pbankOf s lb)) : BankAsked lb r s u := by
  unfold BankAsked at h ⊢
  rwa [hm, hp] at h

/-- The requests of listed banks behind different physical banks. -/
theorem requestBanks_asked {n : Nat} {w : Word} (hn : n < 12) {l : List Nat} {s : State} (hl : ∀ k ∈ l, k < 8) (hd : l.Nodup) (hm : s.fw.mig = none)
    (hinj : ∀ j ∈ l, ∀ k ∈ l, pbankOf s (8 * n + j) = pbankOf s (8 * n + k) → j = k) :
    let t := forEach l (fun k => requestBank (8 * n + k) (preqAt w k).target (preqAt w k).zfill) s
    BankReqKeeps s t ∧ (∀ k ∈ l, BankAsked (8 * n + k) (preqAt w k) s t)
      ∧ ∀ pb, (∀ k ∈ l, pb ≠ pbankOf s (8 * n + k)) → powOf t pb = powOf s pb := by
  induction l generalizing s with
  | nil => exact ⟨BankReqKeeps.refl s, fun k hk => absurd hk List.not_mem_nil, fun _ _ => rfl⟩
  | cons k l ih =>
    have hk8 : k < 8 := hl k (List.mem_cons_self ..)
    have hkeep := requestBank_keeps (lb := 8 * n + k) (target := (preqAt w k).target) (zf := (preqAt w k).zfill) hm
    obtain ⟨hask, hoth⟩ := requestBank_asks (lb := 8 * n + k) (r := preqAt w k) (by omega) hm
    have hmap : ∀ j ∈ l, pbankOf (requestBank (8 * n + k) (preqAt w k).target (preqAt w k).zfill s) (8 * n + j) = pbankOf s (8 * n + j) := fun j hj =>
      hkeep.map _ (by have := hl j (List.mem_cons_of_mem _ hj); omega)
    obtain ⟨hnk, hdl⟩ := List.nodup_cons.mp hd
    have hne : ∀ j ∈ l, pbankOf s (8 * n + k) ≠ pbankOf s (8 * n + j) := fun j hj he =>
      hnk (hinj k (List.mem_cons_self ..) j (List.mem_cons_of_mem _ hj) he ▸ hj)
    obtain ⟨hkeeps, hasks, hrest⟩ := ih (s := requestBank (8 * n + k) (preqAt w k).target (preqAt w k).zfill s)
      (fun j hj => hl j (List.mem_cons_of_mem _ hj)) hdl (hkeep.mig.trans hm)
      (fun i hi j hj he => hinj i (List.mem_cons_of_mem _ hi) j (List.mem_cons_of_mem _ hj) (by rwa [hmap i hi, hmap j hj] at he))
    refine ⟨hkeep.trans hkeeps, fun j hj => ?_, fun pb hpb => ?_⟩
    · rcases List.mem_cons.mp hj with rfl | hj
      · exact hask.later (by omega) hkeeps (hrest _ fun i hi => by rw [hmap i hi]; exact hne i hi)
      · exact (hasks j hj).earlier (hmap j hj) (hoth _ (hne j hj).symm)
    · exact (hrest pb fun j hj => by rw [hmap j hj]; exact hpb j (List.mem_cons_of_mem _ hj)).trans (hoth pb (hpb k (List.mem_cons_self ..)))

theorem bits_lt (w hi lo : Nat) : bits w hi lo < 2 ^ (hi + 1 - lo) := Nat.mod_lt _ (Nat.two_pow_pos _)

theorem bits_two_lt (w k : Nat) : bits w (4 * k + 1) (4 * k) < 4 := by
  have h := bits_lt w (4 * k + 1) (4 * k)
  rwa [show 4 * k + 1 + 1 - 4 * k = 2 by omega] at h

/-- A request of a word is refused for the target that no state has, and for Retention of a bank on its way Off. -/
theorem preqAt_refused {p : BankPow} {w : Word} {k : Nat} :
    p.refuses (preqAt w k).target = true ↔ (preqAt w k).target = 3 ∨ ((preqAt w k).target = 1 ∧ p.ending = 0) := by
  have h : (preqAt w k).target < 4 := bits_two_lt w.toNat k
  rw [BankPow.refuses, Bool.or_eq_true, Bool.and_eq_true, decide_eq_true_iff, beq_iff_eq, beq_iff_eq]
  exact or_congr_left (by omega)

/-- BANK_PREQ_WRITE: the eight requests of the word. -/
theorem requestBanks_within_word {n : Nat} (hn : n < 12) (w : Word) (s : State) :
    Within ([⟨0x0840 + 4 * n, 0, 1⟩, ⟨0x08C0, 4, 3⟩] ++ eventRegs) s (requestBanks n w s) := by
  have hf : Within ([⟨0x08C0, 4, 3⟩] ++ eventRegs) (setReg (0x0840 + 4 * n) w s) (requestBanks n w s) := by
    unfold requestBanks
    rw [Nat.mod_eq_of_lt hn]
    exact Within.forEach (fun k u => requestBank_within _ _ _ u) _ _
  exact ((setReg_within _ w s).mono (by simp [spansIn, Span.inside])).trans (hf.mono (by simp [spansIn, Span.inside, eventRegs]))

theorem requestBanks_all {n : Nat} {w : Word} {s : State} (hn : n < 12) (hm : s.fw.mig = none)
    (hinj : ∀ j k, j < 8 → k < 8 → pbankOf s (8 * n + j) = pbankOf s (8 * n + k) → j = k) :
    reg (requestBanks n w s) (0x0840 + 4 * n) = w ∧ (∀ k, k < 8 → BankAsked (8 * n + k) (preqAt w k) s (requestBanks n w s))
      ∧ ∀ pb, (∀ k, k < 8 → pb ≠ pbankOf s (8 * n + k)) → powOf (requestBanks n w s) pb = powOf s pb := by
  have hmap : ∀ k, k < 8 → pbankOf (setReg (0x0840 + 4 * n) w s) (8 * n + k) = pbankOf s (8 * n + k) := fun k hk =>
    pbankOf_of_regs (by omega) fun o h1 h2 => reg_setReg_ne (by omega) _ _
  have hpow : ∀ pb, powOf (setReg (0x0840 + 4 * n) w s) pb = powOf s pb := fun _ => rfl
  have heq : requestBanks n w s =
      forEach (List.range 8) (fun k => requestBank (8 * n + k) (preqAt w k).target (preqAt w k).zfill) (setReg (0x0840 + 4 * n) w s) := by
    rw [requestBanks, Nat.mod_eq_of_lt hn]
    rfl
  rw [heq]
  obtain ⟨hkeep, hask, hrest⟩ := requestBanks_asked (w := w) hn (l := List.range 8) (s := setReg (0x0840 + 4 * n) w s)
    (fun k hk => List.mem_range.mp hk) List.nodup_range hm
    (fun j hj k hk he => hinj j k (List.mem_range.mp hj) (List.mem_range.mp hk) (by
      rwa [hmap j (List.mem_range.mp hj), hmap k (List.mem_range.mp hk)] at he))
  refine ⟨(hkeep.preq _ (by omega)).trans (reg_setReg_self _ _ _), fun k hk => (hask k (List.mem_range.mpr hk)).earlier (hmap k hk) (hpow _), fun pb hpb => ?_⟩
  exact (hrest pb fun k hk => by rw [hmap k (List.mem_range.mp hk)]; exact hpb k (List.mem_range.mp hk)).trans (hpow pb)

theorem bankPreqWrite_asks {a : BusAcc} {n : BitVec 4} {w : Word} {s : State} (hn : n.toNat < 12) (ha : accepts a true (0x0840 + 4 * n.toNat) s)
    (hm : s.fw.mig = none) (hinj : ∀ j k, j < 8 → k < 8 → pbankOf s (8 * n.toNat + j) = pbankOf s (8 * n.toNat + k) → j = k) :
    ∃ t, exec (.bankPreqWrite a n w) s = .next t ∧ answered 0 t ∧ reg t (0x0840 + 4 * n.toNat) = w
      ∧ Only [.regs, .bus, .bank, .tr, .dbg] s t ∧ Within ([⟨0x0840 + 4 * n.toNat, 0, 1⟩, ⟨0x08C0, 4, 3⟩] ++ eventRegs) s t
      ∧ (∀ k, k < 8 → BankAsked (8 * n.toNat + k) (preqAt w k) s t)
      ∧ ∀ pb, (∀ k, k < 8 → pb ≠ pbankOf s (8 * n.toNat + k)) → powOf t pb = powOf s pb := by
  obtain ⟨hw, hask, hrest⟩ := requestBanks_all (w := w) hn hm hinj
  obtain ⟨t, he, hans, hon, hwi, hreg⟩ := written ha (requestBanks n.toNat w)
  have hp : ∀ pb, powOf t pb = powOf (requestBanks n.toNat w s) pb := powOf_of_pow (by rw [hon .bank (by decide)])
  refine ⟨t, (congrArg Host.Outcome.next (if_pos hn)).trans he, hans, (hreg _).trans hw, ?_, ?_, fun k hk => ?_, fun pb hpb => (hp pb).trans (hrest pb hpb)⟩
  · exact ((requestBanks_only _ w s).mono rfl).trans (hon.mono rfl)
  · exact (requestBanks_within_word hn w s).trans (hwi.mono rfl)
  · have h := hask k hk
    unfold BankAsked at h ⊢
    rwa [hp, regB_eq_of_reg (hreg _), regB_eq_of_reg (hreg 0x7004)]

/-- BANK_POWERUP_START. -/
theorem bankPowerupStart_starts {bank : Nat} {s : State} {r : PowReq} (hs : inReset s = false) (hb : bank < 100) (hw : (powOf s bank).wait = some r)
    (ht : r.target = 2) (hn : ncount ((List.range 100).map fun b => poweringUp (powOf s b)) < maxUp s)
    (ho : ∀ b, b < 100 → waitingUp (powOf s b) = true → wakeOrder s bank ≤ wakeOrder s b) :
    exec (.bankPowerupStart bank) s = .next (setPow bank { powOf s bank with trans := some ⟨2, zfillOf s bank r⟩, wait := none } s) := by
  have hm : mayWake s bank = true := by
    have hu : waitingUp (powOf s bank) = true := by rw [waitingUp, hw]; simp [ht]
    rw [mayWake, hu, decide_eq_true hn, Bool.true_and, Bool.true_and, List.all_eq_true]
    intro b hbm
    cases hwb : waitingUp (powOf s b) with
    | false => rfl
    | true => simpa using ho b (List.mem_range.mp hbm) hwb
  refine congrArg Host.Outcome.next ?_
  rw [hw]
  dsimp only
  rw [hs, decide_eq_true hb, hm, ht.symm]
  rfl

theorem only_bank (s : State) (b : BankSt) : Only [.bank] s { s with bank := b } := by
  intro p hp
  cases p
  case bank => exact absurd (List.mem_singleton.mpr rfl) hp
  all_goals rfl

/-! A write-back slot whose row is stored -/

theorem storeChunks_keeps {α : Type} (g : State → α) (hg : ∀ pb row c d p s, g (storeChunk pb row c d p s) = g s) (pb row en : Nat) (d : Row) (p : Mask4)
    (s : State) : g (storeChunks pb row en d p s) = g s :=
  forEach_keep g fun c _ u => by
    cases h : bit en c with
    | false => rfl
    | true => exact hg pb row c _ _ u

theorem dropWb_pow (lb row en : Nat) (s : State) : (dropWb lb row en s).bank.pow = s.bank.pow := by
  unfold dropWb
  split
  · split <;> rfl
  · rfl

theorem dropWb_none {lb row en k : Nat} {s : State} (h : NMap.get none s.bank.wb k = none) : NMap.get none (dropWb lb row en s).bank.wb k = none := by
  unfold dropWb
  split
  · split
    · exact (NMap.get_set none s.bank.wb none lb k).trans (by rw [h, ite_self])
    · exact h
  · exact h

/-- A stored row keeps the power states, and empties no slot but gives none. -/
theorem storeRow_bank (lb row en : Nat) (d : Row) (p : Mask4) (cls wt : Nat) (s : State) :
    (storeRow lb row en d p cls wt s).bank.pow = s.bank.pow
      ∧ ∀ k, NMap.get none s.bank.wb k = none → NMap.get none (storeRow lb row en d p cls wt s).bank.wb k = none := by
  have hb : (storeRow lb row en d p cls wt s).bank
      = (dropWb ((logicalOf s lb).getD lb) row en (storeChunks (pbankOf s lb) row en d p s)).bank := by
    refine ((estimate_only 2 1 _) .bank (by decide)).trans (((estimate_only 1 1 _) .bank (by decide)).trans ((dualWrite_only lb _ row en cls wt _) .bank (by decide)))
  rw [hb]
  refine ⟨(dropWb_pow _ _ _ _).trans (storeChunks_keeps (fun u => u.bank.pow) (fun _ _ _ _ _ _ => rfl) _ _ _ _ _ _), fun k hk => dropWb_none ?_⟩
  exact (congrArg (fun m => NMap.get none m k) (storeChunks_keeps (fun u => u.bank.wb) (fun _ _ _ _ _ _ => rfl) _ _ _ _ _ _)).trans hk

theorem storeWb_none {lb : Nat} {s : State} (h : NMap.get none s.bank.wb lb = none) : storeWb lb s = s := by rw [storeWb, h]

theorem storeWb_some {lb : Nat} {s : State} {w : WbSlot} (h : NMap.get none s.bank.wb lb = some w) :
    storeWb lb s = storeRow lb w.row (2 ^ w.chunk) (BitVec.ofNat 1024 (w.data.toNat <<< (256 * w.chunk))) 0 7 0
      { s with bank := { s.bank with wb := NMap.set none s.bank.wb lb none } } := by rw [storeWb, h]

theorem storeWb_bank (lb : Nat) (s : State) : (storeWb lb s).bank.pow = s.bank.pow ∧ NMap.get none (storeWb lb s).bank.wb lb = none := by
  cases h : NMap.get none s.bank.wb lb with
  | none => rw [storeWb_none h]; exact ⟨rfl, h⟩
  | some w =>
    rw [storeWb_some h]
    obtain ⟨hp, hk⟩ := storeRow_bank lb w.row (2 ^ w.chunk) (BitVec.ofNat 1024 (w.data.toNat <<< (256 * w.chunk))) 0 7 0
      { s with bank := { s.bank with wb := NMap.set none s.bank.wb lb none } }
    exact ⟨hp, hk lb (NMap.get_set_self none s.bank.wb lb none)⟩

theorem storeWb_stored {lb : Nat} {s : State} {w : WbSlot} (h : NMap.get none s.bank.wb lb = some w) (hr : w.row < 512) :
    Stored (pbankOf s lb) w.row (2 ^ w.chunk) (BitVec.ofNat 1024 (w.data.toNat <<< (256 * w.chunk))) 0 s (storeWb lb s) := by
  rw [storeWb_some h]
  exact (storeRow_stored lb w.row _ _ 0 7 0 { s with bank := { s.bank with wb := NMap.set none s.bank.wb lb none } } hr).congr
    ⟨rfl, rfl, rfl, rfl, rfl, rfl⟩ (sameBanks.refl _)

theorem lbankOf_spec {s : State} {pb lb : Nat} (h : lbankOf s pb = some lb) : lb < 96 ∧ pbankOf s lb = pb := by
  obtain ⟨hp, hm⟩ := And.intro (List.find?_some h) (List.mem_of_find?_eq_some h)
  exact ⟨List.mem_range.mp hm, by simpa using hp⟩

theorem settleWb_none {pb : Nat} (target : Nat) {s : State} (h : lbankOf s pb = none) : settleWb pb target s = s := by rw [settleWb, h]

theorem settleWb_drops {pb lb target : Nat} {s : State} (h : lbankOf s pb = some lb) (ht : target ≠ 1) :
    settleWb pb target s = { s with bank := { s.bank with wb := NMap.set none s.bank.wb lb none } } := by
  rw [settleWb, h]
  exact if_neg (by simpa using ht)

theorem settleWb_stores {pb lb : Nat} {s : State} (h : lbankOf s pb = some lb) : settleWb pb 1 s = storeWb lb s := by
  rw [settleWb, h]
  rfl

theorem settleWb_bank (pb target : Nat) (s : State) : (settleWb pb target s).bank.pow = s.bank.pow
    ∧ ∀ lb, lbankOf s pb = some lb → NMap.get none (settleWb pb target s).bank.wb lb = none := by
  cases h : lbankOf s pb with
  | none => rw [settleWb_none target h]; exact ⟨rfl, fun lb hl => by cases hl⟩
  | some lb =>
    suffices hs : (settleWb pb target s).bank.pow = s.bank.pow ∧ NMap.get none (settleWb pb target s).bank.wb lb = none from
      ⟨hs.1, fun k hk => by cases hk; exact hs.2⟩
    by_cases ht : target = 1
    · subst ht
      rw [settleWb_stores h]
      exact storeWb_bank lb s
    · rw [settleWb_drops h ht]
      exact ⟨rfl, NMap.get_set_self none s.bank.wb lb none⟩

/-- A slot that is not stored leaves memory alone. -/
theorem settleWb_quiet {pb target : Nat} {s : State} (h : ∀ lb, lbankOf s pb = some lb → target ≠ 1 ∨ NMap.get none s.bank.wb lb = none) :
    Only [.bank] s (settleWb pb target s) := by
  cases hl : lbankOf s pb with
  | none => rw [settleWb_none target hl]; exact Only.refl _ _
  | some lb =>
    by_cases ht : target = 1
    · subst ht
      rw [settleWb_stores hl, storeWb_none ((h lb hl).resolve_left fun hn => hn rfl)]
      exact Only.refl _ _
    · rw [settleWb_drops hl ht]
      exact only_bank s _

/-! Power-down -/

theorem pbankOf_of_regs_eq {s t : State} (h : t.regs = s.regs) (lb : Nat) : pbankOf t lb = pbankOf s lb := by
  unfold pbankOf regArr reg
  rw [h]


/-- The bank of `bank` on its way down, before a migration ends. -/
def bankFalls (bank : Nat) (r : PowReq) (s : State) : State := setPow bank ((powOf s bank).start r) (settleWb bank r.target s)

theorem bankPowerdownStart_eq {bank : Nat} {s : State} {r : PowReq} (hs : inReset s = false) (hb : bank < 100) (hw : (powOf s bank).wait = some r)
    (ht : r.target ≠ 2) (hbe : beatsAt s bank = false) :
    exec (.bankPowerdownStart bank) s = .next (offEndsMig bank r.target (bankFalls bank r s)) := by
  have hm : mayFall s bank = true := by
    rw [mayFall, hw, hbe]
    simpa using ht
  refine congrArg Host.Outcome.next ?_
  rw [hw]
  dsimp only
  rw [hs, decide_eq_true hb, hm]
  rfl

theorem bankFalls_only (bank : Nat) (r : PowReq) (s : State) : Only [.mem, .bank, .fw, .pw] s (bankFalls bank r s) :=
  (settleWb_only bank r.target s).trans ((setPow_only _ _ _).mono rfl)

theorem bankFalls_quiet {bank : Nat} {r : PowReq} {s : State} (h : ∀ lb, lbankOf s bank = some lb → r.target ≠ 1 ∨ NMap.get none s.bank.wb lb = none) :
    Only [.bank] s (bankFalls bank r s) := (settleWb_quiet h).trans (setPow_only _ _ _)

theorem bankFalls_pow (bank : Nat) (r : PowReq) (s : State) (b : Nat) :
    powOf (bankFalls bank r s) b = if b = bank then (powOf s bank).start r else powOf s b := by
  rw [bankFalls, powOf_setPow, powOf_of_pow (settleWb_bank bank r.target s).1]

theorem bankFalls_map (bank : Nat) (r : PowReq) (s : State) (lb : Nat) : pbankOf (bankFalls bank r s) lb = pbankOf s lb :=
  pbankOf_of_regs_eq (bankFalls_only bank r s .regs (by decide)) lb

/-- Without a migration of the bank on its way Off, nothing ends. -/
theorem offEndsMig_none {bank target : Nat} {s : State} (h : ∀ m, s.fw.mig = some m → pbankOf s m.lb ≠ bank ∨ target ≠ 0) : offEndsMig bank target s = s := by
  unfold offEndsMig
  split
  next m hm => exact if_neg fun hc => (h m hm).elim (fun hn => hn hc.2) fun hn => hn hc.1
  next => rfl

theorem bankPowerdownStart_falls {bank : Nat} {s : State} {r : PowReq} (hs : inReset s = false) (hb : bank < 100)
    (hmig : ∀ m, s.fw.mig = some m → pbankOf s m.lb ≠ bank ∨ r.target ≠ 0) (hw : (powOf s bank).wait = some r)
    (ht : r.target ≠ 2) (hbe : beatsAt s bank = false) : exec (.bankPowerdownStart bank) s = .next (bankFalls bank r s) := by
  rw [bankPowerdownStart_eq hs hb hw ht hbe]
  refine congrArg Host.Outcome.next (offEndsMig_none fun m hm => ?_)
  by_cases h0 : r.target = 0
  · have hq : Only [.bank] s (bankFalls bank r s) := bankFalls_quiet fun lb _ => .inl (by rw [h0]; decide)
    rw [bankFalls_map]
    exact hmig m ((congrArg FwdSt.mig (hq .fw (by decide))).symm.trans hm)
  · exact .inr h0

theorem bankPowerdownStart_settles {bank : Nat} {s : State} {r : PowReq} (hs : inReset s = false) (hb : bank < 100)
    (hmig : ∀ m, s.fw.mig = some m → pbankOf s m.lb ≠ bank ∨ r.target ≠ 0) (hw : (powOf s bank).wait = some r)
    (ht : r.target ≠ 2) (hbe : beatsAt s bank = false) :
    ∃ t, exec (.bankPowerdownStart bank) s = .next t ∧ powOf t bank = { powOf s bank with trans := some r, wait := none }
      ∧ (∀ b, b ≠ bank → powOf t b = powOf s b) ∧ t.regs = s.regs
      ∧ (∀ lb, lbankOf s bank = some lb → NMap.get none t.bank.wb lb = none)
      ∧ ((∀ lb, lbankOf s bank = some lb → r.target ≠ 1 ∨ NMap.get none s.bank.wb lb = none) → t.mem = s.mem ∧ Only [.bank] s t)
      ∧ ∀ lb w, lbankOf s bank = some lb → r.target = 1 → NMap.get none s.bank.wb lb = some w → w.row < 512 →
          Stored bank w.row (2 ^ w.chunk) (BitVec.ofNat 1024 (w.data.toNat <<< (256 * w.chunk))) 0 s t := by
  refine ⟨_, bankPowerdownStart_falls hs hb hmig hw ht hbe, (bankFalls_pow ..).trans (if_pos rfl), fun b hbn => (bankFalls_pow ..).trans (if_neg hbn),
    bankFalls_only bank r s .regs (by decide), (settleWb_bank bank r.target s).2, fun h => ⟨bankFalls_quiet h .mem (by decide), bankFalls_quiet h⟩,
    fun lb w hl h1 hg hr => ?_⟩
  have hst := storeWb_stored hg hr
  rw [(lbankOf_spec hl).2] at hst
  refine hst.congr (sameBanks.refl s) ?_
  rw [bankFalls, h1, settleWb_stores hl]
  exact ⟨rfl, rfl, rfl, rfl, rfl, rfl⟩

/-! The migration of a bank on its way Off -/

theorem retire_trans (p : BankPow) (h : p.trans.isSome = true) : p.retire.trans = p.trans := by
  unfold BankPow.retire
  cases ht : p.trans with
  | some r => rfl
  | none => rw [ht] at h; cases h

/-- A migration's end but for its entry: the map, the retired bank and the request held. -/
def migMoved (m : Mig) (held : Option PowReq) (tail : Option Mig) (s : State) : State :=
  let u := setPow (pbankOf s m.lb) (powOf s (pbankOf s m.lb)).retire
    (clrReg (0x7078 + 4 * (m.lb / 32 % 3)) (2 ^ (m.lb % 32)) (orReg (0x7090 + 4 * (pbankOf s m.lb / 32 % 4)) (2 ^ (pbankOf s m.lb % 32)) (dropJobs Job.isMig
      (setRegF (0x7100 + 4 * (m.lb / 4 % 24)) (8 * (m.lb % 4) + 7) (8 * (m.lb % 4)) m.pb
        { s with
          fw := { s.fw with mig := tail, wcnt := NMap.set 0 s.fw.wcnt (unitKey 0 m.lb) 0 }
          fr := { s.fr with trs := s.fr.trs.map (leaveBehind m.lb (pbankOf s m.lb)) }
          bank := { s.bank with wb := NMap.set none s.bank.wb m.lb none } }))))
  match held with
  | some r => setPow m.pb ((powOf u m.pb).request r) u
  | none => u

theorem finishMig_eq (m : Mig) (held : Option PowReq) (tail : Option Mig) (s : State) :
    finishMig m held tail s = fwdDone 0 false m.lb m.pb m.trig (migMoved m held tail s) := rfl

theorem migMoved_tm (m : Mig) (held : Option PowReq) (tail : Option Mig) (s : State) : (migMoved m held tail s).tm = s.tm := by
  cases held <;> rfl

theorem migMoved_fw (m : Mig) (held : Option PowReq) (tail : Option Mig) (s : State) :
    (migMoved m held tail s).fw = { s.fw with mig := tail, wcnt := NMap.set 0 s.fw.wcnt (unitKey 0 m.lb) 0 } := by
  cases held <;> rfl

theorem fwdDone_fw (kind : Nat) (nospare : Bool) (unit dest trig : Nat) (s : State) : (fwdDone kind nospare unit dest trig s).fw
    = { s.fw with ents := s.fw.ents ++ [fwdEntryOf kind nospare unit dest trig s] } := by
  unfold fwdDone
  rw [raise_fw]

theorem fwdEntryOf_of_tm {kind unit dest trig : Nat} {nospare : Bool} {s t : State} (h : t.tm = s.tm) :
    fwdEntryOf kind nospare unit dest trig t = fwdEntryOf kind nospare unit dest trig s := by
  unfold fwdEntryOf timeNow
  rw [h]

theorem finishMig_fw (m : Mig) (held : Option PowReq) (tail : Option Mig) (s : State) : (finishMig m held tail s).fw.mig = tail
    ∧ (finishMig m held tail s).fw.ents = s.fw.ents ++ [fwdEntryOf 0 false m.lb m.pb m.trig s] := by
  rw [finishMig_eq, fwdDone_fw, migMoved_fw, fwdEntryOf_of_tm (migMoved_tm m held tail s)]
  exact ⟨rfl, rfl⟩

theorem finishMig_reports (m : Mig) (held : Option PowReq) (tail : Option Mig) (s : State) : regB (finishMig m held tail s) 0x7000 10 = true :=
  raise_sets 10 _

/-- The map's registers at a migration's end. -/
theorem finishMig_reg {m : Mig} {held : Option PowReq} {tail : Option Mig} {s : State} {o : Nat} (hm : m.lb < 96) (h : 0x7100 ≤ o) :
    reg (finishMig m held tail s) o = reg (setRegF (0x7100 + 4 * (m.lb / 4)) (8 * (m.lb % 4) + 7) (8 * (m.lb % 4)) m.pb s) o := by
  have hh : ∀ u : State, reg (match held with | some r => setPow m.pb ((powOf u m.pb).request r) u | none => u) o = reg u o := fun u => by
    cases held <;> rfl
  rw [finishMig_eq, fwdDone, raise_reg_high (by omega)]
  refine (hh _).trans ?_
  rw [show m.lb / 4 % 24 = m.lb / 4 by omega]
  exact (reg_clrReg_ne (by omega)).trans (reg_orReg_ne (by omega))

theorem finishMig_map {m : Mig} {held : Option PowReq} {tail : Option Mig} {s : State} {lb : Nat} (hm : m.lb < 96) (hl : lb < 96) (hp : m.pb < 100) :
    pbankOf (finishMig m held tail s) lb = if lb = m.lb then m.pb else pbankOf s lb := by
  have hF : ∀ u : State, pbankOf u lb = regF u (0x7100 + 4 * (lb / 4)) (8 * (lb % 4) + 7) (8 * (lb % 4)) % 128 := fun u => by
    unfold pbankOf
    rw [if_neg (by omega), if_neg (by omega)]
    rfl
  have hr : ∀ hi lo, regF (finishMig m held tail s) (0x7100 + 4 * (lb / 4)) hi lo
      = regF (setRegF (0x7100 + 4 * (m.lb / 4)) (8 * (m.lb % 4) + 7) (8 * (m.lb % 4)) m.pb s) (0x7100 + 4 * (lb / 4)) hi lo := fun hi lo => by
    rw [regF, finishMig_reg hm (by omega), regF]
  rw [hF, hF, hr]
  by_cases he : lb = m.lb
  · rw [if_pos he, he, regF_setRegF (by omega), show 8 * (m.lb % 4) + 7 + 1 - 8 * (m.lb % 4) = 8 by omega]
    omega
  · rw [if_neg he]
    by_cases hq : lb / 4 = m.lb / 4
    · rw [hq, regF_setRegF_ne (by omega) (by omega) (by omega)]
    · have hne : 0x7100 + 4 * (lb / 4) ≠ 0x7100 + 4 * (m.lb / 4) := by omega
      rw [regF, regF, setRegF, reg_setReg_ne hne]

theorem finishMig_pow {m : Mig} {held : Option PowReq} {tail : Option Mig} {s : State} (h : m.pb ≠ pbankOf s m.lb) :
    powOf (finishMig m held tail s) (pbankOf s m.lb) = (powOf s (pbankOf s m.lb)).retire
      ∧ powOf (finishMig m held tail s) m.pb = match held with | some r => (powOf s m.pb).request r | none => powOf s m.pb := by
  have hp : ∀ b, powOf (finishMig m held tail s) b = powOf (migMoved m held tail s) b :=
    powOf_of_pow (congrArg BankSt.pow (fwdDone_only 0 false m.lb m.pb m.trig (migMoved m held tail s) .bank (by decide)))
  rw [hp, hp]
  cases held with
  | none => exact ⟨(powOf_setPow ..).trans (if_pos rfl), (powOf_setPow ..).trans (if_neg h)⟩
  | some r =>
    refine ⟨(powOf_setPow ..).trans ((if_neg h.symm).trans ((powOf_setPow ..).trans (if_pos rfl))), (powOf_setPow ..).trans ((if_pos rfl).trans ?_)⟩
    exact congrArg (BankPow.request · r) ((powOf_setPow ..).trans (if_neg h))

theorem offEndsMig_ends {bank : Nat} {m : Mig} {s : State} (hm : s.fw.mig = some m) (hb : pbankOf s m.lb = bank) :
    offEndsMig bank 0 s = if m.phase < 4 then finishMig m (powOf s bank).held none s else endTail s := by
  unfold offEndsMig
  rw [hm]
  exact if_pos ⟨rfl, hb⟩

theorem bankFalls_off {bank : Nat} {r : PowReq} (s : State) (h : r.target = 0) : Only [.bank] s (bankFalls bank r s) :=
  bankFalls_quiet fun _ _ => .inl (by rw [h]; decide)

/-- A bank on its way Off after its migration's switch ends the dual accesses of the migration. -/
theorem bankPowerdownStart_endsTail {bank : Nat} {s : State} {r : PowReq} {m : Mig} (hs : inReset s = false) (hb : bank < 100) (hm : s.fw.mig = some m)
    (hpb : pbankOf s m.lb = bank) (hw : (powOf s bank).wait = some r) (ht : r.target = 0) (hbe : beatsAt s bank = false) (hph : 4 ≤ m.phase) :
    ∃ t, exec (.bankPowerdownStart bank) s = .next t ∧ t.mem = s.mem ∧ t.fw.mig = none ∧ t.regs = s.regs ∧ (powOf t bank).trans = some r := by
  have ho := bankFalls_off (bank := bank) s ht
  have he := endTail_only (bankFalls bank r s)
  refine ⟨endTail (bankFalls bank r s), ?_, (he .mem (by decide)).trans (ho .mem (by decide)), rfl, (he .regs (by decide)).trans (ho .regs (by decide)), ?_⟩
  · rw [bankPowerdownStart_eq hs hb hw (by rw [ht]; decide) hbe, ht, offEndsMig_ends ((congrArg FwdSt.mig (ho .fw (by decide))).trans hm) ((bankFalls_map ..).trans hpb),
      if_neg (by omega)]
  · rw [powOf_of_pow (congrArg BankSt.pow (he .bank (by decide))), bankFalls_pow, if_pos rfl]
    rfl

/-- A bank on its way Off before the switch of its migration ends the migration at its spare. -/
theorem bankPowerdownStart_endsMigration {bank : Nat} {s : State} {r : PowReq} {m : Mig} (hs : inReset s = false) (hb : bank < 100)
    (hm : s.fw.mig = some m) (hpb : pbankOf s m.lb = bank) (hw : (powOf s bank).wait = some r) (ht : r.target = 0) (hbe : beatsAt s bank = false)
    (hl : m.lb < 96) (hp : m.pb < 100) (hph : m.phase < 4) (hne : m.pb ≠ bank) :
    ∃ t, exec (.bankPowerdownStart bank) s = .next t ∧ t.mem = s.mem ∧ t.fw.mig = none ∧ regB t 0x7000 10 = true
      ∧ (∀ lb, lb < 96 → pbankOf t lb = if lb = m.lb then m.pb else pbankOf s lb) ∧ (powOf t bank).trans = some r
      ∧ powOf t m.pb = (match (powOf s bank).held with | some h => (powOf s m.pb).request h | none => powOf s m.pb)
      ∧ t.fw.ents = s.fw.ents ++ [BitVec.ofNat 64 (16 * m.lb + 65536 * m.pb + 2 ^ 24 * m.trig + 2 ^ 32 * bits s.tm.t.toNat 61 30)] := by
  have ho := bankFalls_off (bank := bank) s ht
  have hpu : pbankOf (bankFalls bank r s) m.lb = bank := (bankFalls_map ..).trans hpb
  have hself : powOf (bankFalls bank r s) bank = (powOf s bank).start r := (bankFalls_pow ..).trans (if_pos rfl)
  obtain ⟨hmig, hents⟩ := finishMig_fw m ((powOf s bank).start r).held none (bankFalls bank r s)
  obtain ⟨hold, hnew⟩ := finishMig_pow (held := ((powOf s bank).start r).held) (tail := none) (s := bankFalls bank r s) (by rwa [hpu])
  have hfw : (bankFalls bank r s).fw = s.fw := ho .fw (by decide)
  refine ⟨finishMig m ((powOf s bank).start r).held none (bankFalls bank r s), ?_, (finishMig_only _ _ _ _ .mem (by decide)).trans (ho .mem (by decide)), hmig,
    finishMig_reports .., fun lb hlb => ?_, ?_, ?_, ?_⟩
  · rw [bankPowerdownStart_eq hs hb hw (by rw [ht]; decide) hbe, ht, offEndsMig_ends ((congrArg FwdSt.mig hfw).trans hm) hpu,
      if_pos hph, hself]
  · rw [finishMig_map hl hlb hp, bankFalls_map]
  · rw [hpu] at hold
    rw [hold, hself]
    exact retire_trans _ rfl
  · rw [hnew, bankFalls_pow, if_neg hne]
    rfl
  · rw [hents, hfw, fwdEntryOf_of_tm (ho .tm (by decide))]
    have hk : (fwdEntryOf 0 false m.lb m.pb m.trig s)
        = BitVec.ofNat 64 (0 + 0 <<< 3 + m.lb <<< 4 + m.pb <<< 16 + m.trig <<< 24 + bits s.tm.t.toNat 61 30 <<< 32) := rfl
    rw [hk]
    simp only [Nat.shiftLeft_eq]
    congr 3
    omega

/-! Contents of a bank at a transition's end -/

theorem get_filter_out {α : Type} (d : α) (p : Nat × α → Bool) (m : NMap α) (k : Nat) (h : ∀ v, p (k, v) = false) : NMap.get d (m.filter p) k = d := by
  induction m with
  | nil => rfl
  | cons e m ih =>
    obtain ⟨j, v⟩ := e
    by_cases hp : p (j, v) = true
    · have hne : j ≠ k := by
        rintro rfl
        rw [h v] at hp
        cases hp
      rw [List.filter_cons_of_pos hp]
      simpa [NMap.get, hne] using ih
    · rw [List.filter_cons_of_neg hp]
      exact ih

theorem chunkKey_bank {pb row c : Nat} (hr : row < 512) (hc : c < 4) : chunkKey pb row c / 2048 = pb := by
  unfold chunkKey
  omega

theorem clearBank_init {pb e row c : Nat} {zf : Bool} {s : State} (hr : row < 512) (hc : c < 4) : chunkInit (clearBank pb e zf s) pb row c = zf := by
  have hi : NMap.get false (clearBank pb e zf s).bank.init (chunkKey pb row c) = false :=
    get_filter_out false _ s.bank.init _ fun v => by simp [chunkKey_bank hr hc]
  have hz : NMap.get false (clearBank pb e zf s).bank.zf pb = zf := NMap.get_set_self false s.bank.zf pb zf
  rw [chunkInit, hi, hz, Bool.or_false]

theorem chunkAt_init (s : State) (pb row c : Nat) : (chunkAt s pb row c).init = chunkInit s pb row c := by
  unfold chunkAt
  dsimp only
  cases h : chunkInit s pb row c <;> simp

theorem memChunk_cleared {pb row c : Nat} (m : List Host.Cell) (hr : row < 512) (hc : c < 4) :
    memChunk (m.filter fun e => e.1 / 65536 != pb) (65536 * pb + 128 * row + 32 * c) = 0 := by
  have hg : ∀ i ∈ List.range 32, (NMap.get (0 : Byte) (m.filter fun e => e.1 / 65536 != pb) (65536 * pb + 128 * row + 32 * c + i)).toNat = 0 := fun i hi => by
    have hi32 := List.mem_range.mp hi
    rw [get_filter_out (0 : Byte) _ m _ fun v => by simp [show (65536 * pb + 128 * row + 32 * c + i) / 65536 = pb by omega]]
    rfl
  rw [memChunk, List.map_congr_left hg]
  decide

/-- A bank powered up with ZFILL reads 0x00, initialised and not poisoned. -/
theorem zeroBank_chunk {pb row c : Nat} {s : State} (hr : row < 512) (hc : c < 4) : chunkAt (zeroBank pb s) pb row c = ⟨0, false, true, []⟩ := by
  have hi : chunkInit (zeroBank pb s) pb row c = true := clearBank_init hr hc
  have hp : NMap.get false (zeroBank pb s).bank.pois (chunkKey pb row c) = false :=
    get_filter_out false _ s.bank.pois _ fun v => by simp [chunkKey_bank hr hc]
  have hf : NMap.get [] (zeroBank pb s).bank.flips (chunkKey pb row c) = [] :=
    get_filter_out [] _ s.bank.flips _ fun v => by simp [chunkKey_bank hr hc]
  have hm : memChunk (zeroBank pb s).mem (65536 * pb + 128 * row + 32 * c) = 0 := memChunk_cleared s.mem hr hc
  unfold chunkAt
  dsimp only
  rw [if_pos hi, hm, hp, hf]
  rfl

theorem refuseHeld_bank (pb : Nat) (p : BankPow) (n : Nat) (s : State) : (refuseHeld pb p n s).bank = s.bank :=
  refuseHeld_only pb p n s .bank (by decide)

theorem powerContents_pow (pb n : Nat) (r : PowReq) (s : State) : (powerContents pb n r s).bank.pow = s.bank.pow := by
  unfold powerContents
  split
  · rfl
  · split
    · split
      · rfl
      · rfl
    · rfl

theorem powerContents_kept {pb n : Nat} {r : PowReq} {s : State} (hn : n ≠ 0) (ht : r.target ≠ 0) : powerContents pb n r s = s := by
  unfold powerContents
  rw [if_neg (by simpa using ht), if_neg (by simp [hn])]

theorem powerContents_off {pb n : Nat} {r : PowReq} {s : State} (ht : r.target = 0) : powerContents pb n r s = clearBank pb 0 false s :=
  if_pos (by simpa using ht)

theorem powerContents_on {pb : Nat} {r : PowReq} {s : State} (ht : r.target = 2) :
    powerContents pb 0 r s = if r.zfill = true then estimate 1 512 (zeroBank pb s) else eraseBank pb s := by
  unfold powerContents
  rw [ht]
  rfl

/-- A transition's end. -/
def bankReached (bank : Nat) (r : PowReq) (s : State) : State :=
  setPow bank ((powOf s bank).finish r) (refuseHeld bank (powOf s bank) r.target (powerContents bank (powOf s bank).st r s))

theorem bankTransitionDone_eq {bank : Nat} {s : State} {r : PowReq} (hs : inReset s = false) (hb : bank < 100) (hp : purging s = false)
    (ht : (powOf s bank).trans = some r) : exec (.bankTransitionDone bank) s = .next (bankReached bank r s) := by
  refine congrArg Host.Outcome.next ?_
  rw [ht]
  dsimp only
  rw [hs, decide_eq_true hb, hp]
  rfl

theorem bankReached_pow (bank : Nat) (r : PowReq) (s : State) (b : Nat) :
    powOf (bankReached bank r s) b = if b = bank then (powOf s bank).finish r else powOf s b := by
  rw [bankReached, powOf_setPow, powOf_of_pow ((congrArg BankSt.pow (refuseHeld_bank ..)).trans (powerContents_pow ..))]

theorem bankReached_banks (bank : Nat) (r : PowReq) (s : State) : sameBanks (powerContents bank (powOf s bank).st r s) (bankReached bank r s) :=
  (sameBanks.of_only (refuseHeld_only bank (powOf s bank) r.target _) (by decide)).trans ⟨rfl, rfl, rfl, rfl, rfl, rfl⟩

theorem refuseHeld_reports {pb lb n : Nat} {p : BankPow} {h : PowReq} {s : State} (hh : p.held = some h) (hl : lbankOf s pb = some lb)
    (hr : h.target > 2 ∨ (h.target = 1 ∧ n = 0)) : regB (refuseHeld pb p n s) 0x7004 9 = true := by
  have hq : (BankPow.mk n none none none).refuses h.target = true := by
    have he : (BankPow.mk n none none none).refuses h.target = (decide (2 < h.target) || (h.target == 1 && n == 0)) := rfl
    rw [he]
    simpa using hr
  unfold refuseHeld
  rw [hh, hl]
  dsimp only
  rw [if_pos hq]
  exact (refusePower_reports (lbankOf_spec hl).1 s).2

theorem lbankOf_of_regs {s t : State} (h : t.regs = s.regs) (pb : Nat) : lbankOf t pb = lbankOf s pb := by
  unfold lbankOf
  congr 1
  funext lb
  rw [pbankOf_of_regs_eq h]

/-- The request held at a transition's end: applied from the state reached, or refused. -/
theorem bankReached_held (bank : Nat) (r : PowReq) (s : State) :
    match (powOf s bank).held with
    | none => powOf (bankReached bank r s) bank = ⟨r.target, none, none, none⟩
    | some h => if h.target > 2 ∨ (h.target = 1 ∧ r.target = 0) then
        powOf (bankReached bank r s) bank = ⟨r.target, none, none, none⟩
          ∧ (∀ lb, lbankOf s bank = some lb → regB (bankReached bank r s) 0x7004 9 = true)
      else powOf (bankReached bank r s) bank = ⟨r.target, none, if h.target = r.target then none else some h, none⟩ := by
  have hp : powOf (bankReached bank r s) bank = (powOf s bank).finish r := (bankReached_pow ..).trans (if_pos rfl)
  have hf := BankPow.finish_eq (powOf s bank) r
  split
  next hh =>
    rw [hh] at hf
    exact hp.trans hf
  next h hh =>
    rw [hh] at hf
    split
    next hr =>
      refine ⟨hp.trans (hf.trans (if_pos (hr.imp id .inl))), fun lb hl => ?_⟩
      exact refuseHeld_reports hh ((lbankOf_of_regs (powerContents_only _ _ _ _ .regs (by decide)) bank).trans hl) hr
    next hr =>
      refine hp.trans (hf.trans ?_)
      by_cases he : h.target = r.target
      · exact (if_pos (.inr (.inr he))).trans (by rw [if_pos he])
      · exact (if_neg fun hc => hc.elim (fun k => hr (.inl k)) fun k => k.elim (fun k => hr (.inr k)) he).trans (by rw [if_neg he])

/-- What a bank holds at a transition's end. -/
theorem bankReached_contents (bank : Nat) (r : PowReq) (s : State) :
    ((powOf s bank).st ≠ 0 → r.target ≠ 0 → (bankReached bank r s).mem = s.mem)
      ∧ (r.target = 0 → (bankReached bank r s).mem = s.mem.filter (fun e => e.1 / 65536 != bank)
        ∧ ∀ row c, row < 512 → c < 4 → (chunkAt (bankReached bank r s) bank row c).init = false)
      ∧ (r.target = 2 → (powOf s bank).st = 0 → ∀ row c, row < 512 → c < 4 →
        (chunkAt (bankReached bank r s) bank row c).init = r.zfill
          ∧ (r.zfill = true → chunkAt (bankReached bank r s) bank row c = ⟨0, false, true, []⟩)) := by
  have hsame := bankReached_banks bank r s
  refine ⟨fun hst ht => ?_, fun ht => ?_, fun ht hst row c hr hc => ?_⟩
  · rw [powerContents_kept hst ht] at hsame
    exact hsame.1
  · rw [powerContents_off ht] at hsame
    refine ⟨hsame.1, fun row c hr hc => ?_⟩
    rw [hsame.chunkAt, chunkAt_init, clearBank_init hr hc]
  · rw [hst, powerContents_on ht] at hsame
    rw [hsame.chunkAt]
    cases hz : r.zfill with
    | true =>
      have he := (sameBanks.of_only (estimate_only 1 512 (zeroBank bank s)) (by decide)).chunkAt bank row c
      rw [if_pos rfl, he, zeroBank_chunk hr hc]
      exact ⟨rfl, fun _ => rfl⟩
    | false =>
      refine ⟨?_, fun h => absurd h (by decide)⟩
      rw [if_neg (by decide), chunkAt_init]
      exact clearBank_init hr hc

/-- Settles O42: bank requests, starts and ends of transitions, and the migration that a bank's way Off ends. -/
theorem bankPowerFollowsItsRequests : Obligations.BankPowerFollowsItsRequests := by
  unfold Obligations.BankPowerFollowsItsRequests
  refine ⟨?_, ?_, ?_, ?_, ?_⟩
  · intro a n w s hn ha hm hinj
    obtain ⟨t, he, hans, hw, hon, hwi, hask, hrest⟩ := bankPreqWrite_asks (w := w) hn ha hm hinj
    refine ⟨t, he, hans, hw, hon, hwi, fun k hk => ?_, hrest⟩
    have h := hask k hk
    unfold BankAsked at h
    rw [BankPow.request_eq] at h
    by_cases hr : (powOf s (pbankOf s (8 * n.toNat + k))).refuses (preqAt w k).target = true
    · rw [if_pos hr] at h
      exact (if_pos (preqAt_refused.mp hr)).mpr h
    · rw [if_neg hr] at h
      exact (if_neg fun hc => hr (preqAt_refused.mpr hc)).mpr h
  · intro bank s r hs hb hw ht hn ho
    refine ⟨_, bankPowerupStart_starts hs hb hw ht hn ho, setPow_only _ _ _, (powOf_setPow ..).trans (if_pos rfl),
      fun b hbn => (powOf_setPow ..).trans (if_neg hbn), rfl⟩
  · intro bank s r hs hb hmig hw ht hbe
    exact bankPowerdownStart_settles hs hb hmig hw ht hbe
  · intro bank s r m hs hb hm hpb hw ht hbe hl hp
    exact ⟨bankPowerdownStart_endsTail hs hb hm hpb hw ht hbe, bankPowerdownStart_endsMigration hs hb hm hpb hw ht hbe hl hp⟩
  · intro bank s r hs hb hp ht
    obtain ⟨hkeep, hoff, hon⟩ := bankReached_contents bank r s
    exact ⟨_, bankTransitionDone_eq hs hb hp ht, fun b hbn => (bankReached_pow ..).trans (if_neg hbn), bankReached_held bank r s, hkeep, hoff, hon⟩

end Sys2Proof.Machine
end

section
/-!
PROOFS. The two-party commit (R392 to R398).
-/
namespace Sys2Proof.Machine

/-! Fields of a register -/

/-- A field that a mask leaves alone. -/
theorem testBit_masked {m hi lo i : Nat} (h : bits m hi lo = 0) (hi' : i < hi + 1 - lo) : m.testBit (lo + i) = false := by
  have hb := testBit_bits m hi lo i
  rw [h, Nat.zero_testBit, decide_eq_true hi', Bool.true_and] at hb
  exact hb.symm

theorem regF_orReg_ne {o m hi lo : Nat} {s : State} (h : bits m hi lo = 0) : regF (orReg o m s) o hi lo = regF s o hi lo := by
  unfold regF orReg
  rw [reg_setReg_self]
  refine Nat.eq_of_testBit_eq fun i => ?_
  rw [testBit_bits, testBit_bits]
  by_cases hi' : i < hi + 1 - lo
  · rw [BitVec.toNat_or, Nat.testBit_or, BitVec.toNat_ofNat, Nat.testBit_mod_two_pow, testBit_masked h hi', Bool.and_false, Bool.or_false]
  · rw [decide_eq_false hi', Bool.false_and, Bool.false_and]

theorem regF_clrReg_ne {o m hi lo : Nat} {s : State} (h : bits m hi lo = 0) : regF (clrReg o m s) o hi lo = regF s o hi lo := by
  unfold regF clrReg
  rw [reg_setReg_self]
  refine Nat.eq_of_testBit_eq fun i => ?_
  rw [testBit_bits, testBit_bits]
  by_cases hi' : i < hi + 1 - lo
  · have hm : (BitVec.ofNat 32 m).getLsbD (lo + i) = false := by
      rw [BitVec.getLsbD_ofNat, testBit_masked h hi', Bool.and_false]
    have hr : (reg s o &&& ~~~ (BitVec.ofNat 32 m)).getLsbD (lo + i) = (reg s o).getLsbD (lo + i) := by
      rw [BitVec.getLsbD_and, BitVec.getLsbD_not, hm, Bool.not_false, Bool.and_true]
      cases hx : (reg s o).getLsbD (lo + i) with
      | false => rfl
      | true => simpa using BitVec.lt_of_getLsbD hx
    exact congrArg (_ && ·) hr
  · rw [decide_eq_false hi', Bool.false_and, Bool.false_and]

/-- A bit of a field written. -/
theorem regB_setRegF_in {o hi lo v i : Nat} {s : State} (hl : lo ≤ i) (hh : i ≤ hi) (h32 : hi < 32) :
    regB (setRegF o hi lo v s) o i = v.testBit (i - lo) := by
  have hi' : i - lo < hi + 1 - lo := by omega
  have h := congrArg (Nat.testBit · (i - lo)) (regF_setRegF (o := o) (hi := hi) (lo := lo) (v := v) (s := s) h32)
  rw [regF, testBit_bits, Nat.testBit_mod_two_pow, decide_eq_true hi', Bool.true_and, Bool.true_and, show lo + (i - lo) = i by omega] at h
  exact h

/-! The status register of the two-party commit -/

theorem protState_of_reg {s t : State} (h : reg t 0x4814 = reg s 0x4814) : protState t = protState s := regF_eq_of_reg h

theorem protState_setProtState {n : Nat} (s : State) (h : n < 8) : protState (setProtState n s) = n := by
  rw [protState, setProtState, regF_setRegF (by omega)]
  exact Nat.mod_eq_of_lt h

/-- Fields beside STATE. -/
theorem regF_setProtState_ne {n hi lo : Nat} {s : State} (h : 2 < lo) (hh : hi < 32) : regF (setProtState n s) 0x4814 hi lo = regF s 0x4814 hi lo :=
  regF_setRegF_ne (.inr h) (by omega) hh

theorem regB_setProtState_ne {n i : Nat} {s : State} (h : 2 < i) (hh : i < 32) : regB (setProtState n s) 0x4814 i = regB s 0x4814 i :=
  regB_setRegF_ne (.inr h) (by omega) hh

theorem setProtState_pr (n : Nat) (s : State) : (setProtState n s).pr = { s.pr with sLo := 0, pLo := 0 } := rfl

theorem dropDigests_pr (s : State) : (dropDigests s).pr = { s.pr with sDig := none, pDig := none } := rfl

theorem regF_dropDigests {hi lo : Nat} {s : State} (h : bits 0x300 hi lo = 0) : regF (dropDigests s) 0x4814 hi lo = regF s 0x4814 hi lo :=
  regF_clrReg_ne h

/-! Staging -/

theorem liveWord_of_regs {s t : State} {n : Nat} (h1 : 1 ≤ n) (hn : n ≤ 87) (h : ∀ o, 0x1000 ≤ o → o < 0x4000 → reg t o = reg s o) :
    liveWord t n = liveWord s n := by
  unfold liveWord
  split
  · rw [h _ (by omega) (by omega)]
  split
  · rw [h _ (by omega) (by omega)]
  split
  · rw [h _ (by omega) (by omega)]
  split
  · refine congrArg ofBytes (List.map_congr_left fun j hj => ?_)
    have hj4 := List.mem_range.mp hj
    exact regF_eq_of_reg (h _ (by omega) (by omega))
  split
  · rw [h _ (by omega) (by omega)]
  split
  · exact regF_eq_of_reg (h _ (by omega) (by omega))
  · rw [h _ (by omega) (by omega)]

/-- The staging after a reload. -/
theorem reloadStaging_words {s : State} {n : Nat} (h1 : 1 ≤ n) (hn : n ≤ 87) : reg (reloadStaging s) (0x4900 + 4 * n) = BitVec.ofNat 32 (liveWord s n) := by
  have hl : ∀ l : List Nat, (∀ i ∈ l, i < 87) → ∀ u : State,
      reg (forEach l (fun i => setReg (0x4904 + 4 * (i % 87)) (BitVec.ofNat 32 (liveWord s (i + 1)))) u) (0x4900 + 4 * n)
        = if n - 1 ∈ l then BitVec.ofNat 32 (liveWord s n) else reg u (0x4900 + 4 * n) := by
    intro l
    induction l with
    | nil => intro _ u; rfl
    | cons i l ih =>
      intro hlt u
      have hi := hlt i List.mem_cons_self
      rw [forEach, ih fun j hj => hlt j (List.mem_cons_of_mem i hj)]
      by_cases hm : n - 1 ∈ l
      · rw [if_pos hm, if_pos (List.mem_cons_of_mem i hm)]
      · rw [if_neg hm, reg_setReg]
        by_cases he : n - 1 = i
        · rw [if_pos (by omega), if_pos (he ▸ List.mem_cons_self), show i + 1 = n by omega]
        · rw [if_neg (by omega), if_neg (by simp [hm, he])]
  exact (hl _ (fun i hi => List.mem_range.mp hi) s).trans (if_pos (List.mem_range.mpr (by omega)))

/-- The end of the digest that is being computed. -/
def uncomputed (s : State) : State := { s with pr := { s.pr with computing := false, bDig := none } }

theorem uncomputed_pr (s : State) : (uncomputed s).pr = { s.pr with computing := false, bDig := none } := rfl
theorem reg_uncomputed (s : State) (o : Nat) : reg (uncomputed s) o = reg s o := rfl

theorem withdraw_eq (s : State) : withdraw s = uncomputed (reloadStaging (setProtState 0 (dropDigests s))) := rfl

theorem withdraw_status (s : State) : reg (withdraw s) 0x4814 = reg (setProtState 0 (dropDigests s)) 0x4814 := by
  rw [withdraw_eq, reg_uncomputed]
  exact (reloadStaging_within _).reg 0x4814

theorem withdraw_pr (s : State) : (withdraw s).pr = { s.pr with sDig := none, pDig := none, sLo := 0, pLo := 0, computing := false, bDig := none } := by
  rw [withdraw_eq, uncomputed_pr, reloadStaging_only _ .pr (by decide), setProtState_pr, dropDigests_pr]

theorem withdraw_state (s : State) : protState (withdraw s) = 0 :=
  (protState_of_reg (withdraw_status s)).trans (protState_setProtState _ (by decide))

/-- After IDLE is reached again the staging is what is live. -/
theorem withdraw_words {s : State} {n : Nat} (h1 : 1 ≤ n) (hn : n ≤ 87) : reg (withdraw s) (0x4900 + 4 * n) = BitVec.ofNat 32 (liveWord s n) := by
  rw [withdraw_eq, reg_uncomputed]
  refine (reloadStaging_words h1 hn).trans (congrArg _ (liveWord_of_regs h1 hn fun o ho1 ho2 => ?_))
  refine (setProtState_within 0 _).reg o ?_ |>.trans ((dropDigests_within s).reg o ?_)
  all_goals
    rw [Bool.eq_false_iff]
    intro hp
    simp only [List.any_cons, List.any_nil, Span.has, Bool.or_false, Bool.and_eq_true, Nat.ble_eq] at hp
    omega

/-- Fields of the status register that IDLE does not touch. -/
theorem regF_withdraw {hi lo : Nat} {s : State} (h : 2 < lo) (hh : hi < 32) (hm : bits 0x300 hi lo = 0) :
    regF (withdraw s) 0x4814 hi lo = regF s 0x4814 hi lo := by
  rw [regF_eq_of_reg (withdraw_status s), regF_setProtState_ne h hh, regF_dropDigests hm]

/-! PROPOSE and CANCEL -/

theorem propose_accepts {s : State} (h0 : protState s = 0) (hc : s.pr.computing = false) (ho : stagedOverlap s = false) (hr : stagedReserved s = false)
    (he : stagedEmpty s = false) : propose s = setRegF 0x4814 7 6 0 { s with pr := { s.pr with computing := true } } := by
  have hp : proposeReason s = 0 := by
    rw [proposeReason, if_neg (by simp [h0, hc]), if_neg (by simp [ho]), if_neg (by simp [hr]), if_neg (by simp [he])]
  unfold propose
  rw [hp]
  exact if_neg fun h => h rfl

/-- The reasons of R393 in their order. -/
theorem proposeReason_cases {r : Nat} {s : State} (h : r = 2 ∧ protState s = 0 ∧ s.pr.computing = false ∧ stagedOverlap s = true
      ∨ r = 3 ∧ protState s = 0 ∧ s.pr.computing = false ∧ stagedOverlap s = false ∧ stagedReserved s = true
      ∨ r = 4 ∧ protState s = 0 ∧ s.pr.computing = false ∧ stagedOverlap s = false ∧ stagedReserved s = false ∧ stagedEmpty s = true
      ∨ r = 1 ∧ protState s ≠ 0) : proposeReason s = r ∧ r ≠ 0 ∧ r < 8 := by
  unfold proposeReason
  rcases h with ⟨rfl, h0, hc, ho⟩ | ⟨rfl, h0, hc, ho, hr⟩ | ⟨rfl, h0, hc, ho, hr, he⟩ | ⟨rfl, h0⟩
  · rw [if_neg (by simp [h0, hc]), if_pos ho]
    decide
  · rw [if_neg (by simp [h0, hc]), if_neg (by simp [ho]), if_pos hr]
    decide
  · rw [if_neg (by simp [h0, hc]), if_neg (by simp [ho]), if_neg (by simp [hr]), if_pos he]
    decide
  · rw [if_pos (.inl h0)]
    decide

theorem propose_refuses {r : Nat} {s : State} (h : proposeReason s = r) (h0 : r ≠ 0) :
    propose s = setRegF 0x4814 7 6 0 (setRegF 0x4814 14 12 r (orReg 0x4814 0x800 s)) := by
  unfold propose
  rw [h]
  exact if_pos h0

/-- What a refused proposal leaves in the status register. -/
theorem refusedProposal_status {r : Nat} (h8 : r < 8) (s : State) :
    let t := setRegF 0x4814 7 6 0 (setRegF 0x4814 14 12 r (orReg 0x4814 0x800 s))
    protState t = protState s ∧ regB t 0x4814 11 = true ∧ regF t 0x4814 14 12 = r ∧ regF t 0x4814 7 6 = 0 := by
  refine ⟨?_, ?_, ?_, regF_setRegF (by omega)⟩
  · exact (regF_setRegF_ne (.inl (by omega)) (by omega) (by omega)).trans ((regF_setRegF_ne (.inl (by omega)) (by omega) (by omega)).trans
      (regF_orReg_ne (by decide)))
  · rw [regB_setRegF_ne (.inr (by omega)) (by omega) (by omega), regB_setRegF_ne (.inl (by omega)) (by omega) (by omega)]
    exact orReg_bit (i := 11) (by omega)
  · rw [regF_setRegF_ne (.inr (by omega)) (by omega) (by omega), regF_setRegF (by omega)]
    exact Nat.mod_eq_of_lt h8

theorem cancelProposal_withdraws {s : State} (h : protState s ≠ 0) : cancelProposal s = withdraw s := if_neg h

/-! Digests -/

/-- What `holdDigest` leaves of a party. -/
def digestHeld (party : Bool) (d : BitVec 64) (x : ProtSt) : ProtSt := if party = true then { x with pDig := some d } else { x with sDig := some d }

theorem holdDigest_pr (party : Bool) (d : BitVec 64) (s : State) : (holdDigest party d s).pr = digestHeld party d s.pr := by
  cases party <;> rfl

theorem holdDigest_bit (party : Bool) (d : BitVec 64) (s : State) : regB (holdDigest party d s) 0x4814 (if party = true then 9 else 8) = true := by
  cases party with
  | false => exact orReg_bit (i := 8) (by omega)
  | true => exact orReg_bit (i := 9) (by omega)

theorem regF_holdDigest {party : Bool} {d : BitVec 64} {hi lo : Nat} {s : State} (h1 : bits 0x100 hi lo = 0) (h2 : bits 0x200 hi lo = 0) :
    regF (holdDigest party d s) 0x4814 hi lo = regF s 0x4814 hi lo := by
  cases party with
  | false => exact regF_orReg_ne h1
  | true => exact regF_orReg_ne h2

theorem windowOver_false {s : State} (h : protState s ≠ 2 ∨ s.pr.winNs < 1000000) : windowOver s = false := by
  rw [windowOver, Bool.and_eq_false_iff, beq_eq_false_iff_ne, decide_eq_false_iff_not]
  exact h.imp id fun hw => by omega

theorem windowOver_true {s : State} (h : protState s = 2) (hw : 1000000 ≤ s.pr.winNs) : windowOver s = true := by
  rw [windowOver, h, decide_eq_true hw]
  rfl

/-- The digest that a HI word completes. -/
def digestOf (party : Bool) (hi : Word) (s : State) : BitVec 64 :=
  BitVec.ofNat 64 ((if party = true then s.pr.pLo else s.pr.sLo).toNat + 2 ^ 32 * hi.toNat)

theorem only_pr (s : State) (x : ProtSt) : Only [.pr] s { s with pr := x } := by
  intro p hp
  cases p
  case pr => exact absurd (List.mem_singleton.mpr rfl) hp
  all_goals rfl

/-- The first digest of a proposal: held, and the window starts. -/
def firstDigest (party : Bool) (d : BitVec 64) (s : State) : State := setProtState 2 (holdDigest party d { s with pr := { s.pr with winNs := 0 } })

theorem completeDigest_proposed {party : Bool} {hi : Word} {s : State} (h : protState s = 1) :
    completeDigest party hi s = firstDigest party (digestOf party hi s) s := by
  unfold completeDigest
  rw [windowOver_false (.inl (by rw [h]; decide))]
  exact if_pos h

theorem completeDigest_expired {party : Bool} {hi : Word} {s : State} (h : windowOver s = true) (h1 : protState (expireWindow s) = 1) :
    completeDigest party hi s = firstDigest party (digestOf party hi (expireWindow s)) (expireWindow s) := by
  unfold completeDigest
  rw [h]
  exact if_pos h1

/-- The second digest of a proposal is compared with the first. -/
theorem completeDigest_open {party : Bool} {hi : Word} {s : State} {x : BitVec 64} (h : protState s = 2) (hw : s.pr.winNs < 1000000)
    (hx : (if party = true then s.pr.sDig else s.pr.pDig) = some x) (hn : (if party = true then s.pr.pDig else s.pr.sDig) = none) :
    completeDigest party hi s = compareDigests (if party = true then x else digestOf party hi s) (if party = true then digestOf party hi s else x)
      (holdDigest party (digestOf party hi s) s) := by
  unfold completeDigest
  rw [windowOver_false (.inr hw)]
  refine (if_neg (by show protState s ≠ 1; omega)).trans ((if_pos h).trans ?_)
  cases party with
  | false =>
    simp only [Bool.false_eq_true, if_false] at hx hn
    show (match s.pr.sDig, s.pr.pDig with | some sd, none => _ | none, some pd => _ | _, _ => _) = _
    rw [hx, hn]
    rfl
  | true =>
    simp only [if_true] at hx hn
    show (match s.pr.sDig, s.pr.pDig with | some sd, none => _ | none, some pd => _ | _, _ => _) = _
    rw [hx, hn]
    rfl

theorem firstDigest_leaves (party : Bool) (d : BitVec 64) (s : State) : Only [.regs, .pr] s (firstDigest party d s)
    ∧ Within [⟨0x4814, 0, 1⟩] s (firstDigest party d s) ∧ protState (firstDigest party d s) = 2
    ∧ regB (firstDigest party d s) 0x4814 (if party = true then 9 else 8) = true
    ∧ (firstDigest party d s).pr = { digestHeld party d s.pr with winNs := 0, sLo := 0, pLo := 0 } := by
  refine ⟨?_, ?_, protState_setProtState _ (by decide), ?_, ?_⟩
  · exact ((only_pr s { s.pr with winNs := 0 }).mono rfl).trans ((holdDigest_only party d _).trans (setProtState_only 2 _))
  · exact Within.trans (b := holdDigest party d { s with pr := { s.pr with winNs := 0 } }) (holdDigest_within party d _) (setProtState_within 2 _)
  · rw [firstDigest, regB_setProtState_ne (by split <;> decide) (by split <;> decide)]
    exact holdDigest_bit party d _
  · rw [firstDigest, setProtState_pr, holdDigest_pr]
    cases party <;> rfl

/-! The comparison -/

/-- The status register with the outcome of the three comparisons. -/
def compared (sd pd bd : BitVec 64) (s : State) : State := setRegF 0x4814 5 3 (b2n (sd == pd) + 2 * b2n (sd == bd) + 4 * b2n (pd == bd)) s

theorem compared_bits (sd pd bd : BitVec 64) (s : State) : regB (compared sd pd bd s) 0x4814 3 = decide (sd = pd)
    ∧ regB (compared sd pd bd s) 0x4814 4 = decide (sd = bd) ∧ regB (compared sd pd bd s) 0x4814 5 = decide (pd = bd) := by
  have hb : ∀ x y : BitVec 64, (x == y) = decide (x = y) := fun x y => by
    by_cases h : x = y <;> simp [h]
  have hf : ∀ i, 3 ≤ i → i ≤ 5 → regB (compared sd pd bd s) 0x4814 i
      = (b2n (sd == pd) + 2 * b2n (sd == bd) + 4 * b2n (pd == bd)).testBit (i - 3) := fun i h3 h5 => regB_setRegF_in h3 h5 (by omega)
  rw [hf 3 (by omega) (by omega), hf 4 (by omega) (by omega), hf 5 (by omega) (by omega), hb, hb, hb]
  generalize decide (sd = pd) = x
  generalize decide (sd = bd) = y
  generalize decide (pd = bd) = z
  revert x y z
  decide

/-- Digests that do not agree: discarded, counted and raised. -/
def mismatched (m : Nat) (s : State) : State := raise 59 (setRegF 0x4814 7 6 m (dropDigests s))

theorem compareDigests_eq {sd pd b : BitVec 64} {s : State} (h : s.pr.bDig = some b) :
    compareDigests sd pd s = if sd = pd ∧ sd = b then setProtState 3 (compared sd pd b s)
      else if regF (compared sd pd b s) 0x4814 7 6 < 2 then setProtState 1 (mismatched (regF (compared sd pd b s) 0x4814 7 6 + 1) (compared sd pd b s))
      else withdraw (mismatched (regF (compared sd pd b s) 0x4814 7 6 + 1) (compared sd pd b s)) := by
  unfold compareDigests
  rw [h]
  dsimp only [Option.getD_some]
  by_cases he : sd = pd ∧ sd = b
  · rw [if_pos he, if_pos (by simpa using he)]
    rfl
  · rw [if_neg he, if_neg (by simpa using he)]
    by_cases hm : regF (compared sd pd b s) 0x4814 7 6 < 2
    · rw [if_pos hm]
      exact if_pos (Nat.succ_lt_succ hm)
    · rw [if_neg hm]
      exact if_neg fun hc => hm (Nat.lt_of_succ_lt_succ hc)

theorem regB_eq_of_regF {s t : State} {o i : Nat} (h : regF t o i i = regF s o i i) : regB t o i = regB s o i := by
  have hb : ∀ u : State, (regF u o i i).testBit 0 = regB u o i := fun u => by
    rw [regF, testBit_bits, show i + 1 - i = 1 by omega]
    rfl
  rw [← hb, ← hb, h]

/-- Bits that hold no digest's mark. -/
theorem digestBits_low : ∀ i, i < 6 → bits 0x300 i i = 0 := by decide

theorem mismatched_leaves {m : Nat} (hm : m < 4) (s : State) : Only [.regs, .tr, .dbg, .pr] s (mismatched m s)
    ∧ Within ([⟨0x4814, 0, 1⟩] ++ eventRegs) s (mismatched m s) ∧ regF (mismatched m s) 0x4814 7 6 = m ∧ regB (mismatched m s) 0x7004 27 = true
    ∧ (mismatched m s).pr = { s.pr with sDig := none, pDig := none }
    ∧ ∀ i, i < 6 → regB (mismatched m s) 0x4814 i = regB s 0x4814 i := by
  have hr : reg (mismatched m s) 0x4814 = reg (setRegF 0x4814 7 6 m (dropDigests s)) 0x4814 := raise_reg_low (by omega)
  refine ⟨?_, ?_, ?_, raise_sets 59 _, (raise_pr 59 _).trans rfl, fun i hi => ?_⟩
  · exact ((dropDigests_only s).mono rfl).trans (((setReg_only 0x4814 _ _).mono rfl).trans ((raise_only 59 _).mono rfl))
  · exact ((dropDigests_within s).trans (setReg_within 0x4814 _ _)).raised 59
  · rw [regF_eq_of_reg hr, regF_setRegF (by omega)]
    exact Nat.mod_eq_of_lt hm
  · rw [regB_eq_of_reg hr, regB_setRegF_ne (.inl (by omega)) (by omega) (by omega)]
    exact regB_eq_of_regF (regF_dropDigests (digestBits_low i hi))

/-- The three outcomes of a comparison. -/
theorem compareDigests_leaves {sd pd b : BitVec 64} {s : State} (hb : s.pr.bDig = some b) (hm : regF s 0x4814 7 6 < 3) :
    regB (compareDigests sd pd s) 0x4814 3 = decide (sd = pd) ∧ regB (compareDigests sd pd s) 0x4814 4 = decide (sd = b)
      ∧ regB (compareDigests sd pd s) 0x4814 5 = decide (pd = b)
      ∧ if sd = pd ∧ sd = b then protState (compareDigests sd pd s) = 3 ∧ Within [⟨0x4814, 0, 1⟩] s (compareDigests sd pd s)
          ∧ regF (compareDigests sd pd s) 0x4814 7 6 = regF s 0x4814 7 6
        else (compareDigests sd pd s).pr.sDig = none ∧ (compareDigests sd pd s).pr.pDig = none
          ∧ regF (compareDigests sd pd s) 0x4814 7 6 = regF s 0x4814 7 6 + 1 ∧ regB (compareDigests sd pd s) 0x7004 27 = true
          ∧ if regF s 0x4814 7 6 < 2 then protState (compareDigests sd pd s) = 1 ∧ Within ([⟨0x4814, 0, 1⟩] ++ eventRegs) s (compareDigests sd pd s)
            else protState (compareDigests sd pd s) = 0 ∧ Within ([⟨0x4814, 0, 1⟩, ⟨0x4904, 4, 87⟩] ++ eventRegs) s (compareDigests sd pd s)
              ∧ ∀ n, 1 ≤ n → n ≤ 87 → reg (compareDigests sd pd s) (0x4900 + 4 * n) = BitVec.ofNat 32 (liveWord s n) := by
  obtain ⟨h3, h4, h5⟩ := compared_bits sd pd b s
  have hc : regF (compared sd pd b s) 0x4814 7 6 = regF s 0x4814 7 6 := regF_setRegF_ne (.inr (by omega)) (by omega) (by omega)
  have hcw : Within [⟨0x4814, 0, 1⟩] s (compared sd pd b s) := setReg_within 0x4814 _ s
  rw [compareDigests_eq hb, hc]
  obtain ⟨-, hmw, hm76, hm27, hmpr, hmb⟩ := mismatched_leaves (m := regF s 0x4814 7 6 + 1) (by omega) (compared sd pd b s)
  by_cases he : sd = pd ∧ sd = b
  · rw [if_pos he, if_pos he, regB_setProtState_ne (by omega) (by omega), regB_setProtState_ne (by omega) (by omega), regB_setProtState_ne (by omega) (by omega)]
    exact ⟨h3, h4, h5, protState_setProtState _ (by omega), hcw.trans (setProtState_within 3 _), (regF_setProtState_ne (by omega) (by omega)).trans hc⟩
  · rw [if_neg he, if_neg he]
    by_cases h2 : regF s 0x4814 7 6 < 2
    · rw [if_pos h2, if_pos h2, regB_setProtState_ne (by omega) (by omega), regB_setProtState_ne (by omega) (by omega), regB_setProtState_ne (by omega) (by omega),
        hmb 3 (by omega), hmb 4 (by omega), hmb 5 (by omega), regF_setProtState_ne (by omega) (by omega), setProtState_pr, hmpr]
      refine ⟨h3, h4, h5, rfl, rfl, hm76, (regB_eq_of_reg ((setProtState_within 1 _).reg 0x7004)).trans hm27, protState_setProtState _ (by omega), ?_⟩
      exact (hcw.mono rfl).trans (hmw.trans ((setProtState_within 1 _).mono rfl))
    · have hwB : ∀ i, 3 ≤ i → i < 6 → regB (withdraw (mismatched (regF s 0x4814 7 6 + 1) (compared sd pd b s))) 0x4814 i
          = regB (compared sd pd b s) 0x4814 i := fun i hi3 hi6 => by
        rw [← hmb i hi6]
        exact regB_eq_of_regF (regF_withdraw (by omega) (by omega) (digestBits_low i hi6))
      rw [if_neg h2, if_neg h2, hwB 3 (by omega) (by omega), hwB 4 (by omega) (by omega), hwB 5 (by omega) (by omega), withdraw_pr,
        regF_withdraw (by omega) (by omega) (by decide)]
      refine ⟨h3, h4, h5, rfl, rfl, hm76, (regB_eq_of_reg ((withdraw_within _).reg 0x7004)).trans hm27, withdraw_state _, ?_, fun n h1 hn => ?_⟩
      · exact (hcw.mono rfl).trans ((hmw.mono rfl).trans ((withdraw_within _).mono rfl))
      · rw [withdraw_words h1 hn]
        refine congrArg _ (liveWord_of_regs h1 hn fun o ho1 ho2 => ?_)
        refine ((hcw.mono rfl).trans hmw).reg o ?_
        rw [Bool.eq_false_iff]
        intro hp
        simp only [List.any_append, List.any_cons, List.any_nil, eventRegs, Span.has, Bool.or_false, Bool.or_eq_true, Bool.and_eq_true, Nat.ble_eq] at hp
        omega

/-! The window's end -/

theorem expireWindow_leaves (s : State) : Within ([⟨0x4814, 0, 1⟩] ++ eventRegs) s (expireWindow s) ∧ protState (expireWindow s) = 1
    ∧ (expireWindow s).pr = { s.pr with sDig := none, pDig := none, sLo := 0, pLo := 0 }
    ∧ regF (expireWindow s) 0x4814 7 6 = regF s 0x4814 7 6 ∧ regB (expireWindow s) 0x7004 28 = true := by
  have hr : reg (expireWindow s) 0x4814 = reg (setProtState 1 (dropDigests s)) 0x4814 := raise_reg_low (by omega)
  refine ⟨((dropDigests_within s).trans (setProtState_within 1 _)).raised 60, (protState_of_reg hr).trans (protState_setProtState _ (by omega)),
    (raise_pr 60 _).trans rfl, ?_, raise_sets 60 _⟩
  rw [regF_eq_of_reg hr, regF_setProtState_ne (by omega) (by omega), regF_dropDigests (by decide)]

/-- A HI word after the window's end is the first of the next. -/
theorem completeDigest_late {party : Bool} {hi : Word} {s : State} (h : protState s = 2) (hw : 1000000 ≤ s.pr.winNs) :
    Within ([⟨0x4814, 0, 1⟩] ++ eventRegs) s (completeDigest party hi s) ∧ protState (completeDigest party hi s) = 2
      ∧ regB (completeDigest party hi s) 0x7004 28 = true
      ∧ (completeDigest party hi s).pr = { digestHeld party (BitVec.ofNat 64 (2 ^ 32 * hi.toNat)) { s.pr with sDig := none, pDig := none } with
          winNs := 0, sLo := 0, pLo := 0 } := by
  obtain ⟨hew, he1, hepr, -, he28⟩ := expireWindow_leaves s
  have hd : digestOf party hi (expireWindow s) = BitVec.ofNat 64 (2 ^ 32 * hi.toNat) := by
    rw [digestOf, hepr]
    cases party <;> exact congrArg (BitVec.ofNat 64) (Nat.zero_add _)
  obtain ⟨-, hfw, hf2, -, hfpr⟩ := firstDigest_leaves party (BitVec.ofNat 64 (2 ^ 32 * hi.toNat)) (expireWindow s)
  rw [completeDigest_expired (windowOver_true h hw) he1, hd]
  refine ⟨hew.trans (hfw.mono rfl), hf2, (regB_eq_of_reg (hfw.reg 0x7004)).trans he28, hfpr.trans ?_⟩
  rw [hepr]
  cases party <;> rfl

/-! Application (R398) -/

/-- The register of a staging word that stands in one register alone; the bindings of queues stand in four each. -/
def liveReg (n : Nat) : Nat :=
  if n ≤ 24 then 0x1000 + 4 * (n - 1) else if n ≤ 33 then 0x1840 + 4 * (n - 25) else if n ≤ 39 then 0x1870 + 4 * (n - 34)
  else if n ≤ 55 then 0 else if n ≤ 63 then 0x3080 + 4 * (n - 56) else if n ≤ 79 then 0x3840 + 4 * (n - 64) else 0x3820 + 4 * (n - 80)

theorem liveReg_cases (n : Nat) : n ≤ 24 ∧ liveReg n = 0x1000 + 4 * (n - 1) ∨ 24 < n ∧ n ≤ 33 ∧ liveReg n = 0x1840 + 4 * (n - 25)
    ∨ 33 < n ∧ n ≤ 39 ∧ liveReg n = 0x1870 + 4 * (n - 34) ∨ 39 < n ∧ n ≤ 55 ∧ liveReg n = 0 ∨ 55 < n ∧ n ≤ 63 ∧ liveReg n = 0x3080 + 4 * (n - 56)
    ∨ 63 < n ∧ n ≤ 79 ∧ liveReg n = 0x3840 + 4 * (n - 64) ∨ 79 < n ∧ liveReg n = 0x3820 + 4 * (n - 80) := by
  unfold liveReg
  repeat' split
  all_goals omega

/-- A register that an applied word does not name. -/
theorem applyWord_reg_ne {n v p : Nat} {s : State} (h1 : 1 ≤ n) (hn : n ≤ 87) (hp : p ≠ liveReg n) (hq : ∀ j, j < 4 → 40 ≤ n → n ≤ 55 → p ≠ 0x3100 + 16 * (4 * (n - 40) + j)) :
    reg (applyWord n v s) p = reg s p := by
  unfold liveReg at hp
  unfold applyWord
  split at hp
  · rw [if_pos ‹_›]
    exact reg_setReg_ne (by omega) _ s
  rw [if_neg ‹_›]
  split at hp
  · rw [if_pos ‹_›]
    exact reg_setReg_ne (by omega) _ s
  rw [if_neg ‹_›]
  split at hp
  · rw [if_pos ‹_›]
    exact reg_setReg_ne (by omega) _ s
  rw [if_neg ‹_›]
  split at hp
  · rw [if_pos ‹_›]
    refine reg_forEach_keep fun j hj u => reg_setReg_ne ?_ _ u
    have hj4 := List.mem_range.mp hj
    have := hq j hj4 (by omega) (by omega)
    omega
  rw [if_neg ‹_›]
  split at hp
  · rw [if_pos ‹_›]
    exact reg_setReg_ne (by omega) _ s
  rw [if_neg ‹_›]
  split at hp
  · rw [if_pos ‹_›]
    exact reg_setReg_ne (by omega) _ s
  rw [if_neg ‹_›]
  exact reg_setReg_ne (by omega) _ s

/-- A word that stands in one register. -/
theorem applyWord_reg {n v : Nat} {s : State} (h1 : 1 ≤ n) (hn : n ≤ 87) (h : n ≤ 39 ∨ (56 ≤ n ∧ n ≤ 63) ∨ 80 ≤ n) :
    reg (applyWord n v s) (liveReg n) = BitVec.ofNat 32 v := by
  unfold applyWord liveReg
  split
  · rw [show (n - 1) % 24 = n - 1 by omega]
    exact reg_setReg_self _ _ s
  split
  · rw [show (n - 25) % 9 = n - 25 by omega]
    exact reg_setReg_self _ _ s
  split
  · rw [show (n - 34) % 6 = n - 34 by omega]
    exact reg_setReg_self _ _ s
  simp only [if_neg (by omega : ¬ n ≤ 55)]
  split
  · rw [show (n - 56) % 8 = n - 56 by omega]
    exact reg_setReg_self _ _ s
  simp only [if_neg (by omega : ¬ n ≤ 79), show (n - 80) % 8 = n - 80 by omega]
  exact reg_setReg_self _ _ s

/-- A run in which one operation alone writes a register. -/
theorem reg_forEach_one {f : Nat → State → State} {l : List Nat} {i p : Nat} {s : State} (hi : i ∈ l) (hd : l.Nodup)
    (h : ∀ j ∈ l, j ≠ i → ∀ u, reg (f j u) p = reg u p) : ∃ u, reg u p = reg s p ∧ reg (forEach l f s) p = reg (f i u) p := by
  induction l generalizing s with
  | nil => exact absurd hi List.not_mem_nil
  | cons k l ih =>
    obtain ⟨hk, hdl⟩ := List.nodup_cons.mp hd
    rcases List.mem_cons.mp hi with rfl | hil
    · exact ⟨s, rfl, reg_forEach_keep fun j hj u => h j (List.mem_cons_of_mem _ hj) (fun he => hk (he ▸ hj)) u⟩
    · have hki : k ≠ i := fun he => hk (he ▸ hil)
      obtain ⟨u, hu, he⟩ := ih (s := f k s) hil hdl fun j hj => h j (List.mem_cons_of_mem k hj)
      exact ⟨u, hu.trans (h k List.mem_cons_self hki s), he⟩

/-- The staged table, live. -/
def stagingLive (s : State) : State := forEach (List.range 87) (fun i => applyWord (i + 1) (stagedWord s (i + 1))) s

theorem stagingLive_at {n p : Nat} {s : State} (h1 : 1 ≤ n) (hn : n ≤ 87)
    (h : ∀ k, 1 ≤ k → k ≤ 87 → k ≠ n → p ≠ liveReg k ∧ ∀ j, j < 4 → 40 ≤ k → k ≤ 55 → p ≠ 0x3100 + 16 * (4 * (k - 40) + j)) :
    ∃ u, reg u p = reg s p ∧ reg (stagingLive s) p = reg (applyWord n (stagedWord s n) u) p := by
  obtain ⟨u, hu, he⟩ := reg_forEach_one (f := fun i => applyWord (i + 1) (stagedWord s (i + 1))) (l := List.range 87) (i := n - 1) (p := p) (s := s)
    (List.mem_range.mpr (by omega)) List.nodup_range fun j hj hji u => by
      have hj87 := List.mem_range.mp hj
      obtain ⟨hp, hq⟩ := h (j + 1) (by omega) (by omega) (by omega)
      exact applyWord_reg_ne (by omega) (by omega) hp hq
  refine ⟨u, hu, he.trans ?_⟩
  rw [show n - 1 + 1 = n by omega]

theorem stagedWord_lt (s : State) (n : Nat) : stagedWord s n < 2 ^ 32 := (reg s (0x4900 + 4 * n)).isLt

theorem ofNat_stagedWord (s : State) (n : Nat) : (BitVec.ofNat 32 (stagedWord s n)).toNat = stagedWord s n := by
  rw [BitVec.toNat_ofNat]
  exact Nat.mod_eq_of_lt (stagedWord_lt s n)

/-- A word of one register is live as it was staged. -/
theorem stagingLive_word {n : Nat} {s : State} (h : (1 ≤ n ∧ n ≤ 39) ∨ (56 ≤ n ∧ n ≤ 63) ∨ (80 ≤ n ∧ n ≤ 87)) :
    liveWord (stagingLive s) n = stagedWord s n := by
  obtain ⟨u, -, he⟩ := stagingLive_at (n := n) (p := liveReg n) (s := s) (by omega) (by omega) fun k hk1 hk hkn => by
    have hc := liveReg_cases k
    have hd := liveReg_cases n
    exact ⟨by omega, fun j hj h40 h55 => by omega⟩
  rw [applyWord_reg (by omega) (by omega) (by omega)] at he
  rw [← ofNat_stagedWord s n, ← he]
  unfold liveWord liveReg
  split
  · rfl
  split
  · rfl
  split
  · rfl
  simp only [if_neg (by omega : ¬ n ≤ 55)]
  split
  · rfl
  simp only [if_neg (by omega : ¬ n ≤ 79)]

/-- The binding of a queue. -/
theorem stagingLive_bind {q : Nat} {s : State} (hq : q < 64) :
    regF (stagingLive s) (0x3100 + 16 * q) 4 0 = bits (stagedWord s (40 + q / 4)) (8 * (q % 4) + 4) (8 * (q % 4))
      ∧ regF (stagingLive s) (0x3100 + 16 * q) 31 5 = regF s (0x3100 + 16 * q) 31 5 := by
  obtain ⟨u, hu, he⟩ := stagingLive_at (n := 40 + q / 4) (p := 0x3100 + 16 * q) (s := s) (by omega) (by omega) fun k hk1 hk hkn => by
    have hc := liveReg_cases k
    exact ⟨by omega, fun j hj h40 h55 => by omega⟩
  obtain ⟨v, hv, hf⟩ := reg_forEach_one (f := fun j => setRegF (0x3100 + 16 * ((4 * (40 + q / 4 - 40) + j) % 64)) 4 0 (bits (stagedWord s (40 + q / 4)) (8 * j + 4) (8 * j)))
    (l := List.range 4) (i := q % 4) (p := 0x3100 + 16 * q) (s := u) (List.mem_range.mpr (by omega)) List.nodup_range fun j hj hji w =>
      reg_setReg_ne (by have := List.mem_range.mp hj; omega) _ w
  have happ : reg (stagingLive s) (0x3100 + 16 * q) = reg (setRegF (0x3100 + 16 * q) 4 0 (bits (stagedWord s (40 + q / 4)) (8 * (q % 4) + 4) (8 * (q % 4))) v) (0x3100 + 16 * q) := by
    refine he.trans (Eq.trans ?_ (hf.trans ?_))
    · unfold applyWord
      rw [if_neg (by omega), if_neg (by omega), if_neg (by omega), if_pos (by omega)]
    · rw [show (4 * (40 + q / 4 - 40) + q % 4) % 64 = q by omega]
  refine ⟨?_, ?_⟩
  · rw [regF_eq_of_reg happ, regF_setRegF (by omega)]
    have hlt := bits_lt (stagedWord s (40 + q / 4)) (8 * (q % 4) + 4) (8 * (q % 4))
    rw [show 8 * (q % 4) + 4 + 1 - 8 * (q % 4) = 5 by omega] at hlt
    exact Nat.mod_eq_of_lt hlt
  · rw [regF_eq_of_reg happ, regF_setRegF_ne (.inr (by omega)) (by omega) (by omega), regF_eq_of_reg (hv.trans hu)]

/-- The binding of a virtual channel. -/
theorem stagingLive_vc {v : Nat} {s : State} (hv : v < 16) :
    regF (stagingLive s) (0x3840 + 4 * v) 3 0 = bits (stagedWord s (64 + v)) 3 0
      ∧ regF (stagingLive s) (0x3840 + 4 * v) 31 4 = regF s (0x3840 + 4 * v) 31 4 := by
  obtain ⟨u, hu, he⟩ := stagingLive_at (n := 64 + v) (p := 0x3840 + 4 * v) (s := s) (by omega) (by omega) fun k hk1 hk hkn => by
    have hc := liveReg_cases k
    exact ⟨by omega, fun j hj h40 h55 => by omega⟩
  have happ : reg (stagingLive s) (0x3840 + 4 * v) = reg (setRegF (0x3840 + 4 * v) 3 0 (stagedWord s (64 + v)) u) (0x3840 + 4 * v) := by
    refine he.trans ?_
    unfold applyWord
    rw [if_neg (by omega), if_neg (by omega), if_neg (by omega), if_neg (by omega), if_neg (by omega), if_pos (by omega), show (64 + v - 64) % 16 = v by omega]
  refine ⟨?_, ?_⟩
  · rw [regF_eq_of_reg happ, regF_setRegF (by omega)]
    rfl
  · rw [regF_eq_of_reg happ, regF_setRegF_ne (.inr (by omega)) (by omega) (by omega), regF_eq_of_reg hu]

theorem applyStaging_eq (s : State) :
    applyStaging s = raise 61 (withdraw (setReg 0x4818 (reg s 0x4818 + 1) (stagingLive s))) := rfl

/-- Registers of the bindings after an application. -/
theorem applyStaging_reg {o : Nat} {s : State} (h1 : 0x1000 ≤ o) (h2 : o < 0x4000) : reg (applyStaging s) o = reg (stagingLive s) o := by
  rw [applyStaging_eq, raise_reg_low (by omega)]
  refine ((withdraw_within _).reg o ?_).trans (reg_setReg_ne (by omega) _ _)
  rw [Bool.eq_false_iff]
  intro hp
  simp only [List.any_cons, List.any_nil, Span.has, Bool.or_false, Bool.or_eq_true, Bool.and_eq_true, Nat.ble_eq] at hp
  omega

theorem applyStaging_state (s : State) : protState (applyStaging s) = 0 ∧ reg (applyStaging s) 0x4818 = reg s 0x4818 + 1
    ∧ regB (applyStaging s) 0x7004 29 = true := by
  rw [applyStaging_eq]
  refine ⟨(protState_of_reg (raise_reg_low (by omega))).trans (withdraw_state _), ?_, raise_sets 61 _⟩
  rw [raise_reg_low (by omega)]
  exact ((withdraw_within _).reg 0x4818).trans (reg_setReg_self _ _ _)

theorem applyStaging_staging {n : Nat} {s : State} (h1 : 1 ≤ n) (hn : n ≤ 87) :
    reg (applyStaging s) (0x4900 + 4 * n) = BitVec.ofNat 32 (liveWord (applyStaging s) n) := by
  have hl : liveWord (applyStaging s) n = liveWord (setReg 0x4818 (reg s 0x4818 + 1) (stagingLive s)) n :=
    liveWord_of_regs h1 hn fun o ho1 ho2 => (applyStaging_reg ho1 ho2).trans (reg_setReg_ne (by omega) _ _).symm
  rw [hl, applyStaging_eq, raise_reg_low (by omega)]
  exact withdraw_words h1 hn

theorem applyStaging_live {n : Nat} {s : State} (h : (1 ≤ n ∧ n ≤ 39) ∨ (56 ≤ n ∧ n ≤ 63) ∨ (80 ≤ n ∧ n ≤ 87)) :
    liveWord (applyStaging s) n = stagedWord s n :=
  (liveWord_of_regs (by omega) (by omega) fun _ ho1 ho2 => applyStaging_reg ho1 ho2).trans (stagingLive_word h)

theorem exec_commitApply {s : State} (hr : inReset s = false) (h : protState s = 3) (hq : ∀ c, c < 8 → affected s c = true → quiescent s c = true) :
    exec .commitApply s = .next (applyStaging s) := by
  have ha : (List.range 8).all (fun c => !affected s c || quiescent s c) = true := by
    rw [List.all_eq_true]
    intro c hc
    cases hac : affected s c with
    | false => rfl
    | true => exact hq c (List.mem_range.mp hc) hac
  refine congrArg Host.Outcome.next (if_pos ?_)
  rw [h, hr, ha]
  rfl

theorem exec_digestComplete (a : BusAcc) (p : Bool) (hi : Word) (s : State) :
    exec (.digestComplete a (BitVec.ofNat 16 (if p = true then 0x482C else 0x4824)) hi) s
      = .next (busWrite a (if p = true then 0x482C else 0x4824) (completeDigest p hi) s) := by
  cases p with
  | false => exact congrArg Host.Outcome.next (if_pos rfl)
  | true => exact congrArg Host.Outcome.next ((if_neg (by decide)).trans (if_pos rfl))

theorem firstDigest_proposed (p : Bool) (d : BitVec 64) (s : State) : (firstDigest p d s).pr
    = if p = true then { s.pr with pDig := some d, winNs := 0, sLo := 0, pLo := 0 } else { s.pr with sDig := some d, winNs := 0, sLo := 0, pLo := 0 } := by
  obtain ⟨-, -, -, -, hpr⟩ := firstDigest_leaves p d s
  rw [hpr]
  cases p <;> rfl

/-- A span that others of the list cover. -/
theorem Within.covered {x : Span} {xs : List Span} {s t : State} (h : Within (x :: xs) s t) (hx : ∀ o, x.has o = true → xs.any (fun y => y.has o) = true) :
    Within xs s t := by
  intro o ho
  refine h o ?_
  have hxo : x.has o = false := by
    rw [Bool.eq_false_iff]
    exact fun hp => absurd (hx o hp) (by rw [ho]; decide)
  rw [List.any_cons, hxo, ho]
  rfl

/-- The bindings of the virtual channels and of the tickets stand next to each other. -/
theorem bindings_covered {o : Nat} (h : (⟨0x3820, 4, 24⟩ : Span).has o = true) :
    (⟨0x3840, 4, 16⟩ : Span).has o = true ∨ (⟨0x3820, 4, 8⟩ : Span).has o = true := by
  simp only [Span.has, Bool.and_eq_true, Nat.ble_eq, Nat.beq_eq] at h ⊢
  omega

/-- What an application writes. -/
def appliedSpans : List Span :=
  [⟨0x4814, 4, 2⟩, ⟨0x4904, 4, 87⟩, ⟨0x1000, 4, 24⟩, ⟨0x1840, 4, 9⟩, ⟨0x1870, 4, 6⟩, ⟨0x3100, 16, 64⟩, ⟨0x3080, 4, 8⟩,
    ⟨0x3840, 4, 16⟩, ⟨0x3820, 4, 8⟩] ++ eventRegs

theorem applyStaging_writes (s : State) : Within appliedSpans s (applyStaging s) := by
  refine Within.covered (x := ⟨0x3820, 4, 24⟩) ((applyStaging_within s).mono rfl) fun o h => List.any_eq_true.mpr ?_
  rcases bindings_covered h with h | h
  · exact ⟨_, by simp [appliedSpans], h⟩
  · exact ⟨_, by simp [appliedSpans], h⟩

/-- The digests of a proposal (R394 to R396). -/
theorem digestComplete_acts {a : BusAcc} {p : Bool} (hi : Word) {s : State} (ha : accepts a true (if p = true then 0x482C else 0x4824) s) :
    let c := Instr.digestComplete a (BitVec.ofNat 16 (if p = true then 0x482C else 0x4824)) hi
    ∃ t, exec c s = .next t ∧ answered 0 t ∧ Only [.bus] (completeDigest p hi s) t ∧ Within [] (completeDigest p hi s) t
      ∧ ∀ o, reg t o = reg (completeDigest p hi s) o := by
  obtain ⟨t, he, h⟩ := written ha (completeDigest p hi)
  exact ⟨t, (exec_digestComplete a p hi s).trans he, h⟩

/-- PROPOSE and CANCEL (R393, R400). -/
theorem propose_checked : ∀ (a : BusAcc) (s : State), accepts a true 0x4810 s →
    (protState s = 0 → s.pr.computing = false → stagedOverlap s = false → stagedReserved s = false → stagedEmpty s = false →
      ∃ t, exec (.propose a) s = .next t ∧ answered 0 t ∧ Only [.regs, .bus, .pr] s t ∧ Within [⟨0x4814, 0, 1⟩] s t
        ∧ t.pr = { s.pr with computing := true } ∧ protState t = 0 ∧ regF t 0x4814 7 6 = 0)
    ∧ (∀ r, (r = 2 ∧ protState s = 0 ∧ s.pr.computing = false ∧ stagedOverlap s = true
          ∨ r = 3 ∧ protState s = 0 ∧ s.pr.computing = false ∧ stagedOverlap s = false ∧ stagedReserved s = true
          ∨ r = 4 ∧ protState s = 0 ∧ s.pr.computing = false ∧ stagedOverlap s = false ∧ stagedReserved s = false ∧ stagedEmpty s = true
          ∨ r = 1 ∧ protState s ≠ 0) →
      ∃ t, exec (.propose a) s = .next t ∧ answered 0 t ∧ Only [.regs, .bus] s t ∧ Within [⟨0x4814, 0, 1⟩] s t
        ∧ protState t = protState s ∧ regB t 0x4814 11 = true ∧ regF t 0x4814 14 12 = r ∧ regF t 0x4814 7 6 = 0)
    ∧ (protState s ≠ 0 → ∃ t, exec (.cancel a) s = .next t ∧ answered 0 t ∧ Only [.regs, .bus, .pr] s t
        ∧ Within [⟨0x4814, 0, 1⟩, ⟨0x4904, 4, 87⟩] s t ∧ protState t = 0 ∧ t.pr.sDig = none ∧ t.pr.pDig = none ∧ t.pr.computing = false
        ∧ t.pr.key = s.pr.key ∧ t.pr.seq = s.pr.seq ∧ t.pr.sess = s.pr.sess
        ∧ (∀ n, 1 ≤ n → n ≤ 87 → reg t (0x4900 + 4 * n) = BitVec.ofNat 32 (liveWord s n))) := by
  intro a s ha
  refine ⟨fun h0 hc ho hr he => ?_, fun r hcase => ?_, fun h0 => ?_⟩
  · obtain ⟨t, hex, hans, hon, hwi, hreg⟩ := written ha propose
    rw [propose_accepts h0 hc ho hr he] at hon hwi hreg
    refine ⟨t, hex, hans, ?_, ?_, hon .pr (by decide), ?_, ?_⟩
    · exact ((only_pr s _).mono rfl).trans (((setRegF_only 0x4814 7 6 0 _).mono rfl).trans (hon.mono rfl))
    · exact ((setReg_within 0x4814 _ s).mono rfl).trans (hwi.mono rfl)
    · rw [protState_of_reg (hreg _)]
      exact (regF_setRegF_ne (.inl (by omega)) (by omega) (by omega)).trans h0
    · rw [regF_eq_of_reg (hreg _)]
      exact regF_setRegF (by omega)
  · obtain ⟨hreason, hr0, hr8⟩ := proposeReason_cases hcase
    obtain ⟨t, hex, hans, hon, hwi, hreg⟩ := written ha propose
    obtain ⟨hst, h11, h14, h7⟩ := refusedProposal_status hr8 s
    have hw := propose_within s
    rw [propose_refuses hreason hr0] at hon hwi hreg hw
    refine ⟨t, hex, hans, ?_, hw.trans (hwi.mono rfl), (protState_of_reg (hreg _)).trans hst, (regB_eq_of_reg (hreg _)).trans h11,
      (regF_eq_of_reg (hreg _)).trans h14, (regF_eq_of_reg (hreg _)).trans h7⟩
    exact ((setReg_only 0x4814 _ s).mono rfl).trans (((setRegF_only 0x4814 14 12 r _).mono rfl).trans (((setRegF_only 0x4814 7 6 0 _).mono rfl).trans (hon.mono rfl)))
  · obtain ⟨t, hex, hans, hon, hwi, hreg⟩ := written ha cancelProposal
    rw [cancelProposal_withdraws h0] at hon hwi hreg
    have hpr : t.pr = (withdraw s).pr := hon .pr (by decide)
    rw [withdraw_pr] at hpr
    refine ⟨t, hex, hans, ((withdraw_only s).mono rfl).trans (hon.mono rfl), (withdraw_within s).trans (hwi.mono rfl),
      (protState_of_reg (hreg _)).trans (withdraw_state s), ?_⟩
    rw [hpr]
    exact ⟨rfl, rfl, rfl, rfl, rfl, rfl, fun n h1 hn => (hreg _).trans (withdraw_words h1 hn)⟩

/-- PROPOSAL_DIGEST_READY. -/
theorem proposalDigest_held : ∀ (s : State), inReset s = false → s.pr.computing = true →
      ∃ t, exec .proposalDigestReady s = .next t ∧ Only [.regs, .pr] s t ∧ Within [⟨0x4814, 0, 1⟩] s t ∧ protState t = 1
        ∧ t.pr = { s.pr with computing := false, bDig := some (stagingDigest s), sLo := 0, pLo := 0 } := by
  intro s hr hc
  refine ⟨setProtState 1 { s with pr := { s.pr with computing := false, bDig := some (stagingDigest s) } }, ?_, ?_, setReg_within 0x4814 _ s,
    protState_setProtState _ (by decide), rfl⟩
  · refine congrArg Host.Outcome.next (if_pos ?_)
    rw [hc, hr]
    rfl
  · exact ((only_pr s _).mono rfl).trans (setProtState_only 1 _)

/-- DIGEST_COMPLETE: held, matched, discarded, or the first of a new window (R396 to R398). -/
theorem digest_completed : ∀ (a : BusAcc) (p : Bool) (hi : Word) (s : State), let o := if p = true then 0x482C else 0x4824
      let d := BitVec.ofNat 64 ((if p = true then s.pr.pLo else s.pr.sLo).toNat + 2 ^ 32 * hi.toNat)
      accepts a true o s →
      (protState s = 1 → ∃ t, exec (.digestComplete a (BitVec.ofNat 16 o) hi) s = .next t ∧ answered 0 t ∧ Only [.regs, .bus, .pr] s t
        ∧ Within [⟨0x4814, 0, 1⟩] s t ∧ protState t = 2 ∧ regB t 0x4814 (if p = true then 9 else 8) = true
        ∧ t.pr = if p = true then { s.pr with pDig := some d, winNs := 0, sLo := 0, pLo := 0 }
            else { s.pr with sDig := some d, winNs := 0, sLo := 0, pLo := 0 })
      ∧ (∀ x b, protState s = 2 → (if p = true then s.pr.sDig else s.pr.pDig) = some x → (if p = true then s.pr.pDig else s.pr.sDig) = none →
        s.pr.bDig = some b → regF s 0x4814 7 6 < 3 → s.pr.winNs < 1000000 →
        ∃ t, exec (.digestComplete a (BitVec.ofNat 16 o) hi) s = .next t ∧ answered 0 t ∧ Only [.regs, .bus, .pr, .tr, .dbg] s t
          ∧ let sd := if p = true then x else d; let pd := if p = true then d else x
            regB t 0x4814 3 = decide (sd = pd) ∧ regB t 0x4814 4 = decide (sd = b) ∧ regB t 0x4814 5 = decide (pd = b)
            ∧ if sd = pd ∧ sd = b then protState t = 3 ∧ Within [⟨0x4814, 0, 1⟩] s t ∧ regF t 0x4814 7 6 = regF s 0x4814 7 6
              else t.pr.sDig = none ∧ t.pr.pDig = none ∧ regF t 0x4814 7 6 = regF s 0x4814 7 6 + 1 ∧ regB t 0x7004 27 = true
                ∧ if regF s 0x4814 7 6 < 2 then protState t = 1 ∧ Within ([⟨0x4814, 0, 1⟩] ++ eventRegs) s t
                  else protState t = 0 ∧ Within ([⟨0x4814, 0, 1⟩, ⟨0x4904, 4, 87⟩] ++ eventRegs) s t
                    ∧ ∀ n, 1 ≤ n → n ≤ 87 → reg t (0x4900 + 4 * n) = BitVec.ofNat 32 (liveWord s n))
      ∧ (protState s = 2 → 1000000 ≤ s.pr.winNs → ∃ t, exec (.digestComplete a (BitVec.ofNat 16 o) hi) s = .next t ∧ answered 0 t
        ∧ Only [.regs, .bus, .pr, .tr, .dbg] s t ∧ Within ([⟨0x4814, 0, 1⟩] ++ eventRegs) s t ∧ protState t = 2 ∧ t.pr.winNs = 0
        ∧ t.pr.bDig = s.pr.bDig ∧ regB t 0x7004 28 = true
        ∧ t.pr.pDig = (if p = true then some (BitVec.ofNat 64 (2 ^ 32 * hi.toNat)) else none)
        ∧ t.pr.sDig = (if p = true then none else some (BitVec.ofNat 64 (2 ^ 32 * hi.toNat)))) := by
  intro a p hi s o d ha
  obtain ⟨t, hex, hans, hon, hwi, hreg⟩ := digestComplete_acts hi ha
  have hpr : t.pr = (completeDigest p hi s).pr := hon .pr (by decide)
  have hd : d = digestOf p hi s := rfl
  refine ⟨fun h1 => ?_, fun x b h2 hx hn hb hm hw => ?_, fun h2 hw => ?_⟩
  · obtain ⟨hfo, hfw, hf2, hfb, -⟩ := firstDigest_leaves p (digestOf p hi s) s
    rw [completeDigest_proposed h1] at hon hwi hreg hpr
    refine ⟨t, hex, hans, (hfo.mono rfl).trans (hon.mono rfl), hfw.trans (hwi.mono rfl), (protState_of_reg (hreg _)).trans hf2,
      (regB_eq_of_reg (hreg _)).trans hfb, hpr.trans (firstDigest_proposed p _ s)⟩
  · have hco := completeDigest_only p hi s
    have hopen := completeDigest_open (hi := hi) h2 hw hx hn
    have hb' : (holdDigest p (digestOf p hi s) s).pr.bDig = some b := by
      rw [holdDigest_pr]
      cases p <;> exact hb
    have h76 : regF (holdDigest p (digestOf p hi s) s) 0x4814 7 6 = regF s 0x4814 7 6 := regF_holdDigest (by decide) (by decide)
    obtain ⟨hb3, hb4, hb5, hcase⟩ := compareDigests_leaves (sd := if p = true then x else d) (pd := if p = true then d else x) hb' (by rwa [h76])
    have hlw : ∀ n, 1 ≤ n → n ≤ 87 → liveWord (holdDigest p (digestOf p hi s) s) n = liveWord s n := fun n h1 hn =>
      liveWord_of_regs h1 hn fun o ho1 ho2 => (holdDigest_within p _ s).reg o (by
        rw [Bool.eq_false_iff]
        intro hp
        simp only [List.any_cons, List.any_nil, Span.has, Bool.or_false, Bool.and_eq_true, Nat.ble_eq] at hp
        omega)
    rw [hopen] at hco hon hwi hreg hpr
    refine ⟨t, hex, hans, (hco.mono rfl).trans (hon.mono rfl), (regB_eq_of_reg (hreg _)).trans hb3, (regB_eq_of_reg (hreg _)).trans hb4,
      (regB_eq_of_reg (hreg _)).trans hb5, ?_⟩
    rw [protState_of_reg (hreg _), regF_eq_of_reg (hreg _), regB_eq_of_reg (hreg 0x7004), hpr]
    rw [h76] at hcase
    have hhw := holdDigest_within p (digestOf p hi s) s
    by_cases he : (if p = true then x else d) = (if p = true then d else x) ∧ (if p = true then x else d) = b
    · rw [if_pos he] at hcase ⊢
      obtain ⟨hs3, hsw, hs76⟩ := hcase
      exact ⟨hs3, hhw.trans (hsw.trans (hwi.mono rfl)), hs76⟩
    · rw [if_neg he] at hcase ⊢
      obtain ⟨hns, hnp, hn76, h27, hrest⟩ := hcase
      refine ⟨hns, hnp, hn76, h27, ?_⟩
      by_cases hlt : regF s 0x4814 7 6 < 2
      · rw [if_pos hlt] at hrest ⊢
        exact ⟨hrest.1, (hhw.mono rfl).trans (hrest.2.trans (hwi.mono rfl))⟩
      · rw [if_neg hlt] at hrest ⊢
        obtain ⟨hs0, hsw, hwords⟩ := hrest
        exact ⟨hs0, (hhw.mono rfl).trans (hsw.trans (hwi.mono rfl)), fun n h1 hn => (hreg _).trans ((hwords n h1 hn).trans (by rw [hlw n h1 hn]))⟩
  · obtain ⟨hcw, hc2, hc28, hcpr⟩ := completeDigest_late (party := p) (hi := hi) h2 hw
    rw [hcpr] at hpr
    refine ⟨t, hex, hans, ((completeDigest_only p hi s).mono rfl).trans (hon.mono rfl), hcw.trans (hwi.mono rfl), (protState_of_reg (hreg _)).trans hc2, ?_⟩
    rw [hpr, regB_eq_of_reg (hreg 0x7004)]
    cases p <;> exact ⟨rfl, rfl, hc28, rfl, rfl⟩

/-- COMMIT_WINDOW_EXPIRY and COMMIT_APPLY. -/
theorem window_and_commit : ∀ (s : State), inReset s = false →
      (protState s = 2 → 1000000 ≤ s.pr.winNs → ∃ t, exec .commitWindowExpiry s = .next t ∧ Only [.regs, .pr, .tr, .dbg] s t
        ∧ Within ([⟨0x4814, 0, 1⟩] ++ eventRegs) s t ∧ protState t = 1 ∧ t.pr.sDig = none ∧ t.pr.pDig = none ∧ t.pr.bDig = s.pr.bDig
        ∧ regF t 0x4814 7 6 = regF s 0x4814 7 6 ∧ regB t 0x7004 28 = true)
      ∧ (protState s = 3 → (∀ c, c < 8 → affected s c = true → quiescent s c = true) →
        ∃ t, exec .commitApply s = .next t ∧ Only [.regs, .pr, .tr, .dbg] s t
          ∧ Within ([⟨0x4814, 4, 2⟩, ⟨0x4904, 4, 87⟩, ⟨0x1000, 4, 24⟩, ⟨0x1840, 4, 9⟩, ⟨0x1870, 4, 6⟩, ⟨0x3100, 16, 64⟩, ⟨0x3080, 4, 8⟩,
              ⟨0x3840, 4, 16⟩, ⟨0x3820, 4, 8⟩] ++ eventRegs) s t
          ∧ protState t = 0 ∧ reg t 0x4818 = reg s 0x4818 + 1 ∧ regB t 0x7004 29 = true
          ∧ (∀ n, 1 ≤ n → n ≤ 87 → reg t (0x4900 + 4 * n) = BitVec.ofNat 32 (liveWord t n))
          ∧ (∀ n, (1 ≤ n ∧ n ≤ 39) ∨ (56 ≤ n ∧ n ≤ 63) ∨ (80 ≤ n ∧ n ≤ 87) → liveWord t n = stagedWord s n)
          ∧ (∀ q, q < 64 → regF t (0x3100 + 16 * q) 4 0 = bits (stagedWord s (40 + q / 4)) (8 * (q % 4) + 4) (8 * (q % 4))
              ∧ regF t (0x3100 + 16 * q) 31 5 = regF s (0x3100 + 16 * q) 31 5)
          ∧ (∀ v, v < 16 → regF t (0x3840 + 4 * v) 3 0 = bits (stagedWord s (64 + v)) 3 0
              ∧ regF t (0x3840 + 4 * v) 31 4 = regF s (0x3840 + 4 * v) 31 4)) := by
  intro s hr
  refine ⟨fun h2 hw => ?_, fun h3 hq => ?_⟩
  · obtain ⟨hew, he1, hepr, he76, he28⟩ := expireWindow_leaves s
    refine ⟨expireWindow s, ?_, (expireWindow_only s).mono rfl, hew, he1, ?_⟩
    · refine congrArg Host.Outcome.next (if_pos ?_)
      rw [windowOver_true h2 hw, hr]
      rfl
    · rw [hepr]
      exact ⟨rfl, rfl, rfl, he76, he28⟩
  · obtain ⟨h0, hgen, h29⟩ := applyStaging_state s
    refine ⟨applyStaging s, exec_commitApply hr h3 hq, (applyStaging_only s).mono rfl, applyStaging_writes s, h0, hgen, h29,
      fun n h1 hn => applyStaging_staging h1 hn, fun n h => applyStaging_live h, fun q hq => ?_, fun v hv => ?_⟩
    · have hg := applyStaging_reg (o := 0x3100 + 16 * q) (s := s) (by omega) (by omega)
      rw [regF_eq_of_reg hg, regF_eq_of_reg hg]
      exact stagingLive_bind hq
    · have hg := applyStaging_reg (o := 0x3840 + 4 * v) (s := s) (by omega) (by omega)
      rw [regF_eq_of_reg hg, regF_eq_of_reg hg]
      exact stagingLive_vc hv

/-- Settles O50, command by command. -/
theorem proposalsAreCheckedMatchedAndApplied : Obligations.ProposalsAreCheckedMatchedAndApplied := by
  unfold Obligations.ProposalsAreCheckedMatchedAndApplied
  exact ⟨propose_checked, proposalDigest_held, digest_completed, window_and_commit⟩

end Sys2Proof.Machine
end

section
/-!
PROOFS. Stops, halts and resumes (R440 to R445).
-/
namespace Sys2Proof.Machine

/-! STOP and RESUME records -/

/-- The records of a stop: one with EN, none without it. -/
def stopRecs (k v : Nat) (s : State) : List Rec := if regB s 0x6000 0 = true then [⟨k, timeQ s, 0, 0, 0, s.tm.t, BitVec.ofNat 64 v, [], 0⟩] else []

theorem genRec_stop {k : Nat} (hk : filtBit k = none) (v : Nat) (s u : State) :
    genRec (mkRec k 0 0 0 v [] 0 s) false u = { u with tr := { u.tr with gen := u.tr.gen ++ (if regB u 0x6000 0 = true then [mkRec k 0 0 0 v [] 0 s] else []) } } := by
  have hp : recPasses (mkRec k 0 0 0 v [] 0 s) false u = regB u 0x6000 0 := by
    unfold recPasses mkRec
    dsimp only
    rw [hk]
    simp
  unfold genRec
  rw [hp]
  split
  · rfl
  · rw [List.append_nil]

/-- What only adds records. -/
def RecsGrow (s t : State) : Prop := ∃ more, t.tr = { s.tr with gen := s.tr.gen ++ more }

theorem RecsGrow.of_tr {s t : State} (h : t.tr = s.tr) : RecsGrow s t := ⟨[], by rw [h, List.append_nil]⟩

theorem RecsGrow.trans {s t u : State} (h : RecsGrow s t) (k : RecsGrow t u) : RecsGrow s u := by
  obtain ⟨l, hl⟩ := h
  obtain ⟨m, hm⟩ := k
  exact ⟨l ++ m, by rw [hm, hl, List.append_assoc]⟩

theorem RecsGrow.forEach {α : Type} {f : α → State → State} (hf : ∀ x s, RecsGrow s (f x s)) (l : List α) (s : State) : RecsGrow s (forEach l f s) := by
  induction l generalizing s with
  | nil => exact .of_tr rfl
  | cons x l ih => exact (hf x s).trans (ih (f x s))

theorem RecsGrow.when_addTr {f : State → State} (hf : ∀ u, RecsGrow u (f u)) (c : Bool) (T : Tr) (s : State) : RecsGrow s (when c f (addTr T s)) := by
  refine (RecsGrow.of_tr (addTr_only T s .tr (by decide))).trans ?_
  cases c with
  | false => exact .of_tr rfl
  | true => exact hf _

theorem refuseRq_grows (wr : Bool) (lane r kind : Nat) (s : State) : RecsGrow s (refuseRq wr lane r kind s) := by
  have hflits : ∀ a b c d e u, RecsGrow u (refusedFlits a b c d e u) := fun a b c d e u => .of_tr (refusedFlits_only a b c d e u .tr (by decide))
  have hraise : ∀ a b c u, RecsGrow u (raise 22 (fillLog1 0x1818 a (bump b c u))) := fun a b c u => by
    obtain ⟨more, hm⟩ := raise_gen 22 (fillLog1 0x1818 a (bump b c u))
    rw [fillLog1_only _ _ _ .tr (by decide)] at hm
    exact ⟨more, hm⟩
  unfold refuseRq
  dsimp only
  refine (hraise (fld (b2n wr) 2 + fld lane 4 + fld kind 12 + fld (ownClient wr lane) 16) (0x5600 + 0x20 * (ownClient wr lane % 12)) 1 s).trans ?_
  split
  · split
    · exact hflits _ _ _ _ _ _
    · exact .of_tr rfl
  · split
    · exact RecsGrow.when_addTr (hflits _ _ _ _ _) _ _ _
    · exact .of_tr rfl

theorem takeRq_grows (wr : Bool) (lane r : Nat) (s : State) : RecsGrow s (takeRq wr lane r s) := by
  unfold takeRq
  split
  · exact refuseRq_grows _ _ _ _ s
  · exact .of_tr (addTr_only _ _ .tr (by decide))

theorem drainChan_grows (wr : Bool) (lane : Nat) (s : State) : RecsGrow s (drainChan wr lane s) := by
  unfold drainChan
  split
  · exact RecsGrow.trans (t := setChan wr lane _ s) (.of_tr rfl) (RecsGrow.forEach (fun (r : BitVec 64) u => takeRq_grows wr lane r.toNat u) _ _)
  · exact .of_tr rfl

/-! Halts -/

theorem markExt_leaves (s : State) : Only [.regs, .dbg] s (markExt s) ∧ Within [⟨0x6808, 0, 1⟩] s (markExt s)
    ∧ reg (markExt s) 0x6808 = reg s 0x6808 ||| (if stopSeen s = true then 2 else 0)
    ∧ (markExt s).dbg = { s.dbg with armed := s.dbg.armed && !s.dbg.stopIn } := by
  refine ⟨markExt_only s, markExt_within s, ?_, ?_⟩
  · unfold markExt when
    split
    · exact reg_setReg_self _ _ _
    · exact (BitVec.or_zero).symm
  · unfold markExt when
    cases h : stopSeen s with
    | true =>
      obtain ⟨hi, ha⟩ := Bool.and_eq_true_iff.mp h
      rw [if_pos rfl, hi, Bool.not_true, Bool.and_false]
      rfl
    | false =>
      have ha : (s.dbg.armed && !s.dbg.stopIn) = s.dbg.armed := by
        have hs : (s.dbg.stopIn && s.dbg.armed) = false := h
        cases hi : s.dbg.stopIn with
        | true =>
          rw [hi, Bool.true_and] at hs
          rw [hs]
          rfl
        | false => exact Bool.and_true _
      rw [if_neg (by decide), ha]

/-- The halt cycle before its count and its record. -/
def haltMarked (s : State) : State :=
  { orReg 0x6808 1 (markExt s) with
    dbg := { (orReg 0x6808 1 (markExt s)).dbg with haltCyc := 0, haltCnt := 0, haltTime := timeNow (orReg 0x6808 1 (markExt s)) } }

theorem only_dbg (s : State) (x : DbgSt) : Only [.dbg] s { s with dbg := x } := by
  intro p hp
  cases p
  case dbg => exact absurd (List.mem_singleton.mpr rfl) hp
  all_goals rfl

theorem haltMarked_leaves (s : State) : Only [.regs, .dbg] s (haltMarked s) ∧ Within [⟨0x6808, 0, 1⟩] s (haltMarked s)
    ∧ reg (haltMarked s) 0x6808 = reg s 0x6808 ||| (if stopSeen s = true then 3 else 1)
    ∧ (haltMarked s).dbg = { s.dbg with haltCyc := 0, haltCnt := 0, haltTime := timeNow s, armed := s.dbg.armed && !s.dbg.stopIn } := by
  obtain ⟨hmo, hmw, hmr, hmd⟩ := markExt_leaves s
  refine ⟨?_, ?_, ?_, ?_⟩
  · exact hmo.trans (((setReg_only 0x6808 _ _).mono rfl).trans ((only_dbg _ _).mono rfl))
  · exact hmw.trans (setReg_within 0x6808 _ _)
  · refine (reg_setReg_self _ _ _).trans ?_
    rw [hmr]
    cases stopSeen s with
    | true => exact BitVec.or_assoc _ _ _
    | false => exact BitVec.or_assoc _ _ _
  · have ht : timeNow (orReg 0x6808 1 (markExt s)) = timeNow s := by
      have h : (markExt s).tm = s.tm := hmo .tm (by decide)
      exact congrArg (fun x => x.t.toNat) h
    have hd : (haltMarked s).dbg = { (markExt s).dbg with haltCyc := 0, haltCnt := 0, haltTime := timeNow (orReg 0x6808 1 (markExt s)) } := rfl
    rw [hd, ht, hmd]

/-- The halt, counted. -/
def haltCounted (s : State) : State := setReg 0x680C (BitVec.ofNat 32 (min ((reg (haltMarked s) 0x680C).toNat + 1) (2 ^ 32 - 1))) (haltMarked s)

/-- The halt with its record. -/
def haltRecorded (s : State) : State :=
  genRec (mkRec 6 0 0 0 ((NMap.get 0 (haltMarked s).cnt 0x59F8).toNat % 2 ^ 32) [] 0 (haltMarked s)) false (haltCounted s)

theorem enterHalt_eq (s : State) : enterHalt s = when (regB (haltMarked s) 0x6910 1) (captureHang 2 0) (when (regB (haltMarked s) 0x6008 0) (traceTrigger 1 0)
    (raise 52 (haltRecorded s))) := rfl

theorem haltCounted_leaves (s : State) : Only [.regs, .dbg] s (haltCounted s) ∧ Within [⟨0x6808, 4, 2⟩] s (haltCounted s)
    ∧ reg (haltCounted s) 0x6808 = reg s 0x6808 ||| (if stopSeen s = true then 3 else 1)
    ∧ reg (haltCounted s) 0x680C = BitVec.ofNat 32 (min ((reg s 0x680C).toNat + 1) (2 ^ 32 - 1)) := by
  obtain ⟨hmo, hmw, hmr, -⟩ := haltMarked_leaves s
  refine ⟨hmo.trans ((setReg_only 0x680C _ _).mono rfl), (hmw.mono rfl).trans ((setReg_within 0x680C _ _).mono rfl), ?_, ?_⟩
  · exact (reg_setReg_ne (by omega) _ _).trans hmr
  · refine (reg_setReg_self _ _ _).trans ?_
    rw [hmw.reg 0x680C]

theorem haltRecorded_tr (s : State) :
    (haltRecorded s).tr = { s.tr with gen := s.tr.gen ++ stopRecs 6 ((NMap.get 0 s.cnt 0x59F8).toNat % 2 ^ 32) s } := by
  obtain ⟨hmo, hmw, -, -⟩ := haltMarked_leaves s
  obtain ⟨hco, hcw, -, -⟩ := haltCounted_leaves s
  have hq : timeQ (haltMarked s) = timeQ s := by
    have h : ∀ i, regB (haltMarked s) 0x604C i = regB s 0x604C i := fun i => regB_eq_of_reg (hmw.reg 0x604C)
    rw [timeQ, timeQ, h, h, h]
  have hrec : mkRec 6 0 0 0 ((NMap.get 0 (haltMarked s).cnt 0x59F8).toNat % 2 ^ 32) [] 0 (haltMarked s)
      = ⟨6, timeQ s, 0, 0, 0, s.tm.t, BitVec.ofNat 64 ((NMap.get 0 s.cnt 0x59F8).toNat % 2 ^ 32), [], 0⟩ := by
    rw [mkRec, hq, hmo .tm (by decide), hmo .cnt (by decide)]
  rw [haltRecorded, genRec_stop rfl, hrec, regB_eq_of_reg (hcw.reg 0x6000), hco .tr (by decide)]
  rfl

theorem haltRaised_leaves (s : State) : Within ([⟨0x6808, 4, 2⟩] ++ eventRegs) s (raise 52 (haltRecorded s))
    ∧ reg (raise 52 (haltRecorded s)) 0x6808 = reg s 0x6808 ||| (if stopSeen s = true then 3 else 1)
    ∧ reg (raise 52 (haltRecorded s)) 0x680C = BitVec.ofNat 32 (min ((reg s 0x680C).toNat + 1) (2 ^ 32 - 1))
    ∧ (∃ more, (raise 52 (haltRecorded s)).tr = { s.tr with gen := s.tr.gen ++ stopRecs 6 ((NMap.get 0 s.cnt 0x59F8).toNat % 2 ^ 32) s ++ more })
    ∧ (raise 52 (haltRecorded s)).dbg = { s.dbg with haltCyc := 0, haltCnt := 0, haltTime := timeNow s, armed := s.dbg.armed && !s.dbg.stopIn
                                                     evtCyc := (raise 52 (haltRecorded s)).dbg.evtCyc } := by
  obtain ⟨-, -, -, hmd⟩ := haltMarked_leaves s
  obtain ⟨-, hcw, hc8, hcC⟩ := haltCounted_leaves s
  have hrw : Within eventRegs (haltRecorded s) (raise 52 (haltRecorded s)) := raise_within 52 _
  have hgw : Within [] (haltCounted s) (haltRecorded s) := genRec_within _ _ _
  refine ⟨(hcw.mono rfl).trans ((hgw.mono rfl).trans (hrw.mono rfl)), ?_, ?_, ?_, ?_⟩
  · rw [hrw.reg 0x6808, hgw.reg 0x6808, hc8]
  · rw [hrw.reg 0x680C, hgw.reg 0x680C, hcC]
  · obtain ⟨more, hm⟩ := raise_gen 52 (haltRecorded s)
    rw [haltRecorded_tr] at hm
    exact ⟨more, hm⟩
  · have hgd : (haltRecorded s).dbg = (haltMarked s).dbg := genRec_only _ _ _ .dbg (by decide)
    refine (raise_dbg 52 _).trans ?_
    rw [hgd, hmd]

/-- The hang snapshot of a halt (R449). -/
theorem captureHang_held {src q : Nat} {s : State} (h : regB s 0x6904 0 = true) : captureHang src q s = s := if_pos h

theorem hangStatus_source (w : Word) : bits ((w &&& 8) ||| 5).toNat 2 1 = 2 := by
  refine Nat.eq_of_testBit_eq fun i => ?_
  have hw : ∀ j, ((w &&& 8) ||| 5).toNat.testBit j = (w.toNat.testBit j && Nat.testBit 8 j || Nat.testBit 5 j) := fun j => by
    rw [BitVec.toNat_or, BitVec.toNat_and, Nat.testBit_or, Nat.testBit_and]
    rfl
  rw [testBit_bits, hw]
  match i with
  | 0 =>
    rw [show Nat.testBit 8 (1 + 0) = false from rfl, Bool.and_false]
    rfl
  | 1 =>
    rw [show Nat.testBit 8 (1 + 1) = false from rfl, Bool.and_false]
    rfl
  | i + 2 =>
    have h2 : 2 < 2 ^ (i + 2) := Nat.lt_of_lt_of_le (by decide : 2 < 2 ^ 2) (Nat.pow_le_pow_right (by decide) (Nat.le_add_left 2 i))
    rw [decide_eq_false (by omega), Bool.false_and]
    exact (Nat.testBit_lt_two_pow h2).symm

theorem captureHang_halt {s : State} (h : regB s 0x6904 0 = false) :
    regB (captureHang 2 0 s) 0x6904 0 = true ∧ regF (captureHang 2 0 s) 0x6904 2 1 = 2
      ∧ (captureHang 2 0 s).dbg = { s.dbg with hang := (captureHang 2 0 s).dbg.hang } := by
  obtain ⟨m, he⟩ : ∃ m, captureHang 2 0 s = setReg 0x6904 ((reg s 0x6904 &&& 8) ||| 5) { s with dbg := { s.dbg with hang := m } } :=
    ⟨hangImage 2 0 s, if_neg (by rw [h]; decide)⟩
  have hr : reg (captureHang 2 0 s) 0x6904 = (reg s 0x6904 &&& 8) ||| 5 := by
    rw [he]
    exact reg_setReg_self _ _ _
  refine ⟨?_, ?_, by rw [he]; rfl⟩
  · rw [regB, hr, bit_toNat, BitVec.getLsbD_or]
    exact Bool.or_true _
  · rw [regF, hr]
    exact hangStatus_source _

/-- What a halt leaves of the debug state, whatever a snapshot adds. -/
theorem haltDbg_hang {x d e : DbgSt} {n c : Nat} {b : Bool} {m : NMap Word}
    (hd : d = { x with haltCyc := 0, haltCnt := 0, haltTime := n, armed := b, evtCyc := c }) (he : e = { d with hang := m }) :
    e = { x with haltCyc := 0, haltCnt := 0, haltTime := n, armed := b, hang := e.hang, evtCyc := e.evtCyc } := by
  rw [he, hd]

theorem enterHalt_leaves (s : State) : ∃ more, Only [.regs, .tr, .dbg] s (enterHalt s) ∧ Within ([⟨0x6808, 4, 2⟩, ⟨0x6904, 0, 1⟩] ++ eventRegs) s (enterHalt s)
    ∧ reg (enterHalt s) 0x6808 = reg s 0x6808 ||| (if stopSeen s = true then 3 else 1)
    ∧ reg (enterHalt s) 0x680C = BitVec.ofNat 32 (min ((reg s 0x680C).toNat + 1) (2 ^ 32 - 1)) ∧ regB (enterHalt s) 0x7004 20 = true
    ∧ (enterHalt s).tr = { s.tr with gen := s.tr.gen ++ stopRecs 6 ((NMap.get 0 s.cnt 0x59F8).toNat % 2 ^ 32) s ++ more }
    ∧ (enterHalt s).dbg = { s.dbg with haltCyc := 0, haltCnt := 0, haltTime := timeNow s, armed := s.dbg.armed && !s.dbg.stopIn, hang := (enterHalt s).dbg.hang
                                       evtCyc := (enterHalt s).dbg.evtCyc }
    ∧ (if regB s 0x6910 1 = true ∧ regB s 0x6904 0 = false then regB (enterHalt s) 0x6904 0 = true ∧ regF (enterHalt s) 0x6904 2 1 = 2
       else reg (enterHalt s) 0x6904 = reg s 0x6904 ∧ (enterHalt s).dbg.hang = s.dbg.hang) := by
  obtain ⟨hmo, hmw, -, -⟩ := haltMarked_leaves s
  obtain ⟨hrw, h8, hC, ⟨m1, hm1⟩, hd⟩ := haltRaised_leaves s
  have hto : Only [.regs, .tr] (raise 52 (haltRecorded s)) (when (regB (haltMarked s) 0x6008 0) (traceTrigger 1 0) (raise 52 (haltRecorded s))) :=
    Only.when (fun u => traceTrigger_only 1 0 u) _ _
  have htw : Within [⟨0x6014, 0, 1⟩] (raise 52 (haltRecorded s)) (when (regB (haltMarked s) 0x6008 0) (traceTrigger 1 0) (raise 52 (haltRecorded s))) :=
    Within.when (fun u => traceTrigger_within 1 0 u) _ _
  obtain ⟨m2, hm2⟩ : RecsGrow (raise 52 (haltRecorded s)) (when (regB (haltMarked s) 0x6008 0) (traceTrigger 1 0) (raise 52 (haltRecorded s))) := by
    unfold when
    split
    · exact traceTrigger_gen 1 0 _
    · exact .of_tr rfl
  have ho : Only [.regs, .tr, .dbg] s (enterHalt s) := enterHalt_only s
  rw [enterHalt_eq] at ho ⊢
  generalize when (regB (haltMarked s) 0x6008 0) (traceTrigger 1 0) (raise 52 (haltRecorded s)) = u at *
  have hu : Within ([⟨0x6808, 4, 2⟩] ++ eventRegs) s u := hrw.trans (htw.mono rfl)
  have h28 : regB u 0x7004 20 = true := (regB_eq_of_reg (htw.reg 0x7004)).trans (raise_sets 52 _)
  have hut : u.tr = { s.tr with gen := s.tr.gen ++ stopRecs 6 ((NMap.get 0 s.cnt 0x59F8).toNat % 2 ^ 32) s ++ (m1 ++ m2) } := by
    rw [hm2, hm1, ← List.append_assoc]
  have hud : u.dbg = (raise 52 (haltRecorded s)).dbg := hto .dbg (by decide)
  rw [hd] at hud
  have hcond : regB (haltMarked s) 0x6910 1 = regB s 0x6910 1 := regB_eq_of_reg (hmw.reg 0x6910)
  have hheld : reg u 0x6904 = reg s 0x6904 := hu.reg 0x6904
  have hkeep : reg s 0x6904 = reg s 0x6904 := rfl
  rw [hcond] at ho ⊢
  by_cases hc : regB s 0x6910 1 = true ∧ regB s 0x6904 0 = false
  · obtain ⟨hcb, hcf, hcd⟩ := captureHang_halt (s := u) (regB_eq_of_reg hheld ▸ hc.2)
    have hcw := captureHang_within 2 0 u
    rw [hc.1] at ho ⊢
    refine ⟨m1 ++ m2, ho, (hu.mono rfl).trans (hcw.mono rfl), (hcw.reg 0x6808).trans ((htw.reg 0x6808).trans h8), (hcw.reg 0x680C).trans ((htw.reg 0x680C).trans hC),
      (regB_eq_of_reg (hcw.reg 0x7004)).trans h28, (captureHang_only 2 0 u .tr (by decide)).trans hut, ?_, ?_⟩
    · exact haltDbg_hang hud hcd
    · rw [if_pos ⟨rfl, hc.2⟩]
      exact ⟨hcb, hcf⟩
  · have hq : when (regB s 0x6910 1) (captureHang 2 0) u = u := by
      unfold when
      split
      next h1 => exact captureHang_held (by
        rw [regB_eq_of_reg hheld]
        exact Bool.not_eq_false _ ▸ fun h0 => hc ⟨h1, h0⟩)
      next => rfl
    rw [hq] at ho ⊢
    rw [if_neg hc]
    refine ⟨m1 ++ m2, ho, hu.mono rfl, (htw.reg 0x6808).trans h8, (htw.reg 0x680C).trans hC, h28, hut, ?_, hheld, ?_⟩
    · exact haltDbg_hang hud rfl
    · rw [hud]

/-! Resumes -/

theorem resumeRecs (v : Nat) (s : State) : genRec (mkRec 7 0 0 0 v [] 0 s) false (clrReg 0x6808 9 s)
    = { clrReg 0x6808 9 s with tr := { s.tr with gen := s.tr.gen ++ stopRecs 7 v s } } := by
  rw [genRec_stop rfl, regB_eq_of_reg (reg_clrReg_ne (by omega))]
  rfl

theorem drainChans_grows (s : State) : RecsGrow s (drainChans s) := RecsGrow.forEach (fun _ u => drainChan_grows _ _ u) _ s

theorem cancelWork_canc (q : Nat) (s : State) : (cancelWork q s).hd.canc = s.hd.canc := by
  unfold cancelWork
  split
  · split
    · rfl
    · rfl
  · rfl

theorem resumeCancels_canc (s : State) : (resumeCancels s).hd.canc = [] :=
  forEach_keep (fun u => u.hd.canc) fun _ _ u => cancelWork_canc _ u

/-! Channels in which nothing is readable -/

/-- No request of a channel is readable. -/
def ChansQuiet (s : State) : Prop := ∀ wr lane, (chan s wr lane).seen = 0

theorem chansQuiet_of {s : State} (h : ∀ e, e ∈ s.fr.ch → e.2.seen = 0) : ChansQuiet s := by
  intro wr lane
  unfold chan
  generalize chanKey wr lane = k
  revert h
  generalize s.fr.ch = m
  intro h
  induction m with
  | nil => rfl
  | cons e m ih =>
    rw [NMap.get]
    split
    · exact h e List.mem_cons_self
    · exact ih fun e he => h e (List.mem_cons_of_mem _ he)

/-- A quiet channel is served without a change to any. -/
theorem drainChan_quiet (wr : Bool) (lane : Nat) {s : State} (h : ChansQuiet s) :
    drainChan wr lane s = { s with fr := { s.fr with ch := (drainChan wr lane s).fr.ch } } ∧ ∀ w l, chan (drainChan wr lane s) w l = chan s w l := by
  unfold drainChan
  split
  · have hx : ({ chan s wr lane with dcq := (chan s wr lane).dcq.drop (chan s wr lane).seen, seen := 0 } : ReqCh) = chan s wr lane := by
      rw [h wr lane]
      exact congrArg (fun n => ({ chan s wr lane with seen := n } : ReqCh)) (h wr lane).symm
    dsimp only
    rw [hx, h wr lane]
    refine ⟨rfl, fun w l => ?_⟩
    refine (NMap.get_set ReqCh.empty s.fr.ch (chan s wr lane) (chanKey wr lane) (chanKey w l)).trans ?_
    split
    next he => exact congrArg (NMap.get ReqCh.empty s.fr.ch) he.symm
    next => rfl
  · exact ⟨rfl, fun _ _ => rfl⟩

theorem drainChans_quiet {s : State} (h : ChansQuiet s) :
    drainChans s = { s with fr := { s.fr with ch := (drainChans s).fr.ch } } ∧ ∀ w l, chan (drainChans s) w l = chan s w l := by
  have hl : ∀ (l : List Nat) (u : State), ChansQuiet u →
      forEach l (fun k => drainChan (decide (100 ≤ k)) (k % 100)) u
        = { u with fr := { u.fr with ch := (forEach l (fun k => drainChan (decide (100 ≤ k)) (k % 100)) u).fr.ch } }
      ∧ ∀ w n, chan (forEach l (fun k => drainChan (decide (100 ≤ k)) (k % 100)) u) w n = chan u w n := by
    intro l
    induction l with
    | nil => exact fun u _ => ⟨rfl, fun _ _ => rfl⟩
    | cons k l ih =>
      intro u hu
      obtain ⟨he, hc⟩ := drainChan_quiet (decide (100 ≤ k)) (k % 100) hu
      obtain ⟨hle, hlc⟩ := ih (drainChan (decide (100 ≤ k)) (k % 100) u) fun w n => by rw [hc]; exact hu w n
      refine ⟨?_, fun w n => (hlc w n).trans (hc w n)⟩
      rw [forEach]
      refine hle.trans ?_
      rw [he]
  exact hl _ s h

/-- The credits given up in a halt, returned. -/
theorem rlane_payCredits (l : Nat) (s : State) : rlane (payCredits s) l = { rlane s l with cred := (rlane s l).cred + (rlane s l).owe, owe := 0 } := by
  have hm : ∀ m : NMap RLane, NMap.get RLane.empty (m.map fun e => (e.1, { e.2 with cred := e.2.cred + e.2.owe, owe := 0 })) l
      = { NMap.get RLane.empty m l with cred := (NMap.get RLane.empty m l).cred + (NMap.get RLane.empty m l).owe, owe := 0 } := fun m => by
    induction m with
    | nil => rfl
    | cons e m ih =>
      rw [List.map_cons, NMap.get, NMap.get]
      split
      · rfl
      · exact ih
  exact hm s.fr.rl

theorem resumeCancels_none {s : State} (h : s.hd.canc = []) : resumeCancels s = s := by
  unfold resumeCancels
  rw [h]
  show ({ s with hd := { s.hd with canc := [] } } : State) = s
  rw [← h]

/-- A resume. -/
def blockResumed (s : State) : State :=
  resumeCancels (payCredits (drainChans { clrReg 0x6808 9 s with
    tr := { s.tr with gen := s.tr.gen ++ stopRecs 7 ((NMap.get 0 s.cnt 0x59F8).toNat % 2 ^ 32 + 2 ^ 32 * min s.dbg.haltCnt (2 ^ 32 - 1)) s } }))

theorem exec_blockResume {s : State} (hl : loaded s = true) (hh : halted s = true) (h1 : regB s 0x6808 1 = false) (h2 : regB s 0x6808 2 = false)
    (hs : stopSeen s = false) (hc : 16 ≤ s.dbg.haltCyc) (hcap : s.dbg.capturing = false) : exec .blockResume s = .next (blockResumed s) := by
  refine congrArg Host.Outcome.next ((if_neg ?_).trans ?_)
  · rw [hl, hh, h1, h2, hs, hcap, decide_eq_false (by omega)]
    decide
  · have hf : fld (min s.dbg.haltCnt (2 ^ 32 - 1)) 32 = 2 ^ 32 * min s.dbg.haltCnt (2 ^ 32 - 1) := by
      rw [fld, Nat.shiftLeft_eq, Nat.mul_comm]
    rw [resumeRecs, hf]
    rfl

theorem blockResumed_leaves (s : State) : reg (blockResumed s) 0x6808 = reg s 0x6808 &&& ~~~(9 : Word) ∧ (blockResumed s).hd.canc = []
    ∧ ∃ more, (blockResumed s).tr = { s.tr with
        gen := s.tr.gen ++ stopRecs 7 ((NMap.get 0 s.cnt 0x59F8).toNat % 2 ^ 32 + 2 ^ 32 * min s.dbg.haltCnt (2 ^ 32 - 1)) s ++ more } := by
  unfold blockResumed
  refine ⟨?_, resumeCancels_canc _, ?_⟩
  · refine ((resumeCancels_within _).reg 0x6808).trans (Eq.trans (b := reg (drainChans _) 0x6808) rfl (((drainChans_within _).reg 0x6808).trans ?_))
    exact reg_setReg_self _ _ _
  · obtain ⟨more, hm⟩ := drainChans_grows { clrReg 0x6808 9 s with
      tr := { s.tr with gen := s.tr.gen ++ stopRecs 7 ((NMap.get 0 s.cnt 0x59F8).toNat % 2 ^ 32 + 2 ^ 32 * min s.dbg.haltCnt (2 ^ 32 - 1)) s } }
    exact ⟨more, (resumeCancels_only _ .tr (by decide)).trans hm⟩

/-- A resume with nothing readable and nothing cancelled. -/
theorem blockResumed_quiet {s : State} (hch : ∀ e, e ∈ s.fr.ch → e.2.seen = 0) (hc : s.hd.canc = []) :
    (blockResumed s).tr = { s.tr with
        gen := s.tr.gen ++ stopRecs 7 ((NMap.get 0 s.cnt 0x59F8).toNat % 2 ^ 32 + 2 ^ 32 * min s.dbg.haltCnt (2 ^ 32 - 1)) s }
      ∧ Only [.regs, .fr, .tr] s (blockResumed s) ∧ Within [⟨0x6808, 0, 1⟩] s (blockResumed s)
      ∧ (blockResumed s).fr = { s.fr with ch := (blockResumed s).fr.ch, rl := (blockResumed s).fr.rl }
      ∧ (∀ l, rlane (blockResumed s) l = { rlane s l with cred := (rlane s l).cred + (rlane s l).owe, owe := 0 })
      ∧ ∀ wr lane, chan (blockResumed s) wr lane = chan s wr lane := by
  obtain ⟨u, hu⟩ : ∃ u, u = ({ clrReg 0x6808 9 s with
    tr := { s.tr with gen := s.tr.gen ++ stopRecs 7 ((NMap.get 0 s.cnt 0x59F8).toNat % 2 ^ 32 + 2 ^ 32 * min s.dbg.haltCnt (2 ^ 32 - 1)) s } } : State) := ⟨_, rfl⟩
  have hq : ChansQuiet u := by
    rw [hu]
    exact chansQuiet_of hch
  obtain ⟨hd, hdc⟩ := drainChans_quiet hq
  have he : blockResumed s = payCredits (drainChans u) := by
    rw [blockResumed, ← hu]
    refine resumeCancels_none ?_
    show (drainChans u).hd.canc = []
    rw [hd, hu]
    exact hc
  have hpc : ∀ v w l, chan (payCredits v) w l = chan v w l := fun _ _ _ => rfl
  rw [he]
  generalize hv : (drainChans u).fr.ch = c at hd
  refine ⟨?_, ?_, ?_, ?_, fun l => ?_, fun wr lane => ?_⟩
  · rw [hd, hu]
    rfl
  · rw [hd, hu]
    intro p hp
    cases p
    case regs | fr | tr => exact absurd (by decide) hp
    all_goals rfl
  · have hw : Within [⟨0x6808, 0, 1⟩] s u := by
      rw [hu]
      exact setReg_within 0x6808 _ s
    rw [hd]
    exact hw
  · rw [hd, hu]
    rfl
  · rw [rlane_payCredits, hd, hu]
    rfl
  · rw [hpc, hdc, hu]
    rfl

/-! The other commands -/

theorem exec_stopDeassert (s : State) : exec .stopDeassert s = .next (clrReg 0x6808 2 { s with dbg := { s.dbg with stopIn := false, armed := true } }) := rfl

theorem exec_halt {s : State} (hl : loaded s = true) (h : stopSeen s = true ∨ regB s 0x6808 2 = true) :
    exec .halt s = .next (if halted s = true then markExt s else enterHalt s) := by
  refine congrArg Host.Outcome.next (if_neg ?_)
  rw [hl]
  rcases h with h | h <;> simp [h]

theorem exec_stopStuck {s : State} {n : Nat} (hn : stuckLimit s = some n) (hl : loaded s = true) (hh : halted s = true) (h1 : regB s 0x6808 1 = true)
    (h3 : regB s 0x6808 3 = false) (hc : n ≤ s.dbg.haltCnt) : exec .stopStuck s = .next (raise 53 (orReg 0x6808 8 s)) := by
  refine congrArg Host.Outcome.next ?_
  rw [hn]
  dsimp only
  rw [hl, hh, h1, h3, decide_eq_true hc]
  rfl

/-- Settles O57: stops, halts, resumes, the stuck stop and the local halt. -/
theorem stopsHaltAndResumeTheBlock : Obligations.StopsHaltAndResumeTheBlock := by
  unfold Obligations.StopsHaltAndResumeTheBlock
  intro s rec1 cc
  refine ⟨⟨_, rfl, rfl⟩, ⟨_, exec_stopDeassert s, ?_, setReg_within 0x6808 _ s, rfl, reg_setReg_self _ _ _⟩, fun hl h => ⟨fun hh => ?_, fun hh hs => ?_⟩,
    fun hl hh h1 h2 hs hc hcap => ?_, fun n hn hl hh h1 h3 hc => ?_, fun a ha => ⟨?_, ?_⟩⟩
  · exact ((only_dbg s _).mono rfl).trans ((setReg_only 0x6808 _ _).mono rfl)
  · obtain ⟨more, hon, hwi, h8, hC, h28, htr, hdbg, hang⟩ := enterHalt_leaves s
    refine ⟨enterHalt s, more, (exec_halt hl h).trans (congrArg _ (if_neg (by rw [hh]; decide))), hon, hwi, h8, hC, h28, htr, hdbg, hang⟩
  · obtain ⟨hmo, hmw, hmr, hmd⟩ := markExt_leaves s
    have ha : (s.dbg.armed && !s.dbg.stopIn) = false := by
      rw [(Bool.and_eq_true_iff.mp hs).1]
      exact Bool.and_false _
    rw [if_pos hs] at hmr
    rw [ha] at hmd
    exact ⟨markExt s, (exec_halt hl h).trans (congrArg _ (if_pos hh)), hmo, hmw, hmr, hmd⟩
  · have hex := exec_blockResume hl hh h1 h2 hs hc hcap
    obtain ⟨h8, hcanc, more, htr⟩ := blockResumed_leaves s
    refine ⟨blockResumed s, more, hex, exec_only hex, h8, hcanc, htr, fun hch hc0 => ?_⟩
    obtain ⟨hqt, hrest⟩ := blockResumed_quiet hch hc0
    refine ⟨?_, hrest⟩
    have hg := congrArg TraceSt.gen (htr.symm.trans hqt)
    exact List.append_cancel_left (hg.trans (List.append_nil _).symm)
  · refine ⟨_, exec_stopStuck hn hl hh h1 h3 hc, ?_, (setReg_within 0x6808 _ s).raised 53, ?_, raise_sets 53 _⟩
    · exact ((setReg_only 0x6808 _ s).mono rfl).trans ((raise_only 53 _).mono rfl)
    · exact ((raise_within 53 _).reg 0x6808).trans (reg_setReg_self _ _ _)
  · obtain ⟨t, he, hans, hon, hwi, hreg⟩ := written ha setLocal
    exact ⟨t, he, hans, ((setReg_only 0x6808 _ s).mono rfl).trans (hon.mono rfl), (setReg_within 0x6808 _ s).trans (hwi.mono rfl),
      (hreg _).trans (reg_setReg_self _ _ _)⟩
  · obtain ⟨t, he, hans, hon, hwi, hreg⟩ := written ha clearLocal
    exact ⟨t, he, hans, ((setReg_only 0x6808 _ s).mono rfl).trans (hon.mono rfl), (setReg_within 0x6808 _ s).trans (hwi.mono rfl),
      (hreg _).trans (reg_setReg_self _ _ _)⟩

end Sys2Proof.Machine
end

section
/-!
PROOFS. Snapshots and readouts (R446 to R454).
-/
namespace Sys2Proof.Machine

/-- A read that its register permits. -/
theorem readAnswered {a : BusAcc} {o : Nat} {s : State} (ha : accepts a false o s) (act : State → Word × State) :
    ∃ t, (Host.Outcome.next (busRead a o act s) : Host.Outcome State Fault Refusal) = .next t ∧ answered (act s).1 t ∧ Only [.bus] (act s).2 t
      ∧ Within [] (act s).2 t ∧ ∀ o, reg t o = reg (act s).2 o :=
  ⟨_, congrArg Host.Outcome.next (busRead_accepts ha), ⟨rfl, rfl⟩, respond_only _ _ _, (Within.refl [] (act s).2).respond _ _, fun o => reg_respond _ _ _ o⟩

/-! Hang snapshots and windows -/

theorem captureHang_command {s : State} (h : regB s 0x6904 0 = false) :
    captureHang 0 0 s = setReg 0x6904 ((reg s 0x6904 &&& 8) ||| 1) { s with dbg := { s.dbg with hang := hangImage 0 0 s } } :=
  if_neg (by rw [h]; decide)

theorem commandHang_free {s : State} (h : regB s 0x6904 0 = false) :
    commandHang s = setReg 0x6904 ((reg s 0x6904 &&& 8) ||| 1) { s with dbg := { s.dbg with hang := hangImage 0 0 s } } :=
  (if_neg (by rw [h]; decide)).trans (captureHang_command h)

theorem commandHang_held {s : State} (h : regB s 0x6904 0 = true) : commandHang s = orReg 0x6904 8 s := if_pos h

theorem regF_advanceWord {o hi n : Nat} {s : State} (hh : hi < 32) (hn : 0 < n) (hl : n ≤ 2 ^ (hi + 1)) :
    regF (advanceWord o hi n s) o hi 0 = if regB s o 16 = true then (regF s o hi 0 + 1) % n else regF s o hi 0 := by
  unfold advanceWord
  split
  · rw [regF_setRegF hh]
    exact Nat.mod_eq_of_lt (Nat.lt_of_lt_of_le (Nat.mod_lt _ hn) hl)
  · rfl

/-! Scan-out -/

theorem startScan_starts {s : State} (hc : s.dbg.capturing = false) (hh : halted s = true) (hg : regB s 0x4B04 3 = true) :
    startScan s = setReg 0x6814 ((reg s 0x6814 &&& 4) ||| 1) { s with dbg := { s.dbg with capturing := true, scan := [] } } :=
  (if_neg (by rw [hc]; decide)).trans (if_pos (by rw [hh, hg]; rfl))

theorem startScan_refuses {s : State} (hc : s.dbg.capturing = false) (h : halted s = false ∨ regB s 0x4B04 3 = false) : startScan s = orReg 0x6814 4 s :=
  (if_neg (by rw [hc]; decide)).trans (if_neg (by rcases h with h | h <;> simp [h]))

theorem exec_scanCaptureDone {s : State} (hr : inReset s = false) (hc : s.dbg.capturing = true) :
    exec .scanCaptureDone s = .next (setReg 0x6814 ((reg s 0x6814 &&& 4) ||| BitVec.ofNat 32 (2 + fld 599 16))
      { s with dbg := { s.dbg with capturing := false, scan := scanImage s } }) :=
  congrArg Host.Outcome.next (if_neg (by rw [hr, hc]; decide))

/-! Rows in data registers -/

theorem listGet_wordsOf {n count i : Nat} (h : i < count) : listGet 0 (wordsOf n count) i = bits n (32 * i + 31) (32 * i) := by
  have hg : ∀ (l : List Nat) (j : Nat), listGet 0 l j = l.getD j 0 := fun l => by
    induction l with
    | nil => exact fun _ => rfl
    | cons x l ih =>
      intro j
      cases j with
      | zero => rfl
      | succ j => exact ih j
  rw [hg, wordsOf, List.getD_eq_getElem?_getD, List.getElem?_map, List.getElem?_range h]
  rfl

theorem reg_setRowRegs {o i : Nat} (h : i < 32) (d : Row) (s : State) : reg (setRowRegs o d s) (o + 4 * i) = BitVec.ofNat 32 (d.toNat >>> (32 * i)) := by
  have hl : i < (wordsOf d.toNat 32).length := by simpa [wordsOf] using h
  refine (reg_setRegs _ o i s hl).trans ?_
  rw [listGet_wordsOf h, bits, show 32 * i + 31 + 1 - 32 * i = 32 by omega]
  exact BitVec.eq_of_toNat_eq (by rw [BitVec.toNat_ofNat, BitVec.toNat_ofNat, Nat.mod_mod])

theorem flit_data (b : Beat) : b.flit.1 = if b.bad = 0 then b.data else 0 := by
  unfold Beat.flit
  split <;> rfl

theorem flit_pois (b : Beat) : b.flit.2 = if b.bad = 0 then b.pois else 15 := by
  unfold Beat.flit
  split <;> rfl

/-! Full bank readout -/

theorem startReadout_asks {w : Word} {s : State} (hg : regB s 0x4B04 4 = true) (hb : regB s 0x6824 0 = false)
    (hok : if w.getLsbD 23 = true then bits w.toNat 22 16 < 100 else bits w.toNat 22 16 < 96) :
    startReadout w s = setRegF 0x6824 1 0 1 (setReg 0x6820 (w &&& 0x00FF01FF)
      (addTr (exchTr s 193 false .bankRd (icls s 7) (rowBeat (if w.getLsbD 23 = true then (lbankOf s (bits w.toNat 22 16)).getD (128 + bits w.toNat 22 16)
          else bits w.toNat 22 16) (bits w.toNat 8 0)))
        { s with dbg := { s.dbg with brd := some (if w.getLsbD 23 = true then bits w.toNat 22 16 else pbankOf s (bits w.toNat 22 16), bits w.toNat 8 0) } })) := by
  refine if_neg ?_
  rw [hg, hb, bit_toNat]
  cases h23 : w.getLsbD 23 with
  | true =>
    rw [h23] at hok
    simpa using hok
  | false =>
    rw [h23] at hok
    simpa using hok

theorem startReadout_refuses {w : Word} {s : State} (h : ¬ (regB s 0x4B04 4 = true ∧ regB s 0x6824 0 = false
      ∧ (if w.getLsbD 23 = true then bits w.toNat 22 16 < 100 else bits w.toNat 22 16 < 96))) : startReadout w s = orReg 0x6824 4 s := by
  refine if_pos ?_
  rw [bit_toNat]
  cases hg : regB s 0x4B04 4 with
  | false => rfl
  | true =>
    cases hb : regB s 0x6824 0 with
    | true => rfl
    | false =>
      have hok := fun k => h ⟨hg, hb, k⟩
      cases h23 : w.getLsbD 23 with
      | true =>
        rw [h23] at hok
        simpa using hok
      | false =>
        rw [h23] at hok
        simpa using hok

theorem exec_bankReadoutDone {ups : List Upset} {s : State} {T : Tr} {b : Beat} (hr : inReset s = false) (h : readoutOf s .bankRd = some (T, b)) :
    exec (.bankReadoutDone ups) s = .next (finishBrd b.flit (if b.bad = 0 then b.en else 0) (when (b.bad = 0) (strikeRow (pbankOf s b.bank) b.row ups) (dropTr T.id s))) := by
  refine congrArg Host.Outcome.next ?_
  rw [hr, h]
  rfl

theorem finishBrd_eq (r : Row × Mask4) (c : Mask4) (s : State) : finishBrd r c s
    = setReg 0x6824 ((reg s 0x6824 &&& 4) ||| BitVec.ofNat 32 (2 + fld r.2.toNat 4 + fld c.toNat 8)) (setRowRegs 0x6880 r.1 { s with dbg := { s.dbg with brd := none } }) := rfl


theorem finishBrd_leaves (r : Row × Mask4) (c : Mask4) (s : State) : Only [.regs, .dbg] s (finishBrd r c s) ∧ (finishBrd r c s).dbg = { s.dbg with brd := none }
    ∧ (∀ i, i < 32 → reg (finishBrd r c s) (0x6880 + 4 * i) = BitVec.ofNat 32 (r.1.toNat >>> (32 * i)))
    ∧ reg (finishBrd r c s) 0x6824 = (reg s 0x6824 &&& 4) ||| BitVec.ofNat 32 (2 + 16 * r.2.toNat + 256 * c.toNat) := by
  have hf : fld r.2.toNat 4 = 16 * r.2.toNat ∧ fld c.toNat 8 = 256 * c.toNat := by
    simp only [fld, Nat.shiftLeft_eq]
    omega
  have hon := setRowRegs_only 0x6880 r.1 { s with dbg := { s.dbg with brd := none } }
  have hrow : ∀ i, i < 32 → _ := fun i hi => reg_setRowRegs (o := 0x6880) hi r.1 { s with dbg := { s.dbg with brd := none } }
  rw [finishBrd_eq, hf.1, hf.2]
  generalize setRowRegs 0x6880 r.1 { s with dbg := { s.dbg with brd := none } } = u at hon hrow ⊢
  refine ⟨((only_dbg s _).mono rfl).trans ((hon.mono rfl).trans ((setReg_only 0x6824 _ _).mono rfl)), (setReg_dbg _ _ u).trans (hon .dbg (by decide)), fun i hi => ?_,
    reg_setReg_self _ _ _⟩
  exact (reg_setReg_ne (by omega) _ _).trans (hrow i hi)

theorem bankReadout_strikes {ups : List Upset} (b : Beat) (id : Nat) (s : State) :
    Only [.bank, .fr] s (when (b.bad = 0) (strikeRow (pbankOf s b.bank) b.row ups) (dropTr id s))
      ∧ ((b.bad ≠ 0) → (when (b.bad = 0) (strikeRow (pbankOf s b.bank) b.row ups) (dropTr id s)).bank = s.bank)
      ∧ (b.bad = 0 → Struck (pbankOf s b.bank) b.row ups s (when (b.bad = 0) (strikeRow (pbankOf s b.bank) b.row ups) (dropTr id s)))
      ∧ (when (b.bad = 0) (strikeRow (pbankOf s b.bank) b.row ups) (dropTr id s)).fr = (dropTr id s).fr
      ∧ Within [] s (when (b.bad = 0) (strikeRow (pbankOf s b.bank) b.row ups) (dropTr id s)) := by
  have hwo : Only [.bank] (dropTr id s) (when (b.bad = 0) (strikeRow (pbankOf s b.bank) b.row ups) (dropTr id s)) := Only.when (fun u => strikeRow_only _ _ _ u) _ _
  refine ⟨((dropTr_only id s).mono rfl).trans (hwo.mono rfl), fun h => ?_, fun h => ?_, hwo .fr (by decide),
    (Within.when (fun u => strikeRow_within _ _ _ u) _ _ : Within [] (dropTr id s) _)⟩
  · rw [when, if_neg (by simpa using h)]
    rfl
  · rw [when, if_pos (by simpa using h)]
    exact strikeRow_struck _ _ ups (dropTr id s)

/-! Watch units -/

theorem wuReg_eq {u : Nat} (hu : u < 4) (k : Nat) : wuReg u k = 0x6A00 + 64 * u + k := by
  unfold wuReg
  omega

/-- What forgetting a unit's capture leaves. -/
structure WatchForgot (u : Nat) (s t : State) : Prop where
  unit : ∀ k, watchAt t k = if k = u then Watch.idle else watchAt s k
  frame : t.fr = { s.fr with trs := t.fr.trs }
  none : ∀ T ∈ t.fr.trs, T.job ≠ .dump u
  others : ∀ T ∈ s.fr.trs, T.job ≠ .dump u → T ∈ t.fr.trs

theorem isDump_false {u : Nat} {j : Job} : isDump u j = false ↔ j ≠ .dump u := by
  cases j <;> simp [isDump]

theorem clearWatch_forgets (u : Nat) (s : State) : WatchForgot u s (clearWatch u s) := by
  obtain ⟨hn, ho⟩ := mem_dropJobs (p := isDump u) (s := setWatch u Watch.idle s) rfl
  exact ⟨fun k => NMap.get_set Watch.idle s.dbg.wu Watch.idle u k, rfl, fun T hT => isDump_false.mp (hn T hT), fun T hT hj => ho T hT (isDump_false.mpr hj)⟩

theorem reg_clearWatch (u : Nat) (s : State) (o : Nat) : reg (clearWatch u s) o = reg s o := rfl

/-- Registers do not count. -/
theorem WatchForgot.of_regs {u : Nat} {s t s' t' : State} (h : WatchForgot u s t) (hs : s.dbg = s'.dbg) (hsf : s.fr = s'.fr) (ht : t'.dbg = t.dbg) (htf : t'.fr = t.fr) :
    WatchForgot u s' t' := by
  have hw : ∀ {a b : State} k, a.dbg = b.dbg → watchAt a k = watchAt b k := fun k h => by rw [watchAt, watchAt, h]
  refine ⟨fun k => ?_, ?_, ?_, ?_⟩
  · rw [hw k ht, ← hw k hs]
    exact h.unit k
  · rw [htf, ← hsf]
    exact h.frame
  · rw [htf]
    exact h.none
  · rw [htf, ← hsf]
    exact h.others

/-- Forgetting again changes nothing else. -/
theorem WatchForgot.trans {u : Nat} {s t v : State} (h : WatchForgot u s t) (k : WatchForgot u t v) : WatchForgot u s v := by
  refine ⟨fun j => ?_, ?_, k.none, fun T hT hj => k.others T (h.others T hT hj) hj⟩
  · rw [k.unit, h.unit]
    split <;> rfl
  · rw [k.frame, h.frame]

theorem reg_clear_low (o : Nat) (s : State) : reg (setRegF o 1 0 0 s) o = reg s o &&& ~~~(3 : Word) := by
  refine BitVec.eq_of_getLsbD_eq fun i hi => ?_
  rw [BitVec.getLsbD_and, BitVec.getLsbD_not, decide_eq_true hi, Bool.true_and, ← bit_toNat]
  by_cases h : i ≤ 1
  · have h3 : (3 : Word).getLsbD i = true := by
      have hc : i = 0 ∨ i = 1 := by omega
      rcases hc with rfl | rfl <;> rfl
    rw [h3, Bool.not_true, Bool.and_false]
    exact (regB_setRegF_in (Nat.zero_le i) h (by omega)).trans (Nat.zero_testBit _)
  · have h3 : (3 : Word).getLsbD i = false := by
      have h4 : 3 < 2 ^ i := Nat.lt_of_lt_of_le (by decide : 3 < 2 ^ 2) (Nat.pow_le_pow_right (by decide) (by omega))
      exact Nat.testBit_lt_two_pow h4
    rw [h3, Bool.not_false, Bool.and_true]
    exact regB_setRegF_ne (.inr (by omega)) (by omega) hi

/-- DISARM where its bit is set. -/
theorem disarm_leaves {u : Nat} (hu : u < 4) (d : Bool) (s : State) :
    let t := when d (disarm u) s
    Within [⟨0x6A00 + 64 * u + 0x1C, 0, 1⟩] s t ∧ Only [.regs, .fr, .dbg] s t
      ∧ reg t (0x6A00 + 64 * u + 0x1C) = (if d = true then reg s (0x6A00 + 64 * u + 0x1C) &&& ~~~(3 : Word) else reg s (0x6A00 + 64 * u + 0x1C))
      ∧ if d = true then WatchForgot u s t else t = s := by
  cases d with
  | false => exact ⟨Within.refl _ s, Only.refl _ s, rfl, rfl⟩
  | true =>
    refine ⟨?_, ?_, ?_, ?_⟩
    · rw [← wuReg_eq hu]
      exact setReg_within (wuReg u 0x1C) _ s
    · exact ((setRegF_only (wuReg u 0x1C) 1 0 0 s).mono rfl).trans ((clearWatch_only u _).mono rfl)
    · rw [← wuReg_eq hu]
      exact reg_clear_low _ s
    · rw [if_pos rfl]
      exact (clearWatch_forgets u (setRegF (wuReg u 0x1C) 1 0 0 s)).of_regs rfl rfl rfl rfl

theorem wuLocked_iff {u : Nat} (hu : u < 4) (s : State) :
    wuLocked s u = true ↔ regF s (0x6A00 + 64 * u + 0x1C) 1 0 = 1 ∨ regF s (0x6A00 + 64 * u + 0x1C) 1 0 = 2 := by
  rw [wuLocked, wuState, wuReg_eq hu, Bool.or_eq_true, beq_iff_eq, beq_iff_eq]

/-- A held unit. -/
theorem writeWuCfg_held {u : Nat} (hu : u < 4) {w : Word} {s : State} (h : wuLocked s u = true) :
    writeWuCfg u w s = orReg (0x6A00 + 64 * u + 0x1C) 0x80 (when (w.getLsbD 1) (disarm u) s) := by
  refine (if_pos h).trans ?_
  rw [wuReg_eq hu]
  rfl

/-- A unit that is not held, its configuration stored. -/
def wuStored (u : Nat) (w : Word) (s : State) : State := setReg (0x6A00 + 64 * u) (w &&& 0x000FFFFC) (when (w.getLsbD 1) (disarm u) s)

theorem wuRefuses_stored {u : Nat} (hu : u < 4) (w : Word) (s : State) : wuRefuses (wuStored u w s) u w.toNat = wuRefuses s u w.toNat := by
  obtain ⟨hw, -, -, -⟩ := disarm_leaves hu (w.getLsbD 1) s
  have hreg : ∀ o, o < 0x6A00 ∨ 0x6B00 ≤ o → reg (wuStored u w s) o = reg s o := fun o ho => by
    refine (reg_setReg_ne (by omega) _ _).trans (hw.reg o ?_)
    rw [Bool.eq_false_iff]
    intro hp
    simp only [List.any_cons, List.any_nil, Span.has, Bool.or_false, Bool.and_eq_true, Nat.ble_eq] at hp
    omega
  have ho : watchOwn (wuStored u w s) u = watchOwn s u := by
    unfold watchOwn regArr
    rw [hreg _ (by omega)]
  unfold wuRefuses
  rw [ho, regB_eq_of_reg (hreg 0x4B04 (by omega))]

/-- A unit armed, before what it captured is forgotten. -/
def wuBegun (u : Nat) (w : Word) (s : State) : State :=
  setReg (0x6A00 + 64 * u + 0x24) 0 (setReg (0x6A00 + 64 * u + 0x20) 0 (setReg (0x6A00 + 64 * u + 0x1C) 1 (wuStored u w s)))

theorem writeWuCfg_free {u : Nat} (hu : u < 4) {w : Word} {s : State} (h : wuLocked s u = false) :
    writeWuCfg u w s = if w.getLsbD 0 = true then
        if wuRefuses s u w.toNat = false then
          clearWatch u (wuBegun u w s)
        else orReg (0x6A00 + 64 * u + 0x1C) 0x40 (wuStored u w s)
      else wuStored u w s := by
  have hst : setReg (0x6A00 + 64 * u + 0) (w &&& 0x000FFFFC) (when (w.getLsbD 1) (disarm u) s) = wuStored u w s := rfl
  refine (if_neg (by rw [h]; decide)).trans ?_
  simp only [wuReg_eq hu, bit_toNat, hst, wuRefuses_stored hu]
  cases w.getLsbD 0 with
  | false => rfl
  | true => cases wuRefuses s u w.toNat <;> rfl

/-- What a configuration that does not arm leaves. -/
theorem wuStored_leaves {u : Nat} (hu : u < 4) (w : Word) (s : State) :
    Only [.regs, .fr, .dbg] s (wuStored u w s) ∧ Within [⟨0x6A00 + 64 * u, 0, 1⟩, ⟨0x6A00 + 64 * u + 0x1C, 0, 1⟩] s (wuStored u w s)
      ∧ reg (wuStored u w s) (0x6A00 + 64 * u) = w &&& 0x000FFFFC
      ∧ reg (wuStored u w s) (0x6A00 + 64 * u + 0x1C)
        = (if w.getLsbD 1 = true then reg s (0x6A00 + 64 * u + 0x1C) &&& ~~~(3 : Word) else reg s (0x6A00 + 64 * u + 0x1C))
      ∧ (if w.getLsbD 1 = true then WatchForgot u s (wuStored u w s) else Only [.regs] s (wuStored u w s)) := by
  obtain ⟨hw, hon, hreg, hcl⟩ := disarm_leaves hu (w.getLsbD 1) s
  refine ⟨hon.trans ((setReg_only (0x6A00 + 64 * u) _ _).mono rfl), ?_, reg_setReg_self _ _ _, (reg_setReg_ne (by omega) _ _).trans hreg, ?_⟩
  · exact (hw.mono (by simp [spansIn, Span.inside])).trans ((setReg_within (0x6A00 + 64 * u) _ _).mono (by simp [spansIn, Span.inside]))
  · split
    next h =>
      rw [if_pos h] at hcl
      exact hcl.of_regs rfl rfl rfl rfl
    next h =>
      rw [if_neg h] at hcl
      rw [wuStored, hcl]
      exact setReg_only (0x6A00 + 64 * u) _ _
theorem wuBegun_frame (u : Nat) (w : Word) (s : State) : (wuBegun u w s).dbg = (wuStored u w s).dbg ∧ (wuBegun u w s).fr = (wuStored u w s).fr := ⟨rfl, rfl⟩

/-- What arming a unit that is not held leaves. -/
theorem wuArmed_leaves {u : Nat} (hu : u < 4) (w : Word) (s : State) :
    let t := clearWatch u (wuBegun u w s)
    Only [.regs, .fr, .dbg] s t ∧ WatchForgot u s t ∧ Within [⟨0x6A00 + 64 * u, 0, 1⟩, ⟨0x6A00 + 64 * u + 0x1C, 4, 3⟩] s t
      ∧ reg t (0x6A00 + 64 * u) = w &&& 0x000FFFFC ∧ reg t (0x6A00 + 64 * u + 0x1C) = 1 ∧ reg t (0x6A00 + 64 * u + 0x20) = 0
      ∧ reg t (0x6A00 + 64 * u + 0x24) = 0 := by
  obtain ⟨hon, hw, hcfg, -, hcl⟩ := wuStored_leaves hu w s
  obtain ⟨hbd, hbf⟩ := wuBegun_frame u w s
  refine ⟨?_, ?_, ?_, ?_, ?_, ?_, ?_⟩
  · exact hon.trans (((setReg_only (0x6A00 + 64 * u + 0x1C) 1 _).mono rfl).trans (((setReg_only (0x6A00 + 64 * u + 0x20) 0 _).mono rfl).trans
      (((setReg_only (0x6A00 + 64 * u + 0x24) 0 _).mono rfl).trans ((clearWatch_only u (wuBegun u w s)).mono rfl))))
  · have hf := clearWatch_forgets u (wuBegun u w s)
    by_cases h : w.getLsbD 1 = true
    · rw [if_pos h] at hcl
      exact hcl.trans (hf.of_regs hbd hbf rfl rfl)
    · rw [if_neg h] at hcl
      exact hf.of_regs (hbd.trans (hcl .dbg (by decide))) (hbf.trans (hcl .fr (by decide))) rfl rfl
  · have hb : Within [⟨0x6A00 + 64 * u + 0x1C, 4, 3⟩] (wuStored u w s) (wuBegun u w s) :=
      (((setReg_within (0x6A00 + 64 * u + 0x1C) 1 _).mono (by simp [spansIn, Span.inside])).trans
        ((setReg_within (0x6A00 + 64 * u + 0x20) 0 _).mono (by simp [spansIn, Span.inside]))).trans
        ((setReg_within (0x6A00 + 64 * u + 0x24) 0 _).mono (by simp [spansIn, Span.inside]))
    exact (hw.mono (by simp [spansIn, Span.inside])).trans (hb.mono (by simp [spansIn, Span.inside]))
  · rw [reg_clearWatch, wuBegun, reg_setReg_ne (by omega), reg_setReg_ne (by omega), reg_setReg_ne (by omega), hcfg]
  · rw [reg_clearWatch, wuBegun, reg_setReg_ne (by omega), reg_setReg_ne (by omega), reg_setReg_self]
  · rw [reg_clearWatch, wuBegun, reg_setReg_ne (by omega), reg_setReg_self]
  · rw [reg_clearWatch, wuBegun, reg_setReg_self]

/-! Dump readout -/

theorem bits_low2_lt (w : Nat) : bits w 1 0 < 4 := Nat.mod_lt _ (by decide)

theorem writeRdaddr_asks {l : Nat} {w : Word} {s : State} (hl : l = 0 ∨ watchOwn s (bits w.toNat 1 0) = 8 + l)
    (hn : bits w.toNat 31 16 < regF s (0x6A18 + 64 * bits w.toNat 1 0) 15 0) (hw : s.dbg.wrd = none) :
    writeRdaddr l w s = setRegF 0x6B14 1 0 1 (setReg 0x6B10 (w &&& 0xFFFF0003)
      (addTr (regionTr s (bits w.toNat 1 0) 192 false .dumpRd (regionBeat s (bits w.toNat 1 0) (bits w.toNat 31 16) false))
        { s with dbg := { s.dbg with wrd := some (bits w.toNat 1 0, bits w.toNat 31 16) } })) := by
  have ho : wuReg (bits w.toNat 1 0) 0x18 = 0x6A18 + 64 * bits w.toNat 1 0 := by
    rw [wuReg_eq (bits_low2_lt _)]
    omega
  refine if_neg ?_
  rw [ho, hw]
  rintro (⟨h0, ho⟩ | h | h)
  · exact hl.elim h0 ho
  · omega
  · cases h

theorem writeRdaddr_refuses {l : Nat} {w : Word} {s : State} (h : ¬ ((l = 0 ∨ watchOwn s (bits w.toNat 1 0) = 8 + l)
      ∧ bits w.toNat 31 16 < regF s (0x6A18 + 64 * bits w.toNat 1 0) 15 0 ∧ s.dbg.wrd = none)) : writeRdaddr l w s = orReg 0x6B14 4 s := by
  have ho : wuReg (bits w.toNat 1 0) 0x18 = 0x6A18 + 64 * bits w.toNat 1 0 := by
    rw [wuReg_eq (bits_low2_lt _)]
    omega
  refine if_pos ?_
  rw [ho]
  by_cases h1 : l = 0 ∨ watchOwn s (bits w.toNat 1 0) = 8 + l
  · by_cases h2 : bits w.toNat 31 16 < regF s (0x6A18 + 64 * bits w.toNat 1 0) 15 0
    · exact .inr (.inr (Option.isSome_iff_ne_none.mpr fun h3 => h ⟨h1, h2, h3⟩))
    · exact .inr (.inl (by omega))
  · exact .inl ⟨fun h0 => h1 (.inl h0), fun h0 => h1 (.inr h0)⟩

theorem exec_watchReadoutDone {s : State} {T : Tr} {b : Beat} (hr : inReset s = false) (h : readoutOf s .dumpRd = some (T, b)) :
    exec .watchReadoutDone s = .next (finishReadout b.flit (dropTr T.id s)) := by
  refine congrArg Host.Outcome.next ?_
  rw [hr, h]
  rfl

theorem finishReadout_eq (r : Row × Mask4) (s : State) : finishReadout r s
    = setRegF 0x6B14 7 4 r.2.toNat (setRegF 0x6B14 1 0 2 (setRowRegs 0x6B80 r.1 { s with dbg := { s.dbg with wrd := none } })) := rfl

theorem finishReadout_leaves (r : Row × Mask4) (s : State) : Only [.regs, .dbg] s (finishReadout r s) ∧ (finishReadout r s).dbg = { s.dbg with wrd := none }
    ∧ (∀ i, i < 32 → reg (finishReadout r s) (0x6B80 + 4 * i) = BitVec.ofNat 32 (r.1.toNat >>> (32 * i)))
    ∧ regF (finishReadout r s) 0x6B14 1 0 = 2 ∧ regF (finishReadout r s) 0x6B14 7 4 = r.2.toNat := by
  have hon := setRowRegs_only 0x6B80 r.1 { s with dbg := { s.dbg with wrd := none } }
  have hrow : ∀ i, i < 32 → _ := fun i hi => reg_setRowRegs (o := 0x6B80) hi r.1 { s with dbg := { s.dbg with wrd := none } }
  rw [finishReadout_eq]
  generalize setRowRegs 0x6B80 r.1 { s with dbg := { s.dbg with wrd := none } } = u at hon hrow ⊢
  have hso := ((setRegF_only 0x6B14 1 0 2 u).trans (setRegF_only 0x6B14 7 4 r.2.toNat _))
  refine ⟨((only_dbg s _).mono rfl).trans ((hon.mono rfl).trans (hso.mono rfl)), (hso .dbg (by decide)).trans (hon .dbg (by decide)), fun i hi => ?_, ?_, ?_⟩
  · exact (reg_setReg_ne (by omega) _ _).trans ((reg_setReg_ne (by omega) _ _).trans (hrow i hi))
  · exact (regF_setRegF_ne (.inl (by omega)) (by omega) (by omega)).trans (regF_setRegF (by omega))
  · rw [regF_setRegF (by omega)]
    exact Nat.mod_eq_of_lt r.2.isLt

/-- What the obligation asks of a unit that forgets its capture. -/
theorem WatchForgot.cleared {u : Nat} {s t : State} (h : WatchForgot u s t) (hon : Only [.regs, .bus, .fr, .dbg] s t) :
    Only [.regs, .bus, .fr, .dbg] s t ∧ (∀ k, watchAt t k = if k = u then Watch.idle else watchAt s k)
      ∧ t.fr = { s.fr with trs := t.fr.trs } ∧ (∀ T ∈ t.fr.trs, T.job ≠ .dump u) ∧ (∀ T ∈ s.fr.trs, T.job ≠ .dump u → T ∈ t.fr.trs) :=
  ⟨hon, h.unit, h.frame, h.none, h.others⟩

/-- A write of a watch unit's configuration by either of its commands. -/
theorem watchCommand {a : BusAcc} {u : BitVec 2} {w : Word} {s : State} (ha : accepts a true (0x6A00 + 64 * u.toNat) s) :
    ∃ t, exec (.watchArm a u w) s = .next t ∧ exec (.watchDisarm a u w) s = .next t ∧ answered 0 t ∧ Only [.bus] (writeWuCfg u.toNat w s) t
      ∧ Within [] (writeWuCfg u.toNat w s) t ∧ ∀ o, reg t o = reg (writeWuCfg u.toNat w s) o := by
  have ho : wuReg u.toNat 0 = 0x6A00 + 64 * u.toNat := wuReg_eq u.isLt 0
  obtain ⟨t, he, h⟩ := written (ho ▸ ha) (writeWuCfg u.toNat w)
  exact ⟨t, he, he, h⟩

/-- A mark set where its condition holds. -/
theorem orWhen_leaves (c : Bool) (o m : Nat) (s : State) : Only [.regs] s (when c (orReg o m) s) ∧ Within [⟨o, 0, 1⟩] s (when c (orReg o m) s)
    ∧ reg (when c (orReg o m) s) o = reg s o ||| (if c = true then BitVec.ofNat 32 m else 0)
    ∧ ∀ p, p ≠ o → reg (when c (orReg o m) s) p = reg s p := by
  cases c with
  | false => exact ⟨Only.refl _ s, Within.refl _ s, BitVec.or_zero.symm, fun _ _ => rfl⟩
  | true => exact ⟨setReg_only o _ s, setReg_within o _ s, reg_setReg_self _ _ s, fun _ hp => reg_setReg_ne hp _ s⟩

/-- HANG_CAPTURE and HANG_RELEASE (R449). -/
theorem hangSnapshot_held : ∀ (a : BusAcc) (s : State), accepts a true 0x6900 s →
      (regB s 0x6904 0 = false → ∃ t, exec (.hangCapture a) s = .next t ∧ answered 0 t ∧ Only [.regs, .bus, .dbg] s t ∧ Within [⟨0x6904, 0, 1⟩] s t
        ∧ reg t 0x6904 = (reg s 0x6904 &&& 8) ||| 1 ∧ t.dbg = { s.dbg with hang := hangImage 0 0 s })
      ∧ (regB s 0x6904 0 = true → ∃ t, exec (.hangCapture a) s = .next t ∧ answered 0 t ∧ Only [.regs, .bus] s t ∧ Within [⟨0x6904, 0, 1⟩] s t
        ∧ reg t 0x6904 = reg s 0x6904 ||| 8)
      ∧ (∃ t, exec (.hangRelease a) s = .next t ∧ answered 0 t ∧ Only [.regs, .bus] s t ∧ Within [⟨0x6904, 0, 1⟩] s t
        ∧ reg t 0x6904 = reg s 0x6904 &&& ~~~(1 : Word)) := by
  intro a s ha
  refine ⟨fun h => ?_, fun h => ?_, ?_⟩
  · obtain ⟨t, he, hans, hon, hwi, hreg⟩ := written ha commandHang
    obtain ⟨m, hm, hfree⟩ : ∃ m, hangImage 0 0 s = m ∧ commandHang s = setReg 0x6904 ((reg s 0x6904 &&& 8) ||| 1) { s with dbg := { s.dbg with hang := m } } :=
      ⟨_, rfl, commandHang_free h⟩
    rw [hfree] at hon hwi hreg
    rw [hm]
    refine ⟨t, he, hans, ?_, (setReg_within 0x6904 _ _ : Within _ s _).trans (hwi.mono rfl), (hreg _).trans (reg_setReg_self _ _ _), ?_⟩
    · exact ((only_dbg s _).mono rfl).trans (((setReg_only 0x6904 _ _).mono rfl).trans (hon.mono rfl))
    · exact (hon .dbg (by decide)).trans (setReg_dbg _ _ _)
  · obtain ⟨t, he, hans, hon, hwi, hreg⟩ := written ha commandHang
    rw [commandHang_held h] at hon hwi hreg
    exact ⟨t, he, hans, ((setReg_only 0x6904 _ s).mono rfl).trans (hon.mono rfl), (setReg_within 0x6904 _ s).trans (hwi.mono rfl),
      (hreg _).trans (reg_setReg_self _ _ _)⟩
  · obtain ⟨t, he, hans, hon, hwi, hreg⟩ := written ha releaseHang
    exact ⟨t, he, hans, ((setReg_only 0x6904 _ s).mono rfl).trans (hon.mono rfl), (setReg_within 0x6904 _ s).trans (hwi.mono rfl),
      (hreg _).trans (reg_setReg_self _ _ _)⟩

/-- The data words of the hang snapshot and of the scan capture (R447, R449). -/
theorem captureWords_read : ∀ (a : BusAcc) (s : State), wbState s = 3 →
      (accepts a false 0x690C s → ∃ t, exec (.hsDataRead a) s = .next t ∧ Only [.regs, .bus] s t ∧ Within [⟨0x6908, 0, 1⟩] s t
        ∧ answered (if regB s 0x6904 0 = true then NMap.get 0 s.dbg.hang (regF s 0x6908 9 0) else 0) t
        ∧ regF t 0x6908 9 0 = (if regB s 0x6908 16 = true then (regF s 0x6908 9 0 + 1) % 1024 else regF s 0x6908 9 0))
      ∧ (accepts a false 0x681C s → ∃ t, exec (.scanDataRead a) s = .next t ∧ Only [.regs, .bus] s t ∧ Within [⟨0x6818, 0, 1⟩] s t
        ∧ answered (if regB s 0x4B04 3 = true ∧ regF s 0x6814 1 0 = 2 then NMap.get 0 s.dbg.scan (regF s 0x6818 13 0) else 0) t
        ∧ regF t 0x6818 13 0 = (if regB s 0x6818 16 = true then (regF s 0x6818 13 0 + 1) % 12288 else regF s 0x6818 13 0)) := by
  intro a s hl
  refine ⟨fun ha => ?_, fun ha => ?_⟩
  · obtain ⟨t, he, hans, hon, hwi, hreg⟩ := readAnswered ha (fun s => beforeLoad s fun s =>
      (if regB s 0x6904 0 then NMap.get 0 s.dbg.hang (regF s 0x6908 9 0) else 0, advanceWord 0x6908 9 1024 s))
    rw [beforeLoad_loaded hl] at hans hon hwi hreg
    exact ⟨t, he, ((advanceWord_only 0x6908 9 1024 s).mono rfl).trans (hon.mono rfl), (advanceWord_within 0x6908 9 1024 s).trans (hwi.mono rfl), hans,
      (regF_eq_of_reg (hreg _)).trans (regF_advanceWord (by omega) (by omega) (by omega))⟩
  · obtain ⟨t, he, hans, hon, hwi, hreg⟩ := readAnswered ha (fun s => beforeLoad s fun s =>
      (if regB s 0x4B04 3 && regF s 0x6814 1 0 == 2 then NMap.get 0 s.dbg.scan (regF s 0x6818 13 0) else 0, advanceWord 0x6818 13 12288 s))
    rw [beforeLoad_loaded hl] at hans hon hwi hreg
    refine ⟨t, he, ((advanceWord_only 0x6818 13 12288 s).mono rfl).trans (hon.mono rfl), (advanceWord_within 0x6818 13 12288 s).trans (hwi.mono rfl), ?_,
      (regF_eq_of_reg (hreg _)).trans (regF_advanceWord (by omega) (by omega) (by omega))⟩
    simpa only [Bool.and_eq_true, beq_iff_eq] using hans

/-- SCAN_CAPTURE (R446). -/
theorem scanCapture_starts : ∀ (a : BusAcc) (s : State), accepts a true 0x6810 s → s.dbg.capturing = false →
      (halted s = true → regB s 0x4B04 3 = true → ∃ t, exec (.scanCapture a) s = .next t ∧ answered 0 t ∧ Only [.regs, .bus, .dbg] s t
        ∧ Within [⟨0x6814, 0, 1⟩] s t ∧ reg t 0x6814 = (reg s 0x6814 &&& 4) ||| 1 ∧ t.dbg = { s.dbg with capturing := true, scan := [] })
      ∧ (halted s = false ∨ regB s 0x4B04 3 = false → ∃ t, exec (.scanCapture a) s = .next t ∧ answered 0 t ∧ Only [.regs, .bus] s t
        ∧ Within [⟨0x6814, 0, 1⟩] s t ∧ reg t 0x6814 = reg s 0x6814 ||| 4) := by
  intro a s ha hc
  refine ⟨fun hh hg => ?_, fun h => ?_⟩
  · obtain ⟨t, he, hans, hon, hwi, hreg⟩ := written ha startScan
    rw [startScan_starts hc hh hg] at hon hwi hreg
    refine ⟨t, he, hans, ?_, (setReg_within 0x6814 _ _ : Within _ s _).trans (hwi.mono rfl), (hreg _).trans (reg_setReg_self _ _ _), ?_⟩
    · exact ((only_dbg s _).mono rfl).trans (((setReg_only 0x6814 _ _).mono rfl).trans (hon.mono rfl))
    · exact (hon .dbg (by decide)).trans (setReg_dbg _ _ _)
  · obtain ⟨t, he, hans, hon, hwi, hreg⟩ := written ha startScan
    rw [startScan_refuses hc h] at hon hwi hreg
    exact ⟨t, he, hans, ((setReg_only 0x6814 _ s).mono rfl).trans (hon.mono rfl), (setReg_within 0x6814 _ s).trans (hwi.mono rfl),
      (hreg _).trans (reg_setReg_self _ _ _)⟩

/-- SCAN_CAPTURE_DONE (R446). -/
theorem scanCapture_ends : ∀ (s : State), inReset s = false → s.dbg.capturing = true → ∃ t, exec .scanCaptureDone s = .next t ∧ Only [.regs, .dbg] s t
      ∧ Within [⟨0x6814, 0, 1⟩] s t ∧ reg t 0x6814 = (reg s 0x6814 &&& 4) ||| BitVec.ofNat 32 (2 + 65536 * 599)
      ∧ t.dbg = { s.dbg with capturing := false, scan := scanImage s } := by
  intro s hr hc
  refine ⟨_, exec_scanCaptureDone hr hc, ((only_dbg s _).mono rfl).trans ((setReg_only 0x6814 _ _).mono rfl), setReg_within 0x6814 _ _, ?_, setReg_dbg _ _ _⟩
  exact reg_setReg_self _ _ _

/-- BANK_READOUT (R448). -/
theorem bankReadout_asked : ∀ (a : BusAcc) (w : Word) (s : State), accepts a true 0x6820 s →
      let b := bits w.toNat 22 16; let phys := w.getLsbD 23
      let ok := regB s 0x4B04 4 = true ∧ regB s 0x6824 0 = false ∧ (if phys = true then b < 100 else b < 96)
      (ok → ∃ t, exec (.bankReadout a w) s = .next t ∧ answered 0 t ∧ Only [.regs, .bus, .fr, .dbg] s t ∧ Within [⟨0x6820, 4, 2⟩] s t
        ∧ reg t 0x6820 = w &&& 0x00FF01FF ∧ regF t 0x6824 1 0 = 1 ∧ regF t 0x6824 31 2 = regF s 0x6824 31 2
        ∧ t.dbg = { s.dbg with brd := some (if phys = true then b else pbankOf s b, bits w.toNat 8 0) }
        ∧ t.fr = { s.fr with nextId := s.fr.nextId + 1, trs := s.fr.trs ++ [{ exchTr s 193 false .bankRd (icls s 7)
            (rowBeat (if phys = true then (lbankOf s b).getD (128 + b) else b) (bits w.toNat 8 0)) with id := s.fr.nextId }] })
      ∧ (¬ok → ∃ t, exec (.bankReadout a w) s = .next t ∧ answered 0 t ∧ Only [.regs, .bus] s t ∧ Within [⟨0x6824, 0, 1⟩] s t
        ∧ reg t 0x6824 = reg s 0x6824 ||| 4) := by
  intro a w s ha b phys ok
  refine ⟨fun ⟨hg, hb, hok⟩ => ?_, fun h => ?_⟩
  · obtain ⟨t, he, hans, hon, hwi, hreg⟩ := written ha (startReadout w)
    rw [startReadout_asks hg hb hok] at hon hwi hreg
    generalize exchTr s 193 false .bankRd (icls s 7) (rowBeat (if w.getLsbD 23 = true then (lbankOf s (bits w.toNat 22 16)).getD (128 + bits w.toNat 22 16)
      else bits w.toNat 22 16) (bits w.toNat 8 0)) = T at hon hwi hreg ⊢
    refine ⟨t, he, hans, ?_, ?_, ?_, ?_, ?_, ?_, ?_⟩
    · exact ((only_dbg s _).mono rfl).trans (((addTr_only T _).mono rfl).trans (((setReg_only 0x6820 _ _).mono rfl).trans
        (((setRegF_only 0x6824 1 0 1 _).mono rfl).trans (hon.mono rfl))))
    · have h20 : Within [⟨0x6820, 4, 2⟩] s (setReg 0x6820 (w &&& 0x00FF01FF) (addTr T { s with dbg := { s.dbg with
          brd := some (if w.getLsbD 23 = true then bits w.toNat 22 16 else pbankOf s (bits w.toNat 22 16), bits w.toNat 8 0) } })) :=
        (setReg_within 0x6820 _ _ : Within _ s _).mono rfl
      exact h20.trans (((setReg_within 0x6824 _ _).mono rfl).trans (hwi.mono rfl))
    · exact (hreg _).trans ((reg_setReg_ne (by omega) _ _).trans (reg_setReg_self _ _ _))
    · exact (regF_eq_of_reg (hreg _)).trans (regF_setRegF (by omega))
    · rw [regF_eq_of_reg (hreg _), regF_setRegF_ne (.inr (by omega)) (by omega) (by omega)]
      exact regF_eq_of_reg (reg_setReg_ne (by omega) _ _)
    · exact hon .dbg (by decide)
    · exact hon .fr (by decide)
  · obtain ⟨t, he, hans, hon, hwi, hreg⟩ := written ha (startReadout w)
    rw [startReadout_refuses h] at hon hwi hreg
    exact ⟨t, he, hans, ((setReg_only 0x6824 _ s).mono rfl).trans (hon.mono rfl), (setReg_within 0x6824 _ s).trans (hwi.mono rfl),
      (hreg _).trans (reg_setReg_self _ _ _)⟩

/-- BANK_READOUT_DONE (R448). -/
theorem bankReadout_ends : ∀ (ups : List Upset) (s : State) (T : Tr) (b : Beat), inReset s = false → readoutOf s .bankRd = some (T, b) →
      ∃ t, exec (.bankReadoutDone ups) s = .next t ∧ Only [.regs, .bank, .fr, .dbg] s t ∧ (b.bad ≠ 0 → t.bank = s.bank) ∧ (b.bad = 0 → Struck (pbankOf s b.bank) b.row ups s t) ∧ Within [⟨0x6824, 0, 1⟩, ⟨0x6880, 4, 32⟩] s t
        ∧ t.fr = { s.fr with trs := s.fr.trs.filter fun u => u.id != T.id } ∧ t.dbg = { s.dbg with brd := none }
        ∧ (∀ i, i < 32 → reg t (0x6880 + 4 * i) = BitVec.ofNat 32 ((if b.bad = 0 then b.data else 0).toNat >>> (32 * i)))
        ∧ reg t 0x6824 = (reg s 0x6824 &&& 4) ||| BitVec.ofNat 32 (2 + 16 * (if b.bad = 0 then b.pois else 15).toNat + 256 * (if b.bad = 0 then b.en else 0).toNat) := by
  intro ups s T b hr h
  obtain ⟨hso, hsb, hss, hsf, hsw⟩ := bankReadout_strikes (ups := ups) b T.id s
  refine ⟨_, exec_bankReadoutDone hr h, ?_⟩
  generalize when (b.bad = 0) (strikeRow (pbankOf s b.bank) b.row ups) (dropTr T.id s) = u at hso hsb hss hsf hsw ⊢
  obtain ⟨hfo, hfd, hfr, hfs⟩ := finishBrd_leaves b.flit (if b.bad = 0 then b.en else 0) u
  have hbank : (finishBrd b.flit (if b.bad = 0 then b.en else 0) u).bank = u.bank := hfo .bank (by decide)
  refine ⟨(hso.mono rfl).trans (hfo.mono rfl), fun hb => hbank.trans (hsb hb), fun hb => ?_, (hsw.mono rfl).trans (finishBrd_within _ _ u),
    (hfo .fr (by decide)).trans hsf, ?_, fun i hi => ?_, ?_⟩
  · unfold Struck
    rw [hbank]
    exact hss hb
  · rw [hfd, hso .dbg (by decide)]
  · rw [hfr i hi, flit_data]
  · rw [hfs, flit_pois, hsw.reg 0x6824]

/-- A write of a watch unit: stored and armed, disarmed, or ignored (R453). -/
theorem watchUnit_written : ∀ (a : BusAcc) (u : BitVec 2) (w : Word) (s : State), let o := 0x6A00 + 64 * u.toNat; let st := regF s (o + 0x1C) 1 0
      let cleared : State → Prop := fun t => Only [.regs, .bus, .fr, .dbg] s t ∧ (∀ k, watchAt t k = if k = u.toNat then Watch.idle else watchAt s k)
        ∧ t.fr = { s.fr with trs := t.fr.trs } ∧ (∀ T ∈ t.fr.trs, T.job ≠ .dump u.toNat) ∧ (∀ T ∈ s.fr.trs, T.job ≠ .dump u.toNat → T ∈ t.fr.trs)
      accepts a true o s →
      (st ≠ 1 → st ≠ 2 → ∃ t, exec (.watchArm a u w) s = .next t ∧ exec (.watchDisarm a u w) s = .next t ∧ answered 0 t ∧ reg t o = w &&& 0x000FFFFC
          ∧ if w.getLsbD 0 = true ∧ wuRefuses s u.toNat w.toNat = false then
              cleared t ∧ Within [⟨o, 0, 1⟩, ⟨o + 0x1C, 4, 3⟩] s t ∧ reg t (o + 0x1C) = 1 ∧ reg t (o + 0x20) = 0 ∧ reg t (o + 0x24) = 0
            else Within [⟨o, 0, 1⟩, ⟨o + 0x1C, 0, 1⟩] s t ∧ (if w.getLsbD 1 = true then cleared t else Only [.regs, .bus] s t)
              ∧ reg t (o + 0x1C) = (if w.getLsbD 1 = true then reg s (o + 0x1C) &&& ~~~(3 : Word) else reg s (o + 0x1C))
                  ||| (if w.getLsbD 0 = true then 0x40 else 0))
      ∧ (st = 1 ∨ st = 2 → ∃ t, exec (.watchArm a u w) s = .next t ∧ exec (.watchDisarm a u w) s = .next t ∧ answered 0 t
          ∧ Within [⟨o + 0x1C, 0, 1⟩] s t ∧ (if w.getLsbD 1 = true then cleared t else Only [.regs, .bus] s t)
          ∧ reg t (o + 0x1C) = (if w.getLsbD 1 = true then reg s (o + 0x1C) &&& ~~~(3 : Word) else reg s (o + 0x1C)) ||| 0x80) := by
  intro a u w s o st cleared ha
  have hu : u.toNat < 4 := u.isLt
  obtain ⟨t, hea, hed, hans, hon, hwi, hreg⟩ := watchCommand (w := w) ha
  have hcl : ∀ v, WatchForgot u.toNat s v → Only [.regs, .fr, .dbg] s v → t.dbg = v.dbg → t.fr = v.fr → Only [.regs, .bus] v t → cleared t :=
    fun v hv ho hd hf hb => (hv.of_regs rfl rfl hd hf).cleared ((ho.mono rfl).trans (hb.mono rfl))
  refine ⟨fun h1 h2 => ⟨t, hea, hed, hans, ?_⟩, fun h => ⟨t, hea, hed, hans, ?_⟩⟩
  · have hfree : wuLocked s u.toNat = false := Bool.eq_false_iff.mpr fun hk => ((wuLocked_iff hu s).mp hk).elim h1 h2
    have hcfg := writeWuCfg_free hu (w := w) hfree
    obtain ⟨hso, hsw, hscfg, hsst, hscl⟩ := wuStored_leaves hu w s
    by_cases harm : w.getLsbD 0 = true ∧ wuRefuses s u.toNat w.toNat = false
    · rw [hcfg, if_pos harm.1, if_pos harm.2] at hon hwi hreg
      obtain ⟨hao, haf, haw, ha0, ha1, ha2, ha3⟩ := wuArmed_leaves hu w s
      refine ⟨(hreg _).trans ha0, ?_⟩
      rw [if_pos harm]
      exact ⟨hcl _ haf hao (hon .dbg (by decide)) (hon .fr (by decide)) (hon.mono rfl), haw.trans (hwi.mono rfl), (hreg _).trans ha1, (hreg _).trans ha2, (hreg _).trans ha3⟩
    · have hcfg' : writeWuCfg u.toNat w s = when (w.getLsbD 0) (orReg (0x6A00 + 64 * u.toNat + 0x1C) 0x40) (wuStored u.toNat w s) := by
        rw [hcfg]
        by_cases h0 : w.getLsbD 0 = true
        · rw [if_pos h0, if_neg fun hc => harm ⟨h0, hc⟩, h0]
          rfl
        · rw [if_neg h0, Bool.eq_false_iff.mpr h0]
          rfl
      rw [hcfg'] at hon hwi hreg
      obtain ⟨hwo, hww, hwr, hwn⟩ := orWhen_leaves (w.getLsbD 0) (0x6A00 + 64 * u.toNat + 0x1C) 0x40 (wuStored u.toNat w s)
      have hww' : Within [⟨0x6A00 + 64 * u.toNat, 0, 1⟩, ⟨0x6A00 + 64 * u.toNat + 0x1C, 0, 1⟩] (wuStored u.toNat w s)
        (when (w.getLsbD 0) (orReg (0x6A00 + 64 * u.toNat + 0x1C) 0x40) (wuStored u.toNat w s)) := hww.mono (by simp [spansIn, Span.inside])
      have hcfg0 : reg (when (w.getLsbD 0) (orReg (0x6A00 + 64 * u.toNat + 0x1C) 0x40) (wuStored u.toNat w s)) (0x6A00 + 64 * u.toNat)
          = reg (wuStored u.toNat w s) (0x6A00 + 64 * u.toNat) := hwn _ (by omega)
      refine ⟨(hreg _).trans (hcfg0.trans hscfg), ?_⟩
      rw [if_neg harm]
      refine ⟨?_, ?_, ?_⟩
      · exact hsw.trans (hww'.trans (hwi.mono rfl))
      · split
        next hd =>
          rw [if_pos hd] at hscl
          exact hcl _ hscl hso ((hon .dbg (by decide)).trans (hwo .dbg (by decide))) ((hon .fr (by decide)).trans (hwo .fr (by decide)))
            ((hwo.mono rfl).trans (hon.mono rfl))
        next hd =>
          rw [if_neg hd] at hscl
          exact (hscl.mono rfl).trans ((hwo.mono rfl).trans (hon.mono rfl))
      · refine (hreg _).trans (hwr.trans ?_)
        rw [hsst]
        rfl
  · have hheld : wuLocked s u.toNat = true := (wuLocked_iff hu s).mpr h
    rw [writeWuCfg_held hu hheld] at hon hwi hreg
    obtain ⟨hdw, hdo, hdr, hdc⟩ := disarm_leaves hu (w.getLsbD 1) s
    generalize when (w.getLsbD 1) (disarm u.toNat) s = v at hon hwi hreg hdw hdo hdr hdc
    have hvo := setReg_only (0x6A00 + 64 * u.toNat + 0x1C) (reg v (0x6A00 + 64 * u.toNat + 0x1C) ||| BitVec.ofNat 32 0x80) v
    refine ⟨hdw.trans ((setReg_within (0x6A00 + 64 * u.toNat + 0x1C) _ v).trans (hwi.mono rfl)), ?_, ?_⟩
    · split
      next hd =>
        rw [if_pos hd] at hdc
        exact hcl v hdc hdo ((hon .dbg (by decide)).trans (hvo .dbg (by decide))) ((hon .fr (by decide)).trans (hvo .fr (by decide)))
          ((hvo.mono rfl).trans (hon.mono rfl))
      next hd =>
        rw [if_neg hd] at hdc
        rw [hdc] at hvo hon
        exact (hvo.mono rfl).trans (hon.mono rfl)
    · refine (hreg _).trans ((reg_setReg_self _ _ v).trans ?_)
      rw [hdr]
      rfl

/-- WATCH_READOUT (R454). -/
theorem watchReadout_asked : ∀ (a : BusAcc) (w : Word) (s : State), accepts a true 0x6B10 s →
      let u := bits w.toNat 1 0; let n := bits w.toNat 31 16
      let ok := (a.priv.toNat = 0 ∨ watchOwn s u = 8 + a.priv.toNat) ∧ n < regF s (0x6A18 + 64 * u) 15 0 ∧ s.dbg.wrd = none
      (ok → ∃ t, exec (.watchReadout a w) s = .next t ∧ answered 0 t ∧ Only [.regs, .bus, .fr, .dbg] s t ∧ Within [⟨0x6B10, 4, 2⟩] s t
        ∧ reg t 0x6B10 = w &&& 0xFFFF0003 ∧ regF t 0x6B14 1 0 = 1 ∧ t.dbg = { s.dbg with wrd := some (u, n) }
        ∧ t.fr = { s.fr with nextId := s.fr.nextId + 1, trs := s.fr.trs ++ [{ regionTr s u 192 false .dumpRd (regionBeat s u n false) with id := s.fr.nextId }] })
      ∧ (¬ok → ∃ t, exec (.watchReadout a w) s = .next t ∧ answered 0 t ∧ Only [.regs, .bus] s t ∧ Within [⟨0x6B14, 0, 1⟩] s t
        ∧ reg t 0x6B14 = reg s 0x6B14 ||| 4) := by
  intro a w s ha u n ok
  refine ⟨fun ⟨hl, hn, hw⟩ => ?_, fun h => ?_⟩
  · obtain ⟨t, he, hans, hon, hwi, hreg⟩ := written ha (writeRdaddr (lvl a) w)
    rw [writeRdaddr_asks (l := lvl a) hl hn hw] at hon hwi hreg
    refine ⟨t, he, hans, ?_, ?_, ?_, ?_, ?_, ?_⟩
    · exact ((only_dbg s _).mono rfl).trans (((addTr_only _ _).mono rfl).trans (((setReg_only 0x6B10 _ _).mono rfl).trans
        (((setRegF_only 0x6B14 1 0 1 _).mono rfl).trans (hon.mono rfl))))
    · generalize regionTr s (bits w.toNat 1 0) 192 false .dumpRd (regionBeat s (bits w.toNat 1 0) (bits w.toNat 31 16) false) = T at hwi
      have h10 : Within [⟨0x6B10, 4, 2⟩] s (setReg 0x6B10 (w &&& 0xFFFF0003) (addTr T { s with dbg := { s.dbg with
          wrd := some (bits w.toNat 1 0, bits w.toNat 31 16) } })) := (setReg_within 0x6B10 _ _ : Within _ s _).mono rfl
      exact h10.trans (((setReg_within 0x6B14 _ _).mono rfl).trans (hwi.mono rfl))
    · exact (hreg _).trans ((reg_setReg_ne (by omega) _ _).trans (reg_setReg_self _ _ _))
    · exact (regF_eq_of_reg (hreg _)).trans (regF_setRegF (by omega))
    · exact hon .dbg (by decide)
    · exact hon .fr (by decide)
  · obtain ⟨t, he, hans, hon, hwi, hreg⟩ := written ha (writeRdaddr (lvl a) w)
    rw [writeRdaddr_refuses (l := lvl a) h] at hon hwi hreg
    exact ⟨t, he, hans, ((setReg_only 0x6B14 _ s).mono rfl).trans (hon.mono rfl), (setReg_within 0x6B14 _ s).trans (hwi.mono rfl),
      (hreg _).trans (reg_setReg_self _ _ _)⟩

/-- WATCH_READOUT_DONE (R454). -/
theorem watchReadout_ends : ∀ (s : State) (T : Tr) (b : Beat), inReset s = false → readoutOf s .dumpRd = some (T, b) →
      ∃ t, exec .watchReadoutDone s = .next t ∧ Only [.regs, .fr, .dbg] s t ∧ Within [⟨0x6B14, 0, 1⟩, ⟨0x6B80, 4, 32⟩] s t
        ∧ t.fr = { s.fr with trs := s.fr.trs.filter fun u => u.id != T.id } ∧ t.dbg = { s.dbg with wrd := none }
        ∧ (∀ i, i < 32 → reg t (0x6B80 + 4 * i) = BitVec.ofNat 32 ((if b.bad = 0 then b.data else 0).toNat >>> (32 * i)))
        ∧ regF t 0x6B14 1 0 = 2 ∧ regF t 0x6B14 7 4 = (if b.bad = 0 then b.pois else 15).toNat := by
  intro s T b hr h
  obtain ⟨hfo, hfd, hfr, hf1, hf7⟩ := finishReadout_leaves b.flit (dropTr T.id s)
  refine ⟨_, exec_watchReadoutDone hr h, ((dropTr_only T.id s).mono rfl).trans (hfo.mono rfl), ?_, hfo .fr (by decide), hfd, fun i hi => ?_, hf1, ?_⟩
  · exact finishReadout_within b.flit (dropTr T.id s)
  · rw [hfr i hi, flit_data]
  · rw [hf7, flit_pois]

/-- Settles O58, command by command. -/
theorem snapshotsAndReadoutsShowTheBlock : Obligations.SnapshotsAndReadoutsShowTheBlock := by
  unfold Obligations.SnapshotsAndReadoutsShowTheBlock
  exact ⟨hangSnapshot_held, captureWords_read, scanCapture_starts, scanCapture_ends, bankReadout_asked, bankReadout_ends, watchUnit_written, watchReadout_asked, watchReadout_ends⟩

end Sys2Proof.Machine
end

section
/-!
PROOFS. A RELOCK withdraws what a watch unit asked (R411, R453).
-/
namespace Sys2Proof.Machine

/-- A served block in which S holds the grant of cross-context watches (GXWATCH), and unit 0 captures a slip of context 1 for a slot of
context 0: one row of its dump region is asked at IW11 and not yet granted. -/
def crossWatched : State :=
  let u := [(0x4420, 3), (0x4B04, 0x22), (0x6A00, 0x200), (0x6A1C, 2)].foldl (fun s e => setReg e.1 (BitVec.ofNat 32 e.2) s)
    { State.reset with ck := { State.reset.ck with por := false, trst := false } }
  addTr (exchTr u 205 true (.dump 0) 0 (rowBeat 0 0)) u

/-- The service processor's RELOCK. -/
def relockBy : BusAcc := ⟨2, 0, 2, false⟩

theorem crossWatched_relockable : inReset crossWatched = false ∧ busMisfit relockBy 0x4B00 = false ∧ accessOk crossWatched relockBy true 0x4B00 = true
    ∧ purging crossWatched = false := by decide

theorem crossWatched_asks : crossWatched.fr.trs.length = 1 := by decide

/-- The RELOCK disarms the unit (R453), which withdraws the row that it asked. -/
theorem crossWatched_relocked : ∃ t, exec (.relock relockBy 0x5A02) crossWatched = .next t ∧ t.fr.trs.length = 0 := ⟨_, rfl, by decide⟩

/-- Refutes O52: a RELOCK changes not only registers, the bus answer and the debug state. It disarms a watch unit whose context GXWATCH
alone allowed (R453), and with the unit goes the row of its dump region that waits ungranted at IW11. -/
theorem not_unlockPurgesAndRelockLocks : ¬ Obligations.UnlockPurgesAndRelockLocks := by
  unfold Obligations.UnlockPurgesAndRelockLocks
  rintro ⟨hdebug, -⟩
  obtain ⟨hr, hm, ha, hp⟩ := crossWatched_relockable
  obtain ⟨-, -, -, hrelock⟩ := hdebug relockBy 0x5A02 crossWatched hr hm ha hp (by decide)
  obtain ⟨t, he, -, hon, -⟩ := hrelock (by decide)
  obtain ⟨u, hu, hlen⟩ := crossWatched_relocked
  have hfr : t.fr = crossWatched.fr := hon .fr (by decide)
  have htu : t = u := Host.Outcome.next.inj (he.symm.trans hu)
  rw [← htu, hfr, crossWatched_asks] at hlen
  exact absurd hlen (by decide)

end Sys2Proof.Machine
end

section
/-!
PROOFS. Descriptors, ARM, ABORT and norm-group control (R306 to R309, R322).
-/
namespace Sys2Proof.Machine

/-! The descriptor window (R306) -/

/-- The address after an access with AUTOINC. -/
def baddrNext (a : Nat) : Nat := fld ((16 * bits a 13 8 + bits a 3 0 + 1) / 16 % 64) 8 + (16 * bits a 13 8 + bits a 3 0 + 1) % 16 + 2 ^ 16

theorem baddrNext_lt (a : Nat) : baddrNext a < 2 ^ 32 := by
  unfold baddrNext fld
  rw [Nat.shiftLeft_eq]
  omega

/-- The address of a level, written. -/
def setBaddr (l n : Nat) (s : State) : State := { s with bus := { s.bus with baddr := NMap.set 0 s.bus.baddr l (BitVec.ofNat 32 n) } }

theorem baddrAdvance_eq (k : Nat) (s : State) : baddrAdvance k s = if bit (baddr s k) 16 = true then setBaddr k (baddrNext (baddr s k)) s else s := by
  unfold baddrAdvance setBaddr baddrNext
  rw [Nat.mul_comm 16]

theorem baddr_setBaddr {k l n : Nat} {s : State} (h : n < 2 ^ 32) : baddr (setBaddr k n s) l = if l = k then n else baddr s l := by
  refine (congrArg BitVec.toNat (NMap.get_set (0 : Word) s.bus.baddr (BitVec.ofNat 32 n) k l)).trans ?_
  split
  · rw [BitVec.toNat_ofNat, Nat.mod_eq_of_lt h]
  · rfl

theorem baddr_advance (k l : Nat) (s : State) : baddr (baddrAdvance k s) l = if l = k ∧ bit (baddr s k) 16 = true then baddrNext (baddr s k) else baddr s l := by
  rw [baddrAdvance_eq]
  by_cases hb : bit (baddr s k) 16 = true
  · rw [if_pos hb, baddr_setBaddr (baddrNext_lt _)]
    by_cases hl : l = k
    · rw [if_pos hl, if_pos ⟨hl, hb⟩]
    · rw [if_neg hl, if_neg fun h => hl h.1]
  · rw [if_neg hb, if_neg fun h => hb h.2]

theorem baddr_respond (l : Nat) (d : Word) (e : Bool) (s : State) : baddr (respond d e s) l = baddr s l := rfl

/-- The effect of a write of a descriptor word but for the address. -/
def bdataStored (l : Nat) (w : Word) (s : State) : State :=
  if bktMine s l (bits (baddr s l) 13 8) = true ∧ ((bktAt s (bits (baddr s l) 13 8)).st = 0 ∨ (bktAt s (bits (baddr s l) 13 8)).st = 4) then
    { s with rx := { s.rx with desc := NMap.set 0 s.rx.desc (16 * bits (baddr s l) 13 8 + bits (baddr s l) 3 0) w } }
  else orReg 0x380C 0x10 s

theorem writeBdata_eq (l : Nat) (w : Word) (s : State) : writeBdata l w s = baddrAdvance l (bdataStored l w s) := by
  unfold writeBdata bdataStored
  simp only [Bool.and_eq_true, Bool.or_eq_true, beq_iff_eq]

theorem bdataStored_bus (l : Nat) (w : Word) (s : State) : (bdataStored l w s).bus = s.bus := by
  unfold bdataStored
  split
  · rfl
  · exact setReg_bus _ _ s

theorem bdataStored_leaves (l : Nat) (w : Word) (s : State) : Within [⟨0x380C, 0, 1⟩] s (bdataStored l w s)
    ∧ if bktMine s l (bits (baddr s l) 13 8) = true ∧ ((bktAt s (bits (baddr s l) 13 8)).st = 0 ∨ (bktAt s (bits (baddr s l) 13 8)).st = 4) then
        (bdataStored l w s).regs = s.regs ∧ (bdataStored l w s).rx = { s.rx with desc := (bdataStored l w s).rx.desc }
          ∧ ∀ i, NMap.get 0 (bdataStored l w s).rx.desc i
              = if i = 16 * bits (baddr s l) 13 8 + bits (baddr s l) 3 0 then w else NMap.get 0 s.rx.desc i
      else (bdataStored l w s).rx = s.rx ∧ regB (bdataStored l w s) 0x380C 4 = true := by
  unfold bdataStored
  split
  · exact ⟨Within.refl _ s, rfl, rfl, fun i => NMap.get_set (0 : Word) s.rx.desc w _ i⟩
  · exact ⟨setReg_within 0x380C _ s, setReg_rx _ _ s, orReg_bit (i := 4) (by omega)⟩

/-! ARM (R307) -/

theorem armBucket_arms {l b : Nat} {s : State} (h : armReason s l b = none) (ho : rdxOpen s = true) :
    armBucket l b s = setBkt b { Bkt.free with st := 1, desc := descOf s b, use := (bktAt s b).use + 1 } s := by
  unfold armBucket
  rw [h]
  exact if_pos ho

theorem armBucket_refuses {l b r : Nat} {s : State} (h : armReason s l b = some r) : armBucket l b s = refuseBkt b r s := by
  unfold armBucket
  rw [h]

theorem refuseBkt_status (b r : Nat) (s : State) :
    reg (refuseBkt b r s) 0x380C = BitVec.ofNat 32 (1 + fld r 1 + (if regB s 0x380C 4 = true then 16 else 0) + fld b 8) := by
  refine (reg_setReg_self _ _ _).trans ?_
  cases regB s 0x380C 4 <;> rfl

theorem bktAt_setBkt (b k : Nat) (x : Bkt) (s : State) : bktAt (setBkt b x s) k = if k = b then x else bktAt s k :=
  NMap.get_set Bkt.free s.rx.bkt x b k

theorem ngAt_setNg (g k : Nat) (x : NGrp) (s : State) : ngAt (setNg g x s) k = if k = g then x else ngAt s k :=
  NMap.get_set NGrp.none s.rx.ng x g k

/-! ABORT (R309) -/

/-- What an abort takes from the reduction port before its bucket's flits and group. -/
def bucketEmptied (b : Nat) (s : State) : State :=
  { s with rx := { s.rx with
      dir := s.rx.dir.filter (fun e => e.bucket != b)
      slots := s.rx.slots.filter (fun f => f.bucket != b)
      ops := s.rx.ops.filter fun o => !(abortOps s b).contains o.id } }

/-- The reduction port as an abort's flits leave it. -/
structure PortKept (s t : State) : Prop where
  bkt : t.rx.bkt = s.rx.bkt
  slots : t.rx.slots = s.rx.slots
  dir : t.rx.dir = s.rx.dir
  ops : t.rx.ops = s.rx.ops
  ng : t.rx.ng = s.rx.ng
  eg : t.rx.eg = s.rx.eg
  desc : t.rx.desc = s.rx.desc

theorem PortKept.refl (s : State) : PortKept s s := ⟨rfl, rfl, rfl, rfl, rfl, rfl, rfl⟩

theorem PortKept.of_rx {s t : State} (h : t.rx = s.rx) : PortKept s t := by
  constructor <;> rw [h]

theorem PortKept.trans {s t u : State} (h : PortKept s t) (k : PortKept t u) : PortKept s u :=
  ⟨k.bkt.trans h.bkt, k.slots.trans h.slots, k.dir.trans h.dir, k.ops.trans h.ops, k.ng.trans h.ng, k.eg.trans h.eg, k.desc.trans h.desc⟩

theorem PortKept.forEach {α : Type} {f : α → State → State} (hf : ∀ x s, PortKept s (f x s)) (l : List α) (s : State) : PortKept s (forEach l f s) := by
  induction l generalizing s with
  | nil => exact PortKept.refl s
  | cons x l ih => exact (hf x s).trans (ih (f x s))

theorem freeSlot_keeps (v : Nat) (s : State) : PortKept s (freeSlot v s) := ⟨rfl, rfl, rfl, rfl, rfl, rfl, rfl⟩
theorem holeFreed_keeps (v : Nat) (s : State) : PortKept s (holeFreed v s) := ⟨rfl, rfl, rfl, rfl, rfl, rfl, rfl⟩

theorem when_keeps {f : State → State} (hf : ∀ s, PortKept s (f s)) (c : Bool) (s : State) : PortKept s (when c f s) := by
  cases c with
  | false => exact PortKept.refl s
  | true => exact hf s

/-- The emptied port with its flits counted out. -/
def bucketDrained (b : Nat) (s : State) : State :=
  forEach (s.rx.slots.filter fun f => f.bucket == b) (fun f s => freeSlot f.vc (dropFlit 2 f s))
    (when (s.rx.dir.any fun e => e.bucket == b) (holeFreed (dVc (bktAt s b).desc)) (dropJobs (Job.isOf (abortOps s b)) (bucketEmptied b s)))

theorem bucketDrained_keeps (b : Nat) (s : State) : PortKept (bucketEmptied b s) (bucketDrained b s) := by
  have hjobs : PortKept (bucketEmptied b s) (dropJobs (Job.isOf (abortOps s b)) (bucketEmptied b s)) := .of_rx (dropJobs_only _ _ .rx (by decide))
  have hholes := when_keeps (holeFreed_keeps (dVc (bktAt s b).desc)) (s.rx.dir.any fun e => e.bucket == b) (dropJobs (Job.isOf (abortOps s b)) (bucketEmptied b s))
  have hflits : ∀ (f : RFlit) u, PortKept u (freeSlot f.vc (dropFlit 2 f u)) := fun f u =>
    (PortKept.of_rx (dropFlit_only 2 f u .rx (by decide))).trans (freeSlot_keeps f.vc _)
  exact hjobs.trans (hholes.trans (PortKept.forEach hflits _ _))

theorem dropBucket_eq (b : Nat) (s : State) : dropBucket b s = raise 37 (updBkt b (fun k => { k with st := 0, norm := 0, imm := [], sent := 0, dlv := 0 })
    (when (dNgen (bktAt s b).desc) (fun u => setNg (dNgrp (bktAt s b).desc) { ngAt u (dNgrp (bktAt s b).desc) with lost := true } u) (bucketDrained b s))) := rfl

theorem updBkt_rx (b : Nat) (f : Bkt → Bkt) (s : State) : (updBkt b f s).rx = { s.rx with bkt := (updBkt b f s).rx.bkt } := rfl

theorem dropBucket_leaves (b : Nat) (s : State) : (bktAt (dropBucket b s) b).st = 0 ∧ (∀ k, k ≠ b → bktAt (dropBucket b s) k = bktAt s k)
    ∧ (dropBucket b s).rx.slots = s.rx.slots.filter (fun f => f.bucket != b) ∧ (dropBucket b s).rx.dir = s.rx.dir.filter (fun e => e.bucket != b)
    ∧ (∀ o, o ∈ (dropBucket b s).rx.ops ↔ o ∈ s.rx.ops ∧ o.id ∉ abortOps s b)
    ∧ (∀ g, ngAt (dropBucket b s) g = if dNgen (bktAt s b).desc = true ∧ g = dNgrp (bktAt s b).desc then { ngAt s g with lost := true } else ngAt s g)
    ∧ (dropBucket b s).rx.eg = s.rx.eg ∧ (dropBucket b s).rx.desc = s.rx.desc ∧ regB (dropBucket b s) 0x7004 5 = true := by
  have hk := bucketDrained_keeps b s
  have hbk : ∀ k, bktAt (bucketDrained b s) k = bktAt s k := fun k => by
    rw [bktAt, hk.bkt]
    rfl
  have hng : ∀ g, ngAt (bucketDrained b s) g = ngAt s g := fun g => by
    rw [ngAt, hk.ng]
    rfl
  obtain ⟨u, hu⟩ : ∃ u, u = when (dNgen (bktAt s b).desc) (fun u => setNg (dNgrp (bktAt s b).desc) { ngAt u (dNgrp (bktAt s b).desc) with lost := true } u)
    (bucketDrained b s) := ⟨_, rfl⟩
  have hux : u.rx = { (bucketDrained b s).rx with ng := u.rx.ng } := by
    rw [hu]
    unfold when
    split <;> rfl
  have hung : ∀ g, ngAt u g = if dNgen (bktAt s b).desc = true ∧ g = dNgrp (bktAt s b).desc then { ngAt s g with lost := true } else ngAt s g := fun g => by
    rw [hu]
    unfold when
    by_cases hd : dNgen (bktAt s b).desc = true
    · rw [if_pos hd, ngAt_setNg, hng, hng]
      by_cases hg : g = dNgrp (bktAt s b).desc
      · rw [if_pos hg, if_pos ⟨hd, hg⟩, hg]
      · rw [if_neg hg, if_neg fun h => hg h.2]
    · rw [if_neg hd, if_neg fun h => hd h.1, hng]
  have hub : ∀ k, bktAt u k = bktAt s k := fun k => by
    rw [bktAt, hux]
    exact hbk k
  have hd : dropBucket b s = raise 37 (updBkt b (fun k => { k with st := 0, norm := 0, imm := [], sent := 0, dlv := 0 }) u) := by
    rw [hu]
    exact dropBucket_eq b s
  have hrx : (dropBucket b s).rx = (updBkt b (fun k => { k with st := 0, norm := 0, imm := [], sent := 0, dlv := 0 }) u).rx := by
    rw [hd]
    exact raise_only 37 _ .rx (by decide)
  have hbkt : ∀ k, bktAt (dropBucket b s) k = if k = b then { bktAt s b with st := 0, norm := 0, imm := [], sent := 0, dlv := 0 } else bktAt s k := fun k => by
    rw [bktAt, hrx]
    refine (bktAt_updBkt b k _ u).trans ?_
    rw [hub, hub]
  have hsl : (dropBucket b s).rx = { (bucketDrained b s).rx with ng := u.rx.ng, bkt := (dropBucket b s).rx.bkt } := by
    rw [hrx]
    refine (updBkt_rx b _ u).trans ?_
    rw [hux]
  refine ⟨?_, fun k hne => (hbkt k).trans (if_neg hne), ?_, ?_, fun o => ?_, fun g => ?_, ?_, ?_, ?_⟩
  · rw [hbkt, if_pos rfl]
  · rw [hsl]
    exact hk.slots
  · rw [hsl]
    exact hk.dir
  · rw [hsl]
    show o ∈ (bucketDrained b s).rx.ops ↔ _
    rw [hk.ops]
    show o ∈ s.rx.ops.filter _ ↔ _
    simp
  · rw [ngAt, hrx]
    exact hung g
  · rw [hsl]
    exact hk.eg
  · rw [hsl]
    exact hk.desc
  · rw [hd]
    exact raise_sets 37 _

theorem abortBucket_aborts {l b : Nat} {s : State} (hst : (bktAt s b).st = 1 ∨ (bktAt s b).st = 2) (hm : bktMine s l b = true) :
    abortBucket l b s = dropBucket b s :=
  (if_neg fun h => hst.elim h.1 h.2).trans (if_neg (by rw [hm]; decide))

theorem abortBucket_refuses {l b : Nat} {s : State} (h1 : (bktAt s b).st ≠ 1) (h2 : (bktAt s b).st ≠ 2) : abortBucket l b s = refuseBkt b 0 s :=
  if_pos ⟨h1, h2⟩

/-- Settles O48: descriptor words, ARM, ABORT and the control of a norm group. -/
theorem bucketsAreDescribedArmedAndAborted : Obligations.BucketsAreDescribedArmedAndAborted := by
  unfold Obligations.BucketsAreDescribedArmedAndAborted
  refine ⟨?_, ?_, ?_, ?_⟩
  · intro a w s ha A b
    obtain ⟨hsw, hsc⟩ := bdataStored_leaves (lvl a) w s
    have hmk : accepts a true 0x3814 s := ha
    have hst : (writeBdata (lvl a) w s).regs = (bdataStored (lvl a) w s).regs ∧ (writeBdata (lvl a) w s).rx = (bdataStored (lvl a) w s).rx
        ∧ (writeBdata (lvl a) w s).cnt = (bdataStored (lvl a) w s).cnt := by
      rw [writeBdata_eq]
      have ho := baddrAdvance_only (lvl a) (bdataStored (lvl a) w s)
      exact ⟨ho .regs (by decide), ho .rx (by decide), ho .cnt (by decide)⟩
    have hb0 : ∀ l, baddr (bdataStored (lvl a) w s) l = baddr s l := fun l => by rw [baddr, bdataStored_bus, baddr]
    have hba : ∀ l, baddr (writeBdata (lvl a) w s) l = if l = lvl a ∧ bit (baddr s (lvl a)) 16 = true then baddrNext (baddr s (lvl a)) else baddr s l := fun l => by
      rw [writeBdata_eq, baddr_advance, hb0, hb0]
    refine ⟨respond 0 false (writeBdata (lvl a) w s), congrArg Host.Outcome.next (busWrite_accepts ha), ⟨rfl, rfl⟩, ?_, ?_, fun l => (baddr_respond l _ _ _).trans (hba l)⟩
    · intro o ho
      obtain ⟨hr, hc⟩ := hsw o ho
      exact ⟨(congrArg (NMap.get 0 · o) hst.1).trans hr, (congrArg (NMap.get 0 · o) hst.2.2).trans hc⟩
    · have hrg : ∀ o, reg (respond 0 false (writeBdata (lvl a) w s)) o = reg (bdataStored (lvl a) w s) o := fun o => congrArg (NMap.get 0 · o) hst.1
      rw [respond_rx, respond_regs, regB_eq_of_reg (hrg _), hst.1, hst.2.1]
      exact hsc
  · intro a s ha A b
    have he : exec (.bdataRead a) s = .next (respond (if bktMine s (lvl a) b = true then NMap.get 0 s.rx.desc (16 * b + bits (baddr s (lvl a)) 3 0) else 0) false
      (baddrAdvance (lvl a) s)) := congrArg Host.Outcome.next (busRead_accepts ha)
    exact ⟨_, he, (baddrAdvance_only (lvl a) s).trans (respond_only _ _ _), ⟨rfl, rfl⟩, fun l => (baddr_respond l _ _ _).trans (baddr_advance (lvl a) l s)⟩
  · intro a bucket s ha b
    refine ⟨?_, fun hst hm => ?_, fun h1 h2 => ?_⟩
    · split
      next h =>
        intro ho
        obtain ⟨t, he, hans, hon, hwi, hreg⟩ := written ha (armBucket (lvl a) b)
        rw [armBucket_arms h ho] at hon
        have hrx : t.rx = (setBkt b { Bkt.free with st := 1, desc := descOf s b, use := (bktAt s b).use + 1 } s).rx := hon .rx (by decide)
        refine ⟨t, he, hans, ((setBkt_only b _ s).mono rfl).trans (hon.mono rfl), by rw [hrx]; rfl, fun k => ?_⟩
        rw [bktAt, hrx]
        exact bktAt_setBkt b k _ s
      next r h =>
        obtain ⟨t, he, hans, hon, hwi, hreg⟩ := written ha (armBucket (lvl a) b)
        rw [armBucket_refuses h] at hon hwi hreg
        exact ⟨t, he, hans, ((setReg_only 0x380C _ s).mono rfl).trans (hon.mono rfl), (setReg_within 0x380C _ s).trans (hwi.mono rfl),
          (hreg _).trans (refuseBkt_status b r s)⟩
    · obtain ⟨t, he, hans, hon, hwi, hreg⟩ := written ha (abortBucket (lvl a) b)
      rw [abortBucket_aborts hst hm] at hon hreg
      obtain ⟨hs0, hk, hsl, hdir, hops, hng, heg, hdesc, h5⟩ := dropBucket_leaves b s
      have hrx : t.rx = (dropBucket b s).rx := hon .rx (by decide)
      have hbk : ∀ k, bktAt t k = bktAt (dropBucket b s) k := fun k => by rw [bktAt, hrx, bktAt]
      have hgk : ∀ k, ngAt t k = ngAt (dropBucket b s) k := fun k => by rw [ngAt, hrx, ngAt]
      refine ⟨t, he, hans, (by rw [hbk]; exact hs0), fun k hne => (hbk k).trans (hk k hne), ?_⟩
      rw [hrx, regB_eq_of_reg (hreg _)]
      exact ⟨hsl, hdir, hops, fun g => (hgk g).trans (hng g), heg, hdesc, h5⟩
    · obtain ⟨t, he, hans, hon, hwi, hreg⟩ := written ha (abortBucket (lvl a) b)
      rw [abortBucket_refuses h1 h2] at hon hwi hreg
      refine ⟨t, he, hans, ((setReg_only 0x380C _ s).mono rfl).trans (hon.mono rfl), (hreg _).trans ((refuseBkt_status b 0 s).trans ?_)⟩
      rfl
  · intro a g w s ha
    have hg : writeNgctl g.toNat w s = setNg g.toNat NGrp.none (setReg (0x3D00 + 16 * g.toNat) (w &&& 0x0007F77F) s) := by
      unfold writeNgctl
      rw [Nat.mod_eq_of_lt g.isLt]
    obtain ⟨t, he, hans, hon, hwi, hreg⟩ := written ha (writeNgctl g.toNat w)
    rw [hg] at hon hwi hreg
    have hrx : t.rx = (setNg g.toNat NGrp.none (setReg (0x3D00 + 16 * g.toNat) (w &&& 0x0007F77F) s)).rx := hon .rx (by decide)
    refine ⟨t, he, hans, ?_, ?_, (hreg _).trans (reg_setReg_self _ _ s), by rw [hrx]; rfl, fun k => ?_⟩
    · exact ((setReg_only (0x3D00 + 16 * g.toNat) _ s).mono rfl).trans (((setNg_only g.toNat _ _).mono rfl).trans (hon.mono rfl))
    · exact (setReg_within (0x3D00 + 16 * g.toNat) _ s).trans (hwi.mono rfl)
    · rw [ngAt, hrx]
      exact ngAt_setNg g.toNat k NGrp.none _

end Sys2Proof.Machine
end

section
/-!
PROOFS. Held deliveries: reservation, tiles, lines and release (R207 to R217).
-/
namespace Sys2Proof.Machine

/-! Held deliveries -/

theorem heldOf_some {s : State} {q : Nat} {x : Slip} {h : HeldEx} (hh : heldOf s q = some (x, h)) : slipOf s x.sid = some x ∧ x.held = some h := by
  unfold heldOf at hh
  split at hh
  next y hy =>
    obtain ⟨k, hk, he⟩ := Option.map_eq_some_iff.mp hh
    obtain ⟨rfl, rfl⟩ := Prod.mk.inj he
    unfold running? at hy
    dsimp only at hy
    split at hy
    · cases hy
    · have hs := sid_of_slipOf hy
      exact ⟨by rw [hs]; exact hy, hk⟩
  next => cases hh

theorem slipOf_updHeld {s : State} {i : Nat} {x : Slip} {h : HeldEx} {f : HeldEx → HeldEx} (hs : slipOf s i = some x) (hh : x.held = some h) :
    slipOf (updHeld i f s) i = some { x with held := some (f h) } := by
  have hx := sid_of_slipOf hs
  refine (slipOf_updSlip (f := fun y => { y with held := y.held.map f }) hs hx).trans ?_
  rw [hh]
  rfl

theorem slipOf_updHeld_ne {s : State} {i j : Nat} {f : HeldEx → HeldEx} (h : j ≠ i) : slipOf (updHeld i f s) j = slipOf s j :=
  slipOf_updSlip_ne (f := fun y => { y with held := y.held.map f }) (fun _ => rfl) h

/-- Values that a filter takes out are no longer read. -/
theorem get_filter_value {m : NMap Nat} {v k : Nat} (hv : v ≠ 0) : NMap.get 0 (m.filter fun e => e.2 != v) k ≠ v := by
  induction m with
  | nil => exact hv.symm
  | cons e m ih =>
    by_cases he : e.2 = v
    · rw [List.filter_cons_of_neg (by simp [he])]
      exact ih
    · rw [List.filter_cons_of_pos (by simp [he]), NMap.get]
      split
      · exact he
      · exact ih

/-- Keys of one map set to one value. -/
theorem get_foldl_value (v : Nat) (l : List Nat) (m : NMap Nat) (k : Nat) :
    NMap.get 0 (l.foldl (fun m b => NMap.set 0 m b v) m) k = if k ∈ l then v else NMap.get 0 m k :=
  get_foldl_set (fun _ => v) l m k

/-! Reservation (R207, R208) -/

/-- The blocks and rows that a reservation takes, before its slip knows them. -/
def holdTaken (sid : Nat) (rest bs rs : List Nat) (s : State) : State :=
  { s with hd := { s.hd with
      wait := rest
      blk := bs.foldl (fun m b => NMap.set 0 m b (sid + 1)) s.hd.blk
      row := rs.foldl (fun m r => NMap.set 0 m r (sid + 1)) s.hd.row } }

theorem holdTaken_only (sid : Nat) (rest bs rs : List Nat) (s : State) : Only [.hd] s (holdTaken sid rest bs rs s) := by
  intro p hp
  cases p
  case hd => exact absurd (List.mem_singleton.mpr rfl) hp
  all_goals rfl

theorem exec_holdReservation {s : State} {sid : Nat} {rest : List Nat} {x : Slip} (hs : serving s = true) (hw : s.hd.wait = sid :: rest)
    (hx : slipOf s sid = some x) (hd : domUp s 31 = true) (hb : hBlks x.words * hW x.words ≤ (freeBlocks s).length) (hr : hW x.words ≤ (freeStats s).length)
    (hqb : (hdUse s (sCtx x.words)).1 + hBlks x.words * hW x.words ≤ regF s (0x2410 + 4 * sCtx x.words) 9 0)
    (hqr : (hdUse s (sCtx x.words)).2 + hW x.words ≤ regF s (0x2410 + 4 * sCtx x.words) 28 16) :
    exec .holdReservation s = .next (updHeld sid (fun h => { h with
        st := 2, blks := (freeBlocks s).take (hBlks x.words * hW x.words), rows := (freeStats s).take (hW x.words) })
      (holdTaken sid rest ((freeBlocks s).take (hBlks x.words * hW x.words)) ((freeStats s).take (hW x.words)) s)) := by
  refine congrArg Host.Outcome.next ?_
  rw [hw]
  dsimp only
  rw [hx]
  dsimp only
  rw [hs, hd, decide_eq_false (Nat.not_lt.mpr hb), decide_eq_false (Nat.not_lt.mpr hr), decide_eq_false (Nat.not_lt.mpr hqb), decide_eq_false (Nat.not_lt.mpr hqr)]
  rfl

/-! Tiles, lines and the end -/

theorem exec_tileAdmit {q : BitVec 6} {s : State} {x : Slip} {h : HeldEx} (hs : serving s = true) (hh : heldOf s q.toNat = some (x, h)) (h2 : h.st = 2)
    (hc : x.cancel = false) (ht : h.tiles < hTiles x.words)
    (ha : hAen x.words = true → reached s (hAtally x.words) (hAbase x.words + h.tiles + 1) = true) :
    exec (.tileAdmit q) s = .next (progress x.q (updHeld x.sid (fun k => { k with tiles := k.tiles + 1 }) s)) := by
  have ha' : (hAen x.words && !reached s (hAtally x.words) (hAbase x.words + h.tiles + 1)) = false := by
    cases hae : hAen x.words with
    | false => rfl
    | true => rw [ha hae, Bool.not_true, Bool.and_false]
  refine congrArg Host.Outcome.next ?_
  rw [hh]
  refine if_neg ?_
  rw [hs, h2, hc, ha', decide_eq_false (Nat.not_le.mpr ht)]
  decide

theorem exec_tileRelease {q : BitVec 6} {s : State} {x : Slip} {h : HeldEx} (hs : serving s = true) (hh : heldOf s q.toNat = some (x, h)) (h2 : h.st = 2)
    (hc : x.cancel = false) (ht : h.rel < h.tiles) (hd : tileDone s x h h.rel = true) :
    exec (.tileRelease q) s = .next (when (hRen x.words) (tallyAdd 1 (hRtally x.words)) (updHeld x.sid (fun k => { k with rel := k.rel + 1 }) s)) := by
  refine congrArg Host.Outcome.next ?_
  rw [hh]
  refine if_neg ?_
  rw [hs, h2, hc, hd, decide_eq_false (Nat.not_le.mpr ht)]
  decide

theorem exec_redeliveryStart {q : BitVec 6} {s : State} {x : Slip} {h : HeldEx} (hs : serving s = true) (hh : heldOf s q.toNat = some (x, h)) (h2 : h.st = 2)
    (hc : x.cancel = false) (hn : h.started < h.nstat) (hi : h.started * hLrows x.words ≤ x.issued * sK x.words)
    (hr : hSen x.words = true → h.started < h.recs) (hp : hPark x.words = true → h.started * hLrows x.words < rowsParked s x) :
    exec (.redeliveryStart q) s = .next (updHeld x.sid (fun k => { k with started := h.started + 1 }) s) := by
  have hr' : (hSen x.words && decide (h.recs ≤ h.started)) = false := by
    cases he : hSen x.words with
    | false => rfl
    | true => exact decide_eq_false (Nat.not_le.mpr (hr he))
  have hp' : (hPark x.words && decide (rowsParked s x ≤ h.started * hLrows x.words)) = false := by
    cases he : hPark x.words with
    | false => rfl
    | true => exact decide_eq_false (Nat.not_le.mpr (hp he))
  refine congrArg Host.Outcome.next ?_
  rw [hh]
  refine if_neg ?_
  rw [hs, h2, hc, hr', hp', decide_eq_false (Nat.not_le.mpr hn), decide_eq_false (Nat.not_lt.mpr hi)]
  decide

theorem exec_holdRelease {q : BitVec 6} {s : State} {x : Slip} {h : HeldEx} (hs : running s = true) (hh : heldOf s q.toNat = some (x, h)) (h2 : h.st = 2)
    (hc : x.cancel = false) (hp : hLines x.words * hLrows x.words ≤ rowsPassed s x) (hr : hSen x.words = true → hLines x.words ≤ h.recs)
    (ht : hRen x.words = true → hTiles x.words ≤ h.rel) : exec (.holdRelease q) s = .next (freeHold x s) := by
  have hr' : (hSen x.words && decide (h.recs < hLines x.words)) = false := by
    cases he : hSen x.words with
    | false => rfl
    | true => exact decide_eq_false (Nat.not_lt.mpr (hr he))
  have ht' : (hRen x.words && decide (h.rel < hTiles x.words)) = false := by
    cases he : hRen x.words with
    | false => rfl
    | true => exact decide_eq_false (Nat.not_lt.mpr (ht he))
  refine congrArg Host.Outcome.next ?_
  rw [hh]
  refine if_neg ?_
  rw [hs, h2, hc, hr', ht', decide_eq_false (Nat.not_lt.mpr hp)]
  decide

theorem hRtally_lt (w : BitVec 512) : hRtally w < 64 := Nat.mod_lt _ (by decide)

theorem tally_when_adds {c : Bool} {n k i : Nat} {s : State} (hi : i < 64) :
    tally (when c (tallyAdd n i) s) k = tally s k + BitVec.ofNat 32 (if c = true ∧ k = i then n else 0) := by
  cases c with
  | false => exact (BitVec.add_zero _).symm
  | true =>
    have he : tally (tallyAdd n i s) k = if k = i then tally s i + BitVec.ofNat 32 n else tally s k := by
      unfold tallyAdd tally
      rw [Nat.mod_eq_of_lt hi, reg_setReg]
      by_cases h : k = i
      · rw [if_pos (by rw [h]), if_pos h]
      · rw [if_neg (by omega), if_neg h]
    refine he.trans ?_
    by_cases h : k = i
    · rw [if_pos h, if_pos ⟨rfl, h⟩, h]
    · rw [if_neg h, if_neg fun hc => h hc.2]
      exact (BitVec.add_zero _).symm

theorem tally_when_add {c : Bool} {k i : Nat} {s : State} (hi : i < 64) :
    tally (when c (tallyAdd 1 i) s) k = tally s k + if c = true ∧ k = i then 1 else 0 := by
  rw [tally_when_adds hi]
  split <;> rfl

theorem freeHold_leaves {s : State} {x : Slip} {h : HeldEx} (hx : slipOf s x.sid = some x) (hh : x.held = some h) (hq : x.q < 64) :
    slipOf (freeHold x s) x.sid = some { x with held := some { h with st := 4, blks := [], rows := [] } }
      ∧ (∀ b, NMap.get 0 (freeHold x s).hd.blk b ≠ x.sid + 1 ∧ NMap.get 0 (freeHold x s).hd.row b ≠ x.sid + 1)
      ∧ Within [⟨0x2500 + 4 * x.q, 0, 1⟩] s (freeHold x s)
      ∧ regF (freeHold x s) (0x2500 + 4 * x.q) 31 8 = rowsPassed s x / hLrows x.words % 2 ^ 24 := by
  have hm : x.q % 64 = x.q := Nat.mod_eq_of_lt hq
  unfold freeHold
  rw [hm]
  refine ⟨slipOf_updHeld (f := fun h => { h with st := 4, blks := [], rows := [] }) hx hh,
    fun b => ⟨get_filter_value (Nat.succ_ne_zero _), get_filter_value (Nat.succ_ne_zero _)⟩, setReg_within (0x2500 + 4 * x.q) _ s, ?_⟩
  exact regF_setRegF (s := s) (by omega)

/-- Settles O37: reservation, tiles, lines and release of a held delivery. -/
theorem heldDeliveriesHoldWhatTheyReserve : Obligations.HeldDeliveriesHoldWhatTheyReserve := by
  unfold Obligations.HeldDeliveriesHoldWhatTheyReserve
  refine ⟨fun s sid rest x h hs hw hx hh hd hb hr hqb hqr => ?_, fun q s x h hs hho h2 hc => ?_⟩
  · refine ⟨_, exec_holdReservation hs hw hx hd hb hr hqb hqr, ?_, rfl, get_foldl_value (sid + 1) _ _, get_foldl_value (sid + 1) _ _, ?_, fun i hi => ?_⟩
    · exact ((holdTaken_only sid rest _ _ s).mono rfl).trans ((updHeld_only sid _ _).mono rfl)
    · exact slipOf_updHeld (s := holdTaken sid rest _ _ s) hx hh
    · exact slipOf_updHeld_ne hi
  · obtain ⟨hx, hh⟩ := heldOf_some hho
    refine ⟨fun ht ha => ?_, fun ht htd => ?_, fun hn hi hr hp => ?_, fun hp hr ht hq => ?_⟩
    · refine ⟨_, exec_tileAdmit hs hho h2 hc ht ha, ?_, ?_, ?_⟩
      · exact (updHeld_only x.sid _ s).trans (progress_only x.q _)
      · exact slipOf_updHeld (f := fun k => { k with tiles := k.tiles + 1 }) hx hh
      · exact (queueOf_updQueue_self x.q _ _).trans rfl
    · have hwo : Only [.regs] (updHeld x.sid (fun k => { k with rel := k.rel + 1 }) s)
          (when (hRen x.words) (tallyAdd 1 (hRtally x.words)) (updHeld x.sid (fun k => { k with rel := k.rel + 1 }) s)) :=
        Only.when (fun u => tallyAdd_only _ _ u) _ _
      have hsq : (when (hRen x.words) (tallyAdd 1 (hRtally x.words)) (updHeld x.sid (fun k => { k with rel := k.rel + 1 }) s)).sq
          = (updHeld x.sid (fun k => { k with rel := k.rel + 1 }) s).sq := hwo .sq (by decide)
      refine ⟨_, exec_tileRelease hs hho h2 hc ht htd, ((updHeld_only x.sid _ s).mono rfl).trans (hwo.mono rfl), ?_, (congrArg SlipSt.q hsq).trans rfl, fun k hk => ?_⟩
      · rw [slipOf, hsq]
        exact slipOf_updHeld (f := fun k => { k with rel := k.rel + 1 }) hx hh
      · exact tally_when_add (hRtally_lt _)
    · exact ⟨_, exec_redeliveryStart hs hho h2 hc hn hi hr hp, updHeld_only x.sid _ s, rfl,
        slipOf_updHeld (f := fun k => { k with started := h.started + 1 }) hx hh⟩
    · exact ⟨_, exec_holdRelease (running_of_serving hs) hho h2 hc hp hr ht, freeHold_only x s, freeHold_leaves hx hh hq⟩

end Sys2Proof.Machine
end

section
/-!
PROOFS. Statistics of a held delivery's lines (R213, R223).
-/
namespace Sys2Proof.Machine

theorem fwdTrigger_keep {kind unit trig p i : Nat} {s : State} (h : regB s p i = true)
    (hp : [(⟨0x6014, 0, 1⟩ : Span), ⟨0x7018, 4, 3⟩].any (fun x => x.has p) = false := by decide) : regB (fwdTrigger kind unit trig s) p i = true := by
  unfold fwdTrigger
  split
  · exact h
  · exact raise_keep h hp

/-- The statistics of a line kept by its slip. -/
def statsKept (x : Slip) (h : HeldEx) (st : List Nat × Bool) (s : State) : State :=
  updHeld x.sid (fun k => { k with
    nstat := h.nstat + 1
    parts := k.parts.filter fun e => decide ((h.nstat + 1) * hLrows x.words ≤ e.1)
    stats := NMap.set none (k.stats.filter fun e => decide (lineOut x ≤ e.1)) h.nstat (some st) }) s

theorem exec_statsReady {q : BitVec 6} {par : Bool} {s : State} {x : Slip} {h : HeldEx} {ps : List (StatPart × Bool)} (hs : serving s = true)
    (hh : heldOf s q.toNat = some (x, h)) (h2 : h.st = 2) (hc : x.cancel = false) (hn : h.nstat < hLines x.words)
    (hp : linePartsGo h (hLrows x.words) (h.nstat * hLrows x.words) = some ps) :
    exec (.statsReady q par) s = .next (when (h.nstat == 0) (askSlots x.sid) (when par (statParity (listGet 0 h.rows (h.nstat % hW x.words)))
      (statsKept x h (lineStats s x.words ps par) (when (hSen x.words) (addTr (recordTr s x h.nstat (lineStats s x.words ps par))) s)))) := by
  refine congrArg Host.Outcome.next ?_
  rw [hh]
  refine (if_neg ?_).trans ?_
  · rw [hs, h2, hc, decide_eq_false (Nat.not_le.mpr hn)]
    decide
  · rw [hp]
    rfl

theorem statParity_leaves (row : Nat) (c : Bool) (s : State) : Only [.regs, .cnt, .tr, .dbg, .fw] s (when c (statParity row) s)
    ∧ NMap.get 0 (when c (statParity row) s).cnt 0x59D0 = NMap.get 0 s.cnt 0x59D0 + (if c = true then 1 else 0)
    ∧ (c = true → regB (when c (statParity row) s) 0x7000 14 = true) := by
  refine ⟨Only.when (fun u => statParity_only row u) c s, ?_, fun hc => ?_⟩
  · cases c with
    | false => exact (BitVec.add_zero _).symm
    | true =>
      have hcnt : (statParity row s).cnt = (bump 0x59D0 1 s).cnt :=
        (fwdTrigger_only 4 row 4 _ .cnt (by decide)).trans (raise_only 14 _ .cnt (by decide))
      rw [when, if_pos rfl, hcnt]
      exact NMap.get_set_self (0 : BitVec 56) s.cnt 0x59D0 _
  · rw [hc]
    exact fwdTrigger_keep (raise_sets 14 _)

theorem askSlots_leaves (c : Bool) {sid : Nat} {y : Slip} {s : State} (hy : slipOf s sid = some y) : Only [.sq, .bl] s (when c (askSlots sid) s)
    ∧ (when c (askSlots sid) s).sq.q = s.sq.q ∧ ∃ z, slipOf (when c (askSlots sid) s) sid = some z ∧ z.held = y.held := by
  refine ⟨Only.when (fun u => askSlots_only sid u) c s, ?_, ?_⟩
  · cases c <;> rfl
  · cases c with
    | false => exact ⟨y, hy, rfl⟩
    | true =>
      have hsid : y.sid = sid := sid_of_slipOf hy
      have hw : slipOf { s with bl := { s.bl with wait := s.bl.wait ++ [sid] } } sid = some y := hy
      exact ⟨_, slipOf_updSlip (f := fun y => { y with slotSt := 1 }) hw hsid, rfl⟩

/-- Settles O38: the statistics of the next line, their record and their parity error. -/
theorem statisticsAreReadyInOrder : Obligations.StatisticsAreReadyInOrder := by
  unfold Obligations.StatisticsAreReadyInOrder
  intro q par s x h ps hs hho h2 hc hn hp
  obtain ⟨hx, hh⟩ := heldOf_some hho
  have hex := exec_statsReady (par := par) hs hho h2 hc hn hp
  have hpar : par = true → (lineStats s x.words ps par).2 = true := fun he => by
    rw [he]
    rfl
  generalize hT : recordTr s x h.nstat (lineStats s x.words ps par) = T at hex
  generalize hst : lineStats s x.words ps par = st at hex hpar hT ⊢
  -- the record, where there is one
  have hxr : slipOf (when (hSen x.words) (addTr T) s) x.sid = some x := by
    rw [slipOf_of_sq (Only.when (fun u => addTr_only T u) _ s .sq (by decide))]
    exact hx
  have hro := Only.when (fun u => addTr_only T u) (hSen x.words) s
  generalize hu : when (hSen x.words) (addTr T) s = u at hex hxr hro
  -- the statistics
  have hk := slipOf_updHeld (f := fun k => { k with
    nstat := h.nstat + 1
    parts := k.parts.filter fun e => decide ((h.nstat + 1) * hLrows x.words ≤ e.1)
    stats := NMap.set none (k.stats.filter fun e => decide (lineOut x ≤ e.1)) h.nstat (some st) }) hxr hh
  have hvo : Only [.sq] u (statsKept x h st u) := updHeld_only x.sid _ u
  have hvq : (statsKept x h st u).sq.q = u.sq.q := rfl
  change slipOf (statsKept x h st u) x.sid = _ at hk
  generalize statsKept x h st u = v at hex hk hvo hvq
  -- the parity error and the request of slots
  obtain ⟨hpo, hpc, hpr⟩ := statParity_leaves (listGet 0 h.rows (h.nstat % hW x.words)) par v
  generalize when par (statParity (listGet 0 h.rows (h.nstat % hW x.words))) v = p at hex hpo hpc hpr
  obtain ⟨hao, haq, z, hz, hzh⟩ := askSlots_leaves (h.nstat == 0) ((slipOf_of_sq (hpo .sq (by decide)) x.sid).trans hk)
  generalize when (h.nstat == 0) (askSlots x.sid) p = t at hex hao haq hz
  have hfr : t.fr = u.fr := (hao .fr (by decide)).trans ((hpo .fr (by decide)).trans (hvo .fr (by decide)))
  refine ⟨t, z, _, hex, hz, hzh, rfl, NMap.get_set_self none _ h.nstat (some st), hpar, rfl, ?_, ?_, ?_, ?_, ?_, ?_, fun he => ?_, fun he => ?_⟩
  · exact (hao .mem (by decide)).trans ((hpo .mem (by decide)).trans ((hvo .mem (by decide)).trans (hro .mem (by decide))))
  · rw [hfr, ← hu]
    cases hSen x.words <;> rfl
  · rw [hfr, ← hu]
    cases hSen x.words <;> rfl
  · refine haq.trans ((congrArg SlipSt.q (hpo .sq (by decide))).trans (hvq.trans (congrArg SlipSt.q (hro .sq (by decide)))))
  · have hcnt : t.cnt = p.cnt := hao .cnt (by decide)
    have hvc : v.cnt = s.cnt := (hvo .cnt (by decide)).trans (hro .cnt (by decide))
    rw [hcnt, hpc, hvc]
  · exact fun hc => (regB_eq_of_reg (by rw [reg, reg, hao .regs (by decide)])).trans (hpr hc)
  · rw [hfr, ← hu, he]
    rfl
  · refine ⟨{ T with id := s.fr.nextId }, ?_, rfl, ?_⟩
    · rw [hfr, ← hu, he]
      rfl
    · rw [← hT]
      exact ⟨rfl, rfl, rfl, rfl, rfl, rfl, rfl⟩

end Sys2Proof.Machine
end

section
/-!
PROOFS. Cancellation of held deliveries (R226, R442).
-/
namespace Sys2Proof.Machine

/-! Cancellation (R226) -/

theorem heldOf_of_slipOf {s u : State} {q : Nat} {x y : Slip} {h k : HeldEx} (hh : heldOf s q = some (x, h)) (hq : u.sq.q = s.sq.q)
    (hy : slipOf u x.sid = some y) (hk : y.held = some k) : heldOf u q = some (y, k) := by
  unfold heldOf at hh
  split at hh
  next z hz =>
    obtain ⟨j, -, he⟩ := Option.map_eq_some_iff.mp hh
    obtain ⟨rfl, -⟩ := Prod.mk.inj he
    unfold running? at hz
    dsimp only at hz
    split at hz
    · cases hz
    next h0 =>
      have hu : running? u q = some y := by
        unfold running?
        dsimp only
        rw [queueOf_of_q hq, if_neg h0, ← sid_of_slipOf hz, hy]
      unfold heldOf
      rw [hu]
      exact congrArg (Option.map fun h => (y, h)) hk
  next => cases hh

/-- What a write of LMY_HD_CANCEL marks in the slip. -/
def cancelMark (x : Slip) (fl : Bool) (s : State) : State :=
  if x.cancel then when (!fl) (updHeld x.sid fun k => { k with flush := false }) s
  else updSlip x.sid (fun y => { y with cancel := true }) s |> updHeld x.sid (fun k => { k with st := 3, flush := fl })

/-- The held delivery so marked. -/
def markedHeld (x : Slip) (h : HeldEx) (fl : Bool) : HeldEx :=
  if x.cancel = true then { h with flush := h.flush && fl } else { h with st := 3, flush := fl }

theorem cancelMark_leaves {x : Slip} {h : HeldEx} {s : State} (fl : Bool) (hx : slipOf s x.sid = some x) (hh : x.held = some h) :
    Only [.sq] s (cancelMark x fl s) ∧ (cancelMark x fl s).sq.q = s.sq.q
      ∧ slipOf (cancelMark x fl s) x.sid = some { x with cancel := true, held := some (markedHeld x h fl) } := by
  unfold cancelMark markedHeld
  by_cases hc : x.cancel = true
  · rw [if_pos hc, if_pos hc]
    have hxx : x = { x with cancel := true, held := some h } := by
      rw [← hc, ← hh]
    cases fl with
    | true =>
      rw [Bool.and_true]
      exact ⟨Only.refl _ _, rfl, hx.trans (congrArg some hxx)⟩
    | false =>
      rw [Bool.and_false]
      refine ⟨updHeld_only _ _ _, rfl, (slipOf_updHeld (f := fun k => { k with flush := false }) hx hh).trans ?_⟩
      rw [← hc]
  · rw [if_neg hc, if_neg hc]
    have h1 := slipOf_updSlip (f := fun y => { y with cancel := true }) hx rfl
    exact ⟨(updSlip_only _ _ _).trans (updHeld_only _ _ _), rfl, slipOf_updHeld (f := fun k => { k with st := 3, flush := fl }) h1 hh⟩

theorem cancelHeld_marks {l : Nat} {w : Word} {s : State} {x : Slip} {h : HeldEx} (hh : heldOf s (bits w.toNat 5 0) = some (x, h))
    (hl : l = 0 ∨ l = sCtx x.words) : cancelHeld l w s = if halted (cancelMark x (bit w.toNat 8) s) = true
      then { cancelMark x (bit w.toNat 8) s with hd := { (cancelMark x (bit w.toNat 8) s).hd with canc := (cancelMark x (bit w.toNat 8) s).hd.canc ++ [(l, w)] } }
      else cancelWork (bits w.toNat 5 0) (cancelMark x (bit w.toNat 8) s) := by
  unfold cancelHeld
  dsimp only
  rw [hh]
  exact if_neg fun hn => hl.elim hn.1 hn.2

theorem cancelHeld_refused {l : Nat} {w : Word} {s : State} (h : heldOf s (bits w.toNat 5 0) = none
      ∨ ∃ x h, heldOf s (bits w.toNat 5 0) = some (x, h) ∧ l ≠ 0 ∧ l ≠ sCtx x.words) : cancelHeld l w s = orReg 0x2404 0x40000000 s := by
  unfold cancelHeld
  dsimp only
  obtain hn | ⟨x, k, hh, h0, hc⟩ := h
  · rw [hn]
  · rw [hh]
    exact if_pos ⟨h0, hc⟩

theorem cancelWork_withdraws {q : Nat} {u : State} {x : Slip} {k : HeldEx} (hh : heldOf u q = some (x, k)) (hc : x.cancel = true) :
    (cancelWork q u).fr.trs = u.fr.trs.filter (fun T => !(parkStops x k T || flushStops x k T))
      ∧ (cancelWork q u).hd = { u.hd with wait := u.hd.wait.filter fun n => n != x.sid } := by
  unfold cancelWork
  rw [hh]
  dsimp only
  rw [if_pos hc]
  exact ⟨rfl, rfl⟩

theorem parkStops_marked (x : Slip) (h : HeldEx) (fl : Bool) (T : Tr) (k : Option HeldEx) :
    parkStops { x with cancel := true, held := k } (markedHeld x h fl) T = parkStops x h T := by
  unfold markedHeld
  split <;> rfl

theorem halted_of_regs {s u : State} (h : u.regs = s.regs) : halted u = halted s := by
  unfold halted
  exact regB_eq_of_reg (by rw [reg, reg, h])

theorem freeSlots_slip {i l : Nat} {x : Slip} {s : State} (hx : slipOf s i = some x) :
    (freeSlots i l s).sq.q = s.sq.q ∧ (freeSlots i l s).bl.wait = s.bl.wait
      ∧ ∃ ps, slipOf (freeSlots i l s) i = some { x with slots := ps } := by
  unfold freeSlots
  rw [hx]
  dsimp only
  generalize hu : ({ s with bl := { s.bl with slot := s.bl.slot.filter fun e => !(((x.slots.filter fun p => p.1 == l).map (·.2)).contains e.1) } } : State) = u
  have hxu : slipOf u i = some x := by rw [← hu]; exact hx
  have hsid : x.sid = i := sid_of_slipOf hx
  refine ⟨by rw [← hu]; rfl, by rw [← hu]; rfl, _, slipOf_updSlip (f := fun y => { y with slots := y.slots.filter fun p => p.1 != l }) hxu hsid⟩

theorem forEach_freeSlots {i : Nat} (ls : List Nat) {x : Slip} {s : State} (hx : slipOf s i = some x) :
    (forEach ls (freeSlots i) s).sq.q = s.sq.q ∧ (forEach ls (freeSlots i) s).bl.wait = s.bl.wait
      ∧ ∃ ps, slipOf (forEach ls (freeSlots i) s) i = some { x with slots := ps } := by
  induction ls generalizing x s with
  | nil => exact ⟨rfl, rfl, x.slots, hx⟩
  | cons l ls ih =>
    obtain ⟨hq, hw, ps, hs⟩ := freeSlots_slip (l := l) hx
    obtain ⟨hq', hw', ps', hs'⟩ := ih hs
    exact ⟨hq'.trans hq, hw'.trans hw, ps', hs'⟩

theorem dropSlots_leaves {x : Slip} {s : State} (hx : slipOf s x.sid = some x) : (dropSlots x s).sq.q = s.sq.q
    ∧ x.sid ∉ (dropSlots x s).bl.wait ∧ ∃ ps, slipOf (dropSlots x s) x.sid = some { x with slots := ps } := by
  unfold dropSlots
  obtain ⟨hq, hw, hs⟩ := forEach_freeSlots (blendLanes x.words)
    (s := { s with bl := { s.bl with wait := s.bl.wait.filter fun n => n != x.sid } }) (i := x.sid) hx
  refine ⟨hq, ?_, hs⟩
  rw [hw]
  simp

/-- The slip of a cancelled held delivery, its blocks, rows and slots given back, before it is reported. -/
def cancelFreed (x : Slip) (n : Nat) (s : State) : State :=
  when (hRen x.words) (tallyAdd n (hRtally x.words)) s |> dropSlots x |> freeHold x |> updSlip x.sid (fun y => { y with fault := true })

/-- The slip reported, with its cause. -/
def cancelReported (x : Slip) (n : Nat) (s : State) : State := raise 28 (slipLog 6 x.q 0 x.words x.ent (cancelFreed x n s))

theorem exec_heldCancelEnd {q : BitVec 6} {s : State} {x : Slip} {h : HeldEx} (hr : running s = true) (hh : heldOf s q.toNat = some (x, h))
    (hc : x.cancel = true) (hd : cancelDone s x h = true) :
    exec (.heldCancelEnd q) s = .next (endSlip x.sid (cancelReported x (hTiles x.words - h.rel) s)) := by
  refine congrArg Host.Outcome.next ?_
  rw [hh]
  refine (if_neg ?_).trans rfl
  rw [hr, hc, hd]
  decide

theorem cancelFreed_leaves {x : Slip} {h : HeldEx} {s : State} (n : Nat) (hx : slipOf s x.sid = some x) (hh : x.held = some h) :
    (cancelFreed x n s).sq.q = s.sq.q ∧ x.sid ∉ (cancelFreed x n s).bl.wait
      ∧ (∃ z, slipOf (cancelFreed x n s) x.sid = some z ∧ z.sid = x.sid ∧ z.q = x.q ∧ z.fault = true)
      ∧ (∀ b, NMap.get 0 (cancelFreed x n s).hd.blk b ≠ x.sid + 1 ∧ NMap.get 0 (cancelFreed x n s).hd.row b ≠ x.sid + 1)
      ∧ ∀ k, k < 64 → tally (cancelFreed x n s) k
          = tally s k + BitVec.ofNat 32 (if hRen x.words = true ∧ k = hRtally x.words then n else 0) := by
  have hon : Only [.regs] s (when (hRen x.words) (tallyAdd n (hRtally x.words)) s) := Only.when (fun u => tallyAdd_only _ _ u) _ _
  have hta : ∀ k, k < 64 → tally (when (hRen x.words) (tallyAdd n (hRtally x.words)) s) k
      = tally s k + BitVec.ofNat 32 (if hRen x.words = true ∧ k = hRtally x.words then n else 0) :=
    fun k _ => tally_when_adds (hRtally_lt _)
  have hsq : (when (hRen x.words) (tallyAdd n (hRtally x.words)) s).sq = s.sq := hon .sq (by decide)
  unfold cancelFreed
  generalize when (hRen x.words) (tallyAdd n (hRtally x.words)) s = A at hon hta hsq ⊢
  have hxA : slipOf A x.sid = some x := (slipOf_of_sq hsq _).trans hx
  obtain ⟨hqB, hwB, ps, hxB⟩ := dropSlots_leaves hxA
  have hrB : (dropSlots x A).regs = A.regs := dropSlots_only x A .regs (by decide)
  generalize dropSlots x A = B at hqB hwB hxB hrB ⊢
  have hxC : slipOf (freeHold x B) x.sid = some { x with slots := ps, held := some { h with st := 4, blks := [], rows := [] } } := by
    unfold freeHold
    exact slipOf_updHeld (f := fun h => { h with st := 4, blks := [], rows := [] }) (x := { x with slots := ps }) hxB hh
  refine ⟨?_, hwB, ⟨_, slipOf_updSlip (f := fun y => { y with fault := true }) hxC rfl, rfl, rfl, rfl⟩,
    fun b => ⟨get_filter_value (Nat.succ_ne_zero _), get_filter_value (Nat.succ_ne_zero _)⟩, fun k hk => ?_⟩
  · exact hqB.trans (congrArg SlipSt.q hsq)
  · refine Eq.trans ?_ (hta k hk)
    have hw : reg (freeHold x B) (0x3700 + 4 * k) = reg B (0x3700 + 4 * k) := by
      unfold freeHold
      exact reg_setReg_ne (by omega) _ _
    exact hw.trans (congrArg (fun m => NMap.get _ m _) hrB)

theorem cancelReported_leaves {x : Slip} {h : HeldEx} {s : State} (n : Nat) (hx : slipOf s x.sid = some x) (hh : x.held = some h) :
    (cancelReported x n s).sq.q = s.sq.q ∧ x.sid ∉ (cancelReported x n s).bl.wait
      ∧ (∃ z, slipOf (cancelReported x n s) x.sid = some z ∧ z.sid = x.sid ∧ z.q = x.q ∧ z.fault = true)
      ∧ (∀ b, NMap.get 0 (cancelReported x n s).hd.blk b ≠ x.sid + 1 ∧ NMap.get 0 (cancelReported x n s).hd.row b ≠ x.sid + 1)
      ∧ ∀ k, k < 64 → tally (cancelReported x n s) k
          = tally s k + BitVec.ofNat 32 (if hRen x.words = true ∧ k = hRtally x.words then n else 0) := by
  obtain ⟨hqq, hw, ⟨z, hz, hzi⟩, hb, ht⟩ := cancelFreed_leaves n hx hh
  have hon : Only [.regs, .tr, .dbg] (cancelFreed x n s) (cancelReported x n s) :=
    ((slipLog_only 6 x.q 0 x.words x.ent (cancelFreed x n s)).mono rfl).trans ((raise_only 28 _).mono rfl)
  have hr : ∀ k, k < 64 → reg (cancelReported x n s) (0x3700 + 4 * k) = reg (cancelFreed x n s) (0x3700 + 4 * k) := fun k hk => by
    refine (raise_reg_low (by omega)).trans ((slipLog_within 6 x.q 0 x.words x.ent (cancelFreed x n s)).reg _ ?_)
    rw [Bool.eq_false_iff]
    intro hp
    simp only [List.any_cons, List.any_nil, Span.has, Bool.or_false, Bool.and_eq_true, Nat.ble_eq] at hp
    omega
  generalize cancelReported x n s = v at hon hr ⊢
  generalize cancelFreed x n s = u at hqq hw hz hb ht hon hr
  have hsq := hon .sq (by decide)
  have hhd := hon .hd (by decide)
  have hbl := hon .bl (by decide)
  refine ⟨(congrArg SlipSt.q hsq).trans hqq, ?_, ⟨z, (slipOf_of_sq hsq _).trans hz, hzi⟩, ?_, fun k hk => (hr k hk).trans (ht k hk)⟩
  · rw [hbl]; exact hw
  · rw [hhd]; exact hb

/-- Settles O39: a cancellation withdraws what is not granted, and ends with a fault once all that began is through. -/
theorem heldDeliveriesAreCancelled : Obligations.HeldDeliveriesAreCancelled := by
  unfold Obligations.HeldDeliveriesAreCancelled
  refine ⟨fun a w s x h ha hho hl => ?_, fun a w s ha hno => ?_, fun q s x h hr hho hq hc hd => ?_⟩
  · obtain ⟨hx, hh⟩ := heldOf_some hho
    obtain ⟨t, ht, hans, hon, -, -⟩ := written ha (cancelHeld (lvl a) w)
    rw [cancelHeld_marks hho hl] at hon
    obtain ⟨hmo, hmq, hmx⟩ := cancelMark_leaves (bit w.toNat 8) hx hh
    have hpark : ∀ T, parkStops { x with cancel := true, held := some (markedHeld x h (bit w.toNat 8)) } (markedHeld x h (bit w.toNat 8)) T
        = parkStops x h T := fun T => parkStops_marked x h _ T _
    have hk : markedHeld x h (bit w.toNat 8)
      = if x.cancel = true then { h with flush := h.flush && bit w.toNat 8 } else { h with st := 3, flush := bit w.toNat 8 } := rfl
    have hho' := heldOf_of_slipOf hho hmq hmx rfl
    rw [halted_of_regs (hmo .regs (by decide))] at hon
    generalize cancelMark x (bit w.toNat 8) s = u at hon hmo hmq hmx hho'
    generalize markedHeld x h (bit w.toNat 8) = k at hmx hho' hpark hk
    obtain ⟨htr, hhd⟩ := cancelWork_withdraws hho' rfl
    have hsq : t.sq = u.sq ∧ t.regs = u.regs := by
      have h1 := hon .sq (by decide)
      have h2 := hon .regs (by decide)
      cases hb : halted s with
      | true =>
        rw [hb, if_pos rfl] at h1 h2
        exact ⟨h1, h2⟩
      | false =>
        rw [hb, if_neg (by decide)] at h1 h2
        exact ⟨h1.trans (cancelWork_only _ _ .sq (by decide)), h2.trans (cancelWork_only _ _ .regs (by decide))⟩
    refine ⟨t, k, ht, hans, hk, (slipOf_of_sq hsq.1 _).trans hmx, (congrArg SlipSt.q hsq.1).trans hmq, hsq.2.trans (hmo .regs (by decide)),
      fun hn => ?_, fun hy => ?_⟩
    · rw [hn, if_neg (by decide)] at hon
      rw [hon .fr (by decide), hon .hd (by decide), htr, hhd, hmo .fr (by decide), hmo .hd (by decide)]
      refine ⟨List.filter_congr fun T _ => ?_, rfl⟩
      rw [hpark]
      rfl
    · rw [hy, if_pos rfl] at hon
      have hf := hon .fr (by decide)
      have hd := hon .hd (by decide)
      exact ⟨hf.trans (hmo .fr (by decide)), hd.trans (by rw [hmo .hd (by decide)])⟩
  · obtain ⟨t, ht, hans, hon, hw, hreg⟩ := written ha (cancelHeld (lvl a) w)
    rw [cancelHeld_refused hno] at hon hw hreg
    refine ⟨t, ht, hans, ((orReg_only _ _ _).mono rfl).trans (hon.mono rfl), ((orReg_within 0x2404 _ s).mono rfl).trans (hw.mono rfl), fun i hi => ?_⟩
    rw [regB_eq_of_reg (hreg 0x2404)]
    have hb := regB_orReg_bit (o := 0x2404) (i := 30) (s := s) (by decide) i
    rw [Bool.beq_eq_decide_eq]
    exact hb
  · obtain ⟨hx, hh⟩ := heldOf_some hho
    obtain ⟨hqq, hw, ⟨z, hz, hzi, hzq, hzf⟩, hb, ht⟩ := cancelReported_leaves (hTiles x.words - h.rel) hx hh
    have hex := exec_heldCancelEnd hr hho hc hd
    generalize cancelReported x (hTiles x.words - h.rel) s = u at hqq hw hz hb ht hex
    rw [← hzi] at hz hex
    obtain ⟨hents, hrun, hoth, -, hfault⟩ := endSlip_leaves hz
    obtain ⟨hstop, hcause⟩ := hfault hzf
    have hon := endSlip_only z.sid u
    have hreg : ∀ k, k < 64 → tally (endSlip z.sid u) k = tally u k := fun k hk => endSlip_reg (by omega) (by omega)
    rw [hzq] at hents hrun hoth hstop
    rw [← hq]
    have huq := queueOf_of_q hqq
    have hblk := hon .hd (by decide)
    have hbw := hon .bl (by decide)
    refine ⟨_, hex, hents.trans (by rw [huq]), hrun, hstop, hcause, fun k hk => (hoth k hk).trans (huq k), ?_, ?_, fun k hk => (hreg k hk).trans (ht k hk)⟩
    · rw [hblk]; exact hb
    · rw [hbw]; exact hw

end Sys2Proof.Machine
end

section
/-!
PROOFS. A client's own transfers: rows from staging, flits to landing (R93, R103, R109).
-/
namespace Sys2Proof.Machine

theorem trOf_firstWaiting {s : State} {ids : List Nat} {n m : Nat} {T : Tr} (h : firstWaiting s ids n = some (T, m)) : trOf s T.id = some T := by
  induction ids generalizing n with
  | nil => exact absurd h (by simp [firstWaiting])
  | cons id ids ih =>
    unfold firstWaiting at h
    split at h
    · exact ih h
    next u hu =>
      split at h
      · exact ih h
      · obtain ⟨rfl, -⟩ := Prod.mk.inj (Option.some.inj h)
        rw [(mem_of_trOf hu).2]
        exact hu

/-- The beats of a write with their rows, in staging order. -/
theorem zip_rows (fs : List WFlit) (bs : List Beat) :
    (bs.zip ((fs.take bs.length).map fun f => (⟨f.data, f.en, f.pois, [], 0⟩ : StoredRow))).map
        (fun (b, r) => { b with data := r.data, pois := r.pois, en := r.en })
      = List.zipWith (fun (b : Beat) (f : WFlit) => { b with data := f.data, pois := f.pois, en := f.en }) bs fs := by
  induction bs generalizing fs with
  | nil => rfl
  | cons b bs ih =>
    cases fs with
    | nil => rfl
    | cons f fs => exact congrArg (_ :: ·) (ih fs)

theorem exec_writeTransferRequest {lane n : Nat} {s : State} {T : Tr} (hs : serving s = true)
    (hf : firstWaiting s (wlane s lane).order 0 = some (T, n)) (ht : T.slip = 0) (hk : T.kind ≠ .drop)
    (hn : n + T.beats.length ≤ (wlane s lane).staging.length) :
    exec (.writeTransferRequest lane) s = .next (giveRows T
      ((((wlane s lane).staging.drop n).take T.beats.length).map fun f => ⟨f.data, f.en, f.pois, [], 0⟩) s) := by
  refine congrArg Host.Outcome.next ?_
  rw [hs, hf]
  refine (if_neg (by decide)).trans ?_
  dsimp only
  rw [if_neg (Classical.not_not.mpr ht), if_neg hk, if_neg (Nat.not_lt.mpr hn)]

/-! A flit of an own read -/

theorem legParity_none (s : State) (c : Crossing) : legParity s c ⟨0, 0, 0, 0⟩ = noParity := by
  unfold legParity
  split <;> rfl

theorem netParity_none (w : Bool) (src dst : Nat) (s : State) : netParity w noParity src dst s = s := rfl

theorem markPlane_none (c : Crossing) (s : State) : markPlane c noParity s = s := if_pos rfl

theorem beatFlit_clean (b : Beat) : beatFlit b (parityMask noParity) = if b.bad = 0 then (b.data, b.pois) else (0, 0xF) := by
  unfold beatFlit
  split
  · exact congrArg (Prod.mk b.data) BitVec.or_zero
  · rfl

theorem passBeat_own {s : State} {T : Tr} {lane n : Nat} {b : Beat} {m : Mask4} (ht : T.slip = 0) (hb : T.beats[n]? = some b) :
    passBeat lane T n ⟨0, 0, 0, 0⟩ m s
      = some (beatPassed T lane n (passOwn T lane n (if b.bad = 0 then (b.data, b.pois) else (0, 0xF)) s)) := by
  unfold passBeat
  rw [hb]
  dsimp only [Option.getD_some]
  rw [legParity_none, ite_self, beatFlit_clean, markPlane_none, netParity_none, if_pos ht]

/-- What the passing of a client's own flit leaves. -/
theorem passOwn_leaves {s : State} {T : Tr} {lane n : Nat} (f : Row × Mask4) (hr : NMap.get 0 s.rx.res T.id = 0) :
    Only [.fr, .rx, .pw] s (passOwn T lane n f s) ∧ (passOwn T lane n f s).fr.wl = s.fr.wl ∧ (passOwn T lane n f s).fr.ch = s.fr.ch
      ∧ (passOwn T lane n f s).fr.trs = s.fr.trs
      ∧ ∀ l, rlane (passOwn T lane n f s) l = if l = lane then { rlane s lane with
          landing := (rlane s lane).landing ++ [⟨f.1, sideband f.2.toNat T.ctx (n + 1 == T.beats.length) 0 0 [] true, 0, 0, T.g0⟩] } else rlane s l := by
  have hon := passOwn_only T lane n f s
  unfold passOwn at hon ⊢
  dsimp only at hon ⊢
  rw [hr, if_pos rfl, if_pos rfl] at hon ⊢
  have hfr : ∀ v : State, (estimate 4 1 v).fr = v.fr := fun v => estimate_only 4 1 v .fr (by decide)
  refine ⟨hon, by rw [hfr]; rfl, by rw [hfr]; rfl, by rw [hfr]; rfl, fun l => ?_⟩
  rw [rlane_of_fr (hfr _)]
  exact (rlane_updRlane lane l _ _).trans rfl

theorem beatPassed_leaves (T : Tr) (lane n : Nat) {s : State} {u : Tr} (hT : trOf s T.id = some u) :
    Only [.fr] s (beatPassed T lane n s) ∧ (beatPassed T lane n s).fr.wl = s.fr.wl ∧ (beatPassed T lane n s).fr.ch = s.fr.ch
      ∧ trOf (beatPassed T lane n s) T.id = some { T with passed := NMap.set 0 T.passed lane (n + 1) }
      ∧ ∀ l, rlane (beatPassed T lane n s) l = if l = lane then { rlane s lane with
          order := if T.beats.length ≤ n + 1 then (rlane s lane).order.drop 1 else (rlane s lane).order } else rlane s l := by
  have htr := trOf_setTr (t := { T with passed := NMap.set 0 T.passed lane (n + 1) }) (s := s) hT
  unfold beatPassed
  by_cases hl : T.beats.length ≤ n + 1
  · rw [decide_eq_true hl, if_pos hl]
    have hr := updRlane_only lane (fun x => { x with order := x.order.drop 1 }) (setTr { T with passed := NMap.set 0 T.passed lane (n + 1) } s)
    exact ⟨(setTr_only _ s).trans hr, rfl, rfl, htr, fun l => (rlane_updRlane lane l (fun x => { x with order := x.order.drop 1 }) _).trans rfl⟩
  · rw [decide_eq_false hl, if_neg hl]
    refine ⟨setTr_only _ s, rfl, rfl, htr, fun l => ?_⟩
    split
    next h => rw [h]; rfl
    · rfl

theorem exec_readFlitOutput {lane n id : Nat} {ids : List Nat} {s u : State} {T : Tr} (hr : running s = true) (hc : (rlane s lane).cur = 0)
    (ho : (rlane s lane).order = id :: ids) (ht : trOf s id = some T) (hn : n = NMap.get 0 T.passed lane) (hb : beatReady s T n = true)
    (hp : passBeat lane T n ⟨0, 0, 0, 0⟩ 0 s = some u) (hl : (rlane u lane).landing.length ≤ 24) :
    exec (.readFlitOutput lane ⟨0, 0, 0, 0⟩ 0) s = .next u := by
  refine congrArg Host.Outcome.next ?_
  have he : (rlane s lane).order.head?.bind (trOf s) = some T := by rw [ho]; exact ht
  rw [if_neg (Classical.not_not.mpr hc), he]
  dsimp only
  rw [← hn, if_pos hb, hp]
  exact if_pos (by rw [hr, decide_eq_true hl]; rfl)

/-- Settles O24: an own write takes its rows from staging; an own read's flit lands. -/
theorem ownTransfersTakeRowsAndDeliver : Obligations.OwnTransfersTakeRowsAndDeliver := by
  unfold Obligations.OwnTransfersTakeRowsAndDeliver
  refine ⟨fun lane s T n hs hf ht hk hn => ?_, fun lane s T n id b ids hr hc ho hT ht hn hb hbr hrx hl => ?_⟩
  · refine ⟨_, exec_writeTransferRequest hs hf ht hk hn, setTr_only _ s, rfl, rfl, rfl, ?_⟩
    rw [← zip_rows]
    have hT : trOf s T.id = some T := trOf_firstWaiting hf
    exact trOf_setTr (t := { T with
      beats := (T.beats.zip ((((wlane s lane).staging.drop n).take T.beats.length).map fun f => (⟨f.data, f.en, f.pois, [], 0⟩ : StoredRow))).map
        fun (b, r) => { b with data := r.data, pois := r.pois, en := r.en }
      ready := true, rcyc := s.cyc + 1 }) (u := T) hT
  · have hid := (mem_of_trOf hT).2
    obtain ⟨hon, hwl, hch, htrs, hrl⟩ := passOwn_leaves (lane := lane) (n := n) (if b.bad = 0 then (b.data, b.pois) else (0, 0xF)) hrx
    have hp := passBeat_own (lane := lane) (m := 0) (s := s) ht hb
    generalize passOwn T lane n _ s = u at hon hwl hch htrs hrl hp
    have hTu : trOf u T.id = some T := by rw [trOf, htrs, hid]; exact hT
    obtain ⟨hon', hwl', hch', htr', hrl'⟩ := beatPassed_leaves T lane n hTu
    generalize beatPassed T lane n u = v at hon' hwl' hch' htr' hrl' hp
    have hlane := hrl' lane
    rw [if_pos rfl, hrl lane, if_pos rfl, ho] at hlane
    refine ⟨v, exec_readFlitOutput hr hc ho hT hn hbr hp ?_, hwl'.trans hwl, hch'.trans hch, ?_, ?_, fun l hll => ?_, ?_, hid ▸ htr'⟩
    · rw [hlane]
      simp only [List.length_append, List.length_singleton]
      omega
    · exact (hon' .mem (by decide)).trans (hon .mem (by decide))
    · exact (hon' .regs (by decide)).trans (hon .regs (by decide))
    · rw [hrl', if_neg hll, hrl, if_neg hll]
    · rw [hlane]
      by_cases h0 : b.bad = 0
      · simp only [if_pos h0, List.drop_one, List.tail_cons]
      · simp only [if_neg h0, List.drop_one, List.tail_cons]
        rfl

end Sys2Proof.Machine
end

section
/-!
PROOFS. Array cycles: reads, stores, atomics and the correction write-back (R33 to R50).
-/
namespace Sys2Proof.Machine

/-! Beats that are kept -/

/-- A transfer is granted and has these beats. -/
def HasBeats (i : Nat) (bs : List Beat) (s : State) : Prop := ∃ V, trOf s i = some V ∧ V.granted = true ∧ V.beats = bs

theorem HasBeats.of_trs {i : Nat} {bs : List Beat} {s t : State} (h : HasBeats i bs s) (he : t.fr.trs = s.fr.trs) : HasBeats i bs t := by
  unfold HasBeats trOf at *
  rwa [he]

theorem HasBeats.of_only {i : Nat} {bs : List Beat} {ps : List Part} {s t : State} (h : HasBeats i bs s) (k : Only ps s t)
    (hp : ps.contains .fr = false := by decide) : HasBeats i bs t :=
  h.of_trs (by rw [k .fr (by simpa using hp)])

theorem trOf_setTr_ne {s : State} {U : Tr} {j : Nat} (h : j ≠ U.id) : trOf (setTr U s) j = trOf s j := by
  unfold trOf setTr
  dsimp only
  rw [List.find?_map]
  induction s.fr.trs with
  | nil => rfl
  | cons a l ih =>
    rw [List.find?_cons, List.find?_cons]
    by_cases ha : a.id = U.id
    · have h1 : ((fun t : Tr => t.id == j) ∘ fun u => if u.id == U.id then U else u) a = false := by simp [ha, Ne.symm h]
      have h2 : (a.id == j) = false := by simp [ha, Ne.symm h]
      rw [h1, h2]
      exact ih
    · have h1 : ((fun t : Tr => t.id == j) ∘ fun u => if u.id == U.id then U else u) a = (a.id == j) := by simp [ha]
      rw [h1]
      cases hj : a.id == j with
      | true => simp [ha]
      | false => exact ih

/-- A transfer replaced by one with the same beats. -/
theorem HasBeats.setTr {i : Nat} {bs : List Beat} {s : State} {t U : Tr} (h : HasBeats i bs s) (ht : trOf s U.id = some t)
    (hg : U.granted = t.granted) (hb : U.beats = t.beats) : HasBeats i bs (setTr U s) := by
  obtain ⟨V, hV, hVg, hVb⟩ := h
  by_cases hi : i = U.id
  · subst hi
    obtain rfl := Option.some.inj (ht.symm.trans hV)
    exact ⟨U, trOf_setTr ht, hg.trans hVg, hb.trans hVb⟩
  · exact ⟨V, (trOf_setTr_ne hi).trans hV, hVg, hVb⟩

theorem HasBeats.addTr {i : Nat} {bs : List Beat} {s : State} (h : HasBeats i bs s) (U : Tr) : HasBeats i bs (addTr U s) := by
  obtain ⟨V, hV, hVs⟩ := h
  exact ⟨V, trOf_addTr hV, hVs⟩

theorem find?_filter_of_pos {α : Type} {l : List α} {p q : α → Bool} {a : α} (h : l.find? q = some a) (hp : p a = true) :
    (l.filter p).find? q = some a := by
  induction l with
  | nil => cases h
  | cons b l ih =>
    rw [List.find?_cons] at h
    cases hq : q b with
    | true =>
      rw [hq] at h
      obtain rfl := Option.some.inj h
      rw [List.filter_cons_of_pos hp, List.find?_cons, hq]
    | false =>
      rw [hq] at h
      by_cases hb : p b = true
      · rw [List.filter_cons_of_pos hb, List.find?_cons, hq]
        exact ih h
      · rw [List.filter_cons_of_neg hb]
        exact ih h

theorem HasBeats.dropJobs {i : Nat} {bs : List Beat} {s : State} (h : HasBeats i bs s) (p : Job → Bool) : HasBeats i bs (dropJobs p s) := by
  obtain ⟨V, hV, hVg, hVb⟩ := h
  refine ⟨if p V.job then { V with job := .none } else V, ?_, ?_, ?_⟩
  · unfold trOf Machine.dropJobs
    dsimp only
    have hq : ((fun t : Tr => t.id == i) ∘ fun t => if p t.job then { t with job := .none } else t) = fun t => t.id == i := by
      funext t
      simp only [Function.comp_apply]
      split <;> rfl
    rw [List.find?_map, hq, find?_filter_of_pos hV (by rw [hVg]; simp)]
    rfl
  · split <;> exact hVg
  · split <;> exact hVb

theorem HasBeats.jobDone {i : Nat} {bs : List Beat} {s : State} (h : HasBeats i bs s) (t : Tr) : HasBeats i bs (jobDone t s) := by
  have same : ∀ z : State, z.fr = s.fr → HasBeats i bs z := fun z hz => h.of_trs (by rw [hz])
  unfold Machine.jobDone
  dsimp only
  cases t.job with
  | copyRd =>
    dsimp only
    unfold copyRead
    split
    · exact HasBeats.addTr (HasBeats.of_trs h rfl) _
    · exact h
  | dump u =>
    dsimp only
    unfold dumped
    split
    · have hc : HasBeats i bs (clearWatch u s) := HasBeats.dropJobs (HasBeats.of_trs h rfl) _
      exact ((HasBeats.of_trs (t := setWatch u { watchAt s u with buf := [] } (clearWatch u s)) hc rfl).of_only (orReg_only _ _ _)).of_only (raise_only _ _)
    · exact HasBeats.of_trs h rfl
  | none => exact h
  | side l => exact same _ (sideArrived_only _ _ _ _ .fr (by decide))
  | vec l => exact same _ (vecArrived_only _ _ _ _ .fr (by decide))
  | scale l a => exact same _ (scaleArrived_only _ _ _ _ _ .fr (by decide))
  | chunkRd => exact same _ (updSlip_only _ _ _ .fr (by decide))
  | chunkWr => exact same _ (updSlip_only _ _ _ .fr (by decide))
  | stat => exact same _ (updHeld_only _ _ _ .fr (by decide))
  | rrow o j => exact same _ (opRead_only _ _ _ _ .fr (by decide))
  | wrow o j => exact same _ (opWritten_only _ _ _ .fr (by decide))
  | trace n => exact same _ (advanceRing_only _ _ .fr (by decide))
  | stopSlot => exact h
  | dumpRd => exact h
  | bankRd => exact h
  | copyWr => exact same _ (copyWritten_only _ .fr (by decide))
  | dual => exact same _ (dualWritten_only _ .fr (by decide))

theorem HasBeats.settleGo {i : Nat} {bs : List Beat} (l : List Nat) {s : State} (h : HasBeats i bs s) : HasBeats i bs (settleGo l s) := by
  induction l generalizing s with
  | nil => exact h
  | cons j l ih =>
    rw [settleGo_cons]
    cases ht : trOf s j with
    | none => exact ih h
    | some t =>
      dsimp only
      split
      · exact ih h
      · split
        · exact ih (HasBeats.jobDone (h.setTr (t := t) (U := { t with passed := [(0, 1)] }) (by rw [(mem_of_trOf ht).2]; exact ht) rfl rfl) t)
        · exact h

theorem HasBeats.parkArrived {i : Nat} {bs : List Beat} {s : State} (h : HasBeats i bs s) (x : Slip) (k : Nat) (d : Row) (p : Mask4) :
    HasBeats i bs (parkArrived x k d p s) := by
  unfold Machine.parkArrived
  split
  · exact h
  next hd _ =>
    have hp : HasBeats i bs (progress x.q (if isMX (sSfmt x.words) then
        updHeld x.sid (fun e => { e with raw := NMap.set none e.raw k (some (d, p)) }) s |> drainRaw x.sid (hd.raw.length + 1)
      else addPart x k d p [] s)) := by
      refine HasBeats.of_only ?_ (progress_only x.q _)
      split
      · exact (h.of_only (updHeld_only _ _ _)).of_only (drainRaw_only _ _ _)
      · exact h.of_only (addPart_only _ _ _ _ _ _)
    unfold when
    split
    · exact hp.addTr _
    · exact hp

/-! One beat changed -/

/-- The beats of a transfer with one changed. -/
def beatSet (n : Nat) (f : Beat → Beat) (bs : List Beat) : List Beat := bs.zipIdx.map fun (b, i) => if i = n then f b else b

theorem beatSet_length (n : Nat) (f : Beat → Beat) (bs : List Beat) : (beatSet n f bs).length = bs.length := by simp [beatSet]

theorem beatSet_self {n : Nat} {f : Beat → Beat} {bs : List Beat} {b : Beat} (h : bs[n]? = some b) : (beatSet n f bs)[n]? = some (f b) := by
  simp [beatSet, h]

theorem beatSet_ne {n i : Nat} {f : Beat → Beat} {bs : List Beat} (h : i ≠ n) : (beatSet n f bs)[i]? = bs[i]? := by
  simp only [beatSet, List.getElem?_map, List.getElem?_zipIdx, Option.map_map]
  cases bs[i]? with
  | none => rfl
  | some b => simp [h]

theorem updBeat_beats {s : State} {T : Tr} (n : Nat) (f : Beat → Beat) (ht : trOf s T.id = some T) (hg : T.granted = true) :
    HasBeats T.id (beatSet n f T.beats) (updBeat T.id n f s) := by
  unfold updBeat
  rw [ht]
  exact ⟨_, trOf_setTr (t := { T with beats := beatSet n f T.beats }) ht, hg, rfl⟩

theorem trOf_of_fr {s t : State} (h : t.fr = s.fr) (i : Nat) : trOf t i = trOf s i := by rw [trOf, trOf, h]

theorem filled_eq (r : RowRead) (en : Mask4) (b : Beat) : Beat.filled r en b
    = if b.have_ = true then { b with done := true } else { b with done := true, have_ := true, once := true, data := r.data, pois := r.pois, en := en } := rfl

/-- What a read beat leaves in its row's place. -/
theorem readBeatNow_beats {s : State} {T : Tr} {n : Nat} {b : Beat} (port : Bool) (ups : List Upset) (ht : trOf s T.id = some T)
    (hg : T.granted = true) :
    HasBeats T.id (beatSet n (Beat.filled (readRow (beatCyc s T n + (if T.job = .copyRd then 2 else 0)) b.bank b.row (readerOf T port) ups s).1
        (if T.kind ≠ .ird then b.en else if T.job = .bankRd
          then (readRow (beatCyc s T n + (if T.job = .copyRd then 2 else 0)) b.bank b.row (readerOf T port) ups s).1.corr
          else initMap s (beatCyc s T n + (if T.job = .copyRd then 2 else 0)) b.bank b.row)) T.beats) (readBeatNow T n b port ups s) := by
  unfold readBeatNow
  dsimp only
  have hro := readRow_only (beatCyc s T n + (if T.job = .copyRd then 2 else 0)) b.bank b.row (readerOf T port) ups s
  generalize readRow (beatCyc s T n + (if T.job = .copyRd then 2 else 0)) b.bank b.row (readerOf T port) ups s = r at hro ⊢
  have hbo := beatPerformed_only T b.bank r.2
  have hu : trOf (beatPerformed T b.bank r.2) T.id = some T := by
    rw [trOf_of_fr (hbo .fr (by decide)), trOf_of_fr (hro .fr (by decide))]
    exact ht
  generalize beatPerformed T b.bank r.2 = u at hu
  generalize (if T.kind ≠ .ird then b.en else if T.job = .bankRd then r.1.corr
    else initMap s (beatCyc s T n + (if T.job = .copyRd then 2 else 0)) b.bank b.row) = en
  have hv := updBeat_beats n (Beat.filled r.1 en) hu hg
  generalize updBeat T.id n (Beat.filled r.1 en) u = v at hv ⊢
  split
  · exact hv.settleGo _
  · split
    · exact hv
    · split
      · exact hv
      next x _ =>
        split
        · exact hv.parkArrived x _ _ _
        · exact hv.of_only (Only.when (fun w => xbump_only 1857 1 w) _ v)

theorem exec_arrayRead {bank n : Nat} {port : Bool} {ups : List Upset} {s : State} {T : Tr} {b : Beat} (hs : arraysGo s = true)
    (hn : nextBeat s bank port [.rd, .park, .ird] = some (T, n)) (hb : T.beats[n]? = some b) :
    exec (.arrayRead bank port ups) s = .next (readBeatNow T n b port ups s) := by
  refine congrArg Host.Outcome.next ?_
  rw [hs, hn]
  refine (if_neg (by decide)).trans ?_
  dsimp only
  rw [hb]

theorem exec_arrayWrite {bank n : Nat} {port : Bool} {par : Parity} {s : State} {T : Tr} {b : Beat} (hs : arraysGo s = true)
    (hn : nextBeat s bank port [.wr, .parkWr, .iwr] = some (T, n)) (hb : T.beats[n]? = some b) :
    exec (.arrayWrite bank port par) s = .next (writeBeatNow T n b port par s) := by
  refine congrArg Host.Outcome.next ?_
  rw [hs, hn]
  refine (if_neg (by decide)).trans ?_
  dsimp only
  rw [hb]

theorem exec_atomicExecute {bank n : Nat} {port : Bool} {ups : List Upset} {par : Parity} {s : State} {T : Tr} {b : Beat} (hs : running s = true)
    (hn : nextBeat s bank port [.at] = some (T, n)) (hb : T.beats[n]? = some b) :
    exec (.atomicExecute bank port ups par) s = .next (atomicNow T b port ups par s) := by
  refine congrArg Host.Outcome.next ?_
  rw [hs, hn]
  refine (if_neg (by decide)).trans ?_
  dsimp only
  rw [hb]

theorem exec_writeBack {bank : Nat} {s : State} {w : WbSlot} (hs : running s = true) (ho : bankOn s bank = true) (hi : portIdle s bank = true)
    (hw : NMap.get none s.bank.wb bank = some w) (hc : w.cyc + 3 ≤ s.cyc) (hd : wbWaits s bank w.row = false) :
    exec (.writeBack bank) s = .next (storeWb bank (keepUndo s.cyc (s.cyc + 1) (pbankOf s bank) w.row 0 true s)) := by
  refine congrArg Host.Outcome.next ?_
  rw [hs, ho, hi]
  refine (if_neg (by decide)).trans ?_
  rw [hw]
  exact if_pos ⟨hc, by rw [hd]; rfl⟩

/-! Stores -/

/-- The store of a port's beat, of the chunks that the other port does not store. -/
theorem portStore_stored (c lb row en : Nat) (port : Bool) (d : Row) (p : Mask4) (cls wt : Nat) {s : State} (hr : row < 512) :
    Stored (pbankOf s lb) row (if port = true then en &&& (15 - (otherStore s c (pbankOf s lb) row port).getD 0) else en) d p s
      (portStore c lb row en port d p cls wt s) := by
  unfold portStore
  dsimp only
  have hcoll : Only [.cnt, .xc] s (if en &&& (otherStore s c (pbankOf s lb) row port).getD 0 ≠ 0
      then bump 0x59B8 1 s |> when (decide (plainBank lb < 96)) (xbump (768 + plainBank lb) 1) else s) := by
    split
    · exact ((bump_only _ _ s).mono rfl).trans ((Only.when (fun u => xbump_only _ _ u) _ _).mono rfl)
    · exact Only.refl _ s
  generalize (if en &&& (otherStore s c (pbankOf s lb) row port).getD 0 ≠ 0
      then bump 0x59B8 1 s |> when (decide (plainBank lb < 96)) (xbump (768 + plainBank lb) 1) else s) = u at hcoll ⊢
  have hpb : pbankOf (keepUndo c (c + 1) (pbankOf s lb) row en port u) lb = pbankOf s lb := pbankOf_of_regs_eq (hcoll .regs (by decide)) lb
  have hst := storeRow_stored lb row (if port = true then en &&& (15 - (otherStore s c (pbankOf s lb) row port).getD 0) else en) d p cls wt
    (keepUndo c (c + 1) (pbankOf s lb) row en port u) hr
  rw [hpb] at hst
  exact hst.congr ((sameBanks.of_only hcoll (by decide)).trans (keepUndo_banks _ _ _ _ _ _ u)) (sameBanks.refl _)

theorem otherStore_of_bank {s t : State} (h : t.bank = s.bank) (c pb row : Nat) (port : Bool) : otherStore t c pb row port = otherStore s c pb row port := by
  unfold otherStore
  rw [h]

/-- The crossing of the network keeps the banks and where they lie. -/
theorem netLeg_leaves (w : Bool) (p q : Parity) (src dst : Nat) (l : Crossing) (s : State) :
    Only [.regs, .cnt, .fr, .tr, .dbg, .fw] s (netParity w p src dst (markPlane l q s))
      ∧ ∀ lb, pbankOf (netParity w p src dst (markPlane l q s)) lb = pbankOf s lb :=
  ⟨((markPlane_only l q s).mono rfl).trans ((netParity_only w p src dst _).mono rfl), fun lb => by
    rw [pbankOf_of_within (netParity_within w p src dst _) (by decide), pbankOf_of_within (markPlane_within l q s) (by decide)]⟩

/-- What a stored beat tells its slip. -/
def storeTold (T : Tr) (n : Nat) (b : Beat) (pois : Mask4) (s : State) : State :=
  if T.slip = 0 ∨ b.have_ then s
  else match slipOf s (T.slip - 1) with
    | none => s
    | some x =>
      if T.kind == .wr then watchStore (watchView x 1) (T.g0 + n) (sDfmt x.words) (T.last && n + 1 == T.beats.length) b.data pois b.en s
      else parkWritten x s

/-- What follows a beat's store. -/
def storeTail (T : Tr) (n : Nat) (b : Beat) (pois : Mask4) (s : State) : State :=
  if T.kind = .iwr then settlePort T.req s
  else if T.kind == .wr then settleLane (T.wlane - 1) 64 (storeTold T n b pois s) else storeTold T n b pois s

theorem storeTold_banks (T : Tr) (n : Nat) (b : Beat) (pois : Mask4) (s : State) : sameBanks s (storeTold T n b pois s) := by
  unfold storeTold
  split
  · exact sameBanks.refl s
  · split
    · exact sameBanks.refl s
    · split
      · exact sameBanks.of_only (watchStore_only _ _ _ _ _ _ _ s) (by decide)
      · exact sameBanks.of_only (parkWritten_only _ s) (by decide)

theorem storeTail_banks (T : Tr) (n : Nat) (b : Beat) (pois : Mask4) (s : State) : sameBanks s (storeTail T n b pois s) := by
  unfold storeTail
  split
  · exact sameBanks.of_only (settlePort_only _ s) (by decide)
  · have ht := storeTold_banks T n b pois s
    split
    · exact ht.trans (sameBanks.of_only (settleLane_only _ _ _) (by decide))
    · exact ht

theorem writeBeatNow_eq (T : Tr) (n : Nat) (b : Beat) (port : Bool) (par p : Parity) (s : State)
    (hp : (if T.kind == .wr then legParity s ⟨true, T.id, beatCyc s T n, (T.wlane - 1) / 5, pbankOf s b.bank / 4, par.plane.toNat⟩ par else noParity) = p) :
    writeBeatNow T n b port par s = storeTail T n b (b.pois ||| parityMask p)
      (updBeat T.id n (fun c => { c with done := true, have_ := true }) (beatPerformed T b.bank
        (portStore (beatCyc s T n) b.bank b.row b.en.toNat port (if T.job = .stopSlot then stopSlotRow s b else b.data) (b.pois ||| parityMask p)
          (trCls s T) (shareWeight s T)
          (netParity true p (T.wlane - 1) (portNo s b.bank port) (markPlane ⟨true, T.id, beatCyc s T n, (T.wlane - 1) / 5, pbankOf s b.bank / 4, par.plane.toNat⟩ p s))))) := by
  subst hp
  rfl

/-- R42: a beat that holds the row as read. -/
def Beat.returned (r : RowRead) (b : Beat) : Beat := { b with done := true, have_ := true, data := r.data, pois := r.pois }

/-- What follows the read of an atomic's row: the store of its result and what it counts. -/
def atomicStored (T : Tr) (b : Beat) (port : Bool) (x : Row × Mask4 × Mask4) (r : RowRead) (s : State) : State :=
  keepUndo (T.gcyc + T.offs + 1) (T.gcyc + T.offs + 2) (pbankOf s b.bank) b.row x.2.1.toNat port s
    |> storeRow b.bank b.row x.2.1.toNat x.1 x.2.2 (trCls s T) (shareWeight s T)
    |> beatPerformed T b.bank
    |> updBeat T.id 0 (Beat.returned r)
    |> settleLane (T.wlane - 1) 64

theorem atomicStored_stored (T : Tr) (b : Beat) (port : Bool) (x : Row × Mask4 × Mask4) (r : RowRead) (s : State) (hr : b.row < 512) :
    Stored (pbankOf s b.bank) b.row x.2.1.toNat x.1 x.2.2 s (atomicStored T b port x r s) := by
  have hst := storeRow_stored b.bank b.row x.2.1.toNat x.1 x.2.2 (trCls s T) (shareWeight s T)
    (keepUndo (T.gcyc + T.offs + 1) (T.gcyc + T.offs + 2) (pbankOf s b.bank) b.row x.2.1.toNat port s) hr
  unfold atomicStored
  refine hst.congr (keepUndo_banks _ _ _ _ _ _ s) ?_
  generalize storeRow b.bank b.row x.2.1.toNat x.1 x.2.2 (trCls s T) (shareWeight s T)
    (keepUndo (T.gcyc + T.offs + 1) (T.gcyc + T.offs + 2) (pbankOf s b.bank) b.row x.2.1.toNat port s) = u
  exact ((sameBanks.of_only (beatPerformed_only T b.bank u) (by decide)).trans (sameBanks.of_only (updBeat_only _ _ _ _) (by decide))).trans
    (sameBanks.of_only (settleLane_only _ _ _) (by decide))

theorem settleLane_trs (lane fuel : Nat) (s : State) : (settleLane lane fuel s).fr.trs = s.fr.trs := by
  induction fuel generalizing s with
  | zero => rfl
  | succ fuel ih =>
    unfold settleLane
    split
    · rfl
    · split
      · rfl
      · split
        · rfl
        · refine (ih _).trans ?_
          split
          · rfl
          · split <;> rfl

theorem atomicStored_beats {T : Tr} {b : Beat} {s : State} (port : Bool) (x : Row × Mask4 × Mask4) (r : RowRead) (hg : T.granted = true)
    (ht : trOf s T.id = some T) : HasBeats T.id (beatSet 0 (Beat.returned r) T.beats) (atomicStored T b port x r s) := by
  unfold atomicStored
  have hs := storeRow_only b.bank b.row x.2.1.toNat x.1 x.2.2 (trCls s T) (shareWeight s T)
    (keepUndo (T.gcyc + T.offs + 1) (T.gcyc + T.offs + 2) (pbankOf s b.bank) b.row x.2.1.toNat port s)
  generalize storeRow b.bank b.row x.2.1.toNat x.1 x.2.2 (trCls s T) (shareWeight s T)
    (keepUndo (T.gcyc + T.offs + 1) (T.gcyc + T.offs + 2) (pbankOf s b.bank) b.row x.2.1.toNat port s) = u at hs ⊢
  have hb := beatPerformed_only T b.bank u
  generalize beatPerformed T b.bank u = v at hb ⊢
  have hv : trOf v T.id = some T := by
    rw [trOf_of_fr (hb .fr (by decide)), trOf_of_fr (hs .fr (by decide))]
    exact ht
  exact (updBeat_beats 0 (Beat.returned r) hv hg).of_trs (settleLane_trs _ _ _)

theorem atomicNow_eq (T : Tr) (b : Beat) (port : Bool) (ups : List Upset) (par p : Parity) (s : State) (l : Crossing) (r : RowRead × State)
    (hl : l = ⟨true, T.id, T.gcyc + T.offs, (T.wlane - 1) / 5, pbankOf s b.bank / 4, par.plane.toNat⟩) (hp : legParity s l par = p)
    (hr : readRow (T.gcyc + T.offs) b.bank b.row ⟨port, 1, T.client, false⟩ ups
      (netParity true p (T.wlane - 1) (portNo s b.bank port) (markPlane l p s)) = r) :
    atomicNow T b port ups par s = atomicStored T b port (atomicResult T.atop b.byte r.1.data r.1.pois b.data (b.pois ||| parityMask p)) r.1 r.2 := by
  subst hr hp hl
  rfl

theorem pbankOf_readRow (c lb row : Nat) (rd : Reader) (ups : List Upset) (s : State) (k : Nat) :
    pbankOf (readRow c lb row rd ups s).2 k = pbankOf s k := pbankOf_of_within (readRow_within c lb row rd ups s) (by decide) k

theorem parityMask_none (p : Mask4) : p ||| parityMask noParity = p := BitVec.or_zero

/-- Settles O25: reads, stores, atomics and write-backs in their array cycles. -/
theorem arrayCyclesReadAndStoreRows : Obligations.ArrayCyclesReadAndStoreRows := by
  unfold Obligations.ArrayCyclesReadAndStoreRows
  refine ⟨fun bank port ups s T n b hs hn hb ht => ?_, fun bank port par s T n b hs hn hb hr => ?_,
    fun bank port ups par s T n b hs hn hb hr => ?_, fun bank s w hs ho hi hw hc hd hr => ?_⟩
  · obtain ⟨-, hg, -⟩ := nextBeat_spec hn
    obtain ⟨U, hU, -, hUb⟩ := readBeatNow_beats (n := n) (b := b) port ups ht hg
    refine ⟨_, U, exec_arrayRead hs hn hb, readBeatNow_only T n b port ups s .mem (by decide), hU, ?_, ?_, fun i hi => ?_⟩
    · rw [hUb, beatSet_length]
    · rw [hUb, beatSet_self hb, filled_eq]
    · rw [hUb, beatSet_ne hi]
  · refine ⟨_, exec_arrayWrite hs hn hb, ?_⟩
    dsimp only
    generalize hl : (⟨true, T.id, beatCyc s T n, (T.wlane - 1) / 5, pbankOf s b.bank / 4, par.plane.toNat⟩ : Crossing) = l
    have hp : (if T.kind = .wr then b.pois ||| parityMask (legParity s l par) else b.pois)
        = b.pois ||| parityMask (if T.kind == .wr then legParity s l par else noParity) := by
      by_cases hk : T.kind = .wr
      · rw [if_pos hk, if_pos (beq_iff_eq.mpr hk)]
      · rw [if_neg hk, if_neg (fun h => hk (beq_iff_eq.mp h)), parityMask_none]
    rw [writeBeatNow_eq T n b port par _ s rfl, hl, hp]
    generalize (if T.kind == .wr then legParity s l par else noParity) = p
    obtain ⟨hno, hnp⟩ := netLeg_leaves true p p (T.wlane - 1) (portNo s b.bank port) l s
    generalize netParity true p (T.wlane - 1) (portNo s b.bank port) (markPlane l p s) = u at hno hnp
    have hst := portStore_stored (beatCyc s T n) b.bank b.row b.en.toNat port (if T.job = .stopSlot then stopSlotRow s b else b.data)
      (b.pois ||| parityMask p) (trCls s T) (shareWeight s T) (s := u) hr
    rw [hnp, otherStore_of_bank (hno .bank (by decide))] at hst
    refine hst.congr (sameBanks.of_only hno (by decide)) ?_
    generalize portStore (beatCyc s T n) b.bank b.row b.en.toNat port (if T.job = .stopSlot then stopSlotRow s b else b.data)
      (b.pois ||| parityMask p) (trCls s T) (shareWeight s T) u = v
    exact ((sameBanks.of_only (beatPerformed_only T b.bank v) (by decide)).trans (sameBanks.of_only (updBeat_only _ _ _ _) (by decide))).trans
      (storeTail_banks T n b _ _)
  · obtain ⟨-, hg, -⟩ := nextBeat_spec hn
    refine ⟨_, exec_atomicExecute hs hn hb, ?_⟩
    dsimp only
    generalize hl : (⟨true, T.id, T.gcyc + T.offs, (T.wlane - 1) / 5, pbankOf s b.bank / 4, par.plane.toNat⟩ : Crossing) = l
    generalize hp : legParity s l par = p
    obtain ⟨hno, hnp⟩ := netLeg_leaves true p p (T.wlane - 1) (portNo s b.bank port) l s
    generalize hu : netParity true p (T.wlane - 1) (portNo s b.bank port) (markPlane l p s) = u at hno hnp
    have hro := readRow_only (T.gcyc + T.offs) b.bank b.row ⟨port, 1, T.client, false⟩ ups u
    have hrp := pbankOf_readRow (T.gcyc + T.offs) b.bank b.row ⟨port, 1, T.client, false⟩ ups u b.bank
    generalize hrr : readRow (T.gcyc + T.offs) b.bank b.row ⟨port, 1, T.client, false⟩ ups u = r at hro hrp
    rw [atomicNow_eq T b port ups par p s l r hl.symm hp (by rw [hu, hrr])]
    have hst := atomicStored_stored T b port (atomicResult T.atop b.byte r.1.data r.1.pois b.data (b.pois ||| parityMask p)) r.1 r.2 hr
    rw [hrp, hnp] at hst
    refine ⟨hst, (hro .mem (by decide)).trans (hno .mem (by decide)), fun hbs hT => ?_⟩
    have hTr : trOf r.2 T.id = some T := by
      rw [trOf_of_fr (hro .fr (by decide))]
      have hm : u.fr.trs = s.fr.trs := by
        rw [← hu, netParity_only true p _ _ _ .fr (by decide)]
        unfold markPlane
        split <;> rfl
      rw [trOf, hm]
      exact hT
    obtain ⟨U, hU, -, hUb⟩ := atomicStored_beats (b := b) port
      (atomicResult T.atop b.byte r.1.data r.1.pois b.data (b.pois ||| parityMask p)) r.1 hg hTr
    refine ⟨U, hU, hUb.trans ?_⟩
    rw [hbs]
    rfl
  · have hk := storeWb_stored (lb := bank) (s := keepUndo s.cyc (s.cyc + 1) (pbankOf s bank) w.row 0 true s) hw hr
    exact ⟨_, exec_writeBack hs ho hi hw hc hd, (storeWb_bank bank _).2, hk.congr (keepUndo_banks _ _ _ _ _ _ s) (sameBanks.refl _)⟩

end Sys2Proof.Machine
end

section
/-!
PROOFS. A decision advances the array cycle (R236, R442).
-/
namespace Sys2Proof.Machine

/-! The count of a halt's cycles is kept -/

/-- The CCLK counted of this halt are as before. -/
structure HaltKept (s t : State) : Prop where
  cyc : t.dbg.haltCyc = s.dbg.haltCyc

theorem HaltKept.refl (s : State) : HaltKept s s := ⟨rfl⟩

theorem HaltKept.trans {s t u : State} (h : HaltKept s t) (k : HaltKept t u) : HaltKept s u := ⟨k.cyc.trans h.cyc⟩

theorem HaltKept.of_dbg {s t : State} (h : t.dbg = s.dbg) : HaltKept s t := ⟨by rw [h]⟩

theorem HaltKept.of_only {ps : List Part} {s t : State} (k : Only ps s t) (h : ps.contains .dbg = false := by decide) : HaltKept s t :=
  .of_dbg (k .dbg (by simpa using h))

theorem HaltKept.raise (n : Nat) (s : State) : HaltKept s (raise n s) := ⟨by rw [raise_dbg]⟩

theorem HaltKept.ite {c : Prop} [Decidable c] {s t u : State} (ht : HaltKept s t) (hu : HaltKept s u) : HaltKept s (if c then t else u) := by
  split
  · exact ht
  · exact hu

theorem HaltKept.when {f : State → State} (hf : ∀ s, HaltKept s (f s)) (c : Bool) (s : State) : HaltKept s (when c f s) := by
  cases c with
  | false => exact HaltKept.refl s
  | true => exact hf s

theorem HaltKept.forEach {α : Type} {f : α → State → State} (hf : ∀ x s, HaltKept s (f x s)) (l : List α) (s : State) : HaltKept s (forEach l f s) := by
  induction l generalizing s with
  | nil => exact HaltKept.refl s
  | cons x l ih => exact (hf x s).trans (ih (f x s))

theorem HaltKept.skipUpdate (b : Nat) (s : State) : HaltKept s (skipUpdate b s) :=
  (HaltKept.of_only (updBkt_only b _ s)).trans (HaltKept.raise 38 _)

theorem HaltKept.openGate (b : Nat) (s : State) : HaltKept s (openGate b s) := by
  unfold Machine.openGate
  dsimp only
  split
  · exact HaltKept.refl s
  · split
    · exact HaltKept.skipUpdate b s
    · split
      · exact HaltKept.of_only (updBkt_only b _ s)
      · split
        · exact HaltKept.refl s
        · exact HaltKept.of_only (askG_only b s)

theorem HaltKept.settleBuckets (s : State) : HaltKept s (settleBuckets s) := by
  have h1 : ∀ b u, HaltKept u (settleBucket b u) := fun b u => by
    unfold settleBucket
    dsimp only
    split
    · exact (HaltKept.openGate b u).trans (HaltKept.of_only (bktDone_only b _))
    · exact HaltKept.openGate b u
  exact (HaltKept.forEach h1 _ s).trans (HaltKept.forEach h1 _ _)

theorem HaltKept.flitReduced (b flit : Nat) (x : Partial) (s : State) : HaltKept s (flitReduced b flit x s) := by
  unfold Machine.flitReduced
  dsimp only
  refine HaltKept.ite ?_ ?_
  · exact HaltKept.of_only (updBkt_only b _ s)
  · refine HaltKept.trans ?_ (HaltKept.settleBuckets _)
    refine HaltKept.trans ?_ (HaltKept.when (fun u => HaltKept.raise 36 u) _ _)
    refine HaltKept.trans ?_ (HaltKept.when (fun u => HaltKept.of_only (addOp_only _ u)) _ _)
    exact HaltKept.trans (HaltKept.of_only (updBkt_only b _ s)) (HaltKept.of_only (updBkt_only b _ _))

theorem HaltKept.gotG (o : ROp) (s : State) : HaltKept s (gotG o s) := by
  unfold Machine.gotG
  dsimp only
  split
  · exact HaltKept.refl s
  · split
    · exact HaltKept.skipUpdate _ s
    · exact HaltKept.of_only (updBkt_only _ _ s)

theorem HaltKept.readsDone (o : ROp) (s : State) : HaltKept s (readsDone o s) := by
  unfold Machine.readsDone
  split
  · refine HaltKept.trans ?_ (HaltKept.of_only (estimate_only _ _ _))
    refine HaltKept.trans ?_ (HaltKept.of_only (xbump_only _ _ _))
    exact ⟨rfl⟩
  · exact ⟨rfl⟩
  · refine HaltKept.trans ?_ (HaltKept.of_only (estimate_only _ _ _))
    exact ⟨rfl⟩
  · refine HaltKept.trans ?_ (HaltKept.settleBuckets _)
    refine HaltKept.trans ?_ (HaltKept.gotG o _)
    exact ⟨rfl⟩

theorem HaltKept.opRead (i k : Nat) (r : Row × Mask4) (s : State) : HaltKept s (opRead i k r s) := by
  unfold Machine.opRead
  split
  · exact HaltKept.refl s
  next o _ =>
    dsimp only
    have h1 : HaltKept s (if o.kind = 0 then takePartial o k s else (o, s)).2 := by
      split
      · exact HaltKept.of_only (takePartial_only o k s)
      · exact HaltKept.refl s
    generalize (if o.kind = 0 then takePartial o k s else (o, s)) = p at h1
    have h2 : HaltKept s (setOp { p.1 with got := NMap.set none p.1.got k (some r) } p.2) := h1.trans (HaltKept.of_dbg rfl)
    split
    · exact h2.trans (HaltKept.readsDone _ _)
    · exact h2

theorem HaltKept.opWritten (i c : Nat) (s : State) : HaltKept s (opWritten i c s) := by
  unfold Machine.opWritten
  split
  · exact HaltKept.refl s
  next o _ =>
    split
    · exact HaltKept.of_dbg rfl
    · dsimp only
      have h1 : HaltKept s (dropOp i s) := HaltKept.of_dbg rfl
      split
      · split
        · exact h1.trans (HaltKept.of_only (parkedAt_only o c _))
        · exact h1.trans (HaltKept.when (fun u => HaltKept.flitReduced _ _ _ u) _ _)
      · exact h1.trans ((HaltKept.when (fun u => HaltKept.of_only (updBkt_only _ _ u)) _ _).trans (HaltKept.settleBuckets _))
      · exact h1.trans (HaltKept.of_only (groupWritten_only _ _))

theorem HaltKept.dumped (u : Nat) (f : Bool) (s : State) : HaltKept s (dumped u f s) := by
  have hw : ∀ w z, HaltKept z (setWatch u w z) := fun _ _ => ⟨rfl⟩
  unfold Machine.dumped
  split
  · refine HaltKept.trans ?_ (HaltKept.raise 55 _)
    refine HaltKept.trans ?_ (HaltKept.of_only (orReg_only _ _ _))
    refine HaltKept.trans ?_ (hw _ _)
    exact (hw Watch.idle s).trans (HaltKept.of_only (dropJobs_only (isDump u) _))
  · exact hw _ s

theorem HaltKept.jobDone (t : Tr) (s : State) : HaltKept s (jobDone t s) := by
  unfold Machine.jobDone
  dsimp only
  cases t.job with
  | rrow o j => exact HaltKept.opRead _ _ _ s
  | wrow o j => exact HaltKept.opWritten _ _ s
  | dump u => exact HaltKept.dumped u _ s
  | copyRd => exact HaltKept.of_only (copyRead_only _ s)
  | none => exact HaltKept.refl s
  | side l => exact HaltKept.of_only (sideArrived_only _ _ _ s)
  | vec l => exact HaltKept.of_only (vecArrived_only _ _ _ s)
  | scale l a => exact HaltKept.of_only (scaleArrived_only _ _ _ _ s)
  | chunkRd => exact HaltKept.of_only (updSlip_only _ _ s)
  | chunkWr => exact HaltKept.of_only (updSlip_only _ _ s)
  | stat => exact HaltKept.of_only (updHeld_only _ _ s)
  | trace n => exact HaltKept.of_only (advanceRing_only n s)
  | stopSlot => exact HaltKept.refl s
  | dumpRd => exact HaltKept.refl s
  | bankRd => exact HaltKept.refl s
  | copyWr => exact HaltKept.of_only (copyWritten_only s)
  | dual => exact HaltKept.of_only (dualWritten_only s)

theorem HaltKept.settleGo (l : List Nat) (s : State) : HaltKept s (settleGo l s) := by
  induction l generalizing s with
  | nil => exact HaltKept.refl s
  | cons j l ih =>
    rw [settleGo_cons]
    split
    · exact ih s
    · split
      · exact ih s
      · split
        · refine HaltKept.trans ?_ (ih _)
          refine HaltKept.trans ?_ (HaltKept.jobDone _ _)
          exact ⟨rfl⟩
        · exact HaltKept.refl s

theorem HaltKept.deadAccess (lb : Nat) (s : State) : HaltKept s (deadAccess lb s) := by
  unfold Machine.deadAccess
  refine HaltKept.trans ?_ (HaltKept.raise 40 _)
  split
  · exact (HaltKept.of_only (bump_only _ _ s)).trans (HaltKept.of_only (xbump_only _ _ _))
  · exact HaltKept.of_only (bump_only _ _ s)

theorem HaltKept.ownFault (t : Tr) (b : Beat) (s : State) : HaltKept s (ownFault t b s) := by
  unfold Machine.ownFault
  dsimp only
  refine HaltKept.trans (HaltKept.of_only (faultRow_only _ _ _ _ _ _ _ s)) (HaltKept.when (fun u => ?_) _ _)
  have h := HaltKept.raise (faultCause (b.bad - 1)) u
  split
  · exact h.trans (HaltKept.of_only (setTr_only _ _))
  · exact h

theorem HaltKept.slipFault (x : Slip) (kind v : Nat) (off : Int) (st : Bool) (s : State) : HaltKept s (slipFault x kind v off st s) := by
  have hr : ∀ i u, HaltKept u (slipRaise i kind u) := fun i u => by
    unfold slipRaise
    split
    · exact HaltKept.refl _
    · refine HaltKept.ite ?_ ?_
      · exact HaltKept.of_only (updSlip_only _ _ _)
      · refine HaltKept.trans ?_ (HaltKept.raise _ _)
        exact HaltKept.of_only (updSlip_only _ _ _)
  unfold Machine.slipFault
  exact HaltKept.trans (HaltKept.of_only (faultRow_only _ _ _ _ _ _ _ s)) (hr _ _)

theorem HaltKept.beatFault (t : Tr) (b : Beat) (s : State) : HaltKept s (beatFault t b s) := by
  unfold Machine.beatFault
  split
  · exact HaltKept.deadAccess _ s
  · split
    · have h1 : HaltKept s (if t.slip = 0 then Machine.ownFault t b s
          else match slipOf s (t.slip - 1) with
            | some x => Machine.slipFault x (b.bad - 1) t.view (b.off : Int) (isStore t) s
            | none => s) := by
        split
        · exact HaltKept.ownFault t b s
        · split
          · exact HaltKept.slipFault _ _ _ _ _ s
          · exact HaltKept.refl s
      generalize (if t.slip = 0 then Machine.ownFault t b s
          else match slipOf s (t.slip - 1) with
            | some x => Machine.slipFault x (b.bad - 1) t.view (b.off : Int) (isStore t) s
            | none => s) = u at h1 ⊢
      refine HaltKept.trans h1 ?_
      split
      · exact HaltKept.of_only (opFault_only _ _)
      · exact HaltKept.of_only (opFault_only _ _)
      · exact HaltKept.refl _
    · exact HaltKept.refl s

theorem HaltKept.grantTr (p : Plan) (s : State) : HaltKept s (grantTr p s) := by
  unfold Machine.grantTr
  dsimp only
  refine HaltKept.trans ?_ (HaltKept.when (fun u => HaltKept.settleGo _ u) _ _)
  refine HaltKept.trans ?_ (HaltKept.forEach (fun b u => (HaltKept.beatFault p.tr b u).trans (HaltKept.of_only (beatGone_only p.tr b _))) _ _)
  split
  · exact HaltKept.of_dbg rfl
  · refine HaltKept.trans ?_ (HaltKept.when (fun u => HaltKept.of_only (updSlip_only _ _ u)) _ _)
    refine HaltKept.trans ?_ (HaltKept.of_only (takeCredits_only p.tr _))
    exact ⟨rfl⟩

theorem HaltKept.decideExempt (s : State) : HaltKept s (decideExempt s) := by
  unfold Machine.decideExempt
  exact (HaltKept.forEach (fun p u => HaltKept.grantTr p u) _ s).trans (HaltKept.of_only (movePointers_only _ _))

theorem haltCycle_count (s : State) : (haltCycle s).dbg.haltCyc = s.dbg.haltCyc + 1 := by
  unfold haltCycle
  dsimp only
  have h : ∀ w, HaltKept s (countClients w (sweep (decideExempt (wakeBanks s)))) := fun w =>
    ((HaltKept.of_only (wakeBanks_only s)).trans (HaltKept.decideExempt _)).trans
      ((HaltKept.of_only (sweep_only _)).trans (HaltKept.of_only (countClients_only w _)))
  rw [(h _).cyc]

/-! The age of the share window -/

/-- The share window is as old as before. -/
structure AgeKept (s t : State) : Prop where
  age : t.arb.shAge = s.arb.shAge

theorem AgeKept.refl (s : State) : AgeKept s s := ⟨rfl⟩

theorem AgeKept.trans {s t u : State} (h : AgeKept s t) (k : AgeKept t u) : AgeKept s u := ⟨k.age.trans h.age⟩

theorem AgeKept.of_only {ps : List Part} {s t : State} (k : Only ps s t) (h : ps.contains .arb = false := by decide) : AgeKept s t :=
  ⟨by rw [k .arb (by simpa using h)]⟩

theorem AgeKept.when {f : State → State} (hf : ∀ s, AgeKept s (f s)) (c : Bool) (s : State) : AgeKept s (when c f s) := by
  cases c with
  | false => exact AgeKept.refl s
  | true => exact hf s

theorem AgeKept.forEach {α : Type} {f : α → State → State} (hf : ∀ x s, AgeKept s (f x s)) (l : List α) (s : State) : AgeKept s (forEach l f s) := by
  induction l generalizing s with
  | nil => exact AgeKept.refl s
  | cons x l ih => exact (hf x s).trans (ih (f x s))

theorem AgeKept.grantTr (p : Plan) (s : State) : AgeKept s (grantTr p s) := by
  unfold Machine.grantTr
  dsimp only
  refine AgeKept.trans ?_ (AgeKept.when (fun u => AgeKept.of_only (settlePort_only _ u)) _ _)
  refine AgeKept.trans ?_ (AgeKept.forEach (fun b u => (AgeKept.of_only (beatFault_only p.tr b u)).trans (AgeKept.of_only (beatGone_only p.tr b _))) _ _)
  split
  · exact ⟨rfl⟩
  · refine AgeKept.trans ?_ (AgeKept.when (fun u => AgeKept.of_only (updSlip_only _ _ u)) _ _)
    refine AgeKept.trans ?_ (AgeKept.of_only (takeCredits_only p.tr _))
    exact ⟨rfl⟩

theorem AgeKept.giveTicket (x : Tr) (t : Nat) (s : State) : AgeKept s (giveTicket x t s) := by
  unfold Machine.giveTicket
  split
  · dsimp only
    split <;> exact ⟨rfl⟩
  · exact AgeKept.refl s

theorem AgeKept.movePointers (l : List Plan) (s : State) : AgeKept s (movePointers l s) := by
  induction l generalizing s with
  | nil => exact AgeKept.refl s
  | cons p l ih =>
    unfold Machine.movePointers
    refine AgeKept.trans ?_ (ih _)
    split
    · exact AgeKept.refl s
    · split <;> exact ⟨rfl⟩

theorem decide_age (s : State) : AgeKept s (decide_ s) := by
  unfold decide_
  dsimp only
  refine AgeKept.trans (t := forEach _ (fun g => xbump (1792 + g) 1) _) ?_ ⟨rfl⟩
  refine AgeKept.trans ?_ (AgeKept.forEach (fun g u => AgeKept.of_only (xbump_only (1792 + g) 1 u)) _ _)
  refine AgeKept.trans ?_ (AgeKept.forEach (fun (x : Tr × Nat) u => AgeKept.giveTicket x.1 x.2 u) _ _)
  refine AgeKept.trans ?_ (AgeKept.movePointers _ _)
  refine AgeKept.trans ?_ (AgeKept.forEach (fun p u => AgeKept.grantTr p u) _ _)
  exact AgeKept.forEach (fun i u => AgeKept.of_only (preempt_only i u)) _ s

/-- One CCLK of the running block. -/
theorem runCycle_leaves (s : State) : (runCycle s).cyc = s.cyc + 1 ∧ (runCycle s).fr.issued = [] ∧ (runCycle s).arb.shAge = s.arb.shAge + 1 := by
  unfold runCycle
  dsimp only
  have h1 := (settleMig_only s).mono (qs := [.regs, .cnt, .xc, .bank, .fr, .arb, .sq, .tr, .dbg, .fw, .rx, .pw]) rfl
  have a1 := AgeKept.of_only (settleMig_only s)
  generalize settleMig s = u at h1 a1
  have h2 := h1.trans ((wakeBanks_only u).mono rfl)
  have a2 := a1.trans (AgeKept.of_only (wakeBanks_only u))
  generalize wakeBanks u = v at h2 a2
  have h3 := h2.trans ((decide__only v).mono rfl)
  have a3 := a2.trans (decide_age v)
  generalize decide_ v = w at h3 a3
  have hq : Only [.regs, .cnt, .fr, .sq, .tr, .dbg, .rx] w (pigeonCycle (fetchAhead (settleAll (markWaiting w)))) :=
    (((markWaiting_only w).mono rfl).trans ((settleAll_only _).mono rfl)).trans (((fetchAhead_only _).mono rfl).trans ((pigeonCycle_only _).mono rfl))
  generalize pigeonCycle (fetchAhead (settleAll (markWaiting w))) = x at hq
  have he : ∀ work late, Only [.cnt, .xc, .sq, .bank, .fr] x (sweep (countQueues late (countSlots (countClients work x)))) := fun work late =>
    (((countClients_only work x).mono rfl).trans ((countSlots_only _).mono rfl)).trans (((countQueues_only late _).mono rfl).trans ((sweep_only _).mono rfl))
  refine ⟨?_, rfl, ?_⟩
  · rw [he _ _ .cyc (by decide), hq .cyc (by decide), h3 .cyc (by decide)]
  · rw [he _ _ .arb (by decide), hq .arb (by decide), a3.age]

/-- The state in which a CCLK is decided: its charge judged, its TCLK cycles passed. -/
def cyclePassed (n : Nat) (s : State) : State :=
  estimate 13 (logicOn (tclk n (countStill n (judgeRails (bump 0x59F8 1 s))))) (tclk n (countStill n (judgeRails (bump 0x59F8 1 s))))

theorem tclk_leaves (n : Nat) (s : State) : (tclk n s).sq.live = s.sq.live ∧ HaltKept s (tclk n s) ∧ inReset (tclk n s) = inReset s := by
  unfold tclk
  split
  · exact ⟨rfl, HaltKept.refl s, rfl⟩
  · exact ⟨rfl, ⟨rfl⟩, rfl⟩

theorem judgeRails_kept (s : State) : HaltKept s (judgeRails s) := by
  unfold judgeRails
  dsimp only
  refine HaltKept.trans ?_ (HaltKept.when (fun u => HaltKept.raise 46 u) _ _)
  refine HaltKept.trans ?_ (HaltKept.when (fun u => HaltKept.of_only (bump_only 0x59F0 1 u)) _ _)
  refine HaltKept.trans ?_ (HaltKept.when (fun u => HaltKept.of_only (bump_only 0x59E8 1 u)) _ _)
  exact ⟨rfl⟩

theorem cyclePassed_leaves (n : Nat) (s : State) : Only [.regs, .cnt, .sq, .tm, .tr, .dbg, .pw, .ck, .pr] s (cyclePassed n s)
    ∧ (cyclePassed n s).sq.live = s.sq.live ∧ HaltKept s (cyclePassed n s) ∧ inReset (cyclePassed n s) = inReset s
    ∧ running (cyclePassed n s) = running s ∧ halted (cyclePassed n s) = halted s := by
  unfold cyclePassed
  have h1 : Only [.regs, .cnt, .tm, .tr, .dbg, .pw] s (countStill n (judgeRails (bump 0x59F8 1 s))) :=
    (((bump_only _ _ s).mono rfl).trans ((judgeRails_only _).mono rfl)).trans ((countStill_only n _).mono rfl)
  have k1 : HaltKept s (countStill n (judgeRails (bump 0x59F8 1 s))) :=
    ((HaltKept.of_only (bump_only _ _ s)).trans (judgeRails_kept _)).trans (HaltKept.of_only (countStill_only n _))
  have w1 : Within [⟨0x59F8, 0, 1⟩, ⟨0x59E8, 0, 1⟩, ⟨0x59F0, 0, 1⟩, ⟨0x6014, 0, 1⟩, ⟨0x7000, 4, 2⟩, ⟨0x7018, 4, 3⟩] s
      (countStill n (judgeRails (bump 0x59F8 1 s))) :=
    (((bump_within _ _ s).mono rfl).trans ((judgeRails_within _).mono rfl)).trans ((countStill_within n _).mono rfl)
  generalize countStill n (judgeRails (bump 0x59F8 1 s)) = u at h1 k1 w1
  obtain ⟨hl, k2, hr⟩ := tclk_leaves n u
  have h2 := tclk_only n u
  have w2 := w1.trans ((tclk_within n u).mono rfl)
  generalize tclk n u = v at hl k2 hr h2 w2
  have h3 := estimate_only 13 (logicOn v) v
  have hregs : (estimate 13 (logicOn v) v).regs = v.regs := h3 .regs (by decide)
  have hck : (estimate 13 (logicOn v) v).ck = v.ck := h3 .ck (by decide)
  have hin : inReset (estimate 13 (logicOn v) v) = inReset s := by
    have hv : inReset (estimate 13 (logicOn v) v) = inReset v := by unfold inReset; rw [hck]
    rw [hv, hr]
    unfold inReset
    rw [h1 .ck (by decide)]
  have hreg : ∀ o, reg v o = reg s o → reg (estimate 13 (logicOn v) v) o = reg s o := fun o h => by
    rw [← h, reg, reg, hregs]
  have hh : halted (estimate 13 (logicOn v) v) = halted s := regB_eq_of_reg (hreg 0x6808 (w2.reg _ (by decide)))
  refine ⟨(h1.mono rfl).trans ((h2.mono rfl).trans (h3.mono rfl)), ?_, k1.trans (k2.trans (HaltKept.of_only h3)), hin, ?_, hh⟩
  · rw [h3 .sq (by decide), hl, h1 .sq (by decide)]
  · have hw : wbState (estimate 13 (logicOn v) v) = wbState s := regF_eq_of_reg (hreg 0x4420 (w2.reg _ (by decide)))
    have hp : regF (estimate 13 (logicOn v) v) 0x4B04 1 0 = regF s 0x4B04 1 0 := regF_eq_of_reg (hreg 0x4B04 (w2.reg _ (by decide)))
    unfold running loaded purging
    rw [hin, hh, hw, hp]

theorem exec_decision {n : Nat} {s : State} (hr : inReset s = false) (hc : running s = true ∨ halted s = true → cycleDone s = true) :
    exec (.decision n) s = .next (if running (cyclePassed n s) then runCycle (cyclePassed n s)
      else if halted (cyclePassed n s) then haltCycle (cyclePassed n s)
      else { countClients [] (cyclePassed n s) with
        cyc := (cyclePassed n s).cyc + 1, dbg := { (cyclePassed n s).dbg with evtCyc := 0 } }) := by
  refine congrArg Host.Outcome.next ((if_neg ?_).trans ?_)
  rotate_left
  · unfold cyclePassed
    rfl
  rw [hr, Bool.false_or]
  intro h
  simp only [Bool.and_eq_true, Bool.or_eq_true, Bool.not_eq_true'] at h
  rw [hc h.1] at h
  exact absurd h.2 (by decide)

/-- A halted block in which no exempt traffic waits decides nothing. -/
theorem decideExempt_idle {s : State} (h : ∀ T ∈ s.fr.trs, (waits T && isExempt T) = false) : decideExempt s = s := by
  unfold decideExempt
  have hf : (s.fr.trs.filter fun t => waits t && isExempt t && !exemptWaits s t) = [] :=
    List.filter_eq_nil_iff.mpr fun T hT => by rw [h T hT, Bool.false_and]; exact Bool.false_ne_true
  rw [hf]
  rfl

theorem haltCycle_idle {s : State} (h : ∀ T ∈ s.fr.trs, (waits T && isExempt T) = false) :
    Only [.cnt, .bank, .fr, .sq, .dbg] s (haltCycle s) ∧ (haltCycle s).sq.live = s.sq.live ∧ (haltCycle s).fr.rl = s.fr.rl
      ∧ (haltCycle s).fr.wl = s.fr.wl ∧ (haltCycle s).fr.ch = s.fr.ch ∧ ∀ T ∈ (haltCycle s).fr.trs, T ∈ s.fr.trs := by
  unfold haltCycle
  dsimp only
  have hw := wakeBanks_only s
  generalize wakeBanks s = u at hw
  have hfr : u.fr = s.fr := hw .fr (by decide)
  rw [decideExempt_idle (by rw [hfr]; exact h)]
  have hs := sweep_only u
  have hsf : (sweep u).fr.rl = u.fr.rl ∧ (sweep u).fr.wl = u.fr.wl ∧ (sweep u).fr.ch = u.fr.ch ∧ ∀ T ∈ (sweep u).fr.trs, T ∈ u.fr.trs :=
    ⟨rfl, rfl, rfl, fun T hT => (List.mem_filter.mp hT).1⟩
  generalize sweep u = v at hs hsf
  obtain ⟨hrl, hwl, hch, htrs⟩ := hsf
  obtain ⟨work, hwork⟩ : ∃ work : List (Nat × List Nat), work = (v.fr.trs.map fun t => (8, trClients v t))
      ++ (v.sq.live.map fun x => (if x.ended && flitsOut x then 0 else 8, sClients x.words)) ++ (if rdxWork v then [(8, [10])] else []) := ⟨_, rfl⟩
  rw [← hwork]
  have hcw := countClients_only work v
  generalize countClients work v = w at hcw
  have hq : Only [.sq, .dbg] w { w with
      sq := { w.sq with q := w.sq.q.map fun e => (e.1, if e.2.run = 0 then e.2 else { e.2 with stall := 8 }) }
      dbg := { w.dbg with haltCyc := w.dbg.haltCyc + 1, evtCyc := 0 } } := by
    intro p hp
    cases p
    case sq => exact absurd (by simp) hp
    case dbg => exact absurd (by simp) hp
    all_goals rfl
  have hwfr : w.fr = v.fr := hcw .fr (by decide)
  rw [← hfr]
  refine ⟨(hw.mono rfl).trans ((hs.mono rfl).trans ((hcw.mono rfl).trans (hq.mono rfl))), ?_, ?_, ?_, ?_, fun T hT => htrs T ?_⟩
  · rw [hcw .sq (by decide), hs .sq (by decide), hw .sq (by decide)]
  · rw [hwfr, hrl]
  · rw [hwfr, hwl]
  · rw [hwfr, hch]
  · rw [hwfr] at hT
    exact hT

/-- Settles O26: one CCLK advances the array cycle unless the block is halted. -/
theorem decisionsAdvanceTheCycle : Obligations.DecisionsAdvanceTheCycle := by
  unfold Obligations.DecisionsAdvanceTheCycle
  intro n s hr hc
  have hex := exec_decision (n := n) hr hc
  obtain ⟨hon, hlive, hkept, -, hrun, hhalt⟩ := cyclePassed_leaves n s
  have hmem := execDecision_only n s _ hex .mem (by decide)
  rw [hrun, hhalt] at hex hmem
  generalize cyclePassed n s = u at hon hlive hkept hex hmem
  refine ⟨_, hex, hmem, fun hh => ?_, fun hru => ?_, fun hh => ?_⟩
  · rw [hh, if_neg (Bool.false_ne_true)]
    split
    · rw [(runCycle_leaves u).1, hon .cyc (by decide)]
    · exact congrArg (· + 1) (hon .cyc (by decide))
  · rw [if_pos hru]
    obtain ⟨-, hi, ha⟩ := runCycle_leaves u
    exact ⟨hi, by rw [ha, hon .arb (by decide)]⟩
  · have hnr : running s = false := by
      unfold running
      rw [hh]
      simp
    rw [hnr, if_neg (Bool.false_ne_true), if_pos hh]
    refine ⟨?_, ?_, fun hno => ?_⟩
    · rw [haltCycle_only u .cyc (by decide), hon .cyc (by decide)]
    · rw [haltCycle_count u, hkept.cyc]
    · have hfr : u.fr = s.fr := hon .fr (by decide)
      obtain ⟨h1, h2, h3, h4, h5, h6⟩ := haltCycle_idle (s := u) (by rw [hfr]; exact hno)
      rw [hfr] at h3 h4 h5 h6
      exact ⟨(hon.mono rfl).trans (h1.mono rfl), h2.trans hlive, h3, h4, h5, h6⟩

end Sys2Proof.Machine
end

section
/-!
PROOFS. Lane issue (R235, R276).
-/
namespace Sys2Proof.Machine

/-! Lanes that a transfer joins -/

/-- A transfer stands, as `id`, at the end of its lanes' orders; a claim apart, the lanes are as before. -/
structure Joined (id : Nat) (t : Tr) (s u : State) : Prop where
  read : ∀ l, rlane u l = { rlane s l with order := (rlane s l).order ++ List.replicate (t.rlanes.count l) id }
  write : ∀ l, ∃ c, wlane u l = { wlane s l with order := (wlane s l).order ++ (if t.wlane = l + 1 then [id] else []), claim := c }
  issued : u.fr.issued = s.fr.issued
  chan : u.fr.ch = s.fr.ch

theorem Joined.of_fr {id : Nat} {t : Tr} {s u v : State} (h : Joined id t s u) (hv : v.fr = u.fr) : Joined id t s v :=
  ⟨fun l => (rlane_of_fr hv l).trans (h.read l), fun l => (h.write l).imp fun _ hc => (wlane_of_fr hv l).trans hc,
    (congrArg FrameSt.issued hv).trans h.issued, (congrArg FrameSt.ch hv).trans h.chan⟩

theorem forEach_join (id : Nat) (ls : List Nat) (s : State) :
    (∀ l, rlane (forEach ls (fun l => updRlane l fun x => { x with order := x.order ++ [id] }) s) l
        = { rlane s l with order := (rlane s l).order ++ List.replicate (ls.count l) id })
      ∧ (forEach ls (fun l => updRlane l fun x => { x with order := x.order ++ [id] }) s).fr.wl = s.fr.wl
      ∧ (forEach ls (fun l => updRlane l fun x => { x with order := x.order ++ [id] }) s).fr.issued = s.fr.issued
      ∧ (forEach ls (fun l => updRlane l fun x => { x with order := x.order ++ [id] }) s).fr.ch = s.fr.ch := by
  induction ls generalizing s with
  | nil => exact ⟨fun l => by simp [forEach], rfl, rfl, rfl⟩
  | cons k ls ih =>
    obtain ⟨hr, hw, hi, hc⟩ := ih (updRlane k (fun x => { x with order := x.order ++ [id] }) s)
    refine ⟨fun l => ?_, hw, hi, hc⟩
    rw [forEach, hr, rlane_updRlane]
    by_cases h : l = k
    · subst h
      simp [List.count_cons_self, List.replicate_succ]
    · rw [if_neg h, List.count_cons_of_ne (Ne.symm h)]

theorem joinOrders_joined (id : Nat) (t : Tr) (s : State) : Joined id t s (joinOrders id t s) := by
  obtain ⟨hr, hw, hi, hc⟩ := forEach_join id t.rlanes s
  unfold joinOrders
  dsimp only
  generalize forEach t.rlanes (fun l => updRlane l fun x => { x with order := x.order ++ [id] }) s = u at hr hw hi hc
  have hwl : ∀ l, wlane u l = wlane s l := fun l => by rw [wlane, wlane, hw]
  by_cases h0 : t.wlane = 0
  · rw [if_pos h0]
    refine ⟨hr, fun l => ⟨(wlane s l).claim, ?_⟩, hi, hc⟩
    rw [if_neg (by omega), List.append_nil]
    exact hwl l
  · rw [if_neg h0]
    refine ⟨hr, fun l => ⟨(wlane s l).claim, ?_⟩, hi, hc⟩
    rw [wlane_updWlane]
    by_cases hl : l = t.wlane - 1
    · rw [if_pos hl, if_pos (by omega), hwl, hl]
    · rw [if_neg hl, if_neg (by omega), List.append_nil]
      exact hwl l

/-- Claiming a lane changes its claim alone among the lanes. -/
theorem takeClaim_lanes (x : Slip) (s : State) : (∀ l, rlane (takeClaim x s) l = rlane s l)
    ∧ (∀ l, ∃ c, wlane (takeClaim x s) l = { wlane s l with claim := c })
    ∧ (takeClaim x s).fr.issued = s.fr.issued ∧ (takeClaim x s).fr.ch = s.fr.ch := by
  have hclaim : ∀ l, ∃ c, wlane (updWlane (sWlane x.words) (fun w => { w with claim := x.sid + 1 }) s) l = { wlane s l with claim := c } := fun l => by
    rw [wlane_updWlane]
    by_cases hl : l = sWlane x.words
    · exact ⟨x.sid + 1, by rw [if_pos hl, hl]⟩
    · exact ⟨(wlane s l).claim, by rw [if_neg hl]⟩
  unfold takeClaim
  split
  · dsimp only
    split
    · exact ⟨fun _ => rfl, hclaim, rfl, rfl⟩
    · generalize hu : updWlane (sWlane x.words) (fun w => { w with claim := x.sid + 1 }) s = u at hclaim ⊢
      have hfr : (freeTaken x.sid (takeStaged x.sid (wlane u (sWlane x.words)).staging u)).fr = u.fr :=
        (freeTaken_only _ _ .fr (by decide)).trans (takeStaged_only _ _ _ .fr (by decide))
      refine ⟨fun l => (rlane_of_fr hfr l).trans (by rw [← hu]; rfl), fun l => ?_, (congrArg FrameSt.issued hfr).trans (by rw [← hu]; rfl),
        (congrArg FrameSt.ch hfr).trans (by rw [← hu]; rfl)⟩
      obtain ⟨c, hc⟩ := hclaim l
      exact ⟨c, (wlane_of_fr hfr l).trans hc⟩
  · exact ⟨fun _ => rfl, fun l => ⟨(wlane s l).claim, rfl⟩, rfl, rfl⟩

theorem issueTr_own {t : Tr} {s : State} (h : t.slip = 0) : Joined t.id t s (issueTr t s) := by
  unfold issueTr
  dsimp only
  rw [if_pos h]
  obtain ⟨hr, hw, hi, hc⟩ := joinOrders_joined t.id { t with rcyc := s.cyc + 1 } (setTr { t with rcyc := s.cyc + 1 } s)
  exact ⟨hr, hw, hi, hc⟩

theorem issueTr_lanes (t : Tr) (s : State) : (issueTr t s).fr = s.fr ∨ ∃ id, Joined id t s (issueTr t s) := by
  by_cases h : t.slip = 0
  · exact .inr ⟨t.id, issueTr_own h⟩
  · unfold issueTr
    dsimp only
    rw [if_neg h]
    split
    · exact .inl rfl
    next x _ =>
      refine .inr ⟨s.fr.nextId, ?_⟩
      obtain ⟨cr, cw, ci, cc⟩ := takeClaim_lanes x s
      generalize takeClaim x s = u at cr cw ci cc
      obtain ⟨hr, hw, hi, hc⟩ := joinOrders_joined s.fr.nextId { t with rcyc := s.cyc + 1 } (addTr { t with rcyc := s.cyc + 1 } u)
      generalize joinOrders s.fr.nextId { t with rcyc := s.cyc + 1 } (addTr { t with rcyc := s.cyc + 1 } u) = v at hr hw hi hc
      refine ⟨fun l => ?_, fun l => ?_, hi.trans ci, hc.trans cc⟩
      · have hl : rlane v l = { rlane u l with order := (rlane u l).order ++ List.replicate (t.rlanes.count l) s.fr.nextId } := hr l
        rw [cr] at hl
        exact hl
      · obtain ⟨c, hwl⟩ := hw l
        obtain ⟨d, hd⟩ := cw l
        have hl : wlane v l = { wlane u l with order := (wlane u l).order ++ (if t.wlane = l + 1 then [s.fr.nextId] else []), claim := c } := hwl
        rw [hd] at hl
        exact ⟨c, hl⟩

/-! One cycle's issues -/

/-- A read lane takes at most one transfer more, at its end, none once it has issued. -/
def ReadGrows (ts : List Tr) (l : Nat) (s u : State) : Prop :=
  ∃ ids : List Nat, (ids.length ≤ 1 ∨ ∃ c ∈ ts, 2 ≤ c.rlanes.count l) ∧ (l ∈ s.fr.issued → ids = [])
    ∧ rlane u l = { rlane s l with order := (rlane s l).order ++ ids }

/-- A write lane takes at most one transfer more, at its end, none once it has issued. -/
def WriteGrows (l : Nat) (s u : State) : Prop :=
  ∃ (ids : List Nat) (c : Nat), ids.length ≤ 1 ∧ (100 + l ∈ s.fr.issued → ids = [])
    ∧ wlane u l = { wlane s l with order := (wlane s l).order ++ ids, claim := c }

/-- The lanes of one issue counted as taken. -/
def lanesTaken (ls : List Nat) (s : State) : State := { s with fr := { s.fr with issued := ls ++ s.fr.issued } }

theorem issueGo_cons (t : Tr) (ts : List Tr) (s : State) : issueGo (t :: ts) s =
    if (issueLanes s t).any s.fr.issued.contains then issueGo ts s else issueGo ts (issueTr t (lanesTaken (issueLanes s t) s)) := rfl

theorem not_issued {ls iss : List Nat} (h : ¬ ls.any iss.contains = true) {l : Nat} (hl : l ∈ ls) : l ∉ iss := fun hi =>
  h (List.any_eq_true.mpr ⟨l, hl, List.contains_iff_mem.mpr hi⟩)

theorem mem_issueLanes_read {s : State} {t : Tr} {l : Nat} (h : l ∈ t.rlanes) : l ∈ issueLanes s t :=
  List.mem_append_left _ (List.mem_append_left _ h)

theorem mem_issueLanes_write {s : State} {t : Tr} {l : Nat} (h : t.wlane = l + 1) : 100 + l ∈ issueLanes s t := by
  refine List.mem_append_left _ (List.mem_append_right _ ?_)
  rw [if_neg (by omega), h]
  exact List.mem_singleton.mpr (by omega)

theorem Joined.untake {id : Nat} {t : Tr} {ls : List Nat} {s u : State} (h : Joined id t (lanesTaken ls s) u) :
    (∀ l, rlane u l = { rlane s l with order := (rlane s l).order ++ List.replicate (t.rlanes.count l) id })
      ∧ (∀ l, ∃ c, wlane u l = { wlane s l with order := (wlane s l).order ++ (if t.wlane = l + 1 then [id] else []), claim := c })
      ∧ u.fr.issued = ls ++ s.fr.issued ∧ u.fr.ch = s.fr.ch := ⟨h.read, h.write, h.issued, h.chan⟩

theorem ReadGrows.mono {ts ts' : List Tr} {l : Nat} {s u : State} (h : ReadGrows ts l s u) (hs : ∀ c ∈ ts, c ∈ ts') : ReadGrows ts' l s u := by
  obtain ⟨ids, hn, hi, hr⟩ := h
  exact ⟨ids, hn.imp id fun ⟨c, hc, h2⟩ => ⟨c, hs c hc, h2⟩, hi, hr⟩

theorem issueGo_grows (ts : List Tr) (s : State) : (∀ l, ReadGrows ts l s (issueGo ts s)) ∧ (∀ l, WriteGrows l s (issueGo ts s))
    ∧ (issueGo ts s).fr.ch = s.fr.ch := by
  induction ts generalizing s with
  | nil => exact ⟨fun l => ⟨[], .inl (Nat.zero_le _), fun _ => rfl, by simp [issueGo]⟩,
      fun l => ⟨[], (wlane s l).claim, Nat.zero_le _, fun _ => rfl, by simp [issueGo]⟩, rfl⟩
  | cons t ts ih =>
    have htail : ∀ c ∈ ts, c ∈ t :: ts := fun c hc => List.mem_cons_of_mem _ hc
    rw [issueGo_cons]
    by_cases hany : (issueLanes s t).any s.fr.issued.contains = true
    · rw [if_pos hany]
      exact ⟨fun l => ((ih s).1 l).mono htail, (ih s).2.1, (ih s).2.2⟩
    · rw [if_neg hany]
      obtain ⟨ihr, ihw, ihc⟩ := ih (issueTr t (lanesTaken (issueLanes s t) s))
      obtain hfr | ⟨id, hj⟩ := issueTr_lanes t (lanesTaken (issueLanes s t) s)
      · -- a slip that is gone: no lane changes
        have hiss : (issueTr t (lanesTaken (issueLanes s t) s)).fr.issued = issueLanes s t ++ s.fr.issued := congrArg FrameSt.issued hfr
        refine ⟨fun l => ?_, fun l => ?_, ihc.trans (by rw [hfr]; rfl)⟩
        · obtain ⟨ids, hn, hi, hr⟩ := ihr l
          have hl : rlane (issueTr t (lanesTaken (issueLanes s t) s)) l = rlane s l :=
            show rlane _ l = rlane (lanesTaken (issueLanes s t) s) l from rlane_of_fr hfr l
          rw [hl] at hr
          exact ⟨ids, hn.imp id fun ⟨c, hc, h2⟩ => ⟨c, htail c hc, h2⟩, fun h => hi (by rw [hiss]; exact List.mem_append_right _ h), hr⟩
        · obtain ⟨ids, c, hn, hi, hr⟩ := ihw l
          have hl : wlane (issueTr t (lanesTaken (issueLanes s t) s)) l = wlane s l :=
            show wlane _ l = wlane (lanesTaken (issueLanes s t) s) l from wlane_of_fr hfr l
          rw [hl] at hr
          exact ⟨ids, c, hn, fun h => hi (by rw [hiss]; exact List.mem_append_right _ h), hr⟩
      · obtain ⟨jr, jw, ji, jc⟩ := hj.untake
        generalize issueTr t (lanesTaken (issueLanes s t) s) = u at ihr ihw ihc jr jw ji jc ⊢
        refine ⟨fun l => ?_, fun l => ?_, ihc.trans jc⟩
        · obtain ⟨ids, hn, hi, hr⟩ := ihr l
          rw [jr] at hr
          by_cases hl : l ∈ t.rlanes
          · obtain rfl := hi (by rw [ji]; exact List.mem_append_left _ (mem_issueLanes_read hl))
            refine ⟨List.replicate (t.rlanes.count l) id, ?_, fun h => absurd h (not_issued hany (mem_issueLanes_read hl)), by simpa using hr⟩
            rw [List.length_replicate]
            by_cases h2 : 2 ≤ t.rlanes.count l
            · exact .inr ⟨t, List.mem_cons_self, h2⟩
            · exact .inl (by omega)
          · rw [List.count_eq_zero_of_not_mem hl] at hr
            refine ⟨ids, hn.imp (fun h => h) fun ⟨c, hc, h2⟩ => ⟨c, htail c hc, h2⟩, fun h => hi (by rw [ji]; exact List.mem_append_right _ h), ?_⟩
            simpa using hr
        · obtain ⟨ids, c, hn, hi, hr⟩ := ihw l
          obtain ⟨d, hd⟩ := jw l
          rw [hd] at hr
          by_cases hl : t.wlane = l + 1
          · obtain rfl := hi (by rw [ji]; exact List.mem_append_left _ (mem_issueLanes_write hl))
            rw [if_pos hl] at hr
            exact ⟨[id], c, Nat.le_refl _, fun h => absurd h (not_issued hany (mem_issueLanes_write hl)), by simpa using hr⟩
          · rw [if_neg hl] at hr
            exact ⟨ids, c, hn, fun h => hi (by rw [ji]; exact List.mem_append_right _ h), by simpa using hr⟩

theorem mem_ordSort {α : Type} (lt : α → α → Bool) (l : List α) (b : α) : b ∈ ordSort lt l ↔ b ∈ l := by
  have h : ∀ (l acc : List α), b ∈ l.foldl (fun acc x => ordIns lt x acc) acc ↔ b ∈ acc ∨ b ∈ l := fun l => by
    induction l with
    | nil => simp
    | cons a l ih =>
      intro acc
      rw [List.foldl_cons, ih, mem_ordIns, List.mem_cons]
      rw [or_assoc, or_left_comm]
  rw [ordSort, h]
  simp

theorem mem_rankTrs {s : State} {l : List Tr} {t : Tr} (h : t ∈ rankTrs s l) : t ∈ l := by
  unfold rankTrs at h
  obtain ⟨p, hp, rfl⟩ := List.mem_map.mp h
  rw [mem_ordSort] at hp
  obtain ⟨u, hu, rfl⟩ := List.mem_map.mp hp
  exact hu

theorem issueLanes_own {s : State} {c : Tr} (h : c.slip = 0) : issueLanes s c = c.rlanes ++ (if c.wlane = 0 then [] else [99 + c.wlane]) := by
  have hc : claimLane s c = [] := by
    unfold claimLane
    split
    · exact if_neg fun hn => hn.1 h
    · rfl
  rw [issueLanes, hc, List.append_nil]

theorem issueGo_first {s : State} {c : Tr} {rest : List Tr} (h0 : c.slip = 0) (hr : ∀ l ∈ c.rlanes, l ∉ s.fr.issued)
    (hw : c.wlane ≠ 0 → 99 + c.wlane ∉ s.fr.issued) : issueGo (c :: rest) s = issueGo rest (issueTr c (lanesTaken (issueLanes s c) s)) := by
  rw [issueGo_cons, if_neg]
  rw [issueLanes_own h0]
  intro h
  obtain ⟨l, hl, hi⟩ := List.any_eq_true.mp h
  rw [List.contains_iff_mem] at hi
  rcases List.mem_append.mp hl with hl | hl
  · exact hr l hl hi
  · split at hl
    · cases hl
    next hn =>
      rw [List.mem_singleton.mp hl] at hi
      exact hw hn hi

/-- Settles O23: lane issue appends at most one transfer to each lane, in rank order. -/
theorem laneIssueAppendsAtMostOnePerLane : Obligations.LaneIssueAppendsAtMostOnePerLane := by
  unfold Obligations.LaneIssueAppendsAtMostOnePerLane
  intro s hs
  have hex : exec .laneIssue s = .next (issueGo (rankTrs s (issueCands s)) s) := congrArg Host.Outcome.next (if_pos hs)
  have hon := issueGo_only (rankTrs s (issueCands s)) s
  obtain ⟨hr, hw, hc⟩ := issueGo_grows (rankTrs s (issueCands s)) s
  refine ⟨_, hex, hon .mem (by decide), hon .tm (by decide), hc, issueGo_within _ s, fun l => (hr l).mono fun c hc => mem_rankTrs hc, hw,
    fun c rest hrank h0 h1 hri hwi => ?_⟩
  rw [hrank, issueGo_first h0 hri hwi]
  obtain ⟨jr, jw, ji, -⟩ := (issueTr_own (s := lanesTaken (issueLanes s c) s) h0).untake
  obtain ⟨gr, gw, -⟩ := issueGo_grows rest (issueTr c (lanesTaken (issueLanes s c) s))
  refine ⟨fun l hl => ?_, fun hn => ?_⟩
  · obtain ⟨ids, -, hi, h⟩ := gr l
    obtain rfl := hi (by rw [ji]; exact List.mem_append_left _ (mem_issueLanes_read hl))
    have hcount : c.rlanes.count l = 1 := by
      have h2 := List.count_pos_iff.mpr hl
      have h3 := List.count_le_length (a := l) (l := c.rlanes)
      omega
    rw [h, jr, hcount]
    simp
  · have hwl : c.wlane = c.wlane - 1 + 1 := by omega
    obtain ⟨ids, d, -, hi, h⟩ := gw (c.wlane - 1)
    obtain rfl := hi (by rw [ji]; exact List.mem_append_left _ (mem_issueLanes_write hwl))
    obtain ⟨e, he⟩ := jw (c.wlane - 1)
    rw [h, he, if_pos hwl]
    simp

end Sys2Proof.Machine
end

section
/-!
PROOFS. The row that an internal port performs in its array cycle.
-/
namespace Sys2Proof.Machine

/-! The one row that an internal port performs -/

/-- The transfers as before but for their list. -/
def SameFrame (s u : State) : Prop := u.fr = { s.fr with trs := u.fr.trs } ∧ u.fr.trs.map (·.id) = s.fr.trs.map (·.id)

theorem updBeat_single {s : State} {T : Tr} {b : Beat} (f : Beat → Beat) (hb : T.beats = [b]) (ht : trOf s T.id = some T) :
    updBeat T.id 0 f s = setTr { T with beats := [f b] } s := by
  unfold updBeat
  rw [ht]
  dsimp only
  rw [hb]
  rfl

theorem setTr_sameFrame (U : Tr) (s : State) : SameFrame s (setTr U s) := by
  refine ⟨rfl, ?_⟩
  unfold setTr
  dsimp only
  rw [List.map_map]
  refine List.map_congr_left fun a _ => ?_
  rw [Function.comp_apply]
  split
  next h => exact (beq_iff_eq.mp h).symm
  · rfl

theorem SameFrame.trans {s u v : State} (h : SameFrame s u) (k : SameFrame u v) : SameFrame s v := ⟨by rw [k.1, h.1], k.2.trans h.2⟩

theorem SameFrame.of_fr {s u v : State} (h : SameFrame u v) (he : u.fr = s.fr) : SameFrame s v := by
  unfold SameFrame at *
  rwa [he] at h

/-- A port whose next transfer has just performed its one row meets that transfer's purpose. -/
theorem settlePort_performed {s : State} {T : Tr} {b : Beat} {pre post : List Tr} (f : Beat → Beat) (hn : (s.fr.trs.map (·.id)).Nodup)
    (hf : ∀ x ∈ s.fr.trs, x.id < s.fr.nextId) (hm : T ∈ s.fr.trs) (hb : T.beats = [b]) (hg : T.granted = true) (hp : T.passed = [])
    (hport : portTrs s T.req = pre ++ T :: post) (hpre : ∀ U ∈ pre, U.passed ≠ []) (hpost : ∀ U ∈ post, U.passed = [] ∧ rowsDone U = false)
    (hd : (f b).done = true) :
    ∃ u, settlePort T.req (updBeat T.id 0 f s) = jobDone { T with beats := [f b] } u ∧ Only [.fr] s u ∧ SameFrame s u := by
  have ht := trOf_of_mem hn hm
  rw [updBeat_single f hb ht]
  have hs := setTr_sameFrame { T with beats := [f b] } s
  have hpt := portTrs_setTr (s := s) (r := T.req) (T := T) (U := { T with beats := [f b] }) hn rfl rfl rfl hport
  generalize hu : setTr { T with beats := [f b] } s = u at hs hpt ⊢
  have ho : Only [.fr] s u := by rw [← hu]; exact setTr_only _ s
  have hlt : ∀ x ∈ u.fr.trs, x.id < u.fr.nextId := fun x hx => by
    have hxi : x.id ∈ s.fr.trs.map (·.id) := hs.2 ▸ List.mem_map_of_mem hx
    obtain ⟨y, hy, hyx⟩ := List.mem_map.mp hxi
    have hni : u.fr.nextId = s.fr.nextId := by rw [hs.1]
    rw [hni, ← hyx]
    exact hf y hy
  refine ⟨setTr { T with beats := [f b], passed := [(0, 1)] } u, ?_, ho.trans (setTr_only _ u), hs.trans (setTr_sameFrame _ u)⟩
  exact settlePort_next (T := { T with beats := [f b] }) (by rw [hs.2]; exact hn) hlt hpt hpre hp (by simp [rowsDone, hg, hd]) hpost

/-- The row that an internal port's read holds, and which chunks it shows. -/
def portRow (T : Tr) (b : Beat) (port : Bool) (ups : List Upset) (s : State) : RowRead :=
  (readRow (beatCyc s T 0 + (if T.job = .copyRd then 2 else 0)) b.bank b.row (readerOf T port) ups s).1

def portEn (T : Tr) (b : Beat) (port : Bool) (ups : List Upset) (s : State) : Mask4 :=
  if T.job = .bankRd then (portRow T b port ups s).corr else initMap s (beatCyc s T 0 + (if T.job = .copyRd then 2 else 0)) b.bank b.row

/-- The beat that such a read leaves. -/
def portBeat (T : Tr) (b : Beat) (port : Bool) (ups : List Upset) (s : State) : Beat :=
  { b with
    done := true, have_ := true, once := true
    data := (portRow T b port ups s).data, pois := (portRow T b port ups s).pois, en := portEn T b port ups s }

theorem halted_of_running {s : State} (h : running s = true) : halted s = false := by
  unfold running at h
  simp only [Bool.and_eq_true, Bool.not_eq_true'] at h
  exact h.1.2

theorem beatCyc_running {s : State} {T : Tr} (h : running s = true) : beatCyc s T 0 = T.gcyc + T.offs := by
  rw [beatCyc, halted_of_running h, if_neg (Bool.false_ne_true), Nat.add_zero]

theorem arraysGo_running {s : State} (h : running s = true) : arraysGo s = true := by rw [arraysGo, h, Bool.true_or]

/-- The row read in the running block by a port that copies nothing. -/
theorem portRow_running {T : Tr} {b : Beat} {port : Bool} {ups : List Upset} {s : State} (hr : running s = true) (hj : T.job ≠ .copyRd) :
    portRow T b port ups s = (readRow (T.gcyc + T.offs) b.bank b.row (readerOf T port) ups s).1 := by
  rw [portRow, if_neg hj, beatCyc_running hr, Nat.add_zero]

/-- A transfer of one beat performs its beat 0. -/
theorem beat_single {s : State} {bank n : Nat} {port : Bool} {ks : List TrKind} {T : Tr} {b : Beat} (h : nextBeat s bank port ks = some (T, n))
    (hb : T.beats = [b]) : n = 0 ∧ b.bad = 0 ∧ b.bank = bank := by
  obtain ⟨-, -, -, c, hc, hbad, -, hbank⟩ := nextBeat_spec h
  rw [hb] at hc
  cases n with
  | zero =>
    obtain rfl : b = c := Option.some.inj hc
    exact ⟨rfl, hbad, hbank⟩
  | succ n => exact absurd hc (by simp)

/-- The read of an internal port's one row. -/
theorem exec_portRead {bank n : Nat} {port : Bool} {ups : List Upset} {s : State} {T : Tr} {b : Beat} {pre post : List Tr} (hr : arraysGo s = true)
    (hf : FreshIds s) (hn : nextBeat s bank port [.rd, .park, .ird] = some (T, n)) (hk : T.kind = .ird) (hb : T.beats = [b]) (hh : b.have_ = false)
    (hp : T.passed = []) (hport : portTrs s T.req = pre ++ T :: post) (hpre : ∀ U ∈ pre, U.passed ≠ [])
    (hpost : ∀ U ∈ post, U.passed = [] ∧ rowsDone U = false) :
    ∃ u, exec (.arrayRead bank port ups) s = .next (jobDone { T with beats := [portBeat T b port ups s] } u)
      ∧ Only [.fr, .free, .regs, .cnt, .xc, .bank, .arb, .sq, .tr, .dbg, .fw, .pw] s u ∧ SameFrame s u
      ∧ u.fw = (readRow (beatCyc s T 0 + (if T.job = .copyRd then 2 else 0)) b.bank b.row (readerOf T port) ups s).2.fw := by
  obtain ⟨hm, hg, -⟩ := nextBeat_spec hn
  obtain rfl := (beat_single hn hb).1
  obtain ⟨-, -, hnd, hlt⟩ := hf
  have hex := exec_arrayRead (ups := ups) hr hn (b := b) (by rw [hb]; rfl)
  unfold readBeatNow at hex
  dsimp only at hex
  have hro := readRow_only (beatCyc s T 0 + (if T.job = .copyRd then 2 else 0)) b.bank b.row (readerOf T port) ups s
  unfold portBeat portEn portRow
  generalize readRow (beatCyc s T 0 + (if T.job = .copyRd then 2 else 0)) b.bank b.row (readerOf T port) ups s = r at hro hex ⊢
  rw [if_neg (Classical.not_not.mpr hk), if_pos hk] at hex
  generalize (if T.job = .bankRd then r.1.corr
    else initMap s (beatCyc s T 0 + (if T.job = .copyRd then 2 else 0)) b.bank b.row) = en at hex ⊢
  have hbo := beatPerformed_only T b.bank r.2
  generalize beatPerformed T b.bank r.2 = v at hbo hex
  have hfr : v.fr = s.fr := (hbo .fr (by decide)).trans (hro .fr (by decide))
  have hfill : Beat.filled r.1 en b = { b with done := true, have_ := true, once := true, data := r.1.data, pois := r.1.pois, en := en } := by
    rw [filled_eq, if_neg (by rw [hh]; decide)]
  obtain ⟨u, hu, huo, hus⟩ := settlePort_performed (s := v) (Beat.filled r.1 en) (by rw [hfr]; exact hnd) (by rw [hfr]; exact hlt)
    (by rw [hfr]; exact hm) hb hg hp (by unfold portTrs; rw [hfr]; exact hport) hpre hpost (by rw [hfill])
  rw [hu, hfill] at hex
  exact ⟨u, hex, ((hro.mono rfl).trans (hbo.mono rfl)).trans (huo.mono rfl), hus.of_fr hfr, (huo .fw (by decide)).trans (hbo .fw (by decide))⟩

/-- The store of an internal port's one row. -/
theorem exec_portWrite {bank n : Nat} {port : Bool} {par : Parity} {s : State} {T : Tr} {b : Beat} {pre post : List Tr} (hr : arraysGo s = true)
    (hf : FreshIds s) (hn : nextBeat s bank port [.wr, .parkWr, .iwr] = some (T, n)) (hk : T.kind = .iwr) (hb : T.beats = [b])
    (hp : T.passed = []) (hport : portTrs s T.req = pre ++ T :: post) (hpre : ∀ U ∈ pre, U.passed ≠ [])
    (hpost : ∀ U ∈ post, U.passed = [] ∧ rowsDone U = false) :
    ∃ u, exec (.arrayWrite bank port par) s = .next (jobDone { T with beats := [{ b with done := true, have_ := true }] } u)
      ∧ Only [.fr, .cnt, .xc, .mem, .bank, .fw, .arb, .sq, .pw] s u ∧ SameFrame s u
      ∧ u.fw = (portStore (beatCyc s T 0) b.bank b.row b.en.toNat port (if T.job = .stopSlot then stopSlotRow s b else b.data)
        (b.pois ||| parityMask noParity) (trCls s T) (shareWeight s T) s).fw := by
  obtain ⟨hm, hg, -⟩ := nextBeat_spec hn
  obtain rfl := (beat_single hn hb).1
  obtain ⟨-, -, hnd, hlt⟩ := hf
  have hex := exec_arrayWrite (par := par) hr hn (b := b) (by rw [hb]; rfl)
  have hnet : (T.kind == .wr) = false := by rw [hk]; rfl
  rw [writeBeatNow_eq T 0 b port par noParity s (by rw [hnet]; rfl), markPlane_none, netParity_none] at hex
  have hpo := portStore_only (beatCyc s T 0) b.bank b.row b.en.toNat port (if T.job = .stopSlot then stopSlotRow s b else b.data)
    (b.pois ||| parityMask noParity) (trCls s T) (shareWeight s T) s
  generalize portStore (beatCyc s T 0) b.bank b.row b.en.toNat port (if T.job = .stopSlot then stopSlotRow s b else b.data)
    (b.pois ||| parityMask noParity) (trCls s T) (shareWeight s T) s = w at hpo hex ⊢
  have hbo := beatPerformed_only T b.bank w
  generalize beatPerformed T b.bank w = v at hbo hex
  have hfr : v.fr = s.fr := (hbo .fr (by decide)).trans (hpo .fr (by decide))
  unfold storeTail at hex
  rw [if_pos hk] at hex
  obtain ⟨u, hu, huo, hus⟩ := settlePort_performed (s := v) (fun c : Beat => { c with done := true, have_ := true }) (by rw [hfr]; exact hnd)
    (by rw [hfr]; exact hlt) (by rw [hfr]; exact hm) hb hg hp (by unfold portTrs; rw [hfr]; exact hport) hpre hpost rfl
  rw [hu] at hex
  exact ⟨u, hex, ((hpo.mono rfl).trans (hbo.mono rfl)).trans (huo.mono rfl), hus.of_fr hfr, (huo .fw (by decide)).trans (hbo .fw (by decide))⟩

/-- A port whose one transfer stands alone. -/
theorem none_before (U : Tr) (h : U ∈ ([] : List Tr)) : U.passed ≠ [] := absurd h List.not_mem_nil

theorem none_behind (U : Tr) (h : U ∈ ([] : List Tr)) : U.passed = [] ∧ rowsDone U = false := absurd h List.not_mem_nil

end Sys2Proof.Machine
end

section
/-!
PROOFS. Norm passes, updates and results (R322 to R328).
-/
namespace Sys2Proof.Machine

/-! What the end of buckets keeps -/

/-- Buckets keep what they have reduced and the state of their norm pass; norm groups and parked partials stand; an operation more is a new one. -/
structure PortSettled (s t : State) : Prop where
  norm : ∀ b, (bktAt t b).norm = (bktAt s b).norm
  red : ∀ b, (bktAt t b).red = (bktAt s b).red
  nan : ∀ b, (bktAt t b).nan = (bktAt s b).nan
  ng : t.rx.ng = s.rx.ng
  dir : t.rx.dir = s.rx.dir
  next : s.rx.nextOp ≤ t.rx.nextOp
  ops : ∀ o ∈ t.rx.ops, o ∈ s.rx.ops ∨ s.rx.nextOp ≤ o.id

theorem PortSettled.refl (s : State) : PortSettled s s := ⟨fun _ => rfl, fun _ => rfl, fun _ => rfl, rfl, rfl, Nat.le_refl _, fun _ h => .inl h⟩

theorem PortSettled.trans {s t u : State} (h : PortSettled s t) (k : PortSettled t u) : PortSettled s u :=
  ⟨fun b => (k.norm b).trans (h.norm b), fun b => (k.red b).trans (h.red b), fun b => (k.nan b).trans (h.nan b), k.ng.trans h.ng, k.dir.trans h.dir,
    Nat.le_trans h.next k.next, fun o ho => (k.ops o ho).elim (h.ops o) fun hn => .inr (Nat.le_trans h.next hn)⟩

theorem PortSettled.of_rx {s t : State} (h : t.rx = s.rx) : PortSettled s t := by
  have hb : ∀ b, bktAt t b = bktAt s b := fun b => by rw [bktAt, bktAt, h]
  exact ⟨fun b => by rw [hb], fun b => by rw [hb], fun b => by rw [hb], by rw [h], by rw [h], Nat.le_of_eq (by rw [h]), fun o ho => .inl (h ▸ ho)⟩

theorem PortSettled.ite {c : Prop} [Decidable c] {s t u : State} (ht : PortSettled s t) (hu : PortSettled s u) : PortSettled s (if c then t else u) := by
  split
  · exact ht
  · exact hu

theorem PortSettled.forEach {α : Type} {f : α → State → State} (hf : ∀ x s, PortSettled s (f x s)) (l : List α) (s : State) :
    PortSettled s (forEach l f s) := by
  induction l generalizing s with
  | nil => exact PortSettled.refl s
  | cons x l ih => exact (hf x s).trans (ih (f x s))

theorem PortSettled.addOp (o : ROp) (s : State) : PortSettled s (addOp o s) :=
  ⟨fun _ => rfl, fun _ => rfl, fun _ => rfl, rfl, rfl, Nat.le_succ _, fun z hz => (List.mem_append.mp hz).imp_right fun h =>
    Nat.le_of_eq (by rw [List.mem_singleton.mp h])⟩

theorem PortSettled.updBkt (b : Nat) {f : Bkt → Bkt} (hf : ∀ k, (f k).norm = k.norm ∧ (f k).red = k.red ∧ (f k).nan = k.nan) (s : State) :
    PortSettled s (updBkt b f s) := by
  have hb : ∀ i, (bktAt (Machine.updBkt b f s) i).norm = (bktAt s i).norm ∧ (bktAt (Machine.updBkt b f s) i).red = (bktAt s i).red
      ∧ (bktAt (Machine.updBkt b f s) i).nan = (bktAt s i).nan := fun i => by
    rw [bktAt_updBkt]
    split
    next h =>
      rw [h]
      exact hf _
    · exact ⟨rfl, rfl, rfl⟩
  exact ⟨fun i => (hb i).1, fun i => (hb i).2.1, fun i => (hb i).2.2, rfl, rfl, Nat.le_refl _, fun _ h => .inl h⟩

theorem PortSettled.openGate (b : Nat) (s : State) : PortSettled s (openGate b s) := by
  unfold Machine.openGate
  refine .ite (.refl s) (.ite ?_ (.ite (.updBkt b (f := fun k => { k with st := 3 }) (fun _ => ⟨rfl, rfl, rfl⟩) s) (.ite (.refl s) ?_)))
  · exact (PortSettled.updBkt b (f := fun k => { k with skip := true }) (fun _ => ⟨rfl, rfl, rfl⟩) s).trans (.of_rx (raise_only 38 _ .rx (by decide)))
  · unfold askG
    exact .ite (.refl s) (.addOp _ s)

theorem PortSettled.settleBuckets (s : State) : PortSettled s (settleBuckets s) := by
  have h1 : ∀ b u, PortSettled u (settleBucket b u) := fun b u => by
    unfold settleBucket
    refine .ite ?_ (.openGate b u)
    refine (PortSettled.openGate b u).trans ?_
    unfold bktDone
    refine (PortSettled.updBkt b (f := fun k => { k with st := 4 }) (fun _ => ⟨rfl, rfl, rfl⟩) _).trans ?_
    exact .of_rx (Only.when (fun v => tallyAdd_only 1 _ v) _ _ .rx (by decide))
  exact (PortSettled.forEach h1 _ s).trans (PortSettled.forEach h1 _ _)

/-- A bucket's norm pass that has ended, before its group takes it. -/
def passOver (o : ROp) (b : Nat) (s : State) : State := dropOp o.id s |> updBkt b (fun k => { k with norm := 2 })

theorem exec_normPassEnd {bucket : BitVec 6} {s : State} {o : ROp} (hs : serving s = true) (ho : normOp s bucket.toNat = some o)
    (hn : (bktAt s bucket.toNat).norm = 1) (hf : o.full = true) : exec (.normPassEnd bucket) s = .next (settleBuckets (joinGroup bucket.toNat
      (normSum o.desc ((List.range (dFlits o.desc)).map fun i => (NMap.get none o.got i).getD (0, 0xF))) (passOver o bucket.toNat s))) := by
  refine congrArg Host.Outcome.next ?_
  dsimp only
  rw [ho]
  refine (if_neg ?_).trans rfl
  rw [hs, hn, hf]
  decide

theorem bktAt_passOver (o : ROp) (b : Nat) (s : State) : bktAt (passOver o b s) b = { bktAt s b with norm := 2 } := by
  unfold passOver
  rw [bktAt_updBkt, if_pos rfl]
  rfl

/-- The group of a member that joins. -/
def joined (x : NGrp) (m : Nat × Nat × Word × Bool) (n : Nat) : NGrp :=
  if x.mem.length + 1 == n && !x.lost then
    { x with mem := x.mem ++ [m], sum := BitVec.ofNat 32 (foldNorm (x.mem ++ [m])), ready := true, pois := (x.mem ++ [m]).any (·.2.2.2) }
  else { x with mem := x.mem ++ [m] }

theorem joinGroup_leaves (b : Nat) (q : Nat × Bool) (s : State) (i : Nat) : (∀ k, bktAt (joinGroup b q s) k = bktAt s k)
    ∧ ngAt (joinGroup b q s) i = if i = dNgrp (bktAt s b).desc
        ∧ (ngAt s (dNgrp (bktAt s b).desc)).mem.length < regF s (0x3D00 + 16 * dNgrp (bktAt s b).desc) 6 0
      then joined (ngAt s i) (dBidx (bktAt s b).desc, b, BitVec.ofNat 32 q.1, q.2) (regF s (0x3D00 + 16 * dNgrp (bktAt s b).desc) 6 0) else ngAt s i := by
  unfold joinGroup
  dsimp only
  generalize dNgrp (bktAt s b).desc = g
  generalize regF s (0x3D00 + 16 * g) 6 0 = n
  by_cases hn : n ≤ (ngAt s g).mem.length
  · rw [if_pos hn, if_neg (fun h => absurd h.2 (Nat.not_lt.mpr hn))]
    exact ⟨fun _ => rfl, rfl⟩
  · rw [if_neg hn]
    by_cases hc : ((ngAt s g).mem.length + 1 == n && !(ngAt s g).lost) = true
    · rw [hc]
      refine ⟨fun _ => rfl, ?_⟩
      show ngAt (finishGroup g _) i = _
      unfold finishGroup
      dsimp only
      show ngAt (setNg g _ _) i = _
      rw [ngAt_setNg, ngAt_setNg, ngAt_setNg, if_pos rfl]
      by_cases hi : i = g
      · subst hi
        rw [if_pos rfl, if_pos ⟨rfl, Nat.not_le.mp hn⟩, joined, if_pos hc]
      · rw [if_neg hi, if_neg hi, if_neg (fun h => hi h.1)]
    · rw [Bool.not_eq_true] at hc
      rw [hc]
      refine ⟨fun _ => rfl, ?_⟩
      show ngAt (setNg g _ _) i = _
      rw [ngAt_setNg]
      by_cases hi : i = g
      · subst hi
        rw [if_pos rfl, if_pos ⟨rfl, Nat.not_le.mp hn⟩, joined, if_neg (by rw [hc]; exact Bool.false_ne_true)]
      · rw [if_neg hi, if_neg (fun h => hi h.1)]

theorem joined_lost (x : NGrp) (m : Nat × Nat × Word × Bool) (n : Nat) : (joined x m n).mem = x.mem ++ [m] ∧ (joined x m n).lost = x.lost
    ∧ (x.mem.length + 1 = n → x.lost = false → (joined x m n).ready = true ∧ (joined x m n).sum = BitVec.ofNat 32 (foldNorm (x.mem ++ [m])))
    ∧ (x.mem.length + 1 ≠ n ∨ x.lost = true → (joined x m n).ready = x.ready) := by
  unfold joined
  by_cases hc : (x.mem.length + 1 == n && !x.lost) = true
  · rw [if_pos hc]
    simp only [Bool.and_eq_true, beq_iff_eq, Bool.not_eq_true'] at hc
    exact ⟨rfl, rfl, fun _ _ => ⟨rfl, rfl⟩, fun h => h.elim (fun h => absurd hc.1 h) fun h => by rw [h] at hc; exact absurd hc.2 (by decide)⟩
  · rw [if_neg hc]
    refine ⟨rfl, rfl, fun h1 h2 => absurd ?_ hc, fun _ => rfl⟩
    rw [h1, h2]
    simp

/-! Operations -/

theorem opOf_setOp {s : State} {o u : ROp} (h : opOf s o.id = some u) : opOf (setOp o s) o.id = some o := by
  unfold opOf setOp at *
  dsimp only
  rw [List.find?_map]
  have hq : ((fun z : ROp => z.id == o.id) ∘ fun z => if z.id == o.id then o else z) = fun z => z.id == o.id := by
    funext z
    simp only [Function.comp_apply]
    split
    next hz => rw [hz, beq_self_eq_true]
    · rfl
  rw [hq, h]
  have hu := List.find?_some h
  rw [Option.map_some, if_pos hu]

theorem opOf_of_rx {s t : State} (h : t.rx = s.rx) (i : Nat) : opOf t i = opOf s i := by rw [opOf, opOf, h]

theorem jobDone_rrow {T : Tr} {i k : Nat} (h : T.job = .rrow i k) (b : Beat) (hb : b.bad = 0) (s : State) :
    jobDone { T with beats := [b] } s = opRead i k (b.data, b.pois) s := by
  unfold jobDone
  dsimp only
  rw [h]
  show opRead i k b.flit s = _
  rw [Beat.flit, if_pos hb]

/-! The first optimizer -/

theorem map_zip3 {α β γ δ : Type} (f : α × β × γ → δ) (g : α × β → δ) (hf : ∀ a b c, f (a, b, c) = g (a, b)) (as : List α) {bs : List β} {cs : List γ}
    (hl : bs.length ≤ cs.length) : (as.zip (bs.zip cs)).map f = (as.zip bs).map g := by
  have hfg : f = g ∘ Prod.map id Prod.fst := funext fun ⟨a, b, c⟩ => hf a b c
  rw [hfg, ← List.map_map, ← List.zip_map_right, List.map_fst_zip hl]

theorem rowEls_length (d : Row) : (rowEls d).length = 32 := by simp [rowEls, wordsOf]

theorem markedEls_length (r : Row × Mask4) : (markedEls r).length = 32 := by simp [markedEls, rowEls_length]

theorem updateRows_first {s : State} {o : ROp} {r : Row × Mask4} (h1 : dOp o.desc = 1) (ha : o.again = false) (hg : NMap.get none o.got 0 = some r) :
    updateRows s o = [markedRow ((((markedEls (o.data, o.pois)).map (gIn (dNanpol o.desc))).zip (markedEls r)).map fun e =>
        (fsub e.2.1 (fmul (dWord o.desc 7) (scaleG (dWord o.desc 8) e.1.1)), e.2.2 || e.1.2))] := by
  unfold updateRows
  dsimp only
  rw [h1, ha, if_neg (by decide), if_neg (by decide), if_neg (by decide), if_neg (by decide)]
  have hn : (NMap.get none o.got (b2n false)).getD (0, 0xF) = r := by
    rw [show b2n false = 0 from rfl, hg]
    rfl
  rw [hn, if_neg (by decide), List.append_nil, List.append_nil, List.map_map]
  refine congrArg (fun l => [markedRow l]) (map_zip3 _ _ (fun a b c => ?_) _ ?_)
  · show (optEl o.desc _ _ ⟨a, b, c.1, c.2⟩).w = _
    unfold optEl
    rw [h1]
    simp
  · simp [markedEls_length]

theorem opRead_other {i k : Nat} {r : Row × Mask4} {s : State} {o : ROp} (ho : opOf s i = some o) (hk : o.kind ≠ 0) : opRead i k r s =
    if (NMap.set none o.got k (some r)).length = opReads { o with got := NMap.set none o.got k (some r) }
      then readsDone { o with got := NMap.set none o.got k (some r) } (setOp { o with got := NMap.set none o.got k (some r) } s)
      else setOp { o with got := NMap.set none o.got k (some r) } s := by
  have hp : (if o.kind = 0 then takePartial o k s else (o, s)) = (o, s) := if_neg hk
  unfold opRead
  rw [ho]
  dsimp only
  rw [hp]

theorem readsDone_update {o : ROp} {s : State} (hk : o.kind = 2) :
    readsDone o s = estimate 11 1 (setOp { o with full := true, outs := updateRows s o } s) := by
  unfold readsDone
  split
  next h => exact absurd (hk.symm.trans h) (by decide)
  next h => exact absurd (hk.symm.trans h) (by decide)
  next => rfl
  next h => exact absurd hk h

/-- An update of the first optimizer has its row. -/
theorem opRead_update {s : State} {o : ROp} {r : Row × Mask4} (ho : opOf s o.id = some o) (hk : o.kind = 2) (ha : o.again = false)
    (h1 : dOp o.desc = 1) (hg : o.got = []) : ∃ u, opOf (opRead o.id 0 r s) o.id = some u ∧ u.full = true
      ∧ u.outs = [markedRow ((((markedEls (o.data, o.pois)).map (gIn (dNanpol o.desc))).zip (markedEls r)).map fun e =>
        (fsub e.2.1 (fmul (dWord o.desc 7) (scaleG (dWord o.desc 8) e.1.1)), e.2.2 || e.1.2))] := by
  have hset : NMap.set none ([] : NMap (Option (Row × Mask4))) 0 (some r) = [(0, some r)] := rfl
  have hreads : opReads { o with got := [(0, some r)] } = 1 := by simp [opReads, hk, updReads, ha, optViews, h1]
  rw [opRead_other ho (by rw [hk]; decide), hg, hset, hreads, List.length_singleton, if_pos rfl]
  rw [readsDone_update (o := { o with got := [(0, some r)] }) hk]
  have hs1 : opOf (setOp { o with got := [(0, some r)] } s) o.id = some { o with got := [(0, some r)] } :=
    opOf_setOp (o := { o with got := [(0, some r)] }) ho
  generalize setOp { o with got := [(0, some r)] } s = v at hs1
  generalize hz : { ({ o with got := [(0, some r)] } : ROp) with full := true, outs := updateRows v { o with got := [(0, some r)] } } = z
  have hzi : z.id = o.id := by rw [← hz]
  refine ⟨z, ?_, by rw [← hz], ?_⟩
  · refine (opOf_of_rx (estimate_only 11 1 _ .rx (by decide)) _).trans ?_
    rw [← hzi]
    rw [← hzi] at hs1
    exact opOf_setOp hs1
  · rw [← hz]
    exact updateRows_first (o := { o with got := [(0, some r)] }) h1 ha rfl

/-! Starting an update, sending a result -/

theorem exec_updateFlit {bucket : BitVec 6} {s : State} {f : Nat} {g : Option (Row × Mask4)} (hs : serving s = true)
    (hn : nextUpdate (bktAt s bucket.toNat) = some (f, g)) (hc : s.rx.nupd + optCost (bktAt s bucket.toNat).desc g.isNone ≤ 4) :
    exec (.updateFlit bucket) s = .next (updBkt bucket.toNat (fun k => { k with ustart := k.ustart + 1, imm := if g.isSome then k.imm.drop 1 else k.imm })
      (addOp { newOp s 2 bucket.toNat f with again := g.isNone, data := (g.getD (0, 0)).1, pois := (g.getD (0, 0)).2 }
        { s with rx := { s.rx with nupd := s.rx.nupd + optCost (bktAt s bucket.toNat).desc g.isNone } })) := by
  refine congrArg Host.Outcome.next ?_
  dsimp only
  rw [hn]
  refine (if_neg ?_).trans rfl
  rw [hs, decide_eq_false (Nat.not_lt.mpr hc)]
  decide

theorem exec_resultSend {bucket : BitVec 6} {s : State} (hs : serving s = true) (hm : maySend (bktAt s bucket.toNat) = true)
    (hl : (bktAt s bucket.toNat).sent < dFlits (bktAt s bucket.toNat).desc) (he : NMap.get 0 s.rx.eg (dVc (bktAt s bucket.toNat).desc) ≠ 0) :
    exec (.resultSend bucket) s = .next (sendResult bucket.toNat (bktAt s bucket.toNat).sent s) := by
  refine congrArg Host.Outcome.next (if_pos ?_)
  rw [hs, hm, decide_eq_true hl, bne_iff_ne.mpr he]
  rfl

/-- A result flit sent. -/
theorem sendResult_leaves (b f : Nat) (s : State) :
    (∃ T, (sendResult b f s).fr.trs = s.fr.trs ++ [T] ∧ T.id = s.fr.nextId ∧ T.kind = .rd ∧ T.slip = 0 ∧ T.rlanes = [62 + f % 2] ∧ T.ready = true
        ∧ T.g0 = (bktAt s b).use ∧ T.beats = [mkBeat s (bktCtx s b)
            (if dOp (bktAt s b).desc ≠ 0 then dWord (bktAt s b).desc 4 else dWord (bktAt s b).desc 3)
            (flitOff (if dOp (bktAt s b).desc ≠ 0 then dWord (bktAt s b).desc 4 else dWord (bktAt s b).desc 3) f) false])
      ∧ (bktAt (sendResult b f s) b).sent = (bktAt s b).sent + 1 ∧ (∀ i, i ≠ b → bktAt (sendResult b f s) i = bktAt s i)
      ∧ (∀ v, NMap.get 0 (sendResult b f s).rx.eg v = if v = dVc (bktAt s b).desc then NMap.get 0 s.rx.eg v - 1 else NMap.get 0 s.rx.eg v) := by
  have hw : (if (dOp (bktAt s b).desc != 0) = true then dWord (bktAt s b).desc 4 else dWord (bktAt s b).desc 3)
      = if dOp (bktAt s b).desc ≠ 0 then dWord (bktAt s b).desc 4 else dWord (bktAt s b).desc 3 := by
    simp only [bne_iff_ne]
  unfold sendResult
  dsimp only
  rw [hw]
  generalize (if dOp (bktAt s b).desc ≠ 0 then dWord (bktAt s b).desc 4 else dWord (bktAt s b).desc 3) = v
  refine ⟨⟨_, rfl, rfl, rfl, rfl, rfl, rfl, rfl, rfl⟩, ?_, fun i hi => ?_, fun k => ?_⟩
  · exact congrArg Bkt.sent (NMap.get_set_self Bkt.free s.rx.bkt b _)
  · exact NMap.get_set_ne Bkt.free s.rx.bkt _ hi
  · show NMap.get 0 (NMap.upd 0 s.rx.eg (dVc (bktAt s b).desc) (· - 1)) k = _
    rw [NMap.upd, NMap.get_set]
    split
    next h => rw [h]
    · rfl

/-- NORM_PASS_END (R322, R323). -/
theorem normPass_ends : ∀ (bucket : BitVec 6) (s : State) (o : ROp), serving s = true → let b := bucket.toNat; let d := (bktAt s b).desc; let g := dNgrp d
      normOp s b = some o → (bktAt s b).norm = 1 → o.full = true →
      let q := normSum o.desc ((List.range (dFlits o.desc)).map fun i => (NMap.get none o.got i).getD (0, 0xF))
      let n := regF s (0x3D00 + 16 * g) 6 0; let m := (ngAt s g).mem
      ∃ t, exec (.normPassEnd bucket) s = .next t ∧ t.mem = s.mem ∧ t.fr = s.fr ∧ (bktAt t b).norm = 2 ∧ (∀ i, i ≠ g → ngAt t i = ngAt s i)
        ∧ (n ≤ m.length → ngAt t g = ngAt s g)
        ∧ (m.length < n → (ngAt t g).mem = m ++ [(dBidx d, b, BitVec.ofNat 32 q.1, q.2)] ∧ (ngAt t g).lost = (ngAt s g).lost)
        ∧ (m.length + 1 = n → (ngAt s g).lost = false → (ngAt t g).ready = true
            ∧ (ngAt t g).sum = BitVec.ofNat 32 (foldNorm (m ++ [(dBidx d, b, BitVec.ofNat 32 q.1, q.2)])))
        ∧ (m.length + 1 ≠ n ∨ (ngAt s g).lost = true → (ngAt t g).ready = (ngAt s g).ready) := by
  intro bucket s o hs
  dsimp only
  intro ho hn hfull
  have hex := exec_normPassEnd hs ho hn hfull
  generalize normSum o.desc ((List.range (dFlits o.desc)).map fun i => (NMap.get none o.got i).getD (0, 0xF)) = q at hex ⊢
  have hpb := bktAt_passOver o bucket.toNat s
  have hpr : ∀ x, reg (passOver o bucket.toNat s) x = reg s x := fun _ => rfl
  have hpn : ∀ i, ngAt (passOver o bucket.toNat s) i = ngAt s i := fun _ => rfl
  have hpo : Only [.rx] s (passOver o bucket.toNat s) := (dropOp_only o.id s).trans (updBkt_only _ _ _)
  generalize passOver o bucket.toNat s = u at hex hpb hpr hpn hpo
  have hjo := joinGroup_only bucket.toNat q u
  have hjl := joinGroup_leaves bucket.toNat q u
  have hjb := (hjl 0).1
  have hjn := fun i => (hjl i).2
  have hdesc : (bktAt u bucket.toNat).desc = (bktAt s bucket.toNat).desc := by rw [hpb]
  rw [hdesc] at hjn
  generalize (bktAt s bucket.toNat).desc = d at hjn ⊢
  have hreg : regF u (0x3D00 + 16 * dNgrp d) 6 0 = regF s (0x3D00 + 16 * dNgrp d) 6 0 := regF_eq_of_reg (hpr _)
  rw [hreg, hpn] at hjn
  generalize joinGroup bucket.toNat q u = v at hex hjo hjb hjn
  have hso := settleBuckets_only v
  have hsk := PortSettled.settleBuckets v
  generalize settleBuckets v = t at hex hso hsk
  have hng : ∀ i, ngAt t i = ngAt v i := fun i => by rw [ngAt, ngAt, hsk.ng]
  have hself := hjn (dNgrp d)
  rw [← hng, hpn] at hself
  generalize hnn : regF s (0x3D00 + 16 * dNgrp d) 6 0 = n at hjn hself ⊢
  have hst := joined_lost (ngAt s (dNgrp d)) (dBidx d, bucket.toNat, BitVec.ofNat 32 q.1, q.2) n
  refine ⟨t, hex, ?_, ?_, ?_, fun i hi => ?_, fun hle => ?_, fun hlt => ?_, fun he hl => ?_, fun hor => ?_⟩
  · rw [hso .mem (by decide), hjo .mem (by decide), hpo .mem (by decide)]
  · rw [hso .fr (by decide), hjo .fr (by decide), hpo .fr (by decide)]
  · rw [hsk.norm, hjb, hpb]
  · rw [hng, hjn, if_neg (fun h => hi h.1), hpn]
  · rw [hself, if_neg (fun h => absurd h.2 (Nat.not_lt.mpr hle))]
  · rw [hself, if_pos ⟨rfl, hlt⟩]
    exact ⟨hst.1, hst.2.1⟩
  · rw [hself, if_pos ⟨rfl, by omega⟩]
    exact hst.2.2.1 he hl
  · rw [hself]
    split
    · exact hst.2.2.2 hor
    · rfl

/-- UPDATE_FLIT. -/
theorem updateFlit_begins : ∀ (bucket : BitVec 6) (s : State) (f : Nat) (g : Option (Row × Mask4)), serving s = true → let b := bucket.toNat
      let k := bktAt s b
      nextUpdate k = some (f, g) → s.rx.nupd + optCost k.desc g.isNone ≤ 4 →
      ∃ t o, exec (.updateFlit bucket) s = .next t ∧ Only [.rx] s t ∧ t.rx.nupd = s.rx.nupd + optCost k.desc g.isNone
        ∧ bktAt t b = { k with ustart := k.ustart + 1, imm := if g.isSome = true then k.imm.drop 1 else k.imm }
        ∧ (∀ i, i ≠ b → bktAt t i = bktAt s i)
        ∧ t.rx.ops = s.rx.ops ++ [o] ∧ o.id = s.rx.nextOp ∧ o.kind = 2 ∧ o.b = b ∧ o.flit = f ∧ o.again = g.isNone ∧ o.desc = k.desc
        ∧ (∀ r, g = some r → o.data = r.1 ∧ o.pois = r.2) := by
  intro bucket s f g hs
  dsimp only
  intro hn hc
  have hex := exec_updateFlit hs hn hc
  refine ⟨_, _, hex, ?_, rfl, ?_, fun i hi => ?_, rfl, rfl, rfl, rfl, rfl, rfl, rfl, fun r hgr => ?_⟩
  · intro p hp
    cases p
    case rx => exact absurd (by simp) hp
    all_goals rfl
  · rw [bktAt_updBkt, if_pos rfl]
    rfl
  · rw [bktAt_updBkt, if_neg hi]
    rfl
  · rw [hgr]
    exact ⟨rfl, rfl⟩

/-- The read of the row that an update changes. -/
theorem updateRow_read : ∀ (bank : Nat) (port : Bool) (ups : List Upset) (s : State) (T : Tr) (b : Beat) (o : ROp), running s = true →
      FreshIds s → nextBeat s bank port [.rd, .park, .ird] = some (T, 0) → T.kind = .ird → T.beats = [b] → b.have_ = false →
      T.passed = [] → T.job = .rrow o.id 0 → portTrs s T.req = [T] → opOf s o.id = some o → o.kind = 2 → o.again = false →
      dOp o.desc = 1 → o.got = [] →
      let r := (readRow (T.gcyc + T.offs) b.bank b.row (readerOf T port) ups s).1
      let out := (((markedEls (o.data, o.pois)).map (gIn (dNanpol o.desc))).zip (markedEls (r.data, r.pois))).map fun e =>
        (fsub e.2.1 (fmul (dWord o.desc 7) (scaleG (dWord o.desc 8) e.1.1)), e.2.2 || e.1.2)
      ∃ t u, exec (.arrayRead bank port ups) s = .next t ∧ opOf t o.id = some u ∧ u.full = true ∧ u.outs = [markedRow out] := by
  intro bank port ups s T b o hr hf hn hk hb hh hp hj hport ho ho2 ha h1 hg
  dsimp only
  obtain ⟨u, hex, huo, -⟩ := exec_portRead (ups := ups) (arraysGo_running hr) hf hn hk hb hh hp hport none_before none_behind
  have hbad := (beat_single hn hb).2.1
  have hrow := portRow_running (b := b) (port := port) (ups := ups) hr (T := T) (by rw [hj]; exact fun h => by cases h)
  have hBr : ((portBeat T b port ups s).data, (portBeat T b port ups s).pois) = ((portRow T b port ups s).data, (portRow T b port ups s).pois) := rfl
  rw [jobDone_rrow (T := T) (i := o.id) (k := 0) hj (portBeat T b port ups s) hbad, hBr, hrow] at hex
  generalize (readRow (T.gcyc + T.offs) b.bank b.row (readerOf T port) ups s).1 = r at hex ⊢
  have hou : opOf u o.id = some o := (opOf_of_rx (huo .rx (by decide)) _).trans ho
  obtain ⟨z, hz, hzf, hzo⟩ := opRead_update (r := (r.data, r.pois)) hou ho2 ha h1 hg
  exact ⟨_, z, hex, hz, hzf, hzo⟩

/-- RESULT_SEND. -/
theorem result_sent : ∀ (bucket : BitVec 6) (s : State), serving s = true → let b := bucket.toNat; let k := bktAt s b; let d := k.desc
      maySend k = true → k.sent < dFlits d → NMap.get 0 s.rx.eg (dVc d) ≠ 0 →
      ∃ t T, exec (.resultSend bucket) s = .next t ∧ Only [.fr, .rx] s t ∧ t.fr.trs = s.fr.trs ++ [T]
        ∧ T.id = s.fr.nextId ∧ T.kind = .rd ∧ T.slip = 0 ∧ T.rlanes = [62 + k.sent % 2] ∧ T.ready = true ∧ T.g0 = k.use
        ∧ T.beats = [mkBeat s (bktCtx s b) (if dOp d ≠ 0 then dWord d 4 else dWord d 3)
            (flitOff (if dOp d ≠ 0 then dWord d 4 else dWord d 3) k.sent) false]
        ∧ (bktAt t b).sent = k.sent + 1 ∧ (∀ i, i ≠ b → bktAt t i = bktAt s i)
        ∧ (∀ v, NMap.get 0 t.rx.eg v = if v = dVc d then NMap.get 0 s.rx.eg v - 1 else NMap.get 0 s.rx.eg v) := by
  intro bucket s hs
  dsimp only
  intro hm hl he
  obtain ⟨⟨T, hT, hrest⟩, hsent, hoth, heg⟩ := sendResult_leaves bucket.toNat (bktAt s bucket.toNat).sent s
  obtain ⟨h1, h2, h3, h4, h5, h6, h7⟩ := hrest
  exact ⟨_, T, exec_resultSend hs hm hl he, sendResult_only _ _ _, hT, h1, h2, h3, h4, h5, h6, h7, hsent, hoth, heg⟩

/-- Settles O49, command by command. -/
theorem normPassesUpdatesAndResults : Obligations.NormPassesUpdatesAndResults := by
  unfold Obligations.NormPassesUpdatesAndResults
  exact ⟨normPass_ends, updateFlit_begins, updateRow_read, result_sent⟩

end Sys2Proof.Machine
end

section
/-!
PROOFS. Intake, the combiner and the port's credits (R299 to R321).
-/
namespace Sys2Proof.Machine

/-! Intake (R299 to R304) -/

theorem fillLog_valid {o w0 w1 : Nat} {s : State} (h : w0 % 2 = 0) : regB (fillLog o w0 w1 s) o 0 = true := by
  cases hb : regB s o 0 with
  | false =>
    have he : regB (fillLog o w0 w1 s) o 0 = bit (BitVec.ofNat 32 (1 + w0)).toNat 0 := by rw [regB, (fillLog_first hb).1]
    rw [he, bit, BitVec.toNat_ofNat, Nat.testBit_zero]
    simp only [decide_eq_true_eq]
    omega
  | true =>
    have he : regB (orReg o (2 ^ 1) s) o 0 = (regB s o 0 || decide (0 = 1)) := regB_orReg_bit (by decide) 0
    rw [fillLog, if_pos hb]
    exact he.trans (by rw [hb, Bool.true_or])

/-- R302: what a dropped contribution leaves. -/
theorem dropFlit_leaves (reason : Nat) (f : RFlit) (s : State) : Only [.regs, .cnt, .tr, .dbg] s (dropFlit reason f s)
    ∧ NMap.get 0 (dropFlit reason f s).cnt (0x5A80 + 0x20 * (f.vc % 16)) = NMap.get 0 s.cnt (0x5A80 + 0x20 * (f.vc % 16)) + 1
    ∧ regB (dropFlit reason f s) 0x3818 0 = true := by
  refine ⟨dropFlit_only reason f s, ?_, ?_⟩
  · unfold dropFlit
    have hr : ∀ (c : Bool) n u, (when c (raise n) u).cnt = u.cnt := fun c n u => Only.when (fun v => raise_only n v) c u .cnt (by decide)
    rw [hr, fillLog_only _ _ _ _ .cnt (by decide), cnt_bump, if_pos rfl]
    rfl
  · unfold dropFlit
    have hl : ∀ (c : Bool) n u, reg (when c (raise n) u) 0x3818 = reg u 0x3818 := fun c n u => by
      cases c
      · rfl
      · exact raise_reg_low (by decide)
    rw [regB_eq_of_reg (hl _ _ _)]
    refine fillLog_valid ?_
    simp only [fld]
    omega

theorem popWdcq_lanes {l : Nat} {s : State} {d : Row × BitVec 81} {rest : List (Row × BitVec 81)} (h : (wlane s l).dcq = d :: rest) (m : Nat) :
    wlane (popWdcq l s) m = if m = l then { wlane s m with dcq := rest, seen := (wlane s m).seen - 1 } else wlane s m := by
  unfold popWdcq
  rw [wlane_updWlane]
  by_cases hm : m = l
  · rw [if_pos hm, if_pos hm, hm, h]
    rfl
  · rw [if_neg hm, if_neg hm]

theorem exec_intakeFlit {lane : Bool} {s : State} {d : Row × BitVec 81} {rest : List (Row × BitVec 81)} (hs : serving s = true) (hd : rp0On s = true)
    (hq : (wlane s (if lane then 43 else 42)).dcq = d :: rest) (hn : (wlane s (if lane then 43 else 42)).seen ≠ 0) :
    exec (.intakeFlit lane) s = .next (takeIn lane d.1 d.2.toNat (popWdcq (if lane then 43 else 42) s)) := by
  refine congrArg Host.Outcome.next ?_
  dsimp only
  rw [hq]
  refine if_neg ?_
  rw [hs, hd, beq_false_of_ne hn]
  decide

/-- A contribution that the intake takes. -/
def mayTake (lane : Bool) (data : Row) (sb : Nat) (s : State) : Prop :=
  vcEn s (mkRFlit lane data sb).vc = true ∧ slotsUsed s (mkRFlit lane data sb).vc < vcSlots s (mkRFlit lane data sb).vc
    ∧ (bktAt s (mkRFlit lane data sb).bucket).st = 1 ∧ dVc (bktAt s (mkRFlit lane data sb).bucket).desc = (mkRFlit lane data sb).vc
    ∧ badFlit (bktAt s (mkRFlit lane data sb).bucket).desc sb (mkRFlit lane data sb) = false

theorem takeIn_takes {lane : Bool} {data : Row} {sb : Nat} {s : State} (h : mayTake lane data sb s) : takeIn lane data sb s
    = { s with rx := { s.rx with slots := s.rx.slots ++ [{ mkRFlit lane data sb with
        todo := if (mkRFlit lane data sb).efmt ≠ 1 ∧ (mkRFlit lane data sb).flit + 1 < dFlits (bktAt s (mkRFlit lane data sb).bucket).desc then [0, 1] else [0] }] } } := by
  obtain ⟨h1, h2, h3, h4, h5⟩ := h
  unfold takeIn
  dsimp only
  rw [h1, h5, if_neg (by decide), if_neg (Nat.not_le.mpr h2), if_neg (fun h => h.elim (fun h => h h3) (fun h => h h4)), if_neg (by decide)]
  have ht : (if (mkRFlit lane data sb).efmt = 1 then [0]
      else if (mkRFlit lane data sb).flit + 1 < dFlits (bktAt s (mkRFlit lane data sb).bucket).desc then [0, 1] else [0])
      = if (mkRFlit lane data sb).efmt ≠ 1 ∧ (mkRFlit lane data sb).flit + 1 < dFlits (bktAt s (mkRFlit lane data sb).bucket).desc then [0, 1] else [0] := by
    by_cases he : (mkRFlit lane data sb).efmt = 1
    · rw [if_pos he, if_neg (fun h => h.1 he)]
    · rw [if_neg he]
      by_cases hf : (mkRFlit lane data sb).flit + 1 < dFlits (bktAt s (mkRFlit lane data sb).bucket).desc
      · rw [if_pos hf, if_pos ⟨he, hf⟩]
      · rw [if_neg hf, if_neg (fun h => hf h.2)]
  rw [ht]

theorem takeIn_drops {lane : Bool} {data : Row} {sb : Nat} {s : State} (h : ¬ mayTake lane data sb s) :
    Only [.regs, .cnt, .tr, .dbg, .rx] s (takeIn lane data sb s) ∧ (takeIn lane data sb s).rx.slots = s.rx.slots ∧ (takeIn lane data sb s).rx.bkt = s.rx.bkt
      ∧ NMap.get 0 (takeIn lane data sb s).cnt (0x5A80 + 0x20 * ((mkRFlit lane data sb).vc % 16)) = NMap.get 0 s.cnt (0x5A80 + 0x20 * ((mkRFlit lane data sb).vc % 16)) + 1
      ∧ regB (takeIn lane data sb s) 0x3818 0 = true := by
  refine ⟨takeIn_only lane data sb s, ?_⟩
  unfold mayTake at h
  unfold takeIn
  dsimp only
  generalize mkRFlit lane data sb = f at h ⊢
  have hd : ∀ r, (dropFlit r f s).rx.slots = s.rx.slots ∧ (dropFlit r f s).rx.bkt = s.rx.bkt
      ∧ NMap.get 0 (dropFlit r f s).cnt (0x5A80 + 0x20 * (f.vc % 16)) = NMap.get 0 s.cnt (0x5A80 + 0x20 * (f.vc % 16)) + 1
      ∧ regB (dropFlit r f s) 0x3818 0 = true := fun r => by
    obtain ⟨ho, hc, hb⟩ := dropFlit_leaves r f s
    have hx := ho .rx (by decide)
    exact ⟨congrArg RdxSt.slots hx, congrArg RdxSt.bkt hx, hc, hb⟩
  split
  · exact hd 0
  next h1 =>
    split
    · exact hd 1
    next h2 =>
      split
      · exact hd 2
      next h3 =>
        split
        · exact hd 3
        next h4 =>
          refine absurd ⟨?_, Nat.not_le.mp h2, ?_, ?_, ?_⟩ h
          · simpa using h1
          · refine Classical.byContradiction fun hn => ?_
            exact h3 (.inl hn)
          · refine Classical.byContradiction fun hn => ?_
            exact h3 (.inr hn)
          · simpa using h4

/-! Credits (R301, R303) -/

theorem exec_vcCreditReturn {vc : BitVec 4} {s : State} (hr : running s = true) (hn : NMap.get 0 s.rx.ret vc.toNat ≠ 0) :
    exec (.vcCreditReturn vc) s = .next { s with rx := { s.rx with
      ret := NMap.upd 0 s.rx.ret vc.toNat (· - 1), vccred := NMap.upd 0 s.rx.vccred vc.toNat (fun n => (n + 1) % 512) } } := by
  refine congrArg Host.Outcome.next (if_neg ?_)
  rw [hr, beq_false_of_ne hn]
  decide

theorem get_upd (m : NMap Nat) (k v : Nat) (f : Nat → Nat) : NMap.get 0 (NMap.upd 0 m k f) v = if v = k then f (NMap.get 0 m v) else NMap.get 0 m v := by
  rw [NMap.upd, NMap.get_set]
  split
  next h => rw [h]
  · rfl

theorem only_rx (s : State) (x : RdxSt) : Only [.rx] s { s with rx := x } := by
  intro p hp
  cases p
  case rx => exact absurd (by simp) hp
  all_goals rfl

/-- The credits of a VC counted anew. -/
def egressCounted (v count n : Nat) (s : State) : State :=
  { s with rx := { s.rx with egcred := NMap.set 0 s.rx.egcred v count, eg := NMap.set 0 s.rx.eg v (min (NMap.get 0 s.rx.eg v + n) (vcEgcred s v)) } }

theorem exec_egressCreditReturn {vc : BitVec 4} {count : BitVec 8} {s : State} (hr : running s = true) :
    exec (.egressCreditReturn vc count) s = .next (when
      (NMap.get 0 s.rx.eg vc.toNat + (count.toNat + 256 - NMap.get 0 s.rx.egcred vc.toNat) % 256 - vcEgcred s vc.toNat != 0)
      (fun u => raise 35 (bump (0x5A88 + 0x20 * (vc.toNat % 16))
        (NMap.get 0 s.rx.eg vc.toNat + (count.toNat + 256 - NMap.get 0 s.rx.egcred vc.toNat) % 256 - vcEgcred s vc.toNat) u))
      (egressCounted vc.toNat count.toNat ((count.toNat + 256 - NMap.get 0 s.rx.egcred vc.toNat) % 256) s)) := by
  refine congrArg Host.Outcome.next (if_neg ?_)
  rw [hr]
  decide

/-! The combiner (R313 to R315) -/

/-- A contribution counted, its VC's turn passed. -/
def turnPassed (vc : Nat) (s : State) : State := { s with rx := { s.rx with took := s.rx.took + 1, rr := (vc + 1) % 16 } }

theorem exec_combine {vc : BitVec 4} {s : State} {f : RFlit} {half : Nat} (hs : serving s = true) (ht : s.rx.took < 2) (hn : nextVc s = some vc.toNat)
    (hp : pickHalf s vc.toNat (takeable s vc.toNat) = some (f, half)) : exec (.combine vc) s = .next (halfTaken f half (xbump (2368 + vc.toNat) 1
      ((if isDup s f half then dropDup f else combineHalf f half) (turnPassed vc.toNat s)))) := by
  refine congrArg Host.Outcome.next ((if_neg ?_).trans ?_)
  · rw [hs, hn, decide_eq_false (Nat.not_le.mpr ht)]
    simp
  · rw [hp]
    rfl

theorem halfTaken_leaves (f : RFlit) (half : Nat) (s : State) : Only [.rx] s (halfTaken f half s)
    ∧ (halfTaken f half s).rx.slots = (if f.todo.filter (· != half) = [] then s.rx.slots.erase f
        else replaceFirst f { f with todo := f.todo.filter (· != half) } s.rx.slots)
    ∧ (∀ v, NMap.get 0 (halfTaken f half s).rx.ret v = NMap.get 0 s.rx.ret v + if f.todo.filter (· != half) = [] ∧ v = f.vc then 1 else 0)
    ∧ (halfTaken f half s).rx = { s.rx with slots := (halfTaken f half s).rx.slots, ret := (halfTaken f half s).rx.ret } := by
  unfold halfTaken
  dsimp only
  by_cases h : f.todo.filter (· != half) = []
  · rw [h]
    refine ⟨(only_rx s _).trans (freeSlot_only f.vc _), rfl, fun v => ?_, rfl⟩
    refine (get_upd s.rx.ret f.vc v (· + 1)).trans ?_
    by_cases hv : v = f.vc
    · rw [if_pos hv, if_pos ⟨rfl, hv⟩]
    · rw [if_neg hv, if_neg (fun h => hv h.2)]
      rfl
  · have he : (f.todo.filter (· != half)).isEmpty = false := by simpa using h
    rw [he, if_neg h]
    refine ⟨only_rx s _, rfl, fun v => ?_, rfl⟩
    exact ((Nat.add_zero _).symm.trans (congrArg (NMap.get 0 s.rx.ret v + ·) (if_neg fun hc => h hc.1).symm))

theorem dropDup_leaves (f : RFlit) (s : State) : Only [.regs, .cnt, .tr, .dbg, .rx] s (dropDup f s)
    ∧ (dropDup f s).rx = { s.rx with bkt := (dropDup f s).rx.bkt } ∧ (bktAt (dropDup f s) f.bucket).dup = true
    ∧ NMap.get 0 (dropDup f s).cnt (0x5A80 + 0x20 * (f.vc % 16)) = NMap.get 0 s.cnt (0x5A80 + 0x20 * (f.vc % 16)) + 1 := by
  obtain ⟨ho, hc, -⟩ := dropFlit_leaves 4 f (updBkt f.bucket (fun k => { k with dup := true }) s)
  have hx := ho .rx (by decide)
  have hu := updBkt_only f.bucket (fun k => { k with dup := true }) s
  have hb : (bktAt (updBkt f.bucket (fun k => { k with dup := true }) s) f.bucket).dup = true := by rw [bktAt_updBkt, if_pos rfl]
  have hux : (updBkt f.bucket (fun k => { k with dup := true }) s).rx
      = { s.rx with bkt := (updBkt f.bucket (fun k => { k with dup := true }) s).rx.bkt } := rfl
  unfold dropDup
  generalize updBkt f.bucket (fun k => { k with dup := true }) s = u at ho hc hx hu hb hux ⊢
  refine ⟨(hu.mono rfl).trans (ho.mono rfl), by rw [hx]; exact hux, ?_, hc.trans ?_⟩
  · rw [bktAt, hx]
    exact hb
  · rw [hu .cnt (by decide)]

/-- The operation that a contribution becomes. -/
def wayOp (s : State) (f : RFlit) (half : Nat) : ROp :=
  { newOp s 0 f.bucket (halfFlit f half) with
    id := s.rx.nextOp
    vc := f.vc, level := (wayOf s f half).2.1, idx := (wayOf s f half).2.2, hole := parkHole s f (wayOf s f half), way := (wayOf s f half).1
    data := (halfRow f half).1, pois := (halfRow f half).2
    nan := nanAt (nanCount (rowEls (halfRow f half).1)) (infCount (rowEls (halfRow f half).1)) f.level f.idx (halfFlit f half)
    full := (wayOf s f half).1.isEmpty, outs := if (wayOf s f half).1.isEmpty then [halfRow f half] else [] }

theorem combineHalf_rx (f : RFlit) (half : Nat) (s : State) : (combineHalf f half s).rx = { s.rx with
    dir := (s.rx.dir.map fun e => if (wayOf s f half).1.contains e = true then { e with taker := s.rx.nextOp + 1 } else e)
      ++ match parkHole s f (wayOf s f half) with
        | some h => [⟨f.vc, h, f.bucket, halfFlit f half, (wayOf s f half).2.1, (wayOf s f half).2.2, (wayOp s f half).nan, 0, none⟩]
        | none => []
    ops := s.rx.ops ++ [wayOp s f half]
    nextOp := s.rx.nextOp + 1 } := rfl

theorem climb_of_dir {s t : State} (h : t.rx.dir = s.rx.dir) (b flit ranks depth fuel l i : Nat) :
    climb t b flit ranks depth fuel l i = climb s b flit ranks depth fuel l i := by
  induction fuel generalizing l i with
  | zero => rfl
  | succ fuel ih =>
    unfold climb
    rw [h]
    simp only [ih]

theorem wayOf_turnPassed (vc : Nat) (s : State) (f : RFlit) (half : Nat) : wayOf (turnPassed vc s) f half = wayOf s f half :=
  climb_of_dir rfl _ _ _ _ _ _ _

theorem parkHole_turnPassed (vc : Nat) (s : State) (f : RFlit) (way : List PEnt × Nat × Nat) : parkHole (turnPassed vc s) f way = parkHole s f way := rfl

/-! A contribution meets a parked partial (R313, R319) -/

/-- The directory entry of an operation's own partial, as the model compares it. -/
theorem ownEntry_iff (e : PEnt) (o : ROp) : (e.bucket == o.b && e.flit == o.flit && e.level == o.level && e.idx == o.idx) = true
    ↔ e.bucket = o.b ∧ e.flit = o.flit ∧ e.level = o.level ∧ e.idx = o.idx := by
  simp [and_assoc]

theorem map_ownEntry (l : List PEnt) (o : ROp) (g : PEnt → PEnt) :
    (l.map fun e => if (e.bucket == o.b && e.flit == o.flit && e.level == o.level && e.idx == o.idx) = true then g e else e)
      = l.map fun e => if e.bucket = o.b ∧ e.flit = o.flit ∧ e.level = o.level ∧ e.idx = o.idx then g e else e :=
  List.map_congr_left fun e _ => ite_congr (propext (ownEntry_iff e o)) (fun _ => rfl) fun _ => rfl

/-- The records of NaN and infinity noted where an operation's partial is parked. -/
def nanNoted (o : ROp) (n : NanRec) (s : State) : State :=
  { s with rx := { s.rx with dir := s.rx.dir.map fun e =>
      if e.bucket == o.b && e.flit == o.flit && e.level == o.level && e.idx == o.idx then { e with nan := n } else e } }

theorem readsDone_combine {o : ROp} {s : State} (hk : o.kind = 0) : readsDone o s = estimate 10 o.way.length (xbump (2384 + o.vc) o.way.length
    (nanNoted o (combineWay o).nan (setOp { o with full := true, outs := [((combineWay o).data, (combineWay o).pois)], nan := (combineWay o).nan } s))) := by
  unfold readsDone
  split
  next => rfl
  next h => exact absurd (hk.symm.trans h) (by decide)
  next h => exact absurd (hk.symm.trans h) (by decide)
  next h _ _ => exact absurd hk h

/-- A parked partial taken out of the directory. -/
def partialTaken (v : Nat) (z : PEnt) (s : State) : State := holeFreed v { s with rx := { s.rx with dir := s.rx.dir.filter fun y => y != z } }

theorem opRead_single {s : State} {o : ROp} {e z : PEnt} (r : Row × Mask4) (ho : opOf s o.id = some o) (hk : o.kind = 0) (hw : o.way = [e])
    (hg : o.got = []) (he : entryOf s e.bucket e.flit e.level e.idx = some z) :
    opRead o.id 0 r s = readsDone { o with way := [z], got := [(0, some r)] } (setOp { o with way := [z], got := [(0, some r)] } (partialTaken o.vc z s)) := by
  have hset : NMap.set none ([] : NMap (Option (Row × Mask4))) 0 (some r) = [(0, some r)] := rfl
  have htake : takePartial o 0 s = ({ o with way := [z] }, partialTaken o.vc z s) := by
    unfold takePartial
    rw [hw]
    dsimp only [List.getElem?_cons_zero]
    rw [he]
    rfl
  have hp : (if o.kind = 0 then takePartial o 0 s else (o, s)) = ({ o with way := [z] }, partialTaken o.vc z s) := (if_pos hk).trans htake
  have hreads : opReads { o with way := [z], got := [(0, some r)] } = 1 := by simp [opReads, hk]
  unfold opRead
  rw [ho]
  dsimp only
  rw [hp]
  dsimp only
  rw [hg, hset, hreads, List.length_singleton, if_pos rfl]

theorem opRead_meets {s : State} {o : ROp} {e z : PEnt} (r : Row × Mask4) (ho : opOf s o.id = some o) (hk : o.kind = 0) (hw : o.way = [e])
    (hg : o.got = []) (he : entryOf s e.bucket e.flit e.level e.idx = some z) :
    ∃ u, opOf (opRead o.id 0 r s) o.id = some u ∧ u.full = true
      ∧ u.outs = [((combineRow o.flit ⟨o.data, o.pois, o.nan⟩ z r).data, (combineRow o.flit ⟨o.data, o.pois, o.nan⟩ z r).pois)]
      ∧ u.nan = (combineRow o.flit ⟨o.data, o.pois, o.nan⟩ z r).nan
      ∧ (opRead o.id 0 r s).rx.dir = (s.rx.dir.filter (· != z)).map fun y =>
          if y.bucket = o.b ∧ y.flit = o.flit ∧ y.level = o.level ∧ y.idx = o.idx
            then { y with nan := (combineRow o.flit ⟨o.data, o.pois, o.nan⟩ z r).nan } else y := by
  have hx : combineWay { o with way := [z], got := [(0, some r)] } = combineRow o.flit ⟨o.data, o.pois, o.nan⟩ z r := rfl
  rw [opRead_single r ho hk hw hg he, readsDone_combine (o := { o with way := [z], got := [(0, some r)] }) hk, hx]
  generalize combineRow o.flit ⟨o.data, o.pois, o.nan⟩ z r = x
  have h1 : opOf (setOp { o with way := [z], got := [(0, some r)] } (partialTaken o.vc z s)) o.id = some { o with way := [z], got := [(0, some r)] } :=
    opOf_setOp (o := { o with way := [z], got := [(0, some r)] }) (s := partialTaken o.vc z s) ho
  have hd : (setOp { o with way := [z], got := [(0, some r)] } (partialTaken o.vc z s)).rx.dir = s.rx.dir.filter (· != z) := rfl
  generalize setOp { o with way := [z], got := [(0, some r)] } (partialTaken o.vc z s) = v at h1 hd
  have h2 : opOf (setOp { o with way := [z], got := [(0, some r)], full := true, outs := [(x.data, x.pois)], nan := x.nan } v) o.id
      = some { o with way := [z], got := [(0, some r)], full := true, outs := [(x.data, x.pois)], nan := x.nan } :=
    opOf_setOp (o := { o with way := [z], got := [(0, some r)], full := true, outs := [(x.data, x.pois)], nan := x.nan }) h1
  have hd2 : (setOp { o with way := [z], got := [(0, some r)], full := true, outs := [(x.data, x.pois)], nan := x.nan } v).rx.dir = v.rx.dir := rfl
  generalize setOp { o with way := [z], got := [(0, some r)], full := true, outs := [(x.data, x.pois)], nan := x.nan } v = w at h2 hd2
  have hrx : ∀ n m y, (estimate 10 n (xbump m n y)).rx = y.rx := fun n m y =>
    (estimate_only 10 n _ .rx (by decide)).trans (xbump_only m n y .rx (by decide))
  refine ⟨{ o with way := [z], got := [(0, some r)], full := true, outs := [(x.data, x.pois)], nan := x.nan },
    (opOf_of_rx (hrx _ _ _) _).trans ?_, rfl, rfl, rfl, ?_⟩
  · exact h2
  · rw [hrx]
    refine Eq.trans ?_ (map_ownEntry _ o fun y => { y with nan := x.nan })
    rw [← hd, ← hd2]
    rfl

/-! A partial is written (R313, R315) -/

theorem jobDone_wrow {T : Tr} {i k : Nat} (h : T.job = .wrow i k) (b : Beat) (s : State) :
    jobDone { T with beats := [b] } s = opWritten i (T.gcyc + T.offs) s := by
  unfold jobDone
  dsimp only
  rw [h]

/-- The last write of a contribution's operation. -/
theorem opWritten_last {s : State} {o : ROp} {x : Row × Mask4} {c : Nat} (ho : opOf s o.id = some o) (hk : o.kind = 0) (hx : o.outs = [x]) (hw : o.wdone = 0) :
    opWritten o.id c s = if o.hole.isSome then parkedAt o c (dropOp o.id s)
      else when ((bktAt s o.b).use == o.use) (flitReduced o.b o.flit ⟨x.1, x.2, o.nan⟩) (dropOp o.id s) := by
  unfold opWritten
  rw [ho]
  dsimp only
  rw [hx, hw, if_neg (by simp)]
  split
  next => rfl
  next h => exact absurd (hk.symm.trans h) (by decide)
  next h _ => exact absurd hk h

theorem opOf_dropOp (i : Nat) (s : State) : opOf (dropOp i s) i = none := by
  unfold opOf dropOp
  dsimp only
  rw [List.find?_eq_none]
  intro z hz
  have := (List.mem_filter.mp hz).2
  simpa using this

theorem opOf_settled {s t : State} {i : Nat} (h : PortSettled s t) (hn : opOf s i = none) (hi : i < s.rx.nextOp) : opOf t i = none := by
  unfold opOf at hn ⊢
  rw [List.find?_eq_none] at hn ⊢
  intro z hz
  rcases h.ops z hz with hz | hz
  · exact hn z hz
  · simp
    omega

/-- A root that has been stored. -/
theorem flitReduced_leaves (b flit : Nat) (x : Partial) (s : State) : ∃ u, PortSettled u (flitReduced b flit x s) ∧ u.rx.dir = s.rx.dir
    ∧ u.rx.nextOp = s.rx.nextOp ∧ u.rx.ops = s.rx.ops ∧ (bktAt u b).red = flit :: (bktAt s b).red ∧ (bktAt u b).nan = nanMerge (bktAt s b).nan x.nan := by
  unfold flitReduced
  dsimp only
  generalize hu : updBkt b (fun k => { k with
        nan := nanMerge k.nan x.nan
        poison := k.poison || x.pois != 0
        red := flit :: k.red
        imm := if dImmediate (bktAt s b).desc then k.imm ++ [(flit, x.data, x.pois)] else k.imm }) s = u
  have hb : bktAt u b = { bktAt s b with
        nan := nanMerge (bktAt s b).nan x.nan
        poison := (bktAt s b).poison || x.pois != 0
        red := flit :: (bktAt s b).red
        imm := if dImmediate (bktAt s b).desc then (bktAt s b).imm ++ [(flit, x.data, x.pois)] else (bktAt s b).imm } := by
    rw [← hu, bktAt_updBkt, if_pos rfl]
  have hred : (bktAt u b).red = flit :: (bktAt s b).red := by rw [hb]
  have hnan : (bktAt u b).nan = nanMerge (bktAt s b).nan x.nan := by rw [hb]
  have hdir : u.rx.dir = s.rx.dir := by rw [← hu]; rfl
  have hnext : u.rx.nextOp = s.rx.nextOp := by rw [← hu]; rfl
  have hops : u.rx.ops = s.rx.ops := by rw [← hu]; rfl
  by_cases hl : (bktAt u b).red.length < dFlits (bktAt s b).desc
  · rw [if_pos hl]
    exact ⟨u, .refl u, hdir, hnext, hops, hred, hnan⟩
  · rw [if_neg hl]
    generalize hv : updBkt b (fun k => { k with
      st := 2, nonfin := (bktAt u b).nan.nan || (bktAt u b).nan.inf, norm := b2n (dNgen (bktAt s b).desc) }) u = v
    have hvb : (bktAt v b).red = (bktAt u b).red ∧ (bktAt v b).nan = (bktAt u b).nan := by
      rw [← hv, bktAt_updBkt, if_pos rfl]
      exact ⟨rfl, rfl⟩
    have hwhen : ∀ (f : State → State) (c : Bool) y, (∀ z, PortSettled z (f z)) → PortSettled y (when c f y) := fun f c y hf => by
      cases c
      · exact .refl y
      · exact hf y
    refine ⟨v, ?_, (by rw [← hv]; rfl : v.rx.dir = u.rx.dir).trans hdir, (by rw [← hv]; rfl : v.rx.nextOp = u.rx.nextOp).trans hnext,
      (by rw [← hv]; rfl : v.rx.ops = u.rx.ops).trans hops, hvb.1.trans hred, hvb.2.trans hnan⟩
    refine PortSettled.trans ?_ (.settleBuckets _)
    refine PortSettled.trans ?_ (hwhen _ _ _ fun z => .of_rx (raise_only 36 z .rx (by decide)))
    exact hwhen _ _ _ fun z => .addOp _ z

/-- COMBINE of a contribution that meets no other. -/
theorem combine_sets_out {vc : Nat} {s : State} {f : RFlit} {half : Nat} : (combineHalf f half (turnPassed vc s)).rx = { s.rx with
    took := s.rx.took + 1, rr := (vc + 1) % 16
    dir := (s.rx.dir.map fun e => if (wayOf s f half).1.contains e = true then { e with taker := s.rx.nextOp + 1 } else e)
      ++ match parkHole s f (wayOf s f half) with
        | some h => [⟨f.vc, h, f.bucket, halfFlit f half, (wayOf s f half).2.1, (wayOf s f half).2.2, (wayOp s f half).nan, 0, none⟩]
        | none => []
    ops := s.rx.ops ++ [wayOp s f half]
    nextOp := s.rx.nextOp + 1 } := by
  have hop : wayOp (turnPassed vc s) f half = wayOp s f half := by
    unfold wayOp
    rw [wayOf_turnPassed, parkHole_turnPassed]
    rfl
  rw [combineHalf_rx, hop, wayOf_turnPassed, parkHole_turnPassed]
  rfl

/-- INTAKE_FLIT (R299): a valid flit takes a slot of its VC, another is dropped and counted. -/
theorem intakeFlit_taken : ∀ (lane : Bool) (s : State) (d : Row × BitVec 81) (rest : List (Row × BitVec 81)), serving s = true → rp0On s = true →
      let l := if lane = true then 43 else 42
      (wlane s l).dcq = d :: rest → (wlane s l).seen ≠ 0 →
      let f := mkRFlit lane d.1 d.2.toNat; let k := bktAt s f.bucket
      let ok := vcEn s f.vc = true ∧ slotsUsed s f.vc < vcSlots s f.vc ∧ k.st = 1 ∧ dVc k.desc = f.vc ∧ badFlit k.desc d.2.toNat f = false
      ∃ t, exec (.intakeFlit lane) s = .next t
        ∧ (∀ m, wlane t m = if m = l then { wlane s m with dcq := rest, seen := (wlane s m).seen - 1 } else wlane s m)
        ∧ (ok → Only [.fr, .rx] s t ∧ t.rx = { s.rx with slots := s.rx.slots ++
            [{ f with todo := if f.efmt ≠ 1 ∧ f.flit + 1 < dFlits k.desc then [0, 1] else [0] }] })
        ∧ (¬ok → t.rx.slots = s.rx.slots ∧ t.rx.bkt = s.rx.bkt
            ∧ NMap.get 0 t.cnt (0x5A80 + 0x20 * (f.vc % 16)) = NMap.get 0 s.cnt (0x5A80 + 0x20 * (f.vc % 16)) + 1 ∧ regB t 0x3818 0 = true) := by
  intro lane s d rest hs hd
  dsimp only
  intro hq hseen
  have hex := exec_intakeFlit hs hd hq hseen
  have hl := popWdcq_lanes hq
  have hpo := updWlane_only (if lane = true then 43 else 42) (fun w => { w with dcq := w.dcq.drop 1, seen := w.seen - 1 }) s
  have hok : mayTake lane d.1 d.2.toNat (popWdcq (if lane = true then 43 else 42) s) ↔ mayTake lane d.1 d.2.toNat s := Iff.rfl
  have hti := takeIn_only lane d.1 d.2.toNat (popWdcq (if lane = true then 43 else 42) s)
  refine ⟨_, hex, fun m => (wlane_of_fr (hti .fr (by decide)) m).trans (hl m), fun h => ?_, fun h => ?_⟩
  · rw [takeIn_takes (hok.mpr h)]
    exact ⟨(hpo.mono rfl).trans ((only_rx _ _).mono rfl), rfl⟩
  · obtain ⟨-, hsl, hbk, hc, hv⟩ := takeIn_drops (fun hm => h (hok.mp hm))
    exact ⟨hsl, hbk, hc, hv⟩

/-- COMBINE (R313): a duplicate is dropped, another contribution becomes an operation on its way up. -/
theorem combine_taken : ∀ (vc : BitVec 4) (s : State) (f : RFlit) (half : Nat), serving s = true → s.rx.took < 2 → nextVc s = some vc.toNat →
      pickHalf s vc.toNat (takeable s vc.toNat) = some (f, half) →
      let left := f.todo.filter (· != half); let flit := halfFlit f half
      ∃ t, exec (.combine vc) s = .next t ∧ t.mem = s.mem ∧ t.fr = s.fr ∧ t.rx.took = s.rx.took + 1 ∧ t.rx.rr = (vc.toNat + 1) % 16
        ∧ t.rx.slots = (if left = [] then s.rx.slots.erase f else replaceFirst f { f with todo := left } s.rx.slots)
        ∧ (∀ v, NMap.get 0 t.rx.ret v = NMap.get 0 s.rx.ret v + if left = [] ∧ v = f.vc then 1 else 0)
        ∧ (isDup s f half = true → (bktAt t f.bucket).dup = true ∧ t.rx.dir = s.rx.dir ∧ t.rx.ops = s.rx.ops
            ∧ NMap.get 0 t.cnt (0x5A80 + 0x20 * (f.vc % 16)) = NMap.get 0 s.cnt (0x5A80 + 0x20 * (f.vc % 16)) + 1)
        ∧ (isDup s f half = false →
            let way := wayOf s f half; let row := halfRow f half; let els := rowEls row.1
            t.rx.bkt = s.rx.bkt ∧ t.cnt = s.cnt ∧ ∃ o, t.rx.ops = s.rx.ops ++ [o] ∧ o.id = s.rx.nextOp ∧ o.kind = 0 ∧ o.b = f.bucket
              ∧ o.flit = flit ∧ o.level = way.2.1 ∧ o.idx = way.2.2 ∧ o.way = way.1 ∧ o.hole = parkHole s f way
              ∧ o.data = row.1 ∧ o.pois = row.2 ∧ o.nan = nanAt (nanCount els) (infCount els) f.level f.idx flit
              ∧ o.full = way.1.isEmpty ∧ (way.1 = [] → o.outs = [row])
              ∧ t.rx.dir = (s.rx.dir.map fun e => if way.1.contains e = true then { e with taker := s.rx.nextOp + 1 } else e)
                  ++ match parkHole s f way with
                    | some h => [⟨f.vc, h, f.bucket, flit, way.2.1, way.2.2, o.nan, 0, none⟩]
                    | none => []) := by
  intro vc s f half hs ht hn hp
  dsimp only
  have hex := exec_combine hs ht hn hp
  generalize hv : (if isDup s f half then dropDup f else combineHalf f half) (turnPassed vc.toNat s) = v at hex
  have hxo := xbump_only (2368 + vc.toNat) 1 v
  obtain ⟨hto, hslots, hret, hrx⟩ := halfTaken_leaves f half (xbump (2368 + vc.toNat) 1 v)
  have hxr : (xbump (2368 + vc.toNat) 1 v).rx = v.rx := hxo .rx (by decide)
  rw [hxr] at hslots hrx
  simp only [hxr] at hret
  have hcnt : (halfTaken f half (xbump (2368 + vc.toNat) 1 v)).cnt = v.cnt := (hto .cnt (by decide)).trans (hxo .cnt (by decide))
  have hmem : (halfTaken f half (xbump (2368 + vc.toNat) 1 v)).mem = v.mem := (hto .mem (by decide)).trans (hxo .mem (by decide))
  have hfr : (halfTaken f half (xbump (2368 + vc.toNat) 1 v)).fr = v.fr := (hto .fr (by decide)).trans (hxo .fr (by decide))
  generalize halfTaken f half (xbump (2368 + vc.toNat) 1 v) = t at hex hslots hret hrx hcnt hmem hfr
  have hbkt : ∀ i, bktAt t i = bktAt v i := fun i => by rw [bktAt, hrx]; rfl
  cases hdup : isDup s f half with
  | true =>
    rw [hdup, if_pos rfl] at hv
    obtain ⟨hdo, hdr, hdd, hdc⟩ := dropDup_leaves f (turnPassed vc.toNat s)
    rw [hv] at hdo hdr hdd hdc
    have hvs : v.rx.slots = s.rx.slots ∧ v.rx.ret = s.rx.ret ∧ v.rx.took = s.rx.took + 1 ∧ v.rx.rr = (vc.toNat + 1) % 16 ∧ v.rx.dir = s.rx.dir
        ∧ v.rx.ops = s.rx.ops := by
      rw [hdr]
      exact ⟨rfl, rfl, rfl, rfl, rfl, rfl⟩
    obtain ⟨h1, h2, h3, h4, h5, h6⟩ := hvs
    rw [h1] at hslots
    simp only [h2] at hret
    refine ⟨t, hex, hmem.trans (hdo .mem (by decide)), hfr.trans (hdo .fr (by decide)), (by rw [hrx] : t.rx.took = v.rx.took).trans h3,
      (by rw [hrx] : t.rx.rr = v.rx.rr).trans h4, hslots, hret, fun _ => ⟨by rw [hbkt]; exact hdd, (by rw [hrx] : t.rx.dir = v.rx.dir).trans h5,
        (by rw [hrx] : t.rx.ops = v.rx.ops).trans h6, by rw [hcnt]; exact hdc⟩, fun h => absurd h (by decide)⟩
  | false =>
    rw [hdup, if_neg Bool.false_ne_true] at hv
    have hco := combineHalf_only f half (turnPassed vc.toNat s)
    have hcr := combine_sets_out (vc := vc.toNat) (s := s) (f := f) (half := half)
    rw [hv] at hco hcr
    have hvs : v.rx.slots = s.rx.slots ∧ v.rx.ret = s.rx.ret ∧ v.rx.took = s.rx.took + 1 ∧ v.rx.rr = (vc.toNat + 1) % 16 ∧ v.rx.bkt = s.rx.bkt
        ∧ v.rx.ops = s.rx.ops ++ [wayOp s f half] := by
      rw [hcr]
      exact ⟨rfl, rfl, rfl, rfl, rfl, rfl⟩
    have hvd := congrArg RdxSt.dir hcr
    obtain ⟨h1, h2, h3, h4, h5, h6⟩ := hvs
    rw [h1] at hslots
    simp only [h2] at hret
    refine ⟨t, hex, hmem.trans (hco .mem (by decide)), hfr.trans (hco .fr (by decide)), (by rw [hrx] : t.rx.took = v.rx.took).trans h3,
      (by rw [hrx] : t.rx.rr = v.rx.rr).trans h4, hslots, hret, fun h => absurd h (by decide), fun _ => ?_⟩
    refine ⟨(by rw [hrx] : t.rx.bkt = v.rx.bkt).trans h5, hcnt.trans (hco .cnt (by decide)), wayOp s f half,
      (by rw [hrx] : t.rx.ops = v.rx.ops).trans h6, rfl, rfl, rfl, rfl, rfl, rfl, rfl, rfl, rfl, rfl, rfl, rfl, fun hway => ?_, ?_⟩
    · rw [wayOp, hway]
      rfl
    · refine (by rw [hrx] : t.rx.dir = v.rx.dir).trans (hvd.trans ?_)
      cases parkHole s f (wayOf s f half) <;> rfl

/-- The read of the one partial that a contribution meets. -/
theorem meeting_read : ∀ (bank : Nat) (port : Bool) (ups : List Upset) (s : State) (T : Tr) (b : Beat) (o : ROp) (e z : PEnt), running s = true →
      FreshIds s → nextBeat s bank port [.rd, .park, .ird] = some (T, 0) → T.kind = .ird → T.beats = [b] → b.have_ = false →
      T.passed = [] → T.job = .rrow o.id 0 → portTrs s T.req = [T] → opOf s o.id = some o → o.kind = 0 → o.way = [e] → o.got = [] →
      entryOf s e.bucket e.flit e.level e.idx = some z →
      let r := (readRow (T.gcyc + T.offs) b.bank b.row (readerOf T port) ups s).1
      let x := combineRow o.flit ⟨o.data, o.pois, o.nan⟩ z (r.data, r.pois)
      ∃ t u, exec (.arrayRead bank port ups) s = .next t ∧ opOf t o.id = some u ∧ u.full = true ∧ u.outs = [(x.data, x.pois)] ∧ u.nan = x.nan
        ∧ t.rx.dir = (s.rx.dir.filter (· != z)).map fun y =>
            if y.bucket = o.b ∧ y.flit = o.flit ∧ y.level = o.level ∧ y.idx = o.idx then { y with nan := x.nan } else y := by
  intro bank port ups s T b o e z hr hf hn hk hb hh hp hj hport ho ho0 hw hg he
  dsimp only
  obtain ⟨u, hex, huo, -⟩ := exec_portRead (ups := ups) (arraysGo_running hr) hf hn hk hb hh hp hport none_before none_behind
  have hbad := (beat_single hn hb).2.1
  have hrow := portRow_running (b := b) (port := port) (ups := ups) hr (T := T) (by rw [hj]; exact fun h => by cases h)
  have hBr : ((portBeat T b port ups s).data, (portBeat T b port ups s).pois) = ((portRow T b port ups s).data, (portRow T b port ups s).pois) := rfl
  rw [jobDone_rrow (T := T) (i := o.id) (k := 0) hj (portBeat T b port ups s) hbad, hBr, hrow] at hex
  generalize (readRow (T.gcyc + T.offs) b.bank b.row (readerOf T port) ups s).1 = r at hex ⊢
  have hrx : u.rx = s.rx := huo .rx (by decide)
  have hou : opOf u o.id = some o := (opOf_of_rx hrx _).trans ho
  have heu : entryOf u e.bucket e.flit e.level e.idx = some z := by rw [entryOf, hrx]; exact he
  obtain ⟨w, h1, h2, h3, h4, h5⟩ := opRead_meets (r.data, r.pois) hou ho0 hw hg heu
  rw [hrx] at h5
  exact ⟨_, w, hex, h1, h2, h3, h4, h5⟩

/-- The write of a partial or of a root. -/
theorem partial_written : ∀ (bank : Nat) (port : Bool) (par : Parity) (s : State) (T : Tr) (b : Beat) (o : ROp) (x : Row × Mask4), running s = true →
      FreshIds s → nextBeat s bank port [.wr, .parkWr, .iwr] = some (T, 0) → T.kind = .iwr → T.beats = [b] → T.passed = [] → T.job = .wrow o.id 0 → portTrs s T.req = [T] → opOf s o.id = some o → o.kind = 0 → o.outs = [x] → o.wdone = 0 →
      o.id < s.rx.nextOp →
      ∃ t, exec (.arrayWrite bank port par) s = .next t ∧ opOf t o.id = none
        ∧ (o.hole ≠ none → t.rx.bkt = s.rx.bkt ∧ t.rx.dir = s.rx.dir.map fun e =>
            if e.bucket = o.b ∧ e.flit = o.flit ∧ e.level = o.level ∧ e.idx = o.idx then { e with from_ := some (T.gcyc + T.offs + 1) } else e)
        ∧ (o.hole = none → t.rx.dir = s.rx.dir ∧ ((bktAt s o.b).use = o.use → (bktAt t o.b).red = o.flit :: (bktAt s o.b).red
            ∧ (bktAt t o.b).nan = nanMerge (bktAt s o.b).nan o.nan)) := by
  intro bank port par s T b o x hr hf hn hk hb hp hj hport ho ho0 hx hw hlt
  obtain ⟨u, hex, huo, -⟩ := exec_portWrite (par := par) (arraysGo_running hr) hf hn hk hb hp hport none_before none_behind
  rw [jobDone_wrow (T := T) (i := o.id) (k := 0) hj] at hex
  have hrx : u.rx = s.rx := huo .rx (by decide)
  have hou : opOf u o.id = some o := (opOf_of_rx hrx _).trans ho
  rw [opWritten_last hou ho0 hx hw] at hex
  have hbu : ∀ i, bktAt u i = bktAt s i := fun i => by rw [bktAt, bktAt, hrx]
  have hnone := opOf_dropOp o.id u
  have hdd : (dropOp o.id u).rx.dir = s.rx.dir :=
    show u.rx.dir = s.rx.dir from congrArg RdxSt.dir hrx
  have hdb : (dropOp o.id u).rx.bkt = s.rx.bkt :=
    show u.rx.bkt = s.rx.bkt from congrArg RdxSt.bkt hrx
  have hdn : (dropOp o.id u).rx.nextOp = s.rx.nextOp :=
    show u.rx.nextOp = s.rx.nextOp from congrArg RdxSt.nextOp hrx
  rw [hbu] at hex
  generalize dropOp o.id u = v at hex hnone hdd hdb hdn
  have hvb : ∀ i, bktAt v i = bktAt s i := fun i => by rw [bktAt, bktAt, hdb]
  cases hho : o.hole with
  | some h =>
    rw [hho, if_pos (by rfl)] at hex
    refine ⟨_, hex, hnone, fun _ => ⟨hdb, ?_⟩, fun h => absurd h (by simp)⟩
    refine (map_ownEntry v.rx.dir o fun e => { e with from_ := some (T.gcyc + T.offs + 1) }).trans ?_
    rw [hdd]
  | none =>
    rw [hho, if_neg (by simp)] at hex
    refine ⟨_, hex, ?_, fun h => absurd rfl h, fun _ => ?_⟩
    all_goals obtain ⟨w, hpw, hwd, hwn, hwo, hwr, hwm⟩ := flitReduced_leaves o.b o.flit ⟨x.1, x.2, o.nan⟩ v
    · cases hm : (bktAt s o.b).use == o.use with
      | false => exact hnone
      | true =>
        refine opOf_settled hpw ?_ (by rw [hwn, hdn]; exact hlt)
        rw [opOf, hwo]
        exact hnone
    · cases hm : (bktAt s o.b).use == o.use with
      | false => exact ⟨hdd, fun hu => absurd hu (by simpa using hm)⟩
      | true =>
        refine ⟨hpw.dir.trans (hwd.trans hdd), fun _ => ⟨?_, ?_⟩⟩
        · exact (hpw.red o.b).trans (hwr.trans (by rw [hvb]))
        · exact (hpw.nan o.b).trans (hwm.trans (by rw [hvb]))

/-- VC_CREDIT_RETURN (R301). -/
theorem vcCredit_returned : ∀ (vc : BitVec 4) (s : State), running s = true → NMap.get 0 s.rx.ret vc.toNat ≠ 0 →
      ∃ t, exec (.vcCreditReturn vc) s = .next t ∧ Only [.rx] s t ∧ t.rx.slots = s.rx.slots ∧ t.rx.eg = s.rx.eg
        ∧ (∀ v, NMap.get 0 t.rx.ret v = if v = vc.toNat then NMap.get 0 s.rx.ret v - 1 else NMap.get 0 s.rx.ret v)
        ∧ (∀ v, NMap.get 0 t.rx.vccred v = if v = vc.toNat then (NMap.get 0 s.rx.vccred v + 1) % 512 else NMap.get 0 s.rx.vccred v) := by
  intro vc s hr hn
  exact ⟨_, exec_vcCreditReturn hr hn, only_rx s _, rfl, rfl, fun v => get_upd s.rx.ret vc.toNat v (· - 1),
    fun v => get_upd s.rx.vccred vc.toNat v fun n => (n + 1) % 512⟩

/-- EGRESS_CREDIT_RETURN (R303, R485). -/
theorem egressCredits_counted : ∀ (vc : BitVec 4) (count : BitVec 8) (s : State), running s = true →
      let n := (count.toNat + 256 - NMap.get 0 s.rx.egcred vc.toNat) % 256
      ∃ t, exec (.egressCreditReturn vc count) s = .next t ∧ Only [.regs, .cnt, .tr, .dbg, .rx] s t
        ∧ (∀ v, NMap.get 0 t.rx.eg v = if v = vc.toNat then min (NMap.get 0 s.rx.eg v + n) (vcEgcred s v) else NMap.get 0 s.rx.eg v)
        ∧ (∀ v, NMap.get 0 t.rx.egcred v = if v = vc.toNat then count.toNat else NMap.get 0 s.rx.egcred v)
        ∧ if NMap.get 0 s.rx.eg vc.toNat + n ≤ vcEgcred s vc.toNat then t.regs = s.regs ∧ t.cnt = s.cnt
          else regB t 0x7004 3 = true ∧ NMap.get 0 t.cnt (0x5A88 + 0x20 * vc.toNat) =
            NMap.get 0 s.cnt (0x5A88 + 0x20 * vc.toNat) + BitVec.ofNat 56 (NMap.get 0 s.rx.eg vc.toNat + n - vcEgcred s vc.toNat) := by
  intro vc count s hr
  dsimp only
  have hex := exec_egressCreditReturn (vc := vc) (count := count) hr
  have hv16 : vc.toNat % 16 = vc.toNat := Nat.mod_eq_of_lt vc.isLt
  rw [hv16] at hex
  generalize (count.toNat + 256 - NMap.get 0 s.rx.egcred vc.toNat) % 256 = n at hex ⊢
  have heg : ∀ v, NMap.get 0 (egressCounted vc.toNat count.toNat n s).rx.eg v
      = if v = vc.toNat then min (NMap.get 0 s.rx.eg v + n) (vcEgcred s v) else NMap.get 0 s.rx.eg v := fun v => by
    refine (NMap.get_set 0 s.rx.eg _ vc.toNat v).trans ?_
    split
    next h => rw [h]
    · rfl
  have hec : ∀ v, NMap.get 0 (egressCounted vc.toNat count.toNat n s).rx.egcred v = if v = vc.toNat then count.toNat else NMap.get 0 s.rx.egcred v :=
    fun v => NMap.get_set 0 s.rx.egcred count.toNat vc.toNat v
  have hco : Only [.rx] s (egressCounted vc.toNat count.toNat n s) := only_rx s _
  generalize egressCounted vc.toNat count.toNat n s = u at hex heg hec hco
  by_cases hle : NMap.get 0 s.rx.eg vc.toNat + n ≤ vcEgcred s vc.toNat
  · rw [Nat.sub_eq_zero_of_le hle] at hex
    refine ⟨u, hex, hco.mono rfl, heg, hec, ?_⟩
    rw [if_pos hle]
    exact ⟨hco .regs (by decide), hco .cnt (by decide)⟩
  · have hne : (NMap.get 0 s.rx.eg vc.toNat + n - vcEgcred s vc.toNat != 0) = true := by
      rw [bne_iff_ne]
      omega
    rw [hne] at hex
    generalize NMap.get 0 s.rx.eg vc.toNat + n - vcEgcred s vc.toNat = k at hex ⊢
    have hbo := bump_only (0x5A88 + 0x20 * vc.toNat) k u
    have hro := raise_only 35 (bump (0x5A88 + 0x20 * vc.toNat) k u)
    have hrx : (raise 35 (bump (0x5A88 + 0x20 * vc.toNat) k u)).rx = u.rx := (hro .rx (by decide)).trans (hbo .rx (by decide))
    refine ⟨raise 35 (bump (0x5A88 + 0x20 * vc.toNat) k u), hex, (hco.mono rfl).trans ((hbo.mono rfl).trans (hro.mono rfl)),
      fun v => by rw [hrx]; exact heg v, fun v => by rw [hrx]; exact hec v, ?_⟩
    rw [if_neg hle]
    refine ⟨raise_sets 35 _, ?_⟩
    rw [hro .cnt (by decide), cnt_bump, if_pos rfl, hco .cnt (by decide)]

/-- Settles O47, command by command. -/
theorem contributionsEnterMeetAndAreReduced : Obligations.ContributionsEnterMeetAndAreReduced := by
  unfold Obligations.ContributionsEnterMeetAndAreReduced
  exact ⟨intakeFlit_taken, combine_taken, meeting_read, partial_written, vcCredit_returned, egressCredits_counted⟩

end Sys2Proof.Machine
end

section
/-!
PROOFS. Records reach the ring (R430 to R434).
-/
namespace Sys2Proof.Machine

/-! The ring row of IW10 that has been written (R432, R434) -/

theorem jobDone_trace {T : Tr} {n : Nat} (h : T.job = .trace n) (b : Beat) (s : State) : jobDone { T with beats := [b] } s = advanceRing n s := by
  unfold jobDone
  dsimp only
  rw [h]

theorem advanceRing_stream {n : Nat} {s : State} (hw : regB s 0x6000 1 = false) :
    (advanceRing n s).tr.wpos = (if n = ringRowLen s s.tr.wpos then ringNext s s.tr.wpos else s.tr.wpos)
      ∧ (advanceRing n s).tr.wbuf = (if n = ringRowLen s s.tr.wpos then s.tr.wbuf.drop n else s.tr.wbuf)
      ∧ (advanceRing n s).tr.wold = (if n = ringRowLen s s.tr.wpos then 0 else n)
      ∧ reg (advanceRing n s) 0x6018 = BitVec.ofNat 32 (if n = ringRowLen s s.tr.wpos then ringNext s s.tr.wpos else s.tr.wpos + n)
      ∧ reg (advanceRing n s) 0x6020 = BitVec.ofNat 32 (regF s 0x6020 15 0 + (n - s.tr.wold))
      ∧ reg (advanceRing n s) 0x601C = reg s 0x601C ∧ (advanceRing n s).tr.eg = s.tr.eg := by
  have hwin : isWindow s = false := hw
  unfold advanceRing
  dsimp only
  rw [hwin, if_neg Bool.false_ne_true]
  have h18 : ∀ (v w : Word) (u : State), reg (setReg 0x6020 v (setReg 0x6018 w u)) 0x6018 = w := fun v w u => by
    rw [reg_setReg_ne (by decide), reg_setReg_self]
  have h1c : ∀ (v w : Word) (u : State), reg (setReg 0x6020 v (setReg 0x6018 w u)) 0x601C = reg u 0x601C := fun v w u => by
    rw [reg_setReg_ne (by decide), reg_setReg_ne (by decide)]
  rw [h18, h1c, reg_setReg_self]
  by_cases hf : n = ringRowLen s s.tr.wpos
  · rw [beq_iff_eq.mpr hf, if_pos hf, if_pos hf, if_pos hf, if_pos hf]
    exact ⟨rfl, rfl, rfl, rfl, rfl, rfl, rfl⟩
  · rw [beq_false_of_ne hf, if_neg hf, if_neg hf, if_neg hf, if_neg hf]
    exact ⟨rfl, rfl, rfl, rfl, rfl, rfl, rfl⟩

theorem ringRowLen_of_reg {s t : State} (h : reg t 0x12C4 = reg s 0x12C4) (p : Nat) : ringRowLen t p = ringRowLen s p := by
  unfold ringRowLen traceN
  rw [regF_eq_of_reg h]

theorem ringNext_of_reg {s t : State} (h : reg t 0x12C4 = reg s 0x12C4) (p : Nat) : ringNext t p = ringNext s p := by
  unfold ringNext traceN
  rw [regF_eq_of_reg h]

/-! Rows asked of IW10 (R432) -/

/-- No row of the ring stands asked. -/
theorem traceAsked_none {s : State} {l : List Tr} (h : ∀ T ∈ l, ∀ k, T.job ≠ .trace k) (a : Nat × Nat × Nat) : traceAsked s l a = a := by
  induction l with
  | nil => rfl
  | cons T l ih =>
    have ihl := ih fun U hU => h U (List.mem_cons_of_mem _ hU)
    unfold traceAsked
    split
    · exact ihl
    · split
      next n hj => exact absurd hj (h T List.mem_cons_self n)
      · exact ihl

/-- The write of `n` slots of a ring row: buffered slots before it, its ring slot, its slots written before. -/
def ringWrite (s : State) (a : Nat × Nat × Nat) (n : Nat) : Tr :=
  exchTr s 204 true (.trace n) (traceCls s)
    ((areaBeat (areaRow s 3 (a.2.1 / 8))).store (slotRow s a.2.1 ((s.tr.wbuf.drop a.1).take n)) 0 (BitVec.ofNat 4 (slotEn a.2.2 n)))

theorem askTraceRows_succ (part : Bool) (fuel : Nat) (s : State) {a : Nat × Nat × Nat} {n : Nat} (ha : traceAsked s s.fr.trs (0, s.tr.wpos, s.tr.wold) = a)
    (hn : min (s.tr.wbuf.length - a.1) (ringRowLen s a.2.1) = n) : askTraceRows part (fuel + 1) s
      = if n ≤ a.2.2 ∨ (n < ringRowLen s a.2.1 ∧ !part) then s else askTraceRows part fuel (addTr (ringWrite s a n) s) := by
  subst ha hn
  rfl

/-- Further rows of the ring asked behind the others. -/
def MoreRows (s t : State) : Prop := ∃ more, t.fr = { s.fr with nextId := t.fr.nextId, trs := s.fr.trs ++ more }
  ∧ ∀ T ∈ more, T.req = 204 ∧ T.kind = .iwr ∧ ∃ k, T.job = .trace k

theorem MoreRows.refl (s : State) : MoreRows s s := ⟨[], by simp, fun _ h => absurd h List.not_mem_nil⟩

/-- One row asked first. -/
theorem MoreRows.behind {s t : State} {T : Tr} (h : MoreRows (addTr T s) t) : ∃ more, t.fr = { s.fr with
      nextId := t.fr.nextId, trs := s.fr.trs ++ { T with id := s.fr.nextId } :: more }
    ∧ ∀ U ∈ more, U.req = 204 ∧ U.kind = .iwr ∧ ∃ k, U.job = .trace k := by
  obtain ⟨more, hm, hall⟩ := h
  refine ⟨more, hm.trans ?_, hall⟩
  simp [addTr]

theorem askTraceRows_more (part : Bool) (fuel : Nat) (s : State) : MoreRows s (askTraceRows part fuel s) := by
  induction fuel generalizing s with
  | zero => exact .refl s
  | succ fuel ih =>
    rw [askTraceRows_succ part fuel s rfl rfl]
    generalize traceAsked s s.fr.trs (0, s.tr.wpos, s.tr.wold) = a
    generalize min (s.tr.wbuf.length - a.1) (ringRowLen s a.2.1) = n
    split
    · exact .refl s
    · obtain ⟨more, hm, hall⟩ := (ih (addTr (ringWrite s a n) s)).behind
      refine ⟨_ :: more, hm, fun T hT => ?_⟩
      rcases List.mem_cons.mp hT with rfl | hT
      · exact ⟨rfl, rfl, n, rfl⟩
      · exact hall T hT

/-- What the writing of the write buffer asks: its first row, with its new slots' chunks, then the rows behind it. -/
theorem writeTrace_asks {part : Bool} {s : State} {n : Nat} (hn : n = min s.tr.wbuf.length (ringRowLen s s.tr.wpos)) (h0 : 0 < traceN s)
    (hold : s.tr.wold < n) (hno : ∀ T ∈ s.fr.trs, ∀ k, T.job ≠ .trace k) (hpart : part = true ∨ ringRowLen s s.tr.wpos ≤ s.tr.wbuf.length) :
    ∃ more, (writeTrace part s).fr = { s.fr with nextId := (writeTrace part s).fr.nextId, trs := s.fr.trs
        ++ { ringWrite s (0, s.tr.wpos, s.tr.wold) n with id := s.fr.nextId } :: more }
      ∧ ∀ T ∈ more, T.req = 204 ∧ T.kind = .iwr ∧ ∃ k, T.job = .trace k := by
  have hw : writeTrace part s = askTraceRows part 3 (addTr (ringWrite s (0, s.tr.wpos, s.tr.wold) n) s) := by
    unfold writeTrace
    rw [if_neg (by omega), askTraceRows_succ part 3 s (a := (0, s.tr.wpos, s.tr.wold)) (n := n) (traceAsked_none hno _) hn.symm, if_neg]
    rintro (h | ⟨h, hp⟩)
    · exact absurd hold (Nat.not_lt.mpr h)
    · rcases hpart with hpart | hpart
      · rw [hpart] at hp
        exact absurd hp (by decide)
      · dsimp only at h
        omega
  rw [hw]
  exact (askTraceRows_more part 3 _).behind

/-- The control register of the trace names no ring row, no class and no weight. -/
theorem ringWrite_of_ctl {s t : State} (h : ∀ o, o ≠ 0x6000 → reg t o = reg s o) (htr : t.tr = s.tr) (hc : t.cyc = s.cyc) (a : Nat × Nat × Nat)
    (n : Nat) : ringWrite t a n = ringWrite s a n := by
  have hf : ∀ {o : Nat} (hi lo : Nat), o ≠ 0x6000 → regF t o hi lo = regF s o hi lo := fun _ _ ho => regF_eq_of_reg (h _ ho)
  have hrow : ∀ i, areaRow t 3 i = areaRow s 3 i := fun i => by
    have he : (List.range 48).map (carveEnt t) = (List.range 48).map (carveEnt s) := List.map_congr_left fun n hn => by
      have : 0x1200 + 4 * n ≠ 0x6000 := by have := List.mem_range.mp hn; omega
      unfold carveEnt
      dsimp only
      rw [hf _ _ this, hf _ _ this, hf _ _ this, hf _ _ this]
    unfold areaRow carveOf
    rw [he]
  have hl := fun p => ringRowLen_of_reg (h 0x12C4 (by decide)) p
  unfold ringWrite exchTr slotRow traceCls icls portWeight
  rw [hrow, htr, hc, hl, hf _ _ (by decide), hf _ _ (by decide), hf _ _ (by decide), hf _ _ (by decide), hf _ _ (by decide), hf _ _ (by decide),
    hf _ _ (by decide)]

/-- What IW10 is asked: the first row's new slots, then rows behind it. -/
def RowsAsked (n : Nat) (s t : State) : Prop := ∃ more, t.fr = { s.fr with nextId := t.fr.nextId, trs := s.fr.trs
    ++ { ringWrite s (0, s.tr.wpos, s.tr.wold) n with id := s.fr.nextId } :: more }
  ∧ ∀ T ∈ more, T.req = 204 ∧ T.kind = .iwr ∧ ∃ k, T.job = .trace k

theorem RowsAsked.of_fr {n : Nat} {s t u : State} (h : RowsAsked n s t) (hu : u.fr = t.fr) : RowsAsked n s u := by
  unfold RowsAsked
  rw [hu]
  exact h

/-- Clearing EN asks for the rows that stand in the write buffer as they were. -/
theorem writeTraceCtl_asks {w : Word} {s : State} {n : Nat} (he : regB s 0x6000 0 = true) (hw : w.getLsbD 0 = false)
    (hp : w.getLsbD 1 = regB s 0x6000 1) (hn : n = min s.tr.wbuf.length (ringRowLen s s.tr.wpos)) (h0 : 0 < traceN s)
    (hold : s.tr.wold < n) (hno : ∀ T ∈ s.fr.trs, ∀ k, T.job ≠ .trace k) : RowsAsked n s (writeTraceCtl w s) := by
  have hreg : ∀ o, o ≠ 0x6000 → reg (setReg 0x6000 (w &&& 0x37) s) o = reg s o := fun o ho => reg_setReg_ne ho _ s
  have h12 := hreg 0x12C4 (by decide)
  have hN : traceN (setReg 0x6000 (w &&& 0x37) s) = traceN s := by
    unfold traceN
    rw [regF_eq_of_reg h12]
  have hasks := writeTrace_asks (part := true) (s := setReg 0x6000 (w &&& 0x37) s) (n := n) (hn.trans (by rw [ringRowLen_of_reg h12]; rfl))
    (by rw [hN]; exact h0) hold hno (.inl rfl)
  rw [ringWrite_of_ctl hreg rfl rfl] at hasks
  rw [writeTraceCtl_disables he hw hp]
  exact hasks

theorem writeTraceCtl_reg {w : Word} {s : State} (he : regB s 0x6000 0 = true) (hw : w.getLsbD 0 = false)
    (hp : w.getLsbD 1 = regB s 0x6000 1) (o : Nat) : reg (writeTraceCtl w s) o = reg (setReg 0x6000 (w &&& 0x37) s) o := by
  rw [writeTraceCtl_disables he hw hp]
  rw [reg, reg, (writeTrace_only true _) .regs (by decide)]

/-- The three ways to ask the write buffer's rows, and the clearing of EN. -/
theorem rowsAreAsked (s : State) (hr : inReset s = false) (h0 : 0 < traceN s)
    (hold : s.tr.wold < min s.tr.wbuf.length (ringRowLen s s.tr.wpos)) (hno : ∀ T ∈ s.fr.trs, ∀ k, T.job ≠ .trace k) :
    let n := min s.tr.wbuf.length (ringRowLen s s.tr.wpos)
    let asked : List Part → List Span → State → Prop := fun ps xs t => Only ps s t ∧ Within xs s t ∧ RowsAsked n s t
    (ringRowLen s s.tr.wpos ≤ s.tr.wbuf.length → ∃ t, exec .traceRowWrite s = .next t ∧ asked [.fr] [] t)
    ∧ (256 ≤ s.tr.quiet → ∃ t, exec .traceRowTimeout s = .next t ∧ asked [.fr] [] t)
    ∧ (∀ a : BusAcc, accepts a true 0x6010 s → ∃ t, exec (.traceFlush a) s = .next t ∧ answered 0 t ∧ asked [.bus, .fr] [] t)
    ∧ (∀ (a : BusAcc) (w : Word), accepts a true 0x6000 s → regB s 0x6000 0 = true → w.getLsbD 0 = false → w.getLsbD 1 = regB s 0x6000 1 →
        ∃ t, exec (.traceDisable a w) s = .next t ∧ answered 0 t ∧ asked [.regs, .bus, .fr] [⟨0x6000, 0, 1⟩] t ∧ reg t 0x6000 = w &&& 0x37) := by
  have ho := fun part => writeTrace_only part s
  have hin : ∀ part, Within [] s (writeTrace part s) := fun part => .of_only (ho part) (by decide)
  refine ⟨fun hfull => ⟨_, congrArg Host.Outcome.next (if_neg (by rw [hr]; exact Bool.false_ne_true)), ho _, hin _, writeTrace_asks rfl h0 hold hno (.inr hfull)⟩,
    fun hq => ⟨_, congrArg Host.Outcome.next (if_pos (by rw [hr, decide_eq_true hq]; rfl)), ho _, hin _, writeTrace_asks rfl h0 hold hno (.inl rfl)⟩,
    fun a ha => ?_, fun a w ha he hw hp => ?_⟩
  · obtain ⟨t, ht, hans, hot, hint, _⟩ := written ha (writeTrace true)
    have hrows : RowsAsked _ s (writeTrace true s) := writeTrace_asks rfl h0 hold hno (.inl rfl)
    exact ⟨t, ht, hans, ((ho true).mono (by decide)).trans (hot.mono (by decide)), (hin true).trans hint, hrows.of_fr (hot .fr (by decide))⟩
  · obtain ⟨t, ht, hans, hot, hint, hregt⟩ := written ha (writeTraceCtl w)
    have hreg := writeTraceCtl_reg he hw hp
    have hk : Only [.regs, .fr] s (writeTraceCtl w s) := by
      rw [writeTraceCtl_disables he hw hp]
      exact ((setReg_only _ _ s).mono (by decide)).trans ((writeTrace_only true _).mono (by decide))
    have hi : Within [⟨0x6000, 0, 1⟩] s (writeTraceCtl w s) := by
      rw [writeTraceCtl_disables he hw hp]
      exact (setReg_within _ _ s).trans (.of_only (writeTrace_only true _) (by decide))
    exact ⟨t, ht, hans, ⟨(hk.mono (by decide)).trans (hot.mono (by decide)), hi.trans (hint.mono (by decide)),
        (writeTraceCtl_asks he hw hp rfl h0 hold hno).of_fr (hot .fr (by decide))⟩,
      (hregt _).trans ((hreg _).trans (reg_setReg_self ..))⟩

/-- The array write of IW10's next row moves the write position. -/
theorem ringRow_written {bank : Nat} {port : Bool} {par : Parity} {s : State} {T : Tr} {i n : Nat} {b : Beat} {pre post : List Tr} (hr : arraysGo s = true)
    (hn : nextBeat s bank port [.wr, .parkWr, .iwr] = some (T, i)) (hb : T.beats = [b]) (hj : T.job = .trace n)
    (hp : T.passed = []) (hk : T.kind = .iwr) (hf : FreshIds s) (hport : portTrs s 204 = pre ++ T :: post) (hpre : ∀ U ∈ pre, U.passed ≠ [])
    (hpost : ∀ U ∈ post, U.passed = [] ∧ rowsDone U = false) :
    ∃ u, exec (.arrayWrite bank port par) s = .next (advanceRing n u) ∧ u.tr = s.tr ∧ ∀ o, reg u o = reg s o := by
  have hreq : T.req = 204 := by
    have hm : T ∈ portTrs s 204 := hport ▸ List.mem_append_right _ List.mem_cons_self
    exact (by simpa using (List.mem_filter.mp hm).2 : T.req = 204 ∧ (T.kind = .ird ∨ T.kind = .iwr)).1
  obtain ⟨u, he, ho, -, -⟩ := exec_portWrite (par := par) hr hf hn hk hb hp (hreq ▸ hport) hpre hpost
  rw [jobDone_trace hj] at he
  exact ⟨u, he, ho .tr (by decide), fun o => by rw [reg, reg, ho .regs (by decide)]⟩

/-- A one-slot record passes to egress where it is enabled and has room (R437). -/
theorem egressRec_slot {r : Rec} {s : State} (hraw : r.raw = []) (hE : s.tr.lossE.n = 0) (hroom : s.tr.eg.length < 32) :
    egressRec r s = { s with tr := { s.tr with eg := s.tr.eg ++ (if regB s 0x6000 2 = true then [(r.head, true)] else []) } } := by
  have hpush : pushEgress r s = { s with tr := { s.tr with eg := s.tr.eg ++ [(r.head, true)] } } := by
    unfold pushEgress Rec.slots
    rw [hraw]
    rfl
  have hn : s.tr.eg.length + (r.raw.length + 1) + b2n (s.tr.lossE.n != 0) ≤ 32 := by
    rw [hraw, hE]
    exact hroom
  have hgap : egressGap (r.raw.length + 1) s = s := if_pos hE
  unfold egressRec
  dsimp only
  cases h : regB s 0x6000 2
  · refine (if_pos rfl).trans ?_
    rw [if_neg Bool.false_ne_true, List.append_nil]
  · refine (if_neg (by decide)).trans ?_
    rw [if_pos hn, hgap, if_pos rfl]
    exact hpush

/-- The stream policy's record enters the write buffer where the ring has room (R432, R433). -/
theorem bufferRec_slot {r : Rec} {s : State} (hraw : r.raw = []) (hw : regB s 0x6000 1 = false) (hB : s.tr.lossB.n = 0) (hN : traceN s ≠ 0)
    (hring : 1 ≤ ringFree s) :
    bufferRec r s = { s with tr := { s.tr with wbuf := s.tr.wbuf ++ [r.head], post := s.tr.post.map (· - 1), quiet := 0 } } := by
  have hwin : isWindow s = false := hw
  have htakes : ringTakes (r.raw.length + 1) s = true := by
    unfold ringTakes
    rw [hwin, hraw, hB, if_neg Bool.false_ne_true]
    exact decide_eq_true hring
  have hfrozen : traceFrozen s = false := by
    unfold traceFrozen
    rw [hwin, Bool.false_and]
  have hgap : acceptGap (r.raw.length + 1) s = s := if_pos hB
  have haccept : acceptRec r s = { s with tr := { s.tr with wbuf := s.tr.wbuf ++ [r.head], post := s.tr.post.map (· - 1), quiet := 0 } } := by
    unfold acceptRec
    dsimp only
    have hwin' : ∀ x : TraceSt, isWindow { s with tr := x } = false := fun _ => hw
    rw [if_neg (fun h => absurd h.2 (by rw [hwin']; exact Bool.false_ne_true)), hwin, if_neg Bool.false_ne_true, Bool.false_and, Bool.or_false]
    unfold Rec.slots
    rw [hraw]
    rfl
  unfold bufferRec
  rw [if_neg hN]
  refine (if_pos htakes).trans ?_
  rw [hgap]
  exact (if_neg (by rw [hfrozen]; exact Bool.false_ne_true)).trans haccept

/-- The input queue's only record passes on, and no other follows. -/
theorem drainTrace_slot {r : Rec} {s : State} (k : Nat) (hq : s.tr.inq = [r]) (hraw : r.raw = []) (ht : r.typ ≠ 6) (hw : regB s 0x6000 1 = false)
    (hB : s.tr.lossB.n = 0) (hE : s.tr.lossE.n = 0) (hN : traceN s ≠ 0) (hring : 1 ≤ ringFree s) (hroom : wbufRoom 1 s = true)
    (heg : s.tr.eg.length < 32) : drainTrace (k + 2) s = { s with tr := { s.tr with
      inq := [], wbuf := s.tr.wbuf ++ [r.head], post := s.tr.post.map (· - 1), quiet := 0
      eg := s.tr.eg ++ (if regB s 0x6000 2 = true then [(r.head, true)] else []) } } := by
  have hpass : wbufRoom (r.raw.length + 1 + (if s.tr.lossB.n = 0 then 0 else 2)) s = true := by
    rw [hraw, if_pos hB]
    exact hroom
  unfold drainTrace
  rw [hq]
  dsimp only
  rw [if_pos (.inr hpass), if_neg ht, egressRec_slot (s := { s with tr := { s.tr with inq := [] } }) hraw hE heg,
    bufferRec_slot hraw (by exact hw) (by exact hB) (by exact hN) (by exact hring)]
  rfl

/-- A one-slot record joins the empty input queue and is counted (R430). -/
theorem collectOne_slot {r : Rec} {s : State} (hraw : r.raw = []) (ht : r.typ ≠ 6) (hq : s.tr.inq = []) (hc : s.tr.carry = 0) :
    collectOne r (0, s) = (1, bump 0x5A48 1 { s with tr := { s.tr with inq := [r] } }) := by
  unfold collectOne inqSlots
  dsimp only
  rw [if_neg ht, hraw, hq, hc, if_pos (by decide)]
  refine Prod.ext rfl (congrArg (bump 0x5A48 1) ?_)
  rw [show s.tr = { s.tr with carry := 0 } by rw [← hc]]
  rfl

theorem only_tr (s : State) (x : TraceSt) : Only [.tr] s { s with tr := x } := by
  intro p hp
  cases p
  case tr => exact absurd (List.mem_singleton.mpr rfl) hp
  all_goals exact rfl

/-- COLLECT of one record of one slot (R430, R432). -/
theorem exec_collect_slot {r : Rec} {s : State} (hr : inReset s = false) (hw : regB s 0x6000 1 = false) (hg : s.tr.gen = [r]) (hraw : r.raw = [])
    (ht : r.typ ≠ 6) (hq : s.tr.inq = []) (hc : s.tr.carry = 0) (hB : s.tr.lossB.n = 0) (hE : s.tr.lossE.n = 0)
    (hring : regF s 0x6020 15 0 + (s.tr.wbuf.length - s.tr.wold) + 1 ≤ ringSlots s)
    (hroom : s.tr.wbuf.length + 1 ≤ wbufCap s ∨ s.tr.wbuf.length < ringRowLen s s.tr.wpos) (heg : s.tr.eg.length < 32) :
    exec .collect s = .next { bump 0x5A48 1 s with tr := { s.tr with
      gen := [], quiet := 0, wbuf := s.tr.wbuf ++ [r.head], post := s.tr.post.map (· - 1)
      eg := s.tr.eg ++ (if regB s 0x6000 2 = true then [(r.head, true)] else []) } } := by
  have hfree : 1 ≤ ringFree s := by
    unfold ringFree wbufNew
    omega
  have hN : traceN s ≠ 0 := fun h => by
    unfold ringSlots at hring
    omega
  have hpass : wbufRoom 1 s = true := by
    unfold wbufRoom
    simpa using hroom
  have hsort : ordSort (fun a b => decide (recRank a < recRank b)) s.tr.gen = [r] := by
    rw [hg]
    rfl
  refine congrArg Host.Outcome.next ((if_neg (by rw [hr]; exact Bool.false_ne_true)).trans ?_)
  dsimp only
  rw [hsort, hc]
  refine (congrArg (fun x => drainTrace 64 (collectGo [] x)) (collectOne_slot (s := { s with tr :=
    { s.tr with gen := [], carry := 0, quiet := s.tr.quiet + 1 } }) hraw ht hq rfl)).trans ?_
  refine (drainTrace_slot 62 rfl hraw ht (by exact hw) (by exact hB) (by exact hE) (by exact hN) (by exact hfree) (by exact hpass)
    (by exact heg)).trans ?_
  rw [show s.tr = { s.tr with inq := [], carry := 0 } by rw [← hq, ← hc]]
  rfl

/-- Settles O56: the collector, the rows asked of IW10 and the array write of a row. -/
theorem recordsReachTheRing : Obligations.RecordsReachTheRing := by
  unfold Obligations.RecordsReachTheRing
  refine ⟨fun r s hr hw hg hraw ht hq hc hB hE hring hroom heg => ⟨_, exec_collect_slot hr hw hg hraw ht hq hc hB hE hring hroom heg, ?_, ?_,
      (cnt_bump ..).trans (if_pos rfl), rfl⟩,
    fun s => rowsAreAsked s, fun bank port par s T i n b pre post hr hw hn hb hj hp hk hf hport hpre hpost _ _ => ?_⟩
  · exact ((bump_only 0x5A48 1 s).mono (by decide)).trans ((only_tr _ _).mono (by decide))
  · exact bump_within 0x5A48 1 s
  · obtain ⟨u, he, htr, hreg⟩ := ringRow_written (par := par) hr hn hb hj hp hk hf hport hpre hpost
    obtain ⟨hpos, hbuf, hold, h18, h20, h1c, heg⟩ := advanceRing_stream (n := n) (s := u) ((regB_eq_of_reg (hreg _)).trans hw)
    rw [htr, ringRowLen_of_reg (hreg _)] at hbuf hold
    rw [htr, ringRowLen_of_reg (hreg _), ringNext_of_reg (hreg _)] at hpos h18
    rw [htr] at h20 heg
    rw [regF_eq_of_reg (hreg _)] at h20
    exact ⟨_, he, hpos, hbuf, hold, h18, h20, h1c.trans (hreg _), heg⟩

end Sys2Proof.Machine
end

section
/-!
PROOFS. Forwardings (R464 to R475).
-/
namespace Sys2Proof.Machine

/-! How a forwarding ends (R475) -/

/-- A forwarding has left its entry, and its cause. -/
def Ended (s : State) (kind : Nat) (nospare : Bool) (unit dest trig : Nat) (t : State) : Prop := regB t 0x7000 10 = true
  ∧ t.fw.ents = s.fw.ents ++ [BitVec.ofNat 64 (kind + 8 * b2n nospare + 16 * unit + 65536 * dest + 2 ^ 24 * trig + 2 ^ 32 * bits s.tm.t.toNat 61 30)]

theorem fwdEntryOf_eq (kind : Nat) (nospare : Bool) (unit dest trig : Nat) (s : State) : fwdEntryOf kind nospare unit dest trig s
    = BitVec.ofNat 64 (kind + 8 * b2n nospare + 16 * unit + 65536 * dest + 2 ^ 24 * trig + 2 ^ 32 * bits s.tm.t.toNat 61 30) := by
  have hf : ∀ v n, fld v n = 2 ^ n * v := fun v n => (Nat.shiftLeft_eq v n).trans (Nat.mul_comm ..)
  unfold fwdEntryOf
  rw [hf, hf, hf, hf, hf]
  rfl

theorem fwdDone_ended {s u : State} (kind : Nat) (nospare : Bool) (unit dest trig : Nat) (hents : u.fw.ents = s.fw.ents) (htm : u.tm = s.tm) :
    Ended s kind nospare unit dest trig (fwdDone kind nospare unit dest trig u) := by
  refine ⟨raise_sets 10 _, ?_⟩
  rw [fwdDone_fw]
  dsimp only
  rw [hents, fwdEntryOf_of_tm htm, fwdEntryOf_eq]

theorem finishMig_ended (m : Mig) (held : Option PowReq) (tail : Option Mig) (s : State) :
    Ended s 0 false m.lb m.pb m.trig (finishMig m held tail s) :=
  ⟨finishMig_reports m held tail s, (finishMig_fw m held tail s).2.trans (by rw [fwdEntryOf_eq])⟩

/-- The pending bit of a unit is cleared, and no other. -/
def Unpended (s : State) (k : Nat) (t : State) : Prop := ∀ j, NMap.get 0 t.fw.pend j = (if j = k then 0 else NMap.get 0 s.fw.pend j)
  ∧ NMap.get false t.fw.cmd j = if j = k then false else NMap.get false s.fw.cmd j

theorem unpend_unpended (kind unit : Nat) (s : State) : Unpended s (unitKey kind unit) (unpend kind unit s) :=
  fun j => ⟨NMap.get_set 0 s.fw.pend 0 _ j, NMap.get_set false s.fw.cmd false _ j⟩

theorem Unpended.of_fw {s t u : State} {k : Nat} (h : Unpended s k t) (hp : u.fw.pend = t.fw.pend) (hc : u.fw.cmd = t.fw.cmd) : Unpended s k u := by
  unfold Unpended
  rw [hp, hc]
  exact h

theorem only_fw (s : State) (x : FwdSt) : Only [.fw] s { s with fw := x } := by
  intro p hp
  cases p
  case fw => exact absurd (List.mem_singleton.mpr rfl) hp
  all_goals exact rfl

/-! The start of a bank's forwarding (R464, R465) -/

/-- The start is the unit's, in a running block with room for the entry. -/
theorem exec_fwdStart_bank {s : State} {lb : Nat} (hr : running s = true) (he : entryRoom s = true) (hm : s.fw.mig = none)
    (hn : nextBank s = some lb) : exec (.fwdStart .bank) s = .next (startBank lb s) := by
  refine congrArg Host.Outcome.next ((if_neg (by rw [hr, he]; decide)).trans ?_)
  dsimp only
  rw [hm, hn]
  exact if_neg (by decide)

/-- The migration of a bank is set up on its spare. -/
def migSet (lb pb : Nat) (rest : List Nat) (s : State) : State :=
  { unpend 0 lb s with fw := { (unpend 0 lb s).fw with spB := rest, mig := some ⟨lb, pb, 1, 0, 0, trigOf s 0 lb, []⟩ } }

theorem startBank_wakes {s : State} {lb pb : Nat} {rest : List Nat} (hs : s.fw.spB = pb :: rest) (ht : (powOf s (pbankOf s lb)).trans = none)
    (hst : (powOf s (pbankOf s lb)).st = 2) : startBank lb s = setPow pb ((powOf s pb).request ⟨2, false⟩) (migSet lb pb rest s) := by
  have hs' : (unpend 0 lb s).fw.spB = pb :: rest := hs
  have ht' : (powOf (unpend 0 lb s) (pbankOf (unpend 0 lb s) lb)).trans = none := ht
  have hst' : (powOf (unpend 0 lb s) (pbankOf (unpend 0 lb s) lb)).st = 2 := hst
  unfold startBank
  dsimp only
  rw [hs']
  dsimp only
  rw [ht', hst']
  exact if_neg (by simp)

theorem startBank_maps {s : State} {lb pb : Nat} {rest : List Nat} (hs : s.fw.spB = pb :: rest) (ht : (powOf s (pbankOf s lb)).trans = none)
    (hst : (powOf s (pbankOf s lb)).st = 0) (hw : (powOf s (pbankOf s lb)).wait = none) :
    startBank lb s = finishMig ⟨lb, pb, 1, 0, 0, trigOf s 0 lb, []⟩ (powOf s (pbankOf s lb)).held none (migSet lb pb rest s) := by
  have hs' : (unpend 0 lb s).fw.spB = pb :: rest := hs
  have ht' : (powOf (unpend 0 lb s) (pbankOf (unpend 0 lb s) lb)).trans = none := ht
  have hst' : (powOf (unpend 0 lb s) (pbankOf (unpend 0 lb s) lb)).st = 0 := hst
  have hw' : (powOf (unpend 0 lb s) (pbankOf (unpend 0 lb s) lb)).wait = none := hw
  unfold startBank
  dsimp only
  rw [hs']
  dsimp only
  rw [ht', hst', hw']
  exact if_pos (by decide)

theorem startBank_degrades {s : State} {lb : Nat} (hs : s.fw.spB = []) (hl : lb < 96) (hd : regB s (0x7078 + 4 * (lb / 32)) (lb % 32) = false) :
    startBank lb s = raise 15 (orReg (0x7078 + 4 * (lb / 32)) (2 ^ (lb % 32)) (unpend 0 lb s)) := by
  have hs' : (unpend 0 lb s).fw.spB = [] := hs
  have h3 : lb / 32 % 3 = lb / 32 := Nat.mod_eq_of_lt (by omega)
  have hd' : bankDegraded (unpend 0 lb s) lb = false := by
    exact hd
  unfold startBank
  dsimp only
  rw [hs']
  dsimp only
  rw [hd', h3]
  exact if_neg (by decide)

/-- The forwarding of a bank that starts. -/
theorem bankStarts {s : State} {lb : Nat} (hr : running s = true) (he : entryRoom s = true) (hm : s.fw.mig = none) (hn : nextBank s = some lb) :
    (∀ pb rest, s.fw.spB = pb :: rest → (powOf s (pbankOf s lb)).trans = none → (powOf s (pbankOf s lb)).st = 2 →
      ∃ t, exec (.fwdStart .bank) s = .next t ∧ Only [.bank, .fw] s t ∧ Unpended s (unitKey 0 lb) t
        ∧ t.fw = { s.fw with pend := t.fw.pend, cmd := t.fw.cmd, spB := rest, mig := some ⟨lb, pb, 1, 0, 0, trigOf s 0 lb, []⟩ }
        ∧ t.bank = { s.bank with pow := t.bank.pow } ∧ ∀ b, powOf t b = if b = pb then (powOf s pb).request ⟨2, false⟩ else powOf s b)
    ∧ (∀ pb rest, s.fw.spB = pb :: rest → (powOf s (pbankOf s lb)).trans = none → (powOf s (pbankOf s lb)).st = 0 →
      (powOf s (pbankOf s lb)).wait = none → lb < 96 → pb < 100 → pbankOf s lb < 100 →
      ∃ t, exec (.fwdStart .bank) s = .next t ∧ Only [.regs, .bank, .fr, .tr, .dbg, .fw] s t ∧ t.fw.mig = none ∧ t.fw.spB = rest
        ∧ (∀ i, i < 96 → pbankOf t i = if i = lb then pb else pbankOf s i) ∧ Ended s 0 false lb pb (trigOf s 0 lb) t)
    ∧ (s.fw.spB = [] → lb < 96 → regB s (0x7078 + 4 * (lb / 32)) (lb % 32) = false →
      ∃ t, exec (.fwdStart .bank) s = .next t ∧ Only [.regs, .tr, .dbg, .fw] s t ∧ Unpended s (unitKey 0 lb) t
        ∧ Within ([⟨0x7078 + 4 * (lb / 32), 0, 1⟩] ++ eventRegs) s t ∧ regB t (0x7078 + 4 * (lb / 32)) (lb % 32) = true
        ∧ regB t 0x7000 15 = true ∧ t.fw.mig = none) := by
  rw [exec_fwdStart_bank hr he hm hn]
  have hfw : ∀ pb rest, Only [.fw] s (migSet lb pb rest s) := fun pb rest => only_fw s _
  refine ⟨fun pb rest hs ht hst => ⟨_, congrArg _ (startBank_wakes hs ht hst), ?_, unpend_unpended 0 lb s, rfl, rfl, fun b => powOf_setPow pb b _ _⟩,
    fun pb rest hs ht hst hw hl hp _ => ⟨_, congrArg _ (startBank_maps hs ht hst hw), ?_, (finishMig_fw ..).1, ?_, fun i hi => ?_, ?_⟩,
    fun hs hl hd => ⟨_, congrArg _ (startBank_degrades hs hl hd), ?_, ?_, ?_, ?_, raise_sets 15 _, ?_⟩⟩
  · exact ((hfw pb rest).mono (by decide)).trans ((setPow_only _ _ _).mono (by decide))
  · exact ((hfw pb rest).mono (by decide)).trans ((finishMig_only _ _ _ _).mono (by decide))
  · rw [finishMig_eq, fwdDone_fw, migMoved_fw]
    rfl
  · exact (finishMig_map (m := ⟨lb, pb, 1, 0, 0, trigOf s 0 lb, []⟩) hl hi hp)
  · exact finishMig_ended ⟨lb, pb, 1, 0, 0, trigOf s 0 lb, []⟩ _ none (migSet lb pb rest s)
  · exact (((only_fw s _).mono (by decide)).trans ((orReg_only _ _ _).mono (by decide))).trans ((raise_only _ _).mono (by decide))
  · exact (unpend_unpended 0 lb s).of_fw (by rw [raise_fw]; rfl) (by rw [raise_fw]; rfl)
  · exact Within.raised (orReg_within _ _ (unpend 0 lb s)) 15
  · exact (regB_eq_of_reg (raise_reg_high (by omega))).trans (by rw [regB_orReg_bit (Nat.mod_lt _ (by decide))]; simp)
  · rw [raise_fw]
    exact hm

/-! The start of a plane's, a cluster's and a statistic row's forwarding (R464, R471 to R473) -/

theorem exec_fwdStart_plane {s : State} {kind k : Nat} (hr : running s = true) (he : entryRoom s = true) (hp : s.fw.plane = none)
    (hn : nextPlane s = some (kind, k)) : exec (.fwdStart .plane) s = .next (startPlane kind k s) := by
  refine congrArg Host.Outcome.next ((if_neg (by rw [hr, he]; decide)).trans ?_)
  dsimp only
  rw [hp, hn]
  exact if_neg (by decide)

theorem exec_fwdStart_cluster {s : State} {c : Nat} (hr : running s = true) (he : entryRoom s = true) (hp : s.fw.cluster = none)
    (hn : (List.range 9).find? (fun c => mayForward s 3 c) = some c) : exec (.fwdStart .cluster) s = .next (startCluster c s) := by
  refine congrArg Host.Outcome.next ((if_neg (by rw [hr, he]; decide)).trans ?_)
  dsimp only
  rw [hp, hn]
  exact if_neg (by decide)

theorem exec_fwdStart_row {s : State} {row : Nat} (hr : running s = true) (he : entryRoom s = true) (hp : s.fw.stat = none)
    (hn : (List.range 4096).find? (fun r => mayForward s 4 r) = some row) : exec (.fwdStart .statRow) s = .next (startRow row s) := by
  refine congrArg Host.Outcome.next ((if_neg (by rw [hr, he]; decide)).trans ?_)
  dsimp only
  rw [hp, hn]
  exact if_neg (by decide)

/-- A spare's domain is asked for On, by its request bit and its power (R338). -/
theorem wakeSpare_asks {i : Nat} (hi : i < 32) (s : State) : Only [.regs, .pw] s (wakeSpare i s) ∧ Within [⟨0x40A0, 0, 1⟩] s (wakeSpare i s)
    ∧ regB (wakeSpare i s) 0x40A0 i = true ∧ ∀ j, domOf (wakeSpare i s) j = if j = i then (domOf s i).request ⟨2, false⟩ else domOf s j := by
  refine ⟨wakeSpare_only i s, orReg_within 0x40A0 (2 ^ i) s, ?_, fun j => domOf_setDom i j _ _⟩
  have h : regB (orReg 0x40A0 (2 ^ i) s) 0x40A0 i = true := by rw [regB_orReg_bit hi]; simp
  exact h

/-- The planes of the network set. -/
theorem planesOf_setPlanes (kind : Nat) (act sp : BitVec 18) (s : State) : planesOf (setPlanes kind act sp s) kind = (act, sp) := by
  unfold planesOf setPlanes
  split <;> rfl

theorem planesOf_of_fw {s t : State} (h : t.fw = s.fw) (kind : Nat) : planesOf t kind = planesOf s kind := by
  unfold planesOf
  rw [h]

/-- What the setting of the planes leaves of the forwardings. -/
theorem setPlanes_fw (kind : Nat) (act sp : BitVec 18) (s : State) : (setPlanes kind act sp s).fw.plane = s.fw.plane
    ∧ (setPlanes kind act sp s).fw.pend = s.fw.pend ∧ (setPlanes kind act sp s).fw.cmd = s.fw.cmd ∧ (setPlanes kind act sp s).fw.ents = s.fw.ents := by
  unfold setPlanes
  split <;> exact ⟨rfl, rfl, rfl, rfl⟩

/-- The forwarding of a plane is set up on its spare. -/
def planeSet (kind k j : Nat) (s : State) : State :=
  setPlanes kind (planesOf s kind).1 ((planesOf s kind).2 &&& ~~~ BitVec.ofNat 18 (2 ^ j))
    { unpend kind k s with fw := { (unpend kind k s).fw with plane := some ⟨kind, k, j + 1, trigOf s kind k⟩ } }

theorem startPlane_wakes {s : State} {kind k j : Nat} (hc : 1 < ncount ((List.range 18).map (planesOf s kind).1.getLsbD))
    (hj : j = 16 ∧ (planesOf s kind).2.getLsbD 16 = true ∨ j = 17 ∧ (planesOf s kind).2.getLsbD 16 = false ∧ (planesOf s kind).2.getLsbD 17 = true) :
    startPlane kind k s = wakeSpare j (planeSet kind k j s) := by
  have hp : planesOf (unpend kind k s) kind = planesOf s kind := rfl
  have hf : [16, 17].find? (fun j => (planesOf s kind).2.getLsbD j) = some j := by
    rcases hj with ⟨rfl, h⟩ | ⟨rfl, h, h'⟩
    · rw [List.find?_cons, h]
    · rw [List.find?_cons, h, List.find?_cons, h']
  unfold startPlane
  dsimp only
  rw [hp, if_neg (by omega), hf]
  rfl

theorem planeStarts {s : State} {kind k j : Nat} (hr : running s = true) (he : entryRoom s = true) (hp : s.fw.plane = none)
    (hn : nextPlane s = some (kind, k)) (hc : 1 < ncount ((List.range 18).map (planesOf s kind).1.getLsbD))
    (hj : j = 16 ∧ (planesOf s kind).2.getLsbD 16 = true ∨ j = 17 ∧ (planesOf s kind).2.getLsbD 16 = false ∧ (planesOf s kind).2.getLsbD 17 = true) :
    ∃ t, exec (.fwdStart .plane) s = .next t ∧ Only [.regs, .fw, .pw] s t ∧ Unpended s (unitKey kind k) t ∧ Within [⟨0x40A0, 0, 1⟩] s t
      ∧ t.fw.plane = some ⟨kind, k, j + 1, trigOf s kind k⟩ ∧ (planesOf t kind).1 = (planesOf s kind).1
      ∧ (∀ i, i < 18 → (planesOf t kind).2.getLsbD i = ((planesOf s kind).2.getLsbD i && i != j))
      ∧ regB t 0x40A0 j = true ∧ ∀ i, domOf t i = if i = j then (domOf s j).request ⟨2, false⟩ else domOf s i := by
  have hj32 : j < 32 := by omega
  have hset : Only [.fw] s (planeSet kind k j s) := (only_fw s _).trans (setPlanes_only kind _ _ _)
  obtain ⟨hplane, hpend, hcmd, -⟩ := setPlanes_fw kind (planesOf s kind).1 ((planesOf s kind).2 &&& ~~~ BitVec.ofNat 18 (2 ^ j))
    { unpend kind k s with fw := { (unpend kind k s).fw with plane := some ⟨kind, k, j + 1, trigOf s kind k⟩ } }
  obtain ⟨ho, hw, hreg, hdom⟩ := wakeSpare_asks hj32 (planeSet kind k j s)
  have hfw : (wakeSpare j (planeSet kind k j s)).fw = (planeSet kind k j s).fw := ho .fw (by decide)
  have hplanes : planesOf (wakeSpare j (planeSet kind k j s)) kind = ((planesOf s kind).1, (planesOf s kind).2 &&& ~~~ BitVec.ofNat 18 (2 ^ j)) :=
    (planesOf_of_fw hfw kind).trans (planesOf_setPlanes ..)
  refine ⟨_, (exec_fwdStart_plane hr he hp hn).trans (congrArg _ (startPlane_wakes hc hj)), (hset.mono (by decide)).trans (ho.mono (by decide)),
    (unpend_unpended kind k s).of_fw ((congrArg FwdSt.pend hfw).trans hpend) ((congrArg FwdSt.cmd hfw).trans hcmd),
    (Within.of_only hset (by decide)).trans hw, (congrArg FwdSt.plane hfw).trans hplane, by rw [hplanes], fun i hi => ?_, hreg, fun i => ?_⟩
  · rw [hplanes]
    simp only [BitVec.getLsbD_and, BitVec.getLsbD_not, BitVec.getLsbD_ofNat, Nat.testBit_two_pow, decide_eq_true hi, Bool.true_and]
    by_cases h : i = j
    · simp [h]
    · simp [h, Ne.symm h]
  · rw [hdom, domOf_of_pw (hset .pw (by decide)), domOf_of_pw (hset .pw (by decide))]

theorem clusterStarts {s : State} {c : Nat} (hr : running s = true) (he : entryRoom s = true) (hp : s.fw.cluster = none)
    (hn : (List.range 9).find? (fun c => mayForward s 3 c) = some c) (hsp : s.fw.spC.getLsbD 8 = true) :
    ∃ t, exec (.fwdStart .cluster) s = .next t ∧ Only [.regs, .fw, .pw] s t ∧ Unpended s (unitKey 3 c) t ∧ Within [⟨0x40A0, 0, 1⟩] s t
      ∧ t.fw.cluster = some ⟨3, c, 9, trigOf s 3 c⟩ ∧ t.fw.cl = s.fw.cl ||| 0x100 ∧ t.fw.spC = 0
      ∧ regB t 0x40A0 26 = true ∧ ∀ i, domOf t i = if i = 26 then (domOf s 26).request ⟨2, false⟩ else domOf s i := by
  have hx : (unpend 3 c s).fw.spC.getLsbD 8 = true := hsp
  obtain ⟨ho, hw, hreg, hdom⟩ := wakeSpare_asks (i := 26) (by decide)
    { unpend 3 c s with fw := { (unpend 3 c s).fw with spC := 0, cl := s.fw.cl ||| 0x100, cluster := some ⟨3, c, 9, trigOf s 3 c⟩ } }
  exact ⟨_, (exec_fwdStart_cluster hr he hp hn).trans (congrArg Host.Outcome.next (if_pos hx)),
    ((only_fw s _).mono (by decide)).trans (ho.mono (by decide)), unpend_unpended 3 c s, hw, rfl, rfl, rfl, hreg, hdom⟩

/-- A statistic row is replaced at once (R473). -/
theorem substituteRow_spare {row spare trig : Nat} {s : State} (h : spare ≠ 0) : substituteRow row spare trig s
    = fwdDone 4 false row (spare - 1) trig { s with fw := { s.fw with stat := none }, hd := { s.hd with sub := NMap.set 0 s.hd.sub row spare } } :=
  if_neg h

theorem rowStarts {s : State} {row r : Nat} (hr : running s = true) (he : entryRoom s = true) (hp : s.fw.stat = none)
    (hn : (List.range 4096).find? (fun r => mayForward s 4 r) = some row) (hs : spareRow s = some r) (hh : rowHeld s row = false) :
    ∃ t, exec (.fwdStart .statRow) s = .next t ∧ Only [.regs, .hd, .tr, .dbg, .fw] s t ∧ Unpended s (unitKey 4 row) t ∧ Within eventRegs s t
      ∧ (∀ i, NMap.get 0 t.hd.sub i = if i = row then r + 1 else NMap.get 0 s.hd.sub i) ∧ t.fw.rowsUsed = r :: s.fw.rowsUsed ∧ t.fw.stat = none
      ∧ Ended s 4 false row r (trigOf s 4 row) t := by
  have hs' : spareRow (unpend 4 row s) = some r := hs
  have heq : startRow row s = fwdDone 4 false row r (trigOf s 4 row) { unpend 4 row s with
      fw := { (unpend 4 row s).fw with rowsUsed := r :: s.fw.rowsUsed, stat := none }, hd := { s.hd with sub := NMap.set 0 s.hd.sub row (r + 1) } } := by
    unfold startRow
    dsimp only
    rw [hs']
    dsimp only
    rw [if_neg (Nat.succ_ne_zero r)]
    refine (if_neg (Bool.eq_false_iff.mp hh)).trans ?_
    exact substituteRow_spare (Nat.succ_ne_zero r)
  refine ⟨_, exec_fwdStart_row hr he hp hn, startRow_only row s, ?_, startRow_within row s, ?_⟩
  · rw [heq]
    exact (unpend_unpended 4 row s).of_fw (by rw [fwdDone_fw]) (by rw [fwdDone_fw])
  · rw [heq]
    refine ⟨fun i => ?_, ?_, ?_, fwdDone_ended 4 false row r _ rfl rfl⟩
    · rw [(fwdDone_only _ _ _ _ _ _) .hd (by decide)]
      exact NMap.get_set 0 s.hd.sub (r + 1) row i
    · rw [fwdDone_fw]
    · rw [fwdDone_fw]

/-! What the reads and stores of the copy leave of the migration (R462, R466, R467) -/

/-- The migration under way stays. -/
structure SameMig (s t : State) : Prop where
  mig : t.fw.mig = s.fw.mig

theorem SameMig.refl (s : State) : SameMig s s := ⟨rfl⟩

theorem SameMig.trans {s t u : State} (h : SameMig s t) (k : SameMig t u) : SameMig s u := ⟨k.mig.trans h.mig⟩

theorem SameMig.of_only {ps : List Part} {s t : State} (k : Only ps s t) (h : ¬ Part.fw ∈ ps := by decide) : SameMig s t :=
  ⟨congrArg FwdSt.mig (k .fw h)⟩

theorem SameMig.ite {c : Prop} [Decidable c] {s t u : State} (ht : SameMig s t) (hu : SameMig s u) : SameMig s (if c then t else u) := by
  split
  · exact ht
  · exact hu

theorem stormBank_sameMig (lb : Nat) (s : State) : SameMig s (stormBank lb s) := by
  have ho : SameMig s (openStorm s) := .ite (.refl s) ⟨rfl⟩
  exact .ite ho (ho.trans ⟨rfl⟩)

/-- The forwarding copy's chunk sets no unit pending. -/
theorem accountChunk_sameMig {r : Reader} (hr : r.copy = true) (t lb pb row c : Nat) (x : ChunkRead) (s : State) :
    SameMig s (accountChunk t lb pb row c r x s) := by
  have hbump : ∀ o i u, SameMig u (xbump i 1 (bump o 1 u)) := fun o i u =>
    (SameMig.of_only (bump_only o 1 u)).trans (.of_only (xbump_only i 1 _))
  have hlog : ∀ o bp u, SameMig u (eccLog o lb pb row c bp r u) := fun o bp u => .of_only (eccLog_only o lb pb row c bp r u)
  unfold accountChunk
  rw [hr]
  split
  · have h := (hbump 0x5988 lb s).trans (hlog 0x0810 x.bitpos _)
    refine .ite ?_ h
    split
    · exact h.trans ⟨rfl⟩
    · exact .ite h (h.trans (hbump 0x59A8 (512 + lb) _))
  · have h := ((hbump 0x5990 (128 + lb) s).trans (hlog 0x0818 0 _)).trans ⟨congrArg FwdSt.mig (raise_fw 8 _)⟩
    exact .ite (h.trans (stormBank_sameMig lb _)) h
  · exact hbump 0x5998 (256 + lb) s
  · exact hbump 0x59A0 (384 + lb) s
  · exact .refl s

theorem readChunk_sameMig {r : Reader} (hr : r.copy = true) (t lb pb row : Nat) (ups : List Upset) (c : Nat) (s : State) :
    SameMig s (readChunk t lb pb row r ups c s).2 := by
  refine SameMig.trans ?_ (accountChunk_sameMig hr ..)
  have h : ∀ b : BankSt, SameMig s (if ups = [] then s else { s with bank := b }) := fun b => .ite (.refl s) ⟨rfl⟩
  exact .ite ((h _).trans ⟨rfl⟩) (h _)

theorem readRowAt_sameMig {r : Reader} (hr : r.copy = true) (t lb pb row : Nat) (ups : List Upset) (s : State) :
    SameMig s (readRowAt t lb pb row r ups s).2 := by
  have hc := fun c u => readChunk_sameMig hr t lb pb row ups c u
  exact ((((hc 0 s).trans (hc 1 _)).trans (hc 2 _)).trans (hc 3 _)).trans
    ((SameMig.of_only (estimate_only 0 1 _)).trans (.of_only (estimate_only 2 1 _)))

/-- A row read by the forwarding copy. -/
theorem readRow_sameMig {r : Reader} (hr : r.copy = true) (t lb row : Nat) (ups : List Upset) (s : State) :
    SameMig s (readRow t lb row r ups s).2 := by
  unfold readRow
  split
  · exact readRowAt_sameMig hr ..
  · exact readRowAt_sameMig rfl ..

theorem dualWrite_uncopied {lb pb row en cls wt : Nat} {s : State} (h : isCopied s lb row = false) : dualWrite lb pb row en cls wt s = s := by
  unfold dualWrite
  rw [h]
  exact if_neg (by simp)

theorem isCopied_of_mig {s t : State} (h : SameMig s t) (lb row : Nat) : isCopied t lb row = isCopied s lb row := by
  unfold isCopied
  rw [h.mig]

/-- A store of a row that the migration does not copy. -/
theorem storeRow_sameMig {lb row en : Nat} {data : Row} {pois : Mask4} {cls wt : Nat} {s : State} (h : isCopied s lb row = false) :
    SameMig s (storeRow lb row en data pois cls wt s) := by
  have hd : SameMig s (dropWb ((logicalOf s lb).getD lb) row en (storeChunks (pbankOf s lb) row en data pois s)) :=
    (SameMig.of_only (storeChunks_only _ _ _ _ _ _)).trans (.of_only (dropWb_only _ _ _ _))
  unfold storeRow
  dsimp only
  rw [dualWrite_uncopied ((isCopied_of_mig hd lb row).trans h)]
  exact hd.trans ((SameMig.of_only (estimate_only 1 1 _)).trans (.of_only (estimate_only 2 1 _)))

theorem portStore_sameMig {t lb row en : Nat} {port : Bool} {data : Row} {pois : Mask4} {cls wt : Nat} {s : State} (h : isCopied s lb row = false) :
    SameMig s (portStore t lb row en port data pois cls wt s) := by
  have hb : ∀ n u, SameMig u (when (decide (plainBank lb < 96)) (xbump (768 + plainBank lb) 1) (bump n 1 u)) := fun n u =>
    (SameMig.of_only (bump_only n 1 u)).trans (.of_only (Only.when (fun v => xbump_only _ 1 v) _ _))
  have hs : SameMig s (keepUndo t (t + 1) (pbankOf s lb) row en port (if en &&& (otherStore s t (pbankOf s lb) row port).getD 0 ≠ 0 then
      bump 0x59B8 1 s |> when (decide (plainBank lb < 96)) (xbump (768 + plainBank lb) 1) else s)) :=
    (SameMig.ite (hb 0x59B8 s) (.refl s)).trans ⟨rfl⟩
  exact hs.trans (storeRow_sameMig ((isCopied_of_mig hs lb row).trans h))

/-- The spare of a migration, named by its physical number, is not copied. -/
theorem isCopied_spare {s : State} {m : Mig} (hm : s.fw.mig = some m) (hl : m.lb < 96) (hp : m.pb < 100) (row : Nat) : isCopied s (128 + m.pb) row = false := by
  unfold isCopied
  rw [hm]
  dsimp only
  have h1 : (m.lb == 128 + m.pb) = false := beq_false_of_ne (by omega)
  have h2 : decide (256 ≤ 128 + m.pb) = false := decide_eq_false (by omega)
  rw [h1, h2, Bool.false_and, ite_self, Bool.false_and, Bool.false_and]

/-! The migration's commands (R465 to R468) -/

theorem exec_migrationCopyStart {s : State} {m : Mig} (hr : running s = true) (hm : s.fw.mig = some m) (hp : m.phase = 1)
    (hon : bankOn s (128 + m.pb) = true) :
    exec .migrationCopyStart s = .next { s with fw := { s.fw with mig := some { m with phase := 2, cp := 0, cw := 0 } } } := by
  refine congrArg Host.Outcome.next ?_
  dsimp only
  rw [hm]
  exact if_pos (by rw [hr, hp, hon]; rfl)

theorem exec_copyRow {s : State} {m : Mig} (ups : List Upset) (hr : running s = true) (hm : s.fw.mig = some m) (hp : m.phase = 2)
    (hrow : m.cp + copiesAsked s < 512) (hb : portBusy s 191 = false) : exec (.copyRow ups) s = .next
      (addTr (exchTr s 191 false .copyRd 0 (rowBeat m.lb (m.cp + copiesAsked s)))
        (strikeRow (pbankOf s m.lb) (m.cp + copiesAsked s) ups s)) := by
  refine congrArg Host.Outcome.next ?_
  dsimp only
  rw [hm]
  exact if_pos (by rw [hr, hp, decide_eq_true hrow, hb]; rfl)

theorem strikeRow_eq (pb row : Nat) (ups : List Upset) (s : State) :
    strikeRow pb row ups s = { s with bank := (strikeRow pb row ups s).bank } := by
  unfold strikeRow
  split <;> rfl

/-- The next source row is asked, with its bits flipped. -/
theorem copyRow_asks {s : State} {m : Mig} (ups : List Upset) (hr : running s = true) (hm : s.fw.mig = some m) (hp : m.phase = 2)
    (hrow : m.cp + copiesAsked s < 512) (hb : portBusy s 191 = false) : ∃ t, exec (.copyRow ups) s = .next t
      ∧ Struck (pbankOf s m.lb) (m.cp + copiesAsked s) ups s t ∧ t = { s with bank := t.bank, fr := { s.fr with nextId := s.fr.nextId + 1, trs := s.fr.trs
          ++ [{ exchTr s 191 false .copyRd 0 (rowBeat m.lb (m.cp + copiesAsked s)) with id := s.fr.nextId }] } } := by
  have hs := strikeRow_struck (pbankOf s m.lb) (m.cp + copiesAsked s) ups s
  have ho := strikeRow_eq (pbankOf s m.lb) (m.cp + copiesAsked s) ups s
  rw [exec_copyRow ups hr hm hp hrow hb]
  generalize strikeRow (pbankOf s m.lb) (m.cp + copiesAsked s) ups s = u at hs ho ⊢
  refine ⟨_, rfl, hs, ?_⟩
  rw [ho]
  rfl

/-- A row copied from the source asks for its write to the spare. -/
theorem copyRead_leaves {u : State} {m : Mig} (b : Beat) (hm : u.fw.mig = some m) : Only [.fr, .fw] u (copyRead b u)
    ∧ (copyRead b u).fw.mig = some { m with cp := m.cp + 1 }
    ∧ ∃ U ∈ (copyRead b u).fr.trs, U.id = u.fr.nextId ∧ U.req = 202 ∧ U.kind = .iwr ∧ U.job = .copyWr
      ∧ U.beats = [(rowBeat (128 + m.pb) b.row).store b.data b.pois b.en] := by
  have h : copyRead b u = addTr (exchTr (setMig { m with cp := m.cp + 1 } u) 202 true .copyWr 0 ((rowBeat (128 + m.pb) b.row).store b.data b.pois b.en))
      (setMig { m with cp := m.cp + 1 } u) := by
    unfold copyRead
    rw [hm]
    rfl
  rw [h]
  exact ⟨((only_fw u _).mono (by decide)).trans ((addTr_only _ _).mono (by decide)), rfl,
    ⟨_, List.mem_append_right _ List.mem_cons_self, rfl, rfl, rfl, rfl, rfl⟩⟩

theorem copyWritten_mig {u : State} {m : Mig} (hm : u.fw.mig = some m) :
    (copyWritten u).fw.mig = some { m with cw := m.cw + 1, phase := if m.cw = 511 then 3 else m.phase } := by
  unfold copyWritten
  rw [hm]
  rfl

theorem portTrs_req {s : State} {r : Nat} {T : Tr} (h : T ∈ portTrs s r) : T.req = r :=
  (by simpa using (List.mem_filter.mp h).2 : T.req = r ∧ (T.kind = .ird ∨ T.kind = .iwr)).1

theorem jobDone_copyRd {T : Tr} (h : T.job = .copyRd) (b : Beat) (s : State) : jobDone { T with beats := [b] } s = copyRead b s := by
  unfold jobDone
  dsimp only
  rw [h]
  rfl

theorem jobDone_copyWr {T : Tr} (h : T.job = .copyWr) (b : Beat) (s : State) : jobDone { T with beats := [b] } s = copyWritten s := by
  unfold jobDone
  dsimp only
  rw [h]

theorem portEn_copy {T : Tr} (h : T.job = .copyRd) (b : Beat) (port : Bool) (ups : List Upset) (s : State) :
    portEn T b port ups s = initMap s (beatCyc s T 0 + 2) b.bank b.row := by
  unfold portEn
  rw [h, if_neg (fun h => by cases h), if_pos rfl]

theorem portRow_copy {T : Tr} (hk : T.kind = .ird) (h : T.job = .copyRd) (b : Beat) (port : Bool) (ups : List Upset) (s : State) :
    portRow T b port ups s = (readRow (beatCyc s T 0 + 2) b.bank b.row ⟨port, 3, 15, true⟩ ups s).1
      ∧ readerOf T port = ⟨port, 3, 15, true⟩ := by
  have hrd : readerOf T port = ⟨port, 3, 15, true⟩ := by
    unfold readerOf isInternal
    rw [hk, h]
    rfl
  refine ⟨?_, hrd⟩
  unfold portRow
  rw [hrd, h, if_pos rfl]

/-- The array read of IR17's next row (R466). -/
theorem copyRow_read {port : Bool} {ups : List Upset} {s : State} {m : Mig} {T : Tr} {i : Nat} {b : Beat} {pre post : List Tr} (hr : running s = true)
    (hm : s.fw.mig = some m) (hn : nextBeat s m.lb port [.rd, .park, .ird] = some (T, i)) (hb : T.beats = [b]) (hbank : b.bank = m.lb)
    (hh : b.have_ = false) (hj : T.job = .copyRd) (hk : T.kind = .ird) (hp : T.passed = []) (hf : FreshIds s) (hport : portTrs s 191 = pre ++ T :: post)
    (hpre : ∀ U ∈ pre, U.passed ≠ []) (hpost : ∀ U ∈ post, U.passed = [] ∧ rowsDone U = false) :
    let r := (readRow (beatCyc s T 0 + 2) m.lb b.row ⟨port, 3, 15, true⟩ ups s).1
    ∃ t, exec (.arrayRead m.lb port ups) s = .next t ∧ t.mem = s.mem ∧ t.fw.mig = some { m with cp := m.cp + 1 }
      ∧ ∃ U ∈ t.fr.trs, U.id = s.fr.nextId ∧ U.req = 202 ∧ U.kind = .iwr ∧ U.job = .copyWr
        ∧ U.beats = [(rowBeat (128 + m.pb) b.row).store r.data r.pois (initMap s (beatCyc s T 0 + 2) m.lb b.row)] := by
  have hreq : T.req = 191 := portTrs_req (hport ▸ List.mem_append_right _ List.mem_cons_self)
  obtain ⟨u, he, ho, hframe, hfw⟩ := exec_portRead (ups := ups) (arraysGo_running hr) hf hn hk hb hh hp (hreq ▸ hport) hpre hpost
  obtain ⟨hrow, hrd⟩ := portRow_copy hk hj b port ups s
  have hmig : u.fw.mig = some m := by
    rw [hfw, hrd, (readRow_sameMig rfl _ _ _ _ _).mig, hm]
  have hid : u.fr.nextId = s.fr.nextId := by rw [hframe.1]
  rw [jobDone_copyRd hj] at he
  obtain ⟨hco, hcm, U, hU, h1, h2, h3, h4, h5⟩ := copyRead_leaves (portBeat T b port ups s) hmig
  refine ⟨_, he, (hco .mem (by decide)).trans (ho .mem (by decide)), hcm, U, hU, h1.trans hid, h2, h3, h4, h5.trans ?_⟩
  rw [show (portBeat T b port ups s).data = (portRow T b port ups s).data from rfl,
    show (portBeat T b port ups s).pois = (portRow T b port ups s).pois from rfl,
    show (portBeat T b port ups s).en = portEn T b port ups s from rfl, hrow, portEn_copy hj, hbank]
  rfl

/-- The array write of IW8's next row (R465). -/
theorem copyRow_written {bank : Nat} {port : Bool} {par : Parity} {s : State} {m : Mig} {T : Tr} {i : Nat} {b : Beat} {pre post : List Tr}
    (hr : running s = true) (hm : s.fw.mig = some m) (hl : m.lb < 96) (hpb : m.pb < 100) (hbank : bank = 128 + m.pb)
    (hn : nextBeat s bank port [.wr, .parkWr, .iwr] = some (T, i)) (hb : T.beats = [b]) (hj : T.job = .copyWr) (hk : T.kind = .iwr) (hp : T.passed = [])
    (hf : FreshIds s) (hport : portTrs s 202 = pre ++ T :: post) (hpre : ∀ U ∈ pre, U.passed ≠ [])
    (hpost : ∀ U ∈ post, U.passed = [] ∧ rowsDone U = false) :
    ∃ t, exec (.arrayWrite bank port par) s = .next t
      ∧ t.fw.mig = some { m with cw := m.cw + 1, phase := if m.cw = 511 then 3 else m.phase } := by
  have hreq : T.req = 202 := portTrs_req (hport ▸ List.mem_append_right _ List.mem_cons_self)
  obtain ⟨u, he, -, -, hfw⟩ := exec_portWrite (par := par) (arraysGo_running hr) hf hn hk hb hp (hreq ▸ hport) hpre hpost
  have hbb : b.bank = 128 + m.pb := hbank ▸ (beat_single hn hb).2.2
  have hmig : u.fw.mig = some m := by
    rw [hfw, (portStore_sameMig (hbb ▸ isCopied_spare hm hl hpb b.row)).mig, hm]
  rw [jobDone_copyWr hj] at he
  exact ⟨_, he, copyWritten_mig hmig⟩

/-! The switch of a migration (R468) -/

theorem Within.sub {xs ys : List Span} {s t : State} (h : Within xs s t) (hs : ∀ x ∈ xs, x ∈ ys) : Within ys s t := fun o ho => h o (by
  rw [List.any_eq_false] at ho ⊢
  exact fun x hx => ho x (hs x hx))

theorem exec_migrationSwitch {s : State} {m : Mig} (hr : running s = true) (hm : s.fw.mig = some m) (hp : m.phase = 3) (hd : m.dual = [])
    (hon : bankOn s m.lb = true) (hsp : bankOn s (128 + m.pb) = true) :
    exec .migrationSwitch s = .next (finishMig m none (some { m with phase := 4 }) s) := by
  refine congrArg Host.Outcome.next ?_
  rw [hm]
  exact if_pos (by rw [hr, hp, hd, hon, hsp]; rfl)

theorem leaveBehind_job (lb pb : Nat) (T : Tr) : (leaveBehind lb pb T).job = T.job := by
  unfold leaveBehind
  split <;> rfl

/-- The transfers that a migration's end leaves. -/
theorem finishMig_trs {m : Mig} {held : Option PowReq} {tail : Option Mig} {s : State} {T : Tr} (hT : T ∈ s.fr.trs) (hj : T.job.isMig = false) :
    leaveBehind m.lb (pbankOf s m.lb) T ∈ (finishMig m held tail s).fr.trs := by
  have hfr : (finishMig m held tail s).fr = (migMoved m held tail s).fr :=
    fwdDone_only 0 false m.lb m.pb m.trig (migMoved m held tail s) .fr (by decide)
  have hd : (migMoved m held tail s).fr = (dropJobs Job.isMig { s with fr := { s.fr with trs := s.fr.trs.map (leaveBehind m.lb (pbankOf s m.lb)) } }).fr := by
    cases held <;> rfl
  rw [hfr, hd]
  exact (mem_dropJobs rfl).2 _ (List.mem_map_of_mem hT) (by rw [leaveBehind_job, hj])

/-- The registers that a migration's end writes before its cause. -/
theorem migMoved_within {m : Mig} {tail : Option Mig} {s : State} (hl : m.lb < 96) (hp : pbankOf s m.lb < 100) :
    Within [⟨0x7100 + 4 * (m.lb / 4), 0, 1⟩, ⟨0x7090 + 4 * (pbankOf s m.lb / 32), 0, 1⟩, ⟨0x7078 + 4 * (m.lb / 32), 0, 1⟩] s (migMoved m none tail s) := by
  unfold migMoved
  dsimp only
  rw [Nat.mod_eq_of_lt (by omega : m.lb / 4 < 24), Nat.mod_eq_of_lt (by omega : m.lb / 32 < 3), Nat.mod_eq_of_lt (by omega : pbankOf s m.lb / 32 < 4)]
  generalize hu : ({ s with
      fw := { s.fw with mig := tail, wcnt := NMap.set 0 s.fw.wcnt (unitKey 0 m.lb) 0 }
      fr := { s.fr with trs := s.fr.trs.map (leaveBehind m.lb (pbankOf s m.lb)) }
      bank := { s.bank with wb := NMap.set none s.bank.wb m.lb none } } : State) = u
  have h0 : ∀ xs, Within xs s u := fun xs => by
    rw [← hu]
    exact Within.refl xs s
  have h1 := Within.sub (ys := [⟨0x7100 + 4 * (m.lb / 4), 0, 1⟩, ⟨0x7090 + 4 * (pbankOf s m.lb / 32), 0, 1⟩, ⟨0x7078 + 4 * (m.lb / 32), 0, 1⟩])
    (setReg_within (0x7100 + 4 * (m.lb / 4)) (BitVec.ofNat 32 (setBits (reg u (0x7100 + 4 * (m.lb / 4))).toNat (8 * (m.lb % 4) + 7) (8 * (m.lb % 4)) m.pb)) u)
    (by simp)
  have h2 := fun v => Within.sub (ys := [⟨0x7100 + 4 * (m.lb / 4), 0, 1⟩, ⟨0x7090 + 4 * (pbankOf s m.lb / 32), 0, 1⟩, ⟨0x7078 + 4 * (m.lb / 32), 0, 1⟩])
    (orReg_within (0x7090 + 4 * (pbankOf s m.lb / 32)) (2 ^ (pbankOf s m.lb % 32)) v) (by simp)
  have h3 := fun v => Within.sub (ys := [⟨0x7100 + 4 * (m.lb / 4), 0, 1⟩, ⟨0x7090 + 4 * (pbankOf s m.lb / 32), 0, 1⟩, ⟨0x7078 + 4 * (m.lb / 32), 0, 1⟩])
    (clrReg_within (0x7078 + 4 * (m.lb / 32)) (2 ^ (m.lb % 32)) v) (by simp)
  exact (h0 _).trans (h1.trans ((h2 (dropJobs Job.isMig (setRegF _ _ _ m.pb u))).trans (h3 _)))

theorem finishMig_switch_within {m : Mig} {tail : Option Mig} {s : State} (hl : m.lb < 96) (hp : pbankOf s m.lb < 100) :
    Within ([⟨0x7100 + 4 * (m.lb / 4), 0, 1⟩, ⟨0x7090 + 4 * (pbankOf s m.lb / 32), 0, 1⟩, ⟨0x7078 + 4 * (m.lb / 32), 0, 1⟩] ++ eventRegs) s
      (finishMig m none tail s) := by
  rw [finishMig_eq]
  exact ((migMoved_within hl hp).sub fun x hx => List.mem_append_left _ hx).trans
    ((fwdDone_within 0 false m.lb m.pb m.trig _).sub fun x hx => List.mem_append_right _ hx)

/-- The retired bank's bit (R468). -/
theorem finishMig_retires {m : Mig} {tail : Option Mig} {s : State} (hl : m.lb < 96) (hp : pbankOf s m.lb < 100) :
    regB (finishMig m none tail s) (0x7090 + 4 * (pbankOf s m.lb / 32)) (pbankOf s m.lb % 32) = true := by
  have h : ∀ u : State, regB (orReg (0x7090 + 4 * (pbankOf s m.lb / 32)) (2 ^ (pbankOf s m.lb % 32)) u) (0x7090 + 4 * (pbankOf s m.lb / 32))
      (pbankOf s m.lb % 32) = true := fun u => by rw [regB_orReg_bit (Nat.mod_lt _ (by decide))]; simp
  rw [finishMig_eq, fwdDone]
  refine (regB_eq_of_reg (raise_reg_high (by omega))).trans ?_
  unfold migMoved
  dsimp only
  rw [Nat.mod_eq_of_lt (by omega : m.lb / 32 < 3), Nat.mod_eq_of_lt (by omega : pbankOf s m.lb / 32 < 4)]
  exact (regB_eq_of_reg (reg_clrReg_ne (by omega))).trans (h _)

theorem finishMig_retire {m : Mig} {tail : Option Mig} (s : State) (b : Nat) :
    powOf (finishMig m none tail s) b = if b = pbankOf s m.lb then (powOf s (pbankOf s m.lb)).retire else powOf s b := by
  rw [finishMig_eq, powOf_of_pow (congrArg BankSt.pow (fwdDone_only 0 false m.lb m.pb m.trig (migMoved m none tail s) .bank (by decide))) b]
  exact powOf_setPow ..

/-- The map names the spare, the old bank is retired, and granted transfers keep their beats at it. -/
theorem migrationSwitches {s : State} {m : Mig} (hr : running s = true) (hm : s.fw.mig = some m) (hp : m.phase = 3) (hd : m.dual = [])
    (hon : bankOn s m.lb = true) (hsp : bankOn s (128 + m.pb) = true) (hl : m.lb < 96) (hpb : m.pb < 100) (hold : pbankOf s m.lb < 100) :
    ∃ t, exec .migrationSwitch s = .next t ∧ Only [.regs, .bank, .fr, .tr, .dbg, .fw] s t ∧ t.fw.mig = some { m with phase := 4 }
      ∧ (∀ T ∈ s.fr.trs, T.job.isMig = false → leaveBehind m.lb (pbankOf s m.lb) T ∈ t.fr.trs)
      ∧ Within ([⟨0x7100 + 4 * (m.lb / 4), 0, 1⟩, ⟨0x7090 + 4 * (pbankOf s m.lb / 32), 0, 1⟩, ⟨0x7078 + 4 * (m.lb / 32), 0, 1⟩] ++ eventRegs) s t
      ∧ (∀ lb, lb < 96 → pbankOf t lb = if lb = m.lb then m.pb else pbankOf s lb)
      ∧ regB t (0x7090 + 4 * (pbankOf s m.lb / 32)) (pbankOf s m.lb % 32) = true
      ∧ (∀ b, powOf t b = if b = pbankOf s m.lb then (powOf s (pbankOf s m.lb)).retire else powOf s b)
      ∧ Ended s 0 false m.lb m.pb m.trig t :=
  ⟨_, exec_migrationSwitch hr hm hp hd hon hsp, finishMig_only _ _ _ _, (finishMig_fw ..).1, fun _ => finishMig_trs, finishMig_switch_within hl hold,
    fun _ hi => finishMig_map hl hi hpb, finishMig_retires hl hold, finishMig_retire s, finishMig_ended m none _ s⟩

/-! The ends of the other forwardings (R471 to R473) -/

theorem planesOf_setPlanes_other {kind : Nat} (h : kind = 1 ∨ kind = 2) (act sp : BitVec 18) (s : State) :
    planesOf (setPlanes kind act sp s) (3 - kind) = planesOf s (3 - kind) := by
  rcases h with rfl | rfl <;> rfl

/-- The planes in service once the failing one has left and its spare has joined. -/
def planesAfter (r : FwdRun) (act : BitVec 18) : BitVec 18 :=
  if r.spare = 0 then act &&& ~~~ BitVec.ofNat 18 (2 ^ r.unit) else act &&& ~~~ BitVec.ofNat 18 (2 ^ r.unit) ||| BitVec.ofNat 18 (2 ^ (r.spare - 1))

theorem planesAfter_bit {r : FwdRun} (act : BitVec 18) {i : Nat} (hi : i < 18) (hs : r.spare ≠ r.unit + 1) :
    (planesAfter r act).getLsbD i = (i != r.unit && (act.getLsbD i || i + 1 == r.spare)) := by
  have hbit : ∀ k, (BitVec.ofNat 18 (2 ^ k)).getLsbD i = decide (k = i) := fun k => by
    rw [BitVec.getLsbD_ofNat, Nat.testBit_two_pow, decide_eq_true hi, Bool.true_and]
  have hout : (act &&& ~~~ BitVec.ofNat 18 (2 ^ r.unit)).getLsbD i = (i != r.unit && act.getLsbD i) := by
    rw [BitVec.getLsbD_and, BitVec.getLsbD_not, decide_eq_true hi, Bool.true_and, hbit, Bool.and_comm]
    by_cases h : i = r.unit
    · simp [h]
    · simp [h, Ne.symm h]
  unfold planesAfter
  split
  next h0 =>
    rw [hout, h0]
    simp
  next h0 =>
    rw [BitVec.getLsbD_or, hout, hbit]
    by_cases h : i + 1 = r.spare
    · have h1 : r.spare - 1 = i := by omega
      have h2 : i ≠ r.unit := by omega
      simp [h, h1, h2]
    · have h1 : ¬ r.spare - 1 = i := by omega
      simp [beq_false_of_ne h, h1]

theorem exec_planeForwardDone {s : State} {r : FwdRun} (hr : running s = true) (hp : s.fw.plane = some r)
    (hd : r.spare = 0 ∨ (domOf s (r.spare - 1)).st = 2) : exec .planeForwardDone s = .next (fwdDone r.kind (r.spare == 0) r.unit (r.spare - 1) r.trig
      (retirePlaneDom r.unit (setPlanes r.kind (planesAfter r (planesOf s r.kind).1) (planesOf s r.kind).2 { s with fw := { s.fw with plane := none } }))) := by
  refine congrArg Host.Outcome.next ?_
  rw [hp]
  refine (if_neg ?_).trans rfl
  rw [hr]
  rcases hd with h | h
  · simp [h]
  · simp [h]

theorem planeEnds {s : State} {r : FwdRun} (hr : running s = true) (hp : s.fw.plane = some r) (hk : r.kind = 1 ∨ r.kind = 2)
    (hs : r.spare ≠ r.unit + 1) (hd : r.spare = 0 ∨ (domOf s (r.spare - 1)).st = 2) :
    ∃ t, exec .planeForwardDone s = .next t ∧ Only [.regs, .tr, .dbg, .fw, .pw] s t ∧ t.fw.plane = none
      ∧ (∀ i, i < 18 → (planesOf t r.kind).1.getLsbD i = (i != r.unit && ((planesOf s r.kind).1.getLsbD i || i + 1 == r.spare)))
      ∧ planesOf t (3 - r.kind) = planesOf s (3 - r.kind) ∧ Ended s r.kind (r.spare == 0) r.unit (r.spare - 1) r.trig t := by
  have he := exec_planeForwardDone hr hp hd
  have hset := setPlanes_fw r.kind (planesAfter r (planesOf s r.kind).1) (planesOf s r.kind).2 { s with fw := { s.fw with plane := none } }
  have hown := planesOf_setPlanes r.kind (planesAfter r (planesOf s r.kind).1) (planesOf s r.kind).2 { s with fw := { s.fw with plane := none } }
  have hoth := planesOf_setPlanes_other hk (planesAfter r (planesOf s r.kind).1) (planesOf s r.kind).2 { s with fw := { s.fw with plane := none } }
  have htm : (setPlanes r.kind (planesAfter r (planesOf s r.kind).1) (planesOf s r.kind).2 { s with fw := { s.fw with plane := none } }).tm = s.tm :=
    setPlanes_only _ _ _ _ .tm (by decide)
  generalize setPlanes r.kind (planesAfter r (planesOf s r.kind).1) (planesOf s r.kind).2 { s with fw := { s.fw with plane := none } } = u at he hset hown hoth htm
  obtain ⟨hplane, -, -, hents⟩ := hset
  have hfw : (retirePlaneDom r.unit u).fw = u.fw := retirePlaneDom_only _ _ .fw (by decide)
  have hpl : ∀ k, planesOf (fwdDone r.kind (r.spare == 0) r.unit (r.spare - 1) r.trig (retirePlaneDom r.unit u)) k = planesOf u k := fun k => by
    unfold planesOf
    rw [fwdDone_fw, hfw]
  refine ⟨_, he, exec_only he, ?_, fun i hi => ?_, (hpl _).trans hoth,
    fwdDone_ended _ _ _ _ _ ((congrArg FwdSt.ents hfw).trans hents) ((retirePlaneDom_only _ _ .tm (by decide)).trans htm)⟩
  · rw [fwdDone_fw, hfw]
    exact hplane
  · rw [hpl, hown]
    exact planesAfter_bit _ hi hs

theorem exec_clusterRetire {s : State} {r : FwdRun} (hr : running s = true) (hp : s.fw.cluster = some r) (hc : clusterRetiring s r.unit = true)
    (hs : ∀ e, e ∈ s.bl.slot → e.1 / 4 ≠ r.unit) : exec .clusterRetire s = .next (fwdDone 3 (r.spare == 0) r.unit (r.spare - 1) r.trig
      (retireDom (18 + r.unit) { s with fw := { s.fw with cluster := none, cl := s.fw.cl &&& ~~~ BitVec.ofNat 9 (2 ^ r.unit) } })) := by
  have hall : s.bl.slot.all (fun e => e.1 / 4 != r.unit) = true := List.all_eq_true.mpr fun e he => bne_iff_ne.mpr (hs e he)
  refine congrArg Host.Outcome.next ?_
  rw [hp]
  exact if_pos (by rw [hr, hc, hall]; rfl)

theorem clusterEnds {s : State} {r : FwdRun} (hr : running s = true) (hp : s.fw.cluster = some r) (hc : clusterRetiring s r.unit = true)
    (hs : ∀ e, e ∈ s.bl.slot → e.1 / 4 ≠ r.unit) :
    ∃ t, exec .clusterRetire s = .next t ∧ Only [.regs, .tr, .dbg, .fw, .pw] s t ∧ Within ([⟨0x40A0, 0, 1⟩] ++ eventRegs) s t ∧ t.fw.cluster = none
      ∧ (∀ i, i < 9 → t.fw.cl.getLsbD i = (s.fw.cl.getLsbD i && i != r.unit)) ∧ Ended s 3 (r.spare == 0) r.unit (r.spare - 1) r.trig t := by
  have he := exec_clusterRetire hr hp hc hs
  refine ⟨_, he, exec_only he, execClusterRetire_within s _ he, ?_, fun i hi => ?_, fwdDone_ended _ _ _ _ _ rfl rfl⟩
  · rw [fwdDone_fw]
    rfl
  · rw [fwdDone_fw]
    refine (BitVec.getLsbD_and ..).trans ?_
    rw [BitVec.getLsbD_not, decide_eq_true hi, Bool.true_and, BitVec.getLsbD_ofNat, Nat.testBit_two_pow, decide_eq_true hi, Bool.true_and]
    by_cases h : i = r.unit
    · simp [h]
    · simp [h, Ne.symm h]

theorem exec_statrowSubstitute {s : State} {r : FwdRun} (hr : running s = true) (hp : s.fw.stat = some r) (hh : rowHeld s r.unit = false) :
    exec .statrowSubstitute s = .next (substituteRow r.unit r.spare r.trig s) := by
  refine congrArg Host.Outcome.next ?_
  rw [hp]
  exact if_pos (by rw [hr, hh]; rfl)

theorem rowEnds {s : State} {r : FwdRun} (hr : running s = true) (hp : s.fw.stat = some r) (hh : rowHeld s r.unit = false) :
    ∃ t, exec .statrowSubstitute s = .next t ∧ Only [.regs, .hd, .tr, .dbg, .fw] s t ∧ Within eventRegs s t ∧ t.fw.stat = none
      ∧ (if r.spare = 0 then NMap.get false t.hd.gone r.unit = true ∧ t.hd.sub = s.hd.sub
         else ∀ i, NMap.get 0 t.hd.sub i = if i = r.unit then r.spare else NMap.get 0 s.hd.sub i)
      ∧ Ended s 4 (r.spare == 0) r.unit (r.spare - 1) r.trig t := by
  have he := exec_statrowSubstitute hr hp hh
  refine ⟨_, he, exec_only he, execStatrowSubstitute_within s _ he, ?_⟩
  by_cases h0 : r.spare = 0
  · have hsub : substituteRow r.unit r.spare r.trig s = fwdDone 4 true r.unit 0 r.trig { s with
        fw := { s.fw with stat := none }, hd := { s.hd with gone := NMap.set false s.hd.gone r.unit true } } := if_pos h0
    rw [hsub, if_pos h0, h0, fwdDone_fw, fwdDone_hd]
    exact ⟨rfl, ⟨NMap.get_set_self false s.hd.gone r.unit true, rfl⟩,
      fwdDone_ended 4 true r.unit 0 r.trig rfl rfl⟩
  · have hsub := substituteRow_spare (row := r.unit) (trig := r.trig) (s := s) h0
    rw [hsub, if_neg h0, beq_false_of_ne h0, fwdDone_fw, fwdDone_hd]
    exact ⟨rfl, fun i => NMap.get_set ..,
      fwdDone_ended 4 false r.unit (r.spare - 1) r.trig rfl rfl⟩

/-- Settles O60, command by command. -/
theorem failingUnitsMoveToSpares : Obligations.FailingUnitsMoveToSpares := by
  unfold Obligations.FailingUnitsMoveToSpares
  intro s hr
  exact ⟨fun he => ⟨fun lb hm hn => bankStarts hr he hm hn, fun kind k j hp hn hc hj => planeStarts hr he hp hn hc hj,
      fun c hp hn hsp => clusterStarts hr he hp hn hsp, fun row r hp hn hs hh => rowStarts hr he hp hn hs hh⟩,
    fun m hm => ⟨fun hp hon => ⟨_, exec_migrationCopyStart hr hm hp hon, rfl⟩, fun hp hrow hb ups => copyRow_asks ups hr hm hp hrow hb,
      fun port ups T i b pre post hn hb hbank hh hj hk hp hf hport hpre hpost => copyRow_read hr hm hn hb hbank hh hj hk hp hf hport hpre hpost,
      fun bank port par T i b pre post hl hpb hbank hn hb hj hk hp hf hport hpre hpost =>
        copyRow_written hr hm hl hpb hbank hn hb hj hk hp hf hport hpre hpost,
      fun hp hd hon hsp hl hpb hold => migrationSwitches hr hm hp hd hon hsp hl hpb hold⟩,
    fun r hp hk _ _ hs hd => planeEnds hr hp hk hs hd, fun r hp hc _ hs => clusterEnds hr hp hc hs, fun r hp hh => rowEnds hr hp hh⟩

end Sys2Proof.Machine
end
